-- ==== Sys2Proof/Word.lean ====
section
/-! DEFINITION. The words of the part: 32-bit register words, bytes, and the place of a register field. -/

namespace Sys2Proof

/-- A register word, or a word of any addressed memory of the part (R383). -/
abbrev Word := BitVec 32

/-- A byte of addressed memory. -/
abbrev Byte := BitVec 8

/-- The place of a register field: the byte offset of its register in the page (window words lie 2^24 higher),
its lowest bit and its width. -/
structure Field where
  off : Nat
  lo : Nat
  width : Nat
deriving DecidableEq, Repr

end Sys2Proof
end

