-- ==== Sys2Proof/Syntax.lean ====
section
/-! DEFINITION. -/

namespace Sys2Proof

/-- Who makes an access: a supervisor core, an application core (2 is S2 in compat mode), a loop engine, the host port, or
Trellis (R334). -/
inductive Master where
  | core (n : Nat) | app (n : Nat) | engine (n : Nat) | host | trellis
deriving DecidableEq, Repr

/-- What the security engine finds of a request it serves: the root slot that the signer's keys hash to (0 V, 1 O0, 2 O1, other
none), whether the body carries the current challenge, whether the two signatures verify, what a lifecycle token asks for (a
state 0 to 4, or 8 plus the slot to revoke), the words of a signed report, and the packages of a bank with the first step of
R454 that each fails, 0 none (R451 to R461). -/
structure SecFacts where
  slot : Nat
  challenge : Bool
  ecdsa : Bool
  hss : Bool
  target : Nat
  report : List Word
  packages : List (Nat × Nat)
deriving DecidableEq, Repr

/-- One row of the command table each, with the operands that the row's rule gives it (R3, R16 and the rules named at the
meanings). -/
inductive Instr where
  | polderEnable (page : Fin 256) (drain : Bool) (test : Bool) (blkrst : Bool)
  | polderPowerDown (page : Fin 256) (drain : Bool) (test : Bool) (blkrst : Bool)
  | drainRequest (page : Fin 256) (en : Bool) (test : Bool) (blkrst : Bool)
  | drainCancel (page : Fin 256) (en : Bool) (test : Bool) (blkrst : Bool)
  | testRequest (page : Fin 256) (en : Bool) (drain : Bool) (blkrst : Bool)
  | blockReset (page : Fin 256) (en : Bool) (drain : Bool) (test : Bool)
  | blockResetComplete (polder : Nat)
  | drainEvaluation
  | drainComplete (polder : Nat)
  | drainTimeout (polder : Nat)
  | selfTestComplete (polder : Nat) (pass : Bool)
  | testSluiceWithhold (polder : Nat)
  | stallClosure (polders : List Nat)
  | closedSluiceRequest (requester : Nat) (target : Nat) (copyOf : Option Nat)
  | rateWindowEnd (engine : Fin 16) (ticks : Nat)
  | rateProbe (engine : Fin 16) (ops : Nat) (ticks : Nat)
  | readNowL (port : Fin 5)
  | interpolatorRecalibration (channel : Fin 256) (ok : Bool)
  | crystalLoss
  | switchoverComplete
  | crystalReturnRequest
  | crystalReturnComplete
  | xtalOkChange (ok : Bool)
  | dikeTickCheck (deviates : Bool) (refFails : Bool)
  | exit (e : Fin 16)
  | trap (e : Fin 16) (code : Fin 256)
  | br (e : Fin 16) (off : Int)
  | brc (e : Fin 16) (cond : Fin 16) (off : Int)
  | cmp (e : Fin 16) (qa : Fin 64) (qb : Fin 64) (fn : Fin 3)
  | mov (e : Fin 16) (qd : Fin 64) (qa : Fin 64)
  | movl (e : Fin 16) (qd : Fin 64) (imm : BitVec 16)
  | movh (e : Fin 16) (qd : Fin 64) (imm : BitVec 16)
  | lds (e : Fin 16) (q : Fin 64) (qa : Fin 64) (off : Fin 8192) (x : Bool)
  | sts (e : Fin 16) (q : Fin 64) (qa : Fin 64) (off : Fin 8192) (x : Bool)
  | ins (e : Fin 16) (q : Fin 64) (qx : Fin 64) (h : Fin 16)
  | outs (e : Fin 16) (q : Fin 64) (qx : Fin 64) (h : Fin 16) (asInt : Bool)
  | stamp (e : Fin 16) (qd : Fin 64) (qa : Fin 64) (fn : Fin 4)
  | fadd (e : Fin 16) (qd : Fin 64) (qa : Fin 64) (qb : Fin 64)
  | fsub (e : Fin 16) (qd : Fin 64) (qa : Fin 64) (qb : Fin 64)
  | fmul (e : Fin 16) (qd : Fin 64) (qa : Fin 64) (qb : Fin 64)
  | fdiv (e : Fin 16) (qd : Fin 64) (qa : Fin 64) (qb : Fin 64)
  | fsqrt (e : Fin 16) (qd : Fin 64) (qa : Fin 64)
  | fabs (e : Fin 16) (qd : Fin 64) (qa : Fin 64)
  | fneg (e : Fin 16) (qd : Fin 64) (qa : Fin 64)
  | fmin (e : Fin 16) (qd : Fin 64) (qa : Fin 64) (qb : Fin 64)
  | fmax (e : Fin 16) (qd : Fin 64) (qa : Fin 64) (qb : Fin 64)
  | fclamp (e : Fin 16) (qd : Fin 64) (qa : Fin 64) (qb : Fin 64) (qc : Fin 64)
  | fma (e : Fin 16) (qd : Fin 64) (qa : Fin 64) (qb : Fin 64) (qc : Fin 64)
  | fnma (e : Fin 16) (qd : Fin 64) (qa : Fin 64) (qb : Fin 64) (qc : Fin 64)
  | cvt (e : Fin 16) (qd : Fin 64) (qa : Fin 64) (fn : Fin 3)
  | add (e : Fin 16) (qd : Fin 64) (qa : Fin 64) (qb : Fin 64)
  | sub (e : Fin 16) (qd : Fin 64) (qa : Fin 64) (qb : Fin 64)
  | and (e : Fin 16) (qd : Fin 64) (qa : Fin 64) (qb : Fin 64)
  | or (e : Fin 16) (qd : Fin 64) (qa : Fin 64) (qb : Fin 64)
  | xor (e : Fin 16) (qd : Fin 64) (qa : Fin 64) (qb : Fin 64)
  | shl (e : Fin 16) (qd : Fin 64) (qa : Fin 64) (qb : Fin 64)
  | shr (e : Fin 16) (qd : Fin 64) (qa : Fin 64) (qb : Fin 64) (fn : Fin 2)
  | sincos (e : Fin 16) (qd : Fin 64) (qa : Fin 64)
  | atan2 (e : Fin 16) (qd : Fin 64) (qa : Fin 64) (qb : Fin 64)
  | clarke (e : Fin 16) (qd : Fin 64) (qa : Fin 64) (qb : Fin 64) (qc : Fin 64) (fn : Fin 2)
  | park (e : Fin 16) (qd : Fin 64) (qa : Fin 64) (qb : Fin 64) (qc : Fin 64) (fn : Fin 2)
  | ipark (e : Fin 16) (qd : Fin 64) (qa : Fin 64) (qb : Fin 64) (qc : Fin 64) (fn : Fin 2)
  | svm (e : Fin 16) (qd : Fin 64) (qa : Fin 64) (qb : Fin 64) (qc : Fin 64) (fn : Fin 2)
  | pi (e : Fin 16) (qd : Fin 64) (qa : Fin 64) (qb : Fin 64) (rec_ : Fin 256)
  | rlim (e : Fin 16) (qd : Fin 64) (qa : Fin 64) (rec_ : Fin 256)
  | lpf1 (e : Fin 16) (qd : Fin 64) (qa : Fin 64) (rec_ : Fin 256)
  | minsel (e : Fin 16) (qd : Fin 64) (qa : Fin 64) (qb : Fin 64) (rec_ : Fin 256)
  | triggerStageEvent (stage : Fin 10) (event : Fin 4)
  | triggerPeriodic
  | kick (loop : Nat)
  | runDispatch (engine : Fin 16)
  | runDeadlinePassed (loop : Fin 64)
  | localMemoryWrite (engine : Fin 16) (addr : Fin 131072) (data : Word)
  | slotWrite (writer : Fin 6) (slot : Fin 1024) (word : Fin 4) (data : Word)
  | slotValueRead (port : Fin 8) (slot : Fin 1024)
  | delayPeakClear (loop : Fin 64)
  | placementEvent
  | reserveReevaluation
  | imageLoadComplete (loop : Fin 64) (kind : Fin 4)
  | moveCopyStart (loop : Fin 64)
  | moveCopyComplete (loop : Fin 64)
  | faultMove (engine : Fin 16)
  | holdGuardExpiry (page : Fin 256) (phase : Bool)
  | balanceEvaluation
  | imageStore (slot : Fin 64)
  | imageErase (slot : Fin 64)
  | imageStoreComplete (facts : SecFacts)
  | graftStandbyVerified
  | graftSwap (loop : Fin 64)
  | graftTimeout
  | stageSampleInstant (stage : Fin 10) (set : Fin 2) (crossing : Option Word)
  | stagePeriodStart (stage : Fin 10) (set : Fin 2)
  | speedRuleTransition (stage : Fin 2)
  | catchTimeout (stage : Fin 2)
  | positionLost (stage : Fin 2)
  | lossRampEnd (stage : Fin 2)
  | tqStaleTimeout (stage : Fin 2)
  | reactionEnd (stage : Fin 2)
  | delayEnd (stage : Fin 10)
  | startTimeout (stage : Fin 10)
  | stopDelayEnd (stage : Fin 10)
  | gridZeroCrossing (rms : List Word) (irms : List Word) (vpk : Word)
  | gridLoss
  | pilotPeriodDecode (high : Option Word) (low : Option Word) (edges : Bool) (period : Nat) (highTime : Nat)
  | proximityMeasurement (vpp : Word) (v33 : Word)
  | staleCommandTimeout (stage : Fin 10)
  | crowbarFire
  | crowbarClear (below : Bool)
  | actuationSpeedTimeout (stage : Fin 10)
  | actuationStopTimeout (stage : Fin 10)
  | curveEvaluation (stage : Fin 10)
  | ihPinTransition (ch : Fin 16) (pls : Bool) (en : Bool)
  | bootstrapComparator (ch : Fin 16) (low : Bool)
  | refreshPulse (ch : Fin 16)
  | chargePumpLow
  | vdsTrip (ch : Fin 16) (high : Bool) (softStill : Bool)
  | hardShort (ch : Fin 16) (high : Bool) (softStill : Bool)
  | driverFault (ch : Fin 23)
  | sequenceTrigger (periodic : Bool) (stage : Fin 10) (arg : Nat)
  | seqSw (converter : Fin 6) (bits : Nat)
  | sequenceStart (converter : Fin 6)
  | conversionComplete (converter : Fin 6) (code : Fin 16384)
  | converterPowerDown (converter : Fin 6)
  | injectedRequest (converter : Fin 6) (ain : Nat)
  | calibrationRequest (converter : Fin 6)
  | calibrationAuto (converter : Fin 6)
  | calibrationStart (converter : Fin 6)
  | calibrationComplete (converter : Fin 6) (good : Bool)
  | calibrationAbandon (converter : Fin 6)
  | tdacAutoCheck (converter : Fin 6)
  | tdacRequest (position : Fin 256) (pin : Bool)
  | tdacCheckComplete (converter : Fin 6) (code : Fin 16384) (low : Fin 16384)
  | sdDecimatorOutput (ch : Fin 12) (density : Word)
  | sdStuck (ch : Fin 12)
  | fastPathDetection (ch : Fin 12) (hard : Bool)
  | resolverDemodulation (rd : Fin 2) (angle : Fin 65536) (speed : Word) (phase : Nat) (amp : Word) (err : Word)
  | encoderEdge (a : Bool) (b : Bool) (z : Bool)
  | encoderZeroSpeed
  | votedWrite (core : Fin 3) (addr : BitVec 32) (size : Nat) (be : Nat) (data : Word)
  | voteLagTimeout (core : Fin 3)
  | resyncComplete (core : Fin 3)
  | stateDigest (core : Fin 3) (value : BitVec 64)
  | agreementAccess (core : Fin 3) (addr : BitVec 32) (sample : Word)
  | lockstepMismatch
  | lockstepRecoveryComplete (seq : Nat)
  | lockstepRecoveryTimeout
  | debugHalt (mod : Fin 5)
  | debugBreak
  | debugAbstractCommand (mod : Fin 5) (bus : Bool) (write : Bool) (addr : BitVec 32) (size : Nat) (data : Word)
  | heartbeatWrite (seq : BitVec 32)
  | heartbeatWarn
  | heartbeatLoss
  | watchdogResetDelay
  | stoOpen (cause : Fin 8)
  | stoOpenCommand
  | stoCloseCommand
  | stoHsClose
  | stoReadbackCheck (band : Fin 4)
  | stoTestPulse (path : Fin 4)
  | stoTestPulseEnd (opened : Bool) (reclosed : Bool)
  | safeStopDemand (stage : Fin 2)
  | plausibilityCheck (stage : Fin 10) (bad : Nat)
  | hookTimeLimit
  | coreMemoryAccess (master : Master) (write : Bool) (addr : BitVec 32) (size : Nat) (data : Word) (bad : List Nat) (mram : List (Nat × Nat))
  | scrubStep (addr : BitVec 32) (bad : List Nat)
  | mramScrubStep (addr : BitVec 32) (errors : List (Nat × Nat))
  | mramWrite (voted : Bool) (addr : BitVec 32) (bytes : List Byte)
  | mramUpdateOpen
  | mramUpdateClose
  | originLoadComplete (entry : Fin 16)
  | faultReport (index : Nat)
  | logEntryWrite
  | fltSumClear (bits : Fin 8)
  | pageFltClear (page : Fin 256) (bits : Fin 16)
  | faultPinWidthEnd
  | faultPinLevelWrite (level : Bool)
  | reducedOperationExit
  | appKick (core : Fin 3)
  | appWatchdogExpiry (core : Fin 3)
  | resetCommand (key : BitVec 16)
  | resetPinAssert
  | resetPinRelease (c0 : Bool) (c1 : Bool) (c2 : Bool)
  | resetHeld5s
  | resetRelease (c0 : Bool) (c1 : Bool) (c2 : Bool)
  | collectorStop
  | collectorRestart
  | dikePowerOn
  | dikeSupplyLoss
  | injectReport (page : Fin 256) (code : Fin 256) (cls : Fin 4)
  | injectCheckField
  | injectStall (polder : Fin 256)
  | injectCoreWrite (core : Fin 4)
  | injectChannelFault (page : Fin 256) (softStill : Bool)
  | injectFastPath (ch : Fin 16) (hard : Bool)
  | injectHeartbeatLoss
  | injectCrystalLoss
  | stagedWrite (page : Fin 256) (off : Nat) (data : Word)
  | stageDiscard (page : Fin 256)
  | stageIncludeWrite (page : Fin 256) (incl : Bool)
  | windowAccess (master : Master) (page : Fin 256) (write : Bool) (data : Word)
  | commit (key : BitVec 16)
  | commitCheckComplete
  | commitApply
  | registerWrite (master : Master) (page : Fin 256) (off : Fin 4096) (data : Word)
  | hostRead (edges : Nat) (addr : Fin 1048576) (ccrc : Fin 256) (data : Word) (dcrc : Fin 256)
  | hostWrite (edges : Nat) (addr : Fin 1048576) (ccrc : Fin 256) (data : Word) (dcrc : Fin 256)
  | hostDeferredRead (edges : Nat) (addr : Fin 1048576) (ccrc : Fin 256) (data : Word) (dcrc : Fin 256)
  | hostFetch (edges : Nat) (addr : Fin 1048576) (ccrc : Fin 256) (data : Word) (dcrc : Fin 256)
  | hostWriteDelivery
  | deferredReadComplete
  | ledgerPush (page : Fin 256) (off : Fin 4096)
  | canFrameReceive (can : Fin 3) (hdr : List Word) (data : List Byte) (age : Nat) (err : Nat)
  | canFrameTransmit (can : Fin 3) (ok : Bool) (age : Nat) (tdc : Nat)
  | canBusoffRecoveryCmd (can : Fin 3)
  | canBusoffRecovery (can : Fin 3)
  | ethFrameReceive (eth : Fin 2) (frame : List Byte) (age : Nat) (fcsErr : Bool)
  | ethFrameTransmit (eth : Fin 2) (ok : Bool) (age : Nat)
  | ethLinkLoss (eth : Fin 2) (plcaOnly : Bool)
  | mdioAddress (phy : Fin 32) (reg : Fin 32) (c45 : Bool) (data : Fin 65536)
  | mdioWrite (phy : Fin 32) (reg : Fin 32) (c45 : Bool) (data : Fin 65536)
  | mdioRead (phy : Fin 32) (reg : Fin 32) (c45 : Bool)
  | mdioReadIncrement (phy : Fin 32) (reg : Fin 32) (c45 : Bool)
  | mdioComplete (data : Fin 65536)
  | sentMessage (ch : Fin 4) (cal : Nat) (status : Fin 16) (data : List Nat) (pauseOk : Bool) (crcOk : Bool) (age : Nat) (slow : Option (Nat × Nat))
  | sentTimeout (ch : Fin 4)
  | psi5SyncPulse (psi : Fin 2)
  | psi5Frame (psi : Fin 2) (slot : Fin 4) (ok : Bool) (data : Nat) (age : Nat)
  | psi5SlotMissing (psi : Fin 2) (slot : Fin 4)
  | ryugerSyncTransmit
  | ryugerFrameReceive (frame : List Byte) (violation : Bool) (age : Nat) (frac : Fin 20) (step : Bool)
  | symbolLockChange (on : Bool)
  | syncTimeout
  | ryugerSupervisorSend (dst : Fin 16) (len : Fin 64)
  | ryugerApplicationSend (dst : Fin 16) (len : Fin 64)
  | ryugerRxPop (ch : Fin 2)
  | ryugerFrameLost (ch : Fin 2)
  | ringHeadWrite (page : Fin 256) (off : Fin 4096) (idx : Fin 1024)
  | spiEntryStart
  | spiEntryComplete (rx : List Byte)
  | secUnlockToken
  | secLifecycleToken
  | secAttest
  | secAdvanceCounter (voted : Bool) (cls : Fin 8) (value : Fin 128)
  | secRequestStart
  | secRequestComplete (facts : SecFacts)
  | tapIdcode
  | tapBypass
  | tapChal (word : Fin 4)
  | tapUnlock (token : List Word)
  | debugReset
  | debugLevelLower (level : Fin 4)
  | leDebugSnapshot (loop : Fin 64)
  | leDebugHold (loop : Fin 64) (on : Bool)
  | powerRequestRun
  | powerRequestStandby
  | powerRequestSleep
  | powerRequestOff
  | powerStateReached
  | wakeEvent (sources : Fin 128) (ticks : Nat)
  | wakeTimerExpiry (ticks : Nat)
  | sleepVbatLow
  | vbatLowWarning
  | vbatUndervoltage
  | vbatBrownOut
  | vbatLoadDump
  | vbatSustainedHigh
  | vbatOvervoltage
  | vmUndervoltage
  | vmOvervoltage
  | railOutOfWindow (rail : Fin 16)
  | railResetDelay
  | junctionWarning
  | junctionLimit
  | junctionShutdown
  | supplyMonitorEnd (k : Fin 8)
  | supplyValid
  | pllLock (carried : Nat) (c0 : Bool) (c1 : Bool) (c2 : Bool)
  | supervisorRelease (tried : Nat) (other : Nat) (classes : List (Nat × Nat)) (slots : List (Nat × Nat))
  | bootPrefer
  | bootConfirm
  | bootReady
  | appDrainRequest (core : Fin 3)
  | appCoreDrain (drain : Fin 8) (release : Fin 8)
  | appCoreRelease (drain : Fin 8) (release : Fin 8)
  | gpioSet (bits : Word)
  | gpioClear (bits : Word)
  | gpioEdge (pin : Fin 32) (high : Bool)
  | converterWake (converter : Fin 6)
  | chargePumpWithinRange
  | xhFltNPinChange (ch : Fin 23) (low : Bool)
  | ethLinkUp (eth : Fin 2) (plca : Bool) (speed : Fin 4)
  | debugSessionStart (mod : Fin 6)
  | debugSessionEnd (mod : Fin 6)
  | debugResume (mod : Fin 5) (step : Bool)
  | tapExtest (bits : Nat)
  | tapSample (levels : Nat)
  | supplyMeasurementUpdate (vbat : Word) (vm : Word) (tj : Word)
deriving DecidableEq, Repr

end Sys2Proof
end

