-- ==== Sys2Proof/Decode.lean ====
section
/-! DEFINITION. Commands read from words. The command table of the part gives no row any bits, so no word spells a command. -/

namespace Sys2Proof

/-- The command that a word of `nbits` bits spells: none, as no row has bits. -/
def decodeTableWord (_nbits _w : Nat) : Option Instr := none

end Sys2Proof
end

