-- ==== Sys2Proof/Config.lean ====
section
/-! DEFINITION. What one device fixes, and the free values: constants without a body, so that nothing can be proved
about which value they hold (assumptions 4, 5 and 6). -/

namespace Sys2Proof

/-- Minor silicon revision, ID.SILREV bits 3:0 (R558): any value. -/
opaque Config.silrevMinor : BitVec 4

/-- The 64-bit device identity of SEC.DEV_ID (R477): per device. -/
opaque Config.deviceId : BitVec 64

/-- Whether an edge of channel page `p` due at edge-unit instant `pos` goes to the later whole tick while the interpolator of
the channel is out of range (R70): the spec does not say which tick. -/
opaque Config.laterTick : Nat → Nat → Bool

/-- The rate in Hz at which software starts the software sequences of SA page `n`: the spec gives the load of a loop that
they trigger as the rate of its sequence (R123), and software chooses it. -/
opaque Config.softwareSequenceRate : Nat → Nat

/-- Whether the boot image installs a customer safety-monitor hook (R31, R330): software decides. -/
opaque Config.hookInstalled : Bool

/-- The offset of the customer hooks' package in the supervisor region of an MRAM bank (R336, R454): the spec does not give
it. -/
opaque Config.hookPackage : Nat

/-- Word `k` of the device's public attestation keys (R460, R477): per device. -/
opaque Config.deviceKey : Nat → BitVec 32

/-- What the TAP instruction IDCODE returns (R463): the spec does not give it. -/
opaque Config.idcode : BitVec 32

/-- A fresh 32-bit value the spec leaves open; the argument is the model's own counter `State.fresh`. -/
opaque Config.freeWord : Nat → BitVec 32

/-- A fresh bit the spec leaves open; the argument is the model's own counter `State.fresh`. -/
opaque Config.freeBit : Nat → Bool

end Sys2Proof
end

