-- ==== Sys2Proof/Machine/Bits.lean ====
section
/-! DEFINITION. Bit fields of words, sign extension, clamping and counters: the plain arithmetic every family uses. -/

namespace Sys2Proof.Machine

/-- Bits `lo + n − 1 : lo` of a word, as a number. -/
def bitsAt (w : Word) (lo n : Nat) : Nat := w.toNat / 2 ^ lo % 2 ^ n

/-- A word with bits `lo + n − 1 : lo` replaced by `v` (its low `n` bits). -/
def withBits (w : Word) (lo n v : Nat) : Word :=
  let keep := w.toNat - bitsAt w lo n * 2 ^ lo
  BitVec.ofNat 32 (keep + (v % 2 ^ n) * 2 ^ lo)

/-- Bit `k` of a number. -/
def bitOf (v k : Nat) : Bool := v / 2 ^ k % 2 == 1

/-- A number with bit `k` set to `b`. -/
def withBit (v k : Nat) (b : Bool) : Nat :=
  if b then (if bitOf v k then v else v + 2 ^ k) else (if bitOf v k then v - 2 ^ k else v)

/-- The number of set bits below bit `n`. -/
def countBits (v : Nat) : Nat → Nat
  | 0 => 0
  | n + 1 => countBits v n + (if bitOf v n then 1 else 0)

/-- The set bits of `v` below bit `n`, in ascending order. -/
def bitList (v n : Nat) : List Nat := (List.range n).filter (bitOf v)

/-- The signed value of the low `n` bits of `v`. -/
def signedOf (v n : Nat) : Int :=
  let u := v % 2 ^ n
  if n = 0 then 0 else if u < 2 ^ (n - 1) then (u : Int) else (u : Int) - 2 ^ n

/-- The low `n` bits of an integer, as a number (two's complement). -/
def unsignedOf (i : Int) (n : Nat) : Nat := (i % (2 ^ n : Int)).toNat

/-- `v` held between `lo` and `hi`. -/
def clampNat (lo hi v : Nat) : Nat := if v < lo then lo else if hi < v then hi else v

/-- `v` held between `lo` and `hi`. -/
def clampInt (lo hi v : Int) : Int := if v < lo then lo else if hi < v then hi else v

/-- `v` held at the largest value of `n` bits. -/
def satNat (n v : Nat) : Nat := if v < 2 ^ n then v else 2 ^ n - 1

/-- A Bool as a register bit. -/
def bit (b : Bool) : Nat := if b then 1 else 0

/-- The least multiple of `m` that is at or after `t`. -/
def multipleAtOrAfter (m t : Nat) : Nat := (t + m - 1) / m * m

/-- The least multiple of `m` after `t`. -/
def multipleAfter (m t : Nat) : Nat := (t / m + 1) * m

/-- A word of four bytes, the least significant byte first (R559). -/
def wordOfBytes (b0 b1 b2 b3 : Byte) : Word :=
  BitVec.ofNat 32 (b0.toNat + b1.toNat * 256 + b2.toNat * 65536 + b3.toNat * 16777216)

/-- Byte `k` of a word, byte 0 the least significant (R559). -/
def byteOfWord (w : Word) (k : Nat) : Byte := BitVec.ofNat 8 (bitsAt w (8 * k) 8)

/-- Insertion into a strictly rising list of numbers. -/
def insertNat (k : Nat) : List Nat → List Nat
  | [] => [k]
  | x :: xs => if k < x then k :: x :: xs else if k = x then x :: xs else x :: insertNat k xs

/-- A list without its element at index `i`. -/
def dropAt {α : Type} : List α → Nat → List α
  | [], _ => []
  | _ :: xs, 0 => xs
  | x :: xs, i + 1 => x :: dropAt xs i

/-- A list with its element at index `i` replaced. -/
def putAt {α : Type} : List α → Nat → α → List α
  | [], _, _ => []
  | _ :: xs, 0, v => v :: xs
  | x :: xs, i + 1, v => x :: putAt xs i v

end Sys2Proof.Machine
end

