-- ==== Sys2Proof/Machine/Float.lean ====
section
/-! DEFINITION. Binary32 arithmetic (R79, R84): rounding to nearest, ties to even, subnormals replaced by zero of the
same sign, one canonical quiet NaN, and the three sticky exceptions. -/

namespace Sys2Proof.Machine

/-- A binary32 value: NaN, an infinity, or a sign, a mantissa and an exponent of 2. A subnormal operand reads as zero
(R79). -/
inductive Fp where
  | nan
  | inf (neg : Bool)
  | fin (neg : Bool) (m : Nat) (e : Int)
deriving DecidableEq, Repr

/-- The canonical quiet NaN (R79). -/
abbrev qNaN : Word := 0x7FC00000

/-- The value a word holds as binary32 (R79). -/
def fpOf (w : Word) : Fp :=
  let neg := bitsAt w 31 1 = 1
  let ex := bitsAt w 23 8
  let fr := bitsAt w 0 23
  if ex = 255 then (if fr = 0 then .inf neg else .nan)
  else if ex = 0 then .fin neg 0 0
  else .fin neg (fr + 2 ^ 23) ((ex : Int) - 150)

/-- A result word with the exceptions it raised: invalid operation, division by zero, overflow (R79). -/
structure FpRes where
  w : Word
  nv : Bool := false
  dz : Bool := false
  ovf : Bool := false
deriving DecidableEq, Repr

/-- Whether a word is a NaN as binary32. -/
def fpIsNaN (w : Word) : Bool := bitsAt w 23 8 == 255 && bitsAt w 0 23 != 0

/-- Whether a word is an infinity as binary32. -/
def fpIsInf (w : Word) : Bool := bitsAt w 23 8 == 255 && bitsAt w 0 23 == 0

/-- Whether a word is neither NaN nor an infinity as binary32. -/
def fpIsFinite (w : Word) : Bool := bitsAt w 23 8 != 255

/-- The sign bit in place. -/
def fpSign (neg : Bool) : Nat := if neg then 2 ^ 31 else 0

/-- An infinity. -/
def fpInf (neg : Bool) : Word := BitVec.ofNat 32 (fpSign neg + 0x7F800000)

/-- A zero. -/
def fpZero (neg : Bool) : Word := BitVec.ofNat 32 (fpSign neg)

/-- The word nearest (−1)^neg · (m · 2^e + r), where r is 0, or lies strictly between 0 and 2^e with `sticky`: ties to
even, a subnormal result replaced by zero, an overflow by infinity (R79). -/
def fpRound (neg : Bool) (m : Nat) (e : Int) (sticky : Bool) : FpRes :=
  if m = 0 then { w := fpZero neg }
  else
    let q : Int := max (e + (Nat.log2 m : Int) - 23) (-149)
    let r : Nat :=
      if q ≤ e then m * 2 ^ (e - q).toNat
      else
        let d := (q - e).toNat
        let t := m / 2 ^ d
        let rem := m % 2 ^ d
        let half := 2 ^ (d - 1)
        if half < rem ∨ (rem = half ∧ (sticky ∨ t % 2 = 1)) then t + 1 else t
    let r' := if r = 2 ^ 24 then 2 ^ 23 else r
    let q' := if r = 2 ^ 24 then q + 1 else q
    if r' < 2 ^ 23 then { w := fpZero neg }
    else if 105 ≤ q' then { w := fpInf neg, ovf := true }
    else { w := BitVec.ofNat 32 (fpSign neg + (q' + 150).toNat * 2 ^ 23 + (r' - 2 ^ 23)) }

/-- The word nearest an integer times a power of 2; an exact zero takes the sign `zneg`. -/
def fpRoundInt (v : Int) (e : Int) (zneg : Bool) : FpRes :=
  if v = 0 then { w := fpZero zneg } else fpRound (v < 0) v.natAbs e false

/-- A signed mantissa. -/
def signedMant (neg : Bool) (m : Nat) : Int := if neg then -(m : Int) else m

/-- A NaN result; `nv` when no operand was a NaN (R79). -/
def fpNaNRes (nv : Bool) : FpRes := { w := qNaN, nv := nv }

/-- The exact sum of two finite values, rounded once. A sum of zero is −0 only for two negative zeros (R79). -/
def fpAddFin (n1 : Bool) (m1 : Nat) (e1 : Int) (n2 : Bool) (m2 : Nat) (e2 : Int) : FpRes :=
  if m1 = 0 ∧ m2 = 0 then { w := fpZero (n1 && n2) }
  else if m1 = 0 then fpRound n2 m2 e2 false
  else if m2 = 0 then fpRound n1 m1 e1 false
  else
    let e := min e1 e2
    let a := signedMant n1 m1 * 2 ^ (e1 - e).toNat
    let b := signedMant n2 m2 * 2 ^ (e2 - e).toNat
    fpRoundInt (a + b) e false

/-- Addition of two values. -/
def fpAddFp : Fp → Fp → FpRes
  | .nan, _ => fpNaNRes false
  | _, .nan => fpNaNRes false
  | .inf a, .inf b => if a = b then { w := fpInf a } else fpNaNRes true
  | .inf a, .fin .. => { w := fpInf a }
  | .fin .., .inf b => { w := fpInf b }
  | .fin n1 m1 e1, .fin n2 m2 e2 => fpAddFin n1 m1 e1 n2 m2 e2

/-- A value with its sign changed. -/
def fpNegFp : Fp → Fp
  | .nan => .nan
  | .inf a => .inf (!a)
  | .fin n m e => .fin (!n) m e

/-- The exact product of two values, none where it is invalid. -/
def fpProd : Fp → Fp → Option Fp
  | .nan, _ => some .nan
  | _, .nan => some .nan
  | .inf a, .inf b => some (.inf (a != b))
  | .inf a, .fin n m _ => if m = 0 then none else some (.inf (a != n))
  | .fin n m _, .inf b => if m = 0 then none else some (.inf (b != n))
  | .fin n1 m1 e1, .fin n2 m2 e2 => some (.fin (n1 != n2) (m1 * m2) (e1 + e2))

/-- A value rounded to a word. -/
def fpPack : Fp → FpRes
  | .nan => fpNaNRes false
  | .inf a => { w := fpInf a }
  | .fin n m e => fpRound n m e false

/-- FADD. -/
def fpAdd (a b : Word) : FpRes := fpAddFp (fpOf a) (fpOf b)

/-- FSUB. -/
def fpSub (a b : Word) : FpRes := fpAddFp (fpOf a) (fpNegFp (fpOf b))

/-- FMUL. -/
def fpMul (a b : Word) : FpRes := match fpProd (fpOf a) (fpOf b) with
  | none => fpNaNRes true
  | some p => fpPack p

/-- FDIV: DZ for a finite non-zero number divided by zero (R79). -/
def fpDiv (a b : Word) : FpRes := match fpOf a, fpOf b with
  | .nan, _ => fpNaNRes false
  | _, .nan => fpNaNRes false
  | .inf _, .inf _ => fpNaNRes true
  | .inf x, .fin n _ _ => { w := fpInf (x != n) }
  | .fin n _ _, .inf x => { w := fpZero (x != n) }
  | .fin n1 m1 e1, .fin n2 m2 e2 =>
    if m2 = 0 then (if m1 = 0 then fpNaNRes true else { w := fpInf (n1 != n2), dz := true })
    else
      let t := m1 * 2 ^ 40
      fpRound (n1 != n2) (t / m2) (e1 - e2 - 40) (t % m2 != 0)

/-- The integer square root of `n`, bit by bit from bit `k − 1` down; `r` is what is found so far. -/
def isqrtFrom (n : Nat) : Nat → Nat → Nat
  | 0, r => r
  | k + 1, r => if (r + 2 ^ k) * (r + 2 ^ k) ≤ n then isqrtFrom n k (r + 2 ^ k) else isqrtFrom n k r

/-- FSQRT: NV for a negative number, −0 gives −0 (R79). -/
def fpSqrt (a : Word) : FpRes := match fpOf a with
  | .nan => fpNaNRes false
  | .inf n => if n then fpNaNRes true else { w := fpInf false }
  | .fin n m e =>
    if m = 0 then { w := fpZero n }
    else if n then fpNaNRes true
    else
      let odd := e % 2 != 0
      let m' := (if odd then 2 * m else m) * 2 ^ 40
      let e' := (if odd then e - 1 else e) - 40
      let r := isqrtFrom m' 34 0
      fpRound false r (e' / 2) (r * r != m')

/-- FMA and FNMA: a product and a sum with one rounding; `neg` changes the product's sign. -/
def fpFma (a b c : Word) (neg : Bool) : FpRes :=
  match fpProd (fpOf a) (fpOf b) with
  | none => fpNaNRes (!fpIsNaN c)
  | some p => fpAddFp (if neg then fpNegFp p else p) (fpOf c)

/-- FABS. -/
def fpAbs (a : Word) : Word := match fpOf a with
  | .nan => qNaN
  | .inf _ => fpInf false
  | .fin _ m e => (fpRound false m e false).w

/-- FNEG. -/
def fpNeg (a : Word) : Word := (fpPack (fpNegFp (fpOf a))).w

/-- The word as an operation reads it: a subnormal as zero, any NaN as the canonical one (R79). -/
def fpCanon (a : Word) : Word := (fpPack (fpOf a)).w

/-- The order of two binary32 values: none when either is a NaN (R84). −0 equals +0. -/
def fpKey (w : Word) : Int :=
  let mag : Nat := if bitsAt w 23 8 = 0 then 0 else bitsAt w 0 31
  signedMant (bitsAt w 31 1 = 1) mag

/-- Whether a < b as binary32; false when either is a NaN. -/
def fpLt (a b : Word) : Bool := !fpIsNaN a && !fpIsNaN b && fpKey a < fpKey b

/-- Whether a ≤ b as binary32; false when either is a NaN. -/
def fpLe (a b : Word) : Bool := !fpIsNaN a && !fpIsNaN b && fpKey a ≤ fpKey b

/-- Whether a = b as binary32; false when either is a NaN. -/
def fpEq (a b : Word) : Bool := !fpIsNaN a && !fpIsNaN b && fpKey a = fpKey b

/-- Whether a is less than b where −0 counts as less than +0 (R84). -/
def fpLess (a b : Word) : Bool :=
  fpKey a < fpKey b || (fpKey a == fpKey b && bitsAt a 31 1 == 1 && bitsAt b 31 1 == 0)

/-- FMIN (R84). -/
def fpMin (a b : Word) : Word :=
  if fpIsNaN a then fpCanon b else if fpIsNaN b then fpCanon a
  else if fpLess b a then fpCanon b else fpCanon a

/-- FMAX (R84). -/
def fpMax (a b : Word) : Word :=
  if fpIsNaN a then fpCanon b else if fpIsNaN b then fpCanon a
  else if fpLess a b then fpCanon b else fpCanon a

/-- FCLAMP: min(max(a, lo), hi), so the upper bound wins; NaN in a gives NaN (R84). -/
def fpClamp (a lo hi : Word) : Word := if fpIsNaN a then qNaN else fpMin (fpMax a lo) hi

/-- The word nearest an integer (CVT fn 0). -/
def fpOfInt (v : Int) : Word := (fpRoundInt v 0 false).w

/-- The integer nearest m · 2^e, ties to even. -/
def roundEven (m : Nat) (e : Int) : Nat :=
  if 0 ≤ e then m * 2 ^ e.toNat
  else
    let d := (-e).toNat
    let t := m / 2 ^ d
    let rem := m % 2 ^ d
    let half := 2 ^ (d - 1)
    if half < rem ∨ (rem = half ∧ t % 2 = 1) then t + 1 else t

/-- The integer part of m · 2^e. -/
def truncMant (m : Nat) (e : Int) : Nat :=
  if 0 ≤ e then m * 2 ^ e.toNat else m / 2 ^ (-e).toNat

/-- CVT to int32: nearest even or toward zero; beyond the range it saturates, a NaN gives 0, and both set NV (R84). -/
def fpToInt32 (a : Word) (trunc : Bool) : FpRes := match fpOf a with
  | .nan => { w := 0, nv := true }
  | .inf n => { w := if n then 0x80000000 else 0x7FFFFFFF, nv := true }
  | .fin n m e =>
    let v := signedMant n (if trunc then truncMant m e else roundEven m e)
    if 2 ^ 31 ≤ v then { w := 0x7FFFFFFF, nv := true }
    else if v < -(2 ^ 31) then { w := 0x80000000, nv := true }
    else { w := BitVec.ofInt 32 v }

/-- The integer part toward zero of a value, 0 for a NaN or an infinity. -/
def fpTrunc (a : Word) : Int := match fpOf a with
  | .nan => 0
  | .inf _ => 0
  | .fin n m e => signedMant n (truncMant m e)

/-- The word nearest num / den. -/
def fpOfRatio (num : Int) (den : Nat) : Word :=
  if num = 0 ∨ den = 0 then 0
  else
    let t := num.natAbs * 2 ^ 80
    (fpRound (num < 0) (t / den) (-80) (t % den != 0)).w

/-- A binary32 value held as an integer in units of 2^−64, toward minus infinity; 0 for NaN and the infinities. -/
def fpFixed (a : Word) : Int := match fpOf a with
  | .nan => 0
  | .inf _ => 0
  | .fin n m e =>
    if -64 ≤ e then signedMant n m * 2 ^ (e + 64).toNat else signedMant n m / 2 ^ (-(e + 64)).toNat

/-- The word nearest an integer in units of 2^−64. -/
def fpOfFixed (v : Int) : Word := (fpRoundInt v (-64) false).w

/- Constants as binary32 words. -/
abbrev fpOne : Word := 0x3F800000
abbrev fpHalf : Word := 0x3F000000
abbrev fpTwo : Word := 0x40000000
abbrev fpThree : Word := 0x40400000
/-- √3. -/
abbrev fpSqrt3 : Word := 0x3FDDB3D7
/-- √3 / 2. -/
abbrev fpHalfSqrt3 : Word := 0x3F5DB3D7
/-- 2^20, the largest angle SINCOS takes (R86). -/
abbrev fpAngleMax : Word := 0x49800000
/-- The binary32 value nearest π (R86). -/
abbrev fpPi : Word := 0x40490FDB
/-- The binary32 value nearest 2π. -/
abbrev fpTwoPi : Word := 0x40C90FDB

/- The same operations without their exceptions, as the stage logic and the acquisition use them. -/
abbrev fadd (a b : Word) : Word := (fpAdd a b).w
abbrev fsub (a b : Word) : Word := (fpSub a b).w
abbrev fmul (a b : Word) : Word := (fpMul a b).w
abbrev fdiv (a b : Word) : Word := (fpDiv a b).w

/-- π in units of 2^−64. -/
def fixPi : Int := 57952155664616982739

/-- Σ over the Taylor series of sine: `t` is the present term, `x2` the square of the argument, `n` its odd index. -/
def fixSinSeries (x2 : Int) : Nat → Nat → Int → Int → Int
  | 0, _, _, acc => acc
  | k + 1, n, t, acc =>
    let t' := -(t * x2) / 2 ^ 64 / (((n + 1) * (n + 2) : Nat) : Int)
    fixSinSeries x2 k (n + 2) t' (acc + t')

/-- The sine of an angle in units of 2^−64, itself in units of 2^−64. -/
def fixSin (x : Int) : Int :=
  let r := x - (x + fixPi) / (2 * fixPi) * (2 * fixPi)
  fixSinSeries (r * r / 2 ^ 64) 20 1 r r

/-- The cosine of an angle in units of 2^−64. -/
def fixCos (x : Int) : Int := fixSin (x + fixPi / 2)

/-- Σ over the Taylor series of the arctangent at a small argument. -/
def fixAtanSeries (x2 : Int) : Nat → Nat → Int → Int → Int
  | 0, _, _, acc => acc
  | k + 1, n, p, acc =>
    let p' := -(p * x2) / 2 ^ 64
    fixAtanSeries x2 k (n + 2) p' (acc + p' / ((n + 2 : Nat) : Int))

/-- One halving of the arctangent's argument: t / (1 + √(1 + t²)). -/
def fixHalfTan (t : Int) : Int :=
  let s := isqrtFrom ((2 ^ 128 + t * t).toNat) 66 0
  t * 2 ^ 64 / (2 ^ 64 + (s : Int))

/-- The arctangent of a ratio 0 ≤ t ≤ 1 in units of 2^−64. -/
def fixAtanUnit (t : Int) : Int :=
  let u := fixHalfTan (fixHalfTan t)
  4 * fixAtanSeries (u * u / 2 ^ 64) 24 1 u u

/-- atan2 of two integers not both zero, in units of 2^−64; the sign of a zero y is ignored (R86). -/
def fixAtan2 (y x : Int) : Int :=
  let ay : Int := y.natAbs
  let ax : Int := x.natAbs
  let first := if ay ≤ ax then fixAtanUnit (ay * 2 ^ 64 / ax) else fixPi / 2 - fixAtanUnit (ax * 2 ^ 64 / ay)
  let q := if x < 0 then fixPi - first else first
  if y < 0 then -q else q

/-- 10^−6 in units of 2^−64: the absolute error R86 allows. -/
def fixMicro : Int := 18446744073709

/-- A free candidate where it lies within the error R86 allows of the reference, else the nearest word to the reference:
the spec fixes the value only to that error (assumption 12). -/
def acceptNear (cand : Word) (ref : Int) : Word :=
  if fpIsFinite cand ∧ -fixMicro ≤ fpFixed cand - ref ∧ fpFixed cand - ref ≤ fixMicro then fpCanon cand
  else fpOfFixed ref

end Sys2Proof.Machine
end

