-- ==== Sys2Proof/Machine/Tab.lean ====
section
/-! DEFINITION. Tables: sparse data by key, in one canonical form (keys strictly rising, no entry equal to what an
unlisted key reads as), so that equal contents are equal data. -/

namespace Sys2Proof.Machine

/-- A table from numbers to values: its listed entries, in rising order of key. -/
abbrev Tab (α : Type) := List (Nat × α)

/-- The value at key `k`; `d` says what an unlisted key reads as. -/
def tabGet {α : Type} (d : Nat → α) : Tab α → Nat → α
  | [], k => d k
  | (a, v) :: xs, k => if a = k then v else tabGet d xs k

/-- The table without key `k`. -/
def tabErase {α : Type} (t : Tab α) (k : Nat) : Tab α := t.filter fun e => e.1 ≠ k

/-- The table with key `k` listed with value `v`. -/
def tabInsert {α : Type} : Tab α → Nat → α → Tab α
  | [], k, v => [(k, v)]
  | (a, w) :: xs, k, v =>
    if k < a then (k, v) :: (a, w) :: xs
    else if a = k then (k, v) :: xs
    else (a, w) :: tabInsert xs k v

/-- The table after `v` is written at key `k`: an entry equal to what an unlisted key reads as is not listed. -/
def tabPut {α : Type} [DecidableEq α] (d : Nat → α) (t : Tab α) (k : Nat) (v : α) : Tab α :=
  if v = d k then tabErase t k else tabInsert t k v

/-- The canonical form: keys rise strictly, and no entry equals what an unlisted key reads as. -/
def tabWf {α : Type} [DecidableEq α] (d : Nat → α) : Tab α → Bool
  | [] => true
  | [(a, v)] => decide (v ≠ d a)
  | (a, v) :: (b, w) :: xs => decide (a < b) && decide (v ≠ d a) && tabWf d ((b, w) :: xs)

/-- The table without any key from `lo` up to `hi − 1`. -/
def tabClear {α : Type} (t : Tab α) (lo hi : Nat) : Tab α := t.filter (fun e => e.1 < lo || hi ≤ e.1)

/-- The part of the table with keys from `lo` up to `hi − 1`. -/
def tabSlice {α : Type} (t : Tab α) (lo hi : Nat) : Tab α := t.filter (fun e => lo ≤ e.1 && e.1 < hi)

/-- Writes each pair of a list, in order. -/
def tabPutAll {α : Type} [DecidableEq α] (d : Nat → α) (t : Tab α) : List (Nat × α) → Tab α
  | [] => t
  | (k, v) :: xs => tabPutAll d (tabPut d t k v) xs

end Sys2Proof.Machine
end

