-- ==== Sys2Proof/Machine/RegTypes.lean ====
section
/-! DEFINITION. The kinds of register access, a row of a register table, and the page types. -/

namespace Sys2Proof.Machine

/-- The access codes of R16. -/
inductive Access where
  | ro | rw | rws | w1c | wo
deriving DecidableEq, Repr

/-- One field of a register table: byte offset, how many registers share the row and how far apart they lie, lowest
bit, width, access and reset value. -/
structure RegRow where
  off : Nat
  count : Nat
  stride : Nat
  lo : Nat
  width : Nat
  access : Access
  reset : Nat
deriving DecidableEq, Repr

/-- The page types of R384; the stage pages by KIND (R526): traction, charging and conversion, actuation. -/
inductive PageType where
  | sys | pwr | dike | sup | trl | tp | mem | flt | saf | sec | dbg | hif | tdac | sd | enc
  | le | xh | ih | sgt | sgc | sga | sa | rd | can | eth | sent | psi | chg | syn | gpio | spi
deriving DecidableEq, Repr

end Sys2Proof.Machine
end

