-- ==== Sys2Proof/Machine/Parts.lean ====
section
/-! DEFINITION. The parts of the state beside the register file: plain data, one structure per unit of the part. Each
field's default is its value at reset. -/

namespace Sys2Proof.Machine

/-- The fault classes of R353. -/
inductive FaultClass where
  | c | u | f
deriving DecidableEq, Repr

/-- The origins INFO.ORIGIN records (R355, R357). -/
inductive Origin where
  | fabric | timePlane | dike | resetRecord
deriving DecidableEq, Repr

/-- A fault report. `stamp` is none for a fault detected on the fabric, which is stamped at its arrival (R51);
`keep` marks the 0xD5 report that a device reset does not lose (R566). -/
structure Report where
  code : Nat
  cls : FaultClass
  page : Nat
  detail : Nat
  origin : Origin
  stamp : Option Nat
  inj : Bool := false
  keep : Bool := false
deriving DecidableEq, Repr

/-- The fault collector (R355 to R368, R568): reports on their way, the queue of 64, the arrival from which
FAULT_N's minimum width runs, reduced operation's last arrival and the RECOV_LIM in effect at its entry, and whether the collector is stopped. -/
structure Collector where
  inflight : List Report := []
  queue : List Report := []
  held : List Report := []
  firstU : Bool := true
  firstF : Bool := true
  pinFrom : Option Nat := none
  lastArrival : Nat := 0
  stopped : Bool := false
deriving DecidableEq, Repr

/-- The polder states of R32. -/
inductive PolderState where
  | off | ready | running | draining | drained | testing | failed
deriving DecidableEq, Repr

/-- One polder (R18, R32 to R38): its state, the bits of its CTL, its sluices, a block reset in progress and the test
armed to follow it, a handshake transition it withholds (R28, R563) and whether that was injected, the instant its
drain was accepted (R35), and whether it carries work (R32). -/
structure Polder where
  st : PolderState := .off
  en : Bool := false
  drain : Bool := false
  test : Bool := false
  closed : Bool := false
  blkrst : Bool := false
  testAfter : Bool := false
  withheld : Bool := false
  injected : Bool := false
  drainAt : Nat := 0
  busy : Bool := false
deriving DecidableEq, Repr

/-- The time plane (R43 to R69, R566): the moves between references in progress, the Dike's count of passed checks of
the internal reference, the shadows of TP_NOW's upper half by port, the channels whose edges fall back to whole ticks,
and whether the RC clock has failed (R372). -/
structure TimePlane where
  switching : Bool := false
  lossAt : Nat := 0
  lossInjected : Bool := false
  returning : Bool := false
  refPasses : Nat := 0
  shadows : Tab Nat := []
  fallback : List Nat := []
  rcFailed : Bool := false
  lost : Bool := false
  stopped : Bool := true
deriving DecidableEq, Repr

/-- Where a deferred read of the host port stands (R418 to R420): its word address, and its result or cause of error. -/
inductive Deferred where
  | idle
  | busy (addr : Nat)
  | held (addr : Nat) (value : Word) (err : Nat)
deriving DecidableEq, Repr

/-- The host port (R408 to R422): frames counted, whether the previous frame was ignored, the STALE of the next status
word, the write queue of 16, the deferred read, and the status word, data and check field last sent. -/
structure HostPort where
  frameSeq : Nat := 0
  prevErr : Bool := false
  stale : Bool := false
  queue : List (Nat × Word) := []
  deferred : Deferred := .idle
  misoStatus : Word := 0
  misoData : Word := 0
  misoCrc : Nat := 0
deriving DecidableEq, Repr

/-- A commit in progress (R394 to R400): the snapshot's pages, its staged values and written marks, the pages that took
a stage write after it, and the commit mark it waits for. -/
structure Commit where
  pages : List Nat := []
  values : Tab Word := []
  marks : List Nat := []
  later : List Nat := []
  laterMarks : List Nat := []
  doneAt : Nat := 0
deriving DecidableEq, Repr

/-- A line's last failures (R347). -/
structure LineHist where
  line : Nat
  stamps : List Nat
deriving DecidableEq, Repr

/-- What the memories hold beside their bytes (R338 to R348): the bytes whose check field fails, those whose check field an
injection inverted, the MRAM lines with
errors (1 corrected, 2 uncorrectable), the failure history per remap table, the unrepairable lines already logged, the
origin entries whose copy is in progress, and the state lines, by loop and key, whose rebuild waits for the end of a run
(R344). -/
structure MemCheck where
  bad : List Nat := []
  inj : List Nat := []
  mramErr : Tab Nat := []
  history : Tab (List LineHist) := []
  logged : List Nat := []
  copying : List Nat := []
  rebuild : List (Nat × Nat) := []
deriving DecidableEq, Repr

/-- The compare flags, the flags of the last INS and OUTS, and the sticky flags of a run (R88). -/
structure Flags where
  lt : Bool := false
  eq : Bool := false
  gt : Bool := false
  un : Bool := false
  prd : Bool := false
  skp : Bool := false
  rej : Bool := false
  ovrd : Bool := false
  nv : Bool := false
  dz : Bool := false
  ovf : Bool := false
deriving DecidableEq, Repr

/-- An input as a run sees it: value, age in ticks and the flags PRD and SKP (R100). -/
structure InputVal where
  value : Word := 0
  age : Word := 0x80000000
  prd : Bool := false
  skp : Bool := true
deriving DecidableEq, Repr

/-- A run that executes (R72): its loop, trigger stamp, word index of the next instruction, operations counted, apply
delay of its first OUTS, the inputs it has fixed (R101), and what it met on the way. -/
structure Run where
  loop : Nat
  stamp : Nat
  pc : Nat := 0
  ops : Nat := 0
  delay : Option Nat := none
  inputs : Tab InputVal := []
  readPrd : Bool := false
  rejected : Bool := false
  overBudget : Bool := false
deriving DecidableEq, Repr

/-- A register context of an engine (R76, R78): the registers q0 to q63 that are not 0, the flags and the run. -/
structure Context where
  q : Tab Word := []
  flags : Flags := {}
  run : Option Run := none
deriving DecidableEq, Repr

/-- A port's shadow of a slot: the slot whose VALUE it read last, and the stamp and META of that write (R107). -/
structure SlotShadow where
  slot : Nat
  stampL : Word
  stampH : Word
  info : Word
deriving DecidableEq, Repr

/-- A triggered run that waits in the dispatch queue (R76). -/
structure Waiting where
  loop : Nat
  stamp : Nat
deriving DecidableEq, Repr

/-- A window of 64 µs of a loop engine's rate measurement (R20, R21). -/
structure RateWindow where
  ops : Nat := 0
  ticks : Nat := 0
  probe : Bool := false
  inService : Bool := true
deriving DecidableEq, Repr

/-- A loop engine (R76, R20, R467): its two contexts, its dispatch queue, the last 16 rate windows, the present one, and
the register context a debug snapshot copied. -/
structure Engine where
  a : Context := {}
  bc : Context := {}
  waiting : List Waiting := []
  windows : List RateWindow := []
  window : RateWindow := {}
  snapLoop : Option Nat := none
  snap : Option Context := none
deriving DecidableEq, Repr

/-- One write that leaves a supervisor core: its address, size in bytes, byte enables and data (R308). -/
structure CoreWrite where
  addr : Nat
  size : Nat
  be : Nat
  data : Word
deriving DecidableEq, Repr

/-- A write a core has presented: its number in program order, the instant, and whether an injection inverted a bit of it (R308,
R309, R379). -/
structure Presented where
  core : Nat
  num : Nat
  w : CoreWrite
  stamp : Nat
  inj : Bool := false
deriving DecidableEq, Repr

/-- An access to the agreement port that waits for the other voting cores, with the issuing core's own sample of the pins
(R315). -/
structure AgrAccess where
  core : Nat
  addr : Nat
  sample : Word
  stamp : Nat
deriving DecidableEq, Repr

/-- A digest a core has computed that waits for the others (R314). -/
structure Digest where
  core : Nat
  value : BitVec 64
  stamp : Nat
deriving DecidableEq, Repr

/-- The supervisor beside its page (R307 to R321, R329, R330): the cores that vote, how many writes each has presented and how
many have been issued, the writes not yet issued and those issued that the third core has not presented, accesses and
digests that wait, the instants at which cores became the minority, the cores that resynchronise, a core whose next write an
injection inverts, a debugger's halt, a lockstep recovery with its start, whether customer hooks are disabled, and the
consecutive failures of the plausibility checks. -/
structure Supervisor where
  voting : List Nat := []
  sent : List Nat := [0, 0, 0]
  issued : Nat := 0
  queue : List Presented := []
  history : List Presented := []
  access : List AgrAccess := []
  digests : List Digest := []
  minorAt : List (Nat × Nat) := []
  resync : List Nat := []
  invert : List Nat := []
  halted : Bool := false
  recovery : Option Nat := none
  hookOff : Bool := false
  plaus : Tab Nat := []
deriving DecidableEq, Repr

/-- LOOP_STAT.STATE (R152). -/
inductive LoopState where
  | disabled | loading | running | moving | suspended | stranded | grafting
deriving DecidableEq, Repr

/-- A planned or fault move of a loop (R134, R135, R138): its destination and cause, the areas reserved there, whether
the image is loaded there, whether the copy is in progress, the run ends that did not meet R135, and whether a skipped
trigger of this move was logged. -/
structure LoopMove where
  dest : Nat
  cause : Nat
  imgOff : Nat
  stOff : Nat
  loaded : Bool := false
  copying : Bool := false
  ends : Nat := 0
  skipLogged : Bool := false
deriving DecidableEq, Repr

/-- A graft of a loop (R147): the new descriptor, the standby areas, whether the standby copy is
loaded, and the run ends that did not meet R135. -/
structure LoopGraft where
  desc : List Word
  imgOff : Nat
  stOff : Nat
  loaded : Bool := false
  ends : Nat := 0
deriving DecidableEq, Repr

/-- A loop as Trellis and the engines keep it (R116 to R151). `desc` is the descriptor it runs under, `next` one that
takes effect at its next trigger boundary (R121). -/
structure LoopRec where
  state : LoopState := .disabled
  engine : Nat := 0
  fallback : Option Nat := none
  fbOff : Nat := 0
  fbLoaded : Bool := false
  moveCause : Nat := 0
  mispl : Bool := false
  desc : List Word := []
  next : Option (List Word) := none
  slot : Nat := 0
  imgOff : Nat := 0
  imgWords : Nat := 0
  stOff : Nat := 0
  stSize : Nat := 0
  delayLast : Nat := 0
  delayAvg : Nat := 0
  delayPeak : Nat := 0
  delayValid : Bool := false
  prevStamp : Option Nat := none
  consec : Nat := 0
  overrun : Bool := false
  late : Bool := false
  budgetLogged : Bool := false
  deadlineLogged : Bool := false
  minselLogged : Bool := false
  costs : List Nat := []
  skips : Nat := 0
  moves : Nat := 0
  ckptB : Bool := false
  held : List (Nat × Word) := []
  move : Option LoopMove := none
  graft : Option LoopGraft := none
  awaited : List Nat := []
  awaitTrig : Nat := 0
  missed : Tab Nat := []
  held467 : Bool := false
  gone : Bool := false
deriving DecidableEq, Repr

/-- The events on which Trellis re-evaluates placement (R129). -/
inductive PlaceEvent where
  | commit (changed : List Nat)
  | drain (engine : Nat)
  | engineFault (engine : Nat)
  | overrun (loop : Nat)
  | refill (engine : Nat)
  | rate
deriving DecidableEq, Repr

/-- An image store or erase in progress (R146). -/
structure ImageJob where
  slot : Nat
  src : Nat
  erase : Bool
deriving DecidableEq, Repr

/-- Trellis (R116 to R151): its queue of events, the graft set with its commit instant, since when the spread exceeds
its threshold, and the image store in progress. -/
structure Trellis where
  events : List PlaceEvent := []
  graftLoops : List Nat := []
  graftAt : Nat := 0
  spreadSince : Option Nat := none
  job : Option ImageJob := none
deriving DecidableEq, Repr

/-- A hold guard of one output of a channel (R140): whether Trellis has loaded it, the applies to its output since
placement (0, 1 or 2 and more), the last two apply stamps and values, the instant its limit counts from, its trigger
interval in edge units (numerator and denominator), how often it has acted since, and whether it handed the legs over. -/
structure Guard where
  loaded : Bool := false
  applies : Nat := 0
  t0 : Nat := 0
  c0 : Nat := 0
  t1 : Nat := 0
  c1 : Nat := 0
  base : Nat := 0
  tNum : Nat := 0
  tDen : Nat := 1
  acted : Nat := 0
  done : Bool := false
deriving DecidableEq, Repr

/-- What the stage logic does with a leg (R160, R191, R233): loops or the stage command drive it, both switches off, one
side on for ASC, or the pins drive it. -/
inductive LegDrive where
  | off | driven | lowOn | highOn | pins
deriving DecidableEq, Repr

/-- One edge of a leg's pulse (R54, R562): the start of the leg's own period it belongs to, whether it is the rise, and
its instant; both instants in edge units of TP_NOW. -/
structure Edge where
  start : Nat
  rise : Bool
  pos : Nat
deriving DecidableEq, Repr

/-- A channel beside its page (R250 to R266, R531): the stage logic's drive and whether the leg still waits for its first
apply or drive value, the edges of its present and next period, the instants of the last rise of EN and the last pin
transition in edge units, a soft turn-off in progress with its sink step, the instant FLT_N went low, the bootstrap refresh
(next pulse, end of the present one, whether one has started since BST_LOW), and the phase value waiting for a period
start with its apply stamp. -/
structure Channel where
  drive : LegDrive := .off
  awaiting : Bool := true
  edges : List Edge := []
  enAt : Nat := 0
  pinAt : Nat := 0
  soft : Bool := false
  softStep : Nat := 0
  fltLow : Option Nat := none
  refreshAt : Option Nat := none
  refreshEnd : Nat := 0
  refreshed : Bool := false
  phaseNew : Option (Nat × Nat) := none
deriving DecidableEq, Repr

/-- The periods of a set or stage on the time plane, in edge units (R155, R156, R403): whether one has started, the start
of the present and of the previous one, the period and sample offset taken at its start, double update, and the sample
instants of it that have passed. -/
structure SetTiming where
  started : Bool := false
  start : Nat := 0
  prev : Nat := 0
  period : Nat := 0
  samp : Nat := 0
  double : Bool := false
  done : Nat := 0
deriving DecidableEq, Repr

/-- The checks of the phase currents of a traction set (R167, R176 to R180): consecutive sum violations, the instant of
the last sum check and the sum fault; consecutive residual violations per phase and the vector faults (bit 0 phase a);
consecutive instants above FW_ITRIP and within ITOL; since when a slow speed lets ASC end; the leg code of an isolated
set. -/
structure SetChecks where
  sumCount : Nat := 0
  sumAt : Nat := 0
  sumFault : Bool := false
  vecCount : List Nat := [0, 0, 0]
  vecFault : Nat := 0
  rectCount : Nat := 0
  calmCount : Nat := 0
  slowSince : Option Nat := none
deriving DecidableEq, Repr

/-- The stage logic of one stage beside its page (chapters 5, 6 and 7). `legA` and `legB` are the leg codes of the two
sets without regard to STO (R160, R191, R233); a stage other than traction uses `legA`. -/
structure Stage where
  a : SetTiming := {}
  b : SetTiming := {}
  legA : Nat := 1
  legB : Nat := 1
  modeAt : Nat := 0
  leftOffAt : Nat := 0
  -- traction (R158 to R188)
  chkA : SetChecks := {}
  chkB : SetChecks := {}
  dir : Bool := false
  ctrl : Bool := false
  udc : Word := 0
  nascRad : Word := 0
  speedRad : Word := 0x7FC00000
  goodSpeed : Word := 0x7FC00000
  tqFrom : Nat := 0
  tqStale : Option (Nat × Word) := none
  lost : Option (Nat × Word) := none
  posAt : Option Nat := none
  obsLow : Nat := 0
  syncRuns : Nat := 0
  excluded : Nat := 0
  reactAt : Nat := 0
  stillSince : Option Nat := none
  forcedLogged : Bool := false
  suppressed : Bool := false
  n0 : Word := 0
  t0 : Nat := 0
  -- conversion (R190 to R230) and actuation (R232 to R249)
  reqAt : Nat := 0
  lastInstant : Nat := 0
  rateFrom : Nat := 0
  accUp : Word := 0
  accDn : Word := 0
  stopHeld : Bool := false
  inBad : Nat := 0
  outBad : Nat := 0
  cmdAt : Nat := 0
  cmdSeen : Bool := false
  trims : List Word := [0, 0, 0, 0]
  trimAt : Nat := 0
  trimSatN : Nat := 0
  trimLogged : Bool := false
  crossings : List Nat := []
  halfDone : Bool := false
  gridSeen : Bool := false
  gridVpk : Word := 0
  lockRuns : Nat := 0
  overRuns : Nat := 0
  limAt : Nat := 0
  limits : List (Nat × Word) := []
  phi : Word := 0
  speedAt : Option Nat := none
  curveAt : Nat := 0
  curveTarget : Word := 0
deriving DecidableEq, Repr

/-- The charge-pilot controller's filters (R208 to R210): the last pilot states and duties in 0.1 %, newest first, and the
last proximity bands. -/
structure Pilot where
  states : List Nat := []
  duties : List (Option Nat) := []
  bands : List Nat := []
deriving DecidableEq, Repr

/-- What acquisition last delivered of one input, and the history its predictions use (R100, R283, R284): the last two
measured samples, the predictions since, and whether fault 0x66 has been logged in this run of predictions. -/
structure Sample where
  valid : Bool := false
  value : Word := 0
  stamp : Nat := 0
  prd : Bool := false
  skp : Bool := false
  n : Nat := 0
  t0 : Nat := 0
  x0 : Word := 0
  t1 : Nat := 0
  x1 : Word := 0
  preds : Nat := 0
  limitLogged : Bool := false
deriving DecidableEq, Repr

/-- What occupies a converter for one slot (R271, R280): a sequence entry, with what the narrow-window check found, or an
injected conversion. -/
inductive SlotKind where
  | entry (ain : Nat) (skip : Bool)
  | injected (ain : Nat)
deriving DecidableEq, Repr

/-- A conversion slot: its first tick, its acquisition time, and the scale if a commit changed it after the hold (R271,
R533). -/
structure Slot where
  kind : SlotKind
  start : Nat
  acq : Nat
  scale : Option (Word × Word) := none
deriving DecidableEq, Repr

/-- An instance of a sequence (R273, R274): its page and number, trigger instant, whether software started it, the entries
it was triggered with and the next one. -/
structure SeqRun where
  conv : Nat
  k : Nat
  trig : Nat
  soft : Bool
  entries : List Nat
  next : Nat := 0
deriving DecidableEq, Repr

/-- A SAR converter (R270 to R286): the end of its wake, since when it is idle, the instance it runs, its slot, the pending
injected input, the instants of a calibration request, start and last automatic one, and which sequences of its page run on
the secondary. -/
structure Converter where
  wakeEnd : Nat := 0
  idleAt : Nat := 0
  run : Option SeqRun := none
  slot : Option Slot := none
  inj : Option Nat := none
  calReq : Option Nat := none
  calAt : Option Nat := none
  autoAt : Nat := 0
  hosted : List Nat := []
deriving DecidableEq, Repr

/-- The test DAC (R287, R288): checks that wait, those requested and the automatic ones, as positions with their type;
consecutive failures and the place in the cycle of levels per position; per converter the last automatic check and its
instant; and the inputs that have failed at their pin. -/
structure TestDac where
  requested : List (Nat × Bool) := []
  auto : List (Nat × Bool) := []
  fails : Tab Nat := []
  level : Tab Nat := []
  last : Tab Nat := []
  autoAt : Tab Nat := []
  pins : List Nat := []
deriving DecidableEq, Repr

/-- A resolver channel (R295, R296, R534): consecutive instants with and without each condition, and the instants without
loss that LOCKED still waits for after a restart. -/
structure Resolver where
  losN : Nat := 0
  losOk : Nat := 0
  lotN : Nat := 0
  lotOk : Nat := 0
  wait : Nat := 0
deriving DecidableEq, Repr

/-- The encoder (R297 to R299): the filtered levels of its pins, the count at enable, and the last 256 edges with their
stamps and counts, newest first. -/
structure Encoder where
  a : Bool := false
  b : Bool := false
  z : Bool := false
  base : Word := 0
  edges : List (Nat × Word) := []
deriving DecidableEq, Repr

/-- An SPI entry in progress: its index, receive buffer, length, select, KEEP, IRQ and the stamp of its first SCK edge
(R446). -/
structure SpiEntry where
  idx : Nat
  rx : Nat
  len : Nat
  cs : Nat
  keep : Bool
  irq : Bool
  at0 : Nat
deriving DecidableEq, Repr

/-- An MDIO command in progress (R511). -/
structure MdioCmd where
  op : Nat
  phy : Nat
  reg : Nat
  c45 : Bool
  data : Nat
deriving DecidableEq, Repr

/-- The interface controllers beside their pages (R423 to R433, R445 to R447): per CAN controller the filters before its last
commit with the mark's instant; bus-off recoveries asked for; the MDIO command; per SENT channel the instant its gap counts
from, whether the gap is logged, and its last calibration pulse; the PSI5 slots (4 n + k) that got a frame in this sync
period, their missed periods and those logged, and the channels whose first pulse has passed; the SPI entry in progress and
the select it holds; and the pages that have raised the interrupt of the application cores. -/
structure Interfaces where
  canPrev : Tab (Nat × Tab Word) := []
  canRec : List Nat := []
  mdio : Option MdioCmd := none
  sentFrom : Tab Nat := []
  sentGap : List Nat := []
  sentCal : Tab Nat := []
  psiGot : List Nat := []
  psiMiss : Tab Nat := []
  psiLogged : List Nat := []
  psiOn : List Nat := []
  spi : Option SpiEntry := none
  spiHeld : Option Nat := none
  appIrq : List Nat := []
deriving DecidableEq, Repr

/-- A command frame of a channel that waits to be sent, or is on the ring (R439, R444). -/
structure SynCmd where
  dst : Nat
  seq : Nat
  data : List Byte
deriving DecidableEq, Repr

/-- A received command frame (R444). -/
structure SynRx where
  src : Nat
  seq : Nat
  data : List Byte
  stamp : Nat
deriving DecidableEq, Repr

/-- A command channel: the next SEQ, the frames that wait, the one on the ring with the instant it was sent, and those
received, oldest first (R444). -/
structure SynChannel where
  seq : Nat := 0
  queue : List SynCmd := []
  flight : Option (SynCmd × Nat) := none
  rx : List SynRx := []
deriving DecidableEq, Repr

/-- The Ryuger link beside its page (R437 to R444): the two command channels; SYNC frames in a row within 2 ns and beyond 4 ns;
the instant of the last valid SYNC; the master's SYNC that has not returned, and its failed intervals; and the symbols of the
frame that last left. -/
structure Ryuger where
  sup : SynChannel := {}
  app : SynChannel := {}
  good : Nat := 0
  bad : Nat := 0
  lastSync : Nat := 0
  awaited : Bool := false
  ringBad : Nat := 0
  out : List Byte := []
deriving DecidableEq, Repr

/-- What a request asks of the security engine, in the order in which waiting ones are served (R450): a lifecycle token, an
unlock token, an attestation, a loop image, a bank, or a counter's advance. -/
inductive SecKind where
  | lifecycle | unlock | attest | image | bank | advance
deriving DecidableEq, Repr

/-- A request of the security engine: its token's header words, and the class and value of an advance (R449, R451). -/
structure SecRequest where
  kind : SecKind
  token : List Word := []
  cls : Nat := 0
  value : Nat := 0
deriving DecidableEq, Repr

/-- The security engine beside its page (R449 to R467, R477): its buffers by window offset, requests that wait and the one in
progress, the stamp of the last attestation accepted, whether an owner's token for RMA has been accepted, and the classes
verified in the active bank. -/
structure Security where
  window : Tab Word := []
  queue : List SecRequest := []
  run : Option SecRequest := none
  attestAt : Option Nat := none
  rmaOwner : Bool := false
  verified : List Nat := []
deriving DecidableEq, Repr

/-- The TAP instructions of R463. -/
inductive TapInstr where
  | idcode | bypass | chal | unlock | extest | sample
deriving DecidableEq, Repr

/-- The debug port beside its page (R463 to R467): the TAP instruction, the boundary-scan register, whether it drives the
pins, application cores a debugger has halted, the cmderr of the last command per module, and a committed DBG_POLICY that
waits for the end of a session (R320). -/
structure DebugPort where
  tap : TapInstr := .idcode
  scan : Nat := 0
  driving : Bool := false
  appHalted : List Nat := []
  cmderr : Tab Nat := []
  policyDue : Option Nat := none
deriving DecidableEq, Repr

/-- The Dike's supply, power-state and reset control beside its pages (R374 to R377, R468 to R473, R483 to R491, R565): whether
a reset is in progress with its cause and start, RESET_N accepted low with its instant, whether the supply has been found
valid so that the PLL starts, the loss of the Dike supply, the power state asked for, and a rail fault that
a reset follows; whether the fault collector still owes the entries of the reset record, for a reset or for a wake; and
whether no bank's firmware verifies. -/
structure Power where
  inReset : Bool := true
  cause : Nat := 1
  resetAt : Nat := 0
  pinLow : Bool := false
  pinAt : Nat := 0
  pllStarts : Bool := false
  dikeLost : Bool := false
  target : Option Nat := none
  railAt : Option Nat := none
  owesReset : Bool := false
  owesWake : Bool := false
  noImage : Bool := false
deriving DecidableEq, Repr

/-- The safe torque off of the Dike beside the SAF page (R323 to R327): since LS closed while HS is still open, the
instants HS last closed and a command last changed, wrong readbacks in a row and whether their excursion has been logged,
the test in progress with its start, and the tests of each path since the schedule began. -/
structure Sto where
  closing : Option Nat := none
  closedAt : Nat := 0
  changedAt : Nat := 0
  badReads : Nat := 0
  excursion : Bool := false
  test : Option (Nat × Nat) := none
  tests : List Nat := [0, 0, 0, 0]
deriving DecidableEq, Repr

/-- The heartbeat check and the watchdogs of the Dike (R322, R371, R373): whether a valid write has armed the check, the
instant of the last, WDOG_WARN, a lost heartbeat with its instant, whether recovery suspends the check (R318) or an
injection discards heartbeats (R379), and per application core the start of its window and whether it has expired. -/
structure Watchdog where
  armed : Bool := false
  lastAt : Nat := 0
  warn : Bool := false
  lost : Bool := false
  lostAt : Nat := 0
  resetDue : Bool := false
  suspended : Bool := false
  discard : Bool := false
  discardInj : Bool := false
  appFrom : List Nat := [0, 0, 0]
  appExpired : List Bool := [false, false, false]
deriving DecidableEq, Repr

end Sys2Proof.Machine
end

