-- ==== Sys2Proof/Machine/Fields.lean ====
section
/-! DEFINITION. The places of the register fields, named page type, register and field as the spec names them. A register
with instances takes the instance number; a field of a window region lies 2^24 above its window offset. -/

namespace Sys2Proof.Machine

def Reg.HDR.ID_SILREV : Field := ⟨0x0, 0, 8⟩
def Reg.HDR.ID_LAYOUT : Field := ⟨0x0, 8, 8⟩
def Reg.HDR.ID_INST : Field := ⟨0x0, 16, 8⟩
def Reg.HDR.ID_TYPE : Field := ⟨0x0, 24, 8⟩
def Reg.HDR.CAP_CAPS : Field := ⟨0x4, 0, 29⟩
def Reg.HDR.CAP_POLDER : Field := ⟨0x4, 29, 1⟩
def Reg.HDR.CAP_WINDOW : Field := ⟨0x4, 30, 1⟩
def Reg.HDR.CAP_STAGED : Field := ⟨0x4, 31, 1⟩
def Reg.HDR.STAT_STATE : Field := ⟨0x8, 0, 4⟩
def Reg.HDR.FLT_C : Field := ⟨0xC, 0, 1⟩
def Reg.HDR.FLT_U : Field := ⟨0xC, 1, 1⟩
def Reg.HDR.FLT_F : Field := ⟨0xC, 2, 1⟩
def Reg.HDR.FLT_CNT_SAT : Field := ⟨0xC, 3, 1⟩
def Reg.HDR.FLT_CODE : Field := ⟨0xC, 8, 8⟩
def Reg.HDR.CTL_EN : Field := ⟨0x10, 0, 1⟩
def Reg.HDR.CTL_DRAIN : Field := ⟨0x10, 1, 1⟩
def Reg.HDR.CTL_TEST : Field := ⟨0x10, 2, 1⟩
def Reg.HDR.CTL_BLKRST : Field := ⟨0x10, 3, 1⟩
def Reg.HDR.STG_DISCARD : Field := ⟨0x14, 0, 1⟩
def Reg.HDR.STG_INCLUDE : Field := ⟨0x14, 1, 1⟩
def Reg.HDR.EVT_COUNT : Field := ⟨0x18, 0, 16⟩

def Reg.WIN.WADDR_ADDR : Field := ⟨0xF00, 2, 22⟩
def Reg.WIN.WDATA_DATA : Field := ⟨0xF04, 0, 32⟩
def Reg.WIN.WCTL_SIDE : Field := ⟨0xF08, 0, 1⟩
def Reg.WIN.WCTL_INC : Field := ⟨0xF08, 1, 1⟩
def Reg.WIN.WCTL_BUSY : Field := ⟨0xF08, 8, 1⟩
def Reg.WIN.WCTL_ERR : Field := ⟨0xF08, 9, 1⟩

def Reg.SYS.COMMIT_KEY : Field := ⟨0x100, 0, 16⟩
def Reg.SYS.COMMIT_STAT_STATE : Field := ⟨0x104, 0, 3⟩
def Reg.SYS.COMMIT_STAT_IGN : Field := ⟨0x104, 3, 1⟩
def Reg.SYS.COMMIT_STAT_CK : Field := ⟨0x104, 8, 5⟩
def Reg.SYS.COMMIT_STAT_PAGE : Field := ⟨0x104, 16, 8⟩
def Reg.SYS.COMMIT_STAT_ITEM : Field := ⟨0x104, 24, 8⟩
def Reg.SYS.COMMIT_MARK_US : Field := ⟨0x108, 0, 14⟩
def Reg.SYS.COMMIT_AT_L_STAMP : Field := ⟨0x10C, 0, 32⟩
def Reg.SYS.COMMIT_AT_H_STAMP : Field := ⟨0x110, 0, 32⟩
def Reg.SYS.COMMIT_SEQ_SEQ : Field := ⟨0x114, 0, 32⟩
def Reg.SYS.DRAIN_TMO_MS : Field := ⟨0x118, 0, 10⟩
def Reg.SYS.PAGES_PRESENT (i : Nat) : Field := ⟨0x120 + 4 * i, 0, 32⟩

def Reg.PWR.REQ_STATE : Field := ⟨0x100, 0, 2⟩
def Reg.PWR.STAT_STATE : Field := ⟨0x104, 0, 3⟩
def Reg.PWR.STAT_REFUSE : Field := ⟨0x104, 4, 3⟩
def Reg.PWR.STAT_ABORT : Field := ⟨0x104, 7, 1⟩
def Reg.PWR.CFG_BOOT_STBY : Field := ⟨0x108, 0, 1⟩
def Reg.PWR.WAKE_EN_EN : Field := ⟨0x10C, 0, 7⟩
def Reg.PWR.WAKE_CFG_POL : Field := ⟨0x110, 0, 1⟩
def Reg.PWR.WAKE_CFG_FILT : Field := ⟨0x110, 8, 8⟩
def Reg.PWR.WAKE_TMR_S : Field := ⟨0x114, 0, 24⟩
def Reg.PWR.WAKE_SRC_SRC : Field := ⟨0x118, 0, 7⟩
def Reg.PWR.WAKE_SRC_VALID : Field := ⟨0x118, 31, 1⟩
def Reg.PWR.BOOT_BANK : Field := ⟨0x11C, 0, 1⟩
def Reg.PWR.BOOT_COMPAT : Field := ⟨0x11C, 1, 1⟩
def Reg.PWR.BOOT_RESULT : Field := ⟨0x11C, 2, 2⟩
def Reg.PWR.BOOT_PREF : Field := ⟨0x11C, 4, 1⟩
def Reg.PWR.BOOT_CONF : Field := ⟨0x11C, 5, 1⟩
def Reg.PWR.BOOT_TRIES : Field := ⟨0x11C, 6, 2⟩
def Reg.PWR.BOOT_VALID_A : Field := ⟨0x11C, 8, 1⟩
def Reg.PWR.BOOT_VALID_B : Field := ⟨0x11C, 9, 1⟩
def Reg.PWR.BOOT_APP : Field := ⟨0x11C, 10, 1⟩
def Reg.PWR.BOOT_DATA : Field := ⟨0x11C, 11, 1⟩
def Reg.PWR.BOOT_READY : Field := ⟨0x11C, 12, 1⟩
def Reg.PWR.BOOT_CMD_PREFER : Field := ⟨0x120, 0, 1⟩
def Reg.PWR.BOOT_CMD_CONFIRM : Field := ⟨0x120, 1, 1⟩
def Reg.PWR.BOOT_CMD_READY : Field := ⟨0x120, 2, 1⟩
def Reg.PWR.SUPPLY_VBAT_WARN : Field := ⟨0x124, 0, 1⟩
def Reg.PWR.SUPPLY_VBAT_UV : Field := ⟨0x124, 1, 1⟩
def Reg.PWR.SUPPLY_VBAT_HIGH : Field := ⟨0x124, 2, 1⟩
def Reg.PWR.SUPPLY_VBAT_LONG : Field := ⟨0x124, 3, 1⟩
def Reg.PWR.SUPPLY_VM_UV : Field := ⟨0x124, 4, 1⟩
def Reg.PWR.SUPPLY_VM_OV : Field := ⟨0x124, 5, 1⟩
def Reg.PWR.SUPPLY_TJ_WARN : Field := ⟨0x124, 6, 1⟩
def Reg.PWR.SUPPLY_TJ_LIM : Field := ⟨0x124, 7, 1⟩
def Reg.PWR.VBAT_V : Field := ⟨0x128, 0, 32⟩
def Reg.PWR.VM_V : Field := ⟨0x12C, 0, 32⟩
def Reg.PWR.TJ_DEGC : Field := ⟨0x130, 0, 32⟩
def Reg.PWR.TJ_WARN_DEGC : Field := ⟨0x134, 0, 8⟩

def Reg.DIKE.STALL_LIM_US : Field := ⟨0x100, 0, 10⟩
def Reg.DIKE.HB_SEQ : Field := ⟨0x104, 0, 16⟩
def Reg.DIKE.HB_AT_L_STAMP : Field := ⟨0x108, 0, 32⟩
def Reg.DIKE.HB_AT_H_STAMP : Field := ⟨0x10C, 0, 32⟩
def Reg.DIKE.SLUICE_L_CLOSED : Field := ⟨0x110, 0, 32⟩
def Reg.DIKE.SLUICE_H_CLOSED : Field := ⟨0x114, 0, 28⟩
def Reg.DIKE.STALL_LAST_POLDER : Field := ⟨0x118, 0, 8⟩
def Reg.DIKE.STALL_LAST_VALID : Field := ⟨0x118, 31, 1⟩
def Reg.DIKE.RST_CMD_KEY : Field := ⟨0x120, 0, 16⟩
def Reg.DIKE.RST_REC_CAUSE : Field := ⟨0x124, 0, 3⟩
def Reg.DIKE.RST_REC_HELD5 : Field := ⟨0x124, 3, 1⟩
def Reg.DIKE.RST_REC_COUNT : Field := ⟨0x124, 16, 16⟩
def Reg.DIKE.RST_AT_L_STAMP : Field := ⟨0x128, 0, 32⟩
def Reg.DIKE.RST_AT_H_STAMP : Field := ⟨0x12C, 0, 32⟩
def Reg.DIKE.WD_AUTO_RST : Field := ⟨0x130, 0, 1⟩
def Reg.DIKE.WD_RST_DLY : Field := ⟨0x130, 8, 8⟩
def Reg.DIKE.APP_WD_EN : Field := ⟨0x134, 0, 3⟩
def Reg.DIKE.APP_WD_MS : Field := ⟨0x134, 16, 16⟩
def Reg.DIKE.APP_KICK_KICK : Field := ⟨0x138, 0, 32⟩

def Reg.SUP.STAT_STATE : Field := ⟨0x8, 0, 4⟩
def Reg.SUP.STAT_MINORITY : Field := ⟨0x8, 4, 2⟩
def Reg.SUP.STAT_DEGRADED : Field := ⟨0x8, 6, 1⟩
def Reg.SUP.STAT_DBG_BROKE : Field := ⟨0x8, 7, 1⟩
def Reg.SUP.STAT_MODE : Field := ⟨0x8, 8, 2⟩
def Reg.SUP.STAT_RECOVERY : Field := ⟨0x8, 10, 1⟩
def Reg.SUP.DBG_POLICY_POLICY : Field := ⟨0x100, 0, 1⟩
def Reg.SUP.VOTE_LAG_LIM : Field := ⟨0x104, 0, 8⟩
def Reg.SUP.VOTE_RETRY_LIM : Field := ⟨0x104, 8, 3⟩
def Reg.SUP.CORE_SEL_CORE : Field := ⟨0x108, 0, 2⟩
def Reg.SUP.POLDER_S0 : Field := ⟨0x10C, 0, 4⟩
def Reg.SUP.POLDER_S1 : Field := ⟨0x10C, 4, 4⟩
def Reg.SUP.POLDER_S2 : Field := ⟨0x10C, 8, 4⟩
def Reg.SUP.POLDER_P0 : Field := ⟨0x10C, 12, 4⟩
def Reg.SUP.POLDER_P1 : Field := ⟨0x10C, 16, 4⟩
def Reg.SUP.MINOR_CNT_COUNT : Field := ⟨0x110, 0, 16⟩
def Reg.SUP.RESYNC_AT_L_STAMP : Field := ⟨0x114, 0, 32⟩
def Reg.SUP.RESYNC_AT_H_STAMP : Field := ⟨0x118, 0, 32⟩
def Reg.SUP.APP_REQ_DRAIN : Field := ⟨0x11C, 0, 1⟩
def Reg.SUP.AGR_PIN0_GPIO : Field := ⟨0x120, 0, 32⟩
def Reg.SUP.AGR_PIN1_WAKE : Field := ⟨0x124, 0, 1⟩
def Reg.SUP.AGR_PIN1_COMPAT : Field := ⟨0x124, 1, 1⟩
def Reg.SUP.AGR_DIFF0_GPIO : Field := ⟨0x128, 0, 32⟩
def Reg.SUP.AGR_DIFF1_PINS : Field := ⟨0x12C, 0, 2⟩
def Reg.SUP.AGR_EVT_EVT : Field := ⟨0x130, 0, 10⟩
def Reg.SUP.IRQ_EN_EN : Field := ⟨0x134, 0, 10⟩
def Reg.SUP.APP_CTL_DRAIN : Field := ⟨0x138, 0, 3⟩
def Reg.SUP.APP_CTL_RELEASE : Field := ⟨0x138, 4, 3⟩
def Reg.SUP.APP_PEND_PEND : Field := ⟨0x13C, 0, 3⟩

def Reg.TRL.TCTL_BAL_EN : Field := ⟨0x100, 0, 1⟩
def Reg.TRL.TCTL_SUBST_MAX : Field := ⟨0x100, 1, 3⟩
def Reg.TRL.TCTL_ENG_LIM : Field := ⟨0x100, 8, 8⟩
def Reg.TRL.TCTL_BAL_SPREAD : Field := ⟨0x100, 16, 8⟩
def Reg.TRL.BAL_TIME_HOLD : Field := ⟨0x104, 0, 16⟩
def Reg.TRL.BAL_TIME_INTERVAL : Field := ⟨0x104, 16, 16⟩
def Reg.TRL.GRAFT_TMO_MS : Field := ⟨0x108, 0, 16⟩
def Reg.TRL.KICK_LOOP : Field := ⟨0x10C, 0, 6⟩
def Reg.TRL.STAT_RESERVE_OK : Field := ⟨0x110, 0, 1⟩
def Reg.TRL.STAT_FALLBACK_OK : Field := ⟨0x110, 1, 1⟩
def Reg.TRL.STAT_BUSY : Field := ⟨0x110, 2, 1⟩
def Reg.TRL.STAT_GRAFT_PEND : Field := ⟨0x110, 3, 1⟩
def Reg.TRL.STAT_LOOPS : Field := ⟨0x110, 4, 7⟩
def Reg.TRL.STAT_ENGINES : Field := ⟨0x110, 16, 5⟩
def Reg.TRL.RESERVE_LOAD_A : Field := ⟨0x114, 0, 16⟩
def Reg.TRL.RESERVE_LIMIT : Field := ⟨0x114, 16, 16⟩
def Reg.TRL.PLACE_DIAG_LOOP : Field := ⟨0x118, 0, 6⟩
def Reg.TRL.PLACE_DIAG_ORDER : Field := ⟨0x118, 8, 3⟩
def Reg.TRL.PLACE_DIAG_VALID : Field := ⟨0x118, 31, 1⟩
def Reg.TRL.LOOP_SEL_LOOP : Field := ⟨0x120, 0, 6⟩
def Reg.TRL.LOOP_STAT_STATE : Field := ⟨0x124, 0, 4⟩
def Reg.TRL.LOOP_STAT_ENGINE : Field := ⟨0x124, 4, 4⟩
def Reg.TRL.LOOP_STAT_FALLBACK : Field := ⟨0x124, 8, 4⟩
def Reg.TRL.LOOP_STAT_MOVE : Field := ⟨0x124, 12, 3⟩
def Reg.TRL.LOOP_STAT_MISPL : Field := ⟨0x124, 15, 1⟩
def Reg.TRL.LOOP_STAT_FB_VALID : Field := ⟨0x124, 16, 1⟩
def Reg.TRL.LOOP_LOAD_OPS_PEAK : Field := ⟨0x128, 0, 16⟩
def Reg.TRL.LOOP_LOAD_OPS_AVG : Field := ⟨0x128, 16, 16⟩
def Reg.TRL.LOOP_DELAY_LAST_DELAY : Field := ⟨0x12C, 0, 24⟩
def Reg.TRL.LOOP_DELAY_LAST_VALID : Field := ⟨0x12C, 31, 1⟩
def Reg.TRL.LOOP_DELAY_AVG_AVG : Field := ⟨0x130, 0, 28⟩
def Reg.TRL.LOOP_DELAY_AVG_VALID : Field := ⟨0x130, 31, 1⟩
def Reg.TRL.LOOP_DELAY_PEAK_PEAK : Field := ⟨0x134, 0, 24⟩
def Reg.TRL.LOOP_DELAY_PEAK_CLR : Field := ⟨0x134, 31, 1⟩
def Reg.TRL.LOOP_SKIP_CNT_COUNT : Field := ⟨0x138, 0, 16⟩
def Reg.TRL.LOOP_MOVE_CNT_COUNT : Field := ⟨0x13C, 0, 16⟩
def Reg.TRL.IMG_CMD_SLOT : Field := ⟨0x140, 0, 6⟩
def Reg.TRL.IMG_CMD_OP : Field := ⟨0x140, 8, 2⟩
def Reg.TRL.IMG_SRC_ADDR : Field := ⟨0x144, 0, 32⟩
def Reg.TRL.IMG_STAT_SLOT : Field := ⟨0x148, 0, 6⟩
def Reg.TRL.IMG_STAT_RESULT : Field := ⟨0x148, 8, 4⟩
def Reg.TRL.GRAFT_STAT_STATE : Field := ⟨0x14C, 0, 3⟩
def Reg.TRL.GRAFT_STAT_CAUSE : Field := ⟨0x14C, 8, 4⟩
def Reg.TRL.GRAFT_STAT_LOOP : Field := ⟨0x14C, 16, 6⟩
def Reg.TRL.IMG_VALID_L_SLOTS : Field := ⟨0x150, 0, 32⟩
def Reg.TRL.IMG_VALID_H_SLOTS : Field := ⟨0x154, 0, 32⟩

def Reg.TP.NOW_L_NOW : Field := ⟨0x100, 0, 32⟩
def Reg.TP.NOW_H_NOW : Field := ⟨0x104, 0, 32⟩
def Reg.TP.STAT_REF : Field := ⟨0x108, 0, 1⟩
def Reg.TP.STAT_XTAL_OK : Field := ⟨0x108, 1, 1⟩
def Reg.TP.STAT_SLEEP_ADJ : Field := ⟨0x108, 2, 1⟩
def Reg.TP.STAT_PLL_LOCK : Field := ⟨0x108, 3, 1⟩
def Reg.TP.STAT_REF_FAIL : Field := ⟨0x108, 4, 1⟩
def Reg.TP.CTL_XTAL_RET : Field := ⟨0x10C, 0, 1⟩
def Reg.TP.XLOSS_AT_L_STAMP : Field := ⟨0x110, 0, 32⟩
def Reg.TP.XLOSS_AT_H_STAMP : Field := ⟨0x114, 0, 32⟩
def Reg.TP.XLOSS_CNT_COUNT : Field := ⟨0x118, 0, 16⟩

def Reg.MEM.SCRUB_EN : Field := ⟨0x100, 0, 1⟩
def Reg.MEM.SCRUB_MEN : Field := ⟨0x100, 1, 1⟩
def Reg.MEM.SCRUB_STEP : Field := ⟨0x100, 8, 8⟩
def Reg.MEM.SCRUB_MSTEP : Field := ⟨0x100, 16, 16⟩
def Reg.MEM.REP_CNT_COUNT : Field := ⟨0x104, 0, 16⟩
def Reg.MEM.UNREP_CNT_COUNT : Field := ⟨0x108, 0, 16⟩
def Reg.MEM.LAST_ADDR_LINE : Field := ⟨0x10C, 5, 27⟩
def Reg.MEM.LAST_INFO_TABLE : Field := ⟨0x110, 0, 5⟩
def Reg.MEM.LAST_INFO_FOUND : Field := ⟨0x110, 5, 3⟩
def Reg.MEM.LAST_INFO_OUTCOME : Field := ⟨0x110, 8, 4⟩
def Reg.MEM.LAST_INFO_LOOP : Field := ⟨0x110, 12, 6⟩
def Reg.MEM.LAST_INFO_VALID : Field := ⟨0x110, 31, 1⟩
def Reg.MEM.LAST_AT_L_STAMP : Field := ⟨0x114, 0, 32⟩
def Reg.MEM.LAST_AT_H_STAMP : Field := ⟨0x118, 0, 32⟩
def Reg.MEM.REMAP_FULL_TABLE : Field := ⟨0x11C, 0, 28⟩
def Reg.MEM.MRAM_STAT_ACTIVE : Field := ⟨0x120, 0, 1⟩
def Reg.MEM.MRAM_STAT_UPD : Field := ⟨0x120, 1, 1⟩
def Reg.MEM.MRAM_CMD_UPD_OPEN : Field := ⟨0x124, 0, 1⟩
def Reg.MEM.MRAM_CMD_UPD_CLOSE : Field := ⟨0x124, 1, 1⟩
def Reg.MEM.MRAM_CORR_COUNT : Field := ⟨0x128, 0, 16⟩
def Reg.MEM.BANK_SEL_BANK : Field := ⟨0x12C, 0, 4⟩

def Reg.FLT.SUM_C : Field := ⟨0x100, 0, 1⟩
def Reg.FLT.SUM_U : Field := ⟨0x100, 1, 1⟩
def Reg.FLT.SUM_F : Field := ⟨0x100, 2, 1⟩
def Reg.FLT.STAT_RED : Field := ⟨0x104, 0, 2⟩
def Reg.FLT.STAT_LATCHED : Field := ⟨0x104, 2, 1⟩
def Reg.FLT.QUIET_MS : Field := ⟨0x108, 0, 16⟩
def Reg.FLT.RECOV_CNT_COUNT : Field := ⟨0x10C, 0, 8⟩
def Reg.FLT.RECOV_LIM_LIMIT : Field := ⟨0x110, 0, 8⟩
def Reg.FLT.PIN_CLASS_CLASS : Field := ⟨0x114, 0, 2⟩
def Reg.FLT.PIN_MINW_W : Field := ⟨0x118, 0, 14⟩
def Reg.FLT.PIN_SW_LEVEL : Field := ⟨0x11C, 0, 1⟩
def Reg.FLT.PIN_SW_ACTIVE : Field := ⟨0x11C, 1, 1⟩
def Reg.FLT.RED_TQ_PCT : Field := ⟨0x120, 0, 8⟩
def Reg.FLT.LOG_HEAD_IDX : Field := ⟨0x124, 0, 8⟩
def Reg.FLT.LOG_SEQ_SEQ : Field := ⟨0x128, 0, 32⟩
def Reg.FLT.LOST_COUNT : Field := ⟨0x12C, 0, 16⟩
def Reg.FLT.INJ_CMD_KIND : Field := ⟨0x130, 0, 4⟩
def Reg.FLT.INJ_CMD_PAGE : Field := ⟨0x130, 8, 8⟩
def Reg.FLT.INJ_CMD_ARG : Field := ⟨0x130, 16, 16⟩
def Reg.FLT.INJ_ADDR_ADDR : Field := ⟨0x134, 0, 32⟩
def Reg.FLT.INJ_STAT_ARMED : Field := ⟨0x138, 0, 1⟩
def Reg.FLT.INJ_STAT_RESULT : Field := ⟨0x138, 1, 3⟩

def Reg.SAF.STO_STAT_HS_OPEN : Field := ⟨0x100, 0, 1⟩
def Reg.SAF.STO_STAT_LS_OPEN : Field := ⟨0x100, 1, 1⟩
def Reg.SAF.STO_STAT_IHS_OPEN : Field := ⟨0x100, 2, 1⟩
def Reg.SAF.STO_STAT_ILS_OPEN : Field := ⟨0x100, 3, 1⟩
def Reg.SAF.STO_STAT_BAND : Field := ⟨0x100, 4, 2⟩
def Reg.SAF.STO_STAT_OPEN : Field := ⟨0x100, 6, 1⟩
def Reg.SAF.STO_STAT_TEST_ACT : Field := ⟨0x100, 7, 1⟩
def Reg.SAF.STO_STAT_TEST_SW : Field := ⟨0x100, 8, 3⟩
def Reg.SAF.STO_STAT_CAUSE : Field := ⟨0x100, 16, 3⟩
def Reg.SAF.STO_CMD_OPEN : Field := ⟨0x104, 0, 1⟩
def Reg.SAF.STO_CMD_CLOSE : Field := ⟨0x104, 1, 1⟩
def Reg.SAF.STO_TP_WIDTH : Field := ⟨0x108, 0, 10⟩
def Reg.SAF.STO_TP_INTERVAL : Field := ⟨0x108, 10, 6⟩
def Reg.SAF.STO_TP_RIDE : Field := ⟨0x108, 16, 16⟩
def Reg.SAF.STO_CHK_SETTLE : Field := ⟨0x10C, 0, 8⟩
def Reg.SAF.STO_AT_L_STAMP : Field := ⟨0x110, 0, 32⟩
def Reg.SAF.STO_AT_H_STAMP : Field := ⟨0x114, 0, 32⟩
def Reg.SAF.TP_CNT_COUNT : Field := ⟨0x118, 0, 16⟩
def Reg.SAF.SS_CMD_DEMAND : Field := ⟨0x120, 0, 2⟩
def Reg.SAF.SS_STAT_RESULT0 : Field := ⟨0x124, 0, 3⟩
def Reg.SAF.SS_STAT_RESULT1 : Field := ⟨0x124, 4, 3⟩
def Reg.SAF.SS_DEC_DEC (i : Nat) : Field := ⟨0x130 + 16 * i, 0, 16⟩
def Reg.SAF.SS_DEC_TOL (i : Nat) : Field := ⟨0x130 + 16 * i, 16, 16⟩
def Reg.SAF.SS_TIME_TMAX (i : Nat) : Field := ⟨0x134 + 16 * i, 0, 16⟩
def Reg.SAF.SS_TIME_STILL (i : Nat) : Field := ⟨0x134 + 16 * i, 16, 16⟩
def Reg.SAF.SS_NMAX_NMAX (i : Nat) : Field := ⟨0x138 + 16 * i, 0, 16⟩
def Reg.SAF.SS_LIMIT_RPM (i : Nat) : Field := ⟨0x13C + 16 * i, 0, 32⟩
def Reg.SAF.PLAUS_REACT_REACT : Field := ⟨0x150, 0, 12⟩
def Reg.SAF.HOOK_LIM : Field := ⟨0x154, 0, 16⟩

def Reg.SEC.CMD_OP : Field := ⟨0x100, 0, 4⟩
def Reg.SEC.CMD_CLASS : Field := ⟨0x100, 8, 3⟩
def Reg.SEC.CMD_VALUE : Field := ⟨0x100, 16, 7⟩
def Reg.SEC.STAT_RESULT : Field := ⟨0x104, 0, 4⟩
def Reg.SEC.STAT_BUSY : Field := ⟨0x104, 4, 1⟩
def Reg.SEC.LC_STATE : Field := ⟨0x108, 0, 3⟩
def Reg.SEC.LC_PEND : Field := ⟨0x108, 3, 3⟩
def Reg.SEC.ROOT_PROG : Field := ⟨0x10C, 0, 3⟩
def Reg.SEC.ROOT_REVOKED : Field := ⟨0x10C, 3, 3⟩
def Reg.SEC.ARB_VALUE (i : Nat) : Field := ⟨0x110 + 4 * i, 0, 7⟩
def Reg.SEC.LMS_REMAIN_COUNT : Field := ⟨0x124, 0, 21⟩
def Reg.SEC.ATT_GAP_MS : Field := ⟨0x128, 0, 16⟩
def Reg.SEC.UPD_STAT_RESULT : Field := ⟨0x12C, 0, 2⟩
def Reg.SEC.UPD_STAT_CLASS : Field := ⟨0x12C, 8, 3⟩
def Reg.SEC.DEV_ID_L_ID : Field := ⟨0x130, 0, 32⟩
def Reg.SEC.DEV_ID_H_ID : Field := ⟨0x134, 0, 32⟩

def Reg.DBG.LEVEL_LEVEL : Field := ⟨0x100, 0, 2⟩
def Reg.DBG.STAT_BUSY : Field := ⟨0x104, 0, 1⟩
def Reg.DBG.STAT_SESS : Field := ⟨0x104, 1, 5⟩
def Reg.DBG.STAT_LE : Field := ⟨0x104, 6, 1⟩
def Reg.DBG.STAT_TEST : Field := ⟨0x104, 7, 1⟩
def Reg.DBG.STAT_FAILS : Field := ⟨0x104, 8, 2⟩
def Reg.DBG.STAT_LOCKOUT : Field := ⟨0x104, 10, 1⟩
def Reg.DBG.STAT_FORCED : Field := ⟨0x104, 11, 1⟩
def Reg.DBG.CHAL_CHAL (i : Nat) : Field := ⟨0x110 + 4 * i, 0, 32⟩

def Reg.HIF.INT_MASK_MASK : Field := ⟨0x100, 10, 22⟩
def Reg.HIF.LAST_ERR_CAUSE : Field := ⟨0x104, 0, 3⟩
def Reg.HIF.LAST_ERR_EDGES : Field := ⟨0x104, 8, 8⟩
def Reg.HIF.ERR_CNT_COUNT : Field := ⟨0x108, 0, 16⟩
def Reg.HIF.DEFER_DROP_COUNT : Field := ⟨0x10C, 0, 16⟩
def Reg.HIF.DEFER_STAT_ERR : Field := ⟨0x110, 0, 1⟩
def Reg.HIF.DEFER_STAT_CAUSE : Field := ⟨0x110, 1, 3⟩
def Reg.HIF.DEFER_STAT_ADDR : Field := ⟨0x110, 12, 20⟩

def Reg.TDAC.CFG_AUTO_EN : Field := ⟨0x100, 0, 1⟩
def Reg.TDAC.CFG_AUTO_OPEN : Field := ⟨0x100, 1, 1⟩
def Reg.TDAC.CFG_FAIL_N : Field := ⟨0x100, 8, 4⟩
def Reg.TDAC.CFG_CONV_TOL : Field := ⟨0x100, 16, 8⟩
def Reg.TDAC.CFG_OPEN_LIM : Field := ⟨0x100, 24, 8⟩
def Reg.TDAC.RATE_US : Field := ⟨0x104, 0, 16⟩
def Reg.TDAC.REQ_POS : Field := ⟨0x108, 0, 8⟩
def Reg.TDAC.REQ_TYPE : Field := ⟨0x108, 8, 1⟩
def Reg.TDAC.RES_CODE : Field := ⟨0x10C, 0, 14⟩
def Reg.TDAC.RES_RESULT : Field := ⟨0x10C, 14, 2⟩
def Reg.TDAC.RES_POS : Field := ⟨0x10C, 16, 8⟩
def Reg.TDAC.RES_TYPE : Field := ⟨0x10C, 24, 1⟩
def Reg.TDAC.RES_VALID : Field := ⟨0x10C, 31, 1⟩
def Reg.TDAC.FAIL_CNT_COUNT : Field := ⟨0x110, 0, 16⟩

def Reg.SD.CLK_CLK0_EN : Field := ⟨0x100, 0, 1⟩
def Reg.SD.CLK_CLK1_EN : Field := ⟨0x100, 1, 1⟩
def Reg.SD.CFG_EN (i : Nat) : Field := ⟨0x104 + 4 * i, 0, 1⟩
def Reg.SD.CFG_CLK (i : Nat) : Field := ⟨0x104 + 4 * i, 1, 1⟩
def Reg.SD.CFG_OSR (i : Nat) : Field := ⟨0x104 + 4 * i, 2, 9⟩
def Reg.SD.CFG_SYNC (i : Nat) : Field := ⟨0x104 + 4 * i, 11, 1⟩
def Reg.SD.CFG_STAGE (i : Nat) : Field := ⟨0x104 + 4 * i, 12, 4⟩
def Reg.SD.CFG_OSR_F (i : Nat) : Field := ⟨0x104 + 4 * i, 16, 2⟩
def Reg.SD.CFG_OC_EN (i : Nat) : Field := ⟨0x104 + 4 * i, 18, 1⟩
def Reg.SD.OC_TRIP (i : Nat) : Field := ⟨0x140 + 4 * i, 0, 15⟩
def Reg.SD.OC_HARD (i : Nat) : Field := ⟨0x140 + 4 * i, 16, 15⟩
def Reg.SD.WARN_WARN (i : Nat) : Field := ⟨0x170 + 4 * i, 0, 15⟩
def Reg.SD.LEGS_LEGS (i : Nat) : Field := ⟨0x1A0 + 4 * i, 0, 23⟩
def Reg.SD.GAIN_GAIN (i : Nat) : Field := ⟨0x1D0 + 8 * i, 0, 32⟩
def Reg.SD.OFFS_OFFSET (i : Nat) : Field := ⟨0x1D4 + 8 * i, 0, 32⟩
def Reg.SD.STUCK_CH : Field := ⟨0x240, 0, 12⟩
def Reg.SD.OC_HIT_CH : Field := ⟨0x244, 0, 12⟩
def Reg.SD.WARN_ACT_CH : Field := ⟨0x248, 0, 12⟩
def Reg.SD.OC_AT_L_STAMP : Field := ⟨0x24C, 0, 32⟩
def Reg.SD.OC_AT_H_STAMP : Field := ⟨0x250, 0, 32⟩

def Reg.ENC.CFG_EN : Field := ⟨0x100, 0, 1⟩
def Reg.ENC.CFG_INV : Field := ⟨0x100, 1, 1⟩
def Reg.ENC.CFG_Z_EN : Field := ⟨0x100, 2, 1⟩
def Reg.ENC.CFG_FILT : Field := ⟨0x100, 8, 8⟩
def Reg.ENC.LINES_LINES : Field := ⟨0x104, 0, 16⟩
def Reg.ENC.SPD_WIN : Field := ⟨0x108, 0, 16⟩
def Reg.ENC.SPD_ZERO_MS : Field := ⟨0x108, 16, 16⟩
def Reg.ENC.OFFSET_RAD : Field := ⟨0x10C, 0, 32⟩
def Reg.ENC.ESTAT_INDEX_SEEN : Field := ⟨0x140, 0, 1⟩
def Reg.ENC.ESTAT_INVALID : Field := ⟨0x140, 1, 1⟩
def Reg.ENC.ESTAT_DIR : Field := ⟨0x140, 2, 1⟩
def Reg.ENC.COUNT_COUNT : Field := ⟨0x144, 0, 32⟩
def Reg.ENC.IDX_CNT_COUNT : Field := ⟨0x148, 0, 32⟩
def Reg.ENC.INV_CNT_COUNT : Field := ⟨0x14C, 0, 16⟩

def Reg.LE.RATE_MOPS : Field := ⟨0x100, 0, 16⟩
def Reg.LE.RATE_PROBE : Field := ⟨0x100, 16, 1⟩
def Reg.LE.RATE_VALID : Field := ⟨0x100, 31, 1⟩
def Reg.LE.LOAD_LOAD : Field := ⟨0x104, 0, 16⟩
def Reg.LE.LOAD_FRAC : Field := ⟨0x104, 16, 8⟩
def Reg.LE.OCC_LOOPS : Field := ⟨0x108, 0, 4⟩
def Reg.LE.OCC_CLASS_A : Field := ⟨0x108, 4, 4⟩
def Reg.LE.OCC_FALLBACK : Field := ⟨0x108, 8, 5⟩
def Reg.LE.OCC_FREE : Field := ⟨0x108, 22, 10⟩
def Reg.LE.RUNS_COUNT : Field := ⟨0x10C, 0, 32⟩
def Reg.LE.DELAY_SEL_LOOP : Field := ⟨0x140, 0, 6⟩
def Reg.LE.DELAY_LAST_DELAY : Field := ⟨0x144, 0, 24⟩
def Reg.LE.DELAY_LAST_VALID : Field := ⟨0x144, 31, 1⟩
def Reg.LE.DELAY_AVG_AVG : Field := ⟨0x148, 0, 28⟩
def Reg.LE.DELAY_AVG_VALID : Field := ⟨0x148, 31, 1⟩
def Reg.LE.DELAY_PEAK_PEAK : Field := ⟨0x14C, 0, 24⟩
def Reg.LE.DELAY_PEAK_CLR : Field := ⟨0x14C, 31, 1⟩
def Reg.LE.OVR_CNT_COUNT : Field := ⟨0x150, 0, 16⟩
def Reg.LE.OVR_LAST_LOOP : Field := ⟨0x154, 0, 6⟩
def Reg.LE.OVR_LAST_VALID : Field := ⟨0x154, 31, 1⟩
def Reg.LE.EXC_LOOP : Field := ⟨0x158, 0, 6⟩
def Reg.LE.EXC_NV : Field := ⟨0x158, 8, 1⟩
def Reg.LE.EXC_DZ : Field := ⟨0x158, 9, 1⟩
def Reg.LE.EXC_OF : Field := ⟨0x158, 10, 1⟩
def Reg.LE.EXC_REJ : Field := ⟨0x158, 11, 1⟩
def Reg.LE.EXC_VALID : Field := ⟨0x158, 31, 1⟩
def Reg.LE.EXC_CNT_COUNT : Field := ⟨0x15C, 0, 16⟩
def Reg.LE.BUDGET_CNT_COUNT : Field := ⟨0x160, 0, 16⟩
def Reg.LE.DEADLINE_CNT_COUNT : Field := ⟨0x164, 0, 16⟩
def Reg.LE.ABORT_LAST_LOOP : Field := ⟨0x168, 0, 6⟩
def Reg.LE.ABORT_LAST_CODE : Field := ⟨0x168, 8, 8⟩
def Reg.LE.ABORT_LAST_VALID : Field := ⟨0x168, 31, 1⟩
def Reg.LE.W_LOOP_ID (i : Nat) : Field := ⟨0x700 + 16 * i, 0, 6⟩
def Reg.LE.W_LOOP_CLASS (i : Nat) : Field := ⟨0x700 + 16 * i, 8, 2⟩
def Reg.LE.W_LOOP_MOVING (i : Nat) : Field := ⟨0x700 + 16 * i, 10, 1⟩
def Reg.LE.W_LOOP_VALID (i : Nat) : Field := ⟨0x700 + 16 * i, 31, 1⟩
def Reg.LE.W_IMG_OFFS (i : Nat) : Field := ⟨0x704 + 16 * i, 0, 17⟩
def Reg.LE.W_STATE_OFFS (i : Nat) : Field := ⟨0x708 + 16 * i, 0, 17⟩
def Reg.LE.W_SIZES_STATE (i : Nat) : Field := ⟨0x70C + 16 * i, 0, 16⟩
def Reg.LE.W_SIZES_WORDS (i : Nat) : Field := ⟨0x70C + 16 * i, 16, 13⟩
def Reg.LE.W_FB_ID (i : Nat) : Field := ⟨0x780 + 8 * i, 0, 6⟩
def Reg.LE.W_FB_VALID (i : Nat) : Field := ⟨0x780 + 8 * i, 31, 1⟩
def Reg.LE.W_FB_OFFS_OFFS (i : Nat) : Field := ⟨0x784 + 8 * i, 0, 17⟩

def Reg.XH.CFG_FLT_EN : Field := ⟨0x100, 0, 1⟩
def Reg.XH.CFG_FLT_FILT : Field := ⟨0x100, 4, 4⟩
def Reg.XH.DT_NS : Field := ⟨0x104, 0, 12⟩
def Reg.XH.OWN_STAGE : Field := ⟨0x108, 0, 4⟩
def Reg.XH.CH_STAT_LEG : Field := ⟨0x140, 0, 2⟩
def Reg.XH.CH_STAT_FLT_PIN : Field := ⟨0x140, 2, 1⟩
def Reg.XH.CH_STAT_PROT : Field := ⟨0x140, 8, 3⟩
def Reg.XH.CH_STAT_LATCH : Field := ⟨0x140, 11, 1⟩
def Reg.XH.PROT_AT_L_STAMP : Field := ⟨0x148, 0, 32⟩
def Reg.XH.PROT_AT_H_STAMP : Field := ⟨0x14C, 0, 32⟩

def Reg.IH.CFG_REF_EN : Field := ⟨0x100, 0, 1⟩
def Reg.IH.CFG_VDS_EN : Field := ⟨0x100, 1, 1⟩
def Reg.IH.CFG_SRC : Field := ⟨0x100, 2, 2⟩
def Reg.IH.CFG_SRC_STEP : Field := ⟨0x100, 8, 4⟩
def Reg.IH.CFG_SINK_STEP : Field := ⟨0x100, 12, 4⟩
def Reg.IH.CFG_SOFT_STEP : Field := ⟨0x100, 16, 4⟩
def Reg.IH.DT_NS : Field := ⟨0x104, 0, 12⟩
def Reg.IH.VDS_TRIP : Field := ⟨0x108, 0, 4⟩
def Reg.IH.VDS_BLANK : Field := ⟨0x108, 8, 7⟩
def Reg.IH.BOOT_REF_INT : Field := ⟨0x10C, 0, 16⟩
def Reg.IH.OWN_STAGE : Field := ⟨0x110, 0, 4⟩
def Reg.IH.CH_STAT_LEG : Field := ⟨0x140, 0, 2⟩
def Reg.IH.CH_STAT_BST_LOW : Field := ⟨0x140, 2, 1⟩
def Reg.IH.CH_STAT_HS_SUPP : Field := ⟨0x140, 3, 1⟩
def Reg.IH.CH_STAT_PINS : Field := ⟨0x140, 4, 1⟩
def Reg.IH.CH_STAT_PIN_PLS : Field := ⟨0x140, 5, 1⟩
def Reg.IH.CH_STAT_PIN_EN : Field := ⟨0x140, 6, 1⟩
def Reg.IH.CH_STAT_VCP_OK : Field := ⟨0x140, 7, 1⟩
def Reg.IH.CH_STAT_PROT : Field := ⟨0x140, 8, 3⟩
def Reg.IH.CH_STAT_LATCH : Field := ⟨0x140, 11, 1⟩
def Reg.IH.REF_CNT_COUNT : Field := ⟨0x144, 0, 16⟩
def Reg.IH.PROT_AT_L_STAMP : Field := ⟨0x148, 0, 32⟩
def Reg.IH.PROT_AT_H_STAMP : Field := ⟨0x14C, 0, 32⟩

def Reg.CHAN.STAT_OWNER : Field := ⟨0x8, 4, 4⟩
def Reg.CHAN.GUARD_ARMED : Field := ⟨0x150, 0, 1⟩
def Reg.CHAN.GUARD_SUBST : Field := ⟨0x150, 1, 3⟩
def Reg.CHAN.GUARD_TAKEN : Field := ⟨0x150, 4, 1⟩
def Reg.CHAN.GUARD_H : Field := ⟨0x150, 8, 24⟩
def Reg.CHAN.COMPARE_EU : Field := ⟨0x154, 0, 21⟩
def Reg.CHAN.PHASE_EU : Field := ⟨0x158, 0, 21⟩
def Reg.CHAN.APPLY_AT_L_STAMP : Field := ⟨0x15C, 0, 32⟩
def Reg.CHAN.APPLY_AT_H_STAMP : Field := ⟨0x160, 0, 32⟩
def Reg.CHAN.WRITER_LOOP : Field := ⟨0x164, 0, 6⟩
def Reg.CHAN.WRITER_VALID : Field := ⟨0x164, 31, 1⟩

def Reg.SGT.STAT_STATE : Field := ⟨0x8, 0, 4⟩
def Reg.SGT.STAT_MODE : Field := ⟨0x8, 4, 3⟩
def Reg.SGT.STAT_SS_PHASE : Field := ⟨0x8, 7, 1⟩
def Reg.SGT.STAT_REFUSE : Field := ⟨0x8, 8, 4⟩
def Reg.SGT.STAT_REV_PEND : Field := ⟨0x8, 12, 1⟩
def Reg.SGT.STAT_OFF_PEND : Field := ⟨0x8, 13, 1⟩
def Reg.SGT.STAT_REACT : Field := ⟨0x8, 14, 1⟩
def Reg.SGT.STAT_POS_LOST : Field := ⟨0x8, 15, 1⟩
def Reg.SGT.STAT_LEGS_A : Field := ⟨0x8, 16, 2⟩
def Reg.SGT.STAT_LEGS_B : Field := ⟨0x8, 18, 2⟩
def Reg.SGT.STAT_POS_SEL : Field := ⟨0x8, 20, 2⟩
def Reg.SGT.STAT_XCHK_SINGLE : Field := ⟨0x8, 22, 1⟩
def Reg.SGT.STAT_RECON_A : Field := ⟨0x8, 23, 1⟩
def Reg.SGT.STAT_RECON_B : Field := ⟨0x8, 24, 1⟩
def Reg.SGT.MODE_REQ_MODE : Field := ⟨0x100, 0, 3⟩
def Reg.SGT.MODE_REQ_DIR : Field := ⟨0x100, 3, 1⟩
def Reg.SGT.MODE_REQ_CTRL : Field := ⟨0x100, 4, 1⟩
def Reg.SGT.TCFG_UPDATE : Field := ⟨0x104, 0, 1⟩
def Reg.SGT.TCFG_SET_SHIFT : Field := ⟨0x104, 1, 1⟩
def Reg.SGT.TCFG_B_CARRIER : Field := ⟨0x104, 2, 1⟩
def Reg.SGT.TCFG_ASC_SIDE : Field := ⟨0x104, 3, 1⟩
def Reg.SGT.TCFG_OFF_ASC : Field := ⟨0x104, 4, 1⟩
def Reg.SGT.TCFG_MEAS_A : Field := ⟨0x104, 5, 2⟩
def Reg.SGT.TCFG_MEAS_B : Field := ⟨0x104, 7, 2⟩
def Reg.SGT.TCFG_POS_PRI : Field := ⟨0x104, 9, 2⟩
def Reg.SGT.TCFG_RD_SEL : Field := ⟨0x104, 11, 1⟩
def Reg.SGT.TCFG_POLES : Field := ⟨0x104, 12, 4⟩
def Reg.SGT.TCFG_ENC_EN : Field := ⟨0x104, 16, 1⟩
def Reg.SGT.TCFG_RD_EN : Field := ⟨0x104, 17, 1⟩
def Reg.SGT.TCFG_OBS_EN : Field := ⟨0x104, 18, 1⟩
def Reg.SGT.PERIOD_PERIOD : Field := ⟨0x108, 0, 21⟩
def Reg.SGT.SAMP_OFFSET : Field := ⟨0x10C, 0, 21⟩
def Reg.SGT.SETTLE_NS : Field := ⟨0x110, 0, 12⟩
def Reg.SGT.IPH_A_PH_A : Field := ⟨0x114, 0, 7⟩
def Reg.SGT.IPH_A_PH_B : Field := ⟨0x114, 8, 7⟩
def Reg.SGT.IPH_A_PH_C : Field := ⟨0x114, 16, 7⟩
def Reg.SGT.IPH_B_PH_A : Field := ⟨0x118, 0, 7⟩
def Reg.SGT.IPH_B_PH_B : Field := ⟨0x118, 8, 7⟩
def Reg.SGT.IPH_B_PH_C : Field := ⟨0x118, 16, 7⟩
def Reg.SGT.VT_A_PH_A : Field := ⟨0x11C, 0, 7⟩
def Reg.SGT.VT_A_PH_B : Field := ⟨0x11C, 8, 7⟩
def Reg.SGT.VT_A_PH_C : Field := ⟨0x11C, 16, 7⟩
def Reg.SGT.VT_B_PH_A : Field := ⟨0x120, 0, 7⟩
def Reg.SGT.VT_B_PH_B : Field := ⟨0x120, 8, 7⟩
def Reg.SGT.VT_B_PH_C : Field := ⟨0x120, 16, 7⟩
def Reg.SGT.UDC_SRC_AIN : Field := ⟨0x124, 0, 7⟩
def Reg.SGT.SPD_LIM_CATCH_MIN : Field := ⟨0x128, 0, 16⟩
def Reg.SGT.SPD_LIM_CATCH_MAX : Field := ⟨0x128, 16, 16⟩
def Reg.SGT.REV_REV_SPD : Field := ⟨0x12C, 0, 16⟩
def Reg.SGT.REV_STILL : Field := ⟨0x12C, 16, 16⟩
def Reg.SGT.OBS_SPD_OBS_MIN : Field := ⟨0x130, 0, 16⟩
def Reg.SGT.ASC_SPD_RPM : Field := ⟨0x134, 0, 16⟩
def Reg.SGT.KE_KE : Field := ⟨0x138, 0, 32⟩
def Reg.SGT.UDC_NOM_V : Field := ⟨0x13C, 0, 32⟩
def Reg.SGT.TQ_MAX_NM : Field := ⟨0x140, 0, 32⟩
def Reg.SGT.TQ_RATED_NM : Field := ⟨0x144, 0, 32⟩
def Reg.SGT.I_RATED_A : Field := ⟨0x148, 0, 32⟩
def Reg.SGT.FW_ITRIP_A : Field := ⟨0x14C, 0, 32⟩
def Reg.SGT.PLAUS_SUM_TRIP : Field := ⟨0x150, 0, 8⟩
def Reg.SGT.PLAUS_VEC_TRIP : Field := ⟨0x150, 8, 8⟩
def Reg.SGT.PLAUS_PLAUS_MIN : Field := ⟨0x150, 16, 8⟩
def Reg.SGT.PLAUS_SUM_N : Field := ⟨0x150, 24, 4⟩
def Reg.SGT.PLAUS_VEC_N : Field := ⟨0x150, 28, 4⟩
def Reg.SGT.POSCHK_XCHK_ANG : Field := ⟨0x154, 0, 8⟩
def Reg.SGT.POSCHK_OBS_CONF_MIN : Field := ⟨0x154, 8, 8⟩
def Reg.SGT.POSCHK_OBS_N : Field := ⟨0x154, 16, 4⟩
def Reg.SGT.POSCHK_XCHK_N : Field := ⟨0x154, 20, 4⟩
def Reg.SGT.TIMES_LOSS_RAMP : Field := ⟨0x158, 0, 5⟩
def Reg.SGT.TIMES_TQ_STALE : Field := ⟨0x158, 8, 8⟩
def Reg.SGT.TIMES_REACT_TMAX : Field := ⟨0x158, 16, 16⟩
def Reg.SGT.CATCH_ITOL : Field := ⟨0x15C, 0, 8⟩
def Reg.SGT.CATCH_SYNC_N : Field := ⟨0x15C, 8, 4⟩
def Reg.SGT.SPEED_RPM : Field := ⟨0x180, 0, 32⟩
def Reg.SGT.TQ_EFF_NM : Field := ⟨0x184, 0, 32⟩
def Reg.SGT.N_ASC_RPM : Field := ⟨0x188, 0, 32⟩
def Reg.SGT.ISO_CAUSE_A : Field := ⟨0x18C, 0, 3⟩
def Reg.SGT.ISO_CAUSE_B : Field := ⟨0x18C, 4, 3⟩
def Reg.SGT.ISO_PHASE_A : Field := ⟨0x18C, 8, 3⟩
def Reg.SGT.ISO_PHASE_B : Field := ⟨0x18C, 12, 3⟩
def Reg.SGT.ISO_RPH_A : Field := ⟨0x18C, 16, 2⟩
def Reg.SGT.ISO_RPH_B : Field := ⟨0x18C, 18, 2⟩
def Reg.SGT.SKIP_CNT_COUNT : Field := ⟨0x190, 0, 16⟩

def Reg.SGC.STAT_STATE : Field := ⟨0x8, 0, 4⟩
def Reg.SGC.STAT_MODE : Field := ⟨0x8, 4, 3⟩
def Reg.SGC.STAT_REFUSE : Field := ⟨0x8, 8, 4⟩
def Reg.SGC.STAT_OFF_PEND : Field := ⟨0x8, 12, 1⟩
def Reg.SGC.STAT_EVSE_STOP : Field := ⟨0x8, 13, 1⟩
def Reg.SGC.STAT_GRID_OK : Field := ⟨0x8, 14, 1⟩
def Reg.SGC.STAT_S2 : Field := ⟨0x8, 15, 1⟩
def Reg.SGC.STAT_LEGS : Field := ⟨0x8, 16, 2⟩
def Reg.SGC.STAT_CB_LATCH : Field := ⟨0x8, 18, 1⟩
def Reg.SGC.STAT_TRIM_SAT : Field := ⟨0x8, 19, 1⟩
def Reg.SGC.MODE_REQ_MODE : Field := ⟨0x100, 0, 3⟩
def Reg.SGC.MODE_REQ_FAST : Field := ⟨0x100, 3, 1⟩
def Reg.SGC.CCFG_BIDIR : Field := ⟨0x104, 0, 1⟩
def Reg.SGC.CCFG_LV_BUS : Field := ⟨0x104, 1, 1⟩
def Reg.SGC.CCFG_PREBIAS : Field := ⟨0x104, 2, 1⟩
def Reg.SGC.CCFG_BAL_EN : Field := ⟨0x104, 3, 1⟩
def Reg.SGC.CCFG_HLC_EN : Field := ⟨0x104, 4, 1⟩
def Reg.SGC.CCFG_VENT_OK : Field := ⟨0x104, 5, 1⟩
def Reg.SGC.PERIOD_PERIOD : Field := ⟨0x108, 0, 21⟩
def Reg.SGC.SAMP_OFFSET : Field := ⟨0x10C, 0, 21⟩
def Reg.SGC.REF_TGT_VALUE : Field := ⟨0x110, 0, 32⟩
def Reg.SGC.RAMP_UP_RATE : Field := ⟨0x114, 0, 32⟩
def Reg.SGC.RAMP_DN_RATE : Field := ⟨0x118, 0, 32⟩
def Reg.SGC.DLY_START : Field := ⟨0x11C, 0, 16⟩
def Reg.SGC.DLY_STOP : Field := ⟨0x11C, 16, 16⟩
def Reg.SGC.STOP_LVL_VALUE : Field := ⟨0x120, 0, 32⟩
def Reg.SGC.VIN_MIN_V : Field := ⟨0x124, 0, 32⟩
def Reg.SGC.VIN_MAX_V : Field := ⟨0x128, 0, 32⟩
def Reg.SGC.OUT_OV_V : Field := ⟨0x12C, 0, 32⟩
def Reg.SGC.SRC_VIN : Field := ⟨0x130, 0, 7⟩
def Reg.SGC.SRC_VOUT : Field := ⟨0x130, 8, 7⟩
def Reg.SGC.SRC_IOUT : Field := ⟨0x130, 16, 7⟩
def Reg.SGC.IPH_PH0 : Field := ⟨0x134, 0, 7⟩
def Reg.SGC.IPH_PH1 : Field := ⟨0x134, 8, 7⟩
def Reg.SGC.IPH_PH2 : Field := ⟨0x134, 16, 7⟩
def Reg.SGC.IPH_PH3 : Field := ⟨0x134, 24, 7⟩
def Reg.SGC.VG_VA : Field := ⟨0x138, 0, 7⟩
def Reg.SGC.VG_VB : Field := ⟨0x138, 8, 7⟩
def Reg.SGC.VG_VC : Field := ⟨0x138, 16, 7⟩
def Reg.SGC.STALE_US : Field := ⟨0x13C, 0, 10⟩
def Reg.SGC.PHI_MAX_FRAC : Field := ⟨0x140, 0, 32⟩
def Reg.SGC.GRID_FMIN : Field := ⟨0x144, 0, 8⟩
def Reg.SGC.GRID_FMAX : Field := ⟨0x144, 8, 8⟩
def Reg.SGC.GRID_LOCK_N : Field := ⟨0x144, 16, 4⟩
def Reg.SGC.GRID_VMIN_V : Field := ⟨0x148, 0, 32⟩
def Reg.SGC.GRID_VMAX_V : Field := ⟨0x14C, 0, 32⟩
def Reg.SGC.CHG_LIM_A : Field := ⟨0x150, 0, 32⟩
def Reg.SGC.I_RISE_A_S : Field := ⟨0x154, 0, 32⟩
def Reg.SGC.BAL_K_K : Field := ⟨0x158, 0, 32⟩
def Reg.SGC.BAL_MIN_A : Field := ⟨0x15C, 0, 32⟩
def Reg.SGC.CROWBAR_V : Field := ⟨0x160, 0, 32⟩
def Reg.SGC.CB_DIV_RATIO : Field := ⟨0x164, 0, 32⟩
def Reg.SGC.CB_CLR : Field := ⟨0x168, 0, 1⟩
def Reg.SGC.REF_EFF_VALUE : Field := ⟨0x180, 0, 32⟩
def Reg.SGC.I_LIM_A : Field := ⟨0x184, 0, 32⟩
def Reg.SGC.GRID_F_HZ : Field := ⟨0x188, 0, 32⟩
def Reg.SGC.TRIM_T0 : Field := ⟨0x18C, 0, 8⟩
def Reg.SGC.TRIM_T1 : Field := ⟨0x18C, 8, 8⟩
def Reg.SGC.TRIM_T2 : Field := ⟨0x18C, 16, 8⟩
def Reg.SGC.TRIM_T3 : Field := ⟨0x18C, 24, 8⟩
def Reg.SGC.TRIP_CAUSE : Field := ⟨0x190, 0, 4⟩

def Reg.SGA.STAT_STATE : Field := ⟨0x8, 0, 4⟩
def Reg.SGA.STAT_MODE : Field := ⟨0x8, 4, 3⟩
def Reg.SGA.STAT_REFUSE : Field := ⟨0x8, 8, 4⟩
def Reg.SGA.STAT_REV_PEND : Field := ⟨0x8, 12, 1⟩
def Reg.SGA.STAT_HOLD_PEND : Field := ⟨0x8, 13, 1⟩
def Reg.SGA.STAT_CURVE_ON : Field := ⟨0x8, 14, 1⟩
def Reg.SGA.STAT_FAILSAFE : Field := ⟨0x8, 15, 1⟩
def Reg.SGA.STAT_LEGS : Field := ⟨0x8, 16, 2⟩
def Reg.SGA.MODE_REQ_MODE : Field := ⟨0x100, 0, 3⟩
def Reg.SGA.MODE_REQ_FAST : Field := ⟨0x100, 3, 1⟩
def Reg.SGA.ACFG_TGT_SRC : Field := ⟨0x104, 0, 1⟩
def Reg.SGA.ACFG_CDIR : Field := ⟨0x104, 1, 1⟩
def Reg.SGA.ACFG_CSRC : Field := ⟨0x104, 2, 2⟩
def Reg.SGA.PERIOD_PERIOD : Field := ⟨0x108, 0, 21⟩
def Reg.SGA.SAMP_OFFSET : Field := ⟨0x10C, 0, 21⟩
def Reg.SGA.IPH_PH_A : Field := ⟨0x110, 0, 7⟩
def Reg.SGA.IPH_PH_B : Field := ⟨0x110, 8, 7⟩
def Reg.SGA.IPH_PH_C : Field := ⟨0x110, 16, 7⟩
def Reg.SGA.SPD_TGT_RPM : Field := ⟨0x114, 0, 32⟩
def Reg.SGA.ACC_RATE : Field := ⟨0x118, 0, 32⟩
def Reg.SGA.DEC_RATE : Field := ⟨0x11C, 0, 32⟩
def Reg.SGA.REV_REV_SPD : Field := ⟨0x120, 0, 16⟩
def Reg.SGA.REV_HOLD_SPD : Field := ⟨0x120, 16, 16⟩
def Reg.SGA.VM_WIN_VM_MIN : Field := ⟨0x124, 0, 8⟩
def Reg.SGA.VM_WIN_VM_MAX : Field := ⟨0x124, 8, 8⟩
def Reg.SGA.VM_WIN_STOP_TMO : Field := ⟨0x124, 16, 16⟩
def Reg.SGA.I_MAX_A : Field := ⟨0x128, 0, 32⟩
def Reg.SGA.CURVE_NPTS : Field := ⟨0x12C, 0, 5⟩
def Reg.SGA.CURVE_AIN : Field := ⟨0x12C, 8, 7⟩
def Reg.SGA.CURVE_SLOT : Field := ⟨0x12C, 16, 10⟩
def Reg.SGA.CURVE_T_PERIOD : Field := ⟨0x130, 0, 16⟩
def Reg.SGA.CURVE_T_AGE_MAX : Field := ⟨0x130, 16, 16⟩
def Reg.SGA.X_ON_X : Field := ⟨0x134, 0, 32⟩
def Reg.SGA.X_OFF_X : Field := ⟨0x138, 0, 32⟩
def Reg.SGA.FAIL_SPD_RPM : Field := ⟨0x13C, 0, 32⟩
def Reg.SGA.CURVE_X_X (i : Nat) : Field := ⟨0x140 + 4 * i, 0, 32⟩
def Reg.SGA.CURVE_Y_RPM (i : Nat) : Field := ⟨0x180 + 4 * i, 0, 32⟩
def Reg.SGA.SPEED_RPM : Field := ⟨0x1C0, 0, 32⟩
def Reg.SGA.SPD_EFF_RPM : Field := ⟨0x1C4, 0, 32⟩
def Reg.SGA.CURVE_IN_X : Field := ⟨0x1C8, 0, 32⟩
def Reg.SGA.TRIP_CAUSE : Field := ⟨0x1CC, 0, 4⟩

def Reg.SGW.IN_VALUE (i : Nat) : Field := ⟨0x700 + 4 * i, 0, 32⟩
def Reg.SGW.CMD_VALUE (i : Nat) : Field := ⟨0x740 + 4 * i, 0, 32⟩
def Reg.SGW.IN_AT_L_STAMP : Field := ⟨0x780, 0, 32⟩
def Reg.SGW.IN_AT_H_STAMP : Field := ⟨0x784, 0, 32⟩
def Reg.SGW.CMD_AT_L_STAMP : Field := ⟨0x788, 0, 32⟩
def Reg.SGW.CMD_AT_H_STAMP : Field := ⟨0x78C, 0, 32⟩

def Reg.SA.CFG_ACQ : Field := ⟨0x100, 0, 8⟩
def Reg.SA.CFG_PD_EN : Field := ⟨0x100, 8, 1⟩
def Reg.SA.CFG_PRED_MAX : Field := ⟨0x100, 12, 4⟩
def Reg.SA.CFG_CAL_AUTO : Field := ⟨0x100, 16, 8⟩
def Reg.SA.CAL_CMD_REQ : Field := ⟨0x104, 0, 1⟩
def Reg.SA.CAL_STAT_RESULT : Field := ⟨0x108, 0, 2⟩
def Reg.SA.CAL_STAT_BUSY : Field := ⟨0x108, 2, 1⟩
def Reg.SA.CAL_STAT_WAIT : Field := ⟨0x108, 3, 1⟩
def Reg.SA.INJ_REQ_AIN : Field := ⟨0x10C, 0, 7⟩
def Reg.SA.INJ_RES_CODE : Field := ⟨0x110, 0, 14⟩
def Reg.SA.INJ_RES_AIN : Field := ⟨0x110, 14, 7⟩
def Reg.SA.INJ_RES_VALID : Field := ⟨0x110, 31, 1⟩
def Reg.SA.INJ_VAL_VALUE : Field := ⟨0x114, 0, 32⟩
def Reg.SA.INJ_AT_L_STAMP : Field := ⟨0x118, 0, 32⟩
def Reg.SA.INJ_AT_H_STAMP : Field := ⟨0x11C, 0, 32⟩
def Reg.SA.INJ_DROP_COUNT : Field := ⟨0x120, 0, 16⟩
def Reg.SA.SEQ_SW_SEQ : Field := ⟨0x124, 0, 8⟩
def Reg.SA.SKIP_CNT_COUNT : Field := ⟨0x128, 0, 16⟩
def Reg.SA.SEQ_OVR_COUNT : Field := ⟨0x12C, 0, 16⟩
def Reg.SA.RUN_AWAKE : Field := ⟨0x130, 0, 1⟩
def Reg.SA.RUN_HOSTED : Field := ⟨0x130, 1, 1⟩
def Reg.SA.RUN_HOSTING : Field := ⟨0x130, 2, 1⟩
def Reg.SA.RUN_INJ_PEND : Field := ⟨0x130, 3, 1⟩
def Reg.SA.POS_FAIL_POS : Field := ⟨0x134, 0, 32⟩
def Reg.SA.IN_FAIL_IN : Field := ⟨0x138, 0, 16⟩

def Reg.RD.CFG_EN : Field := ⟨0x100, 0, 1⟩
def Reg.RD.CFG_AMP : Field := ⟨0x100, 8, 8⟩
def Reg.RD.EXC_HZ : Field := ⟨0x104, 0, 15⟩
def Reg.RD.TRK_BW : Field := ⟨0x108, 0, 12⟩
def Reg.RD.TRK_TRK_LIM : Field := ⟨0x108, 16, 8⟩
def Reg.RD.LOS_AMP_MIN : Field := ⟨0x10C, 0, 8⟩
def Reg.RD.LOS_AMP_MAX : Field := ⟨0x10C, 8, 8⟩
def Reg.RD.OFFSET_RAD : Field := ⟨0x110, 0, 32⟩
def Reg.RD.HEALTH_LOS : Field := ⟨0x140, 0, 1⟩
def Reg.RD.HEALTH_LOT : Field := ⟨0x140, 1, 1⟩
def Reg.RD.HEALTH_LOCKED : Field := ⟨0x140, 2, 1⟩
def Reg.RD.ANGLE_ANGLE : Field := ⟨0x144, 0, 16⟩
def Reg.RD.SPEED_RAD_S : Field := ⟨0x148, 0, 32⟩
def Reg.RD.PHASE_TICKS : Field := ⟨0x14C, 0, 16⟩
def Reg.RD.AMP_A : Field := ⟨0x150, 0, 32⟩

def Reg.CAN.CFG_FD_EN : Field := ⟨0x100, 0, 1⟩
def Reg.CAN.CFG_XL_EN : Field := ⟨0x100, 1, 1⟩
def Reg.CAN.CFG_LOM : Field := ⟨0x100, 2, 1⟩
def Reg.CAN.CFG_ROM : Field := ⟨0x100, 3, 1⟩
def Reg.CAN.CFG_BO_AUTO : Field := ⟨0x100, 4, 1⟩
def Reg.CAN.CFG_BO_REC : Field := ⟨0x100, 5, 1⟩
def Reg.CAN.CFG_TDC_EN : Field := ⟨0x100, 6, 1⟩
def Reg.CAN.CFG_ACC_ALL : Field := ⟨0x100, 7, 1⟩
def Reg.CAN.NBT_BRP : Field := ⟨0x108, 0, 8⟩
def Reg.CAN.NBT_TSEG1 : Field := ⟨0x108, 8, 8⟩
def Reg.CAN.NBT_TSEG2 : Field := ⟨0x108, 16, 7⟩
def Reg.CAN.NBT_SJW : Field := ⟨0x108, 23, 7⟩
def Reg.CAN.DBT_BRP : Field := ⟨0x10C, 0, 8⟩
def Reg.CAN.DBT_TSEG1 : Field := ⟨0x10C, 8, 8⟩
def Reg.CAN.DBT_TSEG2 : Field := ⟨0x10C, 16, 7⟩
def Reg.CAN.DBT_SJW : Field := ⟨0x10C, 23, 7⟩
def Reg.CAN.XBT_BRP : Field := ⟨0x110, 0, 8⟩
def Reg.CAN.XBT_TSEG1 : Field := ⟨0x110, 8, 8⟩
def Reg.CAN.XBT_TSEG2 : Field := ⟨0x110, 16, 7⟩
def Reg.CAN.XBT_SJW : Field := ⟨0x110, 23, 7⟩
def Reg.CAN.TDC_OFFSET : Field := ⟨0x114, 0, 8⟩
def Reg.CAN.TDC_MEAS : Field := ⟨0x114, 16, 8⟩
def Reg.CAN.XL_TMS : Field := ⟨0x118, 0, 1⟩
def Reg.CAN.XL_PWMS : Field := ⟨0x118, 6, 6⟩
def Reg.CAN.XL_PWML : Field := ⟨0x118, 12, 6⟩
def Reg.CAN.XL_PWMO : Field := ⟨0x118, 18, 6⟩
def Reg.CAN.TX_BASE_ADDR : Field := ⟨0x120, 5, 27⟩
def Reg.CAN.TX_SIZE_ENTRIES : Field := ⟨0x124, 0, 16⟩
def Reg.CAN.TX_SIZE_UNITS : Field := ⟨0x124, 16, 8⟩
def Reg.CAN.TX_HEAD_IDX : Field := ⟨0x128, 0, 10⟩
def Reg.CAN.TX_TAIL_IDX : Field := ⟨0x12C, 0, 10⟩
def Reg.CAN.RX0_BASE_ADDR : Field := ⟨0x130, 5, 27⟩
def Reg.CAN.RX0_SIZE_ENTRIES : Field := ⟨0x134, 0, 16⟩
def Reg.CAN.RX0_SIZE_UNITS : Field := ⟨0x134, 16, 8⟩
def Reg.CAN.RX0_HEAD_IDX : Field := ⟨0x138, 0, 10⟩
def Reg.CAN.RX0_TAIL_IDX : Field := ⟨0x13C, 0, 10⟩
def Reg.CAN.RX1_BASE_ADDR : Field := ⟨0x140, 5, 27⟩
def Reg.CAN.RX1_SIZE_ENTRIES : Field := ⟨0x144, 0, 16⟩
def Reg.CAN.RX1_SIZE_UNITS : Field := ⟨0x144, 16, 8⟩
def Reg.CAN.RX1_HEAD_IDX : Field := ⟨0x148, 0, 10⟩
def Reg.CAN.RX1_TAIL_IDX : Field := ⟨0x14C, 0, 10⟩
def Reg.CAN.ERR_TEC : Field := ⟨0x150, 0, 8⟩
def Reg.CAN.ERR_REC : Field := ⟨0x150, 8, 8⟩
def Reg.CAN.ERR_STATE : Field := ⟨0x150, 16, 2⟩
def Reg.CAN.OVR0_CNT_COUNT : Field := ⟨0x154, 0, 16⟩
def Reg.CAN.OVR1_CNT_COUNT : Field := ⟨0x158, 0, 16⟩

def Reg.ETH.CFG_PLCA_EN : Field := ⟨0x100, 0, 1⟩
def Reg.ETH.CFG_PROMISC : Field := ⟨0x100, 1, 1⟩
def Reg.ETH.CFG_RX_EN : Field := ⟨0x100, 2, 1⟩
def Reg.ETH.CFG_TX_EN : Field := ⟨0x100, 3, 1⟩
def Reg.ETH.CFG_MDC_DIV : Field := ⟨0x100, 8, 8⟩
def Reg.ETH.MAC_L_MAC : Field := ⟨0x104, 0, 32⟩
def Reg.ETH.MAC_H_MAC : Field := ⟨0x108, 0, 16⟩
def Reg.ETH.PLCA_NODE_ID : Field := ⟨0x10C, 0, 8⟩
def Reg.ETH.PLCA_NODE_CNT : Field := ⟨0x10C, 8, 8⟩
def Reg.ETH.PLCA_TO_TMR : Field := ⟨0x10C, 16, 8⟩
def Reg.ETH.PLCA_BURST : Field := ⟨0x10C, 24, 8⟩
def Reg.ETH.TX0_BASE_ADDR : Field := ⟨0x110, 5, 27⟩
def Reg.ETH.TX0_SIZE_ENTRIES : Field := ⟨0x114, 0, 16⟩
def Reg.ETH.TX0_SIZE_UNITS : Field := ⟨0x114, 16, 8⟩
def Reg.ETH.TX0_HEAD_IDX : Field := ⟨0x118, 0, 10⟩
def Reg.ETH.TX0_TAIL_IDX : Field := ⟨0x11C, 0, 10⟩
def Reg.ETH.TX1_BASE_ADDR : Field := ⟨0x120, 5, 27⟩
def Reg.ETH.TX1_SIZE_ENTRIES : Field := ⟨0x124, 0, 16⟩
def Reg.ETH.TX1_SIZE_UNITS : Field := ⟨0x124, 16, 8⟩
def Reg.ETH.TX1_HEAD_IDX : Field := ⟨0x128, 0, 10⟩
def Reg.ETH.TX1_TAIL_IDX : Field := ⟨0x12C, 0, 10⟩
def Reg.ETH.RX_BASE_ADDR : Field := ⟨0x130, 5, 27⟩
def Reg.ETH.RX_SIZE_ENTRIES : Field := ⟨0x134, 0, 16⟩
def Reg.ETH.RX_SIZE_UNITS : Field := ⟨0x134, 16, 8⟩
def Reg.ETH.RX_HEAD_IDX : Field := ⟨0x138, 0, 10⟩
def Reg.ETH.RX_TAIL_IDX : Field := ⟨0x13C, 0, 10⟩
def Reg.ETH.ESTAT_LINK : Field := ⟨0x140, 0, 1⟩
def Reg.ETH.ESTAT_PLCA : Field := ⟨0x140, 1, 1⟩
def Reg.ETH.ESTAT_SPEED : Field := ⟨0x140, 2, 2⟩
def Reg.ETH.DROP_CNT_COUNT : Field := ⟨0x144, 0, 16⟩
def Reg.ETH.MDIO_CMD_PHY : Field := ⟨0x148, 0, 5⟩
def Reg.ETH.MDIO_CMD_REG : Field := ⟨0x148, 5, 5⟩
def Reg.ETH.MDIO_CMD_C45 : Field := ⟨0x148, 10, 1⟩
def Reg.ETH.MDIO_CMD_OP : Field := ⟨0x148, 11, 2⟩
def Reg.ETH.MDIO_CMD_DATA : Field := ⟨0x148, 16, 16⟩
def Reg.ETH.MDIO_STAT_DATA : Field := ⟨0x14C, 0, 16⟩
def Reg.ETH.MDIO_STAT_BUSY : Field := ⟨0x14C, 16, 1⟩

def Reg.SENT.CFG_EN (i : Nat) : Field := ⟨0x100 + 4 * i, 0, 1⟩
def Reg.SENT.CFG_TICK (i : Nat) : Field := ⟨0x100 + 4 * i, 1, 11⟩
def Reg.SENT.CFG_NIB (i : Nat) : Field := ⟨0x100 + 4 * i, 12, 3⟩
def Reg.SENT.CFG_PAUSE (i : Nat) : Field := ⟨0x100 + 4 * i, 15, 1⟩
def Reg.SENT.CFG_CRC (i : Nat) : Field := ⟨0x100 + 4 * i, 16, 1⟩
def Reg.SENT.CFG_SLOW (i : Nat) : Field := ⟨0x100 + 4 * i, 17, 2⟩
def Reg.SENT.CFG_SLOT_EN (i : Nat) : Field := ⟨0x100 + 4 * i, 19, 1⟩
def Reg.SENT.CFG_SLOT (i : Nat) : Field := ⟨0x100 + 4 * i, 20, 10⟩
def Reg.SENT.TMO_MS (i : Nat) : Field := ⟨0x110 + 4 * i, 0, 16⟩
def Reg.SENT.FAST_DATA (i : Nat) : Field := ⟨0x120 + 4 * i, 0, 24⟩
def Reg.SENT.FAST_STATUS (i : Nat) : Field := ⟨0x120 + 4 * i, 24, 4⟩
def Reg.SENT.FAST_VALID (i : Nat) : Field := ⟨0x120 + 4 * i, 31, 1⟩
def Reg.SENT.AT_L_STAMP (i : Nat) : Field := ⟨0x130 + 8 * i, 0, 32⟩
def Reg.SENT.AT_H_STAMP (i : Nat) : Field := ⟨0x134 + 8 * i, 0, 32⟩
def Reg.SENT.SLOW_DATA (i : Nat) : Field := ⟨0x150 + 4 * i, 0, 16⟩
def Reg.SENT.SLOW_ID (i : Nat) : Field := ⟨0x150 + 4 * i, 16, 8⟩
def Reg.SENT.SLOW_VALID (i : Nat) : Field := ⟨0x150 + 4 * i, 24, 1⟩
def Reg.SENT.ERR_CNT_COUNT (i : Nat) : Field := ⟨0x160 + 4 * i, 0, 16⟩
def Reg.SENT.TICK_US (i : Nat) : Field := ⟨0x170 + 4 * i, 0, 32⟩

def Reg.PSI.CFG_EN (i : Nat) : Field := ⟨0x100 + 4 * i, 0, 1⟩
def Reg.PSI.CFG_PERIOD (i : Nat) : Field := ⟨0x100 + 4 * i, 1, 10⟩
def Reg.PSI.SLOT_EN (i : Nat) : Field := ⟨0x110 + 4 * i, 0, 1⟩
def Reg.PSI.SLOT_RATE (i : Nat) : Field := ⟨0x110 + 4 * i, 1, 1⟩
def Reg.PSI.SLOT_BITS (i : Nat) : Field := ⟨0x110 + 4 * i, 2, 5⟩
def Reg.PSI.SLOT_CHK (i : Nat) : Field := ⟨0x110 + 4 * i, 7, 1⟩
def Reg.PSI.SLOT_OFFSET (i : Nat) : Field := ⟨0x110 + 4 * i, 8, 10⟩
def Reg.PSI.SLOT_SLOT_EN (i : Nat) : Field := ⟨0x110 + 4 * i, 18, 1⟩
def Reg.PSI.SLOT_SLOT (i : Nat) : Field := ⟨0x110 + 4 * i, 19, 10⟩
def Reg.PSI.MISS_N_N : Field := ⟨0x130, 0, 4⟩
def Reg.PSI.DATA_DATA (i : Nat) : Field := ⟨0x140 + 4 * i, 0, 28⟩
def Reg.PSI.DATA_VALID (i : Nat) : Field := ⟨0x140 + 4 * i, 31, 1⟩
def Reg.PSI.AT_L_STAMP (i : Nat) : Field := ⟨0x180 + 8 * i, 0, 32⟩
def Reg.PSI.AT_H_STAMP (i : Nat) : Field := ⟨0x184 + 8 * i, 0, 32⟩
def Reg.PSI.ERR_CNT_COUNT (i : Nat) : Field := ⟨0x1C0 + 4 * i, 0, 16⟩

def Reg.CHG.CP_OFS_V : Field := ⟨0x100, 0, 32⟩
def Reg.CHG.CP_GAIN_K : Field := ⟨0x104, 0, 32⟩
def Reg.CHG.PP_RPU_OHM : Field := ⟨0x108, 0, 32⟩
def Reg.CHG.HLC_LIM_A : Field := ⟨0x10C, 0, 32⟩
def Reg.CHG.CP_STATE : Field := ⟨0x140, 0, 3⟩
def Reg.CHG.CP_PWM : Field := ⟨0x140, 3, 1⟩
def Reg.CHG.CP_DUTY : Field := ⟨0x140, 4, 10⟩
def Reg.CHG.CP_HIGH_V : Field := ⟨0x144, 0, 32⟩
def Reg.CHG.CP_LOW_V : Field := ⟨0x148, 0, 32⟩
def Reg.CHG.I_PILOT_A : Field := ⟨0x14C, 0, 32⟩
def Reg.CHG.PP_BAND : Field := ⟨0x150, 0, 3⟩
def Reg.CHG.PP_CONN : Field := ⟨0x150, 3, 1⟩
def Reg.CHG.PP_R_OHM : Field := ⟨0x154, 0, 32⟩

def Reg.SYN.STAT_SYM_LOCK : Field := ⟨0x8, 4, 1⟩
def Reg.SYN.STAT_LOCK : Field := ⟨0x8, 5, 1⟩
def Reg.SYN.STAT_RING : Field := ⟨0x8, 6, 1⟩
def Reg.SYN.STAT_STEPPED : Field := ⟨0x8, 7, 1⟩
def Reg.SYN.STAT_OFFSET : Field := ⟨0x8, 8, 24⟩
def Reg.SYN.CFG_NDEV : Field := ⟨0x100, 0, 3⟩
def Reg.SYN.CFG_POS : Field := ⟨0x100, 4, 2⟩
def Reg.SYN.CFG_MASTER : Field := ⟨0x100, 8, 2⟩
def Reg.SYN.CFG_SYNC_INT : Field := ⟨0x100, 16, 10⟩
def Reg.SYN.LINK_DLY_DLY : Field := ⟨0x104, 0, 10⟩
def Reg.SYN.TXS_STAT_SEQ : Field := ⟨0x108, 0, 8⟩
def Reg.SYN.TXS_STAT_ACK : Field := ⟨0x108, 8, 4⟩
def Reg.SYN.TXS_STAT_LOST : Field := ⟨0x108, 12, 1⟩
def Reg.SYN.TXS_STAT_QUEUED : Field := ⟨0x108, 13, 3⟩
def Reg.SYN.TXS_STAT_DROP : Field := ⟨0x108, 16, 1⟩
def Reg.SYN.TXA_STAT_SEQ : Field := ⟨0x10C, 0, 8⟩
def Reg.SYN.TXA_STAT_ACK : Field := ⟨0x10C, 8, 4⟩
def Reg.SYN.TXA_STAT_LOST : Field := ⟨0x10C, 12, 1⟩
def Reg.SYN.TXA_STAT_QUEUED : Field := ⟨0x10C, 13, 3⟩
def Reg.SYN.TXA_STAT_DROP : Field := ⟨0x10C, 16, 1⟩
def Reg.SYN.FRAME_ERR_COUNT : Field := ⟨0x110, 0, 16⟩
def Reg.SYN.TXS_DATA_DATA (i : Nat) : Field := ⟨0x700 + 4 * i, 0, 32⟩
def Reg.SYN.TXS_HDR_DST : Field := ⟨0x720, 0, 4⟩
def Reg.SYN.TXS_HDR_LEN : Field := ⟨0x720, 8, 6⟩
def Reg.SYN.TXS_HDR_GO : Field := ⟨0x720, 31, 1⟩
def Reg.SYN.TXA_DATA_DATA (i : Nat) : Field := ⟨0x740 + 4 * i, 0, 32⟩
def Reg.SYN.TXA_HDR_DST : Field := ⟨0x760, 0, 4⟩
def Reg.SYN.TXA_HDR_LEN : Field := ⟨0x760, 8, 6⟩
def Reg.SYN.TXA_HDR_GO : Field := ⟨0x760, 31, 1⟩
def Reg.SYN.RXS_DATA_DATA (i : Nat) : Field := ⟨0x780 + 4 * i, 0, 32⟩
def Reg.SYN.RXS_INFO_SRC : Field := ⟨0x7A0, 0, 2⟩
def Reg.SYN.RXS_INFO_SEQ : Field := ⟨0x7A0, 8, 8⟩
def Reg.SYN.RXS_INFO_LEN : Field := ⟨0x7A0, 16, 6⟩
def Reg.SYN.RXS_INFO_COUNT : Field := ⟨0x7A0, 24, 4⟩
def Reg.SYN.RXS_INFO_VALID : Field := ⟨0x7A0, 31, 1⟩
def Reg.SYN.RXS_AT_L_STAMP : Field := ⟨0x7A4, 0, 32⟩
def Reg.SYN.RXS_AT_H_STAMP : Field := ⟨0x7A8, 0, 32⟩
def Reg.SYN.RXS_POP_POP : Field := ⟨0x7AC, 0, 1⟩
def Reg.SYN.RXA_DATA_DATA (i : Nat) : Field := ⟨0x7C0 + 4 * i, 0, 32⟩
def Reg.SYN.RXA_INFO_SRC : Field := ⟨0x7E0, 0, 2⟩
def Reg.SYN.RXA_INFO_SEQ : Field := ⟨0x7E0, 8, 8⟩
def Reg.SYN.RXA_INFO_LEN : Field := ⟨0x7E0, 16, 6⟩
def Reg.SYN.RXA_INFO_COUNT : Field := ⟨0x7E0, 24, 4⟩
def Reg.SYN.RXA_INFO_VALID : Field := ⟨0x7E0, 31, 1⟩
def Reg.SYN.RXA_AT_L_STAMP : Field := ⟨0x7E4, 0, 32⟩
def Reg.SYN.RXA_AT_H_STAMP : Field := ⟨0x7E8, 0, 32⟩
def Reg.SYN.RXA_POP_POP : Field := ⟨0x7EC, 0, 1⟩

def Reg.GPIO.DIR_DIR : Field := ⟨0x100, 0, 32⟩
def Reg.GPIO.OUT_OUT : Field := ⟨0x104, 0, 32⟩
def Reg.GPIO.SET_SET : Field := ⟨0x108, 0, 32⟩
def Reg.GPIO.CLR_CLR : Field := ⟨0x10C, 0, 32⟩
def Reg.GPIO.IN_IN : Field := ⟨0x110, 0, 32⟩
def Reg.GPIO.RISE_EN_EN : Field := ⟨0x114, 0, 32⟩
def Reg.GPIO.FALL_EN_EN : Field := ⟨0x118, 0, 32⟩
def Reg.GPIO.EDGE_EDGE : Field := ⟨0x11C, 0, 32⟩

def Reg.SPI.CFG_CPOL0 : Field := ⟨0x100, 0, 1⟩
def Reg.SPI.CFG_CPHA0 : Field := ⟨0x100, 1, 1⟩
def Reg.SPI.CFG_CPOL1 : Field := ⟨0x100, 2, 1⟩
def Reg.SPI.CFG_CPHA1 : Field := ⟨0x100, 3, 1⟩
def Reg.SPI.CFG_LSB : Field := ⟨0x100, 4, 1⟩
def Reg.SPI.CFG_WORD : Field := ⟨0x100, 5, 2⟩
def Reg.SPI.CFG_DIV : Field := ⟨0x100, 8, 7⟩
def Reg.SPI.TIME_SETUP : Field := ⟨0x104, 0, 8⟩
def Reg.SPI.TIME_HOLD : Field := ⟨0x104, 8, 8⟩
def Reg.SPI.TIME_GAP : Field := ⟨0x104, 16, 8⟩
def Reg.SPI.TX_BASE_ADDR : Field := ⟨0x110, 5, 27⟩
def Reg.SPI.TX_SIZE_ENTRIES : Field := ⟨0x114, 0, 16⟩
def Reg.SPI.TX_SIZE_UNITS : Field := ⟨0x114, 16, 8⟩
def Reg.SPI.TX_HEAD_IDX : Field := ⟨0x118, 0, 10⟩
def Reg.SPI.TX_TAIL_IDX : Field := ⟨0x11C, 0, 10⟩
def Reg.SPI.XSTAT_BUSY : Field := ⟨0x120, 0, 1⟩
def Reg.SPI.XSTAT_SEL_HELD : Field := ⟨0x120, 1, 1⟩
def Reg.SPI.ERR_CNT_COUNT : Field := ⟨0x124, 0, 16⟩

def Reg.TRLW.CTRL_EN (i : Nat) : Field := ⟨0x1000000 + 128 * i, 0, 1⟩
def Reg.TRLW.CTRL_CLASS (i : Nat) : Field := ⟨0x1000000 + 128 * i, 1, 2⟩
def Reg.TRLW.CTRL_GROUP (i : Nat) : Field := ⟨0x1000000 + 128 * i, 4, 4⟩
def Reg.TRLW.CTRL_IMG (i : Nat) : Field := ⟨0x1000000 + 128 * i, 8, 6⟩
def Reg.TRLW.CTRL_CARRY (i : Nat) : Field := ⟨0x1000000 + 128 * i, 16, 4⟩
def Reg.TRLW.TRIG_SRC (i : Nat) : Field := ⟨0x1000004 + 128 * i, 0, 3⟩
def Reg.TRLW.TRIG_STAGE (i : Nat) : Field := ⟨0x1000004 + 128 * i, 4, 4⟩
def Reg.TRLW.TRIG_EVENT (i : Nat) : Field := ⟨0x1000004 + 128 * i, 8, 2⟩
def Reg.TRLW.TRIG_SLOT (i : Nat) : Field := ⟨0x1000004 + 128 * i, 16, 10⟩
def Reg.TRLW.TRIG_ARG_ARG (i : Nat) : Field := ⟨0x1000008 + 128 * i, 0, 21⟩
def Reg.TRLW.RATE_HZ (i : Nat) : Field := ⟨0x100000C + 128 * i, 0, 18⟩
def Reg.TRLW.BUDGET_OPS (i : Nat) : Field := ⟨0x1000010 + 128 * i, 0, 16⟩
def Reg.TRLW.DEADLINE_US (i : Nat) : Field := ⟨0x1000014 + 128 * i, 0, 20⟩
def Reg.TRLW.STATE_SIZE (i : Nat) : Field := ⟨0x1000018 + 128 * i, 0, 16⟩
def Reg.TRLW.STATE_CKPT (i : Nat) : Field := ⟨0x1000018 + 128 * i, 16, 7⟩
def Reg.TRLW.UNIT_L_UNITS (i : Nat) : Field := ⟨0x100001C + 128 * i, 0, 32⟩
def Reg.TRLW.UNIT_H_UNITS (i : Nat) : Field := ⟨0x1000020 + 128 * i, 0, 32⟩
def Reg.TRLW.IN0_HANDLES (i : Nat) : Field := ⟨0x1000024 + 128 * i, 0, 32⟩
def Reg.TRLW.IN1_HANDLES (i : Nat) : Field := ⟨0x1000028 + 128 * i, 0, 32⟩
def Reg.TRLW.IN2_HANDLES (i : Nat) : Field := ⟨0x100002C + 128 * i, 0, 32⟩
def Reg.TRLW.IN3_HANDLES (i : Nat) : Field := ⟨0x1000030 + 128 * i, 0, 32⟩
def Reg.TRLW.IN4_HANDLES (i : Nat) : Field := ⟨0x1000034 + 128 * i, 0, 32⟩
def Reg.TRLW.IN5_HANDLES (i : Nat) : Field := ⟨0x1000038 + 128 * i, 0, 32⟩
def Reg.TRLW.IN6_HANDLES (i : Nat) : Field := ⟨0x100003C + 128 * i, 0, 32⟩
def Reg.TRLW.IN7_HANDLES (i : Nat) : Field := ⟨0x1000040 + 128 * i, 0, 32⟩
def Reg.TRLW.OUT0_HANDLES (i : Nat) : Field := ⟨0x1000044 + 128 * i, 0, 32⟩
def Reg.TRLW.OUT1_HANDLES (i : Nat) : Field := ⟨0x1000048 + 128 * i, 0, 32⟩
def Reg.TRLW.OUT2_HANDLES (i : Nat) : Field := ⟨0x100004C + 128 * i, 0, 32⟩
def Reg.TRLW.OUT3_HANDLES (i : Nat) : Field := ⟨0x1000050 + 128 * i, 0, 32⟩
def Reg.TRLW.OUT4_HANDLES (i : Nat) : Field := ⟨0x1000054 + 128 * i, 0, 32⟩
def Reg.TRLW.OUT5_HANDLES (i : Nat) : Field := ⟨0x1000058 + 128 * i, 0, 32⟩
def Reg.TRLW.OUT6_HANDLES (i : Nat) : Field := ⟨0x100005C + 128 * i, 0, 32⟩
def Reg.TRLW.OUT7_HANDLES (i : Nat) : Field := ⟨0x1000060 + 128 * i, 0, 32⟩
def Reg.TRLW.CARRY_MAP_ENTRY (i : Nat) : Field := ⟨0x1002040 + 4 * i, 0, 32⟩
def Reg.TRLW.EXCL_ROW (i : Nat) : Field := ⟨0x1002404 + 4 * i, 1, 15⟩

def Reg.SAW.CTRL_EN (i : Nat) : Field := ⟨0x1000000 + 32 * i, 0, 1⟩
def Reg.SAW.CTRL_SRC (i : Nat) : Field := ⟨0x1000000 + 32 * i, 1, 2⟩
def Reg.SAW.CTRL_STAGE (i : Nat) : Field := ⟨0x1000000 + 32 * i, 4, 4⟩
def Reg.SAW.CTRL_EVENT (i : Nat) : Field := ⟨0x1000000 + 32 * i, 8, 2⟩
def Reg.SAW.ARG_US (i : Nat) : Field := ⟨0x1000004 + 32 * i, 0, 20⟩
def Reg.SAW.ENTRY0_E0 (i : Nat) : Field := ⟨0x1000008 + 32 * i, 0, 7⟩
def Reg.SAW.ENTRY0_E1 (i : Nat) : Field := ⟨0x1000008 + 32 * i, 8, 7⟩
def Reg.SAW.ENTRY0_E2 (i : Nat) : Field := ⟨0x1000008 + 32 * i, 16, 7⟩
def Reg.SAW.ENTRY0_E3 (i : Nat) : Field := ⟨0x1000008 + 32 * i, 24, 7⟩
def Reg.SAW.ENTRY1_E4 (i : Nat) : Field := ⟨0x100000C + 32 * i, 0, 7⟩
def Reg.SAW.ENTRY1_E5 (i : Nat) : Field := ⟨0x100000C + 32 * i, 8, 7⟩
def Reg.SAW.ENTRY1_E6 (i : Nat) : Field := ⟨0x100000C + 32 * i, 16, 7⟩
def Reg.SAW.ENTRY1_E7 (i : Nat) : Field := ⟨0x100000C + 32 * i, 24, 7⟩
def Reg.SAW.ENTRY2_E8 (i : Nat) : Field := ⟨0x1000010 + 32 * i, 0, 7⟩
def Reg.SAW.ENTRY2_E9 (i : Nat) : Field := ⟨0x1000010 + 32 * i, 8, 7⟩
def Reg.SAW.ENTRY2_E10 (i : Nat) : Field := ⟨0x1000010 + 32 * i, 16, 7⟩
def Reg.SAW.ENTRY2_E11 (i : Nat) : Field := ⟨0x1000010 + 32 * i, 24, 7⟩
def Reg.SAW.ENTRY3_E12 (i : Nat) : Field := ⟨0x1000014 + 32 * i, 0, 7⟩
def Reg.SAW.ENTRY3_E13 (i : Nat) : Field := ⟨0x1000014 + 32 * i, 8, 7⟩
def Reg.SAW.ENTRY3_E14 (i : Nat) : Field := ⟨0x1000014 + 32 * i, 16, 7⟩
def Reg.SAW.ENTRY3_E15 (i : Nat) : Field := ⟨0x1000014 + 32 * i, 24, 7⟩
def Reg.SAW.GAIN_GAIN (i : Nat) : Field := ⟨0x1000100 + 8 * i, 0, 32⟩
def Reg.SAW.OFFSET_OFFSET (i : Nat) : Field := ⟨0x1000104 + 8 * i, 0, 32⟩

def Reg.MEMW.O_SRAM_ADDR (i : Nat) : Field := ⟨0x1000000 + 16 * i, 0, 32⟩
def Reg.MEMW.O_MRAM_OFFS (i : Nat) : Field := ⟨0x1000004 + 16 * i, 0, 24⟩
def Reg.MEMW.O_LEN_BYTES (i : Nat) : Field := ⟨0x1000008 + 16 * i, 0, 22⟩
def Reg.MEMW.O_CTRL_EN (i : Nat) : Field := ⟨0x100000C + 16 * i, 0, 1⟩
def Reg.MEMW.O_CTRL_LOADED (i : Nat) : Field := ⟨0x100000C + 16 * i, 1, 1⟩
def Reg.MEMW.REMAP_LINE (i : Nat) : Field := ⟨0x1000400 + 4 * i, 0, 14⟩
def Reg.MEMW.REMAP_VALID (i : Nat) : Field := ⟨0x1000400 + 4 * i, 31, 1⟩

def Reg.CANW.FID_ID (i : Nat) : Field := ⟨0x1000000 + 8 * i, 0, 29⟩
def Reg.CANW.FID_IDE (i : Nat) : Field := ⟨0x1000000 + 8 * i, 29, 1⟩
def Reg.CANW.FID_ACTION (i : Nat) : Field := ⟨0x1000000 + 8 * i, 30, 2⟩
def Reg.CANW.FMASK_MASK (i : Nat) : Field := ⟨0x1000004 + 8 * i, 0, 29⟩

def Reg.FLTW.STAMP_L_STAMP (i : Nat) : Field := ⟨0x1000000 + 32 * i, 0, 32⟩
def Reg.FLTW.STAMP_H_STAMP (i : Nat) : Field := ⟨0x1000004 + 32 * i, 0, 32⟩
def Reg.FLTW.INFO_CODE (i : Nat) : Field := ⟨0x1000008 + 32 * i, 0, 8⟩
def Reg.FLTW.INFO_CLASS (i : Nat) : Field := ⟨0x1000008 + 32 * i, 8, 2⟩
def Reg.FLTW.INFO_INJ (i : Nat) : Field := ⟨0x1000008 + 32 * i, 10, 1⟩
def Reg.FLTW.INFO_ORIGIN (i : Nat) : Field := ⟨0x1000008 + 32 * i, 11, 2⟩
def Reg.FLTW.INFO_PAGE (i : Nat) : Field := ⟨0x1000008 + 32 * i, 16, 8⟩
def Reg.FLTW.DETAIL_DETAIL (i : Nat) : Field := ⟨0x100000C + 32 * i, 0, 32⟩
def Reg.FLTW.SEQ_SEQ (i : Nat) : Field := ⟨0x1000010 + 32 * i, 0, 32⟩
def Reg.FLTW.FIRST_STAMP_L_STAMP (i : Nat) : Field := ⟨0x1002000 + 32 * i, 0, 32⟩
def Reg.FLTW.FIRST_STAMP_H_STAMP (i : Nat) : Field := ⟨0x1002004 + 32 * i, 0, 32⟩
def Reg.FLTW.FIRST_INFO_CODE (i : Nat) : Field := ⟨0x1002008 + 32 * i, 0, 8⟩
def Reg.FLTW.FIRST_INFO_CLASS (i : Nat) : Field := ⟨0x1002008 + 32 * i, 8, 2⟩
def Reg.FLTW.FIRST_INFO_INJ (i : Nat) : Field := ⟨0x1002008 + 32 * i, 10, 1⟩
def Reg.FLTW.FIRST_INFO_ORIGIN (i : Nat) : Field := ⟨0x1002008 + 32 * i, 11, 2⟩
def Reg.FLTW.FIRST_INFO_PAGE (i : Nat) : Field := ⟨0x1002008 + 32 * i, 16, 8⟩
def Reg.FLTW.FIRST_DETAIL_DETAIL (i : Nat) : Field := ⟨0x100200C + 32 * i, 0, 32⟩
def Reg.FLTW.FIRST_SEQ_SEQ (i : Nat) : Field := ⟨0x1002010 + 32 * i, 0, 32⟩

end Sys2Proof.Machine
end

