-- ==== Sys2Proof/Machine/RegRows.lean ====
section
/-! DEFINITION. The register tables of the spec, one row per field: byte offset, count, stride, lowest bit, width, access
and reset value. A field the spec gives no reset value has 0 (assumption 3). -/

namespace Sys2Proof.Machine

/-- The register fields of the common header (R385), part 1 (R385). -/
def rowsHDR1 : List RegRow := [
  ⟨0x0, 1, 0, 0, 8, .ro, 0x0⟩, -- ID.SILREV
  ⟨0x0, 1, 0, 8, 8, .ro, 0x0⟩, -- ID.LAYOUT
  ⟨0x0, 1, 0, 16, 8, .ro, 0x0⟩, -- ID.INST
  ⟨0x0, 1, 0, 24, 8, .ro, 0x0⟩, -- ID.TYPE
  ⟨0x4, 1, 0, 0, 29, .ro, 0x0⟩, -- CAP.CAPS
  ⟨0x4, 1, 0, 29, 1, .ro, 0x0⟩, -- CAP.POLDER
  ⟨0x4, 1, 0, 30, 1, .ro, 0x0⟩, -- CAP.WINDOW
  ⟨0x4, 1, 0, 31, 1, .ro, 0x0⟩, -- CAP.STAGED
  ⟨0x8, 1, 0, 0, 4, .ro, 0x0⟩, -- STAT.STATE
  ⟨0xC, 1, 0, 0, 1, .w1c, 0x0⟩, -- FLT.C
  ⟨0xC, 1, 0, 1, 1, .w1c, 0x0⟩, -- FLT.U
  ⟨0xC, 1, 0, 2, 1, .w1c, 0x0⟩, -- FLT.F
  ⟨0xC, 1, 0, 3, 1, .w1c, 0x0⟩, -- FLT.CNT_SAT
  ⟨0xC, 1, 0, 8, 8, .ro, 0x0⟩, -- FLT.CODE
  ⟨0x10, 1, 0, 0, 1, .rw, 0x0⟩, -- CTL.EN
  ⟨0x10, 1, 0, 1, 1, .rw, 0x0⟩, -- CTL.DRAIN
  ⟨0x10, 1, 0, 2, 1, .rw, 0x0⟩, -- CTL.TEST
  ⟨0x10, 1, 0, 3, 1, .rw, 0x0⟩, -- CTL.BLKRST
  ⟨0x14, 1, 0, 0, 1, .wo, 0x0⟩, -- STG.DISCARD
  ⟨0x14, 1, 0, 1, 1, .rw, 0x0⟩, -- STG.INCLUDE
  ⟨0x18, 1, 0, 0, 16, .ro, 0x0⟩] -- EVT.COUNT

/-- The register fields of the common header (R385). -/
def rowsHDR : List RegRow := rowsHDR1

/-- The register fields of the indirect window registers (R392), part 1 (R392). -/
def rowsWIN1 : List RegRow := [
  ⟨0xF00, 1, 0, 2, 22, .rw, 0x0⟩, -- WADDR.ADDR
  ⟨0xF04, 1, 0, 0, 32, .rw, 0x0⟩, -- WDATA.DATA
  ⟨0xF08, 1, 0, 0, 1, .rw, 0x0⟩, -- WCTL.SIDE
  ⟨0xF08, 1, 0, 1, 1, .rw, 0x0⟩, -- WCTL.INC
  ⟨0xF08, 1, 0, 8, 1, .ro, 0x0⟩, -- WCTL.BUSY
  ⟨0xF08, 1, 0, 9, 1, .ro, 0x0⟩] -- WCTL.ERR

/-- The register fields of the indirect window registers (R392). -/
def rowsWIN : List RegRow := rowsWIN1

/-- The register fields of the SYS page, part 1 (R404, R499). -/
def rowsSYS1 : List RegRow := [
  ⟨0x100, 1, 0, 0, 16, .wo, 0x0⟩, -- COMMIT.KEY
  ⟨0x104, 1, 0, 0, 3, .ro, 0x0⟩, -- COMMIT_STAT.STATE
  ⟨0x104, 1, 0, 3, 1, .ro, 0x0⟩, -- COMMIT_STAT.IGN
  ⟨0x104, 1, 0, 8, 5, .ro, 0x0⟩, -- COMMIT_STAT.CK
  ⟨0x104, 1, 0, 16, 8, .ro, 0x0⟩, -- COMMIT_STAT.PAGE
  ⟨0x104, 1, 0, 24, 8, .ro, 0x0⟩, -- COMMIT_STAT.ITEM
  ⟨0x108, 1, 0, 0, 14, .rws, 0x64⟩, -- COMMIT_MARK.US
  ⟨0x10C, 1, 0, 0, 32, .ro, 0x0⟩, -- COMMIT_AT_L.STAMP
  ⟨0x110, 1, 0, 0, 32, .ro, 0x0⟩, -- COMMIT_AT_H.STAMP
  ⟨0x114, 1, 0, 0, 32, .ro, 0x0⟩, -- COMMIT_SEQ.SEQ
  ⟨0x118, 1, 0, 0, 10, .rws, 0xA⟩, -- DRAIN_TMO.MS
  ⟨0x120, 8, 4, 0, 32, .ro, 0x0⟩] -- PAGES.PRESENT

/-- The register fields of the SYS page. -/
def rowsSYS : List RegRow := rowsSYS1

/-- The register fields of the PWR page, part 1 (R476, R495). -/
def rowsPWR1 : List RegRow := [
  ⟨0x100, 1, 0, 0, 2, .wo, 0x0⟩, -- REQ.STATE
  ⟨0x104, 1, 0, 0, 3, .ro, 0x4⟩, -- STAT.STATE
  ⟨0x104, 1, 0, 4, 3, .ro, 0x0⟩, -- STAT.REFUSE
  ⟨0x104, 1, 0, 7, 1, .ro, 0x0⟩, -- STAT.ABORT
  ⟨0x108, 1, 0, 0, 1, .rws, 0x0⟩, -- CFG.BOOT_STBY
  ⟨0x10C, 1, 0, 0, 7, .rws, 0x1⟩, -- WAKE_EN.EN
  ⟨0x110, 1, 0, 0, 1, .rws, 0x1⟩, -- WAKE_CFG.POL
  ⟨0x110, 1, 0, 8, 8, .rws, 0x32⟩, -- WAKE_CFG.FILT
  ⟨0x114, 1, 0, 0, 24, .rws, 0xE10⟩, -- WAKE_TMR.S
  ⟨0x118, 1, 0, 0, 7, .ro, 0x0⟩, -- WAKE_SRC.SRC
  ⟨0x118, 1, 0, 31, 1, .ro, 0x0⟩, -- WAKE_SRC.VALID
  ⟨0x11C, 1, 0, 0, 1, .ro, 0x0⟩, -- BOOT.BANK
  ⟨0x11C, 1, 0, 1, 1, .ro, 0x0⟩, -- BOOT.COMPAT
  ⟨0x11C, 1, 0, 2, 2, .ro, 0x0⟩, -- BOOT.RESULT
  ⟨0x11C, 1, 0, 4, 1, .ro, 0x0⟩, -- BOOT.PREF
  ⟨0x11C, 1, 0, 5, 1, .ro, 0x1⟩, -- BOOT.CONF
  ⟨0x11C, 1, 0, 6, 2, .ro, 0x0⟩, -- BOOT.TRIES
  ⟨0x11C, 1, 0, 8, 1, .ro, 0x0⟩, -- BOOT.VALID_A
  ⟨0x11C, 1, 0, 9, 1, .ro, 0x0⟩, -- BOOT.VALID_B
  ⟨0x11C, 1, 0, 10, 1, .ro, 0x0⟩, -- BOOT.APP
  ⟨0x11C, 1, 0, 11, 1, .ro, 0x0⟩, -- BOOT.DATA
  ⟨0x11C, 1, 0, 12, 1, .ro, 0x0⟩, -- BOOT.READY
  ⟨0x120, 1, 0, 0, 1, .wo, 0x0⟩, -- BOOT_CMD.PREFER
  ⟨0x120, 1, 0, 1, 1, .wo, 0x0⟩, -- BOOT_CMD.CONFIRM
  ⟨0x120, 1, 0, 2, 1, .wo, 0x0⟩, -- BOOT_CMD.READY
  ⟨0x124, 1, 0, 0, 1, .ro, 0x0⟩, -- SUPPLY.VBAT_WARN
  ⟨0x124, 1, 0, 1, 1, .ro, 0x0⟩, -- SUPPLY.VBAT_UV
  ⟨0x124, 1, 0, 2, 1, .ro, 0x0⟩, -- SUPPLY.VBAT_HIGH
  ⟨0x124, 1, 0, 3, 1, .ro, 0x0⟩, -- SUPPLY.VBAT_LONG
  ⟨0x124, 1, 0, 4, 1, .ro, 0x0⟩] -- SUPPLY.VM_UV

/-- The register fields of the PWR page, part 2 (R495). -/
def rowsPWR2 : List RegRow := [
  ⟨0x124, 1, 0, 5, 1, .ro, 0x0⟩, -- SUPPLY.VM_OV
  ⟨0x124, 1, 0, 6, 1, .ro, 0x0⟩, -- SUPPLY.TJ_WARN
  ⟨0x124, 1, 0, 7, 1, .ro, 0x0⟩, -- SUPPLY.TJ_LIM
  ⟨0x128, 1, 0, 0, 32, .ro, 0x0⟩, -- VBAT.V
  ⟨0x12C, 1, 0, 0, 32, .ro, 0x0⟩, -- VM.V
  ⟨0x130, 1, 0, 0, 32, .ro, 0x0⟩, -- TJ.DEGC
  ⟨0x134, 1, 0, 0, 8, .rws, 0x8C⟩] -- TJ_WARN.DEGC

/-- The register fields of the PWR page. -/
def rowsPWR : List RegRow := rowsPWR1 ++ rowsPWR2

/-- The register fields of the DIKE page, part 1 (R381, R500). -/
def rowsDIKE1 : List RegRow := [
  ⟨0x100, 1, 0, 0, 10, .rws, 0x32⟩, -- STALL_LIM.US
  ⟨0x104, 1, 0, 0, 16, .rw, 0x0⟩, -- HB.SEQ
  ⟨0x108, 1, 0, 0, 32, .ro, 0x0⟩, -- HB_AT_L.STAMP
  ⟨0x10C, 1, 0, 0, 32, .ro, 0x0⟩, -- HB_AT_H.STAMP
  ⟨0x110, 1, 0, 0, 32, .ro, 0x0⟩, -- SLUICE_L.CLOSED
  ⟨0x114, 1, 0, 0, 28, .ro, 0x0⟩, -- SLUICE_H.CLOSED
  ⟨0x118, 1, 0, 0, 8, .ro, 0x0⟩, -- STALL_LAST.POLDER
  ⟨0x118, 1, 0, 31, 1, .ro, 0x0⟩, -- STALL_LAST.VALID
  ⟨0x120, 1, 0, 0, 16, .wo, 0x0⟩, -- RST_CMD.KEY
  ⟨0x124, 1, 0, 0, 3, .ro, 0x1⟩, -- RST_REC.CAUSE
  ⟨0x124, 1, 0, 3, 1, .ro, 0x0⟩, -- RST_REC.HELD5
  ⟨0x124, 1, 0, 16, 16, .ro, 0x0⟩, -- RST_REC.COUNT
  ⟨0x128, 1, 0, 0, 32, .ro, 0x0⟩, -- RST_AT_L.STAMP
  ⟨0x12C, 1, 0, 0, 32, .ro, 0x0⟩, -- RST_AT_H.STAMP
  ⟨0x130, 1, 0, 0, 1, .rws, 0x0⟩, -- WD.AUTO_RST
  ⟨0x130, 1, 0, 8, 8, .rws, 0xA⟩, -- WD.RST_DLY
  ⟨0x134, 1, 0, 0, 3, .rws, 0x0⟩, -- APP_WD.EN
  ⟨0x134, 1, 0, 16, 16, .rws, 0xA⟩, -- APP_WD.MS
  ⟨0x138, 1, 0, 0, 32, .wo, 0x0⟩] -- APP_KICK.KICK

/-- The register fields of the DIKE page. -/
def rowsDIKE : List RegRow := rowsDIKE1

/-- The register fields of the SUP page, part 1 (R503). -/
def rowsSUP1 : List RegRow := [
  ⟨0x8, 1, 0, 0, 4, .ro, 0x0⟩, -- STAT.STATE
  ⟨0x8, 1, 0, 4, 2, .ro, 0x3⟩, -- STAT.MINORITY
  ⟨0x8, 1, 0, 6, 1, .ro, 0x0⟩, -- STAT.DEGRADED
  ⟨0x8, 1, 0, 7, 1, .ro, 0x0⟩, -- STAT.DBG_BROKE
  ⟨0x8, 1, 0, 8, 2, .ro, 0x3⟩, -- STAT.MODE
  ⟨0x8, 1, 0, 10, 1, .ro, 0x0⟩, -- STAT.RECOVERY
  ⟨0x100, 1, 0, 0, 1, .rws, 0x0⟩, -- DBG_POLICY.POLICY
  ⟨0x104, 1, 0, 0, 8, .rws, 0x14⟩, -- VOTE.LAG_LIM
  ⟨0x104, 1, 0, 8, 3, .rws, 0x3⟩, -- VOTE.RETRY_LIM
  ⟨0x108, 1, 0, 0, 2, .rw, 0x0⟩, -- CORE_SEL.CORE
  ⟨0x10C, 1, 0, 0, 4, .ro, 0x0⟩, -- POLDER.S0
  ⟨0x10C, 1, 0, 4, 4, .ro, 0x0⟩, -- POLDER.S1
  ⟨0x10C, 1, 0, 8, 4, .ro, 0x0⟩, -- POLDER.S2
  ⟨0x10C, 1, 0, 12, 4, .ro, 0x0⟩, -- POLDER.P0
  ⟨0x10C, 1, 0, 16, 4, .ro, 0x0⟩, -- POLDER.P1
  ⟨0x110, 1, 0, 0, 16, .rw, 0x0⟩, -- MINOR_CNT.COUNT
  ⟨0x114, 1, 0, 0, 32, .ro, 0x0⟩, -- RESYNC_AT_L.STAMP
  ⟨0x118, 1, 0, 0, 32, .ro, 0x0⟩, -- RESYNC_AT_H.STAMP
  ⟨0x11C, 1, 0, 0, 1, .wo, 0x0⟩, -- APP_REQ.DRAIN
  ⟨0x120, 1, 0, 0, 32, .ro, 0x0⟩, -- AGR_PIN0.GPIO
  ⟨0x124, 1, 0, 0, 1, .ro, 0x0⟩, -- AGR_PIN1.WAKE
  ⟨0x124, 1, 0, 1, 1, .ro, 0x0⟩, -- AGR_PIN1.COMPAT
  ⟨0x128, 1, 0, 0, 32, .w1c, 0x0⟩, -- AGR_DIFF0.GPIO
  ⟨0x12C, 1, 0, 0, 2, .w1c, 0x0⟩, -- AGR_DIFF1.PINS
  ⟨0x130, 1, 0, 0, 10, .ro, 0x0⟩, -- AGR_EVT.EVT
  ⟨0x134, 1, 0, 0, 10, .rw, 0x0⟩, -- IRQ_EN.EN
  ⟨0x138, 1, 0, 0, 3, .wo, 0x0⟩, -- APP_CTL.DRAIN
  ⟨0x138, 1, 0, 4, 3, .wo, 0x0⟩, -- APP_CTL.RELEASE
  ⟨0x13C, 1, 0, 0, 3, .ro, 0x0⟩] -- APP_PEND.PEND

/-- The register fields of the SUP page. -/
def rowsSUP : List RegRow := rowsSUP1

/-- The register fields of the TRL page, part 1 (R152). -/
def rowsTRL1 : List RegRow := [
  ⟨0x100, 1, 0, 0, 1, .rws, 0x1⟩, -- TCTL.BAL_EN
  ⟨0x100, 1, 0, 1, 3, .rws, 0x2⟩, -- TCTL.SUBST_MAX
  ⟨0x100, 1, 0, 8, 8, .rws, 0x4B⟩, -- TCTL.ENG_LIM
  ⟨0x100, 1, 0, 16, 8, .rws, 0x14⟩, -- TCTL.BAL_SPREAD
  ⟨0x104, 1, 0, 0, 16, .rws, 0x64⟩, -- BAL_TIME.HOLD
  ⟨0x104, 1, 0, 16, 16, .rws, 0x32⟩, -- BAL_TIME.INTERVAL
  ⟨0x108, 1, 0, 0, 16, .rws, 0x64⟩, -- GRAFT_TMO.MS
  ⟨0x10C, 1, 0, 0, 6, .wo, 0x0⟩, -- KICK.LOOP
  ⟨0x110, 1, 0, 0, 1, .ro, 0x1⟩, -- STAT.RESERVE_OK
  ⟨0x110, 1, 0, 1, 1, .ro, 0x1⟩, -- STAT.FALLBACK_OK
  ⟨0x110, 1, 0, 2, 1, .ro, 0x0⟩, -- STAT.BUSY
  ⟨0x110, 1, 0, 3, 1, .ro, 0x0⟩, -- STAT.GRAFT_PEND
  ⟨0x110, 1, 0, 4, 7, .ro, 0x0⟩, -- STAT.LOOPS
  ⟨0x110, 1, 0, 16, 5, .ro, 0x0⟩, -- STAT.ENGINES
  ⟨0x114, 1, 0, 0, 16, .ro, 0x0⟩, -- RESERVE.LOAD_A
  ⟨0x114, 1, 0, 16, 16, .ro, 0x0⟩, -- RESERVE.LIMIT
  ⟨0x118, 1, 0, 0, 6, .ro, 0x0⟩, -- PLACE_DIAG.LOOP
  ⟨0x118, 1, 0, 8, 3, .ro, 0x0⟩, -- PLACE_DIAG.ORDER
  ⟨0x118, 1, 0, 31, 1, .ro, 0x0⟩, -- PLACE_DIAG.VALID
  ⟨0x120, 1, 0, 0, 6, .rw, 0x0⟩, -- LOOP_SEL.LOOP
  ⟨0x124, 1, 0, 0, 4, .ro, 0x0⟩, -- LOOP_STAT.STATE
  ⟨0x124, 1, 0, 4, 4, .ro, 0x0⟩, -- LOOP_STAT.ENGINE
  ⟨0x124, 1, 0, 8, 4, .ro, 0x0⟩, -- LOOP_STAT.FALLBACK
  ⟨0x124, 1, 0, 12, 3, .ro, 0x0⟩, -- LOOP_STAT.MOVE
  ⟨0x124, 1, 0, 15, 1, .ro, 0x0⟩, -- LOOP_STAT.MISPL
  ⟨0x124, 1, 0, 16, 1, .ro, 0x0⟩, -- LOOP_STAT.FB_VALID
  ⟨0x128, 1, 0, 0, 16, .ro, 0x0⟩, -- LOOP_LOAD.OPS_PEAK
  ⟨0x128, 1, 0, 16, 16, .ro, 0x0⟩, -- LOOP_LOAD.OPS_AVG
  ⟨0x12C, 1, 0, 0, 24, .ro, 0x0⟩, -- LOOP_DELAY_LAST.DELAY
  ⟨0x12C, 1, 0, 31, 1, .ro, 0x0⟩] -- LOOP_DELAY_LAST.VALID

/-- The register fields of the TRL page, part 2 (R152). -/
def rowsTRL2 : List RegRow := [
  ⟨0x130, 1, 0, 0, 28, .ro, 0x0⟩, -- LOOP_DELAY_AVG.AVG
  ⟨0x130, 1, 0, 31, 1, .ro, 0x0⟩, -- LOOP_DELAY_AVG.VALID
  ⟨0x134, 1, 0, 0, 24, .ro, 0x0⟩, -- LOOP_DELAY_PEAK.PEAK
  ⟨0x134, 1, 0, 31, 1, .wo, 0x0⟩, -- LOOP_DELAY_PEAK.CLR
  ⟨0x138, 1, 0, 0, 16, .rw, 0x0⟩, -- LOOP_SKIP_CNT.COUNT
  ⟨0x13C, 1, 0, 0, 16, .rw, 0x0⟩, -- LOOP_MOVE_CNT.COUNT
  ⟨0x140, 1, 0, 0, 6, .wo, 0x0⟩, -- IMG_CMD.SLOT
  ⟨0x140, 1, 0, 8, 2, .wo, 0x0⟩, -- IMG_CMD.OP
  ⟨0x144, 1, 0, 0, 32, .rw, 0x0⟩, -- IMG_SRC.ADDR
  ⟨0x148, 1, 0, 0, 6, .ro, 0x0⟩, -- IMG_STAT.SLOT
  ⟨0x148, 1, 0, 8, 4, .ro, 0x0⟩, -- IMG_STAT.RESULT
  ⟨0x14C, 1, 0, 0, 3, .ro, 0x0⟩, -- GRAFT_STAT.STATE
  ⟨0x14C, 1, 0, 8, 4, .ro, 0x0⟩, -- GRAFT_STAT.CAUSE
  ⟨0x14C, 1, 0, 16, 6, .ro, 0x0⟩, -- GRAFT_STAT.LOOP
  ⟨0x150, 1, 0, 0, 32, .ro, 0x0⟩, -- IMG_VALID_L.SLOTS
  ⟨0x154, 1, 0, 0, 32, .ro, 0x0⟩] -- IMG_VALID_H.SLOTS

/-- The register fields of the TRL page. -/
def rowsTRL : List RegRow := rowsTRL1 ++ rowsTRL2

/-- The register fields of the TP page, part 1 (R501). -/
def rowsTP1 : List RegRow := [
  ⟨0x100, 1, 0, 0, 32, .ro, 0x0⟩, -- NOW_L.NOW
  ⟨0x104, 1, 0, 0, 32, .ro, 0x0⟩, -- NOW_H.NOW
  ⟨0x108, 1, 0, 0, 1, .ro, 0x0⟩, -- STAT.REF
  ⟨0x108, 1, 0, 1, 1, .ro, 0x0⟩, -- STAT.XTAL_OK
  ⟨0x108, 1, 0, 2, 1, .w1c, 0x0⟩, -- STAT.SLEEP_ADJ
  ⟨0x108, 1, 0, 3, 1, .ro, 0x0⟩, -- STAT.PLL_LOCK
  ⟨0x108, 1, 0, 4, 1, .ro, 0x0⟩, -- STAT.REF_FAIL
  ⟨0x10C, 1, 0, 0, 1, .rw, 0x0⟩, -- CTL.XTAL_RET
  ⟨0x110, 1, 0, 0, 32, .ro, 0x0⟩, -- XLOSS_AT_L.STAMP
  ⟨0x114, 1, 0, 0, 32, .ro, 0x0⟩, -- XLOSS_AT_H.STAMP
  ⟨0x118, 1, 0, 0, 16, .rw, 0x0⟩] -- XLOSS_CNT.COUNT

/-- The register fields of the TP page. -/
def rowsTP : List RegRow := rowsTP1

/-- The register fields of the MEM page, part 1 (R349, R502). -/
def rowsMEM1 : List RegRow := [
  ⟨0x100, 1, 0, 0, 1, .rws, 0x1⟩, -- SCRUB.EN
  ⟨0x100, 1, 0, 1, 1, .rws, 0x1⟩, -- SCRUB.MEN
  ⟨0x100, 1, 0, 8, 8, .rws, 0x4⟩, -- SCRUB.STEP
  ⟨0x100, 1, 0, 16, 16, .rws, 0x64⟩, -- SCRUB.MSTEP
  ⟨0x104, 1, 0, 0, 16, .rw, 0x0⟩, -- REP_CNT.COUNT
  ⟨0x108, 1, 0, 0, 16, .rw, 0x0⟩, -- UNREP_CNT.COUNT
  ⟨0x10C, 1, 0, 5, 27, .ro, 0x0⟩, -- LAST_ADDR.LINE
  ⟨0x110, 1, 0, 0, 5, .ro, 0x0⟩, -- LAST_INFO.TABLE
  ⟨0x110, 1, 0, 5, 3, .ro, 0x0⟩, -- LAST_INFO.FOUND
  ⟨0x110, 1, 0, 8, 4, .ro, 0x0⟩, -- LAST_INFO.OUTCOME
  ⟨0x110, 1, 0, 12, 6, .ro, 0x0⟩, -- LAST_INFO.LOOP
  ⟨0x110, 1, 0, 31, 1, .ro, 0x0⟩, -- LAST_INFO.VALID
  ⟨0x114, 1, 0, 0, 32, .ro, 0x0⟩, -- LAST_AT_L.STAMP
  ⟨0x118, 1, 0, 0, 32, .ro, 0x0⟩, -- LAST_AT_H.STAMP
  ⟨0x11C, 1, 0, 0, 28, .ro, 0x0⟩, -- REMAP_FULL.TABLE
  ⟨0x120, 1, 0, 0, 1, .ro, 0x0⟩, -- MRAM_STAT.ACTIVE
  ⟨0x120, 1, 0, 1, 1, .ro, 0x0⟩, -- MRAM_STAT.UPD
  ⟨0x124, 1, 0, 0, 1, .wo, 0x0⟩, -- MRAM_CMD.UPD_OPEN
  ⟨0x124, 1, 0, 1, 1, .wo, 0x0⟩, -- MRAM_CMD.UPD_CLOSE
  ⟨0x128, 1, 0, 0, 16, .rw, 0x0⟩, -- MRAM_CORR.COUNT
  ⟨0x12C, 1, 0, 0, 4, .rw, 0x0⟩] -- BANK_SEL.BANK

/-- The register fields of the MEM page. -/
def rowsMEM : List RegRow := rowsMEM1

/-- The register fields of the FLT page, part 1 (R380). -/
def rowsFLT1 : List RegRow := [
  ⟨0x100, 1, 0, 0, 1, .w1c, 0x0⟩, -- SUM.C
  ⟨0x100, 1, 0, 1, 1, .w1c, 0x0⟩, -- SUM.U
  ⟨0x100, 1, 0, 2, 1, .w1c, 0x0⟩, -- SUM.F
  ⟨0x104, 1, 0, 0, 2, .ro, 0x0⟩, -- STAT.RED
  ⟨0x104, 1, 0, 2, 1, .ro, 0x0⟩, -- STAT.LATCHED
  ⟨0x108, 1, 0, 0, 16, .rws, 0x1F4⟩, -- QUIET.MS
  ⟨0x10C, 1, 0, 0, 8, .ro, 0x0⟩, -- RECOV_CNT.COUNT
  ⟨0x110, 1, 0, 0, 8, .rws, 0x8⟩, -- RECOV_LIM.LIMIT
  ⟨0x114, 1, 0, 0, 2, .rws, 0x1⟩, -- PIN_CLASS.CLASS
  ⟨0x118, 1, 0, 0, 14, .rws, 0x64⟩, -- PIN_MINW.W
  ⟨0x11C, 1, 0, 0, 1, .rw, 0x0⟩, -- PIN_SW.LEVEL
  ⟨0x11C, 1, 0, 1, 1, .ro, 0x0⟩, -- PIN_SW.ACTIVE
  ⟨0x120, 1, 0, 0, 8, .rws, 0x64⟩, -- RED_TQ.PCT
  ⟨0x124, 1, 0, 0, 8, .ro, 0x0⟩, -- LOG_HEAD.IDX
  ⟨0x128, 1, 0, 0, 32, .ro, 0x0⟩, -- LOG_SEQ.SEQ
  ⟨0x12C, 1, 0, 0, 16, .rw, 0x0⟩, -- LOST.COUNT
  ⟨0x130, 1, 0, 0, 4, .wo, 0x0⟩, -- INJ_CMD.KIND
  ⟨0x130, 1, 0, 8, 8, .wo, 0x0⟩, -- INJ_CMD.PAGE
  ⟨0x130, 1, 0, 16, 16, .wo, 0x0⟩, -- INJ_CMD.ARG
  ⟨0x134, 1, 0, 0, 32, .rw, 0x0⟩, -- INJ_ADDR.ADDR
  ⟨0x138, 1, 0, 0, 1, .ro, 0x0⟩, -- INJ_STAT.ARMED
  ⟨0x138, 1, 0, 1, 3, .ro, 0x0⟩] -- INJ_STAT.RESULT

/-- The register fields of the FLT page. -/
def rowsFLT : List RegRow := rowsFLT1

/-- The register fields of the SAF page, part 1 (R332). -/
def rowsSAF1 : List RegRow := [
  ⟨0x100, 1, 0, 0, 1, .ro, 0x1⟩, -- STO_STAT.HS_OPEN
  ⟨0x100, 1, 0, 1, 1, .ro, 0x1⟩, -- STO_STAT.LS_OPEN
  ⟨0x100, 1, 0, 2, 1, .ro, 0x1⟩, -- STO_STAT.IHS_OPEN
  ⟨0x100, 1, 0, 3, 1, .ro, 0x1⟩, -- STO_STAT.ILS_OPEN
  ⟨0x100, 1, 0, 4, 2, .ro, 0x0⟩, -- STO_STAT.BAND
  ⟨0x100, 1, 0, 6, 1, .ro, 0x1⟩, -- STO_STAT.OPEN
  ⟨0x100, 1, 0, 7, 1, .ro, 0x0⟩, -- STO_STAT.TEST_ACT
  ⟨0x100, 1, 0, 8, 3, .ro, 0x0⟩, -- STO_STAT.TEST_SW
  ⟨0x100, 1, 0, 16, 3, .ro, 0x0⟩, -- STO_STAT.CAUSE
  ⟨0x104, 1, 0, 0, 1, .wo, 0x0⟩, -- STO_CMD.OPEN
  ⟨0x104, 1, 0, 1, 1, .wo, 0x0⟩, -- STO_CMD.CLOSE
  ⟨0x108, 1, 0, 0, 10, .rws, 0x96⟩, -- STO_TP.WIDTH
  ⟨0x108, 1, 0, 10, 6, .rws, 0x10⟩, -- STO_TP.INTERVAL
  ⟨0x108, 1, 0, 16, 16, .rws, 0x190⟩, -- STO_TP.RIDE
  ⟨0x10C, 1, 0, 0, 8, .rws, 0x32⟩, -- STO_CHK.SETTLE
  ⟨0x110, 1, 0, 0, 32, .ro, 0x0⟩, -- STO_AT_L.STAMP
  ⟨0x114, 1, 0, 0, 32, .ro, 0x0⟩, -- STO_AT_H.STAMP
  ⟨0x118, 1, 0, 0, 16, .rw, 0x0⟩, -- TP_CNT.COUNT
  ⟨0x120, 1, 0, 0, 2, .rw, 0x0⟩, -- SS_CMD.DEMAND
  ⟨0x124, 1, 0, 0, 3, .ro, 0x0⟩, -- SS_STAT.RESULT0
  ⟨0x124, 1, 0, 4, 3, .ro, 0x0⟩, -- SS_STAT.RESULT1
  ⟨0x130, 2, 16, 0, 16, .rws, 0xBB8⟩, -- SS_DEC.DEC
  ⟨0x130, 2, 16, 16, 16, .rws, 0x12C⟩, -- SS_DEC.TOL
  ⟨0x134, 2, 16, 0, 16, .rws, 0x1F40⟩, -- SS_TIME.TMAX
  ⟨0x134, 2, 16, 16, 16, .rws, 0x1E⟩, -- SS_TIME.STILL
  ⟨0x138, 2, 16, 0, 16, .rws, 0x4650⟩, -- SS_NMAX.NMAX
  ⟨0x13C, 2, 16, 0, 32, .ro, 0x0⟩, -- SS_LIMIT.RPM
  ⟨0x150, 1, 0, 0, 12, .rws, 0x555⟩, -- PLAUS_REACT.REACT
  ⟨0x154, 1, 0, 0, 16, .rws, 0x32⟩] -- HOOK.LIM

/-- The register fields of the SAF page. -/
def rowsSAF : List RegRow := rowsSAF1

/-- The register fields of the SEC page, part 1 (R477). -/
def rowsSEC1 : List RegRow := [
  ⟨0x100, 1, 0, 0, 4, .wo, 0x0⟩, -- CMD.OP
  ⟨0x100, 1, 0, 8, 3, .wo, 0x0⟩, -- CMD.CLASS
  ⟨0x100, 1, 0, 16, 7, .wo, 0x0⟩, -- CMD.VALUE
  ⟨0x104, 1, 0, 0, 4, .ro, 0x0⟩, -- STAT.RESULT
  ⟨0x104, 1, 0, 4, 1, .ro, 0x0⟩, -- STAT.BUSY
  ⟨0x108, 1, 0, 0, 3, .ro, 0x2⟩, -- LC.STATE
  ⟨0x108, 1, 0, 3, 3, .ro, 0x2⟩, -- LC.PEND
  ⟨0x10C, 1, 0, 0, 3, .ro, 0x7⟩, -- ROOT.PROG
  ⟨0x10C, 1, 0, 3, 3, .ro, 0x0⟩, -- ROOT.REVOKED
  ⟨0x110, 5, 4, 0, 7, .ro, 0x0⟩, -- ARB.VALUE
  ⟨0x124, 1, 0, 0, 21, .ro, 0x100000⟩, -- LMS_REMAIN.COUNT
  ⟨0x128, 1, 0, 0, 16, .rws, 0x3E8⟩, -- ATT_GAP.MS
  ⟨0x12C, 1, 0, 0, 2, .ro, 0x0⟩, -- UPD_STAT.RESULT
  ⟨0x12C, 1, 0, 8, 3, .ro, 0x0⟩, -- UPD_STAT.CLASS
  ⟨0x130, 1, 0, 0, 32, .ro, 0x0⟩, -- DEV_ID_L.ID
  ⟨0x134, 1, 0, 0, 32, .ro, 0x0⟩] -- DEV_ID_H.ID

/-- The register fields of the SEC page. -/
def rowsSEC : List RegRow := rowsSEC1

/-- The register fields of the DBG page, part 1 (R478). -/
def rowsDBG1 : List RegRow := [
  ⟨0x100, 1, 0, 0, 2, .rw, 0x0⟩, -- LEVEL.LEVEL
  ⟨0x104, 1, 0, 0, 1, .ro, 0x0⟩, -- STAT.BUSY
  ⟨0x104, 1, 0, 1, 5, .ro, 0x0⟩, -- STAT.SESS
  ⟨0x104, 1, 0, 6, 1, .ro, 0x0⟩, -- STAT.LE
  ⟨0x104, 1, 0, 7, 1, .ro, 0x0⟩, -- STAT.TEST
  ⟨0x104, 1, 0, 8, 2, .ro, 0x0⟩, -- STAT.FAILS
  ⟨0x104, 1, 0, 10, 1, .ro, 0x0⟩, -- STAT.LOCKOUT
  ⟨0x104, 1, 0, 11, 1, .ro, 0x0⟩, -- STAT.FORCED
  ⟨0x110, 4, 4, 0, 32, .ro, 0x0⟩] -- CHAL.CHAL

/-- The register fields of the DBG page. -/
def rowsDBG : List RegRow := rowsDBG1

/-- The register fields of the HIF page, part 1 (R506). -/
def rowsHIF1 : List RegRow := [
  ⟨0x100, 1, 0, 10, 22, .rw, 0x340000⟩, -- INT_MASK.MASK
  ⟨0x104, 1, 0, 0, 3, .ro, 0x0⟩, -- LAST_ERR.CAUSE
  ⟨0x104, 1, 0, 8, 8, .ro, 0x0⟩, -- LAST_ERR.EDGES
  ⟨0x108, 1, 0, 0, 16, .rw, 0x0⟩, -- ERR_CNT.COUNT
  ⟨0x10C, 1, 0, 0, 16, .rw, 0x0⟩, -- DEFER_DROP.COUNT
  ⟨0x110, 1, 0, 0, 1, .ro, 0x0⟩, -- DEFER_STAT.ERR
  ⟨0x110, 1, 0, 1, 3, .ro, 0x0⟩, -- DEFER_STAT.CAUSE
  ⟨0x110, 1, 0, 12, 20, .ro, 0x0⟩] -- DEFER_STAT.ADDR

/-- The register fields of the HIF page. -/
def rowsHIF : List RegRow := rowsHIF1

/-- The register fields of the TDAC page, part 1 (R305). -/
def rowsTDAC1 : List RegRow := [
  ⟨0x100, 1, 0, 0, 1, .rws, 0x1⟩, -- CFG.AUTO_EN
  ⟨0x100, 1, 0, 1, 1, .rws, 0x0⟩, -- CFG.AUTO_OPEN
  ⟨0x100, 1, 0, 8, 4, .rws, 0x3⟩, -- CFG.FAIL_N
  ⟨0x100, 1, 0, 16, 8, .rws, 0x10⟩, -- CFG.CONV_TOL
  ⟨0x100, 1, 0, 24, 8, .rws, 0x20⟩, -- CFG.OPEN_LIM
  ⟨0x104, 1, 0, 0, 16, .rws, 0x64⟩, -- RATE.US
  ⟨0x108, 1, 0, 0, 8, .wo, 0x0⟩, -- REQ.POS
  ⟨0x108, 1, 0, 8, 1, .wo, 0x0⟩, -- REQ.TYPE
  ⟨0x10C, 1, 0, 0, 14, .ro, 0x0⟩, -- RES.CODE
  ⟨0x10C, 1, 0, 14, 2, .ro, 0x0⟩, -- RES.RESULT
  ⟨0x10C, 1, 0, 16, 8, .ro, 0x0⟩, -- RES.POS
  ⟨0x10C, 1, 0, 24, 1, .ro, 0x0⟩, -- RES.TYPE
  ⟨0x10C, 1, 0, 31, 1, .ro, 0x0⟩, -- RES.VALID
  ⟨0x110, 1, 0, 0, 16, .rw, 0x0⟩] -- FAIL_CNT.COUNT

/-- The register fields of the TDAC page. -/
def rowsTDAC : List RegRow := rowsTDAC1

/-- The register fields of the SD page, part 1 (R302). -/
def rowsSD1 : List RegRow := [
  ⟨0x100, 1, 0, 0, 1, .rws, 0x0⟩, -- CLK.CLK0_EN
  ⟨0x100, 1, 0, 1, 1, .rws, 0x0⟩, -- CLK.CLK1_EN
  ⟨0x104, 12, 4, 0, 1, .rws, 0x0⟩, -- CFG.EN
  ⟨0x104, 12, 4, 1, 1, .rws, 0x0⟩, -- CFG.CLK
  ⟨0x104, 12, 4, 2, 9, .rws, 0x40⟩, -- CFG.OSR
  ⟨0x104, 12, 4, 11, 1, .rws, 0x0⟩, -- CFG.SYNC
  ⟨0x104, 12, 4, 12, 4, .rws, 0x0⟩, -- CFG.STAGE
  ⟨0x104, 12, 4, 16, 2, .rws, 0x1⟩, -- CFG.OSR_F
  ⟨0x104, 12, 4, 18, 1, .rws, 0x0⟩, -- CFG.OC_EN
  ⟨0x140, 12, 4, 0, 15, .rws, 0x6000⟩, -- OC.TRIP
  ⟨0x140, 12, 4, 16, 15, .rws, 0x7000⟩, -- OC.HARD
  ⟨0x170, 12, 4, 0, 15, .rws, 0x5000⟩, -- WARN.WARN
  ⟨0x1A0, 12, 4, 0, 23, .rws, 0x0⟩, -- LEGS.LEGS
  ⟨0x1D0, 12, 8, 0, 32, .rws, 0x3F800000⟩, -- GAIN.GAIN
  ⟨0x1D4, 12, 8, 0, 32, .rws, 0x0⟩, -- OFFS.OFFSET
  ⟨0x240, 1, 0, 0, 12, .ro, 0x0⟩, -- STUCK.CH
  ⟨0x244, 1, 0, 0, 12, .w1c, 0x0⟩, -- OC_HIT.CH
  ⟨0x248, 1, 0, 0, 12, .ro, 0x0⟩, -- WARN_ACT.CH
  ⟨0x24C, 1, 0, 0, 32, .ro, 0x0⟩, -- OC_AT_L.STAMP
  ⟨0x250, 1, 0, 0, 32, .ro, 0x0⟩] -- OC_AT_H.STAMP

/-- The register fields of the SD page. -/
def rowsSD : List RegRow := rowsSD1

/-- The register fields of the ENC page, part 1 (R304). -/
def rowsENC1 : List RegRow := [
  ⟨0x100, 1, 0, 0, 1, .rws, 0x0⟩, -- CFG.EN
  ⟨0x100, 1, 0, 1, 1, .rws, 0x0⟩, -- CFG.INV
  ⟨0x100, 1, 0, 2, 1, .rws, 0x1⟩, -- CFG.Z_EN
  ⟨0x100, 1, 0, 8, 8, .rws, 0x4⟩, -- CFG.FILT
  ⟨0x104, 1, 0, 0, 16, .rws, 0x400⟩, -- LINES.LINES
  ⟨0x108, 1, 0, 0, 16, .rws, 0x64⟩, -- SPD.WIN
  ⟨0x108, 1, 0, 16, 16, .rws, 0x32⟩, -- SPD.ZERO_MS
  ⟨0x10C, 1, 0, 0, 32, .rws, 0x0⟩, -- OFFSET.RAD
  ⟨0x140, 1, 0, 0, 1, .ro, 0x0⟩, -- ESTAT.INDEX_SEEN
  ⟨0x140, 1, 0, 1, 1, .ro, 0x0⟩, -- ESTAT.INVALID
  ⟨0x140, 1, 0, 2, 1, .ro, 0x0⟩, -- ESTAT.DIR
  ⟨0x144, 1, 0, 0, 32, .ro, 0x0⟩, -- COUNT.COUNT
  ⟨0x148, 1, 0, 0, 32, .ro, 0x0⟩, -- IDX_CNT.COUNT
  ⟨0x14C, 1, 0, 0, 16, .rw, 0x0⟩] -- INV_CNT.COUNT

/-- The register fields of the ENC page. -/
def rowsENC : List RegRow := rowsENC1

/-- The register fields of the LE page, part 1 (R57, R114, R523). -/
def rowsLE1 : List RegRow := [
  ⟨0x100, 1, 0, 0, 16, .ro, 0x0⟩, -- RATE.MOPS
  ⟨0x100, 1, 0, 16, 1, .ro, 0x0⟩, -- RATE.PROBE
  ⟨0x100, 1, 0, 31, 1, .ro, 0x0⟩, -- RATE.VALID
  ⟨0x104, 1, 0, 0, 16, .ro, 0x0⟩, -- LOAD.LOAD
  ⟨0x104, 1, 0, 16, 8, .ro, 0x0⟩, -- LOAD.FRAC
  ⟨0x108, 1, 0, 0, 4, .ro, 0x0⟩, -- OCC.LOOPS
  ⟨0x108, 1, 0, 4, 4, .ro, 0x0⟩, -- OCC.CLASS_A
  ⟨0x108, 1, 0, 8, 5, .ro, 0x0⟩, -- OCC.FALLBACK
  ⟨0x108, 1, 0, 22, 10, .ro, 0x200⟩, -- OCC.FREE
  ⟨0x10C, 1, 0, 0, 32, .ro, 0x0⟩, -- RUNS.COUNT
  ⟨0x140, 1, 0, 0, 6, .rw, 0x0⟩, -- DELAY_SEL.LOOP
  ⟨0x144, 1, 0, 0, 24, .ro, 0x0⟩, -- DELAY_LAST.DELAY
  ⟨0x144, 1, 0, 31, 1, .ro, 0x0⟩, -- DELAY_LAST.VALID
  ⟨0x148, 1, 0, 0, 28, .ro, 0x0⟩, -- DELAY_AVG.AVG
  ⟨0x148, 1, 0, 31, 1, .ro, 0x0⟩, -- DELAY_AVG.VALID
  ⟨0x14C, 1, 0, 0, 24, .ro, 0x0⟩, -- DELAY_PEAK.PEAK
  ⟨0x14C, 1, 0, 31, 1, .wo, 0x0⟩, -- DELAY_PEAK.CLR
  ⟨0x150, 1, 0, 0, 16, .rw, 0x0⟩, -- OVR_CNT.COUNT
  ⟨0x154, 1, 0, 0, 6, .ro, 0x0⟩, -- OVR_LAST.LOOP
  ⟨0x154, 1, 0, 31, 1, .ro, 0x0⟩, -- OVR_LAST.VALID
  ⟨0x158, 1, 0, 0, 6, .ro, 0x0⟩, -- EXC.LOOP
  ⟨0x158, 1, 0, 8, 1, .ro, 0x0⟩, -- EXC.NV
  ⟨0x158, 1, 0, 9, 1, .ro, 0x0⟩, -- EXC.DZ
  ⟨0x158, 1, 0, 10, 1, .ro, 0x0⟩, -- EXC.OF
  ⟨0x158, 1, 0, 11, 1, .ro, 0x0⟩, -- EXC.REJ
  ⟨0x158, 1, 0, 31, 1, .ro, 0x0⟩, -- EXC.VALID
  ⟨0x15C, 1, 0, 0, 16, .rw, 0x0⟩, -- EXC_CNT.COUNT
  ⟨0x160, 1, 0, 0, 16, .rw, 0x0⟩, -- BUDGET_CNT.COUNT
  ⟨0x164, 1, 0, 0, 16, .rw, 0x0⟩, -- DEADLINE_CNT.COUNT
  ⟨0x168, 1, 0, 0, 6, .ro, 0x0⟩] -- ABORT_LAST.LOOP

/-- The register fields of the LE page, part 2 (R114, R524). -/
def rowsLE2 : List RegRow := [
  ⟨0x168, 1, 0, 8, 8, .ro, 0x0⟩, -- ABORT_LAST.CODE
  ⟨0x168, 1, 0, 31, 1, .ro, 0x0⟩, -- ABORT_LAST.VALID
  ⟨0x700, 8, 16, 0, 6, .ro, 0x0⟩, -- W_LOOP.ID
  ⟨0x700, 8, 16, 8, 2, .ro, 0x0⟩, -- W_LOOP.CLASS
  ⟨0x700, 8, 16, 10, 1, .ro, 0x0⟩, -- W_LOOP.MOVING
  ⟨0x700, 8, 16, 31, 1, .ro, 0x0⟩, -- W_LOOP.VALID
  ⟨0x704, 8, 16, 0, 17, .ro, 0x0⟩, -- W_IMG.OFFS
  ⟨0x708, 8, 16, 0, 17, .ro, 0x0⟩, -- W_STATE.OFFS
  ⟨0x70C, 8, 16, 0, 16, .ro, 0x0⟩, -- W_SIZES.STATE
  ⟨0x70C, 8, 16, 16, 13, .ro, 0x0⟩, -- W_SIZES.WORDS
  ⟨0x780, 16, 8, 0, 6, .ro, 0x0⟩, -- W_FB.ID
  ⟨0x780, 16, 8, 31, 1, .ro, 0x0⟩, -- W_FB.VALID
  ⟨0x784, 16, 8, 0, 17, .ro, 0x0⟩] -- W_FB_OFFS.OFFS

/-- The register fields of the LE page. -/
def rowsLE : List RegRow := rowsLE1 ++ rowsLE2

/-- The register fields of the XH page, part 1 (R268, R528). -/
def rowsXH1 : List RegRow := [
  ⟨0x100, 1, 0, 0, 1, .rws, 0x1⟩, -- CFG.FLT_EN
  ⟨0x100, 1, 0, 4, 4, .rws, 0x4⟩, -- CFG.FLT_FILT
  ⟨0x104, 1, 0, 0, 12, .rws, 0x64⟩, -- DT.NS
  ⟨0x108, 1, 0, 0, 4, .rws, 0x0⟩, -- OWN.STAGE
  ⟨0x140, 1, 0, 0, 2, .ro, 0x0⟩, -- CH_STAT.LEG
  ⟨0x140, 1, 0, 2, 1, .ro, 0x0⟩, -- CH_STAT.FLT_PIN
  ⟨0x140, 1, 0, 8, 3, .ro, 0x0⟩, -- CH_STAT.PROT
  ⟨0x140, 1, 0, 11, 1, .ro, 0x0⟩, -- CH_STAT.LATCH
  ⟨0x148, 1, 0, 0, 32, .ro, 0x0⟩, -- PROT_AT_L.STAMP
  ⟨0x14C, 1, 0, 0, 32, .ro, 0x0⟩] -- PROT_AT_H.STAMP

/-- The register fields of the XH page. -/
def rowsXH : List RegRow := rowsXH1

/-- The register fields of the IH page, part 1 (R267, R528). -/
def rowsIH1 : List RegRow := [
  ⟨0x100, 1, 0, 0, 1, .rws, 0x1⟩, -- CFG.REF_EN
  ⟨0x100, 1, 0, 1, 1, .rws, 0x1⟩, -- CFG.VDS_EN
  ⟨0x100, 1, 0, 2, 2, .rws, 0x0⟩, -- CFG.SRC
  ⟨0x100, 1, 0, 8, 4, .rws, 0x3⟩, -- CFG.SRC_STEP
  ⟨0x100, 1, 0, 12, 4, .rws, 0x5⟩, -- CFG.SINK_STEP
  ⟨0x100, 1, 0, 16, 4, .rws, 0x0⟩, -- CFG.SOFT_STEP
  ⟨0x104, 1, 0, 0, 12, .rws, 0x96⟩, -- DT.NS
  ⟨0x108, 1, 0, 0, 4, .rws, 0x7⟩, -- VDS.TRIP
  ⟨0x108, 1, 0, 8, 7, .rws, 0xA⟩, -- VDS.BLANK
  ⟨0x10C, 1, 0, 0, 16, .rws, 0x64⟩, -- BOOT.REF_INT
  ⟨0x110, 1, 0, 0, 4, .rws, 0x0⟩, -- OWN.STAGE
  ⟨0x140, 1, 0, 0, 2, .ro, 0x0⟩, -- CH_STAT.LEG
  ⟨0x140, 1, 0, 2, 1, .ro, 0x0⟩, -- CH_STAT.BST_LOW
  ⟨0x140, 1, 0, 3, 1, .ro, 0x0⟩, -- CH_STAT.HS_SUPP
  ⟨0x140, 1, 0, 4, 1, .ro, 0x0⟩, -- CH_STAT.PINS
  ⟨0x140, 1, 0, 5, 1, .ro, 0x0⟩, -- CH_STAT.PIN_PLS
  ⟨0x140, 1, 0, 6, 1, .ro, 0x0⟩, -- CH_STAT.PIN_EN
  ⟨0x140, 1, 0, 7, 1, .ro, 0x1⟩, -- CH_STAT.VCP_OK
  ⟨0x140, 1, 0, 8, 3, .ro, 0x0⟩, -- CH_STAT.PROT
  ⟨0x140, 1, 0, 11, 1, .ro, 0x0⟩, -- CH_STAT.LATCH
  ⟨0x144, 1, 0, 0, 16, .rw, 0x0⟩, -- REF_CNT.COUNT
  ⟨0x148, 1, 0, 0, 32, .ro, 0x0⟩, -- PROT_AT_L.STAMP
  ⟨0x14C, 1, 0, 0, 32, .ro, 0x0⟩] -- PROT_AT_H.STAMP

/-- The register fields of the IH page. -/
def rowsIH : List RegRow := rowsIH1

/-- The register fields of the registers common to the channel pages (R522, R532), part 1 (R522, R532). -/
def rowsCHAN1 : List RegRow := [
  ⟨0x8, 1, 0, 4, 4, .ro, 0x0⟩, -- STAT.OWNER
  ⟨0x150, 1, 0, 0, 1, .ro, 0x0⟩, -- GUARD.ARMED
  ⟨0x150, 1, 0, 1, 3, .ro, 0x0⟩, -- GUARD.SUBST
  ⟨0x150, 1, 0, 4, 1, .ro, 0x0⟩, -- GUARD.TAKEN
  ⟨0x150, 1, 0, 8, 24, .ro, 0x0⟩, -- GUARD.H
  ⟨0x154, 1, 0, 0, 21, .ro, 0x0⟩, -- COMPARE.EU
  ⟨0x158, 1, 0, 0, 21, .ro, 0x0⟩, -- PHASE.EU
  ⟨0x15C, 1, 0, 0, 32, .ro, 0x0⟩, -- APPLY_AT_L.STAMP
  ⟨0x160, 1, 0, 0, 32, .ro, 0x0⟩, -- APPLY_AT_H.STAMP
  ⟨0x164, 1, 0, 0, 6, .ro, 0x0⟩, -- WRITER.LOOP
  ⟨0x164, 1, 0, 31, 1, .ro, 0x0⟩] -- WRITER.VALID

/-- The register fields of the registers common to the channel pages (R522, R532). -/
def rowsCHAN : List RegRow := rowsCHAN1

/-- The register fields of SG0 and SG1, part 1 (R187). -/
def rowsSGT1 : List RegRow := [
  ⟨0x8, 1, 0, 0, 4, .ro, 0x0⟩, -- STAT.STATE
  ⟨0x8, 1, 0, 4, 3, .ro, 0x0⟩, -- STAT.MODE
  ⟨0x8, 1, 0, 7, 1, .ro, 0x0⟩, -- STAT.SS_PHASE
  ⟨0x8, 1, 0, 8, 4, .ro, 0x0⟩, -- STAT.REFUSE
  ⟨0x8, 1, 0, 12, 1, .ro, 0x0⟩, -- STAT.REV_PEND
  ⟨0x8, 1, 0, 13, 1, .ro, 0x0⟩, -- STAT.OFF_PEND
  ⟨0x8, 1, 0, 14, 1, .ro, 0x0⟩, -- STAT.REACT
  ⟨0x8, 1, 0, 15, 1, .ro, 0x0⟩, -- STAT.POS_LOST
  ⟨0x8, 1, 0, 16, 2, .ro, 0x1⟩, -- STAT.LEGS_A
  ⟨0x8, 1, 0, 18, 2, .ro, 0x1⟩, -- STAT.LEGS_B
  ⟨0x8, 1, 0, 20, 2, .ro, 0x3⟩, -- STAT.POS_SEL
  ⟨0x8, 1, 0, 22, 1, .ro, 0x0⟩, -- STAT.XCHK_SINGLE
  ⟨0x8, 1, 0, 23, 1, .ro, 0x0⟩, -- STAT.RECON_A
  ⟨0x8, 1, 0, 24, 1, .ro, 0x0⟩, -- STAT.RECON_B
  ⟨0x100, 1, 0, 0, 3, .rws, 0x0⟩, -- MODE_REQ.MODE
  ⟨0x100, 1, 0, 3, 1, .rws, 0x0⟩, -- MODE_REQ.DIR
  ⟨0x100, 1, 0, 4, 1, .rws, 0x0⟩, -- MODE_REQ.CTRL
  ⟨0x104, 1, 0, 0, 1, .rws, 0x0⟩, -- TCFG.UPDATE
  ⟨0x104, 1, 0, 1, 1, .rws, 0x1⟩, -- TCFG.SET_SHIFT
  ⟨0x104, 1, 0, 2, 1, .rws, 0x0⟩, -- TCFG.B_CARRIER
  ⟨0x104, 1, 0, 3, 1, .rws, 0x0⟩, -- TCFG.ASC_SIDE
  ⟨0x104, 1, 0, 4, 1, .rws, 0x1⟩, -- TCFG.OFF_ASC
  ⟨0x104, 1, 0, 5, 2, .rws, 0x0⟩, -- TCFG.MEAS_A
  ⟨0x104, 1, 0, 7, 2, .rws, 0x0⟩, -- TCFG.MEAS_B
  ⟨0x104, 1, 0, 9, 2, .rws, 0x0⟩, -- TCFG.POS_PRI
  ⟨0x104, 1, 0, 11, 1, .rws, 0x0⟩, -- TCFG.RD_SEL
  ⟨0x104, 1, 0, 12, 4, .rws, 0x4⟩, -- TCFG.POLES
  ⟨0x104, 1, 0, 16, 1, .rws, 0x0⟩, -- TCFG.ENC_EN
  ⟨0x104, 1, 0, 17, 1, .rws, 0x1⟩, -- TCFG.RD_EN
  ⟨0x104, 1, 0, 18, 1, .rws, 0x1⟩] -- TCFG.OBS_EN

/-- The register fields of SG0 and SG1, part 2 (R187). -/
def rowsSGT2 : List RegRow := [
  ⟨0x108, 1, 0, 0, 21, .rws, 0x9C400⟩, -- PERIOD.PERIOD
  ⟨0x10C, 1, 0, 0, 21, .rws, 0x0⟩, -- SAMP.OFFSET
  ⟨0x110, 1, 0, 0, 12, .rws, 0x1F4⟩, -- SETTLE.NS
  ⟨0x114, 1, 0, 0, 7, .rws, 0x7F⟩, -- IPH_A.PH_A
  ⟨0x114, 1, 0, 8, 7, .rws, 0x7F⟩, -- IPH_A.PH_B
  ⟨0x114, 1, 0, 16, 7, .rws, 0x7F⟩, -- IPH_A.PH_C
  ⟨0x118, 1, 0, 0, 7, .rws, 0x7F⟩, -- IPH_B.PH_A
  ⟨0x118, 1, 0, 8, 7, .rws, 0x7F⟩, -- IPH_B.PH_B
  ⟨0x118, 1, 0, 16, 7, .rws, 0x7F⟩, -- IPH_B.PH_C
  ⟨0x11C, 1, 0, 0, 7, .rws, 0x7F⟩, -- VT_A.PH_A
  ⟨0x11C, 1, 0, 8, 7, .rws, 0x7F⟩, -- VT_A.PH_B
  ⟨0x11C, 1, 0, 16, 7, .rws, 0x7F⟩, -- VT_A.PH_C
  ⟨0x120, 1, 0, 0, 7, .rws, 0x7F⟩, -- VT_B.PH_A
  ⟨0x120, 1, 0, 8, 7, .rws, 0x7F⟩, -- VT_B.PH_B
  ⟨0x120, 1, 0, 16, 7, .rws, 0x7F⟩, -- VT_B.PH_C
  ⟨0x124, 1, 0, 0, 7, .rws, 0x7F⟩, -- UDC_SRC.AIN
  ⟨0x128, 1, 0, 0, 16, .rws, 0x1E⟩, -- SPD_LIM.CATCH_MIN
  ⟨0x128, 1, 0, 16, 16, .rws, 0x4650⟩, -- SPD_LIM.CATCH_MAX
  ⟨0x12C, 1, 0, 0, 16, .rws, 0x32⟩, -- REV.REV_SPD
  ⟨0x12C, 1, 0, 16, 16, .rws, 0x1E⟩, -- REV.STILL
  ⟨0x130, 1, 0, 0, 16, .rws, 0x12C⟩, -- OBS_SPD.OBS_MIN
  ⟨0x134, 1, 0, 0, 16, .rws, 0x0⟩, -- ASC_SPD.RPM
  ⟨0x138, 1, 0, 0, 32, .rws, 0x0⟩, -- KE.KE
  ⟨0x13C, 1, 0, 0, 32, .rws, 0x44480000⟩, -- UDC_NOM.V
  ⟨0x140, 1, 0, 0, 32, .rws, 0x0⟩, -- TQ_MAX.NM
  ⟨0x144, 1, 0, 0, 32, .rws, 0x0⟩, -- TQ_RATED.NM
  ⟨0x148, 1, 0, 0, 32, .rws, 0x0⟩, -- I_RATED.A
  ⟨0x14C, 1, 0, 0, 32, .rws, 0x0⟩, -- FW_ITRIP.A
  ⟨0x150, 1, 0, 0, 8, .rws, 0xA⟩, -- PLAUS.SUM_TRIP
  ⟨0x150, 1, 0, 8, 8, .rws, 0x1E⟩] -- PLAUS.VEC_TRIP

/-- The register fields of SG0 and SG1, part 3 (R187). -/
def rowsSGT3 : List RegRow := [
  ⟨0x150, 1, 0, 16, 8, .rws, 0xA⟩, -- PLAUS.PLAUS_MIN
  ⟨0x150, 1, 0, 24, 4, .rws, 0x3⟩, -- PLAUS.SUM_N
  ⟨0x150, 1, 0, 28, 4, .rws, 0x4⟩, -- PLAUS.VEC_N
  ⟨0x154, 1, 0, 0, 8, .rws, 0xA⟩, -- POSCHK.XCHK_ANG
  ⟨0x154, 1, 0, 8, 8, .rws, 0x9A⟩, -- POSCHK.OBS_CONF_MIN
  ⟨0x154, 1, 0, 16, 4, .rws, 0x4⟩, -- POSCHK.OBS_N
  ⟨0x154, 1, 0, 20, 4, .rws, 0x4⟩, -- POSCHK.XCHK_N
  ⟨0x158, 1, 0, 0, 5, .rws, 0xA⟩, -- TIMES.LOSS_RAMP
  ⟨0x158, 1, 0, 8, 8, .rws, 0x2⟩, -- TIMES.TQ_STALE
  ⟨0x158, 1, 0, 16, 16, .rws, 0x1E⟩, -- TIMES.REACT_TMAX
  ⟨0x15C, 1, 0, 0, 8, .rws, 0x5⟩, -- CATCH.ITOL
  ⟨0x15C, 1, 0, 8, 4, .rws, 0x8⟩, -- CATCH.SYNC_N
  ⟨0x180, 1, 0, 0, 32, .ro, 0x0⟩, -- SPEED.RPM
  ⟨0x184, 1, 0, 0, 32, .ro, 0x0⟩, -- TQ_EFF.NM
  ⟨0x188, 1, 0, 0, 32, .ro, 0x0⟩, -- N_ASC.RPM
  ⟨0x18C, 1, 0, 0, 3, .ro, 0x0⟩, -- ISO.CAUSE_A
  ⟨0x18C, 1, 0, 4, 3, .ro, 0x0⟩, -- ISO.CAUSE_B
  ⟨0x18C, 1, 0, 8, 3, .ro, 0x0⟩, -- ISO.PHASE_A
  ⟨0x18C, 1, 0, 12, 3, .ro, 0x0⟩, -- ISO.PHASE_B
  ⟨0x18C, 1, 0, 16, 2, .ro, 0x0⟩, -- ISO.RPH_A
  ⟨0x18C, 1, 0, 18, 2, .ro, 0x0⟩, -- ISO.RPH_B
  ⟨0x190, 1, 0, 0, 16, .rw, 0x0⟩] -- SKIP_CNT.COUNT

/-- The register fields of SG0 and SG1. -/
def rowsSGT : List RegRow := rowsSGT1 ++ rowsSGT2 ++ rowsSGT3

/-- The register fields of SG2 to SG5, part 1 (R229). -/
def rowsSGC1 : List RegRow := [
  ⟨0x8, 1, 0, 0, 4, .ro, 0x0⟩, -- STAT.STATE
  ⟨0x8, 1, 0, 4, 3, .ro, 0x0⟩, -- STAT.MODE
  ⟨0x8, 1, 0, 8, 4, .ro, 0x0⟩, -- STAT.REFUSE
  ⟨0x8, 1, 0, 12, 1, .ro, 0x0⟩, -- STAT.OFF_PEND
  ⟨0x8, 1, 0, 13, 1, .ro, 0x0⟩, -- STAT.EVSE_STOP
  ⟨0x8, 1, 0, 14, 1, .ro, 0x0⟩, -- STAT.GRID_OK
  ⟨0x8, 1, 0, 15, 1, .ro, 0x0⟩, -- STAT.S2
  ⟨0x8, 1, 0, 16, 2, .ro, 0x1⟩, -- STAT.LEGS
  ⟨0x8, 1, 0, 18, 1, .ro, 0x0⟩, -- STAT.CB_LATCH
  ⟨0x8, 1, 0, 19, 1, .ro, 0x0⟩, -- STAT.TRIM_SAT
  ⟨0x100, 1, 0, 0, 3, .rws, 0x0⟩, -- MODE_REQ.MODE
  ⟨0x100, 1, 0, 3, 1, .rws, 0x0⟩, -- MODE_REQ.FAST
  ⟨0x104, 1, 0, 0, 1, .rws, 0x0⟩, -- CCFG.BIDIR
  ⟨0x104, 1, 0, 1, 1, .rws, 0x0⟩, -- CCFG.LV_BUS
  ⟨0x104, 1, 0, 2, 1, .rws, 0x1⟩, -- CCFG.PREBIAS
  ⟨0x104, 1, 0, 3, 1, .rws, 0x1⟩, -- CCFG.BAL_EN
  ⟨0x104, 1, 0, 4, 1, .rws, 0x0⟩, -- CCFG.HLC_EN
  ⟨0x104, 1, 0, 5, 1, .rws, 0x0⟩, -- CCFG.VENT_OK
  ⟨0x108, 1, 0, 0, 21, .rws, 0x9C400⟩, -- PERIOD.PERIOD
  ⟨0x10C, 1, 0, 0, 21, .rws, 0x0⟩, -- SAMP.OFFSET
  ⟨0x110, 1, 0, 0, 32, .rws, 0x0⟩, -- REF_TGT.VALUE
  ⟨0x114, 1, 0, 0, 32, .rws, 0x0⟩, -- RAMP_UP.RATE
  ⟨0x118, 1, 0, 0, 32, .rws, 0x0⟩, -- RAMP_DN.RATE
  ⟨0x11C, 1, 0, 0, 16, .rws, 0x0⟩, -- DLY.START
  ⟨0x11C, 1, 0, 16, 16, .rws, 0x0⟩, -- DLY.STOP
  ⟨0x120, 1, 0, 0, 32, .rws, 0x0⟩, -- STOP_LVL.VALUE
  ⟨0x124, 1, 0, 0, 32, .rws, 0x0⟩, -- VIN_MIN.V
  ⟨0x128, 1, 0, 0, 32, .rws, 0x0⟩, -- VIN_MAX.V
  ⟨0x12C, 1, 0, 0, 32, .rws, 0x0⟩, -- OUT_OV.V
  ⟨0x130, 1, 0, 0, 7, .rws, 0x7F⟩] -- SRC.VIN

/-- The register fields of SG2 to SG5, part 2 (R229). -/
def rowsSGC2 : List RegRow := [
  ⟨0x130, 1, 0, 8, 7, .rws, 0x7F⟩, -- SRC.VOUT
  ⟨0x130, 1, 0, 16, 7, .rws, 0x7F⟩, -- SRC.IOUT
  ⟨0x134, 1, 0, 0, 7, .rws, 0x7F⟩, -- IPH.PH0
  ⟨0x134, 1, 0, 8, 7, .rws, 0x7F⟩, -- IPH.PH1
  ⟨0x134, 1, 0, 16, 7, .rws, 0x7F⟩, -- IPH.PH2
  ⟨0x134, 1, 0, 24, 7, .rws, 0x7F⟩, -- IPH.PH3
  ⟨0x138, 1, 0, 0, 7, .rws, 0x7F⟩, -- VG.VA
  ⟨0x138, 1, 0, 8, 7, .rws, 0x7F⟩, -- VG.VB
  ⟨0x138, 1, 0, 16, 7, .rws, 0x7F⟩, -- VG.VC
  ⟨0x13C, 1, 0, 0, 10, .rws, 0x32⟩, -- STALE.US
  ⟨0x140, 1, 0, 0, 32, .rws, 0x3E800000⟩, -- PHI_MAX.FRAC
  ⟨0x144, 1, 0, 0, 8, .rws, 0x2D⟩, -- GRID.FMIN
  ⟨0x144, 1, 0, 8, 8, .rws, 0x41⟩, -- GRID.FMAX
  ⟨0x144, 1, 0, 16, 4, .rws, 0x8⟩, -- GRID.LOCK_N
  ⟨0x148, 1, 0, 0, 32, .rws, 0x43380000⟩, -- GRID_VMIN.V
  ⟨0x14C, 1, 0, 0, 32, .rws, 0x43840000⟩, -- GRID_VMAX.V
  ⟨0x150, 1, 0, 0, 32, .rws, 0x42000000⟩, -- CHG_LIM.A
  ⟨0x154, 1, 0, 0, 32, .rws, 0x41200000⟩, -- I_RISE.A_S
  ⟨0x158, 1, 0, 0, 32, .rws, 0x0⟩, -- BAL_K.K
  ⟨0x15C, 1, 0, 0, 32, .rws, 0x0⟩, -- BAL_MIN.A
  ⟨0x160, 1, 0, 0, 32, .rws, 0x0⟩, -- CROWBAR.V
  ⟨0x164, 1, 0, 0, 32, .rws, 0x40A00000⟩, -- CB_DIV.RATIO
  ⟨0x168, 1, 0, 0, 1, .wo, 0x0⟩, -- CB.CLR
  ⟨0x180, 1, 0, 0, 32, .ro, 0x0⟩, -- REF_EFF.VALUE
  ⟨0x184, 1, 0, 0, 32, .ro, 0x0⟩, -- I_LIM.A
  ⟨0x188, 1, 0, 0, 32, .ro, 0x0⟩, -- GRID_F.HZ
  ⟨0x18C, 1, 0, 0, 8, .ro, 0x0⟩, -- TRIM.T0
  ⟨0x18C, 1, 0, 8, 8, .ro, 0x0⟩, -- TRIM.T1
  ⟨0x18C, 1, 0, 16, 8, .ro, 0x0⟩, -- TRIM.T2
  ⟨0x18C, 1, 0, 24, 8, .ro, 0x0⟩] -- TRIM.T3

/-- The register fields of SG2 to SG5, part 3 (R229). -/
def rowsSGC3 : List RegRow := [
  ⟨0x190, 1, 0, 0, 4, .ro, 0x0⟩] -- TRIP.CAUSE

/-- The register fields of SG2 to SG5. -/
def rowsSGC : List RegRow := rowsSGC1 ++ rowsSGC2 ++ rowsSGC3

/-- The register fields of SG6 to SG9, part 1 (R248). -/
def rowsSGA1 : List RegRow := [
  ⟨0x8, 1, 0, 0, 4, .ro, 0x0⟩, -- STAT.STATE
  ⟨0x8, 1, 0, 4, 3, .ro, 0x0⟩, -- STAT.MODE
  ⟨0x8, 1, 0, 8, 4, .ro, 0x0⟩, -- STAT.REFUSE
  ⟨0x8, 1, 0, 12, 1, .ro, 0x0⟩, -- STAT.REV_PEND
  ⟨0x8, 1, 0, 13, 1, .ro, 0x0⟩, -- STAT.HOLD_PEND
  ⟨0x8, 1, 0, 14, 1, .ro, 0x0⟩, -- STAT.CURVE_ON
  ⟨0x8, 1, 0, 15, 1, .ro, 0x0⟩, -- STAT.FAILSAFE
  ⟨0x8, 1, 0, 16, 2, .ro, 0x1⟩, -- STAT.LEGS
  ⟨0x100, 1, 0, 0, 3, .rws, 0x0⟩, -- MODE_REQ.MODE
  ⟨0x100, 1, 0, 3, 1, .rws, 0x0⟩, -- MODE_REQ.FAST
  ⟨0x104, 1, 0, 0, 1, .rws, 0x0⟩, -- ACFG.TGT_SRC
  ⟨0x104, 1, 0, 1, 1, .rws, 0x0⟩, -- ACFG.CDIR
  ⟨0x104, 1, 0, 2, 2, .rws, 0x0⟩, -- ACFG.CSRC
  ⟨0x108, 1, 0, 0, 21, .rws, 0x9C400⟩, -- PERIOD.PERIOD
  ⟨0x10C, 1, 0, 0, 21, .rws, 0x0⟩, -- SAMP.OFFSET
  ⟨0x110, 1, 0, 0, 7, .rws, 0x7F⟩, -- IPH.PH_A
  ⟨0x110, 1, 0, 8, 7, .rws, 0x7F⟩, -- IPH.PH_B
  ⟨0x110, 1, 0, 16, 7, .rws, 0x7F⟩, -- IPH.PH_C
  ⟨0x114, 1, 0, 0, 32, .rws, 0x0⟩, -- SPD_TGT.RPM
  ⟨0x118, 1, 0, 0, 32, .rws, 0x0⟩, -- ACC.RATE
  ⟨0x11C, 1, 0, 0, 32, .rws, 0x0⟩, -- DEC.RATE
  ⟨0x120, 1, 0, 0, 16, .rws, 0x32⟩, -- REV.REV_SPD
  ⟨0x120, 1, 0, 16, 16, .rws, 0x14⟩, -- REV.HOLD_SPD
  ⟨0x124, 1, 0, 0, 8, .rws, 0x6⟩, -- VM_WIN.VM_MIN
  ⟨0x124, 1, 0, 8, 8, .rws, 0x3C⟩, -- VM_WIN.VM_MAX
  ⟨0x124, 1, 0, 16, 16, .rws, 0x3E8⟩, -- VM_WIN.STOP_TMO
  ⟨0x128, 1, 0, 0, 32, .rws, 0x0⟩, -- I_MAX.A
  ⟨0x12C, 1, 0, 0, 5, .rws, 0x2⟩, -- CURVE.NPTS
  ⟨0x12C, 1, 0, 8, 7, .rws, 0x7F⟩, -- CURVE.AIN
  ⟨0x12C, 1, 0, 16, 10, .rws, 0x0⟩] -- CURVE.SLOT

/-- The register fields of SG6 to SG9, part 2 (R248). -/
def rowsSGA2 : List RegRow := [
  ⟨0x130, 1, 0, 0, 16, .rws, 0x64⟩, -- CURVE_T.PERIOD
  ⟨0x130, 1, 0, 16, 16, .rws, 0x3E8⟩, -- CURVE_T.AGE_MAX
  ⟨0x134, 1, 0, 0, 32, .rws, 0x0⟩, -- X_ON.X
  ⟨0x138, 1, 0, 0, 32, .rws, 0x0⟩, -- X_OFF.X
  ⟨0x13C, 1, 0, 0, 32, .rws, 0x0⟩, -- FAIL_SPD.RPM
  ⟨0x140, 16, 4, 0, 32, .rws, 0x0⟩, -- CURVE_X.X
  ⟨0x180, 16, 4, 0, 32, .rws, 0x0⟩, -- CURVE_Y.RPM
  ⟨0x1C0, 1, 0, 0, 32, .ro, 0x7FC00000⟩, -- SPEED.RPM
  ⟨0x1C4, 1, 0, 0, 32, .ro, 0x0⟩, -- SPD_EFF.RPM
  ⟨0x1C8, 1, 0, 0, 32, .ro, 0x0⟩, -- CURVE_IN.X
  ⟨0x1CC, 1, 0, 0, 4, .ro, 0x0⟩] -- TRIP.CAUSE

/-- The register fields of SG6 to SG9. -/
def rowsSGA : List RegRow := rowsSGA1 ++ rowsSGA2

/-- The register fields of the signal view of the stage pages (R527), part 1 (R527). -/
def rowsSGW1 : List RegRow := [
  ⟨0x700, 16, 4, 0, 32, .ro, 0x0⟩, -- IN.VALUE
  ⟨0x740, 16, 4, 0, 32, .ro, 0x0⟩, -- CMD.VALUE
  ⟨0x780, 1, 0, 0, 32, .ro, 0x0⟩, -- IN_AT_L.STAMP
  ⟨0x784, 1, 0, 0, 32, .ro, 0x0⟩, -- IN_AT_H.STAMP
  ⟨0x788, 1, 0, 0, 32, .ro, 0x0⟩, -- CMD_AT_L.STAMP
  ⟨0x78C, 1, 0, 0, 32, .ro, 0x0⟩] -- CMD_AT_H.STAMP

/-- The register fields of the signal view of the stage pages (R527). -/
def rowsSGW : List RegRow := rowsSGW1

/-- The register fields of the SA page, part 1 (R300). -/
def rowsSA1 : List RegRow := [
  ⟨0x100, 1, 0, 0, 8, .rws, 0x16⟩, -- CFG.ACQ
  ⟨0x100, 1, 0, 8, 1, .rws, 0x1⟩, -- CFG.PD_EN
  ⟨0x100, 1, 0, 12, 4, .rws, 0x4⟩, -- CFG.PRED_MAX
  ⟨0x100, 1, 0, 16, 8, .rws, 0x0⟩, -- CFG.CAL_AUTO
  ⟨0x104, 1, 0, 0, 1, .wo, 0x0⟩, -- CAL_CMD.REQ
  ⟨0x108, 1, 0, 0, 2, .ro, 0x0⟩, -- CAL_STAT.RESULT
  ⟨0x108, 1, 0, 2, 1, .ro, 0x0⟩, -- CAL_STAT.BUSY
  ⟨0x108, 1, 0, 3, 1, .ro, 0x0⟩, -- CAL_STAT.WAIT
  ⟨0x10C, 1, 0, 0, 7, .wo, 0x0⟩, -- INJ_REQ.AIN
  ⟨0x110, 1, 0, 0, 14, .ro, 0x0⟩, -- INJ_RES.CODE
  ⟨0x110, 1, 0, 14, 7, .ro, 0x0⟩, -- INJ_RES.AIN
  ⟨0x110, 1, 0, 31, 1, .ro, 0x0⟩, -- INJ_RES.VALID
  ⟨0x114, 1, 0, 0, 32, .ro, 0x0⟩, -- INJ_VAL.VALUE
  ⟨0x118, 1, 0, 0, 32, .ro, 0x0⟩, -- INJ_AT_L.STAMP
  ⟨0x11C, 1, 0, 0, 32, .ro, 0x0⟩, -- INJ_AT_H.STAMP
  ⟨0x120, 1, 0, 0, 16, .rw, 0x0⟩, -- INJ_DROP.COUNT
  ⟨0x124, 1, 0, 0, 8, .wo, 0x0⟩, -- SEQ_SW.SEQ
  ⟨0x128, 1, 0, 0, 16, .rw, 0x0⟩, -- SKIP_CNT.COUNT
  ⟨0x12C, 1, 0, 0, 16, .rw, 0x0⟩, -- SEQ_OVR.COUNT
  ⟨0x130, 1, 0, 0, 1, .ro, 0x0⟩, -- RUN.AWAKE
  ⟨0x130, 1, 0, 1, 1, .ro, 0x0⟩, -- RUN.HOSTED
  ⟨0x130, 1, 0, 2, 1, .ro, 0x0⟩, -- RUN.HOSTING
  ⟨0x130, 1, 0, 3, 1, .ro, 0x0⟩, -- RUN.INJ_PEND
  ⟨0x134, 1, 0, 0, 32, .ro, 0x0⟩, -- POS_FAIL.POS
  ⟨0x138, 1, 0, 0, 16, .ro, 0x0⟩] -- IN_FAIL.IN

/-- The register fields of the SA page. -/
def rowsSA : List RegRow := rowsSA1

/-- The register fields of the RD page, part 1 (R303). -/
def rowsRD1 : List RegRow := [
  ⟨0x100, 1, 0, 0, 1, .rws, 0x0⟩, -- CFG.EN
  ⟨0x100, 1, 0, 8, 8, .rws, 0x80⟩, -- CFG.AMP
  ⟨0x104, 1, 0, 0, 15, .rws, 0x2710⟩, -- EXC.HZ
  ⟨0x108, 1, 0, 0, 12, .rws, 0x190⟩, -- TRK.BW
  ⟨0x108, 1, 0, 16, 8, .rws, 0x32⟩, -- TRK.TRK_LIM
  ⟨0x10C, 1, 0, 0, 8, .rws, 0x14⟩, -- LOS.AMP_MIN
  ⟨0x10C, 1, 0, 8, 8, .rws, 0x5F⟩, -- LOS.AMP_MAX
  ⟨0x110, 1, 0, 0, 32, .rws, 0x0⟩, -- OFFSET.RAD
  ⟨0x140, 1, 0, 0, 1, .ro, 0x0⟩, -- HEALTH.LOS
  ⟨0x140, 1, 0, 1, 1, .ro, 0x0⟩, -- HEALTH.LOT
  ⟨0x140, 1, 0, 2, 1, .ro, 0x0⟩, -- HEALTH.LOCKED
  ⟨0x144, 1, 0, 0, 16, .ro, 0x0⟩, -- ANGLE.ANGLE
  ⟨0x148, 1, 0, 0, 32, .ro, 0x0⟩, -- SPEED.RAD_S
  ⟨0x14C, 1, 0, 0, 16, .ro, 0x0⟩, -- PHASE.TICKS
  ⟨0x150, 1, 0, 0, 32, .ro, 0x0⟩] -- AMP.A

/-- The register fields of the RD page. -/
def rowsRD : List RegRow := rowsRD1

/-- The register fields of the CAN page, part 1 (R507, R508). -/
def rowsCAN1 : List RegRow := [
  ⟨0x100, 1, 0, 0, 1, .rws, 0x0⟩, -- CFG.FD_EN
  ⟨0x100, 1, 0, 1, 1, .rws, 0x0⟩, -- CFG.XL_EN
  ⟨0x100, 1, 0, 2, 1, .rws, 0x0⟩, -- CFG.LOM
  ⟨0x100, 1, 0, 3, 1, .rws, 0x0⟩, -- CFG.ROM
  ⟨0x100, 1, 0, 4, 1, .rws, 0x1⟩, -- CFG.BO_AUTO
  ⟨0x100, 1, 0, 5, 1, .wo, 0x0⟩, -- CFG.BO_REC
  ⟨0x100, 1, 0, 6, 1, .rws, 0x1⟩, -- CFG.TDC_EN
  ⟨0x100, 1, 0, 7, 1, .rws, 0x1⟩, -- CFG.ACC_ALL
  ⟨0x108, 1, 0, 0, 8, .rws, 0x1⟩, -- NBT.BRP
  ⟨0x108, 1, 0, 8, 8, .rws, 0x3F⟩, -- NBT.TSEG1
  ⟨0x108, 1, 0, 16, 7, .rws, 0xE⟩, -- NBT.TSEG2
  ⟨0x108, 1, 0, 23, 7, .rws, 0xE⟩, -- NBT.SJW
  ⟨0x10C, 1, 0, 0, 8, .rws, 0x0⟩, -- DBT.BRP
  ⟨0x10C, 1, 0, 8, 8, .rws, 0x1D⟩, -- DBT.TSEG1
  ⟨0x10C, 1, 0, 16, 7, .rws, 0x8⟩, -- DBT.TSEG2
  ⟨0x10C, 1, 0, 23, 7, .rws, 0x8⟩, -- DBT.SJW
  ⟨0x110, 1, 0, 0, 8, .rws, 0x0⟩, -- XBT.BRP
  ⟨0x110, 1, 0, 8, 8, .rws, 0x4⟩, -- XBT.TSEG1
  ⟨0x110, 1, 0, 16, 7, .rws, 0x1⟩, -- XBT.TSEG2
  ⟨0x110, 1, 0, 23, 7, .rws, 0x1⟩, -- XBT.SJW
  ⟨0x114, 1, 0, 0, 8, .rws, 0x1F⟩, -- TDC.OFFSET
  ⟨0x114, 1, 0, 16, 8, .ro, 0x0⟩, -- TDC.MEAS
  ⟨0x118, 1, 0, 0, 1, .rws, 0x0⟩, -- XL.TMS
  ⟨0x118, 1, 0, 6, 6, .rws, 0x2⟩, -- XL.PWMS
  ⟨0x118, 1, 0, 12, 6, .rws, 0x6⟩, -- XL.PWML
  ⟨0x118, 1, 0, 18, 6, .rws, 0x0⟩, -- XL.PWMO
  ⟨0x120, 1, 0, 5, 27, .rws, 0x0⟩, -- TX_BASE.ADDR
  ⟨0x124, 1, 0, 0, 16, .rws, 0x0⟩, -- TX_SIZE.ENTRIES
  ⟨0x124, 1, 0, 16, 8, .rws, 0x0⟩, -- TX_SIZE.UNITS
  ⟨0x128, 1, 0, 0, 10, .rw, 0x0⟩] -- TX_HEAD.IDX

/-- The register fields of the CAN page, part 2 (R507, R508). -/
def rowsCAN2 : List RegRow := [
  ⟨0x12C, 1, 0, 0, 10, .ro, 0x0⟩, -- TX_TAIL.IDX
  ⟨0x130, 1, 0, 5, 27, .rws, 0x0⟩, -- RX0_BASE.ADDR
  ⟨0x134, 1, 0, 0, 16, .rws, 0x0⟩, -- RX0_SIZE.ENTRIES
  ⟨0x134, 1, 0, 16, 8, .rws, 0x0⟩, -- RX0_SIZE.UNITS
  ⟨0x138, 1, 0, 0, 10, .ro, 0x0⟩, -- RX0_HEAD.IDX
  ⟨0x13C, 1, 0, 0, 10, .rw, 0x0⟩, -- RX0_TAIL.IDX
  ⟨0x140, 1, 0, 5, 27, .rws, 0x0⟩, -- RX1_BASE.ADDR
  ⟨0x144, 1, 0, 0, 16, .rws, 0x0⟩, -- RX1_SIZE.ENTRIES
  ⟨0x144, 1, 0, 16, 8, .rws, 0x0⟩, -- RX1_SIZE.UNITS
  ⟨0x148, 1, 0, 0, 10, .ro, 0x0⟩, -- RX1_HEAD.IDX
  ⟨0x14C, 1, 0, 0, 10, .rw, 0x0⟩, -- RX1_TAIL.IDX
  ⟨0x150, 1, 0, 0, 8, .ro, 0x0⟩, -- ERR.TEC
  ⟨0x150, 1, 0, 8, 8, .ro, 0x0⟩, -- ERR.REC
  ⟨0x150, 1, 0, 16, 2, .ro, 0x0⟩, -- ERR.STATE
  ⟨0x154, 1, 0, 0, 16, .rw, 0x0⟩, -- OVR0_CNT.COUNT
  ⟨0x158, 1, 0, 0, 16, .rw, 0x0⟩] -- OVR1_CNT.COUNT

/-- The register fields of the CAN page. -/
def rowsCAN : List RegRow := rowsCAN1 ++ rowsCAN2

/-- The register fields of the ETH page, part 1 (R507, R511). -/
def rowsETH1 : List RegRow := [
  ⟨0x100, 1, 0, 0, 1, .rws, 0x1⟩, -- CFG.PLCA_EN
  ⟨0x100, 1, 0, 1, 1, .rws, 0x0⟩, -- CFG.PROMISC
  ⟨0x100, 1, 0, 2, 1, .rws, 0x0⟩, -- CFG.RX_EN
  ⟨0x100, 1, 0, 3, 1, .rws, 0x0⟩, -- CFG.TX_EN
  ⟨0x100, 1, 0, 8, 8, .rws, 0xF⟩, -- CFG.MDC_DIV
  ⟨0x104, 1, 0, 0, 32, .rws, 0x0⟩, -- MAC_L.MAC
  ⟨0x108, 1, 0, 0, 16, .rws, 0x0⟩, -- MAC_H.MAC
  ⟨0x10C, 1, 0, 0, 8, .rws, 0x0⟩, -- PLCA.NODE_ID
  ⟨0x10C, 1, 0, 8, 8, .rws, 0x8⟩, -- PLCA.NODE_CNT
  ⟨0x10C, 1, 0, 16, 8, .rws, 0x20⟩, -- PLCA.TO_TMR
  ⟨0x10C, 1, 0, 24, 8, .rws, 0x0⟩, -- PLCA.BURST
  ⟨0x110, 1, 0, 5, 27, .rws, 0x0⟩, -- TX0_BASE.ADDR
  ⟨0x114, 1, 0, 0, 16, .rws, 0x0⟩, -- TX0_SIZE.ENTRIES
  ⟨0x114, 1, 0, 16, 8, .rws, 0x0⟩, -- TX0_SIZE.UNITS
  ⟨0x118, 1, 0, 0, 10, .rw, 0x0⟩, -- TX0_HEAD.IDX
  ⟨0x11C, 1, 0, 0, 10, .ro, 0x0⟩, -- TX0_TAIL.IDX
  ⟨0x120, 1, 0, 5, 27, .rws, 0x0⟩, -- TX1_BASE.ADDR
  ⟨0x124, 1, 0, 0, 16, .rws, 0x0⟩, -- TX1_SIZE.ENTRIES
  ⟨0x124, 1, 0, 16, 8, .rws, 0x0⟩, -- TX1_SIZE.UNITS
  ⟨0x128, 1, 0, 0, 10, .rw, 0x0⟩, -- TX1_HEAD.IDX
  ⟨0x12C, 1, 0, 0, 10, .ro, 0x0⟩, -- TX1_TAIL.IDX
  ⟨0x130, 1, 0, 5, 27, .rws, 0x0⟩, -- RX_BASE.ADDR
  ⟨0x134, 1, 0, 0, 16, .rws, 0x0⟩, -- RX_SIZE.ENTRIES
  ⟨0x134, 1, 0, 16, 8, .rws, 0x0⟩, -- RX_SIZE.UNITS
  ⟨0x138, 1, 0, 0, 10, .ro, 0x0⟩, -- RX_HEAD.IDX
  ⟨0x13C, 1, 0, 0, 10, .rw, 0x0⟩, -- RX_TAIL.IDX
  ⟨0x140, 1, 0, 0, 1, .ro, 0x0⟩, -- ESTAT.LINK
  ⟨0x140, 1, 0, 1, 1, .ro, 0x0⟩, -- ESTAT.PLCA
  ⟨0x140, 1, 0, 2, 2, .ro, 0x0⟩, -- ESTAT.SPEED
  ⟨0x144, 1, 0, 0, 16, .rw, 0x0⟩] -- DROP_CNT.COUNT

/-- The register fields of the ETH page, part 2 (R511). -/
def rowsETH2 : List RegRow := [
  ⟨0x148, 1, 0, 0, 5, .wo, 0x0⟩, -- MDIO_CMD.PHY
  ⟨0x148, 1, 0, 5, 5, .wo, 0x0⟩, -- MDIO_CMD.REG
  ⟨0x148, 1, 0, 10, 1, .wo, 0x0⟩, -- MDIO_CMD.C45
  ⟨0x148, 1, 0, 11, 2, .wo, 0x0⟩, -- MDIO_CMD.OP
  ⟨0x148, 1, 0, 16, 16, .wo, 0x0⟩, -- MDIO_CMD.DATA
  ⟨0x14C, 1, 0, 0, 16, .ro, 0x0⟩, -- MDIO_STAT.DATA
  ⟨0x14C, 1, 0, 16, 1, .ro, 0x0⟩] -- MDIO_STAT.BUSY

/-- The register fields of the ETH page. -/
def rowsETH : List RegRow := rowsETH1 ++ rowsETH2

/-- The register fields of the SENT page, part 1 (R513). -/
def rowsSENT1 : List RegRow := [
  ⟨0x100, 4, 4, 0, 1, .rws, 0x0⟩, -- CFG.EN
  ⟨0x100, 4, 4, 1, 11, .rws, 0x3C⟩, -- CFG.TICK
  ⟨0x100, 4, 4, 12, 3, .rws, 0x6⟩, -- CFG.NIB
  ⟨0x100, 4, 4, 15, 1, .rws, 0x0⟩, -- CFG.PAUSE
  ⟨0x100, 4, 4, 16, 1, .rws, 0x0⟩, -- CFG.CRC
  ⟨0x100, 4, 4, 17, 2, .rws, 0x0⟩, -- CFG.SLOW
  ⟨0x100, 4, 4, 19, 1, .rws, 0x0⟩, -- CFG.SLOT_EN
  ⟨0x100, 4, 4, 20, 10, .rws, 0x0⟩, -- CFG.SLOT
  ⟨0x110, 4, 4, 0, 16, .rws, 0xA⟩, -- TMO.MS
  ⟨0x120, 4, 4, 0, 24, .ro, 0x0⟩, -- FAST.DATA
  ⟨0x120, 4, 4, 24, 4, .ro, 0x0⟩, -- FAST.STATUS
  ⟨0x120, 4, 4, 31, 1, .ro, 0x0⟩, -- FAST.VALID
  ⟨0x130, 4, 8, 0, 32, .ro, 0x0⟩, -- AT_L.STAMP
  ⟨0x134, 4, 8, 0, 32, .ro, 0x0⟩, -- AT_H.STAMP
  ⟨0x150, 4, 4, 0, 16, .ro, 0x0⟩, -- SLOW.DATA
  ⟨0x150, 4, 4, 16, 8, .ro, 0x0⟩, -- SLOW.ID
  ⟨0x150, 4, 4, 24, 1, .ro, 0x0⟩, -- SLOW.VALID
  ⟨0x160, 4, 4, 0, 16, .rw, 0x0⟩, -- ERR_CNT.COUNT
  ⟨0x170, 4, 4, 0, 32, .ro, 0x0⟩] -- TICK.US

/-- The register fields of the SENT page. -/
def rowsSENT : List RegRow := rowsSENT1

/-- The register fields of the PSI page, part 1 (R514). -/
def rowsPSI1 : List RegRow := [
  ⟨0x100, 2, 4, 0, 1, .rws, 0x0⟩, -- CFG.EN
  ⟨0x100, 2, 4, 1, 10, .rws, 0x1F4⟩, -- CFG.PERIOD
  ⟨0x110, 8, 4, 0, 1, .rws, 0x0⟩, -- SLOT.EN
  ⟨0x110, 8, 4, 1, 1, .rws, 0x0⟩, -- SLOT.RATE
  ⟨0x110, 8, 4, 2, 5, .rws, 0xA⟩, -- SLOT.BITS
  ⟨0x110, 8, 4, 7, 1, .rws, 0x0⟩, -- SLOT.CHK
  ⟨0x110, 8, 4, 8, 10, .rws, 0x0⟩, -- SLOT.OFFSET
  ⟨0x110, 8, 4, 18, 1, .rws, 0x0⟩, -- SLOT.SLOT_EN
  ⟨0x110, 8, 4, 19, 10, .rws, 0x0⟩, -- SLOT.SLOT
  ⟨0x130, 1, 0, 0, 4, .rws, 0x3⟩, -- MISS_N.N
  ⟨0x140, 8, 4, 0, 28, .ro, 0x0⟩, -- DATA.DATA
  ⟨0x140, 8, 4, 31, 1, .ro, 0x0⟩, -- DATA.VALID
  ⟨0x180, 8, 8, 0, 32, .ro, 0x0⟩, -- AT_L.STAMP
  ⟨0x184, 8, 8, 0, 32, .ro, 0x0⟩, -- AT_H.STAMP
  ⟨0x1C0, 2, 4, 0, 16, .rw, 0x0⟩] -- ERR_CNT.COUNT

/-- The register fields of the PSI page. -/
def rowsPSI : List RegRow := rowsPSI1

/-- The register fields of the CHG page, part 1 (R515). -/
def rowsCHG1 : List RegRow := [
  ⟨0x100, 1, 0, 0, 32, .rws, 0x3FD33333⟩, -- CP_OFS.V
  ⟨0x104, 1, 0, 0, 32, .rws, 0x3DCCCCCD⟩, -- CP_GAIN.K
  ⟨0x108, 1, 0, 0, 32, .rws, 0x43A50000⟩, -- PP_RPU.OHM
  ⟨0x10C, 1, 0, 0, 32, .rw, 0x0⟩, -- HLC_LIM.A
  ⟨0x140, 1, 0, 0, 3, .ro, 0x7⟩, -- CP.STATE
  ⟨0x140, 1, 0, 3, 1, .ro, 0x0⟩, -- CP.PWM
  ⟨0x140, 1, 0, 4, 10, .ro, 0x0⟩, -- CP.DUTY
  ⟨0x144, 1, 0, 0, 32, .ro, 0x0⟩, -- CP_HIGH.V
  ⟨0x148, 1, 0, 0, 32, .ro, 0x0⟩, -- CP_LOW.V
  ⟨0x14C, 1, 0, 0, 32, .ro, 0x0⟩, -- I_PILOT.A
  ⟨0x150, 1, 0, 0, 3, .ro, 0x0⟩, -- PP.BAND
  ⟨0x150, 1, 0, 3, 1, .ro, 0x0⟩, -- PP.CONN
  ⟨0x154, 1, 0, 0, 32, .ro, 0x0⟩] -- PP_R.OHM

/-- The register fields of the CHG page. -/
def rowsCHG : List RegRow := rowsCHG1

/-- The register fields of the SYN page, part 1 (R516, R517). -/
def rowsSYN1 : List RegRow := [
  ⟨0x8, 1, 0, 4, 1, .ro, 0x0⟩, -- STAT.SYM_LOCK
  ⟨0x8, 1, 0, 5, 1, .ro, 0x0⟩, -- STAT.LOCK
  ⟨0x8, 1, 0, 6, 1, .ro, 0x0⟩, -- STAT.RING
  ⟨0x8, 1, 0, 7, 1, .w1c, 0x0⟩, -- STAT.STEPPED
  ⟨0x8, 1, 0, 8, 24, .ro, 0x0⟩, -- STAT.OFFSET
  ⟨0x100, 1, 0, 0, 3, .rws, 0x1⟩, -- CFG.NDEV
  ⟨0x100, 1, 0, 4, 2, .rws, 0x0⟩, -- CFG.POS
  ⟨0x100, 1, 0, 8, 2, .rws, 0x0⟩, -- CFG.MASTER
  ⟨0x100, 1, 0, 16, 10, .rws, 0x32⟩, -- CFG.SYNC_INT
  ⟨0x104, 1, 0, 0, 10, .rws, 0x0⟩, -- LINK_DLY.DLY
  ⟨0x108, 1, 0, 0, 8, .ro, 0x0⟩, -- TXS_STAT.SEQ
  ⟨0x108, 1, 0, 8, 4, .ro, 0x0⟩, -- TXS_STAT.ACK
  ⟨0x108, 1, 0, 12, 1, .ro, 0x0⟩, -- TXS_STAT.LOST
  ⟨0x108, 1, 0, 13, 3, .ro, 0x0⟩, -- TXS_STAT.QUEUED
  ⟨0x108, 1, 0, 16, 1, .w1c, 0x0⟩, -- TXS_STAT.DROP
  ⟨0x10C, 1, 0, 0, 8, .ro, 0x0⟩, -- TXA_STAT.SEQ
  ⟨0x10C, 1, 0, 8, 4, .ro, 0x0⟩, -- TXA_STAT.ACK
  ⟨0x10C, 1, 0, 12, 1, .ro, 0x0⟩, -- TXA_STAT.LOST
  ⟨0x10C, 1, 0, 13, 3, .ro, 0x0⟩, -- TXA_STAT.QUEUED
  ⟨0x10C, 1, 0, 16, 1, .w1c, 0x0⟩, -- TXA_STAT.DROP
  ⟨0x110, 1, 0, 0, 16, .rw, 0x0⟩, -- FRAME_ERR.COUNT
  ⟨0x700, 8, 4, 0, 32, .rw, 0x0⟩, -- TXS_DATA.DATA
  ⟨0x720, 1, 0, 0, 4, .wo, 0x0⟩, -- TXS_HDR.DST
  ⟨0x720, 1, 0, 8, 6, .wo, 0x0⟩, -- TXS_HDR.LEN
  ⟨0x720, 1, 0, 31, 1, .wo, 0x0⟩, -- TXS_HDR.GO
  ⟨0x740, 8, 4, 0, 32, .rw, 0x0⟩, -- TXA_DATA.DATA
  ⟨0x760, 1, 0, 0, 4, .wo, 0x0⟩, -- TXA_HDR.DST
  ⟨0x760, 1, 0, 8, 6, .wo, 0x0⟩, -- TXA_HDR.LEN
  ⟨0x760, 1, 0, 31, 1, .wo, 0x0⟩, -- TXA_HDR.GO
  ⟨0x780, 8, 4, 0, 32, .ro, 0x0⟩] -- RXS_DATA.DATA

/-- The register fields of the SYN page, part 2 (R517). -/
def rowsSYN2 : List RegRow := [
  ⟨0x7A0, 1, 0, 0, 2, .ro, 0x0⟩, -- RXS_INFO.SRC
  ⟨0x7A0, 1, 0, 8, 8, .ro, 0x0⟩, -- RXS_INFO.SEQ
  ⟨0x7A0, 1, 0, 16, 6, .ro, 0x0⟩, -- RXS_INFO.LEN
  ⟨0x7A0, 1, 0, 24, 4, .ro, 0x0⟩, -- RXS_INFO.COUNT
  ⟨0x7A0, 1, 0, 31, 1, .ro, 0x0⟩, -- RXS_INFO.VALID
  ⟨0x7A4, 1, 0, 0, 32, .ro, 0x0⟩, -- RXS_AT_L.STAMP
  ⟨0x7A8, 1, 0, 0, 32, .ro, 0x0⟩, -- RXS_AT_H.STAMP
  ⟨0x7AC, 1, 0, 0, 1, .wo, 0x0⟩, -- RXS_POP.POP
  ⟨0x7C0, 8, 4, 0, 32, .ro, 0x0⟩, -- RXA_DATA.DATA
  ⟨0x7E0, 1, 0, 0, 2, .ro, 0x0⟩, -- RXA_INFO.SRC
  ⟨0x7E0, 1, 0, 8, 8, .ro, 0x0⟩, -- RXA_INFO.SEQ
  ⟨0x7E0, 1, 0, 16, 6, .ro, 0x0⟩, -- RXA_INFO.LEN
  ⟨0x7E0, 1, 0, 24, 4, .ro, 0x0⟩, -- RXA_INFO.COUNT
  ⟨0x7E0, 1, 0, 31, 1, .ro, 0x0⟩, -- RXA_INFO.VALID
  ⟨0x7E4, 1, 0, 0, 32, .ro, 0x0⟩, -- RXA_AT_L.STAMP
  ⟨0x7E8, 1, 0, 0, 32, .ro, 0x0⟩, -- RXA_AT_H.STAMP
  ⟨0x7EC, 1, 0, 0, 1, .wo, 0x0⟩] -- RXA_POP.POP

/-- The register fields of the SYN page. -/
def rowsSYN : List RegRow := rowsSYN1 ++ rowsSYN2

/-- The register fields of the GPIO page, part 1 (R518). -/
def rowsGPIO1 : List RegRow := [
  ⟨0x100, 1, 0, 0, 32, .rw, 0x0⟩, -- DIR.DIR
  ⟨0x104, 1, 0, 0, 32, .rw, 0x0⟩, -- OUT.OUT
  ⟨0x108, 1, 0, 0, 32, .wo, 0x0⟩, -- SET.SET
  ⟨0x10C, 1, 0, 0, 32, .wo, 0x0⟩, -- CLR.CLR
  ⟨0x110, 1, 0, 0, 32, .ro, 0x0⟩, -- IN.IN
  ⟨0x114, 1, 0, 0, 32, .rw, 0x0⟩, -- RISE_EN.EN
  ⟨0x118, 1, 0, 0, 32, .rw, 0x0⟩, -- FALL_EN.EN
  ⟨0x11C, 1, 0, 0, 32, .w1c, 0x0⟩] -- EDGE.EDGE

/-- The register fields of the GPIO page. -/
def rowsGPIO : List RegRow := rowsGPIO1

/-- The register fields of the SPI page, part 1 (R507, R519). -/
def rowsSPI1 : List RegRow := [
  ⟨0x100, 1, 0, 0, 1, .rws, 0x0⟩, -- CFG.CPOL0
  ⟨0x100, 1, 0, 1, 1, .rws, 0x0⟩, -- CFG.CPHA0
  ⟨0x100, 1, 0, 2, 1, .rws, 0x0⟩, -- CFG.CPOL1
  ⟨0x100, 1, 0, 3, 1, .rws, 0x0⟩, -- CFG.CPHA1
  ⟨0x100, 1, 0, 4, 1, .rws, 0x0⟩, -- CFG.LSB
  ⟨0x100, 1, 0, 5, 2, .rws, 0x0⟩, -- CFG.WORD
  ⟨0x100, 1, 0, 8, 7, .rws, 0x7⟩, -- CFG.DIV
  ⟨0x104, 1, 0, 0, 8, .rws, 0x2⟩, -- TIME.SETUP
  ⟨0x104, 1, 0, 8, 8, .rws, 0x2⟩, -- TIME.HOLD
  ⟨0x104, 1, 0, 16, 8, .rws, 0x2⟩, -- TIME.GAP
  ⟨0x110, 1, 0, 5, 27, .rws, 0x0⟩, -- TX_BASE.ADDR
  ⟨0x114, 1, 0, 0, 16, .rws, 0x0⟩, -- TX_SIZE.ENTRIES
  ⟨0x114, 1, 0, 16, 8, .rws, 0x0⟩, -- TX_SIZE.UNITS
  ⟨0x118, 1, 0, 0, 10, .rw, 0x0⟩, -- TX_HEAD.IDX
  ⟨0x11C, 1, 0, 0, 10, .ro, 0x0⟩, -- TX_TAIL.IDX
  ⟨0x120, 1, 0, 0, 1, .ro, 0x0⟩, -- XSTAT.BUSY
  ⟨0x120, 1, 0, 1, 1, .ro, 0x0⟩, -- XSTAT.SEL_HELD
  ⟨0x124, 1, 0, 0, 16, .rw, 0x0⟩] -- ERR_CNT.COUNT

/-- The register fields of the SPI page. -/
def rowsSPI : List RegRow := rowsSPI1

/-- The register fields of the TRL window region, part 1 (R118). -/
def rowsTRLW1 : List RegRow := [
  ⟨0x0, 64, 128, 0, 1, .rws, 0x0⟩, -- CTRL.EN
  ⟨0x0, 64, 128, 1, 2, .rws, 0x0⟩, -- CTRL.CLASS
  ⟨0x0, 64, 128, 4, 4, .rws, 0x0⟩, -- CTRL.GROUP
  ⟨0x0, 64, 128, 8, 6, .rws, 0x0⟩, -- CTRL.IMG
  ⟨0x0, 64, 128, 16, 4, .rws, 0x0⟩, -- CTRL.CARRY
  ⟨0x4, 64, 128, 0, 3, .rws, 0x0⟩, -- TRIG.SRC
  ⟨0x4, 64, 128, 4, 4, .rws, 0x0⟩, -- TRIG.STAGE
  ⟨0x4, 64, 128, 8, 2, .rws, 0x0⟩, -- TRIG.EVENT
  ⟨0x4, 64, 128, 16, 10, .rws, 0x0⟩, -- TRIG.SLOT
  ⟨0x8, 64, 128, 0, 21, .rws, 0x0⟩, -- TRIG_ARG.ARG
  ⟨0xC, 64, 128, 0, 18, .rws, 0x0⟩, -- RATE.HZ
  ⟨0x10, 64, 128, 0, 16, .rws, 0x0⟩, -- BUDGET.OPS
  ⟨0x14, 64, 128, 0, 20, .rws, 0x0⟩, -- DEADLINE.US
  ⟨0x18, 64, 128, 0, 16, .rws, 0x0⟩, -- STATE.SIZE
  ⟨0x18, 64, 128, 16, 7, .rws, 0x0⟩, -- STATE.CKPT
  ⟨0x1C, 64, 128, 0, 32, .rws, 0x0⟩, -- UNIT_L.UNITS
  ⟨0x20, 64, 128, 0, 32, .rws, 0x0⟩, -- UNIT_H.UNITS
  ⟨0x24, 64, 128, 0, 32, .rws, 0x0⟩, -- IN0.HANDLES
  ⟨0x28, 64, 128, 0, 32, .rws, 0x0⟩, -- IN1.HANDLES
  ⟨0x2C, 64, 128, 0, 32, .rws, 0x0⟩, -- IN2.HANDLES
  ⟨0x30, 64, 128, 0, 32, .rws, 0x0⟩, -- IN3.HANDLES
  ⟨0x34, 64, 128, 0, 32, .rws, 0x0⟩, -- IN4.HANDLES
  ⟨0x38, 64, 128, 0, 32, .rws, 0x0⟩, -- IN5.HANDLES
  ⟨0x3C, 64, 128, 0, 32, .rws, 0x0⟩, -- IN6.HANDLES
  ⟨0x40, 64, 128, 0, 32, .rws, 0x0⟩, -- IN7.HANDLES
  ⟨0x44, 64, 128, 0, 32, .rws, 0x0⟩, -- OUT0.HANDLES
  ⟨0x48, 64, 128, 0, 32, .rws, 0x0⟩, -- OUT1.HANDLES
  ⟨0x4C, 64, 128, 0, 32, .rws, 0x0⟩, -- OUT2.HANDLES
  ⟨0x50, 64, 128, 0, 32, .rws, 0x0⟩, -- OUT3.HANDLES
  ⟨0x54, 64, 128, 0, 32, .rws, 0x0⟩] -- OUT4.HANDLES

/-- The register fields of the TRL window region, part 2 (R118, R126, R148). -/
def rowsTRLW2 : List RegRow := [
  ⟨0x58, 64, 128, 0, 32, .rws, 0x0⟩, -- OUT5.HANDLES
  ⟨0x5C, 64, 128, 0, 32, .rws, 0x0⟩, -- OUT6.HANDLES
  ⟨0x60, 64, 128, 0, 32, .rws, 0x0⟩, -- OUT7.HANDLES
  ⟨0x2040, 224, 4, 0, 32, .rws, 0x0⟩, -- CARRY_MAP.ENTRY
  ⟨0x2404, 15, 4, 1, 15, .rws, 0x0⟩] -- EXCL.ROW

/-- The register fields of the TRL window region. -/
def rowsTRLW : List RegRow := rowsTRLW1 ++ rowsTRLW2

/-- The register fields of the SA window region, part 1 (R301). -/
def rowsSAW1 : List RegRow := [
  ⟨0x0, 8, 32, 0, 1, .rws, 0x0⟩, -- CTRL.EN
  ⟨0x0, 8, 32, 1, 2, .rws, 0x0⟩, -- CTRL.SRC
  ⟨0x0, 8, 32, 4, 4, .rws, 0x0⟩, -- CTRL.STAGE
  ⟨0x0, 8, 32, 8, 2, .rws, 0x0⟩, -- CTRL.EVENT
  ⟨0x4, 8, 32, 0, 20, .rws, 0x0⟩, -- ARG.US
  ⟨0x8, 8, 32, 0, 7, .rws, 0x7F⟩, -- ENTRY0.E0
  ⟨0x8, 8, 32, 8, 7, .rws, 0x7F⟩, -- ENTRY0.E1
  ⟨0x8, 8, 32, 16, 7, .rws, 0x7F⟩, -- ENTRY0.E2
  ⟨0x8, 8, 32, 24, 7, .rws, 0x7F⟩, -- ENTRY0.E3
  ⟨0xC, 8, 32, 0, 7, .rws, 0x7F⟩, -- ENTRY1.E4
  ⟨0xC, 8, 32, 8, 7, .rws, 0x7F⟩, -- ENTRY1.E5
  ⟨0xC, 8, 32, 16, 7, .rws, 0x7F⟩, -- ENTRY1.E6
  ⟨0xC, 8, 32, 24, 7, .rws, 0x7F⟩, -- ENTRY1.E7
  ⟨0x10, 8, 32, 0, 7, .rws, 0x7F⟩, -- ENTRY2.E8
  ⟨0x10, 8, 32, 8, 7, .rws, 0x7F⟩, -- ENTRY2.E9
  ⟨0x10, 8, 32, 16, 7, .rws, 0x7F⟩, -- ENTRY2.E10
  ⟨0x10, 8, 32, 24, 7, .rws, 0x7F⟩, -- ENTRY2.E11
  ⟨0x14, 8, 32, 0, 7, .rws, 0x7F⟩, -- ENTRY3.E12
  ⟨0x14, 8, 32, 8, 7, .rws, 0x7F⟩, -- ENTRY3.E13
  ⟨0x14, 8, 32, 16, 7, .rws, 0x7F⟩, -- ENTRY3.E14
  ⟨0x14, 8, 32, 24, 7, .rws, 0x7F⟩, -- ENTRY3.E15
  ⟨0x100, 16, 8, 0, 32, .rws, 0x3F800000⟩, -- GAIN.GAIN
  ⟨0x104, 16, 8, 0, 32, .rws, 0x0⟩] -- OFFSET.OFFSET

/-- The register fields of the SA window region. -/
def rowsSAW : List RegRow := rowsSAW1

/-- The register fields of the MEM window region, part 1 (R351). -/
def rowsMEMW1 : List RegRow := [
  ⟨0x0, 16, 16, 0, 32, .rws, 0x0⟩, -- O_SRAM.ADDR
  ⟨0x4, 16, 16, 0, 24, .rws, 0x0⟩, -- O_MRAM.OFFS
  ⟨0x8, 16, 16, 0, 22, .rws, 0x0⟩, -- O_LEN.BYTES
  ⟨0xC, 16, 16, 0, 1, .rws, 0x0⟩, -- O_CTRL.EN
  ⟨0xC, 16, 16, 1, 1, .ro, 0x0⟩, -- O_CTRL.LOADED
  ⟨0x400, 448, 4, 0, 14, .ro, 0x0⟩, -- REMAP.LINE
  ⟨0x400, 448, 4, 31, 1, .ro, 0x0⟩] -- REMAP.VALID

/-- The register fields of the MEM window region. -/
def rowsMEMW : List RegRow := rowsMEMW1

/-- The register fields of the CAN window region, part 1 (R509). -/
def rowsCANW1 : List RegRow := [
  ⟨0x0, 32, 8, 0, 29, .rws, 0x0⟩, -- FID.ID
  ⟨0x0, 32, 8, 29, 1, .rws, 0x0⟩, -- FID.IDE
  ⟨0x0, 32, 8, 30, 2, .rws, 0x0⟩, -- FID.ACTION
  ⟨0x4, 32, 8, 0, 29, .rws, 0x0⟩] -- FMASK.MASK

/-- The register fields of the CAN window region. -/
def rowsCANW : List RegRow := rowsCANW1

/-- The register fields of the FLT window region, part 1 (R356, R357). -/
def rowsFLTW1 : List RegRow := [
  ⟨0x0, 256, 32, 0, 32, .ro, 0x0⟩, -- STAMP_L.STAMP
  ⟨0x4, 256, 32, 0, 32, .ro, 0x0⟩, -- STAMP_H.STAMP
  ⟨0x8, 256, 32, 0, 8, .ro, 0x0⟩, -- INFO.CODE
  ⟨0x8, 256, 32, 8, 2, .ro, 0x0⟩, -- INFO.CLASS
  ⟨0x8, 256, 32, 10, 1, .ro, 0x0⟩, -- INFO.INJ
  ⟨0x8, 256, 32, 11, 2, .ro, 0x0⟩, -- INFO.ORIGIN
  ⟨0x8, 256, 32, 16, 8, .ro, 0x0⟩, -- INFO.PAGE
  ⟨0xC, 256, 32, 0, 32, .ro, 0x0⟩, -- DETAIL.DETAIL
  ⟨0x10, 256, 32, 0, 32, .ro, 0x0⟩, -- SEQ.SEQ
  ⟨0x2000, 2, 32, 0, 32, .ro, 0x0⟩, -- FIRST_STAMP_L.STAMP
  ⟨0x2004, 2, 32, 0, 32, .ro, 0x0⟩, -- FIRST_STAMP_H.STAMP
  ⟨0x2008, 2, 32, 0, 8, .ro, 0x0⟩, -- FIRST_INFO.CODE
  ⟨0x2008, 2, 32, 8, 2, .ro, 0x0⟩, -- FIRST_INFO.CLASS
  ⟨0x2008, 2, 32, 10, 1, .ro, 0x0⟩, -- FIRST_INFO.INJ
  ⟨0x2008, 2, 32, 11, 2, .ro, 0x0⟩, -- FIRST_INFO.ORIGIN
  ⟨0x2008, 2, 32, 16, 8, .ro, 0x0⟩, -- FIRST_INFO.PAGE
  ⟨0x200C, 2, 32, 0, 32, .ro, 0x0⟩, -- FIRST_DETAIL.DETAIL
  ⟨0x2010, 2, 32, 0, 32, .ro, 0x0⟩] -- FIRST_SEQ.SEQ

/-- The register fields of the FLT window region. -/
def rowsFLTW : List RegRow := rowsFLTW1

end Sys2Proof.Machine
end

