-- ==== Sys2Proof/Machine/RegMap.lean ====
section
/-! DEFINITION. The page map (R384), the register file's keys, and what a register nothing has written reads as. -/

namespace Sys2Proof.Machine

/- The page indices of R384. -/
abbrev pgSYS : Nat := 0
abbrev pgPWR : Nat := 1
abbrev pgDIKE : Nat := 2
abbrev pgSUP : Nat := 3
abbrev pgTRL : Nat := 4
abbrev pgTP : Nat := 5
abbrev pgMEM : Nat := 6
abbrev pgFLT : Nat := 7
abbrev pgSAF : Nat := 8
abbrev pgSEC : Nat := 9
abbrev pgDBG : Nat := 10
abbrev pgHIF : Nat := 11
abbrev pgTDAC : Nat := 12
abbrev pgSD : Nat := 13
abbrev pgENC : Nat := 14
/-- The page of loop engine `n`. -/
abbrev pgLE (n : Nat) : Nat := 16 + n
/-- The page of external channel `n`. -/
abbrev pgXH (n : Nat) : Nat := 32 + n
/-- The page of integrated channel `n`. -/
abbrev pgIH (n : Nat) : Nat := 64 + n
/-- The page of stage `n`. -/
abbrev pgSG (n : Nat) : Nat := 80 + n
/-- The page of SAR converter `n`. -/
abbrev pgSA (n : Nat) : Nat := 96 + n
/-- The page of resolver `n`. -/
abbrev pgRD (n : Nat) : Nat := 102 + n
/-- The page of CAN controller `n`. -/
abbrev pgCAN (n : Nat) : Nat := 112 + n
/-- The page of Ethernet controller `n`. -/
abbrev pgETH (n : Nat) : Nat := 115 + n
abbrev pgSENT : Nat := 117
abbrev pgPSI : Nat := 118
abbrev pgCHG : Nat := 119
abbrev pgSYN : Nat := 120
abbrev pgGPIO : Nat := 121
abbrev pgSPI : Nat := 122

/-- The type of a page, none for a reserved page (R384). -/
def pageType (p : Nat) : Option PageType :=
  if p = 0 then some .sys else if p = 1 then some .pwr else if p = 2 then some .dike
  else if p = 3 then some .sup else if p = 4 then some .trl else if p = 5 then some .tp
  else if p = 6 then some .mem else if p = 7 then some .flt else if p = 8 then some .saf
  else if p = 9 then some .sec else if p = 10 then some .dbg else if p = 11 then some .hif
  else if p = 12 then some .tdac else if p = 13 then some .sd else if p = 14 then some .enc
  else if p < 16 then none
  else if p < 32 then some .le else if p < 55 then some .xh else if p < 64 then none
  else if p < 80 then some .ih else if p < 82 then some .sgt else if p < 86 then some .sgc
  else if p < 90 then some .sga else if p < 96 then none else if p < 102 then some .sa
  else if p < 104 then some .rd else if p < 112 then none else if p < 115 then some .can
  else if p < 117 then some .eth else if p = 117 then some .sent else if p = 118 then some .psi
  else if p = 119 then some .chg else if p = 120 then some .syn else if p = 121 then some .gpio
  else if p = 122 then some .spi else none

/-- The type code of R384. -/
def typeCode : PageType → Nat
  | .sys => 0x01 | .pwr => 0x02 | .dike => 0x03 | .sup => 0x04 | .trl => 0x05 | .tp => 0x06
  | .mem => 0x40 | .flt => 0x41 | .saf => 0x42 | .sec => 0x43 | .dbg => 0x44 | .hif => 0x50
  | .tdac => 0x33 | .sd => 0x31 | .enc => 0x34 | .le => 0x10 | .xh => 0x20 | .ih => 0x21
  | .sgt => 0x22 | .sgc => 0x22 | .sga => 0x22 | .sa => 0x30 | .rd => 0x32 | .can => 0x51
  | .eth => 0x52 | .sent => 0x53 | .psi => 0x54 | .chg => 0x55 | .syn => 0x56 | .gpio => 0x57
  | .spi => 0x58

/-- The first page of a page's type, from which INST counts (R384). -/
def typeBase : PageType → Nat
  | .le => 16 | .xh => 32 | .ih => 64 | .sgt => 80 | .sgc => 80 | .sga => 80 | .sa => 96 | .rd => 102
  | .can => 112 | .eth => 115
  | .sys => 0 | .pwr => 1 | .dike => 2 | .sup => 3 | .trl => 4 | .tp => 5
  | .mem => 6 | .flt => 7 | .saf => 8 | .sec => 9 | .dbg => 10 | .hif => 11
  | .tdac => 12 | .sd => 13 | .enc => 14 | .sent => 117 | .psi => 118 | .chg => 119 | .syn => 120
  | .gpio => 121 | .spi => 122

/-- INST of a page (R385). -/
def pageInst (p : Nat) : Nat := match pageType p with
  | some t => p - typeBase t
  | none => 0

/-- The fields a page type holds below its indirect window, besides the common header (R383). -/
def ownRows : PageType → List RegRow
  | .sys => rowsSYS | .pwr => rowsPWR | .dike => rowsDIKE | .sup => rowsSUP | .trl => rowsTRL
  | .tp => rowsTP | .mem => rowsMEM | .flt => rowsFLT | .saf => rowsSAF | .sec => rowsSEC
  | .dbg => rowsDBG | .hif => rowsHIF | .tdac => rowsTDAC | .sd => rowsSD | .enc => rowsENC
  | .le => rowsLE | .xh => rowsXH ++ rowsCHAN | .ih => rowsIH ++ rowsCHAN
  | .sgt => rowsSGT ++ rowsSGW | .sgc => rowsSGC ++ rowsSGW | .sga => rowsSGA ++ rowsSGW
  | .sa => rowsSA | .rd => rowsRD | .can => rowsCAN | .eth => rowsETH | .sent => rowsSENT
  | .psi => rowsPSI | .chg => rowsCHG | .syn => rowsSYN | .gpio => rowsGPIO | .spi => rowsSPI

/-- Whether the page type has an indirect window (CAP.WINDOW of R498 and R521). -/
def hasWindow : PageType → Bool
  | .trl => true | .mem => true | .flt => true | .sec => true | .le => true | .sa => true | .can => true
  | .sys => false | .pwr => false | .dike => false | .sup => false | .tp => false | .saf => false
  | .dbg => false | .hif => false | .tdac => false | .sd => false | .enc => false | .xh => false
  | .ih => false | .sgt => false | .sgc => false | .sga => false | .rd => false | .eth => false
  | .sent => false | .psi => false | .chg => false | .syn => false | .gpio => false | .spi => false

/-- Whether the page type has staged registers (CAP.STAGED of R498 and R521). -/
def hasStaged : PageType → Bool
  | .tp => false | .dbg => false | .hif => false | .gpio => false | .le => false
  | .sys => true | .pwr => true | .dike => true | .sup => true | .trl => true | .mem => true
  | .flt => true | .saf => true | .sec => true | .tdac => true | .sd => true | .enc => true
  | .xh => true | .ih => true | .sgt => true | .sgc => true | .sga => true | .sa => true | .rd => true
  | .can => true | .eth => true | .sent => true | .psi => true | .chg => true | .syn => true
  | .spi => true

/-- Whether CTL.DRAIN, TEST and BLKRST act in the page type (CAP.POLDER of R498 and R521). -/
def hasPolder : PageType → Bool
  | .sup => true | .mem => true | .can => true | .eth => true | .sent => true | .psi => true
  | .chg => true | .syn => true | .spi => true | .le => true | .sa => true
  | .sys => false | .pwr => false | .dike => false | .trl => false | .tp => false | .flt => false
  | .saf => false | .sec => false | .dbg => false | .hif => false | .tdac => false | .sd => false
  | .enc => false | .xh => false | .ih => false | .sgt => false | .sgc => false | .sga => false
  | .rd => false | .gpio => false

/-- The fields of a page below the indirect window's own region. -/
def pageRows (t : PageType) : List RegRow :=
  rowsHDR ++ (if hasWindow t then rowsWIN else []) ++ ownRows t

/-- The fields of a page type's window region that the register file holds (R301, R351, R357, R509 and chapter 4). The
regions of LE and SEC are memories of their own. -/
def windowRows : PageType → List RegRow
  | .trl => rowsTRLW | .sa => rowsSAW | .mem => rowsMEMW | .can => rowsCANW | .flt => rowsFLTW
  | .sys => [] | .pwr => [] | .dike => [] | .sup => [] | .tp => [] | .saf => [] | .sec => []
  | .dbg => [] | .hif => [] | .tdac => [] | .sd => [] | .enc => [] | .le => [] | .xh => []
  | .ih => [] | .sgt => [] | .sgc => [] | .sga => [] | .rd => [] | .eth => [] | .sent => []
  | .psi => [] | .chg => [] | .syn => [] | .gpio => [] | .spi => []

/-- Where the window region begins in the register file's offsets. -/
abbrev winBase : Nat := 0x1000000

/-- The register file's key of byte offset `off` of page `p`; window offset x is offset `winBase + x`. -/
def regKey (p off : Nat) : Nat := p * 0x2000000 + off

/-- The page of a key. -/
def keyPage (k : Nat) : Nat := k / 0x2000000

/-- The offset of a key. -/
def keyOff (k : Nat) : Nat := k % 0x2000000

/-- Whether a row has a field in the word at byte offset `off`. -/
def RegRow.covers (r : RegRow) (off : Nat) : Bool :=
  r.off ≤ off && (off = r.off || (0 < r.stride && (off - r.off) % r.stride = 0 && (off - r.off) / r.stride < r.count))

/-- The rows with a field in the word of key `k`. -/
def rowsAt (k : Nat) : List RegRow :=
  match pageType (keyPage k) with
  | none => []
  | some t =>
    if keyOff k < winBase then (pageRows t).filter (·.covers (keyOff k))
    else (windowRows t).filter (·.covers (keyOff k - winBase))

/-- Whether the spec gives the word of key `k` any field: an offset no rule names is reserved (R497, R520). -/
def keyNamed (k : Nat) : Bool := !(rowsAt k).isEmpty

/-- The bits of a word that rows of access `a` hold. -/
def accessMask (a : Access) (k : Nat) : Nat :=
  ((rowsAt k).filter (·.access = a)).foldl (fun m r => m + (2 ^ r.width - 1) * 2 ^ r.lo) 0

/-- CAP bits 28:0 of a page (R498, R521). -/
def capFields (p : Nat) : Nat := match pageType p with
  | none => 0
  | some t =>
    let n := pageInst p
    match t with
    | .sys => 16 + 10 * 2^5 + 23 * 2^10 + 16 * 2^15 + 6 * 2^20 + 2 * 2^23 + 12 * 2^25
    | .pwr => 0x7F | .dike => 0x3C | .sup => 3 + 2 * 2^4
    | .trl => 64 + 16 * 2^7 + 8 * 2^12 + 64 * 2^16 + 15 * 2^23
    | .tp => 20 + 8 * 2^5 | .mem => 28 | .flt => 256 | .saf => 2 | .sec => 3 + 5 * 2^2 | .dbg => 2
    | .hif => 16 | .can => 7 + 32 * 2^3 | .eth => if n = 0 then 1 else 6 | .sent => 4
    | .psi => 2 + 4 * 2^2 | .chg => 0 | .syn => 4 | .gpio => 32 | .spi => 2 + 20 * 2^2
    | .le => 8 + 128 * 2^8 + 64 * 2^16 + 2 * 2^23
    | .sgt => 0x1E61 | .sgc => if n = 2 then 0x1132 else if n = 5 then 0x0144 else 0x1243
    | .sga => 0x0135 | .xh => 0x0114 | .ih => 0x03FF
    | .sa => 0x220E + 0x4000 * ((n + 1) % 6) + 0x20000 * ((n + 5) % 6)
    | .sd => 0x402C | .rd => 0x5090 | .tdac => 0x0C0A | .enc => 3

/-- CAP of a page: its fields and the flags POLDER, WINDOW and STAGED (R385). -/
def capWord (p : Nat) : Nat := match pageType p with
  | none => 0
  | some t => capFields p + bit (hasPolder t) * 2^29 + bit (hasWindow t) * 2^30 + bit (hasStaged t) * 2^31

/-- ID of a page (R385, R386, R558); the SUP page in its native layout, which COMPAT sampling may change. -/
def idWord (p : Nat) : Nat := match pageType p with
  | none => 0
  | some t =>
    0x10 + Config.silrevMinor.toNat + (if t = .sup then 2 else 1) * 2^8 + pageInst p * 2^16 + typeCode t * 2^24

/-- The stage that owns a channel at reset (R528). -/
def defaultOwner (p : Nat) : Nat :=
  if p < 38 then 0 else if p < 44 then 1 else if p < 47 then 2 else if p < 51 then 3 else if p < 64 then 4
  else if p < 67 then 6 else if p < 70 then 7 else if p < 73 then 8 else if p < 76 then 9 else 5

/-- SYS.PAGESj: bit k is 1 when page 32 j + k is present (R384). -/
def presentBits (j : Nat) : Nat :=
  (List.range 32).foldl (fun m k => if (pageType (32 * j + k)).isSome then m + 2 ^ k else m) 0

/-- The reset value of words whose value depends on the page or the device (R126, R385, R404, R477, R528). -/
def resetOverride (p off : Nat) : Option Nat :=
  if off = 0 then some (idWord p)
  else if off = 4 then some (capWord p)
  else match pageType p with
    | some .sys => if 0x120 ≤ off ∧ off < 0x140 then some (presentBits ((off - 0x120) / 4)) else none
    | some .xh => if off = 0x108 then some (defaultOwner p) else if off = 8 then some (defaultOwner p * 16) else none
    | some .ih => if off = 0x110 then some (defaultOwner p) else if off = 8 then some (defaultOwner p * 16) else none
    | some .sec =>
      if off = 0x130 then some (bitsAt (Config.deviceId.truncate 32) 0 32)
      else if off = 0x134 then some (Config.deviceId.toNat / 2 ^ 32) else none
    | some .trl =>
      if winBase + 0x2404 ≤ off ∧ off < winBase + 0x2440 ∧ off % 4 = 0 then
        let g := (off - winBase - 0x2400) / 4
        some (if g = 15 then 0 else if g % 2 = 1 then 2 ^ (g + 1) else 2 ^ (g - 1))
      else none
    | _ => none

/-- The bits that the rows of a word give at reset. -/
def rowsReset (k : Nat) : Nat := (rowsAt k).foldl (fun v r => v + r.reset * 2 ^ r.lo) 0

/-- What a register word reads as that nothing has written since reset (R16, R391 and the reset columns). -/
def regReset (k : Nat) : Word :=
  let p := keyPage k
  let off := keyOff k
  match resetOverride p off with
  | some v => BitVec.ofNat 32 v
  | none =>
    -- SG1.TCFG.RD_SEL resets to 1, the same register's row of SG0 to 0 (R187)
    BitVec.ofNat 32 (rowsReset k + (if p = 81 ∧ off = 0x104 ∧ bitsAt (BitVec.ofNat 32 (rowsReset k)) 11 1 = 0 then 2 ^ 11 else 0))

/-- What the staged copy of a word reads as that nothing has written since reset (R388, R391). -/
def stagedReset (k : Nat) : Word := regReset k &&& BitVec.ofNat 32 (accessMask .rws k)

end Sys2Proof.Machine
end

