-- ==== Sys2Proof/Machine/State.lean ====
section
/-! DEFINITION. The state of the part, its state after reset, and the reasons a command stops. -/

namespace Sys2Proof.Machine

/-- Reasons a run stops with a fault. -/
inductive Fault where
  /-- Raised by register and window accesses to a reserved page or offset: the spec calls the result unpredictable
  (R17, R405). Safe: the part goes on with an unknown result, the model stops. -/
  | unpredictableAccess
  /-- Raised by COMMIT_APPLY where a value that would become live is an undefined encoding, or overlaps another, and no check
  covers it: the spec calls the result unpredictable (R405). Safe: the part goes on with an unknown result, the model stops. -/
  | undefinedSetting
deriving DecidableEq, Repr

/-- Reasons a command has no meaning. -/
inductive Refusal where
  /-- Raised by the dispatch arm of a command not modelled yet. Safe: no claim about that command can be proved. -/
  | notModelled (mnemonic : String)
deriving DecidableEq, Repr

/-- The state of the part. `regs` is the register file, keyed by `regKey`, an unlisted word reading as `regReset`;
`staged` its staged copies (R388); `marks` the written marks; `pushes` the words changed since the ledger last took
them (R414); `fresh` counts the free values drawn (assumption 6), and `answer` holds the
word that the last read returned to its requester. -/
structure State where
  regs : Tab Word := []
  staged : Tab Word := []
  marks : List Nat := []
  pushes : List Nat := []
  ledger : Tab Word := []
  mem : List Host.Cell := []
  chk : MemCheck := {}
  now : Nat := 0
  fresh : Nat := 0
  polders : Tab Polder := []
  drainQ : List Nat := []
  coll : Collector := {}
  tp : TimePlane := {}
  hif : HostPort := {}
  commit : Commit := {}
  engines : Tab Engine := []
  loops : Tab LoopRec := []
  slotShadows : Tab (Option SlotShadow) := []
  sup : Supervisor := {}
  trl : Trellis := {}
  guards : Tab Guard := []
  chans : Tab Channel := []
  stages : Tab Stage := []
  pilot : Pilot := {}
  samples : Tab Sample := []
  waitingSeqs : List SeqRun := []
  convs : Tab Converter := []
  tdac : TestDac := {}
  sdFrom : Tab Nat := []
  resolvers : Tab Resolver := []
  enc : Encoder := {}
  ifc : Interfaces := {}
  syn : Ryuger := {}
  sec : Security := {}
  dbg : DebugPort := {}
  pwr : Power := {}
  sto : Sto := {}
  wd : Watchdog := {}
  answer : Word := 0
  pending : List Instr := []
deriving DecidableEq, Repr

/-- What one command answers. -/
abbrev Res := Host.Outcome State Fault Refusal

/-- The machine right after reset: the Dike's own power-on reset, with the supply not yet valid (R66, R374, R487). -/
def State.reset : State := {}

end Sys2Proof.Machine
end

