-- ==== Sys2Proof/Machine/Ops.lean ====
section
/-! DEFINITION. The named operations over the state that every family uses: register words and fields, staged copies,
time stamps, counters, fault reports, agreement events and free values. -/

namespace Sys2Proof.Machine

/-- The word at byte offset `off` of page `p` of the register file. -/
def State.word (s : State) (p off : Nat) : Word := tabGet regReset s.regs (regKey p off)

/-- Writes a register word; a word below the window regions that changes owes the ledger a push (R414). -/
def State.setWord (s : State) (p off : Nat) (w : Word) : State :=
  { s with
    regs := tabPut regReset s.regs (regKey p off) w
    pushes := if off < 0x1000 ∧ s.word p off ≠ w then insertNat (regKey p off) s.pushes else s.pushes }

/-- The value of a register field. -/
def State.rd (s : State) (p : Nat) (f : Field) : Nat := bitsAt (s.word p f.off) f.lo f.width

/-- The value of a one-bit register field. -/
def State.rdB (s : State) (p : Nat) (f : Field) : Bool := s.rd p f == 1

/-- Writes a register field. -/
def State.wr (s : State) (p : Nat) (f : Field) (v : Nat) : State :=
  s.setWord p f.off (withBits (s.word p f.off) f.lo f.width v)

/-- Writes a one-bit register field. -/
def State.wrB (s : State) (p : Nat) (f : Field) (b : Bool) : State := s.wr p f (bit b)

/-- Sets bits of a register field: its value or'd with `v`. -/
def State.orBits (s : State) (p : Nat) (f : Field) (v : Nat) : State := s.wr p f (s.rd p f ||| v)

/-- Writes the two halves of a 64-bit stamp. -/
def State.wrStamp (s : State) (p : Nat) (fl fh : Field) (t : Nat) : State :=
  (s.wr p fl (t % 2 ^ 32)).wr p fh (t / 2 ^ 32)

/-- The staged copy of a register word (R388). -/
def State.stagedWord (s : State) (p off : Nat) : Word := tabGet stagedReset s.staged (regKey p off)

/-- Ticks from stamp `a` to stamp `b` of the 64-bit count (R43, R362). -/
def ticksSince (a b : Nat) : Nat := (b + 2 ^ 64 - a) % 2 ^ 64

/-- The stamp `n` ticks after `a` (R43). -/
def stampAdd (a n : Nat) : Nat := (a + n) % 2 ^ 64

/-- Whether at least `n` ticks have passed since stamp `a`. -/
def State.passed (s : State) (a n : Nat) : Bool := n ≤ ticksSince a s.now

/-- Whether at least 95 % of `n` ticks have passed since `a`: the least that a duration timed on the RC clock (±3 %) can take
on a time plane that runs from its internal reference (±1.5 %) (R62, R372). -/
def State.passedRc (s : State) (a n : Nat) : Bool := 95 * n ≤ 100 * ticksSince a s.now

/-- Ticks of `us` microseconds: 320 each (R43). -/
abbrev usTicks (us : Nat) : Nat := us * 320

/-- Ticks of `ms` milliseconds. -/
abbrev msTicks (ms : Nat) : Nat := ms * 320000

/-- A free word, and the state with one more drawn. -/
def State.drawWord (s : State) : Word × State := (Config.freeWord s.fresh, { s with fresh := s.fresh + 1 })

/-- A free bit, and the state with one more drawn. -/
def State.drawBit (s : State) : Bool × State := (Config.freeBit s.fresh, { s with fresh := s.fresh + 1 })

/-- Numbers of the fault classes in INFO.CLASS (R357). -/
def classCode : FaultClass → Nat
  | .c => 1 | .u => 2 | .f => 3

/-- Numbers of the origins in INFO.ORIGIN (R357). -/
def originCode : Origin → Nat
  | .fabric => 0 | .timePlane => 1 | .dike => 2 | .resetRecord => 3

/-- Raises a fault report: it is on its way to the collector until FAULT_REPORT brings it there. A fault not detected
on the fabric carries its detection instant as stamp (R51). Reports raised while the collector is stopped are not
written, but for one that is kept (R566, R568). -/
def State.reportAs (s : State) (r : Report) : State :=
  if s.coll.stopped then
    if r.keep then { s with coll := { s.coll with held := s.coll.held ++ [r] } } else s
  else { s with coll := { s.coll with inflight := s.coll.inflight ++ [r] } }

/-- A report of the fabric (R355). -/
def State.reportFab (s : State) (cls : FaultClass) (code page : Nat) (detail : Nat := 0) (inj : Bool := false) : State :=
  s.reportAs { code, cls, page, detail, origin := .fabric, stamp := none, inj }

/-- A report of the time plane, stamped now (R355). -/
def State.reportTp (s : State) (cls : FaultClass) (code page : Nat) (detail : Nat := 0) (inj : Bool := false) : State :=
  s.reportAs { code, cls, page, detail, origin := .timePlane, stamp := some s.now, inj }

/-- A report of the Dike, stamped now (R355). -/
def State.reportDike (s : State) (cls : FaultClass) (code page : Nat) (detail : Nat := 0) (inj : Bool := false) : State :=
  s.reportAs { code, cls, page, detail, origin := .dike, stamp := some s.now, inj }

/-- The origin of a page's counter-saturation entry (R360). -/
def counterOrigin (p : Nat) : Origin := match pageType p with
  | some .saf => .dike
  | some .tp => .timePlane | some .sgt => .timePlane | some .sgc => .timePlane | some .sga => .timePlane
  | some .xh => .timePlane | some .ih => .timePlane | some .sd => .timePlane | some .enc => .timePlane
  | some .tdac => .timePlane | some .flt => .timePlane
  | _ => .fabric

/-- One event of a 16-bit counter under the saturating rule (R360). -/
def State.count (s : State) (p : Nat) (f : Field) : State :=
  let v := s.rd p f
  if v = 0xFFFF then s
  else
    let s := s.wr p f (v + 1)
    if v = 0xFFFE then
      (s.wrB p Reg.HDR.FLT_CNT_SAT true).reportAs
        { code := 0xEE, cls := .c, page := p, detail := f.off, origin := counterOrigin p
          stamp := if counterOrigin p = .fabric then none else some s.now }
    else s

/-- `n` events of a counter. -/
def State.countN (s : State) (p : Nat) (f : Field) : Nat → State
  | 0 => s
  | n + 1 => (s.count p f).countN p f n

/-- One event of a counter whose first event after a write of it is logged as class C: a counter that reads 0 has
counted nothing since (R411, R425, R428, R429, R433, R440, R447). -/
def State.countFirst (s : State) (p : Nat) (f : Field) (code : Nat) (detail : Nat := 0) : State :=
  let first := s.rd p f == 0
  let s := s.count p f
  if first then s.reportFab .c code p detail else s

/-- Returns a word to the requester of a read. -/
def State.reply (s : State) (w : Word) : State := { s with answer := w }

/-- Sets an agreement event bit (R504). -/
def State.agrEvent (s : State) (n : Nat) : State :=
  s.orBits pgSUP Reg.SUP.AGR_EVT_EVT (2 ^ n)

/-- Folds an operation over a list. -/
def State.each {α : Type} (s : State) (xs : List α) (f : State → α → State) : State := xs.foldl f s

/-- One operation where a condition holds. -/
def State.when (s : State) (c : Bool) (f : State → State) : State := if c then f s else s

end Sys2Proof.Machine
end

