-- ==== Sys2Proof/Machine/Fabric.lean ====
section
/-! DEFINITION. Polders: their states, sluices, CTL and self-tests (R18 to R42, R561, R563). What a drain, a test or a
failure does to the work of a polder is in the families that own the work. -/

namespace Sys2Proof.Machine

/-- STAT.STATE's encoding (R385). -/
def polderCode : PolderState → Nat
  | .off => 0 | .ready => 1 | .running => 2 | .draining => 3 | .drained => 4 | .testing => 5 | .failed => 6

/-- The polder numbers of R18. -/
def polderExists (p : Nat) : Bool :=
  p < 0x1E || (0x20 ≤ p && p < 0x2B) || (0x30 ≤ p && p < 0x3C)

/-- Polder number of loop engine `n`. -/
abbrev pdLE (n : Nat) : Nat := n
/-- Polder number of supervisor core `n`. -/
abbrev pdCore (n : Nat) : Nat := 0x10 + n
/-- Polder number of application core `n`: P0, P1, and S2 in compat mode. -/
def pdApp (n : Nat) : Nat := if n = 2 then 0x12 else 0x13 + n
/-- Polder number of SAR converter `n`. -/
abbrev pdSA (n : Nat) : Nat := 0x18 + n
/-- Polder number of CAN controller `n`. -/
abbrev pdCAN (n : Nat) : Nat := 0x20 + n
/-- Polder number of Ethernet controller `n`. -/
abbrev pdETH (n : Nat) : Nat := 0x23 + n
abbrev pdSENT : Nat := 0x25
abbrev pdPSI : Nat := 0x26
abbrev pdCHG : Nat := 0x27
abbrev pdSYN : Nat := 0x28
abbrev pdHIF : Nat := 0x29
abbrev pdSPI : Nat := 0x2A
abbrev pdExchange : Nat := 0x38
abbrev pdMramA : Nat := 0x39
abbrev pdSecurity : Nat := 0x3B

/-- The page against which a polder's faults are logged (R42): its own, or SUP or MEM. -/
def polderPage (p : Nat) : Nat :=
  if p < 0x10 then pgLE p
  else if p < 0x18 then pgSUP
  else if p < 0x1E then pgSA (p - 0x18)
  else if p < 0x23 then pgCAN (p - 0x20)
  else if p < 0x25 then pgETH (p - 0x23)
  else if p = pdSENT then pgSENT else if p = pdPSI then pgPSI else if p = pdCHG then pgCHG
  else if p = pdSYN then pgSYN else if p = pdHIF then pgHIF else if p = pdSPI then pgSPI
  else if p = pdSecurity then pgSEC
  else pgMEM

/-- A polder that nothing has touched since reset is off, with its sluices open (R32). -/
def polderDefault (_ : Nat) : Polder := {}

/-- Polder `p`. -/
def State.polder (s : State) (p : Nat) : Polder := tabGet polderDefault s.polders p

/-- The state of polder `p`. -/
def State.polderSt (s : State) (p : Nat) : PolderState := (s.polder p).st

/-- Replaces polder `p`; its page's STAT and CTL and the SUP words that show it owe the ledger a push, and a change of
state sets agreement event 5 (R414, R504). -/
def State.setPolder (s : State) (p : Nat) (x : Polder) : State :=
  let old := s.polder p
  let pg := polderPage p
  let s := { s with
    polders := tabPut polderDefault s.polders p x
    pushes := insertNat (regKey pg 8) (insertNat (regKey pg 0x10) (insertNat (regKey pgSUP 0x10C)
      (insertNat (regKey pgDIKE 0x110) (insertNat (regKey pgDIKE 0x114) s.pushes)))) }
  if old.st = x.st then s else s.agrEvent 5

/-- Whether the polder is in service: ready or running. -/
def State.inService (s : State) (p : Nat) : Bool :=
  s.polderSt p = .ready || s.polderSt p = .running

/-- Whether the polder's sluices are closed to everything but its test sluice (R24, R25). -/
def State.sluicesClosed (s : State) (p : Nat) : Bool := (s.polder p).closed

/-- Work assigned to, or the last work removed from, a polder in service (R32). -/
def State.setBusy (s : State) (p : Nat) (b : Bool) : State :=
  let x := s.polder p
  let st := if x.st = .ready ∨ x.st = .running then (if b then .running else .ready) else x.st
  s.setPolder p { x with busy := b, st := st }

/-- A fault of a polder, with the polder number as detail (R358). -/
def State.reportPolder (s : State) (cls : FaultClass) (code p : Nat) : State :=
  s.reportFab cls code (polderPage p) p

/-- A drain in progress is abandoned; moved work stays where it is (R32, R35, R36). -/
def State.abandonDrain (s : State) (p : Nat) : State :=
  let x := s.polder p
  if x.st = .draining then
    (s.setPolder p { x with st := if x.busy then .running else .ready, drain := false, test := false }).reportPolder
      .c 0x03 p
  else s

/-- A polder fails: its sluices close, and a drain request of it that waits for evaluation is dropped (R25, R32, R34). -/
def State.failPolder (s : State) (p : Nat) : State :=
  let x := s.polder p
  if x.st = .off then s
  else
    let waiting := s.drainQ.contains p
    let s := { s with drainQ := s.drainQ.filter (· ≠ p) }
    s.setPolder p { x with
      st := .failed, closed := true, busy := false, blkrst := false, testAfter := false
      drain := if waiting then false else x.drain, test := if waiting then false else x.test }

/-- The self-test of a drained or failed polder starts; its sluices stay closed but for the test sluice (R32). -/
def State.startTest (s : State) (p : Nat) : State :=
  s.setPolder p { s.polder p with st := .testing, test := true, closed := true, testAfter := false }

/-- The last work has left a draining polder: its sluices close, and a test written with the drain starts (R32, R37). -/
def State.drained (s : State) (p : Nat) : State :=
  let x := s.polder p
  let s := s.setPolder p { x with st := .drained, closed := true, busy := false }
  if x.test then s.startTest p else s

/-- A refill: the polder returns to ready with its sluices open and CTL.DRAIN and CTL.TEST cleared (R25, R32). -/
def State.refill (s : State) (p : Nat) : State :=
  s.setPolder p { s.polder p with st := .ready, closed := false, drain := false, test := false, busy := false }

/-- The bits of one write to CTL. -/
structure CtlBits where
  en : Bool
  drain : Bool
  test : Bool
  blkrst : Bool
deriving DecidableEq, Repr

/-- Whether CTL.DRAIN of the polder may be requested at all: a memory polder other than an MRAM bank, and a supervisor
core in compat mode, refuse it with fault 0x06 at once (R18, R502, R503). -/
def drainRefusedKind (compat : Bool) (inactiveMram p : Nat) : Bool :=
  (0x30 ≤ p && p ≤ 0x3A && p != inactiveMram) || (compat && (p == 0x10 || p == 0x11))

/-- BLKRST of a CTL write (R38): acts on a drained or failed polder only. -/
def State.ctlBlkrst (s : State) (p : Nat) (w : CtlBits) : State :=
  let x := s.polder p
  if w.blkrst ∧ (x.st = .drained ∨ x.st = .failed) then
    s.setPolder p { x with blkrst := true, withheld := false, injected := false }
  else s

/-- DRAIN of a CTL write (R32, R34, R37). -/
def State.ctlDrain (s : State) (p : Nat) (w : CtlBits) (refused : Bool) : State :=
  let x := s.polder p
  if w.drain then
    if x.st = .ready ∨ x.st = .running then
      if refused then s.reportPolder .c 0x06 p
      else if x.drain then s
      else { s with drainQ := s.drainQ ++ [p] }.setPolder p { x with drain := true, test := w.test }
    else s
  else if x.st = .draining then s.abandonDrain p
  else if x.st = .drained ∧ ¬ w.test ∧ ¬ x.test then s.refill p
  else s

/-- TEST of a CTL write (R32, R37): starts on a drained or failed polder, or follows a block reset in progress. -/
def State.ctlTest (s : State) (p : Nat) (w : CtlBits) : State :=
  let x := s.polder p
  if w.test ∧ (x.st = .drained ∨ x.st = .failed) then
    if x.blkrst then s.setPolder p { x with test := true, testAfter := true } else s.startTest p
  else s

/-- A polder in state off is enabled: it initialises itself with its sluices open (R25, R32). -/
def State.enablePolder (s : State) (p : Nat) : State :=
  s.setPolder p { s.polder p with
    en := true, st := .ready, closed := false, drain := false, test := false, blkrst := false, busy := false }

/-- A drained or failed polder is powered down (R32). -/
def State.powerDownPolder (s : State) (p : Nat) : State :=
  s.setPolder p { s.polder p with
    en := false, st := .off, drain := false, test := false, blkrst := false, testAfter := false, busy := false }

/-- Whether the written EN differs from the present one and matches a row of R32 (R561 step 1). -/
def State.ctlEnMatches (s : State) (p : Nat) (w : CtlBits) : Bool :=
  let x := s.polder p
  w.en != x.en && ((w.en && x.st == .off) || (!w.en && (x.st == .drained || x.st == .failed)))

/-- One write to CTL, by the order of R561; `en` is false for pages whose CTL.EN is reserved (R503). `refused` says
that the polder's kind refuses every drain. -/
def State.ctlWrite (s : State) (p : Nat) (w : CtlBits) (enActs refused : Bool) : State :=
  if enActs ∧ s.ctlEnMatches p w then
    if w.en then s.enablePolder p else s.powerDownPolder p
  else ((s.ctlBlkrst p w).ctlDrain p w refused).ctlTest p w

/-- A block reset ends: the state stays as it is, and a test written with it starts (R38, R561). -/
def State.blkrstDone (s : State) (p : Nat) : State :=
  let x := s.polder p
  if x.blkrst then
    let s := s.setPolder p { x with blkrst := false }
    if x.testAfter ∧ (x.st = .drained ∨ x.st = .failed) then s.startTest p else s
  else s

/-- SYS.DRAIN_TMO in ms: 0 acts as 1, values above 1,000 as 1,000 (R499). -/
def State.drainTmoMs (s : State) : Nat := clampNat 1 1000 (s.rd pgSYS Reg.SYS.DRAIN_TMO_MS)

/-- The stall limit in µs, clamped to 10 to 500 (R29). -/
def State.stallLimUs (s : State) : Nat := clampNat 10 500 (s.rd pgDIKE Reg.DIKE.STALL_LIM_US)

end Sys2Proof.Machine
end

