-- ==== Sys2Proof/Machine/Mem.lean ====
section
/-! DEFINITION. Addressed memory: the address map, bytes and words, check fields, failing lines and the remap tables
(R334 to R348, R559). What repairs a line is in Memory.lean. -/

namespace Sys2Proof.Machine

/- Base addresses of the regions of R334. The private memories of the three supervisor cores, which share one address,
lie at three keys of the model (assumption 20). -/
abbrev spmBase (c : Nat) : Nat := 0x08000000 + c * 0x00100000
abbrev mramBase (bank : Nat) : Nat := 0x10000000 + bank * 0x01000000
abbrev sharedBase : Nat := 0x20000000
abbrev appSramBase : Nat := 0x21000000
abbrev leBase (n : Nat) : Nat := 0x30000000 + n * 0x00020000
abbrev exchangeBase : Nat := 0x30200000
abbrev pageBase : Nat := 0x40000000
/-- The first checkpoint buffer of loop `l`; the second lies 0x120 higher (R133). -/
abbrev ckptBase (l : Nat) : Nat := 0x201F0000 + 0x240 * l

/-- The regions of the address map (R334), as the model's memory keys see them. -/
inductive Region where
  | spm (core : Nat) | mram (bank : Nat) | shared (bank : Nat) | appSram (bank : Nat) | engineMem (engine : Nat)
  | exchange
deriving DecidableEq, Repr

/-- The region a memory key lies in. -/
def regionOf (a : Nat) : Option Region :=
  if 0x08000000 ≤ a ∧ a < 0x08300000 ∧ a % 0x00100000 < 0x00080000 then some (.spm ((a - 0x08000000) / 0x00100000))
  else if 0x10000000 ≤ a ∧ a < 0x12000000 then some (.mram ((a - 0x10000000) / 0x01000000))
  else if 0x20000000 ≤ a ∧ a < 0x20200000 then some (.shared ((a - 0x20000000) / 0x00080000))
  else if 0x21000000 ≤ a ∧ a < 0x21200000 then some (.appSram ((a - 0x21000000) / 0x00080000))
  else if 0x30000000 ≤ a ∧ a < 0x30200000 then some (.engineMem ((a - 0x30000000) / 0x00020000))
  else if 0x30200000 ≤ a ∧ a < 0x30204000 then some .exchange
  else none

/-- The first key of a region. -/
def regionBase : Region → Nat
  | .spm c => spmBase c
  | .mram b => mramBase b
  | .shared b => sharedBase + b * 0x00080000
  | .appSram b => appSramBase + b * 0x00080000
  | .engineMem n => leBase n
  | .exchange => exchangeBase

/-- The polder of a region (R18). -/
def regionPolder : Region → Nat
  | .spm c => 0x15 + c
  | .mram b => pdMramA + b
  | .shared b => 0x30 + b
  | .appSram b => 0x34 + b
  | .engineMem n => pdLE n
  | .exchange => pdExchange

/-- The remap table of a region; MRAM has none and counts as 31 (R348, R349). -/
def regionTable : Region → Nat
  | .spm c => c
  | .exchange => 3
  | .shared b => 4 + b
  | .appSram b => 8 + b
  | .engineMem n => 12 + n
  | .mram _ => 31

/-- Entries of a remap table (R348). -/
def remapSize (t : Nat) : Nat := if t = 3 then 4 else if t < 12 then 16 else 4

/-- What a byte nothing has written since the start of the device reads as: zero (R335; MRAM by assumption 21). -/
def memDefault (_ : Nat) : Byte := 0

/-- The canonical form of memory: addresses rise strictly, and no listed byte equals what an unlisted address reads as. -/
def Memory.wf (m : List Host.Cell) : Bool := tabWf memDefault m

/-- The byte at key `a`. -/
def State.byte (s : State) (a : Nat) : Byte := tabGet memDefault s.mem a

/-- Writes one byte; its check field is computed anew, so it passes (R339). -/
def State.putByte (s : State) (a : Nat) (b : Byte) : State :=
  { s with
    mem := tabPut memDefault s.mem a b
    chk := { s.chk with bad := s.chk.bad.filter (· ≠ a) } }

/-- The 32-bit word at key `a`, least significant byte first (R559). -/
def State.mword (s : State) (a : Nat) : Word :=
  wordOfBytes (s.byte a) (s.byte (a + 1)) (s.byte (a + 2)) (s.byte (a + 3))

/-- Writes a 32-bit word, least significant byte first (R559). -/
def State.putMword (s : State) (a : Nat) (w : Word) : State :=
  (((s.putByte a (byteOfWord w 0)).putByte (a + 1) (byteOfWord w 1)).putByte (a + 2) (byteOfWord w 2)).putByte
    (a + 3) (byteOfWord w 3)

/-- A 16-bit value at key `a` (R559). -/
def State.mhalf (s : State) (a : Nat) : Nat := (s.byte a).toNat + (s.byte (a + 1)).toNat * 256

/-- Writes bytes from key `a` upwards. -/
def State.putBytes (s : State) (a : Nat) : List Byte → State
  | [] => s
  | b :: bs => (s.putByte a b).putBytes (a + 1) bs

/-- `n` bytes from key `a` upwards. -/
def State.bytes (s : State) (a n : Nat) : List Byte := (List.range n).map (fun k => s.byte (a + k))

/-- Replaces the cells of `n` keys from `a` upwards by cells given in rising order within that range. -/
def cellsReplace (m : List Host.Cell) (a n : Nat) (new : List Host.Cell) : List Host.Cell :=
  m.filter (fun c => c.1 < a) ++ new ++ m.filter (fun c => a + n ≤ c.1)

/-- Copies `n` bytes from key `src` to key `dst`: what is read passed its checks, and what is written passes its own. -/
def State.copyMem (s : State) (dst src n : Nat) : State :=
  { s with
    mem := cellsReplace s.mem dst n
      ((s.mem.filter (fun c => src ≤ c.1 && c.1 < src + n)).map (fun c => (c.1 - src + dst, c.2)))
    chk := { s.chk with bad := s.chk.bad.filter (fun a => a < dst || dst + n ≤ a) } }

/-- Writes zero to `n` bytes from key `a` upwards. -/
def State.zeroMem (s : State) (a n : Nat) : State :=
  { s with
    mem := cellsReplace s.mem a n []
    chk := { s.chk with bad := s.chk.bad.filter (fun b => b < a || a + n ≤ b) } }

/-- The first byte of the unit that is checked together: a 32-byte line, or a 16-byte slot of exchange memory (R340). -/
def checkUnit (a : Nat) : Nat := if exchangeBase ≤ a ∧ a < exchangeBase + 0x4000 then a / 16 * 16 else a / 32 * 32

/-- Whether the line, or the slot, of key `a` fails its check (R340). -/
def State.unitBad (s : State) (a : Nat) : Bool := s.chk.bad.any (fun b => checkUnit b == checkUnit a)

/-- Every byte of the unit of key `a` passes again. -/
def State.unitRepaired (s : State) (a : Nat) : State :=
  { s with chk := { s.chk with
    bad := s.chk.bad.filter (fun b => checkUnit b != checkUnit a)
    logged := s.chk.logged.filter (· ≠ checkUnit a) } }

/-- Who found a failing line, as MEM.LAST_INFO.FOUND encodes it (R349). -/
inductive Finder where
  | core | engine | host | trellis | scrubber
deriving DecidableEq, Repr

/-- FOUND's encoding (R349). -/
def finderCode : Finder → Nat
  | .core => 0 | .engine => 1 | .host => 2 | .trellis => 3 | .scrubber => 4

/-- A memory fault, with the table number as detail (R352, R379). -/
def State.reportMem (s : State) (cls : FaultClass) (code a : Nat) : State :=
  s.reportFab cls code pgMEM ((regionOf a).map regionTable |>.getD 31) (s.chk.inj.any fun b => checkUnit b == checkUnit a)

/-- The window word of entry `i` of remap table `t` (R351). -/
def remapOff (t i : Nat) : Nat := winBase + 0x400 + 0x40 * t + 4 * i

/-- Enters a line in its remap table, or finds the table full (R347, R348). -/
def State.remapLine (s : State) (a t lineIdx : Nat) : State :=
  match (List.range (remapSize t)).find? (fun i => bitsAt (s.word pgMEM (remapOff t i)) 31 1 = 0) with
  | some i => (s.setWord pgMEM (remapOff t i) (BitVec.ofNat 32 (2 ^ 31 + lineIdx % 2 ^ 14))).reportMem .c 0xA4 a
  | none =>
    if bitOf (s.rd pgMEM Reg.MEM.REMAP_FULL_TABLE) t then s
    else (s.orBits pgMEM Reg.MEM.REMAP_FULL_TABLE (2 ^ t)).reportMem .u 0xA5 a

/-- Notes a failure of the unit of key `a` in its table's history; the third within 1 s is remapped (R347). -/
def State.noteFailure (s : State) (a : Nat) : State :=
  match regionOf a with
  | none => s
  | some (.mram _) => s
  | some r =>
    let t := regionTable r
    let line := checkUnit a
    let hist := tabGet (fun _ => []) s.chk.history t
    let mine := (hist.find? (·.line = line)).map (·.stamps) |>.getD []
    let stamps := (s.now :: mine).take 3
    let rest := hist.filter (·.line ≠ line)
    let third := stamps.length = 3 ∧ ticksSince (stamps.getD 2 0) s.now ≤ 320000000
    let entry : LineHist := { line := line, stamps := if third then [] else stamps }
    let s := { s with chk := { s.chk with
      history := tabPut (fun _ => []) s.chk.history t ((entry :: rest).take 8) } }
    if third then s.remapLine a t ((a - regionBase r) / 32) else s

/-- Records a failing line in MEM.LAST_* and its counter (R349). -/
def State.recordLine (s : State) (a : Nat) (f : Finder) (outcome loop : Nat) (repaired : Bool) : State :=
  let t := (regionOf a).map regionTable |>.getD 31
  let s := s.setWord pgMEM 0x10C (BitVec.ofNat 32 (a / 32 * 32))
  let s := s.setWord pgMEM 0x110
    (BitVec.ofNat 32 (t + finderCode f * 2 ^ 5 + outcome * 2 ^ 8 + (loop % 64) * 2 ^ 12 + 2 ^ 31))
  let s := s.wrStamp pgMEM Reg.MEM.LAST_AT_L_STAMP Reg.MEM.LAST_AT_H_STAMP s.now
  let s := s.count pgMEM (if repaired then Reg.MEM.REP_CNT_COUNT else Reg.MEM.UNREP_CNT_COUNT)
  s.noteFailure a

/-- The key of signal slot `n` (R106). -/
abbrev slotKey (n : Nat) : Nat := exchangeBase + 16 * n

/-- Writes all four words of a slot at once (R106, R107): value, stamp, writer, source and PRD. -/
def State.putSlot (s : State) (n : Nat) (v : Word) (stamp writer src : Nat) (prd : Bool) : State :=
  let k := slotKey n
  (((s.putMword k v).putMword (k + 4) (BitVec.ofNat 32 stamp)).putMword (k + 8)
    (BitVec.ofNat 32 (stamp / 2 ^ 32))).putMword (k + 12)
    (BitVec.ofNat 32 (writer % 64 + src * 2 ^ 6 + bit prd * 2 ^ 9))

/-- A slot that fails its check reads as never written, which is logged once per failure (R346). -/
def State.slotChecked (s : State) (n : Nat) (f : Finder) : State :=
  if s.unitBad (slotKey n) ∧ ¬ s.chk.logged.contains (slotKey n) then
    let s := { s with chk := { s.chk with logged := insertNat (slotKey n) s.chk.logged } }
    (s.recordLine (slotKey n) f 5 0 false).reportMem .u 0xAA (slotKey n)
  else if s.unitBad (slotKey n) then s
  else { s with chk := { s.chk with logged := s.chk.logged.filter (· ≠ slotKey n) } }

/-- Word `k` of slot `n`, 0 where the slot fails its check (R346). -/
def State.slotWord (s : State) (n k : Nat) : Word :=
  if s.unitBad (slotKey n) then 0 else s.mword (slotKey n + 4 * k)

end Sys2Proof.Machine
end

