-- ==== Sys2Proof/Machine/Channels.lean ====
section
/-! DEFINITION. Channels: ownership and roles, pulses and their edges, compare and phase values, gates, the hold guard's
arming, and protection latches (R7, R54, R140, R141, R154, R160, R250 to R268, R529 to R532, R562). What a stage does
about a turned-off leg is in Stages.lean. -/

namespace Sys2Proof.Machine

/-- Edge units of the present instant: 20 per tick. -/
def State.eu (s : State) : Nat := s.now * 20

/-- The pages of the external and of the integrated channels. -/
def xhPages : List Nat := (List.range 23).map pgXH
def ihPages : List Nat := (List.range 16).map pgIH
def channelPages : List Nat := xhPages ++ ihPages

/-- Whether a channel page is that of an external channel. -/
abbrev isXh (p : Nat) : Bool := p < 64

/-- The OWN field of a channel page (R528). -/
def ownField (p : Nat) : Field := if isXh p then Reg.XH.OWN_STAGE else Reg.IH.OWN_STAGE

/-- The owning stage of a channel. -/
def State.owner (s : State) (p : Nat) : Nat := s.rd p (ownField p)

/-- The legs of a stage, in ascending channel order (R529). -/
def State.legs (s : State) (st : Nat) : List Nat := channelPages.filter (fun p => s.owner p == st)

/-- The legs of set `set` (0 A, 1 B) of a stage: three and three in traction, else all of them as set A (R5, R154). -/
def State.setLegs (s : State) (st set : Nat) : List Nat :=
  if st < 2 then (if set = 0 then (s.legs st).take 3 else ((s.legs st).drop 3).take 3) else s.legs st

/-- The role of a leg within its stage: its index in ascending channel order. -/
def State.role (s : State) (p : Nat) : Nat := ((s.legs (s.owner p)).findIdx? (· == p)).getD 0

/-- A channel and a stage. -/
def State.chan (s : State) (p : Nat) : Channel := tabGet (fun _ => {}) s.chans p
def State.setChan (s : State) (p : Nat) (c : Channel) : State := { s with chans := tabPut (fun _ => {}) s.chans p c }
def State.stage (s : State) (st : Nat) : Stage := tabGet (fun _ => {}) s.stages st
def State.setStage (s : State) (st : Nat) (x : Stage) : State := { s with stages := tabPut (fun _ => {}) s.stages st x }

/-- The mode code of a stage; the field lies alike in every kind of stage page (R187, R229, R248). -/
def State.mode (s : State) (st : Nat) : Nat := s.rd (pgSG st) Reg.SGT.STAT_MODE

/-- Whether a stage is in Off (R202). -/
def State.stageOff (s : State) (st : Nat) : Bool := s.mode st == 0

/-- The PERIOD field, alike in every kind of stage page. -/
def State.periodReg (s : State) (st : Nat) : Nat := s.rd (pgSG st) Reg.SGT.PERIOD_PERIOD

/-- The period timing a leg follows: its set's (R155, R156). -/
def State.legTiming (s : State) (p : Nat) : SetTiming :=
  let st := s.owner p
  if st < 2 ∧ 3 ≤ s.role p then (s.stage st).b else (s.stage st).a

/-- The period live for a leg: the one taken at its set's last period start, or PERIOD while none has started (R403). -/
def State.legPeriod (s : State) (p : Nat) : Nat :=
  let t := s.legTiming p
  if t.started then t.period else s.periodReg (s.owner p)

/-- Where an edge of a pulse lies: centred in the leg's period, or from its start in SG3 to SG5 (R155, R216, R221). -/
def edgePos (trailing : Bool) (start compare period : Nat) (rise : Bool) : Nat :=
  let c := min compare period
  let first := if trailing then start else start + (period - c) / 2
  if rise then first else first + c

/-- An edge of a channel whose interpolator calibration is out of range falls on a whole tick (R70). -/
def State.placeEdge (s : State) (p pos : Nat) : Nat :=
  if s.tp.fallback.contains p ∧ pos % 20 ≠ 0 then (pos / 20 + bit (Config.laterTick p pos)) * 20 else pos

/-- Whether the pulses of a stage's legs start with their period rather than lie in its centre. -/
def trailingStage (st : Nat) : Bool := st == 3 || st == 4 || st == 5

/-- A leg's own period begins at edge-unit instant `start`: its two edges are scheduled, and past ones forgotten. -/
def State.beginLegPeriod (s : State) (p start : Nat) : State :=
  let c := s.chan p
  let cmp := s.rd p Reg.CHAN.COMPARE_EU
  let edge (rise : Bool) : Edge :=
    { start := start, rise := rise, pos := s.placeEdge p (edgePos (trailingStage (s.owner p)) start cmp (s.legPeriod p) rise) }
  let past := c.edges.filter (fun e => e.pos ≤ s.eu)
  let pending := c.edges.filter (fun e => s.eu < e.pos)
  s.setChan p { c with edges := (past.getLast?).toList ++ pending ++ [edge true, edge false] }

/-- A new compare value latched at stamp `t`: a pending edge moves to its new place, but not before `t` + 4 ticks; an
edge that has occurred stays (R54). -/
def State.latchCompare (s : State) (p cmp t : Nat) : State :=
  let c := s.chan p
  let move (e : Edge) : Edge :=
    if e.pos ≤ t * 20 then e
    else { e with pos := max (s.placeEdge p (edgePos (trailingStage (s.owner p)) e.start cmp (s.legPeriod p) e.rise)) (t * 20 + 80) }
  (s.wr p Reg.CHAN.COMPARE_EU cmp).setChan p { c with edges := c.edges.map move }

/-- A new phase value latched at stamp `t` waits for a period start at least 4 ticks later (R562). -/
def State.latchPhase (s : State) (p ph t : Nat) : State :=
  s.setChan p { s.chan p with phaseNew := some (ph, t) }

/-- The period start of a leg's set at edge-unit instant `start`: a waiting phase value old enough is taken, and the leg's
own period follows it (R562). -/
def State.legPeriodStart (s : State) (start p : Nat) : State :=
  let s := match (s.chan p).phaseNew with
    | some (ph, t) =>
      if t * 20 + 80 ≤ start then (s.wr p Reg.CHAN.PHASE_EU ph).setChan p { s.chan p with phaseNew := none } else s
    | none => s
  s.beginLegPeriod p (start + s.rd p Reg.CHAN.PHASE_EU)

/-- The level of PLS at edge-unit instant `t`, from the pulse generator's edges. -/
def plsLevel (edges : List Edge) (t : Nat) : Bool :=
  ((edges.filter (fun e => e.pos ≤ t)).getLast?).any (·.rise)

/-- The instant of the last edge at or before `t`, 0 where there is none. -/
def lastEdgeAt (edges : List Edge) (t : Nat) : Nat :=
  ((edges.filter (fun e => e.pos ≤ t)).getLast?).elim 0 (·.pos)

/-- The latch of a channel (R262); the field lies alike in both kinds of channel page. -/
def State.latched (s : State) (p : Nat) : Bool := s.rdB p Reg.XH.CH_STAT_LATCH

/-- Whether STO is open (R324), and with it the STO equivalent of the integrated drivers (R263). -/
def State.stoOpen (s : State) : Bool := s.rdB pgSAF Reg.SAF.STO_STAT_OPEN

/-- Whether SG5's crowbar latch holds (R226). -/
def State.crowbar (s : State) : Bool := s.rdB (pgSG 5) Reg.SGC.STAT_CB_LATCH

/-- EN of a channel as its source gives it: the pin in Ext, else high while the stage drives the leg (R250). -/
def State.enLevel (s : State) (p : Nat) : Bool :=
  match (s.chan p).drive with
  | .pins => s.rdB p Reg.IH.CH_STAT_PIN_EN
  | .driven => !(s.chan p).awaiting
  | .lowOn => true
  | .highOn => true
  | .off => false

/-- PLS of a channel as its source gives it, held low by a refresh pulse (R250, R256). -/
def State.plsNow (s : State) (p : Nat) : Bool :=
  let c := s.chan p
  match c.drive with
  | .pins => s.rdB p Reg.IH.CH_STAT_PIN_PLS && c.refreshEnd ≤ s.now
  | .driven => plsLevel c.edges s.eu && c.refreshEnd ≤ s.now
  | .highOn => true
  | .lowOn => false
  | .off => false

/-- Whether the dead time since the last transition of PLS or rise of EN has passed: DT in ns is 6.4 edge units each
(R251, R264). -/
def State.deadTimePassed (s : State) (p : Nat) : Bool :=
  let c := s.chan p
  let last := max (max c.enAt c.pinAt) (max (if c.drive = .driven then lastEdgeAt c.edges s.eu else 0)
    (if c.refreshEnd ≤ s.now then c.refreshEnd * 20 else 0))
  last * 5 + s.rd p Reg.XH.DT_NS * 32 ≤ s.eu * 5

/-- Whether VM is outside its window, which turns every integrated channel off (R484). -/
def State.vmOut (s : State) : Bool := s.rdB pgPWR Reg.PWR.SUPPLY_VM_UV || s.rdB pgPWR Reg.PWR.SUPPLY_VM_OV

/-- CH_STAT.LEG: the first row of R250 that applies, after dead time: 0 off, 1 high, 2 low, 3 soft turn-off. -/
def State.legState (s : State) (p : Nat) : Nat :=
  let st := s.owner p
  if (s.chan p).soft then 3
  else if s.latched p then 0
  else if st = 5 ∧ s.crowbar then 2
  else if s.vmOut ∧ ¬ isXh p then 0
  else if s.stoOpen ∧ 6 ≤ st ∧ s.mode st ≠ 7 then 0
  else if ¬ s.enLevel p then 0
  else if s.plsNow p ∧ ¬ isXh p ∧ s.rdB p Reg.IH.CH_STAT_HS_SUPP then 0
  else if ¬ s.deadTimePassed p then 0
  else if s.plsNow p then 1 else 2

/-- Whether the stage logic forces a leg, in the sense of R104 (R160, R191, R233). -/
def State.legForced (s : State) (p : Nat) : Bool :=
  (s.chan p).drive != .driven || ((s.chan p).awaiting && s.owner p < 2 && s.mode (s.owner p) == 1)

/-- The guard of output `o` (0 compare, 1 phase shift) of a channel. -/
def State.guard (s : State) (p o : Nat) : Guard := tabGet (fun _ => {}) s.guards (2 * p + o)
def State.setGuard (s : State) (p o : Nat) (g : Guard) : State :=
  { s with guards := tabPut (fun _ => {}) s.guards (2 * p + o) g }

/-- Whether a guard is armed: loaded, and the owning stage neither Off nor forcing the leg (R141). -/
def State.guardArmed (s : State) (p o : Nat) : Bool := (s.guard p o).loaded && !s.legForced p

/-- The limit of a guard counts from now (R140, R141). -/
def State.rearm (s : State) (p o : Nat) : State :=
  let g := s.guard p o
  if g.loaded then s.setGuard p o { g with base := s.now, acted := 0, done := false } else s

/-- The stage logic sets the drive of a leg; leaving a forced state, the leg stays off until its first apply or drive
value, and its guards count from now (R160, R191, R233). -/
def State.driveLeg (s : State) (p : Nat) (d : LegDrive) : State :=
  let c := s.chan p
  let s := s.setChan p { c with
    drive := d, awaiting := if d = .driven then (if c.drive = .driven then c.awaiting else true) else true
    enAt := if d = c.drive then c.enAt else s.eu }
  if d = .driven ∧ c.drive ≠ .driven then (s.rearm p 0).rearm p 1 else s

/-- The first apply or drive value of a driven leg: its EN rises. -/
def State.legDrives (s : State) (p : Nat) : State :=
  let c := s.chan p
  if c.drive = .driven ∧ c.awaiting then s.setChan p { c with awaiting := false, enAt := s.eu } else s

/-- Hold limit in units of 0.1 µs, 640 edge units each, saturated at 24 bits (R532). -/
def holdUnits (g : Guard) : Nat := satNat 24 ((g.tNum + 128000 * g.tDen) / (640 * g.tDen))

/-- A trip of a channel latches its leg off and captures the detection stamp (R262). -/
def State.latchLeg (s : State) (p prot : Nat) (soft : Bool) : State :=
  let s := (s.wr p Reg.XH.CH_STAT_PROT prot).wrB p Reg.XH.CH_STAT_LATCH true
  let s := s.wrStamp p Reg.XH.PROT_AT_L_STAMP Reg.XH.PROT_AT_H_STAMP s.now
  s.setChan p { s.chan p with
    soft := soft || (s.chan p).soft
    softStep := if soft ∧ ¬ isXh p then s.rd p Reg.IH.CFG_SOFT_STEP else (s.chan p).softStep }

/-- The device handle of output `o` (0 compare, 1 phase shift) of channel page `p` (R99). -/
def outputHandle (p o : Nat) : Nat := (if isXh p then 0x2000 + (p - 32) else 0x2020 + (p - 64)) + 0x100 * o

/-- Whether an enabled loop binds output `o` of a channel: its descriptor's output words name the handle (R118, R140). -/
def State.outputBound (s : State) (p o : Nat) : Bool :=
  s.loops.any fun e => e.2.state != .disabled && !e.2.gone
    && (List.range 16).any fun k => bitsAt (e.2.desc.getD (17 + k / 2) 0) (16 * (k % 2)) 16 == outputHandle p o

/-- A guard whose output no enabled loop binds any longer is unloaded (R121, R140). -/
def State.dropGuard (s : State) (p o : Nat) : State := if s.outputBound p o then s else s.setGuard p o {}

/-- The owning stage enters Off: latches and TAKEN of its legs clear (R249, R262, R532). -/
def State.releaseLatches (s : State) (st : Nat) : State :=
  s.each (s.legs st) fun s p =>
    ((((s.wrB p Reg.XH.CH_STAT_LATCH false).wrB p Reg.CHAN.GUARD_TAKEN false).setChan p { s.chan p with soft := false }).dropGuard
      p 0).dropGuard p 1

/-- A charge-pump voltage of VM + 8 V or less for 10 µs: VCP_OK clears in every IH page (R255). -/
def State.chargePumpLow (s : State) : State :=
  if s.rdB (pgIH 0) Reg.IH.CH_STAT_VCP_OK then
    (s.each ihPages fun s p => s.wrB p Reg.IH.CH_STAT_VCP_OK false).reportTp .c 0x4F (pgIH 0) 3
  else s

/-- The charge pump is within range again (R255). -/
def State.chargePumpOk (s : State) : State :=
  s.each ihPages fun s p => s.wrB p Reg.IH.CH_STAT_VCP_OK true

/-- Suppression of the high side while BST_LOW holds and refresh is disabled (R257). -/
def State.suppression (s : State) (p : Nat) : State :=
  let supp := s.rdB p Reg.IH.CH_STAT_BST_LOW && !s.rdB p Reg.IH.CFG_REF_EN
  let was := s.rdB p Reg.IH.CH_STAT_HS_SUPP
  let s := s.wrB p Reg.IH.CH_STAT_HS_SUPP supp
  if supp ∧ ¬ was then s.reportTp .c 0x4F p 2 else s

/-- The bootstrap comparator of IH channel page `p`: below 8.5 V, or above 9.0 V again (R256, R257). -/
def State.bootstrap (s : State) (p : Nat) (low : Bool) : State :=
  let s := s.wrB p Reg.IH.CH_STAT_BST_LOW low
  let refresh := low && s.rdB p Reg.IH.CFG_REF_EN
  let c := s.chan p
  let s := s.setChan p { c with
    refreshAt := if refresh then (if c.refreshAt.isSome then c.refreshAt else some (stampAdd s.now 4)) else none
    refreshed := c.refreshed && refresh }
  s.suppression p

/-- A refresh pulse of 400 ns, when it is due and the high side is on (R256). -/
def State.refreshPulse (s : State) (p : Nat) : State :=
  let c := s.chan p
  if c.refreshAt.any (· ≤ s.now) ∧ s.rdB p Reg.IH.CH_STAT_BST_LOW ∧ s.rdB p Reg.IH.CFG_REF_EN ∧ s.enLevel p ∧ s.plsNow p
      ∧ ¬ s.latched p then
    let s := s.setChan p { c with
      refreshEnd := stampAdd s.now 128, refreshed := true
      refreshAt := some (stampAdd s.now (usTicks (max 10 (s.rd p Reg.IH.BOOT_REF_INT)))) }
    let s := s.count p Reg.IH.REF_CNT_COUNT
    if c.refreshed then s else s.reportTp .c 0x4F p 1
  else s

/-- A transition on the pins of an integrated channel (R252). -/
def State.pinTransition (s : State) (p : Nat) (pls en : Bool) : State :=
  let old := (s.rdB p Reg.IH.CH_STAT_PIN_PLS, s.rdB p Reg.IH.CH_STAT_PIN_EN)
  let s := (s.wrB p Reg.IH.CH_STAT_PIN_PLS pls).wrB p Reg.IH.CH_STAT_PIN_EN en
  if (s.chan p).drive = .pins ∧ old ≠ (pls, en) then s.setChan p { s.chan p with pinAt := s.eu } else s

/-- A change of level of XHnn_FLT_N (R265). -/
def State.fltPin (s : State) (p : Nat) (low : Bool) : State :=
  let c := s.chan p
  let s := s.wrB p Reg.XH.CH_STAT_FLT_PIN low
  s.setChan p { c with fltLow := if low then (if c.fltLow.isSome then c.fltLow else some s.now) else none }

/-- Whether a low FLT_N is masked now: STO open, the owning stage Off, or within 100 µs of STO closing (R265). -/
def State.fltMasked (s : State) (p : Nat) : Bool :=
  s.stoOpen || s.stageOff (s.owner p) || !s.passed s.sto.closedAt (usTicks 100)

/-- The instant from which the fault filter of an XH channel counts: the pin's fall, or the end of masking (R265). -/
def State.fltFrom (s : State) (p : Nat) : Option Nat :=
  (s.chan p).fltLow.map fun t =>
    max t (max (s.stage (s.owner p)).leftOffAt (stampAdd s.sto.closedAt (usTicks 100)))

/-- Whether a driver fault stands: an enabled, unmasked low level longer than FLT_FILT × 50 ns (R265). -/
def State.driverFaultDue (s : State) (p : Nat) : Bool :=
  s.rdB p Reg.XH.CFG_FLT_EN && !s.fltMasked p
    && (s.fltFrom p).any (fun t => t + 16 * s.rd p Reg.XH.CFG_FLT_FILT < s.now)

/-- A committed change of owner: the leg has both switches off, its guards are disarmed, and SUBST, TAKEN and WRITER.VALID
clear (R531, R532). -/
def State.ownerChanged (s : State) (p : Nat) : State :=
  let s := s.driveLeg p .off
  let s := (s.setGuard p 0 {}).setGuard p 1 {}
  ((s.wr p Reg.CHAN.GUARD_SUBST 0).wrB p Reg.CHAN.GUARD_TAKEN false).wrB p Reg.CHAN.WRITER_VALID false

end Sys2Proof.Machine
end

