-- ==== Sys2Proof/Machine/StageBase.lean ====
section
/-! DEFINITION. What every kind of stage shares: modes, leg codes, periods, samples of its analogue inputs, and the
stage-input view (R155, R159, R187, R190, R229, R232, R248, R403, R527). -/

namespace Sys2Proof.Machine

/-- The domain of a stage (R6). -/
abbrev isTraction (st : Nat) : Bool := st < 2
abbrev isConversion (st : Nat) : Bool := 2 ≤ st && st < 6
abbrev isActuation (st : Nat) : Bool := 6 ≤ st && st < 10

/-- The handle of analogue input `n` (R99). -/
abbrev ainHandle (n : Nat) : Nat := 0x1000 + n

/-- What acquisition last delivered under a handle. -/
def State.sample (s : State) (h : Nat) : Sample := tabGet (fun _ => {}) s.samples h
def State.setSample (s : State) (h : Nat) (x : Sample) : State :=
  { s with samples := tabPut (fun _ => {}) s.samples h x }

/-- Whether analogue input `n` has failed (R288). -/
def State.ainFailed (s : State) (n : Nat) : Bool := bitOf (s.rd (pgSA (n / 16)) Reg.SA.IN_FAIL_IN) (n % 16)

/-- Whether analogue input `n` has a sample, measured or predicted (R100). -/
def State.ainHas (s : State) (n : Nat) : Bool := n < 96 && (s.sample (ainHandle n)).valid && !s.ainFailed n

/-- Whether the latest sample of analogue input `n` was measured. -/
def State.ainMeasured (s : State) (n : Nat) : Bool := s.ainHas n && !(s.sample (ainHandle n)).skp

/-- The latest value of analogue input `n`; 0 where it has none or is unbound (assumption 22). -/
def State.ainValue (s : State) (n : Nat) : Word := if s.ainHas n then (s.sample (ainHandle n)).value else 0

/-- A speed in rpm from rad/s, and back: one product each with 30/π and π/30 in binary32 (assumption 23). -/
def rpmOfRad (w : Word) : Word := fmul w 0x4118C9EB
def radOfRpm (w : Word) : Word := fmul w 0x3DD67750

/-- Whether |w| ≤ n, |w| ≥ n and |w| > n for a whole number n; all false of a NaN. -/
def magLe (w : Word) (n : Nat) : Bool := fpLe (fpAbs w) (fpOfInt n)
def magGt (w : Word) (n : Nat) : Bool := fpLt (fpOfInt n) (fpAbs w)

/-- Whether a is above p percent of b, exactly. -/
def abovePercent (a : Word) (p : Nat) (b : Word) : Bool :=
  !fpIsNaN a && !fpIsNaN b && decide ((p : Int) * fpFixed b < 100 * fpFixed a)

/-- Writes the mode of a stage, its STATE and the instants the stage logic counts from; a change that the stage logic makes
by itself sets agreement event 4 (R187, R504). -/
def State.setMode (s : State) (st m : Nat) (host : Bool := false) : State :=
  let old := s.mode st
  let x := s.stage st
  let s := (s.wr (pgSG st) Reg.SGT.STAT_MODE m).wr (pgSG st) Reg.SGT.STAT_STATE (if m = 0 then 0 else 2)
  let s := s.wr (pgSG st) (Reg.SGW.IN_VALUE 0) m
  let s := s.setStage st { x with
    modeAt := if old = m then x.modeAt else s.now
    leftOffAt := if old = 0 ∧ m ≠ 0 then s.now else x.leftOffAt }
  if old = m ∨ host then s else s.agrEvent 4

/-- The field that reports the legs of a set; stages other than traction have one (R187, R229, R248). -/
def legsField (set : Nat) : Field := if set = 0 then Reg.SGT.STAT_LEGS_A else Reg.SGT.STAT_LEGS_B

/-- The leg code of a set without regard to STO. -/
def Stage.leg (x : Stage) (set : Nat) : Nat := if set = 0 then x.legA else x.legB

/-- Reports the leg codes: 3 while STO is open, but in SG5, which STO does not reach, and in a stage that follows the
pins (R160, R191, R227, R233, R263). -/
def State.showLegs (s : State) (st : Nat) : State :=
  let x := s.stage st
  let code (c : Nat) : Nat := if s.stoOpen ∧ st ≠ 5 ∧ ¬ (isActuation st ∧ c = 2) then 3 else c
  let s := s.wr (pgSG st) (legsField 0) (if st = 5 ∧ s.crowbar then 2 else code x.legA)
  if isTraction st then s.wr (pgSG st) (legsField 1) (code x.legB) else s

/-- The drive that a leg code asks of a leg of the stage: 0 driven, 1 off, 2 ASC in traction, low sides in SG5, the pins in
actuation (R160, R191, R233). -/
def State.codeDrive (s : State) (st code : Nat) : LegDrive :=
  if code = 0 then .driven
  else if code = 1 then .off
  else if isTraction st then (if s.rdB (pgSG st) Reg.SGT.TCFG_ASC_SIDE then .highOn else .lowOn)
  else if isActuation st then .pins
  else .lowOn

/-- Puts the legs of a set into the state of a leg code. -/
def State.setLegCode (s : State) (st set code : Nat) : State :=
  let x := s.stage st
  let s := s.setStage st (if set = 0 then { x with legA := code } else { x with legB := code })
  let d := s.codeDrive st code
  (s.each (s.setLegs st set) fun s p => s.driveLeg p d).showLegs st

/-- Puts all legs of a stage into the state of a leg code. -/
def State.setAllLegs (s : State) (st code : Nat) : State :=
  let s := s.setLegCode st 0 code
  if isTraction st then s.setLegCode st 1 code else s

/-- The timing of a set of a stage. -/
def Stage.timing (x : Stage) (set : Nat) : SetTiming := if set = 0 then x.a else x.b
def Stage.withTiming (x : Stage) (set : Nat) (t : SetTiming) : Stage := if set = 0 then { x with a := t } else { x with b := t }

/-- The instant at which the next period of set A, or of a stage with one set, starts: a period after the last start; the
first may start at any instant (assumption 24). -/
def nextStart (t : SetTiming) (now : Nat) : Nat := if t.started then t.start + t.period else now

/-- The instant at which set B's next period starts: with set A's, or half a period later (R155). -/
def State.nextStartB (s : State) (st : Nat) : Nat :=
  let x := s.stage st
  x.a.start + (if s.rdB (pgSG st) Reg.SGT.TCFG_B_CARRIER then x.a.period / 2 else 0)

/-- Starts a period of a set at edge-unit instant `at_`: PERIOD, SAMP and UPDATE are taken for it (R156, R403). -/
def State.startPeriod (s : State) (st set at_ : Nat) : State :=
  let x := s.stage st
  let t := x.timing set
  let s := s.setStage st (x.withTiming set {
    started := true, start := at_, prev := t.start, done := 0
    period := if set = 0 then s.periodReg st else x.a.period
    samp := if set = 0 then s.rd (pgSG st) Reg.SGT.SAMP_OFFSET else x.a.samp
    double := isTraction st && s.rdB (pgSG st) Reg.SGT.TCFG_UPDATE })
  s.each (s.setLegs st set) fun s p => s.legPeriodStart at_ p

/-- The edge-unit instant of the next sample of a set's period, none when all have passed (R156). -/
def SetTiming.nextSample (t : SetTiming) : Option Nat :=
  if ¬ t.started then none
  else if t.done = 0 then some (t.start + t.samp)
  else if t.done = 1 ∧ t.double then some (t.start + t.samp + t.period / 2)
  else none

/-- The next sample of a set has come due: it counts as passed. -/
def State.sampleTaken (s : State) (st set : Nat) : State :=
  let x := s.stage st
  let t := x.timing set
  s.setStage st (x.withTiming set { t with done := t.done + 1 })

/-- Stamps the stage inputs with the instant at which they were formed (R527). -/
def State.stampInputs (s : State) (st : Nat) : State :=
  s.wrStamp (pgSG st) Reg.SGW.IN_AT_L_STAMP Reg.SGW.IN_AT_H_STAMP s.now

/-- Stage input `k` and stage command `k` of a stage (R527). -/
def State.stageIn (s : State) (st k : Nat) : Word := s.word (pgSG st) (0x700 + 4 * k)
def State.setIn (s : State) (st k : Nat) (w : Word) : State := s.setWord (pgSG st) (0x700 + 4 * k) w
def State.stageCmd (s : State) (st k : Nat) : Word := s.word (pgSG st) (0x740 + 4 * k)

/-- A word register of a stage page. -/
def State.sgw (s : State) (st : Nat) (f : Field) : Word := s.word (pgSG st) f.off

/-- Records a refusal of a mode request: REFUSE and the class C fault of the domain (R163, R193, R235). -/
def State.refuse (s : State) (st reason : Nat) : State :=
  (s.wr (pgSG st) Reg.SGT.STAT_REFUSE reason).reportTp .c (if isTraction st then 0x40 else 0x50) (pgSG st)

/-- A request acts: REFUSE no longer keeps an earlier refusal (R163, R193). -/
def State.accept (s : State) (st : Nat) : State := s.wr (pgSG st) Reg.SGT.STAT_REFUSE 0

/-- Whether both stages of the other exclusive domain are Off (R8, R202). -/
def State.otherDomainOff (s : State) (st : Nat) : Bool :=
  if isTraction st then s.stageOff 2 && s.stageOff 3
  else if st = 2 ∨ st = 3 then s.stageOff 0 && s.stageOff 1
  else true

/-- Whether voting has been broken by debug, which keeps SG0 to SG3 Off (R321). -/
def State.broke (s : State) : Bool := s.rdB pgSUP Reg.SUP.STAT_DBG_BROKE

/-- Whether the device does not let a stage leave Off: outside RUN, and for SG0 to SG3 under the Break policy or while the
debug level OPEN in FIELD forces them Off (R321, R470, R475). -/
def State.heldOff (s : State) (st : Nat) : Bool :=
  s.rd pgPWR Reg.PWR.STAT_STATE != 0 || (decide (st < 4) && (s.broke || s.rdB pgDBG Reg.DBG.STAT_FORCED))

end Sys2Proof.Machine
end

