-- ==== Sys2Proof/Machine/Conversion.lean ====
section
/-! DEFINITION. The stage logic of SG2 to SG5: modes, reference ramp, trips, grid, pilot and proximity, phase shift, duty and
trims, and the crowbar (R190 to R231). -/

namespace Sys2Proof.Machine

/-- Edge units nearest `f` × `period`, ties to even, for `f` in units of 2^−64 (R102). -/
def euOfFixed (f : Int) (period : Nat) : Nat :=
  let p := (f * period).toNat
  let q := p / 2 ^ 64
  let r := p % 2 ^ 64
  if 2 ^ 63 < r ∨ (r = 2 ^ 63 ∧ q % 2 = 1) then q + 1 else q

/-- A duty clamped to 0 to 1, in edge units of a period (R102). -/
def dutyEu (w : Word) (period : Nat) : Nat := euOfFixed (clampInt 0 (2 ^ 64) (fpFixed w)) period

/-- A fraction reduced modulo 1 to its non-negative remainder, in edge units; a result equal to the period counts as 0
(R102). -/
def phaseEu (w : Word) (period : Nat) : Nat :=
  let e := euOfFixed (fpFixed w % 2 ^ 64) period
  if period ≤ e then 0 else e

/-- Delay, Ramp, Run or Stop. -/
def State.convActive (s : State) (st : Nat) : Bool := 1 ≤ s.mode st && s.mode st ≤ 4

/-- Ramp, Run or Stop. -/
def State.convDriven (s : State) (st : Nat) : Bool := 2 ≤ s.mode st && s.mode st ≤ 4

/-- REF_EFF of a stage (R197). -/
def State.refEff (s : State) (st : Nat) : Word := s.sgw st Reg.SGC.REF_EFF_VALUE
def State.setRef (s : State) (st : Nat) (w : Word) : State :=
  (s.setWord (pgSG st) Reg.SGC.REF_EFF_VALUE.off w).setIn st 2 w

/-- Stage input FLAGS (R228). -/
def State.convShow (s : State) (st : Nat) : State :=
  let p := pgSG st
  s.setIn st 1 (BitVec.ofNat 32 (bit (s.mode st == 4) + 2 * s.rd p Reg.SGC.STAT_EVSE_STOP + 4 * s.rd p Reg.SGC.STAT_GRID_OK
    + 8 * s.rd p Reg.SGC.STAT_S2 + 16 * s.rd p Reg.SGC.STAT_TRIM_SAT + 32 * s.rd p Reg.SGC.CCFG_BIDIR))

/-- Opens or closes CHG_S2 (R214). -/
def State.setS2 (s : State) (closed : Bool) : State := (s.wrB (pgSG 2) Reg.SGC.STAT_S2 closed).convShow 2

/-- The trims of SG5, with their register in units of 0.05 % duty (R223). -/
def State.setTrims (s : State) (ts : List Word) : State :=
  let s := s.setStage 5 { s.stage 5 with trims := ts }
  let unit (k : Nat) : Nat := bitsAt (fpToInt32 (fmul (ts.getD k 0) 0x44FA0000) false).w 0 8
  s.setWord (pgSG 5) Reg.SGC.TRIM_T0.off (BitVec.ofNat 32 (unit 0 + 2 ^ 8 * unit 1 + 2 ^ 16 * unit 2 + 2 ^ 24 * unit 3))

/-- Enters Stop: REF_EFF is held for DLY.STOP first (R200, R215). -/
def State.convStop (s : State) (st : Nat) (host : Bool := false) : State :=
  let s := s.setMode st 4 host
  (s.setStage st { s.stage st with stopHeld := true }).convShow st

/-- SG3 has reached Off or Trip: an SG2 that waits for it enters Stop (R215). -/
def State.releaseOffPend (s : State) : State :=
  if s.rdB (pgSG 2) Reg.SGC.STAT_OFF_PEND then
    (s.wrB (pgSG 2) Reg.SGC.STAT_OFF_PEND false).convStop 2
  else s

/-- Entry to Off (R230, R262); SG2 opens S2 (R214). -/
def State.convOff (s : State) (st : Nat) (host : Bool := false) : State :=
  let s := s.wrB (pgSG st) Reg.SGC.STAT_OFF_PEND false
  let s := (s.setMode st 0 host).setAllLegs st 1
  let s := (s.setRef st 0).when (st = 5) (·.setTrims [0, 0, 0, 0])
  let s := (s.releaseLatches st).when (st = 2) (·.setS2 false)
  (s.convShow st).when (st = 3) (·.releaseOffPend)

/-- The fault of a trip cause (R196). -/
def tripFault (cause : Nat) : Nat :=
  if cause = 1 then 0x54 else if cause = 2 then 0x51 else if cause = 3 then 0x52 else if cause = 4 then 0x53
  else if cause = 5 then 0x53 else if cause = 6 then 0x55 else if cause = 7 then 0x56 else if cause = 8 then 0x57
  else if cause = 9 then 0x5A else if cause = 10 then 0x58 else 0x5D

/-- A trip of one stage, by cause (R196). -/
def State.convTripOne (s : State) (st cause : Nat) : State :=
  let s := s.wr (pgSG st) Reg.SGC.TRIP_CAUSE cause
  let s := s.wrB (pgSG st) Reg.SGC.STAT_OFF_PEND false
  let s := (s.setMode st 5).setAllLegs st (if cause = 9 then 2 else 1)
  let s := ((s.setRef st 0).when (st = 2) (·.setS2 false)).convShow st
  (s.reportTp .u (tripFault cause) (pgSG st)).when (st = 3) (·.releaseOffPend)

/-- A trip of a stage that is in Delay, Ramp, Run or Stop; a trip of SG2 trips SG3 with cause 8 (R196, R215). -/
def State.convTrip (s : State) (st cause : Nat) : State :=
  if s.convActive st then
    let s := s.convTripOne st cause
    if st = 2 ∧ s.convActive 3 then s.convTripOne 3 8 else s
  else s

/-- The input sample of the last sample instant lies within VIN_MIN to VIN_MAX (R193, R219). -/
def State.vinOk (s : State) (st : Nat) : Bool :=
  let v := s.stageIn st 3
  fpLe (s.sgw st Reg.SGC.VIN_MIN_V) v && fpLe v (s.sgw st Reg.SGC.VIN_MAX_V)

/-- The pilot is in C, or in D with VENT_OK (R206, R208). -/
def State.pilotCharging (s : State) : Bool :=
  let c := s.rd pgCHG Reg.CHG.CP_STATE
  c == 2 || (c == 3 && s.rdB (pgSG 2) Reg.SGC.CCFG_VENT_OK)

/-- A condition of R214 that ends charging as pilot loss while it holds; state B with S2 closed counts on entry. -/
def State.pilotLost (s : State) : Bool :=
  let c := s.rd pgCHG Reg.CHG.CP_STATE
  let st := s.polderSt pdCHG
  c == 0 || c == 4 || c == 5 || c == 6 || (c == 3 && !s.rdB (pgSG 2) Reg.SGC.CCFG_VENT_OK)
    || !s.rdB pgCHG Reg.CHG.PP_CONN || st == .draining || st == .drained || st == .testing || st == .failed

/-- SG2 and SG3 trip with cause 6 at one instant (R195, R214). -/
def State.pilotLossTrip (s : State) : State := (s.convTrip 3 6).convTrip 2 6

/-- Trips on pilot loss where SG2 is charging (R214). -/
def State.pilotCheck (s : State) : State := if s.convActive 2 ∧ s.pilotLost then s.pilotLossTrip else s

/-- The cable current of the proximity band (R210). -/
def State.cableAmps (s : State) : Word :=
  let b := s.rd pgCHG Reg.CHG.PP_BAND
  if ¬ s.rdB pgCHG Reg.CHG.PP_CONN then 0
  else fpOfInt (if b = 1 then 13 else if b = 2 then 20 else if b = 3 then 32 else if b = 4 then 63 else 0)

/-- The target of I_LIM (R211). -/
def State.limitTarget (s : State) : Word :=
  fpMin (fpMin (s.word pgCHG Reg.CHG.I_PILOT_A.off) s.cableAmps) (s.sgw 2 Reg.SGC.CHG_LIM_A)

/-- Ticks as milliseconds, in binary32. -/
def msOfTicks (t : Nat) : Word := fpOfRatio t 320000

/-- Forms I_LIM: a fall at once, a rise at I_RISE (R211), and the record of what it was for R212. -/
def State.formLimit (s : State) : State :=
  let x := s.stage 2
  let old := s.sgw 2 Reg.SGC.I_LIM_A
  let tgt := s.limitTarget
  let rise := fadd old (fmul (s.sgw 2 Reg.SGC.I_RISE_A_S) (fpOfRatio (ticksSince x.limAt s.now) 320000000))
  let new := if fpLt old tgt then fpMin tgt rise else tgt
  let s := (s.setWord (pgSG 2) Reg.SGC.I_LIM_A.off new).setIn 2 5 new
  -- an entry is the instant a value ended and the value; those that ended more than 5 s ago are forgotten
  let kept := x.limits.filter (fun e => ticksSince e.1 s.now ≤ 1600000000)
  s.setStage 2 { x with limAt := s.now, limits := if new = old then kept else (s.now, old) :: kept }

/-- The largest I_LIM of the last 5 s (R212). -/
def State.limitMax (s : State) : Word :=
  ((s.stage 2).limits.filter (fun e => ticksSince e.1 s.now ≤ 1600000000)).foldl (fun m e => fpMax m e.2)
    (s.sgw 2 Reg.SGC.I_LIM_A)

/-- Off with FAST 0 of a stage in Ramp or Run, the rule of R215 for SG2 included (R194, R200). -/
def State.convOffSlow (s : State) (st : Nat) (host : Bool := false) : State :=
  if st = 2 ∧ s.mode 3 ≠ 0 ∧ s.mode 3 ≠ 5 then
    let s := (s.wrB (pgSG 2) Reg.SGC.STAT_OFF_PEND true).convShow 2
    if s.mode 3 = 1 then s.convOff 3 host
    else if s.mode 3 = 4 then s
    else s.convStop 3 host
  else s.convStop st host

/-- The charging station withdraws: the target of I_LIM is 0 with the pilot in C or D (R214). -/
def State.stationStop (s : State) : State :=
  let c := s.rd pgCHG Reg.CHG.CP_STATE
  if (s.mode 2 = 2 ∨ s.mode 2 = 3) ∧ (c = 2 ∨ c = 3) ∧ fpLe s.limitTarget 0 ∧ ¬ s.rdB (pgSG 2) Reg.SGC.STAT_EVSE_STOP then
    let s := s.wrB (pgSG 2) Reg.SGC.STAT_EVSE_STOP true
    let s := if s.mode 3 = 0 then s else s.wrB (pgSG 3) Reg.SGC.STAT_EVSE_STOP true
    let s := s.reportTp .c 0x59 (pgSG 2)
    (s.convOffSlow 2).convShow 3
  else s

/-- What a rate gives over an interval of ticks (R197). -/
def rateOver (rate : Word) (ticks : Nat) : Word := fmul rate (msOfTicks ticks)

/-- One step of a reference toward a goal: at most `up` and `dn` (R197). -/
def rampStep (ref goal up dn : Word) : Word := 
  let d := fsub goal ref
  if fpLe (fpNeg dn) d ∧ fpLe d up then goal else fadd ref (fpMin (fpMax d (fpNeg dn)) up)

/-- A commit is about to change a rate of a stage: what the old rates give up to now is kept (R197). -/
def State.ratesChange (s : State) (st : Nat) (up dn : Word) : State :=
  let x := s.stage st
  let dt := ticksSince (max x.rateFrom x.lastInstant) s.now
  s.setStage st { x with
    rateFrom := s.now, accUp := fadd x.accUp (rateOver up dt), accDn := fadd x.accDn (rateOver dn dt) }

/-- The rise and fall that a stage's rates allow at this sample instant, and the instant as the new last one (R197). -/
def State.rampAllowance (s : State) (st : Nat) (up dn : Word) : (Word × Word) × State :=
  let x := s.stage st
  let dt := ticksSince (max x.rateFrom x.lastInstant) s.now
  ((fadd x.accUp (rateOver up dt), fadd x.accDn (rateOver dn dt)),
    s.setStage st { x with lastInstant := s.now, accUp := 0, accDn := 0 })

/-- Forms REF_EFF at a sample instant in Ramp, Run or Stop (R197, R200). -/
def State.formRef (s : State) (st : Nat) : State :=
  let r := s.rampAllowance st (s.sgw st Reg.SGC.RAMP_UP_RATE) (s.sgw st Reg.SGC.RAMP_DN_RATE)
  let s := r.2
  let hold := s.mode st == 4 && ((s.stage st).stopHeld || st == 2)
  let goal := if s.mode st = 4 then s.sgw st Reg.SGC.STOP_LVL_VALUE else s.sgw st Reg.SGC.REF_TGT_VALUE
  if hold then s else s.setRef st (rampStep (s.refEff st) goal r.1.1 r.1.2)

/-- The transitions that the reference makes: Ramp to Run, and the end of Stop (R194, R200). -/
def State.refTransitions (s : State) (st : Nat) : State :=
  if s.mode st = 2 ∧ fpEq (s.refEff st) (s.sgw st Reg.SGC.REF_TGT_VALUE) then (s.setMode st 3).convShow st
  else if s.mode st = 4 ∧ st ≠ 2 ∧ ¬ (s.stage st).stopHeld ∧ fpEq (s.refEff st) (s.sgw st Reg.SGC.STOP_LVL_VALUE) then
    s.convOff st
  else s

/-- Counts the violations of the input window and of OUT_OV at a sample instant (R196). -/
def State.windowCounts (s : State) (st : Nat) : State :=
  let x := s.stage st
  let inBad := st ≠ 2 ∧ s.convDriven st ∧ ¬ s.vinOk st
  let outBad := s.convActive st ∧ fpLt (s.sgw st Reg.SGC.OUT_OV_V) (s.stageIn st 4)
  s.setStage st { x with
    inBad := if inBad then x.inBad + 1 else 0, outBad := if outBad then x.outBad + 1 else 0 }

/-- The samples of the stage's input and output, taken as stage inputs (R228). -/
def State.convSamples (s : State) (st : Nat) : State :=
  let p := pgSG st
  (s.setIn st 3 (s.ainValue (s.rd p Reg.SGC.SRC_VIN))).setIn st 4 (s.ainValue (s.rd p Reg.SGC.SRC_VOUT))

/-- A sample instant of SG2 to SG5: the first cause in R195's order, else the ramp (R195 to R200, R211, R214). -/
def State.convSample (s : State) (st : Nat) : State :=
  let s := (s.convSamples st).windowCounts st
  let s := if st = 2 then s.formLimit else s
  let x := s.stage st
  let s :=
    if 4 ≤ x.inBad then s.convTrip st 2
    else if 2 ≤ x.outBad then s.convTrip st 3
    else if st = 2 ∧ s.convActive 2 ∧ s.pilotLost then s.pilotLossTrip
    else
      let s := if st = 2 then s.stationStop else s
      if s.convDriven st then (s.formRef st).refTransitions st else s
  (s.convShow st).stampInputs st

/-- The start conditions of a stage in Delay (R206, R219). -/
def State.startConditions (s : State) (st : Nat) : Bool :=
  if st = 2 then
    let x := s.stage 2
    s.rdB (pgSG 2) Reg.SGC.STAT_GRID_OK && decide (max 1 (s.rd (pgSG 2) Reg.SGC.GRID_LOCK_N) ≤ x.lockRuns)
      && fpLe (fmul 0x3F666666 x.gridVpk) (s.stageIn 2 4) && s.pilotCharging
  else s.vinOk st && (if st = 3 then s.mode 2 == 3 else if st = 5 then !s.crowbar else true)

/-- START_DLY has elapsed and the start conditions hold: the stage enters Ramp from its start value (R194, R198, R218). -/
def State.delayEnd (s : State) (st : Nat) : State :=
  if isConversion st ∧ s.mode st = 1 ∧ s.passed (s.stage st).reqAt (usTicks (s.rd (pgSG st) Reg.SGC.DLY_START))
      ∧ s.startConditions st then
    let start := if st = 2 then s.stageIn 2 4
      else if st = 3 then 0
      else if s.rdB (pgSG st) Reg.SGC.CCFG_PREBIAS then s.stageIn st 4 else 0
    let s := (s.setMode st 2).setAllLegs st 0
    let s := s.setStage st { s.stage st with
      lastInstant := s.now, rateFrom := s.now, accUp := 0, accDn := 0, cmdAt := s.now, cmdSeen := false, inBad := 0
      stopHeld := false }
    (s.setRef st start).convShow st
  else s

/-- The start timeout of a stage in ms (R196). -/
def startTimeoutMs (st : Nat) : Nat := if st = 2 then 10000 else if st = 3 then 1000 else 100

/-- The start conditions have not been met within the start timeout (R196). -/
def State.startTimeout (s : State) (st : Nat) : State :=
  if isConversion st ∧ s.mode st = 1 ∧ s.passed (s.stage st).reqAt (msTicks (startTimeoutMs st)) then s.convTrip st 10 else s

/-- The stop hold ends: SG2 turns off, the others ramp to STOP_LVL (R200, R215). -/
def State.stopDelayEnd (s : State) (st : Nat) : State :=
  let x := s.stage st
  if isConversion st ∧ s.mode st = 4 ∧ x.stopHeld ∧ s.passed x.modeAt (usTicks (s.rd (pgSG st) Reg.SGC.DLY_STOP)) then
    if st = 2 then s.convOff 2 else s.setStage st { x with stopHeld := false }
  else s

/-- The stage command has not been applied for STALE.US (R218). -/
def State.staleCommand (s : State) (st : Nat) : State :=
  if 3 ≤ st ∧ st ≤ 5 ∧ s.convDriven st
      ∧ s.passed (s.stage st).cmdAt (usTicks (clampNat 1 1000 (s.rd (pgSG st) Reg.SGC.STALE_US))) then s.convTrip st 5
  else s

/-- Whether a frequency lies within GRID.FMIN to FMAX and every rms within GRID_VMIN to GRID_VMAX (R205). -/
def State.gridOk (s : State) (f : Word) (rms : List Word) : Bool :=
  let p := pgSG 2
  fpLe (fpOfInt (s.rd p Reg.SGC.GRID_FMIN)) f && fpLe f (fpOfInt (s.rd p Reg.SGC.GRID_FMAX))
    && rms.all fun v => fpLe (s.sgw 2 Reg.SGC.GRID_VMIN_V) v && fpLe v (s.sgw 2 Reg.SGC.GRID_VMAX_V)

/-- Whether a phase rms exceeds 1.1 × I_max + 1 A (R212). -/
def State.overCurrentRms (s : State) (irms : List Word) : Bool :=
  let lim := fadd (fmul 0x3F8CCCCD s.limitMax) fpOne
  irms.any fun i => fpLt lim i

/-- A complete grid period: presence and the input current of SG2 (R205, R212). -/
def State.gridPeriod (s : State) (rms irms : List Word) : State :=
  let f := s.sgw 2 Reg.SGC.GRID_F_HZ
  let ok := (s.stage 2).crossings.length == 4 && s.gridOk f rms
  let s := s.wrB (pgSG 2) Reg.SGC.STAT_GRID_OK ok
  let x := s.stage 2
  let exceeds := s.convDriven 2 && s.overCurrentRms irms
  let s := s.setStage 2 { x with gridSeen := x.gridSeen || ok, overRuns := if exceeds then x.overRuns + 1 else 0 }
  if exceeds ∧ 5 ≤ x.overRuns + 1 then s.convTrip 2 11 else s

/-- A zero crossing of VG phase a, with the rms of the voltages and currents and the line-to-line peak that the stage logic
measured over the last complete grid period (R205). Two crossings make a period. -/
def State.gridCrossing (s : State) (rms irms : List Word) (vpk : Word) : State :=
  let x := s.stage 2
  let cs := (s.now :: x.crossings).take 4
  let f := if cs.length = 4 then fpOfRatio 480000000 (ticksSince (cs.getD 3 0) s.now) else 0
  let s := (s.setWord (pgSG 2) Reg.SGC.GRID_F_HZ.off f).setIn 2 6 f
  let s := s.setStage 2 { x with crossings := cs, halfDone := !x.halfDone, gridVpk := if x.halfDone then vpk else x.gridVpk }
  if x.halfDone then ((s.setIn 2 7 vpk).gridPeriod rms irms).convShow 2 else s

/-- The grid is lost: no crossing for 30 ms, or not present for a complete period (R207). -/
def State.gridLoss (s : State) : State :=
  let x := s.stage 2
  let silent : Bool := match x.crossings with
    | t :: _ => s.passed t (msTicks 30)
    | [] => true
  if silent ∨ ¬ s.rdB (pgSG 2) Reg.SGC.STAT_GRID_OK then
    let s := if silent then (s.wrB (pgSG 2) Reg.SGC.STAT_GRID_OK false).convShow 2 else s
    if s.convDriven 2 ∨ (s.mode 2 = 1 ∧ x.gridSeen) then s.convTrip 2 7 else s
  else s

/-- Whether lo ≤ w ≤ hi. -/
def within (lo hi w : Word) : Bool := fpLe lo w && fpLe w hi

/-- The pilot state that one period's levels decode to (R208): codes of CHG.CP.STATE. -/
def pilotState (high low : Option Word) : Nat := match high with
  | some h =>
    if within 0x41300000 0x41500000 h then 0
    else if within 0x41000000 0x41200000 h then 1
    else if within 0x40A00000 0x40E00000 h then 2
    else if within 0x40000000 0x40800000 h then 3
    else if within 0xBF800000 0x3F800000 h then 4
    else 6
  | none => if low.any (within 0xC1500000 0xC1300000) then 5 else 6

/-- The pilot current of an accepted duty in 0.1 % (R209). -/
def State.pilotAmps (s : State) (d : Nat) : Word :=
  if d < 30 then 0
  else if d ≤ 70 then
    let hlc := s.word pgCHG Reg.CHG.HLC_LIM_A.off
    if s.rdB (pgSG 2) Reg.SGC.CCFG_HLC_EN ∧ fpKey hlc ≠ 0 then hlc else 0
  else if d < 80 then 0
  else if d < 100 then fpOfInt 6
  else if d ≤ 850 then fpOfRatio (d * 6) 100
  else if d ≤ 960 then fpOfRatio ((d - 640) * 25) 100
  else if d ≤ 970 then fpOfInt 80
  else 0

/-- The value that `n` newest entries agree on. -/
def agreed (xs : List Nat) (n : Nat) : Option Nat :=
  if xs.length < n then none
  else match xs.take n with
    | v :: rest => if rest.all (· == v) then some v else none
    | [] => none

/-- One pilot period: its levels in volts, whether edges occurred in it, its length and high time in ticks (R208, R209,
R434). Entry to a state of pilot loss ends charging (R214). -/
def State.pilotPeriod (s : State) (high low : Option Word) (edges : Bool) (period highTime : Nat) : State :=
  if ¬ s.inService pdCHG then s
  else
    let pwm := edges && low.any (within 0xC1500000 0xC1300000) && decide (313600 ≤ period ∧ period ≤ 326400)
    let states := (pilotState high low :: s.pilot.states).take 3
    let duty := (2000 * highTime + period) / (2 * max 1 period)
    let duties := ((if pwm then some duty else none) :: s.pilot.duties).take 3
    let s := { s with pilot := { s.pilot with states := states, duties := duties } }
    let old : Nat := s.rd pgCHG Reg.CHG.CP_STATE
    let s : State := match agreed states 3 with
      | some c => s.wr pgCHG Reg.CHG.CP_STATE c
      | none => s
    let s := s.wrB pgCHG Reg.CHG.CP_PWM pwm
    let s : State := match high with | some h => s.setWord pgCHG Reg.CHG.CP_HIGH_V.off h | none => s
    let s : State := match low with | some l => s.setWord pgCHG Reg.CHG.CP_LOW_V.off l | none => s
    let ds := duties.filterMap id
    let accepted := ds.length == 3 && ds.all fun a => ds.all fun b => decide (a ≤ b + 5)
    let s := if ¬ pwm then s.setWord pgCHG Reg.CHG.I_PILOT_A.off 0
      else if accepted then
        (s.wr pgCHG Reg.CHG.CP_DUTY (min 1000 duty)).setWord pgCHG Reg.CHG.I_PILOT_A.off (s.pilotAmps duty)
      else s
    let new : Nat := s.rd pgCHG Reg.CHG.CP_STATE
    if new ≠ old ∧ s.convActive 2 ∧ new = 1 ∧ s.rdB (pgSG 2) Reg.SGC.STAT_S2 then s.pilotLossTrip
    else if new ≠ old then s.pilotCheck else s

/-- The band of a proximity resistance (R210): codes of CHG.PP.BAND. -/
def proximityBand (r : Word) : Nat :=
  if within 0x44960000 0x44E10000 r then 1
  else if within 0x440C0000 0x444D0000 r then 2
  else if within 0x43340000 0x43870000 r then 3
  else if within 0x42A00000 0x42F00000 r then 4
  else if fpLt 0x458CA000 r then 0
  else 5

/-- A proximity measurement: V_pp and V33 in volts (R210, R435). -/
def State.proximity (s : State) (vpp v33 : Word) : State :=
  if ¬ s.inService pdCHG then s
  else
    let high := fpLe (fmul 0x3F7AE148 v33) vpp
    let r := if high then fpInf false else fdiv (fmul (s.word pgCHG Reg.CHG.PP_RPU_OHM.off) vpp) (fsub v33 vpp)
    let bands := ((if high then 0 else proximityBand r) :: s.pilot.bands).take 5
    let s := { s with pilot := { s.pilot with bands := bands } }
    let s := s.setWord pgCHG Reg.CHG.PP_R_OHM.off r
    match agreed bands 5 with
    | some b => ((s.wr pgCHG Reg.CHG.PP_BAND b).wrB pgCHG Reg.CHG.PP_CONN (decide (1 ≤ b ∧ b ≤ 4))).pilotCheck
    | none => s

/-- The charge-pilot polder's refill: decoding restarts (R40). -/
def State.pilotRestart (s : State) : State :=
  let s := { s with pilot := {} }
  ((s.wr pgCHG Reg.CHG.CP_STATE 7).wr pgCHG Reg.CHG.PP_BAND 0).wrB pgCHG Reg.CHG.PP_CONN false

/-- The reason to refuse a Run request from Off, 0 for none (R193). -/
def State.convRefusal (s : State) (st : Nat) : Nat :=
  let c := s.rd pgCHG Reg.CHG.CP_STATE
  if s.heldOff st then 4
  else if (st = 2 ∨ st = 3) ∧ ¬ s.otherDomainOff st then 1
  else if st ≠ 5 ∧ s.stoOpen then 5
  else if st = 2 ∧ ¬ (s.rdB pgCHG Reg.CHG.PP_CONN ∧ (c = 1 ∨ c = 2) ∧ s.rdB pgCHG Reg.CHG.CP_PWM
      ∧ fpLe (fpOfInt 6) s.limitTarget) then 6
  else if st = 3 ∧ s.mode 2 ≠ 3 then 7
  else if st ≠ 2 ∧ ¬ s.vinOk st then 8
  else if st = 5 ∧ s.crowbar then 9
  else 0

/-- Entry to Delay by a Run request (R194, R206, R223). -/
def State.enterDelay (s : State) (st : Nat) : State :=
  let s := s.wrB (pgSG st) Reg.SGC.STAT_EVSE_STOP false
  let s := s.setMode st 1 (host := true)
  let s := s.setStage st { s.stage st with
    reqAt := s.now, inBad := 0, outBad := 0, gridSeen := false, trimLogged := false, trimSatN := 0, overRuns := 0 }
  let s := if st = 5 then s.setTrims [0, 0, 0, 0] else s
  (if st = 2 then s.setS2 true else s).convShow st

/-- Whether a request for mode `m` passes R192 in the present mode. -/
def State.convAllowed (s : State) (st m : Nat) : Bool :=
  let now := s.mode st
  (m == 0 || m == 3) && (now == m || (if now = 0 then m == 3 else if now = 5 then m == 0 else true))

/-- A mode request at its commit instant (R192 to R194, R200, R215). -/
def State.convRequest (s : State) (st m : Nat) (fast : Bool) : State :=
  let now := s.mode st
  if ¬ s.convAllowed st m then s.refuse st 4
  else if now = m then s.accept st
  else if m = 3 then
    if now = 0 then
      let reason := s.convRefusal st
      if reason ≠ 0 then s.refuse st reason else (s.accept st).enterDelay st
    else if now = 4 then
      let s := (s.accept st).setMode st 2 (host := true)
      let s := s.wrB (pgSG st) Reg.SGC.STAT_EVSE_STOP false
      (s.setStage st { s.stage st with stopHeld := false }).convShow st
    else s.accept st
  else
    let s := s.accept st
    if now = 1 ∨ now = 5 ∨ fast then s.convOff st (host := true)
    else if now = 4 then s
    else s.convOffSlow st (host := true)

/-- PHI clamped to the stage's range (R217). -/
def State.clampPhi (s : State) (st : Nat) (w : Word) : Word :=
  let m := s.sgw st Reg.SGC.PHI_MAX_FRAC
  fpClamp w (if s.rdB (pgSG st) Reg.SGC.CCFG_BIDIR then fpNeg m else 0) m

/-- The compares of SG5 from DUTY and the trims (R222). -/
def State.applyDuty (s : State) (duty : Word) : State :=
  s.each (s.legs 5) fun s p =>
    let d := fpClamp (fadd duty ((s.stage 5).trims.getD (s.role p) 0)) 0 fpOne
    (s.latchCompare p (dutyEu d (s.legPeriod p)) s.now).legDrives p

/-- A stage command of a conversion stage is applied (R206, R217, R218, R222, R228). -/
def State.convCommand (s : State) (st k : Nat) : State :=
  let x := s.stage st
  let w := s.stageCmd st k
  if k ≠ 0 then s
  else if st = 2 then s.setStage 2 { x with lockRuns := if bitsAt w 0 1 = 1 then x.lockRuns + 1 else 0 }
  else
    let s := s.setStage st { x with cmdAt := s.now, cmdSeen := true, phi := s.clampPhi st w }
    if st = 5 then s.applyDuty w else s

/-- The bridges of SG3 and SG4 at a primary period start: duty 0.5 and the four phases, PHI among them (R216, R217). -/
def State.bridgePeriod (s : State) (st start : Nat) : State :=
  let x := s.stage st
  let period := x.a.period
  s.each (s.legs st) fun s p =>
    let r := s.role p
    let base := if r < 2 then 0 else phaseEu x.phi period
    let ph := (base + (if r % 2 = 1 then period / 2 else 0)) % max 1 period
    let s := (s.wr p Reg.CHAN.COMPARE_EU (period / 2)).wr p Reg.CHAN.PHASE_EU ph
    let s := if x.cmdSeen then s.legDrives p else s
    s.beginLegPeriod p (start + ph)

/-- The interleaved phases of SG5 at a period start of phase 0 (R221). -/
def State.buckPeriod (s : State) (start : Nat) : State :=
  let period := (s.stage 5).a.period
  s.each (s.legs 5) fun s p =>
    let ph := s.role p * period / 4
    (s.wr p Reg.CHAN.PHASE_EU ph).beginLegPeriod p (start + ph)

/-- Whether all four phase currents of SG5 were measured since the trims were last updated (R223). -/
def State.buckMeasured (s : State) : Bool :=
  (List.range 4).all fun k =>
    let a := s.rd (pgSG 5) ⟨Reg.SGC.IPH_PH0.off, 8 * k, 7⟩
    s.ainMeasured a && !(s.sample (ainHandle a)).prd && decide ((s.stage 5).trimAt < (s.sample (ainHandle a)).stamp)

/-- The trims after one update (R223). -/
def trimUpdate (trims amps : List Word) (k : Word) : List Word :=
  let avg := fdiv (fadd (fadd (fadd (amps.getD 0 0) (amps.getD 1 0)) (amps.getD 2 0)) (amps.getD 3 0)) 0x40800000
  let t := (List.range 4).map fun j => fsub (trims.getD j 0) (fmul k (fsub (amps.getD j 0) avg))
  let m := fdiv (fadd (fadd (fadd (t.getD 0 0) (t.getD 1 0)) (t.getD 2 0)) (t.getD 3 0)) 0x40800000
  t.map fun v => fpClamp (fsub v m) 0xBD4CCCCD 0x3D4CCCCD

/-- Updates the trims and TRIM_SAT of SG5 at a period start of phase 0 (R223, R224). -/
def State.balance (s : State) : State :=
  let p := pgSG 5
  if ¬ s.rdB p Reg.SGC.CCFG_BAL_EN then s.setTrims [0, 0, 0, 0]
  else if ¬ s.buckMeasured then s
  else
    let amps := (List.range 4).map fun k => s.ainValue (s.rd p ⟨Reg.SGC.IPH_PH0.off, 8 * k, 7⟩)
    let avg := fdiv (fadd (fadd (fadd (amps.getD 0 0) (amps.getD 1 0)) (amps.getD 2 0)) (amps.getD 3 0)) 0x40800000
    let s := s.setStage 5 { s.stage 5 with trimAt := s.now }
    if ¬ fpLe (s.sgw 5 Reg.SGC.BAL_MIN_A) avg then s
    else
      let ts := trimUpdate (s.stage 5).trims amps (s.sgw 5 Reg.SGC.BAL_K_K)
      let s := s.setTrims ts
      let atLimit := ts.any fun t => t == 0x3D4CCCCD || t == 0xBD4CCCCD
      let x := s.stage 5
      let n := if atLimit then x.trimSatN + 1 else 0
      let s := s.setStage 5 { x with trimSatN := n }
      if ¬ atLimit then (s.wrB p Reg.SGC.STAT_TRIM_SAT false).convShow 5
      else if 64 ≤ n then
        let s := (s.wrB p Reg.SGC.STAT_TRIM_SAT true).convShow 5
        if x.trimLogged then s else (s.setStage 5 { s.stage 5 with trimLogged := true }).reportTp .c 0x5B p
      else s

/-- Whether the crowbar is armed: SG5 outside Off and CROWBAR non-zero (R225). -/
def State.crowbarArmed (s : State) : Bool := !s.stageOff 5 && fpKey (s.sgw 5 Reg.SGC.CROWBAR_V) != 0

/-- The crowbar fires: high sides off, low sides on and latched, Trip with cause 9; the fault carries the captured stamp
(R225). -/
def State.crowbarFire (s : State) : State :=
  if s.crowbarArmed then
    let p := pgSG 5
    let s := s.wrB p Reg.SGC.STAT_CB_LATCH true
    let s := s.wr p Reg.SGC.TRIP_CAUSE 9
    let s := (s.setMode 5 5).setAllLegs 5 2
    (((s.setRef 5 0).convShow 5)).reportTp .u 0x5A p
  else s

/-- The crowbar latch releases (R226). -/
def State.crowbarRelease (s : State) : State :=
  if s.crowbar then
    let s := s.wrB (pgSG 5) Reg.SGC.STAT_CB_LATCH false
    s.setAllLegs 5 (if s.stageOff 5 ∨ s.mode 5 = 5 then 1 else (s.stage 5).legA)
  else s

/-- A write of 1 to CB.CLR; `below` says that the comparator is below its threshold (R226). -/
def State.crowbarClear (s : State) (below : Bool) : State :=
  if s.crowbar ∧ s.stageOff 5 ∧ below then s.crowbarRelease else s.reportTp .c 0x5C (pgSG 5)

end Sys2Proof.Machine
end

