-- ==== Sys2Proof/Machine/Actuation.lean ====
section
/-! DEFINITION. The stage logic of SG6 to SG9: modes, speed reference, reversal, hold and pump curves (R232 to R249). -/

namespace Sys2Proof.Machine

/-- Run, Hold, ReversePending or Stop. -/
def State.actDriven (s : State) (st : Nat) : Bool := 1 ≤ s.mode st && s.mode st ≤ 4

/-- The speed reference in rpm (R240). -/
def State.spdEff (s : State) (st : Nat) : Word := s.sgw st Reg.SGA.SPD_EFF_RPM
def State.setSpdEff (s : State) (st : Nat) (w : Word) : State :=
  (s.setWord (pgSG st) Reg.SGA.SPD_EFF_RPM.off w).setIn st 2 (radOfRpm w)

/-- The speed in rpm, a NaN while unknown, and whether |n| ≤ `lim`, false while unknown (R239). -/
def State.actSpeed (s : State) (st : Nat) : Word := s.sgw st Reg.SGA.SPEED_RPM
def State.actSlow (s : State) (st lim : Nat) : Bool := magLe (s.actSpeed st) lim

/-- The target of Run (R232, R243). -/
def State.actTarget (s : State) (st : Nat) : Word :=
  let p := pgSG st
  if s.rdB p Reg.SGA.ACFG_TGT_SRC then
    let m := (s.stage st).curveTarget
    if s.rdB p Reg.SGA.ACFG_CDIR then fpNeg m else m
  else s.sgw st Reg.SGA.SPD_TGT_RPM

/-- The goal of SPD_EFF (R232). -/
def State.actGoal (s : State) (st : Nat) : Word :=
  if s.mode st = 1 ∧ ¬ s.rdB (pgSG st) Reg.SGA.STAT_HOLD_PEND then s.actTarget st else 0

/-- Stage inputs FLAGS, I_MAX and CURVE_IN (R247). -/
def State.actShow (s : State) (st : Nat) : State :=
  let p := pgSG st
  let f := bit (decide (fpKey (s.actGoal st) < 0)) + 2 * bit (s.mode st == 2) + 4 * s.rd p Reg.SGA.STAT_HOLD_PEND
    + 8 * s.rd p Reg.SGA.STAT_REV_PEND + 16 * s.rd p Reg.SGA.STAT_CURVE_ON + 32 * s.rd p Reg.SGA.STAT_FAILSAFE
    + 64 * bit (s.mode st == 4)
  ((s.setIn st 1 (BitVec.ofNat 32 f)).setIn st 4 (s.sgw st Reg.SGA.I_MAX_A)).setIn st 5 (s.sgw st Reg.SGA.CURVE_IN_X)

/-- The leg code of a mode (R232, R233). -/
def actLegCode (m : Nat) : Nat := if 1 ≤ m ∧ m ≤ 4 then 0 else if m = 7 then 2 else 1

/-- Enters a mode: legs, REV_PEND and HOLD_PEND follow (R232, R236). -/
def State.actEnter (s : State) (st m : Nat) (host : Bool := false) : State :=
  let p := pgSG st
  let s := (s.setMode st m host).setAllLegs st (actLegCode m)
  let s := (s.wrB p Reg.SGA.STAT_REV_PEND (m == 3)).wrB p Reg.SGA.STAT_HOLD_PEND false
  (if m = 0 ∨ m = 5 ∨ m = 6 then s.setSpdEff st 0 else s).actShow st

/-- Entry to Off (R249, R262). -/
def State.actOff (s : State) (st : Nat) (host : Bool := false) : State :=
  ((s.wrB (pgSG st) Reg.SGA.STAT_FAILSAFE false).actEnter st 0 host).releaseLatches st

/-- A trip of a stage outside Off, Trip and Ext, by cause (R236, R238). -/
def State.actTrip (s : State) (st cause : Nat) : State :=
  let m := s.mode st
  if m = 0 ∨ m = 5 ∨ m = 7 then s
  else
    let s := s.wr (pgSG st) Reg.SGA.TRIP_CAUSE cause
    (s.actEnter st 5).reportTp .u (tripFault cause) (pgSG st)

/-- The source selection of the stage: its lowest-numbered leg's (R236, R252). -/
def State.actSrc (s : State) (st : Nat) : Nat := match s.legs st with
  | p :: _ => s.rd p Reg.IH.CFG_SRC
  | [] => 0

/-- The Dike switches a stage with automatic source to its pins (R236, R252). -/
def State.switchToPins (s : State) (st : Nat) : State :=
  if s.actSrc st = 2 ∧ s.mode st ≠ 7 then s.actEnter st 7 else s

/-- Every actuation stage with automatic source goes to its pins (R252). -/
def State.pinSourceSwitch (s : State) : State := s.each [6, 7, 8, 9] State.switchToPins

/-- The points of the curve (R243). -/
def State.curveX (s : State) (st i : Nat) : Word := s.word (pgSG st) (0x140 + 4 * i)
def State.curveY (s : State) (st i : Nat) : Word := s.word (pgSG st) (0x180 + 4 * i)

/-- The magnitude the curve gives at x (R243). -/
def State.curveAtX (s : State) (st : Nat) (x : Word) : Word :=
  let n := clampNat 2 16 (s.rd (pgSG st) Reg.SGA.CURVE_NPTS)
  if fpLe x (s.curveX st 0) then s.curveY st 0
  else if fpLe (s.curveX st (n - 1)) x then s.curveY st (n - 1)
  else match (List.range (n - 1)).find? (fun i => fpLe (s.curveX st i) x && fpLt x (s.curveX st (i + 1))) with
    | some i =>
      fadd (s.curveY st i) (fdiv (fmul (fsub x (s.curveX st i)) (fsub (s.curveY st (i + 1)) (s.curveY st i)))
        (fsub (s.curveX st (i + 1)) (s.curveX st i)))
    | none => s.curveY st (n - 1)

/-- The curve input and whether it is valid (R243, R245); a CSRC of 2 or 3 is undefined and gives a free value. -/
def State.curveInput (s : State) (st : Nat) : (Word × Bool) × State :=
  let p := pgSG st
  let src := s.rd p Reg.SGA.ACFG_CSRC
  let ageMax := msTicks (s.rd p Reg.SGA.CURVE_T_AGE_MAX)
  let finite (w : Word) : Bool := fpIsFinite w
  if src = 0 then
    let a := s.rd p Reg.SGA.CURVE_AIN
    let x := s.ainValue a
    ((x, s.ainHas a && finite x && decide (ticksSince (s.sample (ainHandle a)).stamp s.now ≤ ageMax)), s)
  else if src = 1 then
    let n := s.rd p Reg.SGA.CURVE_SLOT
    let s := s.slotChecked n .engine
    let x := s.slotWord n 0
    let stamp := (s.slotWord n 1).toNat + 2 ^ 32 * (s.slotWord n 2).toNat
    ((x, bitsAt (s.slotWord n 3) 6 3 != 0 && finite x && decide (ticksSince stamp s.now ≤ ageMax)), s)
  else
    let r := s.drawWord
    ((r.1, finite r.1), r.2)

/-- Evaluates the curve; `start` at a Run request, where the state starts anew (R243 to R245). -/
def State.evalCurve (s : State) (st : Nat) (start : Bool) : State :=
  let p := pgSG st
  let r := s.curveInput st
  let x := r.1.1
  let s := r.2.setWord p Reg.SGA.CURVE_IN_X.off x
  let s := s.setStage st { s.stage st with curveAt := s.now }
  let was := s.rdB p Reg.SGA.STAT_FAILSAFE
  if ¬ r.1.2 then
    let s := (s.wrB p Reg.SGA.STAT_FAILSAFE true).wrB p Reg.SGA.STAT_CURVE_ON true
    let s := s.setStage st { s.stage st with curveTarget := s.sgw st Reg.SGA.FAIL_SPD_RPM }
    if was then s else s.reportTp .c 0x4D p
  else
    let on0 := s.rdB p Reg.SGA.STAT_CURVE_ON
    let turnsOn := fpLe (s.sgw st Reg.SGA.X_ON_X) x
    let on := if start then turnsOn else if on0 then !fpLe x (s.sgw st Reg.SGA.X_OFF_X) else turnsOn
    let s := (s.wrB p Reg.SGA.STAT_FAILSAFE false).wrB p Reg.SGA.STAT_CURVE_ON on
    s.setStage st { s.stage st with curveTarget := if on then s.curveAtX st x else 0 }

/-- Entry to Run from Off or Idle: SPD_EFF starts at n if the speed is known (R241). -/
def State.actRunFrom (s : State) (st : Nat) (host : Bool) : State :=
  let n := s.actSpeed st
  let s := s.actEnter st 1 host
  let s := s.setStage st { s.stage st with lastInstant := s.now, rateFrom := s.now, accUp := 0, accDn := 0 }
  (s.setSpdEff st (if fpIsNaN n then 0 else n)).actShow st

/-- Whether the curve of a stage is off. -/
def State.curveOff (s : State) (st : Nat) : Bool :=
  s.rdB (pgSG st) Reg.SGA.ACFG_TGT_SRC && !s.rdB (pgSG st) Reg.SGA.STAT_CURVE_ON

/-- A curve instant (R243). -/
def State.curveInstant (s : State) (st : Nat) : State :=
  let p := pgSG st
  let m := s.mode st
  let every := msTicks (clampNat 1 1000 (s.rd p Reg.SGA.CURVE_T_PERIOD))
  if isActuation st ∧ s.rdB p Reg.SGA.ACFG_TGT_SRC ∧ ((1 ≤ m ∧ m ≤ 4) ∨ m = 6) ∧ s.passed (s.stage st).curveAt every then
    let s := s.evalCurve st false
    if m = 6 ∧ s.rdB p Reg.SGA.STAT_CURVE_ON then s.actRunFrom st false else s.actShow st
  else s

/-- Forms SPD_EFF at a sample instant (R240): ACC limits a rise in magnitude, DEC a fall. -/
def State.formSpdEff (s : State) (st : Nat) : State :=
  let r := s.rampAllowance st (s.sgw st Reg.SGA.ACC_RATE) (s.sgw st Reg.SGA.DEC_RATE)
  let s := r.2
  let ref := s.spdEff st
  let pos := decide (0 ≤ fpKey ref)
  s.setSpdEff st (rampStep ref (s.actGoal st) (if pos then r.1.1 else r.1.2) (if pos then r.1.2 else r.1.1))

/-- Whether the target opposes the rotation: both non-zero and of opposite sign (R241). -/
def State.targetOpposes (s : State) (st : Nat) : Bool :=
  let n := s.actSpeed st
  let t := s.actTarget st
  !fpIsNaN n && ((fpKey n < 0 && 0 < fpKey t) || (0 < fpKey n && fpKey t < 0))

/-- The transitions that speed and curve drive (R236). -/
def State.actTransitions (s : State) (st : Nat) : State :=
  let p := pgSG st
  let m := s.mode st
  let still := fpKey (s.spdEff st) = 0
  let slowHold := s.actSlow st (s.rd p Reg.SGA.REV_HOLD_SPD)
  let slowRev := s.actSlow st (s.rd p Reg.SGA.REV_REV_SPD)
  if s.rdB p Reg.SGA.STAT_HOLD_PEND ∧ still ∧ slowHold then s.actEnter st 2
  else if m = 1 ∧ ¬ s.rdB p Reg.SGA.STAT_HOLD_PEND ∧ s.targetOpposes st ∧ ¬ slowRev then s.actEnter st 3
  else if m = 3 ∧ (slowRev ∨ ¬ s.targetOpposes st) then
    let hold := s.rdB p Reg.SGA.STAT_HOLD_PEND
    ((s.actEnter st 1).wrB p Reg.SGA.STAT_HOLD_PEND hold).actShow st
  else if m = 1 ∧ s.curveOff st ∧ still then s.actEnter st 6
  else if m = 4 ∧ still ∧ slowHold then s.actOff st
  else s

/-- Whether the VM rail lies within VM_MIN to VM_MAX, as the last sample instant found it (R235, R238). -/
def State.vmOk (s : State) (st : Nat) : Bool :=
  let v := s.stageIn st 3
  fpLe (fpOfInt (s.rd (pgSG st) Reg.SGA.VM_WIN_VM_MIN)) v && fpLe v (fpOfInt (s.rd (pgSG st) Reg.SGA.VM_WIN_VM_MAX))

/-- A sample instant of SG6 to SG9 (R237, R238, R240, R241). -/
def State.actSample (s : State) (st : Nat) : State :=
  let s := s.setIn st 3 (s.word pgPWR Reg.PWR.VM_V.off)
  let x := s.stage st
  let m := s.mode st
  let bad := m ≠ 0 ∧ m ≠ 5 ∧ m ≠ 7 ∧ ¬ s.vmOk st
  let n := if bad then x.inBad + 1 else 0
  let s := s.setStage st { x with inBad := n }
  let s := if 4 ≤ n then s.actTrip st 2
    else if s.actDriven st then (s.formSpdEff st).actTransitions st
    else s
  (s.actShow st).stampInputs st

/-- STOP_TMO after entry to Stop (R236). -/
def State.actStopTimeout (s : State) (st : Nat) : State :=
  if isActuation st ∧ s.mode st = 4 ∧ s.passed (s.stage st).modeAt (msTicks (max 1 (s.rd (pgSG st) Reg.SGA.VM_WIN_STOP_TMO))) then
    s.actOff st
  else s

/-- The speed command has not been written for 10 ms (R239). -/
def State.actSpeedTimeout (s : State) (st : Nat) : State :=
  if isActuation st ∧ (s.stage st).speedAt.all (fun t => s.passed t (msTicks 10)) then
    s.setWord (pgSG st) Reg.SGA.SPEED_RPM.off qNaN
  else s

/-- Stage command SPEED is applied (R239). -/
def State.actCommand (s : State) (st k : Nat) : State :=
  if k = 0 then
    let w := s.stageCmd st 0
    let s := s.setStage st { s.stage st with speedAt := some s.now }
    s.setWord (pgSG st) Reg.SGA.SPEED_RPM.off (if fpIsNaN w then qNaN else rpmOfRad w)
  else s

/-- The reason to refuse a request to leave Off, 0 for none (R235). -/
def State.actRefusal (s : State) (st m : Nat) : Nat :=
  if s.heldOff st then 4
  else if s.stoOpen then 5
  else if ¬ s.vmOk st then 8
  else if m = 2 ∧ ¬ s.actSlow st (s.rd (pgSG st) Reg.SGA.REV_HOLD_SPD) then 10
  else 0

/-- A Run request acts from a mode that allows it (R236, R241, R243). -/
def State.actRun (s : State) (st : Nat) : State :=
  let p := pgSG st
  let m := s.mode st
  if m = 1 then (s.wrB p Reg.SGA.STAT_HOLD_PEND false).actShow st
  else if m = 0 ∧ s.actSrc st = 1 then s.actEnter st 7 true
  else if m = 6 then s
  else
    let s := if s.rdB p Reg.SGA.ACFG_TGT_SRC then s.evalCurve st true else s
    if m = 0 then (if s.curveOff st then s.actEnter st 6 true else s.actRunFrom st true) else s.actEnter st 1 true

/-- A Hold request acts from a mode that allows it (R236). -/
def State.actHold (s : State) (st : Nat) : State :=
  let m := s.mode st
  if m = 1 ∨ m = 3 then (s.wrB (pgSG st) Reg.SGA.STAT_HOLD_PEND true).actShow st
  else if m = 2 then s
  else
    let s := if m = 0 ∨ m = 6 then s.setStage st { s.stage st with lastInstant := s.now, rateFrom := s.now } else s
    s.actEnter st 2 true

/-- Whether a request for mode `m` passes R234 in the present mode. -/
def State.actAllowed (s : State) (st m : Nat) : Bool :=
  let now := s.mode st
  (m ≤ 2) && (now == m || (if now = 0 then m != 0 else if now = 5 ∨ now = 7 then m == 0 else true))

/-- A mode request at its commit instant (R234 to R236). -/
def State.actRequest (s : State) (st m : Nat) (fast : Bool) : State :=
  let now := s.mode st
  if ¬ s.actAllowed st m then s.refuse st 4
  else
    let reason := if now = 0 ∧ m ≠ 0 then s.actRefusal st m
      else if now = 6 ∧ m = 2 ∧ ¬ s.actSlow st (s.rd (pgSG st) Reg.SGA.REV_HOLD_SPD) then 10 else 0
    if reason ≠ 0 then s.refuse st reason
    else
      let s := s.accept st
      if m = 1 then s.actRun st
      else if m = 2 then s.actHold st
      else if now = 0 then s
      else if 1 ≤ now ∧ now ≤ 3 ∧ ¬ fast then s.actEnter st 4 true
      else if now = 4 ∧ ¬ fast then s
      else s.actOff st (host := true)

end Sys2Proof.Machine
end

