-- ==== Sys2Proof/Machine/Traction.lean ====
section
/-! DEFINITION. The traction stage logic of SG0 and SG1: speed, position sources, torque path, current checks, the speed
rule, modes and requests (R154 to R189). What opens STO is in Stages.lean. -/

namespace Sys2Proof.Machine

/-- SafeStop's phase: true in DECEL. -/
def State.decel (s : State) (st : Nat) : Bool := s.mode st == 7 && !s.rdB (pgSG st) Reg.SGT.STAT_SS_PHASE

/-- Catch, Run, ReversePending or Degraded. -/
def State.runningMode (s : State) (st : Nat) : Bool := 1 ≤ s.mode st && s.mode st ≤ 4

/-- The modes in which the position must not be lost (R173). -/
def State.needsPosition (s : State) (st : Nat) : Bool := s.runningMode st || s.decel st

/-- The modes in which torque reaches the loops (R159). -/
def State.torqueMode (s : State) (st : Nat) : Bool := (2 ≤ s.mode st && s.mode st ≤ 4) || s.decel st

/-- The fields of each set. -/
def isoField (set : Nat) : Field := if set = 0 then Reg.SGT.ISO_CAUSE_A else Reg.SGT.ISO_CAUSE_B
def isoPhaseField (set : Nat) : Field := if set = 0 then Reg.SGT.ISO_PHASE_A else Reg.SGT.ISO_PHASE_B
def rphField (set : Nat) : Field := if set = 0 then Reg.SGT.ISO_RPH_A else Reg.SGT.ISO_RPH_B
def reconField (set : Nat) : Field := if set = 0 then Reg.SGT.STAT_RECON_A else Reg.SGT.STAT_RECON_B

/-- The AIN index of phase `k` of a set's currents, and of its terminal voltages (R174, R187). -/
def State.iphAin (s : State) (st set k : Nat) : Nat := s.rd (pgSG st) ⟨0x114 + 4 * set, 8 * k, 7⟩
def State.vtAin (s : State) (st set k : Nat) : Nat := s.rd (pgSG st) ⟨0x11C + 4 * set, 8 * k, 7⟩

/-- Whether a set is isolated (R183). -/
def State.isolated (s : State) (st set : Nat) : Bool := s.rd (pgSG st) (isoField set) != 0

/-- The checks of a set. -/
def Stage.chk (x : Stage) (set : Nat) : SetChecks := if set = 0 then x.chkA else x.chkB
def State.setChk (s : State) (st set : Nat) (c : SetChecks) : State :=
  let x := s.stage st
  s.setStage st (if set = 0 then { x with chkA := c } else { x with chkB := c })

/-- The stage speed in rpm as reported, a NaN while unknown; and whether it is known (R168). -/
def State.rpm (s : State) (st : Nat) : Word := s.sgw st Reg.SGT.SPEED_RPM
def State.speedKnown (s : State) (st : Nat) : Bool := !fpIsNaN (s.rpm st)

/-- Whether rotation opposes the direction `dir` (true negative): n is non-zero and of the other sign (R170). -/
def State.opposes (s : State) (st : Nat) (dir : Bool) : Bool :=
  s.speedKnown st && fpKey (s.rpm st) != 0 && decide (fpKey (s.rpm st) < 0) != dir

/-- Stage input FLAGS (R186). -/
def State.tracFlags (s : State) (st : Nat) : Nat :=
  let p := pgSG st
  let x := s.stage st
  bit x.dir + 2 * bit x.ctrl + 4 * bit (s.isolated st 0) + 8 * bit (s.isolated st 1)
    + 16 * s.rd p Reg.SGT.STAT_REV_PEND + 32 * s.rd p Reg.SGT.STAT_POS_LOST + 64 * bit (s.mode st == 1)
    + 128 * s.rd p Reg.SGT.STAT_RECON_A + 256 * s.rd p Reg.SGT.STAT_RECON_B + 512 * bit (s.decel st)

/-- Brings the inputs FLAGS and TQ_LIM up to date (R159, R183, R186). -/
def State.tracLimit (s : State) (st : Nat) : Word :=
  let tmax := s.sgw st Reg.SGT.TQ_MAX_NM
  if s.isolated st 0 ∨ s.isolated st 1 then fpMin tmax (fmul fpHalf (s.sgw st Reg.SGT.TQ_RATED_NM)) else tmax

def State.tracShow (s : State) (st : Nat) : State :=
  (s.setIn st 1 (BitVec.ofNat 32 (s.tracFlags st))).setIn st 3 (s.tracLimit st)

/-- Enters a mode: the leg codes of both sets, the SafeStop phase, REACT, OFF_PEND and REV_PEND follow (R159, R164). -/
def State.tracEnter (s : State) (st m legA legB : Nat) (hold : Bool := false) (react offPend revPend : Bool := false)
    (host : Bool := false) : State :=
  let p := pgSG st
  let was := s.torqueMode st
  let s := s.setMode st m host
  let s := s.wrB p Reg.SGT.STAT_SS_PHASE hold
  let s := s.wrB p Reg.SGT.STAT_REACT react
  let s := s.wrB p Reg.SGT.STAT_OFF_PEND offPend
  let s := s.wrB p Reg.SGT.STAT_REV_PEND revPend
  let x := s.stage st
  let s := s.setStage st { x with
    tqFrom := if was then x.tqFrom else s.now
    stillSince := none }
  ((s.setLegCode st 0 legA).setLegCode st 1 legB).tracShow st

/-- Entry to Off clears the latched stage state and the protection latches of its legs (R188, R262). -/
def State.tracOff (s : State) (st : Nat) (host : Bool := false) : State :=
  let p := pgSG st
  let s := s.wrB p Reg.SGT.STAT_POS_LOST false
  let s := (s.wrB p Reg.SGT.STAT_RECON_A false).wrB p Reg.SGT.STAT_RECON_B false
  let s := s.setWord p Reg.SGT.ISO_CAUSE_A.off 0
  let x := s.stage st
  let s := s.setStage st { x with
    chkA := {}, chkB := {}, lost := none, tqStale := none, excluded := 0, syncRuns := 0
    suppressed := false }
  (s.tracEnter st 0 1 1 (host := host)).releaseLatches st

/-- The ASC speed in rpm (R166). -/
def State.nAsc (s : State) (st : Nat) : Word := s.sgw st Reg.SGT.N_ASC_RPM

/-- The speed that the speed rule uses: the stage speed, or the last healthy one while it is unknown (R166, R182). -/
def State.ruleSpeed (s : State) (st : Nat) : Word :=
  if s.speedKnown st then s.rpm st else (s.stage st).goodSpeed

/-- The leg code the speed rule asks for: ASC at |n| ≥ n_asc, else off (R166). -/
def State.ruleCode (s : State) (st : Nat) : Nat :=
  if fpLe (s.nAsc st) (fpAbs (s.ruleSpeed st)) then 2 else 1

/-- The reaction: both sets are forced by the speed rule (R165, R166, R182). -/
def State.reaction (s : State) (st : Nat) : State :=
  let code := s.ruleCode st
  let s := s.tracEnter st (if code = 2 then 5 else 6) code code (react := true)
  let s := s.setStage st { s.stage st with reactAt := s.now }
  s.reportTp .u 0x47 (pgSG st)

/-- SafeStop phase HOLD: the legs are off, subject to automatic ASC (R159, R164). -/
def State.tracHold (s : State) (st : Nat) : State :=
  let s := s.setStage st { s.stage st with forcedLogged := false }
  s.tracEnter st 7 1 1 (hold := true) (react := s.rdB (pgSG st) Reg.SGT.STAT_REACT)

/-- Isolates a set, by cause: in Run and ReversePending the stage becomes Degraded, in Catch and DECEL it keeps its mode;
with both sets isolated a running stage reacts (R183, R184). -/
def State.isolate (s : State) (st set cause : Nat) : State :=
  let p := pgSG st
  if s.isolated st set ∨ s.stageOff st then s
  else
    let s := s.wr p (isoField set) cause
    let s := s.wr p (isoPhaseField set) (((s.stage st).chk set).vecFault)
    let s := s.reportTp .u 0x46 p
    if s.isolated st 0 ∧ s.isolated st 1 ∧ s.runningMode st then s.reaction st
    else if s.runningMode st ∨ s.decel st then
      let code := s.ruleCode st
      let s := if s.mode st = 2 ∨ s.mode st = 3 then s.setMode st 4 else s
      (s.setLegCode st set code).tracShow st
    else s.tracShow st

/-- Reconstructs phase `k` of a set from the other two (R179). -/
def State.reconstruct (s : State) (st set k : Nat) : State :=
  let p := pgSG st
  let s := s.wrB p (reconField set) true
  let s := s.wr p (rphField set) (k + 1)
  let s := s.setChk st set { (s.stage st).chk set with sumCount := 0, sumFault := false, vecFault := 0, vecCount := [0, 0, 0] }
  (s.reportTp .c 0x45 p).tracShow st

/-- Whether phase `k` of a set is the reconstructed one. -/
def State.isReconstructed (s : State) (st set k : Nat) : Bool := s.rd (pgSG st) (rphField set) == k + 1

/-- The current of a phase as the stage logic sees it: its sample, or for a reconstructed phase the negative sum of the
other two (R179). -/
def State.phaseCurrent (s : State) (st set k : Nat) : Word :=
  let v (j : Nat) := s.ainValue (s.iphAin st set j)
  if s.isReconstructed st set k then fpNeg (fadd (v ((k + 1) % 3)) (v ((k + 2) % 3))) else v k

/-- Whether a set has three phase-current sensors (R174). -/
def State.threeSensors (s : State) (st set : Nat) : Bool := s.iphAin st set 2 != 0x7F

/-- The phases of a set whose current is available. -/
def State.currentPhases (s : State) (st set : Nat) : List Nat :=
  (List.range 3).filter (fun k => s.isReconstructed st set k || s.ainHas (s.iphAin st set k))

/-- The sum check of a set at its sample instant (R176). -/
def State.sumCheck (s : State) (st set : Nat) : State :=
  let p := pgSG st
  let c := (s.stage st).chk set
  let ains := (List.range 3).map (s.iphAin st set)
  let fresh := ains.all fun a =>
    s.ainMeasured a && !(s.sample (ainHandle a)).prd && decide (c.sumAt < (s.sample (ainHandle a)).stamp)
  if s.threeSensors st set ∧ s.rd p (rphField set) = 0 ∧ fresh then
    let v (k : Nat) := s.ainValue (s.iphAin st set k)
    let bad := abovePercent (fpAbs (fadd (fadd (v 0) (v 1)) (v 2))) (s.rd p Reg.SGT.PLAUS_SUM_TRIP)
      (s.sgw st Reg.SGT.I_RATED_A)
    let n := if bad then c.sumCount + 1 else 0
    s.setChk st set { c with
      sumCount := n, sumFault := decide (max 1 (s.rd p Reg.SGT.PLAUS_SUM_N) ≤ n)
      sumAt := ((ains.map fun a => (s.sample (ainHandle a)).stamp).foldl max 0) }
  else s

/-- Whether the predicted amplitude of a set is below PLAUS_MIN % of I_RATED (R177). -/
def State.iampLow (s : State) (st set : Nat) : Bool :=
  let iamp := s.stageCmd st (11 + set)
  let p := s.rd (pgSG st) Reg.SGT.PLAUS_PLAUS_MIN
  decide (100 * fpFixed iamp < (p : Int) * fpFixed (s.sgw st Reg.SGT.I_RATED_A))

/-- A run of the current loop of a set has written its residuals and IAMP: the vector checks of its phases (R177). -/
def State.vectorCheck (s : State) (st set : Nat) : State :=
  if s.iampLow st set then s
  else
    let p := pgSG st
    let c := (s.stage st).chk set
    let iamp := s.stageCmd st (11 + set)
    let bad (k : Nat) := abovePercent (s.stageCmd st (5 + 3 * set + k)) (s.rd p Reg.SGT.PLAUS_VEC_TRIP) iamp
    let counts := (List.range 3).map fun k => if bad k then c.vecCount.getD k 0 + 1 else 0
    let need := max 1 (s.rd p Reg.SGT.PLAUS_VEC_N)
    s.setChk st set { c with
      vecCount := counts
      vecFault := (List.range 3).foldl (fun m k => if need ≤ counts.getD k 0 then m + 2 ^ k else m) 0 }

/-- The decision on the faults of a set that is driven (R178). -/
def State.setDecision (s : State) (st set : Nat) : State :=
  let c := (s.stage st).chk set
  let rph := s.rd (pgSG st) (rphField set)
  let three := s.threeSensors st set
  let vec := c.vecFault
  let nvec := countBits vec 3
  let failed := (List.range 3).filter fun k =>
    s.iphAin st set k != 0x7F && s.ainFailed (s.iphAin st set k) && rph != k + 1
  if s.isolated st set ∨ ¬ s.needsPosition st then s
  else match failed with
    | k :: rest => if three ∧ rph = 0 ∧ rest = [] then s.reconstruct st set k else s.isolate st set 1
    | [] =>
      if rph ≠ 0 then (if vec - (if bitOf vec (rph - 1) then 2 ^ (rph - 1) else 0) ≠ 0 then s.isolate st set 1 else s)
      else if ¬ three then (if vec ≠ 0 then s.isolate st set 1 else s)
      else if c.sumFault then
        if nvec = 1 ∧ ¬ s.iampLow st set then s.reconstruct st set ((List.range 3).findIdx (bitOf vec)) else s.isolate st set 3
      else if vec ≠ 0 then s.isolate st set 2
      else s

/-- Whether the stage logic finds a source healthy: 0 observer, 1 resolver, 2 encoder (R171). Below a known stage speed the
observer is judged by stage command SPEED (assumption 25). -/
def State.sourceOk (s : State) (st i : Nat) : Bool :=
  let p := pgSG st
  let n := if s.speedKnown st then s.rpm st else rpmOfRad (s.stageCmd st 3)
  if i = 0 then fpLe (fpOfInt (s.rd p Reg.SGT.OBS_SPD_OBS_MIN)) (fpAbs n)
      && decide ((s.stage st).obsLow < max 1 (s.rd p Reg.SGT.POSCHK_OBS_N))
  else if i = 1 then s.rdB (pgRD (s.rd p Reg.SGT.TCFG_RD_SEL)) Reg.RD.HEALTH_LOCKED
  else !s.rdB pgENC Reg.ENC.ESTAT_INVALID

/-- Whether a source is enabled, healthy for the loop and the stage logic, and not excluded (R171, R172). -/
def State.sourceHealthy (s : State) (st i : Nat) : Bool :=
  let p := pgSG st
  s.rdB p (if i = 0 then Reg.SGT.TCFG_OBS_EN else if i = 1 then Reg.SGT.TCFG_RD_EN else Reg.SGT.TCFG_ENC_EN)
    && bitOf (s.stageCmd st 1).toNat (2 + i) && !bitOf (s.stage st).excluded i && s.sourceOk st i

/-- The healthy sources. -/
def State.healthySources (s : State) (st : Nat) : List Nat := (List.range 3).filter (s.sourceHealthy st)

/-- TCFG.POS_PRI's order (R171). -/
def sourceOrder (pri : Nat) : List Nat :=
  if pri = 0 then [0, 1, 2] else if pri = 1 then [1, 0, 2] else if pri = 2 then [1, 2, 0] else [2, 1, 0]

/-- Updates POS_SEL and XCHK_SINGLE (R171, R172). POS_SEL is the first source healthy for the stage (assumption 26). -/
def State.selectSource (s : State) (st : Nat) : State :=
  let p := pgSG st
  let h := s.healthySources st
  let sel := ((sourceOrder (s.rd p Reg.SGT.TCFG_POS_PRI)).find? h.contains).getD 3
  let s := if sel = s.rd p Reg.SGT.STAT_POS_SEL then s else (s.wr p Reg.SGT.STAT_POS_SEL sel).reportTp .c 0x42 p
  let single := h.length == 1
  let was := s.rdB p Reg.SGT.STAT_XCHK_SINGLE
  let s := s.wrB p Reg.SGT.STAT_XCHK_SINGLE single
  if single ∧ ¬ was then s.reportTp .c 0x42 p else s

/-- Whether POS_HEALTH has not been written for four set A periods (R173). -/
def State.posStale (s : State) (st : Nat) : Bool :=
  let x := s.stage st
  let from_ := max (x.posAt.getD 0) x.leftOffAt
  x.a.started && decide (from_ * 20 + 4 * x.a.period ≤ s.eu)

/-- The stage logic declares the position lost where R173 says it is. -/
def State.positionLost (s : State) (st : Nat) : State :=
  let p := pgSG st
  let xchk := bitOf (s.stageCmd st 1).toNat 5
  if s.needsPosition st ∧ ¬ s.rdB p Reg.SGT.STAT_POS_LOST ∧ (s.healthySources st = [] ∨ xchk ∨ s.posStale st) then
    let s := if xchk then s.reportTp .u 0x44 p else s
    let s := (s.wrB p Reg.SGT.STAT_POS_LOST true).reportTp .u 0x43 p
    (s.setStage st { s.stage st with lost := some (s.now, s.sgw st Reg.SGT.TQ_EFF_NM) }).tracShow st
  else s

/-- LOSS_RAMP in ticks: units of 0.1 ms, 1 to 20 (R187). -/
def State.lossRamp (s : State) (st : Nat) : Nat := 32000 * clampNat 1 20 (s.rd (pgSG st) Reg.SGT.TIMES_LOSS_RAMP)

/-- The ramp after a position loss has ended: a running stage reacts (R182). -/
def State.lossRampEnd (s : State) (st : Nat) : State :=
  match (s.stage st).lost with
  | some (t, _) => if s.runningMode st ∧ s.passed t (s.lossRamp st) then s.reaction st else s
  | none => s

/-- TQ_CMD has not been written for TQ_STALE (R169). -/
def State.tqStaleTimeout (s : State) (st : Nat) : State :=
  let x := s.stage st
  if s.torqueMode st ∧ x.tqStale = none ∧ s.passed x.tqFrom (msTicks (max 1 (s.rd (pgSG st) Reg.SGT.TIMES_TQ_STALE))) then
    (s.setStage st { x with tqStale := some (s.now, s.sgw st Reg.SGT.TQ_EFF_NM) }).reportTp .u 0x4A (pgSG st)
  else s

/-- The stage speed of R168: command SPEED, or the frequency `zc` in Hz that the stage logic measured where its source
applies, or unknown. -/
def State.formSpeed (s : State) (st : Nat) (zc : Option Word) : State :=
  let p := pgSG st
  let x := s.stage st
  let cmd := s.stageCmd st 3
  let source1 := !s.rdB p Reg.SGT.STAT_POS_LOST && s.healthySources st != [] && !fpIsNaN cmd
  let bound := (List.range 2).any fun set => (List.range 3).all fun k => s.vtAin st set k != 0x7F
  let allowed := (x.legA = 2 ∧ ¬ s.stoOpen) ∨ ((x.legA = 1 ∨ s.stoOpen) ∧ bound)
  let rpm := if source1 then rpmOfRad cmd
    else match zc with
      | some f => if allowed then fdiv (fmul 0x42700000 f) (fpOfInt (max 1 (s.rd p Reg.SGT.TCFG_POLES))) else qNaN
      | none => qNaN
  let s := s.setWord p Reg.SGT.SPEED_RPM.off rpm
  s.setStage st { x with
    speedRad := if source1 then cmd else if fpIsNaN rpm then qNaN else radOfRpm rpm
    goodSpeed := if source1 then rpm else x.goodSpeed }

/-- The DC-link voltage: its sample, or UDC_NOM while that is not measured (R166). -/
def State.dcLink (s : State) (st : Nat) : Word :=
  let a := s.rd (pgSG st) Reg.SGT.UDC_SRC_AIN
  if a ≠ 0x7F ∧ s.ainMeasured a then s.ainValue a else s.sgw st Reg.SGT.UDC_NOM_V

/-- Forms n_asc: ASC_SPD, else 0.9 × u_dc / KE in rpm; 0 with both 0 (R166). -/
def State.formNAsc (s : State) (st : Nat) : State :=
  let p := pgSG st
  let spd := s.rd p Reg.SGT.ASC_SPD_RPM
  let ke := s.sgw st Reg.SGT.KE_KE
  let udc := s.dcLink st
  let rad := if spd ≠ 0 then radOfRpm (fpOfInt spd) else if fpKey ke = 0 then 0 else fdiv (fmul 0x3F666666 udc) ke
  let rpm := if spd ≠ 0 then fpOfInt spd else rpmOfRad rad
  (s.setWord p Reg.SGT.N_ASC_RPM.off rpm).setStage st { s.stage st with udc := udc, nascRad := rad }

/-- A value ramped linearly from `v0` to 0 over `ramp` ticks from stamp `t0` (R169). -/
def rampToZero (v0 : Word) (t0 now ramp : Nat) : Word :=
  let d := ticksSince t0 now
  if ramp ≤ d then 0 else fmul v0 (fpOfRatio ((ramp : Int) - d) ramp)

/-- Forms TQ_EFF (R169). -/
def State.formTorque (s : State) (st : Nat) : State :=
  let p := pgSG st
  let x := s.stage st
  let lim := s.tracLimit st
  let v := fpClamp (s.stageCmd st 0) (fpNeg lim) lim
  let braking := s.mode st == 3 || s.decel st || s.rdB p Reg.SGT.STAT_REV_PEND
  let n := s.rpm st
  let v := if braking ∧ ¬ (s.speedKnown st ∧ ((fpKey v < 0 ∧ 0 < fpKey n) ∨ (0 < fpKey v ∧ fpKey n < 0))) then 0 else v
  let v := match x.lost with
    | some (t, v0) => rampToZero v0 t s.now (s.lossRamp st)
    | none => match x.tqStale with
      | some (t, v0) => rampToZero v0 t s.now (s.lossRamp st)
      | none => v
  let v := if s.torqueMode st then v else 0
  (s.setWord p Reg.SGT.TQ_EFF_NM.off v).setIn st 2 v

/-- Forms the remaining stage inputs and stamps them all (R157, R186). -/
def State.tracInputs (s : State) (st : Nat) : State :=
  let x := s.stage st
  let s := s.setIn st 4 x.speedRad
  let s := s.setIn st 5 x.udc
  let s := s.setIn st 6 x.nascRad
  let s := s.setIn st 7 (if s.rdB (pgSG st) Reg.SGT.TCFG_SET_SHIFT then 0x3F060A92 else 0)
  (s.tracShow st).stampInputs st

/-- Whether f_e = |n| × POLES / 60 is above 2.5 kHz (R158). -/
def State.overspeedNow (s : State) (st : Nat) : Bool :=
  s.speedKnown st
    && decide (150000 * 2 ^ 64 < fpFixed (fpAbs (s.rpm st)) * (s.rd (pgSG st) Reg.SGT.TCFG_POLES : Nat))

/-- Whether |n| < 0.8 × n_asc (R167). -/
def State.belowRelease (s : State) (st : Nat) : Bool :=
  s.speedKnown st && decide (10 * fpFixed (fpAbs (s.rpm st)) < 8 * fpFixed (s.nAsc st))

/-- Updates the counts of the speed rule and of Catch for a set at its sample instant (R167, R180). -/
def State.ruleCounts (s : State) (st set : Nat) : State :=
  let p := pgSG st
  let x := s.stage st
  let c := x.chk set
  let cur := (s.currentPhases st set).map fun k => fpAbs (s.phaseCurrent st set k)
  let rect := x.leg set == 1 && cur.any (fun i => fpLt (s.sgw st Reg.SGT.FW_ITRIP_A) i)
  let calm := cur.all fun i => !fpIsNaN i && !abovePercent i (s.rd p Reg.SGT.CATCH_ITOL) (s.sgw st Reg.SGT.I_RATED_A)
  s.setChk st set { c with
    rectCount := if rect then c.rectCount + 1 else 0
    calmCount := if s.mode st = 1 ∧ calm then c.calmCount + 1 else 0
    slowSince := if x.leg set = 2 ∧ s.belowRelease st then (if c.slowSince.isSome then c.slowSince else some s.now) else none }

/-- Whether the speed rule turns an off set, or stage, to ASC (R167). -/
def State.ruleToAsc (s : State) (st : Nat) (sets : List Nat) : Bool :=
  (s.speedKnown st && fpLe (s.nAsc st) (fpAbs (s.rpm st))) || sets.any fun k => decide (2 ≤ ((s.stage st).chk k).rectCount)

/-- Whether the speed rule releases a set in ASC (R167). -/
def State.ruleToOff (s : State) (st set : Nat) : Bool :=
  s.belowRelease st && ((s.stage st).chk set).slowSince.any fun t => s.passed t 320000

/-- The first class C fault 0x4C of automatic ASC in Off or HOLD (R167). -/
def State.logForced (s : State) (st : Nat) : State :=
  if (s.stage st).forcedLogged then s
  else (s.setStage st { s.stage st with forcedLogged := true }).reportTp .c 0x4C (pgSG st)

/-- The speed rule on an isolated set of a stage whose other set is driven. -/
def State.ruleOnSet (s : State) (st set : Nat) : State :=
  if ¬ (s.isolated st set ∧ (s.runningMode st ∨ s.decel st)) then s
  else if (s.stage st).leg set = 1 ∧ s.ruleToAsc st [set] then s.setLegCode st set 2
  else if (s.stage st).leg set = 2 ∧ s.ruleToOff st set then s.setLegCode st set 1
  else s

/-- The changes between off and ASC that the speed rule makes (R167). -/
def State.speedRule (s : State) (st : Nat) : State :=
  let p := pgSG st
  let m := s.mode st
  let react := s.rdB p Reg.SGT.STAT_REACT
  let auto := s.rdB p Reg.SGT.TCFG_OFF_ASC && !s.stoOpen
  let s := (s.ruleOnSet st 0).ruleOnSet st 1
  let still := (s.stage st).stillSince
  let keep (s : State) : State := s.setStage st { s.stage st with stillSince := still }
  if m = 6 ∧ s.ruleToAsc st [0, 1] then
    if react then keep (s.tracEnter st 5 2 2 (react := true))
    else (s.tracEnter st 5 2 2).reportTp .c 0x4C p
  else if m = 5 ∧ s.ruleToOff st 0 then
    if react then keep (s.tracEnter st 6 1 1 (react := true))
    else if s.rdB p Reg.SGT.STAT_OFF_PEND then
      let logged := (s.stage st).forcedLogged
      let s := s.tracOff st
      s.setStage st { s.stage st with forcedLogged := logged }
    else s
  else if m = 0 ∧ auto then
    if s.ruleToAsc st [0, 1] then
      if s.otherDomainOff st then (s.tracEnter st 5 2 2 (offPend := true)).logForced st
      else if (s.stage st).suppressed then s
      else (s.setStage st { s.stage st with suppressed := true }).reportTp .u 0x49 p
    else s.setStage st { s.stage st with suppressed := false }
  else if m = 7 ∧ ¬ s.decel st ∧ auto then
    if (s.stage st).legA = 1 ∧ s.ruleToAsc st [0, 1] then (s.setAllLegs st 2).logForced st
    else if (s.stage st).legA = 2 ∧ s.ruleToOff st 0 then s.setAllLegs st 1
    else s
  else s

/-- Catch is synchronised, or speed has fallen for a pending reversal (R180, R181). -/
def State.speedDriven (s : State) (st : Nat) : State :=
  let p := pgSG st
  let x := s.stage st
  let need := max 1 (s.rd p Reg.SGT.CATCH_SYNC_N)
  let slow := magLe (s.rpm st) (s.rd p Reg.SGT.REV_REV_SPD)
  let calm := (List.range 2).all fun k => s.isolated st k || decide (need ≤ (x.chk k).calmCount)
  let legs (k : Nat) : Nat := x.leg k
  let iso := s.isolated st 0 || s.isolated st 1
  if s.mode st = 1 ∧ need ≤ x.syncRuns ∧ calm then
    if s.opposes st x.dir ∧ ¬ slow then s.tracEnter st 3 (legs 0) (legs 1) (revPend := true)
    else s.tracEnter st 2 (legs 0) (legs 1)
  else if (s.mode st = 2 ∨ s.mode st = 3) ∧ iso then
    s.tracEnter st 4 (legs 0) (legs 1) (revPend := s.rdB p Reg.SGT.STAT_REV_PEND)
  else if s.rdB p Reg.SGT.STAT_REV_PEND ∧ (s.mode st = 3 ∨ s.mode st = 4) ∧ slow then
    s.tracEnter st (if s.mode st = 3 then 2 else 4) (legs 0) (legs 1)
  else s.speedRule st

/-- The standstill timer of a reaction (R164). -/
def State.stillTimer (s : State) (st : Nat) : State :=
  let p := pgSG st
  let x := s.stage st
  let still := s.rdB p Reg.SGT.STAT_REACT && magLe (s.rpm st) (s.rd p Reg.SGT.REV_STILL)
  s.setStage st { x with stillSince := if still then (if x.stillSince.isSome then x.stillSince else some s.now) else none }

/-- A reaction ends: standstill for 10 ms, or REACT_TMAX (R164). -/
def State.reactionEnd (s : State) (st : Nat) : State :=
  let x := s.stage st
  let ends := x.stillSince.any (fun t => s.passed t (msTicks 10))
    || s.passed x.reactAt (msTicks 1000 * max 1 (s.rd (pgSG st) Reg.SGT.TIMES_REACT_TMAX))
  if (s.mode st = 5 ∨ s.mode st = 6) ∧ s.rdB (pgSG st) Reg.SGT.STAT_REACT ∧ ends then s.tracHold st else s

/-- Catch has not synchronised within 20 ms (R180). -/
def State.catchTimeout (s : State) (st : Nat) : State :=
  if s.mode st = 1 ∧ s.passed (s.stage st).modeAt (msTicks 20) then (s.reportTp .u 0x41 (pgSG st)).tracOff st else s

/-- The part of a sample instant of a set that forms values and counts (R158, R166 to R180). -/
def State.tracForm (s : State) (st set : Nat) (zc : Option Word) : State :=
  let s := if set = 0 then
      ((((((s.selectSource st).positionLost st).formSpeed st zc).formNAsc st).formTorque st).tracInputs st).stillTimer st
    else s
  (s.sumCheck st set).ruleCounts st set

/-- Whether the electrical overspeed reaction applies now (R158). -/
def State.overspeedCause (s : State) (st : Nat) : Bool := s.runningMode st && s.overspeedNow st

/-- Electrical overspeed: class U fault 0x4B and the reaction (R158, R165). -/
def State.overspeedTrip (s : State) (st : Nat) : State := (s.reportTp .u 0x4B (pgSG st)).reaction st

/-- Whether a request for mode `m` passes R162 in the present mode. -/
def State.tracAllowed (s : State) (st m : Nat) : Bool :=
  let now := s.mode st
  let p := pgSG st
  (m == 0 || m == 2 || m == 5 || m == 6) &&
  (now == m
    || (if now = 0 then m == 2 || m == 5 || m == 6
        else if now ≤ 4 then true
        else if now ≤ 6 then !s.rdB p Reg.SGT.STAT_REACT && m != 2
        else s.rdB p Reg.SGT.STAT_SS_PHASE && m == 0))

/-- The direction of a running stage changed at a commit (R164, R181). -/
def State.directionChange (s : State) (st : Nat) : State :=
  let p := pgSG st
  let x := s.stage st
  let against := s.opposes st x.dir && magGt (s.rpm st) (s.rd p Reg.SGT.REV_REV_SPD)
  if s.mode st = 2 ∧ against then s.tracEnter st 3 x.legA x.legB (revPend := true) (host := true)
  else if s.mode st = 4 then s.wrB p Reg.SGT.STAT_REV_PEND against
  else if s.mode st = 3 ∧ ¬ s.opposes st x.dir then s.tracEnter st 2 x.legA x.legB (host := true)
  else s

/-- Off requested of a stage that drives or shorts its machine: at once below n_asc, else ASC with OFF_PEND (R164). -/
def State.tracOffRequest (s : State) (st : Nat) : State :=
  if s.speedKnown st ∧ fpLt (fpAbs (s.rpm st)) (s.nAsc st) then
    (s.setStage st { s.stage st with forcedLogged := false }).tracOff st (host := true)
  else s.tracEnter st 5 2 2 (offPend := true) (host := true)

/-- The reason to refuse a request to leave Off, 0 for none (R163, R164). -/
def State.tracRefusal (s : State) (st m : Nat) : Nat :=
  let p := pgSG st
  let still := magLe (s.rpm st) (s.rd p Reg.SGT.SPD_LIM_CATCH_MIN)
  if s.heldOff st then 4
  else if ¬ s.otherDomainOff st then 1
  else if s.stoOpen then 5
  else if m = 2 ∧ magGt (s.rpm st) (s.rd p Reg.SGT.SPD_LIM_CATCH_MAX) then 2
  else if m = 2 ∧ (still ∨ ¬ s.speedKnown st) ∧ s.healthySources st = [] then 3
  else 0

/-- A mode request at its commit instant (R161 to R164). -/
def State.tracRequest (s : State) (st m : Nat) (dir ctrl : Bool) : State :=
  let p := pgSG st
  let now := s.mode st
  if ¬ s.tracAllowed st m then s.refuse st 4
  else
    let reason := if now = 0 ∧ m ≠ 0 then s.tracRefusal st m else 0
    if reason ≠ 0 then s.refuse st reason
    else
      let s := s.accept st
      let s := s.setStage st { s.stage st with dir := dir, ctrl := ctrl }
      let s := s.tracShow st
      if m = now ∨ (m = 2 ∧ now ≤ 4 ∧ now ≠ 0) then s.directionChange st
      else if m = 2 then
        if s.speedKnown st ∧ magGt (s.rpm st) (s.rd p Reg.SGT.SPD_LIM_CATCH_MIN) then
          let x := s.stage st
          let s := s.setStage st { x with
            syncRuns := 0, chkA := { x.chkA with calmCount := 0 }, chkB := { x.chkB with calmCount := 0 } }
          s.tracEnter st 1 0 0 (host := true)
        else s.tracEnter st 2 0 0 (host := true)
      else if m = 5 then s.tracEnter st 5 2 2 (host := true)
      else if m = 6 then s.tracEnter st 6 1 1 (host := true)
      else if now = 7 then s.tracOff st (host := true)
      else s.tracOffRequest st

/-- A stage command of a traction stage is applied (R171 to R173, R177, R186); the value is in the command's register. -/
def State.tracCommand (s : State) (st k : Nat) : State :=
  let p := pgSG st
  let x := s.stage st
  let w := s.stageCmd st k
  if k = 0 then s.setStage st { x with tqFrom := s.now, tqStale := none }
  else if k = 1 then
    let excl := bitsAt w 6 3
    let new := (List.range 3).any fun i => bitOf excl i && !bitOf x.excluded i
    let s := s.setStage st { x with posAt := some s.now, excluded := x.excluded ||| excl }
    let s := if new then s.reportTp .u 0x44 p else s
    let y := s.stage st
    s.setStage st { y with syncRuns := if s.healthySources st = [] then 0 else y.syncRuns + 1 }
  else if k = 2 then
    let low := fpLt w (fdiv (fpOfInt (s.rd p Reg.SGT.POSCHK_OBS_CONF_MIN)) (fpOfInt 256)) || fpIsNaN w
    s.setStage st { x with obsLow := if low then x.obsLow + 1 else 0 }
  else if k = 11 then s.vectorCheck st 0
  else if k = 12 then s.vectorCheck st 1
  else s

/-- A safe stop is demanded of a traction stage (R328). -/
def State.safeStopDemand (s : State) (st : Nat) : State :=
  let resultF := if st = 0 then Reg.SAF.SS_STAT_RESULT0 else Reg.SAF.SS_STAT_RESULT1
  let m := s.mode st
  if m = 1 then s.reaction st
  else if 2 ≤ m ∧ m ≤ 4 then
    let x := s.stage st
    let s := s.setStage st { x with n0 := fpAbs (s.rpm st), t0 := s.now }
    let s := s.wr pgSAF resultF 1
    s.tracEnter st 7 x.legA x.legB
  else s.wr pgSAF resultF 5

end Sys2Proof.Machine
end

