-- ==== Sys2Proof/Machine/Sto.lean ====
section
/-! DEFINITION. Safe torque off: opening with its stage reactions, closing, readback, test pulses and the end of a safe stop
(R263, R323 to R328, R567). -/

namespace Sys2Proof.Machine

/-- The ten stages. -/
def allStages : List Nat := List.range 10

/-- The result field of a traction stage's safe stop (R332). -/
def ssResultField (st : Nat) : Field := if st = 0 then Reg.SAF.SS_STAT_RESULT0 else Reg.SAF.SS_STAT_RESULT1

/-- What STO opening does to one stage (R164, R196, R238, R325, R567). -/
def State.stoReaction (s : State) (st : Nat) : State :=
  if isTraction st then
    if s.stageOff st then s
    else
      let s := if s.decel st then s.wr pgSAF (ssResultField st) 6 else s
      if s.mode st = 7 ∧ ¬ s.decel st then s.setAllLegs st 1 else s.tracHold st
  else if st = 5 then s
  else if isConversion st then s.convTrip st 1
  else s.actTrip st 1

/-- Sets the commands of the four paths (R263, R324). -/
def State.stoPaths (s : State) (hs ls ihs ils : Bool) : State :=
  let s := (s.wrB pgSAF Reg.SAF.STO_STAT_HS_OPEN hs).wrB pgSAF Reg.SAF.STO_STAT_LS_OPEN ls
  (s.wrB pgSAF Reg.SAF.STO_STAT_IHS_OPEN ihs).wrB pgSAF Reg.SAF.STO_STAT_ILS_OPEN ils

/-- Whether both switches are commanded open and no test or closing is in progress. -/
def State.stoFullyOpen (s : State) : Bool :=
  s.stoOpen && s.rdB pgSAF Reg.SAF.STO_STAT_LS_OPEN && s.rdB pgSAF Reg.SAF.STO_STAT_HS_OPEN

/-- No test pulse is in progress. -/
def State.endTest (s : State) : State :=
  let s := (s.wrB pgSAF Reg.SAF.STO_STAT_TEST_ACT false).wr pgSAF Reg.SAF.STO_STAT_TEST_SW 0
  { s with sto := { s.sto with test := none } }

/-- STO opens for a cause: both switches and the internal paths are commanded open, the opening is stamped, logged as fault
0x89, a test is abandoned, and the stages react (R324, R325, R327). Where STO is open already only a lower cause of the same
RC cycle of 20 ticks is recorded. -/
def State.openSto (s : State) (cause : Nat) : State :=
  if s.stoFullyOpen then
    let at_ := s.rd pgSAF Reg.SAF.STO_AT_L_STAMP + 2 ^ 32 * s.rd pgSAF Reg.SAF.STO_AT_H_STAMP
    if cause < s.rd pgSAF Reg.SAF.STO_STAT_CAUSE ∧ ticksSince at_ s.now < 20 then s.wr pgSAF Reg.SAF.STO_STAT_CAUSE cause else s
  else
    let testing := s.sto.test.isSome
    let s := (s.stoPaths true true true true).wrB pgSAF Reg.SAF.STO_STAT_OPEN true
    let s := s.wr pgSAF Reg.SAF.STO_STAT_CAUSE cause
    let s := s.wrStamp pgSAF Reg.SAF.STO_AT_L_STAMP Reg.SAF.STO_AT_H_STAMP s.now
    let s := { s with sto := { s.sto with closing := none, changedAt := s.now, badReads := 0 } }
    let s := s.reportDike .u 0x89 pgSAF cause
    let s := if testing then s.endTest.reportDike .c 0x8F pgSAF else s
    (s.each allStages State.stoReaction).each allStages State.showLegs

/-- Reduced operation at level F holds the class F cause (R366). -/
def State.causeActive (s : State) : Bool :=
  s.rd pgFLT Reg.FLT.STAT_RED == 2 || s.wd.lost
    || (s.rd pgSUP Reg.SUP.STAT_MODE == 3 && !s.broke)
    || s.rdB pgPWR Reg.PWR.SUPPLY_VBAT_UV || s.rdB pgPWR Reg.PWR.SUPPLY_VBAT_LONG || s.rdB pgPWR Reg.PWR.SUPPLY_TJ_LIM

/-- The conditions of R325 for closing. -/
def State.mayClose (s : State) : Bool :=
  !s.causeActive && !s.tp.rcFailed && s.rd pgSUP Reg.SUP.STAT_MODE != 3 && s.wd.armed && !s.wd.lost
    && [0, 1].all fun st => s.stageOff st || (s.mode st == 7 && !s.decel st)

/-- A write of 1 to STO_CMD.CLOSE reaches the Dike (R325). -/
def State.closeSto (s : State) : State :=
  if ¬ s.stoOpen ∨ s.sto.closing.isSome then s
  else if s.mayClose then
    let s := s.stoPaths true false true false
    { s with sto := { s.sto with closing := some s.now, changedAt := s.now, badReads := 0 } }
  else s.reportDike .c 0x92 pgSAF

/-- HS closes 10 µs after LS: STO is closed, and the test schedule starts anew (R325, R326). -/
def State.closeHs (s : State) : State :=
  match s.sto.closing with
  | some t =>
    if s.passedRc t (usTicks 10) then
      let s := (s.stoPaths false false false false).wrB pgSAF Reg.SAF.STO_STAT_OPEN false
      let s := { s with sto := { s.sto with
        closing := none, closedAt := s.now, changedAt := s.now, badReads := 0, tests := [0, 0, 0, 0] } }
      s.each allStages State.showLegs
    else s
  | none => s

/-- The band required by the commands of the two switches: 0 LOW, 1 MID, 2 HIGH (R323). -/
def State.requiredBand (s : State) : Nat :=
  if s.rdB pgSAF Reg.SAF.STO_STAT_HS_OPEN then 0 else if s.rdB pgSAF Reg.SAF.STO_STAT_LS_OPEN then 2 else 1

/-- A readback check: outside a test and past SETTLE, the second wrong band in a row is a class F fault, logged once per
excursion, and opens STO (R323). -/
def State.readback (s : State) (band : Nat) : State :=
  let s := s.wr pgSAF Reg.SAF.STO_STAT_BAND band
  let settle := usTicks (clampNat 10 200 (s.rd pgSAF Reg.SAF.STO_CHK_SETTLE))
  if s.sto.test.isSome ∨ ¬ s.passed s.sto.changedAt settle then s
  else if band = s.requiredBand then { s with sto := { s.sto with badReads := 0, excursion := false } }
  else if s.sto.badReads = 0 then { s with sto := { s.sto with badReads := 1 } }
  else if s.sto.excursion then s
  else
    let s := { s with sto := { s.sto with badReads := 2, excursion := true } }
    (s.reportDike .f 0x8B pgSAF band).openSto 1

/-- The test interval T in ticks (R326). -/
def State.testInterval (s : State) : Nat := 320000000 * clampNat 4 60 (s.rd pgSAF Reg.SAF.STO_TP_INTERVAL)

/-- The quarter of T by which a path's tests lag: paths 1 HS, 2 LS, 3 internal high side, 4 internal low side (R326). -/
def pathQuarter (path : Nat) : Nat := if path = 1 then 0 else if path = 3 then 1 else if path = 2 then 2 else 3

/-- The ticks from the closing to the next test of a path (R326). -/
def State.testAfter (s : State) (path : Nat) : Nat :=
  320000000 + pathQuarter path * s.testInterval / 4 + s.sto.tests.getD (path - 1) 0 * s.testInterval

/-- The width of a path's pulse in ticks (R326). -/
def State.pulseWidth (s : State) (path : Nat) : Nat :=
  usTicks (if path ≤ 2 then clampNat 50 500 (s.rd pgSAF Reg.SAF.STO_TP_WIDTH) else 10)

/-- The STO_STAT bit of a path. -/
def pathField (path : Nat) : Field :=
  if path = 1 then Reg.SAF.STO_STAT_HS_OPEN else if path = 2 then Reg.SAF.STO_STAT_LS_OPEN
  else if path = 3 then Reg.SAF.STO_STAT_IHS_OPEN else Reg.SAF.STO_STAT_ILS_OPEN

/-- A scheduled test opens one path (R326). -/
def State.testPulse (s : State) (path : Nat) : State :=
  if 1 ≤ path ∧ path ≤ 4 ∧ ¬ s.stoOpen ∧ s.sto.test = none ∧ s.passedRc s.sto.closedAt (s.testAfter path) then
    let s := (s.wrB pgSAF (pathField path) true).wrB pgSAF Reg.SAF.STO_STAT_TEST_ACT true
    let s := s.wr pgSAF Reg.SAF.STO_STAT_TEST_SW path
    { s with sto := { s.sto with
      test := some (path, s.now), changedAt := s.now
      tests := putAt s.sto.tests (path - 1) (s.sto.tests.getD (path - 1) 0 + 1) } }
  else s

/-- The pulse ends and the path recloses; the test passes when the readback showed it open and shows it closed again
(R326). -/
def State.testPulseEnd (s : State) (opened reclosed : Bool) : State :=
  match s.sto.test with
  | some (path, t) =>
    if s.passedRc t (s.pulseWidth path) then
      let s := (s.wrB pgSAF (pathField path) false).endTest
      let s := { s with sto := { s.sto with changedAt := s.now, badReads := 0 } }
      if opened ∧ reclosed then s.count pgSAF Reg.SAF.TP_CNT_COUNT
      else (s.reportDike .f 0x8A pgSAF path).openSto 1
    else s
  | none => s

/-- The envelope limit L(t) of a safe stop in rpm (R328). -/
def State.envelope (s : State) (st : Nat) : Word :=
  let x := s.stage st
  let drop := fmul (fpOfInt (s.rd pgSAF (Reg.SAF.SS_DEC_DEC st))) (fpOfRatio (ticksSince x.t0 s.now) 320000000)
  fadd (fpMax (fsub x.n0 drop) 0) (fpOfInt (s.rd pgSAF (Reg.SAF.SS_DEC_TOL st)))

/-- A safe stop ends with a result: fault, HOLD, and STO opens with cause 5 (R328). -/
def State.safeStopEnd (s : State) (st result : Nat) : State :=
  let s := s.wr pgSAF (ssResultField st) result
  let s := if result = 4 then s.reportTp .u 0x8C pgSAF st
    else if result = 3 then s.reportTp .u 0x8E pgSAF st
    else s.reportTp .c 0x8D pgSAF st
  (s.tracHold st).openSto 5

/-- A set A sample instant in DECEL (R328). -/
def State.safeStopSample (s : State) (st : Nat) : State :=
  let l := s.envelope st
  let n := s.rpm st
  let s := s.setWord pgSAF (Reg.SAF.SS_LIMIT_RPM st).off l
  if ¬ s.speedKnown st ∨ ¬ fpLe (fpAbs n) l then s.safeStopEnd st 4
  else if s.passed (s.stage st).t0 (msTicks (s.rd pgSAF (Reg.SAF.SS_TIME_TMAX st))) then s.safeStopEnd st 3
  else if magLe n (s.rd pgSAF (Reg.SAF.SS_TIME_STILL st)) then s.safeStopEnd st 2
  else s

end Sys2Proof.Machine
end

