-- ==== Sys2Proof/Machine/Stages.lean ====
section
/-! DEFINITION. What happens to a stage whatever its kind: sample instants and period starts, protection turn-offs, the hold
guard, and mode requests (R140, R142, R155, R165, R184, R195, R196, R237, R259 to R266, R403). -/

namespace Sys2Proof.Machine

/-- A traction set A or B sample instant: values and counts, then the first cause in R165's order. -/
def State.tracSample (s : State) (st set : Nat) (zc : Option Word) : State :=
  let s := s.tracForm st set zc
  if s.overspeedCause st then s.overspeedTrip st
  else if set = 0 ∧ s.decel st then ((s.safeStopSample st).setDecision st 0).speedDriven st
  else
    let iso := s.isolated st set
    let m := s.mode st
    let s := s.setDecision st set
    if s.isolated st set ≠ iso ∨ s.mode st ≠ m then s else s.speedDriven st

/-- STAGE_SAMPLE_INSTANT: the next sample of the set's period has come due (R156, R169, R197, R240). `zc` is the frequency
of zero crossings that a traction stage measured (R168). -/
def State.stageSample (s : State) (st set : Nat) (zc : Option Word) : State :=
  match ((s.stage st).timing set).nextSample with
  | some due =>
    if due ≤ s.eu + 19 then
      let s := s.sampleTaken st set
      if isTraction st then s.tracSample st set zc
      else if isConversion st then s.convSample st
      else if isActuation st then s.actSample st
      else s
    else s
  | none => s

/-- What a stage does at its period start beside taking the period values (R216, R221, R223). -/
def State.periodActions (s : State) (st start : Nat) : State :=
  if st = 3 ∨ st = 4 then s.bridgePeriod st start
  else if st = 5 then s.balance.buckPeriod start
  else s

/-- STAGE_PERIOD_START of set A, or of a stage with one set. With B_CARRIER 0 set B's period starts with set A's (R155). -/
def State.periodStartA (s : State) (st : Nat) : State :=
  let at_ := nextStart (s.stage st).a s.eu
  if at_ ≤ s.eu + 19 then
    let s := (s.startPeriod st 0 at_).periodActions st at_
    if isTraction st ∧ ¬ s.rdB (pgSG st) Reg.SGT.TCFG_B_CARRIER then s.startPeriod st 1 at_ else s
  else s

/-- STAGE_PERIOD_START of set B of a traction stage (R155). -/
def State.periodStartB (s : State) (st : Nat) : State :=
  let x := s.stage st
  let at_ := s.nextStartB st
  if isTraction st ∧ x.a.started ∧ at_ ≤ s.eu + 19 ∧ (¬ x.b.started ∨ x.b.start < at_) then s.startPeriod st 1 at_ else s

/-- The owning stage reacts to a leg turned off by its channel's protection (R184, R262). -/
def State.protectionReaction (s : State) (p : Nat) : State :=
  let st := s.owner p
  if isTraction st then s.isolate st (if s.role p < 3 then 0 else 1) 5
  else if isConversion st then s.convTrip st 4
  else s.actTrip st 4

/-- Whether another leg of the set tripped within 1 µs, or is still in soft turn-off as the caller says (R261). -/
def State.secondOfSet (s : State) (p : Nat) (softStill : Bool) : List Nat :=
  (s.legs (s.owner p)).filter fun q =>
    q != p && (s.rd q Reg.XH.CH_STAT_PROT != 0) && s.latched q
      && (decide (ticksSince (s.rd q Reg.XH.PROT_AT_L_STAMP + 2 ^ 32 * s.rd q Reg.XH.PROT_AT_H_STAMP) s.now ≤ 320)
          || ((s.chan q).soft && softStill))

/-- A double-leg short: every leg of the set turns off at sink step 0; the two tripped legs log detail 5, the others record
PROT 5 only (R261). -/
def State.doubleLeg (s : State) (p first : Nat) (inj : Bool) : State :=
  let s := s.each (s.legs (s.owner p)) fun s q =>
    let s := if q = p ∨ q = first ∨ ¬ s.latched q then s.latchLeg q 5 true else s.wr q Reg.XH.CH_STAT_PROT 5
    s.setChan q { s.chan q with softStep := 0 }
  ((s.reportTp .u 0x4E first 5 inj).reportTp .u 0x4E p 5 inj).protectionReaction p

/-- A VDS trip or hard short of an integrated channel; `prot` is 1 high side, 2 low side or 3 hard short (R259 to R262). -/
def State.shortTrip (s : State) (p prot : Nat) (softStill inj : Bool) : State :=
  match s.secondOfSet p softStill with
  | first :: _ => s.doubleLeg p first inj
  | [] => ((s.latchLeg p prot true).reportTp .u 0x4E p prot inj).protectionReaction p

/-- Whether the switch of a side is commanded on: the VDS comparator watches it then (R259). -/
def State.sideOn (s : State) (p : Nat) (high : Bool) : Bool := s.legState p == (if high then 1 else 2)

/-- The instant of the last turn-on command of a leg's on switch, in edge units: the last transition plus dead time. -/
def State.turnOnAt (s : State) (p : Nat) : Nat :=
  let c := s.chan p
  max (max c.enAt c.pinAt) (max (if c.drive = .driven then lastEdgeAt c.edges s.eu else 0) (c.refreshEnd * 20))
    + s.rd p Reg.XH.DT_NS * 32 / 5

/-- Whether blanking since the last turn-on command has passed: BLANK × 50 ns, 320 edge units each (R259). -/
def State.blankingPassed (s : State) (p : Nat) : Bool :=
  s.turnOnAt p + 320 * max 5 (s.rd p Reg.IH.VDS_BLANK) ≤ s.eu

/-- VDS_TRIP (R259). -/
def State.vdsTrip (s : State) (p : Nat) (high softStill : Bool) : State :=
  if s.rdB p Reg.IH.CFG_VDS_EN ∧ s.sideOn p high ∧ s.blankingPassed p then s.shortTrip p (if high then 1 else 2) softStill false
  else s

/-- A driver fault of an external channel (R265). -/
def State.driverTrip (s : State) (p : Nat) (inj : Bool) : State :=
  ((s.latchLeg p 4 false).reportTp .u 0x4E p 4 inj).protectionReaction p

/-- DRIVER_FAULT (R265). -/
def State.driverFault (s : State) (p : Nat) : State :=
  if s.driverFaultDue p ∧ ¬ s.latched p then s.driverTrip p false else s

/-- The legs of an SD channel whose stage is outside Off (R292). -/
def State.fastLegs (s : State) (ch : Nat) : List Nat :=
  ((bitList (s.rd pgSD (Reg.SD.LEGS_LEGS ch)) 23).map pgXH).filter fun p => !s.stageOff (s.owner p)

/-- A fast-path detection at TRIP, or at HARD, of SD channel `ch` (R292). -/
def State.fastPath (s : State) (ch : Nat) (hard inj : Bool) : State :=
  let s := s.orBits pgSD Reg.SD.OC_HIT_CH (2 ^ ch)
  let s := s.wrStamp pgSD Reg.SD.OC_AT_L_STAMP Reg.SD.OC_AT_H_STAMP s.now
  let legs := s.fastLegs ch
  if legs = [] then s
  else
    let s := s.each legs fun s p => (s.latchLeg p 6 false).protectionReaction p
    let s := s.reportDike .u 0x68 pgSD ch inj
    if hard then (s.reportDike .f 0x69 pgSD ch inj).openSto 2 else s

/-- FAST_PATH_DETECTION on a channel with its fast path enabled (R292). -/
def State.fastDetection (s : State) (ch : Nat) (hard : Bool) : State :=
  if s.rdB pgSD (Reg.SD.CFG_OC_EN ch) ∧ s.rdB pgSD (Reg.SD.CFG_EN ch) then s.fastPath ch hard false else s

/-- The reaction to loss of control of a channel's set (R140, R184, R196, R238). -/
def State.guardReaction (s : State) (p : Nat) : State :=
  let st := s.owner p
  if isTraction st then s.isolate st (if s.role p < 3 then 0 else 1) 4
  else if isConversion st then s.convTrip st 5
  else s.actTrip st 5

/-- The guard's next instant of action in edge units, times its denominator: base + H + j × T (R140). -/
def guardActionAt (g : Guard) : Nat := (g.base * 20 + 128000) * g.tDen + (g.acted + 1) * g.tNum

/-- The substitute at the guard's instant of action, rounded to the nearest edge unit, ties to even (R140). -/
def guardSubstitute (g : Guard) : Int :=
  let num := (guardActionAt g : Int) - (g.t1 * 20 * g.tDen : Nat)
  let den : Nat := (g.t1 - g.t0) * 20 * g.tDen
  let v := ((g.c1 : Int) - g.c0) * num
  let q := v / den
  let r := v % den
  let up := decide (den < 2 * r) || (decide (2 * r = den) && decide (q % 2 = 1))
  (g.c1 : Int) + q + (if up then 1 else 0)

/-- Whether a guard may substitute: two applies since placement, no further apart than 2 × T (R140). -/
def guardMaySubstitute (g : Guard) : Bool :=
  2 ≤ g.applies && g.t0 < g.t1 && decide ((g.t1 - g.t0) * 20 * g.tDen ≤ 2 * g.tNum)

/-- The substitution of one output (R140, R532). -/
def State.substitute (s : State) (p o : Nat) : State :=
  let g := s.guard p o
  let period := s.legPeriod p
  let v := guardSubstitute g
  let s := if o = 0 then s.latchCompare p (clampInt 0 period v).toNat s.now
    else s.latchPhase p (v % (max 1 period : Nat)).toNat s.now
  let s := s.setGuard p o { g with acted := g.acted + 1 }
  let s := if o = 0 ∨ ¬ (s.guard p 0).loaded then s.wr p Reg.CHAN.GUARD_SUBST (min 7 (g.acted + 1)) else s
  if g.acted = 0 then s.reportTp .c 0xD8 p else s

/-- The guard hands the set to the stage logic (R140). -/
def State.guardTakeover (s : State) (p o : Nat) : State :=
  let s := s.setGuard p o { s.guard p o with done := true }
  ((s.wrB p Reg.CHAN.GUARD_TAKEN true).reportTp .u 0xD9 p).guardReaction p

/-- HOLD_GUARD_EXPIRY: the guard of output `o` has come to its next instant of action (R140). -/
def State.guardExpiry (s : State) (p o : Nat) : State :=
  let g := s.guard p o
  if s.guardArmed p o ∧ ¬ g.done ∧ guardActionAt g ≤ s.eu * g.tDen then
    if guardMaySubstitute g ∧ g.acted < s.rd pgTRL Reg.TRL.TCTL_SUBST_MAX then s.substitute p o else s.guardTakeover p o
  else s

/-- A marked mode request of a stage page at its commit mark (R161, R192, R234). -/
def State.modeRequest (s : State) (st : Nat) : State :=
  let p := pgSG st
  let m := s.rd p Reg.SGT.MODE_REQ_MODE
  let b3 := s.rdB p Reg.SGT.MODE_REQ_DIR
  if isTraction st then s.tracRequest st m b3 (s.rdB p Reg.SGT.MODE_REQ_CTRL)
  else if isConversion st then s.convRequest st m b3
  else s.actRequest st m b3

/-- A stage command of any stage is applied: its register, the stamp of the last command, and what the stage logic does with
it (R527). -/
def State.applyCommand (s : State) (st k : Nat) (w : Word) : State :=
  let s := s.setWord (pgSG st) (0x740 + 4 * k) w
  let s := s.wrStamp (pgSG st) Reg.SGW.CMD_AT_L_STAMP Reg.SGW.CMD_AT_H_STAMP s.now
  if isTraction st then s.tracCommand st k
  else if isConversion st then s.convCommand st k
  else s.actCommand st k

/-- Break: the stage logic forces SG0 to SG3 to Off (R321). -/
def State.forceOff (s : State) (st : Nat) : State :=
  if s.stageOff st then s
  else if isTraction st then s.tracOff st
  else s.convOff st

end Sys2Proof.Machine
end

