-- ==== Sys2Proof/Machine/LoopBase.lean ====
section
/-! DEFINITION. Loops and engines as data: descriptors, image slots, areas of local memory, checkpoints and initial states
(R71, R117 to R119, R132, R133, R145, R451). -/

namespace Sys2Proof.Machine

/-- Loop engine `e` and loop `l`. -/
def State.eng (s : State) (e : Nat) : Engine := tabGet (fun _ => {}) s.engines e
def State.setEng (s : State) (e : Nat) (x : Engine) : State := { s with engines := tabPut (fun _ => {}) s.engines e x }
def State.loop (s : State) (l : Nat) : LoopRec := tabGet (fun _ => {}) s.loops l
def State.setLoop (s : State) (l : Nat) (x : LoopRec) : State := { s with loops := tabPut (fun _ => {}) s.loops l x }

/-- The loop IDs and the engines. -/
def loopIds : List Nat := List.range 64
def allEngines : List Nat := List.range 16

/-- The words of a descriptor: 25, from CTRL to the last OUT word (R118). -/
abbrev descWords : Nat := 25

/-- Fields of a descriptor (R118). -/
def descField (d : List Word) (k lo n : Nat) : Nat := bitsAt (d.getD k 0) lo n
def descEn (d : List Word) : Bool := descField d 0 0 1 == 1
def descClass (d : List Word) : Nat := descField d 0 1 2
def descGroup (d : List Word) : Nat := descField d 0 4 4
def descImg (d : List Word) : Nat := descField d 0 8 6
def descCarry (d : List Word) : Nat := descField d 0 16 4
def descSrc (d : List Word) : Nat := descField d 1 0 3
def descStage (d : List Word) : Nat := descField d 1 4 4
def descEvent (d : List Word) : Nat := descField d 1 8 2
def descSlot (d : List Word) : Nat := descField d 1 16 10
def descArg (d : List Word) : Nat := descField d 2 0 21
def descHz (d : List Word) : Nat := descField d 3 0 18
def descBudget (d : List Word) : Nat := descField d 4 0 16
def descDeadline (d : List Word) : Nat := descField d 5 0 20
def descSize (d : List Word) : Nat := descField d 6 0 16
def descCkpt (d : List Word) : Nat := descField d 6 16 7
def descUnit (d : List Word) (k : Nat) : Nat := descField d (7 + k / 8) (4 * (k % 8)) 4
def descIn (d : List Word) (k : Nat) : Nat := descField d (9 + k / 2) (16 * (k % 2)) 16
def descOut (d : List Word) (k : Nat) : Nat := descField d (17 + k / 2) (16 * (k % 2)) 16

/-- The live and the proposed descriptor of loop `l`, in the TRL window (R117, R118). -/
def State.liveDesc (s : State) (l : Nat) : List Word :=
  (List.range descWords).map fun k => s.word pgTRL (winBase + 0x80 * l + 4 * k)

/-- The active MRAM bank (R336). -/
def State.activeBank (s : State) : Nat := s.rd pgMEM Reg.MEM.MRAM_STAT_ACTIVE

/-- The first key of image slot `k` in the active bank (R145). -/
def State.slotBase (s : State) (k : Nat) : Nat := mramBase s.activeBank + 0x00E00000 + 0x8000 * k

/-- Word `j` of the image header of slot `k`: code words, initial-state bytes, state size, inputs, outputs, mask of the
inputs that feed a MINSEL (R451, assumption 13). -/
def State.imgHdr (s : State) (k j : Nat) : Nat := (s.mword (s.slotBase k + 0x100 + 4 * j)).toNat
def State.imgWords (s : State) (k : Nat) : Nat := min (s.imgHdr k 0) 4096
def State.imgInit (s : State) (k : Nat) : Nat := min (s.imgHdr k 1) 8192
def State.imgState (s : State) (k : Nat) : Nat := min (s.imgHdr k 2) 32768
def State.imgIns (s : State) (k : Nat) : Nat := min (s.imgHdr k 3) 16
def State.imgOuts (s : State) (k : Nat) : Nat := min (s.imgHdr k 4) 16
def State.imgMinsel (s : State) (k : Nat) : Nat := s.imgHdr k 5 % 2 ^ 16

/-- The first key of the code, and of the initial-state section, of slot `k`. -/
def State.imgCode (s : State) (k : Nat) : Nat := s.slotBase k + 0x120
def State.imgInitAt (s : State) (k : Nat) : Nat := s.imgCode k + 4 * s.imgWords k

/-- The bound outputs of a descriptor whose image declares `n` outputs (R119). -/
def boundOuts (d : List Word) (n : Nat) : List Nat := (List.range n).map (descOut d)
def boundIns (d : List Word) (n : Nat) : List Nat := (List.range n).map (descIn d)

/-- Sizes are rounded up to 256 bytes (R124). -/
def round256 (n : Nat) : Nat := (n + 255) / 256 * 256

/-- The channel page and output (0 compare, 1 phase shift) of a pulse handle (R99). -/
def pulseOutput (h : Nat) : Option (Nat × Nat) :=
  if 0x2000 ≤ h ∧ h ≤ 0x2016 then some (pgXH (h - 0x2000), 0)
  else if 0x2020 ≤ h ∧ h ≤ 0x202F then some (pgIH (h - 0x2020), 0)
  else if 0x2100 ≤ h ∧ h ≤ 0x2116 then some (pgXH (h - 0x2100), 1)
  else if 0x2120 ≤ h ∧ h ≤ 0x212F then some (pgIH (h - 0x2120), 1)
  else none

/-- Whether a loop is on an engine: placed, and not suspended or stranded (R152). -/
def LoopRec.placed (x : LoopRec) : Bool := match x.state with
  | .disabled => false | .suspended => false | .stranded => false
  | .loading => true | .running => true | .moving => true | .grafting => true

/-- Whether a placed loop's image and state are loaded, so that its triggers start runs. -/
def LoopRec.active (x : LoopRec) : Bool := x.placed && x.state != .loading && !x.gone

/-- Whether a state copy of the loop is in progress (R134). -/
def LoopRec.copying (x : LoopRec) : Bool := x.move.any (·.copying)

/-- The loops of engine `e`, in rising order. -/
def State.loopsOn (s : State) (e : Nat) : List Nat :=
  loopIds.filter fun l => (s.loop l).placed && (s.loop l).engine == e

/-- The loops whose fallback image engine `e` holds or loads. -/
def State.fallbacksOn (s : State) (e : Nat) : List Nat :=
  loopIds.filter fun l => (s.loop l).fallback == some e && (s.loop l).placed

/-- Bytes of a fallback image with its initial-state section (R124). -/
def State.fbBytes (s : State) (l : Nat) : Nat := round256 (4 * (s.loop l).imgWords + s.imgInit (s.loop l).slot)

/-- The areas of an engine's local memory in use: offset and length (R124, R134, R147). -/
def State.areas (s : State) (e : Nat) : List (Nat × Nat) :=
  ((s.loopsOn e).flatMap fun l =>
    let x := s.loop l
    [(x.imgOff, round256 (4 * x.imgWords)), (x.stOff, round256 x.stSize)]
      ++ (x.graft.elim [] fun g => [(g.imgOff, round256 (4 * s.imgWords (descImg g.desc)))]))
  ++ ((s.fallbacksOn e).map fun l => ((s.loop l).fbOff, s.fbBytes l))
  ++ (loopIds.flatMap fun l =>
    let x := s.loop l
    match x.move with
    | some m => if m.dest = e then [(m.imgOff, round256 (4 * x.imgWords)), (m.stOff, round256 x.stSize)] else []
    | none => [])

/-- The lowest offset at which `len` bytes fit beside the areas in use (assumption 18). -/
def firstFit (areas : List (Nat × Nat)) (len : Nat) : Nat :=
  let free (o : Nat) : Bool := o + len ≤ 0x20000 && areas.all (fun a => o + len ≤ a.1 || a.1 + a.2 ≤ o)
  let cands := 0 :: areas.map (fun a => a.1 + a.2)
  (cands.filter free).foldl min 0x20000

/-- A word of a loop's initial state: from its image's section, zero beyond it (R119). -/
def State.initWord (s : State) (k off : Nat) : Word :=
  if off + 4 ≤ s.imgInit k then s.mword (s.imgInitAt k + off) else 0

/-- Writes a loop's initial state into an area at key `a` (R119). -/
def State.initState (s : State) (a k size : Nat) : State :=
  (s.zeroMem a (round256 size)).copyMem a (s.imgInitAt k) (min (s.imgInit k) size)

/-- The checkpoint buffers of a loop (R133), and whether one is complete: stamped, and its lines pass (R132). -/
def ckptBuf (l : Nat) (b : Bool) : Nat := ckptBase l + (if b then 0x120 else 0)
def State.ckptStamp (s : State) (a : Nat) : Nat := (s.mword a).toNat + 2 ^ 32 * (s.mword (a + 4)).toNat
def State.ckptComplete (s : State) (a n : Nat) : Bool :=
  s.ckptStamp a != 0 && (List.range (8 + 4 * n)).all fun k => !s.chk.bad.contains (a + k)

/-- The newest complete checkpoint of loop `l` (R132, R344). -/
def State.newestCkpt (s : State) (l : Nat) : Option Nat :=
  let n := descCkpt (s.loop l).desc
  let ok := [ckptBuf l false, ckptBuf l true].filter (s.ckptComplete · n)
  match ok with
  | [a] => some a
  | [a, b] => some (if s.ckptStamp b < s.ckptStamp a then a else b)
  | _ => none

/-- Makes the checkpoints of a newly placed loop incomplete. -/
def State.dropCkpts (s : State) (l : Nat) : State :=
  (s.zeroMem (ckptBuf l false) 8).zeroMem (ckptBuf l true) 8

/-- Writes `n` words one after another. -/
def State.putMwords (s : State) (a : Nat) : List Word → State
  | [] => s
  | w :: ws => (s.putMword a w).putMwords (a + 4) ws

/-- The checkpoint of a run that ended at EXIT: the first CKPT words, then its stamp, in the other buffer (R132). -/
def State.writeCkpt (s : State) (l stamp : Nat) : State :=
  let x := s.loop l
  let n := descCkpt x.desc
  let a := ckptBuf l x.ckptB
  if n = 0 then s
  else
    let s := s.copyMem (a + 8) (leBase x.engine + x.stOff) (4 * n)
    let s := (s.putMword a (BitVec.ofNat 32 stamp)).putMword (a + 4) (BitVec.ofNat 32 (stamp / 2 ^ 32))
    s.setLoop l { s.loop l with ckptB := !x.ckptB }

/-- The first CKPT words of a state area at key `a` overlaid from the loop's newest complete checkpoint, else from the
initial state (R138, R344). -/
def State.overlayCkpt (s : State) (l a : Nat) : State :=
  let n := descCkpt (s.loop l).desc
  (s.newestCkpt l).elim (s.putMwords a ((List.range n).map fun k => s.initWord (s.loop l).slot (4 * k))) fun c =>
    s.copyMem a (c + 8) (4 * n)

/-- The loop, if any, whose run the context executes. -/
def Context.loopOf (c : Context) : Option Nat := c.run.map (·.loop)

/-- Whether a run of loop `l` is in progress: it waits, executes or is preempted (R112). -/
def State.executing (s : State) (l : Nat) : Bool :=
  let e := s.eng (s.loop l).engine
  e.a.loopOf == some l || e.bc.loopOf == some l
def State.waitingRun (s : State) (l : Nat) : Option Waiting := (s.eng (s.loop l).engine).waiting.find? (·.loop == l)
def State.inProgress (s : State) (l : Nat) : Bool := s.executing l || (s.waitingRun l).isSome

/-- The trigger stamp of the run in progress. -/
def State.progressStamp (s : State) (l : Nat) : Option Nat :=
  let e := s.eng (s.loop l).engine
  match e.a.run, e.bc.run with
  | some r, some q => if r.loop = l then some r.stamp else if q.loop = l then some q.stamp else (s.waitingRun l).map (·.stamp)
  | some r, none => if r.loop = l then some r.stamp else (s.waitingRun l).map (·.stamp)
  | none, some q => if q.loop = l then some q.stamp else (s.waitingRun l).map (·.stamp)
  | none, none => (s.waitingRun l).map (·.stamp)

/-- A fault of a loop, with its ID in detail bits 13:8 (R358). -/
def State.reportLoop (s : State) (cls : FaultClass) (code page l : Nat) (low : Nat := 0) : State :=
  s.reportFab cls code page (l * 256 + low)

/-- LOOP_SKIP_CNT of a loop counts a trigger (R134, R344, R467). -/
def State.skipTrigger (s : State) (l : Nat) : State :=
  let x := s.loop l
  if x.skips = 0xFFFF then s
  else
    let s := s.setLoop l { x with skips := x.skips + 1 }
    if x.skips = 0xFFFE then
      (s.wrB pgTRL Reg.HDR.FLT_CNT_SAT true).reportFab .c 0xEE pgTRL Reg.TRL.LOOP_SKIP_CNT_COUNT.off
    else s

/-- LOOP_MOVE_CNT of a loop counts a move (R152). -/
def State.countMove (s : State) (l : Nat) : State :=
  let x := s.loop l
  if x.moves = 0xFFFF then s
  else
    let s := s.setLoop l { x with moves := x.moves + 1 }
    if x.moves = 0xFFFE then
      (s.wrB pgTRL Reg.HDR.FLT_CNT_SAT true).reportFab .c 0xEE pgTRL Reg.TRL.LOOP_MOVE_CNT_COUNT.off
    else s

end Sys2Proof.Machine
end

