-- ==== Sys2Proof/Machine/LoopCheck.lean ====
section
/-! DEFINITION. The checks of a loop image before it is marked verified (R81 to R83). -/

namespace Sys2Proof.Machine

/-- The fields of an instruction word (R81). -/
def opOf (w : Word) : Nat := bitsAt w 26 6
def qdOf (w : Word) : Nat := bitsAt w 20 6
def qaOf (w : Word) : Nat := bitsAt w 14 6
def qbOf (w : Word) : Nat := bitsAt w 8 6
def fnOf (w : Word) : Nat := bitsAt w 0 8
def qcOf (w : Word) : Nat := bitsAt w 2 6
def fn4Of (w : Word) : Nat := bitsAt w 0 2
def condOf (w : Word) : Nat := bitsAt w 22 4
def offOf (w : Word) : Int := signedOf w.toNat 22

/-- What an image declares (R82). -/
structure ImageDecl where
  words : Nat
  init : Nat
  state : Nat
  ins : Nat
  outs : Nat
deriving DecidableEq, Repr

/-- Whether a branch at word `i` stays within the image. -/
def targetOk (d : ImageDecl) (i : Nat) (w : Word) : Bool := 0 ≤ (i : Int) + offOf w && (i : Int) + offOf w < d.words

/-- Whether a control block's record lies within the declared state. -/
def recordOk (d : ImageDecl) (w : Word) (len : Nat) : Bool := 32 * fnOf w + len ≤ d.state

/-- Whether word `i` of an image is a defined instruction with valid fields (R82, R83). -/
def wordValid (d : ImageDecl) (i : Nat) (w : Word) : Bool := match opOf w with
  | 0x00 => w.toNat % 2 ^ 26 == 0
  | 0x01 => w.toNat % 2 ^ 26 / 2 ^ 8 == 0
  | 0x02 => condOf w == 0 && targetOk d i w
  | 0x03 => condOf w != 0xF && targetOk d i w
  | 0x04 => qdOf w == 0 && fnOf w ≤ 2
  | 0x05 => qbOf w == 0 && fnOf w == 0
  | 0x06 => bitsAt w 16 4 == 0
  | 0x07 => bitsAt w 16 4 == 0
  | 0x08 => (bitsAt w 13 1 == 1 || qaOf w == 0) && 4 * bitsAt w 0 13 + 4 ≤ d.state
  | 0x09 => (bitsAt w 13 1 == 1 || qaOf w == 0) && 4 * bitsAt w 0 13 + 4 ≤ d.state
  | 0x0A => bitsAt w 4 10 == 0 && bitsAt w 0 4 < d.ins
  | 0x0B => bitsAt w 4 10 ≤ 1 && bitsAt w 0 4 < d.outs
  | 0x0C => qbOf w == 0 && fnOf w ≤ 3 && (fnOf w ≤ 1 || qaOf w == 0)
  | 0x10 => fnOf w == 0
  | 0x11 => fnOf w == 0
  | 0x12 => fnOf w == 0
  | 0x13 => fnOf w == 0
  | 0x14 => qbOf w == 0 && fnOf w == 0
  | 0x15 => qbOf w == 0 && fnOf w == 0
  | 0x16 => qbOf w == 0 && fnOf w == 0
  | 0x17 => fnOf w == 0
  | 0x18 => fnOf w == 0
  | 0x19 => fn4Of w == 0
  | 0x1A => fn4Of w == 0
  | 0x1B => fn4Of w == 0
  | 0x1C => qbOf w == 0 && fnOf w ≤ 2
  | 0x20 => fnOf w == 0
  | 0x21 => fnOf w == 0
  | 0x22 => fnOf w == 0
  | 0x23 => fnOf w == 0
  | 0x24 => fnOf w == 0
  | 0x25 => fnOf w == 0
  | 0x26 => fnOf w ≤ 1
  | 0x28 => qbOf w == 0 && fnOf w == 0 && qdOf w != 63
  | 0x29 => fnOf w == 0
  | 0x2C => (fn4Of w == 0 || (fn4Of w == 1 && qcOf w == 0)) && qdOf w != 63
  | 0x2D => (fn4Of w == 0 || (fn4Of w == 1 && qcOf w != 63)) && qdOf w != 63
  | 0x2E => (fn4Of w == 0 || (fn4Of w == 1 && qcOf w != 63)) && qdOf w != 63
  | 0x2F => fn4Of w ≤ 1 && qdOf w ≤ 61
  | 0x30 => recordOk d w 32
  | 0x31 => qbOf w == 0 && recordOk d w 16
  | 0x32 => qbOf w == 0 && recordOk d w 16
  | 0x33 => recordOk d w 16
  | _ => false

/-- The declarations of the package at key `a`. -/
def State.imageDecl (s : State) (a : Nat) : ImageDecl :=
  let h (j : Nat) : Nat := (s.mword (a + 0x100 + 4 * j)).toNat
  { words := h 0, init := h 1, state := h 2, ins := h 3, outs := h 4 }

/-- Whether the package at key `a` passes the checks of R82. -/
def State.imageValid (s : State) (a : Nat) : Bool :=
  let d := s.imageDecl a
  let word (i : Nat) : Word := s.mword (a + 0x120 + 4 * i)
  1 ≤ d.words && d.words ≤ 4096 && d.init ≤ d.state && d.init ≤ 8192 && d.state ≤ 32768 && d.ins ≤ 16 && d.outs ≤ 16
    && (List.range (min d.words 4096)).all (fun i => wordValid d i (word i))
    && (opOf (word (d.words - 1)) == 0 || opOf (word (d.words - 1)) == 2)

end Sys2Proof.Machine
end

