-- ==== Sys2Proof/Machine/Memory.lean ====
section
/-! DEFINITION. Checked memory: what an access to a failing line meets, repairs, MRAM lines, origin regions and the scrubber
(R336 to R352). What a lost image or a lost supervisor line leads to is in the families that own the work. -/

namespace Sys2Proof.Machine

/-- What a read of a checked unit meets: it passes or was repaired; a bus error; a loop's state line was rebuilt; a loop's
image cannot be refetched; a supervisor line fails in every copy; the rebuild of a state line waits for the end of a run. -/
inductive MemOutcome where
  | ok | busError | rebuilt (loop : Nat) | imageLost (loop : Nat) | spmLost | waits
deriving DecidableEq, Repr

/-- Whether the part runs in compat mode (R488). -/
def State.compat (s : State) : Bool := s.rdB pgPWR Reg.PWR.BOOT_COMPAT

/-- A word of origin entry `e` in the MEM window (R351). -/
def State.originWord (s : State) (e k : Nat) : Word := s.word pgMEM (winBase + 0x10 * e + 4 * k)
def State.originOn (s : State) (e : Nat) : Bool := bitsAt (s.originWord e 3) 0 1 == 1
def State.originSram (s : State) (e : Nat) : Nat := (s.originWord e 0).toNat / 32 * 32
def State.originOffs (s : State) (e : Nat) : Nat := bitsAt (s.originWord e 1) 0 24 / 32 * 32
def State.originLen (s : State) (e : Nat) : Nat := bitsAt (s.originWord e 2) 0 22 / 32 * 32

/-- The address a core sees for a key: the private memories share one range (R334, assumption 20). -/
def busAddr (a : Nat) : Nat :=
  if 0x08000000 ≤ a ∧ a < 0x08300000 then 0x08000000 + (a - 0x08000000) % 0x00100000 else a

/-- The enabled origin entry a key lies in (R343). -/
def State.originOf (s : State) (a : Nat) : Option Nat :=
  (List.range 16).find? fun e =>
    s.originOn e && s.originSram e ≤ busAddr a && busAddr a < s.originSram e + s.originLen e

/-- Records a failing MRAM line (R338, R349). -/
def State.recordMram (s : State) (a : Nat) (f : Finder) (corrected : Bool) : State :=
  let s := s.setWord pgMEM 0x10C (BitVec.ofNat 32 (a / 32 * 32))
  let s := s.setWord pgMEM 0x110 (BitVec.ofNat 32 (31 + finderCode f * 2 ^ 5 + (if corrected then 6 else 7) * 2 ^ 8 + 2 ^ 31))
  let s := s.wrStamp pgMEM Reg.MEM.LAST_AT_L_STAMP Reg.MEM.LAST_AT_H_STAMP s.now
  if corrected then (s.count pgMEM Reg.MEM.MRAM_CORR_COUNT).reportFab .c 0xA6 pgMEM 31
  else s.count pgMEM Reg.MEM.UNREP_CNT_COUNT

/-- The error code of an MRAM line: 0 none, 1 correctable, 2 uncorrectable, 3 correctable and met by one access. -/
def State.mramErr (s : State) (a : Nat) : Nat := tabGet (fun _ => 0) s.chk.mramErr (a / 32 * 32)
def State.setMramErr (s : State) (a v : Nat) : State :=
  { s with chk := { s.chk with mramErr := tabPut (fun _ => 0) s.chk.mramErr (a / 32 * 32) v } }

/-- Logs an unrepairable line once until it passes a check (R345). -/
def State.logOnce (s : State) (a : Nat) (f : State → State) : State :=
  let u := checkUnit a
  if s.chk.logged.contains u then s
  else f { s with chk := { s.chk with logged := insertNat u s.chk.logged } }

/-- A line passes a check: its next failure is logged again (R345). -/
def State.linePasses (s : State) (a : Nat) : State :=
  { s with chk := { s.chk with logged := s.chk.logged.filter (· ≠ checkUnit a) } }

/-- A read of an MRAM line: corrected, and rewritten by the scrubber or the next access, or a bus error (R338). -/
def State.mramRead (s : State) (a : Nat) (f : Finder) : Bool × State :=
  let e := s.mramErr a
  if e = 0 then (true, s.linePasses a)
  else if e = 2 then (false, (s.recordMram a f false).logOnce a (·.reportFab .u 0xA7 pgMEM 31))
  else (true, (s.setMramErr a (if e = 1 ∧ f ≠ .scrubber then 3 else 0)).recordMram a f true)

/-- Refetches the line of key `a` from MRAM key `src` (R342): none where the MRAM line or its bank cannot be read. -/
def State.refetch (s : State) (a src : Nat) (f : Finder) : Bool × State :=
  if s.polderSt (pdMramA + s.activeBank) = .failed then (false, s)
  else
    let r := s.mramRead src f
    if r.1 then (true, (r.2.copyMem (a / 32 * 32) (src / 32 * 32) 32).unitRepaired a) else r

/-- The loop whose state area holds a key of engine local memory. -/
def State.stateLoopAt (s : State) (e off : Nat) : Option Nat :=
  (s.loopsOn e).find? fun l => (s.loop l).stOff ≤ off && off < (s.loop l).stOff + (s.loop l).stSize

/-- The loop whose active or fallback image holds a key of engine local memory, with the offset within that image. -/
def State.imageLoopAt (s : State) (e off : Nat) : Option (Nat × Nat) :=
  match (s.loopsOn e).find? fun l => (s.loop l).imgOff ≤ off && off < (s.loop l).imgOff + 4 * (s.loop l).imgWords with
  | some l => some (l, off - (s.loop l).imgOff)
  | none => ((s.fallbacksOn e).find? fun l =>
      (s.loop l).fbLoaded && (s.loop l).fbOff ≤ off && off < (s.loop l).fbOff + s.fbBytes l).map
        fun l => (l, off - (s.loop l).fbOff)

/-- Rebuilds the state line of key `a` of loop `l`, whose state area starts at key `base` (R344). -/
def State.rebuildLine (s : State) (l base a : Nat) : State :=
  let n := descCkpt (s.loop l).desc
  let line := a / 32 * 32
  let s := (s.overlayCkpt l base).unitRepaired a
  s.each (List.range 8) fun s k =>
    let off := line + 4 * k - base
    if n * 4 ≤ off then s.putMword (line + 4 * k) (s.initWord (s.loop l).slot off) else s

/-- The cores whose copy of a private-memory line may serve another (R342). -/
def State.spmDonors (s : State) (c line : Nat) : List Nat :=
  [0, 1, 2].filter fun d => d != c && s.sup.voting.contains d && !s.unitBad (spmBase d + line)

/-- A line nothing can repair: bus error, fault 0xA3 (R342). -/
def State.unrepairable (s : State) (a : Nat) (f : Finder) (code outcome : Nat) : MemOutcome × State :=
  (.busError, (s.recordLine a f outcome 0 false).logOnce a fun s => s.reportMem .u code a)

/-- A failing line of engine local memory: an image is refetched, a state line rebuilt (R342). -/
def State.repairEngine (s : State) (a e : Nat) (f : Finder) : MemOutcome × State :=
  let off := a - leBase e
  match s.imageLoopAt e off with
  | some (l, k) =>
    let r := s.refetch a (s.imgCode (s.loop l).slot + k) f
    if r.1 then (.ok, (r.2.recordLine a f 0 l true).reportMem .c 0xA0 a)
    else (.imageLost l, (r.2.recordLine a f 3 l false).logOnce a fun s => s.reportMem .u 0xAB a)
  | none => match s.stateLoopAt e off with
    | some l =>
      if f ≠ .engine ∧ s.chk.rebuild.contains (l, a / 32 * 32) then (.waits, s)
      else if f ≠ .engine ∧ s.executing l then
        let s := s.recordLine a f 2 l true
        (.waits, { s with chk := { s.chk with rebuild := s.chk.rebuild ++ [(l, a / 32 * 32)] } })
      else (.rebuilt l, ((s.recordLine a f 2 l true).rebuildLine l (leBase e + (s.loop l).stOff) a).reportMem .u 0xA2 a)
    | none => s.unrepairable a f 0xA3 3

/-- The rebuilds of a loop's state lines that waited for the end of its run (R344). -/
def State.waitingRebuilds (s : State) (l : Nat) : State :=
  let mine := s.chk.rebuild.filter (·.1 = l)
  let s := { s with chk := { s.chk with rebuild := s.chk.rebuild.filter (·.1 ≠ l) } }
  s.each mine fun s e =>
    if s.unitBad e.2 then (s.rebuildLine l (leBase (s.loop l).engine + (s.loop l).stOff) e.2).reportMem .u 0xA2 e.2 else s

/-- A failing line of a supervisor private memory: recopied from the lowest other voting core whose copy passes (R342). -/
def State.repairSpm (s : State) (a c : Nat) (f : Finder) : MemOutcome × State :=
  let line := (a - spmBase c) / 32 * 32
  if ¬ s.sup.voting.contains c then s.unrepairable a f 0xA3 3
  else match s.spmDonors c line with
    | d :: _ =>
      let s := (s.copyMem (spmBase c + line) (spmBase d + line) 32).unitRepaired a
      (.ok, (s.recordLine a f 1 0 true).reportMem .c 0xA1 a)
    | [] => (.spmLost, (s.recordLine a f 3 0 false).logOnce a fun s => s.reportMem .f 0xA9 a)

/-- The first row of R342 that matches a failing line, beside the origin regions. -/
def State.repairByRegion (s : State) (a : Nat) (f : Finder) : MemOutcome × State :=
  match regionOf a with
  | some (.spm c) => s.repairSpm a c f
  | some (.engineMem e) => s.repairEngine a e f
  | some .exchange => (.ok, s.slotChecked ((a - exchangeBase) / 16) f)
  | some (.shared _) => if 0x201F0000 ≤ a then s.unrepairable a f 0xA3 4 else s.unrepairable a f 0xA3 3
  | some (.appSram _) => s.unrepairable a f 0xA3 3
  | some (.mram _) => (.ok, s)
  | none => (.busError, s)

/-- Checks the line, or slot, of an SRAM key, and repairs or reports it (R340, R342). -/
def State.checkSram (s : State) (a : Nat) (f : Finder) : MemOutcome × State :=
  if ¬ s.unitBad a then (.ok, s.linePasses a)
  else match s.originOf a with
    | some e =>
      let r := s.refetch a (mramBase s.activeBank + s.originOffs e + (busAddr a - s.originSram e)) f
      if r.1 then (.ok, (r.2.recordLine a f 0 0 true).reportMem .c 0xA0 a)
      else match regionOf a with
        | some (.spm c) => r.2.repairSpm a c f
        | _ => r.2.unrepairable a f 0xA7 3
    | none => s.repairByRegion a f

/-- Checks the unit of any key (R338, R342). -/
def State.checkUnitAt (s : State) (a : Nat) (f : Finder) : MemOutcome × State :=
  match regionOf a with
  | some (.mram _) =>
    let r := s.mramRead a f
    (if r.1 then .ok else .busError, r.2)
  | _ => s.checkSram a f

/-- Bytes whose stored check fields do not fit any longer (R339): those that lie in SRAM. -/
def State.corrupt (s : State) (as : List Nat) : State :=
  s.each as fun s a => match regionOf a with
    | some (.mram _) => s
    | some _ => { s with chk := { s.chk with
        bad := insertNat a s.chk.bad, inj := s.chk.inj.filter fun b => checkUnit b != checkUnit a } }
    | none => s

/-- MRAM lines found with errors: 1 correctable, 2 uncorrectable (R338). -/
def State.corruptMram (s : State) (as : List (Nat × Nat)) : State :=
  s.each as fun s a => match regionOf a.1 with
    | some (.mram _) => if a.2 = 1 ∨ a.2 = 2 then s.setMramErr a.1 a.2 else s
    | _ => s

/-- An origin entry starts its copy: LOADED reads 0 until it ends (R343). -/
def State.originStart (s : State) (e : Nat) : State :=
  let s := s.wrB pgMEM (Reg.MEMW.O_CTRL_LOADED e) false
  if s.originOn e then { s with chk := { s.chk with copying := insertNat e s.chk.copying } }
  else { s with chk := { s.chk with copying := s.chk.copying.filter (· ≠ e) } }

/-- The keys an origin region covers: a range in private memory lies in the memory of every core (R343, assumption 20). -/
def originKeys (a : Nat) : List Nat :=
  if 0x08000000 ≤ a ∧ a < 0x08080000 then [a, a + 0x00100000, a + 0x00200000] else [a]

/-- ORIGIN_LOAD_COMPLETE: the copy ends, and LOADED is set (R343). -/
def State.originLoaded (s : State) (e : Nat) : State :=
  if s.chk.copying.contains e then
    let src := mramBase s.activeBank + s.originOffs e
    let s := { s with chk := { s.chk with copying := s.chk.copying.filter (· ≠ e) } }
    (s.each (originKeys (s.originSram e)) fun s a => s.copyMem a src (s.originLen e)).wrB pgMEM (Reg.MEMW.O_CTRL_LOADED e) true
  else s

/-- MRAM_UPDATE_OPEN (R337). -/
def State.updOpen (s : State) : State := s.wrB pgMEM Reg.MEM.MRAM_STAT_UPD true

/-- Programs a byte of MRAM: its line is rewritten whole, so its errors go (R337). -/
def State.programMram (s : State) (a : Nat) (bs : List Byte) : State :=
  let s := s.putBytes a bs
  s.each (List.range bs.length) fun s k => if (a + k) % 32 = 0 ∨ k = 0 then s.setMramErr (a + k) 0 else s

/-- Whether a voted supervisor write may program a key of MRAM now (R337). -/
def State.mramWritable (s : State) (a : Nat) : Bool := match regionOf a with
  | some (.mram b) =>
    if b = s.activeBank then
      mramBase b + 0x00C00000 ≤ a && a < mramBase b + 0x00E00000
    else s.rdB pgMEM Reg.MEM.MRAM_STAT_UPD
  | _ => false

/-- MRAM_WRITE: programmed if voted and permitted for every byte, else refused with fault 0xAC (R337). -/
def State.mramWrite (s : State) (voted : Bool) (a : Nat) (bs : List Byte) : State :=
  if (regionOf a).any (fun r => match r with | .mram _ => true | _ => false) then
    if voted ∧ (List.range bs.length).all (fun k => s.mramWritable (a + k)) then s.programMram a bs
    else s.reportFab .u 0xAC pgMEM 31
  else s

end Sys2Proof.Machine
end

