-- ==== Sys2Proof/Machine/Placement.lean ====
section
/-! DEFINITION. The placement computation of Trellis as a function of what it is given: loads, the orders of R124, the N−1
reserve with its fallback plans, and the choice of an engine (R123 to R128). -/

namespace Sys2Proof.Machine

/-- A non-negative fraction. -/
structure Frac where
  n : Nat
  d : Nat
deriving DecidableEq, Repr

def Frac.zero : Frac := ⟨0, 1⟩
def Frac.mk' (n d : Nat) : Frac := ⟨n / Nat.gcd n (max 1 d), max 1 d / Nat.gcd n (max 1 d)⟩
def Frac.add (a b : Frac) : Frac := Frac.mk' (a.n * b.d + b.n * a.d) (a.d * b.d)
def Frac.lt (a b : Frac) : Bool := a.n * b.d < b.n * a.d
def Frac.le (a b : Frac) : Bool := a.n * b.d ≤ b.n * a.d
/-- The fraction in whole units, truncated (R560). -/
def Frac.floor (a : Frac) : Nat := a.n / a.d

/-- A sequence of a converter: page number n of SAn and sequence number (R273, R301). -/
structure SeqId where
  conv : Nat
  k : Nat
deriving DecidableEq, Repr

def allSeqs : List SeqId := (List.range 6).flatMap fun n => (List.range 8).map fun k => ⟨n, k⟩

/-- Words and fields of a sequence (R301). -/
def State.seqWord (s : State) (q : SeqId) (off : Nat) : Word := s.word (pgSA q.conv) (winBase + 0x20 * q.k + off)
def State.seqOn (s : State) (q : SeqId) : Bool := bitsAt (s.seqWord q 0) 0 1 == 1
def State.seqSrc (s : State) (q : SeqId) : Nat := bitsAt (s.seqWord q 0) 1 2
def State.seqStage (s : State) (q : SeqId) : Nat := bitsAt (s.seqWord q 0) 4 4
def State.seqEvent (s : State) (q : SeqId) : Nat := bitsAt (s.seqWord q 0) 8 2
def State.seqUs (s : State) (q : SeqId) : Nat := bitsAt (s.seqWord q 4) 0 20
/-- The inputs of a sequence, up to the byte that ends the list. -/
def State.seqEntries (s : State) (q : SeqId) : List Nat :=
  ((List.range 16).map fun i => bitsAt (s.seqWord q (8 + 4 * (i / 4))) (8 * (i % 4)) 7).takeWhile (· ≠ 0x7F)

/-- The event that starts a sequence: its source with stage and event, interval, or page (R273, R277). -/
structure SeqEvent where
  src : Nat
  a : Nat
  b : Nat
deriving DecidableEq, Repr

def State.seqEventOf (s : State) (q : SeqId) : SeqEvent :=
  if s.seqSrc q = 0 then ⟨0, s.seqStage q, s.seqEvent q⟩
  else if s.seqSrc q = 1 then ⟨1, s.seqUs q, 0⟩
  else ⟨2, q.conv, 0⟩

/-- The AIN inputs a descriptor binds, for an image with `n` inputs (R277). -/
def boundAins (d : List Word) (n : Nat) : List Nat :=
  ((boundIns d n).filter fun h => 0x1000 ≤ h && h < 0x1060).map (· - 0x1000)

/-- The sequence events shared by enabled sequences that hold every input of the list (R277). -/
def State.setEvents (s : State) (ains : List Nat) : List SeqEvent :=
  let seqs := allSeqs.filter s.seqOn
  let evs := (seqs.map s.seqEventOf).eraseDups
  if ains.isEmpty then []
  else evs.filter fun ev => ains.all fun a => seqs.any fun q => s.seqEventOf q == ev && (s.seqEntries q).contains a

/-- The stage period, in edge units, of the period a trigger follows. -/
def State.eventPeriod (s : State) (st : Nat) : Nat := max 1 (s.periodReg st)

/-- The trigger interval of a loop in edge units: 1 / f of R123. -/
def State.loopInterval (s : State) (d : List Word) (nIn : Nat) : Frac :=
  match descSrc d with
  | 0 => ⟨s.eventPeriod (descStage d), 1⟩
  | 1 => match s.setEvents (boundAins d nIn) with
    | ev :: _ =>
      if ev.src = 0 then ⟨s.eventPeriod ev.a, 1⟩
      else if ev.src = 1 then ⟨6400 * max 1 ev.a, 1⟩
      else ⟨6400000000, max 1 (Config.softwareSequenceRate ev.a)⟩
    | [] => ⟨6400000000, 1⟩
  | 2 => ⟨6400 * max 1 (descArg d), 1⟩
  | _ => ⟨6400000000, max 1 (descHz d)⟩

/-- Where a stage's sample instant `ev` lies after its period start, in edge units (R156, R273). -/
def State.sampleOffset (s : State) (st ev : Nat) : Nat :=
  s.rd (pgSG st) Reg.SGT.SAMP_OFFSET + (if ev % 2 = 1 then s.eventPeriod st / 2 else 0)

/-- The instants at which a loop is triggered: an interval and a phase in edge units; none for slot, kick and software
triggers (R127). -/
def State.loopInstants (s : State) (d : List Word) (nIn : Nat) : Option (Nat × Nat) :=
  let start (st ev : Nat) : Nat := ((s.stage st).timing (if 2 ≤ ev ∧ st < 2 then 1 else 0)).start
  match descSrc d with
  | 0 =>
    let st := descStage d
    let p := s.eventPeriod st
    some (p, (start st (descEvent d) + (if descEvent d % 2 = 1 then p / 2 else 0) + descArg d) % p)
  | 1 => match s.setEvents (boundAins d nIn) with
    | ev :: _ =>
      if ev.src = 0 then
        let p := s.eventPeriod ev.a
        some (p, (start ev.a ev.b + s.sampleOffset ev.a ev.b) % p)
      else if ev.src = 1 then some (6400 * max 1 ev.a, 0)
      else none
    | [] => none
  | 2 => some (6400 * max 1 (descArg d), 0)
  | _ => none

/-- Whether two trigger patterns fall on one instant at least once (R127). -/
def sameInstant (a b : Option (Nat × Nat)) : Bool := match a, b with
  | some (p, x), some (q, y) => x % Nat.gcd p q == y % Nat.gcd p q
  | _, _ => false

/-- A loop as placement sees it. -/
structure PLoop where
  id : Nat
  cls : Nat
  group : Nat
  load : Frac
  img : Nat
  mem : Nat
  fb : Nat
  pulse : Bool
  instants : Option (Nat × Nat)
deriving DecidableEq, Repr

/-- A loop under descriptor `d`: its load is OPS × f in Mop/s, OPS the larger of its budget and its highest measured cost
(R123, R124). -/
def State.ploop (s : State) (l : Nat) (d : List Word) : PLoop :=
  let k := descImg d
  let t := s.loopInterval d (s.imgIns k)
  let ops := (s.loop l).costs.foldl max (descBudget d)
  let img := round256 (4 * s.imgWords k)
  { id := l, cls := descClass d, group := descGroup d
    load := Frac.mk' (ops * 6400000000 * t.d) (t.n * 1000000)
    img := img
    mem := img + round256 (max (descSize d) (s.imgState k))
    fb := round256 (4 * s.imgWords k + s.imgInit k)
    pulse := (boundOuts d (s.imgOuts k)).any fun h => (pulseOutput h).isSome
    instants := s.loopInstants d (s.imgIns k) }

/-- An engine as placement sees it: its rate, the bytes of fallback images it holds and the loops it carries. -/
structure Bin where
  e : Nat
  rate : Nat
  fb : Nat
  loops : List PLoop
deriving DecidableEq, Repr

def Bin.load (b : Bin) : Frac := (b.loops.map (·.load)).foldl Frac.add Frac.zero

/-- Load over rate; an engine without a rate is worse than any (R123). -/
def loadFrac (load : Frac) (rate : Nat) : Frac :=
  if rate = 0 then (if load.n = 0 then Frac.zero else ⟨2 ^ 64, 1⟩) else Frac.mk' load.n (load.d * rate)

/-- Memory in use: areas, fallback images and one standby area of the largest image (R124 order 3). -/
def Bin.mem (b : Bin) : Nat :=
  (b.loops.map (·.mem)).foldl (· + ·) 0 + (b.loops.map (·.img)).foldl max 0 + b.fb

/-- What placement is given beside the loops: the load limit in percent and the exclusion of groups. -/
structure PlaceRules where
  limit : Nat
  excl : Nat → Nat → Bool

/-- Whether loops of two groups may not share an engine (R124 order 4, R126). -/
def PlaceRules.apart (r : PlaceRules) (a b : Nat) : Bool := a != 0 && b != 0 && (a == b || r.excl a b || r.excl b a)

/-- The first of orders 2 to 5 that an engine breaks once it carries `l` too, 0 when none (R124). -/
def Bin.fails (r : PlaceRules) (b : Bin) (l : PLoop) : Nat :=
  let b' := { b with loops := b.loops ++ [l] }
  if 8 < b'.loops.length then 2
  else if 0x20000 < b'.mem then 3
  else if b.loops.any fun m => r.apart l.group m.group then 4
  else if Frac.lt (Frac.mk' (r.limit * b.rate) 100) b'.load then 5
  else 0

/-- Whether a class A loop of the same trigger instants is on the engine (R127). -/
def Bin.shares (b : Bin) (l : PLoop) : Bool :=
  l.cls == 0 && b.loops.any fun m => m.cls == 0 && sameInstant l.instants m.instants

/-- Whether engine `a` is preferred to `b` for a loop: evictions first, then shared instants, load fraction after placement
and engine number (R125, R127). -/
def better (a b : Bool × Bool × Frac × Nat) : Bool :=
  if a.1 != b.1 then !a.1
  else if a.2.1 != b.2.1 then !a.2.1
  else if Frac.lt a.2.2.1 b.2.2.1 then true
  else if Frac.lt b.2.2.1 a.2.2.1 then false
  else a.2.2.2 < b.2.2.2

/-- The best of some candidates. -/
def bestOf (xs : List ((Bool × Bool × Frac × Nat) × List Nat)) : Option (Nat × List Nat) :=
  (xs.foldl (fun best x => match best with
    | none => some x
    | some b => if better x.1 b.1 then some x else some b) none).map fun x => (x.1.2.2.2, x.2)

/-- How engine `b` ranks for loop `l` when the loops `out` leave it. -/
def Bin.rank (b : Bin) (l : PLoop) (out : List Nat) : (Bool × Bool × Frac × Nat) × List Nat :=
  let kept := { b with loops := b.loops.filter fun m => !out.contains m.id }
  ((!out.isEmpty, kept.shares l, loadFrac (kept.load.add l.load) b.rate, b.e), out)

/-- The engine R127 chooses for a loop among those on which it fits. -/
def chooseEngine (r : PlaceRules) (bins : List Bin) (l : PLoop) : Option Nat :=
  (bestOf ((bins.filter fun b => b.fails r l == 0).map fun b => b.rank l [])).map (·.1)

/-- Puts a loop on an engine. -/
def assignTo (bins : List Bin) (e : Nat) (l : PLoop) : List Bin :=
  bins.map fun b => if b.e = e then { b with loops := b.loops ++ [l] } else b

/-- Whether loop `a` is placed before `b`: class, then load, then ID (R127). -/
def placedBefore (a b : PLoop) : Bool :=
  if a.cls != b.cls then a.cls < b.cls
  else if Frac.lt b.load a.load then true
  else if Frac.lt a.load b.load then false
  else a.id < b.id

/-- Insertion into a list ordered by a relation. -/
def insertBy {α : Type} (before : α → α → Bool) (x : α) : List α → List α
  | [] => [x]
  | y :: ys => if before x y then x :: y :: ys else y :: insertBy before x ys

/-- A list in the order of a relation. -/
def sortBy {α : Type} (before : α → α → Bool) (xs : List α) : List α := xs.foldr (insertBy before) []

/-- Places loops one after another; where one has no engine, the loop and the order it failed: the highest order at which
any engine failed it (R127, R128). -/
def placeAll (r : PlaceRules) : List PLoop → List Bin → Except (Nat × Nat) (List Bin)
  | [], bins => .ok bins
  | l :: ls, bins => match chooseEngine r bins l with
    | some e => placeAll r ls (assignTo bins e l)
    | none => .error (l.id, (bins.map (·.fails r l)).foldl max 1)

/-- Loops that may be evicted, in the order of R125: class C, then class B without pulse outputs; lowest load first, then
highest ID. -/
def evictable (b : Bin) : List PLoop :=
  sortBy (fun a c =>
    if a.cls != c.cls then c.cls < a.cls
    else if Frac.lt a.load c.load then true
    else if Frac.lt c.load a.load then false
    else c.id < a.id)
    (b.loops.filter fun l => l.cls == 2 || (l.cls == 1 && !l.pulse))

/-- The bin without some loops. -/
def Bin.without (b : Bin) (out : List Nat) : Bin := { b with loops := b.loops.filter fun m => !out.contains m.id }

/-- The fewest loops, in eviction order, whose leaving lets `l` on the engine; then those not needed stay (R125). -/
def evictFor (r : PlaceRules) (b : Bin) (l : PLoop) : List PLoop → List Nat → Option (List Nat)
  | [], out => if (b.without out).fails r l = 0 then some out else none
  | x :: xs, out =>
    if (b.without out).fails r l = 0 then some out
    else evictFor r b l xs (out ++ [x.id])

/-- Takes back the evictions a placement does not need. -/
def trimEvictions (r : PlaceRules) (b : Bin) (l : PLoop) (out : List Nat) : List Nat :=
  out.foldl (fun keep x =>
    let less := keep.filter (· ≠ x)
    if (b.without less).fails r l = 0 then less else keep) out

/-- The engine for a class A loop, with the loops evicted there (R125, R151). `own` gives the bytes of the loop's own
fallback image on an engine, which count as its active image. -/
def chooseEvicting (r : PlaceRules) (bins : List Bin) (l : PLoop) (own : Nat → Nat) : Option (Nat × List Nat) :=
  bestOf (bins.filterMap fun b =>
    let b := { b with fb := b.fb - own b.e }
    (evictFor r b l (evictable b) []).map fun out => b.rank l (trimEvictions r b l out))

/-- The fallback plan of one engine: its class A loops on the others, one after another (R125). -/
def fallbackOf (r : PlaceRules) (own : Nat → Nat → Nat) : List PLoop → List Bin → List (Nat × Nat) → Option (List (Nat × Nat))
  | [], _, plan => some plan
  | l :: ls, bins, plan => match chooseEvicting r bins l (own l.id) with
    | none => none
    | some (e, out) =>
      let bins := bins.map fun b => if b.e = e then
          { (b.without out) with fb := b.fb - own l.id e, loops := (b.without out).loops ++ [l] } else b
      fallbackOf r own ls bins (plan ++ [(l.id, e)])

/-- The first condition of the reserve: class A loads against 70 % of all rates but the fastest (R125). -/
def reserveLimit (bins : List Bin) : Frac :=
  let rates := bins.map (·.rate)
  Frac.mk' (70 * (rates.foldl (· + ·) 0 - rates.foldl max 0)) 100
def classALoad (bins : List Bin) : Frac :=
  ((bins.flatMap (·.loops)).filter (·.cls == 0)).map (·.load) |>.foldl Frac.add Frac.zero

/-- The fallback plans of all engines: loop and engine, none where an engine has no plan (R125). -/
def fallbackPlans (r : PlaceRules) (bins : List Bin) (own : Nat → Nat → Nat) : Option (List (Nat × Nat)) :=
  bins.foldl (fun acc b => match acc with
    | none => none
    | some plan => fallbackOf r own (sortBy placedBefore (b.loops.filter (·.cls == 0))) (bins.filter (·.e != b.e)) plan) (some [])

/-- Whether the N−1 reserve holds (R125). -/
def reserveHolds (r : PlaceRules) (bins : List Bin) (own : Nat → Nat → Nat) : Bool :=
  Frac.le (classALoad bins) (reserveLimit bins) && (fallbackPlans r bins own).isSome

/-- Whether an engine keeps orders 2 to 5 with the loops it carries; the first order it breaks. -/
def Bin.broken (r : PlaceRules) (b : Bin) : Nat :=
  (b.loops.foldl (fun (acc : Nat × List PLoop) l =>
    let k := Bin.fails r { b with loops := acc.2 } l
    (if acc.1 = 0 then k else acc.1, acc.2 ++ [l])) (0, [])).1

/-- The stage whose period sets a loop's trigger interval, none where no stage does (R123). -/
def State.intervalStage (s : State) (d : List Word) (nIn : Nat) : Option Nat := match descSrc d with
  | 0 => some (descStage d)
  | 1 => match s.setEvents (boundAins d nIn) with
    | ev :: _ => if ev.src = 0 then some ev.a else none
    | [] => none
  | _ => none

/-- Loads the hold guards of a loop's pulse outputs with its trigger interval; `fresh` for a loop placed anew, whose guards
have no history (R140). -/
def State.loadGuards (s : State) (l : Nat) (fresh : Bool) : State :=
  let x := s.loop l
  let t := s.loopInterval x.desc (s.imgIns x.slot)
  s.each ((boundOuts x.desc (s.imgOuts x.slot)).filterMap pulseOutput) fun s po =>
    let g : Guard := if fresh then { base := s.now } else s.guard po.1 po.2
    s.setGuard po.1 po.2 { g with loaded := true, tNum := t.n, tDen := t.d }

/-- Reloads the guards of placed loops whose interval the stage `st` sets, or, given none, no stage sets (R140, R403). -/
def State.reloadGuards (s : State) (st : Option Nat) : State :=
  s.each loopIds fun s l =>
    let x := s.loop l
    if x.placed ∧ s.intervalStage x.desc (s.imgIns x.slot) = st then s.loadGuards l false else s

end Sys2Proof.Machine
end

