-- ==== Sys2Proof/Machine/LoopRun.lean ====
section
/-! DEFINITION. Runs: triggers, dispatch, the end of a run, overruns, deadlines, held writes, delays and the signal exchange
(R72 to R78, R90, R106 to R114, R523, R525, R569). -/

namespace Sys2Proof.Machine

/-- The engine that carries loop `l`, its page. -/
def State.loopPage (s : State) (l : Nat) : Nat := pgLE (s.loop l).engine

/-- The run that executes on engine `e`: class A first (R76). -/
def Engine.activeCtx (x : Engine) : Context := if x.a.run.isSome then x.a else x.bc
def State.ctx (s : State) (e : Nat) : Context := (s.eng e).activeCtx
def State.setCtx (s : State) (e : Nat) (c : Context) : State :=
  let x := s.eng e
  s.setEng e (if x.a.run.isSome then { x with a := c } else { x with bc := c })

/-- Loops of an engine become idle or busy: its polder shows ready or running (R32). -/
def State.engineBusy (s : State) (e : Nat) : State := s.setBusy (pdLE e) (!(s.loopsOn e).isEmpty)

/-- Writes the state words held for a loop, in order of arrival (R73). -/
def State.applyHeld (s : State) (l : Nat) : State :=
  let x := s.loop l
  let base := leBase x.engine + x.stOff
  let s := s.each x.held fun s w => s.putMword (base + w.1) w.2
  s.setLoop l { s.loop l with held := [] }

/-- The delay values after a run with apply delay `d` (R56). -/
def LoopRec.withDelay (x : LoopRec) (d : Nat) : LoopRec :=
  { x with
    delayLast := d
    delayAvg := if x.delayValid then ((x.delayAvg : Int) + ((16 * d : Nat) - (x.delayAvg : Int)) / 16).toNat else 16 * d
    delayPeak := max x.delayPeak d
    delayValid := true }

/-- Frees the areas of a loop that has been disabled or is placed anew; its counters stay until they are written. A loop still
enabled then waits for Trellis to place it (R121, R129). -/
def State.freeLoop (s : State) (l : Nat) : State :=
  let x := s.loop l
  let s := (s.setLoop l { skips := x.skips, moves := x.moves }).engineBusy x.engine
  if descEn (s.liveDesc l) then { s with trl := { s.trl with events := s.trl.events ++ [.commit [l]] } } else s

/-- Records a run that ended with a sticky flag or a rejected output (R90, R114). -/
def State.recordExc (s : State) (e : Nat) (c : Context) (r : Run) : State :=
  if c.flags.nv ∨ c.flags.dz ∨ c.flags.ovf ∨ r.rejected then
    (s.setWord (pgLE e) 0x158 (BitVec.ofNat 32
      (r.loop + bit c.flags.nv * 2 ^ 8 + bit c.flags.dz * 2 ^ 9 + bit c.flags.ovf * 2 ^ 10 + bit r.rejected * 2 ^ 11 + 2 ^ 31))).count
      (pgLE e) Reg.LE.EXC_CNT_COUNT
  else s

/-- A snapshot asked for this loop copies the register context at its EXIT (R467). -/
def State.takeSnapshot (s : State) (e : Nat) (c : Context) (l : Nat) : State :=
  let x := s.eng e
  if x.snapLoop = some l then s.setEng e { x with snapLoop := none, snap := some { c with run := none } } else s

/-- The run of the active context ends; `atExit` says whether at EXIT. Its context is free, the loop's records follow, held
writes apply, and a run that ended at EXIT leaves a checkpoint (R72, R73, R90, R111, R113, R132). -/
def State.endRun (s : State) (e : Nat) (atExit : Bool) : State :=
  let c := s.ctx e
  match c.run with
  | none => s
  | some r =>
    let s := s.recordExc e c r
    let s := s.wr (pgLE e) Reg.LE.RUNS_COUNT (s.rd (pgLE e) Reg.LE.RUNS_COUNT + 1)
    let s := if atExit then s.takeSnapshot e c r.loop else s
    let s := s.setCtx e {}
    let x := s.loop r.loop
    let x := match r.delay with
      | some d => x.withDelay d
      | none => x
    let s := s.setLoop r.loop { x with
      prevStamp := some r.stamp, costs := (r.ops :: x.costs).take 1024
      consec := if x.overrun then x.consec else 0, overrun := false, late := false }
    let s := (s.waitingRebuilds r.loop).applyHeld r.loop
    let s := if atExit then s.writeCkpt r.loop r.stamp else s
    if (s.loop r.loop).gone then s.freeLoop r.loop else s

/-- A run that the engine ends with a fault is recorded in ABORT_LAST (R26, R111, R114). -/
def State.abortRun (s : State) (e code : Nat) : State :=
  match (s.ctx e).run with
  | none => s
  | some r =>
    let s := s.setWord (pgLE e) 0x168 (BitVec.ofNat 32 (r.loop + code * 2 ^ 8 + 2 ^ 31))
    let s := if code = 5 then s else s.reportLoop .u code (pgLE e) r.loop
    s.endRun e false

/-- An overrun of loop `l` (R112, R113). -/
def State.overrun (s : State) (l : Nat) : State :=
  let x := s.loop l
  let p := s.loopPage l
  let s := (s.count p Reg.LE.OVR_CNT_COUNT).setWord p 0x154 (BitVec.ofNat 32 (l + 2 ^ 31))
  let s := s.setLoop l { x with consec := x.consec + 1, overrun := true }
  if x.consec + 1 = 2 then
    { s.reportLoop .u 0x24 p l with trl := { s.trl with events := s.trl.events ++ [.overrun l] } }
  else s

/-- A trigger boundary: a changed descriptor takes effect, and its guards follow its interval (R121, R140). -/
def State.takeNext (s : State) (l : Nat) : State :=
  let x := s.loop l
  match x.next with
  | some d => (s.setLoop l { x with desc := d, next := none }).loadGuards l false
  | none => s

/-- A trigger of loop `l` with its stamp (R75, R112, R134, R467, R569). -/
def State.fire (s : State) (l stamp : Nat) : State :=
  let x := s.loop l
  let pd := s.polder (pdLE x.engine)
  if ¬ x.active ∨ pd.withheld ∨ pd.st = .failed then s
  else if x.copying then
    let s := s.skipTrigger l
    match (s.loop l).move with
    | some m =>
      if m.skipLogged then s
      else (s.setLoop l { s.loop l with move := some { m with skipLogged := true } }).reportLoop .c 0x2D pgTRL l
    | none => s
  else if x.held467 then s.skipTrigger l
  else if s.inProgress l then s.overrun l
  else
    let s := s.takeNext l
    let e := s.eng x.engine
    s.setEng x.engine { e with waiting := e.waiting ++ [{ loop := l, stamp := stamp }] }

/-- Fires every loop that a predicate selects, in rising order of ID, with one stamp. -/
def State.fireAll (s : State) (sel : LoopRec → Bool) (stamp : Nat) : State :=
  s.each (loopIds.filter fun l => sel (s.loop l)) fun s l => s.fire l stamp

/-- A write to slot `n` fires the loops it triggers with the slot's new stamp (R75, R109). -/
def State.fireSlot (s : State) (n stamp : Nat) : State :=
  s.fireAll (fun x => descSrc x.desc == 3 && descSlot x.desc == n) stamp

/-- KICK: a write of a loop ID to TRL.KICK; ignored unless its trigger is the kick (R75, R152). -/
def State.kick (s : State) (l : Nat) : State :=
  if l < 64 ∧ descSrc (s.loop l).desc = 4 then s.fire l s.now else s

/-- TRIGGER_PERIODIC: the loops whose interval divides the present instant (R75). -/
def State.firePeriodic (s : State) : State :=
  s.fireAll (fun x => descSrc x.desc == 2 && descArg x.desc != 0 && s.now % (320 * descArg x.desc) == 0) s.now

/-- The instant, in edge units, at which event `ev` of a stage's present or last period plus an offset lies: 0 start of
set A, 1 its centre, 2 and 3 those of set B (R75, R118). -/
def State.stageEventAt (s : State) (st ev : Nat) (off : Nat) (last : Bool) : Option Nat :=
  let t := (s.stage st).timing (if 2 ≤ ev ∧ isTraction st then 1 else 0)
  if t.started then
    some ((if last then t.prev else t.start) + (if ev % 2 = 1 then t.period / 2 else 0) + off)
  else none

/-- Whether a stage event with its offset falls on the present tick. -/
def State.stageEventNow (s : State) (st ev off : Nat) : Bool :=
  [false, true].any fun last => (s.stageEventAt st ev off last).any fun t => t / 20 == s.now

/-- TRIGGER_STAGE_EVENT: the loops triggered by the event of the stage whose programmed instant is now (R75). -/
def State.fireStageEvent (s : State) (st ev : Nat) : State :=
  s.fireAll (fun x => descSrc x.desc == 0 && descStage x.desc == st && descEvent x.desc == ev
    && s.stageEventNow st ev (descArg x.desc)) s.now

/-- Whether waiting run `w` goes before `v`: class, then stamp, then loop ID (R76). -/
def State.goesBefore (s : State) (w v : Waiting) : Bool :=
  let cw := descClass (s.loop w.loop).desc
  let cv := descClass (s.loop v.loop).desc
  cw < cv || (cw == cv && (w.stamp < v.stamp || (w.stamp == v.stamp && w.loop < v.loop)))

/-- The waiting run that would start next, of class A only or of any class. -/
def State.nextWaiting (s : State) (e : Nat) (aOnly : Bool) : Option Waiting :=
  let ws := (s.eng e).waiting.filter fun w => !aOnly || descClass (s.loop w.loop).desc == 0
  ws.foldl (fun best w => match best with
    | some b => if s.goesBefore w b then some w else some b
    | none => some w) none

/-- RUN_DISPATCH: the next waiting run starts on its context; a class A run preempts a run of class B or C, and no other run
starts while one executes (R76, R78). -/
def State.dispatch (s : State) (e : Nat) : State :=
  let x := s.eng e
  if ¬ (s.polderSt (pdLE e) = .running ∨ s.polderSt (pdLE e) = .ready ∨ s.polderSt (pdLE e) = .draining)
      ∨ (s.polder (pdLE e)).withheld then s
  else if x.a.run.isSome then s
  else match s.nextWaiting e x.bc.run.isSome with
    | none => s
    | some w =>
      let c : Context := { run := some { loop := w.loop, stamp := w.stamp } }
      let waiting := x.waiting.filter (· ≠ w)
      if descClass (s.loop w.loop).desc = 0 then s.setEng e { x with waiting := waiting, a := c }
      else s.setEng e { x with waiting := waiting, bc := c }

/-- RUN_DEADLINE_PASSED: the run in progress of a loop has not ended by its trigger stamp plus its deadline (R110). -/
def State.deadlinePassed (s : State) (l : Nat) : State :=
  let x := s.loop l
  match s.progressStamp l with
  | some t =>
    if descDeadline x.desc ≠ 0 ∧ ¬ x.late ∧ s.passed t (usTicks (descDeadline x.desc)) then
      let s := s.count (s.loopPage l) Reg.LE.DEADLINE_CNT_COUNT
      let s := s.setLoop l { x with late := true, deadlineLogged := true }
      if x.deadlineLogged then s else s.reportLoop .c 0x22 (s.loopPage l) l
    else s
  | none => s

/-- The operations of an instruction are counted, the program goes on at `pc`, and a run over its budget is counted and logged
(R83, R110). -/
def State.spend (s : State) (e cost pc : Nat) : State :=
  let c := s.ctx e
  match c.run with
  | none => s
  | some r =>
    let exceeds := descBudget (s.loop r.loop).desc < r.ops + cost
    let s := s.setCtx e { c with run := some { r with pc := pc, ops := r.ops + cost, overBudget := r.overBudget || exceeds } }
    let x := s.eng e
    let s := s.setEng e { x with window := { x.window with ops := x.window.ops + cost } }
    if exceeds ∧ ¬ r.overBudget then
      let s := s.count (pgLE e) Reg.LE.BUDGET_CNT_COUNT
      let l := s.loop r.loop
      let s := s.setLoop r.loop { l with budgetLogged := true }
      if l.budgetLogged then s else s.reportLoop .c 0x21 (pgLE e) r.loop
    else s

/-- What an instruction does beside its result: its operations are counted, and a run that has reached four times its budget
ends at the boundary that follows (R111). -/
def State.retire (s : State) (e cost pc : Nat) : State :=
  match (s.ctx e).run with
  | none => s
  | some r =>
    let s := s.spend e cost pc
    if 4 * descBudget (s.loop r.loop).desc ≤ r.ops + cost then s.abortRun e 0x25 else s

/-- An instruction that only changes its context (R83). -/
def State.compute (s : State) (e cost : Nat) (f : Context → Context) : State :=
  match (s.ctx e).run with
  | none => s
  | some r => (s.setCtx e (f (s.ctx e))).retire e cost (r.pc + 1)

/-- EXIT (R72, R90). -/
def State.loopExit (s : State) (e : Nat) : State :=
  match (s.ctx e).run with
  | none => s
  | some r => (s.spend e 1 r.pc).endRun e true

/-- TRAP with its code (R83, R90, R114). -/
def State.loopTrap (s : State) (e code : Nat) : State :=
  match (s.ctx e).run with
  | none => s
  | some r =>
    let s := (s.spend e 1 r.pc).setWord (pgLE e) 0x168 (BitVec.ofNat 32 (r.loop + 0x20 * 2 ^ 8 + 2 ^ 31))
    (s.reportLoop .u 0x20 (pgLE e) r.loop (code % 256)).endRun e false

/-- Key of word `off` of the state area of the run that executes on engine `e`, none outside it (R71, R111). -/
def State.stateKey (s : State) (r : Run) (off : Nat) : Option Nat :=
  let x := s.loop r.loop
  if off + 4 ≤ x.stSize then some (leBase x.engine + x.stOff + off) else none

/-- The state line of key `a` is checked on behalf of a run: none, with the run ended, where it was rebuilt or could not be
read (R344). -/
def State.runReads (s : State) (e l a : Nat) : Option State × State :=
  let r := s.checkUnitAt a .engine
  match r.1 with
  | .ok => (some r.2, r.2)
  | .rebuilt _ => (none, (r.2.endRun e false).skipTrigger l)
  | _ => (none, r.2.endRun e false)

/-- DELAY_PEAK.CLR and TRL.LOOP_DELAY_PEAK.CLR clear the peak of a loop (R57, R152). -/
def State.clearPeak (s : State) (l : Nat) : State := s.setLoop l { s.loop l with delayPeak := 0 }

/-- SLOT_WRITE by a writer other than a loop: only VALUE takes a write; it replaces the whole slot, stamped at its arrival,
and fires the slot's triggers (R75, R107). -/
def State.slotWrite (s : State) (src n word : Nat) (w : Word) : State :=
  if n < 1024 ∧ word = 0 then (s.putSlot n w s.now 0 src false).fireSlot n s.now else s

/-- A read of a slot's VALUE by a port: the slot is checked, and its stamp and META go to the port's shadow (R107, R346). -/
def State.slotRead (s : State) (port n : Nat) (f : Finder) : State :=
  if n < 1024 then
    let s := s.slotChecked n f
    { s with
      answer := s.slotWord n 0
      slotShadows := tabPut (fun _ => none) s.slotShadows port
        (some { slot := n, stampL := s.slotWord n 1, stampH := s.slotWord n 2, info := s.slotWord n 3 }) }
  else s

/-- Word `k` of slot `n` as a port reads it: the shadow of the slot whose VALUE it read last, else the present word (R107). -/
def State.slotSeen (s : State) (port n k : Nat) : Word :=
  match tabGet (fun _ => none) s.slotShadows port with
  | some x =>
    if x.slot = n ∧ k ≠ 0 then (if k = 1 then x.stampL else if k = 2 then x.stampH else x.info) else s.slotWord n k
  | none => s.slotWord n k

/-- The loop in whose image an offset of engine memory lies: active, standby or fallback, or one that a move loads there. -/
def State.imageAt (s : State) (e off : Nat) : Option Nat :=
  loopIds.find? fun l =>
    let x := s.loop l
    let inside (o n : Nat) : Bool := o ≤ off && off < o + n
    (x.placed && x.engine == e && inside x.imgOff (4 * x.imgWords))
      || (x.placed && x.fallback == some e && inside x.fbOff (s.fbBytes l))
      || (x.engine == e && x.graft.any fun g => inside g.imgOff (4 * s.imgWords (descImg g.desc)))
      || x.move.any fun m => m.dest == e && (inside m.imgOff (4 * x.imgWords) || inside m.stOff x.stSize)

/-- LOCAL_MEMORY_WRITE of a word from outside the engine: held for a state area while a run is in progress or its state is
copied, discarded for an image, else written (R73, R74, R525). -/
def State.localWrite (s : State) (e off : Nat) (w : Word) : State :=
  let off := off / 4 * 4
  if 16 ≤ e ∨ 0x20000 ≤ off ∨ s.sluicesClosed (pdLE e) then s
  else match s.stateLoopAt e off with
    | some l =>
      let x := s.loop l
      if s.executing l ∨ (s.waitingRun l).isSome ∨ x.copying then
        s.setLoop l { x with held := x.held ++ [(off - x.stOff, w)] }
      else s.putMword (leBase e + off) w
    | none => match s.imageAt e off with
      | some l => s.reportLoop .c 0x27 (pgLE e) l
      | none => s.putMword (leBase e + off) w

/-- The mean of the windows in service: operations over executing ticks, in Mop/s of 320 ticks per µs (R20, R523). -/
def windowRate (ws : List RateWindow) : Nat :=
  let ws := ws.filter (·.inService)
  let ops := (ws.map (·.ops)).foldl (· + ·) 0
  let ticks := (ws.map (·.ticks)).foldl (· + ·) 0
  if ticks = 0 then 0 else satNat 16 (ops * 320 / ticks)

/-- RATE_WINDOW_END: the window of engine `e` closes with the ticks its runs took, and RATE follows (R20, R523). -/
def State.rateWindowEnd (s : State) (e ticks : Nat) : State :=
  let x := s.eng e
  let ins := s.inService (pdLE e)
  let w := { x.window with ticks := x.window.ticks + ticks, inService := ins }
  let ws := (w :: x.windows).take 16
  let s := s.setEng e { x with windows := ws, window := {} }
  let valid := ws.length == 16 && ws.all (·.inService)
  let old := s.word (pgLE e) 0x100
  let s := s.setWord (pgLE e) 0x100 (BitVec.ofNat 32 (windowRate ws + bit w.probe * 2 ^ 16 + bit valid * 2 ^ 31))
  if s.word (pgLE e) 0x100 = old then s
  else { s with trl := { s.trl with events := if s.trl.events.contains .rate then s.trl.events else s.trl.events ++ [.rate] } }

/-- RATE_PROBE: an idle engine measures itself; the probe's operations and its ticks enter the window (R21). -/
def State.rateProbe (s : State) (e ops ticks : Nat) : State :=
  let x := s.eng e
  if s.inService (pdLE e) ∧ x.a.run = none ∧ x.bc.run = none then
    s.setEng e { x with window := { x.window with ops := x.window.ops + ops, ticks := x.window.ticks + ticks, probe := true } }
  else s

end Sys2Proof.Machine
end

