-- ==== Sys2Proof/Machine/LoopIsa.lean ====
section
/-! DEFINITION. The loop instruction set but for inputs and outputs: moves, integer and binary32 arithmetic, transforms,
branches, state access and control blocks (R78 to R98). Transforms and blocks compute operation by operation in binary32
(assumption 14). -/

namespace Sys2Proof.Machine

/-- Register q`n` of a context (R78). -/
def Context.get (c : Context) (n : Nat) : Word := tabGet (fun _ => 0) c.q n
def Context.put (c : Context) (n : Nat) (w : Word) : Context := { c with q := tabPut (fun _ => 0) c.q n w }

/-- The four compare flags, replaced together (R88). -/
def Context.cmp (c : Context) (lt eq gt un : Bool) : Context :=
  { c with flags := { c.flags with lt := lt, eq := eq, gt := gt, un := un } }

/-- Sticky flags are set and stay set (R79, R88). -/
def Context.sticky (c : Context) (nv dz ovf : Bool) : Context :=
  { c with flags := { c.flags with nv := c.flags.nv || nv, dz := c.flags.dz || dz, ovf := c.flags.ovf || ovf } }

/-- A binary32 result with the exceptions it raised (R79). -/
def Context.putFp (c : Context) (n : Nat) (r : FpRes) : Context := (c.put n r.w).sticky r.nv r.dz r.ovf

/-- Two results into a register pair (R82). -/
def Context.putPair (c : Context) (n : Nat) (p : Word × Word) : Context := (c.put n p.1).put (n + 1) p.2

/-- CMP: 0 binary32, 1 signed, 2 unsigned int32 (R83, R84). -/
def compare (c : Context) (a b : Word) (fn : Nat) : Context :=
  if fn = 0 then
    let un := fpIsNaN a || fpIsNaN b
    c.cmp (fpLt a b) (fpEq a b) (fpLt b a) un
  else if fn = 1 then c.cmp (a.toInt < b.toInt) (a == b) (b.toInt < a.toInt) false
  else c.cmp (a.toNat < b.toNat) (a == b) (b.toNat < a.toNat) false

/-- Whether the condition of a branch holds (R89). -/
def Flags.holds (f : Flags) (cond : Nat) : Bool := match cond with
  | 0 => f.eq | 1 => f.lt || f.gt || f.un | 2 => f.lt | 3 => f.gt || f.eq | 4 => f.gt | 5 => f.lt || f.eq
  | 6 => f.un | 7 => !f.un | 8 => f.prd | 9 => !f.prd | 10 => f.skp | 11 => !f.skp | 12 => f.rej | 13 => f.ovrd
  | 14 => f.nv | _ => false

/-- The word a branch from word `pc` with a signed offset goes to (R81). -/
def branchTo (pc : Nat) (off : Int) : Nat := ((pc : Int) + off).toNat

/-- BR and BRC (R83, R89). -/
def State.branch (s : State) (e : Nat) (cond : Option Nat) (off : Int) : State :=
  let c := s.ctx e
  match c.run with
  | none => s
  | some r => s.retire e 1 (if cond.all c.flags.holds then branchTo r.pc off else r.pc + 1)

/-- An arithmetic shift to the right. -/
def shiftRight (a : Word) (n fn : Nat) : Word := if fn = 0 then a >>> n else a.sshiftRight n

/-- CVT (R83, R84). -/
def convert (a : Word) (fn : Nat) : FpRes :=
  if fn = 0 then { w := fpOfInt a.toInt } else fpToInt32 a (fn == 2)

/-- Sine and cosine of an angle: each a free value within the error R86 allows; beyond 2^20 rad, NaN and NV (R86). -/
def State.sinCos (s : State) (x : Word) : (Word × Word × Bool) × State :=
  if fpIsNaN x then ((qNaN, qNaN, false), s)
  else if fpLt fpAngleMax (fpAbs x) then ((qNaN, qNaN, true), s)
  else
    let a := s.drawWord
    let b := a.2.drawWord
    ((acceptNear a.1 (fixSin (fpFixed x)), acceptNear b.1 (fixCos (fpFixed x)), false), b.2)

/-- The larger of two angles' words; R86 lets no value above the binary32 nearest π through, nor one that would be −π. -/
def atan2Range (w : Word) : Word :=
  if fpLt fpPi w then fpPi else if fpLt w 0xC0490FDA then 0xC0490FDA else w

/-- Both operands of ATAN2 as integers on one scale; an infinity outweighs every finite value. -/
def atan2Ints (y x : Fp) : Int × Int := match y, x with
  | .inf n, .inf m => ((if n then -1 else 1), (if m then -1 else 1))
  | .inf n, _ => ((if n then -1 else 1), 0)
  | .fin _ _ _, .inf m => (0, (if m then -1 else 1))
  | .fin n m e, .fin n' m' e' =>
    let lo := min e e'
    (signedMant n m * 2 ^ (e - lo).toNat, signedMant n' m' * 2 ^ (e' - lo).toNat)
  | _, _ => (0, 0)

/-- ATAN2 with y and x: a free value within the error R86 allows, with the exact results R86 names. -/
def State.atan2 (s : State) (y x : Word) : Word × State :=
  if fpIsNaN y ∨ fpIsNaN x then (qNaN, s)
  else
    let p := atan2Ints (fpOf y) (fpOf x)
    let yNeg := fpLt y 0
    if p.1 = 0 then
      if 0 ≤ p.2 ∧ fpKey y = 0 then (0, s)
      else if p.2 < 0 then (if yNeg then 0xC0490FDA else fpPi, s)
      else (fpZero yNeg, s)
    else
      let a := s.drawWord
      (atan2Range (acceptNear a.1 (fixAtan2 p.1 p.2)), a.2)

/-- CLARKE from three inputs, or from two (R85). -/
def clarke (a b c : Word) (fn : Nat) : Word × Word :=
  if fn = 0 then
    (fdiv (fsub (fsub (fmul fpTwo a) b) c) fpThree, fdiv (fsub b c) fpSqrt3)
  else (fpCanon a, fdiv (fadd a (fmul fpTwo b)) fpSqrt3)

/-- Whether any operation of a rotation was invalid (R79). -/
def rotInvalid (x y : Word) (ins : List Word) : Bool :=
  (fpIsNaN x || fpIsNaN y) && ins.all (!fpIsNaN ·)

/-- PARK with sine and cosine (R85). -/
def park (al be sn cs : Word) : Word × Word :=
  (fadd (fmul al cs) (fmul be sn), fadd (fmul (fpNeg al) sn) (fmul be cs))

/-- IPARK with sine and cosine (R85). -/
def ipark (d q sn cs : Word) : Word × Word :=
  (fsub (fmul d cs) (fmul q sn), fadd (fmul d sn) (fmul q cs))

/-- PARK or IPARK: angle in `c` with fn 0, its sine and cosine in `c` and `c1` with fn 1 (R83, R85, R86). -/
def State.rotate (s : State) (inv : Bool) (a b c c1 : Word) (fn : Nat) : (Word × Word × Bool) × State :=
  let sc := if fn = 0 then s.sinCos c else ((c, c1, false), s)
  let r := if inv then ipark a b sc.1.1 sc.1.2.1 else park a b sc.1.1 sc.1.2.1
  ((r.1, r.2, sc.1.2.2 || rotInvalid r.1 r.2 [a, b, sc.1.1, sc.1.2.1]), sc.2)

/-- The three duties of SVM with whether the vector was scaled; none where u ≤ 0 or an input is NaN (R87). -/
def svm (al be u : Word) (fn : Nat) : Option (List Word × Bool) :=
  if fpIsNaN al ∨ fpIsNaN be ∨ fpIsNaN u ∨ ¬ fpLt 0 u then none
  else
    let half := fmul fpHalf al
    let q := fmul fpHalfSqrt3 be
    let v := [fpCanon al, fadd (fpNeg half) q, fsub (fpNeg half) q]
    let mx (v : List Word) := fpMax (fpMax (v.getD 0 0) (v.getD 1 0)) (v.getD 2 0)
    let mn (v : List Word) := fpMin (fpMin (v.getD 0 0) (v.getD 1 0)) (v.getD 2 0)
    let span := fsub (mx v) (mn v)
    let scaled := fpLt u span
    let v := if scaled then v.map (fun x => fmul x (fdiv u span)) else v
    if fn = 0 then
      let mid := fmul (fadd (mx v) (mn v)) fpHalf
      some (v.map (fun x => fadd fpHalf (fdiv (fsub x mid) u)), scaled)
    else
      let big := fpMax (fpMax (fpAbs (v.getD 0 0)) (fpAbs (v.getD 1 0))) (fpAbs (v.getD 2 0))
      let k := (v.findIdx? (fun x => fpEq (fpAbs x) big)).getD 0
      let vk := v.getD k 0
      let base := if fpLt vk 0 then 0 else fpOne
      some (v.map (fun x => fadd base (fdiv (fsub x vk) u)), scaled)

/-- SVM into three registers from `qd` (R87). -/
def Context.svmTo (c : Context) (qd : Nat) (al be u : Word) (fn : Nat) : Context := match svm al be u fn with
  | none => (((c.put qd qNaN).put (qd + 1) qNaN).put (qd + 2) qNaN).cmp false false false true |>.sticky true false false
  | some (d, scaled) =>
    let nan := d.any fpIsNaN
    ((((c.put qd (d.getD 0 0)).put (qd + 1) (d.getD 1 0)).put (qd + 2) (d.getD 2 0)).cmp false (!scaled) scaled false).sticky
      nan false false

/-- A load or store of the state area: 4 · off bytes, plus 4 · qa where indexed (R81). -/
def stateOffset (c : Context) (qa off : Nat) (x : Bool) : Nat := 4 * off + (if x then 4 * (c.get qa).toNat else 0)

/-- LDS: outside the state area the run ends with fault 0x26 (R83, R111). -/
def State.loadState (s : State) (e qd qa off : Nat) (x : Bool) : State :=
  let c := s.ctx e
  match c.run with
  | none => s
  | some r => match s.stateKey r (stateOffset c qa off x) with
    | none => s.abortRun e 0x26
    | some a => match s.runReads e r.loop a with
      | (some s, _) => (s.setCtx e ((s.ctx e).put qd (s.mword a))).retire e 1 (r.pc + 1)
      | (none, s) => s

/-- STS (R83, R111). -/
def State.storeState (s : State) (e q qa off : Nat) (x : Bool) : State :=
  let c := s.ctx e
  match c.run with
  | none => s
  | some r => match s.stateKey r (stateOffset c qa off x) with
    | none => s.abortRun e 0x26
    | some a => (s.putMword a (c.get q)).retire e 1 (r.pc + 1)

/-- A control block on record `rec` of `len` bytes: outside the state area the run ends with fault 0x26 (R90, R111). The
block gives the context and the record words it writes, and whether it fell back to clamp mode, which is logged (R93). -/
def State.block (s : State) (e rec len cost : Nat) (f : Context → List Word → Context × List (Nat × Word) × Bool) : State :=
  match (s.ctx e).run with
  | none => s
  | some r => match s.stateKey r (32 * rec + len - 4) with
    | none => s.abortRun e 0x26
    | some last =>
      let a := last + 4 - len
      match s.runReads e r.loop a with
      | (some s, _) =>
        let out := f (s.ctx e) ((List.range 8).map fun k => s.mword (a + 4 * k))
        let s := s.setCtx e out.1
        let s := s.each out.2.1 fun s w => s.putMword (a + 4 * w.1) w.2
        let s := if out.2.2 then s.reportLoop .c 0x29 (pgLE e) r.loop else s
        s.retire e cost (r.pc + 1)
      | (none, s) => s

/-- CTRL of a PI record with its four named bits (R91). -/
def piCtrl (w : Word) (mode fb hi lo : Bool) : Word :=
  withBits w 0 4 (bit mode + 2 * bit fb + 4 * bit hi + 8 * bit lo)

/-- The integrator of PI before limits, and whether the backstop switches to clamp mode (R92). -/
def piIntegrate (w : List Word) (e ff : Word) : Word × Bool :=
  let p := fmul (w.getD 0 0) e
  let inew := fadd (w.getD 2 0) (fmul (w.getD 1 0) e)
  if bitsAt (w.getD 7 0) 0 1 = 1 then (inew, false)
  else
    let v := fadd (fadd p inew) ff
    let hold := (fpLt (w.getD 4 0) v && fpLt 0 e) || (fpLt v (w.getD 3 0) && fpLt e 0)
    let inew := if hold then fpCanon (w.getD 2 0) else inew
    (inew, fpLt (w.getD 6 0) inew || fpLt inew (w.getD 5 0))

/-- PI with error `e` and feed-forward `ff` on its record (R92). -/
def piBlock (c : Context) (qd : Nat) (e ff : Word) (w : List Word) : Context × List (Nat × Word) × Bool :=
  let ctrl := w.getD 7 0
  let mode := bitsAt ctrl 0 1 == 1
  let fb := bitsAt ctrl 1 1 == 1
  if fpIsNaN e ∨ fpIsNaN ff then
    (((c.put qd qNaN).cmp false false false true).sticky true false false, [(7, piCtrl ctrl mode fb false false)], false)
  else
    let i := piIntegrate w e ff
    let mode' := mode || i.2
    let inew := if mode' then fpClamp i.1 (w.getD 5 0) (w.getD 6 0) else i.1
    let raw := fadd (fadd (fmul (w.getD 0 0) e) inew) ff
    let u := fpClamp raw (w.getD 3 0) (w.getD 4 0)
    let hi := fpEq u (w.getD 4 0) && fpLt (w.getD 4 0) raw
    let lo := fpEq u (w.getD 3 0) && fpLt raw (w.getD 3 0) && !hi
    let nv := fpIsNaN u && (w.take 7).all (!fpIsNaN ·)
    (((c.put qd u).cmp lo (!hi && !lo) hi false).sticky nv false false,
      [(2, inew), (7, piCtrl ctrl mode' (fb || i.2) hi lo)], i.2)

/-- PI on a record (R92, R93). -/
def State.pi (s : State) (e qd qa qb rec : Nat) : State :=
  s.block e rec 32 4 fun c w => piBlock c qd (c.get qa) (c.get qb) w

/-- A rate of RLIM: a negative value counts as 0 (R94). -/
def rlimRate (w : Word) : Word := if fpLt w 0 then 0 else w

/-- RLIM with target `x` (R94). -/
def rlimBlock (c : Context) (qd : Nat) (x : Word) (w : List Word) : Context × List (Nat × Word) × Bool :=
  let y := w.getD 0 0
  if fpIsNaN x then (((c.put qd y).cmp false false false true).sticky true false false, [], false)
  else if bitsAt (w.getD 3 0) 0 1 = 1 then
    let x := fpCanon x
    ((c.put qd x).cmp false true false false, [(0, x), (3, withBits (w.getD 3 0) 0 1 0)], false)
  else
    let up := rlimRate (w.getD 1 0)
    let dn := fpNeg (rlimRate (w.getD 2 0))
    let d := fsub x y
    let y' := fadd y (fpMin (fpMax d dn) up)
    (((c.put qd y').cmp (fpLt d dn) (fpEq y' x) (fpLt up d) false).sticky (fpIsNaN y' && !fpIsNaN y) false false, [(0, y')], false)

/-- LPF1 with input `x` (R95). -/
def lpf1Block (c : Context) (qd : Nat) (x : Word) (w : List Word) : Context × List (Nat × Word) × Bool :=
  let y := w.getD 0 0
  if fpIsNaN x then ((c.put qd y).sticky true false false, [], false)
  else if bitsAt (w.getD 2 0) 0 1 = 1 then
    let x := fpCanon x
    (c.put qd x, [(0, x), (2, withBits (w.getD 2 0) 0 1 0)], false)
  else
    let y' := fadd y (fmul (fpClamp (w.getD 1 0) 0 fpOne) (fsub x y))
    ((c.put qd y').sticky (fpIsNaN y' && !fpIsNaN y && !fpIsNaN (w.getD 1 0)) false false, [(0, y')], false)

/-- The valid input that wins a junction: lowest value, or lowest magnitude; ties go to the lowest index (R97). -/
def minselWinner (mags : Bool) (xs : List (Nat × Word)) : Option (Nat × Word) :=
  xs.foldl (fun best x => match best with
    | none => some x
    | some b =>
      let v (w : Word) := if mags then fpAbs w else w
      if fpLt (v x.2) (v b.2) then some x else some b) none

/-- MINSEL over `n` inputs from `qa` (R96, R97). -/
def minselBlock (c : Context) (qd qa qb n : Nat) (w : List Word) : Context × List (Nat × Word) :=
  let mags := bitsAt (w.getD 0 0) 4 1 == 1
  let ins := (List.range n).map fun k => (k, c.get (qa + k))
  let excl := (ins.filter (fpIsNaN ·.2)).foldl (fun m x => m + 2 ^ x.1) 0
  let valid := if mags ∧ fpIsNaN (c.get qa) then [] else ins.filter (!fpIsNaN ·.2)
  match minselWinner mags valid with
  | none =>
    let out := w.getD 1 0
    (((c.put qd out).put qb 0xF).cmp false false false true, [(2, BitVec.ofNat 32 (0xF + excl * 2 ^ 8)), (3, out)])
  | some (k, v) =>
    let out := if mags then (if bitsAt (c.get qa) 31 1 = 1 then fpNeg (fpAbs v) else fpAbs v) else fpCanon v
    (((c.put qd out).put qb (BitVec.ofNat 32 k)).cmp false false false false,
      [(2, BitVec.ofNat 32 (k + excl * 2 ^ 8)), (3, out)])

/-- MINSEL: a bad N, or inputs beyond q63, end the run with fault 0x26; a run without a valid input is logged once since
placement or graft (R97). -/
def State.minsel (s : State) (e qd qa qb rec : Nat) : State :=
  match (s.ctx e).run with
  | none => s
  | some r => match s.stateKey r (32 * rec + 12) with
    | none => s.abortRun e 0x26
    | some last => match s.runReads e r.loop (last - 12) with
      | (none, s) => s
      | (some s, _) =>
        let n := bitsAt (s.mword (last - 12)) 0 4
        if n < 2 ∨ 8 < n ∨ 63 < qa + n - 1 then s.abortRun e 0x26
        else
          let out := minselBlock (s.ctx e) qd qa qb n ((List.range 4).map fun k => s.mword (last - 12 + 4 * k))
          let s := s.setCtx e out.1
          let s := s.each out.2 fun s w => s.putMword (last - 12 + 4 * w.1) w.2
          let x := s.loop r.loop
          let s := if out.1.flags.un ∧ ¬ x.minselLogged then
              (s.setLoop r.loop { x with minselLogged := true }).reportLoop .c 0x23 (pgLE e) r.loop else s
          s.retire e (1 + n) (r.pc + 1)

/-- An instruction whose result needs free values (R86). -/
def State.computeFree (s : State) (e cost : Nat) (f : Context → State → Context × State) : State :=
  match (s.ctx e).run with
  | none => s
  | some r =>
    let out := f (s.ctx e) s
    (out.2.setCtx e out.1).retire e cost (r.pc + 1)

/-- SINCOS (R83, R86). -/
def State.sincos (s : State) (e qd qa : Nat) : State := s.computeFree e 4 fun c s =>
  let r := s.sinCos (c.get qa)
  (((c.put qd r.1.1).put (qd + 1) r.1.2.1).sticky r.1.2.2 false false, r.2)

/-- ATAN2 (R83, R86). -/
def State.atan2To (s : State) (e qd qa qb : Nat) : State := s.computeFree e 6 fun c s =>
  let r := s.atan2 (c.get qa) (c.get qb)
  (c.put qd r.1, r.2)

/-- PARK and IPARK (R83, R85). -/
def State.rotateTo (s : State) (e : Nat) (inv : Bool) (qd qa qb qc fn : Nat) : State :=
  s.computeFree e (if fn = 0 then 3 else 2) fun c s =>
    let r := s.rotate inv (c.get qa) (c.get qb) (c.get qc) (c.get (qc + 1)) fn
    (((c.put qd r.1.1).put (qd + 1) r.1.2.1).sticky r.1.2.2 false false, r.2)

end Sys2Proof.Machine
end

