-- ==== Sys2Proof/Machine/LoopIo.lean ====
section
/-! DEFINITION. Inputs, outputs and time values of loop programs (R99 to R105, R527). -/

namespace Sys2Proof.Machine

/-- An integer saturated to int32, as a word. -/
def satInt32 (v : Int) : Word := BitVec.ofInt 32 (clampInt (-(2 ^ 31)) (2 ^ 31 - 1) v)

/-- What an input that has no sample, or a slot that was never written, reads as (R100). -/
def noInput : InputVal := {}

/-- A measured or predicted input with its stamp, against the run's trigger stamp (R100). -/
def inputAt (v : Word) (stamp trig : Nat) (prd skp : Bool) : InputVal :=
  { value := v, age := satInt32 ((stamp : Int) - trig), prd := prd, skp := skp }

/-- A signal slot as an input: one that fails its check reads as never written (R100, R346). -/
def State.slotInput (s : State) (n trig : Nat) : InputVal :=
  let info := s.slotWord n 3
  if bitsAt info 6 3 = 0 then noInput
  else inputAt (s.slotWord n 0) ((s.slotWord n 1).toNat + 2 ^ 32 * (s.slotWord n 2).toNat) trig (bitsAt info 9 1 == 1) false

/-- The encoder speed as a run reads it at the present instant: its magnitude is at most one count in the time since the last
edge (R298). -/
def State.encoderSpeed (s : State) (w : Word) : Word := match s.enc.edges with
  | [] => w
  | (t, _) :: _ =>
    let den := 4 * max 1 (s.rd pgENC Reg.ENC.LINES_LINES) * ticksSince t s.now
    if den = 0 then w
    else
      let cap := fpOfFixed (2 * fixPi * 320000000 / den)
      if fpLt cap (fpAbs w) then (if fpLt w 0 then fpNeg cap else cap) else w

/-- The input a device handle names, as a run with trigger stamp `trig` finds it now (R99, R100). -/
def State.inputValue (s : State) (h trig : Nat) : InputVal × State :=
  if h < 0x400 then
    let s := s.slotChecked h .engine
    (s.slotInput h trig, s)
  else if 0x1300 ≤ h ∧ h < 0x13A0 then
    let st := (h - 0x1300) / 16
    let t := s.rd (pgSG st) Reg.SGW.IN_AT_L_STAMP + 2 ^ 32 * s.rd (pgSG st) Reg.SGW.IN_AT_H_STAMP
    (if t = 0 then noInput else inputAt (s.stageIn st (h % 16)) t trig false false, s)
  else
    let x := s.sample h
    let failed := 0x1000 ≤ h && h < 0x1060 && s.ainFailed (h - 0x1000) && !x.prd
    (if x.valid ∧ ¬ failed then inputAt (if h = 0x1221 then s.encoderSpeed x.value else x.value) x.stamp trig x.prd x.skp else noInput, s)

/-- INS: the first read of a handle in a run fixes what every later one returns (R100, R101). -/
def State.ins (s : State) (e q qx k : Nat) : State :=
  match (s.ctx e).run with
  | none => s
  | some r =>
    let h := descIn (s.loop r.loop).desc k
    let got : InputVal × State := match r.inputs.find? (·.1 = h) with
      | some v => (v.2, s)
      | none => s.inputValue h r.stamp
    let missed := (s.loop r.loop).missed.any fun m => m.1 == h && m.2 == (s.sample h).stamp
    let v := if missed then { got.1 with prd := true, skp := true } else got.1
    let s := got.2
    let c := ((s.ctx e).put q v.value).put qx v.age
    let c := { c with
      flags := { c.flags with prd := v.prd, skp := v.skp }
      run := some { r with inputs := tabInsert r.inputs h v, readPrd := r.readPrd || v.prd } }
    (s.setCtx e c).retire e 2 (r.pc + 1)

/-- A guard after an apply of value `v` to its output (R140, R141). -/
def Guard.applied (g : Guard) (v now : Nat) : Guard :=
  if g.loaded then
    { g with applies := min 2 (g.applies + 1), t0 := g.t1, c0 := g.c1, t1 := now, c1 := v, base := now, acted := 0, done := false }
  else g

/-- The apply of a loop to an output of a channel: stamped, its writer noted, its guard armed anew, and the leg released
where it waited for it (R53, R140, R160, R532). -/
def State.applied (s : State) (p o v l : Nat) : State :=
  let s := s.wrStamp p Reg.CHAN.APPLY_AT_L_STAMP Reg.CHAN.APPLY_AT_H_STAMP s.now
  let s := (s.wr p Reg.CHAN.WRITER_LOOP l).wrB p Reg.CHAN.WRITER_VALID true
  let s := s.setGuard p o ((s.guard p o).applied v s.now)
  let s := if o = 0 ∨ ¬ (s.guard p 0).loaded then s.wr p Reg.CHAN.GUARD_SUBST 0 else s
  s.legDrives p

/-- The value a compare output latches (R102). -/
def compareEu (w : Word) (asInt : Bool) (period : Nat) : Nat :=
  if asInt then (clampInt 0 period w.toInt).toNat else dutyEu w period

/-- The value a phase-shift output latches (R102). -/
def shiftEu (w : Word) (asInt : Bool) (period : Nat) : Nat :=
  if asInt then (w.toInt % (max 1 period : Nat)).toNat else phaseEu w period

/-- Latches a value into the output a handle names; what it says is whether OVRD is set (R102, R104, R107). -/
def State.writeOutput (s : State) (r : Run) (h : Nat) (w : Word) (asInt : Bool) : Bool × State :=
  if h < 0x400 then
    (false, (s.putSlot h w s.now r.loop 1 r.readPrd).fireSlot h s.now)
  else match pulseOutput h with
    | some (p, o) =>
      let period := s.legPeriod p
      let ovrd := s.legForced p
      let v := if o = 0 then compareEu w asInt period else shiftEu w asInt period
      let s := if o = 0 then s.latchCompare p v s.now else s.latchPhase p v s.now
      (ovrd, s.applied p o v r.loop)
    | none =>
      if 0x2200 ≤ h ∧ h < 0x22A0 then
        (false, s.applyCommand ((h - 0x2200) / 16) (h % 16) (if asInt then fpOfInt w.toInt else w))
      else (false, s)

/-- Whether a write to a handle is rejected: a NaN or an infinity for a channel or stage register (R103). -/
def outputRejected (h : Nat) (w : Word) (asInt : Bool) : Bool := 0x400 ≤ h && !asInt && !fpIsFinite w

/-- OUTS (R102 to R104). -/
def State.outs (s : State) (e q qx k : Nat) (asInt : Bool) : State :=
  match (s.ctx e).run with
  | none => s
  | some r =>
    let h := descOut (s.loop r.loop).desc k
    let w := (s.ctx e).get q
    if outputRejected h w asInt then
      let c := (s.ctx e).put qx 0x80000000
      let c := { c with flags := { c.flags with rej := true, ovrd := false }, run := some { r with rejected := true } }
      ((s.setCtx e c).reportLoop .u 0x28 (pgLE e) r.loop).retire e 2 (r.pc + 1)
    else
      let delay := ticksSince r.stamp s.now
      let out := s.writeOutput r h w asInt
      let s := out.2
      let c := (s.ctx e).put qx (satInt32 delay)
      let c := { c with
        flags := { c.flags with rej := false, ovrd := out.1 }
        run := some { r with delay := if r.delay.isSome then r.delay else some delay } }
      (s.setCtx e c).retire e 2 (r.pc + 1)

/-- STAMP (R105). -/
def State.stampTo (s : State) (e qd qa sel : Nat) : State :=
  match (s.ctx e).run with
  | none => s
  | some r =>
    let two (t : Nat) (c : Context) : Context := (c.put qd (BitVec.ofNat 32 t)).put qa (BitVec.ofNat 32 (t / 2 ^ 32))
    let f (c : Context) : Context := match sel with
      | 0 => two r.stamp c
      | 1 => two s.now c
      | 2 => c.put qd (satInt32 (ticksSince r.stamp s.now))
      | _ => c.put qd (match (s.loop r.loop).prevStamp with
        | some t => satInt32 (ticksSince t r.stamp)
        | none => 0)
    s.compute e 1 f

end Sys2Proof.Machine
end

