-- ==== Sys2Proof/Machine/Trellis.lean ====
section
/-! DEFINITION. Trellis: placing, loading, moving, balancing and grafting loops, fallback images, the reserve and the image
slots (R116 to R153, R523, R524). -/

namespace Sys2Proof.Machine

/-- The rules in force: the load limit and the exclusion rows (R126, R152). -/
def State.rules (s : State) : PlaceRules :=
  { limit := s.rd pgTRL Reg.TRL.TCTL_ENG_LIM
    excl := fun a b => bitsAt (s.word pgTRL (winBase + 0x2400 + 4 * a)) b 1 == 1 }

/-- The engine a loop counts on: a move in progress counts as complete (R139). -/
def LoopRec.home (x : LoopRec) : Nat := x.move.elim x.engine (·.dest)

/-- The engines in service with what they carry (R124). -/
def State.bins (s : State) : List Bin :=
  (allEngines.filter fun e => s.inService (pdLE e)).map fun e =>
    { e := e, rate := s.rd (pgLE e) Reg.LE.RATE_MOPS
      fb := ((s.fallbacksOn e).map s.fbBytes).foldl (· + ·) 0
      loops := (loopIds.filter fun l => (s.loop l).placed && !(s.loop l).gone && (s.loop l).home == e).map
        fun l => s.ploop l (s.loop l).desc }

/-- The bytes of a loop's own fallback image on an engine (R125). -/
def State.ownFb (s : State) (l e : Nat) : Nat := if (s.loop l).fallback = some e then s.fbBytes l else 0

/-- TRL.STAT.FALLBACK_OK: every class A loop has a loaded fallback image (R131). -/
def State.showFallbackOk (s : State) : State :=
  s.wrB pgTRL Reg.TRL.STAT_FALLBACK_OK
    (loopIds.all fun l => let x := s.loop l; !x.placed || descClass x.desc != 0 || (x.fallback.isSome && x.fbLoaded))

/-- One entry of an engine's placement window (R524). -/
def State.showEntry (s : State) (e : Nat) (i : Nat) (l : Option Nat) : State :=
  let p := pgLE e
  let w (s : State) (k v : Nat) : State := s.setWord p (0x700 + 0x10 * i + 4 * k) (BitVec.ofNat 32 v)
  match l with
  | none => w (w (w (w s 0 0) 1 0) 2 0) 3 0
  | some l =>
    let x := s.loop l
    w (w (w (w s 0 (l + descClass x.desc * 2 ^ 8 + bit x.copying * 2 ^ 10 + 2 ^ 31)) 1 x.imgOff) 2 x.stOff) 3
      (x.stSize % 2 ^ 16 + x.imgWords * 2 ^ 16)

/-- An engine's OCC and placement window (R523, R524). -/
def State.showEngine (s : State) (e : Nat) : State :=
  let p := pgLE e
  let ls := s.loopsOn e
  let fbs := s.fallbacksOn e
  let used := (((s.areas e).map (·.2)).foldl (· + ·) 0 + (ls.map fun l => round256 (4 * (s.loop l).imgWords)).foldl max 0) / 256
  let s := s.setWord p 0x108 (BitVec.ofNat 32 (min ls.length 15
    + (ls.filter fun l => descClass (s.loop l).desc == 0).length * 2 ^ 4 + min fbs.length 31 * 2 ^ 8 + (512 - used) * 2 ^ 22))
  let s := s.each (List.range 8) fun s i => s.showEntry e i ls[i]?
  s.each (List.range 16) fun s i => match fbs[i]? with
    | some l => (s.setWord p (0x780 + 8 * i) (BitVec.ofNat 32 (l + 2 ^ 31))).setWord p (0x784 + 8 * i)
        (BitVec.ofNat 32 (s.loop l).fbOff)
    | none => (s.setWord p (0x780 + 8 * i) 0).setWord p (0x784 + 8 * i) 0

/-- What TRL and the LE pages show after a change of placement (R152, R523, R524). -/
def State.showPlacement (s : State) : State :=
  let s := s.each allEngines fun s e => (s.showEngine e).engineBusy e
  let s := s.wr pgTRL Reg.TRL.STAT_LOOPS (loopIds.filter fun l => (s.loop l).placed).length
  (s.wr pgTRL Reg.TRL.STAT_ENGINES (allEngines.filter fun e => s.inService (pdLE e)).length).showFallbackOk

/-- LOAD and FRAC of every engine (R523). -/
def State.showLoads (s : State) : State :=
  s.each s.bins fun s b =>
    let f := Frac.mk' (b.load.n * 100) (b.load.d * max 1 b.rate)
    let frac := if b.rate = 0 then (if b.load.n = 0 then 0 else 255) else min 255 f.floor
    s.setWord (pgLE b.e) 0x104 (BitVec.ofNat 32 (satNat 16 b.load.floor + frac * 2 ^ 16))

/-- The reserve is judged anew: its registers, and fault 0x2B where it no longer holds (R125, R130). -/
def State.judgeReserve (s : State) : State :=
  let bins := s.bins
  let ok := reserveHolds s.rules bins s.ownFb
  let s := (s.wr pgTRL Reg.TRL.RESERVE_LOAD_A (satNat 16 (classALoad bins).floor)).wr pgTRL Reg.TRL.RESERVE_LIMIT
    (satNat 16 (reserveLimit bins).floor)
  let was := s.rdB pgTRL Reg.TRL.STAT_RESERVE_OK
  let s := s.wrB pgTRL Reg.TRL.STAT_RESERVE_OK ok
  if was ∧ ¬ ok then s.reportFab .u 0x2B pgTRL else s

/-- The fallback plan as far as it goes: engines without a plan give none of theirs (R131). -/
def State.planFallbacks (s : State) : List (Nat × Nat) :=
  let bins := s.bins
  bins.flatMap fun b => (fallbackOf s.rules s.ownFb (sortBy placedBefore (b.loops.filter (·.cls == 0)))
    (bins.filter (·.e != b.e)) []).getD []

/-- After a placement change: the plan is recomputed, and a missing fallback image starts to load (R131). -/
def State.replanFallbacks (s : State) : State :=
  let plan := s.planFallbacks
  let s := s.each loopIds fun s l =>
    let x := s.loop l
    let target := if x.placed ∧ descClass x.desc = 0 then (plan.find? (·.1 = l)).map (·.2) else none
    if x.fallback = target then s else s.setLoop l { x with fallback := none, fbLoaded := false, fbOff := 0 }
  let s := s.each plan fun s lf =>
    let x := s.loop lf.1
    if x.fallback = some lf.2 then s
    else s.setLoop lf.1 { x with fallback := some lf.2, fbLoaded := false, fbOff := firstFit (s.areas lf.2) (s.fbBytes lf.1) }
  s.showPlacement

/-- Places loop `l` under descriptor `d` on engine `e`: its areas are allocated and its state initialised, from its newest
checkpoint too where it is placed again; its image starts to load (R119, R134, R138, R151). -/
def State.placeOn (s : State) (l e : Nat) (d : List Word) (again : Bool) : State :=
  let x := s.loop l
  let k := descImg d
  let base : LoopRec := if again then { x with consec := 0, overrun := false, late := false, held := [], move := none, graft := none }
    else { skips := x.skips, moves := x.moves }
  let base := { base with
    state := .loading, engine := e, desc := d, next := none, slot := k, imgWords := s.imgWords k, stSize := 0, mispl := false
    fallback := if base.fallback = some e then none else base.fallback }
  let s := s.setLoop l { base with imgWords := 0 }
  let imgOff := firstFit (s.areas e) (round256 (4 * base.imgWords))
  let s := s.setLoop l { base with imgOff := imgOff }
  let size := max (descSize d) (s.imgState k)
  let stOff := firstFit (s.areas e) (round256 size)
  let s := s.setLoop l { base with imgOff := imgOff, stOff := stOff, stSize := size }
  let s := s.initState (leBase e + stOff) k size
  let s := if again then s.overlayCkpt l (leBase e + stOff) else s.dropCkpts l
  (s.loadGuards l (!again)).engineBusy e

/-- A loop has no place: stranded (R151). -/
def State.strand (s : State) (l : Nat) : State :=
  let x := s.loop l
  (s.setLoop l { x with state := .stranded, move := none, graft := none, fallback := none, fbLoaded := false }).reportLoop
    .u 0x2C pgTRL l

/-- A loop is evicted to make room: suspended (R151). -/
def State.suspend (s : State) (l : Nat) : State :=
  let x := s.loop l
  let g := s.eng x.engine
  let drop (c : Context) : Context := if c.loopOf = some l then {} else c
  let s := s.setEng x.engine { g with a := drop g.a, bc := drop g.bc, waiting := g.waiting.filter (·.loop ≠ l) }
  ((s.setLoop l { x with state := .suspended, move := none, fallback := none, fbLoaded := false, held := [] }).reportLoop
    .c 0x2F pgTRL l).engineBusy x.engine

/-- The graft set is cancelled before any swap (R149). -/
def State.cancelGraft (s : State) (cause l : Nat) : State :=
  if s.trl.graftLoops.isEmpty then s
  else
    let s := s.each s.trl.graftLoops fun s l =>
      let x := s.loop l
      s.setLoop l { x with graft := none, state := if x.state = .grafting then .running else x.state }
    let s := { s with trl := { s.trl with graftLoops := [] } }
    let s := s.wrB pgTRL Reg.TRL.STAT_GRAFT_PEND false
    let s := ((s.wr pgTRL Reg.TRL.GRAFT_STAT_STATE 5).wr pgTRL Reg.TRL.GRAFT_STAT_CAUSE cause).wr pgTRL Reg.TRL.GRAFT_STAT_LOOP l
    s.reportLoop .u 0x32 pgTRL l

/-- Whether swaps of the present graft set have begun (R149). -/
def State.graftSwapping (s : State) : Bool := s.rd pgTRL Reg.TRL.GRAFT_STAT_STATE == 3

/-- The loops of the graft set that have not swapped. -/
def State.setGraftLoops (s : State) (ls : List Nat) : State := { s with trl := { s.trl with graftLoops := ls } }

/-- A fault or drain moves a loop of a pending graft set: the set is cancelled; one that swaps completes without it
(R139, R149). -/
def State.graftMoved (s : State) (l : Nat) : State :=
  if s.trl.graftLoops.contains l then
    if s.graftSwapping then
      let x := s.loop l
      (s.setLoop l { x with graft := none }).setGraftLoops (s.trl.graftLoops.filter (· ≠ l))
    else s.cancelGraft 5 l
  else s

/-- A planned move of a loop to engine `dest` starts (R134). -/
def State.startMove (s : State) (l dest cause : Nat) : State :=
  let x := s.loop l
  if x.state ≠ .running ∧ x.state ≠ .grafting ∨ x.move.isSome then s
  else
    let s := s.graftMoved l
    let x := s.loop l
    let copyThere := x.fallback = some dest ∧ x.fbLoaded
    let imgOff := if copyThere then x.fbOff else firstFit (s.areas dest) (round256 (4 * x.imgWords))
    let m : LoopMove := { dest := dest, cause := cause, imgOff := imgOff, stOff := 0x20000, loaded := copyThere }
    let s := s.setLoop l { x with move := some m, state := .moving }
    let stOff := firstFit (s.areas dest) (round256 x.stSize)
    s.setLoop l { s.loop l with move := some { m with stOff := stOff } }

/-- A planned move is abandoned: dispatch resumes on the source (R139). -/
def State.abandonMove (s : State) (l : Nat) : State :=
  let x := s.loop l
  if x.move.isSome then s.setLoop l { x with move := none, state := .running } else s

/-- Ticks of a state copy: SIZE at 1.2 GB/s and 0.5 µs (R134). -/
def copyTicks (size : Nat) : Nat := (size * 320 + 1199) / 1200 + 160

/-- Ticks from now to a loop's next trigger, none for slot, kick and software triggers (R135). A sample set triggers when its
last conversion ends: the least time is to its set event. -/
def State.ticksToTrigger (s : State) (l : Nat) : Option Nat :=
  let x := s.loop l
  (s.loopInstants x.desc (s.imgIns x.slot)).map fun pp =>
    let next := s.eu + (pp.2 % pp.1 + pp.1 - s.eu % pp.1 + pp.1 - 1) % pp.1 + 1
    (next - s.eu) / 20

/-- Whether a copy of `ticks` ticks may start at this run end (R135). -/
def State.copyMayStart (s : State) (l ticks ends : Nat) : Bool :=
  8 ≤ ends || (s.ticksToTrigger l).all fun t => ticks + 640 < t

/-- The samples of a moving loop that were converted before the delivery switch and that the destination has not received
through another loop: the destination gets them as predictions (R137, R282). -/
def State.missSamples (s : State) (l dest : Nat) : State :=
  let x := s.loop l
  let known := (s.loopsOn dest).flatMap fun m => boundAins (s.loop m).desc (s.imgIns (s.loop m).slot)
  let lost := (boundAins x.desc (s.imgIns x.slot)).eraseDups.filter fun a => s.ainMeasured a && !known.contains a
  let s := s.setLoop l { x with missed := lost.foldl (fun t a => tabInsert t (ainHandle a) (s.sample (ainHandle a)).stamp) [] }
  s.each lost fun s a => s.countFirst (pgSA (a / 16)) Reg.SA.SKIP_CNT_COUNT 0x60

/-- MOVE_COPY_START: at a run end of a moving loop whose image is loaded at its destination (R134, R135). -/
def State.copyStart (s : State) (l : Nat) : State :=
  let x := s.loop l
  match x.move with
  | none => s
  | some m =>
    if ¬ m.loaded ∨ m.copying ∨ s.inProgress l then s
    else if s.copyMayStart l (copyTicks x.stSize) m.ends then
      ((s.missSamples l m.dest).setLoop l { (s.missSamples l m.dest).loop l with move := some { m with copying := true } }).showEngine
        x.engine
    else s.setLoop l { x with move := some { m with ends := m.ends + 1 } }

/-- The lines of a copied state area that failed at the source are rebuilt at the destination (R341, R344). -/
def State.rebuildCopied (s : State) (l src dst size : Nat) (bad : List Nat) : State :=
  let lines := (bad.filter fun a => src ≤ a && a < src + size).map (fun a => a / 32 * 32) |>.eraseDups
  s.each lines fun s a =>
    let s := s.recordLine a .trellis 2 l true
    (s.rebuildLine l dst (a - src + dst)).reportMem .u 0xA2 a

/-- MOVE_COPY_COMPLETE: the destination activates the loop, held writes apply there, and the source frees its areas
(R73, R134, R136). -/
def State.copyComplete (s : State) (l : Nat) : State :=
  let x := s.loop l
  match x.move with
  | none => s
  | some m =>
    if ¬ m.copying then s
    else
      let src := leBase x.engine + x.stOff
      let dst := leBase m.dest + m.stOff
      let bad := s.chk.bad
      let s := (s.copyMem dst src x.stSize).copyMem (leBase m.dest + m.imgOff) (s.imgCode x.slot) (4 * x.imgWords)
      let s := s.rebuildCopied l src dst x.stSize bad
      let s := s.setLoop l { s.loop l with
        engine := m.dest, imgOff := m.imgOff, stOff := m.stOff, move := none, state := .running, consec := 0, overrun := false
        moveCause := m.cause, mispl := false
        fallback := if x.fallback = some m.dest then none else x.fallback
        fbLoaded := if x.fallback = some m.dest then false else x.fbLoaded }
      ((s.applyHeld l).countMove l).replanFallbacks

/-- What kind of load of an image has ended: onto the loop's engine, its fallback engine, a move's destination, or the
standby copy of a graft (R121, R131, R134, R147). -/
def State.loadComplete (s : State) (l kind : Nat) : State :=
  let x := s.loop l
  match kind with
  | 0 =>
    if x.state = .loading then
      ((s.copyMem (leBase x.engine + x.imgOff) (s.imgCode x.slot) (4 * x.imgWords)).setLoop l
        { x with state := .running }).showPlacement
    else s
  | 1 => match x.fallback with
    | some f =>
      if x.placed ∧ ¬ x.fbLoaded then
        ((s.copyMem (leBase f + x.fbOff) (s.imgCode x.slot) (4 * x.imgWords + s.imgInit x.slot)).setLoop l
          { x with fbLoaded := true }).showPlacement
      else s
    | none => s
  | 2 => match x.move with
    | some m =>
      if m.loaded then s
      else (s.copyMem (leBase m.dest + m.imgOff) (s.imgCode x.slot) (4 * x.imgWords)).setLoop l
        { x with move := some { m with loaded := true } }
    | none => s
  | _ => match x.graft with
    | some g =>
      (s.copyMem (leBase x.engine + g.imgOff) (s.imgCode (descImg g.desc)) (4 * s.imgWords (descImg g.desc))).setLoop l
        { x with graft := some { g with loaded := true } }
    | none => s

/-- The best engine for a loop as things stand, other than some (R124, R127). -/
def State.engineFor (s : State) (l : Nat) (d : List Word) (not : List Nat) : Option Nat :=
  chooseEngine s.rules (s.bins.filter fun b => !not.contains b.e) (s.ploop l d)

/-- Places a loop again after a fault or suspension, if an engine takes it (R138, R151). -/
def State.tryResume (s : State) (l : Nat) : State :=
  let x := s.loop l
  let d := x.next.getD x.desc
  match s.engineFor l d [] with
  | some e => s.placeOn l e d true
  | none => s

/-- Suspended and stranded loops in the order in which they are tried again: class, then ID (R151). -/
def State.waitingLoops (s : State) : List Nat :=
  sortBy (fun a b =>
    let ca := descClass (s.loop a).desc
    let cb := descClass (s.loop b).desc
    ca < cb || (ca == cb && a < b))
    (loopIds.filter fun l => (s.loop l).state == .suspended || (s.loop l).state == .stranded)

/-- Resumes what the rules allow (R151). -/
def State.resumeLoops (s : State) : State := s.each s.waitingLoops State.tryResume

/-- A loop of a failed engine is moved by fault: to its fallback engine if that is in service with the image loaded, else
to an engine chosen under R124, evicting for class A where it must (R138, R151). -/
def State.faultMove (s : State) (l : Nat) : State :=
  let s := s.graftMoved l
  let x := s.loop l
  let s := if descCkpt x.desc ≠ 0 ∧ s.newestCkpt l = none then s.reportLoop .u 0x33 pgTRL l else s
  let s := s.setLoop l { x with moveCause := 2, move := none, held := [] }
  let ready := x.fallback.filter fun f => x.fbLoaded && s.inService (pdLE f)
  match (if descClass x.desc = 0 then ready else none) with
  | some f =>
    let s := s.placeOn l f x.desc true
    let y := s.loop l
    (((s.copyMem (leBase f + y.imgOff) (s.imgCode y.slot) (4 * y.imgWords)).setLoop l { y with state := .running }).countMove l)
  | none => match s.engineFor l x.desc [] with
    | some e => (s.placeOn l e x.desc true).countMove l
    | none =>
      if descClass x.desc = 0 then
        match chooseEvicting s.rules s.bins (s.ploop l x.desc) (s.ownFb l) with
        | some (e, out) => ((s.each out State.suspend).placeOn l e x.desc true).countMove l
        | none => s.strand l
      else s.strand l

/-- Runs on a failed engine are gone with its logic (R73). -/
def State.clearEngine (s : State) (e : Nat) : State :=
  let x := s.eng e
  s.setEng e { x with a := {}, bc := {}, waiting := [] }

/-- An engine has failed: moves to it are abandoned, and its loops are moved, class A first (R138, R139). -/
def State.engineFault (s : State) (e : Nat) : State :=
  let s := s.clearEngine e
  let s := s.each (loopIds.filter fun l => (s.loop l).move.any (·.dest == e) && (s.loop l).engine != e) State.abandonMove
  let lost := sortBy (fun a b => placedBefore (s.ploop a (s.loop a).desc) (s.ploop b (s.loop b).desc)) (s.loopsOn e)
  let s := s.each (lost.filter fun l => (s.loop l).gone) State.freeLoop
  let s := s.each (lost.filter fun l => (s.loop l).placed) fun s l =>
    s.setLoop l { s.loop l with state := .suspended, fallback := if (s.loop l).fallback = some e then none else (s.loop l).fallback }
  s.each (lost.filter fun l => (s.loop l).state == .suspended) State.faultMove

/-- The loops of a draining engine are moved one after another (R33, R134). -/
def State.moveAway (s : State) (e : Nat) : State :=
  s.each (sortBy (fun a b => placedBefore (s.ploop a (s.loop a).desc) (s.ploop b (s.loop b).desc)) (s.loopsOn e)) fun s l =>
    match s.engineFor l (s.loop l).desc [e] with
    | some d => s.startMove l d 1
    | none => s

/-- Whether every loop of an engine finds a place on the others under all rules, the reserve included (R33). -/
def State.engineMayDrain (s : State) (e : Nat) : Bool :=
  let bins := s.bins.filter (·.e != e)
  let mine := sortBy placedBefore ((loopIds.filter fun l => (s.loop l).placed && (s.loop l).home == e).map
    fun l => s.ploop l (s.loop l).desc)
  match placeAll s.rules mine bins with
  | .ok bins => reserveHolds s.rules bins s.ownFb
  | .error _ => false

/-- The bins after one loop has moved. -/
def moveInBins (bins : List Bin) (l : PLoop) (dest : Nat) : List Bin :=
  assignTo (bins.map fun b => b.without [l.id]) dest l

/-- Misplacement: a planned move to a better engine, or fault 0x2E (R143). -/
def State.misplaced (s : State) (l : Nat) : State :=
  let x := s.loop l
  if ¬ x.placed ∨ x.move.isSome then s
  else
    let bins := s.bins
    let pl := s.ploop l x.desc
    let now := (bins.find? (·.e = x.engine)).elim Frac.zero fun b => loadFrac b.load b.rate
    let ok := bins.filter fun b => b.e != x.engine && b.fails s.rules pl == 0
      && Frac.lt (loadFrac (b.load.add pl.load) b.rate) now
      && reserveHolds s.rules (moveInBins bins pl b.e) s.ownFb
    match bestOf (ok.map fun b => b.rank pl []) with
    | some (e, _) => s.startMove l e 5
    | none => (s.setLoop l { x with mispl := true }).reportLoop .u 0x2E pgTRL l

/-- Carry-map entry `k` of map `m` (R117, R148): old and new word offset and length. -/
def State.carryEntry (s : State) (m k : Nat) : Nat × Nat × Nat :=
  let w := s.word pgTRL (winBase + 0x2000 + 0x40 * m + 4 * k)
  (bitsAt w 0 13, bitsAt w 13 13, bitsAt w 26 6)

/-- The entries of a carry map up to the one that ends it (R148). -/
def State.carryMap (s : State) (m : Nat) : List (Nat × Nat × Nat) :=
  ((List.range 16).map (s.carryEntry m)).takeWhile fun e => e.2.2 != 0

/-- Whether a carry rule is valid between two state sizes (R148). -/
def State.carryValid (s : State) (carry old new : Nat) : Bool :=
  if carry = 0 then old == new
  else if carry = 15 then true
  else
    let es := s.carryMap carry
    es.all (fun e => 4 * (e.1 + e.2.2) ≤ old && 4 * (e.2.1 + e.2.2) ≤ new)
      && (List.range es.length).all fun i => (List.range i).all fun j =>
        let a := es.getD i (0, 0, 0)
        let b := es.getD j (0, 0, 0)
        a.2.1 + a.2.2 ≤ b.2.1 || b.2.1 + b.2.2 ≤ a.2.1

/-- The state size of a descriptor (R119). -/
def State.descState (s : State) (d : List Word) : Nat := max (descSize d) (s.imgState (descImg d))

/-- Whether a standby area fits on the loop's engine (R124, R149). -/
def State.standbyFits (s : State) (l : Nat) (d : List Word) : Bool :=
  let e := (s.loop l).engine
  ((s.areas e).map (·.2)).foldl (· + ·) 0 + round256 (4 * s.imgWords (descImg d)) ≤ 0x20000

/-- GRAFT_SET_START: the graft set of a commit, each loop with its new descriptor (R147, R149). A set that a later commit adds
to is verified anew (assumption 38). -/
def State.startGraft (s : State) (set : List (Nat × List Word)) : State :=
  if set.isEmpty then s
  else
    let s := { s with trl := { s.trl with graftLoops := (s.trl.graftLoops ++ set.map Prod.fst).eraseDups, graftAt := s.now } }
    let s := (s.wrB pgTRL Reg.TRL.STAT_GRAFT_PEND true).setWord pgTRL 0x14C 1
    let s := s.each set fun s ld =>
      let x := s.loop ld.1
      let off := firstFit (s.areas x.engine) (round256 (4 * s.imgWords (descImg ld.2)))
      s.setLoop ld.1 { x with
        state := if x.state = LoopState.running then LoopState.grafting else x.state
        graft := some { desc := ld.2, imgOff := off, stOff := 0 } }
    match set.find? fun (ld : Nat × List Word) => !s.carryValid (descCarry ld.2) (s.loop ld.1).stSize (s.descState ld.2) with
    | some ld => s.cancelGraft 1 ld.1
    | none => match set.find? fun (ld : Nat × List Word) => !s.standbyFits ld.1 ld.2 with
      | some ld => s.cancelGraft 2 ld.1
      | none => if s.polderSt pdSecurity = .failed then s.cancelGraft 4 ((set.map Prod.fst).headD 0) else s

/-- Whether a loop's standby copy equals the code of its slot (R147). -/
def State.standbyMatches (s : State) (l : Nat) : Bool :=
  let x := s.loop l
  x.graft.any fun g =>
    let k := descImg g.desc
    s.bytes (leBase x.engine + g.imgOff) (4 * s.imgWords k) == s.bytes (s.imgCode k) (4 * s.imgWords k)

/-- GRAFT_STANDBY_VERIFIED: once every standby copy is loaded, all match and the set is ready, or it is cancelled (R147,
R149). -/
def State.graftVerified (s : State) : State :=
  if s.rd pgTRL Reg.TRL.GRAFT_STAT_STATE = 1 ∧ s.trl.graftLoops.all (fun l => (s.loop l).graft.any (·.loaded)) then
    match s.trl.graftLoops.find? (fun l => !s.standbyMatches l) with
    | some l => s.cancelGraft 3 l
    | none => s.wr pgTRL Reg.TRL.GRAFT_STAT_STATE 2
  else s

/-- GRAFT_TIMEOUT (R149). -/
def State.graftTimeout (s : State) : State :=
  if s.rd pgTRL Reg.TRL.GRAFT_STAT_STATE = 1 ∧ s.passed s.trl.graftAt (msTicks (s.rd pgTRL Reg.TRL.GRAFT_TMO_MS)) then
    s.cancelGraft 6 (s.trl.graftLoops.headD 0)
  else s

/-- The words carried into a new state area (R148). -/
def State.carryWords (s : State) (carry old new oldSize : Nat) : State :=
  if carry = 0 then s.copyMem new old oldSize
  else if carry = 15 then s
  else
    let words := (s.carryMap carry).map fun e =>
      (4 * e.2.1, (List.range e.2.2).map fun i => s.mword (old + 4 * (e.1 + i)))
    s.each words fun s w => s.putMwords (new + w.1) w.2

/-- The swap of one loop: new state area, carried words, new image and bindings (R147, R150). -/
def State.swapLoop (s : State) (l : Nat) (x : LoopRec) (g : LoopGraft) : State :=
  let k := descImg g.desc
  let size := s.descState g.desc
  let e := x.engine
  let stOff := firstFit (s.areas e) (round256 size)
  let old := leBase e + x.stOff
  let new := leBase e + stOff
  let s := s.initState new k size
  let s := s.carryWords (descCarry g.desc) old new x.stSize
  let s := s.setLoop l { x with
    desc := g.desc, next := none, slot := k, imgOff := g.imgOff, imgWords := s.imgWords k, stOff := stOff, stSize := size
    graft := none, state := if x.state = .grafting then .running else x.state
    delayValid := false, delayLast := 0, delayAvg := 0, budgetLogged := false, deadlineLogged := false, minselLogged := false
    costs := [], prevStamp := none, fbLoaded := false }
  (s.loadGuards l false).replanFallbacks

/-- GRAFT_SWAP: at a suitable run end of a loop of a ready set; the last swap completes the set (R147). -/
def State.graftSwap (s : State) (l : Nat) : State :=
  let x := s.loop l
  match x.graft with
  | none => s
  | some g =>
    let ready := s.rd pgTRL Reg.TRL.GRAFT_STAT_STATE
    if (ready ≠ 2 ∧ ready ≠ 3) ∨ s.inProgress l ∨ x.move.isSome then s
    else
      let ticks := 64 + (8 * (s.descState g.desc / 4) + 24) / 25
      if s.copyMayStart l ticks g.ends then
        let s := (s.wr pgTRL Reg.TRL.GRAFT_STAT_STATE 3).swapLoop l x g
        let left := s.trl.graftLoops.filter (· ≠ l)
        let s := s.setGraftLoops left
        if left.isEmpty then
          ((s.wr pgTRL Reg.TRL.GRAFT_STAT_STATE 4).wrB pgTRL Reg.TRL.STAT_GRAFT_PEND false).reportFab .c 0x31 pgTRL
        else s
      else s.setLoop l { x with graft := some { g with ends := g.ends + 1 } }

/-- Whether a change of descriptor is a graft: IMG, CARRY, SIZE or CKPT with CLASS, GROUP and SRC unchanged (R121). -/
def isGraft (old new : List Word) : Bool :=
  descClass old == descClass new && descGroup old == descGroup new && descSrc old == descSrc new
    && (descImg old != descImg new || descCarry old != descCarry new || descSize old != descSize new
      || descCkpt old != descCkpt new)

/-- Whether a change removes the loop and places it anew (R121). -/
def isReplaced (old new : List Word) : Bool :=
  descClass old != descClass new || descGroup old != descGroup new || descSrc old != descSrc new

/-- The loops a placement under proposed descriptors has to place, and the bins of those that stay (R128). `s` holds the
proposed descriptors in its TRL window. -/
def State.proposedBins (s : State) : List PLoop × List Bin :=
  let on := loopIds.filter fun l => descEn (s.liveDesc l)
  let stays (l : Nat) : Bool := (s.loop l).placed && !(s.loop l).gone && !isReplaced (s.loop l).desc (s.liveDesc l)
  let out (l : Nat) : Bool := (s.loop l).state == .suspended || (s.loop l).state == .stranded
  let bins := s.bins.map fun b => { b with
    loops := (on.filter fun l => stays l && (s.loop l).home == b.e).map fun l => s.ploop l (s.liveDesc l) }
  (sortBy placedBefore ((on.filter fun l => !stays l && !out l).map fun l => s.ploop l (s.liveDesc l)), bins)

/-- An engine that breaks an order with the loops it keeps lets class C and B loops go, in eviction order, for placement
elsewhere (R127, R128). -/
def relieveBin (r : PlaceRules) : List PLoop → Bin → List PLoop → Bin × List PLoop
  | [], b, out => (b, out)
  | x :: xs, b, out => if b.broken r = 0 then (b, out) else relieveBin r xs (b.without [x.id]) (out ++ [x])

/-- The placement of a commit: the bins, or the loop that could not be placed and the order it failed (R128). -/
def State.placeCommit (s : State) : Except (Nat × Nat) (List Bin) :=
  let p := s.proposedBins
  let r := s.rules
  let relieved := p.2.map fun b => relieveBin r (evictable b) b []
  let bins := relieved.map (·.1)
  match bins.find? (fun b => b.broken r != 0) with
  | some b => .error (((sortBy placedBefore b.loops).headD (b.loops.headD ⟨0, 0, 0, Frac.zero, 0, 0, 0, false, none⟩)).id, b.broken r)
  | none => match placeAll r (sortBy placedBefore (p.1 ++ relieved.flatMap (·.2))) bins with
    | .error x => .error x
    | .ok bins => if reserveHolds r bins s.ownFb then .ok bins
        else .error (((sortBy placedBefore (p.1 ++ bins.flatMap (·.loops))).headD ⟨0, 0, 0, Frac.zero, 0, 0, 0, false, none⟩).id, 6)

/-- The engine a loop has in some bins. -/
def binOf (bins : List Bin) (l : Nat) : Option Nat := (bins.find? fun b => b.loops.any (·.id == l)).map (·.e)

/-- A successful commit: loops enabled or replaced are placed, those that an order no longer keeps are moved, and waiting
loops are tried again (R121, R127 to R129). -/
def State.commitPlacement (s : State) : State :=
  match s.placeCommit with
  | .error _ => s.resumeLoops
  | .ok bins =>
    let s := s.each loopIds fun s l =>
      let x := s.loop l
      let d := s.liveDesc l
      match binOf bins l with
      | some e =>
        if descEn d ∧ ¬ x.placed ∧ x.state = .disabled then s.placeOn l e d false
        else if x.placed ∧ x.home ≠ e then s.startMove l e 4
        else s
      | none => s
    s.resumeLoops

/-- Handles one placement event; a drain that has ended meanwhile moves nothing (R35, R129). -/
def State.handleEvent (s : State) : PlaceEvent → State
  | .commit _ => s.commitPlacement
  | .drain e => if s.polderSt (pdLE e) = .draining then s.moveAway e else s
  | .engineFault e => s.engineFault e
  | .overrun l => s.misplaced l
  | .refill _ => s.resumeLoops
  | .rate => s.resumeLoops

/-- Whether an event is an engine fault: those go first (R129). -/
def PlaceEvent.isFault : PlaceEvent → Bool
  | .engineFault _ => true
  | .commit _ => false | .drain _ => false | .overrun _ => false | .refill _ => false | .rate => false

/-- The queue of events with one more (R129). -/
def State.queueEvent (s : State) (x : PlaceEvent) : State :=
  let es := s.trl.events
  let es := if x.isFault then es.filter (·.isFault) ++ [x] ++ es.filter (!·.isFault) else es ++ [x]
  { s with trl := { s.trl with events := es } }

/-- After an event: plans, reserve and registers follow (R131, R523). -/
def State.afterEvent (s : State) : State := (s.replanFallbacks.showLoads).judgeReserve

/-- PLACEMENT_EVENT: the first queued event is handled (R129). -/
def State.placementEvent (s : State) : State :=
  match s.trl.events with
  | [] => s
  | x :: xs => ({ s with trl := { s.trl with events := xs } }.handleEvent x).afterEvent

/-- FAULT_MOVE: Trellis handles the failure of engine `e` (R138). -/
def State.faultMoves (s : State) (e : Nat) : State :=
  if s.trl.events.contains (.engineFault e) then
    ({ s with trl := { s.trl with events := s.trl.events.erase (.engineFault e) } }.engineFault e).afterEvent
  else s

/-- The loops an engine over its limit sheds, as few as bring it back (R130, assumption 29). -/
def State.shedding (s : State) (b : Bin) : List PLoop :=
  let exceeds (b : Bin) : Bool := Frac.lt (Frac.mk' (s.rules.limit * b.rate) 100) b.load
  let cands := sortBy (fun a c => if a.cls != c.cls then c.cls < a.cls else
    if Frac.lt a.load c.load then true else if Frac.lt c.load a.load then false else c.id < a.id) (b.loops.filter (·.cls != 0))
  (cands.foldl (fun (acc : Bin × List PLoop) l => if exceeds acc.1 then (acc.1.without [l.id], acc.2 ++ [l]) else acc) (b, [])).2

/-- RESERVE_REEVALUATION: orders 5 and 6 against the present rates; relief moves (R130). -/
def State.reevaluate (s : State) : State :=
  let s := s.each (s.bins.flatMap s.shedding) fun s l =>
    match s.engineFor l.id (s.loop l.id).desc [(s.loop l.id).home] with
    | some e => if (s.loop l.id).graft.isSome then s else s.startMove l.id e 4
    | none => s
  s.showLoads.judgeReserve

/-- The spread of load fractions among engines in service, with the most and the least loaded (R144). -/
def spread (bins : List Bin) : Option (Frac × Bin × Bin) :=
  match bins with
  | [] => none
  | b :: bs =>
    let f (b : Bin) := loadFrac b.load b.rate
    let hi := bs.foldl (fun m x => if Frac.lt (f m) (f x) then x else m) b
    let lo := bs.foldl (fun m x => if Frac.lt (f x) (f m) then x else m) b
    some (Frac.mk' ((f hi).n * (f lo).d - (f lo).n * (f hi).d) ((f hi).d * (f lo).d), hi, lo)

/-- BALANCE_EVALUATION: a spread above the threshold for HOLD moves the class B or C loop that reduces it most (R144,
R366). -/
def State.balanceLoops (s : State) : State :=
  let bins := s.bins
  if ¬ s.rdB pgTRL Reg.TRL.TCTL_BAL_EN ∨ s.rd pgFLT Reg.FLT.STAT_RED ≠ 0 then
    { s with trl := { s.trl with spreadSince := none } }
  else match spread bins with
    | none => s
    | some (d, hi, lo) =>
      if Frac.le d ⟨s.rd pgTRL Reg.TRL.TCTL_BAL_SPREAD, 100⟩ then { s with trl := { s.trl with spreadSince := none } }
      else match s.trl.spreadSince with
        | none => { s with trl := { s.trl with spreadSince := some s.now } }
        | some t =>
          if ¬ s.passed t (msTicks (s.rd pgTRL Reg.TRL.BAL_TIME_HOLD)) then s
          else
            let cands := hi.loops.filter fun l => l.cls != 0 && (s.loop l.id).graft.isNone && (s.loop l.id).move.isNone
              && lo.fails s.rules l == 0 && reserveHolds s.rules (moveInBins bins l lo.e) s.ownFb
            let after (l : PLoop) : Frac := ((spread (moveInBins bins l lo.e)).map (·.1)).getD d
            match cands.foldl (fun (best : Option PLoop) l => match best with
                | none => if Frac.lt (after l) d then some l else none
                | some b => if Frac.lt (after l) (after b) then some l else some b) none with
            | some l => s.startMove l.id lo.e 3
            | none => s

/-- Whether a live or staged enabled descriptor names an image slot (R146, assumption 30). -/
def State.slotNamed (s : State) (k : Nat) : Bool :=
  loopIds.any fun l =>
    let live := s.word pgTRL (winBase + 0x80 * l)
    let staged := s.stagedWord pgTRL (winBase + 0x80 * l)
    [live, staged].any fun w => bitsAt w 0 1 == 1 && bitsAt w 8 6 == k

/-- The result of an image command (R152). -/
def State.imgResult (s : State) (k r : Nat) : State := s.setWord pgTRL 0x148 (BitVec.ofNat 32 (k % 64 + r * 2 ^ 8))

/-- The verified mark of a slot (R152). -/
def State.markSlot (s : State) (k : Nat) (v : Bool) : State :=
  let off := if k < 32 then 0x150 else 0x154
  s.setWord pgTRL off (withBits (s.word pgTRL off) (k % 32) 1 (bit v))

/-- IMG_CMD OP 1: the package at IMG_SRC is stored into a slot, unless it is refused (R31, R146). -/
def State.imgStore (s : State) (k : Nat) : State :=
  if s.trl.job.isSome then s
  else if s.slotNamed k then (s.imgResult k 7).reportFab .c 0x30 pgTRL
  else if s.polderSt pdSecurity = .failed then (s.imgResult k 6).reportFab .c 0x30 pgTRL
  else
    { (s.imgResult k 1).markSlot k false with
      trl := { s.trl with job := some { slot := k, src := (s.word pgTRL 0x144).toNat / 32 * 32, erase := false } } }

/-- IMG_CMD OP 2: a slot is erased, unless a descriptor names it (R146). -/
def State.imgErase (s : State) (k : Nat) : State :=
  if s.trl.job.isSome then s
  else if s.slotNamed k then (s.imgResult k 7).reportFab .c 0x30 pgTRL
  else ((s.markSlot k false).imgResult k 8).zeroMem (s.slotBase k) 0x8000

/-- IMAGE_STORE_COMPLETE: what the security engine found of the package decides with the checks of R82 (R146, R152). `fail` is
0, or the code 3, 4 or 6 of a failed signature, a refused rollback or an engine that is not available. -/
def State.imgStored (s : State) (fail : Nat) : State :=
  match s.trl.job with
  | none => s
  | some j =>
    let s := { s with trl := { s.trl with job := none } }
    let result := if fail = 3 ∨ fail = 4 ∨ fail = 6 then fail else if s.imageValid j.src then 2 else 5
    if result = 2 then ((s.copyMem (s.slotBase j.slot) j.src 0x8000).markSlot j.slot true).imgResult j.slot 2
    else (s.imgResult j.slot result).reportFab .c 0x30 pgTRL

/-- A loop whose image cannot be refetched: moved as by an engine fault, but a class B or C loop with no other copy is
stranded (R342). -/
def State.imageLost (s : State) (l : Nat) : State :=
  let x := s.loop l
  if ¬ x.placed then s
  else
    let g := s.eng x.engine
    let drop (c : Context) : Context := if c.loopOf = some l then {} else c
    let s := s.setEng x.engine { g with a := drop g.a, bc := drop g.bc, waiting := g.waiting.filter (·.loop ≠ l) }
    if descClass x.desc = 0 then
      ((s.setLoop l { x with state := .suspended }).faultMove l).afterEvent
    else ((s.graftMoved l).strand l).afterEvent

/-- Seven or fewer words of LOOP_STAT and its neighbours show the loop TRL.LOOP_SEL selects (R152). -/
def LoopState.code : LoopState → Nat
  | .disabled => 0 | .loading => 1 | .running => 2 | .moving => 3 | .suspended => 4 | .stranded => 5 | .grafting => 6

/-- LOOP_STAT of a loop (R152). -/
def LoopRec.statWord (x : LoopRec) : Word :=
  BitVec.ofNat 32 (x.state.code + x.engine % 16 * 2 ^ 4 + (x.fallback.getD 0) % 16 * 2 ^ 8 + x.moveCause * 2 ^ 12
    + bit x.mispl * 2 ^ 15 + bit x.fallback.isSome * 2 ^ 16)

/-- LOOP_LOAD: the highest and the mean cost of the last 1,024 runs (R152, R560). -/
def LoopRec.loadWord (x : LoopRec) : Word :=
  let sum := x.costs.foldl (· + ·) 0
  BitVec.ofNat 32 (satNat 16 (x.costs.foldl max 0) + satNat 16 (sum / max 1 x.costs.length) * 2 ^ 16)

/-- The delay words of a loop: last, average, peak (R57). -/
def LoopRec.delayLastWord (x : LoopRec) : Word :=
  if x.delayValid then BitVec.ofNat 32 (satNat 24 x.delayLast + 2 ^ 31) else 0
def LoopRec.delayAvgWord (x : LoopRec) : Word :=
  if x.delayValid then BitVec.ofNat 32 (satNat 28 x.delayAvg + 2 ^ 31) else 0
def LoopRec.delayPeakWord (x : LoopRec) : Word := BitVec.ofNat 32 (satNat 24 x.delayPeak)

/-- LE_DEBUG_SNAPSHOT: the register context of the next run of a loop is copied at its EXIT (R467). -/
def State.snapshotLoop (s : State) (l : Nat) : State :=
  if (s.loop l).placed then s.setEng (s.loop l).engine { s.eng (s.loop l).engine with snapLoop := some l } else s

/-- Whether a loop is bound to a pulse output of a stage outside Off (R467). -/
def State.drivesActiveStage (s : State) (l : Nat) : Bool :=
  let x := s.loop l
  ((boundOuts x.desc (s.imgOuts x.slot)).filterMap pulseOutput).any fun po => !s.stageOff (s.owner po.1)

/-- LE_DEBUG_HOLD: a held loop is not dispatched; refused for a loop bound to a pulse output of a stage outside Off
(R467). -/
def State.holdLoop (s : State) (l : Nat) (on : Bool) : State :=
  if on ∧ s.drivesActiveStage l then s else s.setLoop l { s.loop l with held467 := on }

end Sys2Proof.Machine
end

