-- ==== Sys2Proof/Machine/Acquisition.lean ====
section
/-! DEFINITION. The SAR converters: sequences, slots, deliveries and predictions, injected conversions, calibration, power-down,
hosting, and the test DAC (R175, R179, R270 to R288, R533). -/

namespace Sys2Proof.Machine

def State.conv (s : State) (n : Nat) : Converter := tabGet (fun _ => {}) s.convs n
def State.setConv (s : State) (n : Nat) (c : Converter) : State := { s with convs := tabPut (fun _ => {}) s.convs n c }

/-- The acquisition time of a page: values below 22 act as 22 (R271, R300). -/
def State.acqTicks (s : State) (n : Nat) : Nat := max 22 (s.rd (pgSA n) Reg.SA.CFG_ACQ)

/-- GAIN and OFFSET of an input (R272, R301). -/
def State.scaleOf (s : State) (ain : Nat) : Word × Word :=
  let o := winBase + 0x100 + 8 * (ain % 16)
  (s.word (pgSA (ain / 16)) o, s.word (pgSA (ain / 16)) (o + 4))

/-- The value of a code: GAIN × code + OFFSET with one rounding (R272). -/
def scaled (sc : Word × Word) (code : Nat) : Word := (fpFma sc.1 (fpOfInt code) sc.2 false).w

/-- The converter and position of an input on its primary and on its secondary (R270). -/
def secondary (n : Nat) : Nat := (n + 1) % 6
def positionOn (n ain : Nat) : Nat := if ain / 16 = n then ain % 16 else 16 + ain % 16

/-- Whether a position of a converter has failed (R288). -/
def State.posFailed (s : State) (n p : Nat) : Bool := bitOf (s.rd (pgSA n) Reg.SA.POS_FAIL_POS) p

/-- The input of position `p` of converter `n` (R270). -/
def positionAin (n p : Nat) : Nat := if p < 16 then 16 * n + p else 16 * ((n + 5) % 6) + (p - 16)

/-- The converter a sequence runs on at its next start: its own while that is in service and none of its primary positions
has failed, else the secondary where it can take every entry, else its own where that is in service (R285, R286). -/
def State.seqSide (s : State) (n : Nat) (entries : List Nat) : Option Nat :=
  let m := secondary n
  if s.inService (pdSA n) ∧ entries.all (fun a => !s.posFailed n (a % 16)) then some n
  else if s.inService (pdSA m) ∧ entries.all (fun a => !s.posFailed m (16 + a % 16)) then some m
  else if s.inService (pdSA n) then some n
  else none

/-- The converter a sequence ran on last. -/
def State.seqOnNow (s : State) (q : SeqId) : Nat := if (s.conv q.conv).hosted.contains q.k then secondary q.conv else q.conv

/-- A converter carries work while an enabled sequence runs on it (R32); RUN.HOSTED and HOSTING follow (R285, R300). -/
def State.showConv (s : State) (n : Nat) : State :=
  let s := s.setBusy (pdSA n) (allSeqs.any fun q => s.seqOn q && s.seqOnNow q == n)
  let s := s.wrB (pgSA n) Reg.SA.RUN_HOSTED (!(s.conv n).hosted.isEmpty)
  s.wrB (pgSA n) Reg.SA.RUN_HOSTING (!(s.conv ((n + 5) % 6)).hosted.isEmpty)

/-- A sequence moves to or from the secondary at its next start (R285). -/
def State.hostMove (s : State) (q : SeqId) (side : Nat) : State :=
  if s.seqOnNow q = side then s
  else
    let c := s.conv q.conv
    let s := s.setConv q.conv { c with
      hosted := if side = q.conv then c.hosted.filter (· ≠ q.k) else insertNat q.k c.hosted }
    ((s.showConv q.conv).showConv (secondary q.conv)).reportTp .c 0x6F (pgSA q.conv)

/-- The phase of a traction set that an input is bound to: stage, set and phase (R174). -/
def State.phaseOf (s : State) (ain : Nat) : Option (Nat × Nat × Nat) :=
  ([0, 1].flatMap fun st => [0, 1].flatMap fun set => [0, 1, 2].map fun k => (st, set, k)).find? fun (x : Nat × Nat × Nat) =>
    s.iphAin x.1 x.2.1 x.2.2 == ain

/-- Whether a leg's switch is on throughout the edge-unit interval from `w0` to `w1`, by its live compare value and after
dead time (R155, R175, R264). -/
def State.switchOn (s : State) (p : Nat) (high : Bool) (w0 w1 : Int) : Bool :=
  let c := s.chan p
  if s.latched p ∨ s.stoOpen then false
  else match c.drive with
    | .lowOn => !high
    | .highOn => high
    | .off => false
    | .pins => false
    | .driven =>
      let per := s.legPeriod p
      let cmp := min (s.rd p Reg.CHAN.COMPARE_EU) per
      if c.awaiting ∨ per = 0 then false
      else if cmp = 0 ∨ cmp = per then high == decide (0 < cmp)
      else
        let dead : Int := ((s.rd p Reg.XH.DT_NS * 32 + 4) / 5 : Nat)
        let rise : Int := (s.legTiming p).start + s.rd p Reg.CHAN.PHASE_EU + ((per - cmp) / 2 : Nat)
        let on := if high then rise + dead else rise + cmp + dead
        let off := if high then rise + cmp else rise + per
        let k := (w0 - on) / per
        decide (on + k * per ≤ w0) && decide (w1 ≤ off + k * per)

/-- The narrow-window check of an entry whose slot starts at tick `start`: whether the sample is skipped (R175, R278). -/
def State.narrowCheck (s : State) (ain start acq : Nat) : Bool × State := match s.phaseOf ain with
  | none => (false, s)
  | some (st, set, k) =>
    let meas := s.rd (pgSG st) (if set = 0 then Reg.SGT.TCFG_MEAS_A else Reg.SGT.TCFG_MEAS_B)
    if meas ≠ 1 ∧ meas ≠ 2 then (false, s)
    else
      let w0 : Int := ((start * 20 : Nat) : Int) - ((s.rd (pgSG st) Reg.SGT.SETTLE_NS * 32 + 4) / 5 : Nat)
      let on := (s.setLegs st set)[k]?.any fun p => s.switchOn p (meas == 2) w0 ((start + acq) * 20 : Nat)
      if on then (false, s) else (true, s.countFirst (pgSG st) Reg.SGT.SKIP_CNT_COUNT 0x48)

/-- The prediction of an input at planned hold instant `t`: its value and whether PRED_MAX was reached; none without a
measured sample (R283, R284). Each operation rounds to binary32. -/
def State.predicted (s : State) (ain t : Nat) : Option (Word × Bool) :=
  let x := s.sample (ainHandle ain)
  let sc := s.scaleOf ain
  let held := s.rd (pgSA (ain / 16)) Reg.SA.CFG_PRED_MAX ≤ x.preds
  if x.n = 0 then none
  else if held ∧ 0 < x.preds then some (x.value, true)
  else
    let extrapolated := fadd x.x1 (fdiv (fmul (fsub x.x1 x.x0) (fpOfInt ((t : Int) - x.t1))) (fpOfInt ((x.t1 : Int) - x.t0)))
    let v := if held ∨ x.n < 2 then x.x1 else extrapolated
    some (fpClamp v (fpMin (scaled sc 0) (scaled sc 16383)) (fpMax (scaled sc 0) (scaled sc 16383)), held)

/-- A reconstructed phase of the set an input belongs to follows the samples of the other two, with PRD 1 and SKP 0 (R179). -/
def State.refreshRecon (s : State) (ain stamp : Nat) : State := match s.phaseOf ain with
  | none => s
  | some (st, set, _) =>
    match [0, 1, 2].find? (s.isReconstructed st set) with
    | none => s
    | some k =>
      let h := ainHandle (s.iphAin st set k)
      s.setSample h { s.sample h with
        valid := true, value := s.phaseCurrent st set k, stamp := stamp, prd := true, skp := false }

/-- An entry of an instance has been converted or predicted and delivered: each loop whose sample set is complete with it
fires, stamped at the end of the entry's slot (R277). -/
def State.entryDelivered (s : State) (r : SeqRun) (ain end_ : Nat) : State :=
  s.each (loopIds.filter fun l => (s.loop l).awaited.contains ain && (s.loop l).awaitTrig == r.trig) fun s l =>
    let rest := (s.loop l).awaited.filter (· ≠ ain)
    let s := s.setLoop l { s.loop l with awaited := rest }
    if rest.isEmpty then s.fire l end_ else s

/-- A measured sample is delivered (R271, R284). -/
def State.deliverSample (s : State) (r : SeqRun) (ain hold : Nat) (v : Word) (end_ : Nat) : State :=
  let h := ainHandle ain
  let x := s.sample h
  let s := s.setSample h { x with
    valid := true, value := v, stamp := hold, prd := false, skp := false, n := min 2 (x.n + 1)
    t0 := x.t1, x0 := x.x1, t1 := hold, x1 := v, preds := 0, limitLogged := false }
  (s.refreshRecon ain hold).entryDelivered r ain end_

/-- An entry is delivered as a prediction at its planned hold instant, and counted in the page that defines its sequence
(R282 to R284). A failed input delivers no sample (R288). -/
def State.deliverPrediction (s : State) (r : SeqRun) (ain hold end_ : Nat) : State :=
  let s := s.countFirst (pgSA r.conv) Reg.SA.SKIP_CNT_COUNT 0x60
  let h := ainHandle ain
  let x := s.sample h
  let s := match (if s.ainFailed ain then none else s.predicted ain hold) with
    | none => s.setSample h { x with valid := false, prd := false, skp := false }
    | some (v, held) =>
      let s := s.setSample h { x with
        valid := true, value := v, stamp := hold, prd := true, skp := true, preds := x.preds + 1, limitLogged := x.limitLogged || held }
      if held ∧ ¬ x.limitLogged then s.reportTp .c 0x66 (pgSA (ain / 16)) else s
  (s.refreshRecon ain hold).entryDelivered r ain end_

/-- The entries of an instance not yet converted are delivered as predictions, planned from tick `start` on (R275, R282). -/
def State.predictRest (s : State) (r : SeqRun) (start : Nat) : State :=
  let slot := s.acqTicks r.conv + 32
  s.each ((r.entries.drop r.next).zipIdx) fun s ai =>
    let from_ := start + ai.2 * slot
    s.deliverPrediction r ai.1 (from_ + slot - 32) (from_ + slot)

/-- The next entry of an instance starts its slot on converter `n` at tick `start`, after its narrow-window check (R274,
R278); past the last entry the converter is idle. -/
def State.startEntry (s : State) (n : Nat) (r : SeqRun) (start : Nat) : State := match r.entries[r.next]? with
  | none => s.setConv n { s.conv n with run := none, slot := none, idleAt := start }
  | some ain =>
    let acq := s.acqTicks r.conv
    let chk := s.narrowCheck ain start acq
    chk.2.setConv n { chk.2.conv n with run := some r, slot := some { kind := .entry ain chk.1, start := start, acq := acq } }

/-- The first tick from `t` on at which a converter can start a slot: its wake takes 96 ticks (R279). -/
def State.readyFrom (s : State) (n t : Nat) : Nat :=
  if s.rdB (pgSA n) Reg.SA.RUN_AWAKE then max t (s.conv n).wakeEnd else t + 96

/-- A converter is powered, its wake ending at tick `t` if it was down (R279). -/
def State.powerConv (s : State) (n t : Nat) : State :=
  if s.rdB (pgSA n) Reg.SA.RUN_AWAKE then s
  else (s.wrB (pgSA n) Reg.SA.RUN_AWAKE true).setConv n { s.conv n with wakeEnd := t }

/-- An input fails (R288). -/
def State.failInput (s : State) (ain : Nat) : State :=
  if s.ainFailed ain then s
  else (s.orBits (pgSA (ain / 16)) Reg.SA.IN_FAIL_IN (2 ^ (ain % 16))).reportTp .u 0x65 (pgSA (ain / 16))

/-- Whether an instance goes before another: trigger instant, page number, sequence number (R274). -/
def SeqRun.before (a b : SeqRun) : Bool :=
  a.trig < b.trig || (a.trig == b.trig && (a.conv < b.conv || (a.conv == b.conv && a.k < b.k)))

/-- Whether a converter is free for a sequence: no slot, no instance, no calibration (R274). -/
def Converter.free (c : Converter) : Bool := c.slot.isNone && c.run.isNone && c.calAt.isNone

/-- SEQUENCE_START: the first waiting instance that runs on converter `n` starts; one that no converter can take is
predicted (R274, R282, R285, R286). An entry whose position there has failed cannot be converted, so its input fails (R286). -/
def State.sequenceStart (s : State) (n : Nat) : State :=
  let lost := s.waitingSeqs.filter fun r => (s.seqSide r.conv r.entries).isNone
  let s := { s with waitingSeqs := s.waitingSeqs.filter fun r => (s.seqSide r.conv r.entries).isSome }
  let s := s.each lost fun s r => s.predictRest r s.now
  match (sortBy SeqRun.before (s.waitingSeqs.filter fun r => s.seqSide r.conv r.entries == some n)).head? with
  | none => s
  | some r =>
    if ¬ (s.conv n).free then s
    else
      let start := s.readyFrom n (max s.now (r.trig + bit r.soft))
      let s := { s with waitingSeqs := s.waitingSeqs.filter (· ≠ r) }
      let s := (s.hostMove ⟨r.conv, r.k⟩ n).powerConv n start
      let s := s.each (r.entries.filter fun a => s.posFailed n (positionOn n a)) State.failInput
      s.startEntry n r start

/-- The ticks left in a converter's present slot and instance: where a following instance would start (R275). -/
def State.plannedEnd (s : State) (n : Nat) : Nat :=
  let c := s.conv n
  let slotEnd := c.slot.elim s.now fun sl => sl.start + sl.acq + 32
  slotEnd + c.run.elim 0 fun r => (r.entries.length - r.next - 1) * (s.acqTicks r.conv + 32)

/-- Whether a slot converts an entry of a sequence. -/
def Slot.isEntry (sl : Slot) : Bool := match sl.kind with
  | .entry _ _ => true
  | .injected _ => false

/-- The previous instance of a sequence that still runs or waits is abandoned (R275). -/
def State.abandonSeq (s : State) (n k : Nat) : State :=
  let running : Option (Nat × SeqRun) :=
    ([n, secondary n].filterMap fun m => ((s.conv m).run.filter fun r => r.conv == n && r.k == k).map fun r => (m, r)).head?
  let s : State := match running with
    | some (m, r) =>
      let c := s.conv m
      let inEntry := c.slot.any Slot.isEntry
      let start := c.slot.elim s.now fun sl => if inEntry then sl.start else sl.start + sl.acq + 32
      let s := s.setConv m { c with run := none, slot := if inEntry then none else c.slot, idleAt := s.now }
      (s.predictRest r start).countFirst (pgSA n) Reg.SA.SEQ_OVR_COUNT 0x62
    | none => s
  match s.waitingSeqs.find? fun r => r.conv == n && r.k == k with
  | some r =>
    let s := { s with waitingSeqs := s.waitingSeqs.filter (· ≠ r) }
    let start := (s.seqSide n r.entries).elim s.now s.plannedEnd
    (s.predictRest r start).countFirst (pgSA n) Reg.SA.SEQ_OVR_COUNT 0x62
  | none => s

/-- The loops whose sample set is started by set event `ev`, all of whose sequences are triggered: they await every input of
their set (R277). -/
def State.awaitSets (s : State) (ev : SeqEvent) (covered : List Nat → Bool) : State :=
  s.each loopIds fun s l =>
    let x := s.loop l
    let ains := (boundAins x.desc (s.imgIns x.slot)).eraseDups
    if x.active ∧ descSrc x.desc = 1 ∧ s.setEvents ains = [ev] ∧ covered ains then
      s.setLoop l { x with awaited := ains, awaitTrig := s.now }
    else s

/-- A trigger of sequences: instances that still run or wait are abandoned, and new ones wait for their start (R273 to R275,
R277). -/
def State.triggerSeqs (s : State) (qs : List SeqId) (soft : Bool) (ev : SeqEvent) (covered : List Nat → Bool) : State :=
  let s := s.each qs fun s q => s.abandonSeq q.conv q.k
  let s := s.awaitSets ev covered
  { s with waitingSeqs := s.waitingSeqs ++ qs.map fun q => { conv := q.conv, k := q.k, trig := s.now, soft := soft, entries := s.seqEntries q } }

/-- Whether the sample instant of a stage that EVENT names falls on the present tick (R156, R273). -/
def State.sampleInstantNow (s : State) (st ev : Nat) : Bool :=
  let t := (s.stage st).timing (if 2 ≤ ev ∧ isTraction st then 1 else 0)
  let second := ev % 2 = 1
  let at_ := t.start + t.samp + (if second then t.period / 2 else 0)
  let prev := t.prev + t.samp + (if second then t.period / 2 else 0)
  t.started && (!second || t.double) && ev < (if isTraction st then 4 else 1)
    && (multipleAtOrAfter 20 at_ == s.eu || multipleAtOrAfter 20 prev == s.eu)

/-- SEQUENCE_TRIGGER by a stage's sample instant (R273). -/
def State.stageSequences (s : State) (st ev : Nat) : State :=
  if s.sampleInstantNow st ev then
    s.triggerSeqs (allSeqs.filter fun q => s.seqOn q && s.seqEventOf q == ⟨0, st, ev⟩) false ⟨0, st, ev⟩ fun _ => true
  else s

/-- SEQUENCE_TRIGGER by the interval of `us` microseconds (R273). -/
def State.periodicSequences (s : State) (us : Nat) : State :=
  if 0 < us ∧ s.now % (320 * us) = 0 then
    s.triggerSeqs (allSeqs.filter fun q => s.seqOn q && s.seqEventOf q == ⟨1, us, 0⟩) false ⟨1, us, 0⟩ fun _ => true
  else s

/-- SEQ_SW: one write to page `n` triggers the software sequences whose bits it sets (R273, R277). -/
def State.softwareSequences (s : State) (n bits : Nat) : State :=
  let mine := allSeqs.filter fun q => q.conv == n && s.seqOn q && s.seqSrc q == 2
  s.triggerSeqs (mine.filter fun q => bitOf bits q.k) true ⟨2, n, 0⟩ fun ains =>
    mine.all fun q => bitOf bits q.k || (s.seqEntries q).all fun a => !ains.contains a

/-- A pending injected conversion starts its slot, on the tick after `t` (R280). -/
def State.startInjected (s : State) (n t : Nat) : State := match (s.conv n).inj with
  | none => s
  | some ain =>
    let start := s.readyFrom n (t + 1)
    let s := s.powerConv n start
    s.setConv n { s.conv n with slot := some { kind := .injected ain, start := start, acq := s.acqTicks n } }

/-- INJECTED_REQUEST (R280). An index that names none of the converter's positions has no effect. -/
def State.injectedRequest (s : State) (n ain : Nat) : State :=
  let c := s.conv n
  if ¬ (ain < 96 ∧ (ain / 16 = n ∨ secondary (ain / 16) = n)) then s
  else if ¬ s.inService (pdSA n) ∨ c.inj.isSome then s.countFirst (pgSA n) Reg.SA.INJ_DROP_COUNT 0x61
  else
    let s := (s.setConv n { c with inj := some ain }).wrB (pgSA n) Reg.SA.RUN_INJ_PEND true
    if c.calAt.isSome then s else s.startInjected n s.now

/-- The injected slot of a converter ends: its result, then the discarded entry again (R280). -/
def State.injectedEnd (s : State) (n : Nat) (sl : Slot) (ain code : Nat) : State :=
  let p := pgSA n
  let s := ((s.wr p Reg.SA.INJ_RES_CODE code).wr p Reg.SA.INJ_RES_AIN ain).wrB p Reg.SA.INJ_RES_VALID true
  let s := s.setWord p Reg.SA.INJ_VAL_VALUE.off (scaled (sl.scale.getD (s.scaleOf ain)) code)
  let s := (s.wrStamp p Reg.SA.INJ_AT_L_STAMP Reg.SA.INJ_AT_H_STAMP (sl.start + sl.acq)).wrB p Reg.SA.RUN_INJ_PEND false
  let end_ := sl.start + sl.acq + 32
  let s := s.setConv n { s.conv n with inj := none, slot := none, idleAt := end_ }
  match (s.conv n).run with
  | some r => s.startEntry n r end_
  | none => s

/-- The slot of a sequence entry ends: its sample or prediction is delivered and the next entry starts (R271, R274, R282). -/
def State.entryEnd (s : State) (n : Nat) (sl : Slot) (ain code : Nat) (skip : Bool) : State := match (s.conv n).run with
  | none => s
  | some r =>
    let hold := sl.start + sl.acq
    let s := s.setConv n { s.conv n with slot := none }
    let s := if skip ∨ s.ainFailed ain then s.deliverPrediction r ain hold (hold + 32)
      else s.deliverSample r ain hold (scaled (sl.scale.getD (s.scaleOf ain)) code) (hold + 32)
    s.startEntry n { r with next := r.next + 1 } (hold + 32)

/-- CONVERSION_COMPLETE of converter `n` with the code it delivers, once the slot has ended (R271, R272). -/
def State.conversionComplete (s : State) (n code : Nat) : State := match (s.conv n).slot with
  | none => s
  | some sl =>
    if s.now < sl.start + sl.acq + 32 then s
    else match sl.kind with
      | .injected ain => s.injectedEnd n sl ain (code % 2 ^ 14)
      | .entry ain skip => s.entryEnd n sl ain (code % 2 ^ 14) skip

/-- A conversion whose hold has passed keeps the scale of before a commit mark (R533). -/
def State.freezeScales (s : State) : State :=
  s.each (List.range 6) fun s n => match (s.conv n).slot with
    | some sl =>
      let ain := match sl.kind with | .entry a _ => a | .injected a => a
      if sl.start + sl.acq ≤ s.now ∧ sl.scale = none then
        s.setConv n { s.conv n with slot := some { sl with scale := some (s.scaleOf ain) } }
      else s
    | none => s

/-- Ticks to the next stage-event or periodic slot of converter `n`, none where none is due (R273, R281). -/
def State.dueIn (s : State) (n : Nat) : Option Nat :=
  let next (q : SeqId) : Option Nat :=
    if s.seqSrc q = 1 then
      let i := 320 * max 1 (s.seqUs q)
      some (multipleAtOrAfter i s.now - s.now)
    else if s.seqSrc q = 0 then
      let t := (s.stage (s.seqStage q)).timing (if 2 ≤ s.seqEvent q ∧ isTraction (s.seqStage q) then 1 else 0)
      if t.started ∧ 0 < t.period then
        let at_ := t.start + t.samp + (if s.seqEvent q % 2 = 1 then t.period / 2 else 0)
        let at_ := if at_ < s.eu then at_ + (s.eu - at_ + t.period - 1) / t.period * t.period else at_
        some ((at_ - s.eu + 19) / 20)
      else none
    else none
  ((allSeqs.filter fun q => s.seqOn q && s.seqSide q.conv (s.seqEntries q) == some n).filterMap next).min?

/-- CONVERTER_POWER_DOWN after 2 µs idle (R279). -/
def State.converterDown (s : State) (n : Nat) : State :=
  let c := s.conv n
  if s.rdB (pgSA n) Reg.SA.CFG_PD_EN ∧ s.rdB (pgSA n) Reg.SA.RUN_AWAKE ∧ c.free ∧ c.inj.isNone
      ∧ s.passed (max c.idleAt c.wakeEnd) 640 then
    s.wrB (pgSA n) Reg.SA.RUN_AWAKE false
  else s

/-- CONVERTER_WAKE: 96 ticks ahead of a scheduled slot (R279). -/
def State.converterWake (s : State) (n : Nat) : State :=
  if (s.dueIn n).any (· ≤ 96) then s.powerConv n (s.now + 96) else s

/-- CALIBRATION_REQUEST; ignored while the converter is not ready or running (R281). -/
def State.calRequest (s : State) (n : Nat) : State :=
  let c := s.conv n
  if s.inService (pdSA n) ∧ c.calReq.isNone ∧ c.calAt.isNone then
    (s.setConv n { c with calReq := some s.now }).wrB (pgSA n) Reg.SA.CAL_STAT_WAIT true
  else s

/-- CALIBRATION_AUTO: the interval has passed since the last one (R281). -/
def State.calAuto (s : State) (n : Nat) : State :=
  let sec := s.rd (pgSA n) Reg.SA.CFG_CAL_AUTO
  let c := s.conv n
  if 0 < sec ∧ s.passed c.autoAt (sec * 320000000) then (s.setConv n { c with autoAt := s.now }).calRequest n else s

/-- CALIBRATION_START: the converter is idle and no scheduled slot is due too soon (R281). -/
def State.calStart (s : State) (n : Nat) : State :=
  let c := s.conv n
  let wake := if s.rdB (pgSA n) Reg.SA.RUN_AWAKE then 0 else 96
  let free := c.free ∧ c.inj.isNone ∧ (s.waitingSeqs.all fun r => s.seqSide r.conv r.entries != some n)
  if c.calReq.isSome ∧ s.inService (pdSA n) ∧ free ∧ (s.dueIn n).all (fun t => 2048 + wake ≤ t) then
    let s := s.powerConv n (s.now + wake)
    let s := s.setConv n { s.conv n with calReq := none, calAt := some (s.now + wake) }
    (s.wrB (pgSA n) Reg.SA.CAL_STAT_WAIT false).wrB (pgSA n) Reg.SA.CAL_STAT_BUSY true
  else s

/-- A converter is lost: its instance and any conversion on it end, entries in progress are predicted, and a pending
injected request and calibration go with it (R286). -/
def State.converterLost (s : State) (n : Nat) : State :=
  let c := s.conv n
  let start := c.slot.elim s.now (·.start)
  let s := s.setConv n { c with run := none, slot := none, inj := none, calReq := none, calAt := none, idleAt := s.now }
  let s := ((s.wrB (pgSA n) Reg.SA.RUN_INJ_PEND false).wrB (pgSA n) Reg.SA.CAL_STAT_WAIT false).wrB (pgSA n) Reg.SA.CAL_STAT_BUSY false
  match c.run with
  | some r => s.predictRest r start
  | none => s

/-- CALIBRATION_COMPLETE after 2,048 ticks: coefficients out of range fail the converter (R281). -/
def State.calComplete (s : State) (n : Nat) (good : Bool) : State := match (s.conv n).calAt with
  | none => s
  | some t =>
    if s.now < t + 2048 then s
    else
      let p := pgSA n
      let s := (s.setConv n { s.conv n with calAt := none, idleAt := t + 2048 }).wrB p Reg.SA.CAL_STAT_BUSY false
      if good then (s.wr p Reg.SA.CAL_STAT_RESULT 1).startInjected n (t + 2047)
      else (((s.wr p Reg.SA.CAL_STAT_RESULT 2).failPolder (pdSA n)).reportTp .u 0x6D p).converterLost n

/-- CALIBRATION_ABANDON: not started within 10 ms of its request (R281). -/
def State.calAbandon (s : State) (n : Nat) : State := match (s.conv n).calReq with
  | some t =>
    if s.passed t 3200000 then
      let s := (s.setConv n { s.conv n with calReq := none }).wrB (pgSA n) Reg.SA.CAL_STAT_WAIT false
      (s.wr (pgSA n) Reg.SA.CAL_STAT_RESULT 3).reportTp .c 0x63 (pgSA n)
    else s
  | none => s

/-- The analogue inputs that a stage page names (R174, R187, R229, R248). -/
def State.stageAins (s : State) (st : Nat) : List Nat :=
  let f (off lo : Nat) : Nat := s.rd (pgSG st) ⟨off, lo, 7⟩
  (if isTraction st then
    [f 0x114 0, f 0x114 8, f 0x114 16, f 0x118 0, f 0x118 8, f 0x118 16, f 0x11C 0, f 0x11C 8, f 0x11C 16, f 0x120 0
    , f 0x120 8, f 0x120 16, f 0x124 0]
  else if isConversion st then
    [f 0x130 0, f 0x130 8, f 0x130 16, f 0x134 0, f 0x134 8, f 0x134 16, f 0x134 24, f 0x138 0, f 0x138 8, f 0x138 16]
  else [f 0x110 0, f 0x110 8, f 0x110 16, f 0x12C 8]).filter (· < 96)

/-- Whether a stage page or an enabled sequence names an input (R288). -/
def State.ainNamed (s : State) (ain : Nat) : Bool :=
  ((List.range 10).any fun st => (s.stageAins st).contains ain) || allSeqs.any fun q => s.seqOn q && (s.seqEntries q).contains ain

/-- The automatic checks of a converter in their round: each position, and its pin where AUTO_OPEN includes it (R288). -/
def State.autoChecks (s : State) (n : Nat) : List (Nat × Bool) :=
  ((List.range 32).filter fun p => s.ainNamed (positionAin n p)).flatMap fun p =>
    if s.rdB pgTDAC Reg.TDAC.CFG_AUTO_OPEN then [(32 * n + p, false), (32 * n + p, true)] else [(32 * n + p, false)]

/-- A check as a number: its place in the round of its converter. -/
def checkKey (c : Nat × Bool) : Nat := 2 * c.1 + bit c.2

/-- TDAC_AUTO_CHECK: the interval of converter `n` has passed, and the next check of its round waits (R288). -/
def State.tdacAuto (s : State) (n : Nat) : State :=
  let rate := clampNat 10 10000 (s.rd pgTDAC Reg.TDAC.RATE_US)
  let checks := s.autoChecks n
  let last := tabGet (fun _ => 0) s.tdac.last n
  match (checks.find? fun c => last < checkKey c).orElse fun _ => checks.head? with
  | none => s
  | some c =>
    if s.rdB pgTDAC Reg.TDAC.CFG_AUTO_EN ∧ s.passed (tabGet (fun _ => 0) s.tdac.autoAt n) (usTicks rate) then
      { s with tdac := { s.tdac with
        auto := s.tdac.auto ++ [c], last := tabPut (fun _ => 0) s.tdac.last n (checkKey c)
        autoAt := tabPut (fun _ => 0) s.tdac.autoAt n s.now } }
    else s

/-- Writes TDAC.RES (R305). -/
def State.tdacResult (s : State) (pos : Nat) (pin : Bool) (result : Nat) : State :=
  ((s.wr pgTDAC Reg.TDAC.RES_RESULT result).wr pgTDAC Reg.TDAC.RES_POS pos).wrB pgTDAC Reg.TDAC.RES_TYPE pin

/-- TDAC_REQUEST: a check waits for the next idle slot of its converter (R288). A position above 191 has no effect. -/
def State.tdacRequest (s : State) (pos : Nat) (pin : Bool) : State :=
  if pos < 192 then
    ({ s with tdac := { s.tdac with requested := s.tdac.requested ++ [(pos, pin)] } }).tdacResult pos pin 3
  else s

/-- A position, or an input at its pin, fails after FAIL_N failed checks in a row (R288). -/
def State.tdacFails (s : State) (pos : Nat) (pin : Bool) : State :=
  let n := pos / 32
  let p := pos % 32
  let ain := positionAin n p
  if pin then { s with tdac := { s.tdac with pins := insertNat ain s.tdac.pins } }.failInput ain
  else if s.posFailed n p then s
  else
    let s := (s.orBits (pgSA n) Reg.SA.POS_FAIL_POS (2 ^ p)).reportTp .u 0x64 (pgSA n)
    if s.posFailed (ain / 16) (ain % 16) ∧ s.posFailed (secondary (ain / 16)) (16 + ain % 16) then s.failInput ain else s

/-- The DAC level of a position's next check: it cycles (R287). -/
def tdacLevel (i : Nat) : Nat := if i % 3 = 0 then 0x040 else if i % 3 = 1 then 0x200 else 0x3C0

/-- Whether a check passes: one code against the level, or two against each other (R287). -/
def State.tdacPasses (s : State) (pos : Nat) (pin : Bool) (code low : Nat) : Bool :=
  let apart (a b : Nat) : Nat := (a - b) + (b - a)
  if pin then decide (apart code low ≤ 16 * s.rd pgTDAC Reg.TDAC.CFG_OPEN_LIM)
  else decide (apart code (16 * tdacLevel (tabGet (fun _ => 0) s.tdac.level pos) + 8) ≤ s.rd pgTDAC Reg.TDAC.CFG_CONV_TOL)

/-- TDAC_CHECK_COMPLETE: the next check of converter `n` has ended in an idle slot with its last code, and for a pin check
the code at DAC 0x000 too (R287, R288). -/
def State.tdacComplete (s : State) (n code low : Nat) : State :=
  let mine (c : Nat × Bool) : Bool := c.1 / 32 == n
  match (s.tdac.requested.find? mine).orElse fun _ => s.tdac.auto.find? mine with
  | none => s
  | some (pos, pin) =>
    let c := s.conv n
    let slots := (if pin then 2 else 1) * (s.acqTicks n + 32)
    if ¬ (c.free ∧ c.inj.isNone ∧ s.inService (pdSA n) ∧ s.passed c.idleAt slots) then s
    else
      let pass := s.tdacPasses pos pin (code % 2 ^ 14) (low % 2 ^ 14)
      let s := { s with tdac := { s.tdac with
        requested := if s.tdac.requested.any mine then s.tdac.requested.erase (pos, pin) else s.tdac.requested
        auto := if s.tdac.requested.any mine then s.tdac.auto else s.tdac.auto.erase (pos, pin) } }
      let key := checkKey (pos, pin)
      let fails := if pass then 0 else tabGet (fun _ => 0) s.tdac.fails key + 1
      let s := { s with tdac := { s.tdac with
        fails := tabPut (fun _ => 0) s.tdac.fails key fails
        level := if pin then s.tdac.level
          else tabPut (fun _ => 0) s.tdac.level pos ((tabGet (fun _ => 0) s.tdac.level pos + 1) % 3) } }
      let s := ((s.tdacResult pos pin (if pass then 1 else 2)).wr pgTDAC Reg.TDAC.RES_CODE code).wrB pgTDAC Reg.TDAC.RES_VALID true
      if pass then s
      else
        let s := s.count pgTDAC Reg.TDAC.FAIL_CNT_COUNT
        if max 1 (s.rd pgTDAC Reg.TDAC.CFG_FAIL_N) ≤ fails then s.tdacFails pos pin else s

/-- A converter has passed its self-test: its failure marks clear, but for inputs that failed at their pin or whose other
position has failed (R288). -/
def State.converterTested (s : State) (n : Nat) : State :=
  let s := s.wr (pgSA n) Reg.SA.POS_FAIL_POS 0
  let s := { s with tdac := { s.tdac with fails := s.tdac.fails.filter fun e => e.1 / 64 ≠ n } }
  let s := s.each ((List.range 32).map (positionAin n)) fun s a =>
    if s.tdac.pins.contains a then s
    else s.wr (pgSA (a / 16)) ⟨Reg.SA.IN_FAIL_IN.off, a % 16, 1⟩ 0
  s.showConv n

/-- Whether nothing of a draining converter is left on it: no injected conversion, and its sequences have moved (R286). -/
def State.converterEmpty (s : State) (n : Nat) : Bool :=
  let c := s.conv n
  c.free && c.inj.isNone && (allSeqs.all fun q => !s.seqOn q || s.seqOnNow q != n)

end Sys2Proof.Machine
end

