-- ==== Sys2Proof/Machine/Sensing.lean ====
section
/-! DEFINITION. Sigma-delta inputs, resolvers and the encoder (R289 to R299, R534). -/

namespace Sys2Proof.Machine

/-- Handles of R99. -/
abbrev sdHandle (ch : Nat) : Nat := 0x1100 + ch
abbrev rdAngleHandle (n : Nat) : Nat := 0x1200 + n
abbrev rdSpeedHandle (n : Nat) : Nat := 0x1210 + n
abbrev encAngleHandle : Nat := 0x1220
abbrev encSpeedHandle : Nat := 0x1221
abbrev encCountHandle : Nat := 0x1222

/-- Whether a sigma-delta channel runs: EN with its clock enabled (R289). -/
def State.sdOn (s : State) (ch : Nat) : Bool :=
  s.rdB pgSD (Reg.SD.CFG_EN ch)
    && s.rdB pgSD (if s.rdB pgSD (Reg.SD.CFG_CLK ch) then Reg.SD.CLK_CLK1_EN else Reg.SD.CLK_CLK0_EN)

/-- Decimation of a channel: 16 to 256 modulator clocks (R290, R302). -/
def State.sdOsr (s : State) (ch : Nat) : Nat := clampNat 16 256 (s.rd pgSD (Reg.SD.CFG_OSR ch))

/-- Whether an output instant of a channel may fall on the present tick: on an edge of its modulator clock, in the phase that
SYNC gives it, and once a restarted decimator has been filled (R289, R290, R534). -/
def State.sdInstant (s : State) (ch : Nat) : Bool :=
  let step := 16 * s.sdOsr ch
  let t := (s.stage (s.rd pgSD (Reg.SD.CFG_STAGE ch))).a
  let first := multipleAtOrAfter 16 ((t.start + 19) / 20)
  s.now % 16 == 0 && s.passed (tabGet (fun _ => 0) s.sdFrom ch) step
    && (!s.rdB pgSD (Reg.SD.CFG_SYNC ch) || !t.started || (s.now + step - first % step) % step == 0)

/-- SD_DECIMATOR_OUTPUT with the bit density `v`, from −1 to +1: the scaled value is delivered with its stamp, and the warning
level checked (R290, R293). A stuck channel delivers no sample (R291). -/
def State.sdOutput (s : State) (ch : Nat) (v : Word) : State :=
  if ¬ (s.sdOn ch ∧ s.sdInstant ch) ∨ bitOf (s.rd pgSD Reg.SD.STUCK_CH) ch then s
  else
    let out := (fpFma (s.word pgSD (Reg.SD.GAIN_GAIN ch).off) v (s.word pgSD (Reg.SD.OFFS_OFFSET ch).off) false).w
    let s := s.setSample (sdHandle ch)
      { s.sample (sdHandle ch) with valid := true, value := out, stamp := s.now - 24 * (s.sdOsr ch - 1), prd := false, skp := false }
    let exceeds := decide ((s.rd pgSD (Reg.SD.WARN_WARN ch) * 2 ^ 64 : Nat) ≤ 32768 * fpFixed (fpAbs v))
    let act := bitOf (s.rd pgSD Reg.SD.WARN_ACT_CH) ch
    let s := s.wr pgSD Reg.SD.WARN_ACT_CH (withBit (s.rd pgSD Reg.SD.WARN_ACT_CH) ch exceeds)
    if exceeds ∧ ¬ act then s.reportTp .c 0x6A pgSD ch else s

/-- SD_STUCK: one level for 256 clocks. A stuck bitstream is full scale on the fast path, so it trips too (R291). -/
def State.sdStuck (s : State) (ch : Nat) : State :=
  if s.sdOn ch ∧ ¬ bitOf (s.rd pgSD Reg.SD.STUCK_CH) ch then
    let s := (s.orBits pgSD Reg.SD.STUCK_CH (2 ^ ch)).setSample (sdHandle ch) { s.sample (sdHandle ch) with valid := false }
    (s.reportTp .u 0x67 pgSD ch).fastDetection ch true
  else s

/-- An angle in 2^-64 rad reduced to 0 to 2π, in binary32 (R295, R297). -/
def angleWord (f : Int) : Word := fpOfFixed (f % (2 * fixPi))

def State.resolver (s : State) (n : Nat) : Resolver := tabGet (fun _ => {}) s.resolvers n
def State.setResolver (s : State) (n : Nat) (r : Resolver) : State := { s with resolvers := tabPut (fun _ => {}) s.resolvers n r }

/-- One health flag of a resolver: set after 4 consecutive instants with its condition, cleared after 64 without (R296). -/
def State.rdFlag (s : State) (n : Nat) (f : Field) (code bad good : Nat) : State :=
  if s.rdB (pgRD n) f then (if 64 ≤ good then s.wrB (pgRD n) f false else s)
  else if 4 ≤ bad then (s.wrB (pgRD n) f true).reportTp .u code (pgRD n)
  else s

/-- LOCKED: neither flag, the channel enabled, and 64 instants without loss since a restart (R296, R534). -/
def State.rdLocked (s : State) (n : Nat) : State :=
  s.wrB (pgRD n) Reg.RD.HEALTH_LOCKED (s.rdB (pgRD n) Reg.RD.CFG_EN && !s.rdB (pgRD n) Reg.RD.HEALTH_LOS
    && !s.rdB (pgRD n) Reg.RD.HEALTH_LOT && (s.resolver n).wait == 0)

/-- Delivers angle and speed of a resolver (R295): under loss of signal with PRD and SKP (R296). -/
def State.rdDeliver (s : State) (n : Nat) : State :=
  let los := s.rdB (pgRD n) Reg.RD.HEALTH_LOS
  let give (s : State) (h : Nat) (w : Word) : State :=
    s.setSample h { s.sample h with valid := true, value := w, stamp := s.now, prd := los, skp := los }
  let angle := angleWord (s.rd (pgRD n) Reg.RD.ANGLE_ANGLE * (2 * fixPi) / 65536
    - fpFixed (s.word (pgRD n) Reg.RD.OFFSET_RAD.off))
  give (give s (rdAngleHandle n) angle) (rdSpeedHandle n) (s.word (pgRD n) Reg.RD.SPEED_RAD_S.off)

/-- RESOLVER_DEMODULATION: the tracking loop's angle and velocity, the carrier delay, the amplitude and the tracking error in
0.1° at one demodulation instant (R294 to R296). Under loss of signal the velocity is held. -/
def State.rdDemodulate (s : State) (n angle : Nat) (speed : Word) (phase : Nat) (amp err : Word) : State :=
  let p := pgRD n
  if ¬ s.rdB p Reg.RD.CFG_EN then s
  else
    let r := s.resolver n
    let pct (w : Nat) : Int := (w : Int) * 2 ^ 64
    let los := !fpIsNaN amp && (decide (100 * fpFixed amp < pct (s.rd p Reg.RD.LOS_AMP_MIN))
      || decide (pct (s.rd p Reg.RD.LOS_AMP_MAX) < 100 * fpFixed amp))
    let lot := fpLt (fpOfInt (s.rd p Reg.RD.TRK_TRK_LIM)) err
    let r : Resolver := {
      losN := if los then min 4 (r.losN + 1) else 0, losOk := if los then 0 else min 64 (r.losOk + 1)
      lotN := if lot then min 4 (r.lotN + 1) else 0, lotOk := if lot then 0 else min 64 (r.lotOk + 1)
      wait := if los then (if r.wait = 0 then 0 else 64) else r.wait - 1 }
    let s := s.setResolver n r
    let s := s.rdFlag n Reg.RD.HEALTH_LOS 0x6B r.losN r.losOk
    let s := s.rdFlag n Reg.RD.HEALTH_LOT 0x6C r.lotN r.lotOk
    let s := (s.wr p Reg.RD.ANGLE_ANGLE angle).wr p Reg.RD.PHASE_TICKS phase
    let s := s.setWord p Reg.RD.AMP_A.off amp
    let s := if s.rdB p Reg.RD.HEALTH_LOS then s else s.setWord p Reg.RD.SPEED_RAD_S.off speed
    (s.rdLocked n).rdDeliver n

/-- A resolver restarts from its present angle (R534). -/
def State.rdRestart (s : State) (n : Nat) : State :=
  (s.setResolver n { s.resolver n with wait := 64 }).wrB (pgRD n) Reg.RD.HEALTH_LOCKED false

/-- Four counts per line (R297). -/
def State.encCounts (s : State) : Nat := 4 * max 1 (s.rd pgENC Reg.ENC.LINES_LINES)

/-- Delivers angle and count of the encoder, stamped at the last edge (R297). -/
def State.encDeliver (s : State) (stamp : Nat) : State :=
  let count := s.word pgENC Reg.ENC.COUNT_COUNT.off
  let zero := if s.rdB pgENC Reg.ENC.ESTAT_INDEX_SEEN then s.word pgENC Reg.ENC.IDX_CNT_COUNT.off else s.enc.base
  let pos : Int := (count.toInt - zero.toInt) % s.encCounts
  let angle := angleWord (2 * fixPi * pos / s.encCounts + fpFixed (s.word pgENC Reg.ENC.OFFSET_RAD.off))
  let give (s : State) (h : Nat) (w : Word) : State :=
    s.setSample h { s.sample h with valid := true, value := w, stamp := stamp, prd := false, skp := false }
  give (give s encAngleHandle angle) encCountHandle count

/-- The speed at an edge: counts over time since the latest earlier edge at least WIN µs old, or the oldest kept (R298). -/
def State.encSpeed (s : State) (t : Nat) (c : Word) : Word :=
  let old := s.enc.edges.find? fun e => usTicks (s.rd pgENC Reg.ENC.SPD_WIN) ≤ t - e.1
  match old.orElse fun _ => s.enc.edges.getLast? with
  | none => 0
  | some (tj, cj) =>
    let dt := t - tj
    if dt = 0 then 0
    else fpOfFixed (2 * fixPi * 320000000 * (c - cj).toInt / ((s.encCounts * dt : Nat) : Int))

/-- One quadrature step (R297): ENC_A leading ENC_B counts up, INV reverses. -/
def State.encStep (s : State) (up : Bool) (t : Nat) : State :=
  let up := up != s.rdB pgENC Reg.ENC.CFG_INV
  let c := s.word pgENC Reg.ENC.COUNT_COUNT.off + (if up then 1 else -1)
  let speed := s.encSpeed t c
  let s := (s.setWord pgENC Reg.ENC.COUNT_COUNT.off c).wrB pgENC Reg.ENC.ESTAT_DIR (!up)
  let s := { s with enc := { s.enc with edges := (((t, c) :: s.enc.edges).take 256) } }
  (s.setSample encSpeedHandle { s.sample encSpeedHandle with valid := true, value := speed, stamp := t, prd := false, skp := false })

/-- A change of both lines at one instant (R299). -/
def State.encInvalid (s : State) : State :=
  let first := !s.rdB pgENC Reg.ENC.ESTAT_INVALID
  let s := (s.wrB pgENC Reg.ENC.ESTAT_INVALID true).count pgENC Reg.ENC.INV_CNT_COUNT
  if first then s.reportTp .u 0x6E pgENC else s

/-- ENCODER_EDGE: the filtered levels of ENC_A, ENC_B and ENC_Z after a change; the filter delay is subtracted from the stamp
(R297 to R299). -/
def State.encoderEdge (s : State) (a b z : Bool) : State :=
  let e := s.enc
  let s := { s with enc := { e with a := a, b := b, z := z } }
  if ¬ s.rdB pgENC Reg.ENC.CFG_EN then s
  else
    let t := s.now - s.rd pgENC Reg.ENC.CFG_FILT
    let s := if a ≠ e.a ∧ b ≠ e.b then s.encInvalid
      -- A leads: a rise of A while B is low, a fall while it is high; B follows
      else if a ≠ e.a then s.encStep (a != b) t
      else if b ≠ e.b then s.encStep (a == b) t
      else s
    let s := if z ∧ ¬ e.z ∧ s.rdB pgENC Reg.ENC.CFG_Z_EN then
        (s.setWord pgENC Reg.ENC.IDX_CNT_COUNT.off (s.word pgENC Reg.ENC.COUNT_COUNT.off)).wrB pgENC Reg.ENC.ESTAT_INDEX_SEEN true
      else s
    s.encDeliver t

/-- ENCODER_ZERO_SPEED: ZERO_MS without an edge (R298). -/
def State.encoderZero (s : State) : State := match s.enc.edges with
  | (t, _) :: _ =>
    if s.passed t (msTicks (s.rd pgENC Reg.ENC.SPD_ZERO_MS)) then
      s.setSample encSpeedHandle { s.sample encSpeedHandle with value := 0 }
    else s
  | [] => s

/-- ENC.CFG.EN changes: written 0 it clears INDEX_SEEN and INVALID; enabled, counting starts from the present count (R297,
R299, R534). -/
def State.encEnable (s : State) (on : Bool) : State :=
  if on then { s with enc := { s.enc with base := s.word pgENC Reg.ENC.COUNT_COUNT.off, edges := [] } }
  else
    ((s.wrB pgENC Reg.ENC.ESTAT_INDEX_SEEN false).wrB pgENC Reg.ENC.ESTAT_INVALID false)

end Sys2Proof.Machine
end

