-- ==== Sys2Proof/Machine/Supervisor.lean ====
section
/-! DEFINITION. The supervisor: voting, the minority core, digests, the agreement port, lockstep recovery, the heartbeat, the
plausibility checks and the customer hooks (R307 to R322, R329, R330). What an issued write or an agreed read does to its
target is in Bus.lean. -/

namespace Sys2Proof.Machine

/-- SUP.STAT.MODE, equal to status-word SUP_MODE (R12, R503). -/
def State.supMode (s : State) : Nat := s.rd pgSUP Reg.SUP.STAT_MODE

/-- Whether the supervisor is out in the sense of R313, to which the Break policy does not lead (R321). -/
def State.supOut (s : State) : Bool := s.supMode == 3 && !s.broke

/-- Whether writes of the supervisor count (R319), and Trellis and commits are evaluated (R313, R318). -/
def State.supRuns (s : State) : Bool := !s.supOut && s.sup.recovery.isNone

/-- Changes the supervisor's part of the state. -/
def State.setSup (s : State) (f : Supervisor → Supervisor) : State := { s with sup := f s.sup }

/-- The supervisor is out: SUP_MODE 3, STO, and the pins of channels with source selection 2 (R252, R313). -/
def State.goOut (s : State) : State :=
  let s := s.wr pgSUP Reg.SUP.STAT_MODE 3
  let s := s.setSup fun u => { u with voting := [], queue := [], history := [], access := [], digests := [], resync := [] }
  (s.openSto 4).pinSourceSwitch

/-- The supervisor goes out with class F fault `code` (R312, R313). -/
def State.supervisorOut (s : State) (code : Nat) (inj : Bool := false) : State := (s.reportFab .f code pgSUP 0 inj).goOut

/-- A core leaves voting: what it has presented is discarded (R310, R33). -/
def State.dropCore (s : State) (c : Nat) : State := s.setSup fun u => { u with
  voting := u.voting.filter (· ≠ c)
  queue := u.queue.filter (·.core ≠ c)
  history := []
  access := u.access.filter (·.core ≠ c)
  digests := u.digests.filter (·.core ≠ c) }

/-- How often core `c` has become the minority within the last second, this time included (R311). -/
def State.minorityCount (s : State) (c : Nat) : Nat :=
  (s.sup.minorAt.filter fun e => e.1 == c && decide (ticksSince e.2 s.now ≤ 320000000)).length

/-- A core of three becomes the minority: cause 1 write mismatch, 2 lag, 3 agreement mismatch, 4 stall, 0 digest. It is
masked, and tested unless it has come to this too often (R309 to R311). In duplex the supervisor goes out (R312); `code` is
the fault of that. -/
def State.minority (s : State) (c cause : Nat) (code : Nat := 0x83) (inj : Bool := false) : State :=
  if ¬ s.sup.voting.contains c then s
  else if s.sup.voting.length < 3 then s.supervisorOut code inj
  else
    let s := (s.dropCore c).count pgSUP Reg.SUP.MINOR_CNT_COUNT
    let s := (s.wr pgSUP Reg.SUP.STAT_MINORITY c).wr pgSUP Reg.SUP.STAT_MODE 1
    let s := if cause = 0 then s.reportFab .c 0x81 pgSUP c else s.reportFab .c 0x80 pgSUP (c * 16 + cause) inj
    let s := s.setSup fun u => { u with minorAt := (u.minorAt ++ [(c, s.now)]).filter fun e => ticksSince e.2 s.now ≤ 320000000 }
    if max 1 (s.rd pgSUP Reg.SUP.VOTE_RETRY_LIM) ≤ s.minorityCount c then
      (s.failPolder (pdCore c)).reportFab .u 0x87 pgSUP c
    else s.startTest (pdCore c)

/-- The entry of a core's write at a number. -/
def Supervisor.entryAt (u : Supervisor) (c n : Nat) : Option Presented := u.queue.find? fun e => e.core == c && e.num == n

/-- A write of the next number is issued: it leaves the queues of the cores that agree; where the third has not presented its
own yet it is kept for comparison (R308). -/
def State.issueNext (s : State) (w : CoreWrite) (agree : List Nat) (pendingThird : Bool) : State := s.setSup fun u => { u with
  issued := u.issued + 1
  queue := u.queue.filter fun e => !(e.num == u.issued && agree.contains e.core)
  history := if pendingThird then u.history ++ [⟨0, u.issued, w, s.now, false⟩] else u.history }

/-- Issues what a majority has presented, in program order; the writes issued, first to last (R308, R309, R312). -/
def State.issueMatched (s : State) : Nat → List CoreWrite × State
  | 0 => ([], s)
  | fuel + 1 =>
    let n := s.sup.issued
    let es := s.sup.voting.filterMap fun c => s.sup.entryAt c n
    let same (a b : Presented) : Bool := a.w == b.w
    let need := s.sup.voting.length
    match es with
    | [a, b] =>
      if same a b then
        let r := (s.issueNext a.w [a.core, b.core] (need == 3)).issueMatched fuel
        (a.w :: r.1, r.2)
      else if need = 2 then ([], s.supervisorOut 0x83 (a.inj || b.inj))
      else ([], s)
    | [a, b, c] =>
      let pair := if same a b then some (a, c) else if same a c then some (a, b) else if same b c then some (b, a) else none
      match pair with
      | some (x, odd) =>
        let s := s.issueNext x.w [a.core, b.core, c.core] false
        let s := if same x odd then s else s.minority odd.core 1 0x83 odd.inj
        let r := s.issueMatched fuel
        (x.w :: r.1, r.2)
      | none => ([], s.supervisorOut 0x83 (a.inj || b.inj || c.inj))
    | _ => ([], s)

/-- LOCKSTEP_MISMATCH: both cores stop and test themselves, and the Dike starts the recovery timer (R318). -/
def State.lockstepMismatch (s : State) (inj : Bool := false) : State :=
  if ¬ s.compat ∨ s.supMode ≠ 2 ∨ s.sup.recovery.isSome then s
  else
    let s := (s.setSup fun u => { u with recovery := some s.now }).wrB pgSUP Reg.SUP.STAT_RECOVERY true
    let s := { s with wd := { s.wd with suspended := true } }
    ((s.reportFab .u 0x84 pgSUP 0 inj).startTest (pdCore 0)).startTest (pdCore 1)

/-- Whether an injection awaits the next write of a core, and the injection as used up (R379). -/
def State.takeInversion (s : State) (c : Nat) : Bool × State :=
  (s.sup.invert.contains c, s.setSup fun u => { u with invert := u.invert.filter (· ≠ c) })

/-- The write as an injection leaves it: bit 0 of its data inverted (R379). -/
def CoreWrite.inverted (w : CoreWrite) (on : Bool) : CoreWrite := if on then { w with data := w.data ^^^ 1 } else w

/-- An outgoing write of S0 where no voter compares it: in compat mode one that S1 does not confirm is a lockstep mismatch and is
not issued (R317, R318, R319, R321, R379). -/
def State.soleWrite (s : State) (w : CoreWrite) : List CoreWrite × State :=
  if ¬ s.supRuns ∨ s.sup.halted then ([], s)
  else
    let a := s.takeInversion 0
    if s.compat then
      let b := a.2.takeInversion 1
      if a.1 != b.1 then ([], b.2.lockstepMismatch true) else ([w.inverted a.1], b.2)
    else ([w.inverted a.1], a.2)

/-- VOTED_WRITE: core `c` presents an outgoing write; the writes that are issued with it (R308, R312, R317, R319, R321). A
core whose queue of 32 is full waits. -/
def State.presentWrite (s : State) (c : Nat) (w : CoreWrite) : List CoreWrite × State :=
  if s.compat ∨ s.broke then (if c = 0 then s.soleWrite w else ([], s))
  else if ¬ s.sup.voting.contains c ∨ 32 ≤ (s.sup.queue.filter (·.core == c)).length then ([], s)
  else
    let r := s.takeInversion c
    let w := w.inverted r.1
    let n := r.2.sup.sent.getD c 0
    let s := r.2.setSup fun u => { u with sent := putAt u.sent c (n + 1) }
    if n < s.sup.issued then
      match s.sup.history.find? (·.num == n) with
      | some h =>
        let s := s.setSup fun u => { u with history := u.history.filter (·.num ≠ n) }
        if h.w = w then ([], s) else (s.minority c 1 0x83 r.1).issueMatched 64
      | none => ([], s)
    else (s.setSup fun u => { u with queue := u.queue ++ [⟨c, n, w, s.now, r.1⟩] }).issueMatched 64

/-- SUP.LAG_LIM in ticks (R309, R503). -/
def State.lagLimit (s : State) : Nat := usTicks (clampNat 5 200 (s.rd pgSUP Reg.SUP.VOTE_LAG_LIM))

/-- Whether every voting core but `c` presented something at least LAG_LIM ago that `c` has not: stamps of theirs, none where
one is missing (R309). -/
def State.lagged (s : State) (stamps : List (Option Nat)) : Bool :=
  !stamps.isEmpty && stamps.all fun t => t.any fun t => s.passed t s.lagLimit

/-- The instants at which the other voting cores presented the write that core `c` owes. -/
def State.writeStamps (s : State) (c : Nat) : List (Option Nat) :=
  let n := s.sup.sent.getD c 0
  match s.sup.history.find? (·.num == n) with
  | some h => [some h.stamp]
  | none => (s.sup.voting.filter (· ≠ c)).map fun d => (s.sup.entryAt d n).map (·.stamp)

/-- The instants of the other voting cores' pending agreement accesses, and of their digests, that core `c` owes. -/
def State.accessStamps (s : State) (c : Nat) : List (Option Nat) :=
  if s.sup.access.any (·.core == c) then [] else (s.sup.voting.filter (· ≠ c)).map fun d =>
    (s.sup.access.find? (·.core == d)).map (·.stamp)
def State.digestStamps (s : State) (c : Nat) : List (Option Nat) :=
  if s.sup.digests.any (·.core == c) then [] else (s.sup.voting.filter (· ≠ c)).map fun d =>
    (s.sup.digests.find? (·.core == d)).map (·.stamp)

/-- What an agreed access answers: the address, and the pin samples of the cores that take part. -/
structure Agreed where
  addr : Nat
  samples : List Word
deriving DecidableEq, Repr

/-- The agreement access is complete once every voting core has issued the same one; a core with another address is the
minority, and the access completes for the others (R309, R315). Without two that agree there is no majority (R312). -/
def State.agreeAccess (s : State) : Option Agreed × State :=
  let as := s.sup.access
  if as.length < s.sup.voting.length ∨ as.isEmpty then (none, s)
  else
    let votes (a : AgrAccess) : Nat := (as.filter (·.addr == a.addr)).length
    match as.find? fun a => decide (2 ≤ votes a) with
    | none => (none, s.supervisorOut 0x83)
    | some a =>
      let samples := (as.filter (·.addr == a.addr)).map (·.sample)
      let s := s.setSup fun u => { u with access := [] }
      (some ⟨a.addr, samples⟩, s.each (as.filter (·.addr != a.addr)) fun s x => s.minority x.core 3)

/-- AGREEMENT_ACCESS: core `c` issues an access to the agreement port with its own sample of the pins; the agreed access
where it completes (R315, R317, R321). -/
def State.agreementIssue (s : State) (c addr : Nat) (sample : Word) : Option Agreed × State :=
  if s.compat ∨ s.broke then (if c = 0 ∧ s.supRuns then some ⟨addr, [sample]⟩ else none, s)
  else if ¬ s.sup.voting.contains c ∨ s.sup.access.any (·.core == c) then (none, s)
  else (s.setSup fun u => { u with access := u.access ++ [⟨c, addr, sample, s.now⟩] }).agreeAccess

/-- VOTE_LAG_TIMEOUT of core `c`: it owes a write, an access or a digest for LAG_LIM; what the others agree on then goes on
without it (R309, R312, R315, R320). -/
def State.lagTimeout (s : State) (c : Nat) : Option Agreed × List CoreWrite × State :=
  if s.sup.halted ∨ ¬ s.sup.voting.contains c then (none, [], s)
  else if s.lagged (s.writeStamps c) ∨ s.lagged (s.accessStamps c) ∨ s.lagged (s.digestStamps c) then
    let s := s.minority c 2
    let a := s.agreeAccess
    let w := a.2.issueMatched 64
    (a.1, w.1, w.2)
  else (none, [], s)

/-- The digests of the voting cores are compared once all are there (R312, R314). -/
def State.compareDigests (s : State) : State :=
  let ds := s.sup.digests
  if ds.length < s.sup.voting.length ∨ ds.isEmpty then s
  else
    let votes (d : Digest) : Nat := (ds.filter (·.value == d.value)).length
    let s := s.setSup fun u => { u with digests := [] }
    match ds.find? fun d => decide (2 ≤ votes d) with
    | none => s.supervisorOut 0x83
    | some d => s.each (ds.filter (·.value != d.value)) fun s x => s.minority x.core 0

/-- STATE_DIGEST: core `c` has computed its digest of the present 1 ms point (R314). There is none in compat mode (R317). -/
def State.stateDigest (s : State) (c : Nat) (value : BitVec 64) : State :=
  if s.compat ∨ ¬ s.sup.voting.contains c ∨ s.sup.digests.any (·.core == c) then s
  else (s.setSup fun u => { u with digests := u.digests ++ [⟨c, value, s.now⟩] }).compareDigests

/-- A supervisor core in native mode is back in service: it resynchronises (R40, R310 step 3). -/
def State.startResync (s : State) (c : Nat) : State :=
  if s.compat ∨ s.sup.voting.contains c then s else s.setSup fun u => { u with resync := insertNat c u.resync }

/-- RESYNC_COMPLETE: the core has the majority's private memory and rejoins voting (R310 steps 4 to 6). The pair stands at one
instruction then, with nothing left to issue. -/
def State.resyncComplete (s : State) (c : Nat) : State := match s.sup.voting with
  | [a, b] =>
    if s.sup.resync.contains c ∧ s.sup.queue.isEmpty then
      let s := s.copyMem (spmBase c) (spmBase a) 0x80000
      let s := s.setSup fun u => { u with
        voting := insertNat c (insertNat a [b]), resync := u.resync.filter (· ≠ c)
        sent := [u.issued, u.issued, u.issued], history := [], access := [], digests := [] }
      let s := (s.wr pgSUP Reg.SUP.STAT_MODE 0).wr pgSUP Reg.SUP.STAT_MINORITY 3
      let s := (s.wrB pgSUP Reg.SUP.STAT_DEGRADED false).wrStamp pgSUP Reg.SUP.RESYNC_AT_L_STAMP Reg.SUP.RESYNC_AT_H_STAMP s.now
      (s.setBusy (pdCore c) true).reportFab .c 0x82 pgSUP c
    else s
  | _ => s

/-- A lockstep recovery fails (R313, R318 step 4). -/
def State.recoveryFailed (s : State) : State :=
  if s.sup.recovery.isNone then s
  else ((s.setSup fun u => { u with recovery := none }).wrB pgSUP Reg.SUP.STAT_RECOVERY false).supervisorOut 0x85

/-- LOCKSTEP_RECOVERY_TIMEOUT: 2.42 ms on the Dike's RC clock have passed (R318). -/
def State.recoveryTimeout (s : State) : State := match s.sup.recovery with
  | some t => if s.passedRc t 774400 then s.recoveryFailed else s
  | none => s

/-- A valid heartbeat (R322). -/
def State.heartbeat (s : State) (seq : Nat) : State :=
  let s := (s.wr pgDIKE Reg.DIKE.HB_SEQ seq).wrStamp pgDIKE Reg.DIKE.HB_AT_L_STAMP Reg.DIKE.HB_AT_H_STAMP s.now
  { s with wd := { s.wd with armed := true, lastAt := s.now, warn := false, lost := false, suspended := false } }

/-- Whether a value counts as a heartbeat, and the Dike does not discard heartbeats (R322, R379). -/
def State.heartbeatValid (s : State) (seq : Nat) : Bool :=
  seq % 2 ^ 16 == (s.rd pgDIKE Reg.DIKE.HB_SEQ + 1) % 2 ^ 16 && !s.wd.discard

/-- HEARTBEAT_WRITE by the supervisor (R319, R322, R500). -/
def State.heartbeatWrite (s : State) (seq : Nat) : State :=
  if s.supRuns ∧ ¬ s.sup.halted ∧ s.heartbeatValid seq then s.heartbeat seq else s

/-- LOCKSTEP_RECOVERY_COMPLETE: both cores have passed their tests and been reset together, and their first valid heartbeat
ends recovery (R318 step 3). -/
def State.recoveryComplete (s : State) (seq : Nat) : State :=
  if s.sup.recovery.isSome ∧ s.inService (pdCore 0) ∧ s.inService (pdCore 1) ∧ s.heartbeatValid seq then
    let s := (s.setSup fun u => { u with recovery := none }).wrB pgSUP Reg.SUP.STAT_RECOVERY false
    ((s.setBusy (pdCore 0) true).setBusy (pdCore 1) true).heartbeat seq
  else s

/-- HEARTBEAT_WARN (R322). -/
def State.heartbeatWarn (s : State) : State :=
  let w := s.wd
  if w.armed ∧ ¬ w.suspended ∧ ¬ w.warn ∧ ¬ w.lost ∧ s.passedRc w.lastAt (usTicks 60) then
    ({ s with wd := { w with warn := true } }).agrEvent 3
  else s

/-- HEARTBEAT_LOSS: logged, STO opens, and with AUTO_RST the reset of R373 follows (R322, R379). -/
def State.heartbeatLoss (s : State) : State :=
  let w := s.wd
  if w.armed ∧ ¬ w.suspended ∧ ¬ w.lost ∧ s.passedRc w.lastAt (usTicks 90) then
    let s := { s with wd := { w with
      lost := true, lostAt := s.now, discard := false, discardInj := false
      resetDue := w.resetDue || s.rdB pgDIKE Reg.DIKE.WD_AUTO_RST } }
    (s.reportDike .f 0x88 pgDIKE 0 w.discardInj).openSto 3
  else s

/-- Whether a customer safety-monitor hook decides on stalled application cores (R31, R330). -/
def State.hookRuns (s : State) : Bool := Config.hookInstalled && !s.sup.hookOff

/-- An application core has stalled or its watchdog has expired: without a hook the supervisor commands safe stop on every
traction stage that is not Off (R31, R371). -/
def State.appStalled (s : State) : State :=
  if s.hookRuns ∨ ¬ s.supRuns then s
  else s.each [0, 1] fun s st => if s.stageOff st then s else s.safeStopDemand st

/-- HOOK_TIME_LIMIT: a hook over its limit is ended and disabled until reset (R330). -/
def State.hookLimit (s : State) : State :=
  if s.sup.hookOff then s else (s.setSup fun u => { u with hookOff := true }).reportFab .u 0x91 pgSAF

/-- How many failures in a row a plausibility check needs (R329). -/
def plausNeeds (check : Nat) : Nat := if check = 3 ∨ check = 5 then 1 else if check = 6 then 3 else 5

/-- The stages a plausibility check judges (R329). -/
def plausStage (check st : Nat) : Bool :=
  if check = 3 then st < 10 else if check = 5 then st == 2 else isTraction st

/-- The reaction to a failed check: 0 report only, 1 safe stop, 2 STO; stages other than traction take 1 as 2 (R329). -/
def State.plausReact (s : State) (check st : Nat) : State :=
  let r := bitsAt (s.word pgSAF Reg.SAF.PLAUS_REACT_REACT.off) (2 * (check - 1)) 2
  if r = 0 then s
  else if r = 1 ∧ isTraction st then s.safeStopDemand st
  else if r = 1 ∨ r = 2 then s.openSto 6
  else s

/-- One comparison of a plausibility check on a stage: `bad` says that it fails now (R329). -/
def State.plausOne (s : State) (st check : Nat) (bad : Bool) : State :=
  if ¬ plausStage check st then s
  else
    let key := 16 * check + st
    let n := if bad then tabGet (fun _ => 0) s.sup.plaus key + 1 else 0
    let fails := plausNeeds check ≤ n
    let s := s.setSup fun u => { u with plaus := tabPut (fun _ => 0) u.plaus key (if fails then 0 else n) }
    if fails then (s.reportFab .u 0x90 pgSAF key).plausReact check st else s

/-- PLAUSIBILITY_CHECK of a stage outside Off: bit k − 1 of `bad` says that the comparison of check k fails (R329). -/
def State.plausibility (s : State) (st bad : Nat) : State :=
  if s.stageOff st ∨ ¬ s.supRuns then s
  else s.each [1, 2, 3, 4, 5, 6] fun s k => s.plausOne st k (bitOf bad (k - 1))

end Sys2Proof.Machine
end

