-- ==== Sys2Proof/Machine/TimePlane.lean ====
section
/-! DEFINITION. The time plane: reading the time, the reference clock and its loss and return, the Dike's tick check and the
edge interpolator (R43 to R70, R372, R566). -/

namespace Sys2Proof.Machine

/-- The ports that keep a shadow of TP_NOW's upper half (R48): 0 host, 1 agreement, 2 P0, 3 P1, 4 S2 in compat mode. -/
def State.tpShadow (s : State) (port : Nat) : Nat := tabGet (fun _ => 0) s.tp.shadows port

/-- A read of TP.NOW_L at the present instant: the low half is returned, the high half kept for the port (R48). -/
def State.readNowL (s : State) (port : Nat) : State :=
  { s with
    answer := BitVec.ofNat 32 s.now
    tp := { s.tp with shadows := tabPut (fun _ => 0) s.tp.shadows port (s.now / 2 ^ 32) } }

/-- Whether the internal reference is in use (R61). -/
def State.onInternal (s : State) : Bool := s.rdB pgTP Reg.TP.STAT_REF

/-- Whether the 320 MHz clock runs: the PLL is locked (R66, R67). -/
def State.clockRuns (s : State) : Bool := s.rdB pgTP Reg.TP.STAT_PLL_LOCK

/-- The crystal monitor declares loss: the instant is captured and switch-over starts; a return in progress ends
(R61, R64). -/
def State.crystalLost (s : State) (inj : Bool) : State :=
  let s := (s.wrStamp pgTP Reg.TP.XLOSS_AT_L_STAMP Reg.TP.XLOSS_AT_H_STAMP s.now).wrB pgTP Reg.TP.STAT_XTAL_OK false
  let s := s.wrB pgTP Reg.TP.CTL_XTAL_RET false
  { s with tp := { s.tp with switching := true, returning := false, lossAt := s.now, lossInjected := inj } }

/-- Whether the monitor can declare loss now: the part runs from the crystal or moves back to it, the internal reference
passes its check, and no switch-over is in progress (R64, R65, R566). -/
def State.lossCanBeDeclared (s : State) : Bool :=
  s.clockRuns && !s.tp.switching && (!s.onInternal || s.tp.returning) && !s.rdB pgTP Reg.TP.STAT_REF_FAIL

/-- CRYSTAL_LOSS (R61). -/
def State.crystalLoss (s : State) : State := if s.lossCanBeDeclared then s.crystalLost false else s

/-- SWITCHOVER_COMPLETE: the time plane runs from the internal reference, and the loss is counted and logged with the stamp
captured at its detection (R61). -/
def State.switchoverComplete (s : State) : State :=
  if s.tp.switching then
    let s := { s with tp := { s.tp with switching := false } }
    let s := (s.wrB pgTP Reg.TP.STAT_REF true).count pgTP Reg.TP.XLOSS_CNT_COUNT
    s.reportAs { code := 0xD4, cls := .u, page := pgTP, detail := 0, origin := .timePlane, stamp := some s.tp.lossAt
                 inj := s.tp.lossInjected }
  else s

/-- A write of 1 to TP.CTL.XTAL_RET: without a valid crystal, or with the crystal in use, it has no effect (R64). -/
def State.returnRequest (s : State) : State :=
  if s.onInternal ∧ s.rdB pgTP Reg.TP.STAT_XTAL_OK ∧ ¬ s.tp.returning ∧ ¬ s.tp.switching then
    { s.wrB pgTP Reg.TP.CTL_XTAL_RET true with tp := { s.tp with returning := true } }
  else s

/-- CRYSTAL_RETURN_COMPLETE: the move back ends; its report outlives a reset (R64, R566). -/
def State.returnComplete (s : State) : State :=
  if s.tp.returning then
    let s := { s with tp := { s.tp with returning := false } }
    let s := (s.wrB pgTP Reg.TP.STAT_REF false).wrB pgTP Reg.TP.CTL_XTAL_RET false
    s.reportAs { code := 0xD5, cls := .c, page := pgTP, detail := 0, origin := .timePlane, stamp := some s.now, keep := true }
  else s

/-- XTAL_OK_CHANGE: the monitor judges the crystal while the internal reference is in use and no return is in progress; on
the crystal it can only find it valid (R64, R65, R566, assumption 28). -/
def State.xtalOkChange (s : State) (ok : Bool) : State :=
  if s.clockRuns ∧ ¬ s.tp.returning ∧ ¬ s.tp.switching ∧ ¬ s.rdB pgTP Reg.TP.STAT_REF_FAIL ∧ (s.onInternal ∨ ok) then
    s.wrB pgTP Reg.TP.STAT_XTAL_OK ok
  else s

/-- The time plane is lost: fault 0xD6, and the Dike opens STO (R65). -/
def State.timePlaneLost (s : State) : State :=
  if s.tp.lost then s
  else ({ s with tp := { s.tp with lost := true } }.reportDike .f 0xD6 pgTP).openSto 1

/-- The RC clock has failed (R372). -/
def State.rcClockFailed (s : State) : State :=
  if s.tp.rcFailed then s
  else ({ s with tp := { s.tp with rcFailed := true } }.reportDike .f 0xE0 pgDIKE).openSto 1

/-- The check of the internal reference while the crystal is in use (R65). -/
def State.refCheck (s : State) (fails : Bool) : State :=
  if s.rdB pgTP Reg.TP.STAT_REF_FAIL then
    let n := if fails then 0 else s.tp.refPasses + 1
    let s := { s with tp := { s.tp with refPasses := n } }
    if n = 16 then s.wrB pgTP Reg.TP.STAT_REF_FAIL false else s
  else if fails then
    ({ s with tp := { s.tp with refPasses := 0 } }.wrB pgTP Reg.TP.STAT_REF_FAIL true).reportDike .u 0xDD pgTP
  else s

/-- DIKE_TICK_CHECK: whether ticks deviate from the RC clock beyond ±8 %, and whether the internal reference does
(R65, R372). -/
def State.tickCheck (s : State) (deviates refFails : Bool) : State :=
  if ¬ s.clockRuns then s
  else if s.onInternal then (if deviates then s.timePlaneLost else s)
  else
    let s := if deviates then (if s.rdB pgTP Reg.TP.STAT_REF_FAIL then s.timePlaneLost else s.rcClockFailed) else s
    s.refCheck refFails

/-- INTERPOLATOR_RECALIBRATION of a channel: out of range, its edges fall back to whole ticks until it succeeds (R46,
R70). -/
def State.recalibrate (s : State) (p : Nat) (ok : Bool) : State :=
  if ¬ channelPages.contains p then s
  else if ok then { s with tp := { s.tp with fallback := s.tp.fallback.filter (· ≠ p) } }
  else if s.tp.fallback.contains p then s
  else { s with tp := { s.tp with fallback := insertNat p s.tp.fallback } }.reportTp .c 0xD7 p

/-- Whether a CAN or Ethernet controller is stopped by the reference in use (R63). -/
def State.stoppedByReference (s : State) : Bool := s.onInternal

end Sys2Proof.Machine
end

