-- ==== Sys2Proof/Machine/Rings.lean ====
section
/-! DEFINITION. Descriptor rings in application SRAM, and the CAN controllers (R423 to R426, R507 to R510). -/

namespace Sys2Proof.Machine

/-- The ring whose registers begin at offset `o` of page `p` (R507). A SIZE below 2 acts as 1 entry: such a ring is always
empty and always full. -/
def State.ringEntries (s : State) (p o : Nat) : Nat := max 1 (bitsAt (s.word p (o + 4)) 0 16)
def State.ringUnits (s : State) (p o : Nat) : Nat := bitsAt (s.word p (o + 4)) 16 8
def State.ringHead (s : State) (p o : Nat) : Nat := bitsAt (s.word p (o + 8)) 0 10
def State.ringTail (s : State) (p o : Nat) : Nat := bitsAt (s.word p (o + 12)) 0 10
def State.ringEmpty (s : State) (p o : Nat) : Bool := s.ringHead p o == s.ringTail p o
def State.ringFull (s : State) (p o : Nat) : Bool :=
  (s.ringHead p o + 1) % s.ringEntries p o == s.ringTail p o % s.ringEntries p o

/-- The first key of entry `i` of a ring with entries of `size` bytes. -/
def State.ringEntry (s : State) (p o size i : Nat) : Nat := (s.word p o).toNat / 32 * 32 + size * i

/-- The next index of a ring. -/
def State.ringNext (s : State) (p o i : Nat) : Nat := (i + 1) % s.ringEntries p o

/-- The producer hands over entry HEAD, the consumer takes entry TAIL. -/
def State.ringPut (s : State) (p o : Nat) : State :=
  s.setWord p (o + 8) (BitVec.ofNat 32 (s.ringNext p o (s.ringHead p o)))
def State.ringTake (s : State) (p o : Nat) : State :=
  s.setWord p (o + 12) (BitVec.ofNat 32 (s.ringNext p o (s.ringTail p o)))

/-- Whether `n` bytes from key `a` lie in application SRAM. -/
def inAppSram (a n : Nat) : Bool := 0x21000000 ≤ a && a + n ≤ 0x21200000

/-- A controller writes bytes: it reaches application SRAM only (R507, assumption 31). -/
def State.dmaWrite (s : State) (a : Nat) (bs : List Byte) : State := if inAppSram a bs.length then s.putBytes a bs else s
def State.dmaWord (s : State) (a : Nat) (w : Word) : State := if inAppSram a 4 then s.putMword a w else s

/-- Writes a 64-bit stamp in two words. -/
def State.dmaStamp (s : State) (a t : Nat) : State :=
  (s.dmaWord a (BitVec.ofNat 32 t)).dmaWord (a + 4) (BitVec.ofNat 32 (t / 2 ^ 32))

/-- A page raises the interrupt of the application cores (R444, R446, R518). -/
def State.raiseApp (s : State) (p : Nat) : State := { s with ifc := { s.ifc with appIrq := insertNat p s.ifc.appIrq } }

/-- RING_HEAD_WRITE: software hands over or takes entries: HEAD of a transmit ring, TAIL of a receive ring (R507). -/
def ringIndexes (p : Nat) : List Nat := match pageType p with
  | some .can => [0x128, 0x13C, 0x14C]
  | some .eth => [0x118, 0x128, 0x13C]
  | some .spi => [0x118]
  | _ => []
def State.ringIndexWrite (s : State) (p off idx : Nat) : State :=
  if (ringIndexes p).contains off then s.setWord p off (BitVec.ofNat 32 (idx % 2 ^ 10)) else s

/-- Whether a controller's polder still carries work: in service, or finishing what is in progress while it drains (R33). -/
def State.carries (s : State) (p : Nat) : Bool := s.inService p || s.polderSt p = .draining

/-- Whether CAN controller `n` runs: carried, clocked by the crystal, not withheld (R31, R63). -/
def State.canRuns (s : State) (n : Nat) : Bool := n < 3 && s.carries (pdCAN n) && !s.stoppedByReference

/-- A controller takes up work (R32). -/
def State.ifcBusy (s : State) (p : Nat) : State := if s.inService p then s.setBusy p true else s

/-- The fault confinement state (R425; the limits of ISO 11898-1, assumption 32). -/
def canState (tec rx : Nat) : Nat := if 255 < tec then 2 else if 127 < tec ∨ 127 < rx then 1 else 0

/-- The error counters take new values; entering error passive or bus-off is logged (R425). -/
def State.canCounters (s : State) (n tec rx : Nat) : State :=
  let p := pgCAN n
  let old := s.rd p Reg.CAN.ERR_STATE
  let new := canState tec rx
  let s := ((s.wr p Reg.CAN.ERR_TEC (min tec 255)).wr p Reg.CAN.ERR_REC (min rx 255)).wr p Reg.CAN.ERR_STATE new
  if new = 2 ∧ old ≠ 2 then s.reportFab .u 0xB2 p
  else if new = 1 ∧ old = 0 then s.reportFab .c 0xB1 p
  else s

/-- An error met as a receiver adds to REC; a good frame takes 1 off it, and one above 127 goes to a free value from 119 to 127
(assumption 32). -/
def State.canRxCount (s : State) (n err : Nat) : State :=
  let tec := s.rd (pgCAN n) Reg.CAN.ERR_TEC
  let rx := s.rd (pgCAN n) Reg.CAN.ERR_REC
  if err ≠ 0 then s.canCounters n tec (min 255 (rx + err))
  else if 127 < rx then
    let f := s.drawWord
    f.2.canCounters n tec (119 + f.1.toNat % 9)
  else s.canCounters n tec (rx - 1)

/-- The filter words in force for a frame that started at `t`: a changed filter acts on frames whose start follows the mark
(R509). -/
def State.canFilterWord (s : State) (n t off : Nat) : Word :=
  match s.ifc.canPrev.find? (·.1 = n) with
  | some (_, mark, old) => if t ≤ mark then tabGet (fun _ => 0) old off else s.word (pgCAN n) (winBase + off)
  | none => s.word (pgCAN n) (winBase + off)

/-- The action and number of the lowest enabled filter that agrees with a frame's identifier word (R509). -/
def State.canFilter (s : State) (n t : Nat) (id : Word) : Option (Nat × Nat) :=
  ((List.range 32).find? fun f =>
    let fid := s.canFilterWord n t (8 * f)
    let mask := bitsAt (s.canFilterWord n t (8 * f + 4)) 0 29
    bitsAt fid 30 2 != 0 && bitsAt fid 29 1 == bitsAt id 29 1 && (bitsAt fid 0 29 &&& mask) == (bitsAt id 0 29 &&& mask)).map
      fun f => (bitsAt (s.canFilterWord n t (8 * f)) 30 2, f)

/-- Whether the controller accepts and sends frames of the format of header words `w0` and `w1` (R508). -/
def State.canFormat (s : State) (n : Nat) (w0 w1 : Word) : Bool :=
  if bitsAt w0 31 1 = 1 then s.rdB (pgCAN n) Reg.CAN.CFG_XL_EN
  else bitsAt w1 12 1 == 0 || s.rdB (pgCAN n) Reg.CAN.CFG_FD_EN

/-- A received frame enters FIFO `f`, cut to the entry's size, or overflows (R425, R507, R510). -/
def State.canStore (s : State) (n f filter : Nat) (hdr : List Word) (data : List Byte) (t : Nat) : State :=
  let p := pgCAN n
  let o := 0x130 + 0x10 * f
  if s.ringFull p o then s.countFirst p (if f = 0 then Reg.CAN.OVR0_CNT_COUNT else Reg.CAN.OVR1_CNT_COUNT) 0xB3
  else
    let size := 32 * s.ringUnits p o
    let a := s.ringEntry p o size (s.ringHead p o)
    let room := size - 32
    let w1 := withBits (hdr.getD 1 0) 0 12 data.length
    let s := (((s.dmaWord a (hdr.getD 0 0)).dmaWord (a + 4) w1).dmaWord (a + 8) (hdr.getD 2 0)).dmaWord (a + 12) (hdr.getD 3 0)
    let s := (s.dmaStamp (a + 16) t).dmaWord (a + 24) (BitVec.ofNat 32 (filter + bit (room < data.length) * 2 ^ 5))
    (s.dmaWrite (a + 32) (data.take room)).ringPut p o

/-- CAN_FRAME_RECEIVE: header words, data, ticks since the start-of-frame edge, and what an error adds to REC, 0 for a good
frame (R425, R509, R510). -/
def State.canReceive (s : State) (n : Nat) (hdr : List Word) (data : List Byte) (age err : Nat) : State :=
  if ¬ s.canRuns n ∨ s.rd (pgCAN n) Reg.CAN.ERR_STATE = 2 ∨ ¬ s.canFormat n (hdr.getD 0 0) (hdr.getD 1 0) then s
  else if err ≠ 0 then s.canRxCount n err
  else
    let t := stampAdd s.now (2 ^ 64 - age % 2 ^ 64)
    let s := (s.ifcBusy (pdCAN n)).canRxCount n 0
    match s.canFilter n t (hdr.getD 0 0) with
    | some (a, f) => if a = 1 then s.canStore n 0 f hdr data t else if a = 2 then s.canStore n 1 f hdr data t else s
    | none => if s.rdB (pgCAN n) Reg.CAN.CFG_ACC_ALL then s.canStore n 0 31 hdr data t else s

/-- A transmit entry completes: DONE, with ERR and CAUSE where it failed (R510). -/
def State.canDone (s : State) (n a cause : Nat) : State :=
  (s.dmaWord (a + 24) (BitVec.ofNat 32 (1 + bit (cause != 0) * 2 + cause * 4))).ringTake (pgCAN n) 0x120

/-- CAN_FRAME_TRANSMIT: the attempt at the next entry, whether it succeeded, ticks since its start of frame and the measured
transmitter delay (R425, R510). Listen-only and restricted operation send nothing; a failed attempt is repeated. -/
def State.canTransmit (s : State) (n : Nat) (ok : Bool) (age tdc : Nat) : State :=
  let p := pgCAN n
  if ¬ s.canRuns n ∨ s.ringEmpty p 0x120 then s
  else
    let size := 32 * s.ringUnits p 0x120
    let a := s.ringEntry p 0x120 size (s.ringTail p 0x120)
    let w0 := s.mword a
    let w1 := s.mword (a + 4)
    if size - 32 < bitsAt w1 0 12 then s.canDone n a 2
    else if s.rd p Reg.CAN.ERR_STATE = 2 ∨ s.rdB p Reg.CAN.CFG_LOM ∨ s.rdB p Reg.CAN.CFG_ROM ∨ ¬ s.canFormat n w0 w1 then s
    else
      let s := s.ifcBusy (pdCAN n)
      let tec := s.rd p Reg.CAN.ERR_TEC
      let rx := s.rd p Reg.CAN.ERR_REC
      if ok then
        let s := (s.canCounters n (tec - 1) rx).dmaStamp (a + 16) (stampAdd s.now (2 ^ 64 - age % 2 ^ 64))
        let s := if bitsAt w1 13 1 = 1 ∧ s.rdB p Reg.CAN.CFG_TDC_EN then s.wr p Reg.CAN.TDC_MEAS tdc else s
        s.canDone n a 0
      else
        let s := s.canCounters n (tec + 8) rx
        if s.rd p Reg.CAN.ERR_STATE = 2 then s.canDone n a 1 else s

/-- CAN_BUSOFF_RECOVERY_CMD: a write of BO_REC starts recovery (R425). -/
def State.canRecover (s : State) (n : Nat) : State :=
  if n < 3 ∧ s.rd (pgCAN n) Reg.CAN.ERR_STATE = 2 then { s with ifc := { s.ifc with canRec := insertNat n s.ifc.canRec } } else s

/-- CAN_BUSOFF_RECOVERY: 128 occurrences of 11 recessive bits have passed (R425). -/
def State.canRecovered (s : State) (n : Nat) : State :=
  if s.canRuns n ∧ s.rd (pgCAN n) Reg.CAN.ERR_STATE = 2 ∧ (s.rdB (pgCAN n) Reg.CAN.CFG_BO_AUTO ∨ s.ifc.canRec.contains n) then
    { s with ifc := { s.ifc with canRec := s.ifc.canRec.filter (· ≠ n) } }.canCounters n 0 0
  else s

end Sys2Proof.Machine
end

