-- ==== Sys2Proof/Machine/Wires.lean ====
section
/-! DEFINITION. Ethernet, SENT, PSI5, SPI and GPIO (R427 to R433, R445 to R447, R511 to R514, R518, R519). -/

namespace Sys2Proof.Machine

/-- The stamp of an event `age` ticks ago. -/
def State.ago (s : State) (age : Nat) : Nat := stampAdd s.now (2 ^ 64 - age % 2 ^ 64)

/-- Whether Ethernet controller `n` runs (R31, R33, R63). -/
def State.ethRuns (s : State) (n : Nat) : Bool := n < 2 && s.carries (pdETH n) && !s.stoppedByReference

/-- The own address, bytes 0 and 1 in MAC_H and 2 to 5 in MAC_L, the first byte the most significant (assumption 33). -/
def State.ethAddress (s : State) (n : Nat) : List Byte :=
  let h := s.word (pgETH n) 0x108
  let l := s.word (pgETH n) 0x104
  [byteOfWord h 1, byteOfWord h 0, byteOfWord l 3, byteOfWord l 2, byteOfWord l 1, byteOfWord l 0]

/-- Whether a frame's destination is accepted: its own address, a group address, or any with PROMISC (R511, assumption 33). -/
def State.ethAccepts (s : State) (n : Nat) (frame : List Byte) : Bool :=
  s.rdB (pgETH n) Reg.ETH.CFG_PROMISC || (frame.getD 0 0).toNat % 2 == 1 || frame.take 6 == s.ethAddress n

/-- Word 1 of an Ethernet entry (R512). -/
def ethWord1 (len : Nat) (err vlan : Bool) : Word := BitVec.ofNat 32 (len % 2 ^ 11 + 2 ^ 11 + bit err * 2 ^ 12 + bit vlan * 2 ^ 13)

/-- ETH_FRAME_RECEIVE: a frame with ticks since its start-frame delimiter and whether its check sequence failed (R427, R428,
R512). -/
def State.ethReceive (s : State) (n : Nat) (frame : List Byte) (age : Nat) (fcsErr : Bool) : State :=
  let p := pgETH n
  if ¬ s.ethRuns n ∨ ¬ s.rdB p Reg.ETH.CFG_RX_EN ∨ ¬ s.rdB p Reg.ETH.ESTAT_LINK ∨ ¬ s.ethAccepts n frame then s
  else
    let s := s.ifcBusy (pdETH n)
    if s.ringFull p 0x130 then s.countFirst p Reg.ETH.DROP_CNT_COUNT 0xB6
    else
      let a := s.ringEntry p 0x130 16 (s.ringHead p 0x130)
      let long := 32 * s.ringUnits p 0x130 < frame.length
      let vlan := frame.getD 12 0 == 0x81 && frame.getD 13 0 == 0x00
      let s := if long then s.countFirst p Reg.ETH.DROP_CNT_COUNT 0xB6 else s.dmaWrite ((s.mword a).toNat / 32 * 32) frame
      ((s.dmaWord (a + 4) (ethWord1 frame.length (fcsErr || long) vlan)).dmaStamp (a + 8) (s.ago age)).ringPut p 0x130

/-- ETH_FRAME_TRANSMIT: the next entry, of TX1 before TX0, is sent or fails (R512). -/
def State.ethTransmit (s : State) (n : Nat) (ok : Bool) (age : Nat) : State :=
  let p := pgETH n
  let o := if s.ringEmpty p 0x120 then 0x110 else 0x120
  if ¬ s.ethRuns n ∨ ¬ s.rdB p Reg.ETH.CFG_TX_EN ∨ ¬ s.rdB p Reg.ETH.ESTAT_LINK ∨ s.ringEmpty p o then s
  else
    let s := s.ifcBusy (pdETH n)
    let a := s.ringEntry p o 16 (s.ringTail p o)
    let w1 := s.mword (a + 4)
    ((s.dmaWord (a + 4) (withBits w1 11 2 (1 + 2 * bit (!ok)))).dmaStamp (a + 8) (s.ago age)).ringTake p o

/-- ETH_LINK_LOSS: the link, or PLCA status alone, is lost (R428). -/
def State.ethLinkLoss (s : State) (n : Nat) (plcaOnly : Bool) : State :=
  let p := pgETH n
  if n < 2 ∧ plcaOnly ∧ s.rdB p Reg.ETH.CFG_PLCA_EN ∧ s.rdB p Reg.ETH.ESTAT_PLCA then
    (s.wrB p Reg.ETH.ESTAT_PLCA false).reportFab .u 0xB5 p
  else if n < 2 ∧ ¬ plcaOnly ∧ s.rdB p Reg.ETH.ESTAT_LINK then
    ((s.wrB p Reg.ETH.ESTAT_LINK false).wrB p Reg.ETH.ESTAT_PLCA false).reportFab .u 0xB5 p
  else s

/-- ETH_LINK_UP: the link, with PLCA status where enabled; ETH1's speed by auto-negotiation, 1 or 2 (R427, R511). -/
def State.ethLinkUp (s : State) (n : Nat) (plca : Bool) (speed : Nat) : State :=
  let p := pgETH n
  if s.ethRuns n ∧ s.inService (pdETH n) ∧ (n = 0 ∨ speed = 1 ∨ speed = 2) then
    let s := (s.wrB p Reg.ETH.ESTAT_LINK true).wr p Reg.ETH.ESTAT_SPEED (if n = 0 then 0 else speed)
    if n = 0 then s.wrB p Reg.ETH.ESTAT_PLCA (plca && s.rdB p Reg.ETH.CFG_PLCA_EN) else s
  else s

/-- A link goes down because its controller stops (R31, R63, R428). -/
def State.ethStop (s : State) (n : Nat) : State :=
  let p := pgETH n
  (s.wrB p Reg.ETH.ESTAT_LINK false).wrB p Reg.ETH.ESTAT_PLCA false

/-- A write of MDIO_CMD; one written meanwhile is discarded (R511). -/
def State.mdio (s : State) (c : MdioCmd) : State :=
  if s.ethRuns 1 ∧ s.ifc.mdio = none ∧ ¬ ((c.op = 0 ∨ c.op = 3) ∧ ¬ c.c45) then
    { s with ifc := { s.ifc with mdio := some c } }.wrB (pgETH 1) Reg.ETH.MDIO_STAT_BUSY true
  else s

/-- MDIO_COMPLETE (R511). -/
def State.mdioComplete (s : State) (data : Nat) : State := match s.ifc.mdio with
  | none => s
  | some c =>
    let s := { s with ifc := { s.ifc with mdio := none } }.wrB (pgETH 1) Reg.ETH.MDIO_STAT_BUSY false
    if c.op = 2 ∨ c.op = 3 then s.wr (pgETH 1) Reg.ETH.MDIO_STAT_DATA data else s

/-- Whether SENT channel `ch` runs. -/
def State.sentRuns (s : State) (ch : Nat) : Bool := ch < 4 && s.carries pdSENT && s.rdB pgSENT (Reg.SENT.CFG_EN ch)

/-- Nibbles as a number, the first the most significant (assumption 34). -/
def nibbles (xs : List Nat) : Nat := xs.foldl (fun v x => 16 * v + x % 16) 0

/-- Whether a message passes its checks: its calibration pulse of `cal` ticks of TP_NOW lies within ±20 % of 56 nominal ticks
and within 1/64 of the one before, and nibble count, pause pulse and CRC fit (R429). -/
def State.sentValid (s : State) (ch cal count : Nat) (pauseOk crcOk : Bool) : Bool :=
  let nom := 896 * clampNat 60 1800 (s.rd pgSENT (Reg.SENT.CFG_TICK ch))
  let last := tabGet (fun _ => 0) s.ifc.sentCal ch
  let diff := if cal < last then last - cal else cal - last
  4 * nom ≤ 5 * cal && 5 * cal ≤ 6 * nom && (last == 0 || 64 * diff ≤ last)
    && count == clampNat 1 6 (s.rd pgSENT (Reg.SENT.CFG_NIB ch)) && pauseOk && crcOk

/-- SENT_MESSAGE: calibration pulse in ticks of TP_NOW, status nibble, data nibbles, whether the pause pulse is in place and
the CRC fits, ticks since the calibration pulse ended, and a serial message that ends with it, as ID and data (R429, R430,
R513). -/
def State.sentMessage (s : State) (ch cal status : Nat) (data : List Nat) (pauseOk crcOk : Bool) (age : Nat)
    (slow : Option (Nat × Nat)) : State :=
  if ¬ s.sentRuns ch then s
  else
    let valid := s.sentValid ch cal data.length pauseOk crcOk
    let s := { s.ifcBusy pdSENT with ifc := { s.ifc with sentCal := tabInsert s.ifc.sentCal ch cal } }
    if ¬ valid then s.countFirst pgSENT (Reg.SENT.ERR_CNT_COUNT ch) 0xB7 ch
    else
      let v := nibbles data
      let s := s.setWord pgSENT (Reg.SENT.FAST_DATA ch).off (BitVec.ofNat 32 (v + status % 16 * 2 ^ 24 + 2 ^ 31))
      let s := s.wrStamp pgSENT (Reg.SENT.AT_L_STAMP ch) (Reg.SENT.AT_H_STAMP ch) (s.ago age)
      let s := s.setWord pgSENT (Reg.SENT.TICK_US ch).off (fpOfRatio cal 17920)
      let s := match slow with
        | some (id, d) =>
          if s.rd pgSENT (Reg.SENT.CFG_SLOW ch) = 0 then s
          else s.setWord pgSENT (Reg.SENT.SLOW_DATA ch).off (BitVec.ofNat 32 (d % 2 ^ 16 + id % 2 ^ 8 * 2 ^ 16 + 2 ^ 24))
        | none => s
      let s := { s with ifc := { s.ifc with sentFrom := tabInsert s.ifc.sentFrom ch s.now, sentGap := s.ifc.sentGap.filter (· ≠ ch) } }
      if s.rdB pgSENT (Reg.SENT.CFG_SLOT_EN ch) then
        s.slotWrite 5 (s.rd pgSENT (Reg.SENT.CFG_SLOT ch)) 0 (BitVec.ofNat 32 v)
      else s

/-- SENT_TIMEOUT: once per gap (R431). -/
def State.sentTimeout (s : State) (ch : Nat) : State :=
  let t := tabGet (fun _ => 0) s.ifc.sentFrom ch
  if s.sentRuns ch ∧ ¬ s.ifc.sentGap.contains ch ∧ s.passed t (msTicks (max 1 (s.rd pgSENT (Reg.SENT.TMO_MS ch)))) then
    { s with ifc := { s.ifc with sentGap := insertNat ch s.ifc.sentGap } }.reportFab .u 0xB8 pgSENT ch
  else s

/-- A channel is enabled by a commit: its gap counts from now, and it has received nothing (R431, R513). -/
def State.sentEnable (s : State) (ch : Nat) : State :=
  { s with ifc := { s.ifc with
    sentFrom := tabInsert s.ifc.sentFrom ch s.now, sentGap := s.ifc.sentGap.filter (· ≠ ch), sentCal := tabErase s.ifc.sentCal ch }
  }.wrB pgSENT (Reg.SENT.FAST_VALID ch) false |>.wrB pgSENT (Reg.SENT.SLOW_VALID ch) false

/-- Whether PSI5 channel `n` runs, and the enabled slots of it, as 4 n + k. -/
def State.psiRuns (s : State) (n : Nat) : Bool := n < 2 && s.carries pdPSI && s.rdB pgPSI (Reg.PSI.CFG_EN n)
def State.psiSlots (s : State) (n : Nat) : List Nat :=
  ((List.range 4).map (4 * n + ·)).filter fun i => s.rdB pgPSI (Reg.PSI.SLOT_EN i)

/-- The sync period of a channel in ticks (R432). -/
def State.psiPeriod (s : State) (n : Nat) : Nat := usTicks (clampNat 100 1000 (s.rd pgPSI (Reg.PSI.CFG_PERIOD n)))

/-- A sync period of a slot ends: VALID says whether it had a valid frame (R433, R514). -/
def State.psiSlotEnds (s : State) (i : Nat) : State :=
  let got := s.ifc.psiGot.contains i
  let n := tabGet (fun _ => 0) s.ifc.psiMiss i
  { s.wrB pgPSI (Reg.PSI.DATA_VALID i) got with ifc := { s.ifc with
    psiGot := s.ifc.psiGot.filter (· ≠ i)
    psiMiss := tabPut (fun _ => 0) s.ifc.psiMiss i (if got then 0 else min 15 (n + 1))
    psiLogged := if got then s.ifc.psiLogged.filter (· ≠ i) else s.ifc.psiLogged } }

/-- PSI5_SYNC_PULSE of a channel at a multiple of its period (R432). -/
def State.psiPulse (s : State) (n : Nat) : State :=
  if s.psiRuns n ∧ s.inService pdPSI ∧ s.now % s.psiPeriod n = 0 then
    let s := s.ifcBusy pdPSI
    if s.ifc.psiOn.contains n then s.each (s.psiSlots n) State.psiSlotEnds
    else { s with ifc := { s.ifc with psiOn := insertNat n s.ifc.psiOn } }
  else s

/-- PSI5_FRAME of a slot: its data, whether its coding and check fit, and ticks since its first bit (R430, R433, R514). -/
def State.psiFrame (s : State) (n k : Nat) (ok : Bool) (data age : Nat) : State :=
  let i := 4 * n + k
  if ¬ s.psiRuns n ∨ ¬ (s.psiSlots n).contains i then s
  else if ¬ ok then s.countFirst pgPSI (Reg.PSI.ERR_CNT_COUNT n) 0xB9 i
  else
    let v := data % 2 ^ clampNat 10 28 (s.rd pgPSI (Reg.PSI.SLOT_BITS i))
    let s := s.setWord pgPSI (Reg.PSI.DATA_DATA i).off (BitVec.ofNat 32 (v + 2 ^ 31))
    let s := s.wrStamp pgPSI (Reg.PSI.AT_L_STAMP i) (Reg.PSI.AT_H_STAMP i) (s.ago age)
    let s := { s with ifc := { s.ifc with psiGot := insertNat i s.ifc.psiGot } }
    if s.rdB pgPSI (Reg.PSI.SLOT_SLOT_EN i) then s.slotWrite 5 (s.rd pgPSI (Reg.PSI.SLOT_SLOT i)) 0 (BitVec.ofNat 32 v) else s

/-- PSI5_SLOT_MISSING: once per run of missed periods (R433). -/
def State.psiMissing (s : State) (n k : Nat) : State :=
  let i := 4 * n + k
  if s.psiRuns n ∧ (s.psiSlots n).contains i ∧ ¬ s.ifc.psiLogged.contains i
      ∧ max 1 (s.rd pgPSI Reg.PSI.MISS_N_N) ≤ tabGet (fun _ => 0) s.ifc.psiMiss i then
    { s with ifc := { s.ifc with psiLogged := insertNat i s.ifc.psiLogged } }.reportFab .u 0xBA pgPSI i
  else s

/-- Half a period of the SPI clock in ticks: (DIV + 1) / 80 MHz (R445, R519). -/
def State.spiHalf (s : State) : Nat := 4 * (max 1 (s.rd pgSPI Reg.SPI.CFG_DIV) + 1)

/-- Bytes of an SPI word; WORD 3 is undefined and leaves it to a free bit whether a length fits (R519). -/
def State.spiWhole (s : State) (len : Nat) : Bool × State :=
  let w := s.rd pgSPI Reg.SPI.CFG_WORD
  if w = 3 then s.drawBit else (len % 2 ^ w == 0, s)

/-- Why an entry cannot be taken: its CAUSE, 0 none (R446). -/
def State.spiCause (s : State) (tx rx len cs : Nat) : Nat × State :=
  let whole := s.spiWhole len
  let out (a : Nat) : Bool := a != 0 && !inAppSram a len
  (if out tx || out rx then 1 else if len == 0 || 4096 < len || !whole.1 then 2
    else if s.ifc.spiHeld.any (· != cs) then 3 else 0, whole.2)

/-- An entry is written back: LEN and the flags of software kept, CAUSE, ERR, DONE, and its stamp; TAIL advances (R446). -/
def State.spiWriteBack (s : State) (idx cause : Nat) (stamp : Word) : State :=
  let a := s.ringEntry pgSPI 0x110 16 idx
  let w2 := withBits (withBits (s.mword (a + 8)) 26 3 cause) 30 2 (2 + bit (cause != 0))
  ((s.dmaWord (a + 8) w2).dmaWord (a + 12) stamp).ringTake pgSPI 0x110

/-- The select the controller holds (R446, R519). -/
def State.spiHold (s : State) (cs : Option Nat) : State :=
  { s with ifc := { s.ifc with spiHeld := cs } }.wrB pgSPI Reg.SPI.XSTAT_SEL_HELD cs.isSome

/-- SPI_ENTRY_START: the next entry is taken, or completes at once with ERR (R446, R447). -/
def State.spiStart (s : State) : State :=
  if ¬ s.inService pdSPI ∨ s.ifc.spi.isSome ∨ s.ringEmpty pgSPI 0x110 then s
  else
    let s := s.ifcBusy pdSPI
    let idx := s.ringTail pgSPI 0x110
    let a := s.ringEntry pgSPI 0x110 16 idx
    let w2 := s.mword (a + 8)
    let cs := bitsAt w2 13 1
    let c := s.spiCause (s.mword a).toNat (s.mword (a + 4)).toNat (bitsAt w2 0 13) cs
    let s := c.2
    if c.1 ≠ 0 then
      let s := (((s.spiHold none).spiWriteBack idx c.1 (s.mword (a + 12))).countFirst pgSPI Reg.SPI.ERR_CNT_COUNT 0xBF c.1)
      if bitsAt w2 15 1 = 1 then s.raiseApp pgSPI else s
    else
      let first := stampAdd s.now (max 1 (s.rd pgSPI Reg.SPI.TIME_SETUP) * s.spiHalf)
      let run : SpiEntry := { idx := idx, rx := (s.mword (a + 4)).toNat, len := bitsAt w2 0 13, cs := cs
                              keep := bitsAt w2 14 1 == 1, irq := bitsAt w2 15 1 == 1, at0 := first }
      { s with ifc := { s.ifc with spi := some run } }.wrB pgSPI Reg.SPI.XSTAT_BUSY true

/-- SPI_ENTRY_COMPLETE with the bytes received (R446). -/
def State.spiComplete (s : State) (rx : List Byte) : State := match s.ifc.spi with
  | none => s
  | some e =>
    let s := if e.rx = 0 then s else s.dmaWrite e.rx (rx.take e.len)
    let s := { s with ifc := { s.ifc with spi := none } }.wrB pgSPI Reg.SPI.XSTAT_BUSY false
    let s := (s.spiWriteBack e.idx 0 (BitVec.ofNat 32 e.at0)).spiHold (if e.keep then some e.cs else none)
    if e.irq then s.raiseApp pgSPI else s

/-- The SPI controller stops: the entry in progress ends, and both selects go high (R447). -/
def State.spiStop (s : State) : State :=
  ({ s with ifc := { s.ifc with spi := none } }.wrB pgSPI Reg.SPI.XSTAT_BUSY false).spiHold none

/-- GPIO_SET and GPIO_CLEAR: bits of SET and CLR in one write; a bit in both is unchanged (R518). -/
def State.gpioSetClear (s : State) (set clr : Word) : State :=
  let old := s.word pgGPIO 0x104
  s.setWord pgGPIO 0x104 ((old ||| (set &&& ~~~clr)) &&& ~~~(clr &&& ~~~set))

/-- GPIO_EDGE: pin `k` changes to a level (R518). -/
def State.gpioEdge (s : State) (k : Nat) (high : Bool) : State :=
  if 32 ≤ k ∨ bitsAt (s.word pgGPIO 0x110) k 1 = bit high then s
  else
    let s := s.setWord pgGPIO 0x110 (withBits (s.word pgGPIO 0x110) k 1 (bit high))
    if bitsAt (s.word pgGPIO (if high then 0x114 else 0x118)) k 1 = 1 then
      ((s.setWord pgGPIO 0x11C (withBits (s.word pgGPIO 0x11C) k 1 1)).raiseApp pgGPIO).agrEvent 9
    else s

end Sys2Proof.Machine
end

