-- ==== Sys2Proof/Machine/Ring.lean ====
section
/-! DEFINITION. The Ryuger link: frames, time alignment and command channels (R68, R437 to R444, R516, R517). -/

namespace Sys2Proof.Machine

/-- The CRC-16 of R439: polynomial 0x1021, initial value 0xFFFF, most significant bit first. -/
def crcBit (c : Nat) : Nat := if bitOf c 15 then (c * 2 % 65536) ^^^ 0x1021 else c * 2 % 65536
def crcByte (c : Nat) (b : Byte) : Nat := (List.range 8).foldl (fun c _ => crcBit c) (c ^^^ (b.toNat * 256))
def crc16 (bs : List Byte) : Nat := bs.foldl crcByte 0xFFFF

/-- A number as bytes, the most significant first. -/
def bytesOf : Nat → Nat → List Byte
  | 0, _ => []
  | n + 1, v => BitVec.ofNat 8 (v / 256 ^ n) :: bytesOf n v
def ofBytes (bs : List Byte) : Nat := bs.foldl (fun v b => 256 * v + b.toNat) 0

/-- Symbols with their CRC (R439). -/
def withCrc (bs : List Byte) : List Byte := bs ++ bytesOf 2 (crc16 bs)

/-- The ring as configured (R437, R516). -/
def State.synNdev (s : State) : Nat := clampNat 1 4 (s.rd pgSYN Reg.SYN.CFG_NDEV)
def State.synPos (s : State) : Nat := s.rd pgSYN Reg.SYN.CFG_POS
def State.synMaster (s : State) : Bool := s.synPos == s.rd pgSYN Reg.SYN.CFG_MASTER
def State.synInterval (s : State) : Nat := usTicks (clampNat 10 1000 (s.rd pgSYN Reg.SYN.CFG_SYNC_INT))
def State.synLocked (s : State) : Bool := s.rdB pgSYN Reg.SYN.STAT_SYM_LOCK

/-- Whether the link runs: its polder carries work, and the ring has more than one device. -/
def State.synRuns (s : State) : Bool := s.carries pdSYN && s.synNdev != 1

def State.setSyn (s : State) (f : Ryuger → Ryuger) : State := { s with syn := f s.syn }

/-- A command channel: 0 supervisor, 1 application. -/
def State.synChan (s : State) (ch : Nat) : SynChannel := if ch = 0 then s.syn.sup else s.syn.app
def State.setSynChan (s : State) (ch : Nat) (c : SynChannel) : State :=
  s.setSyn fun r => if ch = 0 then { r with sup := c } else { r with app := c }

/-- Offsets of a channel's transmit status, transmit data and receive registers (R516, R517). -/
def synStatOff (ch : Nat) : Nat := 0x108 + 4 * ch
def synTxOff (ch : Nat) : Nat := 0x700 + 0x40 * ch
def synRxOff (ch : Nat) : Nat := 0x780 + 0x40 * ch

/-- QUEUED of a channel's status (R516). -/
def State.synShowTx (s : State) (ch : Nat) : State :=
  s.setWord pgSYN (synStatOff ch) (withBits (s.word pgSYN (synStatOff ch)) 13 3 (s.synChan ch).queue.length)

/-- The status of the last frame completed in a channel (R444, R516). -/
def State.synDone (s : State) (ch seq ack : Nat) (lost : Bool) : State :=
  s.setWord pgSYN (synStatOff ch) (withBits (s.word pgSYN (synStatOff ch)) 0 13 (seq % 256 + ack % 16 * 2 ^ 8 + bit lost * 2 ^ 12))

/-- The next waiting frame of a channel leaves, when none of the channel's is on the ring (R440, R444, assumption 35). -/
def State.synPump (s : State) (ch : Nat) : State :=
  let c := s.synChan ch
  match c.queue with
  | [] => s.synShowTx ch
  | f :: rest =>
    if c.flight.isSome ∨ ¬ s.synRuns ∨ ¬ s.inService pdSYN ∨ ¬ s.synLocked then s.synShowTx ch
    else
      let out := withCrc ([BitVec.ofNat 8 ((1 + ch) * 64 + s.synPos * 16), BitVec.ofNat 8 (f.dst * 16),
        BitVec.ofNat 8 f.data.length, BitVec.ofNat 8 f.seq] ++ f.data)
      (((s.setSynChan ch { c with queue := rest, flight := some (f, s.now) }).setSyn fun r => { r with out := out }).ifcBusy pdSYN).synShowTx ch

/-- A GO is discarded (R516, R517). -/
def State.synDrop (s : State) (ch : Nat) : State :=
  s.setWord pgSYN (synStatOff ch) (withBits (s.word pgSYN (synStatOff ch)) 16 1 1)

/-- A frame of `len` bytes of the channel's data registers is queued with the next SEQ (R517). -/
def State.synSend (s : State) (ch dst len : Nat) : State :=
  let c := s.synChan ch
  if len = 0 ∨ 32 < len ∨ 4 ≤ c.queue.length then s.synDrop ch
  else
    let data := (List.range len).map fun k => byteOfWord (s.word pgSYN (synTxOff ch + k / 4 * 4)) (3 - k % 4)
    let f : SynCmd := { dst := dst % 16, seq := c.seq, data := data }
    (s.setSynChan ch { c with seq := (c.seq + 1) % 256, queue := c.queue ++ [f] }).synPump ch

/-- RYUGER_FRAME_LOST: the frame on the ring has not returned within 50 µs (R444). -/
def State.synLost (s : State) (ch : Nat) : State :=
  let c := s.synChan ch
  match c.flight with
  | some (f, t) =>
    if s.passed t (usTicks 50) then ((s.setSynChan ch { c with flight := none }).synDone ch f.seq 0 true).synPump ch else s
  | none => s

/-- The receive registers show the oldest frame (R517). -/
def State.synShowRx (s : State) (ch : Nat) : State :=
  let o := synRxOff ch
  match (s.synChan ch).rx with
  | [] => s.setWord pgSYN (o + 0x20) 0
  | f :: rest =>
    let s := s.each (List.range 8) fun s k => s.setWord pgSYN (o + 4 * k)
      (BitVec.ofNat 32 (ofBytes ((List.range 4).map fun i => f.data.getD (4 * k + i) 0)))
    let s := s.setWord pgSYN (o + 0x20) (BitVec.ofNat 32 (f.src + f.seq * 2 ^ 8 + f.data.length * 2 ^ 16 + (rest.length + 1) * 2 ^ 24 + 2 ^ 31))
    (s.setWord pgSYN (o + 0x24) (BitVec.ofNat 32 f.stamp)).setWord pgSYN (o + 0x28) (BitVec.ofNat 32 (f.stamp / 2 ^ 32))

/-- RYUGER_RX_POP (R517). -/
def State.synPop (s : State) (ch : Nat) : State :=
  let c := s.synChan ch
  (s.setSynChan ch { c with rx := c.rx.tail }).synShowRx ch

/-- A frame for this device enters its receive queue; its ACK bit, and the consequences (R444). -/
def State.synDeliver (s : State) (ch : Nat) (f : SynRx) : Bool × State :=
  let c := s.synChan ch
  if 8 ≤ c.rx.length then (false, s.reportFab .c 0xBE pgSYN)
  else
    let s := (s.setSynChan ch { c with rx := c.rx ++ [f] }).synShowRx ch
    (true, if ch = 0 then s.agrEvent 2 else s.raiseApp pgSYN)

/-- A frame is discarded: with the first after a write of FRAME_ERR logged (R440). -/
def State.synDiscard (s : State) : State := s.countFirst pgSYN Reg.SYN.FRAME_ERR_COUNT 0xBE

/-- The offset e of a SYNC with payload `t` that arrived at `r` edge units, in 25ths of an edge unit: 0.1 ns is 16 of them
(R441). -/
def State.synOffset (s : State) (t r : Nat) : Int :=
  25 * 20 * (t : Int) + 16 * (min 1000 (s.rd pgSYN Reg.SYN.LINK_DLY_DLY) : Nat) - 25 * (r : Int)

/-- STAT.OFFSET: e in edge units, saturated (R516, R560). -/
def State.synShowOffset (s : State) (e : Int) : State :=
  s.wr pgSYN Reg.SYN.STAT_OFFSET (unsignedOf (clampInt (-0x7FFFFF) 0x7FFFFF (e.tdiv 25)) 24)

/-- Whether TP_NOW may be set in one step: all stages Off and no loop placed (R68). -/
def State.mayStep (s : State) : Bool :=
  (List.range 10).all s.stageOff && loopIds.all fun l => !(s.loop l).placed

/-- Time lock follows the offsets of consecutive SYNC frames: 2 ns is 320 and 4 ns 640 of the units of `synOffset` (R442). -/
def State.synLock (s : State) (e : Int) : State :=
  let good := if e.natAbs ≤ 320 then s.syn.good + 1 else 0
  let bad := if 640 < e.natAbs then s.syn.bad + 1 else 0
  let s := s.setSyn fun r => { r with good := min good 8, bad := min bad 2, lastSync := s.now }
  if s.rdB pgSYN Reg.SYN.STAT_LOCK then
    if 2 ≤ bad then (s.wrB pgSYN Reg.SYN.STAT_LOCK false).reportFab .u 0xBB pgSYN else s
  else if 8 ≤ good then (s.wrB pgSYN Reg.SYN.STAT_LOCK true).reportFab .c 0xBC pgSYN
  else s

/-- A valid SYNC at a device that is not the master: it measures the offset, may step forward at initial alignment, and else
steers its tick rate (R68, R441, R442). -/
def State.synSteer (s : State) (t r : Nat) (step : Bool) : State :=
  let e := s.synOffset t r
  let s := (s.synShowOffset e).synLock e
  if step ∧ ¬ s.rdB pgSYN Reg.SYN.STAT_LOCK ∧ s.mayStep ∧ 500 ≤ e then
    { s with now := stampAdd s.now (e / 500).toNat }.wrB pgSYN Reg.SYN.STAT_STEPPED true
  else s

/-- A check interval of the master's ring ends, passed or failed; the third failure in a row is logged (R443). -/
def State.ringCheck (s : State) (ok : Bool) : State :=
  let n := if ok then 0 else s.syn.ringBad + 1
  let s := s.setSyn fun r => { r with awaited := false, ringBad := n }
  if ok then s.wrB pgSYN Reg.SYN.STAT_RING true
  else if n = 3 then (s.wrB pgSYN Reg.SYN.STAT_RING false).reportFab .u 0xBD pgSYN
  else s

/-- A frame leaves again with HOP one higher; a SYNC with this device's own stamp, a command with its ACK bits (R440, R441,
R444). -/
def State.synForward (s : State) (b1 b2 : Nat) (rest : List Byte) : State :=
  s.setSyn fun r => { r with out := withCrc ([BitVec.ofNat 8 (b1 / 16 * 16 + (b1 / 4 % 4 + 1) % 4 * 4), BitVec.ofNat 8 b2] ++ rest) }

/-- A command frame of another device: taken where it is addressed here, and forwarded (R440, R444). -/
def State.synCommand (s : State) (ch b1 b2 : Nat) (rest : List Byte) (stamp : Nat) : State :=
  let f : SynRx := { src := b1 / 16 % 4, seq := (rest.getD 1 0).toNat, data := rest.drop 2, stamp := stamp }
  let r : Bool × State := if bitOf (b2 / 16) s.synPos then s.synDeliver ch f else (false, s)
  r.2.synForward b1 (if r.1 then withBit b2 s.synPos true else b2) rest

/-- This device's own command frame has returned (R440, R444). -/
def State.synReturned (s : State) (ch seq ack : Nat) : State :=
  let c := s.synChan ch
  match c.flight with
  | some (f, _) => if f.seq = seq then ((s.setSynChan ch { c with flight := none }).synDone ch seq ack false).synPump ch else s
  | none => s

/-- Whether the symbols from 1 to the CRC make a whole frame of their type: SYNC has 8 bytes of payload, a command LEN of 1 to
32 (R439). -/
def synWhole (body : List Byte) : Bool :=
  let ty := (body.getD 0 0).toNat / 64
  let len := (body.getD 2 0).toNat % 64
  if ty = 0 then body.length == 10 else if ty = 3 then 2 ≤ body.length else 1 ≤ len && len ≤ 32 && body.length == 4 + len

/-- RYUGER_FRAME_RECEIVE: the symbols from 1 to the CRC, whether a code violation was met, the arrival of the first bit of the
start symbol as ticks ago with edge units, and whether the device uses a forward step (R440). -/
def State.synReceive (s : State) (frame : List Byte) (violation : Bool) (age frac : Nat) (step : Bool) : State :=
  if ¬ s.synRuns ∨ ¬ s.synLocked then s
  else
    let s := s.ifcBusy pdSYN
    let body := frame.take (frame.length - 2)
    if violation ∨ withCrc body ≠ frame ∨ ¬ synWhole body then s.synDiscard
    else
      let b1 := (body.getD 0 0).toNat
      let b2 := (body.getD 1 0).toNat
      let ty := b1 / 64
      let own := b1 / 16 % 4 == s.synPos
      let rest := body.drop 2
      let at0 := s.ago age
      if own then
        if ty = 0 ∧ s.synMaster then
          s.ringCheck (decide ((s.synOffset (ofBytes rest) (20 * at0 + frac % 20)).natAbs ≤ 1600))
        else if ty = 1 ∨ ty = 2 then s.synReturned (ty - 1) (rest.getD 1 0).toNat (b2 % 16)
        else s
      else if b1 / 4 % 4 = s.synNdev - 1 then s.synDiscard
      else if ty = 0 then
        let s := if s.synMaster then s else s.synSteer (ofBytes rest) (20 * at0 + frac % 20) step
        s.synForward b1 b2 (bytesOf 8 s.now)
      else if ty = 1 ∨ ty = 2 then s.synCommand (ty - 1) b1 b2 rest at0
      else s.synForward b1 b2 rest

/-- RYUGER_SYNC_TRANSMIT: at a multiple of the interval the master sends its TP_NOW; a SYNC that has not returned is a failed
check (R441, R443). -/
def State.synTransmit (s : State) : State :=
  if s.synRuns ∧ s.inService pdSYN ∧ s.synMaster ∧ s.now % s.synInterval = 0 then
    let s := if s.syn.awaited then s.ringCheck false else s
    let out := withCrc ([BitVec.ofNat 8 (s.synPos * 16), 0] ++ bytesOf 8 s.now)
    (s.setSyn fun r => { r with awaited := true, out := out }).ifcBusy pdSYN
  else s

/-- SYNC_TIMEOUT: three intervals without a valid SYNC (R442). -/
def State.syncTimeout (s : State) : State :=
  if s.synRuns ∧ ¬ s.synMaster ∧ s.rdB pgSYN Reg.SYN.STAT_LOCK ∧ s.passed s.syn.lastSync (3 * s.synInterval) then
    ((s.setSyn fun r => { r with good := 0, bad := 0 }).wrB pgSYN Reg.SYN.STAT_LOCK false).reportFab .u 0xBB pgSYN
  else s

/-- SYMBOL_LOCK_CHANGE (R438). -/
def State.symbolLock (s : State) (on : Bool) : State :=
  if on then
    if s.carries pdSYN then ((s.wrB pgSYN Reg.SYN.STAT_SYM_LOCK true).synPump 0).synPump 1 else s
  else s.wrB pgSYN Reg.SYN.STAT_SYM_LOCK false

/-- A committed change of MASTER makes the device reacquire (R442). -/
def State.synReacquire (s : State) : State :=
  (s.setSyn fun r => { r with good := 0, bad := 0, lastSync := s.now, awaited := false, ringBad := 0 }).wrB pgSYN Reg.SYN.STAT_LOCK false

/-- LOCK and RING as they read: the master is locked to itself, and RING reads 1 in the others (R442, R516). -/
def State.synStatView (s : State) (w : Word) : Word :=
  if s.synMaster then withBits w 5 1 1 else withBits w 6 1 1

/-- RYUGER_SUPERVISOR_SEND and RYUGER_APPLICATION_SEND by their writers (R444, R517). -/
def State.synSupervisorSend (s : State) (dst len : Nat) : State := if s.supRuns then s.synSend 0 dst len else s

end Sys2Proof.Machine
end

