-- ==== Sys2Proof/Machine/Lifecycle.lean ====
section
/-! DEFINITION. The life of a polder with the work it carries: CTL writes by page, drains, self-tests, refills, stall closures,
closed sluices and the application cores' drains (R24 to R40, R502 to R505, R561, R563). -/

namespace Sys2Proof.Machine

/-- The polder to which a page's STAT.STATE and CTL refer: its own, or the one CORE_SEL or BANK_SEL names (R502, R503). -/
def State.pagePolder (s : State) (pg : Nat) : Option Nat := match pageType pg with
  | some .le => some (pdLE (pageInst pg))
  | some .sa => some (pdSA (pageInst pg))
  | some .can => some (pdCAN (pageInst pg))
  | some .eth => some (pdETH (pageInst pg))
  | some .sent => some pdSENT
  | some .psi => some pdPSI
  | some .chg => some pdCHG
  | some .syn => some pdSYN
  | some .spi => some pdSPI
  | some .sup =>
    let c := s.rd pgSUP Reg.SUP.CORE_SEL_CORE
    if c < 3 then some (pdCore c) else none
  | some .mem =>
    let b := s.rd pgMEM Reg.MEM.BANK_SEL_BANK
    if b < 11 then some (0x30 + b) else none
  | _ => none

/-- Whether a polder is an application core, S2 in compat mode included (R12, R503). -/
def State.isAppCore (s : State) (p : Nat) : Bool := p == 0x13 || p == 0x14 || (s.compat && p == 0x12)

/-- The APP_PEND bit of an application core. -/
def appBit (p : Nat) : Nat := if p = 0x12 then 2 else p - 0x13

/-- A polder has come back into service, or is new there (R32, R40). -/
def State.refilled (s : State) (p : Nat) : State :=
  if p < 0x10 then s.queueEvent (.refill p)
  else if p < 0x13 ∧ ¬ s.isAppCore p then s.startResync (p - 0x10)
  else if p = pdCHG then s.pilotRestart
  else s

/-- A drain in progress has been abandoned: work that has moved stays where it is (R32, R139, R310). -/
def State.drainStops (s : State) (p : Nat) : State :=
  if p < 0x10 then
    s.each (loopIds.filter fun l => (s.loop l).engine == p && (s.loop l).move.any fun m => m.cause == 1 && !m.copying) State.abandonMove
  else if p < 0x13 ∧ ¬ s.isAppCore p then s.startResync (p - 0x10)
  else s

/-- What follows from a change of a polder's state by a write or a timeout. -/
def State.polderFollows (s : State) (p : Nat) (old : PolderState) : State :=
  let new := s.polderSt p
  if old = .draining ∧ (new = .ready ∨ new = .running) then s.drainStops p
  else if (old = .drained ∨ old = .off) ∧ new = .ready then s.refilled p
  else s

/-- The MRAM bank that is not active, as a polder. -/
def State.inactiveMram (s : State) : Nat := pdMramA + (1 - s.activeBank)

/-- A write to a page's CTL (R32, R34, R37, R38, R502, R503, R561). -/
def State.ctlPage (s : State) (pg : Nat) (w : CtlBits) : State := match s.pagePolder pg with
  | none => s
  | some p =>
    let w := if pg = pgMEM ∧ p < pdMramA then { w with test := false } else w
    (s.ctlWrite p w (pg ≠ pgSUP) (drainRefusedKind s.compat s.inactiveMram p)).polderFollows p (s.polderSt p)

/-- Whether every input of a converter's sequences has a secondary in service without a drain of its own pending (R33). -/
def State.converterMayDrain (s : State) (n : Nat) : Bool :=
  allSeqs.all fun q => !s.seqOn q || s.seqOnNow q != n || (s.seqEntries q).isEmpty
    || (let other := if q.conv = n then secondary n else q.conv
        s.inService (pdSA other) && !(s.polder (pdSA other)).drain)

/-- The condition of R33 for the kind of a polder. -/
def State.mayDrain (s : State) (p : Nat) : Bool :=
  if p < 0x10 then s.engineMayDrain p
  else if s.isAppCore p then bitOf (s.rd pgSUP Reg.SUP.APP_PEND_PEND) (appBit p)
  else if p < 0x13 then !s.compat && s.sup.voting.length == 3 && s.sup.voting.contains (p - 0x10)
  else if 0x18 ≤ p ∧ p < 0x1E then s.converterMayDrain (p - 0x18)
  else if p = pdCHG then s.stageOff 2 && s.stageOff 3
  else if p = pdMramA ∨ p = pdMramA + 1 then p == s.inactiveMram && !s.rdB pgMEM Reg.MEM.MRAM_STAT_UPD
  else true

/-- An accepted drain begins to move the polder's work (R33). -/
def State.drainStarts (s : State) (p : Nat) : State :=
  if p < 0x10 then s.queueEvent (.drain p)
  else if s.isAppCore p then s.wr pgSUP Reg.SUP.APP_PEND_PEND (withBit (s.rd pgSUP Reg.SUP.APP_PEND_PEND) (appBit p) false)
  else if p < 0x13 then (s.dropCore (p - 0x10)).wr pgSUP Reg.SUP.STAT_MODE 1
  else s

/-- DRAIN_EVALUATION: the oldest request is accepted or refused; one of a loop engine waits while Trellis does (R33, R34,
R318). -/
def State.drainEvaluate (s : State) : State := match s.drainQ with
  | [] => s
  | p :: rest =>
    if p < 0x10 ∧ ¬ s.supRuns then s
    else
      let ok := s.mayDrain p
      let s := { s with drainQ := rest }
      let x := s.polder p
      if x.st ≠ .ready ∧ x.st ≠ .running then s.setPolder p { x with drain := false, test := false }
      else if ok then (s.setPolder p { x with st := .draining, drainAt := s.now }).drainStarts p
      else (s.setPolder p { x with drain := false, test := false }).reportPolder .c 0x06 p

/-- Whether the last work has left a draining polder (R32, R33). -/
def State.drainDone (s : State) (p : Nat) : Bool :=
  if p < 0x10 then (s.loopsOn p).isEmpty && !loopIds.any fun l => (s.loop l).placed && (s.loop l).fallback == some p
  else if 0x18 ≤ p ∧ p < 0x1E then s.converterEmpty (p - 0x18)
  else if p = pdSPI then s.ifc.spi.isNone
  else true

/-- A controller has stopped (R31, R33, R426, R428, R447). -/
def State.controllerStops (s : State) (p : Nat) : State :=
  if p = 0x23 ∨ p = 0x24 then s.ethStop (p - 0x23)
  else if p = pdSPI then s.spiStop
  else if p = pdSYN then s.wrB pgSYN Reg.SYN.STAT_SYM_LOCK false
  else s

/-- DRAIN_COMPLETE (R32). -/
def State.drainComplete (s : State) (p : Nat) : State :=
  if s.polderSt p = .draining ∧ s.drainDone p then (s.drained p).controllerStops p else s

/-- DRAIN_TIMEOUT (R35). -/
def State.drainTimeout (s : State) (p : Nat) : State :=
  if s.polderSt p = .draining ∧ s.passed (s.polder p).drainAt (msTicks s.drainTmoMs) then
    (s.abandonDrain p).polderFollows p .draining
  else s

/-- After a failure the drains in progress are evaluated again: a core's needs the other two to vote, the others their
condition (R36). -/
def State.stillDrains (s : State) (p : Nat) : Bool :=
  if p < 0x13 ∧ 0x10 ≤ p ∧ ¬ s.isAppCore p then s.sup.voting.length == 2
  else if s.isAppCore p ∨ p = pdCHG then true
  else s.mayDrain p

def State.recheckDrains (s : State) : State :=
  s.each ((List.range 0x3C).filter fun p => decide (s.polderSt p = .draining)) fun s p =>
    if s.stillDrains p then s else (s.abandonDrain p).polderFollows p .draining

/-- A supervisor core, or the core of a private memory, no longer answers (R31). -/
def State.coreStalled (s : State) (c : Nat) (memory : Bool) : State :=
  if s.compat then (if c < 2 then s.lockstepMismatch else s.appStalled)
  else if ¬ s.sup.voting.contains c then s
  else if s.sup.voting.length = 3 then s.minority c 4
  else (if memory then s.reportDike .f 0x07 pgSUP (pdCore c) else s).goOut

/-- Whether a stall of the polder is a class F fault: the exchange memory, or a voting core in duplex (R31). -/
def State.stallIsF (s : State) (p : Nat) : Bool :=
  p == pdExchange || (0x10 ≤ p && p < 0x13 && !s.compat && s.sup.voting.length == 2 && s.sup.voting.contains (p - 0x10))

/-- The consequence of a lost polder by its kind (R31). -/
def State.polderLost (s : State) (p : Nat) : State :=
  if p < 0x10 then (s.clearEngine p).queueEvent (.engineFault p)
  else if p < 0x13 then s.coreStalled (p - 0x10) false
  else if p < 0x15 then s.appStalled
  else if p < 0x18 then s.coreStalled (p - 0x15) true
  else if p < 0x1E then s.converterLost (p - 0x18)
  else if p = pdCHG then s.pilotCheck
  else s.controllerStops p

/-- The Dike closes the sluices of one stalled polder; the stall is logged before what it leads to (R28 to R31). -/
def State.stallOne (s : State) (p : Nat) : State :=
  let x := s.polder p
  let f := s.stallIsF p
  let s := s.reportDike (if f then .f else .u) (if f then 0x07 else 0x01) (polderPage p) p x.injected
  let s := s.failPolder p
  let s := s.setPolder p { s.polder p with withheld := true, injected := false }
  let s := (s.wr pgDIKE Reg.DIKE.STALL_LAST_POLDER p).wrB pgDIKE Reg.DIKE.STALL_LAST_VALID true
  s.polderLost p

/-- Whether a polder can be found stalled: it carries transfers through open sluices. -/
def State.canStall (s : State) (p : Nat) : Bool := polderExists p && s.carries p

/-- STALL_CLOSURE of the polders found in one cycle of the RC clock, in ascending order (R28, R30, R31, R36). -/
def State.stallClosure (s : State) (ps : List Nat) : State :=
  (s.each ((List.range 0x3C).filter fun p => ps.contains p && s.canStall p) State.stallOne).recheckDrains

/-- CLOSED_SLUICE_REQUEST: a request of one polder meets the closed sluice of another; a state copy of Trellis is abandoned and
proceeds as for a fault of the closed polder (R26). -/
def State.closedSluice (s : State) (requester target : Nat) (copyOf : Option Nat) : State :=
  if ¬ s.sluicesClosed target ∨ ¬ polderExists requester then s
  else
    let s := s.reportPolder .u 0x05 requester
    match copyOf with
    | some l => s.abandonMove l
    | none => if requester < 0x10 then s.endRun requester false else s

/-- A test has failed (R32, R310, R318). -/
def State.testFails (s : State) (p : Nat) : State :=
  let s := (s.failPolder p).reportPolder .u 0x04 p
  if 0x10 ≤ p ∧ p < 0x13 ∧ ¬ s.isAppCore p then
    if s.sup.recovery.isSome then s.recoveryFailed
    else if s.compat then s else s.wrB pgSUP Reg.SUP.STAT_DEGRADED true
  else s

/-- What a passed test leaves (R39). -/
def State.testPasses (s : State) (p : Nat) : State :=
  let s := if p < 0x10 then s.zeroMem (leBase p) 0x20000
    else if 0x18 ≤ p ∧ p < 0x1E then s.converterTested (p - 0x18) else s
  (s.refill p).refilled p

/-- SELF_TEST_COMPLETE (R32, R39, R563). -/
def State.testComplete (s : State) (p : Nat) (pass : Bool) : State :=
  if s.polderSt p ≠ .testing then s
  else if pass ∧ ¬ (s.polder p).withheld then s.testPasses p else s.testFails p

/-- TEST_SLUICE_WITHHOLD: a polder under test that withholds a transition past the stall limit fails (R563). -/
def State.testWithholds (s : State) (p : Nat) : State :=
  if s.polderSt p = .testing then (s.setPolder p { s.polder p with withheld := true }).testFails p else s

/-- The polder of application core `n`, none for S2 in native mode (R505). -/
def State.appPolder (s : State) (n : Nat) : Option Nat :=
  if n < 2 ∨ (n = 2 ∧ s.compat) then some (pdApp n) else none

/-- APP_DRAIN_REQUEST by an application core's own port (R505). -/
def State.appRequest (s : State) (n : Nat) : State := match s.appPolder n with
  | some _ => (s.wr pgSUP Reg.SUP.APP_PEND_PEND (withBit (s.rd pgSUP Reg.SUP.APP_PEND_PEND) n true)).agrEvent 6
  | none => s

/-- One DRAIN bit of a write to APP_CTL: a request, or its withdrawal with any drain (R32, R505). -/
def State.appDrainBit (s : State) (n : Nat) (on : Bool) : State := match s.appPolder n with
  | none => s
  | some p =>
    let x := s.polder p
    if on then s.ctlDrain p ⟨x.en, true, x.test, false⟩ false
    else
      let s := s.wr pgSUP Reg.SUP.APP_PEND_PEND (withBit (s.rd pgSUP Reg.SUP.APP_PEND_PEND) n false)
      (s.ctlDrain p ⟨x.en, false, x.test, false⟩ false).polderFollows p x.st

/-- One RELEASE bit: the core leaves its reset vector (R39, R40, R503). -/
def State.appReleaseBit (s : State) (n : Nat) : State := match s.appPolder n with
  | some p => if s.polderSt p = .ready then s.setBusy p true else s
  | none => s

/-- A write to SUP.APP_CTL by the supervisor (R319, R503, R505). -/
def State.appCtl (s : State) (drain release : Nat) : State :=
  if ¬ s.supRuns then s
  else
    let s := s.each [0, 1, 2] fun s n => s.appDrainBit n (bitOf drain n)
    s.each ([0, 1, 2].filter (bitOf release)) State.appReleaseBit

/-- PLACEMENT_EVENT and FAULT_MOVE wait while the supervisor is out or recovers; a drain of an engine is judged anew after a
fault of another has been handled (R36, R313, R318). -/
def State.trellisEvent (s : State) : State := if s.supRuns then s.placementEvent.recheckDrains else s
def State.trellisFault (s : State) (e : Nat) : State := if s.supRuns then (s.faultMoves e).recheckDrains else s

end Sys2Proof.Machine
end

