-- ==== Sys2Proof/Machine/Access.lean ====
section
/-! DEFINITION. Accesses to addressed memory by the masters that reach it, and the scrubber (R334, R337, R341 to R346). -/

namespace Sys2Proof.Machine

/-- The model's key of an address as a master sees it: each supervisor core reaches its own private memory, and S2 in compat
mode its own; none where the master has no access (R334). -/
def State.keyFor (s : State) (m : Master) (a : Nat) : Option Nat :=
  let private_ := 0x08000000 ≤ a && a < 0x08080000
  match m with
  | .core c => if c < 3 ∧ ¬ (s.compat ∧ c = 2) then (if private_ then some (a + 0x00100000 * c)
      else if a < 0x10000000 then none else some a) else none
  | .app n => if n < 2 ∨ (n = 2 ∧ s.compat) then
      (if private_ then (if n = 2 then some (a + 0x00200000) else none) else if a < 0x10000000 then none else some a) else none
  | .engine e => if e < 16 ∧ ((leBase e ≤ a ∧ a < leBase (e + 1)) ∨ (exchangeBase ≤ a ∧ a < exchangeBase + 0x4000)) then some a
      else none
  | .host => if leBase 0 ≤ a ∧ a < exchangeBase + 0x4000 then some a else none
  | .trellis => if 0x10000000 ≤ a then some a else none

/-- Who a failing line counts as found by (R349). -/
def masterFinder : Master → Finder
  | .core _ => .core | .app _ => .core | .engine _ => .engine | .host => .host | .trellis => .trellis

/-- The polder of a master, against which a closed sluice is logged (R26). -/
def masterPolder : Master → Option Nat
  | .core c => some (pdCore c) | .app n => some (pdApp n) | .engine e => some (pdLE e) | .host => some pdHIF | .trellis => none

/-- The source code that a slot write of a master carries (R107). -/
def masterSource : Master → Nat
  | .core _ => 2 | .app _ => 3 | .engine _ => 1 | .host => 4 | .trellis => 2

/-- The consequences of what a check met, beyond the line (R313, R342). -/
def State.checkFollows (s : State) (o : MemOutcome) : State := match o with
  | .imageLost l => if s.supRuns then s.imageLost l else s
  | .spmLost => if s.compat then s else s.goOut
  | .ok => s | .busError => s | .rebuilt _ => s | .waits => s

/-- Whether an access completes with data. -/
def MemOutcome.completes : MemOutcome → Bool
  | .ok => true | .rebuilt _ => true
  | .busError => false | .imageLost _ => false | .spmLost => false | .waits => false

/-- A request that meets the closed sluice of a region's polder (R24, R26). -/
def State.meetsClosed (s : State) (m : Master) (key : Nat) : Option State := match regionOf key with
  | some r =>
    let p := regionPolder r
    if s.sluicesClosed p ∧ masterPolder m ≠ some p then
      some (match masterPolder m with
        | some q => s.closedSluice q p none
        | none => s)
    else none
  | none => none

/-- A read of `size` bytes: none where it completes with an error, or not yet. An exchange slot that fails reads as zero
(R340, R342, R346). -/
def State.memRead (s : State) (m : Master) (a size : Nat) : Option Word × State := match s.keyFor m a with
  | none => (none, s)
  | some k => match s.meetsClosed m k with
    | some s => (none, s)
    | none =>
      if (regionOf k).isNone then (none, s)
      else
        let r := s.checkUnitAt k (masterFinder m)
        let s := r.2.checkFollows r.1
        let b (i : Nat) : Byte := if i < size then s.byte (k + i) else 0
        if ¬ r.1.completes then (none, s)
        else if exchangeBase ≤ k ∧ s.unitBad k then (some 0, s)
        else (some (wordOfBytes (b 0) (b 1) (b 2) (b 3)), s)

/-- The word of key `k` with `size` bytes from `k` replaced. -/
def State.mergeWord (s : State) (k size : Nat) (w : Word) : Word :=
  let old := s.mword (k / 4 * 4)
  if size = 4 then w else withBits old (8 * (k % 4)) (8 * size) w.toNat

/-- A write of `size` bytes that has reached the memory of key `k`; `voted` marks a voted supervisor write (R73, R107, R337,
R343). -/
def State.memPut (s : State) (m : Master) (voted : Bool) (k size : Nat) (w : Word) : State :=
  let bs := (List.range size).map (byteOfWord w)
  if (s.originOf k).isSome then s.reportMem .u 0xA8 k
  else match regionOf k with
    | some (.mram _) => s.mramWrite voted k bs
    | some (.engineMem e) => s.localWrite e (k - leBase e) (s.mergeWord k size w)
    | some .exchange => s.slotWrite (masterSource m) ((k - exchangeBase) / 16) ((k - exchangeBase) / 4 % 4) w
    | some (.spm _) => s.putBytes k bs
    | some (.shared _) => s.putBytes k bs
    | some (.appSram _) => s.putBytes k bs
    | none => s

/-- A write by a master that the voter does not have to issue (R308, R334). -/
def State.memWrite (s : State) (m : Master) (voted : Bool) (a size : Nat) (w : Word) : State := match s.keyFor m a with
  | none => s
  | some k => match s.meetsClosed m k with
    | some s => s
    | none => s.memPut m voted k size w

/-- SCRUB_STEP: the scrubber reads a line of a polder whose sluices are open (R345). -/
def State.scrubStep (s : State) (a : Nat) (bad : List Nat) : State :=
  let s := s.corrupt bad
  match regionOf a with
  | some (.mram _) => s
  | some r =>
    if s.rdB pgMEM Reg.MEM.SCRUB_EN ∧ ¬ s.sluicesClosed (regionPolder r) then
      let o := s.checkSram a .scrubber
      o.2.checkFollows o.1
    else s
  | none => s

/-- MRAM_SCRUB_STEP: a line of the active bank, or of the inactive one outside an update (R345). -/
def State.mramScrubStep (s : State) (a : Nat) (errs : List (Nat × Nat)) : State :=
  let s := s.corruptMram errs
  match regionOf a with
  | some (.mram b) =>
    if s.rdB pgMEM Reg.MEM.SCRUB_MEN ∧ ¬ s.sluicesClosed (pdMramA + b) ∧ (b = s.activeBank ∨ ¬ s.rdB pgMEM Reg.MEM.MRAM_STAT_UPD) then
      (s.mramRead a .scrubber).2
    else s
  | _ => s

end Sys2Proof.Machine
end

