-- ==== Sys2Proof/Machine/Faults.lean ====
section
/-! DEFINITION. The fault collector: arrival of reports, the log, class summaries, FAULT_N and reduced operation (R353 to
R368, R568). -/

namespace Sys2Proof.Machine

/-- The bit of a class in a header FLT and in FLT.SUM (R359). -/
def classBit : FaultClass → Nat
  | .c => 1 | .u => 2 | .f => 4

/-- One event of a page's EVT; its own saturation is logged once with origin 1 (R360, R361). -/
def State.countEvt (s : State) (p : Nat) : State :=
  let v := s.rd p Reg.HDR.EVT_COUNT
  if v = 0xFFFF then s
  else
    let s := s.wr p Reg.HDR.EVT_COUNT (v + 1)
    if v = 0xFFFE then (s.wrB p Reg.HDR.FLT_CNT_SAT true).reportTp .c 0xEE p 0x18 else s

/-- The page effects of a fault (R359). -/
def State.markPage (s : State) (p : Nat) (cls : FaultClass) (code : Nat) : State :=
  let s := s.setWord p 0xC (BitVec.ofNat 32 ((s.word p 0xC).toNat ||| classBit cls))
  let s := s.wr p Reg.HDR.FLT_CODE code
  if cls = .c then s.countEvt p else s

/-- The summary bit of a class (R359). -/
def State.markSum (s : State) (cls : FaultClass) : State :=
  s.setWord pgFLT 0x100 (BitVec.ofNat 32 ((s.word pgFLT 0x100).toNat ||| classBit cls))

/-- Whether a class drives FAULT_N (R363); a PIN_CLASS of 3 is undefined and leaves it to a free bit. -/
def State.pinQualifies (s : State) (cls : FaultClass) : Bool × State :=
  let lim := s.rd pgFLT Reg.FLT.PIN_CLASS_CLASS
  if lim = 3 then s.drawBit else (decide (lim < classCode cls), s)

/-- FAULT_N is driven active, or its minimum width is extended (R363). -/
def State.pinAssert (s : State) (cls : FaultClass) : State :=
  let r := s.pinQualifies cls
  if r.1 then
    { r.2 with coll := { r.2.coll with pinFrom := some r.2.now } }.wrB pgFLT Reg.FLT.PIN_SW_ACTIVE true
  else r.2

/-- Reduced operation at the arrival of a class U or F report (R365, R367, R368). -/
def State.reduce (s : State) (cls : FaultClass) : State :=
  if cls = .c then s
  else
    let s := { s with coll := { s.coll with lastArrival := s.now } }
    let red := s.rd pgFLT Reg.FLT.STAT_RED
    let level := if cls = .f then 2 else 1
    let s := s.wr pgFLT Reg.FLT.STAT_RED (max red level)
    if red = 0 ∧ max 1 (s.rd pgFLT Reg.FLT.RECOV_LIM_LIMIT) ≤ s.rd pgFLT Reg.FLT.RECOV_CNT_COUNT then
      (s.wrB pgFLT Reg.FLT.STAT_LATCHED true).reportTp .c 0xE6 pgFLT
    else s

/-- The class effects of a report at its arrival (R353, R359, R363, R365, R504). -/
def State.classEffects (s : State) (r : Report) : State :=
  let s := ((s.markPage r.page r.cls r.code).markSum r.cls).pinAssert r.cls
  let s := s.reduce r.cls
  let s := if r.cls = .c then s else s.agrEvent 0
  if r.cls = .f then s.openSto 1 else s

/-- FAULT_REPORT: report `i` of those on their way arrives. A full queue loses the report but not its effects. A report that
arrives while the device is held in reset is only logged (R355, R568, assumption 27). -/
def State.arrive (s : State) (i : Nat) (inReset : Bool) : State :=
  match s.coll.inflight[i]? with
  | none => s
  | some r =>
    let r := { r with stamp := some (r.stamp.getD s.now) }
    let s := { s with coll := { s.coll with inflight := dropAt s.coll.inflight i } }
    let s := if s.coll.queue.length < 64 then { s with coll := { s.coll with queue := s.coll.queue ++ [r] } }
      else s.count pgFLT Reg.FLT.LOST_COUNT
    if inReset then s else s.classEffects r

/-- Writes the words of a log entry at window offset `off` (R357). -/
def State.putEntry (s : State) (off : Nat) (r : Report) (seq : Nat) : State :=
  let t := r.stamp.getD 0
  let info := r.code % 256 + classCode r.cls * 2 ^ 8 + bit r.inj * 2 ^ 10 + originCode r.origin * 2 ^ 11 + (r.page % 256) * 2 ^ 16
  let w (s : State) (k v : Nat) : State := s.setWord pgFLT (winBase + off + 4 * k) (BitVec.ofNat 32 v)
  w (w (w (w (w s 0 t) 1 (t / 2 ^ 32)) 2 info) 3 r.detail) 4 seq

/-- Writes an entry into the ring, and as the first of its class since FLT.SUM was cleared into its copy (R356). -/
def State.writeEntry (s : State) (r : Report) : State :=
  let idx := s.rd pgFLT Reg.FLT.LOG_HEAD_IDX
  let seq := s.rd pgFLT Reg.FLT.LOG_SEQ_SEQ
  let s := s.putEntry (0x20 * idx) r seq
  let s := if r.cls = .u ∧ s.coll.firstU then
      { s.putEntry 0x2000 r seq with coll := { s.coll with firstU := false } } else s
  let s := if r.cls = .f ∧ s.coll.firstF then
      { s.putEntry 0x2020 r seq with coll := { s.coll with firstF := false } } else s
  (s.wr pgFLT Reg.FLT.LOG_HEAD_IDX ((idx + 1) % 256)).wr pgFLT Reg.FLT.LOG_SEQ_SEQ (seq + 1)

/-- LOG_ENTRY_WRITE: the next queued report enters the log (R355, R356). -/
def State.logNext (s : State) : State :=
  match s.coll.queue with
  | r :: rest => { s with coll := { s.coll with queue := rest } }.writeEntry r
  | [] => s

/-- FLT_SUM_CLEAR: a W1C write to FLT.SUM (R356, R359). -/
def State.clearSum (s : State) (bits : Nat) : State :=
  let v := (s.word pgFLT 0x100).toNat
  let s := s.setWord pgFLT 0x100 (BitVec.ofNat 32 (v - (v &&& (bits % 8))))
  { s with coll := { s.coll with
    firstU := s.coll.firstU || bitOf bits 1, firstF := s.coll.firstF || bitOf bits 2 } }

/-- PAGE_FLT_CLEAR: a W1C write to a header FLT; C also zeroes EVT, and CODE reads 0 once all classes are clear (R359). -/
def State.clearPageFlt (s : State) (p bits : Nat) : State :=
  let v := (s.word p 0xC).toNat
  let v := v - (v &&& (bits % 16))
  let v := if v % 8 = 0 then v % 16 else v
  let s := s.setWord p 0xC (BitVec.ofNat 32 v)
  if bitOf bits 0 then s.wr p Reg.HDR.EVT_COUNT 0 else s

/-- PIN_MINW in ticks: units of 10 µs (R380). -/
def State.pinWidth (s : State) : Nat := 3200 * clampNat 1 10000 (s.rd pgFLT Reg.FLT.PIN_MINW_W)

/-- FAULT_PIN_WIDTH_END: the minimum width ends and the pin follows LEVEL (R363). -/
def State.pinWidthEnd (s : State) : State :=
  match s.coll.pinFrom with
  | some t =>
    if s.passedRc t s.pinWidth then
      { s with coll := { s.coll with pinFrom := none } }.wrB pgFLT Reg.FLT.PIN_SW_ACTIVE (s.rdB pgFLT Reg.FLT.PIN_SW_LEVEL)
    else s
  | none => s

/-- FAULT_PIN_LEVEL_WRITE: LEVEL acts at once outside a minimum width (R363). -/
def State.pinLevel (s : State) (level : Bool) : State :=
  let s := s.wrB pgFLT Reg.FLT.PIN_SW_LEVEL level
  if s.coll.pinFrom.isSome then s else s.wrB pgFLT Reg.FLT.PIN_SW_ACTIVE level

/-- REDUCED_OPERATION_EXIT: QUIET ms have passed since the last class U or F arrival (R367). -/
def State.reducedExit (s : State) : State :=
  if s.rd pgFLT Reg.FLT.STAT_RED ≠ 0 ∧ ¬ s.rdB pgFLT Reg.FLT.STAT_LATCHED
      ∧ s.passed s.coll.lastArrival (msTicks (max 10 (s.rd pgFLT Reg.FLT.QUIET_MS))) then
    let n := s.rd pgFLT Reg.FLT.RECOV_CNT_COUNT + 1
    ((s.wr pgFLT Reg.FLT.STAT_RED 0).wr pgFLT Reg.FLT.RECOV_CNT_COUNT n).reportTp .c 0xE5 pgFLT n
  else s

end Sys2Proof.Machine
end

