-- ==== Sys2Proof/Machine/Security.lean ====
section
/-! DEFINITION. The security engine, the lifecycle and the debug port (R449 to R467, R474 to R478). -/

namespace Sys2Proof.Machine

def State.setSec (s : State) (f : Security → Security) : State := { s with sec := f s.sec }
def State.setDbg (s : State) (f : DebugPort → DebugPort) : State := { s with dbg := f s.dbg }

/-- The lifecycle state (R458) and the debug level (R463). -/
def State.lifecycle (s : State) : Nat := s.rd pgSEC Reg.SEC.LC_STATE
def State.debugLevel (s : State) : Nat := s.rd pgDBG Reg.DBG.LEVEL_LEVEL

/-- The debug level a lifecycle state starts with (R474). -/
def defaultLevel (lc : Nat) : Nat := if lc = 0 then 2 else if lc = 1 then 1 else 0

/-- Whether a root slot is programmed and not revoked; in RMA the owner slots count as revoked (R452). -/
def State.rootLive (s : State) (slot : Nat) : Bool :=
  slot < 3 && bitOf (s.rd pgSEC Reg.SEC.ROOT_PROG) slot && !bitOf (s.rd pgSEC Reg.SEC.ROOT_REVOKED) slot
    && !(s.lifecycle == 3 && slot != 0)

/-- The signers a lifecycle token needs from the present state: for RMA first an owner, then V; a revocation the other owner
slot (R459). Where the token asks for no move of the table any root counts, and the rule refuses it. -/
def State.lifecycleSigners (s : State) (target : Nat) : List Nat :=
  let lc := s.lifecycle
  if 8 ≤ target then (if target = 9 then [2] else if target = 10 then [1] else [0, 1, 2])
  else if lc = 0 ∧ target = 1 then [0]
  else if lc = 1 ∧ target = 2 then [1, 2]
  else if (lc = 1 ∨ lc = 2) ∧ target = 3 then (if s.sec.rmaOwner then [0] else [1, 2])
  else if (lc = 1 ∨ lc = 2) ∧ target = 4 then [1, 2]
  else if lc = 3 ∧ target = 4 then [0]
  else [0, 1, 2]

/-- Whether R459 has a row for what a lifecycle token asks for. -/
def State.lifecycleAllowed (s : State) (target : Nat) : Bool :=
  let lc := s.lifecycle
  if 8 ≤ target then (target == 9 || target == 10) && (lc == 1 || lc == 2)
  else (lc == 0 && target == 1) || (lc == 1 && target == 2 && bitOf (s.rd pgSEC Reg.SEC.ROOT_PROG) 1)
    || ((lc == 1 || lc == 2) && (target == 3 || target == 4)) || (lc == 3 && target == 4)

/-- The root slots that may sign an object of a class (R453, R459, R465). -/
def State.signers (s : State) (cls target : Nat) : List Nat :=
  if cls = 0 then [0]
  else if cls = 1 ∨ cls = 2 ∨ cls = 4 then [1, 2]
  else if cls = 3 then [0, 1, 2]
  else if cls = 5 then (if s.lifecycle = 0 ∨ s.lifecycle = 3 then [0] else if s.lifecycle = 4 then [] else [1, 2])
  else s.lifecycleSigners target

/-- Fields of a package header of which the first five words are given (R451, R559). -/
def pkgClass (h : List Word) : Nat := bitsAt (h.getD 1 0) 0 8
def pkgSvn (h : List Word) : Nat := bitsAt (h.getD 1 0) 8 8
def pkgFlags (h : List Word) : Nat := bitsAt (h.getD 1 0) 16 16

/-- The first step of R454 that an object fails, 0 none. -/
def State.verify (s : State) (h : List Word) (space : Nat) (f : SecFacts) : Nat :=
  let cls := pkgClass h
  let len := (h.getD 2 0).toNat
  let own := h.getD 3 0 == s.word pgSEC 0x130 && h.getD 4 0 == s.word pgSEC 0x134
  if h.getD 0 0 ≠ 0xA9C35E01 ∨ 6 < cls ∨ space < 0x100 + len + 3060 then 1
  else if ¬ ((s.signers cls f.target).contains f.slot ∧ s.rootLive f.slot) then 2
  else if bitOf (pkgFlags h) 0 ∧ ¬ own then 3
  else if cls ≤ 4 ∧ pkgSvn h < s.rd pgSEC (Reg.SEC.ARB_VALUE cls) then 4
  else if 5 ≤ cls ∧ ¬ f.challenge then 4
  else if ¬ f.ecdsa then 5 else if ¬ f.hss then 6 else 0

/-- Every failure of verification is logged (R454). -/
def State.logVerify (s : State) (cls step : Nat) : State :=
  if step = 0 then s
  else if step = 4 then (if cls ≤ 4 then s.reportFab .u 0xC1 pgSEC cls else s)
  else s.reportFab .u 0xC0 pgSEC cls

/-- SEC.STAT.RESULT (R477). -/
def State.secResult (s : State) (r : Nat) : State := s.wr pgSEC Reg.SEC.STAT_RESULT r

/-- A request reaches the engine, or finds it failed (R31, R450, R477). -/
def State.secSubmit (s : State) (r : SecRequest) : State :=
  if s.polderSt pdSecurity = .failed then s.secResult 10
  else s.setSec fun x => { x with queue := x.queue ++ [r] }

/-- A refused unlock token: the third in a power cycle locks out (R465). -/
def State.unlockRefused (s : State) : State :=
  let n := s.rd pgDBG Reg.DBG.STAT_FAILS
  let s := (s.wr pgDBG Reg.DBG.STAT_FAILS (min 3 (n + 1))).reportFab .u 0xC3 pgDBG
  if 2 ≤ n ∧ ¬ s.rdB pgDBG Reg.DBG.STAT_LOCKOUT then (s.wrB pgDBG Reg.DBG.STAT_LOCKOUT true).reportFab .u 0xC4 pgDBG else s

/-- SEC_UNLOCK_TOKEN and TAP_UNLOCK: a token is submitted; while locked out it is refused at once (R465). -/
def State.submitUnlock (s : State) (token : List Word) : State :=
  if s.rdB pgDBG Reg.DBG.STAT_LOCKOUT then (s.secResult 8).reportFab .u 0xC3 pgDBG
  else if s.polderSt pdSecurity = .failed then s.secResult 10
  else (s.secSubmit { kind := .unlock, token := token }).wrB pgDBG Reg.DBG.STAT_BUSY true

/-- The header words of the token in the input buffer (R477). -/
def State.bufferToken (s : State) : List Word := (List.range 5).map fun k => tabGet (fun _ => 0) s.sec.window (4 * k)

/-- SEC_ATTEST: refused within ATT_GAP of the last accepted one, without leaves, or without keys (R460 to R462). -/
def State.attest (s : State) : State :=
  let lc := s.lifecycle
  if s.polderSt pdSecurity = .failed then s.secResult 10
  else if s.sec.attestAt.any fun t => !s.passed t (msTicks (s.rd pgSEC Reg.SEC.ATT_GAP_MS)) then
    (s.secResult 9).reportFab .c 0xCE pgSEC
  else if s.rd pgSEC Reg.SEC.LMS_REMAIN_COUNT = 0 then (s.secResult 8).reportFab .u 0xCA pgSEC
  else if lc = 0 ∨ lc = 3 then s.secResult 8
  else (s.secSubmit { kind := .attest }).setSec fun x => { x with attestAt := some s.now }

/-- The image slots marked verified (R152). -/
def State.slotVerified (s : State) (k : Nat) : Bool :=
  bitsAt (s.word pgTRL (if k < 32 then 0x150 else 0x154)) (k % 32) 1 == 1

/-- The SVN of the verified package of a class in the active bank; for loop images the lowest of any verified slot, none
where nothing is verified (R336, R456). -/
def State.verifiedSvn (s : State) (cls : Nat) : Option Nat :=
  let svnAt (a : Nat) : Nat := (s.byte (a + 5)).toNat
  if cls = 3 then ((List.range 64).filter s.slotVerified).foldl
    (fun m k => some (min (m.getD 255) (svnAt (s.slotBase k)))) none
  else if s.sec.verified.contains cls then
    some (svnAt (mramBase s.activeBank + (if cls = 0 then 0 else if cls = 1 then Config.hookPackage else if cls = 2 then 0x400000 else 0xC00000)))
  else none

/-- SEC_ADVANCE_COUNTER by a voted supervisor write, or by another master (R319, R456). -/
def State.advanceCounter (s : State) (voted : Bool) (cls value : Nat) : State :=
  if ¬ voted ∨ ¬ s.supRuns then s.reportFab .c 0xC8 pgSEC
  else if s.polderSt pdSecurity = .failed then s.secResult 10
  else if 4 < cls ∨ value < s.rd pgSEC (Reg.SEC.ARB_VALUE cls) ∨ ¬ (s.verifiedSvn cls).any (fun v => decide (value ≤ v)) then
    (s.secResult 8).reportFab .c 0xC8 pgSEC
  else s.secSubmit { kind := .advance, cls := cls, value := value }

/-- The rank of a kind among waiting requests (R450). -/
def secRank : SecKind → Nat
  | .lifecycle => 0 | .unlock => 1 | .attest => 2 | .image => 3 | .bank => 3 | .advance => 3

/-- The request that is served next: the first of the lowest rank. -/
def nextRequest (q : List SecRequest) : Option SecRequest :=
  q.foldl (fun best r => match best with
    | some b => if secRank r.kind < secRank b.kind then some r else some b
    | none => some r) none

/-- SEC_REQUEST_START (R450). -/
def State.secStart (s : State) : State :=
  if s.sec.run.isSome ∨ s.polderSt pdSecurity = .failed then s
  else match nextRequest s.sec.queue with
    | none => s
    | some r => (s.setSec fun x => { x with queue := x.queue.erase r, run := some r }).wrB pgSEC Reg.SEC.STAT_BUSY true

/-- The request in progress ends (R504). -/
def State.secEnd (s : State) : State :=
  ((s.setSec fun x => { x with run := none }).wrB pgSEC Reg.SEC.STAT_BUSY false).agrEvent 7

/-- Four free words: a new challenge (R464). -/
def State.newChallenge (s : State) : State := s.each (List.range 4) fun s k =>
  let d := s.drawWord
  d.2.setWord pgDBG (0x110 + 4 * k) d.1

/-- The level is OPEN in FIELD: SG0 to SG3 are forced Off (R475). -/
def State.levelForces (s : State) : State :=
  if s.debugLevel = 2 ∧ s.lifecycle = 2 ∧ ¬ s.rdB pgDBG Reg.DBG.STAT_FORCED then
    (s.each [0, 1, 2, 3] State.forceOff).wrB pgDBG Reg.DBG.STAT_FORCED true
  else s

/-- Whether R465 accepts the level and TEST flag of a verified token. -/
def State.unlockAllowed (s : State) (level : Nat) (test : Bool) : Bool := match s.lifecycle with
  | 0 => test
  | 1 => (level == 1 || level == 2) && !test
  | 2 => (level == 1 || level == 2) && !test
  | 3 => (level == 1 || level == 2) && (!test || level == 2)
  | _ => false

/-- Factory test mode begins: injection is armed (R378, R465). -/
def State.armTest (s : State) : State :=
  let s := s.wrB pgDBG Reg.DBG.STAT_TEST true
  if s.rdB pgFLT Reg.FLT.INJ_STAT_ARMED then s
  else (s.wrB pgFLT Reg.FLT.INJ_STAT_ARMED true).reportFab .c 0xE7 pgFLT

/-- An unlock token has been verified (R454, R464, R465, R475). -/
def State.unlockDone (s : State) (r : SecRequest) (f : SecFacts) : State :=
  let step := s.verify r.token 0x1000 f
  let level := pkgFlags r.token / 2 % 4
  let test := bitOf (pkgFlags r.token) 3
  let ok := step = 0 ∧ pkgClass r.token = 5 ∧ s.unlockAllowed level test
  let s := (s.logVerify (pkgClass r.token) step).wrB pgDBG Reg.DBG.STAT_BUSY false
  let s := s.newChallenge
  if ok then
    let s := s.wr pgDBG Reg.DBG.LEVEL_LEVEL (max s.debugLevel (if s.lifecycle = 0 then 0 else level))
    let s := if test then s.armTest else s
    ((s.secResult 1).reportFab .c 0xC2 pgDBG level).levelForces
  else (s.secResult (if step = 0 then 8 else step + 1)).unlockRefused

/-- A lifecycle or revocation token has been verified (R454, R459). -/
def State.lifecycleDone (s : State) (r : SecRequest) (f : SecFacts) : State :=
  let step := s.verify r.token 0x1000 f
  let s := s.logVerify (pkgClass r.token) step
  if step ≠ 0 ∨ pkgClass r.token ≠ 6 ∨ ¬ s.lifecycleAllowed f.target then
    (s.secResult (if step = 0 then 8 else step + 1)).reportFab .u 0xC6 pgSEC
  else
    let s := if 8 ≤ f.target then s.orBits pgSEC Reg.SEC.ROOT_REVOKED (2 ^ (f.target - 8))
      else if f.target = 3 ∧ ¬ s.sec.rmaOwner then s.setSec fun x => { x with rmaOwner := true }
      else s.wr pgSEC Reg.SEC.LC_PEND f.target
    (s.secResult 1).reportFab .c 0xC5 pgSEC (if 8 ≤ f.target then f.target - 8 else f.target)

/-- An attestation: its leaf is used up, and the report lies in the output buffer (R461, R462). -/
def State.attestDone (s : State) (f : SecFacts) : State :=
  let left := s.rd pgSEC Reg.SEC.LMS_REMAIN_COUNT
  if left = 0 then (s.secResult 8).reportFab .u 0xCA pgSEC
  else
    let s := s.wr pgSEC Reg.SEC.LMS_REMAIN_COUNT (left - 1)
    let s := if left = 4097 then s.reportFab .c 0xC9 pgSEC else s
    let words := (List.range (min 1024 f.report.length)).map fun k => (0x1000 + 4 * k, f.report.getD k 0)
    (s.setSec fun x => { x with window := tabPutAll (fun _ => 0) x.window words }).secResult 1

/-- The packages a bank must hold: those of classes 0, 2 and 4 that the list lacks count as failing step 1 (R455). -/
def bankPackages (ps : List (Nat × Nat)) : List (Nat × Nat) :=
  ps ++ ([0, 2, 4].filter fun c => !ps.any (·.1 == c)).map fun c => (c, 1)

/-- The inactive bank has been verified (R455, R493). -/
def State.bankDone (s : State) (f : SecFacts) : State :=
  let bad := (bankPackages f.packages).filter (·.2 != 0)
  let s := s.each bad fun s p => (s.logVerify p.1 p.2).reportFab .u 0xCD pgSEC p.1
  match bad with
  | [] => (s.wr pgSEC Reg.SEC.UPD_STAT_RESULT 2).wrB pgPWR
      (if s.activeBank = 0 then Reg.PWR.BOOT_VALID_B else Reg.PWR.BOOT_VALID_A) true
  | (c, _) :: _ => (s.wr pgSEC Reg.SEC.UPD_STAT_RESULT 3).wr pgSEC Reg.SEC.UPD_STAT_CLASS c

/-- SEC_REQUEST_COMPLETE: the engine records the result (R450, R454 to R462). -/
def State.secComplete (s : State) (f : SecFacts) : State := match s.sec.run with
  | none => s
  | some r => match r.kind with
    | .unlock => (s.unlockDone r f).secEnd
    | .lifecycle => (s.lifecycleDone r f).secEnd
    | .attest => (s.attestDone f).secEnd
    | .bank => (s.bankDone f).secEnd
    | .advance => (((s.wr pgSEC (Reg.SEC.ARB_VALUE r.cls) r.value).secResult 1).reportFab .c 0xC7 pgSEC r.cls).secEnd
    | .image => s

/-- IMG_CMD OP 1 with the engine's request for the package (R146, R450). -/
def State.imageStore (s : State) (k : Nat) : State :=
  let t := s.imgStore k
  if s.trl.job.isNone ∧ t.trl.job.isSome then t.secSubmit { kind := .image } else t

/-- IMAGE_STORE_COMPLETE: what the engine found of the package decides with the checks of R82 (R31, R146, R454). -/
def State.imageStored (s : State) (f : SecFacts) : State :=
  if s.polderSt pdSecurity = .failed then
    (s.setSec fun x => { x with queue := x.queue.filter (·.kind != .image) }).imgStored 6
  else match s.sec.run, s.trl.job with
  | some r, some j =>
    if r.kind ≠ .image then s
    else
      let h := (List.range 5).map fun k => s.mword (j.src + 4 * k)
      let step := if pkgClass h = 3 then s.verify h 0x8000 f else 1
      ((s.logVerify 3 step).imgStored (if step = 0 then 0 else if step = 4 then 4 else 3)).secEnd
  | _, _ => s

/-- MRAM_UPDATE_OPEN: the inactive bank is no longer valid nor preferred (R337, R493). -/
def State.openUpdate (s : State) : State :=
  let inactive := 1 - s.activeBank
  let s := s.updOpen.wrB pgPWR (if inactive = 0 then Reg.PWR.BOOT_VALID_A else Reg.PWR.BOOT_VALID_B) false
  if s.rd pgPWR Reg.PWR.BOOT_PREF = inactive then
    (s.wr pgPWR Reg.PWR.BOOT_PREF s.activeBank).wrB pgPWR Reg.PWR.BOOT_CONF true
  else s

/-- MRAM_UPDATE_CLOSE: the update ends, and the verification of the inactive bank begins (R337, R455). -/
def State.closeUpdate (s : State) : State :=
  if ¬ s.rdB pgMEM Reg.MEM.MRAM_STAT_UPD then s
  else
    let s := s.wrB pgMEM Reg.MEM.MRAM_STAT_UPD false
    if s.polderSt pdSecurity = .failed then s.wr pgSEC Reg.SEC.UPD_STAT_RESULT 3
    else (s.secSubmit { kind := .bank }).wr pgSEC Reg.SEC.UPD_STAT_RESULT 1

/-- Whether the debug port is reachable: in BOOT and RESET only for IDCODE and CHAL, in SLEEP and OFF not at all (R473,
R474). -/
def State.tapReach (s : State) (early : Bool) : Bool :=
  let st := s.rd pgPWR Reg.PWR.STAT_STATE
  if st = 2 ∨ st = 3 then false else if s.pwr.inReset ∨ st = 4 then early else true

/-- A TAP instruction is selected. -/
def State.tapSelect (s : State) (t : TapInstr) : State := s.setDbg fun d => { d with tap := t, driving := decide (t = .extest) }

/-- TAP_IDCODE returns the device identification (R463). -/
def State.tapIdcode (s : State) : State :=
  if s.tapReach true then (s.tapSelect .idcode).reply Config.idcode else s

/-- TAP_BYPASS (R463). -/
def State.tapBypass (s : State) : State := if s.tapReach false then s.tapSelect .bypass else s

/-- TAP_CHAL returns a word of the current challenge (R464). -/
def State.tapChal (s : State) (k : Nat) : State :=
  if s.tapReach true then (s.tapSelect .chal).reply (s.word pgDBG (0x110 + 4 * (k % 4))) else s

/-- TAP_UNLOCK shifts in a token (R465). -/
def State.tapUnlock (s : State) (token : List Word) : State :=
  if s.tapReach false then (s.tapSelect .unlock).submitUnlock (token.take 5) else s

/-- Whether boundary scan is permitted: OPEN in MFG and RMA (R463). -/
def State.scanAllowed (s : State) : Bool := s.tapReach false && s.debugLevel == 2 && (s.lifecycle == 0 || s.lifecycle == 3)

/-- TAP_EXTEST drives pins from the boundary-scan register; TAP_SAMPLE captures levels into it (R463). -/
def State.tapExtest (s : State) (bits : Nat) : State :=
  if s.scanAllowed then (s.tapSelect .extest).setDbg fun d => { d with scan := bits } else s
def State.tapSample (s : State) (levels : Nat) : State :=
  if s.scanAllowed then (s.tapSelect .sample).setDbg fun d => { d with scan := levels } else s

/-- Whether a debug session is active: status-word DBG_ACTIVE (R463). -/
def State.debugActive (s : State) : Bool := s.rd pgDBG Reg.DBG.STAT_SESS != 0 || s.rdB pgDBG Reg.DBG.STAT_LE

/-- Whether the debug module of a core is reachable: under Replay only that of S0 among voting cores (R320, R474). -/
def State.moduleReach (s : State) (k : Nat) : Bool :=
  let pw := s.rd pgPWR Reg.PWR.STAT_STATE
  (pw == 0 || pw == 1) && !s.pwr.inReset && 1 ≤ s.debugLevel && k < 6
    && !((k == 1 || (k == 2 && !s.compat)) && s.rd pgSUP Reg.SUP.DBG_POLICY_POLICY == 0)

/-- DEBUG_SESSION_START: dmactive of module `k` (0 to 2 S0 to S2, 3 and 4 P0 and P1), or 5 loop-engine debug access (R463). -/
def State.sessionStart (s : State) (k : Nat) : State :=
  if ¬ s.moduleReach k then s
  else
    let was := s.debugActive
    let s := if k = 5 then s.wrB pgDBG Reg.DBG.STAT_LE true
      else s.orBits pgDBG Reg.DBG.STAT_SESS (2 ^ k)
    if was then s else s.reportFab .c 0xCC pgDBG (bitsAt (s.word pgDBG 0x104) 1 6)

/-- Whether a debug module belongs to a supervisor core. -/
def State.supModule (s : State) (k : Nat) : Bool := k < 2 || (k == 2 && !s.compat)

/-- Whether a debug session on a supervisor core is active. -/
def State.supSession (s : State) : Bool := (List.range 3).any fun k => s.supModule k && bitOf (s.rd pgDBG Reg.DBG.STAT_SESS) k

/-- A committed DBG_POLICY takes effect once no session on the supervisor cores is active (chapter 9, before R320). -/
def State.policyTakes (s : State) : State := match s.dbg.policyDue with
  | some v => if s.supSession then s else (s.setDbg fun d => { d with policyDue := none }).wr pgSUP Reg.SUP.DBG_POLICY_POLICY v
  | none => s

/-- DEBUG_SESSION_END (R463). -/
def State.sessionEnd (s : State) (k : Nat) : State :=
  if k = 5 then s.wrB pgDBG Reg.DBG.STAT_LE false
  else if k < 5 then (s.wr pgDBG Reg.DBG.STAT_SESS (withBit (s.rd pgDBG Reg.DBG.STAT_SESS) k false)).policyTakes
  else s

/-- Whether module `k` has an active session that may act at OPEN (R463). -/
def State.mayDebug (s : State) (k : Nat) : Bool :=
  s.moduleReach k && s.debugLevel == 2 && bitOf (s.rd pgDBG Reg.DBG.STAT_SESS) k

/-- DEBUG_BREAK: the first halt or abstract command that reaches a supervisor core under Break (R321). -/
def State.debugBreak (s : State) : State :=
  if s.broke then s
  else
    let s := s.setSup fun u => { u with voting := [], queue := [], history := [], access := [], digests := [], resync := [] }
    let s := (s.wrB pgSUP Reg.SUP.STAT_DBG_BROKE true).wr pgSUP Reg.SUP.STAT_MODE 3
    (s.reportFab .u 0x86 pgSUP).pinSourceSwitch.each [0, 1, 2, 3] State.forceOff

def State.breakHalt (s : State) (k : Nat) : State :=
  if s.mayDebug k ∧ s.supModule k ∧ s.rd pgSUP Reg.SUP.DBG_POLICY_POLICY = 1 then s.debugBreak else s

/-- DEBUG_HALT: S0 under Replay with the cores that follow it, or an application core (R320, R463). -/
def State.debugHalt (s : State) (k : Nat) : State :=
  if ¬ s.mayDebug k then s
  else if s.supModule k then
    if s.rd pgSUP Reg.SUP.DBG_POLICY_POLICY = 0 ∧ k = 0 then s.setSup fun u => { u with halted := true }
    else s.breakHalt k
  else s.setDbg fun d => { d with appHalted := insertNat k d.appHalted }

/-- DEBUG_RESUME of a halted core; a single step halts it again (R320). -/
def State.debugResume (s : State) (k : Nat) (step : Bool) : State :=
  if ¬ s.mayDebug k ∨ step then s
  else if s.supModule k then s.setSup fun u => { u with halted := false }
  else s.setDbg fun d => { d with appHalted := d.appHalted.filter (· ≠ k) }

/-- DEBUG_LEVEL_LOWER: halted cores resume, and holds are removed (R466, R475). -/
def State.lowerLevel (s : State) (level : Nat) : State :=
  if s.debugLevel ≤ level then s
  else
    let s := (s.wr pgDBG Reg.DBG.LEVEL_LEVEL level).wrB pgDBG Reg.DBG.STAT_FORCED false
    let s := (s.setSup fun u => { u with halted := false }).setDbg fun d => { d with appHalted := [] }
    s.each loopIds fun s l => if (s.loop l).held467 then s.setLoop l { s.loop l with held467 := false } else s

/-- LE_DEBUG_SNAPSHOT and LE_DEBUG_HOLD as the level allows (R467). -/
def State.debugSnapshot (s : State) (l : Nat) : State :=
  if s.rdB pgDBG Reg.DBG.STAT_LE ∧ 1 ≤ s.debugLevel then s.snapshotLoop l else s
def State.debugHold (s : State) (l : Nat) (on : Bool) : State :=
  if s.rdB pgDBG Reg.DBG.STAT_LE ∧ s.debugLevel = 2 then s.holdLoop l on else s

/-- A word of the SEC window as it reads; the public keys exist in PROV, FIELD and END only (R460, R477). -/
def State.secWord (s : State) (off : Nat) : Word × State :=
  if off < 0x2000 then (tabGet (fun _ => 0) s.sec.window (off / 4 * 4), s)
  else if s.lifecycle = 0 ∨ s.lifecycle = 3 then s.drawWord
  else (Config.deviceKey (off / 4 - 0x800), s)

/-- A write to the SEC window reaches the input buffer (R477). -/
def State.secPut (s : State) (off : Nat) (w : Word) : State :=
  if off < 0x1000 then s.setSec fun x => { x with window := tabPut (fun _ => 0) x.window (off / 4 * 4) w } else s

end Sys2Proof.Machine
end

