-- ==== Sys2Proof/Machine/Startup.lean ====
section
/-! DEFINITION. Resets, boot, power states, supply monitors and watchdogs (R335, R364, R371 to R377, R468 to R473, R483 to R493,
R565, R566, R568). -/

namespace Sys2Proof.Machine

def State.setPwr (s : State) (f : Power → Power) : State := { s with pwr := f s.pwr }

/-- PWR.STAT.STATE (R468). -/
def State.powerState (s : State) : Nat := s.rd pgPWR Reg.PWR.STAT_STATE
def State.setPowerState (s : State) (k : Nat) : State := s.wr pgPWR Reg.PWR.STAT_STATE k

/-- The words that OTP and the boot record hold, which nothing loses (R452, R456, R458, R462, R489): the SEC page but for its
status and ATT_GAP. -/
def otpWord (p off : Nat) : Bool := p == pgSEC && 0x108 ≤ off && off ≤ 0x124

/-- The words a device reset keeps (R375): the fault log with its first copies and indexes, RST_REC and RST_AT, and the TP
page's STAT, CTL and XLOSS_AT. -/
def resetKeeps (p off : Nat) : Bool :=
  otpWord p off
    || (p == pgFLT && (winBase ≤ off || off == 0x124 || off == 0x128))
    || (p == pgDIKE && (off == 0x124 || off == 0x128 || off == 0x12C))
    || (p == pgTP && 0x108 ≤ off && off ≤ 0x114)

/-- The words SLEEP keeps (R471): of those of a reset all but the TP page's, with FLT.SUM, FLT.STAT, RECOV_CNT and the PWR
page. -/
def sleepKeeps (p off : Nat) : Bool :=
  (resetKeeps p off && p != pgTP) || (p == pgFLT && (off == 0x100 || off == 0x104 || off == 0x10C)) || (p == pgPWR && 0x100 ≤ off)

/-- The registers of which a predicate keeps the words. -/
def keepRegs (t : Tab Word) (keep : Nat → Nat → Bool) : Tab Word := t.filter fun e => keep (keyPage e.1) (keyOff e.1)

/-- The part of memory that is MRAM (R336). -/
def mramCells (m : List Host.Cell) : List Host.Cell := tabSlice m 0x10000000 0x12000000

/-- The state in which everything volatile but some registers is gone: MRAM stays, SRAM is zeroed when boot comes to it (R335),
and what stays beyond its reset value owes the ledger a push. -/
def State.volatileLost (s : State) (keep : Nat → Nat → Bool) : State :=
  let regs := keepRegs s.regs keep
  { regs := regs
    pushes := (regs.map Prod.fst).filter fun k => keyOff k < 0x1000
    mem := mramCells s.mem
    chk := { mramErr := s.chk.mramErr }
    now := s.now, fresh := s.fresh, answer := s.answer, pending := s.pending }

/-- The boot record and a lifecycle change survive and take effect (R459, R489). -/
def State.bootRecord (s old : State) : State :=
  let rec0 := old.word pgPWR 0x11C
  let s := s.setWord pgPWR 0x11C (withBits (withBits 0 4 4 (bitsAt rec0 4 4)) 8 2 (bitsAt rec0 8 2))
  s.wr pgSEC Reg.SEC.LC_STATE (old.rd pgSEC Reg.SEC.LC_PEND)

/-- The crowbar latch survives a device reset and SLEEP (R226, R375, R471). -/
def State.keepCrowbar (s old : State) : State := if old.crowbar then s.wrB (pgSG 5) Reg.SGC.STAT_CB_LATCH true else s

/-- What a device reset leaves (R374, R375, R566): STO open, every leg off, the kept words, the moves of the time plane in
progress, and the collector's reports until it stops (R568). -/
def State.deviceCleared (s : State) (cause : Nat) : State :=
  let level := s.debugLevel
  let t := ((s.volatileLost resetKeeps).bootRecord s).keepCrowbar s
  let t := { t with
    coll := { inflight := s.coll.inflight, queue := s.coll.queue, held := s.coll.held, stopped := s.coll.stopped }
    tp := { switching := s.tp.switching, lossAt := s.tp.lossAt, lossInjected := s.tp.lossInjected, returning := s.tp.returning
            refPasses := s.tp.refPasses, lost := s.tp.lost } }
  t.wr pgDBG Reg.DBG.LEVEL_LEVEL (if cause = 6 then level else defaultLevel t.lifecycle)

/-- A device reset begins: its cause and start are recorded; one of a supply monitor stops the PLL. While a reset is in
progress no other is recorded (R374, R381, R485). -/
def State.beginReset (s : State) (cause : Nat) : State :=
  if s.pwr.inReset ∨ s.pwr.dikeLost then s
  else
    let count := satNat 16 (s.rd pgDIKE Reg.DIKE.RST_REC_COUNT + 1)
    let s := s.deviceCleared cause
    let s := ((s.wr pgDIKE Reg.DIKE.RST_REC_CAUSE cause).wrB pgDIKE Reg.DIKE.RST_REC_HELD5 false).wr pgDIKE Reg.DIKE.RST_REC_COUNT count
    let s := s.wrStamp pgDIKE Reg.DIKE.RST_AT_L_STAMP Reg.DIKE.RST_AT_H_STAMP s.now
    let s := if cause = 3 then s.wrB pgTP Reg.TP.STAT_PLL_LOCK false else s
    s.setPwr fun _ => { inReset := true, cause := cause, resetAt := s.now }

/-- COLLECTOR_STOP: 3 µs after the reset began, and once every report of the Dike and the time plane has been written (R568). -/
def State.collectorStop (s : State) : State :=
  let due := s.coll.inflight.any fun r => r.origin == .dike || r.origin == .timePlane
  if s.pwr.inReset ∧ ¬ s.coll.stopped ∧ ¬ due ∧ s.coll.queue.isEmpty
      ∧ (s.passedRc s.pwr.resetAt 960 ∨ ¬ s.rdB pgTP Reg.TP.STAT_PLL_LOCK) then
    { s with coll := { s.coll with inflight := [], stopped := true } }
  else s

/-- A log entry of the reset record, with the effects of R568 and no others. -/
def State.resetEntry (s : State) (cls : FaultClass) (code detail stamp : Nat) : State :=
  let s := (s.markSum cls).markPage pgDIKE cls code
  s.writeEntry { code := code, cls := cls, page := pgDIKE, detail := detail, origin := .resetRecord, stamp := some stamp }

/-- The stamp of the reset record (R381). -/
def State.resetStamp (s : State) : Nat := s.rd pgDIKE Reg.DIKE.RST_AT_L_STAMP + 2 ^ 32 * s.rd pgDIKE Reg.DIKE.RST_AT_H_STAMP

/-- COLLECTOR_RESTART: the collector runs again and logs the reset, or the wake (R375, R471, R566, R568). -/
def State.collectorRestart (s : State) : State :=
  if s.pwr.inReset ∨ ¬ s.coll.stopped then s
  else
    let t := s.resetStamp
    let held := s.coll.held
    let owesReset := s.pwr.owesReset
    let owesWake := s.pwr.owesWake
    let s := { s with coll := { s.coll with stopped := false, held := [] } }.setPwr fun p => { p with owesReset := false, owesWake := false }
    let s := if owesReset then s.resetEntry .c 0xE2 (s.rd pgDIKE Reg.DIKE.RST_REC_CAUSE) t else s
    let s := if owesReset ∧ s.rdB pgDIKE Reg.DIKE.RST_REC_HELD5 then s.resetEntry .u 0xE3 0 t else s
    let s := if owesWake then s.reportDike .c 0xDC pgPWR (s.rd pgPWR Reg.PWR.WAKE_SRC_SRC) else s
    { s with coll := { s.coll with inflight := s.coll.inflight ++ held } }

/-- The polders that have no CTL of their own come into service when reset is released: the private memories, the host
interface, the memories, the banks and the security engine (R32, R503, assumption 37). -/
def bootPolders : List Nat := [0x15, 0x16, 0x17, pdHIF] ++ (List.range 12).map (0x30 + ·)

/-- Reset is released, and boot begins: COMPAT_AX5 is sampled three times, and a challenge is generated (R464, R487 step 3,
R488). The collector has stopped by then. -/
def State.bootStart (s : State) (c0 c1 c2 : Bool) : State :=
  let s := if s.pwr.cause = 1 then s else { s with coll := { s.coll with inflight := [], queue := [], stopped := true } }
  let s := s.setPwr fun p => { p with inReset := false, pllStarts := false, owesReset := p.owesReset || (p.inReset && p.cause != 1) }
  let s := s.wrB pgPWR Reg.PWR.BOOT_COMPAT ((c0 && c1) || (c0 && c2) || (c1 && c2))
  let s := s.wr pgDBG Reg.DBG.LEVEL_LEVEL (if s.pwr.cause = 6 then s.debugLevel else defaultLevel s.lifecycle)
  (s.each bootPolders State.enablePolder).newChallenge

/-- RESET_RELEASE of a reset with cause 4, 5 or 6, 10 µs after its start (R565). -/
def State.resetRelease (s : State) (c0 c1 c2 : Bool) : State :=
  if s.pwr.inReset ∧ 4 ≤ s.pwr.cause ∧ ¬ s.pwr.pinLow ∧ s.rdB pgTP Reg.TP.STAT_PLL_LOCK ∧ s.passedRc s.pwr.resetAt 3200 then
    s.bootStart c0 c1 c2
  else s

/-- RESET_PIN_ASSERT: the pin is accepted low (R376). -/
def State.pinAssertReset (s : State) : State :=
  if s.pwr.pinLow ∨ s.pwr.dikeLost then s
  else
    let s := s.beginReset 2
    s.setPwr fun p => { p with pinLow := true, pinAt := s.now }

/-- RESET_HELD_5S: HELD5 is set, and FAULT_N becomes active (R364, R376). -/
def State.resetHeld (s : State) : State :=
  if s.pwr.pinLow ∧ s.pwr.inReset ∧ s.passedRc s.pwr.pinAt 1600000000 then
    (s.wrB pgDIKE Reg.DIKE.RST_REC_HELD5 true).wrB pgFLT Reg.FLT.PIN_SW_ACTIVE true
  else s

/-- RESET_PIN_RELEASE: FAULT_N is released, and boot follows where the PLL is locked (R364, R376). -/
def State.pinReleaseReset (s : State) (c0 c1 c2 : Bool) : State :=
  if ¬ s.pwr.pinLow then s
  else
    let s := (s.setPwr fun p => { p with pinLow := false }).wrB pgFLT Reg.FLT.PIN_SW_ACTIVE false
    if s.pwr.inReset ∧ s.rdB pgTP Reg.TP.STAT_PLL_LOCK ∧ (s.pwr.cause < 4 ∨ s.passedRc s.pwr.resetAt 3200) then s.bootStart c0 c1 c2 else s

/-- SUPPLY_VALID: the PLL starts (R487 step 2). -/
def State.supplyValid (s : State) : State :=
  if s.pwr.inReset ∧ ¬ s.pwr.dikeLost ∧ ¬ s.rdB pgTP Reg.TP.STAT_PLL_LOCK then s.setPwr fun p => { p with pllStarts := true } else s

/-- PLL_LOCK: TP_NOW starts, or resumes with the ticks the Dike has counted across the stop, and boot begins unless RESET_N is
held (R66, R67, R485, R487 step 3). -/
def State.pllLock (s : State) (carried : Nat) (c0 c1 c2 : Bool) : State :=
  if ¬ s.pwr.pllStarts then s
  else
    let s := s.wrB pgTP Reg.TP.STAT_PLL_LOCK true
    let s := if s.pwr.cause = 1 ∨ carried = 0 then s
      else { s with now := stampAdd s.now carried }.wrB pgTP Reg.TP.STAT_SLEEP_ADJ true
    if s.pwr.pinLow then s.setPwr fun p => { p with pllStarts := false } else s.bootStart c0 c1 c2

/-- The choice of the boot bank: the bank first tried, and the record before verification (R490). -/
def State.trialBank (s : State) : Nat × State :=
  let pref := s.rd pgPWR Reg.PWR.BOOT_PREF
  if s.rdB pgPWR Reg.PWR.BOOT_CONF then (pref, s)
  else if s.rd pgPWR Reg.PWR.BOOT_TRIES = 0 then
    (1 - pref, (((s.wr pgPWR Reg.PWR.BOOT_PREF (1 - pref)).wrB pgPWR Reg.PWR.BOOT_CONF true).wr pgPWR Reg.PWR.BOOT_RESULT 2).reportDike
      .c 0xD3 pgPWR (pref * 16 + 2))
  else (pref, s)

/-- The bank whose class 0 package verifies, with the steps of R454 that the tried and the other bank's fail; none with
neither (R490, R491). -/
def State.chooseBank (s : State) (tried other : Nat) : Option Nat × State :=
  let b := s.trialBank
  let s := b.2
  if tried = 0 then
    (some b.1, if s.rd pgPWR Reg.PWR.BOOT_RESULT = 2 then s else s.wr pgPWR Reg.PWR.BOOT_RESULT 1)
  else
    let s := s.logVerify 0 tried
    if other = 0 then
      let s := (s.wr pgPWR Reg.PWR.BOOT_PREF (1 - b.1)).wrB pgPWR Reg.PWR.BOOT_CONF true
      (some (1 - b.1), (s.wr pgPWR Reg.PWR.BOOT_RESULT 2).reportDike .c 0xD3 pgPWR (b.1 * 16 + 1))
    else (none, (s.logVerify 0 other).wr pgPWR Reg.PWR.BOOT_RESULT 3)

/-- The step a class's package fails in a list of results; a package that is missing fails step 1. -/
def stepOf (rs : List (Nat × Nat)) (cls : Nat) : Nat := ((rs.find? (·.1 == cls)).map (·.2)).getD 1

/-- The rest of the bank is verified after release: hooks, application firmware, data region and slots (R454, R492). -/
def State.verifyRest (s : State) (classes slots : List (Nat × Nat)) : State :=
  let s := if stepOf classes 1 = 0 then s else s.setSup fun u => { u with hookOff := true }
  let s := s.each (classes.filter fun r => r.1 == 1) fun s r => s.logVerify 1 r.2
  let s := s.logVerify 2 (stepOf classes 2)
  let s := s.logVerify 4 (stepOf classes 4)
  let s := s.setSec fun x => { x with verified := [0] ++ [1, 2, 4].filter fun c => stepOf classes c == 0 }
  let s := if stepOf classes 2 = 0 then
      (s.wrB pgPWR Reg.PWR.BOOT_APP true).each ([0x13, 0x14] ++ (if s.compat then [0x12] else [])) State.enablePolder else s
  let s := s.wrB pgPWR Reg.PWR.BOOT_DATA (stepOf classes 4 == 0)
  s.each slots fun s r => if r.1 < 64 ∧ r.2 = 0 then s.markSlot r.1 true else s.logVerify 3 r.2

/-- SUPERVISOR_RELEASE: the bank is chosen, the supervisor runs, and the rest of the bank is verified (R487 to R492). -/
def State.supervisorRelease (s : State) (tried other : Nat) (classes slots : List (Nat × Nat)) : State :=
  if s.pwr.inReset ∨ ¬ s.rdB pgTP Reg.TP.STAT_PLL_LOCK ∨ s.powerState ≠ 4 ∨ s.supMode ≠ 3 ∨ s.broke ∨ s.pwr.noImage
      ∨ s.rd pgPWR Reg.PWR.BOOT_RESULT ≠ 0 then s
  else
    let conf := s.rdB pgPWR Reg.PWR.BOOT_CONF
    let tries := s.rd pgPWR Reg.PWR.BOOT_TRIES
    let b := s.chooseBank tried other
    match b.1 with
    | none => b.2.setPwr fun p => { p with noImage := true }
    | some bank =>
      let s := if conf ∨ tries = 0 then b.2 else b.2.wr pgPWR Reg.PWR.BOOT_TRIES (tries - 1)
      let s := (s.wr pgMEM Reg.MEM.MRAM_STAT_ACTIVE bank).wr pgPWR Reg.PWR.BOOT_BANK bank
      let cores := if s.compat then [0x10, 0x11] else [0x10, 0x11, 0x12]
      let s := s.each cores fun s p => (s.enablePolder p).setBusy p true
      let s := if s.compat then s.wr pgSUP Reg.SUP.STAT_MODE 2
        else (s.setSup fun u => { u with voting := [0, 1, 2] }).wr pgSUP Reg.SUP.STAT_MODE 0
      s.verifyRest classes slots

/-- The first valid heartbeat ends BOOT (R468, R487 step 9). -/
def State.heartbeatRow (s : State) (seq : Nat) : State :=
  let was := s.wd.armed
  let t := s.heartbeatWrite seq
  if ¬ was ∧ t.wd.armed ∧ t.powerState = 4 then (t.setPowerState 1).agrEvent 8 else t

/-- Everything is lost but MRAM, OTP and the boot record: the Dike's own reset (R66, R375). -/
def State.dikeCleared (s : State) : State :=
  let t := (s.volatileLost otpWord).bootRecord s
  { t with now := 0 }

/-- DIKE_SUPPLY_LOSS and DIKE_POWER_ON (R375, R486). -/
def State.dikeLoss (s : State) : State := s.dikeCleared.setPwr fun p => { p with dikeLost := true }
def State.dikePowerOn (s : State) : State := if s.pwr.dikeLost then s.dikeCleared else s

/-- A refused power request (R469). -/
def State.powerRefuse (s : State) (reason : Nat) : State :=
  ((s.wr pgPWR Reg.PWR.STAT_REFUSE reason).reportDike .c 0xDB pgPWR reason).agrEvent 8

/-- The reason to refuse a power request, 0 none (R469). -/
def State.powerReason (s : State) (dest : Nat) : Nat :=
  let from_ := s.powerState
  if s.pwr.inReset ∨ s.pwr.target.isSome then 4
  else if from_ = 0 ∧ dest = 1 then (if allStages.all s.stageOff then 0 else 1)
  else if from_ = 1 ∧ dest = 0 then 0
  else if from_ = 1 ∧ (dest = 2 ∨ dest = 3) then
    if s.debugActive then 2 else if ¬ s.stoOpen then 3
    else if dest = 2 ∧ (s.rdB pgMEM Reg.MEM.MRAM_STAT_UPD ∨ s.sec.run.isSome) then 5 else 0
  else 4

/-- A write of PWR.REQ (R469, R476). -/
def State.powerRequest (s : State) (dest : Nat) : State :=
  let s := s.wrB pgPWR Reg.PWR.STAT_ABORT false
  let reason := s.powerReason dest
  if reason ≠ 0 then s.powerRefuse reason
  else s.setPwr fun p => { p with target := some dest }

/-- Loop engines and converters are off in STANDBY; one that has failed stays so (R468, R470). -/
def State.standbyPolders (s : State) : State :=
  s.each (List.range 16 ++ (List.range 6).map (0x18 + ·)) fun s p =>
    let x := s.polder p
    if x.st = .off ∨ x.st = .failed then s
    else s.setPolder p { x with st := .off, drain := false, test := false, blkrst := false, testAfter := false, busy := false }

/-- STANDBY is reached: Trellis removes every placed loop, and engine local memory is not retained (R470). -/
def State.enterStandby (s : State) : State :=
  let s := s.cancelGraft 5 (s.trl.graftLoops.headD 0)
  let s := s.each loopIds fun s l =>
    let x := s.loop l
    if x.placed then s.setLoop l { x with state := if x.gone then .disabled else .suspended, desc := x.next.getD x.desc
                                          move := none, graft := none, fallback := none, fbLoaded := false, held := [], next := none }
    else s
  let s := s.each allEngines fun s e => (s.setEng e {}).zeroMem (leBase e) 0x20000
  let s := { s with convs := [], waitingSeqs := [], guards := [] }
  (s.standbyPolders.showPlacement).setPowerState 1

/-- RUN is reached: engines and converters come back, and every enabled loop is placed anew (R469, R470). -/
def State.enterRun (s : State) : State :=
  let s := s.setPowerState 0
  let s := s.each (List.range 16 ++ (List.range 6).map (0x18 + ·)) fun s p =>
    let x := s.polder p
    if x.en ∧ x.st = .off then s.enablePolder p else s
  let s := s.each loopIds fun s l =>
    let x := s.loop l
    if x.placed then s else s.setLoop l { skips := x.skips, moves := x.moves }
  s.queueEvent (.commit [])

/-- SLEEP is reached: the clock stops, and what R471 names is kept. -/
def State.enterSleep (s : State) : State :=
  let t := ((s.volatileLost sleepKeeps).setWord pgPWR 0x11C (s.word pgPWR 0x11C)).keepCrowbar s
  let t := { t with
    staged := s.staged.filter fun e => keyPage e.1 == pgPWR
    coll := { firstU := s.coll.firstU, firstF := s.coll.firstF, lastArrival := s.coll.lastArrival, stopped := true } }
  (t.setPwr fun _ => { inReset := false, cause := 0 }).setPowerState 2

/-- OFF: only the WAKE pin detector is supplied (R468, R486). -/
def State.enterOff (s : State) : State :=
  let t := s.dikeCleared.setWord pgPWR 0x10C (s.word pgPWR 0x10C)
  t.setPowerState 3

/-- POWER_STATE_REACHED (R469, R504). -/
def State.powerReached (s : State) : State := match s.pwr.target with
  | none => s
  | some dest =>
    let s := s.setPwr fun p => { p with target := none }
    if dest = 0 then s.enterRun.agrEvent 8
    else if dest = 1 then s.enterStandby.agrEvent 8
    else if dest = 2 then s.enterSleep
    else s.enterOff

/-- WAKE_EVENT: sources detected, with the ticks the Dike has counted since the clock stopped. During entry it cancels; in
SLEEP it boots; in OFF the pin leads to a Dike power-on reset (R67, R471 to R473). -/
def State.wakeEvent (s : State) (sources ticks : Nat) : State :=
  let src := sources % 2 ^ 7 &&& s.rd pgPWR Reg.PWR.WAKE_EN_EN
  if src = 0 then s
  else if s.pwr.target = some 2 then
    (((s.setPwr fun p => { p with target := none }).wrB pgPWR Reg.PWR.STAT_ABORT true).reportDike .c 0xDA pgPWR).agrEvent 8
  else if s.powerState = 2 then
    let s := { s with now := stampAdd s.now ticks }.wrB pgTP Reg.TP.STAT_SLEEP_ADJ true
    let s := (s.wr pgPWR Reg.PWR.WAKE_SRC_SRC src).wrB pgPWR Reg.PWR.WAKE_SRC_VALID true
    let s := s.setWord pgPWR 0x11C (withBits (withBits 0 4 4 (bitsAt (s.word pgPWR 0x11C) 4 4)) 8 2 (bitsAt (s.word pgPWR 0x11C) 8 2))
    ((s.setPwr fun p => { p with pllStarts := true, owesWake := true }).setPowerState 4).agrEvent 8
  else if s.powerState = 3 ∧ bitOf src 0 then s.dikeCleared
  else s

/-- WAKE_TIMER_EXPIRY (R472). -/
def State.wakeTimer (s : State) (ticks : Nat) : State :=
  if s.powerState = 2 ∧ 97 * 320000000 * max 1 (s.rd pgPWR Reg.PWR.WAKE_TMR_S) ≤ 100 * ticks then s.wakeEvent 0x40 ticks else s

/-- SLEEP_VBAT_LOW (R486). -/
def State.sleepLow (s : State) : State := if s.powerState = 2 then s.enterOff else s

/-- Whether the supply and temperature monitors run (R483, R486). -/
def State.monitorsRun (s : State) : Bool := s.powerState != 2 && s.powerState != 3 && !s.pwr.dikeLost

/-- A monitor finds a condition, once per excursion: its bit, its fault with its detail, and STO where the row opens it
(R483). -/
def State.monitor (s : State) (f : Field) (cls : FaultClass) (code detail : Nat) (sto : Bool) : State :=
  if ¬ s.monitorsRun ∨ s.rdB pgPWR f then s
  else
    let s := (s.wrB pgPWR f true).reportDike cls code pgPWR detail
    if sto then s.openSto 7 else s

/-- VM leaves or re-enters its window: the integrated legs follow (R484). -/
def State.showIntegrated (s : State) : State := s.each allStages State.showLegs
def State.vmMonitor (s : State) (f : Field) (detail : Nat) : State :=
  (s.monitor f .u 0xD1 detail false).showIntegrated

/-- RAIL_OUT_OF_WINDOW of rail 6 to 9, and the reset 1 ms after STO has opened (R483). -/
def State.railFault (s : State) (rail : Nat) : State :=
  if s.monitorsRun ∧ s.pwr.railAt = none ∧ 6 ≤ rail ∧ rail ≤ 9 then
    (s.reportDike .f 0xD2 pgPWR rail).setPwr fun p => { p with railAt := some s.now }
  else s
def State.railReset (s : State) : State := match s.pwr.railAt with
  | some t => if s.stoOpen ∧ s.passedRc t (msTicks 1) then s.beginReset 3 else s
  | none => s

/-- VBAT_BROWN_OUT, VBAT_OVERVOLTAGE and JUNCTION_SHUTDOWN (R483, R485). -/
def State.supplyReset (s : State) : State := if s.monitorsRun then s.beginReset 3 else s
def State.junctionShutdown (s : State) : State :=
  if s.monitorsRun ∧ ¬ s.pwr.inReset then (s.reportDike .f 0xD2 pgPWR 10).beginReset 3 else s

/-- SUPPLY_MONITOR_END of the condition of SUPPLY bit `k`: both bits of a high VBAT end together (R483, R484). -/
def State.monitorEnd (s : State) (k : Nat) : State :=
  let s := if k < 8 then s.wr pgPWR ⟨Reg.PWR.SUPPLY_VBAT_WARN.off, k, 1⟩ 0 else s
  let s := if k = 2 ∨ k = 3 then (s.wrB pgPWR Reg.PWR.SUPPLY_VBAT_HIGH false).wrB pgPWR Reg.PWR.SUPPLY_VBAT_LONG false else s
  if k = 4 ∨ k = 5 then s.showIntegrated else s

/-- SUPPLY_MEASUREMENT_UPDATE (R495). -/
def State.measurements (s : State) (vbat vm tj : Word) : State :=
  if s.monitorsRun then ((s.setWord pgPWR 0x128 vbat).setWord pgPWR 0x12C vm).setWord pgPWR 0x130 tj else s

/-- RESET_COMMAND with its key, the delayed reset after a heartbeat loss, and the debug reset (R373, R374, R463). -/
def State.resetCommand (s : State) (key : Nat) : State := if key = 0xC3A5 then s.beginReset 4 else s
def State.watchdogReset (s : State) : State :=
  if s.wd.resetDue ∧ s.passedRc s.wd.lostAt (msTicks (max 1 (s.rd pgDIKE Reg.DIKE.WD_RST_DLY))) then s.beginReset 5 else s
def State.debugReset (s : State) : State := if s.tapReach false ∧ s.debugLevel = 2 then s.beginReset 6 else s

/-- BOOT_PREFER and BOOT_CONFIRM by the supervisor, and BOOT_READY (R319, R493, R495). -/
def State.bootPrefer (s : State) : State :=
  let other := 1 - s.activeBank
  if ¬ s.supRuns then s
  else if s.rdB pgPWR (if other = 0 then Reg.PWR.BOOT_VALID_A else Reg.PWR.BOOT_VALID_B) then
    ((s.wr pgPWR Reg.PWR.BOOT_PREF other).wrB pgPWR Reg.PWR.BOOT_CONF false).wr pgPWR Reg.PWR.BOOT_TRIES 3
  else (s.wr pgPWR Reg.PWR.STAT_REFUSE 6).reportDike .c 0xDB pgPWR 6
def State.bootConfirm (s : State) : State :=
  if s.supRuns ∧ s.rd pgPWR Reg.PWR.BOOT_PREF = s.activeBank then s.wrB pgPWR Reg.PWR.BOOT_CONF true else s
def State.bootReady (s : State) : State := if s.supRuns then s.wrB pgPWR Reg.PWR.BOOT_READY true else s

/-- Whether the watchdog of application core `n` is enabled (R371). -/
def State.appWatched (s : State) (n : Nat) : Bool := bitOf (s.rd pgDIKE Reg.DIKE.APP_WD_EN) n && (n < 2 || (n == 2 && s.compat))

/-- APP_KICK by core `n`: the first after enable arms its window; one more than the stamp is kept, 0 for a window that is not
armed (R371). -/
def State.appKick (s : State) (n : Nat) : State :=
  if s.appWatched n then { s with wd := { s.wd with
    appFrom := putAt s.wd.appFrom n (s.now + 1), appExpired := putAt s.wd.appExpired n false } } else s

/-- APP_WATCHDOG_EXPIRY (R371). -/
def State.appExpiry (s : State) (n : Nat) : State :=
  let t := s.wd.appFrom.getD n 0
  if s.appWatched n ∧ t ≠ 0 ∧ ¬ s.wd.appExpired.getD n false
      ∧ s.passedRc (t - 1) (msTicks (clampNat 1 1000 (s.rd pgDIKE Reg.DIKE.APP_WD_MS))) then
    ({ s with wd := { s.wd with appExpired := putAt s.wd.appExpired n true } }.reportDike .u 0xE1 pgDIKE n).appStalled
  else s

end Sys2Proof.Machine
end

