-- ==== Sys2Proof/Machine/Staging.lean ====
section
/-! DEFINITION. Staged registers: stage windows, written marks, INCLUDE and DISCARD, and the snapshot of a commit (R388 to
R395, R400). -/

namespace Sys2Proof.Machine

/-- The RWS bits of a word (R388). -/
def rwsMask (k : Nat) : Word := BitVec.ofNat 32 (accessMask .rws k)

/-- The entries of a table that belong to page `p`. -/
def pageSlice {α : Type} (t : Tab α) (p : Nat) : Tab α := tabSlice t (p * 0x2000000) ((p + 1) * 0x2000000)

/-- A staged copy is written: its mark and INCLUDE are set, and a commit in progress leaves both as they then stand (R389,
R394, R400). -/
def State.touchStage (s : State) (k : Nat) : State :=
  let p := keyPage k
  let st := s.rd pgSYS Reg.SYS.COMMIT_STAT_STATE
  let s := { s with marks := insertNat k s.marks }.wrB p Reg.HDR.STG_INCLUDE true
  if (st = 1 ∨ st = 2) ∧ s.commit.pages.contains p then
    { s with commit := { s.commit with later := insertNat p s.commit.later, laterMarks := insertNat k s.commit.laterMarks } }
  else s

/-- A write to the staged copy of the word at offset `off` of page `p`, a window word at `winBase` and above: only its RWS
fields are held (R388, R389, R393). A word without RWS fields has no staged side. -/
def State.stagePut (s : State) (p off : Nat) (w : Word) : State :=
  let k := regKey p off
  if rwsMask k = 0 then s
  else { s with
    staged := tabPut stagedReset s.staged k (w &&& rwsMask k)
    pushes := if off < 0x700 ∧ s.stagedWord p off ≠ w &&& rwsMask k then insertNat (k + 0x800) s.pushes else s.pushes }.touchStage k

/-- STAGE_DISCARD: the live RWS values go to the staged copies; marks and INCLUDE of the page clear (R390). -/
def State.stageDiscard (s : State) (p : Nat) : State :=
  let live := (pageSlice s.regs p).map fun e => (e.1, e.2 &&& rwsMask e.1)
  let staged := tabPutAll stagedReset (tabClear s.staged (p * 0x2000000) ((p + 1) * 0x2000000)) live
  let changed := ((pageSlice s.staged p).map (·.1) ++ live.map (·.1)).filter fun k =>
    keyOff k < 0x700 && tabGet stagedReset s.staged k != tabGet stagedReset staged k
  let drop (ks : List Nat) : List Nat := ks.filter fun k => keyPage k != p
  let s := { s with staged := staged, pushes := changed.foldl (fun ks k => insertNat (k + 0x800) ks) s.pushes, marks := drop s.marks
                    commit := { s.commit with laterMarks := drop s.commit.laterMarks } }
  s.wrB p Reg.HDR.STG_INCLUDE false

/-- STAGE_INCLUDE_WRITE (R389). -/
def State.stageInclude (s : State) (p : Nat) (on : Bool) : State := s.wrB p Reg.HDR.STG_INCLUDE on

/-- The pages of the part. -/
def allPages : List Nat := (List.range 256).filter fun p => (pageType p).isSome

/-- The result of a commit reaches COMMIT_STAT and sets agreement event 1 (R404, R504). -/
def State.commitState (s : State) (st : Nat) : State := (s.wr pgSYS Reg.SYS.COMMIT_STAT_STATE st).agrEvent 1

/-- COMMIT: a write of SYS.COMMIT.KEY. Another value has no effect; during a commit the write is ignored; without a running
supervisor it is not evaluated; else the included pages are taken as the snapshot (R313, R318, R394, R395). -/
def State.commitWrite (s : State) (key : Nat) : State :=
  let st := s.rd pgSYS Reg.SYS.COMMIT_STAT_STATE
  if key ≠ 0x5A17 then s
  else if st = 1 ∨ st = 2 then s.wrB pgSYS Reg.SYS.COMMIT_STAT_IGN true
  else if ¬ s.supRuns then s.commitState 5
  else
    let pages := allPages.filter fun p => s.rdB p Reg.HDR.STG_INCLUDE
    let s := { s with commit := {
      pages := pages, values := s.staged.filter fun e => pages.contains (keyPage e.1)
      marks := s.marks.filter fun k => pages.contains (keyPage k) } }
    s.setWord pgSYS Reg.SYS.COMMIT_STAT_STATE.off 1

/-- The words a snapshot may change, and the value each takes: its RWS bits from the snapshot, the others as they are (R396,
R400). -/
def State.proposedWords (s : State) : Tab Word :=
  let keys := s.commit.pages.flatMap fun p => (pageSlice s.commit.values p).map (·.1) ++ (pageSlice s.regs p).map (·.1)
  (keys.filter fun k => rwsMask k != 0).map fun k =>
    (k, (tabGet regReset s.regs k &&& ~~~ rwsMask k) ||| (tabGet stagedReset s.commit.values k &&& rwsMask k))

/-- The proposed state of R396: the snapshot's values in the included pages, and all else as it is. -/
def State.proposed (s : State) : State := { s with regs := tabPutAll regReset s.regs s.proposedWords }

/-- The snapshot's values become live (R400). -/
def State.takeValues (s : State) : State :=
  s.each s.proposedWords fun s e => if tabGet regReset s.regs e.1 = e.2 then s else s.setWord (keyPage e.1) (keyOff e.1) e.2

/-- Whether the snapshot writes a word: its mark is set (R161, R389). -/
def State.markedWord (s : State) (p off : Nat) : Bool := s.commit.marks.contains (regKey p off)

/-- The marks and INCLUDE bits of the snapshot clear, but for what was staged after it (R400). -/
def State.endSnapshot (s : State) : State :=
  let c := s.commit
  let s := { s with marks := s.marks.filter fun k => !c.pages.contains (keyPage k) || c.laterMarks.contains k }
  let s := s.each (c.pages.filter fun p => !c.later.contains p) fun s p => s.wrB p Reg.HDR.STG_INCLUDE false
  { s with commit := {} }

end Sys2Proof.Machine
end

