-- ==== Sys2Proof/Machine/Checks.lean ====
section
/-! DEFINITION. The consistency checks CK-01 to CK-24 of a commit (R396 to R398). Each check is given the proposed state, in
which modes, polders, rates and verified slots are the present ones (R398), and answers the page and item of its first
failure. -/

namespace Sys2Proof.Machine

/-- The first element with a fault, as page and item. -/
def firstBad {α : Type} (xs : List α) (bad : α → Bool) (place : α → Nat × Nat) : Option (Nat × Nat) := (xs.find? bad).map place

/-- The first failure of two parts of a check. -/
def orBad (a b : Option (Nat × Nat)) : Option (Nat × Nat) := match a with
  | some x => some x
  | none => b

/-- The marked mode request of a stage, none where the commit writes none (R161). -/
def State.requested (q : State) (st : Nat) : Option Nat :=
  if q.markedWord (pgSG st) Reg.SGT.MODE_REQ_MODE.off then some (q.rd (pgSG st) Reg.SGT.MODE_REQ_MODE) else none

/-- MODE of a Run request (R162, R192, R234). -/
def runCode (st : Nat) : Nat := if isTraction st then 2 else if isConversion st then 3 else 1

/-- Whether a stage is outside Off or has Run staged. -/
def State.outOrRun (q : State) (st : Nat) : Bool := !q.stageOff st || q.requested st == some (runCode st)

/-- Whether a commit leaves a stage outside Off as its legs' check sees it: a traction stage by any request for another mode
too (R154, R174, R529). -/
def State.leavesOff (q : State) (st : Nat) : Bool := q.outOrRun st || (isTraction st && (q.requested st).any (· != 0))

/-- A channel page among those R397 lets a failed count of legs report (assumption 39). -/
def State.someChannel (q : State) : Nat := channelPages.getD ((Config.freeWord q.fresh).toNat % 39) 0

/-- The legs a stage's kind requires (R529). -/
def legsNeeded (st : Nat) : Nat := if isTraction st then 6 else if st = 2 then 3 else if isConversion st then 4 else 3

/-- CK-01: every leg has a stage of its type, and every stage that leaves Off has exactly the legs it requires (R154, R528,
R529). -/
def State.ck01 (q : State) : Option (Nat × Nat) :=
  orBad (firstBad channelPages (fun p => 10 ≤ q.owner p || isXh p != decide (q.owner p < 5)) fun p => (p, 0))
    (firstBad allStages (fun st => q.leavesOff st && (q.legs st).length != legsNeeded st) fun _ => (q.someChannel, 0))

/-- The least dead time of a sink step in ns (R254). -/
def minDead (step : Nat) : Nat := [820, 420, 290, 220, 155, 120, 100, 90, 70, 60, 55, 50, 45, 40, 40, 35].getD step 0

/-- CK-02 (R254, R264). -/
def State.ck02 (q : State) : Option (Nat × Nat) :=
  orBad (firstBad xhPages (fun p => q.rd p Reg.XH.DT_NS < 20) fun p => (p, 0))
    (firstBad ihPages (fun p => q.rd p Reg.IH.DT_NS < minDead (q.rd p Reg.IH.CFG_SINK_STEP)) fun p => (p, 0))

/-- The least period of a stage in edge units (R397). -/
def minPeriod (st : Nat) : Nat :=
  if isTraction st then 128000 else if st = 2 then 45715 else if st = 5 then 16000 else if isConversion st then 32000 else 64000

/-- CK-03 (R155, R204, R216, R221, R248). -/
def State.ck03 (q : State) : Option (Nat × Nat) :=
  firstBad allStages (fun st =>
    let t := q.periodReg st
    t < minPeriod st || 1600000 < t || (st == 5 && t % 4 != 0)) fun st => (pgSG st, 0)

/-- Whether a stage updates twice a period: traction stages alone do (R156). -/
def State.doubleUpdate (q : State) (st : Nat) : Bool := isTraction st && q.rdB (pgSG st) Reg.SGT.TCFG_UPDATE

/-- CK-04 (R156, R290). -/
def State.ck04 (q : State) : Option (Nat × Nat) :=
  orBad (firstBad (List.range 12) (fun ch => q.rdB pgSD (Reg.SD.CFG_SYNC ch)
      && q.periodReg (q.rd pgSD (Reg.SD.CFG_STAGE ch)) % (320 * q.sdOsr ch) != 0) fun ch => (pgSD, ch))
    (firstBad allStages (fun st =>
      let n := q.rd (pgSG st) Reg.SGT.SAMP_OFFSET
      q.periodReg st ≤ if q.doubleUpdate st then 2 * n else n) fun st => (pgSG st, 0))

/-- The loops a proposed state enables. -/
def State.enabledLoops (q : State) : List Nat := loopIds.filter fun l => descEn (q.liveDesc l)

/-- CK-05 (R82, R146). -/
def State.ck05 (q : State) : Option (Nat × Nat) :=
  firstBad q.enabledLoops (fun l => !q.slotVerified (descImg (q.liveDesc l))) fun l => (pgTRL, l)

/-- The loop that could not be placed and the order it failed, none where the placement meets R124 (R128). -/
def State.placeFailure (q : State) : Option (Nat × Nat) := match q.placeCommit with
  | .error x => some x
  | .ok _ => none

/-- CK-06 and CK-07 (R128). -/
def State.ck06 (q : State) : Option (Nat × Nat) := (q.placeFailure.filter (·.2 ≠ 4)).map fun x => (pgTRL, x.1)
def State.ck07 (q : State) : Option (Nat × Nat) := (q.placeFailure.filter (·.2 = 4)).map fun x => (pgTRL, x.1)

/-- Whether a handle bound as an input is defined and names an enabled object (R99, R186, R228, R247, R289). -/
def State.inputOk (q : State) (h : Nat) : Bool :=
  h < 0x400 || (0x1000 ≤ h && h < 0x1060) || (0x1100 ≤ h && h < 0x110C && q.sdOn (h - 0x1100))
    || ((h == 0x1200 || h == 0x1210) && q.rdB (pgRD 0) Reg.RD.CFG_EN) || ((h == 0x1201 || h == 0x1211) && q.rdB (pgRD 1) Reg.RD.CFG_EN)
    || (0x1220 ≤ h && h < 0x1223 && q.rdB pgENC Reg.ENC.CFG_EN)
    || (0x1300 ≤ h && h < 0x13A0 && h % 16 < (if isActuation ((h - 0x1300) / 16) then 6 else 8))

/-- Whether a handle bound as an output is defined, and names no output that the stage logic owns (R99, R186, R216, R228,
R247). -/
def State.outputOk (q : State) (h : Nat) : Bool :=
  h < 0x400
    || (match pulseOutput h with
      | some (p, _) => !(3 ≤ q.owner p && q.owner p ≤ 5)
      | none => false)
    || (0x2200 ≤ h && h < 0x22A0 && h % 16 < (if isTraction ((h - 0x2200) / 16) then 13 else 1))

/-- Whether the handles and the sample set of a descriptor are valid (R99, R119, R277). -/
def State.bindingsOk (q : State) (d : List Word) : Bool :=
  let k := descImg d
  let ains := boundAins d (q.imgIns k)
  (boundIns d (q.imgIns k)).all q.inputOk && (boundOuts d (q.imgOuts k)).all q.outputOk
    && (descSrc d != 1 || (!ains.isEmpty && (q.setEvents ains).length == 1))

/-- Whether a set of a traction stage has its first two current inputs bound (R174). -/
def State.setBound (q : State) (st set : Nat) : Bool := q.iphAin st set 0 != 0x7F && q.iphAin st set 1 != 0x7F

/-- CK-08. The rule names a page of TRL or SA; the page of a traction set without its inputs is free (assumption 39). -/
def State.ck08 (q : State) : Option (Nat × Nat) :=
  let free := Config.freeWord q.fresh
  orBad (firstBad q.enabledLoops (fun l => !q.bindingsOk (q.liveDesc l)) fun l => (pgTRL, l))
    (orBad (firstBad [0, 1] (fun st => q.leavesOff st && !(q.setBound st 0 && q.setBound st 1))
        fun _ => (bitsAt free 0 8, bitsAt free 8 8))
      (firstBad (allSeqs.filter q.seqOn) (fun i => (q.seqEntries i).any fun a => a / 16 != i.conv) fun i => (pgSA i.conv, i.k)))

/-- CK-09 (R98, R109). -/
def State.ck09 (q : State) : Option (Nat × Nat) :=
  let outs (l : Nat) : List Nat := boundOuts (q.liveDesc l) (q.imgOuts (descImg (q.liveDesc l)))
  firstBad q.enabledLoops (fun l => q.enabledLoops.any fun m => decide (m < l) && (outs m).any (outs l).contains) fun l => (pgTRL, l)

/-- What CK-10 requires of a voltage stage outside Off or with Run staged (R201). -/
def State.windowsOk (q : State) (st : Nat) : Bool :=
  let v (f : Field) : Word := q.sgw st f
  fpLt (v Reg.SGC.VIN_MIN_V) (v Reg.SGC.VIN_MAX_V) && fpLt (v Reg.SGC.REF_TGT_VALUE) (v Reg.SGC.OUT_OV_V)
    && (st != 5 || fpLt (v Reg.SGC.OUT_OV_V) (v Reg.SGC.CROWBAR_V))
    && (st != 4 || fpLe (v Reg.SGC.OUT_OV_V) (fpOfInt (if q.rdB (pgSG 4) Reg.SGC.CCFG_LV_BUS then 60 else 18)))

/-- The voltage stages. -/
def voltageStages : List Nat := [2, 3, 4, 5]

/-- CK-10 (R201, R293). -/
def State.ck10 (q : State) : Option (Nat × Nat) :=
  orBad (firstBad (List.range 12) (fun ch => q.rdB pgSD (Reg.SD.CFG_OC_EN ch)
      && !(q.rd pgSD (Reg.SD.WARN_WARN ch) < q.rd pgSD (Reg.SD.OC_TRIP ch)
        && q.rd pgSD (Reg.SD.OC_TRIP ch) < q.rd pgSD (Reg.SD.OC_HARD ch))) fun ch => (pgSD, ch))
    (firstBad voltageStages (fun st => q.outOrRun st && !q.windowsOk st) fun st => (pgSG st, 0))

/-- Whether a rate is finite and greater than 0. -/
def rateOk (w : Word) : Bool := fpIsFinite w && fpLt 0 w

/-- CK-11 (R201). -/
def State.ck11 (q : State) : Option (Nat × Nat) :=
  firstBad voltageStages (fun st => q.outOrRun st && !(rateOk (q.sgw st Reg.SGC.RAMP_UP_RATE) && rateOk (q.sgw st Reg.SGC.RAMP_DN_RATE)))
    fun st => (pgSG st, 0)

/-- CK-12 (R187). -/
def State.ck12 (q : State) : Option (Nat × Nat) :=
  firstBad [0, 1] (fun st => q.rd (pgSG st) Reg.SGT.SPD_LIM_CATCH_MAX < q.rd (pgSG st) Reg.SGT.REV_REV_SPD) fun st => (pgSG st, 0)

/-- CK-13, as TMAX × DEC ≥ 1000 × NMAX (R328). -/
def State.ck13 (q : State) : Option (Nat × Nat) :=
  firstBad [0, 1] (fun st => q.rd pgSAF (Reg.SAF.SS_TIME_TMAX st) * q.rd pgSAF (Reg.SAF.SS_DEC_DEC st)
    < 1000 * q.rd pgSAF (Reg.SAF.SS_NMAX_NMAX st)) fun st => (pgSAF, st)

/-- CK-14 (R326). -/
def State.ck14 (q : State) : Option (Nat × Nat) :=
  if q.rd pgSAF Reg.SAF.STO_TP_WIDTH < q.rd pgSAF Reg.SAF.STO_TP_RIDE then none else some (pgSAF, 0)

/-- The interval at which a sequence is triggered, in edge units; none for software (R276). -/
def State.seqInterval (q : State) (i : SeqId) : Option Nat :=
  if q.seqSrc i = 0 then some (q.periodReg (q.seqStage i) / if q.doubleUpdate (q.seqStage i) then 2 else 1)
  else if q.seqSrc i = 1 then some (6400 * q.seqUs i)
  else none

/-- CK-15 (R276). -/
def State.ck15 (q : State) : Option (Nat × Nat) :=
  firstBad (allSeqs.filter q.seqOn) (fun i =>
    let n := (q.seqEntries i).length
    n == 0 || (q.seqInterval i).any fun t => decide (t < 20 * n * (q.acqTicks i.conv + 32))) fun i => (pgSA i.conv, i.k)

/-- CK-16 (R294). -/
def State.ck16 (q : State) : Option (Nat × Nat) :=
  firstBad [0, 1] (fun n => q.rdB (pgRD n) Reg.RD.CFG_EN
    && (q.rd (pgRD n) Reg.RD.EXC_HZ < 4000 || 20000 < q.rd (pgRD n) Reg.RD.EXC_HZ)) fun n => (pgRD n, 0)

/-- CK-17 (R258). A REF_INT below 10 µs acts as 10 µs where a pulse is timed; the check compares the field. -/
def State.ck17 (q : State) : Option (Nat × Nat) :=
  firstBad ihPages (fun p => q.rdB p Reg.IH.CFG_REF_EN
    && (q.rd p Reg.IH.CFG_SRC_STEP < 3 || 150 < q.rd p Reg.IH.DT_NS || q.rd p Reg.IH.BOOT_REF_INT < 10)) fun p => (p, 0)

/-- CK-18: CROWBAR ≥ 1.1 × REF_TGT and a pin threshold of 0.5 to 3.2 V, compared exactly (R225). -/
def State.ck18 (q : State) : Option (Nat × Nat) :=
  let cb := q.sgw 5 Reg.SGC.CROWBAR_V
  let ref := q.sgw 5 Reg.SGC.REF_TGT_VALUE
  let div := q.sgw 5 Reg.SGC.CB_DIV_RATIO
  let ok := fpIsFinite cb && fpIsFinite ref && fpIsFinite div && fpLt 0 div && decide (11 * fpFixed ref ≤ 10 * fpFixed cb)
    && decide (5 * fpFixed div ≤ 10 * fpFixed cb) && decide (10 * fpFixed cb ≤ 32 * fpFixed div)
  if q.outOrRun 5 ∧ ¬ ok then some (pgSG 5, 0) else none

/-- Whether a stage's present mode allows a request (R162, R192, R234). -/
def State.requestAllowed (q : State) (st m : Nat) : Bool :=
  if isTraction st then q.tracAllowed st m else if isConversion st then q.convAllowed st m else q.actAllowed st m

/-- CK-19. -/
def State.ck19 (q : State) : Option (Nat × Nat) :=
  firstBad allStages (fun st => (q.requested st).any fun m => !q.requestAllowed st m) fun st => (pgSG st, 0)

/-- Whether the curve of a stage is valid (R246). -/
def State.curveOk (q : State) (st : Nat) : Bool :=
  let n := q.rd (pgSG st) Reg.SGA.CURVE_NPTS
  let speedOk (w : Word) : Bool := fpIsFinite w && fpLe 0 w
  decide (2 ≤ n ∧ n ≤ 16) && ((List.range (n - 1)).all fun i => fpLt (q.curveX st i) (q.curveX st (i + 1)))
    && ((List.range n).all fun i => speedOk (q.curveY st i)) && speedOk (q.sgw st Reg.SGA.FAIL_SPD_RPM)
    && fpLt (q.sgw st Reg.SGA.X_OFF_X) (q.sgw st Reg.SGA.X_ON_X)

/-- CK-20 (R246). -/
def State.ck20 (q : State) : Option (Nat × Nat) :=
  firstBad [6, 7, 8, 9] (fun st => q.rdB (pgSG st) Reg.SGA.ACFG_TGT_SRC && q.outOrRun st && !q.curveOk st) fun st => (pgSG st, 0)

/-- CK-21: the polder that STAT.STATE of an included page shows is drained, testing or failed. -/
def State.ck21 (q : State) : Option (Nat × Nat) :=
  firstBad q.commit.pages (fun p => (q.pagePolder p).any fun d =>
    q.polderSt d == .drained || q.polderSt d == .testing || q.polderSt d == .failed) fun p => (p, 0)

/-- Whether a commit leaves a stage outside Off: an Off request by the mode it leads to at once (R202, R203). -/
def State.remainsOut (q : State) (st : Nat) : Bool := match q.requested st with
  | none => !q.stageOff st
  | some m => m != 0 || !(q.modeRequest st).stageOff st

/-- CK-22; which stage of the two it reports is free (assumption 39). -/
def State.ck22 (q : State) : Option (Nat × Nat) :=
  match [0, 1].find? q.remainsOut, [2, 3].find? q.remainsOut with
  | some t, some c => some (pgSG (if Config.freeBit q.fresh then t else c), 0)
  | _, _ => none

/-- CK-23. -/
def State.ck23 (q : State) : Option (Nat × Nat) :=
  let us := q.rd pgSYS Reg.SYS.COMMIT_MARK_US
  if 10 ≤ us ∧ us ≤ 10000 then none else some (pgSYS, 0)

/-- The unit classes of the inputs of a loop that feed a MINSEL (R120). -/
def State.minselUnits (q : State) (d : List Word) : List Nat :=
  ((List.range (q.imgIns (descImg d))).filter (bitOf (q.imgMinsel (descImg d)))).map (descUnit d)

/-- CK-24. -/
def State.ck24 (q : State) : Option (Nat × Nat) :=
  firstBad q.enabledLoops (fun l =>
    let us := q.minselUnits (q.liveDesc l)
    us.any fun u => u == 0 || u != us.headD 0) fun l => (pgTRL, l)

/-- The checks in their order (R397). -/
def State.checks (q : State) : List (Nat × Option (Nat × Nat)) :=
  [(1, q.ck01), (2, q.ck02), (3, q.ck03), (4, q.ck04), (5, q.ck05), (6, q.ck06), (7, q.ck07), (8, q.ck08), (9, q.ck09),
    (10, q.ck10), (11, q.ck11), (12, q.ck12), (13, q.ck13), (14, q.ck14), (15, q.ck15), (16, q.ck16), (17, q.ck17),
    (18, q.ck18), (19, q.ck19), (20, q.ck20), (21, q.ck21), (22, q.ck22), (23, q.ck23), (24, q.ck24)]

/-- The first check that fails, with the page and item it reports (R396). -/
def State.firstFailure (q : State) : Option (Nat × Nat × Nat) :=
  (q.checks.find? fun c => c.2.isSome).map fun c => (c.1, c.2.getD (0, 0))

end Sys2Proof.Machine
end

