-- ==== Sys2Proof/Machine/Commit.lean ====
section
/-! DEFINITION. The end of the checks of a commit, and a commit at its mark: what becomes live and what follows from it (R121,
R399 to R403). -/

namespace Sys2Proof.Machine

/-- COMMIT_CHECK_COMPLETE: all checks pass and the commit waits for its mark, or the first failure is recorded (R397, R400,
R401). Without a running supervisor the commit is not evaluated (R313, R318, assumption 40). -/
def State.checkComplete (s : State) : State :=
  if s.rd pgSYS Reg.SYS.COMMIT_STAT_STATE ≠ 1 then s
  else if ¬ s.supRuns then { s with commit := {} }.commitState 5
  else
    let q := s.proposed
    match q.firstFailure with
    | none => { s with commit := { s.commit with doneAt := s.now } }.wr pgSYS Reg.SYS.COMMIT_STAT_STATE 2
    | some (ck, page, item) =>
      let s := { s with fresh := s.fresh + 1, commit := {} }
      let s := ((s.wr pgSYS Reg.SYS.COMMIT_STAT_CK ck).wr pgSYS Reg.SYS.COMMIT_STAT_PAGE page).wr pgSYS Reg.SYS.COMMIT_STAT_ITEM item
      let s := if ck = 6 ∨ ck = 7 then
          s.setWord pgTRL Reg.TRL.PLACE_DIAG_LOOP.off
            (BitVec.ofNat 32 (item + ((q.placeFailure.map (·.2)).getD 0) * 2 ^ 8 + 2 ^ 31))
        else s
      s.commitState 4

/-- Whether the present tick is the commit mark a passed commit waits for (R59, R60). -/
def State.atMark (s : State) : Bool :=
  s.rd pgSYS Reg.SYS.COMMIT_STAT_STATE == 2 && s.clockRuns && decide (s.commit.doneAt < s.now)
    && s.now % usTicks (max 1 (s.rd pgSYS Reg.SYS.COMMIT_MARK_US)) == 0

/-- The offsets of the two ramp rates of a stage other than traction (R229, R248). -/
def rateOffsets (st : Nat) : Nat × Nat := if isActuation st then (Reg.SGA.ACC_RATE.off, Reg.SGA.DEC_RATE.off)
  else (Reg.SGC.RAMP_UP_RATE.off, Reg.SGC.RAMP_DN_RATE.off)

/-- What must be kept before values change: scales of conversions past their hold, what old rates give up to the mark, and the
old filters of CAN controllers (R197, R509, R533). -/
def State.beforeValues (s : State) : State :=
  let q := s.proposed
  let s := s.freezeScales
  let s := s.each (allStages.filter (2 ≤ ·)) fun s st =>
    let o := rateOffsets st
    let w (x : State) (off : Nat) : Word := x.word (pgSG st) off
    if w q o.1 ≠ w s o.1 ∨ w q o.2 ≠ w s o.2 then s.ratesChange st (w s o.1) (w s o.2) else s
  s.each [0, 1, 2] fun s n =>
    let offs := (List.range 64).map (4 * ·)
    if offs.any fun o => q.word (pgCAN n) (winBase + o) != s.word (pgCAN n) (winBase + o) then
      let old := (offs.map fun o => (o, s.word (pgCAN n) (winBase + o))).filter fun (e : Nat × Word) => e.2 != 0
      { s with ifc := { s.ifc with canPrev := tabInsert s.ifc.canPrev n (s.now, old) } }
    else s

/-- A loop that a commit disables, or removes to place it anew: a waiting run is dropped, a run that executes completes, and
then its areas are free (R121). -/
def State.removeLoop (s : State) (l : Nat) : State :=
  let s := s.graftMoved l
  let x := s.loop l
  let e := s.eng x.engine
  let s := s.setEng x.engine { e with waiting := e.waiting.filter (·.loop ≠ l) }
  if x.placed ∧ s.executing l then s.setLoop l { x with gone := true, move := none, graft := none } else s.freeLoop l

/-- A descriptor with what a graft changes as it was (R121). -/
def withoutGraft (old new : List Word) : List Word :=
  let w0 := new.getD 0 0
  let o0 := old.getD 0 0
  putAt (putAt new 0 (withBits (withBits w0 8 6 (bitsAt o0 8 6)) 16 4 (bitsAt o0 16 4))) 6 (old.getD 6 0)

/-- A changed descriptor of loop `l`: the loop is removed, takes the change at its next trigger boundary, or joins the graft
set, which is answered (R121, R139). -/
def State.changeDescriptor (s : State) (l : Nat) : Bool × State :=
  let x := s.loop l
  let d := s.liveDesc l
  let cur := x.next.getD x.desc
  let target := (x.graft.map (·.desc)).getD cur
  if x.state = .disabled ∨ x.gone then (false, s)
  else if ¬ descEn d ∨ isReplaced cur d then (false, s.removeLoop l)
  else if ¬ x.placed then (false, s.setLoop l { x with desc := d, next := none })
  else if isGraft target d then (true, s)
  else match x.graft with
    | some g => (false, s.setLoop l { x with graft := some { g with desc := d }, next := some (withoutGraft cur d) })
    | none => (false, if d = cur then s else s.setLoop l { x with next := some d })

/-- The loops a snapshot's TRL words concern. -/
def State.writtenLoops (s : State) (old : State) : List Nat :=
  loopIds.filter fun l => old.liveDesc l != s.liveDesc l
    || (List.range descWords).any fun k => s.markedWord pgTRL (winBase + 0x80 * l + 4 * k)

/-- The descriptors of a commit take effect as far as they do at the mark, and the grafts of the commit start (R121, R147). -/
def State.takeDescriptors (s old : State) : State :=
  let ls := s.writtenLoops old
  let r := ls.foldl (fun (acc : List Nat × State) l =>
    let x := acc.2.changeDescriptor l
    (if x.1 then acc.1 ++ [l] else acc.1, x.2)) ([], s)
  let s := r.2.startGraft (r.1.map fun l => (l, r.2.liveDesc l))
  (s.reloadGuards none).queueEvent (.commit ls)

/-- The rings of a controller's page (R507). -/
def ringBases (p : Nat) : List Nat := (ringIndexes p).map fun o => if o = 0x13C ∨ o = 0x14C then o - 12 else o - 8

/-- A committed change of BASE or SIZE of an enabled controller's ring empties the ring (R507). -/
def State.resetRings (s old : State) : State :=
  s.each (allPages.filter fun p => (s.pagePolder p).any fun d => (s.polder d).en) fun s p =>
    s.each (ringBases p) fun s o =>
      if s.word p o ≠ old.word p o ∨ s.word p (o + 4) ≠ old.word p (o + 4) then (s.setWord p (o + 8) 0).setWord p (o + 12) 0 else s

/-- A one-bit field rises or falls in a commit. -/
def State.rises (s old : State) (p : Nat) (f : Field) : Bool := s.rdB p f && !old.rdB p f
def State.falls (s old : State) (p : Nat) (f : Field) : Bool := !s.rdB p f && old.rdB p f
def State.changes (s old : State) (p : Nat) (f : Field) : Bool := s.rd p f != old.rd p f

/-- What the settings of the sensor and interface pages lead to at the mark (R291, R297, R299, R431, R433, R442, R534). -/
def State.takeInterfaces (s old : State) : State :=
  let s := s.each (List.range 12) fun s ch =>
    let s := if s.rdB pgSD (Reg.SD.CFG_EN ch) then s else s.wr pgSD Reg.SD.STUCK_CH (withBit (s.rd pgSD Reg.SD.STUCK_CH) ch false)
    if (s.sdOn ch ∧ ¬ old.sdOn ch) ∨ s.changes old pgSD (Reg.SD.CFG_OSR ch) ∨ s.changes old pgSD (Reg.SD.CFG_SYNC ch)
        ∨ s.changes old pgSD (Reg.SD.CFG_STAGE ch) then { s with sdFrom := tabPut (fun _ => 0) s.sdFrom ch s.now }
    else s
  let s := s.each [0, 1] fun s n => if s.changes old (pgRD n) Reg.RD.EXC_HZ then s.rdRestart n else s
  let s := if s.changes old pgENC Reg.ENC.CFG_EN then s.encEnable (s.rdB pgENC Reg.ENC.CFG_EN) else s
  let s := s.each (List.range 4) fun s ch => if s.rises old pgSENT (Reg.SENT.CFG_EN ch) then s.sentEnable ch else s
  let s := s.each [0, 1] fun s n => if s.rises old pgPSI (Reg.PSI.CFG_EN n) then
      { s with ifc := { s.ifc with psiOn := s.ifc.psiOn.filter (· ≠ n) } } else s
  let s := s.each (List.range 8) fun s i =>
    if s.rises old pgPSI (Reg.PSI.SLOT_EN i) ∨ s.rises old pgPSI (Reg.PSI.CFG_EN (i / 4)) then
      { s with ifc := { s.ifc with psiGot := s.ifc.psiGot.filter (· ≠ i), psiMiss := tabErase s.ifc.psiMiss i
                                   psiLogged := s.ifc.psiLogged.filter (· ≠ i) } }
    else s
  if s.changes old pgSYN Reg.SYN.CFG_MASTER then s.synReacquire else s

/-- Changes in the supervisor's and the Dike's settings: DBG_POLICY waits for the end of a session, and a core's watchdog
waits for its first kick after enable (R371, chapter 9 before R320). -/
def State.takeSupervision (s old : State) : State :=
  let s := if s.changes old pgSUP Reg.SUP.DBG_POLICY_POLICY ∧ s.supSession then
      (s.setDbg fun d => { d with policyDue := some (s.rd pgSUP Reg.SUP.DBG_POLICY_POLICY) }).wr pgSUP Reg.SUP.DBG_POLICY_POLICY
        (old.rd pgSUP Reg.SUP.DBG_POLICY_POLICY)
    else s
  s.each (List.range 3) fun s n =>
    if bitOf (s.rd pgDIKE Reg.DIKE.APP_WD_EN) n = bitOf (old.rd pgDIKE Reg.DIKE.APP_WD_EN) n then s
    else { s with wd := { s.wd with appFrom := putAt s.wd.appFrom n 0, appExpired := putAt s.wd.appExpired n false } }

/-- Origin entries that become live start their copy (R343). -/
def State.takeOrigins (s old : State) : State :=
  s.each ((List.range 16).filter fun e => (List.range 4).any fun k =>
    let off := winBase + 0x10 * e + 4 * k
    rwsMask (regKey pgMEM off) != 0 && (s.markedWord pgMEM off || (s.word pgMEM off &&& rwsMask (regKey pgMEM off))
      != (old.word pgMEM off &&& rwsMask (regKey pgMEM off)))) State.originStart

/-- The mode requests of a commit: those for Off first, then the others, in the order of the stages (R161, R163, R193, R235,
assumption 41). -/
def State.takeRequests (s : State) : State :=
  let marked := allStages.filter fun st => (s.requested st).isSome
  let off (st : Nat) : Bool := s.requested st == some 0
  s.each (marked.filter off ++ marked.filter (!off ·)) State.modeRequest

/-- What the stage logic makes of settings that its causes rest on (R214, R252). -/
def State.takeCauses (s : State) : State :=
  let s := s.pilotCheck.stationStop
  if s.supMode = 3 then s.pinSourceSwitch else s

/-- COMMIT_APPLY at the mark (R400, R403). -/
def State.commitApply (s : State) : State :=
  if ¬ s.atMark then s
  else
    let old := s
    let s := s.beforeValues.takeValues
    let s := s.each (channelPages.filter fun p => s.owner p != old.owner p) State.ownerChanged
    let s := ((s.resetRings old).takeInterfaces old).takeSupervision old
    let s := (s.takeOrigins old).takeDescriptors old
    let s := s.takeRequests.takeCauses
    let s := s.each (List.range 6) State.showConv
    let s := s.wrStamp pgSYS Reg.SYS.COMMIT_AT_L_STAMP Reg.SYS.COMMIT_AT_H_STAMP s.now
    let s := s.setWord pgSYS Reg.SYS.COMMIT_SEQ_SEQ.off (s.word pgSYS Reg.SYS.COMMIT_SEQ_SEQ.off + 1)
    s.endSnapshot.commitState 3

/-- Whether the values about to become live hold an encoding or a combination that the spec leaves unpredictable and no check
refuses: CLASS 3 or SRC 5 to 7 of an enabled descriptor, source 3 of an enabled sequence or of a channel, a ring position beyond
the ring, overlapping origin entries, or entries 4 to 15 outside shared and application SRAM (R116, R252, R305, R343, R405). -/
def State.undefinedSettings (q : State) : Bool :=
  let origins := (List.range 16).filter q.originOn
  let apart (a b : Nat) : Bool := q.originSram a + q.originLen a ≤ q.originSram b || q.originSram b + q.originLen b ≤ q.originSram a
  let inside (a lo n : Nat) : Bool := lo ≤ q.originSram a && q.originSram a + q.originLen a ≤ lo + n
  (q.enabledLoops.any fun l => descClass (q.liveDesc l) == 3 || 5 ≤ descSrc (q.liveDesc l))
    || (allSeqs.any fun i => q.seqOn i && q.seqSrc i == 3) || (ihPages.any fun p => q.rd p Reg.IH.CFG_SRC == 3)
    || (2 ≤ q.synNdev && q.synNdev ≤ q.synPos)
    || (origins.any fun a => origins.any fun b => a < b && !apart a b)
    || origins.any fun a => 4 ≤ a && !inside a sharedBase 0x200000 && !inside a appSramBase 0x200000

/-- COMMIT_APPLY; where the result would be unpredictable, it stops (R405). -/
def State.applyCommit (s : State) : Res :=
  if s.atMark ∧ s.proposed.undefinedSettings then .fault .undefinedSetting else .next s.commitApply

/-- STAGE_PERIOD_START of set A (or the only set) or set B; where the period changes, the hold limits follow with it (R140,
R155, R403). -/
def State.periodStart (s : State) (st set : Nat) : State :=
  let old := (s.stage st).timing set
  let s := if set = 0 then s.periodStartA st else s.periodStartB st
  if ((s.stage st).timing set).period = old.period then s else s.reloadGuards (some st)

end Sys2Proof.Machine
end

