-- ==== Sys2Proof/Machine/View.lean ====
section
/-! DEFINITION. What register words read as that show another part of the state, and reads of registers and windows (R16, R57,
R117, R152, R387, R392, R393, R498, R501 to R503, R525, R532). -/

namespace Sys2Proof.Machine

/-- The loop that TRL.LOOP_SEL selects. -/
def State.selected (s : State) : LoopRec := s.loop (s.rd pgTRL Reg.TRL.LOOP_SEL_LOOP)

/-- The TRL words that show the selected loop, and STAT.BUSY (R129, R152). -/
def State.trlView (s : State) (off : Nat) (w : Word) : Word :=
  if off = 0x110 then withBits w 2 1 (bit !s.trl.events.isEmpty)
  else if off = 0x124 then s.selected.statWord
  else if off = 0x128 then s.selected.loadWord
  else if off = 0x12C then s.selected.delayLastWord
  else if off = 0x130 then s.selected.delayAvgWord
  else if off = 0x134 then s.selected.delayPeakWord
  else if off = 0x138 then BitVec.ofNat 32 s.selected.skips
  else if off = 0x13C then BitVec.ofNat 32 s.selected.moves
  else w

/-- The delay words of the loop that LEn.DELAY_SEL selects, 0 while engine `n` does not carry it (R57). -/
def State.leView (s : State) (n off : Nat) (w : Word) : Word :=
  let x := s.loop (s.rd (pgLE n) Reg.LE.DELAY_SEL_LOOP)
  if off = 0x144 ∨ off = 0x148 ∨ off = 0x14C then
    if ¬ (x.placed ∧ x.engine = n) then 0
    else if off = 0x144 then x.delayLastWord else if off = 0x148 then x.delayAvgWord else x.delayPeakWord
  else w

/-- The observation words of a channel page (R267, R268, R531, R532). -/
def State.channelView (s : State) (p off : Nat) (w : Word) : Word :=
  if off = 8 then BitVec.ofNat 32 (2 + s.owner p * 2 ^ 4)
  else if off = 0x140 then
    let w := withBits w 0 2 (s.legState p)
    if isXh p then w else withBits w 4 1 (bit ((s.chan p).drive == .pins))
  else if off = 0x150 then
    let o := if s.outputBound p 0 ∨ ¬ s.outputBound p 1 then 0 else 1
    let armed := s.guardArmed p o
    withBits (withBits w 0 1 (bit armed)) 8 24 (if armed then holdUnits (s.guard p o) else 0)
  else w

/-- The words of the DIKE and SAF pages that show sluices and safe stops (R332, R500). -/
def State.sluiceWord (s : State) (lo n : Nat) : Word :=
  BitVec.ofNat 32 ((List.range n).foldl (fun v k => v + bit (s.sluicesClosed (lo + k)) * 2 ^ k) 0)

/-- The state nibble of one polder in SUP.POLDER. -/
def State.stateAt (s : State) (p place : Nat) : Nat := polderCode (s.polderSt p) * 2 ^ place

/-- The SUP page by its layout: 2 in native mode, 1 in compat mode; a field the other layout alone has reads 0 (R12, R386,
R498, R503). -/
def State.supView (s : State) (off : Nat) (w : Word) : Word :=
  if off = 0 then (if s.compat then withBits w 8 8 1 else w)
  else if off = 4 then (if s.compat then withBits w 4 4 3 else w)
  else if off = 8 then (if s.compat then withBits w 4 3 0 else withBits w 10 1 0)
  else if off = 0x10C then
    BitVec.ofNat 32 (s.stateAt (pdCore 0) 0 + s.stateAt (pdCore 1) 4 + s.stateAt (pdCore 2) 8 + s.stateAt (pdApp 0) 12
      + s.stateAt (pdApp 1) 16)
  else if off = 0x104 ∨ off = 0x110 ∨ off = 0x114 ∨ off = 0x118 ∨ off = 0x128 ∨ off = 0x12C then (if s.compat then 0 else w)
  else if off = 0x134 then (if s.compat then w else 0)
  else w

/-- STAT.STATE and CTL of a page whose polder is `po`; a selection the spec leaves undefined shows a free value (R385, R502,
R503). -/
def State.headerView (s : State) (po : Option Nat) (off : Nat) (sup : Bool) (w : Word) : Word := match po with
  | some p =>
    let x := s.polder p
    if off = 8 then withBits w 0 4 (polderCode x.st)
    else BitVec.ofNat 32 (bit (x.en && !sup) + bit x.drain * 2 + bit x.test * 4 + bit x.blkrst * 8)
  | none => withBits w 0 4 (Config.freeWord s.fresh).toNat

/-- STAT.STATE of a page without CTL: 2 while the block works, with the state that R501 gives the TP page; the stages keep their
own (R387). -/
def State.blockView (s : State) (t : PageType) (w : Word) : Word := match t with
  | .sgt => w | .sgc => w | .sga => w
  | .tp => withBits w 0 4 (if s.clockRuns then 2 else 0)
  | .sec => withBits w 0 4 (if s.inService pdSecurity then 2 else (Config.freeWord s.fresh).toNat)
  | .hif => withBits w 0 4 (if s.inService pdHIF then 2 else (Config.freeWord s.fresh).toNat)
  | _ => withBits w 0 4 2

/-- The offsets of a page type whose words show other parts of the state. -/
def derivedOffsets : PageType → List Nat
  | .trl => [8, 0x110, 0x124, 0x128, 0x12C, 0x130, 0x134, 0x138, 0x13C]
  | .le => [8, 0x10, 0x144, 0x148, 0x14C]
  | .xh => [8, 0x140, 0x150]
  | .ih => [8, 0x140, 0x150]
  | .dike => [8, 0x110, 0x114]
  | .sup => [0, 4, 8, 0x10, 0x104, 0x10C, 0x110, 0x114, 0x118, 0x128, 0x12C, 0x134]
  | .saf => [8, 0x120]
  | .syn => [8, 0x10]
  | .sgt => [] | .sgc => [] | .sga => []
  | .sa => [8, 0x10] | .can => [8, 0x10] | .eth => [8, 0x10] | .sent => [8, 0x10] | .psi => [8, 0x10]
  | .chg => [8, 0x10] | .spi => [8, 0x10] | .mem => [8, 0x10]
  | .sys => [8] | .pwr => [8] | .tp => [8] | .flt => [8] | .sec => [8] | .dbg => [8] | .hif => [8]
  | .tdac => [8] | .sd => [8] | .enc => [8] | .rd => [8] | .gpio => [8]

/-- What the word at offset `off` of a page reads as below its windows, without regard to time (R16). -/
def State.viewWord (s : State) (p off : Nat) : Word :=
  let w := s.word p off
  match pageType p with
  | none => w
  | some t =>
    let w := match t with
      | .trl => s.trlView off w
      | .le => s.leView (pageInst p) off w
      | .xh => s.channelView p off w
      | .ih => s.channelView p off w
      | .dike => if off = 0x110 then s.sluiceWord 0 32 else if off = 0x114 then s.sluiceWord 32 28 else w
      | .sup => s.supView off w
      | .saf => if off = 0x120 then BitVec.ofNat 32 (bit (s.decel 0) + bit (s.decel 1) * 2) else w
      | .syn => if off = 8 then s.synStatView w else w
      | _ => w
    if hasPolder t then (if off = 8 ∨ off = 0x10 then s.headerView (s.pagePolder p) off (p == pgSUP) w else w)
    else if off = 8 then s.blockView t w
    else w

/-- What a read answers: a word, an error with the cause that HIF.DEFER_STAT names, or nothing yet (R344, R420). -/
inductive ReadRes where
  | value (w : Word) | error (cause : Nat) | waits
deriving DecidableEq, Repr

/-- The port of a master, for the shadows of TP_NOW and of slots: 0 host, 1 agreement port, 2 P0, 3 P1, 4 S2 in compat mode;
a supervisor core's own port has no shadow of TP_NOW (R48, R107). -/
def masterPort : Master → Nat
  | .host => 0 | .app n => 2 + n | .core n => 5 + n | .engine _ => 8 | .trellis => 8

/-- A read of a signal slot's word through a port (R106, R107, R346). -/
def State.slotAccess (s : State) (m : Master) (port n k : Nat) : ReadRes × State :=
  match s.meetsClosed m (slotKey n) with
  | some s => (.error 2, s)
  | none =>
    if k = 0 then
      let t := s.slotRead port n (masterFinder m)
      (.value t.answer, t.reply s.answer)
    else (.value (s.slotSeen port n k), s)

/-- A read of engine local memory (R342, R525). -/
def State.localRead (s : State) (m : Master) (key : Nat) : ReadRes × State := match s.meetsClosed m key with
  | some s => (.error 2, s)
  | none =>
    let r := s.checkUnitAt key (masterFinder m)
    let s := r.2.checkFollows r.1
    match r.1 with
    | .waits => (.waits, s)
    | o => (if o.completes then .value (s.mword key) else .error 1, s)

/-- Window words that rows of the spec reserve with the value 0 (R301, R357). -/
def windowZero (t : PageType) (off : Nat) : Bool := match t with
  | .flt => (off < 0x2000 || (0x2000 ≤ off && off < 0x2040)) && 0x14 ≤ off % 0x20
  | .sa => off < 0x100 && 0x18 ≤ off % 0x20
  | _ => false

/-- A read of the word at WADDR on the side SIDE selects; none at a window offset that is reserved (R117, R392, R393). -/
def State.windowRead (s : State) (m : Master) (port p : Nat) : Option (ReadRes × State) :=
  let off := 4 * s.rd p Reg.WIN.WADDR_ADDR
  let staged := s.rdB p Reg.WIN.WCTL_SIDE
  match pageType p with
  | none => none
  | some t =>
    if ¬ hasWindow t then none
    else if t = .le then
      if 0x20000 ≤ off then none
      else if staged then some (.value 0, s) else some (s.localRead m (leBase (pageInst p) + off))
    else if t = .sec then
      if 0x20A4 ≤ off then none
      else if staged then some (.value 0, s)
      else let r := s.secWord off
        some (.value r.1, r.2)
    else if t = .trl ∧ 0x4000 ≤ off ∧ off < 0x8000 then
      if staged then some (.value 0, s) else some (s.slotAccess m port ((off - 0x4000) / 16) (off / 4 % 4))
    else if windowZero t off then some (.value 0, s)
    else if ¬ keyNamed (regKey p (winBase + off)) then none
    else some (.value (if staged then s.stagedWord p (winBase + off) else s.word p (winBase + off)), s)

/-- After a WDATA access: ADDR moves on with INC, and ERR reports a core's access that failed (R392). -/
def State.windowDone (s : State) (m : Master) (p : Nat) (failed : Bool) : State :=
  let s := if s.rdB p Reg.WIN.WCTL_INC then s.wr p Reg.WIN.WADDR_ADDR (s.rd p Reg.WIN.WADDR_ADDR + 1) else s
  s.wrB p Reg.WIN.WCTL_ERR (failed && m != .host)

/-- Whether a read failed. -/
def ReadRes.failed : ReadRes → Bool
  | .error _ => true
  | .value _ => false
  | .waits => false

/-- WINDOW_ACCESS that reads WDATA. -/
def State.wdataRead (s : State) (m : Master) (port p : Nat) : Option (ReadRes × State) :=
  (s.windowRead m port p).map fun r => (r.1, if r.1 = .waits then r.2 else r.2.windowDone m p r.1.failed)

/-- A read of TP.NOW_H: the port's shadow; a port without one gets a free value (R48). -/
def State.readNowH (s : State) (port : Nat) : Word × State :=
  if port < 5 then (BitVec.ofNat 32 (s.tpShadow port), s) else s.drawWord

/-- A read of the register at offset `off` of page `p` through a port; none at a reserved page or offset. Write-only bits read a
free value (R16, R17, R388, R405). -/
def State.readReg (s : State) (m : Master) (port p off : Nat) : Option (ReadRes × State) :=
  let k := regKey p off
  if (pageType p).isNone then none
  else if off = 0xF04 then s.wdataRead m port p
  else if p = pgTP ∧ off = 0x100 then
    some (.value (BitVec.ofNat 32 s.now), (s.readNowL port).reply s.answer)
  else if p = pgTP ∧ off = 0x104 then
    let r := s.readNowH port
    some (.value r.1, r.2)
  else if 0x900 ≤ off ∧ off < 0xF00 then
    if rwsMask (regKey p (off - 0x800)) = 0 then none else some (.value (s.stagedWord p (off - 0x800)), s)
  else if off = 0x1C then some (.value 0, s)
  else if ¬ keyNamed k then none
  else
    let wo := BitVec.ofNat 32 (accessMask .wo k)
    let v := s.viewWord p off
    if wo = 0 then some (.value v, s)
    else let r := s.drawWord
      some (.value ((v &&& ~~~wo) ||| (r.1 &&& wo)), r.2)

end Sys2Proof.Machine
end

