-- ==== Sys2Proof/Machine/Inject.lean ====
section
/-! DEFINITION. Fault injection in factory test mode (R378, R379). -/

namespace Sys2Proof.Machine

/-- Whether the spec defines a fault code (R41, R115, R153, R188, R231, R249, R306, R333, R352, R382, R448, R479, R495, R354). -/
def definedCode (c : Nat) : Bool :=
  c == 0x01 || (0x03 ≤ c && c ≤ 0x07) || (0x20 ≤ c && c ≤ 0x29) || (0x2B ≤ c && c ≤ 0x33) || (0x40 ≤ c && c ≤ 0x5D)
    || (0x60 ≤ c && c ≤ 0x6F) || (0x80 ≤ c && c ≤ 0x92) || (0xA0 ≤ c && c ≤ 0xAC) || (0xB0 ≤ c && c ≤ 0xCA)
    || (0xCC ≤ c && c ≤ 0xCE) || (0xD0 ≤ c && c ≤ 0xDD) || (0xE0 ≤ c && c ≤ 0xE3) || (0xE5 ≤ c && c ≤ 0xE7) || c == 0xEE

/-- The class of a class code (R357). -/
def classOf (k : Nat) : Option FaultClass := if k = 1 then some .c else if k = 2 then some .u else if k = 3 then some .f else none

/-- FLT.INJ_STAT.RESULT (R380). -/
def State.injResult (s : State) (r : Nat) : State := s.wr pgFLT Reg.FLT.INJ_STAT_RESULT r

/-- An injection is carried out where factory test mode is on and the command is valid: `act` says what it does (R378, R379). -/
def State.injectIf (s : State) (valid : Bool) (act : State → State) : State :=
  if ¬ s.rdB pgFLT Reg.FLT.INJ_STAT_ARMED then s.injResult 2
  else if valid then act (s.injResult 1)
  else s.injResult 3

/-- Kind 0: a report as if the block that holds the page had detected it, with detail 0 (R379). -/
def State.injectReport (s : State) (page code cls : Nat) : State :=
  s.injectIf ((pageType page).isSome && definedCode code && (classOf cls).isSome) fun s =>
    let o := counterOrigin page
    s.reportAs { code := code, cls := (classOf cls).getD .c, page := page, detail := 0, origin := o
                 stamp := if o = .fabric then none else some s.now, inj := true }

/-- Whether an address is that of a byte of SRAM; the private memory it names is that of S0 (R334, assumption 43). -/
def sramByte (a : Nat) : Bool := match regionOf a with
  | some (.mram _) => false
  | some _ => !(0x08080000 ≤ a && a < 0x10000000)
  | none => false

/-- Kind 1: the check field of the byte at FLT.INJ_ADDR (R340, R379). -/
def State.injectCheckField (s : State) : State :=
  let a := (s.word pgFLT Reg.FLT.INJ_ADDR_ADDR.off).toNat
  s.injectIf (sramByte a) fun s =>
    let s := s.corrupt [a]
    { s with chk := { s.chk with inj := insertNat a s.chk.inj } }

/-- Kind 2: the polder withholds its next handshake transition (R28, R379). -/
def State.injectStall (s : State) (p : Nat) : State :=
  s.injectIf (polderExists p) fun s => s.setPolder p { s.polder p with withheld := true, injected := true }

/-- Kind 3: bit 0 of a core's next outgoing write is inverted; in compat mode that is a lockstep mismatch (R318, R379). -/
def State.injectCoreWrite (s : State) (c : Nat) : State :=
  s.injectIf (c < 2 || (c == 2 && !s.compat)) fun s => s.setSup fun u => { u with invert := insertNat c u.invert }

/-- Kind 4: the hard-short comparator of an integrated channel, or FLT_N of an external one low past its filter (R260, R265,
R379). -/
def State.injectChannel (s : State) (p : Nat) (softStill : Bool) : State :=
  s.injectIf (channelPages.contains p) fun s =>
    if isXh p then (if s.rdB p Reg.XH.CFG_FLT_EN ∧ ¬ s.fltMasked p ∧ ¬ s.latched p then s.driverTrip p true else s)
    else s.shortTrip p 3 softStill true

/-- Kind 5: a fast-path detection (R292, R379). -/
def State.injectFast (s : State) (ch : Nat) (hard : Bool) : State :=
  s.injectIf (ch < 12) fun s =>
    if s.rdB pgSD (Reg.SD.CFG_OC_EN ch) ∧ s.rdB pgSD (Reg.SD.CFG_EN ch) then s.fastPath ch hard true else s

/-- Kind 6: the Dike discards heartbeats until the heartbeat is lost (R322, R379). -/
def State.injectHeartbeat (s : State) : State :=
  s.injectIf true fun s => { s with wd := { s.wd with discard := true, discardInj := true } }

/-- Kind 7: the crystal monitor declares loss (R61, R379). -/
def State.injectCrystal (s : State) : State :=
  s.injectIf true fun s => if s.lossCanBeDeclared then s.crystalLost true else s

/-- A write of FLT.INJ_CMD by its kind (R378, R379); whether another leg's soft turn-off still runs is a free bit. -/
def State.inject (s : State) (kind page arg : Nat) : State :=
  if kind = 0 then s.injectReport page (arg % 256) (arg / 256 % 4)
  else if kind = 1 then s.injectCheckField
  else if kind = 2 then s.injectStall (arg % 256)
  else if kind = 3 then s.injectCoreWrite (arg % 4)
  else if kind = 4 then
    let d := s.drawBit
    d.2.injectChannel page d.1
  else if kind = 5 then s.injectFast (arg % 16) (bitOf arg 4)
  else if kind = 6 then s.injectHeartbeat
  else if kind = 7 then s.injectCrystal
  else s.injectIf false fun s => s

end Sys2Proof.Machine
end

