-- ==== Sys2Proof/Machine/Bus.lean ====
section
/-! DEFINITION. Writes to registers and windows, the address map of the masters, voted writes, agreed reads and debugger accesses
(R16, R308, R315, R319, R334, R383, R392, R393, R463, R517). -/

namespace Sys2Proof.Machine

/-- A write to the word at WADDR on the side SIDE selects: live RWS and read-only words discard it, staged words take it; none at
a window offset that is reserved (R117, R392, R393, R477, R525). -/
def State.windowWrite (s : State) (m : Master) (p : Nat) (w : Word) : Option (Bool × State) :=
  let off := 4 * s.rd p Reg.WIN.WADDR_ADDR
  let staged := s.rdB p Reg.WIN.WCTL_SIDE
  match pageType p with
  | none => none
  | some t =>
    if ¬ hasWindow t then none
    else if t = .le then
      if 0x20000 ≤ off then none
      else if staged then some (false, s)
      else match s.meetsClosed m (leBase (pageInst p) + off) with
        | some s => some (true, s)
        | none => some (false, s.localWrite (pageInst p) off w)
    else if t = .sec then
      if 0x20A4 ≤ off then none else some (false, if staged then s else s.secPut off w)
    else if t = .trl ∧ 0x4000 ≤ off ∧ off < 0x8000 then
      if staged then some (false, s)
      else match s.meetsClosed m (slotKey ((off - 0x4000) / 16)) with
        | some s => some (true, s)
        | none => some (false, s.slotWrite (masterSource m) ((off - 0x4000) / 16) (off / 4 % 4) w)
    else if windowZero t off then some (false, s)
    else if ¬ keyNamed (regKey p (winBase + off)) then none
    else some (false, if staged then s.stagePut p (winBase + off) w else s)

/-- WINDOW_ACCESS that writes WDATA. -/
def State.wdataWrite (s : State) (m : Master) (p : Nat) (w : Word) : Option State :=
  (s.windowWrite m p w).map fun r => r.2.windowDone m p r.1

/-- A write to STG: INCLUDE takes its bit, and DISCARD 1 then discards (R389, R390, assumption 42). -/
def State.stgWrite (s : State) (p : Nat) (w : Word) : State :=
  let s := s.stageInclude p (bitsAt w 1 1 == 1)
  if bitsAt w 0 1 = 1 then s.stageDiscard p else s

/-- The bits of a word written to CTL. -/
def ctlBits (w : Word) : CtlBits := ⟨bitsAt w 0 1 == 1, bitsAt w 1 1 == 1, bitsAt w 2 1 == 1, bitsAt w 3 1 == 1⟩

/-- A write to the common header (R359, R385, R389). -/
def State.headerWrite (s : State) (p off : Nat) (w : Word) : Option State :=
  if off = 0xC then some (s.clearPageFlt p (bitsAt w 0 4))
  else if off = 0x10 then some (s.ctlPage p (ctlBits w))
  else if off = 0x14 then some (s.stgWrite p w)
  else none

/-- The application core that a master is, S2 in compat mode being the third (R371, R505). -/
def appCoreOf : Master → Option Nat
  | .app n => some n
  | .core _ => none | .engine _ => none | .host => none | .trellis => none

/-- The operation of SEC.CMD; an OP without a meaning does nothing (R477). -/
def State.secCommand (s : State) (voted : Bool) (w : Word) : State :=
  let op := bitsAt w 0 4
  if op = 1 then s.submitUnlock s.bufferToken
  else if op = 2 then s.secSubmit { kind := .lifecycle, token := s.bufferToken }
  else if op = 3 then s.attest
  else if op = 4 then s.advanceCounter voted (bitsAt w 8 3) (bitsAt w 16 7)
  else s

/-- A frame buffer's HDR with GO, and its POP, on the channel of the writer: 0 supervisor, 1 application (R444, R517). -/
def State.synCommandWrite (s : State) (ch : Nat) (may : Bool) (off : Nat) (w : Word) : Option State :=
  if off = synTxOff ch + 0x20 then
    some (if may ∧ bitsAt w 31 1 = 1 then s.synSend ch (bitsAt w 0 4) (bitsAt w 8 6) else s)
  else if off = synRxOff ch + 0x2C then some (if may ∧ bitsAt w 0 1 = 1 then s.synPop ch else s)
  else none

/-- A write of SAF.STO_CMD: one that sets OPEN opens, whatever CLOSE says (R324, R325, R332). -/
def State.stoCommand (s : State) (w : Word) : State :=
  if bitsAt w 0 1 = 1 then s.openSto 6 else if bitsAt w 1 1 = 1 then s.closeSto else s

/-- A write of PWR.BOOT_CMD (R319, R493, R495). -/
def State.bootCommand (s : State) (w : Word) : State :=
  let s := if bitsAt w 0 1 = 1 then s.bootPrefer else s
  let s := if bitsAt w 1 1 = 1 then s.bootConfirm else s
  if bitsAt w 2 1 = 1 then s.bootReady else s

/-- A write to the frame buffers of the SYN page (R444, R517). -/
def State.synWrite (s : State) (m : Master) (voted : Bool) (off : Nat) (w : Word) : Option State :=
  (s.synCommandWrite 0 (voted && s.supRuns) off w).or (s.synCommandWrite 1 (appCoreOf m).isSome off w)

/-- Writes to registers of the system pages that do more than change bits; none for the others. -/
def State.systemWrite (s : State) (m : Master) (voted : Bool) (t : PageType) (off : Nat) (w : Word) : Option State := match t with
  | .sys => if off = 0x100 then some (s.commitWrite (bitsAt w 0 16)) else none
  | .pwr =>
    if off = 0x100 then some (s.powerRequest (bitsAt w 0 2))
    else if off = 0x120 then some (if voted then s.bootCommand w else s)
    else none
  | .dike =>
    if off = 0x104 then some (if voted then s.heartbeatRow (bitsAt w 0 16) else s)
    else if off = 0x120 then some (s.resetCommand (bitsAt w 0 16))
    else if off = 0x138 then some ((appCoreOf m).elim s s.appKick)
    else none
  | .sup =>
    if off = 0x11C then some (if bitsAt w 0 1 = 1 then (appCoreOf m).elim s s.appRequest else s)
    else if off = 0x138 then some (if voted then s.appCtl (bitsAt w 0 3) (bitsAt w 4 3) else s)
    else if off = 0x134 then (if s.compat then none else some s)
    else if off = 0x110 ∨ off = 0x128 ∨ off = 0x12C then (if s.compat then some s else none)
    else none
  | .tp => if off = 0x10C then some (if bitsAt w 0 1 = 1 then s.returnRequest else s) else none
  | .mem =>
    if off = 0x124 then
      some (if bitsAt w 0 2 = 1 then s.openUpdate else if bitsAt w 0 2 = 2 then s.closeUpdate else s)
    else none
  | .flt =>
    if off = 0x100 then some (s.clearSum (bitsAt w 0 3))
    else if off = 0x11C then some (s.pinLevel (bitsAt w 0 1 == 1))
    else if off = 0x130 then some (s.inject (bitsAt w 0 4) (bitsAt w 8 8) (bitsAt w 16 16))
    else none
  | .saf =>
    if off = 0x104 then some (s.stoCommand w)
    else if off = 0x120 then some (s.each ((List.range 2).filter (bitOf (bitsAt w 0 2))) State.safeStopDemand)
    else none
  | .sec => if off = 0x100 then some (s.secCommand voted w) else none
  | .dbg => if off = 0x100 then some (s.lowerLevel (bitsAt w 0 2)) else none
  | .trl =>
    if off = 0x10C then some (s.kick (bitsAt w 0 6))
    else if off = 0x134 then some (if bitsAt w 31 1 = 1 then s.clearPeak (s.rd pgTRL Reg.TRL.LOOP_SEL_LOOP) else s)
    else if off = 0x138 then
      some (s.setLoop (s.rd pgTRL Reg.TRL.LOOP_SEL_LOOP) { s.selected with skips := 0 })
    else if off = 0x13C then
      some (s.setLoop (s.rd pgTRL Reg.TRL.LOOP_SEL_LOOP) { s.selected with moves := 0 })
    else if off = 0x140 then
      some (if ¬ s.supRuns then s
        else if bitsAt w 8 2 = 1 then s.imageStore (bitsAt w 0 6)
        else if bitsAt w 8 2 = 2 then s.imgErase (bitsAt w 0 6)
        else s)
    else none
  | _ => none

/-- Writes to registers of the control and interface pages that do more than change bits; none for the others. -/
def State.controlWrite (s : State) (m : Master) (voted : Bool) (t : PageType) (p off : Nat) (w : Word) : Option State := match t with
  | .tdac => if off = 0x108 then some (s.tdacRequest (bitsAt w 0 8) (bitsAt w 8 1 == 1)) else none
  | .sa =>
    if off = 0x104 then some (if bitsAt w 0 1 = 1 then s.calRequest (pageInst p) else s)
    else if off = 0x10C then some (s.injectedRequest (pageInst p) (bitsAt w 0 7))
    else if off = 0x124 then some (s.softwareSequences (pageInst p) (bitsAt w 0 8))
    else none
  | .le =>
    if off = 0x14C then
      let l := s.rd p Reg.LE.DELAY_SEL_LOOP
      some (if bitsAt w 31 1 = 1 ∧ (s.loop l).placed ∧ (s.loop l).engine = pageInst p then s.clearPeak l else s)
    else none
  | .sgc =>
    if p = pgSG 5 ∧ off = 0x168 then
      let d := s.drawBit
      some (if bitsAt w 0 1 = 1 then d.2.crowbarClear d.1 else s)
    else none
  | .can =>
    if off = 0x100 then some (if bitsAt w 5 1 = 1 then s.canRecover (pageInst p) else s)
    else if (ringIndexes p).contains off then some (s.ringIndexWrite p off (bitsAt w 0 10))
    else none
  | .eth =>
    if off = 0x148 then
      some (if pageInst p = 1 then s.mdio ⟨bitsAt w 11 2, bitsAt w 0 5, bitsAt w 5 5, bitsAt w 10 1 == 1, bitsAt w 16 16⟩ else s)
    else if (ringIndexes p).contains off then some (s.ringIndexWrite p off (bitsAt w 0 10))
    else none
  | .spi => if (ringIndexes p).contains off then some (s.ringIndexWrite p off (bitsAt w 0 10)) else none
  | .gpio =>
    if off = 0x108 then some (s.gpioSetClear w 0)
    else if off = 0x10C then some (s.gpioSetClear 0 w)
    else none
  | .syn => s.synWrite m voted off w
  | _ => none

/-- Whether the word at an offset of a page is a 16-bit event counter, which any write sets to 0 (R360). -/
def counterAt (t : PageType) (off : Nat) : Bool := match t with
  | .le => [0x150, 0x15C, 0x160, 0x164].contains off
  | .sgt => off = 0x190
  | .ih => off = 0x144
  | .sa => [0x120, 0x128, 0x12C].contains off
  | .enc => off = 0x14C
  | .tdac => off = 0x110
  | .saf => off = 0x118
  | .mem => [0x104, 0x108, 0x128].contains off
  | .flt => off = 0x12C
  | .tp => off = 0x118
  | .sup => off = 0x110
  | .hif => [0x108, 0x10C].contains off
  | .can => [0x154, 0x158].contains off
  | .eth => off = 0x144
  | .syn => off = 0x110
  | .spi => off = 0x124
  | .sent => [0x160, 0x164, 0x168, 0x16C].contains off
  | .psi => [0x1C0, 0x1C4].contains off
  | .trl => false
  | .sys => false | .pwr => false | .dike => false | .sec => false | .dbg => false | .sd => false | .xh => false
  | .sgc => false | .sga => false | .rd => false | .chg => false | .gpio => false

/-- REGISTER_WRITE to a register without a row of its own: RW bits take the value, W1C bits written 1 clear, a counter becomes 0,
and the rest stays (R16, R360, R497, R520). -/
def State.plainWrite (s : State) (t : PageType) (p off : Nat) (w : Word) : State :=
  let k := regKey p off
  let rw := BitVec.ofNat 32 (accessMask .rw k)
  let w1c := BitVec.ofNat 32 (accessMask .w1c k)
  let old := s.word p off
  if counterAt t off then s.setWord p off 0
  else s.setWord p off ((old &&& ~~~rw &&& ~~~(w1c &&& w)) ||| (w &&& rw))

/-- A write to the register at offset `off` of page `p`; none at a reserved page or offset. `voted` marks a write that counts as
a voted supervisor write (R319). -/
def State.writeReg (s : State) (m : Master) (voted : Bool) (p off : Nat) (w : Word) : Option State :=
  match pageType p with
  | none => none
  | some t =>
    if off = 0xF04 then s.wdataWrite m p w
    else if 0x900 ≤ off ∧ off < 0xF00 then
      if rwsMask (regKey p (off - 0x800)) = 0 then none else some (s.stagePut p (off - 0x800) w)
    else if off = 0x1C then some s
    else if ¬ keyNamed (regKey p off) then none
    else ((s.headerWrite p off w).or ((s.systemWrite m voted t off w).or (s.controlWrite m voted t p off w))).or
      (some (s.plainWrite t p off w))

/-- The addresses behind the agreement port (R315). -/
def agreementTarget (a : Nat) : Option Nat :=
  let x := a - 0x60000000
  if x < 0x100000 then some (pageBase + x)
  else if 0x1000000 ≤ x ∧ x < 0x1200000 then some (sharedBase + (x - 0x1000000))
  else if 0x2000000 ≤ x ∧ x < 0x2200000 then some (appSramBase + (x - 0x2000000))
  else if 0x3000000 ≤ x ∧ x < 0x3204000 then some (leBase 0 + (x - 0x3000000))
  else none

/-- Whether an address is that of the agreement port, or of a register page. -/
def isAgreement (a : Nat) : Bool := 0x60000000 ≤ a && a < 0x70000000
def isPage (a : Nat) : Bool := pageBase ≤ a && a < pageBase + 0x100000

/-- A read of `size` bytes by a master through a port. Register pages are read by whole words (R315, R334). -/
def State.busRead (s : State) (m : Master) (port a size : Nat) : Option (ReadRes × State) :=
  if isPage a then s.readReg m port ((a - pageBase) / 0x1000) (a % 0x1000 / 4 * 4)
  else if exchangeBase ≤ a ∧ a < exchangeBase + 0x4000 ∧ size = 4 ∧ (s.keyFor m a).isSome then
    some (s.slotAccess m port ((a - exchangeBase) / 16) (a / 4 % 4))
  else
    let r := s.memRead m a size
    some (r.1.elim (.error 3) .value, r.2)

/-- A write of the bytes that `be` enables, by whole words in register pages. -/
def State.busWrite (s : State) (m : Master) (voted : Bool) (a size be : Nat) (w : Word) : Option State :=
  let t := if isAgreement a then agreementTarget a else some a
  match t with
  | none => none
  | some a =>
    if isPage a then s.writeReg m voted ((a - pageBase) / 0x1000) (a % 0x1000 / 4 * 4) w
    else if be % 2 ^ size = 2 ^ size - 1 then some (s.memWrite m voted a size w)
    else some (s.each ((List.range size).filter (bitOf be)) fun s k =>
      s.memWrite m voted (a + k) 1 (BitVec.ofNat 32 (byteOfWord w k).toNat))

/-- What a read leaves: its word is the answer to its requester. -/
def State.answered (r : ReadRes × State) : State := match r.1 with
  | .value w => r.2.reply w
  | .error _ => r.2
  | .waits => r.2

/-- An access without a result the spec states stops (R17, R405). -/
def settle : Option State → Res
  | some s => .next s
  | none => .fault .unpredictableAccess

/-- Whether a master's own access takes place: a supervisor core's outgoing writes leave by VOTED_WRITE, and its accesses to the
agreement port by AGREEMENT_ACCESS (R308, R315, R317). -/
def accessIssues (m : Master) (write : Bool) (a : Nat) : Bool := match m with
  | .core _ => !isAgreement a && (!write || (0x08000000 ≤ a && a < 0x08080000))
  | _ => !isAgreement a

/-- Whether a master is there and runs: S2 is an application core in compat mode; in reset, SLEEP and OFF nothing runs (R12, R468). -/
def State.masterRuns (s : State) (m : Master) : Bool :=
  !s.pwr.inReset && s.powerState != 2 && s.powerState != 3 && (match m with
    | .core c => c < 2 || (c == 2 && !s.compat)
    | .app n => n < 2 || (n == 2 && s.compat)
    | .engine e => e < 16
    | .host => true
    | .trellis => true)

/-- Whether a master reaches the register pages (R334). -/
def reachesPages : Master → Bool
  | .core _ => true | .app _ => true | .host => true | .engine _ => false | .trellis => false

/-- CORE_MEMORY_ACCESS: bytes found to fail and MRAM lines found with errors come to light with it (R338 to R342). -/
def State.coreAccess (s : State) (m : Master) (write : Bool) (a size : Nat) (w : Word) (bad : List Nat) (mram : List (Nat × Nat)) :
    Option State :=
  let size := if size = 1 ∨ size = 2 then size else 4
  let s := (s.corrupt bad).corruptMram mram
  if ¬ (s.masterRuns m ∧ accessIssues m write a ∧ (reachesPages m ∨ ¬ isPage a)) then some s
  else if write then s.busWrite m false a size (2 ^ size - 1) w
  else (s.busRead m (masterPort m) a size).map State.answered

/-- REGISTER_WRITE by a master (R16, R308). -/
def State.registerWrite (s : State) (m : Master) (p off : Nat) (w : Word) : Option State :=
  if ¬ (s.masterRuns m ∧ accessIssues m true pageBase ∧ reachesPages m) then some s
  else s.writeReg m false p (off / 4 * 4) w

/-- The writes the voter has issued reach their targets, in order (R308). -/
def issueAll (s : State) : List CoreWrite → Option State
  | [] => some s
  | c :: cs => (s.busWrite (.core 0) true c.addr c.size c.be c.data).bind fun s => issueAll s cs

/-- VOTED_WRITE by core `c` (R308). -/
def State.votedWrite (s : State) (c : Nat) (w : CoreWrite) : Option State :=
  let r := s.presentWrite c w
  issueAll r.2 r.1

/-- The bitwise majority of samples; a bit on which two cores differ is free. With it, the bits that differ (R315). -/
def majority (samples : List Word) (free : Word) : Word × Word :=
  match samples with
  | [a, b, c] => ((a &&& b) ||| (a &&& c) ||| (b &&& c), (a ^^^ b) ||| (a ^^^ c))
  | [a, b] => ((a &&& b) ||| ((a ^^^ b) &&& free), a ^^^ b)
  | [a] => (a, 0)
  | _ => (0, 0)

/-- An agreed access completes: pins by majority, AGR_EVT with the bits it returns cleared, everything else by one read of the
target (R315, R504). -/
def State.agreedRead (s : State) (a : Agreed) : Option State :=
  let x := a.addr - 0x60000000
  let isWord (off : Nat) : Bool := x / 4 * 4 == pgSUP * 0x1000 + off
  if isWord 0x120 ∨ isWord 0x124 then
    let off := x % 0x1000 / 4 * 4
    let d := s.drawWord
    let r := majority a.samples d.1
    let mask : Word := if off = 0x120 then 0xFFFFFFFF else 3
    let s := d.2.setWord pgSUP off (r.1 &&& mask)
    let s := if s.compat then s else s.setWord pgSUP (off + 8) (s.word pgSUP (off + 8) ||| (r.2 &&& mask))
    some (s.reply (r.1 &&& mask))
  else (agreementTarget a.addr).bind fun t =>
    (s.busRead (.core 0) 1 t 4).map fun r =>
      let s := State.answered r
      if isWord 0x130 then s.setWord pgSUP 0x130 0 else s

/-- AGREEMENT_ACCESS by core `c` with its sample of the pins (R315). -/
def State.agreementAccess (s : State) (c a : Nat) (sample : Word) : Option State :=
  if ¬ isAgreement a then some s
  else
    let r := s.agreementIssue c a sample
    match r.1 with
    | some g => r.2.agreedRead g
    | none => some r.2

/-- VOTE_LAG_TIMEOUT of core `c`: what waited for it goes on without it (R309, R315). -/
def State.voteLag (s : State) (c : Nat) : Option State :=
  let r := s.lagTimeout c
  (match r.1 with
    | some g => r.2.2.agreedRead g
    | none => some r.2.2).bind fun s => issueAll s r.2.1

/-- The master whose accesses the debug module `k` makes: S0 to S2, then P0 and P1. -/
def State.moduleMaster (s : State) (k : Nat) : Master :=
  if 3 ≤ k then .app (k - 3) else if k = 2 ∧ s.compat then .app 2 else .core k

/-- A debugger's write through module `k`: in private memory it is replayed on the other voting cores, outside it is issued once
(R320). -/
def State.debugWrite (s : State) (k a size : Nat) (w : Word) : Option State :=
  let private_ := 0x08000000 ≤ a ∧ a < 0x08080000
  if s.supModule k ∧ private_ ∧ ¬ s.compat then
    some (s.each (insertNat k s.sup.voting) fun s c => s.memWrite (.core c) false a size w)
  else s.busWrite (s.moduleMaster k) (s.supModule k && s.supRuns) a size (2 ^ size - 1) w

/-- DEBUG_ABSTRACT_COMMAND through module `k`: a read or write of `size` bytes by a command, the program buffer or the system bus.
At OBSERVE only system bus reads act, and a command ends with cmderr 4; under Break the first command breaks voting (R321, R463). -/
def State.debugCommand (s : State) (k : Nat) (bus write : Bool) (a size : Nat) (w : Word) : Option State :=
  let size := if size = 1 ∨ size = 2 then size else 4
  if ¬ (s.moduleReach k ∧ bitOf (s.rd pgDBG Reg.DBG.STAT_SESS) k) then some s
  else if s.debugLevel ≠ 2 ∧ (write ∨ ¬ bus) then
    some (if bus then s else s.setDbg fun d => { d with cmderr := tabPut (fun _ => 0) d.cmderr k 4 })
  else
    let s := if bus then s else s.breakHalt k
    if write then s.debugWrite k a size w
    else (s.busRead (s.moduleMaster k) (masterPort (s.moduleMaster k)) a size).map State.answered

end Sys2Proof.Machine
end

