-- ==== Sys2Proof/Machine/HostPort.lean ====
section
/-! DEFINITION. The host port: frames, the ledger, deferred reads and the status word (R408 to R422). -/

namespace Sys2Proof.Machine

/-- A change of the host port beside its page. -/
def State.setHif (s : State) (f : HostPort → HostPort) : State := { s with hif := f s.hif }

/-- A word that the ledger has yet to take (R414, R416). -/
def State.owesPush (s : State) (p off : Nat) : State := { s with pushes := insertNat (regKey p off) s.pushes }

/-- One bit of the frame's CRC-8, and one byte (R410). -/
def crc8Bit (c : Nat) : Nat := if bitOf c 7 then (c * 2 % 256) ^^^ 0x2F else c * 2 % 256
def crc8Byte (c b : Nat) : Nat := (List.range 8).foldl (fun c _ => crc8Bit c) (c ^^^ (b % 256))

/-- The CRC-8 of bytes in transmission order (R410). -/
def crc8 (bs : List Nat) : Nat := bs.foldl crc8Byte 0xFF ^^^ 0xFF

/-- The bytes of a word, the most significant first. -/
def msbBytes (w : Nat) : List Nat := [w / 2 ^ 24 % 256, w / 2 ^ 16 % 256, w / 2 ^ 8 % 256, w % 256]

/-- The command bytes of a frame: OP, two reserved bits that are 0, and ADDR (R409). -/
def commandBytes (op addr : Nat) : List Nat :=
  let c := op * 2 ^ 22 + addr % 2 ^ 20
  [c / 2 ^ 16 % 256, c / 2 ^ 8 % 256, c % 256]

/-- A frame as it comes on HMOSI: the clock edges while it is selected, ADDR, CCRC, data and DCRC (R409). -/
structure HostFrame where
  edges : Nat
  addr : Nat
  ccrc : Nat
  data : Word
  dcrc : Nat
deriving DecidableEq, Repr

/-- Whether the host interface polder is closed (R31, R415). -/
def State.hifClosed (s : State) : Bool := s.sluicesClosed pdHIF

/-- Whether a deferred result is held (R418). -/
def Deferred.ready : Deferred → Bool
  | .held _ _ _ => true
  | .idle => false
  | .busy _ => false

/-- The fields of the status word that the Dike supplies (R370, R421). -/
def State.dikeStatus (s : State) : Nat :=
  let sum := (s.word pgFLT 0x100).toNat
  bit (bitOf sum 2) * 2 ^ 31 + bit (bitOf sum 1) * 2 ^ 30 + bit (bitOf sum 0) * 2 ^ 29 + bit s.stoOpen * 2 ^ 28
    + bit (s.decel 0 || s.decel 1) * 2 ^ 27 + bit s.pwr.pinLow * 2 ^ 26 + (if s.pwr.inReset then 5 else s.powerState) * 2 ^ 23
    + s.supMode * 2 ^ 21 + s.lifecycle * 2 ^ 11 + bit s.wd.warn * 2 ^ 10

/-- The status word, sampled as a frame begins; while the host interface is closed or the device in reset, the Dike's fields and
STALE (R31, R376, R421). -/
def State.statusWord (s : State) : Word :=
  if s.hifClosed ∨ s.pwr.inReset then BitVec.ofNat 32 (s.dikeStatus + 2 ^ 15)
  else BitVec.ofNat 32 (s.dikeStatus + s.rd pgSYS Reg.SYS.COMMIT_STAT_STATE * 2 ^ 18 + bit s.hif.prevErr * 2 ^ 17
    + bit s.hif.deferred.ready * 2 ^ 16 + bit s.hif.stale * 2 ^ 15 + bit s.debugActive * 2 ^ 14 + s.hif.frameSeq % 256)

/-- HINT_N as it is driven, active low (R422). -/
def State.hintN (s : State) : Bool := (s.statusWord &&& (s.word pgHIF 0x100 &&& 0xFFFFFC00)) == 0

/-- The page and offset of a frame's ADDR (R409). -/
def framePage (addr : Nat) : Nat := addr / 0x400
def frameOff (addr : Nat) : Nat := addr % 0x400 * 4

/-- A word of the ledger that nothing has reached yet holds its reset value (R414). -/
def ledgerReset (k : Nat) : Word :=
  if 0x900 ≤ keyOff k ∧ keyOff k < 0xF00 then stagedReset (k - 0x800) else regReset k

/-- A word of the ledger, and its new value. -/
def State.ledgerWord (s : State) (p off : Nat) : Word := tabGet ledgerReset s.ledger (regKey p off)
def State.ledgerPut (s : State) (p off : Nat) (w : Word) : State :=
  { s with ledger := tabPut ledgerReset s.ledger (regKey p off) w }

/-- What a block pushes of a word: the register's value, or the staged copy's (R414). -/
def State.pushValue (s : State) (p off : Nat) : Word :=
  if 0x900 ≤ off ∧ off < 0xF00 then s.stagedWord p (off - 0x800) else s.viewWord p off

/-- Whether a word of a page is part of the ledger (R414). -/
def inLedger (p off : Nat) : Bool :=
  (pageType p).isSome && off < 0xF0C && off % 4 == 0 && off != 0xF04
    && !(p == pgTP && (off == 0x100 || off == 0x104))
    && (if 0x900 ≤ off ∧ off < 0xF00 then rwsMask (regKey p (off - 0x800)) != 0 else keyNamed (regKey p off))

/-- Whether a push of a page's word is in flight (R414, R415). -/
def State.pushPending (s : State) (p off : Nat) : Bool :=
  s.pushes.contains (regKey p off)
    || (pageType p).any fun t => (derivedOffsets t).contains off && s.ledgerWord p off != s.pushValue p off

/-- LEDGER_PUSH: the block's value reaches the ledger, which a closed host interface no longer lets in (R31, R414). -/
def State.ledgerPush (s : State) (p off : Nat) : State :=
  if inLedger p off ∧ s.pushPending p off ∧ ¬ s.hifClosed then
    { s.ledgerPut p off (s.pushValue p off) with pushes := s.pushes.filter (· ≠ regKey p off) }
  else s

/-- Whether a push for a page is in flight. -/
def State.pagePending (s : State) (p : Nat) : Bool :=
  s.pushes.any (fun k => keyPage k == p)
    || (pageType p).any fun t => (derivedOffsets t).any fun off => s.ledgerWord p off != s.pushValue p off

/-- The bits of a ledger word that a host write enters at once: RW fields, and staged copies (R414). -/
def hostBits (p off : Nat) : Word :=
  if 0x900 ≤ off ∧ off < 0xF00 then rwsMask (regKey p (off - 0x800)) else BitVec.ofNat 32 (accessMask .rw (regKey p off))

/-- A frame of 72 edges has passed (R421). -/
def State.countFrame (s : State) : State := s.setHif fun h => { h with frameSeq := (h.frameSeq + 1) % 256 }

/-- What HMISO carries: the status word, read data, and the check field over both (R409). -/
def State.frameAnswer (s : State) (status data : Word) : State :=
  { s with
    answer := data
    hif := { s.hif with
      misoStatus := status, misoData := data, misoCrc := crc8 (msbBytes status.toNat ++ msbBytes data.toNat) } }

/-- An ignored frame: the case goes to LAST_ERR, is counted, and logged once (R411). -/
def State.frameIgnored (s : State) (cause edges : Nat) : State :=
  let s := (s.wr pgHIF Reg.HIF.LAST_ERR_CAUSE cause).wr pgHIF Reg.HIF.LAST_ERR_EDGES edges
  let s := s.countFirst pgHIF Reg.HIF.ERR_CNT_COUNT 0xB0 cause
  s.setHif fun h => { h with prevErr := true, stale := false }

/-- Why a frame is ignored: 1 edges, 2 CCRC, 3 DCRC of a write, 4 a write with the queue full; 0 for a good frame (R411). -/
def State.frameCause (s : State) (op : Nat) (f : HostFrame) : Nat :=
  if f.edges ≠ 72 then 1
  else if f.ccrc ≠ crc8 (commandBytes op f.addr) then 2
  else if op = 1 ∧ f.dcrc ≠ crc8 (msbBytes f.data.toNat) then 3
  else if op = 1 ∧ 16 ≤ s.hif.queue.length then 4
  else 0

/-- The read data of OP 00 and 01: the ledger's word; TP.NOW_L as it is, WDATA 0, and write-only bits free (R412, R413, R414, R417,
R48). None at a reserved address. -/
def State.frameData (s : State) (addr : Nat) : Option (Word × State) :=
  let p := framePage addr
  let off := frameOff addr
  if off = 0xF04 then (if (pageType p).any hasWindow then some (0, s) else none)
  else if p = pgTP ∧ off = 0x100 then some (BitVec.ofNat 32 s.now, (s.readNowL 0).reply s.answer)
  else if p = pgTP ∧ off = 0x104 then some (BitVec.ofNat 32 (s.tpShadow 0), s)
  else if off = 0x1C ∧ (pageType p).isSome then some (0, s)
  else if ¬ inLedger p off then none
  else
    let v := s.ledgerWord p off
    let wo : Word := if 0x900 ≤ off ∧ off < 0xF00 then 0 else BitVec.ofNat 32 (accessMask .wo (regKey p off))
    if wo = 0 then some (v, s)
    else let d := s.drawWord
      some ((v &&& ~~~wo) ||| (d.1 &&& wo), d.2)

/-- Whether the read data of a frame is stale (R49, R415). -/
def State.frameStale (s : State) (op addr : Nat) : Bool :=
  let off := frameOff addr
  if off = 0xF04 then op == 0
  else if framePage addr = pgTP ∧ off = 0x100 then false
  else s.pagePending (framePage addr)

/-- A written word enters the ledger and the queue (R414, R416). -/
def State.queueWrite (s : State) (addr : Nat) (w : Word) : State :=
  let p := framePage addr
  let off := frameOff addr
  let m := hostBits p off
  let s := if inLedger p off then s.ledgerPut p off ((s.ledgerWord p off &&& ~~~m) ||| (w &&& m)) else s
  s.setHif fun h => { h with queue := h.queue ++ [(addr, w)] }

/-- A deferred read starts: its address is shown, and no result is held (R418, R420). -/
def State.startDeferred (s : State) (addr : Nat) : State :=
  let s := ((s.wrB pgHIF Reg.HIF.DEFER_STAT_ERR false).wr pgHIF Reg.HIF.DEFER_STAT_CAUSE 0).wr pgHIF Reg.HIF.DEFER_STAT_ADDR addr
  s.setHif fun h => { h with deferred := .busy addr }

/-- The effect of a good frame of OP 10 (R418). -/
def State.requestDeferred (s : State) (addr : Nat) : State := match s.hif.deferred with
  | .busy _ => s.count pgHIF Reg.HIF.DEFER_DROP_COUNT
  | .idle => s.startDeferred addr
  | .held _ _ _ => s.startDeferred addr

/-- The effect of a good frame of OP 11: a held result is returned, and an error leads to STALE (R415, R419, R420). -/
def State.fetchDeferred (s : State) : Word × Bool × State := match s.hif.deferred with
  | .held _ w err =>
    (w, err != 0, (s.wrB pgHIF Reg.HIF.DEFER_STAT_ERR false).setHif fun h => { h with deferred := .idle })
  | .idle => (0, false, s)
  | .busy _ => (0, false, s)

/-- Whether the host port answers at all: in SLEEP and OFF only the Dike on its own clock runs (R468). -/
def State.hostAnswers (s : State) : Bool := !s.pwr.dikeLost && (s.pwr.inReset || (s.powerState != 2 && s.powerState != 3))

/-- A host frame in a closed interface or in reset: status and, but in reset, the ledger as it stands; nothing is taken in (R31,
R376, R415). -/
def State.frameClosed (s : State) (op : Nat) (f : HostFrame) : Option State :=
  if s.pwr.inReset ∨ 2 ≤ op then some (s.frameAnswer s.statusWord 0)
  else (s.frameData f.addr).map fun r => { r.2 with tp := s.tp }.frameAnswer s.statusWord r.1

/-- HOST_READ, HOST_WRITE, HOST_DEFERRED_READ and HOST_FETCH: one frame (R409 to R421). None where a good frame addresses what is
reserved. An ignored frame does nothing else. -/
def State.hostFrame (s : State) (op : Nat) (f : HostFrame) : Option State :=
  if ¬ s.hostAnswers then some s
  else if s.hifClosed ∨ s.pwr.inReset then s.frameClosed op f
  else
    let status := s.statusWord
    let s := if f.edges = 72 then s.countFrame else s
    let cause := s.frameCause op f
    if cause ≠ 0 then
      let d := s.drawWord
      some ((d.2.frameAnswer status d.1).frameIgnored cause f.edges)
    else
      let s := s.setHif fun h => { h with prevErr := false }
      if op = 3 then
        let r := s.fetchDeferred
        some ((r.2.2.frameAnswer status r.1).setHif fun h => { h with stale := r.2.1 })
      else if 0x40000 ≤ f.addr then none
      else if op = 2 then
        let t := (s.requestDeferred f.addr).frameAnswer status 0
        some (t.setHif fun h => { h with stale := false })
      else (s.frameData f.addr).map fun r =>
        let t := r.2.frameAnswer status r.1
        let t := t.setHif fun h => { h with stale := s.frameStale op f.addr }
        if op = 1 then t.queueWrite f.addr f.data else t

/-- HOST_WRITE_DELIVERY: the oldest queued write reaches its register, and the ledger follows where it differs (R416). -/
def State.deliverWrite (s : State) : Option State := match s.hif.queue with
  | [] => some s
  | (addr, w) :: rest =>
    if s.hifClosed then some s
    else
      let p := framePage addr
      let off := frameOff addr
      let s := s.setHif fun h => { h with queue := rest }
      (s.writeReg .host false p off w).map fun s =>
        if inLedger p off ∧ s.ledgerWord p off ≠ s.pushValue p off then s.owesPush p off
        else s

/-- DEFERRED_READ_COMPLETE: once every earlier write has reached its register, the read is made and its result held (R416, R418,
R420). -/
def State.completeDeferred (s : State) : Option State := match s.hif.deferred with
  | .busy addr =>
    if ¬ s.hif.queue.isEmpty ∨ s.hifClosed then some s
    else (s.readReg .host 0 (framePage addr) (frameOff addr)).map fun r => match r.1 with
      | .value w => r.2.setHif fun h => { h with deferred := .held addr w 0 }
      | .error c =>
        let s := (r.2.wrB pgHIF Reg.HIF.DEFER_STAT_ERR true).wr pgHIF Reg.HIF.DEFER_STAT_CAUSE c
        s.setHif fun h => { h with deferred := .held addr 0 c }
      | .waits => r.2
  | .idle => some s
  | .held _ _ _ => some s

end Sys2Proof.Machine
end

