-- ==== Sys2Proof/Machine/Events.lean ====
section
/-! DEFINITION. Events whose effects reach several blocks, put together from the operations of each. -/

namespace Sys2Proof.Machine

/-- A polder number shows in CTL of its page; a page without a register page has none (R17, R32). -/
def State.ctlRow (s : State) (page : Nat) (w : CtlBits) : Option State :=
  if (pageType page).isSome then some (s.ctlPage page w) else none

/-- SWITCHOVER_COMPLETE: the CAN and Ethernet controllers that ran on the crystal stop (R61, R63, R426, R428). -/
def State.referenceSwitched (s : State) : State :=
  let cans := (List.range 3).filter s.canRuns
  let eths := (List.range 2).filter s.ethRuns
  let switched := s.tp.switching
  let s := s.switchoverComplete
  if ¬ switched then s
  else
    let s := s.each cans fun s n => s.reportFab .c 0xB4 (pgCAN n)
    s.each eths fun s n => (s.ethStop n).reportFab .c 0xB4 (pgETH n)

/-- CALIBRATION_COMPLETE, TDAC_CHECK_COMPLETE: a converter that fails by it makes the drains of others judged anew (R36, R281,
R287). -/
def State.calibrated (s : State) (n : Nat) (good : Bool) : State := (s.calComplete n good).recheckDrains
def State.tdacChecked (s : State) (n code low : Nat) : State := (s.tdacComplete n code low).recheckDrains

/-- HARD_SHORT: the unblanked comparator of a switch commanded on (R260). -/
def State.hardShort (s : State) (p : Nat) (high softStill : Bool) : State :=
  if s.sideOn p high then s.shortTrip p 3 softStill false else s

/-- READ_NOW_L from a port that the part has (R48). -/
def State.readNow (s : State) (port : Nat) : State :=
  if port < 4 ∨ (port = 4 ∧ s.compat) then s.readNowL port else s

/-- One tick of the time plane passes while its clock runs (R43, R66, assumption 1). -/
def State.tick (s : State) : State := if s.clockRuns then { s with now := stampAdd s.now 1 } else s

end Sys2Proof.Machine
end

