-- ==== Sys2Proof/Machine/CmdAcquisition.lean ====
section
/-! DEFINITION. Acquisition and sensing: the meanings of their commands. -/

namespace Sys2Proof.Machine

/-- A stage event or periodic instant triggers an acquisition sequence (R273). -/
def execSequenceTrigger (periodic : Bool) (stage : Fin 10) (arg : Nat) (s : State) : Res :=
  .next (if periodic then s.periodicSequences arg else s.stageSequences stage arg)

/-- A write to SAn.SEQ_SW triggers the software sequences whose bits are set (R273). -/
def execSeqSw (converter : Fin 6) (bits : Nat) (s : State) : Res := .next (s.softwareSequences converter bits)

/-- A waiting sequence starts its first slot on its converter or its secondary (R274). -/
def execSequenceStart (converter : Fin 6) (s : State) : Res := .next (s.sequenceStart converter)

/-- A conversion slot ends, the sample is delivered and the next entry starts (R271). -/
def execConversionComplete (converter : Fin 6) (code : Fin 16384) (s : State) : Res :=
  .next (s.conversionComplete converter code)

/-- A converter idle for 2 µs with PD_EN 1 powers down (R279). -/
def execConverterPowerDown (converter : Fin 6) (s : State) : Res := .next (s.converterDown converter)

/-- A write to SAn.INJ_REQ starts or queues one injected conversion, or is dropped (R280). -/
def execInjectedRequest (converter : Fin 6) (ain : Nat) (s : State) : Res := .next (s.injectedRequest converter ain)

/-- A write of SAn.CAL_CMD.REQ 1 requests converter calibration (R281). -/
def execCalibrationRequest (converter : Fin 6) (s : State) : Res := .next (s.calRequest converter)

/-- The CAL_AUTO interval expires and requests calibration (R281). -/
def execCalibrationAuto (converter : Fin 6) (s : State) : Res := .next (s.calAuto converter)

/-- A requested calibration starts at an idle tick with no slot due (R281). -/
def execCalibrationStart (converter : Fin 6) (s : State) : Res := .next (s.calStart converter)

/-- Calibration ends and records its result, failing the converter if out of range (R281). -/
def execCalibrationComplete (converter : Fin 6) (good : Bool) (s : State) : Res := .next (s.calibrated converter good)

/-- A calibration not started within 10 ms is abandoned with fault 0x63 (R281). -/
def execCalibrationAbandon (converter : Fin 6) (s : State) : Res := .next (s.calAbandon converter)

/-- The automatic test-DAC interval expires and schedules the next round-robin check (R288). -/
def execTdacAutoCheck (converter : Fin 6) (s : State) : Res := .next (s.tdacAuto converter)

/-- A write to TDAC.REQ requests a position or pin check (R288). -/
def execTdacRequest (position : Fin 256) (pin : Bool) (s : State) : Res := .next (s.tdacRequest position pin)

/-- A test-DAC check ends and may fail a position or input (R287). -/
def execTdacCheckComplete (converter : Fin 6) (code : Fin 16384) (low : Fin 16384) (s : State) : Res :=
  .next (s.tdacChecked converter code low)

/-- A sigma-delta decimator produces a stamped output and checks the warning level (R290). -/
def execSdDecimatorOutput (ch : Fin 12) (density : Word) (s : State) : Res := .next (s.sdOutput ch density)

/-- A bitstream holds one level for 256 clocks and the channel is marked stuck (R291). -/
def execSdStuck (ch : Fin 12) (s : State) : Res := .next (s.sdStuck ch)

/-- The short filter reaches TRIP or HARD and the mapped legs are turned off and latched, with a Dike trip at HARD (R292). -/
def execFastPathDetection (ch : Fin 12) (hard : Bool) (s : State) : Res := .next (s.fastDetection ch hard)

/-- At a demodulation instant the resolver tracking loop and health checks update (R295). -/
def execResolverDemodulation (rd : Fin 2) (angle : Fin 65536) (speed : Word) (phase : Nat) (amp : Word) (err : Word) (s : State) : Res :=
  .next (s.rdDemodulate rd angle speed phase amp err)

/-- A filtered encoder edge updates count, index capture and speed, or is an invalid transition (R297). -/
def execEncoderEdge (a : Bool) (b : Bool) (z : Bool) (s : State) : Res := .next (s.encoderEdge a b z)

/-- No encoder edge for ZERO_MS sets the speed to 0 (R298). -/
def execEncoderZeroSpeed (s : State) : Res := .next (s.encoderZero)

/-- A powered-down SAR converter starts its 96-tick wake ahead of a scheduled stage-event or periodic slot, and RUN.AWAKE
becomes 1 (R279). -/
def execConverterWake (converter : Fin 6) (s : State) : Res := .next (s.converterWake converter)

end Sys2Proof.Machine
end

