-- ==== Sys2Proof/Machine/CmdChannel.lean ====
section
/-! DEFINITION. Channels and their protection: the meanings of their commands. -/

namespace Sys2Proof.Machine

/-- A transition on IHnn_PLS or IHnn_EN reaches the gate command of a channel in Ext (R252). -/
def execIhPinTransition (ch : Fin 16) (pls : Bool) (en : Bool) (s : State) : Res := .next (s.pinTransition (pgIH ch) pls en)

/-- The bootstrap comparator sets or clears BST_LOW, starting refresh or suppression (R256). -/
def execBootstrapComparator (ch : Fin 16) (low : Bool) (s : State) : Res := .next (s.bootstrap (pgIH ch) low)

/-- A bootstrap refresh pulse holds PLS low for 400 ns at its interval while BST_LOW holds (R256). -/
def execRefreshPulse (ch : Fin 16) (s : State) : Res := .next (s.refreshPulse (pgIH ch))

/-- VCP stays below VM + 8 V for 10 µs and VCP_OK clears with fault 0x4F (R255). -/
def execChargePumpLow (s : State) : Res := .next (s.chargePumpLow)

/-- After blanking a drain-source voltage above the trip level starts soft turn-off and latches the leg (R259). -/
def execVdsTrip (ch : Fin 16) (high : Bool) (softStill : Bool) (s : State) : Res := .next (s.vdsTrip (pgIH ch) high softStill)

/-- The unblanked hard-short comparator turns the switch off within 200 ns and latches the leg (R260). -/
def execHardShort (ch : Fin 16) (high : Bool) (softStill : Bool) (s : State) : Res :=
  .next (s.hardShort (pgIH ch) high softStill)

/-- XHnn_FLT_N stays low past its filter and the channel drives EN low and latches the leg (R265). -/
def execDriverFault (ch : Fin 23) (s : State) : Res := .next (s.driverFault (pgXH ch))

/-- VCP returns above its VCP_OK threshold and CH_STAT.VCP_OK reads 1 again in every IH page (R255). -/
def execChargePumpWithinRange (s : State) : Res := .next (s.chargePumpOk)

/-- XHnn_FLT_N changes level, CH_STAT.FLT_PIN follows, and a low level starts the fault filter while a high level abandons it
(R265). -/
def execXhFltNPinChange (ch : Fin 23) (low : Bool) (s : State) : Res := .next (s.fltPin (pgXH ch) low)

end Sys2Proof.Machine
end

