-- ==== Sys2Proof/Machine/CmdCommit.lean ====
section
/-! DEFINITION. Staging, commits and register writes: the meanings of their commands. -/

namespace Sys2Proof.Machine

/-- A write to a stage window sets the staged value, its written mark and the page's INCLUDE (R389). -/
def execStagedWrite (page : Fin 256) (off : Nat) (data : Word) (s : State) : Res :=
  settle (if rwsMask (regKey page off) = 0 ∨ 0x2000000 ≤ off then none else some (s.stagePut page off data))

/-- A write of STG.DISCARD 1 copies live values to the staged copies and clears marks and INCLUDE (R390). -/
def execStageDiscard (page : Fin 256) (s : State) : Res :=
  settle (if (pageType page).isSome then some (s.stageDiscard page) else none)

/-- A write of STG.INCLUDE includes or holds back a page from the next commit (R389). -/
def execStageIncludeWrite (page : Fin 256) (incl : Bool) (s : State) : Res :=
  settle (if (pageType page).isSome then some (s.stageInclude page incl) else none)

/-- A WDATA access reads or writes the word at WADDR on the selected side and may advance ADDR (R392). -/
def execWindowAccess (master : Master) (page : Fin 256) (write : Bool) (data : Word) (s : State) : Res :=
  settle (if write then s.wdataWrite master page data else (s.wdataRead master (masterPort master) page).map State.answered)

/-- A write of 0x5A17 to SYS.COMMIT takes a snapshot and starts the checks, or is ignored or not evaluated (R394). -/
def execCommit (key : BitVec 16) (s : State) : Res := .next (s.commitWrite key.toNat)

/-- The consistency checks complete and the commit waits for its mark or is refused (R397). -/
def execCommitCheckComplete (s : State) : Res := .next (s.checkComplete)

/-- At the commit mark every staged value of the snapshot becomes live at once (R400). -/
def execCommitApply (s : State) : Res := s.applyCommit

/-- A write to a register with no row of its own acts on its RW, W1C and counter fields (R16). -/
def execRegisterWrite (master : Master) (page : Fin 256) (off : Fin 4096) (data : Word) (s : State) : Res :=
  settle (s.registerWrite master page off data)

end Sys2Proof.Machine
end

