-- ==== Sys2Proof/Machine/CmdFault.lean ====
section
/-! DEFINITION. The fault collector and watchdogs: the meanings of their commands. -/

namespace Sys2Proof.Machine

/-- A fault report arrives at the collector and its class effects take place (R355). -/
def execFaultReport (index : Nat) (s : State) : Res := .next (s.arrive index s.pwr.inReset)

/-- The collector writes the next queued report into the log ring (R356). -/
def execLogEntryWrite (s : State) : Res := .next (s.logNext)

/-- A W1C write to FLT.SUM clears class summary bits (R359). -/
def execFltSumClear (bits : Fin 8) (s : State) : Res := .next (s.clearSum bits)

/-- A W1C write to a page header FLT clears class bits, with C also zeroing EVT (R359). -/
def execPageFltClear (page : Fin 256) (bits : Fin 16) (s : State) : Res :=
  settle (if (pageType page).isSome then some (s.clearPageFlt page bits) else none)

/-- The FAULT_N minimum width ends and the pin follows PIN_SW.LEVEL (R363). -/
def execFaultPinWidthEnd (s : State) : Res := .next (s.pinWidthEnd)

/-- A write of FLT.PIN_SW.LEVEL sets FAULT_N outside minimum widths (R363). -/
def execFaultPinLevelWrite (level : Bool) (s : State) : Res := .next (s.pinLevel level)

/-- FLT.QUIET passes without a class U or F arrival and reduced operation ends with fault 0xE5 (R367). -/
def execReducedOperationExit (s : State) : Res := .next (s.reducedExit)

/-- A write to DIKE.APP_KICK restarts the writing application core's watchdog window (R371). -/
def execAppKick (core : Fin 3) (s : State) : Res := .next (s.appKick core)

/-- An application core's watchdog window expires, fault 0xE1 is logged and the core is treated as stalled (R371). -/
def execAppWatchdogExpiry (core : Fin 3) (s : State) : Res := .next (s.appExpiry core)

end Sys2Proof.Machine
end

