-- ==== Sys2Proof/Machine/CmdHost.lean ====
section
/-! DEFINITION. The host port: the meanings of their commands. -/

namespace Sys2Proof.Machine

/-- A host frame with OP 0b00 returns the ledger value of the addressed word (R413). -/
def execHostRead (edges : Nat) (addr : Fin 1048576) (ccrc : Fin 256) (data : Word) (dcrc : Fin 256) (s : State) : Res :=
  settle (s.hostFrame 0 ⟨edges, addr, ccrc, data, dcrc⟩)

/-- A host frame with OP 0b01 enters the ledger and the write queue (R416). -/
def execHostWrite (edges : Nat) (addr : Fin 1048576) (ccrc : Fin 256) (data : Word) (dcrc : Fin 256) (s : State) : Res :=
  settle (s.hostFrame 1 ⟨edges, addr, ccrc, data, dcrc⟩)

/-- A host frame with OP 0b10 starts a deferred read or is dropped (R418). -/
def execHostDeferredRead (edges : Nat) (addr : Fin 1048576) (ccrc : Fin 256) (data : Word) (dcrc : Fin 256) (s : State) : Res :=
  settle (s.hostFrame 2 ⟨edges, addr, ccrc, data, dcrc⟩)

/-- A host frame with OP 0b11 returns a held deferred result, or is a no-op (R419). -/
def execHostFetch (edges : Nat) (addr : Fin 1048576) (ccrc : Fin 256) (data : Word) (dcrc : Fin 256) (s : State) : Res :=
  settle (s.hostFrame 3 ⟨edges, addr, ccrc, data, dcrc⟩)

/-- A queued host write reaches its register (R416). -/
def execHostWriteDelivery (s : State) : Res := settle (s.deliverWrite)

/-- A deferred read completes, its result or error is held and DEFER_READY is set (R418). -/
def execDeferredReadComplete (s : State) : Res := settle (s.completeDeferred)

/-- A block pushes a changed register value into the host ledger (R414). -/
def execLedgerPush (page : Fin 256) (off : Fin 4096) (s : State) : Res := .next (s.ledgerPush page off)

end Sys2Proof.Machine
end

