-- ==== Sys2Proof/Machine/CmdInject.lean ====
section
/-! DEFINITION. Fault injection: the meanings of their commands. -/

namespace Sys2Proof.Machine

/-- FLT.INJ_CMD kind 0 injects a fault report of a given code and class (R379). -/
def execInjectReport (page : Fin 256) (code : Fin 256) (cls : Fin 4) (s : State) : Res := .next (s.injectReport page code cls)

/-- FLT.INJ_CMD kind 1 inverts the check field of an SRAM byte (R379). -/
def execInjectCheckField (s : State) : Res := .next (s.injectCheckField)

/-- FLT.INJ_CMD kind 2 makes a polder withhold its next handshake transition (R379). -/
def execInjectStall (polder : Fin 256) (s : State) : Res := .next (s.injectStall polder)

/-- FLT.INJ_CMD kind 3 inverts bit 0 of a supervisor core's next outgoing write (R379). -/
def execInjectCoreWrite (core : Fin 4) (s : State) : Res := .next (s.injectCoreWrite core)

/-- FLT.INJ_CMD kind 4 fires an IH hard-short comparator or an XH driver fault (R379). -/
def execInjectChannelFault (page : Fin 256) (softStill : Bool) (s : State) : Res := .next (s.injectChannel page softStill)

/-- FLT.INJ_CMD kind 5 injects a fast-path TRIP or HARD detection on an SD channel (R379). -/
def execInjectFastPath (ch : Fin 16) (hard : Bool) (s : State) : Res := .next (s.injectFast ch hard)

/-- FLT.INJ_CMD kind 6 makes the Dike discard heartbeats until the heartbeat is lost (R379). -/
def execInjectHeartbeatLoss (s : State) : Res := .next (s.injectHeartbeat)

/-- FLT.INJ_CMD kind 7 makes the crystal monitor declare loss (R379). -/
def execInjectCrystalLoss (s : State) : Res := .next (s.injectCrystal)

end Sys2Proof.Machine
end

