-- ==== Sys2Proof/Machine/CmdInterface.lean ====
section
/-! DEFINITION. Vehicle interfaces: the meanings of their commands. -/

namespace Sys2Proof.Machine

/-- A CAN controller receives a frame, stamps and filters it into a FIFO (R425). -/
def execCanFrameReceive (can : Fin 3) (hdr : List Word) (data : List Byte) (age : Nat) (err : Nat) (s : State) : Res :=
  .next (s.canReceive can hdr data age err)

/-- A CAN controller transmits a frame from its transmit ring and writes its status (R425). -/
def execCanFrameTransmit (can : Fin 3) (ok : Bool) (age : Nat) (tdc : Nat) (s : State) : Res :=
  .next (s.canTransmit can ok age tdc)

/-- A write of CANn.CFG.BO_REC starts bus-off recovery (R425). -/
def execCanBusoffRecoveryCmd (can : Fin 3) (s : State) : Res := .next (s.canRecover can)

/-- 128 occurrences of 11 recessive bits complete bus-off recovery (R425). -/
def execCanBusoffRecovery (can : Fin 3) (s : State) : Res := .next (s.canRecovered can)

/-- An Ethernet MAC receives a frame into its ring or drops it (R428). -/
def execEthFrameReceive (eth : Fin 2) (frame : List Byte) (age : Nat) (fcsErr : Bool) (s : State) : Res :=
  .next (s.ethReceive eth frame age fcsErr)

/-- An Ethernet MAC transmits a frame from a transmit ring and writes back its entry (R512). -/
def execEthFrameTransmit (eth : Fin 2) (ok : Bool) (age : Nat) (s : State) : Res := .next (s.ethTransmit eth ok age)

/-- An Ethernet link or PLCA status is lost with fault 0xB5 (R428). -/
def execEthLinkLoss (eth : Fin 2) (plcaOnly : Bool) (s : State) : Res := .next (s.ethLinkLoss eth plcaOnly)

/-- ETH1 MDIO_CMD OP 0 sends a Clause 45 address frame (R511). -/
def execMdioAddress (phy : Fin 32) (reg : Fin 32) (c45 : Bool) (data : Fin 65536) (s : State) : Res :=
  .next (s.mdio ⟨0, phy, reg, c45, data⟩)

/-- ETH1 MDIO_CMD OP 1 writes a PHY register (R511). -/
def execMdioWrite (phy : Fin 32) (reg : Fin 32) (c45 : Bool) (data : Fin 65536) (s : State) : Res :=
  .next (s.mdio ⟨1, phy, reg, c45, data⟩)

/-- ETH1 MDIO_CMD OP 2 reads a PHY register (R511). -/
def execMdioRead (phy : Fin 32) (reg : Fin 32) (c45 : Bool) (s : State) : Res := .next (s.mdio ⟨2, phy, reg, c45, 0⟩)

/-- ETH1 MDIO_CMD OP 3 reads a Clause 45 register with address increment (R511). -/
def execMdioReadIncrement (phy : Fin 32) (reg : Fin 32) (c45 : Bool) (s : State) : Res := .next (s.mdio ⟨3, phy, reg, c45, 0⟩)

/-- An MDIO command completes and BUSY clears with any read data (R511). -/
def execMdioComplete (data : Fin 65536) (s : State) : Res := .next (s.mdioComplete data)

/-- A SENT channel receives a message, checks it and stores or discards it (R429). -/
def execSentMessage (ch : Fin 4) (cal : Nat) (status : Fin 16) (data : List Nat) (pauseOk : Bool) (crcOk : Bool) (age : Nat) (slow : Option (Nat × Nat)) (s : State) : Res :=
  .next (s.sentMessage ch cal status data pauseOk crcOk age slow)

/-- A SENT channel receives no valid message for TMO and logs fault 0xB8 (R431). -/
def execSentTimeout (ch : Fin 4) (s : State) : Res := .next (s.sentTimeout ch)

/-- A PSI5 sync pulse is requested at a multiple of the sync period (R432). -/
def execPsi5SyncPulse (psi : Fin 2) (s : State) : Res := .next (s.psiPulse psi)

/-- A PSI5 slot frame is decoded and stored or discarded (R433). -/
def execPsi5Frame (psi : Fin 2) (slot : Fin 4) (ok : Bool) (data : Nat) (age : Nat) (s : State) : Res :=
  .next (s.psiFrame psi slot ok data age)

/-- A slot lacks a valid frame for MISS_N sync periods and logs fault 0xBA (R433). -/
def execPsi5SlotMissing (psi : Fin 2) (slot : Fin 4) (s : State) : Res := .next (s.psiMissing psi slot)

/-- Software writes a ring index to hand entries to or take entries from a controller (R507). -/
def execRingHeadWrite (page : Fin 256) (off : Fin 4096) (idx : Fin 1024) (s : State) : Res :=
  .next (s.ringIndexWrite page off idx)

/-- The SPI controller takes the next transfer entry and asserts its select (R446). -/
def execSpiEntryStart (s : State) : Res := .next (s.spiStart)

/-- An SPI transfer entry completes, writes its status and stamp and advances TAIL (R446). -/
def execSpiEntryComplete (rx : List Byte) (s : State) : Res := .next (s.spiComplete rx)

/-- A write to GPIO.SET sets OUT bits (R518). -/
def execGpioSet (bits : Word) (s : State) : Res := .next (s.gpioSetClear bits 0)

/-- A write to GPIO.CLR clears OUT bits (R518). -/
def execGpioClear (bits : Word) (s : State) : Res := .next (s.gpioSetClear 0 bits)

/-- An enabled GPIO edge sets EDGE, raises the application interrupt and AGR_EVT bit 9 (R518). -/
def execGpioEdge (pin : Fin 32) (high : Bool) (s : State) : Res := .next (s.gpioEdge pin high)

/-- An Ethernet link, or PLCA status, is gained, and ESTAT.LINK, PLCA and SPEED are set, SPEED by SGMII auto-negotiation
(R511). -/
def execEthLinkUp (eth : Fin 2) (plca : Bool) (speed : Fin 4) (s : State) : Res := .next (s.ethLinkUp eth plca speed)

end Sys2Proof.Machine
end

