-- ==== Sys2Proof/Machine/CmdIsa.lean ====
section
/-! DEFINITION. The loop instruction set: the meanings of their commands. -/

namespace Sys2Proof.Machine

/-- The run ends, held state writes apply and a checkpoint is written (R90). -/
def execExit (e : Fin 16) (s : State) : Res := .next (s.loopExit e)

/-- The run ends and class U fault 0x20 is raised with the TRAP code (R90). -/
def execTrap (e : Fin 16) (code : Fin 256) (s : State) : Res := .next (s.loopTrap e code)

/-- Unconditional branch by a signed word offset (R83). -/
def execBr (e : Fin 16) (off : Int) (s : State) : Res := .next (s.branch e none off)

/-- Branch when the condition selected by cond holds (R89). -/
def execBrc (e : Fin 16) (cond : Fin 16) (off : Int) (s : State) : Res := .next (s.branch e (some cond) off)

/-- Compare two registers as binary32 or int32 and set the compare flags (R83). -/
def execCmp (e : Fin 16) (qa : Fin 64) (qb : Fin 64) (fn : Fin 3) (s : State) : Res :=
  .next (s.compute e 1 fun c => compare c (c.get qa) (c.get qb) fn)

/-- Copy a register (R83). -/
def execMov (e : Fin 16) (qd : Fin 64) (qa : Fin 64) (s : State) : Res := .next (s.compute e 1 fun c => c.put qd (c.get qa))

/-- Load a sign-extended 16-bit immediate (R83). -/
def execMovl (e : Fin 16) (qd : Fin 64) (imm : BitVec 16) (s : State) : Res :=
  .next (s.compute e 1 fun c => c.put qd (imm.signExtend 32))

/-- Load the upper 16 bits of a register from an immediate (R83). -/
def execMovh (e : Fin 16) (qd : Fin 64) (imm : BitVec 16) (s : State) : Res :=
  .next (s.compute e 1 fun c => c.put qd (withBits (c.get qd) 16 16 imm.toNat))

/-- Load a word of the state area into a register (R83). -/
def execLds (e : Fin 16) (q : Fin 64) (qa : Fin 64) (off : Fin 8192) (x : Bool) (s : State) : Res :=
  .next (s.loadState e q qa off x)

/-- Store a register into a word of the state area (R83). -/
def execSts (e : Fin 16) (q : Fin 64) (qa : Fin 64) (off : Fin 8192) (x : Bool) (s : State) : Res :=
  .next (s.storeState e q qa off x)

/-- Read a bound input with its age and set PRD and SKP (R100). -/
def execIns (e : Fin 16) (q : Fin 64) (qx : Fin 64) (h : Fin 16) (s : State) : Res := .next (s.ins e q qx h)

/-- Write a bound output, latch and stamp it, and return the apply delay (R102). -/
def execOuts (e : Fin 16) (q : Fin 64) (qx : Fin 64) (h : Fin 16) (asInt : Bool) (s : State) : Res :=
  .next (s.outs e q qx h asInt)

/-- Return a trigger stamp, TP_NOW or an interval selected by fn (R105). -/
def execStamp (e : Fin 16) (qd : Fin 64) (qa : Fin 64) (fn : Fin 4) (s : State) : Res := .next (s.stampTo e qd qa fn)

/-- Binary32 addition (R83). -/
def execFadd (e : Fin 16) (qd : Fin 64) (qa : Fin 64) (qb : Fin 64) (s : State) : Res :=
  .next (s.compute e 1 fun c => c.putFp qd (fpAdd (c.get qa) (c.get qb)))

/-- Binary32 subtraction (R83). -/
def execFsub (e : Fin 16) (qd : Fin 64) (qa : Fin 64) (qb : Fin 64) (s : State) : Res :=
  .next (s.compute e 1 fun c => c.putFp qd (fpSub (c.get qa) (c.get qb)))

/-- Binary32 multiplication (R83). -/
def execFmul (e : Fin 16) (qd : Fin 64) (qa : Fin 64) (qb : Fin 64) (s : State) : Res :=
  .next (s.compute e 1 fun c => c.putFp qd (fpMul (c.get qa) (c.get qb)))

/-- Binary32 division (R83). -/
def execFdiv (e : Fin 16) (qd : Fin 64) (qa : Fin 64) (qb : Fin 64) (s : State) : Res :=
  .next (s.compute e 6 fun c => c.putFp qd (fpDiv (c.get qa) (c.get qb)))

/-- Binary32 square root (R83). -/
def execFsqrt (e : Fin 16) (qd : Fin 64) (qa : Fin 64) (s : State) : Res :=
  .next (s.compute e 6 fun c => c.putFp qd (fpSqrt (c.get qa)))

/-- Binary32 absolute value (R83). -/
def execFabs (e : Fin 16) (qd : Fin 64) (qa : Fin 64) (s : State) : Res :=
  .next (s.compute e 1 fun c => c.put qd (fpAbs (c.get qa)))

/-- Binary32 negation (R83). -/
def execFneg (e : Fin 16) (qd : Fin 64) (qa : Fin 64) (s : State) : Res :=
  .next (s.compute e 1 fun c => c.put qd (fpNeg (c.get qa)))

/-- Binary32 minimum with the NaN and signed-zero rules (R84). -/
def execFmin (e : Fin 16) (qd : Fin 64) (qa : Fin 64) (qb : Fin 64) (s : State) : Res :=
  .next (s.compute e 1 fun c => c.put qd (fpMin (c.get qa) (c.get qb)))

/-- Binary32 maximum with the NaN and signed-zero rules (R84). -/
def execFmax (e : Fin 16) (qd : Fin 64) (qa : Fin 64) (qb : Fin 64) (s : State) : Res :=
  .next (s.compute e 1 fun c => c.put qd (fpMax (c.get qa) (c.get qb)))

/-- Clamp a binary32 value between two bounds (R84). -/
def execFclamp (e : Fin 16) (qd : Fin 64) (qa : Fin 64) (qb : Fin 64) (qc : Fin 64) (s : State) : Res :=
  .next (s.compute e 1 fun c => c.put qd (fpClamp (c.get qa) (c.get qb) (c.get qc)))

/-- Fused multiply-add with one rounding (R83). -/
def execFma (e : Fin 16) (qd : Fin 64) (qa : Fin 64) (qb : Fin 64) (qc : Fin 64) (s : State) : Res :=
  .next (s.compute e 1 fun c => c.putFp qd (fpFma (c.get qa) (c.get qb) (c.get qc) false))

/-- Fused negated multiply-add with one rounding (R83). -/
def execFnma (e : Fin 16) (qd : Fin 64) (qa : Fin 64) (qb : Fin 64) (qc : Fin 64) (s : State) : Res :=
  .next (s.compute e 1 fun c => c.putFp qd (fpFma (c.get qa) (c.get qb) (c.get qc) true))

/-- Convert between int32 and binary32 with saturation (R84). -/
def execCvt (e : Fin 16) (qd : Fin 64) (qa : Fin 64) (fn : Fin 3) (s : State) : Res :=
  .next (s.compute e 1 fun c => c.putFp qd (convert (c.get qa) fn))

/-- Int32 wrapping addition (R80). -/
def execAdd (e : Fin 16) (qd : Fin 64) (qa : Fin 64) (qb : Fin 64) (s : State) : Res :=
  .next (s.compute e 1 fun c => c.put qd (c.get qa + c.get qb))

/-- Int32 wrapping subtraction (R80). -/
def execSub (e : Fin 16) (qd : Fin 64) (qa : Fin 64) (qb : Fin 64) (s : State) : Res :=
  .next (s.compute e 1 fun c => c.put qd (c.get qa - c.get qb))

/-- Bitwise AND (R83). -/
def execAnd (e : Fin 16) (qd : Fin 64) (qa : Fin 64) (qb : Fin 64) (s : State) : Res :=
  .next (s.compute e 1 fun c => c.put qd (c.get qa &&& c.get qb))

/-- Bitwise OR (R83). -/
def execOr (e : Fin 16) (qd : Fin 64) (qa : Fin 64) (qb : Fin 64) (s : State) : Res :=
  .next (s.compute e 1 fun c => c.put qd (c.get qa ||| c.get qb))

/-- Bitwise XOR (R83). -/
def execXor (e : Fin 16) (qd : Fin 64) (qa : Fin 64) (qb : Fin 64) (s : State) : Res :=
  .next (s.compute e 1 fun c => c.put qd (c.get qa ^^^ c.get qb))

/-- Shift left by bits 4:0 of a register (R80). -/
def execShl (e : Fin 16) (qd : Fin 64) (qa : Fin 64) (qb : Fin 64) (s : State) : Res :=
  .next (s.compute e 1 fun c => c.put qd (c.get qa <<< ((c.get qb).toNat % 32)))

/-- Logical or arithmetic shift right (R80). -/
def execShr (e : Fin 16) (qd : Fin 64) (qa : Fin 64) (qb : Fin 64) (fn : Fin 2) (s : State) : Res :=
  .next (s.compute e 1 fun c => c.put qd (shiftRight (c.get qa) ((c.get qb).toNat % 32) fn))

/-- Sine and cosine into a register pair (R86). -/
def execSincos (e : Fin 16) (qd : Fin 64) (qa : Fin 64) (s : State) : Res := .next (s.sincos e qd qa)

/-- Two-argument arctangent with its range rules (R86). -/
def execAtan2 (e : Fin 16) (qd : Fin 64) (qa : Fin 64) (qb : Fin 64) (s : State) : Res := .next (s.atan2To e qd qa qb)

/-- Amplitude-invariant Clarke transform from three or two inputs (R85). -/
def execClarke (e : Fin 16) (qd : Fin 64) (qa : Fin 64) (qb : Fin 64) (qc : Fin 64) (fn : Fin 2) (s : State) : Res :=
  .next (s.compute e 2 fun c => c.putPair qd (clarke (c.get qa) (c.get qb) (c.get qc) fn))

/-- Park transform into d and q (R85). -/
def execPark (e : Fin 16) (qd : Fin 64) (qa : Fin 64) (qb : Fin 64) (qc : Fin 64) (fn : Fin 2) (s : State) : Res :=
  .next (s.rotateTo e false qd qa qb qc fn)

/-- Inverse Park transform into alpha and beta (R85). -/
def execIpark (e : Fin 16) (qd : Fin 64) (qa : Fin 64) (qb : Fin 64) (qc : Fin 64) (fn : Fin 2) (s : State) : Res :=
  .next (s.rotateTo e true qd qa qb qc fn)

/-- Space-vector modulation into three duties (R87). -/
def execSvm (e : Fin 16) (qd : Fin 64) (qa : Fin 64) (qb : Fin 64) (qc : Fin 64) (fn : Fin 2) (s : State) : Res :=
  .next (s.compute e 6 fun c => c.svmTo qd (c.get qa) (c.get qb) (c.get qc) fn)

/-- PI block update on a state record (R92). -/
def execPi (e : Fin 16) (qd : Fin 64) (qa : Fin 64) (qb : Fin 64) (rec_ : Fin 256) (s : State) : Res :=
  .next (s.pi e qd qa qb rec_)

/-- Slew limiter update on a state record (R94). -/
def execRlim (e : Fin 16) (qd : Fin 64) (qa : Fin 64) (rec_ : Fin 256) (s : State) : Res :=
  .next (s.block e rec_ 16 2 fun c w => rlimBlock c qd (c.get qa) w)

/-- First-order filter update on a state record (R95). -/
def execLpf1 (e : Fin 16) (qd : Fin 64) (qa : Fin 64) (rec_ : Fin 256) (s : State) : Res :=
  .next (s.block e rec_ 16 2 fun c w => lpf1Block c qd (c.get qa) w)

/-- Junction selection over N inputs on a state record (R97). -/
def execMinsel (e : Fin 16) (qd : Fin 64) (qa : Fin 64) (qb : Fin 64) (rec_ : Fin 256) (s : State) : Res :=
  .next (s.minsel e qd qa qb rec_)

end Sys2Proof.Machine
end

