-- ==== Sys2Proof/Machine/CmdLoop.lean ====
section
/-! DEFINITION. Loop triggers, runs, local memory and slots: the meanings of their commands. -/

namespace Sys2Proof.Machine

/-- A 64 µs rate window of a loop engine ends and LEn.RATE is updated (R20). -/
def execRateWindowEnd (engine : Fin 16) (ticks : Nat) (s : State) : Res := .next (s.rateWindowEnd engine ticks)

/-- An engine idle for more than half a window runs a rate probe in its idle time (R21). -/
def execRateProbe (engine : Fin 16) (ops : Nat) (ticks : Nat) (s : State) : Res := .next (s.rateProbe engine ops ticks)

/-- A stage period start or centre event plus offset fires loop triggers (R75). -/
def execTriggerStageEvent (stage : Fin 10) (event : Fin 4) (s : State) : Res := .next (s.fireStageEvent stage event)

/-- A periodic loop trigger fires at a multiple of its interval (R75). -/
def execTriggerPeriodic (s : State) : Res := .next (s.firePeriodic)

/-- A write of a loop ID to TRL.KICK fires that loop's kick trigger (R75). -/
def execKick (loop : Nat) (s : State) : Res := .next (s.kick loop)

/-- A waiting run starts on its engine context in class, stamp and ID order (R76). -/
def execRunDispatch (engine : Fin 16) (s : State) : Res := .next (s.dispatch engine)

/-- A run has not ended by its trigger stamp plus its deadline, DEADLINE_CNT increments and fault 0x22 may be logged (R110).
-/
def execRunDeadlinePassed (loop : Fin 64) (s : State) : Res := .next (s.deadlinePassed loop)

/-- An outside write to engine local memory is held for a state area, discarded for an image, or written if unallocated
(R525). -/
def execLocalMemoryWrite (engine : Fin 16) (addr : Fin 131072) (data : Word) (s : State) : Res :=
  .next (s.localWrite engine addr data)

/-- A core, host or interface write to a signal slot replaces all four words and stamps them (R107). -/
def execSlotWrite (writer : Fin 6) (slot : Fin 1024) (word : Fin 4) (data : Word) (s : State) : Res :=
  .next (s.slotWrite writer slot word data)

/-- A core or host read of a slot VALUE latches the slot's stamp and META into the port's shadow (R107). -/
def execSlotValueRead (port : Fin 8) (slot : Fin 1024) (s : State) : Res :=
  .next (s.slotRead port slot (if port = 0 then .host else .core))

/-- A write of DELAY_PEAK.CLR clears the peak apply delay of the selected loop (R57). -/
def execDelayPeakClear (loop : Fin 64) (s : State) : Res := .next (s.clearPeak loop)

end Sys2Proof.Machine
end

