-- ==== Sys2Proof/Machine/CmdMemory.lean ====
section
/-! DEFINITION. Memories: the meanings of their commands. -/

namespace Sys2Proof.Machine

/-- A core, engine, host or Trellis access checks its line and repairs or reports a failure (R342). -/
def execCoreMemoryAccess (master : Master) (write : Bool) (addr : BitVec 32) (size : Nat) (data : Word) (bad : List Nat) (mram : List (Nat × Nat)) (s : State) : Res :=
  settle (s.coreAccess master write addr.toNat size data bad mram)

/-- The scrubber reads the next SRAM line and handles a failure as an access would (R345). -/
def execScrubStep (addr : BitVec 32) (bad : List Nat) (s : State) : Res := .next (s.scrubStep addr.toNat bad)

/-- The scrubber reads the next MRAM line and corrects or reports it (R345). -/
def execMramScrubStep (addr : BitVec 32) (errors : List (Nat × Nat)) (s : State) : Res :=
  .next (s.mramScrubStep addr.toNat errors)

/-- A write to MRAM is programmed if voted and permitted, else refused with fault 0xAC (R337). -/
def execMramWrite (voted : Bool) (addr : BitVec 32) (bytes : List Byte) (s : State) : Res :=
  .next (s.mramWrite voted addr.toNat bytes)

/-- A write of MEM.MRAM_CMD.UPD_OPEN 1 opens the inactive bank for update (R337). -/
def execMramUpdateOpen (s : State) : Res := .next (s.openUpdate)

/-- A write of MEM.MRAM_CMD.UPD_CLOSE 1 closes the update and starts verification of the inactive bank (R455). -/
def execMramUpdateClose (s : State) : Res := .next (s.closeUpdate)

/-- The origin copy completes and LOADED is set (R343). -/
def execOriginLoadComplete (entry : Fin 16) (s : State) : Res := .next (s.originLoaded entry)

end Sys2Proof.Machine
end

