-- ==== Sys2Proof/Machine/CmdPlacement.lean ====
section
/-! DEFINITION. Trellis: placement, moves, images and grafts: the meanings of their commands. -/

namespace Sys2Proof.Machine

/-- Trellis handles one queued placement event and re-evaluates placement (R129). -/
def execPlacementEvent (s : State) : Res := .next (s.trellisEvent)

/-- Every 1.024 ms Trellis re-evaluates engine limits and the N−1 reserve from measured rates (R130). -/
def execReserveReevaluation (s : State) : Res := .next (s.when s.supRuns State.reevaluate)

/-- Loading a loop image and initial-state section onto an engine completes (R134). -/
def execImageLoadComplete (loop : Fin 64) (kind : Fin 4) (s : State) : Res :=
  .next (s.when s.supRuns (·.loadComplete loop kind))

/-- At a run end meeting the copy-time condition the source stops dispatching and the state copy starts (R135). -/
def execMoveCopyStart (loop : Fin 64) (s : State) : Res := .next (s.when s.supRuns (·.copyStart loop))

/-- A state copy completes and the destination activates the loop (R134). -/
def execMoveCopyComplete (loop : Fin 64) (s : State) : Res := .next (s.copyComplete loop)

/-- After an engine fault Trellis activates its loops elsewhere from their checkpoints (R138). -/
def execFaultMove (engine : Fin 16) (s : State) : Res := .next (s.trellisFault engine)

/-- A guarded output receives no apply by its action instant, and the guard substitutes an extrapolated value or hands the
set to the stage logic (R140). -/
def execHoldGuardExpiry (page : Fin 256) (phase : Bool) (s : State) : Res := .next (s.guardExpiry page (bit phase))

/-- Trellis evaluates the load spread and may move one class B or C loop (R144). -/
def execBalanceEvaluation (s : State) : Res := .next (s.when s.supRuns State.balanceLoops)

/-- TRL.IMG_CMD OP 1 stores a package from SRAM into an image slot for verification (R146). -/
def execImageStore (slot : Fin 64) (s : State) : Res := .next (s.imageStore slot)

/-- TRL.IMG_CMD OP 2 erases an image slot unless a descriptor names it (R146). -/
def execImageErase (slot : Fin 64) (s : State) : Res := .next (s.imgErase slot)

/-- An image store ends with the slot verified or with a failure result (R146). -/
def execImageStoreComplete (facts : SecFacts) (s : State) : Res := .next (s.imageStored facts)

/-- Every standby copy matches its slot digest and the graft set becomes ready (R147). -/
def execGraftStandbyVerified (s : State) : Res := .next (s.when s.supRuns State.graftVerified)

/-- At a suitable run end Trellis copies carried state and switches the loop to its new image (R147). -/
def execGraftSwap (loop : Fin 64) (s : State) : Res := .next (s.when s.supRuns (·.graftSwap loop))

/-- A graft set does not become ready within TRL.GRAFT_TMO and is cancelled (R149). -/
def execGraftTimeout (s : State) : Res := .next (s.when s.supRuns State.graftTimeout)

end Sys2Proof.Machine
end

