-- ==== Sys2Proof/Machine/CmdPolder.lean ====
section
/-! DEFINITION. Polders: the meanings of their commands. -/

namespace Sys2Proof.Machine

/-- A write of CTL.EN 1 to a polder in state off enables it to ready with its sluices open (R32). -/
def execPolderEnable (page : Fin 256) (drain : Bool) (test : Bool) (blkrst : Bool) (s : State) : Res :=
  settle (s.ctlRow page ⟨true, drain, test, blkrst⟩)

/-- A write of CTL.EN 0 to a drained or failed polder powers it down to off (R32). -/
def execPolderPowerDown (page : Fin 256) (drain : Bool) (test : Bool) (blkrst : Bool) (s : State) : Res :=
  settle (s.ctlRow page ⟨false, drain, test, blkrst⟩)

/-- A write of CTL.DRAIN 1 records a drain request that waits for evaluation (R34). -/
def execDrainRequest (page : Fin 256) (en : Bool) (test : Bool) (blkrst : Bool) (s : State) : Res :=
  settle (s.ctlRow page ⟨en, true, test, blkrst⟩)

/-- A write of CTL.DRAIN 0 abandons a drain in progress, or refills a drained polder without a test (R32). -/
def execDrainCancel (page : Fin 256) (en : Bool) (test : Bool) (blkrst : Bool) (s : State) : Res :=
  settle (s.ctlRow page ⟨en, false, test, blkrst⟩)

/-- A write of CTL.TEST 1 starts the self-test of a drained or failed polder, or arms it to follow a drain (R37). -/
def execTestRequest (page : Fin 256) (en : Bool) (drain : Bool) (blkrst : Bool) (s : State) : Res :=
  settle (s.ctlRow page ⟨en, drain, true, blkrst⟩)

/-- A write of CTL.BLKRST 1 resets the logic of a drained or failed polder and abandons its withheld transitions (R38). -/
def execBlockReset (page : Fin 256) (en : Bool) (drain : Bool) (test : Bool) (s : State) : Res :=
  settle (s.ctlRow page ⟨en, drain, test, true⟩)

/-- A block reset ends, and a TEST written with it then starts (R38). -/
def execBlockResetComplete (polder : Nat) (s : State) : Res := .next (s.blkrstDone polder)

/-- The device evaluates a pending drain request against its acceptance condition (R33). -/
def execDrainEvaluation (s : State) : Res := .next (s.drainEvaluate)

/-- The last work leaves a draining polder, which becomes drained and closes its sluices except the test sluice (R32). -/
def execDrainComplete (polder : Nat) (s : State) : Res := .next (s.drainComplete polder)

/-- A drain that has not completed within SYS.DRAIN_TMO is abandoned with fault 0x03 (R35). -/
def execDrainTimeout (polder : Nat) (s : State) : Res := .next (s.drainTimeout polder)

/-- A polder self-test ends and refills the polder on a pass, or fails it with fault 0x04 (R39). -/
def execSelfTestComplete (polder : Nat) (pass : Bool) (s : State) : Res := .next (s.testComplete polder pass)

/-- A polder under test withholds a transition at its test sluice past the stall limit, and the test fails (R563). -/
def execTestSluiceWithhold (polder : Nat) (s : State) : Res := .next (s.testWithholds polder)

/-- A handshake transition stays outstanding past the stall limit, and the Dike closes every sluice of the owing polder and
fails it (R28). -/
def execStallClosure (polders : List Nat) (s : State) : Res := .next (s.stallClosure polders)

/-- A request meets a closed sluice and completes with an error response and fault 0x05 (R26). -/
def execClosedSluiceRequest (requester : Nat) (target : Nat) (copyOf : Option Nat) (s : State) : Res :=
  .next (s.closedSluice requester target copyOf)

end Sys2Proof.Machine
end

