-- ==== Sys2Proof/Machine/CmdPower.lean ====
section
/-! DEFINITION. Power states, supplies and start-up: the meanings of their commands. -/

namespace Sys2Proof.Machine

/-- PWR.REQ STATE 0 requests RUN from STANDBY (R469). -/
def execPowerRequestRun (s : State) : Res := .next (s.powerRequest 0)

/-- PWR.REQ STATE 1 requests STANDBY from RUN with every stage Off (R469). -/
def execPowerRequestStandby (s : State) : Res := .next (s.powerRequest 1)

/-- PWR.REQ STATE 2 requests SLEEP from STANDBY (R469). -/
def execPowerRequestSleep (s : State) : Res := .next (s.powerRequest 2)

/-- PWR.REQ STATE 3 requests OFF from STANDBY (R469). -/
def execPowerRequestOff (s : State) : Res := .next (s.powerRequest 3)

/-- A requested power-state transition completes (R469). -/
def execPowerStateReached (s : State) : Res := .next (s.powerReached)

/-- An enabled wake source is detected, cancelling SLEEP entry or waking the device (R472). -/
def execWakeEvent (sources : Fin 128) (ticks : Nat) (s : State) : Res := .next (s.wakeEvent sources ticks)

/-- PWR.WAKE_TMR seconds after SLEEP entry the timer wakes the device (R472). -/
def execWakeTimerExpiry (ticks : Nat) (s : State) : Res := .next (s.wakeTimer ticks)

/-- VBAT below 4.0 V in SLEEP moves the device to OFF (R486). -/
def execSleepVbatLow (s : State) : Res := .next (s.sleepLow)

/-- VBAT below 6.0 V for 50 µs logs fault 0xD0 (R483). -/
def execVbatLowWarning (s : State) : Res := .next (s.monitor Reg.PWR.SUPPLY_VBAT_WARN .c 0xD0 1 false)

/-- VBAT below 5.2 V for 20 µs logs fault 0xD1 and opens STO with cause 7 (R483). -/
def execVbatUndervoltage (s : State) : Res := .next (s.monitor Reg.PWR.SUPPLY_VBAT_UV .u 0xD1 1 true)

/-- VBAT below 4.5 V for 5 µs starts a device reset with cause 3 (R485). -/
def execVbatBrownOut (s : State) : Res := .next (s.supplyReset)

/-- VBAT above 60.5 V for 1 ms logs fault 0xD0 (R483). -/
def execVbatLoadDump (s : State) : Res := .next (s.monitor Reg.PWR.SUPPLY_VBAT_HIGH .c 0xD0 2 false)

/-- VBAT above 60.5 V for 500 ms logs fault 0xD1 and opens STO (R483). -/
def execVbatSustainedHigh (s : State) : Res := .next (s.monitor Reg.PWR.SUPPLY_VBAT_LONG .u 0xD1 2 true)

/-- VBAT above 77 V for 5 µs starts a device reset (R483). -/
def execVbatOvervoltage (s : State) : Res := .next (s.supplyReset)

/-- VM below 5.5 V turns the IH channels off and logs fault 0xD1 (R484). -/
def execVmUndervoltage (s : State) : Res := .next (s.vmMonitor Reg.PWR.SUPPLY_VM_UV 3)

/-- VM above 62 V turns the IH channels off and logs fault 0xD1 (R484). -/
def execVmOvervoltage (s : State) : Res := .next (s.vmMonitor Reg.PWR.SUPPLY_VM_OV 4)

/-- An internal rail leaves its window for 10 µs and logs class F fault 0xD2 (R483). -/
def execRailOutOfWindow (rail : Fin 16) (s : State) : Res := .next (s.railFault rail)

/-- 1 ms after STO opened for a rail fault a device reset with cause 3 starts (R483). -/
def execRailResetDelay (s : State) : Res := .next (s.railReset)

/-- The die temperature reaches TJ_WARN for 1 ms and logs fault 0xD0 (R483). -/
def execJunctionWarning (s : State) : Res := .next (s.monitor Reg.PWR.SUPPLY_TJ_WARN .c 0xD0 5 false)

/-- The die temperature reaches 155 °C for 1 ms, logs fault 0xD1 and opens STO (R483). -/
def execJunctionLimit (s : State) : Res := .next (s.monitor Reg.PWR.SUPPLY_TJ_LIM .u 0xD1 5 true)

/-- The die temperature reaches 170 °C, logs fault 0xD2 and resets the device (R483). -/
def execJunctionShutdown (s : State) : Res := .next (s.junctionShutdown)

/-- A monitored supply or temperature returns past its hysteresis and the condition ends (R484). -/
def execSupplyMonitorEnd (k : Fin 8) (s : State) : Res := .next (s.monitorEnd k)

/-- VBAT and every rail are valid for 100 µs and the PLL starts (R487). -/
def execSupplyValid (s : State) : Res := .next (s.supplyValid)

/-- The PLL locks, reset is released and BOOT begins (R487). -/
def execPllLock (carried : Nat) (c0 : Bool) (c1 : Bool) (c2 : Bool) (s : State) : Res := .next (s.pllLock carried c0 c1 c2)

/-- After class 0 and 1 verification the supervisor is released and the rest of the bank is verified (R487). -/
def execSupervisorRelease (tried : Nat) (other : Nat) (classes : List (Nat × Nat)) (slots : List (Nat × Nat)) (s : State) : Res :=
  .next (s.supervisorRelease tried other classes slots)

/-- A voted write of PWR.BOOT_CMD.PREFER 1 prefers a valid inactive bank for trial boots (R493). -/
def execBootPrefer (s : State) : Res := .next (s.bootPrefer)

/-- A voted write of PWR.BOOT_CMD.CONFIRM 1 confirms the running preferred bank (R493). -/
def execBootConfirm (s : State) : Res := .next (s.bootConfirm)

/-- A write of PWR.BOOT_CMD.READY 1 by the base firmware sets PWR.BOOT.READY (R495). -/
def execBootReady (s : State) : Res := .next (s.bootReady)

/-- Every 100 µs on the Dike's RC clock, PWR.VBAT, PWR.VM and PWR.TJ are updated with measured values (R495). -/
def execSupplyMeasurementUpdate (vbat : Word) (vm : Word) (tj : Word) (s : State) : Res := .next (s.measurements vbat vm tj)

end Sys2Proof.Machine
end

