-- ==== Sys2Proof/Machine/CmdReset.lean ====
section
/-! DEFINITION. Resets: the meanings of their commands. -/

namespace Sys2Proof.Machine

/-- A write of 0xC3A5 to DIKE.RST_CMD.KEY starts a device reset with cause 4 (R374). -/
def execResetCommand (key : BitVec 16) (s : State) : Res := .next (s.resetCommand key.toNat)

/-- RESET_N held low for 1.1 µs is accepted and holds the device in reset (R376). -/
def execResetPinAssert (s : State) : Res := .next (s.pinAssertReset)

/-- RESET_N high for 1.1 µs ends the reset and boot follows (R376). -/
def execResetPinRelease (c0 : Bool) (c1 : Bool) (c2 : Bool) (s : State) : Res := .next (s.pinReleaseReset c0 c1 c2)

/-- RESET_N held for 5 s sets HELD5 and drives FAULT_N active (R364). -/
def execResetHeld5s (s : State) : Res := .next (s.resetHeld)

/-- A reset with cause 4, 5 or 6 is released after 10 µs and boot follows from step 3 (R565). -/
def execResetRelease (c0 : Bool) (c1 : Bool) (c2 : Bool) (s : State) : Res := .next (s.resetRelease c0 c1 c2)

/-- 3 µs after a device reset begins the collector stops taking reports (R568). -/
def execCollectorStop (s : State) : Res := .next (s.collectorStop)

/-- The collector restarts after reset and logs the reset record entries with origin 3 (R375). -/
def execCollectorRestart (s : State) : Res := .next (s.collectorRestart)

/-- VBAT rises after loss of the Dike supply and a Dike power-on reset clears the whole device (R375). -/
def execDikePowerOn (s : State) : Res := .next (s.dikePowerOn)

/-- VBAT falls below 3.0 V and the Dike supply is lost (R486). -/
def execDikeSupplyLoss (s : State) : Res := .next (s.dikeLoss)

/-- A debug reset on the JTAG port starts a device reset with cause 6 (R374). -/
def execDebugReset (s : State) : Res := .next (s.debugReset)

end Sys2Proof.Machine
end

