-- ==== Sys2Proof/Machine/CmdRing.lean ====
section
/-! DEFINITION. The Ryuger ring: the meanings of their commands. -/

namespace Sys2Proof.Machine

/-- The master transmits a SYNC frame at each SYNC interval (R441). -/
def execRyugerSyncTransmit (s : State) : Res := .next (s.synTransmit)

/-- A device receives a whole Ryuger frame and discards, removes, forwards or acts on it (R440). -/
def execRyugerFrameReceive (frame : List Byte) (violation : Bool) (age : Nat) (frac : Fin 20) (step : Bool) (s : State) : Res :=
  .next (s.synReceive frame violation age frac step)

/-- The receiver gains symbol lock after 64 valid symbols or loses it after 4 invalid (R438). -/
def execSymbolLockChange (on : Bool) (s : State) : Res := .next (s.symbolLock on)

/-- Three SYNC intervals without a valid SYNC clear LOCK with fault 0xBB (R442). -/
def execSyncTimeout (s : State) : Res := .next (s.syncTimeout)

/-- A voted write of TXS_HDR with GO queues a supervisor-channel frame (R517). -/
def execRyugerSupervisorSend (dst : Fin 16) (len : Fin 64) (s : State) : Res := .next (s.synSupervisorSend dst len)

/-- An application-core write of TXA_HDR with GO queues an application-channel frame (R517). -/
def execRyugerApplicationSend (dst : Fin 16) (len : Fin 64) (s : State) : Res := .next (s.synSend 1 dst len)

/-- A write of RXS_POP or RXA_POP removes the oldest received frame (R517). -/
def execRyugerRxPop (ch : Fin 2) (s : State) : Res := .next (s.synPop ch)

/-- A sent command frame does not return within 50 µs and is recorded as lost (R444). -/
def execRyugerFrameLost (ch : Fin 2) (s : State) : Res := .next (s.synLost ch)

end Sys2Proof.Machine
end

