-- ==== Sys2Proof/Machine/CmdSecurity.lean ====
section
/-! DEFINITION. Security and debug: the meanings of their commands. -/

namespace Sys2Proof.Machine

/-- SEC.CMD OP 1 submits a debug unlock token for verification (R465). -/
def execSecUnlockToken (s : State) : Res := .next (s.submitUnlock s.bufferToken)

/-- SEC.CMD OP 2 submits a lifecycle or revocation token (R459). -/
def execSecLifecycleToken (s : State) : Res := .next (s.secSubmit { kind := .lifecycle, token := s.bufferToken })

/-- SEC.CMD OP 3 requests a signed attestation report (R461). -/
def execSecAttest (s : State) : Res := .next (s.attest)

/-- SEC.CMD OP 4 requests an anti-rollback counter advance (R456). -/
def execSecAdvanceCounter (voted : Bool) (cls : Fin 8) (value : Fin 128) (s : State) : Res :=
  .next (s.advanceCounter voted cls value)

/-- The security engine starts the next waiting request in priority order (R450). -/
def execSecRequestStart (s : State) : Res := .next (s.secStart)

/-- The security engine completes a verification or command and records the result (R454). -/
def execSecRequestComplete (facts : SecFacts) (s : State) : Res := .next (s.secComplete facts)

/-- The TAP instruction IDCODE returns the device identification (R463). -/
def execTapIdcode (s : State) : Res := .next (s.tapIdcode)

/-- The TAP instruction BYPASS selects the bypass register (R463). -/
def execTapBypass (s : State) : Res := .next (s.tapBypass)

/-- The TAP instruction CHAL returns the current challenge (R464). -/
def execTapChal (word : Fin 4) (s : State) : Res := .next (s.tapChal word)

/-- The TAP instruction UNLOCK shifts in a debug token for verification (R465). -/
def execTapUnlock (token : List Word) (s : State) : Res := .next (s.tapUnlock token)

/-- A write to DBG.LEVEL lowers the debug level, resuming halted cores and removing holds (R466). -/
def execDebugLevelLower (level : Fin 4) (s : State) : Res := .next (s.lowerLevel level)

/-- A loop-engine debug snapshot copies the register context of a named loop's next run at EXIT (R467). -/
def execLeDebugSnapshot (loop : Fin 64) (s : State) : Res := .next (s.debugSnapshot loop)

/-- A loop-engine debug hold stops dispatch of a loop, or is refused (R467). -/
def execLeDebugHold (loop : Fin 64) (on : Bool) (s : State) : Res := .next (s.debugHold loop on)

/-- A debugger sets dmactive in a debug module, or enables loop-engine debug access, so DBG_ACTIVE becomes 1 and fault 0xCC
is logged (R463). -/
def execDebugSessionStart (mod : Fin 6) (s : State) : Res := .next (s.sessionStart mod)

/-- A debugger clears dmactive, or disables loop-engine debug access, ending the debug session so DBG_ACTIVE becomes 0
(R463). -/
def execDebugSessionEnd (mod : Fin 6) (s : State) : Res := .next (s.sessionEnd mod)

/-- A debugger resume or single-step of a halted S0 is made on S0, and the voter replays it on S1 and S2 (R320). -/
def execDebugResume (mod : Fin 5) (step : Bool) (s : State) : Res := .next (s.debugResume mod step)

/-- The TAP instruction EXTEST drives pins from the boundary-scan register, at OPEN in MFG and RMA only (R463). -/
def execTapExtest (bits : Nat) (s : State) : Res := .next (s.tapExtest bits)

/-- The TAP instruction SAMPLE captures pin levels into the boundary-scan register, at OPEN in MFG and RMA only (R463). -/
def execTapSample (levels : Nat) (s : State) : Res := .next (s.tapSample levels)

end Sys2Proof.Machine
end

