-- ==== Sys2Proof/Machine/CmdStage.lean ====
section
/-! DEFINITION. Power stages: the meanings of their commands. -/

namespace Sys2Proof.Machine

/-- At a stage sample instant the stage logic forms its inputs, references and checks and decides mode changes (R169). -/
def execStageSampleInstant (stage : Fin 10) (set : Fin 2) (crossing : Option Word) (s : State) : Res :=
  .next (s.stageSample stage set crossing)

/-- A stage or set period starts and takes its period, sample, phase and trim values (R403). -/
def execStagePeriodStart (stage : Fin 10) (set : Fin 2) (s : State) : Res := .next (s.periodStart stage set)

/-- Forced legs change between off and ASC under the speed rule (R167). -/
def execSpeedRuleTransition (stage : Fin 2) (s : State) : Res := .next (s.speedRule stage)

/-- Catch is not synchronised within 20 ms, fault 0x41 is logged and the stage goes Off (R180). -/
def execCatchTimeout (stage : Fin 2) (s : State) : Res := .next (s.catchTimeout stage)

/-- The stage logic declares the position lost, logs 0x43 and starts the torque ramp (R173). -/
def execPositionLost (stage : Fin 2) (s : State) : Res := .next (s.positionLost stage)

/-- LOSS_RAMP after position loss ends and both sets are forced by the speed rule as a reaction (R182). -/
def execLossRampEnd (stage : Fin 2) (s : State) : Res := .next (s.lossRampEnd stage)

/-- TQ_CMD is not written for TQ_STALE, TQ_EFF ramps to 0 and fault 0x4A is logged (R169). -/
def execTqStaleTimeout (stage : Fin 2) (s : State) : Res := .next (s.tqStaleTimeout stage)

/-- A reaction ends at standstill held 10 ms or at REACT_TMAX, and the stage enters SafeStop HOLD (R164). -/
def execReactionEnd (stage : Fin 2) (s : State) : Res := .next (s.reactionEnd stage)

/-- START_DLY has elapsed and the start conditions hold, so the stage enters Ramp from its start value (R194). -/
def execDelayEnd (stage : Fin 10) (s : State) : Res := .next (s.delayEnd stage)

/-- The start conditions are not met within the start timeout and the stage trips with cause 10 (R196). -/
def execStartTimeout (stage : Fin 10) (s : State) : Res := .next (s.startTimeout stage)

/-- The stop hold of DLY.STOP ends and the stop ramp starts (R200). -/
def execStopDelayEnd (stage : Fin 10) (s : State) : Res := .next (s.stopDelayEnd stage)

/-- A zero crossing of grid phase a updates the grid frequency, rms values and presence (R205). -/
def execGridZeroCrossing (rms : List Word) (irms : List Word) (vpk : Word) (s : State) : Res :=
  .next (s.gridCrossing rms irms vpk)

/-- No zero crossing for 30 ms, or the grid absent for a period, trips SG2 with cause 7 (R207). -/
def execGridLoss (s : State) : Res := .next (s.gridLoss)

/-- The charge-pilot controller decodes one pilot period into state, PWM and duty (R208). -/
def execPilotPeriodDecode (high : Option Word) (low : Option Word) (edges : Bool) (period : Nat) (highTime : Nat) (s : State) : Res :=
  .next (s.pilotPeriod high low edges period highTime)

/-- Every 1 ms the proximity resistance is measured and decoded into a band (R210). -/
def execProximityMeasurement (vpp : Word) (v33 : Word) (s : State) : Res := .next (s.proximity vpp v33)

/-- PHI or DUTY has not been applied for STALE.US and the stage trips with cause 5 (R218). -/
def execStaleCommandTimeout (stage : Fin 10) (s : State) : Res := .next (s.staleCommand stage)

/-- LV12_SNS crosses its threshold and the SG5 crowbar turns the high sides off and latches the low sides on (R225). -/
def execCrowbarFire (s : State) : Res := .next (s.crowbarFire)

/-- A write of SG5.CB.CLR 1 releases the crowbar latch in Off below threshold, else logs fault 0x5C (R226). -/
def execCrowbarClear (below : Bool) (s : State) : Res := .next (s.crowbarClear below)

/-- The actuator speed command has not been written for 10 ms and the speed becomes unknown (R239). -/
def execActuationSpeedTimeout (stage : Fin 10) (s : State) : Res := .next (s.actSpeedTimeout stage)

/-- STOP_TMO after entry to Stop ends the stop and the stage becomes Off (R236). -/
def execActuationStopTimeout (stage : Fin 10) (s : State) : Res := .next (s.actStopTimeout stage)

/-- At a curve instant the stage logic reads the curve input and sets the target and curve state (R243). -/
def execCurveEvaluation (stage : Fin 10) (s : State) : Res := .next (s.curveInstant stage)

end Sys2Proof.Machine
end

