-- ==== Sys2Proof/Machine/CmdSto.lean ====
section
/-! DEFINITION. Safe torque off, safe stop and plausibility: the meanings of their commands. -/

namespace Sys2Proof.Machine

/-- A cause trips the Dike, which commands both STO switches and internal paths open (R324). -/
def execStoOpen (cause : Fin 8) (s : State) : Res := .next (s.openSto cause)

/-- A write of SAF.STO_CMD.OPEN 1 opens STO with cause 6 (R324). -/
def execStoOpenCommand (s : State) : Res := .next (s.openSto 6)

/-- A write of SAF.STO_CMD.CLOSE 1 closes LS when every condition holds, or logs fault 0x92 (R325). -/
def execStoCloseCommand (s : State) : Res := .next (s.closeSto)

/-- 10 µs after LS closes the Dike closes HS (R325). -/
def execStoHsClose (s : State) : Res := .next (s.closeHs)

/-- Every 10 µs the Dike compares the STO readback band with the commanded state (R323). -/
def execStoReadbackCheck (band : Fin 4) (s : State) : Res := .next (s.readback band)

/-- A scheduled test opens one STO path for its pulse width (R326). -/
def execStoTestPulse (path : Fin 4) (s : State) : Res := .next (s.testPulse path)

/-- A test pulse ends, the path recloses and the test passes or fails (R326). -/
def execStoTestPulseEnd (opened : Bool) (reclosed : Bool) (s : State) : Res := .next (s.testPulseEnd opened reclosed)

/-- A write of 1 to a SAF.SS_CMD bit demands safe stop of a traction stage (R328). -/
def execSafeStopDemand (stage : Fin 2) (s : State) : Res := .next (s.safeStopDemand stage)

/-- The base firmware runs its plausibility checks on each active stage and applies the reaction (R329). -/
def execPlausibilityCheck (stage : Fin 10) (bad : Nat) (s : State) : Res := .next (s.plausibility stage bad)

/-- A customer hook exceeds SAF.HOOK.LIM and is ended and disabled with fault 0x91 (R330). -/
def execHookTimeLimit (s : State) : Res := .next (s.hookLimit)

end Sys2Proof.Machine
end

