-- ==== Sys2Proof/Machine/CmdSupervisor.lean ====
section
/-! DEFINITION. The supervisor and the application cores: the meanings of their commands. -/

namespace Sys2Proof.Machine

/-- A supervisor core presents an outgoing write that the voter compares and issues once a majority matches (R308). -/
def execVotedWrite (core : Fin 3) (addr : BitVec 32) (size : Nat) (be : Nat) (data : Word) (s : State) : Res :=
  settle (s.votedWrite core ⟨addr.toNat, size, be, data⟩)

/-- A core's write or access lags the other two by LAG_LIM and it becomes the minority (R309). -/
def execVoteLagTimeout (core : Fin 3) (s : State) : Res := settle (s.voteLag core)

/-- Resynchronisation of a tested core ends and it rejoins voting with fault 0x82 (R310). -/
def execResyncComplete (core : Fin 3) (s : State) : Res := .next (s.resyncComplete core)

/-- At each 1 ms point each core computes its digest and the voter compares them (R314). -/
def execStateDigest (core : Fin 3) (value : BitVec 64) (s : State) : Res := .next (s.stateDigest core value)

/-- An agreement-port access returns one agreed value to all voting cores (R315). -/
def execAgreementAccess (core : Fin 3) (addr : BitVec 32) (sample : Word) (s : State) : Res :=
  settle (s.agreementAccess core addr.toNat sample)

/-- A lockstep mismatch stops S0 and S1 and starts recovery with fault 0x84 (R318). -/
def execLockstepMismatch (s : State) : Res := .next (s.lockstepMismatch)

/-- Both lockstep cores pass self-test, are reset together and the first heartbeat ends recovery (R318). -/
def execLockstepRecoveryComplete (seq : Nat) (s : State) : Res := .next (s.recoveryComplete seq)

/-- The recovery timer expires or a test fails, and the supervisor goes out with fault 0x85 (R318). -/
def execLockstepRecoveryTimeout (s : State) : Res := .next (s.recoveryTimeout)

/-- A debugger halt under the Replay policy halts the supervisor cores at one instruction count (R320). -/
def execDebugHalt (mod : Fin 5) (s : State) : Res := .next (s.debugHalt mod)

/-- The first halt under the Break policy takes S0 out of voting and forces SG0–SG3 Off (R321). -/
def execDebugBreak (s : State) : Res := .next (s.debugBreak)

/-- A debugger abstract command, program-buffer action or system-bus write acts on a core as the level allows (R463). -/
def execDebugAbstractCommand (mod : Fin 5) (bus : Bool) (write : Bool) (addr : BitVec 32) (size : Nat) (data : Word) (s : State) : Res :=
  settle (s.debugCommand mod bus write addr.toNat size data)

/-- A write of DIKE.HB.SEQ counts as a heartbeat when it is the last value plus 1 (R322). -/
def execHeartbeatWrite (seq : BitVec 32) (s : State) : Res := .next (s.heartbeatRow seq.toNat)

/-- 60 µs without a valid heartbeat sets WDOG_WARN (R322). -/
def execHeartbeatWarn (s : State) : Res := .next (s.heartbeatWarn)

/-- 90 µs without a valid heartbeat logs fault 0x88 and the Dike opens STO (R322). -/
def execHeartbeatLoss (s : State) : Res := .next (s.heartbeatLoss)

/-- RST_DLY after a heartbeat loss with AUTO_RST 1 starts a device reset with cause 5 (R373). -/
def execWatchdogResetDelay (s : State) : Res := .next (s.watchdogReset)

/-- An application core's write to SUP.APP_REQ requests its own drain (R505). -/
def execAppDrainRequest (core : Fin 3) (s : State) : Res := .next (s.appRequest core)

/-- A voted write of SUP.APP_CTL.DRAIN drains an application core or withdraws its request (R505). -/
def execAppCoreDrain (drain : Fin 8) (release : Fin 8) (s : State) : Res := .next (s.appCtl drain release)

/-- A voted write of SUP.APP_CTL.RELEASE releases an application core from its reset vector (R503). -/
def execAppCoreRelease (drain : Fin 8) (release : Fin 8) (s : State) : Res := .next (s.appCtl drain release)

end Sys2Proof.Machine
end

