-- ==== Sys2Proof/Machine/CmdTime.lean ====
section
/-! DEFINITION. The time plane: the meanings of their commands. -/

namespace Sys2Proof.Machine

/-- A read of TP.NOW_L returns TP_NOW bits 31:0 and loads the port's shadow of bits 63:32 (R48). -/
def execReadNowL (port : Fin 5) (s : State) : Res := .next (s.readNow port)

/-- The edge interpolator recalibrates its steps in the background, and a channel out of range falls back to whole ticks with
fault 0xD7 (R46). -/
def execInterpolatorRecalibration (channel : Fin 256) (ok : Bool) (s : State) : Res := .next (s.recalibrate channel ok)

/-- The crystal monitor declares loss and the phase-locked loop starts switching to the internal reference (R61). -/
def execCrystalLoss (s : State) : Res := .next (s.crystalLoss)

/-- Switch-over to the internal reference completes, REF becomes 1 and fault 0xD4 is raised (R61). -/
def execSwitchoverComplete (s : State) : Res := .next (s.referenceSwitched)

/-- A write of TP.CTL.XTAL_RET 1 requests return to the crystal, with no effect unless XTAL_OK is 1 (R64). -/
def execCrystalReturnRequest (s : State) : Res := .next (s.returnRequest)

/-- The move back to the crystal completes, REF becomes 0, fault 0xD5 is logged and stopped interfaces restart (R64). -/
def execCrystalReturnComplete (s : State) : Res := .next (s.returnComplete)

/-- While on the internal reference, the crystal has been valid for 1 ms or stops being valid, and XTAL_OK changes (R566). -/
def execXtalOkChange (ok : Bool) (s : State) : Res := .next (s.xtalOkChange ok)

/-- Every 64 µs the Dike counts ticks against its RC clock and judges the RC clock and internal reference (R372). -/
def execDikeTickCheck (deviates : Bool) (refFails : Bool) (s : State) : Res := .next (s.tickCheck deviates refFails)

end Sys2Proof.Machine
end

