-- ==== Sys2Proof/Machine/Dispatch.lean ====
section
/-! DEFINITION. Every command goes to its meaning. -/

namespace Sys2Proof.Machine

def exec (i : Instr) (s : State) : Host.Outcome State Fault Refusal :=
  match i with
  | .polderEnable page drain test blkrst => Sys2Proof.Machine.execPolderEnable page drain test blkrst s
  | .polderPowerDown page drain test blkrst => Sys2Proof.Machine.execPolderPowerDown page drain test blkrst s
  | .drainRequest page en test blkrst => Sys2Proof.Machine.execDrainRequest page en test blkrst s
  | .drainCancel page en test blkrst => Sys2Proof.Machine.execDrainCancel page en test blkrst s
  | .testRequest page en drain blkrst => Sys2Proof.Machine.execTestRequest page en drain blkrst s
  | .blockReset page en drain test => Sys2Proof.Machine.execBlockReset page en drain test s
  | .blockResetComplete polder => Sys2Proof.Machine.execBlockResetComplete polder s
  | .drainEvaluation => Sys2Proof.Machine.execDrainEvaluation s
  | .drainComplete polder => Sys2Proof.Machine.execDrainComplete polder s
  | .drainTimeout polder => Sys2Proof.Machine.execDrainTimeout polder s
  | .selfTestComplete polder pass => Sys2Proof.Machine.execSelfTestComplete polder pass s
  | .testSluiceWithhold polder => Sys2Proof.Machine.execTestSluiceWithhold polder s
  | .stallClosure polders => Sys2Proof.Machine.execStallClosure polders s
  | .closedSluiceRequest requester target copyOf => Sys2Proof.Machine.execClosedSluiceRequest requester target copyOf s
  | .rateWindowEnd engine ticks => Sys2Proof.Machine.execRateWindowEnd engine ticks s
  | .rateProbe engine ops ticks => Sys2Proof.Machine.execRateProbe engine ops ticks s
  | .readNowL port => Sys2Proof.Machine.execReadNowL port s
  | .interpolatorRecalibration channel ok => Sys2Proof.Machine.execInterpolatorRecalibration channel ok s
  | .crystalLoss => Sys2Proof.Machine.execCrystalLoss s
  | .switchoverComplete => Sys2Proof.Machine.execSwitchoverComplete s
  | .crystalReturnRequest => Sys2Proof.Machine.execCrystalReturnRequest s
  | .crystalReturnComplete => Sys2Proof.Machine.execCrystalReturnComplete s
  | .xtalOkChange ok => Sys2Proof.Machine.execXtalOkChange ok s
  | .dikeTickCheck deviates refFails => Sys2Proof.Machine.execDikeTickCheck deviates refFails s
  | .exit e => Sys2Proof.Machine.execExit e s
  | .trap e code => Sys2Proof.Machine.execTrap e code s
  | .br e off => Sys2Proof.Machine.execBr e off s
  | .brc e cond off => Sys2Proof.Machine.execBrc e cond off s
  | .cmp e qa qb fn => Sys2Proof.Machine.execCmp e qa qb fn s
  | .mov e qd qa => Sys2Proof.Machine.execMov e qd qa s
  | .movl e qd imm => Sys2Proof.Machine.execMovl e qd imm s
  | .movh e qd imm => Sys2Proof.Machine.execMovh e qd imm s
  | .lds e q qa off x => Sys2Proof.Machine.execLds e q qa off x s
  | .sts e q qa off x => Sys2Proof.Machine.execSts e q qa off x s
  | .ins e q qx h => Sys2Proof.Machine.execIns e q qx h s
  | .outs e q qx h asInt => Sys2Proof.Machine.execOuts e q qx h asInt s
  | .stamp e qd qa fn => Sys2Proof.Machine.execStamp e qd qa fn s
  | .fadd e qd qa qb => Sys2Proof.Machine.execFadd e qd qa qb s
  | .fsub e qd qa qb => Sys2Proof.Machine.execFsub e qd qa qb s
  | .fmul e qd qa qb => Sys2Proof.Machine.execFmul e qd qa qb s
  | .fdiv e qd qa qb => Sys2Proof.Machine.execFdiv e qd qa qb s
  | .fsqrt e qd qa => Sys2Proof.Machine.execFsqrt e qd qa s
  | .fabs e qd qa => Sys2Proof.Machine.execFabs e qd qa s
  | .fneg e qd qa => Sys2Proof.Machine.execFneg e qd qa s
  | .fmin e qd qa qb => Sys2Proof.Machine.execFmin e qd qa qb s
  | .fmax e qd qa qb => Sys2Proof.Machine.execFmax e qd qa qb s
  | .fclamp e qd qa qb qc => Sys2Proof.Machine.execFclamp e qd qa qb qc s
  | .fma e qd qa qb qc => Sys2Proof.Machine.execFma e qd qa qb qc s
  | .fnma e qd qa qb qc => Sys2Proof.Machine.execFnma e qd qa qb qc s
  | .cvt e qd qa fn => Sys2Proof.Machine.execCvt e qd qa fn s
  | .add e qd qa qb => Sys2Proof.Machine.execAdd e qd qa qb s
  | .sub e qd qa qb => Sys2Proof.Machine.execSub e qd qa qb s
  | .and e qd qa qb => Sys2Proof.Machine.execAnd e qd qa qb s
  | .or e qd qa qb => Sys2Proof.Machine.execOr e qd qa qb s
  | .xor e qd qa qb => Sys2Proof.Machine.execXor e qd qa qb s
  | .shl e qd qa qb => Sys2Proof.Machine.execShl e qd qa qb s
  | .shr e qd qa qb fn => Sys2Proof.Machine.execShr e qd qa qb fn s
  | .sincos e qd qa => Sys2Proof.Machine.execSincos e qd qa s
  | .atan2 e qd qa qb => Sys2Proof.Machine.execAtan2 e qd qa qb s
  | .clarke e qd qa qb qc fn => Sys2Proof.Machine.execClarke e qd qa qb qc fn s
  | .park e qd qa qb qc fn => Sys2Proof.Machine.execPark e qd qa qb qc fn s
  | .ipark e qd qa qb qc fn => Sys2Proof.Machine.execIpark e qd qa qb qc fn s
  | .svm e qd qa qb qc fn => Sys2Proof.Machine.execSvm e qd qa qb qc fn s
  | .pi e qd qa qb rec_ => Sys2Proof.Machine.execPi e qd qa qb rec_ s
  | .rlim e qd qa rec_ => Sys2Proof.Machine.execRlim e qd qa rec_ s
  | .lpf1 e qd qa rec_ => Sys2Proof.Machine.execLpf1 e qd qa rec_ s
  | .minsel e qd qa qb rec_ => Sys2Proof.Machine.execMinsel e qd qa qb rec_ s
  | .triggerStageEvent stage event => Sys2Proof.Machine.execTriggerStageEvent stage event s
  | .triggerPeriodic => Sys2Proof.Machine.execTriggerPeriodic s
  | .kick loop => Sys2Proof.Machine.execKick loop s
  | .runDispatch engine => Sys2Proof.Machine.execRunDispatch engine s
  | .runDeadlinePassed loop => Sys2Proof.Machine.execRunDeadlinePassed loop s
  | .localMemoryWrite engine addr data => Sys2Proof.Machine.execLocalMemoryWrite engine addr data s
  | .slotWrite writer slot word data => Sys2Proof.Machine.execSlotWrite writer slot word data s
  | .slotValueRead port slot => Sys2Proof.Machine.execSlotValueRead port slot s
  | .delayPeakClear loop => Sys2Proof.Machine.execDelayPeakClear loop s
  | .placementEvent => Sys2Proof.Machine.execPlacementEvent s
  | .reserveReevaluation => Sys2Proof.Machine.execReserveReevaluation s
  | .imageLoadComplete loop kind => Sys2Proof.Machine.execImageLoadComplete loop kind s
  | .moveCopyStart loop => Sys2Proof.Machine.execMoveCopyStart loop s
  | .moveCopyComplete loop => Sys2Proof.Machine.execMoveCopyComplete loop s
  | .faultMove engine => Sys2Proof.Machine.execFaultMove engine s
  | .holdGuardExpiry page phase => Sys2Proof.Machine.execHoldGuardExpiry page phase s
  | .balanceEvaluation => Sys2Proof.Machine.execBalanceEvaluation s
  | .imageStore slot => Sys2Proof.Machine.execImageStore slot s
  | .imageErase slot => Sys2Proof.Machine.execImageErase slot s
  | .imageStoreComplete facts => Sys2Proof.Machine.execImageStoreComplete facts s
  | .graftStandbyVerified => Sys2Proof.Machine.execGraftStandbyVerified s
  | .graftSwap loop => Sys2Proof.Machine.execGraftSwap loop s
  | .graftTimeout => Sys2Proof.Machine.execGraftTimeout s
  | .stageSampleInstant stage set crossing => Sys2Proof.Machine.execStageSampleInstant stage set crossing s
  | .stagePeriodStart stage set => Sys2Proof.Machine.execStagePeriodStart stage set s
  | .speedRuleTransition stage => Sys2Proof.Machine.execSpeedRuleTransition stage s
  | .catchTimeout stage => Sys2Proof.Machine.execCatchTimeout stage s
  | .positionLost stage => Sys2Proof.Machine.execPositionLost stage s
  | .lossRampEnd stage => Sys2Proof.Machine.execLossRampEnd stage s
  | .tqStaleTimeout stage => Sys2Proof.Machine.execTqStaleTimeout stage s
  | .reactionEnd stage => Sys2Proof.Machine.execReactionEnd stage s
  | .delayEnd stage => Sys2Proof.Machine.execDelayEnd stage s
  | .startTimeout stage => Sys2Proof.Machine.execStartTimeout stage s
  | .stopDelayEnd stage => Sys2Proof.Machine.execStopDelayEnd stage s
  | .gridZeroCrossing rms irms vpk => Sys2Proof.Machine.execGridZeroCrossing rms irms vpk s
  | .gridLoss => Sys2Proof.Machine.execGridLoss s
  | .pilotPeriodDecode high low edges period highTime => Sys2Proof.Machine.execPilotPeriodDecode high low edges period highTime s
  | .proximityMeasurement vpp v33 => Sys2Proof.Machine.execProximityMeasurement vpp v33 s
  | .staleCommandTimeout stage => Sys2Proof.Machine.execStaleCommandTimeout stage s
  | .crowbarFire => Sys2Proof.Machine.execCrowbarFire s
  | .crowbarClear below => Sys2Proof.Machine.execCrowbarClear below s
  | .actuationSpeedTimeout stage => Sys2Proof.Machine.execActuationSpeedTimeout stage s
  | .actuationStopTimeout stage => Sys2Proof.Machine.execActuationStopTimeout stage s
  | .curveEvaluation stage => Sys2Proof.Machine.execCurveEvaluation stage s
  | .ihPinTransition ch pls en => Sys2Proof.Machine.execIhPinTransition ch pls en s
  | .bootstrapComparator ch low => Sys2Proof.Machine.execBootstrapComparator ch low s
  | .refreshPulse ch => Sys2Proof.Machine.execRefreshPulse ch s
  | .chargePumpLow => Sys2Proof.Machine.execChargePumpLow s
  | .vdsTrip ch high softStill => Sys2Proof.Machine.execVdsTrip ch high softStill s
  | .hardShort ch high softStill => Sys2Proof.Machine.execHardShort ch high softStill s
  | .driverFault ch => Sys2Proof.Machine.execDriverFault ch s
  | .sequenceTrigger periodic stage arg => Sys2Proof.Machine.execSequenceTrigger periodic stage arg s
  | .seqSw converter bits => Sys2Proof.Machine.execSeqSw converter bits s
  | .sequenceStart converter => Sys2Proof.Machine.execSequenceStart converter s
  | .conversionComplete converter code => Sys2Proof.Machine.execConversionComplete converter code s
  | .converterPowerDown converter => Sys2Proof.Machine.execConverterPowerDown converter s
  | .injectedRequest converter ain => Sys2Proof.Machine.execInjectedRequest converter ain s
  | .calibrationRequest converter => Sys2Proof.Machine.execCalibrationRequest converter s
  | .calibrationAuto converter => Sys2Proof.Machine.execCalibrationAuto converter s
  | .calibrationStart converter => Sys2Proof.Machine.execCalibrationStart converter s
  | .calibrationComplete converter good => Sys2Proof.Machine.execCalibrationComplete converter good s
  | .calibrationAbandon converter => Sys2Proof.Machine.execCalibrationAbandon converter s
  | .tdacAutoCheck converter => Sys2Proof.Machine.execTdacAutoCheck converter s
  | .tdacRequest position pin => Sys2Proof.Machine.execTdacRequest position pin s
  | .tdacCheckComplete converter code low => Sys2Proof.Machine.execTdacCheckComplete converter code low s
  | .sdDecimatorOutput ch density => Sys2Proof.Machine.execSdDecimatorOutput ch density s
  | .sdStuck ch => Sys2Proof.Machine.execSdStuck ch s
  | .fastPathDetection ch hard => Sys2Proof.Machine.execFastPathDetection ch hard s
  | .resolverDemodulation rd angle speed phase amp err => Sys2Proof.Machine.execResolverDemodulation rd angle speed phase amp err s
  | .encoderEdge a b z => Sys2Proof.Machine.execEncoderEdge a b z s
  | .encoderZeroSpeed => Sys2Proof.Machine.execEncoderZeroSpeed s
  | .votedWrite core addr size be data => Sys2Proof.Machine.execVotedWrite core addr size be data s
  | .voteLagTimeout core => Sys2Proof.Machine.execVoteLagTimeout core s
  | .resyncComplete core => Sys2Proof.Machine.execResyncComplete core s
  | .stateDigest core value => Sys2Proof.Machine.execStateDigest core value s
  | .agreementAccess core addr sample => Sys2Proof.Machine.execAgreementAccess core addr sample s
  | .lockstepMismatch => Sys2Proof.Machine.execLockstepMismatch s
  | .lockstepRecoveryComplete seq => Sys2Proof.Machine.execLockstepRecoveryComplete seq s
  | .lockstepRecoveryTimeout => Sys2Proof.Machine.execLockstepRecoveryTimeout s
  | .debugHalt mod => Sys2Proof.Machine.execDebugHalt mod s
  | .debugBreak => Sys2Proof.Machine.execDebugBreak s
  | .debugAbstractCommand mod bus write addr size data => Sys2Proof.Machine.execDebugAbstractCommand mod bus write addr size data s
  | .heartbeatWrite seq => Sys2Proof.Machine.execHeartbeatWrite seq s
  | .heartbeatWarn => Sys2Proof.Machine.execHeartbeatWarn s
  | .heartbeatLoss => Sys2Proof.Machine.execHeartbeatLoss s
  | .watchdogResetDelay => Sys2Proof.Machine.execWatchdogResetDelay s
  | .stoOpen cause => Sys2Proof.Machine.execStoOpen cause s
  | .stoOpenCommand => Sys2Proof.Machine.execStoOpenCommand s
  | .stoCloseCommand => Sys2Proof.Machine.execStoCloseCommand s
  | .stoHsClose => Sys2Proof.Machine.execStoHsClose s
  | .stoReadbackCheck band => Sys2Proof.Machine.execStoReadbackCheck band s
  | .stoTestPulse path => Sys2Proof.Machine.execStoTestPulse path s
  | .stoTestPulseEnd opened reclosed => Sys2Proof.Machine.execStoTestPulseEnd opened reclosed s
  | .safeStopDemand stage => Sys2Proof.Machine.execSafeStopDemand stage s
  | .plausibilityCheck stage bad => Sys2Proof.Machine.execPlausibilityCheck stage bad s
  | .hookTimeLimit => Sys2Proof.Machine.execHookTimeLimit s
  | .coreMemoryAccess master write addr size data bad mram => Sys2Proof.Machine.execCoreMemoryAccess master write addr size data bad mram s
  | .scrubStep addr bad => Sys2Proof.Machine.execScrubStep addr bad s
  | .mramScrubStep addr errors => Sys2Proof.Machine.execMramScrubStep addr errors s
  | .mramWrite voted addr bytes => Sys2Proof.Machine.execMramWrite voted addr bytes s
  | .mramUpdateOpen => Sys2Proof.Machine.execMramUpdateOpen s
  | .mramUpdateClose => Sys2Proof.Machine.execMramUpdateClose s
  | .originLoadComplete entry => Sys2Proof.Machine.execOriginLoadComplete entry s
  | .faultReport index => Sys2Proof.Machine.execFaultReport index s
  | .logEntryWrite => Sys2Proof.Machine.execLogEntryWrite s
  | .fltSumClear bits => Sys2Proof.Machine.execFltSumClear bits s
  | .pageFltClear page bits => Sys2Proof.Machine.execPageFltClear page bits s
  | .faultPinWidthEnd => Sys2Proof.Machine.execFaultPinWidthEnd s
  | .faultPinLevelWrite level => Sys2Proof.Machine.execFaultPinLevelWrite level s
  | .reducedOperationExit => Sys2Proof.Machine.execReducedOperationExit s
  | .appKick core => Sys2Proof.Machine.execAppKick core s
  | .appWatchdogExpiry core => Sys2Proof.Machine.execAppWatchdogExpiry core s
  | .resetCommand key => Sys2Proof.Machine.execResetCommand key s
  | .resetPinAssert => Sys2Proof.Machine.execResetPinAssert s
  | .resetPinRelease c0 c1 c2 => Sys2Proof.Machine.execResetPinRelease c0 c1 c2 s
  | .resetHeld5s => Sys2Proof.Machine.execResetHeld5s s
  | .resetRelease c0 c1 c2 => Sys2Proof.Machine.execResetRelease c0 c1 c2 s
  | .collectorStop => Sys2Proof.Machine.execCollectorStop s
  | .collectorRestart => Sys2Proof.Machine.execCollectorRestart s
  | .dikePowerOn => Sys2Proof.Machine.execDikePowerOn s
  | .dikeSupplyLoss => Sys2Proof.Machine.execDikeSupplyLoss s
  | .injectReport page code cls => Sys2Proof.Machine.execInjectReport page code cls s
  | .injectCheckField => Sys2Proof.Machine.execInjectCheckField s
  | .injectStall polder => Sys2Proof.Machine.execInjectStall polder s
  | .injectCoreWrite core => Sys2Proof.Machine.execInjectCoreWrite core s
  | .injectChannelFault page softStill => Sys2Proof.Machine.execInjectChannelFault page softStill s
  | .injectFastPath ch hard => Sys2Proof.Machine.execInjectFastPath ch hard s
  | .injectHeartbeatLoss => Sys2Proof.Machine.execInjectHeartbeatLoss s
  | .injectCrystalLoss => Sys2Proof.Machine.execInjectCrystalLoss s
  | .stagedWrite page off data => Sys2Proof.Machine.execStagedWrite page off data s
  | .stageDiscard page => Sys2Proof.Machine.execStageDiscard page s
  | .stageIncludeWrite page incl => Sys2Proof.Machine.execStageIncludeWrite page incl s
  | .windowAccess master page write data => Sys2Proof.Machine.execWindowAccess master page write data s
  | .commit key => Sys2Proof.Machine.execCommit key s
  | .commitCheckComplete => Sys2Proof.Machine.execCommitCheckComplete s
  | .commitApply => Sys2Proof.Machine.execCommitApply s
  | .registerWrite master page off data => Sys2Proof.Machine.execRegisterWrite master page off data s
  | .hostRead edges addr ccrc data dcrc => Sys2Proof.Machine.execHostRead edges addr ccrc data dcrc s
  | .hostWrite edges addr ccrc data dcrc => Sys2Proof.Machine.execHostWrite edges addr ccrc data dcrc s
  | .hostDeferredRead edges addr ccrc data dcrc => Sys2Proof.Machine.execHostDeferredRead edges addr ccrc data dcrc s
  | .hostFetch edges addr ccrc data dcrc => Sys2Proof.Machine.execHostFetch edges addr ccrc data dcrc s
  | .hostWriteDelivery => Sys2Proof.Machine.execHostWriteDelivery s
  | .deferredReadComplete => Sys2Proof.Machine.execDeferredReadComplete s
  | .ledgerPush page off => Sys2Proof.Machine.execLedgerPush page off s
  | .canFrameReceive can hdr data age err => Sys2Proof.Machine.execCanFrameReceive can hdr data age err s
  | .canFrameTransmit can ok age tdc => Sys2Proof.Machine.execCanFrameTransmit can ok age tdc s
  | .canBusoffRecoveryCmd can => Sys2Proof.Machine.execCanBusoffRecoveryCmd can s
  | .canBusoffRecovery can => Sys2Proof.Machine.execCanBusoffRecovery can s
  | .ethFrameReceive eth frame age fcsErr => Sys2Proof.Machine.execEthFrameReceive eth frame age fcsErr s
  | .ethFrameTransmit eth ok age => Sys2Proof.Machine.execEthFrameTransmit eth ok age s
  | .ethLinkLoss eth plcaOnly => Sys2Proof.Machine.execEthLinkLoss eth plcaOnly s
  | .mdioAddress phy reg c45 data => Sys2Proof.Machine.execMdioAddress phy reg c45 data s
  | .mdioWrite phy reg c45 data => Sys2Proof.Machine.execMdioWrite phy reg c45 data s
  | .mdioRead phy reg c45 => Sys2Proof.Machine.execMdioRead phy reg c45 s
  | .mdioReadIncrement phy reg c45 => Sys2Proof.Machine.execMdioReadIncrement phy reg c45 s
  | .mdioComplete data => Sys2Proof.Machine.execMdioComplete data s
  | .sentMessage ch cal status data pauseOk crcOk age slow => Sys2Proof.Machine.execSentMessage ch cal status data pauseOk crcOk age slow s
  | .sentTimeout ch => Sys2Proof.Machine.execSentTimeout ch s
  | .psi5SyncPulse psi => Sys2Proof.Machine.execPsi5SyncPulse psi s
  | .psi5Frame psi slot ok data age => Sys2Proof.Machine.execPsi5Frame psi slot ok data age s
  | .psi5SlotMissing psi slot => Sys2Proof.Machine.execPsi5SlotMissing psi slot s
  | .ryugerSyncTransmit => Sys2Proof.Machine.execRyugerSyncTransmit s
  | .ryugerFrameReceive frame violation age frac step => Sys2Proof.Machine.execRyugerFrameReceive frame violation age frac step s
  | .symbolLockChange on => Sys2Proof.Machine.execSymbolLockChange on s
  | .syncTimeout => Sys2Proof.Machine.execSyncTimeout s
  | .ryugerSupervisorSend dst len => Sys2Proof.Machine.execRyugerSupervisorSend dst len s
  | .ryugerApplicationSend dst len => Sys2Proof.Machine.execRyugerApplicationSend dst len s
  | .ryugerRxPop ch => Sys2Proof.Machine.execRyugerRxPop ch s
  | .ryugerFrameLost ch => Sys2Proof.Machine.execRyugerFrameLost ch s
  | .ringHeadWrite page off idx => Sys2Proof.Machine.execRingHeadWrite page off idx s
  | .spiEntryStart => Sys2Proof.Machine.execSpiEntryStart s
  | .spiEntryComplete rx => Sys2Proof.Machine.execSpiEntryComplete rx s
  | .secUnlockToken => Sys2Proof.Machine.execSecUnlockToken s
  | .secLifecycleToken => Sys2Proof.Machine.execSecLifecycleToken s
  | .secAttest => Sys2Proof.Machine.execSecAttest s
  | .secAdvanceCounter voted cls value => Sys2Proof.Machine.execSecAdvanceCounter voted cls value s
  | .secRequestStart => Sys2Proof.Machine.execSecRequestStart s
  | .secRequestComplete facts => Sys2Proof.Machine.execSecRequestComplete facts s
  | .tapIdcode => Sys2Proof.Machine.execTapIdcode s
  | .tapBypass => Sys2Proof.Machine.execTapBypass s
  | .tapChal word => Sys2Proof.Machine.execTapChal word s
  | .tapUnlock token => Sys2Proof.Machine.execTapUnlock token s
  | .debugReset => Sys2Proof.Machine.execDebugReset s
  | .debugLevelLower level => Sys2Proof.Machine.execDebugLevelLower level s
  | .leDebugSnapshot loop => Sys2Proof.Machine.execLeDebugSnapshot loop s
  | .leDebugHold loop on => Sys2Proof.Machine.execLeDebugHold loop on s
  | .powerRequestRun => Sys2Proof.Machine.execPowerRequestRun s
  | .powerRequestStandby => Sys2Proof.Machine.execPowerRequestStandby s
  | .powerRequestSleep => Sys2Proof.Machine.execPowerRequestSleep s
  | .powerRequestOff => Sys2Proof.Machine.execPowerRequestOff s
  | .powerStateReached => Sys2Proof.Machine.execPowerStateReached s
  | .wakeEvent sources ticks => Sys2Proof.Machine.execWakeEvent sources ticks s
  | .wakeTimerExpiry ticks => Sys2Proof.Machine.execWakeTimerExpiry ticks s
  | .sleepVbatLow => Sys2Proof.Machine.execSleepVbatLow s
  | .vbatLowWarning => Sys2Proof.Machine.execVbatLowWarning s
  | .vbatUndervoltage => Sys2Proof.Machine.execVbatUndervoltage s
  | .vbatBrownOut => Sys2Proof.Machine.execVbatBrownOut s
  | .vbatLoadDump => Sys2Proof.Machine.execVbatLoadDump s
  | .vbatSustainedHigh => Sys2Proof.Machine.execVbatSustainedHigh s
  | .vbatOvervoltage => Sys2Proof.Machine.execVbatOvervoltage s
  | .vmUndervoltage => Sys2Proof.Machine.execVmUndervoltage s
  | .vmOvervoltage => Sys2Proof.Machine.execVmOvervoltage s
  | .railOutOfWindow rail => Sys2Proof.Machine.execRailOutOfWindow rail s
  | .railResetDelay => Sys2Proof.Machine.execRailResetDelay s
  | .junctionWarning => Sys2Proof.Machine.execJunctionWarning s
  | .junctionLimit => Sys2Proof.Machine.execJunctionLimit s
  | .junctionShutdown => Sys2Proof.Machine.execJunctionShutdown s
  | .supplyMonitorEnd k => Sys2Proof.Machine.execSupplyMonitorEnd k s
  | .supplyValid => Sys2Proof.Machine.execSupplyValid s
  | .pllLock carried c0 c1 c2 => Sys2Proof.Machine.execPllLock carried c0 c1 c2 s
  | .supervisorRelease tried other classes slots => Sys2Proof.Machine.execSupervisorRelease tried other classes slots s
  | .bootPrefer => Sys2Proof.Machine.execBootPrefer s
  | .bootConfirm => Sys2Proof.Machine.execBootConfirm s
  | .bootReady => Sys2Proof.Machine.execBootReady s
  | .appDrainRequest core => Sys2Proof.Machine.execAppDrainRequest core s
  | .appCoreDrain drain release => Sys2Proof.Machine.execAppCoreDrain drain release s
  | .appCoreRelease drain release => Sys2Proof.Machine.execAppCoreRelease drain release s
  | .gpioSet bits => Sys2Proof.Machine.execGpioSet bits s
  | .gpioClear bits => Sys2Proof.Machine.execGpioClear bits s
  | .gpioEdge pin high => Sys2Proof.Machine.execGpioEdge pin high s
  | .converterWake converter => Sys2Proof.Machine.execConverterWake converter s
  | .chargePumpWithinRange => Sys2Proof.Machine.execChargePumpWithinRange s
  | .xhFltNPinChange ch low => Sys2Proof.Machine.execXhFltNPinChange ch low s
  | .ethLinkUp eth plca speed => Sys2Proof.Machine.execEthLinkUp eth plca speed s
  | .debugSessionStart mod => Sys2Proof.Machine.execDebugSessionStart mod s
  | .debugSessionEnd mod => Sys2Proof.Machine.execDebugSessionEnd mod s
  | .debugResume mod step => Sys2Proof.Machine.execDebugResume mod step s
  | .tapExtest bits => Sys2Proof.Machine.execTapExtest bits s
  | .tapSample levels => Sys2Proof.Machine.execTapSample levels s
  | .supplyMeasurementUpdate vbat vm tj => Sys2Proof.Machine.execSupplyMeasurementUpdate vbat vm tj s

end Sys2Proof.Machine
end

