-- ==== Sys2Proof/Safety.lean ====
section
/-! DEFINITION. What a sound state is, and what a safe step is. -/

namespace Sys2Proof.Machine

/-- A sound state: memory, the register file and the staged copies are in canonical form, and TP_NOW fits its 64 bits (R43,
R335, R383, R388). -/
structure State.Sound (s : State) : Prop where
  mem : Memory.wf s.mem = true
  regs : tabWf regReset s.regs = true
  staged : tabWf stagedReset s.staged = true
  now : s.now < 2 ^ 64

/-- The parts of the state, one for each field of `State`. -/
inductive Part where
  | regs | staged | marks | pushes | ledger | mem | chk | now | fresh | polders | drainQ | coll | tp | hif | commit
  | engines | loops | slotShadows | sup | trl | guards | chans | stages | pilot | samples | waitingSeqs | convs | tdac
  | sdFrom | resolvers | enc | ifc | syn | sec | dbg | pwr | sto | wd | answer | pending
deriving DecidableEq, Repr

/-- A part is in `t` as it is in `s`. -/
def Part.Same (s t : State) : Part → Prop
  | .regs => t.regs = s.regs
  | .staged => t.staged = s.staged
  | .marks => t.marks = s.marks
  | .pushes => t.pushes = s.pushes
  | .ledger => t.ledger = s.ledger
  | .mem => t.mem = s.mem
  | .chk => t.chk = s.chk
  | .now => t.now = s.now
  | .fresh => t.fresh = s.fresh
  | .polders => t.polders = s.polders
  | .drainQ => t.drainQ = s.drainQ
  | .coll => t.coll = s.coll
  | .tp => t.tp = s.tp
  | .hif => t.hif = s.hif
  | .commit => t.commit = s.commit
  | .engines => t.engines = s.engines
  | .loops => t.loops = s.loops
  | .slotShadows => t.slotShadows = s.slotShadows
  | .sup => t.sup = s.sup
  | .trl => t.trl = s.trl
  | .guards => t.guards = s.guards
  | .chans => t.chans = s.chans
  | .stages => t.stages = s.stages
  | .pilot => t.pilot = s.pilot
  | .samples => t.samples = s.samples
  | .waitingSeqs => t.waitingSeqs = s.waitingSeqs
  | .convs => t.convs = s.convs
  | .tdac => t.tdac = s.tdac
  | .sdFrom => t.sdFrom = s.sdFrom
  | .resolvers => t.resolvers = s.resolvers
  | .enc => t.enc = s.enc
  | .ifc => t.ifc = s.ifc
  | .syn => t.syn = s.syn
  | .sec => t.sec = s.sec
  | .dbg => t.dbg = s.dbg
  | .pwr => t.pwr = s.pwr
  | .sto => t.sto = s.sto
  | .wd => t.wd = s.wd
  | .answer => t.answer = s.answer
  | .pending => t.pending = s.pending

/-- Of the parts of the state, only the listed ones may differ between `s` and `t`. -/
def Touches (parts : List Part) (s t : State) : Prop := ∀ p, p ∉ parts → p.Same s t

/-- The parts of the state that each command may change; the queue of waiting commands is in none of them. -/
def mayTouch : Instr → List Part
  | .polderEnable .. => [.regs, .pushes, .polders, .drainQ, .coll, .loops, .sup, .trl, .pilot]
  | .polderPowerDown .. => [.regs, .pushes, .polders, .drainQ, .coll, .loops, .sup, .trl, .pilot]
  | .drainRequest .. => [.regs, .pushes, .polders, .drainQ, .coll, .loops, .sup, .trl, .pilot]
  | .drainCancel .. => [.regs, .pushes, .polders, .drainQ, .coll, .loops, .sup, .trl, .pilot]
  | .testRequest .. => [.regs, .pushes, .polders, .drainQ, .coll, .loops, .sup, .trl, .pilot]
  | .blockReset .. => [.regs, .pushes, .polders, .drainQ, .coll, .loops, .sup, .trl, .pilot]
  | .blockResetComplete .. => [.regs, .pushes, .polders]
  | .drainEvaluation => [.regs, .pushes, .polders, .drainQ, .coll, .sup, .trl]
  | .drainComplete .. => [.regs, .pushes, .polders, .ifc]
  | .drainTimeout .. => [.regs, .pushes, .polders, .coll, .loops, .sup, .trl, .pilot]
  | .selfTestComplete .. =>
    [.regs, .pushes, .mem, .chk, .polders, .drainQ, .coll, .sup, .trl, .guards, .chans, .stages, .pilot, .tdac, .sto]
  | .testSluiceWithhold .. => [.regs, .pushes, .polders, .drainQ, .coll, .sup, .guards, .chans, .stages, .sto]
  | .stallClosure .. =>
    [.regs, .pushes, .polders, .drainQ, .coll, .engines, .loops, .sup, .trl, .guards, .chans, .stages, .pilot, .samples,
    .convs, .ifc, .sto, .wd]
  | .closedSluiceRequest .. => [.regs, .pushes, .mem, .chk, .polders, .coll, .engines, .loops, .trl]
  | .rateWindowEnd .. => [.regs, .pushes, .engines, .trl]
  | .rateProbe .. => [.engines]
  | .readNowL .. => [.tp, .answer]
  | .interpolatorRecalibration .. => [.coll, .tp]
  | .crystalLoss => [.regs, .pushes, .tp]
  | .switchoverComplete => [.regs, .pushes, .coll, .tp]
  | .crystalReturnRequest => [.regs, .pushes, .tp]
  | .crystalReturnComplete => [.regs, .pushes, .coll, .tp]
  | .xtalOkChange .. => [.regs, .pushes]
  | .dikeTickCheck .. => [.regs, .pushes, .coll, .tp, .guards, .chans, .stages, .sto]
  | .exit .. => [.regs, .pushes, .mem, .chk, .polders, .coll, .engines, .loops, .trl]
  | .trap .. => [.regs, .pushes, .mem, .chk, .polders, .coll, .engines, .loops, .trl]
  | .br .. => [.regs, .pushes, .mem, .chk, .polders, .coll, .engines, .loops, .trl]
  | .brc .. => [.regs, .pushes, .mem, .chk, .polders, .coll, .engines, .loops, .trl]
  | .cmp .. => [.regs, .pushes, .mem, .chk, .polders, .coll, .engines, .loops, .trl]
  | .mov .. => [.regs, .pushes, .mem, .chk, .polders, .coll, .engines, .loops, .trl]
  | .movl .. => [.regs, .pushes, .mem, .chk, .polders, .coll, .engines, .loops, .trl]
  | .movh .. => [.regs, .pushes, .mem, .chk, .polders, .coll, .engines, .loops, .trl]
  | .lds .. => [.regs, .pushes, .mem, .chk, .polders, .coll, .engines, .loops, .trl]
  | .sts .. => [.regs, .pushes, .mem, .chk, .polders, .coll, .engines, .loops, .trl]
  | .ins .. => [.regs, .pushes, .mem, .chk, .polders, .coll, .engines, .loops, .trl]
  | .outs .. => [.regs, .pushes, .mem, .chk, .polders, .coll, .engines, .loops, .trl, .guards, .chans, .stages]
  | .stamp .. => [.regs, .pushes, .mem, .chk, .polders, .coll, .engines, .loops, .trl]
  | .fadd .. => [.regs, .pushes, .mem, .chk, .polders, .coll, .engines, .loops, .trl]
  | .fsub .. => [.regs, .pushes, .mem, .chk, .polders, .coll, .engines, .loops, .trl]
  | .fmul .. => [.regs, .pushes, .mem, .chk, .polders, .coll, .engines, .loops, .trl]
  | .fdiv .. => [.regs, .pushes, .mem, .chk, .polders, .coll, .engines, .loops, .trl]
  | .fsqrt .. => [.regs, .pushes, .mem, .chk, .polders, .coll, .engines, .loops, .trl]
  | .fabs .. => [.regs, .pushes, .mem, .chk, .polders, .coll, .engines, .loops, .trl]
  | .fneg .. => [.regs, .pushes, .mem, .chk, .polders, .coll, .engines, .loops, .trl]
  | .fmin .. => [.regs, .pushes, .mem, .chk, .polders, .coll, .engines, .loops, .trl]
  | .fmax .. => [.regs, .pushes, .mem, .chk, .polders, .coll, .engines, .loops, .trl]
  | .fclamp .. => [.regs, .pushes, .mem, .chk, .polders, .coll, .engines, .loops, .trl]
  | .fma .. => [.regs, .pushes, .mem, .chk, .polders, .coll, .engines, .loops, .trl]
  | .fnma .. => [.regs, .pushes, .mem, .chk, .polders, .coll, .engines, .loops, .trl]
  | .cvt .. => [.regs, .pushes, .mem, .chk, .polders, .coll, .engines, .loops, .trl]
  | .add .. => [.regs, .pushes, .mem, .chk, .polders, .coll, .engines, .loops, .trl]
  | .sub .. => [.regs, .pushes, .mem, .chk, .polders, .coll, .engines, .loops, .trl]
  | .and .. => [.regs, .pushes, .mem, .chk, .polders, .coll, .engines, .loops, .trl]
  | .or .. => [.regs, .pushes, .mem, .chk, .polders, .coll, .engines, .loops, .trl]
  | .xor .. => [.regs, .pushes, .mem, .chk, .polders, .coll, .engines, .loops, .trl]
  | .shl .. => [.regs, .pushes, .mem, .chk, .polders, .coll, .engines, .loops, .trl]
  | .shr .. => [.regs, .pushes, .mem, .chk, .polders, .coll, .engines, .loops, .trl]
  | .sincos .. => [.regs, .pushes, .mem, .chk, .fresh, .polders, .coll, .engines, .loops, .trl]
  | .atan2 .. => [.regs, .pushes, .mem, .chk, .fresh, .polders, .coll, .engines, .loops, .trl]
  | .clarke .. => [.regs, .pushes, .mem, .chk, .polders, .coll, .engines, .loops, .trl]
  | .park .. => [.regs, .pushes, .mem, .chk, .fresh, .polders, .coll, .engines, .loops, .trl]
  | .ipark .. => [.regs, .pushes, .mem, .chk, .fresh, .polders, .coll, .engines, .loops, .trl]
  | .svm .. => [.regs, .pushes, .mem, .chk, .polders, .coll, .engines, .loops, .trl]
  | .pi .. => [.regs, .pushes, .mem, .chk, .polders, .coll, .engines, .loops, .trl]
  | .rlim .. => [.regs, .pushes, .mem, .chk, .polders, .coll, .engines, .loops, .trl]
  | .lpf1 .. => [.regs, .pushes, .mem, .chk, .polders, .coll, .engines, .loops, .trl]
  | .minsel .. => [.regs, .pushes, .mem, .chk, .polders, .coll, .engines, .loops, .trl]
  | .triggerStageEvent .. => [.regs, .pushes, .coll, .engines, .loops, .trl, .guards]
  | .triggerPeriodic => [.regs, .pushes, .coll, .engines, .loops, .trl, .guards]
  | .kick .. => [.regs, .pushes, .coll, .engines, .loops, .trl, .guards]
  | .runDispatch .. => [.engines]
  | .runDeadlinePassed .. => [.regs, .pushes, .coll, .loops]
  | .localMemoryWrite .. => [.mem, .chk, .coll, .loops]
  | .slotWrite .. => [.regs, .pushes, .mem, .chk, .coll, .engines, .loops, .trl, .guards]
  | .slotValueRead .. => [.regs, .pushes, .chk, .coll, .slotShadows, .answer]
  | .delayPeakClear .. => [.loops]
  | .placementEvent => [.regs, .pushes, .mem, .chk, .polders, .coll, .engines, .loops, .sup, .trl, .guards, .pilot]
  | .reserveReevaluation => [.regs, .pushes, .coll, .loops, .trl]
  | .imageLoadComplete .. => [.regs, .pushes, .mem, .chk, .polders, .loops]
  | .moveCopyStart .. => [.regs, .pushes, .coll, .loops]
  | .moveCopyComplete .. => [.regs, .pushes, .mem, .chk, .polders, .coll, .loops]
  | .faultMove .. => [.regs, .pushes, .mem, .chk, .polders, .coll, .engines, .loops, .sup, .trl, .guards, .pilot]
  | .holdGuardExpiry .. => [.regs, .pushes, .coll, .guards, .chans, .stages]
  | .balanceEvaluation => [.regs, .pushes, .coll, .loops, .trl]
  | .imageStore .. => [.regs, .pushes, .coll, .trl, .sec]
  | .imageErase .. => [.regs, .pushes, .mem, .chk, .coll]
  | .imageStoreComplete .. => [.regs, .pushes, .mem, .chk, .coll, .trl, .sec]
  | .graftStandbyVerified => [.regs, .pushes, .coll, .loops, .trl]
  | .graftSwap .. => [.regs, .pushes, .mem, .chk, .polders, .coll, .loops, .trl, .guards]
  | .graftTimeout => [.regs, .pushes, .coll, .loops, .trl]
  | .stageSampleInstant .. => [.regs, .pushes, .coll, .guards, .chans, .stages, .sto]
  | .stagePeriodStart .. => [.regs, .pushes, .coll, .guards, .chans, .stages]
  | .speedRuleTransition .. => [.regs, .pushes, .coll, .guards, .chans, .stages]
  | .catchTimeout .. => [.regs, .pushes, .coll, .guards, .chans, .stages]
  | .positionLost .. => [.regs, .pushes, .coll, .stages]
  | .lossRampEnd .. => [.regs, .pushes, .coll, .guards, .chans, .stages]
  | .tqStaleTimeout .. => [.coll, .stages]
  | .reactionEnd .. => [.regs, .pushes, .guards, .chans, .stages]
  | .delayEnd .. => [.regs, .pushes, .guards, .chans, .stages]
  | .startTimeout .. => [.regs, .pushes, .coll, .guards, .chans, .stages]
  | .stopDelayEnd .. => [.regs, .pushes, .guards, .chans, .stages]
  | .gridZeroCrossing .. => [.regs, .pushes, .coll, .guards, .chans, .stages]
  | .gridLoss => [.regs, .pushes, .coll, .guards, .chans, .stages]
  | .pilotPeriodDecode .. => [.regs, .pushes, .coll, .guards, .chans, .stages, .pilot]
  | .proximityMeasurement .. => [.regs, .pushes, .coll, .guards, .chans, .stages, .pilot]
  | .staleCommandTimeout .. => [.regs, .pushes, .coll, .guards, .chans, .stages]
  | .crowbarFire => [.regs, .pushes, .coll, .guards, .chans, .stages]
  | .crowbarClear .. => [.regs, .pushes, .coll, .guards, .chans, .stages]
  | .actuationSpeedTimeout .. => [.regs, .pushes]
  | .actuationStopTimeout .. => [.regs, .pushes, .guards, .chans, .stages]
  | .curveEvaluation .. => [.regs, .pushes, .chk, .fresh, .coll, .guards, .chans, .stages]
  | .ihPinTransition .. => [.regs, .pushes, .chans]
  | .bootstrapComparator .. => [.regs, .pushes, .coll, .chans]
  | .refreshPulse .. => [.regs, .pushes, .coll, .chans]
  | .chargePumpLow => [.regs, .pushes, .coll]
  | .vdsTrip .. => [.regs, .pushes, .coll, .guards, .chans, .stages]
  | .hardShort .. => [.regs, .pushes, .coll, .guards, .chans, .stages]
  | .driverFault .. => [.regs, .pushes, .coll, .guards, .chans, .stages]
  | .sequenceTrigger .. => [.regs, .pushes, .coll, .engines, .loops, .trl, .guards, .samples, .waitingSeqs, .convs]
  | .seqSw .. => [.regs, .pushes, .coll, .engines, .loops, .trl, .guards, .samples, .waitingSeqs, .convs]
  | .sequenceStart .. => [.regs, .pushes, .polders, .coll, .engines, .loops, .trl, .guards, .samples, .waitingSeqs, .convs]
  | .conversionComplete .. => [.regs, .pushes, .coll, .engines, .loops, .trl, .guards, .samples, .convs]
  | .converterPowerDown .. => [.regs, .pushes]
  | .injectedRequest .. => [.regs, .pushes, .coll, .convs]
  | .calibrationRequest .. => [.regs, .pushes, .convs]
  | .calibrationAuto .. => [.regs, .pushes, .convs]
  | .calibrationStart .. => [.regs, .pushes, .convs]
  | .calibrationComplete .. =>
    [.regs, .pushes, .polders, .drainQ, .coll, .engines, .loops, .sup, .trl, .guards, .pilot, .samples, .convs]
  | .calibrationAbandon .. => [.regs, .pushes, .coll, .convs]
  | .tdacAutoCheck .. => [.tdac]
  | .tdacRequest .. => [.regs, .pushes, .tdac]
  | .tdacCheckComplete .. => [.regs, .pushes, .polders, .coll, .loops, .sup, .trl, .pilot, .tdac]
  | .sdDecimatorOutput .. => [.regs, .pushes, .coll, .samples]
  | .sdStuck .. => [.regs, .pushes, .coll, .guards, .chans, .stages, .samples, .sto]
  | .fastPathDetection .. => [.regs, .pushes, .coll, .guards, .chans, .stages, .sto]
  | .resolverDemodulation .. => [.regs, .pushes, .coll, .samples, .resolvers]
  | .encoderEdge .. => [.regs, .pushes, .coll, .samples, .enc]
  | .encoderZeroSpeed => [.samples]
  | .votedWrite .. =>
    [.regs, .staged, .marks, .pushes, .ledger, .mem, .chk, .fresh, .polders, .drainQ, .coll, .tp, .hif, .commit, .engines,
    .loops, .slotShadows, .sup, .trl, .guards, .chans, .stages, .pilot, .samples, .waitingSeqs, .convs, .tdac, .sdFrom,
    .resolvers, .enc, .ifc, .syn, .sec, .dbg, .pwr, .sto, .wd]
  | .voteLagTimeout .. =>
    [.regs, .staged, .marks, .pushes, .ledger, .mem, .chk, .fresh, .polders, .drainQ, .coll, .tp, .hif, .commit, .engines,
    .loops, .slotShadows, .sup, .trl, .guards, .chans, .stages, .pilot, .samples, .waitingSeqs, .convs, .tdac, .sdFrom,
    .resolvers, .enc, .ifc, .syn, .sec, .dbg, .pwr, .sto, .wd, .answer]
  | .resyncComplete .. => [.regs, .pushes, .mem, .chk, .polders, .coll, .sup]
  | .stateDigest .. => [.regs, .pushes, .polders, .drainQ, .coll, .sup, .guards, .chans, .stages, .sto]
  | .agreementAccess .. =>
    [.regs, .pushes, .mem, .chk, .fresh, .polders, .drainQ, .coll, .tp, .engines, .loops, .slotShadows, .sup, .trl,
    .guards, .chans, .stages, .sto, .answer]
  | .lockstepMismatch => [.regs, .pushes, .polders, .coll, .sup, .wd]
  | .lockstepRecoveryComplete .. => [.regs, .pushes, .polders, .sup, .wd]
  | .lockstepRecoveryTimeout => [.regs, .pushes, .coll, .sup, .guards, .chans, .stages, .sto]
  | .debugHalt .. => [.regs, .pushes, .coll, .sup, .guards, .chans, .stages, .dbg]
  | .debugBreak => [.regs, .pushes, .coll, .sup, .guards, .chans, .stages]
  | .debugAbstractCommand .. =>
    [.regs, .staged, .marks, .pushes, .ledger, .mem, .chk, .fresh, .polders, .drainQ, .coll, .tp, .hif, .commit, .engines,
    .loops, .slotShadows, .sup, .trl, .guards, .chans, .stages, .pilot, .samples, .waitingSeqs, .convs, .tdac, .sdFrom,
    .resolvers, .enc, .ifc, .syn, .sec, .dbg, .pwr, .sto, .wd, .answer]
  | .heartbeatWrite .. => [.regs, .pushes, .wd]
  | .heartbeatWarn => [.regs, .pushes, .wd]
  | .heartbeatLoss => [.regs, .pushes, .coll, .guards, .chans, .stages, .sto, .wd]
  | .watchdogResetDelay =>
    [.regs, .staged, .marks, .pushes, .ledger, .mem, .chk, .polders, .drainQ, .coll, .tp, .hif, .commit, .engines, .loops,
    .slotShadows, .sup, .trl, .guards, .chans, .stages, .pilot, .samples, .waitingSeqs, .convs, .tdac, .sdFrom,
    .resolvers, .enc, .ifc, .syn, .sec, .dbg, .pwr, .sto, .wd]
  | .stoOpen .. => [.regs, .pushes, .coll, .guards, .chans, .stages, .sto]
  | .stoOpenCommand => [.regs, .pushes, .coll, .guards, .chans, .stages, .sto]
  | .stoCloseCommand => [.regs, .pushes, .coll, .sto]
  | .stoHsClose => [.regs, .pushes, .sto]
  | .stoReadbackCheck .. => [.regs, .pushes, .coll, .guards, .chans, .stages, .sto]
  | .stoTestPulse .. => [.regs, .pushes, .sto]
  | .stoTestPulseEnd .. => [.regs, .pushes, .coll, .guards, .chans, .stages, .sto]
  | .safeStopDemand .. => [.regs, .pushes, .coll, .guards, .chans, .stages]
  | .plausibilityCheck .. => [.regs, .pushes, .coll, .sup, .guards, .chans, .stages, .sto]
  | .hookTimeLimit => [.coll, .sup]
  | .coreMemoryAccess .. =>
    [.regs, .staged, .marks, .pushes, .ledger, .mem, .chk, .fresh, .polders, .drainQ, .coll, .tp, .hif, .commit, .engines,
    .loops, .slotShadows, .sup, .trl, .guards, .chans, .stages, .pilot, .samples, .waitingSeqs, .convs, .tdac, .sdFrom,
    .resolvers, .enc, .ifc, .syn, .sec, .dbg, .pwr, .sto, .wd, .answer]
  | .scrubStep .. =>
    [.regs, .pushes, .mem, .chk, .polders, .coll, .engines, .loops, .sup, .trl, .guards, .chans, .stages, .sto]
  | .mramScrubStep .. => [.regs, .pushes, .chk, .coll]
  | .mramWrite .. => [.mem, .chk, .coll]
  | .mramUpdateOpen => [.regs, .pushes]
  | .mramUpdateClose => [.regs, .pushes, .sec]
  | .originLoadComplete .. => [.regs, .pushes, .mem, .chk]
  | .faultReport .. => [.regs, .pushes, .fresh, .coll, .guards, .chans, .stages, .sto]
  | .logEntryWrite => [.regs, .pushes, .coll]
  | .fltSumClear .. => [.regs, .pushes, .coll]
  | .pageFltClear .. => [.regs, .pushes]
  | .faultPinWidthEnd => [.regs, .pushes, .coll]
  | .faultPinLevelWrite .. => [.regs, .pushes]
  | .reducedOperationExit => [.regs, .pushes, .coll]
  | .appKick .. => [.wd]
  | .appWatchdogExpiry .. => [.regs, .pushes, .coll, .guards, .chans, .stages, .wd]
  | .resetCommand .. =>
    [.regs, .staged, .marks, .pushes, .ledger, .mem, .chk, .polders, .drainQ, .coll, .tp, .hif, .commit, .engines, .loops,
    .slotShadows, .sup, .trl, .guards, .chans, .stages, .pilot, .samples, .waitingSeqs, .convs, .tdac, .sdFrom,
    .resolvers, .enc, .ifc, .syn, .sec, .dbg, .pwr, .sto, .wd]
  | .resetPinAssert =>
    [.regs, .staged, .marks, .pushes, .ledger, .mem, .chk, .polders, .drainQ, .coll, .tp, .hif, .commit, .engines, .loops,
    .slotShadows, .sup, .trl, .guards, .chans, .stages, .pilot, .samples, .waitingSeqs, .convs, .tdac, .sdFrom,
    .resolvers, .enc, .ifc, .syn, .sec, .dbg, .pwr, .sto, .wd]
  | .resetPinRelease .. => [.regs, .pushes, .fresh, .polders, .coll, .pwr]
  | .resetHeld5s => [.regs, .pushes]
  | .resetRelease .. => [.regs, .pushes, .fresh, .polders, .coll, .pwr]
  | .collectorStop => [.coll]
  | .collectorRestart => [.regs, .pushes, .coll, .pwr]
  | .dikePowerOn =>
    [.regs, .staged, .marks, .pushes, .ledger, .mem, .chk, .now, .polders, .drainQ, .coll, .tp, .hif, .commit, .engines,
    .loops, .slotShadows, .sup, .trl, .guards, .chans, .stages, .pilot, .samples, .waitingSeqs, .convs, .tdac, .sdFrom,
    .resolvers, .enc, .ifc, .syn, .sec, .dbg, .pwr, .sto, .wd]
  | .dikeSupplyLoss =>
    [.regs, .staged, .marks, .pushes, .ledger, .mem, .chk, .now, .polders, .drainQ, .coll, .tp, .hif, .commit, .engines,
    .loops, .slotShadows, .sup, .trl, .guards, .chans, .stages, .pilot, .samples, .waitingSeqs, .convs, .tdac, .sdFrom,
    .resolvers, .enc, .ifc, .syn, .sec, .dbg, .pwr, .sto, .wd]
  | .injectReport .. => [.regs, .pushes, .coll]
  | .injectCheckField => [.regs, .pushes, .chk]
  | .injectStall .. => [.regs, .pushes, .polders]
  | .injectCoreWrite .. => [.regs, .pushes, .sup]
  | .injectChannelFault .. => [.regs, .pushes, .coll, .guards, .chans, .stages]
  | .injectFastPath .. => [.regs, .pushes, .coll, .guards, .chans, .stages, .sto]
  | .injectHeartbeatLoss => [.regs, .pushes, .wd]
  | .injectCrystalLoss => [.regs, .pushes, .tp]
  | .stagedWrite .. => [.regs, .staged, .marks, .pushes, .commit]
  | .stageDiscard .. => [.regs, .staged, .marks, .pushes, .commit]
  | .stageIncludeWrite .. => [.regs, .pushes]
  | .windowAccess .. =>
    [.regs, .staged, .marks, .pushes, .mem, .chk, .fresh, .polders, .coll, .commit, .engines, .loops, .slotShadows, .sup,
    .trl, .guards, .chans, .stages, .sec, .sto, .answer]
  | .commit .. => [.regs, .pushes, .commit]
  | .commitCheckComplete => [.regs, .pushes, .chk, .fresh, .coll, .commit, .guards, .chans, .stages]
  | .commitApply =>
    [.regs, .marks, .pushes, .chk, .fresh, .polders, .coll, .commit, .engines, .loops, .trl, .guards, .chans, .stages,
    .convs, .sdFrom, .resolvers, .enc, .ifc, .syn, .dbg, .wd]
  | .registerWrite .. =>
    [.regs, .staged, .marks, .pushes, .ledger, .mem, .chk, .fresh, .polders, .drainQ, .coll, .tp, .hif, .commit, .engines,
    .loops, .slotShadows, .sup, .trl, .guards, .chans, .stages, .pilot, .samples, .waitingSeqs, .convs, .tdac, .sdFrom,
    .resolvers, .enc, .ifc, .syn, .sec, .dbg, .pwr, .sto, .wd]
  | .hostRead .. => [.regs, .pushes, .ledger, .fresh, .coll, .tp, .hif, .answer]
  | .hostWrite .. => [.regs, .pushes, .ledger, .fresh, .coll, .tp, .hif, .answer]
  | .hostDeferredRead .. => [.regs, .pushes, .ledger, .fresh, .coll, .tp, .hif, .answer]
  | .hostFetch .. => [.regs, .pushes, .ledger, .fresh, .coll, .tp, .hif, .answer]
  | .hostWriteDelivery =>
    [.regs, .staged, .marks, .pushes, .ledger, .mem, .chk, .fresh, .polders, .drainQ, .coll, .tp, .hif, .commit, .engines,
    .loops, .slotShadows, .sup, .trl, .guards, .chans, .stages, .pilot, .samples, .waitingSeqs, .convs, .tdac, .sdFrom,
    .resolvers, .enc, .ifc, .syn, .sec, .dbg, .pwr, .sto, .wd]
  | .deferredReadComplete =>
    [.regs, .pushes, .mem, .chk, .fresh, .polders, .coll, .tp, .hif, .engines, .loops, .slotShadows, .sup, .trl, .guards,
    .chans, .stages, .sto, .answer]
  | .ledgerPush .. => [.pushes, .ledger]
  | .canFrameReceive .. => [.regs, .pushes, .mem, .chk, .fresh, .polders, .coll]
  | .canFrameTransmit .. => [.regs, .pushes, .mem, .chk, .polders, .coll]
  | .canBusoffRecoveryCmd .. => [.ifc]
  | .canBusoffRecovery .. => [.regs, .pushes, .coll, .ifc]
  | .ethFrameReceive .. => [.regs, .pushes, .mem, .chk, .polders, .coll]
  | .ethFrameTransmit .. => [.regs, .pushes, .mem, .chk, .polders]
  | .ethLinkLoss .. => [.regs, .pushes, .coll]
  | .mdioAddress .. => [.regs, .pushes, .ifc]
  | .mdioWrite .. => [.regs, .pushes, .ifc]
  | .mdioRead .. => [.regs, .pushes, .ifc]
  | .mdioReadIncrement .. => [.regs, .pushes, .ifc]
  | .mdioComplete .. => [.regs, .pushes, .ifc]
  | .sentMessage .. => [.regs, .pushes, .mem, .chk, .polders, .coll, .engines, .loops, .trl, .guards, .ifc]
  | .sentTimeout .. => [.coll, .ifc]
  | .psi5SyncPulse .. => [.regs, .pushes, .polders, .ifc]
  | .psi5Frame .. => [.regs, .pushes, .mem, .chk, .coll, .engines, .loops, .trl, .guards, .ifc]
  | .psi5SlotMissing .. => [.coll, .ifc]
  | .ryugerSyncTransmit => [.regs, .pushes, .polders, .coll, .syn]
  | .ryugerFrameReceive .. => [.regs, .pushes, .now, .polders, .coll, .ifc, .syn]
  | .symbolLockChange .. => [.regs, .pushes, .polders, .syn]
  | .syncTimeout => [.regs, .pushes, .coll, .syn]
  | .ryugerSupervisorSend .. => [.regs, .pushes, .polders, .syn]
  | .ryugerApplicationSend .. => [.regs, .pushes, .polders, .syn]
  | .ryugerRxPop .. => [.regs, .pushes, .syn]
  | .ryugerFrameLost .. => [.regs, .pushes, .polders, .syn]
  | .ringHeadWrite .. => [.regs, .pushes]
  | .spiEntryStart => [.regs, .pushes, .mem, .chk, .fresh, .polders, .coll, .ifc]
  | .spiEntryComplete .. => [.regs, .pushes, .mem, .chk, .ifc]
  | .secUnlockToken => [.regs, .pushes, .coll, .sec]
  | .secLifecycleToken => [.regs, .pushes, .sec]
  | .secAttest => [.regs, .pushes, .coll, .sec]
  | .secAdvanceCounter .. => [.regs, .pushes, .coll, .sec]
  | .secRequestStart => [.regs, .pushes, .sec]
  | .secRequestComplete .. => [.regs, .pushes, .fresh, .coll, .guards, .chans, .stages, .sec]
  | .tapIdcode => [.dbg, .answer]
  | .tapBypass => [.dbg]
  | .tapChal .. => [.dbg, .answer]
  | .tapUnlock .. => [.regs, .pushes, .coll, .sec, .dbg]
  | .debugReset =>
    [.regs, .staged, .marks, .pushes, .ledger, .mem, .chk, .polders, .drainQ, .coll, .tp, .hif, .commit, .engines, .loops,
    .slotShadows, .sup, .trl, .guards, .chans, .stages, .pilot, .samples, .waitingSeqs, .convs, .tdac, .sdFrom,
    .resolvers, .enc, .ifc, .syn, .sec, .dbg, .pwr, .sto, .wd]
  | .debugLevelLower .. => [.regs, .pushes, .loops, .sup, .dbg]
  | .leDebugSnapshot .. => [.engines]
  | .leDebugHold .. => [.loops]
  | .powerRequestRun => [.regs, .pushes, .coll, .pwr]
  | .powerRequestStandby => [.regs, .pushes, .coll, .pwr]
  | .powerRequestSleep => [.regs, .pushes, .coll, .pwr]
  | .powerRequestOff => [.regs, .pushes, .coll, .pwr]
  | .powerStateReached =>
    [.regs, .staged, .marks, .pushes, .ledger, .mem, .chk, .now, .polders, .drainQ, .coll, .tp, .hif, .commit, .engines,
    .loops, .slotShadows, .sup, .trl, .guards, .chans, .stages, .pilot, .samples, .waitingSeqs, .convs, .tdac, .sdFrom,
    .resolvers, .enc, .ifc, .syn, .sec, .dbg, .pwr, .sto, .wd]
  | .wakeEvent .. =>
    [.regs, .staged, .marks, .pushes, .ledger, .mem, .chk, .now, .polders, .drainQ, .coll, .tp, .hif, .commit, .engines,
    .loops, .slotShadows, .sup, .trl, .guards, .chans, .stages, .pilot, .samples, .waitingSeqs, .convs, .tdac, .sdFrom,
    .resolvers, .enc, .ifc, .syn, .sec, .dbg, .pwr, .sto, .wd]
  | .wakeTimerExpiry .. =>
    [.regs, .staged, .marks, .pushes, .ledger, .mem, .chk, .now, .polders, .drainQ, .coll, .tp, .hif, .commit, .engines,
    .loops, .slotShadows, .sup, .trl, .guards, .chans, .stages, .pilot, .samples, .waitingSeqs, .convs, .tdac, .sdFrom,
    .resolvers, .enc, .ifc, .syn, .sec, .dbg, .pwr, .sto, .wd]
  | .sleepVbatLow =>
    [.regs, .staged, .marks, .pushes, .ledger, .mem, .chk, .now, .polders, .drainQ, .coll, .tp, .hif, .commit, .engines,
    .loops, .slotShadows, .sup, .trl, .guards, .chans, .stages, .pilot, .samples, .waitingSeqs, .convs, .tdac, .sdFrom,
    .resolvers, .enc, .ifc, .syn, .sec, .dbg, .pwr, .sto, .wd]
  | .vbatLowWarning => [.regs, .pushes, .coll, .guards, .chans, .stages, .sto]
  | .vbatUndervoltage => [.regs, .pushes, .coll, .guards, .chans, .stages, .sto]
  | .vbatBrownOut =>
    [.regs, .staged, .marks, .pushes, .ledger, .mem, .chk, .polders, .drainQ, .coll, .tp, .hif, .commit, .engines, .loops,
    .slotShadows, .sup, .trl, .guards, .chans, .stages, .pilot, .samples, .waitingSeqs, .convs, .tdac, .sdFrom,
    .resolvers, .enc, .ifc, .syn, .sec, .dbg, .pwr, .sto, .wd]
  | .vbatLoadDump => [.regs, .pushes, .coll, .guards, .chans, .stages, .sto]
  | .vbatSustainedHigh => [.regs, .pushes, .coll, .guards, .chans, .stages, .sto]
  | .vbatOvervoltage =>
    [.regs, .staged, .marks, .pushes, .ledger, .mem, .chk, .polders, .drainQ, .coll, .tp, .hif, .commit, .engines, .loops,
    .slotShadows, .sup, .trl, .guards, .chans, .stages, .pilot, .samples, .waitingSeqs, .convs, .tdac, .sdFrom,
    .resolvers, .enc, .ifc, .syn, .sec, .dbg, .pwr, .sto, .wd]
  | .vmUndervoltage => [.regs, .pushes, .coll, .guards, .chans, .stages, .sto]
  | .vmOvervoltage => [.regs, .pushes, .coll, .guards, .chans, .stages, .sto]
  | .railOutOfWindow .. => [.coll, .pwr]
  | .railResetDelay =>
    [.regs, .staged, .marks, .pushes, .ledger, .mem, .chk, .polders, .drainQ, .coll, .tp, .hif, .commit, .engines, .loops,
    .slotShadows, .sup, .trl, .guards, .chans, .stages, .pilot, .samples, .waitingSeqs, .convs, .tdac, .sdFrom,
    .resolvers, .enc, .ifc, .syn, .sec, .dbg, .pwr, .sto, .wd]
  | .junctionWarning => [.regs, .pushes, .coll, .guards, .chans, .stages, .sto]
  | .junctionLimit => [.regs, .pushes, .coll, .guards, .chans, .stages, .sto]
  | .junctionShutdown =>
    [.regs, .staged, .marks, .pushes, .ledger, .mem, .chk, .polders, .drainQ, .coll, .tp, .hif, .commit, .engines, .loops,
    .slotShadows, .sup, .trl, .guards, .chans, .stages, .pilot, .samples, .waitingSeqs, .convs, .tdac, .sdFrom,
    .resolvers, .enc, .ifc, .syn, .sec, .dbg, .pwr, .sto, .wd]
  | .supplyMonitorEnd .. => [.regs, .pushes]
  | .supplyValid => [.pwr]
  | .pllLock .. => [.regs, .pushes, .now, .fresh, .polders, .coll, .pwr]
  | .supervisorRelease .. => [.regs, .pushes, .polders, .coll, .sup, .sec, .pwr]
  | .bootPrefer => [.regs, .pushes, .coll]
  | .bootConfirm => [.regs, .pushes]
  | .bootReady => [.regs, .pushes]
  | .appDrainRequest .. => [.regs, .pushes]
  | .appCoreDrain .. => [.regs, .pushes, .polders, .drainQ, .coll, .loops, .sup, .trl, .pilot]
  | .appCoreRelease .. => [.regs, .pushes, .polders, .drainQ, .coll, .loops, .sup, .trl, .pilot]
  | .gpioSet .. => [.regs, .pushes]
  | .gpioClear .. => [.regs, .pushes]
  | .gpioEdge .. => [.regs, .pushes, .ifc]
  | .converterWake .. => [.regs, .pushes, .convs]
  | .chargePumpWithinRange => [.regs, .pushes]
  | .xhFltNPinChange .. => [.regs, .pushes, .chans]
  | .ethLinkUp .. => [.regs, .pushes]
  | .debugSessionStart .. => [.regs, .pushes, .coll]
  | .debugSessionEnd .. => [.regs, .pushes, .dbg]
  | .debugResume .. => [.sup, .dbg]
  | .tapExtest .. => [.dbg]
  | .tapSample .. => [.dbg]
  | .supplyMeasurementUpdate .. => [.regs, .pushes]

/-- Of the register words, only those with the listed keys may differ. -/
def OnlyWords (keys : List Nat) (s t : State) : Prop := ∀ k, k ∉ keys → tabGet regReset t.regs k = tabGet regReset s.regs k

/-- Of the register words, only those of the listed pages may differ. -/
def OnlyPages (pages : List Nat) (s t : State) : Prop :=
  ∀ k, keyPage k ∉ pages → tabGet regReset t.regs k = tabGet regReset s.regs k

/-- A fault report of this class, code and page is on its way to the collector. -/
def Reported (t : State) (cls : FaultClass) (code page : Nat) : Prop :=
  ∃ r ∈ t.coll.inflight, r.cls = cls ∧ r.code = code ∧ r.page = page

/-- The same, with the stamp and the detail it carries. -/
def ReportedAt (t : State) (cls : FaultClass) (code page detail : Nat) (stamp : Option Nat) : Prop :=
  ∃ r ∈ t.coll.inflight, r.cls = cls ∧ r.code = code ∧ r.page = page ∧ r.detail = detail ∧ r.stamp = stamp

/-- The key of the word that holds a register field. -/
abbrev fieldKey (p : Nat) (f : Field) : Nat := regKey p f.off

/-- Beside the register words with the listed keys, and the words owed to the ledger, only the listed parts change. -/
def Changes (parts : List Part) (keys : List Nat) (s t : State) : Prop :=
  Touches (.regs :: .pushes :: parts) s t ∧ OnlyWords keys s t

/-- A 16-bit counter after one more event (R360). -/
def counted (n : Nat) : Nat := min (n + 1) 0xFFFF

/-- Polder `p` is as `x` says, and every other polder as it was. -/
def PolderBecomes (s t : State) (p : Nat) (x : Polder) : Prop := t.polder p = x ∧ ∀ q, q ≠ p → t.polder q = s.polder q

/-- Run `r` executes on engine `e`, and `cost` more operations keep it within the budget of its loop (R76, R110). -/
def Executes (s : State) (e cost : Nat) (r : Run) : Prop :=
  (s.ctx e).run = some r ∧ 0 < cost ∧ r.ops + cost ≤ descBudget (s.loop r.loop).desc

/-- The run goes on at word `pc` with `cost` more operations counted, in the run and in the engine's rate window; what the
instruction reads stays, and of the state only the engine changes (R20, R76, R83). -/
def GoesOn (s t : State) (e cost pc : Nat) (r : Run) : Prop :=
  (t.ctx e).run = some { r with pc := pc, ops := r.ops + cost }
    ∧ (t.eng e).window = { (s.eng e).window with ops := (s.eng e).window.ops + cost }
    ∧ (t.eng e).waiting = (s.eng e).waiting
    ∧ ∀ k, k ≠ e → t.eng k = s.eng k

/-- The register file of the run: the listed registers take the listed words, every other keeps its own (R78). -/
def WritesRegs (s t : State) (e : Nat) (ws : List (Nat × Word)) : Prop :=
  ∀ k, (t.ctx e).get k = ((ws.find? (·.1 == k)).map (·.2)).getD ((s.ctx e).get k)

/-- The sticky flags after a binary32 result, with the other flags as they were (R79, R88). -/
def Flags.after (f : Flags) (r : FpRes) : Flags := { f with nv := f.nv || r.nv, dz := f.dz || r.dz, ovf := f.ovf || r.ovf }

/-- An instruction of `cost` operations whose effect is the listed register words and the flags (R83). -/
def Computes (s t : State) (e cost : Nat) (r : Run) (ws : List (Nat × Word)) (f : Flags) : Prop :=
  GoesOn s t e cost (r.pc + 1) r ∧ WritesRegs s t e ws ∧ (t.ctx e).flags = f

/-- A block or selection on a record at key `a`: the registers and flags of `out`, the record words it lists, and every other
byte of memory as it was (R90). -/
def RunsBlock (s t : State) (e cost : Nat) (r : Run) (a : Nat) (out : Context × List (Nat × Word)) : Prop :=
  GoesOn s t e cost (r.pc + 1) r ∧ (∀ k, (t.ctx e).get k = out.1.get k) ∧ (t.ctx e).flags = out.1.flags
    ∧ (∀ i w, (i, w) ∈ out.2 → t.mword (a + 4 * i) = w)
    ∧ ∀ b, (∀ i w, (i, w) ∈ out.2 → b < a + 4 * i ∨ a + 4 * i + 4 ≤ b) → t.byte b = s.byte b

/-- The key of record `rec` in the state area of a run's loop (R90, R111). -/
def State.recordAt (s : State) (r : Run) (rec : Nat) : Nat := leBase (s.loop r.loop).engine + (s.loop r.loop).stOff + 32 * rec

/-- The run that executed on engine `e` has ended: its context is empty, the other one as it was (R72, R76). -/
def RunEnded (s t : State) (e : Nat) : Prop :=
  ((s.eng e).a.run.isSome = true → (t.eng e).a = {} ∧ (t.eng e).bc = (s.eng e).bc)
    ∧ ((s.eng e).a.run = none → (t.eng e).bc = {} ∧ (t.eng e).a = (s.eng e).a)

/-- Every byte of memory outside `n` bytes from key `a` upwards reads as before. -/
def OnlyBytes (a n : Nat) (s t : State) : Prop := ∀ b, (b < a ∨ a + n ≤ b) → t.byte b = s.byte b

/-- A loop that a trigger of it can start at once: its image is loaded, it is not copied or held back, no run of it is in
progress, and its engine answers. -/
def ReadyToRun (s : State) (l : Nat) : Prop :=
  (s.loop l).active = true ∧ (s.loop l).copying = false ∧ (s.loop l).held467 = false ∧ s.inProgress l = false ∧
    (s.loop l).next = none ∧ (s.polder (pdLE (s.loop l).engine)).withheld = false ∧
    (s.polder (pdLE (s.loop l).engine)).st ≠ .failed

/-- A run of loop `l` waits on its engine with stamp `at_`, behind those that waited; every other engine and part of the state is
as it was. -/
def RunWaits (s t : State) (l at_ : Nat) : Prop :=
  (t.eng (s.loop l).engine) = { s.eng (s.loop l).engine with
      waiting := (s.eng (s.loop l).engine).waiting ++ [{ loop := l, stamp := at_ }] } ∧
    (∀ k, k ≠ (s.loop l).engine → t.eng k = s.eng k) ∧ Touches [.engines] s t

/-- The first words of the signed package at key `a` (R451). -/
def State.pkgWords (s : State) (a : Nat) : List Word := (List.range 5).map fun k => s.mword (a + 4 * k)

/-- The legs of a stage with one set are in the state of a leg code (R191, R233). -/
def LegsBecome (s t : State) (st code : Nat) (d : LegDrive) : Prop :=
  (t.stage st).legA = code ∧ ∀ p, p ∈ s.legs st → (t.chan p).drive = d

/-- A protection of a channel has latched its leg off with the stamp of its detection, and the fault is on its way (R262). -/
def LegLatched (s t : State) (p prot : Nat) : Prop :=
  t.latched p = true ∧ t.rd p Reg.XH.CH_STAT_PROT = prot ∧ t.rd p Reg.XH.PROT_AT_L_STAMP = s.now % 2 ^ 32 ∧
    t.rd p Reg.XH.PROT_AT_H_STAMP = s.now / 2 ^ 32 % 2 ^ 32 ∧ ReportedAt t .u 0x4E p prot (some s.now)

/-- A conversion stage has tripped by a cause: its reference is zero, its legs are off, or on their low sides by the crowbar, and
the fault of the cause is on its way (R196, R225). -/
def Tripped (s t : State) (st cause : Nat) : Prop :=
  t.mode st = 5 ∧ t.rd (pgSG st) Reg.SGC.TRIP_CAUSE = cause ∧ t.refEff st = 0 ∧
    LegsBecome s t st (if cause = 9 then 2 else 1) (if cause = 9 then .lowOn else .off) ∧
    Reported t .u (tripFault cause) (pgSG st)

/-- A traction stage is in a mode with one leg code for both sets, REACT as said, and SafeStop's phase as said (R159, R164). -/
def TractionIn (t : State) (st m code : Nat) (react hold : Bool) : Prop :=
  t.mode st = m ∧ (t.stage st).legA = code ∧ (t.stage st).legB = code ∧ t.rdB (pgSG st) Reg.SGT.STAT_REACT = react ∧
    t.rdB (pgSG st) Reg.SGT.STAT_SS_PHASE = hold

/-- The stage inputs carry the stamp of this instant (R527). -/
def InputsStamped (s t : State) (st : Nat) : Prop :=
  t.rd (pgSG st) Reg.SGW.IN_AT_L_STAMP = s.now % 2 ^ 32 ∧ t.rd (pgSG st) Reg.SGW.IN_AT_H_STAMP = s.now / 2 ^ 32 % 2 ^ 32

/-- A device reset with this cause has begun: it is recorded with its instant, STO is open, every loop and engine register is
gone, and the fault log and MRAM are as they were (R374, R375, R381). -/
structure ResetBegun (s t : State) (cause : Nat) : Prop where
  inReset : t.pwr.inReset = true
  resetAt : t.pwr.resetAt = s.now
  recordCause : t.rd pgDIKE Reg.DIKE.RST_REC_CAUSE = cause
  recordCount : t.rd pgDIKE Reg.DIKE.RST_REC_COUNT = counted (s.rd pgDIKE Reg.DIKE.RST_REC_COUNT)
  stampLow : t.rd pgDIKE Reg.DIKE.RST_AT_L_STAMP = s.now % 2 ^ 32
  stampHigh : t.rd pgDIKE Reg.DIKE.RST_AT_H_STAMP = s.now / 2 ^ 32 % 2 ^ 32
  sto : t.rdB pgSAF Reg.SAF.STO_STAT_OPEN = true
  loops : t.loops = []
  engines : t.engines = []
  time : t.now = s.now
  log : ∀ off, winBase ≤ off → off < winBase + 0x2040 → t.word pgFLT off = s.word pgFLT off
  mram : ∀ a, 0x10000000 ≤ a → a < 0x12000000 → t.byte a = s.byte a

/-- Reset is released and boot begins: the level of COMPAT_AX5 is the majority of its three samples (R487, R488). -/
def BootBegun (t : State) (c0 c1 c2 : Bool) : Prop :=
  t.pwr.inReset = false ∧ t.rdB pgPWR Reg.PWR.BOOT_COMPAT = ((c0 && c1) || (c0 && c2) || (c1 && c2))

/-- Every staged copy equals its live register, no mark is set and INCLUDE is 0 (R391). -/
structure StagingClear (t : State) : Prop where
  copies : ∀ p off, p < 256 → off < 0x2000000 →
    tabGet stagedReset t.staged (regKey p off) = tabGet regReset t.regs (regKey p off) &&& rwsMask (regKey p off)
  marks : t.marks = []
  includes : ∀ p, p < 256 → t.rdB p Reg.HDR.STG_INCLUDE = false

/-- The device takes host frames: its port answers, no sluice of it is closed, and no reset is in progress (R31, R376, R415, R468). -/
def HostListens (s : State) : Prop := s.hostAnswers = true ∧ s.hifClosed = false ∧ s.pwr.inReset = false

/-- A frame that was not ignored has been answered: the status word as the frame began, the read data and their CRC left, and the
frame is counted (R410, R412). -/
def FrameAnswered (s t : State) : Prop :=
  t.hif.misoStatus = s.statusWord ∧ t.hif.misoData = t.answer ∧
    t.hif.misoCrc = crc8 (msbBytes s.statusWord.toNat ++ msbBytes t.answer.toNat) ∧ t.hif.prevErr = false ∧
    t.hif.frameSeq = (s.hif.frameSeq + 1) % 256

/-- A frame has been ignored for a cause (R411). -/
def IgnoredFrame (s t : State) (cause : Nat) : Prop :=
  t.hif.prevErr = true ∧ t.hif.queue = s.hif.queue ∧ t.hif.deferred = s.hif.deferred ∧
    t.rd pgHIF Reg.HIF.LAST_ERR_CAUSE = cause ∧
    t.rd pgHIF Reg.HIF.ERR_CNT_COUNT = counted (s.rd pgHIF Reg.HIF.ERR_CNT_COUNT) ∧
    (s.rd pgHIF Reg.HIF.ERR_CNT_COUNT = 0 → ReportedAt t .c 0xB0 pgHIF cause none) ∧
    Changes [.coll, .fresh, .hif, .answer] [fieldKey pgHIF Reg.HIF.LAST_ERR_CAUSE, fieldKey pgHIF Reg.HIF.ERR_CNT_COUNT] s t

end Sys2Proof.Machine
end

