-- ==== Sys2Proof/Certificates/Slice0/Obligations.lean ====
section
/-! DEFINITION. The statements for the provers. Each says what commands of one part of the device do, or what every command keeps. -/

open Sys2Proof Sys2Proof.Machine

/-- One step runs the command at the front of the queue with the rest of the queue behind it; on an empty queue time goes on by one
tick where the time plane runs, and nothing else changes (R43; the idle step is the model's, log entry 1). -/
def Obligations.StepRunsFrontCommand : Prop :=
  (∀ (s : State) (c : Instr) (rest : List Instr), s.pending = c :: rest → step s = exec c { s with pending := rest })
  ∧ (∀ (s : State), s.pending = [] → ∃ t, step s = .next t ∧ Touches [.now] s t ∧
      t.now = (if s.rdB pgTP Reg.TP.STAT_PLL_LOCK then (s.now + 1) % 2 ^ 64 else s.now))

/-- The state after reset is sound, and its fields hold what the spec gives for reset: the supervisor out with STO open, TP_NOW at 0,
and the defaults of the host interrupts, the scrubber, commits and the recovery (R43, R324, R352, R375, R404, R419, R504). -/
def Obligations.ResetState : Prop :=
  State.reset.Sound ∧ State.reset.pending = [] ∧ State.reset.now = 0 ∧
    State.reset.rd pgSUP Reg.SUP.STAT_MODE = 3 ∧ State.reset.rdB pgSAF Reg.SAF.STO_STAT_OPEN = true ∧
    State.reset.rd pgSYS Reg.SYS.COMMIT_MARK_US = 100 ∧ State.reset.rd pgSYS Reg.SYS.DRAIN_TMO_MS = 10 ∧
    State.reset.rd pgDIKE Reg.DIKE.STALL_LIM_US = 50 ∧ State.reset.rdB pgMEM Reg.MEM.SCRUB_EN = true ∧
    State.reset.rd pgMEM Reg.MEM.SCRUB_STEP = 4 ∧ State.reset.rd pgMEM Reg.MEM.SCRUB_MSTEP = 100 ∧
    State.reset.rd pgFLT Reg.FLT.QUIET_MS = 500 ∧ State.reset.rd pgFLT Reg.FLT.RECOV_LIM_LIMIT = 8 ∧
    State.reset.rd pgFLT Reg.FLT.PIN_MINW_W = 100 ∧ State.reset.rd pgSEC Reg.SEC.ATT_GAP_MS = 1000 ∧
    State.reset.word pgHIF 0x100 = 0xD0000000 ∧ State.reset.rd pgSYN Reg.SYN.CFG_NDEV = 1 ∧
    State.reset.rd pgSYN Reg.SYN.CFG_SYNC_INT = 50

/-- R391: after reset, every staged copy equals its live register, no mark is set and INCLUDE is 0. So it is of the state after
reset, and of what a reset by command, by RESET_N, by the delayed watchdog reset, by the debug port and by the Dike's power-on
leaves. -/
def Obligations.ResetClearsStaging : Prop :=
  (StagingClear State.reset)
  ∧ (∀ (s : State), s.pwr.inReset = false → s.pwr.dikeLost = false →
    (∃ t, exec (.resetCommand 0xC3A5) s = .next t ∧ StagingClear t) ∧
    (s.pwr.pinLow = false → ∃ t, exec .resetPinAssert s = .next t ∧ StagingClear t) ∧
    (s.wd.resetDue = true → s.passedRc s.wd.lostAt (320000 * max 1 (s.rd pgDIKE Reg.DIKE.WD_RST_DLY)) = true →
      ∃ t, exec .watchdogResetDelay s = .next t ∧ StagingClear t) ∧
    (s.tapReach false = true → s.debugLevel = 2 → ∃ t, exec .debugReset s = .next t ∧ StagingClear t))
  ∧ (∀ (s : State), s.pwr.dikeLost = true → ∃ t, exec .dikePowerOn s = .next t ∧ StagingClear t)

/-- R350: a write of 1 to both UPD_OPEN and UPD_CLOSE in one write has no effect, whoever writes. -/
def Obligations.BothUpdateBitsDoNothing : Prop :=
  ∀ (s : State) (m : Master) (data : Word), data.getLsbD 0 = true → data.getLsbD 1 = true →
    exec (.registerWrite m ⟨pgMEM, by decide⟩ 0x124 data) s = .next s

/-- Every step keeps a state sound: memory, the register file and the staged copies stay in canonical form, and TP_NOW fits its 64
bits, whatever the command and whatever waits in the queue (R43, R335, R383, R388). -/
def Obligations.StepKeepsSound : Prop := ∀ s t : State, s.Sound → step s = .next t → t.Sound

/-- A command changes only the parts of the state that are listed for it, and never the queue of waiting commands. Where TP_NOW is
not listed it stays: a command other than the ring frames, wakes, power states and locks of R44 does not move time. -/
def Obligations.OnlyNamedPartsChange : Prop :=
  ∀ (c : Instr) (s t : State), exec c s = .next t → Touches (mayTouch c) s t ∧ t.pending = s.pending

/-- Writes of CTL and what they do at once to the polder of the page: EN by R561 step 1, a drain request, an abandoned drain, a
refill, a self-test, a block reset and its end (R32, R34, R37, R38, R561). Where the spec leaves a point open, the model's
choice stands in log entries 37, 42, 47 and 48. -/
def Obligations.PolderControlWrites : Prop :=
  (∀ (s : State) (page : Fin 256) (p : Nat) (drain test blkrst : Bool), s.pagePolder page = some p → page.val ≠ pgSUP →
    (s.polder p).st = .off → (s.polder p).en = false →
    ∃ t, exec (.polderEnable page drain test blkrst) s = .next t ∧ PolderBecomes s t p { s.polder p with
      en := true, st := .ready, closed := false, drain := false, test := false, blkrst := false, busy := false })
  ∧ (∀ (s : State) (page : Fin 256) (p : Nat) (drain test blkrst : Bool), s.pagePolder page = some p → page.val ≠ pgSUP →
    ((s.polder p).st = .drained ∨ (s.polder p).st = .failed) → (s.polder p).en = true →
    ∃ t, exec (.polderPowerDown page drain test blkrst) s = .next t ∧ PolderBecomes s t p { s.polder p with
      en := false, st := .off, drain := false, test := false, blkrst := false, testAfter := false, busy := false })
  ∧ (∀ (s : State) (page : Fin 256) (p : Nat) (test blkrst : Bool), s.pagePolder page = some p → (page.val = pgMEM → pdMramA ≤ p) →
    drainRefusedKind s.compat s.inactiveMram p = false → ((s.polder p).st = .ready ∨ (s.polder p).st = .running) →
    (s.polder p).drain = false →
    ∃ t, exec (.drainRequest page (s.polder p).en test blkrst) s = .next t ∧ t.drainQ = s.drainQ ++ [p] ∧
      PolderBecomes s t p { s.polder p with drain := true, test := test })
  ∧ (∀ (s : State) (page : Fin 256) (p : Nat), s.pagePolder page = some p → (s.polder p).st = .draining →
    s.coll.stopped = false →
    ∃ t, exec (.drainCancel page (s.polder p).en false false) s = .next t ∧ Reported t .c 0x03 (polderPage p) ∧
      PolderBecomes s t p { s.polder p with
        st := if (s.polder p).busy then .running else .ready, drain := false, test := false })
  ∧ (∀ (s : State) (page : Fin 256) (p : Nat), s.pagePolder page = some p → (s.polder p).st = .drained →
    (s.polder p).test = false →
    ∃ t, exec (.drainCancel page (s.polder p).en false false) s = .next t ∧
      PolderBecomes s t p { s.polder p with st := .ready, closed := false, drain := false, test := false, busy := false })
  ∧ (∀ (s : State) (page : Fin 256) (p : Nat), s.pagePolder page = some p → (page.val = pgMEM → pdMramA ≤ p) →
    ((s.polder p).st = .drained ∨ (s.polder p).st = .failed) → (s.polder p).blkrst = false →
    ∃ t, exec (.testRequest page (s.polder p).en true false) s = .next t ∧
      PolderBecomes s t p { s.polder p with st := .testing, test := true, closed := true, testAfter := false })
  ∧ (∀ (s : State) (page : Fin 256) (p : Nat), s.pagePolder page = some p →
    ((s.polder p).st = .drained ∨ (s.polder p).st = .failed) →
    ∃ t, exec (.blockReset page (s.polder p).en true false) s = .next t ∧
      PolderBecomes s t p { s.polder p with blkrst := true, withheld := false, injected := false })
  ∧ (∀ (s : State) (p : Nat), (s.polder p).blkrst = true → (s.polder p).testAfter = false →
    ∃ t, exec (.blockResetComplete p) s = .next t ∧ PolderBecomes s t p { s.polder p with blkrst := false })
  ∧ (∀ (s : State) (p : Nat), (s.polder p).blkrst = true → (s.polder p).testAfter = true →
    ((s.polder p).st = .drained ∨ (s.polder p).st = .failed) →
    ∃ t, exec (.blockResetComplete p) s = .next t ∧ PolderBecomes s t p { s.polder p with
      blkrst := false, testAfter := false, st := .testing, test := true, closed := true })

/-- A drain from its evaluation to its end and the self-test that may follow, a stall closure, and a request that meets a closed
sluice (R26, R28 to R35, R39, R563). Where the spec leaves a point open, the model's
choice stands in log entries 46, 47 and 48. -/
def Obligations.PolderDrainsTestsAndStalls : Prop :=
  (∀ (s : State) (p : Nat) (rest : List Nat), s.drainQ = p :: rest → (16 ≤ p ∨ s.supRuns = true) → s.mayDrain p = true →
    ((s.polder p).st = .ready ∨ (s.polder p).st = .running) →
    ∃ t, exec .drainEvaluation s = .next t ∧ t.drainQ = rest ∧
      PolderBecomes s t p { s.polder p with st := .draining, drainAt := s.now })
  ∧ (∀ (s : State) (p : Nat) (rest : List Nat), s.drainQ = p :: rest → (16 ≤ p ∨ s.supRuns = true) → s.mayDrain p = false →
    ((s.polder p).st = .ready ∨ (s.polder p).st = .running) → s.coll.stopped = false →
    ∃ t, exec .drainEvaluation s = .next t ∧ t.drainQ = rest ∧ Reported t .c 0x06 (polderPage p) ∧
      PolderBecomes s t p { s.polder p with drain := false, test := false })
  ∧ (∀ (s : State) (p : Nat) (rest : List Nat), s.drainQ = p :: rest → (16 ≤ p ∨ s.supRuns = true) →
    (s.polder p).st ≠ .ready → (s.polder p).st ≠ .running →
    ∃ t, exec .drainEvaluation s = .next t ∧ t.drainQ = rest ∧ t.coll = s.coll ∧
      PolderBecomes s t p { s.polder p with drain := false, test := false })
  ∧ (∀ (s : State) (p : Nat), (s.polder p).st = .draining → s.drainDone p = true → (s.polder p).test = false →
    ∃ t, exec (.drainComplete p) s = .next t ∧
      PolderBecomes s t p { s.polder p with st := .drained, closed := true, busy := false })
  ∧ (∀ (s : State) (p : Nat), (s.polder p).st = .draining → s.drainDone p = true → (s.polder p).test = true →
    ∃ t, exec (.drainComplete p) s = .next t ∧ PolderBecomes s t p { s.polder p with
      st := .testing, closed := true, busy := false, testAfter := false })
  ∧ (∀ (s : State) (p : Nat), (s.polder p).st = .draining →
    s.passed (s.polder p).drainAt (320000 * clampNat 1 1000 (s.rd pgSYS Reg.SYS.DRAIN_TMO_MS)) = true →
    s.coll.stopped = false →
    ∃ t, exec (.drainTimeout p) s = .next t ∧ Reported t .c 0x03 (polderPage p) ∧ PolderBecomes s t p { s.polder p with
      st := if (s.polder p).busy then .running else .ready, drain := false, test := false })
  ∧ (∀ (s : State) (p : Nat), (s.polder p).st = .testing → (s.polder p).withheld = false →
    ∃ t, exec (.selfTestComplete p true) s = .next t ∧ (t.polder p).st = .ready ∧ (t.polder p).closed = false ∧
      (t.polder p).drain = false ∧ (t.polder p).test = false ∧
      (p < 16 → ∀ a, leBase p ≤ a → a < leBase p + 0x20000 → t.byte a = 0))
  ∧ (∀ (s : State) (p : Nat), (s.polder p).st = .testing → s.coll.stopped = false →
    ∃ t, exec (.selfTestComplete p false) s = .next t ∧ Reported t .u 0x04 (polderPage p) ∧
      (t.polder p).st = .failed ∧ (t.polder p).closed = true)
  ∧ (∀ (s : State) (p : Nat), (s.polder p).st = .testing → s.coll.stopped = false →
    ∃ t, exec (.testSluiceWithhold p) s = .next t ∧ Reported t .u 0x04 (polderPage p) ∧
      (t.polder p).st = .failed ∧ (t.polder p).closed = true ∧ (t.polder p).withheld = true)
  ∧ (∀ (s : State) (p : Nat), p < 16 → s.canStall p = true → s.coll.stopped = false →
    (∀ q, q ≠ p → (s.polder q).st ≠ .draining) → (s.polder p).st ≠ .off →
    ∃ t, exec (.stallClosure [p]) s = .next t ∧ Reported t .u 0x01 (pgLE p) ∧ (t.polder p).st = .failed ∧
      (t.polder p).closed = true ∧ (t.polder p).withheld = true ∧ (t.polder p).busy = false ∧
      t.rd pgDIKE Reg.DIKE.STALL_LAST_POLDER = p ∧ t.rdB pgDIKE Reg.DIKE.STALL_LAST_VALID = true ∧
      ∀ q, q ≠ p → t.polder q = s.polder q)
  ∧ (∀ (s : State) (requester target : Nat), s.sluicesClosed target = true → polderExists requester = true → 16 ≤ requester →
    s.coll.stopped = false →
    ∃ t, exec (.closedSluiceRequest requester target none) s = .next t ∧ Reported t .u 0x05 (polderPage requester) ∧
      Touches [.coll] s t)
  ∧ (∀ (s : State) (requester target l : Nat), s.sluicesClosed target = true → polderExists requester = true →
    s.coll.stopped = false → (s.loop l).move.isSome = true →
    ∃ t, exec (.closedSluiceRequest requester target (some l)) s = .next t ∧
      Reported t .u 0x05 (polderPage requester) ∧ (t.loop l).move = none ∧ (t.loop l).state = .running ∧
      Touches [.coll, .loops] s t)
  ∧ (∀ (s : State) (requester target : Nat) (copyOf : Option Nat), s.sluicesClosed target = false →
    exec (.closedSluiceRequest requester target copyOf) s = .next s)

/-- The time plane: a read of the present instant, the loss of the crystal, the switch-over, the return to the crystal and the
monitor's verdict; the Dike's tick check and the recalibration of the edge interpolators (R46, R48, R61, R64, R65, R70, R372, R566). Where the spec leaves a point open, the model's
choice stands in log entries 17, 28 and 64. -/
def Obligations.TimePlaneEvents : Prop :=
  (∀ (s : State) (port : Fin 5), (port = 4 → s.compat = true) → ∃ t, exec (.readNowL port) s = .next t ∧ t.answer = BitVec.ofNat 32 s.now ∧
    t.tpShadow port = s.now / 2 ^ 32 ∧ (∀ q, q ≠ port.val → t.tpShadow q = s.tpShadow q) ∧ Touches [.answer, .tp] s t)
  ∧ (∀ (s : State), s.clockRuns = true → s.tp.switching = false → (s.onInternal = false ∨ s.tp.returning = true) →
    s.rdB pgTP Reg.TP.STAT_REF_FAIL = false →
    ∃ t, exec .crystalLoss s = .next t ∧ t.rd pgTP Reg.TP.XLOSS_AT_L_STAMP = s.now % 2 ^ 32 ∧
      t.rd pgTP Reg.TP.XLOSS_AT_H_STAMP = s.now / 2 ^ 32 % 2 ^ 32 ∧ t.rdB pgTP Reg.TP.STAT_XTAL_OK = false ∧
      t.tp.switching = true ∧ t.tp.returning = false ∧ t.tp.lossAt = s.now ∧
      Changes [.tp] [fieldKey pgTP Reg.TP.XLOSS_AT_L_STAMP, fieldKey pgTP Reg.TP.XLOSS_AT_H_STAMP,
        fieldKey pgTP Reg.TP.STAT_XTAL_OK, fieldKey pgTP Reg.TP.CTL_XTAL_RET] s t)
  ∧ (∀ (s : State), s.tp.switching = true → s.coll.stopped = false →
    ∃ t, exec .switchoverComplete s = .next t ∧ t.onInternal = true ∧ t.tp.switching = false ∧
      t.rd pgTP Reg.TP.XLOSS_CNT_COUNT = counted (s.rd pgTP Reg.TP.XLOSS_CNT_COUNT) ∧
      ReportedAt t .u 0xD4 pgTP 0 (some s.tp.lossAt) ∧
      Touches [.regs, .pushes, .tp, .coll] s t ∧ OnlyPages [pgTP, pgETH 0, pgETH 1] s t)
  ∧ (∀ (s : State), s.onInternal = true → s.rdB pgTP Reg.TP.STAT_XTAL_OK = true → s.tp.returning = false →
    s.tp.switching = false →
    ∃ t, exec .crystalReturnRequest s = .next t ∧ t.tp = { s.tp with returning := true } ∧
      t.rdB pgTP Reg.TP.CTL_XTAL_RET = true ∧ Changes [.tp] [fieldKey pgTP Reg.TP.CTL_XTAL_RET] s t)
  ∧ (∀ (s : State), s.onInternal = true → s.rdB pgTP Reg.TP.STAT_XTAL_OK = false →
    exec .crystalReturnRequest s = .next s)
  ∧ (∀ (s : State), s.tp.returning = true → s.coll.stopped = false →
    ∃ t, exec .crystalReturnComplete s = .next t ∧ t.tp = { s.tp with returning := false } ∧ t.onInternal = false ∧
      t.rdB pgTP Reg.TP.CTL_XTAL_RET = false ∧ ReportedAt t .c 0xD5 pgTP 0 (some s.now) ∧
      Changes [.tp, .coll] [fieldKey pgTP Reg.TP.STAT_REF, fieldKey pgTP Reg.TP.CTL_XTAL_RET] s t)
  ∧ (∀ (s : State) (ok : Bool), s.clockRuns = true → s.tp.returning = false → s.tp.switching = false →
    s.rdB pgTP Reg.TP.STAT_REF_FAIL = false → s.onInternal = true →
    ∃ t, exec (.xtalOkChange ok) s = .next t ∧ t.rdB pgTP Reg.TP.STAT_XTAL_OK = ok ∧
      Changes [] [fieldKey pgTP Reg.TP.STAT_XTAL_OK] s t)
  ∧ (∀ (s : State) (refFails : Bool), s.clockRuns = true → s.onInternal = true → s.tp.lost = false → s.coll.stopped = false →
    ∃ t, exec (.dikeTickCheck true refFails) s = .next t ∧ t.tp.lost = true ∧
      ReportedAt t .f 0xD6 pgTP 0 (some s.now) ∧ t.rdB pgSAF Reg.SAF.STO_STAT_OPEN = true)
  ∧ (∀ (s : State) (refFails : Bool), s.clockRuns = true → s.onInternal = true →
    exec (.dikeTickCheck false refFails) s = .next s)
  ∧ (∀ (s : State) (refFails : Bool), s.clockRuns = true → s.onInternal = false → s.rdB pgTP Reg.TP.STAT_REF_FAIL = false →
    s.tp.rcFailed = false → s.coll.stopped = false →
    ∃ t, exec (.dikeTickCheck true refFails) s = .next t ∧ t.tp.rcFailed = true ∧
      ReportedAt t .f 0xE0 pgDIKE 0 (some s.now) ∧ t.rdB pgSAF Reg.SAF.STO_STAT_OPEN = true)
  ∧ (∀ (s : State), s.clockRuns = true → s.onInternal = false → s.rdB pgTP Reg.TP.STAT_REF_FAIL = false →
    s.coll.stopped = false →
    ∃ t, exec (.dikeTickCheck false true) s = .next t ∧ t.rdB pgTP Reg.TP.STAT_REF_FAIL = true ∧ t.tp.refPasses = 0 ∧
      ReportedAt t .u 0xDD pgTP 0 (some s.now) ∧ Changes [.tp, .coll] [fieldKey pgTP Reg.TP.STAT_REF_FAIL] s t)
  ∧ (∀ (s : State), s.clockRuns = true → s.onInternal = false → s.rdB pgTP Reg.TP.STAT_REF_FAIL = true →
    ∃ t, exec (.dikeTickCheck false false) s = .next t ∧ t.tp = { s.tp with refPasses := s.tp.refPasses + 1 } ∧
      t.rdB pgTP Reg.TP.STAT_REF_FAIL = decide (s.tp.refPasses + 1 ≠ 16) ∧
      Changes [.tp] [fieldKey pgTP Reg.TP.STAT_REF_FAIL] s t)
  ∧ (∀ (s : State) (ch : Fin 256), channelPages.contains ch.val = true → ch.val ∉ s.tp.fallback → s.coll.stopped = false →
    ∃ t, exec (.interpolatorRecalibration ch false) s = .next t ∧ (∀ q, q ∈ t.tp.fallback ↔ q = ch.val ∨ q ∈ s.tp.fallback) ∧
      ReportedAt t .c 0xD7 ch 0 (some s.now) ∧ Touches [.tp, .coll] s t)
  ∧ (∀ (s : State) (ch : Fin 256), channelPages.contains ch.val = true →
    ∃ t, exec (.interpolatorRecalibration ch true) s = .next t ∧ (∀ q, q ∈ t.tp.fallback ↔ q ≠ ch.val ∧ q ∈ s.tp.fallback) ∧
      Touches [.tp] s t)

/-- Moves, integer arithmetic, logic, shifts and compares: the destination register or the compare flags, one operation, and
nothing else (R78, R80, R83, R88). Where the spec leaves a point open, the model's
choice stands in log entry 9. -/
def Obligations.IntegerAndMoveResults : Prop :=
  ∀ (s : State) (e : Fin 16) (r : Run), Executes s e 1 r →
    (∀ qd qa, ∃ t, exec (.mov e qd qa) s = .next t ∧ Touches [.engines] s t ∧
      Computes s t e 1 r [(qd, (s.ctx e).get qa)] (s.ctx e).flags)
    ∧ (∀ qd imm, ∃ t, exec (.movl e qd imm) s = .next t ∧ Touches [.engines] s t ∧
      Computes s t e 1 r [(qd, imm.signExtend 32)] (s.ctx e).flags)
    ∧ (∀ (qd : Fin 64) imm, ∃ t, exec (.movh e qd imm) s = .next t ∧ Touches [.engines] s t ∧
      Computes s t e 1 r [(qd, imm ++ ((s.ctx e).get qd).extractLsb' 0 16)] (s.ctx e).flags)
    ∧ (∀ qd qa qb, ∃ t, exec (.add e qd qa qb) s = .next t ∧ Touches [.engines] s t ∧
      Computes s t e 1 r [(qd, (s.ctx e).get qa + (s.ctx e).get qb)] (s.ctx e).flags)
    ∧ (∀ qd qa qb, ∃ t, exec (.sub e qd qa qb) s = .next t ∧ Touches [.engines] s t ∧
      Computes s t e 1 r [(qd, (s.ctx e).get qa - (s.ctx e).get qb)] (s.ctx e).flags)
    ∧ (∀ qd qa qb, ∃ t, exec (.and e qd qa qb) s = .next t ∧ Touches [.engines] s t ∧
      Computes s t e 1 r [(qd, (s.ctx e).get qa &&& (s.ctx e).get qb)] (s.ctx e).flags)
    ∧ (∀ qd qa qb, ∃ t, exec (.or e qd qa qb) s = .next t ∧ Touches [.engines] s t ∧
      Computes s t e 1 r [(qd, (s.ctx e).get qa ||| (s.ctx e).get qb)] (s.ctx e).flags)
    ∧ (∀ qd qa qb, ∃ t, exec (.xor e qd qa qb) s = .next t ∧ Touches [.engines] s t ∧
      Computes s t e 1 r [(qd, (s.ctx e).get qa ^^^ (s.ctx e).get qb)] (s.ctx e).flags)
    ∧ (∀ qd qa qb, ∃ t, exec (.shl e qd qa qb) s = .next t ∧ Touches [.engines] s t ∧
      Computes s t e 1 r [(qd, (s.ctx e).get qa <<< (((s.ctx e).get qb).toNat % 32))] (s.ctx e).flags)
    ∧ (∀ qd qa qb, ∃ t, exec (.shr e qd qa qb 0) s = .next t ∧ Touches [.engines] s t ∧
      Computes s t e 1 r [(qd, (s.ctx e).get qa >>> (((s.ctx e).get qb).toNat % 32))] (s.ctx e).flags)
    ∧ (∀ qd qa qb, ∃ t, exec (.shr e qd qa qb 1) s = .next t ∧ Touches [.engines] s t ∧
      Computes s t e 1 r [(qd, ((s.ctx e).get qa).sshiftRight (((s.ctx e).get qb).toNat % 32))] (s.ctx e).flags)
    ∧ (∀ (qa qb : Fin 64), ∃ t, exec (.cmp e qa qb 1) s = .next t ∧ Touches [.engines] s t ∧
      Computes s t e 1 r [] { (s.ctx e).flags with
        lt := ((s.ctx e).get qa).slt ((s.ctx e).get qb), eq := (s.ctx e).get qa == (s.ctx e).get qb
        gt := ((s.ctx e).get qb).slt ((s.ctx e).get qa), un := false })
    ∧ (∀ (qa qb : Fin 64), ∃ t, exec (.cmp e qa qb 2) s = .next t ∧ Touches [.engines] s t ∧
      Computes s t e 1 r [] { (s.ctx e).flags with
        lt := ((s.ctx e).get qa).ult ((s.ctx e).get qb), eq := (s.ctx e).get qa == (s.ctx e).get qb
        gt := ((s.ctx e).get qb).ult ((s.ctx e).get qa), un := false })
    ∧ (∀ (qa qb : Fin 64), ∃ t, exec (.cmp e qa qb 0) s = .next t ∧ Touches [.engines] s t ∧
      Computes s t e 1 r [] { (s.ctx e).flags with
        lt := fpLt ((s.ctx e).get qa) ((s.ctx e).get qb), eq := fpEq ((s.ctx e).get qa) ((s.ctx e).get qb)
        gt := fpLt ((s.ctx e).get qb) ((s.ctx e).get qa)
        un := fpIsNaN ((s.ctx e).get qa) || fpIsNaN ((s.ctx e).get qb) })

/-- Binary32 instructions: the rounded result, the sticky flags it raises, the compare flags as they were, and the operations
that the instruction costs (R79, R83, R84, R88). Where the spec leaves a point open, the model's
choice stands in log entries 9 and 14. -/
def Obligations.Binary32Results : Prop :=
  ∀ (s : State) (e : Fin 16) (r : Run),
    (∀ (qd qa qb : Fin 64), Executes s e 1 r → let v := fpAdd ((s.ctx e).get qa) ((s.ctx e).get qb)
      ∃ t, exec (.fadd e qd qa qb) s = .next t ∧ Touches [.engines] s t ∧
        Computes s t e 1 r [(qd, v.w)] ((s.ctx e).flags.after v))
    ∧ (∀ (qd qa qb : Fin 64), Executes s e 1 r → let v := fpSub ((s.ctx e).get qa) ((s.ctx e).get qb)
      ∃ t, exec (.fsub e qd qa qb) s = .next t ∧ Touches [.engines] s t ∧
        Computes s t e 1 r [(qd, v.w)] ((s.ctx e).flags.after v))
    ∧ (∀ (qd qa qb : Fin 64), Executes s e 1 r → let v := fpMul ((s.ctx e).get qa) ((s.ctx e).get qb)
      ∃ t, exec (.fmul e qd qa qb) s = .next t ∧ Touches [.engines] s t ∧
        Computes s t e 1 r [(qd, v.w)] ((s.ctx e).flags.after v))
    ∧ (∀ (qd qa qb : Fin 64), Executes s e 6 r → let v := fpDiv ((s.ctx e).get qa) ((s.ctx e).get qb)
      ∃ t, exec (.fdiv e qd qa qb) s = .next t ∧ Touches [.engines] s t ∧
        Computes s t e 6 r [(qd, v.w)] ((s.ctx e).flags.after v))
    ∧ (∀ (qd qa : Fin 64), Executes s e 6 r → let v := fpSqrt ((s.ctx e).get qa)
      ∃ t, exec (.fsqrt e qd qa) s = .next t ∧ Touches [.engines] s t ∧
        Computes s t e 6 r [(qd, v.w)] ((s.ctx e).flags.after v))
    ∧ (∀ (qd qa : Fin 64), Executes s e 1 r → ∃ t, exec (.fabs e qd qa) s = .next t ∧ Touches [.engines] s t ∧
        Computes s t e 1 r [(qd, fpAbs ((s.ctx e).get qa))] (s.ctx e).flags)
    ∧ (∀ (qd qa : Fin 64), Executes s e 1 r → ∃ t, exec (.fneg e qd qa) s = .next t ∧ Touches [.engines] s t ∧
        Computes s t e 1 r [(qd, fpNeg ((s.ctx e).get qa))] (s.ctx e).flags)
    ∧ (∀ (qd qa qb : Fin 64), Executes s e 1 r → ∃ t, exec (.fmin e qd qa qb) s = .next t ∧ Touches [.engines] s t ∧
        Computes s t e 1 r [(qd, fpMin ((s.ctx e).get qa) ((s.ctx e).get qb))] (s.ctx e).flags)
    ∧ (∀ (qd qa qb : Fin 64), Executes s e 1 r → ∃ t, exec (.fmax e qd qa qb) s = .next t ∧ Touches [.engines] s t ∧
        Computes s t e 1 r [(qd, fpMax ((s.ctx e).get qa) ((s.ctx e).get qb))] (s.ctx e).flags)
    ∧ (∀ (qd qa qb qc : Fin 64), Executes s e 1 r → ∃ t, exec (.fclamp e qd qa qb qc) s = .next t ∧ Touches [.engines] s t ∧
        Computes s t e 1 r [(qd, fpClamp ((s.ctx e).get qa) ((s.ctx e).get qb) ((s.ctx e).get qc))] (s.ctx e).flags)
    ∧ (∀ (qd qa qb qc : Fin 64), Executes s e 1 r → let v := fpFma ((s.ctx e).get qa) ((s.ctx e).get qb) ((s.ctx e).get qc) false
      ∃ t, exec (.fma e qd qa qb qc) s = .next t ∧ Touches [.engines] s t ∧
        Computes s t e 1 r [(qd, v.w)] ((s.ctx e).flags.after v))
    ∧ (∀ (qd qa qb qc : Fin 64), Executes s e 1 r → let v := fpFma ((s.ctx e).get qa) ((s.ctx e).get qb) ((s.ctx e).get qc) true
      ∃ t, exec (.fnma e qd qa qb qc) s = .next t ∧ Touches [.engines] s t ∧
        Computes s t e 1 r [(qd, v.w)] ((s.ctx e).flags.after v))
    ∧ (∀ (qd qa : Fin 64), Executes s e 1 r → ∃ t, exec (.cvt e qd qa 0) s = .next t ∧ Touches [.engines] s t ∧
        Computes s t e 1 r [(qd, fpOfInt ((s.ctx e).get qa).toInt)] (s.ctx e).flags)
    ∧ (∀ (qd qa : Fin 64) (fn : Fin 3), Executes s e 1 r → fn ≠ 0 → let v := fpToInt32 ((s.ctx e).get qa) (fn == 2)
      ∃ t, exec (.cvt e qd qa fn) s = .next t ∧ Touches [.engines] s t ∧
        Computes s t e 1 r [(qd, v.w)] ((s.ctx e).flags.after v))

/-- Transforms: pairs and triples of registers from the formulas of the transforms; SINCOS and ATAN2, and the angle inside PARK
and IPARK, give free values within the stated error of the reference (R82, R85 to R87, log entries 12 and 14). -/
def Obligations.TransformResults : Prop :=
  ∀ (s : State) (e : Fin 16) (r : Run),
    (∀ (qd qa : Fin 64), Executes s e 4 r → fpIsNaN ((s.ctx e).get qa) = false → fpLt fpAngleMax (fpAbs ((s.ctx e).get qa)) = false →
      ∃ t v w, exec (.sincos e qd qa) s = .next t ∧ Touches [.engines, .fresh] s t ∧
        Computes s t e 4 r [(qd, acceptNear v (fixSin (fpFixed ((s.ctx e).get qa)))),
          (qd + 1, acceptNear w (fixCos (fpFixed ((s.ctx e).get qa))))] (s.ctx e).flags)
    ∧ (∀ (qd qa : Fin 64), Executes s e 4 r → fpIsNaN ((s.ctx e).get qa) = false → fpLt fpAngleMax (fpAbs ((s.ctx e).get qa)) = true →
      ∃ t, exec (.sincos e qd qa) s = .next t ∧ Touches [.engines] s t ∧
        Computes s t e 4 r [(qd, qNaN), (qd + 1, qNaN)] { (s.ctx e).flags with nv := true })
    ∧ (∀ (qd qa qb : Fin 64), Executes s e 6 r → ∃ t v, exec (.atan2 e qd qa qb) s = .next t ∧ Touches [.engines, .fresh] s t ∧
        Computes s t e 6 r [(qd, v)] (s.ctx e).flags ∧
        (fpIsNaN ((s.ctx e).get qa) = true ∨ fpIsNaN ((s.ctx e).get qb) = true → v = qNaN) ∧
        (fpKey ((s.ctx e).get qa) = 0 → fpIsNaN ((s.ctx e).get qa) = false → fpLt ((s.ctx e).get qb) 0 = true → v = fpPi))
    ∧ (∀ (qd qa qb qc : Fin 64) (fn : Fin 2),
Executes s e 2 r →       let v := clarke ((s.ctx e).get qa) ((s.ctx e).get qb) ((s.ctx e).get qc) fn
      ∃ t, exec (.clarke e qd qa qb qc fn) s = .next t ∧ Touches [.engines] s t ∧
        Computes s t e 2 r [(qd, v.1), (qd + 1, v.2)] (s.ctx e).flags)
    ∧ (∀ (qd qa qb qc : Fin 64), Executes s e 2 r → let v := park ((s.ctx e).get qa) ((s.ctx e).get qb) ((s.ctx e).get qc) ((s.ctx e).get (qc + 1))
      fpIsNaN v.1 = false → fpIsNaN v.2 = false →
      ∃ t, exec (.park e qd qa qb qc 1) s = .next t ∧ Touches [.engines] s t ∧
        Computes s t e 2 r [(qd, v.1), (qd + 1, v.2)] (s.ctx e).flags)
    ∧ (∀ (qd qa qb qc : Fin 64), Executes s e 2 r → let v := ipark ((s.ctx e).get qa) ((s.ctx e).get qb) ((s.ctx e).get qc) ((s.ctx e).get (qc + 1))
      fpIsNaN v.1 = false → fpIsNaN v.2 = false →
      ∃ t, exec (.ipark e qd qa qb qc 1) s = .next t ∧ Touches [.engines] s t ∧
        Computes s t e 2 r [(qd, v.1), (qd + 1, v.2)] (s.ctx e).flags)
    ∧ (∀ (qd qa qb qc : Fin 64), Executes s e 3 r → fpIsNaN ((s.ctx e).get qc) = false →
      fpLt fpAngleMax (fpAbs ((s.ctx e).get qc)) = false →
      ∃ t x y sn cs, exec (.park e qd qa qb qc 0) s = .next t ∧ Touches [.engines, .fresh] s t ∧
        sn = acceptNear x (fixSin (fpFixed ((s.ctx e).get qc))) ∧ cs = acceptNear y (fixCos (fpFixed ((s.ctx e).get qc))) ∧
        let v := park ((s.ctx e).get qa) ((s.ctx e).get qb) sn cs
        Computes s t e 3 r [(qd, v.1), (qd + 1, v.2)] { (s.ctx e).flags with
          nv := (s.ctx e).flags.nv || rotInvalid v.1 v.2 [(s.ctx e).get qa, (s.ctx e).get qb, sn, cs] })
    ∧ (∀ (qd qa qb qc : Fin 64), Executes s e 3 r → fpIsNaN ((s.ctx e).get qc) = false →
      fpLt fpAngleMax (fpAbs ((s.ctx e).get qc)) = false →
      ∃ t x y sn cs, exec (.ipark e qd qa qb qc 0) s = .next t ∧ Touches [.engines, .fresh] s t ∧
        sn = acceptNear x (fixSin (fpFixed ((s.ctx e).get qc))) ∧ cs = acceptNear y (fixCos (fpFixed ((s.ctx e).get qc))) ∧
        let v := ipark ((s.ctx e).get qa) ((s.ctx e).get qb) sn cs
        Computes s t e 3 r [(qd, v.1), (qd + 1, v.2)] { (s.ctx e).flags with
          nv := (s.ctx e).flags.nv || rotInvalid v.1 v.2 [(s.ctx e).get qa, (s.ctx e).get qb, sn, cs] })
    ∧ (∀ (qd qa qb qc : Fin 64) (a b d : Word) (scaled : Bool) (fn : Fin 2),
Executes s e 6 r →       svm ((s.ctx e).get qa) ((s.ctx e).get qb) ((s.ctx e).get qc) fn = some ([a, b, d], scaled) →
      fpIsNaN a = false → fpIsNaN b = false → fpIsNaN d = false →
      ∃ t, exec (.svm e qd qa qb qc fn) s = .next t ∧ Touches [.engines] s t ∧
        Computes s t e 6 r [(qd, a), (qd + 1, b), (qd + 2, d)] { (s.ctx e).flags with
          lt := false, eq := !scaled, gt := scaled, un := false })
    ∧ (∀ (qd qa qb qc : Fin 64) (fn : Fin 2),
Executes s e 6 r →       svm ((s.ctx e).get qa) ((s.ctx e).get qb) ((s.ctx e).get qc) fn = none →
      ∃ t, exec (.svm e qd qa qb qc fn) s = .next t ∧ Touches [.engines] s t ∧
        Computes s t e 6 r [(qd, qNaN), (qd + 1, qNaN), (qd + 2, qNaN)] { (s.ctx e).flags with
          lt := false, eq := false, gt := false, un := true, nv := true })

/-- Branches, EXIT and TRAP: where the run goes on or how it ends, with its checkpoint, its records and its fault (R72, R83, R88,
R89, R90, R114, R132). Where the spec leaves a point open, the model's
choice stands in log entry 9. -/
def Obligations.BranchesAndRunEnds : Prop :=
  (∀ (s : State) (e : Fin 16) (r : Run) (off : Int), Executes s e 1 r →
    ∃ t, exec (.br e off) s = .next t ∧ Touches [.engines] s t ∧ GoesOn s t e 1 ((r.pc : Int) + off).toNat r ∧
      WritesRegs s t e [] ∧ (t.ctx e).flags = (s.ctx e).flags)
  ∧ (∀ (s : State) (e : Fin 16) (r : Run) (cond : Fin 16) (off : Int), Executes s e 1 r →
    ∃ t, exec (.brc e cond off) s = .next t ∧ Touches [.engines] s t ∧ WritesRegs s t e [] ∧
      (t.ctx e).flags = (s.ctx e).flags ∧
      GoesOn s t e 1 (if (s.ctx e).flags.holds cond then ((r.pc : Int) + off).toNat else r.pc + 1) r)
  ∧ (∀ (s : State) (e : Fin 16) (r : Run), (s.ctx e).run = some r → (s.loop r.loop).gone = false →
    ∃ t, exec (.exit e) s = .next t ∧ RunEnded s t e ∧
      t.rd (pgLE e) Reg.LE.RUNS_COUNT = (s.rd (pgLE e) Reg.LE.RUNS_COUNT + 1) % 2 ^ 32 ∧
      (t.loop r.loop).prevStamp = some r.stamp ∧ (t.loop r.loop).held = [] ∧
      (t.loop r.loop).costs = ((r.ops + 1) :: (s.loop r.loop).costs).take 1024 ∧
      (∀ d, r.delay = some d → (t.loop r.loop).delayLast = d ∧ (t.loop r.loop).delayPeak = max (s.loop r.loop).delayPeak d) ∧
      (0 < descCkpt (s.loop r.loop).desc → let a := ckptBuf r.loop (s.loop r.loop).ckptB
        t.mword a = BitVec.ofNat 32 r.stamp ∧ t.mword (a + 4) = BitVec.ofNat 32 (r.stamp / 2 ^ 32) ∧
        (t.loop r.loop).ckptB = !(s.loop r.loop).ckptB))
  ∧ (∀ (s : State) (e : Fin 16) (r : Run) (code : Fin 256), (s.ctx e).run = some r → (s.loop r.loop).gone = false →
    s.coll.stopped = false →
    ∃ t, exec (.trap e code) s = .next t ∧ RunEnded s t e ∧
      t.word (pgLE e) 0x168 = BitVec.ofNat 32 (r.loop + 0x20 * 2 ^ 8 + 2 ^ 31) ∧
      (∃ x ∈ t.coll.inflight, x.cls = .u ∧ x.code = 0x20 ∧ x.page = pgLE e ∧ x.detail = r.loop * 256 + code) ∧
      (t.loop r.loop).prevStamp = some r.stamp)
  ∧ (∀ (s : State) (e : Fin 16) (code : Fin 256) (off : Int) (cond : Fin 16), (s.ctx e).run = none →
    exec (.exit e) s = .next s ∧ exec (.trap e code) s = .next s ∧ exec (.br e off) s = .next s ∧ exec (.brc e cond off) s = .next s)

/-- State access and control blocks inside the state area of the run's loop, and what an access outside it does (R71, R83, R92 to
R97, R111). Where the spec leaves a point open, the model's
choice stands in log entries 9 and 14. -/
def Obligations.StateAccessAndBlocks : Prop :=
  (∀ (s : State) (e : Fin 16) (r : Run) (q qa : Fin 64) (off : Fin 8192) (x : Bool), Executes s e 1 r →
    let o := 4 * off.val + (if x then 4 * ((s.ctx e).get qa).toNat else 0)
    o + 4 ≤ (s.loop r.loop).stSize →
    (s.unitBad (leBase (s.loop r.loop).engine + (s.loop r.loop).stOff + o) = false →
      ∃ t, exec (.lds e q qa off x) s = .next t ∧ Touches [.engines, .chk] s t ∧
        Computes s t e 1 r [(q, s.mword (leBase (s.loop r.loop).engine + (s.loop r.loop).stOff + o))] (s.ctx e).flags) ∧
    (∃ t, exec (.sts e q qa off x) s = .next t ∧ Touches [.engines, .mem, .chk] s t ∧ Computes s t e 1 r [] (s.ctx e).flags ∧
      t.mword (leBase (s.loop r.loop).engine + (s.loop r.loop).stOff + o) = (s.ctx e).get q ∧
      OnlyBytes (leBase (s.loop r.loop).engine + (s.loop r.loop).stOff + o) 4 s t))
  ∧ (∀ (s : State) (e : Fin 16) (r : Run) (q qa : Fin 64) (off : Fin 8192) (x : Bool), (s.ctx e).run = some r →
    (s.loop r.loop).gone = false → s.coll.stopped = false →
    (s.loop r.loop).stSize < 4 * off.val + (if x then 4 * ((s.ctx e).get qa).toNat else 0) + 4 →
    (∃ t, exec (.lds e q qa off x) s = .next t ∧ Reported t .u 0x26 (pgLE e) ∧ RunEnded s t e) ∧
    (∃ t, exec (.sts e q qa off x) s = .next t ∧ Reported t .u 0x26 (pgLE e) ∧ RunEnded s t e))
  ∧ (∀ (s : State) (e : Fin 16) (r : Run) (qd qa qb : Fin 64) (rec_ : Fin 256), Executes s e 4 r →
    let a := s.recordAt r rec_
    32 * rec_.val + 32 ≤ (s.loop r.loop).stSize → s.unitBad a = false →
    let out := piBlock (s.ctx e) qd ((s.ctx e).get qa) ((s.ctx e).get qb) ((List.range 8).map fun k => s.mword (a + 4 * k))
    ∃ t, exec (.pi e qd qa qb rec_) s = .next t ∧ Touches [.engines, .mem, .chk, .coll] s t ∧
      RunsBlock s t e 4 r a (out.1, out.2.1) ∧
      (out.2.2 = true → s.coll.stopped = false → Reported t .c 0x29 (pgLE e)))
  ∧ (∀ (s : State) (e : Fin 16) (r : Run) (qd qa : Fin 64) (rec_ : Fin 256), Executes s e 2 r →
    let a := s.recordAt r rec_
    32 * rec_.val + 16 ≤ (s.loop r.loop).stSize → s.unitBad a = false →
    let w := (List.range 8).map fun k => s.mword (a + 4 * k)
    (∃ t, exec (.rlim e qd qa rec_) s = .next t ∧ Touches [.engines, .mem, .chk] s t ∧
      RunsBlock s t e 2 r a ((rlimBlock (s.ctx e) qd ((s.ctx e).get qa) w).1, (rlimBlock (s.ctx e) qd ((s.ctx e).get qa) w).2.1)) ∧
    (∃ t, exec (.lpf1 e qd qa rec_) s = .next t ∧ Touches [.engines, .mem, .chk] s t ∧
      RunsBlock s t e 2 r a ((lpf1Block (s.ctx e) qd ((s.ctx e).get qa) w).1, (lpf1Block (s.ctx e) qd ((s.ctx e).get qa) w).2.1)))
  ∧ (∀ (s : State) (e : Fin 16) (r : Run) (qd qa qb : Fin 64) (rec_ : Fin 256),
    let a := s.recordAt r rec_
    let n := bitsAt (s.mword a) 0 4
    32 * rec_.val + 16 ≤ (s.loop r.loop).stSize → s.unitBad a = false →
    2 ≤ n → n ≤ 8 → qa.val + n ≤ 64 → Executes s e (1 + n) r →
    let out := minselBlock (s.ctx e) qd qa qb n ((List.range 4).map fun k => s.mword (a + 4 * k))
    ∃ t, exec (.minsel e qd qa qb rec_) s = .next t ∧ Touches [.engines, .mem, .chk, .coll, .loops] s t ∧
      RunsBlock s t e (1 + n) r a out ∧
      (out.1.flags.un = true → (s.loop r.loop).minselLogged = false → s.coll.stopped = false → Reported t .c 0x23 (pgLE e)))

/-- INS, OUTS and STAMP: what a run reads of its inputs and of time, and what it writes to a slot, with the delay it reports; a
NaN or an infinity for a channel or stage is rejected (R100 to R105, R107). Where the spec leaves a point open, the model's
choice stands in log entries 9 and 22. -/
def Obligations.RunInputsAndOutputs : Prop :=
  (∀ (s : State) (e : Fin 16) (r : Run) (q qx : Fin 64) (k : Fin 16), Executes s e 2 r →
    let h := descIn (s.loop r.loop).desc k
    r.inputs.find? (·.1 = h) = none → (s.loop r.loop).missed = [] →
    (h < 0x400 → s.unitBad (slotKey h) = false) → let v := (s.inputValue h r.stamp).1
    ∃ t, exec (.ins e q qx k) s = .next t ∧ Touches [.engines, .chk] s t ∧ WritesRegs s t e [(qx, v.age), (q, v.value)] ∧
      (t.ctx e).flags = { (s.ctx e).flags with prd := v.prd, skp := v.skp } ∧
      (t.ctx e).run = some { r with
        pc := r.pc + 1, ops := r.ops + 2, inputs := tabInsert r.inputs h v, readPrd := r.readPrd || v.prd })
  ∧ (∀ (s : State) (e : Fin 16) (r : Run) (q qx : Fin 64) (k : Fin 16) (v : InputVal), Executes s e 2 r →
    r.inputs.find? (·.1 = descIn (s.loop r.loop).desc k) = some (descIn (s.loop r.loop).desc k, v) →
    (s.loop r.loop).missed = [] →
    ∃ t, exec (.ins e q qx k) s = .next t ∧ Touches [.engines] s t ∧ WritesRegs s t e [(qx, v.age), (q, v.value)] ∧
      (t.ctx e).flags = { (s.ctx e).flags with prd := v.prd, skp := v.skp })
  ∧ (∀ (s : State) (e : Fin 16) (r : Run) (q qx : Fin 64) (k : Fin 16), Executes s e 2 r → s.coll.stopped = false →
    0x400 ≤ descOut (s.loop r.loop).desc k → fpIsFinite ((s.ctx e).get q) = false →
    ∃ t, exec (.outs e q qx k false) s = .next t ∧ Touches [.engines, .coll] s t ∧ Reported t .u 0x28 (pgLE e) ∧
      WritesRegs s t e [(qx, 0x80000000)] ∧ (t.ctx e).flags = { (s.ctx e).flags with rej := true, ovrd := false } ∧
      (t.ctx e).run = some { r with pc := r.pc + 1, ops := r.ops + 2, rejected := true })
  ∧ (∀ (s : State) (e : Fin 16) (r : Run) (q qx : Fin 64) (k : Fin 16) (asInt : Bool), Executes s e 2 r →
    let h := descOut (s.loop r.loop).desc k
    h < 0x400 → (∀ l, descSrc (s.loop l).desc ≠ 3) →
    ∃ t, exec (.outs e q qx k asInt) s = .next t ∧ Touches [.engines, .mem, .chk] s t ∧
      t.mword (slotKey h) = (s.ctx e).get q ∧ t.mword (slotKey h + 4) = BitVec.ofNat 32 s.now ∧
      t.mword (slotKey h + 8) = BitVec.ofNat 32 (s.now / 2 ^ 32) ∧
      t.mword (slotKey h + 12) = BitVec.ofNat 32 (r.loop % 64 + 2 ^ 6 + bit r.readPrd * 2 ^ 9) ∧ OnlyBytes (slotKey h) 16 s t ∧
      WritesRegs s t e [(qx, satInt32 (ticksSince r.stamp s.now))] ∧
      (t.ctx e).flags = { (s.ctx e).flags with rej := false, ovrd := false } ∧
      (t.ctx e).run = some { r with
        pc := r.pc + 1, ops := r.ops + 2
        delay := if r.delay.isSome then r.delay else some (ticksSince r.stamp s.now) })
  ∧ (∀ (s : State) (e : Fin 16) (r : Run) (qd qa : Fin 64), Executes s e 1 r →
    (∃ t, exec (.stamp e qd qa 0) s = .next t ∧ Touches [.engines] s t ∧ Computes s t e 1 r
      [(qa, BitVec.ofNat 32 (r.stamp / 2 ^ 32)), (qd, BitVec.ofNat 32 r.stamp)] (s.ctx e).flags) ∧
    (∃ t, exec (.stamp e qd qa 1) s = .next t ∧ Touches [.engines] s t ∧ Computes s t e 1 r
      [(qa, BitVec.ofNat 32 (s.now / 2 ^ 32)), (qd, BitVec.ofNat 32 s.now)] (s.ctx e).flags) ∧
    (∃ t, exec (.stamp e qd qa 2) s = .next t ∧ Touches [.engines] s t ∧ Computes s t e 1 r
      [(qd, satInt32 (ticksSince r.stamp s.now))] (s.ctx e).flags) ∧
    (∀ p, (s.loop r.loop).prevStamp = some p → ∃ t, exec (.stamp e qd qa 3) s = .next t ∧ Touches [.engines] s t ∧
      Computes s t e 1 r [(qd, satInt32 (ticksSince p r.stamp))] (s.ctx e).flags))

/-- Triggers: the kick, the period and the stage event make a ready loop's run wait with the trigger's stamp, a second trigger
while its run is in progress is an overrun, and a loop they do not select is left alone (R75, R76, R112). -/
def Obligations.TriggersStartRuns : Prop :=
  (∀ (s : State) (l : Nat), l < 64 → descSrc (s.loop l).desc = 4 → ReadyToRun s l →
    ∃ t, exec (.kick l) s = .next t ∧ RunWaits s t l s.now)
  ∧ (∀ (s : State) (l : Nat), (64 ≤ l ∨ descSrc (s.loop l).desc ≠ 4) → exec (.kick l) s = .next s)
  ∧ (∀ (s : State) (l : Nat), l < 64 → descSrc (s.loop l).desc = 4 → (s.loop l).active = true → (s.loop l).copying = false →
    (s.loop l).held467 = false → s.inProgress l = true → (s.polder (pdLE (s.loop l).engine)).withheld = false →
    (s.polder (pdLE (s.loop l).engine)).st ≠ .failed → s.coll.stopped = false →
    ∃ t, exec (.kick l) s = .next t ∧ (t.loop l).consec = (s.loop l).consec + 1 ∧ (t.loop l).overrun = true ∧
      t.word (s.loopPage l) 0x154 = BitVec.ofNat 32 (l + 2 ^ 31) ∧ t.engines = s.engines ∧
      ((s.loop l).consec = 1 → Reported t .u 0x24 (s.loopPage l)))
  ∧ (∀ (s : State) (l : Nat), l < 64 → ReadyToRun s l →
    (∀ k, k < 64 → (((s.loop k).active = true ∧ descSrc (s.loop k).desc = 2 ∧ descArg (s.loop k).desc ≠ 0 ∧
      s.now % (320 * descArg (s.loop k).desc) = 0) ↔ k = l)) →
    ∃ t, exec .triggerPeriodic s = .next t ∧ RunWaits s t l s.now)
  ∧ (∀ (s : State) (l : Nat) (stage : Fin 10) (event : Fin 4), l < 64 → ReadyToRun s l →
    (∀ k, k < 64 → (((s.loop k).active = true ∧ descSrc (s.loop k).desc = 0 ∧ descStage (s.loop k).desc = stage ∧ descEvent (s.loop k).desc = event ∧
      s.stageEventNow stage event (descArg (s.loop k).desc) = true) ↔ k = l)) →
    ∃ t, exec (.triggerStageEvent stage event) s = .next t ∧ RunWaits s t l s.now)

/-- Dispatch, deadlines, the peak of the delay, and the rate an engine measures of itself (R20, R21, R56, R57, R76, R78, R110,
R523). -/
def Obligations.RunDispatchAndMeasurement : Prop :=
  (∀ (s : State) (e : Fin 16), ((s.polder e).st = .ready ∨ (s.polder e).st = .running ∨ (s.polder e).st = .draining) →
    (s.polder e).withheld = false → (s.eng e).a.run = none →
    ∀ w, s.nextWaiting e (s.eng e).bc.run.isSome = some w →
    ∃ t, exec (.runDispatch e) s = .next t ∧ Touches [.engines] s t ∧ (∀ k, k ≠ e → t.eng k = s.eng k) ∧
      (t.eng e).waiting = (s.eng e).waiting.filter (· ≠ w) ∧
      let c : Context := { run := some { loop := w.loop, stamp := w.stamp } }
      (descClass (s.loop w.loop).desc = 0 → (t.eng e).a = c ∧ (t.eng e).bc = (s.eng e).bc) ∧
      (descClass (s.loop w.loop).desc ≠ 0 → (t.eng e).bc = c ∧ (t.eng e).a = (s.eng e).a))
  ∧ (∀ (s : State) (e : Fin 16), (s.eng e).a.run.isSome = true → exec (.runDispatch e) s = .next s)
  ∧ (∀ (s : State) (l : Fin 64), ∀ stamp, s.progressStamp l = some stamp → descDeadline (s.loop l).desc ≠ 0 →
    (s.loop l).late = false → s.passed stamp (320 * descDeadline (s.loop l).desc) = true → s.coll.stopped = false →
    s.rd (s.loopPage l) Reg.LE.DEADLINE_CNT_COUNT < 0xFFFE →
    ∃ t, exec (.runDeadlinePassed l) s = .next t ∧ (t.loop l).late = true ∧
      t.rd (s.loopPage l) Reg.LE.DEADLINE_CNT_COUNT = s.rd (s.loopPage l) Reg.LE.DEADLINE_CNT_COUNT + 1 ∧
      ((s.loop l).deadlineLogged = false → Reported t .c 0x22 (s.loopPage l)) ∧ t.engines = s.engines)
  ∧ (∀ (s : State) (l : Fin 64), ∃ t, exec (.delayPeakClear l) s = .next t ∧ Touches [.loops] s t ∧
      t.loop l = { s.loop l with delayPeak := 0 } ∧ ∀ k, k ≠ l.val → t.loop k = s.loop k)
  ∧ (∀ (s : State) (e : Fin 16) (ticks : Nat), ∃ t, exec (.rateWindowEnd e ticks) s = .next t ∧
      (t.eng e).window = {} ∧ (t.eng e).windows = ({ (s.eng e).window with
        ticks := (s.eng e).window.ticks + ticks, inService := s.inService e } :: (s.eng e).windows).take 16 ∧
      bitsAt (t.word (pgLE e) 0x100) 0 16 = windowRate (t.eng e).windows % 2 ^ 16 ∧
      (∀ k, k ≠ e.val → t.eng k = s.eng k) ∧ OnlyWords [regKey (pgLE e) 0x100] s t)
  ∧ (∀ (s : State) (e : Fin 16) (ops ticks : Nat), s.inService e = true → (s.eng e).a.run = none → (s.eng e).bc.run = none →
    ∃ t, exec (.rateProbe e ops ticks) s = .next t ∧ Touches [.engines] s t ∧ (∀ k, k ≠ e.val → t.eng k = s.eng k) ∧
      (t.eng e).window = { (s.eng e).window with
        ops := (s.eng e).window.ops + ops, ticks := (s.eng e).window.ticks + ticks, probe := true })

/-- Writes from outside to an engine's local memory, and the signal slots: what is written, held or discarded, and what a read of
VALUE gives and keeps for its port (R73, R74, R75, R106, R107, R525). Where the spec leaves a point open, the model's
choice stands in log entries 10 and 70. -/
def Obligations.LocalMemoryAndSlots : Prop :=
  (∀ (s : State) (e : Fin 16) (addr : Fin 131072) (w : Word) (l : Nat), s.sluicesClosed e = false →
    s.stateLoopAt e (addr.val / 4 * 4) = some l → s.inProgress l = false → (s.loop l).engine = e → (s.loop l).copying = false →
    ∃ t, exec (.localMemoryWrite e addr w) s = .next t ∧ Touches [.mem, .chk] s t ∧
      t.mword (leBase e + addr.val / 4 * 4) = w ∧ OnlyBytes (leBase e + addr.val / 4 * 4) 4 s t)
  ∧ (∀ (s : State) (e : Fin 16) (addr : Fin 131072) (w : Word) (l : Nat), s.sluicesClosed e = false →
    s.stateLoopAt e (addr.val / 4 * 4) = some l → s.inProgress l = true →
    ∃ t, exec (.localMemoryWrite e addr w) s = .next t ∧ Touches [.loops] s t ∧
      t.loop l = { s.loop l with held := (s.loop l).held ++ [(addr.val / 4 * 4 - (s.loop l).stOff, w)] } ∧
      ∀ k, k ≠ l → t.loop k = s.loop k)
  ∧ (∀ (s : State) (e : Fin 16) (addr : Fin 131072) (w : Word) (l : Nat), s.sluicesClosed e = false →
    s.stateLoopAt e (addr.val / 4 * 4) = none → s.imageAt e (addr.val / 4 * 4) = some l → s.coll.stopped = false →
    ∃ t, exec (.localMemoryWrite e addr w) s = .next t ∧ Touches [.coll] s t ∧ Reported t .c 0x27 (pgLE e))
  ∧ (∀ (s : State) (e : Fin 16) (addr : Fin 131072) (w : Word), s.sluicesClosed e = false →
    s.stateLoopAt e (addr.val / 4 * 4) = none → s.imageAt e (addr.val / 4 * 4) = none →
    ∃ t, exec (.localMemoryWrite e addr w) s = .next t ∧ Touches [.mem, .chk] s t ∧
      t.mword (leBase e + addr.val / 4 * 4) = w ∧ OnlyBytes (leBase e + addr.val / 4 * 4) 4 s t)
  ∧ (∀ (s : State) (writer : Fin 6) (n : Fin 1024) (w : Word), (∀ l, l < 64 → descSrc (s.loop l).desc = 3 → descSlot (s.loop l).desc ≠ n) →
    ∃ t, exec (.slotWrite writer n 0 w) s = .next t ∧ Touches [.mem, .chk] s t ∧ t.mword (slotKey n) = w ∧
      t.mword (slotKey n + 4) = BitVec.ofNat 32 s.now ∧ t.mword (slotKey n + 8) = BitVec.ofNat 32 (s.now / 2 ^ 32) ∧
      t.mword (slotKey n + 12) = BitVec.ofNat 32 (writer.val * 2 ^ 6) ∧ OnlyBytes (slotKey n) 16 s t)
  ∧ (∀ (s : State) (writer : Fin 6) (n : Fin 1024) (word : Fin 4) (w : Word), word ≠ 0 →
    exec (.slotWrite writer n word w) s = .next s)
  ∧ (∀ (s : State) (port : Fin 8) (n : Fin 1024), s.unitBad (slotKey n) = false →
    ∃ t, exec (.slotValueRead port n) s = .next t ∧ Touches [.answer, .chk, .slotShadows] s t ∧
      t.answer = s.mword (slotKey n) ∧ t.slotSeen port n 1 = s.mword (slotKey n + 4) ∧
      t.slotSeen port n 2 = s.mword (slotKey n + 8) ∧ t.slotSeen port n 3 = s.mword (slotKey n + 12))

/-- Placement: what each event, the 1.024 ms re-evaluation, a load, the two ends of a state copy and a fault move do to the loop
concerned (R121, R125, R129 to R139, R151). Where the spec leaves a point open, the model's
choice stands in log entries 18, 29, 63, 65 and 66. -/
def Obligations.PlacementAndMoves : Prop :=
  (∀ (s : State) (e l : Nat), s.supRuns = true → s.trl.events.head? = some (.drain e) → e < 16 →
    (∀ p, (s.polder p).st = .draining ↔ p = pdLE e) → s.loopsOn e = [l] → (s.loop l).state = .running → (s.loop l).move = none →
    s.trl.graftLoops = [] → ∀ d, s.engineFor l (s.loop l).desc [e] = some d →
    ∃ t, exec .placementEvent s = .next t ∧ t.trl.events = s.trl.events.tail ∧ (t.loop l).engine = e ∧
      ((t.polder (pdLE e)).st = .draining →
        (t.loop l).state = .moving ∧ ((t.loop l).move.map fun m => (m.dest, m.cause)) = some (d, 1)))
  ∧ (∀ (s : State) (l k : Nat), s.supRuns = true → s.trl.events.head? = some (.refill k) →
    (∀ p, (s.polder p).st ≠ .draining) → s.waitingLoops = [l] →
    ∀ e, s.engineFor l ((s.loop l).next.getD (s.loop l).desc) [] = some e →
    ∃ t, exec .placementEvent s = .next t ∧ t.trl.events = s.trl.events.tail ∧ (t.loop l).state = .loading ∧ (t.loop l).engine = e ∧
      (t.loop l).desc = (s.loop l).next.getD (s.loop l).desc ∧ (t.loop l).next = none ∧
      ∀ j, j < 64 → j ≠ l → (t.loop j).state = (s.loop j).state ∧ (t.loop j).engine = (s.loop j).engine)
  ∧ (∀ (s : State), s.supRuns = true → s.bins.flatMap s.shedding = [] → s.coll.stopped = false →
    ∃ t, exec .reserveReevaluation s = .next t ∧
      t.rdB pgTRL Reg.TRL.STAT_RESERVE_OK = reserveHolds s.rules s.bins s.ownFb ∧ t.loops = s.loops ∧
      (s.rdB pgTRL Reg.TRL.STAT_RESERVE_OK = true → reserveHolds s.rules s.bins s.ownFb = false → Reported t .u 0x2B pgTRL))
  ∧ (∀ (s : State) (l : Fin 64), s.supRuns = true → s.Sound → (s.loop l).state = .loading →
    ∃ t, exec (.imageLoadComplete l 0) s = .next t ∧ t.loop l = { s.loop l with state := .running } ∧
      (∀ j, j < 4 * (s.loop l).imgWords →
        t.byte (leBase (s.loop l).engine + (s.loop l).imgOff + j) = s.byte (s.imgCode (s.loop l).slot + j)) ∧
      OnlyBytes (leBase (s.loop l).engine + (s.loop l).imgOff) (4 * (s.loop l).imgWords) s t)
  ∧ (∀ (s : State) (l : Fin 64), ∀ m, (s.loop l).move = some m → s.supRuns = true → m.loaded = true →
    m.copying = false → s.inProgress l = false → s.copyMayStart l (copyTicks (s.loop l).stSize) m.ends = true →
    ∃ t, exec (.moveCopyStart l) s = .next t ∧ (t.loop l).move = some { m with copying := true } ∧
      (t.loop l).engine = (s.loop l).engine ∧ (t.loop l).state = (s.loop l).state ∧ t.mem = s.mem)
  ∧ (∀ (s : State) (l : Fin 64), ∀ m, (s.loop l).move = some m → s.supRuns = true → m.loaded = true →
    m.copying = false → s.inProgress l = false → s.copyMayStart l (copyTicks (s.loop l).stSize) m.ends = false →
    ∃ t, exec (.moveCopyStart l) s = .next t ∧ t.loop l = { s.loop l with move := some { m with ends := m.ends + 1 } } ∧
      Touches [.loops] s t ∧ ∀ j, j ≠ l.val → t.loop j = s.loop j)
  ∧ (∀ (s : State) (l : Fin 64), ∀ m, (s.loop l).move = some m → s.Sound → m.copying = true → s.chk.bad = [] →
    (s.loop l).held = [] → (s.loop l).slot < 64 → (s.loop l).imgWords ≤ 4096 →
    (m.stOff + (s.loop l).stSize ≤ m.imgOff ∨ m.imgOff + 4 * (s.loop l).imgWords ≤ m.stOff) →
    ∃ t, exec (.moveCopyComplete l) s = .next t ∧ (t.loop l).engine = m.dest ∧ (t.loop l).state = .running ∧
      (t.loop l).move = none ∧ (t.loop l).stOff = m.stOff ∧ (t.loop l).imgOff = m.imgOff ∧ (t.loop l).moveCause = m.cause ∧
      (∀ j, j < (s.loop l).stSize → t.byte (leBase m.dest + m.stOff + j) = s.byte (leBase (s.loop l).engine + (s.loop l).stOff + j)) ∧
      ∀ j, j < 4 * (s.loop l).imgWords → t.byte (leBase m.dest + m.imgOff + j) = s.byte (s.imgCode (s.loop l).slot + j))
  ∧ (∀ (s : State) (e : Fin 16) (l : Nat), s.supRuns = true → PlaceEvent.engineFault e ∈ s.trl.events →
    (∀ p, (s.polder p).st ≠ .draining) → s.loopsOn e = [l] → (s.loop l).gone = false → descClass (s.loop l).desc = 0 →
    ∀ f, (s.loop l).fallback = some f → f ≠ e → (s.loop l).fbLoaded = true → s.inService (pdLE f) = true → s.trl.graftLoops = [] →
    ∃ t, exec (.faultMove e) s = .next t ∧ (t.loop l).engine = f ∧ (t.loop l).state = .running ∧ (t.loop l).moveCause = 2 ∧
      (t.loop l).move = none ∧ t.trl.events = s.trl.events.erase (.engineFault e) ∧
      (t.eng e).a = {} ∧ (t.eng e).bc = {} ∧ (t.eng e).waiting = [])

/-- Hold guards and balancing: at its instant of action a guard substitutes on the line through its last two applies, and where
it may not it hands the legs to the stage logic; a spread over the threshold is held for HOLD, then one class B or C loop moves
(R140, R144). Where the spec leaves a point open, the model's
choice stands in log entry 66. -/
def Obligations.GuardsAndBalancing : Prop :=
  (∀ (s : State) (p : Fin 256), s.guardArmed p 0 = true → (s.guard p 0).done = false →
    guardActionAt (s.guard p 0) ≤ s.eu * (s.guard p 0).tDen → guardMaySubstitute (s.guard p 0) = true →
    (s.guard p 0).acted < s.rd pgTRL Reg.TRL.TCTL_SUBST_MAX → s.coll.stopped = false →
    ∃ t, exec (.holdGuardExpiry p false) s = .next t ∧
      t.rd p Reg.CHAN.COMPARE_EU = (clampInt 0 (s.legPeriod p) (guardSubstitute (s.guard p 0))).toNat % 2 ^ 21 ∧
      t.rd p Reg.CHAN.GUARD_SUBST = min 7 ((s.guard p 0).acted + 1) ∧
      t.guard p 0 = { s.guard p 0 with acted := (s.guard p 0).acted + 1 } ∧ t.guard p 1 = s.guard p 1 ∧
      ((s.guard p 0).acted = 0 → Reported t .c 0xD8 p) ∧
      Changes [.guards, .chans, .coll] [fieldKey p Reg.CHAN.COMPARE_EU, fieldKey p Reg.CHAN.GUARD_SUBST] s t)
  ∧ (∀ (s : State) (p : Fin 256), s.guardArmed p 1 = true → (s.guard p 1).done = false →
    guardActionAt (s.guard p 1) ≤ s.eu * (s.guard p 1).tDen → guardMaySubstitute (s.guard p 1) = true →
    (s.guard p 1).acted < s.rd pgTRL Reg.TRL.TCTL_SUBST_MAX → s.coll.stopped = false →
    ∃ t, exec (.holdGuardExpiry p true) s = .next t ∧
      (t.chan p).phaseNew = some ((guardSubstitute (s.guard p 1) % (max 1 (s.legPeriod p) : Nat)).toNat, s.now) ∧
      t.guard p 1 = { s.guard p 1 with acted := (s.guard p 1).acted + 1 } ∧ t.guard p 0 = s.guard p 0 ∧
      ((s.guard p 1).acted = 0 → Reported t .c 0xD8 p) ∧
      Changes [.guards, .chans, .coll] [fieldKey p Reg.CHAN.GUARD_SUBST] s t)
  ∧ (∀ (s : State) (p : Fin 256) (o : Bool), s.guardArmed p (bit o) = true → (s.guard p (bit o)).done = false →
    guardActionAt (s.guard p (bit o)) ≤ s.eu * (s.guard p (bit o)).tDen →
    (guardMaySubstitute (s.guard p (bit o)) = false ∨ s.rd pgTRL Reg.TRL.TCTL_SUBST_MAX ≤ (s.guard p (bit o)).acted) →
    s.coll.stopped = false →
    ∃ t, exec (.holdGuardExpiry p o) s = .next t ∧ t.rdB p Reg.CHAN.GUARD_TAKEN = true ∧ Reported t .u 0xD9 p)
  ∧ (∀ (s : State) (p : Fin 256) (o : Bool),
    (s.guardArmed p (bit o) = false ∨ (s.guard p (bit o)).done = true ∨
      s.eu * (s.guard p (bit o)).tDen < guardActionAt (s.guard p (bit o))) → exec (.holdGuardExpiry p o) s = .next s)
  ∧ (∀ (s : State), s.supRuns = true → (s.rdB pgTRL Reg.TRL.TCTL_BAL_EN = false ∨ s.rd pgFLT Reg.FLT.STAT_RED ≠ 0) →
    exec .balanceEvaluation s = .next { s with trl := { s.trl with spreadSince := none } })
  ∧ (∀ (s : State), s.supRuns = true → s.rdB pgTRL Reg.TRL.TCTL_BAL_EN = true → s.rd pgFLT Reg.FLT.STAT_RED = 0 →
    s.trl.spreadSince = none → ∀ x, spread s.bins = some x →
    Frac.le x.1 ⟨s.rd pgTRL Reg.TRL.TCTL_BAL_SPREAD, 100⟩ = false →
    exec .balanceEvaluation s = .next { s with trl := { s.trl with spreadSince := some s.now } })
  ∧ (∀ (s : State), ∀ at_, s.trl.spreadSince = some at_ → s.supRuns = true →
    s.rdB pgTRL Reg.TRL.TCTL_BAL_EN = true → s.rd pgFLT Reg.FLT.STAT_RED = 0 →
    s.passed at_ (msTicks (s.rd pgTRL Reg.TRL.BAL_TIME_HOLD)) = true → ∀ x, spread s.bins = some x →
    Frac.le x.1 ⟨s.rd pgTRL Reg.TRL.TCTL_BAL_SPREAD, 100⟩ = false →
    ∀ l, (x.2.1.loops.filter fun l => l.cls != 0 && (s.loop l.id).graft.isNone && (s.loop l.id).move.isNone
      && x.2.2.fails s.rules l == 0 && reserveHolds s.rules (moveInBins s.bins l x.2.2.e) s.ownFb) = [l] →
    Frac.lt (((spread (moveInBins s.bins l x.2.2.e)).map (·.1)).getD x.1) x.1 = true →
    (s.loop l.id).state = .running → (s.loop l.id).move = none → s.trl.graftLoops = [] →
    ∃ t, exec .balanceEvaluation s = .next t ∧ (t.loop l.id).state = .moving ∧
      ((t.loop l.id).move.map fun m => (m.dest, m.cause)) = some (x.2.2.e, 3) ∧ Touches [.loops] s t ∧
      ∀ j, j ≠ l.id → t.loop j = s.loop j)

/-- Image slots: storing, erasing and the result of a store (R31, R82, R146, R454). Where the spec leaves a point open, the model's
choice stands in log entries 13, 18 and 30. -/
def Obligations.ImageSlots : Prop :=
  (∀ (s : State) (k : Fin 64), s.trl.job = none → s.slotNamed k = false → (s.polder pdSecurity).st ≠ .failed →
    ∃ t, exec (.imageStore k) s = .next t ∧
      t.trl.job = some { slot := k, src := (s.word pgTRL 0x144).toNat / 32 * 32, erase := false } ∧
      t.rd pgTRL Reg.TRL.IMG_STAT_SLOT = k ∧ t.rd pgTRL Reg.TRL.IMG_STAT_RESULT = 1 ∧
      bitsAt (t.word pgTRL (if k.val < 32 then 0x150 else 0x154)) (k.val % 32) 1 = 0 ∧
      t.sec.queue = s.sec.queue ++ [{ kind := .image }] ∧ t.mem = s.mem)
  ∧ (∀ (s : State) (k : Fin 64), s.trl.job = none → s.slotNamed k = true → s.coll.stopped = false →
    (∃ t, exec (.imageStore k) s = .next t ∧ t.rd pgTRL Reg.TRL.IMG_STAT_SLOT = k ∧ t.rd pgTRL Reg.TRL.IMG_STAT_RESULT = 7 ∧
      Reported t .c 0x30 pgTRL ∧ Changes [.coll] [fieldKey pgTRL Reg.TRL.IMG_STAT_RESULT] s t) ∧
    (∃ t, exec (.imageErase k) s = .next t ∧ t.rd pgTRL Reg.TRL.IMG_STAT_SLOT = k ∧ t.rd pgTRL Reg.TRL.IMG_STAT_RESULT = 7 ∧
      Reported t .c 0x30 pgTRL ∧ Changes [.coll] [fieldKey pgTRL Reg.TRL.IMG_STAT_RESULT] s t))
  ∧ (∀ (s : State) (k : Fin 64), s.Sound → s.trl.job = none → s.slotNamed k = false →
    ∃ t, exec (.imageErase k) s = .next t ∧ t.rd pgTRL Reg.TRL.IMG_STAT_SLOT = k ∧ t.rd pgTRL Reg.TRL.IMG_STAT_RESULT = 8 ∧
      bitsAt (t.word pgTRL (if k.val < 32 then 0x150 else 0x154)) (k.val % 32) 1 = 0 ∧
      (∀ j, j < 0x8000 → t.byte (s.slotBase k + j) = 0) ∧ OnlyBytes (s.slotBase k) 0x8000 s t)
  ∧ (∀ (s : State) (facts : SecFacts), ∀ j, s.trl.job = some j → (s.polder pdSecurity).st = .failed → j.slot < 64 →
    s.coll.stopped = false →
    ∃ t, exec (.imageStoreComplete facts) s = .next t ∧ t.trl.job = none ∧ t.rd pgTRL Reg.TRL.IMG_STAT_RESULT = 6 ∧
      t.rd pgTRL Reg.TRL.IMG_STAT_SLOT = j.slot ∧ Reported t .c 0x30 pgTRL ∧ t.mem = s.mem)
  ∧ (∀ (s : State) (facts : SecFacts), ∀ j, s.trl.job = some j → ∀ r, s.sec.run = some r → s.Sound →
    (s.polder pdSecurity).st ≠ .failed → j.slot < 64 → r.kind = .image → pkgClass (s.pkgWords j.src) = 3 →
    s.verify (s.pkgWords j.src) 0x8000 facts = 0 → s.imageValid j.src = true →
    ∃ t, exec (.imageStoreComplete facts) s = .next t ∧ t.trl.job = none ∧ t.sec.run = none ∧
      t.rdB pgSEC Reg.SEC.STAT_BUSY = false ∧ t.rd pgTRL Reg.TRL.IMG_STAT_RESULT = 2 ∧
      bitsAt (t.word pgTRL (if j.slot < 32 then 0x150 else 0x154)) (j.slot % 32) 1 = 1 ∧
      (∀ i, i < 0x8000 → t.byte (s.slotBase j.slot + i) = s.byte (j.src + i)) ∧ OnlyBytes (s.slotBase j.slot) 0x8000 s t)
  ∧ (∀ (s : State) (facts : SecFacts), ∀ j, s.trl.job = some j → ∀ r, s.sec.run = some r →
    (s.polder pdSecurity).st ≠ .failed → j.slot < 64 → r.kind = .image → pkgClass (s.pkgWords j.src) = 3 →
    s.coll.stopped = false →
    (s.verify (s.pkgWords j.src) 0x8000 facts ≠ 0 ∨ s.imageValid j.src = false) →
    ∃ t, exec (.imageStoreComplete facts) s = .next t ∧ t.trl.job = none ∧ t.mem = s.mem ∧ Reported t .c 0x30 pgTRL ∧
      t.rd pgTRL Reg.TRL.IMG_STAT_RESULT = (if s.verify (s.pkgWords j.src) 0x8000 facts = 0 then 5
        else if s.verify (s.pkgWords j.src) 0x8000 facts = 4 then 4 else 3))

/-- Grafts: the set becomes ready, is cancelled on a mismatch or a timeout, and each loop swaps at a run end (R147 to R150). Where the spec leaves a point open, the model's
choice stands in log entries 38 and 68. -/
def Obligations.GraftSets : Prop :=
  (∀ (s : State), s.supRuns = true → s.rd pgTRL Reg.TRL.GRAFT_STAT_STATE = 1 →
    (∀ l, l ∈ s.trl.graftLoops → (s.loop l).graft.any (·.loaded) = true ∧ s.standbyMatches l = true) →
    ∃ t, exec .graftStandbyVerified s = .next t ∧ t.rd pgTRL Reg.TRL.GRAFT_STAT_STATE = 2 ∧
      Changes [] [fieldKey pgTRL Reg.TRL.GRAFT_STAT_STATE] s t)
  ∧ (∀ (s : State), ∀ l, s.trl.graftLoops = [l] → s.supRuns = true → s.rd pgTRL Reg.TRL.GRAFT_STAT_STATE = 1 → l < 64 →
    (s.loop l).graft.any (·.loaded) = true → s.standbyMatches l = false → s.coll.stopped = false →
    ∃ t, exec .graftStandbyVerified s = .next t ∧ t.rd pgTRL Reg.TRL.GRAFT_STAT_STATE = 5 ∧
      t.rd pgTRL Reg.TRL.GRAFT_STAT_CAUSE = 3 ∧ t.rd pgTRL Reg.TRL.GRAFT_STAT_LOOP = l ∧ t.trl.graftLoops = [] ∧
      t.rdB pgTRL Reg.TRL.STAT_GRAFT_PEND = false ∧ (t.loop l).graft = none ∧ (t.loop l).desc = (s.loop l).desc ∧
      (t.loop l).slot = (s.loop l).slot ∧ Reported t .u 0x32 pgTRL)
  ∧ (∀ (s : State) (l : Fin 64), ∀ g, (s.loop l).graft = some g → s.supRuns = true →
    (s.rd pgTRL Reg.TRL.GRAFT_STAT_STATE = 2 ∨ s.rd pgTRL Reg.TRL.GRAFT_STAT_STATE = 3) → s.inProgress l = false →
    (s.loop l).move = none → s.copyMayStart l (64 + (8 * (s.descState g.desc / 4) + 24) / 25) g.ends = true →
    s.coll.stopped = false →
    ∃ t, exec (.graftSwap l) s = .next t ∧ (t.loop l).desc = g.desc ∧ (t.loop l).slot = descImg g.desc ∧
      (t.loop l).imgOff = g.imgOff ∧ (t.loop l).stSize = s.descState g.desc ∧ (t.loop l).graft = none ∧
      (t.loop l).engine = (s.loop l).engine ∧ t.trl.graftLoops = s.trl.graftLoops.filter (· ≠ l.val) ∧
      (s.trl.graftLoops.filter (· ≠ l.val) ≠ [] → t.rd pgTRL Reg.TRL.GRAFT_STAT_STATE = 3) ∧
      (s.trl.graftLoops.filter (· ≠ l.val) = [] → t.rd pgTRL Reg.TRL.GRAFT_STAT_STATE = 4 ∧
        t.rdB pgTRL Reg.TRL.STAT_GRAFT_PEND = false ∧ Reported t .c 0x31 pgTRL))
  ∧ (∀ (s : State), s.supRuns = true → s.rd pgTRL Reg.TRL.GRAFT_STAT_STATE = 1 → s.trl.graftLoops ≠ [] →
    s.passed s.trl.graftAt (msTicks (s.rd pgTRL Reg.TRL.GRAFT_TMO_MS)) = true → s.coll.stopped = false →
    ∃ t, exec .graftTimeout s = .next t ∧ t.rd pgTRL Reg.TRL.GRAFT_STAT_STATE = 5 ∧ t.rd pgTRL Reg.TRL.GRAFT_STAT_CAUSE = 6 ∧
      t.trl.graftLoops = [] ∧ Reported t .u 0x32 pgTRL ∧ t.mem = s.mem)

/-- Period starts and sample instants of every kind of stage (R155, R156, R157, R197, R228, R247, R403, R527). Where the spec leaves a point open, the model's
choice stands in log entry 24. -/
def Obligations.PeriodsAndSampleInstants : Prop :=
  (∀ (s : State) (st : Fin 10), nextStart (s.stage st).a s.eu ≤ s.eu + 19 →
    ∃ t, exec (.stagePeriodStart st 0) s = .next t ∧
      (t.stage st).a = { started := true, start := nextStart (s.stage st).a s.eu, prev := (s.stage st).a.start, done := 0
                         period := s.periodReg st, samp := s.rd (pgSG st) Reg.SGT.SAMP_OFFSET
                         double := isTraction st && s.rdB (pgSG st) Reg.SGT.TCFG_UPDATE } ∧
      (isTraction st = true → s.rdB (pgSG st) Reg.SGT.TCFG_B_CARRIER = false →
        (t.stage st).b.start = nextStart (s.stage st).a s.eu ∧ (t.stage st).b.period = s.periodReg st) ∧
      ∀ k, k ≠ st.val → t.stage k = s.stage k)
  ∧ (∀ (s : State) (st : Fin 10), isTraction st = true → (s.stage st).a.started = true → s.nextStartB st ≤ s.eu + 19 →
    ((s.stage st).b.started = false ∨ (s.stage st).b.start < s.nextStartB st) →
    ∃ t, exec (.stagePeriodStart st 1) s = .next t ∧ (t.stage st).a = (s.stage st).a ∧
      (t.stage st).b = { started := true, start := s.nextStartB st, prev := (s.stage st).b.start, done := 0
                         period := (s.stage st).a.period, samp := (s.stage st).a.samp
                         double := s.rdB (pgSG st) Reg.SGT.TCFG_UPDATE } ∧
      ∀ k, k ≠ st.val → t.stage k = s.stage k)
  ∧ (∀ (s : State) (st : Fin 10), s.eu + 19 < nextStart (s.stage st).a s.eu → exec (.stagePeriodStart st 0) s = .next s)
  ∧ (∀ (s : State) (st : Fin 10) (set : Fin 2) (f : Option Word),
    ((s.stage st).timing set).nextSample = none ∨ ((s.stage st).timing set).nextSample.all (fun due => s.eu + 19 < due) = true →
    exec (.stageSampleInstant st set f) s = .next s)
  ∧ (∀ (s : State) (st : Fin 10) (f : Option Word), isConversion st = true →
    ∀ due, (s.stage st).a.nextSample = some due → due ≤ s.eu + 19 →
    ∃ t, exec (.stageSampleInstant st 0 f) s = .next t ∧ (t.stage st).a.done = (s.stage st).a.done + 1 ∧
      t.stageIn st 3 = s.ainValue (s.rd (pgSG st) Reg.SGC.SRC_VIN) ∧
      t.stageIn st 4 = s.ainValue (s.rd (pgSG st) Reg.SGC.SRC_VOUT) ∧ InputsStamped s t st)
  ∧ (∀ (s : State) (st : Fin 10) (f : Option Word), isActuation st = true →
    ∀ due, (s.stage st).a.nextSample = some due → due ≤ s.eu + 19 →
    ∃ t, exec (.stageSampleInstant st 0 f) s = .next t ∧ (t.stage st).a.done = (s.stage st).a.done + 1 ∧
      t.stageIn st 3 = s.word pgPWR Reg.PWR.VM_V.off ∧ InputsStamped s t st)
  ∧ (∀ (s : State) (st : Fin 10) (f : Option Word), isTraction st = true →
    ∀ due, (s.stage st).a.nextSample = some due → due ≤ s.eu + 19 →
    ∃ t, exec (.stageSampleInstant st 0 f) s = .next t ∧ (t.stage st).a.done = (s.stage st).a.done + 1 ∧
      t.stageIn st 5 = s.dcLink st ∧ InputsStamped s t st)
  ∧ (∀ (s : State) (st : Fin 10) (f : Option Word), isTraction st = true → s.coll.stopped = false →
    ∀ due, (s.stage st).a.nextSample = some due → due ≤ s.eu + 19 →
    ((s.sampleTaken st 0).tracForm st 0 f).overspeedCause st = true →
    ∃ t, exec (.stageSampleInstant st 0 f) s = .next t ∧ Reported t .u 0x4B (pgSG st) ∧ Reported t .u 0x47 (pgSG st) ∧
      t.rdB (pgSG st) Reg.SGT.STAT_REACT = true ∧ (t.mode st = 5 ∨ t.mode st = 6))

/-- Traction: the speed rule, Catch, the loss of the position, a stale torque command and the end of a reaction (R159, R164 to R169,
R173, R180, R182). Where the spec leaves a point open, the model's
choice stands in log entries 23, 25, 26, 72, 73 and 83. -/
def Obligations.TractionEvents : Prop :=
  (∀ (s : State) (st : Fin 2), s.mode st = 6 → s.rdB (pgSG st) Reg.SGT.STAT_REACT = false → s.ruleToAsc st [0, 1] = true →
    s.coll.stopped = false →
    ∃ t, exec (.speedRuleTransition st) s = .next t ∧ TractionIn t st 5 2 false false ∧
      t.rdB (pgSG st) Reg.SGT.STAT_OFF_PEND = false ∧ Reported t .c 0x4C (pgSG st) ∧ OnlyPages [pgSG st, pgSUP] s t)
  ∧ (∀ (s : State) (st : Fin 2), (s.mode st = 5 ∨ s.mode st = 6) → s.rdB (pgSG st) Reg.SGT.STAT_REACT = true →
    (if s.mode st = 5 then s.ruleToOff st 0 else s.ruleToAsc st [0, 1]) = true →
    ∃ t, exec (.speedRuleTransition st) s = .next t ∧
      TractionIn t st (11 - s.mode st) (if s.mode st = 5 then 1 else 2) true false ∧
      (t.stage st).stillSince = (s.stage st).stillSince ∧ t.coll = s.coll ∧ OnlyPages [pgSG st, pgSUP] s t)
  ∧ (∀ (s : State) (st : Fin 2), s.mode st = 0 → s.rdB (pgSG st) Reg.SGT.TCFG_OFF_ASC = true → s.stoOpen = false →
    s.ruleToAsc st [0, 1] = true → s.otherDomainOff st = true → s.coll.stopped = false →
    ∃ t, exec (.speedRuleTransition st) s = .next t ∧ TractionIn t st 5 2 false false ∧
      t.rdB (pgSG st) Reg.SGT.STAT_OFF_PEND = true ∧ ((s.stage st).forcedLogged = false → Reported t .c 0x4C (pgSG st)))
  ∧ (∀ (s : State) (st : Fin 2), s.mode st = 5 → s.rdB (pgSG st) Reg.SGT.STAT_REACT = false →
    s.rdB (pgSG st) Reg.SGT.STAT_OFF_PEND = true → s.ruleToOff st 0 = true →
    ∃ t, exec (.speedRuleTransition st) s = .next t ∧ TractionIn t st 0 1 false false ∧
      t.rdB (pgSG st) Reg.SGT.STAT_OFF_PEND = false)
  ∧ (∀ (s : State) (st : Fin 2), s.mode st = 1 → s.passed (s.stage st).modeAt (msTicks 20) = true → s.coll.stopped = false →
    ∃ t, exec (.catchTimeout st) s = .next t ∧ TractionIn t st 0 1 false false ∧ Reported t .u 0x41 (pgSG st) ∧
      (∀ p, p ∈ s.legs st → t.rdB p Reg.XH.CH_STAT_LATCH = false) ∧
      ∀ p, p ∈ s.setLegs st 0 ++ s.setLegs st 1 → (t.chan p).drive = .off)
  ∧ (∀ (s : State) (st : Fin 2), (s.mode st ≠ 1 ∨ s.passed (s.stage st).modeAt (msTicks 20) = false) →
    exec (.catchTimeout st) s = .next s)
  ∧ (∀ (s : State) (st : Fin 2), s.needsPosition st = true → s.rdB (pgSG st) Reg.SGT.STAT_POS_LOST = false →
    s.coll.stopped = false → s.healthySources st = [] →
    ∃ t, exec (.positionLost st) s = .next t ∧ t.rdB (pgSG st) Reg.SGT.STAT_POS_LOST = true ∧
      (t.stage st).lost = some (s.now, s.sgw st Reg.SGT.TQ_EFF_NM) ∧ Reported t .u 0x43 (pgSG st) ∧ t.mode st = s.mode st ∧
      OnlyPages [pgSG st] s t)
  ∧ (∀ (s : State) (st : Fin 2), ∀ x, (s.stage st).lost = some x → s.runningMode st = true →
    s.passed x.1 (s.lossRamp st) = true → s.coll.stopped = false →
    ∃ t, exec (.lossRampEnd st) s = .next t ∧
      TractionIn t st (if s.ruleCode st = 2 then 5 else 6) (s.ruleCode st) true false ∧ (t.stage st).reactAt = s.now ∧
      Reported t .u 0x47 (pgSG st) ∧ OnlyPages [pgSG st, pgSUP] s t)
  ∧ (∀ (s : State) (st : Fin 2), s.torqueMode st = true → (s.stage st).tqStale = none → s.coll.stopped = false →
    s.passed (s.stage st).tqFrom (msTicks (max 1 (s.rd (pgSG st) Reg.SGT.TIMES_TQ_STALE))) = true →
    ∃ t, exec (.tqStaleTimeout st) s = .next t ∧
      t.stage st = { s.stage st with tqStale := some (s.now, s.sgw st Reg.SGT.TQ_EFF_NM) } ∧ Reported t .u 0x4A (pgSG st) ∧
      Touches [.coll, .stages] s t)
  ∧ (∀ (s : State) (st : Fin 2), (s.mode st = 5 ∨ s.mode st = 6) → s.rdB (pgSG st) Reg.SGT.STAT_REACT = true →
    ((s.stage st).stillSince.any (fun at_ => s.passed at_ (msTicks 10)) = true ∨
      s.passed (s.stage st).reactAt (msTicks 1000 * max 1 (s.rd (pgSG st) Reg.SGT.TIMES_REACT_TMAX)) = true) →
    ∃ t, exec (.reactionEnd st) s = .next t ∧ TractionIn t st 7 1 true true ∧ OnlyPages [pgSG st, pgSUP] s t)

/-- Conversion: the start, its timeout, the stop delay, a stale command and the crowbar (R194, R196, R198, R200, R215, R218, R225,
R226). Where the spec leaves a point open, the model's
choice stands in log entries 71, 74 and 76. -/
def Obligations.ConversionEvents : Prop :=
  (∀ (s : State) (st : Fin 10), isConversion st = true → s.mode st = 1 →
    s.passed (s.stage st).reqAt (usTicks (s.rd (pgSG st) Reg.SGC.DLY_START)) = true → s.startConditions st = true →
    ∃ t, exec (.delayEnd st) s = .next t ∧ t.mode st = 2 ∧ LegsBecome s t st 0 .driven ∧
      t.refEff st = (if st = 2 then s.stageIn 2 4 else if st = 3 then 0
        else if s.rdB (pgSG st) Reg.SGC.CCFG_PREBIAS then s.stageIn st 4 else 0) ∧
      (t.stage st).cmdAt = s.now ∧ (t.stage st).cmdSeen = false ∧ OnlyPages [pgSG st, pgSUP] s t)
  ∧ (∀ (s : State) (st : Fin 10), (isConversion st = false ∨ s.mode st ≠ 1 ∨ s.startConditions st = false) →
    exec (.delayEnd st) s = .next s)
  ∧ (∀ (s : State) (st : Fin 10), isConversion st = true → s.mode st = 1 → s.coll.stopped = false →
    s.passed (s.stage st).reqAt (msTicks (startTimeoutMs st)) = true →
    ∃ t, exec (.startTimeout st) s = .next t ∧ Tripped s t st 10 ∧ (st = 2 → t.rdB (pgSG 2) Reg.SGC.STAT_S2 = false) ∧
      (st = 2 → 1 ≤ s.mode 3 → s.mode 3 ≤ 4 → Tripped s t 3 8))
  ∧ (∀ (s : State), s.mode 2 = 4 → (s.stage 2).stopHeld = true →
    s.passed (s.stage 2).modeAt (usTicks (s.rd (pgSG 2) Reg.SGC.DLY_STOP)) = true →
    ∃ t, exec (.stopDelayEnd 2) s = .next t ∧ t.mode 2 = 0 ∧ LegsBecome s t 2 1 .off ∧ t.refEff 2 = 0 ∧
      t.rdB (pgSG 2) Reg.SGC.STAT_S2 = false)
  ∧ (∀ (s : State) (st : Fin 10), isConversion st = true → st ≠ 2 → s.mode st = 4 → (s.stage st).stopHeld = true →
    s.passed (s.stage st).modeAt (usTicks (s.rd (pgSG st) Reg.SGC.DLY_STOP)) = true →
    ∃ t, exec (.stopDelayEnd st) s = .next t ∧ t.stage st = { s.stage st with stopHeld := false } ∧ Touches [.stages] s t)
  ∧ (∀ (s : State) (st : Fin 10), 3 ≤ st.val → st.val ≤ 5 → 2 ≤ s.mode st → s.mode st ≤ 4 → s.coll.stopped = false →
    s.passed (s.stage st).cmdAt (usTicks (clampNat 1 1000 (s.rd (pgSG st) Reg.SGC.STALE_US))) = true →
    ∃ t, exec (.staleCommandTimeout st) s = .next t ∧ Tripped s t st 5)
  ∧ (∀ (s : State), s.mode 5 ≠ 0 → fpKey (s.sgw 5 Reg.SGC.CROWBAR_V) ≠ 0 → s.coll.stopped = false →
    ∃ t, exec .crowbarFire s = .next t ∧ Tripped s t 5 9 ∧ t.rdB (pgSG 5) Reg.SGC.STAT_CB_LATCH = true ∧
      t.rd (pgSG 5) Reg.SGT.STAT_LEGS_A = 2 ∧ OnlyPages [pgSG 5, pgSUP] s t)
  ∧ (∀ (s : State), (s.mode 5 = 0 ∨ fpKey (s.sgw 5 Reg.SGC.CROWBAR_V) = 0) → exec .crowbarFire s = .next s)
  ∧ (∀ (s : State), s.crowbar = true → s.mode 5 = 0 →
    ∃ t, exec (.crowbarClear true) s = .next t ∧ t.rdB (pgSG 5) Reg.SGC.STAT_CB_LATCH = false ∧ LegsBecome s t 5 1 .off ∧
      t.rd (pgSG 5) Reg.SGT.STAT_LEGS_A = 1)
  ∧ (∀ (s : State) (below : Bool), (s.crowbar = false ∨ s.mode 5 ≠ 0 ∨ below = false) → s.coll.stopped = false →
    ∃ t, exec (.crowbarClear below) s = .next t ∧ Reported t .c 0x5C (pgSG 5) ∧ Touches [.coll] s t)

/-- The grid as the stage logic measures it, the pilot and the proximity circuit of charging, and the loss of the grid (R196, R205, R207 to
R212, R434, R435). Where the spec leaves a point open, the model's
choice stands in log entries 76 and 77. -/
def Obligations.GridAndPilot : Prop :=
  (∀ (s : State) (rms irms : List Word) (vpk : Word), (s.stage 2).halfDone = false →
    ∃ t, exec (.gridZeroCrossing rms irms vpk) s = .next t ∧ (t.stage 2).crossings = (s.now :: (s.stage 2).crossings).take 4 ∧
      (t.stage 2).halfDone = true ∧
      t.sgw 2 Reg.SGC.GRID_F_HZ = (if 3 ≤ (s.stage 2).crossings.length
        then fpOfRatio 480000000 (ticksSince ((s.stage 2).crossings.getD 2 0) s.now) else 0) ∧
      t.stageIn 2 6 = t.sgw 2 Reg.SGC.GRID_F_HZ ∧ t.rdB (pgSG 2) Reg.SGC.STAT_GRID_OK = s.rdB (pgSG 2) Reg.SGC.STAT_GRID_OK ∧
      Touches [.regs, .pushes, .stages] s t ∧ OnlyPages [pgSG 2] s t)
  ∧ (∀ (s : State) (rms irms : List Word) (vpk : Word), (s.stage 2).halfDone = true → s.convDriven 2 = false →
    ∃ t, exec (.gridZeroCrossing rms irms vpk) s = .next t ∧ (t.stage 2).halfDone = false ∧ (t.stage 2).gridVpk = vpk ∧
      t.stageIn 2 7 = vpk ∧ t.rdB (pgSG 2) Reg.SGC.STAT_GRID_OK = (decide (3 ≤ (s.stage 2).crossings.length) &&
        s.gridOk (fpOfRatio 480000000 (ticksSince ((s.stage 2).crossings.getD 2 0) s.now)) rms) ∧ OnlyPages [pgSG 2] s t)
  ∧ (∀ (s : State) (rms irms : List Word) (vpk : Word), (s.stage 2).halfDone = true → s.convDriven 2 = true →
    s.overCurrentRms irms = true → (s.stage 2).overRuns = 4 → s.coll.stopped = false →
    ∃ t, exec (.gridZeroCrossing rms irms vpk) s = .next t ∧ Tripped s t 2 11 ∧
      (1 ≤ s.mode 3 → s.mode 3 ≤ 4 → Tripped s t 3 8))
  ∧ (∀ (s : State), (∀ at_, (s.stage 2).crossings.head? = some at_ → s.passed at_ (msTicks 30) = true) → s.convDriven 2 = true →
    s.coll.stopped = false →
    ∃ t, exec .gridLoss s = .next t ∧ t.rdB (pgSG 2) Reg.SGC.STAT_GRID_OK = false ∧ Tripped s t 2 7)
  ∧ (∀ (s : State) (high low : Option Word) (edges : Bool) (period highTime : Nat), s.inService pdCHG = true →
    s.pilot.states.take 2 = [pilotState high low, pilotState high low] →
    ∃ t, exec (.pilotPeriodDecode high low edges period highTime) s = .next t ∧
      t.rd pgCHG Reg.CHG.CP_STATE = pilotState high low)
  ∧ (∀ (s : State) (high low : Option Word) (edges : Bool) (period highTime : Nat), s.inService pdCHG = true →
    (edges = false ∨ period < 313600 ∨ 326400 < period ∨ low.any (within 0xC1500000 0xC1300000) = false) →
    ∃ t, exec (.pilotPeriodDecode high low edges period highTime) s = .next t ∧ t.rdB pgCHG Reg.CHG.CP_PWM = false ∧
      t.word pgCHG Reg.CHG.I_PILOT_A.off = 0)
  ∧ (∀ (s : State) (low : Word) (high : Option Word) (period highTime : Nat), s.inService pdCHG = true →
    within 0xC1500000 0xC1300000 low = true → 313600 ≤ period → period ≤ 326400 →
    (2000 * highTime + period) / (2 * period) ≤ 1000 →
    s.pilot.duties.take 2 = [some ((2000 * highTime + period) / (2 * period)), some ((2000 * highTime + period) / (2 * period))] →
    ∃ t, exec (.pilotPeriodDecode high (some low) true period highTime) s = .next t ∧ t.rdB pgCHG Reg.CHG.CP_PWM = true ∧
      t.rd pgCHG Reg.CHG.CP_DUTY = (2000 * highTime + period) / (2 * period) ∧
      t.word pgCHG Reg.CHG.I_PILOT_A.off = s.pilotAmps ((2000 * highTime + period) / (2 * period)))
  ∧ (∀ (s : State) (vpp v33 : Word), s.inService pdCHG = true → fpLe (fmul 0x3F7AE148 v33) vpp = true →
    s.pilot.bands.take 4 = [0, 0, 0, 0] →
    ∃ t, exec (.proximityMeasurement vpp v33) s = .next t ∧ t.word pgCHG Reg.CHG.PP_R_OHM.off = fpInf false ∧
      t.rd pgCHG Reg.CHG.PP_BAND = 0 ∧ t.rdB pgCHG Reg.CHG.PP_CONN = false)
  ∧ (∀ (s : State) (vpp v33 : Word), s.inService pdCHG = true → fpLe (fmul 0x3F7AE148 v33) vpp = false →
    ∀ b, some (proximityBand (fdiv (fmul (s.word pgCHG Reg.CHG.PP_RPU_OHM.off) vpp) (fsub v33 vpp))) = some b → 1 ≤ b → b ≤ 4 →
    s.pilot.bands.take 4 = [b, b, b, b] →
    ∃ t, exec (.proximityMeasurement vpp v33) s = .next t ∧ t.rd pgCHG Reg.CHG.PP_BAND = b ∧
      t.rdB pgCHG Reg.CHG.PP_CONN = true)
  ∧ (∀ (s : State) (high low : Option Word) (edges : Bool) (period highTime : Nat) (vpp v33 : Word), s.inService pdCHG = false →
    exec (.pilotPeriodDecode high low edges period highTime) s = .next s ∧ exec (.proximityMeasurement vpp v33) s = .next s)

/-- Actuation: a stale speed, the stop timeout and the curve (R236, R239, R243 to R245). Where the spec leaves a point open, the model's
choice stands in log entries 23, 78 and 79. -/
def Obligations.ActuationEvents : Prop :=
  (∀ (s : State) (st : Fin 10), isActuation st = true →
    (∀ at_, (s.stage st).speedAt = some at_ → s.passed at_ (msTicks 10) = true) →
    ∃ t, exec (.actuationSpeedTimeout st) s = .next t ∧ t.sgw st Reg.SGA.SPEED_RPM = 0x7FC00000 ∧
      Changes [] [fieldKey (pgSG st) Reg.SGA.SPEED_RPM] s t)
  ∧ (∀ (s : State) (st : Fin 10), isActuation st = true → s.mode st = 4 →
    s.passed (s.stage st).modeAt (msTicks (max 1 (s.rd (pgSG st) Reg.SGA.VM_WIN_STOP_TMO))) = true →
    ∃ t, exec (.actuationStopTimeout st) s = .next t ∧ t.mode st = 0 ∧ LegsBecome s t st 1 .off ∧ t.spdEff st = 0 ∧
      ∀ p, p ∈ s.legs st → t.rdB p Reg.XH.CH_STAT_LATCH = false)
  ∧ (∀ (s : State) (st : Fin 10), (isActuation st = false ∨ s.mode st ≠ 4) → exec (.actuationStopTimeout st) s = .next s)
  ∧ (∀ (s : State) (st : Fin 10), isActuation st = true → s.rdB (pgSG st) Reg.SGA.ACFG_TGT_SRC = true → 1 ≤ s.mode st →
    s.mode st ≤ 4 → s.passed (s.stage st).curveAt (msTicks (clampNat 1 1000 (s.rd (pgSG st) Reg.SGA.CURVE_T_PERIOD))) = true →
    (s.curveInput st).1.2 = true →
    ∃ t, exec (.curveEvaluation st) s = .next t ∧ t.sgw st Reg.SGA.CURVE_IN_X = (s.curveInput st).1.1 ∧
      t.rdB (pgSG st) Reg.SGA.STAT_FAILSAFE = false ∧
      t.rdB (pgSG st) Reg.SGA.STAT_CURVE_ON = (if s.rdB (pgSG st) Reg.SGA.STAT_CURVE_ON
        then !fpLe (s.curveInput st).1.1 (s.sgw st Reg.SGA.X_OFF_X) else fpLe (s.sgw st Reg.SGA.X_ON_X) (s.curveInput st).1.1) ∧
      (t.stage st).curveTarget = (if t.rdB (pgSG st) Reg.SGA.STAT_CURVE_ON then s.curveAtX st (s.curveInput st).1.1 else 0) ∧
      (t.stage st).curveAt = s.now ∧ t.mode st = s.mode st ∧ t.coll = s.coll)
  ∧ (∀ (s : State) (st : Fin 10), isActuation st = true → s.rdB (pgSG st) Reg.SGA.ACFG_TGT_SRC = true → 1 ≤ s.mode st →
    s.mode st ≤ 4 → s.passed (s.stage st).curveAt (msTicks (clampNat 1 1000 (s.rd (pgSG st) Reg.SGA.CURVE_T_PERIOD))) = true →
    (s.curveInput st).1.2 = false → s.coll.stopped = false →
    ∃ t, exec (.curveEvaluation st) s = .next t ∧ t.rdB (pgSG st) Reg.SGA.STAT_FAILSAFE = true ∧
      (t.stage st).curveTarget = s.sgw st Reg.SGA.FAIL_SPD_RPM ∧
      (s.rdB (pgSG st) Reg.SGA.STAT_FAILSAFE = false → Reported t .c 0x4D (pgSG st)))
  ∧ (∀ (s : State) (st : Fin 10), isActuation st = true → s.rdB (pgSG st) Reg.SGA.ACFG_TGT_SRC = true → s.mode st = 6 →
    s.passed (s.stage st).curveAt (msTicks (clampNat 1 1000 (s.rd (pgSG st) Reg.SGA.CURVE_T_PERIOD))) = true →
    (s.curveInput st).1.2 = true → s.rdB (pgSG st) Reg.SGA.STAT_CURVE_ON = false →
    fpLe (s.sgw st Reg.SGA.X_ON_X) (s.curveInput st).1.1 = true →
    ∃ t, exec (.curveEvaluation st) s = .next t ∧ t.mode st = 1 ∧ LegsBecome s t st 0 .driven ∧
      t.spdEff st = if fpIsNaN (s.actSpeed st) then 0 else s.actSpeed st)

/-- Integrated channels: the pins, the bootstrap comparator with refresh or suppression, and the charge pump (R252, R255 to
R257). -/
def Obligations.ChannelSupplies : Prop :=
  (∀ (s : State) (ch : Fin 16) (pls en : Bool),
    ∃ t, exec (.ihPinTransition ch pls en) s = .next t ∧ t.rdB (pgIH ch) Reg.IH.CH_STAT_PIN_PLS = pls ∧
      t.rdB (pgIH ch) Reg.IH.CH_STAT_PIN_EN = en ∧
      t.chan (pgIH ch) = (if (s.chan (pgIH ch)).drive = .pins ∧
          (s.rdB (pgIH ch) Reg.IH.CH_STAT_PIN_PLS ≠ pls ∨ s.rdB (pgIH ch) Reg.IH.CH_STAT_PIN_EN ≠ en)
        then { s.chan (pgIH ch) with pinAt := s.eu } else s.chan (pgIH ch)) ∧
      Changes [.chans] [fieldKey (pgIH ch) Reg.IH.CH_STAT_PIN_PLS] s t)
  ∧ (∀ (s : State) (ch : Fin 16), s.rdB (pgIH ch) Reg.IH.CFG_REF_EN = true →
    ∃ t, exec (.bootstrapComparator ch true) s = .next t ∧ t.rdB (pgIH ch) Reg.IH.CH_STAT_BST_LOW = true ∧
      t.rdB (pgIH ch) Reg.IH.CH_STAT_HS_SUPP = false ∧
      (t.chan (pgIH ch)).refreshAt = some ((s.chan (pgIH ch)).refreshAt.getD ((s.now + 4) % 2 ^ 64)) ∧
      Changes [.chans] [fieldKey (pgIH ch) Reg.IH.CH_STAT_BST_LOW] s t)
  ∧ (∀ (s : State) (ch : Fin 16), s.rdB (pgIH ch) Reg.IH.CFG_REF_EN = false → s.coll.stopped = false →
    ∃ t, exec (.bootstrapComparator ch true) s = .next t ∧ t.rdB (pgIH ch) Reg.IH.CH_STAT_BST_LOW = true ∧
      t.rdB (pgIH ch) Reg.IH.CH_STAT_HS_SUPP = true ∧ (t.chan (pgIH ch)).refreshAt = none ∧
      (s.rdB (pgIH ch) Reg.IH.CH_STAT_HS_SUPP = false → ReportedAt t .c 0x4F (pgIH ch) 2 (some s.now)) ∧
      Changes [.chans, .coll] [fieldKey (pgIH ch) Reg.IH.CH_STAT_BST_LOW] s t)
  ∧ (∀ (s : State) (ch : Fin 16),
    ∃ t, exec (.bootstrapComparator ch false) s = .next t ∧ t.rdB (pgIH ch) Reg.IH.CH_STAT_BST_LOW = false ∧
      t.rdB (pgIH ch) Reg.IH.CH_STAT_HS_SUPP = false ∧ (t.chan (pgIH ch)).refreshAt = none ∧
      Changes [.chans] [fieldKey (pgIH ch) Reg.IH.CH_STAT_BST_LOW] s t)
  ∧ (∀ (s : State) (ch : Fin 16), ∀ due, (s.chan (pgIH ch)).refreshAt = some due → due ≤ s.now →
    s.rdB (pgIH ch) Reg.IH.CH_STAT_BST_LOW = true → s.rdB (pgIH ch) Reg.IH.CFG_REF_EN = true → s.enLevel (pgIH ch) = true →
    s.plsNow (pgIH ch) = true → s.latched (pgIH ch) = false → s.rd (pgIH ch) Reg.IH.REF_CNT_COUNT < 0xFFFE →
    s.coll.stopped = false →
    ∃ t, exec (.refreshPulse ch) s = .next t ∧ t.rd (pgIH ch) Reg.IH.REF_CNT_COUNT = s.rd (pgIH ch) Reg.IH.REF_CNT_COUNT + 1 ∧
      (t.chan (pgIH ch)).refreshEnd = (s.now + 128) % 2 ^ 64 ∧
      (t.chan (pgIH ch)).refreshAt = some ((s.now + 320 * max 10 (s.rd (pgIH ch) Reg.IH.BOOT_REF_INT)) % 2 ^ 64) ∧
      ((s.chan (pgIH ch)).refreshed = false → ReportedAt t .c 0x4F (pgIH ch) 1 (some s.now)) ∧
      Changes [.chans, .coll] [fieldKey (pgIH ch) Reg.IH.REF_CNT_COUNT] s t)
  ∧ (∀ (s : State) (ch : Fin 16), ((s.chan (pgIH ch)).refreshAt = none ∨ s.rdB (pgIH ch) Reg.IH.CH_STAT_BST_LOW = false) →
    exec (.refreshPulse ch) s = .next s)
  ∧ (∀ (s : State), s.rdB (pgIH 0) Reg.IH.CH_STAT_VCP_OK = true → s.coll.stopped = false →
    ∃ t, exec .chargePumpLow s = .next t ∧ (∀ n, n < 16 → t.rdB (pgIH n) Reg.IH.CH_STAT_VCP_OK = false) ∧
      ReportedAt t .c 0x4F (pgIH 0) 3 (some s.now) ∧
      Changes [.coll] ((List.range 16).map fun n => fieldKey (pgIH n) Reg.IH.CH_STAT_VCP_OK) s t)
  ∧ (∀ (s : State), s.rdB (pgIH 0) Reg.IH.CH_STAT_VCP_OK = false → exec .chargePumpLow s = .next s)
  ∧ (∀ (s : State), ∃ t, exec .chargePumpWithinRange s = .next t ∧ (∀ n, n < 16 → t.rdB (pgIH n) Reg.IH.CH_STAT_VCP_OK = true) ∧
      Changes [] ((List.range 16).map fun n => fieldKey (pgIH n) Reg.IH.CH_STAT_VCP_OK) s t)

/-- Short-circuit trips, double-leg shorts and driver faults: the leg latches off with the detection stamp, the fault names it, and
the owning stage reacts (R184, R196, R238, R259 to R262, R265). Where the spec leaves a point open, the model's
choice stands in log entry 75. -/
def Obligations.ChannelProtection : Prop :=
  (∀ (s : State) (ch : Fin 16) (high still : Bool), s.rdB (pgIH ch) Reg.IH.CFG_VDS_EN = true → s.sideOn (pgIH ch) high = true →
    s.blankingPassed (pgIH ch) = true → s.secondOfSet (pgIH ch) still = [] → s.coll.stopped = false →
    ∃ t, exec (.vdsTrip ch high still) s = .next t ∧ LegLatched s t (pgIH ch) (if high then 1 else 2) ∧
      (t.chan (pgIH ch)).soft = true ∧ (t.chan (pgIH ch)).softStep = s.rd (pgIH ch) Reg.IH.CFG_SOFT_STEP ∧
      (6 ≤ s.owner (pgIH ch) → s.owner (pgIH ch) < 10 → 1 ≤ s.mode (s.owner (pgIH ch)) → s.mode (s.owner (pgIH ch)) ≤ 4 →
        t.mode (s.owner (pgIH ch)) = 5 ∧ t.rd (pgSG (s.owner (pgIH ch))) Reg.SGA.TRIP_CAUSE = 4))
  ∧ (∀ (s : State) (ch : Fin 16) (high still : Bool),
    (s.rdB (pgIH ch) Reg.IH.CFG_VDS_EN = false ∨ s.sideOn (pgIH ch) high = false ∨ s.blankingPassed (pgIH ch) = false) →
    exec (.vdsTrip ch high still) s = .next s)
  ∧ (∀ (s : State) (ch : Fin 16) (high still : Bool), s.sideOn (pgIH ch) high = true → s.secondOfSet (pgIH ch) still = [] →
    s.coll.stopped = false →
    ∃ t, exec (.hardShort ch high still) s = .next t ∧ LegLatched s t (pgIH ch) 3 ∧
      (s.owner (pgIH ch) = 5 → 1 ≤ s.mode 5 → s.mode 5 ≤ 4 → Tripped s t 5 4))
  ∧ (∀ (s : State) (ch : Fin 16) (high still : Bool) (first : Nat), s.sideOn (pgIH ch) high = true →
    (s.secondOfSet (pgIH ch) still).head? = some first → s.coll.stopped = false →
    ∃ t, exec (.hardShort ch high still) s = .next t ∧ ReportedAt t .u 0x4E first 5 (some s.now) ∧
      ReportedAt t .u 0x4E (pgIH ch) 5 (some s.now) ∧
      ∀ p, p ∈ s.legs (s.owner (pgIH ch)) → t.latched p = true ∧ t.rd p Reg.XH.CH_STAT_PROT = 5 ∧ (t.chan p).softStep = 0)
  ∧ (∀ (s : State) (ch : Fin 16) (high still : Bool), s.sideOn (pgIH ch) high = false → exec (.hardShort ch high still) s = .next s)
  ∧ (∀ (s : State) (ch : Fin 23), s.driverFaultDue (pgXH ch) = true → s.latched (pgXH ch) = false → s.coll.stopped = false →
    ∃ t, exec (.driverFault ch) s = .next t ∧ LegLatched s t (pgXH ch) 4 ∧
      (s.owner (pgXH ch) < 2 → s.runningMode (s.owner (pgXH ch)) = true →
        s.isolated (s.owner (pgXH ch)) (if s.role (pgXH ch) < 3 then 0 else 1) = false →
        t.rd (pgSG (s.owner (pgXH ch))) (isoField (if s.role (pgXH ch) < 3 then 0 else 1)) = 5 ∧
          Reported t .u 0x46 (pgSG (s.owner (pgXH ch)))))
  ∧ (∀ (s : State) (ch : Fin 23), (s.driverFaultDue (pgXH ch) = false ∨ s.latched (pgXH ch) = true) →
    exec (.driverFault ch) s = .next s)
  ∧ (∀ (s : State) (ch : Fin 23),
    (∃ t, exec (.xhFltNPinChange ch true) s = .next t ∧ t.rdB (pgXH ch) Reg.XH.CH_STAT_FLT_PIN = true ∧
      t.chan (pgXH ch) = { s.chan (pgXH ch) with fltLow := some ((s.chan (pgXH ch)).fltLow.getD s.now) } ∧
      Changes [.chans] [fieldKey (pgXH ch) Reg.XH.CH_STAT_FLT_PIN] s t) ∧
    (∃ t, exec (.xhFltNPinChange ch false) s = .next t ∧ t.rdB (pgXH ch) Reg.XH.CH_STAT_FLT_PIN = false ∧
      t.chan (pgXH ch) = { s.chan (pgXH ch) with fltLow := none } ∧
      Changes [.chans] [fieldKey (pgXH ch) Reg.XH.CH_STAT_FLT_PIN] s t))

/-- Sequences: a trigger makes instances wait, the first of them starts on its converter, and the end of a slot delivers a sample, a
prediction or an injected result (R271 to R277, R279, R280, R282 to R285). Where the spec leaves a point open, the model's
choice stands in log entries 84 and 85. -/
def Obligations.SequencesAndConversions : Prop :=
  (∀ (s : State) (st : Fin 10) (us : Nat), 0 < us → s.now % (320 * us) = 0 → s.waitingSeqs = [] →
    (∀ n, n < 6 → (s.conv n).run = none) →
    ∃ t, exec (.sequenceTrigger true st us) s = .next t ∧ t.convs = s.convs ∧ t.samples = s.samples ∧
      t.waitingSeqs = (allSeqs.filter fun q => s.seqOn q && s.seqEventOf q == ⟨1, us, 0⟩).map fun q =>
        { conv := q.conv, k := q.k, trig := s.now, soft := false, entries := s.seqEntries q })
  ∧ (∀ (s : State) (st : Fin 10) (ev : Fin 4), s.sampleInstantNow st ev = true → s.waitingSeqs = [] →
    (∀ n, n < 6 → (s.conv n).run = none) →
    ∃ t, exec (.sequenceTrigger false st ev) s = .next t ∧ t.convs = s.convs ∧ t.samples = s.samples ∧
      t.waitingSeqs = (allSeqs.filter fun q => s.seqOn q && s.seqEventOf q == ⟨0, st, ev⟩).map fun q =>
        { conv := q.conv, k := q.k, trig := s.now, soft := false, entries := s.seqEntries q })
  ∧ (∀ (s : State) (st : Fin 10) (us : Nat), (us = 0 ∨ s.now % (320 * us) ≠ 0) →
    exec (.sequenceTrigger true st us) s = .next s)
  ∧ (∀ (s : State) (n : Fin 6) (bits : Nat), s.waitingSeqs = [] → (∀ m, m < 6 → (s.conv m).run = none) →
    ∃ t, exec (.seqSw n bits) s = .next t ∧ t.convs = s.convs ∧
      t.waitingSeqs = (allSeqs.filter fun q => q.conv == n.val && s.seqOn q && s.seqSrc q == 2 && bitOf bits q.k).map fun q =>
        { conv := q.conv, k := q.k, trig := s.now, soft := true, entries := s.seqEntries q })
  ∧ (∀ (s : State) (n : Fin 6) (bits : Nat), ∀ r, s.waitingSeqs = [r] → r.conv = n → r.k < 8 → bitOf bits r.k = true →
    s.seqOn ⟨n, r.k⟩ = true → s.seqSrc ⟨n, r.k⟩ = 2 → (∀ m, m < 6 → (s.conv m).run = none) →
    s.rd (pgSA n) Reg.SA.SEQ_OVR_COUNT < 0xFFFE → s.coll.stopped = false →
    ∃ t, exec (.seqSw n bits) s = .next t ∧
      t.rd (pgSA n) Reg.SA.SEQ_OVR_COUNT = s.rd (pgSA n) Reg.SA.SEQ_OVR_COUNT + 1 ∧
      (s.rd (pgSA n) Reg.SA.SEQ_OVR_COUNT = 0 → Reported t .c 0x62 (pgSA n)) ∧ ∀ q, q ∈ t.waitingSeqs → q.trig = s.now)
  ∧ (∀ (s : State) (n : Fin 6), ∀ r, s.waitingSeqs = [r] → ∀ a, r.entries.head? = some a → s.seqSide r.conv r.entries = some n.val →
    (s.conv n).free = true → (∀ b, b < 96 → b ∈ r.entries → s.posFailed n (positionOn n b) = false) → r.next = 0 →
    (∀ b, b ∈ r.entries → b < 96) → s.phaseOf a = none →
    ∃ t, exec (.sequenceStart n) s = .next t ∧ t.waitingSeqs = [] ∧ (t.conv n).run = some r ∧
      (t.conv n).slot = some { kind := .entry a false, acq := s.acqTicks r.conv
                               start := s.readyFrom n (max s.now (r.trig + bit r.soft)) } ∧
      t.rdB (pgSA n) Reg.SA.RUN_AWAKE = true ∧ t.samples = s.samples)
  ∧ (∀ (s : State) (n : Fin 6), s.waitingSeqs = [] → exec (.sequenceStart n) s = .next s)
  ∧ (∀ (s : State) (n : Fin 6), ∀ r, s.waitingSeqs = [r] → s.seqSide r.conv r.entries = none → r.next = 0 →
    ∀ a, r.entries = [a] → s.ainFailed a = false → ∀ x, s.predicted a (s.now + s.acqTicks r.conv) = some x → s.phaseOf a = none →
    ∃ t, exec (.sequenceStart n) s = .next t ∧ t.waitingSeqs = [] ∧ (t.sample (ainHandle a)).valid = true ∧
      (t.sample (ainHandle a)).value = x.1 ∧ (t.sample (ainHandle a)).prd = true ∧ (t.sample (ainHandle a)).skp = true ∧
      (t.sample (ainHandle a)).stamp = s.now + s.acqTicks r.conv)
  ∧ (∀ (s : State) (n : Fin 6) (code : Fin 16384), ∀ r, (s.conv n).run = some r → ∀ sl, (s.conv n).slot = some sl →
    sl.start + sl.acq + 32 ≤ s.now → ∀ a, (match sl.kind with | .entry a false => some a | _ => none) = some a →
    s.ainFailed a = false → s.phaseOf a = none → r.entries.length = r.next + 1 →
    ∃ t, exec (.conversionComplete n code) s = .next t ∧ (t.sample (ainHandle a)).valid = true ∧
      (t.sample (ainHandle a)).value = scaled (sl.scale.getD (s.scaleOf a)) code ∧
      (t.sample (ainHandle a)).stamp = sl.start + sl.acq ∧ (t.sample (ainHandle a)).prd = false ∧
      (t.sample (ainHandle a)).skp = false ∧ (t.conv n).run = none ∧ (t.conv n).slot = none ∧
      (t.conv n).idleAt = sl.start + sl.acq + 32 ∧ (∀ h, h ≠ ainHandle a → t.sample h = s.sample h))
  ∧ (∀ (s : State) (n : Fin 6) (code : Fin 16384), ∀ sl, (s.conv n).slot = some sl → sl.start + sl.acq + 32 ≤ s.now →
    ∀ a, (match sl.kind with | .injected a => some a | _ => none) = some a → (s.conv n).run = none → a < 128 →
    sl.start + sl.acq < 2 ^ 64 →
    ∃ t, exec (.conversionComplete n code) s = .next t ∧ t.rd (pgSA n) Reg.SA.INJ_RES_CODE = code ∧
      t.rd (pgSA n) Reg.SA.INJ_RES_AIN = a ∧ t.rdB (pgSA n) Reg.SA.INJ_RES_VALID = true ∧
      t.word (pgSA n) Reg.SA.INJ_VAL_VALUE.off = scaled (sl.scale.getD (s.scaleOf a)) code ∧
      t.rd (pgSA n) Reg.SA.INJ_AT_L_STAMP = (sl.start + sl.acq) % 2 ^ 32 ∧
      t.rd (pgSA n) Reg.SA.INJ_AT_H_STAMP = (sl.start + sl.acq) / 2 ^ 32 ∧ t.rdB (pgSA n) Reg.SA.RUN_INJ_PEND = false ∧
      (t.conv n).inj = none ∧ (t.conv n).slot = none ∧ t.samples = s.samples)
  ∧ (∀ (s : State) (n : Fin 6) (code : Fin 16384), (∀ sl, (s.conv n).slot = some sl → s.now < sl.start + sl.acq + 32) →
    exec (.conversionComplete n code) s = .next s)

/-- A converter's wake and power-down, injected requests and calibration (R279 to R281, R286). Where the spec leaves a point open, the model's
choice stands in log entry 84. -/
def Obligations.ConverterCare : Prop :=
  (∀ (s : State) (n : Fin 6), s.rdB (pgSA n) Reg.SA.CFG_PD_EN = true → s.rdB (pgSA n) Reg.SA.RUN_AWAKE = true →
    (s.conv n).free = true → (s.conv n).inj = none → s.passed (max (s.conv n).idleAt (s.conv n).wakeEnd) 640 = true →
    ∃ t, exec (.converterPowerDown n) s = .next t ∧ t.rdB (pgSA n) Reg.SA.RUN_AWAKE = false ∧
      Changes [] [fieldKey (pgSA n) Reg.SA.RUN_AWAKE] s t)
  ∧ (∀ (s : State) (n : Fin 6), (s.rdB (pgSA n) Reg.SA.CFG_PD_EN = false ∨ (s.conv n).free = false) →
    exec (.converterPowerDown n) s = .next s)
  ∧ (∀ (s : State) (n : Fin 6), (s.dueIn n).any (· ≤ 96) = true → s.rdB (pgSA n) Reg.SA.RUN_AWAKE = false →
    ∃ t, exec (.converterWake n) s = .next t ∧ t.rdB (pgSA n) Reg.SA.RUN_AWAKE = true ∧
      t.conv n = { s.conv n with wakeEnd := s.now + 96 } ∧ Changes [.convs] [fieldKey (pgSA n) Reg.SA.RUN_AWAKE] s t)
  ∧ (∀ (s : State) (n : Fin 6) (ain : Nat), ain < 96 → (ain / 16 = n.val ∨ secondary (ain / 16) = n.val) →
    s.inService (pdSA n) = true → (s.conv n).inj = none → (s.conv n).calAt = none →
    ∃ t, exec (.injectedRequest n ain) s = .next t ∧ (t.conv n).inj = some ain ∧ (t.conv n).run = (s.conv n).run ∧
      (t.conv n).slot = some { kind := .injected ain, start := s.readyFrom n (s.now + 1), acq := s.acqTicks n } ∧
      t.rdB (pgSA n) Reg.SA.RUN_INJ_PEND = true ∧ t.coll = s.coll)
  ∧ (∀ (s : State) (n : Fin 6) (ain : Nat), ain < 96 → (ain / 16 = n.val ∨ secondary (ain / 16) = n.val) →
    (s.inService (pdSA n) = false ∨ (s.conv n).inj.isSome = true) → s.rd (pgSA n) Reg.SA.INJ_DROP_COUNT < 0xFFFE →
    s.coll.stopped = false →
    ∃ t, exec (.injectedRequest n ain) s = .next t ∧
      t.rd (pgSA n) Reg.SA.INJ_DROP_COUNT = s.rd (pgSA n) Reg.SA.INJ_DROP_COUNT + 1 ∧
      (s.rd (pgSA n) Reg.SA.INJ_DROP_COUNT = 0 → Reported t .c 0x61 (pgSA n)) ∧
      Changes [.coll] [fieldKey (pgSA n) Reg.SA.INJ_DROP_COUNT] s t)
  ∧ (∀ (s : State) (n : Fin 6), s.inService (pdSA n) = true → (s.conv n).calReq = none → (s.conv n).calAt = none →
    ∃ t, exec (.calibrationRequest n) s = .next t ∧ t.conv n = { s.conv n with calReq := some s.now } ∧
      t.rdB (pgSA n) Reg.SA.CAL_STAT_WAIT = true ∧ Changes [.convs] [fieldKey (pgSA n) Reg.SA.CAL_STAT_WAIT] s t)
  ∧ (∀ (s : State) (n : Fin 6), (s.inService (pdSA n) = false ∨ (s.conv n).calReq.isSome = true ∨ (s.conv n).calAt.isSome = true) →
    exec (.calibrationRequest n) s = .next s)
  ∧ (∀ (s : State) (n : Fin 6), 0 < s.rd (pgSA n) Reg.SA.CFG_CAL_AUTO →
    s.passed (s.conv n).autoAt (s.rd (pgSA n) Reg.SA.CFG_CAL_AUTO * 320000000) = true → s.inService (pdSA n) = true →
    (s.conv n).calReq = none → (s.conv n).calAt = none →
    ∃ t, exec (.calibrationAuto n) s = .next t ∧ t.conv n = { s.conv n with autoAt := s.now, calReq := some s.now } ∧
      t.rdB (pgSA n) Reg.SA.CAL_STAT_WAIT = true)
  ∧ (∀ (s : State) (n : Fin 6), (s.conv n).calReq.isSome = true → s.inService (pdSA n) = true → (s.conv n).free = true →
    (s.conv n).inj = none → s.waitingSeqs = [] →
    (s.dueIn n).all (fun d => 2048 + (if s.rdB (pgSA n) Reg.SA.RUN_AWAKE then 0 else 96) ≤ d) = true →
    ∃ t, exec (.calibrationStart n) s = .next t ∧ (t.conv n).calReq = none ∧
      (t.conv n).calAt = some (s.now + (if s.rdB (pgSA n) Reg.SA.RUN_AWAKE then 0 else 96)) ∧
      t.rdB (pgSA n) Reg.SA.CAL_STAT_WAIT = false ∧ t.rdB (pgSA n) Reg.SA.CAL_STAT_BUSY = true ∧
      t.rdB (pgSA n) Reg.SA.RUN_AWAKE = true)
  ∧ (∀ (s : State) (n : Fin 6), ∀ at_, (s.conv n).calAt = some at_ → at_ + 2048 ≤ s.now → (∀ p, (s.polder p).st ≠ .draining) →
    (s.conv n).inj = none →
    ∃ t, exec (.calibrationComplete n true) s = .next t ∧ t.rd (pgSA n) Reg.SA.CAL_STAT_RESULT = 1 ∧
      t.rdB (pgSA n) Reg.SA.CAL_STAT_BUSY = false ∧ (t.conv n).calAt = none ∧ t.polders = s.polders)
  ∧ (∀ (s : State) (n : Fin 6), ∀ at_, (s.conv n).calAt = some at_ → at_ + 2048 ≤ s.now → (∀ p, (s.polder p).st ≠ .draining) →
    (s.polder (pdSA n)).st ≠ .off → s.coll.stopped = false →
    ∃ t, exec (.calibrationComplete n false) s = .next t ∧ t.rd (pgSA n) Reg.SA.CAL_STAT_RESULT = 2 ∧
      t.rdB (pgSA n) Reg.SA.CAL_STAT_BUSY = false ∧ (t.polder (pdSA n)).st = .failed ∧ Reported t .u 0x6D (pgSA n) ∧
      (t.conv n).inj = none ∧ t.rdB (pgSA n) Reg.SA.RUN_INJ_PEND = false)
  ∧ (∀ (s : State) (n : Fin 6), ∀ at_, (s.conv n).calReq = some at_ → s.passed at_ 3200000 = true → s.coll.stopped = false →
    ∃ t, exec (.calibrationAbandon n) s = .next t ∧ (t.conv n).calReq = none ∧ t.rdB (pgSA n) Reg.SA.CAL_STAT_WAIT = false ∧
      t.rd (pgSA n) Reg.SA.CAL_STAT_RESULT = 3 ∧ Reported t .c 0x63 (pgSA n))

/-- The test DAC: automatic and requested checks, their results, and the failure of a position after FAIL_N failed checks
(R287, R288). Where the spec leaves a point open, the model's
choice stands in log entry 85. -/
def Obligations.TestDacChecks : Prop :=
  (∀ (s : State) (n : Fin 6), s.rdB pgTDAC Reg.TDAC.CFG_AUTO_EN = true →
    s.passed (tabGet (fun _ => 0) s.tdac.autoAt n) (usTicks (clampNat 10 10000 (s.rd pgTDAC Reg.TDAC.RATE_US))) = true →
    ∀ c, (s.autoChecks n).find? (fun c => tabGet (fun _ => 0) s.tdac.last n < checkKey c) = some c →
    ∃ t, exec (.tdacAutoCheck n) s = .next t ∧ t.tdac.auto = s.tdac.auto ++ [c] ∧
      tabGet (fun _ => 0) t.tdac.last n = checkKey c ∧ tabGet (fun _ => 0) t.tdac.autoAt n = s.now ∧ Touches [.tdac] s t)
  ∧ (∀ (s : State) (pos : Fin 256) (pin : Bool), pos.val < 192 →
    ∃ t, exec (.tdacRequest pos pin) s = .next t ∧ t.tdac = { s.tdac with requested := s.tdac.requested ++ [(pos.val, pin)] } ∧
      t.rd pgTDAC Reg.TDAC.RES_RESULT = 3 ∧ t.rd pgTDAC Reg.TDAC.RES_POS = pos ∧ t.rdB pgTDAC Reg.TDAC.RES_TYPE = pin ∧
      Changes [.tdac] [fieldKey pgTDAC Reg.TDAC.RES_RESULT] s t)
  ∧ (∀ (s : State) (pos : Fin 256) (pin : Bool), 192 ≤ pos.val → exec (.tdacRequest pos pin) s = .next s)
  ∧ (∀ (s : State) (n : Fin 6) (code low : Fin 16384), ∀ c, s.tdac.requested = [c] → c.1 / 32 = n.val →
    (s.conv n).free = true → (s.conv n).inj = none → s.inService (pdSA n) = true →
    s.passed (s.conv n).idleAt ((if c.2 then 2 else 1) * (s.acqTicks n + 32)) = true → s.tdacPasses c.1 c.2 code low = true →
    (∀ p, (s.polder p).st ≠ .draining) →
    ∃ t, exec (.tdacCheckComplete n code low) s = .next t ∧ t.tdac.requested = [] ∧
      tabGet (fun _ => 0) t.tdac.fails (checkKey c) = 0 ∧ t.rd pgTDAC Reg.TDAC.RES_RESULT = 1 ∧
      t.rd pgTDAC Reg.TDAC.RES_CODE = code ∧ t.rdB pgTDAC Reg.TDAC.RES_VALID = true ∧
      Changes [.tdac] [fieldKey pgTDAC Reg.TDAC.RES_RESULT] s t)
  ∧ (∀ (s : State) (n : Fin 6) (code low : Fin 16384), ∀ c, s.tdac.requested = [c] → c.1 / 32 = n.val → c.2 = false →
    (s.conv n).free = true → (s.conv n).inj = none → s.inService (pdSA n) = true →
    s.passed (s.conv n).idleAt (s.acqTicks n + 32) = true → s.tdacPasses c.1 c.2 code low = false →
    (∀ p, (s.polder p).st ≠ .draining) → s.rd pgTDAC Reg.TDAC.FAIL_CNT_COUNT < 0xFFFE → s.coll.stopped = false →
    ∃ t, exec (.tdacCheckComplete n code low) s = .next t ∧ t.rd pgTDAC Reg.TDAC.RES_RESULT = 2 ∧
      t.rd pgTDAC Reg.TDAC.FAIL_CNT_COUNT = s.rd pgTDAC Reg.TDAC.FAIL_CNT_COUNT + 1 ∧
      (max 1 (s.rd pgTDAC Reg.TDAC.CFG_FAIL_N) = tabGet (fun _ => 0) s.tdac.fails (checkKey c) + 1 → s.posFailed n (c.1 % 32) = false →
        t.posFailed n (c.1 % 32) = true ∧ Reported t .u 0x64 (pgSA n)))

/-- Sigma-delta inputs with their fast path, the resolvers and the encoder (R290 to R299). Where the spec leaves a point open, the model's
choice stands in log entries 86 and 87. -/
def Obligations.SensorsAndFastPath : Prop :=
  (∀ (s : State) (ch : Fin 12) (v : Word), s.sdOn ch = true → s.sdInstant ch = true →
    bitOf (s.rd pgSD Reg.SD.STUCK_CH) ch = false →
    ∃ t, exec (.sdDecimatorOutput ch v) s = .next t ∧
      t.sample (sdHandle ch) = { s.sample (sdHandle ch) with
        valid := true, stamp := s.now - 24 * (s.sdOsr ch - 1), prd := false, skp := false
        value := (fpFma (s.word pgSD (Reg.SD.GAIN_GAIN ch).off) v (s.word pgSD (Reg.SD.OFFS_OFFSET ch).off) false).w } ∧
      bitOf (t.rd pgSD Reg.SD.WARN_ACT_CH) ch =
        decide ((s.rd pgSD (Reg.SD.WARN_WARN ch) * 2 ^ 64 : Nat) ≤ 32768 * fpFixed (fpAbs v)) ∧
      (∀ h, h ≠ sdHandle ch → t.sample h = s.sample h) ∧
      Changes [.samples, .coll] [fieldKey pgSD Reg.SD.WARN_ACT_CH] s t)
  ∧ (∀ (s : State) (ch : Fin 12), s.sdOn ch = true → bitOf (s.rd pgSD Reg.SD.STUCK_CH) ch = false → s.coll.stopped = false →
    ∃ t, exec (.sdStuck ch) s = .next t ∧ bitOf (t.rd pgSD Reg.SD.STUCK_CH) ch = true ∧
      (t.sample (sdHandle ch)).valid = false ∧ ReportedAt t .u 0x67 pgSD ch (some s.now) ∧
      (s.rdB pgSD (Reg.SD.CFG_OC_EN ch) = false → Changes [.samples, .coll] [fieldKey pgSD Reg.SD.STUCK_CH] s t) ∧
      (s.rdB pgSD (Reg.SD.CFG_OC_EN ch) = true → bitOf (t.rd pgSD Reg.SD.OC_HIT_CH) ch = true))
  ∧ (∀ (s : State) (ch : Fin 12) (hard : Bool), s.rdB pgSD (Reg.SD.CFG_OC_EN ch) = true → s.rdB pgSD (Reg.SD.CFG_EN ch) = true →
    s.coll.stopped = false →
    ∃ t, exec (.fastPathDetection ch hard) s = .next t ∧ bitOf (t.rd pgSD Reg.SD.OC_HIT_CH) ch = true ∧
      t.rd pgSD Reg.SD.OC_AT_L_STAMP = s.now % 2 ^ 32 ∧ t.rd pgSD Reg.SD.OC_AT_H_STAMP = s.now / 2 ^ 32 % 2 ^ 32 ∧
      (s.fastLegs ch ≠ [] → ReportedAt t .u 0x68 pgSD ch (some s.now) ∧
        ∀ p, p ∈ s.fastLegs ch → t.latched p = true ∧ t.rd p Reg.XH.CH_STAT_PROT = 6) ∧
      (s.fastLegs ch ≠ [] → hard = true → ReportedAt t .f 0x69 pgSD ch (some s.now) ∧ t.stoOpen = true) ∧
      (s.fastLegs ch = [] → Changes [] [fieldKey pgSD Reg.SD.OC_HIT_CH, fieldKey pgSD Reg.SD.OC_AT_L_STAMP,
        fieldKey pgSD Reg.SD.OC_AT_H_STAMP] s t))
  ∧ (∀ (s : State) (ch : Fin 12) (hard : Bool),
    (s.rdB pgSD (Reg.SD.CFG_OC_EN ch) = false ∨ s.rdB pgSD (Reg.SD.CFG_EN ch) = false) →
    exec (.fastPathDetection ch hard) s = .next s)
  ∧ (∀ (s : State) (n : Fin 2) (angle : Fin 65536) (speed amp err : Word) (phase : Nat), s.rdB (pgRD n) Reg.RD.CFG_EN = true →
    s.rdB (pgRD n) Reg.RD.HEALTH_LOS = false → (s.rd (pgRD n) Reg.RD.LOS_AMP_MIN : Int) * 2 ^ 64 ≤ 100 * fpFixed amp →
    100 * fpFixed amp ≤ (s.rd (pgRD n) Reg.RD.LOS_AMP_MAX : Int) * 2 ^ 64 →
    ∃ t, exec (.resolverDemodulation n angle speed phase amp err) s = .next t ∧ t.rd (pgRD n) Reg.RD.ANGLE_ANGLE = angle ∧
      t.word (pgRD n) Reg.RD.SPEED_RAD_S.off = speed ∧ t.word (pgRD n) Reg.RD.AMP_A.off = amp ∧
      (t.sample (rdSpeedHandle n)).value = speed ∧ (t.sample (rdSpeedHandle n)).stamp = s.now ∧
      (t.sample (rdSpeedHandle n)).prd = false ∧ (t.sample (rdAngleHandle n)).stamp = s.now ∧
      (t.sample (rdAngleHandle n)).value = angleWord (angle.val * (2 * fixPi) / 65536
        - fpFixed (s.word (pgRD n) Reg.RD.OFFSET_RAD.off)))
  ∧ (∀ (s : State) (n : Fin 2) (angle : Fin 65536) (speed amp err : Word) (phase : Nat), s.rdB (pgRD n) Reg.RD.CFG_EN = true →
    s.rdB (pgRD n) Reg.RD.HEALTH_LOS = false → fpIsNaN amp = false →
    100 * fpFixed amp < (s.rd (pgRD n) Reg.RD.LOS_AMP_MIN : Int) * 2 ^ 64 → 3 ≤ (s.resolver n).losN →
    s.coll.stopped = false →
    ∃ t, exec (.resolverDemodulation n angle speed phase amp err) s = .next t ∧
      t.rdB (pgRD n) Reg.RD.HEALTH_LOS = true ∧ t.rdB (pgRD n) Reg.RD.HEALTH_LOCKED = false ∧ Reported t .u 0x6B (pgRD n) ∧
      t.word (pgRD n) Reg.RD.SPEED_RAD_S.off = s.word (pgRD n) Reg.RD.SPEED_RAD_S.off ∧
      (t.sample (rdAngleHandle n)).prd = true ∧ (t.sample (rdAngleHandle n)).skp = true)
  ∧ (∀ (s : State) (a b : Bool), s.rdB pgENC Reg.ENC.CFG_EN = true → (s.enc.a ≠ a ↔ s.enc.b = b) →
    ∃ t, exec (.encoderEdge a b s.enc.z) s = .next t ∧
      t.word pgENC Reg.ENC.COUNT_COUNT.off = s.word pgENC Reg.ENC.COUNT_COUNT.off +
        (if (if s.enc.a ≠ a then a != b else a == b) != s.rdB pgENC Reg.ENC.CFG_INV then 1 else -1) ∧
      t.rdB pgENC Reg.ENC.ESTAT_DIR = !((if s.enc.a ≠ a then a != b else a == b) != s.rdB pgENC Reg.ENC.CFG_INV) ∧
      t.enc.a = a ∧ t.enc.b = b ∧ (t.sample encCountHandle).value = t.word pgENC Reg.ENC.COUNT_COUNT.off ∧
      (t.sample encCountHandle).stamp = s.now - s.rd pgENC Reg.ENC.CFG_FILT ∧ t.coll = s.coll)
  ∧ (∀ (s : State) (a b z : Bool), s.rdB pgENC Reg.ENC.CFG_EN = true → s.enc.a ≠ a → s.enc.b ≠ b →
    s.rd pgENC Reg.ENC.INV_CNT_COUNT < 0xFFFE → s.coll.stopped = false →
    ∃ t, exec (.encoderEdge a b z) s = .next t ∧ t.rdB pgENC Reg.ENC.ESTAT_INVALID = true ∧
      t.rd pgENC Reg.ENC.INV_CNT_COUNT = s.rd pgENC Reg.ENC.INV_CNT_COUNT + 1 ∧
      t.word pgENC Reg.ENC.COUNT_COUNT.off = s.word pgENC Reg.ENC.COUNT_COUNT.off ∧
      (s.rdB pgENC Reg.ENC.ESTAT_INVALID = false → Reported t .u 0x6E pgENC))
  ∧ (∀ (s : State), ∀ e, s.enc.edges.head? = some e → s.passed e.1 (msTicks (s.rd pgENC Reg.ENC.SPD_ZERO_MS)) = true →
    ∃ t, exec .encoderZeroSpeed s = .next t ∧ (t.sample encSpeedHandle).value = 0 ∧ Touches [.samples] s t ∧
      ∀ h, h ≠ encSpeedHandle → t.sample h = s.sample h)

/-- Voting in triple mode: a write waits for a second core that presents the same, is then issued once, the third core's is
compared and discarded, and a core whose write differs, or lags, is masked and tested (R308 to R310, R334). Where the spec leaves a point open, the model's
choice stands in log entry 88. -/
def Obligations.VotedWrites : Prop :=
  (∀ (s : State) (core : Fin 3) (a : BitVec 32) (be : Nat) (w : Word), s.compat = false → s.broke = false →
    s.sup.voting = [0, 1, 2] → s.sup.queue = [] → s.sup.invert = [] → s.sup.history = [] → s.sup.issued ≤ s.sup.sent.getD core 0 →
    core.val < s.sup.sent.length →
    ∃ t, exec (.votedWrite core a 4 be w) s = .next t ∧ Touches [.sup] s t ∧ t.sup.issued = s.sup.issued ∧
      t.sup.queue = [⟨core, s.sup.sent.getD core 0, ⟨a.toNat, 4, be, w⟩, s.now, false⟩] ∧
      t.sup.sent.getD core 0 = s.sup.sent.getD core 0 + 1)
  ∧ (∀ (s : State) (core : Fin 3) (a : BitVec 32) (w : Word) (e : Presented) (b : Nat), s.compat = false → s.broke = false →
    s.sup.voting = [0, 1, 2] → s.sup.queue = [e] → s.sup.invert = [] → e.core < 3 → e.core ≠ core.val →
    e.num = s.sup.issued → s.sup.sent.getD core 0 = s.sup.issued → e.w = ⟨a.toNat, 4, 15, w⟩ →
    regionOf a.toNat = some (.shared b) → s.sluicesClosed (regionPolder (.shared b)) = false → s.originOf a.toNat = none →
    ∃ t, exec (.votedWrite core a 4 15 w) s = .next t ∧ Touches [.sup, .mem, .chk] s t ∧ t.mword a.toNat = w ∧
      OnlyBytes a.toNat 4 s t ∧ t.sup.issued = s.sup.issued + 1 ∧ t.sup.queue = [] ∧ t.sup.voting = [0, 1, 2])
  ∧ (∀ (s : State) (core : Fin 3) (a : BitVec 32) (be : Nat) (w : Word) (h : Presented), s.compat = false → s.broke = false →
    s.sup.voting = [0, 1, 2] → s.sup.queue = [] → s.sup.invert = [] → s.sup.history = [h] →
    s.sup.sent.getD core 0 = h.num → h.num < s.sup.issued →
    (h.w = ⟨a.toNat, 4, be, w⟩ → ∃ t, exec (.votedWrite core a 4 be w) s = .next t ∧ Touches [.sup] s t ∧
      t.sup.history = [] ∧ t.sup.issued = s.sup.issued ∧ t.sup.queue = []) ∧
    (h.w ≠ ⟨a.toNat, 4, be, w⟩ → s.coll.stopped = false → 2 ≤ s.rd pgSUP Reg.SUP.VOTE_RETRY_LIM → s.sup.minorAt = [] →
      ∃ t, exec (.votedWrite core a 4 be w) s = .next t ∧ t.sup.voting = [0, 1, 2].filter (· ≠ core.val) ∧
        t.rd pgSUP Reg.SUP.STAT_MINORITY = core ∧ t.supMode = 1 ∧ ReportedAt t .c 0x80 pgSUP (core.val * 16 + 1) none ∧
        (t.polder (pdCore core)).st = .testing ∧ t.mem = s.mem))
  ∧ (∀ (s : State) (core : Fin 3) (a : BitVec 32) (size be : Nat) (w : Word), s.compat = false → s.broke = false →
    s.sup.voting.contains core.val = false → exec (.votedWrite core a size be w) s = .next s)
  ∧ (∀ (s : State) (core : Fin 3), s.sup.halted = false → s.sup.voting = [0, 1, 2] → s.sup.queue = [] → s.sup.access = [] →
    s.lagged (s.writeStamps core) = true → s.coll.stopped = false → 2 ≤ s.rd pgSUP Reg.SUP.VOTE_RETRY_LIM → s.sup.minorAt = [] →
    ∃ t, exec (.voteLagTimeout core) s = .next t ∧ t.sup.voting = [0, 1, 2].filter (· ≠ core.val) ∧
      t.rd pgSUP Reg.SUP.STAT_MINORITY = core ∧ t.supMode = 1 ∧ ReportedAt t .c 0x80 pgSUP (core.val * 16 + 2) none ∧
      (t.polder (pdCore core)).st = .testing ∧
      t.rd pgSUP Reg.SUP.MINOR_CNT_COUNT = counted (s.rd pgSUP Reg.SUP.MINOR_CNT_COUNT))
  ∧ (∀ (s : State) (core : Fin 3), s.lagged (s.writeStamps core) = false → s.lagged (s.accessStamps core) = false →
    s.lagged (s.digestStamps core) = false → exec (.voteLagTimeout core) s = .next s)

/-- The digests, the agreement port and the end of a resynchronisation (R310, R312, R314, R315, R504). Where the spec leaves a point open, the model's
choice stands in log entries 57 and 88. -/
def Obligations.AgreementAndDigests : Prop :=
  (∀ (s : State) (core : Fin 3) (v : BitVec 64) (d1 d2 : Digest), s.compat = false → s.sup.voting = [0, 1, 2] →
    s.sup.digests = [d1, d2] → d1.core ≠ core.val → d2.core ≠ core.val → d1.value = v → d2.value = v →
    ∃ t, exec (.stateDigest core v) s = .next t ∧ t.sup = { s.sup with digests := [] } ∧ Touches [.sup] s t)
  ∧ (∀ (s : State) (core : Fin 3) (v : BitVec 64) (d1 d2 : Digest), s.compat = false → s.sup.voting = [0, 1, 2] →
    s.sup.digests = [d1, d2] → d1.core ≠ core.val → d2.core ≠ core.val → d1.value = d2.value → d1.value ≠ v →
    s.coll.stopped = false → 2 ≤ s.rd pgSUP Reg.SUP.VOTE_RETRY_LIM → s.sup.minorAt = [] →
    ∃ t, exec (.stateDigest core v) s = .next t ∧ t.sup.voting = [0, 1, 2].filter (· ≠ core.val) ∧
      ReportedAt t .c 0x81 pgSUP core none ∧ t.supMode = 1 ∧ t.rd pgSUP Reg.SUP.STAT_MINORITY = core)
  ∧ (∀ (s : State) (core : Fin 3) (v : BitVec 64) (d : Digest), s.compat = false → s.sup.voting.length = 2 →
    s.sup.voting.contains core.val = true → s.sup.digests = [d] → d.core ≠ core.val → d.value ≠ v → s.coll.stopped = false →
    ∃ t, exec (.stateDigest core v) s = .next t ∧ Reported t .f 0x83 pgSUP ∧ t.supMode = 3 ∧ t.stoFullyOpen = true ∧
      t.sup.voting = [])
  ∧ (∀ (s : State) (core : Fin 3) (a : BitVec 32) (w : Word), s.compat = false → s.broke = false → isAgreement a.toNat = true →
    s.sup.voting = [0, 1, 2] → s.sup.access = [] →
    ∃ t, exec (.agreementAccess core a w) s = .next t ∧ Touches [.sup] s t ∧
      t.sup = { s.sup with access := [⟨core, a.toNat, w, s.now⟩] })
  ∧ (∀ (s : State) (core : Fin 3) (w : Word) (x y : AgrAccess), s.compat = false → s.broke = false →
    s.sup.voting = [0, 1, 2] → s.sup.access = [x, y] → x.core ≠ core.val → y.core ≠ core.val →
    (x.addr = 0x60000130 + pgSUP * 0x1000 → y.addr = x.addr →
      ∃ t, exec (.agreementAccess core (BitVec.ofNat 32 (0x60000130 + pgSUP * 0x1000)) w) s = .next t ∧
        t.answer = s.word pgSUP 0x130 ∧ t.word pgSUP 0x130 = 0 ∧ t.sup = { s.sup with access := [] } ∧
        Touches [.sup, .regs, .pushes, .answer] s t ∧ OnlyWords [regKey pgSUP 0x130] s t) ∧
    (x.addr = 0x60000120 + pgSUP * 0x1000 → y.addr = x.addr →
      ∃ t, exec (.agreementAccess core (BitVec.ofNat 32 (0x60000120 + pgSUP * 0x1000)) w) s = .next t ∧
        t.answer = (x.sample &&& y.sample) ||| (x.sample &&& w) ||| (y.sample &&& w) ∧ t.word pgSUP 0x120 = t.answer ∧
        t.word pgSUP 0x128 = s.word pgSUP 0x128 ||| ((x.sample ^^^ y.sample) ||| (x.sample ^^^ w)) ∧ t.coll = s.coll))
  ∧ (∀ (s : State) (core : Fin 3) (a b : Nat), s.sup.voting = [a, b] → s.sup.resync.contains core.val = true → s.sup.queue = [] →
    a < 3 → s.coll.stopped = false →
    ∃ t, exec (.resyncComplete core) s = .next t ∧ (∀ c, c ∈ t.sup.voting ↔ c = a ∨ c = b ∨ c = core.val) ∧ t.supMode = 0 ∧
      t.rd pgSUP Reg.SUP.STAT_MINORITY = 3 ∧ t.rdB pgSUP Reg.SUP.STAT_DEGRADED = false ∧
      ReportedAt t .c 0x82 pgSUP core none ∧
      (∀ k, k < 0x80000 → t.byte (spmBase core + k) = s.byte (spmBase a + k)))
  ∧ (∀ (s : State) (core : Fin 3), s.sup.resync.contains core.val = false → exec (.resyncComplete core) s = .next s)

/-- Lockstep mismatch and recovery in compat mode (R313, R317, R318). Where the spec leaves a point open, the model's
choice stands in log entries 54 and 90. -/
def Obligations.LockstepRecovery : Prop :=
  (∀ (s : State), s.compat = true → s.supMode = 2 → s.sup.recovery = none → s.coll.stopped = false →
    ∃ t, exec .lockstepMismatch s = .next t ∧ t.sup.recovery = some s.now ∧ t.rdB pgSUP Reg.SUP.STAT_RECOVERY = true ∧
      t.wd.suspended = true ∧ t.supRuns = false ∧ Reported t .u 0x84 pgSUP ∧
      (t.polder (pdCore 0)).st = .testing ∧ (t.polder (pdCore 1)).st = .testing)
  ∧ (∀ (s : State), s.compat = false → exec .lockstepMismatch s = .next s)
  ∧ (∀ (s : State) (seq : Nat), s.sup.recovery.isSome = true → s.inService (pdCore 0) = true → s.inService (pdCore 1) = true →
    s.heartbeatValid seq = true →
    ∃ t, exec (.lockstepRecoveryComplete seq) s = .next t ∧ t.sup.recovery = none ∧
      t.rdB pgSUP Reg.SUP.STAT_RECOVERY = false ∧ t.wd.suspended = false ∧ t.wd.armed = true ∧ t.wd.lastAt = s.now ∧
      t.rd pgDIKE Reg.DIKE.HB_SEQ = seq % 2 ^ 16 ∧ (t.polder (pdCore 0)).st = .running ∧ (t.polder (pdCore 1)).st = .running)
  ∧ (∀ (s : State) (at_ : Nat), s.sup.recovery = some at_ → s.passedRc at_ 774400 = true → s.coll.stopped = false →
    ∃ t, exec .lockstepRecoveryTimeout s = .next t ∧ t.sup.recovery = none ∧ t.supMode = 3 ∧ Reported t .f 0x85 pgSUP ∧
      t.stoFullyOpen = true ∧ t.rdB pgSUP Reg.SUP.STAT_RECOVERY = false)
  ∧ (∀ (s : State), s.sup.recovery = none → exec .lockstepRecoveryTimeout s = .next s)

/-- Debug halts and memory accesses by a debugger, the Break policy, and the application cores' drain and release (R320, R321,
R463, R505). Where the spec leaves a point open, the model's
choice stands in log entries 56 and 81. -/
def Obligations.DebuggerAndApplicationCores : Prop :=
  (∀ (s : State), s.mayDebug 0 = true → s.rd pgSUP Reg.SUP.DBG_POLICY_POLICY = 0 →
    ∃ t, exec (.debugHalt 0) s = .next t ∧ t.sup = { s.sup with halted := true } ∧ Touches [.sup] s t)
  ∧ (∀ (s : State) (m : Fin 5), 3 ≤ m.val → s.mayDebug m = true →
    ∃ t, exec (.debugHalt m) s = .next t ∧ (∀ k, k ∈ t.dbg.appHalted ↔ k = m.val ∨ k ∈ s.dbg.appHalted) ∧ Touches [.dbg] s t)
  ∧ (∀ (s : State) (m : Fin 5), s.mayDebug m = false → exec (.debugHalt m) s = .next s)
  ∧ (∀ (s : State), s.broke = false → s.coll.stopped = false →
    ∃ t, exec .debugBreak s = .next t ∧ t.broke = true ∧ t.supMode = 3 ∧ t.sup.voting = [] ∧ Reported t .u 0x86 pgSUP ∧
      (∀ st, st < 4 → t.stageOff st = true))
  ∧ (∀ (s : State), s.broke = true → exec .debugBreak s = .next s)
  ∧ (∀ (s : State) (m : Fin 5) (write : Bool) (a : BitVec 32) (size : Nat) (w : Word), s.moduleReach m = true →
    bitOf (s.rd pgDBG Reg.DBG.STAT_SESS) m = true → s.debugLevel = 1 →
    (∃ t, exec (.debugAbstractCommand m false write a size w) s = .next t ∧ Touches [.dbg] s t ∧
      tabGet (fun _ => 0) t.dbg.cmderr m = 4) ∧
    exec (.debugAbstractCommand m true true a size w) s = .next s)
  ∧ (∀ (s : State) (m : Fin 5) (a : BitVec 32) (w : Word) (b : Nat), 3 ≤ m.val → s.moduleReach m = true →
    bitOf (s.rd pgDBG Reg.DBG.STAT_SESS) m = true → s.debugLevel = 2 → regionOf a.toNat = some (.appSram b) →
    s.sluicesClosed (regionPolder (.appSram b)) = false → s.originOf a.toNat = none →
    ∃ t, exec (.debugAbstractCommand m true true a 4 w) s = .next t ∧ Touches [.mem, .chk] s t ∧ t.mword a.toNat = w ∧
      OnlyBytes a.toNat 4 s t)
  ∧ (∀ (s : State) (core : Fin 3), (core.val < 2 ∨ s.compat = true) →
    ∃ t, exec (.appDrainRequest core) s = .next t ∧ bitOf (t.rd pgSUP Reg.SUP.APP_PEND_PEND) core = true ∧
      bitOf (t.rd pgSUP Reg.SUP.AGR_EVT_EVT) 6 = true ∧
      Changes [] [fieldKey pgSUP Reg.SUP.APP_PEND_PEND, fieldKey pgSUP Reg.SUP.AGR_EVT_EVT] s t)
  ∧ (∀ (s : State), s.supRuns = true → s.compat = false → s.polderSt 0x13 = .running → (s.polder 0x13).drain = false →
    s.polderSt 0x14 = .running →
    ∃ t, exec (.appCoreDrain 1 0) s = .next t ∧ t.drainQ = s.drainQ ++ [0x13] ∧ (t.polder 0x13).drain = true ∧
      (t.polder 0x13).st = .running ∧ bitOf (t.rd pgSUP Reg.SUP.APP_PEND_PEND) 1 = false)
  ∧ (∀ (s : State), s.supRuns = true → s.compat = false → s.polderSt 0x13 = .running → s.polderSt 0x14 = .ready →
    ∃ t, exec (.appCoreRelease 0 2) s = .next t ∧ (t.polder 0x14).st = .running ∧ (t.polder 0x14).busy = true ∧
      (∀ q, q ≠ 0x14 → t.polder q = s.polder q))
  ∧ (∀ (s : State) (drain release : Fin 8), s.supRuns = false →
    exec (.appCoreDrain drain release) s = .next s ∧ exec (.appCoreRelease drain release) s = .next s)

/-- The heartbeat, its warning and its loss, and the watchdogs of the application cores (R322, R371, R373, R468, R504). Where the spec leaves a point open, the model's
choice stands in log entry 102. -/
def Obligations.HeartbeatAndWatchdogs : Prop :=
  (∀ (s : State) (seq : BitVec 32), s.supRuns = true → s.sup.halted = false → s.wd.discard = false →
    seq.toNat % 2 ^ 16 = (s.rd pgDIKE Reg.DIKE.HB_SEQ + 1) % 2 ^ 16 →
    ∃ t, exec (.heartbeatWrite seq) s = .next t ∧ t.rd pgDIKE Reg.DIKE.HB_SEQ = seq.toNat % 2 ^ 16 ∧
      t.rd pgDIKE Reg.DIKE.HB_AT_L_STAMP = s.now % 2 ^ 32 ∧
      t.wd = { s.wd with armed := true, lastAt := s.now, warn := false, lost := false, suspended := false } ∧
      t.powerState = (if s.wd.armed = false ∧ s.powerState = 4 then 1 else s.powerState))
  ∧ (∀ (s : State) (seq : BitVec 32), seq.toNat % 2 ^ 16 ≠ (s.rd pgDIKE Reg.DIKE.HB_SEQ + 1) % 2 ^ 16 →
    exec (.heartbeatWrite seq) s = .next s)
  ∧ (∀ (s : State), s.wd.armed = true → s.wd.suspended = false → s.wd.warn = false → s.wd.lost = false →
    s.passedRc s.wd.lastAt 19200 = true →
    ∃ t, exec .heartbeatWarn s = .next t ∧ t.wd = { s.wd with warn := true } ∧ bitOf (t.rd pgSUP Reg.SUP.AGR_EVT_EVT) 3 = true ∧
      Changes [.wd] [fieldKey pgSUP Reg.SUP.AGR_EVT_EVT] s t)
  ∧ (∀ (s : State), s.wd.armed = true → s.wd.suspended = false → s.wd.lost = false → s.passedRc s.wd.lastAt 28800 = true →
    s.coll.stopped = false →
    ∃ t, exec .heartbeatLoss s = .next t ∧ t.wd.lost = true ∧ t.wd.lostAt = s.now ∧
      ReportedAt t .f 0x88 pgDIKE 0 (some s.now) ∧ t.stoFullyOpen = true ∧
      t.wd.resetDue = (s.wd.resetDue || s.rdB pgDIKE Reg.DIKE.WD_AUTO_RST))
  ∧ (∀ (s : State), (s.wd.armed = false ∨ s.wd.suspended = true) →
    exec .heartbeatWarn s = .next s ∧ exec .heartbeatLoss s = .next s)
  ∧ (∀ (s : State) (core : Fin 3), s.appWatched core = true → core.val < s.wd.appFrom.length → core.val < s.wd.appExpired.length →
    ∃ t, exec (.appKick core) s = .next t ∧ t.wd.appFrom.getD core 0 = s.now + 1 ∧ t.wd.appExpired.getD core false = false ∧
      Touches [.wd] s t)
  ∧ (∀ (s : State) (core : Fin 3), s.appWatched core = false → exec (.appKick core) s = .next s ∧ exec (.appWatchdogExpiry core) s = .next s)
  ∧ (∀ (s : State) (core : Fin 3), s.appWatched core = true → s.wd.appFrom.getD core 0 ≠ 0 → s.wd.appExpired.getD core false = false →
    core.val < s.wd.appExpired.length →
    s.passedRc (s.wd.appFrom.getD core 0 - 1) (320000 * clampNat 1 1000 (s.rd pgDIKE Reg.DIKE.APP_WD_MS)) = true →
    s.coll.stopped = false →
    ∃ t, exec (.appWatchdogExpiry core) s = .next t ∧ ReportedAt t .u 0xE1 pgDIKE core (some s.now) ∧
      t.wd.appExpired.getD core false = true)

/-- Safe torque off opens for a cause, by command and by the Dike, and closes in two steps while every condition holds (R324,
R325). Where the spec leaves a point open, the model's
choice stands in log entry 79. -/
def Obligations.SafeTorqueOff : Prop :=
  (∀ (s : State) (cause : Fin 8), s.stoFullyOpen = false → s.coll.stopped = false →
    ∃ t, exec (.stoOpen cause) s = .next t ∧ t.stoFullyOpen = true ∧ t.rdB pgSAF Reg.SAF.STO_STAT_IHS_OPEN = true ∧
      t.rdB pgSAF Reg.SAF.STO_STAT_ILS_OPEN = true ∧ t.rd pgSAF Reg.SAF.STO_STAT_CAUSE = cause ∧
      t.rd pgSAF Reg.SAF.STO_AT_L_STAMP = s.now % 2 ^ 32 ∧ t.rd pgSAF Reg.SAF.STO_AT_H_STAMP = s.now / 2 ^ 32 % 2 ^ 32 ∧
      t.sto.closing = none ∧ t.sto.test = none ∧ ReportedAt t .u 0x89 pgSAF cause (some s.now) ∧
      (s.sto.test.isSome = true → ReportedAt t .c 0x8F pgSAF 0 (some s.now)))
  ∧ (∀ (s : State), s.stoFullyOpen = false → s.coll.stopped = false →
    ∃ t, exec .stoOpenCommand s = .next t ∧ t.stoFullyOpen = true ∧ t.rd pgSAF Reg.SAF.STO_STAT_CAUSE = 6 ∧
      ReportedAt t .u 0x89 pgSAF 6 (some s.now))
  ∧ (∀ (s : State), s.stoFullyOpen = true → s.rd pgSAF Reg.SAF.STO_STAT_CAUSE ≤ 6 → exec .stoOpenCommand s = .next s)
  ∧ (∀ (s : State), s.stoOpen = true → s.sto.closing = none → s.mayClose = true →
    ∃ t, exec .stoCloseCommand s = .next t ∧ t.sto.closing = some s.now ∧ t.rdB pgSAF Reg.SAF.STO_STAT_HS_OPEN = true ∧
      t.rdB pgSAF Reg.SAF.STO_STAT_LS_OPEN = false ∧ t.stoOpen = true ∧
      Changes [.sto] [fieldKey pgSAF Reg.SAF.STO_STAT_HS_OPEN] s t)
  ∧ (∀ (s : State), s.stoOpen = true → s.sto.closing = none → s.mayClose = false → s.coll.stopped = false →
    ∃ t, exec .stoCloseCommand s = .next t ∧ Reported t .c 0x92 pgSAF ∧ Touches [.coll] s t)
  ∧ (∀ (s : State), (s.stoOpen = false ∨ s.sto.closing.isSome = true) → exec .stoCloseCommand s = .next s)
  ∧ (∀ (s : State), (s.causeActive = true ∨ s.supMode = 3 ∨ s.wd.armed = false ∨ s.wd.lost = true ∨ s.tp.rcFailed = true) →
    s.mayClose = false)
  ∧ (∀ (s : State) (at_ : Nat), s.sto.closing = some at_ → s.passedRc at_ 3200 = true →
    ∃ t, exec .stoHsClose s = .next t ∧ t.stoOpen = false ∧ t.rdB pgSAF Reg.SAF.STO_STAT_HS_OPEN = false ∧
      t.rdB pgSAF Reg.SAF.STO_STAT_LS_OPEN = false ∧ t.sto.closing = none ∧ t.sto.closedAt = s.now ∧ t.sto.tests = [0, 0, 0, 0])
  ∧ (∀ (s : State), s.sto.closing = none → exec .stoHsClose s = .next s)

/-- The readback of the switches and the test pulses of the four paths (R323, R326). -/
def Obligations.StoReadbackAndTests : Prop :=
  (∀ (s : State) (band : Fin 4), s.sto.test = none →
    s.passed s.sto.changedAt (320 * clampNat 10 200 (s.rd pgSAF Reg.SAF.STO_CHK_SETTLE)) = true → band.val = s.requiredBand →
    ∃ t, exec (.stoReadbackCheck band) s = .next t ∧ t.rd pgSAF Reg.SAF.STO_STAT_BAND = band ∧
      t.sto = { s.sto with badReads := 0, excursion := false } ∧ Changes [.sto] [fieldKey pgSAF Reg.SAF.STO_STAT_BAND] s t)
  ∧ (∀ (s : State) (band : Fin 4), s.sto.test = none →
    s.passed s.sto.changedAt (320 * clampNat 10 200 (s.rd pgSAF Reg.SAF.STO_CHK_SETTLE)) = true → band.val ≠ s.requiredBand →
    s.sto.badReads = 0 →
    ∃ t, exec (.stoReadbackCheck band) s = .next t ∧ t.sto = { s.sto with badReads := 1 } ∧ t.coll = s.coll)
  ∧ (∀ (s : State) (band : Fin 4), s.sto.test = none →
    s.passed s.sto.changedAt (320 * clampNat 10 200 (s.rd pgSAF Reg.SAF.STO_CHK_SETTLE)) = true → band.val ≠ s.requiredBand →
    s.sto.badReads ≠ 0 → s.sto.excursion = false → s.coll.stopped = false →
    ∃ t, exec (.stoReadbackCheck band) s = .next t ∧ ReportedAt t .f 0x8B pgSAF band (some s.now) ∧ t.stoFullyOpen = true ∧
      t.sto.excursion = true)
  ∧ (∀ (s : State) (path : Fin 4), path ≠ 0 → s.stoOpen = false → s.sto.test = none →
    s.passedRc s.sto.closedAt (s.testAfter path) = true →
    ∃ t, exec (.stoTestPulse path) s = .next t ∧ t.rdB pgSAF (pathField path) = true ∧ t.stoOpen = false ∧
      t.rdB pgSAF Reg.SAF.STO_STAT_TEST_ACT = true ∧ t.rd pgSAF Reg.SAF.STO_STAT_TEST_SW = path ∧
      t.sto.test = some (path.val, s.now) ∧ Changes [.sto] [fieldKey pgSAF Reg.SAF.STO_STAT_OPEN] s t)
  ∧ (∀ (s : State) (path : Fin 4), s.stoOpen = true → exec (.stoTestPulse path) s = .next s)
  ∧ (∀ (s : State), ∀ x, s.sto.test = some x → 1 ≤ x.1 → x.1 ≤ 4 → s.passedRc x.2 (s.pulseWidth x.1) = true →
    (∃ t, exec (.stoTestPulseEnd true true) s = .next t ∧ t.rdB pgSAF (pathField x.1) = false ∧ t.sto.test = none ∧
      t.rdB pgSAF Reg.SAF.STO_STAT_TEST_ACT = false ∧
      t.rd pgSAF Reg.SAF.TP_CNT_COUNT = counted (s.rd pgSAF Reg.SAF.TP_CNT_COUNT)) ∧
    (∀ opened reclosed, (opened && reclosed) = false → s.coll.stopped = false →
      ∃ t, exec (.stoTestPulseEnd opened reclosed) s = .next t ∧ ReportedAt t .f 0x8A pgSAF x.1 (some s.now) ∧
        t.stoFullyOpen = true ∧ t.sto.test = none))

/-- Safe stop demands, the plausibility checks with their reactions and a hook over its limit (R328 to R330). Where the spec leaves a point open, the model's
choice stands in log entry 89. -/
def Obligations.SafeStopsAndChecks : Prop :=
  (∀ (s : State) (stage : Fin 2), 2 ≤ s.mode stage → s.mode stage ≤ 4 →
    ∃ t, exec (.safeStopDemand stage) s = .next t ∧ t.mode stage = 7 ∧ t.rd pgSAF (ssResultField stage) = 1 ∧
      (t.stage stage).t0 = s.now ∧ (t.stage stage).n0 = fpAbs (s.rpm stage))
  ∧ (∀ (s : State) (stage : Fin 2), (s.mode stage = 0 ∨ 5 ≤ s.mode stage) →
    ∃ t, exec (.safeStopDemand stage) s = .next t ∧ t.rd pgSAF (ssResultField stage) = 5 ∧ t.mode stage = s.mode stage ∧
      Changes [] [fieldKey pgSAF (ssResultField stage)] s t)
  ∧ (∀ (s : State) (stage : Fin 10), s.stageOff stage = false → s.supRuns = true → stage.val < 2 → s.coll.stopped = false →
    bitsAt (s.word pgSAF Reg.SAF.PLAUS_REACT_REACT.off) 4 2 = 0 →
    ∃ t, exec (.plausibilityCheck stage 4) s = .next t ∧ Reported t .u 0x90 pgSAF ∧ t.sto = s.sto ∧ t.stages = s.stages)
  ∧ (∀ (s : State) (stage : Fin 10), s.stageOff stage = false → s.supRuns = true → s.coll.stopped = false →
    bitsAt (s.word pgSAF Reg.SAF.PLAUS_REACT_REACT.off) 4 2 = 2 → s.stoFullyOpen = false →
    ∃ t, exec (.plausibilityCheck stage 4) s = .next t ∧ Reported t .u 0x90 pgSAF ∧ t.stoFullyOpen = true ∧
      t.rd pgSAF Reg.SAF.STO_STAT_CAUSE = 6)
  ∧ (∀ (s : State) (stage : Fin 10) (bad : Nat), (s.stageOff stage = true ∨ s.supRuns = false) →
    exec (.plausibilityCheck stage bad) s = .next s)
  ∧ (∀ (s : State), s.sup.hookOff = false → s.coll.stopped = false →
    ∃ t, exec .hookTimeLimit s = .next t ∧ t.sup = { s.sup with hookOff := true } ∧ Reported t .u 0x91 pgSAF ∧
      Touches [.coll, .sup] s t)

/-- Accesses to addressed memory (R334, R337 to R343, R346): a passing line is read and written, a protected or failing one answers as
its region says. Where the spec leaves a point open, the model's
choice stands in log entries 20, 21 and 50. -/
def Obligations.MemoryAccesses : Prop :=
  (∀ (s : State) (m : Master) (addr data : BitVec 32) (size : Nat), (size = 1 ∨ size = 2 ∨ size = 4) → s.masterRuns m = true →
    accessIssues m false addr.toNat = true → isPage addr.toNat = false → ∀ k, s.keyFor m addr.toNat = some k →
    s.meetsClosed m k = none → ∀ r, regionOf k = some r → r ≠ .exchange → (∀ b, r ≠ .mram b) → s.unitBad k = false →
    ∃ t, exec (.coreMemoryAccess m false addr size data [] []) s = .next t ∧
      t.answer = s.mword k &&& BitVec.ofNat 32 (2 ^ (8 * size) - 1) ∧ Touches [.answer, .chk] s t)
  ∧ (∀ (s : State) (m : Master) (addr data : BitVec 32) (size : Nat), (size = 1 ∨ size = 2 ∨ size = 4) → s.masterRuns m = true →
    accessIssues m true addr.toNat = true → isPage addr.toNat = false → ∀ k, s.keyFor m addr.toNat = some k →
    s.meetsClosed m k = none → s.originOf k = none →
    (∃ b, regionOf k = some (.spm b) ∨ regionOf k = some (.shared b) ∨ regionOf k = some (.appSram b)) →
    ∃ t, exec (.coreMemoryAccess m true addr size data [] []) s = .next t ∧
      (∀ i, i < size → t.byte (k + i) = byteOfWord data i) ∧ OnlyBytes k size s t ∧ Touches [.mem, .chk] s t)
  ∧ (∀ (s : State) (m : Master) (addr data : BitVec 32) (size : Nat), (size = 1 ∨ size = 2 ∨ size = 4) → s.masterRuns m = true →
    accessIssues m true addr.toNat = true → isPage addr.toNat = false → ∀ k, s.keyFor m addr.toNat = some k →
    s.meetsClosed m k = none → (s.originOf k).isSome = true → s.coll.stopped = false →
    ∃ t, exec (.coreMemoryAccess m true addr size data [] []) s = .next t ∧ t.mem = s.mem ∧ Reported t .u 0xA8 pgMEM ∧
      Touches [.coll] s t)
  ∧ (∀ (s : State) (m : Master) (addr data : BitVec 32) (size : Nat), (size = 1 ∨ size = 2 ∨ size = 4) → s.masterRuns m = true →
    accessIssues m true addr.toNat = true → ∀ k, s.keyFor m addr.toNat = some k → s.meetsClosed m k = none →
    s.originOf k = none → (∃ b, regionOf k = some (.mram b)) → s.coll.stopped = false →
    ∃ t, exec (.coreMemoryAccess m true addr size data [] []) s = .next t ∧ t.mem = s.mem ∧ Reported t .u 0xAC pgMEM ∧
      Touches [.coll] s t)
  ∧ (∀ (s : State) (m : Master) (addr data : BitVec 32) (size : Nat), (size = 1 ∨ size = 2 ∨ size = 4) → s.masterRuns m = true →
    accessIssues m false addr.toNat = true → isPage addr.toNat = false → ∀ k, s.keyFor m addr.toNat = some k →
    s.meetsClosed m k = none → ∀ r, regionOf k = some r → (∃ b, r = .shared b ∨ r = .appSram b) → s.unitBad k = true →
    s.originOf k = none → s.coll.stopped = false →
    ∃ t, exec (.coreMemoryAccess m false addr size data [] []) s = .next t ∧ t.answer = s.answer ∧ t.mem = s.mem ∧
      t.unitBad k = true ∧ t.word pgMEM 0x10C = BitVec.ofNat 32 (k / 32 * 32) ∧
      t.rd pgMEM Reg.MEM.LAST_INFO_TABLE = regionTable r ∧
      t.rd pgMEM Reg.MEM.LAST_INFO_OUTCOME = (if 0x201F0000 ≤ k ∧ k < 0x21000000 then 4 else 3) ∧
      t.rd pgMEM Reg.MEM.UNREP_CNT_COUNT = counted (s.rd pgMEM Reg.MEM.UNREP_CNT_COUNT) ∧
      (s.chk.logged.contains (checkUnit k) = false → Reported t .u 0xA3 pgMEM))
  ∧ (∀ (s : State) (m : Master) (addr data : BitVec 32) (size : Nat), (size = 1 ∨ size = 2 ∨ size = 4) → s.masterRuns m = true →
    accessIssues m false addr.toNat = true → isPage addr.toNat = false → ∀ k, s.keyFor m addr.toNat = some k →
    s.meetsClosed m k = none → (∃ b, regionOf k = some (.spm b) ∨ regionOf k = some (.shared b) ∨ regionOf k = some (.appSram b)) →
    s.unitBad k = true → ∀ e, s.originOf k = some e →
    (s.polder (pdMramA + s.activeBank)).st ≠ .failed →
    s.mramErr (mramBase s.activeBank + s.originOffs e + (busAddr k - s.originSram e)) = 0 → s.coll.stopped = false →
    ∃ t, exec (.coreMemoryAccess m false addr size data [] []) s = .next t ∧
      (∀ i, i < 32 → t.byte (k / 32 * 32 + i) =
        s.byte ((mramBase s.activeBank + s.originOffs e + (busAddr k - s.originSram e)) / 32 * 32 + i)) ∧
      OnlyBytes (k / 32 * 32) 32 s t ∧ t.answer = t.mword k &&& BitVec.ofNat 32 (2 ^ (8 * size) - 1) ∧ t.unitBad k = false ∧
      t.rd pgMEM Reg.MEM.LAST_INFO_OUTCOME = 0 ∧ t.rd pgMEM Reg.MEM.REP_CNT_COUNT = counted (s.rd pgMEM Reg.MEM.REP_CNT_COUNT) ∧
      Reported t .c 0xA0 pgMEM)
  ∧ (∀ (s : State) (c : Fin 3) (addr data : BitVec 32) (size : Nat), (size = 1 ∨ size = 2 ∨ size = 4) →
    s.masterRuns (.core c) = true → ∀ k, s.keyFor (.core c) addr.toNat = some k → s.meetsClosed (.core c) k = none →
    regionOf k = some (.spm c) →
    s.unitBad k = true → s.originOf k = none → s.sup.voting.contains c.val = true → s.coll.stopped = false →
    ∀ d, (s.spmDonors c ((k - spmBase c) / 32 * 32)).head? = some d →
    ∃ t, exec (.coreMemoryAccess (.core c) false addr size data [] []) s = .next t ∧
      (∀ i, i < 32 → t.byte (k / 32 * 32 + i) = s.byte (spmBase d + (k - spmBase c) / 32 * 32 + i)) ∧
      OnlyBytes (k / 32 * 32) 32 s t ∧ t.unitBad k = false ∧ t.rd pgMEM Reg.MEM.LAST_INFO_OUTCOME = 1 ∧
      t.answer = t.mword k &&& BitVec.ofNat 32 (2 ^ (8 * size) - 1) ∧ Reported t .c 0xA1 pgMEM)
  ∧ (∀ (s : State) (c : Fin 3) (addr data : BitVec 32) (size : Nat), (size = 1 ∨ size = 2 ∨ size = 4) →
    s.masterRuns (.core c) = true → ∀ k, s.keyFor (.core c) addr.toNat = some k → s.meetsClosed (.core c) k = none →
    regionOf k = some (.spm c) →
    s.unitBad k = true → s.originOf k = none → s.sup.voting.contains c.val = true → s.coll.stopped = false →
    s.spmDonors c ((k - spmBase c) / 32 * 32) = [] → s.compat = false →
    ∃ t, exec (.coreMemoryAccess (.core c) false addr size data [] []) s = .next t ∧ t.rd pgSUP Reg.SUP.STAT_MODE = 3 ∧
      t.rdB pgSAF Reg.SAF.STO_STAT_OPEN = true ∧ t.mem = s.mem ∧
      (s.chk.logged.contains (checkUnit k) = false → Reported t .f 0xA9 pgMEM))
  ∧ (∀ (s : State) (m : Master) (addr data : BitVec 32) (size : Nat), (size = 1 ∨ size = 2 ∨ size = 4) → s.masterRuns m = true →
    accessIssues m false addr.toNat = true → ∀ k, s.keyFor m addr.toNat = some k → s.meetsClosed m k = none →
    (∃ b, regionOf k = some (.mram b)) → s.coll.stopped = false →
    ∃ t, exec (.coreMemoryAccess m false addr size data [] []) s = .next t ∧ t.mem = s.mem ∧
      (s.mramErr k = 0 → t.answer = s.mword k &&& BitVec.ofNat 32 (2 ^ (8 * size) - 1) ∧ Touches [.answer, .chk] s t) ∧
      (s.mramErr k = 1 → t.answer = s.mword k &&& BitVec.ofNat 32 (2 ^ (8 * size) - 1) ∧ Reported t .c 0xA6 pgMEM ∧
        t.rd pgMEM Reg.MEM.MRAM_CORR_COUNT = counted (s.rd pgMEM Reg.MEM.MRAM_CORR_COUNT)) ∧
      (s.mramErr k = 2 → t.answer = s.answer ∧ (s.chk.logged.contains (checkUnit k) = false → Reported t .u 0xA7 pgMEM)))
  ∧ (∀ (s : State) (m : Master) (addr data : BitVec 32), s.masterRuns m = true → ∀ k, s.keyFor m addr.toNat = some k →
    s.meetsClosed m (slotKey ((k - exchangeBase) / 16)) = none → regionOf k = some .exchange → s.unitBad k = true → k % 16 = 0 →
    s.coll.stopped = false →
    ∃ t, exec (.coreMemoryAccess m false addr 4 data [] []) s = .next t ∧ t.answer = 0 ∧ t.mem = s.mem ∧
      (s.chk.logged.contains (checkUnit k) = false → Reported t .u 0xAA pgMEM ∧ t.rd pgMEM Reg.MEM.LAST_INFO_OUTCOME = 5))

/-- The scrubber, MRAM programming and updates, and origin regions (R337, R338, R343 to R345, R490, R493). Where the spec leaves a point open, the model's
choice stands in log entry 69. -/
def Obligations.ScrubAndMram : Prop :=
  (∀ (s : State) (addr : BitVec 32), s.rdB pgMEM Reg.MEM.SCRUB_EN = true →
    ∀ r, regionOf addr.toNat = some r → (∃ b, r = .shared b ∨ r = .appSram b) → s.sluicesClosed (regionPolder r) = false →
    s.unitBad addr.toNat = true → s.originOf addr.toNat = none → s.coll.stopped = false →
    ∃ t, exec (.scrubStep addr []) s = .next t ∧ t.mem = s.mem ∧ t.unitBad addr.toNat = true ∧
      t.word pgMEM 0x10C = BitVec.ofNat 32 (addr.toNat / 32 * 32) ∧ t.rd pgMEM Reg.MEM.LAST_INFO_FOUND = 4 ∧
      t.chk.logged.contains (checkUnit addr.toNat) = true ∧
      (s.chk.logged.contains (checkUnit addr.toNat) = false → Reported t .u 0xA3 pgMEM))
  ∧ (∀ (s : State) (addr : BitVec 32), s.unitBad addr.toNat = false →
    ∃ t, exec (.scrubStep addr []) s = .next t ∧ Touches [.chk] s t ∧
      (s.rdB pgMEM Reg.MEM.SCRUB_EN = true → ∀ r, regionOf addr.toNat = some r → (∀ b, r ≠ .mram b) →
        s.sluicesClosed (regionPolder r) = false → t.chk.logged.contains (checkUnit addr.toNat) = false))
  ∧ (∀ (s : State) (addr : BitVec 32), (s.rdB pgMEM Reg.MEM.SCRUB_EN = false ∨
      ∀ r, regionOf addr.toNat = some r → s.sluicesClosed (regionPolder r) = true) → exec (.scrubStep addr []) s = .next s)
  ∧ (∀ (s : State) (addr : BitVec 32), s.rdB pgMEM Reg.MEM.SCRUB_EN = true → ∀ r, regionOf addr.toNat = some r →
    s.sluicesClosed (regionPolder r) = false → s.unitBad addr.toNat = true → s.originOf addr.toNat = none →
    s.coll.stopped = false → ∀ e, e < 16 → r = .engineMem e →
    s.imageLoopAt e (addr.toNat - leBase e) = none → ∀ l, s.stateLoopAt e (addr.toNat - leBase e) = some l →
    s.executing l = false → s.chk.rebuild = [] →
    ∃ t, exec (.scrubStep addr []) s = .next t ∧ t.unitBad addr.toNat = false ∧ Reported t .u 0xA2 pgMEM ∧
      t.rd pgMEM Reg.MEM.LAST_INFO_OUTCOME = 2 ∧ t.rd pgMEM Reg.MEM.LAST_INFO_LOOP = l ∧
      t.rd pgMEM Reg.MEM.REP_CNT_COUNT = counted (s.rd pgMEM Reg.MEM.REP_CNT_COUNT))
  ∧ (∀ (s : State) (addr : BitVec 32) (b : Nat), regionOf addr.toNat = some (.mram b) → s.rdB pgMEM Reg.MEM.SCRUB_MEN = true →
    s.sluicesClosed (pdMramA + b) = false → (b = s.activeBank ∨ s.rdB pgMEM Reg.MEM.MRAM_STAT_UPD = false) →
    s.mramErr addr.toNat = 1 → s.coll.stopped = false →
    ∃ t, exec (.mramScrubStep addr []) s = .next t ∧ t.mramErr addr.toNat = 0 ∧ t.mem = s.mem ∧
      t.rd pgMEM Reg.MEM.MRAM_CORR_COUNT = counted (s.rd pgMEM Reg.MEM.MRAM_CORR_COUNT) ∧ Reported t .c 0xA6 pgMEM)
  ∧ (∀ (s : State) (addr : BitVec 32) (b : Nat), regionOf addr.toNat = some (.mram b) → s.mramErr addr.toNat = 0 →
    ∃ t, exec (.mramScrubStep addr []) s = .next t ∧ Touches [.chk] s t ∧ t.mramErr addr.toNat = 0)
  ∧ (∀ (s : State) (addr : BitVec 32) (bs : List Byte), bs ≠ [] →
    (∀ k, k < bs.length → s.mramWritable (addr.toNat + k) = true) →
    ∃ t, exec (.mramWrite true addr bs) s = .next t ∧ (∀ k, k < bs.length → t.byte (addr.toNat + k) = bs.getD k 0) ∧
      OnlyBytes addr.toNat bs.length s t ∧ Touches [.mem, .chk] s t)
  ∧ (∀ (s : State) (voted : Bool) (addr : BitVec 32) (bs : List Byte), (∃ b, regionOf addr.toNat = some (.mram b)) →
    (voted = false ∨ ∃ k, k < bs.length ∧ s.mramWritable (addr.toNat + k) = false) → s.coll.stopped = false →
    ∃ t, exec (.mramWrite voted addr bs) s = .next t ∧ t.mem = s.mem ∧ Reported t .u 0xAC pgMEM ∧ Touches [.coll] s t)
  ∧ (∀ (s : State),
    ∃ t, exec .mramUpdateOpen s = .next t ∧ t.rdB pgMEM Reg.MEM.MRAM_STAT_UPD = true ∧
      (s.activeBank = 0 → t.rdB pgPWR Reg.PWR.BOOT_VALID_B = false) ∧ (s.activeBank = 1 → t.rdB pgPWR Reg.PWR.BOOT_VALID_A = false) ∧
      t.rd pgPWR Reg.PWR.BOOT_PREF = s.activeBank ∧
      OnlyWords [fieldKey pgMEM Reg.MEM.MRAM_STAT_UPD, fieldKey pgPWR Reg.PWR.BOOT_PREF] s t)
  ∧ (∀ (s : State), s.rdB pgMEM Reg.MEM.MRAM_STAT_UPD = true → (s.polder pdSecurity).st ≠ .failed →
    ∃ t, exec .mramUpdateClose s = .next t ∧ t.rdB pgMEM Reg.MEM.MRAM_STAT_UPD = false ∧
      t.rd pgSEC Reg.SEC.UPD_STAT_RESULT = 1 ∧ t.sec.queue = s.sec.queue ++ [{ kind := .bank }])
  ∧ (∀ (s : State), s.rdB pgMEM Reg.MEM.MRAM_STAT_UPD = false → exec .mramUpdateClose s = .next s)
  ∧ (∀ (s : State) (e : Fin 16), s.chk.copying.contains e.val = true → (s.originSram e < 0x08000000 ∨ 0x08080000 ≤ s.originSram e) →
    ∃ t, exec (.originLoadComplete e) s = .next t ∧ t.rdB pgMEM (Reg.MEMW.O_CTRL_LOADED e) = true ∧
      t.chk.copying.contains e.val = false ∧
      (∀ i, i < s.originLen e → t.byte (s.originSram e + i) = s.byte (mramBase s.activeBank + s.originOffs e + i)) ∧
      OnlyBytes (s.originSram e) (s.originLen e) s t ∧ OnlyWords [fieldKey pgMEM (Reg.MEMW.O_CTRL_LOADED e)] s t)
  ∧ (∀ (s : State) (e : Fin 16), s.chk.copying.contains e.val = true → 0x08000000 ≤ s.originSram e → s.originSram e < 0x08080000 →
    s.originSram e + s.originLen e ≤ 0x08080000 →
    ∃ t, exec (.originLoadComplete e) s = .next t ∧ t.rdB pgMEM (Reg.MEMW.O_CTRL_LOADED e) = true ∧
      ∀ c, c < 3 → ∀ i, i < s.originLen e →
        t.byte (s.originSram e + 0x00100000 * c + i) = s.byte (mramBase s.activeBank + s.originOffs e + i))
  ∧ (∀ (s : State) (e : Fin 16), s.chk.copying.contains e.val = false → exec (.originLoadComplete e) s = .next s)

/-- A report that arrives at the collector: its stamp, the queue of 64, the marks of its page and class, FAULT_N, reduced
operation, the agreement event and, for class F, safe torque off; and the queue into the log (R51, R355 to R359, R363, R365,
R504). Where the spec leaves a point open, the model's
choice stands in log entries 27, 44, 45 and 80. -/
def Obligations.FaultReportsAndLog : Prop :=
  (∀ (s : State) (i : Nat), ∀ r, s.coll.inflight[i]? = some r → s.pwr.inReset = false → s.coll.queue.length < 64 →
    ∃ t, exec (.faultReport i) s = .next t ∧
      t.coll.queue = s.coll.queue ++ [{ r with stamp := some (r.stamp.getD s.now) }] ∧
      (∀ k, k < i → t.coll.inflight[k]? = s.coll.inflight[k]?) ∧
      bitOf (t.word r.page 0xC).toNat (classCode r.cls - 1) = true ∧
      bitOf (t.word pgFLT 0x100).toNat (classCode r.cls - 1) = true ∧
      t.rd r.page Reg.HDR.FLT_CODE = r.code % 256 ∧
      (r.cls ≠ .c → t.coll.lastArrival = s.now ∧ 1 ≤ t.rd pgFLT Reg.FLT.STAT_RED ∧
        bitOf (t.rd pgSUP Reg.SUP.AGR_EVT_EVT) 0 = true) ∧
      (r.cls = .f → 2 ≤ t.rd pgFLT Reg.FLT.STAT_RED ∧ t.rdB pgSAF Reg.SAF.STO_STAT_OPEN = true) ∧
      (s.rd pgFLT Reg.FLT.PIN_CLASS_CLASS < classCode r.cls → s.rd pgFLT Reg.FLT.PIN_CLASS_CLASS ≠ 3 →
        t.coll.pinFrom = some s.now ∧ t.rdB pgFLT Reg.FLT.PIN_SW_ACTIVE = true))
  ∧ (∀ (s : State) (i : Nat), ∀ r, s.coll.inflight[i]? = some r → s.pwr.inReset = true → s.coll.queue.length < 64 →
    ∃ t, exec (.faultReport i) s = .next t ∧ Touches [.coll] s t ∧
      t.coll.queue = s.coll.queue ++ [{ r with stamp := some (r.stamp.getD s.now) }])
  ∧ (∀ (s : State) (i : Nat), ∀ r, s.coll.inflight[i]? = some r → 64 ≤ s.coll.queue.length →
    ∃ t, exec (.faultReport i) s = .next t ∧ t.coll.queue = s.coll.queue ∧
      t.rd pgFLT Reg.FLT.LOST_COUNT = counted (s.rd pgFLT Reg.FLT.LOST_COUNT))
  ∧ (∀ (s : State) (r : Report) (rest : List Report), s.coll.queue = r :: rest →
    let i := s.rd pgFLT Reg.FLT.LOG_HEAD_IDX
    let a := winBase + 0x20 * i
    ∃ t, exec .logEntryWrite s = .next t ∧ t.coll.queue = rest ∧
      t.word pgFLT a = BitVec.ofNat 32 (r.stamp.getD 0) ∧ t.word pgFLT (a + 4) = BitVec.ofNat 32 (r.stamp.getD 0 / 2 ^ 32) ∧
      t.word pgFLT (a + 8) = BitVec.ofNat 32 (r.code % 256 + classCode r.cls * 2 ^ 8 + bit r.inj * 2 ^ 10 +
        originCode r.origin * 2 ^ 11 + r.page % 256 * 2 ^ 16) ∧
      t.word pgFLT (a + 12) = BitVec.ofNat 32 r.detail ∧
      t.word pgFLT (a + 16) = BitVec.ofNat 32 (s.rd pgFLT Reg.FLT.LOG_SEQ_SEQ) ∧
      t.rd pgFLT Reg.FLT.LOG_HEAD_IDX = (i + 1) % 256 ∧ OnlyPages [pgFLT] s t ∧ Touches [.regs, .pushes, .coll] s t)
  ∧ (∀ (s : State), s.coll.queue = [] → exec .logEntryWrite s = .next s)

/-- Software's clearing of class summaries and page faults, the pin FAULT_N, and the end of reduced operation (R356, R359,
R363, R367). Where the spec leaves a point open, the model's
choice stands in log entry 45. -/
def Obligations.FaultClearingAndExit : Prop :=
  (∀ (s : State) (bits : Fin 8), ∃ t, exec (.fltSumClear bits) s = .next t ∧
    (∀ k, k < 3 → bitOf (t.word pgFLT 0x100).toNat k = (bitOf (s.word pgFLT 0x100).toNat k && !bitOf bits k)) ∧
    t.coll = { s.coll with firstU := s.coll.firstU || bitOf bits 1, firstF := s.coll.firstF || bitOf bits 2 } ∧
    Changes [.coll] [regKey pgFLT 0x100] s t)
  ∧ (∀ (s : State) (page : Fin 256) (bits : Fin 16), (pageType page).isSome = true →
    ∃ t, exec (.pageFltClear page bits) s = .next t ∧
      (∀ k, k < 4 → bitOf (t.word page 0xC).toNat k = (bitOf (s.word page 0xC).toNat k && !bitOf bits k)) ∧
      ((∀ k, k < 3 → bitOf (t.word page 0xC).toNat k = false) → t.rd page Reg.HDR.FLT_CODE = 0) ∧
      (bitOf bits 0 = true → t.rd page Reg.HDR.EVT_COUNT = 0) ∧
      Changes [] [regKey page 0xC, fieldKey page Reg.HDR.EVT_COUNT] s t)
  ∧ (∀ (s : State) (at_ : Nat), s.coll.pinFrom = some at_ → s.passedRc at_ s.pinWidth = true →
    ∃ t, exec .faultPinWidthEnd s = .next t ∧ t.coll = { s.coll with pinFrom := none } ∧
      t.rdB pgFLT Reg.FLT.PIN_SW_ACTIVE = s.rdB pgFLT Reg.FLT.PIN_SW_LEVEL ∧
      Changes [.coll] [fieldKey pgFLT Reg.FLT.PIN_SW_ACTIVE] s t)
  ∧ (∀ (s : State) (level : Bool), ∃ t, exec (.faultPinLevelWrite level) s = .next t ∧
    t.rdB pgFLT Reg.FLT.PIN_SW_LEVEL = level ∧
    (s.coll.pinFrom = none → t.rdB pgFLT Reg.FLT.PIN_SW_ACTIVE = level) ∧
    (s.coll.pinFrom.isSome = true → t.rdB pgFLT Reg.FLT.PIN_SW_ACTIVE = s.rdB pgFLT Reg.FLT.PIN_SW_ACTIVE) ∧
    Changes [] [fieldKey pgFLT Reg.FLT.PIN_SW_LEVEL] s t)
  ∧ (∀ (s : State), s.rd pgFLT Reg.FLT.STAT_RED ≠ 0 → s.rdB pgFLT Reg.FLT.STAT_LATCHED = false → s.coll.stopped = false →
    s.passed s.coll.lastArrival (320000 * max 10 (s.rd pgFLT Reg.FLT.QUIET_MS)) = true →
    ∃ t, exec .reducedOperationExit s = .next t ∧ t.rd pgFLT Reg.FLT.STAT_RED = 0 ∧
      t.rd pgFLT Reg.FLT.RECOV_CNT_COUNT = (s.rd pgFLT Reg.FLT.RECOV_CNT_COUNT + 1) % 2 ^ Reg.FLT.RECOV_CNT_COUNT.width ∧
      Reported t .c 0xE5 pgFLT ∧
      Changes [.coll] [fieldKey pgFLT Reg.FLT.STAT_RED, fieldKey pgFLT Reg.FLT.RECOV_CNT_COUNT] s t)
  ∧ (∀ (s : State), s.rdB pgFLT Reg.FLT.STAT_LATCHED = true → exec .reducedOperationExit s = .next s)

/-- Fault injection: refused outside factory test mode and outside the table, and each kind acts on the real detection path with
entries marked as injected (R28, R61, R260, R265, R292, R309, R318, R322, R340, R378, R379). Where the spec leaves a point open, the model's
choice stands in log entries 43, 52, 53 and 54. -/
def Obligations.FaultInjection : Prop :=
  (∀ (s : State) (page : Fin 256) (code : Fin 256) (cls : Fin 4), s.rdB pgFLT Reg.FLT.INJ_STAT_ARMED = false →
    ∃ t, exec (.injectReport page code cls) s = .next t ∧ t.rd pgFLT Reg.FLT.INJ_STAT_RESULT = 2 ∧ Changes [] [fieldKey pgFLT Reg.FLT.INJ_STAT_RESULT] s t)
  ∧ (∀ (s : State), s.rdB pgFLT Reg.FLT.INJ_STAT_ARMED = false →
    ∃ t, exec .injectCheckField s = .next t ∧ t.rd pgFLT Reg.FLT.INJ_STAT_RESULT = 2 ∧ Changes [] [fieldKey pgFLT Reg.FLT.INJ_STAT_RESULT] s t)
  ∧ (∀ (s : State) (p : Fin 256), s.rdB pgFLT Reg.FLT.INJ_STAT_ARMED = false →
    ∃ t, exec (.injectStall p) s = .next t ∧ t.rd pgFLT Reg.FLT.INJ_STAT_RESULT = 2 ∧ Changes [] [fieldKey pgFLT Reg.FLT.INJ_STAT_RESULT] s t)
  ∧ (∀ (s : State) (c : Fin 4), s.rdB pgFLT Reg.FLT.INJ_STAT_ARMED = false →
    ∃ t, exec (.injectCoreWrite c) s = .next t ∧ t.rd pgFLT Reg.FLT.INJ_STAT_RESULT = 2 ∧ Changes [] [fieldKey pgFLT Reg.FLT.INJ_STAT_RESULT] s t)
  ∧ (∀ (s : State) (page : Fin 256) (still : Bool), s.rdB pgFLT Reg.FLT.INJ_STAT_ARMED = false →
    ∃ t, exec (.injectChannelFault page still) s = .next t ∧ t.rd pgFLT Reg.FLT.INJ_STAT_RESULT = 2 ∧ Changes [] [fieldKey pgFLT Reg.FLT.INJ_STAT_RESULT] s t)
  ∧ (∀ (s : State) (ch : Fin 16) (hard : Bool), s.rdB pgFLT Reg.FLT.INJ_STAT_ARMED = false →
    ∃ t, exec (.injectFastPath ch hard) s = .next t ∧ t.rd pgFLT Reg.FLT.INJ_STAT_RESULT = 2 ∧ Changes [] [fieldKey pgFLT Reg.FLT.INJ_STAT_RESULT] s t)
  ∧ (∀ (s : State), s.rdB pgFLT Reg.FLT.INJ_STAT_ARMED = false →
    ∃ t, exec .injectHeartbeatLoss s = .next t ∧ t.rd pgFLT Reg.FLT.INJ_STAT_RESULT = 2 ∧ Changes [] [fieldKey pgFLT Reg.FLT.INJ_STAT_RESULT] s t)
  ∧ (∀ (s : State), s.rdB pgFLT Reg.FLT.INJ_STAT_ARMED = false →
    ∃ t, exec .injectCrystalLoss s = .next t ∧ t.rd pgFLT Reg.FLT.INJ_STAT_RESULT = 2 ∧ Changes [] [fieldKey pgFLT Reg.FLT.INJ_STAT_RESULT] s t)
  ∧ (∀ (s : State) (page : Fin 256) (code : Fin 256) (cls : Fin 4), s.rdB pgFLT Reg.FLT.INJ_STAT_ARMED = true → ((pageType page).isNone = true ∨ definedCode code = false ∨ cls = 0) →
    ∃ t, exec (.injectReport page code cls) s = .next t ∧ t.rd pgFLT Reg.FLT.INJ_STAT_RESULT = 3 ∧ Changes [] [fieldKey pgFLT Reg.FLT.INJ_STAT_RESULT] s t)
  ∧ (∀ (s : State), s.rdB pgFLT Reg.FLT.INJ_STAT_ARMED = true → sramByte (s.word pgFLT Reg.FLT.INJ_ADDR_ADDR.off).toNat = false →
    ∃ t, exec .injectCheckField s = .next t ∧ t.rd pgFLT Reg.FLT.INJ_STAT_RESULT = 3 ∧ Changes [] [fieldKey pgFLT Reg.FLT.INJ_STAT_RESULT] s t)
  ∧ (∀ (s : State) (p : Fin 256), s.rdB pgFLT Reg.FLT.INJ_STAT_ARMED = true → polderExists p = false →
    ∃ t, exec (.injectStall p) s = .next t ∧ t.rd pgFLT Reg.FLT.INJ_STAT_RESULT = 3 ∧ Changes [] [fieldKey pgFLT Reg.FLT.INJ_STAT_RESULT] s t)
  ∧ (∀ (s : State) (c : Fin 4), s.rdB pgFLT Reg.FLT.INJ_STAT_ARMED = true → (c = 3 ∨ (c = 2 ∧ s.compat = true)) →
    ∃ t, exec (.injectCoreWrite c) s = .next t ∧ t.rd pgFLT Reg.FLT.INJ_STAT_RESULT = 3 ∧ Changes [] [fieldKey pgFLT Reg.FLT.INJ_STAT_RESULT] s t)
  ∧ (∀ (s : State) (page : Fin 256) (still : Bool), s.rdB pgFLT Reg.FLT.INJ_STAT_ARMED = true → channelPages.contains page.val = false →
    ∃ t, exec (.injectChannelFault page still) s = .next t ∧ t.rd pgFLT Reg.FLT.INJ_STAT_RESULT = 3 ∧ Changes [] [fieldKey pgFLT Reg.FLT.INJ_STAT_RESULT] s t)
  ∧ (∀ (s : State) (ch : Fin 16) (hard : Bool), s.rdB pgFLT Reg.FLT.INJ_STAT_ARMED = true → 12 ≤ ch.val →
    ∃ t, exec (.injectFastPath ch hard) s = .next t ∧ t.rd pgFLT Reg.FLT.INJ_STAT_RESULT = 3 ∧ Changes [] [fieldKey pgFLT Reg.FLT.INJ_STAT_RESULT] s t)
  ∧ (∀ (s : State) (page code : Fin 256) (cls : Fin 4), s.rdB pgFLT Reg.FLT.INJ_STAT_ARMED = true → (pageType page).isSome = true →
    definedCode code = true → cls ≠ 0 → s.coll.stopped = false →
    ∃ t, exec (.injectReport page code cls) s = .next t ∧ t.rd pgFLT Reg.FLT.INJ_STAT_RESULT = 1 ∧ Changes [.coll] [fieldKey pgFLT Reg.FLT.INJ_STAT_RESULT] s t ∧
      t.coll.inflight.length = s.coll.inflight.length + 1 ∧
      ∃ r, r ∈ t.coll.inflight ∧ r.code = code.val ∧ r.page = page.val ∧ r.detail = 0 ∧ r.inj = true ∧
        r.cls = (if cls = 1 then FaultClass.c else if cls = 2 then .u else .f) ∧
        (r.stamp = none ∨ r.stamp = some s.now))
  ∧ (∀ (s : State), s.rdB pgFLT Reg.FLT.INJ_STAT_ARMED = true → sramByte (s.word pgFLT Reg.FLT.INJ_ADDR_ADDR.off).toNat = true →
    ∃ t, exec .injectCheckField s = .next t ∧ t.rd pgFLT Reg.FLT.INJ_STAT_RESULT = 1 ∧ t.unitBad (s.word pgFLT Reg.FLT.INJ_ADDR_ADDR.off).toNat = true ∧
      t.chk.inj.contains (s.word pgFLT Reg.FLT.INJ_ADDR_ADDR.off).toNat = true ∧ Changes [.chk] [fieldKey pgFLT Reg.FLT.INJ_STAT_RESULT] s t)
  ∧ (∀ (s : State) (p : Fin 256), s.rdB pgFLT Reg.FLT.INJ_STAT_ARMED = true → polderExists p = true →
    ∃ t, exec (.injectStall p) s = .next t ∧ t.rd pgFLT Reg.FLT.INJ_STAT_RESULT = 1 ∧
      PolderBecomes s t p { s.polder p with withheld := true, injected := true } ∧ Changes [.polders] [fieldKey pgFLT Reg.FLT.INJ_STAT_RESULT] s t)
  ∧ (∀ (s : State) (c : Fin 4), s.rdB pgFLT Reg.FLT.INJ_STAT_ARMED = true → (c < 2 ∨ (c = 2 ∧ s.compat = false)) →
    ∃ t, exec (.injectCoreWrite c) s = .next t ∧ t.rd pgFLT Reg.FLT.INJ_STAT_RESULT = 1 ∧ t.sup = { s.sup with invert := insertNat c s.sup.invert } ∧
      Changes [.sup] [fieldKey pgFLT Reg.FLT.INJ_STAT_RESULT] s t)
  ∧ (∀ (s : State) (page : Fin 256) (still : Bool), s.rdB pgFLT Reg.FLT.INJ_STAT_ARMED = true → channelPages.contains page.val = true → isXh page.val = true →
    s.rdB page Reg.XH.CFG_FLT_EN = true → s.fltMasked page = false → s.latched page = false → s.coll.stopped = false →
    ∃ t, exec (.injectChannelFault page still) s = .next t ∧ t.rd pgFLT Reg.FLT.INJ_STAT_RESULT = 1 ∧ LegLatched s t page 4 ∧
      ∃ r, r ∈ t.coll.inflight ∧ r.code = 0x4E ∧ r.page = page.val ∧ r.inj = true)
  ∧ (∀ (s : State) (page : Fin 256) (still : Bool), s.rdB pgFLT Reg.FLT.INJ_STAT_ARMED = true → channelPages.contains page.val = true → isXh page.val = false →
    s.secondOfSet page still = [] → s.coll.stopped = false →
    ∃ t, exec (.injectChannelFault page still) s = .next t ∧ t.rd pgFLT Reg.FLT.INJ_STAT_RESULT = 1 ∧ LegLatched s t page 3 ∧
      ∃ r, r ∈ t.coll.inflight ∧ r.code = 0x4E ∧ r.page = page.val ∧ r.inj = true)
  ∧ (∀ (s : State) (ch : Fin 16) (hard : Bool), s.rdB pgFLT Reg.FLT.INJ_STAT_ARMED = true → ch.val < 12 → s.rdB pgSD (Reg.SD.CFG_OC_EN ch) = true →
    s.rdB pgSD (Reg.SD.CFG_EN ch) = true → s.fastLegs ch ≠ [] → s.coll.stopped = false →
    ∃ t, exec (.injectFastPath ch hard) s = .next t ∧ t.rd pgFLT Reg.FLT.INJ_STAT_RESULT = 1 ∧ bitOf (t.rd pgSD Reg.SD.OC_HIT_CH) ch = true ∧
      (∃ r, r ∈ t.coll.inflight ∧ r.code = 0x68 ∧ r.detail = ch.val ∧ r.inj = true) ∧
      (∀ p, p ∈ s.fastLegs ch → t.latched p = true ∧ t.rd p Reg.XH.CH_STAT_PROT = 6) ∧ (hard = true → t.stoOpen = true))
  ∧ (∀ (s : State), s.rdB pgFLT Reg.FLT.INJ_STAT_ARMED = true →
    ∃ t, exec .injectHeartbeatLoss s = .next t ∧ t.rd pgFLT Reg.FLT.INJ_STAT_RESULT = 1 ∧ t.wd = { s.wd with discard := true, discardInj := true } ∧
      Changes [.wd] [fieldKey pgFLT Reg.FLT.INJ_STAT_RESULT] s t)
  ∧ (∀ (s : State), s.rdB pgFLT Reg.FLT.INJ_STAT_ARMED = true → s.lossCanBeDeclared = true →
    ∃ t, exec .injectCrystalLoss s = .next t ∧ t.rd pgFLT Reg.FLT.INJ_STAT_RESULT = 1 ∧ t.rd pgTP Reg.TP.XLOSS_AT_L_STAMP = s.now % 2 ^ 32 ∧
      t.rd pgTP Reg.TP.XLOSS_AT_H_STAMP = s.now / 2 ^ 32 % 2 ^ 32 ∧ t.rdB pgTP Reg.TP.STAT_XTAL_OK = false ∧
      t.tp.switching = true ∧ t.tp.lossAt = s.now ∧ t.tp.lossInjected = true)

/-- The causes of a device reset, what each leaves, and what stops one: the command with its key, RESET_N, the delayed reset
after a lost heartbeat, the debug reset and the Dike's own power-on reset (R373 to R376, R381, R463). Where the spec leaves a point open, the model's
choice stands in log entry 100. -/
def Obligations.DeviceResets : Prop :=
  (∀ (s : State), s.pwr.inReset = false → s.pwr.dikeLost = false →
    ∃ t, exec (.resetCommand 0xC3A5) s = .next t ∧ ResetBegun s t 4 ∧ t.pwr.pinLow = false)
  ∧ (∀ (s : State) (key : BitVec 16), key ≠ 0xC3A5 → exec (.resetCommand key) s = .next s)
  ∧ (∀ (s : State), s.pwr.inReset = false → s.pwr.dikeLost = false → s.pwr.pinLow = false →
    ∃ t, exec .resetPinAssert s = .next t ∧ ResetBegun s t 2 ∧ t.pwr.pinLow = true ∧ t.pwr.pinAt = s.now)
  ∧ (∀ (s : State), s.pwr.inReset = false → s.pwr.dikeLost = false → s.wd.resetDue = true →
    s.passedRc s.wd.lostAt (320000 * max 1 (s.rd pgDIKE Reg.DIKE.WD_RST_DLY)) = true →
    ∃ t, exec .watchdogResetDelay s = .next t ∧ ResetBegun s t 5)
  ∧ (∀ (s : State), s.wd.resetDue = false → exec .watchdogResetDelay s = .next s)
  ∧ (∀ (s : State), s.pwr.inReset = false → s.pwr.dikeLost = false → s.tapReach false = true → s.debugLevel = 2 →
    ∃ t, exec .debugReset s = .next t ∧ ResetBegun s t 6 ∧ t.debugLevel = 2)
  ∧ (∀ (s : State), s.debugLevel ≠ 2 → exec .debugReset s = .next s)
  ∧ (∀ (s : State), ∃ t, exec .dikeSupplyLoss s = .next t ∧ t.pwr.dikeLost = true ∧ t.now = 0 ∧ t.loops = [] ∧
    t.coll = {} ∧ (∀ a, 0x10000000 ≤ a → a < 0x12000000 → t.byte a = s.byte a))
  ∧ (∀ (s : State), s.pwr.dikeLost = true →
    ∃ t, exec .dikePowerOn s = .next t ∧ t.pwr = {} ∧ t.now = 0 ∧ t.loops = [] ∧ t.powerState = 4 ∧ t.supMode = 3 ∧
      t.clockRuns = false ∧ (∀ a, 0x10000000 ≤ a → a < 0x12000000 → t.byte a = s.byte a))
  ∧ (∀ (s : State), s.pwr.dikeLost = false → exec .dikePowerOn s = .next s)
  ∧ (∀ (s : State) (key : BitVec 16), s.pwr.inReset = true → exec (.resetCommand key) s = .next s)

/-- A reset from its start to the release and the restart of the collector, RESET_N held for 5 s included (R364, R375, R376,
R565, R568). Where the spec leaves a point open, the model's
choice stands in log entries 27 and 100. -/
def Obligations.ResetReleaseAndCollector : Prop :=
  (∀ (s : State), s.pwr.pinLow = true → s.pwr.inReset = true → s.passedRc s.pwr.pinAt 1600000000 = true →
    ∃ t, exec .resetHeld5s s = .next t ∧ t.rdB pgDIKE Reg.DIKE.RST_REC_HELD5 = true ∧ t.rdB pgFLT Reg.FLT.PIN_SW_ACTIVE = true ∧
      Changes [] [fieldKey pgDIKE Reg.DIKE.RST_REC_HELD5, fieldKey pgFLT Reg.FLT.PIN_SW_ACTIVE] s t)
  ∧ (∀ (s : State) (c0 c1 c2 : Bool), s.pwr.pinLow = true → s.pwr.inReset = true → s.clockRuns = true → s.pwr.cause < 4 →
    ∃ t, exec (.resetPinRelease c0 c1 c2) s = .next t ∧ t.pwr.pinLow = false ∧ t.rdB pgFLT Reg.FLT.PIN_SW_ACTIVE = false ∧
      BootBegun t c0 c1 c2)
  ∧ (∀ (s : State) (c0 c1 c2 : Bool), s.pwr.pinLow = true → s.clockRuns = false →
    ∃ t, exec (.resetPinRelease c0 c1 c2) s = .next t ∧ t.pwr = { s.pwr with pinLow := false } ∧
      t.rdB pgFLT Reg.FLT.PIN_SW_ACTIVE = false ∧ Changes [.pwr] [fieldKey pgFLT Reg.FLT.PIN_SW_ACTIVE] s t)
  ∧ (∀ (s : State) (c0 c1 c2 : Bool), s.pwr.inReset = true → 4 ≤ s.pwr.cause → s.pwr.pinLow = false → s.clockRuns = true →
    s.passedRc s.pwr.resetAt 3200 = true →
    ∃ t, exec (.resetRelease c0 c1 c2) s = .next t ∧ BootBegun t c0 c1 c2 ∧ t.coll.stopped = true ∧ t.pwr.owesReset = true)
  ∧ (∀ (s : State), s.pwr.inReset = true → s.coll.stopped = false → s.coll.queue = [] →
    (∀ r ∈ s.coll.inflight, r.origin = .fabric ∨ r.origin = .resetRecord) → s.passedRc s.pwr.resetAt 960 = true →
    ∃ t, exec .collectorStop s = .next t ∧ t.coll = { s.coll with inflight := [], stopped := true } ∧ Touches [.coll] s t)
  ∧ (∀ (s : State), s.pwr.inReset = true → 0 < s.coll.queue.length → exec .collectorStop s = .next s)
  ∧ (∀ (s : State), s.pwr.inReset = false → s.coll.stopped = true → s.pwr.owesReset = true → s.pwr.owesWake = false →
    s.rdB pgDIKE Reg.DIKE.RST_REC_HELD5 = false →
    let a := winBase + 0x20 * s.rd pgFLT Reg.FLT.LOG_HEAD_IDX
    ∃ t, exec .collectorRestart s = .next t ∧ t.coll.stopped = false ∧ t.pwr.owesReset = false ∧
      t.coll.inflight = s.coll.inflight ++ s.coll.held ∧ t.coll.held = [] ∧
      t.word pgFLT (a + 8) = BitVec.ofNat 32 (0xE2 + 1 * 2 ^ 8 + 3 * 2 ^ 11 + pgDIKE % 256 * 2 ^ 16) ∧
      t.word pgFLT (a + 12) = BitVec.ofNat 32 (s.rd pgDIKE Reg.DIKE.RST_REC_CAUSE) ∧
      t.word pgFLT a = s.word pgDIKE Reg.DIKE.RST_AT_L_STAMP.off ∧ OnlyPages [pgFLT, pgDIKE] s t)
  ∧ (∀ (s : State), s.coll.stopped = false → exec .collectorRestart s = .next s)

/-- Staging, the indirect window, commits up to their answer, and plain register writes (R16, R17, R360, R388 to R396, R401). Where the spec leaves a point open, the model's
choice stands in log entries 39, 40, 42 and 59. -/
def Obligations.StagingAndCommits : Prop :=
  (∀ (s : State) (page : Fin 256) (off : Nat) (data : Word), rwsMask (regKey page off) ≠ 0 → off < 0x2000000 →
    ∃ t, exec (.stagedWrite page off data) s = .next t ∧ t.stagedWord page off = data &&& rwsMask (regKey page off) ∧
      t.marks.contains (regKey page off) = true ∧ t.rdB page Reg.HDR.STG_INCLUDE = true ∧
      OnlyWords [fieldKey page Reg.HDR.STG_INCLUDE] s t ∧
      (∀ k, k ≠ regKey page off → tabGet stagedReset t.staged k = tabGet stagedReset s.staged k) ∧
      t.commit.pages = s.commit.pages ∧ t.commit.values = s.commit.values ∧ t.commit.marks = s.commit.marks)
  ∧ (∀ (s : State) (page : Fin 256) (off : Nat) (data : Word), rwsMask (regKey page off) = 0 →
    exec (.stagedWrite page off data) s = .fault .unpredictableAccess)
  ∧ (∀ (s : State) (page : Fin 256), (pageType page).isSome = true → s.Sound →
    ∃ t, exec (.stageDiscard page) s = .next t ∧
      (∀ off, off < 0x2000000 → t.stagedWord page off = s.word page off &&& rwsMask (regKey page off)) ∧
      (∀ k, keyPage k ≠ page → tabGet stagedReset t.staged k = tabGet stagedReset s.staged k) ∧
      t.marks = (s.marks.filter fun k => keyPage k != page) ∧ t.rdB page Reg.HDR.STG_INCLUDE = false ∧
      OnlyWords [fieldKey page Reg.HDR.STG_INCLUDE] s t ∧
      t.commit.pages = s.commit.pages ∧ t.commit.values = s.commit.values ∧ t.commit.marks = s.commit.marks)
  ∧ (∀ (s : State) (page : Fin 256) (incl : Bool), (pageType page).isSome = true →
    ∃ t, exec (.stageIncludeWrite page incl) s = .next t ∧ t.rdB page Reg.HDR.STG_INCLUDE = incl ∧
      Changes [] [fieldKey page Reg.HDR.STG_INCLUDE] s t)
  ∧ (∀ (s : State) (m : Master) (page : Fin 256) (data : Word), (pageType page).any hasWindow = true →
    s.rdB page Reg.WIN.WCTL_SIDE = true →
    rwsMask (regKey page (winBase + 4 * s.rd page Reg.WIN.WADDR_ADDR)) ≠ 0 →
    (∃ t, exec (.windowAccess m page true data) s = .next t ∧
      t.stagedWord page (winBase + 4 * s.rd page Reg.WIN.WADDR_ADDR) =
        data &&& rwsMask (regKey page (winBase + 4 * s.rd page Reg.WIN.WADDR_ADDR)) ∧
      t.marks.contains (regKey page (winBase + 4 * s.rd page Reg.WIN.WADDR_ADDR)) = true ∧
      t.rdB page Reg.HDR.STG_INCLUDE = true ∧
      t.rd page Reg.WIN.WADDR_ADDR = (s.rd page Reg.WIN.WADDR_ADDR + bit (s.rdB page Reg.WIN.WCTL_INC)) % 2 ^ 22) ∧
    (∃ t, exec (.windowAccess m page false data) s = .next t ∧
      t.answer = s.stagedWord page (winBase + 4 * s.rd page Reg.WIN.WADDR_ADDR) ∧ t.staged = s.staged ∧ t.marks = s.marks ∧
      t.rd page Reg.WIN.WADDR_ADDR = (s.rd page Reg.WIN.WADDR_ADDR + bit (s.rdB page Reg.WIN.WCTL_INC)) % 2 ^ 22))
  ∧ (∀ (s : State) (m : Master) (page : Fin 256) (data : Word), (pageType page).any hasWindow = true →
    s.rdB page Reg.WIN.WCTL_SIDE = false →
    rwsMask (regKey page (winBase + 4 * s.rd page Reg.WIN.WADDR_ADDR)) ≠ 0 →
    (∃ t, exec (.windowAccess m page true data) s = .next t ∧
      Changes [] [fieldKey page Reg.WIN.WADDR_ADDR, fieldKey page Reg.WIN.WCTL_ERR] s t) ∧
    (∃ t, exec (.windowAccess m page false data) s = .next t ∧
      t.answer = s.word page (winBase + 4 * s.rd page Reg.WIN.WADDR_ADDR) ∧
      Changes [.answer] [fieldKey page Reg.WIN.WADDR_ADDR, fieldKey page Reg.WIN.WCTL_ERR] s t))
  ∧ (∀ (s : State) (m : Master) (n : Fin 16) (data : Word), s.rdB (pgLE n) Reg.WIN.WCTL_SIDE = false →
    s.rd (pgLE n) Reg.WIN.WADDR_ADDR < 0x8000 → s.sluicesClosed (pdLE n) = false → s.unitBad (leBase n +
      4 * s.rd (pgLE n) Reg.WIN.WADDR_ADDR) = false →
    ∃ t, exec (.windowAccess m ⟨pgLE n, by unfold pgLE; omega⟩ false data) s = .next t ∧
      t.answer = s.mword (leBase n + 4 * s.rd (pgLE n) Reg.WIN.WADDR_ADDR) ∧ t.mem = s.mem)
  ∧ (∀ (s : State) (key : BitVec 16), key ≠ 0x5A17 → exec (.commit key) s = .next s)
  ∧ (∀ (s : State), (s.rd pgSYS Reg.SYS.COMMIT_STAT_STATE = 1 ∨ s.rd pgSYS Reg.SYS.COMMIT_STAT_STATE = 2) →
    ∃ t, exec (.commit 0x5A17) s = .next t ∧ t.rdB pgSYS Reg.SYS.COMMIT_STAT_IGN = true ∧
      Changes [] [fieldKey pgSYS Reg.SYS.COMMIT_STAT_IGN] s t)
  ∧ (∀ (s : State), s.rd pgSYS Reg.SYS.COMMIT_STAT_STATE ≠ 1 → s.rd pgSYS Reg.SYS.COMMIT_STAT_STATE ≠ 2 → s.supRuns = false →
    ∃ t, exec (.commit 0x5A17) s = .next t ∧ t.rd pgSYS Reg.SYS.COMMIT_STAT_STATE = 5 ∧ Touches [.regs, .pushes] s t)
  ∧ (∀ (s : State), s.rd pgSYS Reg.SYS.COMMIT_STAT_STATE ≠ 1 → s.rd pgSYS Reg.SYS.COMMIT_STAT_STATE ≠ 2 → s.supRuns = true →
    ∃ t, exec (.commit 0x5A17) s = .next t ∧ t.rd pgSYS Reg.SYS.COMMIT_STAT_STATE = 1 ∧
      t.rdB pgSYS Reg.SYS.COMMIT_STAT_IGN = false ∧
      (∀ p, p < 256 → (t.commit.pages.contains p = true ↔ (pageType p).isSome = true ∧ s.rdB p Reg.HDR.STG_INCLUDE = true)) ∧
      (∀ p off, p < 256 → off < 0x2000000 → t.commit.pages.contains p = true →
        tabGet stagedReset t.commit.values (regKey p off) = s.stagedWord p off) ∧
      (∀ k, t.commit.marks.contains k = true ↔ s.marks.contains k = true ∧ t.commit.pages.contains (keyPage k) = true) ∧
      Changes [.commit] [fieldKey pgSYS Reg.SYS.COMMIT_STAT_STATE] s t)
  ∧ (∀ (s : State), s.rd pgSYS Reg.SYS.COMMIT_STAT_STATE = 1 → s.supRuns = true → s.proposed.firstFailure = none →
    ∃ t, exec .commitCheckComplete s = .next t ∧ t.rd pgSYS Reg.SYS.COMMIT_STAT_STATE = 2 ∧
      t.commit = { s.commit with doneAt := s.now } ∧ Changes [.commit] [fieldKey pgSYS Reg.SYS.COMMIT_STAT_STATE] s t)
  ∧ (∀ (s : State), s.rd pgSYS Reg.SYS.COMMIT_STAT_STATE = 1 → s.supRuns = true → ∀ f, s.proposed.firstFailure = some f →
    ∃ t, exec .commitCheckComplete s = .next t ∧ t.rd pgSYS Reg.SYS.COMMIT_STAT_STATE = 4 ∧
      t.rd pgSYS Reg.SYS.COMMIT_STAT_CK = f.1 % 32 ∧ t.rd pgSYS Reg.SYS.COMMIT_STAT_PAGE = f.2.1 % 256 ∧
      t.rd pgSYS Reg.SYS.COMMIT_STAT_ITEM = f.2.2 % 256 ∧
      Changes [.commit, .fresh] [fieldKey pgSYS Reg.SYS.COMMIT_STAT_STATE, fieldKey pgTRL Reg.TRL.PLACE_DIAG_LOOP,
        fieldKey pgSUP Reg.SUP.AGR_EVT_EVT] s t)
  ∧ (∀ (s : State), s.rd pgSYS Reg.SYS.COMMIT_STAT_STATE ≠ 1 → exec .commitCheckComplete s = .next s)
  ∧ (∀ (s : State), s.atMark = false → exec .commitApply s = .next s)
  ∧ (∀ (s : State) (m : Master) (data : Word), s.masterRuns m = true → accessIssues m true pageBase = true → reachesPages m = true →
    (∃ t, exec (.registerWrite m ⟨pgFLT, by decide⟩ 0x134 data) s = .next t ∧ t.word pgFLT 0x134 = data ∧
      Changes [] [regKey pgFLT 0x134] s t) ∧
    (∃ t, exec (.registerWrite m ⟨pgMEM, by decide⟩ 0x104 data) s = .next t ∧ t.rd pgMEM Reg.MEM.REP_CNT_COUNT = 0 ∧
      Changes [] [regKey pgMEM 0x104] s t) ∧
    (∃ t, exec (.registerWrite m ⟨pgSD, by decide⟩ 0x244 data) s = .next t ∧
      t.rd pgSD Reg.SD.OC_HIT_CH = (s.word pgSD 0x244 &&& ~~~data).toNat % 2 ^ 12 ∧ Changes [] [regKey pgSD 0x244] s t) ∧
    (exec (.registerWrite m ⟨pgMEM, by decide⟩ 0x100 data) s = .next s) ∧
    (exec (.registerWrite m ⟨pgMEM, by decide⟩ 0x10C data) s = .next s))
  ∧ (∀ (s : State) (m : Master) (page : Fin 256) (off : Fin 4096) (data : Word), s.masterRuns m = true →
    accessIssues m true pageBase = true → reachesPages m = true → (pageType page).isNone = true →
    exec (.registerWrite m page off data) s = .fault .unpredictableAccess)

/-- At its mark, a commit makes every staged value of its snapshot live at once (R400, R405). DBG_POLICY, which may wait for the end
of a session (chapter 9), is left aside. Where the spec leaves a point open, the model's
choice stands in log entries 41 and 62. -/
def Obligations.CommitMakesValuesLive : Prop :=
  ∀ (s : State), s.atMark = true → s.proposed.undefinedSettings = false →
    ∃ t, exec .commitApply s = .next t ∧ t.rd pgSYS Reg.SYS.COMMIT_STAT_STATE = 3 ∧
      t.rd pgSYS Reg.SYS.COMMIT_AT_L_STAMP = s.now % 2 ^ 32 ∧ t.rd pgSYS Reg.SYS.COMMIT_AT_H_STAMP = s.now / 2 ^ 32 % 2 ^ 32 ∧
      t.word pgSYS Reg.SYS.COMMIT_SEQ_SEQ.off = s.word pgSYS Reg.SYS.COMMIT_SEQ_SEQ.off + 1 ∧
      (∀ p off, p < 256 → off < 0x2000000 → s.commit.pages.contains p = true → p ≠ pgSUP →
        t.word p off &&& rwsMask (regKey p off) = tabGet stagedReset s.commit.values (regKey p off) &&& rwsMask (regKey p off)) ∧
      (∀ p off, p < 256 → off < 0x2000000 → s.commit.pages.contains p = false →
        t.word p off &&& rwsMask (regKey p off) = s.word p off &&& rwsMask (regKey p off)) ∧
      t.staged = s.staged ∧ (∀ k, t.marks.contains k = true ↔ s.marks.contains k = true ∧
        (s.commit.pages.contains (keyPage k) = false ∨ s.commit.laterMarks.contains k = true)) ∧
      (∀ p, p ∈ s.commit.pages → p < 256 → s.commit.later.contains p = false → t.rdB p Reg.HDR.STG_INCLUDE = false)

/-- Host frames, the write queue, deferred reads and the ledger (R48, R49, R409 to R420). Where the spec leaves a point open, the model's
choice stands in log entries 51, 55, 105 and 106. -/
def Obligations.HostPortFrames : Prop :=
  (crc8 [0x31, 0x32, 0x33, 0x34, 0x35, 0x36, 0x37, 0x38, 0x39] = 0xDF)
  ∧ (∀ (s : State) (e : Nat) (a : Fin 1048576) (cc : Fin 256) (w : Word) (dc : Fin 256), HostListens s → e = 72 →
    cc.val = crc8 (commandBytes 0 a) → inLedger (framePage a) (frameOff a) = true → (0x900 ≤ frameOff a ∧
    frameOff a < 0xF00 ∨ accessMask .wo (regKey (framePage a) (frameOff a)) = 0) → frameOff a ≠ 0x1C →
    ∃ t, exec (.hostRead e a cc w dc) s = .next t ∧ t.answer = s.ledgerWord (framePage a) (frameOff a) ∧
      t.hif.stale = s.pagePending (framePage a) ∧ FrameAnswered s t ∧ t.hif.queue = s.hif.queue ∧ t.hif.deferred = s.hif.deferred ∧
      Touches [.hif, .answer] s t)
  ∧ (∀ (s : State) (e : Nat) (a : Fin 1048576) (cc : Fin 256) (w : Word) (dc : Fin 256), HostListens s → e = 72 →
    cc.val = crc8 (commandBytes 0 a) → framePage a = pgTP → frameOff a = 0x100 →
    ∃ t, exec (.hostRead e a cc w dc) s = .next t ∧ t.answer = BitVec.ofNat 32 s.now ∧ t.hif.stale = false ∧
      t.tpShadow 0 = s.now / 2 ^ 32 % 2 ^ 32 ∧ FrameAnswered s t ∧ Touches [.hif, .tp, .answer] s t)
  ∧ (∀ (s : State) (e : Nat) (a : Fin 1048576) (cc : Fin 256) (w : Word) (dc : Fin 256), HostListens s → e = 72 →
    cc.val = crc8 (commandBytes 0 a) → frameOff a = 0xF04 → (pageType (framePage a)).any hasWindow = true →
    ∃ t, exec (.hostRead e a cc w dc) s = .next t ∧ t.answer = 0 ∧ t.hif.stale = true ∧ FrameAnswered s t ∧
      Touches [.hif, .answer] s t)
  ∧ (∀ (s : State) (e : Nat) (a : Fin 1048576) (cc : Fin 256) (w : Word) (dc : Fin 256), HostListens s → e = 72 →
    cc.val = crc8 (commandBytes 1 a) → dc.val = crc8 (msbBytes w.toNat) → s.hif.queue.length < 16 →
    inLedger (framePage a) (frameOff a) = true → frameOff a ≠ 0x1C →
    ∃ t, exec (.hostWrite e a cc w dc) s = .next t ∧ t.hif.queue = s.hif.queue ++ [(a.val, w)] ∧
      t.ledgerWord (framePage a) (frameOff a) = (s.ledgerWord (framePage a) (frameOff a) &&& ~~~hostBits (framePage a) (frameOff a)) ||| (w &&& hostBits (framePage a) (frameOff a)) ∧
      (accessMask .wo (regKey (framePage a) (frameOff a)) = 0 → t.answer = s.ledgerWord (framePage a) (frameOff a)) ∧
      t.hif.prevErr = false ∧ t.hif.frameSeq = (s.hif.frameSeq + 1) % 256 ∧ Touches [.hif, .ledger, .fresh, .answer] s t)
  ∧ (∀ (s : State) (e : Nat) (a : Fin 1048576) (cc : Fin 256) (w : Word) (dc : Fin 256), HostListens s → e = 72 →
    cc.val = crc8 (commandBytes 2 a) → a.val < 0x40000 → (∀ b, s.hif.deferred ≠ .busy b) →
    ∃ t, exec (.hostDeferredRead e a cc w dc) s = .next t ∧ t.hif.deferred = .busy a ∧ t.answer = 0 ∧
      t.rd pgHIF Reg.HIF.DEFER_STAT_ADDR = a ∧ t.rdB pgHIF Reg.HIF.DEFER_STAT_ERR = false ∧ FrameAnswered s t)
  ∧ (∀ (s : State) (e : Nat) (a : Fin 1048576) (cc : Fin 256) (w : Word) (dc : Fin 256) (b : Nat), HostListens s → e = 72 →
    cc.val = crc8 (commandBytes 2 a) → a.val < 0x40000 → s.hif.deferred = .busy b →
    ∃ t, exec (.hostDeferredRead e a cc w dc) s = .next t ∧ t.hif.deferred = .busy b ∧ t.answer = 0 ∧
      t.rd pgHIF Reg.HIF.DEFER_DROP_COUNT = counted (s.rd pgHIF Reg.HIF.DEFER_DROP_COUNT) ∧ FrameAnswered s t)
  ∧ (∀ (s : State) (e : Nat) (a : Fin 1048576) (cc : Fin 256) (w : Word) (dc : Fin 256) (b err : Nat) (v : Word), HostListens s → e = 72 →
    cc.val = crc8 (commandBytes 3 a) → s.hif.deferred = .held b v err →
    ∃ t, exec (.hostFetch e a cc w dc) s = .next t ∧ t.answer = v ∧ t.hif.deferred = .idle ∧ (t.hif.stale = true ↔ err ≠ 0) ∧
      t.rdB pgHIF Reg.HIF.DEFER_STAT_ERR = false ∧ FrameAnswered s t)
  ∧ (∀ (s : State) (e : Nat) (a : Fin 1048576) (cc : Fin 256) (w : Word) (dc : Fin 256), HostListens s → e = 72 →
    cc.val = crc8 (commandBytes 3 a) → (∀ b v err, s.hif.deferred ≠ .held b v err) →
    ∃ t, exec (.hostFetch e a cc w dc) s = .next t ∧ t.answer = 0 ∧ t.hif.deferred = s.hif.deferred ∧ t.hif.stale = false ∧
      FrameAnswered s t ∧ Touches [.hif, .answer] s t)
  ∧ (∀ (s : State) (a : Fin 262144) (w : Word) (rest : List (Nat × Word)), s.hif.queue = (a.val, w) :: rest → s.hifClosed = false →
    0x900 ≤ frameOff a → frameOff a < 0xF00 → rwsMask (regKey (framePage a) (frameOff a - 0x800)) ≠ 0 →
    ∃ t, exec .hostWriteDelivery s = .next t ∧ t.hif.queue = rest ∧
      t.stagedWord (framePage a) (frameOff a - 0x800) = w &&& rwsMask (regKey (framePage a) (frameOff a - 0x800)) ∧
      t.marks.contains (regKey (framePage a) (frameOff a - 0x800)) = true ∧ t.rdB (framePage a) Reg.HDR.STG_INCLUDE = true ∧
      t.ledger = s.ledger)
  ∧ (∀ (s : State), s.hif.queue = [] → exec .hostWriteDelivery s = .next s)
  ∧ (∀ (s : State), s.hifClosed = true → exec .hostWriteDelivery s = .next s)
  ∧ (∀ (s : State) (a : Fin 262144), s.hif.deferred = .busy a → s.hif.queue = [] → s.hifClosed = false →
    keyNamed (regKey (framePage a) (frameOff a)) = true → accessMask .wo (regKey (framePage a) (frameOff a)) = 0 →
    framePage a ≠ pgTP → frameOff a ≠ 0xF04 → frameOff a < 0x700 → frameOff a ≠ 0x1C → (pageType (framePage a)).isSome = true →
    ∃ t, exec .deferredReadComplete s = .next t ∧ t.hif.deferred = .held a (s.viewWord (framePage a) (frameOff a)) 0 ∧
      Touches [.hif] s t)
  ∧ (∀ (s : State) (n : Fin 16) (a : Nat), s.hif.deferred = .busy a → framePage a = pgLE n → frameOff a = 0xF04 → s.hif.queue = [] →
    s.hifClosed = false → s.rd (pgLE n) Reg.WIN.WADDR_ADDR < 0x8000 → s.rdB (pgLE n) Reg.WIN.WCTL_SIDE = false →
    s.sluicesClosed (pdLE n) = true →
    ∃ t, exec .deferredReadComplete s = .next t ∧ t.hif.deferred = .held a 0 2 ∧ t.rdB pgHIF Reg.HIF.DEFER_STAT_ERR = true ∧
      t.rd pgHIF Reg.HIF.DEFER_STAT_CAUSE = 2)
  ∧ (∀ (s : State), (s.hif.queue ≠ [] ∨ s.hifClosed = true ∨ ∀ a, s.hif.deferred ≠ .busy a) → exec .deferredReadComplete s = .next s)
  ∧ (∀ (s : State) (page : Fin 256) (off : Fin 4096), inLedger page off = true → s.pushPending page off = true → s.hifClosed = false →
    ∃ t, exec (.ledgerPush page off) s = .next t ∧ t.ledgerWord page off = s.pushValue page off ∧
      t.pushes.contains (regKey page off) = false ∧ (∀ k, k ≠ regKey page off →
      tabGet ledgerReset t.ledger k = tabGet ledgerReset s.ledger k) ∧ Touches [.pushes, .ledger] s t)
  ∧ (∀ (s : State) (page : Fin 256) (off : Fin 4096), (s.pushPending page off = false ∨ s.hifClosed = true) →
    exec (.ledgerPush page off) s = .next s)

/-- R411: which host frames are ignored, and that an ignored frame writes nothing, starts no deferred read, fetches nothing, updates
no shadow, and is recorded: by PREV_CMD_CRC_ERR of the next status word, LAST_ERR, ERR_CNT and fault 0xB0 for the first. -/
def Obligations.IgnoredHostFrames : Prop :=
  (∀ (s : State) (e : Nat) (a : Fin 1048576) (cc : Fin 256) (w : Word) (dc : Fin 256), HostListens s → s.coll.stopped = false →
    (e ≠ 72 ∨ cc.val ≠ crc8 (commandBytes 0 a)) →
    ∃ t, exec (.hostRead e a cc w dc) s = .next t ∧ IgnoredFrame s t (if e = 72 then 2 else 1))
  ∧ (∀ (s : State) (e : Nat) (a : Fin 1048576) (cc : Fin 256) (w : Word) (dc : Fin 256), HostListens s → s.coll.stopped = false →
    (e ≠ 72 ∨ cc.val ≠ crc8 (commandBytes 1 a)) →
    ∃ t, exec (.hostWrite e a cc w dc) s = .next t ∧ IgnoredFrame s t (if e = 72 then 2 else 1))
  ∧ (∀ (s : State) (e : Nat) (a : Fin 1048576) (cc : Fin 256) (w : Word) (dc : Fin 256), HostListens s → s.coll.stopped = false →
    (e ≠ 72 ∨ cc.val ≠ crc8 (commandBytes 2 a)) →
    ∃ t, exec (.hostDeferredRead e a cc w dc) s = .next t ∧ IgnoredFrame s t (if e = 72 then 2 else 1))
  ∧ (∀ (s : State) (e : Nat) (a : Fin 1048576) (cc : Fin 256) (w : Word) (dc : Fin 256), HostListens s → s.coll.stopped = false →
    (e ≠ 72 ∨ cc.val ≠ crc8 (commandBytes 3 a)) →
    ∃ t, exec (.hostFetch e a cc w dc) s = .next t ∧ IgnoredFrame s t (if e = 72 then 2 else 1))
  ∧ (∀ (s : State) (e : Nat) (a : Fin 1048576) (cc : Fin 256) (w : Word) (dc : Fin 256), HostListens s → s.coll.stopped = false → e = 72 →
    cc.val = crc8 (commandBytes 1 a) → (dc.val ≠ crc8 (msbBytes w.toNat) ∨ 16 ≤ s.hif.queue.length) →
    ∃ t, exec (.hostWrite e a cc w dc) s = .next t ∧ IgnoredFrame s t (if dc.val = crc8 (msbBytes w.toNat) then 4 else 3))

/-- CAN controllers, Ethernet controllers and the management interface of ETH1 (R425 to R428, R507 to R512). The limits of the error
counters are the model's, from ISO 11898-1 (log entry 32), and so is the byte order of an address (log entry 33). Where the spec leaves a point open, the model's
choice stands in log entries 31 and 92. -/
def Obligations.NetworkFrames : Prop :=
  (∀ (s : State) (n : Fin 3) (hdr : List Word) (data : List Byte) (age f : Nat), s.canRuns n = true →
    s.rd (pgCAN n) Reg.CAN.ERR_STATE ≠ 2 → s.canFormat n (hdr.getD 0 0) (hdr.getD 1 0) = true →
    s.rd (pgCAN n) Reg.CAN.ERR_REC ≤ 127 → s.canFilter n (s.ago age) (hdr.getD 0 0) = some (1, f) →
    s.ringFull (pgCAN n) 0x130 = false → 1 ≤ s.ringUnits (pgCAN n) 0x130 → f < 32 →
    inAppSram (s.ringEntry (pgCAN n) 0x130 (32 * s.ringUnits (pgCAN n) 0x130) (s.ringHead (pgCAN n) 0x130))
      (32 * s.ringUnits (pgCAN n) 0x130) = true →
    ∃ t, exec (.canFrameReceive n hdr data age 0) s = .next t ∧
      t.ringHead (pgCAN n) 0x130 = s.ringNext (pgCAN n) 0x130 (s.ringHead (pgCAN n) 0x130) % 1024 ∧
      t.mword (s.ringEntry (pgCAN n) 0x130 (32 * s.ringUnits (pgCAN n) 0x130) (s.ringHead (pgCAN n) 0x130)) = hdr.getD 0 0 ∧
      t.mword (s.ringEntry (pgCAN n) 0x130 (32 * s.ringUnits (pgCAN n) 0x130) (s.ringHead (pgCAN n) 0x130) + 4) =
        withBits (hdr.getD 1 0) 0 12 data.length ∧
      t.mword (s.ringEntry (pgCAN n) 0x130 (32 * s.ringUnits (pgCAN n) 0x130) (s.ringHead (pgCAN n) 0x130) + 16) =
        BitVec.ofNat 32 (s.ago age) ∧
      t.mword (s.ringEntry (pgCAN n) 0x130 (32 * s.ringUnits (pgCAN n) 0x130) (s.ringHead (pgCAN n) 0x130) + 24) =
        BitVec.ofNat 32 (f + bit (decide (32 * s.ringUnits (pgCAN n) 0x130 - 32 < data.length)) * 32) ∧
      (∀ i, i < data.length → i < 32 * s.ringUnits (pgCAN n) 0x130 - 32 →
        t.byte (s.ringEntry (pgCAN n) 0x130 (32 * s.ringUnits (pgCAN n) 0x130) (s.ringHead (pgCAN n) 0x130) + 32 + i) = data.getD i 0) ∧
      OnlyBytes (s.ringEntry (pgCAN n) 0x130 (32 * s.ringUnits (pgCAN n) 0x130) (s.ringHead (pgCAN n) 0x130))
        (32 * s.ringUnits (pgCAN n) 0x130) s t ∧
      t.rd (pgCAN n) Reg.CAN.ERR_REC = s.rd (pgCAN n) Reg.CAN.ERR_REC - 1)
  ∧ (∀ (s : State) (n : Fin 3) (hdr : List Word) (data : List Byte) (age f : Nat), s.canRuns n = true →
    s.rd (pgCAN n) Reg.CAN.ERR_STATE ≠ 2 → s.canFormat n (hdr.getD 0 0) (hdr.getD 1 0) = true →
    s.canFilter n (s.ago age) (hdr.getD 0 0) = some (1, f) → s.ringFull (pgCAN n) 0x130 = true → s.coll.stopped = false →
    ∃ t, exec (.canFrameReceive n hdr data age 0) s = .next t ∧ t.mem = s.mem ∧
      t.rd (pgCAN n) Reg.CAN.OVR0_CNT_COUNT = counted (s.rd (pgCAN n) Reg.CAN.OVR0_CNT_COUNT) ∧
      (s.rd (pgCAN n) Reg.CAN.OVR0_CNT_COUNT = 0 → Reported t .c 0xB3 (pgCAN n)))
  ∧ (∀ (s : State) (n : Fin 3) (hdr : List Word) (data : List Byte) (age err : Nat), s.canRuns n = true →
    s.rd (pgCAN n) Reg.CAN.ERR_STATE = 0 → s.canFormat n (hdr.getD 0 0) (hdr.getD 1 0) = true → 0 < err →
    s.rd (pgCAN n) Reg.CAN.ERR_TEC ≤ 127 → s.coll.stopped = false →
    ∃ t, exec (.canFrameReceive n hdr data age err) s = .next t ∧ t.mem = s.mem ∧
      t.rd (pgCAN n) Reg.CAN.ERR_REC = min 255 (s.rd (pgCAN n) Reg.CAN.ERR_REC + err) ∧
      t.rd (pgCAN n) Reg.CAN.ERR_STATE = bit (decide (127 < s.rd (pgCAN n) Reg.CAN.ERR_REC + err)) ∧
      (127 < s.rd (pgCAN n) Reg.CAN.ERR_REC + err → Reported t .c 0xB1 (pgCAN n)))
  ∧ (∀ (s : State) (n : Fin 3) (hdr : List Word) (data : List Byte) (age err : Nat),
    (s.canRuns n = false ∨ s.rd (pgCAN n) Reg.CAN.ERR_STATE = 2) →
    exec (.canFrameReceive n hdr data age err) s = .next s)
  ∧ (∀ (s : State) (n : Fin 3) (age tdc : Nat), s.canRuns n = true → s.ringEmpty (pgCAN n) 0x120 = false →
    s.rd (pgCAN n) Reg.CAN.ERR_STATE ≠ 2 → s.rdB (pgCAN n) Reg.CAN.CFG_LOM = false → s.rdB (pgCAN n) Reg.CAN.CFG_ROM = false →
    32 ≤ 32 * s.ringUnits (pgCAN n) 0x120 → ∀ a, some (s.ringEntry (pgCAN n) 0x120 (32 * s.ringUnits (pgCAN n) 0x120)
      (s.ringTail (pgCAN n) 0x120)) = some a →
    bitsAt (s.mword (a + 4)) 0 12 ≤ 32 * s.ringUnits (pgCAN n) 0x120 - 32 → s.canFormat n (s.mword a) (s.mword (a + 4)) = true →
    inAppSram a 32 = true →
    (∃ t, exec (.canFrameTransmit n true age tdc) s = .next t ∧ t.mword (a + 24) = 1 ∧ t.mword (a + 16) = BitVec.ofNat 32 (s.ago age) ∧
      t.ringTail (pgCAN n) 0x120 = s.ringNext (pgCAN n) 0x120 (s.ringTail (pgCAN n) 0x120) % 1024 ∧
      t.rd (pgCAN n) Reg.CAN.ERR_TEC = s.rd (pgCAN n) Reg.CAN.ERR_TEC - 1 ∧ OnlyBytes (a + 16) 12 s t) ∧
    (∃ t, exec (.canFrameTransmit n false age tdc) s = .next t ∧
      t.rd (pgCAN n) Reg.CAN.ERR_TEC = min 255 (s.rd (pgCAN n) Reg.CAN.ERR_TEC + 8) ∧
      (s.rd (pgCAN n) Reg.CAN.ERR_TEC + 8 ≤ 255 → t.mem = s.mem ∧ t.ringTail (pgCAN n) 0x120 = s.ringTail (pgCAN n) 0x120) ∧
      (255 < s.rd (pgCAN n) Reg.CAN.ERR_TEC + 8 → t.mword (a + 24) = 7 ∧ t.rd (pgCAN n) Reg.CAN.ERR_STATE = 2 ∧
        (s.coll.stopped = false → Reported t .u 0xB2 (pgCAN n)))))
  ∧ (∀ (s : State) (n : Fin 3) (ok : Bool) (age tdc : Nat), (s.canRuns n = false ∨ s.ringEmpty (pgCAN n) 0x120 = true) →
    exec (.canFrameTransmit n ok age tdc) s = .next s)
  ∧ (∀ (s : State) (n : Fin 3), s.rd (pgCAN n) Reg.CAN.ERR_STATE = 2 →
    ∃ t, exec (.canBusoffRecoveryCmd n) s = .next t ∧ t.ifc = { s.ifc with canRec := insertNat n s.ifc.canRec } ∧
      Touches [.ifc] s t)
  ∧ (∀ (s : State) (n : Fin 3), s.rd (pgCAN n) Reg.CAN.ERR_STATE ≠ 2 → exec (.canBusoffRecoveryCmd n) s = .next s)
  ∧ (∀ (s : State) (n : Fin 3), s.canRuns n = true → s.rd (pgCAN n) Reg.CAN.ERR_STATE = 2 →
    (s.rdB (pgCAN n) Reg.CAN.CFG_BO_AUTO = true ∨ s.ifc.canRec.contains n.val = true) →
    ∃ t, exec (.canBusoffRecovery n) s = .next t ∧ t.rd (pgCAN n) Reg.CAN.ERR_TEC = 0 ∧ t.rd (pgCAN n) Reg.CAN.ERR_REC = 0 ∧
      t.rd (pgCAN n) Reg.CAN.ERR_STATE = 0 ∧ t.ifc.canRec.contains n.val = false)
  ∧ (∀ (s : State) (n : Fin 3), s.rdB (pgCAN n) Reg.CAN.CFG_BO_AUTO = false → s.ifc.canRec.contains n.val = false →
    exec (.canBusoffRecovery n) s = .next s)
  ∧ (∀ (s : State) (n : Fin 2) (frame : List Byte) (age : Nat) (bad : Bool), s.ethRuns n = true →
    s.rdB (pgETH n) Reg.ETH.CFG_RX_EN = true → s.rdB (pgETH n) Reg.ETH.ESTAT_LINK = true → s.ethAccepts n frame = true →
    s.ringFull (pgETH n) 0x130 = false → frame.length ≤ 32 * s.ringUnits (pgETH n) 0x130 →
    ∀ a, some (s.ringEntry (pgETH n) 0x130 16 (s.ringHead (pgETH n) 0x130)) = some a → inAppSram a 16 = true →
    ∀ b, some ((s.mword a).toNat / 32 * 32) = some b → inAppSram b frame.length = true →
    (b + frame.length ≤ a ∨ a + 16 ≤ b) →
    ∃ t, exec (.ethFrameReceive n frame age bad) s = .next t ∧ (∀ i, i < frame.length → t.byte (b + i) = frame.getD i 0) ∧
      t.mword (a + 4) = ethWord1 frame.length bad (frame.getD 12 0 == 0x81 && frame.getD 13 0 == 0x00) ∧
      t.mword (a + 8) = BitVec.ofNat 32 (s.ago age) ∧ t.mword (a + 12) = BitVec.ofNat 32 (s.ago age / 2 ^ 32) ∧
      t.ringHead (pgETH n) 0x130 = s.ringNext (pgETH n) 0x130 (s.ringHead (pgETH n) 0x130) % 1024)
  ∧ (∀ (s : State) (n : Fin 2) (frame : List Byte) (age : Nat) (bad : Bool), s.ethRuns n = true →
    s.rdB (pgETH n) Reg.ETH.CFG_RX_EN = true → s.rdB (pgETH n) Reg.ETH.ESTAT_LINK = true → s.ethAccepts n frame = true →
    s.ringFull (pgETH n) 0x130 = true → s.coll.stopped = false →
    ∃ t, exec (.ethFrameReceive n frame age bad) s = .next t ∧ t.mem = s.mem ∧
      t.rd (pgETH n) Reg.ETH.DROP_CNT_COUNT = counted (s.rd (pgETH n) Reg.ETH.DROP_CNT_COUNT) ∧
      (s.rd (pgETH n) Reg.ETH.DROP_CNT_COUNT = 0 → Reported t .c 0xB6 (pgETH n)))
  ∧ (∀ (s : State) (n : Fin 2) (ok : Bool) (age : Nat), s.ethRuns n = true → s.rdB (pgETH n) Reg.ETH.CFG_TX_EN = true →
    s.rdB (pgETH n) Reg.ETH.ESTAT_LINK = true → ∀ o, some (if s.ringEmpty (pgETH n) 0x120 then 0x110 else 0x120) = some o →
    s.ringEmpty (pgETH n) o = false → ∀ a, some (s.ringEntry (pgETH n) o 16 (s.ringTail (pgETH n) o)) = some a →
    inAppSram a 16 = true →
    ∃ t, exec (.ethFrameTransmit n ok age) s = .next t ∧ t.mword (a + 4) = withBits (s.mword (a + 4)) 11 2 (if ok then 1 else 3) ∧
      t.mword (a + 8) = BitVec.ofNat 32 (s.ago age) ∧ OnlyBytes (a + 4) 12 s t ∧
      t.ringTail (pgETH n) o = s.ringNext (pgETH n) o (s.ringTail (pgETH n) o) % 1024)
  ∧ (∀ (s : State) (n : Fin 2), s.rdB (pgETH n) Reg.ETH.ESTAT_LINK = true → s.coll.stopped = false →
    ∃ t, exec (.ethLinkLoss n false) s = .next t ∧ t.rdB (pgETH n) Reg.ETH.ESTAT_LINK = false ∧
      t.rdB (pgETH n) Reg.ETH.ESTAT_PLCA = false ∧ Reported t .u 0xB5 (pgETH n) ∧
      Changes [.coll] [fieldKey (pgETH n) Reg.ETH.ESTAT_LINK] s t)
  ∧ (∀ (s : State) (n : Fin 2), s.rdB (pgETH n) Reg.ETH.ESTAT_LINK = false → exec (.ethLinkLoss n false) s = .next s)
  ∧ (∀ (s : State) (n : Fin 2) (plca : Bool) (speed : Fin 4), s.ethRuns n = true → s.inService (pdETH n) = true →
    (n = 0 ∨ speed = 1 ∨ speed = 2) →
    ∃ t, exec (.ethLinkUp n plca speed) s = .next t ∧ t.rdB (pgETH n) Reg.ETH.ESTAT_LINK = true ∧
      t.rd (pgETH n) Reg.ETH.ESTAT_SPEED = (if n = 0 then 0 else speed.val) ∧
      Changes [] [fieldKey (pgETH n) Reg.ETH.ESTAT_LINK] s t)
  ∧ (∀ (s : State) (phy reg : Fin 32) (c45 : Bool) (data : Fin 65536), s.ethRuns 1 = true → s.ifc.mdio = none →
    (∃ t, exec (.mdioWrite phy reg c45 data) s = .next t ∧ t.ifc = { s.ifc with mdio := some ⟨1, phy, reg, c45, data⟩ } ∧
      t.rdB (pgETH 1) Reg.ETH.MDIO_STAT_BUSY = true ∧ Changes [.ifc] [fieldKey (pgETH 1) Reg.ETH.MDIO_STAT_BUSY] s t) ∧
    (∃ t, exec (.mdioRead phy reg c45) s = .next t ∧ t.ifc = { s.ifc with mdio := some ⟨2, phy, reg, c45, 0⟩ } ∧
      t.rdB (pgETH 1) Reg.ETH.MDIO_STAT_BUSY = true ∧ Changes [.ifc] [fieldKey (pgETH 1) Reg.ETH.MDIO_STAT_BUSY] s t) ∧
    (∃ t, exec (.mdioAddress phy reg true data) s = .next t ∧ t.ifc = { s.ifc with mdio := some ⟨0, phy, reg, true, data⟩ } ∧
      t.rdB (pgETH 1) Reg.ETH.MDIO_STAT_BUSY = true ∧ Changes [.ifc] [fieldKey (pgETH 1) Reg.ETH.MDIO_STAT_BUSY] s t) ∧
    (∃ t, exec (.mdioReadIncrement phy reg true) s = .next t ∧ t.ifc = { s.ifc with mdio := some ⟨3, phy, reg, true, 0⟩ } ∧
      t.rdB (pgETH 1) Reg.ETH.MDIO_STAT_BUSY = true ∧ Changes [.ifc] [fieldKey (pgETH 1) Reg.ETH.MDIO_STAT_BUSY] s t))
  ∧ (∀ (s : State) (phy reg : Fin 32) (c45 : Bool) (data : Fin 65536), s.ifc.mdio.isSome = true →
    exec (.mdioWrite phy reg c45 data) s = .next s ∧ exec (.mdioRead phy reg c45) s = .next s ∧
      exec (.mdioAddress phy reg c45 data) s = .next s ∧ exec (.mdioReadIncrement phy reg c45) s = .next s)
  ∧ (∀ (s : State) (data : Fin 65536), ∀ c, s.ifc.mdio = some c →
    ∃ t, exec (.mdioComplete data) s = .next t ∧ t.ifc = { s.ifc with mdio := none } ∧
      t.rdB (pgETH 1) Reg.ETH.MDIO_STAT_BUSY = false ∧
      ((c.op = 2 ∨ c.op = 3) → t.rd (pgETH 1) Reg.ETH.MDIO_STAT_DATA = data) ∧
      Changes [.ifc] [fieldKey (pgETH 1) Reg.ETH.MDIO_STAT_BUSY, fieldKey (pgETH 1) Reg.ETH.MDIO_STAT_DATA] s t)

/-- SENT, PSI5, SPI, GPIO and the rings' index registers (R429 to R433, R445, R446, R507, R513, R514, R518, R519). The order of
SENT nibbles is the model's (log entry 34). Where the spec leaves a point open, the model's
choice stands in log entries 31, 78, 93 and 94. -/
def Obligations.SensorBusesAndPins : Prop :=
  (∀ (s : State) (ch : Fin 4) (cal : Nat) (st : Fin 16) (data : List Nat) (age : Nat), s.sentRuns ch = true →
    s.sentValid ch cal data.length true true = true → s.rdB pgSENT (Reg.SENT.CFG_SLOT_EN ch) = false → (∀ d, d ∈ data → d < 16) →
    ∃ t, exec (.sentMessage ch cal st data true true age none) s = .next t ∧
      t.word pgSENT (Reg.SENT.FAST_DATA ch).off = BitVec.ofNat 32 (nibbles data + st.val * 2 ^ 24 + 2 ^ 31) ∧
      t.rd pgSENT (Reg.SENT.AT_L_STAMP ch) = s.ago age % 2 ^ 32 ∧ t.rd pgSENT (Reg.SENT.AT_H_STAMP ch) = s.ago age / 2 ^ 32 ∧
      t.word pgSENT (Reg.SENT.TICK_US ch).off = fpOfRatio cal 17920 ∧ t.mem = s.mem)
  ∧ (∀ (s : State) (ch : Fin 4) (cal : Nat) (st : Fin 16) (data : List Nat) (pause crc : Bool) (age : Nat)
      (slow : Option (Nat × Nat)), s.sentRuns ch = true → s.sentValid ch cal data.length pause crc = false → s.coll.stopped = false →
    ∃ t, exec (.sentMessage ch cal st data pause crc age slow) s = .next t ∧
      t.rd pgSENT (Reg.SENT.ERR_CNT_COUNT ch) = counted (s.rd pgSENT (Reg.SENT.ERR_CNT_COUNT ch)) ∧
      (s.rd pgSENT (Reg.SENT.ERR_CNT_COUNT ch) = 0 → Reported t .c 0xB7 pgSENT) ∧
      t.word pgSENT (Reg.SENT.FAST_DATA ch).off = s.word pgSENT (Reg.SENT.FAST_DATA ch).off ∧ t.mem = s.mem)
  ∧ (∀ (s : State) (ch : Fin 4), s.sentRuns ch = true → s.ifc.sentGap.contains ch.val = false →
    s.passed (tabGet (fun _ => 0) s.ifc.sentFrom ch) (msTicks (max 1 (s.rd pgSENT (Reg.SENT.TMO_MS ch)))) = true →
    s.coll.stopped = false →
    ∃ t, exec (.sentTimeout ch) s = .next t ∧ ReportedAt t .u 0xB8 pgSENT ch none ∧ t.ifc.sentGap.contains ch.val = true ∧
      Touches [.coll, .ifc] s t)
  ∧ (∀ (s : State) (ch : Fin 4), s.ifc.sentGap.contains ch.val = true → exec (.sentTimeout ch) s = .next s)
  ∧ (∀ (s : State) (n : Fin 2), s.psiRuns n = true → s.inService pdPSI = true → s.now % s.psiPeriod n = 0 →
    s.ifc.psiOn.contains n.val = true → ∀ i, (s.psiSlots n) = [i] →
    ∃ t, exec (.psi5SyncPulse n) s = .next t ∧ t.rdB pgPSI (Reg.PSI.DATA_VALID i) = s.ifc.psiGot.contains i ∧
      t.ifc.psiGot.contains i = false ∧
      tabGet (fun _ => 0) t.ifc.psiMiss i = (if s.ifc.psiGot.contains i then 0 else min 15 (tabGet (fun _ => 0) s.ifc.psiMiss i + 1)))
  ∧ (∀ (s : State) (n : Fin 2), (s.psiRuns n = false ∨ s.now % s.psiPeriod n ≠ 0) → exec (.psi5SyncPulse n) s = .next s)
  ∧ (∀ (s : State) (n : Fin 2) (k : Fin 4) (data age : Nat), s.psiRuns n = true → (s.psiSlots n).contains (4 * n.val + k.val) = true →
    s.rdB pgPSI (Reg.PSI.SLOT_SLOT_EN (4 * n + k)) = false →
    ∃ t, exec (.psi5Frame n k true data age) s = .next t ∧
      t.rd pgPSI (Reg.PSI.DATA_DATA (4 * n + k)) = data % 2 ^ clampNat 10 28 (s.rd pgPSI (Reg.PSI.SLOT_BITS (4 * n + k))) ∧
      t.rdB pgPSI (Reg.PSI.DATA_VALID (4 * n + k)) = true ∧ t.rd pgPSI (Reg.PSI.AT_L_STAMP (4 * n + k)) = s.ago age % 2 ^ 32 ∧
      t.ifc.psiGot.contains (4 * n.val + k.val) = true ∧ t.mem = s.mem)
  ∧ (∀ (s : State) (n : Fin 2) (k : Fin 4) (data age : Nat), s.psiRuns n = true → (s.psiSlots n).contains (4 * n.val + k.val) = true →
    s.coll.stopped = false →
    ∃ t, exec (.psi5Frame n k false data age) s = .next t ∧ t.ifc = s.ifc ∧
      t.rd pgPSI (Reg.PSI.ERR_CNT_COUNT n) = counted (s.rd pgPSI (Reg.PSI.ERR_CNT_COUNT n)) ∧
      (s.rd pgPSI (Reg.PSI.ERR_CNT_COUNT n) = 0 → ReportedAt t .c 0xB9 pgPSI (4 * n + k) none))
  ∧ (∀ (s : State) (n : Fin 2) (k : Fin 4), s.psiRuns n = true → (s.psiSlots n).contains (4 * n.val + k.val) = true →
    s.ifc.psiLogged.contains (4 * n.val + k.val) = false →
    max 1 (s.rd pgPSI Reg.PSI.MISS_N_N) ≤ tabGet (fun _ => 0) s.ifc.psiMiss (4 * n + k) → s.coll.stopped = false →
    ∃ t, exec (.psi5SlotMissing n k) s = .next t ∧ ReportedAt t .u 0xBA pgPSI (4 * n + k) none ∧
      t.ifc.psiLogged.contains (4 * n.val + k.val) = true ∧ Touches [.coll, .ifc] s t)
  ∧ (∀ (s : State) (n : Fin 2) (k : Fin 4), s.ifc.psiLogged.contains (4 * n.val + k.val) = true →
    exec (.psi5SlotMissing n k) s = .next s)
  ∧ (∀ (s : State) (page : Fin 256) (off : Fin 4096) (idx : Fin 1024), (ringIndexes page).contains off.val = true →
    ∃ t, exec (.ringHeadWrite page off idx) s = .next t ∧ t.word page off = BitVec.ofNat 32 idx.val ∧
      Changes [] [regKey page off] s t)
  ∧ (∀ (s : State), s.inService pdSPI = true → s.ifc.spi = none → s.ringEmpty pgSPI 0x110 = false → s.rd pgSPI Reg.SPI.CFG_WORD < 3 →
    ∀ a, some (s.ringEntry pgSPI 0x110 16 (s.ringTail pgSPI 0x110)) = some a →
    (s.spiCause (s.mword a).toNat (s.mword (a + 4)).toNat (bitsAt (s.mword (a + 8)) 0 13) (bitsAt (s.mword (a + 8)) 13 1)).1 = 0 →
    ∃ t, exec .spiEntryStart s = .next t ∧ t.mem = s.mem ∧ t.rdB pgSPI Reg.SPI.XSTAT_BUSY = true ∧
      t.ifc.spi = some { idx := s.ringTail pgSPI 0x110, rx := (s.mword (a + 4)).toNat, len := bitsAt (s.mword (a + 8)) 0 13
                         cs := bitsAt (s.mword (a + 8)) 13 1, keep := bitsAt (s.mword (a + 8)) 14 1 == 1
                         irq := bitsAt (s.mword (a + 8)) 15 1 == 1
                         at0 := stampAdd s.now (max 1 (s.rd pgSPI Reg.SPI.TIME_SETUP) * s.spiHalf) })
  ∧ (∀ (s : State), s.inService pdSPI = true → s.ifc.spi = none → s.ringEmpty pgSPI 0x110 = false → s.rd pgSPI Reg.SPI.CFG_WORD < 3 →
    s.coll.stopped = false → ∀ a, some (s.ringEntry pgSPI 0x110 16 (s.ringTail pgSPI 0x110)) = some a → inAppSram a 16 = true →
    ∀ c, some (s.spiCause (s.mword a).toNat (s.mword (a + 4)).toNat (bitsAt (s.mword (a + 8)) 0 13)
      (bitsAt (s.mword (a + 8)) 13 1)).1 = some c → c ≠ 0 →
    ∃ t, exec .spiEntryStart s = .next t ∧ t.ifc.spi = none ∧ bitsAt (t.mword (a + 8)) 26 3 = c ∧ bitsAt (t.mword (a + 8)) 30 2 = 3 ∧
      bitsAt (t.mword (a + 8)) 0 26 = bitsAt (s.mword (a + 8)) 0 26 ∧ OnlyBytes (a + 8) 8 s t ∧
      t.ringTail pgSPI 0x110 = s.ringNext pgSPI 0x110 (s.ringTail pgSPI 0x110) % 1024 ∧
      t.rd pgSPI Reg.SPI.ERR_CNT_COUNT = counted (s.rd pgSPI Reg.SPI.ERR_CNT_COUNT) ∧
      (s.rd pgSPI Reg.SPI.ERR_CNT_COUNT = 0 → ReportedAt t .c 0xBF pgSPI c none))
  ∧ (∀ (s : State), (s.inService pdSPI = false ∨ s.ifc.spi.isSome = true ∨ s.ringEmpty pgSPI 0x110 = true) →
    exec .spiEntryStart s = .next s)
  ∧ (∀ (s : State) (rx : List Byte), ∀ e, s.ifc.spi = some e → ∀ a, some (s.ringEntry pgSPI 0x110 16 e.idx) = some a →
    inAppSram a 16 = true → (e.rx = 0 ∨ (inAppSram e.rx e.len = true ∧ (e.rx + e.len ≤ a ∨ a + 16 ≤ e.rx))) → e.len ≤ rx.length →
    ∃ t, exec (.spiEntryComplete rx) s = .next t ∧ t.ifc.spi = none ∧ t.rdB pgSPI Reg.SPI.XSTAT_BUSY = false ∧
      (e.rx ≠ 0 → ∀ i, i < e.len → t.byte (e.rx + i) = rx.getD i 0) ∧ bitsAt (t.mword (a + 8)) 26 3 = 0 ∧
      bitsAt (t.mword (a + 8)) 30 2 = 2 ∧ t.mword (a + 12) = BitVec.ofNat 32 e.at0 ∧
      t.ifc.spiHeld = (if e.keep then some e.cs else none) ∧ (e.irq = true → t.ifc.appIrq.contains pgSPI = true))
  ∧ (∀ (s : State) (bits : Word),
    (∃ t, exec (.gpioSet bits) s = .next t ∧ t.word pgGPIO 0x104 = s.word pgGPIO 0x104 ||| bits ∧
      Changes [] [regKey pgGPIO 0x104] s t) ∧
    (∃ t, exec (.gpioClear bits) s = .next t ∧ t.word pgGPIO 0x104 = s.word pgGPIO 0x104 &&& ~~~bits ∧
      Changes [] [regKey pgGPIO 0x104] s t))
  ∧ (∀ (s : State) (k : Fin 32) (high : Bool), bitsAt (s.word pgGPIO 0x110) k 1 ≠ bit high →
    ∃ t, exec (.gpioEdge k high) s = .next t ∧ bitsAt (t.word pgGPIO 0x110) k 1 = bit high ∧
      (bitsAt (s.word pgGPIO (if high then 0x114 else 0x118)) k 1 = 1 →
        bitsAt (t.word pgGPIO 0x11C) k 1 = 1 ∧ t.ifc.appIrq.contains pgGPIO = true ∧
        bitOf (t.rd pgSUP Reg.SUP.AGR_EVT_EVT) 9 = true) ∧
      (bitsAt (s.word pgGPIO (if high then 0x114 else 0x118)) k 1 = 0 → Changes [] [regKey pgGPIO 0x110] s t))
  ∧ (∀ (s : State) (k : Fin 32) (high : Bool), bitsAt (s.word pgGPIO 0x110) k 1 = bit high →
    exec (.gpioEdge k high) s = .next s)

/-- The Ryuger link (R437 to R444, R516, R517): SYNC frames of the master, frames received, symbol and time lock, and the two
command channels. Which of several waiting frames is on the line is the model's choice of log entry 35. Where the spec leaves a point open, the model's
choice stands in log entry 94. -/
def Obligations.RyugerLink : Prop :=
  (∀ (s : State), s.synRuns = true → s.inService pdSYN = true → s.synMaster = true → s.now % s.synInterval = 0 →
    s.syn.awaited = false →
    ∃ t, exec .ryugerSyncTransmit s = .next t ∧
      t.syn = { s.syn with awaited := true, out := withCrc ([BitVec.ofNat 8 (s.synPos * 16), 0] ++ bytesOf 8 s.now) } ∧ t.now = s.now)
  ∧ (∀ (s : State), s.synRuns = true → s.inService pdSYN = true → s.synMaster = true → s.now % s.synInterval = 0 →
    s.syn.awaited = true → s.syn.ringBad = 2 → s.coll.stopped = false →
    ∃ t, exec .ryugerSyncTransmit s = .next t ∧ Reported t .u 0xBD pgSYN ∧ t.rdB pgSYN Reg.SYN.STAT_RING = false ∧ t.syn.ringBad = 3)
  ∧ (∀ (s : State), (s.synRuns = false ∨ s.synMaster = false ∨ s.now % s.synInterval ≠ 0) → exec .ryugerSyncTransmit s = .next s)
  ∧ (∀ (s : State) (frame : List Byte) (bad : Bool) (age : Nat) (frac : Fin 20) (step : Bool), s.synRuns = true → s.synLocked = true →
    (bad = true ∨ withCrc (frame.take (frame.length - 2)) ≠ frame) → s.coll.stopped = false →
    ∃ t, exec (.ryugerFrameReceive frame bad age frac step) s = .next t ∧ t.syn = s.syn ∧ t.now = s.now ∧
      t.rd pgSYN Reg.SYN.FRAME_ERR_COUNT = counted (s.rd pgSYN Reg.SYN.FRAME_ERR_COUNT) ∧
      (s.rd pgSYN Reg.SYN.FRAME_ERR_COUNT = 0 → Reported t .c 0xBE pgSYN))
  ∧ (∀ (s : State) (frame : List Byte) (bad : Bool) (age : Nat) (frac : Fin 20) (step : Bool),
    (s.synRuns = false ∨ s.synLocked = false) → exec (.ryugerFrameReceive frame bad age frac step) s = .next s)
  ∧ (∀ (s : State) (src hop : Fin 4) (stamp : Nat) (age : Nat) (frac : Fin 20) (step : Bool), s.synRuns = true → s.synLocked = true →
    src.val ≠ s.synPos → hop.val < s.synNdev - 1 → s.synMaster = false → (step = false ∨ s.mayStep = false) →
    ∃ t, exec (.ryugerFrameReceive (withCrc ([BitVec.ofNat 8 (16 * src + 4 * hop), 0] ++ bytesOf 8 stamp)) false age frac step) s =
        .next t ∧ t.now = s.now ∧
      t.syn.out = withCrc ([BitVec.ofNat 8 (16 * src + 4 * (hop + 1)), 0] ++ bytesOf 8 s.now) ∧ t.syn.lastSync = s.now ∧
      t.rd pgSYN Reg.SYN.STAT_OFFSET = unsignedOf (clampInt (-0x7FFFFF) 0x7FFFFF
        ((s.synOffset (stamp % 2 ^ 64) (20 * s.ago age + frac)).tdiv 25)) 24)
  ∧ (∀ (s : State) (src hop : Fin 4) (stamp : Nat) (age : Nat) (frac : Fin 20), s.synRuns = true → s.synLocked = true →
    src.val ≠ s.synPos → hop.val < s.synNdev - 1 → s.synMaster = false → s.coll.stopped = false →
    ∀ e, some (s.synOffset (stamp % 2 ^ 64) (20 * s.ago age + frac)) = some e →
    (s.rdB pgSYN Reg.SYN.STAT_LOCK = false → s.syn.good = 7 → e.natAbs ≤ 320 →
      ∃ t, exec (.ryugerFrameReceive (withCrc ([BitVec.ofNat 8 (16 * src + 4 * hop), 0] ++ bytesOf 8 stamp)) false age frac false) s =
          .next t ∧ t.rdB pgSYN Reg.SYN.STAT_LOCK = true ∧ Reported t .c 0xBC pgSYN) ∧
    (s.rdB pgSYN Reg.SYN.STAT_LOCK = true → s.syn.bad = 1 → 640 < e.natAbs →
      ∃ t, exec (.ryugerFrameReceive (withCrc ([BitVec.ofNat 8 (16 * src + 4 * hop), 0] ++ bytesOf 8 stamp)) false age frac false) s =
          .next t ∧ t.rdB pgSYN Reg.SYN.STAT_LOCK = false ∧ Reported t .u 0xBB pgSYN))
  ∧ (∀ (s : State) (src hop : Fin 4) (dst seq : Fin 256) (ch : Fin 2) (data : List Byte) (age : Nat) (frac : Fin 20) (step : Bool),
    s.synRuns = true → s.synLocked = true → src.val ≠ s.synPos → hop.val < s.synNdev - 1 → 1 ≤ data.length → data.length ≤ 32 →
    bitOf (dst / 16) s.synPos = true → s.coll.stopped = false → ∀ c, some (s.synChan ch) = some c →
    (c.rx.length < 8 → ∃ t, exec (.ryugerFrameReceive (withCrc ([BitVec.ofNat 8 (64 * (1 + ch) + 16 * src + 4 * hop), BitVec.ofNat 8 dst,
        BitVec.ofNat 8 data.length, BitVec.ofNat 8 seq] ++ data)) false age frac step) s = .next t ∧
      (t.synChan ch).rx = c.rx ++ [{ src := src, seq := seq, data := data, stamp := s.ago age }] ∧
      t.syn.out = withCrc ([BitVec.ofNat 8 (64 * (1 + ch) + 16 * src + 4 * (hop + 1)), BitVec.ofNat 8 (withBit dst s.synPos true),
        BitVec.ofNat 8 data.length, BitVec.ofNat 8 seq] ++ data) ∧
      (ch = 0 → bitOf (t.rd pgSUP Reg.SUP.AGR_EVT_EVT) 2 = true) ∧ (ch = 1 → t.ifc.appIrq.contains pgSYN = true)) ∧
    (8 ≤ c.rx.length → ∃ t, exec (.ryugerFrameReceive (withCrc ([BitVec.ofNat 8 (64 * (1 + ch) + 16 * src + 4 * hop), BitVec.ofNat 8 dst,
        BitVec.ofNat 8 data.length, BitVec.ofNat 8 seq] ++ data)) false age frac step) s = .next t ∧
      (t.synChan ch).rx = c.rx ∧ Reported t .c 0xBE pgSYN ∧
      t.syn.out = withCrc ([BitVec.ofNat 8 (64 * (1 + ch) + 16 * src + 4 * (hop + 1)), BitVec.ofNat 8 dst,
        BitVec.ofNat 8 data.length, BitVec.ofNat 8 seq] ++ data)))
  ∧ (∀ (s : State) (ack seq : Fin 256) (ch : Fin 2) (data : List Byte) (age : Nat) (frac : Fin 20) (step : Bool),
    s.synRuns = true → s.synLocked = true → 1 ≤ data.length → data.length ≤ 32 → s.synPos < 4 →
    ∀ f, (s.synChan ch).flight = some f → f.1.seq = seq → (s.synChan ch).queue = [] →
    ∃ t, exec (.ryugerFrameReceive (withCrc ([BitVec.ofNat 8 (64 * (1 + ch) + 16 * s.synPos), BitVec.ofNat 8 ack,
        BitVec.ofNat 8 data.length, BitVec.ofNat 8 seq] ++ data)) false age frac step) s = .next t ∧
      (t.synChan ch).flight = none ∧ bitsAt (t.word pgSYN (synStatOff ch)) 0 8 = seq ∧
      bitsAt (t.word pgSYN (synStatOff ch)) 8 4 = ack % 16 ∧ bitsAt (t.word pgSYN (synStatOff ch)) 12 1 = 0)
  ∧ (∀ (s : State), s.carries pdSYN = true → ∃ t, exec (.symbolLockChange true) s = .next t ∧ t.rdB pgSYN Reg.SYN.STAT_SYM_LOCK = true)
  ∧ (∀ (s : State), ∃ t, exec (.symbolLockChange false) s = .next t ∧ t.rdB pgSYN Reg.SYN.STAT_SYM_LOCK = false ∧
      Changes [] [fieldKey pgSYN Reg.SYN.STAT_SYM_LOCK] s t)
  ∧ (∀ (s : State), s.synRuns = true → s.synMaster = false → s.rdB pgSYN Reg.SYN.STAT_LOCK = true →
    s.passed s.syn.lastSync (3 * s.synInterval) = true → s.coll.stopped = false →
    ∃ t, exec .syncTimeout s = .next t ∧ t.rdB pgSYN Reg.SYN.STAT_LOCK = false ∧ Reported t .u 0xBB pgSYN ∧
      t.syn = { s.syn with good := 0, bad := 0 } ∧ Changes [.coll, .syn] [fieldKey pgSYN Reg.SYN.STAT_LOCK] s t)
  ∧ (∀ (s : State), (s.synMaster = true ∨ s.rdB pgSYN Reg.SYN.STAT_LOCK = false) → exec .syncTimeout s = .next s)
  ∧ (∀ (s : State) (dst : Fin 16) (len : Fin 64), 1 ≤ len.val → len.val ≤ 32 →
    (s.supRuns = true → s.syn.sup.queue.length < 4 → s.syn.sup.flight.isSome = true →
      ∃ t, exec (.ryugerSupervisorSend dst len) s = .next t ∧
        t.syn = { s.syn with sup := { s.syn.sup with
          seq := (s.syn.sup.seq + 1) % 256
          queue := s.syn.sup.queue ++ [{ dst := dst, seq := s.syn.sup.seq
                                         data := (List.range len).map fun k => byteOfWord (s.word pgSYN (0x700 + k / 4 * 4)) (3 - k % 4) }] } } ∧
        bitsAt (t.word pgSYN 0x108) 13 3 = s.syn.sup.queue.length + 1 ∧ Changes [.syn] [regKey pgSYN 0x108] s t) ∧
    (s.syn.app.queue.length < 4 → s.syn.app.flight.isSome = true →
      ∃ t, exec (.ryugerApplicationSend dst len) s = .next t ∧
        t.syn = { s.syn with app := { s.syn.app with
          seq := (s.syn.app.seq + 1) % 256
          queue := s.syn.app.queue ++ [{ dst := dst, seq := s.syn.app.seq
                                         data := (List.range len).map fun k => byteOfWord (s.word pgSYN (0x740 + k / 4 * 4)) (3 - k % 4) }] } } ∧
        bitsAt (t.word pgSYN 0x10C) 13 3 = s.syn.app.queue.length + 1 ∧ Changes [.syn] [regKey pgSYN 0x10C] s t))
  ∧ (∀ (s : State) (dst : Fin 16) (len : Fin 64), s.synRuns = true → s.inService pdSYN = true → s.synLocked = true →
    1 ≤ len.val → len.val ≤ 32 → s.syn.app.queue = [] → s.syn.app.flight = none →
    ∃ t, exec (.ryugerApplicationSend dst len) s = .next t ∧ t.syn.app.queue = [] ∧
      (∀ d, some ((List.range len).map fun k => byteOfWord (s.word pgSYN (0x740 + k / 4 * 4)) (3 - k % 4)) = some d →
        t.syn.app.flight = some ({ dst := dst, seq := s.syn.app.seq, data := d }, s.now) ∧
        t.syn.out = withCrc ([BitVec.ofNat 8 (2 * 64 + s.synPos * 16), BitVec.ofNat 8 (16 * dst), BitVec.ofNat 8 len,
          BitVec.ofNat 8 s.syn.app.seq] ++ d)))
  ∧ (∀ (s : State) (dst : Fin 16) (len : Fin 64), (len.val = 0 ∨ 32 < len.val ∨ 4 ≤ s.syn.app.queue.length) →
    ∃ t, exec (.ryugerApplicationSend dst len) s = .next t ∧ bitsAt (t.word pgSYN 0x10C) 16 1 = 1 ∧ t.syn = s.syn ∧
      Changes [] [regKey pgSYN 0x10C] s t)
  ∧ (∀ (s : State) (dst : Fin 16) (len : Fin 64), s.supRuns = false → exec (.ryugerSupervisorSend dst len) s = .next s)
  ∧ (∀ (s : State) (ch : Fin 2), ∀ c, some (s.synChan ch) = some c →
    ∃ t, exec (.ryugerRxPop ch) s = .next t ∧ t.synChan ch = { c with rx := c.rx.tail } ∧ t.synChan (1 - ch) = s.synChan (1 - ch) ∧
      (c.rx.length ≤ 8 → (c.rx.all fun f => decide (f.src < 4 ∧ f.seq < 256 ∧ f.data.length ≤ 32)) = true →
        bitsAt (t.word pgSYN (synRxOff ch + 0x20)) 31 1 = bit (decide (2 ≤ c.rx.length)) ∧
        bitsAt (t.word pgSYN (synRxOff ch + 0x20)) 24 4 = c.rx.length - 1))
  ∧ (∀ (s : State) (ch : Fin 2), ∀ f, (s.synChan ch).flight = some f → s.passed f.2 16000 = true → (s.synChan ch).queue = [] →
    ∃ t, exec (.ryugerFrameLost ch) s = .next t ∧ (t.synChan ch).flight = none ∧
      bitsAt (t.word pgSYN (synStatOff ch)) 0 8 = f.1.seq % 256 ∧ bitsAt (t.word pgSYN (synStatOff ch)) 12 1 = 1)
  ∧ (∀ (s : State) (ch : Fin 2), (s.synChan ch).flight = none → exec (.ryugerFrameLost ch) s = .next s)

/-- The security engine, the lifecycle and the debug port (R450, R454 to R467, R474 to R477). What hashing and signatures yield is an
operand of the request's completion (log entry 96). Where the spec leaves a point open, the model's
choice stands in log entries 97 and 98. -/
def Obligations.SecurityAndDebug : Prop :=
  (∀ (s : State), s.polderSt pdSecurity ≠ .failed → s.rdB pgDBG Reg.DBG.STAT_LOCKOUT = false →
    ∃ t, exec .secUnlockToken s = .next t ∧ t.rdB pgDBG Reg.DBG.STAT_BUSY = true ∧
      t.sec = { s.sec with queue := s.sec.queue ++ [{ kind := .unlock, token := s.bufferToken }] } ∧
      Changes [.sec] [fieldKey pgDBG Reg.DBG.STAT_BUSY] s t)
  ∧ (∀ (s : State), s.rdB pgDBG Reg.DBG.STAT_LOCKOUT = true → s.coll.stopped = false →
    ∃ t, exec .secUnlockToken s = .next t ∧ t.rd pgSEC Reg.SEC.STAT_RESULT = 8 ∧ Reported t .u 0xC3 pgDBG ∧ t.sec = s.sec)
  ∧ (∀ (s : State), s.polderSt pdSecurity ≠ .failed →
    ∃ t, exec .secLifecycleToken s = .next t ∧
      t.sec = { s.sec with queue := s.sec.queue ++ [{ kind := .lifecycle, token := s.bufferToken }] } ∧ Touches [.sec] s t)
  ∧ (∀ (s : State), s.polderSt pdSecurity ≠ .failed →
    (∀ a, s.sec.attestAt = some a → s.passed a (msTicks (s.rd pgSEC Reg.SEC.ATT_GAP_MS)) = true) →
    s.rd pgSEC Reg.SEC.LMS_REMAIN_COUNT ≠ 0 → (s.lifecycle = 1 ∨ s.lifecycle = 2 ∨ s.lifecycle = 4) →
    ∃ t, exec .secAttest s = .next t ∧
      t.sec = { s.sec with queue := s.sec.queue ++ [{ kind := .attest }], attestAt := some s.now } ∧ Touches [.sec] s t)
  ∧ (∀ (s : State), s.polderSt pdSecurity ≠ .failed → s.coll.stopped = false → ∀ a, s.sec.attestAt = some a →
    s.passed a (msTicks (s.rd pgSEC Reg.SEC.ATT_GAP_MS)) = false →
    ∃ t, exec .secAttest s = .next t ∧ t.rd pgSEC Reg.SEC.STAT_RESULT = 9 ∧ Reported t .c 0xCE pgSEC ∧
      Changes [.coll] [fieldKey pgSEC Reg.SEC.STAT_RESULT] s t)
  ∧ (∀ (s : State) (cls : Fin 8) (value : Fin 128), s.supRuns = true → s.polderSt pdSecurity ≠ .failed → cls.val ≤ 4 →
    s.rd pgSEC (Reg.SEC.ARB_VALUE cls) ≤ value → ∀ v, s.verifiedSvn cls = some v →
    (value.val ≤ v → ∃ t, exec (.secAdvanceCounter true cls value) s = .next t ∧
      t.sec = { s.sec with queue := s.sec.queue ++ [{ kind := .advance, cls := cls, value := value }] } ∧ Touches [.sec] s t) ∧
    (v < value.val → s.coll.stopped = false → ∃ t, exec (.secAdvanceCounter true cls value) s = .next t ∧ Reported t .c 0xC8 pgSEC ∧
      t.rd pgSEC Reg.SEC.STAT_RESULT = 8 ∧ t.sec = s.sec))
  ∧ (∀ (s : State) (cls : Fin 8) (value : Fin 128), s.coll.stopped = false →
    ∃ t, exec (.secAdvanceCounter false cls value) s = .next t ∧ Reported t .c 0xC8 pgSEC ∧ Touches [.coll] s t)
  ∧ (∀ (s : State), s.polderSt pdSecurity ≠ .failed → s.sec.run = none → s.sec.queue ≠ [] →
    ∃ t, exec .secRequestStart s = .next t ∧ t.rdB pgSEC Reg.SEC.STAT_BUSY = true ∧
      Changes [.sec] [fieldKey pgSEC Reg.SEC.STAT_BUSY] s t ∧
      ∃ r ∈ s.sec.queue, (∀ q ∈ s.sec.queue, secRank r.kind ≤ secRank q.kind) ∧
        t.sec = { s.sec with queue := s.sec.queue.erase r, run := some r })
  ∧ (∀ (s : State), (s.sec.run.isSome = true ∨ s.sec.queue = []) → exec .secRequestStart s = .next s)
  ∧ (∀ (s : State) (f : SecFacts), s.coll.stopped = false → ∀ r, s.sec.run = some r → r.kind = .unlock →
    ((s.verify r.token 0x1000 f = 0 ∧ pkgClass r.token = 5 ∧
        s.unlockAllowed (pkgFlags r.token / 2 % 4) (bitOf (pkgFlags r.token) 3) = true) →
      ∃ t, exec (.secRequestComplete f) s = .next t ∧ t.rd pgSEC Reg.SEC.STAT_RESULT = 1 ∧ t.sec.run = none ∧
        t.rd pgDBG Reg.DBG.LEVEL_LEVEL = max s.debugLevel (if s.lifecycle = 0 then 0 else pkgFlags r.token / 2 % 4) ∧
        ReportedAt t .c 0xC2 pgDBG (pkgFlags r.token / 2 % 4) none ∧ t.rdB pgDBG Reg.DBG.STAT_BUSY = false ∧
        (bitOf (pkgFlags r.token) 3 = true → t.rdB pgDBG Reg.DBG.STAT_TEST = true ∧ t.rdB pgFLT Reg.FLT.INJ_STAT_ARMED = true)) ∧
    ((s.verify r.token 0x1000 f ≠ 0 ∨ pkgClass r.token ≠ 5) →
      ∃ t, exec (.secRequestComplete f) s = .next t ∧ t.sec.run = none ∧ t.debugLevel = s.debugLevel ∧ Reported t .u 0xC3 pgDBG ∧
        t.rd pgDBG Reg.DBG.STAT_FAILS = min 3 (s.rd pgDBG Reg.DBG.STAT_FAILS + 1) ∧
        (s.rd pgDBG Reg.DBG.STAT_FAILS = 2 → t.rdB pgDBG Reg.DBG.STAT_LOCKOUT = true ∧
          (s.rdB pgDBG Reg.DBG.STAT_LOCKOUT = false → Reported t .u 0xC4 pgDBG))))
  ∧ (∀ (s : State) (f : SecFacts), s.coll.stopped = false → ∀ r, s.sec.run = some r → r.kind = .lifecycle →
    s.verify r.token 0x1000 f = 0 → pkgClass r.token = 6 →
    (s.lifecycleAllowed f.target = true → f.target < 8 → (f.target ≠ 3 ∨ s.sec.rmaOwner = true) →
      ∃ t, exec (.secRequestComplete f) s = .next t ∧ t.rd pgSEC Reg.SEC.LC_PEND = f.target ∧ t.lifecycle = s.lifecycle ∧
        ReportedAt t .c 0xC5 pgSEC f.target none ∧ t.rd pgSEC Reg.SEC.STAT_RESULT = 1) ∧
    (s.lifecycleAllowed f.target = true → 8 ≤ f.target →
      ∃ t, exec (.secRequestComplete f) s = .next t ∧ bitOf (t.rd pgSEC Reg.SEC.ROOT_REVOKED) (f.target - 8) = true ∧
        ReportedAt t .c 0xC5 pgSEC (f.target - 8) none) ∧
    (s.lifecycleAllowed f.target = false →
      ∃ t, exec (.secRequestComplete f) s = .next t ∧ Reported t .u 0xC6 pgSEC ∧ t.rd pgSEC Reg.SEC.STAT_RESULT = 8 ∧
        t.rd pgSEC Reg.SEC.LC_PEND = s.rd pgSEC Reg.SEC.LC_PEND))
  ∧ (∀ (s : State) (f : SecFacts), s.coll.stopped = false → ∀ r, s.sec.run = some r → r.kind = .advance → r.cls ≤ 4 → r.value < 128 →
    ∃ t, exec (.secRequestComplete f) s = .next t ∧ t.rd pgSEC (Reg.SEC.ARB_VALUE r.cls) = r.value ∧ t.sec = { s.sec with run := none } ∧
      ReportedAt t .c 0xC7 pgSEC r.cls none ∧ t.rdB pgSEC Reg.SEC.STAT_BUSY = false ∧ t.rd pgSEC Reg.SEC.STAT_RESULT = 1)
  ∧ (∀ (s : State) (f : SecFacts), s.sec.run = none → exec (.secRequestComplete f) s = .next s)
  ∧ (∀ (s : State), s.tapReach true = true →
    (∃ t, exec .tapIdcode s = .next t ∧ t.answer = Config.idcode ∧ t.dbg = { s.dbg with tap := .idcode, driving := false } ∧
      Touches [.dbg, .answer] s t) ∧
    (∀ (k : Fin 4), ∃ t, exec (.tapChal k) s = .next t ∧ t.answer = s.word pgDBG (0x110 + 4 * k) ∧
      t.dbg = { s.dbg with tap := .chal, driving := false } ∧ Touches [.dbg, .answer] s t))
  ∧ (∀ (s : State) (token : List Word), s.tapReach false = true → s.rdB pgDBG Reg.DBG.STAT_LOCKOUT = false →
    s.polderSt pdSecurity ≠ .failed →
    (∃ t, exec .tapBypass s = .next t ∧ t.dbg = { s.dbg with tap := .bypass, driving := false } ∧ Touches [.dbg] s t) ∧
    (∃ t, exec (.tapUnlock token) s = .next t ∧ t.dbg = { s.dbg with tap := .unlock, driving := false } ∧
      t.sec = { s.sec with queue := s.sec.queue ++ [{ kind := .unlock, token := token.take 5 }] } ∧
      t.rdB pgDBG Reg.DBG.STAT_BUSY = true ∧ Changes [.dbg, .sec] [fieldKey pgDBG Reg.DBG.STAT_BUSY] s t))
  ∧ (∀ (s : State) (bits : Nat), s.scanAllowed = true →
    (∃ t, exec (.tapExtest bits) s = .next t ∧ t.dbg = { s.dbg with tap := .extest, driving := true, scan := bits } ∧ Touches [.dbg] s t) ∧
    (∃ t, exec (.tapSample bits) s = .next t ∧ t.dbg = { s.dbg with tap := .sample, driving := false, scan := bits } ∧ Touches [.dbg] s t))
  ∧ (∀ (s : State) (bits : Nat), (s.debugLevel ≠ 2 ∨ s.lifecycle = 1 ∨ s.lifecycle = 2) →
    exec (.tapExtest bits) s = .next s ∧ exec (.tapSample bits) s = .next s)
  ∧ (∀ (s : State) (level : Fin 4), level.val < s.debugLevel →
    ∃ t, exec (.debugLevelLower level) s = .next t ∧ t.debugLevel = level ∧ t.rdB pgDBG Reg.DBG.STAT_FORCED = false ∧
      t.sup.halted = false ∧ t.dbg.appHalted = [] ∧ (∀ l, l < 64 → (t.loop l).held467 = false) ∧
      Changes [.sup, .dbg, .loops] [fieldKey pgDBG Reg.DBG.LEVEL_LEVEL, fieldKey pgDBG Reg.DBG.STAT_FORCED] s t)
  ∧ (∀ (s : State) (level : Fin 4), s.debugLevel ≤ level → exec (.debugLevelLower level) s = .next s)
  ∧ (∀ (s : State) (l : Fin 64), s.rdB pgDBG Reg.DBG.STAT_LE = true →
    (1 ≤ s.debugLevel → (s.loop l).placed = true → ∃ t, exec (.leDebugSnapshot l) s = .next t ∧
      (t.eng (s.loop l).engine) = { s.eng (s.loop l).engine with snapLoop := some l.val } ∧ Touches [.engines] s t) ∧
    (s.debugLevel = 2 → s.drivesActiveStage l = false → ∃ t, exec (.leDebugHold l true) s = .next t ∧
      t.loop l = { s.loop l with held467 := true } ∧ (∀ k, k ≠ l.val → t.loop k = s.loop k) ∧ Touches [.loops] s t) ∧
    (s.drivesActiveStage l = true → exec (.leDebugHold l true) s = .next s) ∧
    (s.debugLevel = 2 → ∃ t, exec (.leDebugHold l false) s = .next t ∧
      t.loop l = { s.loop l with held467 := false } ∧ (∀ k, k ≠ l.val → t.loop k = s.loop k) ∧ Touches [.loops] s t))
  ∧ (∀ (s : State) (l : Fin 64) (on : Bool), (s.rdB pgDBG Reg.DBG.STAT_LE = false ∨ s.debugLevel = 0) →
    exec (.leDebugSnapshot l) s = .next s ∧ exec (.leDebugHold l on) s = .next s)
  ∧ (∀ (s : State) (m : Fin 6), s.moduleReach m = true →
    ∃ t, exec (.debugSessionStart m) s = .next t ∧ t.debugActive = true ∧
      (m.val < 5 → bitOf (t.rd pgDBG Reg.DBG.STAT_SESS) m = true) ∧ (m.val = 5 → t.rdB pgDBG Reg.DBG.STAT_LE = true) ∧
      (s.debugActive = false → s.coll.stopped = false → Reported t .c 0xCC pgDBG) ∧
      (s.debugActive = true → t.coll = s.coll) ∧
      Changes [.coll] [fieldKey pgDBG Reg.DBG.STAT_SESS, fieldKey pgDBG Reg.DBG.STAT_LE] s t)
  ∧ (∀ (s : State) (m : Fin 6), s.moduleReach m = false → exec (.debugSessionStart m) s = .next s)
  ∧ (∀ (s : State) (m : Fin 6), s.dbg.policyDue = none →
    ∃ t, exec (.debugSessionEnd m) s = .next t ∧ (m.val < 5 → bitOf (t.rd pgDBG Reg.DBG.STAT_SESS) m = false) ∧
      (m.val = 5 → t.rdB pgDBG Reg.DBG.STAT_LE = false) ∧
      Changes [] [fieldKey pgDBG Reg.DBG.STAT_SESS, fieldKey pgDBG Reg.DBG.STAT_LE] s t)
  ∧ (∀ (s : State) (m : Fin 5), s.mayDebug m = true → s.supModule m = true →
    ∃ t, exec (.debugResume m false) s = .next t ∧ t.sup = { s.sup with halted := false } ∧ Touches [.sup] s t)
  ∧ (∀ (s : State) (m : Fin 5), s.mayDebug m = true → s.supModule m = false →
    ∃ t, exec (.debugResume m false) s = .next t ∧ t.dbg.appHalted = s.dbg.appHalted.filter (· ≠ m.val) ∧ Touches [.dbg] s t)
  ∧ (∀ (s : State) (m : Fin 5) (step : Bool), s.mayDebug m = false → exec (.debugResume m step) s = .next s)

/-- Power requests: which are accepted, which are refused and with what reason, and what the state reached is (R468 to R471,
R476, R504). Where the spec leaves a point open, the model's
choice stands in log entry 99. -/
def Obligations.PowerRequests : Prop :=
  (∀ (s : State), s.pwr.inReset = false → s.pwr.target = none → s.powerState = 1 →
    ∃ t, exec .powerRequestRun s = .next t ∧ t.pwr = { s.pwr with target := some 0 } ∧
      t.rdB pgPWR Reg.PWR.STAT_ABORT = false ∧ Changes [.pwr] [fieldKey pgPWR Reg.PWR.STAT_ABORT] s t)
  ∧ (∀ (s : State), s.pwr.inReset = false → s.pwr.target = none → s.powerState = 0 →
    (∀ st, st < 10 → s.stageOff st = true) →
    ∃ t, exec .powerRequestStandby s = .next t ∧ t.pwr = { s.pwr with target := some 1 })
  ∧ (∀ (s : State) (st : Nat), s.pwr.inReset = false → s.pwr.target = none → s.powerState = 0 → s.coll.stopped = false →
    st < 10 → s.stageOff st = false →
    ∃ t, exec .powerRequestStandby s = .next t ∧ t.pwr = s.pwr ∧ t.rd pgPWR Reg.PWR.STAT_REFUSE = 1 ∧
      Reported t .c 0xDB pgPWR ∧ bitOf (t.rd pgSUP Reg.SUP.AGR_EVT_EVT) 8 = true)
  ∧ (∀ (s : State), s.pwr.inReset = false → s.pwr.target = none → s.powerState = 1 → s.debugActive = false →
    s.stoOpen = true → s.rdB pgMEM Reg.MEM.MRAM_STAT_UPD = false → s.sec.run = none →
    ∃ t, exec .powerRequestSleep s = .next t ∧ t.pwr = { s.pwr with target := some 2 })
  ∧ (∀ (s : State), s.pwr.inReset = false → s.pwr.target = none → s.powerState = 1 → s.debugActive = false →
    s.stoOpen = true →
    ∃ t, exec .powerRequestOff s = .next t ∧ t.pwr = { s.pwr with target := some 3 })
  ∧ (∀ (s : State), s.pwr.inReset = false → s.pwr.target = none → s.powerState = 1 → s.coll.stopped = false →
    (s.debugActive = true → ∃ t, exec .powerRequestOff s = .next t ∧ t.pwr = s.pwr ∧
      t.rd pgPWR Reg.PWR.STAT_REFUSE = 2 ∧ Reported t .c 0xDB pgPWR) ∧
    (s.debugActive = false → s.stoOpen = false → ∃ t, exec .powerRequestSleep s = .next t ∧ t.pwr = s.pwr ∧
      t.rd pgPWR Reg.PWR.STAT_REFUSE = 3 ∧ Reported t .c 0xDB pgPWR))
  ∧ (∀ (s : State), s.pwr.target = some 0 →
    ∃ t, exec .powerStateReached s = .next t ∧ t.powerState = 0 ∧ t.pwr.target = none ∧
      bitOf (t.rd pgSUP Reg.SUP.AGR_EVT_EVT) 8 = true ∧ t.trl.events = s.trl.events ++ [.commit []])
  ∧ (∀ (s : State), s.pwr.target = some 1 →
    ∃ t, exec .powerStateReached s = .next t ∧ t.powerState = 1 ∧ t.pwr.target = none ∧ t.engines = [] ∧ t.convs = [] ∧
      bitOf (t.rd pgSUP Reg.SUP.AGR_EVT_EVT) 8 = true ∧
      (∀ l, l < 64 → (t.loop l).placed = false) ∧ (∀ e, e < 16 → (t.polder e).st = .off ∨ (t.polder e).st = .failed))
  ∧ (∀ (s : State), s.pwr.target = some 2 →
    ∃ t, exec .powerStateReached s = .next t ∧ t.powerState = 2 ∧ t.pwr.target = none ∧ t.clockRuns = false ∧ t.now = s.now ∧
      t.coll.stopped = true ∧ t.rdB pgSAF Reg.SAF.STO_STAT_OPEN = true ∧
      (∀ off, winBase ≤ off → off < winBase + 0x2040 → t.word pgFLT off = s.word pgFLT off) ∧
      (∀ a, 0x10000000 ≤ a → a < 0x12000000 → t.byte a = s.byte a))
  ∧ (∀ (s : State), s.pwr.target = some 3 →
    ∃ t, exec .powerStateReached s = .next t ∧ t.powerState = 3 ∧ t.clockRuns = false ∧ t.now = 0 ∧
      t.word pgPWR 0x10C = s.word pgPWR 0x10C ∧ (∀ a, 0x10000000 ≤ a → a < 0x12000000 → t.byte a = s.byte a))

/-- Wake-ups from SLEEP and OFF, the wake timer, and a low supply in SLEEP (R67, R471 to R473, R486). Where the spec leaves a point open, the model's
choice stands in log entry 101. -/
def Obligations.WakeUps : Prop :=
  (∀ (s : State) (sources : Fin 128) (ticks : Nat), s.pwr.target = none → s.powerState = 2 →
    sources.val &&& s.rd pgPWR Reg.PWR.WAKE_EN_EN ≠ 0 →
    ∃ t, exec (.wakeEvent sources ticks) s = .next t ∧ t.now = stampAdd s.now ticks ∧ t.powerState = 4 ∧
      t.rd pgPWR Reg.PWR.WAKE_SRC_SRC = (sources.val &&& s.rd pgPWR Reg.PWR.WAKE_EN_EN) ∧
      t.rdB pgPWR Reg.PWR.WAKE_SRC_VALID = true ∧ t.rdB pgTP Reg.TP.STAT_SLEEP_ADJ = true ∧ t.pwr.pllStarts = true ∧
      bitOf (t.rd pgSUP Reg.SUP.AGR_EVT_EVT) 8 = true)
  ∧ (∀ (s : State) (sources : Fin 128) (ticks : Nat), s.pwr.target = some 2 → s.coll.stopped = false →
    sources.val &&& s.rd pgPWR Reg.PWR.WAKE_EN_EN ≠ 0 →
    ∃ t, exec (.wakeEvent sources ticks) s = .next t ∧ t.pwr = { s.pwr with target := none } ∧ t.powerState = s.powerState ∧
      t.rdB pgPWR Reg.PWR.STAT_ABORT = true ∧ Reported t .c 0xDA pgPWR)
  ∧ (∀ (s : State) (sources : Fin 128) (ticks : Nat), s.pwr.target ≠ some 2 → s.powerState = 3 →
    bitOf (sources.val &&& s.rd pgPWR Reg.PWR.WAKE_EN_EN) 0 = true →
    ∃ t, exec (.wakeEvent sources ticks) s = .next t ∧ t.now = 0 ∧ t.powerState = 4 ∧ t.pwr = {} ∧
      (∀ a, 0x10000000 ≤ a → a < 0x12000000 → t.byte a = s.byte a))
  ∧ (∀ (s : State) (sources : Fin 128) (ticks : Nat), sources.val &&& s.rd pgPWR Reg.PWR.WAKE_EN_EN = 0 →
    exec (.wakeEvent sources ticks) s = .next s)
  ∧ (∀ (s : State) (ticks : Nat), s.pwr.target = none → s.powerState = 2 → bitOf (s.rd pgPWR Reg.PWR.WAKE_EN_EN) 6 = true →
    97 * 320000000 * max 1 (s.rd pgPWR Reg.PWR.WAKE_TMR_S) ≤ 100 * ticks →
    ∃ t, exec (.wakeTimerExpiry ticks) s = .next t ∧ t.now = stampAdd s.now ticks ∧ t.powerState = 4 ∧
      t.rd pgPWR Reg.PWR.WAKE_SRC_SRC = 0x40 ∧ t.rdB pgPWR Reg.PWR.WAKE_SRC_VALID = true ∧ t.pwr.pllStarts = true)
  ∧ (∀ (s : State) (ticks : Nat), s.powerState ≠ 2 → exec (.wakeTimerExpiry ticks) s = .next s ∧ exec .sleepVbatLow s = .next s)
  ∧ (∀ (s : State), s.powerState = 2 →
    ∃ t, exec .sleepVbatLow s = .next t ∧ t.powerState = 3 ∧ t.now = 0 ∧ t.word pgPWR 0x10C = s.word pgPWR 0x10C)

/-- What the supply and temperature monitors do: the bit of SUPPLY, the fault with its detail, safe torque off where the row
opens it, a reset where it resets, and the end of a condition (R483 to R485, R495). -/
def Obligations.SupplyMonitors : Prop :=
  (∀ (s : State), s.monitorsRun = true → s.coll.stopped = false →
    (s.rdB pgPWR Reg.PWR.SUPPLY_VBAT_WARN = false → ∃ t, exec .vbatLowWarning s = .next t ∧
      t.rdB pgPWR Reg.PWR.SUPPLY_VBAT_WARN = true ∧ ReportedAt t .c 0xD0 pgPWR 1 (some s.now) ∧
      Changes [.coll] [fieldKey pgPWR Reg.PWR.SUPPLY_VBAT_WARN] s t) ∧
    (s.rdB pgPWR Reg.PWR.SUPPLY_VBAT_UV = false → ∃ t, exec .vbatUndervoltage s = .next t ∧
      t.rdB pgPWR Reg.PWR.SUPPLY_VBAT_UV = true ∧ ReportedAt t .u 0xD1 pgPWR 1 (some s.now) ∧ t.stoOpen = true) ∧
    (s.rdB pgPWR Reg.PWR.SUPPLY_VBAT_HIGH = false → ∃ t, exec .vbatLoadDump s = .next t ∧
      t.rdB pgPWR Reg.PWR.SUPPLY_VBAT_HIGH = true ∧ ReportedAt t .c 0xD0 pgPWR 2 (some s.now) ∧
      Changes [.coll] [fieldKey pgPWR Reg.PWR.SUPPLY_VBAT_HIGH] s t) ∧
    (s.rdB pgPWR Reg.PWR.SUPPLY_VBAT_LONG = false → ∃ t, exec .vbatSustainedHigh s = .next t ∧
      t.rdB pgPWR Reg.PWR.SUPPLY_VBAT_LONG = true ∧ ReportedAt t .u 0xD1 pgPWR 2 (some s.now) ∧ t.stoOpen = true) ∧
    (s.rdB pgPWR Reg.PWR.SUPPLY_VM_UV = false → ∃ t, exec .vmUndervoltage s = .next t ∧
      t.rdB pgPWR Reg.PWR.SUPPLY_VM_UV = true ∧ ReportedAt t .u 0xD1 pgPWR 3 (some s.now)) ∧
    (s.rdB pgPWR Reg.PWR.SUPPLY_VM_OV = false → ∃ t, exec .vmOvervoltage s = .next t ∧
      t.rdB pgPWR Reg.PWR.SUPPLY_VM_OV = true ∧ ReportedAt t .u 0xD1 pgPWR 4 (some s.now)) ∧
    (s.rdB pgPWR Reg.PWR.SUPPLY_TJ_WARN = false → ∃ t, exec .junctionWarning s = .next t ∧
      t.rdB pgPWR Reg.PWR.SUPPLY_TJ_WARN = true ∧ ReportedAt t .c 0xD0 pgPWR 5 (some s.now) ∧
      Changes [.coll] [fieldKey pgPWR Reg.PWR.SUPPLY_TJ_WARN] s t) ∧
    (s.rdB pgPWR Reg.PWR.SUPPLY_TJ_LIM = false → ∃ t, exec .junctionLimit s = .next t ∧
      t.rdB pgPWR Reg.PWR.SUPPLY_TJ_LIM = true ∧ ReportedAt t .u 0xD1 pgPWR 5 (some s.now) ∧ t.stoOpen = true))
  ∧ (∀ (s : State), s.rdB pgPWR Reg.PWR.SUPPLY_VBAT_WARN = true → exec .vbatLowWarning s = .next s)
  ∧ (∀ (s : State), s.monitorsRun = true → s.pwr.inReset = false →
    (∃ t, exec .vbatBrownOut s = .next t ∧ ResetBegun s t 3 ∧ t.clockRuns = false) ∧
    (∃ t, exec .vbatOvervoltage s = .next t ∧ ResetBegun s t 3 ∧ t.clockRuns = false) ∧
    (s.coll.stopped = false → ∃ t, exec .junctionShutdown s = .next t ∧ ResetBegun s t 3 ∧ t.clockRuns = false ∧
      ReportedAt t .f 0xD2 pgPWR 10 (some s.now)))
  ∧ (∀ (s : State) (rail : Fin 16), s.monitorsRun = true → s.pwr.railAt = none → 6 ≤ rail.val → rail.val ≤ 9 →
    s.coll.stopped = false →
    ∃ t, exec (.railOutOfWindow rail) s = .next t ∧ t.pwr = { s.pwr with railAt := some s.now } ∧
      ReportedAt t .f 0xD2 pgPWR rail (some s.now) ∧ Touches [.coll, .pwr] s t)
  ∧ (∀ (s : State) (at_ : Nat), s.pwr.railAt = some at_ → s.stoOpen = true → s.passedRc at_ 320000 = true →
    s.pwr.inReset = false → s.pwr.dikeLost = false →
    ∃ t, exec .railResetDelay s = .next t ∧ ResetBegun s t 3 ∧ t.clockRuns = false)
  ∧ (∀ (s : State), s.pwr.railAt = none → exec .railResetDelay s = .next s)
  ∧ (∀ (s : State) (k : Fin 8), ∃ t, exec (.supplyMonitorEnd k) s = .next t ∧
    bitOf (t.word pgPWR 0x124).toNat k = false ∧
    ((k = 2 ∨ k = 3) → t.rdB pgPWR Reg.PWR.SUPPLY_VBAT_HIGH = false ∧ t.rdB pgPWR Reg.PWR.SUPPLY_VBAT_LONG = false) ∧
    (∀ j, j < 8 → j ≠ k.val → ¬ (2 ≤ j ∧ j ≤ 3 ∧ 2 ≤ k.val ∧ k.val ≤ 3) →
      bitOf (t.word pgPWR 0x124).toNat j = bitOf (s.word pgPWR 0x124).toNat j))
  ∧ (∀ (s : State) (vbat vm tj : Word), s.monitorsRun = true →
    ∃ t, exec (.supplyMeasurementUpdate vbat vm tj) s = .next t ∧ t.word pgPWR 0x128 = vbat ∧ t.word pgPWR 0x12C = vm ∧
      t.word pgPWR 0x130 = tj ∧ Changes [] [regKey pgPWR 0x128, regKey pgPWR 0x12C, regKey pgPWR 0x130] s t)

/-- Boot: from a valid supply over the lock of the phase-locked loop to the release of the supervisor from the bank that
verifies, and the boot commands (R66, R485, R487 to R493). Where the spec leaves a point open, the model's
choice stands in log entries 81 and 101. -/
def Obligations.BootSequence : Prop :=
  (∀ (s : State), s.pwr.inReset = true → s.pwr.dikeLost = false → s.clockRuns = false →
    ∃ t, exec .supplyValid s = .next t ∧ t.pwr = { s.pwr with pllStarts := true } ∧ Touches [.pwr] s t)
  ∧ (∀ (s : State), s.clockRuns = true → exec .supplyValid s = .next s)
  ∧ (∀ (s : State) (carried : Nat) (c0 c1 c2 : Bool), s.pwr.pllStarts = true → s.pwr.pinLow = false →
    ∃ t, exec (.pllLock carried c0 c1 c2) s = .next t ∧ t.clockRuns = true ∧ BootBegun t c0 c1 c2 ∧ t.pwr.pllStarts = false ∧
      t.now = (if s.pwr.cause = 1 ∨ carried = 0 then s.now else stampAdd s.now carried))
  ∧ (∀ (s : State) (carried : Nat) (c0 c1 c2 : Bool), s.pwr.pllStarts = true → s.pwr.pinLow = true →
    ∃ t, exec (.pllLock carried c0 c1 c2) s = .next t ∧ t.clockRuns = true ∧
      t.pwr = { s.pwr with pllStarts := false })
  ∧ (∀ (s : State) (carried : Nat) (c0 c1 c2 : Bool), s.pwr.pllStarts = false →
    exec (.pllLock carried c0 c1 c2) s = .next s)
  ∧ (∀ (s : State) (other : Nat) (classes slots : List (Nat × Nat)), s.pwr.inReset = false → s.clockRuns = true →
    s.powerState = 4 → s.supMode = 3 → s.broke = false → s.pwr.noImage = false → s.rd pgPWR Reg.PWR.BOOT_RESULT = 0 →
    (s.rdB pgPWR Reg.PWR.BOOT_CONF = true ∨ s.rd pgPWR Reg.PWR.BOOT_TRIES ≠ 0) →
    ∃ t, exec (.supervisorRelease 0 other classes slots) s = .next t ∧
      t.rd pgPWR Reg.PWR.BOOT_BANK = s.rd pgPWR Reg.PWR.BOOT_PREF ∧ t.activeBank = s.rd pgPWR Reg.PWR.BOOT_PREF ∧
      t.rd pgPWR Reg.PWR.BOOT_RESULT = 1 ∧ t.supMode = (if s.compat then 2 else 0) ∧
      t.rd pgPWR Reg.PWR.BOOT_TRIES =
        (if s.rdB pgPWR Reg.PWR.BOOT_CONF then s.rd pgPWR Reg.PWR.BOOT_TRIES else s.rd pgPWR Reg.PWR.BOOT_TRIES - 1) ∧
      (s.compat = false → t.sup.voting = [0, 1, 2]))
  ∧ (∀ (s : State) (other : Nat) (classes slots : List (Nat × Nat)), s.pwr.inReset = false → s.clockRuns = true →
    s.powerState = 4 → s.supMode = 3 → s.broke = false → s.pwr.noImage = false → s.rd pgPWR Reg.PWR.BOOT_RESULT = 0 →
    s.rdB pgPWR Reg.PWR.BOOT_CONF = false → s.rd pgPWR Reg.PWR.BOOT_TRIES = 0 → s.coll.stopped = false →
    ∃ t, exec (.supervisorRelease 0 other classes slots) s = .next t ∧
      t.rd pgPWR Reg.PWR.BOOT_BANK = 1 - s.rd pgPWR Reg.PWR.BOOT_PREF ∧ t.rd pgPWR Reg.PWR.BOOT_PREF = 1 - s.rd pgPWR Reg.PWR.BOOT_PREF ∧
      t.rdB pgPWR Reg.PWR.BOOT_CONF = true ∧ t.rd pgPWR Reg.PWR.BOOT_RESULT = 2 ∧ Reported t .c 0xD3 pgPWR)
  ∧ (∀ (s : State) (tried other : Nat) (classes slots : List (Nat × Nat)), s.pwr.inReset = false → s.clockRuns = true →
    s.powerState = 4 → s.supMode = 3 → s.broke = false → s.pwr.noImage = false → s.rd pgPWR Reg.PWR.BOOT_RESULT = 0 →
    tried ≠ 0 → other ≠ 0 →
    ∃ t, exec (.supervisorRelease tried other classes slots) s = .next t ∧ t.pwr.noImage = true ∧
      t.rd pgPWR Reg.PWR.BOOT_RESULT = 3 ∧ t.supMode = 3 ∧ t.sup = s.sup)
  ∧ (∀ (s : State), s.supRuns = true →
    (∃ t, exec .bootReady s = .next t ∧ t.rdB pgPWR Reg.PWR.BOOT_READY = true ∧
      Changes [] [fieldKey pgPWR Reg.PWR.BOOT_READY] s t) ∧
    (s.rd pgPWR Reg.PWR.BOOT_PREF = s.activeBank → ∃ t, exec .bootConfirm s = .next t ∧
      t.rdB pgPWR Reg.PWR.BOOT_CONF = true ∧ Changes [] [fieldKey pgPWR Reg.PWR.BOOT_CONF] s t) ∧
    (s.rd pgPWR Reg.PWR.BOOT_PREF ≠ s.activeBank → exec .bootConfirm s = .next s) ∧
    (s.rdB pgPWR (if s.activeBank = 1 then Reg.PWR.BOOT_VALID_A else Reg.PWR.BOOT_VALID_B) = true →
      ∃ t, exec .bootPrefer s = .next t ∧ t.rd pgPWR Reg.PWR.BOOT_PREF = 1 - s.activeBank ∧
        t.rdB pgPWR Reg.PWR.BOOT_CONF = false ∧ t.rd pgPWR Reg.PWR.BOOT_TRIES = 3 ∧
        Changes [] [fieldKey pgPWR Reg.PWR.BOOT_PREF] s t) ∧
    (s.rdB pgPWR (if s.activeBank = 1 then Reg.PWR.BOOT_VALID_A else Reg.PWR.BOOT_VALID_B) = false → s.coll.stopped = false →
      ∃ t, exec .bootPrefer s = .next t ∧ t.rd pgPWR Reg.PWR.STAT_REFUSE = 6 ∧ Reported t .c 0xDB pgPWR ∧
        Changes [.coll] [fieldKey pgPWR Reg.PWR.STAT_REFUSE] s t))
end

