-- ==== Sys2Proof/Laws/Tables.lean ====
section
/-! SUPPORT. Laws of tables: what is read after a write, and that every operation keeps the canonical form. -/

namespace Sys2Proof.Machine

variable {α : Type}

theorem tabGet_erase (d : Nat → α) (t : Tab α) (k j : Nat) (h : j ≠ k) : tabGet d (tabErase t k) j = tabGet d t j := by
  induction t with
  | nil => rfl
  | cons e t ih =>
    unfold tabErase at ih ⊢
    by_cases he : e.1 = k
    · simpa [he, tabGet, Ne.symm h] using ih
    · simpa [he, tabGet] using congrArg (fun x => if e.1 = j then e.2 else x) ih

theorem tabGet_missing (d : Nat → α) (t : Tab α) (k : Nat) (h : ∀ e ∈ t, e.1 ≠ k) : tabGet d t k = d k := by
  induction t with
  | nil => rfl
  | cons e t ih =>
    have := h e List.mem_cons_self
    simp [tabGet, this, ih fun x hx => h x (List.mem_cons_of_mem _ hx)]

theorem tabGet_erase_self (d : Nat → α) (t : Tab α) (k : Nat) : tabGet d (tabErase t k) k = d k :=
  tabGet_missing d _ k fun e he => by simpa using (List.mem_filter.1 he).2

theorem tabGet_insert_ne (d : Nat → α) (t : Tab α) (k j : Nat) (v : α) (h : j ≠ k) :
    tabGet d (tabInsert t k v) j = tabGet d t j := by
  induction t with
  | nil => simp [tabInsert, tabGet, Ne.symm h]
  | cons e t ih =>
    unfold tabInsert
    split
    · simp [tabGet, Ne.symm h]
    · split
      · subst_vars
        simp [tabGet, Ne.symm h]
      · simp [tabGet, ih]

theorem tabGet_insert_self (d : Nat → α) (t : Tab α) (k : Nat) (v : α) : tabGet d (tabInsert t k v) k = v := by
  induction t with
  | nil => simp [tabInsert, tabGet]
  | cons e t ih =>
    unfold tabInsert
    split
    · simp [tabGet]
    · split
      · simp [tabGet]
      · next h => simp [tabGet, ih, h]

/-- The keys of a table rise strictly. -/
def Rising (t : Tab α) : Prop := t.Pairwise fun a b => a.1 < b.1

variable [DecidableEq α] {d : Nat → α} {t : Tab α}

theorem tabWf_iff : tabWf d t = true ↔ Rising t ∧ ∀ e ∈ t, e.2 ≠ d e.1 := by
  induction t with
  | nil => simp [tabWf, Rising]
  | cons a t ih =>
    cases t with
    | nil => simp [tabWf, Rising]
    | cons b t =>
      simp only [tabWf, Bool.and_eq_true, decide_eq_true_eq, ih, Rising, List.pairwise_cons, List.mem_cons, forall_eq_or_imp]
      constructor
      · rintro ⟨⟨h1, h2⟩, ⟨h3, h4⟩, h5, h6⟩
        exact ⟨⟨⟨h1, fun c hc => Nat.lt_trans h1 (h3 c hc)⟩, h3, h4⟩, h2, h5, h6⟩
      · rintro ⟨⟨⟨h1, _⟩, h3, h4⟩, h2, h5, h6⟩
        exact ⟨⟨h1, h2⟩, ⟨h3, h4⟩, h5, h6⟩

theorem tabWf_sublist {u : Tab α} (h : tabWf d t = true) (hs : u.Sublist t) : tabWf d u = true :=
  tabWf_iff.2 ⟨(tabWf_iff.1 h).1.sublist hs, fun e he => (tabWf_iff.1 h).2 e (hs.subset he)⟩

theorem tabWf_filter (h : tabWf d t = true) (p : Nat × α → Bool) : tabWf d (t.filter p) = true :=
  tabWf_sublist h List.filter_sublist

theorem tabWf_clear (h : tabWf d t = true) (lo hi : Nat) : tabWf d (tabClear t lo hi) = true := tabWf_filter h _

omit [DecidableEq α] in
theorem mem_tabInsert {k : Nat} {v : α} {e : Nat × α} (h : e ∈ tabInsert t k v) : e = (k, v) ∨ e ∈ t := by
  induction t with
  | nil => simpa [tabInsert] using h
  | cons a t ih =>
    unfold tabInsert at h
    split at h
    · simpa using h
    · split at h
      · rcases List.mem_cons.1 h with h | h
        · exact .inl h
        · exact .inr (List.mem_cons_of_mem _ h)
      · rcases List.mem_cons.1 h with h | h
        · exact .inr (h ▸ List.mem_cons_self)
        · exact (ih h).imp_right (List.mem_cons_of_mem _)

theorem tabWf_insert (h : tabWf d t = true) (k : Nat) (v : α) (hv : v ≠ d k) : tabWf d (tabInsert t k v) = true := by
  rw [tabWf_iff] at h ⊢
  refine ⟨?_, fun e he => (mem_tabInsert he).elim (fun h' => h' ▸ hv) (h.2 e)⟩
  replace h := h.1
  unfold Rising at h ⊢
  induction t with
  | nil => exact List.pairwise_singleton _ _
  | cons a t ih =>
    have ha := List.pairwise_cons.1 h
    unfold tabInsert
    split
    · next hk =>
      refine List.pairwise_cons.2 ⟨fun b hb => ?_, h⟩
      rcases List.mem_cons.1 hb with rfl | hb
      · exact hk
      · exact Nat.lt_trans hk (ha.1 b hb)
    · split
      · next hk => exact List.pairwise_cons.2 ⟨fun b hb => hk ▸ ha.1 b hb, ha.2⟩
      · next h1 h2 =>
        refine List.pairwise_cons.2 ⟨fun b hb => ?_, ih ha.2⟩
        rcases mem_tabInsert hb with rfl | hb
        · exact Nat.lt_of_le_of_ne (Nat.le_of_not_lt h1) h2
        · exact ha.1 b hb

theorem tabWf_put (h : tabWf d t = true) (k : Nat) (v : α) : tabWf d (tabPut d t k v) = true := by
  unfold tabPut
  split
  · exact tabWf_filter h _
  · next hv => exact tabWf_insert h k v hv

theorem tabWf_putAll (xs : List (Nat × α)) : ∀ {t : Tab α}, tabWf d t = true → tabWf d (tabPutAll d t xs) = true := by
  induction xs with
  | nil => exact fun h => h
  | cons x xs ih => exact fun h => ih (tabWf_put h x.1 x.2)

theorem tabGet_put_ne (d : Nat → α) (t : Tab α) (k j : Nat) (v : α) (h : j ≠ k) : tabGet d (tabPut d t k v) j = tabGet d t j := by
  unfold tabPut
  split
  · exact tabGet_erase d t k j h
  · exact tabGet_insert_ne d t k j v h

/-- What is read at a key just written is the value written. -/
@[simp] theorem tabGet_put_self (d : Nat → α) (t : Tab α) (k : Nat) (v : α) : tabGet d (tabPut d t k v) k = v := by
  unfold tabPut
  split
  · next hv => rw [tabGet_erase_self, hv]
  · exact tabGet_insert_self d t k v

/-- Cells replaced by rising non-zero cells within the range keep memory canonical. -/
theorem cellsReplace_wf {m new : List Host.Cell} (h : Memory.wf m = true) (hn : Memory.wf new = true) (a n : Nat)
    (hin : ∀ e ∈ new, a ≤ e.1 ∧ e.1 < a + n) : Memory.wf (cellsReplace m a n new) = true := by
  unfold Memory.wf at *
  rw [tabWf_iff] at *
  unfold cellsReplace
  refine ⟨?_, ?_⟩
  · refine List.pairwise_append.2 ⟨List.pairwise_append.2 ⟨h.1.filter _, hn.1, ?_⟩, h.1.filter _, ?_⟩
    · intro x hx y hy
      exact Nat.lt_of_lt_of_le (by simpa using (List.mem_filter.1 hx).2) (hin y hy).1
    · intro x hx y hy
      have hy := (List.mem_filter.1 hy).2
      simp only [decide_eq_true_eq] at hy
      rcases List.mem_append.1 hx with hx | hx
      · have hx := (List.mem_filter.1 hx).2
        simp only [decide_eq_true_eq] at hx
        omega
      · have := (hin x hx).2
        omega
  · intro e he
    rcases List.mem_append.1 he with he | he
    · rcases List.mem_append.1 he with he | he
      · exact h.2 e (List.mem_filter.1 he).1
      · exact hn.2 e he
    · exact h.2 e (List.mem_filter.1 he).1

theorem mem_nil_wf : Memory.wf [] = true := rfl

/-- Cells moved by a constant distance keep memory canonical. -/
theorem cellsShift_wf {m : List Host.Cell} (h : Memory.wf m = true) (src dst n : Nat) :
    Memory.wf ((m.filter (fun c => src ≤ c.1 && c.1 < src + n)).map (fun c => (c.1 - src + dst, c.2))) = true := by
  unfold Memory.wf at *
  rw [tabWf_iff] at *
  refine ⟨List.pairwise_map.2 ?_, ?_⟩
  · refine (h.1.filter _).imp_of_mem fun {x y} hx hy hxy => ?_
    have hx := (List.mem_filter.1 hx).2
    simp only [Bool.and_eq_true, decide_eq_true_eq] at hx
    show x.1 - src + dst < y.1 - src + dst
    omega
  · intro e he
    obtain ⟨x, hx, rfl⟩ := List.mem_map.1 he
    exact h.2 x (List.mem_filter.1 hx).1

theorem copyMem_wf (s : State) (h : Memory.wf s.mem = true) (dst src n : Nat) : Memory.wf (s.copyMem dst src n).mem = true :=
  cellsReplace_wf h (cellsShift_wf h src dst n) dst n fun e he => by
    obtain ⟨x, hx, rfl⟩ := List.mem_map.1 he
    have hx := (List.mem_filter.1 hx).2
    simp only [Bool.and_eq_true, decide_eq_true_eq] at hx
    show dst ≤ x.1 - src + dst ∧ x.1 - src + dst < dst + n
    omega

theorem zeroMem_wf (s : State) (h : Memory.wf s.mem = true) (a n : Nat) : Memory.wf (s.zeroMem a n).mem = true :=
  cellsReplace_wf h mem_nil_wf a n (by simp)

theorem putByte_wf (s : State) (h : Memory.wf s.mem = true) (a : Nat) (b : Byte) : Memory.wf (s.putByte a b).mem = true :=
  tabWf_put h a b

/-- A byte read where a byte was written is that byte; elsewhere nothing changes. -/
theorem byte_putByte_self (s : State) (a : Nat) (b : Byte) : (s.putByte a b).byte a = b := tabGet_put_self memDefault s.mem a b

theorem byte_putByte_ne (s : State) (a c : Nat) (b : Byte) (h : c ≠ a) : (s.putByte a b).byte c = s.byte c :=
  tabGet_put_ne memDefault s.mem a c b h

end Sys2Proof.Machine
end

