-- ==== Sys2Proof/Laws/KeptBase.lean ====
section
/-! SUPPORT. What every operation keeps: which parts of the state it may change, and a sound state sound. -/

namespace Sys2Proof.Machine

/-- A state that differs from `s₀` in the listed parts only, and is sound where `s₀` is. -/
structure Kept (L : List Part) (s₀ s : State) : Prop where
  sound : s₀.Sound → s.Sound
  same : Touches L s₀ s

variable {L : List Part} {s₀ s t : State}

theorem Touches.intro {P : List Part} (h : ∀ p, p ∉ P → p.Same s t) : Touches P s t := h

/-- A state keeps itself. -/
theorem Kept.start : Kept L s s := ⟨id, fun p _ => by cases p <;> rfl⟩

/-- A further change of listed parts. -/
theorem Kept.change (P : List Part) (h : Kept L s₀ t) (hP : P ⊆ L) (hs : t.Sound → s.Sound) (ht : Touches P t s) : Kept L s₀ s := by
  refine ⟨fun k => hs (h.sound k), fun p hp => ?_⟩
  have h1 := h.same p hp
  have h2 := ht p fun hm => hp (hP hm)
  cases p <;> exact h2.trans h1

/-- An update of fields other than those that soundness rests on. -/
theorem Kept.mk_of (P : List Part) {marks pushes ledger chk fresh polders drainQ coll tp hif commit engines loops slotShadows sup
    trl guards chans stages pilot samples waitingSeqs convs tdac sdFrom resolvers enc ifc syn sec dbg pwr sto wd answer pending}
    (h : Kept L s₀ t) (hP : P ⊆ L)
    (ht : Touches P t (State.mk t.regs t.staged marks pushes ledger t.mem chk t.now fresh polders drainQ coll tp hif commit engines
      loops slotShadows sup trl guards chans stages pilot samples waitingSeqs convs tdac sdFrom resolvers enc ifc syn sec dbg pwr
      sto wd answer pending)) :
    Kept L s₀ (State.mk t.regs t.staged marks pushes ledger t.mem chk t.now fresh polders drainQ coll tp hif commit engines loops
      slotShadows sup trl guards chans stages pilot samples waitingSeqs convs tdac sdFrom resolvers enc ifc syn sec dbg pwr sto wd
      answer pending) :=
  h.change P hP (fun k => ⟨k.mem, k.regs, k.staged, k.now⟩) ht

/-- A choice whose second branch keeps. -/
theorem Kept.ite {c : Prop} [Decidable c] (ht : Kept L s₀ t) (hs : Kept L s₀ t → Kept L s₀ s) : Kept L s₀ (if c then s else t) := by
  split
  · exact hs ht
  · exact ht

theorem Kept.each {α : Type} {xs : List α} {f : State → α → State} (h : Kept L s₀ s)
    (hf : ∀ s x, Kept L s₀ s → Kept L s₀ (f s x)) : Kept L s₀ (s.each xs f) := by
  unfold State.each
  induction xs generalizing s with
  | nil => exact h
  | cons x xs ih => exact ih (hf s x h)

theorem Kept.foldl2 {α β : Type} {xs : List α} {f : β × State → α → β × State} {a : β × State} (h : Kept L s₀ a.2)
    (hf : ∀ a x, Kept L s₀ a.2 → Kept L s₀ (f a x).2) : Kept L s₀ (xs.foldl f a).2 := by
  induction xs generalizing a with
  | nil => exact h
  | cons x xs ih => exact ih (hf a x h)

theorem Kept.elim {α : Type} {o : Option α} {f : α → State} (h : Kept L s₀ s) (hf : ∀ x, Kept L s₀ (f x)) : Kept L s₀ (o.elim s f) := by
  cases o
  · exact h
  · exact hf _

theorem Kept.when {c : Bool} {f : State → State} (h : Kept L s₀ s) (hf : ∀ s, Kept L s₀ s → Kept L s₀ (f s)) : Kept L s₀ (s.when c f) := by
  unfold State.when
  split
  · exact hf s h
  · exact h

theorem Kept.setWord (h : Kept L s₀ s) (hL : [.regs, .pushes] ⊆ L) (p off : Nat) (w : Word) : Kept L s₀ (s.setWord p off w) :=
  h.change _ hL (by unfold State.setWord; exact fun k => ⟨k.mem, tabWf_put k.regs _ _, k.staged, k.now⟩) (by
    unfold State.setWord
    exact fun p hp => by cases p <;> first | exact absurd (by decide) hp | rfl)

theorem Kept.putByte (h : Kept L s₀ s) (hL : [.mem, .chk] ⊆ L) (a : Nat) (b : Byte) : Kept L s₀ (s.putByte a b) :=
  h.change _ hL (fun k => ⟨putByte_wf s k.mem a b, k.regs, k.staged, k.now⟩) (by
    unfold State.putByte
    exact fun p hp => by cases p <;> first | exact absurd (by decide) hp | rfl)

theorem Kept.copyMem (h : Kept L s₀ s) (hL : [.mem, .chk] ⊆ L) (dst src n : Nat) : Kept L s₀ (s.copyMem dst src n) :=
  h.change _ hL (fun k => ⟨copyMem_wf s k.mem dst src n, k.regs, k.staged, k.now⟩) (by
    unfold State.copyMem
    exact fun p hp => by cases p <;> first | exact absurd (by decide) hp | rfl)

theorem Kept.zeroMem (h : Kept L s₀ s) (hL : [.mem, .chk] ⊆ L) (a n : Nat) : Kept L s₀ (s.zeroMem a n) :=
  h.change _ hL (fun k => ⟨zeroMem_wf s k.mem a n, k.regs, k.staged, k.now⟩) (by
    unfold State.zeroMem
    exact fun p hp => by cases p <;> first | exact absurd (by decide) hp | rfl)

theorem Kept.setNow (h : Kept L s₀ s) (hL : [.now] ⊆ L) (n : Nat) (hn : n < 2 ^ 64) : Kept L s₀ { s with now := n } :=
  h.change _ hL (fun k => ⟨k.mem, k.regs, k.staged, hn⟩)
    fun p hp => by cases p <;> first | exact absurd (by decide) hp | rfl

/-- What holds of an answer, where there is one. -/
structure OptAll {α : Type} (P : α → Prop) (o : Option α) : Prop where
  all : ∀ x, o = some x → P x

theorem OptAll.none {α : Type} {P : α → Prop} : OptAll P none := ⟨fun _ h => nomatch h⟩

theorem OptAll.some {α : Type} {P : α → Prop} {x : α} (h : P x) : OptAll P (some x) := ⟨fun _ e => Option.some.inj e ▸ h⟩

theorem OptAll.map {α β : Type} {P : β → Prop} {Q : α → Prop} {o : Option α} {f : α → β} (h : OptAll Q o)
    (hf : ∀ x, Q x → P (f x)) : OptAll P (o.map f) := by
  refine ⟨fun y e => ?_⟩
  obtain ⟨x, hx, rfl⟩ := Option.map_eq_some_iff.1 e
  exact hf x (h.all x hx)

theorem OptAll.bind {α β : Type} {P : β → Prop} {Q : α → Prop} {o : Option α} {f : α → Option β} (h : OptAll Q o)
    (hf : ∀ x, Q x → OptAll P (f x)) : OptAll P (o.bind f) := by
  refine ⟨fun y e => ?_⟩
  obtain ⟨x, hx, hy⟩ := Option.bind_eq_some_iff.1 e
  exact (hf x (h.all x hx)).all y hy

theorem OptAll.bindAny {α β : Type} {P : β → Prop} {o : Option α} {f : α → Option β} (hf : ∀ x, OptAll P (f x)) :
    OptAll P (o.bind f) := by
  refine ⟨fun y e => ?_⟩
  obtain ⟨x, -, hy⟩ := Option.bind_eq_some_iff.1 e
  exact (hf x).all y hy

theorem OptAll.or {α : Type} {P : α → Prop} {o o' : Option α} (h : OptAll P o) (h' : OptAll P o') : OptAll P (o.or o') := by
  cases o with
  | none => exact ⟨fun y e => h'.all y e⟩
  | some x => exact ⟨fun y e => h.all y e⟩

theorem Kept.setStaged (h : Kept L s₀ s) (hL : [.staged, .coll] ⊆ L) (st : Tab Word) (coll : Collector)
    (hs : s₀.Sound → tabWf stagedReset st = true) : Kept L s₀ { s with staged := st, coll := coll } := by
  refine ⟨fun k => ⟨(h.sound k).mem, (h.sound k).regs, hs k, (h.sound k).now⟩, fun p hp => ?_⟩
  have h1 := h.same p hp
  cases p <;> first | exact h1 | exact absurd (hL (by decide)) hp

theorem stampAdd_lt (a n : Nat) : stampAdd a n < 2 ^ 64 := Nat.mod_lt _ (by decide)

theorem Kept.tick (h : Kept L s₀ s) (hL : [.now] ⊆ L) : Kept L s₀ s.tick := by
  unfold State.tick
  split
  · exact h.setNow hL _ (stampAdd_lt _ _)
  · exact h

end Sys2Proof.Machine
end

