-- ==== Sys2Proof/Laws/KeptOps.lean ====
section
/-! SUPPORT. What the operations of Ops keep. -/

set_option linter.unusedTactic false
set_option linter.unreachableTactic false
set_option linter.unusedVariables false

namespace Sys2Proof.Machine

variable {L : List Part} {s₀ s : State}

theorem Kept.wr (h : Kept L s₀ s) (hL : [.regs, .pushes] ⊆ L) (p : ℕ) (f : Field) (v : ℕ) :
    Kept L s₀ (State.wr s p f v) := by
  unfold State.wr
  repeat' first
    | with_reducible assumption | exact List.Subset.trans (by decide) hL | with_reducible apply Kept.setWord

theorem Kept.wrB (h : Kept L s₀ s) (hL : [.regs, .pushes] ⊆ L) (p : ℕ) (f : Field) (b : Bool) :
    Kept L s₀ (State.wrB s p f b) := by
  unfold State.wrB
  repeat' first
    | with_reducible assumption | exact List.Subset.trans (by decide) hL | with_reducible apply Kept.wr

theorem Kept.orBits (h : Kept L s₀ s) (hL : [.regs, .pushes] ⊆ L) (p : ℕ) (f : Field) (v : ℕ) :
    Kept L s₀ (State.orBits s p f v) := by
  unfold State.orBits
  repeat' first
    | with_reducible assumption | exact List.Subset.trans (by decide) hL | with_reducible apply Kept.wr

theorem Kept.wrStamp (h : Kept L s₀ s) (hL : [.regs, .pushes] ⊆ L) (p : ℕ) (fl : Field) (fh : Field) (t : ℕ) :
    Kept L s₀ (State.wrStamp s p fl fh t) := by
  unfold State.wrStamp
  repeat' first
    | with_reducible assumption | exact List.Subset.trans (by decide) hL | with_reducible apply Kept.wr

theorem Kept.drawWord (h : Kept L s₀ s) (hL : [.fresh] ⊆ L) :
    Kept L s₀ (State.drawWord s).2 := by
  unfold State.drawWord
  repeat' first
    | with_reducible assumption | exact List.Subset.trans (by decide) hL
    | ((with_reducible refine Touches.intro fun p hp => ?_); cases p <;> first | exact absurd (by decide) hp | (dsimp only [Part.Same]))
    | refine Kept.mk_of [.fresh] ?_ (List.Subset.trans (by decide) hL) ?_

theorem Kept.drawBit (h : Kept L s₀ s) (hL : [.fresh] ⊆ L) :
    Kept L s₀ (State.drawBit s).2 := by
  unfold State.drawBit
  repeat' first
    | with_reducible assumption | exact List.Subset.trans (by decide) hL
    | ((with_reducible refine Touches.intro fun p hp => ?_); cases p <;> first | exact absurd (by decide) hp | (dsimp only [Part.Same]))
    | refine Kept.mk_of [.fresh] ?_ (List.Subset.trans (by decide) hL) ?_

theorem Kept.reportAs (h : Kept L s₀ s) (hL : [.coll] ⊆ L) (r : Report) :
    Kept L s₀ (State.reportAs s r) := by
  unfold State.reportAs
  extract_lets y0
  try clear_value y0
  repeat' first
    | with_reducible assumption | exact List.Subset.trans (by decide) hL
    | ((with_reducible refine Touches.intro fun p hp => ?_); cases p <;> first | exact absurd (by decide) hp | (dsimp only [Part.Same]))
    | with_reducible apply Kept.ite | split | intro _ | refine Kept.mk_of [.coll] ?_ (List.Subset.trans (by decide) hL) ?_

theorem Kept.reportFab (h : Kept L s₀ s) (hL : [.coll] ⊆ L) (cls : FaultClass) (code : ℕ) (page : ℕ) (detail : ℕ) (inj : Bool) :
    Kept L s₀ (State.reportFab s cls code page detail inj) := by
  unfold State.reportFab
  repeat' first
    | with_reducible assumption | exact List.Subset.trans (by decide) hL | with_reducible apply Kept.reportAs

theorem Kept.reportTp (h : Kept L s₀ s) (hL : [.coll] ⊆ L) (cls : FaultClass) (code : ℕ) (page : ℕ) (detail : ℕ) (inj : Bool) :
    Kept L s₀ (State.reportTp s cls code page detail inj) := by
  unfold State.reportTp
  repeat' first
    | with_reducible assumption | exact List.Subset.trans (by decide) hL | with_reducible apply Kept.reportAs

theorem Kept.reportDike (h : Kept L s₀ s) (hL : [.coll] ⊆ L) (cls : FaultClass) (code : ℕ) (page : ℕ) (detail : ℕ) (inj : Bool) :
    Kept L s₀ (State.reportDike s cls code page detail inj) := by
  unfold State.reportDike
  repeat' first
    | with_reducible assumption | exact List.Subset.trans (by decide) hL | with_reducible apply Kept.reportAs

theorem Kept.count (h : Kept L s₀ s) (hL : [.regs, .pushes, .coll] ⊆ L) (p : ℕ) (f : Field) :
    Kept L s₀ (State.count s p f) := by
  unfold State.count
  extract_lets y0 y1
  try clear_value y0
  have gy1 : Kept L s₀ y1 := by
    unfold y1
    repeat' first
      | with_reducible assumption | exact List.Subset.trans (by decide) hL | with_reducible apply Kept.reportAs
      | with_reducible apply Kept.wr | with_reducible apply Kept.wrB | with_reducible apply Kept.ite | split | intro _
  try clear_value y1
  repeat' first
    | with_reducible assumption | exact List.Subset.trans (by decide) hL | with_reducible apply Kept.reportAs
    | with_reducible apply Kept.wr | with_reducible apply Kept.wrB | with_reducible apply Kept.ite | split | intro _

theorem Kept.countFirst (h : Kept L s₀ s) (hL : [.regs, .pushes, .coll] ⊆ L) (p : ℕ) (f : Field) (code : ℕ) (detail : ℕ) :
    Kept L s₀ (State.countFirst s p f code detail) := by
  unfold State.countFirst
  extract_lets y0 y1
  try clear_value y0
  have gy1 : Kept L s₀ y1 := by
    unfold y1
    repeat' first
      | with_reducible assumption | exact List.Subset.trans (by decide) hL | with_reducible apply Kept.count
      | with_reducible apply Kept.reportFab | with_reducible apply Kept.ite | split | intro _
  try clear_value y1
  repeat' first
    | with_reducible assumption | exact List.Subset.trans (by decide) hL | with_reducible apply Kept.count
    | with_reducible apply Kept.reportFab | with_reducible apply Kept.ite | split | intro _

theorem Kept.reply (h : Kept L s₀ s) (hL : [.answer] ⊆ L) (w : Word) :
    Kept L s₀ (State.reply s w) := by
  unfold State.reply
  repeat' first
    | with_reducible assumption | exact List.Subset.trans (by decide) hL
    | ((with_reducible refine Touches.intro fun p hp => ?_); cases p <;> first | exact absurd (by decide) hp | (dsimp only [Part.Same]))
    | refine Kept.mk_of [.answer] ?_ (List.Subset.trans (by decide) hL) ?_

theorem Kept.agrEvent (h : Kept L s₀ s) (hL : [.regs, .pushes] ⊆ L) (n : ℕ) :
    Kept L s₀ (State.agrEvent s n) := by
  unfold State.agrEvent
  repeat' first
    | with_reducible assumption | exact List.Subset.trans (by decide) hL | with_reducible apply Kept.orBits

end Sys2Proof.Machine
end

