-- ==== Sys2Proof/Laws/KeptFabric.lean ====
section
/-! SUPPORT. What the operations of Fabric keep. -/

set_option linter.unusedTactic false
set_option linter.unreachableTactic false
set_option linter.unusedVariables false

namespace Sys2Proof.Machine

variable {L : List Part} {s₀ s : State}

theorem Kept.setPolder (h : Kept L s₀ s) (hL : [.regs, .pushes, .polders] ⊆ L) (p : ℕ) (x : Polder) :
    Kept L s₀ (State.setPolder s p x) := by
  unfold State.setPolder
  extract_lets y0 y1 y2
  try clear_value y0 y1
  have gy2 : Kept L s₀ y2 := by
    unfold y2
    repeat' first
      | with_reducible assumption | exact List.Subset.trans (by decide) hL
      | ((with_reducible refine Touches.intro fun p hp => ?_); cases p <;> first | exact absurd (by decide) hp | (dsimp only [Part.Same]))
      | with_reducible apply Kept.agrEvent | with_reducible apply Kept.ite | split | intro _
      | refine Kept.mk_of [.pushes, .polders] ?_ (List.Subset.trans (by decide) hL) ?_
  try clear_value y2
  repeat' first
    | with_reducible assumption | exact List.Subset.trans (by decide) hL
    | ((with_reducible refine Touches.intro fun p hp => ?_); cases p <;> first | exact absurd (by decide) hp | (dsimp only [Part.Same]))
    | with_reducible apply Kept.agrEvent | with_reducible apply Kept.ite | split | intro _
    | refine Kept.mk_of [.pushes, .polders] ?_ (List.Subset.trans (by decide) hL) ?_

theorem Kept.setBusy (h : Kept L s₀ s) (hL : [.regs, .pushes, .polders] ⊆ L) (p : ℕ) (b : Bool) :
    Kept L s₀ (State.setBusy s p b) := by
  unfold State.setBusy
  extract_lets y0 y1
  try clear_value y0 y1
  repeat' first
    | with_reducible assumption | exact List.Subset.trans (by decide) hL | with_reducible apply Kept.setPolder
    | with_reducible apply Kept.ite | split | intro _

theorem Kept.reportPolder (h : Kept L s₀ s) (hL : [.coll] ⊆ L) (cls : FaultClass) (code : ℕ) (p : ℕ) :
    Kept L s₀ (State.reportPolder s cls code p) := by
  unfold State.reportPolder
  repeat' first
    | with_reducible assumption | exact List.Subset.trans (by decide) hL | with_reducible apply Kept.reportFab

theorem Kept.abandonDrain (h : Kept L s₀ s) (hL : [.regs, .pushes, .polders, .coll] ⊆ L) (p : ℕ) :
    Kept L s₀ (State.abandonDrain s p) := by
  unfold State.abandonDrain
  extract_lets y0
  try clear_value y0
  repeat' first
    | with_reducible assumption | exact List.Subset.trans (by decide) hL | with_reducible apply Kept.reportPolder
    | with_reducible apply Kept.setPolder | with_reducible apply Kept.ite | split | intro _

theorem Kept.failPolder (h : Kept L s₀ s) (hL : [.regs, .pushes, .polders, .drainQ] ⊆ L) (p : ℕ) :
    Kept L s₀ (State.failPolder s p) := by
  unfold State.failPolder
  extract_lets y0 y1 y2
  try clear_value y0 y1
  have gy2 : Kept L s₀ y2 := by
    unfold y2
    repeat' first
      | with_reducible assumption | exact List.Subset.trans (by decide) hL
      | ((with_reducible refine Touches.intro fun p hp => ?_); cases p <;> first | exact absurd (by decide) hp | (dsimp only [Part.Same]))
      | with_reducible apply Kept.setPolder | with_reducible apply Kept.ite | split | intro _
      | refine Kept.mk_of [.drainQ] ?_ (List.Subset.trans (by decide) hL) ?_
  try clear_value y2
  repeat' first
    | with_reducible assumption | exact List.Subset.trans (by decide) hL
    | ((with_reducible refine Touches.intro fun p hp => ?_); cases p <;> first | exact absurd (by decide) hp | (dsimp only [Part.Same]))
    | with_reducible apply Kept.setPolder | with_reducible apply Kept.ite | split | intro _
    | refine Kept.mk_of [.drainQ] ?_ (List.Subset.trans (by decide) hL) ?_

theorem Kept.startTest (h : Kept L s₀ s) (hL : [.regs, .pushes, .polders] ⊆ L) (p : ℕ) :
    Kept L s₀ (State.startTest s p) := by
  unfold State.startTest
  extract_lets y0
  try clear_value y0
  repeat' first
    | with_reducible assumption | exact List.Subset.trans (by decide) hL | with_reducible apply Kept.setPolder

theorem Kept.drained (h : Kept L s₀ s) (hL : [.regs, .pushes, .polders] ⊆ L) (p : ℕ) :
    Kept L s₀ (State.drained s p) := by
  unfold State.drained
  extract_lets y0 y1
  try clear_value y0
  have gy1 : Kept L s₀ y1 := by
    unfold y1
    repeat' first
      | with_reducible assumption | exact List.Subset.trans (by decide) hL | with_reducible apply Kept.setPolder
      | with_reducible apply Kept.startTest | with_reducible apply Kept.ite | split | intro _
  try clear_value y1
  repeat' first
    | with_reducible assumption | exact List.Subset.trans (by decide) hL | with_reducible apply Kept.setPolder
    | with_reducible apply Kept.startTest | with_reducible apply Kept.ite | split | intro _

theorem Kept.refill (h : Kept L s₀ s) (hL : [.regs, .pushes, .polders] ⊆ L) (p : ℕ) :
    Kept L s₀ (State.refill s p) := by
  unfold State.refill
  extract_lets y0
  try clear_value y0
  repeat' first
    | with_reducible assumption | exact List.Subset.trans (by decide) hL | with_reducible apply Kept.setPolder

theorem Kept.ctlBlkrst (h : Kept L s₀ s) (hL : [.regs, .pushes, .polders] ⊆ L) (p : ℕ) (w : CtlBits) :
    Kept L s₀ (State.ctlBlkrst s p w) := by
  unfold State.ctlBlkrst
  extract_lets y0
  try clear_value y0
  repeat' first
    | with_reducible assumption | exact List.Subset.trans (by decide) hL | with_reducible apply Kept.setPolder
    | with_reducible apply Kept.ite | split | intro _

theorem Kept.ctlDrain (h : Kept L s₀ s) (hL : [.regs, .pushes, .polders, .drainQ, .coll] ⊆ L) (p : ℕ) (w : CtlBits) (refused : Bool) :
    Kept L s₀ (State.ctlDrain s p w refused) := by
  unfold State.ctlDrain
  extract_lets y0
  try clear_value y0
  repeat' first
    | with_reducible assumption | exact List.Subset.trans (by decide) hL
    | ((with_reducible refine Touches.intro fun p hp => ?_); cases p <;> first | exact absurd (by decide) hp | (dsimp only [Part.Same]))
    | with_reducible apply Kept.abandonDrain | with_reducible apply Kept.refill | with_reducible apply Kept.reportPolder
    | with_reducible apply Kept.setPolder | with_reducible apply Kept.ite | split | intro _
    | refine Kept.mk_of [.drainQ] ?_ (List.Subset.trans (by decide) hL) ?_

theorem Kept.ctlTest (h : Kept L s₀ s) (hL : [.regs, .pushes, .polders] ⊆ L) (p : ℕ) (w : CtlBits) :
    Kept L s₀ (State.ctlTest s p w) := by
  unfold State.ctlTest
  extract_lets y0
  try clear_value y0
  repeat' first
    | with_reducible assumption | exact List.Subset.trans (by decide) hL | with_reducible apply Kept.setPolder
    | with_reducible apply Kept.startTest | with_reducible apply Kept.ite | split | intro _

theorem Kept.enablePolder (h : Kept L s₀ s) (hL : [.regs, .pushes, .polders] ⊆ L) (p : ℕ) :
    Kept L s₀ (State.enablePolder s p) := by
  unfold State.enablePolder
  extract_lets y0
  try clear_value y0
  repeat' first
    | with_reducible assumption | exact List.Subset.trans (by decide) hL | with_reducible apply Kept.setPolder

theorem Kept.powerDownPolder (h : Kept L s₀ s) (hL : [.regs, .pushes, .polders] ⊆ L) (p : ℕ) :
    Kept L s₀ (State.powerDownPolder s p) := by
  unfold State.powerDownPolder
  extract_lets y0
  try clear_value y0
  repeat' first
    | with_reducible assumption | exact List.Subset.trans (by decide) hL | with_reducible apply Kept.setPolder

theorem Kept.ctlWrite (h : Kept L s₀ s) (hL : [.regs, .pushes, .polders, .drainQ, .coll] ⊆ L) (p : ℕ) (w : CtlBits) (enActs : Bool) (refused : Bool) :
    Kept L s₀ (State.ctlWrite s p w enActs refused) := by
  unfold State.ctlWrite
  repeat' first
    | with_reducible assumption | exact List.Subset.trans (by decide) hL | with_reducible apply Kept.ctlBlkrst
    | with_reducible apply Kept.ctlDrain | with_reducible apply Kept.ctlTest | with_reducible apply Kept.enablePolder
    | with_reducible apply Kept.powerDownPolder | with_reducible apply Kept.ite | split | intro _

theorem Kept.blkrstDone (h : Kept L s₀ s) (hL : [.regs, .pushes, .polders] ⊆ L) (p : ℕ) :
    Kept L s₀ (State.blkrstDone s p) := by
  unfold State.blkrstDone
  extract_lets y0 y1
  try clear_value y0
  have gy1 : Kept L s₀ y1 := by
    unfold y1
    repeat' first
      | with_reducible assumption | exact List.Subset.trans (by decide) hL | with_reducible apply Kept.setPolder
      | with_reducible apply Kept.startTest | with_reducible apply Kept.ite | split | intro _
  try clear_value y1
  repeat' first
    | with_reducible assumption | exact List.Subset.trans (by decide) hL | with_reducible apply Kept.setPolder
    | with_reducible apply Kept.startTest | with_reducible apply Kept.ite | split | intro _

end Sys2Proof.Machine
end

