-- ==== Sys2Proof/Laws/KeptMem.lean ====
section
/-! SUPPORT. What the operations of Mem keep. -/

set_option linter.unusedTactic false
set_option linter.unreachableTactic false
set_option linter.unusedVariables false

namespace Sys2Proof.Machine

variable {L : List Part} {s₀ s : State}

theorem Kept.putMword (h : Kept L s₀ s) (hL : [.mem, .chk] ⊆ L) (a : ℕ) (w : Word) :
    Kept L s₀ (State.putMword s a w) := by
  unfold State.putMword
  repeat' first
    | with_reducible assumption | exact List.Subset.trans (by decide) hL | with_reducible apply Kept.putByte

theorem Kept.putBytes (h : Kept L s₀ s) (hL : [.mem, .chk] ⊆ L) (a : Nat) (bs : List Byte) : Kept L s₀ (s.putBytes a bs) := by
  induction bs generalizing s a with
  | nil => exact h
  | cons b bs ih => exact ih (h.putByte (List.Subset.trans (by decide) hL) a b) (a + 1)

theorem Kept.unitRepaired (h : Kept L s₀ s) (hL : [.chk] ⊆ L) (a : ℕ) :
    Kept L s₀ (State.unitRepaired s a) := by
  unfold State.unitRepaired
  extract_lets y0
  try clear_value y0
  repeat' first
    | with_reducible assumption | exact List.Subset.trans (by decide) hL
    | ((with_reducible refine Touches.intro fun p hp => ?_); cases p <;> first | exact absurd (by decide) hp | (dsimp only [Part.Same]))
    | refine Kept.mk_of [.chk] ?_ (List.Subset.trans (by decide) hL) ?_

theorem Kept.reportMem (h : Kept L s₀ s) (hL : [.coll] ⊆ L) (cls : FaultClass) (code : ℕ) (a : ℕ) :
    Kept L s₀ (State.reportMem s cls code a) := by
  unfold State.reportMem
  repeat' first
    | with_reducible assumption | exact List.Subset.trans (by decide) hL | with_reducible apply Kept.reportFab

theorem Kept.remapLine (h : Kept L s₀ s) (hL : [.regs, .pushes, .coll] ⊆ L) (a : ℕ) (t : ℕ) (lineIdx : ℕ) :
    Kept L s₀ (State.remapLine s a t lineIdx) := by
  unfold State.remapLine
  repeat' first
    | with_reducible assumption | exact List.Subset.trans (by decide) hL | with_reducible apply Kept.orBits
    | with_reducible apply Kept.reportMem | with_reducible apply Kept.setWord | with_reducible apply Kept.ite | split
    | intro _

theorem Kept.noteFailure (h : Kept L s₀ s) (hL : [.regs, .pushes, .chk, .coll] ⊆ L) (a : ℕ) :
    Kept L s₀ (State.noteFailure s a) := by
  unfold State.noteFailure
  extract_lets y0 y1
  try clear_value y0 y1
  repeat' first
    | with_reducible assumption | exact List.Subset.trans (by decide) hL
    | ((with_reducible refine Touches.intro fun p hp => ?_); cases p <;> first | exact absurd (by decide) hp | (dsimp only [Part.Same]))
    | with_reducible apply Kept.remapLine | with_reducible apply Kept.ite | split | intro _
    | refine Kept.mk_of [.chk] ?_ (List.Subset.trans (by decide) hL) ?_

theorem Kept.recordLine (h : Kept L s₀ s) (hL : [.regs, .pushes, .chk, .coll] ⊆ L) (a : ℕ) (f : Finder) (outcome : ℕ) (loop : ℕ) (repaired : Bool) :
    Kept L s₀ (State.recordLine s a f outcome loop repaired) := by
  unfold State.recordLine
  extract_lets y0 y1 y2 y3 y4
  try clear_value y0
  have gy1 : Kept L s₀ y1 := by
    unfold y1
    repeat' first
      | with_reducible assumption | exact List.Subset.trans (by decide) hL | with_reducible apply Kept.count
      | with_reducible apply Kept.noteFailure | with_reducible apply Kept.setWord | with_reducible apply Kept.wrStamp
      | with_reducible apply Kept.ite | split | intro _
  try clear_value y1
  have gy2 : Kept L s₀ y2 := by
    unfold y2
    repeat' first
      | with_reducible assumption | exact List.Subset.trans (by decide) hL | with_reducible apply Kept.count
      | with_reducible apply Kept.noteFailure | with_reducible apply Kept.setWord | with_reducible apply Kept.wrStamp
      | with_reducible apply Kept.ite | split | intro _
  try clear_value y2
  have gy3 : Kept L s₀ y3 := by
    unfold y3
    repeat' first
      | with_reducible assumption | exact List.Subset.trans (by decide) hL | with_reducible apply Kept.count
      | with_reducible apply Kept.noteFailure | with_reducible apply Kept.setWord | with_reducible apply Kept.wrStamp
      | with_reducible apply Kept.ite | split | intro _
  try clear_value y3
  have gy4 : Kept L s₀ y4 := by
    unfold y4
    repeat' first
      | with_reducible assumption | exact List.Subset.trans (by decide) hL | with_reducible apply Kept.count
      | with_reducible apply Kept.noteFailure | with_reducible apply Kept.setWord | with_reducible apply Kept.wrStamp
      | with_reducible apply Kept.ite | split | intro _
  try clear_value y4
  repeat' first
    | with_reducible assumption | exact List.Subset.trans (by decide) hL | with_reducible apply Kept.count
    | with_reducible apply Kept.noteFailure | with_reducible apply Kept.setWord | with_reducible apply Kept.wrStamp
    | with_reducible apply Kept.ite | split | intro _

theorem Kept.putSlot (h : Kept L s₀ s) (hL : [.mem, .chk] ⊆ L) (n : ℕ) (v : Word) (stamp : ℕ) (writer : ℕ) (src : ℕ) (prd : Bool) :
    Kept L s₀ (State.putSlot s n v stamp writer src prd) := by
  unfold State.putSlot
  extract_lets y0
  try clear_value y0
  repeat' first
    | with_reducible assumption | exact List.Subset.trans (by decide) hL | with_reducible apply Kept.putMword

theorem Kept.slotChecked (h : Kept L s₀ s) (hL : [.regs, .pushes, .chk, .coll] ⊆ L) (n : ℕ) (f : Finder) :
    Kept L s₀ (State.slotChecked s n f) := by
  unfold State.slotChecked
  extract_lets y0 y1
  try clear_value y0
  have gy1 : Kept L s₀ y1 := by
    unfold y1
    repeat' first
      | with_reducible assumption | exact List.Subset.trans (by decide) hL
      | ((with_reducible refine Touches.intro fun p hp => ?_); cases p <;> first | exact absurd (by decide) hp | (dsimp only [Part.Same]))
      | with_reducible apply Kept.recordLine | with_reducible apply Kept.reportMem | with_reducible apply Kept.ite | split
      | intro _ | refine Kept.mk_of [.chk] ?_ (List.Subset.trans (by decide) hL) ?_
  try clear_value y1
  repeat' first
    | with_reducible assumption | exact List.Subset.trans (by decide) hL
    | ((with_reducible refine Touches.intro fun p hp => ?_); cases p <;> first | exact absurd (by decide) hp | (dsimp only [Part.Same]))
    | with_reducible apply Kept.recordLine | with_reducible apply Kept.reportMem | with_reducible apply Kept.ite | split
    | intro _ | refine Kept.mk_of [.chk] ?_ (List.Subset.trans (by decide) hL) ?_

end Sys2Proof.Machine
end

