-- ==== Sys2Proof/Laws/KeptChannels.lean ====
section
/-! SUPPORT. What the operations of Channels keep. -/

set_option linter.unusedTactic false
set_option linter.unreachableTactic false
set_option linter.unusedVariables false

namespace Sys2Proof.Machine

variable {L : List Part} {s₀ s : State}

theorem Kept.setChan (h : Kept L s₀ s) (hL : [.chans] ⊆ L) (p : ℕ) (c : Channel) :
    Kept L s₀ (State.setChan s p c) := by
  unfold State.setChan
  repeat' first
    | with_reducible assumption | exact List.Subset.trans (by decide) hL
    | ((with_reducible refine Touches.intro fun p hp => ?_); cases p <;> first | exact absurd (by decide) hp | (dsimp only [Part.Same]))
    | refine Kept.mk_of [.chans] ?_ (List.Subset.trans (by decide) hL) ?_

theorem Kept.setStage (h : Kept L s₀ s) (hL : [.stages] ⊆ L) (st : ℕ) (x : Stage) :
    Kept L s₀ (State.setStage s st x) := by
  unfold State.setStage
  repeat' first
    | with_reducible assumption | exact List.Subset.trans (by decide) hL
    | ((with_reducible refine Touches.intro fun p hp => ?_); cases p <;> first | exact absurd (by decide) hp | (dsimp only [Part.Same]))
    | refine Kept.mk_of [.stages] ?_ (List.Subset.trans (by decide) hL) ?_

theorem Kept.beginLegPeriod (h : Kept L s₀ s) (hL : [.chans] ⊆ L) (p : ℕ) (start : ℕ) :
    Kept L s₀ (State.beginLegPeriod s p start) := by
  unfold State.beginLegPeriod
  extract_lets y0 y1 y2 y3 y4
  try clear_value y0 y1 y2 y3 y4
  repeat' first
    | with_reducible assumption | exact List.Subset.trans (by decide) hL | with_reducible apply Kept.setChan

theorem Kept.latchCompare (h : Kept L s₀ s) (hL : [.regs, .pushes, .chans] ⊆ L) (p : ℕ) (cmp : ℕ) (t : ℕ) :
    Kept L s₀ (State.latchCompare s p cmp t) := by
  unfold State.latchCompare
  extract_lets y0 y1
  try clear_value y0 y1
  repeat' first
    | with_reducible assumption | exact List.Subset.trans (by decide) hL | with_reducible apply Kept.setChan
    | with_reducible apply Kept.wr | with_reducible apply Kept.ite | split | intro _

theorem Kept.latchPhase (h : Kept L s₀ s) (hL : [.chans] ⊆ L) (p : ℕ) (ph : ℕ) (t : ℕ) :
    Kept L s₀ (State.latchPhase s p ph t) := by
  unfold State.latchPhase
  extract_lets y0
  try clear_value y0
  repeat' first
    | with_reducible assumption | exact List.Subset.trans (by decide) hL | with_reducible apply Kept.setChan

theorem Kept.legPeriodStart (h : Kept L s₀ s) (hL : [.regs, .pushes, .chans] ⊆ L) (start : ℕ) (p : ℕ) :
    Kept L s₀ (State.legPeriodStart s start p) := by
  unfold State.legPeriodStart
  extract_lets y0 y1
  try clear_value y0
  have gy1 : Kept L s₀ y1 := by
    unfold y1
    repeat' first
      | with_reducible assumption | exact List.Subset.trans (by decide) hL | with_reducible apply Kept.beginLegPeriod
      | with_reducible apply Kept.setChan | with_reducible apply Kept.wr | with_reducible apply Kept.ite | split | intro _
  try clear_value y1
  repeat' first
    | with_reducible assumption | exact List.Subset.trans (by decide) hL | with_reducible apply Kept.beginLegPeriod
    | with_reducible apply Kept.setChan | with_reducible apply Kept.wr | with_reducible apply Kept.ite | split | intro _

theorem Kept.setGuard (h : Kept L s₀ s) (hL : [.guards] ⊆ L) (p : ℕ) (o : ℕ) (g : Guard) :
    Kept L s₀ (State.setGuard s p o g) := by
  unfold State.setGuard
  repeat' first
    | with_reducible assumption | exact List.Subset.trans (by decide) hL
    | ((with_reducible refine Touches.intro fun p hp => ?_); cases p <;> first | exact absurd (by decide) hp | (dsimp only [Part.Same]))
    | refine Kept.mk_of [.guards] ?_ (List.Subset.trans (by decide) hL) ?_

theorem Kept.rearm (h : Kept L s₀ s) (hL : [.guards] ⊆ L) (p : ℕ) (o : ℕ) :
    Kept L s₀ (State.rearm s p o) := by
  unfold State.rearm
  extract_lets y0
  try clear_value y0
  repeat' first
    | with_reducible assumption | exact List.Subset.trans (by decide) hL | with_reducible apply Kept.setGuard
    | with_reducible apply Kept.ite | split | intro _

theorem Kept.driveLeg (h : Kept L s₀ s) (hL : [.guards, .chans] ⊆ L) (p : ℕ) (d : LegDrive) :
    Kept L s₀ (State.driveLeg s p d) := by
  unfold State.driveLeg
  extract_lets y0 y1
  try clear_value y0
  have gy1 : Kept L s₀ y1 := by
    unfold y1
    repeat' first
      | with_reducible assumption | exact List.Subset.trans (by decide) hL | with_reducible apply Kept.rearm
      | with_reducible apply Kept.setChan | with_reducible apply Kept.ite | split | intro _
  try clear_value y1
  repeat' first
    | with_reducible assumption | exact List.Subset.trans (by decide) hL | with_reducible apply Kept.rearm
    | with_reducible apply Kept.setChan | with_reducible apply Kept.ite | split | intro _

theorem Kept.legDrives (h : Kept L s₀ s) (hL : [.chans] ⊆ L) (p : ℕ) :
    Kept L s₀ (State.legDrives s p) := by
  unfold State.legDrives
  extract_lets y0
  try clear_value y0
  repeat' first
    | with_reducible assumption | exact List.Subset.trans (by decide) hL | with_reducible apply Kept.setChan
    | with_reducible apply Kept.ite | split | intro _

theorem Kept.latchLeg (h : Kept L s₀ s) (hL : [.regs, .pushes, .chans] ⊆ L) (p : ℕ) (prot : ℕ) (soft : Bool) :
    Kept L s₀ (State.latchLeg s p prot soft) := by
  unfold State.latchLeg
  extract_lets y0 y1 y2
  try clear_value y2
  have gy0 : Kept L s₀ y0 := by
    unfold y0
    repeat' first
      | with_reducible assumption | exact List.Subset.trans (by decide) hL | with_reducible apply Kept.setChan
      | with_reducible apply Kept.wr | with_reducible apply Kept.wrB | with_reducible apply Kept.wrStamp
      | with_reducible apply Kept.ite | split | intro _
  try clear_value y0
  have gy1 : Kept L s₀ y1 := by
    unfold y1
    repeat' first
      | with_reducible assumption | exact List.Subset.trans (by decide) hL | with_reducible apply Kept.setChan
      | with_reducible apply Kept.wr | with_reducible apply Kept.wrB | with_reducible apply Kept.wrStamp
      | with_reducible apply Kept.ite | split | intro _
  try clear_value y1
  repeat' first
    | with_reducible assumption | exact List.Subset.trans (by decide) hL | with_reducible apply Kept.setChan
    | with_reducible apply Kept.wr | with_reducible apply Kept.wrB | with_reducible apply Kept.wrStamp
    | with_reducible apply Kept.ite | split | intro _

theorem Kept.dropGuard (h : Kept L s₀ s) (hL : [.guards] ⊆ L) (p : ℕ) (o : ℕ) :
    Kept L s₀ (State.dropGuard s p o) := by
  unfold State.dropGuard
  repeat' first
    | with_reducible assumption | exact List.Subset.trans (by decide) hL | with_reducible apply Kept.setGuard
    | with_reducible apply Kept.ite | split | intro _

theorem Kept.releaseLatches (h : Kept L s₀ s) (hL : [.regs, .pushes, .guards, .chans] ⊆ L) (st : ℕ) :
    Kept L s₀ (State.releaseLatches s st) := by
  unfold State.releaseLatches
  repeat' first
    | with_reducible assumption | exact List.Subset.trans (by decide) hL | with_reducible apply Kept.dropGuard
    | with_reducible apply Kept.each | with_reducible apply Kept.setChan | with_reducible apply Kept.wrB | intro _

theorem Kept.chargePumpLow (h : Kept L s₀ s) (hL : [.regs, .pushes, .coll] ⊆ L) :
    Kept L s₀ (State.chargePumpLow s) := by
  unfold State.chargePumpLow
  repeat' first
    | with_reducible assumption | exact List.Subset.trans (by decide) hL | with_reducible apply Kept.each
    | with_reducible apply Kept.reportTp | with_reducible apply Kept.wrB | with_reducible apply Kept.ite | split | intro _

theorem Kept.chargePumpOk (h : Kept L s₀ s) (hL : [.regs, .pushes] ⊆ L) :
    Kept L s₀ (State.chargePumpOk s) := by
  unfold State.chargePumpOk
  repeat' first
    | with_reducible assumption | exact List.Subset.trans (by decide) hL | with_reducible apply Kept.each
    | with_reducible apply Kept.wrB | intro _

theorem Kept.suppression (h : Kept L s₀ s) (hL : [.regs, .pushes, .coll] ⊆ L) (p : ℕ) :
    Kept L s₀ (State.suppression s p) := by
  unfold State.suppression
  extract_lets y0 y1 y2
  try clear_value y0 y1
  have gy2 : Kept L s₀ y2 := by
    unfold y2
    repeat' first
      | with_reducible assumption | exact List.Subset.trans (by decide) hL | with_reducible apply Kept.reportTp
      | with_reducible apply Kept.wrB | with_reducible apply Kept.ite | split | intro _
  try clear_value y2
  repeat' first
    | with_reducible assumption | exact List.Subset.trans (by decide) hL | with_reducible apply Kept.reportTp
    | with_reducible apply Kept.wrB | with_reducible apply Kept.ite | split | intro _

theorem Kept.bootstrap (h : Kept L s₀ s) (hL : [.regs, .pushes, .coll, .chans] ⊆ L) (p : ℕ) (low : Bool) :
    Kept L s₀ (State.bootstrap s p low) := by
  unfold State.bootstrap
  extract_lets y0 y1 y2 y3
  try clear_value y1 y2
  have gy0 : Kept L s₀ y0 := by
    unfold y0
    repeat' first
      | with_reducible assumption | exact List.Subset.trans (by decide) hL | with_reducible apply Kept.setChan
      | with_reducible apply Kept.suppression | with_reducible apply Kept.wrB | with_reducible apply Kept.ite | split
      | intro _
  try clear_value y0
  have gy3 : Kept L s₀ y3 := by
    unfold y3
    repeat' first
      | with_reducible assumption | exact List.Subset.trans (by decide) hL | with_reducible apply Kept.setChan
      | with_reducible apply Kept.suppression | with_reducible apply Kept.wrB | with_reducible apply Kept.ite | split
      | intro _
  try clear_value y3
  repeat' first
    | with_reducible assumption | exact List.Subset.trans (by decide) hL | with_reducible apply Kept.setChan
    | with_reducible apply Kept.suppression | with_reducible apply Kept.wrB | with_reducible apply Kept.ite | split | intro _

theorem Kept.refreshPulse (h : Kept L s₀ s) (hL : [.regs, .pushes, .coll, .chans] ⊆ L) (p : ℕ) :
    Kept L s₀ (State.refreshPulse s p) := by
  unfold State.refreshPulse
  extract_lets y0 y1 y2
  try clear_value y0
  have gy1 : Kept L s₀ y1 := by
    unfold y1
    repeat' first
      | with_reducible assumption | exact List.Subset.trans (by decide) hL | with_reducible apply Kept.count
      | with_reducible apply Kept.reportTp | with_reducible apply Kept.setChan | with_reducible apply Kept.ite | split
      | intro _
  try clear_value y1
  have gy2 : Kept L s₀ y2 := by
    unfold y2
    repeat' first
      | with_reducible assumption | exact List.Subset.trans (by decide) hL | with_reducible apply Kept.count
      | with_reducible apply Kept.reportTp | with_reducible apply Kept.setChan | with_reducible apply Kept.ite | split
      | intro _
  try clear_value y2
  repeat' first
    | with_reducible assumption | exact List.Subset.trans (by decide) hL | with_reducible apply Kept.count
    | with_reducible apply Kept.reportTp | with_reducible apply Kept.setChan | with_reducible apply Kept.ite | split
    | intro _

theorem Kept.pinTransition (h : Kept L s₀ s) (hL : [.regs, .pushes, .chans] ⊆ L) (p : ℕ) (pls : Bool) (en : Bool) :
    Kept L s₀ (State.pinTransition s p pls en) := by
  unfold State.pinTransition
  extract_lets y0 y1 y2
  try clear_value y0 y2
  have gy1 : Kept L s₀ y1 := by
    unfold y1
    repeat' first
      | with_reducible assumption | exact List.Subset.trans (by decide) hL | with_reducible apply Kept.setChan
      | with_reducible apply Kept.wrB | with_reducible apply Kept.ite | split | intro _
  try clear_value y1
  repeat' first
    | with_reducible assumption | exact List.Subset.trans (by decide) hL | with_reducible apply Kept.setChan
    | with_reducible apply Kept.wrB | with_reducible apply Kept.ite | split | intro _

theorem Kept.fltPin (h : Kept L s₀ s) (hL : [.regs, .pushes, .chans] ⊆ L) (p : ℕ) (low : Bool) :
    Kept L s₀ (State.fltPin s p low) := by
  unfold State.fltPin
  extract_lets y0 y1
  try clear_value y0
  have gy1 : Kept L s₀ y1 := by
    unfold y1
    repeat' first
      | with_reducible assumption | exact List.Subset.trans (by decide) hL | with_reducible apply Kept.setChan
      | with_reducible apply Kept.wrB | with_reducible apply Kept.ite | split | intro _
  try clear_value y1
  repeat' first
    | with_reducible assumption | exact List.Subset.trans (by decide) hL | with_reducible apply Kept.setChan
    | with_reducible apply Kept.wrB | with_reducible apply Kept.ite | split | intro _

theorem Kept.ownerChanged (h : Kept L s₀ s) (hL : [.regs, .pushes, .guards, .chans] ⊆ L) (p : ℕ) :
    Kept L s₀ (State.ownerChanged s p) := by
  unfold State.ownerChanged
  extract_lets y0 y1
  have gy0 : Kept L s₀ y0 := by
    unfold y0
    repeat' first
      | with_reducible assumption | exact List.Subset.trans (by decide) hL | with_reducible apply Kept.driveLeg
      | with_reducible apply Kept.setGuard | with_reducible apply Kept.wr | with_reducible apply Kept.wrB
  try clear_value y0
  have gy1 : Kept L s₀ y1 := by
    unfold y1
    repeat' first
      | with_reducible assumption | exact List.Subset.trans (by decide) hL | with_reducible apply Kept.driveLeg
      | with_reducible apply Kept.setGuard | with_reducible apply Kept.wr | with_reducible apply Kept.wrB
  try clear_value y1
  repeat' first
    | with_reducible assumption | exact List.Subset.trans (by decide) hL | with_reducible apply Kept.driveLeg
    | with_reducible apply Kept.setGuard | with_reducible apply Kept.wr | with_reducible apply Kept.wrB

end Sys2Proof.Machine
end

