-- ==== Sys2Proof/Laws/KeptStageBase.lean ====
section
/-! SUPPORT. What the operations of StageBase keep. -/

set_option linter.unusedTactic false
set_option linter.unreachableTactic false
set_option linter.unusedVariables false

namespace Sys2Proof.Machine

variable {L : List Part} {s₀ s : State}

theorem Kept.setSample (h : Kept L s₀ s) (hL : [.samples] ⊆ L) (h : ℕ) (x : Sample) :
    Kept L s₀ (State.setSample s h x) := by
  unfold State.setSample
  repeat' first
    | with_reducible assumption | exact List.Subset.trans (by decide) hL
    | ((with_reducible refine Touches.intro fun p hp => ?_); cases p <;> first | exact absurd (by decide) hp | (dsimp only [Part.Same]))
    | refine Kept.mk_of [.samples] ?_ (List.Subset.trans (by decide) hL) ?_

theorem Kept.setMode (h : Kept L s₀ s) (hL : [.regs, .pushes, .stages] ⊆ L) (st : ℕ) (m : ℕ) (host : Bool) :
    Kept L s₀ (State.setMode s st m host) := by
  unfold State.setMode
  extract_lets y0 y1 y2 y3 y4
  try clear_value y0 y1
  have gy2 : Kept L s₀ y2 := by
    unfold y2
    repeat' first
      | with_reducible assumption | exact List.Subset.trans (by decide) hL | with_reducible apply Kept.agrEvent
      | with_reducible apply Kept.setStage | with_reducible apply Kept.wr | with_reducible apply Kept.ite | split | intro _
  try clear_value y2
  have gy3 : Kept L s₀ y3 := by
    unfold y3
    repeat' first
      | with_reducible assumption | exact List.Subset.trans (by decide) hL | with_reducible apply Kept.agrEvent
      | with_reducible apply Kept.setStage | with_reducible apply Kept.wr | with_reducible apply Kept.ite | split | intro _
  try clear_value y3
  have gy4 : Kept L s₀ y4 := by
    unfold y4
    repeat' first
      | with_reducible assumption | exact List.Subset.trans (by decide) hL | with_reducible apply Kept.agrEvent
      | with_reducible apply Kept.setStage | with_reducible apply Kept.wr | with_reducible apply Kept.ite | split | intro _
  try clear_value y4
  repeat' first
    | with_reducible assumption | exact List.Subset.trans (by decide) hL | with_reducible apply Kept.agrEvent
    | with_reducible apply Kept.setStage | with_reducible apply Kept.wr | with_reducible apply Kept.ite | split | intro _

theorem Kept.showLegs (h : Kept L s₀ s) (hL : [.regs, .pushes] ⊆ L) (st : ℕ) :
    Kept L s₀ (State.showLegs s st) := by
  unfold State.showLegs
  extract_lets y0 y1 y2
  try clear_value y0 y1
  have gy2 : Kept L s₀ y2 := by
    unfold y2
    repeat' first
      | with_reducible assumption | exact List.Subset.trans (by decide) hL | with_reducible apply Kept.wr
      | with_reducible apply Kept.ite | split | intro _
  try clear_value y2
  repeat' first
    | with_reducible assumption | exact List.Subset.trans (by decide) hL | with_reducible apply Kept.wr
    | with_reducible apply Kept.ite | split | intro _

theorem Kept.setLegCode (h : Kept L s₀ s) (hL : [.regs, .pushes, .guards, .chans, .stages] ⊆ L) (st : ℕ) (set : ℕ) (code : ℕ) :
    Kept L s₀ (State.setLegCode s st set code) := by
  unfold State.setLegCode
  extract_lets y0 y1 y2
  try clear_value y0 y2
  have gy1 : Kept L s₀ y1 := by
    unfold y1
    repeat' first
      | with_reducible assumption | exact List.Subset.trans (by decide) hL | with_reducible apply Kept.driveLeg
      | with_reducible apply Kept.each | with_reducible apply Kept.setStage | with_reducible apply Kept.showLegs
      | with_reducible apply Kept.ite | split | intro _
  try clear_value y1
  repeat' first
    | with_reducible assumption | exact List.Subset.trans (by decide) hL | with_reducible apply Kept.driveLeg
    | with_reducible apply Kept.each | with_reducible apply Kept.setStage | with_reducible apply Kept.showLegs
    | with_reducible apply Kept.ite | split | intro _

theorem Kept.setAllLegs (h : Kept L s₀ s) (hL : [.regs, .pushes, .guards, .chans, .stages] ⊆ L) (st : ℕ) (code : ℕ) :
    Kept L s₀ (State.setAllLegs s st code) := by
  unfold State.setAllLegs
  extract_lets y0
  have gy0 : Kept L s₀ y0 := by
    unfold y0
    repeat' first
      | with_reducible assumption | exact List.Subset.trans (by decide) hL | with_reducible apply Kept.setLegCode
      | with_reducible apply Kept.ite | split | intro _
  try clear_value y0
  repeat' first
    | with_reducible assumption | exact List.Subset.trans (by decide) hL | with_reducible apply Kept.setLegCode
    | with_reducible apply Kept.ite | split | intro _

theorem Kept.startPeriod (h : Kept L s₀ s) (hL : [.regs, .pushes, .chans, .stages] ⊆ L) (st : ℕ) (set : ℕ) (at_ : ℕ) :
    Kept L s₀ (State.startPeriod s st set at_) := by
  unfold State.startPeriod
  extract_lets y0 y1 y2
  try clear_value y0 y1
  have gy2 : Kept L s₀ y2 := by
    unfold y2
    repeat' first
      | with_reducible assumption | exact List.Subset.trans (by decide) hL | with_reducible apply Kept.each
      | with_reducible apply Kept.legPeriodStart | with_reducible apply Kept.setStage | with_reducible apply Kept.ite | split
      | intro _
  try clear_value y2
  repeat' first
    | with_reducible assumption | exact List.Subset.trans (by decide) hL | with_reducible apply Kept.each
    | with_reducible apply Kept.legPeriodStart | with_reducible apply Kept.setStage | with_reducible apply Kept.ite | split
    | intro _

theorem Kept.sampleTaken (h : Kept L s₀ s) (hL : [.stages] ⊆ L) (st : ℕ) (set : ℕ) :
    Kept L s₀ (State.sampleTaken s st set) := by
  unfold State.sampleTaken
  extract_lets y0 y1
  try clear_value y0 y1
  repeat' first
    | with_reducible assumption | exact List.Subset.trans (by decide) hL | with_reducible apply Kept.setStage

theorem Kept.stampInputs (h : Kept L s₀ s) (hL : [.regs, .pushes] ⊆ L) (st : ℕ) :
    Kept L s₀ (State.stampInputs s st) := by
  unfold State.stampInputs
  repeat' first
    | with_reducible assumption | exact List.Subset.trans (by decide) hL | with_reducible apply Kept.wrStamp

theorem Kept.setIn (h : Kept L s₀ s) (hL : [.regs, .pushes] ⊆ L) (st : ℕ) (k : ℕ) (w : Word) :
    Kept L s₀ (State.setIn s st k w) := by
  unfold State.setIn
  repeat' first
    | with_reducible assumption | exact List.Subset.trans (by decide) hL | with_reducible apply Kept.setWord

theorem Kept.refuse (h : Kept L s₀ s) (hL : [.regs, .pushes, .coll] ⊆ L) (st : ℕ) (reason : ℕ) :
    Kept L s₀ (State.refuse s st reason) := by
  unfold State.refuse
  repeat' first
    | with_reducible assumption | exact List.Subset.trans (by decide) hL | with_reducible apply Kept.reportTp
    | with_reducible apply Kept.wr | with_reducible apply Kept.ite | split | intro _

theorem Kept.accept (h : Kept L s₀ s) (hL : [.regs, .pushes] ⊆ L) (st : ℕ) :
    Kept L s₀ (State.accept s st) := by
  unfold State.accept
  repeat' first
    | with_reducible assumption | exact List.Subset.trans (by decide) hL | with_reducible apply Kept.wr

end Sys2Proof.Machine
end

