-- ==== Sys2Proof/Laws/KeptTraction.lean ====
section
/-! SUPPORT. What the operations of Traction keep. -/

set_option linter.unusedTactic false
set_option linter.unreachableTactic false
set_option linter.unusedVariables false

namespace Sys2Proof.Machine

variable {L : List Part} {s₀ s : State}

theorem Kept.setChk (h : Kept L s₀ s) (hL : [.stages] ⊆ L) (st : ℕ) (set : ℕ) (c : SetChecks) :
    Kept L s₀ (State.setChk s st set c) := by
  unfold State.setChk
  extract_lets y0
  try clear_value y0
  repeat' first
    | with_reducible assumption | exact List.Subset.trans (by decide) hL | with_reducible apply Kept.setStage
    | with_reducible apply Kept.ite | split | intro _

theorem Kept.tracShow (h : Kept L s₀ s) (hL : [.regs, .pushes] ⊆ L) (st : ℕ) :
    Kept L s₀ (State.tracShow s st) := by
  unfold State.tracShow
  repeat' first
    | with_reducible assumption | exact List.Subset.trans (by decide) hL | with_reducible apply Kept.setIn

theorem Kept.tracEnter (h : Kept L s₀ s) (hL : [.regs, .pushes, .guards, .chans, .stages] ⊆ L) (st : ℕ) (m : ℕ) (legA : ℕ) (legB : ℕ) (hold : Bool) (react : Bool) (offPend : Bool) (revPend : Bool) (host : Bool) :
    Kept L s₀ (State.tracEnter s st m legA legB hold react offPend revPend host) := by
  unfold State.tracEnter
  extract_lets y0 y1 y2 y3 y4 y5 y6 y7 y8
  try clear_value y0 y1 y7
  have gy2 : Kept L s₀ y2 := by
    unfold y2
    repeat' first
      | with_reducible assumption | exact List.Subset.trans (by decide) hL | with_reducible apply Kept.setLegCode
      | with_reducible apply Kept.setMode | with_reducible apply Kept.setStage | with_reducible apply Kept.tracShow
      | with_reducible apply Kept.wrB | with_reducible apply Kept.ite | split | intro _
  try clear_value y2
  have gy3 : Kept L s₀ y3 := by
    unfold y3
    repeat' first
      | with_reducible assumption | exact List.Subset.trans (by decide) hL | with_reducible apply Kept.setLegCode
      | with_reducible apply Kept.setMode | with_reducible apply Kept.setStage | with_reducible apply Kept.tracShow
      | with_reducible apply Kept.wrB | with_reducible apply Kept.ite | split | intro _
  try clear_value y3
  have gy4 : Kept L s₀ y4 := by
    unfold y4
    repeat' first
      | with_reducible assumption | exact List.Subset.trans (by decide) hL | with_reducible apply Kept.setLegCode
      | with_reducible apply Kept.setMode | with_reducible apply Kept.setStage | with_reducible apply Kept.tracShow
      | with_reducible apply Kept.wrB | with_reducible apply Kept.ite | split | intro _
  try clear_value y4
  have gy5 : Kept L s₀ y5 := by
    unfold y5
    repeat' first
      | with_reducible assumption | exact List.Subset.trans (by decide) hL | with_reducible apply Kept.setLegCode
      | with_reducible apply Kept.setMode | with_reducible apply Kept.setStage | with_reducible apply Kept.tracShow
      | with_reducible apply Kept.wrB | with_reducible apply Kept.ite | split | intro _
  try clear_value y5
  have gy6 : Kept L s₀ y6 := by
    unfold y6
    repeat' first
      | with_reducible assumption | exact List.Subset.trans (by decide) hL | with_reducible apply Kept.setLegCode
      | with_reducible apply Kept.setMode | with_reducible apply Kept.setStage | with_reducible apply Kept.tracShow
      | with_reducible apply Kept.wrB | with_reducible apply Kept.ite | split | intro _
  try clear_value y6
  have gy8 : Kept L s₀ y8 := by
    unfold y8
    repeat' first
      | with_reducible assumption | exact List.Subset.trans (by decide) hL | with_reducible apply Kept.setLegCode
      | with_reducible apply Kept.setMode | with_reducible apply Kept.setStage | with_reducible apply Kept.tracShow
      | with_reducible apply Kept.wrB | with_reducible apply Kept.ite | split | intro _
  try clear_value y8
  repeat' first
    | with_reducible assumption | exact List.Subset.trans (by decide) hL | with_reducible apply Kept.setLegCode
    | with_reducible apply Kept.setMode | with_reducible apply Kept.setStage | with_reducible apply Kept.tracShow
    | with_reducible apply Kept.wrB | with_reducible apply Kept.ite | split | intro _

theorem Kept.tracOff (h : Kept L s₀ s) (hL : [.regs, .pushes, .guards, .chans, .stages] ⊆ L) (st : ℕ) (host : Bool) :
    Kept L s₀ (State.tracOff s st host) := by
  unfold State.tracOff
  extract_lets y0 y1 y2 y3 y4 y5
  try clear_value y0 y4
  have gy1 : Kept L s₀ y1 := by
    unfold y1
    repeat' first
      | with_reducible assumption | exact List.Subset.trans (by decide) hL | with_reducible apply Kept.releaseLatches
      | with_reducible apply Kept.setStage | with_reducible apply Kept.setWord | with_reducible apply Kept.tracEnter
      | with_reducible apply Kept.wrB
  try clear_value y1
  have gy2 : Kept L s₀ y2 := by
    unfold y2
    repeat' first
      | with_reducible assumption | exact List.Subset.trans (by decide) hL | with_reducible apply Kept.releaseLatches
      | with_reducible apply Kept.setStage | with_reducible apply Kept.setWord | with_reducible apply Kept.tracEnter
      | with_reducible apply Kept.wrB
  try clear_value y2
  have gy3 : Kept L s₀ y3 := by
    unfold y3
    repeat' first
      | with_reducible assumption | exact List.Subset.trans (by decide) hL | with_reducible apply Kept.releaseLatches
      | with_reducible apply Kept.setStage | with_reducible apply Kept.setWord | with_reducible apply Kept.tracEnter
      | with_reducible apply Kept.wrB
  try clear_value y3
  have gy5 : Kept L s₀ y5 := by
    unfold y5
    repeat' first
      | with_reducible assumption | exact List.Subset.trans (by decide) hL | with_reducible apply Kept.releaseLatches
      | with_reducible apply Kept.setStage | with_reducible apply Kept.setWord | with_reducible apply Kept.tracEnter
      | with_reducible apply Kept.wrB
  try clear_value y5
  repeat' first
    | with_reducible assumption | exact List.Subset.trans (by decide) hL | with_reducible apply Kept.releaseLatches
    | with_reducible apply Kept.setStage | with_reducible apply Kept.setWord | with_reducible apply Kept.tracEnter
    | with_reducible apply Kept.wrB

theorem Kept.reaction (h : Kept L s₀ s) (hL : [.regs, .pushes, .coll, .guards, .chans, .stages] ⊆ L) (st : ℕ) :
    Kept L s₀ (State.reaction s st) := by
  unfold State.reaction
  extract_lets y0 y1 y2 y3
  try clear_value y0 y2
  have gy1 : Kept L s₀ y1 := by
    unfold y1
    repeat' first
      | with_reducible assumption | exact List.Subset.trans (by decide) hL | with_reducible apply Kept.reportTp
      | with_reducible apply Kept.setStage | with_reducible apply Kept.tracEnter | with_reducible apply Kept.ite | split
      | intro _
  try clear_value y1
  have gy3 : Kept L s₀ y3 := by
    unfold y3
    repeat' first
      | with_reducible assumption | exact List.Subset.trans (by decide) hL | with_reducible apply Kept.reportTp
      | with_reducible apply Kept.setStage | with_reducible apply Kept.tracEnter | with_reducible apply Kept.ite | split
      | intro _
  try clear_value y3
  repeat' first
    | with_reducible assumption | exact List.Subset.trans (by decide) hL | with_reducible apply Kept.reportTp
    | with_reducible apply Kept.setStage | with_reducible apply Kept.tracEnter | with_reducible apply Kept.ite | split
    | intro _

theorem Kept.tracHold (h : Kept L s₀ s) (hL : [.regs, .pushes, .guards, .chans, .stages] ⊆ L) (st : ℕ) :
    Kept L s₀ (State.tracHold s st) := by
  unfold State.tracHold
  extract_lets y0 y1
  try clear_value y0
  have gy1 : Kept L s₀ y1 := by
    unfold y1
    repeat' first
      | with_reducible assumption | exact List.Subset.trans (by decide) hL | with_reducible apply Kept.setStage
      | with_reducible apply Kept.tracEnter
  try clear_value y1
  repeat' first
    | with_reducible assumption | exact List.Subset.trans (by decide) hL | with_reducible apply Kept.setStage
    | with_reducible apply Kept.tracEnter

theorem Kept.isolate (h : Kept L s₀ s) (hL : [.regs, .pushes, .coll, .guards, .chans, .stages] ⊆ L) (st : ℕ) (set : ℕ) (cause : ℕ) :
    Kept L s₀ (State.isolate s st set cause) := by
  unfold State.isolate
  extract_lets y0 y1 y2 y3 y4 y5
  try clear_value y0 y4
  have gy1 : Kept L s₀ y1 := by
    unfold y1
    repeat' first
      | with_reducible assumption | exact List.Subset.trans (by decide) hL | with_reducible apply Kept.reaction
      | with_reducible apply Kept.reportTp | with_reducible apply Kept.setLegCode | with_reducible apply Kept.setMode
      | with_reducible apply Kept.tracShow | with_reducible apply Kept.wr | with_reducible apply Kept.ite | split | intro _
  try clear_value y1
  have gy2 : Kept L s₀ y2 := by
    unfold y2
    repeat' first
      | with_reducible assumption | exact List.Subset.trans (by decide) hL | with_reducible apply Kept.reaction
      | with_reducible apply Kept.reportTp | with_reducible apply Kept.setLegCode | with_reducible apply Kept.setMode
      | with_reducible apply Kept.tracShow | with_reducible apply Kept.wr | with_reducible apply Kept.ite | split | intro _
  try clear_value y2
  have gy3 : Kept L s₀ y3 := by
    unfold y3
    repeat' first
      | with_reducible assumption | exact List.Subset.trans (by decide) hL | with_reducible apply Kept.reaction
      | with_reducible apply Kept.reportTp | with_reducible apply Kept.setLegCode | with_reducible apply Kept.setMode
      | with_reducible apply Kept.tracShow | with_reducible apply Kept.wr | with_reducible apply Kept.ite | split | intro _
  try clear_value y3
  have gy5 : Kept L s₀ y5 := by
    unfold y5
    repeat' first
      | with_reducible assumption | exact List.Subset.trans (by decide) hL | with_reducible apply Kept.reaction
      | with_reducible apply Kept.reportTp | with_reducible apply Kept.setLegCode | with_reducible apply Kept.setMode
      | with_reducible apply Kept.tracShow | with_reducible apply Kept.wr | with_reducible apply Kept.ite | split | intro _
  try clear_value y5
  repeat' first
    | with_reducible assumption | exact List.Subset.trans (by decide) hL | with_reducible apply Kept.reaction
    | with_reducible apply Kept.reportTp | with_reducible apply Kept.setLegCode | with_reducible apply Kept.setMode
    | with_reducible apply Kept.tracShow | with_reducible apply Kept.wr | with_reducible apply Kept.ite | split | intro _

theorem Kept.reconstruct (h : Kept L s₀ s) (hL : [.regs, .pushes, .coll, .stages] ⊆ L) (st : ℕ) (set : ℕ) (k : ℕ) :
    Kept L s₀ (State.reconstruct s st set k) := by
  unfold State.reconstruct
  extract_lets y0 y1 y2 y3 y4
  try clear_value y0 y3
  have gy1 : Kept L s₀ y1 := by
    unfold y1
    repeat' first
      | with_reducible assumption | exact List.Subset.trans (by decide) hL | with_reducible apply Kept.reportTp
      | with_reducible apply Kept.setChk | with_reducible apply Kept.tracShow | with_reducible apply Kept.wr
      | with_reducible apply Kept.wrB
  try clear_value y1
  have gy2 : Kept L s₀ y2 := by
    unfold y2
    repeat' first
      | with_reducible assumption | exact List.Subset.trans (by decide) hL | with_reducible apply Kept.reportTp
      | with_reducible apply Kept.setChk | with_reducible apply Kept.tracShow | with_reducible apply Kept.wr
      | with_reducible apply Kept.wrB
  try clear_value y2
  have gy4 : Kept L s₀ y4 := by
    unfold y4
    repeat' first
      | with_reducible assumption | exact List.Subset.trans (by decide) hL | with_reducible apply Kept.reportTp
      | with_reducible apply Kept.setChk | with_reducible apply Kept.tracShow | with_reducible apply Kept.wr
      | with_reducible apply Kept.wrB
  try clear_value y4
  repeat' first
    | with_reducible assumption | exact List.Subset.trans (by decide) hL | with_reducible apply Kept.reportTp
    | with_reducible apply Kept.setChk | with_reducible apply Kept.tracShow | with_reducible apply Kept.wr
    | with_reducible apply Kept.wrB

theorem Kept.sumCheck (h : Kept L s₀ s) (hL : [.stages] ⊆ L) (st : ℕ) (set : ℕ) :
    Kept L s₀ (State.sumCheck s st set) := by
  unfold State.sumCheck
  extract_lets y0 y1 y2 y3 y4 y5 y6
  try clear_value y0 y1 y2 y3 y4 y5 y6
  repeat' first
    | with_reducible assumption | exact List.Subset.trans (by decide) hL | with_reducible apply Kept.setChk
    | with_reducible apply Kept.ite | split | intro _

theorem Kept.vectorCheck (h : Kept L s₀ s) (hL : [.stages] ⊆ L) (st : ℕ) (set : ℕ) :
    Kept L s₀ (State.vectorCheck s st set) := by
  unfold State.vectorCheck
  extract_lets y0 y1 y2 y3 y4 y5
  try clear_value y0 y1 y2 y3 y4 y5
  repeat' first
    | with_reducible assumption | exact List.Subset.trans (by decide) hL | with_reducible apply Kept.setChk
    | with_reducible apply Kept.ite | split | intro _

theorem Kept.setDecision (h : Kept L s₀ s) (hL : [.regs, .pushes, .coll, .guards, .chans, .stages] ⊆ L) (st : ℕ) (set : ℕ) :
    Kept L s₀ (State.setDecision s st set) := by
  unfold State.setDecision
  extract_lets y0 y1 y2 y3 y4 y5
  try clear_value y0 y1 y2 y3 y4 y5
  repeat' first
    | with_reducible assumption | exact List.Subset.trans (by decide) hL | with_reducible apply Kept.isolate
    | with_reducible apply Kept.reconstruct | with_reducible apply Kept.ite | split | intro _

theorem Kept.selectSource (h : Kept L s₀ s) (hL : [.regs, .pushes, .coll] ⊆ L) (st : ℕ) :
    Kept L s₀ (State.selectSource s st) := by
  unfold State.selectSource
  extract_lets y0 y1 y2 y3 y4 y5 y6
  try clear_value y0 y1 y2 y4 y5
  have gy3 : Kept L s₀ y3 := by
    unfold y3
    repeat' first
      | with_reducible assumption | exact List.Subset.trans (by decide) hL | with_reducible apply Kept.reportTp
      | with_reducible apply Kept.wr | with_reducible apply Kept.wrB | with_reducible apply Kept.ite | split | intro _
  try clear_value y3
  have gy6 : Kept L s₀ y6 := by
    unfold y6
    repeat' first
      | with_reducible assumption | exact List.Subset.trans (by decide) hL | with_reducible apply Kept.reportTp
      | with_reducible apply Kept.wr | with_reducible apply Kept.wrB | with_reducible apply Kept.ite | split | intro _
  try clear_value y6
  repeat' first
    | with_reducible assumption | exact List.Subset.trans (by decide) hL | with_reducible apply Kept.reportTp
    | with_reducible apply Kept.wr | with_reducible apply Kept.wrB | with_reducible apply Kept.ite | split | intro _

theorem Kept.positionLost (h : Kept L s₀ s) (hL : [.regs, .pushes, .coll, .stages] ⊆ L) (st : ℕ) :
    Kept L s₀ (State.positionLost s st) := by
  unfold State.positionLost
  extract_lets y0 y1 y2 y3 y4
  try clear_value y0 y1 y4
  have gy2 : Kept L s₀ y2 := by
    unfold y2
    repeat' first
      | with_reducible assumption | exact List.Subset.trans (by decide) hL | with_reducible apply Kept.reportTp
      | with_reducible apply Kept.setStage | with_reducible apply Kept.tracShow | with_reducible apply Kept.wrB
      | with_reducible apply Kept.ite | split | intro _
  try clear_value y2
  have gy3 : Kept L s₀ y3 := by
    unfold y3
    repeat' first
      | with_reducible assumption | exact List.Subset.trans (by decide) hL | with_reducible apply Kept.reportTp
      | with_reducible apply Kept.setStage | with_reducible apply Kept.tracShow | with_reducible apply Kept.wrB
      | with_reducible apply Kept.ite | split | intro _
  try clear_value y3
  repeat' first
    | with_reducible assumption | exact List.Subset.trans (by decide) hL | with_reducible apply Kept.reportTp
    | with_reducible apply Kept.setStage | with_reducible apply Kept.tracShow | with_reducible apply Kept.wrB
    | with_reducible apply Kept.ite | split | intro _

theorem Kept.lossRampEnd (h : Kept L s₀ s) (hL : [.regs, .pushes, .coll, .guards, .chans, .stages] ⊆ L) (st : ℕ) :
    Kept L s₀ (State.lossRampEnd s st) := by
  unfold State.lossRampEnd
  repeat' first
    | with_reducible assumption | exact List.Subset.trans (by decide) hL | with_reducible apply Kept.reaction
    | with_reducible apply Kept.ite | split | intro _

theorem Kept.tqStaleTimeout (h : Kept L s₀ s) (hL : [.coll, .stages] ⊆ L) (st : ℕ) :
    Kept L s₀ (State.tqStaleTimeout s st) := by
  unfold State.tqStaleTimeout
  extract_lets y0
  try clear_value y0
  repeat' first
    | with_reducible assumption | exact List.Subset.trans (by decide) hL | with_reducible apply Kept.reportTp
    | with_reducible apply Kept.setStage | with_reducible apply Kept.ite | split | intro _

theorem Kept.formSpeed (h : Kept L s₀ s) (hL : [.regs, .pushes, .stages] ⊆ L) (st : ℕ) (zc : Option Word) :
    Kept L s₀ (State.formSpeed s st zc) := by
  unfold State.formSpeed
  extract_lets y0 y1 y2 y3 y4 y5 y6 y7
  try clear_value y0 y1 y2 y3 y4 y6
  have gy7 : Kept L s₀ y7 := by
    unfold y7
    repeat' first
      | with_reducible assumption | exact List.Subset.trans (by decide) hL | with_reducible apply Kept.setStage
      | with_reducible apply Kept.setWord | with_reducible apply Kept.ite | split | intro _
  try clear_value y7
  repeat' first
    | with_reducible assumption | exact List.Subset.trans (by decide) hL | with_reducible apply Kept.setStage
    | with_reducible apply Kept.setWord | with_reducible apply Kept.ite | split | intro _

theorem Kept.formNAsc (h : Kept L s₀ s) (hL : [.regs, .pushes, .stages] ⊆ L) (st : ℕ) :
    Kept L s₀ (State.formNAsc s st) := by
  unfold State.formNAsc
  extract_lets y0 y1 y2 y3 y4 y5 y6
  try clear_value y0 y1 y2 y3 y4 y5 y6
  repeat' first
    | with_reducible assumption | exact List.Subset.trans (by decide) hL | with_reducible apply Kept.setStage
    | with_reducible apply Kept.setWord | with_reducible apply Kept.ite | split | intro _

theorem Kept.formTorque (h : Kept L s₀ s) (hL : [.regs, .pushes] ⊆ L) (st : ℕ) :
    Kept L s₀ (State.formTorque s st) := by
  unfold State.formTorque
  extract_lets y0 y1 y2 y3 y4 y5 y6 y7 y8
  try clear_value y0 y1 y2 y3 y4 y5 y6 y7 y8
  repeat' first
    | with_reducible assumption | exact List.Subset.trans (by decide) hL | with_reducible apply Kept.setIn
    | with_reducible apply Kept.setWord | with_reducible apply Kept.ite | split | intro _

theorem Kept.tracInputs (h : Kept L s₀ s) (hL : [.regs, .pushes] ⊆ L) (st : ℕ) :
    Kept L s₀ (State.tracInputs s st) := by
  unfold State.tracInputs
  extract_lets y0 y1 y2 y3 y4
  try clear_value y0
  have gy1 : Kept L s₀ y1 := by
    unfold y1
    repeat' first
      | with_reducible assumption | exact List.Subset.trans (by decide) hL | with_reducible apply Kept.setIn
      | with_reducible apply Kept.stampInputs | with_reducible apply Kept.tracShow | with_reducible apply Kept.ite | split
      | intro _
  try clear_value y1
  have gy2 : Kept L s₀ y2 := by
    unfold y2
    repeat' first
      | with_reducible assumption | exact List.Subset.trans (by decide) hL | with_reducible apply Kept.setIn
      | with_reducible apply Kept.stampInputs | with_reducible apply Kept.tracShow | with_reducible apply Kept.ite | split
      | intro _
  try clear_value y2
  have gy3 : Kept L s₀ y3 := by
    unfold y3
    repeat' first
      | with_reducible assumption | exact List.Subset.trans (by decide) hL | with_reducible apply Kept.setIn
      | with_reducible apply Kept.stampInputs | with_reducible apply Kept.tracShow | with_reducible apply Kept.ite | split
      | intro _
  try clear_value y3
  have gy4 : Kept L s₀ y4 := by
    unfold y4
    repeat' first
      | with_reducible assumption | exact List.Subset.trans (by decide) hL | with_reducible apply Kept.setIn
      | with_reducible apply Kept.stampInputs | with_reducible apply Kept.tracShow | with_reducible apply Kept.ite | split
      | intro _
  try clear_value y4
  repeat' first
    | with_reducible assumption | exact List.Subset.trans (by decide) hL | with_reducible apply Kept.setIn
    | with_reducible apply Kept.stampInputs | with_reducible apply Kept.tracShow | with_reducible apply Kept.ite | split
    | intro _

theorem Kept.ruleCounts (h : Kept L s₀ s) (hL : [.stages] ⊆ L) (st : ℕ) (set : ℕ) :
    Kept L s₀ (State.ruleCounts s st set) := by
  unfold State.ruleCounts
  extract_lets y0 y1 y2 y3 y4 y5
  try clear_value y0 y1 y2 y3 y4 y5
  repeat' first
    | with_reducible assumption | exact List.Subset.trans (by decide) hL | with_reducible apply Kept.setChk
    | with_reducible apply Kept.ite | split | intro _

theorem Kept.logForced (h : Kept L s₀ s) (hL : [.coll, .stages] ⊆ L) (st : ℕ) :
    Kept L s₀ (State.logForced s st) := by
  unfold State.logForced
  extract_lets y0
  try clear_value y0
  repeat' first
    | with_reducible assumption | exact List.Subset.trans (by decide) hL | with_reducible apply Kept.reportTp
    | with_reducible apply Kept.setStage | with_reducible apply Kept.ite | split | intro _

theorem Kept.ruleOnSet (h : Kept L s₀ s) (hL : [.regs, .pushes, .guards, .chans, .stages] ⊆ L) (st : ℕ) (set : ℕ) :
    Kept L s₀ (State.ruleOnSet s st set) := by
  unfold State.ruleOnSet
  repeat' first
    | with_reducible assumption | exact List.Subset.trans (by decide) hL | with_reducible apply Kept.setLegCode
    | with_reducible apply Kept.ite | split | intro _

theorem Kept.speedRule (h : Kept L s₀ s) (hL : [.regs, .pushes, .coll, .guards, .chans, .stages] ⊆ L) (st : ℕ) :
    Kept L s₀ (State.speedRule s st) := by
  unfold State.speedRule
  extract_lets y0 y1 y2 y3 y4 y5 y6 y7 y8 y9 y10
  try clear_value y0 y1 y2 y3 y5 y7 y9 y10
  have gy4 : Kept L s₀ y4 := by
    unfold y4
    repeat' first
      | with_reducible assumption | exact List.Subset.trans (by decide) hL | with_reducible apply Kept.logForced
      | with_reducible apply Kept.reportTp | with_reducible apply Kept.ruleOnSet | with_reducible apply Kept.setAllLegs
      | with_reducible apply Kept.setStage | with_reducible apply Kept.tracEnter | with_reducible apply Kept.tracOff
      | with_reducible apply Kept.ite | split | intro _
  try clear_value y4
  have gy8 : Kept L s₀ y8 := by
    unfold y8
    repeat' first
      | with_reducible assumption | exact List.Subset.trans (by decide) hL | with_reducible apply Kept.logForced
      | with_reducible apply Kept.reportTp | with_reducible apply Kept.ruleOnSet | with_reducible apply Kept.setAllLegs
      | with_reducible apply Kept.setStage | with_reducible apply Kept.tracEnter | with_reducible apply Kept.tracOff
      | with_reducible apply Kept.ite | split | intro _
  try clear_value y8
  repeat' first
    | with_reducible assumption | exact List.Subset.trans (by decide) hL | with_reducible apply Kept.logForced
    | with_reducible apply Kept.reportTp | with_reducible apply Kept.ruleOnSet | with_reducible apply Kept.setAllLegs
    | with_reducible apply Kept.setStage | with_reducible apply Kept.tracEnter | with_reducible apply Kept.tracOff
    | with_reducible apply Kept.ite | split | intro _

theorem Kept.speedDriven (h : Kept L s₀ s) (hL : [.regs, .pushes, .coll, .guards, .chans, .stages] ⊆ L) (st : ℕ) :
    Kept L s₀ (State.speedDriven s st) := by
  unfold State.speedDriven
  extract_lets y0 y1 y2 y3 y4 y5 y6
  try clear_value y0 y1 y2 y3 y4 y5 y6
  repeat' first
    | with_reducible assumption | exact List.Subset.trans (by decide) hL | with_reducible apply Kept.speedRule
    | with_reducible apply Kept.tracEnter | with_reducible apply Kept.ite | split | intro _

theorem Kept.stillTimer (h : Kept L s₀ s) (hL : [.stages] ⊆ L) (st : ℕ) :
    Kept L s₀ (State.stillTimer s st) := by
  unfold State.stillTimer
  extract_lets y0 y1 y2
  try clear_value y0 y1 y2
  repeat' first
    | with_reducible assumption | exact List.Subset.trans (by decide) hL | with_reducible apply Kept.setStage
    | with_reducible apply Kept.ite | split | intro _

theorem Kept.reactionEnd (h : Kept L s₀ s) (hL : [.regs, .pushes, .guards, .chans, .stages] ⊆ L) (st : ℕ) :
    Kept L s₀ (State.reactionEnd s st) := by
  unfold State.reactionEnd
  extract_lets y0 y1
  try clear_value y0 y1
  repeat' first
    | with_reducible assumption | exact List.Subset.trans (by decide) hL | with_reducible apply Kept.tracHold
    | with_reducible apply Kept.ite | split | intro _

theorem Kept.catchTimeout (h : Kept L s₀ s) (hL : [.regs, .pushes, .coll, .guards, .chans, .stages] ⊆ L) (st : ℕ) :
    Kept L s₀ (State.catchTimeout s st) := by
  unfold State.catchTimeout
  repeat' first
    | with_reducible assumption | exact List.Subset.trans (by decide) hL | with_reducible apply Kept.reportTp
    | with_reducible apply Kept.tracOff | with_reducible apply Kept.ite | split | intro _

theorem Kept.tracForm (h : Kept L s₀ s) (hL : [.regs, .pushes, .coll, .stages] ⊆ L) (st : ℕ) (set : ℕ) (zc : Option Word) :
    Kept L s₀ (State.tracForm s st set zc) := by
  unfold State.tracForm
  extract_lets y0
  have gy0 : Kept L s₀ y0 := by
    unfold y0
    repeat' first
      | with_reducible assumption | exact List.Subset.trans (by decide) hL | with_reducible apply Kept.formNAsc
      | with_reducible apply Kept.formSpeed | with_reducible apply Kept.formTorque | with_reducible apply Kept.positionLost
      | with_reducible apply Kept.ruleCounts | with_reducible apply Kept.selectSource | with_reducible apply Kept.stillTimer
      | with_reducible apply Kept.sumCheck | with_reducible apply Kept.tracInputs | with_reducible apply Kept.ite | split
      | intro _
  try clear_value y0
  repeat' first
    | with_reducible assumption | exact List.Subset.trans (by decide) hL | with_reducible apply Kept.formNAsc
    | with_reducible apply Kept.formSpeed | with_reducible apply Kept.formTorque | with_reducible apply Kept.positionLost
    | with_reducible apply Kept.ruleCounts | with_reducible apply Kept.selectSource | with_reducible apply Kept.stillTimer
    | with_reducible apply Kept.sumCheck | with_reducible apply Kept.tracInputs | with_reducible apply Kept.ite | split
    | intro _

theorem Kept.overspeedTrip (h : Kept L s₀ s) (hL : [.regs, .pushes, .coll, .guards, .chans, .stages] ⊆ L) (st : ℕ) :
    Kept L s₀ (State.overspeedTrip s st) := by
  unfold State.overspeedTrip
  repeat' first
    | with_reducible assumption | exact List.Subset.trans (by decide) hL | with_reducible apply Kept.reaction
    | with_reducible apply Kept.reportTp

theorem Kept.directionChange (h : Kept L s₀ s) (hL : [.regs, .pushes, .guards, .chans, .stages] ⊆ L) (st : ℕ) :
    Kept L s₀ (State.directionChange s st) := by
  unfold State.directionChange
  extract_lets y0 y1 y2
  try clear_value y0 y1 y2
  repeat' first
    | with_reducible assumption | exact List.Subset.trans (by decide) hL | with_reducible apply Kept.tracEnter
    | with_reducible apply Kept.wrB | with_reducible apply Kept.ite | split | intro _

theorem Kept.tracOffRequest (h : Kept L s₀ s) (hL : [.regs, .pushes, .guards, .chans, .stages] ⊆ L) (st : ℕ) :
    Kept L s₀ (State.tracOffRequest s st) := by
  unfold State.tracOffRequest
  extract_lets y0
  try clear_value y0
  repeat' first
    | with_reducible assumption | exact List.Subset.trans (by decide) hL | with_reducible apply Kept.setStage
    | with_reducible apply Kept.tracEnter | with_reducible apply Kept.tracOff | with_reducible apply Kept.ite | split
    | intro _

theorem Kept.tracRequest (h : Kept L s₀ s) (hL : [.regs, .pushes, .coll, .guards, .chans, .stages] ⊆ L) (st : ℕ) (m : ℕ) (dir : Bool) (ctrl : Bool) :
    Kept L s₀ (State.tracRequest s st m dir ctrl) := by
  unfold State.tracRequest
  extract_lets y0 y1 y2 y3 y4 y5 y6 y7 y8 y9 y10
  try clear_value y0 y1 y2 y4 y7 y8 y9
  have gy3 : Kept L s₀ y3 := by
    unfold y3
    repeat' first
      | with_reducible assumption | exact List.Subset.trans (by decide) hL | with_reducible apply Kept.accept
      | with_reducible apply Kept.directionChange | with_reducible apply Kept.refuse | with_reducible apply Kept.setStage
      | with_reducible apply Kept.tracEnter | with_reducible apply Kept.tracOff | with_reducible apply Kept.tracOffRequest
      | with_reducible apply Kept.tracShow | with_reducible apply Kept.ite | split | intro _
  try clear_value y3
  have gy5 : Kept L s₀ y5 := by
    unfold y5
    repeat' first
      | with_reducible assumption | exact List.Subset.trans (by decide) hL | with_reducible apply Kept.accept
      | with_reducible apply Kept.directionChange | with_reducible apply Kept.refuse | with_reducible apply Kept.setStage
      | with_reducible apply Kept.tracEnter | with_reducible apply Kept.tracOff | with_reducible apply Kept.tracOffRequest
      | with_reducible apply Kept.tracShow | with_reducible apply Kept.ite | split | intro _
  try clear_value y5
  have gy6 : Kept L s₀ y6 := by
    unfold y6
    repeat' first
      | with_reducible assumption | exact List.Subset.trans (by decide) hL | with_reducible apply Kept.accept
      | with_reducible apply Kept.directionChange | with_reducible apply Kept.refuse | with_reducible apply Kept.setStage
      | with_reducible apply Kept.tracEnter | with_reducible apply Kept.tracOff | with_reducible apply Kept.tracOffRequest
      | with_reducible apply Kept.tracShow | with_reducible apply Kept.ite | split | intro _
  try clear_value y6
  have gy10 : Kept L s₀ y10 := by
    unfold y10
    repeat' first
      | with_reducible assumption | exact List.Subset.trans (by decide) hL | with_reducible apply Kept.accept
      | with_reducible apply Kept.directionChange | with_reducible apply Kept.refuse | with_reducible apply Kept.setStage
      | with_reducible apply Kept.tracEnter | with_reducible apply Kept.tracOff | with_reducible apply Kept.tracOffRequest
      | with_reducible apply Kept.tracShow | with_reducible apply Kept.ite | split | intro _
  try clear_value y10
  repeat' first
    | with_reducible assumption | exact List.Subset.trans (by decide) hL | with_reducible apply Kept.accept
    | with_reducible apply Kept.directionChange | with_reducible apply Kept.refuse | with_reducible apply Kept.setStage
    | with_reducible apply Kept.tracEnter | with_reducible apply Kept.tracOff | with_reducible apply Kept.tracOffRequest
    | with_reducible apply Kept.tracShow | with_reducible apply Kept.ite | split | intro _

theorem Kept.tracCommand (h : Kept L s₀ s) (hL : [.coll, .stages] ⊆ L) (st : ℕ) (k : ℕ) :
    Kept L s₀ (State.tracCommand s st k) := by
  unfold State.tracCommand
  extract_lets y0 y1 y2 y3 y4 y5 y6 y7 y8
  try clear_value y0 y1 y2 y3 y4 y7 y8
  have gy5 : Kept L s₀ y5 := by
    unfold y5
    repeat' first
      | with_reducible assumption | exact List.Subset.trans (by decide) hL | with_reducible apply Kept.reportTp
      | with_reducible apply Kept.setStage | with_reducible apply Kept.vectorCheck | with_reducible apply Kept.ite | split
      | intro _
  try clear_value y5
  have gy6 : Kept L s₀ y6 := by
    unfold y6
    repeat' first
      | with_reducible assumption | exact List.Subset.trans (by decide) hL | with_reducible apply Kept.reportTp
      | with_reducible apply Kept.setStage | with_reducible apply Kept.vectorCheck | with_reducible apply Kept.ite | split
      | intro _
  try clear_value y6
  repeat' first
    | with_reducible assumption | exact List.Subset.trans (by decide) hL | with_reducible apply Kept.reportTp
    | with_reducible apply Kept.setStage | with_reducible apply Kept.vectorCheck | with_reducible apply Kept.ite | split
    | intro _

theorem Kept.safeStopDemand (h : Kept L s₀ s) (hL : [.regs, .pushes, .coll, .guards, .chans, .stages] ⊆ L) (st : ℕ) :
    Kept L s₀ (State.safeStopDemand s st) := by
  unfold State.safeStopDemand
  extract_lets y0 y1 y2 y3 y4
  try clear_value y0 y1 y2
  have gy3 : Kept L s₀ y3 := by
    unfold y3
    repeat' first
      | with_reducible assumption | exact List.Subset.trans (by decide) hL | with_reducible apply Kept.reaction
      | with_reducible apply Kept.setStage | with_reducible apply Kept.tracEnter | with_reducible apply Kept.wr
      | with_reducible apply Kept.ite | split | intro _
  try clear_value y3
  have gy4 : Kept L s₀ y4 := by
    unfold y4
    repeat' first
      | with_reducible assumption | exact List.Subset.trans (by decide) hL | with_reducible apply Kept.reaction
      | with_reducible apply Kept.setStage | with_reducible apply Kept.tracEnter | with_reducible apply Kept.wr
      | with_reducible apply Kept.ite | split | intro _
  try clear_value y4
  repeat' first
    | with_reducible assumption | exact List.Subset.trans (by decide) hL | with_reducible apply Kept.reaction
    | with_reducible apply Kept.setStage | with_reducible apply Kept.tracEnter | with_reducible apply Kept.wr
    | with_reducible apply Kept.ite | split | intro _

end Sys2Proof.Machine
end

