-- ==== Sys2Proof/Laws/KeptConversion.lean ====
section
/-! SUPPORT. What the operations of Conversion keep. -/

set_option linter.unusedTactic false
set_option linter.unreachableTactic false
set_option linter.unusedVariables false

namespace Sys2Proof.Machine

variable {L : List Part} {s₀ s : State}

theorem Kept.setRef (h : Kept L s₀ s) (hL : [.regs, .pushes] ⊆ L) (st : ℕ) (w : Word) :
    Kept L s₀ (State.setRef s st w) := by
  unfold State.setRef
  repeat' first
    | with_reducible assumption | exact List.Subset.trans (by decide) hL | with_reducible apply Kept.setIn
    | with_reducible apply Kept.setWord

theorem Kept.convShow (h : Kept L s₀ s) (hL : [.regs, .pushes] ⊆ L) (st : ℕ) :
    Kept L s₀ (State.convShow s st) := by
  unfold State.convShow
  extract_lets y0
  try clear_value y0
  repeat' first
    | with_reducible assumption | exact List.Subset.trans (by decide) hL | with_reducible apply Kept.setIn

theorem Kept.setS2 (h : Kept L s₀ s) (hL : [.regs, .pushes] ⊆ L) (closed : Bool) :
    Kept L s₀ (State.setS2 s closed) := by
  unfold State.setS2
  repeat' first
    | with_reducible assumption | exact List.Subset.trans (by decide) hL | with_reducible apply Kept.convShow
    | with_reducible apply Kept.wrB

theorem Kept.setTrims (h : Kept L s₀ s) (hL : [.regs, .pushes, .stages] ⊆ L) (ts : List Word) :
    Kept L s₀ (State.setTrims s ts) := by
  unfold State.setTrims
  extract_lets y0 y1 y2
  try clear_value y0 y2
  have gy1 : Kept L s₀ y1 := by
    unfold y1
    repeat' first
      | with_reducible assumption | exact List.Subset.trans (by decide) hL | with_reducible apply Kept.setStage
      | with_reducible apply Kept.setWord
  try clear_value y1
  repeat' first
    | with_reducible assumption | exact List.Subset.trans (by decide) hL | with_reducible apply Kept.setStage
    | with_reducible apply Kept.setWord

theorem Kept.convStop (h : Kept L s₀ s) (hL : [.regs, .pushes, .stages] ⊆ L) (st : ℕ) (host : Bool) :
    Kept L s₀ (State.convStop s st host) := by
  unfold State.convStop
  extract_lets y0 y1
  try clear_value y1
  have gy0 : Kept L s₀ y0 := by
    unfold y0
    repeat' first
      | with_reducible assumption | exact List.Subset.trans (by decide) hL | with_reducible apply Kept.convShow
      | with_reducible apply Kept.setMode | with_reducible apply Kept.setStage
  try clear_value y0
  repeat' first
    | with_reducible assumption | exact List.Subset.trans (by decide) hL | with_reducible apply Kept.convShow
    | with_reducible apply Kept.setMode | with_reducible apply Kept.setStage

theorem Kept.releaseOffPend (h : Kept L s₀ s) (hL : [.regs, .pushes, .stages] ⊆ L) :
    Kept L s₀ (State.releaseOffPend s) := by
  unfold State.releaseOffPend
  repeat' first
    | with_reducible assumption | exact List.Subset.trans (by decide) hL | with_reducible apply Kept.convStop
    | with_reducible apply Kept.wrB | with_reducible apply Kept.ite | split | intro _

theorem Kept.convOff (h : Kept L s₀ s) (hL : [.regs, .pushes, .guards, .chans, .stages] ⊆ L) (st : ℕ) (host : Bool) :
    Kept L s₀ (State.convOff s st host) := by
  unfold State.convOff
  extract_lets y0 y1 y2 y3
  have gy0 : Kept L s₀ y0 := by
    unfold y0
    repeat' first
      | with_reducible assumption | exact List.Subset.trans (by decide) hL | with_reducible apply Kept.convShow
      | with_reducible apply Kept.releaseLatches | with_reducible apply Kept.releaseOffPend
      | with_reducible apply Kept.setAllLegs | with_reducible apply Kept.setMode | with_reducible apply Kept.setRef
      | with_reducible apply Kept.setS2 | with_reducible apply Kept.setTrims | with_reducible apply Kept.when
      | with_reducible apply Kept.wrB | intro _
  try clear_value y0
  have gy1 : Kept L s₀ y1 := by
    unfold y1
    repeat' first
      | with_reducible assumption | exact List.Subset.trans (by decide) hL | with_reducible apply Kept.convShow
      | with_reducible apply Kept.releaseLatches | with_reducible apply Kept.releaseOffPend
      | with_reducible apply Kept.setAllLegs | with_reducible apply Kept.setMode | with_reducible apply Kept.setRef
      | with_reducible apply Kept.setS2 | with_reducible apply Kept.setTrims | with_reducible apply Kept.when
      | with_reducible apply Kept.wrB | intro _
  try clear_value y1
  have gy2 : Kept L s₀ y2 := by
    unfold y2
    repeat' first
      | with_reducible assumption | exact List.Subset.trans (by decide) hL | with_reducible apply Kept.convShow
      | with_reducible apply Kept.releaseLatches | with_reducible apply Kept.releaseOffPend
      | with_reducible apply Kept.setAllLegs | with_reducible apply Kept.setMode | with_reducible apply Kept.setRef
      | with_reducible apply Kept.setS2 | with_reducible apply Kept.setTrims | with_reducible apply Kept.when
      | with_reducible apply Kept.wrB | intro _
  try clear_value y2
  have gy3 : Kept L s₀ y3 := by
    unfold y3
    repeat' first
      | with_reducible assumption | exact List.Subset.trans (by decide) hL | with_reducible apply Kept.convShow
      | with_reducible apply Kept.releaseLatches | with_reducible apply Kept.releaseOffPend
      | with_reducible apply Kept.setAllLegs | with_reducible apply Kept.setMode | with_reducible apply Kept.setRef
      | with_reducible apply Kept.setS2 | with_reducible apply Kept.setTrims | with_reducible apply Kept.when
      | with_reducible apply Kept.wrB | intro _
  try clear_value y3
  repeat' first
    | with_reducible assumption | exact List.Subset.trans (by decide) hL | with_reducible apply Kept.convShow
    | with_reducible apply Kept.releaseLatches | with_reducible apply Kept.releaseOffPend
    | with_reducible apply Kept.setAllLegs | with_reducible apply Kept.setMode | with_reducible apply Kept.setRef
    | with_reducible apply Kept.setS2 | with_reducible apply Kept.setTrims | with_reducible apply Kept.when
    | with_reducible apply Kept.wrB | intro _

theorem Kept.convTripOne (h : Kept L s₀ s) (hL : [.regs, .pushes, .coll, .guards, .chans, .stages] ⊆ L) (st : ℕ) (cause : ℕ) :
    Kept L s₀ (State.convTripOne s st cause) := by
  unfold State.convTripOne
  extract_lets y0 y1 y2 y3
  have gy0 : Kept L s₀ y0 := by
    unfold y0
    repeat' first
      | with_reducible assumption | exact List.Subset.trans (by decide) hL | with_reducible apply Kept.convShow
      | with_reducible apply Kept.releaseOffPend | with_reducible apply Kept.reportTp | with_reducible apply Kept.setAllLegs
      | with_reducible apply Kept.setMode | with_reducible apply Kept.setRef | with_reducible apply Kept.setS2
      | with_reducible apply Kept.when | with_reducible apply Kept.wr | with_reducible apply Kept.wrB
      | with_reducible apply Kept.ite | split | intro _
  try clear_value y0
  have gy1 : Kept L s₀ y1 := by
    unfold y1
    repeat' first
      | with_reducible assumption | exact List.Subset.trans (by decide) hL | with_reducible apply Kept.convShow
      | with_reducible apply Kept.releaseOffPend | with_reducible apply Kept.reportTp | with_reducible apply Kept.setAllLegs
      | with_reducible apply Kept.setMode | with_reducible apply Kept.setRef | with_reducible apply Kept.setS2
      | with_reducible apply Kept.when | with_reducible apply Kept.wr | with_reducible apply Kept.wrB
      | with_reducible apply Kept.ite | split | intro _
  try clear_value y1
  have gy2 : Kept L s₀ y2 := by
    unfold y2
    repeat' first
      | with_reducible assumption | exact List.Subset.trans (by decide) hL | with_reducible apply Kept.convShow
      | with_reducible apply Kept.releaseOffPend | with_reducible apply Kept.reportTp | with_reducible apply Kept.setAllLegs
      | with_reducible apply Kept.setMode | with_reducible apply Kept.setRef | with_reducible apply Kept.setS2
      | with_reducible apply Kept.when | with_reducible apply Kept.wr | with_reducible apply Kept.wrB
      | with_reducible apply Kept.ite | split | intro _
  try clear_value y2
  have gy3 : Kept L s₀ y3 := by
    unfold y3
    repeat' first
      | with_reducible assumption | exact List.Subset.trans (by decide) hL | with_reducible apply Kept.convShow
      | with_reducible apply Kept.releaseOffPend | with_reducible apply Kept.reportTp | with_reducible apply Kept.setAllLegs
      | with_reducible apply Kept.setMode | with_reducible apply Kept.setRef | with_reducible apply Kept.setS2
      | with_reducible apply Kept.when | with_reducible apply Kept.wr | with_reducible apply Kept.wrB
      | with_reducible apply Kept.ite | split | intro _
  try clear_value y3
  repeat' first
    | with_reducible assumption | exact List.Subset.trans (by decide) hL | with_reducible apply Kept.convShow
    | with_reducible apply Kept.releaseOffPend | with_reducible apply Kept.reportTp | with_reducible apply Kept.setAllLegs
    | with_reducible apply Kept.setMode | with_reducible apply Kept.setRef | with_reducible apply Kept.setS2
    | with_reducible apply Kept.when | with_reducible apply Kept.wr | with_reducible apply Kept.wrB
    | with_reducible apply Kept.ite | split | intro _

theorem Kept.convTrip (h : Kept L s₀ s) (hL : [.regs, .pushes, .coll, .guards, .chans, .stages] ⊆ L) (st : ℕ) (cause : ℕ) :
    Kept L s₀ (State.convTrip s st cause) := by
  unfold State.convTrip
  extract_lets y0
  have gy0 : Kept L s₀ y0 := by
    unfold y0
    repeat' first
      | with_reducible assumption | exact List.Subset.trans (by decide) hL | with_reducible apply Kept.convTripOne
      | with_reducible apply Kept.ite | split | intro _
  try clear_value y0
  repeat' first
    | with_reducible assumption | exact List.Subset.trans (by decide) hL | with_reducible apply Kept.convTripOne
    | with_reducible apply Kept.ite | split | intro _

theorem Kept.pilotLossTrip (h : Kept L s₀ s) (hL : [.regs, .pushes, .coll, .guards, .chans, .stages] ⊆ L) :
    Kept L s₀ (State.pilotLossTrip s) := by
  unfold State.pilotLossTrip
  repeat' first
    | with_reducible assumption | exact List.Subset.trans (by decide) hL | with_reducible apply Kept.convTrip

theorem Kept.pilotCheck (h : Kept L s₀ s) (hL : [.regs, .pushes, .coll, .guards, .chans, .stages] ⊆ L) :
    Kept L s₀ (State.pilotCheck s) := by
  unfold State.pilotCheck
  repeat' first
    | with_reducible assumption | exact List.Subset.trans (by decide) hL | with_reducible apply Kept.pilotLossTrip
    | with_reducible apply Kept.ite | split | intro _

theorem Kept.formLimit (h : Kept L s₀ s) (hL : [.regs, .pushes, .stages] ⊆ L) :
    Kept L s₀ (State.formLimit s) := by
  unfold State.formLimit
  extract_lets y0 y1 y2 y3 y4 y5 y6
  try clear_value y0 y1 y2 y3 y4 y6
  have gy5 : Kept L s₀ y5 := by
    unfold y5
    repeat' first
      | with_reducible assumption | exact List.Subset.trans (by decide) hL | with_reducible apply Kept.setIn
      | with_reducible apply Kept.setStage | with_reducible apply Kept.setWord | with_reducible apply Kept.ite | split
      | intro _
  try clear_value y5
  repeat' first
    | with_reducible assumption | exact List.Subset.trans (by decide) hL | with_reducible apply Kept.setIn
    | with_reducible apply Kept.setStage | with_reducible apply Kept.setWord | with_reducible apply Kept.ite | split
    | intro _

theorem Kept.convOffSlow (h : Kept L s₀ s) (hL : [.regs, .pushes, .guards, .chans, .stages] ⊆ L) (st : ℕ) (host : Bool) :
    Kept L s₀ (State.convOffSlow s st host) := by
  unfold State.convOffSlow
  extract_lets y0
  have gy0 : Kept L s₀ y0 := by
    unfold y0
    repeat' first
      | with_reducible assumption | exact List.Subset.trans (by decide) hL | with_reducible apply Kept.convOff
      | with_reducible apply Kept.convShow | with_reducible apply Kept.convStop | with_reducible apply Kept.wrB
      | with_reducible apply Kept.ite | split | intro _
  try clear_value y0
  repeat' first
    | with_reducible assumption | exact List.Subset.trans (by decide) hL | with_reducible apply Kept.convOff
    | with_reducible apply Kept.convShow | with_reducible apply Kept.convStop | with_reducible apply Kept.wrB
    | with_reducible apply Kept.ite | split | intro _

theorem Kept.stationStop (h : Kept L s₀ s) (hL : [.regs, .pushes, .coll, .guards, .chans, .stages] ⊆ L) :
    Kept L s₀ (State.stationStop s) := by
  unfold State.stationStop
  extract_lets y0 y1 y2 y3
  try clear_value y0
  have gy1 : Kept L s₀ y1 := by
    unfold y1
    repeat' first
      | with_reducible assumption | exact List.Subset.trans (by decide) hL | with_reducible apply Kept.convOffSlow
      | with_reducible apply Kept.convShow | with_reducible apply Kept.reportTp | with_reducible apply Kept.wrB
      | with_reducible apply Kept.ite | split | intro _
  try clear_value y1
  have gy2 : Kept L s₀ y2 := by
    unfold y2
    repeat' first
      | with_reducible assumption | exact List.Subset.trans (by decide) hL | with_reducible apply Kept.convOffSlow
      | with_reducible apply Kept.convShow | with_reducible apply Kept.reportTp | with_reducible apply Kept.wrB
      | with_reducible apply Kept.ite | split | intro _
  try clear_value y2
  have gy3 : Kept L s₀ y3 := by
    unfold y3
    repeat' first
      | with_reducible assumption | exact List.Subset.trans (by decide) hL | with_reducible apply Kept.convOffSlow
      | with_reducible apply Kept.convShow | with_reducible apply Kept.reportTp | with_reducible apply Kept.wrB
      | with_reducible apply Kept.ite | split | intro _
  try clear_value y3
  repeat' first
    | with_reducible assumption | exact List.Subset.trans (by decide) hL | with_reducible apply Kept.convOffSlow
    | with_reducible apply Kept.convShow | with_reducible apply Kept.reportTp | with_reducible apply Kept.wrB
    | with_reducible apply Kept.ite | split | intro _

theorem Kept.ratesChange (h : Kept L s₀ s) (hL : [.stages] ⊆ L) (st : ℕ) (up : Word) (dn : Word) :
    Kept L s₀ (State.ratesChange s st up dn) := by
  unfold State.ratesChange
  extract_lets y0 y1
  try clear_value y0 y1
  repeat' first
    | with_reducible assumption | exact List.Subset.trans (by decide) hL | with_reducible apply Kept.setStage

theorem Kept.rampAllowance (h : Kept L s₀ s) (hL : [.stages] ⊆ L) (st : ℕ) (up : Word) (dn : Word) :
    Kept L s₀ (State.rampAllowance s st up dn).2 := by
  unfold State.rampAllowance
  extract_lets y0 y1
  try clear_value y0 y1
  repeat' first
    | with_reducible assumption | exact List.Subset.trans (by decide) hL | with_reducible apply Kept.setStage

theorem Kept.formRef (h : Kept L s₀ s) (hL : [.regs, .pushes, .stages] ⊆ L) (st : ℕ) :
    Kept L s₀ (State.formRef s st) := by
  unfold State.formRef
  extract_lets y0 y1 y2 y3
  try clear_value y2 y3
  have gy0 : Kept L s₀ y0.2 := by
    unfold y0
    repeat' first
      | with_reducible assumption | exact List.Subset.trans (by decide) hL | with_reducible apply Kept.rampAllowance
      | with_reducible apply Kept.setRef | with_reducible apply Kept.ite | split | intro _
  try clear_value y0
  have gy1 : Kept L s₀ y1 := by
    unfold y1
    repeat' first
      | with_reducible assumption | exact List.Subset.trans (by decide) hL | with_reducible apply Kept.rampAllowance
      | with_reducible apply Kept.setRef | with_reducible apply Kept.ite | split | intro _
  try clear_value y1
  repeat' first
    | with_reducible assumption | exact List.Subset.trans (by decide) hL | with_reducible apply Kept.rampAllowance
    | with_reducible apply Kept.setRef | with_reducible apply Kept.ite | split | intro _

theorem Kept.refTransitions (h : Kept L s₀ s) (hL : [.regs, .pushes, .guards, .chans, .stages] ⊆ L) (st : ℕ) :
    Kept L s₀ (State.refTransitions s st) := by
  unfold State.refTransitions
  repeat' first
    | with_reducible assumption | exact List.Subset.trans (by decide) hL | with_reducible apply Kept.convOff
    | with_reducible apply Kept.convShow | with_reducible apply Kept.setMode | with_reducible apply Kept.ite | split
    | intro _

theorem Kept.windowCounts (h : Kept L s₀ s) (hL : [.stages] ⊆ L) (st : ℕ) :
    Kept L s₀ (State.windowCounts s st) := by
  unfold State.windowCounts
  extract_lets y0 y1 y2
  try clear_value y0
  repeat' first
    | with_reducible assumption | exact List.Subset.trans (by decide) hL | with_reducible apply Kept.setStage
    | with_reducible apply Kept.ite | split | intro _

theorem Kept.convSamples (h : Kept L s₀ s) (hL : [.regs, .pushes] ⊆ L) (st : ℕ) :
    Kept L s₀ (State.convSamples s st) := by
  unfold State.convSamples
  extract_lets y0
  try clear_value y0
  repeat' first
    | with_reducible assumption | exact List.Subset.trans (by decide) hL | with_reducible apply Kept.setIn

theorem Kept.convSample (h : Kept L s₀ s) (hL : [.regs, .pushes, .coll, .guards, .chans, .stages] ⊆ L) (st : ℕ) :
    Kept L s₀ (State.convSample s st) := by
  unfold State.convSample
  extract_lets y0 y1 y2 y3 y4
  try clear_value y2
  have gy0 : Kept L s₀ y0 := by
    unfold y0
    repeat' first
      | with_reducible assumption | exact List.Subset.trans (by decide) hL | with_reducible apply Kept.convSamples
      | with_reducible apply Kept.convShow | with_reducible apply Kept.convTrip | with_reducible apply Kept.formLimit
      | with_reducible apply Kept.formRef | with_reducible apply Kept.pilotLossTrip
      | with_reducible apply Kept.refTransitions | with_reducible apply Kept.stampInputs
      | with_reducible apply Kept.stationStop | with_reducible apply Kept.windowCounts | with_reducible apply Kept.ite
      | split | intro _
  try clear_value y0
  have gy1 : Kept L s₀ y1 := by
    unfold y1
    repeat' first
      | with_reducible assumption | exact List.Subset.trans (by decide) hL | with_reducible apply Kept.convSamples
      | with_reducible apply Kept.convShow | with_reducible apply Kept.convTrip | with_reducible apply Kept.formLimit
      | with_reducible apply Kept.formRef | with_reducible apply Kept.pilotLossTrip
      | with_reducible apply Kept.refTransitions | with_reducible apply Kept.stampInputs
      | with_reducible apply Kept.stationStop | with_reducible apply Kept.windowCounts | with_reducible apply Kept.ite
      | split | intro _
  try clear_value y1
  have gy3 : Kept L s₀ y3 := by
    unfold y3
    repeat' first
      | with_reducible assumption | exact List.Subset.trans (by decide) hL | with_reducible apply Kept.convSamples
      | with_reducible apply Kept.convShow | with_reducible apply Kept.convTrip | with_reducible apply Kept.formLimit
      | with_reducible apply Kept.formRef | with_reducible apply Kept.pilotLossTrip
      | with_reducible apply Kept.refTransitions | with_reducible apply Kept.stampInputs
      | with_reducible apply Kept.stationStop | with_reducible apply Kept.windowCounts | with_reducible apply Kept.ite
      | split | intro _
  try clear_value y3
  have gy4 : Kept L s₀ y4 := by
    unfold y4
    repeat' first
      | with_reducible assumption | exact List.Subset.trans (by decide) hL | with_reducible apply Kept.convSamples
      | with_reducible apply Kept.convShow | with_reducible apply Kept.convTrip | with_reducible apply Kept.formLimit
      | with_reducible apply Kept.formRef | with_reducible apply Kept.pilotLossTrip
      | with_reducible apply Kept.refTransitions | with_reducible apply Kept.stampInputs
      | with_reducible apply Kept.stationStop | with_reducible apply Kept.windowCounts | with_reducible apply Kept.ite
      | split | intro _
  try clear_value y4
  repeat' first
    | with_reducible assumption | exact List.Subset.trans (by decide) hL | with_reducible apply Kept.convSamples
    | with_reducible apply Kept.convShow | with_reducible apply Kept.convTrip | with_reducible apply Kept.formLimit
    | with_reducible apply Kept.formRef | with_reducible apply Kept.pilotLossTrip | with_reducible apply Kept.refTransitions
    | with_reducible apply Kept.stampInputs | with_reducible apply Kept.stationStop | with_reducible apply Kept.windowCounts
    | with_reducible apply Kept.ite | split | intro _

theorem Kept.delayEnd (h : Kept L s₀ s) (hL : [.regs, .pushes, .guards, .chans, .stages] ⊆ L) (st : ℕ) :
    Kept L s₀ (State.delayEnd s st) := by
  unfold State.delayEnd
  extract_lets y0 y1 y2 y3
  try clear_value y0 y2
  have gy1 : Kept L s₀ y1 := by
    unfold y1
    repeat' first
      | with_reducible assumption | exact List.Subset.trans (by decide) hL | with_reducible apply Kept.convShow
      | with_reducible apply Kept.setAllLegs | with_reducible apply Kept.setMode | with_reducible apply Kept.setRef
      | with_reducible apply Kept.setStage | with_reducible apply Kept.ite | split | intro _
  try clear_value y1
  have gy3 : Kept L s₀ y3 := by
    unfold y3
    repeat' first
      | with_reducible assumption | exact List.Subset.trans (by decide) hL | with_reducible apply Kept.convShow
      | with_reducible apply Kept.setAllLegs | with_reducible apply Kept.setMode | with_reducible apply Kept.setRef
      | with_reducible apply Kept.setStage | with_reducible apply Kept.ite | split | intro _
  try clear_value y3
  repeat' first
    | with_reducible assumption | exact List.Subset.trans (by decide) hL | with_reducible apply Kept.convShow
    | with_reducible apply Kept.setAllLegs | with_reducible apply Kept.setMode | with_reducible apply Kept.setRef
    | with_reducible apply Kept.setStage | with_reducible apply Kept.ite | split | intro _

theorem Kept.startTimeout (h : Kept L s₀ s) (hL : [.regs, .pushes, .coll, .guards, .chans, .stages] ⊆ L) (st : ℕ) :
    Kept L s₀ (State.startTimeout s st) := by
  unfold State.startTimeout
  repeat' first
    | with_reducible assumption | exact List.Subset.trans (by decide) hL | with_reducible apply Kept.convTrip
    | with_reducible apply Kept.ite | split | intro _

theorem Kept.stopDelayEnd (h : Kept L s₀ s) (hL : [.regs, .pushes, .guards, .chans, .stages] ⊆ L) (st : ℕ) :
    Kept L s₀ (State.stopDelayEnd s st) := by
  unfold State.stopDelayEnd
  extract_lets y0
  try clear_value y0
  repeat' first
    | with_reducible assumption | exact List.Subset.trans (by decide) hL | with_reducible apply Kept.convOff
    | with_reducible apply Kept.setStage | with_reducible apply Kept.ite | split | intro _

theorem Kept.staleCommand (h : Kept L s₀ s) (hL : [.regs, .pushes, .coll, .guards, .chans, .stages] ⊆ L) (st : ℕ) :
    Kept L s₀ (State.staleCommand s st) := by
  unfold State.staleCommand
  repeat' first
    | with_reducible assumption | exact List.Subset.trans (by decide) hL | with_reducible apply Kept.convTrip
    | with_reducible apply Kept.ite | split | intro _

theorem Kept.gridPeriod (h : Kept L s₀ s) (hL : [.regs, .pushes, .coll, .guards, .chans, .stages] ⊆ L) (rms : List Word) (irms : List Word) :
    Kept L s₀ (State.gridPeriod s rms irms) := by
  unfold State.gridPeriod
  extract_lets y0 y1 y2 y3 y4 y5
  try clear_value y0 y1 y3 y4
  have gy2 : Kept L s₀ y2 := by
    unfold y2
    repeat' first
      | with_reducible assumption | exact List.Subset.trans (by decide) hL | with_reducible apply Kept.convTrip
      | with_reducible apply Kept.setStage | with_reducible apply Kept.wrB | with_reducible apply Kept.ite | split | intro _
  try clear_value y2
  have gy5 : Kept L s₀ y5 := by
    unfold y5
    repeat' first
      | with_reducible assumption | exact List.Subset.trans (by decide) hL | with_reducible apply Kept.convTrip
      | with_reducible apply Kept.setStage | with_reducible apply Kept.wrB | with_reducible apply Kept.ite | split | intro _
  try clear_value y5
  repeat' first
    | with_reducible assumption | exact List.Subset.trans (by decide) hL | with_reducible apply Kept.convTrip
    | with_reducible apply Kept.setStage | with_reducible apply Kept.wrB | with_reducible apply Kept.ite | split | intro _

theorem Kept.gridCrossing (h : Kept L s₀ s) (hL : [.regs, .pushes, .coll, .guards, .chans, .stages] ⊆ L) (rms : List Word) (irms : List Word) (vpk : Word) :
    Kept L s₀ (State.gridCrossing s rms irms vpk) := by
  unfold State.gridCrossing
  extract_lets y0 y1 y2 y3 y4
  try clear_value y0 y1 y2
  have gy3 : Kept L s₀ y3 := by
    unfold y3
    repeat' first
      | with_reducible assumption | exact List.Subset.trans (by decide) hL | with_reducible apply Kept.convShow
      | with_reducible apply Kept.gridPeriod | with_reducible apply Kept.setIn | with_reducible apply Kept.setStage
      | with_reducible apply Kept.setWord | with_reducible apply Kept.ite | split | intro _
  try clear_value y3
  have gy4 : Kept L s₀ y4 := by
    unfold y4
    repeat' first
      | with_reducible assumption | exact List.Subset.trans (by decide) hL | with_reducible apply Kept.convShow
      | with_reducible apply Kept.gridPeriod | with_reducible apply Kept.setIn | with_reducible apply Kept.setStage
      | with_reducible apply Kept.setWord | with_reducible apply Kept.ite | split | intro _
  try clear_value y4
  repeat' first
    | with_reducible assumption | exact List.Subset.trans (by decide) hL | with_reducible apply Kept.convShow
    | with_reducible apply Kept.gridPeriod | with_reducible apply Kept.setIn | with_reducible apply Kept.setStage
    | with_reducible apply Kept.setWord | with_reducible apply Kept.ite | split | intro _

theorem Kept.gridLoss (h : Kept L s₀ s) (hL : [.regs, .pushes, .coll, .guards, .chans, .stages] ⊆ L) :
    Kept L s₀ (State.gridLoss s) := by
  unfold State.gridLoss
  extract_lets y0 y1 y2
  try clear_value y0 y1
  have gy2 : Kept L s₀ y2 := by
    unfold y2
    repeat' first
      | with_reducible assumption | exact List.Subset.trans (by decide) hL | with_reducible apply Kept.convShow
      | with_reducible apply Kept.convTrip | with_reducible apply Kept.wrB | with_reducible apply Kept.ite | split | intro _
  try clear_value y2
  repeat' first
    | with_reducible assumption | exact List.Subset.trans (by decide) hL | with_reducible apply Kept.convShow
    | with_reducible apply Kept.convTrip | with_reducible apply Kept.wrB | with_reducible apply Kept.ite | split | intro _

theorem Kept.pilotPeriod (h : Kept L s₀ s) (hL : [.regs, .pushes, .coll, .guards, .chans, .stages, .pilot] ⊆ L) (high : Option Word) (low : Option Word) (edges : Bool) (period : ℕ) (highTime : ℕ) :
    Kept L s₀ (State.pilotPeriod s high low edges period highTime) := by
  unfold State.pilotPeriod
  extract_lets y0 y1 y2 y3 y4 y5 y6 y7 y8 y9 y10 y11 y12 y13 y14
  try clear_value y0 y1 y2 y3 y4 y6 y11 y12 y14
  have gy5 : Kept L s₀ y5 := by
    unfold y5
    repeat' first
      | with_reducible assumption | exact List.Subset.trans (by decide) hL
      | ((with_reducible refine Touches.intro fun p hp => ?_); cases p <;> first | exact absurd (by decide) hp | (dsimp only [Part.Same]))
      | with_reducible apply Kept.pilotCheck | with_reducible apply Kept.pilotLossTrip | with_reducible apply Kept.setWord
      | with_reducible apply Kept.wr | with_reducible apply Kept.wrB | with_reducible apply Kept.ite | split | intro _
      | refine Kept.mk_of [.pilot] ?_ (List.Subset.trans (by decide) hL) ?_
  try clear_value y5
  have gy7 : Kept L s₀ y7 := by
    unfold y7
    repeat' first
      | with_reducible assumption | exact List.Subset.trans (by decide) hL
      | ((with_reducible refine Touches.intro fun p hp => ?_); cases p <;> first | exact absurd (by decide) hp | (dsimp only [Part.Same]))
      | with_reducible apply Kept.pilotCheck | with_reducible apply Kept.pilotLossTrip | with_reducible apply Kept.setWord
      | with_reducible apply Kept.wr | with_reducible apply Kept.wrB | with_reducible apply Kept.ite | split | intro _
      | refine Kept.mk_of [.pilot] ?_ (List.Subset.trans (by decide) hL) ?_
  try clear_value y7
  have gy8 : Kept L s₀ y8 := by
    unfold y8
    repeat' first
      | with_reducible assumption | exact List.Subset.trans (by decide) hL
      | ((with_reducible refine Touches.intro fun p hp => ?_); cases p <;> first | exact absurd (by decide) hp | (dsimp only [Part.Same]))
      | with_reducible apply Kept.pilotCheck | with_reducible apply Kept.pilotLossTrip | with_reducible apply Kept.setWord
      | with_reducible apply Kept.wr | with_reducible apply Kept.wrB | with_reducible apply Kept.ite | split | intro _
      | refine Kept.mk_of [.pilot] ?_ (List.Subset.trans (by decide) hL) ?_
  try clear_value y8
  have gy9 : Kept L s₀ y9 := by
    unfold y9
    repeat' first
      | with_reducible assumption | exact List.Subset.trans (by decide) hL
      | ((with_reducible refine Touches.intro fun p hp => ?_); cases p <;> first | exact absurd (by decide) hp | (dsimp only [Part.Same]))
      | with_reducible apply Kept.pilotCheck | with_reducible apply Kept.pilotLossTrip | with_reducible apply Kept.setWord
      | with_reducible apply Kept.wr | with_reducible apply Kept.wrB | with_reducible apply Kept.ite | split | intro _
      | refine Kept.mk_of [.pilot] ?_ (List.Subset.trans (by decide) hL) ?_
  try clear_value y9
  have gy10 : Kept L s₀ y10 := by
    unfold y10
    repeat' first
      | with_reducible assumption | exact List.Subset.trans (by decide) hL
      | ((with_reducible refine Touches.intro fun p hp => ?_); cases p <;> first | exact absurd (by decide) hp | (dsimp only [Part.Same]))
      | with_reducible apply Kept.pilotCheck | with_reducible apply Kept.pilotLossTrip | with_reducible apply Kept.setWord
      | with_reducible apply Kept.wr | with_reducible apply Kept.wrB | with_reducible apply Kept.ite | split | intro _
      | refine Kept.mk_of [.pilot] ?_ (List.Subset.trans (by decide) hL) ?_
  try clear_value y10
  have gy13 : Kept L s₀ y13 := by
    unfold y13
    repeat' first
      | with_reducible assumption | exact List.Subset.trans (by decide) hL
      | ((with_reducible refine Touches.intro fun p hp => ?_); cases p <;> first | exact absurd (by decide) hp | (dsimp only [Part.Same]))
      | with_reducible apply Kept.pilotCheck | with_reducible apply Kept.pilotLossTrip | with_reducible apply Kept.setWord
      | with_reducible apply Kept.wr | with_reducible apply Kept.wrB | with_reducible apply Kept.ite | split | intro _
      | refine Kept.mk_of [.pilot] ?_ (List.Subset.trans (by decide) hL) ?_
  try clear_value y13
  repeat' first
    | with_reducible assumption | exact List.Subset.trans (by decide) hL
    | ((with_reducible refine Touches.intro fun p hp => ?_); cases p <;> first | exact absurd (by decide) hp | (dsimp only [Part.Same]))
    | with_reducible apply Kept.pilotCheck | with_reducible apply Kept.pilotLossTrip | with_reducible apply Kept.setWord
    | with_reducible apply Kept.wr | with_reducible apply Kept.wrB | with_reducible apply Kept.ite | split | intro _
    | refine Kept.mk_of [.pilot] ?_ (List.Subset.trans (by decide) hL) ?_

theorem Kept.proximity (h : Kept L s₀ s) (hL : [.regs, .pushes, .coll, .guards, .chans, .stages, .pilot] ⊆ L) (vpp : Word) (v33 : Word) :
    Kept L s₀ (State.proximity s vpp v33) := by
  unfold State.proximity
  extract_lets y0 y1 y2 y3 y4 y5
  try clear_value y0 y1 y2 y3
  have gy4 : Kept L s₀ y4 := by
    unfold y4
    repeat' first
      | with_reducible assumption | exact List.Subset.trans (by decide) hL
      | ((with_reducible refine Touches.intro fun p hp => ?_); cases p <;> first | exact absurd (by decide) hp | (dsimp only [Part.Same]))
      | with_reducible apply Kept.pilotCheck | with_reducible apply Kept.setWord | with_reducible apply Kept.wr
      | with_reducible apply Kept.wrB | with_reducible apply Kept.ite | split | intro _
      | refine Kept.mk_of [.pilot] ?_ (List.Subset.trans (by decide) hL) ?_
  try clear_value y4
  have gy5 : Kept L s₀ y5 := by
    unfold y5
    repeat' first
      | with_reducible assumption | exact List.Subset.trans (by decide) hL
      | ((with_reducible refine Touches.intro fun p hp => ?_); cases p <;> first | exact absurd (by decide) hp | (dsimp only [Part.Same]))
      | with_reducible apply Kept.pilotCheck | with_reducible apply Kept.setWord | with_reducible apply Kept.wr
      | with_reducible apply Kept.wrB | with_reducible apply Kept.ite | split | intro _
      | refine Kept.mk_of [.pilot] ?_ (List.Subset.trans (by decide) hL) ?_
  try clear_value y5
  repeat' first
    | with_reducible assumption | exact List.Subset.trans (by decide) hL
    | ((with_reducible refine Touches.intro fun p hp => ?_); cases p <;> first | exact absurd (by decide) hp | (dsimp only [Part.Same]))
    | with_reducible apply Kept.pilotCheck | with_reducible apply Kept.setWord | with_reducible apply Kept.wr
    | with_reducible apply Kept.wrB | with_reducible apply Kept.ite | split | intro _
    | refine Kept.mk_of [.pilot] ?_ (List.Subset.trans (by decide) hL) ?_

theorem Kept.pilotRestart (h : Kept L s₀ s) (hL : [.regs, .pushes, .pilot] ⊆ L) :
    Kept L s₀ (State.pilotRestart s) := by
  unfold State.pilotRestart
  extract_lets y0
  have gy0 : Kept L s₀ y0 := by
    unfold y0
    repeat' first
      | with_reducible assumption | exact List.Subset.trans (by decide) hL
      | ((with_reducible refine Touches.intro fun p hp => ?_); cases p <;> first | exact absurd (by decide) hp | (dsimp only [Part.Same]))
      | with_reducible apply Kept.wr | with_reducible apply Kept.wrB
      | refine Kept.mk_of [.pilot] ?_ (List.Subset.trans (by decide) hL) ?_
  try clear_value y0
  repeat' first
    | with_reducible assumption | exact List.Subset.trans (by decide) hL
    | ((with_reducible refine Touches.intro fun p hp => ?_); cases p <;> first | exact absurd (by decide) hp | (dsimp only [Part.Same]))
    | with_reducible apply Kept.wr | with_reducible apply Kept.wrB
    | refine Kept.mk_of [.pilot] ?_ (List.Subset.trans (by decide) hL) ?_

theorem Kept.enterDelay (h : Kept L s₀ s) (hL : [.regs, .pushes, .stages] ⊆ L) (st : ℕ) :
    Kept L s₀ (State.enterDelay s st) := by
  unfold State.enterDelay
  extract_lets y0 y1 y2 y3 y4
  try clear_value y2
  have gy0 : Kept L s₀ y0 := by
    unfold y0
    repeat' first
      | with_reducible assumption | exact List.Subset.trans (by decide) hL | with_reducible apply Kept.convShow
      | with_reducible apply Kept.setMode | with_reducible apply Kept.setS2 | with_reducible apply Kept.setStage
      | with_reducible apply Kept.setTrims | with_reducible apply Kept.wrB | with_reducible apply Kept.ite | split | intro _
  try clear_value y0
  have gy1 : Kept L s₀ y1 := by
    unfold y1
    repeat' first
      | with_reducible assumption | exact List.Subset.trans (by decide) hL | with_reducible apply Kept.convShow
      | with_reducible apply Kept.setMode | with_reducible apply Kept.setS2 | with_reducible apply Kept.setStage
      | with_reducible apply Kept.setTrims | with_reducible apply Kept.wrB | with_reducible apply Kept.ite | split | intro _
  try clear_value y1
  have gy3 : Kept L s₀ y3 := by
    unfold y3
    repeat' first
      | with_reducible assumption | exact List.Subset.trans (by decide) hL | with_reducible apply Kept.convShow
      | with_reducible apply Kept.setMode | with_reducible apply Kept.setS2 | with_reducible apply Kept.setStage
      | with_reducible apply Kept.setTrims | with_reducible apply Kept.wrB | with_reducible apply Kept.ite | split | intro _
  try clear_value y3
  have gy4 : Kept L s₀ y4 := by
    unfold y4
    repeat' first
      | with_reducible assumption | exact List.Subset.trans (by decide) hL | with_reducible apply Kept.convShow
      | with_reducible apply Kept.setMode | with_reducible apply Kept.setS2 | with_reducible apply Kept.setStage
      | with_reducible apply Kept.setTrims | with_reducible apply Kept.wrB | with_reducible apply Kept.ite | split | intro _
  try clear_value y4
  repeat' first
    | with_reducible assumption | exact List.Subset.trans (by decide) hL | with_reducible apply Kept.convShow
    | with_reducible apply Kept.setMode | with_reducible apply Kept.setS2 | with_reducible apply Kept.setStage
    | with_reducible apply Kept.setTrims | with_reducible apply Kept.wrB | with_reducible apply Kept.ite | split | intro _

theorem Kept.convRequest (h : Kept L s₀ s) (hL : [.regs, .pushes, .coll, .guards, .chans, .stages] ⊆ L) (st : ℕ) (m : ℕ) (fast : Bool) :
    Kept L s₀ (State.convRequest s st m fast) := by
  unfold State.convRequest
  extract_lets y0 y1 y2 y3 y4 y5
  try clear_value y0 y1 y4
  have gy2 : Kept L s₀ y2 := by
    unfold y2
    repeat' first
      | with_reducible assumption | exact List.Subset.trans (by decide) hL | with_reducible apply Kept.accept
      | with_reducible apply Kept.convOff | with_reducible apply Kept.convOffSlow | with_reducible apply Kept.convShow
      | with_reducible apply Kept.enterDelay | with_reducible apply Kept.refuse | with_reducible apply Kept.setMode
      | with_reducible apply Kept.setStage | with_reducible apply Kept.wrB | with_reducible apply Kept.ite | split | intro _
  try clear_value y2
  have gy3 : Kept L s₀ y3 := by
    unfold y3
    repeat' first
      | with_reducible assumption | exact List.Subset.trans (by decide) hL | with_reducible apply Kept.accept
      | with_reducible apply Kept.convOff | with_reducible apply Kept.convOffSlow | with_reducible apply Kept.convShow
      | with_reducible apply Kept.enterDelay | with_reducible apply Kept.refuse | with_reducible apply Kept.setMode
      | with_reducible apply Kept.setStage | with_reducible apply Kept.wrB | with_reducible apply Kept.ite | split | intro _
  try clear_value y3
  have gy5 : Kept L s₀ y5 := by
    unfold y5
    repeat' first
      | with_reducible assumption | exact List.Subset.trans (by decide) hL | with_reducible apply Kept.accept
      | with_reducible apply Kept.convOff | with_reducible apply Kept.convOffSlow | with_reducible apply Kept.convShow
      | with_reducible apply Kept.enterDelay | with_reducible apply Kept.refuse | with_reducible apply Kept.setMode
      | with_reducible apply Kept.setStage | with_reducible apply Kept.wrB | with_reducible apply Kept.ite | split | intro _
  try clear_value y5
  repeat' first
    | with_reducible assumption | exact List.Subset.trans (by decide) hL | with_reducible apply Kept.accept
    | with_reducible apply Kept.convOff | with_reducible apply Kept.convOffSlow | with_reducible apply Kept.convShow
    | with_reducible apply Kept.enterDelay | with_reducible apply Kept.refuse | with_reducible apply Kept.setMode
    | with_reducible apply Kept.setStage | with_reducible apply Kept.wrB | with_reducible apply Kept.ite | split | intro _

theorem Kept.applyDuty (h : Kept L s₀ s) (hL : [.regs, .pushes, .chans] ⊆ L) (duty : Word) :
    Kept L s₀ (State.applyDuty s duty) := by
  unfold State.applyDuty
  repeat' first
    | with_reducible assumption | exact List.Subset.trans (by decide) hL | with_reducible apply Kept.each
    | with_reducible apply Kept.latchCompare | with_reducible apply Kept.legDrives | intro _

theorem Kept.convCommand (h : Kept L s₀ s) (hL : [.regs, .pushes, .chans, .stages] ⊆ L) (st : ℕ) (k : ℕ) :
    Kept L s₀ (State.convCommand s st k) := by
  unfold State.convCommand
  extract_lets y0 y1 y2
  try clear_value y0 y1
  have gy2 : Kept L s₀ y2 := by
    unfold y2
    repeat' first
      | with_reducible assumption | exact List.Subset.trans (by decide) hL | with_reducible apply Kept.applyDuty
      | with_reducible apply Kept.setStage | with_reducible apply Kept.ite | split | intro _
  try clear_value y2
  repeat' first
    | with_reducible assumption | exact List.Subset.trans (by decide) hL | with_reducible apply Kept.applyDuty
    | with_reducible apply Kept.setStage | with_reducible apply Kept.ite | split | intro _

theorem Kept.bridgePeriod (h : Kept L s₀ s) (hL : [.regs, .pushes, .chans] ⊆ L) (st : ℕ) (start : ℕ) :
    Kept L s₀ (State.bridgePeriod s st start) := by
  unfold State.bridgePeriod
  extract_lets y0 y1
  try clear_value y0 y1
  repeat' first
    | with_reducible assumption | exact List.Subset.trans (by decide) hL | with_reducible apply Kept.beginLegPeriod
    | with_reducible apply Kept.each | with_reducible apply Kept.legDrives | with_reducible apply Kept.wr
    | with_reducible apply Kept.ite | split | intro _

theorem Kept.buckPeriod (h : Kept L s₀ s) (hL : [.regs, .pushes, .chans] ⊆ L) (start : ℕ) :
    Kept L s₀ (State.buckPeriod s start) := by
  unfold State.buckPeriod
  extract_lets y0
  try clear_value y0
  repeat' first
    | with_reducible assumption | exact List.Subset.trans (by decide) hL | with_reducible apply Kept.beginLegPeriod
    | with_reducible apply Kept.each | with_reducible apply Kept.wr | intro _

theorem Kept.balance (h : Kept L s₀ s) (hL : [.regs, .pushes, .coll, .stages] ⊆ L) :
    Kept L s₀ (State.balance s) := by
  unfold State.balance
  extract_lets y0 y1 y2 y3 y4 y5 y6 y7 y8 y9 y10 y11 y12
  try clear_value y0 y1 y2 y3 y5 y7 y8 y9 y12
  have gy4 : Kept L s₀ y4 := by
    unfold y4
    repeat' first
      | with_reducible assumption | exact List.Subset.trans (by decide) hL | with_reducible apply Kept.convShow
      | with_reducible apply Kept.reportTp | with_reducible apply Kept.setStage | with_reducible apply Kept.setTrims
      | with_reducible apply Kept.wrB | with_reducible apply Kept.ite | split | intro _
  try clear_value y4
  have gy6 : Kept L s₀ y6 := by
    unfold y6
    repeat' first
      | with_reducible assumption | exact List.Subset.trans (by decide) hL | with_reducible apply Kept.convShow
      | with_reducible apply Kept.reportTp | with_reducible apply Kept.setStage | with_reducible apply Kept.setTrims
      | with_reducible apply Kept.wrB | with_reducible apply Kept.ite | split | intro _
  try clear_value y6
  have gy10 : Kept L s₀ y10 := by
    unfold y10
    repeat' first
      | with_reducible assumption | exact List.Subset.trans (by decide) hL | with_reducible apply Kept.convShow
      | with_reducible apply Kept.reportTp | with_reducible apply Kept.setStage | with_reducible apply Kept.setTrims
      | with_reducible apply Kept.wrB | with_reducible apply Kept.ite | split | intro _
  try clear_value y10
  have gy11 : Kept L s₀ y11 := by
    unfold y11
    repeat' first
      | with_reducible assumption | exact List.Subset.trans (by decide) hL | with_reducible apply Kept.convShow
      | with_reducible apply Kept.reportTp | with_reducible apply Kept.setStage | with_reducible apply Kept.setTrims
      | with_reducible apply Kept.wrB | with_reducible apply Kept.ite | split | intro _
  try clear_value y11
  repeat' first
    | with_reducible assumption | exact List.Subset.trans (by decide) hL | with_reducible apply Kept.convShow
    | with_reducible apply Kept.reportTp | with_reducible apply Kept.setStage | with_reducible apply Kept.setTrims
    | with_reducible apply Kept.wrB | with_reducible apply Kept.ite | split | intro _

theorem Kept.crowbarFire (h : Kept L s₀ s) (hL : [.regs, .pushes, .coll, .guards, .chans, .stages] ⊆ L) :
    Kept L s₀ (State.crowbarFire s) := by
  unfold State.crowbarFire
  extract_lets y0 y1 y2 y3
  try clear_value y0
  have gy1 : Kept L s₀ y1 := by
    unfold y1
    repeat' first
      | with_reducible assumption | exact List.Subset.trans (by decide) hL | with_reducible apply Kept.convShow
      | with_reducible apply Kept.reportTp | with_reducible apply Kept.setAllLegs | with_reducible apply Kept.setMode
      | with_reducible apply Kept.setRef | with_reducible apply Kept.wr | with_reducible apply Kept.wrB
      | with_reducible apply Kept.ite | split | intro _
  try clear_value y1
  have gy2 : Kept L s₀ y2 := by
    unfold y2
    repeat' first
      | with_reducible assumption | exact List.Subset.trans (by decide) hL | with_reducible apply Kept.convShow
      | with_reducible apply Kept.reportTp | with_reducible apply Kept.setAllLegs | with_reducible apply Kept.setMode
      | with_reducible apply Kept.setRef | with_reducible apply Kept.wr | with_reducible apply Kept.wrB
      | with_reducible apply Kept.ite | split | intro _
  try clear_value y2
  have gy3 : Kept L s₀ y3 := by
    unfold y3
    repeat' first
      | with_reducible assumption | exact List.Subset.trans (by decide) hL | with_reducible apply Kept.convShow
      | with_reducible apply Kept.reportTp | with_reducible apply Kept.setAllLegs | with_reducible apply Kept.setMode
      | with_reducible apply Kept.setRef | with_reducible apply Kept.wr | with_reducible apply Kept.wrB
      | with_reducible apply Kept.ite | split | intro _
  try clear_value y3
  repeat' first
    | with_reducible assumption | exact List.Subset.trans (by decide) hL | with_reducible apply Kept.convShow
    | with_reducible apply Kept.reportTp | with_reducible apply Kept.setAllLegs | with_reducible apply Kept.setMode
    | with_reducible apply Kept.setRef | with_reducible apply Kept.wr | with_reducible apply Kept.wrB
    | with_reducible apply Kept.ite | split | intro _

theorem Kept.crowbarRelease (h : Kept L s₀ s) (hL : [.regs, .pushes, .guards, .chans, .stages] ⊆ L) :
    Kept L s₀ (State.crowbarRelease s) := by
  unfold State.crowbarRelease
  extract_lets y0
  have gy0 : Kept L s₀ y0 := by
    unfold y0
    repeat' first
      | with_reducible assumption | exact List.Subset.trans (by decide) hL | with_reducible apply Kept.setAllLegs
      | with_reducible apply Kept.wrB | with_reducible apply Kept.ite | split | intro _
  try clear_value y0
  repeat' first
    | with_reducible assumption | exact List.Subset.trans (by decide) hL | with_reducible apply Kept.setAllLegs
    | with_reducible apply Kept.wrB | with_reducible apply Kept.ite | split | intro _

theorem Kept.crowbarClear (h : Kept L s₀ s) (hL : [.regs, .pushes, .coll, .guards, .chans, .stages] ⊆ L) (below : Bool) :
    Kept L s₀ (State.crowbarClear s below) := by
  unfold State.crowbarClear
  repeat' first
    | with_reducible assumption | exact List.Subset.trans (by decide) hL | with_reducible apply Kept.crowbarRelease
    | with_reducible apply Kept.reportTp | with_reducible apply Kept.ite | split | intro _

end Sys2Proof.Machine
end

