-- ==== Sys2Proof/Laws/KeptActuation.lean ====
section
/-! SUPPORT. What the operations of Actuation keep. -/

set_option linter.unusedTactic false
set_option linter.unreachableTactic false
set_option linter.unusedVariables false

namespace Sys2Proof.Machine

variable {L : List Part} {s₀ s : State}

theorem Kept.setSpdEff (h : Kept L s₀ s) (hL : [.regs, .pushes] ⊆ L) (st : ℕ) (w : Word) :
    Kept L s₀ (State.setSpdEff s st w) := by
  unfold State.setSpdEff
  repeat' first
    | with_reducible assumption | exact List.Subset.trans (by decide) hL | with_reducible apply Kept.setIn
    | with_reducible apply Kept.setWord

theorem Kept.actShow (h : Kept L s₀ s) (hL : [.regs, .pushes] ⊆ L) (st : ℕ) :
    Kept L s₀ (State.actShow s st) := by
  unfold State.actShow
  extract_lets y0 y1
  try clear_value y0 y1
  repeat' first
    | with_reducible assumption | exact List.Subset.trans (by decide) hL | with_reducible apply Kept.setIn

theorem Kept.actEnter (h : Kept L s₀ s) (hL : [.regs, .pushes, .guards, .chans, .stages] ⊆ L) (st : ℕ) (m : ℕ) (host : Bool) :
    Kept L s₀ (State.actEnter s st m host) := by
  unfold State.actEnter
  extract_lets y0 y1 y2
  try clear_value y0
  have gy1 : Kept L s₀ y1 := by
    unfold y1
    repeat' first
      | with_reducible assumption | exact List.Subset.trans (by decide) hL | with_reducible apply Kept.actShow
      | with_reducible apply Kept.setAllLegs | with_reducible apply Kept.setMode | with_reducible apply Kept.setSpdEff
      | with_reducible apply Kept.wrB | with_reducible apply Kept.ite | split | intro _
  try clear_value y1
  have gy2 : Kept L s₀ y2 := by
    unfold y2
    repeat' first
      | with_reducible assumption | exact List.Subset.trans (by decide) hL | with_reducible apply Kept.actShow
      | with_reducible apply Kept.setAllLegs | with_reducible apply Kept.setMode | with_reducible apply Kept.setSpdEff
      | with_reducible apply Kept.wrB | with_reducible apply Kept.ite | split | intro _
  try clear_value y2
  repeat' first
    | with_reducible assumption | exact List.Subset.trans (by decide) hL | with_reducible apply Kept.actShow
    | with_reducible apply Kept.setAllLegs | with_reducible apply Kept.setMode | with_reducible apply Kept.setSpdEff
    | with_reducible apply Kept.wrB | with_reducible apply Kept.ite | split | intro _

theorem Kept.actOff (h : Kept L s₀ s) (hL : [.regs, .pushes, .guards, .chans, .stages] ⊆ L) (st : ℕ) (host : Bool) :
    Kept L s₀ (State.actOff s st host) := by
  unfold State.actOff
  repeat' first
    | with_reducible assumption | exact List.Subset.trans (by decide) hL | with_reducible apply Kept.actEnter
    | with_reducible apply Kept.releaseLatches | with_reducible apply Kept.wrB

theorem Kept.actTrip (h : Kept L s₀ s) (hL : [.regs, .pushes, .coll, .guards, .chans, .stages] ⊆ L) (st : ℕ) (cause : ℕ) :
    Kept L s₀ (State.actTrip s st cause) := by
  unfold State.actTrip
  extract_lets y0 y1
  try clear_value y0
  have gy1 : Kept L s₀ y1 := by
    unfold y1
    repeat' first
      | with_reducible assumption | exact List.Subset.trans (by decide) hL | with_reducible apply Kept.actEnter
      | with_reducible apply Kept.reportTp | with_reducible apply Kept.wr | with_reducible apply Kept.ite | split | intro _
  try clear_value y1
  repeat' first
    | with_reducible assumption | exact List.Subset.trans (by decide) hL | with_reducible apply Kept.actEnter
    | with_reducible apply Kept.reportTp | with_reducible apply Kept.wr | with_reducible apply Kept.ite | split | intro _

theorem Kept.switchToPins (h : Kept L s₀ s) (hL : [.regs, .pushes, .guards, .chans, .stages] ⊆ L) (st : ℕ) :
    Kept L s₀ (State.switchToPins s st) := by
  unfold State.switchToPins
  repeat' first
    | with_reducible assumption | exact List.Subset.trans (by decide) hL | with_reducible apply Kept.actEnter
    | with_reducible apply Kept.ite | split | intro _

theorem Kept.pinSourceSwitch (h : Kept L s₀ s) (hL : [.regs, .pushes, .guards, .chans, .stages] ⊆ L) :
    Kept L s₀ (State.pinSourceSwitch s) := by
  unfold State.pinSourceSwitch
  repeat' first
    | with_reducible assumption | exact List.Subset.trans (by decide) hL | with_reducible apply Kept.each
    | with_reducible apply Kept.switchToPins | intro _

theorem Kept.curveInput (h : Kept L s₀ s) (hL : [.regs, .pushes, .chk, .fresh, .coll] ⊆ L) (st : ℕ) :
    Kept L s₀ (State.curveInput s st).2 := by
  unfold State.curveInput
  extract_lets y0 y1 y2 y3 y4 y5 y6 y7 y8 y9 y10
  try clear_value y0 y1 y2 y3 y4 y5 y6 y8 y9
  have gy7 : Kept L s₀ y7 := by
    unfold y7
    repeat' first
      | with_reducible assumption | exact List.Subset.trans (by decide) hL | with_reducible apply Kept.drawWord
      | with_reducible apply Kept.slotChecked | with_reducible apply Kept.ite | split | intro _
  try clear_value y7
  have gy10 : Kept L s₀ y10.2 := by
    unfold y10
    repeat' first
      | with_reducible assumption | exact List.Subset.trans (by decide) hL | with_reducible apply Kept.drawWord
      | with_reducible apply Kept.slotChecked | with_reducible apply Kept.ite | split | intro _
  try clear_value y10
  repeat' first
    | with_reducible assumption | exact List.Subset.trans (by decide) hL | with_reducible apply Kept.drawWord
    | with_reducible apply Kept.slotChecked | with_reducible apply Kept.ite | split | intro _

theorem Kept.evalCurve (h : Kept L s₀ s) (hL : [.regs, .pushes, .chk, .fresh, .coll, .stages] ⊆ L) (st : ℕ) (start : Bool) :
    Kept L s₀ (State.evalCurve s st start) := by
  unfold State.evalCurve
  extract_lets y0 y1 y2 y3 y4 y5 y6 y7 y8 y9 y10 y11 y12 y13 y14
  try clear_value y0 y2 y4 y6 y8 y10 y11 y12 y14
  have gy1 : Kept L s₀ y1.2 := by
    unfold y1
    repeat' first
      | with_reducible assumption | exact List.Subset.trans (by decide) hL | with_reducible apply Kept.curveInput
      | with_reducible apply Kept.reportTp | with_reducible apply Kept.setStage | with_reducible apply Kept.setWord
      | with_reducible apply Kept.wrB | with_reducible apply Kept.ite | split | intro _
  try clear_value y1
  have gy3 : Kept L s₀ y3 := by
    unfold y3
    repeat' first
      | with_reducible assumption | exact List.Subset.trans (by decide) hL | with_reducible apply Kept.curveInput
      | with_reducible apply Kept.reportTp | with_reducible apply Kept.setStage | with_reducible apply Kept.setWord
      | with_reducible apply Kept.wrB | with_reducible apply Kept.ite | split | intro _
  try clear_value y3
  have gy5 : Kept L s₀ y5 := by
    unfold y5
    repeat' first
      | with_reducible assumption | exact List.Subset.trans (by decide) hL | with_reducible apply Kept.curveInput
      | with_reducible apply Kept.reportTp | with_reducible apply Kept.setStage | with_reducible apply Kept.setWord
      | with_reducible apply Kept.wrB | with_reducible apply Kept.ite | split | intro _
  try clear_value y5
  have gy7 : Kept L s₀ y7 := by
    unfold y7
    repeat' first
      | with_reducible assumption | exact List.Subset.trans (by decide) hL | with_reducible apply Kept.curveInput
      | with_reducible apply Kept.reportTp | with_reducible apply Kept.setStage | with_reducible apply Kept.setWord
      | with_reducible apply Kept.wrB | with_reducible apply Kept.ite | split | intro _
  try clear_value y7
  have gy9 : Kept L s₀ y9 := by
    unfold y9
    repeat' first
      | with_reducible assumption | exact List.Subset.trans (by decide) hL | with_reducible apply Kept.curveInput
      | with_reducible apply Kept.reportTp | with_reducible apply Kept.setStage | with_reducible apply Kept.setWord
      | with_reducible apply Kept.wrB | with_reducible apply Kept.ite | split | intro _
  try clear_value y9
  have gy13 : Kept L s₀ y13 := by
    unfold y13
    repeat' first
      | with_reducible assumption | exact List.Subset.trans (by decide) hL | with_reducible apply Kept.curveInput
      | with_reducible apply Kept.reportTp | with_reducible apply Kept.setStage | with_reducible apply Kept.setWord
      | with_reducible apply Kept.wrB | with_reducible apply Kept.ite | split | intro _
  try clear_value y13
  repeat' first
    | with_reducible assumption | exact List.Subset.trans (by decide) hL | with_reducible apply Kept.curveInput
    | with_reducible apply Kept.reportTp | with_reducible apply Kept.setStage | with_reducible apply Kept.setWord
    | with_reducible apply Kept.wrB | with_reducible apply Kept.ite | split | intro _

theorem Kept.actRunFrom (h : Kept L s₀ s) (hL : [.regs, .pushes, .guards, .chans, .stages] ⊆ L) (st : ℕ) (host : Bool) :
    Kept L s₀ (State.actRunFrom s st host) := by
  unfold State.actRunFrom
  extract_lets y0 y1 y2 y3
  try clear_value y0 y2
  have gy1 : Kept L s₀ y1 := by
    unfold y1
    repeat' first
      | with_reducible assumption | exact List.Subset.trans (by decide) hL | with_reducible apply Kept.actEnter
      | with_reducible apply Kept.actShow | with_reducible apply Kept.setSpdEff | with_reducible apply Kept.setStage
      | with_reducible apply Kept.ite | split | intro _
  try clear_value y1
  have gy3 : Kept L s₀ y3 := by
    unfold y3
    repeat' first
      | with_reducible assumption | exact List.Subset.trans (by decide) hL | with_reducible apply Kept.actEnter
      | with_reducible apply Kept.actShow | with_reducible apply Kept.setSpdEff | with_reducible apply Kept.setStage
      | with_reducible apply Kept.ite | split | intro _
  try clear_value y3
  repeat' first
    | with_reducible assumption | exact List.Subset.trans (by decide) hL | with_reducible apply Kept.actEnter
    | with_reducible apply Kept.actShow | with_reducible apply Kept.setSpdEff | with_reducible apply Kept.setStage
    | with_reducible apply Kept.ite | split | intro _

theorem Kept.curveInstant (h : Kept L s₀ s) (hL : [.regs, .pushes, .chk, .fresh, .coll, .guards, .chans, .stages] ⊆ L) (st : ℕ) :
    Kept L s₀ (State.curveInstant s st) := by
  unfold State.curveInstant
  extract_lets y0 y1 y2 y3
  try clear_value y0 y1 y2
  have gy3 : Kept L s₀ y3 := by
    unfold y3
    repeat' first
      | with_reducible assumption | exact List.Subset.trans (by decide) hL | with_reducible apply Kept.actRunFrom
      | with_reducible apply Kept.actShow | with_reducible apply Kept.evalCurve | with_reducible apply Kept.ite | split
      | intro _
  try clear_value y3
  repeat' first
    | with_reducible assumption | exact List.Subset.trans (by decide) hL | with_reducible apply Kept.actRunFrom
    | with_reducible apply Kept.actShow | with_reducible apply Kept.evalCurve | with_reducible apply Kept.ite | split
    | intro _

theorem Kept.formSpdEff (h : Kept L s₀ s) (hL : [.regs, .pushes, .stages] ⊆ L) (st : ℕ) :
    Kept L s₀ (State.formSpdEff s st) := by
  unfold State.formSpdEff
  extract_lets y0 y1 y2 y3
  try clear_value y2 y3
  have gy0 : Kept L s₀ y0.2 := by
    unfold y0
    repeat' first
      | with_reducible assumption | exact List.Subset.trans (by decide) hL | with_reducible apply Kept.rampAllowance
      | with_reducible apply Kept.setSpdEff | with_reducible apply Kept.ite | split | intro _
  try clear_value y0
  have gy1 : Kept L s₀ y1 := by
    unfold y1
    repeat' first
      | with_reducible assumption | exact List.Subset.trans (by decide) hL | with_reducible apply Kept.rampAllowance
      | with_reducible apply Kept.setSpdEff | with_reducible apply Kept.ite | split | intro _
  try clear_value y1
  repeat' first
    | with_reducible assumption | exact List.Subset.trans (by decide) hL | with_reducible apply Kept.rampAllowance
    | with_reducible apply Kept.setSpdEff | with_reducible apply Kept.ite | split | intro _

theorem Kept.actTransitions (h : Kept L s₀ s) (hL : [.regs, .pushes, .guards, .chans, .stages] ⊆ L) (st : ℕ) :
    Kept L s₀ (State.actTransitions s st) := by
  unfold State.actTransitions
  extract_lets y0 y1 y2 y3 y4 y5
  try clear_value y0 y1 y3 y4 y5
  repeat' first
    | with_reducible assumption | exact List.Subset.trans (by decide) hL | with_reducible apply Kept.actEnter
    | with_reducible apply Kept.actOff | with_reducible apply Kept.actShow | with_reducible apply Kept.wrB
    | with_reducible apply Kept.ite | split | intro _

theorem Kept.actSample (h : Kept L s₀ s) (hL : [.regs, .pushes, .coll, .guards, .chans, .stages] ⊆ L) (st : ℕ) :
    Kept L s₀ (State.actSample s st) := by
  unfold State.actSample
  extract_lets y0 y1 y2 y3 y4 y5 y6
  try clear_value y1 y2 y4
  have gy0 : Kept L s₀ y0 := by
    unfold y0
    repeat' first
      | with_reducible assumption | exact List.Subset.trans (by decide) hL | with_reducible apply Kept.actShow
      | with_reducible apply Kept.actTransitions | with_reducible apply Kept.actTrip | with_reducible apply Kept.formSpdEff
      | with_reducible apply Kept.setIn | with_reducible apply Kept.setStage | with_reducible apply Kept.stampInputs
      | with_reducible apply Kept.ite | split | intro _
  try clear_value y0
  have gy5 : Kept L s₀ y5 := by
    unfold y5
    repeat' first
      | with_reducible assumption | exact List.Subset.trans (by decide) hL | with_reducible apply Kept.actShow
      | with_reducible apply Kept.actTransitions | with_reducible apply Kept.actTrip | with_reducible apply Kept.formSpdEff
      | with_reducible apply Kept.setIn | with_reducible apply Kept.setStage | with_reducible apply Kept.stampInputs
      | with_reducible apply Kept.ite | split | intro _
  try clear_value y5
  have gy6 : Kept L s₀ y6 := by
    unfold y6
    repeat' first
      | with_reducible assumption | exact List.Subset.trans (by decide) hL | with_reducible apply Kept.actShow
      | with_reducible apply Kept.actTransitions | with_reducible apply Kept.actTrip | with_reducible apply Kept.formSpdEff
      | with_reducible apply Kept.setIn | with_reducible apply Kept.setStage | with_reducible apply Kept.stampInputs
      | with_reducible apply Kept.ite | split | intro _
  try clear_value y6
  repeat' first
    | with_reducible assumption | exact List.Subset.trans (by decide) hL | with_reducible apply Kept.actShow
    | with_reducible apply Kept.actTransitions | with_reducible apply Kept.actTrip | with_reducible apply Kept.formSpdEff
    | with_reducible apply Kept.setIn | with_reducible apply Kept.setStage | with_reducible apply Kept.stampInputs
    | with_reducible apply Kept.ite | split | intro _

theorem Kept.actStopTimeout (h : Kept L s₀ s) (hL : [.regs, .pushes, .guards, .chans, .stages] ⊆ L) (st : ℕ) :
    Kept L s₀ (State.actStopTimeout s st) := by
  unfold State.actStopTimeout
  repeat' first
    | with_reducible assumption | exact List.Subset.trans (by decide) hL | with_reducible apply Kept.actOff
    | with_reducible apply Kept.ite | split | intro _

theorem Kept.actSpeedTimeout (h : Kept L s₀ s) (hL : [.regs, .pushes] ⊆ L) (st : ℕ) :
    Kept L s₀ (State.actSpeedTimeout s st) := by
  unfold State.actSpeedTimeout
  repeat' first
    | with_reducible assumption | exact List.Subset.trans (by decide) hL | with_reducible apply Kept.setWord
    | with_reducible apply Kept.ite | split | intro _

theorem Kept.actCommand (h : Kept L s₀ s) (hL : [.regs, .pushes, .stages] ⊆ L) (st : ℕ) (k : ℕ) :
    Kept L s₀ (State.actCommand s st k) := by
  unfold State.actCommand
  extract_lets y0 y1 y2
  try clear_value y0 y1
  have gy2 : Kept L s₀ y2 := by
    unfold y2
    repeat' first
      | with_reducible assumption | exact List.Subset.trans (by decide) hL | with_reducible apply Kept.setStage
      | with_reducible apply Kept.setWord | with_reducible apply Kept.ite | split | intro _
  try clear_value y2
  repeat' first
    | with_reducible assumption | exact List.Subset.trans (by decide) hL | with_reducible apply Kept.setStage
    | with_reducible apply Kept.setWord | with_reducible apply Kept.ite | split | intro _

theorem Kept.actRun (h : Kept L s₀ s) (hL : [.regs, .pushes, .chk, .fresh, .coll, .guards, .chans, .stages] ⊆ L) (st : ℕ) :
    Kept L s₀ (State.actRun s st) := by
  unfold State.actRun
  extract_lets y0 y1 y2
  try clear_value y0 y1
  have gy2 : Kept L s₀ y2 := by
    unfold y2
    repeat' first
      | with_reducible assumption | exact List.Subset.trans (by decide) hL | with_reducible apply Kept.actEnter
      | with_reducible apply Kept.actRunFrom | with_reducible apply Kept.actShow | with_reducible apply Kept.evalCurve
      | with_reducible apply Kept.wrB | with_reducible apply Kept.ite | split | intro _
  try clear_value y2
  repeat' first
    | with_reducible assumption | exact List.Subset.trans (by decide) hL | with_reducible apply Kept.actEnter
    | with_reducible apply Kept.actRunFrom | with_reducible apply Kept.actShow | with_reducible apply Kept.evalCurve
    | with_reducible apply Kept.wrB | with_reducible apply Kept.ite | split | intro _

theorem Kept.actHold (h : Kept L s₀ s) (hL : [.regs, .pushes, .guards, .chans, .stages] ⊆ L) (st : ℕ) :
    Kept L s₀ (State.actHold s st) := by
  unfold State.actHold
  extract_lets y0 y1 y2
  try clear_value y0 y1
  have gy2 : Kept L s₀ y2 := by
    unfold y2
    repeat' first
      | with_reducible assumption | exact List.Subset.trans (by decide) hL | with_reducible apply Kept.actEnter
      | with_reducible apply Kept.actShow | with_reducible apply Kept.setStage | with_reducible apply Kept.wrB
      | with_reducible apply Kept.ite | split | intro _
  try clear_value y2
  repeat' first
    | with_reducible assumption | exact List.Subset.trans (by decide) hL | with_reducible apply Kept.actEnter
    | with_reducible apply Kept.actShow | with_reducible apply Kept.setStage | with_reducible apply Kept.wrB
    | with_reducible apply Kept.ite | split | intro _

theorem Kept.actRequest (h : Kept L s₀ s) (hL : [.regs, .pushes, .chk, .fresh, .coll, .guards, .chans, .stages] ⊆ L) (st : ℕ) (m : ℕ) (fast : Bool) :
    Kept L s₀ (State.actRequest s st m fast) := by
  unfold State.actRequest
  extract_lets y0 y1 y2
  try clear_value y0 y1
  have gy2 : Kept L s₀ y2 := by
    unfold y2
    repeat' first
      | with_reducible assumption | exact List.Subset.trans (by decide) hL | with_reducible apply Kept.accept
      | with_reducible apply Kept.actEnter | with_reducible apply Kept.actHold | with_reducible apply Kept.actOff
      | with_reducible apply Kept.actRun | with_reducible apply Kept.refuse | with_reducible apply Kept.ite | split | intro _
  try clear_value y2
  repeat' first
    | with_reducible assumption | exact List.Subset.trans (by decide) hL | with_reducible apply Kept.accept
    | with_reducible apply Kept.actEnter | with_reducible apply Kept.actHold | with_reducible apply Kept.actOff
    | with_reducible apply Kept.actRun | with_reducible apply Kept.refuse | with_reducible apply Kept.ite | split | intro _

end Sys2Proof.Machine
end

