-- ==== Sys2Proof/Laws/KeptSto.lean ====
section
/-! SUPPORT. What the operations of Sto keep. -/

set_option linter.unusedTactic false
set_option linter.unreachableTactic false
set_option linter.unusedVariables false

namespace Sys2Proof.Machine

variable {L : List Part} {s₀ s : State}

theorem Kept.stoReaction (h : Kept L s₀ s) (hL : [.regs, .pushes, .coll, .guards, .chans, .stages] ⊆ L) (st : ℕ) :
    Kept L s₀ (State.stoReaction s st) := by
  unfold State.stoReaction
  extract_lets y0
  have gy0 : Kept L s₀ y0 := by
    unfold y0
    repeat' first
      | with_reducible assumption | exact List.Subset.trans (by decide) hL | with_reducible apply Kept.actTrip
      | with_reducible apply Kept.convTrip | with_reducible apply Kept.setAllLegs | with_reducible apply Kept.tracHold
      | with_reducible apply Kept.wr | with_reducible apply Kept.ite | split | intro _
  try clear_value y0
  repeat' first
    | with_reducible assumption | exact List.Subset.trans (by decide) hL | with_reducible apply Kept.actTrip
    | with_reducible apply Kept.convTrip | with_reducible apply Kept.setAllLegs | with_reducible apply Kept.tracHold
    | with_reducible apply Kept.wr | with_reducible apply Kept.ite | split | intro _

theorem Kept.stoPaths (h : Kept L s₀ s) (hL : [.regs, .pushes] ⊆ L) (hs : Bool) (ls : Bool) (ihs : Bool) (ils : Bool) :
    Kept L s₀ (State.stoPaths s hs ls ihs ils) := by
  unfold State.stoPaths
  extract_lets y0
  have gy0 : Kept L s₀ y0 := by
    unfold y0
    repeat' first
      | with_reducible assumption | exact List.Subset.trans (by decide) hL | with_reducible apply Kept.wrB
  try clear_value y0
  repeat' first
    | with_reducible assumption | exact List.Subset.trans (by decide) hL | with_reducible apply Kept.wrB

theorem Kept.endTest (h : Kept L s₀ s) (hL : [.regs, .pushes, .sto] ⊆ L) :
    Kept L s₀ (State.endTest s) := by
  unfold State.endTest
  extract_lets y0 y1
  try clear_value y1
  have gy0 : Kept L s₀ y0 := by
    unfold y0
    repeat' first
      | with_reducible assumption | exact List.Subset.trans (by decide) hL
      | ((with_reducible refine Touches.intro fun p hp => ?_); cases p <;> first | exact absurd (by decide) hp | (dsimp only [Part.Same]))
      | with_reducible apply Kept.wr | with_reducible apply Kept.wrB
      | refine Kept.mk_of [.sto] ?_ (List.Subset.trans (by decide) hL) ?_
  try clear_value y0
  repeat' first
    | with_reducible assumption | exact List.Subset.trans (by decide) hL
    | ((with_reducible refine Touches.intro fun p hp => ?_); cases p <;> first | exact absurd (by decide) hp | (dsimp only [Part.Same]))
    | with_reducible apply Kept.wr | with_reducible apply Kept.wrB
    | refine Kept.mk_of [.sto] ?_ (List.Subset.trans (by decide) hL) ?_

theorem Kept.openSto (h : Kept L s₀ s) (hL : [.regs, .pushes, .coll, .guards, .chans, .stages, .sto] ⊆ L) (cause : ℕ) :
    Kept L s₀ (State.openSto s cause) := by
  unfold State.openSto
  extract_lets y0 y1 y2 y3 y4 y5 y6 y7 y8
  try clear_value y0 y1 y5
  have gy2 : Kept L s₀ y2 := by
    unfold y2
    repeat' first
      | with_reducible assumption | exact List.Subset.trans (by decide) hL
      | ((with_reducible refine Touches.intro fun p hp => ?_); cases p <;> first | exact absurd (by decide) hp | (dsimp only [Part.Same]))
      | with_reducible apply Kept.each | with_reducible apply Kept.endTest | with_reducible apply Kept.reportDike
      | with_reducible apply Kept.showLegs | with_reducible apply Kept.stoPaths | with_reducible apply Kept.stoReaction
      | with_reducible apply Kept.wr | with_reducible apply Kept.wrB | with_reducible apply Kept.wrStamp
      | with_reducible apply Kept.ite | split | intro _ | refine Kept.mk_of [.sto] ?_ (List.Subset.trans (by decide) hL) ?_
  try clear_value y2
  have gy3 : Kept L s₀ y3 := by
    unfold y3
    repeat' first
      | with_reducible assumption | exact List.Subset.trans (by decide) hL
      | ((with_reducible refine Touches.intro fun p hp => ?_); cases p <;> first | exact absurd (by decide) hp | (dsimp only [Part.Same]))
      | with_reducible apply Kept.each | with_reducible apply Kept.endTest | with_reducible apply Kept.reportDike
      | with_reducible apply Kept.showLegs | with_reducible apply Kept.stoPaths | with_reducible apply Kept.stoReaction
      | with_reducible apply Kept.wr | with_reducible apply Kept.wrB | with_reducible apply Kept.wrStamp
      | with_reducible apply Kept.ite | split | intro _ | refine Kept.mk_of [.sto] ?_ (List.Subset.trans (by decide) hL) ?_
  try clear_value y3
  have gy4 : Kept L s₀ y4 := by
    unfold y4
    repeat' first
      | with_reducible assumption | exact List.Subset.trans (by decide) hL
      | ((with_reducible refine Touches.intro fun p hp => ?_); cases p <;> first | exact absurd (by decide) hp | (dsimp only [Part.Same]))
      | with_reducible apply Kept.each | with_reducible apply Kept.endTest | with_reducible apply Kept.reportDike
      | with_reducible apply Kept.showLegs | with_reducible apply Kept.stoPaths | with_reducible apply Kept.stoReaction
      | with_reducible apply Kept.wr | with_reducible apply Kept.wrB | with_reducible apply Kept.wrStamp
      | with_reducible apply Kept.ite | split | intro _ | refine Kept.mk_of [.sto] ?_ (List.Subset.trans (by decide) hL) ?_
  try clear_value y4
  have gy6 : Kept L s₀ y6 := by
    unfold y6
    repeat' first
      | with_reducible assumption | exact List.Subset.trans (by decide) hL
      | ((with_reducible refine Touches.intro fun p hp => ?_); cases p <;> first | exact absurd (by decide) hp | (dsimp only [Part.Same]))
      | with_reducible apply Kept.each | with_reducible apply Kept.endTest | with_reducible apply Kept.reportDike
      | with_reducible apply Kept.showLegs | with_reducible apply Kept.stoPaths | with_reducible apply Kept.stoReaction
      | with_reducible apply Kept.wr | with_reducible apply Kept.wrB | with_reducible apply Kept.wrStamp
      | with_reducible apply Kept.ite | split | intro _ | refine Kept.mk_of [.sto] ?_ (List.Subset.trans (by decide) hL) ?_
  try clear_value y6
  have gy7 : Kept L s₀ y7 := by
    unfold y7
    repeat' first
      | with_reducible assumption | exact List.Subset.trans (by decide) hL
      | ((with_reducible refine Touches.intro fun p hp => ?_); cases p <;> first | exact absurd (by decide) hp | (dsimp only [Part.Same]))
      | with_reducible apply Kept.each | with_reducible apply Kept.endTest | with_reducible apply Kept.reportDike
      | with_reducible apply Kept.showLegs | with_reducible apply Kept.stoPaths | with_reducible apply Kept.stoReaction
      | with_reducible apply Kept.wr | with_reducible apply Kept.wrB | with_reducible apply Kept.wrStamp
      | with_reducible apply Kept.ite | split | intro _ | refine Kept.mk_of [.sto] ?_ (List.Subset.trans (by decide) hL) ?_
  try clear_value y7
  have gy8 : Kept L s₀ y8 := by
    unfold y8
    repeat' first
      | with_reducible assumption | exact List.Subset.trans (by decide) hL
      | ((with_reducible refine Touches.intro fun p hp => ?_); cases p <;> first | exact absurd (by decide) hp | (dsimp only [Part.Same]))
      | with_reducible apply Kept.each | with_reducible apply Kept.endTest | with_reducible apply Kept.reportDike
      | with_reducible apply Kept.showLegs | with_reducible apply Kept.stoPaths | with_reducible apply Kept.stoReaction
      | with_reducible apply Kept.wr | with_reducible apply Kept.wrB | with_reducible apply Kept.wrStamp
      | with_reducible apply Kept.ite | split | intro _ | refine Kept.mk_of [.sto] ?_ (List.Subset.trans (by decide) hL) ?_
  try clear_value y8
  repeat' first
    | with_reducible assumption | exact List.Subset.trans (by decide) hL
    | ((with_reducible refine Touches.intro fun p hp => ?_); cases p <;> first | exact absurd (by decide) hp | (dsimp only [Part.Same]))
    | with_reducible apply Kept.each | with_reducible apply Kept.endTest | with_reducible apply Kept.reportDike
    | with_reducible apply Kept.showLegs | with_reducible apply Kept.stoPaths | with_reducible apply Kept.stoReaction
    | with_reducible apply Kept.wr | with_reducible apply Kept.wrB | with_reducible apply Kept.wrStamp
    | with_reducible apply Kept.ite | split | intro _ | refine Kept.mk_of [.sto] ?_ (List.Subset.trans (by decide) hL) ?_

theorem Kept.closeSto (h : Kept L s₀ s) (hL : [.regs, .pushes, .coll, .sto] ⊆ L) :
    Kept L s₀ (State.closeSto s) := by
  unfold State.closeSto
  extract_lets y0 y1
  try clear_value y1
  have gy0 : Kept L s₀ y0 := by
    unfold y0
    repeat' first
      | with_reducible assumption | exact List.Subset.trans (by decide) hL
      | ((with_reducible refine Touches.intro fun p hp => ?_); cases p <;> first | exact absurd (by decide) hp | (dsimp only [Part.Same]))
      | with_reducible apply Kept.reportDike | with_reducible apply Kept.stoPaths | with_reducible apply Kept.ite | split
      | intro _ | refine Kept.mk_of [.sto] ?_ (List.Subset.trans (by decide) hL) ?_
  try clear_value y0
  repeat' first
    | with_reducible assumption | exact List.Subset.trans (by decide) hL
    | ((with_reducible refine Touches.intro fun p hp => ?_); cases p <;> first | exact absurd (by decide) hp | (dsimp only [Part.Same]))
    | with_reducible apply Kept.reportDike | with_reducible apply Kept.stoPaths | with_reducible apply Kept.ite | split
    | intro _ | refine Kept.mk_of [.sto] ?_ (List.Subset.trans (by decide) hL) ?_

theorem Kept.closeHs (h : Kept L s₀ s) (hL : [.regs, .pushes, .sto] ⊆ L) :
    Kept L s₀ (State.closeHs s) := by
  unfold State.closeHs
  extract_lets y0 y1 y2
  try clear_value y1
  have gy0 : Kept L s₀ y0 := by
    unfold y0
    repeat' first
      | with_reducible assumption | exact List.Subset.trans (by decide) hL
      | ((with_reducible refine Touches.intro fun p hp => ?_); cases p <;> first | exact absurd (by decide) hp | (dsimp only [Part.Same]))
      | with_reducible apply Kept.each | with_reducible apply Kept.showLegs | with_reducible apply Kept.stoPaths
      | with_reducible apply Kept.wrB | with_reducible apply Kept.ite | split | intro _
      | refine Kept.mk_of [.sto] ?_ (List.Subset.trans (by decide) hL) ?_
  try clear_value y0
  have gy2 : Kept L s₀ y2 := by
    unfold y2
    repeat' first
      | with_reducible assumption | exact List.Subset.trans (by decide) hL
      | ((with_reducible refine Touches.intro fun p hp => ?_); cases p <;> first | exact absurd (by decide) hp | (dsimp only [Part.Same]))
      | with_reducible apply Kept.each | with_reducible apply Kept.showLegs | with_reducible apply Kept.stoPaths
      | with_reducible apply Kept.wrB | with_reducible apply Kept.ite | split | intro _
      | refine Kept.mk_of [.sto] ?_ (List.Subset.trans (by decide) hL) ?_
  try clear_value y2
  repeat' first
    | with_reducible assumption | exact List.Subset.trans (by decide) hL
    | ((with_reducible refine Touches.intro fun p hp => ?_); cases p <;> first | exact absurd (by decide) hp | (dsimp only [Part.Same]))
    | with_reducible apply Kept.each | with_reducible apply Kept.showLegs | with_reducible apply Kept.stoPaths
    | with_reducible apply Kept.wrB | with_reducible apply Kept.ite | split | intro _
    | refine Kept.mk_of [.sto] ?_ (List.Subset.trans (by decide) hL) ?_

theorem Kept.readback (h : Kept L s₀ s) (hL : [.regs, .pushes, .coll, .guards, .chans, .stages, .sto] ⊆ L) (band : ℕ) :
    Kept L s₀ (State.readback s band) := by
  unfold State.readback
  extract_lets y0 y1 y2 y3
  try clear_value y1 y2
  have gy0 : Kept L s₀ y0 := by
    unfold y0
    repeat' first
      | with_reducible assumption | exact List.Subset.trans (by decide) hL
      | ((with_reducible refine Touches.intro fun p hp => ?_); cases p <;> first | exact absurd (by decide) hp | (dsimp only [Part.Same]))
      | with_reducible apply Kept.openSto | with_reducible apply Kept.reportDike | with_reducible apply Kept.wr
      | with_reducible apply Kept.ite | split | intro _ | refine Kept.mk_of [.sto] ?_ (List.Subset.trans (by decide) hL) ?_
  try clear_value y0
  have gy3 : Kept L s₀ y3 := by
    unfold y3
    repeat' first
      | with_reducible assumption | exact List.Subset.trans (by decide) hL
      | ((with_reducible refine Touches.intro fun p hp => ?_); cases p <;> first | exact absurd (by decide) hp | (dsimp only [Part.Same]))
      | with_reducible apply Kept.openSto | with_reducible apply Kept.reportDike | with_reducible apply Kept.wr
      | with_reducible apply Kept.ite | split | intro _ | refine Kept.mk_of [.sto] ?_ (List.Subset.trans (by decide) hL) ?_
  try clear_value y3
  repeat' first
    | with_reducible assumption | exact List.Subset.trans (by decide) hL
    | ((with_reducible refine Touches.intro fun p hp => ?_); cases p <;> first | exact absurd (by decide) hp | (dsimp only [Part.Same]))
    | with_reducible apply Kept.openSto | with_reducible apply Kept.reportDike | with_reducible apply Kept.wr
    | with_reducible apply Kept.ite | split | intro _ | refine Kept.mk_of [.sto] ?_ (List.Subset.trans (by decide) hL) ?_

theorem Kept.testPulse (h : Kept L s₀ s) (hL : [.regs, .pushes, .sto] ⊆ L) (path : ℕ) :
    Kept L s₀ (State.testPulse s path) := by
  unfold State.testPulse
  extract_lets y0 y1 y2
  try clear_value y2
  have gy0 : Kept L s₀ y0 := by
    unfold y0
    repeat' first
      | with_reducible assumption | exact List.Subset.trans (by decide) hL
      | ((with_reducible refine Touches.intro fun p hp => ?_); cases p <;> first | exact absurd (by decide) hp | (dsimp only [Part.Same]))
      | with_reducible apply Kept.wr | with_reducible apply Kept.wrB | with_reducible apply Kept.ite | split | intro _
      | refine Kept.mk_of [.sto] ?_ (List.Subset.trans (by decide) hL) ?_
  try clear_value y0
  have gy1 : Kept L s₀ y1 := by
    unfold y1
    repeat' first
      | with_reducible assumption | exact List.Subset.trans (by decide) hL
      | ((with_reducible refine Touches.intro fun p hp => ?_); cases p <;> first | exact absurd (by decide) hp | (dsimp only [Part.Same]))
      | with_reducible apply Kept.wr | with_reducible apply Kept.wrB | with_reducible apply Kept.ite | split | intro _
      | refine Kept.mk_of [.sto] ?_ (List.Subset.trans (by decide) hL) ?_
  try clear_value y1
  repeat' first
    | with_reducible assumption | exact List.Subset.trans (by decide) hL
    | ((with_reducible refine Touches.intro fun p hp => ?_); cases p <;> first | exact absurd (by decide) hp | (dsimp only [Part.Same]))
    | with_reducible apply Kept.wr | with_reducible apply Kept.wrB | with_reducible apply Kept.ite | split | intro _
    | refine Kept.mk_of [.sto] ?_ (List.Subset.trans (by decide) hL) ?_

theorem Kept.testPulseEnd (h : Kept L s₀ s) (hL : [.regs, .pushes, .coll, .guards, .chans, .stages, .sto] ⊆ L) (opened : Bool) (reclosed : Bool) :
    Kept L s₀ (State.testPulseEnd s opened reclosed) := by
  unfold State.testPulseEnd
  repeat' first
    | with_reducible assumption | exact List.Subset.trans (by decide) hL
    | ((with_reducible refine Touches.intro fun p hp => ?_); cases p <;> first | exact absurd (by decide) hp | (dsimp only [Part.Same]))
    | with_reducible apply Kept.count | with_reducible apply Kept.endTest | with_reducible apply Kept.openSto
    | with_reducible apply Kept.reportDike | with_reducible apply Kept.wrB | with_reducible apply Kept.ite | split | intro _
    | refine Kept.mk_of [.sto] ?_ (List.Subset.trans (by decide) hL) ?_

theorem Kept.safeStopEnd (h : Kept L s₀ s) (hL : [.regs, .pushes, .coll, .guards, .chans, .stages, .sto] ⊆ L) (st : ℕ) (result : ℕ) :
    Kept L s₀ (State.safeStopEnd s st result) := by
  unfold State.safeStopEnd
  extract_lets y0 y1
  have gy0 : Kept L s₀ y0 := by
    unfold y0
    repeat' first
      | with_reducible assumption | exact List.Subset.trans (by decide) hL | with_reducible apply Kept.openSto
      | with_reducible apply Kept.reportTp | with_reducible apply Kept.tracHold | with_reducible apply Kept.wr
      | with_reducible apply Kept.ite | split | intro _
  try clear_value y0
  have gy1 : Kept L s₀ y1 := by
    unfold y1
    repeat' first
      | with_reducible assumption | exact List.Subset.trans (by decide) hL | with_reducible apply Kept.openSto
      | with_reducible apply Kept.reportTp | with_reducible apply Kept.tracHold | with_reducible apply Kept.wr
      | with_reducible apply Kept.ite | split | intro _
  try clear_value y1
  repeat' first
    | with_reducible assumption | exact List.Subset.trans (by decide) hL | with_reducible apply Kept.openSto
    | with_reducible apply Kept.reportTp | with_reducible apply Kept.tracHold | with_reducible apply Kept.wr
    | with_reducible apply Kept.ite | split | intro _

theorem Kept.safeStopSample (h : Kept L s₀ s) (hL : [.regs, .pushes, .coll, .guards, .chans, .stages, .sto] ⊆ L) (st : ℕ) :
    Kept L s₀ (State.safeStopSample s st) := by
  unfold State.safeStopSample
  extract_lets y0 y1 y2
  try clear_value y0 y1
  have gy2 : Kept L s₀ y2 := by
    unfold y2
    repeat' first
      | with_reducible assumption | exact List.Subset.trans (by decide) hL | with_reducible apply Kept.safeStopEnd
      | with_reducible apply Kept.setWord | with_reducible apply Kept.ite | split | intro _
  try clear_value y2
  repeat' first
    | with_reducible assumption | exact List.Subset.trans (by decide) hL | with_reducible apply Kept.safeStopEnd
    | with_reducible apply Kept.setWord | with_reducible apply Kept.ite | split | intro _

end Sys2Proof.Machine
end

