-- ==== Sys2Proof/Laws/KeptStages.lean ====
section
/-! SUPPORT. What the operations of Stages keep. -/

set_option linter.unusedTactic false
set_option linter.unreachableTactic false
set_option linter.unusedVariables false

namespace Sys2Proof.Machine

variable {L : List Part} {s₀ s : State}

theorem Kept.tracSample (h : Kept L s₀ s) (hL : [.regs, .pushes, .coll, .guards, .chans, .stages, .sto] ⊆ L) (st : ℕ) (set : ℕ) (zc : Option Word) :
    Kept L s₀ (State.tracSample s st set zc) := by
  unfold State.tracSample
  extract_lets y0 y1 y2 y3
  try clear_value y1 y2
  have gy0 : Kept L s₀ y0 := by
    unfold y0
    repeat' first
      | with_reducible assumption | exact List.Subset.trans (by decide) hL | with_reducible apply Kept.overspeedTrip
      | with_reducible apply Kept.safeStopSample | with_reducible apply Kept.setDecision
      | with_reducible apply Kept.speedDriven | with_reducible apply Kept.tracForm | with_reducible apply Kept.ite | split
      | intro _
  try clear_value y0
  have gy3 : Kept L s₀ y3 := by
    unfold y3
    repeat' first
      | with_reducible assumption | exact List.Subset.trans (by decide) hL | with_reducible apply Kept.overspeedTrip
      | with_reducible apply Kept.safeStopSample | with_reducible apply Kept.setDecision
      | with_reducible apply Kept.speedDriven | with_reducible apply Kept.tracForm | with_reducible apply Kept.ite | split
      | intro _
  try clear_value y3
  repeat' first
    | with_reducible assumption | exact List.Subset.trans (by decide) hL | with_reducible apply Kept.overspeedTrip
    | with_reducible apply Kept.safeStopSample | with_reducible apply Kept.setDecision
    | with_reducible apply Kept.speedDriven | with_reducible apply Kept.tracForm | with_reducible apply Kept.ite | split
    | intro _

theorem Kept.stageSample (h : Kept L s₀ s) (hL : [.regs, .pushes, .coll, .guards, .chans, .stages, .sto] ⊆ L) (st : ℕ) (set : ℕ) (zc : Option Word) :
    Kept L s₀ (State.stageSample s st set zc) := by
  unfold State.stageSample
  extract_lets y0
  have gy0 : Kept L s₀ y0 := by
    unfold y0
    repeat' first
      | with_reducible assumption | exact List.Subset.trans (by decide) hL | with_reducible apply Kept.actSample
      | with_reducible apply Kept.convSample | with_reducible apply Kept.sampleTaken | with_reducible apply Kept.tracSample
      | with_reducible apply Kept.ite | split | intro _
  try clear_value y0
  repeat' first
    | with_reducible assumption | exact List.Subset.trans (by decide) hL | with_reducible apply Kept.actSample
    | with_reducible apply Kept.convSample | with_reducible apply Kept.sampleTaken | with_reducible apply Kept.tracSample
    | with_reducible apply Kept.ite | split | intro _

theorem Kept.periodActions (h : Kept L s₀ s) (hL : [.regs, .pushes, .coll, .chans, .stages] ⊆ L) (st : ℕ) (start : ℕ) :
    Kept L s₀ (State.periodActions s st start) := by
  unfold State.periodActions
  repeat' first
    | with_reducible assumption | exact List.Subset.trans (by decide) hL | with_reducible apply Kept.balance
    | with_reducible apply Kept.bridgePeriod | with_reducible apply Kept.buckPeriod | with_reducible apply Kept.ite | split
    | intro _

theorem Kept.periodStartA (h : Kept L s₀ s) (hL : [.regs, .pushes, .coll, .chans, .stages] ⊆ L) (st : ℕ) :
    Kept L s₀ (State.periodStartA s st) := by
  unfold State.periodStartA
  extract_lets y0 y1
  try clear_value y0
  have gy1 : Kept L s₀ y1 := by
    unfold y1
    repeat' first
      | with_reducible assumption | exact List.Subset.trans (by decide) hL | with_reducible apply Kept.periodActions
      | with_reducible apply Kept.startPeriod | with_reducible apply Kept.ite | split | intro _
  try clear_value y1
  repeat' first
    | with_reducible assumption | exact List.Subset.trans (by decide) hL | with_reducible apply Kept.periodActions
    | with_reducible apply Kept.startPeriod | with_reducible apply Kept.ite | split | intro _

theorem Kept.periodStartB (h : Kept L s₀ s) (hL : [.regs, .pushes, .chans, .stages] ⊆ L) (st : ℕ) :
    Kept L s₀ (State.periodStartB s st) := by
  unfold State.periodStartB
  extract_lets y0 y1
  try clear_value y0 y1
  repeat' first
    | with_reducible assumption | exact List.Subset.trans (by decide) hL | with_reducible apply Kept.startPeriod
    | with_reducible apply Kept.ite | split | intro _

theorem Kept.protectionReaction (h : Kept L s₀ s) (hL : [.regs, .pushes, .coll, .guards, .chans, .stages] ⊆ L) (p : ℕ) :
    Kept L s₀ (State.protectionReaction s p) := by
  unfold State.protectionReaction
  extract_lets y0
  try clear_value y0
  repeat' first
    | with_reducible assumption | exact List.Subset.trans (by decide) hL | with_reducible apply Kept.actTrip
    | with_reducible apply Kept.convTrip | with_reducible apply Kept.isolate | with_reducible apply Kept.ite | split
    | intro _

theorem Kept.doubleLeg (h : Kept L s₀ s) (hL : [.regs, .pushes, .coll, .guards, .chans, .stages] ⊆ L) (p : ℕ) (first : ℕ) (inj : Bool) :
    Kept L s₀ (State.doubleLeg s p first inj) := by
  unfold State.doubleLeg
  extract_lets y0
  have gy0 : Kept L s₀ y0 := by
    unfold y0
    repeat' first
      | with_reducible assumption | exact List.Subset.trans (by decide) hL | with_reducible apply Kept.each
      | with_reducible apply Kept.latchLeg | with_reducible apply Kept.protectionReaction
      | with_reducible apply Kept.reportTp | with_reducible apply Kept.setChan | with_reducible apply Kept.wr
      | with_reducible apply Kept.ite | split | intro _
  try clear_value y0
  repeat' first
    | with_reducible assumption | exact List.Subset.trans (by decide) hL | with_reducible apply Kept.each
    | with_reducible apply Kept.latchLeg | with_reducible apply Kept.protectionReaction | with_reducible apply Kept.reportTp
    | with_reducible apply Kept.setChan | with_reducible apply Kept.wr | with_reducible apply Kept.ite | split | intro _

theorem Kept.shortTrip (h : Kept L s₀ s) (hL : [.regs, .pushes, .coll, .guards, .chans, .stages] ⊆ L) (p : ℕ) (prot : ℕ) (softStill : Bool) (inj : Bool) :
    Kept L s₀ (State.shortTrip s p prot softStill inj) := by
  unfold State.shortTrip
  repeat' first
    | with_reducible assumption | exact List.Subset.trans (by decide) hL | with_reducible apply Kept.doubleLeg
    | with_reducible apply Kept.latchLeg | with_reducible apply Kept.protectionReaction | with_reducible apply Kept.reportTp
    | split

theorem Kept.vdsTrip (h : Kept L s₀ s) (hL : [.regs, .pushes, .coll, .guards, .chans, .stages] ⊆ L) (p : ℕ) (high : Bool) (softStill : Bool) :
    Kept L s₀ (State.vdsTrip s p high softStill) := by
  unfold State.vdsTrip
  repeat' first
    | with_reducible assumption | exact List.Subset.trans (by decide) hL | with_reducible apply Kept.shortTrip
    | with_reducible apply Kept.ite | split | intro _

theorem Kept.driverTrip (h : Kept L s₀ s) (hL : [.regs, .pushes, .coll, .guards, .chans, .stages] ⊆ L) (p : ℕ) (inj : Bool) :
    Kept L s₀ (State.driverTrip s p inj) := by
  unfold State.driverTrip
  repeat' first
    | with_reducible assumption | exact List.Subset.trans (by decide) hL | with_reducible apply Kept.latchLeg
    | with_reducible apply Kept.protectionReaction | with_reducible apply Kept.reportTp

theorem Kept.driverFault (h : Kept L s₀ s) (hL : [.regs, .pushes, .coll, .guards, .chans, .stages] ⊆ L) (p : ℕ) :
    Kept L s₀ (State.driverFault s p) := by
  unfold State.driverFault
  repeat' first
    | with_reducible assumption | exact List.Subset.trans (by decide) hL | with_reducible apply Kept.driverTrip
    | with_reducible apply Kept.ite | split | intro _

theorem Kept.fastPath (h : Kept L s₀ s) (hL : [.regs, .pushes, .coll, .guards, .chans, .stages, .sto] ⊆ L) (ch : ℕ) (hard : Bool) (inj : Bool) :
    Kept L s₀ (State.fastPath s ch hard inj) := by
  unfold State.fastPath
  extract_lets y0 y1 y2 y3 y4
  try clear_value y2
  have gy0 : Kept L s₀ y0 := by
    unfold y0
    repeat' first
      | with_reducible assumption | exact List.Subset.trans (by decide) hL | with_reducible apply Kept.each
      | with_reducible apply Kept.latchLeg | with_reducible apply Kept.openSto | with_reducible apply Kept.orBits
      | with_reducible apply Kept.protectionReaction | with_reducible apply Kept.reportDike
      | with_reducible apply Kept.wrStamp | with_reducible apply Kept.ite | split | intro _
  try clear_value y0
  have gy1 : Kept L s₀ y1 := by
    unfold y1
    repeat' first
      | with_reducible assumption | exact List.Subset.trans (by decide) hL | with_reducible apply Kept.each
      | with_reducible apply Kept.latchLeg | with_reducible apply Kept.openSto | with_reducible apply Kept.orBits
      | with_reducible apply Kept.protectionReaction | with_reducible apply Kept.reportDike
      | with_reducible apply Kept.wrStamp | with_reducible apply Kept.ite | split | intro _
  try clear_value y1
  have gy3 : Kept L s₀ y3 := by
    unfold y3
    repeat' first
      | with_reducible assumption | exact List.Subset.trans (by decide) hL | with_reducible apply Kept.each
      | with_reducible apply Kept.latchLeg | with_reducible apply Kept.openSto | with_reducible apply Kept.orBits
      | with_reducible apply Kept.protectionReaction | with_reducible apply Kept.reportDike
      | with_reducible apply Kept.wrStamp | with_reducible apply Kept.ite | split | intro _
  try clear_value y3
  have gy4 : Kept L s₀ y4 := by
    unfold y4
    repeat' first
      | with_reducible assumption | exact List.Subset.trans (by decide) hL | with_reducible apply Kept.each
      | with_reducible apply Kept.latchLeg | with_reducible apply Kept.openSto | with_reducible apply Kept.orBits
      | with_reducible apply Kept.protectionReaction | with_reducible apply Kept.reportDike
      | with_reducible apply Kept.wrStamp | with_reducible apply Kept.ite | split | intro _
  try clear_value y4
  repeat' first
    | with_reducible assumption | exact List.Subset.trans (by decide) hL | with_reducible apply Kept.each
    | with_reducible apply Kept.latchLeg | with_reducible apply Kept.openSto | with_reducible apply Kept.orBits
    | with_reducible apply Kept.protectionReaction | with_reducible apply Kept.reportDike | with_reducible apply Kept.wrStamp
    | with_reducible apply Kept.ite | split | intro _

theorem Kept.fastDetection (h : Kept L s₀ s) (hL : [.regs, .pushes, .coll, .guards, .chans, .stages, .sto] ⊆ L) (ch : ℕ) (hard : Bool) :
    Kept L s₀ (State.fastDetection s ch hard) := by
  unfold State.fastDetection
  repeat' first
    | with_reducible assumption | exact List.Subset.trans (by decide) hL | with_reducible apply Kept.fastPath
    | with_reducible apply Kept.ite | split | intro _

theorem Kept.guardReaction (h : Kept L s₀ s) (hL : [.regs, .pushes, .coll, .guards, .chans, .stages] ⊆ L) (p : ℕ) :
    Kept L s₀ (State.guardReaction s p) := by
  unfold State.guardReaction
  extract_lets y0
  try clear_value y0
  repeat' first
    | with_reducible assumption | exact List.Subset.trans (by decide) hL | with_reducible apply Kept.actTrip
    | with_reducible apply Kept.convTrip | with_reducible apply Kept.isolate | with_reducible apply Kept.ite | split
    | intro _

theorem Kept.substitute (h : Kept L s₀ s) (hL : [.regs, .pushes, .coll, .guards, .chans] ⊆ L) (p : ℕ) (o : ℕ) :
    Kept L s₀ (State.substitute s p o) := by
  unfold State.substitute
  extract_lets y0 y1 y2 y3 y4 y5
  try clear_value y0 y1 y2
  have gy3 : Kept L s₀ y3 := by
    unfold y3
    repeat' first
      | with_reducible assumption | exact List.Subset.trans (by decide) hL | with_reducible apply Kept.latchCompare
      | with_reducible apply Kept.latchPhase | with_reducible apply Kept.reportTp | with_reducible apply Kept.setGuard
      | with_reducible apply Kept.wr | with_reducible apply Kept.ite | split | intro _
  try clear_value y3
  have gy4 : Kept L s₀ y4 := by
    unfold y4
    repeat' first
      | with_reducible assumption | exact List.Subset.trans (by decide) hL | with_reducible apply Kept.latchCompare
      | with_reducible apply Kept.latchPhase | with_reducible apply Kept.reportTp | with_reducible apply Kept.setGuard
      | with_reducible apply Kept.wr | with_reducible apply Kept.ite | split | intro _
  try clear_value y4
  have gy5 : Kept L s₀ y5 := by
    unfold y5
    repeat' first
      | with_reducible assumption | exact List.Subset.trans (by decide) hL | with_reducible apply Kept.latchCompare
      | with_reducible apply Kept.latchPhase | with_reducible apply Kept.reportTp | with_reducible apply Kept.setGuard
      | with_reducible apply Kept.wr | with_reducible apply Kept.ite | split | intro _
  try clear_value y5
  repeat' first
    | with_reducible assumption | exact List.Subset.trans (by decide) hL | with_reducible apply Kept.latchCompare
    | with_reducible apply Kept.latchPhase | with_reducible apply Kept.reportTp | with_reducible apply Kept.setGuard
    | with_reducible apply Kept.wr | with_reducible apply Kept.ite | split | intro _

theorem Kept.guardTakeover (h : Kept L s₀ s) (hL : [.regs, .pushes, .coll, .guards, .chans, .stages] ⊆ L) (p : ℕ) (o : ℕ) :
    Kept L s₀ (State.guardTakeover s p o) := by
  unfold State.guardTakeover
  extract_lets y0 y1
  try clear_value y0
  have gy1 : Kept L s₀ y1 := by
    unfold y1
    repeat' first
      | with_reducible assumption | exact List.Subset.trans (by decide) hL | with_reducible apply Kept.guardReaction
      | with_reducible apply Kept.reportTp | with_reducible apply Kept.setGuard | with_reducible apply Kept.wrB
  try clear_value y1
  repeat' first
    | with_reducible assumption | exact List.Subset.trans (by decide) hL | with_reducible apply Kept.guardReaction
    | with_reducible apply Kept.reportTp | with_reducible apply Kept.setGuard | with_reducible apply Kept.wrB

theorem Kept.guardExpiry (h : Kept L s₀ s) (hL : [.regs, .pushes, .coll, .guards, .chans, .stages] ⊆ L) (p : ℕ) (o : ℕ) :
    Kept L s₀ (State.guardExpiry s p o) := by
  unfold State.guardExpiry
  extract_lets y0
  try clear_value y0
  repeat' first
    | with_reducible assumption | exact List.Subset.trans (by decide) hL | with_reducible apply Kept.guardTakeover
    | with_reducible apply Kept.substitute | with_reducible apply Kept.ite | split | intro _

theorem Kept.modeRequest (h : Kept L s₀ s) (hL : [.regs, .pushes, .chk, .fresh, .coll, .guards, .chans, .stages] ⊆ L) (st : ℕ) :
    Kept L s₀ (State.modeRequest s st) := by
  unfold State.modeRequest
  extract_lets y0 y1 y2
  try clear_value y0 y1 y2
  repeat' first
    | with_reducible assumption | exact List.Subset.trans (by decide) hL | with_reducible apply Kept.actRequest
    | with_reducible apply Kept.convRequest | with_reducible apply Kept.tracRequest | with_reducible apply Kept.ite | split
    | intro _

theorem Kept.applyCommand (h : Kept L s₀ s) (hL : [.regs, .pushes, .coll, .chans, .stages] ⊆ L) (st : ℕ) (k : ℕ) (w : Word) :
    Kept L s₀ (State.applyCommand s st k w) := by
  unfold State.applyCommand
  extract_lets y0 y1
  have gy0 : Kept L s₀ y0 := by
    unfold y0
    repeat' first
      | with_reducible assumption | exact List.Subset.trans (by decide) hL | with_reducible apply Kept.actCommand
      | with_reducible apply Kept.convCommand | with_reducible apply Kept.setWord | with_reducible apply Kept.tracCommand
      | with_reducible apply Kept.wrStamp | with_reducible apply Kept.ite | split | intro _
  try clear_value y0
  have gy1 : Kept L s₀ y1 := by
    unfold y1
    repeat' first
      | with_reducible assumption | exact List.Subset.trans (by decide) hL | with_reducible apply Kept.actCommand
      | with_reducible apply Kept.convCommand | with_reducible apply Kept.setWord | with_reducible apply Kept.tracCommand
      | with_reducible apply Kept.wrStamp | with_reducible apply Kept.ite | split | intro _
  try clear_value y1
  repeat' first
    | with_reducible assumption | exact List.Subset.trans (by decide) hL | with_reducible apply Kept.actCommand
    | with_reducible apply Kept.convCommand | with_reducible apply Kept.setWord | with_reducible apply Kept.tracCommand
    | with_reducible apply Kept.wrStamp | with_reducible apply Kept.ite | split | intro _

theorem Kept.forceOff (h : Kept L s₀ s) (hL : [.regs, .pushes, .guards, .chans, .stages] ⊆ L) (st : ℕ) :
    Kept L s₀ (State.forceOff s st) := by
  unfold State.forceOff
  repeat' first
    | with_reducible assumption | exact List.Subset.trans (by decide) hL | with_reducible apply Kept.convOff
    | with_reducible apply Kept.tracOff | with_reducible apply Kept.ite | split | intro _

end Sys2Proof.Machine
end

