-- ==== Sys2Proof/Laws/KeptLoopBase.lean ====
section
/-! SUPPORT. What the operations of LoopBase keep. -/

set_option linter.unusedTactic false
set_option linter.unreachableTactic false
set_option linter.unusedVariables false

namespace Sys2Proof.Machine

variable {L : List Part} {s₀ s : State}

theorem Kept.setEng (h : Kept L s₀ s) (hL : [.engines] ⊆ L) (e : ℕ) (x : Engine) :
    Kept L s₀ (State.setEng s e x) := by
  unfold State.setEng
  repeat' first
    | with_reducible assumption | exact List.Subset.trans (by decide) hL
    | ((with_reducible refine Touches.intro fun p hp => ?_); cases p <;> first | exact absurd (by decide) hp | (dsimp only [Part.Same]))
    | refine Kept.mk_of [.engines] ?_ (List.Subset.trans (by decide) hL) ?_

theorem Kept.setLoop (h : Kept L s₀ s) (hL : [.loops] ⊆ L) (l : ℕ) (x : LoopRec) :
    Kept L s₀ (State.setLoop s l x) := by
  unfold State.setLoop
  repeat' first
    | with_reducible assumption | exact List.Subset.trans (by decide) hL
    | ((with_reducible refine Touches.intro fun p hp => ?_); cases p <;> first | exact absurd (by decide) hp | (dsimp only [Part.Same]))
    | refine Kept.mk_of [.loops] ?_ (List.Subset.trans (by decide) hL) ?_

theorem Kept.initState (h : Kept L s₀ s) (hL : [.mem, .chk] ⊆ L) (a : ℕ) (k : ℕ) (size : ℕ) :
    Kept L s₀ (State.initState s a k size) := by
  unfold State.initState
  repeat' first
    | with_reducible assumption | exact List.Subset.trans (by decide) hL | with_reducible apply Kept.copyMem
    | with_reducible apply Kept.zeroMem

theorem Kept.dropCkpts (h : Kept L s₀ s) (hL : [.mem, .chk] ⊆ L) (l : ℕ) :
    Kept L s₀ (State.dropCkpts s l) := by
  unfold State.dropCkpts
  repeat' first
    | with_reducible assumption | exact List.Subset.trans (by decide) hL | with_reducible apply Kept.zeroMem

theorem Kept.putMwords (h : Kept L s₀ s) (hL : [.mem, .chk] ⊆ L) (a : Nat) (ws : List Word) : Kept L s₀ (s.putMwords a ws) := by
  induction ws generalizing s a with
  | nil => exact h
  | cons w ws ih => exact ih (h.putMword (List.Subset.trans (by decide) hL) a w) (a + 4)

theorem Kept.writeCkpt (h : Kept L s₀ s) (hL : [.mem, .chk, .loops] ⊆ L) (l : ℕ) (stamp : ℕ) :
    Kept L s₀ (State.writeCkpt s l stamp) := by
  unfold State.writeCkpt
  extract_lets y0 y1 y2 y3 y4 y5
  try clear_value y0 y1 y2 y5
  have gy3 : Kept L s₀ y3 := by
    unfold y3
    repeat' first
      | with_reducible assumption | exact List.Subset.trans (by decide) hL | with_reducible apply Kept.copyMem
      | with_reducible apply Kept.putMword | with_reducible apply Kept.setLoop | with_reducible apply Kept.ite | split
      | intro _
  try clear_value y3
  have gy4 : Kept L s₀ y4 := by
    unfold y4
    repeat' first
      | with_reducible assumption | exact List.Subset.trans (by decide) hL | with_reducible apply Kept.copyMem
      | with_reducible apply Kept.putMword | with_reducible apply Kept.setLoop | with_reducible apply Kept.ite | split
      | intro _
  try clear_value y4
  repeat' first
    | with_reducible assumption | exact List.Subset.trans (by decide) hL | with_reducible apply Kept.copyMem
    | with_reducible apply Kept.putMword | with_reducible apply Kept.setLoop | with_reducible apply Kept.ite | split
    | intro _

theorem Kept.overlayCkpt (h : Kept L s₀ s) (hL : [.mem, .chk] ⊆ L) (l : ℕ) (a : ℕ) :
    Kept L s₀ (State.overlayCkpt s l a) := by
  unfold State.overlayCkpt
  extract_lets y0
  try clear_value y0
  repeat' first
    | with_reducible assumption | exact List.Subset.trans (by decide) hL | with_reducible apply Kept.copyMem
    | with_reducible apply Kept.putMwords | with_reducible apply Kept.ite | with_reducible apply Kept.elim | split | intro _
    | extract_lets | dsimp only

theorem Kept.reportLoop (h : Kept L s₀ s) (hL : [.coll] ⊆ L) (cls : FaultClass) (code : ℕ) (page : ℕ) (l : ℕ) (low : ℕ) :
    Kept L s₀ (State.reportLoop s cls code page l low) := by
  unfold State.reportLoop
  repeat' first
    | with_reducible assumption | exact List.Subset.trans (by decide) hL | with_reducible apply Kept.reportFab

theorem Kept.skipTrigger (h : Kept L s₀ s) (hL : [.regs, .pushes, .coll, .loops] ⊆ L) (l : ℕ) :
    Kept L s₀ (State.skipTrigger s l) := by
  unfold State.skipTrigger
  extract_lets y0 y1
  try clear_value y0
  have gy1 : Kept L s₀ y1 := by
    unfold y1
    repeat' first
      | with_reducible assumption | exact List.Subset.trans (by decide) hL | with_reducible apply Kept.reportFab
      | with_reducible apply Kept.setLoop | with_reducible apply Kept.wrB | with_reducible apply Kept.ite | split | intro _
  try clear_value y1
  repeat' first
    | with_reducible assumption | exact List.Subset.trans (by decide) hL | with_reducible apply Kept.reportFab
    | with_reducible apply Kept.setLoop | with_reducible apply Kept.wrB | with_reducible apply Kept.ite | split | intro _

theorem Kept.countMove (h : Kept L s₀ s) (hL : [.regs, .pushes, .coll, .loops] ⊆ L) (l : ℕ) :
    Kept L s₀ (State.countMove s l) := by
  unfold State.countMove
  extract_lets y0 y1
  try clear_value y0
  have gy1 : Kept L s₀ y1 := by
    unfold y1
    repeat' first
      | with_reducible assumption | exact List.Subset.trans (by decide) hL | with_reducible apply Kept.reportFab
      | with_reducible apply Kept.setLoop | with_reducible apply Kept.wrB | with_reducible apply Kept.ite | split | intro _
  try clear_value y1
  repeat' first
    | with_reducible assumption | exact List.Subset.trans (by decide) hL | with_reducible apply Kept.reportFab
    | with_reducible apply Kept.setLoop | with_reducible apply Kept.wrB | with_reducible apply Kept.ite | split | intro _

end Sys2Proof.Machine
end

