-- ==== Sys2Proof/Laws/KeptPlacement.lean ====
section
/-! SUPPORT. What the operations of Placement keep. -/

set_option linter.unusedTactic false
set_option linter.unreachableTactic false
set_option linter.unusedVariables false

namespace Sys2Proof.Machine

variable {L : List Part} {s₀ s : State}

theorem Kept.loadGuards (h : Kept L s₀ s) (hL : [.guards] ⊆ L) (l : ℕ) (fresh : Bool) :
    Kept L s₀ (State.loadGuards s l fresh) := by
  unfold State.loadGuards
  extract_lets y0 y1
  try clear_value y0 y1
  repeat' first
    | with_reducible assumption | exact List.Subset.trans (by decide) hL | with_reducible apply Kept.each
    | with_reducible apply Kept.setGuard | with_reducible apply Kept.ite | split | intro _

theorem Kept.reloadGuards (h : Kept L s₀ s) (hL : [.guards] ⊆ L) (st : Option ℕ) :
    Kept L s₀ (State.reloadGuards s st) := by
  unfold State.reloadGuards
  repeat' first
    | with_reducible assumption | exact List.Subset.trans (by decide) hL | with_reducible apply Kept.each
    | with_reducible apply Kept.loadGuards | with_reducible apply Kept.ite | split | intro _

end Sys2Proof.Machine
end

