-- ==== Sys2Proof/Laws/KeptMemory.lean ====
section
/-! SUPPORT. What the operations of Memory keep. -/

set_option linter.unusedTactic false
set_option linter.unreachableTactic false
set_option linter.unusedVariables false

namespace Sys2Proof.Machine

variable {L : List Part} {s₀ s : State}

theorem Kept.recordMram (h : Kept L s₀ s) (hL : [.regs, .pushes, .coll] ⊆ L) (a : ℕ) (f : Finder) (corrected : Bool) :
    Kept L s₀ (State.recordMram s a f corrected) := by
  unfold State.recordMram
  extract_lets y0 y1 y2
  have gy0 : Kept L s₀ y0 := by
    unfold y0
    repeat' first
      | with_reducible assumption | exact List.Subset.trans (by decide) hL | with_reducible apply Kept.count
      | with_reducible apply Kept.reportFab | with_reducible apply Kept.setWord | with_reducible apply Kept.wrStamp
      | with_reducible apply Kept.ite | split | intro _
  try clear_value y0
  have gy1 : Kept L s₀ y1 := by
    unfold y1
    repeat' first
      | with_reducible assumption | exact List.Subset.trans (by decide) hL | with_reducible apply Kept.count
      | with_reducible apply Kept.reportFab | with_reducible apply Kept.setWord | with_reducible apply Kept.wrStamp
      | with_reducible apply Kept.ite | split | intro _
  try clear_value y1
  have gy2 : Kept L s₀ y2 := by
    unfold y2
    repeat' first
      | with_reducible assumption | exact List.Subset.trans (by decide) hL | with_reducible apply Kept.count
      | with_reducible apply Kept.reportFab | with_reducible apply Kept.setWord | with_reducible apply Kept.wrStamp
      | with_reducible apply Kept.ite | split | intro _
  try clear_value y2
  repeat' first
    | with_reducible assumption | exact List.Subset.trans (by decide) hL | with_reducible apply Kept.count
    | with_reducible apply Kept.reportFab | with_reducible apply Kept.setWord | with_reducible apply Kept.wrStamp
    | with_reducible apply Kept.ite | split | intro _

theorem Kept.setMramErr (h : Kept L s₀ s) (hL : [.chk] ⊆ L) (a : ℕ) (v : ℕ) :
    Kept L s₀ (State.setMramErr s a v) := by
  unfold State.setMramErr
  extract_lets y0
  try clear_value y0
  repeat' first
    | with_reducible assumption | exact List.Subset.trans (by decide) hL
    | ((with_reducible refine Touches.intro fun p hp => ?_); cases p <;> first | exact absurd (by decide) hp | (dsimp only [Part.Same]))
    | refine Kept.mk_of [.chk] ?_ (List.Subset.trans (by decide) hL) ?_

theorem Kept.logOnce (h : Kept L s₀ s) (hL : [.chk] ⊆ L) (a : ℕ) (f : State → State) (hf : ∀ s, Kept L s₀ s → Kept L s₀ (f s )) :
    Kept L s₀ (State.logOnce s a f) := by
  unfold State.logOnce
  extract_lets y0 y1
  try clear_value y0 y1
  repeat' first
    | with_reducible assumption | exact List.Subset.trans (by decide) hL
    | ((with_reducible refine Touches.intro fun p hp => ?_); cases p <;> first | exact absurd (by decide) hp | (dsimp only [Part.Same]))
    | with_reducible apply hf | with_reducible apply Kept.ite | split | intro _
    | refine Kept.mk_of [.chk] ?_ (List.Subset.trans (by decide) hL) ?_

theorem Kept.linePasses (h : Kept L s₀ s) (hL : [.chk] ⊆ L) (a : ℕ) :
    Kept L s₀ (State.linePasses s a) := by
  unfold State.linePasses
  extract_lets y0
  try clear_value y0
  repeat' first
    | with_reducible assumption | exact List.Subset.trans (by decide) hL
    | ((with_reducible refine Touches.intro fun p hp => ?_); cases p <;> first | exact absurd (by decide) hp | (dsimp only [Part.Same]))
    | refine Kept.mk_of [.chk] ?_ (List.Subset.trans (by decide) hL) ?_

theorem Kept.mramRead (h : Kept L s₀ s) (hL : [.regs, .pushes, .chk, .coll] ⊆ L) (a : ℕ) (f : Finder) :
    Kept L s₀ (State.mramRead s a f).2 := by
  unfold State.mramRead
  extract_lets y0
  try clear_value y0
  repeat' first
    | with_reducible assumption | exact List.Subset.trans (by decide) hL | with_reducible apply Kept.linePasses
    | with_reducible apply Kept.logOnce | with_reducible apply Kept.recordMram | with_reducible apply Kept.reportFab
    | with_reducible apply Kept.setMramErr | with_reducible apply Kept.ite | split | intro _

theorem Kept.refetch (h : Kept L s₀ s) (hL : [.regs, .pushes, .mem, .chk, .coll] ⊆ L) (a : ℕ) (src : ℕ) (f : Finder) :
    Kept L s₀ (State.refetch s a src f).2 := by
  unfold State.refetch
  extract_lets y0
  have gy0 : Kept L s₀ y0.2 := by
    unfold y0
    repeat' first
      | with_reducible assumption | exact List.Subset.trans (by decide) hL | with_reducible apply Kept.copyMem
      | with_reducible apply Kept.mramRead | with_reducible apply Kept.unitRepaired | with_reducible apply Kept.ite | split
      | intro _
  try clear_value y0
  repeat' first
    | with_reducible assumption | exact List.Subset.trans (by decide) hL | with_reducible apply Kept.copyMem
    | with_reducible apply Kept.mramRead | with_reducible apply Kept.unitRepaired | with_reducible apply Kept.ite | split
    | intro _

theorem Kept.rebuildLine (h : Kept L s₀ s) (hL : [.mem, .chk] ⊆ L) (l : ℕ) (base : ℕ) (a : ℕ) :
    Kept L s₀ (State.rebuildLine s l base a) := by
  unfold State.rebuildLine
  extract_lets y0 y1 y2
  try clear_value y0 y1
  have gy2 : Kept L s₀ y2 := by
    unfold y2
    repeat' first
      | with_reducible assumption | exact List.Subset.trans (by decide) hL | with_reducible apply Kept.each
      | with_reducible apply Kept.overlayCkpt | with_reducible apply Kept.putMword | with_reducible apply Kept.unitRepaired
      | with_reducible apply Kept.ite | split | intro _
  try clear_value y2
  repeat' first
    | with_reducible assumption | exact List.Subset.trans (by decide) hL | with_reducible apply Kept.each
    | with_reducible apply Kept.overlayCkpt | with_reducible apply Kept.putMword | with_reducible apply Kept.unitRepaired
    | with_reducible apply Kept.ite | split | intro _

theorem Kept.unrepairable (h : Kept L s₀ s) (hL : [.regs, .pushes, .chk, .coll] ⊆ L) (a : ℕ) (f : Finder) (code : ℕ) (outcome : ℕ) :
    Kept L s₀ (State.unrepairable s a f code outcome).2 := by
  unfold State.unrepairable
  repeat' first
    | with_reducible assumption | exact List.Subset.trans (by decide) hL | with_reducible apply Kept.logOnce
    | with_reducible apply Kept.recordLine | with_reducible apply Kept.reportMem | with_reducible apply Kept.ite
    | with_reducible apply Kept.elim | split | intro _ | extract_lets | dsimp only

theorem Kept.repairEngine (h : Kept L s₀ s) (hL : [.regs, .pushes, .mem, .chk, .coll] ⊆ L) (a : ℕ) (e : ℕ) (f : Finder) :
    Kept L s₀ (State.repairEngine s a e f).2 := by
  unfold State.repairEngine
  extract_lets y0
  try clear_value y0
  repeat' first
    | with_reducible assumption | exact List.Subset.trans (by decide) hL
    | ((with_reducible refine Touches.intro fun p hp => ?_); cases p <;> first | exact absurd (by decide) hp | (dsimp only [Part.Same]))
    | with_reducible apply Kept.logOnce | with_reducible apply Kept.rebuildLine | with_reducible apply Kept.recordLine
    | with_reducible apply Kept.refetch | with_reducible apply Kept.reportMem | with_reducible apply Kept.unrepairable
    | with_reducible apply Kept.ite | with_reducible apply Kept.elim | split | intro _ | extract_lets
    | refine Kept.mk_of [.chk] ?_ (List.Subset.trans (by decide) hL) ?_ | dsimp only

theorem Kept.waitingRebuilds (h : Kept L s₀ s) (hL : [.mem, .chk, .coll] ⊆ L) (l : ℕ) :
    Kept L s₀ (State.waitingRebuilds s l) := by
  unfold State.waitingRebuilds
  extract_lets y0 y1 y2
  try clear_value y0 y1
  have gy2 : Kept L s₀ y2 := by
    unfold y2
    repeat' first
      | with_reducible assumption | exact List.Subset.trans (by decide) hL
      | ((with_reducible refine Touches.intro fun p hp => ?_); cases p <;> first | exact absurd (by decide) hp | (dsimp only [Part.Same]))
      | with_reducible apply Kept.each | with_reducible apply Kept.rebuildLine | with_reducible apply Kept.reportMem
      | with_reducible apply Kept.ite | split | intro _ | refine Kept.mk_of [.chk] ?_ (List.Subset.trans (by decide) hL) ?_
  try clear_value y2
  repeat' first
    | with_reducible assumption | exact List.Subset.trans (by decide) hL
    | ((with_reducible refine Touches.intro fun p hp => ?_); cases p <;> first | exact absurd (by decide) hp | (dsimp only [Part.Same]))
    | with_reducible apply Kept.each | with_reducible apply Kept.rebuildLine | with_reducible apply Kept.reportMem
    | with_reducible apply Kept.ite | split | intro _ | refine Kept.mk_of [.chk] ?_ (List.Subset.trans (by decide) hL) ?_

theorem Kept.repairSpm (h : Kept L s₀ s) (hL : [.regs, .pushes, .mem, .chk, .coll] ⊆ L) (a : ℕ) (c : ℕ) (f : Finder) :
    Kept L s₀ (State.repairSpm s a c f).2 := by
  unfold State.repairSpm
  extract_lets y0
  try clear_value y0
  repeat' first
    | with_reducible assumption | exact List.Subset.trans (by decide) hL | with_reducible apply Kept.copyMem
    | with_reducible apply Kept.logOnce | with_reducible apply Kept.recordLine | with_reducible apply Kept.reportMem
    | with_reducible apply Kept.unitRepaired | with_reducible apply Kept.unrepairable | with_reducible apply Kept.ite | split
    | intro _

theorem Kept.repairByRegion (h : Kept L s₀ s) (hL : [.regs, .pushes, .mem, .chk, .coll] ⊆ L) (a : ℕ) (f : Finder) :
    Kept L s₀ (State.repairByRegion s a f).2 := by
  unfold State.repairByRegion
  repeat' first
    | with_reducible assumption | exact List.Subset.trans (by decide) hL | with_reducible apply Kept.repairEngine
    | with_reducible apply Kept.repairSpm | with_reducible apply Kept.slotChecked | with_reducible apply Kept.unrepairable
    | with_reducible apply Kept.ite | split | intro _

theorem Kept.checkSram (h : Kept L s₀ s) (hL : [.regs, .pushes, .mem, .chk, .coll] ⊆ L) (a : ℕ) (f : Finder) :
    Kept L s₀ (State.checkSram s a f).2 := by
  unfold State.checkSram
  repeat' first
    | with_reducible assumption | exact List.Subset.trans (by decide) hL | with_reducible apply Kept.linePasses
    | with_reducible apply Kept.recordLine | with_reducible apply Kept.refetch | with_reducible apply Kept.repairByRegion
    | with_reducible apply Kept.repairSpm | with_reducible apply Kept.reportMem | with_reducible apply Kept.unrepairable
    | with_reducible apply Kept.ite | with_reducible apply Kept.elim | split | intro _ | extract_lets | dsimp only

theorem Kept.checkUnitAt (h : Kept L s₀ s) (hL : [.regs, .pushes, .mem, .chk, .coll] ⊆ L) (a : ℕ) (f : Finder) :
    Kept L s₀ (State.checkUnitAt s a f).2 := by
  unfold State.checkUnitAt
  extract_lets y0
  have gy0 : Kept L s₀ y0.2 := by
    unfold y0
    repeat' first
      | with_reducible assumption | exact List.Subset.trans (by decide) hL | with_reducible apply Kept.checkSram
      | with_reducible apply Kept.mramRead | with_reducible apply Kept.ite | split | intro _
  try clear_value y0
  repeat' first
    | with_reducible assumption | exact List.Subset.trans (by decide) hL | with_reducible apply Kept.checkSram
    | with_reducible apply Kept.mramRead | with_reducible apply Kept.ite | split | intro _

theorem Kept.corrupt (h : Kept L s₀ s) (hL : [.chk] ⊆ L) (as : List ℕ) :
    Kept L s₀ (State.corrupt s as) := by
  unfold State.corrupt
  repeat' first
    | with_reducible assumption | exact List.Subset.trans (by decide) hL
    | ((with_reducible refine Touches.intro fun p hp => ?_); cases p <;> first | exact absurd (by decide) hp | (dsimp only [Part.Same]))
    | with_reducible apply Kept.each | split | intro _ | refine Kept.mk_of [.chk] ?_ (List.Subset.trans (by decide) hL) ?_

theorem Kept.corruptMram (h : Kept L s₀ s) (hL : [.chk] ⊆ L) (as : List (ℕ × ℕ)) :
    Kept L s₀ (State.corruptMram s as) := by
  unfold State.corruptMram
  repeat' first
    | with_reducible assumption | exact List.Subset.trans (by decide) hL | with_reducible apply Kept.each
    | with_reducible apply Kept.setMramErr | with_reducible apply Kept.ite | split | intro _

theorem Kept.originStart (h : Kept L s₀ s) (hL : [.regs, .pushes, .chk] ⊆ L) (e : ℕ) :
    Kept L s₀ (State.originStart s e) := by
  unfold State.originStart
  extract_lets y0 y1
  try clear_value y1
  have gy0 : Kept L s₀ y0 := by
    unfold y0
    repeat' first
      | with_reducible assumption | exact List.Subset.trans (by decide) hL
      | ((with_reducible refine Touches.intro fun p hp => ?_); cases p <;> first | exact absurd (by decide) hp | (dsimp only [Part.Same]))
      | with_reducible apply Kept.wrB | with_reducible apply Kept.ite | split | intro _
      | refine Kept.mk_of [.chk] ?_ (List.Subset.trans (by decide) hL) ?_
  try clear_value y0
  repeat' first
    | with_reducible assumption | exact List.Subset.trans (by decide) hL
    | ((with_reducible refine Touches.intro fun p hp => ?_); cases p <;> first | exact absurd (by decide) hp | (dsimp only [Part.Same]))
    | with_reducible apply Kept.wrB | with_reducible apply Kept.ite | split | intro _
    | refine Kept.mk_of [.chk] ?_ (List.Subset.trans (by decide) hL) ?_

theorem Kept.originLoaded (h : Kept L s₀ s) (hL : [.regs, .pushes, .mem, .chk] ⊆ L) (e : ℕ) :
    Kept L s₀ (State.originLoaded s e) := by
  unfold State.originLoaded
  extract_lets y0 y1 y2
  try clear_value y0 y1
  have gy2 : Kept L s₀ y2 := by
    unfold y2
    repeat' first
      | with_reducible assumption | exact List.Subset.trans (by decide) hL
      | ((with_reducible refine Touches.intro fun p hp => ?_); cases p <;> first | exact absurd (by decide) hp | (dsimp only [Part.Same]))
      | with_reducible apply Kept.copyMem | with_reducible apply Kept.each | with_reducible apply Kept.wrB
      | with_reducible apply Kept.ite | split | intro _ | refine Kept.mk_of [.chk] ?_ (List.Subset.trans (by decide) hL) ?_
  try clear_value y2
  repeat' first
    | with_reducible assumption | exact List.Subset.trans (by decide) hL
    | ((with_reducible refine Touches.intro fun p hp => ?_); cases p <;> first | exact absurd (by decide) hp | (dsimp only [Part.Same]))
    | with_reducible apply Kept.copyMem | with_reducible apply Kept.each | with_reducible apply Kept.wrB
    | with_reducible apply Kept.ite | split | intro _ | refine Kept.mk_of [.chk] ?_ (List.Subset.trans (by decide) hL) ?_

theorem Kept.updOpen (h : Kept L s₀ s) (hL : [.regs, .pushes] ⊆ L) :
    Kept L s₀ (State.updOpen s) := by
  unfold State.updOpen
  repeat' first
    | with_reducible assumption | exact List.Subset.trans (by decide) hL | with_reducible apply Kept.wrB

theorem Kept.programMram (h : Kept L s₀ s) (hL : [.mem, .chk] ⊆ L) (a : ℕ) (bs : List Byte) :
    Kept L s₀ (State.programMram s a bs) := by
  unfold State.programMram
  extract_lets y0
  have gy0 : Kept L s₀ y0 := by
    unfold y0
    repeat' first
      | with_reducible assumption | exact List.Subset.trans (by decide) hL | with_reducible apply Kept.each
      | with_reducible apply Kept.putBytes | with_reducible apply Kept.setMramErr | with_reducible apply Kept.ite | split
      | intro _
  try clear_value y0
  repeat' first
    | with_reducible assumption | exact List.Subset.trans (by decide) hL | with_reducible apply Kept.each
    | with_reducible apply Kept.putBytes | with_reducible apply Kept.setMramErr | with_reducible apply Kept.ite | split
    | intro _

theorem Kept.mramWrite (h : Kept L s₀ s) (hL : [.mem, .chk, .coll] ⊆ L) (voted : Bool) (a : ℕ) (bs : List Byte) :
    Kept L s₀ (State.mramWrite s voted a bs) := by
  unfold State.mramWrite
  repeat' first
    | with_reducible assumption | exact List.Subset.trans (by decide) hL | with_reducible apply Kept.programMram
    | with_reducible apply Kept.reportFab | with_reducible apply Kept.ite | split | intro _

end Sys2Proof.Machine
end

