-- ==== Sys2Proof/Laws/KeptLoopRun.lean ====
section
/-! SUPPORT. What the operations of LoopRun keep. -/

set_option linter.unusedTactic false
set_option linter.unreachableTactic false
set_option linter.unusedVariables false

namespace Sys2Proof.Machine

variable {L : List Part} {s₀ s : State}

theorem Kept.setCtx (h : Kept L s₀ s) (hL : [.engines] ⊆ L) (e : ℕ) (c : Context) :
    Kept L s₀ (State.setCtx s e c) := by
  unfold State.setCtx
  extract_lets y0
  try clear_value y0
  repeat' first
    | with_reducible assumption | exact List.Subset.trans (by decide) hL | with_reducible apply Kept.setEng
    | with_reducible apply Kept.ite | split | intro _

theorem Kept.engineBusy (h : Kept L s₀ s) (hL : [.regs, .pushes, .polders] ⊆ L) (e : ℕ) :
    Kept L s₀ (State.engineBusy s e) := by
  unfold State.engineBusy
  repeat' first
    | with_reducible assumption | exact List.Subset.trans (by decide) hL | with_reducible apply Kept.setBusy

theorem Kept.applyHeld (h : Kept L s₀ s) (hL : [.mem, .chk, .loops] ⊆ L) (l : ℕ) :
    Kept L s₀ (State.applyHeld s l) := by
  unfold State.applyHeld
  extract_lets y0 y1 y2 y3
  try clear_value y0 y1 y3
  have gy2 : Kept L s₀ y2 := by
    unfold y2
    repeat' first
      | with_reducible assumption | exact List.Subset.trans (by decide) hL | with_reducible apply Kept.each
      | with_reducible apply Kept.putMword | with_reducible apply Kept.setLoop | intro _
  try clear_value y2
  repeat' first
    | with_reducible assumption | exact List.Subset.trans (by decide) hL | with_reducible apply Kept.each
    | with_reducible apply Kept.putMword | with_reducible apply Kept.setLoop | intro _

theorem Kept.freeLoop (h : Kept L s₀ s) (hL : [.regs, .pushes, .polders, .loops, .trl] ⊆ L) (l : ℕ) :
    Kept L s₀ (State.freeLoop s l) := by
  unfold State.freeLoop
  extract_lets y0 y1 y2
  try clear_value y0 y2
  have gy1 : Kept L s₀ y1 := by
    unfold y1
    repeat' first
      | with_reducible assumption | exact List.Subset.trans (by decide) hL
      | ((with_reducible refine Touches.intro fun p hp => ?_); cases p <;> first | exact absurd (by decide) hp | (dsimp only [Part.Same]))
      | with_reducible apply Kept.engineBusy | with_reducible apply Kept.setLoop | with_reducible apply Kept.ite | split
      | intro _ | refine Kept.mk_of [.trl] ?_ (List.Subset.trans (by decide) hL) ?_
  try clear_value y1
  repeat' first
    | with_reducible assumption | exact List.Subset.trans (by decide) hL
    | ((with_reducible refine Touches.intro fun p hp => ?_); cases p <;> first | exact absurd (by decide) hp | (dsimp only [Part.Same]))
    | with_reducible apply Kept.engineBusy | with_reducible apply Kept.setLoop | with_reducible apply Kept.ite | split
    | intro _ | refine Kept.mk_of [.trl] ?_ (List.Subset.trans (by decide) hL) ?_

theorem Kept.recordExc (h : Kept L s₀ s) (hL : [.regs, .pushes, .coll] ⊆ L) (e : ℕ) (c : Context) (r : Run) :
    Kept L s₀ (State.recordExc s e c r) := by
  unfold State.recordExc
  repeat' first
    | with_reducible assumption | exact List.Subset.trans (by decide) hL | with_reducible apply Kept.count
    | with_reducible apply Kept.setWord | with_reducible apply Kept.ite | split | intro _

theorem Kept.takeSnapshot (h : Kept L s₀ s) (hL : [.engines] ⊆ L) (e : ℕ) (c : Context) (l : ℕ) :
    Kept L s₀ (State.takeSnapshot s e c l) := by
  unfold State.takeSnapshot
  extract_lets y0
  try clear_value y0
  repeat' first
    | with_reducible assumption | exact List.Subset.trans (by decide) hL | with_reducible apply Kept.setEng
    | with_reducible apply Kept.ite | split | intro _

theorem Kept.endRun (h : Kept L s₀ s) (hL : [.regs, .pushes, .mem, .chk, .polders, .coll, .engines, .loops, .trl] ⊆ L) (e : ℕ) (atExit : Bool) :
    Kept L s₀ (State.endRun s e atExit) := by
  unfold State.endRun
  extract_lets y0
  try clear_value y0
  repeat' first
    | with_reducible assumption | exact List.Subset.trans (by decide) hL | with_reducible apply Kept.applyHeld
    | with_reducible apply Kept.freeLoop | with_reducible apply Kept.recordExc | with_reducible apply Kept.setCtx
    | with_reducible apply Kept.setLoop | with_reducible apply Kept.takeSnapshot | with_reducible apply Kept.waitingRebuilds
    | with_reducible apply Kept.wr | with_reducible apply Kept.writeCkpt | with_reducible apply Kept.ite | split | intro _

theorem Kept.abortRun (h : Kept L s₀ s) (hL : [.regs, .pushes, .mem, .chk, .polders, .coll, .engines, .loops, .trl] ⊆ L) (e : ℕ) (code : ℕ) :
    Kept L s₀ (State.abortRun s e code) := by
  unfold State.abortRun
  repeat' first
    | with_reducible assumption | exact List.Subset.trans (by decide) hL | with_reducible apply Kept.endRun
    | with_reducible apply Kept.reportLoop | with_reducible apply Kept.setWord | with_reducible apply Kept.ite | split
    | intro _

theorem Kept.overrun (h : Kept L s₀ s) (hL : [.regs, .pushes, .coll, .loops, .trl] ⊆ L) (l : ℕ) :
    Kept L s₀ (State.overrun s l) := by
  unfold State.overrun
  extract_lets y0 y1 y2 y3 y4 y5
  try clear_value y0 y1 y5
  have gy2 : Kept L s₀ y2 := by
    unfold y2
    repeat' first
      | with_reducible assumption | exact List.Subset.trans (by decide) hL
      | ((with_reducible refine Touches.intro fun p hp => ?_); cases p <;> first | exact absurd (by decide) hp | (dsimp only [Part.Same]))
      | with_reducible apply Kept.count | with_reducible apply Kept.reportLoop | with_reducible apply Kept.setLoop
      | with_reducible apply Kept.setWord | with_reducible apply Kept.ite | split | intro _
      | refine Kept.mk_of [.trl] ?_ (List.Subset.trans (by decide) hL) ?_
  try clear_value y2
  have gy3 : Kept L s₀ y3 := by
    unfold y3
    repeat' first
      | with_reducible assumption | exact List.Subset.trans (by decide) hL
      | ((with_reducible refine Touches.intro fun p hp => ?_); cases p <;> first | exact absurd (by decide) hp | (dsimp only [Part.Same]))
      | with_reducible apply Kept.count | with_reducible apply Kept.reportLoop | with_reducible apply Kept.setLoop
      | with_reducible apply Kept.setWord | with_reducible apply Kept.ite | split | intro _
      | refine Kept.mk_of [.trl] ?_ (List.Subset.trans (by decide) hL) ?_
  try clear_value y3
  have gy4 : Kept L s₀ y4 := by
    unfold y4
    repeat' first
      | with_reducible assumption | exact List.Subset.trans (by decide) hL
      | ((with_reducible refine Touches.intro fun p hp => ?_); cases p <;> first | exact absurd (by decide) hp | (dsimp only [Part.Same]))
      | with_reducible apply Kept.count | with_reducible apply Kept.reportLoop | with_reducible apply Kept.setLoop
      | with_reducible apply Kept.setWord | with_reducible apply Kept.ite | split | intro _
      | refine Kept.mk_of [.trl] ?_ (List.Subset.trans (by decide) hL) ?_
  try clear_value y4
  repeat' first
    | with_reducible assumption | exact List.Subset.trans (by decide) hL
    | ((with_reducible refine Touches.intro fun p hp => ?_); cases p <;> first | exact absurd (by decide) hp | (dsimp only [Part.Same]))
    | with_reducible apply Kept.count | with_reducible apply Kept.reportLoop | with_reducible apply Kept.setLoop
    | with_reducible apply Kept.setWord | with_reducible apply Kept.ite | split | intro _
    | refine Kept.mk_of [.trl] ?_ (List.Subset.trans (by decide) hL) ?_

theorem Kept.takeNext (h : Kept L s₀ s) (hL : [.loops, .guards] ⊆ L) (l : ℕ) :
    Kept L s₀ (State.takeNext s l) := by
  unfold State.takeNext
  extract_lets y0
  try clear_value y0
  repeat' first
    | with_reducible assumption | exact List.Subset.trans (by decide) hL | with_reducible apply Kept.loadGuards
    | with_reducible apply Kept.setLoop | split

theorem Kept.fire (h : Kept L s₀ s) (hL : [.regs, .pushes, .coll, .engines, .loops, .trl, .guards] ⊆ L) (l : ℕ) (stamp : ℕ) :
    Kept L s₀ (State.fire s l stamp) := by
  unfold State.fire
  extract_lets y0 y1 y2 y3 y4 y5
  try clear_value y0 y1 y3 y5
  have gy2 : Kept L s₀ y2 := by
    unfold y2
    repeat' first
      | with_reducible assumption | exact List.Subset.trans (by decide) hL | with_reducible apply Kept.overrun
      | with_reducible apply Kept.reportLoop | with_reducible apply Kept.setEng | with_reducible apply Kept.setLoop
      | with_reducible apply Kept.skipTrigger | with_reducible apply Kept.takeNext | with_reducible apply Kept.ite | split
      | intro _
  try clear_value y2
  have gy4 : Kept L s₀ y4 := by
    unfold y4
    repeat' first
      | with_reducible assumption | exact List.Subset.trans (by decide) hL | with_reducible apply Kept.overrun
      | with_reducible apply Kept.reportLoop | with_reducible apply Kept.setEng | with_reducible apply Kept.setLoop
      | with_reducible apply Kept.skipTrigger | with_reducible apply Kept.takeNext | with_reducible apply Kept.ite | split
      | intro _
  try clear_value y4
  repeat' first
    | with_reducible assumption | exact List.Subset.trans (by decide) hL | with_reducible apply Kept.overrun
    | with_reducible apply Kept.reportLoop | with_reducible apply Kept.setEng | with_reducible apply Kept.setLoop
    | with_reducible apply Kept.skipTrigger | with_reducible apply Kept.takeNext | with_reducible apply Kept.ite | split
    | intro _

theorem Kept.fireAll (h : Kept L s₀ s) (hL : [.regs, .pushes, .coll, .engines, .loops, .trl, .guards] ⊆ L) (sel : LoopRec → Bool) (stamp : ℕ) :
    Kept L s₀ (State.fireAll s sel stamp) := by
  unfold State.fireAll
  repeat' first
    | with_reducible assumption | exact List.Subset.trans (by decide) hL | with_reducible apply Kept.each
    | with_reducible apply Kept.fire | intro _

theorem Kept.fireSlot (h : Kept L s₀ s) (hL : [.regs, .pushes, .coll, .engines, .loops, .trl, .guards] ⊆ L) (n : ℕ) (stamp : ℕ) :
    Kept L s₀ (State.fireSlot s n stamp) := by
  unfold State.fireSlot
  repeat' first
    | with_reducible assumption | exact List.Subset.trans (by decide) hL | with_reducible apply Kept.fireAll

theorem Kept.kick (h : Kept L s₀ s) (hL : [.regs, .pushes, .coll, .engines, .loops, .trl, .guards] ⊆ L) (l : ℕ) :
    Kept L s₀ (State.kick s l) := by
  unfold State.kick
  repeat' first
    | with_reducible assumption | exact List.Subset.trans (by decide) hL | with_reducible apply Kept.fire
    | with_reducible apply Kept.ite | split | intro _

theorem Kept.firePeriodic (h : Kept L s₀ s) (hL : [.regs, .pushes, .coll, .engines, .loops, .trl, .guards] ⊆ L) :
    Kept L s₀ (State.firePeriodic s) := by
  unfold State.firePeriodic
  repeat' first
    | with_reducible assumption | exact List.Subset.trans (by decide) hL | with_reducible apply Kept.fireAll

theorem Kept.fireStageEvent (h : Kept L s₀ s) (hL : [.regs, .pushes, .coll, .engines, .loops, .trl, .guards] ⊆ L) (st : ℕ) (ev : ℕ) :
    Kept L s₀ (State.fireStageEvent s st ev) := by
  unfold State.fireStageEvent
  repeat' first
    | with_reducible assumption | exact List.Subset.trans (by decide) hL | with_reducible apply Kept.fireAll

theorem Kept.dispatch (h : Kept L s₀ s) (hL : [.engines] ⊆ L) (e : ℕ) :
    Kept L s₀ (State.dispatch s e) := by
  unfold State.dispatch
  extract_lets y0
  try clear_value y0
  repeat' first
    | with_reducible assumption | exact List.Subset.trans (by decide) hL | with_reducible apply Kept.setEng
    | with_reducible apply Kept.ite | split | intro _

theorem Kept.deadlinePassed (h : Kept L s₀ s) (hL : [.regs, .pushes, .coll, .loops] ⊆ L) (l : ℕ) :
    Kept L s₀ (State.deadlinePassed s l) := by
  unfold State.deadlinePassed
  extract_lets y0 y1 y2
  try clear_value y0
  have gy1 : Kept L s₀ y1 := by
    unfold y1
    repeat' first
      | with_reducible assumption | exact List.Subset.trans (by decide) hL | with_reducible apply Kept.count
      | with_reducible apply Kept.reportLoop | with_reducible apply Kept.setLoop | with_reducible apply Kept.ite | split
      | intro _
  try clear_value y1
  have gy2 : Kept L s₀ y2 := by
    unfold y2
    repeat' first
      | with_reducible assumption | exact List.Subset.trans (by decide) hL | with_reducible apply Kept.count
      | with_reducible apply Kept.reportLoop | with_reducible apply Kept.setLoop | with_reducible apply Kept.ite | split
      | intro _
  try clear_value y2
  repeat' first
    | with_reducible assumption | exact List.Subset.trans (by decide) hL | with_reducible apply Kept.count
    | with_reducible apply Kept.reportLoop | with_reducible apply Kept.setLoop | with_reducible apply Kept.ite | split
    | intro _

theorem Kept.spend (h : Kept L s₀ s) (hL : [.regs, .pushes, .coll, .engines, .loops] ⊆ L) (e : ℕ) (cost : ℕ) (pc : ℕ) :
    Kept L s₀ (State.spend s e cost pc) := by
  unfold State.spend
  extract_lets y0
  try clear_value y0
  repeat' first
    | with_reducible assumption | exact List.Subset.trans (by decide) hL | with_reducible apply Kept.count
    | with_reducible apply Kept.reportLoop | with_reducible apply Kept.setCtx | with_reducible apply Kept.setEng
    | with_reducible apply Kept.setLoop | with_reducible apply Kept.ite | split | intro _

theorem Kept.retire (h : Kept L s₀ s) (hL : [.regs, .pushes, .mem, .chk, .polders, .coll, .engines, .loops, .trl] ⊆ L) (e : ℕ) (cost : ℕ) (pc : ℕ) :
    Kept L s₀ (State.retire s e cost pc) := by
  unfold State.retire
  extract_lets y0
  have gy0 : Kept L s₀ y0 := by
    unfold y0
    repeat' first
      | with_reducible assumption | exact List.Subset.trans (by decide) hL | with_reducible apply Kept.abortRun
      | with_reducible apply Kept.spend | with_reducible apply Kept.ite | split | intro _
  try clear_value y0
  repeat' first
    | with_reducible assumption | exact List.Subset.trans (by decide) hL | with_reducible apply Kept.abortRun
    | with_reducible apply Kept.spend | with_reducible apply Kept.ite | split | intro _

theorem Kept.compute (h : Kept L s₀ s) (hL : [.regs, .pushes, .mem, .chk, .polders, .coll, .engines, .loops, .trl] ⊆ L) (e : ℕ) (cost : ℕ) (f : Context → Context) :
    Kept L s₀ (State.compute s e cost f) := by
  unfold State.compute
  repeat' first
    | with_reducible assumption | exact List.Subset.trans (by decide) hL | with_reducible apply Kept.retire
    | with_reducible apply Kept.setCtx | split

theorem Kept.loopExit (h : Kept L s₀ s) (hL : [.regs, .pushes, .mem, .chk, .polders, .coll, .engines, .loops, .trl] ⊆ L) (e : ℕ) :
    Kept L s₀ (State.loopExit s e) := by
  unfold State.loopExit
  repeat' first
    | with_reducible assumption | exact List.Subset.trans (by decide) hL | with_reducible apply Kept.endRun
    | with_reducible apply Kept.spend | split

theorem Kept.loopTrap (h : Kept L s₀ s) (hL : [.regs, .pushes, .mem, .chk, .polders, .coll, .engines, .loops, .trl] ⊆ L) (e : ℕ) (code : ℕ) :
    Kept L s₀ (State.loopTrap s e code) := by
  unfold State.loopTrap
  repeat' first
    | with_reducible assumption | exact List.Subset.trans (by decide) hL | with_reducible apply Kept.endRun
    | with_reducible apply Kept.reportLoop | with_reducible apply Kept.setWord | with_reducible apply Kept.spend | split

theorem Kept.runReads_some (h : Kept L s₀ s) (hL : [.regs, .pushes, .mem, .chk, .polders, .coll, .engines, .loops, .trl] ⊆ L) {e l a : Nat} {t u : State} (he : s.runReads e l a = (some t, u)) : Kept L s₀ t := by
  have hr := h.checkUnitAt (List.Subset.trans (by decide) hL) a .engine
  unfold State.runReads at he
  dsimp only at he
  split at he
  · cases he
    exact hr
  · cases he
  · cases he

theorem Kept.runReads_none (h : Kept L s₀ s) (hL : [.regs, .pushes, .mem, .chk, .polders, .coll, .engines, .loops, .trl] ⊆ L) {e l a : Nat} {t : State} (he : s.runReads e l a = (none, t)) : Kept L s₀ t := by
  have hr := h.checkUnitAt (List.Subset.trans (by decide) hL) a .engine
  unfold State.runReads at he
  dsimp only at he
  split at he
  · cases he
  · cases he
    exact (hr.endRun (List.Subset.trans (by decide) hL) e false).skipTrigger (List.Subset.trans (by decide) hL) l
  · cases he
    exact hr.endRun (List.Subset.trans (by decide) hL) e false

theorem Kept.clearPeak (h : Kept L s₀ s) (hL : [.loops] ⊆ L) (l : ℕ) :
    Kept L s₀ (State.clearPeak s l) := by
  unfold State.clearPeak
  extract_lets y0
  try clear_value y0
  repeat' first
    | with_reducible assumption | exact List.Subset.trans (by decide) hL | with_reducible apply Kept.setLoop

theorem Kept.slotWrite (h : Kept L s₀ s) (hL : [.regs, .pushes, .mem, .chk, .coll, .engines, .loops, .trl, .guards] ⊆ L) (src : ℕ) (n : ℕ) (word : ℕ) (w : Word) :
    Kept L s₀ (State.slotWrite s src n word w) := by
  unfold State.slotWrite
  repeat' first
    | with_reducible assumption | exact List.Subset.trans (by decide) hL | with_reducible apply Kept.fireSlot
    | with_reducible apply Kept.putSlot | with_reducible apply Kept.ite | split | intro _

theorem Kept.slotRead (h : Kept L s₀ s) (hL : [.regs, .pushes, .chk, .coll, .slotShadows, .answer] ⊆ L) (port : ℕ) (n : ℕ) (f : Finder) :
    Kept L s₀ (State.slotRead s port n f) := by
  unfold State.slotRead
  extract_lets y0
  have gy0 : Kept L s₀ y0 := by
    unfold y0
    repeat' first
      | with_reducible assumption | exact List.Subset.trans (by decide) hL
      | ((with_reducible refine Touches.intro fun p hp => ?_); cases p <;> first | exact absurd (by decide) hp | (dsimp only [Part.Same]))
      | with_reducible apply Kept.slotChecked | with_reducible apply Kept.ite | split | intro _
      | refine Kept.mk_of [.slotShadows, .answer] ?_ (List.Subset.trans (by decide) hL) ?_
  try clear_value y0
  repeat' first
    | with_reducible assumption | exact List.Subset.trans (by decide) hL
    | ((with_reducible refine Touches.intro fun p hp => ?_); cases p <;> first | exact absurd (by decide) hp | (dsimp only [Part.Same]))
    | with_reducible apply Kept.slotChecked | with_reducible apply Kept.ite | split | intro _
    | refine Kept.mk_of [.slotShadows, .answer] ?_ (List.Subset.trans (by decide) hL) ?_

theorem Kept.localWrite (h : Kept L s₀ s) (hL : [.mem, .chk, .coll, .loops] ⊆ L) (e : ℕ) (off : ℕ) (w : Word) :
    Kept L s₀ (State.localWrite s e off w) := by
  unfold State.localWrite
  extract_lets y0
  try clear_value y0
  repeat' first
    | with_reducible assumption | exact List.Subset.trans (by decide) hL | with_reducible apply Kept.putMword
    | with_reducible apply Kept.reportLoop | with_reducible apply Kept.setLoop | with_reducible apply Kept.ite | split
    | intro _

theorem Kept.rateWindowEnd (h : Kept L s₀ s) (hL : [.regs, .pushes, .engines, .trl] ⊆ L) (e : ℕ) (ticks : ℕ) :
    Kept L s₀ (State.rateWindowEnd s e ticks) := by
  unfold State.rateWindowEnd
  extract_lets y0 y1 y2 y3 y4 y5 y6 y7 y8 y9
  try clear_value y0 y1 y2 y3 y4 y6 y7 y9
  have gy5 : Kept L s₀ y5 := by
    unfold y5
    repeat' first
      | with_reducible assumption | exact List.Subset.trans (by decide) hL
      | ((with_reducible refine Touches.intro fun p hp => ?_); cases p <;> first | exact absurd (by decide) hp | (dsimp only [Part.Same]))
      | with_reducible apply Kept.setEng | with_reducible apply Kept.setWord | with_reducible apply Kept.ite | split
      | intro _ | refine Kept.mk_of [.trl] ?_ (List.Subset.trans (by decide) hL) ?_
  try clear_value y5
  have gy8 : Kept L s₀ y8 := by
    unfold y8
    repeat' first
      | with_reducible assumption | exact List.Subset.trans (by decide) hL
      | ((with_reducible refine Touches.intro fun p hp => ?_); cases p <;> first | exact absurd (by decide) hp | (dsimp only [Part.Same]))
      | with_reducible apply Kept.setEng | with_reducible apply Kept.setWord | with_reducible apply Kept.ite | split
      | intro _ | refine Kept.mk_of [.trl] ?_ (List.Subset.trans (by decide) hL) ?_
  try clear_value y8
  repeat' first
    | with_reducible assumption | exact List.Subset.trans (by decide) hL
    | ((with_reducible refine Touches.intro fun p hp => ?_); cases p <;> first | exact absurd (by decide) hp | (dsimp only [Part.Same]))
    | with_reducible apply Kept.setEng | with_reducible apply Kept.setWord | with_reducible apply Kept.ite | split | intro _
    | refine Kept.mk_of [.trl] ?_ (List.Subset.trans (by decide) hL) ?_

theorem Kept.rateProbe (h : Kept L s₀ s) (hL : [.engines] ⊆ L) (e : ℕ) (ops : ℕ) (ticks : ℕ) :
    Kept L s₀ (State.rateProbe s e ops ticks) := by
  unfold State.rateProbe
  extract_lets y0 y1
  try clear_value y0 y1
  repeat' first
    | with_reducible assumption | exact List.Subset.trans (by decide) hL | with_reducible apply Kept.setEng
    | with_reducible apply Kept.ite | split | intro _

end Sys2Proof.Machine
end

