-- ==== Sys2Proof/Laws/KeptLoopIsa.lean ====
section
/-! SUPPORT. What the operations of LoopIsa keep. -/

set_option linter.unusedTactic false
set_option linter.unreachableTactic false
set_option linter.unusedVariables false

namespace Sys2Proof.Machine

variable {L : List Part} {s₀ s : State}

theorem Kept.branch (h : Kept L s₀ s) (hL : [.regs, .pushes, .mem, .chk, .polders, .coll, .engines, .loops, .trl] ⊆ L) (e : ℕ) (cond : Option ℕ) (off : ℤ) :
    Kept L s₀ (State.branch s e cond off) := by
  unfold State.branch
  extract_lets y0
  try clear_value y0
  repeat' first
    | with_reducible assumption | exact List.Subset.trans (by decide) hL | with_reducible apply Kept.retire
    | with_reducible apply Kept.ite | split | intro _

theorem Kept.sinCos (h : Kept L s₀ s) (hL : [.fresh] ⊆ L) (x : Word) :
    Kept L s₀ (State.sinCos s x).2 := by
  unfold State.sinCos
  extract_lets y0 y1
  have gy0 : Kept L s₀ y0.2 := by
    unfold y0
    repeat' first
      | with_reducible assumption | exact List.Subset.trans (by decide) hL | with_reducible apply Kept.drawWord
      | with_reducible apply Kept.ite | split | intro _
  try clear_value y0
  have gy1 : Kept L s₀ y1.2 := by
    unfold y1
    repeat' first
      | with_reducible assumption | exact List.Subset.trans (by decide) hL | with_reducible apply Kept.drawWord
      | with_reducible apply Kept.ite | split | intro _
  try clear_value y1
  repeat' first
    | with_reducible assumption | exact List.Subset.trans (by decide) hL | with_reducible apply Kept.drawWord
    | with_reducible apply Kept.ite | split | intro _

theorem Kept.atan2 (h : Kept L s₀ s) (hL : [.fresh] ⊆ L) (y : Word) (x : Word) :
    Kept L s₀ (State.atan2 s y x).2 := by
  unfold State.atan2
  extract_lets y0 y1 y2
  try clear_value y0 y1
  have gy2 : Kept L s₀ y2.2 := by
    unfold y2
    repeat' first
      | with_reducible assumption | exact List.Subset.trans (by decide) hL | with_reducible apply Kept.drawWord
      | with_reducible apply Kept.ite | split | intro _
  try clear_value y2
  repeat' first
    | with_reducible assumption | exact List.Subset.trans (by decide) hL | with_reducible apply Kept.drawWord
    | with_reducible apply Kept.ite | split | intro _

theorem Kept.rotate (h : Kept L s₀ s) (hL : [.fresh] ⊆ L) (inv : Bool) (a : Word) (b : Word) (c : Word) (c1 : Word) (fn : ℕ) :
    Kept L s₀ (State.rotate s inv a b c c1 fn).2 := by
  unfold State.rotate
  extract_lets y0 y1
  try clear_value y1
  have gy0 : Kept L s₀ y0.2 := by
    unfold y0
    repeat' first
      | with_reducible assumption | exact List.Subset.trans (by decide) hL | with_reducible apply Kept.sinCos
      | with_reducible apply Kept.ite | split | intro _
  try clear_value y0
  repeat' first
    | with_reducible assumption | exact List.Subset.trans (by decide) hL | with_reducible apply Kept.sinCos
    | with_reducible apply Kept.ite | split | intro _

theorem Kept.loadState (h : Kept L s₀ s) (hL : [.regs, .pushes, .mem, .chk, .polders, .coll, .engines, .loops, .trl] ⊆ L) (e : ℕ) (qd : ℕ) (qa : ℕ) (off : ℕ) (x : Bool) :
    Kept L s₀ (State.loadState s e qd qa off x) := by
  unfold State.loadState
  extract_lets y0
  try clear_value y0
  repeat' first
    | with_reducible assumption | exact List.Subset.trans (by decide) hL | with_reducible apply Kept.abortRun
    | with_reducible apply Kept.retire | with_reducible apply Kept.setCtx
    | exact h.runReads_some (List.Subset.trans (by decide) hL) (by assumption)
    | exact h.runReads_none (List.Subset.trans (by decide) hL) (by assumption) | with_reducible apply Kept.ite
    | with_reducible apply Kept.elim | split | intro _ | extract_lets | dsimp only

theorem Kept.storeState (h : Kept L s₀ s) (hL : [.regs, .pushes, .mem, .chk, .polders, .coll, .engines, .loops, .trl] ⊆ L) (e : ℕ) (q : ℕ) (qa : ℕ) (off : ℕ) (x : Bool) :
    Kept L s₀ (State.storeState s e q qa off x) := by
  unfold State.storeState
  extract_lets y0
  try clear_value y0
  repeat' first
    | with_reducible assumption | exact List.Subset.trans (by decide) hL | with_reducible apply Kept.abortRun
    | with_reducible apply Kept.putMword | with_reducible apply Kept.retire | split

theorem Kept.block (h : Kept L s₀ s) (hL : [.regs, .pushes, .mem, .chk, .polders, .coll, .engines, .loops, .trl] ⊆ L) (e : ℕ) (rec : ℕ) (len : ℕ) (cost : ℕ) (f : Context → List Word → Context × List (ℕ × Word) × Bool) :
    Kept L s₀ (State.block s e rec len cost f) := by
  unfold State.block
  repeat' first
    | with_reducible assumption | exact List.Subset.trans (by decide) hL | with_reducible apply Kept.abortRun
    | with_reducible apply Kept.each | with_reducible apply Kept.putMword | with_reducible apply Kept.reportLoop
    | with_reducible apply Kept.retire | with_reducible apply Kept.setCtx
    | exact h.runReads_some (List.Subset.trans (by decide) hL) (by assumption)
    | exact h.runReads_none (List.Subset.trans (by decide) hL) (by assumption) | with_reducible apply Kept.ite
    | with_reducible apply Kept.elim | split | intro _ | extract_lets | dsimp only

theorem Kept.pi (h : Kept L s₀ s) (hL : [.regs, .pushes, .mem, .chk, .polders, .coll, .engines, .loops, .trl] ⊆ L) (e : ℕ) (qd : ℕ) (qa : ℕ) (qb : ℕ) (rec : ℕ) :
    Kept L s₀ (State.pi s e qd qa qb rec) := by
  unfold State.pi
  repeat' first
    | with_reducible assumption | exact List.Subset.trans (by decide) hL | with_reducible apply Kept.block

theorem Kept.minsel (h : Kept L s₀ s) (hL : [.regs, .pushes, .mem, .chk, .polders, .coll, .engines, .loops, .trl] ⊆ L) (e : ℕ) (qd : ℕ) (qa : ℕ) (qb : ℕ) (rec : ℕ) :
    Kept L s₀ (State.minsel s e qd qa qb rec) := by
  unfold State.minsel
  repeat' first
    | with_reducible assumption | exact List.Subset.trans (by decide) hL | with_reducible apply Kept.abortRun
    | with_reducible apply Kept.each | with_reducible apply Kept.putMword | with_reducible apply Kept.reportLoop
    | with_reducible apply Kept.retire | with_reducible apply Kept.setCtx | with_reducible apply Kept.setLoop
    | exact h.runReads_some (List.Subset.trans (by decide) hL) (by assumption)
    | exact h.runReads_none (List.Subset.trans (by decide) hL) (by assumption) | with_reducible apply Kept.ite
    | with_reducible apply Kept.elim | split | intro _ | extract_lets | dsimp only

theorem Kept.computeFree (h : Kept L s₀ s) (hL : [.regs, .pushes, .mem, .chk, .polders, .coll, .engines, .loops, .trl] ⊆ L) (e cost : Nat) (f : Context → State → Context × State)
    (hf : ∀ c s, Kept L s₀ s → Kept L s₀ (f c s).2) : Kept L s₀ (s.computeFree e cost f) := by
  unfold State.computeFree
  split
  · exact h
  · exact ((hf _ _ h).setCtx (List.Subset.trans (by decide) hL) _ _).retire (List.Subset.trans (by decide) hL) _ _ _

theorem Kept.sincos (h : Kept L s₀ s) (hL : [.regs, .pushes, .mem, .chk, .fresh, .polders, .coll, .engines, .loops, .trl] ⊆ L) (e : ℕ) (qd : ℕ) (qa : ℕ) :
    Kept L s₀ (State.sincos s e qd qa) := by
  unfold State.sincos
  repeat' first
    | with_reducible assumption | exact List.Subset.trans (by decide) hL | with_reducible apply Kept.computeFree
    | with_reducible apply Kept.sinCos | with_reducible apply Kept.ite | with_reducible apply Kept.elim | split | intro _
    | extract_lets | dsimp only

theorem Kept.atan2To (h : Kept L s₀ s) (hL : [.regs, .pushes, .mem, .chk, .fresh, .polders, .coll, .engines, .loops, .trl] ⊆ L) (e : ℕ) (qd : ℕ) (qa : ℕ) (qb : ℕ) :
    Kept L s₀ (State.atan2To s e qd qa qb) := by
  unfold State.atan2To
  repeat' first
    | with_reducible assumption | exact List.Subset.trans (by decide) hL | with_reducible apply Kept.atan2
    | with_reducible apply Kept.computeFree | with_reducible apply Kept.ite | with_reducible apply Kept.elim | split
    | intro _ | extract_lets | dsimp only

theorem Kept.rotateTo (h : Kept L s₀ s) (hL : [.regs, .pushes, .mem, .chk, .fresh, .polders, .coll, .engines, .loops, .trl] ⊆ L) (e : ℕ) (inv : Bool) (qd : ℕ) (qa : ℕ) (qb : ℕ) (qc : ℕ) (fn : ℕ) :
    Kept L s₀ (State.rotateTo s e inv qd qa qb qc fn) := by
  unfold State.rotateTo
  repeat' first
    | with_reducible assumption | exact List.Subset.trans (by decide) hL | with_reducible apply Kept.computeFree
    | with_reducible apply Kept.rotate | with_reducible apply Kept.ite | split | intro _

end Sys2Proof.Machine
end

