-- ==== Sys2Proof/Laws/KeptLoopIo.lean ====
section
/-! SUPPORT. What the operations of LoopIo keep. -/

set_option linter.unusedTactic false
set_option linter.unreachableTactic false
set_option linter.unusedVariables false

namespace Sys2Proof.Machine

variable {L : List Part} {s₀ s : State}

theorem Kept.inputValue (h : Kept L s₀ s) (hL : [.regs, .pushes, .chk, .coll] ⊆ L) (h : ℕ) (trig : ℕ) :
    Kept L s₀ (State.inputValue s h trig).2 := by
  unfold State.inputValue
  extract_lets y0 y1 y2 y3 y4
  try clear_value y1 y2 y3 y4
  have gy0 : Kept L s₀ y0 := by
    unfold y0
    repeat' first
      | with_reducible assumption | exact List.Subset.trans (by decide) hL | with_reducible apply Kept.slotChecked
      | with_reducible apply Kept.ite | split | intro _
  try clear_value y0
  repeat' first
    | with_reducible assumption | exact List.Subset.trans (by decide) hL | with_reducible apply Kept.slotChecked
    | with_reducible apply Kept.ite | split | intro _

theorem Kept.ins (h : Kept L s₀ s) (hL : [.regs, .pushes, .mem, .chk, .polders, .coll, .engines, .loops, .trl] ⊆ L) (e : ℕ) (q : ℕ) (qx : ℕ) (k : ℕ) :
    Kept L s₀ (State.ins s e q qx k) := by
  unfold State.ins
  repeat' first
    | with_reducible assumption | exact List.Subset.trans (by decide) hL | with_reducible apply Kept.inputValue
    | with_reducible apply Kept.retire | with_reducible apply Kept.setCtx | with_reducible apply Kept.ite | split | intro _

theorem Kept.applied (h : Kept L s₀ s) (hL : [.regs, .pushes, .guards, .chans] ⊆ L) (p : ℕ) (o : ℕ) (v : ℕ) (l : ℕ) :
    Kept L s₀ (State.applied s p o v l) := by
  unfold State.applied
  extract_lets y0 y1 y2 y3
  have gy0 : Kept L s₀ y0 := by
    unfold y0
    repeat' first
      | with_reducible assumption | exact List.Subset.trans (by decide) hL | with_reducible apply Kept.legDrives
      | with_reducible apply Kept.setGuard | with_reducible apply Kept.wr | with_reducible apply Kept.wrB
      | with_reducible apply Kept.wrStamp | with_reducible apply Kept.ite | split | intro _
  try clear_value y0
  have gy1 : Kept L s₀ y1 := by
    unfold y1
    repeat' first
      | with_reducible assumption | exact List.Subset.trans (by decide) hL | with_reducible apply Kept.legDrives
      | with_reducible apply Kept.setGuard | with_reducible apply Kept.wr | with_reducible apply Kept.wrB
      | with_reducible apply Kept.wrStamp | with_reducible apply Kept.ite | split | intro _
  try clear_value y1
  have gy2 : Kept L s₀ y2 := by
    unfold y2
    repeat' first
      | with_reducible assumption | exact List.Subset.trans (by decide) hL | with_reducible apply Kept.legDrives
      | with_reducible apply Kept.setGuard | with_reducible apply Kept.wr | with_reducible apply Kept.wrB
      | with_reducible apply Kept.wrStamp | with_reducible apply Kept.ite | split | intro _
  try clear_value y2
  have gy3 : Kept L s₀ y3 := by
    unfold y3
    repeat' first
      | with_reducible assumption | exact List.Subset.trans (by decide) hL | with_reducible apply Kept.legDrives
      | with_reducible apply Kept.setGuard | with_reducible apply Kept.wr | with_reducible apply Kept.wrB
      | with_reducible apply Kept.wrStamp | with_reducible apply Kept.ite | split | intro _
  try clear_value y3
  repeat' first
    | with_reducible assumption | exact List.Subset.trans (by decide) hL | with_reducible apply Kept.legDrives
    | with_reducible apply Kept.setGuard | with_reducible apply Kept.wr | with_reducible apply Kept.wrB
    | with_reducible apply Kept.wrStamp | with_reducible apply Kept.ite | split | intro _

theorem Kept.writeOutput (h : Kept L s₀ s) (hL : [.regs, .pushes, .mem, .chk, .coll, .engines, .loops, .trl, .guards, .chans, .stages] ⊆ L) (r : Run) (h : ℕ) (w : Word) (asInt : Bool) :
    Kept L s₀ (State.writeOutput s r h w asInt).2 := by
  unfold State.writeOutput
  repeat' first
    | with_reducible assumption | exact List.Subset.trans (by decide) hL | with_reducible apply Kept.applied
    | with_reducible apply Kept.applyCommand | with_reducible apply Kept.fireSlot | with_reducible apply Kept.latchCompare
    | with_reducible apply Kept.latchPhase | with_reducible apply Kept.putSlot | with_reducible apply Kept.ite | split
    | intro _

theorem Kept.outs (h : Kept L s₀ s) (hL : [.regs, .pushes, .mem, .chk, .polders, .coll, .engines, .loops, .trl, .guards, .chans, .stages] ⊆ L) (e : ℕ) (q : ℕ) (qx : ℕ) (k : ℕ) (asInt : Bool) :
    Kept L s₀ (State.outs s e q qx k asInt) := by
  unfold State.outs
  extract_lets y0 y1 y2
  try clear_value y0 y1 y2
  repeat' first
    | with_reducible assumption | exact List.Subset.trans (by decide) hL | with_reducible apply Kept.reportLoop
    | with_reducible apply Kept.retire | with_reducible apply Kept.setCtx | with_reducible apply Kept.writeOutput
    | with_reducible apply Kept.ite | split | intro _

theorem Kept.stampTo (h : Kept L s₀ s) (hL : [.regs, .pushes, .mem, .chk, .polders, .coll, .engines, .loops, .trl] ⊆ L) (e : ℕ) (qd : ℕ) (qa : ℕ) (sel : ℕ) :
    Kept L s₀ (State.stampTo s e qd qa sel) := by
  unfold State.stampTo
  extract_lets y0
  try clear_value y0
  repeat' first
    | with_reducible assumption | exact List.Subset.trans (by decide) hL | with_reducible apply Kept.compute | split

end Sys2Proof.Machine
end

