-- ==== Sys2Proof/Laws/KeptTrellis.lean ====
section
/-! SUPPORT. What the operations of Trellis keep. -/

set_option linter.unusedTactic false
set_option linter.unreachableTactic false
set_option linter.unusedVariables false

namespace Sys2Proof.Machine

variable {L : List Part} {s₀ s : State}

theorem Kept.showFallbackOk (h : Kept L s₀ s) (hL : [.regs, .pushes] ⊆ L) :
    Kept L s₀ (State.showFallbackOk s) := by
  unfold State.showFallbackOk
  repeat' first
    | with_reducible assumption | exact List.Subset.trans (by decide) hL | with_reducible apply Kept.wrB

theorem Kept.showEntry (h : Kept L s₀ s) (hL : [.regs, .pushes] ⊆ L) (e : ℕ) (i : ℕ) (l : Option ℕ) :
    Kept L s₀ (State.showEntry s e i l) := by
  unfold State.showEntry
  extract_lets y0 y1
  try clear_value y0
  repeat' first
    | with_reducible assumption | exact List.Subset.trans (by decide) hL | with_reducible apply Kept.setWord | split

theorem Kept.showEngine (h : Kept L s₀ s) (hL : [.regs, .pushes] ⊆ L) (e : ℕ) :
    Kept L s₀ (State.showEngine s e) := by
  unfold State.showEngine
  extract_lets y0 y1 y2 y3 y4 y5
  try clear_value y0 y1 y2 y3
  have gy4 : Kept L s₀ y4 := by
    unfold y4
    repeat' first
      | with_reducible assumption | exact List.Subset.trans (by decide) hL | with_reducible apply Kept.each
      | with_reducible apply Kept.setWord | with_reducible apply Kept.showEntry | split | intro _
  try clear_value y4
  have gy5 : Kept L s₀ y5 := by
    unfold y5
    repeat' first
      | with_reducible assumption | exact List.Subset.trans (by decide) hL | with_reducible apply Kept.each
      | with_reducible apply Kept.setWord | with_reducible apply Kept.showEntry | split | intro _
  try clear_value y5
  repeat' first
    | with_reducible assumption | exact List.Subset.trans (by decide) hL | with_reducible apply Kept.each
    | with_reducible apply Kept.setWord | with_reducible apply Kept.showEntry | split | intro _

theorem Kept.showPlacement (h : Kept L s₀ s) (hL : [.regs, .pushes, .polders] ⊆ L) :
    Kept L s₀ (State.showPlacement s) := by
  unfold State.showPlacement
  extract_lets y0 y1
  have gy0 : Kept L s₀ y0 := by
    unfold y0
    repeat' first
      | with_reducible assumption | exact List.Subset.trans (by decide) hL | with_reducible apply Kept.each
      | with_reducible apply Kept.engineBusy | with_reducible apply Kept.showEngine
      | with_reducible apply Kept.showFallbackOk | with_reducible apply Kept.wr | intro _
  try clear_value y0
  have gy1 : Kept L s₀ y1 := by
    unfold y1
    repeat' first
      | with_reducible assumption | exact List.Subset.trans (by decide) hL | with_reducible apply Kept.each
      | with_reducible apply Kept.engineBusy | with_reducible apply Kept.showEngine
      | with_reducible apply Kept.showFallbackOk | with_reducible apply Kept.wr | intro _
  try clear_value y1
  repeat' first
    | with_reducible assumption | exact List.Subset.trans (by decide) hL | with_reducible apply Kept.each
    | with_reducible apply Kept.engineBusy | with_reducible apply Kept.showEngine | with_reducible apply Kept.showFallbackOk
    | with_reducible apply Kept.wr | intro _

theorem Kept.showLoads (h : Kept L s₀ s) (hL : [.regs, .pushes] ⊆ L) :
    Kept L s₀ (State.showLoads s) := by
  unfold State.showLoads
  repeat' first
    | with_reducible assumption | exact List.Subset.trans (by decide) hL | with_reducible apply Kept.each
    | with_reducible apply Kept.setWord | with_reducible apply Kept.ite | split | intro _

theorem Kept.judgeReserve (h : Kept L s₀ s) (hL : [.regs, .pushes, .coll] ⊆ L) :
    Kept L s₀ (State.judgeReserve s) := by
  unfold State.judgeReserve
  extract_lets y0 y1 y2 y3 y4
  try clear_value y0 y1 y3
  have gy2 : Kept L s₀ y2 := by
    unfold y2
    repeat' first
      | with_reducible assumption | exact List.Subset.trans (by decide) hL | with_reducible apply Kept.reportFab
      | with_reducible apply Kept.wr | with_reducible apply Kept.wrB | with_reducible apply Kept.ite | split | intro _
  try clear_value y2
  have gy4 : Kept L s₀ y4 := by
    unfold y4
    repeat' first
      | with_reducible assumption | exact List.Subset.trans (by decide) hL | with_reducible apply Kept.reportFab
      | with_reducible apply Kept.wr | with_reducible apply Kept.wrB | with_reducible apply Kept.ite | split | intro _
  try clear_value y4
  repeat' first
    | with_reducible assumption | exact List.Subset.trans (by decide) hL | with_reducible apply Kept.reportFab
    | with_reducible apply Kept.wr | with_reducible apply Kept.wrB | with_reducible apply Kept.ite | split | intro _

theorem Kept.replanFallbacks (h : Kept L s₀ s) (hL : [.regs, .pushes, .polders, .loops] ⊆ L) :
    Kept L s₀ (State.replanFallbacks s) := by
  unfold State.replanFallbacks
  extract_lets y0 y1 y2
  try clear_value y0
  have gy1 : Kept L s₀ y1 := by
    unfold y1
    repeat' first
      | with_reducible assumption | exact List.Subset.trans (by decide) hL | with_reducible apply Kept.each
      | with_reducible apply Kept.setLoop | with_reducible apply Kept.showPlacement | with_reducible apply Kept.ite | split
      | intro _
  try clear_value y1
  have gy2 : Kept L s₀ y2 := by
    unfold y2
    repeat' first
      | with_reducible assumption | exact List.Subset.trans (by decide) hL | with_reducible apply Kept.each
      | with_reducible apply Kept.setLoop | with_reducible apply Kept.showPlacement | with_reducible apply Kept.ite | split
      | intro _
  try clear_value y2
  repeat' first
    | with_reducible assumption | exact List.Subset.trans (by decide) hL | with_reducible apply Kept.each
    | with_reducible apply Kept.setLoop | with_reducible apply Kept.showPlacement | with_reducible apply Kept.ite | split
    | intro _

theorem Kept.placeOn (h : Kept L s₀ s) (hL : [.regs, .pushes, .mem, .chk, .polders, .loops, .guards] ⊆ L) (l : ℕ) (e : ℕ) (d : List Word) (again : Bool) :
    Kept L s₀ (State.placeOn s l e d again) := by
  unfold State.placeOn
  extract_lets y0 y1 y2 y3 y4 y5 y6 y7 y8 y9 y10 y11
  try clear_value y0 y1 y2 y3 y5 y7 y8
  have gy4 : Kept L s₀ y4 := by
    unfold y4
    repeat' first
      | with_reducible assumption | exact List.Subset.trans (by decide) hL | with_reducible apply Kept.dropCkpts
      | with_reducible apply Kept.engineBusy | with_reducible apply Kept.initState | with_reducible apply Kept.loadGuards
      | with_reducible apply Kept.overlayCkpt | with_reducible apply Kept.setLoop | with_reducible apply Kept.ite | split
      | intro _
  try clear_value y4
  have gy6 : Kept L s₀ y6 := by
    unfold y6
    repeat' first
      | with_reducible assumption | exact List.Subset.trans (by decide) hL | with_reducible apply Kept.dropCkpts
      | with_reducible apply Kept.engineBusy | with_reducible apply Kept.initState | with_reducible apply Kept.loadGuards
      | with_reducible apply Kept.overlayCkpt | with_reducible apply Kept.setLoop | with_reducible apply Kept.ite | split
      | intro _
  try clear_value y6
  have gy9 : Kept L s₀ y9 := by
    unfold y9
    repeat' first
      | with_reducible assumption | exact List.Subset.trans (by decide) hL | with_reducible apply Kept.dropCkpts
      | with_reducible apply Kept.engineBusy | with_reducible apply Kept.initState | with_reducible apply Kept.loadGuards
      | with_reducible apply Kept.overlayCkpt | with_reducible apply Kept.setLoop | with_reducible apply Kept.ite | split
      | intro _
  try clear_value y9
  have gy10 : Kept L s₀ y10 := by
    unfold y10
    repeat' first
      | with_reducible assumption | exact List.Subset.trans (by decide) hL | with_reducible apply Kept.dropCkpts
      | with_reducible apply Kept.engineBusy | with_reducible apply Kept.initState | with_reducible apply Kept.loadGuards
      | with_reducible apply Kept.overlayCkpt | with_reducible apply Kept.setLoop | with_reducible apply Kept.ite | split
      | intro _
  try clear_value y10
  have gy11 : Kept L s₀ y11 := by
    unfold y11
    repeat' first
      | with_reducible assumption | exact List.Subset.trans (by decide) hL | with_reducible apply Kept.dropCkpts
      | with_reducible apply Kept.engineBusy | with_reducible apply Kept.initState | with_reducible apply Kept.loadGuards
      | with_reducible apply Kept.overlayCkpt | with_reducible apply Kept.setLoop | with_reducible apply Kept.ite | split
      | intro _
  try clear_value y11
  repeat' first
    | with_reducible assumption | exact List.Subset.trans (by decide) hL | with_reducible apply Kept.dropCkpts
    | with_reducible apply Kept.engineBusy | with_reducible apply Kept.initState | with_reducible apply Kept.loadGuards
    | with_reducible apply Kept.overlayCkpt | with_reducible apply Kept.setLoop | with_reducible apply Kept.ite | split
    | intro _

theorem Kept.strand (h : Kept L s₀ s) (hL : [.coll, .loops] ⊆ L) (l : ℕ) :
    Kept L s₀ (State.strand s l) := by
  unfold State.strand
  extract_lets y0
  try clear_value y0
  repeat' first
    | with_reducible assumption | exact List.Subset.trans (by decide) hL | with_reducible apply Kept.reportLoop
    | with_reducible apply Kept.setLoop

theorem Kept.suspend (h : Kept L s₀ s) (hL : [.regs, .pushes, .polders, .coll, .engines, .loops] ⊆ L) (l : ℕ) :
    Kept L s₀ (State.suspend s l) := by
  unfold State.suspend
  extract_lets y0 y1 y2 y3
  try clear_value y0 y1 y2
  have gy3 : Kept L s₀ y3 := by
    unfold y3
    repeat' first
      | with_reducible assumption | exact List.Subset.trans (by decide) hL | with_reducible apply Kept.engineBusy
      | with_reducible apply Kept.reportLoop | with_reducible apply Kept.setEng | with_reducible apply Kept.setLoop
      | with_reducible apply Kept.ite | split | intro _
  try clear_value y3
  repeat' first
    | with_reducible assumption | exact List.Subset.trans (by decide) hL | with_reducible apply Kept.engineBusy
    | with_reducible apply Kept.reportLoop | with_reducible apply Kept.setEng | with_reducible apply Kept.setLoop
    | with_reducible apply Kept.ite | split | intro _

theorem Kept.cancelGraft (h : Kept L s₀ s) (hL : [.regs, .pushes, .coll, .loops, .trl] ⊆ L) (cause : ℕ) (l : ℕ) :
    Kept L s₀ (State.cancelGraft s cause l) := by
  unfold State.cancelGraft
  extract_lets y0 y1 y2 y3 y4
  try clear_value y1
  have gy0 : Kept L s₀ y0 := by
    unfold y0
    repeat' first
      | with_reducible assumption | exact List.Subset.trans (by decide) hL
      | ((with_reducible refine Touches.intro fun p hp => ?_); cases p <;> first | exact absurd (by decide) hp | (dsimp only [Part.Same]))
      | with_reducible apply Kept.each | with_reducible apply Kept.reportLoop | with_reducible apply Kept.setLoop
      | with_reducible apply Kept.wr | with_reducible apply Kept.wrB | with_reducible apply Kept.ite | split | intro _
      | refine Kept.mk_of [.trl] ?_ (List.Subset.trans (by decide) hL) ?_
  try clear_value y0
  have gy2 : Kept L s₀ y2 := by
    unfold y2
    repeat' first
      | with_reducible assumption | exact List.Subset.trans (by decide) hL
      | ((with_reducible refine Touches.intro fun p hp => ?_); cases p <;> first | exact absurd (by decide) hp | (dsimp only [Part.Same]))
      | with_reducible apply Kept.each | with_reducible apply Kept.reportLoop | with_reducible apply Kept.setLoop
      | with_reducible apply Kept.wr | with_reducible apply Kept.wrB | with_reducible apply Kept.ite | split | intro _
      | refine Kept.mk_of [.trl] ?_ (List.Subset.trans (by decide) hL) ?_
  try clear_value y2
  have gy3 : Kept L s₀ y3 := by
    unfold y3
    repeat' first
      | with_reducible assumption | exact List.Subset.trans (by decide) hL
      | ((with_reducible refine Touches.intro fun p hp => ?_); cases p <;> first | exact absurd (by decide) hp | (dsimp only [Part.Same]))
      | with_reducible apply Kept.each | with_reducible apply Kept.reportLoop | with_reducible apply Kept.setLoop
      | with_reducible apply Kept.wr | with_reducible apply Kept.wrB | with_reducible apply Kept.ite | split | intro _
      | refine Kept.mk_of [.trl] ?_ (List.Subset.trans (by decide) hL) ?_
  try clear_value y3
  have gy4 : Kept L s₀ y4 := by
    unfold y4
    repeat' first
      | with_reducible assumption | exact List.Subset.trans (by decide) hL
      | ((with_reducible refine Touches.intro fun p hp => ?_); cases p <;> first | exact absurd (by decide) hp | (dsimp only [Part.Same]))
      | with_reducible apply Kept.each | with_reducible apply Kept.reportLoop | with_reducible apply Kept.setLoop
      | with_reducible apply Kept.wr | with_reducible apply Kept.wrB | with_reducible apply Kept.ite | split | intro _
      | refine Kept.mk_of [.trl] ?_ (List.Subset.trans (by decide) hL) ?_
  try clear_value y4
  repeat' first
    | with_reducible assumption | exact List.Subset.trans (by decide) hL
    | ((with_reducible refine Touches.intro fun p hp => ?_); cases p <;> first | exact absurd (by decide) hp | (dsimp only [Part.Same]))
    | with_reducible apply Kept.each | with_reducible apply Kept.reportLoop | with_reducible apply Kept.setLoop
    | with_reducible apply Kept.wr | with_reducible apply Kept.wrB | with_reducible apply Kept.ite | split | intro _
    | refine Kept.mk_of [.trl] ?_ (List.Subset.trans (by decide) hL) ?_

theorem Kept.setGraftLoops (h : Kept L s₀ s) (hL : [.trl] ⊆ L) (ls : List ℕ) :
    Kept L s₀ (State.setGraftLoops s ls) := by
  unfold State.setGraftLoops
  extract_lets y0
  try clear_value y0
  repeat' first
    | with_reducible assumption | exact List.Subset.trans (by decide) hL
    | ((with_reducible refine Touches.intro fun p hp => ?_); cases p <;> first | exact absurd (by decide) hp | (dsimp only [Part.Same]))
    | refine Kept.mk_of [.trl] ?_ (List.Subset.trans (by decide) hL) ?_

theorem Kept.graftMoved (h : Kept L s₀ s) (hL : [.regs, .pushes, .coll, .loops, .trl] ⊆ L) (l : ℕ) :
    Kept L s₀ (State.graftMoved s l) := by
  unfold State.graftMoved
  extract_lets y0
  try clear_value y0
  repeat' first
    | with_reducible assumption | exact List.Subset.trans (by decide) hL | with_reducible apply Kept.cancelGraft
    | with_reducible apply Kept.setGraftLoops | with_reducible apply Kept.setLoop | with_reducible apply Kept.ite | split
    | intro _

theorem Kept.startMove (h : Kept L s₀ s) (hL : [.regs, .pushes, .coll, .loops, .trl] ⊆ L) (l : ℕ) (dest : ℕ) (cause : ℕ) :
    Kept L s₀ (State.startMove s l dest cause) := by
  unfold State.startMove
  extract_lets y0 y1 y2 y3 y4 y5 y6 y7 y8
  try clear_value y0 y2 y4 y5 y7 y8
  have gy1 : Kept L s₀ y1 := by
    unfold y1
    repeat' first
      | with_reducible assumption | exact List.Subset.trans (by decide) hL | with_reducible apply Kept.graftMoved
      | with_reducible apply Kept.setLoop | with_reducible apply Kept.ite | split | intro _
  try clear_value y1
  have gy6 : Kept L s₀ y6 := by
    unfold y6
    repeat' first
      | with_reducible assumption | exact List.Subset.trans (by decide) hL | with_reducible apply Kept.graftMoved
      | with_reducible apply Kept.setLoop | with_reducible apply Kept.ite | split | intro _
  try clear_value y6
  repeat' first
    | with_reducible assumption | exact List.Subset.trans (by decide) hL | with_reducible apply Kept.graftMoved
    | with_reducible apply Kept.setLoop | with_reducible apply Kept.ite | split | intro _

theorem Kept.abandonMove (h : Kept L s₀ s) (hL : [.loops] ⊆ L) (l : ℕ) :
    Kept L s₀ (State.abandonMove s l) := by
  unfold State.abandonMove
  extract_lets y0
  try clear_value y0
  repeat' first
    | with_reducible assumption | exact List.Subset.trans (by decide) hL | with_reducible apply Kept.setLoop
    | with_reducible apply Kept.ite | split | intro _

theorem Kept.missSamples (h : Kept L s₀ s) (hL : [.regs, .pushes, .coll, .loops] ⊆ L) (l : ℕ) (dest : ℕ) :
    Kept L s₀ (State.missSamples s l dest) := by
  unfold State.missSamples
  extract_lets y0 y1 y2 y3
  try clear_value y0 y1 y2
  have gy3 : Kept L s₀ y3 := by
    unfold y3
    repeat' first
      | with_reducible assumption | exact List.Subset.trans (by decide) hL | with_reducible apply Kept.countFirst
      | with_reducible apply Kept.each | with_reducible apply Kept.setLoop | intro _
  try clear_value y3
  repeat' first
    | with_reducible assumption | exact List.Subset.trans (by decide) hL | with_reducible apply Kept.countFirst
    | with_reducible apply Kept.each | with_reducible apply Kept.setLoop | intro _

theorem Kept.copyStart (h : Kept L s₀ s) (hL : [.regs, .pushes, .coll, .loops] ⊆ L) (l : ℕ) :
    Kept L s₀ (State.copyStart s l) := by
  unfold State.copyStart
  extract_lets y0
  try clear_value y0
  repeat' first
    | with_reducible assumption | exact List.Subset.trans (by decide) hL | with_reducible apply Kept.missSamples
    | with_reducible apply Kept.setLoop | with_reducible apply Kept.showEngine | with_reducible apply Kept.ite | split
    | intro _

theorem Kept.rebuildCopied (h : Kept L s₀ s) (hL : [.regs, .pushes, .mem, .chk, .coll] ⊆ L) (l : ℕ) (src : ℕ) (dst : ℕ) (size : ℕ) (bad : List ℕ) :
    Kept L s₀ (State.rebuildCopied s l src dst size bad) := by
  unfold State.rebuildCopied
  extract_lets y0
  try clear_value y0
  repeat' first
    | with_reducible assumption | exact List.Subset.trans (by decide) hL | with_reducible apply Kept.each
    | with_reducible apply Kept.rebuildLine | with_reducible apply Kept.recordLine | with_reducible apply Kept.reportMem
    | intro _

theorem Kept.copyComplete (h : Kept L s₀ s) (hL : [.regs, .pushes, .mem, .chk, .polders, .coll, .loops] ⊆ L) (l : ℕ) :
    Kept L s₀ (State.copyComplete s l) := by
  unfold State.copyComplete
  extract_lets y0 y1 y2
  try clear_value y0 y1 y2
  repeat' first
    | with_reducible assumption | exact List.Subset.trans (by decide) hL | with_reducible apply Kept.applyHeld
    | with_reducible apply Kept.copyMem | with_reducible apply Kept.countMove | with_reducible apply Kept.rebuildCopied
    | with_reducible apply Kept.replanFallbacks | with_reducible apply Kept.setLoop | with_reducible apply Kept.ite | split
    | intro _

theorem Kept.loadComplete (h : Kept L s₀ s) (hL : [.regs, .pushes, .mem, .chk, .polders, .loops] ⊆ L) (l : ℕ) (kind : ℕ) :
    Kept L s₀ (State.loadComplete s l kind) := by
  unfold State.loadComplete
  extract_lets y0
  try clear_value y0
  repeat' first
    | with_reducible assumption | exact List.Subset.trans (by decide) hL | with_reducible apply Kept.copyMem
    | with_reducible apply Kept.setLoop | with_reducible apply Kept.showPlacement | with_reducible apply Kept.ite | split
    | intro _

theorem Kept.tryResume (h : Kept L s₀ s) (hL : [.regs, .pushes, .mem, .chk, .polders, .loops, .guards] ⊆ L) (l : ℕ) :
    Kept L s₀ (State.tryResume s l) := by
  unfold State.tryResume
  extract_lets y0 y1
  try clear_value y0 y1
  repeat' first
    | with_reducible assumption | exact List.Subset.trans (by decide) hL | with_reducible apply Kept.placeOn | split

theorem Kept.resumeLoops (h : Kept L s₀ s) (hL : [.regs, .pushes, .mem, .chk, .polders, .loops, .guards] ⊆ L) :
    Kept L s₀ (State.resumeLoops s) := by
  unfold State.resumeLoops
  repeat' first
    | with_reducible assumption | exact List.Subset.trans (by decide) hL | with_reducible apply Kept.each
    | with_reducible apply Kept.tryResume | intro _

theorem Kept.faultMove (h : Kept L s₀ s) (hL : [.regs, .pushes, .mem, .chk, .polders, .coll, .engines, .loops, .trl, .guards] ⊆ L) (l : ℕ) :
    Kept L s₀ (State.faultMove s l) := by
  unfold State.faultMove
  extract_lets y0 y1 y2 y3 y4
  try clear_value y1 y4
  have gy0 : Kept L s₀ y0 := by
    unfold y0
    repeat' first
      | with_reducible assumption | exact List.Subset.trans (by decide) hL | with_reducible apply Kept.copyMem
      | with_reducible apply Kept.countMove | with_reducible apply Kept.each | with_reducible apply Kept.graftMoved
      | with_reducible apply Kept.placeOn | with_reducible apply Kept.reportLoop | with_reducible apply Kept.setLoop
      | with_reducible apply Kept.strand | with_reducible apply Kept.suspend | with_reducible apply Kept.ite | split
      | intro _
  try clear_value y0
  have gy2 : Kept L s₀ y2 := by
    unfold y2
    repeat' first
      | with_reducible assumption | exact List.Subset.trans (by decide) hL | with_reducible apply Kept.copyMem
      | with_reducible apply Kept.countMove | with_reducible apply Kept.each | with_reducible apply Kept.graftMoved
      | with_reducible apply Kept.placeOn | with_reducible apply Kept.reportLoop | with_reducible apply Kept.setLoop
      | with_reducible apply Kept.strand | with_reducible apply Kept.suspend | with_reducible apply Kept.ite | split
      | intro _
  try clear_value y2
  have gy3 : Kept L s₀ y3 := by
    unfold y3
    repeat' first
      | with_reducible assumption | exact List.Subset.trans (by decide) hL | with_reducible apply Kept.copyMem
      | with_reducible apply Kept.countMove | with_reducible apply Kept.each | with_reducible apply Kept.graftMoved
      | with_reducible apply Kept.placeOn | with_reducible apply Kept.reportLoop | with_reducible apply Kept.setLoop
      | with_reducible apply Kept.strand | with_reducible apply Kept.suspend | with_reducible apply Kept.ite | split
      | intro _
  try clear_value y3
  repeat' first
    | with_reducible assumption | exact List.Subset.trans (by decide) hL | with_reducible apply Kept.copyMem
    | with_reducible apply Kept.countMove | with_reducible apply Kept.each | with_reducible apply Kept.graftMoved
    | with_reducible apply Kept.placeOn | with_reducible apply Kept.reportLoop | with_reducible apply Kept.setLoop
    | with_reducible apply Kept.strand | with_reducible apply Kept.suspend | with_reducible apply Kept.ite | split | intro _

theorem Kept.clearEngine (h : Kept L s₀ s) (hL : [.engines] ⊆ L) (e : ℕ) :
    Kept L s₀ (State.clearEngine s e) := by
  unfold State.clearEngine
  extract_lets y0
  try clear_value y0
  repeat' first
    | with_reducible assumption | exact List.Subset.trans (by decide) hL | with_reducible apply Kept.setEng

theorem Kept.engineFault (h : Kept L s₀ s) (hL : [.regs, .pushes, .mem, .chk, .polders, .coll, .engines, .loops, .trl, .guards] ⊆ L) (e : ℕ) :
    Kept L s₀ (State.engineFault s e) := by
  unfold State.engineFault
  extract_lets y0 y1 y2 y3 y4
  try clear_value y2
  have gy0 : Kept L s₀ y0 := by
    unfold y0
    repeat' first
      | with_reducible assumption | exact List.Subset.trans (by decide) hL | with_reducible apply Kept.abandonMove
      | with_reducible apply Kept.clearEngine | with_reducible apply Kept.each | with_reducible apply Kept.faultMove
      | with_reducible apply Kept.freeLoop | with_reducible apply Kept.setLoop | with_reducible apply Kept.ite | split
      | intro _
  try clear_value y0
  have gy1 : Kept L s₀ y1 := by
    unfold y1
    repeat' first
      | with_reducible assumption | exact List.Subset.trans (by decide) hL | with_reducible apply Kept.abandonMove
      | with_reducible apply Kept.clearEngine | with_reducible apply Kept.each | with_reducible apply Kept.faultMove
      | with_reducible apply Kept.freeLoop | with_reducible apply Kept.setLoop | with_reducible apply Kept.ite | split
      | intro _
  try clear_value y1
  have gy3 : Kept L s₀ y3 := by
    unfold y3
    repeat' first
      | with_reducible assumption | exact List.Subset.trans (by decide) hL | with_reducible apply Kept.abandonMove
      | with_reducible apply Kept.clearEngine | with_reducible apply Kept.each | with_reducible apply Kept.faultMove
      | with_reducible apply Kept.freeLoop | with_reducible apply Kept.setLoop | with_reducible apply Kept.ite | split
      | intro _
  try clear_value y3
  have gy4 : Kept L s₀ y4 := by
    unfold y4
    repeat' first
      | with_reducible assumption | exact List.Subset.trans (by decide) hL | with_reducible apply Kept.abandonMove
      | with_reducible apply Kept.clearEngine | with_reducible apply Kept.each | with_reducible apply Kept.faultMove
      | with_reducible apply Kept.freeLoop | with_reducible apply Kept.setLoop | with_reducible apply Kept.ite | split
      | intro _
  try clear_value y4
  repeat' first
    | with_reducible assumption | exact List.Subset.trans (by decide) hL | with_reducible apply Kept.abandonMove
    | with_reducible apply Kept.clearEngine | with_reducible apply Kept.each | with_reducible apply Kept.faultMove
    | with_reducible apply Kept.freeLoop | with_reducible apply Kept.setLoop | with_reducible apply Kept.ite | split
    | intro _

theorem Kept.moveAway (h : Kept L s₀ s) (hL : [.regs, .pushes, .coll, .loops, .trl] ⊆ L) (e : ℕ) :
    Kept L s₀ (State.moveAway s e) := by
  unfold State.moveAway
  repeat' first
    | with_reducible assumption | exact List.Subset.trans (by decide) hL | with_reducible apply Kept.each
    | with_reducible apply Kept.startMove | split | intro _

theorem Kept.misplaced (h : Kept L s₀ s) (hL : [.regs, .pushes, .coll, .loops, .trl] ⊆ L) (l : ℕ) :
    Kept L s₀ (State.misplaced s l) := by
  unfold State.misplaced
  extract_lets y0 y1 y2 y3 y4
  try clear_value y0 y1 y2 y3 y4
  repeat' first
    | with_reducible assumption | exact List.Subset.trans (by decide) hL | with_reducible apply Kept.reportLoop
    | with_reducible apply Kept.setLoop | with_reducible apply Kept.startMove | with_reducible apply Kept.ite
    | with_reducible apply Kept.elim | split | intro _

theorem Kept.startGraft (h : Kept L s₀ s) (hL : [.regs, .pushes, .coll, .loops, .trl] ⊆ L) (set : List (ℕ × List Word)) :
    Kept L s₀ (State.startGraft s set) := by
  unfold State.startGraft
  extract_lets y0 y1 y2 y3
  try clear_value y0
  have gy1 : Kept L s₀ y1 := by
    unfold y1
    repeat' first
      | with_reducible assumption | exact List.Subset.trans (by decide) hL
      | ((with_reducible refine Touches.intro fun p hp => ?_); cases p <;> first | exact absurd (by decide) hp | (dsimp only [Part.Same]))
      | with_reducible apply Kept.cancelGraft | with_reducible apply Kept.each | with_reducible apply Kept.setLoop
      | with_reducible apply Kept.setWord | with_reducible apply Kept.wrB | with_reducible apply Kept.ite | split | intro _
      | refine Kept.mk_of [.trl] ?_ (List.Subset.trans (by decide) hL) ?_
  try clear_value y1
  have gy2 : Kept L s₀ y2 := by
    unfold y2
    repeat' first
      | with_reducible assumption | exact List.Subset.trans (by decide) hL
      | ((with_reducible refine Touches.intro fun p hp => ?_); cases p <;> first | exact absurd (by decide) hp | (dsimp only [Part.Same]))
      | with_reducible apply Kept.cancelGraft | with_reducible apply Kept.each | with_reducible apply Kept.setLoop
      | with_reducible apply Kept.setWord | with_reducible apply Kept.wrB | with_reducible apply Kept.ite | split | intro _
      | refine Kept.mk_of [.trl] ?_ (List.Subset.trans (by decide) hL) ?_
  try clear_value y2
  have gy3 : Kept L s₀ y3 := by
    unfold y3
    repeat' first
      | with_reducible assumption | exact List.Subset.trans (by decide) hL
      | ((with_reducible refine Touches.intro fun p hp => ?_); cases p <;> first | exact absurd (by decide) hp | (dsimp only [Part.Same]))
      | with_reducible apply Kept.cancelGraft | with_reducible apply Kept.each | with_reducible apply Kept.setLoop
      | with_reducible apply Kept.setWord | with_reducible apply Kept.wrB | with_reducible apply Kept.ite | split | intro _
      | refine Kept.mk_of [.trl] ?_ (List.Subset.trans (by decide) hL) ?_
  try clear_value y3
  repeat' first
    | with_reducible assumption | exact List.Subset.trans (by decide) hL
    | ((with_reducible refine Touches.intro fun p hp => ?_); cases p <;> first | exact absurd (by decide) hp | (dsimp only [Part.Same]))
    | with_reducible apply Kept.cancelGraft | with_reducible apply Kept.each | with_reducible apply Kept.setLoop
    | with_reducible apply Kept.setWord | with_reducible apply Kept.wrB | with_reducible apply Kept.ite | split | intro _
    | refine Kept.mk_of [.trl] ?_ (List.Subset.trans (by decide) hL) ?_

theorem Kept.graftVerified (h : Kept L s₀ s) (hL : [.regs, .pushes, .coll, .loops, .trl] ⊆ L) :
    Kept L s₀ (State.graftVerified s) := by
  unfold State.graftVerified
  repeat' first
    | with_reducible assumption | exact List.Subset.trans (by decide) hL | with_reducible apply Kept.cancelGraft
    | with_reducible apply Kept.wr | with_reducible apply Kept.ite | split | intro _

theorem Kept.graftTimeout (h : Kept L s₀ s) (hL : [.regs, .pushes, .coll, .loops, .trl] ⊆ L) :
    Kept L s₀ (State.graftTimeout s) := by
  unfold State.graftTimeout
  repeat' first
    | with_reducible assumption | exact List.Subset.trans (by decide) hL | with_reducible apply Kept.cancelGraft
    | with_reducible apply Kept.ite | split | intro _

theorem Kept.carryWords (h : Kept L s₀ s) (hL : [.mem, .chk] ⊆ L) (carry : ℕ) (old : ℕ) (new : ℕ) (oldSize : ℕ) :
    Kept L s₀ (State.carryWords s carry old new oldSize) := by
  unfold State.carryWords
  extract_lets y0
  try clear_value y0
  repeat' first
    | with_reducible assumption | exact List.Subset.trans (by decide) hL | with_reducible apply Kept.copyMem
    | with_reducible apply Kept.each | with_reducible apply Kept.putMwords | with_reducible apply Kept.ite | split | intro _

theorem Kept.swapLoop (h : Kept L s₀ s) (hL : [.regs, .pushes, .mem, .chk, .polders, .loops, .guards] ⊆ L) (l : ℕ) (x : LoopRec) (g : LoopGraft) :
    Kept L s₀ (State.swapLoop s l x g) := by
  unfold State.swapLoop
  extract_lets y0 y1 y2 y3 y4 y5 y6 y7 y8
  try clear_value y0 y1 y2 y3 y4 y5
  have gy6 : Kept L s₀ y6 := by
    unfold y6
    repeat' first
      | with_reducible assumption | exact List.Subset.trans (by decide) hL | with_reducible apply Kept.carryWords
      | with_reducible apply Kept.initState | with_reducible apply Kept.loadGuards
      | with_reducible apply Kept.replanFallbacks | with_reducible apply Kept.setLoop | with_reducible apply Kept.ite | split
      | intro _
  try clear_value y6
  have gy7 : Kept L s₀ y7 := by
    unfold y7
    repeat' first
      | with_reducible assumption | exact List.Subset.trans (by decide) hL | with_reducible apply Kept.carryWords
      | with_reducible apply Kept.initState | with_reducible apply Kept.loadGuards
      | with_reducible apply Kept.replanFallbacks | with_reducible apply Kept.setLoop | with_reducible apply Kept.ite | split
      | intro _
  try clear_value y7
  have gy8 : Kept L s₀ y8 := by
    unfold y8
    repeat' first
      | with_reducible assumption | exact List.Subset.trans (by decide) hL | with_reducible apply Kept.carryWords
      | with_reducible apply Kept.initState | with_reducible apply Kept.loadGuards
      | with_reducible apply Kept.replanFallbacks | with_reducible apply Kept.setLoop | with_reducible apply Kept.ite | split
      | intro _
  try clear_value y8
  repeat' first
    | with_reducible assumption | exact List.Subset.trans (by decide) hL | with_reducible apply Kept.carryWords
    | with_reducible apply Kept.initState | with_reducible apply Kept.loadGuards | with_reducible apply Kept.replanFallbacks
    | with_reducible apply Kept.setLoop | with_reducible apply Kept.ite | split | intro _

theorem Kept.graftSwap (h : Kept L s₀ s) (hL : [.regs, .pushes, .mem, .chk, .polders, .coll, .loops, .trl, .guards] ⊆ L) (l : ℕ) :
    Kept L s₀ (State.graftSwap s l) := by
  unfold State.graftSwap
  extract_lets y0 y1
  try clear_value y0 y1
  repeat' first
    | with_reducible assumption | exact List.Subset.trans (by decide) hL | with_reducible apply Kept.reportFab
    | with_reducible apply Kept.setGraftLoops | with_reducible apply Kept.setLoop | with_reducible apply Kept.swapLoop
    | with_reducible apply Kept.wr | with_reducible apply Kept.wrB | with_reducible apply Kept.ite | split | intro _

theorem Kept.commitPlacement (h : Kept L s₀ s) (hL : [.regs, .pushes, .mem, .chk, .polders, .coll, .loops, .trl, .guards] ⊆ L) :
    Kept L s₀ (State.commitPlacement s) := by
  unfold State.commitPlacement
  repeat' first
    | with_reducible assumption | exact List.Subset.trans (by decide) hL | with_reducible apply Kept.each
    | with_reducible apply Kept.placeOn | with_reducible apply Kept.resumeLoops | with_reducible apply Kept.startMove
    | with_reducible apply Kept.ite | split | intro _

theorem Kept.handleEvent (h : Kept L s₀ s) (hL : [.regs, .pushes, .mem, .chk, .polders, .coll, .engines, .loops, .trl, .guards] ⊆ L) (xx : PlaceEvent) :
    Kept L s₀ (State.handleEvent s xx) := by
  unfold State.handleEvent
  repeat' first
    | with_reducible assumption | exact List.Subset.trans (by decide) hL | with_reducible apply Kept.commitPlacement
    | with_reducible apply Kept.engineFault | with_reducible apply Kept.misplaced | with_reducible apply Kept.moveAway
    | with_reducible apply Kept.resumeLoops | split

theorem Kept.queueEvent (h : Kept L s₀ s) (hL : [.trl] ⊆ L) (x : PlaceEvent) :
    Kept L s₀ (State.queueEvent s x) := by
  unfold State.queueEvent
  extract_lets y0 y1 y2
  try clear_value y0 y1 y2
  repeat' first
    | with_reducible assumption | exact List.Subset.trans (by decide) hL
    | ((with_reducible refine Touches.intro fun p hp => ?_); cases p <;> first | exact absurd (by decide) hp | (dsimp only [Part.Same]))
    | with_reducible apply Kept.ite | split | intro _ | refine Kept.mk_of [.trl] ?_ (List.Subset.trans (by decide) hL) ?_

theorem Kept.afterEvent (h : Kept L s₀ s) (hL : [.regs, .pushes, .polders, .coll, .loops] ⊆ L) :
    Kept L s₀ (State.afterEvent s) := by
  unfold State.afterEvent
  repeat' first
    | with_reducible assumption | exact List.Subset.trans (by decide) hL | with_reducible apply Kept.judgeReserve
    | with_reducible apply Kept.replanFallbacks | with_reducible apply Kept.showLoads

theorem Kept.placementEvent (h : Kept L s₀ s) (hL : [.regs, .pushes, .mem, .chk, .polders, .coll, .engines, .loops, .trl, .guards] ⊆ L) :
    Kept L s₀ (State.placementEvent s) := by
  unfold State.placementEvent
  extract_lets y0
  try clear_value y0
  repeat' first
    | with_reducible assumption | exact List.Subset.trans (by decide) hL
    | ((with_reducible refine Touches.intro fun p hp => ?_); cases p <;> first | exact absurd (by decide) hp | (dsimp only [Part.Same]))
    | with_reducible apply Kept.afterEvent | with_reducible apply Kept.handleEvent | split
    | refine Kept.mk_of [.trl] ?_ (List.Subset.trans (by decide) hL) ?_

theorem Kept.faultMoves (h : Kept L s₀ s) (hL : [.regs, .pushes, .mem, .chk, .polders, .coll, .engines, .loops, .trl, .guards] ⊆ L) (e : ℕ) :
    Kept L s₀ (State.faultMoves s e) := by
  unfold State.faultMoves
  extract_lets y0
  try clear_value y0
  repeat' first
    | with_reducible assumption | exact List.Subset.trans (by decide) hL
    | ((with_reducible refine Touches.intro fun p hp => ?_); cases p <;> first | exact absurd (by decide) hp | (dsimp only [Part.Same]))
    | with_reducible apply Kept.afterEvent | with_reducible apply Kept.engineFault | with_reducible apply Kept.ite | split
    | intro _ | refine Kept.mk_of [.trl] ?_ (List.Subset.trans (by decide) hL) ?_

theorem Kept.reevaluate (h : Kept L s₀ s) (hL : [.regs, .pushes, .coll, .loops, .trl] ⊆ L) :
    Kept L s₀ (State.reevaluate s) := by
  unfold State.reevaluate
  extract_lets y0
  have gy0 : Kept L s₀ y0 := by
    unfold y0
    repeat' first
      | with_reducible assumption | exact List.Subset.trans (by decide) hL | with_reducible apply Kept.each
      | with_reducible apply Kept.judgeReserve | with_reducible apply Kept.showLoads | with_reducible apply Kept.startMove
      | with_reducible apply Kept.ite | split | intro _
  try clear_value y0
  repeat' first
    | with_reducible assumption | exact List.Subset.trans (by decide) hL | with_reducible apply Kept.each
    | with_reducible apply Kept.judgeReserve | with_reducible apply Kept.showLoads | with_reducible apply Kept.startMove
    | with_reducible apply Kept.ite | split | intro _

theorem Kept.balanceLoops (h : Kept L s₀ s) (hL : [.regs, .pushes, .coll, .loops, .trl] ⊆ L) :
    Kept L s₀ (State.balanceLoops s) := by
  unfold State.balanceLoops
  extract_lets y0 y1
  try clear_value y0 y1
  repeat' first
    | with_reducible assumption | exact List.Subset.trans (by decide) hL
    | ((with_reducible refine Touches.intro fun p hp => ?_); cases p <;> first | exact absurd (by decide) hp | (dsimp only [Part.Same]))
    | with_reducible apply Kept.startMove | with_reducible apply Kept.ite | with_reducible apply Kept.elim | split | intro _
    | extract_lets | refine Kept.mk_of [.trl] ?_ (List.Subset.trans (by decide) hL) ?_ | dsimp only

theorem Kept.imgResult (h : Kept L s₀ s) (hL : [.regs, .pushes] ⊆ L) (k : ℕ) (r : ℕ) :
    Kept L s₀ (State.imgResult s k r) := by
  unfold State.imgResult
  repeat' first
    | with_reducible assumption | exact List.Subset.trans (by decide) hL | with_reducible apply Kept.setWord

theorem Kept.markSlot (h : Kept L s₀ s) (hL : [.regs, .pushes] ⊆ L) (k : ℕ) (v : Bool) :
    Kept L s₀ (State.markSlot s k v) := by
  unfold State.markSlot
  extract_lets y0
  try clear_value y0
  repeat' first
    | with_reducible assumption | exact List.Subset.trans (by decide) hL | with_reducible apply Kept.setWord
    | with_reducible apply Kept.ite | split | intro _

theorem Kept.imgStore (h : Kept L s₀ s) (hL : [.regs, .pushes, .coll, .trl] ⊆ L) (k : ℕ) :
    Kept L s₀ (State.imgStore s k) := by
  unfold State.imgStore
  extract_lets y0 y1
  try clear_value y1
  have gy0 : Kept L s₀ y0 := by
    unfold y0
    repeat' first
      | with_reducible assumption | exact List.Subset.trans (by decide) hL
      | ((with_reducible refine Touches.intro fun p hp => ?_); cases p <;> first | exact absurd (by decide) hp | (dsimp only [Part.Same]))
      | with_reducible apply Kept.imgResult | with_reducible apply Kept.markSlot | with_reducible apply Kept.reportFab
      | with_reducible apply Kept.ite | split | intro _ | refine Kept.mk_of [.trl] ?_ (List.Subset.trans (by decide) hL) ?_
  try clear_value y0
  repeat' first
    | with_reducible assumption | exact List.Subset.trans (by decide) hL
    | ((with_reducible refine Touches.intro fun p hp => ?_); cases p <;> first | exact absurd (by decide) hp | (dsimp only [Part.Same]))
    | with_reducible apply Kept.imgResult | with_reducible apply Kept.markSlot | with_reducible apply Kept.reportFab
    | with_reducible apply Kept.ite | split | intro _ | refine Kept.mk_of [.trl] ?_ (List.Subset.trans (by decide) hL) ?_

theorem Kept.imgErase (h : Kept L s₀ s) (hL : [.regs, .pushes, .mem, .chk, .coll] ⊆ L) (k : ℕ) :
    Kept L s₀ (State.imgErase s k) := by
  unfold State.imgErase
  repeat' first
    | with_reducible assumption | exact List.Subset.trans (by decide) hL | with_reducible apply Kept.imgResult
    | with_reducible apply Kept.markSlot | with_reducible apply Kept.reportFab | with_reducible apply Kept.zeroMem
    | with_reducible apply Kept.ite | split | intro _

theorem Kept.imgStored (h : Kept L s₀ s) (hL : [.regs, .pushes, .mem, .chk, .coll, .trl] ⊆ L) (fail : ℕ) :
    Kept L s₀ (State.imgStored s fail) := by
  unfold State.imgStored
  extract_lets y0 y1
  try clear_value y0
  have gy1 : Kept L s₀ y1 := by
    unfold y1
    repeat' first
      | with_reducible assumption | exact List.Subset.trans (by decide) hL
      | ((with_reducible refine Touches.intro fun p hp => ?_); cases p <;> first | exact absurd (by decide) hp | (dsimp only [Part.Same]))
      | with_reducible apply Kept.copyMem | with_reducible apply Kept.imgResult | with_reducible apply Kept.markSlot
      | with_reducible apply Kept.reportFab | with_reducible apply Kept.ite | split | intro _
      | refine Kept.mk_of [.trl] ?_ (List.Subset.trans (by decide) hL) ?_
  try clear_value y1
  repeat' first
    | with_reducible assumption | exact List.Subset.trans (by decide) hL
    | ((with_reducible refine Touches.intro fun p hp => ?_); cases p <;> first | exact absurd (by decide) hp | (dsimp only [Part.Same]))
    | with_reducible apply Kept.copyMem | with_reducible apply Kept.imgResult | with_reducible apply Kept.markSlot
    | with_reducible apply Kept.reportFab | with_reducible apply Kept.ite | split | intro _
    | refine Kept.mk_of [.trl] ?_ (List.Subset.trans (by decide) hL) ?_

theorem Kept.imageLost (h : Kept L s₀ s) (hL : [.regs, .pushes, .mem, .chk, .polders, .coll, .engines, .loops, .trl, .guards] ⊆ L) (l : ℕ) :
    Kept L s₀ (State.imageLost s l) := by
  unfold State.imageLost
  extract_lets y0 y1 y2 y3
  try clear_value y0 y1 y2
  have gy3 : Kept L s₀ y3 := by
    unfold y3
    repeat' first
      | with_reducible assumption | exact List.Subset.trans (by decide) hL | with_reducible apply Kept.afterEvent
      | with_reducible apply Kept.faultMove | with_reducible apply Kept.graftMoved | with_reducible apply Kept.setEng
      | with_reducible apply Kept.setLoop | with_reducible apply Kept.strand | with_reducible apply Kept.ite | split
      | intro _
  try clear_value y3
  repeat' first
    | with_reducible assumption | exact List.Subset.trans (by decide) hL | with_reducible apply Kept.afterEvent
    | with_reducible apply Kept.faultMove | with_reducible apply Kept.graftMoved | with_reducible apply Kept.setEng
    | with_reducible apply Kept.setLoop | with_reducible apply Kept.strand | with_reducible apply Kept.ite | split | intro _

theorem Kept.snapshotLoop (h : Kept L s₀ s) (hL : [.engines] ⊆ L) (l : ℕ) :
    Kept L s₀ (State.snapshotLoop s l) := by
  unfold State.snapshotLoop
  extract_lets y0
  try clear_value y0
  repeat' first
    | with_reducible assumption | exact List.Subset.trans (by decide) hL | with_reducible apply Kept.setEng
    | with_reducible apply Kept.ite | split | intro _

theorem Kept.holdLoop (h : Kept L s₀ s) (hL : [.loops] ⊆ L) (l : ℕ) (on : Bool) :
    Kept L s₀ (State.holdLoop s l on) := by
  unfold State.holdLoop
  extract_lets y0
  try clear_value y0
  repeat' first
    | with_reducible assumption | exact List.Subset.trans (by decide) hL | with_reducible apply Kept.setLoop
    | with_reducible apply Kept.ite | split | intro _

end Sys2Proof.Machine
end

