-- ==== Sys2Proof/Laws/KeptAcquisition.lean ====
section
/-! SUPPORT. What the operations of Acquisition keep. -/

set_option linter.unusedTactic false
set_option linter.unreachableTactic false
set_option linter.unusedVariables false

namespace Sys2Proof.Machine

variable {L : List Part} {s₀ s : State}

theorem Kept.setConv (h : Kept L s₀ s) (hL : [.convs] ⊆ L) (n : ℕ) (c : Converter) :
    Kept L s₀ (State.setConv s n c) := by
  unfold State.setConv
  repeat' first
    | with_reducible assumption | exact List.Subset.trans (by decide) hL
    | ((with_reducible refine Touches.intro fun p hp => ?_); cases p <;> first | exact absurd (by decide) hp | (dsimp only [Part.Same]))
    | refine Kept.mk_of [.convs] ?_ (List.Subset.trans (by decide) hL) ?_

theorem Kept.showConv (h : Kept L s₀ s) (hL : [.regs, .pushes, .polders] ⊆ L) (n : ℕ) :
    Kept L s₀ (State.showConv s n) := by
  unfold State.showConv
  extract_lets y0 y1
  have gy0 : Kept L s₀ y0 := by
    unfold y0
    repeat' first
      | with_reducible assumption | exact List.Subset.trans (by decide) hL | with_reducible apply Kept.setBusy
      | with_reducible apply Kept.wrB
  try clear_value y0
  have gy1 : Kept L s₀ y1 := by
    unfold y1
    repeat' first
      | with_reducible assumption | exact List.Subset.trans (by decide) hL | with_reducible apply Kept.setBusy
      | with_reducible apply Kept.wrB
  try clear_value y1
  repeat' first
    | with_reducible assumption | exact List.Subset.trans (by decide) hL | with_reducible apply Kept.setBusy
    | with_reducible apply Kept.wrB

theorem Kept.hostMove (h : Kept L s₀ s) (hL : [.regs, .pushes, .polders, .coll, .convs] ⊆ L) (q : SeqId) (side : ℕ) :
    Kept L s₀ (State.hostMove s q side) := by
  unfold State.hostMove
  extract_lets y0 y1
  try clear_value y0
  have gy1 : Kept L s₀ y1 := by
    unfold y1
    repeat' first
      | with_reducible assumption | exact List.Subset.trans (by decide) hL | with_reducible apply Kept.reportTp
      | with_reducible apply Kept.setConv | with_reducible apply Kept.showConv | with_reducible apply Kept.ite | split
      | intro _
  try clear_value y1
  repeat' first
    | with_reducible assumption | exact List.Subset.trans (by decide) hL | with_reducible apply Kept.reportTp
    | with_reducible apply Kept.setConv | with_reducible apply Kept.showConv | with_reducible apply Kept.ite | split
    | intro _

theorem Kept.narrowCheck (h : Kept L s₀ s) (hL : [.regs, .pushes, .coll] ⊆ L) (ain : ℕ) (start : ℕ) (acq : ℕ) :
    Kept L s₀ (State.narrowCheck s ain start acq).2 := by
  unfold State.narrowCheck
  repeat' first
    | with_reducible assumption | exact List.Subset.trans (by decide) hL | with_reducible apply Kept.countFirst
    | with_reducible apply Kept.ite | with_reducible apply Kept.elim | split | intro _ | extract_lets | dsimp only

theorem Kept.refreshRecon (h : Kept L s₀ s) (hL : [.samples] ⊆ L) (ain : ℕ) (stamp : ℕ) :
    Kept L s₀ (State.refreshRecon s ain stamp) := by
  unfold State.refreshRecon
  repeat' first
    | with_reducible assumption | exact List.Subset.trans (by decide) hL | with_reducible apply Kept.setSample | split

theorem Kept.entryDelivered (h : Kept L s₀ s) (hL : [.regs, .pushes, .coll, .engines, .loops, .trl, .guards] ⊆ L) (r : SeqRun) (ain : ℕ) (end_ : ℕ) :
    Kept L s₀ (State.entryDelivered s r ain end_) := by
  unfold State.entryDelivered
  repeat' first
    | with_reducible assumption | exact List.Subset.trans (by decide) hL | with_reducible apply Kept.each
    | with_reducible apply Kept.fire | with_reducible apply Kept.setLoop | with_reducible apply Kept.ite | split | intro _

theorem Kept.deliverSample (h : Kept L s₀ s) (hL : [.regs, .pushes, .coll, .engines, .loops, .trl, .guards, .samples] ⊆ L) (r : SeqRun) (ain : ℕ) (hold : ℕ) (v : Word) (end_ : ℕ) :
    Kept L s₀ (State.deliverSample s r ain hold v end_) := by
  unfold State.deliverSample
  extract_lets y0 y1 y2
  try clear_value y0 y1
  have gy2 : Kept L s₀ y2 := by
    unfold y2
    repeat' first
      | with_reducible assumption | exact List.Subset.trans (by decide) hL | with_reducible apply Kept.entryDelivered
      | with_reducible apply Kept.refreshRecon | with_reducible apply Kept.setSample
  try clear_value y2
  repeat' first
    | with_reducible assumption | exact List.Subset.trans (by decide) hL | with_reducible apply Kept.entryDelivered
    | with_reducible apply Kept.refreshRecon | with_reducible apply Kept.setSample

theorem Kept.deliverPrediction (h : Kept L s₀ s) (hL : [.regs, .pushes, .coll, .engines, .loops, .trl, .guards, .samples] ⊆ L) (r : SeqRun) (ain : ℕ) (hold : ℕ) (end_ : ℕ) :
    Kept L s₀ (State.deliverPrediction s r ain hold end_) := by
  unfold State.deliverPrediction
  extract_lets y0 y1 y2 y3
  try clear_value y1 y2
  have gy0 : Kept L s₀ y0 := by
    unfold y0
    repeat' first
      | with_reducible assumption | exact List.Subset.trans (by decide) hL | with_reducible apply Kept.countFirst
      | with_reducible apply Kept.entryDelivered | with_reducible apply Kept.refreshRecon
      | with_reducible apply Kept.reportTp | with_reducible apply Kept.setSample | with_reducible apply Kept.ite | split
      | intro _
  try clear_value y0
  have gy3 : Kept L s₀ y3 := by
    unfold y3
    repeat' first
      | with_reducible assumption | exact List.Subset.trans (by decide) hL | with_reducible apply Kept.countFirst
      | with_reducible apply Kept.entryDelivered | with_reducible apply Kept.refreshRecon
      | with_reducible apply Kept.reportTp | with_reducible apply Kept.setSample | with_reducible apply Kept.ite | split
      | intro _
  try clear_value y3
  repeat' first
    | with_reducible assumption | exact List.Subset.trans (by decide) hL | with_reducible apply Kept.countFirst
    | with_reducible apply Kept.entryDelivered | with_reducible apply Kept.refreshRecon | with_reducible apply Kept.reportTp
    | with_reducible apply Kept.setSample | with_reducible apply Kept.ite | split | intro _

theorem Kept.predictRest (h : Kept L s₀ s) (hL : [.regs, .pushes, .coll, .engines, .loops, .trl, .guards, .samples] ⊆ L) (r : SeqRun) (start : ℕ) :
    Kept L s₀ (State.predictRest s r start) := by
  unfold State.predictRest
  extract_lets y0
  try clear_value y0
  repeat' first
    | with_reducible assumption | exact List.Subset.trans (by decide) hL | with_reducible apply Kept.deliverPrediction
    | with_reducible apply Kept.each | intro _

theorem Kept.startEntry (h : Kept L s₀ s) (hL : [.regs, .pushes, .coll, .convs] ⊆ L) (n : ℕ) (r : SeqRun) (start : ℕ) :
    Kept L s₀ (State.startEntry s n r start) := by
  unfold State.startEntry
  extract_lets y0 y1
  try clear_value y0 y1
  repeat' first
    | with_reducible assumption | exact List.Subset.trans (by decide) hL | with_reducible apply Kept.narrowCheck
    | with_reducible apply Kept.setConv | split

theorem Kept.powerConv (h : Kept L s₀ s) (hL : [.regs, .pushes, .convs] ⊆ L) (n : ℕ) (t : ℕ) :
    Kept L s₀ (State.powerConv s n t) := by
  unfold State.powerConv
  extract_lets y0
  try clear_value y0
  repeat' first
    | with_reducible assumption | exact List.Subset.trans (by decide) hL | with_reducible apply Kept.setConv
    | with_reducible apply Kept.wrB | with_reducible apply Kept.ite | split | intro _

theorem Kept.failInput (h : Kept L s₀ s) (hL : [.regs, .pushes, .coll] ⊆ L) (ain : ℕ) :
    Kept L s₀ (State.failInput s ain) := by
  unfold State.failInput
  repeat' first
    | with_reducible assumption | exact List.Subset.trans (by decide) hL | with_reducible apply Kept.orBits
    | with_reducible apply Kept.reportTp | with_reducible apply Kept.ite | split | intro _

theorem Kept.sequenceStart (h : Kept L s₀ s) (hL : [.regs, .pushes, .polders, .coll, .engines, .loops, .trl, .guards, .samples, .waitingSeqs, .convs] ⊆ L) (n : ℕ) :
    Kept L s₀ (State.sequenceStart s n) := by
  unfold State.sequenceStart
  extract_lets y0 y1 y2
  try clear_value y0
  have gy1 : Kept L s₀ y1 := by
    unfold y1
    repeat' first
      | with_reducible assumption | exact List.Subset.trans (by decide) hL
      | ((with_reducible refine Touches.intro fun p hp => ?_); cases p <;> first | exact absurd (by decide) hp | (dsimp only [Part.Same]))
      | with_reducible apply Kept.each | with_reducible apply Kept.failInput | with_reducible apply Kept.hostMove
      | with_reducible apply Kept.powerConv | with_reducible apply Kept.predictRest | with_reducible apply Kept.startEntry
      | with_reducible apply Kept.ite | split | intro _
      | refine Kept.mk_of [.waitingSeqs] ?_ (List.Subset.trans (by decide) hL) ?_
  try clear_value y1
  have gy2 : Kept L s₀ y2 := by
    unfold y2
    repeat' first
      | with_reducible assumption | exact List.Subset.trans (by decide) hL
      | ((with_reducible refine Touches.intro fun p hp => ?_); cases p <;> first | exact absurd (by decide) hp | (dsimp only [Part.Same]))
      | with_reducible apply Kept.each | with_reducible apply Kept.failInput | with_reducible apply Kept.hostMove
      | with_reducible apply Kept.powerConv | with_reducible apply Kept.predictRest | with_reducible apply Kept.startEntry
      | with_reducible apply Kept.ite | split | intro _
      | refine Kept.mk_of [.waitingSeqs] ?_ (List.Subset.trans (by decide) hL) ?_
  try clear_value y2
  repeat' first
    | with_reducible assumption | exact List.Subset.trans (by decide) hL
    | ((with_reducible refine Touches.intro fun p hp => ?_); cases p <;> first | exact absurd (by decide) hp | (dsimp only [Part.Same]))
    | with_reducible apply Kept.each | with_reducible apply Kept.failInput | with_reducible apply Kept.hostMove
    | with_reducible apply Kept.powerConv | with_reducible apply Kept.predictRest | with_reducible apply Kept.startEntry
    | with_reducible apply Kept.ite | split | intro _
    | refine Kept.mk_of [.waitingSeqs] ?_ (List.Subset.trans (by decide) hL) ?_

theorem Kept.abandonSeq (h : Kept L s₀ s) (hL : [.regs, .pushes, .coll, .engines, .loops, .trl, .guards, .samples, .waitingSeqs, .convs] ⊆ L) (n : ℕ) (k : ℕ) :
    Kept L s₀ (State.abandonSeq s n k) := by
  unfold State.abandonSeq
  extract_lets y0 y1
  try clear_value y0
  have gy1 : Kept L s₀ y1 := by
    unfold y1
    repeat' first
      | with_reducible assumption | exact List.Subset.trans (by decide) hL
      | ((with_reducible refine Touches.intro fun p hp => ?_); cases p <;> first | exact absurd (by decide) hp | (dsimp only [Part.Same]))
      | with_reducible apply Kept.countFirst | with_reducible apply Kept.predictRest | with_reducible apply Kept.setConv
      | with_reducible apply Kept.ite | with_reducible apply Kept.elim | split | intro _
      | refine Kept.mk_of [.waitingSeqs] ?_ (List.Subset.trans (by decide) hL) ?_
  try clear_value y1
  repeat' first
    | with_reducible assumption | exact List.Subset.trans (by decide) hL
    | ((with_reducible refine Touches.intro fun p hp => ?_); cases p <;> first | exact absurd (by decide) hp | (dsimp only [Part.Same]))
    | with_reducible apply Kept.countFirst | with_reducible apply Kept.predictRest | with_reducible apply Kept.setConv
    | with_reducible apply Kept.ite | with_reducible apply Kept.elim | split | intro _
    | refine Kept.mk_of [.waitingSeqs] ?_ (List.Subset.trans (by decide) hL) ?_

theorem Kept.awaitSets (h : Kept L s₀ s) (hL : [.loops] ⊆ L) (ev : SeqEvent) (covered : List ℕ → Bool) :
    Kept L s₀ (State.awaitSets s ev covered) := by
  unfold State.awaitSets
  repeat' first
    | with_reducible assumption | exact List.Subset.trans (by decide) hL | with_reducible apply Kept.each
    | with_reducible apply Kept.setLoop | with_reducible apply Kept.ite | split | intro _

theorem Kept.triggerSeqs (h : Kept L s₀ s) (hL : [.regs, .pushes, .coll, .engines, .loops, .trl, .guards, .samples, .waitingSeqs, .convs] ⊆ L) (qs : List SeqId) (soft : Bool) (ev : SeqEvent) (covered : List ℕ → Bool) :
    Kept L s₀ (State.triggerSeqs s qs soft ev covered) := by
  unfold State.triggerSeqs
  extract_lets y0 y1
  have gy0 : Kept L s₀ y0 := by
    unfold y0
    repeat' first
      | with_reducible assumption | exact List.Subset.trans (by decide) hL
      | ((with_reducible refine Touches.intro fun p hp => ?_); cases p <;> first | exact absurd (by decide) hp | (dsimp only [Part.Same]))
      | with_reducible apply Kept.abandonSeq | with_reducible apply Kept.awaitSets | with_reducible apply Kept.each | intro _
      | refine Kept.mk_of [.waitingSeqs] ?_ (List.Subset.trans (by decide) hL) ?_
  try clear_value y0
  have gy1 : Kept L s₀ y1 := by
    unfold y1
    repeat' first
      | with_reducible assumption | exact List.Subset.trans (by decide) hL
      | ((with_reducible refine Touches.intro fun p hp => ?_); cases p <;> first | exact absurd (by decide) hp | (dsimp only [Part.Same]))
      | with_reducible apply Kept.abandonSeq | with_reducible apply Kept.awaitSets | with_reducible apply Kept.each | intro _
      | refine Kept.mk_of [.waitingSeqs] ?_ (List.Subset.trans (by decide) hL) ?_
  try clear_value y1
  repeat' first
    | with_reducible assumption | exact List.Subset.trans (by decide) hL
    | ((with_reducible refine Touches.intro fun p hp => ?_); cases p <;> first | exact absurd (by decide) hp | (dsimp only [Part.Same]))
    | with_reducible apply Kept.abandonSeq | with_reducible apply Kept.awaitSets | with_reducible apply Kept.each | intro _
    | refine Kept.mk_of [.waitingSeqs] ?_ (List.Subset.trans (by decide) hL) ?_

theorem Kept.stageSequences (h : Kept L s₀ s) (hL : [.regs, .pushes, .coll, .engines, .loops, .trl, .guards, .samples, .waitingSeqs, .convs] ⊆ L) (st : ℕ) (ev : ℕ) :
    Kept L s₀ (State.stageSequences s st ev) := by
  unfold State.stageSequences
  repeat' first
    | with_reducible assumption | exact List.Subset.trans (by decide) hL | with_reducible apply Kept.triggerSeqs
    | with_reducible apply Kept.ite | split | intro _

theorem Kept.periodicSequences (h : Kept L s₀ s) (hL : [.regs, .pushes, .coll, .engines, .loops, .trl, .guards, .samples, .waitingSeqs, .convs] ⊆ L) (us : ℕ) :
    Kept L s₀ (State.periodicSequences s us) := by
  unfold State.periodicSequences
  repeat' first
    | with_reducible assumption | exact List.Subset.trans (by decide) hL | with_reducible apply Kept.triggerSeqs
    | with_reducible apply Kept.ite | split | intro _

theorem Kept.softwareSequences (h : Kept L s₀ s) (hL : [.regs, .pushes, .coll, .engines, .loops, .trl, .guards, .samples, .waitingSeqs, .convs] ⊆ L) (n : ℕ) (bits : ℕ) :
    Kept L s₀ (State.softwareSequences s n bits) := by
  unfold State.softwareSequences
  extract_lets y0
  try clear_value y0
  repeat' first
    | with_reducible assumption | exact List.Subset.trans (by decide) hL | with_reducible apply Kept.triggerSeqs

theorem Kept.startInjected (h : Kept L s₀ s) (hL : [.regs, .pushes, .convs] ⊆ L) (n : ℕ) (t : ℕ) :
    Kept L s₀ (State.startInjected s n t) := by
  unfold State.startInjected
  extract_lets y0 y1 y2
  try clear_value y0 y2
  have gy1 : Kept L s₀ y1 := by
    unfold y1
    repeat' first
      | with_reducible assumption | exact List.Subset.trans (by decide) hL | with_reducible apply Kept.powerConv
      | with_reducible apply Kept.setConv | split
  try clear_value y1
  repeat' first
    | with_reducible assumption | exact List.Subset.trans (by decide) hL | with_reducible apply Kept.powerConv
    | with_reducible apply Kept.setConv | split

theorem Kept.injectedRequest (h : Kept L s₀ s) (hL : [.regs, .pushes, .coll, .convs] ⊆ L) (n : ℕ) (ain : ℕ) :
    Kept L s₀ (State.injectedRequest s n ain) := by
  unfold State.injectedRequest
  extract_lets y0 y1
  try clear_value y0
  have gy1 : Kept L s₀ y1 := by
    unfold y1
    repeat' first
      | with_reducible assumption | exact List.Subset.trans (by decide) hL | with_reducible apply Kept.countFirst
      | with_reducible apply Kept.setConv | with_reducible apply Kept.startInjected | with_reducible apply Kept.wrB
      | with_reducible apply Kept.ite | split | intro _
  try clear_value y1
  repeat' first
    | with_reducible assumption | exact List.Subset.trans (by decide) hL | with_reducible apply Kept.countFirst
    | with_reducible apply Kept.setConv | with_reducible apply Kept.startInjected | with_reducible apply Kept.wrB
    | with_reducible apply Kept.ite | split | intro _

theorem Kept.injectedEnd (h : Kept L s₀ s) (hL : [.regs, .pushes, .coll, .convs] ⊆ L) (n : ℕ) (sl : Slot) (ain : ℕ) (code : ℕ) :
    Kept L s₀ (State.injectedEnd s n sl ain code) := by
  unfold State.injectedEnd
  extract_lets y0 y1 y2 y3 y4 y5 y6
  try clear_value y0 y4 y5
  have gy1 : Kept L s₀ y1 := by
    unfold y1
    repeat' first
      | with_reducible assumption | exact List.Subset.trans (by decide) hL | with_reducible apply Kept.setConv
      | with_reducible apply Kept.setWord | with_reducible apply Kept.startEntry | with_reducible apply Kept.wr
      | with_reducible apply Kept.wrB | with_reducible apply Kept.wrStamp | split
  try clear_value y1
  have gy2 : Kept L s₀ y2 := by
    unfold y2
    repeat' first
      | with_reducible assumption | exact List.Subset.trans (by decide) hL | with_reducible apply Kept.setConv
      | with_reducible apply Kept.setWord | with_reducible apply Kept.startEntry | with_reducible apply Kept.wr
      | with_reducible apply Kept.wrB | with_reducible apply Kept.wrStamp | split
  try clear_value y2
  have gy3 : Kept L s₀ y3 := by
    unfold y3
    repeat' first
      | with_reducible assumption | exact List.Subset.trans (by decide) hL | with_reducible apply Kept.setConv
      | with_reducible apply Kept.setWord | with_reducible apply Kept.startEntry | with_reducible apply Kept.wr
      | with_reducible apply Kept.wrB | with_reducible apply Kept.wrStamp | split
  try clear_value y3
  have gy6 : Kept L s₀ y6 := by
    unfold y6
    repeat' first
      | with_reducible assumption | exact List.Subset.trans (by decide) hL | with_reducible apply Kept.setConv
      | with_reducible apply Kept.setWord | with_reducible apply Kept.startEntry | with_reducible apply Kept.wr
      | with_reducible apply Kept.wrB | with_reducible apply Kept.wrStamp | split
  try clear_value y6
  repeat' first
    | with_reducible assumption | exact List.Subset.trans (by decide) hL | with_reducible apply Kept.setConv
    | with_reducible apply Kept.setWord | with_reducible apply Kept.startEntry | with_reducible apply Kept.wr
    | with_reducible apply Kept.wrB | with_reducible apply Kept.wrStamp | split

theorem Kept.entryEnd (h : Kept L s₀ s) (hL : [.regs, .pushes, .coll, .engines, .loops, .trl, .guards, .samples, .convs] ⊆ L) (n : ℕ) (sl : Slot) (ain : ℕ) (code : ℕ) (skip : Bool) :
    Kept L s₀ (State.entryEnd s n sl ain code skip) := by
  unfold State.entryEnd
  extract_lets y0 y1 y2
  try clear_value y0 y1
  have gy2 : Kept L s₀ y2 := by
    unfold y2
    repeat' first
      | with_reducible assumption | exact List.Subset.trans (by decide) hL | with_reducible apply Kept.deliverPrediction
      | with_reducible apply Kept.deliverSample | with_reducible apply Kept.setConv | with_reducible apply Kept.startEntry
      | with_reducible apply Kept.ite | split | intro _
  try clear_value y2
  repeat' first
    | with_reducible assumption | exact List.Subset.trans (by decide) hL | with_reducible apply Kept.deliverPrediction
    | with_reducible apply Kept.deliverSample | with_reducible apply Kept.setConv | with_reducible apply Kept.startEntry
    | with_reducible apply Kept.ite | split | intro _

theorem Kept.conversionComplete (h : Kept L s₀ s) (hL : [.regs, .pushes, .coll, .engines, .loops, .trl, .guards, .samples, .convs] ⊆ L) (n : ℕ) (code : ℕ) :
    Kept L s₀ (State.conversionComplete s n code) := by
  unfold State.conversionComplete
  repeat' first
    | with_reducible assumption | exact List.Subset.trans (by decide) hL | with_reducible apply Kept.entryEnd
    | with_reducible apply Kept.injectedEnd | with_reducible apply Kept.ite | split | intro _

theorem Kept.freezeScales (h : Kept L s₀ s) (hL : [.convs] ⊆ L) :
    Kept L s₀ (State.freezeScales s) := by
  unfold State.freezeScales
  repeat' first
    | with_reducible assumption | exact List.Subset.trans (by decide) hL | with_reducible apply Kept.each
    | with_reducible apply Kept.setConv | with_reducible apply Kept.ite | split | intro _

theorem Kept.converterDown (h : Kept L s₀ s) (hL : [.regs, .pushes] ⊆ L) (n : ℕ) :
    Kept L s₀ (State.converterDown s n) := by
  unfold State.converterDown
  extract_lets y0
  try clear_value y0
  repeat' first
    | with_reducible assumption | exact List.Subset.trans (by decide) hL | with_reducible apply Kept.wrB
    | with_reducible apply Kept.ite | split | intro _

theorem Kept.converterWake (h : Kept L s₀ s) (hL : [.regs, .pushes, .convs] ⊆ L) (n : ℕ) :
    Kept L s₀ (State.converterWake s n) := by
  unfold State.converterWake
  repeat' first
    | with_reducible assumption | exact List.Subset.trans (by decide) hL | with_reducible apply Kept.powerConv
    | with_reducible apply Kept.ite | split | intro _

theorem Kept.calRequest (h : Kept L s₀ s) (hL : [.regs, .pushes, .convs] ⊆ L) (n : ℕ) :
    Kept L s₀ (State.calRequest s n) := by
  unfold State.calRequest
  extract_lets y0
  try clear_value y0
  repeat' first
    | with_reducible assumption | exact List.Subset.trans (by decide) hL | with_reducible apply Kept.setConv
    | with_reducible apply Kept.wrB | with_reducible apply Kept.ite | split | intro _

theorem Kept.calAuto (h : Kept L s₀ s) (hL : [.regs, .pushes, .convs] ⊆ L) (n : ℕ) :
    Kept L s₀ (State.calAuto s n) := by
  unfold State.calAuto
  extract_lets y0 y1
  try clear_value y0 y1
  repeat' first
    | with_reducible assumption | exact List.Subset.trans (by decide) hL | with_reducible apply Kept.calRequest
    | with_reducible apply Kept.setConv | with_reducible apply Kept.ite | split | intro _

theorem Kept.calStart (h : Kept L s₀ s) (hL : [.regs, .pushes, .convs] ⊆ L) (n : ℕ) :
    Kept L s₀ (State.calStart s n) := by
  unfold State.calStart
  extract_lets y0 y1 y2 y3 y4 y5
  try clear_value y0 y1 y4
  have gy3 : Kept L s₀ y3 := by
    unfold y3
    repeat' first
      | with_reducible assumption | exact List.Subset.trans (by decide) hL | with_reducible apply Kept.powerConv
      | with_reducible apply Kept.setConv | with_reducible apply Kept.wrB | with_reducible apply Kept.ite | split | intro _
  try clear_value y3
  have gy5 : Kept L s₀ y5 := by
    unfold y5
    repeat' first
      | with_reducible assumption | exact List.Subset.trans (by decide) hL | with_reducible apply Kept.powerConv
      | with_reducible apply Kept.setConv | with_reducible apply Kept.wrB | with_reducible apply Kept.ite | split | intro _
  try clear_value y5
  repeat' first
    | with_reducible assumption | exact List.Subset.trans (by decide) hL | with_reducible apply Kept.powerConv
    | with_reducible apply Kept.setConv | with_reducible apply Kept.wrB | with_reducible apply Kept.ite | split | intro _

theorem Kept.converterLost (h : Kept L s₀ s) (hL : [.regs, .pushes, .coll, .engines, .loops, .trl, .guards, .samples, .convs] ⊆ L) (n : ℕ) :
    Kept L s₀ (State.converterLost s n) := by
  unfold State.converterLost
  extract_lets y0 y1 y2 y3
  try clear_value y0 y1
  have gy2 : Kept L s₀ y2 := by
    unfold y2
    repeat' first
      | with_reducible assumption | exact List.Subset.trans (by decide) hL | with_reducible apply Kept.predictRest
      | with_reducible apply Kept.setConv | with_reducible apply Kept.wrB | with_reducible apply Kept.elim | split
  try clear_value y2
  have gy3 : Kept L s₀ y3 := by
    unfold y3
    repeat' first
      | with_reducible assumption | exact List.Subset.trans (by decide) hL | with_reducible apply Kept.predictRest
      | with_reducible apply Kept.setConv | with_reducible apply Kept.wrB | with_reducible apply Kept.elim | split
  try clear_value y3
  repeat' first
    | with_reducible assumption | exact List.Subset.trans (by decide) hL | with_reducible apply Kept.predictRest
    | with_reducible apply Kept.setConv | with_reducible apply Kept.wrB | with_reducible apply Kept.elim | split

theorem Kept.calComplete (h : Kept L s₀ s) (hL : [.regs, .pushes, .polders, .drainQ, .coll, .engines, .loops, .trl, .guards, .samples, .convs] ⊆ L) (n : ℕ) (good : Bool) :
    Kept L s₀ (State.calComplete s n good) := by
  unfold State.calComplete
  extract_lets y0 y1
  try clear_value y0 y1
  repeat' first
    | with_reducible assumption | exact List.Subset.trans (by decide) hL | with_reducible apply Kept.converterLost
    | with_reducible apply Kept.failPolder | with_reducible apply Kept.reportTp | with_reducible apply Kept.setConv
    | with_reducible apply Kept.startInjected | with_reducible apply Kept.wr | with_reducible apply Kept.wrB
    | with_reducible apply Kept.ite | split | intro _

theorem Kept.calAbandon (h : Kept L s₀ s) (hL : [.regs, .pushes, .coll, .convs] ⊆ L) (n : ℕ) :
    Kept L s₀ (State.calAbandon s n) := by
  unfold State.calAbandon
  extract_lets y0 y1
  try clear_value y0
  have gy1 : Kept L s₀ y1 := by
    unfold y1
    repeat' first
      | with_reducible assumption | exact List.Subset.trans (by decide) hL | with_reducible apply Kept.reportTp
      | with_reducible apply Kept.setConv | with_reducible apply Kept.wr | with_reducible apply Kept.wrB
      | with_reducible apply Kept.ite | split | intro _
  try clear_value y1
  repeat' first
    | with_reducible assumption | exact List.Subset.trans (by decide) hL | with_reducible apply Kept.reportTp
    | with_reducible apply Kept.setConv | with_reducible apply Kept.wr | with_reducible apply Kept.wrB
    | with_reducible apply Kept.ite | split | intro _

theorem Kept.tdacAuto (h : Kept L s₀ s) (hL : [.tdac] ⊆ L) (n : ℕ) :
    Kept L s₀ (State.tdacAuto s n) := by
  unfold State.tdacAuto
  extract_lets y0 y1 y2 y3
  try clear_value y0 y1 y2 y3
  repeat' first
    | with_reducible assumption | exact List.Subset.trans (by decide) hL
    | ((with_reducible refine Touches.intro fun p hp => ?_); cases p <;> first | exact absurd (by decide) hp | (dsimp only [Part.Same]))
    | with_reducible apply Kept.ite | split | intro _ | refine Kept.mk_of [.tdac] ?_ (List.Subset.trans (by decide) hL) ?_

theorem Kept.tdacResult (h : Kept L s₀ s) (hL : [.regs, .pushes] ⊆ L) (pos : ℕ) (pin : Bool) (result : ℕ) :
    Kept L s₀ (State.tdacResult s pos pin result) := by
  unfold State.tdacResult
  repeat' first
    | with_reducible assumption | exact List.Subset.trans (by decide) hL | with_reducible apply Kept.wr
    | with_reducible apply Kept.wrB

theorem Kept.tdacRequest (h : Kept L s₀ s) (hL : [.regs, .pushes, .tdac] ⊆ L) (pos : ℕ) (pin : Bool) :
    Kept L s₀ (State.tdacRequest s pos pin) := by
  unfold State.tdacRequest
  extract_lets y0
  try clear_value y0
  repeat' first
    | with_reducible assumption | exact List.Subset.trans (by decide) hL
    | ((with_reducible refine Touches.intro fun p hp => ?_); cases p <;> first | exact absurd (by decide) hp | (dsimp only [Part.Same]))
    | with_reducible apply Kept.tdacResult | with_reducible apply Kept.ite | split | intro _
    | refine Kept.mk_of [.tdac] ?_ (List.Subset.trans (by decide) hL) ?_

theorem Kept.tdacFails (h : Kept L s₀ s) (hL : [.regs, .pushes, .coll, .tdac] ⊆ L) (pos : ℕ) (pin : Bool) :
    Kept L s₀ (State.tdacFails s pos pin) := by
  unfold State.tdacFails
  extract_lets y0 y1 y2 y3 y4
  try clear_value y0 y1 y2 y3
  have gy4 : Kept L s₀ y4 := by
    unfold y4
    repeat' first
      | with_reducible assumption | exact List.Subset.trans (by decide) hL
      | ((with_reducible refine Touches.intro fun p hp => ?_); cases p <;> first | exact absurd (by decide) hp | (dsimp only [Part.Same]))
      | with_reducible apply Kept.failInput | with_reducible apply Kept.orBits | with_reducible apply Kept.reportTp
      | with_reducible apply Kept.ite | split | intro _ | refine Kept.mk_of [.tdac] ?_ (List.Subset.trans (by decide) hL) ?_
  try clear_value y4
  repeat' first
    | with_reducible assumption | exact List.Subset.trans (by decide) hL
    | ((with_reducible refine Touches.intro fun p hp => ?_); cases p <;> first | exact absurd (by decide) hp | (dsimp only [Part.Same]))
    | with_reducible apply Kept.failInput | with_reducible apply Kept.orBits | with_reducible apply Kept.reportTp
    | with_reducible apply Kept.ite | split | intro _ | refine Kept.mk_of [.tdac] ?_ (List.Subset.trans (by decide) hL) ?_

theorem Kept.tdacComplete (h : Kept L s₀ s) (hL : [.regs, .pushes, .coll, .tdac] ⊆ L) (n : ℕ) (code : ℕ) (low : ℕ) :
    Kept L s₀ (State.tdacComplete s n code low) := by
  unfold State.tdacComplete
  extract_lets y0 y1 y2
  try clear_value y0 y1 y2
  repeat' first
    | with_reducible assumption | exact List.Subset.trans (by decide) hL
    | ((with_reducible refine Touches.intro fun p hp => ?_); cases p <;> first | exact absurd (by decide) hp | (dsimp only [Part.Same]))
    | with_reducible apply Kept.count | with_reducible apply Kept.tdacFails | with_reducible apply Kept.tdacResult
    | with_reducible apply Kept.wr | with_reducible apply Kept.wrB | with_reducible apply Kept.ite | split | intro _
    | refine Kept.mk_of [.tdac] ?_ (List.Subset.trans (by decide) hL) ?_

theorem Kept.converterTested (h : Kept L s₀ s) (hL : [.regs, .pushes, .polders, .tdac] ⊆ L) (n : ℕ) :
    Kept L s₀ (State.converterTested s n) := by
  unfold State.converterTested
  extract_lets y0 y1 y2 y3
  try clear_value y1
  have gy0 : Kept L s₀ y0 := by
    unfold y0
    repeat' first
      | with_reducible assumption | exact List.Subset.trans (by decide) hL
      | ((with_reducible refine Touches.intro fun p hp => ?_); cases p <;> first | exact absurd (by decide) hp | (dsimp only [Part.Same]))
      | with_reducible apply Kept.each | with_reducible apply Kept.showConv | with_reducible apply Kept.wr
      | with_reducible apply Kept.ite | split | intro _ | refine Kept.mk_of [.tdac] ?_ (List.Subset.trans (by decide) hL) ?_
  try clear_value y0
  have gy2 : Kept L s₀ y2 := by
    unfold y2
    repeat' first
      | with_reducible assumption | exact List.Subset.trans (by decide) hL
      | ((with_reducible refine Touches.intro fun p hp => ?_); cases p <;> first | exact absurd (by decide) hp | (dsimp only [Part.Same]))
      | with_reducible apply Kept.each | with_reducible apply Kept.showConv | with_reducible apply Kept.wr
      | with_reducible apply Kept.ite | split | intro _ | refine Kept.mk_of [.tdac] ?_ (List.Subset.trans (by decide) hL) ?_
  try clear_value y2
  have gy3 : Kept L s₀ y3 := by
    unfold y3
    repeat' first
      | with_reducible assumption | exact List.Subset.trans (by decide) hL
      | ((with_reducible refine Touches.intro fun p hp => ?_); cases p <;> first | exact absurd (by decide) hp | (dsimp only [Part.Same]))
      | with_reducible apply Kept.each | with_reducible apply Kept.showConv | with_reducible apply Kept.wr
      | with_reducible apply Kept.ite | split | intro _ | refine Kept.mk_of [.tdac] ?_ (List.Subset.trans (by decide) hL) ?_
  try clear_value y3
  repeat' first
    | with_reducible assumption | exact List.Subset.trans (by decide) hL
    | ((with_reducible refine Touches.intro fun p hp => ?_); cases p <;> first | exact absurd (by decide) hp | (dsimp only [Part.Same]))
    | with_reducible apply Kept.each | with_reducible apply Kept.showConv | with_reducible apply Kept.wr
    | with_reducible apply Kept.ite | split | intro _ | refine Kept.mk_of [.tdac] ?_ (List.Subset.trans (by decide) hL) ?_

end Sys2Proof.Machine
end

