-- ==== Sys2Proof/Laws/KeptSensing.lean ====
section
/-! SUPPORT. What the operations of Sensing keep. -/

set_option linter.unusedTactic false
set_option linter.unreachableTactic false
set_option linter.unusedVariables false

namespace Sys2Proof.Machine

variable {L : List Part} {s₀ s : State}

theorem Kept.sdOutput (h : Kept L s₀ s) (hL : [.regs, .pushes, .coll, .samples] ⊆ L) (ch : ℕ) (v : Word) :
    Kept L s₀ (State.sdOutput s ch v) := by
  unfold State.sdOutput
  extract_lets y0 y1 y2 y3 y4 y5
  try clear_value y0 y1 y3 y4
  have gy2 : Kept L s₀ y2 := by
    unfold y2
    repeat' first
      | with_reducible assumption | exact List.Subset.trans (by decide) hL | with_reducible apply Kept.reportTp
      | with_reducible apply Kept.setSample | with_reducible apply Kept.wr | with_reducible apply Kept.ite | split | intro _
  try clear_value y2
  have gy5 : Kept L s₀ y5 := by
    unfold y5
    repeat' first
      | with_reducible assumption | exact List.Subset.trans (by decide) hL | with_reducible apply Kept.reportTp
      | with_reducible apply Kept.setSample | with_reducible apply Kept.wr | with_reducible apply Kept.ite | split | intro _
  try clear_value y5
  repeat' first
    | with_reducible assumption | exact List.Subset.trans (by decide) hL | with_reducible apply Kept.reportTp
    | with_reducible apply Kept.setSample | with_reducible apply Kept.wr | with_reducible apply Kept.ite | split | intro _

theorem Kept.sdStuck (h : Kept L s₀ s) (hL : [.regs, .pushes, .coll, .guards, .chans, .stages, .samples, .sto] ⊆ L) (ch : ℕ) :
    Kept L s₀ (State.sdStuck s ch) := by
  unfold State.sdStuck
  extract_lets y0 y1
  try clear_value y0
  have gy1 : Kept L s₀ y1 := by
    unfold y1
    repeat' first
      | with_reducible assumption | exact List.Subset.trans (by decide) hL | with_reducible apply Kept.fastDetection
      | with_reducible apply Kept.orBits | with_reducible apply Kept.reportTp | with_reducible apply Kept.setSample
      | with_reducible apply Kept.ite | split | intro _
  try clear_value y1
  repeat' first
    | with_reducible assumption | exact List.Subset.trans (by decide) hL | with_reducible apply Kept.fastDetection
    | with_reducible apply Kept.orBits | with_reducible apply Kept.reportTp | with_reducible apply Kept.setSample
    | with_reducible apply Kept.ite | split | intro _

theorem Kept.setResolver (h : Kept L s₀ s) (hL : [.resolvers] ⊆ L) (n : ℕ) (r : Resolver) :
    Kept L s₀ (State.setResolver s n r) := by
  unfold State.setResolver
  repeat' first
    | with_reducible assumption | exact List.Subset.trans (by decide) hL
    | ((with_reducible refine Touches.intro fun p hp => ?_); cases p <;> first | exact absurd (by decide) hp | (dsimp only [Part.Same]))
    | refine Kept.mk_of [.resolvers] ?_ (List.Subset.trans (by decide) hL) ?_

theorem Kept.rdFlag (h : Kept L s₀ s) (hL : [.regs, .pushes, .coll] ⊆ L) (n : ℕ) (f : Field) (code : ℕ) (bad : ℕ) (good : ℕ) :
    Kept L s₀ (State.rdFlag s n f code bad good) := by
  unfold State.rdFlag
  repeat' first
    | with_reducible assumption | exact List.Subset.trans (by decide) hL | with_reducible apply Kept.reportTp
    | with_reducible apply Kept.wrB | with_reducible apply Kept.ite | split | intro _

theorem Kept.rdLocked (h : Kept L s₀ s) (hL : [.regs, .pushes] ⊆ L) (n : ℕ) :
    Kept L s₀ (State.rdLocked s n) := by
  unfold State.rdLocked
  repeat' first
    | with_reducible assumption | exact List.Subset.trans (by decide) hL | with_reducible apply Kept.wrB

theorem Kept.rdDeliver (h : Kept L s₀ s) (hL : [.samples] ⊆ L) (n : ℕ) :
    Kept L s₀ (State.rdDeliver s n) := by
  unfold State.rdDeliver
  extract_lets y0 y1 y2
  try clear_value y0 y2
  repeat' first
    | with_reducible assumption | exact List.Subset.trans (by decide) hL | with_reducible apply Kept.setSample

theorem Kept.rdDemodulate (h : Kept L s₀ s) (hL : [.regs, .pushes, .coll, .samples, .resolvers] ⊆ L) (n : ℕ) (angle : ℕ) (speed : Word) (phase : ℕ) (amp : Word) (err : Word) :
    Kept L s₀ (State.rdDemodulate s n angle speed phase amp err) := by
  unfold State.rdDemodulate
  extract_lets y0 y1 y2 y3 y4 y5 y6 y7 y8 y9 y10 y11
  try clear_value y0 y1 y2 y3 y4 y5
  have gy6 : Kept L s₀ y6 := by
    unfold y6
    repeat' first
      | with_reducible assumption | exact List.Subset.trans (by decide) hL | with_reducible apply Kept.rdDeliver
      | with_reducible apply Kept.rdFlag | with_reducible apply Kept.rdLocked | with_reducible apply Kept.setResolver
      | with_reducible apply Kept.setWord | with_reducible apply Kept.wr | with_reducible apply Kept.ite | split | intro _
  try clear_value y6
  have gy7 : Kept L s₀ y7 := by
    unfold y7
    repeat' first
      | with_reducible assumption | exact List.Subset.trans (by decide) hL | with_reducible apply Kept.rdDeliver
      | with_reducible apply Kept.rdFlag | with_reducible apply Kept.rdLocked | with_reducible apply Kept.setResolver
      | with_reducible apply Kept.setWord | with_reducible apply Kept.wr | with_reducible apply Kept.ite | split | intro _
  try clear_value y7
  have gy8 : Kept L s₀ y8 := by
    unfold y8
    repeat' first
      | with_reducible assumption | exact List.Subset.trans (by decide) hL | with_reducible apply Kept.rdDeliver
      | with_reducible apply Kept.rdFlag | with_reducible apply Kept.rdLocked | with_reducible apply Kept.setResolver
      | with_reducible apply Kept.setWord | with_reducible apply Kept.wr | with_reducible apply Kept.ite | split | intro _
  try clear_value y8
  have gy9 : Kept L s₀ y9 := by
    unfold y9
    repeat' first
      | with_reducible assumption | exact List.Subset.trans (by decide) hL | with_reducible apply Kept.rdDeliver
      | with_reducible apply Kept.rdFlag | with_reducible apply Kept.rdLocked | with_reducible apply Kept.setResolver
      | with_reducible apply Kept.setWord | with_reducible apply Kept.wr | with_reducible apply Kept.ite | split | intro _
  try clear_value y9
  have gy10 : Kept L s₀ y10 := by
    unfold y10
    repeat' first
      | with_reducible assumption | exact List.Subset.trans (by decide) hL | with_reducible apply Kept.rdDeliver
      | with_reducible apply Kept.rdFlag | with_reducible apply Kept.rdLocked | with_reducible apply Kept.setResolver
      | with_reducible apply Kept.setWord | with_reducible apply Kept.wr | with_reducible apply Kept.ite | split | intro _
  try clear_value y10
  have gy11 : Kept L s₀ y11 := by
    unfold y11
    repeat' first
      | with_reducible assumption | exact List.Subset.trans (by decide) hL | with_reducible apply Kept.rdDeliver
      | with_reducible apply Kept.rdFlag | with_reducible apply Kept.rdLocked | with_reducible apply Kept.setResolver
      | with_reducible apply Kept.setWord | with_reducible apply Kept.wr | with_reducible apply Kept.ite | split | intro _
  try clear_value y11
  repeat' first
    | with_reducible assumption | exact List.Subset.trans (by decide) hL | with_reducible apply Kept.rdDeliver
    | with_reducible apply Kept.rdFlag | with_reducible apply Kept.rdLocked | with_reducible apply Kept.setResolver
    | with_reducible apply Kept.setWord | with_reducible apply Kept.wr | with_reducible apply Kept.ite | split | intro _

theorem Kept.rdRestart (h : Kept L s₀ s) (hL : [.regs, .pushes, .resolvers] ⊆ L) (n : ℕ) :
    Kept L s₀ (State.rdRestart s n) := by
  unfold State.rdRestart
  extract_lets y0
  try clear_value y0
  repeat' first
    | with_reducible assumption | exact List.Subset.trans (by decide) hL | with_reducible apply Kept.setResolver
    | with_reducible apply Kept.wrB

theorem Kept.encDeliver (h : Kept L s₀ s) (hL : [.samples] ⊆ L) (stamp : ℕ) :
    Kept L s₀ (State.encDeliver s stamp) := by
  unfold State.encDeliver
  extract_lets y0 y1 y2 y3 y4
  try clear_value y0 y1 y2 y3
  repeat' first
    | with_reducible assumption | exact List.Subset.trans (by decide) hL | with_reducible apply Kept.setSample
    | with_reducible apply Kept.ite | split | intro _

theorem Kept.encStep (h : Kept L s₀ s) (hL : [.regs, .pushes, .samples, .enc] ⊆ L) (up : Bool) (t : ℕ) :
    Kept L s₀ (State.encStep s up t) := by
  unfold State.encStep
  extract_lets y0 y1 y2 y3 y4 y5 y6
  try clear_value y0 y1 y2 y4 y6
  have gy3 : Kept L s₀ y3 := by
    unfold y3
    repeat' first
      | with_reducible assumption | exact List.Subset.trans (by decide) hL
      | ((with_reducible refine Touches.intro fun p hp => ?_); cases p <;> first | exact absurd (by decide) hp | (dsimp only [Part.Same]))
      | with_reducible apply Kept.setSample | with_reducible apply Kept.setWord | with_reducible apply Kept.wrB
      | with_reducible apply Kept.ite | split | intro _ | refine Kept.mk_of [.enc] ?_ (List.Subset.trans (by decide) hL) ?_
  try clear_value y3
  have gy5 : Kept L s₀ y5 := by
    unfold y5
    repeat' first
      | with_reducible assumption | exact List.Subset.trans (by decide) hL
      | ((with_reducible refine Touches.intro fun p hp => ?_); cases p <;> first | exact absurd (by decide) hp | (dsimp only [Part.Same]))
      | with_reducible apply Kept.setSample | with_reducible apply Kept.setWord | with_reducible apply Kept.wrB
      | with_reducible apply Kept.ite | split | intro _ | refine Kept.mk_of [.enc] ?_ (List.Subset.trans (by decide) hL) ?_
  try clear_value y5
  repeat' first
    | with_reducible assumption | exact List.Subset.trans (by decide) hL
    | ((with_reducible refine Touches.intro fun p hp => ?_); cases p <;> first | exact absurd (by decide) hp | (dsimp only [Part.Same]))
    | with_reducible apply Kept.setSample | with_reducible apply Kept.setWord | with_reducible apply Kept.wrB
    | with_reducible apply Kept.ite | split | intro _ | refine Kept.mk_of [.enc] ?_ (List.Subset.trans (by decide) hL) ?_

theorem Kept.encInvalid (h : Kept L s₀ s) (hL : [.regs, .pushes, .coll] ⊆ L) :
    Kept L s₀ (State.encInvalid s) := by
  unfold State.encInvalid
  extract_lets y0 y1
  try clear_value y0
  have gy1 : Kept L s₀ y1 := by
    unfold y1
    repeat' first
      | with_reducible assumption | exact List.Subset.trans (by decide) hL | with_reducible apply Kept.count
      | with_reducible apply Kept.reportTp | with_reducible apply Kept.wrB | with_reducible apply Kept.ite | split | intro _
  try clear_value y1
  repeat' first
    | with_reducible assumption | exact List.Subset.trans (by decide) hL | with_reducible apply Kept.count
    | with_reducible apply Kept.reportTp | with_reducible apply Kept.wrB | with_reducible apply Kept.ite | split | intro _

theorem Kept.encoderEdge (h : Kept L s₀ s) (hL : [.regs, .pushes, .coll, .samples, .enc] ⊆ L) (a : Bool) (b : Bool) (z : Bool) :
    Kept L s₀ (State.encoderEdge s a b z) := by
  unfold State.encoderEdge
  extract_lets y0 y1 y2 y3 y4
  try clear_value y0 y2
  have gy1 : Kept L s₀ y1 := by
    unfold y1
    repeat' first
      | with_reducible assumption | exact List.Subset.trans (by decide) hL
      | ((with_reducible refine Touches.intro fun p hp => ?_); cases p <;> first | exact absurd (by decide) hp | (dsimp only [Part.Same]))
      | with_reducible apply Kept.encDeliver | with_reducible apply Kept.encInvalid | with_reducible apply Kept.encStep
      | with_reducible apply Kept.setWord | with_reducible apply Kept.wrB | with_reducible apply Kept.ite | split | intro _
      | refine Kept.mk_of [.enc] ?_ (List.Subset.trans (by decide) hL) ?_
  try clear_value y1
  have gy3 : Kept L s₀ y3 := by
    unfold y3
    repeat' first
      | with_reducible assumption | exact List.Subset.trans (by decide) hL
      | ((with_reducible refine Touches.intro fun p hp => ?_); cases p <;> first | exact absurd (by decide) hp | (dsimp only [Part.Same]))
      | with_reducible apply Kept.encDeliver | with_reducible apply Kept.encInvalid | with_reducible apply Kept.encStep
      | with_reducible apply Kept.setWord | with_reducible apply Kept.wrB | with_reducible apply Kept.ite | split | intro _
      | refine Kept.mk_of [.enc] ?_ (List.Subset.trans (by decide) hL) ?_
  try clear_value y3
  have gy4 : Kept L s₀ y4 := by
    unfold y4
    repeat' first
      | with_reducible assumption | exact List.Subset.trans (by decide) hL
      | ((with_reducible refine Touches.intro fun p hp => ?_); cases p <;> first | exact absurd (by decide) hp | (dsimp only [Part.Same]))
      | with_reducible apply Kept.encDeliver | with_reducible apply Kept.encInvalid | with_reducible apply Kept.encStep
      | with_reducible apply Kept.setWord | with_reducible apply Kept.wrB | with_reducible apply Kept.ite | split | intro _
      | refine Kept.mk_of [.enc] ?_ (List.Subset.trans (by decide) hL) ?_
  try clear_value y4
  repeat' first
    | with_reducible assumption | exact List.Subset.trans (by decide) hL
    | ((with_reducible refine Touches.intro fun p hp => ?_); cases p <;> first | exact absurd (by decide) hp | (dsimp only [Part.Same]))
    | with_reducible apply Kept.encDeliver | with_reducible apply Kept.encInvalid | with_reducible apply Kept.encStep
    | with_reducible apply Kept.setWord | with_reducible apply Kept.wrB | with_reducible apply Kept.ite | split | intro _
    | refine Kept.mk_of [.enc] ?_ (List.Subset.trans (by decide) hL) ?_

theorem Kept.encoderZero (h : Kept L s₀ s) (hL : [.samples] ⊆ L) :
    Kept L s₀ (State.encoderZero s) := by
  unfold State.encoderZero
  extract_lets y0
  try clear_value y0
  repeat' first
    | with_reducible assumption | exact List.Subset.trans (by decide) hL | with_reducible apply Kept.setSample
    | with_reducible apply Kept.ite | split | intro _

theorem Kept.encEnable (h : Kept L s₀ s) (hL : [.regs, .pushes, .enc] ⊆ L) (on : Bool) :
    Kept L s₀ (State.encEnable s on) := by
  unfold State.encEnable
  extract_lets y0
  try clear_value y0
  repeat' first
    | with_reducible assumption | exact List.Subset.trans (by decide) hL
    | ((with_reducible refine Touches.intro fun p hp => ?_); cases p <;> first | exact absurd (by decide) hp | (dsimp only [Part.Same]))
    | with_reducible apply Kept.wrB | with_reducible apply Kept.ite | split | intro _
    | refine Kept.mk_of [.enc] ?_ (List.Subset.trans (by decide) hL) ?_

end Sys2Proof.Machine
end

