-- ==== Sys2Proof/Laws/KeptSupervisor.lean ====
section
/-! SUPPORT. What the operations of Supervisor keep. -/

set_option linter.unusedTactic false
set_option linter.unreachableTactic false
set_option linter.unusedVariables false

namespace Sys2Proof.Machine

variable {L : List Part} {s₀ s : State}

theorem Kept.setSup (h : Kept L s₀ s) (hL : [.sup] ⊆ L) (f : Supervisor → Supervisor) :
    Kept L s₀ (State.setSup s f) := by
  unfold State.setSup
  repeat' first
    | with_reducible assumption | exact List.Subset.trans (by decide) hL
    | ((with_reducible refine Touches.intro fun p hp => ?_); cases p <;> first | exact absurd (by decide) hp | (dsimp only [Part.Same]))
    | refine Kept.mk_of [.sup] ?_ (List.Subset.trans (by decide) hL) ?_

theorem Kept.goOut (h : Kept L s₀ s) (hL : [.regs, .pushes, .coll, .sup, .guards, .chans, .stages, .sto] ⊆ L) :
    Kept L s₀ (State.goOut s) := by
  unfold State.goOut
  extract_lets y0 y1
  have gy0 : Kept L s₀ y0 := by
    unfold y0
    repeat' first
      | with_reducible assumption | exact List.Subset.trans (by decide) hL | with_reducible apply Kept.openSto
      | with_reducible apply Kept.pinSourceSwitch | with_reducible apply Kept.setSup | with_reducible apply Kept.wr
  try clear_value y0
  have gy1 : Kept L s₀ y1 := by
    unfold y1
    repeat' first
      | with_reducible assumption | exact List.Subset.trans (by decide) hL | with_reducible apply Kept.openSto
      | with_reducible apply Kept.pinSourceSwitch | with_reducible apply Kept.setSup | with_reducible apply Kept.wr
  try clear_value y1
  repeat' first
    | with_reducible assumption | exact List.Subset.trans (by decide) hL | with_reducible apply Kept.openSto
    | with_reducible apply Kept.pinSourceSwitch | with_reducible apply Kept.setSup | with_reducible apply Kept.wr

theorem Kept.supervisorOut (h : Kept L s₀ s) (hL : [.regs, .pushes, .coll, .sup, .guards, .chans, .stages, .sto] ⊆ L) (code : ℕ) (inj : Bool) :
    Kept L s₀ (State.supervisorOut s code inj) := by
  unfold State.supervisorOut
  repeat' first
    | with_reducible assumption | exact List.Subset.trans (by decide) hL | with_reducible apply Kept.goOut
    | with_reducible apply Kept.reportFab

theorem Kept.dropCore (h : Kept L s₀ s) (hL : [.sup] ⊆ L) (c : ℕ) :
    Kept L s₀ (State.dropCore s c) := by
  unfold State.dropCore
  repeat' first
    | with_reducible assumption | exact List.Subset.trans (by decide) hL | with_reducible apply Kept.setSup

theorem Kept.minority (h : Kept L s₀ s) (hL : [.regs, .pushes, .polders, .drainQ, .coll, .sup, .guards, .chans, .stages, .sto] ⊆ L) (c : ℕ) (cause : ℕ) (code : ℕ) (inj : Bool) :
    Kept L s₀ (State.minority s c cause code inj) := by
  unfold State.minority
  extract_lets y0 y1 y2 y3
  have gy0 : Kept L s₀ y0 := by
    unfold y0
    repeat' first
      | with_reducible assumption | exact List.Subset.trans (by decide) hL | with_reducible apply Kept.count
      | with_reducible apply Kept.dropCore | with_reducible apply Kept.failPolder | with_reducible apply Kept.reportFab
      | with_reducible apply Kept.setSup | with_reducible apply Kept.startTest | with_reducible apply Kept.supervisorOut
      | with_reducible apply Kept.wr | with_reducible apply Kept.ite | split | intro _
  try clear_value y0
  have gy1 : Kept L s₀ y1 := by
    unfold y1
    repeat' first
      | with_reducible assumption | exact List.Subset.trans (by decide) hL | with_reducible apply Kept.count
      | with_reducible apply Kept.dropCore | with_reducible apply Kept.failPolder | with_reducible apply Kept.reportFab
      | with_reducible apply Kept.setSup | with_reducible apply Kept.startTest | with_reducible apply Kept.supervisorOut
      | with_reducible apply Kept.wr | with_reducible apply Kept.ite | split | intro _
  try clear_value y1
  have gy2 : Kept L s₀ y2 := by
    unfold y2
    repeat' first
      | with_reducible assumption | exact List.Subset.trans (by decide) hL | with_reducible apply Kept.count
      | with_reducible apply Kept.dropCore | with_reducible apply Kept.failPolder | with_reducible apply Kept.reportFab
      | with_reducible apply Kept.setSup | with_reducible apply Kept.startTest | with_reducible apply Kept.supervisorOut
      | with_reducible apply Kept.wr | with_reducible apply Kept.ite | split | intro _
  try clear_value y2
  have gy3 : Kept L s₀ y3 := by
    unfold y3
    repeat' first
      | with_reducible assumption | exact List.Subset.trans (by decide) hL | with_reducible apply Kept.count
      | with_reducible apply Kept.dropCore | with_reducible apply Kept.failPolder | with_reducible apply Kept.reportFab
      | with_reducible apply Kept.setSup | with_reducible apply Kept.startTest | with_reducible apply Kept.supervisorOut
      | with_reducible apply Kept.wr | with_reducible apply Kept.ite | split | intro _
  try clear_value y3
  repeat' first
    | with_reducible assumption | exact List.Subset.trans (by decide) hL | with_reducible apply Kept.count
    | with_reducible apply Kept.dropCore | with_reducible apply Kept.failPolder | with_reducible apply Kept.reportFab
    | with_reducible apply Kept.setSup | with_reducible apply Kept.startTest | with_reducible apply Kept.supervisorOut
    | with_reducible apply Kept.wr | with_reducible apply Kept.ite | split | intro _

theorem Kept.issueNext (h : Kept L s₀ s) (hL : [.sup] ⊆ L) (w : CoreWrite) (agree : List ℕ) (pendingThird : Bool) :
    Kept L s₀ (State.issueNext s w agree pendingThird) := by
  unfold State.issueNext
  repeat' first
    | with_reducible assumption | exact List.Subset.trans (by decide) hL | with_reducible apply Kept.setSup
    | with_reducible apply Kept.ite | split | intro _

theorem Kept.issueMatched (h : Kept L s₀ s) (hL : [.regs, .pushes, .polders, .drainQ, .coll, .sup, .guards, .chans, .stages, .sto] ⊆ L) (fuel : Nat) : Kept L s₀ (s.issueMatched fuel).2 := by
  induction fuel generalizing s with
  | zero => exact h
  | succ fuel ih =>
    unfold State.issueMatched
    extract_lets a b c d
    clear_value a b c d
    repeat' first
      | with_reducible assumption
      | exact List.Subset.trans (by decide) hL
      | with_reducible apply ih
      | with_reducible apply Kept.issueNext
      | with_reducible apply Kept.minority
      | with_reducible apply Kept.supervisorOut
      | split
      | dsimp only

theorem Kept.lockstepMismatch (h : Kept L s₀ s) (hL : [.regs, .pushes, .polders, .coll, .sup, .wd] ⊆ L) (inj : Bool) :
    Kept L s₀ (State.lockstepMismatch s inj) := by
  unfold State.lockstepMismatch
  extract_lets y0 y1 y2
  try clear_value y1
  have gy0 : Kept L s₀ y0 := by
    unfold y0
    repeat' first
      | with_reducible assumption | exact List.Subset.trans (by decide) hL
      | ((with_reducible refine Touches.intro fun p hp => ?_); cases p <;> first | exact absurd (by decide) hp | (dsimp only [Part.Same]))
      | with_reducible apply Kept.reportFab | with_reducible apply Kept.setSup | with_reducible apply Kept.startTest
      | with_reducible apply Kept.wrB | with_reducible apply Kept.ite | split | intro _
      | refine Kept.mk_of [.wd] ?_ (List.Subset.trans (by decide) hL) ?_
  try clear_value y0
  have gy2 : Kept L s₀ y2 := by
    unfold y2
    repeat' first
      | with_reducible assumption | exact List.Subset.trans (by decide) hL
      | ((with_reducible refine Touches.intro fun p hp => ?_); cases p <;> first | exact absurd (by decide) hp | (dsimp only [Part.Same]))
      | with_reducible apply Kept.reportFab | with_reducible apply Kept.setSup | with_reducible apply Kept.startTest
      | with_reducible apply Kept.wrB | with_reducible apply Kept.ite | split | intro _
      | refine Kept.mk_of [.wd] ?_ (List.Subset.trans (by decide) hL) ?_
  try clear_value y2
  repeat' first
    | with_reducible assumption | exact List.Subset.trans (by decide) hL
    | ((with_reducible refine Touches.intro fun p hp => ?_); cases p <;> first | exact absurd (by decide) hp | (dsimp only [Part.Same]))
    | with_reducible apply Kept.reportFab | with_reducible apply Kept.setSup | with_reducible apply Kept.startTest
    | with_reducible apply Kept.wrB | with_reducible apply Kept.ite | split | intro _
    | refine Kept.mk_of [.wd] ?_ (List.Subset.trans (by decide) hL) ?_

theorem Kept.takeInversion (h : Kept L s₀ s) (hL : [.sup] ⊆ L) (c : ℕ) :
    Kept L s₀ (State.takeInversion s c).2 := by
  unfold State.takeInversion
  repeat' first
    | with_reducible assumption | exact List.Subset.trans (by decide) hL | with_reducible apply Kept.setSup

theorem Kept.soleWrite (h : Kept L s₀ s) (hL : [.regs, .pushes, .polders, .coll, .sup, .wd] ⊆ L) (w : CoreWrite) :
    Kept L s₀ (State.soleWrite s w).2 := by
  unfold State.soleWrite
  extract_lets y0 y1
  have gy0 : Kept L s₀ y0.2 := by
    unfold y0
    repeat' first
      | with_reducible assumption | exact List.Subset.trans (by decide) hL | with_reducible apply Kept.lockstepMismatch
      | with_reducible apply Kept.takeInversion | with_reducible apply Kept.ite | split | intro _
  try clear_value y0
  have gy1 : Kept L s₀ y1.2 := by
    unfold y1
    repeat' first
      | with_reducible assumption | exact List.Subset.trans (by decide) hL | with_reducible apply Kept.lockstepMismatch
      | with_reducible apply Kept.takeInversion | with_reducible apply Kept.ite | split | intro _
  try clear_value y1
  repeat' first
    | with_reducible assumption | exact List.Subset.trans (by decide) hL | with_reducible apply Kept.lockstepMismatch
    | with_reducible apply Kept.takeInversion | with_reducible apply Kept.ite | split | intro _

theorem Kept.presentWrite (h : Kept L s₀ s) (hL : [.regs, .pushes, .polders, .drainQ, .coll, .sup, .guards, .chans, .stages, .sto, .wd] ⊆ L) (c : ℕ) (w : CoreWrite) :
    Kept L s₀ (State.presentWrite s c w).2 := by
  unfold State.presentWrite
  extract_lets y0 y1 y2 y3 y4
  try clear_value y1 y2
  have gy0 : Kept L s₀ y0.2 := by
    unfold y0
    repeat' first
      | with_reducible assumption | exact List.Subset.trans (by decide) hL | with_reducible apply Kept.issueMatched
      | with_reducible apply Kept.minority | with_reducible apply Kept.setSup | with_reducible apply Kept.soleWrite
      | with_reducible apply Kept.takeInversion | with_reducible apply Kept.ite | split | intro _
  try clear_value y0
  have gy3 : Kept L s₀ y3 := by
    unfold y3
    repeat' first
      | with_reducible assumption | exact List.Subset.trans (by decide) hL | with_reducible apply Kept.issueMatched
      | with_reducible apply Kept.minority | with_reducible apply Kept.setSup | with_reducible apply Kept.soleWrite
      | with_reducible apply Kept.takeInversion | with_reducible apply Kept.ite | split | intro _
  try clear_value y3
  have gy4 : Kept L s₀ y4 := by
    unfold y4
    repeat' first
      | with_reducible assumption | exact List.Subset.trans (by decide) hL | with_reducible apply Kept.issueMatched
      | with_reducible apply Kept.minority | with_reducible apply Kept.setSup | with_reducible apply Kept.soleWrite
      | with_reducible apply Kept.takeInversion | with_reducible apply Kept.ite | split | intro _
  try clear_value y4
  repeat' first
    | with_reducible assumption | exact List.Subset.trans (by decide) hL | with_reducible apply Kept.issueMatched
    | with_reducible apply Kept.minority | with_reducible apply Kept.setSup | with_reducible apply Kept.soleWrite
    | with_reducible apply Kept.takeInversion | with_reducible apply Kept.ite | split | intro _

theorem Kept.agreeAccess (h : Kept L s₀ s) (hL : [.regs, .pushes, .polders, .drainQ, .coll, .sup, .guards, .chans, .stages, .sto] ⊆ L) :
    Kept L s₀ (State.agreeAccess s).2 := by
  unfold State.agreeAccess
  extract_lets y0 y1 y2
  try clear_value y0 y1
  have gy2 : Kept L s₀ y2 := by
    unfold y2
    repeat' first
      | with_reducible assumption | exact List.Subset.trans (by decide) hL | with_reducible apply Kept.each
      | with_reducible apply Kept.minority | with_reducible apply Kept.setSup | with_reducible apply Kept.supervisorOut
      | with_reducible apply OptAll.none | with_reducible apply OptAll.some | with_reducible apply OptAll.or
      | with_reducible apply OptAll.map | with_reducible apply OptAll.bind | with_reducible apply Kept.ite | split | intro _
  try clear_value y2
  repeat' first
    | with_reducible assumption | exact List.Subset.trans (by decide) hL | with_reducible apply Kept.each
    | with_reducible apply Kept.minority | with_reducible apply Kept.setSup | with_reducible apply Kept.supervisorOut
    | with_reducible apply OptAll.none | with_reducible apply OptAll.some | with_reducible apply OptAll.or
    | with_reducible apply OptAll.map | with_reducible apply OptAll.bind | with_reducible apply Kept.ite | split | intro _

theorem Kept.agreementIssue (h : Kept L s₀ s) (hL : [.regs, .pushes, .polders, .drainQ, .coll, .sup, .guards, .chans, .stages, .sto] ⊆ L) (c : ℕ) (addr : ℕ) (sample : Word) :
    Kept L s₀ (State.agreementIssue s c addr sample).2 := by
  unfold State.agreementIssue
  repeat' first
    | with_reducible assumption | exact List.Subset.trans (by decide) hL | with_reducible apply Kept.agreeAccess
    | with_reducible apply Kept.setSup | with_reducible apply OptAll.none | with_reducible apply OptAll.some
    | with_reducible apply OptAll.or | with_reducible apply OptAll.map | with_reducible apply OptAll.bind
    | with_reducible apply Kept.ite | split | intro _

theorem Kept.lagTimeout (h : Kept L s₀ s) (hL : [.regs, .pushes, .polders, .drainQ, .coll, .sup, .guards, .chans, .stages, .sto] ⊆ L) (c : ℕ) :
    Kept L s₀ (State.lagTimeout s c).2.2 := by
  unfold State.lagTimeout
  extract_lets y0 y1 y2
  have gy0 : Kept L s₀ y0 := by
    unfold y0
    repeat' first
      | with_reducible assumption | exact List.Subset.trans (by decide) hL | with_reducible apply Kept.agreeAccess
      | with_reducible apply Kept.issueMatched | with_reducible apply Kept.minority | with_reducible apply OptAll.none
      | with_reducible apply OptAll.some | with_reducible apply OptAll.or | with_reducible apply OptAll.map
      | with_reducible apply OptAll.bind | with_reducible apply Kept.ite | split | intro _
  try clear_value y0
  have gy1 : Kept L s₀ y1.2 := by
    unfold y1
    repeat' first
      | with_reducible assumption | exact List.Subset.trans (by decide) hL | with_reducible apply Kept.agreeAccess
      | with_reducible apply Kept.issueMatched | with_reducible apply Kept.minority | with_reducible apply OptAll.none
      | with_reducible apply OptAll.some | with_reducible apply OptAll.or | with_reducible apply OptAll.map
      | with_reducible apply OptAll.bind | with_reducible apply Kept.ite | split | intro _
  try clear_value y1
  have gy2 : Kept L s₀ y2.2 := by
    unfold y2
    repeat' first
      | with_reducible assumption | exact List.Subset.trans (by decide) hL | with_reducible apply Kept.agreeAccess
      | with_reducible apply Kept.issueMatched | with_reducible apply Kept.minority | with_reducible apply OptAll.none
      | with_reducible apply OptAll.some | with_reducible apply OptAll.or | with_reducible apply OptAll.map
      | with_reducible apply OptAll.bind | with_reducible apply Kept.ite | split | intro _
  try clear_value y2
  repeat' first
    | with_reducible assumption | exact List.Subset.trans (by decide) hL | with_reducible apply Kept.agreeAccess
    | with_reducible apply Kept.issueMatched | with_reducible apply Kept.minority | with_reducible apply OptAll.none
    | with_reducible apply OptAll.some | with_reducible apply OptAll.or | with_reducible apply OptAll.map
    | with_reducible apply OptAll.bind | with_reducible apply Kept.ite | split | intro _

theorem Kept.compareDigests (h : Kept L s₀ s) (hL : [.regs, .pushes, .polders, .drainQ, .coll, .sup, .guards, .chans, .stages, .sto] ⊆ L) :
    Kept L s₀ (State.compareDigests s) := by
  unfold State.compareDigests
  extract_lets y0 y1 y2
  try clear_value y0 y1
  have gy2 : Kept L s₀ y2 := by
    unfold y2
    repeat' first
      | with_reducible assumption | exact List.Subset.trans (by decide) hL | with_reducible apply Kept.each
      | with_reducible apply Kept.minority | with_reducible apply Kept.setSup | with_reducible apply Kept.supervisorOut
      | with_reducible apply Kept.ite | split | intro _
  try clear_value y2
  repeat' first
    | with_reducible assumption | exact List.Subset.trans (by decide) hL | with_reducible apply Kept.each
    | with_reducible apply Kept.minority | with_reducible apply Kept.setSup | with_reducible apply Kept.supervisorOut
    | with_reducible apply Kept.ite | split | intro _

theorem Kept.stateDigest (h : Kept L s₀ s) (hL : [.regs, .pushes, .polders, .drainQ, .coll, .sup, .guards, .chans, .stages, .sto] ⊆ L) (c : ℕ) (value : BitVec 64) :
    Kept L s₀ (State.stateDigest s c value) := by
  unfold State.stateDigest
  repeat' first
    | with_reducible assumption | exact List.Subset.trans (by decide) hL | with_reducible apply Kept.compareDigests
    | with_reducible apply Kept.setSup | with_reducible apply Kept.ite | split | intro _

theorem Kept.startResync (h : Kept L s₀ s) (hL : [.sup] ⊆ L) (c : ℕ) :
    Kept L s₀ (State.startResync s c) := by
  unfold State.startResync
  repeat' first
    | with_reducible assumption | exact List.Subset.trans (by decide) hL | with_reducible apply Kept.setSup
    | with_reducible apply Kept.ite | split | intro _

theorem Kept.resyncComplete (h : Kept L s₀ s) (hL : [.regs, .pushes, .mem, .chk, .polders, .coll, .sup] ⊆ L) (c : ℕ) :
    Kept L s₀ (State.resyncComplete s c) := by
  unfold State.resyncComplete
  repeat' first
    | with_reducible assumption | exact List.Subset.trans (by decide) hL | with_reducible apply Kept.copyMem
    | with_reducible apply Kept.reportFab | with_reducible apply Kept.setBusy | with_reducible apply Kept.setSup
    | with_reducible apply Kept.wr | with_reducible apply Kept.wrB | with_reducible apply Kept.wrStamp
    | with_reducible apply Kept.ite | split | intro _

theorem Kept.recoveryFailed (h : Kept L s₀ s) (hL : [.regs, .pushes, .coll, .sup, .guards, .chans, .stages, .sto] ⊆ L) :
    Kept L s₀ (State.recoveryFailed s) := by
  unfold State.recoveryFailed
  repeat' first
    | with_reducible assumption | exact List.Subset.trans (by decide) hL | with_reducible apply Kept.setSup
    | with_reducible apply Kept.supervisorOut | with_reducible apply Kept.wrB | with_reducible apply Kept.ite | split
    | intro _

theorem Kept.recoveryTimeout (h : Kept L s₀ s) (hL : [.regs, .pushes, .coll, .sup, .guards, .chans, .stages, .sto] ⊆ L) :
    Kept L s₀ (State.recoveryTimeout s) := by
  unfold State.recoveryTimeout
  repeat' first
    | with_reducible assumption | exact List.Subset.trans (by decide) hL | with_reducible apply Kept.recoveryFailed
    | with_reducible apply Kept.ite | split | intro _

theorem Kept.heartbeat (h : Kept L s₀ s) (hL : [.regs, .pushes, .wd] ⊆ L) (seq : ℕ) :
    Kept L s₀ (State.heartbeat s seq) := by
  unfold State.heartbeat
  extract_lets y0 y1
  try clear_value y1
  have gy0 : Kept L s₀ y0 := by
    unfold y0
    repeat' first
      | with_reducible assumption | exact List.Subset.trans (by decide) hL
      | ((with_reducible refine Touches.intro fun p hp => ?_); cases p <;> first | exact absurd (by decide) hp | (dsimp only [Part.Same]))
      | with_reducible apply Kept.wr | with_reducible apply Kept.wrStamp
      | refine Kept.mk_of [.wd] ?_ (List.Subset.trans (by decide) hL) ?_
  try clear_value y0
  repeat' first
    | with_reducible assumption | exact List.Subset.trans (by decide) hL
    | ((with_reducible refine Touches.intro fun p hp => ?_); cases p <;> first | exact absurd (by decide) hp | (dsimp only [Part.Same]))
    | with_reducible apply Kept.wr | with_reducible apply Kept.wrStamp
    | refine Kept.mk_of [.wd] ?_ (List.Subset.trans (by decide) hL) ?_

theorem Kept.heartbeatWrite (h : Kept L s₀ s) (hL : [.regs, .pushes, .wd] ⊆ L) (seq : ℕ) :
    Kept L s₀ (State.heartbeatWrite s seq) := by
  unfold State.heartbeatWrite
  repeat' first
    | with_reducible assumption | exact List.Subset.trans (by decide) hL | with_reducible apply Kept.heartbeat
    | with_reducible apply Kept.ite | split | intro _

theorem Kept.recoveryComplete (h : Kept L s₀ s) (hL : [.regs, .pushes, .polders, .sup, .wd] ⊆ L) (seq : ℕ) :
    Kept L s₀ (State.recoveryComplete s seq) := by
  unfold State.recoveryComplete
  extract_lets y0
  have gy0 : Kept L s₀ y0 := by
    unfold y0
    repeat' first
      | with_reducible assumption | exact List.Subset.trans (by decide) hL | with_reducible apply Kept.heartbeat
      | with_reducible apply Kept.setBusy | with_reducible apply Kept.setSup | with_reducible apply Kept.wrB
      | with_reducible apply Kept.ite | split | intro _
  try clear_value y0
  repeat' first
    | with_reducible assumption | exact List.Subset.trans (by decide) hL | with_reducible apply Kept.heartbeat
    | with_reducible apply Kept.setBusy | with_reducible apply Kept.setSup | with_reducible apply Kept.wrB
    | with_reducible apply Kept.ite | split | intro _

theorem Kept.heartbeatWarn (h : Kept L s₀ s) (hL : [.regs, .pushes, .wd] ⊆ L) :
    Kept L s₀ (State.heartbeatWarn s) := by
  unfold State.heartbeatWarn
  extract_lets y0
  try clear_value y0
  repeat' first
    | with_reducible assumption | exact List.Subset.trans (by decide) hL
    | ((with_reducible refine Touches.intro fun p hp => ?_); cases p <;> first | exact absurd (by decide) hp | (dsimp only [Part.Same]))
    | with_reducible apply Kept.agrEvent | with_reducible apply Kept.ite | split | intro _
    | refine Kept.mk_of [.wd] ?_ (List.Subset.trans (by decide) hL) ?_

theorem Kept.heartbeatLoss (h : Kept L s₀ s) (hL : [.regs, .pushes, .coll, .guards, .chans, .stages, .sto, .wd] ⊆ L) :
    Kept L s₀ (State.heartbeatLoss s) := by
  unfold State.heartbeatLoss
  extract_lets y0 y1
  try clear_value y0
  have gy1 : Kept L s₀ y1 := by
    unfold y1
    repeat' first
      | with_reducible assumption | exact List.Subset.trans (by decide) hL
      | ((with_reducible refine Touches.intro fun p hp => ?_); cases p <;> first | exact absurd (by decide) hp | (dsimp only [Part.Same]))
      | with_reducible apply Kept.openSto | with_reducible apply Kept.reportDike | with_reducible apply Kept.ite | split
      | intro _ | refine Kept.mk_of [.wd] ?_ (List.Subset.trans (by decide) hL) ?_
  try clear_value y1
  repeat' first
    | with_reducible assumption | exact List.Subset.trans (by decide) hL
    | ((with_reducible refine Touches.intro fun p hp => ?_); cases p <;> first | exact absurd (by decide) hp | (dsimp only [Part.Same]))
    | with_reducible apply Kept.openSto | with_reducible apply Kept.reportDike | with_reducible apply Kept.ite | split
    | intro _ | refine Kept.mk_of [.wd] ?_ (List.Subset.trans (by decide) hL) ?_

theorem Kept.appStalled (h : Kept L s₀ s) (hL : [.regs, .pushes, .coll, .guards, .chans, .stages] ⊆ L) :
    Kept L s₀ (State.appStalled s) := by
  unfold State.appStalled
  repeat' first
    | with_reducible assumption | exact List.Subset.trans (by decide) hL | with_reducible apply Kept.each
    | with_reducible apply Kept.safeStopDemand | with_reducible apply Kept.ite | split | intro _

theorem Kept.hookLimit (h : Kept L s₀ s) (hL : [.coll, .sup] ⊆ L) :
    Kept L s₀ (State.hookLimit s) := by
  unfold State.hookLimit
  repeat' first
    | with_reducible assumption | exact List.Subset.trans (by decide) hL | with_reducible apply Kept.reportFab
    | with_reducible apply Kept.setSup | with_reducible apply Kept.ite | split | intro _

theorem Kept.plausReact (h : Kept L s₀ s) (hL : [.regs, .pushes, .coll, .guards, .chans, .stages, .sto] ⊆ L) (check : ℕ) (st : ℕ) :
    Kept L s₀ (State.plausReact s check st) := by
  unfold State.plausReact
  extract_lets y0
  try clear_value y0
  repeat' first
    | with_reducible assumption | exact List.Subset.trans (by decide) hL | with_reducible apply Kept.openSto
    | with_reducible apply Kept.safeStopDemand | with_reducible apply Kept.ite | split | intro _

theorem Kept.plausOne (h : Kept L s₀ s) (hL : [.regs, .pushes, .coll, .sup, .guards, .chans, .stages, .sto] ⊆ L) (st : ℕ) (check : ℕ) (bad : Bool) :
    Kept L s₀ (State.plausOne s st check bad) := by
  unfold State.plausOne
  extract_lets y0 y1 y2 y3
  try clear_value y0 y1
  have gy3 : Kept L s₀ y3 := by
    unfold y3
    repeat' first
      | with_reducible assumption | exact List.Subset.trans (by decide) hL | with_reducible apply Kept.plausReact
      | with_reducible apply Kept.reportFab | with_reducible apply Kept.setSup | with_reducible apply Kept.ite | split
      | intro _
  try clear_value y3
  repeat' first
    | with_reducible assumption | exact List.Subset.trans (by decide) hL | with_reducible apply Kept.plausReact
    | with_reducible apply Kept.reportFab | with_reducible apply Kept.setSup | with_reducible apply Kept.ite | split
    | intro _

theorem Kept.plausibility (h : Kept L s₀ s) (hL : [.regs, .pushes, .coll, .sup, .guards, .chans, .stages, .sto] ⊆ L) (st : ℕ) (bad : ℕ) :
    Kept L s₀ (State.plausibility s st bad) := by
  unfold State.plausibility
  repeat' first
    | with_reducible assumption | exact List.Subset.trans (by decide) hL | with_reducible apply Kept.each
    | with_reducible apply Kept.plausOne | with_reducible apply Kept.ite | split | intro _

end Sys2Proof.Machine
end

