-- ==== Sys2Proof/Laws/KeptTimePlane.lean ====
section
/-! SUPPORT. What the operations of TimePlane keep. -/

set_option linter.unusedTactic false
set_option linter.unreachableTactic false
set_option linter.unusedVariables false

namespace Sys2Proof.Machine

variable {L : List Part} {s₀ s : State}

theorem Kept.readNowL (h : Kept L s₀ s) (hL : [.tp, .answer] ⊆ L) (port : ℕ) :
    Kept L s₀ (State.readNowL s port) := by
  unfold State.readNowL
  extract_lets y0
  try clear_value y0
  repeat' first
    | with_reducible assumption | exact List.Subset.trans (by decide) hL
    | ((with_reducible refine Touches.intro fun p hp => ?_); cases p <;> first | exact absurd (by decide) hp | (dsimp only [Part.Same]))
    | refine Kept.mk_of [.tp, .answer] ?_ (List.Subset.trans (by decide) hL) ?_

theorem Kept.crystalLost (h : Kept L s₀ s) (hL : [.regs, .pushes, .tp] ⊆ L) (inj : Bool) :
    Kept L s₀ (State.crystalLost s inj) := by
  unfold State.crystalLost
  extract_lets y0 y1 y2
  try clear_value y2
  have gy0 : Kept L s₀ y0 := by
    unfold y0
    repeat' first
      | with_reducible assumption | exact List.Subset.trans (by decide) hL
      | ((with_reducible refine Touches.intro fun p hp => ?_); cases p <;> first | exact absurd (by decide) hp | (dsimp only [Part.Same]))
      | with_reducible apply Kept.wrB | with_reducible apply Kept.wrStamp
      | refine Kept.mk_of [.tp] ?_ (List.Subset.trans (by decide) hL) ?_
  try clear_value y0
  have gy1 : Kept L s₀ y1 := by
    unfold y1
    repeat' first
      | with_reducible assumption | exact List.Subset.trans (by decide) hL
      | ((with_reducible refine Touches.intro fun p hp => ?_); cases p <;> first | exact absurd (by decide) hp | (dsimp only [Part.Same]))
      | with_reducible apply Kept.wrB | with_reducible apply Kept.wrStamp
      | refine Kept.mk_of [.tp] ?_ (List.Subset.trans (by decide) hL) ?_
  try clear_value y1
  repeat' first
    | with_reducible assumption | exact List.Subset.trans (by decide) hL
    | ((with_reducible refine Touches.intro fun p hp => ?_); cases p <;> first | exact absurd (by decide) hp | (dsimp only [Part.Same]))
    | with_reducible apply Kept.wrB | with_reducible apply Kept.wrStamp
    | refine Kept.mk_of [.tp] ?_ (List.Subset.trans (by decide) hL) ?_

theorem Kept.crystalLoss (h : Kept L s₀ s) (hL : [.regs, .pushes, .tp] ⊆ L) :
    Kept L s₀ (State.crystalLoss s) := by
  unfold State.crystalLoss
  repeat' first
    | with_reducible assumption | exact List.Subset.trans (by decide) hL | with_reducible apply Kept.crystalLost
    | with_reducible apply Kept.ite | split | intro _

theorem Kept.switchoverComplete (h : Kept L s₀ s) (hL : [.regs, .pushes, .coll, .tp] ⊆ L) :
    Kept L s₀ (State.switchoverComplete s) := by
  unfold State.switchoverComplete
  extract_lets y0 y1 y2
  try clear_value y0
  have gy1 : Kept L s₀ y1 := by
    unfold y1
    repeat' first
      | with_reducible assumption | exact List.Subset.trans (by decide) hL
      | ((with_reducible refine Touches.intro fun p hp => ?_); cases p <;> first | exact absurd (by decide) hp | (dsimp only [Part.Same]))
      | with_reducible apply Kept.count | with_reducible apply Kept.reportAs | with_reducible apply Kept.wrB
      | with_reducible apply Kept.ite | split | intro _ | refine Kept.mk_of [.tp] ?_ (List.Subset.trans (by decide) hL) ?_
  try clear_value y1
  have gy2 : Kept L s₀ y2 := by
    unfold y2
    repeat' first
      | with_reducible assumption | exact List.Subset.trans (by decide) hL
      | ((with_reducible refine Touches.intro fun p hp => ?_); cases p <;> first | exact absurd (by decide) hp | (dsimp only [Part.Same]))
      | with_reducible apply Kept.count | with_reducible apply Kept.reportAs | with_reducible apply Kept.wrB
      | with_reducible apply Kept.ite | split | intro _ | refine Kept.mk_of [.tp] ?_ (List.Subset.trans (by decide) hL) ?_
  try clear_value y2
  repeat' first
    | with_reducible assumption | exact List.Subset.trans (by decide) hL
    | ((with_reducible refine Touches.intro fun p hp => ?_); cases p <;> first | exact absurd (by decide) hp | (dsimp only [Part.Same]))
    | with_reducible apply Kept.count | with_reducible apply Kept.reportAs | with_reducible apply Kept.wrB
    | with_reducible apply Kept.ite | split | intro _ | refine Kept.mk_of [.tp] ?_ (List.Subset.trans (by decide) hL) ?_

theorem Kept.returnRequest (h : Kept L s₀ s) (hL : [.regs, .pushes, .tp] ⊆ L) :
    Kept L s₀ (State.returnRequest s) := by
  unfold State.returnRequest
  extract_lets y0 y1
  try clear_value y1
  have gy0 : Kept L s₀ y0 := by
    unfold y0
    repeat' first
      | with_reducible assumption | exact List.Subset.trans (by decide) hL
      | ((with_reducible refine Touches.intro fun p hp => ?_); cases p <;> first | exact absurd (by decide) hp | (dsimp only [Part.Same]))
      | with_reducible apply Kept.wrB | with_reducible apply Kept.ite | split | intro _
      | refine Kept.mk_of [.tp] ?_ (List.Subset.trans (by decide) hL) ?_
  try clear_value y0
  repeat' first
    | with_reducible assumption | exact List.Subset.trans (by decide) hL
    | ((with_reducible refine Touches.intro fun p hp => ?_); cases p <;> first | exact absurd (by decide) hp | (dsimp only [Part.Same]))
    | with_reducible apply Kept.wrB | with_reducible apply Kept.ite | split | intro _
    | refine Kept.mk_of [.tp] ?_ (List.Subset.trans (by decide) hL) ?_

theorem Kept.returnComplete (h : Kept L s₀ s) (hL : [.regs, .pushes, .coll, .tp] ⊆ L) :
    Kept L s₀ (State.returnComplete s) := by
  unfold State.returnComplete
  extract_lets y0 y1 y2
  try clear_value y0
  have gy1 : Kept L s₀ y1 := by
    unfold y1
    repeat' first
      | with_reducible assumption | exact List.Subset.trans (by decide) hL
      | ((with_reducible refine Touches.intro fun p hp => ?_); cases p <;> first | exact absurd (by decide) hp | (dsimp only [Part.Same]))
      | with_reducible apply Kept.reportAs | with_reducible apply Kept.wrB | with_reducible apply Kept.ite | split | intro _
      | refine Kept.mk_of [.tp] ?_ (List.Subset.trans (by decide) hL) ?_
  try clear_value y1
  have gy2 : Kept L s₀ y2 := by
    unfold y2
    repeat' first
      | with_reducible assumption | exact List.Subset.trans (by decide) hL
      | ((with_reducible refine Touches.intro fun p hp => ?_); cases p <;> first | exact absurd (by decide) hp | (dsimp only [Part.Same]))
      | with_reducible apply Kept.reportAs | with_reducible apply Kept.wrB | with_reducible apply Kept.ite | split | intro _
      | refine Kept.mk_of [.tp] ?_ (List.Subset.trans (by decide) hL) ?_
  try clear_value y2
  repeat' first
    | with_reducible assumption | exact List.Subset.trans (by decide) hL
    | ((with_reducible refine Touches.intro fun p hp => ?_); cases p <;> first | exact absurd (by decide) hp | (dsimp only [Part.Same]))
    | with_reducible apply Kept.reportAs | with_reducible apply Kept.wrB | with_reducible apply Kept.ite | split | intro _
    | refine Kept.mk_of [.tp] ?_ (List.Subset.trans (by decide) hL) ?_

theorem Kept.xtalOkChange (h : Kept L s₀ s) (hL : [.regs, .pushes] ⊆ L) (ok : Bool) :
    Kept L s₀ (State.xtalOkChange s ok) := by
  unfold State.xtalOkChange
  repeat' first
    | with_reducible assumption | exact List.Subset.trans (by decide) hL | with_reducible apply Kept.wrB
    | with_reducible apply Kept.ite | split | intro _

theorem Kept.timePlaneLost (h : Kept L s₀ s) (hL : [.regs, .pushes, .coll, .tp, .guards, .chans, .stages, .sto] ⊆ L) :
    Kept L s₀ (State.timePlaneLost s) := by
  unfold State.timePlaneLost
  extract_lets y0
  try clear_value y0
  repeat' first
    | with_reducible assumption | exact List.Subset.trans (by decide) hL
    | ((with_reducible refine Touches.intro fun p hp => ?_); cases p <;> first | exact absurd (by decide) hp | (dsimp only [Part.Same]))
    | with_reducible apply Kept.openSto | with_reducible apply Kept.reportDike | with_reducible apply Kept.ite | split
    | intro _ | refine Kept.mk_of [.tp] ?_ (List.Subset.trans (by decide) hL) ?_

theorem Kept.rcClockFailed (h : Kept L s₀ s) (hL : [.regs, .pushes, .coll, .tp, .guards, .chans, .stages, .sto] ⊆ L) :
    Kept L s₀ (State.rcClockFailed s) := by
  unfold State.rcClockFailed
  extract_lets y0
  try clear_value y0
  repeat' first
    | with_reducible assumption | exact List.Subset.trans (by decide) hL
    | ((with_reducible refine Touches.intro fun p hp => ?_); cases p <;> first | exact absurd (by decide) hp | (dsimp only [Part.Same]))
    | with_reducible apply Kept.openSto | with_reducible apply Kept.reportDike | with_reducible apply Kept.ite | split
    | intro _ | refine Kept.mk_of [.tp] ?_ (List.Subset.trans (by decide) hL) ?_

theorem Kept.refCheck (h : Kept L s₀ s) (hL : [.regs, .pushes, .coll, .tp] ⊆ L) (fails : Bool) :
    Kept L s₀ (State.refCheck s fails) := by
  unfold State.refCheck
  extract_lets y0 y1 y2
  try clear_value y0 y1
  have gy2 : Kept L s₀ y2 := by
    unfold y2
    repeat' first
      | with_reducible assumption | exact List.Subset.trans (by decide) hL
      | ((with_reducible refine Touches.intro fun p hp => ?_); cases p <;> first | exact absurd (by decide) hp | (dsimp only [Part.Same]))
      | with_reducible apply Kept.reportDike | with_reducible apply Kept.wrB | with_reducible apply Kept.ite | split
      | intro _ | refine Kept.mk_of [.tp] ?_ (List.Subset.trans (by decide) hL) ?_
  try clear_value y2
  repeat' first
    | with_reducible assumption | exact List.Subset.trans (by decide) hL
    | ((with_reducible refine Touches.intro fun p hp => ?_); cases p <;> first | exact absurd (by decide) hp | (dsimp only [Part.Same]))
    | with_reducible apply Kept.reportDike | with_reducible apply Kept.wrB | with_reducible apply Kept.ite | split | intro _
    | refine Kept.mk_of [.tp] ?_ (List.Subset.trans (by decide) hL) ?_

theorem Kept.tickCheck (h : Kept L s₀ s) (hL : [.regs, .pushes, .coll, .tp, .guards, .chans, .stages, .sto] ⊆ L) (deviates : Bool) (refFails : Bool) :
    Kept L s₀ (State.tickCheck s deviates refFails) := by
  unfold State.tickCheck
  extract_lets y0
  have gy0 : Kept L s₀ y0 := by
    unfold y0
    repeat' first
      | with_reducible assumption | exact List.Subset.trans (by decide) hL | with_reducible apply Kept.rcClockFailed
      | with_reducible apply Kept.refCheck | with_reducible apply Kept.timePlaneLost | with_reducible apply Kept.ite | split
      | intro _
  try clear_value y0
  repeat' first
    | with_reducible assumption | exact List.Subset.trans (by decide) hL | with_reducible apply Kept.rcClockFailed
    | with_reducible apply Kept.refCheck | with_reducible apply Kept.timePlaneLost | with_reducible apply Kept.ite | split
    | intro _

theorem Kept.recalibrate (h : Kept L s₀ s) (hL : [.coll, .tp] ⊆ L) (p : ℕ) (ok : Bool) :
    Kept L s₀ (State.recalibrate s p ok) := by
  unfold State.recalibrate
  extract_lets y0
  try clear_value y0
  repeat' first
    | with_reducible assumption | exact List.Subset.trans (by decide) hL
    | ((with_reducible refine Touches.intro fun p hp => ?_); cases p <;> first | exact absurd (by decide) hp | (dsimp only [Part.Same]))
    | with_reducible apply Kept.reportTp | with_reducible apply Kept.ite | split | intro _
    | refine Kept.mk_of [.tp] ?_ (List.Subset.trans (by decide) hL) ?_

end Sys2Proof.Machine
end

