-- ==== Sys2Proof/Laws/KeptRings.lean ====
section
/-! SUPPORT. What the operations of Rings keep. -/

set_option linter.unusedTactic false
set_option linter.unreachableTactic false
set_option linter.unusedVariables false

namespace Sys2Proof.Machine

variable {L : List Part} {s₀ s : State}

theorem Kept.ringPut (h : Kept L s₀ s) (hL : [.regs, .pushes] ⊆ L) (p : ℕ) (o : ℕ) :
    Kept L s₀ (State.ringPut s p o) := by
  unfold State.ringPut
  repeat' first
    | with_reducible assumption | exact List.Subset.trans (by decide) hL | with_reducible apply Kept.setWord

theorem Kept.ringTake (h : Kept L s₀ s) (hL : [.regs, .pushes] ⊆ L) (p : ℕ) (o : ℕ) :
    Kept L s₀ (State.ringTake s p o) := by
  unfold State.ringTake
  repeat' first
    | with_reducible assumption | exact List.Subset.trans (by decide) hL | with_reducible apply Kept.setWord

theorem Kept.dmaWrite (h : Kept L s₀ s) (hL : [.mem, .chk] ⊆ L) (a : ℕ) (bs : List Byte) :
    Kept L s₀ (State.dmaWrite s a bs) := by
  unfold State.dmaWrite
  repeat' first
    | with_reducible assumption | exact List.Subset.trans (by decide) hL | with_reducible apply Kept.putBytes
    | with_reducible apply Kept.ite | split | intro _

theorem Kept.dmaWord (h : Kept L s₀ s) (hL : [.mem, .chk] ⊆ L) (a : ℕ) (w : Word) :
    Kept L s₀ (State.dmaWord s a w) := by
  unfold State.dmaWord
  repeat' first
    | with_reducible assumption | exact List.Subset.trans (by decide) hL | with_reducible apply Kept.putMword
    | with_reducible apply Kept.ite | split | intro _

theorem Kept.dmaStamp (h : Kept L s₀ s) (hL : [.mem, .chk] ⊆ L) (a : ℕ) (t : ℕ) :
    Kept L s₀ (State.dmaStamp s a t) := by
  unfold State.dmaStamp
  repeat' first
    | with_reducible assumption | exact List.Subset.trans (by decide) hL | with_reducible apply Kept.dmaWord

theorem Kept.raiseApp (h : Kept L s₀ s) (hL : [.ifc] ⊆ L) (p : ℕ) :
    Kept L s₀ (State.raiseApp s p) := by
  unfold State.raiseApp
  extract_lets y0
  try clear_value y0
  repeat' first
    | with_reducible assumption | exact List.Subset.trans (by decide) hL
    | ((with_reducible refine Touches.intro fun p hp => ?_); cases p <;> first | exact absurd (by decide) hp | (dsimp only [Part.Same]))
    | refine Kept.mk_of [.ifc] ?_ (List.Subset.trans (by decide) hL) ?_

theorem Kept.ringIndexWrite (h : Kept L s₀ s) (hL : [.regs, .pushes] ⊆ L) (p : ℕ) (off : ℕ) (idx : ℕ) :
    Kept L s₀ (State.ringIndexWrite s p off idx) := by
  unfold State.ringIndexWrite
  repeat' first
    | with_reducible assumption | exact List.Subset.trans (by decide) hL | with_reducible apply Kept.setWord
    | with_reducible apply Kept.ite | split | intro _

theorem Kept.ifcBusy (h : Kept L s₀ s) (hL : [.regs, .pushes, .polders] ⊆ L) (p : ℕ) :
    Kept L s₀ (State.ifcBusy s p) := by
  unfold State.ifcBusy
  repeat' first
    | with_reducible assumption | exact List.Subset.trans (by decide) hL | with_reducible apply Kept.setBusy
    | with_reducible apply Kept.ite | split | intro _

theorem Kept.canCounters (h : Kept L s₀ s) (hL : [.regs, .pushes, .coll] ⊆ L) (n : ℕ) (tec : ℕ) (rx : ℕ) :
    Kept L s₀ (State.canCounters s n tec rx) := by
  unfold State.canCounters
  extract_lets y0 y1 y2 y3
  try clear_value y0 y1 y2
  have gy3 : Kept L s₀ y3 := by
    unfold y3
    repeat' first
      | with_reducible assumption | exact List.Subset.trans (by decide) hL | with_reducible apply Kept.reportFab
      | with_reducible apply Kept.wr | with_reducible apply Kept.ite | split | intro _
  try clear_value y3
  repeat' first
    | with_reducible assumption | exact List.Subset.trans (by decide) hL | with_reducible apply Kept.reportFab
    | with_reducible apply Kept.wr | with_reducible apply Kept.ite | split | intro _

theorem Kept.canRxCount (h : Kept L s₀ s) (hL : [.regs, .pushes, .fresh, .coll] ⊆ L) (n : ℕ) (err : ℕ) :
    Kept L s₀ (State.canRxCount s n err) := by
  unfold State.canRxCount
  extract_lets y0 y1 y2
  try clear_value y0 y1
  have gy2 : Kept L s₀ y2.2 := by
    unfold y2
    repeat' first
      | with_reducible assumption | exact List.Subset.trans (by decide) hL | with_reducible apply Kept.canCounters
      | with_reducible apply Kept.drawWord | with_reducible apply Kept.ite | split | intro _
  try clear_value y2
  repeat' first
    | with_reducible assumption | exact List.Subset.trans (by decide) hL | with_reducible apply Kept.canCounters
    | with_reducible apply Kept.drawWord | with_reducible apply Kept.ite | split | intro _

theorem Kept.canStore (h : Kept L s₀ s) (hL : [.regs, .pushes, .mem, .chk, .coll] ⊆ L) (n : ℕ) (f : ℕ) (filter : ℕ) (hdr : List Word) (data : List Byte) (t : ℕ) :
    Kept L s₀ (State.canStore s n f filter hdr data t) := by
  unfold State.canStore
  extract_lets y0 y1 y2 y3 y4 y5 y6 y7
  try clear_value y0 y1 y2 y3 y4 y5
  have gy6 : Kept L s₀ y6 := by
    unfold y6
    repeat' first
      | with_reducible assumption | exact List.Subset.trans (by decide) hL | with_reducible apply Kept.countFirst
      | with_reducible apply Kept.dmaStamp | with_reducible apply Kept.dmaWord | with_reducible apply Kept.dmaWrite
      | with_reducible apply Kept.ringPut | with_reducible apply Kept.ite | split | intro _
  try clear_value y6
  have gy7 : Kept L s₀ y7 := by
    unfold y7
    repeat' first
      | with_reducible assumption | exact List.Subset.trans (by decide) hL | with_reducible apply Kept.countFirst
      | with_reducible apply Kept.dmaStamp | with_reducible apply Kept.dmaWord | with_reducible apply Kept.dmaWrite
      | with_reducible apply Kept.ringPut | with_reducible apply Kept.ite | split | intro _
  try clear_value y7
  repeat' first
    | with_reducible assumption | exact List.Subset.trans (by decide) hL | with_reducible apply Kept.countFirst
    | with_reducible apply Kept.dmaStamp | with_reducible apply Kept.dmaWord | with_reducible apply Kept.dmaWrite
    | with_reducible apply Kept.ringPut | with_reducible apply Kept.ite | split | intro _

theorem Kept.canReceive (h : Kept L s₀ s) (hL : [.regs, .pushes, .mem, .chk, .fresh, .polders, .coll] ⊆ L) (n : ℕ) (hdr : List Word) (data : List Byte) (age : ℕ) (err : ℕ) :
    Kept L s₀ (State.canReceive s n hdr data age err) := by
  unfold State.canReceive
  extract_lets y0 y1
  try clear_value y0
  have gy1 : Kept L s₀ y1 := by
    unfold y1
    repeat' first
      | with_reducible assumption | exact List.Subset.trans (by decide) hL | with_reducible apply Kept.canRxCount
      | with_reducible apply Kept.canStore | with_reducible apply Kept.ifcBusy | with_reducible apply Kept.ite | split
      | intro _
  try clear_value y1
  repeat' first
    | with_reducible assumption | exact List.Subset.trans (by decide) hL | with_reducible apply Kept.canRxCount
    | with_reducible apply Kept.canStore | with_reducible apply Kept.ifcBusy | with_reducible apply Kept.ite | split
    | intro _

theorem Kept.canDone (h : Kept L s₀ s) (hL : [.regs, .pushes, .mem, .chk] ⊆ L) (n : ℕ) (a : ℕ) (cause : ℕ) :
    Kept L s₀ (State.canDone s n a cause) := by
  unfold State.canDone
  repeat' first
    | with_reducible assumption | exact List.Subset.trans (by decide) hL | with_reducible apply Kept.dmaWord
    | with_reducible apply Kept.ringTake

theorem Kept.canTransmit (h : Kept L s₀ s) (hL : [.regs, .pushes, .mem, .chk, .polders, .coll] ⊆ L) (n : ℕ) (ok : Bool) (age : ℕ) (tdc : ℕ) :
    Kept L s₀ (State.canTransmit s n ok age tdc) := by
  unfold State.canTransmit
  extract_lets y0 y1 y2 y3 y4 y5 y6 y7 y8 y9 y10
  try clear_value y0 y1 y2 y3 y4 y6 y7
  have gy5 : Kept L s₀ y5 := by
    unfold y5
    repeat' first
      | with_reducible assumption | exact List.Subset.trans (by decide) hL | with_reducible apply Kept.canCounters
      | with_reducible apply Kept.canDone | with_reducible apply Kept.dmaStamp | with_reducible apply Kept.ifcBusy
      | with_reducible apply Kept.wr | with_reducible apply Kept.ite | split | intro _
  try clear_value y5
  have gy8 : Kept L s₀ y8 := by
    unfold y8
    repeat' first
      | with_reducible assumption | exact List.Subset.trans (by decide) hL | with_reducible apply Kept.canCounters
      | with_reducible apply Kept.canDone | with_reducible apply Kept.dmaStamp | with_reducible apply Kept.ifcBusy
      | with_reducible apply Kept.wr | with_reducible apply Kept.ite | split | intro _
  try clear_value y8
  have gy9 : Kept L s₀ y9 := by
    unfold y9
    repeat' first
      | with_reducible assumption | exact List.Subset.trans (by decide) hL | with_reducible apply Kept.canCounters
      | with_reducible apply Kept.canDone | with_reducible apply Kept.dmaStamp | with_reducible apply Kept.ifcBusy
      | with_reducible apply Kept.wr | with_reducible apply Kept.ite | split | intro _
  try clear_value y9
  have gy10 : Kept L s₀ y10 := by
    unfold y10
    repeat' first
      | with_reducible assumption | exact List.Subset.trans (by decide) hL | with_reducible apply Kept.canCounters
      | with_reducible apply Kept.canDone | with_reducible apply Kept.dmaStamp | with_reducible apply Kept.ifcBusy
      | with_reducible apply Kept.wr | with_reducible apply Kept.ite | split | intro _
  try clear_value y10
  repeat' first
    | with_reducible assumption | exact List.Subset.trans (by decide) hL | with_reducible apply Kept.canCounters
    | with_reducible apply Kept.canDone | with_reducible apply Kept.dmaStamp | with_reducible apply Kept.ifcBusy
    | with_reducible apply Kept.wr | with_reducible apply Kept.ite | split | intro _

theorem Kept.canRecover (h : Kept L s₀ s) (hL : [.ifc] ⊆ L) (n : ℕ) :
    Kept L s₀ (State.canRecover s n) := by
  unfold State.canRecover
  extract_lets y0
  try clear_value y0
  repeat' first
    | with_reducible assumption | exact List.Subset.trans (by decide) hL
    | ((with_reducible refine Touches.intro fun p hp => ?_); cases p <;> first | exact absurd (by decide) hp | (dsimp only [Part.Same]))
    | with_reducible apply Kept.ite | split | intro _ | refine Kept.mk_of [.ifc] ?_ (List.Subset.trans (by decide) hL) ?_

theorem Kept.canRecovered (h : Kept L s₀ s) (hL : [.regs, .pushes, .coll, .ifc] ⊆ L) (n : ℕ) :
    Kept L s₀ (State.canRecovered s n) := by
  unfold State.canRecovered
  extract_lets y0
  try clear_value y0
  repeat' first
    | with_reducible assumption | exact List.Subset.trans (by decide) hL
    | ((with_reducible refine Touches.intro fun p hp => ?_); cases p <;> first | exact absurd (by decide) hp | (dsimp only [Part.Same]))
    | with_reducible apply Kept.canCounters | with_reducible apply Kept.ite | split | intro _
    | refine Kept.mk_of [.ifc] ?_ (List.Subset.trans (by decide) hL) ?_

end Sys2Proof.Machine
end

