-- ==== Sys2Proof/Laws/KeptWires.lean ====
section
/-! SUPPORT. What the operations of Wires keep. -/

set_option linter.unusedTactic false
set_option linter.unreachableTactic false
set_option linter.unusedVariables false

namespace Sys2Proof.Machine

variable {L : List Part} {s₀ s : State}

theorem Kept.ethReceive (h : Kept L s₀ s) (hL : [.regs, .pushes, .mem, .chk, .polders, .coll] ⊆ L) (n : ℕ) (frame : List Byte) (age : ℕ) (fcsErr : Bool) :
    Kept L s₀ (State.ethReceive s n frame age fcsErr) := by
  unfold State.ethReceive
  extract_lets y0 y1 y2 y3 y4 y5
  try clear_value y0 y2 y4
  have gy1 : Kept L s₀ y1 := by
    unfold y1
    repeat' first
      | with_reducible assumption | exact List.Subset.trans (by decide) hL | with_reducible apply Kept.countFirst
      | with_reducible apply Kept.dmaStamp | with_reducible apply Kept.dmaWord | with_reducible apply Kept.dmaWrite
      | with_reducible apply Kept.ifcBusy | with_reducible apply Kept.ringPut | with_reducible apply Kept.ite | split
      | intro _
  try clear_value y1
  have gy5 : Kept L s₀ y5 := by
    unfold y5
    repeat' first
      | with_reducible assumption | exact List.Subset.trans (by decide) hL | with_reducible apply Kept.countFirst
      | with_reducible apply Kept.dmaStamp | with_reducible apply Kept.dmaWord | with_reducible apply Kept.dmaWrite
      | with_reducible apply Kept.ifcBusy | with_reducible apply Kept.ringPut | with_reducible apply Kept.ite | split
      | intro _
  try clear_value y5
  repeat' first
    | with_reducible assumption | exact List.Subset.trans (by decide) hL | with_reducible apply Kept.countFirst
    | with_reducible apply Kept.dmaStamp | with_reducible apply Kept.dmaWord | with_reducible apply Kept.dmaWrite
    | with_reducible apply Kept.ifcBusy | with_reducible apply Kept.ringPut | with_reducible apply Kept.ite | split | intro _

theorem Kept.ethTransmit (h : Kept L s₀ s) (hL : [.regs, .pushes, .mem, .chk, .polders] ⊆ L) (n : ℕ) (ok : Bool) (age : ℕ) :
    Kept L s₀ (State.ethTransmit s n ok age) := by
  unfold State.ethTransmit
  extract_lets y0 y1 y2 y3 y4
  try clear_value y0 y1 y3 y4
  have gy2 : Kept L s₀ y2 := by
    unfold y2
    repeat' first
      | with_reducible assumption | exact List.Subset.trans (by decide) hL | with_reducible apply Kept.dmaStamp
      | with_reducible apply Kept.dmaWord | with_reducible apply Kept.ifcBusy | with_reducible apply Kept.ringTake
      | with_reducible apply Kept.ite | split | intro _
  try clear_value y2
  repeat' first
    | with_reducible assumption | exact List.Subset.trans (by decide) hL | with_reducible apply Kept.dmaStamp
    | with_reducible apply Kept.dmaWord | with_reducible apply Kept.ifcBusy | with_reducible apply Kept.ringTake
    | with_reducible apply Kept.ite | split | intro _

theorem Kept.ethLinkLoss (h : Kept L s₀ s) (hL : [.regs, .pushes, .coll] ⊆ L) (n : ℕ) (plcaOnly : Bool) :
    Kept L s₀ (State.ethLinkLoss s n plcaOnly) := by
  unfold State.ethLinkLoss
  extract_lets y0
  try clear_value y0
  repeat' first
    | with_reducible assumption | exact List.Subset.trans (by decide) hL | with_reducible apply Kept.reportFab
    | with_reducible apply Kept.wrB | with_reducible apply Kept.ite | split | intro _

theorem Kept.ethLinkUp (h : Kept L s₀ s) (hL : [.regs, .pushes] ⊆ L) (n : ℕ) (plca : Bool) (speed : ℕ) :
    Kept L s₀ (State.ethLinkUp s n plca speed) := by
  unfold State.ethLinkUp
  extract_lets y0 y1
  try clear_value y0
  have gy1 : Kept L s₀ y1 := by
    unfold y1
    repeat' first
      | with_reducible assumption | exact List.Subset.trans (by decide) hL | with_reducible apply Kept.wr
      | with_reducible apply Kept.wrB | with_reducible apply Kept.ite | split | intro _
  try clear_value y1
  repeat' first
    | with_reducible assumption | exact List.Subset.trans (by decide) hL | with_reducible apply Kept.wr
    | with_reducible apply Kept.wrB | with_reducible apply Kept.ite | split | intro _

theorem Kept.ethStop (h : Kept L s₀ s) (hL : [.regs, .pushes] ⊆ L) (n : ℕ) :
    Kept L s₀ (State.ethStop s n) := by
  unfold State.ethStop
  extract_lets y0
  try clear_value y0
  repeat' first
    | with_reducible assumption | exact List.Subset.trans (by decide) hL | with_reducible apply Kept.wrB

theorem Kept.mdio (h : Kept L s₀ s) (hL : [.regs, .pushes, .ifc] ⊆ L) (c : MdioCmd) :
    Kept L s₀ (State.mdio s c) := by
  unfold State.mdio
  extract_lets y0
  try clear_value y0
  repeat' first
    | with_reducible assumption | exact List.Subset.trans (by decide) hL
    | ((with_reducible refine Touches.intro fun p hp => ?_); cases p <;> first | exact absurd (by decide) hp | (dsimp only [Part.Same]))
    | with_reducible apply Kept.wrB | with_reducible apply Kept.ite | split | intro _
    | refine Kept.mk_of [.ifc] ?_ (List.Subset.trans (by decide) hL) ?_

theorem Kept.mdioComplete (h : Kept L s₀ s) (hL : [.regs, .pushes, .ifc] ⊆ L) (data : ℕ) :
    Kept L s₀ (State.mdioComplete s data) := by
  unfold State.mdioComplete
  extract_lets y0 y1
  try clear_value y0
  have gy1 : Kept L s₀ y1 := by
    unfold y1
    repeat' first
      | with_reducible assumption | exact List.Subset.trans (by decide) hL
      | ((with_reducible refine Touches.intro fun p hp => ?_); cases p <;> first | exact absurd (by decide) hp | (dsimp only [Part.Same]))
      | with_reducible apply Kept.wr | with_reducible apply Kept.wrB | with_reducible apply Kept.ite | split | intro _
      | refine Kept.mk_of [.ifc] ?_ (List.Subset.trans (by decide) hL) ?_
  try clear_value y1
  repeat' first
    | with_reducible assumption | exact List.Subset.trans (by decide) hL
    | ((with_reducible refine Touches.intro fun p hp => ?_); cases p <;> first | exact absurd (by decide) hp | (dsimp only [Part.Same]))
    | with_reducible apply Kept.wr | with_reducible apply Kept.wrB | with_reducible apply Kept.ite | split | intro _
    | refine Kept.mk_of [.ifc] ?_ (List.Subset.trans (by decide) hL) ?_

theorem Kept.sentMessage (h : Kept L s₀ s) (hL : [.regs, .pushes, .mem, .chk, .polders, .coll, .engines, .loops, .trl, .guards, .ifc] ⊆ L) (ch : ℕ) (cal : ℕ) (status : ℕ) (data : List ℕ) (pauseOk : Bool) (crcOk : Bool) (age : ℕ) (slow : Option (ℕ × ℕ)) :
    Kept L s₀ (State.sentMessage s ch cal status data pauseOk crcOk age slow) := by
  unfold State.sentMessage
  extract_lets y0 y1 y2 y3 y4 y5 y6 y7 y8 y9 y10
  try clear_value y0 y2 y4 y9
  have gy1 : Kept L s₀ y1 := by
    unfold y1
    repeat' first
      | with_reducible assumption | exact List.Subset.trans (by decide) hL
      | ((with_reducible refine Touches.intro fun p hp => ?_); cases p <;> first | exact absurd (by decide) hp | (dsimp only [Part.Same]))
      | with_reducible apply Kept.countFirst | with_reducible apply Kept.ifcBusy | with_reducible apply Kept.setWord
      | with_reducible apply Kept.slotWrite | with_reducible apply Kept.wrStamp | with_reducible apply Kept.ite | split
      | intro _ | refine Kept.mk_of [.ifc] ?_ (List.Subset.trans (by decide) hL) ?_
  try clear_value y1
  have gy3 : Kept L s₀ y3 := by
    unfold y3
    repeat' first
      | with_reducible assumption | exact List.Subset.trans (by decide) hL
      | ((with_reducible refine Touches.intro fun p hp => ?_); cases p <;> first | exact absurd (by decide) hp | (dsimp only [Part.Same]))
      | with_reducible apply Kept.countFirst | with_reducible apply Kept.ifcBusy | with_reducible apply Kept.setWord
      | with_reducible apply Kept.slotWrite | with_reducible apply Kept.wrStamp | with_reducible apply Kept.ite | split
      | intro _ | refine Kept.mk_of [.ifc] ?_ (List.Subset.trans (by decide) hL) ?_
  try clear_value y3
  have gy5 : Kept L s₀ y5 := by
    unfold y5
    repeat' first
      | with_reducible assumption | exact List.Subset.trans (by decide) hL
      | ((with_reducible refine Touches.intro fun p hp => ?_); cases p <;> first | exact absurd (by decide) hp | (dsimp only [Part.Same]))
      | with_reducible apply Kept.countFirst | with_reducible apply Kept.ifcBusy | with_reducible apply Kept.setWord
      | with_reducible apply Kept.slotWrite | with_reducible apply Kept.wrStamp | with_reducible apply Kept.ite | split
      | intro _ | refine Kept.mk_of [.ifc] ?_ (List.Subset.trans (by decide) hL) ?_
  try clear_value y5
  have gy6 : Kept L s₀ y6 := by
    unfold y6
    repeat' first
      | with_reducible assumption | exact List.Subset.trans (by decide) hL
      | ((with_reducible refine Touches.intro fun p hp => ?_); cases p <;> first | exact absurd (by decide) hp | (dsimp only [Part.Same]))
      | with_reducible apply Kept.countFirst | with_reducible apply Kept.ifcBusy | with_reducible apply Kept.setWord
      | with_reducible apply Kept.slotWrite | with_reducible apply Kept.wrStamp | with_reducible apply Kept.ite | split
      | intro _ | refine Kept.mk_of [.ifc] ?_ (List.Subset.trans (by decide) hL) ?_
  try clear_value y6
  have gy7 : Kept L s₀ y7 := by
    unfold y7
    repeat' first
      | with_reducible assumption | exact List.Subset.trans (by decide) hL
      | ((with_reducible refine Touches.intro fun p hp => ?_); cases p <;> first | exact absurd (by decide) hp | (dsimp only [Part.Same]))
      | with_reducible apply Kept.countFirst | with_reducible apply Kept.ifcBusy | with_reducible apply Kept.setWord
      | with_reducible apply Kept.slotWrite | with_reducible apply Kept.wrStamp | with_reducible apply Kept.ite | split
      | intro _ | refine Kept.mk_of [.ifc] ?_ (List.Subset.trans (by decide) hL) ?_
  try clear_value y7
  have gy8 : Kept L s₀ y8 := by
    unfold y8
    repeat' first
      | with_reducible assumption | exact List.Subset.trans (by decide) hL
      | ((with_reducible refine Touches.intro fun p hp => ?_); cases p <;> first | exact absurd (by decide) hp | (dsimp only [Part.Same]))
      | with_reducible apply Kept.countFirst | with_reducible apply Kept.ifcBusy | with_reducible apply Kept.setWord
      | with_reducible apply Kept.slotWrite | with_reducible apply Kept.wrStamp | with_reducible apply Kept.ite | split
      | intro _ | refine Kept.mk_of [.ifc] ?_ (List.Subset.trans (by decide) hL) ?_
  try clear_value y8
  have gy10 : Kept L s₀ y10 := by
    unfold y10
    repeat' first
      | with_reducible assumption | exact List.Subset.trans (by decide) hL
      | ((with_reducible refine Touches.intro fun p hp => ?_); cases p <;> first | exact absurd (by decide) hp | (dsimp only [Part.Same]))
      | with_reducible apply Kept.countFirst | with_reducible apply Kept.ifcBusy | with_reducible apply Kept.setWord
      | with_reducible apply Kept.slotWrite | with_reducible apply Kept.wrStamp | with_reducible apply Kept.ite | split
      | intro _ | refine Kept.mk_of [.ifc] ?_ (List.Subset.trans (by decide) hL) ?_
  try clear_value y10
  repeat' first
    | with_reducible assumption | exact List.Subset.trans (by decide) hL
    | ((with_reducible refine Touches.intro fun p hp => ?_); cases p <;> first | exact absurd (by decide) hp | (dsimp only [Part.Same]))
    | with_reducible apply Kept.countFirst | with_reducible apply Kept.ifcBusy | with_reducible apply Kept.setWord
    | with_reducible apply Kept.slotWrite | with_reducible apply Kept.wrStamp | with_reducible apply Kept.ite | split
    | intro _ | refine Kept.mk_of [.ifc] ?_ (List.Subset.trans (by decide) hL) ?_

theorem Kept.sentTimeout (h : Kept L s₀ s) (hL : [.coll, .ifc] ⊆ L) (ch : ℕ) :
    Kept L s₀ (State.sentTimeout s ch) := by
  unfold State.sentTimeout
  extract_lets y0 y1
  try clear_value y0 y1
  repeat' first
    | with_reducible assumption | exact List.Subset.trans (by decide) hL
    | ((with_reducible refine Touches.intro fun p hp => ?_); cases p <;> first | exact absurd (by decide) hp | (dsimp only [Part.Same]))
    | with_reducible apply Kept.reportFab | with_reducible apply Kept.ite | split | intro _
    | refine Kept.mk_of [.ifc] ?_ (List.Subset.trans (by decide) hL) ?_

theorem Kept.sentEnable (h : Kept L s₀ s) (hL : [.regs, .pushes, .ifc] ⊆ L) (ch : ℕ) :
    Kept L s₀ (State.sentEnable s ch) := by
  unfold State.sentEnable
  extract_lets y0
  try clear_value y0
  repeat' first
    | with_reducible assumption | exact List.Subset.trans (by decide) hL
    | ((with_reducible refine Touches.intro fun p hp => ?_); cases p <;> first | exact absurd (by decide) hp | (dsimp only [Part.Same]))
    | with_reducible apply Kept.wrB | refine Kept.mk_of [.ifc] ?_ (List.Subset.trans (by decide) hL) ?_

theorem Kept.psiSlotEnds (h : Kept L s₀ s) (hL : [.regs, .pushes, .ifc] ⊆ L) (i : ℕ) :
    Kept L s₀ (State.psiSlotEnds s i) := by
  unfold State.psiSlotEnds
  extract_lets y0 y1 y2 y3
  try clear_value y0 y1 y3
  have gy2 : Kept L s₀ y2 := by
    unfold y2
    repeat' first
      | with_reducible assumption | exact List.Subset.trans (by decide) hL
      | ((with_reducible refine Touches.intro fun p hp => ?_); cases p <;> first | exact absurd (by decide) hp | (dsimp only [Part.Same]))
      | with_reducible apply Kept.wrB | with_reducible apply Kept.ite | split | intro _
      | refine Kept.mk_of [.ifc] ?_ (List.Subset.trans (by decide) hL) ?_
  try clear_value y2
  repeat' first
    | with_reducible assumption | exact List.Subset.trans (by decide) hL
    | ((with_reducible refine Touches.intro fun p hp => ?_); cases p <;> first | exact absurd (by decide) hp | (dsimp only [Part.Same]))
    | with_reducible apply Kept.wrB | with_reducible apply Kept.ite | split | intro _
    | refine Kept.mk_of [.ifc] ?_ (List.Subset.trans (by decide) hL) ?_

theorem Kept.psiPulse (h : Kept L s₀ s) (hL : [.regs, .pushes, .polders, .ifc] ⊆ L) (n : ℕ) :
    Kept L s₀ (State.psiPulse s n) := by
  unfold State.psiPulse
  extract_lets y0 y1
  try clear_value y1
  have gy0 : Kept L s₀ y0 := by
    unfold y0
    repeat' first
      | with_reducible assumption | exact List.Subset.trans (by decide) hL
      | ((with_reducible refine Touches.intro fun p hp => ?_); cases p <;> first | exact absurd (by decide) hp | (dsimp only [Part.Same]))
      | with_reducible apply Kept.each | with_reducible apply Kept.ifcBusy | with_reducible apply Kept.psiSlotEnds
      | with_reducible apply Kept.ite | split | intro _ | refine Kept.mk_of [.ifc] ?_ (List.Subset.trans (by decide) hL) ?_
  try clear_value y0
  repeat' first
    | with_reducible assumption | exact List.Subset.trans (by decide) hL
    | ((with_reducible refine Touches.intro fun p hp => ?_); cases p <;> first | exact absurd (by decide) hp | (dsimp only [Part.Same]))
    | with_reducible apply Kept.each | with_reducible apply Kept.ifcBusy | with_reducible apply Kept.psiSlotEnds
    | with_reducible apply Kept.ite | split | intro _ | refine Kept.mk_of [.ifc] ?_ (List.Subset.trans (by decide) hL) ?_

theorem Kept.psiFrame (h : Kept L s₀ s) (hL : [.regs, .pushes, .mem, .chk, .coll, .engines, .loops, .trl, .guards, .ifc] ⊆ L) (n : ℕ) (k : ℕ) (ok : Bool) (data : ℕ) (age : ℕ) :
    Kept L s₀ (State.psiFrame s n k ok data age) := by
  unfold State.psiFrame
  extract_lets y0 y1 y2 y3 y4 y5
  try clear_value y0 y1 y4
  have gy2 : Kept L s₀ y2 := by
    unfold y2
    repeat' first
      | with_reducible assumption | exact List.Subset.trans (by decide) hL
      | ((with_reducible refine Touches.intro fun p hp => ?_); cases p <;> first | exact absurd (by decide) hp | (dsimp only [Part.Same]))
      | with_reducible apply Kept.countFirst | with_reducible apply Kept.setWord | with_reducible apply Kept.slotWrite
      | with_reducible apply Kept.wrStamp | with_reducible apply Kept.ite | split | intro _
      | refine Kept.mk_of [.ifc] ?_ (List.Subset.trans (by decide) hL) ?_
  try clear_value y2
  have gy3 : Kept L s₀ y3 := by
    unfold y3
    repeat' first
      | with_reducible assumption | exact List.Subset.trans (by decide) hL
      | ((with_reducible refine Touches.intro fun p hp => ?_); cases p <;> first | exact absurd (by decide) hp | (dsimp only [Part.Same]))
      | with_reducible apply Kept.countFirst | with_reducible apply Kept.setWord | with_reducible apply Kept.slotWrite
      | with_reducible apply Kept.wrStamp | with_reducible apply Kept.ite | split | intro _
      | refine Kept.mk_of [.ifc] ?_ (List.Subset.trans (by decide) hL) ?_
  try clear_value y3
  have gy5 : Kept L s₀ y5 := by
    unfold y5
    repeat' first
      | with_reducible assumption | exact List.Subset.trans (by decide) hL
      | ((with_reducible refine Touches.intro fun p hp => ?_); cases p <;> first | exact absurd (by decide) hp | (dsimp only [Part.Same]))
      | with_reducible apply Kept.countFirst | with_reducible apply Kept.setWord | with_reducible apply Kept.slotWrite
      | with_reducible apply Kept.wrStamp | with_reducible apply Kept.ite | split | intro _
      | refine Kept.mk_of [.ifc] ?_ (List.Subset.trans (by decide) hL) ?_
  try clear_value y5
  repeat' first
    | with_reducible assumption | exact List.Subset.trans (by decide) hL
    | ((with_reducible refine Touches.intro fun p hp => ?_); cases p <;> first | exact absurd (by decide) hp | (dsimp only [Part.Same]))
    | with_reducible apply Kept.countFirst | with_reducible apply Kept.setWord | with_reducible apply Kept.slotWrite
    | with_reducible apply Kept.wrStamp | with_reducible apply Kept.ite | split | intro _
    | refine Kept.mk_of [.ifc] ?_ (List.Subset.trans (by decide) hL) ?_

theorem Kept.psiMissing (h : Kept L s₀ s) (hL : [.coll, .ifc] ⊆ L) (n : ℕ) (k : ℕ) :
    Kept L s₀ (State.psiMissing s n k) := by
  unfold State.psiMissing
  extract_lets y0 y1
  try clear_value y0 y1
  repeat' first
    | with_reducible assumption | exact List.Subset.trans (by decide) hL
    | ((with_reducible refine Touches.intro fun p hp => ?_); cases p <;> first | exact absurd (by decide) hp | (dsimp only [Part.Same]))
    | with_reducible apply Kept.reportFab | with_reducible apply Kept.ite | split | intro _
    | refine Kept.mk_of [.ifc] ?_ (List.Subset.trans (by decide) hL) ?_

theorem Kept.spiWhole (h : Kept L s₀ s) (hL : [.fresh] ⊆ L) (len : ℕ) :
    Kept L s₀ (State.spiWhole s len).2 := by
  unfold State.spiWhole
  extract_lets y0
  try clear_value y0
  repeat' first
    | with_reducible assumption | exact List.Subset.trans (by decide) hL | with_reducible apply Kept.drawBit
    | with_reducible apply Kept.ite | split | intro _

theorem Kept.spiCause (h : Kept L s₀ s) (hL : [.fresh] ⊆ L) (tx : ℕ) (rx : ℕ) (len : ℕ) (cs : ℕ) :
    Kept L s₀ (State.spiCause s tx rx len cs).2 := by
  unfold State.spiCause
  extract_lets y0 y1
  try clear_value y1
  have gy0 : Kept L s₀ y0.2 := by
    unfold y0
    repeat' first
      | with_reducible assumption | exact List.Subset.trans (by decide) hL | with_reducible apply Kept.spiWhole
      | with_reducible apply Kept.ite | split | intro _
  try clear_value y0
  repeat' first
    | with_reducible assumption | exact List.Subset.trans (by decide) hL | with_reducible apply Kept.spiWhole
    | with_reducible apply Kept.ite | split | intro _

theorem Kept.spiWriteBack (h : Kept L s₀ s) (hL : [.regs, .pushes, .mem, .chk] ⊆ L) (idx : ℕ) (cause : ℕ) (stamp : Word) :
    Kept L s₀ (State.spiWriteBack s idx cause stamp) := by
  unfold State.spiWriteBack
  extract_lets y0 y1
  try clear_value y0 y1
  repeat' first
    | with_reducible assumption | exact List.Subset.trans (by decide) hL | with_reducible apply Kept.dmaWord
    | with_reducible apply Kept.ringTake

theorem Kept.spiHold (h : Kept L s₀ s) (hL : [.regs, .pushes, .ifc] ⊆ L) (cs : Option ℕ) :
    Kept L s₀ (State.spiHold s cs) := by
  unfold State.spiHold
  extract_lets y0
  try clear_value y0
  repeat' first
    | with_reducible assumption | exact List.Subset.trans (by decide) hL
    | ((with_reducible refine Touches.intro fun p hp => ?_); cases p <;> first | exact absurd (by decide) hp | (dsimp only [Part.Same]))
    | with_reducible apply Kept.wrB | refine Kept.mk_of [.ifc] ?_ (List.Subset.trans (by decide) hL) ?_

theorem Kept.spiStart (h : Kept L s₀ s) (hL : [.regs, .pushes, .mem, .chk, .fresh, .polders, .coll, .ifc] ⊆ L) :
    Kept L s₀ (State.spiStart s) := by
  unfold State.spiStart
  extract_lets y0 y1 y2 y3 y4 y5 y6 y7 y8 y9 y10
  try clear_value y1 y2 y3 y4 y8 y9 y10
  have gy0 : Kept L s₀ y0 := by
    unfold y0
    repeat' first
      | with_reducible assumption | exact List.Subset.trans (by decide) hL
      | ((with_reducible refine Touches.intro fun p hp => ?_); cases p <;> first | exact absurd (by decide) hp | (dsimp only [Part.Same]))
      | with_reducible apply Kept.countFirst | with_reducible apply Kept.ifcBusy | with_reducible apply Kept.raiseApp
      | with_reducible apply Kept.spiCause | with_reducible apply Kept.spiHold | with_reducible apply Kept.spiWriteBack
      | with_reducible apply Kept.wrB | with_reducible apply Kept.ite | split | intro _
      | refine Kept.mk_of [.ifc] ?_ (List.Subset.trans (by decide) hL) ?_
  try clear_value y0
  have gy5 : Kept L s₀ y5.2 := by
    unfold y5
    repeat' first
      | with_reducible assumption | exact List.Subset.trans (by decide) hL
      | ((with_reducible refine Touches.intro fun p hp => ?_); cases p <;> first | exact absurd (by decide) hp | (dsimp only [Part.Same]))
      | with_reducible apply Kept.countFirst | with_reducible apply Kept.ifcBusy | with_reducible apply Kept.raiseApp
      | with_reducible apply Kept.spiCause | with_reducible apply Kept.spiHold | with_reducible apply Kept.spiWriteBack
      | with_reducible apply Kept.wrB | with_reducible apply Kept.ite | split | intro _
      | refine Kept.mk_of [.ifc] ?_ (List.Subset.trans (by decide) hL) ?_
  try clear_value y5
  have gy6 : Kept L s₀ y6 := by
    unfold y6
    repeat' first
      | with_reducible assumption | exact List.Subset.trans (by decide) hL
      | ((with_reducible refine Touches.intro fun p hp => ?_); cases p <;> first | exact absurd (by decide) hp | (dsimp only [Part.Same]))
      | with_reducible apply Kept.countFirst | with_reducible apply Kept.ifcBusy | with_reducible apply Kept.raiseApp
      | with_reducible apply Kept.spiCause | with_reducible apply Kept.spiHold | with_reducible apply Kept.spiWriteBack
      | with_reducible apply Kept.wrB | with_reducible apply Kept.ite | split | intro _
      | refine Kept.mk_of [.ifc] ?_ (List.Subset.trans (by decide) hL) ?_
  try clear_value y6
  have gy7 : Kept L s₀ y7 := by
    unfold y7
    repeat' first
      | with_reducible assumption | exact List.Subset.trans (by decide) hL
      | ((with_reducible refine Touches.intro fun p hp => ?_); cases p <;> first | exact absurd (by decide) hp | (dsimp only [Part.Same]))
      | with_reducible apply Kept.countFirst | with_reducible apply Kept.ifcBusy | with_reducible apply Kept.raiseApp
      | with_reducible apply Kept.spiCause | with_reducible apply Kept.spiHold | with_reducible apply Kept.spiWriteBack
      | with_reducible apply Kept.wrB | with_reducible apply Kept.ite | split | intro _
      | refine Kept.mk_of [.ifc] ?_ (List.Subset.trans (by decide) hL) ?_
  try clear_value y7
  repeat' first
    | with_reducible assumption | exact List.Subset.trans (by decide) hL
    | ((with_reducible refine Touches.intro fun p hp => ?_); cases p <;> first | exact absurd (by decide) hp | (dsimp only [Part.Same]))
    | with_reducible apply Kept.countFirst | with_reducible apply Kept.ifcBusy | with_reducible apply Kept.raiseApp
    | with_reducible apply Kept.spiCause | with_reducible apply Kept.spiHold | with_reducible apply Kept.spiWriteBack
    | with_reducible apply Kept.wrB | with_reducible apply Kept.ite | split | intro _
    | refine Kept.mk_of [.ifc] ?_ (List.Subset.trans (by decide) hL) ?_

theorem Kept.spiComplete (h : Kept L s₀ s) (hL : [.regs, .pushes, .mem, .chk, .ifc] ⊆ L) (rx : List Byte) :
    Kept L s₀ (State.spiComplete s rx) := by
  unfold State.spiComplete
  repeat' first
    | with_reducible assumption | exact List.Subset.trans (by decide) hL
    | ((with_reducible refine Touches.intro fun p hp => ?_); cases p <;> first | exact absurd (by decide) hp | (dsimp only [Part.Same]))
    | with_reducible apply Kept.dmaWrite | with_reducible apply Kept.raiseApp | with_reducible apply Kept.spiHold
    | with_reducible apply Kept.spiWriteBack | with_reducible apply Kept.wrB | with_reducible apply Kept.ite | split
    | intro _ | refine Kept.mk_of [.ifc] ?_ (List.Subset.trans (by decide) hL) ?_

theorem Kept.spiStop (h : Kept L s₀ s) (hL : [.regs, .pushes, .ifc] ⊆ L) :
    Kept L s₀ (State.spiStop s) := by
  unfold State.spiStop
  extract_lets y0
  try clear_value y0
  repeat' first
    | with_reducible assumption | exact List.Subset.trans (by decide) hL
    | ((with_reducible refine Touches.intro fun p hp => ?_); cases p <;> first | exact absurd (by decide) hp | (dsimp only [Part.Same]))
    | with_reducible apply Kept.spiHold | with_reducible apply Kept.wrB
    | refine Kept.mk_of [.ifc] ?_ (List.Subset.trans (by decide) hL) ?_

theorem Kept.gpioSetClear (h : Kept L s₀ s) (hL : [.regs, .pushes] ⊆ L) (set : Word) (clr : Word) :
    Kept L s₀ (State.gpioSetClear s set clr) := by
  unfold State.gpioSetClear
  extract_lets y0
  try clear_value y0
  repeat' first
    | with_reducible assumption | exact List.Subset.trans (by decide) hL | with_reducible apply Kept.setWord

theorem Kept.gpioEdge (h : Kept L s₀ s) (hL : [.regs, .pushes, .ifc] ⊆ L) (k : ℕ) (high : Bool) :
    Kept L s₀ (State.gpioEdge s k high) := by
  unfold State.gpioEdge
  extract_lets y0
  have gy0 : Kept L s₀ y0 := by
    unfold y0
    repeat' first
      | with_reducible assumption | exact List.Subset.trans (by decide) hL | with_reducible apply Kept.agrEvent
      | with_reducible apply Kept.raiseApp | with_reducible apply Kept.setWord | with_reducible apply Kept.ite | split
      | intro _
  try clear_value y0
  repeat' first
    | with_reducible assumption | exact List.Subset.trans (by decide) hL | with_reducible apply Kept.agrEvent
    | with_reducible apply Kept.raiseApp | with_reducible apply Kept.setWord | with_reducible apply Kept.ite | split
    | intro _

end Sys2Proof.Machine
end

