-- ==== Sys2Proof/Laws/KeptRing.lean ====
section
/-! SUPPORT. What the operations of Ring keep. -/

set_option linter.unusedTactic false
set_option linter.unreachableTactic false
set_option linter.unusedVariables false

namespace Sys2Proof.Machine

variable {L : List Part} {s₀ s : State}

theorem Kept.setSyn (h : Kept L s₀ s) (hL : [.syn] ⊆ L) (f : Ryuger → Ryuger) :
    Kept L s₀ (State.setSyn s f) := by
  unfold State.setSyn
  repeat' first
    | with_reducible assumption | exact List.Subset.trans (by decide) hL
    | ((with_reducible refine Touches.intro fun p hp => ?_); cases p <;> first | exact absurd (by decide) hp | (dsimp only [Part.Same]))
    | refine Kept.mk_of [.syn] ?_ (List.Subset.trans (by decide) hL) ?_

theorem Kept.setSynChan (h : Kept L s₀ s) (hL : [.syn] ⊆ L) (ch : ℕ) (c : SynChannel) :
    Kept L s₀ (State.setSynChan s ch c) := by
  unfold State.setSynChan
  repeat' first
    | with_reducible assumption | exact List.Subset.trans (by decide) hL | with_reducible apply Kept.setSyn
    | with_reducible apply Kept.ite | split | intro _

theorem Kept.synShowTx (h : Kept L s₀ s) (hL : [.regs, .pushes] ⊆ L) (ch : ℕ) :
    Kept L s₀ (State.synShowTx s ch) := by
  unfold State.synShowTx
  repeat' first
    | with_reducible assumption | exact List.Subset.trans (by decide) hL | with_reducible apply Kept.setWord

theorem Kept.synDone (h : Kept L s₀ s) (hL : [.regs, .pushes] ⊆ L) (ch : ℕ) (seq : ℕ) (ack : ℕ) (lost : Bool) :
    Kept L s₀ (State.synDone s ch seq ack lost) := by
  unfold State.synDone
  repeat' first
    | with_reducible assumption | exact List.Subset.trans (by decide) hL | with_reducible apply Kept.setWord

theorem Kept.synPump (h : Kept L s₀ s) (hL : [.regs, .pushes, .polders, .syn] ⊆ L) (ch : ℕ) :
    Kept L s₀ (State.synPump s ch) := by
  unfold State.synPump
  extract_lets y0
  try clear_value y0
  repeat' first
    | with_reducible assumption | exact List.Subset.trans (by decide) hL | with_reducible apply Kept.ifcBusy
    | with_reducible apply Kept.setSyn | with_reducible apply Kept.setSynChan | with_reducible apply Kept.synShowTx
    | with_reducible apply Kept.ite | split | intro _

theorem Kept.synDrop (h : Kept L s₀ s) (hL : [.regs, .pushes] ⊆ L) (ch : ℕ) :
    Kept L s₀ (State.synDrop s ch) := by
  unfold State.synDrop
  repeat' first
    | with_reducible assumption | exact List.Subset.trans (by decide) hL | with_reducible apply Kept.setWord

theorem Kept.synSend (h : Kept L s₀ s) (hL : [.regs, .pushes, .polders, .syn] ⊆ L) (ch : ℕ) (dst : ℕ) (len : ℕ) :
    Kept L s₀ (State.synSend s ch dst len) := by
  unfold State.synSend
  extract_lets y0 y1 y2
  try clear_value y0 y1 y2
  repeat' first
    | with_reducible assumption | exact List.Subset.trans (by decide) hL | with_reducible apply Kept.setSynChan
    | with_reducible apply Kept.synDrop | with_reducible apply Kept.synPump | with_reducible apply Kept.ite | split | intro _

theorem Kept.synLost (h : Kept L s₀ s) (hL : [.regs, .pushes, .polders, .syn] ⊆ L) (ch : ℕ) :
    Kept L s₀ (State.synLost s ch) := by
  unfold State.synLost
  extract_lets y0
  try clear_value y0
  repeat' first
    | with_reducible assumption | exact List.Subset.trans (by decide) hL | with_reducible apply Kept.setSynChan
    | with_reducible apply Kept.synDone | with_reducible apply Kept.synPump | with_reducible apply Kept.ite | split | intro _

theorem Kept.synShowRx (h : Kept L s₀ s) (hL : [.regs, .pushes] ⊆ L) (ch : ℕ) :
    Kept L s₀ (State.synShowRx s ch) := by
  unfold State.synShowRx
  extract_lets y0
  try clear_value y0
  repeat' first
    | with_reducible assumption | exact List.Subset.trans (by decide) hL | with_reducible apply Kept.each
    | with_reducible apply Kept.setWord | split | intro _

theorem Kept.synPop (h : Kept L s₀ s) (hL : [.regs, .pushes, .syn] ⊆ L) (ch : ℕ) :
    Kept L s₀ (State.synPop s ch) := by
  unfold State.synPop
  extract_lets y0
  try clear_value y0
  repeat' first
    | with_reducible assumption | exact List.Subset.trans (by decide) hL | with_reducible apply Kept.setSynChan
    | with_reducible apply Kept.synShowRx

theorem Kept.synDeliver (h : Kept L s₀ s) (hL : [.regs, .pushes, .coll, .ifc, .syn] ⊆ L) (ch : ℕ) (f : SynRx) :
    Kept L s₀ (State.synDeliver s ch f).2 := by
  unfold State.synDeliver
  extract_lets y0 y1
  try clear_value y0
  have gy1 : Kept L s₀ y1 := by
    unfold y1
    repeat' first
      | with_reducible assumption | exact List.Subset.trans (by decide) hL | with_reducible apply Kept.agrEvent
      | with_reducible apply Kept.raiseApp | with_reducible apply Kept.reportFab | with_reducible apply Kept.setSynChan
      | with_reducible apply Kept.synShowRx | with_reducible apply Kept.ite | split | intro _
  try clear_value y1
  repeat' first
    | with_reducible assumption | exact List.Subset.trans (by decide) hL | with_reducible apply Kept.agrEvent
    | with_reducible apply Kept.raiseApp | with_reducible apply Kept.reportFab | with_reducible apply Kept.setSynChan
    | with_reducible apply Kept.synShowRx | with_reducible apply Kept.ite | split | intro _

theorem Kept.synDiscard (h : Kept L s₀ s) (hL : [.regs, .pushes, .coll] ⊆ L) :
    Kept L s₀ (State.synDiscard s) := by
  unfold State.synDiscard
  repeat' first
    | with_reducible assumption | exact List.Subset.trans (by decide) hL | with_reducible apply Kept.countFirst

theorem Kept.synShowOffset (h : Kept L s₀ s) (hL : [.regs, .pushes] ⊆ L) (e : ℤ) :
    Kept L s₀ (State.synShowOffset s e) := by
  unfold State.synShowOffset
  repeat' first
    | with_reducible assumption | exact List.Subset.trans (by decide) hL | with_reducible apply Kept.wr

theorem Kept.synLock (h : Kept L s₀ s) (hL : [.regs, .pushes, .coll, .syn] ⊆ L) (e : ℤ) :
    Kept L s₀ (State.synLock s e) := by
  unfold State.synLock
  extract_lets y0 y1 y2
  try clear_value y0 y1
  have gy2 : Kept L s₀ y2 := by
    unfold y2
    repeat' first
      | with_reducible assumption | exact List.Subset.trans (by decide) hL | with_reducible apply Kept.reportFab
      | with_reducible apply Kept.setSyn | with_reducible apply Kept.wrB
      | exact Kept.setNow (by with_reducible assumption) (List.Subset.trans (by decide) hL) _ (stampAdd_lt _ _)
      | with_reducible apply Kept.ite | with_reducible apply Kept.elim | split | intro _ | extract_lets | dsimp only
  try clear_value y2
  repeat' first
    | with_reducible assumption | exact List.Subset.trans (by decide) hL | with_reducible apply Kept.reportFab
    | with_reducible apply Kept.setSyn | with_reducible apply Kept.wrB
    | exact Kept.setNow (by with_reducible assumption) (List.Subset.trans (by decide) hL) _ (stampAdd_lt _ _)
    | with_reducible apply Kept.ite | with_reducible apply Kept.elim | split | intro _ | extract_lets | dsimp only

theorem Kept.synSteer (h : Kept L s₀ s) (hL : [.regs, .pushes, .now, .coll, .syn] ⊆ L) (t : ℕ) (r : ℕ) (step : Bool) :
    Kept L s₀ (State.synSteer s t r step) := by
  unfold State.synSteer
  extract_lets y0 y1
  try clear_value y0
  have gy1 : Kept L s₀ y1 := by
    unfold y1
    repeat' first
      | with_reducible assumption | exact List.Subset.trans (by decide) hL
      | ((with_reducible refine Touches.intro fun p hp => ?_); cases p <;> first | exact absurd (by decide) hp | (dsimp only [Part.Same]))
      | with_reducible apply Kept.synLock | with_reducible apply Kept.synShowOffset | with_reducible apply Kept.wrB
      | exact Kept.setNow (by with_reducible assumption) (List.Subset.trans (by decide) hL) _ (stampAdd_lt _ _)
      | with_reducible apply Kept.ite | with_reducible apply Kept.elim | split | intro _ | extract_lets
      | refine Kept.mk_of [.now] ?_ (List.Subset.trans (by decide) hL) ?_ | dsimp only
  try clear_value y1
  repeat' first
    | with_reducible assumption | exact List.Subset.trans (by decide) hL
    | ((with_reducible refine Touches.intro fun p hp => ?_); cases p <;> first | exact absurd (by decide) hp | (dsimp only [Part.Same]))
    | with_reducible apply Kept.synLock | with_reducible apply Kept.synShowOffset | with_reducible apply Kept.wrB
    | exact Kept.setNow (by with_reducible assumption) (List.Subset.trans (by decide) hL) _ (stampAdd_lt _ _)
    | with_reducible apply Kept.ite | with_reducible apply Kept.elim | split | intro _ | extract_lets
    | refine Kept.mk_of [.now] ?_ (List.Subset.trans (by decide) hL) ?_ | dsimp only

theorem Kept.ringCheck (h : Kept L s₀ s) (hL : [.regs, .pushes, .coll, .syn] ⊆ L) (ok : Bool) :
    Kept L s₀ (State.ringCheck s ok) := by
  unfold State.ringCheck
  extract_lets y0 y1
  try clear_value y0
  have gy1 : Kept L s₀ y1 := by
    unfold y1
    repeat' first
      | with_reducible assumption | exact List.Subset.trans (by decide) hL | with_reducible apply Kept.reportFab
      | with_reducible apply Kept.setSyn | with_reducible apply Kept.wrB | with_reducible apply Kept.ite | split | intro _
  try clear_value y1
  repeat' first
    | with_reducible assumption | exact List.Subset.trans (by decide) hL | with_reducible apply Kept.reportFab
    | with_reducible apply Kept.setSyn | with_reducible apply Kept.wrB | with_reducible apply Kept.ite | split | intro _

theorem Kept.synForward (h : Kept L s₀ s) (hL : [.syn] ⊆ L) (b1 : ℕ) (b2 : ℕ) (rest : List Byte) :
    Kept L s₀ (State.synForward s b1 b2 rest) := by
  unfold State.synForward
  repeat' first
    | with_reducible assumption | exact List.Subset.trans (by decide) hL | with_reducible apply Kept.setSyn

theorem Kept.synCommand (h : Kept L s₀ s) (hL : [.regs, .pushes, .coll, .ifc, .syn] ⊆ L) (ch : ℕ) (b1 : ℕ) (b2 : ℕ) (rest : List Byte) (stamp : ℕ) :
    Kept L s₀ (State.synCommand s ch b1 b2 rest stamp) := by
  unfold State.synCommand
  extract_lets y0 y1
  try clear_value y0
  have gy1 : Kept L s₀ y1.2 := by
    unfold y1
    repeat' first
      | with_reducible assumption | exact List.Subset.trans (by decide) hL | with_reducible apply Kept.synDeliver
      | with_reducible apply Kept.synForward | with_reducible apply Kept.ite | split | intro _
  try clear_value y1
  repeat' first
    | with_reducible assumption | exact List.Subset.trans (by decide) hL | with_reducible apply Kept.synDeliver
    | with_reducible apply Kept.synForward | with_reducible apply Kept.ite | split | intro _

theorem Kept.synReturned (h : Kept L s₀ s) (hL : [.regs, .pushes, .polders, .syn] ⊆ L) (ch : ℕ) (seq : ℕ) (ack : ℕ) :
    Kept L s₀ (State.synReturned s ch seq ack) := by
  unfold State.synReturned
  extract_lets y0
  try clear_value y0
  repeat' first
    | with_reducible assumption | exact List.Subset.trans (by decide) hL | with_reducible apply Kept.setSynChan
    | with_reducible apply Kept.synDone | with_reducible apply Kept.synPump | with_reducible apply Kept.ite | split | intro _

theorem Kept.synReceive (h : Kept L s₀ s) (hL : [.regs, .pushes, .now, .polders, .coll, .ifc, .syn] ⊆ L) (frame : List Byte) (violation : Bool) (age : ℕ) (frac : ℕ) (step : Bool) :
    Kept L s₀ (State.synReceive s frame violation age frac step) := by
  unfold State.synReceive
  extract_lets y0 y1 y2 y3 y4 y5 y6 y7 y8
  try clear_value y1 y2 y3 y4 y5 y6 y7
  have gy0 : Kept L s₀ y0 := by
    unfold y0
    repeat' first
      | with_reducible assumption | exact List.Subset.trans (by decide) hL | with_reducible apply Kept.ifcBusy
      | with_reducible apply Kept.ringCheck | with_reducible apply Kept.synCommand | with_reducible apply Kept.synDiscard
      | with_reducible apply Kept.synForward | with_reducible apply Kept.synReturned | with_reducible apply Kept.synSteer
      | with_reducible apply Kept.ite | split | intro _
  try clear_value y0
  have gy8 : Kept L s₀ y8 := by
    unfold y8
    repeat' first
      | with_reducible assumption | exact List.Subset.trans (by decide) hL | with_reducible apply Kept.ifcBusy
      | with_reducible apply Kept.ringCheck | with_reducible apply Kept.synCommand | with_reducible apply Kept.synDiscard
      | with_reducible apply Kept.synForward | with_reducible apply Kept.synReturned | with_reducible apply Kept.synSteer
      | with_reducible apply Kept.ite | split | intro _
  try clear_value y8
  repeat' first
    | with_reducible assumption | exact List.Subset.trans (by decide) hL | with_reducible apply Kept.ifcBusy
    | with_reducible apply Kept.ringCheck | with_reducible apply Kept.synCommand | with_reducible apply Kept.synDiscard
    | with_reducible apply Kept.synForward | with_reducible apply Kept.synReturned | with_reducible apply Kept.synSteer
    | with_reducible apply Kept.ite | split | intro _

theorem Kept.synTransmit (h : Kept L s₀ s) (hL : [.regs, .pushes, .polders, .coll, .syn] ⊆ L) :
    Kept L s₀ (State.synTransmit s) := by
  unfold State.synTransmit
  extract_lets y0 y1
  try clear_value y1
  have gy0 : Kept L s₀ y0 := by
    unfold y0
    repeat' first
      | with_reducible assumption | exact List.Subset.trans (by decide) hL | with_reducible apply Kept.ifcBusy
      | with_reducible apply Kept.ringCheck | with_reducible apply Kept.setSyn | with_reducible apply Kept.ite | split
      | intro _
  try clear_value y0
  repeat' first
    | with_reducible assumption | exact List.Subset.trans (by decide) hL | with_reducible apply Kept.ifcBusy
    | with_reducible apply Kept.ringCheck | with_reducible apply Kept.setSyn | with_reducible apply Kept.ite | split
    | intro _

theorem Kept.syncTimeout (h : Kept L s₀ s) (hL : [.regs, .pushes, .coll, .syn] ⊆ L) :
    Kept L s₀ (State.syncTimeout s) := by
  unfold State.syncTimeout
  repeat' first
    | with_reducible assumption | exact List.Subset.trans (by decide) hL | with_reducible apply Kept.reportFab
    | with_reducible apply Kept.setSyn | with_reducible apply Kept.wrB | with_reducible apply Kept.ite | split | intro _

theorem Kept.symbolLock (h : Kept L s₀ s) (hL : [.regs, .pushes, .polders, .syn] ⊆ L) (on : Bool) :
    Kept L s₀ (State.symbolLock s on) := by
  unfold State.symbolLock
  repeat' first
    | with_reducible assumption | exact List.Subset.trans (by decide) hL | with_reducible apply Kept.synPump
    | with_reducible apply Kept.wrB | with_reducible apply Kept.ite | split | intro _

theorem Kept.synReacquire (h : Kept L s₀ s) (hL : [.regs, .pushes, .syn] ⊆ L) :
    Kept L s₀ (State.synReacquire s) := by
  unfold State.synReacquire
  repeat' first
    | with_reducible assumption | exact List.Subset.trans (by decide) hL | with_reducible apply Kept.setSyn
    | with_reducible apply Kept.wrB

theorem Kept.synSupervisorSend (h : Kept L s₀ s) (hL : [.regs, .pushes, .polders, .syn] ⊆ L) (dst : ℕ) (len : ℕ) :
    Kept L s₀ (State.synSupervisorSend s dst len) := by
  unfold State.synSupervisorSend
  repeat' first
    | with_reducible assumption | exact List.Subset.trans (by decide) hL | with_reducible apply Kept.synSend
    | with_reducible apply Kept.ite | split | intro _

end Sys2Proof.Machine
end

