-- ==== Sys2Proof/Laws/KeptLifecycle.lean ====
section
/-! SUPPORT. What the operations of Lifecycle keep. -/

set_option linter.unusedTactic false
set_option linter.unreachableTactic false
set_option linter.unusedVariables false

namespace Sys2Proof.Machine

variable {L : List Part} {s₀ s : State}

theorem Kept.refilled (h : Kept L s₀ s) (hL : [.regs, .pushes, .sup, .trl, .pilot] ⊆ L) (p : ℕ) :
    Kept L s₀ (State.refilled s p) := by
  unfold State.refilled
  repeat' first
    | with_reducible assumption | exact List.Subset.trans (by decide) hL | with_reducible apply Kept.pilotRestart
    | with_reducible apply Kept.queueEvent | with_reducible apply Kept.startResync | with_reducible apply Kept.ite | split
    | intro _

theorem Kept.drainStops (h : Kept L s₀ s) (hL : [.loops, .sup] ⊆ L) (p : ℕ) :
    Kept L s₀ (State.drainStops s p) := by
  unfold State.drainStops
  repeat' first
    | with_reducible assumption | exact List.Subset.trans (by decide) hL | with_reducible apply Kept.abandonMove
    | with_reducible apply Kept.each | with_reducible apply Kept.startResync | with_reducible apply Kept.ite | split
    | intro _

theorem Kept.polderFollows (h : Kept L s₀ s) (hL : [.regs, .pushes, .loops, .sup, .trl, .pilot] ⊆ L) (p : ℕ) (old : PolderState) :
    Kept L s₀ (State.polderFollows s p old) := by
  unfold State.polderFollows
  extract_lets y0
  try clear_value y0
  repeat' first
    | with_reducible assumption | exact List.Subset.trans (by decide) hL | with_reducible apply Kept.drainStops
    | with_reducible apply Kept.refilled | with_reducible apply Kept.ite | split | intro _

theorem Kept.ctlPage (h : Kept L s₀ s) (hL : [.regs, .pushes, .polders, .drainQ, .coll, .loops, .sup, .trl, .pilot] ⊆ L) (pg : ℕ) (w : CtlBits) :
    Kept L s₀ (State.ctlPage s pg w) := by
  unfold State.ctlPage
  repeat' first
    | with_reducible assumption | exact List.Subset.trans (by decide) hL | with_reducible apply Kept.ctlWrite
    | with_reducible apply Kept.polderFollows | with_reducible apply Kept.ite | split | intro _

theorem Kept.drainStarts (h : Kept L s₀ s) (hL : [.regs, .pushes, .sup, .trl] ⊆ L) (p : ℕ) :
    Kept L s₀ (State.drainStarts s p) := by
  unfold State.drainStarts
  repeat' first
    | with_reducible assumption | exact List.Subset.trans (by decide) hL | with_reducible apply Kept.dropCore
    | with_reducible apply Kept.queueEvent | with_reducible apply Kept.wr | with_reducible apply Kept.ite | split | intro _

theorem Kept.drainEvaluate (h : Kept L s₀ s) (hL : [.regs, .pushes, .polders, .drainQ, .coll, .sup, .trl] ⊆ L) :
    Kept L s₀ (State.drainEvaluate s) := by
  unfold State.drainEvaluate
  repeat' first
    | with_reducible assumption | exact List.Subset.trans (by decide) hL
    | ((with_reducible refine Touches.intro fun p hp => ?_); cases p <;> first | exact absurd (by decide) hp | (dsimp only [Part.Same]))
    | with_reducible apply Kept.drainStarts | with_reducible apply Kept.reportPolder | with_reducible apply Kept.setPolder
    | with_reducible apply Kept.ite | split | intro _ | refine Kept.mk_of [.drainQ] ?_ (List.Subset.trans (by decide) hL) ?_

theorem Kept.controllerStops (h : Kept L s₀ s) (hL : [.regs, .pushes, .ifc] ⊆ L) (p : ℕ) :
    Kept L s₀ (State.controllerStops s p) := by
  unfold State.controllerStops
  repeat' first
    | with_reducible assumption | exact List.Subset.trans (by decide) hL | with_reducible apply Kept.ethStop
    | with_reducible apply Kept.spiStop | with_reducible apply Kept.wrB | with_reducible apply Kept.ite | split | intro _

theorem Kept.drainComplete (h : Kept L s₀ s) (hL : [.regs, .pushes, .polders, .ifc] ⊆ L) (p : ℕ) :
    Kept L s₀ (State.drainComplete s p) := by
  unfold State.drainComplete
  repeat' first
    | with_reducible assumption | exact List.Subset.trans (by decide) hL | with_reducible apply Kept.controllerStops
    | with_reducible apply Kept.drained | with_reducible apply Kept.ite | split | intro _

theorem Kept.drainTimeout (h : Kept L s₀ s) (hL : [.regs, .pushes, .polders, .coll, .loops, .sup, .trl, .pilot] ⊆ L) (p : ℕ) :
    Kept L s₀ (State.drainTimeout s p) := by
  unfold State.drainTimeout
  repeat' first
    | with_reducible assumption | exact List.Subset.trans (by decide) hL | with_reducible apply Kept.abandonDrain
    | with_reducible apply Kept.polderFollows | with_reducible apply Kept.ite | split | intro _

theorem Kept.recheckDrains (h : Kept L s₀ s) (hL : [.regs, .pushes, .polders, .coll, .loops, .sup, .trl, .pilot] ⊆ L) :
    Kept L s₀ (State.recheckDrains s) := by
  unfold State.recheckDrains
  repeat' first
    | with_reducible assumption | exact List.Subset.trans (by decide) hL | with_reducible apply Kept.abandonDrain
    | with_reducible apply Kept.each | with_reducible apply Kept.polderFollows | with_reducible apply Kept.ite | split
    | intro _

theorem Kept.coreStalled (h : Kept L s₀ s) (hL : [.regs, .pushes, .polders, .drainQ, .coll, .sup, .guards, .chans, .stages, .sto, .wd] ⊆ L) (c : ℕ) (memory : Bool) :
    Kept L s₀ (State.coreStalled s c memory) := by
  unfold State.coreStalled
  repeat' first
    | with_reducible assumption | exact List.Subset.trans (by decide) hL | with_reducible apply Kept.appStalled
    | with_reducible apply Kept.goOut | with_reducible apply Kept.lockstepMismatch | with_reducible apply Kept.minority
    | with_reducible apply Kept.reportDike | with_reducible apply Kept.ite | split | intro _

theorem Kept.polderLost (h : Kept L s₀ s) (hL : [.regs, .pushes, .polders, .drainQ, .coll, .engines, .loops, .sup, .trl, .guards, .chans, .stages, .samples, .convs, .ifc, .sto, .wd] ⊆ L) (p : ℕ) :
    Kept L s₀ (State.polderLost s p) := by
  unfold State.polderLost
  repeat' first
    | with_reducible assumption | exact List.Subset.trans (by decide) hL | with_reducible apply Kept.appStalled
    | with_reducible apply Kept.clearEngine | with_reducible apply Kept.controllerStops
    | with_reducible apply Kept.converterLost | with_reducible apply Kept.coreStalled | with_reducible apply Kept.pilotCheck
    | with_reducible apply Kept.queueEvent | with_reducible apply Kept.ite | split | intro _

theorem Kept.stallOne (h : Kept L s₀ s) (hL : [.regs, .pushes, .polders, .drainQ, .coll, .engines, .loops, .sup, .trl, .guards, .chans, .stages, .samples, .convs, .ifc, .sto, .wd] ⊆ L) (p : ℕ) :
    Kept L s₀ (State.stallOne s p) := by
  unfold State.stallOne
  extract_lets y0 y1 y2 y3 y4 y5 y6
  try clear_value y0 y1 y4
  have gy2 : Kept L s₀ y2 := by
    unfold y2
    repeat' first
      | with_reducible assumption | exact List.Subset.trans (by decide) hL | with_reducible apply Kept.failPolder
      | with_reducible apply Kept.polderLost | with_reducible apply Kept.reportDike | with_reducible apply Kept.setPolder
      | with_reducible apply Kept.wr | with_reducible apply Kept.wrB | with_reducible apply Kept.ite | split | intro _
  try clear_value y2
  have gy3 : Kept L s₀ y3 := by
    unfold y3
    repeat' first
      | with_reducible assumption | exact List.Subset.trans (by decide) hL | with_reducible apply Kept.failPolder
      | with_reducible apply Kept.polderLost | with_reducible apply Kept.reportDike | with_reducible apply Kept.setPolder
      | with_reducible apply Kept.wr | with_reducible apply Kept.wrB | with_reducible apply Kept.ite | split | intro _
  try clear_value y3
  have gy5 : Kept L s₀ y5 := by
    unfold y5
    repeat' first
      | with_reducible assumption | exact List.Subset.trans (by decide) hL | with_reducible apply Kept.failPolder
      | with_reducible apply Kept.polderLost | with_reducible apply Kept.reportDike | with_reducible apply Kept.setPolder
      | with_reducible apply Kept.wr | with_reducible apply Kept.wrB | with_reducible apply Kept.ite | split | intro _
  try clear_value y5
  have gy6 : Kept L s₀ y6 := by
    unfold y6
    repeat' first
      | with_reducible assumption | exact List.Subset.trans (by decide) hL | with_reducible apply Kept.failPolder
      | with_reducible apply Kept.polderLost | with_reducible apply Kept.reportDike | with_reducible apply Kept.setPolder
      | with_reducible apply Kept.wr | with_reducible apply Kept.wrB | with_reducible apply Kept.ite | split | intro _
  try clear_value y6
  repeat' first
    | with_reducible assumption | exact List.Subset.trans (by decide) hL | with_reducible apply Kept.failPolder
    | with_reducible apply Kept.polderLost | with_reducible apply Kept.reportDike | with_reducible apply Kept.setPolder
    | with_reducible apply Kept.wr | with_reducible apply Kept.wrB | with_reducible apply Kept.ite | split | intro _

theorem Kept.stallClosure (h : Kept L s₀ s) (hL : [.regs, .pushes, .polders, .drainQ, .coll, .engines, .loops, .sup, .trl, .guards, .chans, .stages, .pilot, .samples, .convs, .ifc, .sto, .wd] ⊆ L) (ps : List ℕ) :
    Kept L s₀ (State.stallClosure s ps) := by
  unfold State.stallClosure
  repeat' first
    | with_reducible assumption | exact List.Subset.trans (by decide) hL | with_reducible apply Kept.each
    | with_reducible apply Kept.recheckDrains | with_reducible apply Kept.stallOne | intro _

theorem Kept.closedSluice (h : Kept L s₀ s) (hL : [.regs, .pushes, .mem, .chk, .polders, .coll, .engines, .loops, .trl] ⊆ L) (requester : ℕ) (target : ℕ) (copyOf : Option ℕ) :
    Kept L s₀ (State.closedSluice s requester target copyOf) := by
  unfold State.closedSluice
  extract_lets y0
  have gy0 : Kept L s₀ y0 := by
    unfold y0
    repeat' first
      | with_reducible assumption | exact List.Subset.trans (by decide) hL | with_reducible apply Kept.abandonMove
      | with_reducible apply Kept.endRun | with_reducible apply Kept.reportPolder | with_reducible apply Kept.ite | split
      | intro _
  try clear_value y0
  repeat' first
    | with_reducible assumption | exact List.Subset.trans (by decide) hL | with_reducible apply Kept.abandonMove
    | with_reducible apply Kept.endRun | with_reducible apply Kept.reportPolder | with_reducible apply Kept.ite | split
    | intro _

theorem Kept.testFails (h : Kept L s₀ s) (hL : [.regs, .pushes, .polders, .drainQ, .coll, .sup, .guards, .chans, .stages, .sto] ⊆ L) (p : ℕ) :
    Kept L s₀ (State.testFails s p) := by
  unfold State.testFails
  extract_lets y0
  have gy0 : Kept L s₀ y0 := by
    unfold y0
    repeat' first
      | with_reducible assumption | exact List.Subset.trans (by decide) hL | with_reducible apply Kept.failPolder
      | with_reducible apply Kept.recoveryFailed | with_reducible apply Kept.reportPolder | with_reducible apply Kept.wrB
      | with_reducible apply Kept.ite | split | intro _
  try clear_value y0
  repeat' first
    | with_reducible assumption | exact List.Subset.trans (by decide) hL | with_reducible apply Kept.failPolder
    | with_reducible apply Kept.recoveryFailed | with_reducible apply Kept.reportPolder | with_reducible apply Kept.wrB
    | with_reducible apply Kept.ite | split | intro _

theorem Kept.testPasses (h : Kept L s₀ s) (hL : [.regs, .pushes, .mem, .chk, .polders, .sup, .trl, .pilot, .tdac] ⊆ L) (p : ℕ) :
    Kept L s₀ (State.testPasses s p) := by
  unfold State.testPasses
  extract_lets y0
  have gy0 : Kept L s₀ y0 := by
    unfold y0
    repeat' first
      | with_reducible assumption | exact List.Subset.trans (by decide) hL | with_reducible apply Kept.converterTested
      | with_reducible apply Kept.refill | with_reducible apply Kept.refilled | with_reducible apply Kept.zeroMem
      | with_reducible apply Kept.ite | split | intro _
  try clear_value y0
  repeat' first
    | with_reducible assumption | exact List.Subset.trans (by decide) hL | with_reducible apply Kept.converterTested
    | with_reducible apply Kept.refill | with_reducible apply Kept.refilled | with_reducible apply Kept.zeroMem
    | with_reducible apply Kept.ite | split | intro _

theorem Kept.testComplete (h : Kept L s₀ s) (hL : [.regs, .pushes, .mem, .chk, .polders, .drainQ, .coll, .sup, .trl, .guards, .chans, .stages, .pilot, .tdac, .sto] ⊆ L) (p : ℕ) (pass : Bool) :
    Kept L s₀ (State.testComplete s p pass) := by
  unfold State.testComplete
  repeat' first
    | with_reducible assumption | exact List.Subset.trans (by decide) hL | with_reducible apply Kept.testFails
    | with_reducible apply Kept.testPasses | with_reducible apply Kept.ite | split | intro _

theorem Kept.testWithholds (h : Kept L s₀ s) (hL : [.regs, .pushes, .polders, .drainQ, .coll, .sup, .guards, .chans, .stages, .sto] ⊆ L) (p : ℕ) :
    Kept L s₀ (State.testWithholds s p) := by
  unfold State.testWithholds
  extract_lets y0
  try clear_value y0
  repeat' first
    | with_reducible assumption | exact List.Subset.trans (by decide) hL | with_reducible apply Kept.setPolder
    | with_reducible apply Kept.testFails | with_reducible apply Kept.ite | split | intro _

theorem Kept.appRequest (h : Kept L s₀ s) (hL : [.regs, .pushes] ⊆ L) (n : ℕ) :
    Kept L s₀ (State.appRequest s n) := by
  unfold State.appRequest
  repeat' first
    | with_reducible assumption | exact List.Subset.trans (by decide) hL | with_reducible apply Kept.agrEvent
    | with_reducible apply Kept.wr | split

theorem Kept.appDrainBit (h : Kept L s₀ s) (hL : [.regs, .pushes, .polders, .drainQ, .coll, .loops, .sup, .trl, .pilot] ⊆ L) (n : ℕ) (on : Bool) :
    Kept L s₀ (State.appDrainBit s n on) := by
  unfold State.appDrainBit
  extract_lets y0
  have gy0 : Kept L s₀ y0 := by
    unfold y0
    repeat' first
      | with_reducible assumption | exact List.Subset.trans (by decide) hL | with_reducible apply Kept.ctlDrain
      | with_reducible apply Kept.polderFollows | with_reducible apply Kept.wr | with_reducible apply Kept.ite | split
      | intro _
  try clear_value y0
  repeat' first
    | with_reducible assumption | exact List.Subset.trans (by decide) hL | with_reducible apply Kept.ctlDrain
    | with_reducible apply Kept.polderFollows | with_reducible apply Kept.wr | with_reducible apply Kept.ite | split
    | intro _

theorem Kept.appReleaseBit (h : Kept L s₀ s) (hL : [.regs, .pushes, .polders] ⊆ L) (n : ℕ) :
    Kept L s₀ (State.appReleaseBit s n) := by
  unfold State.appReleaseBit
  repeat' first
    | with_reducible assumption | exact List.Subset.trans (by decide) hL | with_reducible apply Kept.setBusy
    | with_reducible apply Kept.ite | split | intro _

theorem Kept.appCtl (h : Kept L s₀ s) (hL : [.regs, .pushes, .polders, .drainQ, .coll, .loops, .sup, .trl, .pilot] ⊆ L) (drain : ℕ) (release : ℕ) :
    Kept L s₀ (State.appCtl s drain release) := by
  unfold State.appCtl
  extract_lets y0
  have gy0 : Kept L s₀ y0 := by
    unfold y0
    repeat' first
      | with_reducible assumption | exact List.Subset.trans (by decide) hL | with_reducible apply Kept.appDrainBit
      | with_reducible apply Kept.appReleaseBit | with_reducible apply Kept.each | with_reducible apply Kept.ite | split
      | intro _
  try clear_value y0
  repeat' first
    | with_reducible assumption | exact List.Subset.trans (by decide) hL | with_reducible apply Kept.appDrainBit
    | with_reducible apply Kept.appReleaseBit | with_reducible apply Kept.each | with_reducible apply Kept.ite | split
    | intro _

theorem Kept.trellisEvent (h : Kept L s₀ s) (hL : [.regs, .pushes, .mem, .chk, .polders, .coll, .engines, .loops, .sup, .trl, .guards, .pilot] ⊆ L) :
    Kept L s₀ (State.trellisEvent s) := by
  unfold State.trellisEvent
  repeat' first
    | with_reducible assumption | exact List.Subset.trans (by decide) hL | with_reducible apply Kept.placementEvent
    | with_reducible apply Kept.recheckDrains | with_reducible apply Kept.ite | split | intro _

theorem Kept.trellisFault (h : Kept L s₀ s) (hL : [.regs, .pushes, .mem, .chk, .polders, .coll, .engines, .loops, .sup, .trl, .guards, .pilot] ⊆ L) (e : ℕ) :
    Kept L s₀ (State.trellisFault s e) := by
  unfold State.trellisFault
  repeat' first
    | with_reducible assumption | exact List.Subset.trans (by decide) hL | with_reducible apply Kept.faultMoves
    | with_reducible apply Kept.recheckDrains | with_reducible apply Kept.ite | split | intro _

end Sys2Proof.Machine
end

