-- ==== Sys2Proof/Laws/KeptAccess.lean ====
section
/-! SUPPORT. What the operations of Access keep. -/

set_option linter.unusedTactic false
set_option linter.unreachableTactic false
set_option linter.unusedVariables false

namespace Sys2Proof.Machine

variable {L : List Part} {s₀ s : State}

theorem Kept.checkFollows (h : Kept L s₀ s) (hL : [.regs, .pushes, .mem, .chk, .polders, .coll, .engines, .loops, .sup, .trl, .guards, .chans, .stages, .sto] ⊆ L) (o : MemOutcome) :
    Kept L s₀ (State.checkFollows s o) := by
  unfold State.checkFollows
  repeat' first
    | with_reducible assumption | exact List.Subset.trans (by decide) hL | with_reducible apply Kept.goOut
    | with_reducible apply Kept.imageLost | with_reducible apply Kept.ite | split | intro _

theorem Kept.meetsClosed (h : Kept L s₀ s) (hL : [.regs, .pushes, .mem, .chk, .polders, .coll, .engines, .loops, .trl] ⊆ L) (m : Master) (key : ℕ) :
    OptAll (Kept L s₀) (State.meetsClosed s m key) := by
  unfold State.meetsClosed
  repeat' first
    | with_reducible assumption | exact List.Subset.trans (by decide) hL | with_reducible apply Kept.closedSluice
    | with_reducible apply OptAll.none | with_reducible apply OptAll.some | with_reducible apply OptAll.or
    | with_reducible apply OptAll.map | with_reducible apply OptAll.bind | with_reducible apply Kept.ite
    | with_reducible apply Kept.elim | split | intro _ | extract_lets | dsimp only

theorem Kept.memRead (h : Kept L s₀ s) (hL : [.regs, .pushes, .mem, .chk, .polders, .coll, .engines, .loops, .sup, .trl, .guards, .chans, .stages, .sto] ⊆ L) (m : Master) (a : ℕ) (size : ℕ) :
    Kept L s₀ (State.memRead s m a size).2 := by
  unfold State.memRead
  repeat' first
    | with_reducible assumption | exact List.Subset.trans (by decide) hL | with_reducible apply Kept.checkFollows
    | with_reducible apply Kept.checkUnitAt | with_reducible apply Kept.meetsClosed
    | exact (h.meetsClosed (List.Subset.trans (by decide) hL) _ _).all _ (by assumption) | with_reducible apply OptAll.none
    | with_reducible apply OptAll.some | with_reducible apply OptAll.or | with_reducible apply OptAll.map
    | with_reducible apply OptAll.bind | with_reducible apply Kept.ite | with_reducible apply Kept.elim | split | intro _
    | extract_lets | dsimp only

theorem Kept.memPut (h : Kept L s₀ s) (hL : [.regs, .pushes, .mem, .chk, .coll, .engines, .loops, .trl, .guards] ⊆ L) (m : Master) (voted : Bool) (k : ℕ) (size : ℕ) (w : Word) :
    Kept L s₀ (State.memPut s m voted k size w) := by
  unfold State.memPut
  extract_lets y0
  try clear_value y0
  repeat' first
    | with_reducible assumption | exact List.Subset.trans (by decide) hL | with_reducible apply Kept.localWrite
    | with_reducible apply Kept.mramWrite | with_reducible apply Kept.putBytes | with_reducible apply Kept.reportMem
    | with_reducible apply Kept.slotWrite | with_reducible apply Kept.ite | split | intro _

theorem Kept.memWrite (h : Kept L s₀ s) (hL : [.regs, .pushes, .mem, .chk, .polders, .coll, .engines, .loops, .trl, .guards] ⊆ L) (m : Master) (voted : Bool) (a : ℕ) (size : ℕ) (w : Word) :
    Kept L s₀ (State.memWrite s m voted a size w) := by
  unfold State.memWrite
  repeat' first
    | with_reducible assumption | exact List.Subset.trans (by decide) hL | with_reducible apply Kept.meetsClosed
    | with_reducible apply Kept.memPut | exact (h.meetsClosed (List.Subset.trans (by decide) hL) _ _).all _ (by assumption)
    | split

theorem Kept.scrubStep (h : Kept L s₀ s) (hL : [.regs, .pushes, .mem, .chk, .polders, .coll, .engines, .loops, .sup, .trl, .guards, .chans, .stages, .sto] ⊆ L) (a : ℕ) (bad : List ℕ) :
    Kept L s₀ (State.scrubStep s a bad) := by
  unfold State.scrubStep
  extract_lets y0 y1
  have gy0 : Kept L s₀ y0 := by
    unfold y0
    repeat' first
      | with_reducible assumption | exact List.Subset.trans (by decide) hL | with_reducible apply Kept.checkFollows
      | with_reducible apply Kept.checkSram | with_reducible apply Kept.corrupt | with_reducible apply Kept.ite | split
      | intro _
  try clear_value y0
  have gy1 : Kept L s₀ y1.2 := by
    unfold y1
    repeat' first
      | with_reducible assumption | exact List.Subset.trans (by decide) hL | with_reducible apply Kept.checkFollows
      | with_reducible apply Kept.checkSram | with_reducible apply Kept.corrupt | with_reducible apply Kept.ite | split
      | intro _
  try clear_value y1
  repeat' first
    | with_reducible assumption | exact List.Subset.trans (by decide) hL | with_reducible apply Kept.checkFollows
    | with_reducible apply Kept.checkSram | with_reducible apply Kept.corrupt | with_reducible apply Kept.ite | split
    | intro _

theorem Kept.mramScrubStep (h : Kept L s₀ s) (hL : [.regs, .pushes, .chk, .coll] ⊆ L) (a : ℕ) (errs : List (ℕ × ℕ)) :
    Kept L s₀ (State.mramScrubStep s a errs) := by
  unfold State.mramScrubStep
  extract_lets y0
  have gy0 : Kept L s₀ y0 := by
    unfold y0
    repeat' first
      | with_reducible assumption | exact List.Subset.trans (by decide) hL | with_reducible apply Kept.corruptMram
      | with_reducible apply Kept.mramRead | with_reducible apply Kept.ite | split | intro _
  try clear_value y0
  repeat' first
    | with_reducible assumption | exact List.Subset.trans (by decide) hL | with_reducible apply Kept.corruptMram
    | with_reducible apply Kept.mramRead | with_reducible apply Kept.ite | split | intro _

end Sys2Proof.Machine
end

