-- ==== Sys2Proof/Laws/KeptSecurity.lean ====
section
/-! SUPPORT. What the operations of Security keep. -/

set_option linter.unusedTactic false
set_option linter.unreachableTactic false
set_option linter.unusedVariables false

namespace Sys2Proof.Machine

variable {L : List Part} {s₀ s : State}

theorem Kept.setSec (h : Kept L s₀ s) (hL : [.sec] ⊆ L) (f : Security → Security) :
    Kept L s₀ (State.setSec s f) := by
  unfold State.setSec
  repeat' first
    | with_reducible assumption | exact List.Subset.trans (by decide) hL
    | ((with_reducible refine Touches.intro fun p hp => ?_); cases p <;> first | exact absurd (by decide) hp | (dsimp only [Part.Same]))
    | refine Kept.mk_of [.sec] ?_ (List.Subset.trans (by decide) hL) ?_

theorem Kept.setDbg (h : Kept L s₀ s) (hL : [.dbg] ⊆ L) (f : DebugPort → DebugPort) :
    Kept L s₀ (State.setDbg s f) := by
  unfold State.setDbg
  repeat' first
    | with_reducible assumption | exact List.Subset.trans (by decide) hL
    | ((with_reducible refine Touches.intro fun p hp => ?_); cases p <;> first | exact absurd (by decide) hp | (dsimp only [Part.Same]))
    | refine Kept.mk_of [.dbg] ?_ (List.Subset.trans (by decide) hL) ?_

theorem Kept.logVerify (h : Kept L s₀ s) (hL : [.coll] ⊆ L) (cls : ℕ) (step : ℕ) :
    Kept L s₀ (State.logVerify s cls step) := by
  unfold State.logVerify
  repeat' first
    | with_reducible assumption | exact List.Subset.trans (by decide) hL | with_reducible apply Kept.reportFab
    | with_reducible apply Kept.ite | split | intro _

theorem Kept.secResult (h : Kept L s₀ s) (hL : [.regs, .pushes] ⊆ L) (r : ℕ) :
    Kept L s₀ (State.secResult s r) := by
  unfold State.secResult
  repeat' first
    | with_reducible assumption | exact List.Subset.trans (by decide) hL | with_reducible apply Kept.wr

theorem Kept.secSubmit (h : Kept L s₀ s) (hL : [.regs, .pushes, .sec] ⊆ L) (r : SecRequest) :
    Kept L s₀ (State.secSubmit s r) := by
  unfold State.secSubmit
  repeat' first
    | with_reducible assumption | exact List.Subset.trans (by decide) hL | with_reducible apply Kept.secResult
    | with_reducible apply Kept.setSec | with_reducible apply Kept.ite | split | intro _

theorem Kept.unlockRefused (h : Kept L s₀ s) (hL : [.regs, .pushes, .coll] ⊆ L) :
    Kept L s₀ (State.unlockRefused s) := by
  unfold State.unlockRefused
  extract_lets y0 y1
  try clear_value y0
  have gy1 : Kept L s₀ y1 := by
    unfold y1
    repeat' first
      | with_reducible assumption | exact List.Subset.trans (by decide) hL | with_reducible apply Kept.reportFab
      | with_reducible apply Kept.wr | with_reducible apply Kept.wrB | with_reducible apply Kept.ite | split | intro _
  try clear_value y1
  repeat' first
    | with_reducible assumption | exact List.Subset.trans (by decide) hL | with_reducible apply Kept.reportFab
    | with_reducible apply Kept.wr | with_reducible apply Kept.wrB | with_reducible apply Kept.ite | split | intro _

theorem Kept.submitUnlock (h : Kept L s₀ s) (hL : [.regs, .pushes, .coll, .sec] ⊆ L) (token : List Word) :
    Kept L s₀ (State.submitUnlock s token) := by
  unfold State.submitUnlock
  repeat' first
    | with_reducible assumption | exact List.Subset.trans (by decide) hL | with_reducible apply Kept.reportFab
    | with_reducible apply Kept.secResult | with_reducible apply Kept.secSubmit | with_reducible apply Kept.wrB
    | with_reducible apply Kept.ite | split | intro _

theorem Kept.attest (h : Kept L s₀ s) (hL : [.regs, .pushes, .coll, .sec] ⊆ L) :
    Kept L s₀ (State.attest s) := by
  unfold State.attest
  extract_lets y0
  try clear_value y0
  repeat' first
    | with_reducible assumption | exact List.Subset.trans (by decide) hL | with_reducible apply Kept.reportFab
    | with_reducible apply Kept.secResult | with_reducible apply Kept.secSubmit | with_reducible apply Kept.setSec
    | with_reducible apply Kept.ite | split | intro _

theorem Kept.advanceCounter (h : Kept L s₀ s) (hL : [.regs, .pushes, .coll, .sec] ⊆ L) (voted : Bool) (cls : ℕ) (value : ℕ) :
    Kept L s₀ (State.advanceCounter s voted cls value) := by
  unfold State.advanceCounter
  repeat' first
    | with_reducible assumption | exact List.Subset.trans (by decide) hL | with_reducible apply Kept.reportFab
    | with_reducible apply Kept.secResult | with_reducible apply Kept.secSubmit | with_reducible apply Kept.ite | split
    | intro _

theorem Kept.secStart (h : Kept L s₀ s) (hL : [.regs, .pushes, .sec] ⊆ L) :
    Kept L s₀ (State.secStart s) := by
  unfold State.secStart
  repeat' first
    | with_reducible assumption | exact List.Subset.trans (by decide) hL | with_reducible apply Kept.setSec
    | with_reducible apply Kept.wrB | with_reducible apply Kept.ite | split | intro _

theorem Kept.secEnd (h : Kept L s₀ s) (hL : [.regs, .pushes, .sec] ⊆ L) :
    Kept L s₀ (State.secEnd s) := by
  unfold State.secEnd
  repeat' first
    | with_reducible assumption | exact List.Subset.trans (by decide) hL | with_reducible apply Kept.agrEvent
    | with_reducible apply Kept.setSec | with_reducible apply Kept.wrB

theorem Kept.newChallenge (h : Kept L s₀ s) (hL : [.regs, .pushes, .fresh] ⊆ L) :
    Kept L s₀ (State.newChallenge s) := by
  unfold State.newChallenge
  repeat' first
    | with_reducible assumption | exact List.Subset.trans (by decide) hL | with_reducible apply Kept.drawWord
    | with_reducible apply Kept.each | with_reducible apply Kept.setWord | intro _

theorem Kept.levelForces (h : Kept L s₀ s) (hL : [.regs, .pushes, .guards, .chans, .stages] ⊆ L) :
    Kept L s₀ (State.levelForces s) := by
  unfold State.levelForces
  repeat' first
    | with_reducible assumption | exact List.Subset.trans (by decide) hL | with_reducible apply Kept.each
    | with_reducible apply Kept.forceOff | with_reducible apply Kept.wrB | with_reducible apply Kept.ite | split | intro _

theorem Kept.armTest (h : Kept L s₀ s) (hL : [.regs, .pushes, .coll] ⊆ L) :
    Kept L s₀ (State.armTest s) := by
  unfold State.armTest
  extract_lets y0
  have gy0 : Kept L s₀ y0 := by
    unfold y0
    repeat' first
      | with_reducible assumption | exact List.Subset.trans (by decide) hL | with_reducible apply Kept.reportFab
      | with_reducible apply Kept.wrB | with_reducible apply Kept.ite | split | intro _
  try clear_value y0
  repeat' first
    | with_reducible assumption | exact List.Subset.trans (by decide) hL | with_reducible apply Kept.reportFab
    | with_reducible apply Kept.wrB | with_reducible apply Kept.ite | split | intro _

theorem Kept.unlockDone (h : Kept L s₀ s) (hL : [.regs, .pushes, .fresh, .coll, .guards, .chans, .stages] ⊆ L) (r : SecRequest) (f : SecFacts) :
    Kept L s₀ (State.unlockDone s r f) := by
  unfold State.unlockDone
  extract_lets y0 y1 y2 y3 y4 y5 y6 y7
  try clear_value y0 y1 y2
  have gy4 : Kept L s₀ y4 := by
    unfold y4
    repeat' first
      | with_reducible assumption | exact List.Subset.trans (by decide) hL | with_reducible apply Kept.armTest
      | with_reducible apply Kept.levelForces | with_reducible apply Kept.logVerify | with_reducible apply Kept.newChallenge
      | with_reducible apply Kept.reportFab | with_reducible apply Kept.secResult | with_reducible apply Kept.unlockRefused
      | with_reducible apply Kept.wr | with_reducible apply Kept.wrB | with_reducible apply Kept.ite | split | intro _
  try clear_value y4
  have gy5 : Kept L s₀ y5 := by
    unfold y5
    repeat' first
      | with_reducible assumption | exact List.Subset.trans (by decide) hL | with_reducible apply Kept.armTest
      | with_reducible apply Kept.levelForces | with_reducible apply Kept.logVerify | with_reducible apply Kept.newChallenge
      | with_reducible apply Kept.reportFab | with_reducible apply Kept.secResult | with_reducible apply Kept.unlockRefused
      | with_reducible apply Kept.wr | with_reducible apply Kept.wrB | with_reducible apply Kept.ite | split | intro _
  try clear_value y5
  have gy6 : Kept L s₀ y6 := by
    unfold y6
    repeat' first
      | with_reducible assumption | exact List.Subset.trans (by decide) hL | with_reducible apply Kept.armTest
      | with_reducible apply Kept.levelForces | with_reducible apply Kept.logVerify | with_reducible apply Kept.newChallenge
      | with_reducible apply Kept.reportFab | with_reducible apply Kept.secResult | with_reducible apply Kept.unlockRefused
      | with_reducible apply Kept.wr | with_reducible apply Kept.wrB | with_reducible apply Kept.ite | split | intro _
  try clear_value y6
  have gy7 : Kept L s₀ y7 := by
    unfold y7
    repeat' first
      | with_reducible assumption | exact List.Subset.trans (by decide) hL | with_reducible apply Kept.armTest
      | with_reducible apply Kept.levelForces | with_reducible apply Kept.logVerify | with_reducible apply Kept.newChallenge
      | with_reducible apply Kept.reportFab | with_reducible apply Kept.secResult | with_reducible apply Kept.unlockRefused
      | with_reducible apply Kept.wr | with_reducible apply Kept.wrB | with_reducible apply Kept.ite | split | intro _
  try clear_value y7
  repeat' first
    | with_reducible assumption | exact List.Subset.trans (by decide) hL | with_reducible apply Kept.armTest
    | with_reducible apply Kept.levelForces | with_reducible apply Kept.logVerify | with_reducible apply Kept.newChallenge
    | with_reducible apply Kept.reportFab | with_reducible apply Kept.secResult | with_reducible apply Kept.unlockRefused
    | with_reducible apply Kept.wr | with_reducible apply Kept.wrB | with_reducible apply Kept.ite | split | intro _

theorem Kept.lifecycleDone (h : Kept L s₀ s) (hL : [.regs, .pushes, .coll, .sec] ⊆ L) (r : SecRequest) (f : SecFacts) :
    Kept L s₀ (State.lifecycleDone s r f) := by
  unfold State.lifecycleDone
  extract_lets y0 y1 y2
  try clear_value y0
  have gy1 : Kept L s₀ y1 := by
    unfold y1
    repeat' first
      | with_reducible assumption | exact List.Subset.trans (by decide) hL | with_reducible apply Kept.logVerify
      | with_reducible apply Kept.orBits | with_reducible apply Kept.reportFab | with_reducible apply Kept.secResult
      | with_reducible apply Kept.setSec | with_reducible apply Kept.wr | with_reducible apply Kept.ite | split | intro _
  try clear_value y1
  have gy2 : Kept L s₀ y2 := by
    unfold y2
    repeat' first
      | with_reducible assumption | exact List.Subset.trans (by decide) hL | with_reducible apply Kept.logVerify
      | with_reducible apply Kept.orBits | with_reducible apply Kept.reportFab | with_reducible apply Kept.secResult
      | with_reducible apply Kept.setSec | with_reducible apply Kept.wr | with_reducible apply Kept.ite | split | intro _
  try clear_value y2
  repeat' first
    | with_reducible assumption | exact List.Subset.trans (by decide) hL | with_reducible apply Kept.logVerify
    | with_reducible apply Kept.orBits | with_reducible apply Kept.reportFab | with_reducible apply Kept.secResult
    | with_reducible apply Kept.setSec | with_reducible apply Kept.wr | with_reducible apply Kept.ite | split | intro _

theorem Kept.attestDone (h : Kept L s₀ s) (hL : [.regs, .pushes, .coll, .sec] ⊆ L) (f : SecFacts) :
    Kept L s₀ (State.attestDone s f) := by
  unfold State.attestDone
  extract_lets y0 y1 y2 y3
  try clear_value y0 y3
  have gy1 : Kept L s₀ y1 := by
    unfold y1
    repeat' first
      | with_reducible assumption | exact List.Subset.trans (by decide) hL | with_reducible apply Kept.reportFab
      | with_reducible apply Kept.secResult | with_reducible apply Kept.setSec | with_reducible apply Kept.wr
      | with_reducible apply Kept.ite | split | intro _
  try clear_value y1
  have gy2 : Kept L s₀ y2 := by
    unfold y2
    repeat' first
      | with_reducible assumption | exact List.Subset.trans (by decide) hL | with_reducible apply Kept.reportFab
      | with_reducible apply Kept.secResult | with_reducible apply Kept.setSec | with_reducible apply Kept.wr
      | with_reducible apply Kept.ite | split | intro _
  try clear_value y2
  repeat' first
    | with_reducible assumption | exact List.Subset.trans (by decide) hL | with_reducible apply Kept.reportFab
    | with_reducible apply Kept.secResult | with_reducible apply Kept.setSec | with_reducible apply Kept.wr
    | with_reducible apply Kept.ite | split | intro _

theorem Kept.bankDone (h : Kept L s₀ s) (hL : [.regs, .pushes, .coll] ⊆ L) (f : SecFacts) :
    Kept L s₀ (State.bankDone s f) := by
  unfold State.bankDone
  extract_lets y0 y1
  try clear_value y0
  have gy1 : Kept L s₀ y1 := by
    unfold y1
    repeat' first
      | with_reducible assumption | exact List.Subset.trans (by decide) hL | with_reducible apply Kept.each
      | with_reducible apply Kept.logVerify | with_reducible apply Kept.reportFab | with_reducible apply Kept.wr
      | with_reducible apply Kept.wrB | with_reducible apply Kept.ite | split | intro _
  try clear_value y1
  repeat' first
    | with_reducible assumption | exact List.Subset.trans (by decide) hL | with_reducible apply Kept.each
    | with_reducible apply Kept.logVerify | with_reducible apply Kept.reportFab | with_reducible apply Kept.wr
    | with_reducible apply Kept.wrB | with_reducible apply Kept.ite | split | intro _

theorem Kept.secComplete (h : Kept L s₀ s) (hL : [.regs, .pushes, .fresh, .coll, .guards, .chans, .stages, .sec] ⊆ L) (f : SecFacts) :
    Kept L s₀ (State.secComplete s f) := by
  unfold State.secComplete
  repeat' first
    | with_reducible assumption | exact List.Subset.trans (by decide) hL | with_reducible apply Kept.attestDone
    | with_reducible apply Kept.bankDone | with_reducible apply Kept.lifecycleDone | with_reducible apply Kept.reportFab
    | with_reducible apply Kept.secEnd | with_reducible apply Kept.secResult | with_reducible apply Kept.unlockDone
    | with_reducible apply Kept.wr | split

theorem Kept.imageStore (h : Kept L s₀ s) (hL : [.regs, .pushes, .coll, .trl, .sec] ⊆ L) (k : ℕ) :
    Kept L s₀ (State.imageStore s k) := by
  unfold State.imageStore
  extract_lets y0
  have gy0 : Kept L s₀ y0 := by
    unfold y0
    repeat' first
      | with_reducible assumption | exact List.Subset.trans (by decide) hL | with_reducible apply Kept.imgStore
      | with_reducible apply Kept.secSubmit | with_reducible apply Kept.ite | split | intro _
  try clear_value y0
  repeat' first
    | with_reducible assumption | exact List.Subset.trans (by decide) hL | with_reducible apply Kept.imgStore
    | with_reducible apply Kept.secSubmit | with_reducible apply Kept.ite | split | intro _

theorem Kept.imageStored (h : Kept L s₀ s) (hL : [.regs, .pushes, .mem, .chk, .coll, .trl, .sec] ⊆ L) (f : SecFacts) :
    Kept L s₀ (State.imageStored s f) := by
  unfold State.imageStored
  repeat' first
    | with_reducible assumption | exact List.Subset.trans (by decide) hL | with_reducible apply Kept.imgStored
    | with_reducible apply Kept.logVerify | with_reducible apply Kept.secEnd | with_reducible apply Kept.setSec
    | with_reducible apply Kept.ite | split | intro _

theorem Kept.openUpdate (h : Kept L s₀ s) (hL : [.regs, .pushes] ⊆ L) :
    Kept L s₀ (State.openUpdate s) := by
  unfold State.openUpdate
  extract_lets y0 y1
  try clear_value y0
  have gy1 : Kept L s₀ y1 := by
    unfold y1
    repeat' first
      | with_reducible assumption | exact List.Subset.trans (by decide) hL | with_reducible apply Kept.updOpen
      | with_reducible apply Kept.wr | with_reducible apply Kept.wrB | with_reducible apply Kept.ite | split | intro _
  try clear_value y1
  repeat' first
    | with_reducible assumption | exact List.Subset.trans (by decide) hL | with_reducible apply Kept.updOpen
    | with_reducible apply Kept.wr | with_reducible apply Kept.wrB | with_reducible apply Kept.ite | split | intro _

theorem Kept.closeUpdate (h : Kept L s₀ s) (hL : [.regs, .pushes, .sec] ⊆ L) :
    Kept L s₀ (State.closeUpdate s) := by
  unfold State.closeUpdate
  extract_lets y0
  have gy0 : Kept L s₀ y0 := by
    unfold y0
    repeat' first
      | with_reducible assumption | exact List.Subset.trans (by decide) hL | with_reducible apply Kept.secSubmit
      | with_reducible apply Kept.wr | with_reducible apply Kept.wrB | with_reducible apply Kept.ite | split | intro _
  try clear_value y0
  repeat' first
    | with_reducible assumption | exact List.Subset.trans (by decide) hL | with_reducible apply Kept.secSubmit
    | with_reducible apply Kept.wr | with_reducible apply Kept.wrB | with_reducible apply Kept.ite | split | intro _

theorem Kept.tapSelect (h : Kept L s₀ s) (hL : [.dbg] ⊆ L) (t : TapInstr) :
    Kept L s₀ (State.tapSelect s t) := by
  unfold State.tapSelect
  repeat' first
    | with_reducible assumption | exact List.Subset.trans (by decide) hL | with_reducible apply Kept.setDbg

theorem Kept.tapIdcode (h : Kept L s₀ s) (hL : [.dbg, .answer] ⊆ L) :
    Kept L s₀ (State.tapIdcode s) := by
  unfold State.tapIdcode
  repeat' first
    | with_reducible assumption | exact List.Subset.trans (by decide) hL | with_reducible apply Kept.reply
    | with_reducible apply Kept.tapSelect | with_reducible apply Kept.ite | split | intro _

theorem Kept.tapBypass (h : Kept L s₀ s) (hL : [.dbg] ⊆ L) :
    Kept L s₀ (State.tapBypass s) := by
  unfold State.tapBypass
  repeat' first
    | with_reducible assumption | exact List.Subset.trans (by decide) hL | with_reducible apply Kept.tapSelect
    | with_reducible apply Kept.ite | split | intro _

theorem Kept.tapChal (h : Kept L s₀ s) (hL : [.dbg, .answer] ⊆ L) (k : ℕ) :
    Kept L s₀ (State.tapChal s k) := by
  unfold State.tapChal
  repeat' first
    | with_reducible assumption | exact List.Subset.trans (by decide) hL | with_reducible apply Kept.reply
    | with_reducible apply Kept.tapSelect | with_reducible apply Kept.ite | split | intro _

theorem Kept.tapUnlock (h : Kept L s₀ s) (hL : [.regs, .pushes, .coll, .sec, .dbg] ⊆ L) (token : List Word) :
    Kept L s₀ (State.tapUnlock s token) := by
  unfold State.tapUnlock
  repeat' first
    | with_reducible assumption | exact List.Subset.trans (by decide) hL | with_reducible apply Kept.submitUnlock
    | with_reducible apply Kept.tapSelect | with_reducible apply Kept.ite | split | intro _

theorem Kept.tapExtest (h : Kept L s₀ s) (hL : [.dbg] ⊆ L) (bits : ℕ) :
    Kept L s₀ (State.tapExtest s bits) := by
  unfold State.tapExtest
  repeat' first
    | with_reducible assumption | exact List.Subset.trans (by decide) hL | with_reducible apply Kept.setDbg
    | with_reducible apply Kept.tapSelect | with_reducible apply Kept.ite | split | intro _

theorem Kept.tapSample (h : Kept L s₀ s) (hL : [.dbg] ⊆ L) (levels : ℕ) :
    Kept L s₀ (State.tapSample s levels) := by
  unfold State.tapSample
  repeat' first
    | with_reducible assumption | exact List.Subset.trans (by decide) hL | with_reducible apply Kept.setDbg
    | with_reducible apply Kept.tapSelect | with_reducible apply Kept.ite | split | intro _

theorem Kept.sessionStart (h : Kept L s₀ s) (hL : [.regs, .pushes, .coll] ⊆ L) (k : ℕ) :
    Kept L s₀ (State.sessionStart s k) := by
  unfold State.sessionStart
  extract_lets y0 y1
  try clear_value y0
  have gy1 : Kept L s₀ y1 := by
    unfold y1
    repeat' first
      | with_reducible assumption | exact List.Subset.trans (by decide) hL | with_reducible apply Kept.orBits
      | with_reducible apply Kept.reportFab | with_reducible apply Kept.wrB | with_reducible apply Kept.ite | split | intro _
  try clear_value y1
  repeat' first
    | with_reducible assumption | exact List.Subset.trans (by decide) hL | with_reducible apply Kept.orBits
    | with_reducible apply Kept.reportFab | with_reducible apply Kept.wrB | with_reducible apply Kept.ite | split | intro _

theorem Kept.policyTakes (h : Kept L s₀ s) (hL : [.regs, .pushes, .dbg] ⊆ L) :
    Kept L s₀ (State.policyTakes s) := by
  unfold State.policyTakes
  repeat' first
    | with_reducible assumption | exact List.Subset.trans (by decide) hL | with_reducible apply Kept.setDbg
    | with_reducible apply Kept.wr | with_reducible apply Kept.ite | split | intro _

theorem Kept.sessionEnd (h : Kept L s₀ s) (hL : [.regs, .pushes, .dbg] ⊆ L) (k : ℕ) :
    Kept L s₀ (State.sessionEnd s k) := by
  unfold State.sessionEnd
  repeat' first
    | with_reducible assumption | exact List.Subset.trans (by decide) hL | with_reducible apply Kept.policyTakes
    | with_reducible apply Kept.wr | with_reducible apply Kept.wrB | with_reducible apply Kept.ite | split | intro _

theorem Kept.debugBreak (h : Kept L s₀ s) (hL : [.regs, .pushes, .coll, .sup, .guards, .chans, .stages] ⊆ L) :
    Kept L s₀ (State.debugBreak s) := by
  unfold State.debugBreak
  extract_lets y0 y1
  have gy0 : Kept L s₀ y0 := by
    unfold y0
    repeat' first
      | with_reducible assumption | exact List.Subset.trans (by decide) hL | with_reducible apply Kept.each
      | with_reducible apply Kept.forceOff | with_reducible apply Kept.pinSourceSwitch | with_reducible apply Kept.reportFab
      | with_reducible apply Kept.setSup | with_reducible apply Kept.wr | with_reducible apply Kept.wrB
      | with_reducible apply Kept.ite | split | intro _
  try clear_value y0
  have gy1 : Kept L s₀ y1 := by
    unfold y1
    repeat' first
      | with_reducible assumption | exact List.Subset.trans (by decide) hL | with_reducible apply Kept.each
      | with_reducible apply Kept.forceOff | with_reducible apply Kept.pinSourceSwitch | with_reducible apply Kept.reportFab
      | with_reducible apply Kept.setSup | with_reducible apply Kept.wr | with_reducible apply Kept.wrB
      | with_reducible apply Kept.ite | split | intro _
  try clear_value y1
  repeat' first
    | with_reducible assumption | exact List.Subset.trans (by decide) hL | with_reducible apply Kept.each
    | with_reducible apply Kept.forceOff | with_reducible apply Kept.pinSourceSwitch | with_reducible apply Kept.reportFab
    | with_reducible apply Kept.setSup | with_reducible apply Kept.wr | with_reducible apply Kept.wrB
    | with_reducible apply Kept.ite | split | intro _

theorem Kept.breakHalt (h : Kept L s₀ s) (hL : [.regs, .pushes, .coll, .sup, .guards, .chans, .stages] ⊆ L) (k : ℕ) :
    Kept L s₀ (State.breakHalt s k) := by
  unfold State.breakHalt
  repeat' first
    | with_reducible assumption | exact List.Subset.trans (by decide) hL | with_reducible apply Kept.debugBreak
    | with_reducible apply Kept.ite | split | intro _

theorem Kept.debugHalt (h : Kept L s₀ s) (hL : [.regs, .pushes, .coll, .sup, .guards, .chans, .stages, .dbg] ⊆ L) (k : ℕ) :
    Kept L s₀ (State.debugHalt s k) := by
  unfold State.debugHalt
  repeat' first
    | with_reducible assumption | exact List.Subset.trans (by decide) hL | with_reducible apply Kept.breakHalt
    | with_reducible apply Kept.setDbg | with_reducible apply Kept.setSup | with_reducible apply Kept.ite | split | intro _

theorem Kept.debugResume (h : Kept L s₀ s) (hL : [.sup, .dbg] ⊆ L) (k : ℕ) (step : Bool) :
    Kept L s₀ (State.debugResume s k step) := by
  unfold State.debugResume
  repeat' first
    | with_reducible assumption | exact List.Subset.trans (by decide) hL | with_reducible apply Kept.setDbg
    | with_reducible apply Kept.setSup | with_reducible apply Kept.ite | split | intro _

theorem Kept.lowerLevel (h : Kept L s₀ s) (hL : [.regs, .pushes, .loops, .sup, .dbg] ⊆ L) (level : ℕ) :
    Kept L s₀ (State.lowerLevel s level) := by
  unfold State.lowerLevel
  extract_lets y0 y1
  have gy0 : Kept L s₀ y0 := by
    unfold y0
    repeat' first
      | with_reducible assumption | exact List.Subset.trans (by decide) hL | with_reducible apply Kept.each
      | with_reducible apply Kept.setDbg | with_reducible apply Kept.setLoop | with_reducible apply Kept.setSup
      | with_reducible apply Kept.wr | with_reducible apply Kept.wrB | with_reducible apply Kept.ite | split | intro _
  try clear_value y0
  have gy1 : Kept L s₀ y1 := by
    unfold y1
    repeat' first
      | with_reducible assumption | exact List.Subset.trans (by decide) hL | with_reducible apply Kept.each
      | with_reducible apply Kept.setDbg | with_reducible apply Kept.setLoop | with_reducible apply Kept.setSup
      | with_reducible apply Kept.wr | with_reducible apply Kept.wrB | with_reducible apply Kept.ite | split | intro _
  try clear_value y1
  repeat' first
    | with_reducible assumption | exact List.Subset.trans (by decide) hL | with_reducible apply Kept.each
    | with_reducible apply Kept.setDbg | with_reducible apply Kept.setLoop | with_reducible apply Kept.setSup
    | with_reducible apply Kept.wr | with_reducible apply Kept.wrB | with_reducible apply Kept.ite | split | intro _

theorem Kept.debugSnapshot (h : Kept L s₀ s) (hL : [.engines] ⊆ L) (l : ℕ) :
    Kept L s₀ (State.debugSnapshot s l) := by
  unfold State.debugSnapshot
  repeat' first
    | with_reducible assumption | exact List.Subset.trans (by decide) hL | with_reducible apply Kept.snapshotLoop
    | with_reducible apply Kept.ite | split | intro _

theorem Kept.debugHold (h : Kept L s₀ s) (hL : [.loops] ⊆ L) (l : ℕ) (on : Bool) :
    Kept L s₀ (State.debugHold s l on) := by
  unfold State.debugHold
  repeat' first
    | with_reducible assumption | exact List.Subset.trans (by decide) hL | with_reducible apply Kept.holdLoop
    | with_reducible apply Kept.ite | split | intro _

theorem Kept.secWord (h : Kept L s₀ s) (hL : [.fresh] ⊆ L) (off : ℕ) :
    Kept L s₀ (State.secWord s off).2 := by
  unfold State.secWord
  repeat' first
    | with_reducible assumption | exact List.Subset.trans (by decide) hL | with_reducible apply Kept.drawWord
    | with_reducible apply Kept.ite | split | intro _

theorem Kept.secPut (h : Kept L s₀ s) (hL : [.sec] ⊆ L) (off : ℕ) (w : Word) :
    Kept L s₀ (State.secPut s off w) := by
  unfold State.secPut
  repeat' first
    | with_reducible assumption | exact List.Subset.trans (by decide) hL | with_reducible apply Kept.setSec
    | with_reducible apply Kept.ite | split | intro _

end Sys2Proof.Machine
end

