-- ==== Sys2Proof/Laws/KeptFaults.lean ====
section
/-! SUPPORT. What the operations of Faults keep. -/

set_option linter.unusedTactic false
set_option linter.unreachableTactic false
set_option linter.unusedVariables false

namespace Sys2Proof.Machine

variable {L : List Part} {s₀ s : State}

theorem Kept.countEvt (h : Kept L s₀ s) (hL : [.regs, .pushes, .coll] ⊆ L) (p : ℕ) :
    Kept L s₀ (State.countEvt s p) := by
  unfold State.countEvt
  extract_lets y0 y1
  try clear_value y0
  have gy1 : Kept L s₀ y1 := by
    unfold y1
    repeat' first
      | with_reducible assumption | exact List.Subset.trans (by decide) hL | with_reducible apply Kept.reportTp
      | with_reducible apply Kept.wr | with_reducible apply Kept.wrB | with_reducible apply Kept.ite | split | intro _
  try clear_value y1
  repeat' first
    | with_reducible assumption | exact List.Subset.trans (by decide) hL | with_reducible apply Kept.reportTp
    | with_reducible apply Kept.wr | with_reducible apply Kept.wrB | with_reducible apply Kept.ite | split | intro _

theorem Kept.markPage (h : Kept L s₀ s) (hL : [.regs, .pushes, .coll] ⊆ L) (p : ℕ) (cls : FaultClass) (code : ℕ) :
    Kept L s₀ (State.markPage s p cls code) := by
  unfold State.markPage
  extract_lets y0 y1
  have gy0 : Kept L s₀ y0 := by
    unfold y0
    repeat' first
      | with_reducible assumption | exact List.Subset.trans (by decide) hL | with_reducible apply Kept.countEvt
      | with_reducible apply Kept.setWord | with_reducible apply Kept.wr | with_reducible apply Kept.ite | split | intro _
  try clear_value y0
  have gy1 : Kept L s₀ y1 := by
    unfold y1
    repeat' first
      | with_reducible assumption | exact List.Subset.trans (by decide) hL | with_reducible apply Kept.countEvt
      | with_reducible apply Kept.setWord | with_reducible apply Kept.wr | with_reducible apply Kept.ite | split | intro _
  try clear_value y1
  repeat' first
    | with_reducible assumption | exact List.Subset.trans (by decide) hL | with_reducible apply Kept.countEvt
    | with_reducible apply Kept.setWord | with_reducible apply Kept.wr | with_reducible apply Kept.ite | split | intro _

theorem Kept.markSum (h : Kept L s₀ s) (hL : [.regs, .pushes] ⊆ L) (cls : FaultClass) :
    Kept L s₀ (State.markSum s cls) := by
  unfold State.markSum
  repeat' first
    | with_reducible assumption | exact List.Subset.trans (by decide) hL | with_reducible apply Kept.setWord

theorem Kept.pinQualifies (h : Kept L s₀ s) (hL : [.fresh] ⊆ L) (cls : FaultClass) :
    Kept L s₀ (State.pinQualifies s cls).2 := by
  unfold State.pinQualifies
  extract_lets y0
  try clear_value y0
  repeat' first
    | with_reducible assumption | exact List.Subset.trans (by decide) hL | with_reducible apply Kept.drawBit
    | with_reducible apply Kept.ite | split | intro _

theorem Kept.pinAssert (h : Kept L s₀ s) (hL : [.regs, .pushes, .fresh, .coll] ⊆ L) (cls : FaultClass) :
    Kept L s₀ (State.pinAssert s cls) := by
  unfold State.pinAssert
  extract_lets y0 y1 y2
  try clear_value y2
  have gy0 : Kept L s₀ y0.2 := by
    unfold y0
    repeat' first
      | with_reducible assumption | exact List.Subset.trans (by decide) hL
      | ((with_reducible refine Touches.intro fun p hp => ?_); cases p <;> first | exact absurd (by decide) hp | (dsimp only [Part.Same]))
      | with_reducible apply Kept.pinQualifies | with_reducible apply Kept.wrB | with_reducible apply Kept.ite | split
      | intro _ | refine Kept.mk_of [.coll] ?_ (List.Subset.trans (by decide) hL) ?_
  try clear_value y0
  have gy1 : Kept L s₀ y1 := by
    unfold y1
    repeat' first
      | with_reducible assumption | exact List.Subset.trans (by decide) hL
      | ((with_reducible refine Touches.intro fun p hp => ?_); cases p <;> first | exact absurd (by decide) hp | (dsimp only [Part.Same]))
      | with_reducible apply Kept.pinQualifies | with_reducible apply Kept.wrB | with_reducible apply Kept.ite | split
      | intro _ | refine Kept.mk_of [.coll] ?_ (List.Subset.trans (by decide) hL) ?_
  try clear_value y1
  repeat' first
    | with_reducible assumption | exact List.Subset.trans (by decide) hL
    | ((with_reducible refine Touches.intro fun p hp => ?_); cases p <;> first | exact absurd (by decide) hp | (dsimp only [Part.Same]))
    | with_reducible apply Kept.pinQualifies | with_reducible apply Kept.wrB | with_reducible apply Kept.ite | split
    | intro _ | refine Kept.mk_of [.coll] ?_ (List.Subset.trans (by decide) hL) ?_

theorem Kept.reduce (h : Kept L s₀ s) (hL : [.regs, .pushes, .coll] ⊆ L) (cls : FaultClass) :
    Kept L s₀ (State.reduce s cls) := by
  unfold State.reduce
  extract_lets y0 y1 y2 y3 y4
  try clear_value y0 y2 y3
  have gy1 : Kept L s₀ y1 := by
    unfold y1
    repeat' first
      | with_reducible assumption | exact List.Subset.trans (by decide) hL
      | ((with_reducible refine Touches.intro fun p hp => ?_); cases p <;> first | exact absurd (by decide) hp | (dsimp only [Part.Same]))
      | with_reducible apply Kept.reportTp | with_reducible apply Kept.wr | with_reducible apply Kept.wrB
      | with_reducible apply Kept.ite | split | intro _ | refine Kept.mk_of [.coll] ?_ (List.Subset.trans (by decide) hL) ?_
  try clear_value y1
  have gy4 : Kept L s₀ y4 := by
    unfold y4
    repeat' first
      | with_reducible assumption | exact List.Subset.trans (by decide) hL
      | ((with_reducible refine Touches.intro fun p hp => ?_); cases p <;> first | exact absurd (by decide) hp | (dsimp only [Part.Same]))
      | with_reducible apply Kept.reportTp | with_reducible apply Kept.wr | with_reducible apply Kept.wrB
      | with_reducible apply Kept.ite | split | intro _ | refine Kept.mk_of [.coll] ?_ (List.Subset.trans (by decide) hL) ?_
  try clear_value y4
  repeat' first
    | with_reducible assumption | exact List.Subset.trans (by decide) hL
    | ((with_reducible refine Touches.intro fun p hp => ?_); cases p <;> first | exact absurd (by decide) hp | (dsimp only [Part.Same]))
    | with_reducible apply Kept.reportTp | with_reducible apply Kept.wr | with_reducible apply Kept.wrB
    | with_reducible apply Kept.ite | split | intro _ | refine Kept.mk_of [.coll] ?_ (List.Subset.trans (by decide) hL) ?_

theorem Kept.classEffects (h : Kept L s₀ s) (hL : [.regs, .pushes, .fresh, .coll, .guards, .chans, .stages, .sto] ⊆ L) (r : Report) :
    Kept L s₀ (State.classEffects s r) := by
  unfold State.classEffects
  extract_lets y0 y1 y2
  have gy0 : Kept L s₀ y0 := by
    unfold y0
    repeat' first
      | with_reducible assumption | exact List.Subset.trans (by decide) hL | with_reducible apply Kept.agrEvent
      | with_reducible apply Kept.markPage | with_reducible apply Kept.markSum | with_reducible apply Kept.openSto
      | with_reducible apply Kept.pinAssert | with_reducible apply Kept.reduce | with_reducible apply Kept.ite | split
      | intro _
  try clear_value y0
  have gy1 : Kept L s₀ y1 := by
    unfold y1
    repeat' first
      | with_reducible assumption | exact List.Subset.trans (by decide) hL | with_reducible apply Kept.agrEvent
      | with_reducible apply Kept.markPage | with_reducible apply Kept.markSum | with_reducible apply Kept.openSto
      | with_reducible apply Kept.pinAssert | with_reducible apply Kept.reduce | with_reducible apply Kept.ite | split
      | intro _
  try clear_value y1
  have gy2 : Kept L s₀ y2 := by
    unfold y2
    repeat' first
      | with_reducible assumption | exact List.Subset.trans (by decide) hL | with_reducible apply Kept.agrEvent
      | with_reducible apply Kept.markPage | with_reducible apply Kept.markSum | with_reducible apply Kept.openSto
      | with_reducible apply Kept.pinAssert | with_reducible apply Kept.reduce | with_reducible apply Kept.ite | split
      | intro _
  try clear_value y2
  repeat' first
    | with_reducible assumption | exact List.Subset.trans (by decide) hL | with_reducible apply Kept.agrEvent
    | with_reducible apply Kept.markPage | with_reducible apply Kept.markSum | with_reducible apply Kept.openSto
    | with_reducible apply Kept.pinAssert | with_reducible apply Kept.reduce | with_reducible apply Kept.ite | split
    | intro _

theorem Kept.arrive (h : Kept L s₀ s) (hL : [.regs, .pushes, .fresh, .coll, .guards, .chans, .stages, .sto] ⊆ L) (i : ℕ) (inReset : Bool) :
    Kept L s₀ (State.arrive s i inReset) := by
  unfold State.arrive
  extract_lets y0 y1 y2
  try clear_value y0 y2
  have gy1 : Kept L s₀ y1 := by
    unfold y1
    repeat' first
      | with_reducible assumption | exact List.Subset.trans (by decide) hL
      | ((with_reducible refine Touches.intro fun p hp => ?_); cases p <;> first | exact absurd (by decide) hp | (dsimp only [Part.Same]))
      | with_reducible apply Kept.classEffects | with_reducible apply Kept.count | with_reducible apply Kept.ite | split
      | intro _ | refine Kept.mk_of [.coll] ?_ (List.Subset.trans (by decide) hL) ?_
  try clear_value y1
  repeat' first
    | with_reducible assumption | exact List.Subset.trans (by decide) hL
    | ((with_reducible refine Touches.intro fun p hp => ?_); cases p <;> first | exact absurd (by decide) hp | (dsimp only [Part.Same]))
    | with_reducible apply Kept.classEffects | with_reducible apply Kept.count | with_reducible apply Kept.ite | split
    | intro _ | refine Kept.mk_of [.coll] ?_ (List.Subset.trans (by decide) hL) ?_

theorem Kept.putEntry (h : Kept L s₀ s) (hL : [.regs, .pushes] ⊆ L) (off : ℕ) (r : Report) (seq : ℕ) :
    Kept L s₀ (State.putEntry s off r seq) := by
  unfold State.putEntry
  extract_lets y0 y1 y2
  try clear_value y0 y1
  repeat' first
    | with_reducible assumption | exact List.Subset.trans (by decide) hL | with_reducible apply Kept.setWord

theorem Kept.writeEntry (h : Kept L s₀ s) (hL : [.regs, .pushes, .coll] ⊆ L) (r : Report) :
    Kept L s₀ (State.writeEntry s r) := by
  unfold State.writeEntry
  extract_lets y0 y1 y2 y3 y4 y5 y6 y7 y8
  try clear_value y0 y1 y4 y7
  have gy2 : Kept L s₀ y2 := by
    unfold y2
    repeat' first
      | with_reducible assumption | exact List.Subset.trans (by decide) hL
      | ((with_reducible refine Touches.intro fun p hp => ?_); cases p <;> first | exact absurd (by decide) hp | (dsimp only [Part.Same]))
      | with_reducible apply Kept.putEntry | with_reducible apply Kept.wr | with_reducible apply Kept.ite | split | intro _
      | refine Kept.mk_of [.coll] ?_ (List.Subset.trans (by decide) hL) ?_
  try clear_value y2
  have gy3 : Kept L s₀ y3 := by
    unfold y3
    repeat' first
      | with_reducible assumption | exact List.Subset.trans (by decide) hL
      | ((with_reducible refine Touches.intro fun p hp => ?_); cases p <;> first | exact absurd (by decide) hp | (dsimp only [Part.Same]))
      | with_reducible apply Kept.putEntry | with_reducible apply Kept.wr | with_reducible apply Kept.ite | split | intro _
      | refine Kept.mk_of [.coll] ?_ (List.Subset.trans (by decide) hL) ?_
  try clear_value y3
  have gy5 : Kept L s₀ y5 := by
    unfold y5
    repeat' first
      | with_reducible assumption | exact List.Subset.trans (by decide) hL
      | ((with_reducible refine Touches.intro fun p hp => ?_); cases p <;> first | exact absurd (by decide) hp | (dsimp only [Part.Same]))
      | with_reducible apply Kept.putEntry | with_reducible apply Kept.wr | with_reducible apply Kept.ite | split | intro _
      | refine Kept.mk_of [.coll] ?_ (List.Subset.trans (by decide) hL) ?_
  try clear_value y5
  have gy6 : Kept L s₀ y6 := by
    unfold y6
    repeat' first
      | with_reducible assumption | exact List.Subset.trans (by decide) hL
      | ((with_reducible refine Touches.intro fun p hp => ?_); cases p <;> first | exact absurd (by decide) hp | (dsimp only [Part.Same]))
      | with_reducible apply Kept.putEntry | with_reducible apply Kept.wr | with_reducible apply Kept.ite | split | intro _
      | refine Kept.mk_of [.coll] ?_ (List.Subset.trans (by decide) hL) ?_
  try clear_value y6
  have gy8 : Kept L s₀ y8 := by
    unfold y8
    repeat' first
      | with_reducible assumption | exact List.Subset.trans (by decide) hL
      | ((with_reducible refine Touches.intro fun p hp => ?_); cases p <;> first | exact absurd (by decide) hp | (dsimp only [Part.Same]))
      | with_reducible apply Kept.putEntry | with_reducible apply Kept.wr | with_reducible apply Kept.ite | split | intro _
      | refine Kept.mk_of [.coll] ?_ (List.Subset.trans (by decide) hL) ?_
  try clear_value y8
  repeat' first
    | with_reducible assumption | exact List.Subset.trans (by decide) hL
    | ((with_reducible refine Touches.intro fun p hp => ?_); cases p <;> first | exact absurd (by decide) hp | (dsimp only [Part.Same]))
    | with_reducible apply Kept.putEntry | with_reducible apply Kept.wr | with_reducible apply Kept.ite | split | intro _
    | refine Kept.mk_of [.coll] ?_ (List.Subset.trans (by decide) hL) ?_

theorem Kept.logNext (h : Kept L s₀ s) (hL : [.regs, .pushes, .coll] ⊆ L) :
    Kept L s₀ (State.logNext s) := by
  unfold State.logNext
  extract_lets y0
  try clear_value y0
  repeat' first
    | with_reducible assumption | exact List.Subset.trans (by decide) hL
    | ((with_reducible refine Touches.intro fun p hp => ?_); cases p <;> first | exact absurd (by decide) hp | (dsimp only [Part.Same]))
    | with_reducible apply Kept.writeEntry | split | refine Kept.mk_of [.coll] ?_ (List.Subset.trans (by decide) hL) ?_

theorem Kept.clearSum (h : Kept L s₀ s) (hL : [.regs, .pushes, .coll] ⊆ L) (bits : ℕ) :
    Kept L s₀ (State.clearSum s bits) := by
  unfold State.clearSum
  extract_lets y0 y1 y2
  try clear_value y0 y2
  have gy1 : Kept L s₀ y1 := by
    unfold y1
    repeat' first
      | with_reducible assumption | exact List.Subset.trans (by decide) hL
      | ((with_reducible refine Touches.intro fun p hp => ?_); cases p <;> first | exact absurd (by decide) hp | (dsimp only [Part.Same]))
      | with_reducible apply Kept.setWord | refine Kept.mk_of [.coll] ?_ (List.Subset.trans (by decide) hL) ?_
  try clear_value y1
  repeat' first
    | with_reducible assumption | exact List.Subset.trans (by decide) hL
    | ((with_reducible refine Touches.intro fun p hp => ?_); cases p <;> first | exact absurd (by decide) hp | (dsimp only [Part.Same]))
    | with_reducible apply Kept.setWord | refine Kept.mk_of [.coll] ?_ (List.Subset.trans (by decide) hL) ?_

theorem Kept.clearPageFlt (h : Kept L s₀ s) (hL : [.regs, .pushes] ⊆ L) (p : ℕ) (bits : ℕ) :
    Kept L s₀ (State.clearPageFlt s p bits) := by
  unfold State.clearPageFlt
  extract_lets y0 y1 y2 y3
  try clear_value y0 y1 y2
  have gy3 : Kept L s₀ y3 := by
    unfold y3
    repeat' first
      | with_reducible assumption | exact List.Subset.trans (by decide) hL | with_reducible apply Kept.setWord
      | with_reducible apply Kept.wr | with_reducible apply Kept.ite | split | intro _
  try clear_value y3
  repeat' first
    | with_reducible assumption | exact List.Subset.trans (by decide) hL | with_reducible apply Kept.setWord
    | with_reducible apply Kept.wr | with_reducible apply Kept.ite | split | intro _

theorem Kept.pinWidthEnd (h : Kept L s₀ s) (hL : [.regs, .pushes, .coll] ⊆ L) :
    Kept L s₀ (State.pinWidthEnd s) := by
  unfold State.pinWidthEnd
  extract_lets y0
  try clear_value y0
  repeat' first
    | with_reducible assumption | exact List.Subset.trans (by decide) hL
    | ((with_reducible refine Touches.intro fun p hp => ?_); cases p <;> first | exact absurd (by decide) hp | (dsimp only [Part.Same]))
    | with_reducible apply Kept.wrB | with_reducible apply Kept.ite | split | intro _
    | refine Kept.mk_of [.coll] ?_ (List.Subset.trans (by decide) hL) ?_

theorem Kept.pinLevel (h : Kept L s₀ s) (hL : [.regs, .pushes] ⊆ L) (level : Bool) :
    Kept L s₀ (State.pinLevel s level) := by
  unfold State.pinLevel
  extract_lets y0
  have gy0 : Kept L s₀ y0 := by
    unfold y0
    repeat' first
      | with_reducible assumption | exact List.Subset.trans (by decide) hL | with_reducible apply Kept.wrB
      | with_reducible apply Kept.ite | split | intro _
  try clear_value y0
  repeat' first
    | with_reducible assumption | exact List.Subset.trans (by decide) hL | with_reducible apply Kept.wrB
    | with_reducible apply Kept.ite | split | intro _

theorem Kept.reducedExit (h : Kept L s₀ s) (hL : [.regs, .pushes, .coll] ⊆ L) :
    Kept L s₀ (State.reducedExit s) := by
  unfold State.reducedExit
  extract_lets y0
  try clear_value y0
  repeat' first
    | with_reducible assumption | exact List.Subset.trans (by decide) hL | with_reducible apply Kept.reportTp
    | with_reducible apply Kept.wr | with_reducible apply Kept.ite | split | intro _

end Sys2Proof.Machine
end

