-- ==== Sys2Proof/Laws/KeptStartup.lean ====
section
/-! SUPPORT. What the operations of Startup keep. -/

set_option linter.unusedTactic false
set_option linter.unreachableTactic false
set_option linter.unusedVariables false

namespace Sys2Proof.Machine

variable {L : List Part} {s₀ s : State}

theorem Kept.setPwr (h : Kept L s₀ s) (hL : [.pwr] ⊆ L) (f : Power → Power) :
    Kept L s₀ (State.setPwr s f) := by
  unfold State.setPwr
  repeat' first
    | with_reducible assumption | exact List.Subset.trans (by decide) hL
    | ((with_reducible refine Touches.intro fun p hp => ?_); cases p <;> first | exact absurd (by decide) hp | (dsimp only [Part.Same]))
    | refine Kept.mk_of [.pwr] ?_ (List.Subset.trans (by decide) hL) ?_

theorem Kept.setPowerState (h : Kept L s₀ s) (hL : [.regs, .pushes] ⊆ L) (k : ℕ) :
    Kept L s₀ (State.setPowerState s k) := by
  unfold State.setPowerState
  repeat' first
    | with_reducible assumption | exact List.Subset.trans (by decide) hL | with_reducible apply Kept.wr

theorem Kept.volatileLost (h : Kept L s₀ s) (hL : [.regs, .staged, .marks, .pushes, .ledger, .mem, .chk, .polders, .drainQ, .coll, .tp, .hif, .commit, .engines, .loops, .slotShadows, .sup, .trl, .guards, .chans, .stages, .pilot, .samples, .waitingSeqs, .convs, .tdac, .sdFrom, .resolvers, .enc, .ifc, .syn, .sec, .dbg, .pwr, .sto, .wd] ⊆ L) (keep : Nat → Nat → Bool) : Kept L s₀ (s.volatileLost keep) :=
  h.change _ hL (fun k => ⟨tabWf_filter k.mem _, tabWf_filter k.regs _, rfl, k.now⟩) (by
    unfold State.volatileLost
    exact fun p hp => by cases p <;> first | exact absurd (by decide) hp | rfl)

theorem Kept.bootRecord (h : Kept L s₀ s) (hL : [.regs, .pushes] ⊆ L) (old : State) :
    Kept L s₀ (State.bootRecord s old) := by
  unfold State.bootRecord
  extract_lets y0 y1
  try clear_value y0
  have gy1 : Kept L s₀ y1 := by
    unfold y1
    repeat' first
      | with_reducible assumption | exact List.Subset.trans (by decide) hL | with_reducible apply Kept.setWord
      | with_reducible apply Kept.wr
  try clear_value y1
  repeat' first
    | with_reducible assumption | exact List.Subset.trans (by decide) hL | with_reducible apply Kept.setWord
    | with_reducible apply Kept.wr

theorem Kept.keepCrowbar (h : Kept L s₀ s) (hL : [.regs, .pushes] ⊆ L) (old : State) :
    Kept L s₀ (State.keepCrowbar s old) := by
  unfold State.keepCrowbar
  repeat' first
    | with_reducible assumption | exact List.Subset.trans (by decide) hL | with_reducible apply Kept.wrB
    | with_reducible apply Kept.ite | split | intro _

theorem Kept.deviceCleared (h : Kept L s₀ s) (hL : [.regs, .staged, .marks, .pushes, .ledger, .mem, .chk, .polders, .drainQ, .coll, .tp, .hif, .commit, .engines, .loops, .slotShadows, .sup, .trl, .guards, .chans, .stages, .pilot, .samples, .waitingSeqs, .convs, .tdac, .sdFrom, .resolvers, .enc, .ifc, .syn, .sec, .dbg, .pwr, .sto, .wd] ⊆ L) (cause : ℕ) :
    Kept L s₀ (State.deviceCleared s cause) := by
  unfold State.deviceCleared
  extract_lets y0 y1 y2
  try clear_value y0
  have gy1 : Kept L s₀ y1 := by
    unfold y1
    repeat' first
      | with_reducible assumption | exact List.Subset.trans (by decide) hL
      | ((with_reducible refine Touches.intro fun p hp => ?_); cases p <;> first | exact absurd (by decide) hp | (dsimp only [Part.Same]))
      | with_reducible apply Kept.bootRecord | with_reducible apply Kept.keepCrowbar | with_reducible apply Kept.volatileLost
      | with_reducible apply Kept.wr | with_reducible apply Kept.ite | split | intro _
      | refine Kept.mk_of [.coll, .tp] ?_ (List.Subset.trans (by decide) hL) ?_
  try clear_value y1
  have gy2 : Kept L s₀ y2 := by
    unfold y2
    repeat' first
      | with_reducible assumption | exact List.Subset.trans (by decide) hL
      | ((with_reducible refine Touches.intro fun p hp => ?_); cases p <;> first | exact absurd (by decide) hp | (dsimp only [Part.Same]))
      | with_reducible apply Kept.bootRecord | with_reducible apply Kept.keepCrowbar | with_reducible apply Kept.volatileLost
      | with_reducible apply Kept.wr | with_reducible apply Kept.ite | split | intro _
      | refine Kept.mk_of [.coll, .tp] ?_ (List.Subset.trans (by decide) hL) ?_
  try clear_value y2
  repeat' first
    | with_reducible assumption | exact List.Subset.trans (by decide) hL
    | ((with_reducible refine Touches.intro fun p hp => ?_); cases p <;> first | exact absurd (by decide) hp | (dsimp only [Part.Same]))
    | with_reducible apply Kept.bootRecord | with_reducible apply Kept.keepCrowbar | with_reducible apply Kept.volatileLost
    | with_reducible apply Kept.wr | with_reducible apply Kept.ite | split | intro _
    | refine Kept.mk_of [.coll, .tp] ?_ (List.Subset.trans (by decide) hL) ?_

theorem Kept.beginReset (h : Kept L s₀ s) (hL : [.regs, .staged, .marks, .pushes, .ledger, .mem, .chk, .polders, .drainQ, .coll, .tp, .hif, .commit, .engines, .loops, .slotShadows, .sup, .trl, .guards, .chans, .stages, .pilot, .samples, .waitingSeqs, .convs, .tdac, .sdFrom, .resolvers, .enc, .ifc, .syn, .sec, .dbg, .pwr, .sto, .wd] ⊆ L) (cause : ℕ) :
    Kept L s₀ (State.beginReset s cause) := by
  unfold State.beginReset
  extract_lets y0 y1 y2 y3 y4
  try clear_value y0
  have gy1 : Kept L s₀ y1 := by
    unfold y1
    repeat' first
      | with_reducible assumption | exact List.Subset.trans (by decide) hL | with_reducible apply Kept.deviceCleared
      | with_reducible apply Kept.setPwr | with_reducible apply Kept.wr | with_reducible apply Kept.wrB
      | with_reducible apply Kept.wrStamp | with_reducible apply Kept.ite | split | intro _
  try clear_value y1
  have gy2 : Kept L s₀ y2 := by
    unfold y2
    repeat' first
      | with_reducible assumption | exact List.Subset.trans (by decide) hL | with_reducible apply Kept.deviceCleared
      | with_reducible apply Kept.setPwr | with_reducible apply Kept.wr | with_reducible apply Kept.wrB
      | with_reducible apply Kept.wrStamp | with_reducible apply Kept.ite | split | intro _
  try clear_value y2
  have gy3 : Kept L s₀ y3 := by
    unfold y3
    repeat' first
      | with_reducible assumption | exact List.Subset.trans (by decide) hL | with_reducible apply Kept.deviceCleared
      | with_reducible apply Kept.setPwr | with_reducible apply Kept.wr | with_reducible apply Kept.wrB
      | with_reducible apply Kept.wrStamp | with_reducible apply Kept.ite | split | intro _
  try clear_value y3
  have gy4 : Kept L s₀ y4 := by
    unfold y4
    repeat' first
      | with_reducible assumption | exact List.Subset.trans (by decide) hL | with_reducible apply Kept.deviceCleared
      | with_reducible apply Kept.setPwr | with_reducible apply Kept.wr | with_reducible apply Kept.wrB
      | with_reducible apply Kept.wrStamp | with_reducible apply Kept.ite | split | intro _
  try clear_value y4
  repeat' first
    | with_reducible assumption | exact List.Subset.trans (by decide) hL | with_reducible apply Kept.deviceCleared
    | with_reducible apply Kept.setPwr | with_reducible apply Kept.wr | with_reducible apply Kept.wrB
    | with_reducible apply Kept.wrStamp | with_reducible apply Kept.ite | split | intro _

theorem Kept.collectorStop (h : Kept L s₀ s) (hL : [.coll] ⊆ L) :
    Kept L s₀ (State.collectorStop s) := by
  unfold State.collectorStop
  extract_lets y0 y1
  try clear_value y0 y1
  repeat' first
    | with_reducible assumption | exact List.Subset.trans (by decide) hL
    | ((with_reducible refine Touches.intro fun p hp => ?_); cases p <;> first | exact absurd (by decide) hp | (dsimp only [Part.Same]))
    | with_reducible apply Kept.ite | split | intro _ | refine Kept.mk_of [.coll] ?_ (List.Subset.trans (by decide) hL) ?_

theorem Kept.resetEntry (h : Kept L s₀ s) (hL : [.regs, .pushes, .coll] ⊆ L) (cls : FaultClass) (code : ℕ) (detail : ℕ) (stamp : ℕ) :
    Kept L s₀ (State.resetEntry s cls code detail stamp) := by
  unfold State.resetEntry
  extract_lets y0
  have gy0 : Kept L s₀ y0 := by
    unfold y0
    repeat' first
      | with_reducible assumption | exact List.Subset.trans (by decide) hL | with_reducible apply Kept.markPage
      | with_reducible apply Kept.markSum | with_reducible apply Kept.writeEntry
  try clear_value y0
  repeat' first
    | with_reducible assumption | exact List.Subset.trans (by decide) hL | with_reducible apply Kept.markPage
    | with_reducible apply Kept.markSum | with_reducible apply Kept.writeEntry

theorem Kept.collectorRestart (h : Kept L s₀ s) (hL : [.regs, .pushes, .coll, .pwr] ⊆ L) :
    Kept L s₀ (State.collectorRestart s) := by
  unfold State.collectorRestart
  extract_lets y0 y1 y2 y3 y4 y5 y6 y7 y8 y9
  have gy5 : Kept L s₀ y5 := by
    unfold y5
    repeat' first
      | with_reducible assumption | exact List.Subset.trans (by decide) hL
      | ((with_reducible refine Touches.intro fun p hp => ?_); cases p <;> first | exact absurd (by decide) hp | (dsimp only [Part.Same]))
      | with_reducible apply Kept.reportDike | with_reducible apply Kept.resetEntry | with_reducible apply Kept.setPwr
      | with_reducible apply Kept.ite | split | intro _ | refine Kept.mk_of [.coll] ?_ (List.Subset.trans (by decide) hL) ?_
  have gy6 : Kept L s₀ y6 := by
    unfold y6
    repeat' first
      | with_reducible assumption | exact List.Subset.trans (by decide) hL
      | ((with_reducible refine Touches.intro fun p hp => ?_); cases p <;> first | exact absurd (by decide) hp | (dsimp only [Part.Same]))
      | with_reducible apply Kept.reportDike | with_reducible apply Kept.resetEntry | with_reducible apply Kept.setPwr
      | with_reducible apply Kept.ite | split | intro _ | refine Kept.mk_of [.coll] ?_ (List.Subset.trans (by decide) hL) ?_
  have gy7 : Kept L s₀ y7 := by
    unfold y7
    repeat' first
      | with_reducible assumption | exact List.Subset.trans (by decide) hL
      | ((with_reducible refine Touches.intro fun p hp => ?_); cases p <;> first | exact absurd (by decide) hp | (dsimp only [Part.Same]))
      | with_reducible apply Kept.reportDike | with_reducible apply Kept.resetEntry | with_reducible apply Kept.setPwr
      | with_reducible apply Kept.ite | split | intro _ | refine Kept.mk_of [.coll] ?_ (List.Subset.trans (by decide) hL) ?_
  have gy8 : Kept L s₀ y8 := by
    unfold y8
    repeat' first
      | with_reducible assumption | exact List.Subset.trans (by decide) hL
      | ((with_reducible refine Touches.intro fun p hp => ?_); cases p <;> first | exact absurd (by decide) hp | (dsimp only [Part.Same]))
      | with_reducible apply Kept.reportDike | with_reducible apply Kept.resetEntry | with_reducible apply Kept.setPwr
      | with_reducible apply Kept.ite | split | intro _ | refine Kept.mk_of [.coll] ?_ (List.Subset.trans (by decide) hL) ?_
  repeat' first
    | with_reducible assumption | exact List.Subset.trans (by decide) hL
    | ((with_reducible refine Touches.intro fun p hp => ?_); cases p <;> first | exact absurd (by decide) hp | (dsimp only [Part.Same]))
    | with_reducible apply Kept.reportDike | with_reducible apply Kept.resetEntry | with_reducible apply Kept.setPwr
    | with_reducible apply Kept.ite | split | intro _ | refine Kept.mk_of [.coll] ?_ (List.Subset.trans (by decide) hL) ?_

theorem Kept.bootStart (h : Kept L s₀ s) (hL : [.regs, .pushes, .fresh, .polders, .coll, .pwr] ⊆ L) (c0 : Bool) (c1 : Bool) (c2 : Bool) :
    Kept L s₀ (State.bootStart s c0 c1 c2) := by
  unfold State.bootStart
  extract_lets y0 y1 y2 y3 y4
  try clear_value y0
  have gy1 : Kept L s₀ y1 := by
    unfold y1
    repeat' first
      | with_reducible assumption | exact List.Subset.trans (by decide) hL
      | ((with_reducible refine Touches.intro fun p hp => ?_); cases p <;> first | exact absurd (by decide) hp | (dsimp only [Part.Same]))
      | with_reducible apply Kept.each | with_reducible apply Kept.enablePolder | with_reducible apply Kept.newChallenge
      | with_reducible apply Kept.setPwr | with_reducible apply Kept.wr | with_reducible apply Kept.wrB
      | with_reducible apply Kept.ite | split | intro _ | refine Kept.mk_of [.coll] ?_ (List.Subset.trans (by decide) hL) ?_
  try clear_value y1
  have gy2 : Kept L s₀ y2 := by
    unfold y2
    repeat' first
      | with_reducible assumption | exact List.Subset.trans (by decide) hL
      | ((with_reducible refine Touches.intro fun p hp => ?_); cases p <;> first | exact absurd (by decide) hp | (dsimp only [Part.Same]))
      | with_reducible apply Kept.each | with_reducible apply Kept.enablePolder | with_reducible apply Kept.newChallenge
      | with_reducible apply Kept.setPwr | with_reducible apply Kept.wr | with_reducible apply Kept.wrB
      | with_reducible apply Kept.ite | split | intro _ | refine Kept.mk_of [.coll] ?_ (List.Subset.trans (by decide) hL) ?_
  try clear_value y2
  have gy3 : Kept L s₀ y3 := by
    unfold y3
    repeat' first
      | with_reducible assumption | exact List.Subset.trans (by decide) hL
      | ((with_reducible refine Touches.intro fun p hp => ?_); cases p <;> first | exact absurd (by decide) hp | (dsimp only [Part.Same]))
      | with_reducible apply Kept.each | with_reducible apply Kept.enablePolder | with_reducible apply Kept.newChallenge
      | with_reducible apply Kept.setPwr | with_reducible apply Kept.wr | with_reducible apply Kept.wrB
      | with_reducible apply Kept.ite | split | intro _ | refine Kept.mk_of [.coll] ?_ (List.Subset.trans (by decide) hL) ?_
  try clear_value y3
  have gy4 : Kept L s₀ y4 := by
    unfold y4
    repeat' first
      | with_reducible assumption | exact List.Subset.trans (by decide) hL
      | ((with_reducible refine Touches.intro fun p hp => ?_); cases p <;> first | exact absurd (by decide) hp | (dsimp only [Part.Same]))
      | with_reducible apply Kept.each | with_reducible apply Kept.enablePolder | with_reducible apply Kept.newChallenge
      | with_reducible apply Kept.setPwr | with_reducible apply Kept.wr | with_reducible apply Kept.wrB
      | with_reducible apply Kept.ite | split | intro _ | refine Kept.mk_of [.coll] ?_ (List.Subset.trans (by decide) hL) ?_
  try clear_value y4
  repeat' first
    | with_reducible assumption | exact List.Subset.trans (by decide) hL
    | ((with_reducible refine Touches.intro fun p hp => ?_); cases p <;> first | exact absurd (by decide) hp | (dsimp only [Part.Same]))
    | with_reducible apply Kept.each | with_reducible apply Kept.enablePolder | with_reducible apply Kept.newChallenge
    | with_reducible apply Kept.setPwr | with_reducible apply Kept.wr | with_reducible apply Kept.wrB
    | with_reducible apply Kept.ite | split | intro _ | refine Kept.mk_of [.coll] ?_ (List.Subset.trans (by decide) hL) ?_

theorem Kept.resetRelease (h : Kept L s₀ s) (hL : [.regs, .pushes, .fresh, .polders, .coll, .pwr] ⊆ L) (c0 : Bool) (c1 : Bool) (c2 : Bool) :
    Kept L s₀ (State.resetRelease s c0 c1 c2) := by
  unfold State.resetRelease
  repeat' first
    | with_reducible assumption | exact List.Subset.trans (by decide) hL | with_reducible apply Kept.bootStart
    | with_reducible apply Kept.ite | split | intro _

theorem Kept.pinAssertReset (h : Kept L s₀ s) (hL : [.regs, .staged, .marks, .pushes, .ledger, .mem, .chk, .polders, .drainQ, .coll, .tp, .hif, .commit, .engines, .loops, .slotShadows, .sup, .trl, .guards, .chans, .stages, .pilot, .samples, .waitingSeqs, .convs, .tdac, .sdFrom, .resolvers, .enc, .ifc, .syn, .sec, .dbg, .pwr, .sto, .wd] ⊆ L) :
    Kept L s₀ (State.pinAssertReset s) := by
  unfold State.pinAssertReset
  extract_lets y0
  have gy0 : Kept L s₀ y0 := by
    unfold y0
    repeat' first
      | with_reducible assumption | exact List.Subset.trans (by decide) hL | with_reducible apply Kept.beginReset
      | with_reducible apply Kept.setPwr | with_reducible apply Kept.ite | split | intro _
  try clear_value y0
  repeat' first
    | with_reducible assumption | exact List.Subset.trans (by decide) hL | with_reducible apply Kept.beginReset
    | with_reducible apply Kept.setPwr | with_reducible apply Kept.ite | split | intro _

theorem Kept.resetHeld (h : Kept L s₀ s) (hL : [.regs, .pushes] ⊆ L) :
    Kept L s₀ (State.resetHeld s) := by
  unfold State.resetHeld
  repeat' first
    | with_reducible assumption | exact List.Subset.trans (by decide) hL | with_reducible apply Kept.wrB
    | with_reducible apply Kept.ite | split | intro _

theorem Kept.pinReleaseReset (h : Kept L s₀ s) (hL : [.regs, .pushes, .fresh, .polders, .coll, .pwr] ⊆ L) (c0 : Bool) (c1 : Bool) (c2 : Bool) :
    Kept L s₀ (State.pinReleaseReset s c0 c1 c2) := by
  unfold State.pinReleaseReset
  extract_lets y0
  have gy0 : Kept L s₀ y0 := by
    unfold y0
    repeat' first
      | with_reducible assumption | exact List.Subset.trans (by decide) hL | with_reducible apply Kept.bootStart
      | with_reducible apply Kept.setPwr | with_reducible apply Kept.wrB | with_reducible apply Kept.ite | split | intro _
  try clear_value y0
  repeat' first
    | with_reducible assumption | exact List.Subset.trans (by decide) hL | with_reducible apply Kept.bootStart
    | with_reducible apply Kept.setPwr | with_reducible apply Kept.wrB | with_reducible apply Kept.ite | split | intro _

theorem Kept.supplyValid (h : Kept L s₀ s) (hL : [.pwr] ⊆ L) :
    Kept L s₀ (State.supplyValid s) := by
  unfold State.supplyValid
  repeat' first
    | with_reducible assumption | exact List.Subset.trans (by decide) hL | with_reducible apply Kept.setPwr
    | with_reducible apply Kept.ite | split | intro _

theorem Kept.pllLock (h : Kept L s₀ s) (hL : [.regs, .pushes, .now, .fresh, .polders, .coll, .pwr] ⊆ L) (carried : ℕ) (c0 : Bool) (c1 : Bool) (c2 : Bool) :
    Kept L s₀ (State.pllLock s carried c0 c1 c2) := by
  unfold State.pllLock
  extract_lets y0 y1
  have gy0 : Kept L s₀ y0 := by
    unfold y0
    repeat' first
      | with_reducible assumption | exact List.Subset.trans (by decide) hL
      | ((with_reducible refine Touches.intro fun p hp => ?_); cases p <;> first | exact absurd (by decide) hp | (dsimp only [Part.Same]))
      | with_reducible apply Kept.bootStart | with_reducible apply Kept.setPwr | with_reducible apply Kept.wrB
      | exact Kept.setNow (by with_reducible assumption) (List.Subset.trans (by decide) hL) _ (stampAdd_lt _ _)
      | with_reducible apply Kept.ite | with_reducible apply Kept.elim | split | intro _ | extract_lets
      | refine Kept.mk_of [.now] ?_ (List.Subset.trans (by decide) hL) ?_ | dsimp only
  try clear_value y0
  have gy1 : Kept L s₀ y1 := by
    unfold y1
    repeat' first
      | with_reducible assumption | exact List.Subset.trans (by decide) hL
      | ((with_reducible refine Touches.intro fun p hp => ?_); cases p <;> first | exact absurd (by decide) hp | (dsimp only [Part.Same]))
      | with_reducible apply Kept.bootStart | with_reducible apply Kept.setPwr | with_reducible apply Kept.wrB
      | exact Kept.setNow (by with_reducible assumption) (List.Subset.trans (by decide) hL) _ (stampAdd_lt _ _)
      | with_reducible apply Kept.ite | with_reducible apply Kept.elim | split | intro _ | extract_lets
      | refine Kept.mk_of [.now] ?_ (List.Subset.trans (by decide) hL) ?_ | dsimp only
  try clear_value y1
  repeat' first
    | with_reducible assumption | exact List.Subset.trans (by decide) hL
    | ((with_reducible refine Touches.intro fun p hp => ?_); cases p <;> first | exact absurd (by decide) hp | (dsimp only [Part.Same]))
    | with_reducible apply Kept.bootStart | with_reducible apply Kept.setPwr | with_reducible apply Kept.wrB
    | exact Kept.setNow (by with_reducible assumption) (List.Subset.trans (by decide) hL) _ (stampAdd_lt _ _)
    | with_reducible apply Kept.ite | with_reducible apply Kept.elim | split | intro _ | extract_lets
    | refine Kept.mk_of [.now] ?_ (List.Subset.trans (by decide) hL) ?_ | dsimp only

theorem Kept.trialBank (h : Kept L s₀ s) (hL : [.regs, .pushes, .coll] ⊆ L) :
    Kept L s₀ (State.trialBank s).2 := by
  unfold State.trialBank
  extract_lets y0
  try clear_value y0
  repeat' first
    | with_reducible assumption | exact List.Subset.trans (by decide) hL | with_reducible apply Kept.reportDike
    | with_reducible apply Kept.wr | with_reducible apply Kept.wrB | with_reducible apply Kept.ite | split | intro _

theorem Kept.chooseBank (h : Kept L s₀ s) (hL : [.regs, .pushes, .coll] ⊆ L) (tried : ℕ) (other : ℕ) :
    Kept L s₀ (State.chooseBank s tried other).2 := by
  unfold State.chooseBank
  extract_lets y0 y1 y2 y3
  have gy0 : Kept L s₀ y0.2 := by
    unfold y0
    repeat' first
      | with_reducible assumption | exact List.Subset.trans (by decide) hL | with_reducible apply Kept.logVerify
      | with_reducible apply Kept.reportDike | with_reducible apply Kept.trialBank | with_reducible apply Kept.wr
      | with_reducible apply Kept.wrB | with_reducible apply OptAll.none | with_reducible apply OptAll.some
      | with_reducible apply OptAll.or | with_reducible apply OptAll.map | with_reducible apply OptAll.bind
      | with_reducible apply Kept.ite | split | intro _
  try clear_value y0
  have gy1 : Kept L s₀ y1 := by
    unfold y1
    repeat' first
      | with_reducible assumption | exact List.Subset.trans (by decide) hL | with_reducible apply Kept.logVerify
      | with_reducible apply Kept.reportDike | with_reducible apply Kept.trialBank | with_reducible apply Kept.wr
      | with_reducible apply Kept.wrB | with_reducible apply OptAll.none | with_reducible apply OptAll.some
      | with_reducible apply OptAll.or | with_reducible apply OptAll.map | with_reducible apply OptAll.bind
      | with_reducible apply Kept.ite | split | intro _
  try clear_value y1
  have gy2 : Kept L s₀ y2 := by
    unfold y2
    repeat' first
      | with_reducible assumption | exact List.Subset.trans (by decide) hL | with_reducible apply Kept.logVerify
      | with_reducible apply Kept.reportDike | with_reducible apply Kept.trialBank | with_reducible apply Kept.wr
      | with_reducible apply Kept.wrB | with_reducible apply OptAll.none | with_reducible apply OptAll.some
      | with_reducible apply OptAll.or | with_reducible apply OptAll.map | with_reducible apply OptAll.bind
      | with_reducible apply Kept.ite | split | intro _
  try clear_value y2
  have gy3 : Kept L s₀ y3 := by
    unfold y3
    repeat' first
      | with_reducible assumption | exact List.Subset.trans (by decide) hL | with_reducible apply Kept.logVerify
      | with_reducible apply Kept.reportDike | with_reducible apply Kept.trialBank | with_reducible apply Kept.wr
      | with_reducible apply Kept.wrB | with_reducible apply OptAll.none | with_reducible apply OptAll.some
      | with_reducible apply OptAll.or | with_reducible apply OptAll.map | with_reducible apply OptAll.bind
      | with_reducible apply Kept.ite | split | intro _
  try clear_value y3
  repeat' first
    | with_reducible assumption | exact List.Subset.trans (by decide) hL | with_reducible apply Kept.logVerify
    | with_reducible apply Kept.reportDike | with_reducible apply Kept.trialBank | with_reducible apply Kept.wr
    | with_reducible apply Kept.wrB | with_reducible apply OptAll.none | with_reducible apply OptAll.some
    | with_reducible apply OptAll.or | with_reducible apply OptAll.map | with_reducible apply OptAll.bind
    | with_reducible apply Kept.ite | split | intro _

theorem Kept.verifyRest (h : Kept L s₀ s) (hL : [.regs, .pushes, .polders, .coll, .sup, .sec] ⊆ L) (classes : List (ℕ × ℕ)) (slots : List (ℕ × ℕ)) :
    Kept L s₀ (State.verifyRest s classes slots) := by
  unfold State.verifyRest
  extract_lets y0 y1 y2 y3 y4 y5 y6
  have gy0 : Kept L s₀ y0 := by
    unfold y0
    repeat' first
      | with_reducible assumption | exact List.Subset.trans (by decide) hL | with_reducible apply Kept.each
      | with_reducible apply Kept.enablePolder | with_reducible apply Kept.logVerify | with_reducible apply Kept.markSlot
      | with_reducible apply Kept.setSec | with_reducible apply Kept.setSup | with_reducible apply Kept.wrB
      | with_reducible apply Kept.ite | split | intro _
  try clear_value y0
  have gy1 : Kept L s₀ y1 := by
    unfold y1
    repeat' first
      | with_reducible assumption | exact List.Subset.trans (by decide) hL | with_reducible apply Kept.each
      | with_reducible apply Kept.enablePolder | with_reducible apply Kept.logVerify | with_reducible apply Kept.markSlot
      | with_reducible apply Kept.setSec | with_reducible apply Kept.setSup | with_reducible apply Kept.wrB
      | with_reducible apply Kept.ite | split | intro _
  try clear_value y1
  have gy2 : Kept L s₀ y2 := by
    unfold y2
    repeat' first
      | with_reducible assumption | exact List.Subset.trans (by decide) hL | with_reducible apply Kept.each
      | with_reducible apply Kept.enablePolder | with_reducible apply Kept.logVerify | with_reducible apply Kept.markSlot
      | with_reducible apply Kept.setSec | with_reducible apply Kept.setSup | with_reducible apply Kept.wrB
      | with_reducible apply Kept.ite | split | intro _
  try clear_value y2
  have gy3 : Kept L s₀ y3 := by
    unfold y3
    repeat' first
      | with_reducible assumption | exact List.Subset.trans (by decide) hL | with_reducible apply Kept.each
      | with_reducible apply Kept.enablePolder | with_reducible apply Kept.logVerify | with_reducible apply Kept.markSlot
      | with_reducible apply Kept.setSec | with_reducible apply Kept.setSup | with_reducible apply Kept.wrB
      | with_reducible apply Kept.ite | split | intro _
  try clear_value y3
  have gy4 : Kept L s₀ y4 := by
    unfold y4
    repeat' first
      | with_reducible assumption | exact List.Subset.trans (by decide) hL | with_reducible apply Kept.each
      | with_reducible apply Kept.enablePolder | with_reducible apply Kept.logVerify | with_reducible apply Kept.markSlot
      | with_reducible apply Kept.setSec | with_reducible apply Kept.setSup | with_reducible apply Kept.wrB
      | with_reducible apply Kept.ite | split | intro _
  try clear_value y4
  have gy5 : Kept L s₀ y5 := by
    unfold y5
    repeat' first
      | with_reducible assumption | exact List.Subset.trans (by decide) hL | with_reducible apply Kept.each
      | with_reducible apply Kept.enablePolder | with_reducible apply Kept.logVerify | with_reducible apply Kept.markSlot
      | with_reducible apply Kept.setSec | with_reducible apply Kept.setSup | with_reducible apply Kept.wrB
      | with_reducible apply Kept.ite | split | intro _
  try clear_value y5
  have gy6 : Kept L s₀ y6 := by
    unfold y6
    repeat' first
      | with_reducible assumption | exact List.Subset.trans (by decide) hL | with_reducible apply Kept.each
      | with_reducible apply Kept.enablePolder | with_reducible apply Kept.logVerify | with_reducible apply Kept.markSlot
      | with_reducible apply Kept.setSec | with_reducible apply Kept.setSup | with_reducible apply Kept.wrB
      | with_reducible apply Kept.ite | split | intro _
  try clear_value y6
  repeat' first
    | with_reducible assumption | exact List.Subset.trans (by decide) hL | with_reducible apply Kept.each
    | with_reducible apply Kept.enablePolder | with_reducible apply Kept.logVerify | with_reducible apply Kept.markSlot
    | with_reducible apply Kept.setSec | with_reducible apply Kept.setSup | with_reducible apply Kept.wrB
    | with_reducible apply Kept.ite | split | intro _

theorem Kept.supervisorRelease (h : Kept L s₀ s) (hL : [.regs, .pushes, .polders, .coll, .sup, .sec, .pwr] ⊆ L) (tried : ℕ) (other : ℕ) (classes : List (ℕ × ℕ)) (slots : List (ℕ × ℕ)) :
    Kept L s₀ (State.supervisorRelease s tried other classes slots) := by
  unfold State.supervisorRelease
  extract_lets y0 y1 y2 y3
  try clear_value y0 y1
  have gy2 : Kept L s₀ y2.2 := by
    unfold y2
    repeat' first
      | with_reducible assumption | exact List.Subset.trans (by decide) hL | with_reducible apply Kept.chooseBank
      | with_reducible apply Kept.each | with_reducible apply Kept.enablePolder | with_reducible apply Kept.setBusy
      | with_reducible apply Kept.setPwr | with_reducible apply Kept.setSup | with_reducible apply Kept.verifyRest
      | with_reducible apply Kept.wr | with_reducible apply Kept.ite | split | intro _
  try clear_value y2
  have gy3 : Kept L s₀ y3 := by
    unfold y3
    repeat' first
      | with_reducible assumption | exact List.Subset.trans (by decide) hL | with_reducible apply Kept.chooseBank
      | with_reducible apply Kept.each | with_reducible apply Kept.enablePolder | with_reducible apply Kept.setBusy
      | with_reducible apply Kept.setPwr | with_reducible apply Kept.setSup | with_reducible apply Kept.verifyRest
      | with_reducible apply Kept.wr | with_reducible apply Kept.ite | split | intro _
  try clear_value y3
  repeat' first
    | with_reducible assumption | exact List.Subset.trans (by decide) hL | with_reducible apply Kept.chooseBank
    | with_reducible apply Kept.each | with_reducible apply Kept.enablePolder | with_reducible apply Kept.setBusy
    | with_reducible apply Kept.setPwr | with_reducible apply Kept.setSup | with_reducible apply Kept.verifyRest
    | with_reducible apply Kept.wr | with_reducible apply Kept.ite | split | intro _

theorem Kept.heartbeatRow (h : Kept L s₀ s) (hL : [.regs, .pushes, .wd] ⊆ L) (seq : ℕ) :
    Kept L s₀ (State.heartbeatRow s seq) := by
  unfold State.heartbeatRow
  extract_lets y0 y1
  try clear_value y0
  have gy1 : Kept L s₀ y1 := by
    unfold y1
    repeat' first
      | with_reducible assumption | exact List.Subset.trans (by decide) hL | with_reducible apply Kept.agrEvent
      | with_reducible apply Kept.heartbeatWrite | with_reducible apply Kept.setPowerState | with_reducible apply Kept.ite
      | split | intro _
  try clear_value y1
  repeat' first
    | with_reducible assumption | exact List.Subset.trans (by decide) hL | with_reducible apply Kept.agrEvent
    | with_reducible apply Kept.heartbeatWrite | with_reducible apply Kept.setPowerState | with_reducible apply Kept.ite
    | split | intro _

theorem Kept.dikeCleared (h : Kept L s₀ s) (hL : [.regs, .staged, .marks, .pushes, .ledger, .mem, .chk, .now, .polders, .drainQ, .coll, .tp, .hif, .commit, .engines, .loops, .slotShadows, .sup, .trl, .guards, .chans, .stages, .pilot, .samples, .waitingSeqs, .convs, .tdac, .sdFrom, .resolvers, .enc, .ifc, .syn, .sec, .dbg, .pwr, .sto, .wd] ⊆ L) :
    Kept L s₀ (State.dikeCleared s) := by
  unfold State.dikeCleared
  extract_lets y0
  have gy0 : Kept L s₀ y0 := by
    unfold y0
    repeat' first
      | with_reducible assumption | exact List.Subset.trans (by decide) hL
      | ((with_reducible refine Touches.intro fun p hp => ?_); cases p <;> first | exact absurd (by decide) hp | (dsimp only [Part.Same]))
      | with_reducible apply Kept.bootRecord | with_reducible apply Kept.volatileLost
      | exact Kept.setNow (by with_reducible assumption) (List.Subset.trans (by decide) hL) 0 (by decide)
      | with_reducible apply Kept.ite | with_reducible apply Kept.elim | split | intro _ | extract_lets
      | refine Kept.mk_of [.now] ?_ (List.Subset.trans (by decide) hL) ?_ | dsimp only
  try clear_value y0
  repeat' first
    | with_reducible assumption | exact List.Subset.trans (by decide) hL
    | ((with_reducible refine Touches.intro fun p hp => ?_); cases p <;> first | exact absurd (by decide) hp | (dsimp only [Part.Same]))
    | with_reducible apply Kept.bootRecord | with_reducible apply Kept.volatileLost
    | exact Kept.setNow (by with_reducible assumption) (List.Subset.trans (by decide) hL) 0 (by decide)
    | with_reducible apply Kept.ite | with_reducible apply Kept.elim | split | intro _ | extract_lets
    | refine Kept.mk_of [.now] ?_ (List.Subset.trans (by decide) hL) ?_ | dsimp only

theorem Kept.dikeLoss (h : Kept L s₀ s) (hL : [.regs, .staged, .marks, .pushes, .ledger, .mem, .chk, .now, .polders, .drainQ, .coll, .tp, .hif, .commit, .engines, .loops, .slotShadows, .sup, .trl, .guards, .chans, .stages, .pilot, .samples, .waitingSeqs, .convs, .tdac, .sdFrom, .resolvers, .enc, .ifc, .syn, .sec, .dbg, .pwr, .sto, .wd] ⊆ L) :
    Kept L s₀ (State.dikeLoss s) := by
  unfold State.dikeLoss
  repeat' first
    | with_reducible assumption | exact List.Subset.trans (by decide) hL | with_reducible apply Kept.dikeCleared
    | with_reducible apply Kept.setPwr

theorem Kept.dikePowerOn (h : Kept L s₀ s) (hL : [.regs, .staged, .marks, .pushes, .ledger, .mem, .chk, .now, .polders, .drainQ, .coll, .tp, .hif, .commit, .engines, .loops, .slotShadows, .sup, .trl, .guards, .chans, .stages, .pilot, .samples, .waitingSeqs, .convs, .tdac, .sdFrom, .resolvers, .enc, .ifc, .syn, .sec, .dbg, .pwr, .sto, .wd] ⊆ L) :
    Kept L s₀ (State.dikePowerOn s) := by
  unfold State.dikePowerOn
  repeat' first
    | with_reducible assumption | exact List.Subset.trans (by decide) hL | with_reducible apply Kept.dikeCleared
    | with_reducible apply Kept.ite | split | intro _

theorem Kept.powerRefuse (h : Kept L s₀ s) (hL : [.regs, .pushes, .coll] ⊆ L) (reason : ℕ) :
    Kept L s₀ (State.powerRefuse s reason) := by
  unfold State.powerRefuse
  repeat' first
    | with_reducible assumption | exact List.Subset.trans (by decide) hL | with_reducible apply Kept.agrEvent
    | with_reducible apply Kept.reportDike | with_reducible apply Kept.wr

theorem Kept.powerRequest (h : Kept L s₀ s) (hL : [.regs, .pushes, .coll, .pwr] ⊆ L) (dest : ℕ) :
    Kept L s₀ (State.powerRequest s dest) := by
  unfold State.powerRequest
  extract_lets y0 y1
  try clear_value y1
  have gy0 : Kept L s₀ y0 := by
    unfold y0
    repeat' first
      | with_reducible assumption | exact List.Subset.trans (by decide) hL | with_reducible apply Kept.powerRefuse
      | with_reducible apply Kept.setPwr | with_reducible apply Kept.wrB | with_reducible apply Kept.ite | split | intro _
  try clear_value y0
  repeat' first
    | with_reducible assumption | exact List.Subset.trans (by decide) hL | with_reducible apply Kept.powerRefuse
    | with_reducible apply Kept.setPwr | with_reducible apply Kept.wrB | with_reducible apply Kept.ite | split | intro _

theorem Kept.standbyPolders (h : Kept L s₀ s) (hL : [.regs, .pushes, .polders] ⊆ L) :
    Kept L s₀ (State.standbyPolders s) := by
  unfold State.standbyPolders
  repeat' first
    | with_reducible assumption | exact List.Subset.trans (by decide) hL | with_reducible apply Kept.each
    | with_reducible apply Kept.setPolder | with_reducible apply Kept.ite | split | intro _

theorem Kept.enterStandby (h : Kept L s₀ s) (hL : [.regs, .pushes, .mem, .chk, .polders, .coll, .engines, .loops, .trl, .guards, .waitingSeqs, .convs] ⊆ L) :
    Kept L s₀ (State.enterStandby s) := by
  unfold State.enterStandby
  extract_lets y0 y1 y2 y3
  have gy0 : Kept L s₀ y0 := by
    unfold y0
    repeat' first
      | with_reducible assumption | exact List.Subset.trans (by decide) hL
      | ((with_reducible refine Touches.intro fun p hp => ?_); cases p <;> first | exact absurd (by decide) hp | (dsimp only [Part.Same]))
      | with_reducible apply Kept.cancelGraft | with_reducible apply Kept.each | with_reducible apply Kept.setEng
      | with_reducible apply Kept.setLoop | with_reducible apply Kept.setPowerState | with_reducible apply Kept.showPlacement
      | with_reducible apply Kept.standbyPolders | with_reducible apply Kept.zeroMem | with_reducible apply Kept.ite | split
      | intro _ | refine Kept.mk_of [.guards, .waitingSeqs, .convs] ?_ (List.Subset.trans (by decide) hL) ?_
  try clear_value y0
  have gy1 : Kept L s₀ y1 := by
    unfold y1
    repeat' first
      | with_reducible assumption | exact List.Subset.trans (by decide) hL
      | ((with_reducible refine Touches.intro fun p hp => ?_); cases p <;> first | exact absurd (by decide) hp | (dsimp only [Part.Same]))
      | with_reducible apply Kept.cancelGraft | with_reducible apply Kept.each | with_reducible apply Kept.setEng
      | with_reducible apply Kept.setLoop | with_reducible apply Kept.setPowerState | with_reducible apply Kept.showPlacement
      | with_reducible apply Kept.standbyPolders | with_reducible apply Kept.zeroMem | with_reducible apply Kept.ite | split
      | intro _ | refine Kept.mk_of [.guards, .waitingSeqs, .convs] ?_ (List.Subset.trans (by decide) hL) ?_
  try clear_value y1
  have gy2 : Kept L s₀ y2 := by
    unfold y2
    repeat' first
      | with_reducible assumption | exact List.Subset.trans (by decide) hL
      | ((with_reducible refine Touches.intro fun p hp => ?_); cases p <;> first | exact absurd (by decide) hp | (dsimp only [Part.Same]))
      | with_reducible apply Kept.cancelGraft | with_reducible apply Kept.each | with_reducible apply Kept.setEng
      | with_reducible apply Kept.setLoop | with_reducible apply Kept.setPowerState | with_reducible apply Kept.showPlacement
      | with_reducible apply Kept.standbyPolders | with_reducible apply Kept.zeroMem | with_reducible apply Kept.ite | split
      | intro _ | refine Kept.mk_of [.guards, .waitingSeqs, .convs] ?_ (List.Subset.trans (by decide) hL) ?_
  try clear_value y2
  have gy3 : Kept L s₀ y3 := by
    unfold y3
    repeat' first
      | with_reducible assumption | exact List.Subset.trans (by decide) hL
      | ((with_reducible refine Touches.intro fun p hp => ?_); cases p <;> first | exact absurd (by decide) hp | (dsimp only [Part.Same]))
      | with_reducible apply Kept.cancelGraft | with_reducible apply Kept.each | with_reducible apply Kept.setEng
      | with_reducible apply Kept.setLoop | with_reducible apply Kept.setPowerState | with_reducible apply Kept.showPlacement
      | with_reducible apply Kept.standbyPolders | with_reducible apply Kept.zeroMem | with_reducible apply Kept.ite | split
      | intro _ | refine Kept.mk_of [.guards, .waitingSeqs, .convs] ?_ (List.Subset.trans (by decide) hL) ?_
  try clear_value y3
  repeat' first
    | with_reducible assumption | exact List.Subset.trans (by decide) hL
    | ((with_reducible refine Touches.intro fun p hp => ?_); cases p <;> first | exact absurd (by decide) hp | (dsimp only [Part.Same]))
    | with_reducible apply Kept.cancelGraft | with_reducible apply Kept.each | with_reducible apply Kept.setEng
    | with_reducible apply Kept.setLoop | with_reducible apply Kept.setPowerState | with_reducible apply Kept.showPlacement
    | with_reducible apply Kept.standbyPolders | with_reducible apply Kept.zeroMem | with_reducible apply Kept.ite | split
    | intro _ | refine Kept.mk_of [.guards, .waitingSeqs, .convs] ?_ (List.Subset.trans (by decide) hL) ?_

theorem Kept.enterRun (h : Kept L s₀ s) (hL : [.regs, .pushes, .polders, .loops, .trl] ⊆ L) :
    Kept L s₀ (State.enterRun s) := by
  unfold State.enterRun
  extract_lets y0 y1 y2
  have gy0 : Kept L s₀ y0 := by
    unfold y0
    repeat' first
      | with_reducible assumption | exact List.Subset.trans (by decide) hL | with_reducible apply Kept.each
      | with_reducible apply Kept.enablePolder | with_reducible apply Kept.queueEvent | with_reducible apply Kept.setLoop
      | with_reducible apply Kept.setPowerState | with_reducible apply Kept.ite | split | intro _
  try clear_value y0
  have gy1 : Kept L s₀ y1 := by
    unfold y1
    repeat' first
      | with_reducible assumption | exact List.Subset.trans (by decide) hL | with_reducible apply Kept.each
      | with_reducible apply Kept.enablePolder | with_reducible apply Kept.queueEvent | with_reducible apply Kept.setLoop
      | with_reducible apply Kept.setPowerState | with_reducible apply Kept.ite | split | intro _
  try clear_value y1
  have gy2 : Kept L s₀ y2 := by
    unfold y2
    repeat' first
      | with_reducible assumption | exact List.Subset.trans (by decide) hL | with_reducible apply Kept.each
      | with_reducible apply Kept.enablePolder | with_reducible apply Kept.queueEvent | with_reducible apply Kept.setLoop
      | with_reducible apply Kept.setPowerState | with_reducible apply Kept.ite | split | intro _
  try clear_value y2
  repeat' first
    | with_reducible assumption | exact List.Subset.trans (by decide) hL | with_reducible apply Kept.each
    | with_reducible apply Kept.enablePolder | with_reducible apply Kept.queueEvent | with_reducible apply Kept.setLoop
    | with_reducible apply Kept.setPowerState | with_reducible apply Kept.ite | split | intro _

theorem Kept.enterSleep (h : Kept L s₀ s) (hL : [.regs, .staged, .marks, .pushes, .ledger, .mem, .chk, .polders, .drainQ, .coll, .tp, .hif, .commit, .engines, .loops, .slotShadows, .sup, .trl, .guards, .chans, .stages, .pilot, .samples, .waitingSeqs, .convs, .tdac, .sdFrom, .resolvers, .enc, .ifc, .syn, .sec, .dbg, .pwr, .sto, .wd] ⊆ L) :
    Kept L s₀ (State.enterSleep s) := by
  unfold State.enterSleep
  extract_lets y0 y1
  have gy0 : Kept L s₀ y0 := by
    unfold y0
    repeat' first
      | with_reducible assumption | exact List.Subset.trans (by decide) hL
      | ((with_reducible refine Touches.intro fun p hp => ?_); cases p <;> first | exact absurd (by decide) hp | (dsimp only [Part.Same]))
      | with_reducible apply Kept.keepCrowbar | with_reducible apply Kept.setPowerState | with_reducible apply Kept.setPwr
      | with_reducible apply Kept.setWord | with_reducible apply Kept.volatileLost
      | exact Kept.setStaged (by with_reducible assumption) (List.Subset.trans (by decide) hL) _ _ fun k => tabWf_filter (h.sound k).staged _
      | with_reducible apply Kept.ite | with_reducible apply Kept.elim | split | intro _ | extract_lets
      | refine Kept.mk_of [.staged, .coll] ?_ (List.Subset.trans (by decide) hL) ?_ | dsimp only
  try clear_value y0
  have gy1 : Kept L s₀ y1 := by
    unfold y1
    repeat' first
      | with_reducible assumption | exact List.Subset.trans (by decide) hL
      | ((with_reducible refine Touches.intro fun p hp => ?_); cases p <;> first | exact absurd (by decide) hp | (dsimp only [Part.Same]))
      | with_reducible apply Kept.keepCrowbar | with_reducible apply Kept.setPowerState | with_reducible apply Kept.setPwr
      | with_reducible apply Kept.setWord | with_reducible apply Kept.volatileLost
      | exact Kept.setStaged (by with_reducible assumption) (List.Subset.trans (by decide) hL) _ _ fun k => tabWf_filter (h.sound k).staged _
      | with_reducible apply Kept.ite | with_reducible apply Kept.elim | split | intro _ | extract_lets
      | refine Kept.mk_of [.staged, .coll] ?_ (List.Subset.trans (by decide) hL) ?_ | dsimp only
  try clear_value y1
  repeat' first
    | with_reducible assumption | exact List.Subset.trans (by decide) hL
    | ((with_reducible refine Touches.intro fun p hp => ?_); cases p <;> first | exact absurd (by decide) hp | (dsimp only [Part.Same]))
    | with_reducible apply Kept.keepCrowbar | with_reducible apply Kept.setPowerState | with_reducible apply Kept.setPwr
    | with_reducible apply Kept.setWord | with_reducible apply Kept.volatileLost
    | exact Kept.setStaged (by with_reducible assumption) (List.Subset.trans (by decide) hL) _ _ fun k => tabWf_filter (h.sound k).staged _
    | with_reducible apply Kept.ite | with_reducible apply Kept.elim | split | intro _ | extract_lets
    | refine Kept.mk_of [.staged, .coll] ?_ (List.Subset.trans (by decide) hL) ?_ | dsimp only

theorem Kept.enterOff (h : Kept L s₀ s) (hL : [.regs, .staged, .marks, .pushes, .ledger, .mem, .chk, .now, .polders, .drainQ, .coll, .tp, .hif, .commit, .engines, .loops, .slotShadows, .sup, .trl, .guards, .chans, .stages, .pilot, .samples, .waitingSeqs, .convs, .tdac, .sdFrom, .resolvers, .enc, .ifc, .syn, .sec, .dbg, .pwr, .sto, .wd] ⊆ L) :
    Kept L s₀ (State.enterOff s) := by
  unfold State.enterOff
  extract_lets y0
  have gy0 : Kept L s₀ y0 := by
    unfold y0
    repeat' first
      | with_reducible assumption | exact List.Subset.trans (by decide) hL | with_reducible apply Kept.dikeCleared
      | with_reducible apply Kept.setPowerState | with_reducible apply Kept.setWord
  try clear_value y0
  repeat' first
    | with_reducible assumption | exact List.Subset.trans (by decide) hL | with_reducible apply Kept.dikeCleared
    | with_reducible apply Kept.setPowerState | with_reducible apply Kept.setWord

theorem Kept.powerReached (h : Kept L s₀ s) (hL : [.regs, .staged, .marks, .pushes, .ledger, .mem, .chk, .now, .polders, .drainQ, .coll, .tp, .hif, .commit, .engines, .loops, .slotShadows, .sup, .trl, .guards, .chans, .stages, .pilot, .samples, .waitingSeqs, .convs, .tdac, .sdFrom, .resolvers, .enc, .ifc, .syn, .sec, .dbg, .pwr, .sto, .wd] ⊆ L) :
    Kept L s₀ (State.powerReached s) := by
  unfold State.powerReached
  extract_lets y0
  have gy0 : Kept L s₀ y0 := by
    unfold y0
    repeat' first
      | with_reducible assumption | exact List.Subset.trans (by decide) hL | with_reducible apply Kept.agrEvent
      | with_reducible apply Kept.enterOff | with_reducible apply Kept.enterRun | with_reducible apply Kept.enterSleep
      | with_reducible apply Kept.enterStandby | with_reducible apply Kept.setPwr | with_reducible apply Kept.ite | split
      | intro _
  try clear_value y0
  repeat' first
    | with_reducible assumption | exact List.Subset.trans (by decide) hL | with_reducible apply Kept.agrEvent
    | with_reducible apply Kept.enterOff | with_reducible apply Kept.enterRun | with_reducible apply Kept.enterSleep
    | with_reducible apply Kept.enterStandby | with_reducible apply Kept.setPwr | with_reducible apply Kept.ite | split
    | intro _

theorem Kept.wakeEvent (h : Kept L s₀ s) (hL : [.regs, .staged, .marks, .pushes, .ledger, .mem, .chk, .now, .polders, .drainQ, .coll, .tp, .hif, .commit, .engines, .loops, .slotShadows, .sup, .trl, .guards, .chans, .stages, .pilot, .samples, .waitingSeqs, .convs, .tdac, .sdFrom, .resolvers, .enc, .ifc, .syn, .sec, .dbg, .pwr, .sto, .wd] ⊆ L) (sources : ℕ) (ticks : ℕ) :
    Kept L s₀ (State.wakeEvent s sources ticks) := by
  unfold State.wakeEvent
  extract_lets y0 y1 y2 y3
  try clear_value y0
  have gy1 : Kept L s₀ y1 := by
    unfold y1
    repeat' first
      | with_reducible assumption | exact List.Subset.trans (by decide) hL
      | ((with_reducible refine Touches.intro fun p hp => ?_); cases p <;> first | exact absurd (by decide) hp | (dsimp only [Part.Same]))
      | with_reducible apply Kept.agrEvent | with_reducible apply Kept.dikeCleared | with_reducible apply Kept.reportDike
      | with_reducible apply Kept.setPowerState | with_reducible apply Kept.setPwr | with_reducible apply Kept.setWord
      | with_reducible apply Kept.wr | with_reducible apply Kept.wrB
      | exact Kept.setNow (by with_reducible assumption) (List.Subset.trans (by decide) hL) _ (stampAdd_lt _ _)
      | with_reducible apply Kept.ite | with_reducible apply Kept.elim | split | intro _ | extract_lets
      | refine Kept.mk_of [.now] ?_ (List.Subset.trans (by decide) hL) ?_ | dsimp only
  try clear_value y1
  have gy2 : Kept L s₀ y2 := by
    unfold y2
    repeat' first
      | with_reducible assumption | exact List.Subset.trans (by decide) hL
      | ((with_reducible refine Touches.intro fun p hp => ?_); cases p <;> first | exact absurd (by decide) hp | (dsimp only [Part.Same]))
      | with_reducible apply Kept.agrEvent | with_reducible apply Kept.dikeCleared | with_reducible apply Kept.reportDike
      | with_reducible apply Kept.setPowerState | with_reducible apply Kept.setPwr | with_reducible apply Kept.setWord
      | with_reducible apply Kept.wr | with_reducible apply Kept.wrB
      | exact Kept.setNow (by with_reducible assumption) (List.Subset.trans (by decide) hL) _ (stampAdd_lt _ _)
      | with_reducible apply Kept.ite | with_reducible apply Kept.elim | split | intro _ | extract_lets
      | refine Kept.mk_of [.now] ?_ (List.Subset.trans (by decide) hL) ?_ | dsimp only
  try clear_value y2
  have gy3 : Kept L s₀ y3 := by
    unfold y3
    repeat' first
      | with_reducible assumption | exact List.Subset.trans (by decide) hL
      | ((with_reducible refine Touches.intro fun p hp => ?_); cases p <;> first | exact absurd (by decide) hp | (dsimp only [Part.Same]))
      | with_reducible apply Kept.agrEvent | with_reducible apply Kept.dikeCleared | with_reducible apply Kept.reportDike
      | with_reducible apply Kept.setPowerState | with_reducible apply Kept.setPwr | with_reducible apply Kept.setWord
      | with_reducible apply Kept.wr | with_reducible apply Kept.wrB
      | exact Kept.setNow (by with_reducible assumption) (List.Subset.trans (by decide) hL) _ (stampAdd_lt _ _)
      | with_reducible apply Kept.ite | with_reducible apply Kept.elim | split | intro _ | extract_lets
      | refine Kept.mk_of [.now] ?_ (List.Subset.trans (by decide) hL) ?_ | dsimp only
  try clear_value y3
  repeat' first
    | with_reducible assumption | exact List.Subset.trans (by decide) hL
    | ((with_reducible refine Touches.intro fun p hp => ?_); cases p <;> first | exact absurd (by decide) hp | (dsimp only [Part.Same]))
    | with_reducible apply Kept.agrEvent | with_reducible apply Kept.dikeCleared | with_reducible apply Kept.reportDike
    | with_reducible apply Kept.setPowerState | with_reducible apply Kept.setPwr | with_reducible apply Kept.setWord
    | with_reducible apply Kept.wr | with_reducible apply Kept.wrB
    | exact Kept.setNow (by with_reducible assumption) (List.Subset.trans (by decide) hL) _ (stampAdd_lt _ _)
    | with_reducible apply Kept.ite | with_reducible apply Kept.elim | split | intro _ | extract_lets
    | refine Kept.mk_of [.now] ?_ (List.Subset.trans (by decide) hL) ?_ | dsimp only

theorem Kept.wakeTimer (h : Kept L s₀ s) (hL : [.regs, .staged, .marks, .pushes, .ledger, .mem, .chk, .now, .polders, .drainQ, .coll, .tp, .hif, .commit, .engines, .loops, .slotShadows, .sup, .trl, .guards, .chans, .stages, .pilot, .samples, .waitingSeqs, .convs, .tdac, .sdFrom, .resolvers, .enc, .ifc, .syn, .sec, .dbg, .pwr, .sto, .wd] ⊆ L) (ticks : ℕ) :
    Kept L s₀ (State.wakeTimer s ticks) := by
  unfold State.wakeTimer
  repeat' first
    | with_reducible assumption | exact List.Subset.trans (by decide) hL | with_reducible apply Kept.wakeEvent
    | exact Kept.setNow (by with_reducible assumption) (List.Subset.trans (by decide) hL) _ (stampAdd_lt _ _)
    | with_reducible apply Kept.ite | with_reducible apply Kept.elim | split | intro _ | extract_lets | dsimp only

theorem Kept.sleepLow (h : Kept L s₀ s) (hL : [.regs, .staged, .marks, .pushes, .ledger, .mem, .chk, .now, .polders, .drainQ, .coll, .tp, .hif, .commit, .engines, .loops, .slotShadows, .sup, .trl, .guards, .chans, .stages, .pilot, .samples, .waitingSeqs, .convs, .tdac, .sdFrom, .resolvers, .enc, .ifc, .syn, .sec, .dbg, .pwr, .sto, .wd] ⊆ L) :
    Kept L s₀ (State.sleepLow s) := by
  unfold State.sleepLow
  repeat' first
    | with_reducible assumption | exact List.Subset.trans (by decide) hL | with_reducible apply Kept.enterOff
    | with_reducible apply Kept.ite | split | intro _

theorem Kept.monitor (h : Kept L s₀ s) (hL : [.regs, .pushes, .coll, .guards, .chans, .stages, .sto] ⊆ L) (f : Field) (cls : FaultClass) (code : ℕ) (detail : ℕ) (sto : Bool) :
    Kept L s₀ (State.monitor s f cls code detail sto) := by
  unfold State.monitor
  extract_lets y0
  have gy0 : Kept L s₀ y0 := by
    unfold y0
    repeat' first
      | with_reducible assumption | exact List.Subset.trans (by decide) hL | with_reducible apply Kept.openSto
      | with_reducible apply Kept.reportDike | with_reducible apply Kept.wrB | with_reducible apply Kept.ite | split
      | intro _
  try clear_value y0
  repeat' first
    | with_reducible assumption | exact List.Subset.trans (by decide) hL | with_reducible apply Kept.openSto
    | with_reducible apply Kept.reportDike | with_reducible apply Kept.wrB | with_reducible apply Kept.ite | split | intro _

theorem Kept.showIntegrated (h : Kept L s₀ s) (hL : [.regs, .pushes] ⊆ L) :
    Kept L s₀ (State.showIntegrated s) := by
  unfold State.showIntegrated
  repeat' first
    | with_reducible assumption | exact List.Subset.trans (by decide) hL | with_reducible apply Kept.each
    | with_reducible apply Kept.showLegs | intro _

theorem Kept.vmMonitor (h : Kept L s₀ s) (hL : [.regs, .pushes, .coll, .guards, .chans, .stages, .sto] ⊆ L) (f : Field) (detail : ℕ) :
    Kept L s₀ (State.vmMonitor s f detail) := by
  unfold State.vmMonitor
  repeat' first
    | with_reducible assumption | exact List.Subset.trans (by decide) hL | with_reducible apply Kept.monitor
    | with_reducible apply Kept.showIntegrated

theorem Kept.railFault (h : Kept L s₀ s) (hL : [.coll, .pwr] ⊆ L) (rail : ℕ) :
    Kept L s₀ (State.railFault s rail) := by
  unfold State.railFault
  repeat' first
    | with_reducible assumption | exact List.Subset.trans (by decide) hL | with_reducible apply Kept.reportDike
    | with_reducible apply Kept.setPwr | with_reducible apply Kept.ite | split | intro _

theorem Kept.railReset (h : Kept L s₀ s) (hL : [.regs, .staged, .marks, .pushes, .ledger, .mem, .chk, .polders, .drainQ, .coll, .tp, .hif, .commit, .engines, .loops, .slotShadows, .sup, .trl, .guards, .chans, .stages, .pilot, .samples, .waitingSeqs, .convs, .tdac, .sdFrom, .resolvers, .enc, .ifc, .syn, .sec, .dbg, .pwr, .sto, .wd] ⊆ L) :
    Kept L s₀ (State.railReset s) := by
  unfold State.railReset
  repeat' first
    | with_reducible assumption | exact List.Subset.trans (by decide) hL | with_reducible apply Kept.beginReset
    | with_reducible apply Kept.ite | split | intro _

theorem Kept.supplyReset (h : Kept L s₀ s) (hL : [.regs, .staged, .marks, .pushes, .ledger, .mem, .chk, .polders, .drainQ, .coll, .tp, .hif, .commit, .engines, .loops, .slotShadows, .sup, .trl, .guards, .chans, .stages, .pilot, .samples, .waitingSeqs, .convs, .tdac, .sdFrom, .resolvers, .enc, .ifc, .syn, .sec, .dbg, .pwr, .sto, .wd] ⊆ L) :
    Kept L s₀ (State.supplyReset s) := by
  unfold State.supplyReset
  repeat' first
    | with_reducible assumption | exact List.Subset.trans (by decide) hL | with_reducible apply Kept.beginReset
    | with_reducible apply Kept.ite | split | intro _

theorem Kept.junctionShutdown (h : Kept L s₀ s) (hL : [.regs, .staged, .marks, .pushes, .ledger, .mem, .chk, .polders, .drainQ, .coll, .tp, .hif, .commit, .engines, .loops, .slotShadows, .sup, .trl, .guards, .chans, .stages, .pilot, .samples, .waitingSeqs, .convs, .tdac, .sdFrom, .resolvers, .enc, .ifc, .syn, .sec, .dbg, .pwr, .sto, .wd] ⊆ L) :
    Kept L s₀ (State.junctionShutdown s) := by
  unfold State.junctionShutdown
  repeat' first
    | with_reducible assumption | exact List.Subset.trans (by decide) hL | with_reducible apply Kept.beginReset
    | with_reducible apply Kept.reportDike | with_reducible apply Kept.ite | split | intro _

theorem Kept.monitorEnd (h : Kept L s₀ s) (hL : [.regs, .pushes] ⊆ L) (k : ℕ) :
    Kept L s₀ (State.monitorEnd s k) := by
  unfold State.monitorEnd
  extract_lets y0 y1
  have gy0 : Kept L s₀ y0 := by
    unfold y0
    repeat' first
      | with_reducible assumption | exact List.Subset.trans (by decide) hL | with_reducible apply Kept.showIntegrated
      | with_reducible apply Kept.wr | with_reducible apply Kept.wrB | with_reducible apply Kept.ite | split | intro _
  try clear_value y0
  have gy1 : Kept L s₀ y1 := by
    unfold y1
    repeat' first
      | with_reducible assumption | exact List.Subset.trans (by decide) hL | with_reducible apply Kept.showIntegrated
      | with_reducible apply Kept.wr | with_reducible apply Kept.wrB | with_reducible apply Kept.ite | split | intro _
  try clear_value y1
  repeat' first
    | with_reducible assumption | exact List.Subset.trans (by decide) hL | with_reducible apply Kept.showIntegrated
    | with_reducible apply Kept.wr | with_reducible apply Kept.wrB | with_reducible apply Kept.ite | split | intro _

theorem Kept.measurements (h : Kept L s₀ s) (hL : [.regs, .pushes] ⊆ L) (vbat : Word) (vm : Word) (tj : Word) :
    Kept L s₀ (State.measurements s vbat vm tj) := by
  unfold State.measurements
  repeat' first
    | with_reducible assumption | exact List.Subset.trans (by decide) hL | with_reducible apply Kept.setWord
    | with_reducible apply Kept.ite | split | intro _

theorem Kept.resetCommand (h : Kept L s₀ s) (hL : [.regs, .staged, .marks, .pushes, .ledger, .mem, .chk, .polders, .drainQ, .coll, .tp, .hif, .commit, .engines, .loops, .slotShadows, .sup, .trl, .guards, .chans, .stages, .pilot, .samples, .waitingSeqs, .convs, .tdac, .sdFrom, .resolvers, .enc, .ifc, .syn, .sec, .dbg, .pwr, .sto, .wd] ⊆ L) (key : ℕ) :
    Kept L s₀ (State.resetCommand s key) := by
  unfold State.resetCommand
  repeat' first
    | with_reducible assumption | exact List.Subset.trans (by decide) hL | with_reducible apply Kept.beginReset
    | with_reducible apply Kept.ite | split | intro _

theorem Kept.watchdogReset (h : Kept L s₀ s) (hL : [.regs, .staged, .marks, .pushes, .ledger, .mem, .chk, .polders, .drainQ, .coll, .tp, .hif, .commit, .engines, .loops, .slotShadows, .sup, .trl, .guards, .chans, .stages, .pilot, .samples, .waitingSeqs, .convs, .tdac, .sdFrom, .resolvers, .enc, .ifc, .syn, .sec, .dbg, .pwr, .sto, .wd] ⊆ L) :
    Kept L s₀ (State.watchdogReset s) := by
  unfold State.watchdogReset
  repeat' first
    | with_reducible assumption | exact List.Subset.trans (by decide) hL | with_reducible apply Kept.beginReset
    | with_reducible apply Kept.ite | split | intro _

theorem Kept.debugReset (h : Kept L s₀ s) (hL : [.regs, .staged, .marks, .pushes, .ledger, .mem, .chk, .polders, .drainQ, .coll, .tp, .hif, .commit, .engines, .loops, .slotShadows, .sup, .trl, .guards, .chans, .stages, .pilot, .samples, .waitingSeqs, .convs, .tdac, .sdFrom, .resolvers, .enc, .ifc, .syn, .sec, .dbg, .pwr, .sto, .wd] ⊆ L) :
    Kept L s₀ (State.debugReset s) := by
  unfold State.debugReset
  repeat' first
    | with_reducible assumption | exact List.Subset.trans (by decide) hL | with_reducible apply Kept.beginReset
    | with_reducible apply Kept.ite | split | intro _

theorem Kept.bootPrefer (h : Kept L s₀ s) (hL : [.regs, .pushes, .coll] ⊆ L) :
    Kept L s₀ (State.bootPrefer s) := by
  unfold State.bootPrefer
  extract_lets y0
  try clear_value y0
  repeat' first
    | with_reducible assumption | exact List.Subset.trans (by decide) hL | with_reducible apply Kept.reportDike
    | with_reducible apply Kept.wr | with_reducible apply Kept.wrB | with_reducible apply Kept.ite | split | intro _

theorem Kept.bootConfirm (h : Kept L s₀ s) (hL : [.regs, .pushes] ⊆ L) :
    Kept L s₀ (State.bootConfirm s) := by
  unfold State.bootConfirm
  repeat' first
    | with_reducible assumption | exact List.Subset.trans (by decide) hL | with_reducible apply Kept.wrB
    | with_reducible apply Kept.ite | split | intro _

theorem Kept.bootReady (h : Kept L s₀ s) (hL : [.regs, .pushes] ⊆ L) :
    Kept L s₀ (State.bootReady s) := by
  unfold State.bootReady
  repeat' first
    | with_reducible assumption | exact List.Subset.trans (by decide) hL | with_reducible apply Kept.wrB
    | with_reducible apply Kept.ite | split | intro _

theorem Kept.appKick (h : Kept L s₀ s) (hL : [.wd] ⊆ L) (n : ℕ) :
    Kept L s₀ (State.appKick s n) := by
  unfold State.appKick
  extract_lets y0
  try clear_value y0
  repeat' first
    | with_reducible assumption | exact List.Subset.trans (by decide) hL
    | ((with_reducible refine Touches.intro fun p hp => ?_); cases p <;> first | exact absurd (by decide) hp | (dsimp only [Part.Same]))
    | with_reducible apply Kept.ite | split | intro _ | refine Kept.mk_of [.wd] ?_ (List.Subset.trans (by decide) hL) ?_

theorem Kept.appExpiry (h : Kept L s₀ s) (hL : [.regs, .pushes, .coll, .guards, .chans, .stages, .wd] ⊆ L) (n : ℕ) :
    Kept L s₀ (State.appExpiry s n) := by
  unfold State.appExpiry
  extract_lets y0 y1
  try clear_value y0 y1
  repeat' first
    | with_reducible assumption | exact List.Subset.trans (by decide) hL
    | ((with_reducible refine Touches.intro fun p hp => ?_); cases p <;> first | exact absurd (by decide) hp | (dsimp only [Part.Same]))
    | with_reducible apply Kept.appStalled | with_reducible apply Kept.reportDike | with_reducible apply Kept.ite | split
    | intro _ | refine Kept.mk_of [.wd] ?_ (List.Subset.trans (by decide) hL) ?_

end Sys2Proof.Machine
end

