-- ==== Sys2Proof/Laws/KeptStaging.lean ====
section
/-! SUPPORT. What the operations of Staging keep. -/

set_option linter.unusedTactic false
set_option linter.unreachableTactic false
set_option linter.unusedVariables false

namespace Sys2Proof.Machine

variable {L : List Part} {s₀ s : State}

theorem Kept.touchStage (h : Kept L s₀ s) (hL : [.regs, .marks, .pushes, .commit] ⊆ L) (k : ℕ) :
    Kept L s₀ (State.touchStage s k) := by
  unfold State.touchStage
  extract_lets y0 y1 y2 y3
  try clear_value y0 y1 y3
  have gy2 : Kept L s₀ y2 := by
    unfold y2
    repeat' first
      | with_reducible assumption | exact List.Subset.trans (by decide) hL
      | ((with_reducible refine Touches.intro fun p hp => ?_); cases p <;> first | exact absurd (by decide) hp | (dsimp only [Part.Same]))
      | with_reducible apply Kept.wrB | with_reducible apply Kept.ite | split | intro _
      | refine Kept.mk_of [.marks, .commit] ?_ (List.Subset.trans (by decide) hL) ?_
  try clear_value y2
  repeat' first
    | with_reducible assumption | exact List.Subset.trans (by decide) hL
    | ((with_reducible refine Touches.intro fun p hp => ?_); cases p <;> first | exact absurd (by decide) hp | (dsimp only [Part.Same]))
    | with_reducible apply Kept.wrB | with_reducible apply Kept.ite | split | intro _
    | refine Kept.mk_of [.marks, .commit] ?_ (List.Subset.trans (by decide) hL) ?_

theorem Kept.stagePut (h : Kept L s₀ s) (hL : [.regs, .staged, .marks, .pushes, .commit] ⊆ L) (p : ℕ) (off : ℕ) (w : Word) :
    Kept L s₀ (State.stagePut s p off w) := by
  unfold State.stagePut
  extract_lets y0
  try clear_value y0
  repeat' first
    | with_reducible assumption | exact List.Subset.trans (by decide) hL
    | ((with_reducible refine Touches.intro fun p hp => ?_); cases p <;> first | exact absurd (by decide) hp | (dsimp only [Part.Same]))
    | with_reducible apply Kept.touchStage
    | exact h.change [.staged, .pushes] (List.Subset.trans (by decide) hL) (fun k => ⟨k.mem, k.regs, tabWf_put k.staged _ _, k.now⟩) (fun p hp => by cases p <;> first | exact absurd (by decide) hp | rfl)
    | with_reducible apply Kept.ite | with_reducible apply Kept.elim | split | intro _ | extract_lets
    | refine Kept.mk_of [.staged, .pushes] ?_ (List.Subset.trans (by decide) hL) ?_ | dsimp only

theorem Kept.stageDiscard (h : Kept L s₀ s) (hL : [.regs, .staged, .marks, .pushes, .commit] ⊆ L) (p : ℕ) :
    Kept L s₀ (State.stageDiscard s p) := by
  unfold State.stageDiscard
  extract_lets y0 y1 y2 y3 y4 y5
  have gy5 : Kept L s₀ y5 := by
    unfold y5
    repeat' first
      | with_reducible assumption | exact List.Subset.trans (by decide) hL
      | ((with_reducible refine Touches.intro fun p hp => ?_); cases p <;> first | exact absurd (by decide) hp | (dsimp only [Part.Same]))
      | with_reducible apply Kept.wrB
      | exact h.change [.staged, .marks, .pushes, .commit] (List.Subset.trans (by decide) hL) (fun k => ⟨k.mem, k.regs, tabWf_putAll _ (tabWf_clear k.staged _ _), k.now⟩) (fun p hp => by cases p <;> first | exact absurd (by decide) hp | rfl)
      | with_reducible apply Kept.ite | with_reducible apply Kept.elim | split | intro _ | extract_lets
      | refine Kept.mk_of [.staged, .marks, .pushes, .commit] ?_ (List.Subset.trans (by decide) hL) ?_ | dsimp only
  repeat' first
    | with_reducible assumption | exact List.Subset.trans (by decide) hL
    | ((with_reducible refine Touches.intro fun p hp => ?_); cases p <;> first | exact absurd (by decide) hp | (dsimp only [Part.Same]))
    | with_reducible apply Kept.wrB
    | exact h.change [.staged, .marks, .pushes, .commit] (List.Subset.trans (by decide) hL) (fun k => ⟨k.mem, k.regs, tabWf_putAll _ (tabWf_clear k.staged _ _), k.now⟩) (fun p hp => by cases p <;> first | exact absurd (by decide) hp | rfl)
    | with_reducible apply Kept.ite | with_reducible apply Kept.elim | split | intro _ | extract_lets
    | refine Kept.mk_of [.staged, .marks, .pushes, .commit] ?_ (List.Subset.trans (by decide) hL) ?_ | dsimp only

theorem Kept.stageInclude (h : Kept L s₀ s) (hL : [.regs, .pushes] ⊆ L) (p : ℕ) (on : Bool) :
    Kept L s₀ (State.stageInclude s p on) := by
  unfold State.stageInclude
  repeat' first
    | with_reducible assumption | exact List.Subset.trans (by decide) hL | with_reducible apply Kept.wrB

theorem Kept.commitState (h : Kept L s₀ s) (hL : [.regs, .pushes] ⊆ L) (st : ℕ) :
    Kept L s₀ (State.commitState s st) := by
  unfold State.commitState
  repeat' first
    | with_reducible assumption | exact List.Subset.trans (by decide) hL | with_reducible apply Kept.agrEvent
    | with_reducible apply Kept.wr

theorem Kept.commitWrite (h : Kept L s₀ s) (hL : [.regs, .pushes, .commit] ⊆ L) (key : ℕ) :
    Kept L s₀ (State.commitWrite s key) := by
  unfold State.commitWrite
  extract_lets y0 y1 y2
  try clear_value y0 y1
  have gy2 : Kept L s₀ y2 := by
    unfold y2
    repeat' first
      | with_reducible assumption | exact List.Subset.trans (by decide) hL
      | ((with_reducible refine Touches.intro fun p hp => ?_); cases p <;> first | exact absurd (by decide) hp | (dsimp only [Part.Same]))
      | with_reducible apply Kept.commitState | with_reducible apply Kept.setWord | with_reducible apply Kept.wrB
      | with_reducible apply Kept.ite | split | intro _
      | refine Kept.mk_of [.commit] ?_ (List.Subset.trans (by decide) hL) ?_
  try clear_value y2
  repeat' first
    | with_reducible assumption | exact List.Subset.trans (by decide) hL
    | ((with_reducible refine Touches.intro fun p hp => ?_); cases p <;> first | exact absurd (by decide) hp | (dsimp only [Part.Same]))
    | with_reducible apply Kept.commitState | with_reducible apply Kept.setWord | with_reducible apply Kept.wrB
    | with_reducible apply Kept.ite | split | intro _ | refine Kept.mk_of [.commit] ?_ (List.Subset.trans (by decide) hL) ?_

theorem Kept.proposed (h : Kept L s₀ s) (hL : [.regs] ⊆ L) : Kept L s₀ s.proposed :=
  h.change _ hL (fun k => ⟨k.mem, tabWf_putAll _ k.regs, k.staged, k.now⟩) (by
    unfold State.proposed
    exact fun p hp => by cases p <;> first | exact absurd (by decide) hp | rfl)

theorem Kept.takeValues (h : Kept L s₀ s) (hL : [.regs, .pushes] ⊆ L) :
    Kept L s₀ (State.takeValues s) := by
  unfold State.takeValues
  repeat' first
    | with_reducible assumption | exact List.Subset.trans (by decide) hL | with_reducible apply Kept.each
    | with_reducible apply Kept.setWord | with_reducible apply Kept.ite | split | intro _

theorem Kept.endSnapshot (h : Kept L s₀ s) (hL : [.regs, .marks, .pushes, .commit] ⊆ L) :
    Kept L s₀ (State.endSnapshot s) := by
  unfold State.endSnapshot
  extract_lets y0 y1 y2
  try clear_value y0
  have gy1 : Kept L s₀ y1 := by
    unfold y1
    repeat' first
      | with_reducible assumption | exact List.Subset.trans (by decide) hL
      | ((with_reducible refine Touches.intro fun p hp => ?_); cases p <;> first | exact absurd (by decide) hp | (dsimp only [Part.Same]))
      | with_reducible apply Kept.each | with_reducible apply Kept.wrB | intro _
      | refine Kept.mk_of [.marks, .commit] ?_ (List.Subset.trans (by decide) hL) ?_
  try clear_value y1
  have gy2 : Kept L s₀ y2 := by
    unfold y2
    repeat' first
      | with_reducible assumption | exact List.Subset.trans (by decide) hL
      | ((with_reducible refine Touches.intro fun p hp => ?_); cases p <;> first | exact absurd (by decide) hp | (dsimp only [Part.Same]))
      | with_reducible apply Kept.each | with_reducible apply Kept.wrB | intro _
      | refine Kept.mk_of [.marks, .commit] ?_ (List.Subset.trans (by decide) hL) ?_
  try clear_value y2
  repeat' first
    | with_reducible assumption | exact List.Subset.trans (by decide) hL
    | ((with_reducible refine Touches.intro fun p hp => ?_); cases p <;> first | exact absurd (by decide) hp | (dsimp only [Part.Same]))
    | with_reducible apply Kept.each | with_reducible apply Kept.wrB | intro _
    | refine Kept.mk_of [.marks, .commit] ?_ (List.Subset.trans (by decide) hL) ?_

end Sys2Proof.Machine
end

