-- ==== Sys2Proof/Laws/KeptCommit.lean ====
section
/-! SUPPORT. What the operations of Commit keep. -/

set_option linter.unusedTactic false
set_option linter.unreachableTactic false
set_option linter.unusedVariables false

namespace Sys2Proof.Machine

variable {L : List Part} {s₀ s : State}

theorem Kept.checkComplete (h : Kept L s₀ s) (hL : [.regs, .pushes, .chk, .fresh, .coll, .commit, .guards, .chans, .stages] ⊆ L) :
    Kept L s₀ (State.checkComplete s) := by
  unfold State.checkComplete
  extract_lets y0 y1 y2
  try clear_value y1
  have gy0 : Kept L s₀ y0 := by
    unfold y0
    repeat' first
      | with_reducible assumption | exact List.Subset.trans (by decide) hL
      | ((with_reducible refine Touches.intro fun p hp => ?_); cases p <;> first | exact absurd (by decide) hp | (dsimp only [Part.Same]))
      | with_reducible apply Kept.commitState | with_reducible apply Kept.proposed | with_reducible apply Kept.setWord
      | with_reducible apply Kept.wr | with_reducible apply Kept.ite | split | intro _
      | refine Kept.mk_of [.fresh, .commit] ?_ (List.Subset.trans (by decide) hL) ?_
  try clear_value y0
  have gy2 : Kept L s₀ y2 := by
    unfold y2
    repeat' first
      | with_reducible assumption | exact List.Subset.trans (by decide) hL
      | ((with_reducible refine Touches.intro fun p hp => ?_); cases p <;> first | exact absurd (by decide) hp | (dsimp only [Part.Same]))
      | with_reducible apply Kept.commitState | with_reducible apply Kept.proposed | with_reducible apply Kept.setWord
      | with_reducible apply Kept.wr | with_reducible apply Kept.ite | split | intro _
      | refine Kept.mk_of [.fresh, .commit] ?_ (List.Subset.trans (by decide) hL) ?_
  try clear_value y2
  repeat' first
    | with_reducible assumption | exact List.Subset.trans (by decide) hL
    | ((with_reducible refine Touches.intro fun p hp => ?_); cases p <;> first | exact absurd (by decide) hp | (dsimp only [Part.Same]))
    | with_reducible apply Kept.commitState | with_reducible apply Kept.proposed | with_reducible apply Kept.setWord
    | with_reducible apply Kept.wr | with_reducible apply Kept.ite | split | intro _
    | refine Kept.mk_of [.fresh, .commit] ?_ (List.Subset.trans (by decide) hL) ?_

theorem Kept.beforeValues (h : Kept L s₀ s) (hL : [.regs, .stages, .convs, .ifc] ⊆ L) :
    Kept L s₀ (State.beforeValues s) := by
  unfold State.beforeValues
  extract_lets y0 y1 y2 y3
  try clear_value y3
  have gy0 : Kept L s₀ y0 := by
    unfold y0
    repeat' first
      | with_reducible assumption | exact List.Subset.trans (by decide) hL
      | ((with_reducible refine Touches.intro fun p hp => ?_); cases p <;> first | exact absurd (by decide) hp | (dsimp only [Part.Same]))
      | with_reducible apply Kept.each | with_reducible apply Kept.freezeScales | with_reducible apply Kept.proposed
      | with_reducible apply Kept.ratesChange | with_reducible apply Kept.ite | with_reducible apply Kept.elim | split
      | intro _ | extract_lets | refine Kept.mk_of [.ifc] ?_ (List.Subset.trans (by decide) hL) ?_ | dsimp only
  try clear_value y0
  have gy1 : Kept L s₀ y1 := by
    unfold y1
    repeat' first
      | with_reducible assumption | exact List.Subset.trans (by decide) hL
      | ((with_reducible refine Touches.intro fun p hp => ?_); cases p <;> first | exact absurd (by decide) hp | (dsimp only [Part.Same]))
      | with_reducible apply Kept.each | with_reducible apply Kept.freezeScales | with_reducible apply Kept.proposed
      | with_reducible apply Kept.ratesChange | with_reducible apply Kept.ite | with_reducible apply Kept.elim | split
      | intro _ | extract_lets | refine Kept.mk_of [.ifc] ?_ (List.Subset.trans (by decide) hL) ?_ | dsimp only
  try clear_value y1
  have gy2 : Kept L s₀ y2 := by
    unfold y2
    repeat' first
      | with_reducible assumption | exact List.Subset.trans (by decide) hL
      | ((with_reducible refine Touches.intro fun p hp => ?_); cases p <;> first | exact absurd (by decide) hp | (dsimp only [Part.Same]))
      | with_reducible apply Kept.each | with_reducible apply Kept.freezeScales | with_reducible apply Kept.proposed
      | with_reducible apply Kept.ratesChange | with_reducible apply Kept.ite | with_reducible apply Kept.elim | split
      | intro _ | extract_lets | refine Kept.mk_of [.ifc] ?_ (List.Subset.trans (by decide) hL) ?_ | dsimp only
  try clear_value y2
  repeat' first
    | with_reducible assumption | exact List.Subset.trans (by decide) hL
    | ((with_reducible refine Touches.intro fun p hp => ?_); cases p <;> first | exact absurd (by decide) hp | (dsimp only [Part.Same]))
    | with_reducible apply Kept.each | with_reducible apply Kept.freezeScales | with_reducible apply Kept.proposed
    | with_reducible apply Kept.ratesChange | with_reducible apply Kept.ite | with_reducible apply Kept.elim | split
    | intro _ | extract_lets | refine Kept.mk_of [.ifc] ?_ (List.Subset.trans (by decide) hL) ?_ | dsimp only

theorem Kept.removeLoop (h : Kept L s₀ s) (hL : [.regs, .pushes, .polders, .coll, .engines, .loops, .trl] ⊆ L) (l : ℕ) :
    Kept L s₀ (State.removeLoop s l) := by
  unfold State.removeLoop
  extract_lets y0 y1 y2 y3
  try clear_value y1 y2
  have gy0 : Kept L s₀ y0 := by
    unfold y0
    repeat' first
      | with_reducible assumption | exact List.Subset.trans (by decide) hL | with_reducible apply Kept.freeLoop
      | with_reducible apply Kept.graftMoved | with_reducible apply Kept.setEng | with_reducible apply Kept.setLoop
      | with_reducible apply Kept.ite | split | intro _
  try clear_value y0
  have gy3 : Kept L s₀ y3 := by
    unfold y3
    repeat' first
      | with_reducible assumption | exact List.Subset.trans (by decide) hL | with_reducible apply Kept.freeLoop
      | with_reducible apply Kept.graftMoved | with_reducible apply Kept.setEng | with_reducible apply Kept.setLoop
      | with_reducible apply Kept.ite | split | intro _
  try clear_value y3
  repeat' first
    | with_reducible assumption | exact List.Subset.trans (by decide) hL | with_reducible apply Kept.freeLoop
    | with_reducible apply Kept.graftMoved | with_reducible apply Kept.setEng | with_reducible apply Kept.setLoop
    | with_reducible apply Kept.ite | split | intro _

theorem Kept.changeDescriptor (h : Kept L s₀ s) (hL : [.regs, .pushes, .polders, .coll, .engines, .loops, .trl] ⊆ L) (l : ℕ) :
    Kept L s₀ (State.changeDescriptor s l).2 := by
  unfold State.changeDescriptor
  extract_lets y0 y1 y2 y3
  try clear_value y0 y1 y2 y3
  repeat' first
    | with_reducible assumption | exact List.Subset.trans (by decide) hL | with_reducible apply Kept.removeLoop
    | with_reducible apply Kept.setLoop | with_reducible apply Kept.ite | split | intro _

theorem Kept.takeDescriptors (h : Kept L s₀ s) (hL : [.regs, .pushes, .polders, .coll, .engines, .loops, .trl, .guards] ⊆ L) (old : State) :
    Kept L s₀ (State.takeDescriptors s old) := by
  unfold State.takeDescriptors
  extract_lets y0 y1 y2
  try clear_value y0
  have gy1 : Kept L s₀ y1.2 := by
    unfold y1
    repeat' first
      | with_reducible assumption | exact List.Subset.trans (by decide) hL | with_reducible apply Kept.changeDescriptor
      | with_reducible apply Kept.queueEvent | with_reducible apply Kept.reloadGuards | with_reducible apply Kept.startGraft
      | with_reducible apply Kept.foldl2 | with_reducible apply Kept.ite | with_reducible apply Kept.elim | split | intro _
      | extract_lets | dsimp only
  try clear_value y1
  have gy2 : Kept L s₀ y2 := by
    unfold y2
    repeat' first
      | with_reducible assumption | exact List.Subset.trans (by decide) hL | with_reducible apply Kept.changeDescriptor
      | with_reducible apply Kept.queueEvent | with_reducible apply Kept.reloadGuards | with_reducible apply Kept.startGraft
      | with_reducible apply Kept.foldl2 | with_reducible apply Kept.ite | with_reducible apply Kept.elim | split | intro _
      | extract_lets | dsimp only
  try clear_value y2
  repeat' first
    | with_reducible assumption | exact List.Subset.trans (by decide) hL | with_reducible apply Kept.changeDescriptor
    | with_reducible apply Kept.queueEvent | with_reducible apply Kept.reloadGuards | with_reducible apply Kept.startGraft
    | with_reducible apply Kept.foldl2 | with_reducible apply Kept.ite | with_reducible apply Kept.elim | split | intro _
    | extract_lets | dsimp only

theorem Kept.resetRings (h : Kept L s₀ s) (hL : [.regs, .pushes] ⊆ L) (old : State) :
    Kept L s₀ (State.resetRings s old) := by
  unfold State.resetRings
  repeat' first
    | with_reducible assumption | exact List.Subset.trans (by decide) hL | with_reducible apply Kept.each
    | with_reducible apply Kept.setWord | with_reducible apply Kept.ite | split | intro _

theorem Kept.takeInterfaces (h : Kept L s₀ s) (hL : [.regs, .pushes, .sdFrom, .resolvers, .enc, .ifc, .syn] ⊆ L) (old : State) :
    Kept L s₀ (State.takeInterfaces s old) := by
  unfold State.takeInterfaces
  extract_lets y0 y1 y2 y3 y4 y5
  have gy0 : Kept L s₀ y0 := by
    unfold y0
    repeat' first
      | with_reducible assumption | exact List.Subset.trans (by decide) hL
      | ((with_reducible refine Touches.intro fun p hp => ?_); cases p <;> first | exact absurd (by decide) hp | (dsimp only [Part.Same]))
      | with_reducible apply Kept.each | with_reducible apply Kept.encEnable | with_reducible apply Kept.rdRestart
      | with_reducible apply Kept.sentEnable | with_reducible apply Kept.synReacquire | with_reducible apply Kept.wr
      | with_reducible apply Kept.ite | split | intro _
      | refine Kept.mk_of [.sdFrom, .ifc] ?_ (List.Subset.trans (by decide) hL) ?_
  try clear_value y0
  have gy1 : Kept L s₀ y1 := by
    unfold y1
    repeat' first
      | with_reducible assumption | exact List.Subset.trans (by decide) hL
      | ((with_reducible refine Touches.intro fun p hp => ?_); cases p <;> first | exact absurd (by decide) hp | (dsimp only [Part.Same]))
      | with_reducible apply Kept.each | with_reducible apply Kept.encEnable | with_reducible apply Kept.rdRestart
      | with_reducible apply Kept.sentEnable | with_reducible apply Kept.synReacquire | with_reducible apply Kept.wr
      | with_reducible apply Kept.ite | split | intro _
      | refine Kept.mk_of [.sdFrom, .ifc] ?_ (List.Subset.trans (by decide) hL) ?_
  try clear_value y1
  have gy2 : Kept L s₀ y2 := by
    unfold y2
    repeat' first
      | with_reducible assumption | exact List.Subset.trans (by decide) hL
      | ((with_reducible refine Touches.intro fun p hp => ?_); cases p <;> first | exact absurd (by decide) hp | (dsimp only [Part.Same]))
      | with_reducible apply Kept.each | with_reducible apply Kept.encEnable | with_reducible apply Kept.rdRestart
      | with_reducible apply Kept.sentEnable | with_reducible apply Kept.synReacquire | with_reducible apply Kept.wr
      | with_reducible apply Kept.ite | split | intro _
      | refine Kept.mk_of [.sdFrom, .ifc] ?_ (List.Subset.trans (by decide) hL) ?_
  try clear_value y2
  have gy3 : Kept L s₀ y3 := by
    unfold y3
    repeat' first
      | with_reducible assumption | exact List.Subset.trans (by decide) hL
      | ((with_reducible refine Touches.intro fun p hp => ?_); cases p <;> first | exact absurd (by decide) hp | (dsimp only [Part.Same]))
      | with_reducible apply Kept.each | with_reducible apply Kept.encEnable | with_reducible apply Kept.rdRestart
      | with_reducible apply Kept.sentEnable | with_reducible apply Kept.synReacquire | with_reducible apply Kept.wr
      | with_reducible apply Kept.ite | split | intro _
      | refine Kept.mk_of [.sdFrom, .ifc] ?_ (List.Subset.trans (by decide) hL) ?_
  try clear_value y3
  have gy4 : Kept L s₀ y4 := by
    unfold y4
    repeat' first
      | with_reducible assumption | exact List.Subset.trans (by decide) hL
      | ((with_reducible refine Touches.intro fun p hp => ?_); cases p <;> first | exact absurd (by decide) hp | (dsimp only [Part.Same]))
      | with_reducible apply Kept.each | with_reducible apply Kept.encEnable | with_reducible apply Kept.rdRestart
      | with_reducible apply Kept.sentEnable | with_reducible apply Kept.synReacquire | with_reducible apply Kept.wr
      | with_reducible apply Kept.ite | split | intro _
      | refine Kept.mk_of [.sdFrom, .ifc] ?_ (List.Subset.trans (by decide) hL) ?_
  try clear_value y4
  have gy5 : Kept L s₀ y5 := by
    unfold y5
    repeat' first
      | with_reducible assumption | exact List.Subset.trans (by decide) hL
      | ((with_reducible refine Touches.intro fun p hp => ?_); cases p <;> first | exact absurd (by decide) hp | (dsimp only [Part.Same]))
      | with_reducible apply Kept.each | with_reducible apply Kept.encEnable | with_reducible apply Kept.rdRestart
      | with_reducible apply Kept.sentEnable | with_reducible apply Kept.synReacquire | with_reducible apply Kept.wr
      | with_reducible apply Kept.ite | split | intro _
      | refine Kept.mk_of [.sdFrom, .ifc] ?_ (List.Subset.trans (by decide) hL) ?_
  try clear_value y5
  repeat' first
    | with_reducible assumption | exact List.Subset.trans (by decide) hL
    | ((with_reducible refine Touches.intro fun p hp => ?_); cases p <;> first | exact absurd (by decide) hp | (dsimp only [Part.Same]))
    | with_reducible apply Kept.each | with_reducible apply Kept.encEnable | with_reducible apply Kept.rdRestart
    | with_reducible apply Kept.sentEnable | with_reducible apply Kept.synReacquire | with_reducible apply Kept.wr
    | with_reducible apply Kept.ite | split | intro _
    | refine Kept.mk_of [.sdFrom, .ifc] ?_ (List.Subset.trans (by decide) hL) ?_

theorem Kept.takeSupervision (h : Kept L s₀ s) (hL : [.regs, .pushes, .dbg, .wd] ⊆ L) (old : State) :
    Kept L s₀ (State.takeSupervision s old) := by
  unfold State.takeSupervision
  extract_lets y0
  have gy0 : Kept L s₀ y0 := by
    unfold y0
    repeat' first
      | with_reducible assumption | exact List.Subset.trans (by decide) hL
      | ((with_reducible refine Touches.intro fun p hp => ?_); cases p <;> first | exact absurd (by decide) hp | (dsimp only [Part.Same]))
      | with_reducible apply Kept.each | with_reducible apply Kept.setDbg | with_reducible apply Kept.wr
      | with_reducible apply Kept.ite | split | intro _ | refine Kept.mk_of [.wd] ?_ (List.Subset.trans (by decide) hL) ?_
  try clear_value y0
  repeat' first
    | with_reducible assumption | exact List.Subset.trans (by decide) hL
    | ((with_reducible refine Touches.intro fun p hp => ?_); cases p <;> first | exact absurd (by decide) hp | (dsimp only [Part.Same]))
    | with_reducible apply Kept.each | with_reducible apply Kept.setDbg | with_reducible apply Kept.wr
    | with_reducible apply Kept.ite | split | intro _ | refine Kept.mk_of [.wd] ?_ (List.Subset.trans (by decide) hL) ?_

theorem Kept.takeOrigins (h : Kept L s₀ s) (hL : [.regs, .pushes, .chk] ⊆ L) (old : State) :
    Kept L s₀ (State.takeOrigins s old) := by
  unfold State.takeOrigins
  repeat' first
    | with_reducible assumption | exact List.Subset.trans (by decide) hL | with_reducible apply Kept.each
    | with_reducible apply Kept.originStart | intro _

theorem Kept.takeRequests (h : Kept L s₀ s) (hL : [.regs, .pushes, .chk, .fresh, .coll, .guards, .chans, .stages] ⊆ L) :
    Kept L s₀ (State.takeRequests s) := by
  unfold State.takeRequests
  extract_lets y0 y1
  try clear_value y0 y1
  repeat' first
    | with_reducible assumption | exact List.Subset.trans (by decide) hL | with_reducible apply Kept.each
    | with_reducible apply Kept.modeRequest | intro _

theorem Kept.takeCauses (h : Kept L s₀ s) (hL : [.regs, .pushes, .coll, .guards, .chans, .stages] ⊆ L) :
    Kept L s₀ (State.takeCauses s) := by
  unfold State.takeCauses
  extract_lets y0
  have gy0 : Kept L s₀ y0 := by
    unfold y0
    repeat' first
      | with_reducible assumption | exact List.Subset.trans (by decide) hL | with_reducible apply Kept.pilotCheck
      | with_reducible apply Kept.pinSourceSwitch | with_reducible apply Kept.stationStop | with_reducible apply Kept.ite
      | split | intro _
  try clear_value y0
  repeat' first
    | with_reducible assumption | exact List.Subset.trans (by decide) hL | with_reducible apply Kept.pilotCheck
    | with_reducible apply Kept.pinSourceSwitch | with_reducible apply Kept.stationStop | with_reducible apply Kept.ite
    | split | intro _

theorem Kept.commitApply (h : Kept L s₀ s) (hL : [.regs, .marks, .pushes, .chk, .fresh, .polders, .coll, .commit, .engines, .loops, .trl, .guards, .chans, .stages, .convs, .sdFrom, .resolvers, .enc, .ifc, .syn, .dbg, .wd] ⊆ L) :
    Kept L s₀ (State.commitApply s) := by
  unfold State.commitApply
  extract_lets y0 y1 y2 y3 y4 y5 y6 y7 y8
  have gy0 : Kept L s₀ y0 := by
    unfold y0
    repeat' first
      | with_reducible assumption | exact List.Subset.trans (by decide) hL | with_reducible apply Kept.beforeValues
      | with_reducible apply Kept.commitState | with_reducible apply Kept.each | with_reducible apply Kept.endSnapshot
      | with_reducible apply Kept.ownerChanged | with_reducible apply Kept.resetRings | with_reducible apply Kept.setWord
      | with_reducible apply Kept.showConv | with_reducible apply Kept.takeCauses | with_reducible apply Kept.takeDescriptors
      | with_reducible apply Kept.takeInterfaces | with_reducible apply Kept.takeOrigins
      | with_reducible apply Kept.takeRequests | with_reducible apply Kept.takeSupervision
      | with_reducible apply Kept.takeValues | with_reducible apply Kept.wrStamp | with_reducible apply Kept.ite | split
      | intro _
  try clear_value y0
  have gy1 : Kept L s₀ y1 := by
    unfold y1
    repeat' first
      | with_reducible assumption | exact List.Subset.trans (by decide) hL | with_reducible apply Kept.beforeValues
      | with_reducible apply Kept.commitState | with_reducible apply Kept.each | with_reducible apply Kept.endSnapshot
      | with_reducible apply Kept.ownerChanged | with_reducible apply Kept.resetRings | with_reducible apply Kept.setWord
      | with_reducible apply Kept.showConv | with_reducible apply Kept.takeCauses | with_reducible apply Kept.takeDescriptors
      | with_reducible apply Kept.takeInterfaces | with_reducible apply Kept.takeOrigins
      | with_reducible apply Kept.takeRequests | with_reducible apply Kept.takeSupervision
      | with_reducible apply Kept.takeValues | with_reducible apply Kept.wrStamp | with_reducible apply Kept.ite | split
      | intro _
  try clear_value y1
  have gy2 : Kept L s₀ y2 := by
    unfold y2
    repeat' first
      | with_reducible assumption | exact List.Subset.trans (by decide) hL | with_reducible apply Kept.beforeValues
      | with_reducible apply Kept.commitState | with_reducible apply Kept.each | with_reducible apply Kept.endSnapshot
      | with_reducible apply Kept.ownerChanged | with_reducible apply Kept.resetRings | with_reducible apply Kept.setWord
      | with_reducible apply Kept.showConv | with_reducible apply Kept.takeCauses | with_reducible apply Kept.takeDescriptors
      | with_reducible apply Kept.takeInterfaces | with_reducible apply Kept.takeOrigins
      | with_reducible apply Kept.takeRequests | with_reducible apply Kept.takeSupervision
      | with_reducible apply Kept.takeValues | with_reducible apply Kept.wrStamp | with_reducible apply Kept.ite | split
      | intro _
  try clear_value y2
  have gy3 : Kept L s₀ y3 := by
    unfold y3
    repeat' first
      | with_reducible assumption | exact List.Subset.trans (by decide) hL | with_reducible apply Kept.beforeValues
      | with_reducible apply Kept.commitState | with_reducible apply Kept.each | with_reducible apply Kept.endSnapshot
      | with_reducible apply Kept.ownerChanged | with_reducible apply Kept.resetRings | with_reducible apply Kept.setWord
      | with_reducible apply Kept.showConv | with_reducible apply Kept.takeCauses | with_reducible apply Kept.takeDescriptors
      | with_reducible apply Kept.takeInterfaces | with_reducible apply Kept.takeOrigins
      | with_reducible apply Kept.takeRequests | with_reducible apply Kept.takeSupervision
      | with_reducible apply Kept.takeValues | with_reducible apply Kept.wrStamp | with_reducible apply Kept.ite | split
      | intro _
  try clear_value y3
  have gy4 : Kept L s₀ y4 := by
    unfold y4
    repeat' first
      | with_reducible assumption | exact List.Subset.trans (by decide) hL | with_reducible apply Kept.beforeValues
      | with_reducible apply Kept.commitState | with_reducible apply Kept.each | with_reducible apply Kept.endSnapshot
      | with_reducible apply Kept.ownerChanged | with_reducible apply Kept.resetRings | with_reducible apply Kept.setWord
      | with_reducible apply Kept.showConv | with_reducible apply Kept.takeCauses | with_reducible apply Kept.takeDescriptors
      | with_reducible apply Kept.takeInterfaces | with_reducible apply Kept.takeOrigins
      | with_reducible apply Kept.takeRequests | with_reducible apply Kept.takeSupervision
      | with_reducible apply Kept.takeValues | with_reducible apply Kept.wrStamp | with_reducible apply Kept.ite | split
      | intro _
  try clear_value y4
  have gy5 : Kept L s₀ y5 := by
    unfold y5
    repeat' first
      | with_reducible assumption | exact List.Subset.trans (by decide) hL | with_reducible apply Kept.beforeValues
      | with_reducible apply Kept.commitState | with_reducible apply Kept.each | with_reducible apply Kept.endSnapshot
      | with_reducible apply Kept.ownerChanged | with_reducible apply Kept.resetRings | with_reducible apply Kept.setWord
      | with_reducible apply Kept.showConv | with_reducible apply Kept.takeCauses | with_reducible apply Kept.takeDescriptors
      | with_reducible apply Kept.takeInterfaces | with_reducible apply Kept.takeOrigins
      | with_reducible apply Kept.takeRequests | with_reducible apply Kept.takeSupervision
      | with_reducible apply Kept.takeValues | with_reducible apply Kept.wrStamp | with_reducible apply Kept.ite | split
      | intro _
  try clear_value y5
  have gy6 : Kept L s₀ y6 := by
    unfold y6
    repeat' first
      | with_reducible assumption | exact List.Subset.trans (by decide) hL | with_reducible apply Kept.beforeValues
      | with_reducible apply Kept.commitState | with_reducible apply Kept.each | with_reducible apply Kept.endSnapshot
      | with_reducible apply Kept.ownerChanged | with_reducible apply Kept.resetRings | with_reducible apply Kept.setWord
      | with_reducible apply Kept.showConv | with_reducible apply Kept.takeCauses | with_reducible apply Kept.takeDescriptors
      | with_reducible apply Kept.takeInterfaces | with_reducible apply Kept.takeOrigins
      | with_reducible apply Kept.takeRequests | with_reducible apply Kept.takeSupervision
      | with_reducible apply Kept.takeValues | with_reducible apply Kept.wrStamp | with_reducible apply Kept.ite | split
      | intro _
  try clear_value y6
  have gy7 : Kept L s₀ y7 := by
    unfold y7
    repeat' first
      | with_reducible assumption | exact List.Subset.trans (by decide) hL | with_reducible apply Kept.beforeValues
      | with_reducible apply Kept.commitState | with_reducible apply Kept.each | with_reducible apply Kept.endSnapshot
      | with_reducible apply Kept.ownerChanged | with_reducible apply Kept.resetRings | with_reducible apply Kept.setWord
      | with_reducible apply Kept.showConv | with_reducible apply Kept.takeCauses | with_reducible apply Kept.takeDescriptors
      | with_reducible apply Kept.takeInterfaces | with_reducible apply Kept.takeOrigins
      | with_reducible apply Kept.takeRequests | with_reducible apply Kept.takeSupervision
      | with_reducible apply Kept.takeValues | with_reducible apply Kept.wrStamp | with_reducible apply Kept.ite | split
      | intro _
  try clear_value y7
  have gy8 : Kept L s₀ y8 := by
    unfold y8
    repeat' first
      | with_reducible assumption | exact List.Subset.trans (by decide) hL | with_reducible apply Kept.beforeValues
      | with_reducible apply Kept.commitState | with_reducible apply Kept.each | with_reducible apply Kept.endSnapshot
      | with_reducible apply Kept.ownerChanged | with_reducible apply Kept.resetRings | with_reducible apply Kept.setWord
      | with_reducible apply Kept.showConv | with_reducible apply Kept.takeCauses | with_reducible apply Kept.takeDescriptors
      | with_reducible apply Kept.takeInterfaces | with_reducible apply Kept.takeOrigins
      | with_reducible apply Kept.takeRequests | with_reducible apply Kept.takeSupervision
      | with_reducible apply Kept.takeValues | with_reducible apply Kept.wrStamp | with_reducible apply Kept.ite | split
      | intro _
  try clear_value y8
  repeat' first
    | with_reducible assumption | exact List.Subset.trans (by decide) hL | with_reducible apply Kept.beforeValues
    | with_reducible apply Kept.commitState | with_reducible apply Kept.each | with_reducible apply Kept.endSnapshot
    | with_reducible apply Kept.ownerChanged | with_reducible apply Kept.resetRings | with_reducible apply Kept.setWord
    | with_reducible apply Kept.showConv | with_reducible apply Kept.takeCauses | with_reducible apply Kept.takeDescriptors
    | with_reducible apply Kept.takeInterfaces | with_reducible apply Kept.takeOrigins
    | with_reducible apply Kept.takeRequests | with_reducible apply Kept.takeSupervision
    | with_reducible apply Kept.takeValues | with_reducible apply Kept.wrStamp | with_reducible apply Kept.ite | split
    | intro _

theorem Kept.periodStart (h : Kept L s₀ s) (hL : [.regs, .pushes, .coll, .guards, .chans, .stages] ⊆ L) (st : ℕ) (set : ℕ) :
    Kept L s₀ (State.periodStart s st set) := by
  unfold State.periodStart
  extract_lets y0 y1
  try clear_value y0
  have gy1 : Kept L s₀ y1 := by
    unfold y1
    repeat' first
      | with_reducible assumption | exact List.Subset.trans (by decide) hL | with_reducible apply Kept.periodStartA
      | with_reducible apply Kept.periodStartB | with_reducible apply Kept.reloadGuards | with_reducible apply Kept.ite
      | split | intro _
  try clear_value y1
  repeat' first
    | with_reducible assumption | exact List.Subset.trans (by decide) hL | with_reducible apply Kept.periodStartA
    | with_reducible apply Kept.periodStartB | with_reducible apply Kept.reloadGuards | with_reducible apply Kept.ite | split
    | intro _

end Sys2Proof.Machine
end

