-- ==== Sys2Proof/Laws/KeptView.lean ====
section
/-! SUPPORT. What the operations of View keep. -/

set_option linter.unusedTactic false
set_option linter.unreachableTactic false
set_option linter.unusedVariables false

namespace Sys2Proof.Machine

variable {L : List Part} {s₀ s : State}

theorem Kept.slotAccess (h : Kept L s₀ s) (hL : [.regs, .pushes, .mem, .chk, .polders, .coll, .engines, .loops, .slotShadows, .trl, .answer] ⊆ L) (m : Master) (port : ℕ) (n : ℕ) (k : ℕ) :
    Kept L s₀ (State.slotAccess s m port n k).2 := by
  unfold State.slotAccess
  extract_lets y0
  have gy0 : Kept L s₀ y0 := by
    unfold y0
    repeat' first
      | with_reducible assumption | exact List.Subset.trans (by decide) hL | with_reducible apply Kept.meetsClosed
      | with_reducible apply Kept.reply | with_reducible apply Kept.slotRead
      | exact (h.meetsClosed (List.Subset.trans (by decide) hL) _ _).all _ (by assumption) | with_reducible apply Kept.ite
      | split | intro _
  try clear_value y0
  repeat' first
    | with_reducible assumption | exact List.Subset.trans (by decide) hL | with_reducible apply Kept.meetsClosed
    | with_reducible apply Kept.reply | with_reducible apply Kept.slotRead
    | exact (h.meetsClosed (List.Subset.trans (by decide) hL) _ _).all _ (by assumption) | with_reducible apply Kept.ite
    | split | intro _

theorem Kept.localRead (h : Kept L s₀ s) (hL : [.regs, .pushes, .mem, .chk, .polders, .coll, .engines, .loops, .sup, .trl, .guards, .chans, .stages, .sto] ⊆ L) (m : Master) (key : ℕ) :
    Kept L s₀ (State.localRead s m key).2 := by
  unfold State.localRead
  extract_lets y0 y1
  have gy0 : Kept L s₀ y0.2 := by
    unfold y0
    repeat' first
      | with_reducible assumption | exact List.Subset.trans (by decide) hL | with_reducible apply Kept.checkFollows
      | with_reducible apply Kept.checkUnitAt | with_reducible apply Kept.meetsClosed
      | exact (h.meetsClosed (List.Subset.trans (by decide) hL) _ _).all _ (by assumption) | with_reducible apply Kept.ite
      | split | intro _
  try clear_value y0
  have gy1 : Kept L s₀ y1 := by
    unfold y1
    repeat' first
      | with_reducible assumption | exact List.Subset.trans (by decide) hL | with_reducible apply Kept.checkFollows
      | with_reducible apply Kept.checkUnitAt | with_reducible apply Kept.meetsClosed
      | exact (h.meetsClosed (List.Subset.trans (by decide) hL) _ _).all _ (by assumption) | with_reducible apply Kept.ite
      | split | intro _
  try clear_value y1
  repeat' first
    | with_reducible assumption | exact List.Subset.trans (by decide) hL | with_reducible apply Kept.checkFollows
    | with_reducible apply Kept.checkUnitAt | with_reducible apply Kept.meetsClosed
    | exact (h.meetsClosed (List.Subset.trans (by decide) hL) _ _).all _ (by assumption) | with_reducible apply Kept.ite
    | split | intro _

theorem Kept.windowRead (h : Kept L s₀ s) (hL : [.regs, .pushes, .mem, .chk, .fresh, .polders, .coll, .engines, .loops, .slotShadows, .sup, .trl, .guards, .chans, .stages, .sto, .answer] ⊆ L) (m : Master) (port : ℕ) (p : ℕ) :
    OptAll (fun r => Kept L s₀ r.2) (State.windowRead s m port p) := by
  unfold State.windowRead
  extract_lets y0 y1 y2
  try clear_value y0 y1
  have gy2 : Kept L s₀ y2.2 := by
    unfold y2
    repeat' first
      | with_reducible assumption | exact List.Subset.trans (by decide) hL | with_reducible apply Kept.localRead
      | with_reducible apply Kept.secWord | with_reducible apply Kept.slotAccess | with_reducible apply OptAll.none
      | with_reducible apply OptAll.some | with_reducible apply OptAll.or | with_reducible apply OptAll.map
      | with_reducible apply OptAll.bind | with_reducible apply Kept.ite | split | intro _
  try clear_value y2
  repeat' first
    | with_reducible assumption | exact List.Subset.trans (by decide) hL | with_reducible apply Kept.localRead
    | with_reducible apply Kept.secWord | with_reducible apply Kept.slotAccess | with_reducible apply OptAll.none
    | with_reducible apply OptAll.some | with_reducible apply OptAll.or | with_reducible apply OptAll.map
    | with_reducible apply OptAll.bind | with_reducible apply Kept.ite | split | intro _

theorem Kept.windowDone (h : Kept L s₀ s) (hL : [.regs, .pushes] ⊆ L) (m : Master) (p : ℕ) (failed : Bool) :
    Kept L s₀ (State.windowDone s m p failed) := by
  unfold State.windowDone
  extract_lets y0
  have gy0 : Kept L s₀ y0 := by
    unfold y0
    repeat' first
      | with_reducible assumption | exact List.Subset.trans (by decide) hL | with_reducible apply Kept.wr
      | with_reducible apply Kept.wrB | with_reducible apply Kept.ite | split | intro _
  try clear_value y0
  repeat' first
    | with_reducible assumption | exact List.Subset.trans (by decide) hL | with_reducible apply Kept.wr
    | with_reducible apply Kept.wrB | with_reducible apply Kept.ite | split | intro _

theorem Kept.wdataRead (h : Kept L s₀ s) (hL : [.regs, .pushes, .mem, .chk, .fresh, .polders, .coll, .engines, .loops, .slotShadows, .sup, .trl, .guards, .chans, .stages, .sto, .answer] ⊆ L) (m : Master) (port : ℕ) (p : ℕ) :
    OptAll (fun r => Kept L s₀ r.2) (State.wdataRead s m port p) := by
  unfold State.wdataRead
  repeat' first
    | with_reducible assumption | exact List.Subset.trans (by decide) hL | with_reducible apply Kept.windowDone
    | with_reducible apply Kept.windowRead | with_reducible apply OptAll.none | with_reducible apply OptAll.some
    | with_reducible apply OptAll.or | with_reducible apply OptAll.map | with_reducible apply OptAll.bind
    | with_reducible apply Kept.ite | split | intro _

theorem Kept.readNowH (h : Kept L s₀ s) (hL : [.fresh] ⊆ L) (port : ℕ) :
    Kept L s₀ (State.readNowH s port).2 := by
  unfold State.readNowH
  repeat' first
    | with_reducible assumption | exact List.Subset.trans (by decide) hL | with_reducible apply Kept.drawWord
    | with_reducible apply Kept.ite | split | intro _

theorem Kept.readReg (h : Kept L s₀ s) (hL : [.regs, .pushes, .mem, .chk, .fresh, .polders, .coll, .tp, .engines, .loops, .slotShadows, .sup, .trl, .guards, .chans, .stages, .sto, .answer] ⊆ L) (m : Master) (port : ℕ) (p : ℕ) (off : ℕ) :
    OptAll (fun r => Kept L s₀ r.2) (State.readReg s m port p off) := by
  unfold State.readReg
  extract_lets y0 y1 y2 y3 y4
  try clear_value y0 y2 y3
  have gy1 : Kept L s₀ y1.2 := by
    unfold y1
    repeat' first
      | with_reducible assumption | exact List.Subset.trans (by decide) hL | with_reducible apply Kept.drawWord
      | with_reducible apply Kept.readNowH | with_reducible apply Kept.readNowL | with_reducible apply Kept.reply
      | with_reducible apply Kept.wdataRead | with_reducible apply OptAll.none | with_reducible apply OptAll.some
      | with_reducible apply OptAll.or | with_reducible apply OptAll.map | with_reducible apply OptAll.bind
      | with_reducible apply Kept.ite | split | intro _
  try clear_value y1
  have gy4 : Kept L s₀ y4.2 := by
    unfold y4
    repeat' first
      | with_reducible assumption | exact List.Subset.trans (by decide) hL | with_reducible apply Kept.drawWord
      | with_reducible apply Kept.readNowH | with_reducible apply Kept.readNowL | with_reducible apply Kept.reply
      | with_reducible apply Kept.wdataRead | with_reducible apply OptAll.none | with_reducible apply OptAll.some
      | with_reducible apply OptAll.or | with_reducible apply OptAll.map | with_reducible apply OptAll.bind
      | with_reducible apply Kept.ite | split | intro _
  try clear_value y4
  repeat' first
    | with_reducible assumption | exact List.Subset.trans (by decide) hL | with_reducible apply Kept.drawWord
    | with_reducible apply Kept.readNowH | with_reducible apply Kept.readNowL | with_reducible apply Kept.reply
    | with_reducible apply Kept.wdataRead | with_reducible apply OptAll.none | with_reducible apply OptAll.some
    | with_reducible apply OptAll.or | with_reducible apply OptAll.map | with_reducible apply OptAll.bind
    | with_reducible apply Kept.ite | split | intro _

end Sys2Proof.Machine
end

