-- ==== Sys2Proof/Laws/KeptInject.lean ====
section
/-! SUPPORT. What the operations of Inject keep. -/

set_option linter.unusedTactic false
set_option linter.unreachableTactic false
set_option linter.unusedVariables false

namespace Sys2Proof.Machine

variable {L : List Part} {s₀ s : State}

theorem Kept.injResult (h : Kept L s₀ s) (hL : [.regs, .pushes] ⊆ L) (r : ℕ) :
    Kept L s₀ (State.injResult s r) := by
  unfold State.injResult
  repeat' first
    | with_reducible assumption | exact List.Subset.trans (by decide) hL | with_reducible apply Kept.wr

theorem Kept.injectIf (h : Kept L s₀ s) (hL : [.regs, .pushes] ⊆ L) (valid : Bool) (act : State → State) (hact : ∀ s, Kept L s₀ s → Kept L s₀ (act s )) :
    Kept L s₀ (State.injectIf s valid act) := by
  unfold State.injectIf
  repeat' first
    | with_reducible assumption | exact List.Subset.trans (by decide) hL | with_reducible apply Kept.injResult
    | with_reducible apply hact | with_reducible apply Kept.ite | split | intro _

theorem Kept.injectReport (h : Kept L s₀ s) (hL : [.regs, .pushes, .coll] ⊆ L) (page : ℕ) (code : ℕ) (cls : ℕ) :
    Kept L s₀ (State.injectReport s page code cls) := by
  unfold State.injectReport
  extract_lets y0
  try clear_value y0
  repeat' first
    | with_reducible assumption | exact List.Subset.trans (by decide) hL | with_reducible apply Kept.injectIf
    | with_reducible apply Kept.reportAs | with_reducible apply Kept.ite | split | intro _

theorem Kept.injectCheckField (h : Kept L s₀ s) (hL : [.regs, .pushes, .chk] ⊆ L) :
    Kept L s₀ (State.injectCheckField s) := by
  unfold State.injectCheckField
  extract_lets y0
  try clear_value y0
  repeat' first
    | with_reducible assumption | exact List.Subset.trans (by decide) hL
    | ((with_reducible refine Touches.intro fun p hp => ?_); cases p <;> first | exact absurd (by decide) hp | (dsimp only [Part.Same]))
    | with_reducible apply Kept.corrupt | with_reducible apply Kept.injectIf | with_reducible apply Kept.ite
    | with_reducible apply Kept.elim | split | intro _ | extract_lets
    | refine Kept.mk_of [.chk] ?_ (List.Subset.trans (by decide) hL) ?_ | dsimp only

theorem Kept.injectStall (h : Kept L s₀ s) (hL : [.regs, .pushes, .polders] ⊆ L) (p : ℕ) :
    Kept L s₀ (State.injectStall s p) := by
  unfold State.injectStall
  repeat' first
    | with_reducible assumption | exact List.Subset.trans (by decide) hL | with_reducible apply Kept.injectIf
    | with_reducible apply Kept.setPolder | with_reducible apply Kept.ite | with_reducible apply Kept.elim | split | intro _
    | extract_lets | dsimp only

theorem Kept.injectCoreWrite (h : Kept L s₀ s) (hL : [.regs, .pushes, .sup] ⊆ L) (c : ℕ) :
    Kept L s₀ (State.injectCoreWrite s c) := by
  unfold State.injectCoreWrite
  repeat' first
    | with_reducible assumption | exact List.Subset.trans (by decide) hL | with_reducible apply Kept.injectIf
    | with_reducible apply Kept.setSup | with_reducible apply Kept.ite | with_reducible apply Kept.elim | split | intro _
    | extract_lets | dsimp only

theorem Kept.injectChannel (h : Kept L s₀ s) (hL : [.regs, .pushes, .coll, .guards, .chans, .stages] ⊆ L) (p : ℕ) (softStill : Bool) :
    Kept L s₀ (State.injectChannel s p softStill) := by
  unfold State.injectChannel
  repeat' first
    | with_reducible assumption | exact List.Subset.trans (by decide) hL | with_reducible apply Kept.driverTrip
    | with_reducible apply Kept.injectIf | with_reducible apply Kept.shortTrip | with_reducible apply Kept.ite | split
    | intro _

theorem Kept.injectFast (h : Kept L s₀ s) (hL : [.regs, .pushes, .coll, .guards, .chans, .stages, .sto] ⊆ L) (ch : ℕ) (hard : Bool) :
    Kept L s₀ (State.injectFast s ch hard) := by
  unfold State.injectFast
  repeat' first
    | with_reducible assumption | exact List.Subset.trans (by decide) hL | with_reducible apply Kept.fastPath
    | with_reducible apply Kept.injectIf | with_reducible apply Kept.ite | split | intro _

theorem Kept.injectHeartbeat (h : Kept L s₀ s) (hL : [.regs, .pushes, .wd] ⊆ L) :
    Kept L s₀ (State.injectHeartbeat s) := by
  unfold State.injectHeartbeat
  repeat' first
    | with_reducible assumption | exact List.Subset.trans (by decide) hL
    | ((with_reducible refine Touches.intro fun p hp => ?_); cases p <;> first | exact absurd (by decide) hp | (dsimp only [Part.Same]))
    | with_reducible apply Kept.injectIf | with_reducible apply Kept.ite | with_reducible apply Kept.elim | split | intro _
    | extract_lets | refine Kept.mk_of [.wd] ?_ (List.Subset.trans (by decide) hL) ?_ | dsimp only

theorem Kept.injectCrystal (h : Kept L s₀ s) (hL : [.regs, .pushes, .tp] ⊆ L) :
    Kept L s₀ (State.injectCrystal s) := by
  unfold State.injectCrystal
  repeat' first
    | with_reducible assumption | exact List.Subset.trans (by decide) hL | with_reducible apply Kept.crystalLost
    | with_reducible apply Kept.injectIf | with_reducible apply Kept.ite | split | intro _

theorem Kept.inject (h : Kept L s₀ s) (hL : [.regs, .pushes, .chk, .fresh, .polders, .coll, .tp, .sup, .guards, .chans, .stages, .sto, .wd] ⊆ L) (kind : ℕ) (page : ℕ) (arg : ℕ) :
    Kept L s₀ (State.inject s kind page arg) := by
  unfold State.inject
  extract_lets y0
  have gy0 : Kept L s₀ y0.2 := by
    unfold y0
    repeat' first
      | with_reducible assumption | exact List.Subset.trans (by decide) hL | with_reducible apply Kept.drawBit
      | with_reducible apply Kept.injectChannel | with_reducible apply Kept.injectCheckField
      | with_reducible apply Kept.injectCoreWrite | with_reducible apply Kept.injectCrystal
      | with_reducible apply Kept.injectFast | with_reducible apply Kept.injectHeartbeat | with_reducible apply Kept.injectIf
      | with_reducible apply Kept.injectReport | with_reducible apply Kept.injectStall | with_reducible apply Kept.ite
      | split | intro _
  try clear_value y0
  repeat' first
    | with_reducible assumption | exact List.Subset.trans (by decide) hL | with_reducible apply Kept.drawBit
    | with_reducible apply Kept.injectChannel | with_reducible apply Kept.injectCheckField
    | with_reducible apply Kept.injectCoreWrite | with_reducible apply Kept.injectCrystal
    | with_reducible apply Kept.injectFast | with_reducible apply Kept.injectHeartbeat | with_reducible apply Kept.injectIf
    | with_reducible apply Kept.injectReport | with_reducible apply Kept.injectStall | with_reducible apply Kept.ite | split
    | intro _

end Sys2Proof.Machine
end

