-- ==== Sys2Proof/Laws/KeptBus.lean ====
section
/-! SUPPORT. What the operations of Bus keep. -/

set_option linter.unusedTactic false
set_option linter.unreachableTactic false
set_option linter.unusedVariables false

namespace Sys2Proof.Machine

variable {L : List Part} {s₀ s : State}

theorem Kept.windowWrite (h : Kept L s₀ s) (hL : [.regs, .staged, .marks, .pushes, .mem, .chk, .polders, .coll, .commit, .engines, .loops, .trl, .guards, .sec] ⊆ L) (m : Master) (p : ℕ) (w : Word) :
    OptAll (fun r => Kept L s₀ r.2) (State.windowWrite s m p w) := by
  unfold State.windowWrite
  extract_lets y0 y1
  try clear_value y0 y1
  repeat' first
    | with_reducible assumption | exact List.Subset.trans (by decide) hL | with_reducible apply Kept.localWrite
    | with_reducible apply Kept.meetsClosed | with_reducible apply Kept.secPut | with_reducible apply Kept.slotWrite
    | with_reducible apply Kept.stagePut | exact (h.meetsClosed (List.Subset.trans (by decide) hL) _ _).all _ (by assumption)
    | with_reducible apply OptAll.none | with_reducible apply OptAll.some | with_reducible apply OptAll.or
    | with_reducible apply OptAll.map | with_reducible apply OptAll.bind | with_reducible apply Kept.ite | split | intro _

theorem Kept.wdataWrite (h : Kept L s₀ s) (hL : [.regs, .staged, .marks, .pushes, .mem, .chk, .polders, .coll, .commit, .engines, .loops, .trl, .guards, .sec] ⊆ L) (m : Master) (p : ℕ) (w : Word) :
    OptAll (Kept L s₀) (State.wdataWrite s m p w) := by
  unfold State.wdataWrite
  repeat' first
    | with_reducible assumption | exact List.Subset.trans (by decide) hL | with_reducible apply Kept.windowDone
    | with_reducible apply Kept.windowWrite | with_reducible apply OptAll.none | with_reducible apply OptAll.some
    | with_reducible apply OptAll.or | with_reducible apply OptAll.map | with_reducible apply OptAll.bind
    | with_reducible apply Kept.ite | with_reducible apply Kept.elim | split | intro _ | extract_lets | dsimp only

theorem Kept.stgWrite (h : Kept L s₀ s) (hL : [.regs, .staged, .marks, .pushes, .commit] ⊆ L) (p : ℕ) (w : Word) :
    Kept L s₀ (State.stgWrite s p w) := by
  unfold State.stgWrite
  extract_lets y0
  have gy0 : Kept L s₀ y0 := by
    unfold y0
    repeat' first
      | with_reducible assumption | exact List.Subset.trans (by decide) hL | with_reducible apply Kept.stageDiscard
      | with_reducible apply Kept.stageInclude | with_reducible apply Kept.ite | split | intro _
  try clear_value y0
  repeat' first
    | with_reducible assumption | exact List.Subset.trans (by decide) hL | with_reducible apply Kept.stageDiscard
    | with_reducible apply Kept.stageInclude | with_reducible apply Kept.ite | split | intro _

theorem Kept.headerWrite (h : Kept L s₀ s) (hL : [.regs, .staged, .marks, .pushes, .polders, .drainQ, .coll, .commit, .loops, .sup, .trl, .pilot] ⊆ L) (p : ℕ) (off : ℕ) (w : Word) :
    OptAll (Kept L s₀) (State.headerWrite s p off w) := by
  unfold State.headerWrite
  repeat' first
    | with_reducible assumption | exact List.Subset.trans (by decide) hL | with_reducible apply Kept.clearPageFlt
    | with_reducible apply Kept.ctlPage | with_reducible apply Kept.stgWrite | with_reducible apply OptAll.none
    | with_reducible apply OptAll.some | with_reducible apply OptAll.or | with_reducible apply OptAll.map
    | with_reducible apply OptAll.bind | with_reducible apply Kept.ite | split | intro _

theorem Kept.secCommand (h : Kept L s₀ s) (hL : [.regs, .pushes, .coll, .sec] ⊆ L) (voted : Bool) (w : Word) :
    Kept L s₀ (State.secCommand s voted w) := by
  unfold State.secCommand
  extract_lets y0
  try clear_value y0
  repeat' first
    | with_reducible assumption | exact List.Subset.trans (by decide) hL | with_reducible apply Kept.advanceCounter
    | with_reducible apply Kept.attest | with_reducible apply Kept.secSubmit | with_reducible apply Kept.submitUnlock
    | with_reducible apply Kept.ite | split | intro _

theorem Kept.synCommandWrite (h : Kept L s₀ s) (hL : [.regs, .pushes, .polders, .syn] ⊆ L) (ch : ℕ) (may : Bool) (off : ℕ) (w : Word) :
    OptAll (Kept L s₀) (State.synCommandWrite s ch may off w) := by
  unfold State.synCommandWrite
  repeat' first
    | with_reducible assumption | exact List.Subset.trans (by decide) hL | with_reducible apply Kept.synPop
    | with_reducible apply Kept.synSend | with_reducible apply OptAll.none | with_reducible apply OptAll.some
    | with_reducible apply OptAll.or | with_reducible apply OptAll.map | with_reducible apply OptAll.bind
    | with_reducible apply Kept.ite | split | intro _

theorem Kept.stoCommand (h : Kept L s₀ s) (hL : [.regs, .pushes, .coll, .guards, .chans, .stages, .sto] ⊆ L) (w : Word) :
    Kept L s₀ (State.stoCommand s w) := by
  unfold State.stoCommand
  repeat' first
    | with_reducible assumption | exact List.Subset.trans (by decide) hL | with_reducible apply Kept.closeSto
    | with_reducible apply Kept.openSto | with_reducible apply Kept.ite | split | intro _

theorem Kept.bootCommand (h : Kept L s₀ s) (hL : [.regs, .pushes, .coll] ⊆ L) (w : Word) :
    Kept L s₀ (State.bootCommand s w) := by
  unfold State.bootCommand
  extract_lets y0 y1
  have gy0 : Kept L s₀ y0 := by
    unfold y0
    repeat' first
      | with_reducible assumption | exact List.Subset.trans (by decide) hL | with_reducible apply Kept.bootConfirm
      | with_reducible apply Kept.bootPrefer | with_reducible apply Kept.bootReady | with_reducible apply Kept.ite | split
      | intro _
  try clear_value y0
  have gy1 : Kept L s₀ y1 := by
    unfold y1
    repeat' first
      | with_reducible assumption | exact List.Subset.trans (by decide) hL | with_reducible apply Kept.bootConfirm
      | with_reducible apply Kept.bootPrefer | with_reducible apply Kept.bootReady | with_reducible apply Kept.ite | split
      | intro _
  try clear_value y1
  repeat' first
    | with_reducible assumption | exact List.Subset.trans (by decide) hL | with_reducible apply Kept.bootConfirm
    | with_reducible apply Kept.bootPrefer | with_reducible apply Kept.bootReady | with_reducible apply Kept.ite | split
    | intro _

theorem Kept.synWrite (h : Kept L s₀ s) (hL : [.regs, .pushes, .polders, .syn] ⊆ L) (m : Master) (voted : Bool) (off : ℕ) (w : Word) :
    OptAll (Kept L s₀) (State.synWrite s m voted off w) := by
  unfold State.synWrite
  repeat' first
    | with_reducible assumption | exact List.Subset.trans (by decide) hL | with_reducible apply Kept.synCommandWrite
    | with_reducible apply OptAll.none | with_reducible apply OptAll.some | with_reducible apply OptAll.or
    | with_reducible apply OptAll.map | with_reducible apply OptAll.bind

theorem Kept.systemWrite (h : Kept L s₀ s) (hL : [.regs, .staged, .marks, .pushes, .ledger, .mem, .chk, .fresh, .polders, .drainQ, .coll, .tp, .hif, .commit, .engines, .loops, .slotShadows, .sup, .trl, .guards, .chans, .stages, .pilot, .samples, .waitingSeqs, .convs, .tdac, .sdFrom, .resolvers, .enc, .ifc, .syn, .sec, .dbg, .pwr, .sto, .wd] ⊆ L) (m : Master) (voted : Bool) (t : PageType) (off : ℕ) (w : Word) :
    OptAll (Kept L s₀) (State.systemWrite s m voted t off w) := by
  unfold State.systemWrite
  extract_lets y0 y1
  try clear_value y1
  try clear_value y0
  repeat' first
    | with_reducible assumption | exact List.Subset.trans (by decide) hL | with_reducible apply Kept.appCtl
    | with_reducible apply Kept.appKick | with_reducible apply Kept.appRequest | with_reducible apply Kept.bootCommand
    | with_reducible apply Kept.clearPeak | with_reducible apply Kept.clearSum | with_reducible apply Kept.closeUpdate
    | with_reducible apply Kept.commitWrite | with_reducible apply Kept.each | with_reducible apply Kept.heartbeatRow
    | with_reducible apply Kept.imageStore | with_reducible apply Kept.imgErase | with_reducible apply Kept.inject
    | with_reducible apply Kept.kick | with_reducible apply Kept.lowerLevel | with_reducible apply Kept.openUpdate
    | with_reducible apply Kept.pinLevel | with_reducible apply Kept.powerRequest | with_reducible apply Kept.resetCommand
    | with_reducible apply Kept.returnRequest | with_reducible apply Kept.safeStopDemand
    | with_reducible apply Kept.secCommand | with_reducible apply Kept.setLoop | with_reducible apply Kept.stoCommand
    | with_reducible apply OptAll.none | with_reducible apply OptAll.some | with_reducible apply OptAll.or
    | with_reducible apply OptAll.map | with_reducible apply OptAll.bind | with_reducible apply Kept.ite
    | with_reducible apply Kept.elim | split | intro _

theorem Kept.controlWrite (h : Kept L s₀ s) (hL : [.regs, .pushes, .fresh, .polders, .coll, .engines, .loops, .trl, .guards, .chans, .stages, .samples, .waitingSeqs, .convs, .tdac, .ifc, .syn] ⊆ L) (m : Master) (voted : Bool) (t : PageType) (p : ℕ) (off : ℕ) (w : Word) :
    OptAll (Kept L s₀) (State.controlWrite s m voted t p off w) := by
  unfold State.controlWrite
  extract_lets y0 y1
  try clear_value y0
  have gy1 : Kept L s₀ y1.2 := by
    unfold y1
    repeat' first
      | with_reducible assumption | exact List.Subset.trans (by decide) hL | with_reducible apply Kept.calRequest
      | with_reducible apply Kept.canRecover | with_reducible apply Kept.clearPeak | with_reducible apply Kept.crowbarClear
      | with_reducible apply Kept.drawBit | with_reducible apply Kept.gpioSetClear
      | with_reducible apply Kept.injectedRequest | with_reducible apply Kept.mdio | with_reducible apply Kept.ringIndexWrite
      | with_reducible apply Kept.softwareSequences | with_reducible apply Kept.synWrite
      | with_reducible apply Kept.tdacRequest | with_reducible apply OptAll.none | with_reducible apply OptAll.some
      | with_reducible apply OptAll.or | with_reducible apply OptAll.map | with_reducible apply OptAll.bind
      | with_reducible apply Kept.ite | split | intro _
  try clear_value y1
  repeat' first
    | with_reducible assumption | exact List.Subset.trans (by decide) hL | with_reducible apply Kept.calRequest
    | with_reducible apply Kept.canRecover | with_reducible apply Kept.clearPeak | with_reducible apply Kept.crowbarClear
    | with_reducible apply Kept.drawBit | with_reducible apply Kept.gpioSetClear | with_reducible apply Kept.injectedRequest
    | with_reducible apply Kept.mdio | with_reducible apply Kept.ringIndexWrite | with_reducible apply Kept.softwareSequences
    | with_reducible apply Kept.synWrite | with_reducible apply Kept.tdacRequest | with_reducible apply OptAll.none
    | with_reducible apply OptAll.some | with_reducible apply OptAll.or | with_reducible apply OptAll.map
    | with_reducible apply OptAll.bind | with_reducible apply Kept.ite | split | intro _

theorem Kept.plainWrite (h : Kept L s₀ s) (hL : [.regs, .pushes] ⊆ L) (t : PageType) (p : ℕ) (off : ℕ) (w : Word) :
    Kept L s₀ (State.plainWrite s t p off w) := by
  unfold State.plainWrite
  extract_lets y0 y1 y2 y3
  try clear_value y0 y1 y2 y3
  repeat' first
    | with_reducible assumption | exact List.Subset.trans (by decide) hL | with_reducible apply Kept.setWord
    | with_reducible apply Kept.ite | split | intro _

theorem Kept.writeReg (h : Kept L s₀ s) (hL : [.regs, .staged, .marks, .pushes, .ledger, .mem, .chk, .fresh, .polders, .drainQ, .coll, .tp, .hif, .commit, .engines, .loops, .slotShadows, .sup, .trl, .guards, .chans, .stages, .pilot, .samples, .waitingSeqs, .convs, .tdac, .sdFrom, .resolvers, .enc, .ifc, .syn, .sec, .dbg, .pwr, .sto, .wd] ⊆ L) (m : Master) (voted : Bool) (p : ℕ) (off : ℕ) (w : Word) :
    OptAll (Kept L s₀) (State.writeReg s m voted p off w) := by
  unfold State.writeReg
  repeat' first
    | with_reducible assumption | exact List.Subset.trans (by decide) hL | with_reducible apply Kept.controlWrite
    | with_reducible apply Kept.headerWrite | with_reducible apply Kept.plainWrite | with_reducible apply Kept.stagePut
    | with_reducible apply Kept.systemWrite | with_reducible apply Kept.wdataWrite | with_reducible apply OptAll.none
    | with_reducible apply OptAll.some | with_reducible apply OptAll.or | with_reducible apply OptAll.map
    | with_reducible apply OptAll.bind | with_reducible apply Kept.ite | split | intro _

theorem Kept.busRead (h : Kept L s₀ s) (hL : [.regs, .pushes, .mem, .chk, .fresh, .polders, .coll, .tp, .engines, .loops, .slotShadows, .sup, .trl, .guards, .chans, .stages, .sto, .answer] ⊆ L) (m : Master) (port : ℕ) (a : ℕ) (size : ℕ) :
    OptAll (fun r => Kept L s₀ r.2) (State.busRead s m port a size) := by
  unfold State.busRead
  extract_lets y0
  have gy0 : Kept L s₀ y0.2 := by
    unfold y0
    repeat' first
      | with_reducible assumption | exact List.Subset.trans (by decide) hL | with_reducible apply Kept.memRead
      | with_reducible apply Kept.readReg | with_reducible apply Kept.slotAccess | with_reducible apply OptAll.none
      | with_reducible apply OptAll.some | with_reducible apply OptAll.or | with_reducible apply OptAll.map
      | with_reducible apply OptAll.bind | with_reducible apply Kept.ite | with_reducible apply Kept.elim | split | intro _
  try clear_value y0
  repeat' first
    | with_reducible assumption | exact List.Subset.trans (by decide) hL | with_reducible apply Kept.memRead
    | with_reducible apply Kept.readReg | with_reducible apply Kept.slotAccess | with_reducible apply OptAll.none
    | with_reducible apply OptAll.some | with_reducible apply OptAll.or | with_reducible apply OptAll.map
    | with_reducible apply OptAll.bind | with_reducible apply Kept.ite | with_reducible apply Kept.elim | split | intro _

theorem Kept.busWrite (h : Kept L s₀ s) (hL : [.regs, .staged, .marks, .pushes, .ledger, .mem, .chk, .fresh, .polders, .drainQ, .coll, .tp, .hif, .commit, .engines, .loops, .slotShadows, .sup, .trl, .guards, .chans, .stages, .pilot, .samples, .waitingSeqs, .convs, .tdac, .sdFrom, .resolvers, .enc, .ifc, .syn, .sec, .dbg, .pwr, .sto, .wd] ⊆ L) (m : Master) (voted : Bool) (a : ℕ) (size : ℕ) (be : ℕ) (w : Word) :
    OptAll (Kept L s₀) (State.busWrite s m voted a size be w) := by
  unfold State.busWrite
  extract_lets y0
  try clear_value y0
  repeat' first
    | with_reducible assumption | exact List.Subset.trans (by decide) hL | with_reducible apply Kept.each
    | with_reducible apply Kept.memWrite | with_reducible apply Kept.writeReg | with_reducible apply OptAll.none
    | with_reducible apply OptAll.some | with_reducible apply OptAll.or | with_reducible apply OptAll.map
    | with_reducible apply OptAll.bind | with_reducible apply Kept.ite | split | intro _

theorem Kept.answered {r : ReadRes × State} (h : Kept L s₀ r.2) (hL : [.answer] ⊆ L) : Kept L s₀ (State.answered r) := by
  unfold State.answered
  split
  · exact h.reply (List.Subset.trans (by decide) hL) _
  · exact h
  · exact h

theorem Kept.coreAccess (h : Kept L s₀ s) (hL : [.regs, .staged, .marks, .pushes, .ledger, .mem, .chk, .fresh, .polders, .drainQ, .coll, .tp, .hif, .commit, .engines, .loops, .slotShadows, .sup, .trl, .guards, .chans, .stages, .pilot, .samples, .waitingSeqs, .convs, .tdac, .sdFrom, .resolvers, .enc, .ifc, .syn, .sec, .dbg, .pwr, .sto, .wd, .answer] ⊆ L) (m : Master) (write : Bool) (a : ℕ) (size : ℕ) (w : Word) (bad : List ℕ) (mram : List (ℕ × ℕ)) :
    OptAll (Kept L s₀) (State.coreAccess s m write a size w bad mram) := by
  unfold State.coreAccess
  extract_lets y0 y1
  try clear_value y0
  have gy1 : Kept L s₀ y1 := by
    unfold y1
    repeat' first
      | with_reducible assumption | exact List.Subset.trans (by decide) hL | with_reducible apply Kept.answered
      | with_reducible apply Kept.busRead | with_reducible apply Kept.busWrite | with_reducible apply Kept.corrupt
      | with_reducible apply Kept.corruptMram | with_reducible apply OptAll.none | with_reducible apply OptAll.some
      | with_reducible apply OptAll.or | with_reducible apply OptAll.map | with_reducible apply OptAll.bind
      | with_reducible apply Kept.ite | split | intro _
  try clear_value y1
  repeat' first
    | with_reducible assumption | exact List.Subset.trans (by decide) hL | with_reducible apply Kept.answered
    | with_reducible apply Kept.busRead | with_reducible apply Kept.busWrite | with_reducible apply Kept.corrupt
    | with_reducible apply Kept.corruptMram | with_reducible apply OptAll.none | with_reducible apply OptAll.some
    | with_reducible apply OptAll.or | with_reducible apply OptAll.map | with_reducible apply OptAll.bind
    | with_reducible apply Kept.ite | split | intro _

theorem Kept.registerWrite (h : Kept L s₀ s) (hL : [.regs, .staged, .marks, .pushes, .ledger, .mem, .chk, .fresh, .polders, .drainQ, .coll, .tp, .hif, .commit, .engines, .loops, .slotShadows, .sup, .trl, .guards, .chans, .stages, .pilot, .samples, .waitingSeqs, .convs, .tdac, .sdFrom, .resolvers, .enc, .ifc, .syn, .sec, .dbg, .pwr, .sto, .wd] ⊆ L) (m : Master) (p : ℕ) (off : ℕ) (w : Word) :
    OptAll (Kept L s₀) (State.registerWrite s m p off w) := by
  unfold State.registerWrite
  repeat' first
    | with_reducible assumption | exact List.Subset.trans (by decide) hL | with_reducible apply Kept.writeReg
    | with_reducible apply OptAll.none | with_reducible apply OptAll.some | with_reducible apply OptAll.or
    | with_reducible apply OptAll.map | with_reducible apply OptAll.bind | with_reducible apply Kept.ite | split | intro _

theorem Kept.issueAll (h : Kept L s₀ s) (hL : [.regs, .staged, .marks, .pushes, .ledger, .mem, .chk, .fresh, .polders, .drainQ, .coll, .tp, .hif, .commit, .engines, .loops, .slotShadows, .sup, .trl, .guards, .chans, .stages, .pilot, .samples, .waitingSeqs, .convs, .tdac, .sdFrom, .resolvers, .enc, .ifc, .syn, .sec, .dbg, .pwr, .sto, .wd] ⊆ L) (cs : List CoreWrite) : OptAll (Kept L s₀) (Sys2Proof.Machine.issueAll s cs) := by
  induction cs generalizing s with
  | nil => exact OptAll.some h
  | cons c cs ih =>
    unfold Sys2Proof.Machine.issueAll
    exact (h.busWrite (List.Subset.trans (by decide) hL) _ _ _ _ _ _).bind fun t ht => ih ht

theorem Kept.votedWrite (h : Kept L s₀ s) (hL : [.regs, .staged, .marks, .pushes, .ledger, .mem, .chk, .fresh, .polders, .drainQ, .coll, .tp, .hif, .commit, .engines, .loops, .slotShadows, .sup, .trl, .guards, .chans, .stages, .pilot, .samples, .waitingSeqs, .convs, .tdac, .sdFrom, .resolvers, .enc, .ifc, .syn, .sec, .dbg, .pwr, .sto, .wd] ⊆ L) (c : ℕ) (w : CoreWrite) :
    OptAll (Kept L s₀) (State.votedWrite s c w) := by
  unfold State.votedWrite
  extract_lets y0
  have gy0 : Kept L s₀ y0.2 := by
    unfold y0
    repeat' first
      | with_reducible assumption | exact List.Subset.trans (by decide) hL | with_reducible apply Kept.issueAll
      | with_reducible apply Kept.presentWrite | with_reducible apply OptAll.none | with_reducible apply OptAll.some
      | with_reducible apply OptAll.or | with_reducible apply OptAll.map | with_reducible apply OptAll.bind
  try clear_value y0
  repeat' first
    | with_reducible assumption | exact List.Subset.trans (by decide) hL | with_reducible apply Kept.issueAll
    | with_reducible apply Kept.presentWrite | with_reducible apply OptAll.none | with_reducible apply OptAll.some
    | with_reducible apply OptAll.or | with_reducible apply OptAll.map | with_reducible apply OptAll.bind

theorem Kept.agreedRead (h : Kept L s₀ s) (hL : [.regs, .pushes, .mem, .chk, .fresh, .polders, .coll, .tp, .engines, .loops, .slotShadows, .sup, .trl, .guards, .chans, .stages, .sto, .answer] ⊆ L) (a : Agreed) :
    OptAll (Kept L s₀) (State.agreedRead s a) := by
  unfold State.agreedRead
  extract_lets y0 y1 y2 y3 y4 y5 y6 y7
  try clear_value y0 y1 y2 y4 y5
  have gy3 : Kept L s₀ y3.2 := by
    unfold y3
    repeat' first
      | with_reducible assumption | exact List.Subset.trans (by decide) hL | with_reducible apply Kept.answered
      | with_reducible apply Kept.busRead | with_reducible apply Kept.drawWord | with_reducible apply Kept.reply
      | with_reducible apply Kept.setWord | with_reducible apply OptAll.bindAny | with_reducible apply OptAll.none
      | with_reducible apply OptAll.some | with_reducible apply OptAll.or | with_reducible apply OptAll.map
      | with_reducible apply OptAll.bind | with_reducible apply Kept.ite | with_reducible apply Kept.elim | split | intro _
      | extract_lets | dsimp only
  try clear_value y3
  have gy6 : Kept L s₀ y6 := by
    unfold y6
    repeat' first
      | with_reducible assumption | exact List.Subset.trans (by decide) hL | with_reducible apply Kept.answered
      | with_reducible apply Kept.busRead | with_reducible apply Kept.drawWord | with_reducible apply Kept.reply
      | with_reducible apply Kept.setWord | with_reducible apply OptAll.bindAny | with_reducible apply OptAll.none
      | with_reducible apply OptAll.some | with_reducible apply OptAll.or | with_reducible apply OptAll.map
      | with_reducible apply OptAll.bind | with_reducible apply Kept.ite | with_reducible apply Kept.elim | split | intro _
      | extract_lets | dsimp only
  try clear_value y6
  have gy7 : Kept L s₀ y7 := by
    unfold y7
    repeat' first
      | with_reducible assumption | exact List.Subset.trans (by decide) hL | with_reducible apply Kept.answered
      | with_reducible apply Kept.busRead | with_reducible apply Kept.drawWord | with_reducible apply Kept.reply
      | with_reducible apply Kept.setWord | with_reducible apply OptAll.bindAny | with_reducible apply OptAll.none
      | with_reducible apply OptAll.some | with_reducible apply OptAll.or | with_reducible apply OptAll.map
      | with_reducible apply OptAll.bind | with_reducible apply Kept.ite | with_reducible apply Kept.elim | split | intro _
      | extract_lets | dsimp only
  try clear_value y7
  repeat' first
    | with_reducible assumption | exact List.Subset.trans (by decide) hL | with_reducible apply Kept.answered
    | with_reducible apply Kept.busRead | with_reducible apply Kept.drawWord | with_reducible apply Kept.reply
    | with_reducible apply Kept.setWord | with_reducible apply OptAll.bindAny | with_reducible apply OptAll.none
    | with_reducible apply OptAll.some | with_reducible apply OptAll.or | with_reducible apply OptAll.map
    | with_reducible apply OptAll.bind | with_reducible apply Kept.ite | with_reducible apply Kept.elim | split | intro _
    | extract_lets | dsimp only

theorem Kept.agreementAccess (h : Kept L s₀ s) (hL : [.regs, .pushes, .mem, .chk, .fresh, .polders, .drainQ, .coll, .tp, .engines, .loops, .slotShadows, .sup, .trl, .guards, .chans, .stages, .sto, .answer] ⊆ L) (c : ℕ) (a : ℕ) (sample : Word) :
    OptAll (Kept L s₀) (State.agreementAccess s c a sample) := by
  unfold State.agreementAccess
  extract_lets y0
  have gy0 : Kept L s₀ y0.2 := by
    unfold y0
    repeat' first
      | with_reducible assumption | exact List.Subset.trans (by decide) hL | with_reducible apply Kept.agreedRead
      | with_reducible apply Kept.agreementIssue | with_reducible apply OptAll.none | with_reducible apply OptAll.some
      | with_reducible apply OptAll.or | with_reducible apply OptAll.map | with_reducible apply OptAll.bind
      | with_reducible apply Kept.ite | split | intro _
  try clear_value y0
  repeat' first
    | with_reducible assumption | exact List.Subset.trans (by decide) hL | with_reducible apply Kept.agreedRead
    | with_reducible apply Kept.agreementIssue | with_reducible apply OptAll.none | with_reducible apply OptAll.some
    | with_reducible apply OptAll.or | with_reducible apply OptAll.map | with_reducible apply OptAll.bind
    | with_reducible apply Kept.ite | split | intro _

theorem Kept.voteLag (h : Kept L s₀ s) (hL : [.regs, .staged, .marks, .pushes, .ledger, .mem, .chk, .fresh, .polders, .drainQ, .coll, .tp, .hif, .commit, .engines, .loops, .slotShadows, .sup, .trl, .guards, .chans, .stages, .pilot, .samples, .waitingSeqs, .convs, .tdac, .sdFrom, .resolvers, .enc, .ifc, .syn, .sec, .dbg, .pwr, .sto, .wd, .answer] ⊆ L) (c : ℕ) :
    OptAll (Kept L s₀) (State.voteLag s c) := by
  unfold State.voteLag
  extract_lets y0
  have gy0 : Kept L s₀ y0.2.2 := by
    unfold y0
    repeat' first
      | with_reducible assumption | exact List.Subset.trans (by decide) hL | with_reducible apply Kept.agreedRead
      | with_reducible apply Kept.issueAll | with_reducible apply Kept.lagTimeout | with_reducible apply OptAll.none
      | with_reducible apply OptAll.some | with_reducible apply OptAll.or | with_reducible apply OptAll.map
      | with_reducible apply OptAll.bind | with_reducible apply Kept.ite | with_reducible apply Kept.elim | split | intro _
      | extract_lets | dsimp only
  try clear_value y0
  repeat' first
    | with_reducible assumption | exact List.Subset.trans (by decide) hL | with_reducible apply Kept.agreedRead
    | with_reducible apply Kept.issueAll | with_reducible apply Kept.lagTimeout | with_reducible apply OptAll.none
    | with_reducible apply OptAll.some | with_reducible apply OptAll.or | with_reducible apply OptAll.map
    | with_reducible apply OptAll.bind | with_reducible apply Kept.ite | with_reducible apply Kept.elim | split | intro _
    | extract_lets | dsimp only

theorem Kept.debugWrite (h : Kept L s₀ s) (hL : [.regs, .staged, .marks, .pushes, .ledger, .mem, .chk, .fresh, .polders, .drainQ, .coll, .tp, .hif, .commit, .engines, .loops, .slotShadows, .sup, .trl, .guards, .chans, .stages, .pilot, .samples, .waitingSeqs, .convs, .tdac, .sdFrom, .resolvers, .enc, .ifc, .syn, .sec, .dbg, .pwr, .sto, .wd] ⊆ L) (k : ℕ) (a : ℕ) (size : ℕ) (w : Word) :
    OptAll (Kept L s₀) (State.debugWrite s k a size w) := by
  unfold State.debugWrite
  extract_lets y0
  repeat' first
    | with_reducible assumption | exact List.Subset.trans (by decide) hL | with_reducible apply Kept.busWrite
    | with_reducible apply Kept.each | with_reducible apply Kept.memWrite | with_reducible apply OptAll.none
    | with_reducible apply OptAll.some | with_reducible apply OptAll.or | with_reducible apply OptAll.map
    | with_reducible apply OptAll.bind | with_reducible apply Kept.ite | split | intro _

theorem Kept.debugCommand (h : Kept L s₀ s) (hL : [.regs, .staged, .marks, .pushes, .ledger, .mem, .chk, .fresh, .polders, .drainQ, .coll, .tp, .hif, .commit, .engines, .loops, .slotShadows, .sup, .trl, .guards, .chans, .stages, .pilot, .samples, .waitingSeqs, .convs, .tdac, .sdFrom, .resolvers, .enc, .ifc, .syn, .sec, .dbg, .pwr, .sto, .wd, .answer] ⊆ L) (k : ℕ) (bus : Bool) (write : Bool) (a : ℕ) (size : ℕ) (w : Word) :
    OptAll (Kept L s₀) (State.debugCommand s k bus write a size w) := by
  unfold State.debugCommand
  extract_lets y0 y1
  try clear_value y0
  have gy1 : Kept L s₀ y1 := by
    unfold y1
    repeat' first
      | with_reducible assumption | exact List.Subset.trans (by decide) hL | with_reducible apply Kept.answered
      | with_reducible apply Kept.breakHalt | with_reducible apply Kept.busRead | with_reducible apply Kept.debugWrite
      | with_reducible apply Kept.setDbg | with_reducible apply OptAll.none | with_reducible apply OptAll.some
      | with_reducible apply OptAll.or | with_reducible apply OptAll.map | with_reducible apply OptAll.bind
      | with_reducible apply Kept.ite | split | intro _
  try clear_value y1
  repeat' first
    | with_reducible assumption | exact List.Subset.trans (by decide) hL | with_reducible apply Kept.answered
    | with_reducible apply Kept.breakHalt | with_reducible apply Kept.busRead | with_reducible apply Kept.debugWrite
    | with_reducible apply Kept.setDbg | with_reducible apply OptAll.none | with_reducible apply OptAll.some
    | with_reducible apply OptAll.or | with_reducible apply OptAll.map | with_reducible apply OptAll.bind
    | with_reducible apply Kept.ite | split | intro _

end Sys2Proof.Machine
end

