-- ==== Sys2Proof/Laws/KeptHostPort.lean ====
section
/-! SUPPORT. What the operations of HostPort keep. -/

set_option linter.unusedTactic false
set_option linter.unreachableTactic false
set_option linter.unusedVariables false

namespace Sys2Proof.Machine

variable {L : List Part} {s₀ s : State}

theorem Kept.setHif (h : Kept L s₀ s) (hL : [.hif] ⊆ L) (f : HostPort → HostPort) :
    Kept L s₀ (State.setHif s f) := by
  unfold State.setHif
  repeat' first
    | with_reducible assumption | exact List.Subset.trans (by decide) hL
    | ((with_reducible refine Touches.intro fun p hp => ?_); cases p <;> first | exact absurd (by decide) hp | (dsimp only [Part.Same]))
    | refine Kept.mk_of [.hif] ?_ (List.Subset.trans (by decide) hL) ?_

theorem Kept.owesPush (h : Kept L s₀ s) (hL : [.pushes] ⊆ L) (p : ℕ) (off : ℕ) :
    Kept L s₀ (State.owesPush s p off) := by
  unfold State.owesPush
  repeat' first
    | with_reducible assumption | exact List.Subset.trans (by decide) hL
    | ((with_reducible refine Touches.intro fun p hp => ?_); cases p <;> first | exact absurd (by decide) hp | (dsimp only [Part.Same]))
    | refine Kept.mk_of [.pushes] ?_ (List.Subset.trans (by decide) hL) ?_

theorem Kept.ledgerPut (h : Kept L s₀ s) (hL : [.ledger] ⊆ L) (p : ℕ) (off : ℕ) (w : Word) :
    Kept L s₀ (State.ledgerPut s p off w) := by
  unfold State.ledgerPut
  repeat' first
    | with_reducible assumption | exact List.Subset.trans (by decide) hL
    | ((with_reducible refine Touches.intro fun p hp => ?_); cases p <;> first | exact absurd (by decide) hp | (dsimp only [Part.Same]))
    | refine Kept.mk_of [.ledger] ?_ (List.Subset.trans (by decide) hL) ?_

theorem Kept.ledgerPush (h : Kept L s₀ s) (hL : [.pushes, .ledger] ⊆ L) (p : ℕ) (off : ℕ) :
    Kept L s₀ (State.ledgerPush s p off) := by
  unfold State.ledgerPush
  extract_lets y0
  have gy0 : Kept L s₀ y0 := by
    unfold y0
    repeat' first
      | with_reducible assumption | exact List.Subset.trans (by decide) hL
      | ((with_reducible refine Touches.intro fun p hp => ?_); cases p <;> first | exact absurd (by decide) hp | (dsimp only [Part.Same]))
      | with_reducible apply Kept.ledgerPut | with_reducible apply Kept.ite | split | intro _
      | refine Kept.mk_of [.pushes] ?_ (List.Subset.trans (by decide) hL) ?_
  try clear_value y0
  repeat' first
    | with_reducible assumption | exact List.Subset.trans (by decide) hL
    | ((with_reducible refine Touches.intro fun p hp => ?_); cases p <;> first | exact absurd (by decide) hp | (dsimp only [Part.Same]))
    | with_reducible apply Kept.ledgerPut | with_reducible apply Kept.ite | split | intro _
    | refine Kept.mk_of [.pushes] ?_ (List.Subset.trans (by decide) hL) ?_

theorem Kept.countFrame (h : Kept L s₀ s) (hL : [.hif] ⊆ L) :
    Kept L s₀ (State.countFrame s) := by
  unfold State.countFrame
  repeat' first
    | with_reducible assumption | exact List.Subset.trans (by decide) hL | with_reducible apply Kept.setHif

theorem Kept.frameAnswer (h : Kept L s₀ s) (hL : [.hif, .answer] ⊆ L) (status : Word) (data : Word) :
    Kept L s₀ (State.frameAnswer s status data) := by
  unfold State.frameAnswer
  extract_lets y0
  try clear_value y0
  repeat' first
    | with_reducible assumption | exact List.Subset.trans (by decide) hL
    | ((with_reducible refine Touches.intro fun p hp => ?_); cases p <;> first | exact absurd (by decide) hp | (dsimp only [Part.Same]))
    | refine Kept.mk_of [.hif, .answer] ?_ (List.Subset.trans (by decide) hL) ?_

theorem Kept.frameIgnored (h : Kept L s₀ s) (hL : [.regs, .pushes, .coll, .hif] ⊆ L) (cause : ℕ) (edges : ℕ) :
    Kept L s₀ (State.frameIgnored s cause edges) := by
  unfold State.frameIgnored
  extract_lets y0 y1
  have gy0 : Kept L s₀ y0 := by
    unfold y0
    repeat' first
      | with_reducible assumption | exact List.Subset.trans (by decide) hL | with_reducible apply Kept.countFirst
      | with_reducible apply Kept.setHif | with_reducible apply Kept.wr
  try clear_value y0
  have gy1 : Kept L s₀ y1 := by
    unfold y1
    repeat' first
      | with_reducible assumption | exact List.Subset.trans (by decide) hL | with_reducible apply Kept.countFirst
      | with_reducible apply Kept.setHif | with_reducible apply Kept.wr
  try clear_value y1
  repeat' first
    | with_reducible assumption | exact List.Subset.trans (by decide) hL | with_reducible apply Kept.countFirst
    | with_reducible apply Kept.setHif | with_reducible apply Kept.wr

theorem Kept.frameData (h : Kept L s₀ s) (hL : [.fresh, .tp, .answer] ⊆ L) (addr : ℕ) :
    OptAll (fun r => Kept L s₀ r.2) (State.frameData s addr) := by
  unfold State.frameData
  extract_lets y0 y1 y2 y3 y4
  try clear_value y0 y1 y2 y3
  have gy4 : Kept L s₀ y4.2 := by
    unfold y4
    repeat' first
      | with_reducible assumption | exact List.Subset.trans (by decide) hL | with_reducible apply Kept.drawWord
      | with_reducible apply Kept.readNowL | with_reducible apply Kept.reply | with_reducible apply OptAll.none
      | with_reducible apply OptAll.some | with_reducible apply OptAll.or | with_reducible apply OptAll.map
      | with_reducible apply OptAll.bind | with_reducible apply Kept.ite | split | intro _
  try clear_value y4
  repeat' first
    | with_reducible assumption | exact List.Subset.trans (by decide) hL | with_reducible apply Kept.drawWord
    | with_reducible apply Kept.readNowL | with_reducible apply Kept.reply | with_reducible apply OptAll.none
    | with_reducible apply OptAll.some | with_reducible apply OptAll.or | with_reducible apply OptAll.map
    | with_reducible apply OptAll.bind | with_reducible apply Kept.ite | split | intro _

theorem Kept.queueWrite (h : Kept L s₀ s) (hL : [.ledger, .hif] ⊆ L) (addr : ℕ) (w : Word) :
    Kept L s₀ (State.queueWrite s addr w) := by
  unfold State.queueWrite
  extract_lets y0 y1 y2 y3
  try clear_value y0 y1 y2
  have gy3 : Kept L s₀ y3 := by
    unfold y3
    repeat' first
      | with_reducible assumption | exact List.Subset.trans (by decide) hL | with_reducible apply Kept.ledgerPut
      | with_reducible apply Kept.setHif | with_reducible apply Kept.ite | split | intro _
  try clear_value y3
  repeat' first
    | with_reducible assumption | exact List.Subset.trans (by decide) hL | with_reducible apply Kept.ledgerPut
    | with_reducible apply Kept.setHif | with_reducible apply Kept.ite | split | intro _

theorem Kept.startDeferred (h : Kept L s₀ s) (hL : [.regs, .pushes, .hif] ⊆ L) (addr : ℕ) :
    Kept L s₀ (State.startDeferred s addr) := by
  unfold State.startDeferred
  extract_lets y0
  have gy0 : Kept L s₀ y0 := by
    unfold y0
    repeat' first
      | with_reducible assumption | exact List.Subset.trans (by decide) hL | with_reducible apply Kept.setHif
      | with_reducible apply Kept.wr | with_reducible apply Kept.wrB
  try clear_value y0
  repeat' first
    | with_reducible assumption | exact List.Subset.trans (by decide) hL | with_reducible apply Kept.setHif
    | with_reducible apply Kept.wr | with_reducible apply Kept.wrB

theorem Kept.requestDeferred (h : Kept L s₀ s) (hL : [.regs, .pushes, .coll, .hif] ⊆ L) (addr : ℕ) :
    Kept L s₀ (State.requestDeferred s addr) := by
  unfold State.requestDeferred
  repeat' first
    | with_reducible assumption | exact List.Subset.trans (by decide) hL | with_reducible apply Kept.count
    | with_reducible apply Kept.startDeferred | split

theorem Kept.fetchDeferred (h : Kept L s₀ s) (hL : [.regs, .pushes, .hif] ⊆ L) :
    Kept L s₀ (State.fetchDeferred s).2.2 := by
  unfold State.fetchDeferred
  repeat' first
    | with_reducible assumption | exact List.Subset.trans (by decide) hL | with_reducible apply Kept.setHif
    | with_reducible apply Kept.wrB | split

theorem Kept.frameClosed (h : Kept L s₀ s) (hL : [.fresh, .tp, .hif, .answer] ⊆ L) (op : ℕ) (f : HostFrame) :
    OptAll (Kept L s₀) (State.frameClosed s op f) := by
  unfold State.frameClosed
  repeat' first
    | with_reducible assumption | exact List.Subset.trans (by decide) hL
    | ((with_reducible refine Touches.intro fun p hp => ?_); cases p <;> first | exact absurd (by decide) hp | (dsimp only [Part.Same]))
    | with_reducible apply Kept.frameAnswer | with_reducible apply Kept.frameData | with_reducible apply OptAll.none
    | with_reducible apply OptAll.some | with_reducible apply OptAll.or | with_reducible apply OptAll.map
    | with_reducible apply OptAll.bind | with_reducible apply Kept.ite | with_reducible apply Kept.elim | split | intro _
    | extract_lets | refine Kept.mk_of [.tp] ?_ (List.Subset.trans (by decide) hL) ?_ | dsimp only

theorem Kept.hostFrame (h : Kept L s₀ s) (hL : [.regs, .pushes, .ledger, .fresh, .coll, .tp, .hif, .answer] ⊆ L) (op : ℕ) (f : HostFrame) :
    OptAll (Kept L s₀) (State.hostFrame s op f) := by
  unfold State.hostFrame
  extract_lets y0 y1 y2 y3 y4 y5 y6
  try clear_value y0 y2
  have gy1 : Kept L s₀ y1 := by
    unfold y1
    repeat' first
      | with_reducible assumption | exact List.Subset.trans (by decide) hL | with_reducible apply Kept.countFrame
      | with_reducible apply Kept.drawWord | with_reducible apply Kept.fetchDeferred | with_reducible apply Kept.frameAnswer
      | with_reducible apply Kept.frameClosed | with_reducible apply Kept.frameData | with_reducible apply Kept.frameIgnored
      | with_reducible apply Kept.queueWrite | with_reducible apply Kept.requestDeferred | with_reducible apply Kept.setHif
      | with_reducible apply OptAll.none | with_reducible apply OptAll.some | with_reducible apply OptAll.or
      | with_reducible apply OptAll.map | with_reducible apply OptAll.bind | with_reducible apply Kept.ite
      | with_reducible apply Kept.elim | split | intro _ | dsimp only
  try clear_value y1
  have gy3 : Kept L s₀ y3.2 := by
    unfold y3
    repeat' first
      | with_reducible assumption | exact List.Subset.trans (by decide) hL | with_reducible apply Kept.countFrame
      | with_reducible apply Kept.drawWord | with_reducible apply Kept.fetchDeferred | with_reducible apply Kept.frameAnswer
      | with_reducible apply Kept.frameClosed | with_reducible apply Kept.frameData | with_reducible apply Kept.frameIgnored
      | with_reducible apply Kept.queueWrite | with_reducible apply Kept.requestDeferred | with_reducible apply Kept.setHif
      | with_reducible apply OptAll.none | with_reducible apply OptAll.some | with_reducible apply OptAll.or
      | with_reducible apply OptAll.map | with_reducible apply OptAll.bind | with_reducible apply Kept.ite
      | with_reducible apply Kept.elim | split | intro _ | dsimp only
  try clear_value y3
  have gy4 : Kept L s₀ y4 := by
    unfold y4
    repeat' first
      | with_reducible assumption | exact List.Subset.trans (by decide) hL | with_reducible apply Kept.countFrame
      | with_reducible apply Kept.drawWord | with_reducible apply Kept.fetchDeferred | with_reducible apply Kept.frameAnswer
      | with_reducible apply Kept.frameClosed | with_reducible apply Kept.frameData | with_reducible apply Kept.frameIgnored
      | with_reducible apply Kept.queueWrite | with_reducible apply Kept.requestDeferred | with_reducible apply Kept.setHif
      | with_reducible apply OptAll.none | with_reducible apply OptAll.some | with_reducible apply OptAll.or
      | with_reducible apply OptAll.map | with_reducible apply OptAll.bind | with_reducible apply Kept.ite
      | with_reducible apply Kept.elim | split | intro _ | dsimp only
  try clear_value y4
  have gy5 : Kept L s₀ y5.2.2 := by
    unfold y5
    repeat' first
      | with_reducible assumption | exact List.Subset.trans (by decide) hL | with_reducible apply Kept.countFrame
      | with_reducible apply Kept.drawWord | with_reducible apply Kept.fetchDeferred | with_reducible apply Kept.frameAnswer
      | with_reducible apply Kept.frameClosed | with_reducible apply Kept.frameData | with_reducible apply Kept.frameIgnored
      | with_reducible apply Kept.queueWrite | with_reducible apply Kept.requestDeferred | with_reducible apply Kept.setHif
      | with_reducible apply OptAll.none | with_reducible apply OptAll.some | with_reducible apply OptAll.or
      | with_reducible apply OptAll.map | with_reducible apply OptAll.bind | with_reducible apply Kept.ite
      | with_reducible apply Kept.elim | split | intro _ | dsimp only
  try clear_value y5
  have gy6 : Kept L s₀ y6 := by
    unfold y6
    repeat' first
      | with_reducible assumption | exact List.Subset.trans (by decide) hL | with_reducible apply Kept.countFrame
      | with_reducible apply Kept.drawWord | with_reducible apply Kept.fetchDeferred | with_reducible apply Kept.frameAnswer
      | with_reducible apply Kept.frameClosed | with_reducible apply Kept.frameData | with_reducible apply Kept.frameIgnored
      | with_reducible apply Kept.queueWrite | with_reducible apply Kept.requestDeferred | with_reducible apply Kept.setHif
      | with_reducible apply OptAll.none | with_reducible apply OptAll.some | with_reducible apply OptAll.or
      | with_reducible apply OptAll.map | with_reducible apply OptAll.bind | with_reducible apply Kept.ite
      | with_reducible apply Kept.elim | split | intro _ | dsimp only
  try clear_value y6
  repeat' first
    | with_reducible assumption | exact List.Subset.trans (by decide) hL | with_reducible apply Kept.countFrame
    | with_reducible apply Kept.drawWord | with_reducible apply Kept.fetchDeferred | with_reducible apply Kept.frameAnswer
    | with_reducible apply Kept.frameClosed | with_reducible apply Kept.frameData | with_reducible apply Kept.frameIgnored
    | with_reducible apply Kept.queueWrite | with_reducible apply Kept.requestDeferred | with_reducible apply Kept.setHif
    | with_reducible apply OptAll.none | with_reducible apply OptAll.some | with_reducible apply OptAll.or
    | with_reducible apply OptAll.map | with_reducible apply OptAll.bind | with_reducible apply Kept.ite
    | with_reducible apply Kept.elim | split | intro _ | dsimp only

theorem Kept.deliverWrite (h : Kept L s₀ s) (hL : [.regs, .staged, .marks, .pushes, .ledger, .mem, .chk, .fresh, .polders, .drainQ, .coll, .tp, .hif, .commit, .engines, .loops, .slotShadows, .sup, .trl, .guards, .chans, .stages, .pilot, .samples, .waitingSeqs, .convs, .tdac, .sdFrom, .resolvers, .enc, .ifc, .syn, .sec, .dbg, .pwr, .sto, .wd] ⊆ L) :
    OptAll (Kept L s₀) (State.deliverWrite s) := by
  unfold State.deliverWrite
  repeat' first
    | with_reducible assumption | exact List.Subset.trans (by decide) hL | with_reducible apply Kept.owesPush
    | with_reducible apply Kept.setHif | with_reducible apply Kept.writeReg | with_reducible apply OptAll.none
    | with_reducible apply OptAll.some | with_reducible apply OptAll.or | with_reducible apply OptAll.map
    | with_reducible apply OptAll.bind | with_reducible apply Kept.ite | split | intro _

theorem Kept.completeDeferred (h : Kept L s₀ s) (hL : [.regs, .pushes, .mem, .chk, .fresh, .polders, .coll, .tp, .hif, .engines, .loops, .slotShadows, .sup, .trl, .guards, .chans, .stages, .sto, .answer] ⊆ L) :
    OptAll (Kept L s₀) (State.completeDeferred s) := by
  unfold State.completeDeferred
  repeat' first
    | with_reducible assumption | exact List.Subset.trans (by decide) hL | with_reducible apply Kept.readReg
    | with_reducible apply Kept.setHif | with_reducible apply Kept.wr | with_reducible apply Kept.wrB
    | with_reducible apply OptAll.none | with_reducible apply OptAll.some | with_reducible apply OptAll.or
    | with_reducible apply OptAll.map | with_reducible apply OptAll.bind | with_reducible apply Kept.ite
    | with_reducible apply Kept.elim | split | intro _ | extract_lets | dsimp only

end Sys2Proof.Machine
end

