-- ==== Sys2Proof/Laws/KeptEvents.lean ====
section
/-! SUPPORT. What the operations of Events keep. -/

set_option linter.unusedTactic false
set_option linter.unreachableTactic false
set_option linter.unusedVariables false

namespace Sys2Proof.Machine

variable {L : List Part} {s₀ s : State}

theorem Kept.ctlRow (h : Kept L s₀ s) (hL : [.regs, .pushes, .polders, .drainQ, .coll, .loops, .sup, .trl, .pilot] ⊆ L) (page : ℕ) (w : CtlBits) :
    OptAll (Kept L s₀) (State.ctlRow s page w) := by
  unfold State.ctlRow
  repeat' first
    | with_reducible assumption | exact List.Subset.trans (by decide) hL | with_reducible apply Kept.ctlPage
    | with_reducible apply OptAll.none | with_reducible apply OptAll.some | with_reducible apply OptAll.or
    | with_reducible apply OptAll.map | with_reducible apply OptAll.bind | with_reducible apply Kept.ite | split | intro _

theorem Kept.referenceSwitched (h : Kept L s₀ s) (hL : [.regs, .pushes, .coll, .tp] ⊆ L) :
    Kept L s₀ (State.referenceSwitched s) := by
  unfold State.referenceSwitched
  extract_lets y0 y1 y2 y3 y4
  try clear_value y0 y1 y2
  have gy3 : Kept L s₀ y3 := by
    unfold y3
    repeat' first
      | with_reducible assumption | exact List.Subset.trans (by decide) hL | with_reducible apply Kept.each
      | with_reducible apply Kept.ethStop | with_reducible apply Kept.reportFab
      | with_reducible apply Kept.switchoverComplete | with_reducible apply Kept.ite | split | intro _
  try clear_value y3
  have gy4 : Kept L s₀ y4 := by
    unfold y4
    repeat' first
      | with_reducible assumption | exact List.Subset.trans (by decide) hL | with_reducible apply Kept.each
      | with_reducible apply Kept.ethStop | with_reducible apply Kept.reportFab
      | with_reducible apply Kept.switchoverComplete | with_reducible apply Kept.ite | split | intro _
  try clear_value y4
  repeat' first
    | with_reducible assumption | exact List.Subset.trans (by decide) hL | with_reducible apply Kept.each
    | with_reducible apply Kept.ethStop | with_reducible apply Kept.reportFab | with_reducible apply Kept.switchoverComplete
    | with_reducible apply Kept.ite | split | intro _

theorem Kept.calibrated (h : Kept L s₀ s) (hL : [.regs, .pushes, .polders, .drainQ, .coll, .engines, .loops, .sup, .trl, .guards, .pilot, .samples, .convs] ⊆ L) (n : ℕ) (good : Bool) :
    Kept L s₀ (State.calibrated s n good) := by
  unfold State.calibrated
  repeat' first
    | with_reducible assumption | exact List.Subset.trans (by decide) hL | with_reducible apply Kept.calComplete
    | with_reducible apply Kept.recheckDrains

theorem Kept.tdacChecked (h : Kept L s₀ s) (hL : [.regs, .pushes, .polders, .coll, .loops, .sup, .trl, .pilot, .tdac] ⊆ L) (n : ℕ) (code : ℕ) (low : ℕ) :
    Kept L s₀ (State.tdacChecked s n code low) := by
  unfold State.tdacChecked
  repeat' first
    | with_reducible assumption | exact List.Subset.trans (by decide) hL | with_reducible apply Kept.recheckDrains
    | with_reducible apply Kept.tdacComplete

theorem Kept.hardShort (h : Kept L s₀ s) (hL : [.regs, .pushes, .coll, .guards, .chans, .stages] ⊆ L) (p : ℕ) (high : Bool) (softStill : Bool) :
    Kept L s₀ (State.hardShort s p high softStill) := by
  unfold State.hardShort
  repeat' first
    | with_reducible assumption | exact List.Subset.trans (by decide) hL | with_reducible apply Kept.shortTrip
    | with_reducible apply Kept.ite | split | intro _

theorem Kept.readNow (h : Kept L s₀ s) (hL : [.tp, .answer] ⊆ L) (port : ℕ) :
    Kept L s₀ (State.readNow s port) := by
  unfold State.readNow
  repeat' first
    | with_reducible assumption | exact List.Subset.trans (by decide) hL | with_reducible apply Kept.readNowL
    | with_reducible apply Kept.ite | split | intro _

end Sys2Proof.Machine
end

