-- ==== Sys2Proof/Laws/KeptExec.lean ====
section
/-! SUPPORT. What the meaning of each command keeps. -/

set_option linter.unusedTactic false
set_option linter.unreachableTactic false
set_option linter.unusedVariables false

namespace Sys2Proof.Machine

variable {L : List Part} {s₀ s t : State}

theorem Kept.of_next {u : State} (h : Kept L s₀ u) (e : (Host.Outcome.next u : Res) = .next t) : Kept L s₀ t := by
  cases e
  exact h

theorem Kept.of_settle {o : Option State} (h : OptAll (Kept L s₀) o) (e : settle o = .next t) : Kept L s₀ t := by
  cases o with
  | none => cases e
  | some u =>
    cases e
    exact h.all _ rfl

theorem kept_execSequenceTrigger (h : Kept L s₀ s) (hL : [.regs, .pushes, .coll, .engines, .loops, .trl, .guards, .samples, .waitingSeqs, .convs] ⊆ L) (periodic : Bool) (stage : Fin 10) (arg : Nat)
    (e : execSequenceTrigger periodic stage arg s = .next t) : Kept L s₀ t := by
  unfold execSequenceTrigger at e
  refine Kept.of_next ?_ e
  repeat' first
    | with_reducible assumption
    | exact List.Subset.trans (by decide) hL
    | with_reducible apply Kept.periodicSequences
    | with_reducible apply Kept.stageSequences
    | split
    | intro _

theorem kept_execSeqSw (h : Kept L s₀ s) (hL : [.regs, .pushes, .coll, .engines, .loops, .trl, .guards, .samples, .waitingSeqs, .convs] ⊆ L) (converter : Fin 6) (bits : Nat)
    (e : execSeqSw converter bits s = .next t) : Kept L s₀ t := by
  unfold execSeqSw at e
  refine Kept.of_next ?_ e
  repeat' first
    | with_reducible assumption
    | exact List.Subset.trans (by decide) hL
    | with_reducible apply Kept.softwareSequences
    | split
    | intro _

theorem kept_execSequenceStart (h : Kept L s₀ s) (hL : [.regs, .pushes, .polders, .coll, .engines, .loops, .trl, .guards, .samples, .waitingSeqs, .convs] ⊆ L) (converter : Fin 6)
    (e : execSequenceStart converter s = .next t) : Kept L s₀ t := by
  unfold execSequenceStart at e
  refine Kept.of_next ?_ e
  repeat' first
    | with_reducible assumption
    | exact List.Subset.trans (by decide) hL
    | with_reducible apply Kept.sequenceStart
    | split
    | intro _

theorem kept_execConversionComplete (h : Kept L s₀ s) (hL : [.regs, .pushes, .coll, .engines, .loops, .trl, .guards, .samples, .convs] ⊆ L) (converter : Fin 6) (code : Fin 16384)
    (e : execConversionComplete converter code s = .next t) : Kept L s₀ t := by
  unfold execConversionComplete at e
  refine Kept.of_next ?_ e
  repeat' first
    | with_reducible assumption
    | exact List.Subset.trans (by decide) hL
    | with_reducible apply Kept.conversionComplete
    | split
    | intro _

theorem kept_execConverterPowerDown (h : Kept L s₀ s) (hL : [.regs, .pushes] ⊆ L) (converter : Fin 6)
    (e : execConverterPowerDown converter s = .next t) : Kept L s₀ t := by
  unfold execConverterPowerDown at e
  refine Kept.of_next ?_ e
  repeat' first
    | with_reducible assumption
    | exact List.Subset.trans (by decide) hL
    | with_reducible apply Kept.converterDown
    | split
    | intro _

theorem kept_execInjectedRequest (h : Kept L s₀ s) (hL : [.regs, .pushes, .coll, .convs] ⊆ L) (converter : Fin 6) (ain : Nat)
    (e : execInjectedRequest converter ain s = .next t) : Kept L s₀ t := by
  unfold execInjectedRequest at e
  refine Kept.of_next ?_ e
  repeat' first
    | with_reducible assumption
    | exact List.Subset.trans (by decide) hL
    | with_reducible apply Kept.injectedRequest
    | split
    | intro _

theorem kept_execCalibrationRequest (h : Kept L s₀ s) (hL : [.regs, .pushes, .convs] ⊆ L) (converter : Fin 6)
    (e : execCalibrationRequest converter s = .next t) : Kept L s₀ t := by
  unfold execCalibrationRequest at e
  refine Kept.of_next ?_ e
  repeat' first
    | with_reducible assumption
    | exact List.Subset.trans (by decide) hL
    | with_reducible apply Kept.calRequest
    | split
    | intro _

theorem kept_execCalibrationAuto (h : Kept L s₀ s) (hL : [.regs, .pushes, .convs] ⊆ L) (converter : Fin 6)
    (e : execCalibrationAuto converter s = .next t) : Kept L s₀ t := by
  unfold execCalibrationAuto at e
  refine Kept.of_next ?_ e
  repeat' first
    | with_reducible assumption
    | exact List.Subset.trans (by decide) hL
    | with_reducible apply Kept.calAuto
    | split
    | intro _

theorem kept_execCalibrationStart (h : Kept L s₀ s) (hL : [.regs, .pushes, .convs] ⊆ L) (converter : Fin 6)
    (e : execCalibrationStart converter s = .next t) : Kept L s₀ t := by
  unfold execCalibrationStart at e
  refine Kept.of_next ?_ e
  repeat' first
    | with_reducible assumption
    | exact List.Subset.trans (by decide) hL
    | with_reducible apply Kept.calStart
    | split
    | intro _

theorem kept_execCalibrationComplete (h : Kept L s₀ s) (hL : [.regs, .pushes, .polders, .drainQ, .coll, .engines, .loops, .sup, .trl, .guards, .pilot, .samples, .convs] ⊆ L) (converter : Fin 6) (good : Bool)
    (e : execCalibrationComplete converter good s = .next t) : Kept L s₀ t := by
  unfold execCalibrationComplete at e
  refine Kept.of_next ?_ e
  repeat' first
    | with_reducible assumption
    | exact List.Subset.trans (by decide) hL
    | with_reducible apply Kept.calibrated
    | split
    | intro _

theorem kept_execCalibrationAbandon (h : Kept L s₀ s) (hL : [.regs, .pushes, .coll, .convs] ⊆ L) (converter : Fin 6)
    (e : execCalibrationAbandon converter s = .next t) : Kept L s₀ t := by
  unfold execCalibrationAbandon at e
  refine Kept.of_next ?_ e
  repeat' first
    | with_reducible assumption
    | exact List.Subset.trans (by decide) hL
    | with_reducible apply Kept.calAbandon
    | split
    | intro _

theorem kept_execTdacAutoCheck (h : Kept L s₀ s) (hL : [.tdac] ⊆ L) (converter : Fin 6)
    (e : execTdacAutoCheck converter s = .next t) : Kept L s₀ t := by
  unfold execTdacAutoCheck at e
  refine Kept.of_next ?_ e
  repeat' first
    | with_reducible assumption
    | exact List.Subset.trans (by decide) hL
    | with_reducible apply Kept.tdacAuto
    | split
    | intro _

theorem kept_execTdacRequest (h : Kept L s₀ s) (hL : [.regs, .pushes, .tdac] ⊆ L) (position : Fin 256) (pin : Bool)
    (e : execTdacRequest position pin s = .next t) : Kept L s₀ t := by
  unfold execTdacRequest at e
  refine Kept.of_next ?_ e
  repeat' first
    | with_reducible assumption
    | exact List.Subset.trans (by decide) hL
    | with_reducible apply Kept.tdacRequest
    | split
    | intro _

theorem kept_execTdacCheckComplete (h : Kept L s₀ s) (hL : [.regs, .pushes, .polders, .coll, .loops, .sup, .trl, .pilot, .tdac] ⊆ L) (converter : Fin 6) (code : Fin 16384) (low : Fin 16384)
    (e : execTdacCheckComplete converter code low s = .next t) : Kept L s₀ t := by
  unfold execTdacCheckComplete at e
  refine Kept.of_next ?_ e
  repeat' first
    | with_reducible assumption
    | exact List.Subset.trans (by decide) hL
    | with_reducible apply Kept.tdacChecked
    | split
    | intro _

theorem kept_execSdDecimatorOutput (h : Kept L s₀ s) (hL : [.regs, .pushes, .coll, .samples] ⊆ L) (ch : Fin 12) (density : Word)
    (e : execSdDecimatorOutput ch density s = .next t) : Kept L s₀ t := by
  unfold execSdDecimatorOutput at e
  refine Kept.of_next ?_ e
  repeat' first
    | with_reducible assumption
    | exact List.Subset.trans (by decide) hL
    | with_reducible apply Kept.sdOutput
    | split
    | intro _

theorem kept_execSdStuck (h : Kept L s₀ s) (hL : [.regs, .pushes, .coll, .guards, .chans, .stages, .samples, .sto] ⊆ L) (ch : Fin 12)
    (e : execSdStuck ch s = .next t) : Kept L s₀ t := by
  unfold execSdStuck at e
  refine Kept.of_next ?_ e
  repeat' first
    | with_reducible assumption
    | exact List.Subset.trans (by decide) hL
    | with_reducible apply Kept.sdStuck
    | split
    | intro _

theorem kept_execFastPathDetection (h : Kept L s₀ s) (hL : [.regs, .pushes, .coll, .guards, .chans, .stages, .sto] ⊆ L) (ch : Fin 12) (hard : Bool)
    (e : execFastPathDetection ch hard s = .next t) : Kept L s₀ t := by
  unfold execFastPathDetection at e
  refine Kept.of_next ?_ e
  repeat' first
    | with_reducible assumption
    | exact List.Subset.trans (by decide) hL
    | with_reducible apply Kept.fastDetection
    | split
    | intro _

theorem kept_execResolverDemodulation (h : Kept L s₀ s) (hL : [.regs, .pushes, .coll, .samples, .resolvers] ⊆ L) (rd : Fin 2) (angle : Fin 65536) (speed : Word) (phase : Nat) (amp : Word) (err : Word)
    (e : execResolverDemodulation rd angle speed phase amp err s = .next t) : Kept L s₀ t := by
  unfold execResolverDemodulation at e
  refine Kept.of_next ?_ e
  repeat' first
    | with_reducible assumption
    | exact List.Subset.trans (by decide) hL
    | with_reducible apply Kept.rdDemodulate
    | split
    | intro _

theorem kept_execEncoderEdge (h : Kept L s₀ s) (hL : [.regs, .pushes, .coll, .samples, .enc] ⊆ L) (a : Bool) (b : Bool) (z : Bool)
    (e : execEncoderEdge a b z s = .next t) : Kept L s₀ t := by
  unfold execEncoderEdge at e
  refine Kept.of_next ?_ e
  repeat' first
    | with_reducible assumption
    | exact List.Subset.trans (by decide) hL
    | with_reducible apply Kept.encoderEdge
    | split
    | intro _

theorem kept_execEncoderZeroSpeed (h : Kept L s₀ s) (hL : [.samples] ⊆ L)
    (e : execEncoderZeroSpeed s = .next t) : Kept L s₀ t := by
  unfold execEncoderZeroSpeed at e
  refine Kept.of_next ?_ e
  repeat' first
    | with_reducible assumption
    | exact List.Subset.trans (by decide) hL
    | with_reducible apply Kept.encoderZero
    | split
    | intro _

theorem kept_execConverterWake (h : Kept L s₀ s) (hL : [.regs, .pushes, .convs] ⊆ L) (converter : Fin 6)
    (e : execConverterWake converter s = .next t) : Kept L s₀ t := by
  unfold execConverterWake at e
  refine Kept.of_next ?_ e
  repeat' first
    | with_reducible assumption
    | exact List.Subset.trans (by decide) hL
    | with_reducible apply Kept.converterWake
    | split
    | intro _

theorem kept_execIhPinTransition (h : Kept L s₀ s) (hL : [.regs, .pushes, .chans] ⊆ L) (ch : Fin 16) (pls : Bool) (en : Bool)
    (e : execIhPinTransition ch pls en s = .next t) : Kept L s₀ t := by
  unfold execIhPinTransition at e
  refine Kept.of_next ?_ e
  repeat' first
    | with_reducible assumption
    | exact List.Subset.trans (by decide) hL
    | with_reducible apply Kept.pinTransition
    | split
    | intro _

theorem kept_execBootstrapComparator (h : Kept L s₀ s) (hL : [.regs, .pushes, .coll, .chans] ⊆ L) (ch : Fin 16) (low : Bool)
    (e : execBootstrapComparator ch low s = .next t) : Kept L s₀ t := by
  unfold execBootstrapComparator at e
  refine Kept.of_next ?_ e
  repeat' first
    | with_reducible assumption
    | exact List.Subset.trans (by decide) hL
    | with_reducible apply Kept.bootstrap
    | split
    | intro _

theorem kept_execRefreshPulse (h : Kept L s₀ s) (hL : [.regs, .pushes, .coll, .chans] ⊆ L) (ch : Fin 16)
    (e : execRefreshPulse ch s = .next t) : Kept L s₀ t := by
  unfold execRefreshPulse at e
  refine Kept.of_next ?_ e
  repeat' first
    | with_reducible assumption
    | exact List.Subset.trans (by decide) hL
    | with_reducible apply Kept.refreshPulse
    | split
    | intro _

theorem kept_execChargePumpLow (h : Kept L s₀ s) (hL : [.regs, .pushes, .coll] ⊆ L)
    (e : execChargePumpLow s = .next t) : Kept L s₀ t := by
  unfold execChargePumpLow at e
  refine Kept.of_next ?_ e
  repeat' first
    | with_reducible assumption
    | exact List.Subset.trans (by decide) hL
    | with_reducible apply Kept.chargePumpLow
    | split
    | intro _

theorem kept_execVdsTrip (h : Kept L s₀ s) (hL : [.regs, .pushes, .coll, .guards, .chans, .stages] ⊆ L) (ch : Fin 16) (high : Bool) (softStill : Bool)
    (e : execVdsTrip ch high softStill s = .next t) : Kept L s₀ t := by
  unfold execVdsTrip at e
  refine Kept.of_next ?_ e
  repeat' first
    | with_reducible assumption
    | exact List.Subset.trans (by decide) hL
    | with_reducible apply Kept.vdsTrip
    | split
    | intro _

theorem kept_execHardShort (h : Kept L s₀ s) (hL : [.regs, .pushes, .coll, .guards, .chans, .stages] ⊆ L) (ch : Fin 16) (high : Bool) (softStill : Bool)
    (e : execHardShort ch high softStill s = .next t) : Kept L s₀ t := by
  unfold execHardShort at e
  refine Kept.of_next ?_ e
  repeat' first
    | with_reducible assumption
    | exact List.Subset.trans (by decide) hL
    | with_reducible apply Kept.hardShort
    | split
    | intro _

theorem kept_execDriverFault (h : Kept L s₀ s) (hL : [.regs, .pushes, .coll, .guards, .chans, .stages] ⊆ L) (ch : Fin 23)
    (e : execDriverFault ch s = .next t) : Kept L s₀ t := by
  unfold execDriverFault at e
  refine Kept.of_next ?_ e
  repeat' first
    | with_reducible assumption
    | exact List.Subset.trans (by decide) hL
    | with_reducible apply Kept.driverFault
    | split
    | intro _

theorem kept_execChargePumpWithinRange (h : Kept L s₀ s) (hL : [.regs, .pushes] ⊆ L)
    (e : execChargePumpWithinRange s = .next t) : Kept L s₀ t := by
  unfold execChargePumpWithinRange at e
  refine Kept.of_next ?_ e
  repeat' first
    | with_reducible assumption
    | exact List.Subset.trans (by decide) hL
    | with_reducible apply Kept.chargePumpOk
    | split
    | intro _

theorem kept_execXhFltNPinChange (h : Kept L s₀ s) (hL : [.regs, .pushes, .chans] ⊆ L) (ch : Fin 23) (low : Bool)
    (e : execXhFltNPinChange ch low s = .next t) : Kept L s₀ t := by
  unfold execXhFltNPinChange at e
  refine Kept.of_next ?_ e
  repeat' first
    | with_reducible assumption
    | exact List.Subset.trans (by decide) hL
    | with_reducible apply Kept.fltPin
    | split
    | intro _

theorem kept_execStagedWrite (h : Kept L s₀ s) (hL : [.regs, .staged, .marks, .pushes, .commit] ⊆ L) (page : Fin 256) (off : Nat) (data : Word)
    (e : execStagedWrite page off data s = .next t) : Kept L s₀ t := by
  unfold execStagedWrite at e
  refine Kept.of_settle ?_ e
  repeat' first
    | with_reducible assumption
    | exact List.Subset.trans (by decide) hL
    | exact OptAll.none
    | with_reducible apply OptAll.some
    | with_reducible apply Kept.stagePut
    | split
    | intro _

theorem kept_execStageDiscard (h : Kept L s₀ s) (hL : [.regs, .staged, .marks, .pushes, .commit] ⊆ L) (page : Fin 256)
    (e : execStageDiscard page s = .next t) : Kept L s₀ t := by
  unfold execStageDiscard at e
  refine Kept.of_settle ?_ e
  repeat' first
    | with_reducible assumption
    | exact List.Subset.trans (by decide) hL
    | exact OptAll.none
    | with_reducible apply OptAll.some
    | with_reducible apply Kept.stageDiscard
    | split
    | intro _

theorem kept_execStageIncludeWrite (h : Kept L s₀ s) (hL : [.regs, .pushes] ⊆ L) (page : Fin 256) (incl : Bool)
    (e : execStageIncludeWrite page incl s = .next t) : Kept L s₀ t := by
  unfold execStageIncludeWrite at e
  refine Kept.of_settle ?_ e
  repeat' first
    | with_reducible assumption
    | exact List.Subset.trans (by decide) hL
    | exact OptAll.none
    | with_reducible apply OptAll.some
    | with_reducible apply Kept.stageInclude
    | split
    | intro _

theorem kept_execWindowAccess (h : Kept L s₀ s) (hL : [.regs, .staged, .marks, .pushes, .mem, .chk, .fresh, .polders, .coll, .commit, .engines, .loops, .slotShadows, .sup, .trl, .guards, .chans, .stages, .sec, .sto, .answer] ⊆ L) (master : Master) (page : Fin 256) (write : Bool) (data : Word)
    (e : execWindowAccess master page write data s = .next t) : Kept L s₀ t := by
  unfold execWindowAccess at e
  refine Kept.of_settle ?_ e
  split
  · exact h.wdataWrite (List.Subset.trans (by decide) hL) master _ data
  · exact (h.wdataRead (List.Subset.trans (by decide) hL) master _ _).map fun r hr => Kept.answered hr (List.Subset.trans (by decide) hL)

theorem kept_execCommit (h : Kept L s₀ s) (hL : [.regs, .pushes, .commit] ⊆ L) (key : BitVec 16)
    (e : execCommit key s = .next t) : Kept L s₀ t := by
  unfold execCommit at e
  refine Kept.of_next ?_ e
  repeat' first
    | with_reducible assumption
    | exact List.Subset.trans (by decide) hL
    | with_reducible apply Kept.commitWrite
    | split
    | intro _

theorem kept_execCommitCheckComplete (h : Kept L s₀ s) (hL : [.regs, .pushes, .chk, .fresh, .coll, .commit, .guards, .chans, .stages] ⊆ L)
    (e : execCommitCheckComplete s = .next t) : Kept L s₀ t := by
  unfold execCommitCheckComplete at e
  refine Kept.of_next ?_ e
  repeat' first
    | with_reducible assumption
    | exact List.Subset.trans (by decide) hL
    | with_reducible apply Kept.checkComplete
    | split
    | intro _

theorem kept_execCommitApply (h : Kept L s₀ s) (hL : [.regs, .marks, .pushes, .chk, .fresh, .polders, .coll, .commit, .engines, .loops, .trl, .guards, .chans, .stages, .convs, .sdFrom, .resolvers, .enc, .ifc, .syn, .dbg, .wd] ⊆ L)
    (e : execCommitApply s = .next t) : Kept L s₀ t := by
  unfold execCommitApply at e
  unfold State.applyCommit at e
  split at e
  · cases e
  · exact Kept.of_next (h.commitApply (List.Subset.trans (by decide) hL)) e

theorem kept_execRegisterWrite (h : Kept L s₀ s) (hL : [.regs, .staged, .marks, .pushes, .ledger, .mem, .chk, .fresh, .polders, .drainQ, .coll, .tp, .hif, .commit, .engines, .loops, .slotShadows, .sup, .trl, .guards, .chans, .stages, .pilot, .samples, .waitingSeqs, .convs, .tdac, .sdFrom, .resolvers, .enc, .ifc, .syn, .sec, .dbg, .pwr, .sto, .wd] ⊆ L) (master : Master) (page : Fin 256) (off : Fin 4096) (data : Word)
    (e : execRegisterWrite master page off data s = .next t) : Kept L s₀ t := by
  unfold execRegisterWrite at e
  refine Kept.of_settle ?_ e
  repeat' first
    | with_reducible assumption
    | exact List.Subset.trans (by decide) hL
    | exact OptAll.none
    | with_reducible apply OptAll.some
    | with_reducible apply Kept.registerWrite
    | split
    | intro _

theorem kept_execFaultReport (h : Kept L s₀ s) (hL : [.regs, .pushes, .fresh, .coll, .guards, .chans, .stages, .sto] ⊆ L) (index : Nat)
    (e : execFaultReport index s = .next t) : Kept L s₀ t := by
  unfold execFaultReport at e
  refine Kept.of_next ?_ e
  repeat' first
    | with_reducible assumption
    | exact List.Subset.trans (by decide) hL
    | with_reducible apply Kept.arrive
    | split
    | intro _

theorem kept_execLogEntryWrite (h : Kept L s₀ s) (hL : [.regs, .pushes, .coll] ⊆ L)
    (e : execLogEntryWrite s = .next t) : Kept L s₀ t := by
  unfold execLogEntryWrite at e
  refine Kept.of_next ?_ e
  repeat' first
    | with_reducible assumption
    | exact List.Subset.trans (by decide) hL
    | with_reducible apply Kept.logNext
    | split
    | intro _

theorem kept_execFltSumClear (h : Kept L s₀ s) (hL : [.regs, .pushes, .coll] ⊆ L) (bits : Fin 8)
    (e : execFltSumClear bits s = .next t) : Kept L s₀ t := by
  unfold execFltSumClear at e
  refine Kept.of_next ?_ e
  repeat' first
    | with_reducible assumption
    | exact List.Subset.trans (by decide) hL
    | with_reducible apply Kept.clearSum
    | split
    | intro _

theorem kept_execPageFltClear (h : Kept L s₀ s) (hL : [.regs, .pushes] ⊆ L) (page : Fin 256) (bits : Fin 16)
    (e : execPageFltClear page bits s = .next t) : Kept L s₀ t := by
  unfold execPageFltClear at e
  refine Kept.of_settle ?_ e
  repeat' first
    | with_reducible assumption
    | exact List.Subset.trans (by decide) hL
    | exact OptAll.none
    | with_reducible apply OptAll.some
    | with_reducible apply Kept.clearPageFlt
    | split
    | intro _

theorem kept_execFaultPinWidthEnd (h : Kept L s₀ s) (hL : [.regs, .pushes, .coll] ⊆ L)
    (e : execFaultPinWidthEnd s = .next t) : Kept L s₀ t := by
  unfold execFaultPinWidthEnd at e
  refine Kept.of_next ?_ e
  repeat' first
    | with_reducible assumption
    | exact List.Subset.trans (by decide) hL
    | with_reducible apply Kept.pinWidthEnd
    | split
    | intro _

theorem kept_execFaultPinLevelWrite (h : Kept L s₀ s) (hL : [.regs, .pushes] ⊆ L) (level : Bool)
    (e : execFaultPinLevelWrite level s = .next t) : Kept L s₀ t := by
  unfold execFaultPinLevelWrite at e
  refine Kept.of_next ?_ e
  repeat' first
    | with_reducible assumption
    | exact List.Subset.trans (by decide) hL
    | with_reducible apply Kept.pinLevel
    | split
    | intro _

theorem kept_execReducedOperationExit (h : Kept L s₀ s) (hL : [.regs, .pushes, .coll] ⊆ L)
    (e : execReducedOperationExit s = .next t) : Kept L s₀ t := by
  unfold execReducedOperationExit at e
  refine Kept.of_next ?_ e
  repeat' first
    | with_reducible assumption
    | exact List.Subset.trans (by decide) hL
    | with_reducible apply Kept.reducedExit
    | split
    | intro _

theorem kept_execAppKick (h : Kept L s₀ s) (hL : [.wd] ⊆ L) (core : Fin 3)
    (e : execAppKick core s = .next t) : Kept L s₀ t := by
  unfold execAppKick at e
  refine Kept.of_next ?_ e
  repeat' first
    | with_reducible assumption
    | exact List.Subset.trans (by decide) hL
    | with_reducible apply Kept.appKick
    | split
    | intro _

theorem kept_execAppWatchdogExpiry (h : Kept L s₀ s) (hL : [.regs, .pushes, .coll, .guards, .chans, .stages, .wd] ⊆ L) (core : Fin 3)
    (e : execAppWatchdogExpiry core s = .next t) : Kept L s₀ t := by
  unfold execAppWatchdogExpiry at e
  refine Kept.of_next ?_ e
  repeat' first
    | with_reducible assumption
    | exact List.Subset.trans (by decide) hL
    | with_reducible apply Kept.appExpiry
    | split
    | intro _

theorem kept_execHostRead (h : Kept L s₀ s) (hL : [.regs, .pushes, .ledger, .fresh, .coll, .tp, .hif, .answer] ⊆ L) (edges : Nat) (addr : Fin 1048576) (ccrc : Fin 256) (data : Word) (dcrc : Fin 256)
    (e : execHostRead edges addr ccrc data dcrc s = .next t) : Kept L s₀ t := by
  unfold execHostRead at e
  refine Kept.of_settle ?_ e
  repeat' first
    | with_reducible assumption
    | exact List.Subset.trans (by decide) hL
    | exact OptAll.none
    | with_reducible apply OptAll.some
    | with_reducible apply Kept.hostFrame
    | split
    | intro _

theorem kept_execHostWrite (h : Kept L s₀ s) (hL : [.regs, .pushes, .ledger, .fresh, .coll, .tp, .hif, .answer] ⊆ L) (edges : Nat) (addr : Fin 1048576) (ccrc : Fin 256) (data : Word) (dcrc : Fin 256)
    (e : execHostWrite edges addr ccrc data dcrc s = .next t) : Kept L s₀ t := by
  unfold execHostWrite at e
  refine Kept.of_settle ?_ e
  repeat' first
    | with_reducible assumption
    | exact List.Subset.trans (by decide) hL
    | exact OptAll.none
    | with_reducible apply OptAll.some
    | with_reducible apply Kept.hostFrame
    | split
    | intro _

theorem kept_execHostDeferredRead (h : Kept L s₀ s) (hL : [.regs, .pushes, .ledger, .fresh, .coll, .tp, .hif, .answer] ⊆ L) (edges : Nat) (addr : Fin 1048576) (ccrc : Fin 256) (data : Word) (dcrc : Fin 256)
    (e : execHostDeferredRead edges addr ccrc data dcrc s = .next t) : Kept L s₀ t := by
  unfold execHostDeferredRead at e
  refine Kept.of_settle ?_ e
  repeat' first
    | with_reducible assumption
    | exact List.Subset.trans (by decide) hL
    | exact OptAll.none
    | with_reducible apply OptAll.some
    | with_reducible apply Kept.hostFrame
    | split
    | intro _

theorem kept_execHostFetch (h : Kept L s₀ s) (hL : [.regs, .pushes, .ledger, .fresh, .coll, .tp, .hif, .answer] ⊆ L) (edges : Nat) (addr : Fin 1048576) (ccrc : Fin 256) (data : Word) (dcrc : Fin 256)
    (e : execHostFetch edges addr ccrc data dcrc s = .next t) : Kept L s₀ t := by
  unfold execHostFetch at e
  refine Kept.of_settle ?_ e
  repeat' first
    | with_reducible assumption
    | exact List.Subset.trans (by decide) hL
    | exact OptAll.none
    | with_reducible apply OptAll.some
    | with_reducible apply Kept.hostFrame
    | split
    | intro _

theorem kept_execHostWriteDelivery (h : Kept L s₀ s) (hL : [.regs, .staged, .marks, .pushes, .ledger, .mem, .chk, .fresh, .polders, .drainQ, .coll, .tp, .hif, .commit, .engines, .loops, .slotShadows, .sup, .trl, .guards, .chans, .stages, .pilot, .samples, .waitingSeqs, .convs, .tdac, .sdFrom, .resolvers, .enc, .ifc, .syn, .sec, .dbg, .pwr, .sto, .wd] ⊆ L)
    (e : execHostWriteDelivery s = .next t) : Kept L s₀ t := by
  unfold execHostWriteDelivery at e
  refine Kept.of_settle ?_ e
  repeat' first
    | with_reducible assumption
    | exact List.Subset.trans (by decide) hL
    | exact OptAll.none
    | with_reducible apply OptAll.some
    | with_reducible apply Kept.deliverWrite
    | split
    | intro _

theorem kept_execDeferredReadComplete (h : Kept L s₀ s) (hL : [.regs, .pushes, .mem, .chk, .fresh, .polders, .coll, .tp, .hif, .engines, .loops, .slotShadows, .sup, .trl, .guards, .chans, .stages, .sto, .answer] ⊆ L)
    (e : execDeferredReadComplete s = .next t) : Kept L s₀ t := by
  unfold execDeferredReadComplete at e
  refine Kept.of_settle ?_ e
  repeat' first
    | with_reducible assumption
    | exact List.Subset.trans (by decide) hL
    | exact OptAll.none
    | with_reducible apply OptAll.some
    | with_reducible apply Kept.completeDeferred
    | split
    | intro _

theorem kept_execLedgerPush (h : Kept L s₀ s) (hL : [.pushes, .ledger] ⊆ L) (page : Fin 256) (off : Fin 4096)
    (e : execLedgerPush page off s = .next t) : Kept L s₀ t := by
  unfold execLedgerPush at e
  refine Kept.of_next ?_ e
  repeat' first
    | with_reducible assumption
    | exact List.Subset.trans (by decide) hL
    | with_reducible apply Kept.ledgerPush
    | split
    | intro _

theorem kept_execInjectReport (h : Kept L s₀ s) (hL : [.regs, .pushes, .coll] ⊆ L) (page : Fin 256) (code : Fin 256) (cls : Fin 4)
    (e : execInjectReport page code cls s = .next t) : Kept L s₀ t := by
  unfold execInjectReport at e
  refine Kept.of_next ?_ e
  repeat' first
    | with_reducible assumption
    | exact List.Subset.trans (by decide) hL
    | with_reducible apply Kept.injectReport
    | split
    | intro _

theorem kept_execInjectCheckField (h : Kept L s₀ s) (hL : [.regs, .pushes, .chk] ⊆ L)
    (e : execInjectCheckField s = .next t) : Kept L s₀ t := by
  unfold execInjectCheckField at e
  refine Kept.of_next ?_ e
  repeat' first
    | with_reducible assumption
    | exact List.Subset.trans (by decide) hL
    | with_reducible apply Kept.injectCheckField
    | split
    | intro _

theorem kept_execInjectStall (h : Kept L s₀ s) (hL : [.regs, .pushes, .polders] ⊆ L) (polder : Fin 256)
    (e : execInjectStall polder s = .next t) : Kept L s₀ t := by
  unfold execInjectStall at e
  refine Kept.of_next ?_ e
  repeat' first
    | with_reducible assumption
    | exact List.Subset.trans (by decide) hL
    | with_reducible apply Kept.injectStall
    | split
    | intro _

theorem kept_execInjectCoreWrite (h : Kept L s₀ s) (hL : [.regs, .pushes, .sup] ⊆ L) (core : Fin 4)
    (e : execInjectCoreWrite core s = .next t) : Kept L s₀ t := by
  unfold execInjectCoreWrite at e
  refine Kept.of_next ?_ e
  repeat' first
    | with_reducible assumption
    | exact List.Subset.trans (by decide) hL
    | with_reducible apply Kept.injectCoreWrite
    | split
    | intro _

theorem kept_execInjectChannelFault (h : Kept L s₀ s) (hL : [.regs, .pushes, .coll, .guards, .chans, .stages] ⊆ L) (page : Fin 256) (softStill : Bool)
    (e : execInjectChannelFault page softStill s = .next t) : Kept L s₀ t := by
  unfold execInjectChannelFault at e
  refine Kept.of_next ?_ e
  repeat' first
    | with_reducible assumption
    | exact List.Subset.trans (by decide) hL
    | with_reducible apply Kept.injectChannel
    | split
    | intro _

theorem kept_execInjectFastPath (h : Kept L s₀ s) (hL : [.regs, .pushes, .coll, .guards, .chans, .stages, .sto] ⊆ L) (ch : Fin 16) (hard : Bool)
    (e : execInjectFastPath ch hard s = .next t) : Kept L s₀ t := by
  unfold execInjectFastPath at e
  refine Kept.of_next ?_ e
  repeat' first
    | with_reducible assumption
    | exact List.Subset.trans (by decide) hL
    | with_reducible apply Kept.injectFast
    | split
    | intro _

theorem kept_execInjectHeartbeatLoss (h : Kept L s₀ s) (hL : [.regs, .pushes, .wd] ⊆ L)
    (e : execInjectHeartbeatLoss s = .next t) : Kept L s₀ t := by
  unfold execInjectHeartbeatLoss at e
  refine Kept.of_next ?_ e
  repeat' first
    | with_reducible assumption
    | exact List.Subset.trans (by decide) hL
    | with_reducible apply Kept.injectHeartbeat
    | split
    | intro _

theorem kept_execInjectCrystalLoss (h : Kept L s₀ s) (hL : [.regs, .pushes, .tp] ⊆ L)
    (e : execInjectCrystalLoss s = .next t) : Kept L s₀ t := by
  unfold execInjectCrystalLoss at e
  refine Kept.of_next ?_ e
  repeat' first
    | with_reducible assumption
    | exact List.Subset.trans (by decide) hL
    | with_reducible apply Kept.injectCrystal
    | split
    | intro _

theorem kept_execCanFrameReceive (h : Kept L s₀ s) (hL : [.regs, .pushes, .mem, .chk, .fresh, .polders, .coll] ⊆ L) (can : Fin 3) (hdr : List Word) (data : List Byte) (age : Nat) (err : Nat)
    (e : execCanFrameReceive can hdr data age err s = .next t) : Kept L s₀ t := by
  unfold execCanFrameReceive at e
  refine Kept.of_next ?_ e
  repeat' first
    | with_reducible assumption
    | exact List.Subset.trans (by decide) hL
    | with_reducible apply Kept.canReceive
    | split
    | intro _

theorem kept_execCanFrameTransmit (h : Kept L s₀ s) (hL : [.regs, .pushes, .mem, .chk, .polders, .coll] ⊆ L) (can : Fin 3) (ok : Bool) (age : Nat) (tdc : Nat)
    (e : execCanFrameTransmit can ok age tdc s = .next t) : Kept L s₀ t := by
  unfold execCanFrameTransmit at e
  refine Kept.of_next ?_ e
  repeat' first
    | with_reducible assumption
    | exact List.Subset.trans (by decide) hL
    | with_reducible apply Kept.canTransmit
    | split
    | intro _

theorem kept_execCanBusoffRecoveryCmd (h : Kept L s₀ s) (hL : [.ifc] ⊆ L) (can : Fin 3)
    (e : execCanBusoffRecoveryCmd can s = .next t) : Kept L s₀ t := by
  unfold execCanBusoffRecoveryCmd at e
  refine Kept.of_next ?_ e
  repeat' first
    | with_reducible assumption
    | exact List.Subset.trans (by decide) hL
    | with_reducible apply Kept.canRecover
    | split
    | intro _

theorem kept_execCanBusoffRecovery (h : Kept L s₀ s) (hL : [.regs, .pushes, .coll, .ifc] ⊆ L) (can : Fin 3)
    (e : execCanBusoffRecovery can s = .next t) : Kept L s₀ t := by
  unfold execCanBusoffRecovery at e
  refine Kept.of_next ?_ e
  repeat' first
    | with_reducible assumption
    | exact List.Subset.trans (by decide) hL
    | with_reducible apply Kept.canRecovered
    | split
    | intro _

theorem kept_execEthFrameReceive (h : Kept L s₀ s) (hL : [.regs, .pushes, .mem, .chk, .polders, .coll] ⊆ L) (eth : Fin 2) (frame : List Byte) (age : Nat) (fcsErr : Bool)
    (e : execEthFrameReceive eth frame age fcsErr s = .next t) : Kept L s₀ t := by
  unfold execEthFrameReceive at e
  refine Kept.of_next ?_ e
  repeat' first
    | with_reducible assumption
    | exact List.Subset.trans (by decide) hL
    | with_reducible apply Kept.ethReceive
    | split
    | intro _

theorem kept_execEthFrameTransmit (h : Kept L s₀ s) (hL : [.regs, .pushes, .mem, .chk, .polders] ⊆ L) (eth : Fin 2) (ok : Bool) (age : Nat)
    (e : execEthFrameTransmit eth ok age s = .next t) : Kept L s₀ t := by
  unfold execEthFrameTransmit at e
  refine Kept.of_next ?_ e
  repeat' first
    | with_reducible assumption
    | exact List.Subset.trans (by decide) hL
    | with_reducible apply Kept.ethTransmit
    | split
    | intro _

theorem kept_execEthLinkLoss (h : Kept L s₀ s) (hL : [.regs, .pushes, .coll] ⊆ L) (eth : Fin 2) (plcaOnly : Bool)
    (e : execEthLinkLoss eth plcaOnly s = .next t) : Kept L s₀ t := by
  unfold execEthLinkLoss at e
  refine Kept.of_next ?_ e
  repeat' first
    | with_reducible assumption
    | exact List.Subset.trans (by decide) hL
    | with_reducible apply Kept.ethLinkLoss
    | split
    | intro _

theorem kept_execMdioAddress (h : Kept L s₀ s) (hL : [.regs, .pushes, .ifc] ⊆ L) (phy : Fin 32) (reg : Fin 32) (c45 : Bool) (data : Fin 65536)
    (e : execMdioAddress phy reg c45 data s = .next t) : Kept L s₀ t := by
  unfold execMdioAddress at e
  refine Kept.of_next ?_ e
  repeat' first
    | with_reducible assumption
    | exact List.Subset.trans (by decide) hL
    | with_reducible apply Kept.mdio
    | split
    | intro _

theorem kept_execMdioWrite (h : Kept L s₀ s) (hL : [.regs, .pushes, .ifc] ⊆ L) (phy : Fin 32) (reg : Fin 32) (c45 : Bool) (data : Fin 65536)
    (e : execMdioWrite phy reg c45 data s = .next t) : Kept L s₀ t := by
  unfold execMdioWrite at e
  refine Kept.of_next ?_ e
  repeat' first
    | with_reducible assumption
    | exact List.Subset.trans (by decide) hL
    | with_reducible apply Kept.mdio
    | split
    | intro _

theorem kept_execMdioRead (h : Kept L s₀ s) (hL : [.regs, .pushes, .ifc] ⊆ L) (phy : Fin 32) (reg : Fin 32) (c45 : Bool)
    (e : execMdioRead phy reg c45 s = .next t) : Kept L s₀ t := by
  unfold execMdioRead at e
  refine Kept.of_next ?_ e
  repeat' first
    | with_reducible assumption
    | exact List.Subset.trans (by decide) hL
    | with_reducible apply Kept.mdio
    | split
    | intro _

theorem kept_execMdioReadIncrement (h : Kept L s₀ s) (hL : [.regs, .pushes, .ifc] ⊆ L) (phy : Fin 32) (reg : Fin 32) (c45 : Bool)
    (e : execMdioReadIncrement phy reg c45 s = .next t) : Kept L s₀ t := by
  unfold execMdioReadIncrement at e
  refine Kept.of_next ?_ e
  repeat' first
    | with_reducible assumption
    | exact List.Subset.trans (by decide) hL
    | with_reducible apply Kept.mdio
    | split
    | intro _

theorem kept_execMdioComplete (h : Kept L s₀ s) (hL : [.regs, .pushes, .ifc] ⊆ L) (data : Fin 65536)
    (e : execMdioComplete data s = .next t) : Kept L s₀ t := by
  unfold execMdioComplete at e
  refine Kept.of_next ?_ e
  repeat' first
    | with_reducible assumption
    | exact List.Subset.trans (by decide) hL
    | with_reducible apply Kept.mdioComplete
    | split
    | intro _

theorem kept_execSentMessage (h : Kept L s₀ s) (hL : [.regs, .pushes, .mem, .chk, .polders, .coll, .engines, .loops, .trl, .guards, .ifc] ⊆ L) (ch : Fin 4) (cal : Nat) (status : Fin 16) (data : List Nat) (pauseOk : Bool) (crcOk : Bool) (age : Nat) (slow : Option (Nat × Nat))
    (e : execSentMessage ch cal status data pauseOk crcOk age slow s = .next t) : Kept L s₀ t := by
  unfold execSentMessage at e
  refine Kept.of_next ?_ e
  repeat' first
    | with_reducible assumption
    | exact List.Subset.trans (by decide) hL
    | with_reducible apply Kept.sentMessage
    | split
    | intro _

theorem kept_execSentTimeout (h : Kept L s₀ s) (hL : [.coll, .ifc] ⊆ L) (ch : Fin 4)
    (e : execSentTimeout ch s = .next t) : Kept L s₀ t := by
  unfold execSentTimeout at e
  refine Kept.of_next ?_ e
  repeat' first
    | with_reducible assumption
    | exact List.Subset.trans (by decide) hL
    | with_reducible apply Kept.sentTimeout
    | split
    | intro _

theorem kept_execPsi5SyncPulse (h : Kept L s₀ s) (hL : [.regs, .pushes, .polders, .ifc] ⊆ L) (psi : Fin 2)
    (e : execPsi5SyncPulse psi s = .next t) : Kept L s₀ t := by
  unfold execPsi5SyncPulse at e
  refine Kept.of_next ?_ e
  repeat' first
    | with_reducible assumption
    | exact List.Subset.trans (by decide) hL
    | with_reducible apply Kept.psiPulse
    | split
    | intro _

theorem kept_execPsi5Frame (h : Kept L s₀ s) (hL : [.regs, .pushes, .mem, .chk, .coll, .engines, .loops, .trl, .guards, .ifc] ⊆ L) (psi : Fin 2) (slot : Fin 4) (ok : Bool) (data : Nat) (age : Nat)
    (e : execPsi5Frame psi slot ok data age s = .next t) : Kept L s₀ t := by
  unfold execPsi5Frame at e
  refine Kept.of_next ?_ e
  repeat' first
    | with_reducible assumption
    | exact List.Subset.trans (by decide) hL
    | with_reducible apply Kept.psiFrame
    | split
    | intro _

theorem kept_execPsi5SlotMissing (h : Kept L s₀ s) (hL : [.coll, .ifc] ⊆ L) (psi : Fin 2) (slot : Fin 4)
    (e : execPsi5SlotMissing psi slot s = .next t) : Kept L s₀ t := by
  unfold execPsi5SlotMissing at e
  refine Kept.of_next ?_ e
  repeat' first
    | with_reducible assumption
    | exact List.Subset.trans (by decide) hL
    | with_reducible apply Kept.psiMissing
    | split
    | intro _

theorem kept_execRingHeadWrite (h : Kept L s₀ s) (hL : [.regs, .pushes] ⊆ L) (page : Fin 256) (off : Fin 4096) (idx : Fin 1024)
    (e : execRingHeadWrite page off idx s = .next t) : Kept L s₀ t := by
  unfold execRingHeadWrite at e
  refine Kept.of_next ?_ e
  repeat' first
    | with_reducible assumption
    | exact List.Subset.trans (by decide) hL
    | with_reducible apply Kept.ringIndexWrite
    | split
    | intro _

theorem kept_execSpiEntryStart (h : Kept L s₀ s) (hL : [.regs, .pushes, .mem, .chk, .fresh, .polders, .coll, .ifc] ⊆ L)
    (e : execSpiEntryStart s = .next t) : Kept L s₀ t := by
  unfold execSpiEntryStart at e
  refine Kept.of_next ?_ e
  repeat' first
    | with_reducible assumption
    | exact List.Subset.trans (by decide) hL
    | with_reducible apply Kept.spiStart
    | split
    | intro _

theorem kept_execSpiEntryComplete (h : Kept L s₀ s) (hL : [.regs, .pushes, .mem, .chk, .ifc] ⊆ L) (rx : List Byte)
    (e : execSpiEntryComplete rx s = .next t) : Kept L s₀ t := by
  unfold execSpiEntryComplete at e
  refine Kept.of_next ?_ e
  repeat' first
    | with_reducible assumption
    | exact List.Subset.trans (by decide) hL
    | with_reducible apply Kept.spiComplete
    | split
    | intro _

theorem kept_execGpioSet (h : Kept L s₀ s) (hL : [.regs, .pushes] ⊆ L) (bits : Word)
    (e : execGpioSet bits s = .next t) : Kept L s₀ t := by
  unfold execGpioSet at e
  refine Kept.of_next ?_ e
  repeat' first
    | with_reducible assumption
    | exact List.Subset.trans (by decide) hL
    | with_reducible apply Kept.gpioSetClear
    | split
    | intro _

theorem kept_execGpioClear (h : Kept L s₀ s) (hL : [.regs, .pushes] ⊆ L) (bits : Word)
    (e : execGpioClear bits s = .next t) : Kept L s₀ t := by
  unfold execGpioClear at e
  refine Kept.of_next ?_ e
  repeat' first
    | with_reducible assumption
    | exact List.Subset.trans (by decide) hL
    | with_reducible apply Kept.gpioSetClear
    | split
    | intro _

theorem kept_execGpioEdge (h : Kept L s₀ s) (hL : [.regs, .pushes, .ifc] ⊆ L) (pin : Fin 32) (high : Bool)
    (e : execGpioEdge pin high s = .next t) : Kept L s₀ t := by
  unfold execGpioEdge at e
  refine Kept.of_next ?_ e
  repeat' first
    | with_reducible assumption
    | exact List.Subset.trans (by decide) hL
    | with_reducible apply Kept.gpioEdge
    | split
    | intro _

theorem kept_execEthLinkUp (h : Kept L s₀ s) (hL : [.regs, .pushes] ⊆ L) (eth : Fin 2) (plca : Bool) (speed : Fin 4)
    (e : execEthLinkUp eth plca speed s = .next t) : Kept L s₀ t := by
  unfold execEthLinkUp at e
  refine Kept.of_next ?_ e
  repeat' first
    | with_reducible assumption
    | exact List.Subset.trans (by decide) hL
    | with_reducible apply Kept.ethLinkUp
    | split
    | intro _

theorem kept_execExit (h : Kept L s₀ s) (hL : [.regs, .pushes, .mem, .chk, .polders, .coll, .engines, .loops, .trl] ⊆ L) (e : Fin 16)
    (e : execExit e s = .next t) : Kept L s₀ t := by
  unfold execExit at e
  refine Kept.of_next ?_ e
  repeat' first
    | with_reducible assumption
    | exact List.Subset.trans (by decide) hL
    | with_reducible apply Kept.loopExit
    | split
    | intro _

theorem kept_execTrap (h : Kept L s₀ s) (hL : [.regs, .pushes, .mem, .chk, .polders, .coll, .engines, .loops, .trl] ⊆ L) (e : Fin 16) (code : Fin 256)
    (e : execTrap e code s = .next t) : Kept L s₀ t := by
  unfold execTrap at e
  refine Kept.of_next ?_ e
  repeat' first
    | with_reducible assumption
    | exact List.Subset.trans (by decide) hL
    | with_reducible apply Kept.loopTrap
    | split
    | intro _

theorem kept_execBr (h : Kept L s₀ s) (hL : [.regs, .pushes, .mem, .chk, .polders, .coll, .engines, .loops, .trl] ⊆ L) (e : Fin 16) (off : Int)
    (e : execBr e off s = .next t) : Kept L s₀ t := by
  unfold execBr at e
  refine Kept.of_next ?_ e
  repeat' first
    | with_reducible assumption
    | exact List.Subset.trans (by decide) hL
    | with_reducible apply Kept.branch
    | split
    | intro _

theorem kept_execBrc (h : Kept L s₀ s) (hL : [.regs, .pushes, .mem, .chk, .polders, .coll, .engines, .loops, .trl] ⊆ L) (e : Fin 16) (cond : Fin 16) (off : Int)
    (e : execBrc e cond off s = .next t) : Kept L s₀ t := by
  unfold execBrc at e
  refine Kept.of_next ?_ e
  repeat' first
    | with_reducible assumption
    | exact List.Subset.trans (by decide) hL
    | with_reducible apply Kept.branch
    | split
    | intro _

theorem kept_execCmp (h : Kept L s₀ s) (hL : [.regs, .pushes, .mem, .chk, .polders, .coll, .engines, .loops, .trl] ⊆ L) (e : Fin 16) (qa : Fin 64) (qb : Fin 64) (fn : Fin 3)
    (e : execCmp e qa qb fn s = .next t) : Kept L s₀ t := by
  unfold execCmp at e
  refine Kept.of_next ?_ e
  repeat' first
    | with_reducible assumption
    | exact List.Subset.trans (by decide) hL
    | with_reducible apply Kept.compute
    | split
    | intro _

theorem kept_execMov (h : Kept L s₀ s) (hL : [.regs, .pushes, .mem, .chk, .polders, .coll, .engines, .loops, .trl] ⊆ L) (e : Fin 16) (qd : Fin 64) (qa : Fin 64)
    (e : execMov e qd qa s = .next t) : Kept L s₀ t := by
  unfold execMov at e
  refine Kept.of_next ?_ e
  repeat' first
    | with_reducible assumption
    | exact List.Subset.trans (by decide) hL
    | with_reducible apply Kept.compute
    | split
    | intro _

theorem kept_execMovl (h : Kept L s₀ s) (hL : [.regs, .pushes, .mem, .chk, .polders, .coll, .engines, .loops, .trl] ⊆ L) (e : Fin 16) (qd : Fin 64) (imm : BitVec 16)
    (e : execMovl e qd imm s = .next t) : Kept L s₀ t := by
  unfold execMovl at e
  refine Kept.of_next ?_ e
  repeat' first
    | with_reducible assumption
    | exact List.Subset.trans (by decide) hL
    | with_reducible apply Kept.compute
    | split
    | intro _

theorem kept_execMovh (h : Kept L s₀ s) (hL : [.regs, .pushes, .mem, .chk, .polders, .coll, .engines, .loops, .trl] ⊆ L) (e : Fin 16) (qd : Fin 64) (imm : BitVec 16)
    (e : execMovh e qd imm s = .next t) : Kept L s₀ t := by
  unfold execMovh at e
  refine Kept.of_next ?_ e
  repeat' first
    | with_reducible assumption
    | exact List.Subset.trans (by decide) hL
    | with_reducible apply Kept.compute
    | split
    | intro _

theorem kept_execLds (h : Kept L s₀ s) (hL : [.regs, .pushes, .mem, .chk, .polders, .coll, .engines, .loops, .trl] ⊆ L) (e : Fin 16) (q : Fin 64) (qa : Fin 64) (off : Fin 8192) (x : Bool)
    (e : execLds e q qa off x s = .next t) : Kept L s₀ t := by
  unfold execLds at e
  refine Kept.of_next ?_ e
  repeat' first
    | with_reducible assumption
    | exact List.Subset.trans (by decide) hL
    | with_reducible apply Kept.loadState
    | split
    | intro _

theorem kept_execSts (h : Kept L s₀ s) (hL : [.regs, .pushes, .mem, .chk, .polders, .coll, .engines, .loops, .trl] ⊆ L) (e : Fin 16) (q : Fin 64) (qa : Fin 64) (off : Fin 8192) (x : Bool)
    (e : execSts e q qa off x s = .next t) : Kept L s₀ t := by
  unfold execSts at e
  refine Kept.of_next ?_ e
  repeat' first
    | with_reducible assumption
    | exact List.Subset.trans (by decide) hL
    | with_reducible apply Kept.storeState
    | split
    | intro _

theorem kept_execIns (h : Kept L s₀ s) (hL : [.regs, .pushes, .mem, .chk, .polders, .coll, .engines, .loops, .trl] ⊆ L) (e : Fin 16) (q : Fin 64) (qx : Fin 64) (h : Fin 16)
    (e : execIns e q qx h s = .next t) : Kept L s₀ t := by
  unfold execIns at e
  refine Kept.of_next ?_ e
  repeat' first
    | with_reducible assumption
    | exact List.Subset.trans (by decide) hL
    | with_reducible apply Kept.ins
    | split
    | intro _

theorem kept_execOuts (h : Kept L s₀ s) (hL : [.regs, .pushes, .mem, .chk, .polders, .coll, .engines, .loops, .trl, .guards, .chans, .stages] ⊆ L) (e : Fin 16) (q : Fin 64) (qx : Fin 64) (h : Fin 16) (asInt : Bool)
    (e : execOuts e q qx h asInt s = .next t) : Kept L s₀ t := by
  unfold execOuts at e
  refine Kept.of_next ?_ e
  repeat' first
    | with_reducible assumption
    | exact List.Subset.trans (by decide) hL
    | with_reducible apply Kept.outs
    | split
    | intro _

theorem kept_execStamp (h : Kept L s₀ s) (hL : [.regs, .pushes, .mem, .chk, .polders, .coll, .engines, .loops, .trl] ⊆ L) (e : Fin 16) (qd : Fin 64) (qa : Fin 64) (fn : Fin 4)
    (e : execStamp e qd qa fn s = .next t) : Kept L s₀ t := by
  unfold execStamp at e
  refine Kept.of_next ?_ e
  repeat' first
    | with_reducible assumption
    | exact List.Subset.trans (by decide) hL
    | with_reducible apply Kept.stampTo
    | split
    | intro _

theorem kept_execFadd (h : Kept L s₀ s) (hL : [.regs, .pushes, .mem, .chk, .polders, .coll, .engines, .loops, .trl] ⊆ L) (e : Fin 16) (qd : Fin 64) (qa : Fin 64) (qb : Fin 64)
    (e : execFadd e qd qa qb s = .next t) : Kept L s₀ t := by
  unfold execFadd at e
  refine Kept.of_next ?_ e
  repeat' first
    | with_reducible assumption
    | exact List.Subset.trans (by decide) hL
    | with_reducible apply Kept.compute
    | split
    | intro _

theorem kept_execFsub (h : Kept L s₀ s) (hL : [.regs, .pushes, .mem, .chk, .polders, .coll, .engines, .loops, .trl] ⊆ L) (e : Fin 16) (qd : Fin 64) (qa : Fin 64) (qb : Fin 64)
    (e : execFsub e qd qa qb s = .next t) : Kept L s₀ t := by
  unfold execFsub at e
  refine Kept.of_next ?_ e
  repeat' first
    | with_reducible assumption
    | exact List.Subset.trans (by decide) hL
    | with_reducible apply Kept.compute
    | split
    | intro _

theorem kept_execFmul (h : Kept L s₀ s) (hL : [.regs, .pushes, .mem, .chk, .polders, .coll, .engines, .loops, .trl] ⊆ L) (e : Fin 16) (qd : Fin 64) (qa : Fin 64) (qb : Fin 64)
    (e : execFmul e qd qa qb s = .next t) : Kept L s₀ t := by
  unfold execFmul at e
  refine Kept.of_next ?_ e
  repeat' first
    | with_reducible assumption
    | exact List.Subset.trans (by decide) hL
    | with_reducible apply Kept.compute
    | split
    | intro _

theorem kept_execFdiv (h : Kept L s₀ s) (hL : [.regs, .pushes, .mem, .chk, .polders, .coll, .engines, .loops, .trl] ⊆ L) (e : Fin 16) (qd : Fin 64) (qa : Fin 64) (qb : Fin 64)
    (e : execFdiv e qd qa qb s = .next t) : Kept L s₀ t := by
  unfold execFdiv at e
  refine Kept.of_next ?_ e
  repeat' first
    | with_reducible assumption
    | exact List.Subset.trans (by decide) hL
    | with_reducible apply Kept.compute
    | split
    | intro _

theorem kept_execFsqrt (h : Kept L s₀ s) (hL : [.regs, .pushes, .mem, .chk, .polders, .coll, .engines, .loops, .trl] ⊆ L) (e : Fin 16) (qd : Fin 64) (qa : Fin 64)
    (e : execFsqrt e qd qa s = .next t) : Kept L s₀ t := by
  unfold execFsqrt at e
  refine Kept.of_next ?_ e
  repeat' first
    | with_reducible assumption
    | exact List.Subset.trans (by decide) hL
    | with_reducible apply Kept.compute
    | split
    | intro _

theorem kept_execFabs (h : Kept L s₀ s) (hL : [.regs, .pushes, .mem, .chk, .polders, .coll, .engines, .loops, .trl] ⊆ L) (e : Fin 16) (qd : Fin 64) (qa : Fin 64)
    (e : execFabs e qd qa s = .next t) : Kept L s₀ t := by
  unfold execFabs at e
  refine Kept.of_next ?_ e
  repeat' first
    | with_reducible assumption
    | exact List.Subset.trans (by decide) hL
    | with_reducible apply Kept.compute
    | split
    | intro _

theorem kept_execFneg (h : Kept L s₀ s) (hL : [.regs, .pushes, .mem, .chk, .polders, .coll, .engines, .loops, .trl] ⊆ L) (e : Fin 16) (qd : Fin 64) (qa : Fin 64)
    (e : execFneg e qd qa s = .next t) : Kept L s₀ t := by
  unfold execFneg at e
  refine Kept.of_next ?_ e
  repeat' first
    | with_reducible assumption
    | exact List.Subset.trans (by decide) hL
    | with_reducible apply Kept.compute
    | split
    | intro _

theorem kept_execFmin (h : Kept L s₀ s) (hL : [.regs, .pushes, .mem, .chk, .polders, .coll, .engines, .loops, .trl] ⊆ L) (e : Fin 16) (qd : Fin 64) (qa : Fin 64) (qb : Fin 64)
    (e : execFmin e qd qa qb s = .next t) : Kept L s₀ t := by
  unfold execFmin at e
  refine Kept.of_next ?_ e
  repeat' first
    | with_reducible assumption
    | exact List.Subset.trans (by decide) hL
    | with_reducible apply Kept.compute
    | split
    | intro _

theorem kept_execFmax (h : Kept L s₀ s) (hL : [.regs, .pushes, .mem, .chk, .polders, .coll, .engines, .loops, .trl] ⊆ L) (e : Fin 16) (qd : Fin 64) (qa : Fin 64) (qb : Fin 64)
    (e : execFmax e qd qa qb s = .next t) : Kept L s₀ t := by
  unfold execFmax at e
  refine Kept.of_next ?_ e
  repeat' first
    | with_reducible assumption
    | exact List.Subset.trans (by decide) hL
    | with_reducible apply Kept.compute
    | split
    | intro _

theorem kept_execFclamp (h : Kept L s₀ s) (hL : [.regs, .pushes, .mem, .chk, .polders, .coll, .engines, .loops, .trl] ⊆ L) (e : Fin 16) (qd : Fin 64) (qa : Fin 64) (qb : Fin 64) (qc : Fin 64)
    (e : execFclamp e qd qa qb qc s = .next t) : Kept L s₀ t := by
  unfold execFclamp at e
  refine Kept.of_next ?_ e
  repeat' first
    | with_reducible assumption
    | exact List.Subset.trans (by decide) hL
    | with_reducible apply Kept.compute
    | split
    | intro _

theorem kept_execFma (h : Kept L s₀ s) (hL : [.regs, .pushes, .mem, .chk, .polders, .coll, .engines, .loops, .trl] ⊆ L) (e : Fin 16) (qd : Fin 64) (qa : Fin 64) (qb : Fin 64) (qc : Fin 64)
    (e : execFma e qd qa qb qc s = .next t) : Kept L s₀ t := by
  unfold execFma at e
  refine Kept.of_next ?_ e
  repeat' first
    | with_reducible assumption
    | exact List.Subset.trans (by decide) hL
    | with_reducible apply Kept.compute
    | split
    | intro _

theorem kept_execFnma (h : Kept L s₀ s) (hL : [.regs, .pushes, .mem, .chk, .polders, .coll, .engines, .loops, .trl] ⊆ L) (e : Fin 16) (qd : Fin 64) (qa : Fin 64) (qb : Fin 64) (qc : Fin 64)
    (e : execFnma e qd qa qb qc s = .next t) : Kept L s₀ t := by
  unfold execFnma at e
  refine Kept.of_next ?_ e
  repeat' first
    | with_reducible assumption
    | exact List.Subset.trans (by decide) hL
    | with_reducible apply Kept.compute
    | split
    | intro _

theorem kept_execCvt (h : Kept L s₀ s) (hL : [.regs, .pushes, .mem, .chk, .polders, .coll, .engines, .loops, .trl] ⊆ L) (e : Fin 16) (qd : Fin 64) (qa : Fin 64) (fn : Fin 3)
    (e : execCvt e qd qa fn s = .next t) : Kept L s₀ t := by
  unfold execCvt at e
  refine Kept.of_next ?_ e
  repeat' first
    | with_reducible assumption
    | exact List.Subset.trans (by decide) hL
    | with_reducible apply Kept.compute
    | split
    | intro _

theorem kept_execAdd (h : Kept L s₀ s) (hL : [.regs, .pushes, .mem, .chk, .polders, .coll, .engines, .loops, .trl] ⊆ L) (e : Fin 16) (qd : Fin 64) (qa : Fin 64) (qb : Fin 64)
    (e : execAdd e qd qa qb s = .next t) : Kept L s₀ t := by
  unfold execAdd at e
  refine Kept.of_next ?_ e
  repeat' first
    | with_reducible assumption
    | exact List.Subset.trans (by decide) hL
    | with_reducible apply Kept.compute
    | split
    | intro _

theorem kept_execSub (h : Kept L s₀ s) (hL : [.regs, .pushes, .mem, .chk, .polders, .coll, .engines, .loops, .trl] ⊆ L) (e : Fin 16) (qd : Fin 64) (qa : Fin 64) (qb : Fin 64)
    (e : execSub e qd qa qb s = .next t) : Kept L s₀ t := by
  unfold execSub at e
  refine Kept.of_next ?_ e
  repeat' first
    | with_reducible assumption
    | exact List.Subset.trans (by decide) hL
    | with_reducible apply Kept.compute
    | split
    | intro _

theorem kept_execAnd (h : Kept L s₀ s) (hL : [.regs, .pushes, .mem, .chk, .polders, .coll, .engines, .loops, .trl] ⊆ L) (e : Fin 16) (qd : Fin 64) (qa : Fin 64) (qb : Fin 64)
    (e : execAnd e qd qa qb s = .next t) : Kept L s₀ t := by
  unfold execAnd at e
  refine Kept.of_next ?_ e
  repeat' first
    | with_reducible assumption
    | exact List.Subset.trans (by decide) hL
    | with_reducible apply Kept.compute
    | split
    | intro _

theorem kept_execOr (h : Kept L s₀ s) (hL : [.regs, .pushes, .mem, .chk, .polders, .coll, .engines, .loops, .trl] ⊆ L) (e : Fin 16) (qd : Fin 64) (qa : Fin 64) (qb : Fin 64)
    (e : execOr e qd qa qb s = .next t) : Kept L s₀ t := by
  unfold execOr at e
  refine Kept.of_next ?_ e
  repeat' first
    | with_reducible assumption
    | exact List.Subset.trans (by decide) hL
    | with_reducible apply Kept.compute
    | split
    | intro _

theorem kept_execXor (h : Kept L s₀ s) (hL : [.regs, .pushes, .mem, .chk, .polders, .coll, .engines, .loops, .trl] ⊆ L) (e : Fin 16) (qd : Fin 64) (qa : Fin 64) (qb : Fin 64)
    (e : execXor e qd qa qb s = .next t) : Kept L s₀ t := by
  unfold execXor at e
  refine Kept.of_next ?_ e
  repeat' first
    | with_reducible assumption
    | exact List.Subset.trans (by decide) hL
    | with_reducible apply Kept.compute
    | split
    | intro _

theorem kept_execShl (h : Kept L s₀ s) (hL : [.regs, .pushes, .mem, .chk, .polders, .coll, .engines, .loops, .trl] ⊆ L) (e : Fin 16) (qd : Fin 64) (qa : Fin 64) (qb : Fin 64)
    (e : execShl e qd qa qb s = .next t) : Kept L s₀ t := by
  unfold execShl at e
  refine Kept.of_next ?_ e
  repeat' first
    | with_reducible assumption
    | exact List.Subset.trans (by decide) hL
    | with_reducible apply Kept.compute
    | split
    | intro _

theorem kept_execShr (h : Kept L s₀ s) (hL : [.regs, .pushes, .mem, .chk, .polders, .coll, .engines, .loops, .trl] ⊆ L) (e : Fin 16) (qd : Fin 64) (qa : Fin 64) (qb : Fin 64) (fn : Fin 2)
    (e : execShr e qd qa qb fn s = .next t) : Kept L s₀ t := by
  unfold execShr at e
  refine Kept.of_next ?_ e
  repeat' first
    | with_reducible assumption
    | exact List.Subset.trans (by decide) hL
    | with_reducible apply Kept.compute
    | split
    | intro _

theorem kept_execSincos (h : Kept L s₀ s) (hL : [.regs, .pushes, .mem, .chk, .fresh, .polders, .coll, .engines, .loops, .trl] ⊆ L) (e : Fin 16) (qd : Fin 64) (qa : Fin 64)
    (e : execSincos e qd qa s = .next t) : Kept L s₀ t := by
  unfold execSincos at e
  refine Kept.of_next ?_ e
  repeat' first
    | with_reducible assumption
    | exact List.Subset.trans (by decide) hL
    | with_reducible apply Kept.sincos
    | split
    | intro _

theorem kept_execAtan2 (h : Kept L s₀ s) (hL : [.regs, .pushes, .mem, .chk, .fresh, .polders, .coll, .engines, .loops, .trl] ⊆ L) (e : Fin 16) (qd : Fin 64) (qa : Fin 64) (qb : Fin 64)
    (e : execAtan2 e qd qa qb s = .next t) : Kept L s₀ t := by
  unfold execAtan2 at e
  refine Kept.of_next ?_ e
  repeat' first
    | with_reducible assumption
    | exact List.Subset.trans (by decide) hL
    | with_reducible apply Kept.atan2To
    | split
    | intro _

theorem kept_execClarke (h : Kept L s₀ s) (hL : [.regs, .pushes, .mem, .chk, .polders, .coll, .engines, .loops, .trl] ⊆ L) (e : Fin 16) (qd : Fin 64) (qa : Fin 64) (qb : Fin 64) (qc : Fin 64) (fn : Fin 2)
    (e : execClarke e qd qa qb qc fn s = .next t) : Kept L s₀ t := by
  unfold execClarke at e
  refine Kept.of_next ?_ e
  repeat' first
    | with_reducible assumption
    | exact List.Subset.trans (by decide) hL
    | with_reducible apply Kept.compute
    | split
    | intro _

theorem kept_execPark (h : Kept L s₀ s) (hL : [.regs, .pushes, .mem, .chk, .fresh, .polders, .coll, .engines, .loops, .trl] ⊆ L) (e : Fin 16) (qd : Fin 64) (qa : Fin 64) (qb : Fin 64) (qc : Fin 64) (fn : Fin 2)
    (e : execPark e qd qa qb qc fn s = .next t) : Kept L s₀ t := by
  unfold execPark at e
  refine Kept.of_next ?_ e
  repeat' first
    | with_reducible assumption
    | exact List.Subset.trans (by decide) hL
    | with_reducible apply Kept.rotateTo
    | split
    | intro _

theorem kept_execIpark (h : Kept L s₀ s) (hL : [.regs, .pushes, .mem, .chk, .fresh, .polders, .coll, .engines, .loops, .trl] ⊆ L) (e : Fin 16) (qd : Fin 64) (qa : Fin 64) (qb : Fin 64) (qc : Fin 64) (fn : Fin 2)
    (e : execIpark e qd qa qb qc fn s = .next t) : Kept L s₀ t := by
  unfold execIpark at e
  refine Kept.of_next ?_ e
  repeat' first
    | with_reducible assumption
    | exact List.Subset.trans (by decide) hL
    | with_reducible apply Kept.rotateTo
    | split
    | intro _

theorem kept_execSvm (h : Kept L s₀ s) (hL : [.regs, .pushes, .mem, .chk, .polders, .coll, .engines, .loops, .trl] ⊆ L) (e : Fin 16) (qd : Fin 64) (qa : Fin 64) (qb : Fin 64) (qc : Fin 64) (fn : Fin 2)
    (e : execSvm e qd qa qb qc fn s = .next t) : Kept L s₀ t := by
  unfold execSvm at e
  refine Kept.of_next ?_ e
  repeat' first
    | with_reducible assumption
    | exact List.Subset.trans (by decide) hL
    | with_reducible apply Kept.compute
    | split
    | intro _

theorem kept_execPi (h : Kept L s₀ s) (hL : [.regs, .pushes, .mem, .chk, .polders, .coll, .engines, .loops, .trl] ⊆ L) (e : Fin 16) (qd : Fin 64) (qa : Fin 64) (qb : Fin 64) (rec_ : Fin 256)
    (e : execPi e qd qa qb rec_ s = .next t) : Kept L s₀ t := by
  unfold execPi at e
  refine Kept.of_next ?_ e
  repeat' first
    | with_reducible assumption
    | exact List.Subset.trans (by decide) hL
    | with_reducible apply Kept.pi
    | split
    | intro _

theorem kept_execRlim (h : Kept L s₀ s) (hL : [.regs, .pushes, .mem, .chk, .polders, .coll, .engines, .loops, .trl] ⊆ L) (e : Fin 16) (qd : Fin 64) (qa : Fin 64) (rec_ : Fin 256)
    (e : execRlim e qd qa rec_ s = .next t) : Kept L s₀ t := by
  unfold execRlim at e
  refine Kept.of_next ?_ e
  repeat' first
    | with_reducible assumption
    | exact List.Subset.trans (by decide) hL
    | with_reducible apply Kept.block
    | split
    | intro _

theorem kept_execLpf1 (h : Kept L s₀ s) (hL : [.regs, .pushes, .mem, .chk, .polders, .coll, .engines, .loops, .trl] ⊆ L) (e : Fin 16) (qd : Fin 64) (qa : Fin 64) (rec_ : Fin 256)
    (e : execLpf1 e qd qa rec_ s = .next t) : Kept L s₀ t := by
  unfold execLpf1 at e
  refine Kept.of_next ?_ e
  repeat' first
    | with_reducible assumption
    | exact List.Subset.trans (by decide) hL
    | with_reducible apply Kept.block
    | split
    | intro _

theorem kept_execMinsel (h : Kept L s₀ s) (hL : [.regs, .pushes, .mem, .chk, .polders, .coll, .engines, .loops, .trl] ⊆ L) (e : Fin 16) (qd : Fin 64) (qa : Fin 64) (qb : Fin 64) (rec_ : Fin 256)
    (e : execMinsel e qd qa qb rec_ s = .next t) : Kept L s₀ t := by
  unfold execMinsel at e
  refine Kept.of_next ?_ e
  repeat' first
    | with_reducible assumption
    | exact List.Subset.trans (by decide) hL
    | with_reducible apply Kept.minsel
    | split
    | intro _

theorem kept_execRateWindowEnd (h : Kept L s₀ s) (hL : [.regs, .pushes, .engines, .trl] ⊆ L) (engine : Fin 16) (ticks : Nat)
    (e : execRateWindowEnd engine ticks s = .next t) : Kept L s₀ t := by
  unfold execRateWindowEnd at e
  refine Kept.of_next ?_ e
  repeat' first
    | with_reducible assumption
    | exact List.Subset.trans (by decide) hL
    | with_reducible apply Kept.rateWindowEnd
    | split
    | intro _

theorem kept_execRateProbe (h : Kept L s₀ s) (hL : [.engines] ⊆ L) (engine : Fin 16) (ops : Nat) (ticks : Nat)
    (e : execRateProbe engine ops ticks s = .next t) : Kept L s₀ t := by
  unfold execRateProbe at e
  refine Kept.of_next ?_ e
  repeat' first
    | with_reducible assumption
    | exact List.Subset.trans (by decide) hL
    | with_reducible apply Kept.rateProbe
    | split
    | intro _

theorem kept_execTriggerStageEvent (h : Kept L s₀ s) (hL : [.regs, .pushes, .coll, .engines, .loops, .trl, .guards] ⊆ L) (stage : Fin 10) (event : Fin 4)
    (e : execTriggerStageEvent stage event s = .next t) : Kept L s₀ t := by
  unfold execTriggerStageEvent at e
  refine Kept.of_next ?_ e
  repeat' first
    | with_reducible assumption
    | exact List.Subset.trans (by decide) hL
    | with_reducible apply Kept.fireStageEvent
    | split
    | intro _

theorem kept_execTriggerPeriodic (h : Kept L s₀ s) (hL : [.regs, .pushes, .coll, .engines, .loops, .trl, .guards] ⊆ L)
    (e : execTriggerPeriodic s = .next t) : Kept L s₀ t := by
  unfold execTriggerPeriodic at e
  refine Kept.of_next ?_ e
  repeat' first
    | with_reducible assumption
    | exact List.Subset.trans (by decide) hL
    | with_reducible apply Kept.firePeriodic
    | split
    | intro _

theorem kept_execKick (h : Kept L s₀ s) (hL : [.regs, .pushes, .coll, .engines, .loops, .trl, .guards] ⊆ L) (loop : Nat)
    (e : execKick loop s = .next t) : Kept L s₀ t := by
  unfold execKick at e
  refine Kept.of_next ?_ e
  repeat' first
    | with_reducible assumption
    | exact List.Subset.trans (by decide) hL
    | with_reducible apply Kept.kick
    | split
    | intro _

theorem kept_execRunDispatch (h : Kept L s₀ s) (hL : [.engines] ⊆ L) (engine : Fin 16)
    (e : execRunDispatch engine s = .next t) : Kept L s₀ t := by
  unfold execRunDispatch at e
  refine Kept.of_next ?_ e
  repeat' first
    | with_reducible assumption
    | exact List.Subset.trans (by decide) hL
    | with_reducible apply Kept.dispatch
    | split
    | intro _

theorem kept_execRunDeadlinePassed (h : Kept L s₀ s) (hL : [.regs, .pushes, .coll, .loops] ⊆ L) (loop : Fin 64)
    (e : execRunDeadlinePassed loop s = .next t) : Kept L s₀ t := by
  unfold execRunDeadlinePassed at e
  refine Kept.of_next ?_ e
  repeat' first
    | with_reducible assumption
    | exact List.Subset.trans (by decide) hL
    | with_reducible apply Kept.deadlinePassed
    | split
    | intro _

theorem kept_execLocalMemoryWrite (h : Kept L s₀ s) (hL : [.mem, .chk, .coll, .loops] ⊆ L) (engine : Fin 16) (addr : Fin 131072) (data : Word)
    (e : execLocalMemoryWrite engine addr data s = .next t) : Kept L s₀ t := by
  unfold execLocalMemoryWrite at e
  refine Kept.of_next ?_ e
  repeat' first
    | with_reducible assumption
    | exact List.Subset.trans (by decide) hL
    | with_reducible apply Kept.localWrite
    | split
    | intro _

theorem kept_execSlotWrite (h : Kept L s₀ s) (hL : [.regs, .pushes, .mem, .chk, .coll, .engines, .loops, .trl, .guards] ⊆ L) (writer : Fin 6) (slot : Fin 1024) (word : Fin 4) (data : Word)
    (e : execSlotWrite writer slot word data s = .next t) : Kept L s₀ t := by
  unfold execSlotWrite at e
  refine Kept.of_next ?_ e
  repeat' first
    | with_reducible assumption
    | exact List.Subset.trans (by decide) hL
    | with_reducible apply Kept.slotWrite
    | split
    | intro _

theorem kept_execSlotValueRead (h : Kept L s₀ s) (hL : [.regs, .pushes, .chk, .coll, .slotShadows, .answer] ⊆ L) (port : Fin 8) (slot : Fin 1024)
    (e : execSlotValueRead port slot s = .next t) : Kept L s₀ t := by
  unfold execSlotValueRead at e
  refine Kept.of_next ?_ e
  repeat' first
    | with_reducible assumption
    | exact List.Subset.trans (by decide) hL
    | with_reducible apply Kept.slotRead
    | split
    | intro _

theorem kept_execDelayPeakClear (h : Kept L s₀ s) (hL : [.loops] ⊆ L) (loop : Fin 64)
    (e : execDelayPeakClear loop s = .next t) : Kept L s₀ t := by
  unfold execDelayPeakClear at e
  refine Kept.of_next ?_ e
  repeat' first
    | with_reducible assumption
    | exact List.Subset.trans (by decide) hL
    | with_reducible apply Kept.clearPeak
    | split
    | intro _

theorem kept_execCoreMemoryAccess (h : Kept L s₀ s) (hL : [.regs, .staged, .marks, .pushes, .ledger, .mem, .chk, .fresh, .polders, .drainQ, .coll, .tp, .hif, .commit, .engines, .loops, .slotShadows, .sup, .trl, .guards, .chans, .stages, .pilot, .samples, .waitingSeqs, .convs, .tdac, .sdFrom, .resolvers, .enc, .ifc, .syn, .sec, .dbg, .pwr, .sto, .wd, .answer] ⊆ L) (master : Master) (write : Bool) (addr : BitVec 32) (size : Nat) (data : Word) (bad : List Nat) (mram : List (Nat × Nat))
    (e : execCoreMemoryAccess master write addr size data bad mram s = .next t) : Kept L s₀ t := by
  unfold execCoreMemoryAccess at e
  refine Kept.of_settle ?_ e
  repeat' first
    | with_reducible assumption
    | exact List.Subset.trans (by decide) hL
    | exact OptAll.none
    | with_reducible apply OptAll.some
    | with_reducible apply Kept.coreAccess
    | split
    | intro _

theorem kept_execScrubStep (h : Kept L s₀ s) (hL : [.regs, .pushes, .mem, .chk, .polders, .coll, .engines, .loops, .sup, .trl, .guards, .chans, .stages, .sto] ⊆ L) (addr : BitVec 32) (bad : List Nat)
    (e : execScrubStep addr bad s = .next t) : Kept L s₀ t := by
  unfold execScrubStep at e
  refine Kept.of_next ?_ e
  repeat' first
    | with_reducible assumption
    | exact List.Subset.trans (by decide) hL
    | with_reducible apply Kept.scrubStep
    | split
    | intro _

theorem kept_execMramScrubStep (h : Kept L s₀ s) (hL : [.regs, .pushes, .chk, .coll] ⊆ L) (addr : BitVec 32) (errors : List (Nat × Nat))
    (e : execMramScrubStep addr errors s = .next t) : Kept L s₀ t := by
  unfold execMramScrubStep at e
  refine Kept.of_next ?_ e
  repeat' first
    | with_reducible assumption
    | exact List.Subset.trans (by decide) hL
    | with_reducible apply Kept.mramScrubStep
    | split
    | intro _

theorem kept_execMramWrite (h : Kept L s₀ s) (hL : [.mem, .chk, .coll] ⊆ L) (voted : Bool) (addr : BitVec 32) (bytes : List Byte)
    (e : execMramWrite voted addr bytes s = .next t) : Kept L s₀ t := by
  unfold execMramWrite at e
  refine Kept.of_next ?_ e
  repeat' first
    | with_reducible assumption
    | exact List.Subset.trans (by decide) hL
    | with_reducible apply Kept.mramWrite
    | split
    | intro _

theorem kept_execMramUpdateOpen (h : Kept L s₀ s) (hL : [.regs, .pushes] ⊆ L)
    (e : execMramUpdateOpen s = .next t) : Kept L s₀ t := by
  unfold execMramUpdateOpen at e
  refine Kept.of_next ?_ e
  repeat' first
    | with_reducible assumption
    | exact List.Subset.trans (by decide) hL
    | with_reducible apply Kept.openUpdate
    | split
    | intro _

theorem kept_execMramUpdateClose (h : Kept L s₀ s) (hL : [.regs, .pushes, .sec] ⊆ L)
    (e : execMramUpdateClose s = .next t) : Kept L s₀ t := by
  unfold execMramUpdateClose at e
  refine Kept.of_next ?_ e
  repeat' first
    | with_reducible assumption
    | exact List.Subset.trans (by decide) hL
    | with_reducible apply Kept.closeUpdate
    | split
    | intro _

theorem kept_execOriginLoadComplete (h : Kept L s₀ s) (hL : [.regs, .pushes, .mem, .chk] ⊆ L) (entry : Fin 16)
    (e : execOriginLoadComplete entry s = .next t) : Kept L s₀ t := by
  unfold execOriginLoadComplete at e
  refine Kept.of_next ?_ e
  repeat' first
    | with_reducible assumption
    | exact List.Subset.trans (by decide) hL
    | with_reducible apply Kept.originLoaded
    | split
    | intro _

theorem kept_execPlacementEvent (h : Kept L s₀ s) (hL : [.regs, .pushes, .mem, .chk, .polders, .coll, .engines, .loops, .sup, .trl, .guards, .pilot] ⊆ L)
    (e : execPlacementEvent s = .next t) : Kept L s₀ t := by
  unfold execPlacementEvent at e
  refine Kept.of_next ?_ e
  repeat' first
    | with_reducible assumption
    | exact List.Subset.trans (by decide) hL
    | with_reducible apply Kept.trellisEvent
    | split
    | intro _

theorem kept_execReserveReevaluation (h : Kept L s₀ s) (hL : [.regs, .pushes, .coll, .loops, .trl] ⊆ L)
    (e : execReserveReevaluation s = .next t) : Kept L s₀ t := by
  unfold execReserveReevaluation at e
  refine Kept.of_next ?_ e
  repeat' first
    | with_reducible assumption
    | exact List.Subset.trans (by decide) hL
    | with_reducible apply Kept.when
    | with_reducible apply Kept.reevaluate
    | split
    | intro _

theorem kept_execImageLoadComplete (h : Kept L s₀ s) (hL : [.regs, .pushes, .mem, .chk, .polders, .loops] ⊆ L) (loop : Fin 64) (kind : Fin 4)
    (e : execImageLoadComplete loop kind s = .next t) : Kept L s₀ t := by
  unfold execImageLoadComplete at e
  refine Kept.of_next ?_ e
  repeat' first
    | with_reducible assumption
    | exact List.Subset.trans (by decide) hL
    | with_reducible apply Kept.when
    | with_reducible apply Kept.loadComplete
    | split
    | intro _

theorem kept_execMoveCopyStart (h : Kept L s₀ s) (hL : [.regs, .pushes, .coll, .loops] ⊆ L) (loop : Fin 64)
    (e : execMoveCopyStart loop s = .next t) : Kept L s₀ t := by
  unfold execMoveCopyStart at e
  refine Kept.of_next ?_ e
  repeat' first
    | with_reducible assumption
    | exact List.Subset.trans (by decide) hL
    | with_reducible apply Kept.when
    | with_reducible apply Kept.copyStart
    | split
    | intro _

theorem kept_execMoveCopyComplete (h : Kept L s₀ s) (hL : [.regs, .pushes, .mem, .chk, .polders, .coll, .loops] ⊆ L) (loop : Fin 64)
    (e : execMoveCopyComplete loop s = .next t) : Kept L s₀ t := by
  unfold execMoveCopyComplete at e
  refine Kept.of_next ?_ e
  repeat' first
    | with_reducible assumption
    | exact List.Subset.trans (by decide) hL
    | with_reducible apply Kept.copyComplete
    | split
    | intro _

theorem kept_execFaultMove (h : Kept L s₀ s) (hL : [.regs, .pushes, .mem, .chk, .polders, .coll, .engines, .loops, .sup, .trl, .guards, .pilot] ⊆ L) (engine : Fin 16)
    (e : execFaultMove engine s = .next t) : Kept L s₀ t := by
  unfold execFaultMove at e
  refine Kept.of_next ?_ e
  repeat' first
    | with_reducible assumption
    | exact List.Subset.trans (by decide) hL
    | with_reducible apply Kept.trellisFault
    | split
    | intro _

theorem kept_execHoldGuardExpiry (h : Kept L s₀ s) (hL : [.regs, .pushes, .coll, .guards, .chans, .stages] ⊆ L) (page : Fin 256) (phase : Bool)
    (e : execHoldGuardExpiry page phase s = .next t) : Kept L s₀ t := by
  unfold execHoldGuardExpiry at e
  refine Kept.of_next ?_ e
  repeat' first
    | with_reducible assumption
    | exact List.Subset.trans (by decide) hL
    | with_reducible apply Kept.guardExpiry
    | split
    | intro _

theorem kept_execBalanceEvaluation (h : Kept L s₀ s) (hL : [.regs, .pushes, .coll, .loops, .trl] ⊆ L)
    (e : execBalanceEvaluation s = .next t) : Kept L s₀ t := by
  unfold execBalanceEvaluation at e
  refine Kept.of_next ?_ e
  repeat' first
    | with_reducible assumption
    | exact List.Subset.trans (by decide) hL
    | with_reducible apply Kept.when
    | with_reducible apply Kept.balanceLoops
    | split
    | intro _

theorem kept_execImageStore (h : Kept L s₀ s) (hL : [.regs, .pushes, .coll, .trl, .sec] ⊆ L) (slot : Fin 64)
    (e : execImageStore slot s = .next t) : Kept L s₀ t := by
  unfold execImageStore at e
  refine Kept.of_next ?_ e
  repeat' first
    | with_reducible assumption
    | exact List.Subset.trans (by decide) hL
    | with_reducible apply Kept.imageStore
    | split
    | intro _

theorem kept_execImageErase (h : Kept L s₀ s) (hL : [.regs, .pushes, .mem, .chk, .coll] ⊆ L) (slot : Fin 64)
    (e : execImageErase slot s = .next t) : Kept L s₀ t := by
  unfold execImageErase at e
  refine Kept.of_next ?_ e
  repeat' first
    | with_reducible assumption
    | exact List.Subset.trans (by decide) hL
    | with_reducible apply Kept.imgErase
    | split
    | intro _

theorem kept_execImageStoreComplete (h : Kept L s₀ s) (hL : [.regs, .pushes, .mem, .chk, .coll, .trl, .sec] ⊆ L) (facts : SecFacts)
    (e : execImageStoreComplete facts s = .next t) : Kept L s₀ t := by
  unfold execImageStoreComplete at e
  refine Kept.of_next ?_ e
  repeat' first
    | with_reducible assumption
    | exact List.Subset.trans (by decide) hL
    | with_reducible apply Kept.imageStored
    | split
    | intro _

theorem kept_execGraftStandbyVerified (h : Kept L s₀ s) (hL : [.regs, .pushes, .coll, .loops, .trl] ⊆ L)
    (e : execGraftStandbyVerified s = .next t) : Kept L s₀ t := by
  unfold execGraftStandbyVerified at e
  refine Kept.of_next ?_ e
  repeat' first
    | with_reducible assumption
    | exact List.Subset.trans (by decide) hL
    | with_reducible apply Kept.when
    | with_reducible apply Kept.graftVerified
    | split
    | intro _

theorem kept_execGraftSwap (h : Kept L s₀ s) (hL : [.regs, .pushes, .mem, .chk, .polders, .coll, .loops, .trl, .guards] ⊆ L) (loop : Fin 64)
    (e : execGraftSwap loop s = .next t) : Kept L s₀ t := by
  unfold execGraftSwap at e
  refine Kept.of_next ?_ e
  repeat' first
    | with_reducible assumption
    | exact List.Subset.trans (by decide) hL
    | with_reducible apply Kept.when
    | with_reducible apply Kept.graftSwap
    | split
    | intro _

theorem kept_execGraftTimeout (h : Kept L s₀ s) (hL : [.regs, .pushes, .coll, .loops, .trl] ⊆ L)
    (e : execGraftTimeout s = .next t) : Kept L s₀ t := by
  unfold execGraftTimeout at e
  refine Kept.of_next ?_ e
  repeat' first
    | with_reducible assumption
    | exact List.Subset.trans (by decide) hL
    | with_reducible apply Kept.when
    | with_reducible apply Kept.graftTimeout
    | split
    | intro _

theorem kept_execPolderEnable (h : Kept L s₀ s) (hL : [.regs, .pushes, .polders, .drainQ, .coll, .loops, .sup, .trl, .pilot] ⊆ L) (page : Fin 256) (drain : Bool) (test : Bool) (blkrst : Bool)
    (e : execPolderEnable page drain test blkrst s = .next t) : Kept L s₀ t := by
  unfold execPolderEnable at e
  refine Kept.of_settle ?_ e
  repeat' first
    | with_reducible assumption
    | exact List.Subset.trans (by decide) hL
    | exact OptAll.none
    | with_reducible apply OptAll.some
    | with_reducible apply Kept.ctlRow
    | split
    | intro _

theorem kept_execPolderPowerDown (h : Kept L s₀ s) (hL : [.regs, .pushes, .polders, .drainQ, .coll, .loops, .sup, .trl, .pilot] ⊆ L) (page : Fin 256) (drain : Bool) (test : Bool) (blkrst : Bool)
    (e : execPolderPowerDown page drain test blkrst s = .next t) : Kept L s₀ t := by
  unfold execPolderPowerDown at e
  refine Kept.of_settle ?_ e
  repeat' first
    | with_reducible assumption
    | exact List.Subset.trans (by decide) hL
    | exact OptAll.none
    | with_reducible apply OptAll.some
    | with_reducible apply Kept.ctlRow
    | split
    | intro _

theorem kept_execDrainRequest (h : Kept L s₀ s) (hL : [.regs, .pushes, .polders, .drainQ, .coll, .loops, .sup, .trl, .pilot] ⊆ L) (page : Fin 256) (en : Bool) (test : Bool) (blkrst : Bool)
    (e : execDrainRequest page en test blkrst s = .next t) : Kept L s₀ t := by
  unfold execDrainRequest at e
  refine Kept.of_settle ?_ e
  repeat' first
    | with_reducible assumption
    | exact List.Subset.trans (by decide) hL
    | exact OptAll.none
    | with_reducible apply OptAll.some
    | with_reducible apply Kept.ctlRow
    | split
    | intro _

theorem kept_execDrainCancel (h : Kept L s₀ s) (hL : [.regs, .pushes, .polders, .drainQ, .coll, .loops, .sup, .trl, .pilot] ⊆ L) (page : Fin 256) (en : Bool) (test : Bool) (blkrst : Bool)
    (e : execDrainCancel page en test blkrst s = .next t) : Kept L s₀ t := by
  unfold execDrainCancel at e
  refine Kept.of_settle ?_ e
  repeat' first
    | with_reducible assumption
    | exact List.Subset.trans (by decide) hL
    | exact OptAll.none
    | with_reducible apply OptAll.some
    | with_reducible apply Kept.ctlRow
    | split
    | intro _

theorem kept_execTestRequest (h : Kept L s₀ s) (hL : [.regs, .pushes, .polders, .drainQ, .coll, .loops, .sup, .trl, .pilot] ⊆ L) (page : Fin 256) (en : Bool) (drain : Bool) (blkrst : Bool)
    (e : execTestRequest page en drain blkrst s = .next t) : Kept L s₀ t := by
  unfold execTestRequest at e
  refine Kept.of_settle ?_ e
  repeat' first
    | with_reducible assumption
    | exact List.Subset.trans (by decide) hL
    | exact OptAll.none
    | with_reducible apply OptAll.some
    | with_reducible apply Kept.ctlRow
    | split
    | intro _

theorem kept_execBlockReset (h : Kept L s₀ s) (hL : [.regs, .pushes, .polders, .drainQ, .coll, .loops, .sup, .trl, .pilot] ⊆ L) (page : Fin 256) (en : Bool) (drain : Bool) (test : Bool)
    (e : execBlockReset page en drain test s = .next t) : Kept L s₀ t := by
  unfold execBlockReset at e
  refine Kept.of_settle ?_ e
  repeat' first
    | with_reducible assumption
    | exact List.Subset.trans (by decide) hL
    | exact OptAll.none
    | with_reducible apply OptAll.some
    | with_reducible apply Kept.ctlRow
    | split
    | intro _

theorem kept_execBlockResetComplete (h : Kept L s₀ s) (hL : [.regs, .pushes, .polders] ⊆ L) (polder : Nat)
    (e : execBlockResetComplete polder s = .next t) : Kept L s₀ t := by
  unfold execBlockResetComplete at e
  refine Kept.of_next ?_ e
  repeat' first
    | with_reducible assumption
    | exact List.Subset.trans (by decide) hL
    | with_reducible apply Kept.blkrstDone
    | split
    | intro _

theorem kept_execDrainEvaluation (h : Kept L s₀ s) (hL : [.regs, .pushes, .polders, .drainQ, .coll, .sup, .trl] ⊆ L)
    (e : execDrainEvaluation s = .next t) : Kept L s₀ t := by
  unfold execDrainEvaluation at e
  refine Kept.of_next ?_ e
  repeat' first
    | with_reducible assumption
    | exact List.Subset.trans (by decide) hL
    | with_reducible apply Kept.drainEvaluate
    | split
    | intro _

theorem kept_execDrainComplete (h : Kept L s₀ s) (hL : [.regs, .pushes, .polders, .ifc] ⊆ L) (polder : Nat)
    (e : execDrainComplete polder s = .next t) : Kept L s₀ t := by
  unfold execDrainComplete at e
  refine Kept.of_next ?_ e
  repeat' first
    | with_reducible assumption
    | exact List.Subset.trans (by decide) hL
    | with_reducible apply Kept.drainComplete
    | split
    | intro _

theorem kept_execDrainTimeout (h : Kept L s₀ s) (hL : [.regs, .pushes, .polders, .coll, .loops, .sup, .trl, .pilot] ⊆ L) (polder : Nat)
    (e : execDrainTimeout polder s = .next t) : Kept L s₀ t := by
  unfold execDrainTimeout at e
  refine Kept.of_next ?_ e
  repeat' first
    | with_reducible assumption
    | exact List.Subset.trans (by decide) hL
    | with_reducible apply Kept.drainTimeout
    | split
    | intro _

theorem kept_execSelfTestComplete (h : Kept L s₀ s) (hL : [.regs, .pushes, .mem, .chk, .polders, .drainQ, .coll, .sup, .trl, .guards, .chans, .stages, .pilot, .tdac, .sto] ⊆ L) (polder : Nat) (pass : Bool)
    (e : execSelfTestComplete polder pass s = .next t) : Kept L s₀ t := by
  unfold execSelfTestComplete at e
  refine Kept.of_next ?_ e
  repeat' first
    | with_reducible assumption
    | exact List.Subset.trans (by decide) hL
    | with_reducible apply Kept.testComplete
    | split
    | intro _

theorem kept_execTestSluiceWithhold (h : Kept L s₀ s) (hL : [.regs, .pushes, .polders, .drainQ, .coll, .sup, .guards, .chans, .stages, .sto] ⊆ L) (polder : Nat)
    (e : execTestSluiceWithhold polder s = .next t) : Kept L s₀ t := by
  unfold execTestSluiceWithhold at e
  refine Kept.of_next ?_ e
  repeat' first
    | with_reducible assumption
    | exact List.Subset.trans (by decide) hL
    | with_reducible apply Kept.testWithholds
    | split
    | intro _

theorem kept_execStallClosure (h : Kept L s₀ s) (hL : [.regs, .pushes, .polders, .drainQ, .coll, .engines, .loops, .sup, .trl, .guards, .chans, .stages, .pilot, .samples, .convs, .ifc, .sto, .wd] ⊆ L) (polders : List Nat)
    (e : execStallClosure polders s = .next t) : Kept L s₀ t := by
  unfold execStallClosure at e
  refine Kept.of_next ?_ e
  repeat' first
    | with_reducible assumption
    | exact List.Subset.trans (by decide) hL
    | with_reducible apply Kept.stallClosure
    | split
    | intro _

theorem kept_execClosedSluiceRequest (h : Kept L s₀ s) (hL : [.regs, .pushes, .mem, .chk, .polders, .coll, .engines, .loops, .trl] ⊆ L) (requester : Nat) (target : Nat) (copyOf : Option Nat)
    (e : execClosedSluiceRequest requester target copyOf s = .next t) : Kept L s₀ t := by
  unfold execClosedSluiceRequest at e
  refine Kept.of_next ?_ e
  repeat' first
    | with_reducible assumption
    | exact List.Subset.trans (by decide) hL
    | with_reducible apply Kept.closedSluice
    | split
    | intro _

theorem kept_execPowerRequestRun (h : Kept L s₀ s) (hL : [.regs, .pushes, .coll, .pwr] ⊆ L)
    (e : execPowerRequestRun s = .next t) : Kept L s₀ t := by
  unfold execPowerRequestRun at e
  refine Kept.of_next ?_ e
  repeat' first
    | with_reducible assumption
    | exact List.Subset.trans (by decide) hL
    | with_reducible apply Kept.powerRequest
    | split
    | intro _

theorem kept_execPowerRequestStandby (h : Kept L s₀ s) (hL : [.regs, .pushes, .coll, .pwr] ⊆ L)
    (e : execPowerRequestStandby s = .next t) : Kept L s₀ t := by
  unfold execPowerRequestStandby at e
  refine Kept.of_next ?_ e
  repeat' first
    | with_reducible assumption
    | exact List.Subset.trans (by decide) hL
    | with_reducible apply Kept.powerRequest
    | split
    | intro _

theorem kept_execPowerRequestSleep (h : Kept L s₀ s) (hL : [.regs, .pushes, .coll, .pwr] ⊆ L)
    (e : execPowerRequestSleep s = .next t) : Kept L s₀ t := by
  unfold execPowerRequestSleep at e
  refine Kept.of_next ?_ e
  repeat' first
    | with_reducible assumption
    | exact List.Subset.trans (by decide) hL
    | with_reducible apply Kept.powerRequest
    | split
    | intro _

theorem kept_execPowerRequestOff (h : Kept L s₀ s) (hL : [.regs, .pushes, .coll, .pwr] ⊆ L)
    (e : execPowerRequestOff s = .next t) : Kept L s₀ t := by
  unfold execPowerRequestOff at e
  refine Kept.of_next ?_ e
  repeat' first
    | with_reducible assumption
    | exact List.Subset.trans (by decide) hL
    | with_reducible apply Kept.powerRequest
    | split
    | intro _

theorem kept_execPowerStateReached (h : Kept L s₀ s) (hL : [.regs, .staged, .marks, .pushes, .ledger, .mem, .chk, .now, .polders, .drainQ, .coll, .tp, .hif, .commit, .engines, .loops, .slotShadows, .sup, .trl, .guards, .chans, .stages, .pilot, .samples, .waitingSeqs, .convs, .tdac, .sdFrom, .resolvers, .enc, .ifc, .syn, .sec, .dbg, .pwr, .sto, .wd] ⊆ L)
    (e : execPowerStateReached s = .next t) : Kept L s₀ t := by
  unfold execPowerStateReached at e
  refine Kept.of_next ?_ e
  repeat' first
    | with_reducible assumption
    | exact List.Subset.trans (by decide) hL
    | with_reducible apply Kept.powerReached
    | split
    | intro _

theorem kept_execWakeEvent (h : Kept L s₀ s) (hL : [.regs, .staged, .marks, .pushes, .ledger, .mem, .chk, .now, .polders, .drainQ, .coll, .tp, .hif, .commit, .engines, .loops, .slotShadows, .sup, .trl, .guards, .chans, .stages, .pilot, .samples, .waitingSeqs, .convs, .tdac, .sdFrom, .resolvers, .enc, .ifc, .syn, .sec, .dbg, .pwr, .sto, .wd] ⊆ L) (sources : Fin 128) (ticks : Nat)
    (e : execWakeEvent sources ticks s = .next t) : Kept L s₀ t := by
  unfold execWakeEvent at e
  refine Kept.of_next ?_ e
  repeat' first
    | with_reducible assumption
    | exact List.Subset.trans (by decide) hL
    | with_reducible apply Kept.wakeEvent
    | split
    | intro _

theorem kept_execWakeTimerExpiry (h : Kept L s₀ s) (hL : [.regs, .staged, .marks, .pushes, .ledger, .mem, .chk, .now, .polders, .drainQ, .coll, .tp, .hif, .commit, .engines, .loops, .slotShadows, .sup, .trl, .guards, .chans, .stages, .pilot, .samples, .waitingSeqs, .convs, .tdac, .sdFrom, .resolvers, .enc, .ifc, .syn, .sec, .dbg, .pwr, .sto, .wd] ⊆ L) (ticks : Nat)
    (e : execWakeTimerExpiry ticks s = .next t) : Kept L s₀ t := by
  unfold execWakeTimerExpiry at e
  refine Kept.of_next ?_ e
  repeat' first
    | with_reducible assumption
    | exact List.Subset.trans (by decide) hL
    | with_reducible apply Kept.wakeTimer
    | split
    | intro _

theorem kept_execSleepVbatLow (h : Kept L s₀ s) (hL : [.regs, .staged, .marks, .pushes, .ledger, .mem, .chk, .now, .polders, .drainQ, .coll, .tp, .hif, .commit, .engines, .loops, .slotShadows, .sup, .trl, .guards, .chans, .stages, .pilot, .samples, .waitingSeqs, .convs, .tdac, .sdFrom, .resolvers, .enc, .ifc, .syn, .sec, .dbg, .pwr, .sto, .wd] ⊆ L)
    (e : execSleepVbatLow s = .next t) : Kept L s₀ t := by
  unfold execSleepVbatLow at e
  refine Kept.of_next ?_ e
  repeat' first
    | with_reducible assumption
    | exact List.Subset.trans (by decide) hL
    | with_reducible apply Kept.sleepLow
    | split
    | intro _

theorem kept_execVbatLowWarning (h : Kept L s₀ s) (hL : [.regs, .pushes, .coll, .guards, .chans, .stages, .sto] ⊆ L)
    (e : execVbatLowWarning s = .next t) : Kept L s₀ t := by
  unfold execVbatLowWarning at e
  refine Kept.of_next ?_ e
  repeat' first
    | with_reducible assumption
    | exact List.Subset.trans (by decide) hL
    | with_reducible apply Kept.monitor
    | split
    | intro _

theorem kept_execVbatUndervoltage (h : Kept L s₀ s) (hL : [.regs, .pushes, .coll, .guards, .chans, .stages, .sto] ⊆ L)
    (e : execVbatUndervoltage s = .next t) : Kept L s₀ t := by
  unfold execVbatUndervoltage at e
  refine Kept.of_next ?_ e
  repeat' first
    | with_reducible assumption
    | exact List.Subset.trans (by decide) hL
    | with_reducible apply Kept.monitor
    | split
    | intro _

theorem kept_execVbatBrownOut (h : Kept L s₀ s) (hL : [.regs, .staged, .marks, .pushes, .ledger, .mem, .chk, .polders, .drainQ, .coll, .tp, .hif, .commit, .engines, .loops, .slotShadows, .sup, .trl, .guards, .chans, .stages, .pilot, .samples, .waitingSeqs, .convs, .tdac, .sdFrom, .resolvers, .enc, .ifc, .syn, .sec, .dbg, .pwr, .sto, .wd] ⊆ L)
    (e : execVbatBrownOut s = .next t) : Kept L s₀ t := by
  unfold execVbatBrownOut at e
  refine Kept.of_next ?_ e
  repeat' first
    | with_reducible assumption
    | exact List.Subset.trans (by decide) hL
    | with_reducible apply Kept.supplyReset
    | split
    | intro _

theorem kept_execVbatLoadDump (h : Kept L s₀ s) (hL : [.regs, .pushes, .coll, .guards, .chans, .stages, .sto] ⊆ L)
    (e : execVbatLoadDump s = .next t) : Kept L s₀ t := by
  unfold execVbatLoadDump at e
  refine Kept.of_next ?_ e
  repeat' first
    | with_reducible assumption
    | exact List.Subset.trans (by decide) hL
    | with_reducible apply Kept.monitor
    | split
    | intro _

theorem kept_execVbatSustainedHigh (h : Kept L s₀ s) (hL : [.regs, .pushes, .coll, .guards, .chans, .stages, .sto] ⊆ L)
    (e : execVbatSustainedHigh s = .next t) : Kept L s₀ t := by
  unfold execVbatSustainedHigh at e
  refine Kept.of_next ?_ e
  repeat' first
    | with_reducible assumption
    | exact List.Subset.trans (by decide) hL
    | with_reducible apply Kept.monitor
    | split
    | intro _

theorem kept_execVbatOvervoltage (h : Kept L s₀ s) (hL : [.regs, .staged, .marks, .pushes, .ledger, .mem, .chk, .polders, .drainQ, .coll, .tp, .hif, .commit, .engines, .loops, .slotShadows, .sup, .trl, .guards, .chans, .stages, .pilot, .samples, .waitingSeqs, .convs, .tdac, .sdFrom, .resolvers, .enc, .ifc, .syn, .sec, .dbg, .pwr, .sto, .wd] ⊆ L)
    (e : execVbatOvervoltage s = .next t) : Kept L s₀ t := by
  unfold execVbatOvervoltage at e
  refine Kept.of_next ?_ e
  repeat' first
    | with_reducible assumption
    | exact List.Subset.trans (by decide) hL
    | with_reducible apply Kept.supplyReset
    | split
    | intro _

theorem kept_execVmUndervoltage (h : Kept L s₀ s) (hL : [.regs, .pushes, .coll, .guards, .chans, .stages, .sto] ⊆ L)
    (e : execVmUndervoltage s = .next t) : Kept L s₀ t := by
  unfold execVmUndervoltage at e
  refine Kept.of_next ?_ e
  repeat' first
    | with_reducible assumption
    | exact List.Subset.trans (by decide) hL
    | with_reducible apply Kept.vmMonitor
    | split
    | intro _

theorem kept_execVmOvervoltage (h : Kept L s₀ s) (hL : [.regs, .pushes, .coll, .guards, .chans, .stages, .sto] ⊆ L)
    (e : execVmOvervoltage s = .next t) : Kept L s₀ t := by
  unfold execVmOvervoltage at e
  refine Kept.of_next ?_ e
  repeat' first
    | with_reducible assumption
    | exact List.Subset.trans (by decide) hL
    | with_reducible apply Kept.vmMonitor
    | split
    | intro _

theorem kept_execRailOutOfWindow (h : Kept L s₀ s) (hL : [.coll, .pwr] ⊆ L) (rail : Fin 16)
    (e : execRailOutOfWindow rail s = .next t) : Kept L s₀ t := by
  unfold execRailOutOfWindow at e
  refine Kept.of_next ?_ e
  repeat' first
    | with_reducible assumption
    | exact List.Subset.trans (by decide) hL
    | with_reducible apply Kept.railFault
    | split
    | intro _

theorem kept_execRailResetDelay (h : Kept L s₀ s) (hL : [.regs, .staged, .marks, .pushes, .ledger, .mem, .chk, .polders, .drainQ, .coll, .tp, .hif, .commit, .engines, .loops, .slotShadows, .sup, .trl, .guards, .chans, .stages, .pilot, .samples, .waitingSeqs, .convs, .tdac, .sdFrom, .resolvers, .enc, .ifc, .syn, .sec, .dbg, .pwr, .sto, .wd] ⊆ L)
    (e : execRailResetDelay s = .next t) : Kept L s₀ t := by
  unfold execRailResetDelay at e
  refine Kept.of_next ?_ e
  repeat' first
    | with_reducible assumption
    | exact List.Subset.trans (by decide) hL
    | with_reducible apply Kept.railReset
    | split
    | intro _

theorem kept_execJunctionWarning (h : Kept L s₀ s) (hL : [.regs, .pushes, .coll, .guards, .chans, .stages, .sto] ⊆ L)
    (e : execJunctionWarning s = .next t) : Kept L s₀ t := by
  unfold execJunctionWarning at e
  refine Kept.of_next ?_ e
  repeat' first
    | with_reducible assumption
    | exact List.Subset.trans (by decide) hL
    | with_reducible apply Kept.monitor
    | split
    | intro _

theorem kept_execJunctionLimit (h : Kept L s₀ s) (hL : [.regs, .pushes, .coll, .guards, .chans, .stages, .sto] ⊆ L)
    (e : execJunctionLimit s = .next t) : Kept L s₀ t := by
  unfold execJunctionLimit at e
  refine Kept.of_next ?_ e
  repeat' first
    | with_reducible assumption
    | exact List.Subset.trans (by decide) hL
    | with_reducible apply Kept.monitor
    | split
    | intro _

theorem kept_execJunctionShutdown (h : Kept L s₀ s) (hL : [.regs, .staged, .marks, .pushes, .ledger, .mem, .chk, .polders, .drainQ, .coll, .tp, .hif, .commit, .engines, .loops, .slotShadows, .sup, .trl, .guards, .chans, .stages, .pilot, .samples, .waitingSeqs, .convs, .tdac, .sdFrom, .resolvers, .enc, .ifc, .syn, .sec, .dbg, .pwr, .sto, .wd] ⊆ L)
    (e : execJunctionShutdown s = .next t) : Kept L s₀ t := by
  unfold execJunctionShutdown at e
  refine Kept.of_next ?_ e
  repeat' first
    | with_reducible assumption
    | exact List.Subset.trans (by decide) hL
    | with_reducible apply Kept.junctionShutdown
    | split
    | intro _

theorem kept_execSupplyMonitorEnd (h : Kept L s₀ s) (hL : [.regs, .pushes] ⊆ L) (k : Fin 8)
    (e : execSupplyMonitorEnd k s = .next t) : Kept L s₀ t := by
  unfold execSupplyMonitorEnd at e
  refine Kept.of_next ?_ e
  repeat' first
    | with_reducible assumption
    | exact List.Subset.trans (by decide) hL
    | with_reducible apply Kept.monitorEnd
    | split
    | intro _

theorem kept_execSupplyValid (h : Kept L s₀ s) (hL : [.pwr] ⊆ L)
    (e : execSupplyValid s = .next t) : Kept L s₀ t := by
  unfold execSupplyValid at e
  refine Kept.of_next ?_ e
  repeat' first
    | with_reducible assumption
    | exact List.Subset.trans (by decide) hL
    | with_reducible apply Kept.supplyValid
    | split
    | intro _

theorem kept_execPllLock (h : Kept L s₀ s) (hL : [.regs, .pushes, .now, .fresh, .polders, .coll, .pwr] ⊆ L) (carried : Nat) (c0 : Bool) (c1 : Bool) (c2 : Bool)
    (e : execPllLock carried c0 c1 c2 s = .next t) : Kept L s₀ t := by
  unfold execPllLock at e
  refine Kept.of_next ?_ e
  repeat' first
    | with_reducible assumption
    | exact List.Subset.trans (by decide) hL
    | with_reducible apply Kept.pllLock
    | split
    | intro _

theorem kept_execSupervisorRelease (h : Kept L s₀ s) (hL : [.regs, .pushes, .polders, .coll, .sup, .sec, .pwr] ⊆ L) (tried : Nat) (other : Nat) (classes : List (Nat × Nat)) (slots : List (Nat × Nat))
    (e : execSupervisorRelease tried other classes slots s = .next t) : Kept L s₀ t := by
  unfold execSupervisorRelease at e
  refine Kept.of_next ?_ e
  repeat' first
    | with_reducible assumption
    | exact List.Subset.trans (by decide) hL
    | with_reducible apply Kept.supervisorRelease
    | split
    | intro _

theorem kept_execBootPrefer (h : Kept L s₀ s) (hL : [.regs, .pushes, .coll] ⊆ L)
    (e : execBootPrefer s = .next t) : Kept L s₀ t := by
  unfold execBootPrefer at e
  refine Kept.of_next ?_ e
  repeat' first
    | with_reducible assumption
    | exact List.Subset.trans (by decide) hL
    | with_reducible apply Kept.bootPrefer
    | split
    | intro _

theorem kept_execBootConfirm (h : Kept L s₀ s) (hL : [.regs, .pushes] ⊆ L)
    (e : execBootConfirm s = .next t) : Kept L s₀ t := by
  unfold execBootConfirm at e
  refine Kept.of_next ?_ e
  repeat' first
    | with_reducible assumption
    | exact List.Subset.trans (by decide) hL
    | with_reducible apply Kept.bootConfirm
    | split
    | intro _

theorem kept_execBootReady (h : Kept L s₀ s) (hL : [.regs, .pushes] ⊆ L)
    (e : execBootReady s = .next t) : Kept L s₀ t := by
  unfold execBootReady at e
  refine Kept.of_next ?_ e
  repeat' first
    | with_reducible assumption
    | exact List.Subset.trans (by decide) hL
    | with_reducible apply Kept.bootReady
    | split
    | intro _

theorem kept_execSupplyMeasurementUpdate (h : Kept L s₀ s) (hL : [.regs, .pushes] ⊆ L) (vbat : Word) (vm : Word) (tj : Word)
    (e : execSupplyMeasurementUpdate vbat vm tj s = .next t) : Kept L s₀ t := by
  unfold execSupplyMeasurementUpdate at e
  refine Kept.of_next ?_ e
  repeat' first
    | with_reducible assumption
    | exact List.Subset.trans (by decide) hL
    | with_reducible apply Kept.measurements
    | split
    | intro _

theorem kept_execResetCommand (h : Kept L s₀ s) (hL : [.regs, .staged, .marks, .pushes, .ledger, .mem, .chk, .polders, .drainQ, .coll, .tp, .hif, .commit, .engines, .loops, .slotShadows, .sup, .trl, .guards, .chans, .stages, .pilot, .samples, .waitingSeqs, .convs, .tdac, .sdFrom, .resolvers, .enc, .ifc, .syn, .sec, .dbg, .pwr, .sto, .wd] ⊆ L) (key : BitVec 16)
    (e : execResetCommand key s = .next t) : Kept L s₀ t := by
  unfold execResetCommand at e
  refine Kept.of_next ?_ e
  repeat' first
    | with_reducible assumption
    | exact List.Subset.trans (by decide) hL
    | with_reducible apply Kept.resetCommand
    | split
    | intro _

theorem kept_execResetPinAssert (h : Kept L s₀ s) (hL : [.regs, .staged, .marks, .pushes, .ledger, .mem, .chk, .polders, .drainQ, .coll, .tp, .hif, .commit, .engines, .loops, .slotShadows, .sup, .trl, .guards, .chans, .stages, .pilot, .samples, .waitingSeqs, .convs, .tdac, .sdFrom, .resolvers, .enc, .ifc, .syn, .sec, .dbg, .pwr, .sto, .wd] ⊆ L)
    (e : execResetPinAssert s = .next t) : Kept L s₀ t := by
  unfold execResetPinAssert at e
  refine Kept.of_next ?_ e
  repeat' first
    | with_reducible assumption
    | exact List.Subset.trans (by decide) hL
    | with_reducible apply Kept.pinAssertReset
    | split
    | intro _

theorem kept_execResetPinRelease (h : Kept L s₀ s) (hL : [.regs, .pushes, .fresh, .polders, .coll, .pwr] ⊆ L) (c0 : Bool) (c1 : Bool) (c2 : Bool)
    (e : execResetPinRelease c0 c1 c2 s = .next t) : Kept L s₀ t := by
  unfold execResetPinRelease at e
  refine Kept.of_next ?_ e
  repeat' first
    | with_reducible assumption
    | exact List.Subset.trans (by decide) hL
    | with_reducible apply Kept.pinReleaseReset
    | split
    | intro _

theorem kept_execResetHeld5s (h : Kept L s₀ s) (hL : [.regs, .pushes] ⊆ L)
    (e : execResetHeld5s s = .next t) : Kept L s₀ t := by
  unfold execResetHeld5s at e
  refine Kept.of_next ?_ e
  repeat' first
    | with_reducible assumption
    | exact List.Subset.trans (by decide) hL
    | with_reducible apply Kept.resetHeld
    | split
    | intro _

theorem kept_execResetRelease (h : Kept L s₀ s) (hL : [.regs, .pushes, .fresh, .polders, .coll, .pwr] ⊆ L) (c0 : Bool) (c1 : Bool) (c2 : Bool)
    (e : execResetRelease c0 c1 c2 s = .next t) : Kept L s₀ t := by
  unfold execResetRelease at e
  refine Kept.of_next ?_ e
  repeat' first
    | with_reducible assumption
    | exact List.Subset.trans (by decide) hL
    | with_reducible apply Kept.resetRelease
    | split
    | intro _

theorem kept_execCollectorStop (h : Kept L s₀ s) (hL : [.coll] ⊆ L)
    (e : execCollectorStop s = .next t) : Kept L s₀ t := by
  unfold execCollectorStop at e
  refine Kept.of_next ?_ e
  repeat' first
    | with_reducible assumption
    | exact List.Subset.trans (by decide) hL
    | with_reducible apply Kept.collectorStop
    | split
    | intro _

theorem kept_execCollectorRestart (h : Kept L s₀ s) (hL : [.regs, .pushes, .coll, .pwr] ⊆ L)
    (e : execCollectorRestart s = .next t) : Kept L s₀ t := by
  unfold execCollectorRestart at e
  refine Kept.of_next ?_ e
  repeat' first
    | with_reducible assumption
    | exact List.Subset.trans (by decide) hL
    | with_reducible apply Kept.collectorRestart
    | split
    | intro _

theorem kept_execDikePowerOn (h : Kept L s₀ s) (hL : [.regs, .staged, .marks, .pushes, .ledger, .mem, .chk, .now, .polders, .drainQ, .coll, .tp, .hif, .commit, .engines, .loops, .slotShadows, .sup, .trl, .guards, .chans, .stages, .pilot, .samples, .waitingSeqs, .convs, .tdac, .sdFrom, .resolvers, .enc, .ifc, .syn, .sec, .dbg, .pwr, .sto, .wd] ⊆ L)
    (e : execDikePowerOn s = .next t) : Kept L s₀ t := by
  unfold execDikePowerOn at e
  refine Kept.of_next ?_ e
  repeat' first
    | with_reducible assumption
    | exact List.Subset.trans (by decide) hL
    | with_reducible apply Kept.dikePowerOn
    | split
    | intro _

theorem kept_execDikeSupplyLoss (h : Kept L s₀ s) (hL : [.regs, .staged, .marks, .pushes, .ledger, .mem, .chk, .now, .polders, .drainQ, .coll, .tp, .hif, .commit, .engines, .loops, .slotShadows, .sup, .trl, .guards, .chans, .stages, .pilot, .samples, .waitingSeqs, .convs, .tdac, .sdFrom, .resolvers, .enc, .ifc, .syn, .sec, .dbg, .pwr, .sto, .wd] ⊆ L)
    (e : execDikeSupplyLoss s = .next t) : Kept L s₀ t := by
  unfold execDikeSupplyLoss at e
  refine Kept.of_next ?_ e
  repeat' first
    | with_reducible assumption
    | exact List.Subset.trans (by decide) hL
    | with_reducible apply Kept.dikeLoss
    | split
    | intro _

theorem kept_execDebugReset (h : Kept L s₀ s) (hL : [.regs, .staged, .marks, .pushes, .ledger, .mem, .chk, .polders, .drainQ, .coll, .tp, .hif, .commit, .engines, .loops, .slotShadows, .sup, .trl, .guards, .chans, .stages, .pilot, .samples, .waitingSeqs, .convs, .tdac, .sdFrom, .resolvers, .enc, .ifc, .syn, .sec, .dbg, .pwr, .sto, .wd] ⊆ L)
    (e : execDebugReset s = .next t) : Kept L s₀ t := by
  unfold execDebugReset at e
  refine Kept.of_next ?_ e
  repeat' first
    | with_reducible assumption
    | exact List.Subset.trans (by decide) hL
    | with_reducible apply Kept.debugReset
    | split
    | intro _

theorem kept_execRyugerSyncTransmit (h : Kept L s₀ s) (hL : [.regs, .pushes, .polders, .coll, .syn] ⊆ L)
    (e : execRyugerSyncTransmit s = .next t) : Kept L s₀ t := by
  unfold execRyugerSyncTransmit at e
  refine Kept.of_next ?_ e
  repeat' first
    | with_reducible assumption
    | exact List.Subset.trans (by decide) hL
    | with_reducible apply Kept.synTransmit
    | split
    | intro _

theorem kept_execRyugerFrameReceive (h : Kept L s₀ s) (hL : [.regs, .pushes, .now, .polders, .coll, .ifc, .syn] ⊆ L) (frame : List Byte) (violation : Bool) (age : Nat) (frac : Fin 20) (step : Bool)
    (e : execRyugerFrameReceive frame violation age frac step s = .next t) : Kept L s₀ t := by
  unfold execRyugerFrameReceive at e
  refine Kept.of_next ?_ e
  repeat' first
    | with_reducible assumption
    | exact List.Subset.trans (by decide) hL
    | with_reducible apply Kept.synReceive
    | split
    | intro _

theorem kept_execSymbolLockChange (h : Kept L s₀ s) (hL : [.regs, .pushes, .polders, .syn] ⊆ L) (on : Bool)
    (e : execSymbolLockChange on s = .next t) : Kept L s₀ t := by
  unfold execSymbolLockChange at e
  refine Kept.of_next ?_ e
  repeat' first
    | with_reducible assumption
    | exact List.Subset.trans (by decide) hL
    | with_reducible apply Kept.symbolLock
    | split
    | intro _

theorem kept_execSyncTimeout (h : Kept L s₀ s) (hL : [.regs, .pushes, .coll, .syn] ⊆ L)
    (e : execSyncTimeout s = .next t) : Kept L s₀ t := by
  unfold execSyncTimeout at e
  refine Kept.of_next ?_ e
  repeat' first
    | with_reducible assumption
    | exact List.Subset.trans (by decide) hL
    | with_reducible apply Kept.syncTimeout
    | split
    | intro _

theorem kept_execRyugerSupervisorSend (h : Kept L s₀ s) (hL : [.regs, .pushes, .polders, .syn] ⊆ L) (dst : Fin 16) (len : Fin 64)
    (e : execRyugerSupervisorSend dst len s = .next t) : Kept L s₀ t := by
  unfold execRyugerSupervisorSend at e
  refine Kept.of_next ?_ e
  repeat' first
    | with_reducible assumption
    | exact List.Subset.trans (by decide) hL
    | with_reducible apply Kept.synSupervisorSend
    | split
    | intro _

theorem kept_execRyugerApplicationSend (h : Kept L s₀ s) (hL : [.regs, .pushes, .polders, .syn] ⊆ L) (dst : Fin 16) (len : Fin 64)
    (e : execRyugerApplicationSend dst len s = .next t) : Kept L s₀ t := by
  unfold execRyugerApplicationSend at e
  refine Kept.of_next ?_ e
  repeat' first
    | with_reducible assumption
    | exact List.Subset.trans (by decide) hL
    | with_reducible apply Kept.synSend
    | split
    | intro _

theorem kept_execRyugerRxPop (h : Kept L s₀ s) (hL : [.regs, .pushes, .syn] ⊆ L) (ch : Fin 2)
    (e : execRyugerRxPop ch s = .next t) : Kept L s₀ t := by
  unfold execRyugerRxPop at e
  refine Kept.of_next ?_ e
  repeat' first
    | with_reducible assumption
    | exact List.Subset.trans (by decide) hL
    | with_reducible apply Kept.synPop
    | split
    | intro _

theorem kept_execRyugerFrameLost (h : Kept L s₀ s) (hL : [.regs, .pushes, .polders, .syn] ⊆ L) (ch : Fin 2)
    (e : execRyugerFrameLost ch s = .next t) : Kept L s₀ t := by
  unfold execRyugerFrameLost at e
  refine Kept.of_next ?_ e
  repeat' first
    | with_reducible assumption
    | exact List.Subset.trans (by decide) hL
    | with_reducible apply Kept.synLost
    | split
    | intro _

theorem kept_execSecUnlockToken (h : Kept L s₀ s) (hL : [.regs, .pushes, .coll, .sec] ⊆ L)
    (e : execSecUnlockToken s = .next t) : Kept L s₀ t := by
  unfold execSecUnlockToken at e
  refine Kept.of_next ?_ e
  repeat' first
    | with_reducible assumption
    | exact List.Subset.trans (by decide) hL
    | with_reducible apply Kept.submitUnlock
    | split
    | intro _

theorem kept_execSecLifecycleToken (h : Kept L s₀ s) (hL : [.regs, .pushes, .sec] ⊆ L)
    (e : execSecLifecycleToken s = .next t) : Kept L s₀ t := by
  unfold execSecLifecycleToken at e
  refine Kept.of_next ?_ e
  repeat' first
    | with_reducible assumption
    | exact List.Subset.trans (by decide) hL
    | with_reducible apply Kept.secSubmit
    | split
    | intro _

theorem kept_execSecAttest (h : Kept L s₀ s) (hL : [.regs, .pushes, .coll, .sec] ⊆ L)
    (e : execSecAttest s = .next t) : Kept L s₀ t := by
  unfold execSecAttest at e
  refine Kept.of_next ?_ e
  repeat' first
    | with_reducible assumption
    | exact List.Subset.trans (by decide) hL
    | with_reducible apply Kept.attest
    | split
    | intro _

theorem kept_execSecAdvanceCounter (h : Kept L s₀ s) (hL : [.regs, .pushes, .coll, .sec] ⊆ L) (voted : Bool) (cls : Fin 8) (value : Fin 128)
    (e : execSecAdvanceCounter voted cls value s = .next t) : Kept L s₀ t := by
  unfold execSecAdvanceCounter at e
  refine Kept.of_next ?_ e
  repeat' first
    | with_reducible assumption
    | exact List.Subset.trans (by decide) hL
    | with_reducible apply Kept.advanceCounter
    | split
    | intro _

theorem kept_execSecRequestStart (h : Kept L s₀ s) (hL : [.regs, .pushes, .sec] ⊆ L)
    (e : execSecRequestStart s = .next t) : Kept L s₀ t := by
  unfold execSecRequestStart at e
  refine Kept.of_next ?_ e
  repeat' first
    | with_reducible assumption
    | exact List.Subset.trans (by decide) hL
    | with_reducible apply Kept.secStart
    | split
    | intro _

theorem kept_execSecRequestComplete (h : Kept L s₀ s) (hL : [.regs, .pushes, .fresh, .coll, .guards, .chans, .stages, .sec] ⊆ L) (facts : SecFacts)
    (e : execSecRequestComplete facts s = .next t) : Kept L s₀ t := by
  unfold execSecRequestComplete at e
  refine Kept.of_next ?_ e
  repeat' first
    | with_reducible assumption
    | exact List.Subset.trans (by decide) hL
    | with_reducible apply Kept.secComplete
    | split
    | intro _

theorem kept_execTapIdcode (h : Kept L s₀ s) (hL : [.dbg, .answer] ⊆ L)
    (e : execTapIdcode s = .next t) : Kept L s₀ t := by
  unfold execTapIdcode at e
  refine Kept.of_next ?_ e
  repeat' first
    | with_reducible assumption
    | exact List.Subset.trans (by decide) hL
    | with_reducible apply Kept.tapIdcode
    | split
    | intro _

theorem kept_execTapBypass (h : Kept L s₀ s) (hL : [.dbg] ⊆ L)
    (e : execTapBypass s = .next t) : Kept L s₀ t := by
  unfold execTapBypass at e
  refine Kept.of_next ?_ e
  repeat' first
    | with_reducible assumption
    | exact List.Subset.trans (by decide) hL
    | with_reducible apply Kept.tapBypass
    | split
    | intro _

theorem kept_execTapChal (h : Kept L s₀ s) (hL : [.dbg, .answer] ⊆ L) (word : Fin 4)
    (e : execTapChal word s = .next t) : Kept L s₀ t := by
  unfold execTapChal at e
  refine Kept.of_next ?_ e
  repeat' first
    | with_reducible assumption
    | exact List.Subset.trans (by decide) hL
    | with_reducible apply Kept.tapChal
    | split
    | intro _

theorem kept_execTapUnlock (h : Kept L s₀ s) (hL : [.regs, .pushes, .coll, .sec, .dbg] ⊆ L) (token : List Word)
    (e : execTapUnlock token s = .next t) : Kept L s₀ t := by
  unfold execTapUnlock at e
  refine Kept.of_next ?_ e
  repeat' first
    | with_reducible assumption
    | exact List.Subset.trans (by decide) hL
    | with_reducible apply Kept.tapUnlock
    | split
    | intro _

theorem kept_execDebugLevelLower (h : Kept L s₀ s) (hL : [.regs, .pushes, .loops, .sup, .dbg] ⊆ L) (level : Fin 4)
    (e : execDebugLevelLower level s = .next t) : Kept L s₀ t := by
  unfold execDebugLevelLower at e
  refine Kept.of_next ?_ e
  repeat' first
    | with_reducible assumption
    | exact List.Subset.trans (by decide) hL
    | with_reducible apply Kept.lowerLevel
    | split
    | intro _

theorem kept_execLeDebugSnapshot (h : Kept L s₀ s) (hL : [.engines] ⊆ L) (loop : Fin 64)
    (e : execLeDebugSnapshot loop s = .next t) : Kept L s₀ t := by
  unfold execLeDebugSnapshot at e
  refine Kept.of_next ?_ e
  repeat' first
    | with_reducible assumption
    | exact List.Subset.trans (by decide) hL
    | with_reducible apply Kept.debugSnapshot
    | split
    | intro _

theorem kept_execLeDebugHold (h : Kept L s₀ s) (hL : [.loops] ⊆ L) (loop : Fin 64) (on : Bool)
    (e : execLeDebugHold loop on s = .next t) : Kept L s₀ t := by
  unfold execLeDebugHold at e
  refine Kept.of_next ?_ e
  repeat' first
    | with_reducible assumption
    | exact List.Subset.trans (by decide) hL
    | with_reducible apply Kept.debugHold
    | split
    | intro _

theorem kept_execDebugSessionStart (h : Kept L s₀ s) (hL : [.regs, .pushes, .coll] ⊆ L) (mod : Fin 6)
    (e : execDebugSessionStart mod s = .next t) : Kept L s₀ t := by
  unfold execDebugSessionStart at e
  refine Kept.of_next ?_ e
  repeat' first
    | with_reducible assumption
    | exact List.Subset.trans (by decide) hL
    | with_reducible apply Kept.sessionStart
    | split
    | intro _

theorem kept_execDebugSessionEnd (h : Kept L s₀ s) (hL : [.regs, .pushes, .dbg] ⊆ L) (mod : Fin 6)
    (e : execDebugSessionEnd mod s = .next t) : Kept L s₀ t := by
  unfold execDebugSessionEnd at e
  refine Kept.of_next ?_ e
  repeat' first
    | with_reducible assumption
    | exact List.Subset.trans (by decide) hL
    | with_reducible apply Kept.sessionEnd
    | split
    | intro _

theorem kept_execDebugResume (h : Kept L s₀ s) (hL : [.sup, .dbg] ⊆ L) (mod : Fin 5) (step : Bool)
    (e : execDebugResume mod step s = .next t) : Kept L s₀ t := by
  unfold execDebugResume at e
  refine Kept.of_next ?_ e
  repeat' first
    | with_reducible assumption
    | exact List.Subset.trans (by decide) hL
    | with_reducible apply Kept.debugResume
    | split
    | intro _

theorem kept_execTapExtest (h : Kept L s₀ s) (hL : [.dbg] ⊆ L) (bits : Nat)
    (e : execTapExtest bits s = .next t) : Kept L s₀ t := by
  unfold execTapExtest at e
  refine Kept.of_next ?_ e
  repeat' first
    | with_reducible assumption
    | exact List.Subset.trans (by decide) hL
    | with_reducible apply Kept.tapExtest
    | split
    | intro _

theorem kept_execTapSample (h : Kept L s₀ s) (hL : [.dbg] ⊆ L) (levels : Nat)
    (e : execTapSample levels s = .next t) : Kept L s₀ t := by
  unfold execTapSample at e
  refine Kept.of_next ?_ e
  repeat' first
    | with_reducible assumption
    | exact List.Subset.trans (by decide) hL
    | with_reducible apply Kept.tapSample
    | split
    | intro _

theorem kept_execStageSampleInstant (h : Kept L s₀ s) (hL : [.regs, .pushes, .coll, .guards, .chans, .stages, .sto] ⊆ L) (stage : Fin 10) (set : Fin 2) (crossing : Option Word)
    (e : execStageSampleInstant stage set crossing s = .next t) : Kept L s₀ t := by
  unfold execStageSampleInstant at e
  refine Kept.of_next ?_ e
  repeat' first
    | with_reducible assumption
    | exact List.Subset.trans (by decide) hL
    | with_reducible apply Kept.stageSample
    | split
    | intro _

theorem kept_execStagePeriodStart (h : Kept L s₀ s) (hL : [.regs, .pushes, .coll, .guards, .chans, .stages] ⊆ L) (stage : Fin 10) (set : Fin 2)
    (e : execStagePeriodStart stage set s = .next t) : Kept L s₀ t := by
  unfold execStagePeriodStart at e
  refine Kept.of_next ?_ e
  repeat' first
    | with_reducible assumption
    | exact List.Subset.trans (by decide) hL
    | with_reducible apply Kept.periodStart
    | split
    | intro _

theorem kept_execSpeedRuleTransition (h : Kept L s₀ s) (hL : [.regs, .pushes, .coll, .guards, .chans, .stages] ⊆ L) (stage : Fin 2)
    (e : execSpeedRuleTransition stage s = .next t) : Kept L s₀ t := by
  unfold execSpeedRuleTransition at e
  refine Kept.of_next ?_ e
  repeat' first
    | with_reducible assumption
    | exact List.Subset.trans (by decide) hL
    | with_reducible apply Kept.speedRule
    | split
    | intro _

theorem kept_execCatchTimeout (h : Kept L s₀ s) (hL : [.regs, .pushes, .coll, .guards, .chans, .stages] ⊆ L) (stage : Fin 2)
    (e : execCatchTimeout stage s = .next t) : Kept L s₀ t := by
  unfold execCatchTimeout at e
  refine Kept.of_next ?_ e
  repeat' first
    | with_reducible assumption
    | exact List.Subset.trans (by decide) hL
    | with_reducible apply Kept.catchTimeout
    | split
    | intro _

theorem kept_execPositionLost (h : Kept L s₀ s) (hL : [.regs, .pushes, .coll, .stages] ⊆ L) (stage : Fin 2)
    (e : execPositionLost stage s = .next t) : Kept L s₀ t := by
  unfold execPositionLost at e
  refine Kept.of_next ?_ e
  repeat' first
    | with_reducible assumption
    | exact List.Subset.trans (by decide) hL
    | with_reducible apply Kept.positionLost
    | split
    | intro _

theorem kept_execLossRampEnd (h : Kept L s₀ s) (hL : [.regs, .pushes, .coll, .guards, .chans, .stages] ⊆ L) (stage : Fin 2)
    (e : execLossRampEnd stage s = .next t) : Kept L s₀ t := by
  unfold execLossRampEnd at e
  refine Kept.of_next ?_ e
  repeat' first
    | with_reducible assumption
    | exact List.Subset.trans (by decide) hL
    | with_reducible apply Kept.lossRampEnd
    | split
    | intro _

theorem kept_execTqStaleTimeout (h : Kept L s₀ s) (hL : [.coll, .stages] ⊆ L) (stage : Fin 2)
    (e : execTqStaleTimeout stage s = .next t) : Kept L s₀ t := by
  unfold execTqStaleTimeout at e
  refine Kept.of_next ?_ e
  repeat' first
    | with_reducible assumption
    | exact List.Subset.trans (by decide) hL
    | with_reducible apply Kept.tqStaleTimeout
    | split
    | intro _

theorem kept_execReactionEnd (h : Kept L s₀ s) (hL : [.regs, .pushes, .guards, .chans, .stages] ⊆ L) (stage : Fin 2)
    (e : execReactionEnd stage s = .next t) : Kept L s₀ t := by
  unfold execReactionEnd at e
  refine Kept.of_next ?_ e
  repeat' first
    | with_reducible assumption
    | exact List.Subset.trans (by decide) hL
    | with_reducible apply Kept.reactionEnd
    | split
    | intro _

theorem kept_execDelayEnd (h : Kept L s₀ s) (hL : [.regs, .pushes, .guards, .chans, .stages] ⊆ L) (stage : Fin 10)
    (e : execDelayEnd stage s = .next t) : Kept L s₀ t := by
  unfold execDelayEnd at e
  refine Kept.of_next ?_ e
  repeat' first
    | with_reducible assumption
    | exact List.Subset.trans (by decide) hL
    | with_reducible apply Kept.delayEnd
    | split
    | intro _

theorem kept_execStartTimeout (h : Kept L s₀ s) (hL : [.regs, .pushes, .coll, .guards, .chans, .stages] ⊆ L) (stage : Fin 10)
    (e : execStartTimeout stage s = .next t) : Kept L s₀ t := by
  unfold execStartTimeout at e
  refine Kept.of_next ?_ e
  repeat' first
    | with_reducible assumption
    | exact List.Subset.trans (by decide) hL
    | with_reducible apply Kept.startTimeout
    | split
    | intro _

theorem kept_execStopDelayEnd (h : Kept L s₀ s) (hL : [.regs, .pushes, .guards, .chans, .stages] ⊆ L) (stage : Fin 10)
    (e : execStopDelayEnd stage s = .next t) : Kept L s₀ t := by
  unfold execStopDelayEnd at e
  refine Kept.of_next ?_ e
  repeat' first
    | with_reducible assumption
    | exact List.Subset.trans (by decide) hL
    | with_reducible apply Kept.stopDelayEnd
    | split
    | intro _

theorem kept_execGridZeroCrossing (h : Kept L s₀ s) (hL : [.regs, .pushes, .coll, .guards, .chans, .stages] ⊆ L) (rms : List Word) (irms : List Word) (vpk : Word)
    (e : execGridZeroCrossing rms irms vpk s = .next t) : Kept L s₀ t := by
  unfold execGridZeroCrossing at e
  refine Kept.of_next ?_ e
  repeat' first
    | with_reducible assumption
    | exact List.Subset.trans (by decide) hL
    | with_reducible apply Kept.gridCrossing
    | split
    | intro _

theorem kept_execGridLoss (h : Kept L s₀ s) (hL : [.regs, .pushes, .coll, .guards, .chans, .stages] ⊆ L)
    (e : execGridLoss s = .next t) : Kept L s₀ t := by
  unfold execGridLoss at e
  refine Kept.of_next ?_ e
  repeat' first
    | with_reducible assumption
    | exact List.Subset.trans (by decide) hL
    | with_reducible apply Kept.gridLoss
    | split
    | intro _

theorem kept_execPilotPeriodDecode (h : Kept L s₀ s) (hL : [.regs, .pushes, .coll, .guards, .chans, .stages, .pilot] ⊆ L) (high : Option Word) (low : Option Word) (edges : Bool) (period : Nat) (highTime : Nat)
    (e : execPilotPeriodDecode high low edges period highTime s = .next t) : Kept L s₀ t := by
  unfold execPilotPeriodDecode at e
  refine Kept.of_next ?_ e
  repeat' first
    | with_reducible assumption
    | exact List.Subset.trans (by decide) hL
    | with_reducible apply Kept.pilotPeriod
    | split
    | intro _

theorem kept_execProximityMeasurement (h : Kept L s₀ s) (hL : [.regs, .pushes, .coll, .guards, .chans, .stages, .pilot] ⊆ L) (vpp : Word) (v33 : Word)
    (e : execProximityMeasurement vpp v33 s = .next t) : Kept L s₀ t := by
  unfold execProximityMeasurement at e
  refine Kept.of_next ?_ e
  repeat' first
    | with_reducible assumption
    | exact List.Subset.trans (by decide) hL
    | with_reducible apply Kept.proximity
    | split
    | intro _

theorem kept_execStaleCommandTimeout (h : Kept L s₀ s) (hL : [.regs, .pushes, .coll, .guards, .chans, .stages] ⊆ L) (stage : Fin 10)
    (e : execStaleCommandTimeout stage s = .next t) : Kept L s₀ t := by
  unfold execStaleCommandTimeout at e
  refine Kept.of_next ?_ e
  repeat' first
    | with_reducible assumption
    | exact List.Subset.trans (by decide) hL
    | with_reducible apply Kept.staleCommand
    | split
    | intro _

theorem kept_execCrowbarFire (h : Kept L s₀ s) (hL : [.regs, .pushes, .coll, .guards, .chans, .stages] ⊆ L)
    (e : execCrowbarFire s = .next t) : Kept L s₀ t := by
  unfold execCrowbarFire at e
  refine Kept.of_next ?_ e
  repeat' first
    | with_reducible assumption
    | exact List.Subset.trans (by decide) hL
    | with_reducible apply Kept.crowbarFire
    | split
    | intro _

theorem kept_execCrowbarClear (h : Kept L s₀ s) (hL : [.regs, .pushes, .coll, .guards, .chans, .stages] ⊆ L) (below : Bool)
    (e : execCrowbarClear below s = .next t) : Kept L s₀ t := by
  unfold execCrowbarClear at e
  refine Kept.of_next ?_ e
  repeat' first
    | with_reducible assumption
    | exact List.Subset.trans (by decide) hL
    | with_reducible apply Kept.crowbarClear
    | split
    | intro _

theorem kept_execActuationSpeedTimeout (h : Kept L s₀ s) (hL : [.regs, .pushes] ⊆ L) (stage : Fin 10)
    (e : execActuationSpeedTimeout stage s = .next t) : Kept L s₀ t := by
  unfold execActuationSpeedTimeout at e
  refine Kept.of_next ?_ e
  repeat' first
    | with_reducible assumption
    | exact List.Subset.trans (by decide) hL
    | with_reducible apply Kept.actSpeedTimeout
    | split
    | intro _

theorem kept_execActuationStopTimeout (h : Kept L s₀ s) (hL : [.regs, .pushes, .guards, .chans, .stages] ⊆ L) (stage : Fin 10)
    (e : execActuationStopTimeout stage s = .next t) : Kept L s₀ t := by
  unfold execActuationStopTimeout at e
  refine Kept.of_next ?_ e
  repeat' first
    | with_reducible assumption
    | exact List.Subset.trans (by decide) hL
    | with_reducible apply Kept.actStopTimeout
    | split
    | intro _

theorem kept_execCurveEvaluation (h : Kept L s₀ s) (hL : [.regs, .pushes, .chk, .fresh, .coll, .guards, .chans, .stages] ⊆ L) (stage : Fin 10)
    (e : execCurveEvaluation stage s = .next t) : Kept L s₀ t := by
  unfold execCurveEvaluation at e
  refine Kept.of_next ?_ e
  repeat' first
    | with_reducible assumption
    | exact List.Subset.trans (by decide) hL
    | with_reducible apply Kept.curveInstant
    | split
    | intro _

theorem kept_execStoOpen (h : Kept L s₀ s) (hL : [.regs, .pushes, .coll, .guards, .chans, .stages, .sto] ⊆ L) (cause : Fin 8)
    (e : execStoOpen cause s = .next t) : Kept L s₀ t := by
  unfold execStoOpen at e
  refine Kept.of_next ?_ e
  repeat' first
    | with_reducible assumption
    | exact List.Subset.trans (by decide) hL
    | with_reducible apply Kept.openSto
    | split
    | intro _

theorem kept_execStoOpenCommand (h : Kept L s₀ s) (hL : [.regs, .pushes, .coll, .guards, .chans, .stages, .sto] ⊆ L)
    (e : execStoOpenCommand s = .next t) : Kept L s₀ t := by
  unfold execStoOpenCommand at e
  refine Kept.of_next ?_ e
  repeat' first
    | with_reducible assumption
    | exact List.Subset.trans (by decide) hL
    | with_reducible apply Kept.openSto
    | split
    | intro _

theorem kept_execStoCloseCommand (h : Kept L s₀ s) (hL : [.regs, .pushes, .coll, .sto] ⊆ L)
    (e : execStoCloseCommand s = .next t) : Kept L s₀ t := by
  unfold execStoCloseCommand at e
  refine Kept.of_next ?_ e
  repeat' first
    | with_reducible assumption
    | exact List.Subset.trans (by decide) hL
    | with_reducible apply Kept.closeSto
    | split
    | intro _

theorem kept_execStoHsClose (h : Kept L s₀ s) (hL : [.regs, .pushes, .sto] ⊆ L)
    (e : execStoHsClose s = .next t) : Kept L s₀ t := by
  unfold execStoHsClose at e
  refine Kept.of_next ?_ e
  repeat' first
    | with_reducible assumption
    | exact List.Subset.trans (by decide) hL
    | with_reducible apply Kept.closeHs
    | split
    | intro _

theorem kept_execStoReadbackCheck (h : Kept L s₀ s) (hL : [.regs, .pushes, .coll, .guards, .chans, .stages, .sto] ⊆ L) (band : Fin 4)
    (e : execStoReadbackCheck band s = .next t) : Kept L s₀ t := by
  unfold execStoReadbackCheck at e
  refine Kept.of_next ?_ e
  repeat' first
    | with_reducible assumption
    | exact List.Subset.trans (by decide) hL
    | with_reducible apply Kept.readback
    | split
    | intro _

theorem kept_execStoTestPulse (h : Kept L s₀ s) (hL : [.regs, .pushes, .sto] ⊆ L) (path : Fin 4)
    (e : execStoTestPulse path s = .next t) : Kept L s₀ t := by
  unfold execStoTestPulse at e
  refine Kept.of_next ?_ e
  repeat' first
    | with_reducible assumption
    | exact List.Subset.trans (by decide) hL
    | with_reducible apply Kept.testPulse
    | split
    | intro _

theorem kept_execStoTestPulseEnd (h : Kept L s₀ s) (hL : [.regs, .pushes, .coll, .guards, .chans, .stages, .sto] ⊆ L) (opened : Bool) (reclosed : Bool)
    (e : execStoTestPulseEnd opened reclosed s = .next t) : Kept L s₀ t := by
  unfold execStoTestPulseEnd at e
  refine Kept.of_next ?_ e
  repeat' first
    | with_reducible assumption
    | exact List.Subset.trans (by decide) hL
    | with_reducible apply Kept.testPulseEnd
    | split
    | intro _

theorem kept_execSafeStopDemand (h : Kept L s₀ s) (hL : [.regs, .pushes, .coll, .guards, .chans, .stages] ⊆ L) (stage : Fin 2)
    (e : execSafeStopDemand stage s = .next t) : Kept L s₀ t := by
  unfold execSafeStopDemand at e
  refine Kept.of_next ?_ e
  repeat' first
    | with_reducible assumption
    | exact List.Subset.trans (by decide) hL
    | with_reducible apply Kept.safeStopDemand
    | split
    | intro _

theorem kept_execPlausibilityCheck (h : Kept L s₀ s) (hL : [.regs, .pushes, .coll, .sup, .guards, .chans, .stages, .sto] ⊆ L) (stage : Fin 10) (bad : Nat)
    (e : execPlausibilityCheck stage bad s = .next t) : Kept L s₀ t := by
  unfold execPlausibilityCheck at e
  refine Kept.of_next ?_ e
  repeat' first
    | with_reducible assumption
    | exact List.Subset.trans (by decide) hL
    | with_reducible apply Kept.plausibility
    | split
    | intro _

theorem kept_execHookTimeLimit (h : Kept L s₀ s) (hL : [.coll, .sup] ⊆ L)
    (e : execHookTimeLimit s = .next t) : Kept L s₀ t := by
  unfold execHookTimeLimit at e
  refine Kept.of_next ?_ e
  repeat' first
    | with_reducible assumption
    | exact List.Subset.trans (by decide) hL
    | with_reducible apply Kept.hookLimit
    | split
    | intro _

theorem kept_execVotedWrite (h : Kept L s₀ s) (hL : [.regs, .staged, .marks, .pushes, .ledger, .mem, .chk, .fresh, .polders, .drainQ, .coll, .tp, .hif, .commit, .engines, .loops, .slotShadows, .sup, .trl, .guards, .chans, .stages, .pilot, .samples, .waitingSeqs, .convs, .tdac, .sdFrom, .resolvers, .enc, .ifc, .syn, .sec, .dbg, .pwr, .sto, .wd] ⊆ L) (core : Fin 3) (addr : BitVec 32) (size : Nat) (be : Nat) (data : Word)
    (e : execVotedWrite core addr size be data s = .next t) : Kept L s₀ t := by
  unfold execVotedWrite at e
  refine Kept.of_settle ?_ e
  repeat' first
    | with_reducible assumption
    | exact List.Subset.trans (by decide) hL
    | exact OptAll.none
    | with_reducible apply OptAll.some
    | with_reducible apply Kept.votedWrite
    | split
    | intro _

theorem kept_execVoteLagTimeout (h : Kept L s₀ s) (hL : [.regs, .staged, .marks, .pushes, .ledger, .mem, .chk, .fresh, .polders, .drainQ, .coll, .tp, .hif, .commit, .engines, .loops, .slotShadows, .sup, .trl, .guards, .chans, .stages, .pilot, .samples, .waitingSeqs, .convs, .tdac, .sdFrom, .resolvers, .enc, .ifc, .syn, .sec, .dbg, .pwr, .sto, .wd, .answer] ⊆ L) (core : Fin 3)
    (e : execVoteLagTimeout core s = .next t) : Kept L s₀ t := by
  unfold execVoteLagTimeout at e
  refine Kept.of_settle ?_ e
  repeat' first
    | with_reducible assumption
    | exact List.Subset.trans (by decide) hL
    | exact OptAll.none
    | with_reducible apply OptAll.some
    | with_reducible apply Kept.voteLag
    | split
    | intro _

theorem kept_execResyncComplete (h : Kept L s₀ s) (hL : [.regs, .pushes, .mem, .chk, .polders, .coll, .sup] ⊆ L) (core : Fin 3)
    (e : execResyncComplete core s = .next t) : Kept L s₀ t := by
  unfold execResyncComplete at e
  refine Kept.of_next ?_ e
  repeat' first
    | with_reducible assumption
    | exact List.Subset.trans (by decide) hL
    | with_reducible apply Kept.resyncComplete
    | split
    | intro _

theorem kept_execStateDigest (h : Kept L s₀ s) (hL : [.regs, .pushes, .polders, .drainQ, .coll, .sup, .guards, .chans, .stages, .sto] ⊆ L) (core : Fin 3) (value : BitVec 64)
    (e : execStateDigest core value s = .next t) : Kept L s₀ t := by
  unfold execStateDigest at e
  refine Kept.of_next ?_ e
  repeat' first
    | with_reducible assumption
    | exact List.Subset.trans (by decide) hL
    | with_reducible apply Kept.stateDigest
    | split
    | intro _

theorem kept_execAgreementAccess (h : Kept L s₀ s) (hL : [.regs, .pushes, .mem, .chk, .fresh, .polders, .drainQ, .coll, .tp, .engines, .loops, .slotShadows, .sup, .trl, .guards, .chans, .stages, .sto, .answer] ⊆ L) (core : Fin 3) (addr : BitVec 32) (sample : Word)
    (e : execAgreementAccess core addr sample s = .next t) : Kept L s₀ t := by
  unfold execAgreementAccess at e
  refine Kept.of_settle ?_ e
  repeat' first
    | with_reducible assumption
    | exact List.Subset.trans (by decide) hL
    | exact OptAll.none
    | with_reducible apply OptAll.some
    | with_reducible apply Kept.agreementAccess
    | split
    | intro _

theorem kept_execLockstepMismatch (h : Kept L s₀ s) (hL : [.regs, .pushes, .polders, .coll, .sup, .wd] ⊆ L)
    (e : execLockstepMismatch s = .next t) : Kept L s₀ t := by
  unfold execLockstepMismatch at e
  refine Kept.of_next ?_ e
  repeat' first
    | with_reducible assumption
    | exact List.Subset.trans (by decide) hL
    | with_reducible apply Kept.lockstepMismatch
    | split
    | intro _

theorem kept_execLockstepRecoveryComplete (h : Kept L s₀ s) (hL : [.regs, .pushes, .polders, .sup, .wd] ⊆ L) (seq : Nat)
    (e : execLockstepRecoveryComplete seq s = .next t) : Kept L s₀ t := by
  unfold execLockstepRecoveryComplete at e
  refine Kept.of_next ?_ e
  repeat' first
    | with_reducible assumption
    | exact List.Subset.trans (by decide) hL
    | with_reducible apply Kept.recoveryComplete
    | split
    | intro _

theorem kept_execLockstepRecoveryTimeout (h : Kept L s₀ s) (hL : [.regs, .pushes, .coll, .sup, .guards, .chans, .stages, .sto] ⊆ L)
    (e : execLockstepRecoveryTimeout s = .next t) : Kept L s₀ t := by
  unfold execLockstepRecoveryTimeout at e
  refine Kept.of_next ?_ e
  repeat' first
    | with_reducible assumption
    | exact List.Subset.trans (by decide) hL
    | with_reducible apply Kept.recoveryTimeout
    | split
    | intro _

theorem kept_execDebugHalt (h : Kept L s₀ s) (hL : [.regs, .pushes, .coll, .sup, .guards, .chans, .stages, .dbg] ⊆ L) (mod : Fin 5)
    (e : execDebugHalt mod s = .next t) : Kept L s₀ t := by
  unfold execDebugHalt at e
  refine Kept.of_next ?_ e
  repeat' first
    | with_reducible assumption
    | exact List.Subset.trans (by decide) hL
    | with_reducible apply Kept.debugHalt
    | split
    | intro _

theorem kept_execDebugBreak (h : Kept L s₀ s) (hL : [.regs, .pushes, .coll, .sup, .guards, .chans, .stages] ⊆ L)
    (e : execDebugBreak s = .next t) : Kept L s₀ t := by
  unfold execDebugBreak at e
  refine Kept.of_next ?_ e
  repeat' first
    | with_reducible assumption
    | exact List.Subset.trans (by decide) hL
    | with_reducible apply Kept.debugBreak
    | split
    | intro _

theorem kept_execDebugAbstractCommand (h : Kept L s₀ s) (hL : [.regs, .staged, .marks, .pushes, .ledger, .mem, .chk, .fresh, .polders, .drainQ, .coll, .tp, .hif, .commit, .engines, .loops, .slotShadows, .sup, .trl, .guards, .chans, .stages, .pilot, .samples, .waitingSeqs, .convs, .tdac, .sdFrom, .resolvers, .enc, .ifc, .syn, .sec, .dbg, .pwr, .sto, .wd, .answer] ⊆ L) (mod : Fin 5) (bus : Bool) (write : Bool) (addr : BitVec 32) (size : Nat) (data : Word)
    (e : execDebugAbstractCommand mod bus write addr size data s = .next t) : Kept L s₀ t := by
  unfold execDebugAbstractCommand at e
  refine Kept.of_settle ?_ e
  repeat' first
    | with_reducible assumption
    | exact List.Subset.trans (by decide) hL
    | exact OptAll.none
    | with_reducible apply OptAll.some
    | with_reducible apply Kept.debugCommand
    | split
    | intro _

theorem kept_execHeartbeatWrite (h : Kept L s₀ s) (hL : [.regs, .pushes, .wd] ⊆ L) (seq : BitVec 32)
    (e : execHeartbeatWrite seq s = .next t) : Kept L s₀ t := by
  unfold execHeartbeatWrite at e
  refine Kept.of_next ?_ e
  repeat' first
    | with_reducible assumption
    | exact List.Subset.trans (by decide) hL
    | with_reducible apply Kept.heartbeatRow
    | split
    | intro _

theorem kept_execHeartbeatWarn (h : Kept L s₀ s) (hL : [.regs, .pushes, .wd] ⊆ L)
    (e : execHeartbeatWarn s = .next t) : Kept L s₀ t := by
  unfold execHeartbeatWarn at e
  refine Kept.of_next ?_ e
  repeat' first
    | with_reducible assumption
    | exact List.Subset.trans (by decide) hL
    | with_reducible apply Kept.heartbeatWarn
    | split
    | intro _

theorem kept_execHeartbeatLoss (h : Kept L s₀ s) (hL : [.regs, .pushes, .coll, .guards, .chans, .stages, .sto, .wd] ⊆ L)
    (e : execHeartbeatLoss s = .next t) : Kept L s₀ t := by
  unfold execHeartbeatLoss at e
  refine Kept.of_next ?_ e
  repeat' first
    | with_reducible assumption
    | exact List.Subset.trans (by decide) hL
    | with_reducible apply Kept.heartbeatLoss
    | split
    | intro _

theorem kept_execWatchdogResetDelay (h : Kept L s₀ s) (hL : [.regs, .staged, .marks, .pushes, .ledger, .mem, .chk, .polders, .drainQ, .coll, .tp, .hif, .commit, .engines, .loops, .slotShadows, .sup, .trl, .guards, .chans, .stages, .pilot, .samples, .waitingSeqs, .convs, .tdac, .sdFrom, .resolvers, .enc, .ifc, .syn, .sec, .dbg, .pwr, .sto, .wd] ⊆ L)
    (e : execWatchdogResetDelay s = .next t) : Kept L s₀ t := by
  unfold execWatchdogResetDelay at e
  refine Kept.of_next ?_ e
  repeat' first
    | with_reducible assumption
    | exact List.Subset.trans (by decide) hL
    | with_reducible apply Kept.watchdogReset
    | split
    | intro _

theorem kept_execAppDrainRequest (h : Kept L s₀ s) (hL : [.regs, .pushes] ⊆ L) (core : Fin 3)
    (e : execAppDrainRequest core s = .next t) : Kept L s₀ t := by
  unfold execAppDrainRequest at e
  refine Kept.of_next ?_ e
  repeat' first
    | with_reducible assumption
    | exact List.Subset.trans (by decide) hL
    | with_reducible apply Kept.appRequest
    | split
    | intro _

theorem kept_execAppCoreDrain (h : Kept L s₀ s) (hL : [.regs, .pushes, .polders, .drainQ, .coll, .loops, .sup, .trl, .pilot] ⊆ L) (drain : Fin 8) (release : Fin 8)
    (e : execAppCoreDrain drain release s = .next t) : Kept L s₀ t := by
  unfold execAppCoreDrain at e
  refine Kept.of_next ?_ e
  repeat' first
    | with_reducible assumption
    | exact List.Subset.trans (by decide) hL
    | with_reducible apply Kept.appCtl
    | split
    | intro _

theorem kept_execAppCoreRelease (h : Kept L s₀ s) (hL : [.regs, .pushes, .polders, .drainQ, .coll, .loops, .sup, .trl, .pilot] ⊆ L) (drain : Fin 8) (release : Fin 8)
    (e : execAppCoreRelease drain release s = .next t) : Kept L s₀ t := by
  unfold execAppCoreRelease at e
  refine Kept.of_next ?_ e
  repeat' first
    | with_reducible assumption
    | exact List.Subset.trans (by decide) hL
    | with_reducible apply Kept.appCtl
    | split
    | intro _

theorem kept_execReadNowL (h : Kept L s₀ s) (hL : [.tp, .answer] ⊆ L) (port : Fin 5)
    (e : execReadNowL port s = .next t) : Kept L s₀ t := by
  unfold execReadNowL at e
  refine Kept.of_next ?_ e
  repeat' first
    | with_reducible assumption
    | exact List.Subset.trans (by decide) hL
    | with_reducible apply Kept.readNow
    | split
    | intro _

theorem kept_execInterpolatorRecalibration (h : Kept L s₀ s) (hL : [.coll, .tp] ⊆ L) (channel : Fin 256) (ok : Bool)
    (e : execInterpolatorRecalibration channel ok s = .next t) : Kept L s₀ t := by
  unfold execInterpolatorRecalibration at e
  refine Kept.of_next ?_ e
  repeat' first
    | with_reducible assumption
    | exact List.Subset.trans (by decide) hL
    | with_reducible apply Kept.recalibrate
    | split
    | intro _

theorem kept_execCrystalLoss (h : Kept L s₀ s) (hL : [.regs, .pushes, .tp] ⊆ L)
    (e : execCrystalLoss s = .next t) : Kept L s₀ t := by
  unfold execCrystalLoss at e
  refine Kept.of_next ?_ e
  repeat' first
    | with_reducible assumption
    | exact List.Subset.trans (by decide) hL
    | with_reducible apply Kept.crystalLoss
    | split
    | intro _

theorem kept_execSwitchoverComplete (h : Kept L s₀ s) (hL : [.regs, .pushes, .coll, .tp] ⊆ L)
    (e : execSwitchoverComplete s = .next t) : Kept L s₀ t := by
  unfold execSwitchoverComplete at e
  refine Kept.of_next ?_ e
  repeat' first
    | with_reducible assumption
    | exact List.Subset.trans (by decide) hL
    | with_reducible apply Kept.referenceSwitched
    | split
    | intro _

theorem kept_execCrystalReturnRequest (h : Kept L s₀ s) (hL : [.regs, .pushes, .tp] ⊆ L)
    (e : execCrystalReturnRequest s = .next t) : Kept L s₀ t := by
  unfold execCrystalReturnRequest at e
  refine Kept.of_next ?_ e
  repeat' first
    | with_reducible assumption
    | exact List.Subset.trans (by decide) hL
    | with_reducible apply Kept.returnRequest
    | split
    | intro _

theorem kept_execCrystalReturnComplete (h : Kept L s₀ s) (hL : [.regs, .pushes, .coll, .tp] ⊆ L)
    (e : execCrystalReturnComplete s = .next t) : Kept L s₀ t := by
  unfold execCrystalReturnComplete at e
  refine Kept.of_next ?_ e
  repeat' first
    | with_reducible assumption
    | exact List.Subset.trans (by decide) hL
    | with_reducible apply Kept.returnComplete
    | split
    | intro _

theorem kept_execXtalOkChange (h : Kept L s₀ s) (hL : [.regs, .pushes] ⊆ L) (ok : Bool)
    (e : execXtalOkChange ok s = .next t) : Kept L s₀ t := by
  unfold execXtalOkChange at e
  refine Kept.of_next ?_ e
  repeat' first
    | with_reducible assumption
    | exact List.Subset.trans (by decide) hL
    | with_reducible apply Kept.xtalOkChange
    | split
    | intro _

theorem kept_execDikeTickCheck (h : Kept L s₀ s) (hL : [.regs, .pushes, .coll, .tp, .guards, .chans, .stages, .sto] ⊆ L) (deviates : Bool) (refFails : Bool)
    (e : execDikeTickCheck deviates refFails s = .next t) : Kept L s₀ t := by
  unfold execDikeTickCheck at e
  refine Kept.of_next ?_ e
  repeat' first
    | with_reducible assumption
    | exact List.Subset.trans (by decide) hL
    | with_reducible apply Kept.tickCheck
    | split
    | intro _

end Sys2Proof.Machine
end

