-- ==== Sys2Proof/Laws/Registers.lean ====
section
/-! SUPPORT. Register words and fields: what is read after a write, of the word written and of every other. -/

namespace Sys2Proof.Machine

variable {s : State}

/-- Two words of the register file are one only where page and offset agree. -/
theorem regKey_inj {p q o o' : Nat} (ho : o < 0x2000000) (ho' : o' < 0x2000000) : regKey p o = regKey q o' ↔ p = q ∧ o = o' := by
  unfold regKey
  omega

theorem word_setWord_self (p o : Nat) (w : Word) : (s.setWord p o w).word p o = w :=
  tabGet_put_self regReset s.regs (regKey p o) w

theorem word_setWord_ne {p o q o' : Nat} (w : Word) (h : regKey q o' ≠ regKey p o) : (s.setWord p o w).word q o' = s.word q o' :=
  tabGet_put_ne regReset s.regs (regKey p o) (regKey q o') w h

theorem word_setWord_off {p o o' : Nat} (w : Word) (h : o' ≠ o) : (s.setWord p o w).word p o' = s.word p o' :=
  word_setWord_ne w (by unfold regKey; omega)

theorem word_setWord_page {p o q o' : Nat} (w : Word) (h : q ≠ p) (ho : o < 0x2000000) (ho' : o' < 0x2000000) :
    (s.setWord p o w).word q o' = s.word q o' :=
  word_setWord_ne w (by unfold regKey; omega)

theorem bitsAt_lt (w : Word) (lo n : Nat) : bitsAt w lo n < 2 ^ n := Nat.mod_lt _ (Nat.two_pow_pos n)

/-- A word is its bits above a field, the field, and its bits below. -/
theorem word_split (w : Word) (lo n : Nat) :
    w.toNat = w.toNat / 2 ^ (lo + n) * 2 ^ (lo + n) + bitsAt w lo n * 2 ^ lo + w.toNat % 2 ^ lo := by
  unfold bitsAt
  have h1 := Nat.div_add_mod w.toNat (2 ^ lo)
  have h2 := Nat.div_add_mod (w.toNat / 2 ^ lo) (2 ^ n)
  rw [Nat.div_div_eq_div_mul, ← Nat.pow_add] at h2
  generalize w.toNat / 2 ^ (lo + n) = a at *
  generalize w.toNat / 2 ^ lo % 2 ^ n = b at *
  rw [← h2] at h1
  rw [Nat.pow_add, ← h1]
  have hl : (2 ^ lo * (2 ^ n * a + b) + w.toNat % 2 ^ lo) % 2 ^ lo = w.toNat % 2 ^ lo := by rw [h1]
  rw [hl]
  ring

/-- The number that a word with a replaced field holds. -/
theorem withBits_toNat (w : Word) (lo n v : Nat) (h : lo + n ≤ 32) :
    (withBits w lo n v).toNat = w.toNat / 2 ^ (lo + n) * 2 ^ (lo + n) + v % 2 ^ n * 2 ^ lo + w.toNat % 2 ^ lo := by
  have hs := word_split w lo n
  have hv := Nat.mod_lt v (Nat.two_pow_pos n)
  have hw := w.isLt
  unfold withBits
  simp only [BitVec.toNat_ofNat]
  rw [Nat.mod_eq_of_lt]
  · omega
  · have hl := Nat.mod_lt w.toNat (Nat.two_pow_pos lo)
    have hk : w.toNat / 2 ^ (lo + n) < 2 ^ (32 - (lo + n)) := by
      rw [Nat.div_lt_iff_lt_mul (Nat.two_pow_pos _), ← Nat.pow_add]
      simpa [Nat.sub_add_cancel h] using hw
    have he : 2 ^ (32 - (lo + n)) * 2 ^ (lo + n) = 2 ^ 32 := by rw [← Nat.pow_add, Nat.sub_add_cancel h]
    have hp : 2 ^ (lo + n) = 2 ^ n * 2 ^ lo := by rw [Nat.add_comm, Nat.pow_add]
    have h3 : (w.toNat / 2 ^ (lo + n) + 1) * 2 ^ (lo + n) ≤ 2 ^ (32 - (lo + n)) * 2 ^ (lo + n) := Nat.mul_le_mul_right _ hk
    have h4 : (v % 2 ^ n + 1) * 2 ^ lo ≤ 2 ^ n * 2 ^ lo := Nat.mul_le_mul_right _ hv
    rw [Nat.add_mul] at h3 h4
    omega

/-- A field reads as the value written to it. -/
theorem bitsAt_withBits_self (w : Word) (lo n v : Nat) (h : lo + n ≤ 32) : bitsAt (withBits w lo n v) lo n = v % 2 ^ n := by
  rw [bitsAt, withBits_toNat w lo n v h]
  have hl := Nat.mod_lt w.toNat (Nat.two_pow_pos lo)
  have hp : 2 ^ (lo + n) = 2 ^ lo * 2 ^ n := Nat.pow_add 2 lo n
  generalize w.toNat / 2 ^ (lo + n) = a
  have : a * 2 ^ (lo + n) + v % 2 ^ n * 2 ^ lo + w.toNat % 2 ^ lo = w.toNat % 2 ^ lo + 2 ^ lo * (a * 2 ^ n + v % 2 ^ n) := by
    rw [hp]; ring
  rw [this, Nat.add_mul_div_left _ _ (Nat.two_pow_pos lo), Nat.div_eq_of_lt hl, Nat.zero_add, Nat.mul_comm, Nat.mul_add_mod,
    Nat.mod_mod]

/-- A field that lies apart from the one written keeps its value. -/
theorem bitsAt_withBits_ne (w : Word) (lo n v lo' n' : Nat) (h : lo + n ≤ 32) (hd : lo' + n' ≤ lo ∨ lo + n ≤ lo') :
    bitsAt (withBits w lo n v) lo' n' = bitsAt w lo' n' := by
  have hs := word_split w lo n
  rw [bitsAt, bitsAt, withBits_toNat w lo n v h]
  rcases hd with hd | hd
  · obtain ⟨d, rfl⟩ := Nat.exists_eq_add_of_le hd
    have e1 : 2 ^ (lo' + n' + d + n) = 2 ^ lo' * (2 ^ n' * (2 ^ d * 2 ^ n)) := by simp [Nat.pow_add, Nat.mul_assoc]
    have e2 : 2 ^ (lo' + n' + d) = 2 ^ lo' * (2 ^ n' * 2 ^ d) := by simp [Nat.pow_add, Nat.mul_assoc]
    have key : ∀ a b c : Nat, (a * 2 ^ (lo' + n' + d + n) + b * 2 ^ (lo' + n' + d) + c) / 2 ^ lo' % 2 ^ n' = c / 2 ^ lo' % 2 ^ n' := by
      intro a b c
      have : a * 2 ^ (lo' + n' + d + n) + b * 2 ^ (lo' + n' + d) + c
          = c + 2 ^ lo' * (2 ^ n' * (a * (2 ^ d * 2 ^ n) + b * 2 ^ d)) := by rw [e1, e2]; ring
      rw [this, Nat.add_mul_div_left _ _ (Nat.two_pow_pos lo'), Nat.add_mul_mod_self_left]
    rw [key]
    conv => rhs; rw [hs]
    rw [key]
  · have h1 : ∀ a b c : Nat, b < 2 ^ n → c < 2 ^ lo → (a * 2 ^ (lo + n) + b * 2 ^ lo + c) / 2 ^ lo' = a * 2 ^ (lo + n) / 2 ^ lo' := by
      intro a b c hb hc
      obtain ⟨d, rfl⟩ := Nat.exists_eq_add_of_le hd
      have hk := Nat.mul_le_mul_right (2 ^ lo) hb
      rw [Nat.succ_mul, ← Nat.pow_add, Nat.add_comm n lo] at hk
      have hq : (a * 2 ^ (lo + n) + b * 2 ^ lo + c) / 2 ^ (lo + n) = a := by
        rw [show a * 2 ^ (lo + n) + b * 2 ^ lo + c = b * 2 ^ lo + c + a * 2 ^ (lo + n) by omega,
          Nat.add_mul_div_right _ _ (Nat.two_pow_pos _), Nat.div_eq_of_lt (by omega), Nat.zero_add]
      rw [Nat.pow_add 2 (lo + n) d, ← Nat.div_div_eq_div_mul, ← Nat.div_div_eq_div_mul, hq,
        Nat.mul_div_cancel _ (Nat.two_pow_pos (lo + n))]
    rw [h1 _ _ _ (Nat.mod_lt _ (Nat.two_pow_pos n)) (Nat.mod_lt _ (Nat.two_pow_pos lo))]
    conv => rhs; rw [hs]
    rw [h1 _ _ _ (bitsAt_lt w lo n) (Nat.mod_lt _ (Nat.two_pow_pos lo))]

/-- A register field reads as the value written to it. -/
theorem rd_wr_self (p : Nat) (f : Field) (v : Nat) (h : f.lo + f.width ≤ 32) : (s.wr p f v).rd p f = v % 2 ^ f.width := by
  unfold State.rd State.wr
  rw [word_setWord_self, bitsAt_withBits_self _ _ _ _ h]

/-- A field of the same register that lies apart from the one written keeps its value. -/
theorem rd_wr_field (p : Nat) (f g : Field) (v : Nat) (h : f.lo + f.width ≤ 32) (ho : g.off = f.off)
    (hd : g.lo + g.width ≤ f.lo ∨ f.lo + f.width ≤ g.lo) : (s.wr p f v).rd p g = s.rd p g := by
  unfold State.rd State.wr
  rw [ho, word_setWord_self, bitsAt_withBits_ne _ _ _ _ _ _ h hd]

/-- A field of another register of the page keeps its value. -/
theorem rd_wr_off (p : Nat) (f g : Field) (v : Nat) (ho : g.off ≠ f.off) : (s.wr p f v).rd p g = s.rd p g := by
  unfold State.rd State.wr
  rw [word_setWord_off _ ho]

/-- A field of another page keeps its value. -/
theorem rd_wr_page (p q : Nat) (f g : Field) (v : Nat) (h : q ≠ p) (hf : f.off < 0x2000000) (hg : g.off < 0x2000000) :
    (s.wr p f v).rd q g = s.rd q g := by
  unfold State.rd State.wr
  rw [word_setWord_page _ h hf hg]

/-- A one-bit field reads as the bit written to it. -/
theorem rdB_wrB_self (p : Nat) (f : Field) (b : Bool) (h : f.lo + f.width ≤ 32) (h1 : f.width = 1) : (s.wrB p f b).rdB p f = b := by
  unfold State.rdB State.wrB
  rw [rd_wr_self p f _ h, h1]
  cases b <;> rfl

end Sys2Proof.Machine
end

