-- ==== Sys2Proof/Laws/State.lean ====
section
/-! SUPPORT. What each update of the state leaves as it is: one lemma per field and update. -/

namespace Sys2Proof.Machine

variable (s : State)

@[simp] theorem setWord_staged (p off : Nat) (w : Word) : (s.setWord p off w).staged = s.staged := by unfold State.setWord; rfl
@[simp] theorem setWord_marks (p off : Nat) (w : Word) : (s.setWord p off w).marks = s.marks := by unfold State.setWord; rfl
@[simp] theorem setWord_ledger (p off : Nat) (w : Word) : (s.setWord p off w).ledger = s.ledger := by unfold State.setWord; rfl
@[simp] theorem setWord_mem (p off : Nat) (w : Word) : (s.setWord p off w).mem = s.mem := by unfold State.setWord; rfl
@[simp] theorem setWord_chk (p off : Nat) (w : Word) : (s.setWord p off w).chk = s.chk := by unfold State.setWord; rfl
@[simp] theorem setWord_now (p off : Nat) (w : Word) : (s.setWord p off w).now = s.now := by unfold State.setWord; rfl
@[simp] theorem setWord_fresh (p off : Nat) (w : Word) : (s.setWord p off w).fresh = s.fresh := by unfold State.setWord; rfl
@[simp] theorem setWord_polders (p off : Nat) (w : Word) : (s.setWord p off w).polders = s.polders := by unfold State.setWord; rfl
@[simp] theorem setWord_drainQ (p off : Nat) (w : Word) : (s.setWord p off w).drainQ = s.drainQ := by unfold State.setWord; rfl
@[simp] theorem setWord_coll (p off : Nat) (w : Word) : (s.setWord p off w).coll = s.coll := by unfold State.setWord; rfl
@[simp] theorem setWord_tp (p off : Nat) (w : Word) : (s.setWord p off w).tp = s.tp := by unfold State.setWord; rfl
@[simp] theorem setWord_hif (p off : Nat) (w : Word) : (s.setWord p off w).hif = s.hif := by unfold State.setWord; rfl
@[simp] theorem setWord_commit (p off : Nat) (w : Word) : (s.setWord p off w).commit = s.commit := by unfold State.setWord; rfl
@[simp] theorem setWord_engines (p off : Nat) (w : Word) : (s.setWord p off w).engines = s.engines := by unfold State.setWord; rfl
@[simp] theorem setWord_loops (p off : Nat) (w : Word) : (s.setWord p off w).loops = s.loops := by unfold State.setWord; rfl
@[simp] theorem setWord_slotShadows (p off : Nat) (w : Word) : (s.setWord p off w).slotShadows = s.slotShadows := by unfold State.setWord; rfl
@[simp] theorem setWord_sup (p off : Nat) (w : Word) : (s.setWord p off w).sup = s.sup := by unfold State.setWord; rfl
@[simp] theorem setWord_trl (p off : Nat) (w : Word) : (s.setWord p off w).trl = s.trl := by unfold State.setWord; rfl
@[simp] theorem setWord_guards (p off : Nat) (w : Word) : (s.setWord p off w).guards = s.guards := by unfold State.setWord; rfl
@[simp] theorem setWord_chans (p off : Nat) (w : Word) : (s.setWord p off w).chans = s.chans := by unfold State.setWord; rfl
@[simp] theorem setWord_stages (p off : Nat) (w : Word) : (s.setWord p off w).stages = s.stages := by unfold State.setWord; rfl
@[simp] theorem setWord_pilot (p off : Nat) (w : Word) : (s.setWord p off w).pilot = s.pilot := by unfold State.setWord; rfl
@[simp] theorem setWord_samples (p off : Nat) (w : Word) : (s.setWord p off w).samples = s.samples := by unfold State.setWord; rfl
@[simp] theorem setWord_waitingSeqs (p off : Nat) (w : Word) : (s.setWord p off w).waitingSeqs = s.waitingSeqs := by unfold State.setWord; rfl
@[simp] theorem setWord_convs (p off : Nat) (w : Word) : (s.setWord p off w).convs = s.convs := by unfold State.setWord; rfl
@[simp] theorem setWord_tdac (p off : Nat) (w : Word) : (s.setWord p off w).tdac = s.tdac := by unfold State.setWord; rfl
@[simp] theorem setWord_sdFrom (p off : Nat) (w : Word) : (s.setWord p off w).sdFrom = s.sdFrom := by unfold State.setWord; rfl
@[simp] theorem setWord_resolvers (p off : Nat) (w : Word) : (s.setWord p off w).resolvers = s.resolvers := by unfold State.setWord; rfl
@[simp] theorem setWord_enc (p off : Nat) (w : Word) : (s.setWord p off w).enc = s.enc := by unfold State.setWord; rfl
@[simp] theorem setWord_ifc (p off : Nat) (w : Word) : (s.setWord p off w).ifc = s.ifc := by unfold State.setWord; rfl
@[simp] theorem setWord_syn (p off : Nat) (w : Word) : (s.setWord p off w).syn = s.syn := by unfold State.setWord; rfl
@[simp] theorem setWord_sec (p off : Nat) (w : Word) : (s.setWord p off w).sec = s.sec := by unfold State.setWord; rfl
@[simp] theorem setWord_dbg (p off : Nat) (w : Word) : (s.setWord p off w).dbg = s.dbg := by unfold State.setWord; rfl
@[simp] theorem setWord_pwr (p off : Nat) (w : Word) : (s.setWord p off w).pwr = s.pwr := by unfold State.setWord; rfl
@[simp] theorem setWord_sto (p off : Nat) (w : Word) : (s.setWord p off w).sto = s.sto := by unfold State.setWord; rfl
@[simp] theorem setWord_wd (p off : Nat) (w : Word) : (s.setWord p off w).wd = s.wd := by unfold State.setWord; rfl
@[simp] theorem setWord_answer (p off : Nat) (w : Word) : (s.setWord p off w).answer = s.answer := by unfold State.setWord; rfl
@[simp] theorem setWord_pending (p off : Nat) (w : Word) : (s.setWord p off w).pending = s.pending := by unfold State.setWord; rfl

@[simp] theorem wr_staged (p : Nat) (f : Field) (v : Nat) : (s.wr p f v).staged = s.staged := setWord_staged s _ _ _
@[simp] theorem wr_marks (p : Nat) (f : Field) (v : Nat) : (s.wr p f v).marks = s.marks := setWord_marks s _ _ _
@[simp] theorem wr_ledger (p : Nat) (f : Field) (v : Nat) : (s.wr p f v).ledger = s.ledger := setWord_ledger s _ _ _
@[simp] theorem wr_mem (p : Nat) (f : Field) (v : Nat) : (s.wr p f v).mem = s.mem := setWord_mem s _ _ _
@[simp] theorem wr_chk (p : Nat) (f : Field) (v : Nat) : (s.wr p f v).chk = s.chk := setWord_chk s _ _ _
@[simp] theorem wr_now (p : Nat) (f : Field) (v : Nat) : (s.wr p f v).now = s.now := setWord_now s _ _ _
@[simp] theorem wr_fresh (p : Nat) (f : Field) (v : Nat) : (s.wr p f v).fresh = s.fresh := setWord_fresh s _ _ _
@[simp] theorem wr_polders (p : Nat) (f : Field) (v : Nat) : (s.wr p f v).polders = s.polders := setWord_polders s _ _ _
@[simp] theorem wr_drainQ (p : Nat) (f : Field) (v : Nat) : (s.wr p f v).drainQ = s.drainQ := setWord_drainQ s _ _ _
@[simp] theorem wr_coll (p : Nat) (f : Field) (v : Nat) : (s.wr p f v).coll = s.coll := setWord_coll s _ _ _
@[simp] theorem wr_tp (p : Nat) (f : Field) (v : Nat) : (s.wr p f v).tp = s.tp := setWord_tp s _ _ _
@[simp] theorem wr_hif (p : Nat) (f : Field) (v : Nat) : (s.wr p f v).hif = s.hif := setWord_hif s _ _ _
@[simp] theorem wr_commit (p : Nat) (f : Field) (v : Nat) : (s.wr p f v).commit = s.commit := setWord_commit s _ _ _
@[simp] theorem wr_engines (p : Nat) (f : Field) (v : Nat) : (s.wr p f v).engines = s.engines := setWord_engines s _ _ _
@[simp] theorem wr_loops (p : Nat) (f : Field) (v : Nat) : (s.wr p f v).loops = s.loops := setWord_loops s _ _ _
@[simp] theorem wr_slotShadows (p : Nat) (f : Field) (v : Nat) : (s.wr p f v).slotShadows = s.slotShadows := setWord_slotShadows s _ _ _
@[simp] theorem wr_sup (p : Nat) (f : Field) (v : Nat) : (s.wr p f v).sup = s.sup := setWord_sup s _ _ _
@[simp] theorem wr_trl (p : Nat) (f : Field) (v : Nat) : (s.wr p f v).trl = s.trl := setWord_trl s _ _ _
@[simp] theorem wr_guards (p : Nat) (f : Field) (v : Nat) : (s.wr p f v).guards = s.guards := setWord_guards s _ _ _
@[simp] theorem wr_chans (p : Nat) (f : Field) (v : Nat) : (s.wr p f v).chans = s.chans := setWord_chans s _ _ _
@[simp] theorem wr_stages (p : Nat) (f : Field) (v : Nat) : (s.wr p f v).stages = s.stages := setWord_stages s _ _ _
@[simp] theorem wr_pilot (p : Nat) (f : Field) (v : Nat) : (s.wr p f v).pilot = s.pilot := setWord_pilot s _ _ _
@[simp] theorem wr_samples (p : Nat) (f : Field) (v : Nat) : (s.wr p f v).samples = s.samples := setWord_samples s _ _ _
@[simp] theorem wr_waitingSeqs (p : Nat) (f : Field) (v : Nat) : (s.wr p f v).waitingSeqs = s.waitingSeqs := setWord_waitingSeqs s _ _ _
@[simp] theorem wr_convs (p : Nat) (f : Field) (v : Nat) : (s.wr p f v).convs = s.convs := setWord_convs s _ _ _
@[simp] theorem wr_tdac (p : Nat) (f : Field) (v : Nat) : (s.wr p f v).tdac = s.tdac := setWord_tdac s _ _ _
@[simp] theorem wr_sdFrom (p : Nat) (f : Field) (v : Nat) : (s.wr p f v).sdFrom = s.sdFrom := setWord_sdFrom s _ _ _
@[simp] theorem wr_resolvers (p : Nat) (f : Field) (v : Nat) : (s.wr p f v).resolvers = s.resolvers := setWord_resolvers s _ _ _
@[simp] theorem wr_enc (p : Nat) (f : Field) (v : Nat) : (s.wr p f v).enc = s.enc := setWord_enc s _ _ _
@[simp] theorem wr_ifc (p : Nat) (f : Field) (v : Nat) : (s.wr p f v).ifc = s.ifc := setWord_ifc s _ _ _
@[simp] theorem wr_syn (p : Nat) (f : Field) (v : Nat) : (s.wr p f v).syn = s.syn := setWord_syn s _ _ _
@[simp] theorem wr_sec (p : Nat) (f : Field) (v : Nat) : (s.wr p f v).sec = s.sec := setWord_sec s _ _ _
@[simp] theorem wr_dbg (p : Nat) (f : Field) (v : Nat) : (s.wr p f v).dbg = s.dbg := setWord_dbg s _ _ _
@[simp] theorem wr_pwr (p : Nat) (f : Field) (v : Nat) : (s.wr p f v).pwr = s.pwr := setWord_pwr s _ _ _
@[simp] theorem wr_sto (p : Nat) (f : Field) (v : Nat) : (s.wr p f v).sto = s.sto := setWord_sto s _ _ _
@[simp] theorem wr_wd (p : Nat) (f : Field) (v : Nat) : (s.wr p f v).wd = s.wd := setWord_wd s _ _ _
@[simp] theorem wr_answer (p : Nat) (f : Field) (v : Nat) : (s.wr p f v).answer = s.answer := setWord_answer s _ _ _
@[simp] theorem wr_pending (p : Nat) (f : Field) (v : Nat) : (s.wr p f v).pending = s.pending := setWord_pending s _ _ _

@[simp] theorem wrB_staged (p : Nat) (f : Field) (b : Bool) : (s.wrB p f b).staged = s.staged := wr_staged s _ _ _
@[simp] theorem wrB_marks (p : Nat) (f : Field) (b : Bool) : (s.wrB p f b).marks = s.marks := wr_marks s _ _ _
@[simp] theorem wrB_ledger (p : Nat) (f : Field) (b : Bool) : (s.wrB p f b).ledger = s.ledger := wr_ledger s _ _ _
@[simp] theorem wrB_mem (p : Nat) (f : Field) (b : Bool) : (s.wrB p f b).mem = s.mem := wr_mem s _ _ _
@[simp] theorem wrB_chk (p : Nat) (f : Field) (b : Bool) : (s.wrB p f b).chk = s.chk := wr_chk s _ _ _
@[simp] theorem wrB_now (p : Nat) (f : Field) (b : Bool) : (s.wrB p f b).now = s.now := wr_now s _ _ _
@[simp] theorem wrB_fresh (p : Nat) (f : Field) (b : Bool) : (s.wrB p f b).fresh = s.fresh := wr_fresh s _ _ _
@[simp] theorem wrB_polders (p : Nat) (f : Field) (b : Bool) : (s.wrB p f b).polders = s.polders := wr_polders s _ _ _
@[simp] theorem wrB_drainQ (p : Nat) (f : Field) (b : Bool) : (s.wrB p f b).drainQ = s.drainQ := wr_drainQ s _ _ _
@[simp] theorem wrB_coll (p : Nat) (f : Field) (b : Bool) : (s.wrB p f b).coll = s.coll := wr_coll s _ _ _
@[simp] theorem wrB_tp (p : Nat) (f : Field) (b : Bool) : (s.wrB p f b).tp = s.tp := wr_tp s _ _ _
@[simp] theorem wrB_hif (p : Nat) (f : Field) (b : Bool) : (s.wrB p f b).hif = s.hif := wr_hif s _ _ _
@[simp] theorem wrB_commit (p : Nat) (f : Field) (b : Bool) : (s.wrB p f b).commit = s.commit := wr_commit s _ _ _
@[simp] theorem wrB_engines (p : Nat) (f : Field) (b : Bool) : (s.wrB p f b).engines = s.engines := wr_engines s _ _ _
@[simp] theorem wrB_loops (p : Nat) (f : Field) (b : Bool) : (s.wrB p f b).loops = s.loops := wr_loops s _ _ _
@[simp] theorem wrB_slotShadows (p : Nat) (f : Field) (b : Bool) : (s.wrB p f b).slotShadows = s.slotShadows := wr_slotShadows s _ _ _
@[simp] theorem wrB_sup (p : Nat) (f : Field) (b : Bool) : (s.wrB p f b).sup = s.sup := wr_sup s _ _ _
@[simp] theorem wrB_trl (p : Nat) (f : Field) (b : Bool) : (s.wrB p f b).trl = s.trl := wr_trl s _ _ _
@[simp] theorem wrB_guards (p : Nat) (f : Field) (b : Bool) : (s.wrB p f b).guards = s.guards := wr_guards s _ _ _
@[simp] theorem wrB_chans (p : Nat) (f : Field) (b : Bool) : (s.wrB p f b).chans = s.chans := wr_chans s _ _ _
@[simp] theorem wrB_stages (p : Nat) (f : Field) (b : Bool) : (s.wrB p f b).stages = s.stages := wr_stages s _ _ _
@[simp] theorem wrB_pilot (p : Nat) (f : Field) (b : Bool) : (s.wrB p f b).pilot = s.pilot := wr_pilot s _ _ _
@[simp] theorem wrB_samples (p : Nat) (f : Field) (b : Bool) : (s.wrB p f b).samples = s.samples := wr_samples s _ _ _
@[simp] theorem wrB_waitingSeqs (p : Nat) (f : Field) (b : Bool) : (s.wrB p f b).waitingSeqs = s.waitingSeqs := wr_waitingSeqs s _ _ _
@[simp] theorem wrB_convs (p : Nat) (f : Field) (b : Bool) : (s.wrB p f b).convs = s.convs := wr_convs s _ _ _
@[simp] theorem wrB_tdac (p : Nat) (f : Field) (b : Bool) : (s.wrB p f b).tdac = s.tdac := wr_tdac s _ _ _
@[simp] theorem wrB_sdFrom (p : Nat) (f : Field) (b : Bool) : (s.wrB p f b).sdFrom = s.sdFrom := wr_sdFrom s _ _ _
@[simp] theorem wrB_resolvers (p : Nat) (f : Field) (b : Bool) : (s.wrB p f b).resolvers = s.resolvers := wr_resolvers s _ _ _
@[simp] theorem wrB_enc (p : Nat) (f : Field) (b : Bool) : (s.wrB p f b).enc = s.enc := wr_enc s _ _ _
@[simp] theorem wrB_ifc (p : Nat) (f : Field) (b : Bool) : (s.wrB p f b).ifc = s.ifc := wr_ifc s _ _ _
@[simp] theorem wrB_syn (p : Nat) (f : Field) (b : Bool) : (s.wrB p f b).syn = s.syn := wr_syn s _ _ _
@[simp] theorem wrB_sec (p : Nat) (f : Field) (b : Bool) : (s.wrB p f b).sec = s.sec := wr_sec s _ _ _
@[simp] theorem wrB_dbg (p : Nat) (f : Field) (b : Bool) : (s.wrB p f b).dbg = s.dbg := wr_dbg s _ _ _
@[simp] theorem wrB_pwr (p : Nat) (f : Field) (b : Bool) : (s.wrB p f b).pwr = s.pwr := wr_pwr s _ _ _
@[simp] theorem wrB_sto (p : Nat) (f : Field) (b : Bool) : (s.wrB p f b).sto = s.sto := wr_sto s _ _ _
@[simp] theorem wrB_wd (p : Nat) (f : Field) (b : Bool) : (s.wrB p f b).wd = s.wd := wr_wd s _ _ _
@[simp] theorem wrB_answer (p : Nat) (f : Field) (b : Bool) : (s.wrB p f b).answer = s.answer := wr_answer s _ _ _
@[simp] theorem wrB_pending (p : Nat) (f : Field) (b : Bool) : (s.wrB p f b).pending = s.pending := wr_pending s _ _ _

@[simp] theorem orBits_staged (p : Nat) (f : Field) (v : Nat) : (s.orBits p f v).staged = s.staged := wr_staged s _ _ _
@[simp] theorem orBits_marks (p : Nat) (f : Field) (v : Nat) : (s.orBits p f v).marks = s.marks := wr_marks s _ _ _
@[simp] theorem orBits_ledger (p : Nat) (f : Field) (v : Nat) : (s.orBits p f v).ledger = s.ledger := wr_ledger s _ _ _
@[simp] theorem orBits_mem (p : Nat) (f : Field) (v : Nat) : (s.orBits p f v).mem = s.mem := wr_mem s _ _ _
@[simp] theorem orBits_chk (p : Nat) (f : Field) (v : Nat) : (s.orBits p f v).chk = s.chk := wr_chk s _ _ _
@[simp] theorem orBits_now (p : Nat) (f : Field) (v : Nat) : (s.orBits p f v).now = s.now := wr_now s _ _ _
@[simp] theorem orBits_fresh (p : Nat) (f : Field) (v : Nat) : (s.orBits p f v).fresh = s.fresh := wr_fresh s _ _ _
@[simp] theorem orBits_polders (p : Nat) (f : Field) (v : Nat) : (s.orBits p f v).polders = s.polders := wr_polders s _ _ _
@[simp] theorem orBits_drainQ (p : Nat) (f : Field) (v : Nat) : (s.orBits p f v).drainQ = s.drainQ := wr_drainQ s _ _ _
@[simp] theorem orBits_coll (p : Nat) (f : Field) (v : Nat) : (s.orBits p f v).coll = s.coll := wr_coll s _ _ _
@[simp] theorem orBits_tp (p : Nat) (f : Field) (v : Nat) : (s.orBits p f v).tp = s.tp := wr_tp s _ _ _
@[simp] theorem orBits_hif (p : Nat) (f : Field) (v : Nat) : (s.orBits p f v).hif = s.hif := wr_hif s _ _ _
@[simp] theorem orBits_commit (p : Nat) (f : Field) (v : Nat) : (s.orBits p f v).commit = s.commit := wr_commit s _ _ _
@[simp] theorem orBits_engines (p : Nat) (f : Field) (v : Nat) : (s.orBits p f v).engines = s.engines := wr_engines s _ _ _
@[simp] theorem orBits_loops (p : Nat) (f : Field) (v : Nat) : (s.orBits p f v).loops = s.loops := wr_loops s _ _ _
@[simp] theorem orBits_slotShadows (p : Nat) (f : Field) (v : Nat) : (s.orBits p f v).slotShadows = s.slotShadows := wr_slotShadows s _ _ _
@[simp] theorem orBits_sup (p : Nat) (f : Field) (v : Nat) : (s.orBits p f v).sup = s.sup := wr_sup s _ _ _
@[simp] theorem orBits_trl (p : Nat) (f : Field) (v : Nat) : (s.orBits p f v).trl = s.trl := wr_trl s _ _ _
@[simp] theorem orBits_guards (p : Nat) (f : Field) (v : Nat) : (s.orBits p f v).guards = s.guards := wr_guards s _ _ _
@[simp] theorem orBits_chans (p : Nat) (f : Field) (v : Nat) : (s.orBits p f v).chans = s.chans := wr_chans s _ _ _
@[simp] theorem orBits_stages (p : Nat) (f : Field) (v : Nat) : (s.orBits p f v).stages = s.stages := wr_stages s _ _ _
@[simp] theorem orBits_pilot (p : Nat) (f : Field) (v : Nat) : (s.orBits p f v).pilot = s.pilot := wr_pilot s _ _ _
@[simp] theorem orBits_samples (p : Nat) (f : Field) (v : Nat) : (s.orBits p f v).samples = s.samples := wr_samples s _ _ _
@[simp] theorem orBits_waitingSeqs (p : Nat) (f : Field) (v : Nat) : (s.orBits p f v).waitingSeqs = s.waitingSeqs := wr_waitingSeqs s _ _ _
@[simp] theorem orBits_convs (p : Nat) (f : Field) (v : Nat) : (s.orBits p f v).convs = s.convs := wr_convs s _ _ _
@[simp] theorem orBits_tdac (p : Nat) (f : Field) (v : Nat) : (s.orBits p f v).tdac = s.tdac := wr_tdac s _ _ _
@[simp] theorem orBits_sdFrom (p : Nat) (f : Field) (v : Nat) : (s.orBits p f v).sdFrom = s.sdFrom := wr_sdFrom s _ _ _
@[simp] theorem orBits_resolvers (p : Nat) (f : Field) (v : Nat) : (s.orBits p f v).resolvers = s.resolvers := wr_resolvers s _ _ _
@[simp] theorem orBits_enc (p : Nat) (f : Field) (v : Nat) : (s.orBits p f v).enc = s.enc := wr_enc s _ _ _
@[simp] theorem orBits_ifc (p : Nat) (f : Field) (v : Nat) : (s.orBits p f v).ifc = s.ifc := wr_ifc s _ _ _
@[simp] theorem orBits_syn (p : Nat) (f : Field) (v : Nat) : (s.orBits p f v).syn = s.syn := wr_syn s _ _ _
@[simp] theorem orBits_sec (p : Nat) (f : Field) (v : Nat) : (s.orBits p f v).sec = s.sec := wr_sec s _ _ _
@[simp] theorem orBits_dbg (p : Nat) (f : Field) (v : Nat) : (s.orBits p f v).dbg = s.dbg := wr_dbg s _ _ _
@[simp] theorem orBits_pwr (p : Nat) (f : Field) (v : Nat) : (s.orBits p f v).pwr = s.pwr := wr_pwr s _ _ _
@[simp] theorem orBits_sto (p : Nat) (f : Field) (v : Nat) : (s.orBits p f v).sto = s.sto := wr_sto s _ _ _
@[simp] theorem orBits_wd (p : Nat) (f : Field) (v : Nat) : (s.orBits p f v).wd = s.wd := wr_wd s _ _ _
@[simp] theorem orBits_answer (p : Nat) (f : Field) (v : Nat) : (s.orBits p f v).answer = s.answer := wr_answer s _ _ _
@[simp] theorem orBits_pending (p : Nat) (f : Field) (v : Nat) : (s.orBits p f v).pending = s.pending := wr_pending s _ _ _

@[simp] theorem wrStamp_staged (p : Nat) (f g : Field) (v : Nat) : (s.wrStamp p f g v).staged = s.staged := (wr_staged _ _ _ _).trans (wr_staged s _ _ _)
@[simp] theorem wrStamp_marks (p : Nat) (f g : Field) (v : Nat) : (s.wrStamp p f g v).marks = s.marks := (wr_marks _ _ _ _).trans (wr_marks s _ _ _)
@[simp] theorem wrStamp_ledger (p : Nat) (f g : Field) (v : Nat) : (s.wrStamp p f g v).ledger = s.ledger := (wr_ledger _ _ _ _).trans (wr_ledger s _ _ _)
@[simp] theorem wrStamp_mem (p : Nat) (f g : Field) (v : Nat) : (s.wrStamp p f g v).mem = s.mem := (wr_mem _ _ _ _).trans (wr_mem s _ _ _)
@[simp] theorem wrStamp_chk (p : Nat) (f g : Field) (v : Nat) : (s.wrStamp p f g v).chk = s.chk := (wr_chk _ _ _ _).trans (wr_chk s _ _ _)
@[simp] theorem wrStamp_now (p : Nat) (f g : Field) (v : Nat) : (s.wrStamp p f g v).now = s.now := (wr_now _ _ _ _).trans (wr_now s _ _ _)
@[simp] theorem wrStamp_fresh (p : Nat) (f g : Field) (v : Nat) : (s.wrStamp p f g v).fresh = s.fresh := (wr_fresh _ _ _ _).trans (wr_fresh s _ _ _)
@[simp] theorem wrStamp_polders (p : Nat) (f g : Field) (v : Nat) : (s.wrStamp p f g v).polders = s.polders := (wr_polders _ _ _ _).trans (wr_polders s _ _ _)
@[simp] theorem wrStamp_drainQ (p : Nat) (f g : Field) (v : Nat) : (s.wrStamp p f g v).drainQ = s.drainQ := (wr_drainQ _ _ _ _).trans (wr_drainQ s _ _ _)
@[simp] theorem wrStamp_coll (p : Nat) (f g : Field) (v : Nat) : (s.wrStamp p f g v).coll = s.coll := (wr_coll _ _ _ _).trans (wr_coll s _ _ _)
@[simp] theorem wrStamp_tp (p : Nat) (f g : Field) (v : Nat) : (s.wrStamp p f g v).tp = s.tp := (wr_tp _ _ _ _).trans (wr_tp s _ _ _)
@[simp] theorem wrStamp_hif (p : Nat) (f g : Field) (v : Nat) : (s.wrStamp p f g v).hif = s.hif := (wr_hif _ _ _ _).trans (wr_hif s _ _ _)
@[simp] theorem wrStamp_commit (p : Nat) (f g : Field) (v : Nat) : (s.wrStamp p f g v).commit = s.commit := (wr_commit _ _ _ _).trans (wr_commit s _ _ _)
@[simp] theorem wrStamp_engines (p : Nat) (f g : Field) (v : Nat) : (s.wrStamp p f g v).engines = s.engines := (wr_engines _ _ _ _).trans (wr_engines s _ _ _)
@[simp] theorem wrStamp_loops (p : Nat) (f g : Field) (v : Nat) : (s.wrStamp p f g v).loops = s.loops := (wr_loops _ _ _ _).trans (wr_loops s _ _ _)
@[simp] theorem wrStamp_slotShadows (p : Nat) (f g : Field) (v : Nat) : (s.wrStamp p f g v).slotShadows = s.slotShadows := (wr_slotShadows _ _ _ _).trans (wr_slotShadows s _ _ _)
@[simp] theorem wrStamp_sup (p : Nat) (f g : Field) (v : Nat) : (s.wrStamp p f g v).sup = s.sup := (wr_sup _ _ _ _).trans (wr_sup s _ _ _)
@[simp] theorem wrStamp_trl (p : Nat) (f g : Field) (v : Nat) : (s.wrStamp p f g v).trl = s.trl := (wr_trl _ _ _ _).trans (wr_trl s _ _ _)
@[simp] theorem wrStamp_guards (p : Nat) (f g : Field) (v : Nat) : (s.wrStamp p f g v).guards = s.guards := (wr_guards _ _ _ _).trans (wr_guards s _ _ _)
@[simp] theorem wrStamp_chans (p : Nat) (f g : Field) (v : Nat) : (s.wrStamp p f g v).chans = s.chans := (wr_chans _ _ _ _).trans (wr_chans s _ _ _)
@[simp] theorem wrStamp_stages (p : Nat) (f g : Field) (v : Nat) : (s.wrStamp p f g v).stages = s.stages := (wr_stages _ _ _ _).trans (wr_stages s _ _ _)
@[simp] theorem wrStamp_pilot (p : Nat) (f g : Field) (v : Nat) : (s.wrStamp p f g v).pilot = s.pilot := (wr_pilot _ _ _ _).trans (wr_pilot s _ _ _)
@[simp] theorem wrStamp_samples (p : Nat) (f g : Field) (v : Nat) : (s.wrStamp p f g v).samples = s.samples := (wr_samples _ _ _ _).trans (wr_samples s _ _ _)
@[simp] theorem wrStamp_waitingSeqs (p : Nat) (f g : Field) (v : Nat) : (s.wrStamp p f g v).waitingSeqs = s.waitingSeqs := (wr_waitingSeqs _ _ _ _).trans (wr_waitingSeqs s _ _ _)
@[simp] theorem wrStamp_convs (p : Nat) (f g : Field) (v : Nat) : (s.wrStamp p f g v).convs = s.convs := (wr_convs _ _ _ _).trans (wr_convs s _ _ _)
@[simp] theorem wrStamp_tdac (p : Nat) (f g : Field) (v : Nat) : (s.wrStamp p f g v).tdac = s.tdac := (wr_tdac _ _ _ _).trans (wr_tdac s _ _ _)
@[simp] theorem wrStamp_sdFrom (p : Nat) (f g : Field) (v : Nat) : (s.wrStamp p f g v).sdFrom = s.sdFrom := (wr_sdFrom _ _ _ _).trans (wr_sdFrom s _ _ _)
@[simp] theorem wrStamp_resolvers (p : Nat) (f g : Field) (v : Nat) : (s.wrStamp p f g v).resolvers = s.resolvers := (wr_resolvers _ _ _ _).trans (wr_resolvers s _ _ _)
@[simp] theorem wrStamp_enc (p : Nat) (f g : Field) (v : Nat) : (s.wrStamp p f g v).enc = s.enc := (wr_enc _ _ _ _).trans (wr_enc s _ _ _)
@[simp] theorem wrStamp_ifc (p : Nat) (f g : Field) (v : Nat) : (s.wrStamp p f g v).ifc = s.ifc := (wr_ifc _ _ _ _).trans (wr_ifc s _ _ _)
@[simp] theorem wrStamp_syn (p : Nat) (f g : Field) (v : Nat) : (s.wrStamp p f g v).syn = s.syn := (wr_syn _ _ _ _).trans (wr_syn s _ _ _)
@[simp] theorem wrStamp_sec (p : Nat) (f g : Field) (v : Nat) : (s.wrStamp p f g v).sec = s.sec := (wr_sec _ _ _ _).trans (wr_sec s _ _ _)
@[simp] theorem wrStamp_dbg (p : Nat) (f g : Field) (v : Nat) : (s.wrStamp p f g v).dbg = s.dbg := (wr_dbg _ _ _ _).trans (wr_dbg s _ _ _)
@[simp] theorem wrStamp_pwr (p : Nat) (f g : Field) (v : Nat) : (s.wrStamp p f g v).pwr = s.pwr := (wr_pwr _ _ _ _).trans (wr_pwr s _ _ _)
@[simp] theorem wrStamp_sto (p : Nat) (f g : Field) (v : Nat) : (s.wrStamp p f g v).sto = s.sto := (wr_sto _ _ _ _).trans (wr_sto s _ _ _)
@[simp] theorem wrStamp_wd (p : Nat) (f g : Field) (v : Nat) : (s.wrStamp p f g v).wd = s.wd := (wr_wd _ _ _ _).trans (wr_wd s _ _ _)
@[simp] theorem wrStamp_answer (p : Nat) (f g : Field) (v : Nat) : (s.wrStamp p f g v).answer = s.answer := (wr_answer _ _ _ _).trans (wr_answer s _ _ _)
@[simp] theorem wrStamp_pending (p : Nat) (f g : Field) (v : Nat) : (s.wrStamp p f g v).pending = s.pending := (wr_pending _ _ _ _).trans (wr_pending s _ _ _)

@[simp] theorem agrEvent_staged (n : Nat) : (s.agrEvent n).staged = s.staged := orBits_staged s _ _ _
@[simp] theorem agrEvent_marks (n : Nat) : (s.agrEvent n).marks = s.marks := orBits_marks s _ _ _
@[simp] theorem agrEvent_ledger (n : Nat) : (s.agrEvent n).ledger = s.ledger := orBits_ledger s _ _ _
@[simp] theorem agrEvent_mem (n : Nat) : (s.agrEvent n).mem = s.mem := orBits_mem s _ _ _
@[simp] theorem agrEvent_chk (n : Nat) : (s.agrEvent n).chk = s.chk := orBits_chk s _ _ _
@[simp] theorem agrEvent_now (n : Nat) : (s.agrEvent n).now = s.now := orBits_now s _ _ _
@[simp] theorem agrEvent_fresh (n : Nat) : (s.agrEvent n).fresh = s.fresh := orBits_fresh s _ _ _
@[simp] theorem agrEvent_polders (n : Nat) : (s.agrEvent n).polders = s.polders := orBits_polders s _ _ _
@[simp] theorem agrEvent_drainQ (n : Nat) : (s.agrEvent n).drainQ = s.drainQ := orBits_drainQ s _ _ _
@[simp] theorem agrEvent_coll (n : Nat) : (s.agrEvent n).coll = s.coll := orBits_coll s _ _ _
@[simp] theorem agrEvent_tp (n : Nat) : (s.agrEvent n).tp = s.tp := orBits_tp s _ _ _
@[simp] theorem agrEvent_hif (n : Nat) : (s.agrEvent n).hif = s.hif := orBits_hif s _ _ _
@[simp] theorem agrEvent_commit (n : Nat) : (s.agrEvent n).commit = s.commit := orBits_commit s _ _ _
@[simp] theorem agrEvent_engines (n : Nat) : (s.agrEvent n).engines = s.engines := orBits_engines s _ _ _
@[simp] theorem agrEvent_loops (n : Nat) : (s.agrEvent n).loops = s.loops := orBits_loops s _ _ _
@[simp] theorem agrEvent_slotShadows (n : Nat) : (s.agrEvent n).slotShadows = s.slotShadows := orBits_slotShadows s _ _ _
@[simp] theorem agrEvent_sup (n : Nat) : (s.agrEvent n).sup = s.sup := orBits_sup s _ _ _
@[simp] theorem agrEvent_trl (n : Nat) : (s.agrEvent n).trl = s.trl := orBits_trl s _ _ _
@[simp] theorem agrEvent_guards (n : Nat) : (s.agrEvent n).guards = s.guards := orBits_guards s _ _ _
@[simp] theorem agrEvent_chans (n : Nat) : (s.agrEvent n).chans = s.chans := orBits_chans s _ _ _
@[simp] theorem agrEvent_stages (n : Nat) : (s.agrEvent n).stages = s.stages := orBits_stages s _ _ _
@[simp] theorem agrEvent_pilot (n : Nat) : (s.agrEvent n).pilot = s.pilot := orBits_pilot s _ _ _
@[simp] theorem agrEvent_samples (n : Nat) : (s.agrEvent n).samples = s.samples := orBits_samples s _ _ _
@[simp] theorem agrEvent_waitingSeqs (n : Nat) : (s.agrEvent n).waitingSeqs = s.waitingSeqs := orBits_waitingSeqs s _ _ _
@[simp] theorem agrEvent_convs (n : Nat) : (s.agrEvent n).convs = s.convs := orBits_convs s _ _ _
@[simp] theorem agrEvent_tdac (n : Nat) : (s.agrEvent n).tdac = s.tdac := orBits_tdac s _ _ _
@[simp] theorem agrEvent_sdFrom (n : Nat) : (s.agrEvent n).sdFrom = s.sdFrom := orBits_sdFrom s _ _ _
@[simp] theorem agrEvent_resolvers (n : Nat) : (s.agrEvent n).resolvers = s.resolvers := orBits_resolvers s _ _ _
@[simp] theorem agrEvent_enc (n : Nat) : (s.agrEvent n).enc = s.enc := orBits_enc s _ _ _
@[simp] theorem agrEvent_ifc (n : Nat) : (s.agrEvent n).ifc = s.ifc := orBits_ifc s _ _ _
@[simp] theorem agrEvent_syn (n : Nat) : (s.agrEvent n).syn = s.syn := orBits_syn s _ _ _
@[simp] theorem agrEvent_sec (n : Nat) : (s.agrEvent n).sec = s.sec := orBits_sec s _ _ _
@[simp] theorem agrEvent_dbg (n : Nat) : (s.agrEvent n).dbg = s.dbg := orBits_dbg s _ _ _
@[simp] theorem agrEvent_pwr (n : Nat) : (s.agrEvent n).pwr = s.pwr := orBits_pwr s _ _ _
@[simp] theorem agrEvent_sto (n : Nat) : (s.agrEvent n).sto = s.sto := orBits_sto s _ _ _
@[simp] theorem agrEvent_wd (n : Nat) : (s.agrEvent n).wd = s.wd := orBits_wd s _ _ _
@[simp] theorem agrEvent_answer (n : Nat) : (s.agrEvent n).answer = s.answer := orBits_answer s _ _ _
@[simp] theorem agrEvent_pending (n : Nat) : (s.agrEvent n).pending = s.pending := orBits_pending s _ _ _

@[simp] theorem putByte_regs (a : Nat) (b : Byte) : (s.putByte a b).regs = s.regs := by unfold State.putByte; rfl
@[simp] theorem putByte_staged (a : Nat) (b : Byte) : (s.putByte a b).staged = s.staged := by unfold State.putByte; rfl
@[simp] theorem putByte_marks (a : Nat) (b : Byte) : (s.putByte a b).marks = s.marks := by unfold State.putByte; rfl
@[simp] theorem putByte_pushes (a : Nat) (b : Byte) : (s.putByte a b).pushes = s.pushes := by unfold State.putByte; rfl
@[simp] theorem putByte_ledger (a : Nat) (b : Byte) : (s.putByte a b).ledger = s.ledger := by unfold State.putByte; rfl
@[simp] theorem putByte_now (a : Nat) (b : Byte) : (s.putByte a b).now = s.now := by unfold State.putByte; rfl
@[simp] theorem putByte_fresh (a : Nat) (b : Byte) : (s.putByte a b).fresh = s.fresh := by unfold State.putByte; rfl
@[simp] theorem putByte_polders (a : Nat) (b : Byte) : (s.putByte a b).polders = s.polders := by unfold State.putByte; rfl
@[simp] theorem putByte_drainQ (a : Nat) (b : Byte) : (s.putByte a b).drainQ = s.drainQ := by unfold State.putByte; rfl
@[simp] theorem putByte_coll (a : Nat) (b : Byte) : (s.putByte a b).coll = s.coll := by unfold State.putByte; rfl
@[simp] theorem putByte_tp (a : Nat) (b : Byte) : (s.putByte a b).tp = s.tp := by unfold State.putByte; rfl
@[simp] theorem putByte_hif (a : Nat) (b : Byte) : (s.putByte a b).hif = s.hif := by unfold State.putByte; rfl
@[simp] theorem putByte_commit (a : Nat) (b : Byte) : (s.putByte a b).commit = s.commit := by unfold State.putByte; rfl
@[simp] theorem putByte_engines (a : Nat) (b : Byte) : (s.putByte a b).engines = s.engines := by unfold State.putByte; rfl
@[simp] theorem putByte_loops (a : Nat) (b : Byte) : (s.putByte a b).loops = s.loops := by unfold State.putByte; rfl
@[simp] theorem putByte_slotShadows (a : Nat) (b : Byte) : (s.putByte a b).slotShadows = s.slotShadows := by unfold State.putByte; rfl
@[simp] theorem putByte_sup (a : Nat) (b : Byte) : (s.putByte a b).sup = s.sup := by unfold State.putByte; rfl
@[simp] theorem putByte_trl (a : Nat) (b : Byte) : (s.putByte a b).trl = s.trl := by unfold State.putByte; rfl
@[simp] theorem putByte_guards (a : Nat) (b : Byte) : (s.putByte a b).guards = s.guards := by unfold State.putByte; rfl
@[simp] theorem putByte_chans (a : Nat) (b : Byte) : (s.putByte a b).chans = s.chans := by unfold State.putByte; rfl
@[simp] theorem putByte_stages (a : Nat) (b : Byte) : (s.putByte a b).stages = s.stages := by unfold State.putByte; rfl
@[simp] theorem putByte_pilot (a : Nat) (b : Byte) : (s.putByte a b).pilot = s.pilot := by unfold State.putByte; rfl
@[simp] theorem putByte_samples (a : Nat) (b : Byte) : (s.putByte a b).samples = s.samples := by unfold State.putByte; rfl
@[simp] theorem putByte_waitingSeqs (a : Nat) (b : Byte) : (s.putByte a b).waitingSeqs = s.waitingSeqs := by unfold State.putByte; rfl
@[simp] theorem putByte_convs (a : Nat) (b : Byte) : (s.putByte a b).convs = s.convs := by unfold State.putByte; rfl
@[simp] theorem putByte_tdac (a : Nat) (b : Byte) : (s.putByte a b).tdac = s.tdac := by unfold State.putByte; rfl
@[simp] theorem putByte_sdFrom (a : Nat) (b : Byte) : (s.putByte a b).sdFrom = s.sdFrom := by unfold State.putByte; rfl
@[simp] theorem putByte_resolvers (a : Nat) (b : Byte) : (s.putByte a b).resolvers = s.resolvers := by unfold State.putByte; rfl
@[simp] theorem putByte_enc (a : Nat) (b : Byte) : (s.putByte a b).enc = s.enc := by unfold State.putByte; rfl
@[simp] theorem putByte_ifc (a : Nat) (b : Byte) : (s.putByte a b).ifc = s.ifc := by unfold State.putByte; rfl
@[simp] theorem putByte_syn (a : Nat) (b : Byte) : (s.putByte a b).syn = s.syn := by unfold State.putByte; rfl
@[simp] theorem putByte_sec (a : Nat) (b : Byte) : (s.putByte a b).sec = s.sec := by unfold State.putByte; rfl
@[simp] theorem putByte_dbg (a : Nat) (b : Byte) : (s.putByte a b).dbg = s.dbg := by unfold State.putByte; rfl
@[simp] theorem putByte_pwr (a : Nat) (b : Byte) : (s.putByte a b).pwr = s.pwr := by unfold State.putByte; rfl
@[simp] theorem putByte_sto (a : Nat) (b : Byte) : (s.putByte a b).sto = s.sto := by unfold State.putByte; rfl
@[simp] theorem putByte_wd (a : Nat) (b : Byte) : (s.putByte a b).wd = s.wd := by unfold State.putByte; rfl
@[simp] theorem putByte_answer (a : Nat) (b : Byte) : (s.putByte a b).answer = s.answer := by unfold State.putByte; rfl
@[simp] theorem putByte_pending (a : Nat) (b : Byte) : (s.putByte a b).pending = s.pending := by unfold State.putByte; rfl

@[simp] theorem putMword_regs (a : Nat) (w : Word) : (s.putMword a w).regs = s.regs := by simp only [State.putMword, putByte_regs]
@[simp] theorem putMword_staged (a : Nat) (w : Word) : (s.putMword a w).staged = s.staged := by simp only [State.putMword, putByte_staged]
@[simp] theorem putMword_marks (a : Nat) (w : Word) : (s.putMword a w).marks = s.marks := by simp only [State.putMword, putByte_marks]
@[simp] theorem putMword_pushes (a : Nat) (w : Word) : (s.putMword a w).pushes = s.pushes := by simp only [State.putMword, putByte_pushes]
@[simp] theorem putMword_ledger (a : Nat) (w : Word) : (s.putMword a w).ledger = s.ledger := by simp only [State.putMword, putByte_ledger]
@[simp] theorem putMword_now (a : Nat) (w : Word) : (s.putMword a w).now = s.now := by simp only [State.putMword, putByte_now]
@[simp] theorem putMword_fresh (a : Nat) (w : Word) : (s.putMword a w).fresh = s.fresh := by simp only [State.putMword, putByte_fresh]
@[simp] theorem putMword_polders (a : Nat) (w : Word) : (s.putMword a w).polders = s.polders := by simp only [State.putMword, putByte_polders]
@[simp] theorem putMword_drainQ (a : Nat) (w : Word) : (s.putMword a w).drainQ = s.drainQ := by simp only [State.putMword, putByte_drainQ]
@[simp] theorem putMword_coll (a : Nat) (w : Word) : (s.putMword a w).coll = s.coll := by simp only [State.putMword, putByte_coll]
@[simp] theorem putMword_tp (a : Nat) (w : Word) : (s.putMword a w).tp = s.tp := by simp only [State.putMword, putByte_tp]
@[simp] theorem putMword_hif (a : Nat) (w : Word) : (s.putMword a w).hif = s.hif := by simp only [State.putMword, putByte_hif]
@[simp] theorem putMword_commit (a : Nat) (w : Word) : (s.putMword a w).commit = s.commit := by simp only [State.putMword, putByte_commit]
@[simp] theorem putMword_engines (a : Nat) (w : Word) : (s.putMword a w).engines = s.engines := by simp only [State.putMword, putByte_engines]
@[simp] theorem putMword_loops (a : Nat) (w : Word) : (s.putMword a w).loops = s.loops := by simp only [State.putMword, putByte_loops]
@[simp] theorem putMword_slotShadows (a : Nat) (w : Word) : (s.putMword a w).slotShadows = s.slotShadows := by simp only [State.putMword, putByte_slotShadows]
@[simp] theorem putMword_sup (a : Nat) (w : Word) : (s.putMword a w).sup = s.sup := by simp only [State.putMword, putByte_sup]
@[simp] theorem putMword_trl (a : Nat) (w : Word) : (s.putMword a w).trl = s.trl := by simp only [State.putMword, putByte_trl]
@[simp] theorem putMword_guards (a : Nat) (w : Word) : (s.putMword a w).guards = s.guards := by simp only [State.putMword, putByte_guards]
@[simp] theorem putMword_chans (a : Nat) (w : Word) : (s.putMword a w).chans = s.chans := by simp only [State.putMword, putByte_chans]
@[simp] theorem putMword_stages (a : Nat) (w : Word) : (s.putMword a w).stages = s.stages := by simp only [State.putMword, putByte_stages]
@[simp] theorem putMword_pilot (a : Nat) (w : Word) : (s.putMword a w).pilot = s.pilot := by simp only [State.putMword, putByte_pilot]
@[simp] theorem putMword_samples (a : Nat) (w : Word) : (s.putMword a w).samples = s.samples := by simp only [State.putMword, putByte_samples]
@[simp] theorem putMword_waitingSeqs (a : Nat) (w : Word) : (s.putMword a w).waitingSeqs = s.waitingSeqs := by simp only [State.putMword, putByte_waitingSeqs]
@[simp] theorem putMword_convs (a : Nat) (w : Word) : (s.putMword a w).convs = s.convs := by simp only [State.putMword, putByte_convs]
@[simp] theorem putMword_tdac (a : Nat) (w : Word) : (s.putMword a w).tdac = s.tdac := by simp only [State.putMword, putByte_tdac]
@[simp] theorem putMword_sdFrom (a : Nat) (w : Word) : (s.putMword a w).sdFrom = s.sdFrom := by simp only [State.putMword, putByte_sdFrom]
@[simp] theorem putMword_resolvers (a : Nat) (w : Word) : (s.putMword a w).resolvers = s.resolvers := by simp only [State.putMword, putByte_resolvers]
@[simp] theorem putMword_enc (a : Nat) (w : Word) : (s.putMword a w).enc = s.enc := by simp only [State.putMword, putByte_enc]
@[simp] theorem putMword_ifc (a : Nat) (w : Word) : (s.putMword a w).ifc = s.ifc := by simp only [State.putMword, putByte_ifc]
@[simp] theorem putMword_syn (a : Nat) (w : Word) : (s.putMword a w).syn = s.syn := by simp only [State.putMword, putByte_syn]
@[simp] theorem putMword_sec (a : Nat) (w : Word) : (s.putMword a w).sec = s.sec := by simp only [State.putMword, putByte_sec]
@[simp] theorem putMword_dbg (a : Nat) (w : Word) : (s.putMword a w).dbg = s.dbg := by simp only [State.putMword, putByte_dbg]
@[simp] theorem putMword_pwr (a : Nat) (w : Word) : (s.putMword a w).pwr = s.pwr := by simp only [State.putMword, putByte_pwr]
@[simp] theorem putMword_sto (a : Nat) (w : Word) : (s.putMword a w).sto = s.sto := by simp only [State.putMword, putByte_sto]
@[simp] theorem putMword_wd (a : Nat) (w : Word) : (s.putMword a w).wd = s.wd := by simp only [State.putMword, putByte_wd]
@[simp] theorem putMword_answer (a : Nat) (w : Word) : (s.putMword a w).answer = s.answer := by simp only [State.putMword, putByte_answer]
@[simp] theorem putMword_pending (a : Nat) (w : Word) : (s.putMword a w).pending = s.pending := by simp only [State.putMword, putByte_pending]

@[simp] theorem setChan_regs (p : Nat) (c : Channel) : (s.setChan p c).regs = s.regs := by unfold State.setChan; rfl
@[simp] theorem setChan_staged (p : Nat) (c : Channel) : (s.setChan p c).staged = s.staged := by unfold State.setChan; rfl
@[simp] theorem setChan_marks (p : Nat) (c : Channel) : (s.setChan p c).marks = s.marks := by unfold State.setChan; rfl
@[simp] theorem setChan_pushes (p : Nat) (c : Channel) : (s.setChan p c).pushes = s.pushes := by unfold State.setChan; rfl
@[simp] theorem setChan_ledger (p : Nat) (c : Channel) : (s.setChan p c).ledger = s.ledger := by unfold State.setChan; rfl
@[simp] theorem setChan_mem (p : Nat) (c : Channel) : (s.setChan p c).mem = s.mem := by unfold State.setChan; rfl
@[simp] theorem setChan_chk (p : Nat) (c : Channel) : (s.setChan p c).chk = s.chk := by unfold State.setChan; rfl
@[simp] theorem setChan_now (p : Nat) (c : Channel) : (s.setChan p c).now = s.now := by unfold State.setChan; rfl
@[simp] theorem setChan_fresh (p : Nat) (c : Channel) : (s.setChan p c).fresh = s.fresh := by unfold State.setChan; rfl
@[simp] theorem setChan_polders (p : Nat) (c : Channel) : (s.setChan p c).polders = s.polders := by unfold State.setChan; rfl
@[simp] theorem setChan_drainQ (p : Nat) (c : Channel) : (s.setChan p c).drainQ = s.drainQ := by unfold State.setChan; rfl
@[simp] theorem setChan_coll (p : Nat) (c : Channel) : (s.setChan p c).coll = s.coll := by unfold State.setChan; rfl
@[simp] theorem setChan_tp (p : Nat) (c : Channel) : (s.setChan p c).tp = s.tp := by unfold State.setChan; rfl
@[simp] theorem setChan_hif (p : Nat) (c : Channel) : (s.setChan p c).hif = s.hif := by unfold State.setChan; rfl
@[simp] theorem setChan_commit (p : Nat) (c : Channel) : (s.setChan p c).commit = s.commit := by unfold State.setChan; rfl
@[simp] theorem setChan_engines (p : Nat) (c : Channel) : (s.setChan p c).engines = s.engines := by unfold State.setChan; rfl
@[simp] theorem setChan_loops (p : Nat) (c : Channel) : (s.setChan p c).loops = s.loops := by unfold State.setChan; rfl
@[simp] theorem setChan_slotShadows (p : Nat) (c : Channel) : (s.setChan p c).slotShadows = s.slotShadows := by unfold State.setChan; rfl
@[simp] theorem setChan_sup (p : Nat) (c : Channel) : (s.setChan p c).sup = s.sup := by unfold State.setChan; rfl
@[simp] theorem setChan_trl (p : Nat) (c : Channel) : (s.setChan p c).trl = s.trl := by unfold State.setChan; rfl
@[simp] theorem setChan_guards (p : Nat) (c : Channel) : (s.setChan p c).guards = s.guards := by unfold State.setChan; rfl
@[simp] theorem setChan_stages (p : Nat) (c : Channel) : (s.setChan p c).stages = s.stages := by unfold State.setChan; rfl
@[simp] theorem setChan_pilot (p : Nat) (c : Channel) : (s.setChan p c).pilot = s.pilot := by unfold State.setChan; rfl
@[simp] theorem setChan_samples (p : Nat) (c : Channel) : (s.setChan p c).samples = s.samples := by unfold State.setChan; rfl
@[simp] theorem setChan_waitingSeqs (p : Nat) (c : Channel) : (s.setChan p c).waitingSeqs = s.waitingSeqs := by unfold State.setChan; rfl
@[simp] theorem setChan_convs (p : Nat) (c : Channel) : (s.setChan p c).convs = s.convs := by unfold State.setChan; rfl
@[simp] theorem setChan_tdac (p : Nat) (c : Channel) : (s.setChan p c).tdac = s.tdac := by unfold State.setChan; rfl
@[simp] theorem setChan_sdFrom (p : Nat) (c : Channel) : (s.setChan p c).sdFrom = s.sdFrom := by unfold State.setChan; rfl
@[simp] theorem setChan_resolvers (p : Nat) (c : Channel) : (s.setChan p c).resolvers = s.resolvers := by unfold State.setChan; rfl
@[simp] theorem setChan_enc (p : Nat) (c : Channel) : (s.setChan p c).enc = s.enc := by unfold State.setChan; rfl
@[simp] theorem setChan_ifc (p : Nat) (c : Channel) : (s.setChan p c).ifc = s.ifc := by unfold State.setChan; rfl
@[simp] theorem setChan_syn (p : Nat) (c : Channel) : (s.setChan p c).syn = s.syn := by unfold State.setChan; rfl
@[simp] theorem setChan_sec (p : Nat) (c : Channel) : (s.setChan p c).sec = s.sec := by unfold State.setChan; rfl
@[simp] theorem setChan_dbg (p : Nat) (c : Channel) : (s.setChan p c).dbg = s.dbg := by unfold State.setChan; rfl
@[simp] theorem setChan_pwr (p : Nat) (c : Channel) : (s.setChan p c).pwr = s.pwr := by unfold State.setChan; rfl
@[simp] theorem setChan_sto (p : Nat) (c : Channel) : (s.setChan p c).sto = s.sto := by unfold State.setChan; rfl
@[simp] theorem setChan_wd (p : Nat) (c : Channel) : (s.setChan p c).wd = s.wd := by unfold State.setChan; rfl
@[simp] theorem setChan_answer (p : Nat) (c : Channel) : (s.setChan p c).answer = s.answer := by unfold State.setChan; rfl
@[simp] theorem setChan_pending (p : Nat) (c : Channel) : (s.setChan p c).pending = s.pending := by unfold State.setChan; rfl

@[simp] theorem setStage_regs (n : Nat) (x : Stage) : (s.setStage n x).regs = s.regs := by unfold State.setStage; rfl
@[simp] theorem setStage_staged (n : Nat) (x : Stage) : (s.setStage n x).staged = s.staged := by unfold State.setStage; rfl
@[simp] theorem setStage_marks (n : Nat) (x : Stage) : (s.setStage n x).marks = s.marks := by unfold State.setStage; rfl
@[simp] theorem setStage_pushes (n : Nat) (x : Stage) : (s.setStage n x).pushes = s.pushes := by unfold State.setStage; rfl
@[simp] theorem setStage_ledger (n : Nat) (x : Stage) : (s.setStage n x).ledger = s.ledger := by unfold State.setStage; rfl
@[simp] theorem setStage_mem (n : Nat) (x : Stage) : (s.setStage n x).mem = s.mem := by unfold State.setStage; rfl
@[simp] theorem setStage_chk (n : Nat) (x : Stage) : (s.setStage n x).chk = s.chk := by unfold State.setStage; rfl
@[simp] theorem setStage_now (n : Nat) (x : Stage) : (s.setStage n x).now = s.now := by unfold State.setStage; rfl
@[simp] theorem setStage_fresh (n : Nat) (x : Stage) : (s.setStage n x).fresh = s.fresh := by unfold State.setStage; rfl
@[simp] theorem setStage_polders (n : Nat) (x : Stage) : (s.setStage n x).polders = s.polders := by unfold State.setStage; rfl
@[simp] theorem setStage_drainQ (n : Nat) (x : Stage) : (s.setStage n x).drainQ = s.drainQ := by unfold State.setStage; rfl
@[simp] theorem setStage_coll (n : Nat) (x : Stage) : (s.setStage n x).coll = s.coll := by unfold State.setStage; rfl
@[simp] theorem setStage_tp (n : Nat) (x : Stage) : (s.setStage n x).tp = s.tp := by unfold State.setStage; rfl
@[simp] theorem setStage_hif (n : Nat) (x : Stage) : (s.setStage n x).hif = s.hif := by unfold State.setStage; rfl
@[simp] theorem setStage_commit (n : Nat) (x : Stage) : (s.setStage n x).commit = s.commit := by unfold State.setStage; rfl
@[simp] theorem setStage_engines (n : Nat) (x : Stage) : (s.setStage n x).engines = s.engines := by unfold State.setStage; rfl
@[simp] theorem setStage_loops (n : Nat) (x : Stage) : (s.setStage n x).loops = s.loops := by unfold State.setStage; rfl
@[simp] theorem setStage_slotShadows (n : Nat) (x : Stage) : (s.setStage n x).slotShadows = s.slotShadows := by unfold State.setStage; rfl
@[simp] theorem setStage_sup (n : Nat) (x : Stage) : (s.setStage n x).sup = s.sup := by unfold State.setStage; rfl
@[simp] theorem setStage_trl (n : Nat) (x : Stage) : (s.setStage n x).trl = s.trl := by unfold State.setStage; rfl
@[simp] theorem setStage_guards (n : Nat) (x : Stage) : (s.setStage n x).guards = s.guards := by unfold State.setStage; rfl
@[simp] theorem setStage_chans (n : Nat) (x : Stage) : (s.setStage n x).chans = s.chans := by unfold State.setStage; rfl
@[simp] theorem setStage_pilot (n : Nat) (x : Stage) : (s.setStage n x).pilot = s.pilot := by unfold State.setStage; rfl
@[simp] theorem setStage_samples (n : Nat) (x : Stage) : (s.setStage n x).samples = s.samples := by unfold State.setStage; rfl
@[simp] theorem setStage_waitingSeqs (n : Nat) (x : Stage) : (s.setStage n x).waitingSeqs = s.waitingSeqs := by unfold State.setStage; rfl
@[simp] theorem setStage_convs (n : Nat) (x : Stage) : (s.setStage n x).convs = s.convs := by unfold State.setStage; rfl
@[simp] theorem setStage_tdac (n : Nat) (x : Stage) : (s.setStage n x).tdac = s.tdac := by unfold State.setStage; rfl
@[simp] theorem setStage_sdFrom (n : Nat) (x : Stage) : (s.setStage n x).sdFrom = s.sdFrom := by unfold State.setStage; rfl
@[simp] theorem setStage_resolvers (n : Nat) (x : Stage) : (s.setStage n x).resolvers = s.resolvers := by unfold State.setStage; rfl
@[simp] theorem setStage_enc (n : Nat) (x : Stage) : (s.setStage n x).enc = s.enc := by unfold State.setStage; rfl
@[simp] theorem setStage_ifc (n : Nat) (x : Stage) : (s.setStage n x).ifc = s.ifc := by unfold State.setStage; rfl
@[simp] theorem setStage_syn (n : Nat) (x : Stage) : (s.setStage n x).syn = s.syn := by unfold State.setStage; rfl
@[simp] theorem setStage_sec (n : Nat) (x : Stage) : (s.setStage n x).sec = s.sec := by unfold State.setStage; rfl
@[simp] theorem setStage_dbg (n : Nat) (x : Stage) : (s.setStage n x).dbg = s.dbg := by unfold State.setStage; rfl
@[simp] theorem setStage_pwr (n : Nat) (x : Stage) : (s.setStage n x).pwr = s.pwr := by unfold State.setStage; rfl
@[simp] theorem setStage_sto (n : Nat) (x : Stage) : (s.setStage n x).sto = s.sto := by unfold State.setStage; rfl
@[simp] theorem setStage_wd (n : Nat) (x : Stage) : (s.setStage n x).wd = s.wd := by unfold State.setStage; rfl
@[simp] theorem setStage_answer (n : Nat) (x : Stage) : (s.setStage n x).answer = s.answer := by unfold State.setStage; rfl
@[simp] theorem setStage_pending (n : Nat) (x : Stage) : (s.setStage n x).pending = s.pending := by unfold State.setStage; rfl

@[simp] theorem setGuard_regs (p o : Nat) (g : Guard) : (s.setGuard p o g).regs = s.regs := by unfold State.setGuard; rfl
@[simp] theorem setGuard_staged (p o : Nat) (g : Guard) : (s.setGuard p o g).staged = s.staged := by unfold State.setGuard; rfl
@[simp] theorem setGuard_marks (p o : Nat) (g : Guard) : (s.setGuard p o g).marks = s.marks := by unfold State.setGuard; rfl
@[simp] theorem setGuard_pushes (p o : Nat) (g : Guard) : (s.setGuard p o g).pushes = s.pushes := by unfold State.setGuard; rfl
@[simp] theorem setGuard_ledger (p o : Nat) (g : Guard) : (s.setGuard p o g).ledger = s.ledger := by unfold State.setGuard; rfl
@[simp] theorem setGuard_mem (p o : Nat) (g : Guard) : (s.setGuard p o g).mem = s.mem := by unfold State.setGuard; rfl
@[simp] theorem setGuard_chk (p o : Nat) (g : Guard) : (s.setGuard p o g).chk = s.chk := by unfold State.setGuard; rfl
@[simp] theorem setGuard_now (p o : Nat) (g : Guard) : (s.setGuard p o g).now = s.now := by unfold State.setGuard; rfl
@[simp] theorem setGuard_fresh (p o : Nat) (g : Guard) : (s.setGuard p o g).fresh = s.fresh := by unfold State.setGuard; rfl
@[simp] theorem setGuard_polders (p o : Nat) (g : Guard) : (s.setGuard p o g).polders = s.polders := by unfold State.setGuard; rfl
@[simp] theorem setGuard_drainQ (p o : Nat) (g : Guard) : (s.setGuard p o g).drainQ = s.drainQ := by unfold State.setGuard; rfl
@[simp] theorem setGuard_coll (p o : Nat) (g : Guard) : (s.setGuard p o g).coll = s.coll := by unfold State.setGuard; rfl
@[simp] theorem setGuard_tp (p o : Nat) (g : Guard) : (s.setGuard p o g).tp = s.tp := by unfold State.setGuard; rfl
@[simp] theorem setGuard_hif (p o : Nat) (g : Guard) : (s.setGuard p o g).hif = s.hif := by unfold State.setGuard; rfl
@[simp] theorem setGuard_commit (p o : Nat) (g : Guard) : (s.setGuard p o g).commit = s.commit := by unfold State.setGuard; rfl
@[simp] theorem setGuard_engines (p o : Nat) (g : Guard) : (s.setGuard p o g).engines = s.engines := by unfold State.setGuard; rfl
@[simp] theorem setGuard_loops (p o : Nat) (g : Guard) : (s.setGuard p o g).loops = s.loops := by unfold State.setGuard; rfl
@[simp] theorem setGuard_slotShadows (p o : Nat) (g : Guard) : (s.setGuard p o g).slotShadows = s.slotShadows := by unfold State.setGuard; rfl
@[simp] theorem setGuard_sup (p o : Nat) (g : Guard) : (s.setGuard p o g).sup = s.sup := by unfold State.setGuard; rfl
@[simp] theorem setGuard_trl (p o : Nat) (g : Guard) : (s.setGuard p o g).trl = s.trl := by unfold State.setGuard; rfl
@[simp] theorem setGuard_chans (p o : Nat) (g : Guard) : (s.setGuard p o g).chans = s.chans := by unfold State.setGuard; rfl
@[simp] theorem setGuard_stages (p o : Nat) (g : Guard) : (s.setGuard p o g).stages = s.stages := by unfold State.setGuard; rfl
@[simp] theorem setGuard_pilot (p o : Nat) (g : Guard) : (s.setGuard p o g).pilot = s.pilot := by unfold State.setGuard; rfl
@[simp] theorem setGuard_samples (p o : Nat) (g : Guard) : (s.setGuard p o g).samples = s.samples := by unfold State.setGuard; rfl
@[simp] theorem setGuard_waitingSeqs (p o : Nat) (g : Guard) : (s.setGuard p o g).waitingSeqs = s.waitingSeqs := by unfold State.setGuard; rfl
@[simp] theorem setGuard_convs (p o : Nat) (g : Guard) : (s.setGuard p o g).convs = s.convs := by unfold State.setGuard; rfl
@[simp] theorem setGuard_tdac (p o : Nat) (g : Guard) : (s.setGuard p o g).tdac = s.tdac := by unfold State.setGuard; rfl
@[simp] theorem setGuard_sdFrom (p o : Nat) (g : Guard) : (s.setGuard p o g).sdFrom = s.sdFrom := by unfold State.setGuard; rfl
@[simp] theorem setGuard_resolvers (p o : Nat) (g : Guard) : (s.setGuard p o g).resolvers = s.resolvers := by unfold State.setGuard; rfl
@[simp] theorem setGuard_enc (p o : Nat) (g : Guard) : (s.setGuard p o g).enc = s.enc := by unfold State.setGuard; rfl
@[simp] theorem setGuard_ifc (p o : Nat) (g : Guard) : (s.setGuard p o g).ifc = s.ifc := by unfold State.setGuard; rfl
@[simp] theorem setGuard_syn (p o : Nat) (g : Guard) : (s.setGuard p o g).syn = s.syn := by unfold State.setGuard; rfl
@[simp] theorem setGuard_sec (p o : Nat) (g : Guard) : (s.setGuard p o g).sec = s.sec := by unfold State.setGuard; rfl
@[simp] theorem setGuard_dbg (p o : Nat) (g : Guard) : (s.setGuard p o g).dbg = s.dbg := by unfold State.setGuard; rfl
@[simp] theorem setGuard_pwr (p o : Nat) (g : Guard) : (s.setGuard p o g).pwr = s.pwr := by unfold State.setGuard; rfl
@[simp] theorem setGuard_sto (p o : Nat) (g : Guard) : (s.setGuard p o g).sto = s.sto := by unfold State.setGuard; rfl
@[simp] theorem setGuard_wd (p o : Nat) (g : Guard) : (s.setGuard p o g).wd = s.wd := by unfold State.setGuard; rfl
@[simp] theorem setGuard_answer (p o : Nat) (g : Guard) : (s.setGuard p o g).answer = s.answer := by unfold State.setGuard; rfl
@[simp] theorem setGuard_pending (p o : Nat) (g : Guard) : (s.setGuard p o g).pending = s.pending := by unfold State.setGuard; rfl

@[simp] theorem setConv_regs (n : Nat) (c : Converter) : (s.setConv n c).regs = s.regs := by unfold State.setConv; rfl
@[simp] theorem setConv_staged (n : Nat) (c : Converter) : (s.setConv n c).staged = s.staged := by unfold State.setConv; rfl
@[simp] theorem setConv_marks (n : Nat) (c : Converter) : (s.setConv n c).marks = s.marks := by unfold State.setConv; rfl
@[simp] theorem setConv_pushes (n : Nat) (c : Converter) : (s.setConv n c).pushes = s.pushes := by unfold State.setConv; rfl
@[simp] theorem setConv_ledger (n : Nat) (c : Converter) : (s.setConv n c).ledger = s.ledger := by unfold State.setConv; rfl
@[simp] theorem setConv_mem (n : Nat) (c : Converter) : (s.setConv n c).mem = s.mem := by unfold State.setConv; rfl
@[simp] theorem setConv_chk (n : Nat) (c : Converter) : (s.setConv n c).chk = s.chk := by unfold State.setConv; rfl
@[simp] theorem setConv_now (n : Nat) (c : Converter) : (s.setConv n c).now = s.now := by unfold State.setConv; rfl
@[simp] theorem setConv_fresh (n : Nat) (c : Converter) : (s.setConv n c).fresh = s.fresh := by unfold State.setConv; rfl
@[simp] theorem setConv_polders (n : Nat) (c : Converter) : (s.setConv n c).polders = s.polders := by unfold State.setConv; rfl
@[simp] theorem setConv_drainQ (n : Nat) (c : Converter) : (s.setConv n c).drainQ = s.drainQ := by unfold State.setConv; rfl
@[simp] theorem setConv_coll (n : Nat) (c : Converter) : (s.setConv n c).coll = s.coll := by unfold State.setConv; rfl
@[simp] theorem setConv_tp (n : Nat) (c : Converter) : (s.setConv n c).tp = s.tp := by unfold State.setConv; rfl
@[simp] theorem setConv_hif (n : Nat) (c : Converter) : (s.setConv n c).hif = s.hif := by unfold State.setConv; rfl
@[simp] theorem setConv_commit (n : Nat) (c : Converter) : (s.setConv n c).commit = s.commit := by unfold State.setConv; rfl
@[simp] theorem setConv_engines (n : Nat) (c : Converter) : (s.setConv n c).engines = s.engines := by unfold State.setConv; rfl
@[simp] theorem setConv_loops (n : Nat) (c : Converter) : (s.setConv n c).loops = s.loops := by unfold State.setConv; rfl
@[simp] theorem setConv_slotShadows (n : Nat) (c : Converter) : (s.setConv n c).slotShadows = s.slotShadows := by unfold State.setConv; rfl
@[simp] theorem setConv_sup (n : Nat) (c : Converter) : (s.setConv n c).sup = s.sup := by unfold State.setConv; rfl
@[simp] theorem setConv_trl (n : Nat) (c : Converter) : (s.setConv n c).trl = s.trl := by unfold State.setConv; rfl
@[simp] theorem setConv_guards (n : Nat) (c : Converter) : (s.setConv n c).guards = s.guards := by unfold State.setConv; rfl
@[simp] theorem setConv_chans (n : Nat) (c : Converter) : (s.setConv n c).chans = s.chans := by unfold State.setConv; rfl
@[simp] theorem setConv_stages (n : Nat) (c : Converter) : (s.setConv n c).stages = s.stages := by unfold State.setConv; rfl
@[simp] theorem setConv_pilot (n : Nat) (c : Converter) : (s.setConv n c).pilot = s.pilot := by unfold State.setConv; rfl
@[simp] theorem setConv_samples (n : Nat) (c : Converter) : (s.setConv n c).samples = s.samples := by unfold State.setConv; rfl
@[simp] theorem setConv_waitingSeqs (n : Nat) (c : Converter) : (s.setConv n c).waitingSeqs = s.waitingSeqs := by unfold State.setConv; rfl
@[simp] theorem setConv_tdac (n : Nat) (c : Converter) : (s.setConv n c).tdac = s.tdac := by unfold State.setConv; rfl
@[simp] theorem setConv_sdFrom (n : Nat) (c : Converter) : (s.setConv n c).sdFrom = s.sdFrom := by unfold State.setConv; rfl
@[simp] theorem setConv_resolvers (n : Nat) (c : Converter) : (s.setConv n c).resolvers = s.resolvers := by unfold State.setConv; rfl
@[simp] theorem setConv_enc (n : Nat) (c : Converter) : (s.setConv n c).enc = s.enc := by unfold State.setConv; rfl
@[simp] theorem setConv_ifc (n : Nat) (c : Converter) : (s.setConv n c).ifc = s.ifc := by unfold State.setConv; rfl
@[simp] theorem setConv_syn (n : Nat) (c : Converter) : (s.setConv n c).syn = s.syn := by unfold State.setConv; rfl
@[simp] theorem setConv_sec (n : Nat) (c : Converter) : (s.setConv n c).sec = s.sec := by unfold State.setConv; rfl
@[simp] theorem setConv_dbg (n : Nat) (c : Converter) : (s.setConv n c).dbg = s.dbg := by unfold State.setConv; rfl
@[simp] theorem setConv_pwr (n : Nat) (c : Converter) : (s.setConv n c).pwr = s.pwr := by unfold State.setConv; rfl
@[simp] theorem setConv_sto (n : Nat) (c : Converter) : (s.setConv n c).sto = s.sto := by unfold State.setConv; rfl
@[simp] theorem setConv_wd (n : Nat) (c : Converter) : (s.setConv n c).wd = s.wd := by unfold State.setConv; rfl
@[simp] theorem setConv_answer (n : Nat) (c : Converter) : (s.setConv n c).answer = s.answer := by unfold State.setConv; rfl
@[simp] theorem setConv_pending (n : Nat) (c : Converter) : (s.setConv n c).pending = s.pending := by unfold State.setConv; rfl

@[simp] theorem setEng_regs (e : Nat) (x : Engine) : (s.setEng e x).regs = s.regs := by unfold State.setEng; rfl
@[simp] theorem setEng_staged (e : Nat) (x : Engine) : (s.setEng e x).staged = s.staged := by unfold State.setEng; rfl
@[simp] theorem setEng_marks (e : Nat) (x : Engine) : (s.setEng e x).marks = s.marks := by unfold State.setEng; rfl
@[simp] theorem setEng_pushes (e : Nat) (x : Engine) : (s.setEng e x).pushes = s.pushes := by unfold State.setEng; rfl
@[simp] theorem setEng_ledger (e : Nat) (x : Engine) : (s.setEng e x).ledger = s.ledger := by unfold State.setEng; rfl
@[simp] theorem setEng_mem (e : Nat) (x : Engine) : (s.setEng e x).mem = s.mem := by unfold State.setEng; rfl
@[simp] theorem setEng_chk (e : Nat) (x : Engine) : (s.setEng e x).chk = s.chk := by unfold State.setEng; rfl
@[simp] theorem setEng_now (e : Nat) (x : Engine) : (s.setEng e x).now = s.now := by unfold State.setEng; rfl
@[simp] theorem setEng_fresh (e : Nat) (x : Engine) : (s.setEng e x).fresh = s.fresh := by unfold State.setEng; rfl
@[simp] theorem setEng_polders (e : Nat) (x : Engine) : (s.setEng e x).polders = s.polders := by unfold State.setEng; rfl
@[simp] theorem setEng_drainQ (e : Nat) (x : Engine) : (s.setEng e x).drainQ = s.drainQ := by unfold State.setEng; rfl
@[simp] theorem setEng_coll (e : Nat) (x : Engine) : (s.setEng e x).coll = s.coll := by unfold State.setEng; rfl
@[simp] theorem setEng_tp (e : Nat) (x : Engine) : (s.setEng e x).tp = s.tp := by unfold State.setEng; rfl
@[simp] theorem setEng_hif (e : Nat) (x : Engine) : (s.setEng e x).hif = s.hif := by unfold State.setEng; rfl
@[simp] theorem setEng_commit (e : Nat) (x : Engine) : (s.setEng e x).commit = s.commit := by unfold State.setEng; rfl
@[simp] theorem setEng_loops (e : Nat) (x : Engine) : (s.setEng e x).loops = s.loops := by unfold State.setEng; rfl
@[simp] theorem setEng_slotShadows (e : Nat) (x : Engine) : (s.setEng e x).slotShadows = s.slotShadows := by unfold State.setEng; rfl
@[simp] theorem setEng_sup (e : Nat) (x : Engine) : (s.setEng e x).sup = s.sup := by unfold State.setEng; rfl
@[simp] theorem setEng_trl (e : Nat) (x : Engine) : (s.setEng e x).trl = s.trl := by unfold State.setEng; rfl
@[simp] theorem setEng_guards (e : Nat) (x : Engine) : (s.setEng e x).guards = s.guards := by unfold State.setEng; rfl
@[simp] theorem setEng_chans (e : Nat) (x : Engine) : (s.setEng e x).chans = s.chans := by unfold State.setEng; rfl
@[simp] theorem setEng_stages (e : Nat) (x : Engine) : (s.setEng e x).stages = s.stages := by unfold State.setEng; rfl
@[simp] theorem setEng_pilot (e : Nat) (x : Engine) : (s.setEng e x).pilot = s.pilot := by unfold State.setEng; rfl
@[simp] theorem setEng_samples (e : Nat) (x : Engine) : (s.setEng e x).samples = s.samples := by unfold State.setEng; rfl
@[simp] theorem setEng_waitingSeqs (e : Nat) (x : Engine) : (s.setEng e x).waitingSeqs = s.waitingSeqs := by unfold State.setEng; rfl
@[simp] theorem setEng_convs (e : Nat) (x : Engine) : (s.setEng e x).convs = s.convs := by unfold State.setEng; rfl
@[simp] theorem setEng_tdac (e : Nat) (x : Engine) : (s.setEng e x).tdac = s.tdac := by unfold State.setEng; rfl
@[simp] theorem setEng_sdFrom (e : Nat) (x : Engine) : (s.setEng e x).sdFrom = s.sdFrom := by unfold State.setEng; rfl
@[simp] theorem setEng_resolvers (e : Nat) (x : Engine) : (s.setEng e x).resolvers = s.resolvers := by unfold State.setEng; rfl
@[simp] theorem setEng_enc (e : Nat) (x : Engine) : (s.setEng e x).enc = s.enc := by unfold State.setEng; rfl
@[simp] theorem setEng_ifc (e : Nat) (x : Engine) : (s.setEng e x).ifc = s.ifc := by unfold State.setEng; rfl
@[simp] theorem setEng_syn (e : Nat) (x : Engine) : (s.setEng e x).syn = s.syn := by unfold State.setEng; rfl
@[simp] theorem setEng_sec (e : Nat) (x : Engine) : (s.setEng e x).sec = s.sec := by unfold State.setEng; rfl
@[simp] theorem setEng_dbg (e : Nat) (x : Engine) : (s.setEng e x).dbg = s.dbg := by unfold State.setEng; rfl
@[simp] theorem setEng_pwr (e : Nat) (x : Engine) : (s.setEng e x).pwr = s.pwr := by unfold State.setEng; rfl
@[simp] theorem setEng_sto (e : Nat) (x : Engine) : (s.setEng e x).sto = s.sto := by unfold State.setEng; rfl
@[simp] theorem setEng_wd (e : Nat) (x : Engine) : (s.setEng e x).wd = s.wd := by unfold State.setEng; rfl
@[simp] theorem setEng_answer (e : Nat) (x : Engine) : (s.setEng e x).answer = s.answer := by unfold State.setEng; rfl
@[simp] theorem setEng_pending (e : Nat) (x : Engine) : (s.setEng e x).pending = s.pending := by unfold State.setEng; rfl

@[simp] theorem setCtx_regs (e : Nat) (c : Context) : (s.setCtx e c).regs = s.regs := setEng_regs s _ _
@[simp] theorem setCtx_staged (e : Nat) (c : Context) : (s.setCtx e c).staged = s.staged := setEng_staged s _ _
@[simp] theorem setCtx_marks (e : Nat) (c : Context) : (s.setCtx e c).marks = s.marks := setEng_marks s _ _
@[simp] theorem setCtx_pushes (e : Nat) (c : Context) : (s.setCtx e c).pushes = s.pushes := setEng_pushes s _ _
@[simp] theorem setCtx_ledger (e : Nat) (c : Context) : (s.setCtx e c).ledger = s.ledger := setEng_ledger s _ _
@[simp] theorem setCtx_mem (e : Nat) (c : Context) : (s.setCtx e c).mem = s.mem := setEng_mem s _ _
@[simp] theorem setCtx_chk (e : Nat) (c : Context) : (s.setCtx e c).chk = s.chk := setEng_chk s _ _
@[simp] theorem setCtx_now (e : Nat) (c : Context) : (s.setCtx e c).now = s.now := setEng_now s _ _
@[simp] theorem setCtx_fresh (e : Nat) (c : Context) : (s.setCtx e c).fresh = s.fresh := setEng_fresh s _ _
@[simp] theorem setCtx_polders (e : Nat) (c : Context) : (s.setCtx e c).polders = s.polders := setEng_polders s _ _
@[simp] theorem setCtx_drainQ (e : Nat) (c : Context) : (s.setCtx e c).drainQ = s.drainQ := setEng_drainQ s _ _
@[simp] theorem setCtx_coll (e : Nat) (c : Context) : (s.setCtx e c).coll = s.coll := setEng_coll s _ _
@[simp] theorem setCtx_tp (e : Nat) (c : Context) : (s.setCtx e c).tp = s.tp := setEng_tp s _ _
@[simp] theorem setCtx_hif (e : Nat) (c : Context) : (s.setCtx e c).hif = s.hif := setEng_hif s _ _
@[simp] theorem setCtx_commit (e : Nat) (c : Context) : (s.setCtx e c).commit = s.commit := setEng_commit s _ _
@[simp] theorem setCtx_loops (e : Nat) (c : Context) : (s.setCtx e c).loops = s.loops := setEng_loops s _ _
@[simp] theorem setCtx_slotShadows (e : Nat) (c : Context) : (s.setCtx e c).slotShadows = s.slotShadows := setEng_slotShadows s _ _
@[simp] theorem setCtx_sup (e : Nat) (c : Context) : (s.setCtx e c).sup = s.sup := setEng_sup s _ _
@[simp] theorem setCtx_trl (e : Nat) (c : Context) : (s.setCtx e c).trl = s.trl := setEng_trl s _ _
@[simp] theorem setCtx_guards (e : Nat) (c : Context) : (s.setCtx e c).guards = s.guards := setEng_guards s _ _
@[simp] theorem setCtx_chans (e : Nat) (c : Context) : (s.setCtx e c).chans = s.chans := setEng_chans s _ _
@[simp] theorem setCtx_stages (e : Nat) (c : Context) : (s.setCtx e c).stages = s.stages := setEng_stages s _ _
@[simp] theorem setCtx_pilot (e : Nat) (c : Context) : (s.setCtx e c).pilot = s.pilot := setEng_pilot s _ _
@[simp] theorem setCtx_samples (e : Nat) (c : Context) : (s.setCtx e c).samples = s.samples := setEng_samples s _ _
@[simp] theorem setCtx_waitingSeqs (e : Nat) (c : Context) : (s.setCtx e c).waitingSeqs = s.waitingSeqs := setEng_waitingSeqs s _ _
@[simp] theorem setCtx_convs (e : Nat) (c : Context) : (s.setCtx e c).convs = s.convs := setEng_convs s _ _
@[simp] theorem setCtx_tdac (e : Nat) (c : Context) : (s.setCtx e c).tdac = s.tdac := setEng_tdac s _ _
@[simp] theorem setCtx_sdFrom (e : Nat) (c : Context) : (s.setCtx e c).sdFrom = s.sdFrom := setEng_sdFrom s _ _
@[simp] theorem setCtx_resolvers (e : Nat) (c : Context) : (s.setCtx e c).resolvers = s.resolvers := setEng_resolvers s _ _
@[simp] theorem setCtx_enc (e : Nat) (c : Context) : (s.setCtx e c).enc = s.enc := setEng_enc s _ _
@[simp] theorem setCtx_ifc (e : Nat) (c : Context) : (s.setCtx e c).ifc = s.ifc := setEng_ifc s _ _
@[simp] theorem setCtx_syn (e : Nat) (c : Context) : (s.setCtx e c).syn = s.syn := setEng_syn s _ _
@[simp] theorem setCtx_sec (e : Nat) (c : Context) : (s.setCtx e c).sec = s.sec := setEng_sec s _ _
@[simp] theorem setCtx_dbg (e : Nat) (c : Context) : (s.setCtx e c).dbg = s.dbg := setEng_dbg s _ _
@[simp] theorem setCtx_pwr (e : Nat) (c : Context) : (s.setCtx e c).pwr = s.pwr := setEng_pwr s _ _
@[simp] theorem setCtx_sto (e : Nat) (c : Context) : (s.setCtx e c).sto = s.sto := setEng_sto s _ _
@[simp] theorem setCtx_wd (e : Nat) (c : Context) : (s.setCtx e c).wd = s.wd := setEng_wd s _ _
@[simp] theorem setCtx_answer (e : Nat) (c : Context) : (s.setCtx e c).answer = s.answer := setEng_answer s _ _
@[simp] theorem setCtx_pending (e : Nat) (c : Context) : (s.setCtx e c).pending = s.pending := setEng_pending s _ _

@[simp] theorem setLoop_regs (l : Nat) (x : LoopRec) : (s.setLoop l x).regs = s.regs := by unfold State.setLoop; rfl
@[simp] theorem setLoop_staged (l : Nat) (x : LoopRec) : (s.setLoop l x).staged = s.staged := by unfold State.setLoop; rfl
@[simp] theorem setLoop_marks (l : Nat) (x : LoopRec) : (s.setLoop l x).marks = s.marks := by unfold State.setLoop; rfl
@[simp] theorem setLoop_pushes (l : Nat) (x : LoopRec) : (s.setLoop l x).pushes = s.pushes := by unfold State.setLoop; rfl
@[simp] theorem setLoop_ledger (l : Nat) (x : LoopRec) : (s.setLoop l x).ledger = s.ledger := by unfold State.setLoop; rfl
@[simp] theorem setLoop_mem (l : Nat) (x : LoopRec) : (s.setLoop l x).mem = s.mem := by unfold State.setLoop; rfl
@[simp] theorem setLoop_chk (l : Nat) (x : LoopRec) : (s.setLoop l x).chk = s.chk := by unfold State.setLoop; rfl
@[simp] theorem setLoop_now (l : Nat) (x : LoopRec) : (s.setLoop l x).now = s.now := by unfold State.setLoop; rfl
@[simp] theorem setLoop_fresh (l : Nat) (x : LoopRec) : (s.setLoop l x).fresh = s.fresh := by unfold State.setLoop; rfl
@[simp] theorem setLoop_polders (l : Nat) (x : LoopRec) : (s.setLoop l x).polders = s.polders := by unfold State.setLoop; rfl
@[simp] theorem setLoop_drainQ (l : Nat) (x : LoopRec) : (s.setLoop l x).drainQ = s.drainQ := by unfold State.setLoop; rfl
@[simp] theorem setLoop_coll (l : Nat) (x : LoopRec) : (s.setLoop l x).coll = s.coll := by unfold State.setLoop; rfl
@[simp] theorem setLoop_tp (l : Nat) (x : LoopRec) : (s.setLoop l x).tp = s.tp := by unfold State.setLoop; rfl
@[simp] theorem setLoop_hif (l : Nat) (x : LoopRec) : (s.setLoop l x).hif = s.hif := by unfold State.setLoop; rfl
@[simp] theorem setLoop_commit (l : Nat) (x : LoopRec) : (s.setLoop l x).commit = s.commit := by unfold State.setLoop; rfl
@[simp] theorem setLoop_engines (l : Nat) (x : LoopRec) : (s.setLoop l x).engines = s.engines := by unfold State.setLoop; rfl
@[simp] theorem setLoop_slotShadows (l : Nat) (x : LoopRec) : (s.setLoop l x).slotShadows = s.slotShadows := by unfold State.setLoop; rfl
@[simp] theorem setLoop_sup (l : Nat) (x : LoopRec) : (s.setLoop l x).sup = s.sup := by unfold State.setLoop; rfl
@[simp] theorem setLoop_trl (l : Nat) (x : LoopRec) : (s.setLoop l x).trl = s.trl := by unfold State.setLoop; rfl
@[simp] theorem setLoop_guards (l : Nat) (x : LoopRec) : (s.setLoop l x).guards = s.guards := by unfold State.setLoop; rfl
@[simp] theorem setLoop_chans (l : Nat) (x : LoopRec) : (s.setLoop l x).chans = s.chans := by unfold State.setLoop; rfl
@[simp] theorem setLoop_stages (l : Nat) (x : LoopRec) : (s.setLoop l x).stages = s.stages := by unfold State.setLoop; rfl
@[simp] theorem setLoop_pilot (l : Nat) (x : LoopRec) : (s.setLoop l x).pilot = s.pilot := by unfold State.setLoop; rfl
@[simp] theorem setLoop_samples (l : Nat) (x : LoopRec) : (s.setLoop l x).samples = s.samples := by unfold State.setLoop; rfl
@[simp] theorem setLoop_waitingSeqs (l : Nat) (x : LoopRec) : (s.setLoop l x).waitingSeqs = s.waitingSeqs := by unfold State.setLoop; rfl
@[simp] theorem setLoop_convs (l : Nat) (x : LoopRec) : (s.setLoop l x).convs = s.convs := by unfold State.setLoop; rfl
@[simp] theorem setLoop_tdac (l : Nat) (x : LoopRec) : (s.setLoop l x).tdac = s.tdac := by unfold State.setLoop; rfl
@[simp] theorem setLoop_sdFrom (l : Nat) (x : LoopRec) : (s.setLoop l x).sdFrom = s.sdFrom := by unfold State.setLoop; rfl
@[simp] theorem setLoop_resolvers (l : Nat) (x : LoopRec) : (s.setLoop l x).resolvers = s.resolvers := by unfold State.setLoop; rfl
@[simp] theorem setLoop_enc (l : Nat) (x : LoopRec) : (s.setLoop l x).enc = s.enc := by unfold State.setLoop; rfl
@[simp] theorem setLoop_ifc (l : Nat) (x : LoopRec) : (s.setLoop l x).ifc = s.ifc := by unfold State.setLoop; rfl
@[simp] theorem setLoop_syn (l : Nat) (x : LoopRec) : (s.setLoop l x).syn = s.syn := by unfold State.setLoop; rfl
@[simp] theorem setLoop_sec (l : Nat) (x : LoopRec) : (s.setLoop l x).sec = s.sec := by unfold State.setLoop; rfl
@[simp] theorem setLoop_dbg (l : Nat) (x : LoopRec) : (s.setLoop l x).dbg = s.dbg := by unfold State.setLoop; rfl
@[simp] theorem setLoop_pwr (l : Nat) (x : LoopRec) : (s.setLoop l x).pwr = s.pwr := by unfold State.setLoop; rfl
@[simp] theorem setLoop_sto (l : Nat) (x : LoopRec) : (s.setLoop l x).sto = s.sto := by unfold State.setLoop; rfl
@[simp] theorem setLoop_wd (l : Nat) (x : LoopRec) : (s.setLoop l x).wd = s.wd := by unfold State.setLoop; rfl
@[simp] theorem setLoop_answer (l : Nat) (x : LoopRec) : (s.setLoop l x).answer = s.answer := by unfold State.setLoop; rfl
@[simp] theorem setLoop_pending (l : Nat) (x : LoopRec) : (s.setLoop l x).pending = s.pending := by unfold State.setLoop; rfl

@[simp] theorem setResolver_regs (n : Nat) (r : Resolver) : (s.setResolver n r).regs = s.regs := by unfold State.setResolver; rfl
@[simp] theorem setResolver_staged (n : Nat) (r : Resolver) : (s.setResolver n r).staged = s.staged := by unfold State.setResolver; rfl
@[simp] theorem setResolver_marks (n : Nat) (r : Resolver) : (s.setResolver n r).marks = s.marks := by unfold State.setResolver; rfl
@[simp] theorem setResolver_pushes (n : Nat) (r : Resolver) : (s.setResolver n r).pushes = s.pushes := by unfold State.setResolver; rfl
@[simp] theorem setResolver_ledger (n : Nat) (r : Resolver) : (s.setResolver n r).ledger = s.ledger := by unfold State.setResolver; rfl
@[simp] theorem setResolver_mem (n : Nat) (r : Resolver) : (s.setResolver n r).mem = s.mem := by unfold State.setResolver; rfl
@[simp] theorem setResolver_chk (n : Nat) (r : Resolver) : (s.setResolver n r).chk = s.chk := by unfold State.setResolver; rfl
@[simp] theorem setResolver_now (n : Nat) (r : Resolver) : (s.setResolver n r).now = s.now := by unfold State.setResolver; rfl
@[simp] theorem setResolver_fresh (n : Nat) (r : Resolver) : (s.setResolver n r).fresh = s.fresh := by unfold State.setResolver; rfl
@[simp] theorem setResolver_polders (n : Nat) (r : Resolver) : (s.setResolver n r).polders = s.polders := by unfold State.setResolver; rfl
@[simp] theorem setResolver_drainQ (n : Nat) (r : Resolver) : (s.setResolver n r).drainQ = s.drainQ := by unfold State.setResolver; rfl
@[simp] theorem setResolver_coll (n : Nat) (r : Resolver) : (s.setResolver n r).coll = s.coll := by unfold State.setResolver; rfl
@[simp] theorem setResolver_tp (n : Nat) (r : Resolver) : (s.setResolver n r).tp = s.tp := by unfold State.setResolver; rfl
@[simp] theorem setResolver_hif (n : Nat) (r : Resolver) : (s.setResolver n r).hif = s.hif := by unfold State.setResolver; rfl
@[simp] theorem setResolver_commit (n : Nat) (r : Resolver) : (s.setResolver n r).commit = s.commit := by unfold State.setResolver; rfl
@[simp] theorem setResolver_engines (n : Nat) (r : Resolver) : (s.setResolver n r).engines = s.engines := by unfold State.setResolver; rfl
@[simp] theorem setResolver_loops (n : Nat) (r : Resolver) : (s.setResolver n r).loops = s.loops := by unfold State.setResolver; rfl
@[simp] theorem setResolver_slotShadows (n : Nat) (r : Resolver) : (s.setResolver n r).slotShadows = s.slotShadows := by unfold State.setResolver; rfl
@[simp] theorem setResolver_sup (n : Nat) (r : Resolver) : (s.setResolver n r).sup = s.sup := by unfold State.setResolver; rfl
@[simp] theorem setResolver_trl (n : Nat) (r : Resolver) : (s.setResolver n r).trl = s.trl := by unfold State.setResolver; rfl
@[simp] theorem setResolver_guards (n : Nat) (r : Resolver) : (s.setResolver n r).guards = s.guards := by unfold State.setResolver; rfl
@[simp] theorem setResolver_chans (n : Nat) (r : Resolver) : (s.setResolver n r).chans = s.chans := by unfold State.setResolver; rfl
@[simp] theorem setResolver_stages (n : Nat) (r : Resolver) : (s.setResolver n r).stages = s.stages := by unfold State.setResolver; rfl
@[simp] theorem setResolver_pilot (n : Nat) (r : Resolver) : (s.setResolver n r).pilot = s.pilot := by unfold State.setResolver; rfl
@[simp] theorem setResolver_samples (n : Nat) (r : Resolver) : (s.setResolver n r).samples = s.samples := by unfold State.setResolver; rfl
@[simp] theorem setResolver_waitingSeqs (n : Nat) (r : Resolver) : (s.setResolver n r).waitingSeqs = s.waitingSeqs := by unfold State.setResolver; rfl
@[simp] theorem setResolver_convs (n : Nat) (r : Resolver) : (s.setResolver n r).convs = s.convs := by unfold State.setResolver; rfl
@[simp] theorem setResolver_tdac (n : Nat) (r : Resolver) : (s.setResolver n r).tdac = s.tdac := by unfold State.setResolver; rfl
@[simp] theorem setResolver_sdFrom (n : Nat) (r : Resolver) : (s.setResolver n r).sdFrom = s.sdFrom := by unfold State.setResolver; rfl
@[simp] theorem setResolver_enc (n : Nat) (r : Resolver) : (s.setResolver n r).enc = s.enc := by unfold State.setResolver; rfl
@[simp] theorem setResolver_ifc (n : Nat) (r : Resolver) : (s.setResolver n r).ifc = s.ifc := by unfold State.setResolver; rfl
@[simp] theorem setResolver_syn (n : Nat) (r : Resolver) : (s.setResolver n r).syn = s.syn := by unfold State.setResolver; rfl
@[simp] theorem setResolver_sec (n : Nat) (r : Resolver) : (s.setResolver n r).sec = s.sec := by unfold State.setResolver; rfl
@[simp] theorem setResolver_dbg (n : Nat) (r : Resolver) : (s.setResolver n r).dbg = s.dbg := by unfold State.setResolver; rfl
@[simp] theorem setResolver_pwr (n : Nat) (r : Resolver) : (s.setResolver n r).pwr = s.pwr := by unfold State.setResolver; rfl
@[simp] theorem setResolver_sto (n : Nat) (r : Resolver) : (s.setResolver n r).sto = s.sto := by unfold State.setResolver; rfl
@[simp] theorem setResolver_wd (n : Nat) (r : Resolver) : (s.setResolver n r).wd = s.wd := by unfold State.setResolver; rfl
@[simp] theorem setResolver_answer (n : Nat) (r : Resolver) : (s.setResolver n r).answer = s.answer := by unfold State.setResolver; rfl
@[simp] theorem setResolver_pending (n : Nat) (r : Resolver) : (s.setResolver n r).pending = s.pending := by unfold State.setResolver; rfl

@[simp] theorem setSample_regs (h : Nat) (x : Sample) : (s.setSample h x).regs = s.regs := by unfold State.setSample; rfl
@[simp] theorem setSample_staged (h : Nat) (x : Sample) : (s.setSample h x).staged = s.staged := by unfold State.setSample; rfl
@[simp] theorem setSample_marks (h : Nat) (x : Sample) : (s.setSample h x).marks = s.marks := by unfold State.setSample; rfl
@[simp] theorem setSample_pushes (h : Nat) (x : Sample) : (s.setSample h x).pushes = s.pushes := by unfold State.setSample; rfl
@[simp] theorem setSample_ledger (h : Nat) (x : Sample) : (s.setSample h x).ledger = s.ledger := by unfold State.setSample; rfl
@[simp] theorem setSample_mem (h : Nat) (x : Sample) : (s.setSample h x).mem = s.mem := by unfold State.setSample; rfl
@[simp] theorem setSample_chk (h : Nat) (x : Sample) : (s.setSample h x).chk = s.chk := by unfold State.setSample; rfl
@[simp] theorem setSample_now (h : Nat) (x : Sample) : (s.setSample h x).now = s.now := by unfold State.setSample; rfl
@[simp] theorem setSample_fresh (h : Nat) (x : Sample) : (s.setSample h x).fresh = s.fresh := by unfold State.setSample; rfl
@[simp] theorem setSample_polders (h : Nat) (x : Sample) : (s.setSample h x).polders = s.polders := by unfold State.setSample; rfl
@[simp] theorem setSample_drainQ (h : Nat) (x : Sample) : (s.setSample h x).drainQ = s.drainQ := by unfold State.setSample; rfl
@[simp] theorem setSample_coll (h : Nat) (x : Sample) : (s.setSample h x).coll = s.coll := by unfold State.setSample; rfl
@[simp] theorem setSample_tp (h : Nat) (x : Sample) : (s.setSample h x).tp = s.tp := by unfold State.setSample; rfl
@[simp] theorem setSample_hif (h : Nat) (x : Sample) : (s.setSample h x).hif = s.hif := by unfold State.setSample; rfl
@[simp] theorem setSample_commit (h : Nat) (x : Sample) : (s.setSample h x).commit = s.commit := by unfold State.setSample; rfl
@[simp] theorem setSample_engines (h : Nat) (x : Sample) : (s.setSample h x).engines = s.engines := by unfold State.setSample; rfl
@[simp] theorem setSample_loops (h : Nat) (x : Sample) : (s.setSample h x).loops = s.loops := by unfold State.setSample; rfl
@[simp] theorem setSample_slotShadows (h : Nat) (x : Sample) : (s.setSample h x).slotShadows = s.slotShadows := by unfold State.setSample; rfl
@[simp] theorem setSample_sup (h : Nat) (x : Sample) : (s.setSample h x).sup = s.sup := by unfold State.setSample; rfl
@[simp] theorem setSample_trl (h : Nat) (x : Sample) : (s.setSample h x).trl = s.trl := by unfold State.setSample; rfl
@[simp] theorem setSample_guards (h : Nat) (x : Sample) : (s.setSample h x).guards = s.guards := by unfold State.setSample; rfl
@[simp] theorem setSample_chans (h : Nat) (x : Sample) : (s.setSample h x).chans = s.chans := by unfold State.setSample; rfl
@[simp] theorem setSample_stages (h : Nat) (x : Sample) : (s.setSample h x).stages = s.stages := by unfold State.setSample; rfl
@[simp] theorem setSample_pilot (h : Nat) (x : Sample) : (s.setSample h x).pilot = s.pilot := by unfold State.setSample; rfl
@[simp] theorem setSample_waitingSeqs (h : Nat) (x : Sample) : (s.setSample h x).waitingSeqs = s.waitingSeqs := by unfold State.setSample; rfl
@[simp] theorem setSample_convs (h : Nat) (x : Sample) : (s.setSample h x).convs = s.convs := by unfold State.setSample; rfl
@[simp] theorem setSample_tdac (h : Nat) (x : Sample) : (s.setSample h x).tdac = s.tdac := by unfold State.setSample; rfl
@[simp] theorem setSample_sdFrom (h : Nat) (x : Sample) : (s.setSample h x).sdFrom = s.sdFrom := by unfold State.setSample; rfl
@[simp] theorem setSample_resolvers (h : Nat) (x : Sample) : (s.setSample h x).resolvers = s.resolvers := by unfold State.setSample; rfl
@[simp] theorem setSample_enc (h : Nat) (x : Sample) : (s.setSample h x).enc = s.enc := by unfold State.setSample; rfl
@[simp] theorem setSample_ifc (h : Nat) (x : Sample) : (s.setSample h x).ifc = s.ifc := by unfold State.setSample; rfl
@[simp] theorem setSample_syn (h : Nat) (x : Sample) : (s.setSample h x).syn = s.syn := by unfold State.setSample; rfl
@[simp] theorem setSample_sec (h : Nat) (x : Sample) : (s.setSample h x).sec = s.sec := by unfold State.setSample; rfl
@[simp] theorem setSample_dbg (h : Nat) (x : Sample) : (s.setSample h x).dbg = s.dbg := by unfold State.setSample; rfl
@[simp] theorem setSample_pwr (h : Nat) (x : Sample) : (s.setSample h x).pwr = s.pwr := by unfold State.setSample; rfl
@[simp] theorem setSample_sto (h : Nat) (x : Sample) : (s.setSample h x).sto = s.sto := by unfold State.setSample; rfl
@[simp] theorem setSample_wd (h : Nat) (x : Sample) : (s.setSample h x).wd = s.wd := by unfold State.setSample; rfl
@[simp] theorem setSample_answer (h : Nat) (x : Sample) : (s.setSample h x).answer = s.answer := by unfold State.setSample; rfl
@[simp] theorem setSample_pending (h : Nat) (x : Sample) : (s.setSample h x).pending = s.pending := by unfold State.setSample; rfl

@[simp] theorem setSyn_regs (f : Ryuger → Ryuger) : (s.setSyn f).regs = s.regs := by unfold State.setSyn; rfl
@[simp] theorem setSyn_staged (f : Ryuger → Ryuger) : (s.setSyn f).staged = s.staged := by unfold State.setSyn; rfl
@[simp] theorem setSyn_marks (f : Ryuger → Ryuger) : (s.setSyn f).marks = s.marks := by unfold State.setSyn; rfl
@[simp] theorem setSyn_pushes (f : Ryuger → Ryuger) : (s.setSyn f).pushes = s.pushes := by unfold State.setSyn; rfl
@[simp] theorem setSyn_ledger (f : Ryuger → Ryuger) : (s.setSyn f).ledger = s.ledger := by unfold State.setSyn; rfl
@[simp] theorem setSyn_mem (f : Ryuger → Ryuger) : (s.setSyn f).mem = s.mem := by unfold State.setSyn; rfl
@[simp] theorem setSyn_chk (f : Ryuger → Ryuger) : (s.setSyn f).chk = s.chk := by unfold State.setSyn; rfl
@[simp] theorem setSyn_now (f : Ryuger → Ryuger) : (s.setSyn f).now = s.now := by unfold State.setSyn; rfl
@[simp] theorem setSyn_fresh (f : Ryuger → Ryuger) : (s.setSyn f).fresh = s.fresh := by unfold State.setSyn; rfl
@[simp] theorem setSyn_polders (f : Ryuger → Ryuger) : (s.setSyn f).polders = s.polders := by unfold State.setSyn; rfl
@[simp] theorem setSyn_drainQ (f : Ryuger → Ryuger) : (s.setSyn f).drainQ = s.drainQ := by unfold State.setSyn; rfl
@[simp] theorem setSyn_coll (f : Ryuger → Ryuger) : (s.setSyn f).coll = s.coll := by unfold State.setSyn; rfl
@[simp] theorem setSyn_tp (f : Ryuger → Ryuger) : (s.setSyn f).tp = s.tp := by unfold State.setSyn; rfl
@[simp] theorem setSyn_hif (f : Ryuger → Ryuger) : (s.setSyn f).hif = s.hif := by unfold State.setSyn; rfl
@[simp] theorem setSyn_commit (f : Ryuger → Ryuger) : (s.setSyn f).commit = s.commit := by unfold State.setSyn; rfl
@[simp] theorem setSyn_engines (f : Ryuger → Ryuger) : (s.setSyn f).engines = s.engines := by unfold State.setSyn; rfl
@[simp] theorem setSyn_loops (f : Ryuger → Ryuger) : (s.setSyn f).loops = s.loops := by unfold State.setSyn; rfl
@[simp] theorem setSyn_slotShadows (f : Ryuger → Ryuger) : (s.setSyn f).slotShadows = s.slotShadows := by unfold State.setSyn; rfl
@[simp] theorem setSyn_sup (f : Ryuger → Ryuger) : (s.setSyn f).sup = s.sup := by unfold State.setSyn; rfl
@[simp] theorem setSyn_trl (f : Ryuger → Ryuger) : (s.setSyn f).trl = s.trl := by unfold State.setSyn; rfl
@[simp] theorem setSyn_guards (f : Ryuger → Ryuger) : (s.setSyn f).guards = s.guards := by unfold State.setSyn; rfl
@[simp] theorem setSyn_chans (f : Ryuger → Ryuger) : (s.setSyn f).chans = s.chans := by unfold State.setSyn; rfl
@[simp] theorem setSyn_stages (f : Ryuger → Ryuger) : (s.setSyn f).stages = s.stages := by unfold State.setSyn; rfl
@[simp] theorem setSyn_pilot (f : Ryuger → Ryuger) : (s.setSyn f).pilot = s.pilot := by unfold State.setSyn; rfl
@[simp] theorem setSyn_samples (f : Ryuger → Ryuger) : (s.setSyn f).samples = s.samples := by unfold State.setSyn; rfl
@[simp] theorem setSyn_waitingSeqs (f : Ryuger → Ryuger) : (s.setSyn f).waitingSeqs = s.waitingSeqs := by unfold State.setSyn; rfl
@[simp] theorem setSyn_convs (f : Ryuger → Ryuger) : (s.setSyn f).convs = s.convs := by unfold State.setSyn; rfl
@[simp] theorem setSyn_tdac (f : Ryuger → Ryuger) : (s.setSyn f).tdac = s.tdac := by unfold State.setSyn; rfl
@[simp] theorem setSyn_sdFrom (f : Ryuger → Ryuger) : (s.setSyn f).sdFrom = s.sdFrom := by unfold State.setSyn; rfl
@[simp] theorem setSyn_resolvers (f : Ryuger → Ryuger) : (s.setSyn f).resolvers = s.resolvers := by unfold State.setSyn; rfl
@[simp] theorem setSyn_enc (f : Ryuger → Ryuger) : (s.setSyn f).enc = s.enc := by unfold State.setSyn; rfl
@[simp] theorem setSyn_ifc (f : Ryuger → Ryuger) : (s.setSyn f).ifc = s.ifc := by unfold State.setSyn; rfl
@[simp] theorem setSyn_sec (f : Ryuger → Ryuger) : (s.setSyn f).sec = s.sec := by unfold State.setSyn; rfl
@[simp] theorem setSyn_dbg (f : Ryuger → Ryuger) : (s.setSyn f).dbg = s.dbg := by unfold State.setSyn; rfl
@[simp] theorem setSyn_pwr (f : Ryuger → Ryuger) : (s.setSyn f).pwr = s.pwr := by unfold State.setSyn; rfl
@[simp] theorem setSyn_sto (f : Ryuger → Ryuger) : (s.setSyn f).sto = s.sto := by unfold State.setSyn; rfl
@[simp] theorem setSyn_wd (f : Ryuger → Ryuger) : (s.setSyn f).wd = s.wd := by unfold State.setSyn; rfl
@[simp] theorem setSyn_answer (f : Ryuger → Ryuger) : (s.setSyn f).answer = s.answer := by unfold State.setSyn; rfl
@[simp] theorem setSyn_pending (f : Ryuger → Ryuger) : (s.setSyn f).pending = s.pending := by unfold State.setSyn; rfl

@[simp] theorem setSynChan_regs (ch : Nat) (c : SynChannel) : (s.setSynChan ch c).regs = s.regs := setSyn_regs s _
@[simp] theorem setSynChan_staged (ch : Nat) (c : SynChannel) : (s.setSynChan ch c).staged = s.staged := setSyn_staged s _
@[simp] theorem setSynChan_marks (ch : Nat) (c : SynChannel) : (s.setSynChan ch c).marks = s.marks := setSyn_marks s _
@[simp] theorem setSynChan_pushes (ch : Nat) (c : SynChannel) : (s.setSynChan ch c).pushes = s.pushes := setSyn_pushes s _
@[simp] theorem setSynChan_ledger (ch : Nat) (c : SynChannel) : (s.setSynChan ch c).ledger = s.ledger := setSyn_ledger s _
@[simp] theorem setSynChan_mem (ch : Nat) (c : SynChannel) : (s.setSynChan ch c).mem = s.mem := setSyn_mem s _
@[simp] theorem setSynChan_chk (ch : Nat) (c : SynChannel) : (s.setSynChan ch c).chk = s.chk := setSyn_chk s _
@[simp] theorem setSynChan_now (ch : Nat) (c : SynChannel) : (s.setSynChan ch c).now = s.now := setSyn_now s _
@[simp] theorem setSynChan_fresh (ch : Nat) (c : SynChannel) : (s.setSynChan ch c).fresh = s.fresh := setSyn_fresh s _
@[simp] theorem setSynChan_polders (ch : Nat) (c : SynChannel) : (s.setSynChan ch c).polders = s.polders := setSyn_polders s _
@[simp] theorem setSynChan_drainQ (ch : Nat) (c : SynChannel) : (s.setSynChan ch c).drainQ = s.drainQ := setSyn_drainQ s _
@[simp] theorem setSynChan_coll (ch : Nat) (c : SynChannel) : (s.setSynChan ch c).coll = s.coll := setSyn_coll s _
@[simp] theorem setSynChan_tp (ch : Nat) (c : SynChannel) : (s.setSynChan ch c).tp = s.tp := setSyn_tp s _
@[simp] theorem setSynChan_hif (ch : Nat) (c : SynChannel) : (s.setSynChan ch c).hif = s.hif := setSyn_hif s _
@[simp] theorem setSynChan_commit (ch : Nat) (c : SynChannel) : (s.setSynChan ch c).commit = s.commit := setSyn_commit s _
@[simp] theorem setSynChan_engines (ch : Nat) (c : SynChannel) : (s.setSynChan ch c).engines = s.engines := setSyn_engines s _
@[simp] theorem setSynChan_loops (ch : Nat) (c : SynChannel) : (s.setSynChan ch c).loops = s.loops := setSyn_loops s _
@[simp] theorem setSynChan_slotShadows (ch : Nat) (c : SynChannel) : (s.setSynChan ch c).slotShadows = s.slotShadows := setSyn_slotShadows s _
@[simp] theorem setSynChan_sup (ch : Nat) (c : SynChannel) : (s.setSynChan ch c).sup = s.sup := setSyn_sup s _
@[simp] theorem setSynChan_trl (ch : Nat) (c : SynChannel) : (s.setSynChan ch c).trl = s.trl := setSyn_trl s _
@[simp] theorem setSynChan_guards (ch : Nat) (c : SynChannel) : (s.setSynChan ch c).guards = s.guards := setSyn_guards s _
@[simp] theorem setSynChan_chans (ch : Nat) (c : SynChannel) : (s.setSynChan ch c).chans = s.chans := setSyn_chans s _
@[simp] theorem setSynChan_stages (ch : Nat) (c : SynChannel) : (s.setSynChan ch c).stages = s.stages := setSyn_stages s _
@[simp] theorem setSynChan_pilot (ch : Nat) (c : SynChannel) : (s.setSynChan ch c).pilot = s.pilot := setSyn_pilot s _
@[simp] theorem setSynChan_samples (ch : Nat) (c : SynChannel) : (s.setSynChan ch c).samples = s.samples := setSyn_samples s _
@[simp] theorem setSynChan_waitingSeqs (ch : Nat) (c : SynChannel) : (s.setSynChan ch c).waitingSeqs = s.waitingSeqs := setSyn_waitingSeqs s _
@[simp] theorem setSynChan_convs (ch : Nat) (c : SynChannel) : (s.setSynChan ch c).convs = s.convs := setSyn_convs s _
@[simp] theorem setSynChan_tdac (ch : Nat) (c : SynChannel) : (s.setSynChan ch c).tdac = s.tdac := setSyn_tdac s _
@[simp] theorem setSynChan_sdFrom (ch : Nat) (c : SynChannel) : (s.setSynChan ch c).sdFrom = s.sdFrom := setSyn_sdFrom s _
@[simp] theorem setSynChan_resolvers (ch : Nat) (c : SynChannel) : (s.setSynChan ch c).resolvers = s.resolvers := setSyn_resolvers s _
@[simp] theorem setSynChan_enc (ch : Nat) (c : SynChannel) : (s.setSynChan ch c).enc = s.enc := setSyn_enc s _
@[simp] theorem setSynChan_ifc (ch : Nat) (c : SynChannel) : (s.setSynChan ch c).ifc = s.ifc := setSyn_ifc s _
@[simp] theorem setSynChan_sec (ch : Nat) (c : SynChannel) : (s.setSynChan ch c).sec = s.sec := setSyn_sec s _
@[simp] theorem setSynChan_dbg (ch : Nat) (c : SynChannel) : (s.setSynChan ch c).dbg = s.dbg := setSyn_dbg s _
@[simp] theorem setSynChan_pwr (ch : Nat) (c : SynChannel) : (s.setSynChan ch c).pwr = s.pwr := setSyn_pwr s _
@[simp] theorem setSynChan_sto (ch : Nat) (c : SynChannel) : (s.setSynChan ch c).sto = s.sto := setSyn_sto s _
@[simp] theorem setSynChan_wd (ch : Nat) (c : SynChannel) : (s.setSynChan ch c).wd = s.wd := setSyn_wd s _
@[simp] theorem setSynChan_answer (ch : Nat) (c : SynChannel) : (s.setSynChan ch c).answer = s.answer := setSyn_answer s _
@[simp] theorem setSynChan_pending (ch : Nat) (c : SynChannel) : (s.setSynChan ch c).pending = s.pending := setSyn_pending s _

@[simp] theorem setSec_regs (f : Security → Security) : (s.setSec f).regs = s.regs := by unfold State.setSec; rfl
@[simp] theorem setSec_staged (f : Security → Security) : (s.setSec f).staged = s.staged := by unfold State.setSec; rfl
@[simp] theorem setSec_marks (f : Security → Security) : (s.setSec f).marks = s.marks := by unfold State.setSec; rfl
@[simp] theorem setSec_pushes (f : Security → Security) : (s.setSec f).pushes = s.pushes := by unfold State.setSec; rfl
@[simp] theorem setSec_ledger (f : Security → Security) : (s.setSec f).ledger = s.ledger := by unfold State.setSec; rfl
@[simp] theorem setSec_mem (f : Security → Security) : (s.setSec f).mem = s.mem := by unfold State.setSec; rfl
@[simp] theorem setSec_chk (f : Security → Security) : (s.setSec f).chk = s.chk := by unfold State.setSec; rfl
@[simp] theorem setSec_now (f : Security → Security) : (s.setSec f).now = s.now := by unfold State.setSec; rfl
@[simp] theorem setSec_fresh (f : Security → Security) : (s.setSec f).fresh = s.fresh := by unfold State.setSec; rfl
@[simp] theorem setSec_polders (f : Security → Security) : (s.setSec f).polders = s.polders := by unfold State.setSec; rfl
@[simp] theorem setSec_drainQ (f : Security → Security) : (s.setSec f).drainQ = s.drainQ := by unfold State.setSec; rfl
@[simp] theorem setSec_coll (f : Security → Security) : (s.setSec f).coll = s.coll := by unfold State.setSec; rfl
@[simp] theorem setSec_tp (f : Security → Security) : (s.setSec f).tp = s.tp := by unfold State.setSec; rfl
@[simp] theorem setSec_hif (f : Security → Security) : (s.setSec f).hif = s.hif := by unfold State.setSec; rfl
@[simp] theorem setSec_commit (f : Security → Security) : (s.setSec f).commit = s.commit := by unfold State.setSec; rfl
@[simp] theorem setSec_engines (f : Security → Security) : (s.setSec f).engines = s.engines := by unfold State.setSec; rfl
@[simp] theorem setSec_loops (f : Security → Security) : (s.setSec f).loops = s.loops := by unfold State.setSec; rfl
@[simp] theorem setSec_slotShadows (f : Security → Security) : (s.setSec f).slotShadows = s.slotShadows := by unfold State.setSec; rfl
@[simp] theorem setSec_sup (f : Security → Security) : (s.setSec f).sup = s.sup := by unfold State.setSec; rfl
@[simp] theorem setSec_trl (f : Security → Security) : (s.setSec f).trl = s.trl := by unfold State.setSec; rfl
@[simp] theorem setSec_guards (f : Security → Security) : (s.setSec f).guards = s.guards := by unfold State.setSec; rfl
@[simp] theorem setSec_chans (f : Security → Security) : (s.setSec f).chans = s.chans := by unfold State.setSec; rfl
@[simp] theorem setSec_stages (f : Security → Security) : (s.setSec f).stages = s.stages := by unfold State.setSec; rfl
@[simp] theorem setSec_pilot (f : Security → Security) : (s.setSec f).pilot = s.pilot := by unfold State.setSec; rfl
@[simp] theorem setSec_samples (f : Security → Security) : (s.setSec f).samples = s.samples := by unfold State.setSec; rfl
@[simp] theorem setSec_waitingSeqs (f : Security → Security) : (s.setSec f).waitingSeqs = s.waitingSeqs := by unfold State.setSec; rfl
@[simp] theorem setSec_convs (f : Security → Security) : (s.setSec f).convs = s.convs := by unfold State.setSec; rfl
@[simp] theorem setSec_tdac (f : Security → Security) : (s.setSec f).tdac = s.tdac := by unfold State.setSec; rfl
@[simp] theorem setSec_sdFrom (f : Security → Security) : (s.setSec f).sdFrom = s.sdFrom := by unfold State.setSec; rfl
@[simp] theorem setSec_resolvers (f : Security → Security) : (s.setSec f).resolvers = s.resolvers := by unfold State.setSec; rfl
@[simp] theorem setSec_enc (f : Security → Security) : (s.setSec f).enc = s.enc := by unfold State.setSec; rfl
@[simp] theorem setSec_ifc (f : Security → Security) : (s.setSec f).ifc = s.ifc := by unfold State.setSec; rfl
@[simp] theorem setSec_syn (f : Security → Security) : (s.setSec f).syn = s.syn := by unfold State.setSec; rfl
@[simp] theorem setSec_dbg (f : Security → Security) : (s.setSec f).dbg = s.dbg := by unfold State.setSec; rfl
@[simp] theorem setSec_pwr (f : Security → Security) : (s.setSec f).pwr = s.pwr := by unfold State.setSec; rfl
@[simp] theorem setSec_sto (f : Security → Security) : (s.setSec f).sto = s.sto := by unfold State.setSec; rfl
@[simp] theorem setSec_wd (f : Security → Security) : (s.setSec f).wd = s.wd := by unfold State.setSec; rfl
@[simp] theorem setSec_answer (f : Security → Security) : (s.setSec f).answer = s.answer := by unfold State.setSec; rfl
@[simp] theorem setSec_pending (f : Security → Security) : (s.setSec f).pending = s.pending := by unfold State.setSec; rfl

@[simp] theorem setDbg_regs (f : DebugPort → DebugPort) : (s.setDbg f).regs = s.regs := by unfold State.setDbg; rfl
@[simp] theorem setDbg_staged (f : DebugPort → DebugPort) : (s.setDbg f).staged = s.staged := by unfold State.setDbg; rfl
@[simp] theorem setDbg_marks (f : DebugPort → DebugPort) : (s.setDbg f).marks = s.marks := by unfold State.setDbg; rfl
@[simp] theorem setDbg_pushes (f : DebugPort → DebugPort) : (s.setDbg f).pushes = s.pushes := by unfold State.setDbg; rfl
@[simp] theorem setDbg_ledger (f : DebugPort → DebugPort) : (s.setDbg f).ledger = s.ledger := by unfold State.setDbg; rfl
@[simp] theorem setDbg_mem (f : DebugPort → DebugPort) : (s.setDbg f).mem = s.mem := by unfold State.setDbg; rfl
@[simp] theorem setDbg_chk (f : DebugPort → DebugPort) : (s.setDbg f).chk = s.chk := by unfold State.setDbg; rfl
@[simp] theorem setDbg_now (f : DebugPort → DebugPort) : (s.setDbg f).now = s.now := by unfold State.setDbg; rfl
@[simp] theorem setDbg_fresh (f : DebugPort → DebugPort) : (s.setDbg f).fresh = s.fresh := by unfold State.setDbg; rfl
@[simp] theorem setDbg_polders (f : DebugPort → DebugPort) : (s.setDbg f).polders = s.polders := by unfold State.setDbg; rfl
@[simp] theorem setDbg_drainQ (f : DebugPort → DebugPort) : (s.setDbg f).drainQ = s.drainQ := by unfold State.setDbg; rfl
@[simp] theorem setDbg_coll (f : DebugPort → DebugPort) : (s.setDbg f).coll = s.coll := by unfold State.setDbg; rfl
@[simp] theorem setDbg_tp (f : DebugPort → DebugPort) : (s.setDbg f).tp = s.tp := by unfold State.setDbg; rfl
@[simp] theorem setDbg_hif (f : DebugPort → DebugPort) : (s.setDbg f).hif = s.hif := by unfold State.setDbg; rfl
@[simp] theorem setDbg_commit (f : DebugPort → DebugPort) : (s.setDbg f).commit = s.commit := by unfold State.setDbg; rfl
@[simp] theorem setDbg_engines (f : DebugPort → DebugPort) : (s.setDbg f).engines = s.engines := by unfold State.setDbg; rfl
@[simp] theorem setDbg_loops (f : DebugPort → DebugPort) : (s.setDbg f).loops = s.loops := by unfold State.setDbg; rfl
@[simp] theorem setDbg_slotShadows (f : DebugPort → DebugPort) : (s.setDbg f).slotShadows = s.slotShadows := by unfold State.setDbg; rfl
@[simp] theorem setDbg_sup (f : DebugPort → DebugPort) : (s.setDbg f).sup = s.sup := by unfold State.setDbg; rfl
@[simp] theorem setDbg_trl (f : DebugPort → DebugPort) : (s.setDbg f).trl = s.trl := by unfold State.setDbg; rfl
@[simp] theorem setDbg_guards (f : DebugPort → DebugPort) : (s.setDbg f).guards = s.guards := by unfold State.setDbg; rfl
@[simp] theorem setDbg_chans (f : DebugPort → DebugPort) : (s.setDbg f).chans = s.chans := by unfold State.setDbg; rfl
@[simp] theorem setDbg_stages (f : DebugPort → DebugPort) : (s.setDbg f).stages = s.stages := by unfold State.setDbg; rfl
@[simp] theorem setDbg_pilot (f : DebugPort → DebugPort) : (s.setDbg f).pilot = s.pilot := by unfold State.setDbg; rfl
@[simp] theorem setDbg_samples (f : DebugPort → DebugPort) : (s.setDbg f).samples = s.samples := by unfold State.setDbg; rfl
@[simp] theorem setDbg_waitingSeqs (f : DebugPort → DebugPort) : (s.setDbg f).waitingSeqs = s.waitingSeqs := by unfold State.setDbg; rfl
@[simp] theorem setDbg_convs (f : DebugPort → DebugPort) : (s.setDbg f).convs = s.convs := by unfold State.setDbg; rfl
@[simp] theorem setDbg_tdac (f : DebugPort → DebugPort) : (s.setDbg f).tdac = s.tdac := by unfold State.setDbg; rfl
@[simp] theorem setDbg_sdFrom (f : DebugPort → DebugPort) : (s.setDbg f).sdFrom = s.sdFrom := by unfold State.setDbg; rfl
@[simp] theorem setDbg_resolvers (f : DebugPort → DebugPort) : (s.setDbg f).resolvers = s.resolvers := by unfold State.setDbg; rfl
@[simp] theorem setDbg_enc (f : DebugPort → DebugPort) : (s.setDbg f).enc = s.enc := by unfold State.setDbg; rfl
@[simp] theorem setDbg_ifc (f : DebugPort → DebugPort) : (s.setDbg f).ifc = s.ifc := by unfold State.setDbg; rfl
@[simp] theorem setDbg_syn (f : DebugPort → DebugPort) : (s.setDbg f).syn = s.syn := by unfold State.setDbg; rfl
@[simp] theorem setDbg_sec (f : DebugPort → DebugPort) : (s.setDbg f).sec = s.sec := by unfold State.setDbg; rfl
@[simp] theorem setDbg_pwr (f : DebugPort → DebugPort) : (s.setDbg f).pwr = s.pwr := by unfold State.setDbg; rfl
@[simp] theorem setDbg_sto (f : DebugPort → DebugPort) : (s.setDbg f).sto = s.sto := by unfold State.setDbg; rfl
@[simp] theorem setDbg_wd (f : DebugPort → DebugPort) : (s.setDbg f).wd = s.wd := by unfold State.setDbg; rfl
@[simp] theorem setDbg_answer (f : DebugPort → DebugPort) : (s.setDbg f).answer = s.answer := by unfold State.setDbg; rfl
@[simp] theorem setDbg_pending (f : DebugPort → DebugPort) : (s.setDbg f).pending = s.pending := by unfold State.setDbg; rfl

@[simp] theorem setPwr_regs (f : Power → Power) : (s.setPwr f).regs = s.regs := by unfold State.setPwr; rfl
@[simp] theorem setPwr_staged (f : Power → Power) : (s.setPwr f).staged = s.staged := by unfold State.setPwr; rfl
@[simp] theorem setPwr_marks (f : Power → Power) : (s.setPwr f).marks = s.marks := by unfold State.setPwr; rfl
@[simp] theorem setPwr_pushes (f : Power → Power) : (s.setPwr f).pushes = s.pushes := by unfold State.setPwr; rfl
@[simp] theorem setPwr_ledger (f : Power → Power) : (s.setPwr f).ledger = s.ledger := by unfold State.setPwr; rfl
@[simp] theorem setPwr_mem (f : Power → Power) : (s.setPwr f).mem = s.mem := by unfold State.setPwr; rfl
@[simp] theorem setPwr_chk (f : Power → Power) : (s.setPwr f).chk = s.chk := by unfold State.setPwr; rfl
@[simp] theorem setPwr_now (f : Power → Power) : (s.setPwr f).now = s.now := by unfold State.setPwr; rfl
@[simp] theorem setPwr_fresh (f : Power → Power) : (s.setPwr f).fresh = s.fresh := by unfold State.setPwr; rfl
@[simp] theorem setPwr_polders (f : Power → Power) : (s.setPwr f).polders = s.polders := by unfold State.setPwr; rfl
@[simp] theorem setPwr_drainQ (f : Power → Power) : (s.setPwr f).drainQ = s.drainQ := by unfold State.setPwr; rfl
@[simp] theorem setPwr_coll (f : Power → Power) : (s.setPwr f).coll = s.coll := by unfold State.setPwr; rfl
@[simp] theorem setPwr_tp (f : Power → Power) : (s.setPwr f).tp = s.tp := by unfold State.setPwr; rfl
@[simp] theorem setPwr_hif (f : Power → Power) : (s.setPwr f).hif = s.hif := by unfold State.setPwr; rfl
@[simp] theorem setPwr_commit (f : Power → Power) : (s.setPwr f).commit = s.commit := by unfold State.setPwr; rfl
@[simp] theorem setPwr_engines (f : Power → Power) : (s.setPwr f).engines = s.engines := by unfold State.setPwr; rfl
@[simp] theorem setPwr_loops (f : Power → Power) : (s.setPwr f).loops = s.loops := by unfold State.setPwr; rfl
@[simp] theorem setPwr_slotShadows (f : Power → Power) : (s.setPwr f).slotShadows = s.slotShadows := by unfold State.setPwr; rfl
@[simp] theorem setPwr_sup (f : Power → Power) : (s.setPwr f).sup = s.sup := by unfold State.setPwr; rfl
@[simp] theorem setPwr_trl (f : Power → Power) : (s.setPwr f).trl = s.trl := by unfold State.setPwr; rfl
@[simp] theorem setPwr_guards (f : Power → Power) : (s.setPwr f).guards = s.guards := by unfold State.setPwr; rfl
@[simp] theorem setPwr_chans (f : Power → Power) : (s.setPwr f).chans = s.chans := by unfold State.setPwr; rfl
@[simp] theorem setPwr_stages (f : Power → Power) : (s.setPwr f).stages = s.stages := by unfold State.setPwr; rfl
@[simp] theorem setPwr_pilot (f : Power → Power) : (s.setPwr f).pilot = s.pilot := by unfold State.setPwr; rfl
@[simp] theorem setPwr_samples (f : Power → Power) : (s.setPwr f).samples = s.samples := by unfold State.setPwr; rfl
@[simp] theorem setPwr_waitingSeqs (f : Power → Power) : (s.setPwr f).waitingSeqs = s.waitingSeqs := by unfold State.setPwr; rfl
@[simp] theorem setPwr_convs (f : Power → Power) : (s.setPwr f).convs = s.convs := by unfold State.setPwr; rfl
@[simp] theorem setPwr_tdac (f : Power → Power) : (s.setPwr f).tdac = s.tdac := by unfold State.setPwr; rfl
@[simp] theorem setPwr_sdFrom (f : Power → Power) : (s.setPwr f).sdFrom = s.sdFrom := by unfold State.setPwr; rfl
@[simp] theorem setPwr_resolvers (f : Power → Power) : (s.setPwr f).resolvers = s.resolvers := by unfold State.setPwr; rfl
@[simp] theorem setPwr_enc (f : Power → Power) : (s.setPwr f).enc = s.enc := by unfold State.setPwr; rfl
@[simp] theorem setPwr_ifc (f : Power → Power) : (s.setPwr f).ifc = s.ifc := by unfold State.setPwr; rfl
@[simp] theorem setPwr_syn (f : Power → Power) : (s.setPwr f).syn = s.syn := by unfold State.setPwr; rfl
@[simp] theorem setPwr_sec (f : Power → Power) : (s.setPwr f).sec = s.sec := by unfold State.setPwr; rfl
@[simp] theorem setPwr_dbg (f : Power → Power) : (s.setPwr f).dbg = s.dbg := by unfold State.setPwr; rfl
@[simp] theorem setPwr_sto (f : Power → Power) : (s.setPwr f).sto = s.sto := by unfold State.setPwr; rfl
@[simp] theorem setPwr_wd (f : Power → Power) : (s.setPwr f).wd = s.wd := by unfold State.setPwr; rfl
@[simp] theorem setPwr_answer (f : Power → Power) : (s.setPwr f).answer = s.answer := by unfold State.setPwr; rfl
@[simp] theorem setPwr_pending (f : Power → Power) : (s.setPwr f).pending = s.pending := by unfold State.setPwr; rfl

@[simp] theorem reportAs_regs (r : Report) : (s.reportAs r).regs = s.regs := by unfold State.reportAs; (repeat' split) <;> rfl
@[simp] theorem reportAs_staged (r : Report) : (s.reportAs r).staged = s.staged := by unfold State.reportAs; (repeat' split) <;> rfl
@[simp] theorem reportAs_marks (r : Report) : (s.reportAs r).marks = s.marks := by unfold State.reportAs; (repeat' split) <;> rfl
@[simp] theorem reportAs_pushes (r : Report) : (s.reportAs r).pushes = s.pushes := by unfold State.reportAs; (repeat' split) <;> rfl
@[simp] theorem reportAs_ledger (r : Report) : (s.reportAs r).ledger = s.ledger := by unfold State.reportAs; (repeat' split) <;> rfl
@[simp] theorem reportAs_mem (r : Report) : (s.reportAs r).mem = s.mem := by unfold State.reportAs; (repeat' split) <;> rfl
@[simp] theorem reportAs_chk (r : Report) : (s.reportAs r).chk = s.chk := by unfold State.reportAs; (repeat' split) <;> rfl
@[simp] theorem reportAs_now (r : Report) : (s.reportAs r).now = s.now := by unfold State.reportAs; (repeat' split) <;> rfl
@[simp] theorem reportAs_fresh (r : Report) : (s.reportAs r).fresh = s.fresh := by unfold State.reportAs; (repeat' split) <;> rfl
@[simp] theorem reportAs_polders (r : Report) : (s.reportAs r).polders = s.polders := by unfold State.reportAs; (repeat' split) <;> rfl
@[simp] theorem reportAs_drainQ (r : Report) : (s.reportAs r).drainQ = s.drainQ := by unfold State.reportAs; (repeat' split) <;> rfl
@[simp] theorem reportAs_tp (r : Report) : (s.reportAs r).tp = s.tp := by unfold State.reportAs; (repeat' split) <;> rfl
@[simp] theorem reportAs_hif (r : Report) : (s.reportAs r).hif = s.hif := by unfold State.reportAs; (repeat' split) <;> rfl
@[simp] theorem reportAs_commit (r : Report) : (s.reportAs r).commit = s.commit := by unfold State.reportAs; (repeat' split) <;> rfl
@[simp] theorem reportAs_engines (r : Report) : (s.reportAs r).engines = s.engines := by unfold State.reportAs; (repeat' split) <;> rfl
@[simp] theorem reportAs_loops (r : Report) : (s.reportAs r).loops = s.loops := by unfold State.reportAs; (repeat' split) <;> rfl
@[simp] theorem reportAs_slotShadows (r : Report) : (s.reportAs r).slotShadows = s.slotShadows := by unfold State.reportAs; (repeat' split) <;> rfl
@[simp] theorem reportAs_sup (r : Report) : (s.reportAs r).sup = s.sup := by unfold State.reportAs; (repeat' split) <;> rfl
@[simp] theorem reportAs_trl (r : Report) : (s.reportAs r).trl = s.trl := by unfold State.reportAs; (repeat' split) <;> rfl
@[simp] theorem reportAs_guards (r : Report) : (s.reportAs r).guards = s.guards := by unfold State.reportAs; (repeat' split) <;> rfl
@[simp] theorem reportAs_chans (r : Report) : (s.reportAs r).chans = s.chans := by unfold State.reportAs; (repeat' split) <;> rfl
@[simp] theorem reportAs_stages (r : Report) : (s.reportAs r).stages = s.stages := by unfold State.reportAs; (repeat' split) <;> rfl
@[simp] theorem reportAs_pilot (r : Report) : (s.reportAs r).pilot = s.pilot := by unfold State.reportAs; (repeat' split) <;> rfl
@[simp] theorem reportAs_samples (r : Report) : (s.reportAs r).samples = s.samples := by unfold State.reportAs; (repeat' split) <;> rfl
@[simp] theorem reportAs_waitingSeqs (r : Report) : (s.reportAs r).waitingSeqs = s.waitingSeqs := by unfold State.reportAs; (repeat' split) <;> rfl
@[simp] theorem reportAs_convs (r : Report) : (s.reportAs r).convs = s.convs := by unfold State.reportAs; (repeat' split) <;> rfl
@[simp] theorem reportAs_tdac (r : Report) : (s.reportAs r).tdac = s.tdac := by unfold State.reportAs; (repeat' split) <;> rfl
@[simp] theorem reportAs_sdFrom (r : Report) : (s.reportAs r).sdFrom = s.sdFrom := by unfold State.reportAs; (repeat' split) <;> rfl
@[simp] theorem reportAs_resolvers (r : Report) : (s.reportAs r).resolvers = s.resolvers := by unfold State.reportAs; (repeat' split) <;> rfl
@[simp] theorem reportAs_enc (r : Report) : (s.reportAs r).enc = s.enc := by unfold State.reportAs; (repeat' split) <;> rfl
@[simp] theorem reportAs_ifc (r : Report) : (s.reportAs r).ifc = s.ifc := by unfold State.reportAs; (repeat' split) <;> rfl
@[simp] theorem reportAs_syn (r : Report) : (s.reportAs r).syn = s.syn := by unfold State.reportAs; (repeat' split) <;> rfl
@[simp] theorem reportAs_sec (r : Report) : (s.reportAs r).sec = s.sec := by unfold State.reportAs; (repeat' split) <;> rfl
@[simp] theorem reportAs_dbg (r : Report) : (s.reportAs r).dbg = s.dbg := by unfold State.reportAs; (repeat' split) <;> rfl
@[simp] theorem reportAs_pwr (r : Report) : (s.reportAs r).pwr = s.pwr := by unfold State.reportAs; (repeat' split) <;> rfl
@[simp] theorem reportAs_sto (r : Report) : (s.reportAs r).sto = s.sto := by unfold State.reportAs; (repeat' split) <;> rfl
@[simp] theorem reportAs_wd (r : Report) : (s.reportAs r).wd = s.wd := by unfold State.reportAs; (repeat' split) <;> rfl
@[simp] theorem reportAs_answer (r : Report) : (s.reportAs r).answer = s.answer := by unfold State.reportAs; (repeat' split) <;> rfl
@[simp] theorem reportAs_pending (r : Report) : (s.reportAs r).pending = s.pending := by unfold State.reportAs; (repeat' split) <;> rfl

@[simp] theorem reportFab_regs (cls : FaultClass) (n p d : Nat) (i : Bool) : (s.reportFab cls n p d i).regs = s.regs := reportAs_regs s _
@[simp] theorem reportFab_staged (cls : FaultClass) (n p d : Nat) (i : Bool) : (s.reportFab cls n p d i).staged = s.staged := reportAs_staged s _
@[simp] theorem reportFab_marks (cls : FaultClass) (n p d : Nat) (i : Bool) : (s.reportFab cls n p d i).marks = s.marks := reportAs_marks s _
@[simp] theorem reportFab_pushes (cls : FaultClass) (n p d : Nat) (i : Bool) : (s.reportFab cls n p d i).pushes = s.pushes := reportAs_pushes s _
@[simp] theorem reportFab_ledger (cls : FaultClass) (n p d : Nat) (i : Bool) : (s.reportFab cls n p d i).ledger = s.ledger := reportAs_ledger s _
@[simp] theorem reportFab_mem (cls : FaultClass) (n p d : Nat) (i : Bool) : (s.reportFab cls n p d i).mem = s.mem := reportAs_mem s _
@[simp] theorem reportFab_chk (cls : FaultClass) (n p d : Nat) (i : Bool) : (s.reportFab cls n p d i).chk = s.chk := reportAs_chk s _
@[simp] theorem reportFab_now (cls : FaultClass) (n p d : Nat) (i : Bool) : (s.reportFab cls n p d i).now = s.now := reportAs_now s _
@[simp] theorem reportFab_fresh (cls : FaultClass) (n p d : Nat) (i : Bool) : (s.reportFab cls n p d i).fresh = s.fresh := reportAs_fresh s _
@[simp] theorem reportFab_polders (cls : FaultClass) (n p d : Nat) (i : Bool) : (s.reportFab cls n p d i).polders = s.polders := reportAs_polders s _
@[simp] theorem reportFab_drainQ (cls : FaultClass) (n p d : Nat) (i : Bool) : (s.reportFab cls n p d i).drainQ = s.drainQ := reportAs_drainQ s _
@[simp] theorem reportFab_tp (cls : FaultClass) (n p d : Nat) (i : Bool) : (s.reportFab cls n p d i).tp = s.tp := reportAs_tp s _
@[simp] theorem reportFab_hif (cls : FaultClass) (n p d : Nat) (i : Bool) : (s.reportFab cls n p d i).hif = s.hif := reportAs_hif s _
@[simp] theorem reportFab_commit (cls : FaultClass) (n p d : Nat) (i : Bool) : (s.reportFab cls n p d i).commit = s.commit := reportAs_commit s _
@[simp] theorem reportFab_engines (cls : FaultClass) (n p d : Nat) (i : Bool) : (s.reportFab cls n p d i).engines = s.engines := reportAs_engines s _
@[simp] theorem reportFab_loops (cls : FaultClass) (n p d : Nat) (i : Bool) : (s.reportFab cls n p d i).loops = s.loops := reportAs_loops s _
@[simp] theorem reportFab_slotShadows (cls : FaultClass) (n p d : Nat) (i : Bool) : (s.reportFab cls n p d i).slotShadows = s.slotShadows := reportAs_slotShadows s _
@[simp] theorem reportFab_sup (cls : FaultClass) (n p d : Nat) (i : Bool) : (s.reportFab cls n p d i).sup = s.sup := reportAs_sup s _
@[simp] theorem reportFab_trl (cls : FaultClass) (n p d : Nat) (i : Bool) : (s.reportFab cls n p d i).trl = s.trl := reportAs_trl s _
@[simp] theorem reportFab_guards (cls : FaultClass) (n p d : Nat) (i : Bool) : (s.reportFab cls n p d i).guards = s.guards := reportAs_guards s _
@[simp] theorem reportFab_chans (cls : FaultClass) (n p d : Nat) (i : Bool) : (s.reportFab cls n p d i).chans = s.chans := reportAs_chans s _
@[simp] theorem reportFab_stages (cls : FaultClass) (n p d : Nat) (i : Bool) : (s.reportFab cls n p d i).stages = s.stages := reportAs_stages s _
@[simp] theorem reportFab_pilot (cls : FaultClass) (n p d : Nat) (i : Bool) : (s.reportFab cls n p d i).pilot = s.pilot := reportAs_pilot s _
@[simp] theorem reportFab_samples (cls : FaultClass) (n p d : Nat) (i : Bool) : (s.reportFab cls n p d i).samples = s.samples := reportAs_samples s _
@[simp] theorem reportFab_waitingSeqs (cls : FaultClass) (n p d : Nat) (i : Bool) : (s.reportFab cls n p d i).waitingSeqs = s.waitingSeqs := reportAs_waitingSeqs s _
@[simp] theorem reportFab_convs (cls : FaultClass) (n p d : Nat) (i : Bool) : (s.reportFab cls n p d i).convs = s.convs := reportAs_convs s _
@[simp] theorem reportFab_tdac (cls : FaultClass) (n p d : Nat) (i : Bool) : (s.reportFab cls n p d i).tdac = s.tdac := reportAs_tdac s _
@[simp] theorem reportFab_sdFrom (cls : FaultClass) (n p d : Nat) (i : Bool) : (s.reportFab cls n p d i).sdFrom = s.sdFrom := reportAs_sdFrom s _
@[simp] theorem reportFab_resolvers (cls : FaultClass) (n p d : Nat) (i : Bool) : (s.reportFab cls n p d i).resolvers = s.resolvers := reportAs_resolvers s _
@[simp] theorem reportFab_enc (cls : FaultClass) (n p d : Nat) (i : Bool) : (s.reportFab cls n p d i).enc = s.enc := reportAs_enc s _
@[simp] theorem reportFab_ifc (cls : FaultClass) (n p d : Nat) (i : Bool) : (s.reportFab cls n p d i).ifc = s.ifc := reportAs_ifc s _
@[simp] theorem reportFab_syn (cls : FaultClass) (n p d : Nat) (i : Bool) : (s.reportFab cls n p d i).syn = s.syn := reportAs_syn s _
@[simp] theorem reportFab_sec (cls : FaultClass) (n p d : Nat) (i : Bool) : (s.reportFab cls n p d i).sec = s.sec := reportAs_sec s _
@[simp] theorem reportFab_dbg (cls : FaultClass) (n p d : Nat) (i : Bool) : (s.reportFab cls n p d i).dbg = s.dbg := reportAs_dbg s _
@[simp] theorem reportFab_pwr (cls : FaultClass) (n p d : Nat) (i : Bool) : (s.reportFab cls n p d i).pwr = s.pwr := reportAs_pwr s _
@[simp] theorem reportFab_sto (cls : FaultClass) (n p d : Nat) (i : Bool) : (s.reportFab cls n p d i).sto = s.sto := reportAs_sto s _
@[simp] theorem reportFab_wd (cls : FaultClass) (n p d : Nat) (i : Bool) : (s.reportFab cls n p d i).wd = s.wd := reportAs_wd s _
@[simp] theorem reportFab_answer (cls : FaultClass) (n p d : Nat) (i : Bool) : (s.reportFab cls n p d i).answer = s.answer := reportAs_answer s _
@[simp] theorem reportFab_pending (cls : FaultClass) (n p d : Nat) (i : Bool) : (s.reportFab cls n p d i).pending = s.pending := reportAs_pending s _

@[simp] theorem reportTp_regs (cls : FaultClass) (n p d : Nat) (i : Bool) : (s.reportTp cls n p d i).regs = s.regs := reportAs_regs s _
@[simp] theorem reportTp_staged (cls : FaultClass) (n p d : Nat) (i : Bool) : (s.reportTp cls n p d i).staged = s.staged := reportAs_staged s _
@[simp] theorem reportTp_marks (cls : FaultClass) (n p d : Nat) (i : Bool) : (s.reportTp cls n p d i).marks = s.marks := reportAs_marks s _
@[simp] theorem reportTp_pushes (cls : FaultClass) (n p d : Nat) (i : Bool) : (s.reportTp cls n p d i).pushes = s.pushes := reportAs_pushes s _
@[simp] theorem reportTp_ledger (cls : FaultClass) (n p d : Nat) (i : Bool) : (s.reportTp cls n p d i).ledger = s.ledger := reportAs_ledger s _
@[simp] theorem reportTp_mem (cls : FaultClass) (n p d : Nat) (i : Bool) : (s.reportTp cls n p d i).mem = s.mem := reportAs_mem s _
@[simp] theorem reportTp_chk (cls : FaultClass) (n p d : Nat) (i : Bool) : (s.reportTp cls n p d i).chk = s.chk := reportAs_chk s _
@[simp] theorem reportTp_now (cls : FaultClass) (n p d : Nat) (i : Bool) : (s.reportTp cls n p d i).now = s.now := reportAs_now s _
@[simp] theorem reportTp_fresh (cls : FaultClass) (n p d : Nat) (i : Bool) : (s.reportTp cls n p d i).fresh = s.fresh := reportAs_fresh s _
@[simp] theorem reportTp_polders (cls : FaultClass) (n p d : Nat) (i : Bool) : (s.reportTp cls n p d i).polders = s.polders := reportAs_polders s _
@[simp] theorem reportTp_drainQ (cls : FaultClass) (n p d : Nat) (i : Bool) : (s.reportTp cls n p d i).drainQ = s.drainQ := reportAs_drainQ s _
@[simp] theorem reportTp_tp (cls : FaultClass) (n p d : Nat) (i : Bool) : (s.reportTp cls n p d i).tp = s.tp := reportAs_tp s _
@[simp] theorem reportTp_hif (cls : FaultClass) (n p d : Nat) (i : Bool) : (s.reportTp cls n p d i).hif = s.hif := reportAs_hif s _
@[simp] theorem reportTp_commit (cls : FaultClass) (n p d : Nat) (i : Bool) : (s.reportTp cls n p d i).commit = s.commit := reportAs_commit s _
@[simp] theorem reportTp_engines (cls : FaultClass) (n p d : Nat) (i : Bool) : (s.reportTp cls n p d i).engines = s.engines := reportAs_engines s _
@[simp] theorem reportTp_loops (cls : FaultClass) (n p d : Nat) (i : Bool) : (s.reportTp cls n p d i).loops = s.loops := reportAs_loops s _
@[simp] theorem reportTp_slotShadows (cls : FaultClass) (n p d : Nat) (i : Bool) : (s.reportTp cls n p d i).slotShadows = s.slotShadows := reportAs_slotShadows s _
@[simp] theorem reportTp_sup (cls : FaultClass) (n p d : Nat) (i : Bool) : (s.reportTp cls n p d i).sup = s.sup := reportAs_sup s _
@[simp] theorem reportTp_trl (cls : FaultClass) (n p d : Nat) (i : Bool) : (s.reportTp cls n p d i).trl = s.trl := reportAs_trl s _
@[simp] theorem reportTp_guards (cls : FaultClass) (n p d : Nat) (i : Bool) : (s.reportTp cls n p d i).guards = s.guards := reportAs_guards s _
@[simp] theorem reportTp_chans (cls : FaultClass) (n p d : Nat) (i : Bool) : (s.reportTp cls n p d i).chans = s.chans := reportAs_chans s _
@[simp] theorem reportTp_stages (cls : FaultClass) (n p d : Nat) (i : Bool) : (s.reportTp cls n p d i).stages = s.stages := reportAs_stages s _
@[simp] theorem reportTp_pilot (cls : FaultClass) (n p d : Nat) (i : Bool) : (s.reportTp cls n p d i).pilot = s.pilot := reportAs_pilot s _
@[simp] theorem reportTp_samples (cls : FaultClass) (n p d : Nat) (i : Bool) : (s.reportTp cls n p d i).samples = s.samples := reportAs_samples s _
@[simp] theorem reportTp_waitingSeqs (cls : FaultClass) (n p d : Nat) (i : Bool) : (s.reportTp cls n p d i).waitingSeqs = s.waitingSeqs := reportAs_waitingSeqs s _
@[simp] theorem reportTp_convs (cls : FaultClass) (n p d : Nat) (i : Bool) : (s.reportTp cls n p d i).convs = s.convs := reportAs_convs s _
@[simp] theorem reportTp_tdac (cls : FaultClass) (n p d : Nat) (i : Bool) : (s.reportTp cls n p d i).tdac = s.tdac := reportAs_tdac s _
@[simp] theorem reportTp_sdFrom (cls : FaultClass) (n p d : Nat) (i : Bool) : (s.reportTp cls n p d i).sdFrom = s.sdFrom := reportAs_sdFrom s _
@[simp] theorem reportTp_resolvers (cls : FaultClass) (n p d : Nat) (i : Bool) : (s.reportTp cls n p d i).resolvers = s.resolvers := reportAs_resolvers s _
@[simp] theorem reportTp_enc (cls : FaultClass) (n p d : Nat) (i : Bool) : (s.reportTp cls n p d i).enc = s.enc := reportAs_enc s _
@[simp] theorem reportTp_ifc (cls : FaultClass) (n p d : Nat) (i : Bool) : (s.reportTp cls n p d i).ifc = s.ifc := reportAs_ifc s _
@[simp] theorem reportTp_syn (cls : FaultClass) (n p d : Nat) (i : Bool) : (s.reportTp cls n p d i).syn = s.syn := reportAs_syn s _
@[simp] theorem reportTp_sec (cls : FaultClass) (n p d : Nat) (i : Bool) : (s.reportTp cls n p d i).sec = s.sec := reportAs_sec s _
@[simp] theorem reportTp_dbg (cls : FaultClass) (n p d : Nat) (i : Bool) : (s.reportTp cls n p d i).dbg = s.dbg := reportAs_dbg s _
@[simp] theorem reportTp_pwr (cls : FaultClass) (n p d : Nat) (i : Bool) : (s.reportTp cls n p d i).pwr = s.pwr := reportAs_pwr s _
@[simp] theorem reportTp_sto (cls : FaultClass) (n p d : Nat) (i : Bool) : (s.reportTp cls n p d i).sto = s.sto := reportAs_sto s _
@[simp] theorem reportTp_wd (cls : FaultClass) (n p d : Nat) (i : Bool) : (s.reportTp cls n p d i).wd = s.wd := reportAs_wd s _
@[simp] theorem reportTp_answer (cls : FaultClass) (n p d : Nat) (i : Bool) : (s.reportTp cls n p d i).answer = s.answer := reportAs_answer s _
@[simp] theorem reportTp_pending (cls : FaultClass) (n p d : Nat) (i : Bool) : (s.reportTp cls n p d i).pending = s.pending := reportAs_pending s _

@[simp] theorem reportDike_regs (cls : FaultClass) (n p d : Nat) (i : Bool) : (s.reportDike cls n p d i).regs = s.regs := reportAs_regs s _
@[simp] theorem reportDike_staged (cls : FaultClass) (n p d : Nat) (i : Bool) : (s.reportDike cls n p d i).staged = s.staged := reportAs_staged s _
@[simp] theorem reportDike_marks (cls : FaultClass) (n p d : Nat) (i : Bool) : (s.reportDike cls n p d i).marks = s.marks := reportAs_marks s _
@[simp] theorem reportDike_pushes (cls : FaultClass) (n p d : Nat) (i : Bool) : (s.reportDike cls n p d i).pushes = s.pushes := reportAs_pushes s _
@[simp] theorem reportDike_ledger (cls : FaultClass) (n p d : Nat) (i : Bool) : (s.reportDike cls n p d i).ledger = s.ledger := reportAs_ledger s _
@[simp] theorem reportDike_mem (cls : FaultClass) (n p d : Nat) (i : Bool) : (s.reportDike cls n p d i).mem = s.mem := reportAs_mem s _
@[simp] theorem reportDike_chk (cls : FaultClass) (n p d : Nat) (i : Bool) : (s.reportDike cls n p d i).chk = s.chk := reportAs_chk s _
@[simp] theorem reportDike_now (cls : FaultClass) (n p d : Nat) (i : Bool) : (s.reportDike cls n p d i).now = s.now := reportAs_now s _
@[simp] theorem reportDike_fresh (cls : FaultClass) (n p d : Nat) (i : Bool) : (s.reportDike cls n p d i).fresh = s.fresh := reportAs_fresh s _
@[simp] theorem reportDike_polders (cls : FaultClass) (n p d : Nat) (i : Bool) : (s.reportDike cls n p d i).polders = s.polders := reportAs_polders s _
@[simp] theorem reportDike_drainQ (cls : FaultClass) (n p d : Nat) (i : Bool) : (s.reportDike cls n p d i).drainQ = s.drainQ := reportAs_drainQ s _
@[simp] theorem reportDike_tp (cls : FaultClass) (n p d : Nat) (i : Bool) : (s.reportDike cls n p d i).tp = s.tp := reportAs_tp s _
@[simp] theorem reportDike_hif (cls : FaultClass) (n p d : Nat) (i : Bool) : (s.reportDike cls n p d i).hif = s.hif := reportAs_hif s _
@[simp] theorem reportDike_commit (cls : FaultClass) (n p d : Nat) (i : Bool) : (s.reportDike cls n p d i).commit = s.commit := reportAs_commit s _
@[simp] theorem reportDike_engines (cls : FaultClass) (n p d : Nat) (i : Bool) : (s.reportDike cls n p d i).engines = s.engines := reportAs_engines s _
@[simp] theorem reportDike_loops (cls : FaultClass) (n p d : Nat) (i : Bool) : (s.reportDike cls n p d i).loops = s.loops := reportAs_loops s _
@[simp] theorem reportDike_slotShadows (cls : FaultClass) (n p d : Nat) (i : Bool) : (s.reportDike cls n p d i).slotShadows = s.slotShadows := reportAs_slotShadows s _
@[simp] theorem reportDike_sup (cls : FaultClass) (n p d : Nat) (i : Bool) : (s.reportDike cls n p d i).sup = s.sup := reportAs_sup s _
@[simp] theorem reportDike_trl (cls : FaultClass) (n p d : Nat) (i : Bool) : (s.reportDike cls n p d i).trl = s.trl := reportAs_trl s _
@[simp] theorem reportDike_guards (cls : FaultClass) (n p d : Nat) (i : Bool) : (s.reportDike cls n p d i).guards = s.guards := reportAs_guards s _
@[simp] theorem reportDike_chans (cls : FaultClass) (n p d : Nat) (i : Bool) : (s.reportDike cls n p d i).chans = s.chans := reportAs_chans s _
@[simp] theorem reportDike_stages (cls : FaultClass) (n p d : Nat) (i : Bool) : (s.reportDike cls n p d i).stages = s.stages := reportAs_stages s _
@[simp] theorem reportDike_pilot (cls : FaultClass) (n p d : Nat) (i : Bool) : (s.reportDike cls n p d i).pilot = s.pilot := reportAs_pilot s _
@[simp] theorem reportDike_samples (cls : FaultClass) (n p d : Nat) (i : Bool) : (s.reportDike cls n p d i).samples = s.samples := reportAs_samples s _
@[simp] theorem reportDike_waitingSeqs (cls : FaultClass) (n p d : Nat) (i : Bool) : (s.reportDike cls n p d i).waitingSeqs = s.waitingSeqs := reportAs_waitingSeqs s _
@[simp] theorem reportDike_convs (cls : FaultClass) (n p d : Nat) (i : Bool) : (s.reportDike cls n p d i).convs = s.convs := reportAs_convs s _
@[simp] theorem reportDike_tdac (cls : FaultClass) (n p d : Nat) (i : Bool) : (s.reportDike cls n p d i).tdac = s.tdac := reportAs_tdac s _
@[simp] theorem reportDike_sdFrom (cls : FaultClass) (n p d : Nat) (i : Bool) : (s.reportDike cls n p d i).sdFrom = s.sdFrom := reportAs_sdFrom s _
@[simp] theorem reportDike_resolvers (cls : FaultClass) (n p d : Nat) (i : Bool) : (s.reportDike cls n p d i).resolvers = s.resolvers := reportAs_resolvers s _
@[simp] theorem reportDike_enc (cls : FaultClass) (n p d : Nat) (i : Bool) : (s.reportDike cls n p d i).enc = s.enc := reportAs_enc s _
@[simp] theorem reportDike_ifc (cls : FaultClass) (n p d : Nat) (i : Bool) : (s.reportDike cls n p d i).ifc = s.ifc := reportAs_ifc s _
@[simp] theorem reportDike_syn (cls : FaultClass) (n p d : Nat) (i : Bool) : (s.reportDike cls n p d i).syn = s.syn := reportAs_syn s _
@[simp] theorem reportDike_sec (cls : FaultClass) (n p d : Nat) (i : Bool) : (s.reportDike cls n p d i).sec = s.sec := reportAs_sec s _
@[simp] theorem reportDike_dbg (cls : FaultClass) (n p d : Nat) (i : Bool) : (s.reportDike cls n p d i).dbg = s.dbg := reportAs_dbg s _
@[simp] theorem reportDike_pwr (cls : FaultClass) (n p d : Nat) (i : Bool) : (s.reportDike cls n p d i).pwr = s.pwr := reportAs_pwr s _
@[simp] theorem reportDike_sto (cls : FaultClass) (n p d : Nat) (i : Bool) : (s.reportDike cls n p d i).sto = s.sto := reportAs_sto s _
@[simp] theorem reportDike_wd (cls : FaultClass) (n p d : Nat) (i : Bool) : (s.reportDike cls n p d i).wd = s.wd := reportAs_wd s _
@[simp] theorem reportDike_answer (cls : FaultClass) (n p d : Nat) (i : Bool) : (s.reportDike cls n p d i).answer = s.answer := reportAs_answer s _
@[simp] theorem reportDike_pending (cls : FaultClass) (n p d : Nat) (i : Bool) : (s.reportDike cls n p d i).pending = s.pending := reportAs_pending s _

@[simp] theorem setPolder_staged (p : Nat) (x : Polder) : (s.setPolder p x).staged = s.staged := by
  unfold State.setPolder
  extract_lets old pg t
  split
  · rfl
  · exact agrEvent_staged t 5
@[simp] theorem setPolder_marks (p : Nat) (x : Polder) : (s.setPolder p x).marks = s.marks := by
  unfold State.setPolder
  extract_lets old pg t
  split
  · rfl
  · exact agrEvent_marks t 5
@[simp] theorem setPolder_ledger (p : Nat) (x : Polder) : (s.setPolder p x).ledger = s.ledger := by
  unfold State.setPolder
  extract_lets old pg t
  split
  · rfl
  · exact agrEvent_ledger t 5
@[simp] theorem setPolder_mem (p : Nat) (x : Polder) : (s.setPolder p x).mem = s.mem := by
  unfold State.setPolder
  extract_lets old pg t
  split
  · rfl
  · exact agrEvent_mem t 5
@[simp] theorem setPolder_chk (p : Nat) (x : Polder) : (s.setPolder p x).chk = s.chk := by
  unfold State.setPolder
  extract_lets old pg t
  split
  · rfl
  · exact agrEvent_chk t 5
@[simp] theorem setPolder_now (p : Nat) (x : Polder) : (s.setPolder p x).now = s.now := by
  unfold State.setPolder
  extract_lets old pg t
  split
  · rfl
  · exact agrEvent_now t 5
@[simp] theorem setPolder_fresh (p : Nat) (x : Polder) : (s.setPolder p x).fresh = s.fresh := by
  unfold State.setPolder
  extract_lets old pg t
  split
  · rfl
  · exact agrEvent_fresh t 5
@[simp] theorem setPolder_drainQ (p : Nat) (x : Polder) : (s.setPolder p x).drainQ = s.drainQ := by
  unfold State.setPolder
  extract_lets old pg t
  split
  · rfl
  · exact agrEvent_drainQ t 5
@[simp] theorem setPolder_coll (p : Nat) (x : Polder) : (s.setPolder p x).coll = s.coll := by
  unfold State.setPolder
  extract_lets old pg t
  split
  · rfl
  · exact agrEvent_coll t 5
@[simp] theorem setPolder_tp (p : Nat) (x : Polder) : (s.setPolder p x).tp = s.tp := by
  unfold State.setPolder
  extract_lets old pg t
  split
  · rfl
  · exact agrEvent_tp t 5
@[simp] theorem setPolder_hif (p : Nat) (x : Polder) : (s.setPolder p x).hif = s.hif := by
  unfold State.setPolder
  extract_lets old pg t
  split
  · rfl
  · exact agrEvent_hif t 5
@[simp] theorem setPolder_commit (p : Nat) (x : Polder) : (s.setPolder p x).commit = s.commit := by
  unfold State.setPolder
  extract_lets old pg t
  split
  · rfl
  · exact agrEvent_commit t 5
@[simp] theorem setPolder_engines (p : Nat) (x : Polder) : (s.setPolder p x).engines = s.engines := by
  unfold State.setPolder
  extract_lets old pg t
  split
  · rfl
  · exact agrEvent_engines t 5
@[simp] theorem setPolder_loops (p : Nat) (x : Polder) : (s.setPolder p x).loops = s.loops := by
  unfold State.setPolder
  extract_lets old pg t
  split
  · rfl
  · exact agrEvent_loops t 5
@[simp] theorem setPolder_slotShadows (p : Nat) (x : Polder) : (s.setPolder p x).slotShadows = s.slotShadows := by
  unfold State.setPolder
  extract_lets old pg t
  split
  · rfl
  · exact agrEvent_slotShadows t 5
@[simp] theorem setPolder_sup (p : Nat) (x : Polder) : (s.setPolder p x).sup = s.sup := by
  unfold State.setPolder
  extract_lets old pg t
  split
  · rfl
  · exact agrEvent_sup t 5
@[simp] theorem setPolder_trl (p : Nat) (x : Polder) : (s.setPolder p x).trl = s.trl := by
  unfold State.setPolder
  extract_lets old pg t
  split
  · rfl
  · exact agrEvent_trl t 5
@[simp] theorem setPolder_guards (p : Nat) (x : Polder) : (s.setPolder p x).guards = s.guards := by
  unfold State.setPolder
  extract_lets old pg t
  split
  · rfl
  · exact agrEvent_guards t 5
@[simp] theorem setPolder_chans (p : Nat) (x : Polder) : (s.setPolder p x).chans = s.chans := by
  unfold State.setPolder
  extract_lets old pg t
  split
  · rfl
  · exact agrEvent_chans t 5
@[simp] theorem setPolder_stages (p : Nat) (x : Polder) : (s.setPolder p x).stages = s.stages := by
  unfold State.setPolder
  extract_lets old pg t
  split
  · rfl
  · exact agrEvent_stages t 5
@[simp] theorem setPolder_pilot (p : Nat) (x : Polder) : (s.setPolder p x).pilot = s.pilot := by
  unfold State.setPolder
  extract_lets old pg t
  split
  · rfl
  · exact agrEvent_pilot t 5
@[simp] theorem setPolder_samples (p : Nat) (x : Polder) : (s.setPolder p x).samples = s.samples := by
  unfold State.setPolder
  extract_lets old pg t
  split
  · rfl
  · exact agrEvent_samples t 5
@[simp] theorem setPolder_waitingSeqs (p : Nat) (x : Polder) : (s.setPolder p x).waitingSeqs = s.waitingSeqs := by
  unfold State.setPolder
  extract_lets old pg t
  split
  · rfl
  · exact agrEvent_waitingSeqs t 5
@[simp] theorem setPolder_convs (p : Nat) (x : Polder) : (s.setPolder p x).convs = s.convs := by
  unfold State.setPolder
  extract_lets old pg t
  split
  · rfl
  · exact agrEvent_convs t 5
@[simp] theorem setPolder_tdac (p : Nat) (x : Polder) : (s.setPolder p x).tdac = s.tdac := by
  unfold State.setPolder
  extract_lets old pg t
  split
  · rfl
  · exact agrEvent_tdac t 5
@[simp] theorem setPolder_sdFrom (p : Nat) (x : Polder) : (s.setPolder p x).sdFrom = s.sdFrom := by
  unfold State.setPolder
  extract_lets old pg t
  split
  · rfl
  · exact agrEvent_sdFrom t 5
@[simp] theorem setPolder_resolvers (p : Nat) (x : Polder) : (s.setPolder p x).resolvers = s.resolvers := by
  unfold State.setPolder
  extract_lets old pg t
  split
  · rfl
  · exact agrEvent_resolvers t 5
@[simp] theorem setPolder_enc (p : Nat) (x : Polder) : (s.setPolder p x).enc = s.enc := by
  unfold State.setPolder
  extract_lets old pg t
  split
  · rfl
  · exact agrEvent_enc t 5
@[simp] theorem setPolder_ifc (p : Nat) (x : Polder) : (s.setPolder p x).ifc = s.ifc := by
  unfold State.setPolder
  extract_lets old pg t
  split
  · rfl
  · exact agrEvent_ifc t 5
@[simp] theorem setPolder_syn (p : Nat) (x : Polder) : (s.setPolder p x).syn = s.syn := by
  unfold State.setPolder
  extract_lets old pg t
  split
  · rfl
  · exact agrEvent_syn t 5
@[simp] theorem setPolder_sec (p : Nat) (x : Polder) : (s.setPolder p x).sec = s.sec := by
  unfold State.setPolder
  extract_lets old pg t
  split
  · rfl
  · exact agrEvent_sec t 5
@[simp] theorem setPolder_dbg (p : Nat) (x : Polder) : (s.setPolder p x).dbg = s.dbg := by
  unfold State.setPolder
  extract_lets old pg t
  split
  · rfl
  · exact agrEvent_dbg t 5
@[simp] theorem setPolder_pwr (p : Nat) (x : Polder) : (s.setPolder p x).pwr = s.pwr := by
  unfold State.setPolder
  extract_lets old pg t
  split
  · rfl
  · exact agrEvent_pwr t 5
@[simp] theorem setPolder_sto (p : Nat) (x : Polder) : (s.setPolder p x).sto = s.sto := by
  unfold State.setPolder
  extract_lets old pg t
  split
  · rfl
  · exact agrEvent_sto t 5
@[simp] theorem setPolder_wd (p : Nat) (x : Polder) : (s.setPolder p x).wd = s.wd := by
  unfold State.setPolder
  extract_lets old pg t
  split
  · rfl
  · exact agrEvent_wd t 5
@[simp] theorem setPolder_answer (p : Nat) (x : Polder) : (s.setPolder p x).answer = s.answer := by
  unfold State.setPolder
  extract_lets old pg t
  split
  · rfl
  · exact agrEvent_answer t 5
@[simp] theorem setPolder_pending (p : Nat) (x : Polder) : (s.setPolder p x).pending = s.pending := by
  unfold State.setPolder
  extract_lets old pg t
  split
  · rfl
  · exact agrEvent_pending t 5

end Sys2Proof.Machine
end

