-- ==== Sys2Proof/Laws/Runs.lean ====
section
/-! SUPPORT. Runs on an engine: what counting an instruction's operations, and an instruction that only changes its context,
leave behind. -/

namespace Sys2Proof.Machine

variable {s : State} {e : Nat}

@[simp] theorem eng_setEng_self (s : State) (e : Nat) (x : Engine) : (s.setEng e x).eng e = x := by
  unfold State.setEng State.eng
  exact tabGet_put_self _ _ _ _

theorem eng_setEng_ne (s : State) (x : Engine) {k : Nat} (h : k ≠ e) : (s.setEng e x).eng k = s.eng k := by
  unfold State.setEng State.eng
  exact tabGet_put_ne _ _ _ _ _ h

@[simp] theorem loop_setLoop_self (s : State) (l : Nat) (x : LoopRec) : (s.setLoop l x).loop l = x := by
  unfold State.setLoop State.loop
  exact tabGet_put_self _ _ _ _

theorem loop_setLoop_ne (s : State) (x : LoopRec) {l k : Nat} (h : k ≠ l) : (s.setLoop l x).loop k = s.loop k := by
  unfold State.setLoop State.loop
  exact tabGet_put_ne _ _ _ _ _ h

/-- An engine with its active context replaced. -/
def Engine.withActive (x : Engine) (c : Context) : Engine := if x.a.run.isSome then { x with a := c } else { x with bc := c }

theorem withActive_activeCtx (x : Engine) (c : Context) (hc : c.run.isSome = true) : (x.withActive c).activeCtx = c := by
  unfold Engine.withActive Engine.activeCtx
  split <;> simp_all

theorem withActive_twice (x : Engine) (c d : Context) (hc : c.run.isSome = true) :
    (x.withActive c).withActive d = x.withActive d := by
  unfold Engine.withActive
  split <;> simp_all

@[simp] theorem withActive_window (x : Engine) (c : Context) : (x.withActive c).window = x.window := by
  unfold Engine.withActive
  split <;> rfl

@[simp] theorem withActive_waiting (x : Engine) (c : Context) : (x.withActive c).waiting = x.waiting := by
  unfold Engine.withActive
  split <;> rfl

@[simp] theorem eng_setCtx_self (s : State) (e : Nat) (c : Context) : (s.setCtx e c).eng e = (s.eng e).withActive c :=
  eng_setEng_self _ _ _

theorem ctx_setCtx_self (s : State) (e : Nat) (c : Context) (hc : c.run.isSome = true) : (s.setCtx e c).ctx e = c := by
  unfold State.ctx
  rw [eng_setCtx_self]
  exact withActive_activeCtx _ _ hc

/-- The engine after `cost` operations of the active run have been counted and the run goes on at `pc`. -/
def Engine.counted (x : Engine) (r : Run) (cost pc : Nat) : Engine :=
  { x.withActive { x.activeCtx with run := some { r with pc := pc, ops := r.ops + cost } } with
    window := { x.window with ops := x.window.ops + cost } }

/-- Only the engines differ, and of them only engine `e`, which is `x`. -/
def OnlyEngine (s t : State) (e : Nat) (x : Engine) : Prop :=
  Touches [.engines] s t ∧ t.eng e = x ∧ ∀ k, k ≠ e → t.eng k = s.eng k

theorem onlyEngine_setEng (s : State) (e : Nat) (x : Engine) : OnlyEngine s (s.setEng e x) e x :=
  ⟨fun p hp => by cases p <;> first | exact absurd (by decide) hp | rfl, eng_setEng_self s e x, fun _ h => eng_setEng_ne s x h⟩

theorem OnlyEngine.trans {s t u : State} {x y : Engine} (h : OnlyEngine s t e x) (g : OnlyEngine t u e y) : OnlyEngine s u e y := by
  refine ⟨fun p hp => ?_, g.2.1, fun k hk => (g.2.2 k hk).trans (h.2.2 k hk)⟩
  have h1 := h.1 p hp
  have h2 := g.1 p hp
  cases p <;> exact h2.trans h1

/-- Within the budget, counting an instruction's operations changes the engine and nothing else (R83, R110, R111). -/
theorem retire_within {cost pc : Nat} {r : Run} (hr : (s.ctx e).run = some r) (h0 : 0 < cost)
    (hb : r.ops + cost ≤ descBudget (s.loop r.loop).desc) : OnlyEngine s (s.retire e cost pc) e ((s.eng e).counted r cost pc) := by
  have hs : OnlyEngine s (s.spend e cost pc) e ((s.eng e).counted r cost pc) := by
    have h1 : ¬ descBudget (s.loop r.loop).desc < r.ops + cost := by omega
    unfold State.spend
    simp only [hr, h1, decide_false, Bool.or_false, false_and, if_false, Bool.false_eq_true, eng_setCtx_self]
    have h2 := (onlyEngine_setEng s e ((s.eng e).withActive { s.ctx e with run := some { r with pc := pc, ops := r.ops + cost } }))
    have e3 : (s.eng e).counted r cost pc = { (s.eng e).withActive { s.ctx e with run := some { r with pc := pc, ops := r.ops + cost } } with
        window := { ((s.eng e).withActive { s.ctx e with run := some { r with pc := pc, ops := r.ops + cost } }).window with
          ops := ((s.eng e).withActive { s.ctx e with run := some { r with pc := pc, ops := r.ops + cost } }).window.ops + cost } } := by
      rw [withActive_window]
      rfl
    rw [e3]
    exact h2.trans (onlyEngine_setEng _ e _)
  have hl : (s.spend e cost pc).loop r.loop = s.loop r.loop := by
    unfold State.loop
    rw [show (s.spend e cost pc).loops = s.loops from hs.1 .loops (by decide)]
  unfold State.retire
  simp only [hr]
  rw [hl, if_neg (by omega)]
  exact hs

/-- An instruction that only changes its context, within the budget: the context of the run as the instruction leaves it, its
operations counted, and nothing else (R83). -/
theorem compute_within {cost : Nat} {r : Run} {f : Context → Context} (hx : Executes s e cost r)
    (hf : (f (s.ctx e)).run = (s.ctx e).run) :
    OnlyEngine s (s.compute e cost f) e (((s.eng e).withActive (f (s.ctx e))).counted r cost (r.pc + 1)) := by
  obtain ⟨hr, h0, hb⟩ := hx
  have hc : (f (s.ctx e)).run = some r := hf.trans hr
  have h1 := onlyEngine_setEng s e ((s.eng e).withActive (f (s.ctx e)))
  unfold State.compute
  simp only [hr]
  refine h1.trans ?_
  have h2 := retire_within (s := s.setCtx e (f (s.ctx e))) (e := e) (cost := cost) (pc := r.pc + 1) (r := r)
    (by rw [ctx_setCtx_self _ _ _ (by rw [hc]; rfl), hc]) h0 hb
  rw [eng_setCtx_self] at h2
  exact h2

/-- What an engine with its operations counted holds. -/
theorem counted_activeCtx (x : Engine) (r : Run) (cost pc : Nat) :
    (x.counted r cost pc).activeCtx = { x.activeCtx with run := some { r with pc := pc, ops := r.ops + cost } } := by
  unfold Engine.counted Engine.withActive Engine.activeCtx
  split <;> simp_all

/-- An instruction's effect in the terms of the statements. -/
theorem computes_of_compute {cost : Nat} {r : Run} {f : Context → Context} {ws : List (Nat × Word)} {fl : Flags}
    (hx : Executes s e cost r) (hf : (f (s.ctx e)).run = (s.ctx e).run)
    (hw : ∀ k, (f (s.ctx e)).get k = ((ws.find? (·.1 == k)).map (·.2)).getD ((s.ctx e).get k)) (hfl : (f (s.ctx e)).flags = fl) :
    Touches [.engines] s (s.compute e cost f) ∧ Computes s (s.compute e cost f) e cost r ws fl := by
  have h := compute_within hx hf
  have hc : (f (s.ctx e)).run.isSome = true := by rw [hf, hx.1]; rfl
  have hctx : (s.compute e cost f).ctx e
      = { f (s.ctx e) with run := some { r with pc := r.pc + 1, ops := r.ops + cost } } := by
    unfold State.ctx
    rw [h.2.1, counted_activeCtx, withActive_activeCtx _ _ hc]
    rfl
  refine ⟨h.1, ⟨?_, ?_, ?_, h.2.2⟩, fun k => ?_, ?_⟩
  · rw [hctx]
  · rw [h.2.1]
    unfold Engine.counted
    rw [withActive_window]
  · rw [h.2.1]
    unfold Engine.counted
    simp only [withActive_waiting]
  · rw [hctx]
    exact hw k
  · rw [hctx]
    exact hfl

theorem get_put (c : Context) (n k : Nat) (w : Word) : (c.put n w).get k = if k = n then w else c.get k := by
  unfold Context.put Context.get
  split
  · subst_vars
    exact tabGet_put_self _ _ _ _
  · exact tabGet_put_ne _ _ _ _ _ (by assumption)

end Sys2Proof.Machine
end

