-- ==== Sys2Proof/WellFormed.lean ====
section
/-! DEFINITION. Which commands are well formed: operands within the ranges the spec gives and their types do not (R81, R82 and the
rules of the rows). -/

namespace Sys2Proof

open Sys2Proof.Machine

/-- The sizes of an access in bytes (R334). -/
def sizeOk (n : Nat) : Bool := n == 1 || n == 2 || n == 4

/-- Whether the operands of a command are within their ranges. -/
def Instr.wf : Instr → Bool
  | .polderEnable page _ _ _ => (pageType page).isSome
  | .polderPowerDown page _ _ _ => (pageType page).isSome
  | .drainRequest page _ _ _ => (pageType page).isSome
  | .drainCancel page _ _ _ => (pageType page).isSome
  | .testRequest page _ _ _ => (pageType page).isSome
  | .blockReset page _ _ _ => (pageType page).isSome
  | .blockResetComplete polder => polderExists polder
  | .drainEvaluation => true
  | .drainComplete polder => polderExists polder
  | .drainTimeout polder => polderExists polder
  | .selfTestComplete polder _ => polderExists polder
  | .testSluiceWithhold polder => polderExists polder
  | .stallClosure polders => polders.all polderExists
  | .closedSluiceRequest requester target copyOf => polderExists requester && polderExists target && copyOf.all (fun l => decide (l < 64))
  | .rateWindowEnd _ _ => true
  | .rateProbe _ _ _ => true
  | .readNowL _ => true
  | .interpolatorRecalibration channel _ => channelPages.contains channel
  | .crystalLoss => true
  | .switchoverComplete => true
  | .crystalReturnRequest => true
  | .crystalReturnComplete => true
  | .xtalOkChange _ => true
  | .dikeTickCheck _ _ => true
  | .exit _ => true
  | .trap _ _ => true
  | .br _ off => -2097152 ≤ off && off < 2097152
  | .brc _ cond off => cond != 15 && -2097152 ≤ off && off < 2097152
  | .cmp _ _ _ _ => true
  | .mov _ _ _ => true
  | .movl _ _ _ => true
  | .movh _ _ _ => true
  | .lds _ _ qa _ x => x || qa == 0
  | .sts _ _ qa _ x => x || qa == 0
  | .ins _ _ _ _ => true
  | .outs _ _ _ _ _ => true
  | .stamp _ _ qa fn => decide (fn.val < 2) || qa == 0
  | .fadd _ _ _ _ => true
  | .fsub _ _ _ _ => true
  | .fmul _ _ _ _ => true
  | .fdiv _ _ _ _ => true
  | .fsqrt _ _ _ => true
  | .fabs _ _ _ => true
  | .fneg _ _ _ => true
  | .fmin _ _ _ _ => true
  | .fmax _ _ _ _ => true
  | .fclamp _ _ _ _ _ => true
  | .fma _ _ _ _ _ => true
  | .fnma _ _ _ _ _ => true
  | .cvt _ _ _ _ => true
  | .add _ _ _ _ => true
  | .sub _ _ _ _ => true
  | .and _ _ _ _ => true
  | .or _ _ _ _ => true
  | .xor _ _ _ _ => true
  | .shl _ _ _ _ => true
  | .shr _ _ _ _ _ => true
  | .sincos _ qd _ => qd != 63
  | .atan2 _ _ _ _ => true
  | .clarke _ qd _ _ qc fn => qd != 63 && (fn == 0 || qc == 0)
  | .park _ qd _ _ qc fn => qd != 63 && (fn == 0 || qc != 63)
  | .ipark _ qd _ _ qc fn => qd != 63 && (fn == 0 || qc != 63)
  | .svm _ qd _ _ _ _ => decide (qd.val ≤ 61)
  | .pi _ _ _ _ _ => true
  | .rlim _ _ _ _ => true
  | .lpf1 _ _ _ _ => true
  | .minsel _ _ _ _ _ => true
  | .triggerStageEvent _ _ => true
  | .triggerPeriodic => true
  | .kick _ => true
  | .runDispatch _ => true
  | .runDeadlinePassed _ => true
  | .localMemoryWrite _ addr _ => addr.val % 4 == 0
  | .slotWrite writer _ _ _ => decide (2 ≤ writer.val)
  | .slotValueRead _ _ => true
  | .delayPeakClear _ => true
  | .placementEvent => true
  | .reserveReevaluation => true
  | .imageLoadComplete _ _ => true
  | .moveCopyStart _ => true
  | .moveCopyComplete _ => true
  | .faultMove _ => true
  | .holdGuardExpiry page _ => channelPages.contains page
  | .balanceEvaluation => true
  | .imageStore _ => true
  | .imageErase _ => true
  | .imageStoreComplete _ => true
  | .graftStandbyVerified => true
  | .graftSwap _ => true
  | .graftTimeout => true
  | .stageSampleInstant stage set _ => isTraction stage || set == 0
  | .stagePeriodStart stage set => isTraction stage || set == 0
  | .speedRuleTransition _ => true
  | .catchTimeout _ => true
  | .positionLost _ => true
  | .lossRampEnd _ => true
  | .tqStaleTimeout _ => true
  | .reactionEnd _ => true
  | .delayEnd stage => isConversion stage
  | .startTimeout stage => isConversion stage
  | .stopDelayEnd stage => isConversion stage
  | .gridZeroCrossing rms irms _ => rms.length == 3 && irms.length == 3
  | .gridLoss => true
  | .pilotPeriodDecode _ _ _ _ _ => true
  | .proximityMeasurement _ _ => true
  | .staleCommandTimeout stage => isConversion stage
  | .crowbarFire => true
  | .crowbarClear _ => true
  | .actuationSpeedTimeout stage => isActuation stage
  | .actuationStopTimeout stage => isActuation stage
  | .curveEvaluation stage => isActuation stage
  | .ihPinTransition _ _ _ => true
  | .bootstrapComparator _ _ => true
  | .refreshPulse _ => true
  | .chargePumpLow => true
  | .vdsTrip _ _ _ => true
  | .hardShort _ _ _ => true
  | .driverFault _ => true
  | .sequenceTrigger periodic _ arg => periodic || decide (arg < 4)
  | .seqSw _ _ => true
  | .sequenceStart _ => true
  | .conversionComplete _ _ => true
  | .converterPowerDown _ => true
  | .injectedRequest _ _ => true
  | .calibrationRequest _ => true
  | .calibrationAuto _ => true
  | .calibrationStart _ => true
  | .calibrationComplete _ _ => true
  | .calibrationAbandon _ => true
  | .tdacAutoCheck _ => true
  | .tdacRequest _ _ => true
  | .tdacCheckComplete _ _ _ => true
  | .sdDecimatorOutput _ _ => true
  | .sdStuck _ => true
  | .fastPathDetection _ _ => true
  | .resolverDemodulation _ _ _ _ _ _ => true
  | .encoderEdge _ _ _ => true
  | .encoderZeroSpeed => true
  | .votedWrite _ _ size be _ => sizeOk size && decide (be < 2 ^ size)
  | .voteLagTimeout _ => true
  | .resyncComplete _ => true
  | .stateDigest _ _ => true
  | .agreementAccess _ addr _ => isAgreement addr.toNat
  | .lockstepMismatch => true
  | .lockstepRecoveryComplete _ => true
  | .lockstepRecoveryTimeout => true
  | .debugHalt _ => true
  | .debugBreak => true
  | .debugAbstractCommand _ _ _ _ size _ => sizeOk size
  | .heartbeatWrite _ => true
  | .heartbeatWarn => true
  | .heartbeatLoss => true
  | .watchdogResetDelay => true
  | .stoOpen cause => cause != 0
  | .stoOpenCommand => true
  | .stoCloseCommand => true
  | .stoHsClose => true
  | .stoReadbackCheck _ => true
  | .stoTestPulse _ => true
  | .stoTestPulseEnd _ _ => true
  | .safeStopDemand _ => true
  | .plausibilityCheck _ _ => true
  | .hookTimeLimit => true
  | .coreMemoryAccess _ _ _ size _ _ _ => sizeOk size
  | .scrubStep _ _ => true
  | .mramScrubStep _ _ => true
  | .mramWrite _ _ _ => true
  | .mramUpdateOpen => true
  | .mramUpdateClose => true
  | .originLoadComplete _ => true
  | .faultReport _ => true
  | .logEntryWrite => true
  | .fltSumClear _ => true
  | .pageFltClear page _ => (pageType page).isSome
  | .faultPinWidthEnd => true
  | .faultPinLevelWrite _ => true
  | .reducedOperationExit => true
  | .appKick _ => true
  | .appWatchdogExpiry _ => true
  | .resetCommand _ => true
  | .resetPinAssert => true
  | .resetPinRelease _ _ _ => true
  | .resetHeld5s => true
  | .resetRelease _ _ _ => true
  | .collectorStop => true
  | .collectorRestart => true
  | .dikePowerOn => true
  | .dikeSupplyLoss => true
  | .injectReport _ _ _ => true
  | .injectCheckField => true
  | .injectStall _ => true
  | .injectCoreWrite _ => true
  | .injectChannelFault _ _ => true
  | .injectFastPath _ _ => true
  | .injectHeartbeatLoss => true
  | .injectCrystalLoss => true
  | .stagedWrite page off _ => rwsMask (regKey page off) != 0 && decide (off < 0x2000000)
  | .stageDiscard page => (pageType page).isSome
  | .stageIncludeWrite page _ => (pageType page).isSome
  | .windowAccess master page _ _ => (pageType page).any hasWindow && reachesPages master
  | .commit _ => true
  | .commitCheckComplete => true
  | .commitApply => true
  | .registerWrite master page off _ => keyNamed (regKey page off) && reachesPages master
  | .hostRead _ _ _ _ _ => true
  | .hostWrite _ _ _ _ _ => true
  | .hostDeferredRead _ _ _ _ _ => true
  | .hostFetch _ _ _ _ _ => true
  | .hostWriteDelivery => true
  | .deferredReadComplete => true
  | .ledgerPush _ _ => true
  | .canFrameReceive _ hdr data _ _ => hdr.length == 4 && decide (data.length ≤ 2048)
  | .canFrameTransmit _ _ _ _ => true
  | .canBusoffRecoveryCmd _ => true
  | .canBusoffRecovery _ => true
  | .ethFrameReceive _ _ _ _ => true
  | .ethFrameTransmit _ _ _ => true
  | .ethLinkLoss _ _ => true
  | .mdioAddress _ _ _ _ => true
  | .mdioWrite _ _ _ _ => true
  | .mdioRead _ _ _ => true
  | .mdioReadIncrement _ _ _ => true
  | .mdioComplete _ => true
  | .sentMessage _ _ _ data _ _ _ _ => data.all (fun d => decide (d < 16))
  | .sentTimeout _ => true
  | .psi5SyncPulse _ => true
  | .psi5Frame _ _ _ _ _ => true
  | .psi5SlotMissing _ _ => true
  | .ryugerSyncTransmit => true
  | .ryugerFrameReceive _ _ _ _ _ => true
  | .symbolLockChange _ => true
  | .syncTimeout => true
  | .ryugerSupervisorSend _ _ => true
  | .ryugerApplicationSend _ _ => true
  | .ryugerRxPop _ => true
  | .ryugerFrameLost _ => true
  | .ringHeadWrite page off _ => (ringIndexes page).contains off
  | .spiEntryStart => true
  | .spiEntryComplete _ => true
  | .secUnlockToken => true
  | .secLifecycleToken => true
  | .secAttest => true
  | .secAdvanceCounter _ _ _ => true
  | .secRequestStart => true
  | .secRequestComplete _ => true
  | .tapIdcode => true
  | .tapBypass => true
  | .tapChal _ => true
  | .tapUnlock _ => true
  | .debugReset => true
  | .debugLevelLower _ => true
  | .leDebugSnapshot _ => true
  | .leDebugHold _ _ => true
  | .powerRequestRun => true
  | .powerRequestStandby => true
  | .powerRequestSleep => true
  | .powerRequestOff => true
  | .powerStateReached => true
  | .wakeEvent _ _ => true
  | .wakeTimerExpiry _ => true
  | .sleepVbatLow => true
  | .vbatLowWarning => true
  | .vbatUndervoltage => true
  | .vbatBrownOut => true
  | .vbatLoadDump => true
  | .vbatSustainedHigh => true
  | .vbatOvervoltage => true
  | .vmUndervoltage => true
  | .vmOvervoltage => true
  | .railOutOfWindow rail => decide (6 ≤ rail.val && rail.val ≤ 9)
  | .railResetDelay => true
  | .junctionWarning => true
  | .junctionLimit => true
  | .junctionShutdown => true
  | .supplyMonitorEnd _ => true
  | .supplyValid => true
  | .pllLock _ _ _ _ => true
  | .supervisorRelease _ _ _ _ => true
  | .bootPrefer => true
  | .bootConfirm => true
  | .bootReady => true
  | .appDrainRequest _ => true
  | .appCoreDrain _ _ => true
  | .appCoreRelease _ _ => true
  | .gpioSet _ => true
  | .gpioClear _ => true
  | .gpioEdge _ _ => true
  | .converterWake _ => true
  | .chargePumpWithinRange => true
  | .xhFltNPinChange _ _ => true
  | .ethLinkUp _ _ _ => true
  | .debugSessionStart _ => true
  | .debugSessionEnd _ => true
  | .debugResume _ _ => true
  | .tapExtest _ => true
  | .tapSample _ => true
  | .supplyMeasurementUpdate _ _ _ => true

end Sys2Proof
end

section
/-! SUPPORT. Polders and fields after an update: what is read of the polder written and of every other, and of a part that an
update leaves as it was. -/

namespace Sys2Proof.Machine

variable {s t u : State} {p : Nat} {x y : Polder}

theorem polder_congr (h : t.polders = s.polders) (q : Nat) : t.polder q = s.polder q := by
  unfold State.polder
  rw [h]

theorem loop_congr (h : t.loops = s.loops) (l : Nat) : t.loop l = s.loop l := by
  unfold State.loop
  rw [h]

theorem eng_congr (h : t.engines = s.engines) (e : Nat) : t.eng e = s.eng e := by
  unfold State.eng
  rw [h]

theorem word_congr (h : t.regs = s.regs) (q o : Nat) : t.word q o = s.word q o := by
  unfold State.word
  rw [h]

theorem rd_congr (h : t.regs = s.regs) (q : Nat) (f : Field) : t.rd q f = s.rd q f := by
  unfold State.rd
  rw [word_congr h]

theorem rdB_congr (h : t.regs = s.regs) (q : Nat) (f : Field) : t.rdB q f = s.rdB q f := by
  unfold State.rdB
  rw [rd_congr h]

/-- The polder table after a polder is replaced: the agreement event that may follow does not touch it. -/
theorem setPolder_polders (s : State) (p : Nat) (x : Polder) :
    (s.setPolder p x).polders = tabPut polderDefault s.polders p x := by
  unfold State.setPolder
  extract_lets old pg t
  split
  · rfl
  · exact agrEvent_polders t 5

@[simp] theorem polder_setPolder_self (s : State) (p : Nat) (x : Polder) : (s.setPolder p x).polder p = x := by
  unfold State.polder
  rw [setPolder_polders, tabGet_put_self]

theorem polder_setPolder_ne (s : State) (x : Polder) {p q : Nat} (h : q ≠ p) : (s.setPolder p x).polder q = s.polder q := by
  unfold State.polder
  rw [setPolder_polders, tabGet_put_ne _ _ _ _ _ h]

theorem polderBecomes_setPolder (s : State) (p : Nat) (x : Polder) : PolderBecomes s (s.setPolder p x) p x :=
  ⟨polder_setPolder_self s p x, fun _ h => polder_setPolder_ne s x h⟩

/-- What follows without a change of any polder leaves the polder as it became. -/
theorem PolderBecomes.followedBy (h : PolderBecomes s t p x) (hu : u.polders = t.polders) : PolderBecomes s u p x :=
  ⟨(polder_congr hu p).trans h.1, fun q hq => (polder_congr hu q).trans (h.2 q hq)⟩

/-- What went before without a change of any polder does not matter. -/
theorem PolderBecomes.after (h : PolderBecomes t u p x) (ht : t.polders = s.polders) : PolderBecomes s u p x :=
  ⟨h.1, fun q hq => (h.2 q hq).trans (polder_congr ht q)⟩

theorem PolderBecomes.trans (h : PolderBecomes s t p x) (g : PolderBecomes t u p y) : PolderBecomes s u p y :=
  ⟨g.1, fun q hq => (g.2 q hq).trans (h.2 q hq)⟩

/-- A report that is not dropped by a stopped collector is on its way. -/
theorem reportAs_inflight (s : State) (r : Report) (h : s.coll.stopped = false) :
    (s.reportAs r).coll = { s.coll with inflight := s.coll.inflight ++ [r] } := by
  unfold State.reportAs
  rw [h]
  rfl

theorem reported_reportAs (s : State) (r : Report) (h : s.coll.stopped = false) :
    Reported (s.reportAs r) r.cls r.code r.page :=
  ⟨r, by simp [reportAs_inflight s r h], rfl, rfl, rfl⟩

theorem reported_reportFab (s : State) (cls : FaultClass) (code page detail : Nat) (inj : Bool) (h : s.coll.stopped = false) :
    Reported (s.reportFab cls code page detail inj) cls code page :=
  reported_reportAs s _ h

theorem Reported.followedBy {cls : FaultClass} {code page : Nat} (h : Reported t cls code page) (hu : u.coll = t.coll) :
    Reported u cls code page := by
  unfold Reported
  rw [hu]
  exact h

end Sys2Proof.Machine
end

section
/-! SUPPORT. Writes of CTL: the bits a page takes, and what each part of the write does to the polder (R32, R34, R37, R38, R561). -/

namespace Sys2Proof.Machine

variable {s : State} {p : Nat} {w : CtlBits}

/-- The bits of a write to CTL that its page takes: TEST is without effect for a bank other than MRAM (R503). -/
def ctlTaken (pg p : Nat) (w : CtlBits) : CtlBits := if pg = pgMEM ∧ p < pdMramA then { w with test := false } else w

theorem ctlTaken_en (pg p : Nat) (w : CtlBits) : (ctlTaken pg p w).en = w.en := by
  unfold ctlTaken
  split <;> rfl

theorem ctlTaken_of_bank {pg p : Nat} (h : pg = pgMEM → pdMramA ≤ p) (w : CtlBits) : ctlTaken pg p w = w :=
  if_neg fun hc => absurd (h hc.1) (Nat.not_le.2 hc.2)

theorem ctlTaken_of_no_test (pg p : Nat) (en drain blkrst : Bool) :
    ctlTaken pg p ⟨en, drain, false, blkrst⟩ = ⟨en, drain, false, blkrst⟩ := by
  unfold ctlTaken
  split <;> rfl

/-- A write to CTL of a page that shows a polder: the polder takes it, and what follows from its new state happens. -/
theorem settle_ctlRow {pg : Nat} (h : s.pagePolder pg = some p) (w : CtlBits) :
    settle (s.ctlRow pg w) = .next ((s.ctlWrite p (ctlTaken pg p w) (pg ≠ pgSUP)
      (drainRefusedKind s.compat s.inactiveMram p)).polderFollows p (s.polderSt p)) := by
  have ht : (pageType pg).isSome = true := by
    unfold State.pagePolder at h
    cases hp : pageType pg with
    | none => simp [hp] at h
    | some _ => rfl
  unfold State.ctlRow State.ctlPage
  rw [if_pos ht, h]
  rfl

theorem polderFollows_touches (s : State) (p : Nat) (old : PolderState) :
    Touches [.regs, .pushes, .loops, .sup, .trl, .pilot] s (s.polderFollows p old) :=
  (Kept.start.polderFollows (List.Subset.refl _) p old).same

theorem ctlWrite_enable (hen : w.en = true) (hst : (s.polder p).st = .off) (hx : (s.polder p).en = false) (refused : Bool) :
    s.ctlWrite p w true refused = s.enablePolder p := by
  unfold State.ctlWrite State.ctlEnMatches
  simp [hen, hst, hx]

theorem ctlWrite_powerDown (hen : w.en = false) (hst : (s.polder p).st = .drained ∨ (s.polder p).st = .failed)
    (hx : (s.polder p).en = true) (refused : Bool) : s.ctlWrite p w true refused = s.powerDownPolder p := by
  unfold State.ctlWrite State.ctlEnMatches
  rcases hst with hst | hst <;> simp [hen, hst, hx]

/-- A write that repeats EN goes on to BLKRST, DRAIN and TEST in this order. -/
theorem ctlWrite_of_same_en (hen : w.en = (s.polder p).en) (acts refused : Bool) :
    s.ctlWrite p w acts refused = ((s.ctlBlkrst p w).ctlDrain p w refused).ctlTest p w := by
  unfold State.ctlWrite State.ctlEnMatches
  simp [hen]

theorem ctlBlkrst_of_clear (h : w.blkrst = false) : s.ctlBlkrst p w = s := by
  unfold State.ctlBlkrst
  simp [h]

theorem ctlBlkrst_of_in_service (h : (s.polder p).st = .ready ∨ (s.polder p).st = .running) : s.ctlBlkrst p w = s := by
  unfold State.ctlBlkrst
  rcases h with h | h <;> simp [h]

theorem ctlBlkrst_acts (hw : w.blkrst = true) (h : (s.polder p).st = .drained ∨ (s.polder p).st = .failed) :
    s.ctlBlkrst p w = s.setPolder p { s.polder p with blkrst := true, withheld := false, injected := false } := by
  unfold State.ctlBlkrst
  simp [hw, h]

theorem ctlDrain_request (hw : w.drain = true) (hst : (s.polder p).st = .ready ∨ (s.polder p).st = .running)
    (hd : (s.polder p).drain = false) : s.ctlDrain p w false =
      { s with drainQ := s.drainQ ++ [p] }.setPolder p { s.polder p with drain := true, test := w.test } := by
  unfold State.ctlDrain
  simp [hw, hst, hd]

theorem ctlDrain_of_set (hw : w.drain = true) (hst : (s.polder p).st = .drained ∨ (s.polder p).st = .failed) (refused : Bool) :
    s.ctlDrain p w refused = s := by
  unfold State.ctlDrain
  rcases hst with hst | hst <;> simp [hw, hst]

theorem ctlDrain_abandons (hw : w.drain = false) (hst : (s.polder p).st = .draining) (refused : Bool) :
    s.ctlDrain p w refused = s.abandonDrain p := by
  unfold State.ctlDrain
  simp [hw, hst]

theorem ctlDrain_refills (hw : w.drain = false) (hw' : w.test = false) (hst : (s.polder p).st = .drained)
    (hx : (s.polder p).test = false) (refused : Bool) : s.ctlDrain p w refused = s.refill p := by
  unfold State.ctlDrain
  simp [hw, hw', hst, hx]

theorem ctlTest_of_clear (h : w.test = false) : s.ctlTest p w = s := by
  unfold State.ctlTest
  simp [h]

theorem ctlTest_of_in_service (h : (s.polder p).st = .ready ∨ (s.polder p).st = .running) : s.ctlTest p w = s := by
  unfold State.ctlTest
  rcases h with h | h <;> simp [h]

theorem ctlTest_starts (hw : w.test = true) (hst : (s.polder p).st = .drained ∨ (s.polder p).st = .failed)
    (hb : (s.polder p).blkrst = false) : s.ctlTest p w = s.startTest p := by
  unfold State.ctlTest
  simp [hw, hst, hb]

theorem startTest_becomes {x : Polder} (h : s.polder p = x) : PolderBecomes s (s.startTest p) p
    { x with st := .testing, test := true, closed := true, testAfter := false } := by
  subst h
  exact polderBecomes_setPolder _ _ _

theorem abandonDrain_of_draining (h : (s.polder p).st = .draining) : s.abandonDrain p =
    (s.setPolder p { s.polder p with st := if (s.polder p).busy then .running else .ready, drain := false, test := false }).reportPolder
      .c 0x03 p := by
  unfold State.abandonDrain
  simp [h]

/-- An abandoned drain: the polder goes back into service, and the fault is on its way (R32, R35). -/
theorem abandonDrain_becomes (h : (s.polder p).st = .draining) (hc : s.coll.stopped = false) :
    Reported (s.abandonDrain p) .c 0x03 (polderPage p) ∧ PolderBecomes s (s.abandonDrain p) p { s.polder p with
      st := if (s.polder p).busy then .running else .ready, drain := false, test := false } := by
  rw [abandonDrain_of_draining h]
  exact ⟨reported_reportFab _ _ _ _ _ _ (by rw [setPolder_coll]; exact hc),
    (polderBecomes_setPolder s p _).followedBy (reportFab_polders _ _ _ _ _ _)⟩

end Sys2Proof.Machine
end

section
/-! PROOF. Writes of CTL (O7). -/

namespace Sys2Proof.Machine

variable {s : State} {page : Fin 256} {p : Nat} {w : CtlBits} {x : Polder}

/-- The polder of a page after a write to CTL: as the write made it, for nothing that follows changes a polder. -/
theorem ctl_becomes (hp : s.pagePolder page = some p) (h : PolderBecomes s (s.ctlWrite p (ctlTaken page p w) (page.val ≠ pgSUP)
      (drainRefusedKind s.compat s.inactiveMram p)) p x) :
    ∃ t, settle (s.ctlRow page w) = .next t ∧ PolderBecomes s t p x :=
  ⟨_, settle_ctlRow hp w, h.followedBy (polderFollows_touches _ _ _ .polders (by decide))⟩

/-- The same of a write that repeats EN, by its BLKRST, DRAIN and TEST. -/
theorem ctl_becomes_of_same_en (hp : s.pagePolder page = some p) (hw : ctlTaken page p w = w) (hen : w.en = (s.polder p).en)
    (h : PolderBecomes s (((s.ctlBlkrst p w).ctlDrain p w (drainRefusedKind s.compat s.inactiveMram p)).ctlTest p w) p x) :
    ∃ t, settle (s.ctlRow page w) = .next t ∧ PolderBecomes s t p x :=
  ctl_becomes hp (by rw [hw, ctlWrite_of_same_en hen]; exact h)

theorem polderEnable_becomes (hp : s.pagePolder page = some p) (hpg : page.val ≠ pgSUP) (hst : (s.polder p).st = .off)
    (hx : (s.polder p).en = false) (hen : w.en = true) : ∃ t, settle (s.ctlRow page w) = .next t ∧ PolderBecomes s t p
      { s.polder p with en := true, st := .ready, closed := false, drain := false, test := false, blkrst := false, busy := false } :=
  ctl_becomes hp (by
    rw [decide_eq_true hpg, ctlWrite_enable ((ctlTaken_en _ _ _).trans hen) hst hx]
    exact polderBecomes_setPolder _ _ _)

theorem polderPowerDown_becomes (hp : s.pagePolder page = some p) (hpg : page.val ≠ pgSUP)
    (hst : (s.polder p).st = .drained ∨ (s.polder p).st = .failed) (hx : (s.polder p).en = true) (hen : w.en = false) :
    ∃ t, settle (s.ctlRow page w) = .next t ∧ PolderBecomes s t p
      { s.polder p with
        en := false, st := .off, drain := false, test := false, blkrst := false, testAfter := false, busy := false } :=
  ctl_becomes hp (by
    rw [decide_eq_true hpg, ctlWrite_powerDown ((ctlTaken_en _ _ _).trans hen) hst hx]
    exact polderBecomes_setPolder _ _ _)

/-- A request from a polder in service is queued, and nothing that follows reaches the queue (R34). -/
theorem drainRequest_becomes (hp : s.pagePolder page = some p) (hm : page.val = pgMEM → pdMramA ≤ p)
    (hk : drainRefusedKind s.compat s.inactiveMram p = false) (hst : (s.polder p).st = .ready ∨ (s.polder p).st = .running)
    (hd : (s.polder p).drain = false) (test blkrst : Bool) :
    ∃ t, settle (s.ctlRow page ⟨(s.polder p).en, true, test, blkrst⟩) = .next t ∧ t.drainQ = s.drainQ ++ [p] ∧
      PolderBecomes s t p { s.polder p with drain := true, test := test } := by
  have hq : PolderBecomes s ({ s with drainQ := s.drainQ ++ [p] }.setPolder p { s.polder p with drain := true, test := test }) p
      { s.polder p with drain := true, test := test } := (polderBecomes_setPolder _ p _).after rfl
  have ht := polderFollows_touches
    ({ s with drainQ := s.drainQ ++ [p] }.setPolder p { s.polder p with drain := true, test := test }) p (s.polderSt p)
  refine ⟨_, settle_ctlRow hp _, ?_⟩
  rw [ctlTaken_of_bank hm, ctlWrite_of_same_en rfl, ctlBlkrst_of_in_service hst, hk, ctlDrain_request rfl hst hd,
    ctlTest_of_in_service (by rw [hq.1]; exact hst)]
  exact ⟨(ht .drainQ (by decide)).trans (setPolder_drainQ _ _ _), hq.followedBy (ht .polders (by decide))⟩

theorem drainCancel_of_draining (hp : s.pagePolder page = some p) (hst : (s.polder p).st = .draining)
    (hc : s.coll.stopped = false) : ∃ t, settle (s.ctlRow page ⟨(s.polder p).en, false, false, false⟩) = .next t ∧
      Reported t .c 0x03 (polderPage p) ∧ PolderBecomes s t p { s.polder p with
        st := if (s.polder p).busy then .running else .ready, drain := false, test := false } := by
  obtain ⟨hr, hb⟩ := abandonDrain_becomes hst hc
  have ht := polderFollows_touches (s.abandonDrain p) p (s.polderSt p)
  refine ⟨_, settle_ctlRow hp _, ?_⟩
  rw [ctlTaken_of_no_test, ctlWrite_of_same_en rfl, ctlBlkrst_of_clear rfl, ctlDrain_abandons rfl hst, ctlTest_of_clear rfl]
  exact ⟨hr.followedBy (ht .coll (by decide)), hb.followedBy (ht .polders (by decide))⟩

theorem drainCancel_of_drained (hp : s.pagePolder page = some p) (hst : (s.polder p).st = .drained)
    (hx : (s.polder p).test = false) : ∃ t, settle (s.ctlRow page ⟨(s.polder p).en, false, false, false⟩) = .next t ∧
      PolderBecomes s t p { s.polder p with st := .ready, closed := false, drain := false, test := false, busy := false } :=
  ctl_becomes_of_same_en hp (ctlTaken_of_no_test _ _ _ _ _) rfl (by
    rw [ctlBlkrst_of_clear rfl, ctlDrain_refills rfl rfl hst hx, ctlTest_of_clear rfl]
    exact polderBecomes_setPolder _ _ _)

theorem testRequest_becomes (hp : s.pagePolder page = some p) (hm : page.val = pgMEM → pdMramA ≤ p)
    (hst : (s.polder p).st = .drained ∨ (s.polder p).st = .failed) (hb : (s.polder p).blkrst = false) :
    ∃ t, settle (s.ctlRow page ⟨(s.polder p).en, true, true, false⟩) = .next t ∧ PolderBecomes s t p
      { s.polder p with st := .testing, test := true, closed := true, testAfter := false } :=
  ctl_becomes_of_same_en hp (ctlTaken_of_bank hm _) rfl (by
    rw [ctlBlkrst_of_clear rfl, ctlDrain_of_set rfl hst, ctlTest_starts rfl hst hb]
    exact startTest_becomes rfl)

theorem blockReset_becomes (hp : s.pagePolder page = some p)
    (hst : (s.polder p).st = .drained ∨ (s.polder p).st = .failed) :
    ∃ t, settle (s.ctlRow page ⟨(s.polder p).en, true, false, true⟩) = .next t ∧ PolderBecomes s t p
      { s.polder p with blkrst := true, withheld := false, injected := false } :=
  ctl_becomes_of_same_en hp (ctlTaken_of_no_test _ _ _ _ _) rfl (by
    rw [ctlBlkrst_acts rfl hst, ctlDrain_of_set rfl (by rw [polder_setPolder_self]; exact hst), ctlTest_of_clear rfl]
    exact polderBecomes_setPolder _ _ _)

theorem blkrstDone_of_no_test (hb : (s.polder p).blkrst = true) (ha : (s.polder p).testAfter = false) :
    PolderBecomes s (s.blkrstDone p) p { s.polder p with blkrst := false } := by
  unfold State.blkrstDone
  rw [if_pos hb, if_neg (by simp [ha])]
  exact polderBecomes_setPolder _ _ _

theorem blkrstDone_of_test (hb : (s.polder p).blkrst = true) (ha : (s.polder p).testAfter = true)
    (hst : (s.polder p).st = .drained ∨ (s.polder p).st = .failed) : PolderBecomes s (s.blkrstDone p) p
      { s.polder p with blkrst := false, testAfter := false, st := .testing, test := true, closed := true } := by
  have he : s.blkrstDone p = (s.setPolder p { s.polder p with blkrst := false }).startTest p := by
    unfold State.blkrstDone
    rw [if_pos hb, if_pos ⟨ha, hst⟩]
  rw [he]
  exact (polderBecomes_setPolder s p _).trans (startTest_becomes (polder_setPolder_self s p _))

/-- Settles O7: each write of CTL reaches one part of the write's order, and nothing that follows changes a polder. -/
theorem polderControlWrites : Obligations.PolderControlWrites :=
  ⟨fun _ _ _ _ _ _ hp hpg hst hx => polderEnable_becomes hp hpg hst hx rfl,
   fun _ _ _ _ _ _ hp hpg hst hx => polderPowerDown_becomes hp hpg hst hx rfl,
   fun _ _ _ test blkrst hp hm hk hst hd => drainRequest_becomes hp hm hk hst hd test blkrst,
   fun _ _ _ hp hst hc => drainCancel_of_draining hp hst hc,
   fun _ _ _ hp hst hx => drainCancel_of_drained hp hst hx,
   fun _ _ _ hp hm hst hb => testRequest_becomes hp hm hst hb,
   fun _ _ _ hp hst => blockReset_becomes hp hst,
   fun _ _ hb ha => ⟨_, rfl, blkrstDone_of_no_test hb ha⟩,
   fun _ _ hb ha hst => ⟨_, rfl, blkrstDone_of_test hb ha hst⟩⟩

end Sys2Proof.Machine
end

section
/-! SUPPORT. Register words and fields across updates of other words, and counters below saturation. -/

namespace Sys2Proof.Machine

variable {s t u : State}

theorem setWord_regs (s : State) (p o : Nat) (w : Word) :
    (s.setWord p o w).regs = tabPut regReset s.regs (regKey p o) w := rfl

theorem onlyWords_setWord (s : State) (p o : Nat) (w : Word) : OnlyWords [regKey p o] s (s.setWord p o w) :=
  fun _ hk => tabGet_put_ne _ _ _ _ _ (List.ne_of_not_mem_cons hk)

theorem OnlyWords.followedBy {keys : List Nat} (h : OnlyWords keys s t) (hu : u.regs = t.regs) : OnlyWords keys s u := by
  unfold OnlyWords
  rw [hu]
  exact h

/-- Below saturation an event of a counter adds 1 and does nothing else (R360). -/
theorem count_of_lt {p : Nat} {f : Field} (h : s.rd p f < 0xFFFE) : s.count p f = s.wr p f (s.rd p f + 1) := by
  unfold State.count
  rw [if_neg (by omega), if_neg (by omega)]

/-- The low bits of a number kept in a word. -/
theorem bitsAt_ofNat_low (v n : Nat) (hn : n ≤ 32) : bitsAt (BitVec.ofNat 32 v) 0 n = v % 2 ^ n := by
  unfold bitsAt
  rw [BitVec.toNat_ofNat, Nat.pow_zero, Nat.div_one, Nat.mod_mod_of_dvd _ (Nat.pow_dvd_pow 2 hn)]

end Sys2Proof.Machine
end

section
/-! PROOF. Dispatch, deadlines, the peak of the delay and the measured rate (O17). -/

namespace Sys2Proof.Machine

variable {s : State} {e l : Nat}

/-- An engine on which a waiting run has started: class A on its own context, the others on the shared one (R76, R78). -/
def Engine.started (x : Engine) (classA : Bool) (w : Waiting) : Engine :=
  let c : Context := { run := some { loop := w.loop, stamp := w.stamp } }
  let waiting := x.waiting.filter (· ≠ w)
  if classA then { x with waiting := waiting, a := c } else { x with waiting := waiting, bc := c }

/-- RUN_DISPATCH starts the next waiting run where no run of class A is in progress. -/
theorem dispatch_starts {w : Waiting}
    (hst : (s.polder e).st = .ready ∨ (s.polder e).st = .running ∨ (s.polder e).st = .draining)
    (hw : (s.polder e).withheld = false) (ha : (s.eng e).a.run = none)
    (hn : s.nextWaiting e (s.eng e).bc.run.isSome = some w) :
    s.dispatch e = s.setEng e ((s.eng e).started (decide (descClass (s.loop w.loop).desc = 0)) w) := by
  have hgo : ¬ (¬ (s.polderSt (pdLE e) = .running ∨ s.polderSt (pdLE e) = .ready ∨ s.polderSt (pdLE e) = .draining)
      ∨ (s.polder (pdLE e)).withheld = true) := by
    unfold State.polderSt
    rcases hst with h | h | h <;> simp [h, hw]
  unfold State.dispatch Engine.started
  simp only [hgo, ha, hn, if_false, Option.isSome_none, Bool.false_eq_true, decide_eq_true_eq]
  split <;> rfl

/-- While class A runs, nothing is dispatched (R76). -/
theorem dispatch_of_busy (h : (s.eng e).a.run.isSome = true) : s.dispatch e = s := by
  unfold State.dispatch
  simp only [h, if_true, ite_self]

/-- The deadline counter of loop `l`'s engine counts, and its run is marked late (R110). -/
def State.markLate (s : State) (l : Nat) : State :=
  (s.wr (s.loopPage l) Reg.LE.DEADLINE_CNT_COUNT (s.rd (s.loopPage l) Reg.LE.DEADLINE_CNT_COUNT + 1)).setLoop l
    { s.loop l with late := true, deadlineLogged := true }

theorem markLate_loop (s : State) (l : Nat) :
    (s.markLate l).loop l = { s.loop l with late := true, deadlineLogged := true } := by
  unfold State.markLate
  rw [loop_setLoop_self]

theorem markLate_engines (s : State) (l : Nat) : (s.markLate l).engines = s.engines := by
  unfold State.markLate
  rw [setLoop_engines, wr_engines]

theorem markLate_coll (s : State) (l : Nat) : (s.markLate l).coll = s.coll := by
  unfold State.markLate
  rw [setLoop_coll, wr_coll]

theorem markLate_count (s : State) (l : Nat) (hc : s.rd (s.loopPage l) Reg.LE.DEADLINE_CNT_COUNT < 0xFFFE) :
    (s.markLate l).rd (s.loopPage l) Reg.LE.DEADLINE_CNT_COUNT = s.rd (s.loopPage l) Reg.LE.DEADLINE_CNT_COUNT + 1 := by
  have hw : Reg.LE.DEADLINE_CNT_COUNT.width = 16 := rfl
  unfold State.markLate
  rw [rd_congr (setLoop_regs _ _ _), rd_wr_self _ _ _ (by decide), hw, Nat.mod_eq_of_lt (by omega)]

/-- A deadline that has passed: the run is marked late, and the first one of a loop is logged (R110). -/
theorem deadlinePassed_eq {stamp : Nat} (hp : s.progressStamp l = some stamp) (hd : descDeadline (s.loop l).desc ≠ 0)
    (hl : (s.loop l).late = false) (ht : s.passed stamp (320 * descDeadline (s.loop l).desc) = true)
    (hc : s.rd (s.loopPage l) Reg.LE.DEADLINE_CNT_COUNT < 0xFFFE) : s.deadlinePassed l =
      if (s.loop l).deadlineLogged then s.markLate l else (s.markLate l).reportLoop .c 0x22 (s.loopPage l) l := by
  have ht' : s.passed stamp (usTicks (descDeadline (s.loop l).desc)) = true := by
    rw [usTicks, Nat.mul_comm]
    exact ht
  have hpg : (s.markLate l).loopPage l = s.loopPage l := by
    unfold State.loopPage
    rw [markLate_loop]
  rw [← hpg]
  unfold State.deadlinePassed
  simp only [hp]
  rw [if_pos ⟨hd, by simp [hl], ht'⟩, count_of_lt hc]
  rfl

theorem runDeadlinePassed_effect {stamp : Nat} (hp : s.progressStamp l = some stamp) (hd : descDeadline (s.loop l).desc ≠ 0)
    (hl : (s.loop l).late = false) (ht : s.passed stamp (320 * descDeadline (s.loop l).desc) = true)
    (hr : s.coll.stopped = false) (hc : s.rd (s.loopPage l) Reg.LE.DEADLINE_CNT_COUNT < 0xFFFE) :
    ((s.deadlinePassed l).loop l).late = true ∧
      (s.deadlinePassed l).rd (s.loopPage l) Reg.LE.DEADLINE_CNT_COUNT = s.rd (s.loopPage l) Reg.LE.DEADLINE_CNT_COUNT + 1 ∧
      ((s.loop l).deadlineLogged = false → Reported (s.deadlinePassed l) .c 0x22 (s.loopPage l)) ∧
      (s.deadlinePassed l).engines = s.engines := by
  rw [deadlinePassed_eq hp hd hl ht hc]
  split
  · next hlog =>
    exact ⟨by rw [markLate_loop], markLate_count s l hc, fun h => absurd hlog (by simp [h]), markLate_engines s l⟩
  · unfold State.reportLoop
    exact ⟨by rw [loop_congr (reportFab_loops _ _ _ _ _ _), markLate_loop],
      (rd_congr (reportFab_regs _ _ _ _ _ _) _ _).trans (markLate_count s l hc),
      fun _ => reported_reportFab _ _ _ _ _ _ (by rw [markLate_coll]; exact hr),
      (reportFab_engines _ _ _ _ _ _).trans (markLate_engines s l)⟩

theorem touches_setLoop (s : State) (l : Nat) (x : LoopRec) : Touches [.loops] s (s.setLoop l x) :=
  fun p hp => by cases p <;> first | exact absurd (by decide) hp | rfl

/-- The last 16 rate windows of an engine once the present one closes (R20). -/
def State.closedWindows (s : State) (e ticks : Nat) : List RateWindow :=
  ({ (s.eng e).window with ticks := (s.eng e).window.ticks + ticks, inService := s.inService (pdLE e) }
    :: (s.eng e).windows).take 16

theorem regs_engines_ite_trl (c : Prop) [Decidable c] (v : State) (x : Trellis) :
    (if c then v else { v with trl := x }).regs = v.regs ∧ (if c then v else { v with trl := x }).engines = v.engines := by
  split <;> exact ⟨rfl, rfl⟩

/-- RATE_WINDOW_END beside the event that may follow it: the engine's windows, and its RATE word with the rate in its low bits
(R20, R523). -/
theorem rateWindowEnd_effect (s : State) (e ticks : Nat) :
    (∃ n, n % 2 ^ 16 = windowRate (s.closedWindows e ticks) % 2 ^ 16 ∧
      (s.rateWindowEnd e ticks).regs = (s.setWord (pgLE e) 0x100 (BitVec.ofNat 32 n)).regs) ∧
    (s.rateWindowEnd e ticks).engines =
      (s.setEng e { s.eng e with windows := s.closedWindows e ticks, window := {} }).engines := by
  unfold State.rateWindowEnd
  extract_lets x ins wx w ws u valid old v
  refine ⟨⟨windowRate ws + bit w.probe * 2 ^ 16 + bit valid * 2 ^ 31, ?_, ?_⟩, ?_⟩
  · have hws : ws = s.closedWindows e ticks := rfl
    clear_value w ws valid
    subst hws
    omega
  · rw [(regs_engines_ite_trl _ v _).1]
    unfold v u
    rw [setWord_regs, setWord_regs, setEng_regs]
  · rw [(regs_engines_ite_trl _ v _).2]
    unfold v u
    rw [setWord_engines]
    rfl

/-- An idle engine in service measures itself (R21). -/
theorem rateProbe_idle {ops ticks : Nat} (hs : s.inService (pdLE e) = true) (ha : (s.eng e).a.run = none)
    (hb : (s.eng e).bc.run = none) : s.rateProbe e ops ticks = s.setEng e { s.eng e with window :=
      { (s.eng e).window with ops := (s.eng e).window.ops + ops, ticks := (s.eng e).window.ticks + ticks, probe := true } } := by
  unfold State.rateProbe
  rw [if_pos ⟨hs, ha, hb⟩]

/-- Settles O17, by what each command does to the engine or the loop it names. -/
theorem runDispatchAndMeasurement : Obligations.RunDispatchAndMeasurement := by
  refine ⟨fun s e hst hw ha w hn => ⟨_, rfl, ?_⟩, fun s e h => congrArg _ (dispatch_of_busy h),
    fun s l stamp hp hd hl ht hr hc => ⟨_, rfl, runDeadlinePassed_effect hp hd hl ht hr hc⟩,
    fun s l => ⟨_, rfl, touches_setLoop _ _ _, loop_setLoop_self _ _ _, fun k hk => loop_setLoop_ne _ _ hk⟩,
    fun s e ticks => ⟨_, rfl, ?_⟩, fun s e ops ticks hs ha hb => ⟨_, rfl, ?_⟩⟩
  · rw [dispatch_starts hst hw ha hn]
    obtain ⟨htouch, heng, hother⟩ := onlyEngine_setEng s e
      ((s.eng e).started (decide (descClass (s.loop w.loop).desc = 0)) w)
    refine ⟨htouch, fun k hk => hother k (Fin.val_ne_of_ne hk), ?_⟩
    rw [heng]
    by_cases hc : descClass (s.loop w.loop).desc = 0 <;> simp [Engine.started, hc]
  · obtain ⟨⟨n, hn, hregs⟩, hengines⟩ := rateWindowEnd_effect s e ticks
    have heng := (eng_congr hengines e).trans (eng_setEng_self s e _)
    refine ⟨by rw [heng], by rw [heng]; rfl, ?_, fun k hk => (eng_congr hengines k).trans (eng_setEng_ne s _ hk),
      (onlyWords_setWord s _ _ _).followedBy hregs⟩
    rw [heng, word_congr hregs, word_setWord_self, bitsAt_ofNat_low _ _ (by decide), hn]
  · rw [rateProbe_idle hs ha hb]
    obtain ⟨htouch, heng, hother⟩ := onlyEngine_setEng s e { s.eng e with window :=
      { (s.eng e).window with ops := (s.eng e).window.ops + ops, ticks := (s.eng e).window.ticks + ticks, probe := true } }
    exact ⟨htouch, hother, by rw [heng]⟩

end Sys2Proof.Machine
end

section
/-! SUPPORT. Bytes after a range of memory is zeroed or copied. -/

namespace Sys2Proof.Machine

variable {α : Type} (d : Nat → α) {k : Nat}

theorem tabGet_append_of_missing {a : Tab α} (h : ∀ e ∈ a, e.1 ≠ k) (b : Tab α) : tabGet d (a ++ b) k = tabGet d b k := by
  induction a with
  | nil => rfl
  | cons e a ih =>
    rw [List.cons_append, tabGet, if_neg (h e List.mem_cons_self), ih fun x hx => h x (List.mem_cons_of_mem _ hx)]

theorem tabGet_append_missing (a : Tab α) {b : Tab α} (h : ∀ e ∈ b, e.1 ≠ k) : tabGet d (a ++ b) k = tabGet d a k := by
  induction a with
  | nil => exact tabGet_missing d b k h
  | cons e a ih => rw [List.cons_append, tabGet, tabGet, ih]

/-- A filter by key that keeps key `k` keeps what is read there. -/
theorem tabGet_filter (t : Tab α) {P : Nat → Bool} (h : P k = true) : tabGet d (t.filter fun e => P e.1) k = tabGet d t k := by
  induction t with
  | nil => rfl
  | cons e t ih =>
    by_cases he : e.1 = k
    · rw [List.filter_cons_of_pos (by rw [he]; exact h), tabGet, tabGet, if_pos he, if_pos he]
    · cases hP : P e.1 <;> simp [tabGet, hP, he, ih]

/-- Cells moved from `src` to `dst` read at the new place as they did at the old one. -/
theorem tabGet_map_shift (m : List Host.Cell) {src dst i : Nat} (hm : ∀ e ∈ m, src ≤ e.1) :
    tabGet memDefault (m.map fun c => (c.1 - src + dst, c.2)) (dst + i) = tabGet memDefault m (src + i) := by
  induction m with
  | nil => rfl
  | cons e m ih =>
    have he := hm e List.mem_cons_self
    rw [List.map_cons, tabGet, tabGet, ih fun x hx => hm x (List.mem_cons_of_mem _ hx)]
    have hiff : e.1 - src + dst = dst + i ↔ e.1 = src + i := by omega
    simp only [hiff]

variable {m new : List Host.Cell} {a n : Nat}

theorem cellsReplace_outside (hnew : ∀ e ∈ new, a ≤ e.1 ∧ e.1 < a + n) (hk : k < a ∨ a + n ≤ k) :
    tabGet memDefault (cellsReplace m a n new) k = tabGet memDefault m k := by
  have hmiss : ∀ e ∈ new, e.1 ≠ k := fun e he => by have := hnew e he; omega
  unfold cellsReplace
  rcases hk with hk | hk
  · rw [tabGet_append_missing _ _ fun e he => by have := (List.mem_filter.1 he).2; simp only [decide_eq_true_eq] at this; omega,
      tabGet_append_missing _ _ hmiss]
    exact tabGet_filter (P := fun x => decide (x < a)) _ _ (decide_eq_true hk)
  · rw [List.append_assoc, tabGet_append_of_missing _ (fun e he => by
      have := (List.mem_filter.1 he).2; simp only [decide_eq_true_eq] at this; omega), tabGet_append_of_missing _ hmiss]
    exact tabGet_filter (P := fun x => decide (a + n ≤ x)) _ _ (decide_eq_true hk)

theorem cellsReplace_inside (hk : a ≤ k) (hk' : k < a + n) :
    tabGet memDefault (cellsReplace m a n new) k = tabGet memDefault new k := by
  unfold cellsReplace
  rw [tabGet_append_missing _ _ fun e he => by have := (List.mem_filter.1 he).2; simp only [decide_eq_true_eq] at this; omega,
    tabGet_append_of_missing _ fun e he => by have := (List.mem_filter.1 he).2; simp only [decide_eq_true_eq] at this; omega]

theorem byte_congr {s t : State} (h : t.mem = s.mem) (b : Nat) : t.byte b = s.byte b := by
  unfold State.byte
  rw [h]

theorem byte_zeroMem_inside (s : State) {a n b : Nat} (h : a ≤ b) (h' : b < a + n) : (s.zeroMem a n).byte b = 0 :=
  cellsReplace_inside h h'

theorem onlyBytes_zeroMem (s : State) (a n : Nat) : OnlyBytes a n s (s.zeroMem a n) :=
  fun _ hb => cellsReplace_outside (by simp) hb

theorem byte_copyMem (s : State) (dst src : Nat) {n i : Nat} (h : i < n) :
    (s.copyMem dst src n).byte (dst + i) = s.byte (src + i) := by
  unfold State.byte State.copyMem
  rw [cellsReplace_inside (by omega) (by omega), tabGet_map_shift]
  · exact tabGet_filter (P := fun x => decide (src ≤ x) && decide (x < src + n)) _ _ (by simp; omega)
  · intro e he
    have := (List.mem_filter.1 he).2
    simp only [Bool.and_eq_true, decide_eq_true_eq] at this
    exact this.1

theorem onlyBytes_copyMem (s : State) (dst src n : Nat) : OnlyBytes dst n s (s.copyMem dst src n) := by
  refine fun b hb => cellsReplace_outside (fun e he => ?_) hb
  obtain ⟨c, hc, rfl⟩ := List.mem_map.1 he
  have := (List.mem_filter.1 hc).2
  simp only [Bool.and_eq_true, decide_eq_true_eq] at this
  show dst ≤ c.1 - src + dst ∧ c.1 - src + dst < dst + n
  omega

theorem OnlyBytes.followedBy {s t u : State} {a n : Nat} (h : OnlyBytes a n s t) (hu : u.mem = t.mem) : OnlyBytes a n s u :=
  fun b hb => (byte_congr hu b).trans (h b hb)

theorem OnlyBytes.after {s t u : State} {a n : Nat} (h : OnlyBytes a n t u) (ht : t.mem = s.mem) : OnlyBytes a n s u :=
  fun b hb => (h b hb).trans (byte_congr ht b)

end Sys2Proof.Machine
end

section
/-! PROOF. Image slots (O21). -/

namespace Sys2Proof.Machine

variable {s t : State} {k r : Nat}

theorem imgResult_slot (s : State) (r : Nat) (hk : k < 64) : (s.imgResult k r).rd pgTRL Reg.TRL.IMG_STAT_SLOT = k := by
  show bitsAt ((s.imgResult k r).word pgTRL 0x148) 0 6 = k
  unfold State.imgResult
  rw [word_setWord_self, bitsAt_ofNat_low _ _ (by decide)]
  omega

theorem imgResult_result (s : State) (k : Nat) (hr : r < 16) : (s.imgResult k r).rd pgTRL Reg.TRL.IMG_STAT_RESULT = r := by
  show bitsAt ((s.imgResult k r).word pgTRL 0x148) 8 4 = r
  unfold State.imgResult bitsAt
  rw [word_setWord_self, BitVec.toNat_ofNat]
  omega

/-- The offset of the register with the verified mark of a slot (R152). -/
abbrev markOff (k : Nat) : Nat := if k < 32 then 0x150 else 0x154

theorem markOff_ne_stat (k : Nat) : markOff k ≠ 0x148 := by
  unfold markOff
  split <;> decide

theorem markOff_lt (k : Nat) : markOff k < 0x2000000 := by
  unfold markOff
  split <;> decide

theorem imgResult_mark (s : State) (k r j : Nat) : (s.imgResult k r).word pgTRL (markOff j) = s.word pgTRL (markOff j) :=
  word_setWord_off _ (markOff_ne_stat j)

theorem markSlot_mark (s : State) (k : Nat) (v : Bool) :
    bitsAt ((s.markSlot k v).word pgTRL (markOff k)) (k % 32) 1 = bit v := by
  unfold State.markSlot
  rw [word_setWord_self, bitsAt_withBits_self _ _ _ _ (by omega)]
  cases v <;> rfl

theorem markSlot_stat (s : State) (k : Nat) (v : Bool) (f : Field) (hf : f.off = 0x148) :
    (s.markSlot k v).rd pgTRL f = s.rd pgTRL f := by
  unfold State.markSlot State.rd
  rw [word_setWord_off _ (by rw [hf]; exact (markOff_ne_stat k).symm)]

theorem markSlot_mem (s : State) (k : Nat) (v : Bool) : (s.markSlot k v).mem = s.mem := setWord_mem s _ _ _

/-- A refused image command: its result, and the fault on its way (R146). -/
theorem imgRefused (s : State) (hr : r < 16) (hk : k < 64) (hc : s.coll.stopped = false) :
    let t := (s.imgResult k r).reportFab .c 0x30 pgTRL
    t.rd pgTRL Reg.TRL.IMG_STAT_SLOT = k ∧ t.rd pgTRL Reg.TRL.IMG_STAT_RESULT = r ∧ Reported t .c 0x30 pgTRL ∧
      Changes [.coll] [fieldKey pgTRL Reg.TRL.IMG_STAT_RESULT] s t := by
  have hregs : ((s.imgResult k r).reportFab .c 0x30 pgTRL).regs = (s.imgResult k r).regs := reportFab_regs _ _ _ _ _ _
  refine ⟨(rd_congr hregs _ _).trans (imgResult_slot s r hk), (rd_congr hregs _ _).trans (imgResult_result s k hr),
    reported_reportFab _ _ _ _ _ _ hc, ?_, (onlyWords_setWord s _ _ _).followedBy hregs⟩
  exact ((Kept.start.setWord (L := [.regs, .pushes, .coll]) (by decide) _ _ _).reportFab (by decide) _ _ _ _ _).same

/-- The state with an image job begun, or ended (R146). -/
def State.withJob (s : State) (j : Option ImageJob) : State := { s with trl := { s.trl with job := j } }

theorem imgRefused_job (s : State) (k r : Nat) : (((s.withJob none).imgResult k r).reportFab .c 0x30 pgTRL).trl.job = none := by
  rw [reportFab_trl]
  unfold State.imgResult
  rw [setWord_trl]
  rfl

theorem imgRefused_mem (s : State) (k r : Nat) : (((s.withJob none).imgResult k r).reportFab .c 0x30 pgTRL).mem = s.mem := by
  rw [reportFab_mem]
  unfold State.imgResult
  rw [setWord_mem]
  rfl

/-- The job of an accepted store (R146). -/
def State.storeJob (s : State) (k : Nat) : ImageJob :=
  { slot := k, src := (s.word pgTRL 0x144).toNat / 32 * 32, erase := false }

theorem imgStore_accepted (hj : s.trl.job = none) (hn : s.slotNamed k = false) (hs : (s.polder pdSecurity).st ≠ .failed) :
    s.imgStore k = ((s.imgResult k 1).markSlot k false).withJob (s.storeJob k) := by
  have hs' : ¬ s.polderSt pdSecurity = .failed := hs
  unfold State.imgStore
  rw [if_neg (by simp [hj]), if_neg (by simp [hn]), if_neg hs']
  rfl

/-- A store that is accepted: the job, and the request that waits at the security engine (R146, R450). -/
theorem imageStore_accepted (hj : s.trl.job = none) (hn : s.slotNamed k = false) (hs : (s.polder pdSecurity).st ≠ .failed) :
    s.imageStore k = (((s.imgResult k 1).markSlot k false).withJob (s.storeJob k)).setSec
      fun x => { x with queue := x.queue ++ [{ kind := .image }] } := by
  have hs' : ¬ (((s.imgResult k 1).markSlot k false).withJob (s.storeJob k)).polderSt pdSecurity = .failed := hs
  unfold State.imageStore
  rw [imgStore_accepted hj hn hs]
  dsimp only
  rw [if_pos ⟨by rw [hj]; rfl, rfl⟩]
  unfold State.secSubmit
  rw [if_neg hs']

theorem imageStore_of_named (hj : s.trl.job = none) (hn : s.slotNamed k = true) :
    s.imageStore k = (s.imgResult k 7).reportFab .c 0x30 pgTRL := by
  have h : s.imgStore k = (s.imgResult k 7).reportFab .c 0x30 pgTRL := by
    unfold State.imgStore
    rw [if_neg (by simp [hj]), if_pos hn]
  have hjob : ((s.imgResult k 7).reportFab .c 0x30 pgTRL).trl.job = none := by
    rw [reportFab_trl]
    exact hj
  unfold State.imageStore
  rw [h]
  dsimp only
  rw [hjob, if_neg (by simp)]

theorem imgErase_of_named (hj : s.trl.job = none) (hn : s.slotNamed k = true) :
    s.imgErase k = (s.imgResult k 7).reportFab .c 0x30 pgTRL := by
  unfold State.imgErase
  rw [if_neg (by simp [hj]), if_pos hn]

theorem imgErase_accepted (hj : s.trl.job = none) (hn : s.slotNamed k = false) :
    s.imgErase k = ((s.markSlot k false).imgResult k 8).zeroMem (s.slotBase k) 0x8000 := by
  unfold State.imgErase
  rw [if_neg (by simp [hj]), if_neg (by simp [hn])]

/-- The result of a store, where `fail` is the code of a failure found before the checks of R82, or 0 (R146). -/
def State.storeResult (s : State) (j : ImageJob) (fail : Nat) : Nat :=
  if fail = 3 ∨ fail = 4 ∨ fail = 6 then fail else if s.imageValid j.src then 2 else 5

/-- A store that ends without the image: the job is over, the result and the fault are there (R146). -/
theorem imgStored_fails {j : ImageJob} {fail : Nat} (hj : s.trl.job = some j) (h : s.storeResult j fail ≠ 2) :
    s.imgStored fail = ((s.withJob none).imgResult j.slot (s.storeResult j fail)).reportFab .c 0x30 pgTRL := by
  unfold State.imgStored
  rw [hj]
  exact if_neg h

/-- A store that ends with the image in its slot, marked verified (R146). -/
theorem imgStored_verifies {j : ImageJob} {fail : Nat} (hj : s.trl.job = some j) (h : s.storeResult j fail = 2) :
    s.imgStored fail = (((s.withJob none).copyMem (s.slotBase j.slot) j.src 0x8000).markSlot j.slot true).imgResult j.slot 2 := by
  unfold State.imgStored
  rw [hj]
  exact if_pos h

theorem rd_of_word {t : State} {p : Nat} {f : Field} (h : t.word p f.off = s.word p f.off) : t.rd p f = s.rd p f := by
  unfold State.rd
  rw [h]

theorem storeResult_of_engine (s : State) (j : ImageJob) : s.storeResult j 6 = 6 :=
  if_pos (.inr (.inr rfl))

theorem imageValid_congr {t : State} (h : t.mem = s.mem) (a : Nat) : t.imageValid a = s.imageValid a := by
  have hb : t.byte = s.byte := funext (byte_congr h)
  unfold State.imageValid State.imageDecl State.mword
  rw [hb]

theorem reportAs_stopped (s : State) (r : Report) : (s.reportAs r).coll.stopped = s.coll.stopped := by
  unfold State.reportAs
  split
  · split <;> rfl
  · rfl

theorem logVerify_stopped (s : State) (cls step : Nat) : (s.logVerify cls step).coll.stopped = s.coll.stopped := by
  unfold State.logVerify
  split
  · rfl
  · split
    · split
      · exact reportAs_stopped _ _
      · rfl
    · exact reportAs_stopped _ _

theorem logVerify_zero (s : State) (cls : Nat) : s.logVerify cls 0 = s := if_pos rfl

theorem logVerify_touches (s : State) (cls step : Nat) : Touches [.coll] s (s.logVerify cls step) :=
  (Kept.start.logVerify (List.Subset.refl _) cls step).same

theorem secEnd_touches (s : State) : Touches [.regs, .pushes, .sec] s s.secEnd :=
  (Kept.start.secEnd (List.Subset.refl _)).same

theorem secEnd_trl (s : State) {o : Nat} (ho : o < 0x2000000) : s.secEnd.word pgTRL o = s.word pgTRL o := by
  unfold State.secEnd State.agrEvent State.orBits State.wrB State.wr
  rw [word_setWord_page _ (by decide) (by decide) ho, word_setWord_page _ (by decide) (by decide) ho]
  rfl

theorem secEnd_idle (s : State) : s.secEnd.sec.run = none ∧ s.secEnd.rdB pgSEC Reg.SEC.STAT_BUSY = false := by
  unfold State.secEnd State.agrEvent State.orBits
  refine ⟨by rw [wr_sec, wrB_sec]; rfl, ?_⟩
  unfold State.rdB
  rw [rd_wr_page _ _ _ _ _ (by decide) (by decide) (by decide)]
  exact rdB_wrB_self _ _ _ (by decide) rfl

/-- What the steps of R454 hand on to the end of the store: 0, a refused rollback, or a failed signature (R146). -/
def failCode (step : Nat) : Nat := if step = 0 then 0 else if step = 4 then 4 else 3

variable {j : ImageJob} {facts : SecFacts}

theorem imageStored_of_failed (hs : (s.polder pdSecurity).st = .failed) : s.imageStored facts =
    (s.setSec fun x => { x with queue := x.queue.filter (·.kind != .image) }).imgStored 6 :=
  if_pos hs

theorem imageStored_of_image {r : SecRequest} (hs : (s.polder pdSecurity).st ≠ .failed) (hr : s.sec.run = some r)
    (hj : s.trl.job = some j) (hk : r.kind = .image) (hc : pkgClass (s.pkgWords j.src) = 3) : s.imageStored facts =
      ((s.logVerify 3 (s.verify (s.pkgWords j.src) 0x8000 facts)).imgStored
        (failCode (s.verify (s.pkgWords j.src) 0x8000 facts))).secEnd := by
  have hs' : ¬ s.polderSt pdSecurity = .failed := hs
  have hc' : pkgClass ((List.range 5).map fun k => s.mword (j.src + 4 * k)) = 3 := hc
  unfold State.imageStored
  rw [if_neg hs', hr, hj]
  dsimp only
  rw [if_neg (by simp [hk]), if_pos hc']
  rfl

/-- A store whose engine has failed ends with result 6 (R31). -/
theorem imageStored_without_engine (hs : (s.polder pdSecurity).st = .failed) (hj : s.trl.job = some j) (hslot : j.slot < 64)
    (hc : s.coll.stopped = false) : (s.imageStored facts).trl.job = none ∧
      (s.imageStored facts).rd pgTRL Reg.TRL.IMG_STAT_RESULT = 6 ∧ (s.imageStored facts).rd pgTRL Reg.TRL.IMG_STAT_SLOT = j.slot ∧
      Reported (s.imageStored facts) .c 0x30 pgTRL ∧ (s.imageStored facts).mem = s.mem := by
  rw [imageStored_of_failed hs]
  have hj' : (s.setSec fun x => { x with queue := x.queue.filter (·.kind != .image) }).trl.job = some j := hj
  have hc' : (s.setSec fun x => { x with queue := x.queue.filter (·.kind != .image) }).coll.stopped = false := hc
  have hm' : (s.setSec fun x => { x with queue := x.queue.filter (·.kind != .image) }).mem = s.mem := rfl
  generalize (s.setSec fun x => { x with queue := x.queue.filter (·.kind != .image) }) = u at hj' hc' hm' ⊢
  rw [imgStored_fails hj' (by rw [storeResult_of_engine]; decide), storeResult_of_engine]
  obtain ⟨hsl, hres, hrep, -, -⟩ := imgRefused (r := 6) (u.withJob none) (by decide) hslot hc'
  exact ⟨imgRefused_job u _ _, hres, hsl, hrep, (imgRefused_mem u _ _).trans hm'⟩

/-- The result of a store that fails a step of R454, or passes them and fails a check of R82. -/
theorem storeResult_failCode {step : Nat} (hbad : step ≠ 0 ∨ s.imageValid j.src = false) :
    s.storeResult j (failCode step) = if step = 0 then 5 else if step = 4 then 4 else 3 := by
  unfold State.storeResult failCode
  by_cases h0 : step = 0
  · simp [h0, hbad.resolve_left (not_not_intro h0)]
  · by_cases h4 : step = 4 <;> simp [h0, h4]

theorem storeResult_failCode_ne {step : Nat} (hbad : step ≠ 0 ∨ s.imageValid j.src = false) :
    s.storeResult j (failCode step) < 16 ∧ s.storeResult j (failCode step) ≠ 2 := by
  rw [storeResult_failCode hbad]
  split
  · decide
  · split <;> decide

/-- The end of a store that fails, with the engine's request: memory stays. -/
theorem imgStored_secEnd {fail : Nat} (hj : s.trl.job = some j) (hslot : j.slot < 64) (hc : s.coll.stopped = false)
    (hres : s.storeResult j fail < 16 ∧ s.storeResult j fail ≠ 2) :
    (s.imgStored fail).secEnd.trl.job = none ∧ (s.imgStored fail).secEnd.mem = s.mem ∧
      Reported (s.imgStored fail).secEnd .c 0x30 pgTRL ∧
      (s.imgStored fail).secEnd.rd pgTRL Reg.TRL.IMG_STAT_RESULT = s.storeResult j fail := by
  obtain ⟨-, hresult, hrep, -, -⟩ := imgRefused (k := j.slot) (s.withJob none) hres.1 hslot hc
  have hjob := imgRefused_job s j.slot (s.storeResult j fail)
  have hmem := imgRefused_mem s j.slot (s.storeResult j fail)
  rw [← imgStored_fails hj hres.2] at hresult hrep hjob hmem
  have hend := secEnd_touches (s.imgStored fail)
  have htrl : (s.imgStored fail).secEnd.trl = (s.imgStored fail).trl := hend .trl (by decide)
  exact ⟨by rw [htrl, hjob], (hend .mem (by decide)).trans hmem, hrep.followedBy (hend .coll (by decide)),
    (rd_of_word (secEnd_trl _ (by decide))).trans hresult⟩

/-- A store whose package fails a step of R454 or a check of R82 ends with its result and without a change of memory. -/
theorem imageStored_rejected {r : SecRequest} (hs : (s.polder pdSecurity).st ≠ .failed) (hr : s.sec.run = some r)
    (hj : s.trl.job = some j) (hk : r.kind = .image) (hcls : pkgClass (s.pkgWords j.src) = 3) (hslot : j.slot < 64)
    (hc : s.coll.stopped = false)
    (hbad : s.verify (s.pkgWords j.src) 0x8000 facts ≠ 0 ∨ s.imageValid j.src = false) :
    (s.imageStored facts).trl.job = none ∧ (s.imageStored facts).mem = s.mem ∧ Reported (s.imageStored facts) .c 0x30 pgTRL ∧
      (s.imageStored facts).rd pgTRL Reg.TRL.IMG_STAT_RESULT = (if s.verify (s.pkgWords j.src) 0x8000 facts = 0 then 5
        else if s.verify (s.pkgWords j.src) 0x8000 facts = 4 then 4 else 3) := by
  rw [imageStored_of_image hs hr hj hk hcls]
  generalize s.verify (s.pkgWords j.src) 0x8000 facts = step at hbad ⊢
  have hlog := logVerify_touches s 3 step
  have htrl : (s.logVerify 3 step).trl = s.trl := hlog .trl (by decide)
  have hmem : (s.logVerify 3 step).mem = s.mem := hlog .mem (by decide)
  have hbad' : step ≠ 0 ∨ (s.logVerify 3 step).imageValid j.src = false := by
    rw [imageValid_congr hmem]
    exact hbad
  obtain ⟨hjob, hmem', hrep, hresult⟩ := imgStored_secEnd (by rw [htrl]; exact hj) hslot
    ((logVerify_stopped s 3 step).trans hc) (storeResult_failCode_ne hbad')
  exact ⟨hjob, hmem'.trans hmem, hrep, hresult.trans (storeResult_failCode hbad')⟩

/-- A store whose package passes: the slot holds it and is marked verified, and the engine is free again. -/
theorem imageStored_accepted {r : SecRequest} (hs : (s.polder pdSecurity).st ≠ .failed) (hr : s.sec.run = some r)
    (hj : s.trl.job = some j) (hk : r.kind = .image) (hcls : pkgClass (s.pkgWords j.src) = 3)
    (h0 : s.verify (s.pkgWords j.src) 0x8000 facts = 0) (hv : s.imageValid j.src = true) :
    s.imageStored facts = ((((s.withJob none).copyMem (s.slotBase j.slot) j.src 0x8000).markSlot j.slot true).imgResult j.slot
      2).secEnd := by
  have hres : s.storeResult j (failCode 0) = 2 := by
    unfold State.storeResult failCode
    simp [hv]
  rw [imageStored_of_image hs hr hj hk hcls, h0, logVerify_zero, imgStored_verifies hj hres]

/-- An accepted store: the job, the result in progress, the cleared mark and the request (R146, R450). -/
theorem imageStore_accepted_effect (hk : k < 64) (hj : s.trl.job = none) (hn : s.slotNamed k = false)
    (hs : (s.polder pdSecurity).st ≠ .failed) :
    (s.imageStore k).trl.job = some (s.storeJob k) ∧ (s.imageStore k).rd pgTRL Reg.TRL.IMG_STAT_SLOT = k ∧
      (s.imageStore k).rd pgTRL Reg.TRL.IMG_STAT_RESULT = 1 ∧
      bitsAt ((s.imageStore k).word pgTRL (markOff k)) (k % 32) 1 = 0 ∧
      (s.imageStore k).sec.queue = s.sec.queue ++ [{ kind := .image }] ∧ (s.imageStore k).mem = s.mem := by
  have hsec : ((s.imgResult k 1).markSlot k false).sec = s.sec := by
    unfold State.markSlot State.imgResult
    rw [setWord_sec, setWord_sec]
  have hmem : ((s.imgResult k 1).markSlot k false).mem = s.mem := by
    rw [markSlot_mem, State.imgResult, setWord_mem]
  have hslot := (markSlot_stat (s.imgResult k 1) k false Reg.TRL.IMG_STAT_SLOT rfl).trans (imgResult_slot s 1 hk)
  have hresult := (markSlot_stat (s.imgResult k 1) k false Reg.TRL.IMG_STAT_RESULT rfl).trans
    (imgResult_result s k (by decide))
  have hmark := markSlot_mark (s.imgResult k 1) k false
  rw [imageStore_accepted hj hn hs]
  generalize (s.imgResult k 1).markSlot k false = u at *
  exact ⟨rfl, hslot, hresult, hmark, congrArg (fun x : Security => x.queue ++ [{ kind := .image }]) hsec, hmem⟩

/-- An accepted erasure: the result, the cleared mark and zeros in the slot (R146). -/
theorem imgErase_accepted_effect (hk : k < 64) (hj : s.trl.job = none) (hn : s.slotNamed k = false) :
    (s.imgErase k).rd pgTRL Reg.TRL.IMG_STAT_SLOT = k ∧ (s.imgErase k).rd pgTRL Reg.TRL.IMG_STAT_RESULT = 8 ∧
      bitsAt ((s.imgErase k).word pgTRL (markOff k)) (k % 32) 1 = 0 ∧
      (∀ j, j < 0x8000 → (s.imgErase k).byte (s.slotBase k + j) = 0) ∧ OnlyBytes (s.slotBase k) 0x8000 s (s.imgErase k) := by
  have hmem : ((s.markSlot k false).imgResult k 8).mem = s.mem := by
    rw [State.imgResult, setWord_mem, markSlot_mem]
  have hslot := imgResult_slot (s.markSlot k false) 8 hk
  have hresult := imgResult_result (s.markSlot k false) k (r := 8) (by decide)
  have hmark := markSlot_mark s k false
  rw [← imgResult_mark _ k 8] at hmark
  rw [imgErase_accepted hj hn]
  generalize (s.markSlot k false).imgResult k 8 = u at *
  exact ⟨hslot, hresult, hmark, fun i hi => byte_zeroMem_inside _ (Nat.le_add_right _ _) (Nat.add_lt_add_left hi _),
    (onlyBytes_zeroMem _ _ _).after hmem⟩

/-- A store that succeeds: the slot holds the package and is marked verified, and the engine is free (R146, R450). -/
theorem imageStored_accepted_effect {r : SecRequest} (hs : (s.polder pdSecurity).st ≠ .failed) (hr : s.sec.run = some r)
    (hj : s.trl.job = some j) (hk : r.kind = .image) (hcls : pkgClass (s.pkgWords j.src) = 3)
    (h0 : s.verify (s.pkgWords j.src) 0x8000 facts = 0) (hv : s.imageValid j.src = true) :
    (s.imageStored facts).trl.job = none ∧ (s.imageStored facts).sec.run = none ∧
      (s.imageStored facts).rdB pgSEC Reg.SEC.STAT_BUSY = false ∧
      (s.imageStored facts).rd pgTRL Reg.TRL.IMG_STAT_RESULT = 2 ∧
      bitsAt ((s.imageStored facts).word pgTRL (markOff j.slot)) (j.slot % 32) 1 = 1 ∧
      (∀ i, i < 0x8000 → (s.imageStored facts).byte (s.slotBase j.slot + i) = s.byte (j.src + i)) ∧
      OnlyBytes (s.slotBase j.slot) 0x8000 s (s.imageStored facts) := by
  have hcopy : ∀ i, i < 0x8000 →
      ((s.withJob none).copyMem (s.slotBase j.slot) j.src 0x8000).byte (s.slotBase j.slot + i) = s.byte (j.src + i) :=
    fun i hi => byte_copyMem (s.withJob none) _ _ hi
  have honly : OnlyBytes (s.slotBase j.slot) 0x8000 s ((s.withJob none).copyMem (s.slotBase j.slot) j.src 0x8000) :=
    (onlyBytes_copyMem (s.withJob none) _ _ _).after rfl
  have hjob : ((s.withJob none).copyMem (s.slotBase j.slot) j.src 0x8000).trl.job = none := rfl
  rw [imageStored_accepted hs hr hj hk hcls h0 hv]
  generalize (s.withJob none).copyMem (s.slotBase j.slot) j.src 0x8000 = u at *
  have hresult := imgResult_result (u.markSlot j.slot true) j.slot (r := 2) (by decide)
  have hmark := markSlot_mark u j.slot true
  rw [← imgResult_mark _ j.slot 2] at hmark
  have hmem : ((u.markSlot j.slot true).imgResult j.slot 2).mem = u.mem := by
    rw [State.imgResult, setWord_mem, markSlot_mem]
  have htrl : ((u.markSlot j.slot true).imgResult j.slot 2).trl = u.trl := by
    unfold State.markSlot State.imgResult
    rw [setWord_trl, setWord_trl]
  generalize (u.markSlot j.slot true).imgResult j.slot 2 = v at *
  have hend := secEnd_touches v
  have htrl' : v.secEnd.trl = v.trl := hend .trl (by decide)
  have hmem' : v.secEnd.mem = u.mem := (hend .mem (by decide)).trans hmem
  refine ⟨by rw [htrl', htrl, hjob], (secEnd_idle v).1, (secEnd_idle v).2,
    (rd_of_word (secEnd_trl v (by decide))).trans hresult, ?_, fun i hi => (byte_congr hmem' _).trans (hcopy i hi),
    honly.followedBy hmem'⟩
  rw [secEnd_trl v (markOff_lt _)]
  exact hmark

/-- Settles O21, by the forms of the three commands. -/
theorem imageSlots : Obligations.ImageSlots := by
  refine ⟨fun s k hj hn hs => ⟨_, rfl, imageStore_accepted_effect k.isLt hj hn hs⟩,
    fun s k hj hn hc => ⟨⟨_, rfl, ?_⟩, ⟨_, rfl, ?_⟩⟩,
    fun s k _ hj hn => ⟨_, rfl, imgErase_accepted_effect k.isLt hj hn⟩,
    fun s facts j hj hs hslot hc => ⟨_, rfl, imageStored_without_engine hs hj hslot hc⟩,
    fun s facts j hj r hr _ hs _ hk hcls h0 hv => ⟨_, rfl, imageStored_accepted_effect hs hr hj hk hcls h0 hv⟩,
    fun s facts j hj r hr hs hslot hk hcls hc hbad => ⟨_, rfl, imageStored_rejected hs hr hj hk hcls hslot hc hbad⟩⟩
  · rw [imageStore_of_named hj hn]
    exact imgRefused s (by decide) k.isLt hc
  · rw [imgErase_of_named hj hn]
    exact imgRefused s (by decide) k.isLt hc

end Sys2Proof.Machine
end

section
/-! SUPPORT. What a stage's reaction spares: the register words of every page that is not a stage's, and the reports on their way.
Each operation of the stage logic is followed once. -/

namespace Sys2Proof.Machine

/-- A state that differs from `s₀` in register words with keys of `K` only, and in whose collector no report that was on its way
is lost. -/
structure Spares (K : Nat → Prop) (s₀ s : State) : Prop where
  words : ∀ k, ¬ K k → tabGet regReset s.regs k = tabGet regReset s₀.regs k
  stopped : s.coll.stopped = s₀.coll.stopped
  reports : s₀.coll.inflight ⊆ s.coll.inflight

variable {K K' : Nat → Prop} {s₀ s t : State}

theorem Spares.start : Spares K s s := ⟨fun _ _ => rfl, rfl, List.Subset.refl _⟩

theorem Spares.trans (h : Spares K s₀ s) (g : Spares K s t) : Spares K s₀ t :=
  ⟨fun k hk => (g.words k hk).trans (h.words k hk), g.stopped.trans h.stopped, List.Subset.trans h.reports g.reports⟩

theorem Spares.mono (h : Spares K s₀ s) (hK : ∀ k, K k → K' k) : Spares K' s₀ s :=
  ⟨fun k hk => h.words k fun hk' => hk (hK k hk'), h.stopped, h.reports⟩

/-- A change of parts other than the register file and the collector. -/
theorem Spares.otherParts (h : Spares K s₀ s) (hr : t.regs = s.regs) (hc : t.coll = s.coll) : Spares K s₀ t :=
  ⟨fun k hk => by rw [hr]; exact h.words k hk, by rw [hc]; exact h.stopped, by rw [hc]; exact h.reports⟩

theorem Spares.ite {c : Prop} [Decidable c] (hs : Spares K s₀ s) (ht : Spares K s₀ t) : Spares K s₀ (if c then s else t) := by
  split
  · exact hs
  · exact ht

theorem Spares.when {c : Bool} {f : State → State} (h : Spares K s₀ s) (hf : Spares K s₀ (f s)) :
    Spares K s₀ (s.when c f) :=
  .ite hf h

theorem Spares.each {α : Type} {xs : List α} {f : State → α → State} (h : Spares K s₀ s)
    (hf : ∀ s, ∀ x ∈ xs, Spares K s₀ s → Spares K s₀ (f s x)) : Spares K s₀ (s.each xs f) := by
  unfold State.each
  induction xs generalizing s with
  | nil => exact h
  | cons x xs ih => exact ih (hf s x List.mem_cons_self h) fun s y hy => hf s y (List.mem_cons_of_mem x hy)

theorem Spares.setWord (h : Spares K s₀ s) {p o : Nat} (hk : K (regKey p o)) (w : Word) : Spares K s₀ (s.setWord p o w) := by
  refine ⟨fun k hk' => ?_, by rw [setWord_coll]; exact h.stopped, by rw [setWord_coll]; exact h.reports⟩
  have hne : k ≠ regKey p o := fun he => hk' (by rw [he]; exact hk)
  rw [setWord_regs, tabGet_put_ne _ _ _ _ _ hne]
  exact h.words k hk'

theorem Spares.wr (h : Spares K s₀ s) {p : Nat} {f : Field} (hk : K (fieldKey p f)) (v : Nat) : Spares K s₀ (s.wr p f v) :=
  h.setWord hk _

theorem Spares.wrB (h : Spares K s₀ s) {p : Nat} {f : Field} (hk : K (fieldKey p f)) (b : Bool) : Spares K s₀ (s.wrB p f b) :=
  h.wr hk _

theorem Spares.reportAs (h : Spares K s₀ s) (r : Report) : Spares K s₀ (s.reportAs r) := by
  refine ⟨fun k hk => by rw [reportAs_regs]; exact h.words k hk, (reportAs_stopped s r).trans h.stopped,
    List.Subset.trans h.reports ?_⟩
  unfold State.reportAs
  split
  · split <;> exact List.Subset.refl _
  · exact List.subset_append_left _ _

theorem Spares.reportDike (h : Spares K s₀ s) (cls : FaultClass) (code page detail : Nat) (inj : Bool) :
    Spares K s₀ (s.reportDike cls code page detail inj) := h.reportAs _

theorem Spares.setSup (h : Spares K s₀ s) (f : Supervisor → Supervisor) : Spares K s₀ (s.setSup f) := h.otherParts rfl rfl

/-- The words that a stage's reaction may change: those of pages from the stages upwards, and the agreement events. -/
def reactionKey (k : Nat) : Prop := 80 ≤ keyPage k ∨ k = fieldKey pgSUP Reg.SUP.AGR_EVT_EVT

theorem reactionKey_stage (st o : Nat) : reactionKey (regKey (pgSG st) o) := by
  left
  show 80 ≤ ((80 + st) * 0x2000000 + o) / 0x2000000
  omega

/-- A word below the stage pages, and not of the supervisor's, is spared by a reaction. -/
theorem Spares.word_below (h : Spares reactionKey s₀ s) {p o : Nat} (hp : p < 80) (hs : p ≠ pgSUP) (ho : o < 0x2000000) :
    s.word p o = s₀.word p o := by
  refine h.words _ fun hk => ?_
  rcases hk with hk | hk
  · unfold keyPage regKey at hk
    omega
  · exact hs ((regKey_inj ho (by decide)).1 hk).1

variable (h : Spares reactionKey s₀ s)
include h

theorem Spares.wrStage (st : Nat) (f : Field) (v : Nat) : Spares reactionKey s₀ (s.wr (pgSG st) f v) :=
  h.wr (reactionKey_stage st _) v

theorem Spares.wrBStage (st : Nat) (f : Field) (b : Bool) : Spares reactionKey s₀ (s.wrB (pgSG st) f b) :=
  h.wrB (reactionKey_stage st _) b

theorem Spares.setStageWord (st o : Nat) (w : Word) : Spares reactionKey s₀ (s.setWord (pgSG st) o w) :=
  h.setWord (reactionKey_stage st o) w

theorem Spares.setIn (st k : Nat) (w : Word) : Spares reactionKey s₀ (s.setIn st k w) :=
  h.setStageWord st _ w

theorem Spares.agrEvent (n : Nat) : Spares reactionKey s₀ (s.agrEvent n) :=
  h.wr (Or.inr rfl) _

theorem Spares.setStage (st : Nat) (x : Stage) : Spares reactionKey s₀ (s.setStage st x) := h.otherParts rfl rfl

theorem Spares.setMode (st m : Nat) (host : Bool) : Spares reactionKey s₀ (s.setMode st m host) := by
  have hm := fun x => (((h.wrStage st Reg.SGT.STAT_MODE m).wrStage st Reg.SGT.STAT_STATE (if m = 0 then 0 else 2)).wrStage st
    (Reg.SGW.IN_VALUE 0) m).setStage st x
  exact .ite (hm _) ((hm _).agrEvent 4)

theorem Spares.rearm (p o : Nat) : Spares reactionKey s₀ (s.rearm p o) := .ite (h.otherParts rfl rfl) h

theorem Spares.driveLeg (p : Nat) (d : LegDrive) : Spares reactionKey s₀ (s.driveLeg p d) := by
  have hc := fun c => h.otherParts (t := s.setChan p c) rfl rfl
  exact .ite (((hc _).rearm p 0).rearm p 1) (hc _)

theorem Spares.showLegs (st : Nat) : Spares reactionKey s₀ (s.showLegs st) :=
  .ite ((h.wrStage st _ _).wrStage st _ _) (h.wrStage st _ _)

theorem Spares.setLegCode (st set code : Nat) : Spares reactionKey s₀ (s.setLegCode st set code) :=
  ((h.setStage st _).each fun _ p _ g => g.driveLeg p _).showLegs st

theorem Spares.setAllLegs (st code : Nat) : Spares reactionKey s₀ (s.setAllLegs st code) :=
  .ite ((h.setLegCode st 0 code).setLegCode st 1 code) (h.setLegCode st 0 code)

theorem Spares.reportTp (cls : FaultClass) (code page detail : Nat) (inj : Bool) :
    Spares reactionKey s₀ (s.reportTp cls code page detail inj) := h.reportAs _

theorem Spares.tracShow (st : Nat) : Spares reactionKey s₀ (s.tracShow st) := (h.setIn st 1 _).setIn st 3 _

theorem Spares.tracEnter (st m legA legB : Nat) (hold react offPend revPend host : Bool) :
    Spares reactionKey s₀ (s.tracEnter st m legA legB hold react offPend revPend host) :=
  (((((((((h.setMode st m host).wrBStage st _ _).wrBStage st _ _).wrBStage st _ _).wrBStage st _ _).setStage st _).setLegCode
    st 0 legA).setLegCode st 1 legB).tracShow st)

theorem Spares.reaction (st : Nat) : Spares reactionKey s₀ (s.reaction st) :=
  ((h.tracEnter st _ _ _ _ _ _ _ _).setStage st _).reportTp _ _ _ _ _

theorem Spares.tracHold (st : Nat) : Spares reactionKey s₀ (s.tracHold st) :=
  (h.setStage st _).tracEnter st _ _ _ _ _ _ _ _

theorem Spares.isolate (st set cause : Nat) : Spares reactionKey s₀ (s.isolate st set cause) := by
  have hi := fun v w => ((h.wrStage st (isoField set) v).wrStage st (isoPhaseField set) w).reportTp .u 0x46 (pgSG st) 0 false
  exact .ite h (.ite ((hi _ _).reaction st)
    (.ite ((Spares.setLegCode (.ite ((hi _ _).setMode st 4 false) (hi _ _)) st set _).tracShow st) ((hi _ _).tracShow st)))

theorem Spares.convShow (st : Nat) : Spares reactionKey s₀ (s.convShow st) := h.setIn st 1 _

theorem Spares.setRef (st : Nat) (w : Word) : Spares reactionKey s₀ (s.setRef st w) := (h.setStageWord st _ w).setIn st 2 w

theorem Spares.setS2 (closed : Bool) : Spares reactionKey s₀ (s.setS2 closed) := (h.wrBStage 2 _ _).convShow 2

theorem Spares.convStop (st : Nat) (host : Bool) : Spares reactionKey s₀ (s.convStop st host) :=
  ((h.setMode st 4 host).setStage st _).convShow st

theorem Spares.releaseOffPend : Spares reactionKey s₀ s.releaseOffPend := .ite ((h.wrBStage 2 _ _).convStop 2 _) h

theorem Spares.convTripOne (st cause : Nat) : Spares reactionKey s₀ (s.convTripOne st cause) := by
  have hm := ((h.wrStage st Reg.SGC.TRIP_CAUSE cause).wrBStage st Reg.SGC.STAT_OFF_PEND false).setMode st 5 false
  have hr := (hm.setAllLegs st (if cause = 9 then 2 else 1)).setRef st 0
  have h2 := (hr.when (c := st = 2) (f := (·.setS2 false)) (hr.setS2 false)).convShow st
  have hs := h2.reportTp .u (tripFault cause) (pgSG st) 0 false
  exact hs.when (f := State.releaseOffPend) hs.releaseOffPend

theorem Spares.convTrip (st cause : Nat) : Spares reactionKey s₀ (s.convTrip st cause) :=
  .ite (.ite ((h.convTripOne st cause).convTripOne 3 8) (h.convTripOne st cause)) h

theorem Spares.actShow (st : Nat) : Spares reactionKey s₀ (s.actShow st) :=
  ((h.setIn st 1 _).setIn st 4 _).setIn st 5 _

theorem Spares.actEnter (st m : Nat) (host : Bool) : Spares reactionKey s₀ (s.actEnter st m host) := by
  have hp := (((h.setMode st m host).setAllLegs st (actLegCode m)).wrBStage st Reg.SGA.STAT_REV_PEND (m == 3)).wrBStage st
    Reg.SGA.STAT_HOLD_PEND false
  exact Spares.actShow (.ite ((hp.setStageWord st _ _).setIn st 2 _) hp) st

theorem Spares.actTrip (st cause : Nat) : Spares reactionKey s₀ (s.actTrip st cause) :=
  .ite h (((h.wrStage st _ _).actEnter st 5 _).reportTp _ _ _ _ _)

theorem Spares.switchToPins (st : Nat) : Spares reactionKey s₀ (s.switchToPins st) := .ite (h.actEnter st 7 _) h

theorem Spares.pinSourceSwitch : Spares reactionKey s₀ s.pinSourceSwitch := h.each fun _ _ _ g => g.switchToPins _

/-- The reaction to a protection spares what it should (R184, R262). -/
theorem Spares.protectionReaction (p : Nat) : Spares reactionKey s₀ (s.protectionReaction p) :=
  .ite (h.isolate _ _ _) (.ite (h.convTrip _ _) (h.actTrip _ _))

end Sys2Proof.Machine
end

section
/-! SUPPORT. What opening STO does and spares (R324, R325). -/

namespace Sys2Proof.Machine

variable {s₀ s : State}

/-- The words that the stages' reactions to STO may change: a reaction's, and the results of safe stops. -/
def stoReactionKey (k : Nat) : Prop := reactionKey k ∨ k = regKey pgSAF 0x124

/-- The words that an opening of STO may change: a reaction's, and those of the SAF page. -/
def openKey (k : Nat) : Prop := reactionKey k ∨ keyPage k = pgSAF

theorem Spares.stoReaction (h : Spares stoReactionKey s₀ s) (st : Nat) : Spares stoReactionKey s₀ (s.stoReaction st) := by
  have hres : Spares stoReactionKey s (if s.decel st then s.wr pgSAF (ssResultField st) 6 else s) := by
    refine .ite (Spares.start.wr (Or.inr ?_) _) .start
    unfold fieldKey ssResultField
    split <;> rfl
  refine h.trans (.ite (.ite .start (.trans hres ?_)) (.ite .start (.ite ?_ ?_)))
  · exact Spares.mono (.ite (Spares.start.setAllLegs st 1) (Spares.start.tracHold st)) fun _ => Or.inl
  · exact Spares.mono (Spares.start.convTrip st 1) fun _ => Or.inl
  · exact Spares.mono (Spares.start.actTrip st 1) fun _ => Or.inl

/-- The state once STO has been commanded open, before the stages react (R324, R325). -/
def State.openedSto (s : State) (cause : Nat) : State :=
  let s := ((s.stoPaths true true true true).wrB pgSAF Reg.SAF.STO_STAT_OPEN true).wr pgSAF Reg.SAF.STO_STAT_CAUSE cause
  let s := s.wrStamp pgSAF Reg.SAF.STO_AT_L_STAMP Reg.SAF.STO_AT_H_STAMP s.now
  { s with sto := { s.sto with closing := none, changedAt := s.now, badReads := 0 } }.reportDike .u 0x89 pgSAF cause

theorem openSto_of_not_open (h : s.stoFullyOpen = false) (cause : Nat) : s.openSto cause =
    ((if s.sto.test.isSome then (s.openedSto cause).endTest.reportDike .c 0x8F pgSAF else s.openedSto cause).each allStages
      State.stoReaction).each allStages State.showLegs := by
  unfold State.openSto State.openedSto
  rw [if_neg (by simp [h])]

/-- Beside the bit itself, no write to the SAF page changes whether STO is open. -/
theorem stoOpen_wr {f : Field} (v : Nat) (hw : f.lo + f.width ≤ 32) (hf : f.off ≠ 0x100 ∨ f.lo + f.width ≤ 6 ∨ 7 ≤ f.lo) :
    (s.wr pgSAF f v).stoOpen = s.stoOpen := by
  unfold State.stoOpen State.rdB
  by_cases ho : f.off = 0x100
  · rw [rd_wr_field pgSAF f Reg.SAF.STO_STAT_OPEN v hw ho.symm (or_comm.1 (hf.resolve_left (not_not_intro ho)))]
  · rw [rd_wr_off pgSAF f Reg.SAF.STO_STAT_OPEN v (Ne.symm ho)]

theorem stoOpen_congr {t : State} (h : t.regs = s.regs) : t.stoOpen = s.stoOpen := rdB_congr h _ _

theorem stoOpen_openedSto (s : State) (cause : Nat) : (s.openedSto cause).stoOpen = true := by
  unfold State.openedSto
  extract_lets u v
  have hu : u.stoOpen = true :=
    (stoOpen_wr _ (by decide) (by decide)).trans (rdB_wrB_self _ _ _ (by decide) rfl)
  have hv : v.stoOpen = true :=
    ((stoOpen_wr _ (by decide) (by decide)).trans (stoOpen_wr _ (by decide) (by decide))).trans hu
  clear_value v
  exact (stoOpen_congr (reportDike_regs _ _ _ _ _ _)).trans hv

theorem stoOpen_endTest (s : State) : s.endTest.stoOpen = s.stoOpen := by
  unfold State.endTest
  extract_lets u
  have hu : u.stoOpen = s.stoOpen :=
    (stoOpen_wr _ (by decide) (by decide)).trans (stoOpen_wr (f := Reg.SAF.STO_STAT_TEST_ACT) _ (by decide) (by decide))
  clear_value u
  exact hu

theorem Spares.stoOpen (h : Spares stoReactionKey s₀ s) : s.stoOpen = s₀.stoOpen := by
  have hw : s.word pgSAF 0x100 = s₀.word pgSAF 0x100 := h.words _ (by
    unfold stoReactionKey reactionKey
    decide)
  unfold State.stoOpen State.rdB
  rw [rd_of_word hw]

/-- The reactions of all stages to an opening. -/
theorem Spares.stageReactions (s : State) :
    Spares stoReactionKey s ((s.each allStages State.stoReaction).each allStages State.showLegs) :=
  Spares.trans (Spares.start.each fun _ st _ g => g.stoReaction st)
    (Spares.mono (Spares.start.each fun _ st _ g => g.showLegs st) fun _ => Or.inl)

/-- Whatever the cause, STO is open once it has been opened (R324). -/
theorem openSto_opens (s : State) (cause : Nat) : (s.openSto cause).stoOpen = true := by
  cases h : s.stoFullyOpen with
  | false =>
    rw [openSto_of_not_open h, (Spares.stageReactions _).stoOpen]
    split
    · rw [stoOpen_congr (reportDike_regs _ _ _ _ _ _), stoOpen_endTest, stoOpen_openedSto]
    · exact stoOpen_openedSto s cause
  | true =>
    have ho : s.stoOpen = true := by
      unfold State.stoFullyOpen at h
      simp only [Bool.and_eq_true] at h
      exact h.1.1
    unfold State.openSto
    rw [if_pos h]
    dsimp only
    split
    · rw [stoOpen_wr _ (by decide) (by decide), ho]
    · exact ho

theorem openKey_saf (o : Nat) (ho : o < 0x2000000) : openKey (regKey pgSAF o) := by
  right
  unfold keyPage regKey
  omega

theorem Spares.openedSto (s : State) (cause : Nat) : Spares openKey s (s.openedSto cause) := by
  have hp : Spares openKey s (s.stoPaths true true true true) :=
    (((Spares.start.wrB (openKey_saf _ (by decide)) _).wrB (openKey_saf _ (by decide)) _).wrB (openKey_saf _ (by decide)) _).wrB
      (openKey_saf _ (by decide)) _
  have hc := (hp.wrB (f := Reg.SAF.STO_STAT_OPEN) (openKey_saf _ (by decide)) true).wr (f := Reg.SAF.STO_STAT_CAUSE)
    (openKey_saf _ (by decide)) cause
  unfold State.openedSto
  extract_lets u v
  have hv : Spares openKey s v := (hc.wr (openKey_saf _ (by decide)) _).wr (openKey_saf _ (by decide)) _
  clear_value v
  refine Spares.reportDike ?_ _ _ _ _ _
  exact hv.otherParts rfl rfl

theorem Spares.endTest {K : Nat → Prop} (h : Spares K s₀ s) (hK : K (fieldKey pgSAF Reg.SAF.STO_STAT_TEST_ACT)) :
    Spares K s₀ s.endTest :=
  Spares.otherParts ((h.wrB hK _).wr (f := Reg.SAF.STO_STAT_TEST_SW) hK _) rfl rfl

/-- An opening of STO spares every page but the stages', the SAF page and the agreement events. -/
theorem Spares.openSto (s : State) (cause : Nat) : Spares openKey s (s.openSto cause) := by
  cases h : s.stoFullyOpen with
  | false =>
    rw [openSto_of_not_open h]
    refine Spares.trans ?_ (Spares.mono (Spares.stageReactions _) ?_)
    · exact .ite (Spares.reportAs ((Spares.openedSto s cause).endTest (openKey_saf _ (by decide))) _) (Spares.openedSto s cause)
    · rintro k (hk | rfl)
      · exact Or.inl hk
      · exact openKey_saf _ (by decide)
  | true =>
    unfold State.openSto
    rw [if_pos h]
    exact Spares.ite (Spares.start.wr (f := Reg.SAF.STO_STAT_CAUSE) (openKey_saf 0x100 (by decide)) cause) .start

/-- A supervisor that goes out, or whose recovery fails, loses no report on its way. -/
theorem Spares.goOut {K : Nat → Prop} (h : Spares K s₀ s) : Spares (fun _ => True) s₀ s.goOut := by
  have hw : Spares (fun _ => True) s₀ (s.wr pgSUP Reg.SUP.STAT_MODE 3) := (h.mono fun _ _ => trivial).wr trivial _
  exact ((hw.setSup _).trans ((Spares.openSto _ 4).mono fun _ _ => trivial)).trans
    (Spares.start.pinSourceSwitch.mono fun _ _ => trivial)

theorem Spares.recoveryFailed {K : Nat → Prop} (h : Spares K s₀ s) : Spares (fun _ => True) s₀ s.recoveryFailed := by
  have h' : Spares (fun _ => True) s₀ s := h.mono fun _ _ => trivial
  exact .ite h' (Spares.goOut (((h'.setSup _).wrB (f := Reg.SUP.STAT_RECOVERY) trivial false).reportAs _))

theorem Spares.reported {K : Nat → Prop} {cls : FaultClass} {code page : Nat} (h : Spares K s₀ s)
    (hr : Reported s₀ cls code page) : Reported s cls code page := by
  obtain ⟨r, hm, hr⟩ := hr
  exact ⟨r, h.reports hm, hr⟩

end Sys2Proof.Machine
end

section
/-! PROOF. Drains, self-tests, stall closures and requests that meet a closed sluice (O8). -/

namespace Sys2Proof.Machine

variable {s : State} {p : Nat} {x : Polder} {rest : List Nat}

theorem reported_reportDike (s : State) (cls : FaultClass) (code page detail : Nat) (inj : Bool) (h : s.coll.stopped = false) :
    Reported (s.reportDike cls code page detail inj) cls code page :=
  reported_reportAs s _ h

/-- A change of polder `p` in a state that differs in its queue of requests: what became of the polder in `s`. -/
theorem polderBecomes_unqueued (s : State) (rest : List Nat) (p : Nat) (x : Polder) :
    PolderBecomes s (({ s with drainQ := rest } : State).setPolder p x) p x :=
  (polderBecomes_setPolder _ p x).after rfl

theorem drainStarts_touches (s : State) (p : Nat) : Touches [.regs, .pushes, .sup, .trl] s (s.drainStarts p) :=
  (Kept.start.drainStarts (List.Subset.refl _) p).same

/-- The oldest request, once it is evaluated: a loop engine's waits for Trellis alone (R33, R34). -/
theorem drainEvaluate_of_cons (hq : s.drainQ = p :: rest) (hr : 16 ≤ p ∨ s.supRuns = true) : s.drainEvaluate =
    if (s.polder p).st ≠ .ready ∧ (s.polder p).st ≠ .running then
      ({ s with drainQ := rest } : State).setPolder p { s.polder p with drain := false, test := false }
    else if s.mayDrain p then
      (({ s with drainQ := rest } : State).setPolder p { s.polder p with st := .draining, drainAt := s.now }).drainStarts p
    else (({ s with drainQ := rest } : State).setPolder p { s.polder p with drain := false, test := false }).reportPolder
      .c 0x06 p := by
  have hw : ¬ (p < 0x10 ∧ ¬ s.supRuns = true) := fun hc => hr.elim (Nat.not_le.2 hc.1) hc.2
  unfold State.drainEvaluate
  rw [hq]
  dsimp only
  rw [if_neg hw]
  rfl

theorem not_out_of_service (h : x.st = .ready ∨ x.st = .running) : ¬ (x.st ≠ .ready ∧ x.st ≠ .running) := fun hc =>
  h.elim hc.1 hc.2

theorem drainEvaluation_accepts (hq : s.drainQ = p :: rest) (hr : 16 ≤ p ∨ s.supRuns = true) (hd : s.mayDrain p = true)
    (hst : (s.polder p).st = .ready ∨ (s.polder p).st = .running) : s.drainEvaluate.drainQ = rest ∧
      PolderBecomes s s.drainEvaluate p { s.polder p with st := .draining, drainAt := s.now } := by
  rw [drainEvaluate_of_cons hq hr, if_neg (not_out_of_service hst), if_pos hd]
  exact ⟨(drainStarts_touches _ p .drainQ (by decide)).trans (setPolder_drainQ _ _ _),
    (polderBecomes_unqueued s rest p _).followedBy (drainStarts_touches _ p .polders (by decide))⟩

theorem drainEvaluation_refuses (hq : s.drainQ = p :: rest) (hr : 16 ≤ p ∨ s.supRuns = true) (hd : s.mayDrain p = false)
    (hst : (s.polder p).st = .ready ∨ (s.polder p).st = .running) (hc : s.coll.stopped = false) :
    s.drainEvaluate.drainQ = rest ∧ Reported s.drainEvaluate .c 0x06 (polderPage p) ∧
      PolderBecomes s s.drainEvaluate p { s.polder p with drain := false, test := false } := by
  rw [drainEvaluate_of_cons hq hr, if_neg (not_out_of_service hst), if_neg (by simp [hd])]
  exact ⟨(reportFab_drainQ _ _ _ _ _ _).trans (setPolder_drainQ _ _ _),
    reported_reportFab _ _ _ _ _ _ (by rw [setPolder_coll]; exact hc),
    (polderBecomes_unqueued s rest p _).followedBy (reportFab_polders _ _ _ _ _ _)⟩

theorem drainEvaluation_drops (hq : s.drainQ = p :: rest) (hr : 16 ≤ p ∨ s.supRuns = true)
    (h₁ : (s.polder p).st ≠ .ready) (h₂ : (s.polder p).st ≠ .running) :
    s.drainEvaluate.drainQ = rest ∧ s.drainEvaluate.coll = s.coll ∧
      PolderBecomes s s.drainEvaluate p { s.polder p with drain := false, test := false } := by
  rw [drainEvaluate_of_cons hq hr, if_pos ⟨h₁, h₂⟩]
  exact ⟨setPolder_drainQ _ _ _, setPolder_coll _ _ _, polderBecomes_unqueued s rest p _⟩

theorem drained_becomes_drained (hx : (s.polder p).test = false) :
    PolderBecomes s (s.drained p) p { s.polder p with st := .drained, closed := true, busy := false } := by
  unfold State.drained
  rw [if_neg (by simp [hx])]
  exact polderBecomes_setPolder _ _ _

/-- A test written with the drain starts at its end (R37). -/
theorem drained_becomes_testing (hx : (s.polder p).test = true) : PolderBecomes s (s.drained p) p
    { s.polder p with st := .testing, closed := true, busy := false, testAfter := false } := by
  have hd : s.drained p = (s.setPolder p { s.polder p with st := .drained, closed := true, busy := false }).startTest p := by
    unfold State.drained
    rw [if_pos hx]
  have hb := (polderBecomes_setPolder s p _).trans (startTest_becomes (polder_setPolder_self s p
    { s.polder p with st := .drained, closed := true, busy := false }))
  rw [hd]
  generalize s.polder p = y at hb hx ⊢
  cases y
  cases hx
  exact hb

theorem drainComplete_becomes (hst : (s.polder p).st = .draining) (hd : s.drainDone p = true)
    (h : PolderBecomes s (s.drained p) p x) : PolderBecomes s (s.drainComplete p) p x := by
  unfold State.drainComplete
  rw [if_pos ⟨hst, hd⟩]
  exact h.followedBy ((Kept.start.controllerStops (List.Subset.refl _) p).same .polders (by decide))

/-- A drain past its limit is abandoned as a cleared request is (R35). -/
theorem drainTimeout_abandons (hst : (s.polder p).st = .draining)
    (ht : s.passed (s.polder p).drainAt (320000 * clampNat 1 1000 (s.rd pgSYS Reg.SYS.DRAIN_TMO_MS)) = true)
    (hc : s.coll.stopped = false) : Reported (s.drainTimeout p) .c 0x03 (polderPage p) ∧
      PolderBecomes s (s.drainTimeout p) p { s.polder p with
        st := if (s.polder p).busy then .running else .ready, drain := false, test := false } := by
  obtain ⟨hr, hb⟩ := abandonDrain_becomes hst hc
  have hk := polderFollows_touches (s.abandonDrain p) p .draining
  unfold State.drainTimeout
  rw [if_pos ⟨hst, by unfold msTicks; rw [Nat.mul_comm]; exact ht⟩]
  exact ⟨hr.followedBy (hk .coll (by decide)), hb.followedBy (hk .polders (by decide))⟩

/-- A polder that is not off fails with its sluices closed, and withholds as it did (R25, R32). -/
theorem failPolder_effect (hst : (s.polder p).st ≠ .off) : ((s.failPolder p).polder p).st = .failed ∧
    ((s.failPolder p).polder p).closed = true ∧ ((s.failPolder p).polder p).busy = false ∧
    ((s.failPolder p).polder p).withheld = (s.polder p).withheld ∧ ∀ q, q ≠ p → (s.failPolder p).polder q = s.polder q := by
  unfold State.failPolder
  rw [if_neg hst]
  dsimp only
  rw [polder_setPolder_self]
  exact ⟨rfl, rfl, rfl, rfl, fun q hq => (polder_setPolder_ne _ _ hq).trans (polder_congr rfl q)⟩

theorem failPolder_coll (s : State) (p : Nat) : (s.failPolder p).coll = s.coll := by
  unfold State.failPolder
  dsimp only
  split
  · rfl
  · exact setPolder_coll _ _ _

/-- A failed test: its fault is on its way, and the polder is as its failure leaves it, whatever a recovery or the supervisor
makes of it (R32, R310). -/
theorem testFails_effect (hst : (s.polder p).st ≠ .off) (hc : s.coll.stopped = false) :
    Reported (s.testFails p) .u 0x04 (polderPage p) ∧ ((s.testFails p).polder p).st = .failed ∧
      ((s.testFails p).polder p).closed = true ∧ ((s.testFails p).polder p).withheld = (s.polder p).withheld := by
  obtain ⟨hf, hcl, -, hw, -⟩ := failPolder_effect hst
  have hr : Reported ((s.failPolder p).reportPolder .u 0x04 p) .u 0x04 (polderPage p) :=
    reported_reportFab _ _ _ _ _ _ (by rw [failPolder_coll]; exact hc)
  have hp : ((s.failPolder p).reportPolder .u 0x04 p).polder p = (s.failPolder p).polder p :=
    polder_congr (reportFab_polders _ _ _ _ _ _) p
  rw [← hp] at hf hcl hw
  unfold State.testFails
  generalize (s.failPolder p).reportPolder .u 0x04 p = t at hr hf hcl hw ⊢
  have hsame : ∀ u, Spares (fun _ => True) t u → u.polders = t.polders → Reported u .u 0x04 (polderPage p) ∧
      (u.polder p).st = .failed ∧ (u.polder p).closed = true ∧ (u.polder p).withheld = (s.polder p).withheld := by
    intro u hu hpu
    rw [polder_congr hpu]
    exact ⟨hu.reported hr, hf, hcl, hw⟩
  dsimp only
  split
  · split
    · exact hsame _ (Spares.start (K := fun _ => True)).recoveryFailed
        ((Kept.start.recoveryFailed (List.Subset.refl _)).same .polders (by decide))
    · split
      · exact hsame _ .start rfl
      · exact hsame _ (Spares.start.wrB trivial _) (wrB_polders _ _ _ _)
  · exact hsame _ .start rfl

theorem refilled_touches (s : State) (p : Nat) : Touches [.regs, .pushes, .sup, .trl, .pilot] s (s.refilled p) :=
  (Kept.start.refilled (List.Subset.refl _) p).same

theorem testPasses_polder (s : State) (p : Nat) : ((s.testPasses p).polder p).st = .ready ∧
    ((s.testPasses p).polder p).closed = false ∧ ((s.testPasses p).polder p).drain = false ∧
    ((s.testPasses p).polder p).test = false := by
  unfold State.testPasses
  rw [polder_congr (refilled_touches _ p .polders (by decide))]
  unfold State.refill
  rw [polder_setPolder_self]
  exact ⟨rfl, rfl, rfl, rfl⟩

theorem testPasses_zeroed (s : State) (hp : p < 16) {a : Nat} (h : leBase p ≤ a) (h' : a < leBase p + 0x20000) :
    (s.testPasses p).byte a = 0 := by
  have hm : (s.testPasses p).mem = (s.zeroMem (leBase p) 0x20000).mem := by
    unfold State.testPasses
    dsimp only
    rw [if_pos hp, refilled_touches _ p .mem (by decide)]
    exact setPolder_mem _ _ _
  exact (byte_congr hm a).trans (byte_zeroMem_inside s h h')

theorem selfTest_fails (hst : (s.polder p).st = .testing) (hc : s.coll.stopped = false) :
    Reported (s.testComplete p false) .u 0x04 (polderPage p) ∧ ((s.testComplete p false).polder p).st = .failed ∧
      ((s.testComplete p false).polder p).closed = true := by
  have ht : s.testComplete p false = s.testFails p := by
    unfold State.testComplete State.polderSt
    rw [if_neg (not_not_intro hst), if_neg (by simp)]
  obtain ⟨hr, hf, hcl, -⟩ := testFails_effect (p := p) (by simp [hst]) hc
  rw [ht]
  exact ⟨hr, hf, hcl⟩

theorem testWithholds_effect (hst : (s.polder p).st = .testing) (hc : s.coll.stopped = false) :
    Reported (s.testWithholds p) .u 0x04 (polderPage p) ∧ ((s.testWithholds p).polder p).st = .failed ∧
      ((s.testWithholds p).polder p).closed = true ∧ ((s.testWithholds p).polder p).withheld = true := by
  have ht : s.testWithholds p = (s.setPolder p { s.polder p with withheld := true }).testFails p := by
    unfold State.testWithholds State.polderSt
    rw [if_pos hst]
  have hp := polder_setPolder_self s p { s.polder p with withheld := true }
  obtain ⟨hr, hf, hcl, hw⟩ := testFails_effect (s := s.setPolder p { s.polder p with withheld := true }) (p := p)
    (by rw [hp]; simp [hst]) (by rw [setPolder_coll]; exact hc)
  rw [ht]
  exact ⟨hr, hf, hcl, by rw [hw, hp]⟩

/-- A lost engine loses its runs, and the event waits for Trellis (R31, R73). -/
theorem polderLost_engine (s : State) (hp : p < 16) : Touches [.engines, .trl] s (s.polderLost p) := by
  unfold State.polderLost
  rw [if_pos hp]
  exact ((Kept.start.clearEngine (by decide) p).queueEvent (by decide) _).same

theorem stallIsF_engine (s : State) (hp : p < 16) : s.stallIsF p = false := by
  have hx : p ≠ pdExchange := by
    unfold pdExchange
    omega
  unfold State.stallIsF
  simp [hx, Nat.not_le.2 hp]

/-- The polder of the last stall, with its valid bit (R30). -/
def State.latchStall (s : State) (p : Nat) : State :=
  (s.wr pgDIKE Reg.DIKE.STALL_LAST_POLDER p).wrB pgDIKE Reg.DIKE.STALL_LAST_VALID true

theorem latchStall_words (s : State) (hp : p < 256) : (s.latchStall p).rd pgDIKE Reg.DIKE.STALL_LAST_POLDER = p ∧
    (s.latchStall p).rdB pgDIKE Reg.DIKE.STALL_LAST_VALID = true := by
  refine ⟨?_, rdB_wrB_self _ _ _ (by decide) rfl⟩
  unfold State.latchStall State.wrB
  rw [rd_wr_field _ Reg.DIKE.STALL_LAST_VALID Reg.DIKE.STALL_LAST_POLDER _ (by decide) rfl (by decide),
    rd_wr_self _ _ _ (by decide)]
  exact Nat.mod_eq_of_lt hp

/-- A stall of a loop engine: reported, failed and withholding, latched, and its runs lost (R28, R30, R31). -/
theorem stallOne_engine (s : State) (hp : p < 16) :
    ∃ t, t = (s.reportDike .u 0x01 (pgLE p) p (s.polder p).injected).failPolder p ∧
      s.stallOne p = ((t.setPolder p { t.polder p with withheld := true, injected := false }).latchStall p).polderLost p := by
  have hpg : polderPage p = pgLE p := if_pos hp
  unfold State.stallOne
  simp only [stallIsF_engine s hp, hpg]
  exact ⟨_, rfl, rfl⟩

theorem stallOne_effect (hp : p < 16) (hst : (s.polder p).st ≠ .off) (hc : s.coll.stopped = false) :
    Reported (s.stallOne p) .u 0x01 (pgLE p) ∧ ((s.stallOne p).polder p).st = .failed ∧
      ((s.stallOne p).polder p).closed = true ∧ ((s.stallOne p).polder p).withheld = true ∧
      ((s.stallOne p).polder p).busy = false ∧ (s.stallOne p).rd pgDIKE Reg.DIKE.STALL_LAST_POLDER = p ∧
      (s.stallOne p).rdB pgDIKE Reg.DIKE.STALL_LAST_VALID = true ∧ ∀ q, q ≠ p → (s.stallOne p).polder q = s.polder q := by
  obtain ⟨t, ht, he⟩ := stallOne_engine s hp
  have hpol (q : Nat) : (s.reportDike .u 0x01 (pgLE p) p (s.polder p).injected).polder q = s.polder q :=
    polder_congr (reportDike_polders _ _ _ _ _ _) q
  obtain ⟨hf, hcl, hb, -, hne⟩ := failPolder_effect (s := s.reportDike .u 0x01 (pgLE p) p (s.polder p).injected) (p := p)
    (by rw [hpol p]; exact hst)
  have hr : Reported t .u 0x01 (pgLE p) := by
    rw [ht]
    exact Reported.followedBy (reported_reportDike s .u 0x01 (pgLE p) p (s.polder p).injected hc) (failPolder_coll _ _)
  rw [← ht] at hf hcl hb hne
  have hx : PolderBecomes t (s.stallOne p) p { t.polder p with withheld := true, injected := false } := by
    rw [he]
    exact ((polderBecomes_setPolder t p _).followedBy ((wrB_polders _ _ _ _).trans (wr_polders _ _ _ _))).followedBy
      (polderLost_engine _ hp .polders (by decide))
  have hcoll : (s.stallOne p).coll = t.coll := by
    rw [he, polderLost_engine _ hp .coll (by decide)]
    exact ((wrB_coll _ _ _ _).trans (wr_coll _ _ _ _)).trans (setPolder_coll _ _ _)
  have hrd : (s.stallOne p).rd pgDIKE Reg.DIKE.STALL_LAST_POLDER = p ∧
      (s.stallOne p).rdB pgDIKE Reg.DIKE.STALL_LAST_VALID = true := by
    have hregs := fun u => polderLost_engine u hp .regs (by decide)
    rw [he, rd_congr (hregs _), rdB_congr (hregs _)]
    exact latchStall_words _ (by omega)
  rw [hx.1]
  exact ⟨hr.followedBy hcoll, hf, hcl, rfl, hb, hrd.1, hrd.2, fun q hq => ((hx.2 q hq).trans (hne q hq)).trans (hpol q)⟩

/-- The one polder of a list that can be found stalled. -/
theorem stalled_of_singleton (hp : p < 16) (h : s.canStall p = true) :
    ((List.range 0x3C).filter fun q => [p].contains q && s.canStall q) = [p] := by
  have he : ∀ q ∈ List.range 0x3C, ([p].contains q && s.canStall q) = (q == p) := by
    intro q _
    by_cases hq : q = p
    · simp [hq, h]
    · simp [hq]
  have hm : p ∈ List.range 0x3C := List.mem_range.2 (by omega)
  rw [List.filter_congr he, List.filter_beq, List.count_eq_one_of_mem List.nodup_range hm]
  rfl

/-- Where no drain is in progress there is none to evaluate again. -/
theorem recheckDrains_of_none (h : ∀ q, (s.polder q).st ≠ .draining) : s.recheckDrains = s := by
  have he : ((List.range 0x3C).filter fun q => decide (s.polderSt q = .draining)) = [] :=
    List.filter_eq_nil_iff.2 fun q _ hq => h q (of_decide_eq_true hq)
  unfold State.recheckDrains
  rw [he]
  rfl

theorem stallClosure_of_engine (hp : p < 16) (hs : s.canStall p = true) (hst : (s.polder p).st ≠ .off)
    (hd : ∀ q, q ≠ p → (s.polder q).st ≠ .draining) (hc : s.coll.stopped = false) : s.stallClosure [p] = s.stallOne p := by
  obtain ⟨-, hf, -, -, -, -, -, hne⟩ := stallOne_effect hp hst hc
  unfold State.stallClosure
  rw [stalled_of_singleton hp hs]
  refine recheckDrains_of_none fun q => ?_
  by_cases hq : q = p
  · subst hq
    exact fun h => PolderState.noConfusion (hf.symm.trans h)
  · show ((s.stallOne p).polder q).st ≠ _
    rw [hne q hq]
    exact hd q hq

theorem abandonMove_of_moving {l : Nat} (h : (s.loop l).move.isSome = true) :
    s.abandonMove l = s.setLoop l { s.loop l with move := none, state := .running } := by
  unfold State.abandonMove
  rw [if_pos h]

/-- A state copy that meets a closed sluice is abandoned, and its loop goes on where it is (R26, R139). -/
theorem closedSluice_of_copy {requester target l : Nat} (ht : s.sluicesClosed target = true)
    (hr : polderExists requester = true) (hc : s.coll.stopped = false) (hm : (s.loop l).move.isSome = true) :
    Reported (s.closedSluice requester target (some l)) .u 0x05 (polderPage requester) ∧
      ((s.closedSluice requester target (some l)).loop l).move = none ∧
      ((s.closedSluice requester target (some l)).loop l).state = .running ∧
      Touches [.coll, .loops] s (s.closedSluice requester target (some l)) := by
  have hl := loop_congr (reportFab_loops s .u 0x05 (polderPage requester) requester false) l
  have he : s.closedSluice requester target (some l) = (s.reportPolder .u 0x05 requester).setLoop l
      { (s.reportPolder .u 0x05 requester).loop l with move := none, state := .running } := by
    unfold State.closedSluice
    exact (if_neg (by simp [ht, hr])).trans (abandonMove_of_moving ((congrArg (·.move.isSome) hl).trans hm))
  rw [he, loop_setLoop_self]
  exact ⟨Reported.followedBy (reported_reportFab s _ _ _ _ _ hc) rfl, rfl, rfl,
    ((Kept.start.reportPolder (by decide) .u 0x05 requester).setLoop (by decide) l _).same⟩

theorem closedSluice_of_none {requester target : Nat} (ht : s.sluicesClosed target = true)
    (hr : polderExists requester = true) (h : 16 ≤ requester) :
    s.closedSluice requester target none = s.reportPolder .u 0x05 requester := by
  unfold State.closedSluice
  exact (if_neg (by simp [ht, hr])).trans (if_neg (Nat.not_lt.2 h))

theorem closedSluice_of_open {requester target : Nat} (ht : s.sluicesClosed target = false) (copyOf : Option Nat) :
    s.closedSluice requester target copyOf = s :=
  if_pos (Or.inl (by simp [ht]))

theorem testComplete_passes (hst : (s.polder p).st = .testing) (hw : (s.polder p).withheld = false) :
    s.testComplete p true = s.testPasses p := by
  unfold State.testComplete State.polderSt
  rw [if_neg (not_not_intro hst), if_pos (by simp [hw])]

/-- Settles O8: each command changes one polder by one of the steps above, and what follows leaves the polders as they are. -/
theorem polderDrainsTestsAndStalls : Obligations.PolderDrainsTestsAndStalls := by
  refine ⟨fun s p rest hq hr hd hst => ⟨_, rfl, drainEvaluation_accepts hq hr hd hst⟩,
    fun s p rest hq hr hd hst hc => ⟨_, rfl, drainEvaluation_refuses hq hr hd hst hc⟩,
    fun s p rest hq hr h₁ h₂ => ⟨_, rfl, drainEvaluation_drops hq hr h₁ h₂⟩,
    fun s p hst hd hx => ⟨_, rfl, drainComplete_becomes hst hd (drained_becomes_drained hx)⟩,
    fun s p hst hd hx => ⟨_, rfl, drainComplete_becomes hst hd (drained_becomes_testing hx)⟩,
    fun s p hst ht hc => ⟨_, rfl, drainTimeout_abandons hst ht hc⟩,
    fun s p hst hw => ⟨_, rfl, ?_⟩,
    fun s p hst hc => ⟨_, rfl, selfTest_fails hst hc⟩,
    fun s p hst hc => ⟨_, rfl, testWithholds_effect hst hc⟩,
    fun s p hp hs hc hd hst => ⟨_, rfl, ?_⟩,
    fun s requester target ht hr h hc => ⟨_, rfl, ?_⟩,
    fun s requester target l ht hr hc hm => ⟨_, rfl, closedSluice_of_copy ht hr hc hm⟩,
    fun s requester target copyOf ht => congrArg Host.Outcome.next (closedSluice_of_open ht copyOf)⟩
  · obtain ⟨h₁, h₂, h₃, h₄⟩ := testPasses_polder s p
    rw [testComplete_passes hst hw]
    exact ⟨h₁, h₂, h₃, h₄, fun hp a h h' => testPasses_zeroed s hp h h'⟩
  · rw [stallClosure_of_engine hp hs hst hd hc]
    exact stallOne_effect hp hst hc
  · rw [closedSluice_of_none ht hr h]
    exact ⟨reported_reportFab s _ _ _ _ _ hc, (Kept.start.reportPolder (List.Subset.refl _) _ _ _).same⟩

end Sys2Proof.Machine
end

section
/-! PROOF. Fault injection refused, and the kinds that act on no leg (O46). -/

namespace Sys2Proof.Machine

variable {s t u : State} {parts : List Part} {keys : List Nat}

theorem mem_insertNat_self (k : Nat) (xs : List Nat) : k ∈ insertNat k xs := by
  induction xs with
  | nil => exact List.mem_singleton.2 rfl
  | cons x xs ih =>
    unfold insertNat
    split
    · exact List.mem_cons_self
    · split
      · next h => exact h ▸ List.mem_cons_self
      · exact List.mem_cons_of_mem _ ih

/-- What an injection leaves for its kind: RESULT reads `r`, and nothing else has changed (R380). -/
def Answered (s u : State) (r : Nat) : Prop :=
  u.rd pgFLT Reg.FLT.INJ_STAT_RESULT = r ∧ Changes [] [fieldKey pgFLT Reg.FLT.INJ_STAT_RESULT] s u

theorem injResult_answers (s : State) {r : Nat} (hr : r < 8) : Answered s (s.injResult r) r :=
  ⟨(rd_wr_self _ _ _ (by decide)).trans (Nat.mod_eq_of_lt hr), (Kept.start.wr (List.Subset.refl _) _ _ _).same,
    onlyWords_setWord _ _ _ _⟩

theorem Answered.coll {r : Nat} (h : Answered s u r) : u.coll = s.coll := h.2.1 .coll (by decide)

theorem Answered.now {r : Nat} (h : Answered s u r) : u.now = s.now := h.2.1 .now (by decide)

/-- Beside RESULT, every register word is as it was. -/
theorem Answered.word {r p o : Nat} (h : Answered s u r) (hp : p ≠ pgFLT) (ho : o < 0x2000000) : u.word p o = s.word p o :=
  h.2.2 _ fun hk => hp ((regKey_inj ho (by decide)).1 (List.mem_singleton.1 hk)).1

theorem Answered.rd {r p : Nat} {f : Field} (h : Answered s u r) (hp : p ≠ pgFLT) (ho : f.off < 0x2000000) :
    u.rd p f = s.rd p f := rd_of_word (h.word hp ho)

/-- RESULT stays as it was answered where the registers do. -/
theorem Answered.result {r : Nat} (h : Answered s u r) (ht : t.regs = u.regs) : t.rd pgFLT Reg.FLT.INJ_STAT_RESULT = r :=
  (rd_congr ht _ _).trans h.1

theorem Answered.onlyWords {r : Nat} (h : Answered s u r) (ht : t.regs = u.regs) :
    OnlyWords [fieldKey pgFLT Reg.FLT.INJ_STAT_RESULT] s t := h.2.2.followedBy ht

variable {valid : Bool} {act : State → State}

/-- Outside factory test mode every injection is refused with result 2 (R378). -/
theorem injectIf_unarmed (h : s.rdB pgFLT Reg.FLT.INJ_STAT_ARMED = false) (valid : Bool) (act : State → State) :
    Answered s (s.injectIf valid act) 2 := by
  unfold State.injectIf
  rw [if_pos (by simp [h])]
  exact injResult_answers s (by decide)

/-- An injection outside the table is refused with result 3 (R379). -/
theorem injectIf_invalid (h : s.rdB pgFLT Reg.FLT.INJ_STAT_ARMED = true) (hv : valid = false) (act : State → State) :
    Answered s (s.injectIf valid act) 3 := by
  unfold State.injectIf
  rw [if_neg (not_not_intro h), if_neg (by simp [hv])]
  exact injResult_answers s (by decide)

/-- An accepted injection acts on the state that answers with result 1. -/
theorem injectIf_acts (h : s.rdB pgFLT Reg.FLT.INJ_STAT_ARMED = true) (hv : valid = true) (act : State → State) :
    ∃ u, Answered s u 1 ∧ s.injectIf valid act = act u := by
  refine ⟨s.injResult 1, injResult_answers s (by decide), ?_⟩
  unfold State.injectIf
  rw [if_neg (not_not_intro h), if_pos hv]

theorem classOf_of_ne_zero : ∀ cls : Fin 4, cls ≠ 0 → (classOf cls).isSome = true ∧
    (classOf cls).getD .c = if cls = 1 then FaultClass.c else if cls = 2 then .u else .f := by
  decide

/-- The report of kind 0, as the block that holds the page makes it at `now` (R379). -/
def injectedReport (page code cls now : Nat) : Report where
  code := code
  cls := (classOf cls).getD .c
  page := page
  detail := 0
  origin := counterOrigin page
  stamp := if counterOrigin page = .fabric then none else some now
  inj := true

/-- Kind 0: one report more is on its way, marked as injected. -/
theorem injectReport_effect {page code : Fin 256} {cls : Fin 4} (ha : s.rdB pgFLT Reg.FLT.INJ_STAT_ARMED = true)
    (hp : (pageType page).isSome = true) (hd : definedCode code = true) (hk : cls ≠ 0) (hc : s.coll.stopped = false) :
    (s.injectReport page code cls).rd pgFLT Reg.FLT.INJ_STAT_RESULT = 1 ∧
      Changes [.coll] [fieldKey pgFLT Reg.FLT.INJ_STAT_RESULT] s (s.injectReport page code cls) ∧
      (s.injectReport page code cls).coll.inflight.length = s.coll.inflight.length + 1 ∧
      ∃ r, r ∈ (s.injectReport page code cls).coll.inflight ∧ r.code = code.val ∧ r.page = page.val ∧ r.detail = 0 ∧
        r.inj = true ∧ r.cls = (if cls = 1 then FaultClass.c else if cls = 2 then .u else .f) ∧
        (r.stamp = none ∨ r.stamp = some s.now) := by
  have ht := (Kept.start.injectReport (List.Subset.refl _) page code cls (s := s)).same
  obtain ⟨hcls, hget⟩ := classOf_of_ne_zero cls hk
  obtain ⟨u, hu, he⟩ := injectIf_acts (valid := (pageType page).isSome && definedCode code && (classOf cls).isSome) ha
    (by simp [hp, hd, hcls]) fun s => s.reportAs (injectedReport page code cls s.now)
  change s.injectReport page code cls = _ at he
  rw [he] at ht ⊢
  rw [reportAs_inflight _ _ (by rw [hu.coll]; exact hc), hu.coll]
  refine ⟨hu.result (reportAs_regs _ _), ⟨ht, hu.onlyWords (reportAs_regs _ _)⟩, List.length_append,
    _, List.mem_append_right _ (List.mem_singleton.2 rfl), rfl, rfl, rfl, rfl, hget, ?_⟩
  unfold injectedReport
  rw [hu.now]
  dsimp only
  split
  · exact Or.inl rfl
  · exact Or.inr rfl

/-- Corrupting a byte of SRAM marks its unit as failing its check, and nothing but the marks changes. -/
theorem corrupt_sram {a : Nat} (h : sramByte a = true) : s.corrupt [a] = { s with chk := { s.chk with
    bad := insertNat a s.chk.bad, inj := s.chk.inj.filter fun b => checkUnit b != checkUnit a } } := by
  unfold sramByte at h
  show (match regionOf a with | some (.mram _) => s | some _ => _ | none => s) = _
  cases hr : regionOf a with
  | none => simp [hr] at h
  | some r =>
    cases r with
    | mram b => simp [hr] at h
    | _ => rfl

/-- Kind 1: the unit of the byte fails its check, by an injection. -/
theorem injectCheckField_effect {a : Nat} (ha : s.rdB pgFLT Reg.FLT.INJ_STAT_ARMED = true)
    (hw : (s.word pgFLT Reg.FLT.INJ_ADDR_ADDR.off).toNat = a) (hv : sramByte a = true) :
    s.injectCheckField.rd pgFLT Reg.FLT.INJ_STAT_RESULT = 1 ∧ s.injectCheckField.unitBad a = true ∧
      s.injectCheckField.chk.inj.contains a = true ∧
      Changes [.chk] [fieldKey pgFLT Reg.FLT.INJ_STAT_RESULT] s s.injectCheckField := by
  have ht := (Kept.start.injectCheckField (List.Subset.refl _) (s := s)).same
  obtain ⟨u, hu, he⟩ := injectIf_acts ha hv fun s =>
    { s.corrupt [a] with chk := { (s.corrupt [a]).chk with inj := insertNat a (s.corrupt [a]).chk.inj } }
  have hs : s.injectCheckField = { u with chk := { u.chk with
      bad := insertNat a u.chk.bad, inj := insertNat a (u.chk.inj.filter fun b => checkUnit b != checkUnit a) } } := by
    rw [corrupt_sram hv] at he
    rw [← he, ← hw]
    rfl
  rw [hs] at ht ⊢
  refine ⟨hu.result rfl, List.any_eq_true.2 ⟨a, mem_insertNat_self a _, beq_self_eq_true _⟩,
    List.contains_iff_mem.2 (mem_insertNat_self a _), ht, hu.onlyWords rfl⟩

/-- A polder whose state stays gives no agreement event: the registers stay too. -/
theorem setPolder_regs_of_same_st {p : Nat} {x : Polder} (h : (s.polder p).st = x.st) : (s.setPolder p x).regs = s.regs := by
  unfold State.setPolder
  dsimp only
  rw [if_pos h]

/-- Kind 2: the polder withholds its next transition. -/
theorem injectStall_effect {p : Nat} (ha : s.rdB pgFLT Reg.FLT.INJ_STAT_ARMED = true) (hv : polderExists p = true) :
    (s.injectStall p).rd pgFLT Reg.FLT.INJ_STAT_RESULT = 1 ∧
      PolderBecomes s (s.injectStall p) p { s.polder p with withheld := true, injected := true } ∧
      Changes [.polders] [fieldKey pgFLT Reg.FLT.INJ_STAT_RESULT] s (s.injectStall p) := by
  have ht := (Kept.start.injectStall (List.Subset.refl _) p (s := s)).same
  obtain ⟨u, hu, he⟩ := injectIf_acts ha hv fun s => s.setPolder p { s.polder p with withheld := true, injected := true }
  change s.injectStall p = _ at he
  have hp := hu.2.1 .polders (by decide)
  have hr : (u.setPolder p { u.polder p with withheld := true, injected := true }).regs = u.regs :=
    setPolder_regs_of_same_st rfl
  rw [he] at ht ⊢
  refine ⟨hu.result hr, ?_, ht, hu.onlyWords hr⟩
  rw [polder_congr hp p]
  exact (polderBecomes_setPolder u p _).after hp

/-- Kind 3: the next write of the core is inverted. -/
theorem injectCoreWrite_effect {c : Nat} (ha : s.rdB pgFLT Reg.FLT.INJ_STAT_ARMED = true)
    (hv : c < 2 ∨ (c = 2 ∧ s.compat = false)) : (s.injectCoreWrite c).rd pgFLT Reg.FLT.INJ_STAT_RESULT = 1 ∧
      (s.injectCoreWrite c).sup = { s.sup with invert := insertNat c s.sup.invert } ∧
      Changes [.sup] [fieldKey pgFLT Reg.FLT.INJ_STAT_RESULT] s (s.injectCoreWrite c) := by
  have ht := (Kept.start.injectCoreWrite (List.Subset.refl _) c (s := s)).same
  obtain ⟨u, hu, he⟩ := injectIf_acts (valid := c < 2 || (c == 2 && !s.compat)) ha (by simpa using hv) fun s =>
    s.setSup fun u => { u with invert := insertNat c u.invert }
  change s.injectCoreWrite c = _ at he
  have hs : u.sup = s.sup := hu.2.1 .sup (by decide)
  rw [he] at ht ⊢
  refine ⟨hu.result rfl, ?_, ht, hu.onlyWords rfl⟩
  rw [← hs]
  rfl

/-- Kind 6: the Dike discards heartbeats, by an injection. -/
theorem injectHeartbeat_effect (ha : s.rdB pgFLT Reg.FLT.INJ_STAT_ARMED = true) :
    s.injectHeartbeat.rd pgFLT Reg.FLT.INJ_STAT_RESULT = 1 ∧
      s.injectHeartbeat.wd = { s.wd with discard := true, discardInj := true } ∧
      Changes [.wd] [fieldKey pgFLT Reg.FLT.INJ_STAT_RESULT] s s.injectHeartbeat := by
  have ht := (Kept.start.injectHeartbeat (List.Subset.refl _) (s := s)).same
  obtain ⟨u, hu, he⟩ := injectIf_acts ha rfl fun s => { s with wd := { s.wd with discard := true, discardInj := true } }
  change s.injectHeartbeat = _ at he
  have hw : u.wd = s.wd := hu.2.1 .wd (by decide)
  rw [he] at ht ⊢
  refine ⟨hu.result rfl, ?_, ht, hu.onlyWords rfl⟩
  rw [← hw]

theorem rdB_wr_off (p : Nat) (f : Field) {g : Field} (v : Nat) (ho : g.off ≠ f.off) : (s.wr p f v).rdB p g = s.rdB p g := by
  unfold State.rdB
  rw [rd_wr_off p f g v ho]

/-- The stamp of a moment in two words, where neither is the other. -/
theorem rd_wrStamp (s : State) (p : Nat) {fl fh : Field} (n : Nat) (hl : fl.lo = 0 ∧ fl.width = 32)
    (hh : fh.lo = 0 ∧ fh.width = 32) (hne : fl.off ≠ fh.off) :
    (s.wrStamp p fl fh n).rd p fl = n % 2 ^ 32 ∧ (s.wrStamp p fl fh n).rd p fh = n / 2 ^ 32 % 2 ^ 32 := by
  unfold State.wrStamp
  refine ⟨?_, ?_⟩
  · rw [rd_wr_off _ _ _ _ hne, rd_wr_self _ _ _ (by rw [hl.1, hl.2]), hl.2, Nat.mod_mod]
  · rw [rd_wr_self _ _ _ (by rw [hh.1, hh.2]), hh.2]

/-- What a loss of the crystal leaves (R61). -/
theorem crystalLost_effect (s : State) (inj : Bool) :
    (s.crystalLost inj).rd pgTP Reg.TP.XLOSS_AT_L_STAMP = s.now % 2 ^ 32 ∧
      (s.crystalLost inj).rd pgTP Reg.TP.XLOSS_AT_H_STAMP = s.now / 2 ^ 32 % 2 ^ 32 ∧
      (s.crystalLost inj).rdB pgTP Reg.TP.STAT_XTAL_OK = false ∧ (s.crystalLost inj).tp.switching = true ∧
      (s.crystalLost inj).tp.lossAt = s.now ∧ (s.crystalLost inj).tp.lossInjected = inj ∧
      ∀ p f, p ≠ pgTP → f.off < 0x2000000 → (s.crystalLost inj).rd p f = s.rd p f := by
  have hst := rd_wrStamp s pgTP (fl := Reg.TP.XLOSS_AT_L_STAMP) (fh := Reg.TP.XLOSS_AT_H_STAMP) s.now ⟨rfl, rfl⟩ ⟨rfl, rfl⟩
    (by decide)
  unfold State.crystalLost
  extract_lets v w
  have hl : w.rd pgTP Reg.TP.XLOSS_AT_L_STAMP = s.now % 2 ^ 32 :=
    ((rd_wr_off _ _ _ _ (by decide)).trans (rd_wr_off _ _ _ _ (by decide))).trans hst.1
  have hh : w.rd pgTP Reg.TP.XLOSS_AT_H_STAMP = s.now / 2 ^ 32 % 2 ^ 32 :=
    ((rd_wr_off _ _ _ _ (by decide)).trans (rd_wr_off _ _ _ _ (by decide))).trans hst.2
  have hx : w.rdB pgTP Reg.TP.STAT_XTAL_OK = false :=
    (rdB_wr_off pgTP Reg.TP.CTL_XTAL_RET (bit false) (by decide)).trans (rdB_wrB_self _ _ _ (by decide) rfl)
  have hnow : w.now = s.now := (wrB_now _ _ _ _).trans ((wrB_now _ _ _ _).trans (wrStamp_now _ _ _ _ _))
  have hp : ∀ p f, p ≠ pgTP → f.off < 0x2000000 → w.rd p f = s.rd p f := fun p f hp hf =>
    (rd_wr_page _ _ _ _ _ hp (by decide) hf).trans ((rd_wr_page _ _ _ _ _ hp (by decide) hf).trans
      ((rd_wr_page _ _ _ _ _ hp (by decide) hf).trans (rd_wr_page _ _ _ _ _ hp (by decide) hf)))
  clear_value w
  exact ⟨hl, hh, hx, rfl, hnow, rfl, hp⟩


theorem Answered.rdB {r p : Nat} {f : Field} (h : Answered s u r) (hp : p ≠ pgFLT) (ho : f.off < 0x2000000) :
    u.rdB p f = s.rdB p f := by
  unfold State.rdB
  rw [h.rd hp ho]

theorem Answered.lossCanBeDeclared {r : Nat} (h : Answered s u r) : u.lossCanBeDeclared = s.lossCanBeDeclared := by
  have htp : u.tp = s.tp := h.2.1 .tp (by decide)
  unfold State.lossCanBeDeclared State.clockRuns State.onInternal
  rw [htp, h.rdB (by decide) (by decide), h.rdB (by decide) (by decide), h.rdB (by decide) (by decide)]

/-- Kind 7: the crystal monitor declares loss, by an injection. -/
theorem injectCrystal_effect (ha : s.rdB pgFLT Reg.FLT.INJ_STAT_ARMED = true) (hl : s.lossCanBeDeclared = true) :
    s.injectCrystal.rd pgFLT Reg.FLT.INJ_STAT_RESULT = 1 ∧
      s.injectCrystal.rd pgTP Reg.TP.XLOSS_AT_L_STAMP = s.now % 2 ^ 32 ∧
      s.injectCrystal.rd pgTP Reg.TP.XLOSS_AT_H_STAMP = s.now / 2 ^ 32 % 2 ^ 32 ∧
      s.injectCrystal.rdB pgTP Reg.TP.STAT_XTAL_OK = false ∧ s.injectCrystal.tp.switching = true ∧
      s.injectCrystal.tp.lossAt = s.now ∧ s.injectCrystal.tp.lossInjected = true := by
  obtain ⟨u, hu, he⟩ := injectIf_acts ha rfl fun s => if s.lossCanBeDeclared then s.crystalLost true else s
  have hs : s.injectCrystal = u.crystalLost true := by
    rw [if_pos (hu.lossCanBeDeclared.trans hl)] at he
    exact he
  obtain ⟨h₁, h₂, h₃, h₄, h₅, h₆, hp⟩ := crystalLost_effect u true
  rw [hu.now] at h₁ h₂ h₅
  rw [hs]
  exact ⟨(hp _ _ (by decide) (by decide)).trans hu.1, h₁, h₂, h₃, h₄, h₅, h₆⟩

end Sys2Proof.Machine
end

section
/-! PROOF. The kinds of fault injection that act on legs (O46). -/

namespace Sys2Proof.Machine

variable {s t u v : State} {p q prot : Nat}

theorem keyPage_regKey {o : Nat} (ho : o < 0x2000000) (p : Nat) : keyPage (regKey p o) = p := by
  unfold keyPage regKey
  omega

/-- The words that a protection and its reaction may change: those of channels and stages, and the agreement events. -/
def legsKey (k : Nat) : Prop := 32 ≤ keyPage k ∨ k = fieldKey pgSUP Reg.SUP.AGR_EVT_EVT

/-- A word below the channels, and not of the supervisor's, is spared. -/
theorem Spares.word_belowLegs (h : Spares legsKey s t) {o : Nat} (hp : p < 32) (hs : p ≠ pgSUP) (ho : o < 0x2000000) :
    t.word p o = s.word p o := by
  refine h.words _ fun hk => ?_
  rcases hk with hk | hk
  · rw [keyPage_regKey ho] at hk
    omega
  · exact hs ((regKey_inj ho (by decide)).1 hk).1

theorem Spares.reactionToLegs (h : Spares reactionKey s t) : Spares legsKey s t :=
  h.mono fun k hk => hk.imp (fun hk => Nat.le_trans (by decide) hk) id

/-- A channel's protection has latched, with its code. -/
def LegHeld (s : State) (p prot : Nat) : Prop := s.latched p = true ∧ s.rd p Reg.XH.CH_STAT_PROT = prot

theorem LegHeld.of_word (h : LegHeld s p prot) (hw : t.word p 0x140 = s.word p 0x140) : LegHeld t p prot := by
  have hl : t.rd p Reg.XH.CH_STAT_LATCH = s.rd p Reg.XH.CH_STAT_LATCH := rd_of_word hw
  refine ⟨?_, (rd_of_word hw).trans h.2⟩
  have := h.1
  unfold State.latched State.rdB at this ⊢
  rw [hl, this]

theorem keyPage_fieldKey {f : Field} (hf : f.off < 0x2000000) (p : Nat) : keyPage (fieldKey p f) = p := keyPage_regKey hf p

/-- The code and the latch of a protection, in CH_STAT. -/
def State.latchCode (s : State) (p prot : Nat) : State := (s.wr p Reg.XH.CH_STAT_PROT prot).wrB p Reg.XH.CH_STAT_LATCH true

theorem latchCode_held (s : State) (p : Nat) (hp : prot < 8) : LegHeld (s.latchCode p prot) p prot := by
  refine ⟨rdB_wrB_self _ _ _ (by decide) rfl, ?_⟩
  unfold State.latchCode State.wrB
  rw [rd_wr_field _ Reg.XH.CH_STAT_LATCH Reg.XH.CH_STAT_PROT _ (by decide) rfl (by decide), rd_wr_self _ _ _ (by decide)]
  exact Nat.mod_eq_of_lt hp

/-- The words of a latched leg: its code and the instant (R259, R262). -/
def State.latchWords (s : State) (p prot : Nat) : State :=
  (s.latchCode p prot).wrStamp p Reg.XH.PROT_AT_L_STAMP Reg.XH.PROT_AT_H_STAMP (s.latchCode p prot).now

theorem latchWords_effect (s : State) (p : Nat) (hp : prot < 8) : LegHeld (s.latchWords p prot) p prot ∧
    (s.latchWords p prot).rd p Reg.XH.PROT_AT_L_STAMP = s.now % 2 ^ 32 ∧
    (s.latchWords p prot).rd p Reg.XH.PROT_AT_H_STAMP = s.now / 2 ^ 32 % 2 ^ 32 ∧ (s.latchWords p prot).now = s.now ∧
    Spares (fun k => keyPage k = p) s (s.latchWords p prot) := by
  have hh := latchCode_held s p hp
  have hs : Spares (fun k => keyPage k = p) s (s.latchCode p prot) :=
    (Spares.start.wr (keyPage_fieldKey (by decide) p) _).wrB (keyPage_fieldKey (by decide) p) _
  have hn : (s.latchCode p prot).now = s.now := (wrB_now _ _ _ _).trans (wr_now _ _ _ _)
  unfold State.latchWords
  generalize s.latchCode p prot = w at hh hs hn ⊢
  obtain ⟨h₁, h₂⟩ := rd_wrStamp w p (fl := Reg.XH.PROT_AT_L_STAMP) (fh := Reg.XH.PROT_AT_H_STAMP) w.now ⟨rfl, rfl⟩ ⟨rfl, rfl⟩
    (by decide)
  rw [← hn]
  refine ⟨hh.of_word ?_, h₁, h₂, wrStamp_now _ _ _ _ _, ?_⟩
  · unfold State.wrStamp State.wr
    rw [word_setWord_off _ (by decide), word_setWord_off _ (by decide)]
  · exact (hs.wr (keyPage_fieldKey (by decide) p) _).wr (keyPage_fieldKey (by decide) p) _

theorem latchLeg_effect (s : State) (p : Nat) (hp : prot < 8) (soft : Bool) :
    LegHeld (s.latchLeg p prot soft) p prot ∧ (s.latchLeg p prot soft).rd p Reg.XH.PROT_AT_L_STAMP = s.now % 2 ^ 32 ∧
      (s.latchLeg p prot soft).rd p Reg.XH.PROT_AT_H_STAMP = s.now / 2 ^ 32 % 2 ^ 32 ∧
      (s.latchLeg p prot soft).now = s.now ∧ Spares (fun k => keyPage k = p) s (s.latchLeg p prot soft) := by
  obtain ⟨hh, h₁, h₂, hn, hs⟩ := latchWords_effect s p hp
  obtain ⟨c, hc⟩ : ∃ c, s.latchLeg p prot soft = (s.latchWords p prot).setChan p c := ⟨_, rfl⟩
  have hr := setChan_regs (s.latchWords p prot) p c
  rw [hc]
  exact ⟨hh.of_word (word_congr hr _ _), (rd_congr hr _ _).trans h₁, (rd_congr hr _ _).trans h₂,
    (setChan_now _ _ _).trans hn, hs.otherParts hr (setChan_coll _ _ _)⟩

theorem channelPage_bounds (h : channelPages.contains p = true) : 32 ≤ p ∧ p < 80 := by
  unfold channelPages xhPages ihPages pgXH pgIH at h
  simp only [List.contains_iff_mem, List.mem_append, List.mem_map, List.mem_range] at h
  rcases h with ⟨n, hn, rfl⟩ | ⟨n, hn, rfl⟩ <;> omega

/-- A channel page's words are spared by the reaction to a protection (R184, R262). -/
theorem Spares.word_channel (h : Spares reactionKey s t) (hp : 32 ≤ p ∧ p < 80) {o : Nat} (ho : o < 0x2000000) :
    t.word p o = s.word p o :=
  h.word_below hp.2 (fun he => absurd (he ▸ hp.1) (by decide)) ho

theorem mem_reportAs (r : Report) (h : s.coll.stopped = false) : r ∈ (s.reportAs r).coll.inflight := by
  rw [reportAs_inflight s r h]
  exact List.mem_append_right _ (List.mem_singleton.2 rfl)

/-- A trip of one leg: latched, reported and reacted to (R259, R262, R265). -/
theorem legTrip_effect (hp : 32 ≤ p ∧ p < 80) (hprot : prot < 8) (soft inj : Bool) (hc : s.coll.stopped = false)
    (ht : t = ((s.latchLeg p prot soft).reportTp .u 0x4E p prot inj).protectionReaction p) :
    LegLatched s t p prot ∧ Spares legsKey s t ∧
      ∃ r, r ∈ t.coll.inflight ∧ r.code = 0x4E ∧ r.page = p ∧ r.inj = inj := by
  obtain ⟨hh, h₁, h₂, hn, hs⟩ := latchLeg_effect s p hprot soft
  generalize s.latchLeg p prot soft = u at ht hh h₁ h₂ hn hs
  have hr := reportTp_regs u .u 0x4E p prot inj
  have hm := mem_reportAs ⟨0x4E, .u, p, prot, .timePlane, some u.now, inj, false⟩ (hs.stopped.trans hc)
  have hsv : Spares legsKey s (u.reportTp .u 0x4E p prot inj) := (hs.mono fun k hk => Or.inl (hk ▸ hp.1)).reportAs _
  have hv : Spares reactionKey (u.reportTp .u 0x4E p prot inj) t := ht ▸ Spares.start.protectionReaction p
  have hw (o : Nat) (ho : o < 0x2000000) : t.word p o = u.word p o := (hv.word_channel hp ho).trans (word_congr hr p o)
  obtain ⟨hl, hcode⟩ := hh.of_word (hw _ (by decide))
  have hmem := hv.reports hm
  rw [hn] at hmem
  exact ⟨⟨hl, hcode, (rd_of_word (hw _ (by decide))).trans h₁, (rd_of_word (hw _ (by decide))).trans h₂,
    _, hmem, rfl, rfl, rfl, rfl, rfl⟩, hsv.trans hv.reactionToLegs, _, hmem, rfl, rfl, rfl⟩

section
/-! The conditions of a trip, as an injection's answer leaves them: none of them reads FLT. -/

variable {r : Nat} (h : Answered s u r)
include h

theorem Answered.owner (hp : p ≠ pgFLT) : u.owner p = s.owner p := by
  unfold State.owner ownField
  split <;> exact h.rd hp (by decide)

theorem Answered.stageOff (st : Nat) : u.stageOff st = s.stageOff st := by
  unfold State.stageOff State.mode
  rw [h.rd (by unfold pgSG pgFLT; omega) (by decide)]

theorem Answered.latched (hp : p ≠ pgFLT) : u.latched p = s.latched p := h.rdB hp (by decide)

theorem Answered.passed (a n : Nat) : u.passed a n = s.passed a n := by
  unfold State.passed
  rw [h.now]

theorem Answered.fltMasked (hp : p ≠ pgFLT) : u.fltMasked p = s.fltMasked p := by
  have hsto : u.sto = s.sto := h.2.1 .sto (by decide)
  have ho : u.stoOpen = s.stoOpen := h.rdB (by decide) (by decide)
  unfold State.fltMasked
  rw [ho, h.owner hp, h.stageOff, hsto, h.passed]

theorem Answered.legs (st : Nat) : u.legs st = s.legs st := by
  unfold State.legs
  refine List.filter_congr fun q hq => ?_
  rw [h.owner]
  exact fun he => absurd (he ▸ (channelPage_bounds (List.contains_iff_mem.2 hq)).1) (by decide)

theorem Answered.secondOfSet (hp : p ≠ pgFLT) (still : Bool) : u.secondOfSet p still = s.secondOfSet p still := by
  have hch : u.chans = s.chans := h.2.1 .chans (by decide)
  unfold State.secondOfSet
  rw [h.owner hp, h.legs]
  refine List.filter_congr fun q hq => ?_
  have hq : q ≠ pgFLT := fun he => absurd
    (he ▸ (channelPage_bounds (List.contains_iff_mem.2 (List.mem_filter.1 hq).1)).1) (by decide)
  unfold State.chan
  rw [h.latched hq, h.rd hq (by decide), h.rd hq (by decide), h.rd hq (by decide), h.now, hch]

end

/-- RESULT stays as it was answered through a protection and its reaction. -/
theorem Answered.result_spared {r : Nat} (h : Answered s u r) (ht : Spares legsKey u t) :
    t.rd pgFLT Reg.FLT.INJ_STAT_RESULT = r :=
  (rd_of_word (ht.word_belowLegs (by decide) (by decide) (by decide))).trans h.1

theorem Answered.legLatched {r : Nat} (h : Answered s u r) (ht : LegLatched u t p prot) : LegLatched s t p prot := by
  unfold LegLatched at ht ⊢
  rwa [h.now] at ht

theorem injectChannel_acts (ha : s.rdB pgFLT Reg.FLT.INJ_STAT_ARMED = true) (hv : channelPages.contains p = true)
    (still : Bool) : ∃ u, Answered s u 1 ∧ s.injectChannel p still =
      if isXh p then (if u.rdB p Reg.XH.CFG_FLT_EN ∧ ¬ u.fltMasked p ∧ ¬ u.latched p then u.driverTrip p true else u)
      else u.shortTrip p 3 still true :=
  injectIf_acts ha hv fun s =>
    if isXh p then (if s.rdB p Reg.XH.CFG_FLT_EN ∧ ¬ s.fltMasked p ∧ ¬ s.latched p then s.driverTrip p true else s)
    else s.shortTrip p 3 still true

/-- Kind 4 on an external channel: its driver fault (R265). -/
theorem injectChannel_external (ha : s.rdB pgFLT Reg.FLT.INJ_STAT_ARMED = true) (hv : channelPages.contains p = true)
    (hx : isXh p = true) (he : s.rdB p Reg.XH.CFG_FLT_EN = true) (hm : s.fltMasked p = false) (hl : s.latched p = false)
    (hc : s.coll.stopped = false) (still : Bool) : (s.injectChannel p still).rd pgFLT Reg.FLT.INJ_STAT_RESULT = 1 ∧
      LegLatched s (s.injectChannel p still) p 4 ∧
      ∃ r, r ∈ (s.injectChannel p still).coll.inflight ∧ r.code = 0x4E ∧ r.page = p ∧ r.inj = true := by
  have hb := channelPage_bounds hv
  have hp : p ≠ pgFLT := fun he => absurd (he ▸ hb.1) (by decide)
  obtain ⟨u, hu, hs⟩ := injectChannel_acts ha hv still
  have ht : s.injectChannel p still = u.driverTrip p true := by
    rw [hs, if_pos hx, if_pos]
    rw [hu.rdB hp (by decide), hu.fltMasked hp, hu.latched hp, he, hm, hl]
    decide
  obtain ⟨hleg, hsp, hr⟩ := legTrip_effect hb (by decide) false true (by rw [hu.coll]; exact hc) ht
  exact ⟨hu.result_spared hsp, hu.legLatched hleg, hr⟩

/-- Kind 4 on an integrated channel, the first of its set to trip: a hard short (R260, R261). -/
theorem injectChannel_integrated (ha : s.rdB pgFLT Reg.FLT.INJ_STAT_ARMED = true) (hv : channelPages.contains p = true)
    (hx : isXh p = false) {still : Bool} (h2 : s.secondOfSet p still = []) (hc : s.coll.stopped = false) :
    (s.injectChannel p still).rd pgFLT Reg.FLT.INJ_STAT_RESULT = 1 ∧ LegLatched s (s.injectChannel p still) p 3 ∧
      ∃ r, r ∈ (s.injectChannel p still).coll.inflight ∧ r.code = 0x4E ∧ r.page = p ∧ r.inj = true := by
  have hb := channelPage_bounds hv
  have hp : p ≠ pgFLT := fun he => absurd (he ▸ hb.1) (by decide)
  obtain ⟨u, hu, hs⟩ := injectChannel_acts ha hv still
  have ht : s.injectChannel p still = ((u.latchLeg p 3 true).reportTp .u 0x4E p 3 true).protectionReaction p := by
    rw [hs, if_neg (by simp [hx])]
    unfold State.shortTrip
    rw [(hu.secondOfSet hp still).trans h2]
  obtain ⟨hleg, hsp, hr⟩ := legTrip_effect hb (by decide) true true (by rw [hu.coll]; exact hc) ht
  exact ⟨hu.result_spared hsp, hu.legLatched hleg, hr⟩

end Sys2Proof.Machine
end

section
/-! PROOF. The injected fast-path detection (O46): the legs trip one after the other, and STO opens at HARD (R292). -/

namespace Sys2Proof.Machine

variable {s t u : State} {p ch : Nat} {legs : List Nat}

/-- A leg that a fast-path detection trips (R292). -/
def State.fastLegTrip (s : State) (p : Nat) : State := (s.latchLeg p 6 false).protectionReaction p

theorem Spares.fastLegTrip {s₀ : State} (h : Spares legsKey s₀ s) (hp : 32 ≤ p) : Spares legsKey s₀ (s.fastLegTrip p) := by
  obtain ⟨-, -, -, -, hs⟩ := latchLeg_effect s p (prot := 6) (by decide) false
  exact (h.trans (hs.mono fun k hk => Or.inl (hk ▸ hp))).trans (Spares.start.protectionReaction p).reactionToLegs

theorem fastLegTrip_held (s : State) (hp : 32 ≤ p ∧ p < 80) : LegHeld (s.fastLegTrip p) p 6 := by
  obtain ⟨hh, -⟩ := latchLeg_effect s p (prot := 6) (by decide) false
  exact hh.of_word ((Spares.start.protectionReaction p).word_channel hp (by decide))

/-- A leg that has tripped stays so while others do. -/
theorem LegHeld.fastLegTrip {q : Nat} (h : LegHeld s q 6) (hq : 32 ≤ q ∧ q < 80) (hp : 32 ≤ p ∧ p < 80) :
    LegHeld (s.fastLegTrip p) q 6 := by
  by_cases he : q = p
  · subst he
    exact fastLegTrip_held s hp
  · obtain ⟨-, -, -, -, hs⟩ := latchLeg_effect s p (prot := 6) (by decide) false
    refine h.of_word (((Spares.start.protectionReaction p).word_channel hq (by decide)).trans (hs.words _ ?_))
    rwa [keyPage_regKey (by decide)]

theorem each_fastLegTrip (s : State) (hl : ∀ p ∈ legs, 32 ≤ p ∧ p < 80) {q : Nat} (hq : 32 ≤ q ∧ q < 80)
    (h : q ∈ legs ∨ LegHeld s q 6) : LegHeld (s.each legs State.fastLegTrip) q 6 := by
  unfold State.each
  induction legs generalizing s with
  | nil => exact h.resolve_left List.not_mem_nil
  | cons p ps ih =>
    have hp := hl p List.mem_cons_self
    refine ih (s.fastLegTrip p) (fun q hq => hl q (List.mem_cons_of_mem p hq)) ?_
    rcases h with h | h
    · rcases List.mem_cons.1 h with rfl | h
      · exact Or.inr (fastLegTrip_held s hp)
      · exact Or.inl h
    · exact Or.inr (h.fastLegTrip hq hp)

theorem fastLegs_bounds (h : p ∈ s.fastLegs ch) : 32 ≤ p ∧ p < 80 := by
  unfold State.fastLegs bitList at h
  obtain ⟨n, hn, rfl⟩ := List.mem_map.1 (List.mem_filter.1 h).1
  have := List.mem_range.1 (List.mem_filter.1 hn).1
  unfold pgXH
  omega

/-- The legs of a detection depend on LEGS of the channel and on pages of channels and stages alone. -/
theorem fastLegs_congr (hl : t.rd pgSD (Reg.SD.LEGS_LEGS ch) = s.rd pgSD (Reg.SD.LEGS_LEGS ch))
    (hw : ∀ p f, 32 ≤ p → f.off < 0x2000000 → t.rd p f = s.rd p f) : t.fastLegs ch = s.fastLegs ch := by
  unfold State.fastLegs
  rw [hl]
  refine List.filter_congr fun p hp => ?_
  obtain ⟨n, -, rfl⟩ := List.mem_map.1 hp
  have ho : t.owner (pgXH n) = s.owner (pgXH n) := by
    unfold State.owner ownField
    split <;> exact hw _ _ (by unfold pgXH; omega) (by decide)
  unfold State.stageOff State.mode
  rw [ho, hw _ _ (by unfold pgSG; omega) (by decide)]

/-- The words of a detection: the channel's bit and the instant (R292). -/
def State.fastRecorded (s : State) (ch : Nat) : State :=
  (s.orBits pgSD Reg.SD.OC_HIT_CH (2 ^ ch)).wrStamp pgSD Reg.SD.OC_AT_L_STAMP Reg.SD.OC_AT_H_STAMP
    (s.orBits pgSD Reg.SD.OC_HIT_CH (2 ^ ch)).now

theorem bitOf_eq_testBit (v k : Nat) : bitOf v k = v.testBit k := by
  unfold bitOf
  rw [Nat.testBit_eq_decide_div_mod_eq]
  rfl

theorem bitOf_or_two_pow {n : Nat} (v : Nat) (h : ch < n) : bitOf ((v ||| 2 ^ ch) % 2 ^ n) ch = true := by
  rw [bitOf_eq_testBit]
  simp [h]

theorem fastRecorded_effect (s : State) (hch : ch < 12) :
    bitOf ((s.fastRecorded ch).rd pgSD Reg.SD.OC_HIT_CH) ch = true ∧ (s.fastRecorded ch).fastLegs ch = s.fastLegs ch ∧
      (s.fastRecorded ch).coll = s.coll ∧
      (s.fastRecorded ch).word pgFLT Reg.FLT.INJ_STAT_RESULT.off = s.word pgFLT Reg.FLT.INJ_STAT_RESULT.off := by
  have hoff (f : Field) (hf : 0x1D0 ≤ f.off) : (Reg.SD.LEGS_LEGS ch).off ≠ f.off := by
    unfold Reg.SD.LEGS_LEGS
    dsimp only
    omega
  have hpage (q : Nat) (f : Field) (hq : q ≠ pgSD) (hf : f.off < 0x2000000) :
      (s.fastRecorded ch).word q f.off = s.word q f.off := by
    unfold State.fastRecorded State.orBits State.wrStamp State.wr
    rw [word_setWord_page _ hq (by decide) hf, word_setWord_page _ hq (by decide) hf, word_setWord_page _ hq (by decide) hf]
  refine ⟨?_, fastLegs_congr ?_ fun p f hp hf => rd_of_word (hpage p f (fun he => absurd (he ▸ hp) (by decide)) hf), ?_,
    hpage _ _ (by decide) (by decide)⟩
  · unfold State.fastRecorded State.orBits State.wrStamp
    rw [rd_wr_off _ _ _ _ (by decide), rd_wr_off _ _ _ _ (by decide), rd_wr_self _ _ _ (by decide)]
    exact bitOf_or_two_pow _ hch
  · unfold State.fastRecorded State.orBits State.wrStamp
    rw [rd_wr_off _ _ _ _ (hoff _ (by decide)), rd_wr_off _ _ _ _ (hoff _ (by decide)), rd_wr_off _ _ _ _ (hoff _ (by decide))]
  · exact (wrStamp_coll _ _ _ _ _).trans (wr_coll _ _ _ _)

theorem fastPath_of_legs {hard inj : Bool} {v w : State} (hv : v = s.fastRecorded ch) (hl : v.fastLegs ch ≠ [])
    (hw : w = (v.each (v.fastLegs ch) State.fastLegTrip).reportDike .u 0x68 pgSD ch inj) :
    s.fastPath ch hard inj = if hard then (w.reportDike .f 0x69 pgSD ch inj).openSto 2 else w := by
  subst hv hw
  unfold State.fastRecorded at hl
  unfold State.fastPath State.fastRecorded State.fastLegTrip
  dsimp only
  rw [if_neg hl]

/-- The words that a detection may change after its record: those of a leg's trip, and of an opening of STO. -/
def fastKey (k : Nat) : Prop := legsKey k ∨ keyPage k = pgSAF

theorem Spares.word_fast (h : Spares fastKey s t) {o : Nat} (hp : p < 32) (hs : p ≠ pgSUP) (hs' : p ≠ pgSAF)
    (ho : o < 0x2000000) : t.word p o = s.word p o := by
  refine h.words _ fun hk => ?_
  rcases hk with (hk | hk) | hk
  · rw [keyPage_regKey ho] at hk
    omega
  · exact hs ((regKey_inj ho (by decide)).1 hk).1
  · exact hs' ((keyPage_regKey ho p).symm.trans hk)

/-- An opening of STO leaves the words of channels. -/
theorem openSto_word_channel (s : State) (cause : Nat) (hp : 32 ≤ p ∧ p < 80) {o : Nat} (ho : o < 0x2000000) :
    (s.openSto cause).word p o = s.word p o := by
  refine (Spares.openSto s cause).words _ fun hk => ?_
  rcases hk with (hk | hk) | hk
  · rw [keyPage_regKey ho] at hk
    omega
  · exact absurd (((regKey_inj ho (by decide)).1 hk).1 ▸ hp.1) (by decide)
  · exact absurd (((keyPage_regKey ho p).symm.trans hk) ▸ hp.1) (by decide)

/-- What HARD adds to a detection: its report, and STO open; the legs' words stay (R292, R324). -/
theorem fastHard_effect (s : State) (ch : Nat) (hard inj : Bool) :
    Spares fastKey s (if hard then (s.reportDike .f 0x69 pgSD ch inj).openSto 2 else s) ∧
      (∀ p o, 32 ≤ p ∧ p < 80 → o < 0x2000000 →
        (if hard then (s.reportDike .f 0x69 pgSD ch inj).openSto 2 else s).word p o = s.word p o) ∧
      (hard = true → (if hard then (s.reportDike .f 0x69 pgSD ch inj).openSto 2 else s).stoOpen = true) := by
  cases hard with
  | false =>
    rw [if_neg Bool.false_ne_true]
    exact ⟨.start, fun _ _ _ _ => rfl, fun h => absurd h Bool.false_ne_true⟩
  | true =>
    rw [if_pos rfl]
    have ho := (Spares.openSto (s.reportDike .f 0x69 pgSD ch inj) 2).mono (K' := fastKey) fun k hk =>
      hk.imp_left fun hk => hk.imp_left fun hk => Nat.le_trans (by decide) hk
    exact ⟨(Spares.start.reportDike _ _ _ _ _).trans ho,
      fun p o hp ho => (openSto_word_channel _ 2 hp ho).trans (word_congr (reportDike_regs _ _ _ _ _ _) p o),
      fun _ => openSto_opens _ 2⟩

/-- A fast-path detection on legs that are not off: recorded, reported, every leg tripped, and STO open at HARD (R292). -/
theorem fastPath_effect (s : State) (hch : ch < 12) (hl : s.fastLegs ch ≠ []) (hard inj : Bool) (hc : s.coll.stopped = false) :
    bitOf ((s.fastPath ch hard inj).rd pgSD Reg.SD.OC_HIT_CH) ch = true ∧
      (∃ r, r ∈ (s.fastPath ch hard inj).coll.inflight ∧ r.code = 0x68 ∧ r.detail = ch ∧ r.inj = inj) ∧
      (∀ p, p ∈ s.fastLegs ch → LegHeld (s.fastPath ch hard inj) p 6) ∧
      (hard = true → (s.fastPath ch hard inj).stoOpen = true) ∧
      (s.fastPath ch hard inj).word pgFLT Reg.FLT.INJ_STAT_RESULT.off = s.word pgFLT Reg.FLT.INJ_STAT_RESULT.off := by
  obtain ⟨hbit, hlegs, hcoll, hres⟩ := fastRecorded_effect s hch
  have hfp := fun w => fastPath_of_legs (s := s) (ch := ch) (hard := hard) (inj := inj) (w := w) rfl (by rw [hlegs]; exact hl)
  generalize s.fastRecorded ch = v at hbit hlegs hcoll hres hfp
  rw [hlegs] at hfp
  have hheld : ∀ p ∈ s.fastLegs ch, LegHeld (v.each (s.fastLegs ch) State.fastLegTrip) p 6 := fun p hp =>
    each_fastLegTrip v (fun _ => fastLegs_bounds) (fastLegs_bounds hp) (Or.inl hp)
  have hsp : Spares legsKey v (v.each (s.fastLegs ch) State.fastLegTrip) :=
    Spares.start.each fun _ _ hp h => h.fastLegTrip (fastLegs_bounds hp).1
  generalize v.each (s.fastLegs ch) State.fastLegTrip = u at hheld hsp hfp
  have hm := mem_reportAs ⟨0x68, .u, pgSD, ch, .dike, some u.now, inj, false⟩
    (hsp.stopped.trans ((congrArg Collector.stopped hcoll).trans hc))
  have hsw : Spares fastKey v (u.reportDike .u 0x68 pgSD ch inj) := (hsp.mono fun _ => Or.inl).reportDike _ _ _ _ _
  have hhw : ∀ p ∈ s.fastLegs ch, LegHeld (u.reportDike .u 0x68 pgSD ch inj) p 6 := fun p hp =>
    (hheld p hp).of_word (word_congr (reportDike_regs _ _ _ _ _ _) _ _)
  rw [hfp _ rfl]
  change _ ∈ (u.reportDike .u 0x68 pgSD ch inj).coll.inflight at hm
  generalize u.reportDike .u 0x68 pgSD ch inj = w at hm hsw hhw ⊢
  obtain ⟨hst, hword, hopen⟩ := fastHard_effect w ch hard inj
  have hall := hsw.trans hst
  refine ⟨?_, ⟨_, hst.reports hm, rfl, rfl, rfl⟩,
    fun p hp => (hhw p hp).of_word (hword p _ (fastLegs_bounds hp) (by decide)), hopen,
    (hall.word_fast (by decide) (by decide) (by decide) (by decide)).trans hres⟩
  rw [rd_of_word (hall.word_fast (by decide) (by decide) (by decide) (by decide))]
  exact hbit

/-- Kind 5: a detection on a channel with its fast path enabled. -/
theorem injectFast_effect (ha : s.rdB pgFLT Reg.FLT.INJ_STAT_ARMED = true) (hch : ch < 12)
    (hoc : s.rdB pgSD (Reg.SD.CFG_OC_EN ch) = true) (hen : s.rdB pgSD (Reg.SD.CFG_EN ch) = true) (hl : s.fastLegs ch ≠ [])
    (hc : s.coll.stopped = false) (hard : Bool) :
    (s.injectFast ch hard).rd pgFLT Reg.FLT.INJ_STAT_RESULT = 1 ∧
      bitOf ((s.injectFast ch hard).rd pgSD Reg.SD.OC_HIT_CH) ch = true ∧
      (∃ r, r ∈ (s.injectFast ch hard).coll.inflight ∧ r.code = 0x68 ∧ r.detail = ch ∧ r.inj = true) ∧
      (∀ p, p ∈ s.fastLegs ch → (s.injectFast ch hard).latched p = true ∧
        (s.injectFast ch hard).rd p Reg.XH.CH_STAT_PROT = 6) ∧ (hard = true → (s.injectFast ch hard).stoOpen = true) := by
  obtain ⟨u, hu, he⟩ := injectIf_acts (valid := ch < 12) ha (decide_eq_true hch) fun s =>
    if s.rdB pgSD (Reg.SD.CFG_OC_EN ch) ∧ s.rdB pgSD (Reg.SD.CFG_EN ch) then s.fastPath ch hard true else s
  change s.injectFast ch hard = _ at he
  have hoff (f : Nat → Field) (hf : (f ch).off = 0x104 + 4 * ch) : u.rdB pgSD (f ch) = s.rdB pgSD (f ch) :=
    hu.rdB (by decide) (by omega)
  have hlegs : u.fastLegs ch = s.fastLegs ch := fastLegs_congr
    (hu.rd (by decide) (by unfold Reg.SD.LEGS_LEGS; dsimp only; omega))
    fun p f hp hf => hu.rd (fun he => absurd (he ▸ hp) (by decide)) hf
  rw [he, if_pos ⟨(hoff Reg.SD.CFG_OC_EN rfl).trans hoc, (hoff Reg.SD.CFG_EN rfl).trans hen⟩]
  obtain ⟨hbit, hr, hheld, hopen, hw⟩ := fastPath_effect u hch (by rw [hlegs]; exact hl) hard true (by rw [hu.coll]; exact hc)
  rw [hlegs] at hheld
  exact ⟨(rd_of_word hw).trans hu.1, hbit, hr, hheld, hopen⟩

/-- A page, a code or a class outside the table. -/
theorem injectReport_invalid {page code : Fin 256} {cls : Fin 4}
    (h : (pageType page).isNone = true ∨ definedCode code = false ∨ cls = 0) :
    ((pageType page).isSome && definedCode code && (classOf cls).isSome) = false := by
  rcases h with h | h | rfl
  · simp [Option.isNone_iff_eq_none.1 h]
  · simp [h]
  · simp [classOf]

theorem injectCoreWrite_invalid {c : Fin 4} (h : c = 3 ∨ (c = 2 ∧ s.compat = true)) :
    (decide (c.val < 2) || (c.val == 2 && !s.compat)) = false := by
  rcases h with rfl | ⟨rfl, h⟩
  · rfl
  · simp [h]

theorem injectCoreWrite_valid {c : Fin 4} (h : c < 2 ∨ (c = 2 ∧ s.compat = false)) :
    c.val < 2 ∨ (c.val = 2 ∧ s.compat = false) :=
  h.imp Fin.lt_def.1 fun h => ⟨congrArg Fin.val h.1, h.2⟩

/-- Settles O46: a refusal answers and changes nothing else, and each accepted kind acts on the state that answers. -/
theorem faultInjection : Obligations.FaultInjection :=
  ⟨fun _ _ _ _ h => ⟨_, rfl, injectIf_unarmed h _ _⟩,
   fun _ h => ⟨_, rfl, injectIf_unarmed h _ _⟩,
   fun _ _ h => ⟨_, rfl, injectIf_unarmed h _ _⟩,
   fun _ _ h => ⟨_, rfl, injectIf_unarmed h _ _⟩,
   fun _ _ _ h => ⟨_, rfl, injectIf_unarmed h _ _⟩,
   fun _ _ _ h => ⟨_, rfl, injectIf_unarmed h _ _⟩,
   fun _ h => ⟨_, rfl, injectIf_unarmed h _ _⟩,
   fun _ h => ⟨_, rfl, injectIf_unarmed h _ _⟩,
   fun _ _ _ _ h hv => ⟨_, rfl, injectIf_invalid h (injectReport_invalid hv) _⟩,
   fun _ h hv => ⟨_, rfl, injectIf_invalid h hv _⟩,
   fun _ _ h hv => ⟨_, rfl, injectIf_invalid h hv _⟩,
   fun _ _ h hv => ⟨_, rfl, injectIf_invalid h (injectCoreWrite_invalid hv) _⟩,
   fun _ _ _ h hv => ⟨_, rfl, injectIf_invalid h hv _⟩,
   fun _ _ _ h hv => ⟨_, rfl, injectIf_invalid h (decide_eq_false (Nat.not_lt.2 hv)) _⟩,
   fun _ _ _ _ h hp hd hk hc => ⟨_, rfl, injectReport_effect h hp hd hk hc⟩,
   fun _ h hv => ⟨_, rfl, injectCheckField_effect h rfl hv⟩,
   fun _ _ h hv => ⟨_, rfl, injectStall_effect h hv⟩,
   fun _ _ h hv => ⟨_, rfl, injectCoreWrite_effect h (injectCoreWrite_valid hv)⟩,
   fun _ _ still h hv hx he hm hl hc => ⟨_, rfl, injectChannel_external h hv hx he hm hl hc still⟩,
   fun _ _ _ h hv hx h2 hc => ⟨_, rfl, injectChannel_integrated h hv hx h2 hc⟩,
   fun _ _ hard h hch hoc hen hl hc => ⟨_, rfl, injectFast_effect h hch hoc hen hl hc hard⟩,
   fun _ h => ⟨_, rfl, injectHeartbeat_effect h⟩,
   fun _ h hl => ⟨_, rfl, injectCrystal_effect h hl⟩⟩

end Sys2Proof.Machine
end

section
/-! PROOF. What every command keeps, one step, and the idle tick (O1, O5, O6). -/

namespace Sys2Proof.Machine

variable {c : Instr} {s t : State}

/-- Every command keeps a sound state sound and changes only the parts listed for it: the law of its meaning says so. -/
theorem kept_exec (h : exec c s = .next t) : Kept (mayTouch c) s t := by
  cases c with
  | polderEnable => exact kept_execPolderEnable .start (List.Subset.refl _) _ _ _ _ h
  | polderPowerDown => exact kept_execPolderPowerDown .start (List.Subset.refl _) _ _ _ _ h
  | drainRequest => exact kept_execDrainRequest .start (List.Subset.refl _) _ _ _ _ h
  | drainCancel => exact kept_execDrainCancel .start (List.Subset.refl _) _ _ _ _ h
  | testRequest => exact kept_execTestRequest .start (List.Subset.refl _) _ _ _ _ h
  | blockReset => exact kept_execBlockReset .start (List.Subset.refl _) _ _ _ _ h
  | blockResetComplete => exact kept_execBlockResetComplete .start (List.Subset.refl _) _ h
  | drainEvaluation => exact kept_execDrainEvaluation .start (List.Subset.refl _) h
  | drainComplete => exact kept_execDrainComplete .start (List.Subset.refl _) _ h
  | drainTimeout => exact kept_execDrainTimeout .start (List.Subset.refl _) _ h
  | selfTestComplete => exact kept_execSelfTestComplete .start (List.Subset.refl _) _ _ h
  | testSluiceWithhold => exact kept_execTestSluiceWithhold .start (List.Subset.refl _) _ h
  | stallClosure => exact kept_execStallClosure .start (List.Subset.refl _) _ h
  | closedSluiceRequest => exact kept_execClosedSluiceRequest .start (List.Subset.refl _) _ _ _ h
  | rateWindowEnd => exact kept_execRateWindowEnd .start (List.Subset.refl _) _ _ h
  | rateProbe => exact kept_execRateProbe .start (List.Subset.refl _) _ _ _ h
  | readNowL => exact kept_execReadNowL .start (List.Subset.refl _) _ h
  | interpolatorRecalibration => exact kept_execInterpolatorRecalibration .start (List.Subset.refl _) _ _ h
  | crystalLoss => exact kept_execCrystalLoss .start (List.Subset.refl _) h
  | switchoverComplete => exact kept_execSwitchoverComplete .start (List.Subset.refl _) h
  | crystalReturnRequest => exact kept_execCrystalReturnRequest .start (List.Subset.refl _) h
  | crystalReturnComplete => exact kept_execCrystalReturnComplete .start (List.Subset.refl _) h
  | xtalOkChange => exact kept_execXtalOkChange .start (List.Subset.refl _) _ h
  | dikeTickCheck => exact kept_execDikeTickCheck .start (List.Subset.refl _) _ _ h
  | exit => exact kept_execExit .start (List.Subset.refl _) _ h
  | trap => exact kept_execTrap .start (List.Subset.refl _) _ _ h
  | br => exact kept_execBr .start (List.Subset.refl _) _ _ h
  | brc => exact kept_execBrc .start (List.Subset.refl _) _ _ _ h
  | cmp => exact kept_execCmp .start (List.Subset.refl _) _ _ _ _ h
  | mov => exact kept_execMov .start (List.Subset.refl _) _ _ _ h
  | movl => exact kept_execMovl .start (List.Subset.refl _) _ _ _ h
  | movh => exact kept_execMovh .start (List.Subset.refl _) _ _ _ h
  | lds => exact kept_execLds .start (List.Subset.refl _) _ _ _ _ _ h
  | sts => exact kept_execSts .start (List.Subset.refl _) _ _ _ _ _ h
  | ins => exact kept_execIns .start (List.Subset.refl _) _ _ _ _ h
  | outs => exact kept_execOuts .start (List.Subset.refl _) _ _ _ _ _ h
  | stamp => exact kept_execStamp .start (List.Subset.refl _) _ _ _ _ h
  | fadd => exact kept_execFadd .start (List.Subset.refl _) _ _ _ _ h
  | fsub => exact kept_execFsub .start (List.Subset.refl _) _ _ _ _ h
  | fmul => exact kept_execFmul .start (List.Subset.refl _) _ _ _ _ h
  | fdiv => exact kept_execFdiv .start (List.Subset.refl _) _ _ _ _ h
  | fsqrt => exact kept_execFsqrt .start (List.Subset.refl _) _ _ _ h
  | fabs => exact kept_execFabs .start (List.Subset.refl _) _ _ _ h
  | fneg => exact kept_execFneg .start (List.Subset.refl _) _ _ _ h
  | fmin => exact kept_execFmin .start (List.Subset.refl _) _ _ _ _ h
  | fmax => exact kept_execFmax .start (List.Subset.refl _) _ _ _ _ h
  | fclamp => exact kept_execFclamp .start (List.Subset.refl _) _ _ _ _ _ h
  | fma => exact kept_execFma .start (List.Subset.refl _) _ _ _ _ _ h
  | fnma => exact kept_execFnma .start (List.Subset.refl _) _ _ _ _ _ h
  | cvt => exact kept_execCvt .start (List.Subset.refl _) _ _ _ _ h
  | add => exact kept_execAdd .start (List.Subset.refl _) _ _ _ _ h
  | sub => exact kept_execSub .start (List.Subset.refl _) _ _ _ _ h
  | and => exact kept_execAnd .start (List.Subset.refl _) _ _ _ _ h
  | or => exact kept_execOr .start (List.Subset.refl _) _ _ _ _ h
  | xor => exact kept_execXor .start (List.Subset.refl _) _ _ _ _ h
  | shl => exact kept_execShl .start (List.Subset.refl _) _ _ _ _ h
  | shr => exact kept_execShr .start (List.Subset.refl _) _ _ _ _ _ h
  | sincos => exact kept_execSincos .start (List.Subset.refl _) _ _ _ h
  | atan2 => exact kept_execAtan2 .start (List.Subset.refl _) _ _ _ _ h
  | clarke => exact kept_execClarke .start (List.Subset.refl _) _ _ _ _ _ _ h
  | park => exact kept_execPark .start (List.Subset.refl _) _ _ _ _ _ _ h
  | ipark => exact kept_execIpark .start (List.Subset.refl _) _ _ _ _ _ _ h
  | svm => exact kept_execSvm .start (List.Subset.refl _) _ _ _ _ _ _ h
  | pi => exact kept_execPi .start (List.Subset.refl _) _ _ _ _ _ h
  | rlim => exact kept_execRlim .start (List.Subset.refl _) _ _ _ _ h
  | lpf1 => exact kept_execLpf1 .start (List.Subset.refl _) _ _ _ _ h
  | minsel => exact kept_execMinsel .start (List.Subset.refl _) _ _ _ _ _ h
  | triggerStageEvent => exact kept_execTriggerStageEvent .start (List.Subset.refl _) _ _ h
  | triggerPeriodic => exact kept_execTriggerPeriodic .start (List.Subset.refl _) h
  | kick => exact kept_execKick .start (List.Subset.refl _) _ h
  | runDispatch => exact kept_execRunDispatch .start (List.Subset.refl _) _ h
  | runDeadlinePassed => exact kept_execRunDeadlinePassed .start (List.Subset.refl _) _ h
  | localMemoryWrite => exact kept_execLocalMemoryWrite .start (List.Subset.refl _) _ _ _ h
  | slotWrite => exact kept_execSlotWrite .start (List.Subset.refl _) _ _ _ _ h
  | slotValueRead => exact kept_execSlotValueRead .start (List.Subset.refl _) _ _ h
  | delayPeakClear => exact kept_execDelayPeakClear .start (List.Subset.refl _) _ h
  | placementEvent => exact kept_execPlacementEvent .start (List.Subset.refl _) h
  | reserveReevaluation => exact kept_execReserveReevaluation .start (List.Subset.refl _) h
  | imageLoadComplete => exact kept_execImageLoadComplete .start (List.Subset.refl _) _ _ h
  | moveCopyStart => exact kept_execMoveCopyStart .start (List.Subset.refl _) _ h
  | moveCopyComplete => exact kept_execMoveCopyComplete .start (List.Subset.refl _) _ h
  | faultMove => exact kept_execFaultMove .start (List.Subset.refl _) _ h
  | holdGuardExpiry => exact kept_execHoldGuardExpiry .start (List.Subset.refl _) _ _ h
  | balanceEvaluation => exact kept_execBalanceEvaluation .start (List.Subset.refl _) h
  | imageStore => exact kept_execImageStore .start (List.Subset.refl _) _ h
  | imageErase => exact kept_execImageErase .start (List.Subset.refl _) _ h
  | imageStoreComplete => exact kept_execImageStoreComplete .start (List.Subset.refl _) _ h
  | graftStandbyVerified => exact kept_execGraftStandbyVerified .start (List.Subset.refl _) h
  | graftSwap => exact kept_execGraftSwap .start (List.Subset.refl _) _ h
  | graftTimeout => exact kept_execGraftTimeout .start (List.Subset.refl _) h
  | stageSampleInstant => exact kept_execStageSampleInstant .start (List.Subset.refl _) _ _ _ h
  | stagePeriodStart => exact kept_execStagePeriodStart .start (List.Subset.refl _) _ _ h
  | speedRuleTransition => exact kept_execSpeedRuleTransition .start (List.Subset.refl _) _ h
  | catchTimeout => exact kept_execCatchTimeout .start (List.Subset.refl _) _ h
  | positionLost => exact kept_execPositionLost .start (List.Subset.refl _) _ h
  | lossRampEnd => exact kept_execLossRampEnd .start (List.Subset.refl _) _ h
  | tqStaleTimeout => exact kept_execTqStaleTimeout .start (List.Subset.refl _) _ h
  | reactionEnd => exact kept_execReactionEnd .start (List.Subset.refl _) _ h
  | delayEnd => exact kept_execDelayEnd .start (List.Subset.refl _) _ h
  | startTimeout => exact kept_execStartTimeout .start (List.Subset.refl _) _ h
  | stopDelayEnd => exact kept_execStopDelayEnd .start (List.Subset.refl _) _ h
  | gridZeroCrossing => exact kept_execGridZeroCrossing .start (List.Subset.refl _) _ _ _ h
  | gridLoss => exact kept_execGridLoss .start (List.Subset.refl _) h
  | pilotPeriodDecode => exact kept_execPilotPeriodDecode .start (List.Subset.refl _) _ _ _ _ _ h
  | proximityMeasurement => exact kept_execProximityMeasurement .start (List.Subset.refl _) _ _ h
  | staleCommandTimeout => exact kept_execStaleCommandTimeout .start (List.Subset.refl _) _ h
  | crowbarFire => exact kept_execCrowbarFire .start (List.Subset.refl _) h
  | crowbarClear => exact kept_execCrowbarClear .start (List.Subset.refl _) _ h
  | actuationSpeedTimeout => exact kept_execActuationSpeedTimeout .start (List.Subset.refl _) _ h
  | actuationStopTimeout => exact kept_execActuationStopTimeout .start (List.Subset.refl _) _ h
  | curveEvaluation => exact kept_execCurveEvaluation .start (List.Subset.refl _) _ h
  | ihPinTransition => exact kept_execIhPinTransition .start (List.Subset.refl _) _ _ _ h
  | bootstrapComparator => exact kept_execBootstrapComparator .start (List.Subset.refl _) _ _ h
  | refreshPulse => exact kept_execRefreshPulse .start (List.Subset.refl _) _ h
  | chargePumpLow => exact kept_execChargePumpLow .start (List.Subset.refl _) h
  | vdsTrip => exact kept_execVdsTrip .start (List.Subset.refl _) _ _ _ h
  | hardShort => exact kept_execHardShort .start (List.Subset.refl _) _ _ _ h
  | driverFault => exact kept_execDriverFault .start (List.Subset.refl _) _ h
  | sequenceTrigger => exact kept_execSequenceTrigger .start (List.Subset.refl _) _ _ _ h
  | seqSw => exact kept_execSeqSw .start (List.Subset.refl _) _ _ h
  | sequenceStart => exact kept_execSequenceStart .start (List.Subset.refl _) _ h
  | conversionComplete => exact kept_execConversionComplete .start (List.Subset.refl _) _ _ h
  | converterPowerDown => exact kept_execConverterPowerDown .start (List.Subset.refl _) _ h
  | injectedRequest => exact kept_execInjectedRequest .start (List.Subset.refl _) _ _ h
  | calibrationRequest => exact kept_execCalibrationRequest .start (List.Subset.refl _) _ h
  | calibrationAuto => exact kept_execCalibrationAuto .start (List.Subset.refl _) _ h
  | calibrationStart => exact kept_execCalibrationStart .start (List.Subset.refl _) _ h
  | calibrationComplete => exact kept_execCalibrationComplete .start (List.Subset.refl _) _ _ h
  | calibrationAbandon => exact kept_execCalibrationAbandon .start (List.Subset.refl _) _ h
  | tdacAutoCheck => exact kept_execTdacAutoCheck .start (List.Subset.refl _) _ h
  | tdacRequest => exact kept_execTdacRequest .start (List.Subset.refl _) _ _ h
  | tdacCheckComplete => exact kept_execTdacCheckComplete .start (List.Subset.refl _) _ _ _ h
  | sdDecimatorOutput => exact kept_execSdDecimatorOutput .start (List.Subset.refl _) _ _ h
  | sdStuck => exact kept_execSdStuck .start (List.Subset.refl _) _ h
  | fastPathDetection => exact kept_execFastPathDetection .start (List.Subset.refl _) _ _ h
  | resolverDemodulation => exact kept_execResolverDemodulation .start (List.Subset.refl _) _ _ _ _ _ _ h
  | encoderEdge => exact kept_execEncoderEdge .start (List.Subset.refl _) _ _ _ h
  | encoderZeroSpeed => exact kept_execEncoderZeroSpeed .start (List.Subset.refl _) h
  | votedWrite => exact kept_execVotedWrite .start (List.Subset.refl _) _ _ _ _ _ h
  | voteLagTimeout => exact kept_execVoteLagTimeout .start (List.Subset.refl _) _ h
  | resyncComplete => exact kept_execResyncComplete .start (List.Subset.refl _) _ h
  | stateDigest => exact kept_execStateDigest .start (List.Subset.refl _) _ _ h
  | agreementAccess => exact kept_execAgreementAccess .start (List.Subset.refl _) _ _ _ h
  | lockstepMismatch => exact kept_execLockstepMismatch .start (List.Subset.refl _) h
  | lockstepRecoveryComplete => exact kept_execLockstepRecoveryComplete .start (List.Subset.refl _) _ h
  | lockstepRecoveryTimeout => exact kept_execLockstepRecoveryTimeout .start (List.Subset.refl _) h
  | debugHalt => exact kept_execDebugHalt .start (List.Subset.refl _) _ h
  | debugBreak => exact kept_execDebugBreak .start (List.Subset.refl _) h
  | debugAbstractCommand => exact kept_execDebugAbstractCommand .start (List.Subset.refl _) _ _ _ _ _ _ h
  | heartbeatWrite => exact kept_execHeartbeatWrite .start (List.Subset.refl _) _ h
  | heartbeatWarn => exact kept_execHeartbeatWarn .start (List.Subset.refl _) h
  | heartbeatLoss => exact kept_execHeartbeatLoss .start (List.Subset.refl _) h
  | watchdogResetDelay => exact kept_execWatchdogResetDelay .start (List.Subset.refl _) h
  | stoOpen => exact kept_execStoOpen .start (List.Subset.refl _) _ h
  | stoOpenCommand => exact kept_execStoOpenCommand .start (List.Subset.refl _) h
  | stoCloseCommand => exact kept_execStoCloseCommand .start (List.Subset.refl _) h
  | stoHsClose => exact kept_execStoHsClose .start (List.Subset.refl _) h
  | stoReadbackCheck => exact kept_execStoReadbackCheck .start (List.Subset.refl _) _ h
  | stoTestPulse => exact kept_execStoTestPulse .start (List.Subset.refl _) _ h
  | stoTestPulseEnd => exact kept_execStoTestPulseEnd .start (List.Subset.refl _) _ _ h
  | safeStopDemand => exact kept_execSafeStopDemand .start (List.Subset.refl _) _ h
  | plausibilityCheck => exact kept_execPlausibilityCheck .start (List.Subset.refl _) _ _ h
  | hookTimeLimit => exact kept_execHookTimeLimit .start (List.Subset.refl _) h
  | coreMemoryAccess => exact kept_execCoreMemoryAccess .start (List.Subset.refl _) _ _ _ _ _ _ _ h
  | scrubStep => exact kept_execScrubStep .start (List.Subset.refl _) _ _ h
  | mramScrubStep => exact kept_execMramScrubStep .start (List.Subset.refl _) _ _ h
  | mramWrite => exact kept_execMramWrite .start (List.Subset.refl _) _ _ _ h
  | mramUpdateOpen => exact kept_execMramUpdateOpen .start (List.Subset.refl _) h
  | mramUpdateClose => exact kept_execMramUpdateClose .start (List.Subset.refl _) h
  | originLoadComplete => exact kept_execOriginLoadComplete .start (List.Subset.refl _) _ h
  | faultReport => exact kept_execFaultReport .start (List.Subset.refl _) _ h
  | logEntryWrite => exact kept_execLogEntryWrite .start (List.Subset.refl _) h
  | fltSumClear => exact kept_execFltSumClear .start (List.Subset.refl _) _ h
  | pageFltClear => exact kept_execPageFltClear .start (List.Subset.refl _) _ _ h
  | faultPinWidthEnd => exact kept_execFaultPinWidthEnd .start (List.Subset.refl _) h
  | faultPinLevelWrite => exact kept_execFaultPinLevelWrite .start (List.Subset.refl _) _ h
  | reducedOperationExit => exact kept_execReducedOperationExit .start (List.Subset.refl _) h
  | appKick => exact kept_execAppKick .start (List.Subset.refl _) _ h
  | appWatchdogExpiry => exact kept_execAppWatchdogExpiry .start (List.Subset.refl _) _ h
  | resetCommand => exact kept_execResetCommand .start (List.Subset.refl _) _ h
  | resetPinAssert => exact kept_execResetPinAssert .start (List.Subset.refl _) h
  | resetPinRelease => exact kept_execResetPinRelease .start (List.Subset.refl _) _ _ _ h
  | resetHeld5s => exact kept_execResetHeld5s .start (List.Subset.refl _) h
  | resetRelease => exact kept_execResetRelease .start (List.Subset.refl _) _ _ _ h
  | collectorStop => exact kept_execCollectorStop .start (List.Subset.refl _) h
  | collectorRestart => exact kept_execCollectorRestart .start (List.Subset.refl _) h
  | dikePowerOn => exact kept_execDikePowerOn .start (List.Subset.refl _) h
  | dikeSupplyLoss => exact kept_execDikeSupplyLoss .start (List.Subset.refl _) h
  | injectReport => exact kept_execInjectReport .start (List.Subset.refl _) _ _ _ h
  | injectCheckField => exact kept_execInjectCheckField .start (List.Subset.refl _) h
  | injectStall => exact kept_execInjectStall .start (List.Subset.refl _) _ h
  | injectCoreWrite => exact kept_execInjectCoreWrite .start (List.Subset.refl _) _ h
  | injectChannelFault => exact kept_execInjectChannelFault .start (List.Subset.refl _) _ _ h
  | injectFastPath => exact kept_execInjectFastPath .start (List.Subset.refl _) _ _ h
  | injectHeartbeatLoss => exact kept_execInjectHeartbeatLoss .start (List.Subset.refl _) h
  | injectCrystalLoss => exact kept_execInjectCrystalLoss .start (List.Subset.refl _) h
  | stagedWrite => exact kept_execStagedWrite .start (List.Subset.refl _) _ _ _ h
  | stageDiscard => exact kept_execStageDiscard .start (List.Subset.refl _) _ h
  | stageIncludeWrite => exact kept_execStageIncludeWrite .start (List.Subset.refl _) _ _ h
  | windowAccess => exact kept_execWindowAccess .start (List.Subset.refl _) _ _ _ _ h
  | commit => exact kept_execCommit .start (List.Subset.refl _) _ h
  | commitCheckComplete => exact kept_execCommitCheckComplete .start (List.Subset.refl _) h
  | commitApply => exact kept_execCommitApply .start (List.Subset.refl _) h
  | registerWrite => exact kept_execRegisterWrite .start (List.Subset.refl _) _ _ _ _ h
  | hostRead => exact kept_execHostRead .start (List.Subset.refl _) _ _ _ _ _ h
  | hostWrite => exact kept_execHostWrite .start (List.Subset.refl _) _ _ _ _ _ h
  | hostDeferredRead => exact kept_execHostDeferredRead .start (List.Subset.refl _) _ _ _ _ _ h
  | hostFetch => exact kept_execHostFetch .start (List.Subset.refl _) _ _ _ _ _ h
  | hostWriteDelivery => exact kept_execHostWriteDelivery .start (List.Subset.refl _) h
  | deferredReadComplete => exact kept_execDeferredReadComplete .start (List.Subset.refl _) h
  | ledgerPush => exact kept_execLedgerPush .start (List.Subset.refl _) _ _ h
  | canFrameReceive => exact kept_execCanFrameReceive .start (List.Subset.refl _) _ _ _ _ _ h
  | canFrameTransmit => exact kept_execCanFrameTransmit .start (List.Subset.refl _) _ _ _ _ h
  | canBusoffRecoveryCmd => exact kept_execCanBusoffRecoveryCmd .start (List.Subset.refl _) _ h
  | canBusoffRecovery => exact kept_execCanBusoffRecovery .start (List.Subset.refl _) _ h
  | ethFrameReceive => exact kept_execEthFrameReceive .start (List.Subset.refl _) _ _ _ _ h
  | ethFrameTransmit => exact kept_execEthFrameTransmit .start (List.Subset.refl _) _ _ _ h
  | ethLinkLoss => exact kept_execEthLinkLoss .start (List.Subset.refl _) _ _ h
  | mdioAddress => exact kept_execMdioAddress .start (List.Subset.refl _) _ _ _ _ h
  | mdioWrite => exact kept_execMdioWrite .start (List.Subset.refl _) _ _ _ _ h
  | mdioRead => exact kept_execMdioRead .start (List.Subset.refl _) _ _ _ h
  | mdioReadIncrement => exact kept_execMdioReadIncrement .start (List.Subset.refl _) _ _ _ h
  | mdioComplete => exact kept_execMdioComplete .start (List.Subset.refl _) _ h
  | sentMessage => exact kept_execSentMessage .start (List.Subset.refl _) _ _ _ _ _ _ _ _ h
  | sentTimeout => exact kept_execSentTimeout .start (List.Subset.refl _) _ h
  | psi5SyncPulse => exact kept_execPsi5SyncPulse .start (List.Subset.refl _) _ h
  | psi5Frame => exact kept_execPsi5Frame .start (List.Subset.refl _) _ _ _ _ _ h
  | psi5SlotMissing => exact kept_execPsi5SlotMissing .start (List.Subset.refl _) _ _ h
  | ryugerSyncTransmit => exact kept_execRyugerSyncTransmit .start (List.Subset.refl _) h
  | ryugerFrameReceive => exact kept_execRyugerFrameReceive .start (List.Subset.refl _) _ _ _ _ _ h
  | symbolLockChange => exact kept_execSymbolLockChange .start (List.Subset.refl _) _ h
  | syncTimeout => exact kept_execSyncTimeout .start (List.Subset.refl _) h
  | ryugerSupervisorSend => exact kept_execRyugerSupervisorSend .start (List.Subset.refl _) _ _ h
  | ryugerApplicationSend => exact kept_execRyugerApplicationSend .start (List.Subset.refl _) _ _ h
  | ryugerRxPop => exact kept_execRyugerRxPop .start (List.Subset.refl _) _ h
  | ryugerFrameLost => exact kept_execRyugerFrameLost .start (List.Subset.refl _) _ h
  | ringHeadWrite => exact kept_execRingHeadWrite .start (List.Subset.refl _) _ _ _ h
  | spiEntryStart => exact kept_execSpiEntryStart .start (List.Subset.refl _) h
  | spiEntryComplete => exact kept_execSpiEntryComplete .start (List.Subset.refl _) _ h
  | secUnlockToken => exact kept_execSecUnlockToken .start (List.Subset.refl _) h
  | secLifecycleToken => exact kept_execSecLifecycleToken .start (List.Subset.refl _) h
  | secAttest => exact kept_execSecAttest .start (List.Subset.refl _) h
  | secAdvanceCounter => exact kept_execSecAdvanceCounter .start (List.Subset.refl _) _ _ _ h
  | secRequestStart => exact kept_execSecRequestStart .start (List.Subset.refl _) h
  | secRequestComplete => exact kept_execSecRequestComplete .start (List.Subset.refl _) _ h
  | tapIdcode => exact kept_execTapIdcode .start (List.Subset.refl _) h
  | tapBypass => exact kept_execTapBypass .start (List.Subset.refl _) h
  | tapChal => exact kept_execTapChal .start (List.Subset.refl _) _ h
  | tapUnlock => exact kept_execTapUnlock .start (List.Subset.refl _) _ h
  | debugReset => exact kept_execDebugReset .start (List.Subset.refl _) h
  | debugLevelLower => exact kept_execDebugLevelLower .start (List.Subset.refl _) _ h
  | leDebugSnapshot => exact kept_execLeDebugSnapshot .start (List.Subset.refl _) _ h
  | leDebugHold => exact kept_execLeDebugHold .start (List.Subset.refl _) _ _ h
  | powerRequestRun => exact kept_execPowerRequestRun .start (List.Subset.refl _) h
  | powerRequestStandby => exact kept_execPowerRequestStandby .start (List.Subset.refl _) h
  | powerRequestSleep => exact kept_execPowerRequestSleep .start (List.Subset.refl _) h
  | powerRequestOff => exact kept_execPowerRequestOff .start (List.Subset.refl _) h
  | powerStateReached => exact kept_execPowerStateReached .start (List.Subset.refl _) h
  | wakeEvent => exact kept_execWakeEvent .start (List.Subset.refl _) _ _ h
  | wakeTimerExpiry => exact kept_execWakeTimerExpiry .start (List.Subset.refl _) _ h
  | sleepVbatLow => exact kept_execSleepVbatLow .start (List.Subset.refl _) h
  | vbatLowWarning => exact kept_execVbatLowWarning .start (List.Subset.refl _) h
  | vbatUndervoltage => exact kept_execVbatUndervoltage .start (List.Subset.refl _) h
  | vbatBrownOut => exact kept_execVbatBrownOut .start (List.Subset.refl _) h
  | vbatLoadDump => exact kept_execVbatLoadDump .start (List.Subset.refl _) h
  | vbatSustainedHigh => exact kept_execVbatSustainedHigh .start (List.Subset.refl _) h
  | vbatOvervoltage => exact kept_execVbatOvervoltage .start (List.Subset.refl _) h
  | vmUndervoltage => exact kept_execVmUndervoltage .start (List.Subset.refl _) h
  | vmOvervoltage => exact kept_execVmOvervoltage .start (List.Subset.refl _) h
  | railOutOfWindow => exact kept_execRailOutOfWindow .start (List.Subset.refl _) _ h
  | railResetDelay => exact kept_execRailResetDelay .start (List.Subset.refl _) h
  | junctionWarning => exact kept_execJunctionWarning .start (List.Subset.refl _) h
  | junctionLimit => exact kept_execJunctionLimit .start (List.Subset.refl _) h
  | junctionShutdown => exact kept_execJunctionShutdown .start (List.Subset.refl _) h
  | supplyMonitorEnd => exact kept_execSupplyMonitorEnd .start (List.Subset.refl _) _ h
  | supplyValid => exact kept_execSupplyValid .start (List.Subset.refl _) h
  | pllLock => exact kept_execPllLock .start (List.Subset.refl _) _ _ _ _ h
  | supervisorRelease => exact kept_execSupervisorRelease .start (List.Subset.refl _) _ _ _ _ h
  | bootPrefer => exact kept_execBootPrefer .start (List.Subset.refl _) h
  | bootConfirm => exact kept_execBootConfirm .start (List.Subset.refl _) h
  | bootReady => exact kept_execBootReady .start (List.Subset.refl _) h
  | appDrainRequest => exact kept_execAppDrainRequest .start (List.Subset.refl _) _ h
  | appCoreDrain => exact kept_execAppCoreDrain .start (List.Subset.refl _) _ _ h
  | appCoreRelease => exact kept_execAppCoreRelease .start (List.Subset.refl _) _ _ h
  | gpioSet => exact kept_execGpioSet .start (List.Subset.refl _) _ h
  | gpioClear => exact kept_execGpioClear .start (List.Subset.refl _) _ h
  | gpioEdge => exact kept_execGpioEdge .start (List.Subset.refl _) _ _ h
  | converterWake => exact kept_execConverterWake .start (List.Subset.refl _) _ h
  | chargePumpWithinRange => exact kept_execChargePumpWithinRange .start (List.Subset.refl _) h
  | xhFltNPinChange => exact kept_execXhFltNPinChange .start (List.Subset.refl _) _ _ h
  | ethLinkUp => exact kept_execEthLinkUp .start (List.Subset.refl _) _ _ _ h
  | debugSessionStart => exact kept_execDebugSessionStart .start (List.Subset.refl _) _ h
  | debugSessionEnd => exact kept_execDebugSessionEnd .start (List.Subset.refl _) _ h
  | debugResume => exact kept_execDebugResume .start (List.Subset.refl _) _ _ h
  | tapExtest => exact kept_execTapExtest .start (List.Subset.refl _) _ h
  | tapSample => exact kept_execTapSample .start (List.Subset.refl _) _ h
  | supplyMeasurementUpdate => exact kept_execSupplyMeasurementUpdate .start (List.Subset.refl _) _ _ _ h

/-- No command may change the queue of waiting commands. -/
theorem pending_not_mem_mayTouch (c : Instr) : Part.pending ∉ mayTouch c := by
  cases c <;> exact of_decide_eq_false rfl

/-- A state with another queue of waiting commands is as sound. -/
theorem State.Sound.withPending (h : s.Sound) (cs : List Instr) : ({ s with pending := cs } : State).Sound :=
  ⟨h.mem, h.regs, h.staged, h.now⟩

theorem step_of_pending {rest : List Instr} (h : s.pending = c :: rest) : step s = exec c { s with pending := rest } := by
  unfold step
  rw [h]

theorem step_of_idle (h : s.pending = []) : step s = .next s.tick := by
  unfold step
  rw [h]

theorem tick_now (s : State) : s.tick.now = if s.clockRuns then stampAdd s.now 1 else s.now := by
  unfold State.tick
  split <;> rfl

/-- Settles O1, by the two forms of the queue. -/
theorem stepRunsFrontCommand : Obligations.StepRunsFrontCommand :=
  ⟨fun _ _ _ h => step_of_pending h,
   fun s h => ⟨s.tick, step_of_idle h, (Kept.start.tick (List.Subset.refl _)).same, tick_now s⟩⟩

/-- Settles O5: a command keeps the state sound by its law, and so does the idle tick. -/
theorem stepKeepsSound : Obligations.StepKeepsSound := by
  intro s t hs h
  cases hp : s.pending with
  | nil =>
    rw [step_of_idle hp] at h
    cases h
    exact (Kept.start.tick (List.Subset.refl _)).sound hs
  | cons c rest =>
    rw [step_of_pending hp] at h
    exact (kept_exec h).sound (hs.withPending rest)

/-- Settles O6: the parts are those of the command's law, and the queue is in none of the lists. -/
theorem onlyNamedPartsChange : Obligations.OnlyNamedPartsChange := fun c _ _ h =>
  have hsame := (kept_exec h).same
  ⟨hsame, hsame .pending (pending_not_mem_mayTouch c)⟩

end Sys2Proof.Machine
end

section
/-! SUPPORT. What is left as it was beside listed words or pages, a counter after one more event, and a report with its stamp. -/

namespace Sys2Proof.Machine

variable {s t u : State} {K : Nat → Prop}

/-- Beside the listed words, every register word is as it was. -/
theorem Spares.onlyWords {keys : List Nat} (h : Spares (· ∈ keys) s t) : OnlyWords keys s t := h.words

theorem Spares.onlyPages {pages : List Nat} (h : Spares (keyPage · ∈ pages) s t) : OnlyPages pages s t := h.words

/-- A word whose key may not change reads as before. -/
theorem Spares.word (h : Spares K s t) {p o : Nat} (hk : ¬ K (regKey p o)) : t.word p o = s.word p o := h.words _ hk

theorem Spares.rd (h : Spares K s t) {p : Nat} {f : Field} (hk : ¬ K (fieldKey p f)) : t.rd p f = s.rd p f :=
  rd_of_word (h.word hk)

theorem Spares.rdB (h : Spares K s t) {p : Nat} {f : Field} (hk : ¬ K (fieldKey p f)) : t.rdB p f = s.rdB p f := by
  unfold State.rdB
  rw [h.rd hk]

theorem Spares.count {s₀ : State} (h : Spares K s₀ s) {p : Nat} {f : Field} (hf : K (fieldKey p f))
    (hs : K (fieldKey p Reg.HDR.FLT_CNT_SAT)) : Spares K s₀ (s.count p f) :=
  .ite h (.ite (((h.wr hf _).wrB hs true).reportAs _) (h.wr hf _))

/-- A 16-bit counter that counts one event saturates at its largest value (R360). -/
theorem rd_count (s : State) (p : Nat) {f : Field} (hl : f.lo ≤ 16) (hw : f.width = 16) (ho : f.off ≠ 0xC) :
    (s.count p f).rd p f = counted (s.rd p f) := by
  have hv : s.rd p f < 2 ^ 16 := hw ▸ bitsAt_lt _ _ _
  have hself : ∀ v, v < 2 ^ 16 → (s.wr p f v).rd p f = v := fun v h => by
    rw [rd_wr_self p f v (by omega), hw, Nat.mod_eq_of_lt h]
  unfold State.count counted
  dsimp only
  split
  · next h => rw [h]; rfl
  · next hmax =>
    have hsat : s.rd p f + 1 < 2 ^ 16 := by omega
    split
    · rw [rd_congr (reportAs_regs _ _)]
      unfold State.wrB
      rw [rd_wr_off p Reg.HDR.FLT_CNT_SAT f _ ho, hself _ hsat]
      omega
    · rw [hself _ hsat]
      omega

theorem reportedAt_reportAs (s : State) (r : Report) (h : s.coll.stopped = false) :
    ReportedAt (s.reportAs r) r.cls r.code r.page r.detail r.stamp :=
  ⟨r, mem_reportAs r h, rfl, rfl, rfl, rfl, rfl⟩

theorem Spares.reportedAt {cls : FaultClass} {code page detail : Nat} {stamp : Option Nat} (h : Spares K s t)
    (hr : ReportedAt s cls code page detail stamp) : ReportedAt t cls code page detail stamp := by
  obtain ⟨r, hm, hr⟩ := hr
  exact ⟨r, h.reports hm, hr⟩

theorem mem_insertNat {k x : Nat} {xs : List Nat} : x ∈ insertNat k xs ↔ x = k ∨ x ∈ xs := by
  induction xs with
  | nil => simp [insertNat]
  | cons y ys ih =>
    unfold insertNat
    split
    · simp
    · split
      · simp_all
      · rw [List.mem_cons, ih, List.mem_cons]
        exact or_left_comm

theorem rdB_congr_rd {p : Nat} {f : Field} (h : t.rd p f = s.rd p f) : t.rdB p f = s.rdB p f := by
  unfold State.rdB
  rw [h]

/-- Beside the bit itself, a field of its register or of another keeps a one-bit field as it was. -/
theorem rdB_wr_field (p : Nat) (f g : Field) (v : Nat) (h : f.lo + f.width ≤ 32) (ho : g.off = f.off)
    (hd : g.lo + g.width ≤ f.lo ∨ f.lo + f.width ≤ g.lo) : (s.wr p f v).rdB p g = s.rdB p g :=
  rdB_congr_rd (rd_wr_field p f g v h ho hd)

end Sys2Proof.Machine
end

section
/-! PROOF. The time plane (O9). -/

namespace Sys2Proof.Machine

variable {s t u : State} {port p : Nat}

theorem readNow_of_port (h : port < 5) (h4 : port = 4 → s.compat = true) : s.readNow port = s.readNowL port := by
  unfold State.readNow
  rw [if_pos]
  rcases Nat.lt_or_ge port 4 with hp | hp
  · exact Or.inl hp
  · have hp : port = 4 := by omega
    exact Or.inr ⟨hp, h4 hp⟩

theorem tpShadow_readNowL_self (s : State) (port : Nat) : (s.readNowL port).tpShadow port = s.now / 2 ^ 32 :=
  tabGet_put_self _ _ _ _

theorem tpShadow_readNowL_ne (s : State) {port q : Nat} (h : q ≠ port) : (s.readNowL port).tpShadow q = s.tpShadow q :=
  tabGet_put_ne _ _ _ _ _ h

/-- A declared loss of the crystal changes the words of its instant, the crystal's bit and the request to return (R61). -/
theorem Spares.crystalLost (s : State) (inj : Bool) : Spares (· ∈ [fieldKey pgTP Reg.TP.XLOSS_AT_L_STAMP,
    fieldKey pgTP Reg.TP.XLOSS_AT_H_STAMP, fieldKey pgTP Reg.TP.STAT_XTAL_OK, fieldKey pgTP Reg.TP.CTL_XTAL_RET]) s
    (s.crystalLost inj) := by
  unfold State.crystalLost
  extract_lets v w
  exact Spares.otherParts (s := w) (.wrB (.wrB (.wr (.wr .start (by decide) _) (by decide) _) (by decide) _) (by decide) _)
    rfl rfl

theorem lossCanBeDeclared_of (hc : s.clockRuns = true) (hs : s.tp.switching = false)
    (hi : s.onInternal = false ∨ s.tp.returning = true) (hf : s.rdB pgTP Reg.TP.STAT_REF_FAIL = false) :
    s.lossCanBeDeclared = true := by
  unfold State.lossCanBeDeclared
  rcases hi with hi | hi <;> simp [hc, hs, hi, hf]

theorem crystalLoss_effect (h : s.lossCanBeDeclared = true) :
    s.crystalLoss.rd pgTP Reg.TP.XLOSS_AT_L_STAMP = s.now % 2 ^ 32 ∧
      s.crystalLoss.rd pgTP Reg.TP.XLOSS_AT_H_STAMP = s.now / 2 ^ 32 % 2 ^ 32 ∧
      s.crystalLoss.rdB pgTP Reg.TP.STAT_XTAL_OK = false ∧ s.crystalLoss.tp.switching = true ∧
      s.crystalLoss.tp.returning = false ∧ s.crystalLoss.tp.lossAt = s.now ∧
      Changes [.tp] [fieldKey pgTP Reg.TP.XLOSS_AT_L_STAMP, fieldKey pgTP Reg.TP.XLOSS_AT_H_STAMP,
        fieldKey pgTP Reg.TP.STAT_XTAL_OK, fieldKey pgTP Reg.TP.CTL_XTAL_RET] s s.crystalLoss := by
  unfold State.crystalLoss
  rw [if_pos h]
  obtain ⟨hl, hh, hx, hs, ha, -, -⟩ := crystalLost_effect s false
  exact ⟨hl, hh, hx, hs, rfl, ha, (Kept.start.crystalLost (List.Subset.refl _) false).same, (Spares.crystalLost s false).onlyWords⟩

/-- The state with another time plane. -/
def State.withTp (s : State) (x : TimePlane) : State := { s with tp := x }

theorem Spares.withTp {s₀ : State} {K : Nat → Prop} (h : Spares K s₀ s) (x : TimePlane) : Spares K s₀ (s.withTp x) :=
  h.otherParts rfl rfl

theorem Kept.withTp {s₀ : State} {L : List Part} (h : Kept L s₀ s) (hL : [.tp] ⊆ L) (x : TimePlane) : Kept L s₀ (s.withTp x) :=
  h.mk_of [.tp] hL fun p hp => by cases p <;> first | exact absurd (by decide) hp | rfl

/-- The time plane on its internal reference, with the loss counted (R61). -/
def State.switchedOver (s : State) : State :=
  ((s.withTp { s.tp with switching := false }).wrB pgTP Reg.TP.STAT_REF true).count pgTP Reg.TP.XLOSS_CNT_COUNT

theorem switchedOver_tp (s : State) : s.switchedOver.tp = { s.tp with switching := false } :=
  ((Kept.start.wrB (L := [.regs, .pushes, .coll]) (by decide) _ _ _).count (by decide) _ _).same .tp (by decide)

theorem switchedOver_rd (s : State) : s.switchedOver.onInternal = true ∧
    s.switchedOver.rd pgTP Reg.TP.XLOSS_CNT_COUNT = counted (s.rd pgTP Reg.TP.XLOSS_CNT_COUNT) := by
  refine ⟨?_, (rd_count _ _ (by decide) rfl (by decide)).trans (congrArg counted (rd_wr_off pgTP _ _ _ (by decide)))⟩
  exact (Spares.rdB (K := (· ∈ [fieldKey pgTP Reg.TP.XLOSS_CNT_COUNT, fieldKey pgTP Reg.HDR.FLT_CNT_SAT]))
    (.count .start (by decide) (by decide)) (by decide)).trans (rdB_wrB_self _ _ _ (by decide) rfl)

theorem Spares.switchedOver (s : State) : Spares (keyPage · = pgTP) s s.switchedOver := by
  unfold State.switchedOver
  exact .count (.wrB (.withTp .start _) (by decide) true) (by decide) (by decide)

/-- The report of a completed switch-over, with the stamp of the loss (R61). -/
def State.lossReport (s : State) : Report :=
  ⟨0xD4, .u, pgTP, 0, .timePlane, some s.tp.lossAt, s.tp.lossInjected, false⟩

theorem switchoverComplete_of_switching (h : s.tp.switching = true) :
    s.switchoverComplete = s.switchedOver.reportAs s.lossReport := by
  have htp := switchedOver_tp s
  unfold State.switchoverComplete
  rw [if_pos h]
  change s.switchedOver.reportAs s.switchedOver.lossReport = _
  unfold State.lossReport
  rw [htp]

/-- The pages whose interfaces stop with the crystal (R63). -/
theorem Spares.ethStop {s₀ : State} {K : Nat → Prop} (h : Spares K s₀ s) (n : Nat)
    (hK : K (fieldKey (pgETH n) Reg.ETH.ESTAT_LINK)) : Spares K s₀ (s.ethStop n) :=
  .wrB (.wrB h hK _) (f := Reg.ETH.ESTAT_PLCA) hK _

theorem Spares.reportFab {s₀ : State} {K : Nat → Prop} (h : Spares K s₀ s) (cls : FaultClass) (code page detail : Nat) (inj : Bool) :
    Spares K s₀ (s.reportFab cls code page detail inj) := h.reportAs _

/-- The CAN and Ethernet controllers that a switch-over stops (R63). -/
def State.interfacesStop (s : State) (cans eths : List Nat) : State :=
  (s.each cans fun s n => s.reportFab .c 0xB4 (pgCAN n)).each eths fun s n => (s.ethStop n).reportFab .c 0xB4 (pgETH n)

theorem Spares.interfacesStop (s : State) (cans : List Nat) {eths : List Nat} (he : ∀ n ∈ eths, n < 2) :
    Spares (keyPage · ∈ [pgETH 0, pgETH 1]) s (s.interfacesStop cans eths) := by
  refine .each (.each .start fun _ n _ h => h.reportFab _ _ _ _ _) fun _ n hn h => (h.ethStop n ?_).reportFab _ _ _ _ _
  rcases (by have := he n hn; omega : n = 0 ∨ n = 1) with rfl | rfl <;> decide

theorem interfacesStop_tp (s : State) (cans eths : List Nat) : (s.interfacesStop cans eths).tp = s.tp :=
  (((Kept.start (s := s)).each fun _ n h => h.reportFab (L := [.regs, .pushes, .coll]) (by decide) .c 0xB4 (pgCAN n) 0 false).each
    fun _ n h => (h.ethStop (by decide) n).reportFab (by decide) .c 0xB4 (pgETH n) 0 false).same .tp (by decide)

theorem referenceSwitched_of_switching (h : s.tp.switching = true) :
    ∃ cans eths, (∀ n ∈ eths, n < 2) ∧ s.referenceSwitched = s.switchoverComplete.interfacesStop cans eths := by
  refine ⟨(List.range 3).filter s.canRuns, (List.range 2).filter s.ethRuns,
    fun n hn => List.mem_range.1 (List.mem_of_mem_filter hn), ?_⟩
  unfold State.referenceSwitched
  exact if_neg (not_not_intro h)

theorem referenceSwitched_effect (h : s.tp.switching = true) (hc : s.coll.stopped = false) :
    s.referenceSwitched.onInternal = true ∧ s.referenceSwitched.tp.switching = false ∧
      s.referenceSwitched.rd pgTP Reg.TP.XLOSS_CNT_COUNT = counted (s.rd pgTP Reg.TP.XLOSS_CNT_COUNT) ∧
      ReportedAt s.referenceSwitched .u 0xD4 pgTP 0 (some s.tp.lossAt) ∧
      Touches [.regs, .pushes, .tp, .coll] s s.referenceSwitched ∧ OnlyPages [pgTP, pgETH 0, pgETH 1] s s.referenceSwitched := by
  have htouch := (Kept.start.referenceSwitched (L := [.regs, .pushes, .tp, .coll]) (by decide) (s := s)).same
  obtain ⟨cans, eths, he, heq⟩ := referenceSwitched_of_switching h
  obtain ⟨hon, hn⟩ := switchedOver_rd s
  have hsw := Spares.switchedOver s
  have hr := Spares.interfacesStop (s.switchedOver.reportAs s.lossReport) cans he
  rw [switchoverComplete_of_switching h] at heq
  have hregs := reportAs_regs s.switchedOver s.lossReport
  have hreport := reportedAt_reportAs s.switchedOver s.lossReport (hsw.stopped.trans hc)
  have hall : Spares (keyPage · ∈ [pgTP, pgETH 0, pgETH 1]) s s.referenceSwitched := by
    rw [heq]
    exact ((hsw.mono fun k hk => by simp [hk]).reportAs _).trans (hr.mono fun k hk => List.mem_cons_of_mem _ hk)
  refine ⟨?_, ?_, ?_, ?_, htouch, hall.onlyPages⟩ <;> rw [heq]
  · exact (hr.rdB (by decide)).trans ((rdB_congr hregs _ _).trans hon)
  · rw [interfacesStop_tp, reportAs_tp, switchedOver_tp]
  · exact (hr.rd (by decide)).trans ((rd_congr hregs _ _).trans hn)
  · exact hr.reportedAt hreport

theorem returnRequest_accepted (hi : s.onInternal = true) (hx : s.rdB pgTP Reg.TP.STAT_XTAL_OK = true)
    (hr : s.tp.returning = false) (hs : s.tp.switching = false) : s.returnRequest =
      { s.wrB pgTP Reg.TP.CTL_XTAL_RET true with tp := { s.tp with returning := true } } := by
  unfold State.returnRequest
  rw [if_pos ⟨hi, hx, by simp [hr], by simp [hs]⟩]

/-- Without a valid crystal a request to return has no effect (R64). -/
theorem returnRequest_refused (hx : s.rdB pgTP Reg.TP.STAT_XTAL_OK = false) : s.returnRequest = s := by
  unfold State.returnRequest
  rw [if_neg (by simp [hx])]

/-- The time plane back on the crystal (R64). -/
def State.returned (s : State) : State :=
  ((s.withTp { s.tp with returning := false }).wrB pgTP Reg.TP.STAT_REF false).wrB pgTP Reg.TP.CTL_XTAL_RET false

theorem returnComplete_of_returning (h : s.tp.returning = true) : s.returnComplete = s.returned.reportAs
    { code := 0xD5, cls := .c, page := pgTP, detail := 0, origin := .timePlane, stamp := some s.now, keep := true } := by
  have hn : s.returned.now = s.now := (wrB_now _ _ _ _).trans (wrB_now _ _ _ _)
  unfold State.returnComplete
  rw [if_pos h, ← hn]
  rfl

theorem returnComplete_effect (h : s.tp.returning = true) (hc : s.coll.stopped = false) :
    s.returnComplete.tp = { s.tp with returning := false } ∧ s.returnComplete.onInternal = false ∧
      s.returnComplete.rdB pgTP Reg.TP.CTL_XTAL_RET = false ∧ ReportedAt s.returnComplete .c 0xD5 pgTP 0 (some s.now) ∧
      Changes [.tp, .coll] [fieldKey pgTP Reg.TP.STAT_REF, fieldKey pgTP Reg.TP.CTL_XTAL_RET] s s.returnComplete := by
  have htouch := (Kept.start.returnComplete (L := [.regs, .pushes, .tp, .coll]) (by decide) (s := s)).same
  have hsp : Spares (· ∈ [fieldKey pgTP Reg.TP.STAT_REF, fieldKey pgTP Reg.TP.CTL_XTAL_RET]) s s.returned := by
    unfold State.returned
    exact .wrB (.wrB (.withTp .start _) (by decide) _) (by decide) _
  rw [returnComplete_of_returning h] at htouch ⊢
  refine ⟨?_, ?_, ?_, reportedAt_reportAs _ _ (hsp.stopped.trans hc), htouch, (hsp.reportAs _).onlyWords⟩
  · exact (reportAs_tp _ _).trans ((wrB_tp _ _ _ _).trans (wrB_tp _ _ _ _))
  · refine (rdB_congr (reportAs_regs _ _) _ _).trans ((rdB_wr_off pgTP Reg.TP.CTL_XTAL_RET _ (by decide)).trans ?_)
    exact rdB_wrB_self _ _ _ (by decide) rfl
  · exact (rdB_congr (reportAs_regs _ _) _ _).trans (rdB_wrB_self _ _ _ (by decide) rfl)

theorem xtalOkChange_of_internal (ok : Bool) (hc : s.clockRuns = true) (hr : s.tp.returning = false)
    (hs : s.tp.switching = false) (hf : s.rdB pgTP Reg.TP.STAT_REF_FAIL = false) (hi : s.onInternal = true) :
    s.xtalOkChange ok = s.wrB pgTP Reg.TP.STAT_XTAL_OK ok := by
  unfold State.xtalOkChange
  rw [if_pos ⟨hc, by simp [hr], by simp [hs], by simp [hf], Or.inl hi⟩]

/-- Beside one word, a write of a field changes nothing (R414). -/
theorem changes_wr (s : State) (p : Nat) (f : Field) (v : Nat) : Changes [] [fieldKey p f] s (s.wr p f v) :=
  ⟨(Kept.start.wr (List.Subset.refl _) _ _ _).same, onlyWords_setWord _ _ _ _⟩

theorem tickCheck_on_internal (hc : s.clockRuns = true) (hi : s.onInternal = true) (deviates refFails : Bool) :
    s.tickCheck deviates refFails = if deviates then s.timePlaneLost else s := by
  unfold State.tickCheck
  rw [if_neg (not_not_intro hc), if_pos hi]

theorem tickCheck_on_crystal (hc : s.clockRuns = true) (hi : s.onInternal = false) (deviates refFails : Bool) :
    s.tickCheck deviates refFails = (if deviates then
      (if s.rdB pgTP Reg.TP.STAT_REF_FAIL then s.timePlaneLost else s.rcClockFailed) else s).refCheck refFails := by
  unfold State.tickCheck
  rw [if_neg (not_not_intro hc), if_neg (by simp [hi])]

theorem openSto_tp (s : State) (cause : Nat) : (s.openSto cause).tp = s.tp :=
  (Kept.start.openSto (List.Subset.refl _) cause).same .tp (by decide)

/-- A fault that the Dike reports and answers by opening STO: the fault stays on its way, and STO is open (R65, R372). -/
theorem dikeFault_effect (s : State) (code page cause : Nat) (hc : s.coll.stopped = false) :
    ReportedAt ((s.reportDike .f code page 0 false).openSto cause) .f code page 0 (some s.now) ∧
      ((s.reportDike .f code page 0 false).openSto cause).stoOpen = true :=
  ⟨(Spares.openSto _ cause).reportedAt (reportedAt_reportAs s ⟨code, .f, page, 0, .dike, some s.now, false, false⟩ hc),
    openSto_opens _ cause⟩

theorem timePlaneLost_effect (h : s.tp.lost = false) (hc : s.coll.stopped = false) :
    s.timePlaneLost.tp.lost = true ∧ ReportedAt s.timePlaneLost .f 0xD6 pgTP 0 (some s.now) ∧ s.timePlaneLost.stoOpen = true := by
  unfold State.timePlaneLost
  rw [if_neg (by simp [h])]
  exact ⟨by rw [openSto_tp, reportDike_tp], dikeFault_effect (s.withTp { s.tp with lost := true }) _ _ _ hc⟩

theorem rcClockFailed_effect (h : s.tp.rcFailed = false) (hc : s.coll.stopped = false) :
    s.rcClockFailed.tp.rcFailed = true ∧ ReportedAt s.rcClockFailed .f 0xE0 pgDIKE 0 (some s.now) ∧
      s.rcClockFailed.stoOpen = true := by
  unfold State.rcClockFailed
  rw [if_neg (by simp [h])]
  exact ⟨by rw [openSto_tp, reportDike_tp], dikeFault_effect (s.withTp { s.tp with rcFailed := true }) _ _ _ hc⟩

/-- The state with a count of checks that the internal reference has passed in a row (R65). -/
def State.withPasses (s : State) (n : Nat) : State := s.withTp { s.tp with refPasses := n }

/-- Sixteen passes in a row make the internal reference good again (R65). -/
def State.passesCounted (s : State) (n : Nat) : State :=
  if n = 16 then (s.withPasses n).wrB pgTP Reg.TP.STAT_REF_FAIL false else s.withPasses n

theorem passesCounted_effect (s : State) (n : Nat) : (s.passesCounted n).tp = { s.tp with refPasses := n } ∧
    Spares (· ∈ [fieldKey pgTP Reg.TP.STAT_REF_FAIL]) s (s.passesCounted n) ∧
    Touches [.regs, .pushes, .tp] s (s.passesCounted n) := by
  have hk : Kept [.regs, .pushes, .tp] s (s.withPasses n) := Kept.start.withTp (by decide) _
  have hs : Spares (· ∈ [fieldKey pgTP Reg.TP.STAT_REF_FAIL]) s (s.withPasses n) := .withTp .start _
  unfold State.passesCounted
  refine ⟨?_, .ite (hs.wrB (by decide) _) hs, ?_⟩ <;> split
  · exact wrB_tp _ _ _ _
  · rfl
  · exact (hk.wrB (by decide) _ _ _).same
  · exact hk.same

theorem rdB_passesCounted (h : s.rdB pgTP Reg.TP.STAT_REF_FAIL = true) (n : Nat) :
    (s.passesCounted n).rdB pgTP Reg.TP.STAT_REF_FAIL = decide (n ≠ 16) := by
  unfold State.passesCounted
  split
  · next h16 => rw [rdB_wrB_self _ _ _ (by decide) rfl, decide_eq_false (not_not_intro h16)]
  · next h16 =>
    rw [decide_eq_true h16]
    exact h

theorem refCheck_of_failing (h : s.rdB pgTP Reg.TP.STAT_REF_FAIL = true) (fails : Bool) :
    s.refCheck fails = s.passesCounted (if fails then 0 else s.tp.refPasses + 1) := by
  unfold State.refCheck
  rw [if_pos h]
  rfl

theorem refCheck_begins_to_fail (h : s.rdB pgTP Reg.TP.STAT_REF_FAIL = false) :
    s.refCheck true = ((s.withPasses 0).wrB pgTP Reg.TP.STAT_REF_FAIL true).reportDike .u 0xDD pgTP := by
  unfold State.refCheck
  rw [if_neg (by simp [h]), if_pos rfl]
  rfl

theorem refCheck_of_good (h : s.rdB pgTP Reg.TP.STAT_REF_FAIL = false) : s.refCheck false = s := by
  unfold State.refCheck
  rw [if_neg (by simp [h]), if_neg (by simp)]

/-- The check of the reference changes its own bit only, and no verdict on the RC clock (R65). -/
theorem refCheck_spares (s : State) (fails : Bool) : Spares (· ∈ [fieldKey pgTP Reg.TP.STAT_REF_FAIL]) s (s.refCheck fails) ∧
    (s.refCheck fails).tp.rcFailed = s.tp.rcFailed := by
  cases hf : s.rdB pgTP Reg.TP.STAT_REF_FAIL with
  | true =>
    obtain ⟨htp, hs, -⟩ := passesCounted_effect s (if fails then 0 else s.tp.refPasses + 1)
    rw [refCheck_of_failing hf]
    exact ⟨hs, by rw [htp]⟩
  | false =>
    cases fails with
    | true =>
      rw [refCheck_begins_to_fail hf, reportDike_tp, wrB_tp]
      exact ⟨.reportDike (.wrB (.withTp .start _) (by decide) true) _ _ _ _ _, rfl⟩
    | false =>
      rw [refCheck_of_good hf]
      exact ⟨.start, rfl⟩

theorem refCheck_fails (h : s.rdB pgTP Reg.TP.STAT_REF_FAIL = false) (hc : s.coll.stopped = false) :
    (s.refCheck true).rdB pgTP Reg.TP.STAT_REF_FAIL = true ∧ (s.refCheck true).tp.refPasses = 0 ∧
      ReportedAt (s.refCheck true) .u 0xDD pgTP 0 (some s.now) ∧
      Changes [.tp, .coll] [fieldKey pgTP Reg.TP.STAT_REF_FAIL] s (s.refCheck true) := by
  have htouch := (Kept.start.refCheck (L := [.regs, .pushes, .tp, .coll]) (by decide) true (s := s)).same
  refine ⟨?_, ?_, ?_, htouch, (refCheck_spares s true).1.onlyWords⟩ <;> rw [refCheck_begins_to_fail h]
  · exact (rdB_congr (reportDike_regs _ _ _ _ _ _) _ _).trans (rdB_wrB_self _ _ _ (by decide) rfl)
  · rw [reportDike_tp, wrB_tp]
    rfl
  · have hn : ((s.withPasses 0).wrB pgTP Reg.TP.STAT_REF_FAIL true).now = s.now := wrB_now _ _ _ _
    rw [← hn]
    exact reportedAt_reportAs _ ⟨0xDD, .u, pgTP, 0, .dike, some _, false, false⟩ ((congrArg _ (wrB_coll _ _ _ _)).trans hc)

theorem refCheck_passes (h : s.rdB pgTP Reg.TP.STAT_REF_FAIL = true) :
    (s.refCheck false).tp = { s.tp with refPasses := s.tp.refPasses + 1 } ∧
      (s.refCheck false).rdB pgTP Reg.TP.STAT_REF_FAIL = decide (s.tp.refPasses + 1 ≠ 16) ∧
      Changes [.tp] [fieldKey pgTP Reg.TP.STAT_REF_FAIL] s (s.refCheck false) := by
  obtain ⟨htp, hs, ht⟩ := passesCounted_effect s (s.tp.refPasses + 1)
  rw [refCheck_of_failing h]
  exact ⟨htp, rdB_passesCounted h _, ht, hs.onlyWords⟩

theorem recalibrate_out (hp : channelPages.contains p = true) (hf : p ∉ s.tp.fallback) :
    s.recalibrate p false = { s with tp := { s.tp with fallback := insertNat p s.tp.fallback } }.reportTp .c 0xD7 p := by
  unfold State.recalibrate
  rw [if_neg (not_not_intro hp), if_neg (by simp), if_neg (by simpa using hf)]

theorem recalibrate_in (hp : channelPages.contains p = true) :
    s.recalibrate p true = { s with tp := { s.tp with fallback := s.tp.fallback.filter (· ≠ p) } } := by
  unfold State.recalibrate
  rw [if_neg (not_not_intro hp), if_pos rfl]

/-- A tick check that finds the RC clock off, on the crystal (R65, R372). -/
theorem tickCheck_rcFails (hc : s.clockRuns = true) (hi : s.onInternal = false) (hf : s.rdB pgTP Reg.TP.STAT_REF_FAIL = false)
    (hr : s.tp.rcFailed = false) (hs : s.coll.stopped = false) (refFails : Bool) :
    (s.tickCheck true refFails).tp.rcFailed = true ∧
      ReportedAt (s.tickCheck true refFails) .f 0xE0 pgDIKE 0 (some s.now) ∧ (s.tickCheck true refFails).stoOpen = true := by
  obtain ⟨h₁, h₂, h₃⟩ := rcClockFailed_effect hr hs
  obtain ⟨hsp, hrc⟩ := refCheck_spares s.rcClockFailed refFails
  rw [tickCheck_on_crystal hc hi, if_pos rfl, if_neg (by simp [hf])]
  exact ⟨hrc.trans h₁, hsp.reportedAt h₂, (hsp.rdB (by decide)).trans h₃⟩

/-- Settles O9, by the forms of the commands. -/
theorem timePlaneEvents : Obligations.TimePlaneEvents := by
  refine ⟨fun s port h4 => ⟨_, rfl, ?_⟩,
    fun s hc hs hi hf => ⟨_, rfl, crystalLoss_effect (lossCanBeDeclared_of hc hs hi hf)⟩,
    fun s h hc => ⟨_, rfl, referenceSwitched_effect h hc⟩,
    fun s hi hx hr hs => ⟨_, rfl, ?_⟩,
    fun s _ hx => congrArg Host.Outcome.next (returnRequest_refused hx),
    fun s h hc => ⟨_, rfl, returnComplete_effect h hc⟩,
    fun s ok hc hr hs hf hi => ⟨_, rfl, ?_⟩,
    fun s refFails hc hi hl hs => ⟨_, rfl, ?_⟩,
    fun s refFails hc hi => congrArg Host.Outcome.next (tickCheck_on_internal hc hi false refFails),
    fun s refFails hc hi hf hr hs => ⟨_, rfl, tickCheck_rcFails hc hi hf hr hs refFails⟩,
    fun s hc hi hf hs => ⟨_, rfl, ?_⟩,
    fun s hc hi hf => ⟨_, rfl, ?_⟩,
    fun s ch hp hf hs => ⟨_, rfl, ?_⟩,
    fun s ch hp => ⟨_, rfl, ?_⟩⟩
  · have htouch := (Kept.start.readNow (L := [.answer, .tp]) (by decide) port (s := s)).same
    rw [readNow_of_port port.isLt fun h => h4 (Fin.ext h)] at htouch ⊢
    exact ⟨rfl, tpShadow_readNowL_self s port, fun q hq => tpShadow_readNowL_ne s hq, htouch⟩
  · have hsp : Spares (· ∈ [fieldKey pgTP Reg.TP.CTL_XTAL_RET]) s (s.wrB pgTP Reg.TP.CTL_XTAL_RET true) :=
      .wrB .start (by decide) _
    rw [returnRequest_accepted hi hx hr hs]
    exact ⟨rfl, rdB_wrB_self _ _ _ (by decide) rfl,
      ((Kept.start.wrB (L := [.regs, .pushes, .tp]) (by decide) pgTP Reg.TP.CTL_XTAL_RET true).withTp (by decide) _).same,
      hsp.onlyWords⟩
  · rw [xtalOkChange_of_internal ok hc hr hs hf hi]
    exact ⟨rdB_wrB_self _ _ _ (by decide) rfl, changes_wr _ _ _ _⟩
  · rw [tickCheck_on_internal hc hi, if_pos rfl]
    exact timePlaneLost_effect hl hs
  · rw [tickCheck_on_crystal hc hi, if_neg (by simp)]
    exact refCheck_fails hf hs
  · rw [tickCheck_on_crystal hc hi, if_neg (by simp)]
    exact refCheck_passes hf
  · have htouch := (Kept.start.recalibrate (L := [.tp, .coll]) (by decide) ch false (s := s)).same
    rw [recalibrate_out hp hf] at htouch ⊢
    exact ⟨fun q => by rw [reportTp_tp]; exact mem_insertNat,
      reportedAt_reportAs (s.withTp _) ⟨0xD7, .c, ch, 0, .timePlane, some s.now, false, false⟩ hs, htouch⟩
  · rw [recalibrate_in hp]
    exact ⟨fun q => by simp [and_comm], (Kept.start.withTp (List.Subset.refl _) _).same⟩

end Sys2Proof.Machine
end

section
/-! SUPPORT. The steps that an opening of STO is made of: writes of words of the SAF page and of stages, agreement events, reports,
and changes of parts other than the registers and the collector. Whatever each of these keeps, an opening of STO keeps. -/

namespace Sys2Proof.Machine

/-- A state that an opening of STO can lead to from `s₀`, step by step (R324, R325). -/
inductive Reacts (s₀ : State) : State → Prop
  | start : Reacts s₀ s₀
  | word {s : State} {p o : Nat} (h : Reacts s₀ s) (hp : p = pgSAF ∨ 80 ≤ p) (ho : o ≠ 0xC ∧ o < 0x2000000) (w : Word) :
      Reacts s₀ (s.setWord p o w)
  | event {s : State} (h : Reacts s₀ s) (n : Nat) : Reacts s₀ (s.agrEvent n)
  | report {s : State} (h : Reacts s₀ s) (r : Report) : Reacts s₀ (s.reportAs r)
  | parts {s t : State} (h : Reacts s₀ s) (hr : t.regs = s.regs) (hc : t.coll = s.coll) : Reacts s₀ t

variable {s₀ s t : State}

theorem Reacts.ite {c : Prop} [Decidable c] (hs : Reacts s₀ s) (ht : Reacts s₀ t) : Reacts s₀ (if c then s else t) := by
  split
  · exact hs
  · exact ht

theorem Reacts.each {α : Type} {xs : List α} {f : State → α → State} (h : Reacts s₀ s)
    (hf : ∀ s x, Reacts s₀ s → Reacts s₀ (f s x)) : Reacts s₀ (s.each xs f) := by
  unfold State.each
  induction xs generalizing s with
  | nil => exact h
  | cons x xs ih => exact ih (hf s x h)

variable (h : Reacts s₀ s)
include h

theorem Reacts.saf {f : Field} (hf : f.off ≠ 0xC ∧ f.off < 0x2000000) (v : Nat) : Reacts s₀ (s.wr pgSAF f v) := h.word (.inl rfl) hf _

theorem Reacts.stage (st : Nat) {f : Field} (hf : f.off ≠ 0xC ∧ f.off < 0x2000000) (v : Nat) : Reacts s₀ (s.wr (pgSG st) f v) :=
  h.word (.inr (Nat.le_add_right 80 st)) hf _

theorem Reacts.stageWord (st : Nat) {o : Nat} (ho : o ≠ 0xC ∧ o < 0x2000000) (w : Word) : Reacts s₀ (s.setWord (pgSG st) o w) :=
  h.word (.inr (Nat.le_add_right 80 st)) ho _

theorem Reacts.setIn (st : Nat) {k : Nat} (hk : k < 6) (w : Word) : Reacts s₀ (s.setIn st k w) :=
  h.stageWord st (by omega) w

theorem Reacts.reportTp (cls : FaultClass) (code page detail : Nat) (inj : Bool) :
    Reacts s₀ (s.reportTp cls code page detail inj) := h.report _

theorem Reacts.setStage (st : Nat) (x : Stage) : Reacts s₀ (s.setStage st x) := h.parts rfl rfl

theorem Reacts.setMode (st m : Nat) (host : Bool) : Reacts s₀ (s.setMode st m host) := by
  have hm := fun x => (((h.stage st (f := Reg.SGT.STAT_MODE) (by decide) m).stage st (f := Reg.SGT.STAT_STATE) (by decide)
    (if m = 0 then 0 else 2)).stage st (f := Reg.SGW.IN_VALUE 0) (by decide) m).setStage st x
  exact .ite (hm _) ((hm _).event 4)

theorem Reacts.rearm (p o : Nat) : Reacts s₀ (s.rearm p o) := .ite (h.parts rfl rfl) h

theorem Reacts.driveLeg (p : Nat) (d : LegDrive) : Reacts s₀ (s.driveLeg p d) := by
  have hc := fun c => h.parts (t := s.setChan p c) rfl rfl
  exact .ite (((hc _).rearm p 0).rearm p 1) (hc _)

theorem Reacts.showLegs (st : Nat) : Reacts s₀ (s.showLegs st) :=
  .ite ((h.stage st (by decide) _).stage st (by decide) _) (h.stage st (by decide) _)

theorem Reacts.setLegCode (st set code : Nat) : Reacts s₀ (s.setLegCode st set code) :=
  ((h.setStage st _).each fun _ p g => g.driveLeg p _).showLegs st

theorem Reacts.setAllLegs (st code : Nat) : Reacts s₀ (s.setAllLegs st code) :=
  .ite ((h.setLegCode st 0 code).setLegCode st 1 code) (h.setLegCode st 0 code)

theorem Reacts.tracShow (st : Nat) : Reacts s₀ (s.tracShow st) := (h.setIn st (k := 1) (by decide) _).setIn st (k := 3) (by decide) _

theorem Reacts.tracEnter (st m legA legB : Nat) (hold react offPend revPend host : Bool) :
    Reacts s₀ (s.tracEnter st m legA legB hold react offPend revPend host) :=
  ((((((((h.setMode st m host).stage st (by decide) _).stage st (by decide) _).stage st (by decide) _).stage st
    (by decide) _).setStage st _).setLegCode st 0 legA).setLegCode st 1 legB).tracShow st

theorem Reacts.tracHold (st : Nat) : Reacts s₀ (s.tracHold st) := (h.setStage st _).tracEnter st _ _ _ _ _ _ _ _

theorem Reacts.convShow (st : Nat) : Reacts s₀ (s.convShow st) := h.setIn st (k := 1) (by decide) _

theorem Reacts.setRef (st : Nat) (w : Word) : Reacts s₀ (s.setRef st w) := (h.stageWord st (by decide) w).setIn st (k := 2) (by decide) w

theorem Reacts.setS2 (closed : Bool) : Reacts s₀ (s.setS2 closed) :=
  Reacts.convShow (h.stage 2 (f := Reg.SGC.STAT_S2) (by decide) (bit closed)) 2

theorem Reacts.convStop (st : Nat) (host : Bool) : Reacts s₀ (s.convStop st host) :=
  ((h.setMode st 4 host).setStage st _).convShow st

theorem Reacts.releaseOffPend : Reacts s₀ s.releaseOffPend :=
  .ite (Reacts.convStop (h.stage 2 (f := Reg.SGC.STAT_OFF_PEND) (by decide) (bit false)) 2 _) h

theorem Reacts.convTripOne (st cause : Nat) : Reacts s₀ (s.convTripOne st cause) := by
  have hm := ((h.stage st (f := Reg.SGC.TRIP_CAUSE) (by decide) cause).stage st (f := Reg.SGC.STAT_OFF_PEND) (by decide)
    (bit false)).setMode st 5 false
  have hr := (hm.setAllLegs st (if cause = 9 then 2 else 1)).setRef st 0
  have hs := (Reacts.convShow (Reacts.ite (c := (decide (st = 2)) = true) (hr.setS2 false) hr) st).reportTp .u
    (tripFault cause) (pgSG st) 0 false
  exact .ite hs.releaseOffPend hs

theorem Reacts.convTrip (st cause : Nat) : Reacts s₀ (s.convTrip st cause) :=
  .ite (.ite ((h.convTripOne st cause).convTripOne 3 8) (h.convTripOne st cause)) h

theorem Reacts.actShow (st : Nat) : Reacts s₀ (s.actShow st) := ((h.setIn st (k := 1) (by decide) _).setIn st (k := 4) (by decide) _).setIn st (k := 5) (by decide) _

theorem Reacts.actEnter (st m : Nat) (host : Bool) : Reacts s₀ (s.actEnter st m host) := by
  have hp := (((h.setMode st m host).setAllLegs st (actLegCode m)).stage st (f := Reg.SGA.STAT_REV_PEND) (by decide)
    (bit (m == 3))).stage st (f := Reg.SGA.STAT_HOLD_PEND) (by decide) (bit false)
  exact Reacts.actShow (.ite ((hp.stageWord st (by decide) _).setIn st (k := 2) (by decide) _) hp) st

theorem Reacts.actTrip (st cause : Nat) : Reacts s₀ (s.actTrip st cause) :=
  .ite h (((h.stage st (by decide) _).actEnter st 5 _).report _)

theorem Reacts.stoReaction (st : Nat) : Reacts s₀ (s.stoReaction st) := by
  have hres : Reacts s₀ (if s.decel st then s.wr pgSAF (ssResultField st) 6 else s) := by
    refine .ite (h.saf ?_ 6) h
    unfold ssResultField
    split <;> decide
  exact .ite (.ite h (.ite (hres.setAllLegs st 1) (hres.tracHold st))) (.ite h (.ite (h.convTrip st 1) (h.actTrip st 1)))

theorem Reacts.endTest : Reacts s₀ s.endTest :=
  Reacts.parts ((h.saf (f := Reg.SAF.STO_STAT_TEST_ACT) (by decide) (bit false)).saf (f := Reg.SAF.STO_STAT_TEST_SW) (by decide) 0)
    rfl rfl

theorem Reacts.openedSto (cause : Nat) : Reacts s₀ (s.openedSto cause) := by
  have hp : Reacts s₀ (s.stoPaths true true true true) :=
    (((h.saf (by decide) _).saf (by decide) _).saf (by decide) _).saf (by decide) _
  have hc := (hp.saf (f := Reg.SAF.STO_STAT_OPEN) (by decide) (bit true)).saf (f := Reg.SAF.STO_STAT_CAUSE) (by decide) cause
  unfold State.openedSto
  extract_lets u v
  have hv : Reacts s₀ v := (hc.saf (f := Reg.SAF.STO_AT_L_STAMP) (by decide) _).saf (f := Reg.SAF.STO_AT_H_STAMP) (by decide) _
  clear_value v
  refine Reacts.report ?_ _
  exact hv.parts rfl rfl

theorem Reacts.openSto (cause : Nat) : Reacts s₀ (s.openSto cause) := by
  cases ho : s.stoFullyOpen with
  | false =>
    rw [openSto_of_not_open ho]
    have hs : Reacts s₀ (if s.sto.test.isSome then (s.openedSto cause).endTest.reportDike .c 0x8F pgSAF else s.openedSto cause) :=
      .ite ((h.openedSto cause).endTest.report _) (h.openedSto cause)
    exact (hs.each fun _ st g => g.stoReaction st).each fun _ st g => g.showLegs st
  | true =>
    unfold State.openSto
    rw [if_pos ho]
    exact .ite (h.saf (by decide) _) h

omit h

/-- No page's fault word changes on the way (R359). -/
theorem Reacts.fltWord (h : Reacts s₀ s) (p : Nat) : s.word p 0xC = s₀.word p 0xC := by
  have hne {q o : Nat} (ho : o ≠ 0xC ∧ o < 0x2000000) : regKey p 0xC ≠ regKey q o := fun he =>
    ho.1 ((regKey_inj (by decide) ho.2).1 he).2.symm
  induction h with
  | start => rfl
  | word _ _ ho w ih => exact (word_setWord_ne w (hne ho)).trans ih
  | event _ n ih => exact (word_setWord_ne _ (hne (by decide))).trans ih
  | report _ r ih => exact (word_congr (reportAs_regs _ _) _ _).trans ih
  | parts _ hr _ ih => exact (word_congr hr _ _).trans ih

/-- A word below the stage pages, and neither of the SAF page nor of the supervisor's, stays on the way. -/
theorem Reacts.word_below (h : Reacts s₀ s) {p o : Nat} (hp : p < 80) (hsaf : p ≠ pgSAF) (hsup : p ≠ pgSUP) (ho : o < 0x2000000) :
    s.word p o = s₀.word p o := by
  induction h with
  | start => rfl
  | @word u q _ _ hq hoq w ih =>
    have hpq : p ≠ q := fun he => hq.elim (fun h => hsaf (he.trans h)) (by omega)
    exact (word_setWord_page w hpq hoq.2 ho).trans ih
  | event _ n ih => exact (word_setWord_page _ hsup (by decide) ho).trans ih
  | report _ r ih => exact (word_congr (reportAs_regs _ _) _ _).trans ih
  | parts _ hr _ ih => exact (word_congr hr _ _).trans ih

/-- A bit that is set in a field of `n` bits stays set when others are or'd to it. -/
theorem bitOf_or_of_set {v n k : Nat} (hv : v < 2 ^ n) (h : bitOf v k = true) (w : Nat) : bitOf ((v ||| w) % 2 ^ n) k = true := by
  rw [bitOf_eq_testBit] at h ⊢
  have hk : k < n := (Nat.pow_lt_pow_iff_right (by decide)).1 (Nat.lt_of_le_of_lt (Nat.ge_two_pow_of_testBit h) hv)
  rw [Nat.testBit_mod_two_pow, Nat.testBit_or, h, decide_eq_true hk]
  rfl

theorem rd_orBits (p : Nat) {f : Field} (hf : f.lo + f.width ≤ 32) (v : Nat) :
    (s.orBits p f v).rd p f = (s.rd p f ||| v) % 2 ^ f.width := rd_wr_self p f _ hf

/-- One agreement event more keeps those that were set (R504). -/
theorem bitOf_agrEvent {n : Nat} (h : bitOf (s.rd pgSUP Reg.SUP.AGR_EVT_EVT) n = true) (m : Nat) :
    bitOf ((s.agrEvent m).rd pgSUP Reg.SUP.AGR_EVT_EVT) n = true := by
  unfold State.agrEvent
  rw [rd_orBits _ (by decide)]
  exact bitOf_or_of_set (bitsAt_lt _ _ _) h _

/-- An agreement event that has been set stays set until it is read (R504). -/
theorem Reacts.agrEvents (h : Reacts s₀ s) {n : Nat} (hn : bitOf (s₀.rd pgSUP Reg.SUP.AGR_EVT_EVT) n = true) :
    bitOf (s.rd pgSUP Reg.SUP.AGR_EVT_EVT) n = true := by
  induction h with
  | start => exact hn
  | @word u p o _ hp ho w ih =>
    have hpg : pgSUP ≠ p := fun he => absurd (he ▸ hp) (by decide)
    rw [rd_of_word (word_setWord_page w hpg ho.2 (by decide)), ih]
  | event _ m ih => exact bitOf_agrEvent ih m
  | report _ r ih => rw [rd_congr (reportAs_regs _ _), ih]
  | parts _ hr _ ih => rw [rd_congr hr, ih]

/-- A report joins those on their way, where the collector runs, and nothing else it holds changes (R355). -/
theorem reportAs_collector (s : State) (r : Report) : (s.reportAs r).coll.queue = s.coll.queue ∧
    (s.reportAs r).coll.pinFrom = s.coll.pinFrom ∧ (s.reportAs r).coll.lastArrival = s.coll.lastArrival ∧
    s.coll.inflight <+: (s.reportAs r).coll.inflight := by
  unfold State.reportAs
  split
  · split <;> exact ⟨rfl, rfl, rfl, List.prefix_refl _⟩
  · exact ⟨rfl, rfl, rfl, List.prefix_append _ _⟩

/-- What the collector holds stays, and reports on their way are only joined by others (R355). -/
theorem Reacts.collector (h : Reacts s₀ s) : s.coll.queue = s₀.coll.queue ∧ s.coll.pinFrom = s₀.coll.pinFrom ∧
    s.coll.lastArrival = s₀.coll.lastArrival ∧ s₀.coll.inflight <+: s.coll.inflight := by
  induction h with
  | start => exact ⟨rfl, rfl, rfl, List.prefix_refl _⟩
  | word _ hp ho w ih => rw [setWord_coll]; exact ih
  | event _ m ih => rw [agrEvent_coll]; exact ih
  | report _ r ih =>
    obtain ⟨hq, hp, hl, hi⟩ := reportAs_collector _ r
    exact ⟨hq.trans ih.1, hp.trans ih.2.1, hl.trans ih.2.2.1, ih.2.2.2.trans hi⟩
  | parts _ _ hc ih => rw [hc]; exact ih

end Sys2Proof.Machine
end

section
/-! PROOF. Reports at the collector and their way into the log (O44). -/

namespace Sys2Proof.Machine

variable {s t u : State} {p i code : Nat} {cls : FaultClass} {r : Report} {rest : List Report}

theorem dropAt_getElem?_lt {α : Type} (xs : List α) {i k : Nat} (h : k < i) : (dropAt xs i)[k]? = xs[k]? := by
  induction xs generalizing i k with
  | nil => rfl
  | cons x xs ih =>
    obtain ⟨i, rfl⟩ : ∃ j, i = j + 1 := ⟨i - 1, by omega⟩
    cases k with
    | zero => rfl
    | succ k => exact ih (by omega)

theorem dropAt_length {α : Type} (xs : List α) {i : Nat} (h : i < xs.length) : i ≤ (dropAt xs i).length := by
  induction xs generalizing i with
  | nil => exact absurd h (Nat.not_lt_zero _)
  | cons x xs ih =>
    cases i with
    | zero => exact Nat.zero_le _
    | succ i => exact Nat.succ_le_succ (ih (Nat.lt_of_succ_lt_succ h))

theorem classCode_pred_lt (cls : FaultClass) : classCode cls - 1 < 3 := by
  cases cls <;> decide

/-- The class bit of a header FLT or of FLT.SUM (R359). -/
theorem bitOf_or_classBit (w : Word) (cls : FaultClass) :
    bitOf (BitVec.ofNat 32 (w.toNat ||| classBit cls)).toNat (classCode cls - 1) = true := by
  rw [bitOf_eq_testBit, BitVec.toNat_ofNat, Nat.testBit_mod_two_pow, Nat.testBit_or]
  have hb : (classBit cls).testBit (classCode cls - 1) = true := by cases cls <;> decide
  rw [hb, Bool.or_true, decide_eq_true (Nat.lt_of_lt_of_le (classCode_pred_lt cls) (by decide))]
  rfl

theorem bitOf_of_bitsAt {w v : Word} (h : bitsAt w 0 3 = bitsAt v 0 3) {k : Nat} (hk : k < 3) :
    bitOf w.toNat k = bitOf v.toNat k := by
  have hb : ∀ x : Word, bitOf x.toNat k = bitOf (bitsAt x 0 3) k := fun x => by
    unfold bitsAt
    rw [bitOf_eq_testBit, bitOf_eq_testBit, Nat.testBit_mod_two_pow, Nat.pow_zero, Nat.div_one, decide_eq_true hk, Bool.true_and]
  rw [hb, hb, h]

/-- A report that arrives while the queue has room, without its effects (R355). -/
def State.queued (s : State) (i : Nat) (r : Report) : State := { s with coll := { s.coll with
  inflight := dropAt s.coll.inflight i, queue := s.coll.queue ++ [{ r with stamp := some (r.stamp.getD s.now) }] } }

theorem arrive_of_room (h : s.coll.inflight[i]? = some r) (hq : s.coll.queue.length < 64) (inReset : Bool) :
    s.arrive i inReset = if inReset then s.queued i r else (s.queued i r).classEffects { r with stamp := some (r.stamp.getD s.now) } := by
  unfold State.arrive
  rw [h]
  dsimp only
  rw [if_pos hq]
  rfl

/-- A report that finds the queue full is lost and counted, but for its effects (R355). -/
def State.lostReport (s : State) (i : Nat) : State :=
  ({ s with coll := { s.coll with inflight := dropAt s.coll.inflight i } } : State).count pgFLT Reg.FLT.LOST_COUNT

theorem arrive_of_full (h : s.coll.inflight[i]? = some r) (hq : 64 ≤ s.coll.queue.length) (inReset : Bool) :
    s.arrive i inReset = if inReset then s.lostReport i else (s.lostReport i).classEffects { r with stamp := some (r.stamp.getD s.now) } := by
  unfold State.arrive
  rw [h]
  dsimp only
  rw [if_neg (Nat.not_lt.2 hq)]
  rfl

/-- The collector's queue is as it was, and reports on their way are only joined by others. -/
def CollectorKept (s t : State) : Prop := t.coll.queue = s.coll.queue ∧ s.coll.inflight <+: t.coll.inflight

theorem CollectorKept.of_eq (h : t.coll = s.coll) : CollectorKept s t := by
  unfold CollectorKept
  rw [h]
  exact ⟨rfl, List.prefix_refl _⟩

theorem CollectorKept.trans (h : CollectorKept s t) (g : CollectorKept t u) : CollectorKept s u :=
  ⟨g.1.trans h.1, h.2.trans g.2⟩

theorem CollectorKept.reportAs (s : State) (r : Report) : CollectorKept s (s.reportAs r) := by
  obtain ⟨hq, -, -, hi⟩ := reportAs_collector s r
  exact ⟨hq, hi⟩

theorem Reacts.collectorKept (h : Reacts s t) : CollectorKept s t := by
  obtain ⟨hq, -, -, hi⟩ := h.collector
  exact ⟨hq, hi⟩

/-- A step of an arrival: it changes words of `K` only, the collector's queue stays, and no time passes. -/
structure ArrivalStep (K : Nat → Prop) (s t : State) : Prop where
  spares : Spares K s t
  kept : CollectorKept s t
  now : t.now = s.now

theorem ArrivalStep.start {K : Nat → Prop} : ArrivalStep K s s := ⟨.start, .of_eq rfl, rfl⟩

/-- The state with another collector. -/
def State.withColl (s : State) (x : Collector) : State := { s with coll := x }

/-- Of the collector, the pin's time and the last arrival may change. -/
theorem ArrivalStep.withColl {K : Nat → Prop} {x : Collector} (hs : x.stopped = s.coll.stopped) (hi : x.inflight = s.coll.inflight)
    (hq : x.queue = s.coll.queue) : ArrivalStep K s (s.withColl x) :=
  ⟨⟨fun _ _ => rfl, hs, fun r hr => hi.symm ▸ hr⟩, ⟨hq, by rw [← hi]; exact List.prefix_refl _⟩, rfl⟩

theorem ArrivalStep.setWord {K : Nat → Prop} (h : ArrivalStep K s t) {p o : Nat} (hk : K (regKey p o)) (w : Word) :
    ArrivalStep K s (t.setWord p o w) :=
  ⟨h.spares.setWord hk w, h.kept.trans (.of_eq (setWord_coll _ _ _ _)), (setWord_now _ _ _ _).trans h.now⟩

theorem ArrivalStep.reportAs {K : Nat → Prop} (h : ArrivalStep K s t) (r : Report) : ArrivalStep K s (t.reportAs r) :=
  ⟨h.spares.reportAs r, h.kept.trans (.reportAs t r), (reportAs_now _ _).trans h.now⟩

theorem ArrivalStep.ite {K : Nat → Prop} {c : Prop} [Decidable c] (ht : ArrivalStep K s t) (hu : ArrivalStep K s u) :
    ArrivalStep K s (if c then t else u) := by
  split
  · exact ht
  · exact hu

theorem ArrivalStep.trans {K K' K'' : Nat → Prop} (h : ArrivalStep K s t) (g : ArrivalStep K' t u)
    (hK : ∀ k, K k ∨ K' k → K'' k) : ArrivalStep K'' s u :=
  ⟨(h.spares.mono fun k hk => hK k (.inl hk)).trans (g.spares.mono fun k hk => hK k (.inr hk)), h.kept.trans g.kept,
    g.now.trans h.now⟩

/-- The words of a page's header that a fault marks: FLT and EVT (R359). -/
def pageFaultKey (p k : Nat) : Prop := k = regKey p 0xC ∨ k = regKey p 0x18

theorem ArrivalStep.countEvt (s : State) (p : Nat) : ArrivalStep (pageFaultKey p) s (s.countEvt p) :=
  have hc := ArrivalStep.setWord .start (Or.inr rfl) _
  .ite .start (.ite ((hc.setWord (Or.inl rfl) _).reportAs _) hc)

/-- The mark of a saturated EVT is no class bit and no code (R359, R360). -/
theorem countEvt_fltWord (s : State) (p : Nat) : bitsAt ((s.countEvt p).word p 0xC) 0 3 = bitsAt (s.word p 0xC) 0 3 ∧
    (s.countEvt p).rd p Reg.HDR.FLT_CODE = s.rd p Reg.HDR.FLT_CODE := by
  have hsat (v : State) : bitsAt ((v.wrB p Reg.HDR.FLT_CNT_SAT true).word p 0xC) 0 3 = bitsAt (v.word p 0xC) 0 3 := by
    unfold State.wrB State.wr
    exact (congrArg (bitsAt · 0 3) (word_setWord_self _ _ _)).trans (bitsAt_withBits_ne _ _ _ _ _ _ (by decide) (by decide))
  have hevt (v : Nat) : (s.wr p Reg.HDR.EVT_COUNT v).word p 0xC = s.word p 0xC := word_setWord_off _ (by decide)
  unfold State.countEvt
  dsimp only
  split
  · exact ⟨rfl, rfl⟩
  · split
    · rw [word_congr (reportTp_regs _ _ _ _ _ _), rd_congr (reportTp_regs _ _ _ _ _ _), hsat, hevt]
      exact ⟨rfl, (rd_wr_field p Reg.HDR.FLT_CNT_SAT Reg.HDR.FLT_CODE _ (by decide) rfl (by decide)).trans
        (rd_of_word (hevt _))⟩
    · rw [hevt]
      exact ⟨rfl, rd_of_word (hevt _)⟩

/-- The page's marks of a fault, before EVT counts (R359). -/
def State.pageMarked (s : State) (p : Nat) (cls : FaultClass) (code : Nat) : State :=
  (s.setWord p 0xC (BitVec.ofNat 32 ((s.word p 0xC).toNat ||| classBit cls))).wr p Reg.HDR.FLT_CODE code

theorem markPage_eq (s : State) (p : Nat) (cls : FaultClass) (code : Nat) : s.markPage p cls code =
    if cls = .c then (s.pageMarked p cls code).countEvt p else s.pageMarked p cls code := rfl

theorem ArrivalStep.markPage (s : State) (p : Nat) (cls : FaultClass) (code : Nat) :
    ArrivalStep (pageFaultKey p) s (s.markPage p cls code) := by
  have hm : ArrivalStep (pageFaultKey p) s (s.pageMarked p cls code) :=
    (ArrivalStep.setWord .start (Or.inl rfl) _).setWord (o := Reg.HDR.FLT_CODE.off) (Or.inl rfl) _
  rw [markPage_eq]
  exact .ite (hm.trans (.countEvt _ p) fun _ h => h.elim id id) hm

/-- The page of a fault shows its class and its code (R359). -/
theorem markPage_marks (s : State) (p : Nat) (cls : FaultClass) (code : Nat) :
    bitOf ((s.markPage p cls code).word p 0xC).toNat (classCode cls - 1) = true ∧
      (s.markPage p cls code).rd p Reg.HDR.FLT_CODE = code % 256 := by
  have hb : bitOf ((s.pageMarked p cls code).word p 0xC).toNat (classCode cls - 1) = true := by
    refine (bitOf_of_bitsAt (v := BitVec.ofNat 32 ((s.word p 0xC).toNat ||| classBit cls)) ?_ (classCode_pred_lt cls)).trans
      (bitOf_or_classBit _ cls)
    unfold State.pageMarked State.wr
    refine (congrArg (bitsAt · 0 3) (word_setWord_self _ _ _)).trans ?_
    refine (bitsAt_withBits_ne _ _ _ _ _ _ (by decide) (by decide)).trans ?_
    exact congrArg (bitsAt · 0 3) (word_setWord_self _ _ _)
  have hc : (s.pageMarked p cls code).rd p Reg.HDR.FLT_CODE = code % 256 := rd_wr_self _ _ _ (by decide)
  obtain ⟨he, hec⟩ := countEvt_fltWord (s.pageMarked p cls code) p
  rw [markPage_eq]
  split
  · exact ⟨(bitOf_of_bitsAt he (classCode_pred_lt cls)).trans hb, hec.trans hc⟩
  · exact ⟨hb, hc⟩

theorem ArrivalStep.markSum (s : State) (cls : FaultClass) : ArrivalStep (· ∈ [regKey pgFLT 0x100]) s (s.markSum cls) :=
  .setWord .start (List.mem_singleton.2 rfl) _

theorem markSum_bit (s : State) (cls : FaultClass) :
    bitOf ((s.markSum cls).word pgFLT 0x100).toNat (classCode cls - 1) = true := by
  unfold State.markSum
  rw [word_setWord_self]
  exact bitOf_or_classBit _ cls

/-- FAULT_N becomes active, or its minimum width is extended (R363). -/
def State.pinDriven (s : State) : State :=
  (s.withColl { s.coll with pinFrom := some s.now }).wrB pgFLT Reg.FLT.PIN_SW_ACTIVE true

theorem ArrivalStep.pinDriven (s : State) : ArrivalStep (· ∈ [regKey pgFLT 0x11C]) s s.pinDriven :=
  .setWord (t := s.withColl { s.coll with pinFrom := some s.now }) (.withColl rfl rfl rfl) (List.mem_singleton.2 rfl) _

theorem pinDriven_effect (s : State) :
    s.pinDriven.coll.pinFrom = some s.now ∧ s.pinDriven.rdB pgFLT Reg.FLT.PIN_SW_ACTIVE = true := by
  refine ⟨?_, rdB_wrB_self _ _ _ (by decide) rfl⟩
  unfold State.pinDriven
  rw [wrB_coll]
  rfl

theorem pinAssert_of_undefined (h : s.rd pgFLT Reg.FLT.PIN_CLASS_CLASS = 3) (cls : FaultClass) :
    s.pinAssert cls = if s.drawBit.1 then s.drawBit.2.pinDriven else s.drawBit.2 := by
  unfold State.pinAssert State.pinQualifies
  rw [if_pos h]
  rfl

theorem pinAssert_of_defined (h : s.rd pgFLT Reg.FLT.PIN_CLASS_CLASS ≠ 3) (cls : FaultClass) :
    s.pinAssert cls = if s.rd pgFLT Reg.FLT.PIN_CLASS_CLASS < classCode cls then s.pinDriven else s := by
  unfold State.pinAssert State.pinQualifies
  simp only [if_neg h, decide_eq_true_eq]
  rfl

theorem ArrivalStep.pinAssert (s : State) (cls : FaultClass) :
    ArrivalStep (· ∈ [regKey pgFLT 0x11C]) s (s.pinAssert cls) := by
  by_cases h : s.rd pgFLT Reg.FLT.PIN_CLASS_CLASS = 3
  · have hd : ArrivalStep (· ∈ [regKey pgFLT 0x11C]) s s.drawBit.2 := ⟨.otherParts .start rfl rfl, .of_eq rfl, rfl⟩
    rw [pinAssert_of_undefined h]
    exact .ite (hd.trans (.pinDriven _) fun _ h => h.elim id id) hd
  · rw [pinAssert_of_defined h]
    exact .ite (.pinDriven s) .start

/-- The arrival of a report above class C: reduced operation at its level (R365). -/
def State.reducedTo (s : State) (level : Nat) : State :=
  (s.withColl { s.coll with lastArrival := s.now }).wr pgFLT Reg.FLT.STAT_RED
    (max (s.rd pgFLT Reg.FLT.STAT_RED) level)

theorem reducedTo_coll (s : State) (level : Nat) : (s.reducedTo level).coll = { s.coll with lastArrival := s.now } :=
  wr_coll _ _ _ _

theorem reduce_of_c (s : State) : s.reduce .c = s := rfl

theorem reduce_of_ne_c (h : cls ≠ .c) : ∃ c : Prop, ∃ _ : Decidable c, s.reduce cls = if c then
    ((s.reducedTo (if cls = .f then 2 else 1)).wrB pgFLT Reg.FLT.STAT_LATCHED true).reportTp .c 0xE6 pgFLT
    else s.reducedTo (if cls = .f then 2 else 1) := by
  unfold State.reduce
  rw [if_neg h]
  exact ⟨_, _, rfl⟩

theorem ArrivalStep.reducedTo (s : State) (level : Nat) :
    ArrivalStep (· ∈ [regKey pgFLT 0x104]) s (s.reducedTo level) :=
  .setWord (t := s.withColl { s.coll with lastArrival := s.now }) (.withColl rfl rfl rfl) (List.mem_singleton.2 rfl) _

theorem ArrivalStep.reduce (s : State) (cls : FaultClass) :
    ArrivalStep (· ∈ [regKey pgFLT 0x104]) s (s.reduce cls) := by
  by_cases h : cls = .c
  · rw [h, reduce_of_c]
    exact .start
  · obtain ⟨c, _, he⟩ := reduce_of_ne_c (s := s) h
    rw [he]
    exact .ite (((ArrivalStep.reducedTo s _).setWord (o := Reg.FLT.STAT_LATCHED.off) (List.mem_singleton.2 rfl) _).reportAs _) (.reducedTo s _)

/-- Reduced operation is entered at least at the level of the class, and its last arrival is now (R365). -/
theorem reduce_effect (h : cls ≠ .c) : (s.reduce cls).coll.lastArrival = s.now ∧
    (if cls = .f then 2 else 1) ≤ (s.reduce cls).rd pgFLT Reg.FLT.STAT_RED := by
  have hr (level : Nat) (hl : level < 4) : level ≤ (s.reducedTo level).rd pgFLT Reg.FLT.STAT_RED := by
    have hlt : s.rd pgFLT Reg.FLT.STAT_RED < 2 ^ 2 := bitsAt_lt _ _ _
    unfold State.reducedTo
    rw [rd_wr_self _ _ _ (by decide)]
    exact (Nat.mod_eq_of_lt (max_lt hlt hl)).symm ▸ Nat.le_max_right _ _
  have hlevel : (if cls = .f then 2 else 1) < 4 := by split <;> decide
  obtain ⟨c, _, he⟩ := reduce_of_ne_c (s := s) h
  rw [he]
  split
  · obtain ⟨-, -, hl, -⟩ := reportAs_collector ((s.reducedTo (if cls = .f then 2 else 1)).wrB pgFLT Reg.FLT.STAT_LATCHED true)
      ⟨0xE6, .c, pgFLT, 0, .timePlane, some _, false, false⟩
    rw [wrB_coll, reducedTo_coll] at hl
    refine ⟨hl, ?_⟩
    rw [rd_congr (reportTp_regs _ _ _ _ _ _)]
    unfold State.wrB
    rw [rd_wr_field _ Reg.FLT.STAT_LATCHED Reg.FLT.STAT_RED _ (by decide) rfl (by decide)]
    exact hr _ hlevel
  · rw [reducedTo_coll]
    exact ⟨rfl, hr _ hlevel⟩

theorem reduce_pinFrom (s : State) (cls : FaultClass) : (s.reduce cls).coll.pinFrom = s.coll.pinFrom := by
  by_cases h : cls = .c
  · rw [h, reduce_of_c]
  · obtain ⟨c, _, he⟩ := reduce_of_ne_c (s := s) h
    rw [he]
    split
    · refine (reportAs_collector _ _).2.1.trans ?_
      rw [wrB_coll, reducedTo_coll]
    · rw [reducedTo_coll]

/-- The event of a fault above class C, and safe torque off for class F (R353, R504). -/
def State.alarmed (s : State) (cls : FaultClass) : State :=
  if cls = .f then (if cls = .c then s else s.agrEvent 0).openSto 1 else if cls = .c then s else s.agrEvent 0

theorem classEffects_eq (s : State) (r : Report) : s.classEffects r =
    ((((s.markPage r.page r.cls r.code).markSum r.cls).pinAssert r.cls).reduce r.cls).alarmed r.cls := rfl

theorem Reacts.alarmed (s : State) (cls : FaultClass) : Reacts s (s.alarmed cls) := by
  have he : Reacts s (if cls = .c then s else s.agrEvent 0) := .ite .start (.event .start 0)
  exact .ite (he.openSto 1) he

theorem alarmed_effect (s : State) (cls : FaultClass) :
    (cls ≠ .c → bitOf ((s.alarmed cls).rd pgSUP Reg.SUP.AGR_EVT_EVT) 0 = true) ∧
      (cls = .f → (s.alarmed cls).stoOpen = true) := by
  refine ⟨fun h => ?_, fun h => ?_⟩
  · have hev : bitOf ((s.agrEvent 0).rd pgSUP Reg.SUP.AGR_EVT_EVT) 0 = true := by
      unfold State.agrEvent
      rw [rd_orBits _ (by decide)]
      exact bitOf_or_two_pow _ (by decide)
    unfold State.alarmed
    rw [if_neg h]
    split
    · exact (Reacts.start.openSto 1).agrEvents hev
    · exact hev
  · unfold State.alarmed
    rw [if_pos h]
    exact openSto_opens _ _

/-- The effects of a report at its arrival (R353, R359, R363, R365, R504). -/
structure ArrivalEffects (s t : State) (r : Report) : Prop where
  kept : CollectorKept s t
  page : bitOf (t.word r.page 0xC).toNat (classCode r.cls - 1) = true
  sum : bitOf (t.word pgFLT 0x100).toNat (classCode r.cls - 1) = true
  code : t.rd r.page Reg.HDR.FLT_CODE = r.code % 256
  reduced : r.cls ≠ .c → t.coll.lastArrival = s.now ∧ 1 ≤ t.rd pgFLT Reg.FLT.STAT_RED ∧
    bitOf (t.rd pgSUP Reg.SUP.AGR_EVT_EVT) 0 = true
  fatal : r.cls = .f → 2 ≤ t.rd pgFLT Reg.FLT.STAT_RED ∧ t.stoOpen = true
  pin : s.rd pgFLT Reg.FLT.PIN_CLASS_CLASS < classCode r.cls → s.rd pgFLT Reg.FLT.PIN_CLASS_CLASS ≠ 3 →
    t.coll.pinFrom = some s.now ∧ t.rdB pgFLT Reg.FLT.PIN_SW_ACTIVE = true
  lost : t.rd pgFLT Reg.FLT.LOST_COUNT = s.rd pgFLT Reg.FLT.LOST_COUNT

theorem regKey_ne_off {p q o o' : Nat} (h : o ≠ o') (ho : o < 0x2000000) (ho' : o' < 0x2000000) : regKey p o ≠ regKey q o' :=
  fun he => h ((regKey_inj ho ho').1 he).2

theorem not_pageFaultKey {p q o : Nat} (h : o ≠ 0xC ∧ o ≠ 0x18) (ho : o < 0x2000000) : ¬ pageFaultKey p (regKey q o) :=
  fun hk => hk.elim (regKey_ne_off h.1 ho (by decide)) (regKey_ne_off h.2 ho (by decide))

/-- The steps of an arrival, one after the other: what each marks, the later ones leave. -/
theorem classEffects_effect (s : State) (r : Report) : ArrivalEffects s (s.classEffects r) r := by
  rw [classEffects_eq]
  obtain ⟨hbit, hcode⟩ := markPage_marks s r.page r.cls r.code
  have ha := ArrivalStep.markPage s r.page r.cls r.code
  generalize s.markPage r.page r.cls r.code = a at *
  have hsum := markSum_bit a r.cls
  have hb := ArrivalStep.markSum a r.cls
  generalize a.markSum r.cls = b at *
  have hpin := pinAssert_of_defined (s := b) (cls := r.cls)
  have hc := ArrivalStep.pinAssert b r.cls
  generalize b.pinAssert r.cls = c at *
  have hred := reduce_effect (s := c) (cls := r.cls)
  have hred' := reduce_pinFrom c r.cls
  have hd := ArrivalStep.reduce c r.cls
  generalize c.reduce r.cls = d at *
  obtain ⟨hevt, hsto⟩ := alarmed_effect d r.cls
  have he := Reacts.alarmed d r.cls
  generalize d.alarmed r.cls = e at *
  have hbd : ArrivalStep (· ∈ [regKey pgFLT 0x11C, regKey pgFLT 0x104]) b d := hc.trans hd (by simp)
  have had : ArrivalStep (· ∈ [regKey pgFLT 0x100, regKey pgFLT 0x11C, regKey pgFLT 0x104]) a d := hb.trans hbd (by simp)
  have hflt {o : Nat} (ho : o < 0x2000000) : e.word pgFLT o = d.word pgFLT o :=
    he.word_below (by decide) (by decide) (by decide) ho
  have hpage : e.word r.page 0xC = a.word r.page 0xC := by
    refine (he.fltWord r.page).trans (had.spares.word ?_)
    simp [regKey_ne_off]
  have hclass : b.rd pgFLT Reg.FLT.PIN_CLASS_CLASS = s.rd pgFLT Reg.FLT.PIN_CLASS_CLASS :=
    (hb.spares.rd (by decide)).trans (ha.spares.rd (not_pageFaultKey (by decide) (by decide)))
  obtain ⟨-, hpf, hla, -⟩ := he.collector
  have hnow : c.now = s.now := hc.now.trans (hb.now.trans ha.now)
  refine ⟨ha.kept.trans (had.kept.trans he.collectorKept), ?_, ?_, (rd_of_word hpage).trans hcode, fun h => ?_, fun h => ?_,
    fun hlt h3 => ?_, ?_⟩
  · rw [hpage]
    exact hbit
  · rw [hflt (by decide), hbd.spares.word (by decide)]
    exact hsum
  · obtain ⟨hl, hr⟩ := hred h
    rw [hla, hl, hnow, rd_of_word (hflt (by decide))]
    exact ⟨rfl, Nat.le_trans (by split <;> decide) hr, hevt h⟩
  · obtain ⟨-, hr⟩ := hred (by simp [h])
    rw [if_pos h] at hr
    rw [rd_of_word (hflt (by decide))]
    exact ⟨hr, hsto h⟩
  · rw [hclass] at hpin
    rw [hpin h3, if_pos hlt] at hd hred'
    obtain ⟨hp₁, hp₂⟩ := pinDriven_effect b
    refine ⟨hpf.trans (hred'.trans (hp₁.trans ?_)), ?_⟩
    · rw [hb.now, ha.now]
    · rw [rdB_congr_rd (rd_of_word (hflt (by decide))), hd.spares.rdB (by decide)]
      exact hp₂
  · rw [rd_of_word (hflt (by decide)), had.spares.rd (by decide), ha.spares.rd (not_pageFaultKey (by decide) (by decide))]

theorem queued_inflight_prefix (h : s.coll.inflight[i]? = some r) (hk : CollectorKept (s.queued i r) t) {k : Nat} (hki : k < i) :
    t.coll.inflight[k]? = s.coll.inflight[k]? := by
  have hlen : k < (dropAt s.coll.inflight i).length :=
    Nat.lt_of_lt_of_le hki (dropAt_length _ (List.getElem?_eq_some_iff.1 h).1)
  rw [← dropAt_getElem?_lt s.coll.inflight hki]
  obtain ⟨ys, hys⟩ := hk.2
  rw [← hys]
  exact List.getElem?_append_left hlen

theorem count_queue (s : State) (p : Nat) (f : Field) : (s.count p f).coll.queue = s.coll.queue := by
  unfold State.count
  dsimp only
  split
  · rfl
  · split
    · exact (reportAs_collector _ _).1.trans (by rw [wrB_coll, wr_coll])
    · rw [wr_coll]

theorem lostReport_effect (s : State) (i : Nat) : (s.lostReport i).coll.queue = s.coll.queue ∧
    (s.lostReport i).rd pgFLT Reg.FLT.LOST_COUNT = counted (s.rd pgFLT Reg.FLT.LOST_COUNT) :=
  ⟨count_queue _ _ _, rd_count _ _ (by decide) rfl (by decide)⟩

theorem queued_touches (s : State) (i : Nat) (r : Report) : Touches [.coll] s (s.queued i r) :=
  fun p hp => by cases p <;> first | exact absurd (by decide) hp | rfl

/-- The words of a log entry (R357). -/
theorem putEntry_words (s : State) (off : Nat) (r : Report) (seq : Nat) :
    (s.putEntry off r seq).word pgFLT (winBase + off) = BitVec.ofNat 32 (r.stamp.getD 0) ∧
    (s.putEntry off r seq).word pgFLT (winBase + off + 4) = BitVec.ofNat 32 (r.stamp.getD 0 / 2 ^ 32) ∧
    (s.putEntry off r seq).word pgFLT (winBase + off + 8) = BitVec.ofNat 32 (r.code % 256 + classCode r.cls * 2 ^ 8 +
      bit r.inj * 2 ^ 10 + originCode r.origin * 2 ^ 11 + r.page % 256 * 2 ^ 16) ∧
    (s.putEntry off r seq).word pgFLT (winBase + off + 12) = BitVec.ofNat 32 r.detail ∧
    (s.putEntry off r seq).word pgFLT (winBase + off + 16) = BitVec.ofNat 32 seq := by
  have hself (v : State) (o : Nat) (w : Word) : (v.setWord pgFLT o w).word pgFLT o = w := word_setWord_self _ _ _
  unfold State.putEntry
  dsimp only
  refine ⟨?_, ?_, ?_, ?_, hself _ _ _⟩
  · rw [word_setWord_off _ (by omega), word_setWord_off _ (by omega), word_setWord_off _ (by omega),
      word_setWord_off _ (by omega)]
    exact hself _ _ _
  · rw [word_setWord_off _ (by omega), word_setWord_off _ (by omega), word_setWord_off _ (by omega)]
    exact hself _ _ _
  · rw [word_setWord_off _ (by omega), word_setWord_off _ (by omega)]
    exact hself _ _ _
  · rw [word_setWord_off _ (by omega)]
    exact hself _ _ _

/-- A log entry writes five words of the log window. -/
theorem Spares.putEntry {K : Nat → Prop} {s₀ : State} (h : Spares K s₀ s) {off : Nat}
    (hK : ∀ k, k < 5 → K (regKey pgFLT (winBase + off + 4 * k))) (r : Report) (seq : Nat) :
    Spares K s₀ (s.putEntry off r seq) :=
  ((((h.setWord (hK 0 (by decide)) _).setWord (hK 1 (by decide)) _).setWord (hK 2 (by decide)) _).setWord
    (hK 3 (by decide)) _).setWord (hK 4 (by decide)) _

theorem putEntry_coll (s : State) (off : Nat) (r : Report) (seq : Nat) : (s.putEntry off r seq).coll = s.coll := by
  unfold State.putEntry
  simp only [setWord_coll]

/-- The copy of an entry that is the first of class U since FLT.SUM was cleared (R356). -/
def State.copyFirstU (s : State) (r : Report) (seq : Nat) : State :=
  if r.cls = .u ∧ s.coll.firstU then (s.putEntry 0x2000 r seq).withColl { s.coll with firstU := false } else s

/-- The copy of an entry that is the first of class F since FLT.SUM was cleared (R356). -/
def State.copyFirstF (s : State) (r : Report) (seq : Nat) : State :=
  if r.cls = .f ∧ s.coll.firstF then (s.putEntry 0x2020 r seq).withColl { s.coll with firstF := false } else s

/-- The words above the ring of the log, where the first copies lie (R356). -/
def copyKey (k : Nat) : Prop := ∃ o, winBase + 0x2000 ≤ o ∧ o < 0x2000000 ∧ k = regKey pgFLT o

theorem not_copyKey {o : Nat} (h : o < winBase + 0x2000) : ¬ copyKey (regKey pgFLT o) := by
  rintro ⟨o', hlo, hhi, he⟩
  have := ((regKey_inj (by omega) hhi).1 he).2
  omega

theorem Spares.copied (s : State) {off : Nat} (ho : 0x2000 ≤ off) (ho' : off < 0x3000) (r : Report) (seq : Nat)
    {x : Collector} (hs : x.stopped = s.coll.stopped) (hi : x.inflight = s.coll.inflight) :
    Spares copyKey s ((s.putEntry off r seq).withColl x) := by
  have h : Spares copyKey s (s.putEntry off r seq) :=
    Spares.start.putEntry (fun k hk => ⟨_, by omega, by unfold winBase; omega, rfl⟩) r seq
  exact ⟨h.words, hs, fun r hr => hi.symm ▸ hr⟩

theorem copyFirstU_effect (s : State) (r : Report) (seq : Nat) :
    Spares copyKey s (s.copyFirstU r seq) ∧ (s.copyFirstU r seq).coll.queue = s.coll.queue := by
  unfold State.copyFirstU
  refine ⟨.ite (.copied s (by decide) (by decide) r seq rfl rfl) .start, ?_⟩
  split <;> rfl

theorem copyFirstF_effect (s : State) (r : Report) (seq : Nat) :
    Spares copyKey s (s.copyFirstF r seq) ∧ (s.copyFirstF r seq).coll.queue = s.coll.queue := by
  unfold State.copyFirstF
  refine ⟨.ite (.copied s (by decide) (by decide) r seq rfl rfl) .start, ?_⟩
  split <;> rfl

/-- An entry in the ring, with its copies as the first of its class, and the indexes (R356). -/
theorem writeEntry_eq (s : State) (r : Report) : ∃ u, Spares copyKey
      (s.putEntry (0x20 * s.rd pgFLT Reg.FLT.LOG_HEAD_IDX) r (s.rd pgFLT Reg.FLT.LOG_SEQ_SEQ)) u ∧
    u.coll.queue = s.coll.queue ∧ s.writeEntry r =
      (u.wr pgFLT Reg.FLT.LOG_HEAD_IDX ((s.rd pgFLT Reg.FLT.LOG_HEAD_IDX + 1) % 256)).wr pgFLT Reg.FLT.LOG_SEQ_SEQ
        (s.rd pgFLT Reg.FLT.LOG_SEQ_SEQ + 1) := by
  obtain ⟨hu, hqu⟩ := copyFirstU_effect
    (s.putEntry (0x20 * s.rd pgFLT Reg.FLT.LOG_HEAD_IDX) r (s.rd pgFLT Reg.FLT.LOG_SEQ_SEQ)) r (s.rd pgFLT Reg.FLT.LOG_SEQ_SEQ)
  obtain ⟨hf, hqf⟩ := copyFirstF_effect ((s.putEntry (0x20 * s.rd pgFLT Reg.FLT.LOG_HEAD_IDX) r
    (s.rd pgFLT Reg.FLT.LOG_SEQ_SEQ)).copyFirstU r (s.rd pgFLT Reg.FLT.LOG_SEQ_SEQ)) r (s.rd pgFLT Reg.FLT.LOG_SEQ_SEQ)
  refine ⟨_, hu.trans hf, hqf.trans (hqu.trans (congrArg _ (putEntry_coll _ _ _ _))), rfl⟩

/-- What a log entry leaves (R356, R357). -/
theorem writeEntry_effect (s : State) (r : Report) :
    let i := s.rd pgFLT Reg.FLT.LOG_HEAD_IDX
    let a := winBase + 0x20 * i
    (s.writeEntry r).coll.queue = s.coll.queue ∧
    (s.writeEntry r).word pgFLT a = BitVec.ofNat 32 (r.stamp.getD 0) ∧
    (s.writeEntry r).word pgFLT (a + 4) = BitVec.ofNat 32 (r.stamp.getD 0 / 2 ^ 32) ∧
    (s.writeEntry r).word pgFLT (a + 8) = BitVec.ofNat 32 (r.code % 256 + classCode r.cls * 2 ^ 8 + bit r.inj * 2 ^ 10 +
      originCode r.origin * 2 ^ 11 + r.page % 256 * 2 ^ 16) ∧
    (s.writeEntry r).word pgFLT (a + 12) = BitVec.ofNat 32 r.detail ∧
    (s.writeEntry r).word pgFLT (a + 16) = BitVec.ofNat 32 (s.rd pgFLT Reg.FLT.LOG_SEQ_SEQ) ∧
    (s.writeEntry r).rd pgFLT Reg.FLT.LOG_HEAD_IDX = (i + 1) % 256 ∧ OnlyPages [pgFLT] s (s.writeEntry r) := by
  have hi : s.rd pgFLT Reg.FLT.LOG_HEAD_IDX < 256 := bitsAt_lt _ _ 8
  obtain ⟨u, hu, hq, he⟩ := writeEntry_eq s r
  have hring : Spares (keyPage · ∈ [pgFLT]) s
      (s.putEntry (0x20 * s.rd pgFLT Reg.FLT.LOG_HEAD_IDX) r (s.rd pgFLT Reg.FLT.LOG_SEQ_SEQ)) :=
    Spares.start.putEntry (fun k hk => by rw [keyPage_regKey (by unfold winBase; omega)]; exact List.mem_singleton.2 rfl) r _
  have hw := putEntry_words s (0x20 * s.rd pgFLT Reg.FLT.LOG_HEAD_IDX) r (s.rd pgFLT Reg.FLT.LOG_SEQ_SEQ)
  have hcopy : Spares (keyPage · ∈ [pgFLT])
      (s.putEntry (0x20 * s.rd pgFLT Reg.FLT.LOG_HEAD_IDX) r (s.rd pgFLT Reg.FLT.LOG_SEQ_SEQ)) u :=
    hu.mono fun k ⟨o, _, ho, hk⟩ => hk ▸ List.mem_singleton.2 (keyPage_regKey ho _)
  generalize s.putEntry (0x20 * s.rd pgFLT Reg.FLT.LOG_HEAD_IDX) r (s.rd pgFLT Reg.FLT.LOG_SEQ_SEQ) = v at *
  have hword {o : Nat} (ho : winBase ≤ o) (ho' : o < winBase + 0x2000) : (s.writeEntry r).word pgFLT o = v.word pgFLT o := by
    rw [he]
    unfold State.wr
    have hne {n : Nat} (hn : n < winBase) : o ≠ n := Nat.ne_of_gt (Nat.lt_of_lt_of_le hn ho)
    rw [word_setWord_off _ (hne (by decide)), word_setWord_off _ (hne (by decide))]
    exact hu.word (not_copyKey ho')
  obtain ⟨h0, h1, h2, h3, h4⟩ := hw
  refine ⟨?_, (hword (by omega) (by omega)).trans h0, (hword (by omega) (by omega)).trans h1,
    (hword (by omega) (by omega)).trans h2, (hword (by omega) (by omega)).trans h3, (hword (by omega) (by omega)).trans h4, ?_, ?_⟩
  · rw [he, wr_coll, wr_coll, hq]
  · rw [he, rd_wr_off _ _ _ _ (by decide), rd_wr_self _ _ _ (by decide)]
    exact Nat.mod_mod _ _
  · rw [he]
    exact (((hring.trans hcopy).wr (by decide) _).wr (by decide) _).onlyPages

theorem logNext_of_cons (h : s.coll.queue = r :: rest) :
    s.logNext = (s.withColl { s.coll with queue := rest }).writeEntry r := by
  unfold State.logNext
  rw [h]
  rfl

theorem logNext_of_nil (h : s.coll.queue = []) : s.logNext = s := by
  unfold State.logNext
  rw [h]

/-- Settles O44, by the steps of an arrival and of a log entry. -/
theorem faultReportsAndLog : Obligations.FaultReportsAndLog := by
  refine ⟨fun s i r hr hres hq => ⟨_, rfl, ?_⟩, fun s i r hr hres hq => ⟨_, rfl, ?_⟩, fun s i r hr hq => ⟨_, rfl, ?_⟩,
    fun s r rest hq => ⟨_, rfl, ?_⟩, fun s hq => congrArg Host.Outcome.next (logNext_of_nil hq)⟩
  · have h := classEffects_effect (s.queued i r) { r with stamp := some (r.stamp.getD s.now) }
    rw [hres, arrive_of_room hr hq, if_neg (by simp)]
    exact ⟨h.kept.1, fun k hk => queued_inflight_prefix hr h.kept hk, h.page, h.sum, h.code, h.reduced, h.fatal, h.pin⟩
  · rw [hres, arrive_of_room hr hq, if_pos rfl]
    exact ⟨queued_touches s i r, rfl⟩
  · obtain ⟨hqueue, hlost⟩ := lostReport_effect s i
    rw [arrive_of_full hr hq]
    split
    · exact ⟨hqueue, hlost⟩
    · have h := classEffects_effect (s.lostReport i) { r with stamp := some (r.stamp.getD s.now) }
      exact ⟨h.kept.1.trans hqueue, h.lost.trans hlost⟩
  · have htouch := (Kept.start.logNext (List.Subset.refl _) (s := s)).same
    rw [logNext_of_cons hq] at htouch ⊢
    obtain ⟨h₁, h₂, h₃, h₄, h₅, h₆, h₇, h₈⟩ := writeEntry_effect (s.withColl { s.coll with queue := rest }) r
    exact ⟨h₁, h₂, h₃, h₄, h₅, h₆, h₇, h₈, htouch⟩

end Sys2Proof.Machine
end

section
/-! SUPPORT. What is left when everything volatile is lost, and what an agreement event leaves unchanged. -/

namespace Sys2Proof.Machine

variable {s t : State} {p o : Nat} {f : Field}

/-- An agreement event shows on the supervisor's page alone (R504). -/
theorem word_agrEvent (s : State) (n : Nat) (hp : p ≠ pgSUP) (ho : o < 0x2000000) : (s.agrEvent n).word p o = s.word p o :=
  word_setWord_page _ hp (by decide) ho

theorem rd_agrEvent (s : State) (n : Nat) (hp : p ≠ pgSUP) (ho : f.off < 0x2000000) : (s.agrEvent n).rd p f = s.rd p f :=
  rd_of_word (word_agrEvent s n hp ho)

/-- An agreement event is set by its own number (R504). -/
theorem bitOf_agrEvent_self (s : State) {n : Nat} (hn : n < 10) :
    bitOf ((s.agrEvent n).rd pgSUP Reg.SUP.AGR_EVT_EVT) n = true := by
  unfold State.agrEvent
  rw [rd_orBits _ (by decide)]
  exact bitOf_or_two_pow _ hn

theorem reported_agrEvent {cls : FaultClass} {code page : Nat} (n : Nat) (h : Reported s cls code page) :
    Reported (s.agrEvent n) cls code page :=
  h.followedBy (agrEvent_coll s n)

theorem keyOff_regKey (ho : o < 0x2000000) (p : Nat) : keyOff (regKey p o) = o := by
  unfold keyOff regKey
  omega

/-- A word that is not kept reads its reset value when everything volatile is lost (R335, R374). -/
theorem word_volatileLost_lost {keep : Nat → Nat → Bool} (s : State) (ho : o < 0x2000000) (h : keep p o = false) :
    (s.volatileLost keep).word p o = regReset (regKey p o) := by
  refine tabGet_missing regReset _ _ fun e he hk => ?_
  have hkeep := (List.mem_filter.1 he).2
  rw [hk, keyPage_regKey ho, keyOff_regKey ho, h] at hkeep
  exact Bool.false_ne_true hkeep

/-- MRAM keeps what it holds when everything volatile is lost (R335, R336). -/
theorem byte_volatileLost (s : State) (keep : Nat → Nat → Bool) {a : Nat} (h : 0x10000000 ≤ a) (h' : a < 0x12000000) :
    (s.volatileLost keep).byte a = s.byte a :=
  tabGet_filter memDefault s.mem (P := fun a => 0x10000000 ≤ a && a < 0x12000000) (by simp [h, h'])

theorem bootRecord_pwr (s old : State) : (s.bootRecord old).pwr = s.pwr := (wr_pwr _ _ _ _).trans (setWord_pwr _ _ _ _)

theorem bootRecord_mem (s old : State) : (s.bootRecord old).mem = s.mem := (wr_mem _ _ _ _).trans (setWord_mem _ _ _ _)

/-- The boot record and the lifecycle are the only words a boot record changes (R459, R489). -/
theorem word_bootRecord (s old : State) (hp : p ≠ pgSEC) (ho : o ≠ 0x11C) (h : o < 0x2000000) :
    (s.bootRecord old).word p o = s.word p o := by
  unfold State.bootRecord State.wr
  have hne : regKey p o ≠ regKey pgPWR 0x11C := fun he => ho ((regKey_inj h (by decide)).1 he).2
  exact (word_setWord_page _ hp (by decide) h).trans (word_setWord_ne _ hne)

theorem dikeCleared_now (s : State) : s.dikeCleared.now = 0 := rfl

theorem dikeCleared_pwr (s : State) : s.dikeCleared.pwr = {} := bootRecord_pwr _ s

/-- The Dike's own reset keeps MRAM (R375). -/
theorem byte_dikeCleared (s : State) {a : Nat} (h : 0x10000000 ≤ a) (h' : a < 0x12000000) : s.dikeCleared.byte a = s.byte a :=
  (byte_congr (bootRecord_mem _ s) a).trans (byte_volatileLost s otpWord h h')

/-- The Dike's own reset leaves the power state BOOT (R375, R468). -/
theorem dikeCleared_powerState (s : State) : s.dikeCleared.powerState = 4 :=
  calc s.dikeCleared.powerState
      = (s.volatileLost otpWord).rd pgPWR Reg.PWR.STAT_STATE := rd_of_word (word_bootRecord _ s (by decide) (by decide) (by decide))
    _ = 4 := by
      unfold State.rd
      rw [word_volatileLost_lost s (by decide) (by decide)]
      decide

end Sys2Proof.Machine
end

section
/-! PROOF. Wake-ups (O58). -/

namespace Sys2Proof.Machine

variable {s t : State} {sources ticks : Nat}

/-- The enabled ones of the detected wake sources (R472). -/
def State.wakeSources (s : State) (sources : Nat) : Nat := sources % 2 ^ 7 &&& s.rd pgPWR Reg.PWR.WAKE_EN_EN

theorem wakeSources_of_lt (h : sources < 128) : s.wakeSources sources = sources &&& s.rd pgPWR Reg.PWR.WAKE_EN_EN := by
  unfold State.wakeSources
  rw [Nat.mod_eq_of_lt (show sources < 2 ^ 7 from h)]

theorem wakeSources_lt (s : State) (sources : Nat) : s.wakeSources sources < 2 ^ 7 :=
  Nat.and_lt_two_pow _ (bitsAt_lt _ _ _)

/-- SLEEP ends: time goes on, and the wake sources are recorded (R67, R471, R472). -/
def State.wakeRecorded (s : State) (src ticks : Nat) : State :=
  (({ s with now := stampAdd s.now ticks }.wrB pgTP Reg.TP.STAT_SLEEP_ADJ true).wr pgPWR Reg.PWR.WAKE_SRC_SRC src).wrB pgPWR
    Reg.PWR.WAKE_SRC_VALID true

/-- BOOT begins after SLEEP, with a boot record `w` (R473). -/
def State.bootFromSleep (s : State) (w : Word) : State :=
  (((s.setWord pgPWR 0x11C w).setPwr fun p => { p with pllStarts := true, owesWake := true }).setPowerState 4).agrEvent 8

theorem wakeEvent_of_none (h : s.wakeSources sources = 0) : s.wakeEvent sources ticks = s := if_pos h

theorem wakeEvent_on_entry (h : s.wakeSources sources ≠ 0) (ht : s.pwr.target = some 2) : s.wakeEvent sources ticks =
    (((s.setPwr fun p => { p with target := none }).wrB pgPWR Reg.PWR.STAT_ABORT true).reportDike .c 0xDA pgPWR).agrEvent 8 :=
  (if_neg h).trans (if_pos ht)

theorem wakeEvent_in_sleep (h : s.wakeSources sources ≠ 0) (ht : s.pwr.target ≠ some 2) (hp : s.powerState = 2) :
    ∃ w, s.wakeEvent sources ticks = (s.wakeRecorded (s.wakeSources sources) ticks).bootFromSleep w :=
  ⟨_, ((if_neg h).trans (if_neg ht)).trans (if_pos hp)⟩

theorem wakeEvent_in_off (h : bitOf (s.wakeSources sources) 0 = true) (ht : s.pwr.target ≠ some 2) (hp : s.powerState = 3) :
    s.wakeEvent sources ticks = s.dikeCleared := by
  have h0 : s.wakeSources sources ≠ 0 := fun h0 => by simp [h0, bitOf] at h
  exact ((if_neg h0).trans (if_neg ht)).trans ((if_neg (by omega)).trans (if_pos ⟨hp, h⟩))

theorem wakeRecorded_effect {src : Nat} (h : src < 2 ^ 7) : (s.wakeRecorded src ticks).now = stampAdd s.now ticks ∧
    (s.wakeRecorded src ticks).rd pgPWR Reg.PWR.WAKE_SRC_SRC = src ∧
    (s.wakeRecorded src ticks).rdB pgPWR Reg.PWR.WAKE_SRC_VALID = true ∧
    (s.wakeRecorded src ticks).rdB pgTP Reg.TP.STAT_SLEEP_ADJ = true := by
  unfold State.wakeRecorded
  refine ⟨?_, ?_, rdB_wrB_self _ _ _ (by decide) rfl, ?_⟩
  · rw [wrB_now, wr_now, wrB_now]
  · refine (rd_wr_field pgPWR Reg.PWR.WAKE_SRC_VALID Reg.PWR.WAKE_SRC_SRC _ (by decide) rfl (by decide)).trans ?_
    exact (rd_wr_self _ _ _ (by decide)).trans (Nat.mod_eq_of_lt h)
  · refine (rdB_congr_rd (rd_wr_page _ _ _ _ _ (by decide) (by decide) (by decide))).trans ?_
    refine (rdB_congr_rd (rd_wr_page _ _ _ _ _ (by decide) (by decide) (by decide))).trans ?_
    exact rdB_wrB_self _ _ _ (by decide) rfl

/-- A boot from SLEEP changes the power state and the boot record, and no word else but the agreement events. -/
theorem word_bootFromSleep (s : State) (w : Word) (hp : p ≠ pgSUP) (ho : o ≠ 0x104 ∧ o ≠ 0x11C ∨ p ≠ pgPWR) (h : o < 0x2000000) :
    (s.bootFromSleep w).word p o = s.word p o := by
  have hne {o' : Nat} (ho' : o' < 0x2000000) (hd : o ≠ o' ∨ p ≠ pgPWR) : regKey p o ≠ regKey pgPWR o' := fun he =>
    have he := (regKey_inj h ho').1 he
    hd.elim (fun hd => hd he.2) (fun hd => hd he.1)
  refine (word_agrEvent _ _ hp h).trans ((word_setWord_ne _ (hne (by decide) (ho.imp_left And.left))).trans ?_)
  exact word_setWord_ne _ (hne (by decide) (ho.imp_left And.right))

theorem bootFromSleep_effect (s : State) (w : Word) : (s.bootFromSleep w).now = s.now ∧ (s.bootFromSleep w).powerState = 4 ∧
    (s.bootFromSleep w).pwr.pllStarts = true ∧ bitOf ((s.bootFromSleep w).rd pgSUP Reg.SUP.AGR_EVT_EVT) 8 = true := by
  unfold State.bootFromSleep State.setPowerState
  refine ⟨?_, ?_, ?_, bitOf_agrEvent_self _ (by decide)⟩
  · rw [agrEvent_now, wr_now, setPwr_now, setWord_now]
  · exact (rd_agrEvent _ _ (by decide) (by decide)).trans (rd_wr_self _ _ _ (by decide))
  · rw [agrEvent_pwr, wr_pwr]
    rfl

/-- What an enabled source leaves in SLEEP (R67, R471, R472, R473). -/
theorem wakeEvent_in_sleep_effect (h : s.wakeSources sources ≠ 0) (ht : s.pwr.target ≠ some 2) (hp : s.powerState = 2) :
    let t := s.wakeEvent sources ticks
    t.now = stampAdd s.now ticks ∧ t.powerState = 4 ∧ t.rd pgPWR Reg.PWR.WAKE_SRC_SRC = s.wakeSources sources ∧
      t.rdB pgPWR Reg.PWR.WAKE_SRC_VALID = true ∧ t.rdB pgTP Reg.TP.STAT_SLEEP_ADJ = true ∧ t.pwr.pllStarts = true ∧
      bitOf (t.rd pgSUP Reg.SUP.AGR_EVT_EVT) 8 = true := by
  obtain ⟨w, he⟩ := wakeEvent_in_sleep (ticks := ticks) h ht hp
  obtain ⟨hnow, hsrc, hvalid, hadj⟩ := wakeRecorded_effect (s := s) (ticks := ticks) (wakeSources_lt s sources)
  obtain ⟨bnow, bstate, bpll, bevt⟩ := bootFromSleep_effect (s.wakeRecorded (s.wakeSources sources) ticks) w
  have hword {p o : Nat} (hp : p ≠ pgSUP) (ho : o ≠ 0x104 ∧ o ≠ 0x11C ∨ p ≠ pgPWR) (h : o < 0x2000000) :=
    word_bootFromSleep (s.wakeRecorded (s.wakeSources sources) ticks) w hp ho h
  rw [he]
  exact ⟨bnow.trans hnow, bstate, (rd_of_word (hword (by decide) (by decide) (by decide))).trans hsrc,
    (rdB_congr_rd (rd_of_word (hword (by decide) (by decide) (by decide)))).trans hvalid,
    (rdB_congr_rd (rd_of_word (hword (by decide) (by decide) (by decide)))).trans hadj, bpll, bevt⟩

/-- A wake during the entry to SLEEP ends the entry (R473). -/
theorem wakeEvent_on_entry_effect (h : s.wakeSources sources ≠ 0) (ht : s.pwr.target = some 2) (hs : s.coll.stopped = false) :
    let t := s.wakeEvent sources ticks
    t.pwr = { s.pwr with target := none } ∧ t.powerState = s.powerState ∧ t.rdB pgPWR Reg.PWR.STAT_ABORT = true ∧
      Reported t .c 0xDA pgPWR := by
  have hregs (u : State) : ((u.reportDike .c 0xDA pgPWR).agrEvent 8).word pgPWR 0x104 = u.word pgPWR 0x104 :=
    (word_agrEvent _ _ (by decide) (by decide)).trans (word_congr (reportDike_regs _ _ _ _ _ _) _ _)
  rw [wakeEvent_on_entry h ht]
  refine ⟨?_, ?_, ?_, reported_agrEvent _ (reported_reportDike _ _ _ _ _ _ ?_)⟩
  · rw [agrEvent_pwr, reportDike_pwr, wrB_pwr]
    rfl
  · refine (rd_of_word (hregs _)).trans ?_
    exact rd_wr_field pgPWR Reg.PWR.STAT_ABORT Reg.PWR.STAT_STATE _ (by decide) rfl (by decide)
  · exact (rdB_congr_rd (rd_of_word (hregs _))).trans (rdB_wrB_self _ _ _ (by decide) rfl)
  · rw [wrB_coll]
    exact hs

/-- OFF: nothing but the wake pin's enable stays (R468, R486). -/
theorem enterOff_effect (s : State) : s.enterOff.powerState = 3 ∧ s.enterOff.now = 0 ∧
    s.enterOff.word pgPWR 0x10C = s.word pgPWR 0x10C := by
  unfold State.enterOff State.setPowerState
  refine ⟨rd_wr_self _ _ _ (by decide), ?_, ?_⟩
  · rw [wr_now, setWord_now, dikeCleared_now]
  · exact (word_setWord_off _ (by decide)).trans (word_setWord_self _ _ _)

/-- An expiry of the wake timer in SLEEP is a wake from source 6 (R472). -/
theorem wakeTimer_in_sleep (hp : s.powerState = 2)
    (ht : 97 * 320000000 * max 1 (s.rd pgPWR Reg.PWR.WAKE_TMR_S) ≤ 100 * ticks) : s.wakeTimer ticks = s.wakeEvent 0x40 ticks :=
  if_pos ⟨hp, ht⟩

/-- The wake timer's source counts where it is enabled (R472). -/
theorem wakeSources_timer (h : bitOf (s.rd pgPWR Reg.PWR.WAKE_EN_EN) 6 = true) : s.wakeSources 0x40 = 0x40 := by
  rw [wakeSources_of_lt (by decide), show (0x40 : Nat) = 2 ^ 6 from rfl, Nat.two_pow_and, ← bitOf_eq_testBit, h]
  rfl

/-- Settles O58, by the power states a wake finds. -/
theorem wakeUps : Obligations.WakeUps := by
  refine ⟨fun s src ticks ht hp h => ⟨_, rfl, ?_⟩, fun s src ticks ht hs h => ⟨_, rfl, ?_⟩, fun s src ticks ht hp h => ⟨_, rfl, ?_⟩,
    fun s src ticks h => congrArg Host.Outcome.next ?_, fun s ticks ht hp hb htm => ⟨_, rfl, ?_⟩,
    fun s ticks hp => ⟨congrArg Host.Outcome.next (if_neg fun h => hp h.1), congrArg Host.Outcome.next (if_neg hp)⟩,
    fun s hp => ⟨_, rfl, ?_⟩⟩
  · rw [← wakeSources_of_lt src.isLt] at h ⊢
    exact wakeEvent_in_sleep_effect h (by simp [ht]) hp
  · rw [← wakeSources_of_lt src.isLt] at h
    exact wakeEvent_on_entry_effect h ht hs
  · rw [← wakeSources_of_lt src.isLt] at h
    rw [wakeEvent_in_off h ht hp]
    exact ⟨dikeCleared_now s, dikeCleared_powerState s, dikeCleared_pwr s, fun a ha ha' => byte_dikeCleared s ha ha'⟩
  · rw [← wakeSources_of_lt src.isLt] at h
    exact wakeEvent_of_none h
  · obtain ⟨hnow, hstate, hsrc, hvalid, -, hpll, -⟩ := wakeEvent_in_sleep_effect (sources := 0x40) (ticks := ticks)
      (by rw [wakeSources_timer hb]; decide) (by simp [ht]) hp
    rw [wakeTimer_in_sleep hp htm]
    exact ⟨hnow, hstate, hsrc.trans (wakeSources_timer hb), hvalid, hpll⟩
  · rw [show s.sleepLow = s.enterOff from if_pos hp]
    exact enterOff_effect s

end Sys2Proof.Machine
end

section
/-! SUPPORT. Boot: polders that come into service, the choice of the bank, and the rest of the verification. -/

namespace Sys2Proof.Machine

variable {s₀ s t u : State} {K : Nat → Prop}

/-- The word of the agreement events (R504). -/
abbrev agrKey : Nat := fieldKey pgSUP Reg.SUP.AGR_EVT_EVT

theorem Spares.event (h : Spares K s₀ s) (hK : K agrKey) (n : Nat) : Spares K s₀ (s.agrEvent n) := by
  unfold State.agrEvent State.orBits
  exact h.wr hK _

theorem Spares.setPolder (h : Spares K s₀ s) (hK : K agrKey) (p : Nat) (x : Polder) : Spares K s₀ (s.setPolder p x) := by
  refine .ite (h.otherParts rfl rfl) (.event ?_ hK 5)
  exact h.otherParts rfl rfl

theorem Spares.enablePolder (h : Spares K s₀ s) (hK : K agrKey) (p : Nat) : Spares K s₀ (s.enablePolder p) := h.setPolder hK p _

theorem Spares.setBusy (h : Spares K s₀ s) (hK : K agrKey) (p : Nat) (b : Bool) : Spares K s₀ (s.setBusy p b) := h.setPolder hK p _

theorem Spares.logVerify (h : Spares K s₀ s) (cls step : Nat) : Spares K s₀ (s.logVerify cls step) :=
  .ite h (.ite (.ite (h.reportAs _) h) (h.reportAs _))

/-- A field within the low `m` bits of a word follows from these bits. -/
theorem bitsAt_of_low {w v : Word} {m lo n : Nat} (h : bitsAt w 0 m = bitsAt v 0 m) (hm : lo + n ≤ m) :
    bitsAt w lo n = bitsAt v lo n := by
  have hsub (x : Word) : bitsAt x lo n = bitsAt x 0 m / 2 ^ lo % 2 ^ n := by
    unfold bitsAt
    obtain ⟨k, rfl⟩ : ∃ k, m = lo + n + k := ⟨m - (lo + n), by omega⟩
    rw [Nat.pow_zero, Nat.div_one, Nat.add_assoc, Nat.pow_add, Nat.mod_mul_right_div_self, Nat.pow_add, Nat.mod_mul_right_mod]
  rw [hsub, hsub, h]

/-- The words that enabling cores and polders, and the verification of a bank after its first class, may change. -/
abbrev verifyKeys : List Nat := [agrKey, regKey pgPWR 0x11C, regKey pgTRL 0x150, regKey pgTRL 0x154]

/-- A step of the boot after the bank is chosen: beside its words, and in the boot record the marks of what verifies, nothing
that a reader of the choice sees changes (R492). -/
structure VerifyStep (s t : State) : Prop where
  spares : Spares (· ∈ verifyKeys) s t
  choice : bitsAt (t.word pgPWR 0x11C) 0 10 = bitsAt (s.word pgPWR 0x11C) 0 10
  voting : t.sup.voting = s.sup.voting

theorem VerifyStep.start : VerifyStep s s := ⟨.start, rfl, rfl⟩

/-- The fields of the boot record that name the choice stay (R490). -/
theorem VerifyStep.rd (h : VerifyStep s t) {f : Field} (ho : f.off = 0x11C) (hf : f.lo + f.width ≤ 10) :
    t.rd pgPWR f = s.rd pgPWR f := by
  unfold State.rd
  rw [ho]
  exact bitsAt_of_low h.choice hf

theorem VerifyStep.compat (h : VerifyStep s t) : t.compat = s.compat := rdB_congr_rd (h.rd rfl (by decide))

theorem VerifyStep.ite {c : Prop} [Decidable c] (ht : VerifyStep s t) (hu : VerifyStep s u) : VerifyStep s (if c then t else u) := by
  split
  · exact ht
  · exact hu

theorem VerifyStep.each {α : Type} {xs : List α} {f : State → α → State} (h : VerifyStep s t)
    (hf : ∀ t x, VerifyStep s t → VerifyStep s (f t x)) : VerifyStep s (t.each xs f) := by
  unfold State.each
  induction xs generalizing t with
  | nil => exact h
  | cons x xs ih => exact ih (hf t x h)

/-- A step that leaves the boot record's word. -/
theorem VerifyStep.beside (h : VerifyStep s t) (hu : Spares (· ∈ [agrKey, regKey pgTRL 0x150, regKey pgTRL 0x154]) t u)
    (hv : u.sup.voting = t.sup.voting) : VerifyStep s u :=
  ⟨h.spares.trans (hu.mono fun k hk => by
      rcases List.mem_cons.1 hk with hk | hk
      · exact hk ▸ by decide
      · exact List.mem_cons_of_mem _ (List.mem_cons_of_mem _ hk)),
    (congrArg (bitsAt · 0 10) (hu.word (by decide))).trans h.choice, hv.trans h.voting⟩

theorem VerifyStep.setPolder (h : VerifyStep s t) (p : Nat) (x : Polder) : VerifyStep s (t.setPolder p x) :=
  h.beside (.setPolder .start (by decide) p x) (congrArg _ (setPolder_sup t p x))

theorem VerifyStep.enablePolder (h : VerifyStep s t) (p : Nat) : VerifyStep s (t.enablePolder p) := h.setPolder p _

theorem VerifyStep.setBusy (h : VerifyStep s t) (p : Nat) (b : Bool) : VerifyStep s (t.setBusy p b) := h.setPolder p _

theorem VerifyStep.logVerify (h : VerifyStep s t) (cls step : Nat) : VerifyStep s (t.logVerify cls step) :=
  h.beside (.logVerify .start cls step) (congrArg _ ((logVerify_touches t cls step) .sup (by decide)))

theorem VerifyStep.markSlot (h : VerifyStep s t) (k : Nat) (v : Bool) : VerifyStep s (t.markSlot k v) := by
  refine h.beside ?_ (congrArg _ (setWord_sup _ _ _ _))
  unfold State.markSlot
  dsimp only
  split
  · exact .setWord .start (by decide) _
  · exact .setWord .start (by decide) _

/-- The marks of what verifies lie above the choice in the boot record. -/
theorem VerifyStep.bootMark (h : VerifyStep s t) {f : Field} (ho : f.off = 0x11C) (hf : 10 ≤ f.lo) (hw : f.lo + f.width ≤ 32)
    (b : Bool) : VerifyStep s (t.wrB pgPWR f b) := by
  refine ⟨h.spares.wrB (p := pgPWR) (f := f) ?_ b, ?_, (congrArg _ (wrB_sup _ _ _ _)).trans h.voting⟩
  · rw [fieldKey, ho]
    decide
  · unfold State.wrB State.wr
    rw [ho, word_setWord_self, bitsAt_withBits_ne _ _ _ _ _ _ hw (.inl (by omega))]
    exact h.choice

theorem VerifyStep.setSec (h : VerifyStep s t) (f : Security → Security) : VerifyStep s (t.setSec f) :=
  h.beside (.otherParts .start rfl rfl) rfl

/-- The hooks stay off without their package (R492). -/
theorem VerifyStep.hookOff (h : VerifyStep s t) : VerifyStep s (t.setSup fun u => { u with hookOff := true }) :=
  h.beside (.setSup .start _) rfl

/-- The rest of the bank is verified without a change of the choice (R492). -/
theorem VerifyStep.verifyRest (s : State) (classes slots : List (Nat × Nat)) : VerifyStep s (s.verifyRest classes slots) := by
  have hooks : VerifyStep s (if stepOf classes 1 = 0 then s else s.setSup fun u => { u with hookOff := true }) :=
    .ite .start (.hookOff .start)
  have hlogs := ((hooks.each (xs := classes.filter fun r => r.1 == 1) (f := fun s r => s.logVerify 1 r.2)
    fun _ r h => h.logVerify 1 r.2).logVerify 2 (stepOf classes 2)).logVerify 4 (stepOf classes 4)
  refine .each (.bootMark (.ite (.each (.bootMark (hlogs.setSec _) rfl (by decide) (by decide) true) fun _ p h => h.enablePolder p)
    (hlogs.setSec _)) rfl (by decide) (by decide) _) fun _ r h => .ite (h.markSlot _ _) (h.logVerify _ _)

/-- The cores of the supervisor run (R487 step 6). -/
def State.coresRun (s : State) (cores : List Nat) : State := s.each cores fun s p => (s.enablePolder p).setBusy p true

theorem VerifyStep.coresRun (s : State) (cores : List Nat) : VerifyStep s (s.coresRun cores) :=
  .each .start fun _ p h => (h.enablePolder p).setBusy p true

/-- The supervisor votes with three cores, or with two in COMPAT (R308, R464). -/
def State.supStarts (s : State) : State :=
  if s.compat then s.wr pgSUP Reg.SUP.STAT_MODE 2
  else (s.setSup fun u => { u with voting := [0, 1, 2] }).wr pgSUP Reg.SUP.STAT_MODE 0

theorem Spares.supStarts (s : State) : Spares (· ∈ [fieldKey pgSUP Reg.SUP.STAT_MODE]) s s.supStarts :=
  .ite (.wr .start (by decide) _) (.wr (.setSup .start _) (by decide) _)

theorem supStarts_effect (s : State) : s.supStarts.supMode = (if s.compat then 2 else 0) ∧
    (s.compat = false → s.supStarts.sup.voting = [0, 1, 2]) := by
  unfold State.supStarts
  cases hc : s.compat
  · refine ⟨rd_wr_self _ _ _ (by decide), fun _ => ?_⟩
    rw [if_neg Bool.false_ne_true, wr_sup]
    rfl
  · exact ⟨rd_wr_self _ _ _ (by decide), fun h => absurd h (by decide)⟩

/-- The bank is the active one (R490). -/
def State.bankChosen (s : State) (bank : Nat) : State :=
  (s.wr pgMEM Reg.MEM.MRAM_STAT_ACTIVE bank).wr pgPWR Reg.PWR.BOOT_BANK bank

/-- The supervisor's release from a bank, with what follows (R487 step 6, R490, R492). -/
def State.releasedFrom (s : State) (bank : Nat) (classes slots : List (Nat × Nat)) : State :=
  (((s.bankChosen bank).coresRun (if (s.bankChosen bank).compat then [0x10, 0x11] else [0x10, 0x11, 0x12])).supStarts).verifyRest
    classes slots

/-- The boot record's fields but BANK, where the bank is chosen. -/
theorem rd_bankChosen (s : State) (bank : Nat) {f : Field} (ho : f.off = 0x11C) (hf : 1 ≤ f.lo) :
    (s.bankChosen bank).rd pgPWR f = s.rd pgPWR f :=
  (rd_wr_field pgPWR Reg.PWR.BOOT_BANK f _ (by decide) ho (.inr hf)).trans
    (rd_of_word (word_setWord_page _ (by decide) (by decide) (by rw [ho]; decide)))

/-- What a release leaves: the bank it names, the supervisor's mode, and the rest of the record as it was (R490, R492). -/
theorem releasedFrom_effect (s : State) {bank : Nat} (hb : bank < 2) (classes slots : List (Nat × Nat)) :
    let t := s.releasedFrom bank classes slots
    t.rd pgPWR Reg.PWR.BOOT_BANK = bank ∧ t.activeBank = bank ∧ t.supMode = (if s.compat then 2 else 0) ∧
      (s.compat = false → t.sup.voting = [0, 1, 2]) ∧
      (∀ f : Field, f.off = 0x11C → 1 ≤ f.lo → f.lo + f.width ≤ 10 → t.rd pgPWR f = s.rd pgPWR f) ∧
      s.coll.inflight ⊆ t.coll.inflight := by
  have hcompat : (s.bankChosen bank).compat = s.compat := rdB_congr_rd (rd_bankChosen s bank rfl (by decide))
  have hbank : (s.bankChosen bank).rd pgPWR Reg.PWR.BOOT_BANK = bank :=
    (rd_wr_self _ _ _ (by decide)).trans (Nat.mod_eq_of_lt hb)
  have hactive : (s.bankChosen bank).activeBank = bank :=
    (rd_wr_page _ _ _ _ _ (by decide) (by decide) (by decide)).trans ((rd_wr_self _ _ _ (by decide)).trans (Nat.mod_eq_of_lt hb))
  have hcoll : (s.bankChosen bank).coll = s.coll := (wr_coll _ _ _ _).trans (wr_coll _ _ _ _)
  have hold := fun f ho hf => rd_bankChosen s bank (f := f) ho hf
  unfold State.releasedFrom
  generalize s.bankChosen bank = v at *
  have hcores := VerifyStep.coresRun v (if v.compat then [0x10, 0x11] else [0x10, 0x11, 0x12])
  generalize v.coresRun (if v.compat then [0x10, 0x11] else [0x10, 0x11, 0x12]) = w at *
  have hsup := Spares.supStarts w
  obtain ⟨hmode, hvoting⟩ := supStarts_effect w
  have hrest := VerifyStep.verifyRest w.supStarts classes slots
  have hrec {f : Field} (ho : f.off = 0x11C) (hf : f.lo + f.width ≤ 10) :
      (w.supStarts.verifyRest classes slots).rd pgPWR f = v.rd pgPWR f :=
    (hrest.rd ho hf).trans ((rd_of_word (by rw [ho]; exact hsup.word (by decide))).trans (hcores.rd ho hf))
  rw [hcores.compat, hcompat] at hmode hvoting
  refine ⟨(hrec rfl (by decide)).trans hbank, ?_, (hrest.spares.rd (by decide)).trans hmode,
    fun h => hrest.voting.trans (hvoting h), fun f ho hl hf => (hrec ho hf).trans (hold f ho hl), ?_⟩
  · exact (hrest.spares.rd (by decide)).trans ((hsup.rd (by decide)).trans ((hcores.spares.rd (by decide)).trans hactive))
  · exact hcoll ▸ List.Subset.trans hcores.spares.reports (List.Subset.trans hsup.reports hrest.spares.reports)

end Sys2Proof.Machine
end

section
/-! PROOF. Boot (O60). -/

namespace Sys2Proof.Machine

variable {s t : State} {carried tried other : Nat} {c0 c1 c2 : Bool} {classes slots : List (Nat × Nat)}

/-- The polders of boot come into service, and a challenge is drawn (R464, R503). -/
def State.bootEnabled (s : State) : State := (s.each bootPolders State.enablePolder).newChallenge

theorem Spares.bootEnabled (s : State) : Spares (fun k => k = agrKey ∨ keyPage k = pgDBG) s s.bootEnabled := by
  refine .each (.each .start fun _ p _ h => h.enablePolder (.inl rfl) p) fun t k hk h => ?_
  have hp := h.otherParts (t := t.drawWord.2) rfl rfl
  exact hp.setWord (.inr (keyPage_regKey (by have := List.mem_range.1 hk; omega) _)) _

theorem bootEnabled_same (s : State) : s.bootEnabled.pwr = s.pwr ∧ s.bootEnabled.now = s.now := by
  have h : Kept [.regs, .pushes, .polders, .fresh] s s.bootEnabled :=
    (Kept.start.each fun _ p h => h.enablePolder (by decide) p).newChallenge (by decide)
  exact ⟨h.same .pwr (by decide), h.same .now (by decide)⟩

/-- Boot begins: the power part's view, and the sampled COMPAT pin (R464, R488). -/
def State.bootReleased (s : State) (compat : Bool) (level : Nat) : State :=
  (((s.setPwr fun p => { p with inReset := false, pllStarts := false, owesReset := p.owesReset || (p.inReset && p.cause != 1) }).wrB
    pgPWR Reg.PWR.BOOT_COMPAT compat).wr pgDBG Reg.DBG.LEVEL_LEVEL level).bootEnabled

/-- The state in which boot begins: the collector has stopped, but after the Dike's own reset (R566). -/
def State.bootCollector (s : State) : State :=
  if s.pwr.cause = 1 then s else s.withColl { s.coll with inflight := [], queue := [], stopped := true }

theorem bootCollector_same (s : State) : s.bootCollector.regs = s.regs ∧ s.bootCollector.now = s.now := by
  unfold State.bootCollector
  split <;> exact ⟨rfl, rfl⟩

theorem bootStart_eq (s : State) (c0 c1 c2 : Bool) : ∃ level, s.bootStart c0 c1 c2 =
    s.bootCollector.bootReleased ((c0 && c1) || (c0 && c2) || (c1 && c2)) level := ⟨_, rfl⟩

/-- What the release of a reset leaves (R464, R487 step 3, R488). -/
theorem bootStart_effect (s : State) (c0 c1 c2 : Bool) : BootBegun (s.bootStart c0 c1 c2) c0 c1 c2 ∧
    (s.bootStart c0 c1 c2).pwr.pllStarts = false ∧ (s.bootStart c0 c1 c2).now = s.now ∧
    (s.bootStart c0 c1 c2).clockRuns = s.clockRuns := by
  obtain ⟨hregs, hnow⟩ := bootCollector_same s
  obtain ⟨level, he⟩ := bootStart_eq s c0 c1 c2
  rw [he]
  unfold State.bootReleased
  generalize hu : (s.bootCollector.setPwr _) = u
  have hpwr : u.pwr.inReset = false ∧ u.pwr.pllStarts = false := by rw [← hu]; exact ⟨rfl, rfl⟩
  have hregs : u.regs = s.regs := by rw [← hu]; exact hregs
  have hnow : u.now = s.now := by rw [← hu]; exact hnow
  generalize hv : (u.wrB pgPWR Reg.PWR.BOOT_COMPAT _).wr pgDBG Reg.DBG.LEVEL_LEVEL level = v
  have hs := Spares.bootEnabled v
  obtain ⟨hp, hn⟩ := bootEnabled_same v
  rw [← hv, wr_pwr, wrB_pwr] at hp
  rw [← hv, wr_now, wrB_now] at hn
  have hcompat : v.rdB pgPWR Reg.PWR.BOOT_COMPAT = ((c0 && c1) || (c0 && c2) || (c1 && c2)) := by
    rw [← hv]
    refine (rdB_congr_rd (rd_wr_page _ _ _ _ _ (by decide) (by decide) (by decide))).trans ?_
    exact rdB_wrB_self _ _ _ (by decide) rfl
  have hclock : v.clockRuns = s.clockRuns := by
    have hkeys : Spares (· ∈ [fieldKey pgPWR Reg.PWR.BOOT_COMPAT, fieldKey pgDBG Reg.DBG.LEVEL_LEVEL]) u v :=
      hv ▸ .wr (.wrB .start (by decide) _) (by decide) _
    exact (hkeys.rdB (by decide)).trans (rdB_congr hregs _ _)
  rw [← hv] at hs hcompat hclock ⊢
  exact ⟨⟨(congrArg Power.inReset hp).trans hpwr.1, (hs.rdB (by decide)).trans hcompat⟩,
    (congrArg Power.pllStarts hp).trans hpwr.2, hn.trans hnow, (hs.rdB (by decide)).trans hclock⟩

/-- The state at another instant. -/
def State.withNow (s : State) (n : Nat) : State := { s with now := n }

@[simp] theorem withNow_pwr (s : State) (n : Nat) : (s.withNow n).pwr = s.pwr := rfl

/-- The time plane runs, from where it was or with the ticks of the stop (R66, R67). -/
def State.pllLocked (s : State) (carried : Nat) : State :=
  if s.pwr.cause = 1 ∨ carried = 0 then s.wrB pgTP Reg.TP.STAT_PLL_LOCK true
  else ((s.wrB pgTP Reg.TP.STAT_PLL_LOCK true).withNow (stampAdd s.now carried)).wrB pgTP Reg.TP.STAT_SLEEP_ADJ true

theorem pllLock_of_starts (h : s.pwr.pllStarts = true) : s.pllLock carried c0 c1 c2 =
    if (s.pllLocked carried).pwr.pinLow then (s.pllLocked carried).setPwr fun p => { p with pllStarts := false }
    else (s.pllLocked carried).bootStart c0 c1 c2 := if_neg (by simp [h])

theorem pllLocked_effect (s : State) (carried : Nat) : (s.pllLocked carried).clockRuns = true ∧ (s.pllLocked carried).pwr = s.pwr ∧
    (s.pllLocked carried).now = (if s.pwr.cause = 1 ∨ carried = 0 then s.now else stampAdd s.now carried) := by
  have hlock : (s.wrB pgTP Reg.TP.STAT_PLL_LOCK true).clockRuns = true := rdB_wrB_self _ _ _ (by decide) rfl
  unfold State.pllLocked
  split
  · exact ⟨hlock, wrB_pwr _ _ _ _, wrB_now _ _ _ _⟩
  · refine ⟨?_, by rw [wrB_pwr, withNow_pwr, wrB_pwr], ?_⟩
    · exact (rdB_wr_field pgTP Reg.TP.STAT_SLEEP_ADJ Reg.TP.STAT_PLL_LOCK _ (by decide) rfl (by decide)).trans hlock
    · exact wrB_now _ _ _ _

/-- A release that is due: the supervisor is out, in BOOT, with a clock, and no bank has been chosen (R487, R490). -/
def State.releaseDue (s : State) : Prop := s.pwr.inReset = false ∧ s.clockRuns = true ∧ s.powerState = 4 ∧ s.supMode = 3 ∧
  s.broke = false ∧ s.pwr.noImage = false ∧ s.rd pgPWR Reg.PWR.BOOT_RESULT = 0

/-- The record counts one try of a bank that is not confirmed (R490). -/
def State.tryCounted (s u : State) : State :=
  if s.rdB pgPWR Reg.PWR.BOOT_CONF = true ∨ s.rd pgPWR Reg.PWR.BOOT_TRIES = 0 then u
  else u.wr pgPWR Reg.PWR.BOOT_TRIES (s.rd pgPWR Reg.PWR.BOOT_TRIES - 1)

theorem supervisorRelease_of_due (h : s.releaseDue) : s.supervisorRelease tried other classes slots =
    match (s.chooseBank tried other).1 with
    | none => (s.chooseBank tried other).2.setPwr fun p => { p with noImage := true }
    | some bank => (s.tryCounted (s.chooseBank tried other).2).releasedFrom bank classes slots := by
  obtain ⟨hr, hc, hp, hm, hb, hn, hres⟩ := h
  unfold State.clockRuns at hc
  unfold State.supervisorRelease
  rw [if_neg (by simp [hr, hc, hp, hm, hb, hn, hres])]
  rfl

/-- The preferred bank is tried where it is confirmed or tries are left (R490). -/
theorem trialBank_preferred (h : s.rdB pgPWR Reg.PWR.BOOT_CONF = true ∨ s.rd pgPWR Reg.PWR.BOOT_TRIES ≠ 0) :
    s.trialBank = (s.rd pgPWR Reg.PWR.BOOT_PREF, s) := by
  unfold State.trialBank
  by_cases hc : s.rdB pgPWR Reg.PWR.BOOT_CONF = true
  · exact if_pos hc
  · exact (if_neg hc).trans (if_neg (h.resolve_left hc))

/-- The record when the other bank is tried in place of the preferred one (R490). -/
def State.otherPreferred (s : State) : State :=
  ((s.wr pgPWR Reg.PWR.BOOT_PREF (1 - s.rd pgPWR Reg.PWR.BOOT_PREF)).wrB pgPWR Reg.PWR.BOOT_CONF true).wr pgPWR Reg.PWR.BOOT_RESULT 2

theorem trialBank_fallback (hc : s.rdB pgPWR Reg.PWR.BOOT_CONF = false) (ht : s.rd pgPWR Reg.PWR.BOOT_TRIES = 0) :
    s.trialBank = (1 - s.rd pgPWR Reg.PWR.BOOT_PREF,
      s.otherPreferred.reportDike .c 0xD3 pgPWR (s.rd pgPWR Reg.PWR.BOOT_PREF * 16 + 2)) := by
  unfold State.trialBank
  exact (if_neg (by simp [hc])).trans (if_pos ht)

theorem otherPreferred_effect (s : State) :
    s.otherPreferred.rd pgPWR Reg.PWR.BOOT_PREF = 1 - s.rd pgPWR Reg.PWR.BOOT_PREF ∧
      s.otherPreferred.rdB pgPWR Reg.PWR.BOOT_CONF = true ∧ s.otherPreferred.rd pgPWR Reg.PWR.BOOT_RESULT = 2 ∧
      s.otherPreferred.coll = s.coll := by
  unfold State.otherPreferred
  refine ⟨?_, ?_, rd_wr_self _ _ _ (by decide), ?_⟩
  · refine (rd_wr_field pgPWR Reg.PWR.BOOT_RESULT Reg.PWR.BOOT_PREF _ (by decide) rfl (by decide)).trans ?_
    refine (rd_wr_field pgPWR Reg.PWR.BOOT_CONF Reg.PWR.BOOT_PREF _ (by decide) rfl (by decide)).trans ?_
    exact (rd_wr_self _ _ _ (by decide)).trans (Nat.mod_eq_of_lt (Nat.lt_of_le_of_lt (Nat.sub_le 1 _) (by decide)))
  · refine (rdB_wr_field pgPWR Reg.PWR.BOOT_RESULT Reg.PWR.BOOT_CONF _ (by decide) rfl (by decide)).trans ?_
    exact rdB_wrB_self _ _ _ (by decide) rfl
  · rw [wr_coll, wrB_coll, wr_coll]

/-- A first class that verifies in the bank tried first (R490). -/
theorem chooseBank_verified {bank : Nat} {u : State} (h : s.trialBank = (bank, u)) : s.chooseBank 0 other =
    (some bank, if u.rd pgPWR Reg.PWR.BOOT_RESULT = 2 then u else u.wr pgPWR Reg.PWR.BOOT_RESULT 1) := by
  unfold State.chooseBank
  rw [h]
  rfl

theorem chooseBank_none (ht : tried ≠ 0) (ho : other ≠ 0) : ∃ u, Spares (· ∈ [regKey pgPWR 0x11C]) s u ∧
    s.chooseBank tried other = (none, u.wr pgPWR Reg.PWR.BOOT_RESULT 3) := by
  have htrial : Spares (· ∈ [regKey pgPWR 0x11C]) s s.trialBank.2 := by
    by_cases h : s.rdB pgPWR Reg.PWR.BOOT_CONF = true ∨ s.rd pgPWR Reg.PWR.BOOT_TRIES ≠ 0
    · rw [trialBank_preferred h]
      exact .start
    · rw [trialBank_fallback (by simp [not_or.1 h]) (not_not.1 (not_or.1 h).2)]
      unfold State.otherPreferred
      exact .reportDike (.wr (.wrB (.wr .start (by decide) _) (by decide) _) (by decide) _) _ _ _ _ _
  refine ⟨_, (htrial.logVerify 0 tried).logVerify 0 other, ?_⟩
  unfold State.chooseBank
  dsimp only
  rw [if_neg ht, if_neg ho]

/-- The choice of the bank leaves the supervisor (R490). -/
theorem chooseBank_sup (s : State) (tried other : Nat) : (s.chooseBank tried other).2.sup = s.sup :=
  (Kept.start.chooseBank (List.Subset.refl _) tried other).same .sup (by decide)

/-- The supervisor is released from the bank that the record prefers (R490). -/
theorem supervisorRelease_preferred (h : s.releaseDue)
    (hc : s.rdB pgPWR Reg.PWR.BOOT_CONF = true ∨ s.rd pgPWR Reg.PWR.BOOT_TRIES ≠ 0) :
    s.supervisorRelease 0 other classes slots = (s.tryCounted (s.wr pgPWR Reg.PWR.BOOT_RESULT 1)).releasedFrom
      (s.rd pgPWR Reg.PWR.BOOT_PREF) classes slots := by
  obtain ⟨-, -, -, -, -, -, hres⟩ := id h
  have hne : s.rd pgPWR Reg.PWR.BOOT_RESULT ≠ 2 := by omega
  rw [supervisorRelease_of_due h, chooseBank_verified (trialBank_preferred hc), if_neg hne]

theorem tryCounted_rd (s u : State) {f : Field} (ho : f.off = 0x11C) (hf : f.lo + f.width ≤ 6) :
    (s.tryCounted u).rd pgPWR f = u.rd pgPWR f := by
  unfold State.tryCounted
  split
  · rfl
  · exact rd_wr_field pgPWR Reg.PWR.BOOT_TRIES f _ (by decide) ho (.inl hf)

theorem tryCounted_tries (s : State) (u : State) (hu : u.rd pgPWR Reg.PWR.BOOT_TRIES = s.rd pgPWR Reg.PWR.BOOT_TRIES)
    (hc : s.rdB pgPWR Reg.PWR.BOOT_CONF = true ∨ s.rd pgPWR Reg.PWR.BOOT_TRIES ≠ 0) :
    (s.tryCounted u).rd pgPWR Reg.PWR.BOOT_TRIES =
      (if s.rdB pgPWR Reg.PWR.BOOT_CONF then s.rd pgPWR Reg.PWR.BOOT_TRIES else s.rd pgPWR Reg.PWR.BOOT_TRIES - 1) := by
  have hlt : s.rd pgPWR Reg.PWR.BOOT_TRIES < 2 ^ 2 := bitsAt_lt _ _ _
  unfold State.tryCounted
  cases hb : s.rdB pgPWR Reg.PWR.BOOT_CONF
  · rw [if_neg (by simpa [hb] using hc), rd_wr_self _ _ _ (by decide), if_neg (by simp)]
    exact Nat.mod_eq_of_lt (Nat.lt_of_le_of_lt (Nat.sub_le _ _) hlt)
  · rw [if_pos (.inl rfl), if_pos rfl, hu]

theorem supervisorRelease_preferred_effect (h : s.releaseDue)
    (hc : s.rdB pgPWR Reg.PWR.BOOT_CONF = true ∨ s.rd pgPWR Reg.PWR.BOOT_TRIES ≠ 0) :
    let t := s.supervisorRelease 0 other classes slots
    t.rd pgPWR Reg.PWR.BOOT_BANK = s.rd pgPWR Reg.PWR.BOOT_PREF ∧ t.activeBank = s.rd pgPWR Reg.PWR.BOOT_PREF ∧
      t.rd pgPWR Reg.PWR.BOOT_RESULT = 1 ∧ t.supMode = (if s.compat then 2 else 0) ∧
      t.rd pgPWR Reg.PWR.BOOT_TRIES =
        (if s.rdB pgPWR Reg.PWR.BOOT_CONF then s.rd pgPWR Reg.PWR.BOOT_TRIES else s.rd pgPWR Reg.PWR.BOOT_TRIES - 1) ∧
      (s.compat = false → t.sup.voting = [0, 1, 2]) := by
  have hcompat : (s.tryCounted (s.wr pgPWR Reg.PWR.BOOT_RESULT 1)).compat = s.compat := rdB_congr_rd
    ((tryCounted_rd _ _ rfl (by decide)).trans
      (rd_wr_field pgPWR Reg.PWR.BOOT_RESULT Reg.PWR.BOOT_COMPAT _ (by decide) rfl (by decide)))
  have hres : (s.tryCounted (s.wr pgPWR Reg.PWR.BOOT_RESULT 1)).rd pgPWR Reg.PWR.BOOT_RESULT = 1 :=
    (tryCounted_rd _ _ rfl (by decide)).trans (rd_wr_self _ _ _ (by decide))
  have htries := tryCounted_tries s (s.wr pgPWR Reg.PWR.BOOT_RESULT 1)
    (rd_wr_field pgPWR Reg.PWR.BOOT_RESULT Reg.PWR.BOOT_TRIES _ (by decide) rfl (by decide)) hc
  obtain ⟨hbank, hactive, hmode, hvoting, hrec, -⟩ := releasedFrom_effect (s.tryCounted (s.wr pgPWR Reg.PWR.BOOT_RESULT 1))
    (bank := s.rd pgPWR Reg.PWR.BOOT_PREF) (bitsAt_lt _ _ _) classes slots
  rw [hcompat] at hmode hvoting
  rw [supervisorRelease_preferred h hc]
  exact ⟨hbank, hactive, (hrec _ rfl (by decide) (by decide)).trans hres, hmode,
    (hrec _ rfl (by decide) (by decide)).trans htries, hvoting⟩

/-- With no try left the other bank is taken (R490). -/
theorem supervisorRelease_fallback_effect (h : s.releaseDue) (hc : s.rdB pgPWR Reg.PWR.BOOT_CONF = false)
    (ht : s.rd pgPWR Reg.PWR.BOOT_TRIES = 0) (hs : s.coll.stopped = false) :
    let t := s.supervisorRelease 0 other classes slots
    t.rd pgPWR Reg.PWR.BOOT_BANK = 1 - s.rd pgPWR Reg.PWR.BOOT_PREF ∧
      t.rd pgPWR Reg.PWR.BOOT_PREF = 1 - s.rd pgPWR Reg.PWR.BOOT_PREF ∧ t.rdB pgPWR Reg.PWR.BOOT_CONF = true ∧
      t.rd pgPWR Reg.PWR.BOOT_RESULT = 2 ∧ Reported t .c 0xD3 pgPWR := by
  obtain ⟨hpref, hconf, hres, hcoll⟩ := otherPreferred_effect s
  have hrep := reported_reportDike s.otherPreferred .c 0xD3 pgPWR (s.rd pgPWR Reg.PWR.BOOT_PREF * 16 + 2) false (hcoll ▸ hs)
  have hregs := reportDike_regs s.otherPreferred .c 0xD3 pgPWR (s.rd pgPWR Reg.PWR.BOOT_PREF * 16 + 2) false
  have he : s.supervisorRelease 0 other classes slots = (s.otherPreferred.reportDike .c 0xD3 pgPWR
      (s.rd pgPWR Reg.PWR.BOOT_PREF * 16 + 2)).releasedFrom (1 - s.rd pgPWR Reg.PWR.BOOT_PREF) classes slots := by
    rw [supervisorRelease_of_due h, chooseBank_verified (trialBank_fallback hc ht), if_pos ((rd_congr hregs _ _).trans hres)]
    exact congrArg (State.releasedFrom · _ classes slots) (if_pos (.inr ht))
  rw [he]
  obtain ⟨hbank, -, -, -, hrec, hin⟩ := releasedFrom_effect (s.otherPreferred.reportDike .c 0xD3 pgPWR
    (s.rd pgPWR Reg.PWR.BOOT_PREF * 16 + 2)) (bank := 1 - s.rd pgPWR Reg.PWR.BOOT_PREF)
    (Nat.lt_of_le_of_lt (Nat.sub_le 1 _) (by decide)) classes slots
  obtain ⟨r, hr, hmatch⟩ := hrep
  exact ⟨hbank, (hrec _ rfl (by decide) (by decide)).trans ((rd_congr hregs _ _).trans hpref),
    (rdB_congr_rd ((hrec _ rfl (by decide) (by decide)).trans (rd_congr hregs _ _))).trans hconf,
    (hrec _ rfl (by decide) (by decide)).trans ((rd_congr hregs _ _).trans hres), r, hin hr, hmatch⟩

/-- With no bank that verifies the supervisor is not released (R491). -/
theorem supervisorRelease_none_effect (h : s.releaseDue) (ht : tried ≠ 0) (ho : other ≠ 0) :
    let t := s.supervisorRelease tried other classes slots
    t.pwr.noImage = true ∧ t.rd pgPWR Reg.PWR.BOOT_RESULT = 3 ∧ t.supMode = 3 ∧ t.sup = s.sup := by
  obtain ⟨u, hu, he⟩ := chooseBank_none (s := s) ht ho
  have hsup := chooseBank_sup s tried other
  obtain ⟨-, -, -, hm, -, -, -⟩ := id h
  rw [he] at hsup
  rw [supervisorRelease_of_due h, he]
  refine ⟨rfl, rd_wr_self _ _ _ (by decide), ?_, hsup⟩
  exact (rd_wr_page pgPWR pgSUP Reg.PWR.BOOT_RESULT Reg.SUP.STAT_MODE 3 (by decide) (by decide) (by decide)).trans
    ((hu.rd (by decide)).trans hm)

/-- The bank that is not the active one (R493). -/
theorem otherValid_eq (s : State) : (if 1 - s.activeBank = 0 then Reg.PWR.BOOT_VALID_A else Reg.PWR.BOOT_VALID_B) =
    if s.activeBank = 1 then Reg.PWR.BOOT_VALID_A else Reg.PWR.BOOT_VALID_B := by
  have hlt : s.activeBank < 2 := bitsAt_lt _ _ _
  have hiff : 1 - s.activeBank = 0 ↔ s.activeBank = 1 := by omega
  simp only [hiff]

/-- The other bank is preferred for the next boot (R493). -/
def State.preferOther (s : State) : State :=
  ((s.wr pgPWR Reg.PWR.BOOT_PREF (1 - s.activeBank)).wrB pgPWR Reg.PWR.BOOT_CONF false).wr pgPWR Reg.PWR.BOOT_TRIES 3

theorem bootPrefer_of_runs (h : s.supRuns = true) : s.bootPrefer =
    if s.rdB pgPWR (if s.activeBank = 1 then Reg.PWR.BOOT_VALID_A else Reg.PWR.BOOT_VALID_B) then s.preferOther
    else (s.wr pgPWR Reg.PWR.STAT_REFUSE 6).reportDike .c 0xDB pgPWR 6 := by
  rw [← otherValid_eq]
  exact if_neg (by simp [h])

theorem preferOther_effect (s : State) : s.preferOther.rd pgPWR Reg.PWR.BOOT_PREF = 1 - s.activeBank ∧
    s.preferOther.rdB pgPWR Reg.PWR.BOOT_CONF = false ∧ s.preferOther.rd pgPWR Reg.PWR.BOOT_TRIES = 3 ∧
    Changes [] [fieldKey pgPWR Reg.PWR.BOOT_PREF] s s.preferOther := by
  have hsp : Spares (· ∈ [fieldKey pgPWR Reg.PWR.BOOT_PREF]) s s.preferOther :=
    .wr (f := Reg.PWR.BOOT_TRIES) (.wrB (f := Reg.PWR.BOOT_CONF) (.wr .start (by decide) _) (by decide) _) (by decide) _
  have hkept : Kept [.regs, .pushes] s s.preferOther :=
    ((Kept.start.wr (List.Subset.refl _) _ _ _).wrB (List.Subset.refl _) _ _ _).wr (List.Subset.refl _) _ _ _
  unfold State.preferOther at hsp hkept ⊢
  refine ⟨?_, ?_, rd_wr_self _ _ _ (by decide), hkept.same, hsp.onlyWords⟩
  · refine (rd_wr_field pgPWR Reg.PWR.BOOT_TRIES Reg.PWR.BOOT_PREF _ (by decide) rfl (by decide)).trans ?_
    refine (rd_wr_field pgPWR Reg.PWR.BOOT_CONF Reg.PWR.BOOT_PREF _ (by decide) rfl (by decide)).trans ?_
    exact (rd_wr_self _ _ _ (by decide)).trans (Nat.mod_eq_of_lt (Nat.lt_of_le_of_lt (Nat.sub_le 1 _) (by decide)))
  · refine (rdB_wr_field pgPWR Reg.PWR.BOOT_TRIES Reg.PWR.BOOT_CONF _ (by decide) rfl (by decide)).trans ?_
    exact rdB_wrB_self _ _ _ (by decide) rfl

/-- A refused preference (R469, R493). -/
theorem bootPrefer_refused_effect (s : State) (hs : s.coll.stopped = false) :
    let t := (s.wr pgPWR Reg.PWR.STAT_REFUSE 6).reportDike .c 0xDB pgPWR 6
    t.rd pgPWR Reg.PWR.STAT_REFUSE = 6 ∧ Reported t .c 0xDB pgPWR ∧ Changes [.coll] [fieldKey pgPWR Reg.PWR.STAT_REFUSE] s t := by
  have hkept : Kept [.regs, .pushes, .coll] s ((s.wr pgPWR Reg.PWR.STAT_REFUSE 6).reportDike .c 0xDB pgPWR 6) :=
    (Kept.start.wr (by decide) _ _ _).reportDike (by decide) _ _ _ _ _
  have hsp : Spares (· ∈ [fieldKey pgPWR Reg.PWR.STAT_REFUSE]) s ((s.wr pgPWR Reg.PWR.STAT_REFUSE 6).reportDike .c 0xDB pgPWR 6) :=
    .reportDike (.wr .start (by decide) _) _ _ _ _ _
  refine ⟨?_, reported_reportDike _ _ _ _ _ _ ?_, hkept.same, hsp.onlyWords⟩
  · exact (rd_congr (reportDike_regs _ _ _ _ _ _) _ _).trans (rd_wr_self _ _ _ (by decide))
  · rw [wr_coll]
    exact hs

/-- Settles O60, by the steps of boot. -/
theorem bootSequence : Obligations.BootSequence := by
  refine ⟨fun s hr hd hc => ⟨_, rfl, ?_⟩, fun s hc => congrArg Host.Outcome.next (if_neg fun h => h.2.2 hc),
    fun s carried c0 c1 c2 h hp => ⟨_, rfl, ?_⟩, fun s carried c0 c1 c2 h hp => ⟨_, rfl, ?_⟩,
    fun s carried c0 c1 c2 h => congrArg Host.Outcome.next (if_pos (by simp [h])),
    fun s other classes slots hr hc hp hm hb hn hres hpref => ⟨_, rfl,
      supervisorRelease_preferred_effect ⟨hr, hc, hp, hm, hb, hn, hres⟩ hpref⟩,
    fun s other classes slots hr hc hp hm hb hn hres hconf ht hs => ⟨_, rfl,
      supervisorRelease_fallback_effect ⟨hr, hc, hp, hm, hb, hn, hres⟩ hconf ht hs⟩,
    fun s tried other classes slots hr hc hp hm hb hn hres ht ho => ⟨_, rfl,
      supervisorRelease_none_effect ⟨hr, hc, hp, hm, hb, hn, hres⟩ ht ho⟩,
    fun s hs => ⟨⟨_, rfl, ?_⟩, fun h => ⟨_, rfl, ?_⟩, fun h => congrArg Host.Outcome.next (if_neg fun h' => h h'.2),
      fun h => ⟨_, rfl, ?_⟩, fun h hc => ⟨_, rfl, ?_⟩⟩⟩
  · unfold State.clockRuns at hc
    rw [show s.supplyValid = _ from if_pos ⟨hr, by simp [hd], by simp [hc]⟩]
    exact ⟨rfl, (Kept.start.setPwr (List.Subset.refl _) _).same⟩
  · obtain ⟨hclock, hpwr, hnow⟩ := pllLocked_effect s carried
    obtain ⟨hboot, hpll, hkeep, hrun⟩ := bootStart_effect (s.pllLocked carried) c0 c1 c2
    rw [pllLock_of_starts h, hpwr, if_neg (by simp [hp])]
    exact ⟨hrun.trans hclock, hboot, hpll, hkeep.trans hnow⟩
  · obtain ⟨hclock, hpwr, -⟩ := pllLocked_effect s carried
    rw [pllLock_of_starts h, hpwr, if_pos hp]
    exact ⟨hclock, congrArg (fun p : Power => { p with pllStarts := false }) hpwr⟩
  · rw [show s.bootReady = _ from if_pos hs]
    exact ⟨rdB_wrB_self _ _ _ (by decide) rfl, changes_wr _ _ _ _⟩
  · rw [show s.bootConfirm = _ from if_pos ⟨hs, h⟩]
    exact ⟨rdB_wrB_self _ _ _ (by decide) rfl, changes_wr _ _ _ _⟩
  · rw [bootPrefer_of_runs hs, if_pos h]
    exact preferOther_effect s
  · rw [bootPrefer_of_runs hs, if_neg (by simp [h])]
    exact bootPrefer_refused_effect s hc

end Sys2Proof.Machine
end

section
/-! PROOF. Host frames (O51). -/

namespace Sys2Proof.Machine

variable {s t : State} {f : HostFrame}

/-- The port after a good frame of 72 edges, before its effect (R411, R421). -/
def State.frameHeard (s : State) : State := s.countFrame.setHif fun h => { h with prevErr := false }

/-- A frame with every edge and its command's CRC is not ignored, but for a write (R411). -/
theorem frameCause_of_good {op : Nat} (ho : op ≠ 1) (he : f.edges = 72) (hc : f.ccrc = crc8 (commandBytes op f.addr)) :
    s.frameCause op f = 0 := by
  unfold State.frameCause
  rw [if_neg (not_not_intro he), if_neg (not_not_intro hc), if_neg fun h => ho h.1, if_neg fun h => ho h.1]

/-- A good frame of OP 00 is answered with the data at its address, where that is not reserved (R410, R412). -/
theorem hostFrame_read (h : HostListens s) (he : f.edges = 72) (hc : f.ccrc = crc8 (commandBytes 0 f.addr)) (ha : f.addr < 0x40000) :
    s.hostFrame 0 f = (s.frameHeard.frameData f.addr).map fun r => (r.2.frameAnswer s.statusWord r.1).setHif fun h =>
      { h with stale := s.frameHeard.frameStale 0 f.addr } := by
  obtain ⟨hanswers, hopen, hreset⟩ := h
  unfold State.hostFrame
  rw [if_neg (not_not_intro hanswers), if_neg (by simp [hopen, hreset])]
  dsimp only
  rw [if_pos he, frameCause_of_good (by decide) he hc, if_neg (by decide), if_neg (by decide), if_neg (Nat.not_le.2 ha),
    if_neg (by decide)]
  rfl

/-- A frame that reads TP.NOW_L takes the instant, and keeps its upper part for the host's port (R48). -/
theorem frameData_nowL (s : State) {addr : Nat} (hp : framePage addr = pgTP) (ho : frameOff addr = 0x100) :
    s.frameData addr = some (BitVec.ofNat 32 s.now, (s.readNowL 0).reply s.answer) := by
  unfold State.frameData
  rw [ho, hp]
  exact (if_neg (by decide)).trans (if_pos ⟨rfl, rfl⟩)

/-- The host port's shadow after a read of TP.NOW_L: all that lies above the low half, be the instant below 2^64 or not (R48). -/
theorem hostRead_nowL_shadow {e : Nat} {a : Fin 1048576} {cc dc : Fin 256} {w : Word} (h : HostListens s) (he : e = 72)
    (hc : cc.val = crc8 (commandBytes 0 a)) (hp : framePage a = pgTP) (ho : frameOff a = 0x100)
    (ht : exec (.hostRead e a cc w dc) s = .next t) : t.tpShadow 0 = s.now / 2 ^ 32 := by
  have ha : a.val < 0x40000 := by
    have hpage : a.val / 0x400 = 5 := hp
    omega
  change settle (s.hostFrame 0 ⟨e, a, cc, w, dc⟩) = .next t at ht
  rw [hostFrame_read h he hc ha, frameData_nowL _ hp ho] at ht
  obtain rfl := Host.Outcome.next.inj ht
  exact tpShadow_readNowL_self s.frameHeard 0

/-- The command's CRC of a frame that reads TP.NOW_L (R410). -/
theorem crc8_of_nowL : crc8 (commandBytes 0 0x1440) = 128 := by
  have hb : commandBytes 0 0x1440 = [0, 0x14, 0x40] := by decide
  have h₁ : crc8Byte 0xFF 0 = 66 := by decide
  have h₂ : crc8Byte 66 0x14 = 170 := by decide
  have h₃ : crc8Byte 170 0x40 = 127 := by decide
  rw [hb, crc8, List.foldl_cons, List.foldl_cons, List.foldl_cons, List.foldl_nil, h₁, h₂, h₃]
  decide

/-- Refutes O51: the host port's shadow of TP_NOW is not cut to 32 bits. In a state whose instant is 2^64, which no run of a sound
part reaches (O5), a frame that reads TP.NOW_L leaves the shadow 2^32, and the statement says 0. -/
theorem not_hostPortFrames : ¬ Obligations.HostPortFrames := by
  unfold Obligations.HostPortFrames
  intro h
  obtain ⟨-, -, hnowL, -⟩ := h
  have hlisten : HostListens { State.reset.enablePolder pdHIF with now := 2 ^ 64, pwr := { inReset := false } } :=
    ⟨by decide, by decide, rfl⟩
  have hcrc : (128 : Fin 256).val = crc8 (commandBytes 0 (0x1440 : Fin 1048576)) := crc8_of_nowL.symm
  obtain ⟨t, ht, -, -, hshadow, -⟩ := hnowL _ 72 0x1440 128 0 0 hlisten rfl hcrc rfl rfl
  rw [hostRead_nowL_shadow hlisten rfl hcrc rfl rfl ht] at hshadow
  exact absurd hshadow (by decide)

end Sys2Proof.Machine
end

section
/-! SUPPORT. Instructions within their budget: the context an instruction leaves, and the frame of its retirement (R83, R110). -/

namespace Sys2Proof.Machine

variable {s t u : State} {e cost pc : Nat} {r r' : Run} {c d : Context} {ws : List (Nat × Word)} {q : Nat} {w : Word}

/-- The registers of `d` are those of `c` but for the listed ones, which take the listed words (R78). -/
def Context.Becomes (c d : Context) (ws : List (Nat × Word)) : Prop :=
  ∀ k, d.get k = ((ws.find? (·.1 == k)).map (·.2)).getD (c.get k)

theorem Context.Becomes.start : c.Becomes c [] := fun _ => rfl

/-- A register written last is the first that counts. -/
theorem Context.Becomes.put (h : c.Becomes d ws) (q : Nat) (w : Word) : c.Becomes (d.put q w) ((q, w) :: ws) := by
  intro k
  rw [get_put, List.find?_cons]
  by_cases hk : k = q
  · simp [hk]
  · rw [if_neg hk, h k, beq_false_of_ne (Ne.symm hk)]

@[simp] theorem put_run (c : Context) (q : Nat) (w : Word) : (c.put q w).run = c.run := rfl
@[simp] theorem put_flags (c : Context) (q : Nat) (w : Word) : (c.put q w).flags = c.flags := rfl
@[simp] theorem cmp_run (c : Context) (lt eq gt un : Bool) : (c.cmp lt eq gt un).run = c.run := rfl
@[simp] theorem cmp_flags (c : Context) (lt eq gt un : Bool) :
    (c.cmp lt eq gt un).flags = { c.flags with lt := lt, eq := eq, gt := gt, un := un } := rfl

/-- One result register and no flag (R83). -/
theorem compute_put {f : Context → Context} (hx : Executes s e cost r) (hf : f (s.ctx e) = (s.ctx e).put q w) :
    Touches [.engines] s (s.compute e cost f) ∧ Computes s (s.compute e cost f) e cost r [(q, w)] (s.ctx e).flags :=
  computes_of_compute hx (by rw [hf, put_run]) (by rw [hf]; exact Context.Becomes.start.put q w) (by rw [hf, put_flags])

/-- A binary32 result with the sticky flags that it raises (R79). -/
theorem compute_putFp {f : Context → Context} {v : FpRes} (hx : Executes s e cost r) (hf : f (s.ctx e) = (s.ctx e).putFp q v) :
    Touches [.engines] s (s.compute e cost f) ∧
      Computes s (s.compute e cost f) e cost r [(q, v.w)] ((s.ctx e).flags.after v) :=
  computes_of_compute hx (by rw [hf]; rfl) (by rw [hf]; exact Context.Becomes.start.put q v.w) (by rw [hf]; rfl)

/-- The compare flags and no register (R88). -/
theorem compute_cmp {f : Context → Context} {lt eq gt un : Bool} (hx : Executes s e cost r)
    (hf : f (s.ctx e) = (s.ctx e).cmp lt eq gt un) : Touches [.engines] s (s.compute e cost f) ∧
      Computes s (s.compute e cost f) e cost r [] { (s.ctx e).flags with lt := lt, eq := eq, gt := gt, un := un } :=
  computes_of_compute hx (by rw [hf, cmp_run]) (by rw [hf]; exact Context.Becomes.start) (by rw [hf, cmp_flags])

end Sys2Proof.Machine
end

section
/-! PROOF. Moves, integer arithmetic and compares (O10), and binary32 instructions (O11). -/

namespace Sys2Proof.Machine

/-- A word with its upper half replaced (MOVH). -/
theorem withBits_upper (w : Word) (imm : BitVec 16) : withBits w 16 16 imm.toNat = imm ++ w.extractLsb' 0 16 := by
  apply BitVec.eq_of_toNat_eq
  have hi := imm.isLt
  have hw := w.isLt
  rw [withBits_toNat w 16 16 _ (by decide), BitVec.toNat_append, ← Nat.shiftLeft_add_eq_or_of_lt (BitVec.isLt _),
    BitVec.extractLsb'_toNat, Nat.shiftLeft_eq, Nat.shiftRight_zero]
  omega

theorem compare_signed (c : Context) (a b : Word) : compare c a b 1 = c.cmp (a.slt b) (a == b) (b.slt a) false := rfl

theorem compare_unsigned (c : Context) (a b : Word) : compare c a b 2 = c.cmp (a.ult b) (a == b) (b.ult a) false := rfl

theorem compare_binary32 (c : Context) (a b : Word) :
    compare c a b 0 = c.cmp (fpLt a b) (fpEq a b) (fpLt b a) (fpIsNaN a || fpIsNaN b) := rfl

/-- Settles O10: each instruction is one register or the compare flags, and the operations counted. -/
theorem integerAndMoveResults : Obligations.IntegerAndMoveResults := fun _ _ _ hx =>
  ⟨fun _ _ => ⟨_, rfl, compute_put hx rfl⟩,
   fun _ _ => ⟨_, rfl, compute_put hx rfl⟩,
   fun _ _ => ⟨_, rfl, compute_put hx (congrArg _ (withBits_upper _ _))⟩,
   fun _ _ _ => ⟨_, rfl, compute_put hx rfl⟩,
   fun _ _ _ => ⟨_, rfl, compute_put hx rfl⟩,
   fun _ _ _ => ⟨_, rfl, compute_put hx rfl⟩,
   fun _ _ _ => ⟨_, rfl, compute_put hx rfl⟩,
   fun _ _ _ => ⟨_, rfl, compute_put hx rfl⟩,
   fun _ _ _ => ⟨_, rfl, compute_put hx rfl⟩,
   fun _ _ _ => ⟨_, rfl, compute_put hx rfl⟩,
   fun _ _ _ => ⟨_, rfl, compute_put hx rfl⟩,
   fun _ _ => ⟨_, rfl, compute_cmp hx (compare_signed _ _ _)⟩,
   fun _ _ => ⟨_, rfl, compute_cmp hx (compare_unsigned _ _ _)⟩,
   fun _ _ => ⟨_, rfl, compute_cmp hx (compare_binary32 _ _ _)⟩⟩

/-- An integer as binary32 raises no flag (R84). -/
theorem putFp_convert_toFloat (c : Context) (q : Nat) (a : Word) : c.putFp q (convert a 0) = c.put q (fpOfInt a.toInt) := by
  unfold Context.putFp Context.sticky convert
  simp only [if_pos, Bool.or_false]

/-- CVT to int32 rounds to nearest, or toward zero (R84). -/
theorem convert_toInt (a : Word) {fn : Nat} (h : fn ≠ 0) : convert a fn = fpToInt32 a (fn == 2) := if_neg h

theorem val_beq_two : ∀ fn : Fin 3, (fn.val == 2) = (fn == 2) := by decide

/-- Settles O11: each instruction is one register with the sticky flags of its result, and its operations counted. -/
theorem binary32Results : Obligations.Binary32Results := fun _ _ _ =>
  ⟨fun _ _ _ hx => ⟨_, rfl, compute_putFp hx rfl⟩,
   fun _ _ _ hx => ⟨_, rfl, compute_putFp hx rfl⟩,
   fun _ _ _ hx => ⟨_, rfl, compute_putFp hx rfl⟩,
   fun _ _ _ hx => ⟨_, rfl, compute_putFp hx rfl⟩,
   fun _ _ hx => ⟨_, rfl, compute_putFp hx rfl⟩,
   fun _ _ hx => ⟨_, rfl, compute_put hx rfl⟩,
   fun _ _ hx => ⟨_, rfl, compute_put hx rfl⟩,
   fun _ _ _ hx => ⟨_, rfl, compute_put hx rfl⟩,
   fun _ _ _ hx => ⟨_, rfl, compute_put hx rfl⟩,
   fun _ _ _ _ hx => ⟨_, rfl, compute_put hx rfl⟩,
   fun _ _ _ _ hx => ⟨_, rfl, compute_putFp hx rfl⟩,
   fun _ _ _ _ hx => ⟨_, rfl, compute_putFp hx rfl⟩,
   fun _ _ hx => ⟨_, rfl, compute_put hx (putFp_convert_toFloat _ _ _)⟩,
   fun _ _ fn hx hfn => ⟨_, rfl, compute_putFp hx
     (congrArg _ ((convert_toInt _ (Fin.val_ne_of_ne hfn)).trans (congrArg _ (val_beq_two fn))))⟩⟩

end Sys2Proof.Machine
end

section
/-! SUPPORT. Words of memory: what is read of a word just written, and of every byte beside it (R559). -/

namespace Sys2Proof.Machine

variable {s t u : State} {a b n m : Nat}

/-- A word is the word of its bytes. -/
theorem wordOfBytes_byteOfWord (w : Word) :
    wordOfBytes (byteOfWord w 0) (byteOfWord w 1) (byteOfWord w 2) (byteOfWord w 3) = w := by
  apply BitVec.eq_of_toNat_eq
  have hw := w.isLt
  simp only [wordOfBytes, byteOfWord, bitsAt, BitVec.toNat_ofNat]
  omega

theorem mword_congr (h : t.mem = s.mem) (a : Nat) : t.mword a = s.mword a := by
  unfold State.mword State.byte
  rw [h]

theorem OnlyBytes.trans (h : OnlyBytes a n s t) (g : OnlyBytes b m t u) {c k : Nat} (ha : c ≤ a) (ha' : a + n ≤ c + k)
    (hb : c ≤ b) (hb' : b + m ≤ c + k) : OnlyBytes c k s u :=
  fun x hx => (g x (by omega)).trans (h x (by omega))

theorem OnlyBytes.mword (h : OnlyBytes a n s t) (hb : b + 4 ≤ a ∨ a + n ≤ b) : t.mword b = s.mword b := by
  unfold State.mword
  rw [h b (by omega), h (b + 1) (by omega), h (b + 2) (by omega), h (b + 3) (by omega)]

theorem onlyBytes_putMword (s : State) (a : Nat) (w : Word) : OnlyBytes a 4 s (s.putMword a w) := fun b hb => by
  unfold State.putMword
  rw [byte_putByte_ne _ _ _ _ (by omega), byte_putByte_ne _ _ _ _ (by omega), byte_putByte_ne _ _ _ _ (by omega),
    byte_putByte_ne _ _ _ _ (by omega)]

@[simp] theorem mword_putMword_self (s : State) (a : Nat) (w : Word) : (s.putMword a w).mword a = w := by
  refine Eq.trans ?_ (wordOfBytes_byteOfWord w)
  unfold State.putMword State.mword
  simp only [byte_putByte_self, byte_putByte_ne, ne_eq, Nat.add_left_cancel_iff, Nat.left_eq_add,
    OfNat.ofNat_ne_zero, OfNat.one_ne_ofNat, not_false_eq_true, one_ne_zero, Nat.reduceEqDiff]

theorem mword_putMword_ne (s : State) (w : Word) (h : b + 4 ≤ a ∨ a + 4 ≤ b) : (s.putMword a w).mword b = s.mword b :=
  (onlyBytes_putMword s a w).mword h

/-- Words written at their indexes of the record at key `a` (R90). -/
def State.putRecord (s : State) (a : Nat) (ws : List (Nat × Word)) : State :=
  s.each ws fun s w => s.putMword (a + 4 * w.1) w.2

theorem putRecord_cons (s : State) (a : Nat) (x : Nat × Word) (ws : List (Nat × Word)) :
    s.putRecord a (x :: ws) = (s.putMword (a + 4 * x.1) x.2).putRecord a ws := rfl

theorem kept_putRecord (s : State) (a : Nat) (ws : List (Nat × Word)) : Kept [.mem, .chk] s (s.putRecord a ws) :=
  Kept.start.each fun _ _ h => h.putMword (List.Subset.refl _) _ _

/-- Beside the words listed, every byte reads as before. -/
theorem byte_putRecord (s : State) (ws : List (Nat × Word)) (h : ∀ i w, (i, w) ∈ ws → b < a + 4 * i ∨ a + 4 * i + 4 ≤ b) :
    (s.putRecord a ws).byte b = s.byte b := by
  induction ws generalizing s with
  | nil => rfl
  | cons x ws ih =>
    rw [putRecord_cons, ih _ fun i w hm => h i w (List.mem_cons_of_mem x hm)]
    exact onlyBytes_putMword s _ _ b (h x.1 x.2 List.mem_cons_self)

theorem mword_putRecord_ne (s : State) (ws : List (Nat × Word)) {i : Nat} (h : i ∉ ws.map (·.1)) :
    (s.putRecord a ws).mword (a + 4 * i) = s.mword (a + 4 * i) := by
  have hne : ∀ j w, (j, w) ∈ ws → j ≠ i := fun j w hm hj => h (hj ▸ List.mem_map_of_mem hm)
  unfold State.mword
  congr 1 <;> exact byte_putRecord s ws fun j w hm => by have := hne j w hm; omega

/-- Each listed word is read back, where no index is listed twice. -/
theorem mword_putRecord (s : State) {ws : List (Nat × Word)} (h : (ws.map (·.1)).Nodup) {i : Nat} {w : Word} (hm : (i, w) ∈ ws) :
    (s.putRecord a ws).mword (a + 4 * i) = w := by
  induction ws generalizing s with
  | nil => cases hm
  | cons x ws ih =>
    obtain ⟨hx, hws⟩ := List.nodup_cons.1 h
    rw [putRecord_cons]
    rcases List.mem_cons.1 hm with rfl | hm
    · rw [mword_putRecord_ne _ _ hx, mword_putMword_self]
    · exact ih _ hws hm

end Sys2Proof.Machine
end

section
/-! SUPPORT. The end of an instruction: its context stands, its operations are counted, and nothing else of the engines changes
(R76, R83). -/

namespace Sys2Proof.Machine

variable {s t u : State} {e cost pc : Nat} {r r' : Run} {c d : Context} {ws : List (Nat × Word)}

/-- The active context of engine `e` is `c` as far as a run executes in it, and every other engine is as it was. -/
def CtxBecomes (s t : State) (e : Nat) (c : Context) : Prop :=
  t.eng e = (s.eng e).withActive c ∧ ∀ k, k ≠ e → t.eng k = s.eng k

theorem withActive_self (x : Engine) : x.withActive x.activeCtx = x := by
  unfold Engine.withActive Engine.activeCtx
  split <;> rfl

theorem ctxBecomes_self (s : State) (e : Nat) : CtxBecomes s s e (s.ctx e) := ⟨(withActive_self _).symm, fun _ _ => rfl⟩

theorem ctxBecomes_setCtx (s : State) (e : Nat) (c : Context) : CtxBecomes s (s.setCtx e c) e c :=
  ⟨eng_setCtx_self s e c, fun _ hk => eng_setEng_ne s _ hk⟩

theorem CtxBecomes.after (h : CtxBecomes t u e c) (ht : t.engines = s.engines) : CtxBecomes s u e c :=
  ⟨h.1.trans (by rw [eng_congr ht]), fun k hk => (h.2 k hk).trans (eng_congr ht k)⟩

theorem CtxBecomes.followedBy (h : CtxBecomes s t e c) (hu : u.engines = t.engines) : CtxBecomes s u e c :=
  ⟨(eng_congr hu e).trans h.1, fun k hk => (eng_congr hu k).trans (h.2 k hk)⟩

theorem CtxBecomes.ctx (h : CtxBecomes s t e c) (hc : c.run = some r) : t.ctx e = c := by
  unfold State.ctx
  rw [h.1]
  exact withActive_activeCtx _ _ (by rw [hc]; rfl)

theorem ctx_congr (h : t.engines = s.engines) (e : Nat) : t.ctx e = s.ctx e := by
  unfold State.ctx
  rw [eng_congr h]

/-- An instruction of `cost` operations has ended with context `c` (R20, R76, R83). -/
structure Ends (s t : State) (e cost : Nat) (c : Context) : Prop where
  ctx : t.ctx e = c
  window : (t.eng e).window = { (s.eng e).window with ops := (s.eng e).window.ops + cost }
  waiting : (t.eng e).waiting = (s.eng e).waiting
  others : ∀ k, k ≠ e → t.eng k = s.eng k

/-- The context `c` once its run has counted `cost` operations and goes on at `pc`. -/
def Context.advance (c : Context) (r : Run) (cost pc : Nat) : Context := { c with run := some { r with pc := pc, ops := r.ops + cost } }

theorem advance_run (c : Context) (r : Run) (cost pc : Nat) :
    (c.advance r cost pc).run = some { r with pc := pc, ops := r.ops + cost } := rfl

/-- Within the budget, an instruction that has left context `c` ends with it (R83, R110). -/
theorem retire_ends (hx : Executes s e cost r) (hu : CtxBecomes s u e c) (hc : c.run = some r') (ho : r'.ops = r.ops)
    (hd : (u.loop r'.loop).desc = (s.loop r.loop).desc) (pc : Nat) :
    Touches [.engines] u (u.retire e cost pc) ∧ Ends s (u.retire e cost pc) e cost (c.advance r' cost pc) := by
  obtain ⟨-, h0, hb⟩ := hx
  have hctx := hu.ctx hc
  obtain ⟨htouch, heng, hother⟩ := retire_within (pc := pc) (by rw [hctx, hc]) h0 (by rw [hd, ho]; exact hb)
  refine ⟨htouch, ?_, ?_, ?_, fun k hk => (hother k hk).trans (hu.2 k hk)⟩
  · unfold State.ctx
    rw [heng, counted_activeCtx]
    exact congrArg (fun x : Context => x.advance r' cost pc) hctx
  · rw [heng, Engine.counted, hu.1, withActive_window]
  · rw [heng, Engine.counted, hu.1]
    simp only [withActive_waiting]

theorem Ends.goesOn (h : Ends s t e cost (c.advance r cost pc)) : GoesOn s t e cost pc r :=
  ⟨by rw [h.ctx, advance_run], h.window, h.waiting, h.others⟩

theorem Ends.writesRegs (h : Ends s t e cost (c.advance r cost pc)) (hw : (s.ctx e).Becomes c ws) : WritesRegs s t e ws :=
  fun k => by rw [h.ctx]; exact hw k

theorem Ends.flags (h : Ends s t e cost (c.advance r cost pc)) : (t.ctx e).flags = c.flags := by
  rw [h.ctx]
  rfl

theorem Ends.computes {fl : Flags} (h : Ends s t e cost (c.advance r cost (r.pc + 1))) (hw : (s.ctx e).Becomes c ws)
    (hf : c.flags = fl) : Computes s t e cost r ws fl :=
  ⟨h.goesOn, h.writesRegs hw, h.flags.trans hf⟩

theorem Touches.mono {P Q : List Part} (h : Touches P s t) (hPQ : P ⊆ Q) : Touches Q s t := fun p hp => h p fun hm => hp (hPQ hm)

theorem Touches.trans {P : List Part} (h : Touches P s t) (g : Touches P t u) : Touches P s u := fun p hp => by
  have h1 := h p hp
  have h2 := g p hp
  cases p <;> exact h2.trans h1

theorem reported_reportLoop (s : State) (cls : FaultClass) (code page l low : Nat) (h : s.coll.stopped = false) :
    Reported (s.reportLoop cls code page l low) cls code page := reported_reportFab s cls code page _ _ h

theorem Spares.reportLoop {K : Nat → Prop} {s₀ : State} (h : Spares K s₀ s) (cls : FaultClass) (code page l low : Nat) :
    Spares K s₀ (s.reportLoop cls code page l low) := h.reportFab cls code page _ _

end Sys2Proof.Machine
end

section
/-! SUPPORT. Operations counted beyond the budget, and the end of a run: its context is free, its records follow, what was held
for its loop is written, and a run that ended at EXIT leaves its checkpoint (R72, R73, R90, R110, R114, R132). -/

namespace Sys2Proof.Machine

variable {s t u : State} {e l cost pc code : Nat} {r : Run} {c : Context} {atExit : Bool}

/-- The words of engine `e`'s page at the listed offsets. -/
def engineKey (offs : List Nat) (e k : Nat) : Prop := ∃ o ∈ offs, k = regKey (pgLE e) o

theorem not_engineKey {offs : List Nat} {o : Nat} (h : o ∉ offs) (e : Nat) : ¬ engineKey offs e (regKey (pgLE e) o) := by
  rintro ⟨o', ho', he⟩
  have : o = o' := by
    unfold regKey at he
    omega
  exact h (this ▸ ho')

theorem engineKey.mono {P Q : List Nat} (h : P ⊆ Q) (k : Nat) (hk : engineKey P e k) : engineKey Q e k := by
  obtain ⟨o, ho, he⟩ := hk
  exact ⟨o, h ho, he⟩

/-- A run with `cost` more operations counted, marked where that exceeds its budget (R110). -/
def Run.spent (r : Run) (cost pc budget : Nat) : Run :=
  { r with pc := pc, ops := r.ops + cost, overBudget := r.overBudget || decide (budget < r.ops + cost) }

/-- The engine whose active run has spent operations. -/
def Engine.spent (x : Engine) (r : Run) (cost pc budget : Nat) : Engine :=
  { x.withActive { x.activeCtx with run := some (r.spent cost pc budget) } with window := { x.window with ops := x.window.ops + cost } }

theorem spent_activeCtx (x : Engine) (r : Run) (cost pc budget : Nat) :
    (x.spent r cost pc budget).activeCtx = { x.activeCtx with run := some (r.spent cost pc budget) } := by
  unfold Engine.spent Engine.withActive Engine.activeCtx
  split <;> simp_all

/-- The first time a run exceeds its budget it is counted, and a loop's first such run is logged (R110). -/
def State.budgetExceeded (s : State) (e l : Nat) : State :=
  let s := s.count (pgLE e) Reg.LE.BUDGET_CNT_COUNT
  let x := s.loop l
  let s := s.setLoop l { x with budgetLogged := true }
  if x.budgetLogged then s else s.reportLoop .c 0x21 (pgLE e) l

theorem budgetExceeded_engines (s : State) (e l : Nat) : (s.budgetExceeded e l).engines = s.engines := by
  have h : Kept [.regs, .pushes, .coll, .loops] s (s.budgetExceeded e l) :=
    .ite (((Kept.start.count (by decide) _ _).setLoop (by decide) _ _).reportLoop (by decide) _ _ _ _ _)
      fun _ => (Kept.start.count (by decide) _ _).setLoop (by decide) _ _
  exact h.same .engines (by decide)

theorem budgetExceeded_loop (s : State) (e l : Nat) :
    (s.budgetExceeded e l).loop l = { s.loop l with budgetLogged := true } := by
  have hc : (s.count (pgLE e) Reg.LE.BUDGET_CNT_COUNT).loop l = s.loop l :=
    loop_congr ((Kept.start.count (List.Subset.refl _) _ _).same .loops (by decide)) l
  unfold State.budgetExceeded
  dsimp only
  split
  · rw [loop_setLoop_self, hc]
  · refine (loop_congr (reportFab_loops _ _ _ _ _ _) l).trans ?_
    rw [loop_setLoop_self, hc]

theorem Spares.budgetExceeded (s : State) (e l : Nat) : Spares (engineKey [0xC, 0x160] e) s (s.budgetExceeded e l) := by
  have hcount : Spares (engineKey [0xC, 0x160] e) s (s.count (pgLE e) Reg.LE.BUDGET_CNT_COUNT) :=
    .count .start ⟨0x160, by decide, rfl⟩ ⟨0xC, by decide, rfl⟩
  have hset := hcount.otherParts (setLoop_regs _ l { (s.count (pgLE e) Reg.LE.BUDGET_CNT_COUNT).loop l with budgetLogged := true })
    (setLoop_coll _ _ _)
  exact .ite hset (hset.reportLoop _ _ _ _ _)

/-- What counting operations leaves, within the budget or beyond it. -/
structure Spent (s t : State) (e cost pc : Nat) (r : Run) : Prop where
  engine : t.eng e = (s.eng e).spent r cost pc (descBudget (s.loop r.loop).desc)
  loop : ∃ b, t.loop r.loop = { s.loop r.loop with budgetLogged := b }
  spares : Spares (engineKey [0xC, 0x160] e) s t

/-- The operations of an instruction counted in its run and in the engine's window. -/
def State.opsCounted (s : State) (e cost pc : Nat) (r : Run) : State :=
  let u := s.setCtx e { s.ctx e with run := some (r.spent cost pc (descBudget (s.loop r.loop).desc)) }
  u.setEng e { u.eng e with window := { (u.eng e).window with ops := (u.eng e).window.ops + cost } }

theorem spend_eq (hr : (s.ctx e).run = some r) (cost pc : Nat) : s.spend e cost pc =
    if descBudget (s.loop r.loop).desc < r.ops + cost ∧ ¬ r.overBudget = true
    then (s.opsCounted e cost pc r).budgetExceeded e r.loop else s.opsCounted e cost pc r := by
  unfold State.spend
  simp only [hr]
  rfl

theorem opsCounted_eng (s : State) (e cost pc : Nat) (r : Run) :
    (s.opsCounted e cost pc r).eng e = (s.eng e).spent r cost pc (descBudget (s.loop r.loop).desc) := by
  unfold State.opsCounted
  dsimp only
  rw [eng_setEng_self, eng_setCtx_self, withActive_window]
  rfl

theorem kept_opsCounted (s : State) (e cost pc : Nat) (r : Run) : Kept [.engines] s (s.opsCounted e cost pc r) :=
  (Kept.start.setCtx (List.Subset.refl _) _ _).setEng (List.Subset.refl _) _ _

theorem spend_spent (hr : (s.ctx e).run = some r) (cost pc : Nat) : Spent s (s.spend e cost pc) e cost pc r := by
  have hk := (kept_opsCounted s e cost pc r).same
  have hloop := loop_congr (hk .loops (by decide)) r.loop
  have hsp : Spares (engineKey [0xC, 0x160] e) s (s.opsCounted e cost pc r) :=
    Spares.start.otherParts (hk .regs (by decide)) (hk .coll (by decide))
  rw [spend_eq hr]
  split
  · exact ⟨(eng_congr (budgetExceeded_engines _ _ _) e).trans (opsCounted_eng s e cost pc r),
      ⟨true, by rw [budgetExceeded_loop, hloop]⟩, hsp.trans (.budgetExceeded _ e r.loop)⟩
  · exact ⟨opsCounted_eng s e cost pc r, ⟨(s.loop r.loop).budgetLogged, hloop⟩, hsp⟩

theorem Spent.ctx (h : Spent s t e cost pc r) :
    (t.ctx e).run = some (r.spent cost pc (descBudget (s.loop r.loop).desc)) := by
  unfold State.ctx
  rw [h.engine, spent_activeCtx]

/-- A run that ended after it had counted its last operations has ended. -/
theorem Spent.runEnded (h : Spent s t e cost pc r) (g : RunEnded t u e) : RunEnded s u e := by
  obtain ⟨ga, gb⟩ := g
  rw [h.engine] at ga gb
  unfold Engine.spent Engine.withActive at ga gb
  constructor
  · intro ha
    simpa [ha] using ga (by simp [ha])
  · intro ha
    simpa [ha] using gb (by simp [ha])

/-- A run's own words are written: EXC where it met a sticky flag or a rejected output, and RUNS (R90, R114). -/
def State.runRecorded (s : State) (e : Nat) (c : Context) (r : Run) : State :=
  let s := s.recordExc e c r
  s.wr (pgLE e) Reg.LE.RUNS_COUNT (s.rd (pgLE e) Reg.LE.RUNS_COUNT + 1)

/-- The context of a run is free, with the snapshot that was asked for taken (R72, R467). -/
def State.ctxFreed (s : State) (e : Nat) (c : Context) (l : Nat) (atExit : Bool) : State :=
  (if atExit then s.takeSnapshot e c l else s).setCtx e {}

/-- A loop with the delay of a run, where the run had one (R56). -/
def LoopRec.delayed (x : LoopRec) (d : Option Nat) : LoopRec := match d with
  | some d => x.withDelay d
  | none => x

/-- A loop after its run (R90, R113). -/
def LoopRec.afterRun (x : LoopRec) (r : Run) : LoopRec :=
  let x := x.delayed r.delay
  { x with
    prevStamp := some r.stamp, costs := (r.ops :: x.costs).take 1024
    consec := if x.overrun then x.consec else 0, overrun := false, late := false }

/-- What waited for the end of a run of loop `l` is done: rebuilds and held writes (R73, R344). -/
def State.runSettled (s : State) (r : Run) : State :=
  ((s.setLoop r.loop ((s.loop r.loop).afterRun r)).waitingRebuilds r.loop).applyHeld r.loop

/-- The run of the active context has ended but for its checkpoint. -/
def State.runDone (s : State) (e : Nat) (r : Run) (atExit : Bool) : State :=
  ((s.runRecorded e (s.ctx e) r).ctxFreed e (s.ctx e) r.loop atExit).runSettled r

/-- A loop that is to go is freed once its run is over (R121). -/
def State.freedIfGone (s : State) (l : Nat) : State := if (s.loop l).gone then s.freeLoop l else s

theorem endRun_at_exit (hr : (s.ctx e).run = some r) :
    s.endRun e true = ((s.runDone e r true).writeCkpt r.loop r.stamp).freedIfGone r.loop := by
  unfold State.endRun
  simp only [hr]
  rfl

theorem endRun_without_exit (hr : (s.ctx e).run = some r) : s.endRun e false = (s.runDone e r false).freedIfGone r.loop := by
  unfold State.endRun
  simp only [hr]
  rfl

theorem Spares.recordExc (s : State) (e : Nat) (c : Context) (r : Run) :
    Spares (engineKey [0xC, 0x158, 0x15C] e) s (s.recordExc e c r) :=
  .ite (.count (.setWord .start ⟨0x158, by decide, rfl⟩ _) ⟨0x15C, by decide, rfl⟩ ⟨0xC, by decide, rfl⟩) .start

theorem kept_runRecorded (s : State) (e : Nat) (c : Context) (r : Run) : Kept [.regs, .pushes, .coll] s (s.runRecorded e c r) :=
  (Kept.start.recordExc (List.Subset.refl _) _ _ _).wr (by decide) _ _ _

theorem Spares.runRecorded (s : State) (e : Nat) (c : Context) (r : Run) :
    Spares (engineKey [0xC, 0x10C, 0x158, 0x15C] e) s (s.runRecorded e c r) :=
  ((Spares.recordExc s e c r).mono (engineKey.mono (by decide))).wr ⟨0x10C, by decide, rfl⟩ _

theorem runRecorded_count (s : State) (e : Nat) (c : Context) (r : Run) :
    (s.runRecorded e c r).rd (pgLE e) Reg.LE.RUNS_COUNT = (s.rd (pgLE e) Reg.LE.RUNS_COUNT + 1) % 2 ^ 32 := by
  unfold State.runRecorded
  rw [rd_wr_self _ _ _ (by decide), (Spares.recordExc s e c r).rd (not_engineKey (by decide) e)]
  rfl

theorem kept_ctxFreed (s : State) (e : Nat) (c : Context) (l : Nat) (atExit : Bool) :
    Kept [.engines] s (s.ctxFreed e c l atExit) := by
  unfold State.ctxFreed
  cases atExit
  · exact Kept.start.setCtx (List.Subset.refl _) _ _
  · exact (Kept.start.takeSnapshot (List.Subset.refl _) _ _ _).setCtx (List.Subset.refl _) _ _

theorem takeSnapshot_contexts (s : State) (e : Nat) (c : Context) (l : Nat) :
    ((s.takeSnapshot e c l).eng e).a = (s.eng e).a ∧ ((s.takeSnapshot e c l).eng e).bc = (s.eng e).bc := by
  unfold State.takeSnapshot
  dsimp only
  split
  · rw [eng_setEng_self]
    exact ⟨rfl, rfl⟩
  · exact ⟨rfl, rfl⟩

theorem ctxFreed_runEnded (s : State) (e : Nat) (c : Context) (l : Nat) (atExit : Bool) :
    RunEnded s (s.ctxFreed e c l atExit) e := by
  have hsnap : ∃ u : State, ((u.eng e).a = (s.eng e).a ∧ (u.eng e).bc = (s.eng e).bc) ∧ s.ctxFreed e c l atExit = u.setCtx e {} := by
    cases atExit
    · exact ⟨s, ⟨rfl, rfl⟩, rfl⟩
    · exact ⟨_, takeSnapshot_contexts s e c l, rfl⟩
  obtain ⟨u, ⟨ha, hb⟩, heq⟩ := hsnap
  unfold RunEnded
  rw [heq, eng_setCtx_self]
  unfold Engine.withActive
  rw [← ha, ← hb]
  exact ⟨fun h => by rw [if_pos h]; exact ⟨rfl, rfl⟩, fun h => by simp [h]⟩

theorem RunEnded.after (h : RunEnded t u e) (ht : t.engines = s.engines) : RunEnded s u e := by
  unfold RunEnded at h ⊢
  rw [← eng_congr ht]
  exact h

theorem RunEnded.followedBy (h : RunEnded s t e) (hu : u.engines = t.engines) : RunEnded s u e := by
  unfold RunEnded
  rw [eng_congr hu]
  exact h

/-- The writes held for a loop's state area, in order of arrival (R73). -/
def State.heldWritten (s : State) (l : Nat) : State :=
  s.each (s.loop l).held fun t w => t.putMword (leBase (s.loop l).engine + (s.loop l).stOff + w.1) w.2

theorem kept_heldWritten (s : State) (l : Nat) : Kept [.mem, .chk] s (s.heldWritten l) :=
  Kept.start.each fun _ _ h => h.putMword (List.Subset.refl _) _ _

theorem applyHeld_eq (s : State) (l : Nat) :
    s.applyHeld l = (s.heldWritten l).setLoop l { (s.heldWritten l).loop l with held := [] } := rfl

theorem applyHeld_loop (s : State) (l : Nat) : (s.applyHeld l).loop l = { s.loop l with held := [] } := by
  rw [applyHeld_eq, loop_setLoop_self, loop_congr ((kept_heldWritten s l).same .loops (by decide))]

theorem kept_runSettled (s : State) (r : Run) : Kept [.mem, .chk, .coll, .loops] s (s.runSettled r) :=
  ((Kept.start.setLoop (by decide) _ _).waitingRebuilds (by decide) _).applyHeld (by decide) _

theorem runSettled_loop (s : State) (r : Run) :
    (s.runSettled r).loop r.loop = { (s.loop r.loop).afterRun r with held := [] } := by
  unfold State.runSettled
  rw [applyHeld_loop, loop_congr ((Kept.start.waitingRebuilds (List.Subset.refl _) _).same .loops (by decide)), loop_setLoop_self]

theorem Spares.waitingRebuilds {K : Nat → Prop} (h : Spares K s t) (l : Nat) : Spares K s (t.waitingRebuilds l) := by
  unfold State.waitingRebuilds
  extract_lets mine chk u
  have hu : Spares K s u := h.otherParts rfl rfl
  refine hu.each fun v x _ g => .ite (Spares.reportFab ?_ _ _ _ _ _) g
  have hk := Kept.rebuildLine (L := [.mem, .chk]) (Kept.start (s := v)) (List.Subset.refl _) l
    (leBase (v.loop l).engine + (v.loop l).stOff) x.2
  exact g.otherParts (hk.same .regs (by decide)) (hk.same .coll (by decide))

theorem Spares.runSettled {K : Nat → Prop} (h : Spares K s t) (r : Run) : Spares K s (t.runSettled r) := by
  have hset := (h.otherParts (setLoop_regs t r.loop ((t.loop r.loop).afterRun r)) (setLoop_coll _ _ _)).waitingRebuilds r.loop
  have hk := Kept.applyHeld (L := [.mem, .chk, .loops])
    (Kept.start (s := (t.setLoop r.loop ((t.loop r.loop).afterRun r)).waitingRebuilds r.loop)) (List.Subset.refl _) r.loop
  exact hset.otherParts (hk.same .regs (by decide)) (hk.same .coll (by decide))

/-- A checkpoint where the loop keeps one: stamped in the buffer that is next, and the other buffer is next then (R132, R133). -/
theorem writeCkpt_effect (s : State) (l stamp : Nat) (h : 0 < descCkpt (s.loop l).desc) :
    (s.writeCkpt l stamp).mword (ckptBuf l (s.loop l).ckptB) = BitVec.ofNat 32 stamp ∧
    (s.writeCkpt l stamp).mword (ckptBuf l (s.loop l).ckptB + 4) = BitVec.ofNat 32 (stamp / 2 ^ 32) ∧
    (s.writeCkpt l stamp).loop l = { s.loop l with ckptB := !(s.loop l).ckptB } := by
  unfold State.writeCkpt
  dsimp only
  rw [if_neg (Nat.ne_of_gt h)]
  refine ⟨?_, ?_, ?_⟩
  · rw [mword_congr (setLoop_mem _ _ _), mword_putMword_ne _ _ (.inl (Nat.le_refl _)), mword_putMword_self]
  · rw [mword_congr (setLoop_mem _ _ _), mword_putMword_self]
  · rw [loop_setLoop_self]
    refine congrArg (fun x : LoopRec => { x with ckptB := !(s.loop l).ckptB }) (loop_congr ?_ l)
    exact (putMword_loops _ _ _).trans (putMword_loops _ _ _)

theorem writeCkpt_none (s : State) (l stamp : Nat) (h : descCkpt (s.loop l).desc = 0) : s.writeCkpt l stamp = s := if_pos h

/-- What the end of a run leaves behind for its loop, its engine and the fault reports. -/
structure RunOver (s t : State) (e : Nat) (r : Run) : Prop where
  ended : RunEnded s t e
  spares : Spares (engineKey [0xC, 0x10C, 0x158, 0x15C] e) s t
  runs : t.rd (pgLE e) Reg.LE.RUNS_COUNT = (s.rd (pgLE e) Reg.LE.RUNS_COUNT + 1) % 2 ^ 32
  loop : ∃ b, t.loop r.loop = { (s.loop r.loop).afterRun r with held := [], ckptB := b }

theorem RunOver.beside (h : RunOver s t e r) (hu : Kept [.mem, .chk, .loops] t u) {b : Bool}
    (hl : u.loop r.loop = { t.loop r.loop with ckptB := b }) : RunOver s u e r := by
  obtain ⟨b', hb'⟩ := h.loop
  have hregs : u.regs = t.regs := hu.same .regs (by decide)
  exact ⟨h.ended.followedBy (hu.same .engines (by decide)), h.spares.otherParts hregs (hu.same .coll (by decide)),
    (rd_congr hregs _ _).trans h.runs, b, by rw [hl, hb']⟩

end Sys2Proof.Machine
end

section
/-! SUPPORT. What the end of a run leaves, with and without a checkpoint, and a run that the engine ends with a fault (R90, R111). -/

namespace Sys2Proof.Machine

variable {s t u : State} {e code : Nat} {r : Run} {x : LoopRec}

/-- The loop record of a run that has ended keeps what the run's end does not name. -/
theorem afterRun_same (x : LoopRec) (r : Run) :
    (x.afterRun r).gone = x.gone ∧ (x.afterRun r).desc = x.desc ∧ (x.afterRun r).ckptB = x.ckptB := by
  unfold LoopRec.afterRun LoopRec.delayed
  cases r.delay <;> exact ⟨rfl, rfl, rfl⟩

theorem afterRun_costs (x : LoopRec) (r : Run) : (x.afterRun r).costs = (r.ops :: x.costs).take 1024 := by
  unfold LoopRec.afterRun LoopRec.delayed
  cases r.delay <;> rfl

theorem afterRun_delay {d : Nat} (x : LoopRec) (h : r.delay = some d) :
    (x.afterRun r).delayLast = d ∧ (x.afterRun r).delayPeak = max x.delayPeak d := by
  unfold LoopRec.afterRun LoopRec.delayed
  rw [h]
  exact ⟨rfl, rfl⟩

theorem runDone_loop (s : State) (e : Nat) (r : Run) (atExit : Bool) :
    (s.runDone e r atExit).loop r.loop = { (s.loop r.loop).afterRun r with held := [] } := by
  unfold State.runDone
  rw [runSettled_loop, loop_congr ((kept_ctxFreed _ e _ _ atExit).same .loops (by decide)),
    loop_congr ((kept_runRecorded s e _ r).same .loops (by decide))]

theorem runDone_over (s : State) (e : Nat) (r : Run) (atExit : Bool) : RunOver s (s.runDone e r atExit) e r := by
  have hrec := (kept_runRecorded s e (s.ctx e) r).same
  have hfree := (kept_ctxFreed (s.runRecorded e (s.ctx e) r) e (s.ctx e) r.loop atExit).same
  have hset := (kept_runSettled ((s.runRecorded e (s.ctx e) r).ctxFreed e (s.ctx e) r.loop atExit) r).same
  refine ⟨?_, ?_, ?_, ⟨((s.loop r.loop).afterRun r).ckptB, runDone_loop s e r atExit⟩⟩
  · exact ((ctxFreed_runEnded _ e _ _ atExit).after (hrec .engines (by decide))).followedBy (hset .engines (by decide))
  · exact ((Spares.runRecorded s e _ r).otherParts (hfree .regs (by decide)) (hfree .coll (by decide))).runSettled r
  · exact ((rd_congr (hset .regs (by decide)) _ _).trans (rd_congr (hfree .regs (by decide)) _ _)).trans
      (runRecorded_count s e _ r)

/-- A run that ended at EXIT has left a checkpoint, where its loop keeps one (R132). -/
def CkptLeft (s t : State) (r : Run) : Prop :=
  0 < descCkpt (s.loop r.loop).desc →
    t.mword (ckptBuf r.loop (s.loop r.loop).ckptB) = BitVec.ofNat 32 r.stamp ∧
    t.mword (ckptBuf r.loop (s.loop r.loop).ckptB + 4) = BitVec.ofNat 32 (r.stamp / 2 ^ 32) ∧
    (t.loop r.loop).ckptB = !(s.loop r.loop).ckptB

theorem writeCkpt_over (s : State) (e : Nat) (r : Run) :
    RunOver s ((s.runDone e r true).writeCkpt r.loop r.stamp) e r ∧
      CkptLeft s ((s.runDone e r true).writeCkpt r.loop r.stamp) r := by
  have hover := runDone_over s e r true
  obtain ⟨-, hdesc, hb⟩ := afterRun_same (s.loop r.loop) r
  have hloop := runDone_loop s e r true
  have hd : descCkpt ((s.runDone e r true).loop r.loop).desc = descCkpt (s.loop r.loop).desc := by rw [hloop]; exact congrArg _ hdesc
  have hb' : ((s.runDone e r true).loop r.loop).ckptB = (s.loop r.loop).ckptB := by rw [hloop]; exact hb
  rcases Nat.eq_zero_or_pos (descCkpt (s.loop r.loop).desc) with h0 | hpos
  · rw [writeCkpt_none _ _ _ (hd.trans h0)]
    exact ⟨hover, fun h => absurd h (by omega)⟩
  · obtain ⟨hlow, hhigh, hnext⟩ := writeCkpt_effect (s.runDone e r true) r.loop r.stamp (by rw [hd]; exact hpos)
    rw [hb'] at hlow hhigh
    exact ⟨hover.beside (Kept.start.writeCkpt (List.Subset.refl _) _ _) hnext, fun _ => ⟨hlow, hhigh, by rw [hnext, hb']⟩⟩

theorem RunOver.freedIfGone (h : RunOver s t e r) (hg : (s.loop r.loop).gone = false) : t.freedIfGone r.loop = t := by
  obtain ⟨b, hb⟩ := h.loop
  refine if_neg ?_
  rw [hb]
  exact fun h => absurd ((afterRun_same _ r).1.symm.trans h) (by rw [hg]; decide)

/-- The end of a run whose loop is still placed (R72, R73, R90, R132). -/
theorem endRun_over (hr : (s.ctx e).run = some r) (hg : (s.loop r.loop).gone = false) (atExit : Bool) :
    RunOver s (s.endRun e atExit) e r ∧ (atExit = true → CkptLeft s (s.endRun e atExit) r) := by
  cases atExit
  · have hover := runDone_over s e r false
    rw [endRun_without_exit hr, hover.freedIfGone hg]
    exact ⟨hover, fun h => absurd h (by decide)⟩
  · obtain ⟨hover, hckpt⟩ := writeCkpt_over s e r
    rw [endRun_at_exit hr, hover.freedIfGone hg]
    exact ⟨hover, fun _ => hckpt⟩

theorem CkptLeft.congr_loop (h : CkptLeft t u r) (hd : (t.loop r.loop).desc = (s.loop r.loop).desc)
    (hb : (t.loop r.loop).ckptB = (s.loop r.loop).ckptB) : CkptLeft s u r := by
  unfold CkptLeft at h ⊢
  rw [← hd, ← hb]
  exact h

/-- A run that the engine ends with a fault: recorded, reported and over (R26, R111, R114). -/
theorem abortRun_effect (hr : (s.ctx e).run = some r) (hg : (s.loop r.loop).gone = false) (hs : s.coll.stopped = false)
    (hc : code ≠ 5) : Reported (s.abortRun e code) .u code (pgLE e) ∧ RunEnded s (s.abortRun e code) e := by
  have heq : s.abortRun e code = ((s.setWord (pgLE e) 0x168 (BitVec.ofNat 32 (r.loop + code * 2 ^ 8 + 2 ^ 31))).reportLoop
      .u code (pgLE e) r.loop).endRun e false := by
    unfold State.abortRun
    simp only [hr, hc, if_false]
  generalize hv : s.setWord (pgLE e) 0x168 (BitVec.ofNat 32 (r.loop + code * 2 ^ 8 + 2 ^ 31)) = v at heq
  have hkept : Kept [.regs, .pushes, .coll] s (v.reportLoop .u code (pgLE e) r.loop) :=
    hv ▸ (Kept.start.setWord (by decide) _ _ _).reportLoop (by decide) _ _ _ _ _
  have heng : (v.reportLoop .u code (pgLE e) r.loop).engines = s.engines := hkept.same .engines (by decide)
  have hover := (endRun_over (s := v.reportLoop .u code (pgLE e) r.loop) (by rw [ctx_congr heng, hr])
    (by rw [loop_congr (hkept.same .loops (by decide)), hg]) false).1
  rw [heq]
  refine ⟨hover.spares.reported (reported_reportLoop v .u code (pgLE e) r.loop 0 ?_), hover.ended.after heng⟩
  rw [← hv, setWord_coll, hs]

end Sys2Proof.Machine
end

section
/-! PROOF. Branches, EXIT and TRAP (O13). -/

namespace Sys2Proof.Machine

variable {s t u : State} {e : Nat} {r : Run}

/-- A branch changes the word at which its run goes on, and nothing else (R81, R83, R89). -/
theorem branch_effect (hx : Executes s e 1 r) (cond : Option Nat) (off : Int) :
    Touches [.engines] s (s.branch e cond off) ∧ WritesRegs s (s.branch e cond off) e [] ∧
      ((s.branch e cond off).ctx e).flags = (s.ctx e).flags ∧
      GoesOn s (s.branch e cond off) e 1 (if cond.all (s.ctx e).flags.holds then branchTo r.pc off else r.pc + 1) r := by
  have heq : s.branch e cond off =
      s.retire e 1 (if cond.all (s.ctx e).flags.holds then branchTo r.pc off else r.pc + 1) := by
    unfold State.branch
    simp only [hx.1]
  obtain ⟨htouch, hends⟩ := retire_ends hx (ctxBecomes_self s e) hx.1 rfl rfl
    (if cond.all (s.ctx e).flags.holds then branchTo r.pc off else r.pc + 1)
  rw [heq]
  exact ⟨htouch, hends.writesRegs .start, hends.flags, hends.goesOn⟩

/-- What a run's end leaves of its loop: the trigger stamp, no held writes, the operations it cost, and its delay (R56, R73, R90). -/
structure RunFollowed (s t : State) (r : Run) : Prop where
  prevStamp : (t.loop r.loop).prevStamp = some r.stamp
  held : (t.loop r.loop).held = []
  costs : (t.loop r.loop).costs = ((r.ops + 1) :: (s.loop r.loop).costs).take 1024
  delay : ∀ d, r.delay = some d → (t.loop r.loop).delayLast = d ∧ (t.loop r.loop).delayPeak = max (s.loop r.loop).delayPeak d

/-- A run is over whose last instruction has counted its operation; what stands between the two changes registers and reports only
(R72, R90). -/
theorem lastSpent_over (hr : (s.ctx e).run = some r) (hg : (s.loop r.loop).gone = false)
    (hu : Kept [.regs, .pushes, .coll] (s.spend e 1 r.pc) u) (atExit : Bool) :
    RunEnded s (u.endRun e atExit) e ∧ Spares (engineKey [0xC, 0x10C, 0x158, 0x15C] e) u (u.endRun e atExit) ∧
      (u.endRun e atExit).rd (pgLE e) Reg.LE.RUNS_COUNT = (u.rd (pgLE e) Reg.LE.RUNS_COUNT + 1) % 2 ^ 32 ∧
      RunFollowed s (u.endRun e atExit) r ∧ (atExit = true → CkptLeft s (u.endRun e atExit) r) := by
  have hspent := spend_spent hr 1 r.pc
  have heng : u.engines = (s.spend e 1 r.pc).engines := hu.same .engines (by decide)
  obtain ⟨b, hloop⟩ := hspent.loop
  rw [← loop_congr (hu.same .loops (by decide))] at hloop
  obtain ⟨hover, hckpt⟩ := endRun_over (s := u) ((congrArg Context.run (ctx_congr heng e)).trans hspent.ctx)
    ((congrArg LoopRec.gone hloop).trans hg) atExit
  obtain ⟨ckpt, hlast⟩ := hover.loop
  have hdesc : (u.loop r.loop).desc = (s.loop r.loop).desc := by rw [hloop]
  have hnext : (u.loop r.loop).ckptB = (s.loop r.loop).ckptB := by rw [hloop]
  have hcosts : (u.loop r.loop).costs = (s.loop r.loop).costs := by rw [hloop]
  have hpeak : (u.loop r.loop).delayPeak = (s.loop r.loop).delayPeak := by rw [hloop]
  refine ⟨hspent.runEnded (hover.ended.after heng), hover.spares, hover.runs, ?_,
    fun h => (hckpt h).congr_loop hdesc hnext⟩
  refine ⟨congrArg LoopRec.prevStamp hlast, congrArg LoopRec.held hlast, ?_, fun d hd => ?_⟩
  · exact (congrArg LoopRec.costs hlast).trans ((afterRun_costs _ _).trans
      (congrArg (fun cs => ((r.ops + 1) :: cs).take 1024) hcosts))
  · obtain ⟨hd₁, hd₂⟩ := afterRun_delay (r := r.spent 1 r.pc (descBudget (s.loop r.loop).desc)) (u.loop r.loop) hd
    refine ⟨(congrArg LoopRec.delayLast hlast).trans hd₁, (congrArg LoopRec.delayPeak hlast).trans (hd₂.trans ?_)⟩
    exact congrArg (max · d) hpeak

/-- EXIT (R72, R90, R132). -/
theorem loopExit_effect (hr : (s.ctx e).run = some r) (hg : (s.loop r.loop).gone = false) :
    RunEnded s (s.loopExit e) e ∧
      (s.loopExit e).rd (pgLE e) Reg.LE.RUNS_COUNT = (s.rd (pgLE e) Reg.LE.RUNS_COUNT + 1) % 2 ^ 32 ∧
      RunFollowed s (s.loopExit e) r ∧ CkptLeft s (s.loopExit e) r := by
  have heq : s.loopExit e = (s.spend e 1 r.pc).endRun e true := by
    unfold State.loopExit
    simp only [hr]
  obtain ⟨hended, -, hruns, hloop, hckpt⟩ := lastSpent_over hr hg Kept.start true
  rw [heq]
  refine ⟨hended, hruns.trans ?_, hloop, hckpt rfl⟩
  rw [(spend_spent hr 1 r.pc).spares.rd (not_engineKey (by decide) e)]

/-- TRAP with its code: the run is over, ABORT_LAST records it, and the fault is on its way (R90, R114). -/
theorem loopTrap_effect (hr : (s.ctx e).run = some r) (hg : (s.loop r.loop).gone = false) (hs : s.coll.stopped = false)
    {code : Nat} (hc : code < 256) :
    RunEnded s (s.loopTrap e code) e ∧
      (s.loopTrap e code).word (pgLE e) 0x168 = BitVec.ofNat 32 (r.loop + 0x20 * 2 ^ 8 + 2 ^ 31) ∧
      ReportedAt (s.loopTrap e code) .u 0x20 (pgLE e) (r.loop * 256 + code) none ∧
      RunFollowed s (s.loopTrap e code) r := by
  have heq : s.loopTrap e code = (((s.spend e 1 r.pc).setWord (pgLE e) 0x168
      (BitVec.ofNat 32 (r.loop + 0x20 * 2 ^ 8 + 2 ^ 31))).reportLoop .u 0x20 (pgLE e) r.loop code).endRun e false := by
    unfold State.loopTrap
    simp only [hr, Nat.mod_eq_of_lt hc]
  have hstop : (s.spend e 1 r.pc).coll.stopped = false := (spend_spent hr 1 r.pc).spares.stopped.trans hs
  obtain ⟨hended, hsp, -, hloop, -⟩ := lastSpent_over hr hg
    ((Kept.start.setWord (by decide) (pgLE e) 0x168 (BitVec.ofNat 32 (r.loop + 0x20 * 2 ^ 8 + 2 ^ 31))).reportLoop (by decide)
      .u 0x20 (pgLE e) r.loop code) false
  rw [heq]
  refine ⟨hended, ?_, hsp.reportedAt ?_, hloop⟩
  · rw [hsp.word (not_engineKey (by decide) e)]
    exact (word_congr (reportFab_regs _ _ _ _ _ _) _ _).trans (word_setWord_self _ _ _)
  · exact reportedAt_reportAs _ _ ((congrArg Collector.stopped (setWord_coll _ _ _ _)).trans hstop)

/-- Where no run executes, its instructions do nothing. -/
theorem idle_engine (hr : (s.ctx e).run = none) (code : Nat) (cond : Option Nat) (off : Int) :
    s.loopExit e = s ∧ s.loopTrap e code = s ∧ s.branch e cond off = s := by
  unfold State.loopExit State.loopTrap State.branch
  simp only [hr, and_self]

/-- Settles O13, by the branch's retirement and by what the end of a run leaves. -/
theorem branchesAndRunEnds : Obligations.BranchesAndRunEnds := by
  refine ⟨fun s e r off hx => ?_, fun s e r cond off hx => ?_, fun s e r hr hg => ⟨_, rfl, ?_⟩,
    fun s e r code hr hg hs => ⟨_, rfl, ?_⟩, fun s e code off cond hr => ?_⟩
  · obtain ⟨htouch, hregs, hflags, hgoes⟩ := branch_effect hx none off
    exact ⟨_, rfl, htouch, hgoes, hregs, hflags⟩
  · obtain ⟨htouch, hregs, hflags, hgoes⟩ := branch_effect hx (some cond) off
    exact ⟨_, rfl, htouch, hregs, hflags, hgoes⟩
  · obtain ⟨hended, hruns, hloop, hckpt⟩ := loopExit_effect hr hg
    exact ⟨hended, hruns, hloop.prevStamp, hloop.held, hloop.costs, hloop.delay, hckpt⟩
  · obtain ⟨hended, hword, ⟨x, hx, hcls, hcode, hpage, hdetail, -⟩, hloop⟩ := loopTrap_effect hr hg hs code.isLt
    exact ⟨hended, hword, ⟨x, hx, hcls, hcode, hpage, hdetail⟩, hloop.prevStamp⟩
  · obtain ⟨hexit, htrap, hbr⟩ := idle_engine hr code none off
    obtain ⟨-, -, hbrc⟩ := idle_engine hr code (some cond) off
    exact ⟨congrArg _ hexit, congrArg _ htrap, congrArg _ hbr, congrArg _ hbrc⟩

end Sys2Proof.Machine
end

section
/-! PROOF. State access and control blocks (O14). -/

namespace Sys2Proof.Machine

variable {s t u : State} {e cost off rec len a n : Nat} {r : Run} {q qa qb : Nat} {x : Bool}

theorem stateKey_inside (h : off + 4 ≤ (s.loop r.loop).stSize) :
    s.stateKey r off = some (leBase (s.loop r.loop).engine + (s.loop r.loop).stOff + off) := if_pos h

theorem stateKey_outside (h : (s.loop r.loop).stSize < off + 4) : s.stateKey r off = none := if_neg (Nat.not_le.2 h)

/-- Engine memory and what lies above it is not MRAM. -/
theorem checkUnitAt_engine (s : State) {a : Nat} (h : 0x30000000 ≤ a) (f : Finder) : s.checkUnitAt a f = s.checkSram a f := by
  unfold State.checkUnitAt
  split
  · next b hb =>
    unfold regionOf at hb
    split_ifs at hb <;> first | omega | simp at hb
  · rfl

/-- A state line that passes its check is read on (R340, R344). -/
theorem runReads_of_good (h : 0x30000000 ≤ a) (hg : s.unitBad a = false) (l : Nat) :
    s.runReads e l a = (some (s.linePasses a), s.linePasses a) := by
  have hc : s.checkSram a .engine = (.ok, s.linePasses a) := if_pos (by simp [hg])
  unfold State.runReads
  rw [checkUnitAt_engine s h, hc]

theorem linePasses_touches (s : State) (a : Nat) : Touches [.chk] s (s.linePasses a) :=
  (Kept.start.linePasses (List.Subset.refl _) a).same

theorem stateArea_bound (n o k : Nat) : 0x30000000 ≤ leBase n + o + k := by
  unfold leBase
  omega

/-- LDS inside the state area, from a line that passes its check (R83). -/
theorem loadState_effect (hx : Executes s e 1 r) (hin : stateOffset (s.ctx e) qa off x + 4 ≤ (s.loop r.loop).stSize)
    (hg : s.unitBad (leBase (s.loop r.loop).engine + (s.loop r.loop).stOff + stateOffset (s.ctx e) qa off x) = false) :
    Touches [.engines, .chk] s (s.loadState e q qa off x) ∧ Computes s (s.loadState e q qa off x) e 1 r
      [(q, s.mword (leBase (s.loop r.loop).engine + (s.loop r.loop).stOff + stateOffset (s.ctx e) qa off x))] (s.ctx e).flags := by
  generalize ha : leBase (s.loop r.loop).engine + (s.loop r.loop).stOff + stateOffset (s.ctx e) qa off x = a at hg ⊢
  have hpass := linePasses_touches s a
  have hctx := ctx_congr (hpass .engines (by decide)) e
  have heq : s.loadState e q qa off x =
      ((s.linePasses a).setCtx e ((s.ctx e).put q (s.mword a))).retire e 1 (r.pc + 1) := by
    unfold State.loadState
    simp only [hx.1, stateKey_inside hin, ha, runReads_of_good (ha ▸ stateArea_bound _ _ _) hg]
    rw [hctx, mword_congr (hpass .mem (by decide))]
  obtain ⟨htouch, hends⟩ := retire_ends (pc := r.pc + 1) hx
    ((ctxBecomes_setCtx (s.linePasses a) e ((s.ctx e).put q (s.mword a))).after (hpass .engines (by decide)))
    ((put_run _ _ _).trans hx.1) rfl
    (congrArg LoopRec.desc (loop_congr ((setCtx_loops _ _ _).trans (hpass .loops (by decide))) _))
  rw [heq]
  refine ⟨?_, hends.computes (Context.Becomes.start.put q _) (put_flags _ _ _)⟩
  exact ((hpass.mono (by decide)).trans ((Kept.start.setCtx (List.Subset.refl _) _ _).same.mono (by decide))).trans
    (htouch.mono (by decide))

/-- STS inside the state area (R83). -/
theorem storeState_effect (hx : Executes s e 1 r) (hin : stateOffset (s.ctx e) qa off x + 4 ≤ (s.loop r.loop).stSize) :
    let a := leBase (s.loop r.loop).engine + (s.loop r.loop).stOff + stateOffset (s.ctx e) qa off x
    Touches [.engines, .mem, .chk] s (s.storeState e q qa off x) ∧
      Computes s (s.storeState e q qa off x) e 1 r [] (s.ctx e).flags ∧
      (s.storeState e q qa off x).mword a = (s.ctx e).get q ∧ OnlyBytes a 4 s (s.storeState e q qa off x) := by
  intro a
  have heq : s.storeState e q qa off x = (s.putMword a ((s.ctx e).get q)).retire e 1 (r.pc + 1) := by
    unfold State.storeState
    simp only [hx.1, stateKey_inside hin]
    rfl
  obtain ⟨htouch, hends⟩ := retire_ends (pc := r.pc + 1) hx
    ((ctxBecomes_self s e).followedBy (putMword_engines s a ((s.ctx e).get q))) hx.1 rfl
    (congrArg LoopRec.desc (loop_congr (putMword_loops _ _ _) _))
  have hmem := htouch .mem (by decide)
  rw [heq]
  refine ⟨?_, hends.computes .start rfl, (mword_congr hmem a).trans (mword_putMword_self _ _ _),
    (onlyBytes_putMword s a _).followedBy hmem⟩
  exact ((Kept.start.putMword (List.Subset.refl _) _ _).same.mono (by decide)).trans (htouch.mono (by decide))

/-- An access outside the state area ends the run with fault 0x26 (R111). -/
theorem stateAccess_outside (hr : (s.ctx e).run = some r) (h : (s.loop r.loop).stSize < stateOffset (s.ctx e) qa off x + 4) :
    s.loadState e q qa off x = s.abortRun e 0x26 ∧ s.storeState e q qa off x = s.abortRun e 0x26 := by
  unfold State.loadState State.storeState
  simp only [hr, stateKey_outside h, and_self]

/-- A block's context and the record words it writes, before its operations are counted (R90). -/
def State.recordRan (s : State) (e a : Nat) (out : Context × List (Nat × Word)) : State :=
  ((s.linePasses a).setCtx e out.1).putRecord a out.2

theorem recordRan_touches (s : State) (e a : Nat) (out : Context × List (Nat × Word)) :
    Touches [.engines, .mem, .chk] s (s.recordRan e a out) :=
  ((((linePasses_touches s a).mono (by decide)).trans
    ((Kept.start.setCtx (List.Subset.refl _) e out.1).same.mono (by decide))).trans
    ((kept_putRecord _ a out.2).same.mono (by decide)))

theorem recordRan_ctx (s : State) (e a : Nat) (out : Context × List (Nat × Word)) :
    CtxBecomes s (s.recordRan e a out) e out.1 :=
  ((ctxBecomes_setCtx _ e out.1).after ((linePasses_touches s a) .engines (by decide))).followedBy
    ((kept_putRecord _ a out.2).same .engines (by decide))

/-- What is read of memory once a block has written its record: the words listed, and every other byte as before. -/
theorem recordRan_mem (s : State) (e a : Nat) (out : Context × List (Nat × Word)) (hws : (out.2.map (·.1)).Nodup) :
    (∀ i w, (i, w) ∈ out.2 → (s.recordRan e a out).mword (a + 4 * i) = w) ∧
      ∀ b, (∀ i w, (i, w) ∈ out.2 → b < a + 4 * i ∨ a + 4 * i + 4 ≤ b) → (s.recordRan e a out).byte b = s.byte b :=
  ⟨fun _ _ hm => mword_putRecord _ hws hm, fun b hb => (byte_putRecord _ out.2 hb).trans
    (byte_congr ((setCtx_mem _ _ _).trans (linePasses_touches s a .mem (by decide))) b)⟩

/-- A control block before its operations are counted, with the log entry of a fall back to clamp mode (R90, R93). -/
def State.blockRan (s : State) (e a l : Nat) (out : Context × List (Nat × Word) × Bool) : State :=
  let u := s.recordRan e a (out.1, out.2.1)
  if out.2.2 then u.reportLoop .c 0x29 (pgLE e) l else u

theorem blockRan_touches (s : State) (e a l : Nat) (out : Context × List (Nat × Word) × Bool) :
    Touches [.coll] (s.recordRan e a (out.1, out.2.1)) (s.blockRan e a l out) :=
  (Kept.ite (Kept.start (L := [.coll])) fun h => h.reportLoop (List.Subset.refl _) _ _ _ _ _).same

/-- The words of a record at key `a` (R90). -/
def State.record (s : State) (a n : Nat) : List Word := (List.range n).map fun k => s.mword (a + 4 * k)

theorem record_congr (h : t.mem = s.mem) (a n : Nat) : t.record a n = s.record a n :=
  List.map_congr_left fun _ _ => mword_congr h _

theorem recordAt_bound (s : State) (r : Run) (rec : Nat) : 0x30000000 ≤ s.recordAt r rec := stateArea_bound _ _ _

/-- A block on a record inside the state area whose line passes its check (R90). -/
theorem block_eq {f : Context → List Word → Context × List (Nat × Word) × Bool} (hr : (s.ctx e).run = some r)
    (hlen : 4 ≤ len) (hin : 32 * rec + len ≤ (s.loop r.loop).stSize) (hg : s.unitBad (s.recordAt r rec) = false) :
    s.block e rec len cost f =
      (s.blockRan e (s.recordAt r rec) r.loop (f (s.ctx e) (s.record (s.recordAt r rec) 8))).retire e cost (r.pc + 1) := by
  have hkey : leBase (s.loop r.loop).engine + (s.loop r.loop).stOff + (32 * rec + len - 4) + 4 - len = s.recordAt r rec := by
    unfold State.recordAt
    omega
  have hpass := linePasses_touches s (s.recordAt r rec)
  unfold State.block
  simp only [hr, stateKey_inside (show 32 * rec + len - 4 + 4 ≤ (s.loop r.loop).stSize by omega), hkey,
    runReads_of_good (recordAt_bound s r rec) hg]
  rw [ctx_congr (hpass .engines (by decide)), ← record_congr (hpass .mem (by decide))]
  rfl

/-- A block or a selection that is retired after it ran: `u` differs from the record written in parts that no block shows. -/
theorem runsBlock_of_retire {out : Context × List (Nat × Word)} (hx : Executes s e cost r) (hrun : out.1.run = (s.ctx e).run)
    (hws : (out.2.map (·.1)).Nodup) (hu : Touches [.coll, .loops] (s.recordRan e a out) u)
    (hd : (u.loop r.loop).desc = (s.loop r.loop).desc) :
    Touches [.engines] u (u.retire e cost (r.pc + 1)) ∧ RunsBlock s (u.retire e cost (r.pc + 1)) e cost r a out := by
  obtain ⟨htouch, hends⟩ := retire_ends (pc := r.pc + 1) hx
    ((recordRan_ctx s e a out).followedBy (hu .engines (by decide))) (hrun.trans hx.1) rfl hd
  have hmem := (htouch .mem (by decide)).trans (hu .mem (by decide))
  obtain ⟨hwords, hbytes⟩ := recordRan_mem s e a out hws
  exact ⟨htouch, hends.goesOn, fun k => by rw [hends.ctx]; rfl, hends.flags,
    fun i w hm => (mword_congr hmem _).trans (hwords i w hm), fun b hb => (byte_congr hmem b).trans (hbytes b hb)⟩

/-- What a block leaves where it keeps the run and writes no word twice (R90, R93). -/
theorem block_effect {f : Context → List Word → Context × List (Nat × Word) × Bool} {out : Context × List (Nat × Word) × Bool}
    (hx : Executes s e cost r) (hlen : 4 ≤ len) (hin : 32 * rec + len ≤ (s.loop r.loop).stSize)
    (hg : s.unitBad (s.recordAt r rec) = false) (hout : f (s.ctx e) (s.record (s.recordAt r rec) 8) = out)
    (hrun : out.1.run = (s.ctx e).run) (hws : (out.2.1.map (·.1)).Nodup) :
    Touches [.engines, .mem, .chk, .coll] s (s.block e rec len cost f) ∧
      (out.2.2 = false → Touches [.engines, .mem, .chk] s (s.block e rec len cost f)) ∧
      RunsBlock s (s.block e rec len cost f) e cost r (s.recordAt r rec) (out.1, out.2.1) ∧
      (out.2.2 = true → s.coll.stopped = false → Reported (s.block e rec len cost f) .c 0x29 (pgLE e)) := by
  have hran := recordRan_touches s e (s.recordAt r rec) (out.1, out.2.1)
  have hlog := blockRan_touches s e (s.recordAt r rec) r.loop out
  obtain ⟨htouch, hblock⟩ := runsBlock_of_retire hx hrun hws (hlog.mono (by decide))
    (congrArg LoopRec.desc (loop_congr ((hlog .loops (by decide)).trans (hran .loops (by decide))) r.loop))
  rw [block_eq hx.1 hlen hin hg, hout]
  refine ⟨?_, fun hfalse => ?_, hblock, fun htrue hs => ?_⟩
  · exact ((hran.mono (by decide)).trans (hlog.mono (by decide))).trans (htouch.mono (by decide))
  · have heq : s.blockRan e (s.recordAt r rec) r.loop out = s.recordRan e (s.recordAt r rec) (out.1, out.2.1) :=
      if_neg (by rw [hfalse]; decide)
    rw [heq] at htouch ⊢
    exact hran.trans (htouch.mono (by decide))
  · have heq : s.blockRan e (s.recordAt r rec) r.loop out =
        (s.recordRan e (s.recordAt r rec) (out.1, out.2.1)).reportLoop .c 0x29 (pgLE e) r.loop := if_pos htrue
    refine Reported.followedBy ?_ (htouch .coll (by decide))
    rw [heq]
    exact reported_reportLoop _ _ _ _ _ _ (by rw [hran .coll (by decide)]; exact hs)

/-- PI keeps its run and writes its integrator and its control word (R92). -/
theorem piBlock_shape (c : Context) (qd : Nat) (er ff : Word) (w : List Word) :
    (piBlock c qd er ff w).1.run = c.run ∧ ((piBlock c qd er ff w).2.1.map (·.1)).Nodup := by
  unfold piBlock
  extract_lets ctrl mode fb i mode' inew raw v hi lo nv
  split
  · exact ⟨rfl, by simp⟩
  · exact ⟨rfl, by simp⟩

/-- RLIM keeps its run, writes no word twice and is never logged (R94). -/
theorem rlimBlock_shape (c : Context) (qd : Nat) (v : Word) (w : List Word) :
    (rlimBlock c qd v w).1.run = c.run ∧ ((rlimBlock c qd v w).2.1.map (·.1)).Nodup ∧ (rlimBlock c qd v w).2.2 = false := by
  unfold rlimBlock
  extract_lets y v' up dn d y'
  split
  · exact ⟨rfl, by simp, rfl⟩
  · split
    · exact ⟨rfl, by simp, rfl⟩
    · exact ⟨rfl, by simp, rfl⟩

/-- LPF1 keeps its run, writes no word twice and is never logged (R95). -/
theorem lpf1Block_shape (c : Context) (qd : Nat) (v : Word) (w : List Word) :
    (lpf1Block c qd v w).1.run = c.run ∧ ((lpf1Block c qd v w).2.1.map (·.1)).Nodup ∧ (lpf1Block c qd v w).2.2 = false := by
  unfold lpf1Block
  extract_lets y v' y'
  split
  · exact ⟨rfl, by simp, rfl⟩
  · split
    · exact ⟨rfl, by simp, rfl⟩
    · exact ⟨rfl, by simp, rfl⟩

/-- MINSEL keeps its run and writes the winner's and the output's word (R97). -/
theorem minselBlock_shape (c : Context) (qd qa qb n : Nat) (w : List Word) :
    (minselBlock c qd qa qb n w).1.run = c.run ∧ ((minselBlock c qd qa qb n w).2.map (·.1)).Nodup := by
  unfold minselBlock
  extract_lets mags ins excl valid
  split
  · exact ⟨rfl, by simp⟩
  · exact ⟨rfl, by simp⟩

/-- MINSEL before its operations are counted, with the log entry of its first run without a valid input (R97). -/
def State.minselRan (s : State) (e a l : Nat) (out : Context × List (Nat × Word)) : State :=
  let u := s.recordRan e a out
  if out.1.flags.un ∧ ¬ (u.loop l).minselLogged then
    (u.setLoop l { u.loop l with minselLogged := true }).reportLoop .c 0x23 (pgLE e) l
  else u

theorem minselRan_touches (s : State) (e a l : Nat) (out : Context × List (Nat × Word)) :
    Touches [.coll, .loops] (s.recordRan e a out) (s.minselRan e a l out) :=
  (Kept.ite (Kept.start (L := [.coll, .loops])) fun h =>
    (h.setLoop (by decide) _ _).reportLoop (by decide) _ _ _ _ _).same

theorem minselRan_desc (s : State) (e a l : Nat) (out : Context × List (Nat × Word)) :
    ((s.minselRan e a l out).loop l).desc = ((s.recordRan e a out).loop l).desc := by
  unfold State.minselRan
  extract_lets u
  split
  · rw [loop_congr (show ((u.setLoop l { u.loop l with minselLogged := true }).reportLoop .c 0x23 (pgLE e) l).loops = _ from
      reportFab_loops _ _ _ _ _ _), loop_setLoop_self]
  · rfl

/-- MINSEL over 2 to 8 registers on a record inside the state area whose line passes its check (R97). -/
theorem minsel_eq (hr : (s.ctx e).run = some r) (hin : 32 * rec + 16 ≤ (s.loop r.loop).stSize)
    (hg : s.unitBad (s.recordAt r rec) = false) (hn : bitsAt (s.mword (s.recordAt r rec)) 0 4 = n)
    (h2 : 2 ≤ n) (h8 : n ≤ 8) (hq : qa + n ≤ 64) : s.minsel e q qa qb rec =
      (s.minselRan e (s.recordAt r rec) r.loop (minselBlock (s.ctx e) q qa qb n (s.record (s.recordAt r rec) 4))).retire e
        (1 + n) (r.pc + 1) := by
  have hkey : leBase (s.loop r.loop).engine + (s.loop r.loop).stOff + (32 * rec + 12) - 12 = s.recordAt r rec := by
    unfold State.recordAt
    omega
  have hpass := linePasses_touches s (s.recordAt r rec)
  have hmem := hpass .mem (by decide)
  have hrange : ¬ (n < 2 ∨ 8 < n ∨ 63 < qa + n - 1) := by omega
  unfold State.minsel
  simp only [hr, stateKey_inside (show 32 * rec + 12 + 4 ≤ (s.loop r.loop).stSize by omega), hkey,
    runReads_of_good (recordAt_bound s r rec) hg]
  rw [mword_congr hmem, hn, if_neg hrange, ctx_congr (hpass .engines (by decide)), ← record_congr hmem]
  rfl

theorem minsel_effect (hx : Executes s e (1 + n) r) (hin : 32 * rec + 16 ≤ (s.loop r.loop).stSize)
    (hg : s.unitBad (s.recordAt r rec) = false) (hn : bitsAt (s.mword (s.recordAt r rec)) 0 4 = n)
    (h2 : 2 ≤ n) (h8 : n ≤ 8) (hq : qa + n ≤ 64) :
    let out := minselBlock (s.ctx e) q qa qb n (s.record (s.recordAt r rec) 4)
    Touches [.engines, .mem, .chk, .coll, .loops] s (s.minsel e q qa qb rec) ∧
      RunsBlock s (s.minsel e q qa qb rec) e (1 + n) r (s.recordAt r rec) out ∧
      (out.1.flags.un = true → (s.loop r.loop).minselLogged = false → s.coll.stopped = false →
        Reported (s.minsel e q qa qb rec) .c 0x23 (pgLE e)) := by
  intro out
  have hran := recordRan_touches s e (s.recordAt r rec) out
  have hlog := minselRan_touches s e (s.recordAt r rec) r.loop out
  have hloop := loop_congr (hran .loops (by decide)) r.loop
  obtain ⟨hrun, hws⟩ := minselBlock_shape (s.ctx e) q qa qb n (s.record (s.recordAt r rec) 4)
  obtain ⟨htouch, hblock⟩ := runsBlock_of_retire hx hrun hws hlog ((minselRan_desc _ _ _ _ _).trans (congrArg LoopRec.desc hloop))
  rw [minsel_eq hx.1 hin hg hn h2 h8 hq]
  refine ⟨?_, hblock, fun hun hl hs => ?_⟩
  · exact ((hran.mono (by decide)).trans (hlog.mono (by decide))).trans (htouch.mono (by decide))
  · refine Reported.followedBy ?_ (htouch .coll (by decide))
    have heq : s.minselRan e (s.recordAt r rec) r.loop out = _ := if_pos ⟨hun, by rw [hloop, hl]; decide⟩
    rw [heq]
    exact reported_reportLoop _ _ _ _ _ _ (by rw [setLoop_coll, hran .coll (by decide)]; exact hs)

/-- Settles O14, by what an access and a block do inside the state area, and outside it. -/
theorem stateAccessAndBlocks : Obligations.StateAccessAndBlocks := by
  refine ⟨fun s e r q qa off x hx hin => ⟨fun hg => ⟨_, rfl, loadState_effect hx hin hg⟩, ⟨_, rfl, storeState_effect hx hin⟩⟩,
    fun s e r q qa off x hr hgone hs hout => ?_, fun s e r qd qa qb rec_ hx hin hg => ⟨_, rfl, ?_⟩,
    fun s e r qd qa rec_ hx hin hg => ⟨⟨_, rfl, ?_⟩, ⟨_, rfl, ?_⟩⟩,
    fun s e r qd qa qb rec_ hin hg h2 h8 hq hx => ⟨_, rfl, minsel_effect hx hin hg rfl h2 h8 hq⟩⟩
  · obtain ⟨hload, hstore⟩ := stateAccess_outside (q := q) hr hout
    have habort := abortRun_effect (code := 0x26) hr hgone hs (by decide)
    exact ⟨⟨_, congrArg Host.Outcome.next hload, habort⟩, ⟨_, congrArg Host.Outcome.next hstore, habort⟩⟩
  · obtain ⟨hrun, hws⟩ := piBlock_shape (s.ctx e) qd ((s.ctx e).get qa) ((s.ctx e).get qb) (s.record (s.recordAt r rec_) 8)
    obtain ⟨htouch, -, hblock, hlog⟩ :=
      block_effect (f := fun c w => piBlock c qd (c.get qa) (c.get qb) w) hx (by decide) hin hg rfl hrun hws
    exact ⟨htouch, hblock, hlog⟩
  · obtain ⟨hrun, hws, hlog⟩ := rlimBlock_shape (s.ctx e) qd ((s.ctx e).get qa) (s.record (s.recordAt r rec_) 8)
    obtain ⟨-, htouch, hblock, -⟩ := block_effect (f := fun c w => rlimBlock c qd (c.get qa) w) hx (by decide) hin hg rfl hrun hws
    exact ⟨htouch hlog, hblock⟩
  · obtain ⟨hrun, hws, hlog⟩ := lpf1Block_shape (s.ctx e) qd ((s.ctx e).get qa) (s.record (s.recordAt r rec_) 8)
    obtain ⟨-, htouch, hblock, -⟩ := block_effect (f := fun c w => lpf1Block c qd (c.get qa) w) hx (by decide) hin hg rfl hrun hws
    exact ⟨htouch hlog, hblock⟩

end Sys2Proof.Machine
end

section
/-! SUPPORT. The signal slots: the four words of a slot, the check before a read, and a write that fires nothing (R75, R106, R107,
R346). -/

namespace Sys2Proof.Machine

variable {s t : State} {n : Nat}

theorem putSlot_touches (s : State) (n : Nat) (v : Word) (stamp writer src : Nat) (prd : Bool) :
    Touches [.mem, .chk] s (s.putSlot n v stamp writer src prd) := (Kept.start.putSlot (List.Subset.refl _) _ _ _ _ _ _).same

/-- The slot takes value, stamp and META, and every other byte stays (R106). -/
theorem putSlot_effect (s : State) (n : Nat) (v : Word) (stamp writer src : Nat) (prd : Bool) :
    let t := s.putSlot n v stamp writer src prd
    t.mword (slotKey n) = v ∧ t.mword (slotKey n + 4) = BitVec.ofNat 32 stamp ∧
      t.mword (slotKey n + 8) = BitVec.ofNat 32 (stamp / 2 ^ 32) ∧
      t.mword (slotKey n + 12) = BitVec.ofNat 32 (writer % 64 + src * 2 ^ 6 + bit prd * 2 ^ 9) ∧ OnlyBytes (slotKey n) 16 s t := by
  unfold State.putSlot
  extract_lets k t
  refine ⟨?_, ?_, ?_, ?_, fun b hb => ?_⟩
  · rw [mword_putMword_ne _ _ (by omega), mword_putMword_ne _ _ (by omega), mword_putMword_ne _ _ (by omega), mword_putMword_self]
  · rw [mword_putMword_ne _ _ (by omega), mword_putMword_ne _ _ (by omega), mword_putMword_self]
  · rw [mword_putMword_ne _ _ (by omega), mword_putMword_self]
  · exact mword_putMword_self _ _ _
  · rw [onlyBytes_putMword _ _ _ _ (by omega), onlyBytes_putMword _ _ _ _ (by omega), onlyBytes_putMword _ _ _ _ (by omega),
      onlyBytes_putMword _ _ _ _ (by omega)]

/-- A slot that triggers no loop fires none (R75). -/
theorem fireSlot_none (stamp : Nat) (h : ∀ l, l < 64 → descSrc (s.loop l).desc = 3 → descSlot (s.loop l).desc ≠ n) :
    s.fireSlot n stamp = s := by
  have hnil : (loopIds.filter fun l => descSrc (s.loop l).desc == 3 && descSlot (s.loop l).desc == n) = [] :=
    List.filter_eq_nil_iff.2 fun l hl => by simpa using h l (List.mem_range.1 hl)
  unfold State.fireSlot State.fireAll
  rw [hnil]
  rfl

/-- A slot written while no loop waits for it (R75, R107). -/
theorem fireSlot_putSlot (v : Word) (stamp writer src : Nat) (prd : Bool) (at_ : Nat)
    (h : ∀ l, l < 64 → descSrc (s.loop l).desc = 3 → descSlot (s.loop l).desc ≠ n) :
    (s.putSlot n v stamp writer src prd).fireSlot n at_ = s.putSlot n v stamp writer src prd :=
  fireSlot_none at_ fun l hl => by
    rw [loop_congr (putSlot_touches s n v stamp writer src prd .loops (by decide)) l]
    exact h l hl

/-- A slot that passes its check is only no longer noted as logged (R346). -/
theorem slotChecked_good (f : Finder) (h : s.unitBad (slotKey n) = false) :
    s.slotChecked n f = { s with chk := { s.chk with logged := s.chk.logged.filter (· ≠ slotKey n) } } := by
  have hno : ¬ s.unitBad (slotKey n) = true := by rw [h]; decide
  unfold State.slotChecked
  rw [if_neg fun hb => hno hb.1, if_neg hno]

theorem touches_chk (s : State) (c : MemCheck) : Touches [.chk] s { s with chk := c } := fun p hp => by
  cases p with
  | chk => exact absurd (List.mem_singleton_self _) hp
  | _ => rfl

theorem slotChecked_touches (f : Finder) (h : s.unitBad (slotKey n) = false) : Touches [.chk] s (s.slotChecked n f) := by
  rw [slotChecked_good f h]
  exact touches_chk _ _

end Sys2Proof.Machine
end

section
/-! PROOF. INS, OUTS and STAMP (O15). -/

namespace Sys2Proof.Machine

variable {s t u : State} {e cost pc q qx k : Nat} {r r' : Run} {c : Context} {v : InputVal}

/-- An instruction that leaves the engines and the loops alone but for context `c` ends with it (R83). -/
theorem setCtx_retire_ends {P : List Part} (hx : Executes s e cost r) (hu : Touches P s u) (hE : .engines ∉ P) (hL : .loops ∉ P)
    (hc : c.run = some r') (ho : r'.ops = r.ops) (hl : r'.loop = r.loop) (pc : Nat) :
    Touches [.engines] u ((u.setCtx e c).retire e cost pc) ∧
      Ends s ((u.setCtx e c).retire e cost pc) e cost (c.advance r' cost pc) := by
  have hloop : ((u.setCtx e c).loop r'.loop).desc = (s.loop r.loop).desc := by
    rw [loop_congr ((setCtx_loops u e c).trans (hu .loops hL)), hl]
  obtain ⟨htouch, hends⟩ := retire_ends hx ((ctxBecomes_setCtx u e c).after (hu .engines hE)) hc ho hloop pc
  have hset : Touches [.engines] u (u.setCtx e c) := (Kept.start.setCtx (List.Subset.refl _) _ _).same
  exact ⟨hset.trans htouch, hends⟩

/-- The run after it has read `v` from handle `h` (R100, R101). -/
def Run.hasRead (r : Run) (h : Nat) (v : InputVal) : Run := { r with inputs := tabInsert r.inputs h v, readPrd := r.readPrd || v.prd }

/-- The context after INS has read `v` from handle `h` (R100, R101). -/
def Context.hasRead (c : Context) (r : Run) (q qx h : Nat) (v : InputVal) : Context :=
  let d := (c.put q v.value).put qx v.age
  { d with flags := { d.flags with prd := v.prd, skp := v.skp }, run := some (r.hasRead h v) }

/-- INS without a missed edge: the first read of a handle in a run (R100). -/
theorem ins_first (hr : (s.ctx e).run = some r) (hm : (s.loop r.loop).missed = [])
    (hf : r.inputs.find? (·.1 = descIn (s.loop r.loop).desc k) = none)
    (hE : (s.inputValue (descIn (s.loop r.loop).desc k) r.stamp).2.engines = s.engines) :
    s.ins e q qx k = ((s.inputValue (descIn (s.loop r.loop).desc k) r.stamp).2.setCtx e ((s.ctx e).hasRead r q qx
      (descIn (s.loop r.loop).desc k) (s.inputValue (descIn (s.loop r.loop).desc k) r.stamp).1)).retire e 2 (r.pc + 1) := by
  unfold State.ins
  rw [hr]
  simp only [hf, hm, List.any_nil, Bool.false_eq_true, if_false, ctx_congr hE]
  rfl

/-- INS without a missed edge: a handle the run has read before (R101). -/
theorem ins_again (hr : (s.ctx e).run = some r) (hm : (s.loop r.loop).missed = []) {h : Nat}
    (hf : r.inputs.find? (·.1 = descIn (s.loop r.loop).desc k) = some (h, v)) :
    s.ins e q qx k =
      (s.setCtx e ((s.ctx e).hasRead r q qx (descIn (s.loop r.loop).desc k) v)).retire e 2 (r.pc + 1) := by
  unfold State.ins
  rw [hr]
  simp only [hf, hm, List.any_nil, Bool.false_eq_true, if_false]
  rfl

/-- What INS leaves, from the value it read (R100, R101). -/
theorem hasRead_ends {P : List Part} (hx : Executes s e 2 r) (hu : Touches P s u) (hE : .engines ∉ P) (hL : .loops ∉ P)
    (q qx h : Nat) (v : InputVal) :
    let t := (u.setCtx e ((s.ctx e).hasRead r q qx h v)).retire e 2 (r.pc + 1)
    Touches (.engines :: P) s t ∧ WritesRegs s t e [(qx, v.age), (q, v.value)] ∧
      (t.ctx e).flags = { (s.ctx e).flags with prd := v.prd, skp := v.skp } ∧
      (t.ctx e).run = some { r.hasRead h v with pc := r.pc + 1, ops := r.ops + 2 } := by
  intro t
  obtain ⟨htouch, hends⟩ := setCtx_retire_ends (c := (s.ctx e).hasRead r q qx h v) hx hu hE hL rfl rfl rfl (r.pc + 1)
  refine ⟨(hu.mono (List.subset_cons_self _ _)).trans (htouch.mono (List.cons_subset_cons _ (List.nil_subset _))), fun j => ?_, ?_, ?_⟩
  · rw [hends.ctx]
    exact (Context.Becomes.start.put q v.value).put qx v.age j
  · rw [hends.ctx]
    rfl
  · rw [hends.ctx, advance_run]
    rfl

/-- Reading an input changes nothing but the note of a slot's failure (R100, R346). -/
theorem inputValue_touches {h : Nat} (trig : Nat) (hg : h < 0x400 → s.unitBad (slotKey h) = false) :
    Touches [.chk] s (s.inputValue h trig).2 := by
  unfold State.inputValue
  split
  case isTrue hs => exact slotChecked_touches .engine (hg hs)
  case isFalse =>
    split
    · exact Kept.start.same
    · exact Kept.start.same

/-- The context after an OUTS that took (R104). -/
def Context.wrote (c : Context) (r : Run) (qx delay : Nat) (ovrd : Bool) : Context :=
  let d := c.put qx (satInt32 delay)
  { d with
    flags := { d.flags with rej := false, ovrd := ovrd }
    run := some { r with delay := if r.delay.isSome then r.delay else some delay } }

/-- The context after an OUTS that was rejected (R103). -/
def Context.rejected (c : Context) (r : Run) (qx : Nat) : Context :=
  let d := c.put qx 0x80000000
  { d with flags := { d.flags with rej := true, ovrd := false }, run := some { r with rejected := true } }

/-- What a rejected OUTS leaves (R103). -/
theorem rejected_ends (hx : Executes s e 2 r) (hs : s.coll.stopped = false) (qx : Nat) :
    let t := ((s.setCtx e ((s.ctx e).rejected r qx)).reportLoop .u 0x28 (pgLE e) r.loop).retire e 2 (r.pc + 1)
    Touches [.engines, .coll] s t ∧ Reported t .u 0x28 (pgLE e) ∧ WritesRegs s t e [(qx, 0x80000000)] ∧
      (t.ctx e).flags = { (s.ctx e).flags with rej := true, ovrd := false } ∧
      (t.ctx e).run = some { r with pc := r.pc + 1, ops := r.ops + 2, rejected := true } := by
  intro t
  have hset := (Kept.start (s := s) (L := [.engines])).setCtx (by decide) e ((s.ctx e).rejected r qx)
  have hrep := (Kept.start (s := s.setCtx e ((s.ctx e).rejected r qx)) (L := [.coll])).reportLoop (by decide) .u 0x28 (pgLE e) r.loop 0
  have hctx := (ctxBecomes_setCtx s e ((s.ctx e).rejected r qx)).followedBy (hrep.same .engines (by decide))
  have hloops := (hrep.same .loops (by decide)).trans (hset.same .loops (by decide))
  obtain ⟨htouch, hends⟩ := retire_ends hx hctx rfl rfl (congrArg LoopRec.desc (loop_congr hloops r.loop)) (r.pc + 1)
  refine ⟨((hset.same.mono (by decide)).trans (hrep.same.mono (by decide))).trans (htouch.mono (by decide)), ?_, fun j => ?_, ?_, ?_⟩
  · exact (reported_reportLoop _ _ _ _ _ _ (by rw [setCtx_coll]; exact hs)).followedBy (htouch .coll (by decide))
  · rw [hends.ctx]
    exact Context.Becomes.start.put qx 0x80000000 j
  · rw [hends.ctx]
    rfl
  · rw [hends.ctx, advance_run]

theorem outs_rejected (hr : (s.ctx e).run = some r)
    (h : outputRejected (descOut (s.loop r.loop).desc k) ((s.ctx e).get q) false = true) :
    s.outs e q qx k false =
      ((s.setCtx e ((s.ctx e).rejected r qx)).reportLoop .u 0x28 (pgLE e) r.loop).retire e 2 (r.pc + 1) := by
  unfold State.outs
  rw [hr]
  simp only [h, if_true]
  rfl

/-- What an OUTS to a slot leaves, in the slot and in its run (R104, R106). -/
theorem wrote_ends (hx : Executes s e 2 r) (qx n : Nat) (w : Word) (delay : Nat) :
    let t := ((s.putSlot n w s.now r.loop 1 r.readPrd).setCtx e ((s.ctx e).wrote r qx delay false)).retire e 2 (r.pc + 1)
    Touches [.engines, .mem, .chk] s t ∧
      t.mword (slotKey n) = w ∧ t.mword (slotKey n + 4) = BitVec.ofNat 32 s.now ∧
      t.mword (slotKey n + 8) = BitVec.ofNat 32 (s.now / 2 ^ 32) ∧
      t.mword (slotKey n + 12) = BitVec.ofNat 32 (r.loop % 64 + 2 ^ 6 + bit r.readPrd * 2 ^ 9) ∧ OnlyBytes (slotKey n) 16 s t ∧
      WritesRegs s t e [(qx, satInt32 delay)] ∧ (t.ctx e).flags = { (s.ctx e).flags with rej := false, ovrd := false } ∧
      (t.ctx e).run = some { r with
        pc := r.pc + 1, ops := r.ops + 2, delay := if r.delay.isSome then r.delay else some delay } := by
  intro t
  obtain ⟨hvalue, hlow, hhigh, hmeta, hbytes⟩ := putSlot_effect s n w s.now r.loop 1 r.readPrd
  have hu := putSlot_touches s n w s.now r.loop 1 r.readPrd
  obtain ⟨htouch, hends⟩ := setCtx_retire_ends (c := (s.ctx e).wrote r qx delay false) hx hu (by decide) (by decide) rfl rfl rfl
    (r.pc + 1)
  have hmem : t.mem = (s.putSlot n w s.now r.loop 1 r.readPrd).mem := htouch .mem (by decide)
  refine ⟨(hu.mono (by decide)).trans (htouch.mono (by decide)), ?_, ?_, ?_, ?_, fun b hb => ?_, fun j => ?_, ?_, ?_⟩
  · rw [mword_congr hmem, hvalue]
  · rw [mword_congr hmem, hlow]
  · rw [mword_congr hmem, hhigh]
  · rw [mword_congr hmem, hmeta, Nat.one_mul]
  · rw [byte_congr hmem, hbytes b hb]
  · rw [hends.ctx]
    exact Context.Becomes.start.put qx _ j
  · rw [hends.ctx]
    rfl
  · rw [hends.ctx, advance_run]

theorem outs_slot (hr : (s.ctx e).run = some r) (asInt : Bool) (h : descOut (s.loop r.loop).desc k < 0x400)
    (hf : ∀ l, descSrc (s.loop l).desc ≠ 3) :
    s.outs e q qx k asInt =
      ((s.putSlot (descOut (s.loop r.loop).desc k) ((s.ctx e).get q) s.now r.loop 1 r.readPrd).setCtx e
        ((s.ctx e).wrote r qx (ticksSince r.stamp s.now) false)).retire e 2 (r.pc + 1) := by
  have hrej : ¬ outputRejected (descOut (s.loop r.loop).desc k) ((s.ctx e).get q) asInt = true := by
    unfold outputRejected
    simp only [Bool.and_eq_true, decide_eq_true_eq, not_and]
    omega
  unfold State.outs
  rw [hr]
  simp only [if_neg hrej, State.writeOutput, if_pos h, fireSlot_putSlot _ _ _ _ _ _ fun l _ hs => absurd hs (hf l),
    ctx_congr (putSlot_touches s _ _ _ _ _ _ .engines (by decide))]
  rfl

/-- The two words of an instant, the low one written first (R105). -/
def Context.putInstant (c : Context) (qd qa t : Nat) : Context :=
  (c.put qd (BitVec.ofNat 32 t)).put qa (BitVec.ofNat 32 (t / 2 ^ 32))

theorem compute_putInstant (hx : Executes s e cost r) (qd qa t : Nat) :
    let u := s.compute e cost fun c => c.putInstant qd qa t
    Touches [.engines] s u ∧
      Computes s u e cost r [(qa, BitVec.ofNat 32 (t / 2 ^ 32)), (qd, BitVec.ofNat 32 t)] (s.ctx e).flags :=
  computes_of_compute hx (by unfold Context.putInstant; rw [put_run, put_run]) ((Context.Becomes.start.put qd _).put qa _)
    (by unfold Context.putInstant; rw [put_flags, put_flags])

theorem stampTo_trigger (hr : (s.ctx e).run = some r) (qd qa : Nat) :
    s.stampTo e qd qa 0 = s.compute e 1 fun c => c.putInstant qd qa r.stamp := by
  unfold State.stampTo
  rw [hr]
  rfl

theorem stampTo_now (hr : (s.ctx e).run = some r) (qd qa : Nat) :
    s.stampTo e qd qa 1 = s.compute e 1 fun c => c.putInstant qd qa s.now := by
  unfold State.stampTo
  rw [hr]
  rfl

theorem stampTo_delay (hr : (s.ctx e).run = some r) (qd qa : Nat) :
    s.stampTo e qd qa 2 = s.compute e 1 fun c => c.put qd (satInt32 (ticksSince r.stamp s.now)) := by
  unfold State.stampTo
  rw [hr]
  rfl

theorem stampTo_interval {p : Nat} (hr : (s.ctx e).run = some r) (hp : (s.loop r.loop).prevStamp = some p) (qd qa : Nat) :
    s.stampTo e qd qa 3 = s.compute e 1 fun c => c.put qd (satInt32 (ticksSince p r.stamp)) := by
  unfold State.stampTo
  rw [hr]
  simp only [hp]

/-- Settles O15, by what each instruction writes to its context before it retires. -/
theorem runInputsAndOutputs : Obligations.RunInputsAndOutputs := by
  refine ⟨fun s e r q qx k hx hf hm hg => ?_, fun s e r q qx k v hx hf hm => ?_, fun s e r q qx k hx hs hh hn => ?_,
    fun s e r q qx k asInt hx hh hsrc => ?_, fun s e r qd qa hx => ⟨?_, ?_, ?_, fun p hp => ?_⟩⟩
  · have hu := inputValue_touches (s := s) r.stamp hg
    exact ⟨_, congrArg Host.Outcome.next (ins_first hx.1 hm hf (hu .engines (by decide))),
      hasRead_ends hx hu (by decide) (by decide) _ _ _ _⟩
  · obtain ⟨htouch, hregs, hflags, -⟩ := hasRead_ends (P := []) hx (Kept.start (L := [])).same (by decide) (by decide)
      q qx (descIn (s.loop r.loop).desc k) v
    exact ⟨_, congrArg Host.Outcome.next (ins_again hx.1 hm hf), htouch, hregs, hflags⟩
  · exact ⟨_, congrArg Host.Outcome.next (outs_rejected hx.1 (by simp [outputRejected, hh, hn])), rejected_ends hx hs qx⟩
  · exact ⟨_, congrArg Host.Outcome.next (outs_slot hx.1 asInt hh hsrc), wrote_ends hx qx _ _ _⟩
  · exact ⟨_, congrArg Host.Outcome.next (stampTo_trigger hx.1 qd qa), compute_putInstant hx _ _ _⟩
  · exact ⟨_, congrArg Host.Outcome.next (stampTo_now hx.1 qd qa), compute_putInstant hx _ _ _⟩
  · exact ⟨_, congrArg Host.Outcome.next (stampTo_delay hx.1 qd qa), compute_put hx rfl⟩
  · exact ⟨_, congrArg Host.Outcome.next (stampTo_interval hx.1 hp qd qa), compute_put hx rfl⟩

end Sys2Proof.Machine
end

section
/-! PROOF. Local memory and signal slots (O18). -/

namespace Sys2Proof.Machine

variable {s t u : State} {e l n port addr off : Nat} {w : Word}

/-- An engine whose sluices are not closed takes a write to its memory (R525). -/
theorem localWrite_admitted (he : e < 16) (ha : addr < 0x20000) (hs : s.sluicesClosed e = false) :
    ¬ (16 ≤ e ∨ 0x20000 ≤ addr / 4 * 4 ∨ s.sluicesClosed (pdLE e) = true) := by
  rw [hs]
  simp only [Bool.false_eq_true, or_false]
  omega

/-- A word from outside to a state area: held while a run is in progress or the state is copied (R73). -/
theorem localWrite_state (he : e < 16) (ha : addr < 0x20000) (hs : s.sluicesClosed e = false)
    (hl : s.stateLoopAt e (addr / 4 * 4) = some l) :
    s.localWrite e addr w = if s.inProgress l = true ∨ (s.loop l).copying = true then
        s.setLoop l { s.loop l with held := (s.loop l).held ++ [(addr / 4 * 4 - (s.loop l).stOff, w)] }
      else s.putMword (leBase e + addr / 4 * 4) w := by
  unfold State.localWrite
  extract_lets off
  rw [if_neg (localWrite_admitted he ha hs)]
  simp only [off, hl, State.inProgress, Bool.or_eq_true, or_assoc]
  rfl

/-- A word from outside to an image is discarded and logged (R74). -/
theorem localWrite_image (he : e < 16) (ha : addr < 0x20000) (hs : s.sluicesClosed e = false)
    (hn : s.stateLoopAt e (addr / 4 * 4) = none) (hl : s.imageAt e (addr / 4 * 4) = some l) :
    s.localWrite e addr w = s.reportLoop .c 0x27 (pgLE e) l := by
  unfold State.localWrite
  extract_lets off
  rw [if_neg (localWrite_admitted he ha hs)]
  simp only [off, hn, hl]

/-- A word from outside to neither is written (R73). -/
theorem localWrite_free (he : e < 16) (ha : addr < 0x20000) (hs : s.sluicesClosed e = false)
    (hn : s.stateLoopAt e (addr / 4 * 4) = none) (hl : s.imageAt e (addr / 4 * 4) = none) :
    s.localWrite e addr w = s.putMword (leBase e + addr / 4 * 4) w := by
  unfold State.localWrite
  extract_lets off
  rw [if_neg (localWrite_admitted he ha hs)]
  simp only [off, hn, hl]

/-- A word of memory is written, and every other byte stays (R559). -/
theorem putMword_effect (s : State) (a : Nat) (w : Word) :
    Touches [.mem, .chk] s (s.putMword a w) ∧ (s.putMword a w).mword a = w ∧ OnlyBytes a 4 s (s.putMword a w) :=
  ⟨(Kept.start.putMword (List.Subset.refl _) _ _).same, mword_putMword_self _ _ _, onlyBytes_putMword _ _ _⟩

/-- What a read of VALUE keeps of a slot for its port (R107). -/
def State.slotLatch (s : State) (n : Nat) : SlotShadow :=
  { slot := n, stampL := s.mword (slotKey n + 4), stampH := s.mword (slotKey n + 8), info := s.mword (slotKey n + 12) }

/-- A read of VALUE of a slot that passes its check (R107). -/
theorem slotRead_good (port : Nat) (f : Finder) (hn : n < 1024) (hg : s.unitBad (slotKey n) = false) :
    s.slotRead port n f =
      { s.slotChecked n f with
        answer := s.mword (slotKey n)
        slotShadows := tabPut (fun _ => none) s.slotShadows port (some (s.slotLatch n)) } := by
  have hchk := slotChecked_touches f hg
  have hbad : (s.slotChecked n f).unitBad (slotKey n) = false := by
    rw [slotChecked_good f hg]
    exact hg
  have hword : ∀ j, (s.slotChecked n f).slotWord n j = s.mword (slotKey n + 4 * j) := fun j => by
    unfold State.slotWord
    rw [if_neg (by rw [hbad]; decide), mword_congr (hchk .mem (by decide))]
  have hshadow : (s.slotChecked n f).slotShadows = s.slotShadows := hchk .slotShadows (by decide)
  unfold State.slotRead
  rw [if_pos hn]
  simp only [hword, hshadow, Nat.mul_zero, Nat.add_zero, Nat.reduceMul, State.slotLatch]

/-- A port reads the words that its last read of VALUE latched (R107). -/
theorem slotSeen_latched {x : SlotShadow} (h : tabGet (fun _ => none) t.slotShadows port = some x) (hn : x.slot = n) :
    t.slotSeen port n 1 = x.stampL ∧ t.slotSeen port n 2 = x.stampH ∧ t.slotSeen port n 3 = x.info := by
  unfold State.slotSeen
  simp only [h, hn, true_and]
  exact ⟨rfl, rfl, rfl⟩

theorem touches_answer_shadows (s : State) (w : Word) (x : Tab (Option SlotShadow)) :
    Touches [.answer, .chk, .slotShadows] s { s with answer := w, slotShadows := x } := fun p hp => by
  cases p with
  | answer => exact absurd (by decide) hp
  | slotShadows => exact absurd (by decide) hp
  | _ => rfl

/-- What a read of VALUE answers, and what it keeps for its port (R107). -/
theorem slotRead_effect (port : Nat) (f : Finder) (hn : n < 1024) (hg : s.unitBad (slotKey n) = false) :
    let t := s.slotRead port n f
    Touches [.answer, .chk, .slotShadows] s t ∧ t.answer = s.mword (slotKey n) ∧ t.slotSeen port n 1 = s.mword (slotKey n + 4) ∧
      t.slotSeen port n 2 = s.mword (slotKey n + 8) ∧ t.slotSeen port n 3 = s.mword (slotKey n + 12) := by
  intro t
  have ht : t = _ := slotRead_good port f hn hg
  have hlatch : tabGet (fun _ => none) t.slotShadows port = some (s.slotLatch n) := by
    rw [ht]
    exact tabGet_put_self (fun _ => none) s.slotShadows port (some (s.slotLatch n))
  have hseen := slotSeen_latched hlatch rfl
  refine ⟨?_, by rw [ht], hseen⟩
  rw [ht]
  exact ((slotChecked_touches f hg).mono (Q := [.answer, .chk, .slotShadows]) (by decide)).trans (touches_answer_shadows _ _ _)

/-- A write of VALUE to a slot that triggers no loop replaces the slot (R107). -/
theorem slotWrite_value (src : Nat) (hn : n < 1024) (h : ∀ l, l < 64 → descSrc (s.loop l).desc = 3 → descSlot (s.loop l).desc ≠ n) :
    s.slotWrite src n 0 w = s.putSlot n w s.now 0 src false := by
  unfold State.slotWrite
  rw [if_pos ⟨hn, rfl⟩, fireSlot_putSlot _ _ _ _ _ _ h]

/-- The other words of a slot take no write (R107). -/
theorem slotWrite_other (src : Nat) {word : Nat} (h : word ≠ 0) : s.slotWrite src n word w = s := if_neg fun hw => h hw.2

/-- Settles O18, by where the word written lies, and by the word of the slot. -/
theorem localMemoryAndSlots : Obligations.LocalMemoryAndSlots := by
  refine ⟨fun s e addr w l hs hl hp he hc => ?_, fun s e addr w l hs hl hp => ?_, fun s e addr w l hs hn hl hcoll => ?_,
    fun s e addr w hs hn hl => ?_, fun s writer n w h => ?_, fun s writer n word w h => ?_,
    fun s port n hg => ⟨_, rfl, slotRead_effect port _ n.isLt hg⟩⟩
  · exact ⟨_, congrArg Host.Outcome.next ((localWrite_state e.isLt addr.isLt hs hl).trans (if_neg (by simp [hp, hc]))),
      putMword_effect _ _ _⟩
  · exact ⟨_, congrArg Host.Outcome.next ((localWrite_state e.isLt addr.isLt hs hl).trans (if_pos (.inl hp))),
      touches_setLoop _ _ _, loop_setLoop_self _ _ _, fun k hk => loop_setLoop_ne _ _ hk⟩
  · exact ⟨_, congrArg Host.Outcome.next (localWrite_image e.isLt addr.isLt hs hn hl),
      (Kept.start.reportLoop (List.Subset.refl _) _ _ _ _ _).same, reported_reportLoop _ _ _ _ _ _ hcoll⟩
  · exact ⟨_, congrArg Host.Outcome.next (localWrite_free e.isLt addr.isLt hs hn hl), putMword_effect _ _ _⟩
  · obtain ⟨hvalue, hlow, hhigh, hmeta, hbytes⟩ := putSlot_effect s n w s.now 0 writer false
    exact ⟨_, congrArg Host.Outcome.next (slotWrite_value writer n.isLt h), putSlot_touches _ _ _ _ _ _ _, hvalue, hlow, hhigh,
      hmeta.trans (by simp [bit]), hbytes⟩
  · exact congrArg Host.Outcome.next (slotWrite_other writer (Fin.val_ne_of_ne h))

end Sys2Proof.Machine
end

section
/-! PROOF. Triggers (O16). -/

namespace Sys2Proof.Machine

variable {s t : State} {l at_ : Nat} {ks : List Nat} {sel : LoopRec → Bool}

/-- A trigger of a loop that is not active is lost (R75). -/
theorem fire_inactive (at_ : Nat) (h : (s.loop l).active = false) : s.fire l at_ = s :=
  if_pos (.inl (by rw [h]; decide))

/-- A trigger of a ready loop makes its run wait (R75). -/
theorem fire_ready (at_ : Nat) (h : ReadyToRun s l) :
    s.fire l at_ = s.setEng (s.loop l).engine { s.eng (s.loop l).engine with
      waiting := (s.eng (s.loop l).engine).waiting ++ [{ loop := l, stamp := at_ }] } := by
  obtain ⟨hactive, hcopy, hheld, hprogress, hnext, hwith, hst⟩ := h
  have htake : s.takeNext l = s := by
    unfold State.takeNext
    simp only [hnext]
  unfold State.fire
  simp only [hactive, hcopy, hheld, hprogress, hwith, hst, htake, not_true_eq_false, Bool.false_eq_true, or_self, if_false]

theorem runWaits_fire (at_ : Nat) (h : ReadyToRun s l) : RunWaits s (s.fire l at_) l at_ := by
  rw [fire_ready at_ h]
  exact ⟨eng_setEng_self _ _ _, fun k hk => eng_setEng_ne _ _ hk, (Kept.start.setEng (List.Subset.refl _) _ _).same⟩

/-- Loops that are not active wait for nothing (R75). -/
theorem each_fire_inactive (at_ : Nat) (h : ∀ k ∈ ks, (s.loop k).active = false) : s.each ks (fun s k => s.fire k at_) = s := by
  induction ks with
  | nil => rfl
  | cons k ks ih =>
    have hk : s.fire k at_ = s := fire_inactive at_ (h k List.mem_cons_self)
    refine Eq.trans ?_ (ih fun j hj => h j (List.mem_cons_of_mem k hj))
    exact congrArg (fun u : State => u.each ks fun s k => s.fire k at_) hk

/-- Of loops without repetition of which only `l` is active, only `l` is fired (R75). -/
theorem each_fire_single (at_ : Nat) (hnd : ks.Nodup) (hl : l ∈ ks) (hready : ReadyToRun s l)
    (h : ∀ k ∈ ks, k ≠ l → (s.loop k).active = false) : s.each ks (fun s k => s.fire k at_) = s.fire l at_ := by
  induction ks with
  | nil => cases hl
  | cons k ks ih =>
    obtain ⟨hnot, hnd⟩ := List.nodup_cons.1 hnd
    by_cases hk : k = l
    · subst hk
      refine each_fire_inactive (s := s.fire k at_) at_ fun j hj => ?_
      have hloops := (runWaits_fire at_ hready).2.2 .loops (by decide)
      rw [loop_congr hloops]
      exact h j (List.mem_cons_of_mem k hj) fun hjk => hnot (hjk ▸ hj)
    · have hfire : s.fire k at_ = s := fire_inactive at_ (h k List.mem_cons_self hk)
      refine Eq.trans (congrArg (fun u : State => u.each ks fun s k => s.fire k at_) hfire) ?_
      exact ih hnd ((List.mem_cons.1 hl).resolve_left (Ne.symm hk)) fun j hj => h j (List.mem_cons_of_mem k hj)

/-- A trigger that selects one active loop makes its run wait (R75). -/
theorem runWaits_fireAll (at_ : Nat) (hl : l < 64) (hready : ReadyToRun s l)
    (hsel : ∀ k, k < 64 → (((s.loop k).active = true ∧ sel (s.loop k) = true) ↔ k = l)) :
    RunWaits s (s.fireAll sel at_) l at_ := by
  have hfire : s.fireAll sel at_ = s.fire l at_ := by
    refine each_fire_single at_ (List.nodup_range.filter _) ?_ hready fun k hk hne => ?_
    · exact List.mem_filter.2 ⟨List.mem_range.2 hl, ((hsel l hl).2 rfl).2⟩
    · obtain ⟨hrange, hk⟩ := List.mem_filter.1 hk
      by_contra hactive
      exact hne ((hsel k (List.mem_range.1 hrange)).1 ⟨Bool.not_eq_false _ ▸ hactive, hk⟩)
  rw [hfire]
  exact runWaits_fire at_ hready

/-- A trigger of an active loop whose run is in progress is an overrun (R112). -/
theorem fire_overrun (at_ : Nat) (hactive : (s.loop l).active = true) (hcopy : (s.loop l).copying = false)
    (hheld : (s.loop l).held467 = false) (hprogress : s.inProgress l = true)
    (hwith : (s.polder (pdLE (s.loop l).engine)).withheld = false) (hst : (s.polder (pdLE (s.loop l).engine)).st ≠ .failed) :
    s.fire l at_ = s.overrun l := by
  unfold State.fire
  simp only [hactive, hcopy, hheld, hprogress, hwith, hst, not_true_eq_false, Bool.false_eq_true, or_self, if_false, if_true]

/-- An overrun counted and recorded, before it is reported (R112). -/
def State.overran (s : State) (l : Nat) : State :=
  ((s.count (s.loopPage l) Reg.LE.OVR_CNT_COUNT).setWord (s.loopPage l) 0x154 (BitVec.ofNat 32 (l + 2 ^ 31))).setLoop l
    { s.loop l with consec := (s.loop l).consec + 1, overrun := true }

theorem overrun_eq (s : State) (l : Nat) :
    s.overrun l = if (s.loop l).consec + 1 = 2 then
      { (s.overran l).reportLoop .u 0x24 (s.loopPage l) l with
        trl := { (s.overran l).trl with events := (s.overran l).trl.events ++ [.overrun l] } }
    else s.overran l := rfl

theorem touches_trl (s : State) (x : Trellis) : Touches [.trl] s { s with trl := x } := fun p hp => by
  cases p with
  | trl => exact absurd (List.mem_singleton_self _) hp
  | _ => rfl

/-- The report of an overrun and the event for Trellis leave the loop and its record (R113). -/
theorem overrun_touches (s : State) (l : Nat) : Touches [.coll, .trl] (s.overran l) (s.overrun l) := by
  rw [overrun_eq]
  split
  · exact ((Kept.start.reportLoop (L := [.coll]) (by decide) _ _ _ _ _).same.mono (by decide)).trans
      ((touches_trl _ _).mono (by decide))
  · exact Kept.start.same

theorem count_stopped (s : State) (p : Nat) (f : Field) : (s.count p f).coll.stopped = s.coll.stopped := by
  unfold State.count
  extract_lets v u
  split
  · rfl
  · split
    · rw [reportAs_stopped, wrB_coll, wr_coll]
    · rw [wr_coll]

/-- The loop and its overrun record after an overrun, and its report where it is the second in a row (R112, R113). -/
theorem overrun_effect (hs : s.coll.stopped = false) (l : Nat) :
    ((s.overrun l).loop l).consec = (s.loop l).consec + 1 ∧ ((s.overrun l).loop l).overrun = true ∧
      (s.overrun l).word (s.loopPage l) 0x154 = BitVec.ofNat 32 (l + 2 ^ 31) ∧ (s.overrun l).engines = s.engines ∧
      ((s.loop l).consec = 1 → Reported (s.overrun l) .u 0x24 (s.loopPage l)) := by
  have htouch := overrun_touches s l
  have hstop : (s.overran l).coll.stopped = false := by
    unfold State.overran
    rw [setLoop_coll, setWord_coll, count_stopped, hs]
  have hloop : (s.overrun l).loop l = { s.loop l with consec := (s.loop l).consec + 1, overrun := true } :=
    (loop_congr (htouch .loops (by decide)) l).trans (loop_setLoop_self _ _ _)
  refine ⟨by rw [hloop], by rw [hloop], ?_, ?_, fun h1 => ?_⟩
  · rw [word_congr (htouch .regs (by decide))]
    exact (word_congr (setLoop_regs _ _ _) _ _).trans (word_setWord_self _ _ _)
  · refine (htouch .engines (by decide)).trans ?_
    exact (setLoop_engines _ _ _).trans ((setWord_engines _ _ _ _).trans
      ((Kept.start.count (List.Subset.refl _) _ _).same .engines (by decide)))
  · rw [overrun_eq, if_pos (by rw [h1])]
    exact reported_reportLoop (s.overran l) .u 0x24 (s.loopPage l) l 0 hstop

/-- The kick of a loop that it triggers (R75). -/
theorem kick_fires (hl : l < 64) (h : descSrc (s.loop l).desc = 4) : s.kick l = s.fire l s.now := if_pos ⟨hl, h⟩

/-- Settles O16, by what a trigger does to a ready loop, to a loop whose run is in progress, and to the others. -/
theorem triggersStartRuns : Obligations.TriggersStartRuns := by
  refine ⟨fun s l hl hsrc hready => ?_, fun s l h => ?_, fun s l hl hsrc hactive hcopy hheld hprogress hwith hst hs => ?_,
    fun s l hl hready hsel => ⟨_, rfl, ?_⟩, fun s l stage event hl hready hsel => ⟨_, rfl, ?_⟩⟩
  · exact ⟨_, congrArg Host.Outcome.next (kick_fires hl hsrc), runWaits_fire s.now hready⟩
  · exact congrArg Host.Outcome.next (if_neg fun hk => h.elim (fun h64 => absurd hk.1 (Nat.not_lt.2 h64)) fun hne => hne hk.2)
  · have hover := fire_overrun s.now hactive hcopy hheld hprogress hwith hst
    exact ⟨_, congrArg Host.Outcome.next ((kick_fires hl hsrc).trans hover), overrun_effect hs l⟩
  · exact runWaits_fireAll s.now hl hready fun k hk => by
      rw [← hsel k hk]
      simp only [Bool.and_eq_true, beq_iff_eq, bne_iff_ne, and_assoc]
  · exact runWaits_fireAll s.now hl hready fun k hk => by
      rw [← hsel k hk]
      simp only [Bool.and_eq_true, beq_iff_eq, and_assoc]

end Sys2Proof.Machine
end

section
/-! SUPPORT. What follows every change of placement: the fallback plan and what the pages show leave a loop as it was but for its
fallback image, a drain in progress or not, and every register word that placement does not show (R131, R523, R524). -/

namespace Sys2Proof.Machine

variable {s₀ s t u : State}

/-- A step that a list repeats keeps what it keeps once. -/
theorem each_keeps {α : Type} {R : State → State → Prop} {xs : List α} {f : State → α → State} (hrefl : ∀ s, R s s)
    (htrans : ∀ s t u, R s t → R t u → R s u) (hf : ∀ s x, R s (f s x)) (s : State) : R s (s.each xs f) := by
  unfold State.each
  induction xs generalizing s with
  | nil => exact hrefl s
  | cons x xs ih => exact htrans _ _ _ (hf s x) (ih _)

/-- A loop's record that differs in its fallback image only. -/
def LoopRec.SameBut (x y : LoopRec) : Prop := y = { x with fallback := y.fallback, fbOff := y.fbOff, fbLoaded := y.fbLoaded }

theorem LoopRec.SameBut.rfl {x : LoopRec} : x.SameBut x := by
  cases x
  exact Eq.refl _

theorem LoopRec.SameBut.trans {x y z : LoopRec} (h : x.SameBut y) (g : y.SameBut z) : x.SameBut z := by
  unfold LoopRec.SameBut at *
  rw [g, h]

/-- Every loop is as it was but for its fallback image. -/
def LoopsAsWere (s t : State) : Prop := ∀ l, (s.loop l).SameBut (t.loop l)

theorem LoopsAsWere.trans (h : LoopsAsWere s t) (g : LoopsAsWere t u) : LoopsAsWere s u := fun l => (h l).trans (g l)

theorem loopsAsWere_of_loops (h : t.loops = s.loops) : LoopsAsWere s t := fun l => by
  rw [loop_congr h]
  exact .rfl

theorem loopsAsWere_setLoop (s : State) (l : Nat) (f : Option Nat) (o : Nat) (b : Bool) :
    LoopsAsWere s (s.setLoop l { s.loop l with fallback := f, fbOff := o, fbLoaded := b }) := fun k => by
  by_cases hk : k = l
  · rw [hk, loop_setLoop_self]
    exact Eq.refl _
  · rw [loop_setLoop_ne _ _ hk]
    exact .rfl

/-- A loop that the plan gives another fallback engine, or none, loses its image (R131). -/
def State.dropFallback (s : State) (plan : List (Nat × Nat)) (l : Nat) : State :=
  let x := s.loop l
  let target := if x.placed ∧ descClass x.desc = 0 then (plan.find? (·.1 = l)).map (·.2) else none
  if x.fallback = target then s else s.setLoop l { x with fallback := none, fbLoaded := false, fbOff := 0 }

/-- A loop to which the plan gives another fallback engine has its image load there (R131). -/
def State.takeFallback (s : State) (lf : Nat × Nat) : State :=
  let x := s.loop lf.1
  if x.fallback = some lf.2 then s
  else s.setLoop lf.1 { x with fallback := some lf.2, fbLoaded := false, fbOff := firstFit (s.areas lf.2) (s.fbBytes lf.1) }

theorem replanFallbacks_eq (s : State) : s.replanFallbacks = ((s.each loopIds fun t l =>
    t.dropFallback s.planFallbacks l).each s.planFallbacks State.takeFallback).showPlacement := rfl

/-- What holds of every change of a fallback image, and of what the pages show, holds of the new plan (R131). -/
theorem replanFallbacks_keeps {R : State → State → Prop} (hrefl : ∀ s, R s s) (htrans : ∀ s t u, R s t → R t u → R s u)
    (hset : ∀ (s : State) l f o b, R s (s.setLoop l { s.loop l with fallback := f, fbOff := o, fbLoaded := b }))
    (hshow : ∀ s, R s s.showPlacement) (s : State) : R s s.replanFallbacks := by
  have hdrop (plan : List (Nat × Nat)) (t : State) (l : Nat) : R t (t.dropFallback plan l) := by
    unfold State.dropFallback
    dsimp only
    generalize (if (t.loop l).placed = true ∧ descClass (t.loop l).desc = 0 then (plan.find? (·.1 = l)).map (·.2) else none) = target
    split
    · exact hrefl t
    · exact hset t l none 0 false
  have htake (t : State) (lf : Nat × Nat) : R t (t.takeFallback lf) := by
    unfold State.takeFallback
    dsimp only
    split
    · exact hrefl t
    · exact hset t lf.1 _ _ _
  rw [replanFallbacks_eq]
  exact htrans _ _ _ (htrans _ _ _ (each_keeps hrefl htrans (hdrop _) s) (each_keeps hrefl htrans htake _)) (hshow _)

/-- The new fallback plan changes fallback images only (R131). -/
theorem replanFallbacks_loops (s : State) : LoopsAsWere s s.replanFallbacks :=
  replanFallbacks_keeps (fun _ _ => .rfl) (fun _ _ _ => .trans) loopsAsWere_setLoop (fun s => loopsAsWere_of_loops
    ((Kept.start.showPlacement (L := [.regs, .pushes, .polders]) (List.Subset.refl _)).same .loops (by decide))) s

theorem afterEvent_loops (s : State) : LoopsAsWere s s.afterEvent := by
  have h : Touches [.regs, .pushes, .coll] s.replanFallbacks s.afterEvent :=
    ((Kept.start.showLoads (by decide)).judgeReserve (List.Subset.refl _)).same
  exact (replanFallbacks_loops s).trans (loopsAsWere_of_loops (h .loops (by decide)))

/-- The same polders are draining. -/
def DrainsAsWere (s t : State) : Prop := ∀ p, (t.polder p).st = .draining ↔ (s.polder p).st = .draining

theorem DrainsAsWere.trans (h : DrainsAsWere s t) (g : DrainsAsWere t u) : DrainsAsWere s u := fun p => (g p).trans (h p)

theorem drainsAsWere_of_polders (h : t.polders = s.polders) : DrainsAsWere s t := fun p => by rw [polder_congr h]

/-- Work that comes to a polder, or leaves it, neither starts nor ends a drain (R32). -/
theorem setBusy_drains (s : State) (p : Nat) (b : Bool) : DrainsAsWere s (s.setBusy p b) := fun q => by
  unfold State.setBusy
  by_cases hq : q = p
  · rw [hq, polder_setPolder_self]
    dsimp only
    split
    case isTrue hst => rcases hst with hst | hst <;> cases b <;> simp [hst]
    case isFalse => exact Iff.rfl
  · rw [polder_setPolder_ne _ _ hq]

theorem engineBusy_drains (s : State) (e : Nat) : DrainsAsWere s (s.engineBusy e) := setBusy_drains s _ _

theorem showPlacement_drains (s : State) : DrainsAsWere s s.showPlacement := by
  unfold State.showPlacement
  extract_lets u v
  have hu : DrainsAsWere s u := by
    refine each_keeps (R := DrainsAsWere) (fun _ _ => Iff.rfl) (fun _ _ _ => .trans) (fun s e => ?_) s
    have he : (s.showEngine e).polders = s.polders :=
      (Kept.start.showEngine (L := [.regs, .pushes]) (List.Subset.refl _) e).same .polders (by decide)
    exact (drainsAsWere_of_polders he).trans (engineBusy_drains _ e)
  refine hu.trans (drainsAsWere_of_polders ?_)
  exact (((Kept.start.wr (L := [.regs, .pushes]) (List.Subset.refl _) _ _ _).wr (List.Subset.refl _) _ _ _).showFallbackOk
    (List.Subset.refl _)).same .polders (by decide)

theorem replanFallbacks_drains (s : State) : DrainsAsWere s s.replanFallbacks :=
  replanFallbacks_keeps (fun _ _ => Iff.rfl) (fun _ _ _ => .trans) (fun _ _ _ _ _ => drainsAsWere_of_polders rfl)
    showPlacement_drains s

theorem afterEvent_drains (s : State) : DrainsAsWere s s.afterEvent := by
  have h : Touches [.regs, .pushes, .coll] s.replanFallbacks s.afterEvent :=
    ((Kept.start.showLoads (by decide)).judgeReserve (List.Subset.refl _)).same
  exact (replanFallbacks_drains s).trans (drainsAsWere_of_polders (h .polders (by decide)))

/-- What follows an event of placement: the parts it leaves (R131, R523). -/
theorem afterEvent_touches (s : State) : Touches [.regs, .pushes, .polders, .coll, .loops] s s.afterEvent :=
  (Kept.start.afterEvent (List.Subset.refl _)).same

theorem replanFallbacks_touches (s : State) : Touches [.regs, .pushes, .polders, .loops] s s.replanFallbacks :=
  (Kept.start.replanFallbacks (List.Subset.refl _)).same

/-- The words in which placement shows: those of the engines' pages and beyond, TRL.STAT, and the agreement events
(R152, R504, R523, R524). -/
def shownKey (k : Nat) : Prop := pgLE 0 ≤ keyPage k ∨ k = regKey pgTRL 0x110 ∨ k = agrKey

theorem shownKey_engine (e o : Nat) : shownKey (regKey (pgLE e) o) := by
  left
  show 16 ≤ ((16 + e) * 0x2000000 + o) / 0x2000000
  omega

theorem Spares.showEntry (h : Spares shownKey s₀ s) (e i : Nat) (l : Option Nat) : Spares shownKey s₀ (s.showEntry e i l) := by
  have hw (o : Nat) {t : State} (g : Spares shownKey s₀ t) (w : Word) : Spares shownKey s₀ (t.setWord (pgLE e) o w) :=
    g.setWord (shownKey_engine e o) w
  cases l with
  | none => exact hw _ (hw _ (hw _ (hw _ h _) _) _) _
  | some l => exact hw _ (hw _ (hw _ (hw _ h _) _) _) _

theorem Spares.showEngine (h : Spares shownKey s₀ s) (e : Nat) : Spares shownKey s₀ (s.showEngine e) := by
  have hw (o : Nat) {t : State} (g : Spares shownKey s₀ t) (w : Word) : Spares shownKey s₀ (t.setWord (pgLE e) o w) :=
    g.setWord (shownKey_engine e o) w
  refine Spares.each (Spares.each (hw _ h _) fun _ _ _ g => g.showEntry e _ _) fun t i _ g => ?_
  split
  · exact hw _ (hw _ g _) _
  · exact hw _ (hw _ g _) _

theorem Spares.showPlacement (h : Spares shownKey s₀ s) : Spares shownKey s₀ s.showPlacement := by
  have hstat {f : Field} (hf : f.off = 0x110) : shownKey (fieldKey pgTRL f) := .inr (.inl (by rw [fieldKey, hf]))
  have hbusy : Spares shownKey s₀ (s.each allEngines fun s e => (s.showEngine e).engineBusy e) :=
    h.each fun _ e _ g => (g.showEngine e).setBusy (.inr (.inr rfl)) _ _
  exact ((hbusy.wr (hstat rfl) _).wr (hstat rfl) _).wrB (hstat rfl) _

theorem Spares.replanFallbacks (s : State) : Spares shownKey s s.replanFallbacks :=
  replanFallbacks_keeps (fun _ => .start) (fun _ _ _ => .trans) (fun _ _ _ _ _ => Spares.start.otherParts rfl rfl)
    (fun _ => Spares.start.showPlacement) s

/-- A word of TRL other than STAT is as it was before placement showed. -/
theorem Spares.word_trl (h : Spares shownKey s t) {o : Nat} (ho : o < 0x2000000) (hs : o ≠ 0x110) : t.word pgTRL o = s.word pgTRL o := by
  refine h.words _ fun hk => ?_
  unfold shownKey keyPage regKey agrKey fieldKey regKey at hk
  simp only [pgLE, pgTRL, pgSUP, Reg.SUP.AGR_EVT_EVT] at hk
  omega

end Sys2Proof.Machine
end

section
/-! SUPPORT. The steps that Trellis takes with a loop: placing it on an engine, starting a move, and judging the drains anew
(R36, R134, R138, R139). -/

namespace Sys2Proof.Machine

variable {s t : State} {l e dest cause : Nat} {d : List Word}

theorem loop_followed {P : List Part} (h : Touches P s t) (hP : .loops ∉ P) (k : Nat) : t.loop k = s.loop k := loop_congr (h .loops hP) k

/-- A loop placed again is loading on its engine, under its descriptor, without a move (R138, R151). -/
structure PlacedAgain (s t : State) (l e : Nat) (d : List Word) : Prop where
  state : (t.loop l).state = .loading
  engine : (t.loop l).engine = e
  desc : (t.loop l).desc = d
  next : (t.loop l).next = none
  move : (t.loop l).move = none
  moveCause : (t.loop l).moveCause = (s.loop l).moveCause
  others : ∀ k, k ≠ l → t.loop k = s.loop k
  drains : DrainsAsWere s t
  parts : Touches [.regs, .pushes, .mem, .chk, .polders, .loops, .guards] s t

/-- Placing a loop again sets its record, writes its areas, and loads its guards (R138, R140). -/
theorem placeOn_again_eq (s : State) (l e : Nat) (d : List Word) : ∃ (u : State) (x : LoopRec),
    s.placeOn l e d true = (u.loadGuards l false).engineBusy e ∧ u.polders = s.polders ∧
      (∀ j, u.loop j = (s.setLoop l x).loop j) ∧ x.state = .loading ∧ x.engine = e ∧ x.desc = d ∧ x.next = none ∧
      x.move = none ∧ x.moveCause = (s.loop l).moveCause := by
  unfold State.placeOn
  extract_lets x k base₀ base u₁ imgOff u₂ size stOff u₃ u₄ u₅
  have hmem : Touches [.mem, .chk] u₃ u₅ :=
    (Kept.overlayCkpt (Kept.start.initState (List.Subset.refl _) _ _ _) (List.Subset.refl _) _ _).same
  refine ⟨u₅, { base with imgOff := imgOff, stOff := stOff, stSize := size }, rfl, hmem .polders (by decide), fun j => ?_,
    rfl, rfl, rfl, rfl, rfl, rfl⟩
  rw [loop_followed hmem (by decide)]
  by_cases hj : j = l
  · rw [hj]
    exact (loop_setLoop_self _ _ _).trans (loop_setLoop_self _ _ _).symm
  · exact (loop_setLoop_ne _ _ hj).trans ((loop_setLoop_ne _ _ hj).trans ((loop_setLoop_ne _ _ hj).trans
      (loop_setLoop_ne _ _ hj).symm))

theorem placeOn_again (s : State) (l e : Nat) (d : List Word) : PlacedAgain s (s.placeOn l e d true) l e d := by
  have hparts := (Kept.start.placeOn (s₀ := s) (List.Subset.refl _) l e d true).same
  obtain ⟨u, x, heq, hpolders, hloops, hstate, hengine, hdesc, hnext, hmove, hcause⟩ := placeOn_again_eq s l e d
  have hguards : Touches [.guards] u (u.loadGuards l false) := (Kept.start.loadGuards (List.Subset.refl _) l _).same
  have hbusy : Touches [.regs, .pushes, .polders] (u.loadGuards l false) ((u.loadGuards l false).engineBusy e) :=
    (Kept.start.engineBusy (List.Subset.refl _) e).same
  have hall (j : Nat) : (s.placeOn l e d true).loop j = (s.setLoop l x).loop j := by
    rw [heq, loop_followed hbusy (by decide), loop_followed hguards (by decide), hloops]
  have hl := (hall l).trans (loop_setLoop_self _ _ _)
  have hdrains : DrainsAsWere s (s.placeOn l e d true) := by
    rw [heq]
    exact (drainsAsWere_of_polders ((hguards .polders (by decide)).trans hpolders)).trans (engineBusy_drains _ e)
  exact ⟨by rw [hl, hstate], by rw [hl, hengine], by rw [hl, hdesc], by rw [hl, hnext], by rw [hl, hmove], by rw [hl, hcause],
    fun j hj => (hall j).trans (loop_setLoop_ne _ _ hj), hdrains, hparts⟩

theorem graftMoved_of_none (h : s.trl.graftLoops = []) (l : Nat) : s.graftMoved l = s := by
  unfold State.graftMoved
  rw [h]
  rfl

/-- A planned move has started: the loop moves to its destination, and nothing else changes (R134). -/
structure MoveStarted (s t : State) (l dest cause : Nat) : Prop where
  state : (t.loop l).state = .moving
  engine : (t.loop l).engine = (s.loop l).engine
  move : ((t.loop l).move.map fun m => (m.dest, m.cause)) = some (dest, cause)
  others : ∀ k, k ≠ l → t.loop k = s.loop k
  parts : Touches [.loops] s t

theorem startMove_starts (hst : (s.loop l).state = .running) (hm : (s.loop l).move = none) (hg : s.trl.graftLoops = [])
    (dest cause : Nat) : MoveStarted s (s.startMove l dest cause) l dest cause := by
  unfold State.startMove
  extract_lets x u y there imgOff m v stOff
  have hu : u = s := graftMoved_of_none hg l
  have hy : y = s.loop l := by rw [show y = u.loop l from rfl, hu]
  clear_value u y
  subst hu
  rw [if_neg (by simp [x, hst, hm])]
  have hv : v.loop l = { y with move := some m, state := .moving } := loop_setLoop_self _ _ _
  have hengine : (v.loop l).engine = (u.loop l).engine := by rw [hv, hy]
  refine ⟨?_, ?_, ?_, fun k hk => (loop_setLoop_ne _ _ hk).trans (loop_setLoop_ne _ _ hk),
    ((Kept.start.setLoop (List.Subset.refl _) _ _).setLoop (List.Subset.refl _) _ _).same⟩
  · rw [loop_setLoop_self]
    exact congrArg LoopRec.state hv
  · rw [loop_setLoop_self]
    exact hengine
  · rw [loop_setLoop_self]
    rfl

theorem sortBy_singleton {α : Type} (before : α → α → Bool) (x : α) : sortBy before [x] = [x] := rfl

theorem each_singleton {α : Type} (s : State) (x : α) (f : State → α → State) : s.each [x] f = f s x := rfl

/-- A drain that moves its one loop (R33). -/
theorem moveAway_single (hon : s.loopsOn e = [l]) (hd : s.engineFor l (s.loop l).desc [e] = some dest) :
    s.moveAway e = s.startMove l dest 1 := by
  unfold State.moveAway
  rw [hon, sortBy_singleton, each_singleton, hd]

theorem abandonMove_engine (s : State) (l k : Nat) : ((s.abandonMove l).loop k).engine = (s.loop k).engine := by
  unfold State.abandonMove
  dsimp only
  split
  · by_cases hk : k = l
    · rw [hk, loop_setLoop_self]
    · rw [loop_setLoop_ne _ _ hk]
  · rfl

theorem drainStops_engine {p : Nat} (hp : p < 16) : Touches [.loops] s (s.drainStops p) ∧
    ∀ k, ((s.drainStops p).loop k).engine = (s.loop k).engine := by
  unfold State.drainStops
  rw [if_pos hp]
  exact ⟨(Kept.start.each fun _ _ h => h.abandonMove (List.Subset.refl _) _).same,
    each_keeps (R := fun s t => ∀ k, (t.loop k).engine = (s.loop k).engine) (fun _ _ => rfl)
      (fun _ _ _ h g k => (g k).trans (h k)) abandonMove_engine s⟩

theorem recheckDrains_of_one {p : Nat} (hp : p < 0x3C) (h : ∀ q, (s.polder q).st = .draining ↔ q = p) : s.recheckDrains =
    if s.stillDrains p then s else (s.abandonDrain p).polderFollows p .draining := by
  have he : ∀ q ∈ List.range 0x3C, decide (s.polderSt q = .draining) = (q == p) := fun q _ => by
    rw [beq_eq_decide]
    exact decide_eq_decide.2 (h q)
  unfold State.recheckDrains
  rw [List.filter_congr he, List.filter_beq, List.count_eq_one_of_mem List.nodup_range (List.mem_range.2 hp)]
  rfl

/-- The drain of one engine judged anew: it goes on as it was, or ends with every loop on its engine (R36, R139). -/
theorem recheckDrains_engine {p : Nat} (hp : p < 16) (h : ∀ q, (s.polder q).st = .draining ↔ q = p) :
    s.recheckDrains.trl = s.trl ∧ (∀ k, (s.recheckDrains.loop k).engine = (s.loop k).engine) ∧
      ((s.recheckDrains.polder p).st = .draining → s.recheckDrains = s) := by
  rw [recheckDrains_of_one (by omega) h]
  split
  · exact ⟨rfl, fun _ => rfl, fun _ => rfl⟩
  · have hab := abandonDrain_of_draining ((h p).2 rfl)
    have hst : ((s.abandonDrain p).polder p).st = if (s.polder p).busy then .running else .ready := by
      rw [hab]
      exact congrArg Polder.st ((polder_congr (reportFab_polders _ _ _ _ _ _) p).trans (polder_setPolder_self _ _ _))
    have htouch : Touches [.regs, .pushes, .polders, .coll] s (s.abandonDrain p) :=
      (Kept.start.abandonDrain (List.Subset.refl _) p).same
    have hfollow : (s.abandonDrain p).polderFollows p .draining = (s.abandonDrain p).drainStops p := by
      have hnew : (s.abandonDrain p).polderSt p = .ready ∨ (s.abandonDrain p).polderSt p = .running := by
        unfold State.polderSt
        rw [hst]
        split
        · exact .inr rfl
        · exact .inl rfl
      exact if_pos ⟨rfl, hnew⟩
    obtain ⟨hstop, hengine⟩ := drainStops_engine (s := s.abandonDrain p) hp
    rw [hfollow]
    refine ⟨(hstop .trl (by decide)).trans (htouch .trl (by decide)),
      fun k => (hengine k).trans (by rw [loop_followed htouch (by decide)]), fun hd => ?_⟩
    rw [polder_congr (hstop .polders (by decide)), hst] at hd
    split at hd <;> cases hd

theorem countMove_loop (s : State) (l : Nat) : ∃ n, (s.countMove l).loop l = { s.loop l with moves := n } := by
  unfold State.countMove
  extract_lets x u
  split
  · exact ⟨_, rfl⟩
  · have hu : u.loop l = { s.loop l with moves := x.moves + 1 } := loop_setLoop_self _ _ _
    split
    · refine ⟨_, (loop_congr ?_ l).trans hu⟩
      rw [reportFab_loops, wrB_loops]
    · exact ⟨_, hu⟩

theorem countMove_touches (s : State) (l : Nat) : Touches [.regs, .pushes, .coll, .loops] s (s.countMove l) :=
  (Kept.start.countMove (List.Subset.refl _) l).same

end Sys2Proof.Machine
end

section
/-! SUPPORT. What the reserve is judged by: two rules that agree on the 16 groups, and two states that differ in the reported
loads only, give one judgement (R125, R126, R130). -/

namespace Sys2Proof.Machine

variable {s t : State} {r r' : PlaceRules} {bs : List Bin} {b : Bin} {l : PLoop}

/-- The rules agree on the groups that a descriptor can name (R118, R126). -/
structure PlaceRules.Alike (r r' : PlaceRules) : Prop where
  limit : r'.limit = r.limit
  excl : ∀ a b, a < 16 → b < 16 → r'.excl a b = r.excl a b

/-- Every loop of a bin names one of the 16 groups. -/
def Bin.Grouped (b : Bin) : Prop := ∀ m ∈ b.loops, m.group < 16

theorem Bin.Grouped.without (h : b.Grouped) (out : List Nat) : (b.without out).Grouped := fun m hm =>
  h m (List.mem_of_mem_filter hm)

theorem Bin.Grouped.takes (h : b.Grouped) (hl : l.group < 16) : Bin.Grouped { b with loops := b.loops ++ [l] } := fun m hm =>
  (List.mem_append.1 hm).elim (h m) fun hm => by rw [List.mem_singleton.1 hm]; exact hl

theorem fails_alike (h : r.Alike r') (hb : b.Grouped) (hl : l.group < 16) : b.fails r' l = b.fails r l := by
  have hany : (b.loops.any fun m => r'.apart l.group m.group) = b.loops.any fun m => r.apart l.group m.group := by
    rw [Bool.eq_iff_iff, List.any_eq_true, List.any_eq_true]
    refine exists_congr fun m => and_congr_right fun hm => ?_
    unfold PlaceRules.apart
    rw [h.excl _ _ hl (hb m hm), h.excl _ _ (hb m hm) hl]
  unfold Bin.fails
  rw [hany, h.limit]

theorem evictFor_alike (h : r.Alike r') (hb : b.Grouped) (hl : l.group < 16) (xs : List PLoop) (out : List Nat) :
    evictFor r' b l xs out = evictFor r b l xs out := by
  induction xs generalizing out with
  | nil =>
    unfold evictFor
    rw [fails_alike h (hb.without out) hl]
  | cons x xs ih =>
    unfold evictFor
    rw [fails_alike h (hb.without out) hl, ih]

theorem trimEvictions_alike (h : r.Alike r') (hb : b.Grouped) (hl : l.group < 16) (out : List Nat) :
    trimEvictions r' b l out = trimEvictions r b l out := by
  unfold trimEvictions
  refine List.foldl_ext _ _ _ fun keep x _ => ?_
  dsimp only
  rw [fails_alike h (hb.without _) hl]

theorem chooseEvicting_alike (h : r.Alike r') (hb : ∀ b ∈ bs, b.Grouped) (hl : l.group < 16) (own : Nat → Nat) :
    chooseEvicting r' bs l own = chooseEvicting r bs l own := by
  unfold chooseEvicting
  refine congrArg bestOf (List.filterMap_congr fun b hm => ?_)
  have hg : Bin.Grouped { b with fb := b.fb - own b.e } := hb b hm
  dsimp only
  rw [evictFor_alike h hg hl]
  refine congrArg (Option.map · _) (funext fun out => ?_)
  rw [trimEvictions_alike h hg hl]

theorem fallbackOf_alike (h : r.Alike r') (own : Nat → Nat → Nat) {ls : List PLoop} (hls : ∀ l ∈ ls, l.group < 16)
    (hb : ∀ b ∈ bs, b.Grouped) (plan : List (Nat × Nat)) : fallbackOf r' own ls bs plan = fallbackOf r own ls bs plan := by
  induction ls generalizing bs plan with
  | nil => rfl
  | cons l ls ih =>
    have hl := hls l List.mem_cons_self
    unfold fallbackOf
    rw [chooseEvicting_alike h hb hl]
    split
    · rfl
    · refine ih (fun m hm => hls m (List.mem_cons_of_mem l hm)) (fun b hm => ?_) _
      obtain ⟨c, hc, rfl⟩ := List.mem_map.1 hm
      split
      · exact ((hb c hc).without _).takes hl
      · exact hb c hc

theorem mem_of_mem_insertBy {α : Type} {before : α → α → Bool} {x y : α} {xs : List α} (h : y ∈ insertBy before x xs) :
    y = x ∨ y ∈ xs := by
  induction xs with
  | nil => exact .inl (List.mem_singleton.1 h)
  | cons z zs ih =>
    unfold insertBy at h
    split at h
    · exact List.mem_cons.1 h
    · rcases List.mem_cons.1 h with rfl | h
      · exact .inr List.mem_cons_self
      · exact (ih h).imp_right (List.mem_cons_of_mem z)

theorem mem_of_mem_sortBy {α : Type} {before : α → α → Bool} {y : α} {xs : List α} (h : y ∈ sortBy before xs) : y ∈ xs := by
  induction xs with
  | nil => exact h
  | cons x xs ih => exact List.mem_cons.2 ((mem_of_mem_insertBy h).imp_right ih)

theorem reserveHolds_alike (h : r.Alike r') (hb : ∀ b ∈ bs, b.Grouped) (own : Nat → Nat → Nat) :
    reserveHolds r' bs own = reserveHolds r bs own := by
  have hplans : fallbackPlans r' bs own = fallbackPlans r bs own := by
    refine List.foldl_ext _ _ _ fun acc b hm => ?_
    cases acc with
    | none => rfl
    | some plan =>
      dsimp only
      rw [fallbackOf_alike h own (fun l hl => hb b hm l (List.mem_of_mem_filter (mem_of_mem_sortBy hl)))
        fun c hc => hb c (List.mem_of_mem_filter hc)]
  unfold reserveHolds
  rw [hplans]

theorem ploop_group (s : State) (l : Nat) (d : List Word) : (s.ploop l d).group < 16 := bitsAt_lt _ _ _

theorem bins_grouped (s : State) : ∀ b ∈ s.bins, b.Grouped := fun b hm => by
  obtain ⟨e, -, rfl⟩ := List.mem_map.1 hm
  intro m hm
  obtain ⟨l, -, rfl⟩ := List.mem_map.1 hm
  exact ploop_group s l _

/-- The words that report the load of an engine (R523). -/
def loadKey (k : Nat) : Prop := ∃ e < 16, k = regKey (pgLE e) 0x104

theorem bins_engine (s : State) {b : Bin} (h : b ∈ s.bins) : b.e < 16 := by
  obtain ⟨e, he, rfl⟩ := List.mem_map.1 h
  exact List.mem_range.1 (List.mem_of_mem_filter he)

theorem Spares.showLoads (s : State) : Spares loadKey s s.showLoads :=
  Spares.start.each fun _ b hm g => g.setWord ⟨b.e, bins_engine s hm, rfl⟩ _

/-- Two states that placement sees alike: they differ in the reported loads only, as far as it looks. -/
structure SeenAlike (s t : State) : Prop where
  words : ∀ k, ¬ loadKey k → tabGet regReset t.regs k = tabGet regReset s.regs k
  loops : t.loops = s.loops
  polders : t.polders = s.polders
  stages : t.stages = s.stages
  mem : t.mem = s.mem

theorem seenAlike_showLoads (s : State) : SeenAlike s s.showLoads := by
  have h : Touches [.regs, .pushes] s s.showLoads := (Kept.start.showLoads (List.Subset.refl _)).same
  exact ⟨(Spares.showLoads s).words, h .loops (by decide), h .polders (by decide), h .stages (by decide), h .mem (by decide)⟩

section
variable (h : SeenAlike s t)
include h

theorem SeenAlike.word_above {p : Nat} (hp : 32 ≤ p) (o : Nat) : t.word p o = s.word p o := h.words _ fun ⟨e, he, hk⟩ => by
  unfold regKey pgLE at hk
  omega

theorem SeenAlike.word_below {p o : Nat} (hp : p < 16) (ho : o < 0x2000000) : t.word p o = s.word p o :=
  h.words _ fun ⟨e, _, hk⟩ => by
    unfold regKey pgLE at hk
    omega

theorem SeenAlike.rate {e : Nat} : t.rd (pgLE e) Reg.LE.RATE_MOPS = s.rd (pgLE e) Reg.LE.RATE_MOPS :=
  rd_of_word (h.words _ fun ⟨e, _, hk⟩ => by
    unfold regKey pgLE at hk
    simp only [Reg.LE.RATE_MOPS] at hk
    omega)

theorem SeenAlike.loop : t.loop = s.loop := funext (loop_congr h.loops)

theorem SeenAlike.inService : t.inService = s.inService := funext fun p => by
  unfold State.inService State.polderSt
  rw [polder_congr h.polders]

theorem SeenAlike.imgHdr : t.imgHdr = s.imgHdr := funext fun k => funext fun j => by
  unfold State.imgHdr State.slotBase State.activeBank
  rw [mword_congr h.mem, rd_of_word (h.word_below (by decide) (by decide))]

theorem SeenAlike.fbBytes : t.fbBytes = s.fbBytes := funext fun l => by
  unfold State.fbBytes State.imgInit
  rw [h.loop, h.imgHdr]

theorem SeenAlike.seqWord : t.seqWord = s.seqWord := funext fun q => funext fun o => h.word_above (by
  show 32 ≤ 96 + q.conv
  omega) _

theorem SeenAlike.setEvents : t.setEvents = s.setEvents := funext fun as => by
  unfold State.setEvents State.seqOn State.seqEventOf State.seqSrc State.seqStage State.seqEvent State.seqUs State.seqEntries
  rw [h.seqWord]

theorem SeenAlike.eventPeriod : t.eventPeriod = s.eventPeriod := funext fun st => by
  unfold State.eventPeriod State.periodReg
  rw [rd_of_word (h.word_above (by show 32 ≤ 80 + st; omega) _)]

theorem SeenAlike.sampleOffset : t.sampleOffset = s.sampleOffset := funext fun st => funext fun ev => by
  unfold State.sampleOffset
  rw [h.eventPeriod, rd_of_word (h.word_above (by show 32 ≤ 80 + st; omega) _)]

theorem SeenAlike.stage : t.stage = s.stage := funext fun st => by
  unfold State.stage
  rw [h.stages]

theorem SeenAlike.loopInterval : t.loopInterval = s.loopInterval := funext fun d => funext fun n => by
  unfold State.loopInterval
  rw [h.setEvents, h.eventPeriod]

theorem SeenAlike.loopInstants : t.loopInstants = s.loopInstants := funext fun d => funext fun n => by
  unfold State.loopInstants
  rw [h.setEvents, h.eventPeriod, h.sampleOffset, h.stage]

theorem SeenAlike.ploop : t.ploop = s.ploop := funext fun l => funext fun d => by
  unfold State.ploop State.imgWords State.imgInit State.imgState State.imgIns State.imgOuts
  rw [h.imgHdr, h.loopInterval, h.loopInstants, h.loop]

theorem SeenAlike.bins : t.bins = s.bins := by
  unfold State.bins State.fallbacksOn
  rw [h.inService, h.fbBytes, h.ploop, h.loop]
  exact List.map_congr_left fun e _ => by rw [h.rate]

theorem SeenAlike.ownFb : t.ownFb = s.ownFb := funext fun l => funext fun e => by
  unfold State.ownFb
  rw [h.loop, h.fbBytes]

theorem SeenAlike.rules : s.rules.Alike t.rules :=
  ⟨rd_of_word (h.word_below (by decide) (by decide)), fun a b ha _ =>
    congrArg (fun w => bitsAt w b 1 == 1) (h.word_below (by decide) (by unfold winBase; omega))⟩

/-- The reserve is judged by what placement sees (R125). -/
theorem SeenAlike.reserveHolds : reserveHolds t.rules t.bins t.ownFb = reserveHolds s.rules s.bins s.ownFb := by
  rw [h.bins, h.ownFb]
  exact reserveHolds_alike h.rules (bins_grouped s) _

end

/-- The reserve judged: its bit, the loops, and the report where it holds no longer (R125, R130). -/
theorem judgeReserve_effect (s : State) (hc : s.coll.stopped = false) :
    s.judgeReserve.rdB pgTRL Reg.TRL.STAT_RESERVE_OK = reserveHolds s.rules s.bins s.ownFb ∧ s.judgeReserve.loops = s.loops ∧
      (s.rdB pgTRL Reg.TRL.STAT_RESERVE_OK = true → reserveHolds s.rules s.bins s.ownFb = false →
        Reported s.judgeReserve .u 0x2B pgTRL) := by
  unfold State.judgeReserve
  extract_lets bins ok u was v
  have hwas : was = s.rdB pgTRL Reg.TRL.STAT_RESERVE_OK := by
    show (u.rd _ _ == 1) = _
    rw [show u.rd pgTRL Reg.TRL.STAT_RESERVE_OK = s.rd pgTRL Reg.TRL.STAT_RESERVE_OK from
      (rd_wr_off _ _ _ _ (by decide)).trans (rd_wr_off _ _ _ _ (by decide))]
    rfl
  have hv : v.rdB pgTRL Reg.TRL.STAT_RESERVE_OK = ok := rdB_wrB_self _ _ _ (by decide) rfl
  have hloops : v.loops = s.loops := by rw [wrB_loops, wr_loops, wr_loops]
  have hstop : v.coll.stopped = false := by rw [wrB_coll, wr_coll, wr_coll, hc]
  clear_value u v was
  split
  case isTrue => exact ⟨(rdB_congr (reportFab_regs _ _ _ _ _ _) _ _).trans hv, (reportFab_loops _ _ _ _ _ _).trans hloops,
    fun _ _ => reported_reportFab _ _ _ _ _ _ hstop⟩
  case isFalse hno => exact ⟨hv, hloops, fun h1 h2 => absurd ⟨hwas.trans h1, by rw [show ok = false from h2]; decide⟩ hno⟩

/-- A re-evaluation that moves no loop (R130). -/
theorem reevaluate_of_none (h : s.bins.flatMap s.shedding = []) : s.reevaluate = s.showLoads.judgeReserve := by
  unfold State.reevaluate
  rw [h]
  rfl

theorem reevaluate_effect (h : s.bins.flatMap s.shedding = []) (hc : s.coll.stopped = false) :
    s.reevaluate.rdB pgTRL Reg.TRL.STAT_RESERVE_OK = reserveHolds s.rules s.bins s.ownFb ∧ s.reevaluate.loops = s.loops ∧
      (s.rdB pgTRL Reg.TRL.STAT_RESERVE_OK = true → reserveHolds s.rules s.bins s.ownFb = false →
        Reported s.reevaluate .u 0x2B pgTRL) := by
  have hseen := seenAlike_showLoads s
  obtain ⟨hbit, hloops, hreport⟩ := judgeReserve_effect s.showLoads ((Spares.showLoads s).stopped.trans hc)
  rw [hseen.reserveHolds] at hbit hreport
  rw [show s.showLoads.rdB pgTRL Reg.TRL.STAT_RESERVE_OK = s.rdB pgTRL Reg.TRL.STAT_RESERVE_OK from
    congrArg (· == 1) (rd_of_word (hseen.word_below (by decide) (by decide)))] at hreport
  rw [reevaluate_of_none h]
  exact ⟨hbit, hloops.trans hseen.loops, hreport⟩

end Sys2Proof.Machine
end

section
/-! PROOF. Placement, loads, state copies and fault moves (O19). -/

namespace Sys2Proof.Machine

variable {s t : State} {l e d f k : Nat} {m : LoopMove} {rest : List PlaceEvent}

/-- The state with another queue of placement events (R129). -/
def State.withEvents (s : State) (es : List PlaceEvent) : State := { s with trl := { s.trl with events := es } }

/-- Placement does not look at the queue: it chooses the engine it would have chosen (R124, R127). -/
theorem engineFor_withEvents (s : State) (es : List PlaceEvent) (l : Nat) (d : List Word) (not : List Nat) :
    (s.withEvents es).engineFor l d not = s.engineFor l d not := by
  have h : SeenAlike s (s.withEvents es) := ⟨fun _ _ => rfl, rfl, rfl, rfl, rfl⟩
  unfold State.engineFor
  rw [h.bins, h.ploop]
  rfl

theorem waitingLoops_congr (h : t.loop = s.loop) : t.waitingLoops = s.waitingLoops := by
  unfold State.waitingLoops
  rw [h]

theorem tryResume_of_engine (h : s.engineFor l ((s.loop l).next.getD (s.loop l).desc) [] = some e) :
    s.tryResume l = s.placeOn l e ((s.loop l).next.getD (s.loop l).desc) true := by
  unfold State.tryResume
  dsimp only
  split
  case h_1 c hc => rw [Option.some.inj (hc.symm.trans h)]
  case h_2 hc => exact absurd (hc.symm.trans h) (by simp)

theorem placementEvent_of_cons {x : PlaceEvent} (h : s.trl.events = x :: rest) :
    s.placementEvent = ((s.withEvents rest).handleEvent x).afterEvent := by
  unfold State.placementEvent
  rw [h]
  rfl

theorem trellisEvent_of_cons {x : PlaceEvent} (hr : s.supRuns = true) (h : s.trl.events = x :: rest) :
    s.trellisEvent = ((s.withEvents rest).handleEvent x).afterEvent.recheckDrains := by
  rw [← placementEvent_of_cons h]
  exact if_pos hr

theorem events_of_head {x : PlaceEvent} (h : s.trl.events.head? = some x) : s.trl.events = x :: s.trl.events.tail := by
  cases he : s.trl.events with
  | nil => simp [he] at h
  | cons y ys =>
    rw [he] at h
    rw [Option.some.inj h]
    rfl

/-- A drain of an engine with one loop: the loop moves for as long as the drain goes on (R33, R36, R134). -/
theorem drainEvent_effect (hr : s.supRuns = true) (hhead : s.trl.events.head? = some (.drain e)) (he : e < 16)
    (hdrain : ∀ p, (s.polder p).st = .draining ↔ p = pdLE e) (hon : s.loopsOn e = [l]) (hst : (s.loop l).state = .running)
    (hm : (s.loop l).move = none) (hg : s.trl.graftLoops = []) (hd : s.engineFor l (s.loop l).desc [e] = some d) :
    s.trellisEvent.trl.events = s.trl.events.tail ∧ (s.trellisEvent.loop l).engine = e ∧
      ((s.trellisEvent.polder (pdLE e)).st = .draining → (s.trellisEvent.loop l).state = .moving ∧
        ((s.trellisEvent.loop l).move.map fun m => (m.dest, m.cause)) = some (d, 1)) := by
  have hengine : (s.loop l).engine = e := by
    have hl : l ∈ s.loopsOn e := by rw [hon]; exact List.mem_singleton_self l
    have := (List.mem_filter.1 hl).2
    simp only [Bool.and_eq_true, beq_iff_eq] at this
    exact this.2
  have hevent : (s.withEvents s.trl.events.tail).handleEvent (.drain e) = (s.withEvents s.trl.events.tail).startMove l d 1 :=
    (if_pos ((hdrain e).2 rfl)).trans (moveAway_single hon ((engineFor_withEvents _ _ _ _ _).trans hd))
  have hmove := startMove_starts (s := s.withEvents s.trl.events.tail) hst hm hg d 1
  rw [trellisEvent_of_cons hr (events_of_head hhead), hevent]
  generalize (s.withEvents s.trl.events.tail).startMove l d 1 = u at hmove ⊢
  have hafter := afterEvent_loops u l
  have hpolders : DrainsAsWere s u.afterEvent :=
    (drainsAsWere_of_polders (hmove.parts .polders (by decide))).trans (afterEvent_drains u)
  obtain ⟨htrl, hengines, hsame⟩ := recheckDrains_engine he fun q => (hpolders q).trans (hdrain q)
  refine ⟨?_, ?_, fun hd => ?_⟩
  · rw [htrl, show u.afterEvent.trl = u.trl from afterEvent_touches u .trl (by decide),
      show u.trl = _ from hmove.parts .trl (by decide)]
    rfl
  · rw [hengines, hafter, hmove.engine]
    exact hengine
  · rw [hsame hd, hafter]
    exact ⟨hmove.state, hmove.move⟩

theorem waitingLoops_withEvents (s : State) (es : List PlaceEvent) : (s.withEvents es).waitingLoops = s.waitingLoops :=
  waitingLoops_congr rfl

/-- A refill places the one loop that waits again (R151). -/
theorem refill_places {es : List PlaceEvent} (hw : s.waitingLoops = [l])
    (he : s.engineFor l ((s.loop l).next.getD (s.loop l).desc) [] = some e) : (s.withEvents es).handleEvent (.refill k) =
      (s.withEvents es).placeOn l e ((s.loop l).next.getD (s.loop l).desc) true := by
  have he' := (engineFor_withEvents s es l ((s.loop l).next.getD (s.loop l).desc) []).trans he
  show (s.withEvents es).resumeLoops = _
  unfold State.resumeLoops
  rw [waitingLoops_withEvents, hw, each_singleton]
  exact tryResume_of_engine he'

/-- A loop that has been placed again, once the plans and the registers have followed (R131, R151). -/
theorem PlacedAgain.followed {ws : List Word} (h : PlacedAgain s t l e ws) (hdrain : ∀ p, (s.polder p).st ≠ .draining) :
    t.afterEvent.recheckDrains.trl = s.trl ∧ (t.afterEvent.recheckDrains.loop l).state = .loading ∧
      (t.afterEvent.recheckDrains.loop l).engine = e ∧ (t.afterEvent.recheckDrains.loop l).desc = ws ∧
      (t.afterEvent.recheckDrains.loop l).next = none ∧
      ∀ j, j ≠ l → (t.afterEvent.recheckDrains.loop j).state = (s.loop j).state ∧
        (t.afterEvent.recheckDrains.loop j).engine = (s.loop j).engine := by
  have hafter := afterEvent_loops t
  rw [recheckDrains_of_none fun p hp => hdrain p ((h.drains p).1 ((afterEvent_drains t p).1 hp))]
  refine ⟨(afterEvent_touches t .trl (by decide)).trans (h.parts .trl (by decide)), ?_, ?_, ?_, ?_, fun j hj => ?_⟩
  · rw [hafter l]
    exact h.state
  · rw [hafter l]
    exact h.engine
  · rw [hafter l]
    exact h.desc
  · rw [hafter l]
    exact h.next
  · rw [hafter j, h.others j hj]
    exact ⟨rfl, rfl⟩

/-- A refill that one suspended or stranded loop waits for: it is placed again (R151). -/
theorem refillEvent_effect (hr : s.supRuns = true) (hhead : s.trl.events.head? = some (.refill k))
    (hdrain : ∀ p, (s.polder p).st ≠ .draining) (hw : s.waitingLoops = [l])
    (he : s.engineFor l ((s.loop l).next.getD (s.loop l).desc) [] = some e) :
    s.trellisEvent.trl.events = s.trl.events.tail ∧ (s.trellisEvent.loop l).state = .loading ∧
      (s.trellisEvent.loop l).engine = e ∧ (s.trellisEvent.loop l).desc = (s.loop l).next.getD (s.loop l).desc ∧
      (s.trellisEvent.loop l).next = none ∧
      ∀ j, j ≠ l → (s.trellisEvent.loop j).state = (s.loop j).state ∧ (s.trellisEvent.loop j).engine = (s.loop j).engine := by
  rw [trellisEvent_of_cons hr (events_of_head hhead), refill_places hw he]
  obtain ⟨htrl, hloops⟩ := (placeOn_again (s.withEvents s.trl.events.tail) l e _).followed hdrain
  exact ⟨congrArg Trellis.events htrl, hloops⟩

/-- A loaded image: the loop runs, and its image area holds the code of its slot (R134). -/
theorem imageLoaded_effect (hst : (s.loop l).state = .loading) : (s.loadComplete l 0).loop l = { s.loop l with state := .running } ∧
    (∀ j, j < 4 * (s.loop l).imgWords → (s.loadComplete l 0).byte (leBase (s.loop l).engine + (s.loop l).imgOff + j) =
      s.byte (s.imgCode (s.loop l).slot + j)) ∧
    OnlyBytes (leBase (s.loop l).engine + (s.loop l).imgOff) (4 * (s.loop l).imgWords) s (s.loadComplete l 0) := by
  have hload : s.loadComplete l 0 = ((s.copyMem (leBase (s.loop l).engine + (s.loop l).imgOff) (s.imgCode (s.loop l).slot)
      (4 * (s.loop l).imgWords)).setLoop l { s.loop l with state := .running }).showPlacement := if_pos hst
  rw [hload]
  generalize hu : (s.copyMem (leBase (s.loop l).engine + (s.loop l).imgOff) (s.imgCode (s.loop l).slot)
      (4 * (s.loop l).imgWords)).setLoop l { s.loop l with state := .running } = u
  have hshow : Touches [.regs, .pushes, .polders] u u.showPlacement := (Kept.start.showPlacement (List.Subset.refl _)).same
  have hmem := hshow .mem (by decide)
  rw [loop_followed hshow (by decide)]
  subst hu
  refine ⟨loop_setLoop_self _ _ _, fun j hj => (byte_congr hmem _).trans (byte_copyMem s _ _ hj), ?_⟩
  exact (onlyBytes_copyMem s _ _ _).followedBy hmem

/-- What a moving loop misses is noted in its record, and counted (R137, R282). -/
theorem missSamples_loop (s : State) (l d : Nat) : ∃ x, (s.missSamples l d).loop l = { s.loop l with missed := x } := by
  unfold State.missSamples
  extract_lets x known lost u
  have h : Touches [.regs, .pushes, .coll] u
      (u.each lost fun s a => s.countFirst (pgSA (a / 16)) Reg.SA.SKIP_CNT_COUNT 0x60) :=
    (Kept.start.each fun _ _ h => h.countFirst (List.Subset.refl _) _ _ _ _).same
  exact ⟨_, (loop_followed h (by decide) l).trans (loop_setLoop_self _ _ _)⟩

theorem copyStart_eq (hm : (s.loop l).move = some m) (hl : m.loaded = true) (hc : m.copying = false)
    (hp : s.inProgress l = false) : s.copyStart l =
      if s.copyMayStart l (copyTicks (s.loop l).stSize) m.ends then
        ((s.missSamples l m.dest).setLoop l { (s.missSamples l m.dest).loop l with
          move := some { m with copying := true } }).showEngine (s.loop l).engine
      else s.setLoop l { s.loop l with move := some { m with ends := m.ends + 1 } } := by
  unfold State.copyStart
  dsimp only
  rw [hm]
  exact if_neg (by simp [hl, hc, hp])

/-- A state copy that starts: the loop is copied from where it stays (R134, R135). -/
theorem copyStart_starts (hm : (s.loop l).move = some m) (hl : m.loaded = true) (hc : m.copying = false)
    (hp : s.inProgress l = false) (hmay : s.copyMayStart l (copyTicks (s.loop l).stSize) m.ends = true) :
    ((s.copyStart l).loop l).move = some { m with copying := true } ∧ ((s.copyStart l).loop l).engine = (s.loop l).engine ∧
      ((s.copyStart l).loop l).state = (s.loop l).state ∧ (s.copyStart l).mem = s.mem := by
  have hmem : (s.copyStart l).mem = s.mem :=
    (Kept.start.copyStart (L := [.regs, .pushes, .coll, .loops]) (List.Subset.refl _) l).same .mem (by decide)
  obtain ⟨x, hx⟩ := missSamples_loop s l m.dest
  have hloop : (s.copyStart l).loop l = { s.loop l with missed := x, move := some { m with copying := true } } := by
    rw [copyStart_eq hm hl hc hp, if_pos hmay, hx]
    refine (loop_followed (Kept.start.showEngine (L := [.regs, .pushes]) (List.Subset.refl _) _).same (by decide) l).trans ?_
    exact loop_setLoop_self _ _ _
  rw [hloop]
  exact ⟨rfl, rfl, rfl, hmem⟩

/-- The code of an image slot lies below the local memories (R145, R334). -/
theorem imgCode_below (s : State) {k j : Nat} (hk : k < 64) (hj : j < 0x4000) : s.imgCode k + j < leBase 0 := by
  have hb : s.activeBank < 2 := bitsAt_lt _ 0 1
  unfold State.imgCode State.slotBase
  generalize s.activeBank = b at *
  simp only [leBase, mramBase]
  omega

theorem applyHeld_of_none (h : (s.loop l).held = []) : s.applyHeld l = s.setLoop l { s.loop l with held := [] } := by
  unfold State.applyHeld
  dsimp only
  rw [h]
  rfl

/-- The record of a loop that has moved: its destination has it, running, where the copy went (R134). -/
def LoopRec.moved (x : LoopRec) (m : LoopMove) : LoopRec :=
  { x with
    engine := m.dest, imgOff := m.imgOff, stOff := m.stOff, move := none, state := .running, consec := 0, overrun := false
    moveCause := m.cause, mispl := false
    fallback := if x.fallback = some m.dest then none else x.fallback
    fbLoaded := if x.fallback = some m.dest then false else x.fbLoaded }

/-- The memory once a loop's state and the code of its slot have been copied to its destination (R134). -/
def State.copiedTo (s : State) (x : LoopRec) (m : LoopMove) : State :=
  (s.copyMem (leBase m.dest + m.stOff) (leBase x.engine + x.stOff) x.stSize).copyMem (leBase m.dest + m.imgOff)
    (s.imgCode x.slot) (4 * x.imgWords)

theorem copyComplete_eq (hm : (s.loop l).move = some m) (hc : m.copying = true) (hbad : s.chk.bad = []) :
    s.copyComplete l = (((((s.copiedTo (s.loop l) m).setLoop l ((s.loop l).moved m)).applyHeld l).countMove l).replanFallbacks) := by
  unfold State.copyComplete
  dsimp only
  rw [hm]
  dsimp only
  rw [if_neg (by simp [hc]), hbad]
  rfl

/-- The two copies of a move do not meet: the state and the code read back as they were (R134). -/
theorem copiedTo_bytes (s : State) {x : LoopRec} (hslot : x.slot < 64) (hwords : x.imgWords ≤ 4096)
    (hapart : m.stOff + x.stSize ≤ m.imgOff ∨ m.imgOff + 4 * x.imgWords ≤ m.stOff) :
    (∀ j, j < x.stSize → (s.copiedTo x m).byte (leBase m.dest + m.stOff + j) = s.byte (leBase x.engine + x.stOff + j)) ∧
      ∀ j, j < 4 * x.imgWords → (s.copiedTo x m).byte (leBase m.dest + m.imgOff + j) = s.byte (s.imgCode x.slot + j) := by
  refine ⟨fun j hj => ?_, fun j hj => ?_⟩
  · have hother : OnlyBytes (leBase m.dest + m.imgOff) (4 * x.imgWords) _ (s.copiedTo x m) := onlyBytes_copyMem _ _ _ _
    rw [hother _ (by omega)]
    exact byte_copyMem s _ _ hj
  · have hfirst := onlyBytes_copyMem s (leBase m.dest + m.stOff) (leBase x.engine + x.stOff) x.stSize
    have hbelow := imgCode_below s (j := j) hslot (by omega)
    refine (byte_copyMem _ _ _ hj).trans (hfirst _ (.inl ?_))
    simp only [leBase] at hbelow ⊢
    omega

/-- A state copy that ends: the loop runs at its destination, on its state and its code there (R134, R136). -/
theorem copyComplete_effect (hm : (s.loop l).move = some m) (hc : m.copying = true) (hbad : s.chk.bad = [])
    (hheld : (s.loop l).held = []) :
    (s.copyComplete l).mem = (s.copiedTo (s.loop l) m).mem ∧ ((s.copyComplete l).loop l).engine = m.dest ∧
      ((s.copyComplete l).loop l).state = .running ∧ ((s.copyComplete l).loop l).move = none ∧
      ((s.copyComplete l).loop l).stOff = m.stOff ∧ ((s.copyComplete l).loop l).imgOff = m.imgOff ∧
      ((s.copyComplete l).loop l).moveCause = m.cause := by
  rw [copyComplete_eq hm hc hbad]
  generalize s.copiedTo (s.loop l) m = u
  have hu : (u.setLoop l ((s.loop l).moved m)).loop l = (s.loop l).moved m := loop_setLoop_self _ _ _
  have hheld' : ((u.setLoop l ((s.loop l).moved m)).loop l).held = [] := by rw [hu]; exact hheld
  rw [applyHeld_of_none hheld', hu]
  generalize hv : (u.setLoop l ((s.loop l).moved m)).setLoop l { (s.loop l).moved m with held := [] } = v
  have hvl : v.loop l = { (s.loop l).moved m with held := [] } := by
    rw [← hv]
    exact loop_setLoop_self _ _ _
  have hvm : v.mem = u.mem := by
    rw [← hv]
    rfl
  obtain ⟨n, hn⟩ := countMove_loop v l
  rw [replanFallbacks_loops (v.countMove l) l, hn, hvl]
  exact ⟨(replanFallbacks_touches _ .mem (by decide)).trans ((countMove_touches v l .mem (by decide)).trans hvm),
    rfl, rfl, rfl, rfl, rfl, rfl⟩

end Sys2Proof.Machine
end

section
/-! PROOF. Fault moves, and the statement on placement and moves (O19). -/

namespace Sys2Proof.Machine

variable {s t u : State} {l e f : Nat}

theorem abandonMove_ne (s : State) {l k : Nat} (h : k ≠ l) : (s.abandonMove l).loop k = s.loop k := by
  unfold State.abandonMove
  dsimp only
  split
  · exact loop_setLoop_ne _ _ h
  · rfl

/-- Loops on other engines whose moves are abandoned: every loop stays where it is, and those on engine `e` as they were. -/
theorem each_abandonMove (s : State) {xs : List Nat} (hxs : ∀ x ∈ xs, (s.loop x).engine ≠ e) :
    (∀ k, ((s.each xs State.abandonMove).loop k).engine = (s.loop k).engine) ∧
      ∀ k, (s.loop k).engine = e → (s.each xs State.abandonMove).loop k = s.loop k := by
  induction xs generalizing s with
  | nil => exact ⟨fun _ => rfl, fun _ _ => rfl⟩
  | cons x xs ih =>
    have hx := hxs x List.mem_cons_self
    have hengine := abandonMove_engine s x
    obtain ⟨hall, hon⟩ := ih (s.abandonMove x) fun y hy => by rw [hengine]; exact hxs y (List.mem_cons_of_mem x hy)
    refine ⟨fun k => (hall k).trans (hengine k), fun k hk => (hon k ((hengine k).trans hk)).trans (abandonMove_ne s ?_)⟩
    rintro rfl
    exact hx hk

/-- The state once the runs on a failed engine are gone and the moves to it are abandoned (R73, R139). -/
def State.engineGone (s : State) (e : Nat) : State :=
  (s.clearEngine e).each (loopIds.filter fun l => ((s.clearEngine e).loop l).move.any (·.dest == e) &&
    ((s.clearEngine e).loop l).engine != e) State.abandonMove

theorem engineGone_touches (s : State) (e : Nat) : Touches [.engines, .loops] s (s.engineGone e) :=
  ((Kept.start.clearEngine (by decide) e).each fun _ _ h => h.abandonMove (by decide) _).same

theorem engineGone_eng (s : State) (e : Nat) : (s.engineGone e).eng e = { s.eng e with a := {}, bc := {}, waiting := [] } := by
  have h : Touches [.loops] (s.clearEngine e) (s.engineGone e) :=
    (Kept.start.each fun _ _ h => h.abandonMove (List.Subset.refl _) _).same
  exact (eng_congr (h .engines (by decide)) e).trans (eng_setEng_self _ _ _)

/-- The loops of a failed engine are as they were, and no other loop is on it. -/
theorem engineGone_loops (s : State) (e : Nat) : (s.engineGone e).loopsOn e = s.loopsOn e ∧
    ∀ k, (s.loop k).engine = e → (s.engineGone e).loop k = s.loop k := by
  obtain ⟨hall, hon⟩ := each_abandonMove (s.clearEngine e) (e := e) (xs := loopIds.filter fun l =>
    ((s.clearEngine e).loop l).move.any (·.dest == e) && ((s.clearEngine e).loop l).engine != e) fun x hx => by
      have := (List.mem_filter.1 hx).2
      simp only [Bool.and_eq_true, bne_iff_ne] at this
      exact this.2
  have hall' : ∀ k, ((s.engineGone e).loop k).engine = (s.loop k).engine := hall
  have hon' : ∀ k, (s.loop k).engine = e → (s.engineGone e).loop k = s.loop k := hon
  refine ⟨List.filter_congr fun k _ => ?_, hon'⟩
  by_cases hk : (s.loop k).engine = e
  · rw [hon' k hk]
  · rw [hall' k, beq_false_of_ne hk, Bool.and_false, Bool.and_false]

/-- A lost loop waits, suspended, for its move; a fallback image on the failed engine is lost (R138). -/
def LoopRec.lost (x : LoopRec) (e : Nat) : LoopRec :=
  { x with state := .suspended, fallback := if x.fallback = some e then none else x.fallback }

/-- What becomes of the loops of an engine that is gone: those disabled are freed, the others are moved (R138). -/
def State.moveLost (s : State) (e : Nat) (lost : List Nat) : State :=
  let s := s.each (lost.filter fun l => (s.loop l).gone) State.freeLoop
  let s := s.each (lost.filter fun l => (s.loop l).placed) fun s l => s.setLoop l ((s.loop l).lost e)
  s.each (lost.filter fun l => (s.loop l).state == .suspended) State.faultMove

theorem engineFault_eq (s : State) (e : Nat) : s.engineFault e = (s.engineGone e).moveLost e (sortBy (fun a b => placedBefore
    ((s.engineGone e).ploop a ((s.engineGone e).loop a).desc) ((s.engineGone e).ploop b ((s.engineGone e).loop b).desc))
    ((s.engineGone e).loopsOn e)) := rfl

/-- One lost loop, which is still enabled, is moved (R138). -/
theorem moveLost_single (hplaced : (s.loop l).placed = true) (hgone : (s.loop l).gone = false) :
    s.moveLost e [l] = (s.setLoop l ((s.loop l).lost e)).faultMove l := by
  unfold State.moveLost
  extract_lets v w
  have hv : v = s := by
    unfold v
    rw [List.filter_singleton, hgone]
    rfl
  have hw : w = s.setLoop l ((s.loop l).lost e) := by
    unfold w
    rw [hv, List.filter_singleton, hplaced]
    rfl
  rw [hw, List.filter_singleton, loop_setLoop_self]
  rfl

/-- An engine that fails with one loop, which is still enabled: that loop is moved (R138). -/
theorem engineFault_single (hon : s.loopsOn e = [l]) (hgone : (s.loop l).gone = false) : s.engineFault e =
    ((s.engineGone e).setLoop l ((s.loop l).lost e)).faultMove l := by
  have hmem : l ∈ s.loopsOn e := by rw [hon]; exact List.mem_singleton_self l
  have hwhere := (List.mem_filter.1 hmem).2
  simp only [Bool.and_eq_true, beq_iff_eq] at hwhere
  obtain ⟨hplaced, hengine⟩ := hwhere
  obtain ⟨honly, hsame⟩ := engineGone_loops s e
  have hloop := hsame l hengine
  rw [engineFault_eq, honly, hon, sortBy_singleton, ← hloop]
  exact moveLost_single (by rw [hloop]; exact hplaced) (by rw [hloop]; exact hgone)

/-- A loop that a fault has moved runs on its new engine (R138). -/
structure FaultMoved (s t : State) (l f : Nat) : Prop where
  engine : (t.loop l).engine = f
  state : (t.loop l).state = .running
  moveCause : (t.loop l).moveCause = 2
  move : (t.loop l).move = none
  drains : DrainsAsWere s t
  engines : t.engines = s.engines
  trl : t.trl = s.trl

/-- The state in which a place is looked for: the loop's move and held writes are gone, and a missing checkpoint is reported
(R132, R138). -/
def State.faultMarked (s : State) (l : Nat) : State :=
  let x := s.loop l
  let s := if descCkpt x.desc ≠ 0 ∧ s.newestCkpt l = none then s.reportLoop .u 0x33 pgTRL l else s
  s.setLoop l { x with moveCause := 2, move := none, held := [] }

/-- A loop placed where its fallback image is: the code is copied and the loop runs (R138). -/
def State.runFallback (s : State) (l f : Nat) : State :=
  let y := s.loop l
  ((s.copyMem (leBase f + y.imgOff) (s.imgCode y.slot) (4 * y.imgWords)).setLoop l { y with state := .running }).countMove l

theorem runFallback_effect (s : State) (l f : Nat) : Touches [.mem, .chk, .loops, .regs, .pushes, .coll] s (s.runFallback l f) ∧
    ∃ n, (s.runFallback l f).loop l = { s.loop l with state := .running, moves := n } := by
  unfold State.runFallback
  extract_lets y
  have hparts : Touches [.mem, .chk, .loops] s
      ((s.copyMem (leBase f + y.imgOff) (s.imgCode y.slot) (4 * y.imgWords)).setLoop l { y with state := .running }) :=
    ((Kept.start.copyMem (by decide) _ _ _).setLoop (by decide) _ _).same
  have hql := loop_setLoop_self (s.copyMem (leBase f + y.imgOff) (s.imgCode y.slot) (4 * y.imgWords)) l
    { y with state := .running }
  generalize (s.copyMem (leBase f + y.imgOff) (s.imgCode y.slot) (4 * y.imgWords)).setLoop l { y with state := .running } = q
    at hparts hql ⊢
  obtain ⟨n, hn⟩ := countMove_loop q l
  rw [hql] at hn
  exact ⟨(hparts.mono (by decide)).trans ((countMove_touches q l).mono (by decide)), n, hn⟩

theorem faultMarked_touches (s : State) (l : Nat) : Touches [.coll, .loops] s (s.faultMarked l) := by
  unfold State.faultMarked
  exact ((Kept.start.ite fun h => h.reportLoop (by decide) _ _ _ _ _).setLoop (by decide) _ _).same

theorem faultMarked_loop (s : State) (l : Nat) : ((s.faultMarked l).loop l).moveCause = 2 := by
  unfold State.faultMarked
  dsimp only
  rw [loop_setLoop_self]

theorem faultMove_of_fallback (hg : s.trl.graftLoops = []) (hcls : descClass (s.loop l).desc = 0)
    (hf : (s.loop l).fallback = some f) (hload : (s.loop l).fbLoaded = true) (hserv : s.inService (pdLE f) = true) :
    s.faultMove l = ((s.faultMarked l).placeOn l f (s.loop l).desc true).runFallback l f := by
  have hready : (if descClass (s.loop l).desc = 0 then (s.loop l).fallback.filter fun f => (s.loop l).fbLoaded &&
      (s.faultMarked l).inService (pdLE f) else none) = some f := by
    have hserv' : (s.faultMarked l).inService (pdLE f) = true := by
      unfold State.inService State.polderSt
      rw [polder_congr (faultMarked_touches s l .polders (by decide))]
      exact hserv
    rw [if_pos hcls, hf, Option.filter_some, hload, hserv']
    rfl
  unfold State.faultMove
  rw [graftMoved_of_none hg]
  extract_lets u x v w ready
  have hw : w = s.faultMarked l := rfl
  have hr : ready = (s.loop l).fallback.filter fun f => (s.loop l).fbLoaded && (s.faultMarked l).inService (pdLE f) := rfl
  clear_value w ready
  subst hw hr
  split
  case h_1 g hyes => rw [Option.some.inj (hready.symm.trans hyes)]; rfl
  case h_2 hno => exact absurd (hready.symm.trans hno) (by simp)

/-- Marked, placed on the engine of its fallback image, and run there (R138). -/
theorem FaultMoved.of_placed {w p : State} {d : List Word} {n : Nat} (hw : Touches [.coll, .loops] s w)
    (hwl : (w.loop l).moveCause = 2) (hp : PlacedAgain w p l f d)
    (ht : Touches [.mem, .chk, .loops, .regs, .pushes, .coll] p t)
    (hn : t.loop l = { p.loop l with state := .running, moves := n }) : FaultMoved s t l f := by
  obtain ⟨-, hengine, -, -, hmove, hcause, -, hdrains, hparts⟩ := hp
  refine ⟨?_, ?_, ?_, ?_, ((drainsAsWere_of_polders (hw .polders (by decide))).trans hdrains).trans
    (drainsAsWere_of_polders (ht .polders (by decide))), ?_, ?_⟩
  · rw [hn, ← hengine]
  · rw [hn]
  · rw [hn, ← hwl, ← hcause]
  · rw [hn, ← hmove]
  · exact (ht .engines (by decide)).trans ((hparts .engines (by decide)).trans (hw .engines (by decide)))
  · exact (ht .trl (by decide)).trans ((hparts .trl (by decide)).trans (hw .trl (by decide)))

/-- A class A loop whose fallback image is loaded on an engine in service moves there (R138). -/
theorem faultMove_to_fallback (hg : s.trl.graftLoops = []) (hcls : descClass (s.loop l).desc = 0)
    (hf : (s.loop l).fallback = some f) (hload : (s.loop l).fbLoaded = true) (hserv : s.inService (pdLE f) = true) :
    FaultMoved s (s.faultMove l) l f := by
  rw [faultMove_of_fallback hg hcls hf hload hserv]
  obtain ⟨hrun, n, hn⟩ := runFallback_effect ((s.faultMarked l).placeOn l f (s.loop l).desc true) l f
  exact .of_placed (faultMarked_touches s l) (faultMarked_loop s l) (placeOn_again _ l f _) hrun hn

/-- An engine that fails with one class A loop whose fallback image is loaded elsewhere: the loop runs there, and the runs on the
failed engine are gone (R73, R138). -/
theorem engineFault_effect (hon : s.loopsOn e = [l]) (hgone : (s.loop l).gone = false) (hcls : descClass (s.loop l).desc = 0)
    (hf : (s.loop l).fallback = some f) (hne : f ≠ e) (hload : (s.loop l).fbLoaded = true)
    (hserv : s.inService (pdLE f) = true) (hg : s.trl.graftLoops = []) :
    FaultMoved (s.engineGone e) (s.engineFault e) l f := by
  have hparts := engineGone_touches s e
  rw [engineFault_single hon hgone]
  generalize hu : (s.engineGone e).setLoop l ((s.loop l).lost e) = u
  have hul : u.loop l = (s.loop l).lost e := by
    rw [← hu]
    exact loop_setLoop_self _ _ _
  have hset : Touches [.loops] (s.engineGone e) u := by
    rw [← hu]
    exact touches_setLoop _ _ _
  have htrl : u.trl = s.trl := (hset .trl (by decide)).trans (hparts .trl (by decide))
  have hpolders : u.polders = s.polders := (hset .polders (by decide)).trans (hparts .polders (by decide))
  have hserv' : u.inService (pdLE f) = true := by
    unfold State.inService State.polderSt
    rw [polder_congr hpolders]
    exact hserv
  have hfb : ((s.loop l).lost e).fallback = some f := by
    unfold LoopRec.lost
    rw [if_neg (by rw [hf]; exact fun h => hne (Option.some.inj h))]
    exact hf
  have h := faultMove_to_fallback (s := u) (by rw [htrl]; exact hg) (by rw [hul]; exact hcls) (by rw [hul]; exact hfb)
    (by rw [hul]; exact hload) hserv'
  exact ⟨h.engine, h.state, h.moveCause, h.move, (drainsAsWere_of_polders (hset .polders (by decide))).trans h.drains,
    h.engines.trans (hset .engines (by decide)), h.trl.trans (hset .trl (by decide))⟩

theorem trellisFault_of_queued (hr : s.supRuns = true) (hq : PlaceEvent.engineFault e ∈ s.trl.events) : s.trellisFault e =
    ((s.withEvents (s.trl.events.erase (.engineFault e))).engineFault e).afterEvent.recheckDrains := by
  unfold State.trellisFault
  rw [if_pos hr]
  unfold State.faultMoves
  rw [if_pos (List.contains_iff_mem.2 hq)]
  rfl

/-- The fault of an engine with one class A loop, once Trellis has handled it (R73, R131, R138). -/
theorem trellisFault_effect (hr : s.supRuns = true) (hq : PlaceEvent.engineFault e ∈ s.trl.events)
    (hdrain : ∀ p, (s.polder p).st ≠ .draining) (hon : s.loopsOn e = [l]) (hgone : (s.loop l).gone = false)
    (hcls : descClass (s.loop l).desc = 0) (hf : (s.loop l).fallback = some f) (hne : f ≠ e)
    (hload : (s.loop l).fbLoaded = true) (hserv : s.inService (pdLE f) = true) (hg : s.trl.graftLoops = []) :
    ((s.trellisFault e).loop l).engine = f ∧ ((s.trellisFault e).loop l).state = .running ∧
      ((s.trellisFault e).loop l).moveCause = 2 ∧ ((s.trellisFault e).loop l).move = none ∧
      (s.trellisFault e).trl.events = s.trl.events.erase (.engineFault e) ∧ ((s.trellisFault e).eng e).a = {} ∧
      ((s.trellisFault e).eng e).bc = {} ∧ ((s.trellisFault e).eng e).waiting = [] := by
  rw [trellisFault_of_queued hr hq]
  generalize hw : s.withEvents (s.trl.events.erase (.engineFault e)) = w
  have hwl : w.loop = s.loop := by rw [← hw]; rfl
  have hwon : w.loopsOn e = [l] := by rw [← hw]; exact hon
  have hwserv : w.inService (pdLE f) = true := by rw [← hw]; exact hserv
  have hwg : w.trl.graftLoops = [] := by rw [← hw]; exact hg
  have hwev : w.trl.events = s.trl.events.erase (.engineFault e) := by rw [← hw]; rfl
  have hwp : w.polders = s.polders := by rw [← hw]; rfl
  have hgoneparts := engineGone_touches w e
  have heng := engineGone_eng w e
  have h := engineFault_effect hwon (by rw [hwl]; exact hgone) (by rw [hwl]; exact hcls) (by rw [hwl]; exact hf) hne
    (by rw [hwl]; exact hload) hwserv hwg
  have hpolders : (w.engineGone e).polders = s.polders := (hgoneparts .polders (by decide)).trans hwp
  have htrl : (w.engineGone e).trl = w.trl := hgoneparts .trl (by decide)
  generalize w.engineGone e = g at h heng hpolders htrl
  generalize w.engineFault e = t at h ⊢
  have hafter := afterEvent_loops t l
  have hparts := afterEvent_touches t
  rw [recheckDrains_of_none fun p hp => hdrain p (by
    rw [← polder_congr hpolders]
    exact (h.drains p).1 ((afterEvent_drains t p).1 hp))]
  have heng' : t.afterEvent.eng e = { w.eng e with a := {}, bc := {}, waiting := [] } :=
    (eng_congr ((hparts .engines (by decide)).trans h.engines) e).trans heng
  refine ⟨?_, ?_, ?_, ?_, ?_, by rw [heng'], by rw [heng'], by rw [heng']⟩
  · rw [hafter]
    exact h.engine
  · rw [hafter]
    exact h.state
  · rw [hafter]
    exact h.moveCause
  · rw [hafter]
    exact h.move
  · rw [show t.afterEvent.trl = t.trl from hparts .trl (by decide), h.trl, htrl, hwev]

/-- Settles O19, by what each event and each end of a load or a copy does to the loop concerned. -/
theorem placementAndMoves : Obligations.PlacementAndMoves := by
  refine ⟨fun s e l hr hhead he hdrain hon hst hm hg d hd => ⟨_, rfl, drainEvent_effect hr hhead he hdrain hon hst hm hg hd⟩,
    fun s l k hr hhead hdrain hw e he => ⟨_, rfl, ?_⟩,
    fun s hr hshed hc => ⟨_, congrArg Host.Outcome.next (if_pos hr), reevaluate_effect hshed hc⟩,
    fun s l hr _ hst => ⟨_, congrArg Host.Outcome.next (if_pos hr), imageLoaded_effect hst⟩,
    fun s l m hm hr hl hc hp hmay => ⟨_, congrArg Host.Outcome.next (if_pos hr), copyStart_starts hm hl hc hp hmay⟩,
    fun s l m hm hr hl hc hp hmay => ⟨_, congrArg Host.Outcome.next (if_pos hr), ?_⟩,
    fun s l m hm _ hc hbad hheld hslot hwords hapart => ⟨_, rfl, ?_⟩,
    fun s e l hr hq hdrain hon hgone hcls f hf hne hload hserv hg =>
      ⟨_, rfl, trellisFault_effect hr hq hdrain hon hgone hcls hf hne hload hserv hg⟩⟩
  · obtain ⟨hevents, hstate, hengine, hdesc, hnext, hothers⟩ := refillEvent_effect hr hhead hdrain hw he
    exact ⟨hevents, hstate, hengine, hdesc, hnext, fun j _ hj => hothers j hj⟩
  · dsimp only
    rw [copyStart_eq hm hl hc hp, if_neg (by simp [hmay])]
    exact ⟨loop_setLoop_self _ _ _, touches_setLoop _ _ _, fun j hj => loop_setLoop_ne _ _ hj⟩
  · obtain ⟨hmem, hengine, hstate, hmove, hst, himg, hcause⟩ := copyComplete_effect hm hc hbad hheld
    obtain ⟨hstBytes, himgBytes⟩ := copiedTo_bytes s hslot hwords hapart
    exact ⟨hengine, hstate, hmove, hst, himg, hcause, fun j hj => (byte_congr hmem _).trans (hstBytes j hj),
      fun j hj => (byte_congr hmem _).trans (himgBytes j hj)⟩

end Sys2Proof.Machine
end

section
/-! PROOF. Graft sets (O22). -/

namespace Sys2Proof.Machine

variable {s t u : State} {l cause : Nat} {x : LoopRec} {g : LoopGraft}

/-- A loop of a cancelled set has no standby copy, and goes on if its swap was near (R149). -/
def State.dropGraft (s : State) (l : Nat) : State :=
  let x := s.loop l
  s.setLoop l { x with graft := none, state := if x.state = .grafting then .running else x.state }

/-- GRAFT_STAT of a cancelled set (R149). -/
def State.showCancelled (s : State) (cause l : Nat) : State :=
  (((s.wrB pgTRL Reg.TRL.STAT_GRAFT_PEND false).wr pgTRL Reg.TRL.GRAFT_STAT_STATE 5).wr pgTRL Reg.TRL.GRAFT_STAT_CAUSE cause).wr
    pgTRL Reg.TRL.GRAFT_STAT_LOOP l

theorem cancelGraft_eq (h : s.trl.graftLoops ≠ []) (cause l : Nat) : s.cancelGraft cause l =
    (((s.each s.trl.graftLoops State.dropGraft).setGraftLoops []).showCancelled cause l).reportLoop .u 0x32 pgTRL l := by
  unfold State.cancelGraft
  rw [if_neg (by rw [List.isEmpty_iff]; exact h)]
  rfl

theorem showCancelled_rd (s : State) (cause l : Nat) :
    (s.showCancelled cause l).rd pgTRL Reg.TRL.GRAFT_STAT_STATE = 5 ∧
      (s.showCancelled cause l).rd pgTRL Reg.TRL.GRAFT_STAT_CAUSE = cause % 16 ∧
      (s.showCancelled cause l).rd pgTRL Reg.TRL.GRAFT_STAT_LOOP = l % 64 ∧
      (s.showCancelled cause l).rdB pgTRL Reg.TRL.STAT_GRAFT_PEND = false := by
  unfold State.showCancelled
  refine ⟨?_, ?_, ?_, ?_⟩
  · rw [rd_wr_field _ Reg.TRL.GRAFT_STAT_LOOP Reg.TRL.GRAFT_STAT_STATE _ (by decide) rfl (by decide),
      rd_wr_field _ Reg.TRL.GRAFT_STAT_CAUSE Reg.TRL.GRAFT_STAT_STATE _ (by decide) rfl (by decide)]
    exact rd_wr_self _ _ _ (by decide)
  · rw [rd_wr_field _ Reg.TRL.GRAFT_STAT_LOOP Reg.TRL.GRAFT_STAT_CAUSE _ (by decide) rfl (by decide)]
    exact rd_wr_self _ _ _ (by decide)
  · exact rd_wr_self _ _ _ (by decide)
  · rw [rdB_wr_off _ _ _ (by decide), rdB_wr_off _ _ _ (by decide), rdB_wr_off _ _ _ (by decide)]
    exact rdB_wrB_self _ _ _ (by decide) rfl

theorem showCancelled_touches (s : State) (cause l : Nat) : Touches [.regs, .pushes] s (s.showCancelled cause l) := by
  unfold State.showCancelled
  exact ((((Kept.start.wrB (List.Subset.refl _) _ _ _).wr (List.Subset.refl _) _ _ _).wr (List.Subset.refl _) _ _ _).wr
    (List.Subset.refl _) _ _ _).same

theorem each_dropGraft_touches (s : State) (ls : List Nat) : Touches [.loops] s (s.each ls State.dropGraft) :=
  (Kept.start.each fun _ _ h => h.setLoop (List.Subset.refl _) _ _).same

theorem each_dropGraft_loop (s : State) (l : Nat) : (s.each [l] State.dropGraft).loop l =
    { s.loop l with graft := none, state := if (s.loop l).state = .grafting then .running else (s.loop l).state } := by
  rw [each_singleton]
  exact loop_setLoop_self _ _ _

/-- A set is cancelled: GRAFT_STAT and the report tell why and for which loop, and no memory is written (R149). -/
structure GraftCancelled (s t : State) (cause l : Nat) : Prop where
  state : t.rd pgTRL Reg.TRL.GRAFT_STAT_STATE = 5
  cause : t.rd pgTRL Reg.TRL.GRAFT_STAT_CAUSE = cause % 16
  loop : t.rd pgTRL Reg.TRL.GRAFT_STAT_LOOP = l % 64
  pending : t.rdB pgTRL Reg.TRL.STAT_GRAFT_PEND = false
  left : t.trl.graftLoops = []
  loops : t.loops = (s.each s.trl.graftLoops State.dropGraft).loops
  mem : t.mem = s.mem
  reported : Reported t .u 0x32 pgTRL

theorem cancelGraft_cancelled (h : s.trl.graftLoops ≠ []) (hs : s.coll.stopped = false) (cause l : Nat) :
    GraftCancelled s (s.cancelGraft cause l) cause l := by
  rw [cancelGraft_eq h]
  have hdrop := each_dropGraft_touches s s.trl.graftLoops
  generalize hu : s.each s.trl.graftLoops State.dropGraft = u at hdrop ⊢
  obtain ⟨hstate, hcause, hloop, hpending⟩ := showCancelled_rd (u.setGraftLoops []) cause l
  have hshow := showCancelled_touches (u.setGraftLoops []) cause l
  have hstopped : ((u.setGraftLoops []).showCancelled cause l).coll.stopped = false := by
    rw [show ((u.setGraftLoops []).showCancelled cause l).coll = u.coll from hshow .coll (by decide),
      show u.coll = s.coll from hdrop .coll (by decide)]
    exact hs
  generalize (u.setGraftLoops []).showCancelled cause l = v at hstate hcause hloop hpending hshow hstopped ⊢
  have hregs : (v.reportLoop .u 0x32 pgTRL l).regs = v.regs := reportFab_regs _ _ _ _ _ _
  have hreport : Touches [.coll] v (v.reportLoop .u 0x32 pgTRL l) :=
    (Kept.start.reportLoop (List.Subset.refl _) _ _ _ _ _).same
  exact ⟨(rd_congr hregs _ _).trans hstate, (rd_congr hregs _ _).trans hcause, (rd_congr hregs _ _).trans hloop,
    (rdB_congr hregs _ _).trans hpending,
    congrArg Trellis.graftLoops ((hreport .trl (by decide)).trans (hshow .trl (by decide))),
    (hreport .loops (by decide)).trans ((show v.loops = u.loops from hshow .loops (by decide)).trans
      (congrArg State.loops hu.symm)),
    (hreport .mem (by decide)).trans ((hshow .mem (by decide)).trans (hdrop .mem (by decide))),
    reported_reportLoop _ _ _ _ _ _ hstopped⟩

/-- A set of one loop that is cancelled: the loop keeps its image and descriptor (R149). -/
theorem GraftCancelled.single (h : GraftCancelled s t cause l) (hl : s.trl.graftLoops = [l]) :
    (t.loop l).graft = none ∧ (t.loop l).desc = (s.loop l).desc ∧ (t.loop l).slot = (s.loop l).slot := by
  have hloop := loop_congr h.loops l
  rw [hl, each_dropGraft_loop] at hloop
  rw [hloop]
  exact ⟨rfl, rfl, rfl⟩

/-- The loop's record once it has swapped (R147, R150); `words` is the length of its new code and `stOff` its new state area. -/
def LoopRec.swapped (x : LoopRec) (g : LoopGraft) (words stOff size : Nat) : LoopRec :=
  { x with
    desc := g.desc, next := none, slot := descImg g.desc, imgOff := g.imgOff, imgWords := words, stOff := stOff, stSize := size
    graft := none, state := if x.state = .grafting then .running else x.state
    delayValid := false, delayLast := 0, delayAvg := 0, budgetLogged := false, deadlineLogged := false, minselLogged := false
    costs := [], prevStamp := none, fbLoaded := false }

/-- A swap writes the loop's new record and memory, loads its guards and plans the fallbacks anew (R131, R147). -/
theorem swapLoop_eq (s : State) (l : Nat) (x : LoopRec) (g : LoopGraft) : ∃ (u : State) (words stOff : Nat),
    s.swapLoop l x g = ((u.setLoop l (x.swapped g words stOff (s.descState g.desc))).loadGuards l false).replanFallbacks ∧
      Touches [.mem, .chk] s u := by
  unfold State.swapLoop
  extract_lets k size e stOff old new v w z
  exact ⟨w, w.imgWords k, stOff, rfl,
    ((Kept.start.initState (List.Subset.refl _) _ _ _).carryWords (List.Subset.refl _) _ _ _ _).same⟩

/-- One loop has swapped: its record is the new one, but for the fallback image, and GRAFT_STAT is as it was (R147, R150). -/
structure GraftSwapped (s t : State) (l : Nat) (x : LoopRec) (g : LoopGraft) : Prop where
  loop : ∃ words stOff, (x.swapped g words stOff (s.descState g.desc)).SameBut (t.loop l)
  trl : t.trl = s.trl
  coll : t.coll = s.coll
  stat : t.word pgTRL 0x14C = s.word pgTRL 0x14C

theorem swapLoop_swapped (s : State) (l : Nat) (x : LoopRec) (g : LoopGraft) : GraftSwapped s (s.swapLoop l x g) l x g := by
  have hparts := (Kept.start (s := s)).swapLoop (List.Subset.refl _) l x g |>.same
  obtain ⟨u, words, stOff, heq, hmem⟩ := swapLoop_eq s l x g
  refine ⟨⟨words, stOff, ?_⟩, hparts .trl (by decide), hparts .coll (by decide), ?_⟩
  all_goals
    rw [heq]
    generalize x.swapped g words stOff (s.descState g.desc) = y
    have hguards : Touches [.guards] (u.setLoop l y) ((u.setLoop l y).loadGuards l false) :=
      (Kept.start.loadGuards (List.Subset.refl _) l _).same
  · have h := replanFallbacks_loops ((u.setLoop l y).loadGuards l false) l
    rw [loop_followed hguards (by decide), loop_setLoop_self] at h
    exact h
  · have h := (Spares.replanFallbacks ((u.setLoop l y).loadGuards l false)).word_trl (o := 0x14C) (by decide) (by decide)
    exact h.trans (word_congr ((hguards .regs (by decide)).trans (hmem .regs (by decide))) _ _)

/-- The image headers do not depend on the registers of Trellis (R145). -/
theorem descState_wr (s : State) (f : Field) (v : Nat) (hf : f.off < 0x2000000) (d : List Word) :
    (s.wr pgTRL f v).descState d = s.descState d := by
  unfold State.descState State.imgState State.imgHdr State.slotBase State.activeBank
  rw [rd_wr_page _ _ _ _ _ (by decide) hf (by decide), mword_congr (wr_mem _ _ _ _)]

/-- What follows the swap of a loop: the set goes on without it, and is done after the last (R147). -/
def State.endSwap (s : State) (left : List Nat) : State :=
  if left.isEmpty then
    (((s.setGraftLoops left).wr pgTRL Reg.TRL.GRAFT_STAT_STATE 4).wrB pgTRL Reg.TRL.STAT_GRAFT_PEND false).reportFab .c 0x31 pgTRL
  else s.setGraftLoops left

theorem endSwap_touches (s : State) (left : List Nat) : Touches [.regs, .pushes, .coll, .trl] s (s.endSwap left) := by
  have hset : Kept [.regs, .pushes, .coll, .trl] s (s.setGraftLoops left) := Kept.start.setGraftLoops (by decide) left
  unfold State.endSwap
  exact (hset.ite fun h => ((h.wr (by decide) _ _ _).wrB (by decide) _ _ _).reportFab (by decide) _ _ _ _ _).same

theorem endSwap_graftLoops (s : State) (left : List Nat) : (s.endSwap left).trl.graftLoops = left := by
  unfold State.endSwap
  split
  · rw [reportFab_trl, wrB_trl, wr_trl]
    rfl
  · rfl

/-- Swaps remain: GRAFT_STAT stays as it is (R147). -/
theorem endSwap_of_left {left : List Nat} (h : left ≠ []) : s.endSwap left = s.setGraftLoops left :=
  if_neg (by rw [List.isEmpty_iff]; exact h)

/-- The last swap completes the set, which is reported (R147). -/
theorem endSwap_of_none (hs : s.coll.stopped = false) : (s.endSwap []).rd pgTRL Reg.TRL.GRAFT_STAT_STATE = 4 ∧
    (s.endSwap []).rdB pgTRL Reg.TRL.STAT_GRAFT_PEND = false ∧ Reported (s.endSwap []) .c 0x31 pgTRL := by
  rw [show s.endSwap [] = _ from if_pos rfl]
  refine ⟨?_, ?_, reported_reportFab _ _ _ _ _ _ ?_⟩
  · rw [rd_congr (reportFab_regs _ _ _ _ _ _)]
    exact (rd_wr_off _ _ _ _ (by decide)).trans (rd_wr_self _ _ _ (by decide))
  · rw [rdB_congr (reportFab_regs _ _ _ _ _ _)]
    exact rdB_wrB_self _ _ _ (by decide) rfl
  · rw [wrB_coll, wr_coll]
    exact hs

theorem graftSwap_eq (hx : (s.loop l).graft = some g)
    (hready : s.rd pgTRL Reg.TRL.GRAFT_STAT_STATE = 2 ∨ s.rd pgTRL Reg.TRL.GRAFT_STAT_STATE = 3) (hrun : s.inProgress l = false)
    (hmove : (s.loop l).move = none) (hmay : s.copyMayStart l (64 + (8 * (s.descState g.desc / 4) + 24) / 25) g.ends = true) :
    s.graftSwap l = ((s.wr pgTRL Reg.TRL.GRAFT_STAT_STATE 3).swapLoop l (s.loop l) g).endSwap
      (((s.wr pgTRL Reg.TRL.GRAFT_STAT_STATE 3).swapLoop l (s.loop l) g).trl.graftLoops.filter (· ≠ l)) := by
  unfold State.graftSwap
  dsimp only
  split
  case h_1 hnone => exact absurd (hx.symm.trans hnone) nofun
  case h_2 g' hsome =>
    rw [← Option.some.inj (hx.symm.trans hsome)]
    rw [if_neg (by rw [hmove, hrun]; rcases hready with h | h <;> simp [h]), if_pos hmay]
    rfl

/-- A loop of a ready set swaps: its record, and GRAFT_STAT while swaps remain (R147, R150). -/
theorem graftSwap_effect (hx : (s.loop l).graft = some g)
    (hready : s.rd pgTRL Reg.TRL.GRAFT_STAT_STATE = 2 ∨ s.rd pgTRL Reg.TRL.GRAFT_STAT_STATE = 3) (hrun : s.inProgress l = false)
    (hmove : (s.loop l).move = none) (hmay : s.copyMayStart l (64 + (8 * (s.descState g.desc / 4) + 24) / 25) g.ends = true) :
    ∃ u : State, s.graftSwap l = u.endSwap (s.trl.graftLoops.filter (· ≠ l)) ∧ u.coll = s.coll ∧
      u.rd pgTRL Reg.TRL.GRAFT_STAT_STATE = 3 ∧
      ∃ words stOff, ((s.loop l).swapped g words stOff (s.descState g.desc)).SameBut (u.loop l) := by
  have h := swapLoop_swapped (s.wr pgTRL Reg.TRL.GRAFT_STAT_STATE 3) l (s.loop l) g
  obtain ⟨words, stOff, hloop⟩ := h.loop
  rw [descState_wr _ _ _ (by decide)] at hloop
  refine ⟨(s.wr pgTRL Reg.TRL.GRAFT_STAT_STATE 3).swapLoop l (s.loop l) g, ?_, h.coll.trans (wr_coll _ _ _ _), ?_, words, stOff,
    hloop⟩
  · rw [graftSwap_eq hx hready hrun hmove hmay, h.trl, wr_trl]
  · rw [rd_of_word (f := Reg.TRL.GRAFT_STAT_STATE) h.stat]
    exact rd_wr_self _ _ _ (by decide)

/-- What a loop's record shows after its swap (R147, R150). -/
theorem LoopRec.SameBut.of_swapped {y : LoopRec} {words stOff size : Nat} (h : (x.swapped g words stOff size).SameBut y) :
    y.desc = g.desc ∧ y.slot = descImg g.desc ∧ y.imgOff = g.imgOff ∧ y.stSize = size ∧ y.graft = none ∧ y.engine = x.engine := by
  rw [show y = _ from h]
  exact ⟨Eq.refl _, Eq.refl _, Eq.refl _, Eq.refl _, Eq.refl _, Eq.refl _⟩

theorem graftVerified_ready (hst : s.rd pgTRL Reg.TRL.GRAFT_STAT_STATE = 1)
    (hall : ∀ l, l ∈ s.trl.graftLoops → (s.loop l).graft.any (·.loaded) = true ∧ s.standbyMatches l = true) :
    s.graftVerified = s.wr pgTRL Reg.TRL.GRAFT_STAT_STATE 2 := by
  have hfind : s.trl.graftLoops.find? (fun l => !s.standbyMatches l) = none :=
    List.find?_eq_none.2 fun l hl => by rw [(hall l hl).2]; exact Bool.false_ne_true
  unfold State.graftVerified
  rw [if_pos ⟨hst, List.all_eq_true.2 fun l hl => (hall l hl).1⟩, hfind]

theorem graftVerified_mismatch (hl : s.trl.graftLoops = [l]) (hst : s.rd pgTRL Reg.TRL.GRAFT_STAT_STATE = 1)
    (hload : (s.loop l).graft.any (·.loaded) = true) (hbad : s.standbyMatches l = false) :
    s.graftVerified = s.cancelGraft 3 l := by
  have hfind : s.trl.graftLoops.find? (fun l => !s.standbyMatches l) = some l := by
    rw [hl]
    exact List.find?_cons_of_pos (by rw [hbad]; rfl)
  unfold State.graftVerified
  rw [if_pos ⟨hst, by rw [hl, List.all_cons, hload]; rfl⟩, hfind]

/-- Settles O22, by what the verdict on the standby copies, the swap of a loop, and the timeout do to the set. -/
theorem graftSets : Obligations.GraftSets := by
  refine ⟨fun s hr hst hall => ⟨_, congrArg Host.Outcome.next ((if_pos hr).trans (graftVerified_ready hst hall)),
      rd_wr_self _ _ _ (by decide), changes_wr _ _ _ _⟩,
    fun s l hl hr hst hlt hload hbad hs =>
      ⟨_, congrArg Host.Outcome.next ((if_pos hr).trans (graftVerified_mismatch hl hst hload hbad)), ?_⟩,
    fun s l g hx hr hready hrun hmove hmay hs => ?_,
    fun s hr hst hne hlate hs => ⟨_, congrArg Host.Outcome.next ((if_pos hr).trans (if_pos ⟨hst, hlate⟩)), ?_⟩⟩
  · have h := cancelGraft_cancelled (by rw [hl]; exact List.cons_ne_nil _ _) hs 3 l
    obtain ⟨hgraft, hdesc, hslot⟩ := h.single hl
    exact ⟨h.state, h.cause, h.loop.trans (Nat.mod_eq_of_lt hlt), h.left, h.pending, hgraft, hdesc, hslot, h.reported⟩
  · obtain ⟨u, heq, hcoll, hstat, words, stOff, hloop⟩ := graftSwap_effect hx hready hrun hmove hmay
    refine ⟨_, congrArg Host.Outcome.next ((if_pos hr).trans heq), ?_⟩
    have hloops := loop_congr (endSwap_touches u (s.trl.graftLoops.filter (· ≠ l.val)) .loops (by decide)) l
    obtain ⟨hdesc, hslot, himg, hsize, hgraft, hengine⟩ := hloop.of_swapped
    rw [hloops]
    refine ⟨hdesc, hslot, himg, hsize, hgraft, hengine, endSwap_graftLoops _ _, fun hleft => ?_, fun hnone => ?_⟩
    · rw [endSwap_of_left hleft]
      exact (rd_congr rfl _ _).trans hstat
    · rw [hnone]
      exact endSwap_of_none (by rw [hcoll]; exact hs)
  · have h := cancelGraft_cancelled hne hs 6 (s.trl.graftLoops.headD 0)
    exact ⟨h.state, h.cause, h.left, h.reported, h.mem⟩

end Sys2Proof.Machine
end

section
/-! SUPPORT. What a stage's reaction spares on every page, the stages' own included: the word at the offset of a channel's
GUARD register. Each operation of the stage logic is followed once. -/

namespace Sys2Proof.Machine

/-- The words at any offset of a page but that of GUARD (R140, R532). -/
def offGuard (k : Nat) : Prop := k % 0x2000000 ≠ 0x150

theorem offGuard_regKey (p : Nat) {o : Nat} (ho : o % 0x2000000 ≠ 0x150) : offGuard (regKey p o) := by
  unfold offGuard regKey
  omega

variable {s₀ s : State} (h : Spares offGuard s₀ s)
include h

theorem Spares.guardWord (p : Nat) : s.word p 0x150 = s₀.word p 0x150 :=
  h.words _ fun hk => hk (by unfold regKey; omega)

theorem Spares.wrOff (p : Nat) (f : Field) (v : Nat) (hf : f.off % 0x2000000 ≠ 0x150 := by decide) :
    Spares offGuard s₀ (s.wr p f v) := h.wr (offGuard_regKey p hf) v

theorem Spares.wrBOff (p : Nat) (f : Field) (b : Bool) (hf : f.off % 0x2000000 ≠ 0x150 := by decide) :
    Spares offGuard s₀ (s.wrB p f b) := h.wrB (offGuard_regKey p hf) b

theorem Spares.setWordOff (p o : Nat) (w : Word) (ho : o % 0x2000000 ≠ 0x150 := by decide) :
    Spares offGuard s₀ (s.setWord p o w) := h.setWord (offGuard_regKey p ho) w

theorem Spares.setStageOff (st : Nat) (x : Stage) : Spares offGuard s₀ (s.setStage st x) := h.otherParts rfl rfl

theorem Spares.reportTpOff (cls : FaultClass) (code page detail : Nat) (inj : Bool) :
    Spares offGuard s₀ (s.reportTp cls code page detail inj) := h.reportAs _

theorem Spares.setModeOff (st m : Nat) (host : Bool) : Spares offGuard s₀ (s.setMode st m host) := by
  have hm := fun x => (((h.wrOff (pgSG st) Reg.SGT.STAT_MODE m).wrOff (pgSG st) Reg.SGT.STAT_STATE (if m = 0 then 0 else 2)).wrOff
    (pgSG st) (Reg.SGW.IN_VALUE 0) m).setStageOff st x
  exact .ite (hm _) ((hm _).wrOff _ _ _)

theorem Spares.rearmOff (p o : Nat) : Spares offGuard s₀ (s.rearm p o) := .ite (h.otherParts rfl rfl) h

theorem Spares.driveLegOff (p : Nat) (d : LegDrive) : Spares offGuard s₀ (s.driveLeg p d) := by
  have hc := fun c => h.otherParts (t := s.setChan p c) rfl rfl
  exact .ite (((hc _).rearmOff p 0).rearmOff p 1) (hc _)

theorem Spares.showLegsOff (st : Nat) : Spares offGuard s₀ (s.showLegs st) :=
  .ite ((h.wrOff _ (legsField 0) _).wrOff _ (legsField 1) _) (h.wrOff _ (legsField 0) _)

theorem Spares.setLegCodeOff (st set code : Nat) : Spares offGuard s₀ (s.setLegCode st set code) :=
  ((h.setStageOff st _).each fun _ p _ g => g.driveLegOff p _).showLegsOff st

theorem Spares.setAllLegsOff (st code : Nat) : Spares offGuard s₀ (s.setAllLegs st code) :=
  .ite ((h.setLegCodeOff st 0 code).setLegCodeOff st 1 code) (h.setLegCodeOff st 0 code)

theorem Spares.tracShowOff (st : Nat) : Spares offGuard s₀ (s.tracShow st) := (h.setWordOff _ _ _).setWordOff _ _ _

theorem Spares.tracEnterOff (st m legA legB : Nat) (hold react offPend revPend host : Bool) :
    Spares offGuard s₀ (s.tracEnter st m legA legB hold react offPend revPend host) :=
  (((((((((h.setModeOff st m host).wrBOff _ Reg.SGT.STAT_SS_PHASE hold).wrBOff _ Reg.SGT.STAT_REACT react).wrBOff _
    Reg.SGT.STAT_OFF_PEND offPend).wrBOff _ Reg.SGT.STAT_REV_PEND revPend).setStageOff st _).setLegCodeOff st 0 legA).setLegCodeOff
    st 1 legB).tracShowOff st)

theorem Spares.reactionOff (st : Nat) : Spares offGuard s₀ (s.reaction st) :=
  ((h.tracEnterOff st _ _ _ _ _ _ _ _).setStageOff st _).reportTpOff _ _ _ _ _

theorem Spares.isolateOff (st set cause : Nat) : Spares offGuard s₀ (s.isolate st set cause) := by
  have hcause : (isoField set).off % 0x2000000 ≠ 0x150 := by unfold isoField; split <;> decide
  have hphase : (isoPhaseField set).off % 0x2000000 ≠ 0x150 := by unfold isoPhaseField; split <;> decide
  have hi := fun v w => ((h.wrOff (pgSG st) (isoField set) v hcause).wrOff (pgSG st) (isoPhaseField set) w hphase).reportTpOff
    .u 0x46 (pgSG st) 0 false
  exact .ite h (.ite ((hi _ _).reactionOff st) (.ite ((Spares.setLegCodeOff (.ite ((hi _ _).setModeOff st 4 false) (hi _ _)) st set
    _).tracShowOff st) ((hi _ _).tracShowOff st)))

theorem Spares.convShowOff (st : Nat) : Spares offGuard s₀ (s.convShow st) := h.setWordOff _ _ _

theorem Spares.setRefOff (st : Nat) (w : Word) : Spares offGuard s₀ (s.setRef st w) := (h.setWordOff _ _ w).setWordOff _ _ w

theorem Spares.setS2Off (closed : Bool) : Spares offGuard s₀ (s.setS2 closed) := (h.wrBOff _ _ _).convShowOff 2

theorem Spares.convStopOff (st : Nat) (host : Bool) : Spares offGuard s₀ (s.convStop st host) :=
  ((h.setModeOff st 4 host).setStageOff st _).convShowOff st

theorem Spares.releaseOffPendOff : Spares offGuard s₀ s.releaseOffPend := .ite ((h.wrBOff _ _ _).convStopOff 2 _) h

theorem Spares.convTripOneOff (st cause : Nat) : Spares offGuard s₀ (s.convTripOne st cause) := by
  have hm := ((h.wrOff (pgSG st) Reg.SGC.TRIP_CAUSE cause).wrBOff (pgSG st) Reg.SGC.STAT_OFF_PEND false).setModeOff st 5 false
  have hr := (hm.setAllLegsOff st (if cause = 9 then 2 else 1)).setRefOff st 0
  have h2 := (hr.when (c := st = 2) (f := (·.setS2 false)) (hr.setS2Off false)).convShowOff st
  have hs := h2.reportTpOff .u (tripFault cause) (pgSG st) 0 false
  exact hs.when (f := State.releaseOffPend) hs.releaseOffPendOff

theorem Spares.convTripOff (st cause : Nat) : Spares offGuard s₀ (s.convTrip st cause) :=
  .ite (.ite ((h.convTripOneOff st cause).convTripOneOff 3 8) (h.convTripOneOff st cause)) h

theorem Spares.actShowOff (st : Nat) : Spares offGuard s₀ (s.actShow st) :=
  ((h.setWordOff _ _ _).setWordOff _ _ _).setWordOff _ _ _

theorem Spares.actEnterOff (st m : Nat) (host : Bool) : Spares offGuard s₀ (s.actEnter st m host) := by
  have hp := (((h.setModeOff st m host).setAllLegsOff st (actLegCode m)).wrBOff (pgSG st) Reg.SGA.STAT_REV_PEND (m == 3)).wrBOff
    (pgSG st) Reg.SGA.STAT_HOLD_PEND false
  exact Spares.actShowOff (.ite ((hp.setWordOff _ _ _).setWordOff _ _ _) hp) st

theorem Spares.actTripOff (st cause : Nat) : Spares offGuard s₀ (s.actTrip st cause) :=
  .ite h (((h.wrOff _ _ _).actEnterOff st 5 _).reportTpOff _ _ _ _ _)

/-- The stages' reaction to a loss of control spares every GUARD register (R140). -/
theorem Spares.guardReaction (p : Nat) : Spares offGuard s₀ (s.guardReaction p) :=
  .ite (h.isolateOff _ _ _) (.ite (h.convTripOff _ _) (h.actTripOff _ _))

end Sys2Proof.Machine
end

section
/-! PROOF. Hold guards and balancing (O20). -/

namespace Sys2Proof.Machine

variable {s t : State} {p o : Nat}

theorem guard_setGuard_self (s : State) (p o : Nat) (g : Guard) : (s.setGuard p o g).guard p o = g := tabGet_put_self _ _ _ _

theorem guard_setGuard_ne (s : State) {p o q : Nat} (g : Guard) (h : q ≠ o) : (s.setGuard p o g).guard p q = s.guard p q :=
  tabGet_put_ne _ _ _ _ _ (by omega)

theorem guard_congr (h : t.guards = s.guards) (p o : Nat) : t.guard p o = s.guard p o := by
  unfold State.guard
  rw [h]

theorem chan_setChan_self (s : State) (p : Nat) (c : Channel) : (s.setChan p c).chan p = c := tabGet_put_self _ _ _ _

theorem chan_congr (h : t.chans = s.chans) (p : Nat) : t.chan p = s.chan p := by
  unfold State.chan
  rw [h]

/-- A guard at its instant of action (R140). -/
def State.guardActs (s : State) (p o : Nat) : Prop :=
  s.guardArmed p o = true ∧ (s.guard p o).done = false ∧ guardActionAt (s.guard p o) ≤ s.eu * (s.guard p o).tDen

theorem guardExpiry_of_acts (h : s.guardActs p o) : s.guardExpiry p o =
    if guardMaySubstitute (s.guard p o) = true ∧ (s.guard p o).acted < s.rd pgTRL Reg.TRL.TCTL_SUBST_MAX then s.substitute p o
    else s.guardTakeover p o := by
  obtain ⟨harmed, hdone, hat⟩ := h
  exact if_pos ⟨harmed, by rw [hdone]; exact Bool.false_ne_true, hat⟩

theorem guardExpiry_early (h : s.guardArmed p o = false ∨ (s.guard p o).done = true ∨
    s.eu * (s.guard p o).tDen < guardActionAt (s.guard p o)) : s.guardExpiry p o = s := by
  refine if_neg fun ⟨harmed, hdone, hat⟩ => ?_
  rcases h with h | h | h
  · exact absurd (harmed.symm.trans h) nofun
  · exact hdone h
  · omega

/-- The first substitution of a guard is reported (R140). -/
def State.reportSubst (s : State) (p acted : Nat) : State := if acted = 0 then s.reportTp .c 0xD8 p else s

theorem reportSubst_reports (hs : s.coll.stopped = false) (p : Nat) : Reported (s.reportSubst p 0) .c 0xD8 p :=
  reported_reportAs s _ hs

theorem reportSubst_touches (s : State) (p n : Nat) : Touches [.coll] s (s.reportSubst p n) := by
  unfold State.reportSubst
  exact (Kept.start.ite fun h => h.reportTp (List.Subset.refl _) _ _ _ _ _).same

/-- The substitute of a pulse length, before the report (R140, R532). -/
def State.substCompare (s : State) (p : Nat) : State :=
  ((s.latchCompare p (clampInt 0 (s.legPeriod p) (guardSubstitute (s.guard p 0))).toNat s.now).setGuard p 0
    { s.guard p 0 with acted := (s.guard p 0).acted + 1 }).wr p Reg.CHAN.GUARD_SUBST (min 7 ((s.guard p 0).acted + 1))

theorem substitute_compare (s : State) (p : Nat) :
    s.substitute p 0 = (s.substCompare p).reportSubst p (s.guard p 0).acted := rfl

theorem latchCompare_regs (s : State) (p cmp n : Nat) : (s.latchCompare p cmp n).regs = (s.wr p Reg.CHAN.COMPARE_EU cmp).regs := rfl

theorem Spares.latchCompare {K : Nat → Prop} {s₀ : State} (h : Spares K s₀ s) (hk : K (fieldKey p Reg.CHAN.COMPARE_EU))
    (cmp n : Nat) : Spares K s₀ (s.latchCompare p cmp n) :=
  (h.wr hk cmp).otherParts (setChan_regs _ _ _) (setChan_coll _ _ _)

theorem Spares.setGuard {K : Nat → Prop} {s₀ : State} (h : Spares K s₀ s) (p o : Nat) (g : Guard) :
    Spares K s₀ (s.setGuard p o g) := h.otherParts rfl rfl

theorem substCompare_spares (s : State) (p : Nat) :
    Spares (· ∈ [fieldKey p Reg.CHAN.COMPARE_EU, fieldKey p Reg.CHAN.GUARD_SUBST]) s (s.substCompare p) :=
  ((Spares.start.latchCompare (.head _) _ _).setGuard p 0 _).wr (.tail _ (.head _)) _

theorem substCompare_rd (s : State) (p : Nat) :
    (s.substCompare p).rd p Reg.CHAN.COMPARE_EU =
        (clampInt 0 (s.legPeriod p) (guardSubstitute (s.guard p 0))).toNat % 2 ^ 21 ∧
      (s.substCompare p).rd p Reg.CHAN.GUARD_SUBST = min 7 ((s.guard p 0).acted + 1) := by
  unfold State.substCompare
  generalize (clampInt 0 (s.legPeriod p) (guardSubstitute (s.guard p 0))).toNat = v
  constructor
  · rw [rd_wr_off _ _ _ _ (by decide), rd_congr (setGuard_regs _ _ _ _), rd_congr (latchCompare_regs s p v s.now),
      rd_wr_self _ _ _ (by decide)]
    rfl
  · rw [rd_wr_self _ _ _ (by decide)]
    exact Nat.mod_eq_of_lt (by show _ < 8; omega)

theorem substCompare_guards (s : State) (p : Nat) :
    (s.substCompare p).guard p 0 = { s.guard p 0 with acted := (s.guard p 0).acted + 1 } ∧
      (s.substCompare p).guard p 1 = s.guard p 1 := by
  have hlatch : Touches [.regs, .pushes, .chans] s
      (s.latchCompare p (clampInt 0 (s.legPeriod p) (guardSubstitute (s.guard p 0))).toNat s.now) :=
    (Kept.start.latchCompare (List.Subset.refl _) _ _ _).same
  unfold State.substCompare
  rw [guard_congr (wr_guards _ _ _ _), guard_congr (wr_guards _ _ _ _)]
  exact ⟨guard_setGuard_self _ _ _ _, (guard_setGuard_ne _ _ (by decide)).trans (guard_congr (hlatch .guards (by decide)) _ _)⟩

/-- The substitute of a phase waits, and the guard has acted once more (R140, R562). -/
def State.phaseLatched (s : State) (p : Nat) : State :=
  (s.latchPhase p (guardSubstitute (s.guard p 1) % (max 1 (s.legPeriod p) : Nat)).toNat s.now).setGuard p 1
    { s.guard p 1 with acted := (s.guard p 1).acted + 1 }

/-- GUARD_SUBST shows the substitutions of a phase where no guard of the pulse length runs (R532). -/
theorem substitute_phase (s : State) (p : Nat) : ∃ u : State, s.substitute p 1 = u.reportSubst p (s.guard p 1).acted ∧
    (u = s.phaseLatched p ∨ u = (s.phaseLatched p).wr p Reg.CHAN.GUARD_SUBST (min 7 ((s.guard p 1).acted + 1))) :=
  ⟨if 1 = 0 ∨ ¬ ((s.phaseLatched p).guard p 0).loaded then
      (s.phaseLatched p).wr p Reg.CHAN.GUARD_SUBST (min 7 ((s.guard p 1).acted + 1)) else s.phaseLatched p,
    rfl, (ite_eq_or_eq _ _ _).symm⟩

theorem phaseLatched_effect (s : State) (p : Nat) : Spares (· ∈ [fieldKey p Reg.CHAN.GUARD_SUBST]) s (s.phaseLatched p) ∧
    ((s.phaseLatched p).chan p).phaseNew =
      some ((guardSubstitute (s.guard p 1) % (max 1 (s.legPeriod p) : Nat)).toNat, s.now) ∧
    (s.phaseLatched p).guard p 1 = { s.guard p 1 with acted := (s.guard p 1).acted + 1 } ∧
    (s.phaseLatched p).guard p 0 = s.guard p 0 := by
  unfold State.phaseLatched
  generalize (guardSubstitute (s.guard p 1) % (max 1 (s.legPeriod p) : Nat)).toNat = v
  refine ⟨?_, ?_, guard_setGuard_self _ _ _ _, guard_setGuard_ne _ _ (by decide)⟩
  · have hlatch : Spares (· ∈ [fieldKey p Reg.CHAN.GUARD_SUBST]) s (s.latchPhase p v s.now) := Spares.start.otherParts rfl rfl
    exact hlatch.setGuard p 1 _
  · exact congrArg Channel.phaseNew (chan_setChan_self s p _)

/-- What a substitution of the phase leaves and sets, the report apart (R140, R562). -/
theorem phaseSubstituted {u : State}
    (hu : u = s.phaseLatched p ∨ u = (s.phaseLatched p).wr p Reg.CHAN.GUARD_SUBST (min 7 ((s.guard p 1).acted + 1))) :
    Spares (· ∈ [fieldKey p Reg.CHAN.GUARD_SUBST]) s u ∧
      (u.chan p).phaseNew = some ((guardSubstitute (s.guard p 1) % (max 1 (s.legPeriod p) : Nat)).toNat, s.now) ∧
      u.guard p 1 = { s.guard p 1 with acted := (s.guard p 1).acted + 1 } ∧ u.guard p 0 = s.guard p 0 := by
  have h := phaseLatched_effect s p
  rcases hu with rfl | rfl
  · exact h
  · rw [chan_congr (wr_chans _ _ _ _), guard_congr (wr_guards _ _ _ _), guard_congr (wr_guards _ _ _ _)]
    exact ⟨h.1.wr (.head _) _, h.2⟩

theorem reportSubst_guard (s : State) (p n q o : Nat) : (s.reportSubst p n).guard q o = s.guard q o :=
  guard_congr (reportSubst_touches s p n .guards (by decide)) q o

theorem reportSubst_regs (s : State) (p n : Nat) : (s.reportSubst p n).regs = s.regs :=
  reportSubst_touches s p n .regs (by decide)

theorem reportSubst_reported {u : State} {K : Nat → Prop} (hu : Spares K s u) (hs : s.coll.stopped = false) (p : Nat) {n : Nat}
    (hn : n = 0) : Reported (u.reportSubst p n) .c 0xD8 p := by
  rw [hn]
  exact reportSubst_reports (hu.stopped.trans hs) p

/-- A substitution changes the guards, the channel, the reports and the listed words only. -/
theorem substitute_changes {u : State} {keys : List Nat} {n : Nat} (hsub : s.substitute p o = u.reportSubst p n)
    (hu : Spares (· ∈ keys) s u) : Changes [.guards, .chans, .coll] keys s (u.reportSubst p n) := by
  refine ⟨?_, OnlyWords.followedBy hu.words (reportSubst_regs _ _ _)⟩
  rw [← hsub]
  exact ((Kept.start.substitute (List.Subset.refl _) p o).same).mono (by decide)

/-- Where a guard may not substitute, it tells so and the stage logic reacts (R140). -/
theorem guardTakeover_effect (hs : s.coll.stopped = false) (p o : Nat) :
    (s.guardTakeover p o).rdB p Reg.CHAN.GUARD_TAKEN = true ∧ Reported (s.guardTakeover p o) .u 0xD9 p := by
  unfold State.guardTakeover
  extract_lets g u
  have hu : u.coll.stopped = false := hs
  clear_value u
  have hreaction := (Spares.start (s := (u.wrB p Reg.CHAN.GUARD_TAKEN true).reportTp .u 0xD9 p)).guardReaction p
  refine ⟨?_, hreaction.reported (reported_reportAs _ _ ?_)⟩
  · rw [rdB_congr_rd (rd_of_word (f := Reg.CHAN.GUARD_TAKEN) (hreaction.guardWord p)), rdB_congr (reportTp_regs _ _ _ _ _ _)]
    exact rdB_wrB_self _ _ _ (by decide) rfl
  · rw [wrB_coll]
    exact hu

/-- Balancing is off, or a class A loop has no reserve: no spread is timed (R144, R366). -/
theorem balanceLoops_off (h : s.rdB pgTRL Reg.TRL.TCTL_BAL_EN = false ∨ s.rd pgFLT Reg.FLT.STAT_RED ≠ 0) :
    s.balanceLoops = { s with trl := { s.trl with spreadSince := none } } :=
  if_pos (h.imp (fun h => by rw [h]; exact Bool.false_ne_true) id)

/-- The loop that balancing moves: of those that may move, the one whose move leaves the least spread (R144). -/
def State.balanceChoice (s : State) (x : Frac × Bin × Bin) : Option PLoop :=
  let cands := x.2.1.loops.filter fun l => l.cls != 0 && (s.loop l.id).graft.isNone && (s.loop l.id).move.isNone
    && x.2.2.fails s.rules l == 0 && reserveHolds s.rules (moveInBins s.bins l x.2.2.e) s.ownFb
  let after (l : PLoop) : Frac := ((spread (moveInBins s.bins l x.2.2.e)).map (·.1)).getD x.1
  cands.foldl (fun (best : Option PLoop) l => match best with
    | none => if Frac.lt (after l) x.1 then some l else none
    | some b => if Frac.lt (after l) (after b) then some l else some b) none

/-- What balancing does while a spread is over the threshold, timed since `since` (R144). -/
def State.balanceOver (s : State) (x : Frac × Bin × Bin) (since : Option Nat) : State :=
  match since with
  | none => { s with trl := { s.trl with spreadSince := some s.now } }
  | some at_ =>
    if ¬ s.passed at_ (msTicks (s.rd pgTRL Reg.TRL.BAL_TIME_HOLD)) then s
    else match s.balanceChoice x with
      | some l => s.startMove l.id x.2.2.e 3
      | none => s

theorem balanceLoops_over (hen : s.rdB pgTRL Reg.TRL.TCTL_BAL_EN = true) (hred : s.rd pgFLT Reg.FLT.STAT_RED = 0)
    {x : Frac × Bin × Bin} (hx : spread s.bins = some x)
    (hover : Frac.le x.1 ⟨s.rd pgTRL Reg.TRL.TCTL_BAL_SPREAD, 100⟩ = false) :
    s.balanceLoops = s.balanceOver x s.trl.spreadSince := by
  obtain ⟨d, hi, lo⟩ := x
  unfold State.balanceLoops
  dsimp only
  rw [if_neg (by rw [hen, hred]; simp)]
  split
  case h_1 hnone => exact absurd (hx.symm.trans hnone) nofun
  case h_2 hsome =>
    obtain ⟨rfl, rfl, rfl⟩ : d = _ ∧ hi = _ ∧ lo = _ := by simpa using Option.some.inj (hx.symm.trans hsome)
    rw [if_neg (by rw [hover]; exact Bool.false_ne_true)]
    rfl

theorem balanceChoice_single {x : Frac × Bin × Bin} {l : PLoop}
    (hcands : (x.2.1.loops.filter fun l => l.cls != 0 && (s.loop l.id).graft.isNone && (s.loop l.id).move.isNone
      && x.2.2.fails s.rules l == 0 && reserveHolds s.rules (moveInBins s.bins l x.2.2.e) s.ownFb) = [l])
    (hless : Frac.lt (((spread (moveInBins s.bins l x.2.2.e)).map (·.1)).getD x.1) x.1 = true) :
    s.balanceChoice x = some l := by
  unfold State.balanceChoice
  extract_lets cands after
  rw [show cands = [l] from hcands]
  exact if_pos hless

/-- A spread over the threshold for HOLD: the chosen loop moves to the engine least loaded (R144). -/
theorem balanceOver_moves {x : Frac × Bin × Bin} {l : PLoop} {at_ : Nat} (hsince : s.trl.spreadSince = some at_)
    (hheld : s.passed at_ (msTicks (s.rd pgTRL Reg.TRL.BAL_TIME_HOLD)) = true) (hl : s.balanceChoice x = some l) :
    s.balanceOver x s.trl.spreadSince = s.startMove l.id x.2.2.e 3 := by
  rw [hsince]
  unfold State.balanceOver
  dsimp only
  rw [if_neg (by rw [hheld]; exact fun h => h rfl), hl]

/-- Settles O20, by what a guard does at its instant of action and by the choice of the loop that balancing moves. -/
theorem guardsAndBalancing : Obligations.GuardsAndBalancing := by
  refine ⟨fun s p harmed hdone hat hmay hmax hs => ?_, fun s p harmed hdone hat hmay hmax hs => ?_,
    fun s p o harmed hdone hat hno hs => ?_, fun s p o h => congrArg Host.Outcome.next (guardExpiry_early h),
    fun s hr h => congrArg Host.Outcome.next ((if_pos hr).trans (balanceLoops_off h)),
    fun s hr hen hred hnone x hx hover => ?_,
    fun s at_ hsince hr hen hred hheld x hx hover l hcands hless hst hm hg => ?_⟩
  · have hexec : s.guardExpiry p 0 = (s.substCompare p).reportSubst p (s.guard p 0).acted :=
      (guardExpiry_of_acts ⟨harmed, hdone, hat⟩).trans ((if_pos ⟨hmay, hmax⟩).trans (substitute_compare s p))
    have hspares := substCompare_spares s p
    obtain ⟨hcompare, hsubst⟩ := substCompare_rd s p
    obtain ⟨hguard, hother⟩ := substCompare_guards s p
    refine ⟨_, congrArg Host.Outcome.next hexec, ?_, ?_, ?_, ?_, reportSubst_reported hspares hs p,
      substitute_changes (substitute_compare s p) hspares⟩
    · rw [rd_congr (reportSubst_regs _ _ _), hcompare]
    · rw [rd_congr (reportSubst_regs _ _ _), hsubst]
    · rw [reportSubst_guard, hguard]
    · rw [reportSubst_guard, hother]
  · obtain ⟨u, hsub, hu⟩ := substitute_phase s p
    have hexec : s.guardExpiry p 1 = u.reportSubst p (s.guard p 1).acted :=
      (guardExpiry_of_acts ⟨harmed, hdone, hat⟩).trans ((if_pos ⟨hmay, hmax⟩).trans hsub)
    obtain ⟨hspares, hphase, hguard, hother⟩ := phaseSubstituted hu
    refine ⟨_, congrArg Host.Outcome.next hexec, ?_, ?_, ?_, reportSubst_reported hspares hs p,
      substitute_changes hsub hspares⟩
    · rw [chan_congr (reportSubst_touches _ _ _ .chans (by decide)), hphase]
    · rw [reportSubst_guard, hguard]
    · rw [reportSubst_guard, hother]
  · have hnot : ¬ (guardMaySubstitute (s.guard p (bit o)) = true ∧
        (s.guard p (bit o)).acted < s.rd pgTRL Reg.TRL.TCTL_SUBST_MAX) := by
      rintro ⟨hmay, hmax⟩
      rcases hno with hno | hno
      · exact absurd (hmay.symm.trans hno) nofun
      · omega
    exact ⟨_, congrArg Host.Outcome.next ((guardExpiry_of_acts ⟨harmed, hdone, hat⟩).trans (if_neg hnot)),
      guardTakeover_effect hs p (bit o)⟩
  · refine congrArg Host.Outcome.next ((if_pos hr).trans ((balanceLoops_over hen hred hx hover).trans ?_))
    rw [hnone]
    rfl
  · have hmoves := balanceOver_moves hsince hheld (balanceChoice_single hcands hless)
    have h := startMove_starts hst hm hg x.2.2.e 3
    exact ⟨_, congrArg Host.Outcome.next ((if_pos hr).trans ((balanceLoops_over hen hred hx hover).trans hmoves)), h.state, h.move,
      h.parts, h.others⟩

end Sys2Proof.Machine
end

section
/-! SUPPORT. What the stage logic steers and what it spares: words beside the keys of `K`, reports on their way, the sample
timing of every stage, and the soft turn-off of a channel whose latch is spared. Each operation of the stage logic is followed
once, for every `K` that holds the words it writes. -/

namespace Sys2Proof.Machine

/-- A state that the stage logic can lead to from `s₀`, where it may write the words with keys of `K`. -/
structure Steers (K : Nat → Prop) (s₀ s : State) : Prop where
  spares : Spares K s₀ s
  timing : ∀ st, (s.stage st).a = (s₀.stage st).a
  soft : ∀ p, ¬ K (fieldKey p Reg.XH.CH_STAT_LATCH) →
    (s.chan p).soft = (s₀.chan p).soft ∧ (s.chan p).softStep = (s₀.chan p).softStep

theorem stage_congr {s t : State} (h : t.stages = s.stages) (st : Nat) : t.stage st = s.stage st := by
  unfold State.stage
  rw [h]

@[simp] theorem stage_setStage_self (s : State) (st : Nat) (x : Stage) : (s.setStage st x).stage st = x := tabGet_put_self _ _ _ _

theorem stage_setStage_ne (s : State) {st k : Nat} (x : Stage) (h : k ≠ st) : (s.setStage st x).stage k = s.stage k :=
  tabGet_put_ne _ _ _ _ _ h

theorem chan_setChan_ne (s : State) {p q : Nat} (c : Channel) (h : q ≠ p) : (s.setChan p c).chan q = s.chan q :=
  tabGet_put_ne _ _ _ _ _ h

/-- The words that every kind of stage writes as it changes its mode or its legs. -/
structure ModeKeys (K : Nat → Prop) (st : Nat) : Prop where
  stat : K (regKey (pgSG st) 0x8)
  modeIn : K (regKey (pgSG st) 0x700)
  flags : K (regKey (pgSG st) 0x704)
  event : K (fieldKey pgSUP Reg.SUP.AGR_EVT_EVT)

/-- The words that a traction stage writes as it enters a mode (R159, R164). -/
structure EnterKeys (K : Nat → Prop) (st : Nat) : Prop extends ModeKeys K st where
  limit : K (regKey (pgSG st) 0x70C)

/-- The words that a traction stage writes as it decides (R159, R164, R183, R186). -/
structure TracKeys (K : Nat → Prop) (st : Nat) : Prop extends EnterKeys K st where
  iso : K (regKey (pgSG st) 0x18C)

/-- The words that a conversion stage writes as it decides (R190, R196, R197, R223). -/
structure ConvKeys (K : Nat → Prop) (st : Nat) : Prop extends ModeKeys K st where
  ref : K (regKey (pgSG st) 0x180)
  refIn : K (regKey (pgSG st) 0x708)
  trims : K (regKey (pgSG st) 0x18C)
  cause : K (regKey (pgSG st) 0x190)

/-- The words that an actuation stage writes as it decides (R232, R238, R240, R247). -/
structure ActKeys (K : Nat → Prop) (st : Nat) : Prop extends ModeKeys K st where
  ref : K (regKey (pgSG st) 0x1C4)
  refIn : K (regKey (pgSG st) 0x708)
  limitIn : K (regKey (pgSG st) 0x710)
  curveIn : K (regKey (pgSG st) 0x714)
  cause : K (regKey (pgSG st) 0x1CC)

/-- The words that an entry to Off writes in the channels (R249, R262, R532). -/
def ReleaseKeys (K : Nat → Prop) : Prop := ∀ p ∈ channelPages, K (regKey p 0x140) ∧ K (regKey p 0x150)

variable {K : Nat → Prop} {s₀ s t : State} {st : Nat}

theorem Steers.start : Steers K s s := ⟨.start, fun _ => rfl, fun _ _ => ⟨rfl, rfl⟩⟩

theorem Steers.ite {c : Prop} [Decidable c] (hs : Steers K s₀ s) (ht : Steers K s₀ t) : Steers K s₀ (if c then s else t) := by
  split
  · exact hs
  · exact ht

theorem Steers.when {c : Bool} {f : State → State} (h : Steers K s₀ s) (hf : Steers K s₀ (f s)) : Steers K s₀ (s.when c f) :=
  .ite hf h

theorem Steers.each {α : Type} {xs : List α} {f : State → α → State} (h : Steers K s₀ s)
    (hf : ∀ s, ∀ x ∈ xs, Steers K s₀ s → Steers K s₀ (f s x)) : Steers K s₀ (s.each xs f) := by
  unfold State.each
  induction xs generalizing s with
  | nil => exact h
  | cons x xs ih => exact ih (hf s x List.mem_cons_self h) fun s y hy => hf s y (List.mem_cons_of_mem x hy)

section
variable (h : Steers K s₀ s)
include h

/-- A change that leaves the stages and the channels as they are. -/
theorem Steers.spared (g : Spares K s t) (hst : t.stages = s.stages) (hch : t.chans = s.chans) : Steers K s₀ t :=
  ⟨h.spares.trans g, fun k => (congrArg Stage.a (stage_congr hst k)).trans (h.timing k),
    fun p hp => by rw [chan_congr hch]; exact h.soft p hp⟩

theorem Steers.otherParts (hr : t.regs = s.regs) (hc : t.coll = s.coll) (hst : t.stages = s.stages) (hch : t.chans = s.chans) :
    Steers K s₀ t := h.spared (Spares.start.otherParts hr hc) hst hch

theorem Steers.setWord {p o : Nat} (hk : K (regKey p o)) (w : Word) : Steers K s₀ (s.setWord p o w) :=
  h.spared (Spares.start.setWord hk w) (setWord_stages _ _ _ _) (setWord_chans _ _ _ _)

theorem Steers.wr {p : Nat} {f : Field} (hk : K (fieldKey p f)) (v : Nat) : Steers K s₀ (s.wr p f v) := h.setWord hk _

theorem Steers.wrB {p : Nat} {f : Field} (hk : K (fieldKey p f)) (b : Bool) : Steers K s₀ (s.wrB p f b) := h.wr hk _

theorem Steers.reportAs (r : Report) : Steers K s₀ (s.reportAs r) :=
  h.spared (Spares.start.reportAs r) (reportAs_stages _ _) (reportAs_chans _ _)

theorem Steers.reportTp (cls : FaultClass) (code page detail : Nat) (inj : Bool) :
    Steers K s₀ (s.reportTp cls code page detail inj) := h.reportAs _

/-- A stage with the same sample timing. -/
theorem Steers.setStage (st : Nat) (x : Stage) (hx : x.a = (s₀.stage st).a) : Steers K s₀ (s.setStage st x) := by
  refine ⟨h.spares.otherParts rfl rfl, fun k => ?_, h.soft⟩
  by_cases hk : k = st
  · rw [hk, stage_setStage_self, hx]
  · rw [stage_setStage_ne _ _ hk]
    exact h.timing k

/-- A channel with the same soft turn-off, or one whose latch may change. -/
theorem Steers.setChan (p : Nat) (c : Channel) (hc : ¬ K (fieldKey p Reg.XH.CH_STAT_LATCH) →
    c.soft = (s.chan p).soft ∧ c.softStep = (s.chan p).softStep) : Steers K s₀ (s.setChan p c) := by
  refine ⟨h.spares.otherParts rfl rfl, h.timing, fun q hq => ?_⟩
  by_cases hp : q = p
  · subst hp
    rw [chan_setChan_self, (hc hq).1, (hc hq).2]
    exact h.soft q hq
  · rw [chan_setChan_ne _ _ hp]
    exact h.soft q hq

theorem Steers.setGuard (p o : Nat) (g : Guard) : Steers K s₀ (s.setGuard p o g) := h.otherParts rfl rfl rfl rfl

theorem Steers.rearm (p o : Nat) : Steers K s₀ (s.rearm p o) := .ite (h.setGuard p o _) h

theorem Steers.driveLeg (p : Nat) (d : LegDrive) : Steers K s₀ (s.driveLeg p d) := by
  have hc := h.setChan p { s.chan p with
    drive := d, awaiting := if d = .driven then (if (s.chan p).drive = .driven then (s.chan p).awaiting else true) else true
    enAt := if d = (s.chan p).drive then (s.chan p).enAt else s.eu } fun _ => ⟨rfl, rfl⟩
  exact .ite ((hc.rearm p 0).rearm p 1) hc

theorem Steers.dropGuard (p o : Nat) : Steers K s₀ (s.dropGuard p o) := .ite h (h.setGuard p o _)

theorem Steers.releaseLatches (hR : ReleaseKeys K) (st : Nat) : Steers K s₀ (s.releaseLatches st) :=
  h.each fun u p hp g => by
    obtain ⟨hlatch, hguard⟩ := hR p (List.mem_of_mem_filter hp)
    exact ((((g.wrB hlatch false).wrB hguard false).setChan p _ fun hn => absurd hlatch hn).dropGuard p 0).dropGuard p 1

section
variable (hK : ModeKeys K st)
include hK

theorem Steers.agrEvent (n : Nat) : Steers K s₀ (s.agrEvent n) := h.wr hK.event _

theorem Steers.setMode (m : Nat) (host : Bool) : Steers K s₀ (s.setMode st m host) := by
  have hm := fun x hx => (((h.wr (f := Reg.SGT.STAT_MODE) hK.stat m).wr (f := Reg.SGT.STAT_STATE) hK.stat
    (if m = 0 then 0 else 2)).wr (f := Reg.SGW.IN_VALUE 0) hK.modeIn m).setStage st x hx
  refine .ite (hm _ ?_) ((hm _ ?_).agrEvent hK 4) <;> exact h.timing st

theorem Steers.showLegs : Steers K s₀ (s.showLegs st) :=
  .ite ((h.wr (f := legsField 0) hK.stat _).wr (f := legsField 1) hK.stat _) (h.wr (f := legsField 0) hK.stat _)

theorem Steers.setLegCode (set code : Nat) : Steers K s₀ (s.setLegCode st set code) := by
  have hs := h.setStage st (if set = 0 then { s.stage st with legA := code } else { s.stage st with legB := code })
    (by split <;> exact h.timing st)
  exact (hs.each fun _ p _ g => g.driveLeg p _).showLegs hK

theorem Steers.setAllLegs (code : Nat) : Steers K s₀ (s.setAllLegs st code) :=
  .ite ((h.setLegCode hK 0 code).setLegCode hK 1 code) (h.setLegCode hK 0 code)

end

end

end Sys2Proof.Machine
end

section
/-! SUPPORT. The speed rule and an isolation by what they do to a stage (R167, R186). -/

namespace Sys2Proof.Machine

/-- A stage whose standstill timer goes on from `still` (R164). -/
def State.withStill (s : State) (st : Nat) (still : Option Nat) : State :=
  s.setStage st { s.stage st with stillSince := still }

/-- The speed rule turns a forced stage to ASC: within a reaction, or from Forced off (R167). -/
def State.turnAsc (s : State) (st : Nat) (react : Bool) : State :=
  if react then (s.tracEnter st 5 2 2 (react := true)).withStill st (s.stage st).stillSince
  else (s.tracEnter st 5 2 2).reportTp .c 0x4C (pgSG st)

/-- A stage whose automatic ASC has been logged, or not (R167). -/
def State.withForced (s : State) (st : Nat) (logged : Bool) : State :=
  s.setStage st { s.stage st with forcedLogged := logged }

/-- A pending Off is reached, and what automatic ASC has logged stays so (R167). -/
def State.reachOff (s : State) (st : Nat) : State := (s.tracOff st).withForced st (s.stage st).forcedLogged

/-- The speed rule releases a stage from ASC: within a reaction, or to a pending Off (R167). -/
def State.turnOff (s : State) (st : Nat) (react : Bool) : State :=
  if react then (s.tracEnter st 6 1 1 (react := true)).withStill st (s.stage st).stillSince
  else if s.rdB (pgSG st) Reg.SGT.STAT_OFF_PEND then s.reachOff st else s

/-- Automatic ASC in Off, or that it is suppressed for the other domain (R167). -/
def State.autoAsc (s : State) (st : Nat) : State :=
  if s.ruleToAsc st [0, 1] then
    if s.otherDomainOff st then (s.tracEnter st 5 2 2 (offPend := true)).logForced st
    else if (s.stage st).suppressed then s
    else (s.setStage st { s.stage st with suppressed := true }).reportTp .u 0x49 (pgSG st)
  else s.setStage st { s.stage st with suppressed := false }

/-- The speed rule in HOLD of a safe stop (R167). -/
def State.holdRule (s : State) (st : Nat) : State :=
  if (s.stage st).legA = 1 ∧ s.ruleToAsc st [0, 1] then (s.setAllLegs st 2).logForced st
  else if (s.stage st).legA = 2 ∧ s.ruleToOff st 0 then s.setAllLegs st 1
  else s

/-- A set's isolation is recorded, and reported (R186). -/
def State.withIsolation (s : State) (st set cause : Nat) : State :=
  let u := s.wr (pgSG st) (isoField set) cause
  (u.wr (pgSG st) (isoPhaseField set) (((u.stage st).chk set).vecFault)).reportTp .u 0x46 (pgSG st)

/-- What a stage does about a set just isolated: the reaction where no set is left, the set's own code where the stage runs (R184,
R186). -/
def State.afterIsolation (s : State) (st set : Nat) : State :=
  if s.isolated st 0 ∧ s.isolated st 1 ∧ s.runningMode st then s.reaction st
  else if s.runningMode st ∨ s.decel st then
    ((if s.mode st = 2 ∨ s.mode st = 3 then s.setMode st 4 else s).setLegCode st set (s.ruleCode st)).tracShow st
  else s.tracShow st

theorem isolate_eq (s : State) (st set cause : Nat) : s.isolate st set cause =
    if s.isolated st set ∨ s.stageOff st then s else (s.withIsolation st set cause).afterIsolation st set := rfl

theorem speedRule_eq (s : State) (st : Nat) {u : State} (hu : u = (s.ruleOnSet st 0).ruleOnSet st 1) : s.speedRule st =
    if s.mode st = 6 ∧ u.ruleToAsc st [0, 1] then u.turnAsc st (s.rdB (pgSG st) Reg.SGT.STAT_REACT)
    else if s.mode st = 5 ∧ u.ruleToOff st 0 then u.turnOff st (s.rdB (pgSG st) Reg.SGT.STAT_REACT)
    else if s.mode st = 0 ∧ (s.rdB (pgSG st) Reg.SGT.TCFG_OFF_ASC && !s.stoOpen) = true then u.autoAsc st
    else if s.mode st = 7 ∧ ¬ u.decel st ∧ (s.rdB (pgSG st) Reg.SGT.TCFG_OFF_ASC && !s.stoOpen) = true then u.holdRule st
    else u := by
  subst hu
  rfl

end Sys2Proof.Machine
end

section
/-! SUPPORT. What the logic of a traction stage steers (R159 to R186). -/

namespace Sys2Proof.Machine

variable {K : Nat → Prop} {s₀ s : State} {st : Nat} (h : Steers K s₀ s) (hK : TracKeys K st)
include h

theorem Steers.setChk (set : Nat) (c : SetChecks) : Steers K s₀ (s.setChk st set c) :=
  h.setStage st _ (by split <;> exact h.timing st)

theorem Steers.sumCheck (set : Nat) : Steers K s₀ (s.sumCheck st set) := .ite (h.setChk set _) h

theorem Steers.ruleCounts (set : Nat) : Steers K s₀ (s.ruleCounts st set) := h.setChk set _

theorem Steers.stillTimer : Steers K s₀ (s.stillTimer st) := h.setStage st _ (by exact h.timing st)

theorem Steers.formSpeed (hk : K (regKey (pgSG st) 0x180)) (zc : Option Word) : Steers K s₀ (s.formSpeed st zc) :=
  (h.setWord hk _).setStage st _ (by exact h.timing st)

theorem Steers.formNAsc (hk : K (regKey (pgSG st) 0x188)) : Steers K s₀ (s.formNAsc st) :=
  (h.setWord hk _).setStage st _ (by exact h.timing st)

theorem Steers.formTorque (hk : K (regKey (pgSG st) 0x184)) (hi : K (regKey (pgSG st) 0x708)) : Steers K s₀ (s.formTorque st) :=
  (h.setWord hk _).setWord hi _

theorem Steers.logForced : Steers K s₀ (s.logForced st) :=
  .ite h ((h.setStage st _ (by exact h.timing st)).reportTp _ _ _ _ _)

theorem Steers.withStill (still : Option Nat) : Steers K s₀ (s.withStill st still) := h.setStage st _ (by exact h.timing st)

section
variable (hE : EnterKeys K st)
include hE

theorem Steers.tracShow : Steers K s₀ (s.tracShow st) := (h.setWord hE.flags _).setWord hE.limit _

theorem Steers.tracEnter (m legA legB : Nat) (hold react offPend revPend host : Bool) :
    Steers K s₀ (s.tracEnter st m legA legB hold react offPend revPend host) := by
  have hs := ((((h.setMode hE.toModeKeys m host).wrB (f := Reg.SGT.STAT_SS_PHASE) hE.stat hold).wrB (f := Reg.SGT.STAT_REACT)
    hE.stat react).wrB (f := Reg.SGT.STAT_OFF_PEND) hE.stat offPend).wrB (f := Reg.SGT.STAT_REV_PEND) hE.stat revPend
  exact (((hs.setStage st _ (by exact hs.timing st)).setLegCode hE.toModeKeys 0 legA).setLegCode hE.toModeKeys 1 legB).tracShow hE

theorem Steers.reaction : Steers K s₀ (s.reaction st) := by
  have hs := h.tracEnter hE (if s.ruleCode st = 2 then 5 else 6) (s.ruleCode st) (s.ruleCode st) false true false false false
  exact (hs.setStage st _ (by exact hs.timing st)).reportTp _ _ _ _ _

theorem Steers.tracHold : Steers K s₀ (s.tracHold st) := (h.setStage st _ (by exact h.timing st)).tracEnter hE _ _ _ _ _ _ _ _

theorem Steers.overspeedTrip : Steers K s₀ (s.overspeedTrip st) := (h.reportTp _ _ _ _ _).reaction hE

/-- What a stage does about a set just isolated spares the isolation's own words. -/
theorem Steers.afterIsolation (set : Nat) : Steers K s₀ (s.afterIsolation st set) :=
  .ite (h.reaction hE) (.ite (Steers.tracShow (Steers.setLegCode (.ite (h.setMode hE.toModeKeys 4 false) h) hE.toModeKeys set _) hE)
    (h.tracShow hE))

theorem Steers.turnAsc (react : Bool) : Steers K s₀ (s.turnAsc st react) :=
  .ite ((h.tracEnter hE 5 2 2 _ _ _ _ _).withStill _) ((h.tracEnter hE 5 2 2 _ _ _ _ _).reportTp _ _ _ _ _)

theorem Steers.autoAsc : Steers K s₀ (s.autoAsc st) := by
  have hs := fun b => h.setStage st { s.stage st with suppressed := b } (h.timing st)
  exact .ite (.ite (h.tracEnter hE 5 2 2 _ _ _ _ _).logForced (.ite h ((hs true).reportTp _ _ _ _ _))) (hs false)

end

include hK

theorem Steers.tracOff (hR : ReleaseKeys K) (host : Bool) : Steers K s₀ (s.tracOff st host) := by
  have hs := (((h.wrB (f := Reg.SGT.STAT_POS_LOST) hK.stat false).wrB (f := Reg.SGT.STAT_RECON_A) hK.stat false).wrB
    (f := Reg.SGT.STAT_RECON_B) hK.stat false).setWord hK.iso 0
  exact ((hs.setStage st _ (by exact hs.timing st)).tracEnter hK.toEnterKeys 0 1 1 _ _ _ _ host).releaseLatches hR st

theorem Steers.withIsolation (set cause : Nat) : Steers K s₀ (s.withIsolation st set cause) := by
  have hcause : K (fieldKey (pgSG st) (isoField set)) := by unfold isoField; split <;> exact hK.iso
  have hphase : K (fieldKey (pgSG st) (isoPhaseField set)) := by unfold isoPhaseField; split <;> exact hK.iso
  exact ((h.wr hcause _).wr hphase _).reportTp _ _ _ _ _

theorem Steers.isolate (set cause : Nat) : Steers K s₀ (s.isolate st set cause) := by
  rw [isolate_eq]
  exact .ite h ((h.withIsolation hK set cause).afterIsolation hK.toEnterKeys set)

theorem Steers.reconstruct (set k : Nat) : Steers K s₀ (s.reconstruct st set k) := by
  have hrecon : K (fieldKey (pgSG st) (reconField set)) := by unfold reconField; split <;> exact hK.stat
  have hrph : K (fieldKey (pgSG st) (rphField set)) := by unfold rphField; split <;> exact hK.iso
  exact ((((h.wrB hrecon true).wr hrph (k + 1)).setChk set _).reportTp .c 0x45 (pgSG st) 0 false).tracShow hK.toEnterKeys

theorem Steers.setDecision (set : Nat) : Steers K s₀ (s.setDecision st set) := by
  have hr := fun k => h.reconstruct hK set k
  have hi := fun c => h.isolate hK set c
  unfold State.setDecision
  refine .ite h ?_
  split
  · exact .ite (hr _) (hi 1)
  · exact .ite (.ite (hi 1) h) (.ite (.ite (hi 1) h) (.ite (.ite (hr _) (hi 3)) (.ite (hi 2) h)))

theorem Steers.ruleOnSet (set : Nat) : Steers K s₀ (s.ruleOnSet st set) :=
  .ite h (.ite (h.setLegCode hK.toModeKeys set 2) (.ite (h.setLegCode hK.toModeKeys set 1) h))

omit hK in
theorem Steers.withForced (logged : Bool) : Steers K s₀ (s.withForced st logged) := h.setStage st _ (by exact h.timing st)

theorem Steers.reachOff (hR : ReleaseKeys K) : Steers K s₀ (s.reachOff st) := (h.tracOff hK hR false).withForced _

theorem Steers.turnOff (hR : ReleaseKeys K) (react : Bool) : Steers K s₀ (s.turnOff st react) :=
  .ite ((h.tracEnter hK.toEnterKeys 6 1 1 _ _ _ _ _).withStill _) (.ite (h.reachOff hK hR) h)

theorem Steers.holdRule : Steers K s₀ (s.holdRule st) :=
  .ite (h.setAllLegs hK.toModeKeys 2).logForced (.ite (h.setAllLegs hK.toModeKeys 1) h)

theorem Steers.speedRule (hR : ReleaseKeys K) : Steers K s₀ (s.speedRule st) := by
  have hu := (h.ruleOnSet hK 0).ruleOnSet hK 1
  rw [speedRule_eq s st rfl]
  exact .ite (hu.turnAsc hK.toEnterKeys _) (.ite (hu.turnOff hK hR _) (.ite (hu.autoAsc hK.toEnterKeys) (.ite (hu.holdRule hK) hu)))

theorem Steers.speedDriven (hR : ReleaseKeys K) : Steers K s₀ (s.speedDriven st) := by
  have henter := fun m a b revPend => h.tracEnter hK.toEnterKeys m a b false false false revPend false
  exact .ite (.ite (henter _ _ _ _) (henter _ _ _ _)) (.ite (henter _ _ _ _) (.ite (henter _ _ _ _) (h.speedRule hK hR)))

theorem Steers.selectSource : Steers K s₀ (s.selectSource st) := by
  unfold State.selectSource
  extract_lets p hl sel u single was v
  have hu : Steers K s₀ u := .ite h ((h.wr (f := Reg.SGT.STAT_POS_SEL) hK.stat sel).reportTp .c 0x42 p 0 false)
  have hv : Steers K s₀ v := hu.wrB (f := Reg.SGT.STAT_XCHK_SINGLE) hK.stat single
  exact .ite (hv.reportTp _ _ _ _ _) hv

theorem Steers.positionLost : Steers K s₀ (s.positionLost st) := by
  unfold State.positionLost
  extract_lets p xchk u v
  have hu : Steers K s₀ u := .ite (h.reportTp .u 0x44 p 0 false) h
  have hv : Steers K s₀ v := (hu.wrB (f := Reg.SGT.STAT_POS_LOST) hK.stat true).reportTp .u 0x43 p 0 false
  exact .ite ((hv.setStage st _ (by exact hv.timing st)).tracShow hK.toEnterKeys) h

end Sys2Proof.Machine
end

section
/-! SUPPORT. What the logic of a conversion stage steers (R190 to R228). -/

namespace Sys2Proof.Machine

variable {K : Nat → Prop} {s₀ s : State} {st : Nat} (h : Steers K s₀ s)
include h

theorem Steers.windowCounts : Steers K s₀ (s.windowCounts st) := h.setStage st _ (by exact h.timing st)

theorem Steers.rampAllowance (up dn : Word) : Steers K s₀ (s.rampAllowance st up dn).2 := h.setStage st _ (by exact h.timing st)

theorem Steers.formLimit (hl : K (regKey (pgSG 2) 0x184)) (hi : K (regKey (pgSG 2) 0x714)) : Steers K s₀ s.formLimit :=
  ((h.setWord hl _).setWord hi _).setStage 2 _ (by exact h.timing 2)

section
variable (hK : ConvKeys K st)
include hK

theorem Steers.convShow : Steers K s₀ (s.convShow st) := h.setWord hK.flags _

theorem Steers.setRef (w : Word) : Steers K s₀ (s.setRef st w) := (h.setWord hK.ref w).setWord hK.refIn w

theorem Steers.convStop (host : Bool) : Steers K s₀ (s.convStop st host) := by
  have hm := h.setMode hK.toModeKeys 4 host
  exact (hm.setStage st _ (by exact hm.timing st)).convShow hK

theorem Steers.formRef : Steers K s₀ (s.formRef st) := by
  have hr := h.rampAllowance (st := st) (s.sgw st Reg.SGC.RAMP_UP_RATE) (s.sgw st Reg.SGC.RAMP_DN_RATE)
  exact .ite hr (hr.setRef hK _)

end

theorem Steers.setS2 (hK : ConvKeys K 2) (closed : Bool) : Steers K s₀ (s.setS2 closed) :=
  (h.wrB (f := Reg.SGC.STAT_S2) hK.stat closed).convShow hK

theorem Steers.setTrims (hK : ConvKeys K 5) (ts : List Word) : Steers K s₀ (s.setTrims ts) :=
  (h.setStage 5 _ (by exact h.timing 5)).setWord hK.trims _

theorem Steers.releaseOffPend (hK : ConvKeys K 2) : Steers K s₀ s.releaseOffPend :=
  .ite ((h.wrB (f := Reg.SGC.STAT_OFF_PEND) hK.stat false).convStop hK _) h

variable (hC : ∀ k, 2 ≤ k → k < 6 → ConvKeys K k)
include hC

theorem Steers.convOff (hst : 2 ≤ st ∧ st < 6) (hR : ReleaseKeys K) (host : Bool) : Steers K s₀ (s.convOff st host) := by
  have hK := hC st hst.1 hst.2
  have hm := (((h.wrB (f := Reg.SGC.STAT_OFF_PEND) hK.stat false).setMode hK.toModeKeys 0 host).setAllLegs hK.toModeKeys 1).setRef
    hK 0
  have ht := hm.when (c := st = 5) (f := (·.setTrims [0, 0, 0, 0])) (hm.setTrims (hC 5 (by decide) (by decide)) _)
  have hr := ht.releaseLatches hR st
  have hs := (hr.when (c := st = 2) (f := (·.setS2 false)) (hr.setS2 (hC 2 (by decide) (by decide)) _)).convShow hK
  exact hs.when (f := State.releaseOffPend) (hs.releaseOffPend (hC 2 (by decide) (by decide)))

theorem Steers.convTripOne (hst : 2 ≤ st ∧ st < 6) (cause : Nat) : Steers K s₀ (s.convTripOne st cause) := by
  have hK := hC st hst.1 hst.2
  have hm := ((h.wr (f := Reg.SGC.TRIP_CAUSE) hK.cause cause).wrB (f := Reg.SGC.STAT_OFF_PEND) hK.stat false).setMode
    hK.toModeKeys 5 false
  have hr := (hm.setAllLegs hK.toModeKeys (if cause = 9 then 2 else 1)).setRef hK 0
  have h2 := (hr.when (c := st = 2) (f := (·.setS2 false)) (hr.setS2 (hC 2 (by decide) (by decide)) false)).convShow hK
  have hs := h2.reportTp .u (tripFault cause) (pgSG st) 0 false
  exact hs.when (f := State.releaseOffPend) (hs.releaseOffPend (hC 2 (by decide) (by decide)))

theorem Steers.convTrip (hst : 2 ≤ st ∧ st < 6) (cause : Nat) : Steers K s₀ (s.convTrip st cause) :=
  .ite (.ite ((h.convTripOne hC hst cause).convTripOne hC (by decide) 8) (h.convTripOne hC hst cause)) h

theorem Steers.pilotLossTrip : Steers K s₀ s.pilotLossTrip :=
  (h.convTrip hC (by decide) 6).convTrip hC (by decide) 6

theorem Steers.convOffSlow (hst : 2 ≤ st ∧ st < 6) (hR : ReleaseKeys K) (host : Bool) :
    Steers K s₀ (s.convOffSlow st host) := by
  have h2 := hC 2 (by decide) (by decide)
  have hp := (h.wrB (f := Reg.SGC.STAT_OFF_PEND) h2.stat true).convShow h2
  exact .ite (.ite (hp.convOff hC (by decide) hR host) (.ite hp (hp.convStop (hC 3 (by decide) (by decide)) host)))
    (h.convStop (hC st hst.1 hst.2) host)

theorem Steers.stationStop (hR : ReleaseKeys K) : Steers K s₀ s.stationStop := by
  have h2 := hC 2 (by decide) (by decide)
  have h3 := hC 3 (by decide) (by decide)
  have hs := h.wrB (f := Reg.SGC.STAT_EVSE_STOP) h2.stat true
  have hw : Steers K s₀ _ := .ite (c := (s.wrB (pgSG 2) Reg.SGC.STAT_EVSE_STOP true).mode 3 = 0) hs
    (hs.wrB (f := Reg.SGC.STAT_EVSE_STOP) h3.stat true)
  exact .ite (((hw.reportTp .c 0x59 (pgSG 2) 0 false).convOffSlow hC (by decide) hR false).convShow h3) h

theorem Steers.refTransitions (hst : 2 ≤ st ∧ st < 6) (hR : ReleaseKeys K) : Steers K s₀ (s.refTransitions st) := by
  have hK := hC st hst.1 hst.2
  exact .ite ((h.setMode hK.toModeKeys 3 _).convShow hK) (.ite (h.convOff hC hst hR _) h)

end Sys2Proof.Machine
end

section
/-! SUPPORT. What the logic of an actuation stage steers (R232 to R247), and the reaction to a leg's protection (R184, R262). -/

namespace Sys2Proof.Machine

variable {K : Nat → Prop} {s₀ s : State} {st : Nat} (h : Steers K s₀ s)
include h

section
variable (hK : ActKeys K st)
include hK

theorem Steers.actShow : Steers K s₀ (s.actShow st) := ((h.setWord hK.flags _).setWord hK.limitIn _).setWord hK.curveIn _

theorem Steers.setSpdEff (w : Word) : Steers K s₀ (s.setSpdEff st w) := (h.setWord hK.ref w).setWord hK.refIn _

theorem Steers.actEnter (m : Nat) (host : Bool) : Steers K s₀ (s.actEnter st m host) := by
  have hp := (((h.setMode hK.toModeKeys m host).setAllLegs hK.toModeKeys (actLegCode m)).wrB (f := Reg.SGA.STAT_REV_PEND) hK.stat
    (m == 3)).wrB (f := Reg.SGA.STAT_HOLD_PEND) hK.stat false
  exact Steers.actShow (.ite (hp.setSpdEff hK 0) hp) hK

theorem Steers.actOff (hR : ReleaseKeys K) (host : Bool) : Steers K s₀ (s.actOff st host) :=
  ((h.wrB (f := Reg.SGA.STAT_FAILSAFE) hK.stat false).actEnter hK 0 host).releaseLatches hR st

theorem Steers.actTrip (cause : Nat) : Steers K s₀ (s.actTrip st cause) :=
  .ite h (((h.wr (f := Reg.SGA.TRIP_CAUSE) hK.cause cause).actEnter hK 5 _).reportTp _ _ _ _ _)

theorem Steers.formSpdEff : Steers K s₀ (s.formSpdEff st) :=
  (h.rampAllowance (s.sgw st Reg.SGA.ACC_RATE) (s.sgw st Reg.SGA.DEC_RATE)).setSpdEff hK _

theorem Steers.actTransitions (hR : ReleaseKeys K) : Steers K s₀ (s.actTransitions st) :=
  .ite (h.actEnter hK 2 _) (.ite (h.actEnter hK 3 _) (.ite (((h.actEnter hK 1 _).wrB (f := Reg.SGA.STAT_HOLD_PEND) hK.stat
    _).actShow hK) (.ite (h.actEnter hK 6 _) (.ite (h.actOff hK hR _) h))))

end

/-- The reaction to a protection writes words of stages, and agreement events (R184, R262). -/
theorem Steers.protectionReaction (hT : ∀ k, k < 2 → TracKeys K k) (hC : ∀ k, 2 ≤ k → k < 6 → ConvKeys K k)
    (hA : ∀ k, 6 ≤ k → ActKeys K k) (p : Nat) : Steers K s₀ (s.protectionReaction p) := by
  unfold State.protectionReaction
  extract_lets o
  clear_value o
  split
  · next ho => exact h.isolate (hT o (of_decide_eq_true ho)) _ _
  · next ho =>
    split
    · next hc => exact h.convTrip hC (by simpa using hc) 4
    · next hc => exact h.actTrip (hA o (by simp only [decide_eq_true_eq, Bool.and_eq_true] at ho hc; omega)) 4

end Sys2Proof.Machine
end

section
/-! SUPPORT. What the safe stop and an opening of STO steer (R263, R324, R328). -/

namespace Sys2Proof.Machine

/-- The words that the logic of the stages and the STO unit may write: those of every stage's decisions, and the SAF page. -/
structure SafetyKeys (K : Nat → Prop) : Prop where
  trac : ∀ k, k < 2 → TracKeys K k
  conv : ∀ k, 2 ≤ k → k < 6 → ConvKeys K k
  act : ∀ k, 6 ≤ k → ActKeys K k
  saf : ∀ o, o < 0x2000000 → K (regKey pgSAF o)

theorem SafetyKeys.mode {K : Nat → Prop} (hK : SafetyKeys K) (k : Nat) : ModeKeys K k := by
  rcases Nat.lt_or_ge k 2 with h2 | h2
  · exact (hK.trac k h2).toModeKeys
  · rcases Nat.lt_or_ge k 6 with h6 | h6
    · exact (hK.conv k h2 h6).toModeKeys
    · exact (hK.act k h6).toModeKeys

theorem ssResultField_off (st : Nat) : (ssResultField st).off < 0x2000000 := by
  unfold ssResultField
  split <;> decide

variable {K : Nat → Prop} {s₀ s : State} {st : Nat} (h : Steers K s₀ s) (hK : SafetyKeys K)
include h hK

theorem Steers.saf {f : Field} (hf : f.off < 0x2000000) (v : Nat) : Steers K s₀ (s.wr pgSAF f v) := h.wr (hK.saf _ hf) v

theorem Steers.stoReaction (k : Nat) : Steers K s₀ (s.stoReaction k) := by
  have hres : Steers K s₀ (if s.decel k then s.wr pgSAF (ssResultField k) 6 else s) :=
    .ite (h.saf hK (ssResultField_off k) 6) h
  unfold State.stoReaction
  split
  · next ht =>
    have hk := hK.trac k (of_decide_eq_true ht)
    exact .ite h (.ite (hres.setAllLegs hk.toModeKeys 1) (hres.tracHold hk.toEnterKeys))
  · next ht =>
    refine .ite h ?_
    split
    · next hc => exact h.convTrip hK.conv (by simpa using hc) 1
    · next hc => exact h.actTrip (hK.act k (by simp only [decide_eq_true_eq, Bool.and_eq_true] at ht hc; omega)) 1

theorem Steers.endTest : Steers K s₀ s.endTest :=
  Steers.otherParts ((h.saf hK (f := Reg.SAF.STO_STAT_TEST_ACT) (by decide) (bit false)).saf hK (f := Reg.SAF.STO_STAT_TEST_SW)
    (by decide) 0) rfl rfl rfl rfl

theorem Steers.openedSto (cause : Nat) : Steers K s₀ (s.openedSto cause) := by
  have hp : Steers K s₀ (s.stoPaths true true true true) :=
    (((h.saf hK (by decide) _).saf hK (by decide) _).saf hK (by decide) _).saf hK (by decide) _
  have hc := (hp.saf hK (f := Reg.SAF.STO_STAT_OPEN) (by decide) (bit true)).saf hK (f := Reg.SAF.STO_STAT_CAUSE) (by decide) cause
  unfold State.openedSto
  extract_lets u v
  have hv : Steers K s₀ v := (hc.saf hK (f := Reg.SAF.STO_AT_L_STAMP) (by decide) _).saf hK (f := Reg.SAF.STO_AT_H_STAMP)
    (by decide) _
  clear_value v
  refine Steers.reportAs ?_ _
  exact hv.otherParts rfl rfl rfl rfl

theorem Steers.openSto (cause : Nat) : Steers K s₀ (s.openSto cause) := by
  cases ho : s.stoFullyOpen with
  | false =>
    rw [openSto_of_not_open ho]
    have hs : Steers K s₀ (if s.sto.test.isSome then (s.openedSto cause).endTest.reportDike .c 0x8F pgSAF else s.openedSto cause) :=
      .ite (((h.openedSto hK cause).endTest hK).reportAs _) (h.openedSto hK cause)
    exact (hs.each fun _ k _ g => g.stoReaction hK k).each fun _ k _ g => g.showLegs (hK.mode k)
  | true =>
    unfold State.openSto
    rw [if_pos ho]
    exact .ite (h.saf hK (by decide) _) h

theorem Steers.safeStopEnd (hst : st < 2) (result : Nat) : Steers K s₀ (s.safeStopEnd st result) := by
  have hw := h.saf hK (ssResultField_off st) result
  have hr : Steers K s₀ _ := .ite (c := result = 4) (hw.reportTp .u 0x8C pgSAF st false)
    (.ite (c := result = 3) (hw.reportTp .u 0x8E pgSAF st false) (hw.reportTp .c 0x8D pgSAF st false))
  exact (hr.tracHold (hK.trac st hst).toEnterKeys).openSto hK 5

theorem Steers.safeStopSample (hst : st < 2) : Steers K s₀ (s.safeStopSample st) := by
  have hoff : (Reg.SAF.SS_LIMIT_RPM st).off < 0x2000000 := by
    unfold Reg.SAF.SS_LIMIT_RPM
    dsimp only
    omega
  have hw := h.setWord (hK.saf _ hoff) (s.envelope st)
  exact .ite (hw.safeStopEnd hK hst 4) (.ite (hw.safeStopEnd hK hst 3) (.ite (hw.safeStopEnd hK hst 2) hw))

end Sys2Proof.Machine
end

section
/-! SUPPORT. What a change of a stage's mode or legs leaves: the mode and the leg codes, the drives of the legs, and every field of
the stage's page that lies apart from those written (R159, R183, R184). -/

namespace Sys2Proof.Machine

variable {s t : State} {st p q set code m : Nat} {f g : Field}

/-- Two fields of a page that share no bit. -/
abbrev FieldsApart (f g : Field) : Prop := g.off ≠ f.off ∨ g.lo + g.width ≤ f.lo ∨ f.lo + f.width ≤ g.lo

theorem rd_wr_apart (p : Nat) (v : Nat) (h : f.lo + f.width ≤ 32) (ha : FieldsApart f g) : (s.wr p f v).rd p g = s.rd p g := by
  by_cases ho : g.off = f.off
  · exact rd_wr_field p f g v h ho (ha.resolve_left fun hn => hn ho)
  · exact rd_wr_off p f g v ho

theorem rd_wrB_apart (p : Nat) (b : Bool) (h : f.lo + f.width ≤ 32) (ha : FieldsApart f g) : (s.wrB p f b).rd p g = s.rd p g :=
  rd_wr_apart p _ h ha

theorem rd_setWord_off (p : Nat) {o : Nat} (w : Word) (h : g.off ≠ o) : (s.setWord p o w).rd p g = s.rd p g :=
  rd_of_word (word_setWord_off w h)

/-- A field that lies apart from the codes of the legs. -/
abbrev LegsApart (g : Field) : Prop := FieldsApart Reg.SGT.STAT_LEGS_A g ∧ FieldsApart Reg.SGT.STAT_LEGS_B g

/-- A field that a change of the mode leaves: it lies apart from MODE and STATE, and is not input 0. -/
abbrev ModeApart (g : Field) : Prop :=
  FieldsApart Reg.SGT.STAT_MODE g ∧ FieldsApart Reg.SGT.STAT_STATE g ∧ g.off ≠ 0x700 ∧ g.off < 0x2000000

theorem rd_showLegs (hg : LegsApart g) : (s.showLegs st).rd (pgSG st) g = s.rd (pgSG st) g := by
  obtain ⟨hA, hB⟩ := hg
  unfold State.showLegs
  dsimp only
  split
  · exact (rd_wr_apart (f := Reg.SGT.STAT_LEGS_B) _ _ (by decide) hB).trans
      (rd_wr_apart (f := Reg.SGT.STAT_LEGS_A) _ _ (by decide) hA)
  · exact rd_wr_apart (f := Reg.SGT.STAT_LEGS_A) _ _ (by decide) hA

theorem each_driveLeg_parts (s : State) (ps : List Nat) (d : LegDrive) :
    Touches [.guards, .chans] s (s.each ps fun s p => s.driveLeg p d) :=
  (Kept.start.each fun _ p h => h.driveLeg (List.Subset.refl _) p d).same

theorem rearm_parts (s : State) (p o : Nat) : Touches [.guards] s (s.rearm p o) := (Kept.start.rearm (List.Subset.refl _) p o).same

theorem chan_driveLeg (s : State) (p : Nat) (d : LegDrive) (q : Nat) :
    ((s.driveLeg p d).chan q).drive = if q = p then d else (s.chan q).drive := by
  unfold State.driveLeg
  extract_lets c u
  have hu : (u.chan q).drive = if q = p then d else (s.chan q).drive := by
    split
    · next hq => rw [hq]; exact congrArg Channel.drive (chan_setChan_self _ _ _)
    · next hq => exact congrArg Channel.drive (chan_setChan_ne _ _ hq)
  split
  · rw [chan_congr (rearm_parts _ _ _ .chans (by decide)), chan_congr (rearm_parts _ _ _ .chans (by decide)), hu]
  · exact hu

/-- Every leg of a list takes the drive, and one that has it keeps it. -/
theorem each_driveLeg_drive {d : LegDrive} {ps : List Nat} (h : q ∈ ps ∨ (s.chan q).drive = d) :
    ((s.each ps fun s p => s.driveLeg p d).chan q).drive = d := by
  unfold State.each
  induction ps generalizing s with
  | nil => exact h.resolve_left List.not_mem_nil
  | cons p ps ih =>
    refine ih ?_
    rw [chan_driveLeg]
    by_cases hq : q = p
    · exact .inr (if_pos hq)
    · rw [if_neg hq]
      exact h.imp_left fun hm => (List.mem_cons.1 hm).resolve_left hq

theorem rd_setLegCode (hg : LegsApart g) : (s.setLegCode st set code).rd (pgSG st) g = s.rd (pgSG st) g :=
  (rd_showLegs hg).trans (rd_congr (each_driveLeg_parts _ _ _ .regs (by decide)) _ _)

theorem showLegs_parts (s : State) (st : Nat) : Touches [.regs, .pushes] s (s.showLegs st) :=
  (Kept.start.showLegs (List.Subset.refl _) st).same

theorem setLegCode_stage (s : State) (st set code : Nat) : (s.setLegCode st set code).stage st =
    if set = 0 then { s.stage st with legA := code } else { s.stage st with legB := code } := by
  unfold State.setLegCode
  rw [stage_congr (showLegs_parts _ _ .stages (by decide)), stage_congr (each_driveLeg_parts _ _ _ .stages (by decide)),
    stage_setStage_self]

theorem setLegCode_drive (h : q ∈ s.setLegs st set ∨ (s.chan q).drive = s.codeDrive st code) :
    ((s.setLegCode st set code).chan q).drive = s.codeDrive st code := by
  unfold State.setLegCode
  rw [chan_congr (showLegs_parts _ _ .chans (by decide))]
  exact each_driveLeg_drive h

theorem rd_setAllLegs (hg : LegsApart g) : (s.setAllLegs st code).rd (pgSG st) g = s.rd (pgSG st) g := by
  unfold State.setAllLegs
  dsimp only
  split
  · exact (rd_setLegCode hg).trans (rd_setLegCode hg)
  · exact rd_setLegCode hg

/-- An agreement event leaves the words of the stages' pages. -/
theorem rd_agrEvent_stage (n : Nat) (hg : g.off < 0x2000000) : (s.agrEvent n).rd (pgSG st) g = s.rd (pgSG st) g :=
  rd_wr_page pgSUP (pgSG st) Reg.SUP.AGR_EVT_EVT g _ (by unfold pgSG pgSUP; omega) (by decide) hg

/-- The words that a change of the mode writes (R159). -/
def State.modeWords (s : State) (st m : Nat) : State :=
  ((s.wr (pgSG st) Reg.SGT.STAT_MODE m).wr (pgSG st) Reg.SGT.STAT_STATE (if m = 0 then 0 else 2)).wr (pgSG st) (Reg.SGW.IN_VALUE 0) m

/-- A change of the mode writes its words, sets two instants of the stage, and may be an event. -/
theorem setMode_cases (s : State) (st m : Nat) (host : Bool) : ∃ (x : Stage) (a b : Nat),
    x = { s.stage st with modeAt := a, leftOffAt := b } ∧
      (s.setMode st m host = (s.modeWords st m).setStage st x ∨ s.setMode st m host = ((s.modeWords st m).setStage st x).agrEvent 4) :=
  ⟨_, _, _, rfl, ite_eq_or_eq _ _ _⟩

theorem rd_setMode_words (host : Bool) (hg : g.off < 0x2000000) :
    (s.setMode st m host).rd (pgSG st) g = (s.modeWords st m).rd (pgSG st) g := by
  obtain ⟨x, a, b, -, he | he⟩ := setMode_cases s st m host
  · rw [he]
    exact rd_congr (setStage_regs _ _ _) _ _
  · rw [he, rd_agrEvent_stage 4 hg]
    exact rd_congr (setStage_regs _ _ _) _ _

theorem rd_setMode (host : Bool) (hg : ModeApart g) : (s.setMode st m host).rd (pgSG st) g = s.rd (pgSG st) g := by
  obtain ⟨hm, hs, hi, hb⟩ := hg
  rw [rd_setMode_words host hb]
  unfold State.modeWords
  rw [rd_wr_off _ _ _ _ hi, rd_wr_apart _ _ (by decide) hs, rd_wr_apart _ _ (by decide) hm]

theorem mode_setMode (s : State) (st m : Nat) (host : Bool) : (s.setMode st m host).mode st = m % 8 := by
  unfold State.mode
  rw [rd_setMode_words host (by decide)]
  unfold State.modeWords
  rw [rd_wr_off _ _ _ _ (by decide), rd_wr_apart _ _ (by decide) (by decide)]
  exact rd_wr_self _ _ _ (by decide)

/-- A change of the mode sets the instants of the stage that it names, and nothing else of it. -/
theorem setMode_stage (s : State) (st m : Nat) (host : Bool) :
    ∃ a b, (s.setMode st m host).stage st = { s.stage st with modeAt := a, leftOffAt := b } := by
  obtain ⟨x, a, b, rfl, he | he⟩ := setMode_cases s st m host
  · exact ⟨a, b, by rw [he, stage_setStage_self]⟩
  · refine ⟨a, b, ?_⟩
    unfold State.agrEvent State.orBits at he
    rw [he, stage_congr (wr_stages _ _ _ _), stage_setStage_self]

end Sys2Proof.Machine
end

section
/-! SUPPORT. A traction stage that enters a mode: the mode, the codes and the drives of its legs, and the flags of STAT (R159, R164). -/

namespace Sys2Proof.Machine

variable {s t : State} {st set m legA legB : Nat} {hold react offPend revPend host : Bool} {g : Field}

theorem reported_reportTp (s : State) (cls : FaultClass) (code page detail : Nat) (inj : Bool) (h : s.coll.stopped = false) :
    Reported (s.reportTp cls code page detail inj) cls code page := reported_reportAs s _ h

/-- The words of a stage's own page, and of the supervisor's. -/
abbrev stagePages (st : Nat) (k : Nat) : Prop := keyPage k ∈ [pgSG st, pgSUP]

theorem stagePages_key (st : Nat) {o : Nat} (ho : o < 0x2000000) : stagePages st (regKey (pgSG st) o) := by
  rw [stagePages, keyPage_regKey ho]
  exact List.mem_cons_self

theorem modeKeys_pages (st : Nat) : ModeKeys (stagePages st) st where
  stat := stagePages_key st (by decide)
  modeIn := stagePages_key st (by decide)
  flags := stagePages_key st (by decide)
  event := List.mem_cons_of_mem _ List.mem_cons_self

theorem tracKeys_pages (st : Nat) : TracKeys (stagePages st) st where
  toModeKeys := modeKeys_pages st
  limit := stagePages_key st (by decide)
  iso := stagePages_key st (by decide)

theorem mem_channelPages {p : Nat} (h : p ∈ channelPages) : 32 ≤ p ∧ p < 80 :=
  channelPage_bounds (List.contains_iff_mem.2 h)

theorem owner_congr {p : Nat} (h : ∀ o, o < 0x2000000 → t.word p o = s.word p o) : t.owner p = s.owner p := by
  unfold State.owner ownField
  split <;> exact rd_of_word (h _ (by decide))

theorem Spares.legs_owner (h : Spares (stagePages st) s t) {p : Nat} (hp : p ∈ channelPages) : t.owner p = s.owner p := by
  obtain ⟨h32, h80⟩ := mem_channelPages hp
  refine owner_congr fun o ho => h.word ?_
  rw [stagePages, keyPage_regKey ho]
  simp only [List.mem_cons, List.not_mem_nil, or_false, pgSG, pgSUP]
  omega

theorem legs_congr (h : ∀ p ∈ channelPages, t.owner p = s.owner p) (st : Nat) : t.legs st = s.legs st :=
  List.filter_congr fun p hp => by rw [h p hp]

theorem setLegs_congr (h : ∀ p ∈ channelPages, t.owner p = s.owner p) (st set : Nat) : t.setLegs st set = s.setLegs st set := by
  unfold State.setLegs
  rw [legs_congr h]

/-- Both sets of legs off: every leg of either set is driven off. -/
theorem setLegCodes_off (s : State) (st : Nat) {q : Nat} (hq : q ∈ s.setLegs st 0 ++ s.setLegs st 1) :
    ((((s.setLegCode st 0 1).setLegCode st 1 1)).chan q).drive = .off := by
  have hs := (Steers.start (s := s)).setLegCode (modeKeys_pages st) 0 1
  refine setLegCode_drive (code := 1) ?_
  rcases List.mem_append.1 hq with h0 | h1
  · exact .inr (setLegCode_drive (code := 1) (.inl h0))
  · left
    rw [setLegs_congr fun p hp => hs.spares.legs_owner hp]
    exact h1

theorem rd_tracShow (h1 : g.off ≠ 0x704) (h3 : g.off ≠ 0x70C) : (s.tracShow st).rd (pgSG st) g = s.rd (pgSG st) g :=
  (rd_setWord_off _ _ h3).trans (rd_setWord_off _ _ h1)

theorem tracShow_parts (s : State) (st : Nat) : Touches [.regs, .pushes] s (s.tracShow st) :=
  (Kept.start.tracShow (List.Subset.refl _) st).same

/-- The mode and the flags of a stage that enters a mode, before its legs follow (R159). -/
def State.tracFlagged (s : State) (st m : Nat) (hold react offPend revPend host : Bool) : State :=
  ((((s.setMode st m host).wrB (pgSG st) Reg.SGT.STAT_SS_PHASE hold).wrB (pgSG st) Reg.SGT.STAT_REACT react).wrB (pgSG st)
    Reg.SGT.STAT_OFF_PEND offPend).wrB (pgSG st) Reg.SGT.STAT_REV_PEND revPend

/-- The stage as it enters a mode, before its legs follow. -/
def State.tracTimed (s : State) (st : Nat) (was : Bool) : State :=
  s.setStage st { s.stage st with tqFrom := if was then (s.stage st).tqFrom else s.now, stillSince := none }

theorem tracEnter_eq (s : State) (st m legA legB : Nat) (hold react offPend revPend host : Bool) :
    s.tracEnter st m legA legB hold react offPend revPend host =
      (((((s.tracFlagged st m hold react offPend revPend host).tracTimed st (s.torqueMode st)).setLegCode st 0 legA).setLegCode st 1
        legB).tracShow st) := rfl

theorem tracFlagged_flags (s : State) (st m : Nat) (hold react offPend revPend host : Bool) :
    (s.tracFlagged st m hold react offPend revPend host).mode st = m % 8 ∧
    (s.tracFlagged st m hold react offPend revPend host).rdB (pgSG st) Reg.SGT.STAT_SS_PHASE = hold ∧
    (s.tracFlagged st m hold react offPend revPend host).rdB (pgSG st) Reg.SGT.STAT_REACT = react ∧
    (s.tracFlagged st m hold react offPend revPend host).rdB (pgSG st) Reg.SGT.STAT_OFF_PEND = offPend := by
  have hmode := mode_setMode s st m host
  unfold State.tracFlagged State.mode at *
  generalize s.setMode st m host = u at *
  have hw (v : State) (f g : Field) (b : Bool) (hf : f.lo + f.width ≤ 32) (ha : FieldsApart f g) :
      (v.wrB (pgSG st) f b).rdB (pgSG st) g = v.rdB (pgSG st) g := rdB_congr_rd (rd_wrB_apart _ _ hf ha)
  refine ⟨?_, ?_, ?_, ?_⟩
  · rw [rd_wrB_apart _ _ (by decide) (by decide), rd_wrB_apart _ _ (by decide) (by decide), rd_wrB_apart _ _ (by decide) (by decide),
      rd_wrB_apart _ _ (by decide) (by decide), hmode]
  · rw [hw _ _ _ _ (by decide) (by decide), hw _ _ _ _ (by decide) (by decide), hw _ _ _ _ (by decide) (by decide),
      rdB_wrB_self _ _ _ (by decide) rfl]
  · rw [hw _ _ _ _ (by decide) (by decide), hw _ _ _ _ (by decide) (by decide), rdB_wrB_self _ _ _ (by decide) rfl]
  · rw [hw _ _ _ _ (by decide) (by decide), rdB_wrB_self _ _ _ (by decide) rfl]

/-- The stage's record as it enters a mode: its legs, and instants; what a reaction times starts anew (R159, R164). -/
theorem tracEnter_stage (s : State) (st m legA legB : Nat) (hold react offPend revPend host : Bool) : ∃ a b c,
    (s.tracEnter st m legA legB hold react offPend revPend host).stage st =
      { s.stage st with modeAt := a, leftOffAt := b, tqFrom := c, stillSince := none, legA := legA, legB := legB } := by
  obtain ⟨a, b, hm⟩ := setMode_stage s st m host
  have hf : (s.tracFlagged st m hold react offPend revPend host).stage st = { s.stage st with modeAt := a, leftOffAt := b } := by
    unfold State.tracFlagged
    rw [stage_congr (wrB_stages _ _ _ _), stage_congr (wrB_stages _ _ _ _), stage_congr (wrB_stages _ _ _ _),
      stage_congr (wrB_stages _ _ _ _), hm]
  rw [tracEnter_eq, stage_congr (tracShow_parts _ _ .stages (by decide)), setLegCode_stage, setLegCode_stage]
  unfold State.tracTimed
  rw [stage_setStage_self, hf]
  exact ⟨a, b, _, rfl⟩

/-- A field of the stage's page that only an entry's flags may change. -/
theorem rd_tracEnter (hg : LegsApart g) (h1 : g.off ≠ 0x704) (h3 : g.off ≠ 0x70C) :
    (s.tracEnter st m legA legB hold react offPend revPend host).rd (pgSG st) g =
      (s.tracFlagged st m hold react offPend revPend host).rd (pgSG st) g := by
  rw [tracEnter_eq, rd_tracShow h1 h3, rd_setLegCode hg, rd_setLegCode hg]
  exact rd_congr (setStage_regs _ _ _) _ _

/-- A traction stage has entered a mode (R159, R164, R167). -/
theorem tracEnter_in (hm : m < 8) (s : State) (st code : Nat) (hold react offPend revPend host : Bool) :
    TractionIn (s.tracEnter st m code code hold react offPend revPend host) st m code react hold ∧
      (s.tracEnter st m code code hold react offPend revPend host).rdB (pgSG st) Reg.SGT.STAT_OFF_PEND = offPend := by
  obtain ⟨hmode, hhold, hreact, hoff⟩ := tracFlagged_flags s st m hold react offPend revPend host
  obtain ⟨a, b, c, hstage⟩ := tracEnter_stage s st m code code hold react offPend revPend host
  have hrdB (g : Field) (hg : LegsApart g) (h1 : g.off ≠ 0x704) (h3 : g.off ≠ 0x70C) := rdB_congr_rd
    (rd_tracEnter (s := s) (st := st) (m := m) (legA := code) (legB := code) (hold := hold) (react := react) (offPend := offPend)
      (revPend := revPend) (host := host) hg h1 h3)
  exact ⟨⟨((rd_tracEnter (by decide) (by decide) (by decide)).trans hmode).trans (Nat.mod_eq_of_lt hm), by rw [hstage], by rw [hstage],
    (hrdB _ (by decide) (by decide) (by decide)).trans hreact, (hrdB _ (by decide) (by decide) (by decide)).trans hhold⟩,
    (hrdB _ (by decide) (by decide) (by decide)).trans hoff⟩

end Sys2Proof.Machine
end

section
/-! SUPPORT. A traction stage that goes Off: its latches are released and its legs are driven off (R159, R249, R532). -/

namespace Sys2Proof.Machine

variable {s t : State} {st p q : Nat} {host : Bool} {g : Field}

/-- One leg's latch is released, and its guards are dropped (R249, R262, R532). -/
def State.releaseLatch (s : State) (p : Nat) : State :=
  ((((s.wrB p Reg.XH.CH_STAT_LATCH false).wrB p Reg.CHAN.GUARD_TAKEN false).setChan p { s.chan p with soft := false }).dropGuard
    p 0).dropGuard p 1

theorem releaseLatches_eq (s : State) (st : Nat) : s.releaseLatches st = s.each (s.legs st) State.releaseLatch := rfl

theorem dropGuard_parts (s : State) (p o : Nat) : Touches [.guards] s (s.dropGuard p o) :=
  (Kept.start.dropGuard (List.Subset.refl _) p o).same

theorem rd_releaseLatch (s : State) (p q : Nat) (g : Field) : (s.releaseLatch p).rd q g =
    ((s.wrB p Reg.XH.CH_STAT_LATCH false).wrB p Reg.CHAN.GUARD_TAKEN false).rd q g := by
  unfold State.releaseLatch
  rw [rd_congr (dropGuard_parts _ _ _ .regs (by decide)), rd_congr (dropGuard_parts _ _ _ .regs (by decide)),
    rd_congr (setChan_regs _ _ _)]

theorem latched_releaseLatch (s : State) (p q : Nat) :
    (s.releaseLatch p).latched q = if q = p then false else s.latched q := by
  split
  · next hq =>
    refine (rdB_congr_rd (rd_releaseLatch s p q _)).trans ?_
    rw [hq]
    exact (rdB_congr_rd (rd_wrB_apart _ _ (by decide) (by decide))).trans (rdB_wrB_self _ _ _ (by decide) rfl)
  · next hq =>
    refine rdB_congr_rd ((rd_releaseLatch s p q _).trans ?_)
    exact (rd_wr_page _ _ _ _ _ hq (by decide) (by decide)).trans (rd_wr_page _ _ _ _ _ hq (by decide) (by decide))

theorem drive_releaseLatch (s : State) (p q : Nat) : ((s.releaseLatch p).chan q).drive = (s.chan q).drive := by
  unfold State.releaseLatch
  rw [chan_congr (dropGuard_parts _ _ _ .chans (by decide)), chan_congr (dropGuard_parts _ _ _ .chans (by decide))]
  by_cases hq : q = p
  · rw [hq, chan_setChan_self]
  · rw [chan_setChan_ne _ _ hq]
    exact congrArg Channel.drive (chan_congr ((wrB_chans _ _ _ _).trans (wrB_chans _ _ _ _)) q)

/-- No leg of a list stays latched, and none becomes so. -/
theorem each_releaseLatch_latched {ps : List Nat} (h : q ∈ ps ∨ s.latched q = false) :
    (s.each ps State.releaseLatch).latched q = false := by
  unfold State.each
  induction ps generalizing s with
  | nil => exact h.resolve_left List.not_mem_nil
  | cons p ps ih =>
    refine ih ?_
    rw [latched_releaseLatch]
    by_cases hq : q = p
    · exact .inr (if_pos hq)
    · rw [if_neg hq]
      exact h.imp_left fun hm => (List.mem_cons.1 hm).resolve_left hq

theorem each_releaseLatch_drive (s : State) (ps : List Nat) (q : Nat) :
    ((s.each ps State.releaseLatch).chan q).drive = (s.chan q).drive := by
  unfold State.each
  induction ps generalizing s with
  | nil => rfl
  | cons p ps ih => exact (ih _).trans (drive_releaseLatch s p q)

/-- The words of a page that is no channel's stand when latches are released. -/
theorem rd_releaseLatches (s : State) (st : Nat) (hq : q ∉ channelPages) (hg : g.off < 0x2000000) :
    (s.releaseLatches st).rd q g = s.rd q g := by
  have hkey (p o : Nat) (ho : o < 0x2000000) (hp : p ∈ channelPages) : keyPage (regKey p o) ∈ channelPages := by
    rw [keyPage_regKey ho]
    exact hp
  have hR : ReleaseKeys (keyPage · ∈ channelPages) := fun p hp => ⟨hkey p _ (by decide) hp, hkey p _ (by decide) hp⟩
  exact (Steers.start.releaseLatches hR st).spares.rd (by rw [keyPage_fieldKey hg]; exact hq)

theorem stagePage_not_mem (st : Nat) : pgSG st ∉ channelPages := fun h => by
  have := mem_channelPages h
  unfold pgSG at this
  omega

/-- What a stage knew is forgotten as it goes Off (R159, R173, R183). -/
def State.tracCleared (s : State) (st : Nat) : State :=
  let u := (((s.wrB (pgSG st) Reg.SGT.STAT_POS_LOST false).wrB (pgSG st) Reg.SGT.STAT_RECON_A false).wrB (pgSG st)
    Reg.SGT.STAT_RECON_B false).setWord (pgSG st) Reg.SGT.ISO_CAUSE_A.off 0
  u.setStage st { u.stage st with
    chkA := {}, chkB := {}, lost := none, tqStale := none, excluded := 0, syncRuns := 0
    suppressed := false }

theorem tracOff_eq (s : State) (st : Nat) (host : Bool) :
    s.tracOff st host = ((s.tracCleared st).tracEnter st 0 1 1 false false false false host).releaseLatches st := rfl

theorem tracOff_in (s : State) (st : Nat) (host : Bool) : TractionIn (s.tracOff st host) st 0 1 false false ∧
    (s.tracOff st host).rdB (pgSG st) Reg.SGT.STAT_OFF_PEND = false := by
  rw [tracOff_eq]
  obtain ⟨⟨hmode, hA, hB, hreact, hhold⟩, hoff⟩ :=
    tracEnter_in (m := 0) (by decide) (s.tracCleared st) st 1 false false false false host
  generalize (s.tracCleared st).tracEnter st 0 1 1 false false false false host = u at *
  have hparts : Touches [.regs, .pushes, .guards, .chans] u (u.releaseLatches st) :=
    (Kept.start.releaseLatches (List.Subset.refl _) st).same
  have hst := stage_congr (hparts .stages (by decide)) st
  have hrd (g : Field) (hg : g.off < 0x2000000) := rd_releaseLatches u st (stagePage_not_mem st) hg
  exact ⟨⟨(hrd _ (by decide)).trans hmode, by rw [hst, hA], by rw [hst, hB], (rdB_congr_rd (hrd _ (by decide))).trans hreact,
    (rdB_congr_rd (hrd _ (by decide))).trans hhold⟩, (rdB_congr_rd (hrd _ (by decide))).trans hoff⟩

theorem Steers.tracCleared {s₀ : State} (h : Steers (stagePages st) s₀ s) : Steers (stagePages st) s₀ (s.tracCleared st) := by
  have hK := tracKeys_pages st
  have hs := (((h.wrB (f := Reg.SGT.STAT_POS_LOST) hK.stat false).wrB (f := Reg.SGT.STAT_RECON_A) hK.stat false).wrB
    (f := Reg.SGT.STAT_RECON_B) hK.stat false).setWord hK.iso 0
  exact hs.setStage st _ (by exact hs.timing st)

theorem Steers.tracFlagged {s₀ : State} (h : Steers (stagePages st) s₀ s) (m : Nat) (hold react offPend revPend host : Bool) :
    Steers (stagePages st) s₀ (s.tracFlagged st m hold react offPend revPend host) := by
  have hK := tracKeys_pages st
  exact ((((h.setMode hK.toModeKeys m host).wrB (f := Reg.SGT.STAT_SS_PHASE) hK.stat hold).wrB (f := Reg.SGT.STAT_REACT) hK.stat
    react).wrB (f := Reg.SGT.STAT_OFF_PEND) hK.stat offPend).wrB (f := Reg.SGT.STAT_REV_PEND) hK.stat revPend

theorem Steers.tracTimed {K : Nat → Prop} {s₀ : State} (h : Steers K s₀ s) (was : Bool) : Steers K s₀ (s.tracTimed st was) :=
  h.setStage st _ (by exact h.timing st)

theorem tracEnter_off_drive (s : State) (st m : Nat) (hold react offPend revPend host : Bool)
    (hq : q ∈ s.setLegs st 0 ++ s.setLegs st 1) :
    ((s.tracEnter st m 1 1 hold react offPend revPend host).chan q).drive = .off := by
  have hs := ((Steers.start (s := s)).tracFlagged (st := st) m hold react offPend revPend host).tracTimed (st := st)
    (s.torqueMode st)
  have hl (set : Nat) : (((s.tracFlagged st m hold react offPend revPend host).tracTimed st (s.torqueMode st)).setLegs st set) =
      s.setLegs st set := setLegs_congr (fun p hp => hs.spares.legs_owner hp) st set
  rw [tracEnter_eq, chan_congr (tracShow_parts _ _ .chans (by decide))]
  refine setLegCodes_off _ _ ?_
  rw [hl, hl]
  exact hq

/-- The legs of a stage that goes Off: released, and driven off (R159, R249). -/
theorem tracOff_legs (s : State) (st : Nat) (host : Bool) : (∀ p ∈ s.legs st, (s.tracOff st host).latched p = false) ∧
    ∀ p ∈ s.setLegs st 0 ++ s.setLegs st 1, ((s.tracOff st host).chan p).drive = .off := by
  have hc := (Steers.start (s := s)).tracCleared (st := st)
  have hs := hc.tracEnter (tracKeys_pages st).toEnterKeys 0 1 1 false false false false host
  have howner := fun p hp => hs.spares.legs_owner (p := p) hp
  rw [tracOff_eq, releaseLatches_eq]
  refine ⟨fun p hp => each_releaseLatch_latched (.inl ?_), fun p hp => ?_⟩
  · rw [legs_congr howner]
    exact hp
  · rw [each_releaseLatch_drive]
    refine tracEnter_off_drive _ _ _ _ _ _ _ _ ?_
    rw [setLegs_congr fun p hp => hc.spares.legs_owner hp, setLegs_congr fun p hp => hc.spares.legs_owner hp]
    exact hp

end Sys2Proof.Machine
end

section
/-! PROOF. The speed rule, Catch, the loss of the position, a stale torque command and the end of a reaction (O24). -/

namespace Sys2Proof.Machine

variable {s t : State} {st : Nat}

theorem ruleOnSet_of_not (hr : s.runningMode st = false) (hd : s.decel st = false) (set : Nat) : s.ruleOnSet st set = s := by
  unfold State.ruleOnSet
  rw [hr, hd]
  exact if_pos (by simp)

/-- In Off, ASC and Forced off no set is isolated from a driven one: the speed rule of the stage alone acts (R167). -/
theorem speedRule_of_mode (h : s.mode st = 0 ∨ s.mode st = 5 ∨ s.mode st = 6) : s = (s.ruleOnSet st 0).ruleOnSet st 1 := by
  have hr : s.runningMode st = false := by
    unfold State.runningMode
    rcases h with h | h | h <;> rw [h] <;> rfl
  have hd : s.decel st = false := by
    unfold State.decel
    rcases h with h | h | h <;> rw [h] <;> rfl
  rw [ruleOnSet_of_not hr hd, ruleOnSet_of_not hr hd]

theorem speedRule_asc (hm : s.mode st = 6) (h : s.ruleToAsc st [0, 1] = true) :
    s.speedRule st = s.turnAsc st (s.rdB (pgSG st) Reg.SGT.STAT_REACT) := by
  rw [speedRule_eq s st (speedRule_of_mode (.inr (.inr hm))), if_pos ⟨hm, h⟩]

theorem speedRule_off (hm : s.mode st = 5) (h : s.ruleToOff st 0 = true) :
    s.speedRule st = s.turnOff st (s.rdB (pgSG st) Reg.SGT.STAT_REACT) := by
  rw [speedRule_eq s st (speedRule_of_mode (.inr (.inl hm))), if_neg (fun h6 => by simp [hm] at h6), if_pos ⟨hm, h⟩]

theorem speedRule_auto (hm : s.mode st = 0) (h : (s.rdB (pgSG st) Reg.SGT.TCFG_OFF_ASC && !s.stoOpen) = true) :
    s.speedRule st = s.autoAsc st := by
  rw [speedRule_eq s st (speedRule_of_mode (.inl hm)), if_neg (fun h6 => by simp [hm] at h6),
    if_neg (fun h5 => by simp [hm] at h5), if_pos ⟨hm, h⟩]

/-- What a change of registers, stages and reports beside those of `TractionIn` leaves of it. -/
theorem TractionIn.of_parts {m code : Nat} {react hold : Bool} (h : TractionIn s st m code react hold) (hr : t.regs = s.regs)
    (hA : (t.stage st).legA = (s.stage st).legA) (hB : (t.stage st).legB = (s.stage st).legB) :
    TractionIn t st m code react hold := by
  obtain ⟨hmode, ha, hb, hreact, hhold⟩ := h
  exact ⟨(rd_congr hr _ _).trans hmode, hA.trans ha, hB.trans hb, (rdB_congr hr _ _).trans hreact, (rdB_congr hr _ _).trans hhold⟩

theorem TractionIn.reportTp {m code : Nat} {react hold : Bool} (h : TractionIn s st m code react hold) (cls : FaultClass)
    (fault page detail : Nat) (inj : Bool) : TractionIn (s.reportTp cls fault page detail inj) st m code react hold :=
  h.of_parts (reportTp_regs _ _ _ _ _ _) (by rw [stage_congr (reportTp_stages _ _ _ _ _ _)])
    (by rw [stage_congr (reportTp_stages _ _ _ _ _ _)])

theorem TractionIn.setStage {m code : Nat} {react hold : Bool} (h : TractionIn s st m code react hold) {x : Stage}
    (hA : x.legA = (s.stage st).legA) (hB : x.legB = (s.stage st).legB) : TractionIn (s.setStage st x) st m code react hold :=
  h.of_parts (setStage_regs _ _ _) (by rw [stage_setStage_self, hA]) (by rw [stage_setStage_self, hB])

theorem Steers.onlyPages (h : Steers (stagePages st) s t) : OnlyPages [pgSG st, pgSUP] s t := h.spares.onlyPages

theorem tracEnter_parts (s : State) (st m legA legB : Nat) (hold react offPend revPend host : Bool) :
    Touches [.regs, .pushes, .guards, .chans, .stages] s (s.tracEnter st m legA legB hold react offPend revPend host) :=
  (Kept.start.tracEnter (List.Subset.refl _) st m legA legB hold react offPend revPend host).same

theorem tracEnter_now (s : State) (st m legA legB : Nat) (hold react offPend revPend host : Bool) :
    (s.tracEnter st m legA legB hold react offPend revPend host).now = s.now :=
  tracEnter_parts s st m legA legB hold react offPend revPend host .now (by decide)

theorem tracEnter_coll (s : State) (st m legA legB : Nat) (hold react offPend revPend host : Bool) :
    (s.tracEnter st m legA legB hold react offPend revPend host).coll = s.coll :=
  tracEnter_parts s st m legA legB hold react offPend revPend host .coll (by decide)

theorem tracEnter_stopped (s : State) (st m legA legB : Nat) (hold react offPend revPend host : Bool) :
    (s.tracEnter st m legA legB hold react offPend revPend host).coll.stopped = s.coll.stopped :=
  congrArg Collector.stopped (tracEnter_coll s st m legA legB hold react offPend revPend host)

/-- The reaction starts at this instant, and is reported (R164). -/
def State.reactionFrom (s : State) (st : Nat) : State :=
  (s.setStage st { s.stage st with reactAt := s.now }).reportTp .u 0x47 (pgSG st)

theorem reaction_eq (s : State) (st : Nat) : s.reaction st = (s.tracEnter st (if s.ruleCode st = 2 then 5 else 6) (s.ruleCode st)
    (s.ruleCode st) (react := true)).reactionFrom st := rfl

theorem TractionIn.reactionFrom {m code : Nat} {react hold : Bool} (h : TractionIn s st m code react hold) :
    TractionIn (s.reactionFrom st) st m code react hold := (h.setStage (by rfl) (by rfl)).reportTp _ _ _ _ _

theorem reactionFrom_at (s : State) (st : Nat) : ((s.reactionFrom st).stage st).reactAt = s.now := by
  unfold State.reactionFrom
  rw [stage_congr (reportTp_stages _ _ _ _ _ _), stage_setStage_self]

theorem reactionFrom_reported (hs : s.coll.stopped = false) (st : Nat) : Reported (s.reactionFrom st) .u 0x47 (pgSG st) :=
  reported_reportTp _ _ _ _ _ _ hs

/-- The reaction of a stage (R164): ASC or Forced off by its speed, from this instant, and reported. -/
theorem reaction_effect (hs : s.coll.stopped = false) (st : Nat) :
    TractionIn (s.reaction st) st (if s.ruleCode st = 2 then 5 else 6) (s.ruleCode st) true false ∧
      ((s.reaction st).stage st).reactAt = s.now ∧ Reported (s.reaction st) .u 0x47 (pgSG st) := by
  have hm : (if s.ruleCode st = 2 then 5 else 6) < 8 := by split <;> decide
  obtain ⟨hin, -⟩ := tracEnter_in hm s st (s.ruleCode st) false true false false false
  have hstop := (tracEnter_stopped s st (if s.ruleCode st = 2 then 5 else 6) (s.ruleCode st) (s.ruleCode st) false true false false
    false).trans hs
  rw [reaction_eq]
  exact ⟨hin.reactionFrom, (reactionFrom_at _ st).trans (tracEnter_now s st _ _ _ _ _ _ _ _),
    reactionFrom_reported hstop st⟩

end Sys2Proof.Machine
end

section
/-! PROOF. The statement on traction (O24). -/

namespace Sys2Proof.Machine

variable {s t : State} {st : Nat}

theorem turnAsc_free (hs : s.coll.stopped = false) (st : Nat) : TractionIn (s.turnAsc st false) st 5 2 false false ∧
    (s.turnAsc st false).rdB (pgSG st) Reg.SGT.STAT_OFF_PEND = false ∧ Reported (s.turnAsc st false) .c 0x4C (pgSG st) := by
  obtain ⟨hin, hoff⟩ := tracEnter_in (m := 5) (by decide) s st 2 false false false false false
  have hstop := (tracEnter_stopped s st 5 2 2 false false false false false).trans hs
  have he : s.turnAsc st false = (s.tracEnter st 5 2 2).reportTp .c 0x4C (pgSG st) := if_neg Bool.false_ne_true
  rw [he]
  generalize s.tracEnter st 5 2 2 = u at *
  exact ⟨hin.reportTp _ _ _ _ _, (rdB_congr (reportTp_regs _ _ _ _ _ _) _ _).trans hoff, reported_reportTp _ _ _ _ _ _ hstop⟩

theorem TractionIn.withStill {m code : Nat} {react hold : Bool} (h : TractionIn s st m code react hold) (still : Option Nat) :
    TractionIn (s.withStill st still) st m code react hold := h.setStage (by rfl) (by rfl)

theorem withStill_still (s : State) (st : Nat) (still : Option Nat) : ((s.withStill st still).stage st).stillSince = still := by
  unfold State.withStill
  rw [stage_setStage_self]

/-- Within a reaction the speed rule enters ASC, or Forced off, and the standstill timer goes on (R164, R167). -/
theorem turned_effect {m : Nat} (hm : m < 8) (s : State) (st code : Nat) :
    TractionIn ((s.tracEnter st m code code (react := true)).withStill st (s.stage st).stillSince) st m code true false ∧
      (((s.tracEnter st m code code (react := true)).withStill st (s.stage st).stillSince).stage st).stillSince =
        (s.stage st).stillSince ∧
      ((s.tracEnter st m code code (react := true)).withStill st (s.stage st).stillSince).coll = s.coll ∧
      OnlyPages [pgSG st, pgSUP] s ((s.tracEnter st m code code (react := true)).withStill st (s.stage st).stillSince) :=
  ⟨(tracEnter_in hm s st code false true false false false).1.withStill _, withStill_still _ _ _,
    (setStage_coll _ _ _).trans (tracEnter_coll s st m code code false true false false false),
    ((Steers.start.tracEnter (tracKeys_pages st).toEnterKeys _ _ _ _ _ _ _ _).withStill _).onlyPages⟩

theorem TractionIn.logForced {m code : Nat} {react hold : Bool} (h : TractionIn s st m code react hold) :
    TractionIn (s.logForced st) st m code react hold := by
  unfold State.logForced
  split
  · exact h
  · exact (h.setStage (by rfl) (by rfl)).reportTp _ _ _ _ _

theorem logForced_regs (s : State) (st : Nat) : (s.logForced st).regs = s.regs :=
  (Kept.start.logForced (L := [.coll, .stages]) (List.Subset.refl _) st).same .regs (by decide)

theorem logForced_reported (hs : s.coll.stopped = false) (hl : (s.stage st).forcedLogged = false) :
    Reported (s.logForced st) .c 0x4C (pgSG st) := by
  unfold State.logForced
  rw [if_neg (by rw [hl]; decide)]
  exact reported_reportTp _ _ _ _ _ _ hs

theorem tracEnter_forcedLogged (s : State) (st m legA legB : Nat) (hold react offPend revPend host : Bool) :
    ((s.tracEnter st m legA legB hold react offPend revPend host).stage st).forcedLogged = (s.stage st).forcedLogged := by
  obtain ⟨a, b, c, h⟩ := tracEnter_stage s st m legA legB hold react offPend revPend host
  rw [h]

theorem autoAsc_eq (h : s.ruleToAsc st [0, 1] = true) (ho : s.otherDomainOff st = true) :
    s.autoAsc st = (s.tracEnter st 5 2 2 (offPend := true)).logForced st := (if_pos h).trans (if_pos ho)

/-- Automatic ASC in Off (R167). -/
theorem autoAsc_effect (hs : s.coll.stopped = false) (h : s.ruleToAsc st [0, 1] = true) (ho : s.otherDomainOff st = true) :
    TractionIn (s.autoAsc st) st 5 2 false false ∧ (s.autoAsc st).rdB (pgSG st) Reg.SGT.STAT_OFF_PEND = true ∧
      ((s.stage st).forcedLogged = false → Reported (s.autoAsc st) .c 0x4C (pgSG st)) := by
  obtain ⟨hin, hoff⟩ := tracEnter_in (m := 5) (by decide) s st 2 false false true false false
  have hstop := (tracEnter_stopped s st 5 2 2 false false true false false).trans hs
  have hlog := tracEnter_forcedLogged s st 5 2 2 false false true false false
  rw [autoAsc_eq h ho]
  generalize s.tracEnter st 5 2 2 (offPend := true) = u at *
  exact ⟨hin.logForced, (rdB_congr (logForced_regs _ _) _ _).trans hoff, fun hl => logForced_reported hstop (hlog.trans hl)⟩

theorem TractionIn.withForced {m code : Nat} {react hold : Bool} (h : TractionIn s st m code react hold) (logged : Bool) :
    TractionIn (s.withForced st logged) st m code react hold := h.setStage (by rfl) (by rfl)

theorem withForced_regs (s : State) (st : Nat) (logged : Bool) : (s.withForced st logged).regs = s.regs := setStage_regs _ _ _

/-- A pending Off is reached (R167). -/
theorem reachOff_effect (s : State) (st : Nat) : TractionIn (s.reachOff st) st 0 1 false false ∧
    (s.reachOff st).rdB (pgSG st) Reg.SGT.STAT_OFF_PEND = false := by
  obtain ⟨hin, hoff⟩ := tracOff_in s st false
  exact ⟨hin.withForced _, (rdB_congr (withForced_regs _ _ _) _ _).trans hoff⟩

/-- The position is declared lost (R173). -/
def State.losePosition (s : State) (st : Nat) : State :=
  (s.wrB (pgSG st) Reg.SGT.STAT_POS_LOST true).reportTp .u 0x43 (pgSG st)

/-- The torque ramp starts at this instant (R173). -/
def State.startLossRamp (s : State) (st : Nat) : State :=
  s.setStage st { s.stage st with lost := some (s.now, s.sgw st Reg.SGT.TQ_EFF_NM) }

/-- A failed cross-check of the position is reported (R172). -/
def State.reportCrossCheck (s : State) (st : Nat) : State :=
  if bitOf (s.stageCmd st 1).toNat 5 then s.reportTp .u 0x44 (pgSG st) else s

theorem reportCrossCheck_parts (s : State) (st : Nat) : Touches [.coll] s (s.reportCrossCheck st) :=
  (Kept.ite .start fun h => h.reportTp (List.Subset.refl _) _ _ _ _ _).same

theorem positionLost_eq (hn : s.needsPosition st = true) (hl : s.rdB (pgSG st) Reg.SGT.STAT_POS_LOST = false)
    (hh : s.healthySources st = []) :
    s.positionLost st = (((s.reportCrossCheck st).losePosition st).startLossRamp st).tracShow st := by
  unfold State.positionLost
  dsimp only
  rw [if_pos ⟨hn, by simp [hl], .inl hh⟩]
  rfl

theorem startLossRamp_lost (s : State) (st : Nat) :
    (((s.losePosition st).startLossRamp st).stage st).lost = some (s.now, s.sgw st Reg.SGT.TQ_EFF_NM) := by
  have hn : (s.losePosition st).now = s.now := (reportTp_now _ _ _ _ _ _).trans (wrB_now _ _ _ _)
  have hw : (s.losePosition st).sgw st Reg.SGT.TQ_EFF_NM = s.sgw st Reg.SGT.TQ_EFF_NM :=
    (word_congr (reportTp_regs _ _ _ _ _ _) _ _).trans (word_setWord_off _ (by decide))
  rw [← hn, ← hw]
  unfold State.startLossRamp
  rw [stage_setStage_self]

theorem losePosition_flags (s : State) (st : Nat) :
    ((s.losePosition st).startLossRamp st).rdB (pgSG st) Reg.SGT.STAT_POS_LOST = true ∧
      ((s.losePosition st).startLossRamp st).mode st = s.mode st := by
  have hr : ((s.losePosition st).startLossRamp st).regs = (s.wrB (pgSG st) Reg.SGT.STAT_POS_LOST true).regs :=
    (setStage_regs _ _ _).trans (reportTp_regs _ _ _ _ _ _)
  exact ⟨(rdB_congr hr _ _).trans (rdB_wrB_self _ _ _ (by decide) rfl),
    (rd_congr hr _ _).trans (rd_wrB_apart _ _ (by decide) (by decide))⟩

theorem losePosition_reported (hs : s.coll.stopped = false) (st : Nat) :
    Reported ((s.losePosition st).startLossRamp st) .u 0x43 (pgSG st) :=
  reported_reportTp _ _ _ _ _ _ ((congrArg Collector.stopped (wrB_coll _ _ _ _)).trans hs)

theorem Spares.positionLost (h : Spares (keyPage · = pgSG st) s t) :
    Spares (keyPage · = pgSG st) s (((t.losePosition st).startLossRamp st).tracShow st) := by
  have hk (o : Nat) (ho : o < 0x2000000) : keyPage (regKey (pgSG st) o) = pgSG st := keyPage_regKey ho _
  have hp : Spares (keyPage · = pgSG st) s (t.losePosition st) :=
    (h.wrB (f := Reg.SGT.STAT_POS_LOST) (hk _ (by decide)) true).reportAs _
  exact ((hp.otherParts (setStage_regs _ _ _) (setStage_coll _ _ _)).setWord (hk _ (by decide)) _).setWord (hk _ (by decide)) _

theorem positionLost_effect (hn : s.needsPosition st = true) (hl : s.rdB (pgSG st) Reg.SGT.STAT_POS_LOST = false)
    (hh : s.healthySources st = []) (hs : s.coll.stopped = false) :
    (s.positionLost st).rdB (pgSG st) Reg.SGT.STAT_POS_LOST = true ∧
      ((s.positionLost st).stage st).lost = some (s.now, s.sgw st Reg.SGT.TQ_EFF_NM) ∧
      Reported (s.positionLost st) .u 0x43 (pgSG st) ∧ (s.positionLost st).mode st = s.mode st ∧
      OnlyPages [pgSG st] s (s.positionLost st) := by
  have hu := reportCrossCheck_parts s st
  have hus : Spares (keyPage · = pgSG st) s (s.reportCrossCheck st) := .ite (Spares.start.reportAs _) .start
  rw [positionLost_eq hn hl hh]
  generalize s.reportCrossCheck st = u at *
  have hregs : u.regs = s.regs := hu .regs (by decide)
  obtain ⟨hlost, hmode⟩ := losePosition_flags u st
  have hstage := startLossRamp_lost u st
  have hrep := losePosition_reported (hus.stopped.trans hs) st
  have hall := hus.positionLost.words
  generalize (u.losePosition st).startLossRamp st = v at *
  refine ⟨(rdB_congr_rd (rd_tracShow (by decide) (by decide))).trans hlost, ?_, ?_,
    ((rd_tracShow (by decide) (by decide)).trans hmode).trans (rd_congr hregs _ _), fun k hk => hall k fun hp => hk (by simp [hp])⟩
  · rw [stage_congr (tracShow_parts _ _ .stages (by decide)), hstage, hu .now (by decide)]
    exact congrArg (fun w => some (s.now, w)) (word_congr hregs _ _)
  · unfold Reported
    rw [tracShow_parts v st .coll (by decide)]
    exact hrep

theorem tqStaleTimeout_eq (hm : s.torqueMode st = true) (hq : (s.stage st).tqStale = none)
    (hp : s.passed (s.stage st).tqFrom (msTicks (max 1 (s.rd (pgSG st) Reg.SGT.TIMES_TQ_STALE))) = true) : s.tqStaleTimeout st =
      (s.setStage st { s.stage st with tqStale := some (s.now, s.sgw st Reg.SGT.TQ_EFF_NM) }).reportTp .u 0x4A (pgSG st) :=
  if_pos ⟨hm, hq, hp⟩

/-- A stale torque command starts the ramp of the torque (R169). -/
theorem tqStaleTimeout_effect (hm : s.torqueMode st = true) (hq : (s.stage st).tqStale = none) (hs : s.coll.stopped = false)
    (hp : s.passed (s.stage st).tqFrom (msTicks (max 1 (s.rd (pgSG st) Reg.SGT.TIMES_TQ_STALE))) = true) :
    (s.tqStaleTimeout st).stage st = { s.stage st with tqStale := some (s.now, s.sgw st Reg.SGT.TQ_EFF_NM) } ∧
      Reported (s.tqStaleTimeout st) .u 0x4A (pgSG st) ∧ Touches [.coll, .stages] s (s.tqStaleTimeout st) := by
  refine ⟨?_, ?_, (Kept.start.tqStaleTimeout (List.Subset.refl _) st).same⟩
  · rw [tqStaleTimeout_eq hm hq hp, stage_congr (reportTp_stages _ _ _ _ _ _), stage_setStage_self]
  · rw [tqStaleTimeout_eq hm hq hp]
    exact reported_reportTp _ _ _ _ _ _ hs

/-- Catch has not synchronised in time (R180). -/
theorem catchTimeout_effect (hm : s.mode st = 1) (hp : s.passed (s.stage st).modeAt (msTicks 20) = true)
    (hs : s.coll.stopped = false) : TractionIn (s.catchTimeout st) st 0 1 false false ∧ Reported (s.catchTimeout st) .u 0x41 (pgSG st) ∧
      (∀ p, p ∈ s.legs st → (s.catchTimeout st).rdB p Reg.XH.CH_STAT_LATCH = false) ∧
      ∀ p, p ∈ s.setLegs st 0 ++ s.setLegs st 1 → ((s.catchTimeout st).chan p).drive = .off := by
  have hr := reported_reportTp s .u 0x41 (pgSG st) 0 false hs
  have hregs := reportTp_regs s .u 0x41 (pgSG st) 0 false
  have howner : ∀ p ∈ channelPages, (s.reportTp .u 0x41 (pgSG st)).owner p = s.owner p :=
    fun p _ => owner_congr fun o _ => word_congr hregs p o
  have hlegs := legs_congr howner st
  have hsets := setLegs_congr howner st
  have he : s.catchTimeout st = (s.reportTp .u 0x41 (pgSG st)).tracOff st := if_pos ⟨hm, hp⟩
  rw [he]
  generalize s.reportTp .u 0x41 (pgSG st) = u at *
  obtain ⟨hlatch, hdrive⟩ := tracOff_legs u st false
  rw [hlegs] at hlatch
  rw [hsets, hsets] at hdrive
  refine ⟨(tracOff_in u st false).1, ?_, hlatch, hdrive⟩
  unfold Reported
  rw [(Kept.start.tracOff (L := [.regs, .pushes, .guards, .chans, .stages]) (List.Subset.refl _) st false).same .coll (by decide)]
  exact hr

theorem tracHold_eq (s : State) (st : Nat) : s.tracHold st =
    (s.withForced st false).tracEnter st 7 1 1 (hold := true) (react := s.rdB (pgSG st) Reg.SGT.STAT_REACT) := rfl

/-- Settles O24, by the mode that each event enters, its flags, its legs, and the words beside those of the stage. -/
theorem tractionEvents : Obligations.TractionEvents := by
  refine ⟨fun s st hm hr h hs => ⟨_, rfl, ?_⟩, fun s st hm hr h => ⟨_, rfl, ?_⟩, fun s st hm ha ho h hd hs => ⟨_, rfl, ?_⟩,
    fun s st hm hr ho h => ⟨_, rfl, ?_⟩, fun s st hm hp hs => ⟨_, rfl, catchTimeout_effect hm hp hs⟩,
    fun s st h => congrArg Host.Outcome.next (if_neg ?_),
    fun s st hn hl hs hh => ⟨_, rfl, positionLost_effect hn hl hh hs⟩, fun s st x hx hm hp hs => ⟨_, rfl, ?_⟩,
    fun s st hm hq hs hp => ⟨_, rfl, tqStaleTimeout_effect hm hq hs hp⟩, fun s st hm hr h => ⟨_, rfl, ?_⟩⟩
  case refine_1 =>
    rw [speedRule_asc hm h, hr]
    obtain ⟨hin, hoff, hrep⟩ := turnAsc_free hs st.val
    exact ⟨hin, hoff, hrep, (Steers.start.turnAsc (tracKeys_pages st).toEnterKeys false).onlyPages⟩
  case refine_2 =>
    rcases hm with hm | hm
    · rw [if_pos hm] at h
      rw [speedRule_off hm h, hr, hm]
      exact turned_effect (by decide) s st 1
    · rw [if_neg (by omega)] at h
      rw [speedRule_asc hm h, hr, hm]
      exact turned_effect (by decide) s st 2
  case refine_3 =>
    rw [speedRule_auto hm (by rw [ha, ho]; rfl)]
    exact autoAsc_effect hs h hd
  case refine_4 =>
    have he : s.turnOff st false = s.reachOff st := if_pos ho
    rw [speedRule_off hm h, hr, he]
    exact reachOff_effect s st
  case refine_5 =>
    rintro ⟨h1, hp⟩
    rcases h with h | h
    · exact h h1
    · rw [h] at hp
      cases hp
  case refine_6 =>
    have he : s.lossRampEnd st = s.reaction st := by
      unfold State.lossRampEnd
      rw [hx]
      exact if_pos ⟨hm, hp⟩
    rw [he]
    obtain ⟨hin, hat, hrep⟩ := reaction_effect hs st.val
    exact ⟨hin, hat, hrep, (Steers.start.reaction (tracKeys_pages st).toEnterKeys).onlyPages⟩
  case refine_7 =>
    have he : s.reactionEnd st = s.tracHold st := if_pos ⟨hm, hr, by simpa using h⟩
    rw [he]
    refine ⟨?_, (Steers.start.tracHold (tracKeys_pages st).toEnterKeys).onlyPages⟩
    rw [tracHold_eq, hr]
    exact (tracEnter_in (by decide) _ _ _ _ _ _ _ _).1

end Sys2Proof.Machine
end

section
/-! SUPPORT. What a latched leg leaves: the words beside its own three, the ownership of every leg, and its soft turn-off (R259, R262). -/

namespace Sys2Proof.Machine

variable {s t u : State} {p q st prot : Nat}

/-- The words that a latched leg's protection writes. -/
abbrev latchKey (p k : Nat) : Prop := k ∈ [regKey p 0x140, regKey p 0x148, regKey p 0x14C]

theorem latchKey_apart {p q o : Nat} (ho : o < 0x2000000) (h : q ≠ p ∨ o ∉ [0x140, 0x148, 0x14C]) : ¬ latchKey p (regKey q o) := by
  have hne (o' : Nat) (ho' : o' < 0x2000000) : regKey q o = regKey p o' ↔ q = p ∧ o = o' := regKey_inj ho ho'
  unfold latchKey
  simp only [List.mem_cons, List.not_mem_nil, or_false, hne 0x140 (by decide), hne 0x148 (by decide), hne 0x14C (by decide)] at h ⊢
  omega

theorem latchWords_spares (s : State) (p prot : Nat) : Spares (latchKey p) s (s.latchWords p prot) := by
  have hk (i : Nat) (hi : i ∈ [regKey p 0x140, regKey p 0x148, regKey p 0x14C]) : latchKey p i := hi
  exact (((Spares.start.wr (f := Reg.XH.CH_STAT_PROT) (hk _ (by simp [fieldKey, Reg.XH.CH_STAT_PROT])) prot).wrB
      (f := Reg.XH.CH_STAT_LATCH) (hk _ (by simp [fieldKey, Reg.XH.CH_STAT_LATCH])) true).wr
      (f := Reg.XH.PROT_AT_L_STAMP) (hk _ (by simp [fieldKey, Reg.XH.PROT_AT_L_STAMP])) _).wr
      (f := Reg.XH.PROT_AT_H_STAMP) (hk _ (by simp [fieldKey, Reg.XH.PROT_AT_H_STAMP])) _

theorem latchLeg_spares (s : State) (p prot : Nat) (soft : Bool) : Spares (latchKey p) s (s.latchLeg p prot soft) :=
  (latchWords_spares s p prot).otherParts (setChan_regs _ _ _) (setChan_coll _ _ _)

theorem Spares.latch_owner (h : Spares (latchKey p) s t) (q : Nat) : t.owner q = s.owner q := by
  unfold State.owner ownField
  split
  · exact h.rd (latchKey_apart (by decide) (.inr (by decide)))
  · exact h.rd (latchKey_apart (by decide) (.inr (by decide)))

theorem Spares.latch_stage (h : Spares (latchKey p) s t) (hp : p < 80) (st : Nat) {f : Field} (hf : f.off < 0x2000000) :
    t.rd (pgSG st) f = s.rd (pgSG st) f := h.rd (latchKey_apart hf (.inl (by unfold pgSG; omega)))

theorem latchLeg_eq (s : State) (p prot : Nat) (soft : Bool) : s.latchLeg p prot soft =
    (s.latchWords p prot).setChan p { (s.latchWords p prot).chan p with
      soft := soft || ((s.latchWords p prot).chan p).soft
      softStep := if soft ∧ ¬ isXh p then (s.latchWords p prot).rd p Reg.IH.CFG_SOFT_STEP
        else ((s.latchWords p prot).chan p).softStep } := rfl

theorem latchWords_chans (s : State) (p prot : Nat) : (s.latchWords p prot).chans = s.chans :=
  (wrStamp_chans _ _ _ _ _).trans ((wrB_chans _ _ _ _).trans (wr_chans _ _ _ _))

/-- The channel of a leg that has latched (R265). -/
theorem latchLeg_chan (s : State) (p prot : Nat) (soft : Bool) : (s.latchLeg p prot soft).chan p = { s.chan p with
    soft := soft || (s.chan p).soft
    softStep := if soft ∧ ¬ isXh p then s.rd p Reg.IH.CFG_SOFT_STEP else (s.chan p).softStep } := by
  have hc := chan_congr (latchWords_chans s p prot) p
  have hs : (s.latchWords p prot).rd p Reg.IH.CFG_SOFT_STEP = s.rd p Reg.IH.CFG_SOFT_STEP :=
    (latchWords_spares s p prot).rd (latchKey_apart (by decide) (.inr (by decide)))
  rw [latchLeg_eq, chan_setChan_self, hc, hs]

theorem latchLeg_chan_ne (s : State) (prot : Nat) (soft : Bool) (h : q ≠ p) : (s.latchLeg p prot soft).chan q = s.chan q :=
  (chan_setChan_ne _ _ h).trans (chan_congr (latchWords_chans s p prot) q)

/-- The reaction to a protection steers words of stages only. -/
theorem steers_protectionReaction (s : State) (p : Nat) : Steers reactionKey s (s.protectionReaction p) := by
  have hk := reactionKey_stage
  have hm (st : Nat) : ModeKeys reactionKey st := ⟨hk st _, hk st _, hk st _, .inr rfl⟩
  exact Steers.start.protectionReaction (fun k _ => ⟨⟨hm k, hk k _⟩, hk k _⟩) (fun k _ _ => ⟨hm k, hk k _, hk k _, hk k _, hk k _⟩)
    (fun k _ => ⟨hm k, hk k _, hk k _, hk k _, hk k _, hk k _⟩) p

theorem not_reactionKey_channel (hp : 32 ≤ p ∧ p < 80) {o : Nat} (ho : o < 0x2000000) : ¬ reactionKey (regKey p o) := by
  rintro (h | h)
  · rw [keyPage_regKey ho] at h
    omega
  · have := ((regKey_inj ho (by decide)).1 h).1
    unfold pgSUP at this
    omega

/-- The soft turn-off of a leg is spared by the reaction to its trip (R265). -/
theorem protectionReaction_soft (s : State) (q : Nat) (hp : 32 ≤ p ∧ p < 80) :
    ((s.protectionReaction q).chan p).soft = (s.chan p).soft ∧ ((s.protectionReaction q).chan p).softStep = (s.chan p).softStep :=
  (steers_protectionReaction s q).soft p (not_reactionKey_channel hp (by decide))

/-- A leg latched and reported, before its stage reacts (R262). -/
def State.legOut (s : State) (p prot : Nat) (soft inj : Bool) : State := (s.latchLeg p prot soft).reportTp .u 0x4E p prot inj

theorem legOut_spares (s : State) (p prot : Nat) (soft inj : Bool) : Spares (latchKey p) s (s.legOut p prot soft inj) :=
  (latchLeg_spares s p prot soft).reportAs _

theorem legOut_chan (s : State) (p prot : Nat) (soft inj : Bool) (q : Nat) :
    (s.legOut p prot soft inj).chan q = (s.latchLeg p prot soft).chan q := chan_congr (reportTp_chans _ _ _ _ _ _) q

/-- A trip of one leg: latched, reported and reacted to. -/
theorem legOut_latched (hp : 32 ≤ p ∧ p < 80) (hprot : prot < 8) (soft : Bool) (hc : s.coll.stopped = false) :
    LegLatched s ((s.legOut p prot soft false).protectionReaction p) p prot := (legTrip_effect hp hprot soft false hc rfl).1

end Sys2Proof.Machine
end

section
/-! SUPPORT. What a trip of a conversion stage and of an actuation stage leaves (R196, R238). -/

namespace Sys2Proof.Machine

variable {s t : State} {p q st m cause : Nat} {host : Bool} {g : Field}

/-- A field that an actuation stage does not write after it has changed its mode. -/
abbrev ActApart (g : Field) : Prop :=
  LegsApart g ∧ FieldsApart Reg.SGA.STAT_REV_PEND g ∧ FieldsApart Reg.SGA.STAT_HOLD_PEND g ∧
    g.off ∉ [0x1C4, 0x704, 0x708, 0x710, 0x714]

theorem rd_actShow (h : g.off ∉ [0x1C4, 0x704, 0x708, 0x710, 0x714]) : (s.actShow st).rd (pgSG st) g = s.rd (pgSG st) g := by
  simp only [List.mem_cons, List.not_mem_nil, or_false, not_or] at h
  obtain ⟨-, h1, -, h4, h5⟩ := h
  exact (rd_setWord_off _ _ h5).trans ((rd_setWord_off _ _ h4).trans (rd_setWord_off _ _ h1))

theorem rd_setSpdEff (w : Word) (h : g.off ∉ [0x1C4, 0x704, 0x708, 0x710, 0x714]) :
    (s.setSpdEff st w).rd (pgSG st) g = s.rd (pgSG st) g := by
  simp only [List.mem_cons, List.not_mem_nil, or_false, not_or] at h
  obtain ⟨h0, -, h2, -, -⟩ := h
  exact (rd_setWord_off _ _ h2).trans (rd_setWord_off _ _ h0)

theorem rd_actEnter (hg : ActApart g) : (s.actEnter st m host).rd (pgSG st) g = (s.setMode st m host).rd (pgSG st) g := by
  obtain ⟨hlegs, hrev, hhold, hoff⟩ := hg
  have hu : ((((s.setMode st m host).setAllLegs st (actLegCode m)).wrB (pgSG st) Reg.SGA.STAT_REV_PEND (m == 3)).wrB (pgSG st)
      Reg.SGA.STAT_HOLD_PEND false).rd (pgSG st) g = (s.setMode st m host).rd (pgSG st) g := by
    rw [rd_wrB_apart _ _ (by decide) hhold, rd_wrB_apart _ _ (by decide) hrev, rd_setAllLegs hlegs]
  unfold State.actEnter
  dsimp only
  rw [rd_actShow hoff]
  split
  · rw [rd_setSpdEff 0 hoff, hu]
  · exact hu

/-- A running actuation stage that trips is in Tripped, with the cause (R238). -/
theorem actTrip_effect (hm : 1 ≤ s.mode st ∧ s.mode st ≤ 4) (hc : cause < 16) :
    (s.actTrip st cause).mode st = 5 ∧ (s.actTrip st cause).rd (pgSG st) Reg.SGA.TRIP_CAUSE = cause := by
  have he : s.actTrip st cause = ((s.wr (pgSG st) Reg.SGA.TRIP_CAUSE cause).actEnter st 5).reportTp .u (tripFault cause) (pgSG st) :=
    if_neg (by omega)
  have hw : (s.wr (pgSG st) Reg.SGA.TRIP_CAUSE cause).rd (pgSG st) Reg.SGA.TRIP_CAUSE = cause :=
    (rd_wr_self _ _ _ (by decide)).trans (Nat.mod_eq_of_lt hc)
  rw [he]
  generalize s.wr (pgSG st) Reg.SGA.TRIP_CAUSE cause = u at *
  unfold State.mode
  rw [rd_congr (reportTp_regs _ _ _ _ _ _), rd_congr (reportTp_regs _ _ _ _ _ _), rd_actEnter (by decide), rd_actEnter (by decide)]
  exact ⟨mode_setMode u st 5 false, (rd_setMode false (by decide)).trans hw⟩

theorem protectionReaction_act (h : 6 ≤ s.owner p) : s.protectionReaction p = s.actTrip (s.owner p) 4 := by
  unfold State.protectionReaction isTraction isConversion
  dsimp only
  rw [if_neg (by simp only [decide_eq_true_eq]; omega), if_neg (by simp only [Bool.and_eq_true, decide_eq_true_eq]; omega)]

theorem protectionReaction_balance (h : s.owner p = 5) (hm : 1 ≤ s.mode 5 ∧ s.mode 5 ≤ 4) :
    s.protectionReaction p = s.convTripOne 5 4 := by
  have ha : s.convActive 5 = true := by
    unfold State.convActive
    simp [hm.1, hm.2]
  unfold State.protectionReaction
  dsimp only
  rw [h, if_neg (by decide), if_pos (by decide)]
  unfold State.convTrip
  rw [if_pos ha]
  exact if_neg (by simp)

/-- A trip of a conversion stage other than the inlet and the on-board stage: its mode and its words (R196). -/
def State.convTripEntered (s : State) (st cause : Nat) : State :=
  ((s.wr (pgSG st) Reg.SGC.TRIP_CAUSE cause).wrB (pgSG st) Reg.SGC.STAT_OFF_PEND false).setMode st 5

theorem convTripOne_eq (h2 : st ≠ 2) (h3 : st ≠ 3) : s.convTripOne st cause =
    ((((s.convTripEntered st cause).setAllLegs st (if cause = 9 then 2 else 1)).setRef st 0).convShow st).reportTp .u
      (tripFault cause) (pgSG st) := by
  unfold State.convTripOne State.when
  simp only [h2, h3, decide_false, Bool.false_eq_true, if_false]
  rfl

theorem convTripEntered_effect (s : State) (st : Nat) (hc : cause < 16) :
    (s.convTripEntered st cause).mode st = 5 ∧ (s.convTripEntered st cause).rd (pgSG st) Reg.SGC.TRIP_CAUSE = cause := by
  refine ⟨mode_setMode _ st 5 false, (rd_setMode false (by decide)).trans ?_⟩
  rw [rd_wrB_apart _ _ (by decide) (by decide), rd_wr_self _ _ _ (by decide)]
  exact Nat.mod_eq_of_lt hc

theorem refEff_setRef_convShow (s : State) (st : Nat) (w : Word) : ((s.setRef st w).convShow st).refEff st = w := by
  unfold State.refEff State.sgw
  refine (word_setWord_off _ (by decide)).trans ((word_setWord_off _ (by decide)).trans ?_)
  exact word_setWord_self _ _ _

theorem rd_setRef_convShow (w : Word) (h : g.off ∉ [0x180, 0x704, 0x708]) :
    ((s.setRef st w).convShow st).rd (pgSG st) g = s.rd (pgSG st) g := by
  simp only [List.mem_cons, List.not_mem_nil, or_false, not_or] at h
  obtain ⟨h0, h1, h2⟩ := h
  exact (rd_setWord_off _ _ h1).trans ((rd_setWord_off _ _ h2).trans (rd_setWord_off _ _ h0))

theorem setRef_convShow_parts (s : State) (st : Nat) (w : Word) : Touches [.regs, .pushes] s ((s.setRef st w).convShow st) :=
  ((Kept.start.setRef (List.Subset.refl _) st w).convShow (List.Subset.refl _) st).same

/-- The balancing stage has entered Tripped and its legs are off, before its reference follows (R196). -/
def State.balanceOut (s : State) : State := (s.convTripEntered 5 4).setLegCode 5 0 1

theorem convTripOne_balance (s : State) : s.convTripOne 5 4 =
    (((s.balanceOut).setRef 5 0).convShow 5).reportTp .u (tripFault 4) (pgSG 5) := convTripOne_eq (by decide) (by decide)

theorem balanceOut_effect (s : State) : s.balanceOut.mode 5 = 5 ∧ s.balanceOut.rd (pgSG 5) Reg.SGC.TRIP_CAUSE = 4 ∧
    LegsBecome s s.balanceOut 5 1 .off ∧ s.balanceOut.coll.stopped = s.coll.stopped := by
  have hk (o : Nat) (ho : o < 0x2000000) := stagePages_key 5 ho
  have hsteer : Steers (stagePages 5) s (s.convTripEntered 5 4) :=
    ((Steers.start.wr (f := Reg.SGC.TRIP_CAUSE) (hk _ (by decide)) 4).wrB (f := Reg.SGC.STAT_OFF_PEND) (hk _ (by decide))
      false).setMode (modeKeys_pages 5) 5 false
  obtain ⟨hmode, hcause⟩ := convTripEntered_effect s 5 (cause := 4) (by decide)
  have hlegs := setLegs_congr (fun p hp => hsteer.spares.legs_owner hp) 5 0
  unfold State.balanceOut
  refine ⟨(rd_setLegCode (by decide)).trans hmode, (rd_setLegCode (by decide)).trans hcause, ⟨?_, fun q hq => ?_⟩,
    (hsteer.setLegCode (modeKeys_pages 5) 0 1).spares.stopped⟩
  · rw [setLegCode_stage, if_pos rfl]
  · exact setLegCode_drive (code := 1) (.inl (by rw [hlegs]; exact hq))

/-- The balancing stage trips: Tripped, its reference 0, its legs off, reported (R196). -/
theorem convTripOne_tripped (hs : s.coll.stopped = false) : Tripped s (s.convTripOne 5 4) 5 4 := by
  obtain ⟨hmode, hcause, ⟨hleg, hdrive⟩, hstop⟩ := balanceOut_effect s
  rw [convTripOne_balance]
  generalize s.balanceOut = v at *
  have hparts := setRef_convShow_parts v 5 0
  have href := refEff_setRef_convShow v 5 0
  have hmode' := (rd_setRef_convShow 0 (by decide)).trans hmode
  have hcause' := (rd_setRef_convShow 0 (by decide)).trans hcause
  generalize (v.setRef 5 0).convShow 5 = w at *
  have hregs := reportTp_regs w .u (tripFault 4) (pgSG 5) 0 false
  have hcoll := (congrArg Collector.stopped (hparts .coll (by decide))).trans (hstop.trans hs)
  refine ⟨(rd_congr hregs _ _).trans hmode', (rd_congr hregs _ _).trans hcause', (word_congr hregs _ _).trans href,
    ⟨?_, fun q hq => ?_⟩, reported_reportTp w _ _ _ _ _ hcoll⟩
  · rw [stage_congr (reportTp_stages _ _ _ _ _ _), stage_congr (hparts .stages (by decide))]
    exact hleg
  · rw [chan_congr (reportTp_chans _ _ _ _ _ _), chan_congr (hparts .chans (by decide))]
    exact hdrive q hq

end Sys2Proof.Machine
end

section
/-! SUPPORT. Both legs of a set shorted: every leg of the stage latches with code 5, at once (R261). -/

namespace Sys2Proof.Machine

variable {s t u : State} {p q first r : Nat}

/-- One leg of a stage whose legs short one another: latched with code 5, without a soft turn-off's steps (R261). -/
def State.doubleLatch (p first : Nat) (s : State) (q : Nat) : State :=
  let u := if q = p ∨ q = first ∨ ¬ s.latched q then s.latchLeg q 5 true else s.wr q Reg.XH.CH_STAT_PROT 5
  u.setChan q { u.chan q with softStep := 0 }

theorem doubleLeg_eq (s : State) (p first : Nat) (inj : Bool) : s.doubleLeg p first inj =
    (((s.each (s.legs (s.owner p)) (State.doubleLatch p first)).reportTp .u 0x4E first 5 inj).reportTp .u 0x4E p 5
      inj).protectionReaction p := rfl

/-- A leg latched with code 5, whose soft turn-off takes no steps. -/
def DoubleHeld (s : State) (q : Nat) : Prop := LegHeld s q 5 ∧ (s.chan q).softStep = 0

theorem doubleLatch_now (s : State) (p first q : Nat) : (s.doubleLatch p first q).now = s.now := by
  unfold State.doubleLatch
  dsimp only
  rw [setChan_now]
  split
  · exact (latchLeg_effect s q (prot := 5) (by decide) true).2.2.2.1
  · exact wr_now _ _ _ _

theorem doubleLatch_spares (s : State) (p first q : Nat) : Spares (latchKey q) s (s.doubleLatch p first q) := by
  unfold State.doubleLatch
  dsimp only
  refine Spares.otherParts (.ite (latchLeg_spares s q 5 true) (Spares.start.wr ?_ 5)) (setChan_regs _ _ _) (setChan_coll _ _ _)
  exact List.mem_cons_self

theorem doubleLatch_held (s : State) (p first q : Nat) : DoubleHeld (s.doubleLatch p first q) q := by
  unfold State.doubleLatch
  dsimp only
  refine ⟨LegHeld.of_word ?_ (word_congr (setChan_regs _ _ _) _ _), by rw [chan_setChan_self]⟩
  split
  · exact (latchLeg_effect s q (by decide) true).1
  · next hn =>
    have hl : s.latched q = true := by
      by_contra hf
      exact hn (.inr (.inr hf))
    exact ⟨(rdB_congr_rd (rd_wr_apart _ _ (by decide) (by decide))).trans hl, rd_wr_self _ _ _ (by decide)⟩

theorem doubleLatch_chan_ne (s : State) (p first : Nat) (h : r ≠ q) : (s.doubleLatch p first q).chan r = s.chan r := by
  unfold State.doubleLatch
  dsimp only
  rw [chan_setChan_ne _ _ h]
  split
  · exact latchLeg_chan_ne s 5 true h
  · exact chan_congr (wr_chans _ _ _ _) r

/-- A leg held so stays held as another follows, or as it latches once more. -/
theorem DoubleHeld.doubleLatch (h : DoubleHeld s r) (p first q : Nat) : DoubleHeld (s.doubleLatch p first q) r := by
  by_cases hr : r = q
  · rw [hr]
    exact doubleLatch_held s p first q
  · exact ⟨h.1.of_word ((doubleLatch_spares s p first q).word (latchKey_apart (by decide) (.inl hr))),
      (congrArg Channel.softStep (doubleLatch_chan_ne s p first hr)).trans h.2⟩

/-- The words that a stage's legs write as they all latch. -/
def legWords (k : Nat) : Prop := ∃ q, latchKey q k

theorem each_doubleLatch (s : State) (p first : Nat) (legs : List Nat) :
    Spares legWords s (s.each legs (State.doubleLatch p first)) ∧ (s.each legs (State.doubleLatch p first)).now = s.now ∧
      ∀ q, q ∈ legs ∨ DoubleHeld s q → DoubleHeld (s.each legs (State.doubleLatch p first)) q := by
  unfold State.each
  induction legs generalizing s with
  | nil => exact ⟨.start, rfl, fun q h => h.resolve_left List.not_mem_nil⟩
  | cons x xs ih =>
    obtain ⟨hs, hn, hd⟩ := ih (s.doubleLatch p first x)
    refine ⟨Spares.trans ((doubleLatch_spares s p first x).mono fun k hk => ⟨x, hk⟩) hs,
      hn.trans (doubleLatch_now s p first x), fun q h => hd q ?_⟩
    rcases h with h | h
    · rcases List.mem_cons.1 h with rfl | h
      · exact .inr (doubleLatch_held s p first q)
      · exact .inl h
    · exact .inr (h.doubleLatch p first x)

/-- Both legs are reported with the instant, and every leg of the stage is held (R261). -/
theorem doubleLeg_effect (hc : s.coll.stopped = false) (p first : Nat) (inj : Bool) :
    ReportedAt (s.doubleLeg p first inj) .u 0x4E first 5 (some s.now) ∧
      ReportedAt (s.doubleLeg p first inj) .u 0x4E p 5 (some s.now) ∧
      ∀ q, q ∈ s.legs (s.owner p) → DoubleHeld (s.doubleLeg p first inj) q := by
  obtain ⟨hs, hn, hd⟩ := each_doubleLatch s p first (s.legs (s.owner p))
  rw [doubleLeg_eq]
  generalize s.each (s.legs (s.owner p)) (State.doubleLatch p first) = u at *
  have hr1 : ReportedAt (u.reportTp .u 0x4E first 5 inj) .u 0x4E first 5 (some u.now) :=
    reportedAt_reportAs u _ (hs.stopped.trans hc)
  have hnow := reportTp_now u .u 0x4E first 5 inj
  have hr2 : ReportedAt ((u.reportTp .u 0x4E first 5 inj).reportTp .u 0x4E p 5 inj) .u 0x4E p 5
      (some (u.reportTp .u 0x4E first 5 inj).now) :=
    reportedAt_reportAs _ _ ((reportAs_stopped u _).trans (hs.stopped.trans hc))
  have hregs : ((u.reportTp .u 0x4E first 5 inj).reportTp .u 0x4E p 5 inj).regs = u.regs :=
    (reportTp_regs _ _ _ _ _ _).trans (reportTp_regs _ _ _ _ _ _)
  have hchans : ((u.reportTp .u 0x4E first 5 inj).reportTp .u 0x4E p 5 inj).chans = u.chans :=
    (reportTp_chans _ _ _ _ _ _).trans (reportTp_chans _ _ _ _ _ _)
  have hr1' : ReportedAt ((u.reportTp .u 0x4E first 5 inj).reportTp .u 0x4E p 5 inj) .u 0x4E first 5 (some u.now) :=
    (Spares.start (K := reactionKey)).reportTp .u 0x4E p 5 inj |>.reportedAt hr1
  rw [hnow] at hr2
  rw [← hn]
  generalize (u.reportTp .u 0x4E first 5 inj).reportTp .u 0x4E p 5 inj = v at *
  have hv := steers_protectionReaction v p
  refine ⟨hv.spares.reportedAt hr1', hv.spares.reportedAt hr2, fun q hq => ?_⟩
  obtain ⟨hheld, hstep⟩ := hd q (.inl hq)
  have hb := mem_channelPages (List.mem_of_mem_filter hq)
  exact ⟨(hheld.of_word (word_congr hregs _ _)).of_word (hv.spares.word_channel hb (by decide)),
    (protectionReaction_soft v p hb).2.trans ((congrArg Channel.softStep (chan_congr hchans q)).trans hstep)⟩

end Sys2Proof.Machine
end

section
/-! SUPPORT. A driver fault of a traction leg: its set is isolated with cause 5, and reported (R184, R186). -/

namespace Sys2Proof.Machine

variable {s t u : State} {p st set : Nat}

/-- The keys of every word beside those of an isolation. -/
abbrev besideIso (st k : Nat) : Prop := k ≠ regKey (pgSG st) 0x18C

theorem besideIso_key (st : Nat) {p o : Nat} (ho : o < 0x2000000) (h : p ≠ pgSG st ∨ o ≠ 0x18C) : besideIso st (regKey p o) :=
  fun he => by
    obtain ⟨hp, hO⟩ := (regKey_inj ho (by decide)).1 he
    exact h.elim (fun h => h hp) fun h => h hO

theorem enterKeys_besideIso (st : Nat) : EnterKeys (besideIso st) st where
  stat := besideIso_key st (by decide) (.inr (by decide))
  modeIn := besideIso_key st (by decide) (.inr (by decide))
  flags := besideIso_key st (by decide) (.inr (by decide))
  event := besideIso_key st (by decide) (.inl (by unfold pgSG pgSUP; omega))
  limit := besideIso_key st (by decide) (.inr (by decide))

theorem isoField_off (set : Nat) : (isoField set).off = 0x18C ∧ (isoField set).width = 3 ∧ (isoField set).lo + 3 ≤ 32 := by
  unfold isoField
  split <;> decide

theorem isoField_apart (set : Nat) : FieldsApart (isoPhaseField set) (isoField set) ∧
    (isoPhaseField set).lo + (isoPhaseField set).width ≤ 32 := by
  unfold isoField isoPhaseField
  split <;> decide

theorem withIsolation_field (s : State) (st set cause : Nat) (hc : cause < 8) :
    (s.withIsolation st set cause).rd (pgSG st) (isoField set) = cause := by
  obtain ⟨hoff, hw, hlo⟩ := isoField_off set
  obtain ⟨hapart, hphase⟩ := isoField_apart set
  refine (rd_congr (reportTp_regs _ _ _ _ _ _) _ _).trans ((rd_wr_apart _ _ hphase hapart).trans ?_)
  rw [rd_wr_self _ _ _ (by rw [hw]; exact hlo), hw]
  exact Nat.mod_eq_of_lt hc

theorem isolate_effect (hc : s.coll.stopped = false) (hi : s.isolated st set = false) (hm : s.runningMode st = true)
    {cause : Nat} (hcause : cause < 8) : (s.isolate st set cause).rd (pgSG st) (isoField set) = cause ∧
      Reported (s.isolate st set cause) .u 0x46 (pgSG st) := by
  have hoff : s.stageOff st = false := by
    unfold State.runningMode at hm
    unfold State.stageOff
    simp only [Bool.and_eq_true, decide_eq_true_eq] at hm
    simp only [beq_eq_false_iff_ne]
    omega
  have hr : Reported (s.withIsolation st set cause) .u 0x46 (pgSG st) :=
    reported_reportTp _ _ _ _ _ _ ((congrArg Collector.stopped ((wr_coll _ _ _ _).trans (wr_coll _ _ _ _))).trans hc)
  have hf := withIsolation_field s st set cause hcause
  rw [isolate_eq, if_neg (by simp [hi, hoff])]
  generalize s.withIsolation st set cause = u at *
  have h := (Steers.start (s := u)).afterIsolation (enterKeys_besideIso st) set
  refine ⟨Eq.trans (h.spares.rd ?_) hf, h.spares.reported hr⟩
  intro hne
  exact hne (congrArg (regKey (pgSG st)) (isoField_off set).1)

theorem protectionReaction_trac (h : s.owner p < 2) : s.protectionReaction p =
    s.isolate (s.owner p) (if s.role p < 3 then 0 else 1) 5 := if_pos (decide_eq_true h)

theorem runningMode_congr (h : t.mode st = s.mode st) : t.runningMode st = s.runningMode st := by
  unfold State.runningMode
  rw [h]

/-- The stage of a leg that has latched, as its reaction finds it. -/
theorem Spares.latch_found (h : Spares (latchKey p) s t) (hp : p < 80) : t.owner p = s.owner p ∧ t.role p = s.role p ∧
    (∀ st, t.mode st = s.mode st) ∧ ∀ st set, t.isolated st set = s.isolated st set := by
  have hlegs := fun st => legs_congr (fun q _ => h.latch_owner q) st
  refine ⟨h.latch_owner p, ?_, fun st => h.latch_stage hp st (by decide), fun st set => ?_⟩
  · unfold State.role
    rw [h.latch_owner, hlegs]
  · unfold State.isolated
    rw [h.latch_stage hp st (by rw [(isoField_off set).1]; decide)]

end Sys2Proof.Machine
end

section
/-! PROOF. Protection of the channels (O29). -/

namespace Sys2Proof.Machine

variable {s t : State} {p prot : Nat}

theorem shortTrip_one {still : Bool} (h : s.secondOfSet p still = []) (prot : Nat) :
    s.shortTrip p prot still false = (s.legOut p prot true false).protectionReaction p := by
  unfold State.shortTrip
  rw [h]
  rfl

theorem shortTrip_two {still : Bool} {first : Nat} (h : (s.secondOfSet p still).head? = some first) (prot : Nat) :
    s.shortTrip p prot still false = s.doubleLeg p first false := by
  obtain ⟨xs, hx⟩ := List.head?_eq_some_iff.1 h
  unfold State.shortTrip
  rw [hx]

/-- The soft turn-off of an integrated leg that trips (R265). -/
theorem legOut_soft (s : State) (ch : Fin 16) (prot : Nat) :
    (((s.legOut (pgIH ch) prot true false).protectionReaction (pgIH ch)).chan (pgIH ch)).soft = true ∧
      (((s.legOut (pgIH ch) prot true false).protectionReaction (pgIH ch)).chan (pgIH ch)).softStep =
        s.rd (pgIH ch) Reg.IH.CFG_SOFT_STEP := by
  have hb : 32 ≤ pgIH ch ∧ pgIH ch < 80 := by unfold pgIH; omega
  have hx : isXh (pgIH ch) = false := by
    unfold isXh pgIH
    exact decide_eq_false (by omega)
  obtain ⟨hsoft, hstep⟩ := protectionReaction_soft (s.legOut (pgIH ch) prot true false) (pgIH ch) hb
  rw [hsoft, hstep, legOut_chan, latchLeg_chan]
  exact ⟨rfl, if_pos ⟨rfl, by simp [hx]⟩⟩

/-- An actuation stage that runs trips with its leg (R238). -/
theorem legOut_actTrip {soft : Bool} (hp : p < 80) (ho : 6 ≤ s.owner p) (hm : 1 ≤ s.mode (s.owner p) ∧ s.mode (s.owner p) ≤ 4) :
    ((s.legOut p prot soft false).protectionReaction p).mode (s.owner p) = 5 ∧
      ((s.legOut p prot soft false).protectionReaction p).rd (pgSG (s.owner p)) Reg.SGA.TRIP_CAUSE = 4 := by
  obtain ⟨howner, -, hmode, -⟩ := (legOut_spares s p prot soft false).latch_found hp
  generalize s.legOut p prot soft false = u at *
  rw [protectionReaction_act (by rw [howner]; exact ho), howner]
  exact actTrip_effect (by rw [hmode]; exact hm) (by decide)

theorem Tripped.of_legs {st cause : Nat} (h : Tripped s t st cause) {u : State} (hl : u.legs st = s.legs st) :
    Tripped u t st cause := by
  obtain ⟨hmode, hcause, href, ⟨hleg, hdrive⟩, hrep⟩ := h
  exact ⟨hmode, hcause, href, ⟨hleg, fun q hq => hdrive q (by rw [← hl]; exact hq)⟩, hrep⟩

/-- The balancing stage trips with its leg (R196). -/
theorem legOut_balanceTrip {soft : Bool} (hp : p < 80) (hs : s.coll.stopped = false) (ho : s.owner p = 5)
    (hm : 1 ≤ s.mode 5 ∧ s.mode 5 ≤ 4) : Tripped s ((s.legOut p prot soft false).protectionReaction p) 5 4 := by
  have hspares := legOut_spares s p prot soft false
  obtain ⟨howner, -, hmode, -⟩ := hspares.latch_found hp
  have hlegs := legs_congr (fun q _ => hspares.latch_owner q) 5
  generalize s.legOut p prot soft false = u at *
  rw [protectionReaction_balance (howner.trans ho) (by rw [hmode]; exact hm)]
  exact (convTripOne_tripped (hspares.stopped.trans hs)).of_legs hlegs.symm

/-- A traction stage that runs isolates the set of its leg (R184, R186). -/
theorem legOut_isolates {soft : Bool} (hp : p < 80) (hs : s.coll.stopped = false) (ho : s.owner p < 2)
    (hm : s.runningMode (s.owner p) = true) (hi : s.isolated (s.owner p) (if s.role p < 3 then 0 else 1) = false) :
    ((s.legOut p prot soft false).protectionReaction p).rd (pgSG (s.owner p)) (isoField (if s.role p < 3 then 0 else 1)) = 5 ∧
      Reported ((s.legOut p prot soft false).protectionReaction p) .u 0x46 (pgSG (s.owner p)) := by
  have hspares := legOut_spares s p prot soft false
  obtain ⟨howner, hrole, hmode, hiso⟩ := hspares.latch_found hp
  generalize s.legOut p prot soft false = u at *
  rw [protectionReaction_trac (by rw [howner]; exact ho), howner, hrole]
  exact isolate_effect (hspares.stopped.trans hs) ((hiso _ _).trans hi) ((runningMode_congr (hmode _)).trans hm) (by decide)

/-- The pin of an external driver: its level, and since when it is low (R259). -/
theorem fltPin_effect (s : State) (p : Nat) (low : Bool) : (s.fltPin p low).rdB p Reg.XH.CH_STAT_FLT_PIN = low ∧
    (s.fltPin p low).chan p = { s.chan p with fltLow := if low then some ((s.chan p).fltLow.getD s.now) else none } ∧
    Changes [.chans] [fieldKey p Reg.XH.CH_STAT_FLT_PIN] s (s.fltPin p low) := by
  have hregs : (s.fltPin p low).regs = (s.wrB p Reg.XH.CH_STAT_FLT_PIN low).regs := setChan_regs _ _ _
  refine ⟨(rdB_congr hregs _ _).trans (rdB_wrB_self _ _ _ (by decide) rfl), ?_,
    (Kept.start.fltPin (List.Subset.refl _) p low).same, (onlyWords_setWord _ _ _ _).followedBy hregs⟩
  unfold State.fltPin
  dsimp only
  rw [chan_setChan_self, wrB_now]
  cases low with
  | false => rfl
  | true => cases hf : (s.chan p).fltLow <;> rfl

/-- Settles O29, by the latch, the report and the stage's reaction of each trip. -/
theorem channelProtection : Obligations.ChannelProtection := by
  refine ⟨fun s ch high still he hon hb h2 hs => ⟨_, rfl, ?_⟩, fun s ch high still h => congrArg Host.Outcome.next (if_neg ?_),
    fun s ch high still hon h2 hs => ⟨_, rfl, ?_⟩, fun s ch high still first hon h2 hs => ⟨_, rfl, ?_⟩,
    fun s ch high still h => congrArg Host.Outcome.next (if_neg (by simp [h])), fun s ch hd hl hs => ⟨_, rfl, ?_⟩,
    fun s ch h => congrArg Host.Outcome.next (if_neg ?_),
    fun s ch => ⟨⟨_, rfl, fltPin_effect s _ true⟩, _, rfl, fltPin_effect s _ false⟩⟩
  case refine_1 =>
    have hbound : 32 ≤ pgIH ch ∧ pgIH ch < 80 := by unfold pgIH; omega
    have hprot : (if high then 1 else 2) < 8 := by split <;> decide
    have ht : s.vdsTrip (pgIH ch) high still = (s.legOut (pgIH ch) (if high then 1 else 2) true false).protectionReaction (pgIH ch) :=
      (if_pos ⟨he, hon, hb⟩).trans (shortTrip_one h2 _)
    obtain ⟨hsoft, hstep⟩ := legOut_soft s ch (if high then 1 else 2)
    rw [ht]
    exact ⟨legOut_latched hbound hprot true hs, hsoft, hstep, fun h6 _ h1 h4 => legOut_actTrip hbound.2 h6 ⟨h1, h4⟩⟩
  case refine_2 =>
    rintro ⟨he, hon, hb⟩
    simp [he, hon, hb] at h
  case refine_3 =>
    have hbound : 32 ≤ pgIH ch ∧ pgIH ch < 80 := by unfold pgIH; omega
    have ht : s.hardShort (pgIH ch) high still = (s.legOut (pgIH ch) 3 true false).protectionReaction (pgIH ch) :=
      (if_pos hon).trans (shortTrip_one h2 3)
    rw [ht]
    exact ⟨legOut_latched hbound (by decide) true hs, fun ho h1 h4 => legOut_balanceTrip hbound.2 hs ho ⟨h1, h4⟩⟩
  case refine_4 =>
    have ht : s.hardShort (pgIH ch) high still = s.doubleLeg (pgIH ch) first false := (if_pos hon).trans (shortTrip_two h2 3)
    rw [ht]
    obtain ⟨hfirst, hself, hheld⟩ := doubleLeg_effect hs (pgIH ch) first false
    exact ⟨hfirst, hself, fun q hq => and_assoc.1 (hheld q hq)⟩
  case refine_5 =>
    have hbound : 32 ≤ pgXH ch ∧ pgXH ch < 80 := by unfold pgXH; omega
    have ht : s.driverFault (pgXH ch) = (s.legOut (pgXH ch) 4 false false).protectionReaction (pgXH ch) :=
      if_pos ⟨hd, by simp [hl]⟩
    rw [ht]
    exact ⟨legOut_latched hbound (by decide) false hs, fun ho hm hi => legOut_isolates hbound.2 hs ho hm hi⟩
  case refine_6 =>
    rintro ⟨hd, hl⟩
    simp [hd, hl] at h

end Sys2Proof.Machine
end

section
/-! SUPPORT. The start of a period: the timing of its set, and what else of the stages and of their pages it leaves (R155, R156, R157). -/

namespace Sys2Proof.Machine

variable {s₀ s t : State} {st set k : Nat}

/-- The other stages are as they were, and so is the timing of set A of this one. -/
structure StageKept (st : Nat) (s₀ s : State) : Prop where
  timing : (s.stage st).a = (s₀.stage st).a
  others : ∀ k, k ≠ st → s.stage k = s₀.stage k

theorem StageKept.start : StageKept st s s := ⟨rfl, fun _ _ => rfl⟩

theorem StageKept.followedBy (h : StageKept st s₀ s) (ht : t.stages = s.stages) : StageKept st s₀ t :=
  ⟨(congrArg Stage.a (stage_congr ht st)).trans h.timing, fun k hk => (stage_congr ht k).trans (h.others k hk)⟩

theorem StageKept.setStage (h : StageKept st s₀ s) {x : Stage} (hx : x.a = (s.stage st).a) : StageKept st s₀ (s.setStage st x) :=
  ⟨by rw [stage_setStage_self, hx]; exact h.timing, fun k hk => (stage_setStage_ne _ _ hk).trans (h.others k hk)⟩

theorem StageKept.ite {c : Prop} [Decidable c] (hs : StageKept st s₀ s) (ht : StageKept st s₀ t) :
    StageKept st s₀ (if c then s else t) := by
  split
  · exact hs
  · exact ht

theorem StageKept.setTrims (h : StageKept 5 s₀ s) (ts : List Word) : StageKept 5 s₀ (s.setTrims ts) :=
  (h.setStage (x := { s.stage 5 with trims := ts }) rfl).followedBy (setWord_stages _ _ _ _)

theorem StageKept.convShow (h : StageKept 5 s₀ s) : StageKept 5 s₀ (s.convShow 5) := h.followedBy (setWord_stages _ _ _ _)

/-- Balancing changes the balancing stage, and not its timing (R225, R226). -/
theorem StageKept.balance (h : StageKept 5 s₀ s) : StageKept 5 s₀ s.balance := by
  unfold State.balance
  extract_lets p amps avg y u₁ ts u₂ atLimit x n u₃ u₄
  have h₁ : StageKept 5 s₀ u₁ := h.setStage rfl
  have h₂ : StageKept 5 s₀ u₂ := h₁.setTrims ts
  have h₃ : StageKept 5 s₀ u₃ := h₂.setStage rfl
  have h₄ : StageKept 5 s₀ u₄ := (h₃.followedBy (wrB_stages _ _ _ _)).convShow
  exact .ite (h.setTrims _) (.ite h (.ite h₁ (.ite (StageKept.convShow (h₃.followedBy (wrB_stages _ _ _ _)))
    (.ite (.ite h₄ (StageKept.followedBy (h₄.setStage (by rfl)) (reportTp_stages _ _ _ _ _ _))) h₃))))

theorem bridgePeriod_stages (s : State) (st start : Nat) : (s.bridgePeriod st start).stages = s.stages :=
  (Kept.start.bridgePeriod (L := [.regs, .pushes, .chans]) (List.Subset.refl _) st start).same .stages (by decide)

theorem buckPeriod_stages (s : State) (start : Nat) : (s.buckPeriod start).stages = s.stages :=
  (Kept.start.buckPeriod (L := [.regs, .pushes, .chans]) (List.Subset.refl _) start).same .stages (by decide)

/-- What a stage does at the start of its period leaves the other stages, and its own timing. -/
theorem StageKept.periodActions (h : StageKept st s₀ s) (start : Nat) : StageKept st s₀ (s.periodActions st start) := by
  unfold State.periodActions
  split
  · exact h.followedBy (bridgePeriod_stages _ _ _)
  · split
    · next h5 =>
      subst h5
      exact h.balance.followedBy (buckPeriod_stages _ _)
    · exact h

/-- The timing of a set whose period starts (R155, R156, R157). -/
def State.newTiming (s : State) (st set at_ : Nat) : SetTiming where
  started := true
  start := at_
  prev := ((s.stage st).timing set).start
  done := 0
  period := if set = 0 then s.periodReg st else (s.stage st).a.period
  samp := if set = 0 then s.rd (pgSG st) Reg.SGT.SAMP_OFFSET else (s.stage st).a.samp
  double := isTraction st && s.rdB (pgSG st) Reg.SGT.TCFG_UPDATE

theorem startPeriod_eq (s : State) (st set at_ : Nat) : s.startPeriod st set at_ =
    (s.setStage st ((s.stage st).withTiming set (s.newTiming st set at_))).each
      ((s.setStage st ((s.stage st).withTiming set (s.newTiming st set at_))).setLegs st set) fun s p => s.legPeriodStart at_ p := rfl

theorem each_legPeriodStart_parts (s : State) (ps : List Nat) (at_ : Nat) :
    Touches [.regs, .pushes, .chans] s (s.each ps fun s p => s.legPeriodStart at_ p) :=
  (Kept.start.each fun _ p h => h.legPeriodStart (List.Subset.refl _) at_ p).same

theorem startPeriod_stage (s : State) (st set at_ : Nat) :
    (s.startPeriod st set at_).stage st = (s.stage st).withTiming set (s.newTiming st set at_) := by
  rw [startPeriod_eq, stage_congr (each_legPeriodStart_parts _ _ _ .stages (by decide)), stage_setStage_self]

theorem startPeriod_stage_ne (s : State) (set at_ : Nat) (hk : k ≠ st) : (s.startPeriod st set at_).stage k = s.stage k := by
  rw [startPeriod_eq, stage_congr (each_legPeriodStart_parts _ _ _ .stages (by decide)), stage_setStage_ne _ _ hk]

theorem Spares.legPeriodStart {K : Nat → Prop} (h : Spares K s₀ s) {p : Nat} (hp : K (regKey p 0x158)) (at_ : Nat) :
    Spares K s₀ (s.legPeriodStart at_ p) := by
  unfold State.legPeriodStart
  extract_lets c u
  have hu : Spares K s₀ u := by
    unfold u
    split
    · exact .ite ((h.wr (f := Reg.CHAN.PHASE_EU) hp _).otherParts (setChan_regs _ _ _) (setChan_coll _ _ _)) h
    · exact h
  clear_value u
  exact hu.otherParts rfl rfl

/-- The words of a stage's page stand at the start of a period. -/
theorem rdB_startPeriod (s : State) (st set at_ q : Nat) {f : Field} (hf : f.off < 0x2000000) :
    (s.startPeriod st set at_).rdB (pgSG q) f = s.rdB (pgSG q) f := by
  have hlegs (u : State) : ∀ p ∈ u.setLegs st set, p ∈ channelPages := fun p hp => by
    have hmem : p ∈ u.legs st := by
      unfold State.setLegs at hp
      split at hp
      · split at hp
        · exact List.mem_of_mem_take hp
        · exact List.mem_of_mem_drop (List.mem_of_mem_take hp)
      · exact hp
    exact List.mem_of_mem_filter hmem
  rw [startPeriod_eq]
  have hr := setStage_regs s st ((s.stage st).withTiming set (s.newTiming st set at_))
  generalize s.setStage st ((s.stage st).withTiming set (s.newTiming st set at_)) = u at *
  have h : Spares (keyPage · ∈ channelPages) u (u.each (u.setLegs st set) fun s p => s.legPeriodStart at_ p) :=
    Spares.start.each fun v p hp g => g.legPeriodStart (by
      rw [keyPage_regKey (by decide)]
      exact hlegs u p hp) at_
  refine (h.rdB ?_).trans (rdB_congr hr _ _)
  rw [keyPage_fieldKey hf]
  exact stagePage_not_mem q

theorem reloadGuards_parts (s : State) (st : Option Nat) : Touches [.guards] s (s.reloadGuards st) :=
  (Kept.start.reloadGuards (List.Subset.refl _) st).same

/-- Guards follow a new period, and no stage changes (R144). -/
theorem periodStart_stage (s : State) (st set k : Nat) :
    (s.periodStart st set).stage k = (if set = 0 then s.periodStartA st else s.periodStartB st).stage k := by
  unfold State.periodStart
  dsimp only
  generalize (if set = 0 then s.periodStartA st else s.periodStartB st) = u
  split
  · rfl
  · exact stage_congr (reloadGuards_parts _ _ .stages (by decide)) k

end Sys2Proof.Machine
end

section
/-! SUPPORT. Period starts of sets A and B, and commands of the stage logic that come too early (R155, R156, R157, R197, R228). -/

namespace Sys2Proof.Machine

variable {s t : State} {st set k : Nat}

/-- Set A starts a period, and the stage acts at its start (R155, R197, R228). -/
def State.startedA (s : State) (st : Nat) : State :=
  (s.startPeriod st 0 (nextStart (s.stage st).a s.eu)).periodActions st (nextStart (s.stage st).a s.eu)

theorem startedA_kept (s : State) (st : Nat) :
    StageKept st (s.startPeriod st 0 (nextStart (s.stage st).a s.eu)) (s.startedA st) := StageKept.start.periodActions _

theorem startedA_timing (s : State) (st : Nat) :
    ((s.startedA st).stage st).a = s.newTiming st 0 (nextStart (s.stage st).a s.eu) := by
  rw [(startedA_kept s st).timing, startPeriod_stage]
  rfl

theorem startedA_others (s : State) (hk : k ≠ st) : (s.startedA st).stage k = s.stage k :=
  ((startedA_kept s st).others k hk).trans (startPeriod_stage_ne s 0 _ hk)

theorem startedA_rdB (ht : isTraction st = true) (s : State) {f : Field} (hf : f.off < 0x2000000) :
    (s.startedA st).rdB (pgSG st) f = s.rdB (pgSG st) f := by
  have h2 : st < 2 := of_decide_eq_true ht
  have he : s.startedA st = s.startPeriod st 0 (nextStart (s.stage st).a s.eu) := by
    unfold State.startedA State.periodActions
    rw [if_neg (by omega), if_neg (by omega)]
  rw [he]
  exact rdB_startPeriod s st 0 _ st hf

theorem periodStartA_eq (h : nextStart (s.stage st).a s.eu ≤ s.eu + 19) : s.periodStartA st =
    if isTraction st ∧ ¬ (s.startedA st).rdB (pgSG st) Reg.SGT.TCFG_B_CARRIER then
      (s.startedA st).startPeriod st 1 (nextStart (s.stage st).a s.eu) else s.startedA st := if_pos h

theorem periodStartA_timing (h : nextStart (s.stage st).a s.eu ≤ s.eu + 19) :
    ((s.periodStartA st).stage st).a = s.newTiming st 0 (nextStart (s.stage st).a s.eu) := by
  rw [periodStartA_eq h, ← startedA_timing]
  split
  · rw [startPeriod_stage]
    rfl
  · rfl

theorem periodStartA_others (h : nextStart (s.stage st).a s.eu ≤ s.eu + 19) (hk : k ≠ st) :
    (s.periodStartA st).stage k = s.stage k := by
  rw [periodStartA_eq h, ← startedA_others s hk]
  split
  · exact startPeriod_stage_ne _ 1 _ hk
  · rfl

/-- Without a carrier of its own, set B starts with set A (R157). -/
theorem periodStartA_setB (h : nextStart (s.stage st).a s.eu ≤ s.eu + 19) (ht : isTraction st = true)
    (hb : s.rdB (pgSG st) Reg.SGT.TCFG_B_CARRIER = false) :
    ((s.periodStartA st).stage st).b.start = nextStart (s.stage st).a s.eu ∧
      ((s.periodStartA st).stage st).b.period = s.periodReg st := by
  have hc : (s.startedA st).rdB (pgSG st) Reg.SGT.TCFG_B_CARRIER = false := (startedA_rdB ht s (by decide)).trans hb
  rw [periodStartA_eq h, if_pos ⟨ht, by simp [hc]⟩, startPeriod_stage]
  exact ⟨rfl, congrArg SetTiming.period (startedA_timing s st)⟩

theorem periodStartA_early (h : s.eu + 19 < nextStart (s.stage st).a s.eu) : s.periodStart st 0 = s := by
  have he : s.periodStartA st = s := if_neg (by omega)
  unfold State.periodStart
  dsimp only
  rw [if_pos rfl, he]
  exact if_pos rfl

theorem periodStartB_eq (ht : isTraction st = true) (ha : (s.stage st).a.started = true) (hd : s.nextStartB st ≤ s.eu + 19)
    (hb : (s.stage st).b.started = false ∨ (s.stage st).b.start < s.nextStartB st) :
    s.periodStartB st = s.startPeriod st 1 (s.nextStartB st) :=
  if_pos ⟨ht, ha, hd, hb.imp_left fun h => by simp [h]⟩

theorem stageSample_early {zc : Option Word}
    (h : ((s.stage st).timing set).nextSample = none ∨
      ((s.stage st).timing set).nextSample.all (fun due => s.eu + 19 < due) = true) : s.stageSample st set zc = s := by
  unfold State.stageSample
  split
  · next due hdue =>
    rw [hdue] at h
    refine if_neg ?_
    simpa using h
  · rfl

theorem stageSample_due {zc : Option Word} {due : Nat} (hn : (s.stage st).a.nextSample = some due) (hd : due ≤ s.eu + 19) :
    s.stageSample st 0 zc =
      if isTraction st then (s.sampleTaken st 0).tracSample st 0 zc
      else if isConversion st then (s.sampleTaken st 0).convSample st
      else if isActuation st then (s.sampleTaken st 0).actSample st
      else s.sampleTaken st 0 := by
  have hn' : ((s.stage st).timing 0).nextSample = some due := hn
  unfold State.stageSample
  rw [hn']
  exact if_pos hd

theorem sampleTaken_done (s : State) (st : Nat) : ((s.sampleTaken st 0).stage st).a.done = (s.stage st).a.done + 1 := by
  unfold State.sampleTaken
  rw [stage_setStage_self]
  rfl

end Sys2Proof.Machine
end

section
/-! SUPPORT. What a stage does with its samples steers every word but those of the inputs that the samples form (R527). -/

namespace Sys2Proof.Machine

variable {s₀ s t : State} {st p o : Nat} {offs : List Nat} {K : Nat → Prop}

/-- The keys beside listed words of a stage's page. -/
abbrev besideWords (st : Nat) (offs : List Nat) (k : Nat) : Prop := ∀ o ∈ offs, k ≠ regKey (pgSG st) o

theorem besideWords_key (hb : ∀ o ∈ offs, o < 0x2000000) (ho : o < 0x2000000) (h : p ≠ pgSG st ∨ o ∉ offs) :
    besideWords st offs (regKey p o) := fun o' ho' he => by
  obtain ⟨rfl, rfl⟩ := (regKey_inj ho (hb o' ho')).1 he
  exact h.elim (fun h => h rfl) fun h => h ho'

theorem Steers.word_of_listed (h : Steers (besideWords st offs) s t) (ho : o ∈ offs) : t.word (pgSG st) o = s.word (pgSG st) o :=
  h.spares.word fun hk => hk o ho rfl

/-- Stamped inputs: the instant of the stamp, and the words beside it. -/
theorem stampInputs_effect (s : State) (st : Nat) : InputsStamped s (s.stampInputs st) st ∧
    ∀ o, o ∉ [0x780, 0x784] → (s.stampInputs st).word (pgSG st) o = s.word (pgSG st) o := by
  refine ⟨rd_wrStamp s _ s.now ⟨rfl, rfl⟩ ⟨rfl, rfl⟩ (by decide), fun o ho => ?_⟩
  simp only [List.mem_cons, List.not_mem_nil, or_false, not_or] at ho
  exact (word_setWord_off _ ho.2).trans (word_setWord_off _ ho.1)

theorem releaseKeys_beside (hb : ∀ o ∈ offs, o < 0x2000000) : ReleaseKeys (besideWords st offs) := fun p hp => by
  have hne : p ≠ pgSG st := by
    have := mem_channelPages hp
    unfold pgSG
    omega
  exact ⟨besideWords_key hb (by decide) (.inl hne), besideWords_key hb (by decide) (.inl hne)⟩

/-- The inputs of a traction stage that its samples form. -/
abbrev tracInputWords : List Nat := [0x714, 0x780, 0x784]

/-- The inputs of a conversion stage that its samples form. -/
abbrev convInputWords : List Nat := [0x70C, 0x710]

/-- The input of an actuation stage that its samples form. -/
abbrev actInputWords : List Nat := [0x70C]

theorem modeKeys_beside {k : Nat} (hb : ∀ o ∈ offs, 0x70C ≤ o ∧ o < 0x2000000) : ModeKeys (besideWords st offs) k := by
  have hlow (o : Nat) (ho : o < 0x70C) : o ∉ offs := fun h => absurd (hb o h).1 (by omega)
  have hk (o : Nat) (ho : o < 0x70C) : besideWords st offs (regKey (pgSG k) o) :=
    besideWords_key (fun o h => (hb o h).2) (by omega) (.inr (hlow o ho))
  exact ⟨hk _ (by decide), hk _ (by decide), hk _ (by decide),
    besideWords_key (fun o h => (hb o h).2) (by decide) (.inl (by unfold pgSG pgSUP; omega))⟩

theorem stageWord_beside (hb : ∀ o ∈ offs, 0x70C ≤ o ∧ o < 0x2000000) (k : Nat) {o : Nat} (ho : o < 0x70C) :
    besideWords st offs (regKey (pgSG k) o) :=
  besideWords_key (fun o h => (hb o h).2) (by omega) (.inr fun h => absurd (hb o h).1 (by omega))

theorem convKeys_beside (hb : ∀ o ∈ offs, 0x70C ≤ o ∧ o < 0x2000000) (k : Nat) : ConvKeys (besideWords st offs) k where
  toModeKeys := modeKeys_beside hb
  ref := stageWord_beside hb k (by decide)
  refIn := stageWord_beside hb k (by decide)
  trims := stageWord_beside hb k (by decide)
  cause := stageWord_beside hb k (by decide)

theorem safetyKeys_beside (hst : st < 2) : SafetyKeys (besideWords st tracInputWords) := by
  have hb : ∀ o ∈ tracInputWords, 0x70C ≤ o ∧ o < 0x2000000 := by decide
  have hbound : ∀ o ∈ tracInputWords, o < 0x2000000 := by decide
  have hlow (k : Nat) {o : Nat} (ho : o < 0x70C) : besideWords st tracInputWords (regKey (pgSG k) o) := stageWord_beside hb k ho
  have hpage {q o : Nat} (ho : o < 0x2000000) (hq : q ≠ 80 + st) : besideWords st tracInputWords (regKey q o) :=
    besideWords_key hbound ho (.inl hq)
  exact ⟨fun k _ => ⟨⟨modeKeys_beside hb, besideWords_key hbound (by decide) (.inr (by decide))⟩, hlow k (by decide)⟩,
    fun k _ _ => convKeys_beside hb k, fun k _ => ⟨modeKeys_beside hb, hlow k (by decide), hlow k (by decide),
      hpage (by decide) (by unfold pgSG; omega), hpage (by decide) (by unfold pgSG; omega), hlow k (by decide)⟩,
    fun o ho => hpage ho (by unfold pgSAF; omega)⟩

end Sys2Proof.Machine
end

section
/-! SUPPORT. The samples of conversion and actuation stages: the inputs they form, and what the stage then decides (R197, R228, R247). -/

namespace Sys2Proof.Machine

variable {s₀ s t : State} {st : Nat} {K : Nat → Prop}

theorem InputsStamped.of_now {u : State} (h : InputsStamped u t st) (hn : u.now = s.now) : InputsStamped s t st := by
  unfold InputsStamped at *
  rw [← hn]
  exact h

theorem stampInputs_now (s : State) (st : Nat) : (s.stampInputs st).now = s.now := wrStamp_now _ _ _ _ _

theorem stampInputs_stages (s : State) (st : Nat) : (s.stampInputs st).stages = s.stages := wrStamp_stages _ _ _ _ _

/-- A state whose inputs are stamped last, at the instant of the sample. -/
theorem stamped_at {u : State} (ht : t = u.stampInputs st) (hn : t.now = s.now) : InputsStamped s t st := by
  have hu : u.now = s.now := by rw [← stampInputs_now u st, ← ht, hn]
  rw [ht]
  exact (stampInputs_effect u st).1.of_now hu

/-- What a conversion stage decides on its samples (R190, R196, R197, R217, R218). -/
def State.convDecided (s : State) (st : Nat) : State :=
  let s := s.windowCounts st
  let s := if st = 2 then s.formLimit else s
  let x := s.stage st
  if 4 ≤ x.inBad then s.convTrip st 2
  else if 2 ≤ x.outBad then s.convTrip st 3
  else if st = 2 ∧ s.convActive 2 ∧ s.pilotLost then s.pilotLossTrip
  else
    let s := if st = 2 then s.stationStop else s
    if s.convDriven st then (s.formRef st).refTransitions st else s

theorem convSample_eq (s : State) (st : Nat) :
    s.convSample st = (((s.convSamples st).convDecided st).convShow st).stampInputs st := rfl

theorem Steers.convDecided (h : Steers K s₀ s) (hC : ∀ k, 2 ≤ k → k < 6 → ConvKeys K k) (hst : 2 ≤ st ∧ st < 6) (hR : ReleaseKeys K)
    (hlim : st = 2 → K (regKey (pgSG 2) 0x184) ∧ K (regKey (pgSG 2) 0x714)) : Steers K s₀ (s.convDecided st) := by
  have hw := h.windowCounts (st := st)
  unfold State.convDecided
  extract_lets u v x w
  have hv : Steers K s₀ v := by
    unfold v
    split
    · next h2 => exact hw.formLimit (hlim h2).1 (hlim h2).2
    · exact hw
  have hstop : Steers K s₀ w := .ite (hv.stationStop hC hR) hv
  exact .ite (hv.convTrip hC hst 2) (.ite (hv.convTrip hC hst 3) (.ite (hv.pilotLossTrip hC)
    (.ite ((hstop.formRef (hC st hst.1 hst.2)).refTransitions hC hst hR) hstop)))

/-- What an actuation stage decides on its samples (R238, R247). -/
def State.actDecided (s : State) (st : Nat) : State :=
  let x := s.stage st
  let m := s.mode st
  let bad := m ≠ 0 ∧ m ≠ 5 ∧ m ≠ 7 ∧ ¬ s.vmOk st
  let n := if bad then x.inBad + 1 else 0
  let s := s.setStage st { x with inBad := n }
  if 4 ≤ n then s.actTrip st 2
  else if s.actDriven st then (s.formSpdEff st).actTransitions st
  else s

theorem actSample_eq (s : State) (st : Nat) :
    s.actSample st = (((s.setIn st 3 (s.word pgPWR Reg.PWR.VM_V.off)).actDecided st).actShow st).stampInputs st := rfl

theorem Steers.actDecided (h : Steers K s₀ s) (hK : ActKeys K st) (hR : ReleaseKeys K) : Steers K s₀ (s.actDecided st) := by
  unfold State.actDecided
  extract_lets x m bad n u
  have hu : Steers K s₀ u := h.setStage st _ (by exact h.timing st)
  exact .ite (hu.actTrip hK 2) (.ite ((hu.formSpdEff hK).actTransitions hK hR) hu)

theorem convSamples_words (s : State) (st : Nat) :
    (s.convSamples st).word (pgSG st) 0x70C = s.ainValue (s.rd (pgSG st) Reg.SGC.SRC_VIN) ∧
      (s.convSamples st).word (pgSG st) 0x710 = s.ainValue (s.rd (pgSG st) Reg.SGC.SRC_VOUT) :=
  ⟨(word_setWord_off _ (by decide)).trans (word_setWord_self _ _ _), word_setWord_self _ _ _⟩

theorem convSamples_stages (s : State) (st : Nat) : (s.convSamples st).stages = s.stages :=
  (Kept.start.convSamples (L := [.regs, .pushes]) (List.Subset.refl _) st).same .stages (by decide)

/-- The samples of a conversion stage: its inputs 3 and 4, stamped, and the timing of its sets as it was (R197, R228). -/
theorem convSample_effect (s : State) (hst : 2 ≤ st ∧ st < 6) : ((s.convSample st).stage st).a = (s.stage st).a ∧
    (s.convSample st).stageIn st 3 = s.ainValue (s.rd (pgSG st) Reg.SGC.SRC_VIN) ∧
    (s.convSample st).stageIn st 4 = s.ainValue (s.rd (pgSG st) Reg.SGC.SRC_VOUT) ∧ InputsStamped s (s.convSample st) st := by
  have hb : ∀ o ∈ convInputWords, 0x70C ≤ o ∧ o < 0x2000000 := by decide
  have hbound : ∀ o ∈ convInputWords, o < 0x2000000 := by decide
  have hnow : (s.convSample st).now = s.now :=
    (Kept.start.convSample (L := [.regs, .pushes, .coll, .guards, .chans, .stages]) (List.Subset.refl _) st).same .now (by decide)
  obtain ⟨hin, hout⟩ := convSamples_words s st
  have hstages := stage_congr (convSamples_stages s st) st
  have heq := convSample_eq s st
  generalize s.convSamples st = v at *
  have h : Steers (besideWords st convInputWords) v ((v.convDecided st).convShow st) :=
    (Steers.start.convDecided (fun k _ _ => convKeys_beside hb k) hst (releaseKeys_beside hbound)
      fun _ => ⟨stageWord_beside hb 2 (by decide), besideWords_key hbound (by decide) (.inr (by decide))⟩).convShow
      (convKeys_beside hb st)
  have hstamp := stamped_at heq hnow
  generalize (v.convDecided st).convShow st = w at *
  have hword (o : Nat) (ho : o ∈ convInputWords) (hn : o ∉ [0x780, 0x784]) :
      (s.convSample st).word (pgSG st) o = v.word (pgSG st) o := by
    rw [heq, (stampInputs_effect w st).2 o hn, h.word_of_listed ho]
  refine ⟨?_, (hword 0x70C (by decide) (by decide)).trans hin, (hword 0x710 (by decide) (by decide)).trans hout, hstamp⟩
  rw [heq, stage_congr (stampInputs_stages w st), h.timing st, hstages]

/-- The samples of an actuation stage: its input 3, stamped, and the timing of its sets as it was (R247). -/
theorem actSample_effect (s : State) (st : Nat) : ((s.actSample st).stage st).a = (s.stage st).a ∧
    (s.actSample st).stageIn st 3 = s.word pgPWR Reg.PWR.VM_V.off ∧ InputsStamped s (s.actSample st) st := by
  have hb : ∀ o ∈ actInputWords, 0x70C ≤ o ∧ o < 0x2000000 := by decide
  have hbound : ∀ o ∈ actInputWords, o < 0x2000000 := by decide
  have hnow : (s.actSample st).now = s.now :=
    (Kept.start.actSample (L := [.regs, .pushes, .coll, .guards, .chans, .stages]) (List.Subset.refl _) st).same .now (by decide)
  have hK : ActKeys (besideWords st actInputWords) st := ⟨modeKeys_beside hb, stageWord_beside hb st (by decide),
    stageWord_beside hb st (by decide), besideWords_key hbound (by decide) (.inr (by decide)),
    besideWords_key hbound (by decide) (.inr (by decide)), stageWord_beside hb st (by decide)⟩
  have hin : (s.setIn st 3 (s.word pgPWR Reg.PWR.VM_V.off)).word (pgSG st) 0x70C = s.word pgPWR Reg.PWR.VM_V.off :=
    word_setWord_self _ _ _
  have hstages := stage_congr (setWord_stages s (pgSG st) (0x700 + 4 * 3) (s.word pgPWR Reg.PWR.VM_V.off)) st
  have heq := actSample_eq s st
  unfold State.setIn at *
  generalize s.setWord (pgSG st) (0x700 + 4 * 3) (s.word pgPWR Reg.PWR.VM_V.off) = v at *
  have h : Steers (besideWords st actInputWords) v ((v.actDecided st).actShow st) :=
    (Steers.start.actDecided hK (releaseKeys_beside hbound)).actShow hK
  have hstamp := stamped_at heq hnow
  generalize (v.actDecided st).actShow st = w at *
  refine ⟨?_, ?_, hstamp⟩
  · rw [heq, stage_congr (stampInputs_stages w st), h.timing st, hstages]
  · rw [heq]
    exact ((stampInputs_effect w st).2 0x70C (by decide)).trans ((h.word_of_listed (by decide)).trans hin)

end Sys2Proof.Machine
end

section
/-! SUPPORT. The samples of a traction stage: what it forms before its inputs, the inputs, and what it then decides (R157, R159, R527). -/

namespace Sys2Proof.Machine

variable {s₀ s t : State} {st : Nat} {K : Nat → Prop}

/-- What a traction stage forms for its inputs (R162, R165, R168, R172, R173). -/
def State.tracPrepared (s : State) (st : Nat) (zc : Option Word) : State :=
  ((((s.selectSource st).positionLost st).formSpeed st zc).formNAsc st).formTorque st

/-- The inputs of a traction stage, before they are stamped (R527). -/
def State.tracInputsSet (s : State) (st : Nat) : State :=
  let x := s.stage st
  let s := ((s.setIn st 4 x.speedRad).setIn st 5 x.udc).setIn st 6 x.nascRad
  (s.setIn st 7 (if s.rdB (pgSG st) Reg.SGT.TCFG_SET_SHIFT then 0x3F060A92 else 0)).tracShow st

/-- The counts of a traction stage after its inputs are formed (R164, R167, R183). -/
def State.tracCounted (s : State) (st : Nat) : State := ((s.stillTimer st).sumCheck st 0).ruleCounts st 0

/-- What a traction stage decides on its samples (R159, R163, R183, R324). -/
def State.tracDecided (s : State) (st : Nat) : State :=
  if s.overspeedCause st then s.overspeedTrip st
  else if s.decel st then ((s.safeStopSample st).setDecision st 0).speedDriven st
  else if (s.setDecision st 0).isolated st 0 ≠ s.isolated st 0 ∨ (s.setDecision st 0).mode st ≠ s.mode st then s.setDecision st 0
  else (s.setDecision st 0).speedDriven st

theorem tracForm_eq (s : State) (st : Nat) (zc : Option Word) : s.tracForm st 0 zc =
    (((s.tracPrepared st zc).tracInputsSet st).stampInputs st).tracCounted st := rfl

theorem tracSample_eq (s : State) (st : Nat) (zc : Option Word) : s.tracSample st 0 zc = (s.tracForm st 0 zc).tracDecided st := by
  unfold State.tracSample State.tracDecided
  simp only [true_and]

theorem Steers.tracPrepared (h : Steers K s₀ s) (hK : TracKeys K st)
    (hk : ∀ o ∈ [0x180, 0x184, 0x188, 0x708], K (regKey (pgSG st) o)) (zc : Option Word) : Steers K s₀ (s.tracPrepared st zc) :=
  ((((h.selectSource hK).positionLost hK).formSpeed (hk _ (by decide)) zc).formNAsc (hk _ (by decide))).formTorque (hk _ (by decide))
    (hk _ (by decide))

theorem tracPrepared_parts (s : State) (st : Nat) (zc : Option Word) :
    Touches [.regs, .pushes, .coll, .stages] s (s.tracPrepared st zc) :=
  (((((Kept.start.selectSource (by decide) st).positionLost (by decide) st).formSpeed (by decide) st zc).formNAsc (by decide)
    st).formTorque (by decide) st).same

theorem tracInputsSet_parts (s : State) (st : Nat) : Touches [.regs, .pushes] s (s.tracInputsSet st) :=
  (((((Kept.start.setIn (List.Subset.refl _) st 4 _).setIn (List.Subset.refl _) st 5 _).setIn (List.Subset.refl _) st 6 _).setIn
    (List.Subset.refl _) st 7 _).tracShow (List.Subset.refl _) st).same

theorem Steers.tracInputsSet (h : Steers K s₀ s) (hK : EnterKeys K st)
    (hk : ∀ o ∈ [0x710, 0x714, 0x718, 0x71C], K (regKey (pgSG st) o)) :
    Steers K s₀ (s.tracInputsSet st) :=
  ((((h.setWord (hk _ (by decide)) _).setWord (hk _ (by decide)) _).setWord (hk _ (by decide)) _).setWord (hk _ (by decide)) _).tracShow
    hK

theorem Steers.tracCounted (h : Steers K s₀ s) : Steers K s₀ (s.tracCounted st) := (h.stillTimer.sumCheck 0).ruleCounts 0

theorem Steers.tracDecided (h : Steers K s₀ s) (hS : SafetyKeys K) (hst : st < 2) (hR : ReleaseKeys K) :
    Steers K s₀ (s.tracDecided st) := by
  have hK := hS.trac st hst
  have hd := h.setDecision hK 0
  exact .ite (h.overspeedTrip hK.toEnterKeys) (.ite (((h.safeStopSample hS hst).setDecision hK 0).speedDriven hK hR)
    (.ite hd (hd.speedDriven hK hR)))

/-- Every word may change: what is steered so keeps the timing of the stages. -/
theorem tracKeys_all (st : Nat) : TracKeys (fun _ => True) st := ⟨⟨⟨trivial, trivial, trivial, trivial⟩, trivial⟩, trivial⟩

/-- The words of its page that a traction stage writes as it looks for its position and its speed (R165, R172, R173). -/
abbrev speedWords : List Nat := [0x8, 0x180, 0x18C, 0x700, 0x704, 0x70C]

/-- The keys of those words, and of the agreement events. -/
abbrev speedKey (st k : Nat) : Prop :=
  k ∈ speedWords.map (regKey (pgSG st)) ∨ k = fieldKey pgSUP Reg.SUP.AGR_EVT_EVT

theorem speedKey_of (st : Nat) {o : Nat} (h : o ∈ speedWords) : speedKey st (regKey (pgSG st) o) :=
  .inl (List.mem_map_of_mem h)

theorem not_speedKey {p o : Nat} (ho : o < 0x2000000) (hs : p ≠ pgSUP) (h : p ≠ pgSG st ∨ o ∉ speedWords) :
    ¬ speedKey st (regKey p o) := by
  rintro (hk | hk)
  · obtain ⟨o', ho', he⟩ := List.mem_map.1 hk
    have hb : ∀ x ∈ speedWords, x < 0x2000000 := by decide
    obtain ⟨hp, rfl⟩ := (regKey_inj (hb o' ho') ho).1 he
    exact h.elim (fun h => h hp.symm) fun h => h ho'
  · exact hs ((regKey_inj ho (by decide)).1 hk).1

theorem dcLink_congr (hs : t.samples = s.samples) (hw : ∀ p o, o < 0x2000000 → p ≠ pgSUP →
    (p ≠ pgSG st ∨ o ∉ speedWords) → t.word p o = s.word p o) : t.dcLink st = s.dcLink st := by
  have hsample (h : Nat) : t.sample h = s.sample h := by
    unfold State.sample
    rw [hs]
  have hpage : pgSG st ≠ pgSUP := by
    unfold pgSG pgSUP
    omega
  have hfail (n : Nat) : t.ainFailed n = s.ainFailed n := by
    unfold State.ainFailed
    refine congrArg (bitOf · _) (rd_of_word (hw _ _ (by decide) ?_ ?_))
    · unfold pgSA pgSUP
      omega
    · exact .inr (by decide)
  have hhas (n : Nat) : t.ainHas n = s.ainHas n := by
    unfold State.ainHas
    rw [hsample, hfail]
  have hmeas (n : Nat) : t.ainMeasured n = s.ainMeasured n := by
    unfold State.ainMeasured
    rw [hhas, hsample]
  have hval (n : Nat) : t.ainValue n = s.ainValue n := by
    unfold State.ainValue
    rw [hhas, hsample]
  have hsrc : t.rd (pgSG st) Reg.SGT.UDC_SRC_AIN = s.rd (pgSG st) Reg.SGT.UDC_SRC_AIN :=
    rd_of_word (hw _ _ (by decide) hpage (.inr (by decide)))
  have hnom : t.sgw st Reg.SGT.UDC_NOM_V = s.sgw st Reg.SGT.UDC_NOM_V := hw _ _ (by decide) hpage (.inr (by decide))
  unfold State.dcLink
  simp only [hsrc, hmeas, hval, hnom]

/-- The DC link as the speed and N_ASC are formed (R168). -/
theorem formNAsc_udc (s : State) (st : Nat) : ((s.formNAsc st).stage st).udc = s.dcLink st := by
  unfold State.formNAsc
  rw [stage_setStage_self]

theorem tracPrepared_udc (s : State) (st : Nat) (zc : Option Word) : ((s.tracPrepared st zc).stage st).udc = s.dcLink st := by
  have hK : TracKeys (speedKey st) st :=
    ⟨⟨⟨speedKey_of st (by decide), speedKey_of st (by decide), speedKey_of st (by decide), .inr rfl⟩, speedKey_of st (by decide)⟩,
      speedKey_of st (by decide)⟩
  have h := ((Steers.start (s := s)).selectSource hK).positionLost hK |>.formSpeed (speedKey_of st (by decide)) zc
  have hsamples : (((s.selectSource st).positionLost st).formSpeed st zc).samples = s.samples :=
    (((Kept.start.selectSource (L := [.regs, .pushes, .coll, .stages]) (by decide) st).positionLost (by decide) st).formSpeed
      (by decide) st zc).same .samples (by decide)
  have htorque (u : State) : (u.formTorque st).stages = u.stages :=
    (Kept.start.formTorque (L := [.regs, .pushes]) (List.Subset.refl _) st).same .stages (by decide)
  unfold State.tracPrepared
  rw [stage_congr (htorque _), formNAsc_udc]
  exact dcLink_congr hsamples fun p o ho hs hw => h.spares.word (not_speedKey ho hs hw)

theorem tracInputsSet_udc (s : State) (st : Nat) : (s.tracInputsSet st).word (pgSG st) 0x714 = (s.stage st).udc := by
  refine (word_setWord_off _ (by decide)).trans ((word_setWord_off _ (by decide)).trans ((word_setWord_off _ (by decide)).trans
    ((word_setWord_off _ (by decide)).trans ?_)))
  exact word_setWord_self _ _ _

/-- The samples of a traction stage form its inputs, stamped, and leave the timing of its sets (R157, R527). -/
theorem tracSample_effect (s : State) (hst : st < 2) (zc : Option Word) :
    ((s.tracSample st 0 zc).stage st).a = (s.stage st).a ∧ (s.tracSample st 0 zc).stageIn st 5 = s.dcLink st ∧
      InputsStamped s (s.tracSample st 0 zc) st := by
  have hbound : ∀ o ∈ tracInputWords, o < 0x2000000 := by decide
  have hin : ((s.tracPrepared st zc).tracInputsSet st).word (pgSG st) 0x714 = s.dcLink st :=
    (tracInputsSet_udc _ _).trans (tracPrepared_udc s st zc)
  have hall : Steers (fun _ => True) s ((s.tracPrepared st zc).tracInputsSet st) :=
    ((Steers.start.tracPrepared (tracKeys_all st) (fun _ _ => trivial) zc).tracInputsSet (tracKeys_all st).toEnterKeys
      fun _ _ => trivial)
  have hnow : ((s.tracPrepared st zc).tracInputsSet st).now = s.now :=
    (tracInputsSet_parts _ st .now (by decide)).trans (tracPrepared_parts s st zc .now (by decide))
  rw [tracSample_eq, tracForm_eq]
  generalize (s.tracPrepared st zc).tracInputsSet st = u at *
  obtain ⟨hstamp, hword⟩ := stampInputs_effect u st
  have hstages := stampInputs_stages u st
  have hw := hword 0x714 (by decide)
  generalize u.stampInputs st = v at *
  have h : Steers (besideWords st tracInputWords) v ((v.tracCounted st).tracDecided st) :=
    (Steers.start.tracCounted).tracDecided (safetyKeys_beside hst) hst (releaseKeys_beside hbound)
  refine ⟨(h.timing st).trans ((congrArg Stage.a (stage_congr hstages st)).trans (hall.timing st)),
    (h.word_of_listed (by decide)).trans (hw.trans hin), ?_⟩
  obtain ⟨hl, hh⟩ := hstamp.of_now hnow
  exact ⟨(rd_of_word (h.word_of_listed (by decide))).trans hl, (rd_of_word (h.word_of_listed (by decide))).trans hh⟩

end Sys2Proof.Machine
end

section
/-! PROOF. Period starts and sample instants (O23). -/

namespace Sys2Proof.Machine

variable {s t : State} {st : Nat}

theorem Steers.tracForm {K : Nat → Prop} {s₀ : State} (h : Steers K s₀ s) (hK : TracKeys K st) (hk : ∀ o, K (regKey (pgSG st) o))
    (zc : Option Word) : Steers K s₀ (s.tracForm st 0 zc) := by
  rw [tracForm_eq]
  exact Steers.tracCounted ((((h.tracPrepared hK (fun o _ => hk o) zc).tracInputsSet hK.toEnterKeys fun o _ => hk o).wr (hk _) _).wr
    (hk _) _)

/-- An overspeed is reported, and the stage reacts (R163, R164). -/
theorem overspeedTrip_effect (hs : s.coll.stopped = false) (st : Nat) :
    Reported (s.overspeedTrip st) .u 0x4B (pgSG st) ∧ Reported (s.overspeedTrip st) .u 0x47 (pgSG st) ∧
      (s.overspeedTrip st).rdB (pgSG st) Reg.SGT.STAT_REACT = true ∧
      ((s.overspeedTrip st).mode st = 5 ∨ (s.overspeedTrip st).mode st = 6) := by
  have hr := reported_reportTp s .u 0x4B (pgSG st) 0 false hs
  have hstop : (s.reportTp .u 0x4B (pgSG st)).coll.stopped = false := (reportAs_stopped s _).trans hs
  have he : s.overspeedTrip st = (s.reportTp .u 0x4B (pgSG st)).reaction st := rfl
  rw [he]
  generalize s.reportTp .u 0x4B (pgSG st) = u at *
  obtain ⟨⟨hmode, -, -, hreact, -⟩, -, h47⟩ := reaction_effect hstop st
  refine ⟨(Steers.start.reaction (tracKeys_pages st).toEnterKeys).spares.reported hr, h47, hreact, ?_⟩
  rw [hmode]
  split
  · exact .inl rfl
  · exact .inr rfl

/-- A sample on which a traction stage finds an overspeed (R163). -/
theorem tracSample_overspeed (hs : s.coll.stopped = false) {zc : Option Word}
    (h : (s.tracForm st 0 zc).overspeedCause st = true) : s.tracSample st 0 zc = (s.tracForm st 0 zc).overspeedTrip st ∧
      (s.tracForm st 0 zc).coll.stopped = false := by
  have hform : Steers (fun _ => True) s (s.tracForm st 0 zc) := Steers.start.tracForm (tracKeys_all st) (fun _ => trivial) zc
  refine ⟨?_, hform.spares.stopped.trans hs⟩
  rw [tracSample_eq]
  exact if_pos h

theorem newTiming_setB (ht : isTraction st = true) (s : State) (at_ : Nat) : s.newTiming st 1 at_ =
    { started := true, start := at_, prev := (s.stage st).b.start, done := 0, period := (s.stage st).a.period
      samp := (s.stage st).a.samp, double := s.rdB (pgSG st) Reg.SGT.TCFG_UPDATE } := by
  unfold State.newTiming
  rw [ht]
  rfl

/-- Set A's period start (R155, R157, R197, R228). -/
theorem periodStart_setA (h : nextStart (s.stage st).a s.eu ≤ s.eu + 19) :
    ((s.periodStart st 0).stage st).a = s.newTiming st 0 (nextStart (s.stage st).a s.eu) ∧
      (isTraction st = true → s.rdB (pgSG st) Reg.SGT.TCFG_B_CARRIER = false →
        ((s.periodStart st 0).stage st).b.start = nextStart (s.stage st).a s.eu ∧
          ((s.periodStart st 0).stage st).b.period = s.periodReg st) ∧
      ∀ k, k ≠ st → (s.periodStart st 0).stage k = s.stage k := by
  have he (k : Nat) : (s.periodStart st 0).stage k = (s.periodStartA st).stage k := periodStart_stage s st 0 k
  rw [he]
  exact ⟨periodStartA_timing h, periodStartA_setB h, fun k hk => (he k).trans (periodStartA_others h hk)⟩

/-- Set B's period start (R157). -/
theorem periodStart_setB (ht : isTraction st = true) (ha : (s.stage st).a.started = true) (hd : s.nextStartB st ≤ s.eu + 19)
    (hb : (s.stage st).b.started = false ∨ (s.stage st).b.start < s.nextStartB st) :
    ((s.periodStart st 1).stage st).a = (s.stage st).a ∧
      ((s.periodStart st 1).stage st).b = s.newTiming st 1 (s.nextStartB st) ∧
      ∀ k, k ≠ st → (s.periodStart st 1).stage k = s.stage k := by
  have he (k : Nat) : (s.periodStart st 1).stage k = (s.startPeriod st 1 (s.nextStartB st)).stage k := by
    rw [← periodStartB_eq ht ha hd hb]
    exact periodStart_stage s st 1 k
  rw [he, startPeriod_stage]
  exact ⟨rfl, rfl, fun k hk => (he k).trans (startPeriod_stage_ne s 1 _ hk)⟩

theorem sampleTaken_dcLink (s : State) (st : Nat) : (s.sampleTaken st 0).dcLink st = s.dcLink st := rfl

theorem sampleTaken_now (s : State) (st : Nat) : (s.sampleTaken st 0).now = s.now := rfl

/-- A sample of a stage counts, and its inputs carry the instant (R157, R197, R247, R527). -/
theorem sample_done {u : State} (ha : (u.stage st).a = ((s.sampleTaken st 0).stage st).a) :
    (u.stage st).a.done = (s.stage st).a.done + 1 := by
  rw [ha]
  exact sampleTaken_done s st

/-- Settles O23, by the timing that a period start sets, the inputs that each kind of stage forms, and the reaction to an overspeed. -/
theorem periodsAndSampleInstants : Obligations.PeriodsAndSampleInstants := by
  refine ⟨fun s st h => ⟨s.periodStart st 0, rfl, periodStart_setA h⟩,
    fun s st ht ha hd hb => ⟨s.periodStart st 1, rfl, ?_⟩,
    fun s st h => congrArg Host.Outcome.next (periodStartA_early h),
    fun s st set f h => congrArg Host.Outcome.next (stageSample_early h),
    fun s st f hc due hn hd => ⟨(s.sampleTaken st 0).convSample st, congrArg Host.Outcome.next ?_, ?_⟩,
    fun s st f ha due hn hd => ⟨(s.sampleTaken st 0).actSample st, congrArg Host.Outcome.next ?_, ?_⟩,
    fun s st f ht due hn hd => ⟨(s.sampleTaken st 0).tracSample st 0 f, congrArg Host.Outcome.next ?_, ?_⟩,
    fun s st f ht hs due hn hd ho => ⟨(s.sampleTaken st 0).tracSample st 0 f, congrArg Host.Outcome.next ?_, ?_⟩⟩
  case refine_1 =>
    rw [← newTiming_setB ht]
    exact periodStart_setB ht ha hd hb
  case refine_2 =>
    have ht : ¬ isTraction st = true := by
      simp only [isTraction, isConversion, Bool.and_eq_true, decide_eq_true_eq] at hc ⊢
      omega
    exact (stageSample_due hn hd).trans ((if_neg ht).trans (if_pos hc))
  case refine_3 =>
    have hst : 2 ≤ st.val ∧ st.val < 6 := by
      simpa only [isConversion, Bool.and_eq_true, decide_eq_true_eq] using hc
    obtain ⟨ha, hin, hout, hstamp⟩ := convSample_effect (s.sampleTaken st 0) hst
    exact ⟨sample_done ha, hin, hout, hstamp.of_now (sampleTaken_now s st)⟩
  case refine_4 =>
    have hst : 6 ≤ st.val ∧ st.val < 10 := by
      simpa only [isActuation, Bool.and_eq_true, decide_eq_true_eq] using ha
    have ht : ¬ isTraction st = true := by
      simp only [isTraction, decide_eq_true_eq]
      omega
    have hc : ¬ isConversion st = true := by
      simp only [isConversion, Bool.and_eq_true, decide_eq_true_eq]
      omega
    exact (stageSample_due hn hd).trans ((if_neg ht).trans ((if_neg hc).trans (if_pos ha)))
  case refine_5 =>
    obtain ⟨ha', hin, hstamp⟩ := actSample_effect (s.sampleTaken st 0) st
    exact ⟨sample_done ha', hin, hstamp.of_now (sampleTaken_now s st)⟩
  case refine_6 => exact (stageSample_due hn hd).trans (if_pos ht)
  case refine_7 =>
    obtain ⟨ha, hin, hstamp⟩ := tracSample_effect (s.sampleTaken st 0) (of_decide_eq_true ht) f
    exact ⟨sample_done ha, hin.trans (sampleTaken_dcLink s st), hstamp.of_now (sampleTaken_now s st)⟩
  case refine_8 => exact (stageSample_due hn hd).trans (if_pos ht)
  case refine_9 =>
    obtain ⟨he, hstop⟩ := tracSample_overspeed (s := s.sampleTaken st 0) hs ho
    rw [he]
    exact overspeedTrip_effect hstop st

end Sys2Proof.Machine
end

section
/-! SUPPORT. What a conversion stage keeps while it shows a change, reports it or lets another stage follow: its mode, its trip
cause, its reference, its leg code and the drives of its legs (R190, R196). -/

namespace Sys2Proof.Machine

variable {K : Nat → Prop} {s₀ s t u : State} {st m cause code : Nat} {d : LegDrive} {w : Word} {ps : List Nat}

/-- From `s` to `t` the stage keeps its mode, its trip cause, its reference and its leg code, and the legs of `ps` their drives. -/
structure StageHolds (st : Nat) (ps : List Nat) (s t : State) : Prop where
  mode : t.mode st = s.mode st
  cause : t.rd (pgSG st) Reg.SGC.TRIP_CAUSE = s.rd (pgSG st) Reg.SGC.TRIP_CAUSE
  ref : t.refEff st = s.refEff st
  leg : (t.stage st).legA = (s.stage st).legA
  drive : ∀ p ∈ ps, (t.chan p).drive = (s.chan p).drive

theorem StageHolds.start : StageHolds st ps s s := ⟨rfl, rfl, rfl, rfl, fun _ _ => rfl⟩

theorem StageHolds.trans (h : StageHolds st ps s t) (g : StageHolds st ps t u) : StageHolds st ps s u :=
  ⟨g.mode.trans h.mode, g.cause.trans h.cause, g.ref.trans h.ref, g.leg.trans h.leg,
    fun p hp => (g.drive p hp).trans (h.drive p hp)⟩

/-- A change of the register file that spares the three words in which a conversion stage reports its state. -/
theorem StageHolds.of_words (hm : t.mode st = s.mode st) (hc : t.word (pgSG st) 0x190 = s.word (pgSG st) 0x190)
    (hr : t.word (pgSG st) 0x180 = s.word (pgSG st) 0x180) (hst : t.stages = s.stages) (hch : t.chans = s.chans) :
    StageHolds st ps s t :=
  ⟨hm, rd_of_word hc, hr, by rw [stage_congr hst], fun p _ => by rw [chan_congr hch]⟩

theorem StageHolds.of_regs (hr : t.regs = s.regs) (hl : (t.stage st).legA = (s.stage st).legA) (hch : t.chans = s.chans) :
    StageHolds st ps s t :=
  ⟨rd_congr hr _ _, rd_congr hr _ _, word_congr hr _ _, hl, fun p _ => by rw [chan_congr hch]⟩

/-- A release of latches writes words of channels only (R249, R262, R532). -/
theorem steers_releaseLatches (s : State) (st : Nat) : Steers (keyPage · ∈ channelPages) s (s.releaseLatches st) :=
  Steers.start.releaseLatches (fun p hp => by
    have hk (o : Nat) (ho : o < 0x2000000) : keyPage (regKey p o) ∈ channelPages := by
      rw [keyPage_regKey ho]
      exact hp
    exact ⟨hk _ (by decide), hk _ (by decide)⟩) st

section
variable (h : StageHolds st ps s₀ s)
include h

theorem StageHolds.setWord {o : Nat} (ho : o ∉ [0x8, 0x180, 0x190]) (w : Word) : StageHolds st ps s₀ (s.setWord (pgSG st) o w) := by
  simp only [List.mem_cons, List.not_mem_nil, or_false, not_or] at ho
  obtain ⟨h8, h180, h190⟩ := ho
  exact h.trans (.of_words (rd_setWord_off _ _ (Ne.symm h8)) (word_setWord_off _ (Ne.symm h190)) (word_setWord_off _ (Ne.symm h180))
    (setWord_stages _ _ _ _) (setWord_chans _ _ _ _))

/-- A flag of STAT beside the mode. -/
theorem StageHolds.wrB {f : Field} (hf : f.off = 0x8 ∧ f.lo + f.width ≤ 32 ∧ FieldsApart f Reg.SGT.STAT_MODE) (b : Bool) :
    StageHolds st ps s₀ (s.wrB (pgSG st) f b) := by
  obtain ⟨ho, hw, ha⟩ := hf
  exact h.trans (.of_words (rd_wrB_apart _ _ hw ha) (word_setWord_off _ (by rw [ho]; decide)) (word_setWord_off _ (by rw [ho]; decide))
    (wrB_stages _ _ _ _) (wrB_chans _ _ _ _))

theorem StageHolds.reportTp (cls : FaultClass) (code page detail : Nat) (inj : Bool) :
    StageHolds st ps s₀ (s.reportTp cls code page detail inj) :=
  h.trans (.of_regs (reportTp_regs _ _ _ _ _ _) (by rw [stage_congr (reportTp_stages _ _ _ _ _ _)]) (reportTp_chans _ _ _ _ _ _))

theorem StageHolds.setStage {x : Stage} (hx : x.legA = (s.stage st).legA) : StageHolds st ps s₀ (s.setStage st x) :=
  h.trans (.of_regs (setStage_regs _ _ _) (by rw [stage_setStage_self, hx]) (by rfl))

theorem StageHolds.convShow : StageHolds st ps s₀ (s.convShow st) := h.setWord (by decide) _

theorem StageHolds.releaseLatches : StageHolds st ps s₀ (s.releaseLatches st) := by
  have hrd (g : Field) (hg : g.off < 0x2000000) := rd_releaseLatches s st (stagePage_not_mem st) hg
  have hparts : Touches [.regs, .pushes, .guards, .chans] s (s.releaseLatches st) :=
    (Kept.start.releaseLatches (List.Subset.refl _) st).same
  have hword := steers_releaseLatches s st
  refine h.trans ⟨hrd _ (by decide), hrd _ (by decide), hword.spares.word ?_, by rw [stage_congr (hparts .stages (by decide))],
    fun p _ => each_releaseLatch_drive s _ p⟩
  rw [keyPage_regKey (by decide)]
  exact stagePage_not_mem st

end

theorem StageHolds.setS2 (h : StageHolds 2 ps s₀ s) (closed : Bool) : StageHolds 2 ps s₀ (s.setS2 closed) :=
  (h.wrB (by decide) closed).convShow

/-- A conversion stage is in a mode with a trip cause and a reference, and its legs, as they are in `s`, have followed. -/
structure ConvIn (s t : State) (st m cause code : Nat) (d : LegDrive) (ref : Word) : Prop where
  mode : t.mode st = m
  cause : t.rd (pgSG st) Reg.SGC.TRIP_CAUSE = cause
  ref : t.refEff st = ref
  legs : LegsBecome s t st code d

theorem ConvIn.held (h : ConvIn s t st m cause code d w) (g : StageHolds st (s.legs st) t u) : ConvIn s u st m cause code d w :=
  ⟨g.mode.trans h.mode, g.cause.trans h.cause, g.ref.trans h.ref, g.leg.trans h.legs.1,
    fun p hp => (g.drive p hp).trans (h.legs.2 p hp)⟩

theorem LegsBecome.rebase (h : LegsBecome s t st code d) (hl : s₀.legs st = s.legs st) : LegsBecome s₀ t st code d :=
  ⟨h.1, fun p hp => h.2 p (hl ▸ hp)⟩

theorem ConvIn.rebase (h : ConvIn s t st m cause code d w) (hl : s₀.legs st = s.legs st) : ConvIn s₀ t st m cause code d w :=
  ⟨h.mode, h.cause, h.ref, h.legs.rebase hl⟩

/-- A new reference. -/
theorem ConvIn.setRef (h : ConvIn s t st m cause code d w) (ref : Word) : ConvIn s (t.setRef st ref) st m cause code d ref where
  mode := (rd_setWord_off _ _ (by decide)).trans ((rd_setWord_off _ _ (by decide)).trans h.mode)
  cause := (rd_setWord_off _ _ (by decide)).trans ((rd_setWord_off _ _ (by decide)).trans h.cause)
  ref := (word_setWord_off _ (by decide)).trans (word_setWord_self _ _ _)
  legs := by
    have hst : (t.setRef st ref).stages = t.stages := (setWord_stages _ _ _ _).trans (setWord_stages _ _ _ _)
    have hch : (t.setRef st ref).chans = t.chans := (setWord_chans _ _ _ _).trans (setWord_chans _ _ _ _)
    exact ⟨by rw [stage_congr hst]; exact h.legs.1, fun p hp => by rw [chan_congr hch]; exact h.legs.2 p hp⟩

theorem Tripped.rebase (h : Tripped s t st cause) (hl : s₀.legs st = s.legs st) : Tripped s₀ t st cause := by
  obtain ⟨hmode, hcause, href, hlegs, hrep⟩ := h
  exact ⟨hmode, hcause, href, hlegs.rebase hl, hrep⟩

/-- What holds the stage and loses no report leaves it tripped. -/
theorem Tripped.held (h : Tripped s t st cause) (g : StageHolds st (s.legs st) t u) (hr : Spares K t u) : Tripped s u st cause := by
  obtain ⟨hmode, hcause, href, ⟨hleg, hdrive⟩, hrep⟩ := h
  exact ⟨g.mode.trans hmode, g.cause.trans hcause, g.ref.trans href, ⟨g.leg.trans hleg, fun p hp => (g.drive p hp).trans (hdrive p hp)⟩,
    hr.reported hrep⟩

end Sys2Proof.Machine
end

section
/-! SUPPORT. A conversion stage that enters a mode, and one that trips: what it writes, and what it leaves to the other stages
(R190, R191, R196, R225). -/

namespace Sys2Proof.Machine

variable {K : Nat → Prop} {s₀ s t u : State} {st k m cause code : Nat} {d : LegDrive} {w : Word} {ps : List Nat} {host : Bool}
  {g : Field}

theorem convKeys_pages (st : Nat) : ConvKeys (stagePages st) st where
  toModeKeys := modeKeys_pages st
  ref := stagePages_key st (by decide)
  refIn := stagePages_key st (by decide)
  trims := stagePages_key st (by decide)
  cause := stagePages_key st (by decide)

theorem Steers.legs_eq (h : Steers (stagePages k) s t) (st : Nat) : t.legs st = s.legs st :=
  legs_congr (fun _ hp => h.spares.legs_owner hp) st

/-- The words of another stage's page. -/
theorem Steers.word_stage_ne (h : Steers (stagePages st) s t) (hk : k ≠ st) (hst : k < 10) {o : Nat} (ho : o < 0x2000000) :
    t.word (pgSG k) o = s.word (pgSG k) o := by
  refine h.spares.word ?_
  rw [stagePages, keyPage_regKey ho]
  simp only [List.mem_cons, List.not_mem_nil, or_false, pgSG, pgSUP]
  omega

theorem not_mem_legs_of_ne (s : State) (hk : k ≠ st) : ∀ p ∈ s.legs k, p ∉ s.legs st := fun p hp hq => by
  have h1 := beq_iff_eq.1 (List.mem_filter.1 hp).2
  have h2 := beq_iff_eq.1 (List.mem_filter.1 hq).2
  exact hk (h1.symm.trans h2)

/-- The drive that a leg code asks of a leg of a conversion stage (R191). -/
def convDrive (code : Nat) : LegDrive := if code = 0 then .driven else if code = 1 then .off else .lowOn

theorem codeDrive_conv (hst : 2 ≤ st ∧ st < 6) (s : State) (code : Nat) : s.codeDrive st code = convDrive code := by
  have ht : isTraction st = false := decide_eq_false (by omega)
  have ha : isActuation st = false := by
    simp only [isActuation, Bool.and_eq_false_iff, decide_eq_false_iff_not]
    omega
  unfold State.codeDrive convDrive
  rw [ht, ha]
  rfl

/-- A conversion stage enters a mode, and its legs follow. -/
def State.convInto (s : State) (st m code : Nat) (host : Bool := false) : State := (s.setMode st m host).setAllLegs st code

theorem setAllLegs_conv (hst : 2 ≤ st) (s : State) (code : Nat) : s.setAllLegs st code = s.setLegCode st 0 code :=
  if_neg (by simp only [isTraction, decide_eq_true_eq]; omega)

theorem convInto_eq (hst : 2 ≤ st) (s : State) (m code : Nat) (host : Bool) :
    s.convInto st m code host = (s.setMode st m host).setLegCode st 0 code := setAllLegs_conv hst _ _

theorem setLegs_conv (hst : 2 ≤ st) (s : State) : s.setLegs st 0 = s.legs st := if_neg (by omega)

theorem Steers.convInto (h : Steers (stagePages st) s₀ s) (m code : Nat) (host : Bool) :
    Steers (stagePages st) s₀ (s.convInto st m code host) :=
  (h.setMode (modeKeys_pages st) m host).setAllLegs (modeKeys_pages st) code

/-- A conversion stage reports one leg code, at the place of set A's (R191). -/
theorem rd_setLegCode_conv (hst : 2 ≤ st) (hl : FieldsApart Reg.SGT.STAT_LEGS_A g) (set : Nat) :
    (s.setLegCode st set code).rd (pgSG st) g = s.rd (pgSG st) g := by
  have hshow (u : State) : (u.showLegs st).rd (pgSG st) g = u.rd (pgSG st) g := by
    unfold State.showLegs
    dsimp only
    rw [if_neg (by simp only [isTraction, decide_eq_true_eq]; omega)]
    exact rd_wr_apart (f := Reg.SGT.STAT_LEGS_A) _ _ (by decide) hl
  exact (hshow _).trans (rd_congr (each_driveLeg_parts _ _ _ .regs (by decide)) _ _)

theorem rd_convInto (hst : 2 ≤ st) (hm : ModeApart g) (hl : FieldsApart Reg.SGT.STAT_LEGS_A g) :
    (s.convInto st m code host).rd (pgSG st) g = s.rd (pgSG st) g := by
  rw [convInto_eq hst]
  exact (rd_setLegCode_conv hst hl 0).trans (rd_setMode host hm)

theorem convInto_parts (s : State) (st m code : Nat) (host : Bool) :
    Touches [.regs, .pushes, .guards, .chans, .stages] s (s.convInto st m code host) :=
  ((Kept.start.setMode (by simp) st m host).setAllLegs (List.Subset.refl _) st code).same

theorem convInto_in (hst : 2 ≤ st ∧ st < 6) (hm : m < 8) (s : State) (code : Nat) (host : Bool) :
    ConvIn s (s.convInto st m code host) st m (s.rd (pgSG st) Reg.SGC.TRIP_CAUSE) code (convDrive code)
      ((s.convInto st m code host).refEff st) where
  mode := ((rd_setAllLegs (by decide)).trans (mode_setMode s st m host)).trans (Nat.mod_eq_of_lt hm)
  cause := rd_convInto hst.1 (by decide) (by decide)
  ref := rfl
  legs := by
    have hlegs := ((Steers.start (s := s)).setMode (modeKeys_pages st) m host).legs_eq st
    rw [convInto_eq hst.1]
    refine ⟨by rw [setLegCode_stage, if_pos rfl], fun p hp => ?_⟩
    rw [← codeDrive_conv hst (s.setMode st m host)]
    exact setLegCode_drive (.inl (by rw [setLegs_conv hst.1, hlegs]; exact hp))

theorem modeWords_stages (s : State) (st m : Nat) : (s.modeWords st m).stages = s.stages :=
  (wr_stages _ _ _ _).trans ((wr_stages _ _ _ _).trans (wr_stages _ _ _ _))

/-- A change of the mode leaves the other stages' records. -/
theorem setMode_stage_ne (s : State) (m : Nat) (host : Bool) (hk : k ≠ st) : (s.setMode st m host).stage k = s.stage k := by
  obtain ⟨x, a, b, -, he | he⟩ := setMode_cases s st m host
  · rw [he, stage_setStage_ne _ _ hk]
    exact stage_congr (modeWords_stages _ _ _) k
  · rw [he, stage_congr (agrEvent_stages _ _), stage_setStage_ne _ _ hk]
    exact stage_congr (modeWords_stages _ _ _) k

theorem setLegCode_stage_ne (s : State) (set code : Nat) (hk : k ≠ st) : (s.setLegCode st set code).stage k = s.stage k := by
  unfold State.setLegCode
  rw [stage_congr (showLegs_parts _ _ .stages (by decide)), stage_congr (each_driveLeg_parts _ _ _ .stages (by decide)),
    stage_setStage_ne _ _ hk]

/-- The legs that are not in a list keep their drives. -/
theorem each_driveLeg_drive_ne {q : Nat} (d : LegDrive) (h : q ∉ ps) :
    ((s.each ps fun s p => s.driveLeg p d).chan q).drive = (s.chan q).drive := by
  unfold State.each
  induction ps generalizing s with
  | nil => rfl
  | cons p ps ih =>
    obtain ⟨hp, hps⟩ := not_or.1 (mt List.mem_cons.2 h)
    exact (ih hps).trans ((chan_driveLeg s p d q).trans (if_neg hp))

theorem setLegCode_drive_ne {q set : Nat} (h : q ∉ s.setLegs st set) (code : Nat) :
    ((s.setLegCode st set code).chan q).drive = (s.chan q).drive := by
  unfold State.setLegCode
  rw [chan_congr (showLegs_parts _ _ .chans (by decide))]
  exact each_driveLeg_drive_ne _ h

/-- A stage that enters a mode leaves every other stage in its own, and the legs that it does not own. -/
theorem convInto_holds (hk : k ≠ st) (hk10 : k < 10) (hst : 2 ≤ st) (hps : ∀ p ∈ ps, p ∉ s.legs st) (m code : Nat) (host : Bool) :
    StageHolds k ps s (s.convInto st m code host) := by
  have hs := (Steers.start (s := s)).convInto (st := st) m code host
  have hlegs := ((Steers.start (s := s)).setMode (modeKeys_pages st) m host).legs_eq st
  have hmode : (s.setMode st m host).chans = s.chans :=
    (Kept.start.setMode (L := [.regs, .pushes, .stages]) (List.Subset.refl _) st m host).same .chans (by decide)
  have hword (o : Nat) (ho : o < 0x2000000) := hs.word_stage_ne hk hk10 ho
  refine ⟨rd_of_word (hword _ (by decide)), rd_of_word (hword _ (by decide)), hword _ (by decide), ?_, fun p hp => ?_⟩
  · rw [convInto_eq hst, setLegCode_stage_ne _ _ _ hk, setMode_stage_ne _ _ _ hk]
  · rw [convInto_eq hst, setLegCode_drive_ne, chan_congr hmode]
    rw [setLegs_conv hst, hlegs]
    exact hps p hp

/-- A conversion stage that trips shows it: its reference is 0, S2 opens, and FLAGS follow (R196, R214). -/
def State.tripShown (s : State) (st : Nat) : State := ((s.setRef st 0).when (st = 2) (·.setS2 false)).convShow st

/-- What follows the legs of a conversion stage that trips: it shows the trip, and reports it (R196, R225). -/
def State.convOut (s : State) (st cause : Nat) : State := (s.tripShown st).reportTp .u (tripFault cause) (pgSG st)

theorem tripShown_parts (s : State) (st : Nat) : Touches [.regs, .pushes] s (s.tripShown st) := by
  have h := (Kept.start (L := [.regs, .pushes]) (s := s)).setRef (List.Subset.refl _) st 0
  exact ((h.when (c := st = 2) fun _ g => g.setS2 (List.Subset.refl _) false).convShow (List.Subset.refl _) st).same

theorem rd_tripShown (hS : FieldsApart Reg.SGC.STAT_S2 g) (ho : g.off ∉ [0x180, 0x704, 0x708]) :
    (s.tripShown st).rd (pgSG st) g = s.rd (pgSG st) g := by
  simp only [List.mem_cons, List.not_mem_nil, or_false, not_or] at ho
  obtain ⟨h0, h1, h2⟩ := ho
  have href : (s.setRef st 0).rd (pgSG st) g = s.rd (pgSG st) g := (rd_setWord_off _ _ h2).trans (rd_setWord_off _ _ h0)
  refine (rd_setWord_off _ _ h1).trans ?_
  unfold State.when
  split
  · next hst =>
    obtain rfl := of_decide_eq_true hst
    exact (rd_setWord_off _ _ h1).trans ((rd_wrB_apart _ _ (by decide) hS).trans href)
  · exact href

/-- A trip of the inlet stage opens S2 (R214). -/
theorem tripShown_s2 (s : State) : (s.tripShown 2).rdB (pgSG 2) Reg.SGC.STAT_S2 = false :=
  (rdB_congr_rd (rd_setWord_off _ _ (by decide))).trans ((rdB_congr_rd (rd_setWord_off _ _ (by decide))).trans
    (rdB_wrB_self _ _ _ (by decide) rfl))

theorem Steers.tripShown (h : Steers (stagePages st) s₀ s) : Steers (stagePages st) s₀ (s.tripShown st) := by
  have hr := h.setRef (convKeys_pages st) 0
  refine Steers.convShow ?_ (convKeys_pages st)
  unfold State.when
  split
  · next hst =>
    obtain rfl := of_decide_eq_true hst
    exact hr.setS2 (convKeys_pages 2) false
  · exact hr

theorem ConvIn.tripShown (h : ConvIn s u st m cause code d w) : ConvIn s (u.tripShown st) st m cause code d 0 := by
  refine (h.setRef 0).held (StageHolds.convShow ?_)
  unfold State.when
  split
  · next hst =>
    obtain rfl := of_decide_eq_true hst
    exact StageHolds.start.setS2 false
  · exact .start

theorem convOut_parts (s : State) (st cause : Nat) : Touches [.regs, .pushes, .coll] s (s.convOut st cause) :=
  Touches.trans ((tripShown_parts s st).mono (by simp)) (Kept.start.reportTp (by simp) _ _ _ _ _).same

theorem Steers.convOut (h : Steers (stagePages st) s₀ s) (cause : Nat) : Steers (stagePages st) s₀ (s.convOut st cause) :=
  h.tripShown.reportTp _ _ _ _ _

theorem rd_convOut (hS : FieldsApart Reg.SGC.STAT_S2 g) (ho : g.off ∉ [0x180, 0x704, 0x708]) :
    (s.convOut st cause).rd (pgSG st) g = s.rd (pgSG st) g :=
  (rd_congr (reportTp_regs _ _ _ _ _ _) _ _).trans (rd_tripShown hS ho)

/-- A stage whose legs have followed its trip has tripped, and says so. -/
theorem ConvIn.tripped (h : ConvIn s u st 5 cause (if cause = 9 then 2 else 1) d w)
    (hd : d = convDrive (if cause = 9 then 2 else 1)) (hs : u.coll.stopped = false) : Tripped s (u.convOut st cause) st cause := by
  obtain ⟨hmode, hcause, href, hlegs⟩ :=
    h.tripShown.held (StageHolds.start.reportTp .u (tripFault cause) (pgSG st) 0 false)
  have hdrive : d = if cause = 9 then .lowOn else .off := by
    rw [hd]
    split <;> rfl
  rw [hdrive] at hlegs
  exact ⟨hmode, hcause, href, hlegs, reported_reportTp _ _ _ _ _ _ ((congrArg _ (tripShown_parts u st .coll (by decide))).trans hs)⟩

end Sys2Proof.Machine
end

section
/-! SUPPORT. Trips of conversion stages: what a trip of one leaves, and the trip of the inlet stage, which the on-board stage follows
(R196, R215). -/

namespace Sys2Proof.Machine

variable {s₀ s t u : State} {st k cause : Nat} {ps : List Nat} {g : Field}

/-- The cause is recorded and OFF_PEND clears before a trip forces the legs (R196, R230). -/
def State.tripCaused (s : State) (st cause : Nat) : State :=
  (s.wr (pgSG st) Reg.SGC.TRIP_CAUSE cause).wrB (pgSG st) Reg.SGC.STAT_OFF_PEND false

/-- A trip of one stage, before an inlet stage that waits for it follows. -/
def State.tripOut (s : State) (st cause : Nat) : State :=
  ((s.tripCaused st cause).convInto st 5 (if cause = 9 then 2 else 1)).convOut st cause

theorem convTripOne_eq_tripOut (s : State) (st cause : Nat) :
    s.convTripOne st cause = (s.tripOut st cause).when (st = 3) State.releaseOffPend := rfl

theorem convTripOne_ne (h3 : st ≠ 3) : s.convTripOne st cause = s.tripOut st cause :=
  (convTripOne_eq_tripOut s st cause).trans (if_neg (by simpa using h3))

theorem Steers.tripCaused (h : Steers (stagePages st) s₀ s) (cause : Nat) : Steers (stagePages st) s₀ (s.tripCaused st cause) :=
  (h.wr (f := Reg.SGC.TRIP_CAUSE) (convKeys_pages st).cause cause).wrB (f := Reg.SGC.STAT_OFF_PEND) (modeKeys_pages st).stat false

theorem tripCaused_parts (s : State) (st cause : Nat) : Touches [.regs, .pushes] s (s.tripCaused st cause) :=
  ((Kept.start.wr (List.Subset.refl _) _ _ _).wrB (List.Subset.refl _) _ _ _).same

theorem steers_tripOut (s : State) (st cause : Nat) : Steers (stagePages st) s (s.tripOut st cause) :=
  ((Steers.start.tripCaused cause).convInto 5 _ false).convOut cause

/-- A trip leaves the flags of the stage beside those it names. -/
theorem rd_tripOut (hst : 2 ≤ st) (hm : ModeApart g) (hl : FieldsApart Reg.SGT.STAT_LEGS_A g) (hS : FieldsApart Reg.SGC.STAT_S2 g)
    (hp : FieldsApart Reg.SGC.STAT_OFF_PEND g) (ho : g.off ∉ [0x180, 0x190, 0x704, 0x708]) :
    (s.tripOut st cause).rd (pgSG st) g = s.rd (pgSG st) g := by
  simp only [List.mem_cons, List.not_mem_nil, or_false, not_or] at ho
  obtain ⟨h0, h9, h1, h2⟩ := ho
  exact (rd_convOut hS (by simp [h0, h1, h2])).trans ((rd_convInto hst hm hl).trans
    ((rd_wrB_apart _ _ (by decide) hp).trans (rd_wr_off _ _ _ _ h9)))

theorem tripOut_s2 (s : State) (cause : Nat) : (s.tripOut 2 cause).rdB (pgSG 2) Reg.SGC.STAT_S2 = false :=
  (rdB_congr (reportTp_regs _ _ _ _ _ _) _ _).trans (tripShown_s2 _)

theorem tripOut_offPend (hst : 2 ≤ st) (s : State) (cause : Nat) : (s.tripOut st cause).rdB (pgSG st) Reg.SGC.STAT_OFF_PEND = false :=
  (rdB_congr_rd ((rd_convOut (by decide) (by decide)).trans (rd_convInto hst (by decide) (by decide)))).trans
    (rdB_wrB_self _ _ _ (by decide) rfl)

theorem tripOut_tripped (hst : 2 ≤ st ∧ st < 6) (hc : cause < 16) (hs : s.coll.stopped = false) :
    Tripped s (s.tripOut st cause) st cause := by
  have hcaused := (Steers.start (s := s)).tripCaused (st := st) cause
  have hcause : (s.tripCaused st cause).rd (pgSG st) Reg.SGC.TRIP_CAUSE = cause :=
    (rd_wrB_apart _ _ (by decide) (by decide)).trans ((rd_wr_self _ _ _ (by decide)).trans (Nat.mod_eq_of_lt hc))
  have hin := (convInto_in hst (m := 5) (by decide) (s.tripCaused st cause) (if cause = 9 then 2 else 1) false).rebase
    (hcaused.legs_eq st).symm
  rw [hcause] at hin
  exact hin.tripped rfl ((hcaused.convInto 5 _ false).spares.stopped.trans hs)

/-- A trip leaves every other stage as it is, and the legs that it does not own. -/
theorem tripOut_holds (hk : k ≠ st) (hk10 : k < 10) (hst : 2 ≤ st) (hps : ∀ p ∈ ps, p ∉ s.legs st) :
    StageHolds k ps s (s.tripOut st cause) := by
  have hsteer := steers_tripOut s st cause
  have hcaused := (Steers.start (s := s)).tripCaused (st := st) cause
  have hword (o : Nat) (ho : o < 0x2000000) := hsteer.word_stage_ne hk hk10 ho
  have hinto := convInto_holds (s := s.tripCaused st cause) hk hk10 hst (ps := ps) (by rw [hcaused.legs_eq st]; exact hps) 5
    (if cause = 9 then 2 else 1) false
  have h0 := tripCaused_parts s st cause
  have h1 := convOut_parts ((s.tripCaused st cause).convInto st 5 (if cause = 9 then 2 else 1)) st cause
  refine ⟨rd_of_word (hword _ (by decide)), rd_of_word (hword _ (by decide)), hword _ (by decide), ?_, fun p hp => ?_⟩
  · exact (congrArg Stage.legA (stage_congr (h1 .stages (by decide)) k)).trans
      (hinto.leg.trans (congrArg Stage.legA (stage_congr (h0 .stages (by decide)) k)))
  · exact (congrArg Channel.drive (chan_congr (h1 .chans (by decide)) p)).trans
      ((hinto.drive p hp).trans (congrArg Channel.drive (chan_congr (h0 .chans (by decide)) p)))

/-- Without a pending Off of the inlet stage nothing waits for the on-board stage (R215). -/
theorem releaseOffPend_of_not (h : s.rdB (pgSG 2) Reg.SGC.STAT_OFF_PEND = false) : s.releaseOffPend = s :=
  if_neg (by rw [h]; decide)

theorem releaseOffPend_parts (s : State) : Touches [.regs, .pushes, .stages] s s.releaseOffPend :=
  (Kept.start.releaseOffPend (List.Subset.refl _)).same

theorem steers_releaseOffPend (s : State) : Steers (stagePages 2) s s.releaseOffPend := Steers.start.releaseOffPend (convKeys_pages 2)

theorem convStop_stage_ne (s : State) (host : Bool) (hk : k ≠ st) : (s.convStop st host).stage k = s.stage k := by
  unfold State.convStop State.convShow State.setIn
  dsimp only
  rw [stage_congr (setWord_stages _ _ _ _), stage_setStage_ne _ _ hk, setMode_stage_ne _ _ _ hk]

/-- The end of the wait changes the inlet stage only (R215). -/
theorem releaseOffPend_holds (hk : k ≠ 2) (hk10 : k < 10) : StageHolds k ps s s.releaseOffPend := by
  have hword (o : Nat) (ho : o < 0x2000000) := (steers_releaseOffPend s).word_stage_ne hk hk10 ho
  refine ⟨rd_of_word (hword _ (by decide)), rd_of_word (hword _ (by decide)), hword _ (by decide), ?_,
    fun p _ => by rw [chan_congr (releaseOffPend_parts s .chans (by decide))]⟩
  unfold State.releaseOffPend
  split
  · rw [convStop_stage_ne _ _ hk, stage_congr (wrB_stages _ _ _ _)]
  · rfl

theorem convTripOne_effect (hst : 2 ≤ st ∧ st < 6) (hc : cause < 16) (hs : s.coll.stopped = false) :
    Tripped s (s.convTripOne st cause) st cause := by
  have h := tripOut_tripped hst hc hs
  rw [convTripOne_eq_tripOut]
  unfold State.when
  split
  · next h3 =>
    obtain rfl := of_decide_eq_true h3
    exact h.held (releaseOffPend_holds (by decide) (by decide)) (steers_releaseOffPend _).spares
  · exact h

/-- After a trip of the inlet stage the on-board stage has nothing to release (R215). -/
theorem convTripOne_after_inlet (s : State) (cause c : Nat) : (s.tripOut 2 cause).convTripOne 3 c = (s.tripOut 2 cause).tripOut 3 c := by
  rw [convTripOne_eq_tripOut]
  exact releaseOffPend_of_not ((rdB_congr_rd (rd_of_word ((steers_tripOut _ 3 c).word_stage_ne (by decide) (by decide) (by decide)))).trans
    (tripOut_offPend (by decide) s cause))

theorem mode_tripOut_ne (s : State) (cause : Nat) (hk : k ≠ st) (hk10 : k < 10) : (s.tripOut st cause).mode k = s.mode k :=
  rd_of_word ((steers_tripOut s st cause).word_stage_ne hk hk10 (by decide))

/-- The state in which a trip of the inlet stage ends: the on-board stage follows where it is active (R196, R215). -/
theorem convTrip_inlet (ha : s.convActive 2 = true) (cause : Nat) : s.convTrip 2 cause =
    if s.convActive 3 then (s.tripOut 2 cause).tripOut 3 8 else s.tripOut 2 cause := by
  have h3 : (s.tripOut 2 cause).convActive 3 = s.convActive 3 := by
    unfold State.convActive
    rw [mode_tripOut_ne s cause (by decide) (by decide)]
  have he : s.convTrip 2 cause =
      if (s.tripOut 2 cause).convActive 3 then (s.tripOut 2 cause).convTripOne 3 8 else s.tripOut 2 cause := by
    unfold State.convTrip
    rw [if_pos ha, convTripOne_ne (by decide)]
    simp only [true_and]
  rw [he, h3, convTripOne_after_inlet]

theorem convActive_of_mode (h : 1 ≤ s.mode st ∧ s.mode st ≤ 4) : s.convActive st = true := by
  unfold State.convActive
  simp [h.1, h.2]

theorem mode_of_convDriven (h : s.convDriven st = true) : 2 ≤ s.mode st ∧ s.mode st ≤ 4 := by
  simpa [State.convDriven] using h

theorem convActive_of_driven (h : s.convDriven st = true) : s.convActive st = true := by
  obtain ⟨h2, h4⟩ := mode_of_convDriven h
  exact convActive_of_mode ⟨by omega, h4⟩

/-- A trip of the inlet stage: it has tripped and opened S2, the presence of the grid stays, and an active on-board stage has tripped
too (R196, R207, R214, R215). -/
theorem convTrip_inlet_effect (ha : s.convActive 2 = true) (hc : cause < 16) (hs : s.coll.stopped = false) :
    Tripped s (s.convTrip 2 cause) 2 cause ∧ (s.convTrip 2 cause).rdB (pgSG 2) Reg.SGC.STAT_S2 = false ∧
      (s.convTrip 2 cause).rdB (pgSG 2) Reg.SGC.STAT_GRID_OK = s.rdB (pgSG 2) Reg.SGC.STAT_GRID_OK ∧
      (1 ≤ s.mode 3 → s.mode 3 ≤ 4 → Tripped s (s.convTrip 2 cause) 3 8) := by
  have h2 := tripOut_tripped (st := 2) (by decide) hc hs
  have hS2 := tripOut_s2 s cause
  have hgrid : (s.tripOut 2 cause).rdB (pgSG 2) Reg.SGC.STAT_GRID_OK = s.rdB (pgSG 2) Reg.SGC.STAT_GRID_OK :=
    rdB_congr_rd (rd_tripOut (by decide) (by decide) (by decide) (by decide) (by decide) (by decide))
  have hsteer := steers_tripOut s 2 cause
  rw [convTrip_inlet ha]
  split
  · have h3 := (tripOut_tripped (st := 3) (cause := 8) (by decide) (by decide) (hsteer.spares.stopped.trans hs)).rebase
      (hsteer.legs_eq 3).symm
    have hsteer3 := steers_tripOut (s.tripOut 2 cause) 3 8
    have hrdB (f : Field) (hf : f.off < 0x2000000) :=
      rdB_congr_rd (rd_of_word (f := f) (hsteer3.word_stage_ne (k := 2) (by decide) (by decide) hf))
    refine ⟨h2.held (tripOut_holds (by decide) (by decide) (by decide) ?_) hsteer3.spares, (hrdB _ (by decide)).trans hS2,
      (hrdB _ (by decide)).trans hgrid, fun _ _ => h3⟩
    rw [hsteer.legs_eq 3]
    exact not_mem_legs_of_ne s (by decide)
  · next hn => exact ⟨h2, hS2, hgrid, fun h1 h4 => absurd (convActive_of_mode ⟨h1, h4⟩) hn⟩

/-- An active conversion stage trips (R196). -/
theorem convTrip_tripped (hst : 2 ≤ st ∧ st < 6) (ha : s.convActive st = true) (hc : cause < 16) (hs : s.coll.stopped = false) :
    Tripped s (s.convTrip st cause) st cause := by
  by_cases h2 : st = 2
  · subst h2
    exact (convTrip_inlet_effect ha hc hs).1
  · have he : s.convTrip st cause = s.convTripOne st cause := (if_pos ha).trans (if_neg fun h => h2 h.1)
    rw [he]
    exact convTripOne_effect hst hc hs

end Sys2Proof.Machine
end

section
/-! PROOF. The end of a start delay, of a start timeout and of a stop delay, a stale command, and the crowbar (O25). -/

namespace Sys2Proof.Machine

variable {s t u : State} {st : Nat}

/-- The reference from which a stage starts to ramp (R198). -/
def State.rampFrom (s : State) (st : Nat) : Word :=
  if st = 2 then s.stageIn 2 4
  else if st = 3 then 0
  else if s.rdB (pgSG st) Reg.SGC.CCFG_PREBIAS then s.stageIn st 4 else 0

/-- The ramp and the supervision of the command count from this instant (R197, R218). -/
def State.rampTimed (s : State) (st : Nat) : State :=
  s.setStage st { s.stage st with
    lastInstant := s.now, rateFrom := s.now, accUp := 0, accDn := 0, cmdAt := s.now, cmdSeen := false, inBad := 0
    stopHeld := false }

/-- A stage enters Ramp from Delay (R194, R198). -/
def State.enterRamp (s : State) (st : Nat) : State :=
  (((s.convInto st 2 0).rampTimed st).setRef st (s.rampFrom st)).convShow st

theorem delayEnd_eq (hc : isConversion st = true) (hm : s.mode st = 1)
    (hp : s.passed (s.stage st).reqAt (usTicks (s.rd (pgSG st) Reg.SGC.DLY_START)) = true) (hs : s.startConditions st = true) :
    s.delayEnd st = s.enterRamp st := if_pos ⟨hc, hm, hp, hs⟩

theorem delayEnd_of_not (h : isConversion st = false ∨ s.mode st ≠ 1 ∨ s.startConditions st = false) : s.delayEnd st = s := by
  refine if_neg fun ⟨hc, hm, _, hs⟩ => ?_
  rcases h with h | h | h
  · simp [h] at hc
  · exact h hm
  · simp [h] at hs

theorem isConversion_iff : isConversion st = true ↔ 2 ≤ st ∧ st < 6 := by
  simp only [isConversion, Bool.and_eq_true, decide_eq_true_eq]

/-- A stage that enters Ramp drives its legs, starts its reference, and counts from this instant (R194, R198, R218). -/
theorem enterRamp_effect (hst : 2 ≤ st ∧ st < 6) (s : State) : (s.enterRamp st).mode st = 2 ∧
    LegsBecome s (s.enterRamp st) st 0 .driven ∧ (s.enterRamp st).refEff st = s.rampFrom st ∧
    ((s.enterRamp st).stage st).cmdAt = s.now ∧ ((s.enterRamp st).stage st).cmdSeen = false ∧
    OnlyPages [pgSG st, pgSUP] s (s.enterRamp st) := by
  have hin := convInto_in hst (m := 2) (by decide) s 0 false
  have hnow := convInto_parts s st 2 0 false .now (by decide)
  have htimed : ((s.convInto st 2 0).rampTimed st).stage st = _ := stage_setStage_self _ _ _
  have hshow := setRef_convShow_parts ((s.convInto st 2 0).rampTimed st) st (s.rampFrom st)
  have hsteer := (Steers.start (s := s)).convInto (st := st) 2 0 false
  have hall : Steers (stagePages st) s (s.enterRamp st) :=
    ((hsteer.setStage st _ (by exact hsteer.timing st)).setRef (convKeys_pages st) _).convShow (convKeys_pages st)
  have htime : StageHolds st (s.legs st) (s.convInto st 2 0) ((s.convInto st 2 0).rampTimed st) := .setStage .start rfl
  obtain ⟨hmode, -, href, hlegs⟩ := ((hin.held htime).setRef (s.rampFrom st)).held (.convShow .start)
  refine ⟨hmode, hlegs, href, ?_, ?_, hall.onlyPages⟩
  · refine (congrArg Stage.cmdAt ((stage_congr (hshow .stages (by decide)) st).trans htimed)).trans hnow
  · exact congrArg Stage.cmdSeen ((stage_congr (hshow .stages (by decide)) st).trans htimed)

theorem startTimeout_eq (hc : isConversion st = true) (hm : s.mode st = 1)
    (hp : s.passed (s.stage st).reqAt (msTicks (startTimeoutMs st)) = true) : s.startTimeout st = s.convTrip st 10 :=
  if_pos ⟨hc, hm, hp⟩

theorem stopDelayEnd_inlet (hm : s.mode 2 = 4) (hh : (s.stage 2).stopHeld = true)
    (hp : s.passed (s.stage 2).modeAt (usTicks (s.rd (pgSG 2) Reg.SGC.DLY_STOP)) = true) : s.stopDelayEnd 2 = s.convOff 2 :=
  (if_pos ⟨rfl, hm, hh, hp⟩).trans (if_pos rfl)

theorem stopDelayEnd_other (hc : isConversion st = true) (h2 : st ≠ 2) (hm : s.mode st = 4) (hh : (s.stage st).stopHeld = true)
    (hp : s.passed (s.stage st).modeAt (usTicks (s.rd (pgSG st) Reg.SGC.DLY_STOP)) = true) :
    s.stopDelayEnd st = s.setStage st { s.stage st with stopHeld := false } :=
  (if_pos ⟨hc, hm, hh, hp⟩).trans (if_neg h2)

/-- The inlet stage off, with its legs, before its latches and S2 follow (R230). -/
def State.inletOff (s : State) (host : Bool) : State :=
  (((s.wrB (pgSG 2) Reg.SGC.STAT_OFF_PEND false).convInto 2 0 1 host).setRef 2 0).releaseLatches 2

theorem convOff_inlet (s : State) (host : Bool) : s.convOff 2 host = ((s.inletOff host).setS2 false).convShow 2 := rfl

/-- The inlet stage goes Off: its legs are off, its reference is 0, and S2 opens (R200, R214, R230). -/
theorem convOff_inlet_effect (s : State) (host : Bool) : (s.convOff 2 host).mode 2 = 0 ∧ LegsBecome s (s.convOff 2 host) 2 1 .off ∧
    (s.convOff 2 host).refEff 2 = 0 ∧ (s.convOff 2 host).rdB (pgSG 2) Reg.SGC.STAT_S2 = false := by
  have hpend : Steers (stagePages 2) s (s.wrB (pgSG 2) Reg.SGC.STAT_OFF_PEND false) :=
    Steers.start.wrB (f := Reg.SGC.STAT_OFF_PEND) (modeKeys_pages 2).stat false
  have hin := ((convInto_in (st := 2) (by decide) (m := 0) (by decide) (s.wrB (pgSG 2) Reg.SGC.STAT_OFF_PEND false) 1 host).rebase
    (hpend.legs_eq 2).symm).setRef 0
  obtain ⟨hmode, -, href, hlegs⟩ := hin.held (((StageHolds.start.releaseLatches).setS2 false).convShow)
  rw [convOff_inlet]
  exact ⟨hmode, hlegs, href, (rdB_congr_rd (rd_setWord_off _ _ (by decide))).trans
    ((rdB_congr_rd (rd_setWord_off _ _ (by decide))).trans (rdB_wrB_self _ _ _ (by decide) rfl))⟩

theorem staleCommand_eq (h3 : 3 ≤ st) (h5 : st ≤ 5) (hd : s.convDriven st = true)
    (hp : s.passed (s.stage st).cmdAt (usTicks (clampNat 1 1000 (s.rd (pgSG st) Reg.SGC.STALE_US))) = true) :
    s.staleCommand st = s.convTrip st 5 := if_pos ⟨h3, h5, hd, hp⟩

/-- The crowbar's latch holds and its trip is recorded, before the legs follow (R225). -/
def State.crowbarLatched (s : State) : State :=
  (s.wrB (pgSG 5) Reg.SGC.STAT_CB_LATCH true).wr (pgSG 5) Reg.SGC.TRIP_CAUSE 9

theorem crowbarArmed_iff : s.crowbarArmed = true ↔ s.mode 5 ≠ 0 ∧ fpKey (s.sgw 5 Reg.SGC.CROWBAR_V) ≠ 0 := by
  simp [State.crowbarArmed, State.stageOff]

theorem crowbarFire_eq (h : s.crowbarArmed = true) : s.crowbarFire = (s.crowbarLatched.convInto 5 5 2).convOut 5 9 := if_pos h

theorem crowbarFire_of_not (h : s.mode 5 = 0 ∨ fpKey (s.sgw 5 Reg.SGC.CROWBAR_V) = 0) : s.crowbarFire = s :=
  if_neg fun ha => (crowbarArmed_iff.1 ha).elim fun hm hv => h.elim hm hv

/-- What STAT shows of the legs of SG5: the low sides while the crowbar's latch holds, else the leg code, which STO does not change
(R191, R226, R227). -/
theorem legs_showLegs (s : State) : (s.showLegs 5).rd (pgSG 5) Reg.SGT.STAT_LEGS_A =
    (if s.crowbar then 2 else (s.stage 5).legA) % 4 := by
  have he : s.showLegs 5 = s.wr (pgSG 5) (legsField 0) (if 5 = 5 ∧ s.crowbar then 2 else
      (if s.stoOpen ∧ 5 ≠ 5 ∧ ¬ (isActuation 5 ∧ (s.stage 5).legA = 2) then 3 else (s.stage 5).legA)) := rfl
  rw [he]
  refine (rd_wr_self _ _ _ (by decide)).trans (congrArg (· % 4) ?_)
  simp

theorem setLegCode_shown (s : State) (code : Nat) : (s.setLegCode 5 0 code).rd (pgSG 5) Reg.SGT.STAT_LEGS_A =
    (if s.crowbar then 2 else code) % 4 := by
  have hleg := setLegCode_stage s 5 0 code
  unfold State.setLegCode at hleg ⊢
  dsimp only at hleg ⊢
  rw [stage_congr (showLegs_parts _ _ .stages (by decide))] at hleg
  rw [legs_showLegs, hleg]
  refine congrArg (fun b : Bool => (if b then 2 else code) % 4) ?_
  exact (rdB_congr (each_driveLeg_parts _ _ _ .regs (by decide)) _ _).trans (rdB_congr (setStage_regs _ _ _) _ _)

theorem Steers.crowbarLatched : Steers (stagePages 5) s s.crowbarLatched :=
  (Steers.start.wrB (f := Reg.SGC.STAT_CB_LATCH) (modeKeys_pages 5).stat true).wr (f := Reg.SGC.TRIP_CAUSE) (convKeys_pages 5).cause 9

theorem crowbar_crowbarLatched (s : State) : s.crowbarLatched.crowbar = true :=
  (rdB_congr_rd (rd_wr_off _ _ _ _ (by decide))).trans (rdB_wrB_self _ _ _ (by decide) rfl)

/-- The crowbar fires: SG5 trips with its low sides on, the latch holds, and STAT shows both (R196, R225). -/
theorem crowbarFire_effect (ha : s.crowbarArmed = true) (hs : s.coll.stopped = false) : Tripped s s.crowbarFire 5 9 ∧
    s.crowbarFire.rdB (pgSG 5) Reg.SGC.STAT_CB_LATCH = true ∧ s.crowbarFire.rd (pgSG 5) Reg.SGT.STAT_LEGS_A = 2 ∧
    OnlyPages [pgSG 5, pgSUP] s s.crowbarFire := by
  have hlatch := Steers.crowbarLatched (s := s)
  have hsteer := hlatch.convInto 5 2 false
  have hcause : s.crowbarLatched.rd (pgSG 5) Reg.SGC.TRIP_CAUSE = 9 := rd_wr_self _ _ _ (by decide)
  have hin := (convInto_in (st := 5) (by decide) (m := 5) (by decide) s.crowbarLatched 2 false).rebase (hlatch.legs_eq 5).symm
  rw [hcause] at hin
  have hmode : (s.crowbarLatched.setMode 5 5 false).crowbar = true :=
    (rdB_congr_rd (rd_setMode false (by decide))).trans (crowbar_crowbarLatched s)
  have hshown : (s.crowbarLatched.convInto 5 5 2).rd (pgSG 5) Reg.SGT.STAT_LEGS_A = 2 := by
    rw [convInto_eq (by decide), setLegCode_shown, hmode]
    rfl
  rw [crowbarFire_eq ha]
  exact ⟨hin.tripped rfl (hsteer.spares.stopped.trans hs),
    (rdB_congr_rd ((rd_convOut (by decide) (by decide)).trans (rd_convInto (by decide) (by decide) (by decide)))).trans (crowbar_crowbarLatched s),
    (rd_convOut (by decide) (by decide)).trans hshown, (hsteer.convOut 9).onlyPages⟩

/-- The latch released in Off: the legs are off, and STAT shows it (R191, R226). -/
theorem crowbarRelease_effect (hc : s.crowbar = true) (hm : s.mode 5 = 0) :
    s.crowbarRelease.rdB (pgSG 5) Reg.SGC.STAT_CB_LATCH = false ∧ LegsBecome s s.crowbarRelease 5 1 .off ∧
      s.crowbarRelease.rd (pgSG 5) Reg.SGT.STAT_LEGS_A = 1 := by
  have hoff : (s.wrB (pgSG 5) Reg.SGC.STAT_CB_LATCH false).stageOff 5 = true :=
    beq_iff_eq.2 ((rd_wrB_apart _ _ (by decide) (by decide)).trans hm)
  have he : s.crowbarRelease = (s.wrB (pgSG 5) Reg.SGC.STAT_CB_LATCH false).setLegCode 5 0 1 := by
    unfold State.crowbarRelease
    rw [if_pos hc]
    dsimp only
    rw [if_pos (.inl hoff), setAllLegs_conv (by decide)]
  have hlatch : (s.wrB (pgSG 5) Reg.SGC.STAT_CB_LATCH false).rdB (pgSG 5) Reg.SGC.STAT_CB_LATCH = false :=
    rdB_wrB_self _ _ _ (by decide) rfl
  have hlegs := (Steers.start (s := s)).wrB (f := Reg.SGC.STAT_CB_LATCH) (modeKeys_pages 5).stat false |>.legs_eq 5
  rw [he]
  refine ⟨(rdB_congr_rd (rd_setLegCode_conv (by decide) (by decide) 0)).trans hlatch, ⟨by rw [setLegCode_stage, if_pos rfl], fun p hp => ?_⟩, ?_⟩
  · exact setLegCode_drive (code := 1) (.inl (by rw [setLegs_conv (by decide), hlegs]; exact hp))
  · rw [setLegCode_shown]
    unfold State.crowbar
    rw [hlatch]
    rfl

theorem crowbarClear_released (hc : s.crowbar = true) (hm : s.mode 5 = 0) : s.crowbarClear true = s.crowbarRelease :=
  if_pos ⟨hc, beq_iff_eq.2 hm, rfl⟩

theorem crowbarClear_refused {below : Bool} (h : s.crowbar = false ∨ s.mode 5 ≠ 0 ∨ below = false) :
    s.crowbarClear below = s.reportTp .c 0x5C (pgSG 5) := by
  refine if_neg fun ⟨hc, hoff, hb⟩ => ?_
  rcases h with h | h | h
  · simp [h] at hc
  · exact h (beq_iff_eq.1 hoff)
  · simp [h] at hb

/-- Settles O25, by what an entry to Ramp, a trip, an entry to Off and the crowbar leave of the stage. -/
theorem conversionEvents : Obligations.ConversionEvents := by
  refine ⟨fun s st hc hm hp hs => ⟨s.enterRamp st, congrArg Host.Outcome.next (delayEnd_eq hc hm hp hs), ?_⟩,
    fun s st h => congrArg Host.Outcome.next (delayEnd_of_not h),
    fun s st hc hm hs hp => ⟨s.convTrip st 10, congrArg Host.Outcome.next (startTimeout_eq hc hm hp), ?_⟩,
    fun s hm hh hp => ⟨s.convOff 2, congrArg Host.Outcome.next (stopDelayEnd_inlet hm hh hp), convOff_inlet_effect s false⟩,
    fun s st hc h2 hm hh hp => ⟨s.setStage st { s.stage st with stopHeld := false },
      congrArg Host.Outcome.next (stopDelayEnd_other hc (fun h => h2 (Fin.ext h)) hm hh hp), stage_setStage_self _ _ _,
      (Kept.start.setStage (List.Subset.refl _) _ _).same⟩,
    fun s st h3 h5 h2 h4 hs hp => ?_,
    fun s hm hv hs => ⟨s.crowbarFire, rfl, crowbarFire_effect (crowbarArmed_iff.2 ⟨hm, hv⟩) hs⟩,
    fun s h => congrArg Host.Outcome.next (crowbarFire_of_not h),
    fun s hc hm => ⟨s.crowbarRelease, congrArg Host.Outcome.next (crowbarClear_released hc hm), crowbarRelease_effect hc hm⟩,
    fun s below h hs => ⟨s.reportTp .c 0x5C (pgSG 5), congrArg Host.Outcome.next (crowbarClear_refused h),
      reported_reportTp _ _ _ _ _ _ hs, (Kept.start.reportTp (List.Subset.refl _) _ _ _ _ _).same⟩⟩
  case refine_1 =>
    obtain ⟨hmode, hlegs, href, hat, hseen, honly⟩ := enterRamp_effect (isConversion_iff.1 hc) s
    refine ⟨hmode, hlegs, href.trans ?_, hat, hseen, honly⟩
    simp only [State.rampFrom, Fin.ext_iff]
    rfl
  case refine_2 =>
    have ha : s.convActive st = true := convActive_of_mode (by omega)
    refine ⟨convTrip_tripped (isConversion_iff.1 hc) ha (by decide) hs, ?_⟩
    have hinlet : st = 2 → _ := fun h2 => convTrip_inlet_effect (s := s) (cause := 10) (by subst h2; exact ha) (by decide) hs
    exact ⟨fun h2 => by subst h2; exact (hinlet rfl).2.1, fun h2 => by subst h2; exact (hinlet rfl).2.2.2⟩
  case refine_3 =>
    have hd : s.convDriven st = true := by
      unfold State.convDriven
      simp [h2, h4]
    exact ⟨s.convTrip st 5, congrArg Host.Outcome.next (staleCommand_eq h3 h5 hd hp),
      convTrip_tripped ⟨by omega, by omega⟩ (convActive_of_driven hd) (by decide) hs⟩

end Sys2Proof.Machine
end

section
/-! SUPPORT. A zero crossing of the grid: the frequency it gives, and the judgement of a complete period (R205, R212). -/

namespace Sys2Proof.Machine

variable {K : Nat → Prop} {s t u : State} {k : Nat} {ps : List Nat} {rms irms : List Word} {vpk : Word} {ok exceeds : Bool}

/-- The grid frequency over the last four crossings, with one now (R205). -/
def State.crossedFrequency (s : State) : Word :=
  if ((s.now :: (s.stage 2).crossings).take 4).length = 4 then
    fpOfRatio 480000000 (ticksSince (((s.now :: (s.stage 2).crossings).take 4).getD 3 0) s.now) else 0

theorem take_cons_length_four (x : Nat) (xs : List Nat) : ((x :: xs).take 4).length = 4 ↔ 3 ≤ xs.length := by
  rw [List.length_take, List.length_cons]
  omega

theorem crossedFrequency_eq (s : State) : s.crossedFrequency = if 3 ≤ (s.stage 2).crossings.length
    then fpOfRatio 480000000 (ticksSince ((s.stage 2).crossings.getD 2 0) s.now) else 0 := by
  unfold State.crossedFrequency
  simp only [take_cons_length_four]
  refine if_congr Iff.rfl ?_ rfl
  simp [List.getD_eq_getElem?_getD]

/-- A crossing is recorded and the frequency shown (R205). -/
def State.crossed (s : State) (vpk : Word) : State :=
  ((s.setWord (pgSG 2) Reg.SGC.GRID_F_HZ.off s.crossedFrequency).setIn 2 6 s.crossedFrequency).setStage 2 { s.stage 2 with
    crossings := (s.now :: (s.stage 2).crossings).take 4, halfDone := !(s.stage 2).halfDone
    gridVpk := if (s.stage 2).halfDone then vpk else (s.stage 2).gridVpk }

/-- The peak of a complete period is shown (R205). -/
def State.periodCrossed (s : State) (vpk : Word) : State := (s.crossed vpk).setIn 2 7 vpk

theorem gridCrossing_half (h : (s.stage 2).halfDone = false) : s.gridCrossing rms irms vpk = s.crossed vpk :=
  if_neg (by rw [h]; decide)

theorem gridCrossing_full (h : (s.stage 2).halfDone = true) :
    s.gridCrossing rms irms vpk = ((s.periodCrossed vpk).gridPeriod rms irms).convShow 2 := if_pos h

theorem crossed_stage (s : State) (vpk : Word) : (s.crossed vpk).stage 2 = { s.stage 2 with
    crossings := (s.now :: (s.stage 2).crossings).take 4, halfDone := !(s.stage 2).halfDone
    gridVpk := if (s.stage 2).halfDone then vpk else (s.stage 2).gridVpk } := stage_setStage_self _ _ _

theorem crossed_parts (s : State) (vpk : Word) : Touches [.regs, .pushes, .stages] s (s.crossed vpk) :=
  (((Kept.start.setWord (by simp) _ _ _).setIn (by simp) _ _ _).setStage (by simp) _ _).same

theorem crossed_word {o : Nat} (h : o ≠ 0x188 ∧ o ≠ 0x718) : (s.crossed vpk).word (pgSG 2) o = s.word (pgSG 2) o :=
  (word_congr (setStage_regs _ _ _) _ _).trans ((word_setWord_off _ h.2).trans (word_setWord_off _ h.1))

theorem crossed_frequency (s : State) (vpk : Word) : (s.crossed vpk).sgw 2 Reg.SGC.GRID_F_HZ = s.crossedFrequency :=
  (word_congr (setStage_regs _ _ _) _ _).trans ((word_setWord_off _ (by decide)).trans (word_setWord_self _ _ _))

theorem crossed_input (s : State) (vpk : Word) : (s.crossed vpk).stageIn 2 6 = s.crossedFrequency :=
  (word_congr (setStage_regs _ _ _) _ _).trans (word_setWord_self _ _ _)

theorem gridPage_key {o : Nat} (ho : o < 0x2000000) : keyPage (regKey (pgSG 2) o) ∈ [pgSG 2] := by
  rw [keyPage_regKey ho]
  exact List.mem_cons_self

theorem steers_crossed (hK : ∀ o, o < 0x2000000 → K (regKey (pgSG 2) o)) (s : State) (vpk : Word) : Steers K s (s.crossed vpk) :=
  ((Steers.start.setWord (hK Reg.SGC.GRID_F_HZ.off (by decide)) s.crossedFrequency).setWord (hK (0x700 + 4 * 6) (by decide))
    s.crossedFrequency).setStage 2 _ rfl

theorem periodCrossed_word {o : Nat} (h : o ≠ 0x188 ∧ o ≠ 0x718 ∧ o ≠ 0x71C) :
    (s.periodCrossed vpk).word (pgSG 2) o = s.word (pgSG 2) o := (word_setWord_off _ h.2.2).trans (crossed_word ⟨h.1, h.2.1⟩)

theorem periodCrossed_stage (s : State) (vpk : Word) : (s.periodCrossed vpk).stage 2 = (s.crossed vpk).stage 2 :=
  stage_congr (setWord_stages _ _ _ _) 2

/-- A period judged: whether the grid is present, and how many periods in a row exceed the limit (R205, R212). -/
def State.periodJudged (s : State) (ok exceeds : Bool) : State :=
  (s.wrB (pgSG 2) Reg.SGC.STAT_GRID_OK ok).setStage 2 { s.stage 2 with
    gridSeen := (s.stage 2).gridSeen || ok, overRuns := if exceeds then (s.stage 2).overRuns + 1 else 0 }

theorem gridPeriod_eq (hok : ok = ((s.stage 2).crossings.length == 4 && s.gridOk (s.sgw 2 Reg.SGC.GRID_F_HZ) rms))
    (he : exceeds = ((s.wrB (pgSG 2) Reg.SGC.STAT_GRID_OK ok).convDriven 2 &&
      (s.wrB (pgSG 2) Reg.SGC.STAT_GRID_OK ok).overCurrentRms irms)) :
    s.gridPeriod rms irms = if exceeds ∧ 5 ≤ (s.stage 2).overRuns + 1 then (s.periodJudged ok exceeds).convTrip 2 11
      else s.periodJudged ok exceeds := by
  have hst := stage_congr (wrB_stages s (pgSG 2) Reg.SGC.STAT_GRID_OK ok) 2
  unfold State.gridPeriod State.periodJudged
  dsimp only
  rw [← hok, ← he, hst]

theorem gridOk_congr (h : ∀ o ∈ [0x144, 0x148, 0x14C], t.word (pgSG 2) o = s.word (pgSG 2) o) (f : Word) (rms : List Word) :
    t.gridOk f rms = s.gridOk f rms := by
  have hmin : t.rd (pgSG 2) Reg.SGC.GRID_FMIN = s.rd (pgSG 2) Reg.SGC.GRID_FMIN := rd_of_word (h _ (by decide))
  have hmax : t.rd (pgSG 2) Reg.SGC.GRID_FMAX = s.rd (pgSG 2) Reg.SGC.GRID_FMAX := rd_of_word (h _ (by decide))
  have hvmin : t.sgw 2 Reg.SGC.GRID_VMIN_V = s.sgw 2 Reg.SGC.GRID_VMIN_V := h _ (by decide)
  have hvmax : t.sgw 2 Reg.SGC.GRID_VMAX_V = s.sgw 2 Reg.SGC.GRID_VMAX_V := h _ (by decide)
  unfold State.gridOk
  dsimp only
  rw [hmin, hmax, hvmin, hvmax]

theorem overCurrentRms_congr (hl : (t.stage 2).limits = (s.stage 2).limits) (hn : t.now = s.now)
    (hw : t.word (pgSG 2) 0x184 = s.word (pgSG 2) 0x184) (irms : List Word) : t.overCurrentRms irms = s.overCurrentRms irms := by
  have hmax : t.limitMax = s.limitMax := by
    unfold State.limitMax State.sgw
    rw [hl, hn]
    exact congrArg (List.foldl _ · _) hw
  unfold State.overCurrentRms
  rw [hmax]

theorem convDriven_congr (h : t.mode k = s.mode k) : t.convDriven k = s.convDriven k := by
  unfold State.convDriven
  rw [h]

/-- Whether the grid is present for the period that this crossing completes (R205). -/
def State.crossedPresence (s : State) (rms : List Word) : Bool :=
  decide (3 ≤ (s.stage 2).crossings.length) &&
    s.gridOk (fpOfRatio 480000000 (ticksSince ((s.stage 2).crossings.getD 2 0) s.now)) rms

theorem crossedPresence_eq (s : State) (vpk : Word) (rms : List Word) : s.crossedPresence rms =
    (((s.periodCrossed vpk).stage 2).crossings.length == 4 &&
      (s.periodCrossed vpk).gridOk ((s.periodCrossed vpk).sgw 2 Reg.SGC.GRID_F_HZ) rms) := by
  have hf : (s.periodCrossed vpk).sgw 2 Reg.SGC.GRID_F_HZ = s.crossedFrequency :=
    (word_setWord_off _ (by decide)).trans (crossed_frequency s vpk)
  have hok := gridOk_congr (s := s) (t := s.periodCrossed vpk)
    (fun o ho => periodCrossed_word (by simp only [List.mem_cons, List.not_mem_nil, or_false] at ho; omega)) s.crossedFrequency rms
  rw [periodCrossed_stage, crossed_stage, hf, hok, crossedFrequency_eq]
  unfold State.crossedPresence
  by_cases h : 3 ≤ (s.stage 2).crossings.length
  · rw [if_pos h, decide_eq_true h]
    exact congrArg (· && _) (beq_iff_eq.2 ((take_cons_length_four _ _).2 h)).symm
  · rw [if_neg h, decide_eq_false h, Bool.false_and]
    exact (congrArg (· && _) (beq_eq_false_iff_ne.2 (mt (take_cons_length_four _ _).1 h))).symm

end Sys2Proof.Machine
end

section
/-! PROOF. Zero crossings of the grid, and the loss of the grid (O26). -/

namespace Sys2Proof.Machine

variable {K : Nat → Prop} {s t u : State} {k : Nat} {ps : List Nat} {rms irms : List Word} {vpk : Word} {ok exceeds : Bool}

/-- A crossing in the middle of a grid period: it is recorded, and the frequency is shown (R205). -/
theorem crossed_effect (h : (s.stage 2).halfDone = false) (vpk : Word) :
    ((s.crossed vpk).stage 2).crossings = (s.now :: (s.stage 2).crossings).take 4 ∧ ((s.crossed vpk).stage 2).halfDone = true ∧
      (s.crossed vpk).sgw 2 Reg.SGC.GRID_F_HZ = (if 3 ≤ (s.stage 2).crossings.length
        then fpOfRatio 480000000 (ticksSince ((s.stage 2).crossings.getD 2 0) s.now) else 0) ∧
      (s.crossed vpk).stageIn 2 6 = (s.crossed vpk).sgw 2 Reg.SGC.GRID_F_HZ ∧
      (s.crossed vpk).rdB (pgSG 2) Reg.SGC.STAT_GRID_OK = s.rdB (pgSG 2) Reg.SGC.STAT_GRID_OK ∧
      Touches [.regs, .pushes, .stages] s (s.crossed vpk) ∧ OnlyPages [pgSG 2] s (s.crossed vpk) := by
  refine ⟨by rw [crossed_stage], by rw [crossed_stage, h]; rfl, (crossed_frequency s vpk).trans (crossedFrequency_eq s),
    (crossed_input s vpk).trans (crossed_frequency s vpk).symm, rdB_congr_rd (rd_of_word (crossed_word (by decide))),
    crossed_parts s vpk, (steers_crossed (fun _ => gridPage_key) s vpk).spares.onlyPages⟩

theorem periodJudged_stage (s : State) (ok exceeds : Bool) : (s.periodJudged ok exceeds).stage 2 = { s.stage 2 with
    gridSeen := (s.stage 2).gridSeen || ok, overRuns := if exceeds then (s.stage 2).overRuns + 1 else 0 } := stage_setStage_self _ _ _

theorem periodJudged_word {o : Nat} (h : o ≠ 0x8) : (s.periodJudged ok exceeds).word (pgSG 2) o = s.word (pgSG 2) o :=
  (word_congr (setStage_regs _ _ _) _ _).trans (word_setWord_off _ h)

theorem periodJudged_ok (s : State) (ok exceeds : Bool) :
    (s.periodJudged ok exceeds).rdB (pgSG 2) Reg.SGC.STAT_GRID_OK = ok :=
  (rdB_congr (setStage_regs _ _ _) _ _).trans (rdB_wrB_self _ _ _ (by decide) rfl)

theorem periodJudged_mode (s : State) (ok exceeds : Bool) : (s.periodJudged ok exceeds).mode 2 = s.mode 2 :=
  (rd_congr (setStage_regs _ _ _) _ _).trans (rd_wrB_apart _ _ (by decide) (by decide))

theorem periodCrossed_mode (s : State) (vpk : Word) : (s.periodCrossed vpk).mode 2 = s.mode 2 :=
  rd_of_word (periodCrossed_word (by decide))

/-- A crossing that completes a grid period: presence is judged, and the fifth period in a row above the limit trips (R205, R212). -/
theorem gridCrossing_period (h : (s.stage 2).halfDone = true) : s.gridCrossing rms irms vpk =
    (if (s.convDriven 2 && s.overCurrentRms irms) ∧ 5 ≤ (s.stage 2).overRuns + 1
      then ((s.periodCrossed vpk).periodJudged (s.crossedPresence rms) (s.convDriven 2 && s.overCurrentRms irms)).convTrip 2 11
      else (s.periodCrossed vpk).periodJudged (s.crossedPresence rms) (s.convDriven 2 && s.overCurrentRms irms)).convShow 2 := by
  have hd : ((s.periodCrossed vpk).wrB (pgSG 2) Reg.SGC.STAT_GRID_OK (s.crossedPresence rms)).convDriven 2 = s.convDriven 2 :=
    convDriven_congr ((rd_wrB_apart _ _ (by decide) (by decide)).trans (periodCrossed_mode s vpk))
  have hst : ((s.periodCrossed vpk).stage 2).limits = (s.stage 2).limits ∧
      ((s.periodCrossed vpk).stage 2).overRuns = (s.stage 2).overRuns := by
    rw [periodCrossed_stage, crossed_stage]
    exact ⟨rfl, rfl⟩
  have hnow : (s.periodCrossed vpk).now = s.now := (setWord_now _ _ _ _).trans (crossed_parts s vpk .now (by decide))
  have ho : ((s.periodCrossed vpk).wrB (pgSG 2) Reg.SGC.STAT_GRID_OK (s.crossedPresence rms)).overCurrentRms irms =
      s.overCurrentRms irms := by
    refine overCurrentRms_congr ?_ ((wrB_now _ _ _ _).trans hnow) ((word_setWord_off _ (by decide)).trans
      (periodCrossed_word (by decide))) irms
    rw [stage_congr (wrB_stages _ _ _ _)]
    exact hst.1
  rw [gridCrossing_full h, ← hst.2]
  exact congrArg (State.convShow · 2) (gridPeriod_eq (crossedPresence_eq s vpk rms) (by rw [hd, ho]))

/-- A period judged writes words of the stage's own page. -/
theorem steers_periodJudged (hK : ∀ o, o < 0x2000000 → K (regKey (pgSG 2) o)) (s : State) (vpk : Word) (ok exceeds : Bool) :
    Steers K s ((s.periodCrossed vpk).periodJudged ok exceeds) := by
  have hp : Steers K s (s.periodCrossed vpk) := (steers_crossed hK s vpk).setWord (hK (0x700 + 4 * 7) (by decide)) vpk
  exact (hp.wrB (f := Reg.SGC.STAT_GRID_OK) (hK 0x8 (by decide)) ok).setStage 2 _ (by exact hp.timing 2)

/-- A period completed while the inlet stage is not driven (R205). -/
theorem gridCrossing_idle (h : (s.stage 2).halfDone = true) (hd : s.convDriven 2 = false) (rms irms : List Word) (vpk : Word) :
    ((s.gridCrossing rms irms vpk).stage 2).halfDone = false ∧ ((s.gridCrossing rms irms vpk).stage 2).gridVpk = vpk ∧
      (s.gridCrossing rms irms vpk).stageIn 2 7 = vpk ∧
      (s.gridCrossing rms irms vpk).rdB (pgSG 2) Reg.SGC.STAT_GRID_OK = s.crossedPresence rms ∧
      OnlyPages [pgSG 2] s (s.gridCrossing rms irms vpk) := by
  have he : s.gridCrossing rms irms vpk = ((s.periodCrossed vpk).periodJudged (s.crossedPresence rms) false).convShow 2 := by
    rw [gridCrossing_period h, hd, Bool.false_and, if_neg (fun hn => Bool.false_ne_true hn.1)]
  have hst : (((s.periodCrossed vpk).periodJudged (s.crossedPresence rms) false).convShow 2).stage 2 = _ :=
    (stage_congr (setWord_stages _ _ _ _) 2).trans (periodJudged_stage _ _ _)
  rw [he]
  refine ⟨?_, ?_, ?_, (rdB_congr_rd (rd_setWord_off _ _ (by decide))).trans (periodJudged_ok _ _ _),
    ((steers_periodJudged (fun _ => gridPage_key) s vpk _ _).setWord (gridPage_key (by decide)) _).spares.onlyPages⟩
  · rw [hst, periodCrossed_stage, crossed_stage, h]
    rfl
  · rw [hst, periodCrossed_stage, crossed_stage, h]
    rfl
  · exact (word_setWord_off _ (by decide)).trans ((periodJudged_word (by decide)).trans (word_setWord_self _ _ _))

/-- FLAGS of the inlet stage concern no other stage. -/
theorem convShow_holds_ne (s : State) (hk : k ≠ 2) (hk10 : k < 10) : StageHolds k ps s (s.convShow 2) := by
  have hs : Steers (stagePages 2) s (s.convShow 2) := Steers.start.convShow (convKeys_pages 2)
  exact .of_words (rd_of_word (hs.word_stage_ne hk hk10 (by decide))) (hs.word_stage_ne hk hk10 (by decide))
    (hs.word_stage_ne hk hk10 (by decide)) (setWord_stages _ _ _ _) (setWord_chans _ _ _ _)

/-- The fifth period in a row above the limit trips the inlet stage, and an active on-board stage follows (R196, R212). -/
theorem gridCrossing_overCurrent (h : (s.stage 2).halfDone = true) (hd : s.convDriven 2 = true)
    (ho : s.overCurrentRms irms = true) (hr : (s.stage 2).overRuns = 4) (hs : s.coll.stopped = false) (rms : List Word) (vpk : Word) :
    Tripped s (s.gridCrossing rms irms vpk) 2 11 ∧
      (1 ≤ s.mode 3 → s.mode 3 ≤ 4 → Tripped s (s.gridCrossing rms irms vpk) 3 8) := by
  rw [gridCrossing_period h, hd, ho, hr, if_pos ⟨rfl, by decide⟩]
  have hsteer := steers_periodJudged (fun _ => stagePages_key 2) s vpk (s.crossedPresence rms) (true && true)
  have hm2 := (periodJudged_mode (s.periodCrossed vpk) (s.crossedPresence rms) (true && true)).trans (periodCrossed_mode s vpk)
  have hm3 : ((s.periodCrossed vpk).periodJudged (s.crossedPresence rms) (true && true)).mode 3 = s.mode 3 :=
    rd_of_word (hsteer.word_stage_ne (by decide) (by decide) (by decide))
  generalize (s.periodCrossed vpk).periodJudged (s.crossedPresence rms) (true && true) = u at *
  have hshow : Steers (stagePages 2) (u.convTrip 2 11) ((u.convTrip 2 11).convShow 2) := Steers.start.convShow (convKeys_pages 2)
  obtain ⟨h2, -, -, h3⟩ := convTrip_inlet_effect (cause := 11)
    (convActive_of_driven ((convDriven_congr hm2).trans hd)) (by decide) (hsteer.spares.stopped.trans hs)
  rw [hm3] at h3
  exact ⟨(h2.held (.convShow .start) hshow.spares).rebase (hsteer.legs_eq 2).symm,
    fun hl hu => ((h3 hl hu).held (convShow_holds_ne _ (by decide) (by decide)) hshow.spares).rebase (hsteer.legs_eq 3).symm⟩

/-- No crossing for 30 ms, or none at all (R207). -/
def State.gridSilent (s : State) : Bool :=
  match (s.stage 2).crossings with
  | t :: _ => s.passed t (msTicks 30)
  | [] => true

theorem gridSilent_of_last (h : ∀ at_, (s.stage 2).crossings.head? = some at_ → s.passed at_ (msTicks 30) = true) :
    s.gridSilent = true := by
  unfold State.gridSilent
  split
  · next t ts hc => exact h t (by rw [hc]; rfl)
  · rfl

/-- The grid is shown as absent (R205, R207). -/
def State.gridAbsent (s : State) : State := (s.wrB (pgSG 2) Reg.SGC.STAT_GRID_OK false).convShow 2

theorem gridLoss_eq (s : State) : s.gridLoss = if s.gridSilent ∨ ¬ s.rdB (pgSG 2) Reg.SGC.STAT_GRID_OK then
    if (if s.gridSilent then s.gridAbsent else s).convDriven 2 ∨
        ((if s.gridSilent then s.gridAbsent else s).mode 2 = 1 ∧ (s.stage 2).gridSeen) then
      (if s.gridSilent then s.gridAbsent else s).convTrip 2 7 else if s.gridSilent then s.gridAbsent else s
  else s := rfl

theorem gridAbsent_mode (s : State) : s.gridAbsent.mode 2 = s.mode 2 :=
  (rd_setWord_off _ _ (by decide)).trans (rd_wrB_apart _ _ (by decide) (by decide))

theorem gridLoss_silent (h : s.gridSilent = true) (hd : s.convDriven 2 = true) : s.gridLoss = s.gridAbsent.convTrip 2 7 := by
  rw [gridLoss_eq, h, if_pos (.inl rfl)]
  exact if_pos (.inl ((convDriven_congr (gridAbsent_mode s)).trans hd))

/-- A grid that is silent while the inlet stage is driven trips it (R196, R207). -/
theorem gridLoss_effect (h : s.gridSilent = true) (hd : s.convDriven 2 = true) (hs : s.coll.stopped = false) :
    s.gridLoss.rdB (pgSG 2) Reg.SGC.STAT_GRID_OK = false ∧ Tripped s s.gridLoss 2 7 := by
  have hsteer : Steers (stagePages 2) s s.gridAbsent :=
    (Steers.start.wrB (f := Reg.SGC.STAT_GRID_OK) (modeKeys_pages 2).stat false).convShow (convKeys_pages 2)
  have hok : s.gridAbsent.rdB (pgSG 2) Reg.SGC.STAT_GRID_OK = false :=
    (rdB_congr_rd (rd_setWord_off _ _ (by decide))).trans (rdB_wrB_self _ _ _ (by decide) rfl)
  obtain ⟨h2, -, hgrid, -⟩ := convTrip_inlet_effect (s := s.gridAbsent) (cause := 7)
    (convActive_of_driven ((convDriven_congr (gridAbsent_mode s)).trans hd)) (by decide) (hsteer.spares.stopped.trans hs)
  rw [gridLoss_silent h hd]
  exact ⟨hgrid.trans hok, h2.rebase (hsteer.legs_eq 2).symm⟩

end Sys2Proof.Machine
end

section
/-! SUPPORT. The charge-pilot controller: one pilot period and one proximity measurement up to the values they show, and the trip
that may follow, which writes nothing of the controller's page (R208, R209, R210, R214). -/

namespace Sys2Proof.Machine

variable {s t u : State} {g : Field} {n v duty period highTime : Nat} {xs : List Nat} {high low : Option Word} {pwm edges : Bool}

theorem agreed_of_take (h : xs.take n = List.replicate n v) : agreed ((v :: xs).take (n + 1)) (n + 1) = some v := by
  have ht : (v :: xs).take (n + 1) = List.replicate (n + 1) v := by rw [List.take_succ_cons, h, List.replicate_succ]
  rw [ht]
  unfold agreed
  rw [if_neg (by simp), List.take_of_length_le (by simp), List.replicate_succ]
  simp

/-- Words of every page but the controller's. -/
abbrev notPilotPage (k : Nat) : Prop := keyPage k ≠ pgCHG

theorem notPilotPage_stage {k o : Nat} (hk : k < 10) (ho : o < 0x2000000) : notPilotPage (regKey (pgSG k) o) := by
  rw [notPilotPage, keyPage_regKey ho]
  unfold pgSG pgCHG
  omega

theorem convKeys_notPilot (k : Nat) (_ : 2 ≤ k) (hk : k < 6) : ConvKeys notPilotPage k where
  stat := notPilotPage_stage (by omega) (by decide)
  modeIn := notPilotPage_stage (by omega) (by decide)
  flags := notPilotPage_stage (by omega) (by decide)
  event := by decide
  ref := notPilotPage_stage (by omega) (by decide)
  refIn := notPilotPage_stage (by omega) (by decide)
  trims := notPilotPage_stage (by omega) (by decide)
  cause := notPilotPage_stage (by omega) (by decide)

theorem steers_pilotLossTrip (s : State) : Steers notPilotPage s s.pilotLossTrip := Steers.start.pilotLossTrip convKeys_notPilot

theorem steers_pilotCheck (s : State) : Steers notPilotPage s s.pilotCheck := .ite (steers_pilotLossTrip s) .start

theorem Steers.pilotWord (h : Steers notPilotPage s t) {o : Nat} (ho : o < 0x2000000) : t.word pgCHG o = s.word pgCHG o :=
  h.spares.word fun hn => hn (keyPage_regKey ho _)

/-- What follows a decoded period: the trips of R214. -/
def State.pilotFollow (s : State) (old : Nat) : State :=
  if s.rd pgCHG Reg.CHG.CP_STATE ≠ old ∧ s.convActive 2 ∧ s.rd pgCHG Reg.CHG.CP_STATE = 1 ∧ s.rdB (pgSG 2) Reg.SGC.STAT_S2 then
    s.pilotLossTrip
  else if s.rd pgCHG Reg.CHG.CP_STATE ≠ old then s.pilotCheck else s

theorem steers_pilotFollow (s : State) (old : Nat) : Steers notPilotPage s (s.pilotFollow old) :=
  .ite (steers_pilotLossTrip s) (.ite (steers_pilotCheck s) .start)

/-- Whether a period carries PWM (R208). -/
def pilotPwm (low : Option Word) (edges : Bool) (period : Nat) : Bool :=
  edges && low.any (within 0xC1500000 0xC1300000) && decide (313600 ≤ period ∧ period ≤ 326400)

/-- The duty of a period in 0.1 % (R209). -/
def pilotDuty (period highTime : Nat) : Nat := (2000 * highTime + period) / (2 * max 1 period)

/-- The state that three periods agree on is shown (R208). -/
def State.stateShown (s : State) (states : List Nat) : State :=
  match agreed states 3 with
  | some c => s.wr pgCHG Reg.CHG.CP_STATE c
  | none => s

/-- The levels of a period are shown (R434). -/
def State.levelsShown (s : State) (high low : Option Word) : State :=
  let s : State := match high with | some h => s.setWord pgCHG Reg.CHG.CP_HIGH_V.off h | none => s
  match low with | some l => s.setWord pgCHG Reg.CHG.CP_LOW_V.off l | none => s

/-- Whether the duties of three periods agree within 0.5 percentage points (R209). -/
def dutiesAgree (ds : List Nat) : Bool := ds.length == 3 && ds.all fun a => ds.all fun b => decide (a ≤ b + 5)

/-- The pilot current and the accepted duty are shown (R209). -/
def State.currentShown (s : State) (pwm : Bool) (ds : List Nat) (duty : Nat) : State :=
  if ¬ pwm then s.setWord pgCHG Reg.CHG.I_PILOT_A.off 0
  else if dutiesAgree ds then
    (s.wr pgCHG Reg.CHG.CP_DUTY (min 1000 duty)).setWord pgCHG Reg.CHG.I_PILOT_A.off (s.pilotAmps duty)
  else s

/-- The states of the last three periods, with this one's. -/
def State.pilotStates (s : State) (high low : Option Word) : List Nat := (pilotState high low :: s.pilot.states).take 3

/-- The duties of the last three periods, with this one's. -/
def State.pilotDuties (s : State) (pwm : Bool) (duty : Nat) : List (Option Nat) :=
  ((if pwm then some duty else none) :: s.pilot.duties).take 3

/-- A period's states and duties are kept for the next (R208, R209). -/
def State.pilotKept (s : State) (states : List Nat) (duties : List (Option Nat)) : State :=
  { s with pilot := { s.pilot with states := states, duties := duties } }

/-- A period decoded, before its current is shown. -/
def State.pilotLevels (s : State) (high low : Option Word) (pwm : Bool) (duty : Nat) : State :=
  (((s.pilotKept (s.pilotStates high low) (s.pilotDuties pwm duty)).stateShown (s.pilotStates high low)).wrB pgCHG Reg.CHG.CP_PWM
    pwm).levelsShown high low

/-- A period decoded and shown. -/
def State.pilotDecoded (s : State) (high low : Option Word) (pwm : Bool) (duty : Nat) : State :=
  (s.pilotLevels high low pwm duty).currentShown pwm ((s.pilotDuties pwm duty).filterMap id) duty

theorem pilotPeriod_eq (h : s.inService pdCHG = true) : s.pilotPeriod high low edges period highTime =
    (s.pilotDecoded high low (pilotPwm low edges period) (pilotDuty period highTime)).pilotFollow (s.rd pgCHG Reg.CHG.CP_STATE) :=
  if_neg (by rw [h]; decide)

theorem pilotPeriod_of_not (h : s.inService pdCHG = false) : s.pilotPeriod high low edges period highTime = s :=
  if_pos (by rw [h]; decide)

theorem stateShown_agreed {states : List Nat} (h : agreed states 3 = some v) :
    s.stateShown states = s.wr pgCHG Reg.CHG.CP_STATE v := by
  unfold State.stateShown
  rw [h]

theorem word_levelsShown {p o : Nat} (h : regKey p o ≠ regKey pgCHG 0x144 ∧ regKey p o ≠ regKey pgCHG 0x148) :
    (s.levelsShown high low).word p o = s.word p o := by
  cases high with
  | none => cases low with
    | none => rfl
    | some l => exact word_setWord_ne _ h.2
  | some x => cases low with
    | none => exact word_setWord_ne _ h.1
    | some l => exact (word_setWord_ne _ h.2).trans (word_setWord_ne _ h.1)

theorem rd_levelsShown (h : g.off ≠ 0x144 ∧ g.off ≠ 0x148) : (s.levelsShown high low).rd pgCHG g = s.rd pgCHG g :=
  rd_of_word (word_levelsShown (by unfold regKey; omega))

theorem rd_currentShown {ds : List Nat} (hd : FieldsApart Reg.CHG.CP_DUTY g) (ho : g.off ≠ 0x14C) :
    (s.currentShown pwm ds duty).rd pgCHG g = s.rd pgCHG g := by
  unfold State.currentShown
  split
  · exact rd_setWord_off _ _ ho
  · split
    · exact (rd_setWord_off _ _ ho).trans (rd_wr_apart _ _ (by decide) hd)
    · rfl

theorem currentShown_accepted {ds : List Nat} (h : dutiesAgree ds = true) : s.currentShown true ds duty =
    (s.wr pgCHG Reg.CHG.CP_DUTY (min 1000 duty)).setWord pgCHG Reg.CHG.I_PILOT_A.off (s.pilotAmps duty) := by
  unfold State.currentShown
  rw [if_neg (by decide), if_pos h]

theorem word_stateShown {p o : Nat} {states : List Nat} (h : regKey p o ≠ regKey pgCHG 0x140) :
    (s.stateShown states).word p o = s.word p o := by
  unfold State.stateShown
  split
  · exact word_setWord_ne _ h
  · rfl

/-- Three periods that agree show their state (R208). -/
theorem pilotDecoded_state (h : agreed (s.pilotStates high low) 3 = some v) (hv : v < 8) :
    (s.pilotDecoded high low pwm duty).rd pgCHG Reg.CHG.CP_STATE = v := by
  unfold State.pilotDecoded State.pilotLevels
  rw [rd_currentShown (by decide) (by decide), rd_levelsShown (by decide), rd_wrB_apart _ _ (by decide) (by decide),
    stateShown_agreed h, rd_wr_self _ _ _ (by decide)]
  exact Nat.mod_eq_of_lt hv

theorem pilotDecoded_pwm (s : State) (high low : Option Word) (pwm : Bool) (duty : Nat) :
    (s.pilotDecoded high low pwm duty).rdB pgCHG Reg.CHG.CP_PWM = pwm := by
  unfold State.pilotDecoded State.pilotLevels
  rw [rdB_congr_rd (rd_currentShown (by decide) (by decide)), rdB_congr_rd (rd_levelsShown (by decide))]
  exact rdB_wrB_self _ _ _ (by decide) rfl

/-- A period without PWM gives no pilot current (R209). -/
theorem pilotDecoded_noCurrent (s : State) (high low : Option Word) (duty : Nat) :
    (s.pilotDecoded high low false duty).word pgCHG Reg.CHG.I_PILOT_A.off = 0 := word_setWord_self _ _ _

/-- The words that the pilot current comes from stand while a period is decoded. -/
theorem pilotLevels_amps (s : State) (high low : Option Word) (pwm : Bool) (duty d : Nat) :
    (s.pilotLevels high low pwm duty).pilotAmps d = s.pilotAmps d := by
  have hword (p o : Nat) (h : regKey p o ∉ [regKey pgCHG 0x140, regKey pgCHG 0x144, regKey pgCHG 0x148]) :
      (s.pilotLevels high low pwm duty).word p o = s.word p o := by
    simp only [List.mem_cons, List.not_mem_nil, or_false, not_or] at h
    obtain ⟨h0, h4, h8⟩ := h
    exact (word_levelsShown ⟨h4, h8⟩).trans ((word_setWord_ne _ h0).trans (word_stateShown h0))
  have hlim := hword pgCHG Reg.CHG.HLC_LIM_A.off (by decide)
  have hen : (s.pilotLevels high low pwm duty).rdB (pgSG 2) Reg.SGC.CCFG_HLC_EN = s.rdB (pgSG 2) Reg.SGC.CCFG_HLC_EN :=
    rdB_congr_rd (rd_of_word (hword _ _ (by decide)))
  unfold State.pilotAmps
  rw [hlim, hen]

/-- Three duties that agree are accepted, and give the pilot current (R209). -/
theorem pilotDecoded_accepted (h : dutiesAgree ((s.pilotDuties true duty).filterMap id) = true) (hd : duty ≤ 1000) :
    (s.pilotDecoded high low true duty).rd pgCHG Reg.CHG.CP_DUTY = duty ∧
      (s.pilotDecoded high low true duty).word pgCHG Reg.CHG.I_PILOT_A.off = s.pilotAmps duty := by
  unfold State.pilotDecoded
  rw [currentShown_accepted h, pilotLevels_amps, Nat.min_eq_right hd]
  have hmod : duty % 2 ^ 10 = duty := Nat.mod_eq_of_lt (Nat.lt_of_le_of_lt hd (by decide))
  exact ⟨(rd_setWord_off _ _ (by decide)).trans ((rd_wr_self _ _ _ (by decide)).trans hmod), word_setWord_self _ _ _⟩

/-- The resistance of the proximity circuit (R210, R435). -/
def State.proximityOhm (s : State) (vpp v33 : Word) : Word :=
  if fpLe (fmul 0x3F7AE148 v33) vpp then fpInf false
  else fdiv (fmul (s.word pgCHG Reg.CHG.PP_RPU_OHM.off) vpp) (fsub v33 vpp)

/-- The band of one measurement (R210). -/
def State.proximityRead (s : State) (vpp v33 : Word) : Nat :=
  if fpLe (fmul 0x3F7AE148 v33) vpp then 0 else proximityBand (s.proximityOhm vpp v33)

/-- A measurement is kept, and its resistance shown (R210, R435). -/
def State.proximityKept (s : State) (ohm : Word) (bands : List Nat) : State :=
  State.setWord { s with pilot := { s.pilot with bands := bands } } pgCHG Reg.CHG.PP_R_OHM.off ohm

/-- The band that five measurements agree on is shown, and whether it is a cable's (R210). -/
def State.bandShown (s : State) (b : Nat) : State :=
  (s.wr pgCHG Reg.CHG.PP_BAND b).wrB pgCHG Reg.CHG.PP_CONN (decide (1 ≤ b ∧ b ≤ 4))

theorem proximity_agreed {vpp v33 : Word} (h : s.inService pdCHG = true)
    (ha : agreed ((s.proximityRead vpp v33 :: s.pilot.bands).take 5) 5 = some v) : s.proximity vpp v33 =
      ((s.proximityKept (s.proximityOhm vpp v33) ((s.proximityRead vpp v33 :: s.pilot.bands).take 5)).bandShown v).pilotCheck := by
  unfold State.proximity
  rw [if_neg (by rw [h]; decide)]
  unfold State.proximityRead State.proximityOhm at *
  dsimp only
  rw [ha]
  rfl

theorem proximity_of_not {vpp v33 : Word} (h : s.inService pdCHG = false) : s.proximity vpp v33 = s := if_pos (by rw [h]; decide)

/-- Five measurements that agree show their band, whether it is a cable's, and the last resistance (R210, R435). -/
theorem proximity_effect {vpp v33 : Word} (h : s.inService pdCHG = true)
    (ha : s.pilot.bands.take 4 = List.replicate 4 (s.proximityRead vpp v33)) (hb : s.proximityRead vpp v33 < 8) :
    (s.proximity vpp v33).word pgCHG Reg.CHG.PP_R_OHM.off = s.proximityOhm vpp v33 ∧
      (s.proximity vpp v33).rd pgCHG Reg.CHG.PP_BAND = s.proximityRead vpp v33 ∧
      (s.proximity vpp v33).rdB pgCHG Reg.CHG.PP_CONN =
        decide (1 ≤ s.proximityRead vpp v33 ∧ s.proximityRead vpp v33 ≤ 4) := by
  rw [proximity_agreed h (agreed_of_take ha)]
  generalize (s.proximityRead vpp v33 :: s.pilot.bands).take 5 = bands
  have hcheck (o : Nat) (ho : o < 0x2000000) :=
    (steers_pilotCheck ((s.proximityKept (s.proximityOhm vpp v33) bands).bandShown (s.proximityRead vpp v33))).pilotWord ho
  refine ⟨(hcheck _ (by decide)).trans ?_, (rd_of_word (hcheck _ (by decide))).trans ?_,
    (rdB_congr_rd (rd_of_word (hcheck _ (by decide)))).trans (rdB_wrB_self _ _ _ (by decide) rfl)⟩
  · exact (word_setWord_off _ (by decide)).trans ((word_setWord_off _ (by decide)).trans (word_setWord_self _ _ _))
  · exact (rd_wrB_apart _ _ (by decide) (by decide)).trans ((rd_wr_self _ _ _ (by decide)).trans (Nat.mod_eq_of_lt hb))

end Sys2Proof.Machine
end

section
/-! PROOF. Pilot periods and proximity measurements, and the statement on the grid and the pilot (O26). -/

namespace Sys2Proof.Machine

variable {s : State} {high low : Option Word} {edges : Bool} {period highTime : Nat} {vpp v33 : Word}

theorem pilotState_lt (high low : Option Word) : pilotState high low < 8 := by
  cases high with
  | none =>
    unfold pilotState
    dsimp only
    split <;> decide
  | some h =>
    unfold pilotState
    dsimp only
    repeat' split
    all_goals decide

/-- The words of the controller's page after a pilot period are those that the period decoded shows (R208, R209). -/
theorem pilotPeriod_word (h : s.inService pdCHG = true) {o : Nat} (ho : o < 0x2000000) :
    (s.pilotPeriod high low edges period highTime).word pgCHG o =
      (s.pilotDecoded high low (pilotPwm low edges period) (pilotDuty period highTime)).word pgCHG o := by
  rw [pilotPeriod_eq h]
  exact (steers_pilotFollow _ _).pilotWord ho

/-- A state that three periods agree on is accepted (R208). -/
theorem pilotPeriod_state (h : s.inService pdCHG = true)
    (hs : s.pilot.states.take 2 = [pilotState high low, pilotState high low]) :
    (s.pilotPeriod high low edges period highTime).rd pgCHG Reg.CHG.CP_STATE = pilotState high low :=
  (rd_of_word (pilotPeriod_word h (by decide))).trans (pilotDecoded_state (agreed_of_take hs) (pilotState_lt high low))

theorem pilotPwm_false (h : edges = false ∨ period < 313600 ∨ 326400 < period ∨ low.any (within 0xC1500000 0xC1300000) = false) :
    pilotPwm low edges period = false := by
  unfold pilotPwm
  rcases h with h | h | h | h
  · rw [h]; rfl
  · rw [decide_eq_false (by omega), Bool.and_false]
  · rw [decide_eq_false (by omega), Bool.and_false]
  · rw [h, Bool.and_false, Bool.false_and]

/-- A period without PWM shows so, and gives no pilot current (R208, R209). -/
theorem pilotPeriod_noPwm (h : s.inService pdCHG = true) (hp : pilotPwm low edges period = false) :
    (s.pilotPeriod high low edges period highTime).rdB pgCHG Reg.CHG.CP_PWM = false ∧
      (s.pilotPeriod high low edges period highTime).word pgCHG Reg.CHG.I_PILOT_A.off = 0 := by
  have hword (o : Nat) (ho : o < 0x2000000) :=
    pilotPeriod_word (high := high) (low := low) (edges := edges) (period := period) (highTime := highTime) h ho
  rw [hp] at hword
  exact ⟨(rdB_congr_rd (rd_of_word (hword _ (by decide)))).trans (pilotDecoded_pwm _ _ _ _ _),
    (hword _ (by decide)).trans (pilotDecoded_noCurrent _ _ _ _)⟩

theorem pilotPwm_true {low : Word} (hl : within 0xC1500000 0xC1300000 low = true) (h1 : 313600 ≤ period) (h2 : period ≤ 326400) :
    pilotPwm (some low) true period = true := by
  unfold pilotPwm
  rw [decide_eq_true ⟨h1, h2⟩, Bool.and_true]
  exact hl

theorem dutiesAgree_same (d : Nat) : dutiesAgree [d, d, d] = true := by
  simp [dutiesAgree]

/-- Three periods of one duty give the duty and the pilot current (R208, R209). -/
theorem pilotPeriod_duty (h : s.inService pdCHG = true) (hp : pilotPwm low edges period = true) {d : Nat}
    (hd : pilotDuty period highTime = d) (hle : d ≤ 1000) (hds : s.pilot.duties.take 2 = [some d, some d]) :
    (s.pilotPeriod high low edges period highTime).rdB pgCHG Reg.CHG.CP_PWM = true ∧
      (s.pilotPeriod high low edges period highTime).rd pgCHG Reg.CHG.CP_DUTY = d ∧
      (s.pilotPeriod high low edges period highTime).word pgCHG Reg.CHG.I_PILOT_A.off = s.pilotAmps d := by
  have hword (o : Nat) (ho : o < 0x2000000) :=
    pilotPeriod_word (high := high) (low := low) (edges := edges) (period := period) (highTime := highTime) h ho
  have hduties : s.pilotDuties true d = [some d, some d, some d] := by
    unfold State.pilotDuties
    rw [if_pos rfl, List.take_succ_cons, hds]
  have hagree : dutiesAgree ((s.pilotDuties true d).filterMap id) = true := by
    rw [hduties]
    exact dutiesAgree_same d
  rw [hp, hd] at hword
  obtain ⟨hduty, hamps⟩ := pilotDecoded_accepted (high := high) (low := low) hagree hle
  exact ⟨(rdB_congr_rd (rd_of_word (hword _ (by decide)))).trans (pilotDecoded_pwm _ _ _ _ _),
    (rd_of_word (hword _ (by decide))).trans hduty, (hword _ (by decide)).trans hamps⟩

/-- No cable: the resistance is infinite, and five such measurements show no connection (R210). -/
theorem proximity_open (h : s.inService pdCHG = true) (hv : fpLe (fmul 0x3F7AE148 v33) vpp = true)
    (hb : s.pilot.bands.take 4 = [0, 0, 0, 0]) : (s.proximity vpp v33).word pgCHG Reg.CHG.PP_R_OHM.off = fpInf false ∧
      (s.proximity vpp v33).rd pgCHG Reg.CHG.PP_BAND = 0 ∧ (s.proximity vpp v33).rdB pgCHG Reg.CHG.PP_CONN = false := by
  have hread : s.proximityRead vpp v33 = 0 := if_pos hv
  have hohm : s.proximityOhm vpp v33 = fpInf false := if_pos hv
  have heffect := proximity_effect (s := s) (vpp := vpp) (v33 := v33) h (by rw [hread]; exact hb) (by rw [hread]; decide)
  rw [hread, hohm] at heffect
  exact heffect

/-- A cable: five measurements in one of its bands show the band and the connection (R210). -/
theorem proximity_cable (h : s.inService pdCHG = true) (hv : fpLe (fmul 0x3F7AE148 v33) vpp = false) {b : Nat}
    (hr : proximityBand (fdiv (fmul (s.word pgCHG Reg.CHG.PP_RPU_OHM.off) vpp) (fsub v33 vpp)) = b) (h1 : 1 ≤ b) (h4 : b ≤ 4)
    (hb : s.pilot.bands.take 4 = [b, b, b, b]) : (s.proximity vpp v33).rd pgCHG Reg.CHG.PP_BAND = b ∧
      (s.proximity vpp v33).rdB pgCHG Reg.CHG.PP_CONN = true := by
  have hlow : ¬ fpLe (fmul 0x3F7AE148 v33) vpp = true := by rw [hv]; decide
  have hread : s.proximityRead vpp v33 = b :=
    (if_neg hlow).trans ((congrArg proximityBand (if_neg hlow)).trans hr)
  obtain ⟨-, hband, hconn⟩ := proximity_effect (s := s) (vpp := vpp) (v33 := v33) h (by rw [hread]; exact hb) (by rw [hread]; omega)
  rw [hread] at hband hconn
  exact ⟨hband, hconn.trans (decide_eq_true ⟨h1, h4⟩)⟩

/-- Settles O26, by what a crossing, a silent grid, a pilot period and a proximity measurement show, and by the trips they bring. -/
theorem gridAndPilot : Obligations.GridAndPilot := by
  refine ⟨fun s rms irms vpk h => ⟨s.crossed vpk, congrArg Host.Outcome.next (gridCrossing_half h), crossed_effect h vpk⟩,
    fun s rms irms vpk h hd => ⟨s.gridCrossing rms irms vpk, rfl, gridCrossing_idle h hd rms irms vpk⟩,
    fun s rms irms vpk h hd ho hr hs => ⟨s.gridCrossing rms irms vpk, rfl, gridCrossing_overCurrent h hd ho hr hs rms vpk⟩,
    fun s h hd hs => ⟨s.gridLoss, rfl, gridLoss_effect (gridSilent_of_last h) hd hs⟩,
    fun s high low edges period highTime h hst => ⟨s.pilotPeriod high low edges period highTime, rfl, pilotPeriod_state h hst⟩,
    fun s high low edges period highTime h hn =>
      ⟨s.pilotPeriod high low edges period highTime, rfl, pilotPeriod_noPwm h (pilotPwm_false hn)⟩,
    fun s low high period highTime h hl h1 h2 hle hds => ⟨s.pilotPeriod high (some low) true period highTime, rfl,
      pilotPeriod_duty h (pilotPwm_true hl h1 h2) ?_ hle hds⟩,
    fun s vpp v33 h hv hb => ⟨s.proximity vpp v33, rfl, proximity_open h hv hb⟩,
    fun s vpp v33 h hv b hr h1 h4 hb => ⟨s.proximity vpp v33, rfl, proximity_cable h hv (Option.some.inj hr) h1 h4 hb⟩,
    fun s high low edges period highTime vpp v33 h =>
      ⟨congrArg Host.Outcome.next (pilotPeriod_of_not h), congrArg Host.Outcome.next (proximity_of_not h)⟩⟩
  unfold pilotDuty
  rw [Nat.max_eq_right (by omega)]

end Sys2Proof.Machine
end
